-- ==== Sys2Proof/Word.lean ====
section
/-! DEFINITION. The word types of the block (R8, R13): bytes, 32-bit and 64-bit words, and the plain names for
identifiers. Helpers that compute with them stand in Machine/Bits.lean. -/

namespace Sys2Proof

/-- One byte of device memory, scratch or an image (R8). -/
abbrev Byte := BitVec 8

/-- A 32-bit word. -/
abbrev W32 := BitVec 32

/-- A 64-bit word. -/
abbrev W64 := BitVec 64

/-- A 384-bit digest (SHA-384 value, R81, R385). -/
abbrev Digest := BitVec 384

end Sys2Proof
end

