-- ==== Sys2Proof/Syntax.lean ====
section
/-! DEFINITION. The commands of the block: one constructor of `Instr` per row of the opcode table, with the row's
operands. A command is an event at the block's edge (a host access, a pin, a response, a frame, a TAP instruction) or
a step of one of its own engines (R12, R494 to R508, spec/95). -/

namespace Sys2Proof

/-- The requester of a host register access: HRP_INST and HRP_IVALID (R494). -/
structure Who where
  inst : BitVec 6
  valid : Bool
  deriving DecidableEq, Repr

/-- An on-block SRAM protection result of an access (R419). -/
inductive SramErr where
  | none | corrected | uncorrectable
  deriving DecidableEq, Repr

/-- Who issued the read whose response arrives (R423). -/
inductive Reader where
  /-- line `line` of the oldest started operation of a stream thread -/
  | stream (core : BitVec 4) (thread : BitVec 6) (line : Nat)
  /-- an instruction-cache fill of a core -/
  | icache (core : BitVec 4)
  /-- a basin fill, by image OBJECT slot and line -/
  | basin (slot : W32) (line : Nat)
  /-- the copy engine of a partition -/
  | copy (part : BitVec 3)
  /-- a command packet or INDIRECT packet of a queue -/
  | packet (queue : BitVec 13)
  /-- the fence record of the WAIT at the front of a queue, or of a SIGNAL ADD at its commit -/
  | fence (queue : BitVec 13)
  /-- the structure image during VERIFY -/
  | image
  /-- the operand record of the mailbox request in progress on a page -/
  | mailbox (page : BitVec 6)
  /-- the firmware patch during VERIFY_PATCH -/
  | patch
  /-- a rotation record or a first digest of SEC_OTP_CMD -/
  | otp
  /-- the unlock response -/
  | unlock
  /-- a line of a dirty bitmap of an instance -/
  | dirty (inst : BitVec 6)
  /-- the object table -/
  | objTable (index : BitVec 18)
  deriving DecidableEq, Repr

/-- The command whose commit happens: the oldest of a queue, or a station (R257). -/
inductive CommitTarget where
  | queue (q : BitVec 13)
  | station (st : BitVec 12)
  deriving DecidableEq, Repr

/-- What happens to a line of an instruction cache (R159): the line that a fetch misses comes in, a line read ahead comes in,
or a parity error drops the line at the PC. -/
inductive FillEvent where
  | line (poison : Bool)
  | ahead (poison : Bool)
  | parity
  deriving DecidableEq, Repr

/-- A path of the matrix engine (R197). -/
inductive MPath where
  | load | array | drain
  deriving DecidableEq, Repr

/-- A mailbox request: the page, the requester, SEQ, and the eight words (R355, R356). The opcode byte of word 0 is
the one of the row. -/
structure MbReq where
  page : BitVec 6
  who : Who
  seq : BitVec 16
  w0 : W64
  w1 : W64
  w2 : W64
  w3 : W64
  w4 : W64
  w5 : W64
  w6 : W64
  w7 : W64
  deriving DecidableEq, Repr

/-- Link-layer header of a received frame (R502): the link (0 TW, 1 to 4 PL0 to PL3), whether the CRC is valid, SEQ,
ACK and CREDITS, and, for AUTH frames, whether the tag verifies and the send counter (R506). -/
structure FrameHdr where
  link : BitVec 3
  crcOk : Bool
  seq : BitVec 16
  ack : BitVec 16
  credits : BitVec 8
  auth : Bool
  tagOk : Bool
  ctr : W64
  deriving DecidableEq, Repr

/-- Content of a HEARTBEAT (R506). -/
structure Heartbeat where
  state : BitVec 3
  role : Bool
  failover : Bool
  mirror : Bool
  swapBeat : Bool
  mask : BitVec 8
  hbMiss : BitVec 8
  planId : W32
  hbPeriod : BitVec 16
  beat : BitVec 48
  nsSince : W32
  lastRel : BitVec 48
  deriving DecidableEq, Repr

/-- The view a Chime word or completion write goes through (R458). -/
inductive ChView where
  | global
  | target (t : BitVec 3)
  deriving DecidableEq, Repr

/-- What a scrubber visits (R422). -/
inductive ScrubTarget where
  | scratch (core : BitVec 4) (line : Nat)
  | basin (slot : W32) (line : Nat)
  /-- a word of Keeper state (R419 unit 7) -/
  | keeper
  deriving DecidableEq, Repr

/-- Cause of a recovery stop, as FR_STOP records it (R430, R449). -/
structure StopCause where
  cause : BitVec 3
  sequencer : BitVec 4
  port : BitVec 8
  code : BitVec 16
  deriving DecidableEq, Repr

/-- A core, and what the protection of its memory finds as the command reads it (R419). -/
structure CoreErr where
  core : BitVec 4
  err : SramErr
  deriving DecidableEq, Repr

/-- A memory port, and whether its answer comes late (R424). -/
structure PortLate where
  port : BitVec 6
  late : Bool
  deriving DecidableEq, Repr

/-- The commands of the block, one constructor per row of the opcode table. An operand of type `Unit` carries nothing: what a
signature or a key unwrap yields is computed from the bytes in memory (log 4). -/
inductive Instr where
  -- resets, boot and power
  | porN (asserted : Bool)
  | blkRstN (asserted : Bool)
  | romInitDone (selfCheckOk : Bool)
  | load (who : Who)
  | patchVerifyDone (v : Unit)
  | fusedWindowAccess (who : Who) (off : BitVec 26) (write : Bool)
  | registerWrite (who : Who) (off : BitVec 26) (wide : Bool) (data : W64)
  | retReq
  | retAck
  | wake
  | chimeRestoreDone
  -- memory ports
  | mpTrainDone (port : BitVec 6) (level : Bool) (rdCredits : BitVec 12) (wrCredits : BitVec 12)
  | mpPause (port : BitVec 6) (level : Bool) (ns : W32)
  | mpThrottle (port : BitVec 6) (tag : BitVec 16) (asserted : Bool) (ns : W32)
  | data (port : BitVec 6) (poison : Bool) (late : Bool) (reader : Reader)
  | wack (a : PortLate)
  | adata (a : PortLate) (old : W64)
  | portFailed (port : BitVec 6)
  -- admission and the beat
  | start (who : Who)
  | abort (who : Who)
  | admissionVerifyDone (v : Unit)
  | admissionProveDone
  | firstImageSwap
  | beat
  | windowStart (part : BitVec 3) (win : BitVec 3)
  | windowEnd (part : BitVec 3) (win : BitVec 3)
  | stationLaunch (st : BitVec 12)
  | freeLaunch (part : BitVec 3) (t : W32)
  | boundOverrun (core : BitVec 4)
  | holdTimeout (core : BitVec 4)
  | jobEnd (core : BitVec 4)
  | commit (target : CommitTarget)
  | completionIndexWrite (queue : BitVec 13)
  | icacheFill (core : BitVec 4) (event : FillEvent)
  -- control instructions of a core
  | nop (core : BitVec 4)
  | halt (core : BitVec 4)
  | endOp (core : BitVec 4)
  | add (core : BitVec 4)
  | sub (core : BitVec 4)
  | mul (core : BitVec 4)
  | andOp (core : BitVec 4)
  | orOp (core : BitVec 4)
  | xorOp (core : BitVec 4)
  | shl (core : BitVec 4)
  | shr (core : BitVec 4)
  | sar (core : BitVec 4)
  | minOp (core : BitVec 4)
  | maxOp (core : BitVec 4)
  | slt (core : BitVec 4)
  | sltu (core : BitVec 4)
  | lih (core : BitVec 4)
  | ld (a : CoreErr)
  | st (core : BitVec 4)
  | b (core : BitVec 4)
  | beq (core : BitVec 4)
  | bne (core : BitVec 4)
  | blt (core : BitVec 4)
  | bge (core : BitVec 4)
  | bltu (core : BitVec 4)
  | bal (core : BitVec 4)
  | jr (core : BitVec 4)
  | mfs (core : BitVec 4)
  | fclrm (core : BitVec 4)
  -- stream instructions and engine steps
  | store (core : BitVec 4)
  | send (core : BitVec 4)
  | mcast (core : BitVec 4)
  | release (core : BitVec 4)
  | fence (core : BitVec 4)
  | streamOpStart (a : CoreErr) (thread : BitVec 6)
  | streamOpComplete (core : BitVec 4) (thread : BitVec 6)
  | tileArrival (a : CoreErr) (lane : BitVec 6)
  | creditReturn (a : CoreErr) (lane : BitVec 6)
  | counterUpdate (home : BitVec 4) (err : SramErr)
  | watchPush (core : BitVec 4)
  -- matrix engine
  | mwld (core : BitVec 4)
  | mma (core : BitVec 4)
  | mdrain (core : BitVec 4)
  | mzero (core : BitVec 4)
  | matrixOpStart (core : BitVec 4) (err : SramErr)
  | matrixOpComplete (core : BitVec 4) (path : MPath)
  -- vector engine
  | vadd (core : BitVec 4)
  | vsub (core : BitVec 4)
  | vmul (core : BitVec 4)
  | vfma (core : BitVec 4)
  | vmin (core : BitVec 4)
  | vmax (core : BitVec 4)
  | vclamp (core : BitVec 4)
  | vabs (core : BitVec 4)
  | vneg (core : BitVec 4)
  | vcopy (core : BitVec 4)
  | vrcp (core : BitVec 4)
  | vrsqrt (core : BitVec 4)
  | vsqrt (core : BitVec 4)
  | vexp2 (core : BitVec 4)
  | vlog2 (core : BitVec 4)
  | vcmp (core : BitVec 4)
  | vsel (core : BitVec 4)
  | vmand (core : BitVec 4)
  | vmor (core : BitVec 4)
  | vmnot (core : BitVec 4)
  | vrsum (core : BitVec 4)
  | vrmax (core : BitVec 4)
  | vrmin (core : BitVec 4)
  | vcvt (core : BitVec 4)
  | vcompress (core : BitVec 4)
  | vexpand (core : BitVec 4)
  | vectorGroupStart (core : BitVec 4) (err : SramErr)
  | vectorGroupComplete (core : BitVec 4)
  -- verifier, queues and command packets
  | verifyScanDone
  | loaderModeWrite (who : Who) (data : W32)
  | doorbell (page : BitVec 6) (who : Who) (data : W64)
  | queueFetchSlot (part : BitVec 3)
  | fetchRetry (queue : BitVec 13)
  | launch (queue : BitVec 13)
  | copy (queue : BitVec 13)
  | fill (queue : BitVec 13)
  | copyFillStart (part : BitVec 3)
  | copyFillComplete (part : BitVec 3)
  | wait (queue : BitVec 13)
  | waitSatisfied (queue : BitVec 13)
  | signal (queue : BitVec 13)
  | barrier (queue : BitVec 13)
  | objectMapNew (queue : BitVec 13)
  | objectMapImport (queue : BitVec 13)
  | objectMapBind (queue : BitVec 13)
  | objectFree (queue : BitVec 13)
  | freeComplete (index : BitVec 18)
  | timestamp (queue : BitVec 13)
  | counterDump (queue : BitVec 13)
  | indirect (queue : BitVec 13)
  | nopPacket (queue : BitVec 13)
  | basinFillDone (slot : W32)
  | objTableEnable (who : Who) (data : W64)
  | objTableInitDone
  -- mailbox requests and teardown
  | ctxCreate (m : MbReq)
  | ctxDestroy (m : MbReq)
  | queueCreate (m : MbReq)
  | queueDestroy (m : MbReq)
  | queueReset (m : MbReq)
  | counterAlloc (m : MbReq)
  | instCreate (m : MbReq)
  | instDisableSquash (m : MbReq)
  | instDisableDrain (m : MbReq)
  | drainTimeout (inst : BitVec 6)
  | disableComplete (inst : BitVec 6)
  | instEnable (m : MbReq)
  | instReset (m : MbReq)
  | teardownStepDone (ctx : BitVec 11)
  | instBind (m : MbReq)
  | keyLoad (m : MbReq) (v : Unit)
  | keyErase (m : MbReq)
  | attest (m : MbReq)
  | attestSigned
  | recRing (m : MbReq)
  -- partitions, shares, Regulator, preemption
  | stop (who : Who) (queue : BitVec 13)
  | restart (who : Who) (queue : BitVec 13)
  | rebind (who : Who) (queue : BitVec 13) (part : BitVec 3)
  | rebindComplete
  | grant (who : Who) (size : BitVec 25)
  | releaseShare (who : Who)
  | scratchClearDone (core : BitVec 4)
  | weightWrite (who : Who) (data : W32)
  | preemptQueue (who : Who) (target : BitVec 16)
  | preemptContext (who : Who) (target : BitVec 16)
  | preemptInstance (who : Who) (target : BitVec 16)
  | preemptCores (who : Who) (part : BitVec 3) (mask : BitVec 16)
  | preemptWaitExpiry (part : BitVec 3) (t : W32)
  | remoteLimit (core : BitVec 4)
  -- sync counters and flights
  | setOp (who : Who) (value : W32)
  | reclaim (who : Who)
  | flightCreate (who : Who)
  | flightReset (who : Who)
  | flightBreak (who : Who)
  | flightDestroy (who : Who)
  | flightWatchdog (flight : BitVec 10)
  | arrive (h : FrameHdr) (flight : BitVec 10) (round : W32)
  | releaseMessage (h : FrameHdr) (flight : BitVec 10) (round : W32)
  | breakMsg (h : FrameHdr) (flight : BitVec 10) (round : W32)
  -- security
  | programFirst (who : Who)
  | rotate (who : Who) (v : Unit)
  | revoke (who : Who) (slot : BitVec 2)
  | unlock (who : Who) (v : Unit)
  | unlockComplete
  | glitch (source : BitVec 5)
  -- twin
  | pair (who : Who)
  | handover (who : Who)
  | claim (who : Who)
  | unpair (who : Who)
  | hello (h : FrameHdr) (digest : Digest)
  | proof (h : FrameHdr) (keysDigest : Digest) (sigsOk : Bool) (latencyNs : BitVec 16)
  | heartbeat (h : FrameHdr) (c : Heartbeat)
  | heartbeatSend
  | heartbeatLost
  | yield (h : FrameHdr) (kind : BitVec 8) (lastRel : BitVec 48)
  | recoveryLost (h : FrameHdr) (lastRel : BitVec 48)
  | twWitness (level : Bool)
  -- faults and recovery
  | serviceLoopOverrun (sequencer : Bool)
  | recoveryStop (c : StopCause)
  | watchdogFire
  | scrub (target : ScrubTarget) (err : SramErr)
  | refill (who : Who) (slot : W32)
  -- Chime
  | pendingWrite (who : Who) (view : ChView) (word : BitVec 4) (data : W64)
  | maskWrite (who : Who) (view : ChView) (word : BitVec 4) (data : W64)
  | complete (who : Who) (view : ChView) (data : W32)
  | srcCfgWrite (who : Who) (source : BitVec 10) (data : W32)
  | moderationTimeout (target : BitVec 3)
  | chIdle (target : BitVec 3) (level : Bool)
  -- counters, trace and debug
  | pmReset (who : Who)
  | traceOff (who : Who)
  | traceEvents (who : Who)
  | traceFull (who : Who) (cores : BitVec 16)
  | traceFrameSend
  | take (who : Who)
  | snapshotDone
  | haltAll (who : Who)
  | dbgRelease (who : Who) (cores : BitVec 16)
  | bypass (tdi : Bool)
  | idcode
  | status
  | challenge
  | response (bytes : List Byte)
  | tapUnlock (update : Bool) (v : Unit)
  | tapHaltAll (update : Bool)
  | scanSel (chain : BitVec 16)
  | scanData
  | scratchAddr (value : W32)
  | scratchData
  -- dirty log
  | dirtyEnable (who : Who)
  | dirtyFlip (who : Who)
  | dirtyDisable (who : Who)
  | flipDone (inst : BitVec 6)
  -- links
  | linkEnable (who : Who) (link : BitVec 3) (enable : Bool)
  | phyLock (link : BitVec 3) (level : Bool)
  | linkInit (h : FrameHdr) (buffers : BitVec 8) (digest : Digest)
  | linkInitTimer (link : BitVec 3)
  | idle (h : FrameHdr)
  | nak (h : FrameHdr) (expected : BitVec 16)
  | linkSilence (link : BitVec 3)
  -- rows at the table's end
  | streamLoad (core : BitVec 4)
  | killComplete (core : BitVec 4)
  | fuseCommandDone
  | importKeyRegenerationDone
  | idleSend (link : BitVec 3)
  deriving DecidableEq, Repr

end Sys2Proof
end

