-- ==== Sys2Proof/Decode.lean ====
section
/-! DEFINITION. The commands of the block are events with operands; no row of the opcode table gives a bit pattern, so
no word spells a command. -/

namespace Sys2Proof

/-- The command that a word spells by the table's bits: no row of the table has any, so none. -/
def decodeTableWord (_nbits _w : Nat) : Option Instr := none

end Sys2Proof
end

