-- ==== Sys2Proof/Config.lean ====
section
/-! DEFINITION. What is fixed for the block: the reason codes of R15, and the values the spec leaves open or takes
from algorithms it does not define. An `opaque` constant has no body: no statement
can rest on its value (log entries 4 and 5). -/

namespace Sys2Proof.Config

/-- Free values for bytes the spec leaves undefined (log entry 5). -/
opaque freeByte : Nat → Byte

/-- Free values for words the spec calls random or does not fix (log entry 5). -/
opaque freeWord : Nat → W64

/-- Free 384-bit values: nonces and challenges (log entry 5). -/
opaque freeDigest : Nat → Digest

/-- Arithmetic cycles that an update takes to a home core: by the source's place in the order of R301, the home core and the
cycle in which it is sent (R301, R302; log entry 88). -/
opaque travel : (source : Nat) → (home : Nat) → (cycle : Nat) → Nat

/-- Whether ECDSA P-384 (FIPS 186-5) verifies a 96-byte signature over a digest with a 96-byte public key (R81 step 4; log
entry 4). -/
opaque ecdsaVerifies : (pub : List Byte) → (sig : List Byte) → Digest → Bool

/-- Whether ML-DSA-65 (FIPS 204) verifies a signature over the 48 bytes of a digest, with the empty context string (R81
step 5; log entry 4). -/
opaque mldsaVerifies : (pub : List Byte) → (sig : List Byte) → Digest → Bool

/-- The public keys of the identity key pairs that the boot ROM derives from the identity seed, ECDSA then ML-DSA (R384,
R385; log entry 4). -/
opaque identityPublic : (seed : BitVec 256) → List Byte

/-- The signature over a digest with the identity ECDSA key (`mldsa` false) or the identity ML-DSA key of a seed (R403; log
entry 4). -/
opaque identitySignature : (seed : BitVec 256) → (mldsa : Bool) → Digest → List Byte

/-- The public parts of the import key pairs whose private parts come from the words given, ECDH then ML-KEM (R389; log
entry 4). -/
opaque importPublic : (priv : List W64) → List Byte

/-- Z of R391: the x-coordinate of the ECDH product of the private import key and a public key (log entry 4). -/
opaque ecdhProduct : (priv : List W64) → (pub : List Byte) → List Byte

/-- K of R391: the ML-KEM-768 shared secret of a ciphertext under the private import key (log entry 4). -/
opaque mlkemSecret : (priv : List W64) → (ciphertext : List Byte) → List Byte

/-- Reason codes of R15. -/
def NONE : BitVec 16 := 0x0000#16
def CYCLE_BOUND : BitVec 16 := 0x0101#16
def ENERGY_CAP : BitVec 16 := 0x0102#16
def FUSED_PATH : BitVec 16 := 0x0103#16
def NO_PLACEMENT : BitVec 16 := 0x0104#16
def SCRATCH_SHORT : BitVec 16 := 0x0105#16
def BASIN_SHORT : BitVec 16 := 0x0106#16
def CHANNEL_SHORT : BitVec 16 := 0x0107#16
def COUNTER_SHORT : BitVec 16 := 0x0108#16
def IMAGE_MALFORMED : BitVec 16 := 0x0109#16
def BEAT_RANGE : BitVec 16 := 0x010A#16
def MIRROR_UNPAIRED : BitVec 16 := 0x010B#16
def TRACE_INFLATED : BitVec 16 := 0x010C#16
def STALE_HANDLE : BitVec 16 := 0x0201#16
def ENGINE_ABSENT : BitVec 16 := 0x0202#16
def BOUND_EXCEEDS_WINDOW : BitVec 16 := 0x0203#16
def PACKET_MALFORMED : BitVec 16 := 0x0204#16
def INDIRECT_DEPTH : BitVec 16 := 0x0205#16
def HANDLE_RIGHTS : BitVec 16 := 0x0206#16
def WAIT_TABLE_FULL : BitVec 16 := 0x0207#16
def ILLEGAL_OPCODE : BitVec 16 := 0x0301#16
def PROGRAM_REPLACED : BitVec 16 := 0x0302#16
def BOUND_OVERRUN : BitVec 16 := 0x0303#16
def SCRATCH_RANGE : BitVec 16 := 0x0304#16
def COUNTER_OWNER : BitVec 16 := 0x0305#16
def FORMAT_MISMATCH : BitVec 16 := 0x0306#16
def BREAKPOINT : BitVec 16 := 0x0307#16
def MEM_POISON : BitVec 16 := 0x0401#16
def MEM_TRANSLATION : BitVec 16 := 0x0402#16
def COUNTER_OVERFLOW : BitVec 16 := 0x0403#16
def COUNTER_UNDERFLOW : BitVec 16 := 0x0404#16
def FLIGHT_TIMEOUT : BitVec 16 := 0x0405#16
def FLIGHT_BROKEN : BitVec 16 := 0x0406#16
def ABANDONED : BitVec 16 := 0x0407#16
def SRAM_UNCORRECTABLE : BitVec 16 := 0x0408#16
def RECOVERY_LOST : BitVec 16 := 0x0409#16
def MEM_PAUSE_OVERRUN : BitVec 16 := 0x040A#16
def REPLAY_OVERRUN : BitVec 16 := 0x040B#16
def SIGNATURE_FAIL : BitVec 16 := 0x0501#16
def GLITCH : BitVec 16 := 0x0502#16
def DEBUG_ATTACK : BitVec 16 := 0x0503#16
def KEY_MISUSE : BitVec 16 := 0x0504#16
def TWIN_AUTH_FAIL : BitVec 16 := 0x0505#16
def ACCESS_DENIED : BitVec 16 := 0x0506#16
def HEARTBEAT_LOST : BitVec 16 := 0x0601#16
def LINK_DOWN : BitVec 16 := 0x0602#16
def RELEASE_DENIED : BitVec 16 := 0x0603#16
def FAILOVER_TAKEN : BitVec 16 := 0x0604#16
def REMOTE_LIMIT : BitVec 16 := 0x0605#16

/-- The listed reason codes but NONE: those of each class, from its number and how many it has (R15). -/
def errorCodes : List (BitVec 16) :=
  [(1, 12), (2, 7), (3, 7), (4, 11), (5, 6), (6, 5)].flatMap fun c =>
    (List.range c.2).map fun k => BitVec.ofNat 16 (256 * c.1 + k + 1)

/-- Whether a 16-bit value is a listed reason code (R14, R15). -/
def listedCode (c : BitVec 16) : Bool := c == NONE || errorCodes.contains c

/-- A listed error code picked by a free word, where the spec states no code: a value that is not listed is never reported
(R14; log entry 47). -/
def freeCode (w : W64) : BitVec 16 := errorCodes.getD (w.toNat % errorCodes.length) ILLEGAL_OPCODE

end Sys2Proof.Config
end

