-- ==== Sys2Proof/Machine/Bits.lean ====
section
/-! DEFINITION. Bit fields, byte order (R8: little-endian) and saturating counts. -/

namespace Sys2Proof.Machine

/-- Bits hi to lo of a number (R8). -/
def bitField (w hi lo : Nat) : Nat := (w >>> lo) % 2 ^ (hi + 1 - lo)

/-- Bit i of a number. -/
def bitAt (w i : Nat) : Bool := bitField w i i == 1

/-- 1 for true. -/
def b2n (b : Bool) : Nat := if b then 1 else 0

/-- The n low bytes of a number, lowest first (R8). -/
def leBytes : Nat → Nat → List Byte
  | 0, _ => []
  | n + 1, v => BitVec.ofNat 8 v :: leBytes n (v / 256)

/-- The number that little-endian bytes spell (R8). -/
def leNat : List Byte → Nat
  | [] => 0
  | b :: r => b.toNat + 256 * leNat r

/-- The number of `len` little-endian bytes at `off` of a byte list. -/
def leAt (bs : List Byte) (off len : Nat) : Nat := leNat ((bs.drop off).take len)

/-- Word j of a byte string (R8). -/
def wordAt (bs : List Byte) (j : Nat) : W64 := BitVec.ofNat 64 (leAt bs (8 * j) 8)

/-- The number that big-endian bytes spell. -/
def beNat (bs : List Byte) : Nat := leNat bs.reverse

/-- Round up to a multiple of a. -/
def roundUp (a v : Nat) : Nat := (v + a - 1) / a * a

/-- Quotient rounded up. -/
def ceilDiv (n d : Nat) : Nat := (n + d - 1) / d

/-- Saturating increment of a counter (R8: "saturating at" all ones). -/
def satInc {w : Nat} (v : BitVec w) : BitVec w := if v = BitVec.allOnes w then v else v + 1#w

/-- A number cut at the largest value of a field. -/
def satNat (w v : Nat) : BitVec w := if v < 2 ^ w then BitVec.ofNat w v else BitVec.allOnes w

/-- Set bits of a mask of `n` bits, lowest first. -/
def setBits (n m : Nat) : List Nat := (List.range n).filter (bitAt m)

/-- The mask with the listed bits set. -/
def maskOf (l : List Nat) : Nat := l.eraseDups.foldl (fun a i => a + 2 ^ i) 0

/-- Two byte ranges overlap. -/
def overlaps (a la b lb : Nat) : Bool := decide (a < b + lb) && decide (b < a + la)

/-- Insert an element before the first that it may stand before. -/
def insertBy {α : Type} (le : α → α → Bool) (x : α) : List α → List α
  | [] => [x]
  | y :: r => if le x y then x :: y :: r else y :: insertBy le x r

/-- A list put in order; of equals, the earlier stays first. -/
def sortBy {α : Type} (le : α → α → Bool) (l : List α) : List α := l.foldr (insertBy le) []

/-- Insert into a list of naturals kept rising without repeats. -/
def insertNat (k : Nat) : List Nat → List Nat
  | [] => [k]
  | x :: r => if k < x then k :: x :: r else if k = x then x :: r else x :: insertNat k r

/-- A 384-bit value as its six 64-bit words, byte 0 in the low byte of word 0. -/
def digestWord (d : Digest) (i : Nat) : W64 := BitVec.ofNat 64 (d.toNat >>> (64 * i))

/-- A digest as a 48-byte big-endian number (R444). -/
def digestBE (d : Digest) : Nat := beNat (leBytes 48 d.toNat)

/-- Six 64-bit words, or any byte string, as a digest. -/
def digestOfBytes (bs : List Byte) : Digest := BitVec.ofNat 384 (leNat (bs.take 48))

/-- Replace the 32-bit half of a 64-bit value (R11). -/
def setHalf (old : W64) (high : Bool) (d : W64) : W64 :=
  if high then BitVec.ofNat 64 (old.toNat % 2 ^ 32 + (d.toNat % 2 ^ 32) * 2 ^ 32)
  else BitVec.ofNat 64 (old.toNat / 2 ^ 32 * 2 ^ 32 + d.toNat % 2 ^ 32)

end Sys2Proof.Machine
end

