-- ==== Sys2Proof/Machine/State.lean ====
section
/-! DEFINITION. The state of the block as plain data: every register, table, queue, buffer, counter, mode and pin the
spec gives it, and the queue of waiting commands. Indexed collections are sorted lists of (index, value) pairs; an index
that is not listed holds the collection's default (`Tbl`). -/

namespace Sys2Proof.Machine

/-- An indexed collection: (index, value) pairs, indices strictly rising. -/
abbrev Tbl (α : Type) := List (Nat × α)

/-- Reasons the model stops with a fault. -/
inductive Fault where
  /-- Raised by every access to device memory whose address is at or above 2^48, which does not exist (R13). Safe: the
  model stops where the hardware has no such address. -/
  | addressSpace
  deriving DecidableEq, Repr

/-- Reasons the model refuses a command. -/
inductive Refusal where
  /-- Only an arm of `exec` that has no meaning yet answers it. Safe: the model stops. -/
  | notModelled (mnemonic : String)
  deriving DecidableEq, Repr

/-! ## Fuses, power, boot and ports -/

/-- Fuses, tie-offs and values the boot ROM derives from them (R2, R384 to R387, R484, R500). -/
structure Fuses where
  grade : W32
  portPresent : BitVec 48
  romVersion : W32
  ownerProgrammed : BitVec 4
  ownerRevoked : BitVec 4
  ownerDigest : Tbl Digest
  /-- the device identity seed, which no register shows (R384) -/
  idSeed : BitVec 256
  ovirasaDigest : Digest
  manufacturer : BitVec 11
  deriving DecidableEq, Repr

/-- Power states (R491). -/
inductive PowerState where
  | off | on | retention
  deriving DecidableEq, Repr

/-- Boot states (R509). -/
inductive BootState where
  | reset | romInit | waitPatch | verifyPatch | ready | failed
  deriving DecidableEq, Repr

/-- Reset pins, power and boot (R489 to R493, R509 to R511, R515). -/
structure Boot where
  power : PowerState
  porAsserted : Bool
  blkAsserted : Bool
  retReq : Bool
  retAck : Bool
  /-- retention entry has begun and not ended (R492) -/
  retEntering : Bool
  /-- the Chime restore of a wake is running (R463) -/
  chimeRestoring : Bool
  state : BootState
  wake : Bool
  patchVersion : W32
  code : BitVec 16
  patchAddr : BitVec 48
  patchLen : W32
  patchDigest : Digest
  hostErr : W32
  deriving DecidableEq, Repr

/-- One memory port (R424, R497, R499, R500). -/
structure Port where
  trained : Bool
  open' : Bool
  failed : Bool
  paused : Bool
  rdCredits : BitVec 12
  wrCredits : BitVec 12
  poisonCount : BitVec 16
  lateCount : W32
  /-- REPLAY_OVERRUN was raised for the port in this beat (R424) -/
  lateThisBeat : Bool
  /-- requester tags the controller throttles (R425) -/
  throttled : List (BitVec 16)
  /-- Keeper atomics without a response, and the old value of the latest response (R496) -/
  atomicsOut : Nat
  lastAtomic : W64
  deriving DecidableEq, Repr

/-- On whose behalf a write was issued (R279, R267, R122, R360, R378). -/
inductive WriteOwner where
  | store (core : Nat) (thread : Nat) (op : Nat)
  | record (queue : Nat) (index : W32)
  | fence (index : Nat)
  | inst (inst : Nat)
  | dirty (inst : Nat)
  | keeper
  deriving DecidableEq, Repr

/-- A write handed to a memory port and not yet acknowledged (R496). -/
structure WriteReq where
  port : Nat
  addr : Nat
  len : Nat
  inst : Nat
  /-- context on whose behalf it was issued, if one (R368) -/
  ctx : Option Nat
  owner : WriteOwner
  /-- instances whose flip in progress waits for it (R378) -/
  flips : List Nat
  deriving DecidableEq, Repr

/-! ## Escapement, image and admission -/

/-- The Escapement (R16 to R21, R40, R54). -/
structure Esc where
  running : Bool
  periodUs : BitVec 17
  beatCount : BitVec 48
  time : W64
  beatTime : W64
  capDw : BitVec 12
  pauseSeen : BitVec 8
  /-- half-phase of the 500 MHz arithmetic clock against the 1 GHz Keeper clock -/
  phase : Bool
  /-- this beat is the swap beat of an image (R90, R177) -/
  swapBeat : Bool
  deriving DecidableEq, Repr

/-- Window classes (R22). -/
inductive WinClass where
  | graph | free
  deriving DecidableEq, Repr

/-- A WINDOW entry (R65). -/
structure Window where
  part : Nat
  index : Nat
  cls : WinClass
  startUs : Nat
  lenUs : Nat
  guardExtra : Nat
  deriving DecidableEq, Repr

/-- A PARTITION entry (R63). -/
structure Partition where
  index : Nat
  coreCount : Nat
  realtime : Bool
  mirrored : Bool
  windowCount : Nat
  freeDw : Nat
  resPorts : Nat
  resWays : Nat
  grant : BitVec 64
  freeScratch : Nat
  deriving DecidableEq, Repr

/-- A STATION entry (R66). -/
structure Station where
  index : Nat
  part : Nat
  win : Nat
  cores : Nat
  features : BitVec 2
  graph : Nat
  bound : Nat
  energyUj : Nat
  share : Nat
  progOffset : Nat
  progLen : Nat
  entry : Nat
  key : W64
  objFirst : Nat
  objCount : Nat
  deriving DecidableEq, Repr

/-- An EDGE entry (R68). -/
structure Edge where
  src : Nat
  dst : Nat
  staged : Bool
  mib : Nat
  tileBytes : Nat
  deriving DecidableEq, Repr

/-- A COUNTER entry (R70). -/
structure CounterDecl where
  key : W32
  waiter : Nat
  graph : Nat
  error : Bool
  initial : W32
  deriving DecidableEq, Repr

/-- An OBJECT entry (R72). -/
structure SlotDecl where
  slot : W32
  inst : Nat
  reserved : Bool
  output : Bool
  isSealed : Bool
  part : Nat
  size : Nat
  basinBytes : Nat
  deriving DecidableEq, Repr

/-- The MIRROR section (R75). -/
structure Mirror where
  mask : BitVec 8
  role : Bool
  failover : Bool
  hbPeriod : Nat
  hbMiss : Nat
  planId : W32
  twinDigest : Digest
  deriving DecidableEq, Repr

/-- The parsed tables of a structure image (R55 to R83). -/
structure Image where
  imageId : W32
  seq : W32
  needs : BitVec 2
  digest : Digest
  /-- device address of the image and of its PROGRAM section (R83) -/
  base : Nat
  len : Nat
  progBase : Nat
  progLen : Nat
  periodUs : Nat
  capDw : Nat
  pausesPerBeat : Nat
  pauseMaxUs : Nat
  replayNs : Nat
  parts : List Partition
  windows : List Window
  stations : List Station
  edges : List Edge
  counters : List CounterDecl
  slots : List SlotDecl
  mirror : Option Mirror
  tamper : List (BitVec 2)
  deriving DecidableEq, Repr

/-- What admission decides about an image (R31 to R34, R101, R114, R297). -/
structure Placement where
  /-- cores of each partition, in rising order -/
  partCores : List (List Nat)
  /-- the cores bound to each station's slots, in slot order -/
  stationCores : List (List Nat)
  /-- the share base of each station on its cores: (station, core, offset) -/
  shareBase : List (Nat × Nat × Nat)
  /-- ID of each COUNTER entry -/
  counterId : List Nat
  resPorts : List (List Nat)
  resWays : List (List Nat)
  slack : List (Nat × Nat × Nat)
  deriving DecidableEq, Repr

/-- Admission unit states (R26). -/
inductive AuState where
  | idle | verify | prove | armed
  deriving DecidableEq, Repr

/-- The AU_REFUSAL fields (R54). -/
structure AuRefusal where
  pass : Bool
  coreValid : Bool
  windowValid : Bool
  core : BitVec 4
  window : BitVec 3
  part : BitVec 3
  station : BitVec 16
  code : BitVec 16
  deriving DecidableEq, Repr

/-- A full-trace request held while the admission unit is busy (R43). -/
inductive TraceReq where
  | none | held | granted | turnOff
  deriving DecidableEq, Repr

/-- The admission unit and the registers of R54 and R95. -/
structure Au where
  state : AuState
  imageAddr : BitVec 48
  imageLen : W32
  lastCode : BitVec 16
  inflateActive : Bool
  admitted : Bool
  refused : Bool
  busyReject : Bool
  refusal : AuRefusal
  deficit : BitVec 48
  sigDetail : BitVec 5
  activeBeat : BitVec 48
  swapKept : BitVec 8
  swapChanged : BitVec 8
  swapCounters : BitVec 8
  /-- the image under admission and its placement -/
  cand : Option Image
  candPlace : Option Placement
  candSlot : BitVec 2
  /-- the candidate was proved with inflation (R29 check 13) -/
  candInflated : Bool
  /-- bytes of objects resident at (core scratch | basin way): (slot object, isWay, location, bytes) (R30) -/
  residency : List (Nat × Bool × Nat × Nat)
  /-- the same for objects that lie in the scratch shares of resident contexts (R30) -/
  shareResidency : List (Nat × Bool × Nat × Nat)
  traceReq : TraceReq
  deriving DecidableEq, Repr

/-- State of a binding of an object slot (R253, R123). -/
structure Binding where
  /-- object entry bound -/
  obj : Nat
  ctx : Nat
  /-- the basin copy of the slot is complete, or none is needed -/
  filled : Bool
  /-- a REFILL runs (R421) -/
  refilling : Bool
  deriving DecidableEq, Repr

/-- A basin copy of a slot: its bytes at the time of the fill and its poisoned lines with their codes (R123, R421). -/
structure BasinCopy where
  bytes : Tbl Byte
  /-- bytes that the copy covers -/
  len : Nat
  badLines : List (Nat × BitVec 16)
  deriving DecidableEq, Repr

/-- What a station has done in the current beat (R23, R52, R74). -/
inductive StationBeat where
  | waiting | skipped | running | ended | committed | killed
  deriving DecidableEq, Repr

/-- The running image (R88) and its state in the current beat. -/
structure Running where
  img : Image
  place : Placement
  imageSlot : BitVec 2
  /-- partitions that launch nothing in this swap beat (R90) -/
  changedNow : List Nat
  /-- per-beat status of stations -/
  beat : Tbl StationBeat
  /-- open window of each partition -/
  openWin : Tbl Nat
  /-- graphs killed in this beat (R52) -/
  killedGraphs : List Nat
  /-- queue commands passed over for the rest of a partition's window (R50): (partition, command number) -/
  passed : List (Nat × Nat)
  bindings : Tbl Binding
  deriving DecidableEq, Repr

/-! ## Generations and verifier -/

/-- Generation states (R164). -/
inductive GenState where
  | free | live | replaced
  deriving DecidableEq, Repr

/-- Verdict of the loader verifier on a generation (R174 to R178). -/
inductive Verdict where
  | notNeeded | queued | verified
  | rejected (code : BitVec 16) (offset : Nat) (station : BitVec 16)
  deriving DecidableEq, Repr

/-- A generation table entry (R160). -/
structure Gen where
  state : GenState
  number : W64
  base : Nat
  len : Nat
  entry : Nat
  features : BitVec 2
  station : Bool
  /-- the program object is ENCRYPTED under this key slot (R401) -/
  keySlot : Option Nat
  progHandle : W32
  progOffset : Nat
  /-- written 4 KiB pages, counted from the page that holds the base (R160, R167) -/
  written : List Nat
  verdict : Verdict
  /-- last use, for reclaim in least-recently-used order (R162) -/
  used : Nat
  deriving DecidableEq, Repr

/-- Keeper registers of the loader and the general ones (R179, R293, R349, R380). -/
structure Keeper where
  loaderMode : BitVec 2
  verifyQueue : List Nat
  vfValid : Bool
  vfEntry : BitVec 13
  vfStation : BitVec 16
  vfCode : BitVec 16
  vfOffset : W32
  fusedAccess : W32
  nextGen : W64
  genClock : Nat
  objBase : BitVec 48
  objEnable : Bool
  objInitBusy : Bool
  queueSel : BitVec 13
  ctxSel : BitVec 11
  waitFullSeen : Bool
  remoteLimitUs : BitVec 20
  instSel : BitVec 6
  deriving DecidableEq, Repr

/-! ## Objects, contexts, queues and commands -/

/-- Object states (R244). -/
inductive ObjState where
  | free | mapped | freeing | orphaned
  deriving DecidableEq, Repr

/-- Object kinds (R244, R245). -/
inductive ObjKind where
  | plain | output | fence | record
  deriving DecidableEq, Repr

/-- An object table entry (R244). REFS is computed from its holders (R250). -/
structure Obj where
  base : Nat
  size : Nat
  gen : BitVec 14
  owner : BitVec 11
  state : ObjState
  kind : ObjKind
  writable : Bool
  isSealed : Bool
  encrypted : Bool
  share : Bool
  version : Bool
  bound : Bool
  basin : Bool
  shareInst : BitVec 6
  parent : Nat
  keySlot : BitVec 9
  /-- instance of the owning context at the mapping, which outlives the context (R252) -/
  inst : Nat
  deriving DecidableEq, Repr

/-- Context states (R241). -/
inductive CtxState where
  | free | live | faulted | teardown
  deriving DecidableEq, Repr

/-- A counter record ring (R470). -/
structure RecRing where
  obj : Nat
  offset : Nat
  log2 : Nat
  seq : W32
  lost : W32
  deriving DecidableEq, Repr

/-- A teardown in progress (R368). -/
structure Teardown where
  /-- step that has begun, 1 to 8 -/
  step : Nat
  squashed : Nat
  killed : Nat
  /-- step 3 has closed its commits and begun its kills -/
  killing : Bool
  /-- entries that step 6 unmapped -/
  unmapped : List Nat
  /-- code of the faulting command, for a fault teardown -/
  faultCode : Option (BitVec 16)
  /-- instance whose INST_RESET runs it -/
  byReset : Bool
  /-- mailbox page whose CTX_DESTROY waits for the report -/
  page : Option Nat
  deriving DecidableEq, Repr

/-- A set of the 56 counter slots with remainders and overflow mask (R465 to R467). -/
structure PmSet where
  slots : Tbl Nat
  remainders : Tbl Nat
  ovf : BitVec 56
  since : W64
  deriving DecidableEq, Repr

/-- A context (R240, R241, R336, R400). -/
structure Ctx where
  state : CtxState
  inst : Nat
  weight : BitVec 8
  isSealed : Bool
  teardown : Option Teardown
  pm : PmSet
  ring : Option RecRing
  throttleNs : W64
  deriving DecidableEq, Repr

/-- Queue states (R272). -/
inductive QState where
  | free | idle | ready | active | waiting | stopped | error
  deriving DecidableEq, Repr

/-- The decoded body of a command packet (R281 to R292). -/
inductive Body where
  | launch (coresM1 : Nat) (features : BitVec 2) (hmask omask : BitVec 8) (prog : W32) (progOffset progLen entry bound : Nat)
      (args : List W64)
  | copy (src dst : W32) (srcOff dstOff len : Nat)
  | fill (dst : W32) (dstOff len : Nat) (pattern : W64)
  | waitFence (cont : Bool) (target : W32) (off : Nat) (threshold : W64)
  | waitCounter (cont : Bool) (id : BitVec 17) (threshold : W32)
  | signalFence (add : Bool) (target : W32) (off : Nat) (value : W64) (code : BitVec 16)
  | signalCounter (add : Bool) (id : BitVec 17) (value : W32)
  | barrier (cont : Bool) (flight : Nat) (epoch : W32)
  | mapNew (kind : ObjKind) (writable isSealed encrypted share basin : Bool) (shareInst : BitVec 6) (keySlot : BitVec 9)
      (handle : W32) (base size : Nat) (initial : W64)
  | mapImport (writable : Bool) (handle source : W32)
  | mapBind (handle slot : W32)
  | objFree (handle : W32)
  | timestamp (handle : W32) (off : Nat)
  | counterDump (isGlobal reset : Bool) (handle : W32) (off : Nat)
  | indirect (handle : W32) (off count : Nat)
  | nop
  /-- a packet that failed before it could be decoded -/
  | malformed (op : BitVec 8)
  deriving DecidableEq, Repr

/-- Progress of a command past fetch (R274, R257, R178). -/
inductive Phase where
  /-- validated, not started -/
  | fetched
  /-- a LAUNCH waiting for the verdict on its generation (R178) -/
  | verifying
  /-- an unsatisfied WAIT or BARRIER holding a pending-wait slot -/
  | pendingWait
  /-- running or started -/
  | started
  /-- complete, waiting for its commit -/
  | completed
  /-- committed; bytes 0x04 to 0x1F of the record written, INDEX not yet -/
  | recorded
  /-- ended, but teardown has squashed an earlier command of the queue: it will never commit (R369) -/
  | doomed
  deriving DecidableEq, Repr

/-- A command past fetch of a queue. -/
structure Cmd where
  index : W32
  tag : BitVec 16
  notify : Bool
  overlap : Bool
  body : Body
  phase : Phase
  code : BitVec 16
  submission : Bool
  coKilled : Bool
  ctxFault : Bool
  reruns : BitVec 16
  sub : BitVec 16
  detail : W64
  /-- object entries on which the command holds a reference (R250) -/
  refs : List Nat
  gen : Option Nat
  job : Option Nat
  /-- a packet of an INDIRECT, and its number (R291) -/
  inner : Option Nat
  /-- the current version of each object it reads, pinned at its start (R255): (object, version) -/
  pins : List (Nat × Bool)
  /-- objects whose staging version it has written (R257) -/
  wrote : List Nat
  /-- a BARRIER has counted its arrival (R319) -/
  arrived : Bool
  /-- outcome of a pending WAIT or BARRIER that completed while its instance was disabled: code and DETAIL (R364) -/
  met : Option (BitVec 16 × W64)
  /-- ESC_TIME at the start and end latches (R469) -/
  startTime : W64
  endTime : W64
  seqNo : Nat
  /-- counts of the final run by slot of R465, raw units; 56 is throttled ns (R469, R471) -/
  counts : Tbl Nat
  /-- cores of the job of a LAUNCH, as a mask -/
  cores : Nat
  /-- device address of a LAUNCH's ENTRY instruction (R471) -/
  prog : Nat
  deriving DecidableEq, Repr

/-- An INDIRECT whose packets are being fetched (R291): its entry, offset and count, and the next packet. -/
structure IndirectRun where
  obj : Nat
  off : Nat
  count : Nat
  next : Nat
  deriving DecidableEq, Repr

/-- Why a queue's next command is held unfetched (R275, R163, R248). -/
inductive Held where
  | none | waitSlot | generation | tableInit
  deriving DecidableEq, Repr

/-- A queue (R268 to R274, R336, R341). -/
structure Queue where
  state : QState
  ctx : Nat
  part : Nat
  ringLog2 : Nat
  ringObj : Nat
  ringOff : Nat
  complObj : Nat
  complOff : Nat
  head : W32
  tail : W32
  weight : BitVec 8
  vt : W64
  run : W64
  waitNs : W64
  lost : W64
  preempts : W32
  cmds : List Cmd
  indirect : Option IndirectRun
  held : Held
  stoppedByDisable : Bool
  /-- destroy requested from this page, waiting for the commands past fetch (R272) -/
  destroyBy : Option Nat
  /-- the queue counted as backlogged at the last evaluation (R337) -/
  backlogged : Bool
  deriving DecidableEq, Repr

/-! ## Instances and mailboxes -/

/-- Instance states (R358). -/
inductive InstState where
  | free | enabled | disabling | disabled | resetting
  deriving DecidableEq, Repr

/-- Pools and granted memory of an instance (R351). -/
structure Pools where
  ctxFirst : Nat
  ctxCount : Nat
  queueFirst : Nat
  queueCount : Nat
  objFirst : Nat
  objCount : Nat
  keyFirst : Nat
  keyCount : Nat
  ctrQuota : Nat
  waitQuota : Nat
  mem : List (Nat × Nat)
  deriving DecidableEq, Repr

/-- A mailbox page (R355, R380). -/
structure Page where
  req : Tbl W64
  rsp : Tbl W64
  done : Bool
  busy : Bool
  busyReject : Bool
  seq : BitVec 16
  code : BitVec 16
  /-- SEQ and opcode of the request in progress, and its latched words -/
  curSeq : BitVec 16
  curOp : BitVec 8
  cur : List W64
  noticeValid : Bool
  noticeLost : Bool
  noticeDisable : Bool
  noticeCtx : BitVec 11
  noticeKilled : BitVec 16
  noticeCode : BitVec 16
  deriving DecidableEq, Repr

/-- The dirty-page log of an instance (R376 to R378). The active bitmap's lines are written to memory through
`State.mem` at a flip; `set` holds the pages set since the active bitmap became active. -/
structure Dirty where
  base0 : BitVec 48
  base1 : BitVec 48
  enable : Bool
  active : Bool
  flipBusy : Bool
  flipDone : Bool
  /-- pages set in the active bitmap and not yet written back -/
  set : List Nat
  /-- pages of the old bitmap still to write back -/
  old : List Nat
  deriving DecidableEq, Repr

/-- A disable in progress (R360, R363). -/
structure Disabling where
  drain : Bool
  /-- fetch stopped; the drain phase before step 2 -/
  draining : Bool
  /-- step 4 has begun: nothing is written for the instance any more (R364) -/
  stopped : Bool
  killed : Nat
  deriving DecidableEq, Repr

/-- Totals of an INST_RESET in progress (R374). -/
structure ResetRun where
  squashed : Nat
  killed : Nat
  pending : Nat
  deriving DecidableEq, Repr

/-- An instance (R350 to R366, R389 to R391). -/
structure Inst where
  state : InstState
  pools : Pools
  page : Page
  weights : Tbl (BitVec 8)
  disabling : Option Disabling
  resetting : Option ResetRun
  /-- pools of earlier lives whose memory and objects stay held while an entry is not FREE (R375) -/
  held : List Pools
  bound : Bool
  bindDigest : Digest
  bindSecret : Digest
  dirty : Dirty
  deriving DecidableEq, Repr

/-- A latched attestation request, and what the signer sampled for it (R403, R406). -/
structure AttestReq where
  page : Nat
  ctx : Nat
  obj : Nat
  off : Nat
  nonce : List W64
  /-- bytes 0x000 to 0x1BF of the report, sampled when the signer took the request; none before -/
  body : Option (List Byte)
  deriving DecidableEq, Repr

/-! ## Shares, Regulator and jobs -/

/-- States of a context scratch share (R330, R331). -/
inductive ShareState where
  | clearing | live | releasing
  deriving DecidableEq, Repr

/-- One of the 512 share records (R329). -/
structure Share where
  ctx : Nat
  part : Nat
  off : Nat
  size : Nat
  state : ShareState
  isSealed : Bool
  /-- cores that have still to clear the range -/
  clearing : List Nat
  deriving DecidableEq, Repr

/-- Regulator registers of a partition and its slow-down counts (R338, R342, R348). -/
structure RgPart where
  slowAlert : BitVec 16
  preemptWaitUs : BitVec 20
  gv : W64
  /-- number of the LAUNCH that an automatic preemption is made for, which gets the freed cores first (R342) -/
  autoFor : Option Nat
  /-- job that the latest automatic preemption kills, and its cores, kept for that LAUNCH (R342) -/
  autoVictim : Option Nat
  autoCores : List Nat
  busy : W64
  memWait : W64
  skipped : BitVec 16
  passedOver : BitVec 16
  preempted : BitVec 16
  repBusy : W64
  repWait : W64
  repSlow : BitVec 16
  repSkipped : BitVec 16
  repPassed : BitVec 16
  repPreempted : BitVec 16
  throttleNs : W64
  /-- the command the partition's copy engine runs: queue and command number -/
  copyRun : Option (Nat × Nat)
  deriving DecidableEq, Repr

/-- Regulator registers (R349). -/
structure Rg where
  selPart : BitVec 3
  selLevel : BitVec 2
  selId : BitVec 13
  /-- the REBIND that waits for its queue's commands past fetch: queue and partition (R328 PENDING) -/
  rebind : Option (BitVec 13 × BitVec 3)
  resQueue : BitVec 13
  resCode : BitVec 16
  qSel : BitVec 13
  preBusy : Bool
  preLimitHit : Bool
  preKilled : BitVec 16
  /-- jobs whose kill the latest RG_PREEMPT still waits for -/
  preJobs : List Nat
  shareSelPart : BitVec 3
  shareSelCtx : BitVec 11
  shareCode : BitVec 16
  fetchTurn : BitVec 3
  cmdSeq : Nat
  deriving DecidableEq, Repr

/-- Why a job is being killed (R51, R171, R343, R361, R369, R413, R428). -/
inductive KillWhy where
  | fault | bound | preempt | disable | teardown | remoteLimit | stop
  deriving DecidableEq, Repr

/-- Whose work a job is. -/
inductive JobKind where
  | station (st : Nat)
  | free (queue : Nat) (index : W32) (seqNo : Nat)
  deriving DecidableEq, Repr

/-- Bytes that one STORE of a job has written to an object, as they went to memory (R130). -/
structure JobStore where
  root : Nat
  off : Nat
  bytes : List Byte
  core : Nat
  thread : Nat
  id : Nat
  fenced : Bool
  deriving DecidableEq, Repr

/-- A launched job (R134 to R138, R255, R309, R334). -/
structure Job where
  kind : JobKind
  part : Nat
  cores : List Nat
  gen : Nat
  bound : Nat
  killLimit : Nat
  features : BitVec 2
  launchBeat : BitVec 48
  launchTime : W64
  isSealed : Bool
  workLen : Nat
  hmask : List W32
  omask : List W32
  pins : List (Nat × Bool)
  wrote : List Nat
  /-- what its STOREs have written, and which of them a FENCE has covered (R130) -/
  stores : List JobStore
  /-- net change of each counter (R309) -/
  contrib : Tbl W32
  /-- flights in whose current round the job has arrived: (flight, round) (R322) -/
  arrivals : List (Nat × W32)
  /-- a preemption kill is deferred by a remote wait (R346) -/
  deferred : Bool
  /-- ESC_TIME at which the deferral began (R346) -/
  deferStart : W64
  kill : Option KillWhy
  killCode : BitVec 16
  coKilled : Bool
  detail : W64
  /-- cores whose kill has still to complete -/
  killing : List Nat
  /-- running counts of the run by slot of R465, raw units; 56 is throttled ns (R469) -/
  counts : Tbl Nat
  deriving DecidableEq, Repr

/-! ## Cores -/

/-- Core states (R179). -/
inductive CoreSt where
  | idle | running | held | killing
  deriving DecidableEq, Repr

/-- A counter watch of a waiting core: the value last pushed to it, and the values on their way, oldest first (R153). -/
structure Watch where
  id : BitVec 17
  value : W32
  pushes : List W32
  deriving DecidableEq, Repr

/-- A decoded signal whose registers were read at issue (R148, R156). -/
inductive Sig where
  | none | fset (n : Nat) | fclr (n : Nat) | cadd (id : BitVec 17) (amount : W32)
  deriving DecidableEq, Repr

/-- A resolved scratch operand: byte address in the core's scratch, or a lane tile (R141). -/
inductive SOp where
  | work (off : Nat)
  /-- receive lane, its ring slot that held the oldest tile at issue, and the offset in the tile (R103) -/
  | lane (l : Nat) (slot : Nat) (off : Nat)
  deriving DecidableEq, Repr

/-- A send lane (R97, R103, R115). -/
structure SendLane where
  credits : Nat
  slots : Nat
  hops : Nat
  tileBytes : Nat
  /-- consumer core and receive lane -/
  dstCore : Nat
  dstLane : Nat
  dstStation : Nat
  /-- credits on their way back -/
  returning : Nat
  /-- ring pointer: the slot the next tile goes to -/
  ptr : Nat
  deriving DecidableEq, Repr

/-- A tile on its way, with the signal that rides behind it (R120). -/
structure Flit where
  bytes : List Byte
  sig : Sig
  src : Nat
  /-- generation offset of the SEND that carries the signal (R171) -/
  pc : Nat
  /-- its place among the flits that its source core has sent (R112) -/
  order : Nat
  deriving DecidableEq, Repr

/-- A receive lane: a ring of tile slots in the reserve (R103, R115). -/
structure RecvLane where
  held : Nat
  slots : Nat
  hops : Nat
  tileBytes : Nat
  srcCore : Nat
  srcLane : Nat
  srcStation : Nat
  /-- ring pointer: the slot of the oldest held tile -/
  ptr : Nat
  /-- scratch offset of the ring's slot 0, in the lane reserve (R103) -/
  buf : Nat
  inFlight : List Flit
  deriving DecidableEq, Repr

/-- Stream operation kinds (R127). -/
inductive SKind where
  | load | store | send | mcast | fence
  deriving DecidableEq, Repr

/-- A stream operation issued to a thread, its register operands read (R127, R146, R156). -/
structure StreamOp where
  kind : SKind
  /-- slot number or handle, object entry and byte offset in the object -/
  objRef : W32
  off : Nat
  len : Nat
  scratch : SOp
  lanes : List Nat
  pc : Nat
  sig : Sig
  /-- k of the k-th MCAST of this slot (R125) -/
  round : Nat
  id : Nat
  /-- object entry, device address of byte 0 of the version used and lines covered, set at the start -/
  obj : Nat
  base : Nat
  total : Nat
  /-- the engine reads the lines itself: a LOAD, or the leader's MCAST (R125) -/
  leads : Bool
  /-- lines issued and lines landed (R129) -/
  issued : Nat
  landed : List Nat
  deriving DecidableEq, Repr

/-- A stream thread: operations not yet started, and started ones (R127, R128). -/
structure Thread where
  queue : List StreamOp
  active : List StreamOp
  deriving DecidableEq, Repr

/-- A weight bank (R180, R192). -/
structure Bank where
  fmt : BitVec 4
  arr : BitVec 2
  sparse : Bool
  bytes : List Byte
  deriving DecidableEq, Repr

/-- Matrix opcodes (R192). -/
inductive MKind where
  | mwld | mma | mdrain | mzero
  deriving DecidableEq, Repr

/-- A matrix instruction with its operands read at issue (R156, R192). -/
structure MatOp where
  kind : MKind
  fmt : BitVec 4
  mod : BitVec 16
  scratch : SOp
  row : Nat
  m : Nat
  /-- bytes of scratch it reads or writes, fixed when it starts (R189) -/
  size : Nat
  /-- arithmetic cycle in which its occupancy of its path ends (R199) -/
  ends : Nat
  pc : Nat
  sig : Sig
  deriving DecidableEq, Repr

/-- A vector instruction with its operands read at issue (R156, R213, R216). -/
structure VecOp where
  op : BitVec 8
  fmt : BitVec 4
  mod : BitVec 16
  shape : W64
  /-- values of the three sources: register value for kinds 1 to 4, chain number for kind 5 -/
  a : W64
  b : W64
  c : W64
  aField : Nat
  bField : Nat
  cField : Nat
  dest : W32
  shift : Nat
  dch : Nat
  /-- ring slots that lane-form sources A, B and C resolved to at issue -/
  slots : List Nat
  pc : Nat
  sig : Sig
  deriving DecidableEq, Repr

/-- The matrix engine of a core (R180 to R183, R197, R208). -/
structure Matrix where
  bank0 : Bank
  bank1 : Bank
  /-- accumulator words by row * 512 + column -/
  acc : Tbl W32
  queue : List MatOp
  running : List MatOp
  invalid : Bool
  overflow : Bool
  intSat : Bool
  deriving DecidableEq, Repr

/-- The vector engine of a core (R209, R218, R238). -/
structure Vector' where
  queue : List VecOp
  /-- groups that have started and not completed, oldest first -/
  groups : List (List VecOp)
  /-- the chain registers CH0 to CH3, 2 KiB each (R217) -/
  chains : Tbl (List Byte)
  /-- arithmetic cycle in which the occupancy of the latest group ends (R220, R221) -/
  busyUntil : Nat
  groupFault : BitVec 4
  invalid : Bool
  overflow : Bool
  intSat : Bool
  zeroDiv : Bool
  deriving DecidableEq, Repr

/-- The stream engine of a core (R127, R133). -/
structure Stream where
  threads : Tbl Thread
  nextId : Nat
  /-- tiles sent, which numbers the next (R112) -/
  sentTiles : Nat
  /-- MCASTs issued per slot (R125) -/
  mcasts : Tbl Nat
  /-- thread served last, for the round-robin of R129 -/
  turn : Nat
  fValid : Bool
  fThread : BitVec 6
  fOp : BitVec 3
  fStation : BitVec 16
  fCode : BitVec 16
  fAddr : BitVec 48
  deriving DecidableEq, Repr

/-- A line of the instruction cache: its tag and its bytes (R158). Lists run from the most recently used. -/
structure ICacheLine where
  entry : Nat
  line : Nat
  bytes : List Byte
  /-- a fetch has touched it since it came in (R159) -/
  touched : Bool
  deriving DecidableEq, Repr

/-- A core: control core, engines, scratch (R134 to R159, R179). -/
structure Core where
  st : CoreSt
  stall : BitVec 3
  pc : Nat
  job : Option Nat
  slot : Nat
  /-- END has issued (R138) -/
  ended : Bool
  regs : Tbl W64
  flags : W64
  boundUsed : W32
  watch : Option Watch
  hValid : Bool
  hCode : BitVec 16
  hSlot : BitVec 4
  hStation : BitVec 16
  hAddr : BitVec 48
  hData : W64
  /-- CO_KILLED of the recorded report (R52); no register shows it -/
  hCoKilled : Bool
  /-- the instruction at the PC once it has been fetched and until it issues (R168) -/
  fetched : Option (List Byte)
  /-- generation offset of the last fetched instruction (R51) -/
  lastFetch : Nat
  /-- launch set-up is complete, the first instruction fetched, so that the bound counter counts (R135) -/
  started : Bool
  /-- lines of the job's program that the instruction cache is reading ahead (R159) -/
  prefetch : List Nat
  /-- registers whose results are not ready yet, with the arithmetic cycle in which they are (R155) -/
  notReady : Tbl Nat
  /-- the latest job on the core had a sealed share (R485) -/
  lastSealed : Bool
  me : Matrix
  ve : Vector'
  se : Stream
  sendLanes : Tbl SendLane
  recvLanes : Tbl RecvLane
  icache : Tbl (List ICacheLine)
  scratch : Tbl Byte
  badLines : List Nat
  /-- ranges the clear engine has still to zero: (offset, length) (R106) -/
  clears : List (Nat × Nat)
  /-- trace: instructions issued and time since the previous FLOW, and the stall in progress (R477) -/
  flowInsns : Nat
  flowTime : W64
  stallTime : W64
  deriving DecidableEq, Repr

/-! ## Sync counters and flights -/

/-- Counter kinds (R295). -/
inductive CtrKind where
  | graph | context | flightArrive | flightRelease
  deriving DecidableEq, Repr

/-- Counter states (R295). -/
inductive CtrState where
  | free | live | faulted | abandoned
  deriving DecidableEq, Repr

/-- A sync counter (R294, R295, R304). -/
structure Counter where
  kind : CtrKind
  state : CtrState
  error : Bool
  fault : BitVec 2
  owner : BitVec 11
  shareInst : BitVec 6
  inst : BitVec 6
  value : W32
  initial : W32
  key : W32
  deriving DecidableEq, Repr

/-- Who sent an update (R326 SOURCE, R301). -/
inductive UpdSource where
  | core (c : Nat) | stream (c : Nat) | queue (q : Nat) | rollback
  deriving DecidableEq, Repr

/-- An update on its way to a counter (R300, R301). -/
structure Update where
  id : BitVec 17
  amount : W32
  source : UpdSource
  job : Option Nat
  /-- generation offset of the instruction that sends it (R171) -/
  pc : Nat
  /-- arithmetic cycle in which it reaches its home core (R301) -/
  cycle : Nat
  deriving DecidableEq, Repr

/-- Flight states (R326). -/
inductive FlightState where
  | free | isOpen | broken
  deriving DecidableEq, Repr

/-- A flight slot (R315 to R326). -/
structure Flight where
  state : FlightState
  timeoutUs : W32
  parent : BitVec 3
  children : BitVec 5
  expect : BitVec 16
  grant : W64
  startRound : W32
  round : W32
  arriveId : BitVec 17
  releaseId : BitVec 17
  childArrived : BitVec 5
  forwarded : Bool
  watchdog : Bool
  cause : BitVec 3
  code : BitVec 16
  deriving DecidableEq, Repr

/-- Sync counter registers (R326). -/
structure Sy where
  ctrSel : BitVec 17
  reclaimRefused : Bool
  fValid : Bool
  fSource : BitVec 3
  fCore : BitVec 4
  fId : BitVec 17
  fStation : BitVec 16
  fCode : BitVec 16
  fAmount : W32
  fBefore : W32
  dirGraph : BitVec 8
  dirPos : BitVec 12
  dropped : W32
  flightSel : BitVec 10
  deriving DecidableEq, Repr

/-! ## Security -/

/-- A fuse command in progress (R387). -/
inductive FuseCmd where
  | none | program (slot : Nat) (digest : Digest) | revoke (slot : Nat) | fail (code : BitVec 16)
  deriving DecidableEq, Repr

/-- Security unit (R384 to R416). -/
structure Sec where
  otpAddr : BitVec 48
  otpBusy : Bool
  otpCmd : FuseCmd
  otpCode : BitVec 16
  /-- the identity public keys that the boot ROM has derived since POR, and ID_DIGEST (R384, R385) -/
  idPub : List Byte
  idDigest : Digest
  importReady : Bool
  /-- the words that the private import keys come from, which nothing shows (R389) -/
  importPriv : List W64
  importPub : List W64
  keySel : BitVec 9
  /-- LOADED key slots and their 64-byte key pairs (R393) -/
  keys : Tbl (Option (BitVec 512))
  pending : BitVec 5
  debugSeen : Bool
  lastSource : BitVec 4
  lastLevel : BitVec 2
  eraseBusy : Bool
  locked : Bool
  counts : Tbl W32
  levels : List (BitVec 2)
  /-- levels of the image before, and the Keeper cycles of the swap (R88) that are left, in which they count too (R412) -/
  oldLevels : List (BitVec 2)
  swapCycles : Nat
  challenge : Digest
  dbgAddr : BitVec 48
  dbgBusy : Bool
  unlocked : Bool
  dbgCode : BitVec 16
  attests : List AttestReq
  /-- TAP RESPONSE register (R484) -/
  response : List Byte
  deriving DecidableEq, Repr

/-! ## Twin and links -/

/-- Twin states (R444). -/
inductive TwState where
  | unpaired | auth | paired | primary | secondary | held | stopped
  deriving DecidableEq, Repr

/-- Link states (R505). -/
inductive LinkState where
  | disabled | waitPhy | init | up
  deriving DecidableEq, Repr

/-- A message or control frame the block sends on a link (R503, R506, R507). -/
inductive LinkMsg where
  | idle | linkInit | nak (expected : BitVec 16)
  | hello | proof
  | heartbeat (c : Heartbeat)
  | yield (kind : BitVec 8) (lastRel : BitVec 48)
  | recoveryLost (lastRel : BitVec 48)
  | arrive (flight : Nat) (round : W32)
  | release (flight : Nat) (round : W32)
  | brk (flight : Nat) (round : W32)
  deriving DecidableEq, Repr

/-- A link layer (R502 to R505, R515). -/
structure Link where
  enable : Bool
  state : LinkState
  phyLock : Bool
  downs : BitVec 16
  downCause : BitVec 3
  crcErrors : W32
  replays : BitVec 16
  dropped : BitVec 16
  /-- next SEQ to send, next SEQ expected, receive credits held for sending -/
  txSeq : BitVec 16
  rxSeq : BitVec 16
  credits : Nat
  /-- receive buffers freed since the previous frame sent (R502 CREDITS) -/
  freed : Nat
  /-- NAKs received in a row for one SEQ (R505) -/
  nakSeq : BitVec 16
  nakCount : Nat
  /-- messages waiting for a credit; sent and unacknowledged frames; the latest frame sent -/
  waiting : List LinkMsg
  unacked : List (BitVec 16 × LinkMsg)
  last : Option LinkMsg
  sent : Nat
  deriving DecidableEq, Repr

/-- Twin unit (R433 to R449). -/
structure Tw where
  pairReq : Bool
  witnessUse : Bool
  state : TwState
  lastCode : BitVec 16
  hbMissed : BitVec 4
  elect : Bool
  witness : Bool
  partnerLive : Bool
  aligned : Bool
  partnerState : BitVec 3
  peerDigest : Digest
  offset : BitVec 48
  relLast : BitVec 48
  realign : BitVec 16
  oneWayNs : BitVec 16
  /-- the partner's HELLO has arrived; the session is authenticated (R434) -/
  helloSeen : Bool
  partnerDigest : Digest
  authed : Bool
  rxCtr : W64
  txCtr : W64
  /-- contents of the last heartbeat received -/
  partner : Option Heartbeat
  /-- MATCHED and IN_STEP at the last heartbeat -/
  inStepLast : Bool
  /-- complete beats not yet reported released, at most four (R443) -/
  complete : List (BitVec 48 × Nat)
  handoverReq : Bool
  /-- a YIELD held until the pair is IN_STEP again (R446) -/
  heldYield : Option (BitVec 8 × BitVec 48)
  gateClosed : Bool
  /-- a YIELD or RECOVERY_LOST of the partner was not accepted: a ground for CLAIM (R441, R444) -/
  yielded : Bool
  lengthen : Bool
  deriving DecidableEq, Repr

/-! ## Faults, Chime, observation and debug -/

/-- Faults and recovery registers (R449). -/
structure Fr where
  classSeen : BitVec 5
  firstValid : Bool
  firstClass : BitVec 3
  firstUnit : BitVec 4
  firstCore : BitVec 4
  firstPart : BitVec 3
  firstBeat : W32
  firstCode : BitVec 16
  firstAddr : BitVec 48
  ce : Tbl W32
  portSel : BitVec 6
  thrKind : BitVec 2
  thrId : BitVec 11
  keeperThrNs : W64
  overruns : BitVec 16
  longest : BitVec 16
  /-- MEM_PAUSE_OVERRUN raised in this beat; first port of the pause in progress -/
  overrunThisBeat : Bool
  pausePort : Nat
  /-- ns for which the pause in progress has lasted (R426) -/
  pauseNs : Nat
  stopValid : Bool
  stopCause : BitVec 3
  stopSeq : BitVec 4
  stopPort : BitVec 8
  stopBeat : W32
  stopCode : BitVec 16
  wdogFired : Bool
  wdogCount : BitVec 16
  /-- the recovery stop is in force (R430) -/
  stopped : Bool
  wdogArmed : Bool
  deriving DecidableEq, Repr

/-- Source states of the Chime (R452). -/
inductive SrcState where
  | idle | pending | active
  deriving DecidableEq, Repr

/-- A Chime source (R450 to R454, R462). -/
structure Src where
  st : SrcState
  retrig : Bool
  masked : Bool
  urgent : Bool
  target : BitVec 3
  sense : BitVec 2
  prev : Bool
  count : BitVec 16
  data : W32
  code : BitVec 16
  deriving DecidableEq, Repr

/-- A Chime target (R455 to R458). -/
structure Target where
  wdog : Bool
  ownerValid : Bool
  owner : BitVec 6
  modCount : BitVec 8
  modUs : BitVec 10
  timerNs : Nat
  idleIn : Bool
  out : Bool
  wdogDrive : Bool
  deriving DecidableEq, Repr

/-- The Chime (R450 to R464). -/
structure Chime where
  srcs : Tbl Src
  targets : Tbl Target
  strayCount : W32
  strayLast : BitVec 10
  qsrcSel : BitVec 13
  qsrc : Tbl (BitVec 10)
  /-- outputs held low through retention and restore (R463) -/
  heldLow : Bool
  deriving DecidableEq, Repr

/-- A trace frame before its CRC: TYPE, SOURCE, DELTA base and payload (R476, R477). -/
structure TraceFrame where
  type : BitVec 8
  source : BitVec 8
  time : W64
  payload : List Byte
  deriving DecidableEq, Repr

/-- Counters, trace, snapshot, halt-all and debug (R465 to R486). -/
structure Obs where
  pm : PmSet
  pmLatest : Nat
  traceCores : BitVec 16
  traceMode : BitVec 2
  activeMode : BitVec 2
  activeCores : BitVec 16
  traceDropped : W32
  droppedSinceSync : W32
  frameSeq : W32
  sinceSync : Nat
  lastFrameTime : W64
  keeperFifo : List TraceFrame
  coreFifo : Tbl (List TraceFrame)
  traceTurn : Nat
  /-- the 32 bytes of the latest frame on the trace port -/
  traceOut : List Byte
  snapAddr : BitVec 48
  snapLen : W32
  snapArm : Bool
  snapDone : Bool
  snapBusy : Bool
  snapTrunc : Bool
  snapRefused : Bool
  snapBytes : W32
  hold : BitVec 16
  halted : Bool
  bps : Tbl W64
  /-- token bucket of the record writes, in thousandths of a record (R472) -/
  recTokens : Nat
  deriving DecidableEq, Repr

/-- The TAP (R484, R485). -/
structure Tap where
  ir : BitVec 8
  bypass : Bool
  /-- what the latest capture put into the data register, low word first -/
  dr : List W64
  chain : BitVec 16
  scratchCore : BitVec 4
  scratchLine : BitVec 18
  deriving DecidableEq, Repr

/-! ## The whole block -/

/-- The state of the block. -/
structure State where
  pending : List Instr
  fuse : Fuses
  boot : Boot
  frozen : Bool
  ports : Tbl Port
  writes : List WriteReq
  mem : List Host.Cell
  /-- 128-byte lines that return POISON (R423, R498) -/
  poison : List Nat
  esc : Esc
  au : Au
  run : Option Running
  basin : Tbl BasinCopy
  /-- copies in the shared pool of ways that OBJECT_MAP requested (R126), by root entry, with the device address of byte 0 -/
  pool : Tbl (Nat × BasinCopy)
  kp : Keeper
  gens : Tbl Gen
  objs : Tbl Obj
  ctxs : Tbl Ctx
  queues : Tbl Queue
  insts : Tbl Inst
  shares : Tbl Share
  rg : Rg
  rgParts : Tbl RgPart
  jobs : Tbl Job
  nextJob : Nat
  cores : Tbl Core
  counters : Tbl Counter
  updates : Tbl (List Update)
  flights : Tbl Flight
  sy : Sy
  sec : Sec
  tw : Tw
  links : Tbl Link
  fr : Fr
  chime : Chime
  obs : Obs
  tap : Tap
  /-- the model's own counter of free values drawn so far (not the spec's; see log entry 5) -/
  freeCount : Nat
  deriving DecidableEq, Repr

/-! ## The values after power-on reset

A register that the spec gives a reset value holds it. A field for which the spec gives none holds the value that
INVENTORY.md names under State, with its log entry. -/

/-- Fuses and tie-offs of the assembly the model resets to: an NG-1600 (R1) with every port present and no owner key
programmed. DESIGN CHOICE, log entry 1. -/
def Fuses.reset : Fuses :=
  { grade := 0x0103FFFF#32, portPresent := BitVec.allOnes 48, romVersion := 0#32, ownerProgrammed := 0#4,
    ownerRevoked := 0#4, ownerDigest := [], idSeed := 0#256, ovirasaDigest := 0#384,
    manufacturer := 0#11 }

/-- Boot and power state right after POR_N and BLK_RST_N are released (R509, R515: STATE resets to 1, ROM_INIT). -/
def Boot.reset : Boot :=
  { power := .on, porAsserted := false, blkAsserted := false, retReq := false, retAck := false, retEntering := false,
    chimeRestoring := false, state := .romInit, wake := false, patchVersion := 0#32, code := 0#16,
    patchAddr := 0#48, patchLen := 0#32, patchDigest := 0#384, hostErr := 0#32 }

/-- A port before training (R499). -/
def Port.reset : Port :=
  { trained := false, open' := false, failed := false, paused := false, rdCredits := 0#12, wrCredits := 0#12,
    poisonCount := 0#16, lateCount := 0#32, lateThisBeat := false, throttled := [], atomicsOut := 0, lastAtomic := 0#64 }

/-- The Escapement (R54). -/
def Esc.reset : Esc :=
  { running := false, periodUs := 0#17, beatCount := 0#48, time := 0#64, beatTime := 0#64, capDw := 0#12,
    pauseSeen := 0#8, phase := false, swapBeat := false }

/-- AU_REFUSAL (R54). -/
def AuRefusal.reset : AuRefusal :=
  { pass := false, coreValid := false, windowValid := false, core := 0#4, window := 0#3, part := 0#3, station := 0#16,
    code := 0#16 }

/-- The admission unit (R54, R95). -/
def Au.reset : Au :=
  { state := .idle, imageAddr := 0#48, imageLen := 0#32, lastCode := 0#16, inflateActive := false, admitted := false,
    refused := false, busyReject := false, refusal := AuRefusal.reset, deficit := 0#48, sigDetail := 0#5,
    activeBeat := 0#48, swapKept := 0#8, swapChanged := 0#8, swapCounters := 0#8, cand := none, candPlace := none,
    candSlot := 0#2, candInflated := false, residency := [], shareResidency := [], traceReq := .none }

/-- A FREE generation (R160, R164). -/
def Gen.reset : Gen :=
  { state := .free, number := 0#64, base := 0, len := 0, entry := 0, features := 0#2, station := false,
    keySlot := none, progHandle := 0#32, progOffset := 0, written := [], verdict := .notNeeded, used := 0 }

/-- The Keeper's general registers (R179, R293, R349, R380). The first generation number is 1. -/
def Keeper.reset : Keeper :=
  { loaderMode := 1#2, verifyQueue := [], vfValid := false, vfEntry := 0#13, vfStation := 0#16, vfCode := 0#16,
    vfOffset := 0#32, fusedAccess := 0#32, nextGen := 1#64, genClock := 0, objBase := 0#48, objEnable := false,
    objInitBusy := false, queueSel := 0#13, ctxSel := 0#11, waitFullSeen := false, remoteLimitUs := 1000#20,
    instSel := 0#6 }

/-- A FREE object entry (R244). -/
def Obj.reset : Obj :=
  { base := 0, size := 0, gen := 0#14, owner := 0#11, state := .free, kind := .plain, writable := false,
    isSealed := false, encrypted := false, share := false, version := false, bound := false, basin := false,
    shareInst := 0#6, parent := 0, keySlot := 0#9, inst := 0 }

/-- A counter set with nothing counted (R465). -/
def PmSet.reset : PmSet := { slots := [], remainders := [], ovf := 0#56, since := 0#64 }

/-- A FREE context (R241). -/
def Ctx.reset : Ctx :=
  { state := .free, inst := 0, weight := 1#8, isSealed := false, teardown := none, pm := PmSet.reset, ring := none,
    throttleNs := 0#64 }

/-- A FREE queue (R272). -/
def Queue.reset : Queue :=
  { state := .free, ctx := 0, part := 0, ringLog2 := 0, ringObj := 0, ringOff := 0, complObj := 0, complOff := 0,
    head := 0#32, tail := 0#32, weight := 1#8, vt := 0#64, run := 0#64, waitNs := 0#64, lost := 0#64, preempts := 0#32,
    cmds := [], indirect := none, held := .none, stoppedByDisable := false, destroyBy := none, backlogged := false }

/-- Pools of an instance that holds nothing (R351). -/
def Pools.reset : Pools :=
  { ctxFirst := 0, ctxCount := 0, queueFirst := 0, queueCount := 0, objFirst := 0, objCount := 0, keyFirst := 0,
    keyCount := 0, ctrQuota := 0, waitQuota := 0, mem := [] }

/-- A mailbox page (R380). -/
def Page.reset : Page :=
  { req := [], rsp := [], done := false, busy := false, busyReject := false, seq := 0#16, code := 0#16, curSeq := 0#16,
    curOp := 0#8, cur := [], noticeValid := false, noticeLost := false, noticeDisable := false, noticeCtx := 0#11,
    noticeKilled := 0#16, noticeCode := 0#16 }

/-- The dirty log of an instance (R380). -/
def Dirty.reset : Dirty :=
  { base0 := 0#48, base1 := 0#48, enable := false, active := false, flipBusy := false, flipDone := false,
    set := [], old := [] }

/-- A FREE instance (R358). -/
def Inst.reset : Inst :=
  { state := .free, pools := Pools.reset, page := Page.reset, weights := [], disabling := none, resetting := none,
    held := [], bound := false, bindDigest := 0#384, bindSecret := 0#384, dirty := Dirty.reset }

/-- A share record that is not in use (R329). -/
def Share.reset : Share :=
  { ctx := 0, part := 0, off := 0, size := 0, state := .clearing, isSealed := false, clearing := [] }

/-- The Regulator's registers of a partition (R349). -/
def RgPart.reset : RgPart :=
  { slowAlert := 0#16, preemptWaitUs := 0#20, gv := 0#64, autoFor := none, autoVictim := none, autoCores := [], busy := 0#64, memWait := 0#64,
    skipped := 0#16, passedOver := 0#16, preempted := 0#16, repBusy := 0#64, repWait := 0#64, repSlow := 0#16,
    repSkipped := 0#16, repPassed := 0#16, repPreempted := 0#16, throttleNs := 0#64, copyRun := none }

/-- The Regulator (R349). -/
def Rg.reset : Rg :=
  { selPart := 0#3, selLevel := 0#2, selId := 0#13, rebind := none, resQueue := 0#13, resCode := 0#16, qSel := 0#13, preBusy := false, preLimitHit := false, preKilled := 0#16, preJobs := [],
    shareSelPart := 0#3, shareSelCtx := 0#11, shareCode := 0#16, fetchTurn := 0#3, cmdSeq := 0 }

/-- A weight bank holding nothing (R180). -/
def Bank.reset : Bank := { fmt := 0#4, arr := 0#2, sparse := false, bytes := [] }

/-- The matrix engine of an idle core (R208). -/
def Matrix.reset : Matrix :=
  { bank0 := Bank.reset, bank1 := Bank.reset, acc := [], queue := [], running := [], invalid := false,
    overflow := false, intSat := false }

/-- The vector engine of an idle core (R238). -/
def Vector'.reset : Vector' :=
  { queue := [], groups := [], chains := [], busyUntil := 0, groupFault := 0#4, invalid := false, overflow := false, intSat := false,
    zeroDiv := false }

/-- An idle stream thread (R127). -/
def Thread.reset : Thread := { queue := [], active := [] }

/-- The stream engine of an idle core (R133). -/
def Stream.reset : Stream :=
  { threads := [], nextId := 0, sentTiles := 0, mcasts := [], turn := 0, fValid := false, fThread := 0#6, fOp := 0#3,
    fStation := 0#16, fCode := 0#16, fAddr := 0#48 }

/-- An IDLE core (R179). -/
def Core.reset : Core :=
  { st := .idle, stall := 0#3, pc := 0, job := none, slot := 0, ended := false, regs := [], flags := 0#64,
    boundUsed := 0#32, watch := none, hValid := false, hCode := 0#16, hSlot := 0#4, hStation := 0#16,
    hAddr := 0#48, hData := 0#64, hCoKilled := false, fetched := none, lastFetch := 0, started := false, prefetch := [],
    notReady := [], lastSealed := false, me := Matrix.reset, ve := Vector'.reset, se := Stream.reset,
    sendLanes := [], recvLanes := [], icache := [], scratch := [], badLines := [], clears := [], flowInsns := 0,
    flowTime := 0#64, stallTime := 0#64 }

/-- A FREE counter (R295). -/
def Counter.reset : Counter :=
  { kind := .graph, state := .free, error := false, fault := 0#2, owner := 0#11, shareInst := 0#6, inst := 0#6,
    value := 0#32, initial := 0#32, key := 0#32 }

/-- A FREE flight slot (R326). -/
def Flight.reset : Flight :=
  { state := .free, timeoutUs := 0#32, parent := 0#3, children := 0#5, expect := 0#16, grant := 0#64,
    startRound := 0#32, round := 0#32, arriveId := 0#17, releaseId := 0#17, childArrived := 0#5, forwarded := false,
    watchdog := false, cause := 0#3, code := 0#16 }

/-- The sync counter registers (R326). -/
def Sy.reset : Sy :=
  { ctrSel := 0#17, reclaimRefused := false, fValid := false, fSource := 0#3, fCore := 0#4, fId := 0#17,
    fStation := 0#16, fCode := 0#16, fAmount := 0#32, fBefore := 0#32, dirGraph := 0#8, dirPos := 0#12,
    dropped := 0#32, flightSel := 0#10 }

/-- The security unit (R416). SEC_DBG_CHALLENGE holds a random value: the first free digest (log entry 5). -/
def Sec.reset : Sec :=
  { otpAddr := 0#48, otpBusy := false, otpCmd := .none, otpCode := 0#16, idPub := [], idDigest := 0#384, importReady := false,
    importPriv := [], importPub := [],
    keySel := 0#9, keys := [], pending := 0#5, debugSeen := false, lastSource := 0#4, lastLevel := 0#2,
    eraseBusy := false, locked := false, counts := [], levels := [], oldLevels := [], swapCycles := 0, challenge := Config.freeDigest 0, dbgAddr := 0#48,
    dbgBusy := false, unlocked := false, dbgCode := 0#16, attests := [], response := [] }

/-- A disabled link (R505, R515). -/
def Link.reset : Link :=
  { enable := false, state := .disabled, phyLock := false, downs := 0#16, downCause := 0#3, crcErrors := 0#32,
    replays := 0#16, dropped := 0#16, txSeq := 0#16, rxSeq := 0#16, credits := 0, freed := 0, nakSeq := 0#16,
    nakCount := 0, waiting := [], unacked := [], last := none, sent := 0 }

/-- The twin unit (R449). -/
def Tw.reset : Tw :=
  { pairReq := false, witnessUse := false, state := .unpaired, lastCode := 0#16, hbMissed := 0#4, elect := false,
    witness := false, partnerLive := false, aligned := false, partnerState := 0#3, peerDigest := 0#384,
    offset := 0#48, relLast := 0#48, realign := 0#16, oneWayNs := 0#16, helloSeen := false, partnerDigest := 0#384,
    authed := false, rxCtr := 0#64, txCtr := 0#64, partner := none, inStepLast := false, complete := [],
    handoverReq := false, heldYield := none, gateClosed := false, yielded := false, lengthen := false }

/-- Faults and recovery (R449). -/
def Fr.reset : Fr :=
  { classSeen := 0#5, firstValid := false, firstClass := 0#3, firstUnit := 0#4, firstCore := 0#4, firstPart := 0#3,
    firstBeat := 0#32, firstCode := 0#16, firstAddr := 0#48, ce := [], portSel := 0#6, thrKind := 0#2, thrId := 0#11,
    keeperThrNs := 0#64, overruns := 0#16, longest := 0#16, overrunThisBeat := false, pausePort := 0, pauseNs := 0,
    stopValid := false, stopCause := 0#3, stopSeq := 0#4, stopPort := 0#8, stopBeat := 0#32, stopCode := 0#16,
    wdogFired := false, wdogCount := 0#16, stopped := false, wdogArmed := false }

/-- A Chime source whose SENSE is the pulse default; R450 gives the sources with another default. -/
def Src.reset : Src :=
  { st := .idle, retrig := false, masked := true, urgent := false, target := 0#3, sense := 0#2, prev := false,
    count := 0#16, data := 0#32, code := 0#16 }

/-- A Chime target (R464). -/
def Target.reset : Target :=
  { wdog := false, ownerValid := false, owner := 0#6, modCount := 0#8, modUs := 0#10, timerNs := 0, idleIn := false,
    out := false, wdogDrive := false }

/-- The Chime (R464). -/
def Chime.reset : Chime :=
  { srcs := [], targets := [], strayCount := 0#32, strayLast := 0#10, qsrcSel := 0#13, qsrc := [], heldLow := false }

/-- Counters, trace, snapshot and debug (R486). -/
def Obs.reset : Obs :=
  { pm := PmSet.reset, pmLatest := 0, traceCores := 0#16, traceMode := 0#2, activeMode := 0#2, activeCores := 0#16,
    traceDropped := 0#32, droppedSinceSync := 0#32, frameSeq := 0#32, sinceSync := 0, lastFrameTime := 0#64,
    keeperFifo := [], coreFifo := [], traceTurn := 0, traceOut := [], snapAddr := 0#48, snapLen := 0#32,
    snapArm := false, snapDone := false, snapBusy := false, snapTrunc := false, snapRefused := false,
    snapBytes := 0#32, hold := 0#16, halted := false, bps := [], recTokens := 64000 }

/-- The TAP (R484). After reset IDCODE is selected, as IEEE 1149.1 says. PRESUMED, log entry 8. -/
def Tap.reset : Tap := { ir := 0x01#8, bypass := false, dr := [], chain := 0#16, scratchCore := 0#4, scratchLine := 0#18 }

/-- Instance 0 is ENABLED from reset, with every pool empty and no memory granted (R350). -/
def Inst.manager : Inst := { Inst.reset with state := .enabled }

/-- The block right after a power-on reset whose reset inputs are released: the boot ROM begins ROM_INIT (R509), memory
lists nothing and no command waits. DEDUCED, log entry 9. -/
def State.reset : State :=
  { pending := [], fuse := Fuses.reset, boot := Boot.reset, frozen := false, ports := [], writes := [], mem := [],
    poison := [], esc := Esc.reset, au := Au.reset, run := none, basin := [], pool := [], kp := Keeper.reset, gens := [],
    objs := [], ctxs := [], queues := [], insts := [(0, Inst.manager)], shares := [], rg := Rg.reset, rgParts := [],
    jobs := [], nextJob := 0, cores := [], counters := [], updates := [], flights := [], sy := Sy.reset,
    sec := Sec.reset, tw := Tw.reset, links := [], fr := Fr.reset, chime := Chime.reset, obs := Obs.reset,
    tap := Tap.reset, freeCount := 1 }

end Sys2Proof.Machine
end

