-- ==== Sys2Proof/Machine/Ops.lean ====
section
/-! DEFINITION. Tables, the accessors of every indexed part of the state, and free values. -/

namespace Sys2Proof.Machine

/-! ## Tables -/

/-- The entry of an index, the default where none is listed. -/
def tget {α : Type} (d : α) : List (Nat × α) → Nat → α
  | [], _ => d
  | (i, v) :: r, k => if i = k then v else tget d r k

/-- The entry of an index, if one is listed. -/
def tfind {α : Type} : List (Nat × α) → Nat → Option α
  | [], _ => none
  | (i, v) :: r, k => if i = k then some v else tfind r k

/-- Put an entry, indices kept rising. -/
def tput {α : Type} : List (Nat × α) → Nat → α → List (Nat × α)
  | [], k, v => [(k, v)]
  | (i, w) :: r, k, v =>
    if k < i then (k, v) :: (i, w) :: r else if k = i then (k, v) :: r else (i, w) :: tput r k v

/-- Take the entry of an index out. -/
def tdel {α : Type} : List (Nat × α) → Nat → List (Nat × α)
  | [], _ => []
  | (i, w) :: r, k => if i = k then tdel r k else (i, w) :: tdel r k

/-- Put an entry into a table whose unlisted entries read zero: a zero is not listed. -/
def tset0 {w : Nat} (t : List (Nat × BitVec w)) (k : Nat) (v : BitVec w) : List (Nat × BitVec w) :=
  if v = 0#w then tdel t k else tput t k v

/-- The least of a list of numbers, if any. -/
def leastNat : List Nat → Option Nat
  | [] => none
  | x :: r => match leastNat r with
    | none => some x
    | some y => some (if x ≤ y then x else y)

/-! ## Accessors -/

/-- Core n. -/
def State.core (s : State) (n : Nat) : Core := tget Core.reset s.cores n
def State.setCore (s : State) (n : Nat) (k : Core) : State := { s with cores := tput s.cores n k }
def State.modCore (s : State) (n : Nat) (f : Core → Core) : State := s.setCore n (f (s.core n))

/-- Whether a core is present (R2). -/
def State.present (s : State) (n : Nat) : Bool := decide (n < 16) && bitAt s.fuse.grade.toNat n

/-- The numbers of the present cores. -/
def State.presentCores (s : State) : List Nat := (List.range 16).filter s.present

/-- Queue n. -/
def State.queue (s : State) (n : Nat) : Queue := tget Queue.reset s.queues n
def State.setQueue (s : State) (n : Nat) (q : Queue) : State := { s with queues := tput s.queues n q }
def State.modQueue (s : State) (n : Nat) (f : Queue → Queue) : State := s.setQueue n (f (s.queue n))

/-- Context n. -/
def State.ctx (s : State) (n : Nat) : Ctx := tget Ctx.reset s.ctxs n
def State.setCtx (s : State) (n : Nat) (c : Ctx) : State := { s with ctxs := tput s.ctxs n c }
def State.modCtx (s : State) (n : Nat) (f : Ctx → Ctx) : State := s.setCtx n (f (s.ctx n))

/-- Instance n. -/
def State.inst (s : State) (n : Nat) : Inst := tget Inst.reset s.insts n
def State.setInst (s : State) (n : Nat) (i : Inst) : State := { s with insts := tput s.insts n i }
def State.modInst (s : State) (n : Nat) (f : Inst → Inst) : State := s.setInst n (f (s.inst n))

/-- The mailbox page of instance n. -/
def State.page (s : State) (n : Nat) : Page := (s.inst n).page
def State.modPage (s : State) (n : Nat) (f : Page → Page) : State := s.modInst n fun i => { i with page := f i.page }

/-- A FREE object entry after the initialisation of R248: generation 1. -/
def Obj.fresh : Obj := { Obj.reset with gen := 1#14 }

/-- Object entry n; once the table is in use, an entry never mapped is FREE with generation 1 (R248). -/
def State.obj (s : State) (n : Nat) : Obj := tget (if s.kp.objEnable then Obj.fresh else Obj.reset) s.objs n
def State.setObj (s : State) (n : Nat) (o : Obj) : State := { s with objs := tput s.objs n o }
def State.modObj (s : State) (n : Nat) (f : Obj → Obj) : State := s.setObj n (f (s.obj n))

/-- Generation table entry n (R160). -/
def State.gen (s : State) (n : Nat) : Gen := tget Gen.reset s.gens n
def State.setGen (s : State) (n : Nat) (g : Gen) : State := { s with gens := tput s.gens n g }
def State.modGen (s : State) (n : Nat) (f : Gen → Gen) : State := s.setGen n (f (s.gen n))

/-- Sync counter n (R294). -/
def State.counter (s : State) (n : Nat) : Counter := tget Counter.reset s.counters n
def State.setCounter (s : State) (n : Nat) (c : Counter) : State := { s with counters := tput s.counters n c }
def State.modCounter (s : State) (n : Nat) (f : Counter → Counter) : State := s.setCounter n (f (s.counter n))

/-- Flight slot n (R315). -/
def State.flight (s : State) (n : Nat) : Flight := tget Flight.reset s.flights n
def State.setFlight (s : State) (n : Nat) (f : Flight) : State := { s with flights := tput s.flights n f }

/-- Link n: 0 TW, 1 to 4 PL0 to PL3 (R503). -/
def State.link (s : State) (n : Nat) : Link := tget Link.reset s.links n
def State.setLink (s : State) (n : Nat) (l : Link) : State := { s with links := tput s.links n l }
def State.modLink (s : State) (n : Nat) (f : Link → Link) : State := s.setLink n (f (s.link n))

/-- Memory port n. -/
def State.port (s : State) (n : Nat) : Port := tget Port.reset s.ports n
def State.setPort (s : State) (n : Nat) (p : Port) : State := { s with ports := tput s.ports n p }
def State.modPort (s : State) (n : Nat) (f : Port → Port) : State := s.setPort n (f (s.port n))

/-- The ports that are open (R500). -/
def State.openPorts (s : State) : List Nat := (List.range 48).filter fun p => (s.port p).open'

/-- Regulator registers of partition n. -/
def State.rgPart (s : State) (n : Nat) : RgPart := tget RgPart.reset s.rgParts n
def State.setRgPart (s : State) (n : Nat) (p : RgPart) : State := { s with rgParts := tput s.rgParts n p }
def State.modRgPart (s : State) (n : Nat) (f : RgPart → RgPart) : State := s.setRgPart n (f (s.rgPart n))

/-- Job n, if one runs under that number. -/
def State.job (s : State) (n : Nat) : Option Job := tfind s.jobs n
def State.setJob (s : State) (n : Nat) (j : Job) : State := { s with jobs := tput s.jobs n j }
def State.dropJob (s : State) (n : Nat) : State := { s with jobs := tdel s.jobs n }

/-- Change the running image's state, if an image runs. -/
def State.modRun (s : State) (f : Running → Running) : State := { s with run := s.run.map f }

/-- Basin copy of an image slot (R123). -/
def State.basinCopy (s : State) (slot : Nat) : Option BasinCopy := tfind s.basin slot

/-- The command of a queue with a sequence number. -/
def Queue.cmd (q : Queue) (seqNo : Nat) : Option Cmd := q.cmds.find? fun c => c.seqNo == seqNo

/-- Change the command of a queue with a sequence number. -/
def Queue.modCmd (q : Queue) (seqNo : Nat) (f : Cmd → Cmd) : Queue :=
  { q with cmds := q.cmds.map fun c => if c.seqNo = seqNo then f c else c }

/-- Drop the command of a queue with a sequence number. -/
def Queue.dropCmd (q : Queue) (seqNo : Nat) : Queue := { q with cmds := q.cmds.filter fun c => c.seqNo != seqNo }

/-! ## Registers of a core (R135, R136) -/

/-- Scalar register n of a core; S0 is the constant zero (R134). -/
def Core.reg (k : Core) (n : Nat) : W64 := if n = 0 then 0#64 else tget 0#64 k.regs n

/-- Write scalar register n; a write of S0 is discarded (R134). -/
def Core.setReg (k : Core) (n : Nat) (v : W64) : Core := if n = 0 then k else { k with regs := tset0 k.regs n v }

/-! ## Free values and the clock -/

/-- Draw a free word. -/
def State.drawWord (s : State) : W64 × State := (Config.freeWord s.freeCount, { s with freeCount := s.freeCount + 1 })

/-- Draw a free digest. -/
def State.drawDigest (s : State) : Digest × State :=
  (Config.freeDigest s.freeCount, { s with freeCount := s.freeCount + 1 })

/-- Draw n free words. -/
def State.drawWords (s : State) (n : Nat) : List W64 × State :=
  ((List.range n).map fun i => Config.freeWord (s.freeCount + i), { s with freeCount := s.freeCount + n })

/-! ## Device memory -/

/-- One byte of device memory as the ports return it; a byte nothing has written reads 0 (log entry 2). -/
def memGet (m : List Host.Cell) (a : Nat) : Byte := tget 0#8 m a

/-- Write one byte, keeping the canonical form. -/
def memPut (m : List Host.Cell) (a : Nat) (b : Byte) : List Host.Cell := tset0 m a b

/-- Write consecutive bytes. -/
def memPutAll (m : List Host.Cell) (a : Nat) : List Byte → List Host.Cell
  | [] => m
  | b :: r => memPutAll (memPut m a b) (a + 1) r

/-- Addresses strictly rising and no zero byte listed: the canonical form. -/
def Memory.wf : List Host.Cell → Bool
  | [] => true
  | [(_, b)] => b != 0#8
  | (a, b) :: (a', b') :: r => (b != 0#8) && decide (a < a') && Memory.wf ((a', b') :: r)

/-- The 128-byte lines that a byte range touches (R496). -/
def linesOf (a len : Nat) : List Nat :=
  if len = 0 then [] else (List.range ((a + len - 1) / 128 - a / 128 + 1)).map (· + a / 128)

/-- Whether any line of a byte range returns POISON (R423). -/
def State.poisoned (s : State) (a len : Nat) : Bool := (linesOf a len).any fun l => s.poison.contains l

/-- Scratch bytes of a core. -/
def Core.scratchBytes (k : Core) (off len : Nat) : List Byte := (List.range len).map fun i => tget 0#8 k.scratch (off + i)

/-- Write scratch bytes of a core. A line written whole loses its error marker (R420). -/
def Core.putScratch (k : Core) (off : Nat) (bs : List Byte) : Core :=
  { k with scratch := memPutAll k.scratch off bs,
           badLines := k.badLines.filter fun l => !(decide (off ≤ 128 * l) && decide (128 * l + 128 ≤ off + bs.length)) }

/-- Zero a range of a core's scratch; a line zeroed whole loses its error marker (R106, R420). -/
def Core.zeroScratch (k : Core) (off len : Nat) : Core :=
  { k with
    scratch := k.scratch.filter fun b => !(decide (off ≤ b.1) && decide (b.1 < off + len)),
    badLines := k.badLines.filter fun l => !(decide (off ≤ 128 * l) && decide (128 * l + 128 ≤ off + len)) }

/-- The port answers at all (R490, R491, R518). -/
def State.portAlive (s : State) : Bool := s.boot.power == .on && !s.boot.blkAsserted && !s.boot.porAsserted

end Sys2Proof.Machine
end

