-- ==== Sys2Proof/Machine/Flags.lean ====
section
/-! DEFINITION. Trace frames of the Keeper and the cores, the counter slots (R465 to R467, R476 to R479), and the Chime
(R450 to R464): level signals, sampling, source states, outputs. Every event that another chapter calls a Chime event
goes through `chPulse` or `chSample`. -/

namespace Sys2Proof.Machine

/-! ## Trace frames -/

/-- A Keeper frame enters its FIFO of 1,024 while EVENTS or FULL is active; one that finds it full is dropped and
counted (R478). -/
def traceKeeper (s : State) (type : Nat) (payload : List Byte) : State :=
  if s.obs.activeMode = 0#2 then s
  else if s.obs.keeperFifo.length < 1024 then
    { s with obs := { s.obs with keeperFifo := s.obs.keeperFifo ++
        [{ type := BitVec.ofNat 8 type, source := 16#8, time := s.esc.time, payload := payload }] } }
  else
    { s with obs := { s.obs with traceDropped := satInc s.obs.traceDropped, droppedSinceSync := satInc s.obs.droppedSinceSync } }

/-- Whether a core emits FULL frames (R478). -/
def State.coreTraced (s : State) (c : Nat) : Bool := s.obs.activeMode == 2#2 && bitAt s.obs.activeCores.toNat c

/-- A core frame enters the core's FIFO (R479). -/
def traceCore (s : State) (c : Nat) (type : Nat) (payload : List Byte) : State :=
  if s.coreTraced c then
    { s with obs := { s.obs with coreFifo := tput s.obs.coreFifo c (tget [] s.obs.coreFifo c ++
        [{ type := BitVec.ofNat 8 type, source := BitVec.ofNat 8 c, time := s.esc.time, payload := payload }]) } }
  else s

/-! ## Counter slots -/

/-- Units of a slot (R465): bytes per 4 KiB, MACs and elements per 2^20. -/
def pmUnit (slot : Nat) : Nat := if slot = 4 ∨ slot = 5 then 4096 else if 24 ≤ slot then 1048576 else 1

/-- Largest value of a slot (R466). -/
def pmMax : Nat := 2 ^ 48 - 1

/-- Count an amount, in raw units, in a set (R465, R466). -/
def PmSet.count (p : PmSet) (slot amount : Nat) : PmSet :=
  let total := tget 0 p.remainders slot + amount
  let old := tget 0 p.slots slot
  let v := min pmMax (old + total / pmUnit slot)
  { p with slots := tput p.slots slot v, remainders := tput p.remainders slot (total % pmUnit slot),
           ovf := if old < pmMax ∧ v = pmMax then p.ovf ||| BitVec.ofNat 56 (2 ^ slot) else p.ovf }

/-- Zero a set (R467). -/
def PmSet.clear (p : PmSet) (now : W64) : PmSet := { PmSet.reset with since := now, remainders := p.remainders }

/-- Default SENSE of a source (R450): LEVEL 0, RISING 1. -/
def chDefaultSense (n : Nat) : BitVec 2 :=
  if n = 99 ∨ n = 104 ∨ n = 105 ∨ n = 107 ∨ 112 ≤ n then 1#2 else 0#2

/-- A source after BLK reset (R462). -/
def chDefaultSrc (n : Nat) : Src := { Src.reset with sense := chDefaultSense n }

/-- Source n of the Chime. -/
def State.src (s : State) (n : Nat) : Src := tget (chDefaultSrc n) s.chime.srcs n
def State.setSrc (s : State) (n : Nat) (x : Src) : State := { s with chime := { s.chime with srcs := tput s.chime.srcs n x } }

/-- Target t of the Chime. -/
def State.target (s : State) (t : Nat) : Target := tget Target.reset s.chime.targets t
def State.setTarget (s : State) (t : Nat) (x : Target) : State :=
  { s with chime := { s.chime with targets := tput s.chime.targets t x } }

/-- The level signal of a source (R450); pulse sources and reserved ones sample 0. -/
def chSignal (s : State) (n : Nat) : Bool :=
  if n < 64 then (s.page n).done || (s.page n).noticeValid
  else if n < 80 then (s.core (n - 64)).hValid
  else if n < 96 then (s.core (n - 80)).se.fValid
  else match n with
    | 96 => s.au.admitted || s.au.refused || s.au.busyReject
    | 97 => s.kp.vfValid
    | 98 => s.sy.fValid
    | 100 => s.fr.firstValid
    | 101 => s.fr.stopValid
    | 102 => s.fr.wdogFired
    | 103 => s.sec.pending != 0#5
    | 106 => s.kp.waitFullSeen
    | 108 => s.obs.pm.ovf != 0#56
    | _ => false

/-- Reason code of tamper source t (R76 order). -/
def tamperCode : Nat → BitVec 16
  | 0 => Config.GLITCH
  | 1 => Config.SIGNATURE_FAIL
  | 2 => Config.DEBUG_ATTACK
  | 3 => Config.KEY_MISUSE
  | _ => Config.TWIN_AUTH_FAIL

/-- CODE and DATA that an event of a level source writes into CH_INFO (R450). -/
def chLevelInfo (s : State) (n : Nat) : BitVec 16 × W32 :=
  if n < 64 then
    let p := s.page n
    if p.noticeValid then (p.noticeCode, p.noticeCtx.setWidth 32) else (p.code, 0#32)
  else if n < 80 then ((s.core (n - 64)).hCode, (s.core (n - 64)).hStation.setWidth 32)
  else if n < 96 then ((s.core (n - 80)).se.fCode, (s.core (n - 80)).se.fStation.setWidth 32)
  else match n with
    | 96 => (if s.au.refused then s.au.refusal.code else Config.NONE, s.au.refusal.station.setWidth 32)
    | 97 => (s.kp.vfCode, s.kp.vfEntry.setWidth 32)
    | 98 => (s.sy.fCode, s.sy.fId.setWidth 32)
    | 100 => (s.fr.firstCode, s.fr.firstUnit.setWidth 32)
    | 101 => (s.fr.stopCode, s.fr.stopCause.setWidth 32)
    | 102 => (Config.RECOVERY_LOST, 0#32)
    | 103 =>
      let t := (leastNat (setBits 5 s.sec.pending.toNat)).getD 0
      (tamperCode t, BitVec.ofNat 32 t)
    | 106 => (Config.WAIT_TABLE_FULL, 0#32)
    | 108 => (Config.NONE, BitVec.ofNat 32 s.obs.pmLatest)
    | _ => (Config.NONE, 0#32)

/-- An event of a source (R452): CH_INFO is written, COUNT advances, the state moves. -/
def Src.event (x : Src) (code : BitVec 16) (data : W32) : Src :=
  { x with count := x.count + 1#16, data := data, code := code,
           st := (match x.st with | .idle => .pending | t => t),
           retrig := x.retrig || x.st == .active }

/-- Whether a sample makes an event (R451). -/
def Src.eventOn (x : Src) (cur : Bool) : Bool :=
  match x.sense.toNat with
  | 0 => cur && x.st == .idle
  | 1 => cur && !x.prev
  | 2 => !cur && x.prev
  | _ => cur != x.prev

/-- One sample of a source (R451). -/
def Src.sampleWith (x : Src) (cur : Bool) (code : BitVec 16) (data : W32) : Src :=
  let y := if x.eventOn cur then x.event code data else x
  { y with prev := cur }

/-- Live sources of a target (R455). -/
def State.liveSrcs (s : State) (t : Nat) : List (Nat × Src) :=
  s.chime.srcs.filter fun p => p.2.st == .pending && !p.2.masked && p.2.target.toNat == t

/-- Whether an output that is low may rise (R455). -/
def Target.mayRise (x : Target) (live : List (Nat × Src)) : Bool :=
  x.modUs == 0#10 || decide (x.modUs.toNat * 1000 ≤ x.timerNs) ||
    (x.modCount != 0#8 && decide (x.modCount.toNat ≤ live.length)) || x.idleIn || live.any fun p => p.2.urgent

/-- Evaluate one output (R455, R457, R463, R490). The output-stage cycles are timing (log entry 6). -/
def chEvalTarget (s : State) (t : Nat) : State :=
  let x := s.target t
  let live := s.liveSrcs t
  s.setTarget t
    (if x.wdogDrive then { x with out := true }
     else if s.chime.heldLow || s.boot.blkAsserted || s.boot.porAsserted then { x with out := false }
     else if live.isEmpty then { x with out := false, timerNs := 0 }
     else if x.out || x.mayRise live then { x with out := true, timerNs := 0 }
     else x)

/-- Evaluate the eight outputs (R455). -/
def chEval (s : State) : State := (List.range 8).foldl chEvalTarget s

/-- Whether the Chime runs: its domain is powered, out of reset and not restoring (R463, R490). -/
def State.chRuns (s : State) : Bool :=
  s.boot.power == .on && !s.boot.blkAsserted && !s.boot.porAsserted && !s.boot.chimeRestoring

/-- CHIME trace frame of an event (R477). -/
def chTrace (s : State) (n : Nat) (code : BitVec 16) : State := traceKeeper s 0x13 (leBytes 2 n ++ leBytes 2 code.toNat)

/-- Sample one level source and evaluate the outputs (R451, R455). -/
def chSample (s : State) (n : Nat) : State :=
  if s.chRuns then
    let i := chLevelInfo s n
    let s' := if (s.src n).eventOn (chSignal s n) then chTrace s n i.1 else s
    chEval (s'.setSrc n ((s.src n).sampleWith (chSignal s n) i.1 i.2))
  else s

/-- One pulse on a source: a rising and then a falling edge (R451). -/
def chPulse (s : State) (n : Nat) (code : BitVec 16) (data : W32) : State :=
  if s.chRuns then
    chEval ((chTrace s n code).setSrc n (((s.src n).sampleWith true code data).sampleWith false code data))
  else s

/-- The level sources of R450. -/
def chLevelSources : List Nat := (List.range 109).filter fun n => chDefaultSense n == 0#2

/-- Sample every level source (after BLK reset, and at the end of a restore). -/
def chSampleAll (s : State) : State := chLevelSources.foldl chSample s

/-- Software writes a pending bit (R452). -/
def Src.writePend (x : Src) (b : Bool) : Src :=
  match x.st, b with
  | .idle, true => { x with st := .pending, code := Config.NONE }
  | .pending, false => { x with st := .active, retrig := false }
  | .active, true => { x with retrig := true }
  | _, _ => x

/-- A completion of a source whose signal samples `cur` (R452). -/
def Src.completeWith (x : Src) (cur : Bool) : Src :=
  if x.retrig || (x.sense == 0#2 && cur) then { x with st := .pending, retrig := false }
  else { x with st := .idle, retrig := false }

/-- A stray completion (R452, R454). -/
def chStray (s : State) (n : Nat) : State :=
  { s with chime := { s.chime with strayCount := satInc s.chime.strayCount, strayLast := BitVec.ofNat 10 n } }

/-- A completion written through the global register (none) or the one of a target (R454). -/
def chComplete (s : State) (via : Option Nat) (n : Nat) : State :=
  let x := s.src n
  let routed := match via with
    | none => true
    | some t => x.target.toNat == t
  if routed && x.st == .active then chEval (s.setSrc n (x.completeWith (chSignal s n))) else chStray s n

/-- Count in the global set; a slot that saturates raises source 108 (R466). -/
def pmGlobal (s : State) (slot amount : Nat) : State :=
  let p := s.obs.pm.count slot amount
  let s' := { s with obs := { s.obs with pm := p } }
  if p.ovf = s.obs.pm.ovf then s' else chSample { s' with obs := { s'.obs with pmLatest := slot } } 108

/-- Count in the global set and in a context's set (R465). -/
def pmBoth (s : State) (ctx : Option Nat) (slot amount : Nat) : State :=
  let s := pmGlobal s slot amount
  match ctx with
  | some c => s.modCtx c fun x => { x with pm := x.pm.count slot amount }
  | none => s

/-- Count in the global set and in the running counts of a job (R465, R469). -/
def pmJob (s : State) (job : Option Nat) (slot amount : Nat) : State :=
  let s := pmGlobal s slot amount
  match job with
  | some n => (match s.job n with
    | some j => s.setJob n { j with counts := tput j.counts slot (tget 0 j.counts slot + amount) }
    | none => s)
  | none => s

/-- An event that a role check refused: ACCESS_DENIED on source 107 (R7, R450), with the queue or context it names. -/
def accessDeniedId (s : State) (id : Nat) : State := chPulse s 107 Config.ACCESS_DENIED (BitVec.ofNat 32 id)

/-- An access that a role check refused and that names no queue or context (R7, R450). -/
def accessDenied (s : State) : State := accessDeniedId s 0

end Sys2Proof.Machine
end

