-- ==== Sys2Proof/Machine/Access.lean ====
section
/-! DEFINITION. The host register port: which offsets are registers and who reaches them (R12, R516 to R519), and the
checks that come before any register access (R11, R495, R512, R490, R480, R519). -/

namespace Sys2Proof.Machine

/-- Access classes of R517; `i` is class T of CH_INFO, whose target is that of the source. -/
inductive RClass where
  | m | a | p | t | i
  deriving DecidableEq, Repr

/-- Registers of one table row: `ocount` groups `ostride` apart of `count` registers `stride` apart, `bytes` wide. -/
structure RegRow where
  base : Nat
  ostride : Nat
  ocount : Nat
  stride : Nat
  count : Nat
  bytes : Nat
  cls : RClass
  deriving DecidableEq, Repr

/-- Whether an offset is one of a row's registers. -/
def RegRow.has (r : RegRow) (off : Nat) : Bool :=
  let d := off - r.base
  decide (r.base ≤ off) && decide (d / r.ostride < r.ocount) && decide (d % r.ostride / r.stride < r.count) &&
    decide (d % r.ostride % r.stride < r.bytes)

/-- `count` registers in one run. -/
def regs (base stride count bytes : Nat) (cls : RClass) : RegRow :=
  { base := base, ostride := stride * count, ocount := 1, stride := stride, count := count, bytes := bytes, cls := cls }

/-- One 32-bit register and one 64-bit register. -/
def r32 (base : Nat) (cls : RClass) : RegRow := regs base 4 1 4 cls
def r64 (base : Nat) (cls : RClass) : RegRow := regs base 8 1 8 cls

/-- The KP_ registers (R516). -/
def kpRows : List RegRow :=
  [r32 0x10 .a, r32 0x500 .m, r32 0x508 .m, r64 0x510 .m, r32 0x518 .m, r32 0x520 .m, r32 0x528 .m, r64 0x600 .m,
   r32 0x608 .m, r32 0x610 .m, r64 0x618 .m, r32 0x620 .m, r32 0x628 .m, r64 0x630 .m, r32 0x638 .m, r32 0x63C .m,
   r32 0x700 .m, r32 0x800 .m, r64 0x808 .m, r32 0x810 .m, r64 0x818 .m, r64 0x820 .m, r32 0x828 .m, r32 0x830 .m,
   r64 0x900 .a, r32 0x908 .a, r32 0x90C .m, r64 0x910 .m, r32 0x918 .m, r32 0x91C .m, r64 0x920 .m, r64 0x928 .m]

/-- The ESC_ and AU_ registers. -/
def auRows : List RegRow :=
  [r32 0x100000 .a, r32 0x100004 .a, r64 0x100008 .a, r64 0x100010 .a, r64 0x100018 .a, r32 0x100020 .a, r32 0x100024 .a,
   r64 0x100100 .m, r32 0x100108 .m, r32 0x10010C .m, r32 0x100110 .m, r64 0x100118 .m, r64 0x100120 .m, r64 0x100128 .m,
   r64 0x100130 .m, r32 0x100138 .m, r32 0x10013C .m, regs 0x100140 8 6 8 .m, r32 0x100170 .m, regs 0x100200 4 8 4 .m,
   regs 0x100220 4 8 4 .m, regs 0x100400 8 64 8 .m, regs 0x100800 8 64 8 .m]

/-- The RG_ and SY_ registers. -/
def rgRows : List RegRow :=
  [regs 0x200000 8 8 8 .m, regs 0x200040 8 8 8 .m, regs 0x200080 8 8 8 .m, r32 0x200100 .m, r32 0x200104 .m,
   r32 0x200108 .m, r32 0x20010C .m, r32 0x200110 .m, regs 0x200118 8 4 8 .m, r32 0x200138 .m, r64 0x200200 .m,
   r32 0x200208 .m, r32 0x200300 .m, r64 0x200308 .m, r64 0x200310 .m, r32 0x200318 .m,
   { base := 0x200400, ostride := 32, ocount := 8, stride := 8, count := 3, bytes := 8, cls := .m },
   r32 0x300000 .m, r64 0x300008 .m, r64 0x300010 .m, r64 0x300018 .m, r64 0x300020 .m, r64 0x300028 .m, r32 0x300030 .m,
   r32 0x300034 .m, r32 0x300038 .m, r32 0x300100 .m, r64 0x300108 .m, r64 0x300110 .m, r32 0x300118 .m, r32 0x30011C .m,
   r64 0x300120 .m, r32 0x300128 .m, r64 0x300130 .m]

/-- The CH_ registers. -/
def chRows : List RegRow :=
  [regs 0x400000 4 1024 4 .m, regs 0x401000 8 16 8 .m, regs 0x401080 8 16 8 .m, regs 0x401100 8 16 8 .m, r32 0x401180 .m,
   r32 0x401184 .m, r32 0x401188 .m, r32 0x40118C .m, r32 0x401190 .m, regs 0x402000 8 1024 8 .i,
   { base := 0x404000, ostride := 0x400, ocount := 8, stride := 8, count := 16, bytes := 8, cls := .t },
   { base := 0x404080, ostride := 0x400, ocount := 8, stride := 8, count := 16, bytes := 8, cls := .t },
   { base := 0x404100, ostride := 0x400, ocount := 8, stride := 8, count := 16, bytes := 8, cls := .t },
   { base := 0x404180, ostride := 0x400, ocount := 8, stride := 8, count := 1, bytes := 4, cls := .t },
   { base := 0x404188, ostride := 0x400, ocount := 8, stride := 8, count := 1, bytes := 4, cls := .m },
   { base := 0x404190, ostride := 0x400, ocount := 8, stride := 8, count := 1, bytes := 8, cls := .t }]

/-- The SEC_ registers. -/
def secRows : List RegRow :=
  [r32 0x500000 .a, r64 0x500008 .m, r32 0x500010 .m, r32 0x500014 .m, r32 0x500018 .m, regs 0x500020 8 6 8 .a,
   regs 0x500080 8 24 8 .a, r32 0x500200 .m, r32 0x500208 .m, r64 0x500210 .m, r32 0x500300 .m, r32 0x500304 .m,
   regs 0x500310 4 5 4 .m, r64 0x500328 .m, regs 0x500400 8 6 8 .m, r64 0x500440 .m, r32 0x500448 .m, r32 0x50044C .m,
   regs 0x501000 8 256 8 .a, regs 0x502000 8 160 8 .a]

/-- The TW_, PL_, PM_, DBG_ and FR_ registers. -/
def obsRows : List RegRow :=
  [r32 0x600000 .m, r32 0x600004 .m, r64 0x600008 .m, regs 0x600010 8 6 8 .m, r64 0x600040 .m, r64 0x600048 .m,
   r32 0x600050 .m, r64 0x601000 .m, r64 0x601008 .m,
   { base := 0x601100, ostride := 0x100, ocount := 4, stride := 8, count := 2, bytes := 8, cls := .m },
   r32 0x700000 .m, r64 0x700008 .m, regs 0x700100 8 56 8 .m, r32 0x700400 .m, r64 0x700408 .m, r64 0x700300 .m,
   r32 0x700308 .m, r32 0x70030C .m, r64 0x700310 .m, r32 0x701000 .m, r32 0x701004 .m, r32 0x701008 .m,
   regs 0x701010 8 4 8 .m, r32 0x800000 .m, r64 0x800008 .m, r64 0x800010 .m, regs 0x800040 4 10 4 .m, r32 0x800100 .m,
   r64 0x800108 .m, r32 0x800110 .m, r64 0x800118 .m, r32 0x800120 .m, r64 0x800130 .m, r64 0x800200 .m, r32 0x800208 .m]

/-- A register of every mailbox page, and of every core window. -/
def page64 (off n bytes : Nat) : RegRow :=
  { base := 0x1000000 + off, ostride := 0x10000, ocount := 64, stride := 8, count := n, bytes := bytes, cls := .p }
def core64 (off n bytes : Nat) : RegRow :=
  { base := 0x2000000 + off, ostride := 0x100000, ocount := 16, stride := 8, count := n, bytes := bytes, cls := .m }

/-- The MB_ registers and those of the core windows. -/
def pageRows : List RegRow :=
  [page64 0 8 8, page64 0x40 1 4, page64 0x48 1 8, page64 0x50 4 8, page64 0x80 1 4, page64 0x88 1 8, page64 0x8000 1 8,
   core64 0 5 8, core64 0x40000 1 8, core64 0x80000 1 8, core64 0xC0000 3 8, core64 0xC0018 1 4, core64 0xC001C 1 4]

/-- Every register of the block window (R516). -/
def regRows : List RegRow := kpRows ++ auRows ++ rgRows ++ chRows ++ secRows ++ obsRows ++ pageRows

/-- The row of the register at an offset; none where the offset is reserved (R12, R516). -/
def regRowAt (off : Nat) : Option RegRow := regRows.find? fun r => r.has off

/-- Offset of a word in its register, and the register's offset. -/
def RegRow.start (r : RegRow) (off : Nat) : Nat := off - (off - r.base) % r.ostride % r.stride

/-- Ranges that answer before READY (R512, R518). -/
def answersEarly (off : Nat) : Bool :=
  off / 4 == 4 || (decide (0x900 ≤ off) && decide (off < 0x930)) || off / 0x100000 == 5 || off / 0x100000 == 6 ||
    off / 0x100000 == 8

/-- Ranges that answer in halt-all (R480, R518). -/
def answersHalted (off : Nat) : Bool :=
  off / 0x100000 == 5 || off / 0x100000 == 8 || (off / 0x100000 == 7 && decide (0x701000 ≤ off))

/-- Registers that a reader without a valid instance may read (R495). -/
def answersAnyone (off : Nat) : Bool :=
  off / 4 == 4 || off / 8 == 0x120 || off / 4 == 0x242 || (off / 0x100000 == 5 && (match regRowAt off with
    | some r => r.cls == .a
    | none => false))

/-- Count a refused access in KP_HOST_ERR (R495). -/
def hostErr (s : State) : State := { s with boot := { s.boot with hostErr := satInc s.boot.hostErr } }

/-- Core window of an offset (R12), if it lies in one. -/
def windowCore (off : Nat) : Option Nat :=
  if 0x2000000 ≤ off ∧ off < 0x3000000 then some ((off - 0x2000000) / 0x100000) else none

/-- Mailbox page of an offset, if it lies in one. -/
def pageOf (off : Nat) : Option Nat :=
  if 0x1000000 ≤ off ∧ off < 0x1400000 then some ((off - 0x1000000) / 0x10000) else none

/-- Whether a requester reaches the register word at an offset (R354, R416, R458, R517): class A of SEC_ may be read by
every requester, but its writes follow class M. -/
def State.reaches (s : State) (who : Who) (off : Nat) (write : Bool) : Bool :=
  match regRowAt off with
  | none => true
  | some r => match r.cls with
    | .a => who.inst == 0#6 || !write || off / 0x100000 != 5
    | .m => who.inst == 0#6
    | .p => who.inst == 0#6 || pageOf off == some who.inst.toNat
    | .t =>
      let t := s.target ((off - 0x404000) / 0x400)
      who.inst == 0#6 || (t.ownerValid && t.owner == who.inst)
    | .i =>
      let t := s.target (s.src ((off - 0x402000) / 8)).target.toNat
      who.inst == 0#6 || (t.ownerValid && t.owner == who.inst)

/-- A refused read is reported too on a mailbox page (R354); elsewhere only writes are (R54, R133, R179, R326, R349, R458). -/
def readReported (off : Nat) : Bool := match regRowAt off with
  | some r => r.cls == .p
  | none => false

/-- What the port makes of an access before the register sees it. -/
inductive Access where
  /-- it reads zero and its write is ignored; the state counts or reports it -/
  | ignored (s : State)
  /-- the register is accessed -/
  | granted
  deriving DecidableEq, Repr

/-- The checks of the host register port, in order: no answer at all (R490), alignment (R11), halt-all (R480), before
READY (R512), no valid instance (R495), fused window (R519), access class (R517). A misaligned access in the window of a
fused-off core is counted in KP_HOST_ERR alone. DESIGN CHOICE, log entry 82. -/
def hostCheck (s : State) (who : Who) (off : Nat) (write wide : Bool) : Access :=
  if !s.portAlive then .ignored s
  else if off % (if wide then 8 else 4) ≠ 0 then .ignored (hostErr s)
  else if s.obs.halted && !answersHalted off then .ignored s
  else if s.boot.state != .ready && !answersEarly off then .ignored (hostErr s)
  else if !who.valid && (write || !answersAnyone off) then .ignored (hostErr s)
  else if (match windowCore off with | some n => !s.present n | none => false) then
    .ignored { s with kp := { s.kp with fusedAccess := satInc s.kp.fusedAccess } }
  else if !s.reaches who off write then .ignored (if write || readReported off then accessDenied s else s)
  else .granted

/-- A register write of one of the host rows: the checks, then its effect. -/
def hostWrite (s : State) (who : Who) (off : Nat) (wide : Bool) (f : State → State) : State :=
  match hostCheck s who off true wide with
  | .ignored s => s
  | .granted => f s

/-- The manager's identity, for effects that come from the block itself. -/
def Who.manager : Who := { inst := 0#6, valid := true }

end Sys2Proof.Machine
end

