-- ==== Sys2Proof/Machine/Crypto.lean ====
section
/-! DEFINITION. The algorithms the spec names and takes from their standards: SHA-384 (FIPS 180-4), HMAC and HKDF (RFC 5869),
AES-256 (FIPS 197), the key unwrap KW (SP 800-38F) and XTS (IEEE 1619), for R81, R388 to R398, R403 and R408. The spec
states where they are used and not how they compute. PRESUMED, log entry 4. -/

namespace Sys2Proof.Machine

/-! ## SHA-384 -/

/-- Round constants 0 to 19 of SHA-384 (FIPS 180-4). -/
def shaK0 : List W64 :=
  [0x428A2F98D728AE22#64, 0x7137449123EF65CD#64, 0xB5C0FBCFEC4D3B2F#64, 0xE9B5DBA58189DBBC#64,
   0x3956C25BF348B538#64, 0x59F111F1B605D019#64, 0x923F82A4AF194F9B#64, 0xAB1C5ED5DA6D8118#64,
   0xD807AA98A3030242#64, 0x12835B0145706FBE#64, 0x243185BE4EE4B28C#64, 0x550C7DC3D5FFB4E2#64,
   0x72BE5D74F27B896F#64, 0x80DEB1FE3B1696B1#64, 0x9BDC06A725C71235#64, 0xC19BF174CF692694#64,
   0xE49B69C19EF14AD2#64, 0xEFBE4786384F25E3#64, 0x0FC19DC68B8CD5B5#64, 0x240CA1CC77AC9C65#64]

/-- Round constants 20 to 39 of SHA-384 (FIPS 180-4). -/
def shaK1 : List W64 :=
  [0x2DE92C6F592B0275#64, 0x4A7484AA6EA6E483#64, 0x5CB0A9DCBD41FBD4#64, 0x76F988DA831153B5#64,
   0x983E5152EE66DFAB#64, 0xA831C66D2DB43210#64, 0xB00327C898FB213F#64, 0xBF597FC7BEEF0EE4#64,
   0xC6E00BF33DA88FC2#64, 0xD5A79147930AA725#64, 0x06CA6351E003826F#64, 0x142929670A0E6E70#64,
   0x27B70A8546D22FFC#64, 0x2E1B21385C26C926#64, 0x4D2C6DFC5AC42AED#64, 0x53380D139D95B3DF#64,
   0x650A73548BAF63DE#64, 0x766A0ABB3C77B2A8#64, 0x81C2C92E47EDAEE6#64, 0x92722C851482353B#64]

/-- Round constants 40 to 59 of SHA-384 (FIPS 180-4). -/
def shaK2 : List W64 :=
  [0xA2BFE8A14CF10364#64, 0xA81A664BBC423001#64, 0xC24B8B70D0F89791#64, 0xC76C51A30654BE30#64,
   0xD192E819D6EF5218#64, 0xD69906245565A910#64, 0xF40E35855771202A#64, 0x106AA07032BBD1B8#64,
   0x19A4C116B8D2D0C8#64, 0x1E376C085141AB53#64, 0x2748774CDF8EEB99#64, 0x34B0BCB5E19B48A8#64,
   0x391C0CB3C5C95A63#64, 0x4ED8AA4AE3418ACB#64, 0x5B9CCA4F7763E373#64, 0x682E6FF3D6B2B8A3#64,
   0x748F82EE5DEFB2FC#64, 0x78A5636F43172F60#64, 0x84C87814A1F0AB72#64, 0x8CC702081A6439EC#64]

/-- Round constants 60 to 79 of SHA-384 (FIPS 180-4). -/
def shaK3 : List W64 :=
  [0x90BEFFFA23631E28#64, 0xA4506CEBDE82BDE9#64, 0xBEF9A3F7B2C67915#64, 0xC67178F2E372532B#64,
   0xCA273ECEEA26619C#64, 0xD186B8C721C0C207#64, 0xEADA7DD6CDE0EB1E#64, 0xF57D4F7FEE6ED178#64,
   0x06F067AA72176FBA#64, 0x0A637DC5A2C898A6#64, 0x113F9804BEF90DAE#64, 0x1B710B35131C471B#64,
   0x28DB77F523047D84#64, 0x32CAAB7B40C72493#64, 0x3C9EBE0A15C9BEBC#64, 0x431D67C49C100D4C#64,
   0x4CC5D4BECB3E42B6#64, 0x597F299CFC657E2A#64, 0x5FCB6FAB3AD6FAEC#64, 0x6C44198C4A475817#64]

/-- The round constants. -/
def shaK : List W64 := shaK0 ++ shaK1 ++ shaK2 ++ shaK3

/-- The eight words a hash starts from. -/
def shaStart : List W64 :=
  [0xCBBB9D5DC1059ED8#64, 0x629A292A367CD507#64, 0x9159015A3070DD17#64, 0x152FECD8F70E5939#64,
   0x67332667FFC00B31#64, 0x8EB44A8768581511#64, 0xDB0C2E0D64F98FA7#64, 0x47B5481DBEFA4FA4#64]

/-- Word i of a list. -/
def wordOf (l : List W64) (i : Nat) : W64 := l.getD i 0#64

/-- The next word of the message schedule, from the latest sixteen. -/
def shaNext (w : List W64) : W64 :=
  let a := wordOf w 14
  let b := wordOf w 1
  (a.rotateRight 19 ^^^ a.rotateRight 61 ^^^ a >>> 6) + wordOf w 9 +
    (b.rotateRight 1 ^^^ b.rotateRight 8 ^^^ b >>> 7) + wordOf w 0

/-- One round: the working words a to h, and the schedule's latest sixteen words. -/
def shaRound (x : List W64 × List W64) (k : W64) : List W64 × List W64 :=
  let v := x.1
  let w := x.2
  let e := wordOf v 4
  let a := wordOf v 0
  let b := wordOf v 1
  let c := wordOf v 2
  let t1 := wordOf v 7 + (e.rotateRight 14 ^^^ e.rotateRight 18 ^^^ e.rotateRight 41) +
    ((e &&& wordOf v 5) ^^^ (~~~e &&& wordOf v 6)) + k + wordOf w 0
  let t2 := (a.rotateRight 28 ^^^ a.rotateRight 34 ^^^ a.rotateRight 39) + ((a &&& b) ^^^ (a &&& c) ^^^ (b &&& c))
  ([t1 + t2, a, b, c, wordOf v 3 + t1, e, wordOf v 5, wordOf v 6], w.drop 1 ++ [shaNext w])

/-- The hash words after one block of 128 bytes. -/
def shaBlock (h : List W64) (block : List Byte) : List W64 :=
  let w := (List.range 16).map fun i => BitVec.ofNat 64 (beNat ((block.drop (8 * i)).take 8))
  List.zipWith (fun a b => a + b) h (shaK.foldl shaRound (h, w)).1

/-- A message with its padding: a one bit, zeros, and its length in bits as 16 bytes, the highest first. -/
def shaPad (bs : List Byte) : List Byte :=
  bs ++ 0x80#8 :: List.replicate ((111 + 128 - bs.length % 128) % 128) 0#8 ++ (leBytes 16 (8 * bs.length)).reverse

/-- The hash of `n` blocks. -/
def shaBlocks : Nat → List W64 → List Byte → List W64
  | 0, h, _ => h
  | n + 1, h, bs => shaBlocks n (shaBlock h (bs.take 128)) (bs.drop 128)

/-- The eight bytes of a word, the highest first. -/
def beWord (w : W64) : List Byte := (leBytes 8 w.toNat).reverse

/-- The 48 bytes of the SHA-384 value of a byte string. -/
def shaBytes (bs : List Byte) : List Byte :=
  let p := shaPad bs
  ((shaBlocks (p.length / 128) shaStart p).take 6).flatMap beWord

/-- SHA-384 of a byte string as a digest, byte 0 lowest. -/
def sha384 (bs : List Byte) : Digest := digestOfBytes (shaBytes bs)

/-! ## HMAC and HKDF -/

/-- HMAC-SHA-384 with a key of at most 128 bytes. -/
def hmac (key msg : List Byte) : List Byte :=
  let k := key ++ List.replicate (128 - key.length) 0#8
  shaBytes ((k.map fun b => b ^^^ 0x5C#8) ++ shaBytes ((k.map fun b => b ^^^ 0x36#8) ++ msg))

/-- HKDF-Expand for at most 48 bytes: one block. -/
def hkdfExpand (prk info : List Byte) (len : Nat) : List Byte := (hmac prk (info ++ [1#8])).take len

/-- HKDF for at most 48 bytes. -/
def hkdf (salt input info : List Byte) (len : Nat) : List Byte := hkdfExpand (hmac salt input) info len

/-- The bytes of an ASCII string. -/
def asciiBytes (s : String) : List Byte := s.toList.map fun c => BitVec.ofNat 8 c.toNat

/-! ## AES-256 -/

/-- Doubling in the field of AES. -/
def gfDouble (b : Byte) : Byte := (b <<< 1) ^^^ (if b.msb then 0x1B#8 else 0#8)

/-- A product in the field of AES, bit by bit of the second factor. -/
def gfMulBits : Nat → Byte → Byte → Byte
  | 0, _, _ => 0#8
  | n + 1, a, b => (if b.getLsbD 0 then a else 0#8) ^^^ gfMulBits n (gfDouble a) (b >>> 1)

/-- A product in the field of AES. -/
def gfMul (a b : Byte) : Byte := gfMulBits 8 a b

/-- The inverse in the field of AES, a to the power 254; of 0 it is 0. -/
def gfInv (a : Byte) : Byte :=
  let a2 := gfMul a a
  let a3 := gfMul a2 a
  let a12 := gfMul (gfMul a3 a3) (gfMul a3 a3)
  let a15 := gfMul a12 a3
  let a30 := gfMul a15 a15
  let a60 := gfMul a30 a30
  let a120 := gfMul a60 a60
  gfMul (gfMul a120 a120) (gfMul a12 a2)

/-- The S-box. -/
def aesSub (a : Byte) : Byte :=
  let b := gfInv a
  b ^^^ b.rotateLeft 1 ^^^ b.rotateLeft 2 ^^^ b.rotateLeft 3 ^^^ b.rotateLeft 4 ^^^ 0x63#8

/-- The inverse S-box. -/
def aesUnsub (a : Byte) : Byte := gfInv (a.rotateLeft 1 ^^^ a.rotateLeft 3 ^^^ a.rotateLeft 6 ^^^ 0x05#8)

/-- Exclusive or, byte by byte. -/
def xorBytes (a b : List Byte) : List Byte := List.zipWith (fun x y => x ^^^ y) a b

/-- Byte i of a block. -/
def byteOf (l : List Byte) (i : Nat) : Byte := l.getD i 0#8

/-- Bytes of a block picked by position: byte r + 4 c of the result is row r, column c. -/
def permute (f : Nat → Nat) (l : List Byte) : List Byte := (List.range 16).map fun i => byteOf l (f i)

/-- ShiftRows and its inverse. -/
def aesShift (l : List Byte) : List Byte := permute (fun i => (i + 4 * (i % 4)) % 16) l
def aesUnshift (l : List Byte) : List Byte := permute (fun i => (i + 16 - 4 * (i % 4)) % 16) l

/-- Each column times a circulant matrix whose first row is m. -/
def mixColumns (m : List Byte) (l : List Byte) : List Byte :=
  (List.range 16).map fun i =>
    (List.range 4).foldl (fun a j => a ^^^ gfMul (byteOf m ((j + 4 - i % 4) % 4)) (byteOf l (i / 4 * 4 + j))) 0#8

/-- MixColumns and its inverse. -/
def aesMix (l : List Byte) : List Byte := mixColumns [2#8, 3#8, 1#8, 1#8] l
def aesUnmix (l : List Byte) : List Byte := mixColumns [14#8, 11#8, 13#8, 9#8] l

/-- The next four bytes of the key schedule, word `n`, from the latest 32 bytes; `rcon` is the round constant. -/
def aesKeyWord (n : Nat) (rcon : Byte) (l : List Byte) : List Byte :=
  let last := l.drop 28
  let t := if n % 8 = 0 then xorBytes ((last.drop 1 ++ last.take 1).map aesSub) [rcon, 0#8, 0#8, 0#8]
    else if n % 8 = 4 then last.map aesSub else last
  xorBytes t (l.take 4)

/-- The key schedule from word n on, `k` words of it. -/
def aesKeysFrom : Nat → Nat → Byte → List Byte → List Byte
  | 0, _, _, _ => []
  | k + 1, n, rcon, l =>
    let w := aesKeyWord n rcon l
    w ++ aesKeysFrom k (n + 1) (if n % 8 = 0 then gfDouble rcon else rcon) (l.drop 4 ++ w)

/-- The fifteen round keys of a 32-byte key, 16 bytes each. -/
def aesKeys (key : List Byte) : List (List Byte) :=
  let l := key ++ aesKeysFrom 52 8 1#8 key
  (List.range 15).map fun i => (l.drop (16 * i)).take 16

/-- AES-256 encryption of one block. -/
def aesEncrypt (key block : List Byte) : List Byte :=
  let ks := aesKeys key
  let x := ((ks.drop 1).take 13).foldl (fun x k => xorBytes (aesMix (aesShift (x.map aesSub))) k) (xorBytes block (ks.getD 0 []))
  xorBytes (aesShift (x.map aesSub)) (ks.getD 14 [])

/-- AES-256 decryption of one block. -/
def aesDecrypt (key block : List Byte) : List Byte :=
  let ks := aesKeys key
  let x := ((ks.drop 1).take 13).reverse.foldl (fun x k => aesUnmix (xorBytes ((aesUnshift x).map aesUnsub) k))
    (xorBytes block (ks.getD 14 []))
  xorBytes ((aesUnshift x).map aesUnsub) (ks.getD 0 [])

/-! ## KW -/

/-- One step back of the unwrap: step t of the register A and the semiblocks, taken from the last. -/
def kwStep (key : List Byte) (x : List Byte × List (List Byte)) (t : Nat) : List Byte × List (List Byte) :=
  let r := x.2.getLastD []
  let b := aesDecrypt key (xorBytes x.1 (leBytes 8 t).reverse ++ r)
  (b.take 8, b.drop 8 :: x.2.dropLast)

/-- The plaintext of a wrapped key of `n` semiblocks and one, none where the integrity check fails. -/
def kwUnwrap (key bs : List Byte) (n : Nat) : Option (List Byte) :=
  let rs := (List.range n).map fun i => (bs.drop (8 * (i + 1))).take 8
  let x := ((List.range (6 * n)).reverse).foldl (fun x t => kwStep key x (t + 1)) (bs.take 8, rs)
  if x.1 = List.replicate 8 0xA6#8 then some x.2.flatten else none

/-! ## XTS -/

/-- The tweak times the generator, byte 0 lowest. -/
def xtsDouble (t : List Byte) : List Byte :=
  let n := 2 * leNat t
  if n < 2 ^ 128 then leBytes 16 n else leBytes 16 ((n - 2 ^ 128) ^^^ 0x87)

/-- The tweak doubled n times. -/
def xtsTweak : Nat → List Byte → List Byte
  | 0, t => t
  | n + 1, t => xtsTweak n (xtsDouble t)

/-- Encryption (`enc`) or decryption of 16-byte block `block` of an object or version, counted from its byte 0, under a key
pair, Key1 in the low half: block n is block n % 256 of data unit n / 256, whose tweak is n / 256 (R398). -/
def xtsBlock (enc : Bool) (key : BitVec 512) (block : Nat) (bs : List Byte) : List Byte :=
  let k1 := leBytes 32 key.toNat
  let k2 := leBytes 32 (key.toNat >>> 256)
  let t := xtsTweak (block % 256) (aesEncrypt k2 (leBytes 16 (block / 256)))
  xorBytes (if enc then aesEncrypt k1 (xorBytes bs t) else aesDecrypt k1 (xorBytes bs t)) t

/-- Byte i of such a block. -/
def xtsByte (enc : Bool) (key : BitVec 512) (block : Nat) (bs : List Byte) (i : Nat) : Byte :=
  byteOf (xtsBlock enc key block bs) i

end Sys2Proof.Machine
end

