-- ==== Sys2Proof/Machine/Faults.lean ====
section
/-! DEFINITION. Error records shared by every chapter: FR_STATUS, FR_FIRST and FR_CE_COUNT (R417, R418, R449), and the
refusal of an admission (R26, R44, R45). -/

namespace Sys2Proof.Machine

/-- Set the sticky bit of an error class (R418). -/
def frSeen (s : State) (cls : Nat) : State :=
  { s with fr := { s.fr with classSeen := s.fr.classSeen ||| BitVec.ofNat 5 (2 ^ cls) } }

/-- Record an error of class JOB or above (R418): FR_STATUS always, FR_FIRST if it holds none. UNIT, CORE and PARTITION
hold a free value where none applies (log entry 10). -/
def errRecord (s : State) (cls : Nat) (unit core part : Option Nat) (code : BitVec 16) (addr : Nat) : State :=
  let s := frSeen s cls
  if s.fr.firstValid then s
  else
    let d := s.drawWord
    let w := d.1.toNat
    let s := d.2
    chSample
      { s with fr := { s.fr with
          firstValid := true, firstClass := BitVec.ofNat 3 cls,
          firstUnit := BitVec.ofNat 4 (unit.getD (bitField w 3 0)),
          firstCore := BitVec.ofNat 4 (core.getD (bitField w 7 4)),
          firstPart := BitVec.ofNat 3 (part.getD (bitField w 10 8)),
          firstBeat := s.esc.beatCount.setWidth 32, firstCode := code, firstAddr := BitVec.ofNat 48 addr } } 100

/-- Count a corrected error or refetch of a unit (R417, R419). -/
def frCorrected (s : State) (unit : Nat) : State :=
  let s := pmGlobal (frSeen s 0) 16 1
  { s with fr := { s.fr with ce := tput s.fr.ce unit (satInc (tget 0#32 s.fr.ce unit)) } }

/-- The fields that a failing check gives AU_REFUSAL and AU_DEFICIT besides the code (R45, R54). -/
structure Refused where
  code : BitVec 16
  station : Nat
  pass : Bool
  core : Option Nat
  window : Option (Nat × Nat)
  deficit : Nat
  deriving DecidableEq, Repr

/-- A refusal that names no station, core or window. -/
def refusedPlain (code : BitVec 16) : Refused := { code := code, station := 0xFFFF, pass := false, core := none, window := none, deficit := 0 }

/-- Write the refusal registers and raise the event (R42, R44). -/
def auRecord (s : State) (r : Refused) : State :=
  chSample
    { s with au := { s.au with
        refused := true, lastCode := r.code,
        refusal := { pass := r.pass, coreValid := r.core.isSome, windowValid := r.window.isSome,
                     core := BitVec.ofNat 4 (r.core.getD 0),
                     window := BitVec.ofNat 3 (match r.window with | some p => p.2 | none => 0),
                     part := BitVec.ofNat 3 (match r.window with | some p => p.1 | none => 0),
                     station := BitVec.ofNat 16 r.station, code := r.code },
        deficit := BitVec.ofNat 48 r.deficit } } 96

/-- Refuse the admission in progress: the unit returns to IDLE and nothing of the image is kept (R26, R44). -/
def auRefuse (s : State) (r : Refused) : State :=
  let s := pmGlobal s 21 1
  auRecord { s with au := { s.au with state := .idle, cand := none, candPlace := none, candInflated := false } } r

end Sys2Proof.Machine
end

