-- ==== Sys2Proof/Machine/Memory.lean ====
section
/-! DEFINITION. Memory objects (R243 to R250), device memory as the block reads and writes it, write-watch (R84, R167),
the dirty log's view of writes (R377) and the choice of memory ports (R114). -/

namespace Sys2Proof.Machine

/-! ## Handles and entries -/

/-- Index field of a handle (R13). -/
def handleIndex (h : W32) : Nat := bitField h.toNat 17 0

/-- Generation field of a handle (R13). -/
def handleGen (h : W32) : Nat := bitField h.toNat 31 18

/-- A handle is stale (R247, R520: a reserved entry still reads FREE). -/
def State.isStale (s : State) (h : W32) : Bool :=
  let o := s.obj (handleIndex h)
  handleGen h == 0 || handleGen h != o.gen.toNat || o.state != .mapped || handleIndex h == 0

/-- VSTRIDE of an object (R245). -/
def vstride (size : Nat) : Nat := roundUp 65536 size

/-- The entry whose VERSION and fence records an entry uses: its root (R252). -/
def State.rootOf (s : State) (i : Nat) : Nat := (s.obj i).parent

/-- Device address of byte 0 of version v of an entry; only OUTPUT objects have two (R245). -/
def State.versionBase (s : State) (i : Nat) (v : Bool) : Nat :=
  let o := s.obj i
  if o.kind = .output then o.base + b2n v * vstride o.size else o.base

/-- Current VERSION of an entry (R245, R252). -/
def State.version (s : State) (i : Nat) : Bool := (s.obj (s.rootOf i)).version

/-- Imports that hold a reference on a root: an import does until it is unmapped (R250, R288). -/
def State.importsOf (s : State) (i : Nat) : Nat :=
  s.objs.countP fun p => p.1 != i && p.2.parent == i && p.2.state == .mapped

/-- References of commands past fetch on an entry (R250). -/
def State.cmdRefs (s : State) (i : Nat) : Nat :=
  s.queues.foldl (fun n q => n + q.2.cmds.foldl (fun m c => m + c.refs.count i) 0) 0

/-- References of queues on the objects of their rings (R250). -/
def State.ringRefs (s : State) (i : Nat) : Nat :=
  s.queues.countP fun q => q.2.state != .free && (q.2.ringObj == i || q.2.complObj == i)

/-- References of station slot bindings (R250). -/
def State.bindRefs (s : State) (i : Nat) : Nat :=
  match s.run with
  | some r => r.bindings.countP fun b => b.2.obj == i
  | none => 0

/-- References of counter record rings (R470). -/
def State.recRefs (s : State) (i : Nat) : Nat :=
  s.ctxs.countP fun c => match c.2.ring with | some r => r.obj == i | none => false

/-- References other than those of importers (R249). -/
def State.ownRefs (s : State) (i : Nat) : Nat :=
  b2n ((s.obj i).state == .mapped) + s.cmdRefs i + s.ringRefs i + s.bindRefs i + s.recRefs i

/-- REFS of an entry (R244, R250). -/
def State.refs (s : State) (i : Nat) : Nat := s.ownRefs i + s.importsOf i

def ObjState.code : ObjState → Nat
  | .free => 0 | .mapped => 1 | .freeing => 2 | .orphaned => 3

def ObjKind.code : ObjKind → Nat
  | .plain => 0 | .output => 1 | .fence => 2 | .record => 3

/-- The 32 bytes of an object table entry (R244). -/
def State.objBytes (s : State) (i : Nat) : List Byte :=
  let o := s.obj i
  leBytes 8 o.base ++ leBytes 8 o.size ++ leBytes 2 o.gen.toNat ++ leBytes 2 o.owner.toNat ++
    leBytes 1 o.state.code ++ leBytes 1 o.kind.code ++
    leBytes 1 (b2n o.writable + 2 * b2n o.isSealed + 4 * b2n o.encrypted + 8 * b2n o.share + 16 * b2n o.version +
      32 * b2n o.bound + 64 * b2n o.basin) ++
    leBytes 1 o.shareInst.toNat ++ leBytes 4 (o.parent + o.keySlot.toNat * 2 ^ 18) ++ leBytes 4 (s.refs i)

/-- Whether an address lies in the object table in use (R243). -/
def State.inObjTable (s : State) (a : Nat) : Bool :=
  s.kp.objEnable && decide (s.kp.objBase.toNat ≤ a) && decide (a < s.kp.objBase.toNat + 8388608)

/-- A memory-port request of a core or a copy engine reaches into the object table in use: the port refuses it with
ACCESS_DENIED (R243). -/
def State.hitsObjTable (s : State) (a len : Nat) : Bool := s.kp.objEnable && overlaps s.kp.objBase.toNat 8388608 a len

/-- One byte of device memory as the Keeper and the engines read it: the object table where it lies, memory elsewhere. -/
def State.byteAt (s : State) (a : Nat) : Byte :=
  if s.inObjTable a then
    ((s.objBytes ((a - s.kp.objBase.toNat) / 32)).drop ((a - s.kp.objBase.toNat) % 32)).headD 0#8
  else memGet s.mem a

/-- Consecutive bytes of device memory. -/
def State.readBytes (s : State) (a len : Nat) : List Byte := (List.range len).map fun i => s.byteAt (a + i)

/-- A little-endian number in device memory. -/
def State.readLE (s : State) (a len : Nat) : Nat := leNat (s.readBytes a len)

/-- The basin copy of an object's first bytes: poisoned lines stay marked (R123, R423). -/
def State.basinOf (s : State) (obj len : Nat) : BasinCopy :=
  let base := s.versionBase obj (s.version obj)
  { bytes := memPutAll [] 0 (s.readBytes base len), len := len,
    badLines := ((linesOf 0 len).filter fun l => s.poison.contains (base / 128 + l)).map fun l => (l, Config.MEM_POISON) }

/-- Bytes that the shared pool of basin ways holds, and those that its copies take (R126). -/
def State.poolSize (s : State) : Nat := match s.run with
  | some r => (16 - r.place.resWays.flatten.length) * 4194304
  | none => 16 * 4194304
def State.poolUsed (s : State) : Nat := s.pool.foldl (fun a p => a + p.2.2.len) 0

/-- An OBJECT_MAP has asked for a copy of its object in the shared pool: it is made at once if the pool has room for it (R126; log
entry 89). -/
def poolCopy (s : State) (i : Nat) : State :=
  let o := s.obj i
  if o.basin && o.parent == i && decide (s.poolUsed + o.size ≤ s.poolSize) then
    { s with pool := tput s.pool i (s.versionBase i (s.version i), s.basinOf i o.size) }
  else s

/-- Copies that the shared pool has no ways for any more after a swap go (R126; log entry 89). -/
def poolSettle (s : State) : State := if s.poolUsed ≤ s.poolSize then s else { s with pool := [] }

/-! ## Ports (R33, R114) -/

/-- Ports reserved by the running image. -/
def State.reservedPorts (s : State) : List Nat := match s.run with
  | some r => r.place.resPorts.flatten
  | none => []

/-- Ports of the unreserved pool. -/
def State.poolPorts (s : State) : List Nat := s.openPorts.filter fun p => !s.reservedPorts.contains p

/-- The OBJECT entry of a slot in an image. -/
def Image.slotDecl (g : Image) (slot : Nat) : Option SlotDecl := g.slots.find? fun d => d.slot.toNat == slot

/-- The ports that carry the traffic of an OBJECT slot: its partition's reserved ones where the slot is RESERVED (R114, R347). -/
def State.slotPorts (s : State) (slot : Nat) : List Nat := match s.run with
  | some r => match r.img.slotDecl slot with
    | some d => if d.reserved then r.place.resPorts.getD d.part [] else s.poolPorts
    | none => s.poolPorts
  | none => s.poolPorts

/-- The ports that carry a job's traffic to what a slot number or handle names: the slot's for a station, unreserved ones for a
free job (R347). -/
def State.jobPorts (s : State) (j : Job) (objRef : W32) : List Nat := match j.kind with
  | .station _ => s.slotPorts objRef.toNat
  | .free _ _ _ => s.poolPorts

/-- The port of a 4 KiB granule (R114). With no port to choose from, port 0 stands for none. -/
def granulePort (ports : List Nat) (off : Nat) : Nat :=
  if ports.isEmpty then 0 else ports.getD (off / 4096 % ports.length) 0

/-- A port holds the new requests of a tag (R425, R496). -/
def State.throttles (s : State) (port : Nat) (tag : BitVec 16) : Bool := (s.port port).throttled.contains tag

/-- An unreserved port holds the requests of a partition's copy engine (R425, R496; log entry 97). -/
def State.copyHeld (s : State) (p : Nat) : Bool :=
  s.poolPorts.any fun k => (s.port k).throttled.any fun t => bitField t.toNat 15 14 == 1 && bitField t.toNat 13 11 == p

/-- An unreserved port holds the Keeper's requests (R425, R496; log entry 97). -/
def State.keeperHeld (s : State) : Bool :=
  s.poolPorts.any fun k => (s.port k).throttled.any fun t => bitField t.toNat 15 14 == 2

/-! ## Writes by the block -/

/-- Written 4 KiB pages of a generation that a write touches, counted from the page of its base (R160). -/
def Gen.touched (g : Gen) (a len : Nat) : List Nat :=
  if len = 0 then []
  else (List.range ((g.base + g.len - 1) / 4096 - g.base / 4096 + 1)).filter fun k =>
    overlaps ((g.base / 4096 + k) * 4096) 4096 a len

/-- Write-watch on generations (R164, R167). -/
def Gen.watch (g : Gen) (a len : Nat) : Gen :=
  if g.state = .free then g
  else
    let t := g.touched a len
    if t.isEmpty then g else { g with state := .replaced, written := t.foldl (fun w k => insertNat k w) g.written }

/-- Holders of a generation: LAUNCHes past fetch and jobs (R162). -/
def State.holders (s : State) (e : Nat) : Nat :=
  s.queues.foldl (fun n q => n + q.2.cmds.countP fun c => c.gen == some e) 0 + s.jobs.countP fun j => j.2.gen == e

/-- The generation table after a watched write: touched generations are REPLACED, and a free one without holders is FREE at
once (R164). Its cached lines go before its entry is used again (R163). -/
def State.watchGens (s : State) (a len : Nat) : Tbl Gen :=
  (s.gens.map fun p => (p.1, p.2.watch a len)).filter fun p =>
    !(p.2.state == .replaced && !p.2.station && s.holders p.1 == 0)

/-- Write-watch: generations, and the image under admission (R84). AU_IMAGE_ADDR and AU_IMAGE_LEN are not latched: a rewrite of
them after START moves the range that VERIFY reads and that is watched. AU_SIG_DETAIL keeps what it held when the refusal
comes before check 1 has a result. DESIGN CHOICE, log entry 81. -/
def writeWatch (s : State) (a len : Nat) : State :=
  let s := { s with gens := s.watchGens a len }
  if s.au.state != .idle && overlaps s.au.imageAddr.toNat s.au.imageLen.toNat a len then
    auRefuse s (refusedPlain Config.IMAGE_MALFORMED)
  else s

/-- Number of a 64 KiB page of an instance's granted memory (R376), if the address lies there. -/
def pageIn : List (Nat × Nat) → Nat → Option Nat
  | [], _ => none
  | (b, l) :: r, a =>
    if b ≤ a ∧ a < b + l then some ((a - b) / 65536)
    else match pageIn r a with
      | some k => some (l / 65536 + k)
      | none => none

/-- The pages that a write touches (R377). -/
def pagesIn (mem : List (Nat × Nat)) (a len : Nat) : List Nat :=
  if len = 0 then []
  else ((List.range ((a + len - 1) / 65536 - a / 65536 + 1)).map fun k => (a / 65536 + k) * 65536).filterMap (pageIn mem)

/-- Set the dirty bits of a write (R377). -/
def Inst.dirtyWrite (i : Inst) (a len : Nat) : Inst :=
  if i.dirty.enable then
    { i with dirty := { i.dirty with set := (pagesIn i.pools.mem a len).foldl (fun w k => insertNat k w) i.dirty.set } }
  else i

/-- Dirty bits of every instance (R377). -/
def dirtyMark (s : State) (a len : Nat) : State :=
  { s with insts := s.insts.map fun p => (p.1, p.2.dirtyWrite a len) }

/-- The pieces of a byte range by 4 KiB granule: (address, bytes). -/
def granules : Nat → Nat → List Byte → List (Nat × List Byte)
  | 0, _, _ => []
  | n + 1, a, bs =>
    if bs.isEmpty then []
    else
      let k := 4096 - a % 4096
      (a, bs.take k) :: granules n (a + min k bs.length) (bs.drop k)

/-- Bytes of memory after a write; a poisoned line is cured only when it is written whole (R498). A copy in the shared pool of
ways goes when the block writes to what it copies (R126; log entry 89). -/
def storeBytes (s : State) (a : Nat) (bs : List Byte) : State :=
  { s with mem := memPutAll s.mem a bs,
           pool := s.pool.filter fun p => !overlaps p.2.1 p.2.2.len a bs.length,
           poison := s.poison.filter fun l => !(decide (a ≤ 128 * l) && decide (128 * l + 128 ≤ a + bs.length)) }

/-- A write by the block: dirty bits and write-watch first (R167, R377), then memory, and one unacknowledged request per
4 KiB granule on its port (R114, R496). `off` is the offset in the object, which chooses the port. -/
def blockWrite (s : State) (owner : WriteOwner) (inst : Nat) (ctx : Option Nat) (ports : List Nat) (off a : Nat) (bs : List Byte) :
    State :=
  if bs.isEmpty then s
  else
    let s := pmGlobal (storeBytes (writeWatch (dirtyMark s a bs.length) a bs.length) a bs) 5 bs.length
    { s with writes := s.writes ++ (granules (bs.length / 4096 + 2) a bs).map fun g =>
        { port := granulePort ports (off + (g.1 - a)), addr := g.1, len := g.2.length, inst := inst, ctx := ctx,
          owner := owner, flips := [] } }

/-- A write of the Keeper into an object, at a byte offset of its current memory, over unreserved ports (R347). -/
def objWrite (s : State) (owner : WriteOwner) (i off : Nat) (bs : List Byte) : State :=
  let o := s.obj i
  blockWrite s owner o.inst (some o.owner.toNat) s.poolPorts off (o.base + off) bs

/-- Whether every write of an owner has been acknowledged. -/
def State.acked (s : State) (p : WriteOwner → Bool) : Bool := s.writes.all fun w => !p w.owner

end Sys2Proof.Machine
end

