-- ==== Sys2Proof/Machine/Image.lean ====
section
/-! DEFINITION. The structure image: its parts as numbers (R55 to R79), the layout check of R80 and the framing step of
R81. -/

namespace Sys2Proof.Machine

/-! ## Parsing -/

/-- A directory entry (R59). -/
structure DirEntry where
  type : Nat
  flags : Nat
  off : Nat
  len : Nat
  count : Nat
  deriving DecidableEq, Repr

/-- The directory of the image at `base` (R59). -/
def readDir (s : State) (base n : Nat) : List DirEntry :=
  (List.range n).map fun i =>
    let a := base + 0x80 + 16 * i
    { type := s.readLE a 2, flags := s.readLE (a + 2) 2, off := s.readLE (a + 4) 4, len := s.readLE (a + 8) 4,
      count := s.readLE (a + 12) 4 }

/-- The entry of a section type, if present (R60). -/
def dirFind (d : List DirEntry) (t : Nat) : Option DirEntry := d.find? fun e => e.type == t

/-- Addresses of the entries of a tabular section (R61). -/
def secEntries (base : Nat) (d : List DirEntry) (t size : Nat) : List Nat :=
  match dirFind d t with
  | none => []
  | some e => (List.range e.count).map fun i => base + e.off + size * i

/-- Address of a section's first byte, if it is present. -/
def secBase (base : Nat) (d : List DirEntry) (t : Nat) : Option Nat := (dirFind d t).map fun e => base + e.off

def readPartition (s : State) (a : Nat) : Partition :=
  { index := s.readLE a 1, coreCount := s.readLE (a + 1) 1, realtime := bitAt (s.readLE (a + 2) 1) 0,
    mirrored := bitAt (s.readLE (a + 2) 1) 1, windowCount := s.readLE (a + 3) 1, freeDw := s.readLE (a + 4) 2,
    resPorts := s.readLE (a + 6) 1, resWays := s.readLE (a + 7) 1, grant := BitVec.ofNat 64 (s.readLE (a + 8) 8),
    freeScratch := s.readLE (a + 16) 4 }

def readWindow (s : State) (a : Nat) : Window :=
  { part := s.readLE a 1, index := s.readLE (a + 1) 1, cls := if s.readLE (a + 2) 1 = 0 then .graph else .free,
    startUs := s.readLE (a + 4) 4, lenUs := s.readLE (a + 8) 4, guardExtra := s.readLE (a + 12) 4 }

def readStation (s : State) (a : Nat) : Station :=
  { index := s.readLE a 2, part := s.readLE (a + 2) 1, win := s.readLE (a + 3) 1, cores := s.readLE (a + 4) 1,
    features := BitVec.ofNat 2 (s.readLE (a + 5) 1), graph := s.readLE (a + 6) 1, bound := s.readLE (a + 8) 4,
    energyUj := s.readLE (a + 12) 4, share := s.readLE (a + 16) 4, progOffset := s.readLE (a + 0x14) 4,
    progLen := s.readLE (a + 0x18) 4, entry := s.readLE (a + 0x1C) 4, key := BitVec.ofNat 64 (s.readLE (a + 0x20) 8),
    objFirst := s.readLE (a + 0x28) 4, objCount := s.readLE (a + 0x2C) 2 }

def readEdge (s : State) (a : Nat) : Edge :=
  { src := s.readLE a 2, dst := s.readLE (a + 2) 2, staged := s.readLE (a + 4) 1 != 0, mib := s.readLE (a + 8) 4,
    tileBytes := s.readLE (a + 12) 4 }

def readCounterDecl (s : State) (a : Nat) : CounterDecl :=
  { key := BitVec.ofNat 32 (s.readLE a 4), waiter := s.readLE (a + 4) 2, graph := s.readLE (a + 6) 1,
    error := s.readLE (a + 7) 1 != 0, initial := BitVec.ofNat 32 (s.readLE (a + 8) 4) }

def readSlotDecl (s : State) (a : Nat) : SlotDecl :=
  { slot := BitVec.ofNat 32 (s.readLE a 4), inst := s.readLE (a + 4) 1, reserved := bitAt (s.readLE (a + 5) 1) 0,
    output := bitAt (s.readLE (a + 5) 1) 1, isSealed := bitAt (s.readLE (a + 5) 1) 2, part := s.readLE (a + 6) 1,
    size := s.readLE (a + 8) 8, basinBytes := s.readLE (a + 16) 8 }

def readMirror (s : State) (a : Nat) : Mirror :=
  { mask := BitVec.ofNat 8 (s.readLE a 1), role := s.readLE (a + 1) 1 != 0, failover := s.readLE (a + 2) 1 != 0,
    hbPeriod := s.readLE (a + 4) 2, hbMiss := s.readLE (a + 6) 2, planId := BitVec.ofNat 32 (s.readLE (a + 8) 4),
    twinDigest := digestOfBytes (s.readBytes (a + 0x10) 48) }

/-- The parsed tables of the image at `base` (R83). -/
def readImage (s : State) (base len : Nat) : Image :=
  let d := readDir s base (s.readLE (base + 0x18) 2)
  let beat := (secBase base d 1).getD base
  let tamper := (secBase base d 9).getD base
  { imageId := BitVec.ofNat 32 (s.readLE (base + 8) 4), seq := BitVec.ofNat 32 (s.readLE (base + 12) 4),
    needs := BitVec.ofNat 2 (s.readLE (base + 0x1D) 1),
    digest := digestOfBytes (s.readBytes (base + s.readLE (base + 0x14) 4 + 8) 48),
    base := base, len := len, progBase := (secBase base d 10).getD base,
    progLen := (match dirFind d 10 with | some e => e.len | none => 0),
    periodUs := s.readLE beat 4, capDw := s.readLE (beat + 4) 2, pausesPerBeat := s.readLE (beat + 6) 1,
    pauseMaxUs := s.readLE (beat + 7) 1, replayNs := s.readLE (beat + 8) 4,
    parts := (secEntries base d 2 32).map (readPartition s), windows := (secEntries base d 3 16).map (readWindow s),
    stations := (secEntries base d 4 64).map (readStation s), edges := (secEntries base d 5 16).map (readEdge s),
    counters := (secEntries base d 6 16).map (readCounterDecl s), slots := (secEntries base d 7 32).map (readSlotDecl s),
    mirror := (secBase base d 8).map (readMirror s),
    tamper := (List.range 5).map fun i => BitVec.ofNat 2 (s.readLE (tamper + i) 1) }

/-! ## Derived quantities -/

def Image.part (g : Image) (p : Nat) : Option Partition := g.parts[p]?
def Image.station (g : Image) (n : Nat) : Option Station := g.stations[n]?

/-- The window of a partition with an index (R65). -/
def Image.window (g : Image) (p w : Nat) : Option Window := g.windows.find? fun x => x.part == p && x.index == w

/-- Stations of a partition, in index order. -/
def Image.stationsOf (g : Image) (p : Nat) : List Station := g.stations.filter fun t => t.part == p

/-- Stations of a window, in index order. -/
def Image.stationsIn (g : Image) (p w : Nat) : List Station := g.stations.filter fun t => t.part == p && t.win == w

/-- The OBJECT entries of a station's OBJ range (R66). -/
def Image.objRange (g : Image) (t : Station) : List SlotDecl := (g.slots.drop t.objFirst).take t.objCount

/-- Whether a station's share is sealed (R104). -/
def Image.sealedStation (g : Image) (t : Station) : Bool := (g.objRange t).any fun d => d.isSealed

/-- Core count of a station by index. -/
def Image.coresOf (g : Image) (n : Nat) : Nat := match g.station n with | some t => t.cores | none => 0

/-- Round trip of a lane of H hops, in network cycles (R116). -/
def laneRtt (h : Nat) : Nat := 22 + 6 * h

/-- Slots of a lane's ring (R117). -/
def laneSlots (h tile : Nat) : Nat := 1 + ceilDiv (laneRtt h * 128) tile

/-- Send lanes of a slot of a station (R97). -/
def Image.sendLanes (g : Image) (n : Nat) : Nat :=
  (g.edges.filter fun e => !e.staged && e.src == n).foldl (fun a e => a + g.coresOf e.dst) 0

/-- Receive lanes of a slot of a station (R97). -/
def Image.recvLanes (g : Image) (n : Nat) : Nat :=
  (g.edges.filter fun e => !e.staged && e.dst == n).foldl (fun a e => a + g.coresOf e.src) 0

/-- RESERVE of a station's share (R103). -/
def Image.reserve (g : Image) (n : Nat) : Nat :=
  roundUp 4096 (64 * (g.sendLanes n + g.recvLanes n) +
    (g.edges.filter fun e => !e.staged && e.dst == n).foldl
      (fun a e => a + g.coresOf e.src * (laneSlots 6 e.tileBytes * e.tileBytes)) 0)

/-- DIRLEN of a graph's counter directory (R298). -/
def Image.dirLen (g : Image) (graph : Nat) : Nat := roundUp 128 (4 * (g.counters.filter fun c => c.graph == graph).length)

/-- Working area of a station's share (R103). -/
def Image.workLen (g : Image) (t : Station) : Nat := t.share - g.reserve t.index

/-! ## The layout check (R80) -/

/-- A broken rule that involves no station, where the condition is false. -/
def bad (ok : Bool) : List (Option Nat) := if ok then [] else [none]

/-- A broken rule that involves a station, where the condition is false. -/
def badAt (st : Nat) (ok : Bool) : List (Option Nat) := if ok then [] else [some st]

/-- Whether every byte of a range is zero. -/
def zeroRange (s : State) (a len : Nat) : Bool := (s.readBytes a len).all fun b => b == 0#8

/-- NEEDS disagrees with the stations' FEATURES (R58, R80): a station is involved whose FEATURES have a bit that NEEDS lacks. -/
def badNeeds (g : Image) : List (Option Nat) :=
  let extra := g.stations.filter fun t => t.features &&& ~~~ g.needs != 0#2
  if extra.isEmpty then bad (g.stations.foldl (fun a t => a ||| t.features) 0#2 == g.needs) else extra.map fun t => some t.index

/-- Rules of the header (R57) other than those of R81 step 1. -/
def badHeader (s : State) (base : Nat) (g : Image) : List (Option Nat) :=
  bad (decide (4 ≤ s.readLE (base + 0x18) 2) && decide (s.readLE (base + 0x18) 2 ≤ 10)) ++
  bad (decide (s.readLE (base + 0x1A) 2 ≤ 4096) && s.readLE (base + 0x1A) 2 == g.stations.length) ++
  bad (decide (1 ≤ s.readLE (base + 0x1C) 1) && decide (s.readLE (base + 0x1C) 1 ≤ 8) &&
    s.readLE (base + 0x1C) 1 == g.parts.length) ++
  bad (decide (s.readLE (base + 0x1D) 1 < 4)) ++
  bad (zeroRange s (base + 0x1E) 2 && zeroRange s (base + 0x24) 4 && zeroRange s (base + 0x30) 80) ++
  badNeeds g ++
  bad (zeroRange s (base + s.readLE (base + 0x14) 4 + 6) 2 && zeroRange s (base + s.readLE (base + 0x14) 4 + 0x1585) 59)

/-- ENTRY_SIZE of a tabular section type (R61). -/
def entrySize : Nat → Nat
  | 1 => 32 | 2 => 32 | 3 => 16 | 4 => 64 | 5 => 16 | 6 => 16 | 7 => 32 | 8 => 128 | 9 => 16 | _ => 0

/-- Rules of one directory entry (R59 to R61). -/
def badEntry (n : Nat) (sig : Nat) (e : DirEntry) : List (Option Nat) :=
  bad (decide (1 ≤ e.type) && decide (e.type ≤ 10)) ++ bad (e.flags == 0) ++
  bad (e.off % 64 == 0 && decide (0x80 + 16 * n ≤ e.off) && decide (e.off + e.len ≤ sig)) ++
  bad (e.type == 10 || e.len == entrySize e.type * e.count) ++
  bad (if e.type = 1 ∨ e.type = 8 ∨ e.type = 9 then e.count == 1
       else if e.type = 10 then e.count == 0
       else e.type == 5 || e.type == 6 || e.type == 7 || decide (1 ≤ e.count))

/-- Order and separation of the directory (R60), and zero padding between the regions: no gap but what aligns a section to 64
bytes, and the padding region before the signature (R55). Of two sections at one OFFSET the first of LENGTH 0, the order
counts as increasing. DESIGN CHOICE, log entry 81. -/
def badOrder (s : State) (base sig : Nat) : Nat → List DirEntry → List (Option Nat)
  | prev, [] => bad (decide (prev ≤ sig) && zeroRange s (base + prev) (sig - prev))
  | prev, e :: r =>
    bad (e.off == roundUp 64 prev) ++ bad (zeroRange s (base + prev) (e.off - prev)) ++ badOrder s base sig (e.off + e.len) r

/-- Presence of the sections (R60, R61). -/
def badPresence (d : List DirEntry) (g : Image) : List (Option Nat) :=
  bad ((d.map fun e => e.type).eraseDups.length == d.length) ++
  bad ((dirFind d 1).isSome && (dirFind d 2).isSome && (dirFind d 3).isSome && (dirFind d 9).isSome) ++
  bad ((dirFind d 4).isSome == decide (0 < g.stations.length)) ++
  bad ((dirFind d 10).isSome == decide (0 < g.stations.length)) ++
  bad ((dirFind d 8).isSome == g.parts.any fun p => p.mirrored)

/-- Rules of BEAT apart from BEAT_RANGE (R62). -/
def badBeat (s : State) (a : Nat) (g : Image) : List (Option Nat) :=
  bad (decide (g.pausesPerBeat ≤ 4) && decide (g.pauseMaxUs ≤ 10) && ((g.pausesPerBeat == 0) == (g.pauseMaxUs == 0))) ++
  bad (decide (1 ≤ g.replayNs) && decide (g.replayNs ≤ 100000)) ++ bad (zeroRange s (a + 12) 20)

/-- Rules of PARTITION entries (R63, R64). -/
def badPartition (s : State) (g : Image) (i a : Nat) (p : Partition) : List (Option Nat) :=
  bad (p.index == i) ++ bad (decide (1 ≤ p.coreCount) && decide (p.coreCount ≤ 16)) ++ bad (decide (s.readLE (a + 2) 1 < 4)) ++
  bad (decide (1 ≤ p.windowCount) && decide (p.windowCount ≤ 8) &&
    p.windowCount == (g.windows.filter fun w => w.part == i).length) ++
  bad (decide (p.freeDw ≤ 2000)) ++ bad (decide (p.resPorts ≤ 46) && (p.realtime || p.resPorts == 0)) ++
  bad (decide (p.resWays ≤ 16) && (p.realtime || p.resWays == 0)) ++
  bad (p.freeScratch % 4096 == 0 && decide (p.freeScratch ≤ 20971520)) ++ bad (zeroRange s (a + 0x14) 12) ++
  bad (!p.mirrored || p.realtime)

/-- Rules of WINDOW entries (R22, R65). -/
def badWindow (s : State) (g : Image) (a : Nat) (w : Window) : List (Option Nat) :=
  bad (decide (w.part < g.parts.length)) ++ bad (decide (s.readLE (a + 2) 1 < 2)) ++ bad (zeroRange s (a + 3) 1) ++
  bad (decide (50 ≤ w.lenUs) && decide (w.startUs + w.lenUs ≤ g.periodUs)) ++
  bad (w.index == (g.windows.filter fun x => x.part == w.part && decide (x.startUs < w.startUs)).length)

/-- Order of the WINDOW entries, and windows of one partition apart (R22, R65). -/
def badWindowOrder : List Window → List (Option Nat)
  | a :: b :: r =>
    bad (decide (a.part < b.part) || (a.part == b.part && decide (a.startUs + a.lenUs ≤ b.startUs))) ++ badWindowOrder (b :: r)
  | _ => []

/-- Rules of a STATION entry (R37, R66, R97, R103). -/
def badStation (s : State) (g : Image) (i a : Nat) (t : Station) : List (Option Nat) :=
  badAt i (t.index == i) ++
  badAt i (match g.window t.part t.win with | some w => w.cls == .graph | none => false) ++
  badAt i (match g.part t.part with | some p => decide (1 ≤ t.cores) && decide (t.cores ≤ p.coreCount) | none => false) ++
  badAt i (decide (s.readLE (a + 5) 1 < 4)) ++ badAt i (zeroRange s (a + 7) 1 && zeroRange s (a + 0x2E) 18) ++
  badAt i (decide (1 ≤ t.bound)) ++ badAt i (t.share % 4096 == 0 && decide (t.share ≤ 20971520)) ++
  badAt i (t.progOffset % 64 == 0 && t.progLen % 16 == 0 && decide (t.progOffset + t.progLen ≤ g.progLen)) ++
  badAt i (t.entry % 16 == 0 && decide (t.entry < t.progLen)) ++
  badAt i (decide (t.objFirst + t.objCount ≤ g.slots.length) || t.objCount == 0) ++
  badAt i (decide (t.energyUj * 40 ≤ t.bound * t.cores)) ++
  badAt i (decide (g.sendLanes i ≤ 64) && decide (g.recvLanes i ≤ 64)) ++ badAt i (decide (g.reserve i + g.dirLen t.graph ≤ t.share)) ++
  badAt i (decide ((g.counters.filter fun c => c.graph == t.graph).length ≤ 4096)) ++
  (g.stations.filter fun u => decide (u.index < i) && u.key == t.key).flatMap (fun u => badAt u.index false) ++
  (g.stations.filter fun u => u.graph == t.graph && u.part != t.part).flatMap (fun u => badAt (min u.index i) false) ++
  (g.objRange t).flatMap (fun d => badAt i (d.part == t.part)) ++
  (g.stations.filter fun u => decide (u.index < i) && (List.range u.objCount).any fun k =>
    decide (t.objFirst ≤ u.objFirst + k) && decide (u.objFirst + k < t.objFirst + t.objCount) &&
      (match g.slots[u.objFirst + k]? with | some d => d.output | none => false)).flatMap (fun u => badAt u.index false)

/-- Rules of an EDGE entry (R35, R68, R69, R104). -/
def badEdge (s : State) (g : Image) (a : Nat) (e : Edge) : List (Option Nat) :=
  let st := min e.src e.dst
  match g.station e.src, g.station e.dst with
  | some t, some u =>
    badAt st (e.src != e.dst && t.graph == u.graph) ++ badAt st (decide (s.readLE (a + 4) 1 < 2)) ++
    badAt st (zeroRange s (a + 5) 3) ++ badAt st (decide (1 ≤ e.mib)) ++
    badAt st (e.tileBytes % 128 == 0 && decide (128 ≤ e.tileBytes) && decide (e.tileBytes ≤ 1048576)) ++
    badAt st ((g.edges.filter fun x => x.src == e.src && x.dst == e.dst).length == 1) ++
    badAt st (if e.staged then decide (t.win ≤ u.win) else t.win == u.win) ++
    badAt st (e.staged || !g.sealedStation t || g.sealedStation u)
  | some _, none => badAt e.src false
  | none, some _ => badAt e.dst false
  | none, none => [none]

/-- Stations left when those with no staged predecessor or no staged successor among them are removed, again and again: the
ones that a cycle involves (R69). -/
def peelStaged (es : List Edge) : Nat → List Nat → List Nat
  | 0, l => l
  | n + 1, l =>
    let keep := l.filter fun x => (es.any fun e => e.staged && e.dst == x && l.contains e.src) &&
      es.any fun e => e.staged && e.src == x && l.contains e.dst
    if keep.length = l.length then l else peelStaged es n keep

/-- Stations that staged edges lead to from those of a list. -/
def stagedReach (es : List Edge) : Nat → List Nat → List Nat
  | 0, l => l
  | n + 1, l =>
    let more := ((es.filter fun e => e.staged && l.contains e.src && !l.contains e.dst).map fun e => e.dst).eraseDups
    if more.isEmpty then l else stagedReach es n (l ++ more)

/-- Stations of a list that lie on a cycle of staged edges themselves (R69, R80). -/
def onCycles (es : List Edge) (n : Nat) (l : List Nat) : List Nat :=
  l.filter fun x => (stagedReach es n ((es.filter fun e => e.staged && e.src == x).map fun e => e.dst)).contains x

/-- Rules of a COUNTER entry (R70, R71). -/
def badCounter (s : State) (g : Image) (a : Nat) (c : CounterDecl) : List (Option Nat) :=
  match g.station c.waiter with
  | none => [none]
  | some t =>
    badAt c.waiter (t.graph == c.graph) ++ badAt c.waiter (decide (s.readLE (a + 7) 1 < 2)) ++
    badAt c.waiter (zeroRange s (a + 12) 4) ++
    badAt c.waiter ((g.counters.filter fun x => x.key == c.key && x.graph == c.graph).length == 1)

/-- Rules of an OBJECT entry (R72, R73). -/
def badSlot (s : State) (g : Image) (a : Nat) (d : SlotDecl) : List (Option Nat) :=
  bad ((g.slots.filter fun x => x.slot == d.slot).length == 1) ++
  bad (match g.part d.part with
    | some p => decide (d.inst < 64) && bitAt p.grant.toNat d.inst && (!d.reserved || p.realtime)
    | none => false) ++
  bad (decide (s.readLE (a + 5) 1 < 8)) ++ bad (zeroRange s (a + 7) 1 && zeroRange s (a + 0x18) 8) ++
  bad (decide (1 ≤ d.size) && decide (d.size < 2 ^ 48)) ++ bad ((d.reserved || d.basinBytes == 0) && decide (d.basinBytes ≤ d.size))

/-- Rules of MIRROR and TAMPER (R75 to R77). -/
def badPlan (s : State) (base : Nat) (d : List DirEntry) (g : Image) : List (Option Nat) :=
  (match secBase base d 8, g.mirror with
   | some a, some m =>
     bad (m.mask.toNat == maskOf ((g.parts.filter fun p => p.mirrored).map fun p => p.index)) ++
     bad (decide (s.readLE (a + 1) 1 < 2) && decide (s.readLE (a + 2) 1 < 2)) ++
     bad (zeroRange s (a + 3) 1 && zeroRange s (a + 12) 4 && zeroRange s (a + 0x40) 64) ++
     bad (decide (10 ≤ m.hbPeriod) && decide (m.hbPeriod ≤ 100)) ++ bad (decide (1 ≤ m.hbMiss) && decide (m.hbMiss ≤ 16))
   | _, _ => []) ++
  (match secBase base d 9 with
   | some a => bad ((List.range 5).all fun i => decide (s.readLE (a + i) 1 < 4)) ++ bad (zeroRange s (a + 5) 11)
   | none => [])

/-- Every rule of R80 that the image at `base` breaks, each with the station it involves. -/
def badLayout (s : State) (base : Nat) (g : Image) : List (Option Nat) :=
  let n := s.readLE (base + 0x18) 2
  let d := readDir s base n
  let sig := s.readLE (base + 0x14) 4
  badHeader s base g ++ d.flatMap (badEntry n sig) ++ badOrder s base sig (0x80 + 16 * n) d ++ badPresence d g ++
  badBeat s ((secBase base d 1).getD base) g ++
  (g.parts.zipIdx.zip (secEntries base d 2 32)).flatMap (fun x => badPartition s g x.1.2 x.2 x.1.1) ++
  bad (decide ((g.parts.filter fun p => p.realtime).length ≤ 4)) ++
  bad (decide (g.parts.foldl (fun a p => a + p.coreCount) 0 ≤ 16)) ++
  (g.windows.zip (secEntries base d 3 16)).flatMap (fun x => badWindow s g x.2 x.1) ++ badWindowOrder g.windows ++
  (g.stations.zipIdx.zip (secEntries base d 4 64)).flatMap (fun x => badStation s g x.1.2 x.2 x.1.1) ++
  (g.edges.zip (secEntries base d 5 16)).flatMap (fun x => badEdge s g x.2 x.1) ++
  (match leastNat (onCycles g.edges g.stations.length (peelStaged g.edges g.stations.length (g.stations.map fun t => t.index))) with
   | some t => badAt t false
   | none => []) ++
  (g.counters.zip (secEntries base d 6 16)).flatMap (fun x => badCounter s g x.2 x.1) ++
  bad (decide (g.counters.length ≤ 131072)) ++
  (g.slots.zip (secEntries base d 7 32)).flatMap (fun x => badSlot s g x.2 x.1) ++ badPlan s base d g ++
  bad (match s.run with | some r => decide (r.img.seq.toNat ≤ g.seq.toNat) | none => true)

/-- The layout check: the station that R80 names if it fails. -/
def layoutFault (s : State) (base : Nat) (g : Image) : Option Nat :=
  let b := badLayout s base g
  if b.isEmpty then none else some ((leastNat (b.filterMap id)).getD 0xFFFF)

/-- Step 1 of R81 for an image of `len` bytes with a magic and a format (R57, R510). -/
def framingOk (s : State) (base len magic : Nat) (hlen : Bool) : Bool :=
  s.readLE base 4 == magic && s.readLE (base + 4) 2 == 1 && (!hlen || s.readLE (base + 6) 2 == 128) &&
    s.readLE (base + (if hlen then 0x10 else 0x08)) 4 == len && decide (5568 ≤ len) &&
    s.readLE (base + 0x14) 4 == len - 5568 && (len - 5568) % 64 == 0 &&
    s.readLE (base + (len - 5568)) 4 == 0x4B474953 && s.readLE (base + (len - 5568) + 4) 2 == 3

/-- What steps 2 to 5 of R81 find about a signature block: whether the SHA-384 of the signed bytes equals DIGEST, the SHA-384
of the two public keys, and the two verdicts. -/
structure SigVerdict where
  digestOk : Bool
  keyDigest : Digest
  ecdsaOk : Bool
  mldsaOk : Bool
  deriving DecidableEq, Repr

/-- Steps 2 to 5 of R81 for the signed bytes and the signature block laid out as R82. -/
def sigVerdict (body block : List Byte) : SigVerdict :=
  let d := digestOfBytes (block.drop 0x08)
  let ecdsaPub := (block.drop 0x38).take 96
  let mldsaPub := (block.drop 0xF8).take 1952
  { digestOk := sha384 body == d, keyDigest := sha384 (ecdsaPub ++ mldsaPub),
    ecdsaOk := Config.ecdsaVerifies ecdsaPub ((block.drop 0x98).take 96) d,
    mldsaOk := Config.mldsaVerifies mldsaPub ((block.drop 0x898).take 3309) d }

/-- The verdict on `len` bytes of memory that end in their signature block (R81, R510). -/
def State.imageVerdict (s : State) (base len : Nat) : SigVerdict :=
  sigVerdict (s.readBytes base (len - 5568)) (s.readBytes (base + (len - 5568)) 5568)

/-- AU_SIG_DETAIL of a signature check (R81): FRAME alone, or the four steps. -/
def sigDetail (frameOk : Bool) (keyOk : Bool) (v : SigVerdict) : BitVec 5 :=
  if frameOk then BitVec.ofNat 5 (2 * b2n (!v.digestOk) + 4 * b2n (!keyOk) + 8 * b2n (!v.ecdsaOk) + 16 * b2n (!v.mldsaOk))
  else 1#5

end Sys2Proof.Machine
end

