-- ==== Sys2Proof/Machine/Kill.lean ====
section
/-! DEFINITION. How a job's kill begins: its slots stop at once, and a station takes its graph with it (R51, R52, R131,
R132, R171). KILL_COMPLETE ends the kill of each core. -/

namespace Sys2Proof.Machine

/-- Station index of a job as CORE_HALT and SE_FAULT show it: 0xFFFF for a free job (R133, R179). -/
def Job.stationCode (j : Job) : BitVec 16 := match j.kind with
  | .station n => BitVec.ofNat 16 n
  | .free _ _ _ => 0xFFFF#16

/-- Station code of the job on a core. -/
def State.coreStation (s : State) (c : Nat) : BitVec 16 :=
  match (s.core c).job with
  | some n => (match s.job n with | some j => j.stationCode | none => 0xFFFF#16)
  | none => 0xFFFF#16

/-- Partition of the job on a core, if it runs one. -/
def State.corePart (s : State) (c : Nat) : Option Nat :=
  match (s.core c).job with
  | some n => (s.job n).map fun j => j.part
  | none => none

/-- A core stops: every engine and thread drops its work and no write is issued any more (R51, R131). -/
def Core.stopWork (k : Core) : Core :=
  { k with
    st := .killing, stall := 0#3, watch := none, fetched := none, prefetch := [],
    me := { k.me with queue := [], running := [] },
    ve := { k.ve with queue := [], groups := [], chains := [] },
    se := { k.se with threads := [], mcasts := [] } }

/-- Stop the cores of a job. -/
def stopCores (s : State) (cs : List Nat) : State := cs.foldl (fun s c => s.modCore c Core.stopWork) s

/-- Device address of an instruction of the job on a core (R171). -/
def State.instrAddr (s : State) (c : Nat) (off : Nat) : Nat :=
  match (s.core c).job with
  | some n => (match s.job n with | some j => (s.gen j.gen).base + off | none => off)
  | none => off

/-- Record a halt in CORE_HALT, CORE_HALT_ADDR and CORE_HALT_DATA unless one is held (R179). -/
def haltRecord (s : State) (c : Nat) (code : BitVec 16) (addr : Nat) (data : W64) (co : Bool) : State :=
  if (s.core c).hValid then s
  else
    chSample (s.setCore c { s.core c with
      hValid := true, hCode := code, hSlot := BitVec.ofNat 4 (s.core c).slot, hStation := s.coreStation c,
      hAddr := BitVec.ofNat 48 addr, hData := data, hCoKilled := co }) (64 + c)

/-- A station that is killed without a halt of its own is reported on each of its cores (R52, R132, R413, R428): the code, the
address of the last fetched instruction, and the bound counter for BOUND_OVERRUN; for another code the spec states no
data, and it is free (log entry 87). -/
def reportKill (s : State) (j : Job) (code : BitVec 16) (co : Bool) : State :=
  match j.kind with
  | .free _ _ _ => s
  | .station _ => j.cores.foldl (fun s c =>
      let d := s.drawWord
      let k := s.core c
      haltRecord d.2 c code (s.instrAddr c k.lastFetch) (if code = Config.BOUND_OVERRUN then k.boundUsed.setWidth 64 else d.1) co) s

/-- A job runs and is not being killed: an ended station that waits for its commit does not run. -/
def Job.killable (j : Job) : Bool := j.kill.isNone && !j.cores.isEmpty

/-- Begin the kill of one job. A job that is already being killed is left as it is (R344). Of its arrivals at flights those in
a round that has not completed stay: they break their flights (R322 cause 0). -/
def killOne (s : State) (n : Nat) (why : KillWhy) (code : BitVec 16) (detail : W64) (co : Bool) : State :=
  match s.job n with
  | none => s
  | some j =>
    if !j.killable then s
    else
      stopCores (s.setJob n { j with kill := some why, killCode := code, detail := detail, coKilled := co,
                                     killing := j.cores, deferred := false,
                                     arrivals := j.arrivals.filter fun a => (s.flight a.1).round == a.2 }) j.cores

/-- Graph of a station of the running image. -/
def State.graphOf (s : State) (st : Nat) : Option Nat := match s.run with
  | some r => (r.img.station st).map fun t => t.graph
  | none => none

/-- The running station jobs of a graph. -/
def State.graphJobs (s : State) (g : Nat) : List Nat :=
  (s.jobs.filter fun p => match p.2.kind with
    | .station st => s.graphOf st == some g
    | .free _ _ _ => false).map fun p => p.1

/-- A station is killed with its graph: it is reported with the code and CO_KILLED (R52, R132). -/
def coKill (s : State) (n : Nat) (code : BitVec 16) : State :=
  match s.job n with
  | none => s
  | some j => if !j.killable then s else killOne (reportKill s j code true) n .fault code 0#64 true

/-- Every other running station of a graph is killed with CO_KILLED, and no station of it launches again in this beat
(R52, R132). -/
def killGraph (s : State) (g : Nat) (code : BitVec 16) : State :=
  (s.graphJobs g).foldl (fun s n => coKill s n code)
    ((pmGlobal s 15 1).modRun fun r => { r with killedGraphs := insertNat g r.killedGraphs })

/-- Begin the kill of a job; a station's graph goes with it unless the kill is one of a disable, a teardown or a stop. -/
def killJob (s : State) (n : Nat) (why : KillWhy) (code : BitVec 16) (detail : W64) : State :=
  match s.job n with
  | none => s
  | some j =>
    if !j.killable then s
    else
      let s := killOne s n why code detail false
      match j.kind with
      | .free _ _ _ => s
      | .station st => match s.graphOf st with
        | some g => killGraph s g code
        | none => s

/-- Why a halt kills: a bound overrun is charged as one (R338). -/
def haltWhy (code : BitVec 16) : KillWhy := if code = Config.BOUND_OVERRUN then .bound else .fault

/-- A core halts with a code: the halt is recorded; with halt hold the core is HELD, otherwise its job is killed
(R171, R173). A held halt keeps its code and data in the job. -/
def haltCore (s : State) (c : Nat) (code : BitVec 16) (unit : Option Nat) (addr : Nat) (data : W64) : State :=
  let part := s.corePart c
  let s := pmJob s (s.core c).job 10 1
  let s := errRecord (haltRecord s c code addr data false) 1 unit (some c) part code addr
  match (s.core c).job with
  | none => s
  | some n =>
    if bitAt s.obs.hold.toNat c then
      let s := s.modCore c fun k => { k with st := .held, stall := 0#3 }
      match s.job n with
      | some j => if j.kill.isSome then s else s.setJob n { j with killCode := code, detail := data }
      | none => s
    else
      killJob s n (haltWhy code) code data

/-- Halt at the instruction at `off` of the generation, with the data of R171. -/
def haltAt (s : State) (c : Nat) (code : BitVec 16) (off : Nat) (data : W64) : State :=
  haltCore s c code none (s.instrAddr c off) data

/-- Several cores halt together, each at an instruction of its own: every halt is recorded before the kills begin (R125). -/
def haltReaders (s : State) (l : List (Nat × Nat)) (code : BitVec 16) (data : W64) : State :=
  let s := l.foldl (fun s x => haltRecord s x.1 code (s.instrAddr x.1 x.2) data false) s
  l.foldl (fun s x => if (s.core x.1).st = .running then haltAt s x.1 code x.2 data else s) s

/-- A stream fault: SE_FAULT records the first, and the whole job is killed with its graph (R131 to R133). OP: 0 LOAD,
1 STORE, 2 SEND, 3 MCAST, 4 RELEASE. `sram` is the unit of the line that an SRAM_UNCORRECTABLE fault has read (R419). -/
def streamFault (s : State) (c : Nat) (thread : Nat) (op : Nat) (sram : Nat) (code : BitVec 16) (addr : Nat) : State :=
  let k := s.core c
  let s :=
    if k.se.fValid then s
    else chSample (s.setCore c { k with se := { k.se with
      fValid := true, fThread := BitVec.ofNat 6 thread, fOp := BitVec.ofNat 3 op, fStation := s.coreStation c,
      fCode := code, fAddr := BitVec.ofNat 48 addr } }) (80 + c)
  let unit := if code = Config.SRAM_UNCORRECTABLE then some sram else if code = Config.MEM_POISON then some 8 else none
  let s := errRecord (pmJob s k.job 11 1) 1 unit (some c) (s.corePart c) code addr
  match k.job with
  | none => s
  | some n => killJob s n .fault code (BitVec.ofNat 64 addr)

end Sys2Proof.Machine
end

