-- ==== Sys2Proof/Machine/LinkSend.lean ====
section
/-! DEFINITION. Sending on a Towpath link: credits, sequence numbers and replay storage (R502, R504). -/

namespace Sys2Proof.Machine

/-- Frames of a message (R503): one, but for HELLO and PROOF. -/
def LinkMsg.frames : LinkMsg → Nat
  | .hello => 4
  | .proof => 105
  | _ => 1

/-- Control frames carry SEQ 0, take no credit and are never replayed (R502). -/
def LinkMsg.control : LinkMsg → Bool
  | .idle => true
  | .linkInit => true
  | .nak _ => true
  | _ => false

/-- One frame leaves: CREDITS returns the buffers freed since the previous frame (R502). -/
def Link.emit (l : Link) (m : LinkMsg) : Link := { l with freed := 0, last := some m, sent := l.sent + 1 }

/-- Send waiting messages while a credit is held for every frame and fewer than 256 frames are unacknowledged (R504). -/
def Link.pump : Nat → Link → Link
  | 0, l => l
  | n + 1, l =>
    match l.waiting with
    | [] => l
    | m :: r =>
      if m.frames ≤ l.credits ∧ l.unacked.length + m.frames ≤ 256 then
        Link.pump n ({ l with
          waiting := r, credits := l.credits - m.frames, txSeq := l.txSeq + BitVec.ofNat 16 m.frames,
          unacked := l.unacked ++ (List.range m.frames).map fun i => (l.txSeq + BitVec.ofNat 16 i, m) }.emit m)
      else l

/-- A link layer may send at all: not while BLK_RST_N is asserted or without power, and nothing on the twin link of a halted
device (R480, R490, R492). -/
def State.maySend (s : State) (n : Nat) : Bool :=
  !s.boot.blkAsserted && !s.boot.porAsserted && s.boot.power == .on && !(n == 0 && s.obs.halted)

/-- Frames of the authenticated session carry a send counter (R503, R506). -/
def LinkMsg.authed : LinkMsg → Bool
  | .heartbeat _ => true
  | .yield _ _ => true
  | .recoveryLost _ => true
  | .arrive _ _ => true
  | .release _ _ => true
  | .brk _ _ => true
  | _ => false

/-- The send counter of the twin session advances with each frame that carries AUTH (R506). -/
def countAuth (s : State) (n : Nat) (m : LinkMsg) : State :=
  if n = 0 ∧ s.tw.authed = true ∧ m.authed = true then { s with tw := { s.tw with txCtr := s.tw.txCtr + 1#64 } } else s

/-- Send a message: nothing leaves on a link that is not UP, except a control frame of a link that is past WAIT_PHY
(R505). -/
def linkSend (s : State) (n : Nat) (m : LinkMsg) : State :=
  let l := s.link n
  if !s.maySend n then s
  else if m.control then
    if l.state = .disabled ∨ l.state = .waitPhy then s else s.setLink n (l.emit m)
  else if l.state = .up then
    (countAuth s n m).setLink n (Link.pump (l.waiting.length + 1) { l with waiting := l.waiting ++ [m] })
  else s

end Sys2Proof.Machine
end

