-- ==== Sys2Proof/Machine/Sync.lean ====
section
/-! DEFINITION. Sync counters and flights (R294 to R325): access, comparison, updates, faults, abandonment, rounds and
breaking. -/

namespace Sys2Proof.Machine

/-! ## Access and comparison -/

/-- Home core of a counter ID (R13). -/
def ctrHome (id : BitVec 17) : Nat := bitField id.toNat 16 13

/-- Instance of a job's context; a station has none. -/
def State.jobInst (s : State) (j : Job) : Option Nat := match j.kind with
  | .station _ => none
  | .free q _ _ => some (s.ctx (s.queue q).ctx).inst

/-- How a core uses a counter (R296). -/
inductive CoreUse where
  | wait | take | add
  deriving DecidableEq, Repr

/-- The flight whose counter this is (OWNER of a flight counter). -/
def State.ctrFlight (s : State) (id : BitVec 17) : Flight := s.flight (s.counter id.toNat).owner.toNat

/-- Whether a job may use a counter (R296, R71). -/
def State.coreMayUse (s : State) (j : Job) (use : CoreUse) (id : BitVec 17) : Bool :=
  let c := s.counter id.toNat
  c.state != .free && s.present (ctrHome id) &&
    (match j.kind, c.kind with
     | .station st, .graph => s.graphOf st == some c.owner.toNat
     | .free _ _ _, .context =>
       (s.jobInst j == some c.inst.toNat || s.jobInst j == some c.shareInst.toNat)
     | .free _ _ _, .flightArrive => use == .add && (match s.jobInst j with
       | some n => bitAt (s.ctrFlight id).grant.toNat n | none => false)
     | .free _ _ _, .flightRelease => use == .wait && (match s.jobInst j with
       | some n => bitAt (s.ctrFlight id).grant.toNat n | none => false)
     | _, _ => false)

/-- Partition whose stations a graph runs in (R67). -/
def State.graphPart (s : State) (g : Nat) : Option Nat := match s.run with
  | some r => (r.img.stations.find? fun t => t.graph == g).map fun t => t.part
  | none => none

/-- Instance grant of a partition of the running image (R63, R327). -/
def State.partGrant (s : State) (p : Nat) : BitVec 64 := match s.run with
  | some r => (match r.img.part p with | some x => x.grant | none => 0#64)
  | none => 0#64

/-- Whether a partition is declared and granted to an instance (R327). -/
def State.granted (s : State) (p inst : Nat) : Bool := bitAt (s.partGrant p).toNat inst

/-- Whether a queue of an instance may WAIT on a counter (R296). -/
def State.queueMayWait (s : State) (inst : Nat) (id : BitVec 17) : Bool :=
  let c := s.counter id.toNat
  c.state != .free && s.present (ctrHome id) &&
    (match c.kind with
     | .graph => (match s.graphPart c.owner.toNat with | some p => s.granted p inst | none => false)
     | .context => inst == c.inst.toNat || inst == c.shareInst.toNat
     | _ => false)

/-- Whether a queue of an instance may SIGNAL a counter (R296, R311). -/
def State.queueMaySignal (s : State) (inst : Nat) (add : Bool) (id : BitVec 17) : Bool :=
  s.queueMayWait inst id && (add || (s.counter id.toNat).kind == .context) && (s.counter id.toNat).state != .abandoned

/-- WRAP and ERROR comparisons (R299). -/
def ctrReached (error : Bool) (value threshold : W32) : Bool :=
  if error then decide (threshold.toNat ≤ value.toNat) else !(value - threshold).msb

/-- Reason code of a FAULTED counter's own fault (R304). -/
def ctrFaultCode (f : BitVec 2) : BitVec 16 := match f.toNat with
  | 1 => Config.COUNTER_OVERFLOW
  | 2 => Config.COUNTER_UNDERFLOW
  | 3 => Config.SRAM_UNCORRECTABLE
  | _ => Config.NONE

/-! ## Updates -/

/-- Result of an update (R300, R303 to R305, R311, R323). -/
inductive UpdResult where
  | applied | faulted (code : BitVec 16) | dropped (code : BitVec 16)
  deriving DecidableEq, Repr

/-- The sum of an add in ERROR mode as an integer (R303). -/
def ctrSum (v amount : W32) : Int := (v.toNat : Int) + amount.toInt

/-- Count a dropped update (R326). -/
def syDrop (s : State) : State := { s with sy := { s.sy with dropped := satInc s.sy.dropped } }

/-- Record a counter fault: a JOB-class error, and SY_FAULT unless one is held (R304, R326, R417). -/
def syFault (s : State) (id : BitVec 17) (source core : Nat) (station : BitVec 16) (code : BitVec 16) (amount before : W32) :
    State :=
  let s := errRecord s 1 (if code = Config.SRAM_UNCORRECTABLE then some 6 else none) (if source ≤ 1 then some core else none)
    none code 0
  if s.sy.fValid then s
  else
    chSample { s with sy := { s.sy with
      fValid := true, fSource := BitVec.ofNat 3 source, fCore := BitVec.ofNat 4 core, fId := id, fStation := station,
      fCode := code, fAmount := amount, fBefore := before } } 98

/-- A counter becomes FAULTED and keeps the code of its fault (R304). -/
def ctrFault (s : State) (id : BitVec 17) (f : BitVec 2) : State :=
  s.modCounter id.toNat fun c => { c with state := .faulted, fault := f }

/-- Add to a counter (R299, R303 to R305, R311, R323): the new state and what became of the update. -/
def ctrAdd (s : State) (id : BitVec 17) (amount : W32) (source core : Nat) (station : BitVec 16) : State × UpdResult :=
  let c := s.counter id.toNat
  match c.state with
  | .free => (syDrop s, .dropped Config.NONE)
  | .abandoned => (syDrop s, .dropped Config.ABANDONED)
  | .faulted => (syDrop s, .dropped (ctrFaultCode c.fault))
  | .live =>
    if c.kind = .flightArrive ∧ (s.ctrFlight id).state = .broken then (syDrop s, .dropped (s.ctrFlight id).code)
    else if c.error then
      if ctrSum c.value amount < 0 then
        (syFault (ctrFault (pmGlobal s 12 1) id 2#2) id source core station Config.COUNTER_UNDERFLOW amount c.value,
          .faulted Config.COUNTER_UNDERFLOW)
      else if 0xFFFFFFFF < ctrSum c.value amount then
        (syFault (ctrFault (pmGlobal s 12 1) id 1#2) id source core station Config.COUNTER_OVERFLOW amount c.value,
          .faulted Config.COUNTER_OVERFLOW)
      else (s.setCounter id.toNat { c with value := c.value + amount }, .applied)
    else (s.setCounter id.toNat { c with value := c.value + amount }, .applied)

/-- Set a counter (R300, R306): FAULTED becomes LIVE, a set never faults. -/
def ctrSet (s : State) (id : BitVec 17) (v : W32) : State :=
  s.modCounter id.toNat fun c => { c with value := v, state := .live, fault := 0#2 }

/-- The value that a watch will show once every push on its way has arrived. -/
def Watch.newest (w : Watch) : W32 := w.pushes.getLast?.getD w.value

/-- A value of a counter is pushed to a core that watches it, if it is new (R153). -/
def Core.pushWatch (k : Core) (id : BitVec 17) (v : W32) : Core := match k.watch with
  | some w => if w.id = id ∧ w.newest ≠ v then { k with watch := some { w with pushes := w.pushes ++ [v] } } else k
  | none => k

/-- Every new value of a counter is pushed to the cores that watch it from elsewhere: WATCH_PUSH delivers them in turn (R153). -/
def watchStale (s : State) (id : BitVec 17) : State :=
  let v := (s.counter id.toNat).value
  { s with cores := s.cores.map fun p => (p.1, p.2.pushWatch id v) }

/-- Contribution table of a job after a net change of a counter (R309). -/
def Job.contribute (j : Job) (id : BitVec 17) (amount : W32) : Job :=
  { j with contrib := tput j.contrib id.toNat (tget 0#32 j.contrib id.toNat + amount) }

/-- Whether a counter's update would need a 65th entry in a free job's table (R310). -/
def Job.tableFull (j : Job) (id : BitVec 17) : Bool :=
  (tfind j.contrib id.toNat).isNone && decide (64 ≤ j.contrib.length)

/-! ## Flights -/

/-- Links of a mask: bit 0 TW, bits 1 to 4 PL0 to PL3 (R326). -/
def flightLinks (children : BitVec 5) : List Nat := setBits 5 children.toNat

/-- The parent link of a flight, if it is not a root. -/
def Flight.parentLink (f : Flight) : Option Nat := if f.parent = 0#3 then none else some (f.parent.toNat - 1)

/-- Local arrivals of the current round. -/
def State.arrived (s : State) (f : Flight) : Nat := (s.counter f.arriveId.toNat).value.toNat

/-- Count local arrivals of BARRIERs at a flight: updates of FLIGHT_ARRIVE like any other, dropped and counted where it is
FAULTED or the flight BROKEN (R305, R319, R323). -/
def flightAdd (s : State) (n k : Nat) : State :=
  (List.range k).foldl (fun s _ => (ctrAdd s (s.flight n).arriveId 1#32 2 0 0xFFFF#16).1) s

/-- Start the watchdog at the first arrival of a round (R321). -/
def flightStart (s : State) (n : Nat) : State :=
  let f := s.flight n
  s.setFlight n { f with watchdog := f.watchdog || decide (0 < s.arrived f) || f.childArrived != 0#5 }

/-- Held BARRIERs of a flight whose EPOCH is the current round now arrive (R319): how many, and the queues after it. -/
def arriveHeld (qs : Tbl Queue) (n : Nat) (round : W32) : Nat × Tbl Queue :=
  let hit (c : Cmd) : Bool := c.phase == .pendingWait && !c.arrived && (match c.body with
    | .barrier _ fl ep => fl == n && ep == round
    | _ => false)
  (qs.foldl (fun a q => a + q.2.cmds.countP hit) 0,
   qs.map fun q => (q.1, { q.2 with cmds := q.2.cmds.map fun c => if hit c then { c with arrived := true } else c }))

/-- Complete a round (R320): ROUND and FLIGHT_RELEASE advance, RELEASE of the completed round goes to the children (R322
cause 6; log entry 46), held BARRIERs arrive. -/
def completeRound (s : State) (n : Nat) : State :=
  let f := s.flight n
  let round := f.round + 1#32
  let s := s.setFlight n { f with round := round, childArrived := 0#5, forwarded := false, watchdog := false }
  let s := watchStale (s.modCounter f.releaseId.toNat fun c => { c with value := round }) f.releaseId
  let s := (flightLinks f.children).foldl (fun s l => linkSend s l (.release n f.round)) s
  let h := arriveHeld s.queues n round
  flightStart (flightAdd { s with queues := h.2 } n h.1) n

/-- Whether the current round has every local and child arrival (R318). -/
def State.roundFull (s : State) (n : Nat) : Bool :=
  let f := s.flight n
  f.state == .isOpen && !f.forwarded && decide (f.expect.toNat ≤ s.arrived f) && f.childArrived &&& f.children == f.children

/-- Act on the arrivals of a flight until nothing more is due (R318). -/
def flightEval : Nat → State → Nat → State
  | 0, s, _ => s
  | k + 1, s, n =>
    if s.roundFull n then
      let f := s.flight n
      let s := s.modCounter f.arriveId.toNat fun c => { c with value := c.value - BitVec.ofNat 32 f.expect.toNat }
      match f.parentLink with
      | some l => linkSend (s.setFlight n { s.flight n with forwarded := true }) l (.arrive n f.round)
      | none => flightEval k (completeRound s n) n
    else s

/-- A bound on the rounds one event can complete: each takes at least one local arrival. -/
def State.flightFuel (s : State) (n : Nat) : Nat :=
  s.arrived (s.flight n) + (s.queues.foldl (fun a q => a + q.2.cmds.length) 0) + 1

/-- A local arrival has been counted: watchdog, then R318. -/
def flightArrived (s : State) (n : Nat) : State := flightEval (s.flightFuel n) (flightStart s n) n

/-- Pending and held BARRIERs of a flight end with a code (R323): they complete when their turn comes. -/
def endBarriers (s : State) (n : Nat) (code : BitVec 16) : State :=
  let hit (c : Cmd) : Bool := c.phase == .pendingWait && (match c.body with
    | .barrier _ fl _ => fl == n
    | _ => false)
  let finish (c : Cmd) : Cmd := if hit c then { c with phase := .started, code := code, detail := 0#64 } else c
  let queues : Tbl Queue := s.queues.map fun q => (q.1, { q.2 with cmds := q.2.cmds.map finish })
  { s with queues := queues }

/-- A node breaks its flight, or receives BREAK while OPEN (R322, R323). `from'` is the link a BREAK came from. -/
def flightBreak (s : State) (n : Nat) (cause : Nat) (code : BitVec 16) (from' : Option Nat) : State :=
  let f := s.flight n
  if f.state = .isOpen then
    let s := s.setFlight n { f with state := .broken, cause := BitVec.ofNat 3 cause, code := code, watchdog := false }
    let links := (match f.parentLink with | some l => [l] | none => []) ++ flightLinks f.children
    let s := (links.eraseDups.filter fun l => from' != some l).foldl (fun s l => linkSend s l (.brk n f.round)) s
    chPulse (endBarriers (watchStale (pmGlobal s 20 1) f.releaseId) n code) 99 code (BitVec.ofNat 32 n)
  else s

/-! ## Signals of a job -/

/-- The core that sends an update, if one does. -/
def UpdSource.sender : UpdSource → Option Nat
  | .core c => some c
  | .stream c => some c
  | .queue _ => none
  | .rollback => none

/-- Place of a source among the updates of one cycle at a home core: its own signals, then the other cores in rising order, the
Keeper last (R301). -/
def UpdSource.rank (home : Nat) (x : UpdSource) : Nat := match x.sender with
  | some c => if c = home then 0 else c + 1
  | none => 17

/-- An update of a home core that comes before another in the order of R301. -/
def Update.notAfter (home : Nat) (v u : Update) : Bool :=
  decide (v.cycle < u.cycle) || (v.cycle == u.cycle && decide (v.source.rank home ≤ u.source.rank home))

/-- The arithmetic cycle in which an update reaches its home core. Its way there takes a free number of cycles (log entry 88),
none from a core to itself, and no update overtakes an earlier one of its source (R302). -/
def arrivalCycle (now home : Nat) (source : UpdSource) (waiting : List Update) : Nat :=
  let way := if source.sender = some home then 0 else Config.travel (source.rank home) home now
  (waiting.filter fun v => v.source.sender == source.sender).foldl (fun n v => max n v.cycle) (now + way)

/-- Send an update to a counter's home core: it queues there in the order of R301. -/
def sendUpdate (s : State) (u : Update) : State :=
  let h := ctrHome u.id
  let l := tget [] s.updates h
  let u := { u with cycle := arrivalCycle (s.esc.time.toNat / 2) h u.source l }
  { s with updates := tput s.updates h (l.takeWhile (fun v => v.notAfter h u) ++ u :: l.dropWhile fun v => v.notAfter h u) }

/-- An update of a core to a counter is still on its way: a take of that core may not overtake it (R302). -/
def State.sentBy (s : State) (c : Nat) (id : BitVec 17) : Bool :=
  (tget [] s.updates (ctrHome id)).any fun u => u.id == id && u.source.sender == some c

/-- What an applied update of a running job does besides the value: contribution table or flight arrival
(R309, R318, R322). One that is applied after the kill of its job has begun was not in time: it breaks the flight as one of
the round does. -/
def updApplied (s : State) (u : Update) : State :=
  let c := s.counter u.id.toNat
  match u.job with
  | none => s
  | some n => match s.job n with
    | none => s
    | some j =>
      if c.kind = .flightArrive then
        s.setJob n { j with arrivals := j.arrivals ++ [(c.owner.toNat, (s.flight c.owner.toNat).round)] }
      else match j.kind with
        | .free _ _ _ => s.setJob n (j.contribute u.id u.amount)
        | .station _ => s

/-- Count in the running counts of a job alone (R469). -/
def jobCount (s : State) (n slot amount : Nat) : State := match s.job n with
  | some j => s.setJob n { j with counts := tput j.counts slot (tget 0 j.counts slot + amount) }
  | none => s

/-- SOURCE and CORE of SY_FAULT for an update (R326). -/
def UpdSource.code : UpdSource → Nat × Nat
  | .core c => (0, c)
  | .stream c => (1, c)
  | .queue _ => (2, 0)
  | .rollback => (3, 0)

/-- STATION of SY_FAULT for an update. -/
def State.updStation (s : State) (u : Update) : BitVec 16 := match u.job with
  | some n => (match s.job n with | some j => j.stationCode | none => 0xFFFF#16)
  | none => 0xFFFF#16

/-- The job whose signal faulted is killed (R305, R465). -/
def updKill (s : State) (u : Update) (code : BitVec 16) : State := match u.job with
  | some n => killJob (jobCount (watchStale s u.id) n 12 1) n .fault code 0#64
  | none => watchStale s u.id

/-- One update applied at its home core (R300 to R305). -/
def applyUpdate (s : State) (u : Update) : State :=
  let st := s.updStation u
  let src := u.source.code
  let c := s.counter u.id.toNat
  let free : Bool := match u.job with
    | some n => (match s.job n with | some j => (match j.kind with | .free _ _ _ => true | _ => false) | none => false)
    | none => false
  let full : Bool := match u.job with
    | some n => (match s.job n with | some j => free && c.kind != .flightArrive && j.tableFull u.id | none => false)
    | none => false
  if full && c.state == .live then
    match u.job with
    | some n => (match u.source with
      | .core k => haltCore s k Config.COUNTER_OWNER none (s.instrAddr k u.pc) (u.id.setWidth 64)
      | .stream k => haltCore s k Config.COUNTER_OWNER none (s.instrAddr k u.pc) (u.id.setWidth 64)
      | _ => killJob s n .fault Config.COUNTER_OWNER (u.id.setWidth 64))
    | none => s
  else
    let r := ctrAdd s u.id u.amount src.1 src.2 st
    match r.2 with
    | .dropped _ => r.1
    | .faulted code => updKill r.1 u code
    | .applied =>
      let s := watchStale (updApplied r.1 u) u.id
      if c.kind = .flightArrive then flightArrived s c.owner.toNat else s

/-- A signal of the instruction at `pc` that has become due: flags act on the core, counter updates travel to their home core
(R148, R150). -/
def fireSignal (s : State) (c : Nat) (job : Option Nat) (pc : Nat) (stream : Bool) (sig : Sig) : State :=
  match sig with
  | .none => s
  | .fset n => s.modCore c fun k => { k with flags := k.flags ||| BitVec.ofNat 64 (2 ^ n) }
  | .fclr n => s.modCore c fun k => { k with flags := k.flags &&& ~~~ BitVec.ofNat 64 (2 ^ n) }
  | .cadd id amount =>
    sendUpdate s { id := id, amount := amount, source := if stream then .stream c else .core c, job := job, pc := pc,
                   cycle := 0 }

/-- Whether an update of a job is still on its way (R138). -/
def State.jobUpdates (s : State) (n : Nat) : Bool := s.updates.any fun p => p.2.any fun u => u.job == some n

/-- Apply at once every update of a job that is still on its way, in order (before a rollback, R309). -/
def flushUpdates (s : State) (n : Nat) : State :=
  let mine := s.updates.flatMap fun p => p.2.filter fun u => u.job == some n
  let s := { s with updates := s.updates.map fun p => (p.1, p.2.filter fun u => u.job != some n) }
  mine.foldl applyUpdate s

/-- Roll back the contributions of a killed free job: the negation of each nonzero entry, one update each (R309). -/
def rollback (s : State) (j : Job) : State :=
  j.contrib.foldl (fun s e =>
    if e.2 = 0#32 then s
    else
      let id := BitVec.ofNat 17 e.1
      let r := ctrAdd s id (-e.2) 3 0 0xFFFF#16
      watchStale r.1 id) s

/-- A killed job that had arrived at a flight in a round that had not completed at its kill breaks it (R322 cause 0). -/
def breakArrivals (s : State) (j : Job) : State :=
  j.arrivals.foldl (fun s a => flightBreak s a.1 0 Config.FLIGHT_BROKEN none) s

/-- Abandon the counters of a context (R311); FAULT is the code of a FAULTED counter alone (R326). -/
def abandonCounters (s : State) (ctx : Nat) : State :=
  { s with counters := s.counters.map fun p =>
      (p.1, if p.2.kind = .context ∧ p.2.owner.toNat = ctx ∧ p.2.state ≠ .free then
        { p.2 with state := .abandoned, fault := 0#2 } else p.2) }

/-- Lowest free index at or above 4,096 of a core's counters (R356), if any. -/
def State.freeHigh (s : State) (core : Nat) : Option Nat :=
  ((List.range 4096).map (· + 4096)).find? fun i => (s.counter (core * 8192 + i)).state == .free

/-- The two lowest free indices at or above 4,096 of a core (R317), if it has two. -/
def State.freeHighTwo (s : State) (core : Nat) : Option (Nat × Nat) :=
  match (((List.range 4096).map (· + 4096)).filter fun i => (s.counter (core * 8192 + i)).state == .free).take 2 with
  | [a, b] => some (a, b)
  | _ => none

end Sys2Proof.Machine
end

