-- ==== Sys2Proof/Machine/Place.lean ====
section
/-! DEFINITION. What admission decides: placement by residency (R30 to R33, R114), counter indices (R297), share bases
(R101), kept partitions (R89), the cycle and energy proofs (R24, R34, R36), the limits of free jobs (R39, R48). -/

namespace Sys2Proof.Machine

/-! ## Geometry -/

/-- A list of naturals in rising order. -/
def sortNat (l : List Nat) : List Nat := l.foldl (fun a k => insertNat k a) []

/-- Distance of two numbers. -/
def natDist (a b : Nat) : Nat := (a - b) + (b - a)

/-- Hops between two cores: Manhattan distance, core (x,y) being number 4y+x (R5, R110). -/
def hops (a b : Nat) : Nat := natDist (a % 4) (b % 4) + natDist (a / 4) (b / 4)

/-- The core at whose router a basin way attaches (R108). -/
def wayCore (w : Nat) : Nat := if w < 8 then w / 2 else 12 + (w - 8) / 2

/-- The element of a list with the least key, the first of equals. -/
def argmin {α : Type} (key : α → Int) : List α → Option α
  | [] => none
  | x :: r => match argmin key r with
    | none => some x
    | some y => some (if key x ≤ key y then x else y)

/-- The element with the greatest key, the first of equals. -/
def argmax {α : Type} (key : α → Int) (l : List α) : Option α := argmin (fun x => -key x) l

/-! ## Residency (R30, R31) -/

/-- resident_bytes(s, c) of R31. -/
def residentBytes (s : State) (g : Image) (t : Station) (c : Nat) : Nat :=
  (g.objRange t).foldl (fun a d =>
    a + (s.au.residency ++ s.au.shareResidency).foldl (fun b e =>
      if e.1 = d.slot.toNat ∧ (if e.2.1 then wayCore e.2.2.1 = c else e.2.2.1 = c) then b + e.2.2.2 else b) 0) 0

/-- resident_bytes(p, c) of R31. -/
def residentPart (s : State) (g : Image) (p c : Nat) : Nat :=
  (g.stationsOf p).foldl (fun a t => a + residentBytes s g t c) 0

/-! ## Cores of the partitions (R31) -/

/-- Grow a partition's core set to k cores. -/
def growSet (s : State) (g : Image) (p : Nat) (taken : List Nat) : Nat → List Nat → Option (List Nat)
  | 0, set => some set
  | n + 1, set =>
    let rest := s.presentCores.filter fun c => !taken.contains c && !set.contains c
    let near := rest.filter fun c => set.any fun d => hops c d == 1
    match argmax (fun c => (residentPart s g p c : Int)) (if near.isEmpty then rest else near) with
    | none => none
    | some c => growSet s g p taken n (set ++ [c])

/-- Core sets of all partitions in index order, each in rising order so that the first of equals is the lowest core; or the
refusal (R31). -/
def placeParts (s : State) (g : Image) (pass : Bool) : List Partition → List Nat → List (List Nat) → Except Refused (List (List Nat))
  | [], _, acc => .ok acc
  | p :: r, taken, acc =>
    match growSet s g p.index taken p.coreCount [] with
    | none => .error { code := Config.NO_PLACEMENT,
                       station := (match g.stationsOf p.index with | t :: _ => t.index | [] => 0xFFFF),
                       pass := pass, core := none, window := none, deficit := 0 }
    | some set => placeParts s g pass r (taken ++ set) (acc ++ [sortNat set])

/-! ## Stations (R31) -/

/-- Insert a station in order of decreasing bound*cores, then index. -/
def insertStation (t : Station) : List Station → List Station
  | [] => [t]
  | u :: r =>
    if u.bound * u.cores < t.bound * t.cores ∨ (u.bound * u.cores = t.bound * t.cores ∧ t.index < u.index) then t :: u :: r
    else u :: insertStation t r

/-- Stations of a partition in placement order. -/
def placeOrder (g : Image) (p : Nat) : List Station := (g.stationsOf p).foldl (fun l t => insertStation t l) []

/-- Cores bound to stations so far: (station, cores in slot order). -/
abbrev Bound := List (Nat × List Nat)

def boundOf (b : Bound) (n : Nat) : List Nat := tget [] b n

/-- scratch_used(c) of R31. -/
def scratchUsed (g : Image) (b : Bound) (c : Nat) : Nat :=
  b.foldl (fun a e => if e.2.contains c then a + (match g.station e.1 with | some t => t.share | none => 0) else a) 0

/-- demand_so_far(w, c) of R31. -/
def demandSoFar (g : Image) (b : Bound) (p w c : Nat) : Nat :=
  b.foldl (fun a e => match g.station e.1 with
    | some t => if e.2.contains c && t.part == p && t.win == w then a + t.bound else a
    | none => a) 0

/-- Stream neighbours of a station with edge_mib summed over both directions (R31). -/
def neighbours (g : Image) (n : Nat) : List (Nat × Nat) :=
  (g.edges.filter fun e => !e.staged && (e.src == n || e.dst == n)).map fun e =>
    (if e.src = n then e.dst else e.src, e.mib)

/-- Score of a core in the residency pass (R31). -/
def placeScore (s : State) (g : Image) (b : Bound) (t : Station) (c : Nat) : Int :=
  (residentBytes s g t c : Int) -
    (((neighbours g t.index).foldl (fun a n => a + n.2 * ((boundOf b n.1).foldl (fun h d => h + hops c d) 0) * 2 ^ 20) 0 : Nat) : Int)

/-- Bind one core slot of a station (R31). -/
def placeSlot (s : State) (g : Image) (pass : Bool) (p : Partition) (cores : List Nat) (t : Station) (b : Bound) :
    Except Refused Bound :=
  let near := (neighbours g t.index).filter fun n => match g.station n.1 with | some u => u.win == t.win | none => false
  let base := cores.filter fun c => !(boundOf b t.index).contains c && !near.any fun n => (boundOf b n.1).contains c
  let need (c : Nat) : Nat := scratchUsed g b c + t.share + p.freeScratch
  let ok := base.filter fun c => decide (need c ≤ 20971520)
  let pick := if pass then argmin (fun c => (demandSoFar g b p.index t.win c : Int)) ok else argmax (placeScore s g b t) ok
  match pick with
  | some c => .ok (tput b t.index (boundOf b t.index ++ [c]))
  | none => match argmin (fun c => (need c : Int)) base with
    | none => .error { code := Config.NO_PLACEMENT, station := t.index, pass := pass, core := none,
                       window := some (p.index, t.win), deficit := 0 }
    | some c => .error { code := Config.SCRATCH_SHORT, station := t.index, pass := pass, core := some c,
                         window := some (p.index, t.win), deficit := need c - 20971520 }

/-- Bind every core slot of a station. -/
def placeStation (s : State) (g : Image) (pass : Bool) (p : Partition) (cores : List Nat) (t : Station) :
    Nat → Bound → Except Refused Bound
  | 0, b => .ok b
  | n + 1, b => match placeSlot s g pass p cores t b with
    | .error e => .error e
    | .ok b => placeStation s g pass p cores t n b

/-- Bind the stations of a partition. -/
def placeStations (s : State) (g : Image) (pass : Bool) (p : Partition) (cores : List Nat) :
    List Station → Bound → Except Refused Bound
  | [], b => .ok b
  | t :: r, b => match placeStation s g pass p cores t t.cores b with
    | .error e => .error e
    | .ok b => placeStations s g pass p cores r b

/-- Bind the stations of every partition in index order (R31). -/
def placeAll (s : State) (g : Image) (pass : Bool) : List (Partition × List Nat) → Bound → Except Refused Bound
  | [], b => .ok b
  | (p, cs) :: r, b => match placeStations s g pass p cs (placeOrder g p.index) b with
    | .error e => .error e
    | .ok b => placeAll s g pass r b

/-! ## Kept partitions and share bases (R89, R101) -/

/-- Whether a partition of a new image is kept (R89). -/
def isKept (s : State) (g : Image) (partCores : List (List Nat)) (b : Bound) (p : Partition) : Bool :=
  match s.run with
  | none => false
  | some r => match r.img.part p.index with
    | none => false
    | some o =>
      sortNat (r.place.partCores.getD p.index []) == sortNat (partCores.getD p.index []) &&
      o.freeScratch == p.freeScratch &&
      (g.stationsOf p.index).all fun t => match (r.img.stationsOf p.index).find? fun u => u.key == t.key with
        | none => false
        | some u => sortNat (r.place.stationCores.getD u.index []) == sortNat (boundOf b t.index) && decide (t.share ≤ u.share)

/-- Share bases of the stations of one partition on one core, from an offset upward (R101). -/
def shareBases (b : Bound) (c : Nat) : Nat → List Station → List (Nat × Nat × Nat)
  | _, [] => []
  | off, t :: r =>
    if (boundOf b t.index).contains c then (t.index, c, off) :: shareBases b c (off + t.share) r else shareBases b c off r

/-- Share base of a station on a core. -/
def Placement.baseOf (pl : Placement) (st c : Nat) : Nat :=
  match pl.shareBase.find? fun e => e.1 == st && e.2.1 == c with
  | some e => e.2.2
  | none => 0

/-- Share bases of a partition: a kept one keeps each station's base (R101). -/
def partBases (s : State) (g : Image) (partCores : List (List Nat)) (b : Bound) (p : Partition) : List (Nat × Nat × Nat) :=
  let cs := partCores.getD p.index []
  match s.run with
  | some r =>
    if isKept s g partCores b p then
      (g.stationsOf p.index).flatMap fun t => match (r.img.stationsOf p.index).find? fun u => u.key == t.key with
        | some u => (boundOf b t.index).map fun c => (t.index, c, r.place.baseOf u.index c)
        | none => []
    else cs.flatMap fun c => shareBases b c p.freeScratch (g.stationsOf p.index)
  | none => cs.flatMap fun c => shareBases b c p.freeScratch (g.stationsOf p.index)

/-! ## Counters (R31, R91, R297) -/

/-- Home core of a declared counter: the first core of the station that waits on it. -/
def declHome (b : Bound) (d : CounterDecl) : Nat := (boundOf b d.waiter).headD 0

/-- ID that a counter of a kept partition keeps across the swap (R91, R297). -/
def keptCounter (s : State) (g : Image) (kept : List Nat) (b : Bound) (d : CounterDecl) : Option Nat :=
  match s.run with
  | none => none
  | some r => match g.station d.waiter with
    | none => none
    | some t =>
      if kept.contains t.part then
        match (r.img.counters.zip r.place.counterId).find? fun x =>
            x.1.key == d.key && x.1.graph == d.graph && x.1.error == d.error && x.2 / 8192 == declHome b d with
        | some x => some x.2
        | none => none
      else none

/-- Give the counters that are not kept the lowest free graph index on their core, in entry order (R297). -/
def assignCounters (g : Image) (pass : Bool) (b : Bound) :
    List (CounterDecl × Option Nat) → List Nat → List Nat → Except Refused (List Nat)
  | [], _, acc => .ok acc
  | (_, some i) :: r, used, acc => assignCounters g pass b r used (acc ++ [i])
  | (d, none) :: r, used, acc =>
    let h := declHome b d
    match ((List.range 4096).map fun i => h * 8192 + i).find? fun i => !used.contains i with
    | some i => assignCounters g pass b r (i :: used) (acc ++ [i])
    | none => .error { code := Config.COUNTER_SHORT, station := d.waiter, pass := pass, core := none, window := none,
                       deficit := (g.counters.filter fun x => declHome b x == h).length - 4096 }

/-! ## Reservations (R33, R73, R114) -/

/-- Distance from a router to the nearest core of a set. -/
def nearest (cs : List Nat) (c : Nat) : Nat := (leastNat (cs.map (hops c))).getD 0

/-- Take n of the candidates, nearest first and lowest number first. -/
def takeNearest (cs : List Nat) (at' : Nat → Nat) : Nat → List Nat → List Nat
  | 0, _ => []
  | n + 1, cand => match argmin (fun m => ((nearest cs (at' m) * 64 + m : Nat) : Int)) cand with
    | none => []
    | some m => m :: takeNearest cs at' n (cand.filter fun x => x != m)

/-- Reserve the ports or ways of each partition in index order. -/
def reserveAll (at' : Nat → Nat) (amount : Partition → Nat) : List (Partition × List Nat) → List Nat → List (List Nat)
  | [], _ => []
  | (p, cs) :: r, cand =>
    let t := takeNearest cs at' (amount p) cand
    sortNat t :: reserveAll at' amount r (cand.filter fun x => !t.contains x)

/-- BASIN_SHORT and CHANNEL_SHORT (R33, R45, R73). Where several partitions lack ways for their BASIN_BYTES, AU_DEFICIT counts
those of the first alone. DESIGN CHOICE, log entry 81. -/
def reserveFault (s : State) (g : Image) (pass : Bool) : Option Refused :=
  let need (p : Partition) : Nat := ceilDiv ((g.slots.filter fun d => d.part == p.index).foldl (fun a d => a + d.basinBytes) 0) 4194304
  let ways := g.parts.foldl (fun a p => a + p.resWays) 0
  let ports := g.parts.foldl (fun a p => a + p.resPorts) 0
  match g.parts.find? fun p => decide (p.resWays < need p) with
  | some p => some { refusedPlain Config.BASIN_SHORT with pass := pass, deficit := need p - p.resWays }
  | none =>
    if 16 < ways then some { refusedPlain Config.BASIN_SHORT with pass := pass, deficit := ways - 16 }
    else if s.openPorts.length < ports + 2 then
      some { refusedPlain Config.CHANNEL_SHORT with pass := pass, deficit := ports + 2 - s.openPorts.length }
    else none

/-! ## The cycle proof (R24, R34) -/

def G_LEAD : Nat := 1000
def L_LAUNCH : Nat := 500
def L_COMMIT : Nat := 400
def G_TRAIL : Nat := 1500

/-- TOL(n) of R24. -/
def tol (n : Nat) : Nat := ceilDiv (n * 200) 1000000

/-- PAUSE_ALLOW of R24. -/
def Image.pauseAllow (g : Image) : Nat := g.pausesPerBeat * g.pauseMaxUs * 500

/-- infl(b) of R34. -/
def infl (inflate : Bool) (b : Nat) : Nat := if inflate then ceilDiv (b * 112) 100 else b

/-- Stations of a list in an order with staged predecessors first, then by index (R34). -/
def stagedOrder (g : Image) : Nat → List Station → List Station → List Station
  | 0, _, done => done
  | n + 1, todo, done =>
    match todo.find? fun t => !(g.edges.any fun e => e.staged && e.dst == t.index && todo.any fun u => u.index == e.src) with
    | none => done ++ todo
    | some t => stagedOrder g n (todo.filter fun u => u.index != t.index) (done ++ [t])

/-- State of the list schedule: ready time by core, finish time by station, last station by core. -/
structure Sched where
  ready : List (Nat × Nat)
  finish : List (Nat × Nat)
  last : List (Nat × Nat)
  deriving DecidableEq, Repr

/-- Schedule one station (R34). -/
def schedule (g : Image) (inflate : Bool) (cores : Station → List Nat) (x : Sched) (t : Station) : Sched :=
  let cs := cores t
  let a := cs.foldl (fun m c => max m (tget G_LEAD x.ready c)) 0
  let b := (g.edges.filter fun e => e.staged && e.dst == t.index).foldl (fun m e => match tfind x.finish e.src with
    | some f => max m (f + L_COMMIT)
    | none => m) a
  let f := b + L_LAUNCH + infl inflate t.bound
  { ready := cs.foldl (fun r c => tput r c f) x.ready, finish := tput x.finish t.index f,
    last := cs.foldl (fun r c => tput r c t.index) x.last }

/-- The schedule of a window. -/
def windowSched (g : Image) (inflate : Bool) (cores : Station → List Nat) (p w : Nat) : Sched :=
  let ts := g.stationsIn p w
  (stagedOrder g ts.length ts []).foldl (schedule g inflate cores) { ready := [], finish := [], last := [] }

/-- avail and tail of a window (R34). -/
def windowAvail (w : Window) : Nat := w.lenUs * 500
def windowTail (g : Image) (w : Window) : Nat := G_TRAIL + g.pauseAllow + tol (windowAvail w) + w.guardExtra

/-- Slack of a window, or the refusal of the cycle proof (R34). -/
def windowProof (g : Image) (inflate pass : Bool) (pcores : List Nat) (cores : Station → List Nat) (w : Window) :
    Except Refused Nat :=
  let x := windowSched g inflate cores w.part w.index
  let need (c : Nat) : Nat := tget G_LEAD x.ready c + windowTail g w
  match (sortNat pcores).find? fun c => decide (windowAvail w < need c) with
  | some c => .error { code := Config.CYCLE_BOUND, station := tget 0xFFFF x.last c, pass := pass, core := some c,
                       window := some (w.part, w.index), deficit := need c - windowAvail w }
  | none => .ok ((leastNat (pcores.map fun c => windowAvail w - need c)).getD 0)

/-- The cycle proof of an image over its placement: the slack of every window, in order (R34). -/
def cycleProof (g : Image) (inflate pass : Bool) (partCores : List (List Nat)) (cores : Station → List Nat) :
    List Window → List (Nat × Nat × Nat) → Except Refused (List (Nat × Nat × Nat))
  | [], acc => .ok acc
  | w :: r, acc => match windowProof g inflate pass (partCores.getD w.part []) cores w with
    | .error e => .error e
    | .ok k => cycleProof g inflate pass partCores cores r (acc ++ [(w.part, w.index, k)])

/-! ## The energy proof (R36 to R38), in units of 0.01 µJ: 1 W for 1 µs is 100 of them -/

/-- Sum before any station: uncore, idle floor and free-work budgets. -/
def energyBase (s : State) (g : Image) : Nat :=
  3000 * g.periodUs + 50 * s.presentCores.length * g.periodUs + g.parts.foldl (fun a p => a + 10 * p.freeDw * g.periodUs) 0

/-- Energy of a station. -/
def stationEnergy (inflate : Bool) (t : Station) : Nat := if inflate then t.energyUj * 112 else t.energyUj * 100

/-- The station whose addition first exceeds the budget, and the sum with it. -/
def energyWalk (inflate : Bool) (budget : Nat) : List Station → Nat → Option (Nat × Nat)
  | [], _ => none
  | t :: r, sum =>
    if budget < sum + stationEnergy inflate t then some (t.index, sum + stationEnergy inflate t)
    else energyWalk inflate budget r (sum + stationEnergy inflate t)

/-- The energy proof: the refusal if it fails (R36, R38, R45). A shortfall that is no whole number of µJ is rounded up. DESIGN
CHOICE, log entry 81. -/
def energyFault (s : State) (g : Image) (inflate pass : Bool) : Option Refused :=
  let budget := 10 * g.capDw * g.periodUs
  let r (st sum : Nat) : Refused := { refusedPlain Config.ENERGY_CAP with station := st, pass := pass, deficit := ceilDiv (sum - budget) 100 }
  if budget < energyBase s g then some (r 0xFFFF (energyBase s g))
  else match energyWalk inflate budget g.stations (energyBase s g) with
    | some x => some (r x.1 x.2)
    | none => none

/-- Both proofs over a placement. -/
def bothProofs (s : State) (g : Image) (inflate pass : Bool) (partCores : List (List Nat)) (stationCores : List (List Nat)) :
    Except Refused (List (Nat × Nat × Nat)) :=
  match cycleProof g inflate pass partCores (fun t => stationCores.getD t.index []) g.windows [] with
  | .error e => .error e
  | .ok k => match energyFault s g inflate pass with
    | some e => .error e
    | none => .ok k

/-! ## A whole placement pass (R29 checks 6 to 12, R32) -/

/-- One placement pass with both uninflated proofs. -/
def placePass (s : State) (g : Image) (pass : Bool) : Except Refused Placement :=
  match placeParts s g pass g.parts [] [] with
  | .error e => .error e
  | .ok pc => match placeAll s g pass (g.parts.zip pc) [] with
    | .error e => .error e
    | .ok b =>
      let kept := (g.parts.filter (isKept s g pc b)).map fun p => p.index
      let decls := g.counters.map fun d => (d, keptCounter s g kept b d)
      match assignCounters g pass b decls (decls.filterMap fun x => x.2) [] with
      | .error e => .error e
      | .ok ids => match reserveFault s g pass with
        | some e => .error e
        | none =>
          let sc := g.stations.map fun t => boundOf b t.index
          match bothProofs s g false pass pc sc with
          | .error e => .error e
          | .ok slack => .ok {
              partCores := pc, stationCores := sc, shareBase := g.parts.flatMap (partBases s g pc b), counterId := ids,
              resPorts := reserveAll (fun m => m / 3) (fun p => p.resPorts) (g.parts.zip pc) s.openPorts,
              resWays := reserveAll wayCore (fun p => p.resWays) (g.parts.zip pc) (List.range 16), slack := slack }

/-- The two passes of R32. -/
def placeImage (s : State) (g : Image) : Except Refused Placement :=
  match placePass s g false with
  | .ok p => .ok p
  | .error _ => placePass s g true

/-! ## Limits of free jobs (R39, R48) -/

/-- FREE_LIMIT of a partition (R39): FREE_DW is in 0.1 W, 12.5 W is 125 of them. -/
def Image.freeLimit (g : Image) (p : Nat) : Nat := match g.part p with
  | some x => x.freeDw / 125
  | none => 0

/-- AU_FREE_MAX of a partition (R48). -/
def freeMax (g : Image) (pl : Placement) (p : Nat) : Nat :=
  ((g.windows.filter fun w => w.part == p && (w.cls == .free ||
    (pl.partCores.getD p []).any fun c => (g.stationsIn p w.index).all fun t => !(pl.stationCores.getD t.index []).contains c)).map
      fun w => windowAvail w - (G_LEAD + L_LAUNCH + windowTail g w)).foldl max 0

end Sys2Proof.Machine
end

