-- ==== Sys2Proof/Machine/Queues.lean ====
section
/-! DEFINITION. Commands past fetch (R255 to R259, R274, R335), the Regulator's accounts (R336 to R341), and the end of a
command: completion, counts and trace. -/

namespace Sys2Proof.Machine

/-! ## What a command reads and writes -/

/-- Root entries a command writes (R254, R256). -/
def State.cmdWrites (s : State) (c : Cmd) : List Nat := match c.body with
  | .launch _ _ hm om _ _ _ _ _ args =>
    ((List.range 8).filter fun k => bitAt om.toNat k && bitAt hm.toNat k).map fun k =>
      s.rootOf (handleIndex (BitVec.ofNat 32 (bitField (args.getD (k / 2) 0#64).toNat (32 * (k % 2) + 31) (32 * (k % 2)))))
  | .copy _ d _ _ _ => [s.rootOf (handleIndex d)]
  | .fill d _ _ _ => [s.rootOf (handleIndex d)]
  | _ => []

/-- Handle at a position of the argument words (R281). -/
def argHandle (args : List W64) (k : Nat) : W32 :=
  BitVec.ofNat 32 (bitField (args.getD (k / 2) 0#64).toNat (32 * (k % 2) + 31) (32 * (k % 2)))

/-- OUTPUT entries, by root, whose current version a command may read (R255). -/
def State.cmdReads (s : State) (c : Cmd) : List Nat :=
  let l := match c.body with
    | .launch _ _ hm _ _ _ _ _ _ args => ((List.range 8).filter (bitAt hm.toNat)).map fun k => s.rootOf (handleIndex (argHandle args k))
    | .copy src _ _ _ _ => [s.rootOf (handleIndex src)]
    | _ => []
  l.filter fun i => (s.obj i).kind == .output

/-- Root entries that a station's job may write: those bound to OUTPUT slots of its range, and those it has written (R254, R256). -/
def State.stationWrites (s : State) (j : Job) : List Nat := match j.kind, s.run with
  | .station st, some r => j.wrote ++ (match r.img.station st with
    | some t => (r.img.objRange t).filterMap fun d =>
        if d.output then (tfind r.bindings d.slot.toNat).map fun b => s.rootOf b.obj else none
    | none => [])
  | _, _ => []

/-- A command has started and neither committed nor failed: a writer it is remains uncommitted (R256). -/
def Cmd.uncommitted (c : Cmd) : Bool := c.phase == .started || (c.phase == .completed && c.code == 0#16)

/-- Whether an entry has an uncommitted writer other than the command `me`: a command, or a station that has not committed
(R256). -/
def State.hasWriter (s : State) (me i : Nat) : Bool :=
  (s.queues.any fun q => q.2.cmds.any fun c => c.seqNo != me && c.uncommitted && (s.cmdWrites c).contains i) ||
    s.jobs.any fun j => (s.stationWrites j.2).contains i

/-- Whether the staging version of an entry is pinned by a running job or COPY (R256). -/
def State.stagingPinned (s : State) (i : Nat) : Bool :=
  (s.jobs.any fun j => j.2.pins.any fun p => p.1 == i && p.2 != s.version i) ||
    s.queues.any fun q => q.2.cmds.any fun c => c.phase == .started && c.pins.any fun p => p.1 == i && p.2 != s.version i

/-- R256 does not hold a command back. -/
def State.mayWrite (s : State) (c : Cmd) : Bool :=
  (s.cmdWrites c).all fun i => !s.hasWriter c.seqNo i && !s.stagingPinned i

/-! ## Order within a queue (R274, R291) -/

/-- WAIT or BARRIER. -/
def Body.isWait : Body → Bool
  | .waitFence _ _ _ _ => true
  | .waitCounter _ _ _ => true
  | .barrier _ _ _ => true
  | _ => false

def Cmd.isDone (c : Cmd) : Bool := c.phase == .completed || c.phase == .recorded

/-- Whether a command may start, given the commands before it, nearest first (R274). -/
def mayStartAfter (c : Cmd) (before : List Cmd) : Bool :=
  (before.all fun b => !b.body.isWait || b.isDone) &&
    (match before with
     | [] => true
     | p :: _ => p.isDone || (c.overlap && p.phase == .started))

/-- Commands of a queue before one, nearest first. -/
def Queue.before (q : Queue) (seqNo : Nat) : List Cmd := (q.cmds.takeWhile fun c => c.seqNo != seqNo).reverse

/-- A command of a queue may start (R274). -/
def Queue.mayStart (q : Queue) (c : Cmd) : Bool := mayStartAfter c (q.before c.seqNo)

/-- Whether commands of an instance may start and commit: the dispatch gate of R360 is open. In a reset no context is LIVE,
and the commits of R368 step 3 take place. -/
def Inst.gateOpen (i : Inst) : Bool := match i.state with
  | .enabled => true
  | .resetting => true
  | .disabling => (match i.disabling with | some d => d.draining | none => true)
  | _ => false

/-- Whether commands of a queue may start at all: gate, live context, no recovery stop, no halt (R360, R368, R430). -/
def State.startOpen (s : State) (q : Queue) : Bool :=
  (s.inst (s.ctx q.ctx).inst).gateOpen && (s.ctx q.ctx).state == .live && !s.fr.stopped && !s.obs.halted &&
    !s.boot.retEntering

/-- The share of a context in a partition, if it holds one (R329). -/
def State.shareOf (s : State) (ctx p : Nat) : Option (Nat × Share) := s.shares.find? fun x => x.2.ctx == ctx && x.2.part == p

/-- A LAUNCH is offerable in its queue's partition (R335). -/
def State.offerable (s : State) (q : Queue) (c : Cmd) : Bool :=
  c.phase == .fetched && s.startOpen q && q.mayStart c && s.mayWrite c &&
    (match c.body with | .launch _ _ _ _ _ _ _ _ _ _ => true | _ => false) &&
    (match s.shareOf q.ctx q.part with | some x => x.2.state == .live | none => false)

/-- A running LAUNCH. -/
def Cmd.runningLaunch (c : Cmd) : Bool := c.phase == .started && (match c.body with
  | .launch _ _ _ _ _ _ _ _ _ _ => true | _ => false)

/-- A queue is backlogged (R337). -/
def State.isBacklogged (s : State) (q : Queue) : Bool := q.cmds.any fun c => c.runningLaunch || s.offerable q c

/-! ## The Regulator (R336 to R341) -/

/-- Signed comparison of virtual times (R338). -/
def vtLess (a b : W64) : Bool := (a - b).msb

/-- Instance weight in a partition (R336). -/
def Inst.weight (i : Inst) (p : Nat) : Nat := (tget 1#8 i.weights p).toNat

/-- Queues counted as backlogged in a partition: those flagged, and `me` (R337, R338). -/
def State.backlog (s : State) (p me : Nat) : List (Nat × Queue) :=
  s.queues.filter fun q => q.2.state != .free && q.2.part == p && (q.2.backlogged || q.1 == me)

/-- φ(q) in units of 2^-16, rounded down, at least 1 (R337). -/
def State.phi16 (s : State) (n : Nat) : Nat :=
  let q := s.queue n
  let b := s.backlog q.part n
  let inst := (s.ctx q.ctx).inst
  let sq := (b.filter fun x => x.2.ctx == q.ctx).foldl (fun a x => a + x.2.weight.toNat) 0
  let ctxs := ((b.map fun x => x.2.ctx).eraseDups).filter fun c => (s.ctx c).inst == inst
  let sc := ctxs.foldl (fun a c => a + (s.ctx c).weight.toNat) 0
  let insts := (b.map fun x => (s.ctx x.2.ctx).inst).eraseDups
  let si := insts.foldl (fun a i => a + (s.inst i).weight q.part) 0
  max 1 (65536 * (q.weight.toNat * (s.ctx q.ctx).weight.toNat * (s.inst inst).weight q.part) / (max 1 (sq * sc * si)))

/-- gv of a partition: the least vt of its backlogged queues, unchanged if none (R338). -/
def gvUpdate (s : State) (p : Nat) : State :=
  match s.queues.filter fun q => q.2.state != .free && q.2.part == p && q.2.backlogged with
  | [] => s
  | q :: r => s.modRgPart p fun x => { x with gv := r.foldl (fun m y => if vtLess y.2.vt m then y.2.vt else m) q.2.vt }

/-- One queue's backlog flag follows its commands (R337, R338). -/
def regQueue (s : State) (n : Nat) : State :=
  let q := s.queue n
  let b := q.state != .free && s.isBacklogged q
  if b && !q.backlogged then
    let gv := (s.rgPart q.part).gv
    s.setQueue n { q with backlogged := true, vt := if vtLess q.vt gv then gv else q.vt }
  else if !b && q.backlogged then gvUpdate (s.setQueue n { q with backlogged := false }) q.part
  else s

/-- Every queue's backlog flag follows its commands. -/
def regEval (s : State) : State := (s.queues.map fun q => q.1).foldl regQueue s

/-- Charge a queue (R338). Its partition's gv follows once the LAUNCH that left is over, so that the queue counts as
backlogged only if it still is (gvUpdate, used by the caller; log entry 54). -/
def regCharge (s : State) (n charge : Nat) : State :=
  let phi := s.phi16 n
  s.modQueue n fun q => { q with
    vt := q.vt + BitVec.ofNat 64 (ceilDiv (charge * 65536) phi), run := q.run + BitVec.ofNat 64 charge }

/-- Core-ns a job has held its cores: cores × arithmetic cycles × 2 (R338). -/
def State.heldNs (s : State) (j : Job) : Nat := j.cores.length * ((s.esc.time - j.launchTime).toNat / 2) * 2

/-! ## Completion -/

/-- The context of a queue's commands. -/
def State.queueCtx (s : State) (q : Nat) : Nat := (s.queue q).ctx

/-- Counts of a run are added to the context's set (R469). -/
def addCounts (s : State) (ctx : Nat) (counts : Tbl Nat) : State :=
  s.modCtx ctx fun x => { x with pm := counts.foldl (fun p e => if e.1 < 56 then p.count e.1 e.2 else p) x.pm }

/-- A fence record's address. -/
def State.fenceAddr (s : State) (i off : Nat) : Nat := (s.obj i).base + off

/-- VALUE, CODE of a fence record (R262). -/
def State.fenceValue (s : State) (i off : Nat) : W64 := BitVec.ofNat 64 (s.readLE (s.fenceAddr i off) 8)
def State.fenceCode (s : State) (i off : Nat) : BitVec 16 := BitVec.ofNat 16 (s.readLE (s.fenceAddr i off + 8) 2)

/-- A WAIT's signed comparison (R263). -/
def fenceReached (value threshold : W64) : Bool := !(value - threshold).msb

/-- The outcome of a WAIT or BARRIER as it stands: none while it must wait, else its code and DETAIL (R263, R264, R278,
R284, R299, R305, R311, R319, R323, R423). `arrived` matters to a BARRIER only. -/
def State.waitOutcome (s : State) (b : Body) : Option (BitVec 16 × W64) :=
  match b with
  | .waitFence _ t off thr =>
    let i := handleIndex t
    let v := s.fenceValue i off
    if s.poisoned (s.fenceAddr i off) 16 then some (Config.MEM_POISON, v)
    else if s.fenceCode i off ≠ 0#16 then some (s.fenceCode i off, v)
    else if fenceReached v thr then some (Config.NONE, 0#64) else none
  | .waitCounter _ id thr =>
    let c := s.counter id.toNat
    match c.state with
    | .free => some (Config.ABANDONED, c.value.setWidth 64)
    | .abandoned => some (Config.ABANDONED, c.value.setWidth 64)
    | .faulted => some (ctrFaultCode c.fault, c.value.setWidth 64)
    | .live => if ctrReached c.error c.value thr then some (Config.NONE, 0#64) else none
  | .barrier _ fl ep =>
    let f := s.flight fl
    match f.state with
    | .isOpen => if (ep - f.round).msb then some (Config.NONE, 0#64) else none
    | .broken => some (f.code, 0#64)
    | .free => some (Config.FLIGHT_BROKEN, 0#64)
  | _ => some (Config.NONE, 0#64)

/-- Pending-wait slots held by an instance, or by all (R275, R353). -/
def State.waitsHeld (s : State) (inst : Option Nat) : Nat :=
  s.queues.foldl (fun a q =>
    if inst = none ∨ inst = some (s.ctx q.2.ctx).inst then a + q.2.cmds.countP fun c => c.phase == .pendingWait else a) 0

/-- A context faults (R241, R242, R279): FAULTED; the faulting command's record is written at once by `faultRecord`. -/
def ctxFault (s : State) (ctx : Nat) (code : BitVec 16) : State :=
  let c := s.ctx ctx
  if c.state = .live then
    s.setCtx ctx { c with state := .faulted, teardown := some {
      step := 0, squashed := 0, killed := 0, killing := false, unmapped := [], faultCode := some code, byReset := false, page := none } }
  else s

/-- Bytes of a completion record from 0x04 (R278). -/
def recordTail (c : Cmd) (time : W64) : List Byte :=
  leBytes 2 c.tag.toNat ++ leBytes 2 c.code.toNat ++ leBytes 8 time.toNat ++
    leBytes 2 (b2n c.coKilled + 2 * b2n c.submission + 4 * b2n c.ctxFault) ++ leBytes 2 c.reruns.toNat ++
    leBytes 2 c.sub.toNat ++ leBytes 2 0 ++ leBytes 8 c.detail.toNat

/-- Offset of a completion record in its object (R268, R269). -/
def Queue.recordOff (q : Queue) (index : W32) : Nat := q.complOff + 32 * (index.toNat % 2 ^ q.ringLog2)

/-- TIME of a record: now, at the commit, or the time of a failure (R278). -/
def State.recordTime (s : State) (c : Cmd) : W64 := if c.code = 0#16 then s.esc.time else c.endTime

/-- Write bytes 0x04 to 0x1F of the record of a command (R279). -/
def writeRecordTail (s : State) (qn : Nat) (c : Cmd) : State :=
  let q := s.queue qn
  objWrite s (.record qn c.index) q.complObj (q.recordOff c.index + 4) (recordTail c (s.recordTime c))

/-- An INDIRECT (R291). -/
def Cmd.isIndirect (c : Cmd) : Bool := c.inner.isNone && (match c.body with
  | .indirect _ _ _ => true
  | _ => false)

/-- A queue's INDIRECT whose packets are not all complete (R291). -/
def Cmd.isOuter (c : Cmd) : Bool := c.isIndirect && c.phase == .started

/-- The INDIRECT that a queue runs. -/
def Queue.outer (q : Queue) : Option Cmd := q.cmds.find? Cmd.isOuter

/-- Packet k of an INDIRECT fails: the first failing packet gives CODE, SUB and DETAIL (R278, R291). -/
def Cmd.innerFailed (o : Cmd) (k : Nat) (code : BitVec 16) (detail : W64) : Cmd :=
  if o.sub = 0#16 then { o with code := code, sub := BitVec.ofNat 16 (k + 1), detail := detail } else o

/-- The INDIRECT whose packet a command of a queue is, and its packets that are still past fetch, oldest first: they stand just
before it (R291). -/
def Queue.innerOf (q : Queue) (o : Cmd) : List Cmd :=
  ((q.cmds.takeWhile fun x => x.seqNo != o.seqNo).reverse.takeWhile fun x => x.inner.isSome).reverse
def Queue.outerOf (q : Queue) (seqNo : Nat) : Option Cmd :=
  (q.cmds.dropWhile fun x => x.seqNo != seqNo).find? Cmd.isIndirect

/-- The INDIRECT with the failures of its packets so far, in their order. -/
def Queue.failures (q : Queue) (o : Cmd) : Cmd :=
  (q.innerOf o).foldl (fun o x => match x.inner with
    | some k => if x.isDone && x.code != 0#16 then o.innerFailed k x.code x.detail else o
    | none => o) o

/-- Write the record of a command that faults its context, ahead of earlier ones (R279). -/
def writeFault (s : State) (qn : Nat) (c : Cmd) : State :=
  let c := { c with ctxFault := true, phase := .recorded, refs := [], endTime := s.esc.time }
  ctxFault (writeRecordTail (s.modQueue qn fun q => q.modCmd c.seqNo fun _ => c) qn c) (s.queueCtx qn) c.code

/-- A command fails in a way that faults its context: its record is written at once, or that of the INDIRECT whose packet
it is (R242, R279, R291). -/
def faultRecord (s : State) (qn seqNo : Nat) : State :=
  match (s.queue qn).cmd seqNo with
  | none => s
  | some c => match c.inner with
    | none => writeFault s qn c
    | some _ => match (s.queue qn).outerOf seqNo with
      | some o => writeFault s qn ((s.queue qn).failures o)
      | none => s

/-- Complete a command: its references are dropped, its code and DETAIL fixed (R250, R278). -/
def completeCore (s : State) (q seqNo : Nat) (code : BitVec 16) (submission : Bool) (detail : W64) : State :=
  let s := s.modQueue q fun x => x.modCmd seqNo fun c => { c with
    phase := .completed, code := code, submission := submission, detail := detail, refs := [], gen := none, pins := [],
    job := none, startTime := if c.phase = .fetched then s.esc.time else c.startTime, endTime := s.esc.time }
  if code = 0#16 then s else pmBoth s (some (s.queueCtx q)) 7 1

/-- Complete a WAIT or BARRIER with a code; a failure is a JOB-class error (R242, R272, R418). -/
def completeWait (s : State) (qn seqNo : Nat) (code : BitVec 16) (detail : W64) (cont : Bool) : State :=
  let s := completeCore s qn seqNo code false (if code = 0#16 then 0#64 else detail)
  let s := if code = 0#16 then s else errRecord s 1 none none (some (s.queue qn).part) code 0
  if code ≠ 0#16 ∧ cont = false then faultRecord s qn seqNo else s

/-- A read of a fence record that returns POISON is a JOB-class error (R418, R423). -/
def fencePoison (s : State) (qn i off : Nat) : State :=
  if s.poisoned (s.fenceAddr i off) 16 then
    errRecord s 1 (some 8) none (some (s.queue qn).part) Config.MEM_POISON (s.fenceAddr i off)
  else s

/-- The fence record that a WAIT rests on. -/
def waitPoison (s : State) (qn : Nat) (b : Body) : State := match b with
  | .waitFence _ t off _ => fencePoison s qn (handleIndex t) off
  | _ => s

/-- CONTINUE of a WAIT or BARRIER (R284, R286). -/
def Body.cont : Body → Bool
  | .waitFence c _ _ _ => c
  | .waitCounter c _ _ => c
  | .barrier c _ _ => c
  | _ => true

/-- Commands that do nothing before their commit: they complete as soon as they start (R259). -/
def Body.isSimple : Body → Bool
  | .signalFence _ _ _ _ _ => true
  | .signalCounter _ _ _ => true
  | .mapNew _ _ _ _ _ _ _ _ _ _ _ _ => true
  | .mapImport _ _ _ => true
  | .timestamp _ _ => true
  | .counterDump _ _ _ _ => true
  | .nop => true
  | _ => false

/-- An entry that an OBJECT_FREE names has drained: it is no longer FREEING under that generation (R249, R288). -/
def State.freeDrained (s : State) (h : W32) : Bool :=
  (s.obj (handleIndex h)).state != .freeing || handleGen h != (s.obj (handleIndex h)).gen.toNat

/-- One command starts if its turn has come and it needs no engine: simple commands complete, a BIND waits for its beat
edge, an OBJECT_FREE for its drain, a WAIT whose condition is met completes, an INDIRECT completes with its last packet (R274,
R291). -/
def pumpOne (qn : Nat) (s : State) (seqNo : Nat) : State :=
  let q := s.queue qn
  match q.cmd seqNo with
  | none => s
  | some c =>
    if !(s.startOpen q && q.mayStart c) then s
    else match c.phase with
      | .fetched =>
        if c.body.isSimple then completeCore s qn seqNo Config.NONE false 0#64
        else match c.body with
          | .objFree h =>
            if s.freeDrained h then completeCore s qn seqNo Config.NONE false 0#64
            else s.setQueue qn (q.modCmd seqNo fun c => { c with phase := .started })
          | .mapBind _ _ => s.setQueue qn (q.modCmd seqNo fun c => { c with phase := .started })
          | _ => s
      | .started => match c.body with
        | .objFree h => if s.freeDrained h then completeCore s qn seqNo Config.NONE false 0#64 else s
        | .indirect _ _ _ =>
          if q.indirect.isNone && (q.innerOf c).all Cmd.isDone then
            s.setQueue qn (q.modCmd seqNo fun c => { c with phase := .completed, refs := [], endTime := s.esc.time })
          else s
        | b => if b.isWait then completeWait (waitPoison s qn b) qn seqNo c.code c.detail b.cont else s
      | _ => s

/-- States from which a queue is stopped (R272). -/
def QState.fetching : QState → Bool
  | .idle => true | .ready => true | .active => true | .waiting => true | _ => false

/-- State of a queue that may fetch and holds no slot: READY while something is left to fetch (R272). -/
def Queue.restState (q : Queue) : QState := if q.head = q.tail ∧ q.indirect = none then .idle else .ready

/-- A WAITING queue whose wait is over becomes READY, or IDLE with nothing to fetch (R272). -/
def Queue.waitOver (q : Queue) : Queue :=
  if q.state = .waiting ∧ (q.cmds.all fun c => c.phase != .pendingWait) = true then
    { q with state := q.restState } else q

/-- Start what may start in a queue, in order (R274). -/
def pump (s : State) (qn : Nat) : State :=
  (((s.queue qn).cmds.map fun c => c.seqNo).foldl (pumpOne qn) s).modQueue qn Queue.waitOver

/-- Start what may start in every queue. -/
def pumpAll (s : State) : State := regEval ((s.queues.map fun q => q.1).foldl pump s)

/-- Complete a command; what waited for it may start (R274). -/
def completeCmd (s : State) (q seqNo : Nat) (code : BitVec 16) (submission : Bool) (detail : W64) : State :=
  regEval (pump (completeCore s q seqNo code submission detail) q)

/-- DONE trace frame (R477). -/
def traceDone (s : State) (queue index code how : Nat) : State :=
  traceKeeper s 0x12 (leBytes 2 queue ++ leBytes 4 index ++ leBytes 2 code ++ leBytes 1 how)

end Sys2Proof.Machine
end

