-- ==== Sys2Proof/Machine/Tamper.lean ====
section
/-! DEFINITION. Key slots and their owners (R350, R393), tamper alarms and what their levels do (R411 to R415, R521). -/

namespace Sys2Proof.Machine

/-! ## Owners and places -/

/-- Whether a key slot lies in a pool. -/
def Pools.hasKey (p : Pools) (slot : Nat) : Bool := decide (p.keyFirst ≤ slot) && decide (slot < p.keyFirst + p.keyCount)

/-- Instance whose pool holds a key slot, if one does (R393). -/
def State.keyOwner (s : State) (slot : Nat) : Option Nat := (s.insts.find? fun i => i.2.pools.hasKey slot).map fun i => i.1

/-- Whether a key slot is LOADED (R393). -/
def State.keyLoaded (s : State) (slot : Nat) : Bool := (tget none s.sec.keys slot).isSome

/-- Cores of a partition under the running image. -/
def State.partCores (s : State) (p : Nat) : List Nat := match s.run with
  | some r => r.place.partCores.getD p []
  | none => []

/-- Every sealed share as (core, offset, length) (R104). -/
def State.sealedRanges (s : State) : List (Nat × Nat × Nat) :=
  (match s.run with
   | some r => (r.img.stations.filter r.img.sealedStation).flatMap fun t =>
       (r.place.stationCores.getD t.index []).map fun c => (c, r.place.baseOf t.index c, t.share)
   | none => []) ++
  (s.shares.filter fun x => x.2.isSealed).flatMap fun x => (s.partCores x.2.part).map fun c => (c, x.2.off, x.2.size)

/-- The parts of a range outside another. -/
def cutRange (r x : Nat × Nat) : List (Nat × Nat) :=
  if overlaps r.1 r.2 x.1 x.2 then
    (if r.1 < x.1 then [(r.1, x.1 - r.1)] else []) ++
      (if x.1 + x.2 < r.1 + r.2 then [(x.1 + x.2, r.1 + r.2 - (x.1 + x.2))] else [])
  else [r]

/-- A range joins those that a clear engine has still to zero, but for what it has to zero anyway. -/
def Core.addClear (k : Core) (off len : Nat) : Core :=
  { k with clears := k.clears ++ k.clears.foldl (fun l x => l.flatMap fun r => cutRange r x) [(off, len)] }

/-- Hand a range to a core's clear engine (R106). -/
def clearRange (s : State) (c off len : Nat) : State :=
  if len = 0 then s else s.modCore c fun k => k.addClear off len

/-- Whether a core's clear engine still has part of a range to clear (R106). -/
def Core.clearing (k : Core) (off len : Nat) : Bool := k.clears.any fun r => overlaps r.1 r.2 off len

/-! ## The tenant erase (R413) -/

/-- Whether a job with a sealed share is still on its cores. A station that has ended and waits for its commit is not (R413). -/
def State.sealedJobs (s : State) : Bool := s.jobs.any fun j => j.2.isSealed && !j.2.cores.isEmpty

/-- Whether any clear engine has work. -/
def State.clearsLeft (s : State) : Bool := s.cores.any fun k => !k.2.clears.isEmpty

/-- Once no sealed job is left, every sealed share is cleared (R413). -/
def eraseShares (s : State) : State := s.sealedRanges.foldl (fun s r => clearRange s r.1 r.2.1 r.2.2) s

/-- An erase ends when its kills and its clears have (R413, R416 ERASE_BUSY). -/
def eraseSettle (s : State) : State :=
  if s.sec.eraseBusy && !s.sealedJobs && !s.clearsLeft then { s with sec := { s.sec with eraseBusy := false } } else s

/-- The jobs of a list are killed with a code. -/
def killJobs (s : State) (l : List Nat) (why : KillWhy) (code : BitVec 16) : State :=
  l.foldl (fun s n => killJob s n why code 0#64) s

/-- Zero the key slots of instances and their bind secrets (R413). -/
def eraseKeys (s : State) (owner : Nat → Bool) : State :=
  { s with
    sec := { s.sec with keys := s.sec.keys.filter fun k => !(match s.keyOwner k.1 with | some i => owner i | none => false) },
    insts := s.insts.map fun i => (i.1, if owner i.1 then { i.2 with bound := false, bindDigest := 0#384, bindSecret := 0#384 } else i.2) }

/-- The tenant erase, with the source's code; `all` extends it to instance 0 and the import keys (R413). -/
def tenantErase (s : State) (all : Bool) (code : BitVec 16) : State :=
  let s := eraseKeys s fun i => all || i != 0
  let s := if all then { s with sec := { s.sec with importReady := false, importPriv := [], importPub := [] } } else s
  let s := { s with sec := { s.sec with eraseBusy := true } }
  let l := s.jobs.filter fun j => j.2.isSealed && j.2.killable
  let s := l.foldl (fun s j => reportKill s j.2 code false) s
  let s := killJobs s (l.map fun j => j.1) .fault code
  eraseSettle (if s.sealedJobs then s else eraseShares s)

/-! ## Alarms -/

/-- A refusal of the admission in progress or of a START while LOCKED (R521). -/
def lockRefuse (s : State) : State :=
  auRefuse { s with au := { s.au with sigDetail := 0#5 } } (refusedPlain Config.ACCESS_DENIED)

/-- REPORT_LOCK (R413). -/
def tamperLock (s : State) : State :=
  let s := { s with sec := { s.sec with locked := true } }
  if s.au.state = .idle then s else lockRefuse s

/-- What a level does (R413). -/
def tamperAct (s : State) (level : BitVec 2) (code : BitVec 16) : State :=
  match level.toNat with
  | 0 => s
  | 1 => tamperLock s
  | 2 => tenantErase s false code
  | _ => tenantErase s true code

/-- Level in force for a source (R78): REPORT before the first image. -/
def State.tamperLevel (s : State) (source : Nat) : BitVec 2 := s.sec.levels.getD source 0#2

/-- Level that an alarm applies (R412): in the swap cycles of R88, the higher of the old and the new one. -/
def State.alarmLevel (s : State) (source : Nat) : BitVec 2 :=
  let old := s.sec.oldLevels.getD source 0#2
  if s.sec.swapCycles ≠ 0 ∧ (s.tamperLevel source).toNat < old.toNat then old else s.tamperLevel source

/-- The PENDING bit and the count of an alarm, which a block in reset or in RETENTION keeps too (R488, R508). -/
def tamperCount (s : State) (source : Nat) : State :=
  { s with sec := { s.sec with
    pending := s.sec.pending ||| BitVec.ofNat 5 (2 ^ source),
    counts := tput s.sec.counts source (satInc (tget 0#32 s.sec.counts source)) } }

/-- A tamper alarm: recorded, reported, and its level applied (R412, R413). -/
def tamperApply (s : State) (source : Nat) : State :=
  let level := s.alarmLevel source
  let s := pmGlobal s 22 1
  let s := tamperCount s source
  let s := chSample { s with sec := { s.sec with lastSource := BitVec.ofNat 4 source, lastLevel := level } } 103
  tamperAct s level (tamperCode source)

/-- A tamper alarm of a source. Under reset and in RETENTION it is counted, and no register outside POR is written. -/
def tamperRaise (s : State) (source : Nat) : State :=
  if s.portAlive then tamperApply s source else tamperCount s source

end Sys2Proof.Machine
end

