-- ==== Sys2Proof/Machine/TwinOps.lean ====
section
/-! DEFINITION. The twin as other chapters meet it (R437 to R446): codes, MATCHED and IN_STEP, the release gate, entry into
PRIMARY, and the recovery stop (R430). -/

namespace Sys2Proof.Machine

def TwState.code : TwState → Nat
  | .unpaired => 0 | .auth => 1 | .paired => 2 | .primary => 3 | .secondary => 4 | .held => 5 | .stopped => 6

/-- A twin code: TW_STATUS.LAST_CODE and an event on source 104 (R449, R450). -/
def twCode (s : State) (code : BitVec 16) : State :=
  chPulse { s with tw := { s.tw with lastCode := code } } 104 code (BitVec.ofNat 32 s.tw.state.code)

/-- MIRROR section of the running image. -/
def State.mirror (s : State) : Option Mirror := match s.run with
  | some r => r.img.mirror
  | none => none

/-- Whether a partition of the running image is mirrored. -/
def State.isMirrored (s : State) (p : Nat) : Bool := match s.run with
  | some r => (match r.img.part p with | some x => x.mirrored | none => false)
  | none => false

/-- This device is in the swap beat of a changed mirrored partition (R438). -/
def State.ownSwap (s : State) : Bool := match s.run with
  | some r => s.esc.swapBeat && r.changedNow.any s.isMirrored
  | none => false

/-- Whether the two plans agree (R438). -/
def plansEqual (m : Mirror) (c : Heartbeat) : Bool :=
  c.mirror && c.planId == m.planId && c.mask == m.mask && c.hbPeriod.toNat == m.hbPeriod && c.hbMiss.toNat == m.hbMiss

/-- MATCHED (R438). -/
def State.matched (s : State) : Bool := s.tw.authed && s.tw.partnerLive && !s.ownSwap &&
  (match s.mirror, s.tw.partner with
   | some m, some c => plansEqual m c && !c.swapBeat
   | _, _ => false)

/-- IN_STEP (R438): MATCHED, and the beat edges are aligned. -/
def State.inStep (s : State) : Bool := s.matched && s.tw.aligned

/-- Whether the running image arms FAILOVER (R442). -/
def State.failoverArmed (s : State) : Bool := match s.mirror with | some m => m.failover | none => false

/-- Beat numbers are compared by difference modulo 2^48 (R18). -/
def beatAfter (a b : BitVec 48) : Bool := a != b && !(a - b).msb

/-- Release a beat of a partition, in primary numbering (R440). -/
def twRelease (s : State) (b : BitVec 48) (p : Nat) : State :=
  chPulse { s with tw := { s.tw with relLast := b } } (112 + p) Config.NONE (b.setWidth 32)

/-- The last four beats of a list of complete beats (R443). -/
def lastFour (l : List (BitVec 48 × Nat)) : List (BitVec 48 × Nat) :=
  let beats := (l.map fun e => e.1).eraseDups
  l.filter fun e => (beats.drop (beats.length - 4)).contains e.1

/-- A mirrored partition's beat is complete (R440, R443). -/
def twComplete (s : State) (p : Nat) : State :=
  let b := s.esc.beatCount + s.tw.offset
  if s.tw.state = .primary then (if s.tw.gateClosed then s else twRelease s b p)
  else if s.tw.state = .secondary then { s with tw := { s.tw with complete := lastFour (s.tw.complete ++ [(b, p)]) } }
  else s

/-- Enter PRIMARY: every complete beat above the partner's last reported release goes out at once, in order (R443). -/
def twPrimary (s : State) : State :=
  let last := match s.tw.partner with | some c => c.lastRel | none => s.tw.relLast
  let due := s.tw.complete.filter fun e => beatAfter e.1 last
  let s := { s with tw := { s.tw with state := .primary, elect := false, complete := [], heldYield := none, yielded := false } }
  due.foldl (fun s e => if s.tw.gateClosed then s else twRelease s e.1 e.2) s

/-- Enter HELD with RELEASE_DENIED (R444). -/
def twHeld (s : State) (denied : Bool) : State :=
  let s := { s with tw := { s.tw with state := .held, elect := false } }
  if denied then twCode s Config.RELEASE_DENIED else s

/-- Send YIELD (R506). -/
def twYield (s : State) (kind : BitVec 8) : State := linkSend s 0 (.yield kind s.tw.relLast)

/-- Enter SECONDARY and yield: the next beat is lengthened once to align (R437, R444). -/
def twSecondary (s : State) (kind : BitVec 8) : State :=
  twYield { s with tw := { s.tw with state := .secondary, elect := false, aligned := false, lengthen := true, yielded := false } } kind

/-- The twin paired states (R435, R444). -/
def TwState.isPaired : TwState → Bool
  | .paired => true | .primary => true | .secondary => true | .held => true | _ => false

/-! ## Stopping everything (R430 step 2, R492 step 2) -/

/-- Numbers of all running jobs. -/
def State.allJobs (s : State) : List Nat := s.jobs.map fun j => j.1

/-- A COPY or FILL in progress is killed: it completes with the code and commits nothing. -/
def killCopy (s : State) (p : Nat) (code : BitVec 16) : State :=
  match (s.rgPart p).copyRun with
  | none => s
  | some (q, n) =>
    let s := s.modRgPart p fun x => { x with copyRun := none }
    match (s.queue q).cmd n with
    | none => s
    | some c => completeCmd (addCounts s (s.queueCtx q) c.counts) q n code false 0#64

/-- Admission is aborted (R430, R492). -/
def auStop (s : State) : State :=
  { s with au := { s.au with state := .idle, cand := none, candPlace := none, candInflated := false } }

/-- Admission aborts and every job, COPY and FILL is killed with a code. -/
def stopAll (s : State) (code : BitVec 16) : State :=
  let s := killJobs (auStop s) s.allJobs .stop code
  (List.range 8).foldl (fun s p => killCopy s p code) s

/-- Take a hang snapshot if the buffer is long enough (R473, R486): the lines are on their way until SNAPSHOT_DONE. -/
def snapBegin (s : State) : State :=
  if s.obs.snapBusy then s
  else if s.obs.snapLen.toNat < 656000 then { s with obs := { s.obs with snapRefused := true } }
  else { s with obs := { s.obs with snapBusy := true } }

/-- The recovery stop (R430): gate, YIELD, fetch and kills, snapshot, FR_STOP. A stop in force is not entered again. -/
def recoveryStop (s : State) (c : StopCause) (unit : Option Nat) (addr : Nat) : State :=
  if s.fr.stopped then s
  else
    let s := errRecord s 3 unit none none c.code addr
    let wasPrimary := s.tw.state == .primary
    let s := { s with tw := { s.tw with gateClosed := true, state := if s.tw.state.isPaired then .stopped else s.tw.state } }
    let s := if wasPrimary then twYield s 2#8 else s
    let s := stopAll { s with fr := { s.fr with stopped := true } } c.code
    let s := if s.obs.snapArm then snapBegin s else s
    chSample { s with fr := { s.fr with
      stopValid := true, stopCause := c.cause, stopSeq := c.sequencer, stopPort := c.port,
      stopBeat := s.esc.beatCount.setWidth 32, stopCode := c.code } } 101

end Sys2Proof.Machine
end

