-- ==== Sys2Proof/Machine/Admission.lean ====
section
/-! DEFINITION. The admission unit (R26 to R46, R56, R81, R435, R521): START, ABORT, the end of VERIFY and of PROVE, and
the proof of a trace request (R42, R43). -/

namespace Sys2Proof.Machine

/-- Offset of AU_CMD. -/
def AU_CMD : Nat := 0x10010C

/-! ## Trace requests (R42, R43) -/

/-- Full trace is on or requested and proved (R29 check 13). -/
def State.inflating (s : State) : Bool := s.obs.activeMode == 2#2 || s.au.traceReq == .granted

/-- A held or new request for full trace is decided: by the proofs on the running placement, or at once while no image
runs (R42). -/
def traceDecide (s : State) : State :=
  match s.run with
  | none => { s with
      au := { s.au with traceReq := .none },
      obs := { s.obs with activeMode := 2#2, activeCores := s.obs.traceCores } }
  | some r =>
    match bothProofs s r.img true false r.place.partCores r.place.stationCores with
    | .ok _ => { s with au := { s.au with traceReq := .granted } }
    | .error e => auRecord { s with au := { s.au with traceReq := .none } } { e with code := Config.TRACE_INFLATED, pass := false }

/-- A request held while the unit was busy is decided once it is IDLE (R43). -/
def traceSettle (s : State) : State :=
  if s.au.traceReq = .held ∧ s.au.state = .idle then traceDecide s else s

/-! ## START and ABORT -/

/-- A refusal that clears AU_SIG_DETAIL (R44, R56). -/
def auRefuseUnread (s : State) (code : BitVec 16) : State :=
  auRefuse { s with au := { s.au with sigDetail := 0#5 } } (refusedPlain code)

/-- START (R26, R56, R413). After a recovery stop the unit stays stopped (R430). -/
def auStart (s : State) : State :=
  if s.fr.stopped then s
  else if s.au.state ≠ .idle then chSample { s with au := { s.au with busyReject := true } } 96
  else if s.sec.locked then lockRefuse s
  else if s.au.imageLen.toNat < 4096 ∨ 268435456 < s.au.imageLen.toNat then auRefuseUnread s Config.IMAGE_MALFORMED
  else { s with au := { s.au with state := .verify, cand := none, candPlace := none, candInflated := false } }

/-- ABORT (R26): the running image is unchanged. -/
def auAbort (s : State) : State := traceSettle (auStop s)

/-- A write of AU_CMD: START with ABORT acts as ABORT alone (R27). -/
def auCommand (s : State) (start abort : Bool) : State :=
  if abort then auAbort s else if start then auStart s else s

/-! ## VERIFY -/

/-- Owner slot that a key digest matches: programmed and not revoked (R386). -/
def State.ownerSlot (s : State) (d : Digest) : Option Nat :=
  (List.range 4).find? fun k => bitAt s.fuse.ownerProgrammed.toNat k && !bitAt s.fuse.ownerRevoked.toNat k &&
    tget 0#384 s.fuse.ownerDigest k == d

/-- VERIFY ends: the signature check, then the layout check (R29 checks 1 and 2, R81, R423). -/
def auVerified (s : State) : State :=
  let base := s.au.imageAddr.toNat
  let len := s.au.imageLen.toNat
  if s.poisoned base len then traceSettle (auRefuseUnread s Config.MEM_POISON)
  else
    let frameOk := framingOk s base len 0x53474E4F true
    let v := s.imageVerdict base len
    let slot := s.ownerSlot v.keyDigest
    let detail := sigDetail frameOk slot.isSome v
    let s := { s with au := { s.au with sigDetail := detail } }
    if detail ≠ 0#5 then traceSettle (tamperRaise (auRefuse s (refusedPlain Config.SIGNATURE_FAIL)) 1)
    else
      let g := readImage s base len
      match layoutFault s base g with
      | some st => traceSettle (auRefuse s { refusedPlain Config.IMAGE_MALFORMED with station := st })
      | none => { s with au := { s.au with
          state := .prove, cand := some g, candSlot := BitVec.ofNat 2 (slot.getD 0) } }

/-! ## PROVE -/

/-- Checks 3 to 5 of R29: the refusal if one fails. -/
def auPlainChecks (s : State) (g : Image) : Option Refused :=
  if g.periodUs < 250 ∨ 100000 < g.periodUs ∨ g.capDw < 400 ∨ 2300 < g.capDw then some (refusedPlain Config.BEAT_RANGE)
  else
    let lacks (f : BitVec 2) : Bool := (bitAt f.toNat 0 && !bitAt s.fuse.grade.toNat 16) || (bitAt f.toNat 1 && !bitAt s.fuse.grade.toNat 17)
    if lacks g.needs then
      some { refusedPlain Config.FUSED_PATH with
        station := (match g.stations.find? fun t => lacks t.features with | some t => t.index | none => 0xFFFF) }
    else match g.mirror with
      | some m =>
        if s.tw.state.isPaired && s.tw.peerDigest == m.twinDigest then none else some (refusedPlain Config.MIRROR_UNPAIRED)
      | none => none

/-- Whether the placement that stands came from the load pass (R32). -/
def loadPassUsed (s : State) (g : Image) : Bool := match placePass s g false with
  | .ok _ => false
  | .error _ => true

/-- Places of objects in the scratch shares of resident contexts: every core of the share's partition may hold bytes of an
object that the share's context has bound to a slot (R30): (slot, isWay, core, most bytes there). -/
def State.sharePlaces (s : State) : List (Nat × Bool × Nat × Nat) := match s.run with
  | none => []
  | some r => (s.shares.filter fun x => x.2.state == .live).flatMap fun x =>
      (r.bindings.filter fun b => b.2.ctx == x.2.ctx).flatMap fun b =>
        (r.place.partCores.getD x.2.part []).map fun c => (b.1, false, c, min x.2.size (s.obj b.2.obj).size)

/-- Amounts for the places of a residency list: the spec does not say how many bytes lie at each, so each amount is a free
value within its bound (log entry 12). -/
def drawResidency (s : State) (l : List (Nat × Bool × Nat × Nat)) : List (Nat × Bool × Nat × Nat) × State :=
  let d := s.drawWords l.length
  ((l.zip d.1).map fun x => (x.1.1, x.1.2.1, x.1.2.2.1, x.2.toNat % (x.1.2.2.2 + 1)), d.2)

/-- The residency table takes in the scratch shares of resident contexts as they stand (R30). -/
def shareResidency (s : State) : State :=
  let d := drawResidency s s.sharePlaces
  { d.2 with au := { d.2.au with shareResidency := d.1 } }

/-- PROVE ends (R26, R29 checks 3 to 13). A refusal of check 13 names in PASS the pass whose placement stood. DESIGN CHOICE,
log entry 81. -/
def auProved (s : State) (g : Image) : State :=
  match auPlainChecks s g with
  | some r => traceSettle (auRefuse s r)
  | none =>
    match placeImage s g with
    | .error r => traceSettle (auRefuse s r)
    | .ok pl =>
      let arm (s : State) (pl : Placement) (infl : Bool) : State :=
        { s with au := { s.au with state := .armed, candPlace := some pl, candInflated := infl } }
      if s.inflating then
        match bothProofs s g true (loadPassUsed s g) pl.partCores pl.stationCores with
        | .error e => traceSettle (auRefuse s { e with code := Config.TRACE_INFLATED })
        | .ok k => arm s { pl with slack := k } true
      else arm s pl false

/-! ## The commands -/

/-- START (R26). -/
def execStart (who : Who) (s : State) : Host.Outcome State Fault Refusal :=
  .next (hostWrite s who AU_CMD false fun s => auCommand s true false)

/-- ABORT (R26, R27). -/
def execAbort (who : Who) (s : State) : Host.Outcome State Fault Refusal :=
  .next (hostWrite s who AU_CMD false fun s => auCommand s false true)

/-- ADMISSION_VERIFY_DONE: outside VERIFY nothing happens. An image that runs past the end of device memory faults
(R13). -/
def execAdmissionVerifyDone (_ : Unit) (s : State) : Host.Outcome State Fault Refusal :=
  if s.au.state = .verify then
    if s.au.imageAddr.toNat + s.au.imageLen.toNat ≤ 2 ^ 48 then .next (auVerified s) else .fault .addressSpace
  else .next s

/-- ADMISSION_PROVE_DONE: outside PROVE nothing happens. -/
def execAdmissionProveDone (s : State) : Host.Outcome State Fault Refusal :=
  match s.au.state, s.au.cand with
  | .prove, some g => .next (auProved (shareResidency s) g)
  | _, _ => .next s

end Sys2Proof.Machine
end

