-- ==== Sys2Proof/Machine/Gens.lean ====
section
/-! DEFINITION. The generation table (R160 to R167, R174): holders, publication, reclaim and release. -/

namespace Sys2Proof.Machine

/-- Every instruction-cache line tagged with an entry is invalidated (R163). -/
def Core.dropLines (k : Core) (e : Nat) : Core :=
  { k with icache := k.icache.map fun x => (x.1, x.2.filter fun l => l.entry != e) }

/-- An entry becomes FREE (R163, R164). -/
def freeGen (s : State) (e : Nat) : State :=
  { s with
    gens := tdel s.gens e,
    kp := { s.kp with verifyQueue := s.kp.verifyQueue.filter fun x => x != e },
    cores := s.cores.map fun c => (c.1, c.2.dropLines e) }

/-- A REPLACED free generation without holders becomes FREE (R164). A station generation stays until the swap that
replaces its image (R162; log entry 11). -/
def genSettle (s : State) : State :=
  ((s.gens.filter fun g => g.2.state == .replaced && !g.2.station && s.holders g.1 == 0).map fun g => g.1).foldl freeGen s

/-- The entry a publication takes: the lowest FREE one, else the least recently used LIVE free generation without holders
(R162). -/
def State.genSlot (s : State) : Option Nat :=
  match (List.range 8192).find? fun e => (s.gen e).state == .free with
  | some e => some e
  | none =>
    match argmin (fun g : Nat × Gen => (g.2.used : Int)) (s.gens.filter fun g => g.2.state == .live && !g.2.station && s.holders g.1 == 0) with
    | some g => some g.1
    | none => none

/-- Publish a generation in an entry (R160, R164, R174). -/
def publishAt (s : State) (e : Nat) (g : Gen) : State :=
  let s := freeGen s e
  let verifying := s.kp.loaderMode != 0#2
  let s := s.setGen e { g with
    state := .live, number := s.kp.nextGen, written := [], used := s.kp.genClock,
    verdict := if verifying then .queued else .notNeeded }
  { s with kp := { s.kp with
      nextGen := s.kp.nextGen + 1#64, genClock := s.kp.genClock + 1,
      verifyQueue := if verifying then s.kp.verifyQueue ++ [e] else s.kp.verifyQueue } }

/-- Publish a generation; with no entry to take, nothing is published. -/
def publish (s : State) (g : Gen) : State := match s.genSlot with
  | some e => publishAt s e g
  | none => s

/-- Mark a generation as just used (R162). -/
def touchGen (s : State) (e : Nat) : State :=
  let s := s.modGen e fun g => { g with used := s.kp.genClock }
  { s with kp := { s.kp with genClock := s.kp.genClock + 1 } }

/-- The generation of a station's program (R67, R161). -/
def State.stationGen (s : State) (g : Image) (t : Station) : Option Nat :=
  match s.gens.find? fun x => x.2.station && x.2.state != .free && x.2.base == g.progBase + t.progOffset && x.2.len == t.progLen with
  | some x => some x.1
  | none => none

/-- A station generation whose image a swap replaces: it becomes FREE, but one that a free LAUNCH or job still holds stays,
REPLACED and so matched by no later LAUNCH, until its holders end (R162, R164). DEDUCED, log entry 11. -/
def leaveGen (s : State) (e : Nat) : State :=
  if s.holders e = 0 then freeGen s e else s.modGen e fun g => { g with state := .replaced, station := false }

/-- Station generations of the old image leave, those of the new one are published, one per distinct range (R161, R164,
R166). -/
def swapGens (s : State) (g : Image) : State :=
  let s := ((s.gens.filter fun x => x.2.station).map fun x => x.1).foldl leaveGen s
  g.stations.foldl (fun s t =>
    if (s.stationGen g t).isSome then s
    else publish s { Gen.reset with base := g.progBase + t.progOffset, len := t.progLen, entry := t.entry,
                                    features := t.features, station := true }) s

/-- A generation lets its program be fetched: it needed no verification or has passed (R174, R177). -/
def Gen.ready (g : Gen) : Bool := match g.verdict with
  | .notNeeded => true
  | .verified => true
  | _ => false

end Sys2Proof.Machine
end

