-- ==== Sys2Proof/Machine/Swap.lean ====
section
/-! DEFINITION. The swap to an ARMED image (R88 to R94, R297, R333) and the bindings of object slots (R253). -/

namespace Sys2Proof.Machine

/-! ## Bindings (R253) -/

/-- Whether an object suits a slot, for a context (R253). -/
def State.slotAccepts (s : State) (d : SlotDecl) (ctx obj : Nat) : Bool :=
  let o := s.obj obj
  (s.ctx ctx).inst == d.inst && decide (d.size ≤ o.size) &&
    (if d.output then o.kind == .output && o.writable else o.kind == .plain || o.kind == .output) &&
    (!d.isSealed || o.isSealed)

/-- BOUND flags follow the bindings (R244). -/
def boundFlags (s : State) : State :=
  let bound : List Nat := match s.run with
    | some r => r.bindings.map fun (b : Nat × Binding) => b.2.obj
    | none => []
  { s with objs := s.objs.map fun o => (o.1, { o.2 with bound := bound.contains o.1 }) }

/-- Whether a binding is kept at a swap to `g` (R93). -/
def State.bindingKept (s : State) (old g : Image) (slot : Nat) (b : Binding) : Bool :=
  match old.slotDecl slot, g.slotDecl slot with
  | some o, some d => o.inst == d.inst && o.part == d.part && s.slotAccepts d b.ctx b.obj
  | _, _ => false

/-- Bindings that the swap keeps (R93). -/
def State.keptBindings (s : State) (g : Image) : Tbl Binding := match s.run with
  | some r => r.bindings.filter fun b => s.bindingKept r.img g b.1 b.2
  | none => []

/-- A BIND takes effect or fails (R253): the binding replaces the slot's earlier one and its basin fill starts (R123). -/
def bindNow (s : State) (q : Nat) (c : Cmd) (handle slot : W32) : State :=
  let obj := handleIndex handle
  let ctx := s.queueCtx q
  match s.run with
  | none => completeCmd s q c.seqNo Config.HANDLE_RIGHTS false 0#64
  | some r => match r.img.slotDecl slot.toNat with
    | none => completeCmd s q c.seqNo Config.HANDLE_RIGHTS false 0#64
    | some d =>
      if s.slotAccepts d ctx obj then
        let s := { s with basin := tdel s.basin slot.toNat }
        let s := s.modRun fun r => { r with bindings := tput r.bindings slot.toNat {
          obj := obj, ctx := ctx, filled := d.basinBytes == 0, refilling := false } }
        completeCmd (boundFlags s) q c.seqNo Config.NONE false 0#64
      else completeCmd s q c.seqNo Config.HANDLE_RIGHTS false 0#64

/-- BINDs that wait for the beat edge, in fetch order: (queue, command). -/
def State.pendingBinds (s : State) : List (Nat × Cmd) :=
  let l := s.queues.flatMap fun q => (q.2.cmds.filter fun c => c.phase == .started && (match c.body with
    | .mapBind _ _ => true | _ => false)).map fun c => (q.1, c)
  sortBy (fun a b => decide (a.2.seqNo ≤ b.2.seqNo)) l

/-- Every waiting BIND is decided at the beat edge (R253). -/
def applyBinds (s : State) : State :=
  s.pendingBinds.foldl (fun s x => match x.2.body with
    | .mapBind h slot => bindNow s x.1 x.2 h slot
    | _ => s) s

/-! ## Shares (R333) -/

/-- The lowest offset at which a range of `size` fits below `limit` beside taken ranges (R330, R333). -/
def firstFit (taken : List (Nat × Nat)) (size limit : Nat) : Option Nat :=
  (sortNat (0 :: taken.map fun t => t.1 + t.2)).find? fun o => decide (o + size ≤ limit) && !taken.any fun t => overlaps o size t.1 t.2

/-- Shares of a partition as ranges. -/
def shareRanges (shares : Tbl Share) (p : Nat) : List (Nat × Nat) := (shares.filter fun x => x.2.part == p).map fun x => (x.2.off, x.2.size)

/-- The Keeper places the context shares of changed partitions again, in record order; one that no longer fits is freed
and reported. A RELEASING share ends here: the swap clears its cores. -/
def replaceShares (s : State) (g : Image) (kept : List Nat) : State :=
  let old := s.shares
  old.foldl (fun s x =>
    if kept.contains x.2.part then { s with shares := tput s.shares x.1 x.2 }
    else if x.2.state = .releasing then s
    else
      match (g.part x.2.part).bind fun p => firstFit (shareRanges s.shares x.2.part) x.2.size p.freeScratch with
      | some o => { s with shares := tput s.shares x.1 { x.2 with off := o, state := .live, clearing := [] } }
      | none => chPulse s 107 Config.SCRATCH_SHORT (BitVec.ofNat 32 x.2.ctx)) { s with shares := [] }

/-! ## Counters (R91, R297) -/

/-- A pending WAIT on a released counter ends as on an abandoned one (R91, R312). -/
def Cmd.abandonWait (c : Cmd) (s : State) (gone : BitVec 17 → Bool) : Cmd := match c.body with
  | .waitCounter _ id _ =>
    if c.phase = .pendingWait ∧ gone id = true then
      { c with phase := .started, code := Config.ABANDONED, detail := (s.counter id.toNat).value.setWidth 64 } else c
  | _ => c

/-- The same over a queue. -/
def Queue.abandonWaits (q : Queue) (s : State) (gone : BitVec 17 → Bool) : Queue :=
  { q with cmds := q.cmds.map fun c => c.abandonWait s gone }

/-- An ID of the old image whose counter the new image still declares there: the same KEY and GRAPH under the same ID (R91). -/
def State.stillDeclared (s : State) (decls : List (CounterDecl × Nat × Bool)) (id : Nat) : Bool := match s.run with
  | none => false
  | some r => (r.img.counters.zip r.place.counterId).any fun o => o.2 == id && decls.any fun d =>
      d.2.1 == id && d.1.key == o.1.key && d.1.graph == o.1.graph

/-- Counters of the old image that the new one does not declare are released, and queue WAITs on them end as abandoned (R91,
R312); those of the new image are set to INITIAL, kept ones excepted. `decls` gives each declaration its ID and whether it
is kept. -/
def swapCounters (s : State) (decls : List (CounterDecl × Nat × Bool)) : State :=
  let keptIds := (decls.filter fun d => d.2.2).map fun d => d.2.1
  let oldIds := match s.run with | some r => r.place.counterId | none => []
  let gone (id : BitVec 17) : Bool := oldIds.contains id.toNat && !s.stillDeclared decls id.toNat
  let queues : Tbl Queue := s.queues.map fun q => (q.1, q.2.abandonWaits s gone)
  let s := { s with queues := queues }
  let s := { s with counters := s.counters.filter fun c => !oldIds.contains c.1 || keptIds.contains c.1 }
  decls.foldl (fun s d =>
    if d.2.2 then s.modCounter d.2.1 fun c => { c with initial := d.1.initial }
    else s.setCounter d.2.1 { Counter.reset with
      kind := .graph, state := .live, error := d.1.error, owner := BitVec.ofNat 11 d.1.graph, value := d.1.initial,
      initial := d.1.initial, key := d.1.key }) s

/-! ## Queues (R92) -/

/-- Queues whose partition the running image grants. -/
def State.grantedQueues (s : State) : List Nat :=
  (s.queues.filter fun q => q.2.state != .free && s.granted q.2.part (s.ctx q.2.ctx).inst).map fun q => q.1

/-- A queue loses its partition: it is stopped, and reported. One in ERROR stays there, and stops when it is reset. -/
def loseQueue (s : State) (qn : Nat) : State :=
  accessDeniedId (s.modQueue qn fun x => { x with
    state := if x.state = .error then .error else .stopped, stoppedByDisable := false }) qn

/-- Queues of a list, whose partitions the old image granted, that the new image does not grant, whatever state they are
in. -/
def swapQueues (s : State) (granted : List Nat) : State :=
  (granted.filter fun qn => !s.granted (s.queue qn).part (s.ctx (s.queue qn).ctx).inst).foldl loseQueue s

/-! ## Residency (R30) -/

/-- Bytes of a basin copy of `len` bytes in way i of n ways, over which it is interleaved in 4 KiB granules (R114). -/
def wayBytes (n i len : Nat) : Nat :=
  4096 * (len / 4096 / n + (if i < len / 4096 % n then 1 else 0)) + (if len / 4096 % n = i then len % 4096 else 0)

/-- The places of an image's objects: (slot, isWay, location, most bytes there). -/
def Image.places (g : Image) (pl : Placement) : List (Nat × Bool × Nat × Nat) :=
  (g.stations.flatMap fun t => (g.objRange t).flatMap fun d =>
    (pl.stationCores.getD t.index []).map fun c => (d.slot.toNat, false, c, min t.share d.size)) ++
  (g.slots.filter fun d => d.basinBytes != 0).flatMap fun d =>
    let ways := pl.resWays.getD d.part []
    ways.zipIdx.map fun w => (d.slot.toNat, true, w.1, min 4194304 (wayBytes ways.length w.2 d.basinBytes))

/-- The residency table of the new placement (R30). -/
def fillResidency (s : State) (g : Image) (pl : Placement) : State :=
  let d := drawResidency s (g.places pl)
  shareResidency { d.2 with au := { d.2.au with residency := d.1 } }

/-! ## The swap -/

/-- Cores that the swap clears whole: those of changed partitions and those without a partition (R90). -/
def State.swapCleared (s : State) (pl : Placement) (kept : List Nat) : List Nat :=
  s.presentCores.filter fun c => !(pl.partCores.zipIdx.any fun p => kept.contains p.2 && p.1.contains c)

/-- The swap to an image with its placement, at the edge where beat `beat` begins (R88). -/
def swapTo (s : State) (g : Image) (pl : Placement) (beat : BitVec 48) : State :=
  let b : Bound := pl.stationCores.zipIdx.map fun x => (x.2, x.1)
  let kept := (g.parts.filter (isKept s g pl.partCores b)).map fun p => p.index
  let changed := (g.parts.map fun p => p.index).filter fun p => !kept.contains p
  let decls := (g.counters.zip pl.counterId).map fun x => (x.1, x.2, keptCounter s g kept b x.1 == some x.2)
  let ctrKept := (decls.filter fun d => d.2.2).filterMap fun d => (g.station d.1.waiter).map fun t => t.part
  let binds := s.keptBindings g
  let lostMirror := s.mirror.isSome && g.mirror.isNone
  let cleared := s.swapCleared pl kept
  let held := s.grantedQueues
  let s := swapGens (swapCounters s decls) g
  let s := { s with
    run := some { img := g, place := pl, imageSlot := s.au.candSlot, changedNow := changed, beat := [], openWin := [],
                  killedGraphs := [], passed := [], bindings := binds },
    basin := s.basin.filter fun x => (tfind binds x.1).isSome,
    esc := { s.esc with periodUs := BitVec.ofNat 17 g.periodUs, capDw := BitVec.ofNat 12 g.capDw, swapBeat := true },
    sec := { s.sec with levels := g.tamper, oldLevels := s.sec.levels, swapCycles := 4 } }
  let s := cleared.foldl (fun s c => s.modCore c fun k => { k with clears := [(0, 20971520)] }) s
  let s := fillResidency (swapQueues (replaceShares (boundFlags s) g kept) held) g pl
  let s := if lostMirror && s.tw.state.isPaired && s.tw.state != .held then
      { s with tw := { s.tw with state := .paired, elect := false, complete := [] } } else s
  let s := { s with au := { s.au with
    state := .idle, cand := none, candPlace := none, admitted := true, lastCode := Config.NONE, activeBeat := beat,
    inflateActive := s.au.candInflated && s.inflating, candInflated := false,
    swapKept := BitVec.ofNat 8 (maskOf kept), swapChanged := BitVec.ofNat 8 (maskOf changed),
    swapCounters := BitVec.ofNat 8 (maskOf ctrKept) } }
  chSample (pumpAll (poolSettle s)) 96

end Sys2Proof.Machine
end

