-- ==== Sys2Proof/Machine/Launch.lean ====
section
/-! DEFINITION. Windows and the launch of stations and free jobs (R23, R48 to R50, R74, R97, R118, R135, R183, R255, R298,
R335). -/

namespace Sys2Proof.Machine

/-! ## What may run -/

/-- The Keeper dispatches at all: the Escapement runs, and no stop, halt-all or retention entry is in force. -/
def State.dispatches (s : State) : Bool :=
  s.portAlive && s.boot.state == .ready && s.esc.running && !s.fr.stopped && !s.obs.halted && !s.boot.retEntering

/-- A partition launches nothing in this swap beat: it was changed, or its generations are verified in it (R90, R177). -/
def State.swapBlocked (s : State) (p : Nat) : Bool := s.esc.swapBeat && (s.kp.loaderMode != 0#2 ||
  (match s.run with | some r => r.changedNow.contains p | none => false))

/-- What a station has done in the beat. -/
def Running.status (r : Running) (st : Nat) : StationBeat := tget .waiting r.beat st

/-- Set what a station has done in the beat. -/
def setStatus (s : State) (st : Nat) (b : StationBeat) : State := s.modRun fun r => { r with beat := tput r.beat st b }

/-- A station is done for the window: nothing of it will run any more (R23). -/
def Running.stationDone (r : Running) (t : Station) : Bool := match r.status t.index with
  | .skipped => true
  | .committed => true
  | .killed => true
  | .waiting => r.killedGraphs.contains t.graph
  | _ => false

/-- A station of a partition's window is done on one of its cores: it is done, or the kill of its graph in this beat is
complete on that core (R23). -/
def State.doneOn (s : State) (r : Running) (t : Station) (c : Nat) : Bool :=
  r.stationDone t || (r.killedGraphs.contains t.graph &&
    s.jobs.any fun j => j.2.kind == .station t.index && j.2.kill.isSome && !j.2.killing.contains c)

/-- A core is idle: no job and no kill on it. -/
def Core.isIdle (k : Core) : Bool := k.st == .idle && k.job.isNone

/-! ## Pauses (R41, R426) -/

/-- The memory ports signal a pause. -/
def State.pausing (s : State) : Bool := s.ports.any fun p => p.2.paused

/-- The pause in progress lies within the declared allowance. -/
def State.pauseAllowed (s : State) : Bool := s.pausing && (match s.run with
  | some r => decide (s.esc.pauseSeen.toNat ≤ r.img.pausesPerBeat) && decide (s.fr.pauseNs < r.img.pauseMaxUs * 1000)
  | none => false)

/-! ## Lanes (R96, R97, R117, R118) -/

/-- Key of a lane of a station in a core's lane tables. -/
def laneKey (st lane : Nat) : Nat := st * 64 + lane

/-- Outgoing and incoming stream edges of a station, in EDGE order. -/
def Image.streamOut (g : Image) (n : Nat) : List Edge := g.edges.filter fun e => !e.staged && e.src == n
def Image.streamIn (g : Image) (n : Nat) : List Edge := g.edges.filter fun e => !e.staged && e.dst == n

/-- Number of the first receive lane of an edge's consumer that belongs to the edge (R97). -/
def Image.recvFirst (g : Image) (e : Edge) : Nat :=
  ((g.streamIn e.dst).takeWhile fun x => x.src != e.src).foldl (fun a x => a + g.coresOf x.src) 0

/-- Number of the first send lane of an edge's producer that belongs to the edge. -/
def Image.sendFirst (g : Image) (e : Edge) : Nat :=
  ((g.streamOut e.src).takeWhile fun x => x.dst != e.dst).foldl (fun a x => a + g.coresOf x.dst) 0

/-- The send lanes of slot `i` of a station, freshly reset. -/
def sendLanesOf (g : Image) (pl : Placement) (st i core : Nat) : List SendLane :=
  (g.streamOut st).flatMap fun e => (List.range (g.coresOf e.dst)).map fun j =>
    let d := (pl.stationCores.getD e.dst []).getD j 0
    let n := laneSlots (hops core d) e.tileBytes
    { credits := n, slots := n, hops := hops core d, tileBytes := e.tileBytes, dstCore := d,
      dstLane := g.recvFirst e + i, dstStation := e.dst, returning := 0, ptr := 0 }

/-- Receive lanes with their buffers one behind another from a scratch offset on, each at its six-hop size (R103). -/
def placeBufs : Nat → List RecvLane → List RecvLane
  | _, [] => []
  | b, r :: l => { r with buf := b } :: placeBufs (b + laneSlots 6 r.tileBytes * r.tileBytes) l

/-- Scratch offset of a station's first receive buffer: behind the working area and the lane records (R103; log entry 92). -/
def bufFirst (g : Image) (pl : Placement) (st core : Nat) : Nat :=
  pl.baseOf st core + (match g.station st with | some t => g.workLen t | none => 0) + 64 * (g.sendLanes st + g.recvLanes st)

/-- The receive lanes of slot `j` of a station, freshly reset. -/
def recvLanesOf (g : Image) (pl : Placement) (st j core : Nat) : List RecvLane :=
  placeBufs (bufFirst g pl st core) ((g.streamIn st).flatMap fun e => (List.range (g.coresOf e.src)).map fun i =>
    let c := (pl.stationCores.getD e.src []).getD i 0
    { held := 0, slots := laneSlots (hops c core) e.tileBytes, hops := hops c core, tileBytes := e.tileBytes, srcCore := c,
      srcLane := g.sendFirst e + j, srcStation := e.src, ptr := 0, buf := 0, inFlight := [] })

/-- Add a station's lanes to its cores. -/
def addLanes (g : Image) (pl : Placement) (s : State) (t : Station) : State :=
  (pl.stationCores.getD t.index []).zipIdx.foldl (fun s x => s.modCore x.1 fun k => { k with
    sendLanes := (sendLanesOf g pl t.index x.2 x.1).zipIdx.foldl (fun l y => tput l (laneKey t.index y.2) y.1) k.sendLanes,
    recvLanes := (recvLanesOf g pl t.index x.2 x.1).zipIdx.foldl (fun l y => tput l (laneKey t.index y.2) y.1) k.recvLanes }) s

/-- The lanes of a window replace those of the partition's cores (R118). -/
def resetLanes (s : State) (r : Running) (p w : Nat) : State :=
  let s := (r.place.partCores.getD p []).foldl (fun s c => s.modCore c fun k => { k with sendLanes := [], recvLanes := [] }) s
  (r.img.stationsIn p w).foldl (addLanes r.img r.place) s

/-! ## Skips (R74, R177) -/

/-- Whether every slot of a station's range is bound and filled, and its generation may be fetched. -/
def State.stationReady (s : State) (r : Running) (t : Station) : Bool :=
  ((r.img.objRange t).all fun d => match tfind r.bindings d.slot.toNat with
    | some b => b.filled && !b.refilling
    | none => false) &&
  (match s.stationGen r.img t with | some e => (s.gen e).ready | none => false)

/-- Stations of a list that a skip reaches through stream edges (R74). -/
def spreadSkips (g : Image) : Nat → List Nat → List Nat
  | 0, l => l
  | n + 1, l =>
    let more := (g.edges.filter fun e => !e.staged && l.contains e.src && !l.contains e.dst).map fun e => e.dst
    if more.isEmpty then l else spreadSkips g n (l ++ more.eraseDups)

/-- Stations of a window that are skipped in this beat. -/
def State.windowSkips (s : State) (r : Running) (p w : Nat) : List Nat :=
  let ts := r.img.stationsIn p w
  let first := (ts.filter fun t => !s.stationReady r t).map fun t => t.index
  (spreadSkips r.img ts.length first).filter fun n => r.status n == .waiting

/-- Skip a station: counted in the partition's report and globally. -/
def skipStation (p : Nat) (s : State) (st : Nat) : State :=
  let s := s.modRgPart p fun x => { x with skipped := satInc x.skipped }
  setStatus (pmGlobal s 14 1) st .skipped

/-! ## Core set-up (R135, R183, R298) -/

/-- Base of a job's share on a core. -/
def State.shareBase (s : State) (j : Job) (c : Nat) : Nat := match j.kind with
  | .station st => (match s.run with | some r => r.place.baseOf st c | none => 0)
  | .free q _ _ => (match s.shareOf (s.queue q).ctx j.part with | some x => x.2.off | none => 0)

/-- The counter directory of a graph (R298). -/
def directory (g : Image) (pl : Placement) (graph : Nat) : List Byte :=
  let l := (g.counters.zip pl.counterId).filter fun x => x.1.graph == graph
  (sortBy (fun a b => decide (a.1.key.toNat ≤ b.1.key.toNat)) l).flatMap fun x => leBytes 4 (2 ^ 31 + 2 ^ 24 * b2n x.1.error + x.2)

/-- Set of a line (R158). -/
def icacheSet (entry line : Nat) : Nat := (line % 256) ^^^ (entry % 256)

/-- The cached line of a generation, if the core holds it. -/
def Core.cachedLine (k : Core) (entry line : Nat) : Option ICacheLine :=
  (tget [] k.icache (icacheSet entry line)).find? fun l => l.entry == entry && l.line == line

/-- The cached bytes of a line. -/
def Core.cached (k : Core) (entry line : Nat) : Option (List Byte) := (k.cachedLine entry line).map fun l => l.bytes

/-- A core begins slot `slot` of a job of a generation. Set-up is complete, and the bound counter counts, once the first
instruction line is there (R135, R159). -/
def Core.begin (k : Core) (job slot gen entry : Nat) (isSealed : Bool) (args : List W64) : Core :=
  { k with
    st := .running, stall := 0#3, pc := entry, job := some job, slot := slot, ended := false,
    regs := args.zipIdx.foldl (fun r x => tset0 r (x.2 + 1) x.1) [], flags := 0#64, boundUsed := 0#32, watch := none,
    fetched := none, lastFetch := entry, started := (k.cached gen (entry / 128)).isSome, prefetch := [], notReady := [],
    lastSealed := isSealed, me := Matrix.reset, ve := Vector'.reset,
    se := { k.se with threads := [], mcasts := [], turn := 0 },
    flowInsns := 0, flowTime := 0#64, stallTime := 0#64 }

/-- JOB trace frame of a core (R477). -/
def traceJob (s : State) (c : Nat) (j : Job) (entry kind : Nat) : State :=
  traceCore s c 0x22 (leBytes 2 j.gen ++ leBytes 4 entry ++ leBytes 2 j.stationCode.toNat ++ leBytes 1 kind ++ leBytes 1 (b2n j.isSealed))

/-- Launch a job on its cores: LAUNCH frame, set-up of every core, JOB frames (R135, R477). -/
def launchJob (s : State) (j : Job) (entry queue : Nat) (args : List W64) : State :=
  let n := s.nextJob
  let s := { s.setJob n j with nextJob := n + 1 }
  let s := traceKeeper s 0x11 (leBytes 2 queue ++ leBytes 2 j.stationCode.toNat ++ leBytes 2 (maskOf j.cores) ++ leBytes 2 j.gen)
  j.cores.zipIdx.foldl (fun s x => traceJob (s.setCore x.1 ((s.core x.1).begin n x.2 j.gen entry j.isSealed args)) x.1 j entry 1) s

/-! ## Stations -/

/-- OUTPUT objects of a station's range with their current versions (R255). -/
def State.stationPins (s : State) (r : Running) (t : Station) : List (Nat × Bool) :=
  (r.img.objRange t).filterMap fun d => match tfind r.bindings d.slot.toNat with
    | some b => if (s.obj b.obj).kind = .output then some (s.rootOf b.obj, s.version b.obj) else none
    | none => none

/-- Stations that come before one on some core of its in the list schedule (R34). -/
def Running.earlier (r : Running) (t : Station) : List Station :=
  let ts := r.img.stationsIn t.part t.win
  let cs := r.place.stationCores.getD t.index []
  ((stagedOrder r.img ts.length ts []).takeWhile fun u => u.index != t.index).filter fun u =>
    (r.place.stationCores.getD u.index []).any cs.contains

/-- A station may launch now (R22, R23, R34, R52, R69, R74, R106). -/
def State.mayLaunch (s : State) (r : Running) (t : Station) : Bool :=
  s.dispatches && tfind r.openWin t.part == some t.win && r.status t.index == .waiting && !r.killedGraphs.contains t.graph &&
    !s.swapBlocked t.part && (r.earlier t).all r.stationDone &&
    (r.img.edges.all fun e => !(e.staged && e.dst == t.index) || (match r.img.station e.src with
      | some u => r.stationDone u | none => true)) &&
    (r.place.stationCores.getD t.index []).all fun c =>
      (s.core c).isIdle && !(s.core c).clearing (r.place.baseOf t.index c) t.share

/-- Kill limit of a station: inflated while inflation is active (R43). -/
def State.stationLimit (s : State) (t : Station) : Nat := infl s.au.inflateActive t.bound

/-- Launch a station. -/
def launchStation (s : State) (r : Running) (t : Station) (e : Nat) : State :=
  let cores := r.place.stationCores.getD t.index []
  let j : Job := {
    kind := .station t.index, part := t.part, cores := cores, gen := e, bound := t.bound, killLimit := s.stationLimit t,
    features := t.features, launchBeat := s.esc.beatCount, launchTime := s.esc.time, isSealed := r.img.sealedStation t,
    workLen := r.img.workLen t, hmask := [], omask := [], pins := s.stationPins r t, wrote := [], stores := [],
    contrib := [], arrivals := [], deferred := false, deferStart := 0#64, kill := none, killCode := 0#16, coKilled := false,
    detail := 0#64, killing := [], counts := [] }
  let dir := directory r.img r.place t.graph
  let s := cores.foldl (fun s c => s.modCore c fun k => k.putScratch (r.place.baseOf t.index c) dir) s
  launchJob (setStatus s t.index .running) j t.entry 0xFFFF []

/-! ## Free jobs -/

/-- Cores of a partition that are free-eligible in its open window (R23). -/
def State.freeEligible (s : State) (r : Running) (p w : Nat) : List Nat :=
  if s.swapBlocked p then []
  else (sortNat (r.place.partCores.getD p [])).filter fun c => (s.core c).isIdle &&
    ((r.img.stationsIn p w).filter fun t => (r.place.stationCores.getD t.index []).contains c).all fun t => s.doneOn r t c

/-- Cores that free jobs of a partition hold (R39). -/
def State.freeCores (s : State) (p : Nat) : Nat :=
  s.jobs.foldl (fun a j => match j.2.kind with
    | .free _ _ _ => if j.2.part = p then a + j.2.cores.length else a
    | .station _ => a) 0

/-- Pauses declared and not yet signalled in the beat (R49). -/
def State.pausesLeft (s : State) (g : Image) : Nat := g.pausesPerBeat - s.esc.pauseSeen.toNat

/-- The condition of R49 for a bound at cycle t of a window. -/
def fits (s : State) (g : Image) (w : Window) (t bound : Nat) : Bool :=
  decide (t + L_LAUNCH + bound + s.pausesLeft g * g.pauseMaxUs * 500 + G_TRAIL + tol (w.lenUs * 500 - t) + w.guardExtra ≤ w.lenUs * 500)

/-- Bound and core count of a LAUNCH. -/
def Cmd.launchNeeds (c : Cmd) : Nat × Nat := match c.body with
  | .launch m _ _ _ _ _ _ _ b _ => (m + 1, b)
  | _ => (0, 0)

/-- Offerable LAUNCHes of a partition in Regulator order: lowest vt, ties to the lowest queue ID (R335). -/
def State.offers (s : State) (p : Nat) : List (Nat × Cmd) :=
  let l := (s.queues.filter fun q => q.2.part == p && q.2.state != .free).flatMap fun q =>
    (q.2.cmds.filter fun c => s.offerable q.2 c).map fun c => (q.1, c)
  sortBy (fun a b => !vtLess (s.queue b.1).vt (s.queue a.1).vt) l

/-- The freed cores of a preemption go first to the LAUNCH it was made for (R342). -/
def State.offersFor (s : State) (p : Nat) : List (Nat × Cmd) :=
  let l := s.offers p
  match (s.rgPart p).autoFor with
  | some n => (l.filter fun x => x.2.seqNo == n) ++ l.filter fun x => x.2.seqNo != n
  | none => l

/-- Start a LAUNCH on cores (R135, R255, R281). -/
def launchFree (s : State) (p qn : Nat) (c : Cmd) (cores : List Nat) : State :=
  match c.body with
  | .launch _ feat hm om _ _ _ entry bound args =>
    let q := s.queue qn
    let sh := s.shareOf q.ctx p
    let size := match sh with | some x => x.2.size | none => 0
    let handles (m : BitVec 8) : List W32 := ((List.range 8).filter (bitAt m.toNat)).map (argHandle args)
    let pins := (s.cmdReads c).map fun i => (i, s.version i)
    let j : Job := {
      kind := .free qn c.index c.seqNo, part := p, cores := cores, gen := c.gen.getD 0, bound := bound, killLimit := bound,
      features := feat, launchBeat := s.esc.beatCount, launchTime := s.esc.time,
      isSealed := (match sh with | some x => x.2.isSealed | none => false), workLen := size,
      hmask := handles hm, omask := handles om, pins := pins, wrote := [], stores := [], contrib := [], arrivals := [], deferred := false,
      deferStart := 0#64, kill := none, killCode := 0#16, coKilled := false, detail := 0#64, killing := [], counts := [] }
    let n := s.nextJob
    let s := s.modQueue qn fun q => q.modCmd c.seqNo fun c => { c with
      phase := .started, job := some n, pins := pins, startTime := s.esc.time, cores := maskOf cores }
    let s := s.modRgPart p fun x => if x.autoFor = some c.seqNo then { x with autoFor := none, autoCores := [] } else x
    launchJob s j entry qn args
  | _ => s

/-- Cores that an automatic preemption has freed and that are kept for the LAUNCH it was made for, as long as that LAUNCH is
offerable and not passed over (R342). -/
def State.keptCores (s : State) (r : Running) (p : Nat) : List Nat := match (s.rgPart p).autoFor with
  | some n => if ((s.offers p).any fun x => x.2.seqNo == n) && !r.passed.contains (p, n) then (s.rgPart p).autoCores else []
  | none => []

/-- Free-eligible cores that a LAUNCH may take. -/
def State.coresFor (s : State) (r : Running) (p w : Nat) (c : Cmd) : List Nat :=
  if (s.rgPart p).autoFor = some c.seqNo then s.freeEligible r p w
  else (s.freeEligible r p w).filter fun k => !(s.keptCores r p).contains k

/-- Offer one LAUNCH at cycle t: launched, passed over (R50), or left in its place (R335). With no core free-eligible for it
nothing is offered. -/
def offerOne (p : Nat) (w : Window) (t : Nat) (s : State) (x : Nat × Cmd) : State :=
  match s.run with
  | none => s
  | some r =>
    let needs := x.2.launchNeeds
    let cores := s.coresFor r p w.index x.2
    if r.passed.contains (p, x.2.seqNo) || cores.isEmpty then s
    else if !fits s r.img w t needs.2 then
      (s.modRgPart p fun y => { y with passedOver := satInc y.passedOver }).modRun fun r => { r with passed := r.passed ++ [(p, x.2.seqNo)] }
    else
      let sh := s.shareOf (s.queue x.1).ctx p
      let free := cores.filter fun c => match sh with
        | some y => !(s.core c).clearing y.2.off y.2.size
        | none => false
      if !s.offerable (s.queue x.1) x.2 || free.length < needs.1 || r.img.freeLimit p < s.freeCores p + needs.1 then s
      else launchFree s p x.1 x.2 (free.take needs.1)

/-- Offer the LAUNCHes in order, again and again while any launches (R335). -/
def offerRounds (p : Nat) (w : Window) (t : Nat) : Nat → State → State
  | 0, s => s
  | n + 1, s =>
    let s' := (s.offersFor p).foldl (offerOne p w t) s
    if s'.nextJob = s.nextJob then s' else offerRounds p w t n (pumpAll s')

/-- Every offerable LAUNCH is offered until none fits (R335): each launch takes a core, and there are 16. -/
def offerAll (s : State) (p : Nat) (w : Window) (t : Nat) : State := regEval (offerRounds p w t 16 s)

end Sys2Proof.Machine
end

