-- ==== Sys2Proof/Machine/Ends.lean ====
section
/-! DEFINITION. The end of a run and of a command: JOB_END (R138), the end of a kill (R51, R309, R322, R338, R343, R361,
R369), commit (R257 to R259, R264, R289, R290, R300), counter records (R470 to R472) and the completion record's INDEX
(R279). -/

namespace Sys2Proof.Machine

/-! ## Shares being released (R331) -/

/-- A RELEASING share begins to clear once no job of its context runs in the partition; with no core to clear, its record
is freed at once. -/
def shareSettle (s : State) : State :=
  s.shares.foldl (fun s x =>
    if x.2.state = .releasing ∧ x.2.clearing = [] ∧ (s.jobs.any fun j => j.2.part == x.2.part && (match j.2.kind with
        | .free q _ _ => s.queueCtx q == x.2.ctx
        | .station _ => false)) = false then
      let cs := s.partCores x.2.part
      if cs.isEmpty then { s with shares := tdel s.shares x.1 }
      else cs.foldl (fun s c => clearRange s c x.2.off x.2.size) { s with shares := tput s.shares x.1 { x.2 with clearing := cs } }
    else s) s

/-- What follows when a job has left its cores: generations, releases and an erase in progress. -/
def afterJob (s : State) : State :=
  let s := shareSettle (genSettle s)
  if s.sec.eraseBusy && !s.sealedJobs then eraseSettle (eraseShares s) else s

/-- Cores become idle. -/
def Core.leave (k : Core) : Core := { k with st := .idle, stall := 0#3, job := none, watch := none, ended := false }
def idleCores (s : State) (cs : List Nat) : State := cs.foldl (fun s c => s.modCore c Core.leave) s

/-! ## JOB_END (R138) -/

/-- Every engine and stream thread of a core is idle. -/
def Core.quiet (k : Core) : Bool :=
  k.me.queue.isEmpty && k.me.running.isEmpty && k.ve.queue.isEmpty && k.ve.groups.isEmpty &&
    k.se.threads.all fun t => t.2.queue.isEmpty && t.2.active.isEmpty

/-- A signal of a core still rides behind a tile (R120). -/
def State.ridingSignals (s : State) (c : Nat) : Bool :=
  s.cores.any fun k => k.2.recvLanes.any fun l => l.2.inFlight.any fun f => f.src == c && f.sig != .none

/-- A job has ended: every slot has issued END, every engine is idle and every signal is applied (R138). -/
def State.jobOver (s : State) (n : Nat) (j : Job) : Bool :=
  j.kill.isNone && j.cores.all (fun c =>
    (s.core c).st == .running && (s.core c).ended && (s.core c).quiet && !s.ridingSignals c) && !s.jobUpdates n

/-- One job named by RG_PREEMPT is gone (R349). -/
def preemptDone (s : State) (n : Nat) (killed : Bool) : State :=
  if s.rg.preJobs.contains n then
    let l := s.rg.preJobs.filter fun x => x != n
    { s with rg := { s.rg with preJobs := l, preBusy := !l.isEmpty,
                               preKilled := if killed then satInc s.rg.preKilled else s.rg.preKilled } }
  else s

/-- The end of a job's run. A station waits for its commit with its job record; a LAUNCH completes and is charged. A
preemption that was held back for it is dropped (R344). -/
def endJob (s : State) (n : Nat) (j : Job) : State :=
  let s := preemptDone s n false
  let s := j.cores.foldl (fun s c => traceJob s c j 0 2) s
  let s := idleCores s j.cores
  match j.kind with
  | .station st => shareSettle (setStatus (s.setJob n { j with pins := [], cores := [] }) st .ended)
  | .free q _ seqNo =>
    let s := regCharge (s.dropJob n) q (s.heldNs j)
    let s := addCounts s (s.queueCtx q) j.counts
    let s := s.modQueue q fun x => x.modCmd seqNo fun c => { c with wrote := j.wrote, counts := j.counts }
    afterJob (gvUpdate (completeCmd s q seqNo Config.NONE false 0#64) j.part)

/-! ## The end of a kill -/

/-- A LAUNCH returns to its place after a preemption or a disable (R343, R361). -/
def requeue (s : State) (q seqNo : Nat) : State :=
  pumpAll (s.modQueue q fun x => x.modCmd seqNo fun c => { c with
    phase := .fetched, job := none, pins := [], wrote := [], reruns := satInc c.reruns })

/-- A kill that a preemption made: at once, or at KP_REMOTE_LIMIT (R325, R343, R346; log entry 40). -/
def Job.preempted (j : Job) : Bool := j.kill == some .preempt || j.kill == some .remoteLimit

/-- A kill that counts as one of a preemption: a disable's kill does in every respect (R343, R361). -/
def Job.countsPreempt (j : Job) : Bool := j.preempted || j.kill == some .disable

/-- Accounts of a preemption kill: the queue's PREEMPTS and LOST, the partition's report, slot 9 (R341, R343, R348). -/
def preemptAccounts (s : State) (j : Job) : State :=
  if j.countsPreempt then
    let s := (pmGlobal s 9 1).modRgPart j.part fun x => { x with preempted := satInc x.preempted }
    match j.kind with
    | .station _ => s
    | .free q _ _ => s.modQueue q fun x => { x with
        preempts := x.preempts + 1#32, lost := x.lost + BitVec.ofNat 64 (s.heldNs j) }
  else s

/-- The charge of a killed run (R338). -/
def Job.killCharge (j : Job) (held : Nat) : Nat := match j.kill with
  | some .preempt => 0
  | some .remoteLimit => 0
  | some .disable => 0
  | some .bound => j.cores.length * j.killLimit * 2
  | _ => held

/-- Whether a killed LAUNCH runs again (R343, R361). -/
def Job.reruns (j : Job) : Bool := j.kill == some .preempt || j.kill == some .disable

/-- What becomes of the LAUNCH of a killed run. One that a disable killed does not return to a context that has been torn down
meanwhile (R366, R369). -/
def endKilledLaunch (s : State) (j : Job) (q : Nat) (index : W32) (seqNo : Nat) : State :=
  if j.reruns && (s.ctx (s.queueCtx q)).state == .live then requeue s q seqNo
  else if j.kill = some .teardown ∨ j.reruns = true then pumpAll (s.modQueue q fun x => x.dropCmd seqNo)
  else
    let s := traceDone s q index.toNat j.killCode.toNat 2
    let s := s.modQueue q fun x => x.modCmd seqNo fun c => { c with coKilled := j.coKilled, wrote := [], counts := j.counts }
    completeCmd s q seqNo j.killCode false j.detail

/-- The kill of a job is complete on all its cores (R51, R309, R322, R338, R343). BARRIERs of a flight that it breaks complete
(R323). -/
def killFinal (s : State) (n : Nat) (j : Job) : State :=
  let s := flushUpdates s n
  let j := (s.job n).getD j
  let s := breakArrivals (rollback s j) j
  let s := preemptDone (preemptAccounts (pmGlobal (s.dropJob n) 8 1) j) n j.preempted
  match j.kind with
  | .station st => afterJob (setStatus s st .killed)
  | .free q index seqNo =>
    let ctx := s.queueCtx q
    let s := regCharge s q (j.killCharge (s.heldNs j))
    let s := addCounts s ctx (tput (if j.countsPreempt then tput j.counts 9 1 else j.counts) 8 1)
    let s := afterJob (gvUpdate (endKilledLaunch s j q index seqNo) j.part)
    if j.arrivals.isEmpty then s else pumpAll s

/-- The kill is complete on one core (R51). -/
def killCore (s : State) (c : Nat) : State :=
  match (s.core c).job with
  | none => s
  | some n => match s.job n with
    | none => s
    | some j =>
      if j.killing.contains c then
        let s := idleCores (traceJob s c j 0 2) [c]
        let j := { j with killing := j.killing.filter fun x => x != c }
        let s := s.setJob n j
        if j.killing.isEmpty then killFinal s n j else s
      else s

/-! ## Counter records (R465 to R472) -/

/-- OP of a command packet (R277). -/
def Body.op : Body → Nat
  | .nop => 0 | .launch _ _ _ _ _ _ _ _ _ _ => 1 | .copy _ _ _ _ _ => 2 | .fill _ _ _ _ => 3
  | .waitFence _ _ _ _ => 4 | .waitCounter _ _ _ => 4 | .signalFence _ _ _ _ _ => 5 | .signalCounter _ _ _ => 5
  | .barrier _ _ _ => 6 | .mapNew _ _ _ _ _ _ _ _ _ _ _ _ => 7 | .mapImport _ _ _ => 7 | .mapBind _ _ => 7
  | .objFree _ => 8 | .timestamp _ _ => 9 | .counterDump _ _ _ _ => 10 | .indirect _ _ _ => 11
  | .malformed op => op.toNat

/-- The 512 bytes of a counter set (R468). -/
def pmRecord (s : State) (p : PmSet) (isGlobal reset : Bool) (ctx : Nat) : List Byte :=
  leBytes 4 0x544E4350 ++ leBytes 2 1 ++ leBytes 1 (b2n isGlobal + 2 * b2n reset) ++ leBytes 1 0 ++
    leBytes 2 (if isGlobal then 0 else ctx) ++ leBytes 6 0 ++ leBytes 8 s.esc.time.toNat ++ leBytes 8 s.esc.beatCount.toNat ++
    leBytes 8 p.since.toNat ++ leBytes 8 p.ovf.toNat ++ leBytes 16 0 ++
    (List.range 56).flatMap fun n => leBytes 8 (tget 0 p.slots n)

/-- Sum of the counts of a range of slots. -/
def slotSum (counts : Tbl Nat) (first n : Nat) : Nat := ((List.range n).map fun i => tget 0 counts (first + i)).sum

/-- The 128 bytes of a per-command record (R471). A LAUNCH's HELD is its CORE_BUSY. -/
def commandRecord (c : Cmd) (queue : Nat) (seq lost : W32) : List Byte :=
  leBytes 4 c.index.toNat ++ leBytes 2 queue ++ leBytes 2 c.code.toNat ++ leBytes 4 seq.toNat ++ leBytes 4 lost.toNat ++
    leBytes 8 c.startTime.toNat ++ leBytes 8 c.endTime.toNat ++ leBytes 1 c.body.op ++
    leBytes 1 (setBits 16 c.cores).length ++ leBytes 2 c.reruns.toNat ++ leBytes 4 0 ++ leBytes 8 c.prog ++
    leBytes 8 (tget 0 c.counts 0) ++ leBytes 8 (tget 0 c.counts 1) ++ leBytes 8 (tget 0 c.counts 2) ++
    leBytes 8 (tget 0 c.counts 3) ++ leBytes 8 (tget 0 c.counts 4) ++ leBytes 8 (tget 0 c.counts 5) ++
    leBytes 8 (slotSum c.counts 24 26) ++ leBytes 8 (slotSum c.counts 50 6) ++ leBytes 8 (tget 0 c.counts 56) ++ leBytes 8 0

/-- Write the per-command record of a committed command, or drop it at an empty bucket (R470 to R472). -/
def recordCounts (s : State) (qn : Nat) (c : Cmd) : State :=
  let ctx := s.queueCtx qn
  match (s.ctx ctx).ring with
  | none => s
  | some r =>
    if 1000 ≤ s.obs.recTokens then
      let s := { s with obs := { s.obs with recTokens := s.obs.recTokens - 1000 } }
      let s := objWrite s (.record qn c.index) r.obj (r.offset + 128 * (r.seq.toNat % 2 ^ r.log2)) (commandRecord c qn r.seq r.lost)
      s.modCtx ctx fun x => { x with ring := some { r with seq := r.seq + 1#32, lost := 0#32 } }
    else
      pmBoth (s.modCtx ctx fun x => { x with ring := some { r with lost := satInc r.lost } }) (some ctx) 13 1

/-! ## Commit effects (R257, R259) -/

/-- Flip VERSION of the objects a command wrote (R257). -/
def flip (s : State) (roots : List Nat) : State :=
  roots.eraseDups.foldl (fun s i => s.modObj i fun o => { o with version := !o.version }) s

/-- DETAIL of a committed LAUNCH: current VERSION and flip of each HMASK position (R278). -/
def launchDetail (s : State) (hm : BitVec 8) (args : List W64) (wrote : List Nat) : W64 :=
  BitVec.ofNat 64 (((List.range 8).filter (bitAt hm.toNat)).foldl (fun a k =>
    let i := s.rootOf (handleIndex (argHandle args k))
    a + 2 ^ k * b2n (s.version i) + 2 ^ (8 + k) * b2n (wrote.contains i)) 0)

/-- DETAIL of a committed COPY or FILL. -/
def copyDetail (s : State) (dst : W32) (wrote : List Nat) : W64 :=
  let i := s.rootOf (handleIndex dst)
  BitVec.ofNat 64 (b2n (s.version i) + 256 * b2n (wrote.contains i))

/-- A fence record's 16 bytes (R262). -/
def fenceRecord (value : W64) (code : BitVec 16) (owner : Nat) : List Byte :=
  leBytes 8 value.toNat ++ leBytes 2 code.toNat ++ leBytes 2 owner ++ leBytes 4 0

/-- A SIGNAL writes its fence record: SET or ADD, with CODE (R264). ABANDONED is final; an ADD over a poisoned record fails
(R423). -/
def commitFence (s : State) (add : Bool) (target : W32) (off : Nat) (value : W64) (code : BitVec 16) : State × BitVec 16 :=
  let i := handleIndex target
  if add && s.poisoned (s.fenceAddr i off) 16 then (s, Config.MEM_POISON)
  else if s.fenceCode i off = Config.ABANDONED then (s, Config.HANDLE_RIGHTS)
  else
    let v := if add then s.fenceValue i off + value else value
    (objWrite s (.fence (s.rootOf i)) i off (fenceRecord v code (s.obj (s.rootOf i)).owner.toNat), Config.NONE)

/-- A SIGNAL reaches its counter (R300, R305, R306, R311). -/
def commitCounter (s : State) (add : Bool) (id : BitVec 17) (value : W32) : State × BitVec 16 :=
  match (s.counter id.toNat).state with
  | .free => (s, Config.HANDLE_RIGHTS)
  | .abandoned => (s, Config.HANDLE_RIGHTS)
  | _ =>
    if add then
      let r := ctrAdd s id value 2 0 0xFFFF#16
      (watchStale r.1 id, match r.2 with
        | .applied => Config.NONE
        | .faulted c => c
        | .dropped c => c)
    else (watchStale (ctrSet s id value) id, Config.NONE)

/-- The entry that an OBJECT_MAP makes (R126, R244, R262, R287): fence records are written before it is visible. -/
def commitMap (s : State) (h : W32) (o : Obj) (initial : W64) : State :=
  let i := handleIndex h
  let s := poolCopy (s.setObj i { o with gen := (s.obj i).gen }) i
  if o.kind = .fence ∧ o.parent = i then
    objWrite s (.fence i) i 0 ((List.range (o.size / 16)).flatMap fun _ => fenceRecord initial 0#16 o.owner.toNat)
  else s

/-- The object of an OBJECT_MAP NEW. -/
def newObj (ctx inst : Nat) (h : W32) (kind : ObjKind) (writable isSealed encrypted share basin : Bool) (shareInst : BitVec 6)
    (keySlot : BitVec 9) (base size : Nat) : Obj :=
  { Obj.reset with
    base := base, size := size, owner := BitVec.ofNat 11 ctx, state := .mapped, kind := kind, writable := writable,
    isSealed := isSealed, encrypted := encrypted, share := share, basin := basin, shareInst := shareInst,
    parent := handleIndex h, keySlot := keySlot, inst := inst }

/-- The object of an OBJECT_MAP IMPORT (R252). -/
def importObj (s : State) (ctx : Nat) (writable : Bool) (source : W32) : Obj :=
  let o := s.obj (handleIndex source)
  { Obj.reset with
    base := o.base, size := o.size, owner := BitVec.ofNat 11 ctx, state := .mapped, kind := o.kind, writable := writable,
    isSealed := o.isSealed, encrypted := o.encrypted, parent := o.parent, keySlot := o.keySlot,
    inst := (s.ctx ctx).inst }

/-- The effect of a command at its commit (R259): the state and the command as its record shows it. -/
def commitEffect (s : State) (qn : Nat) (c : Cmd) : State × Cmd :=
  let ctx := s.queueCtx qn
  if c.code ≠ 0#16 then (s, c)
  else match c.body with
    | .launch _ _ hm _ _ _ _ _ _ args =>
      let s := flip s c.wrote
      (s, { c with detail := launchDetail s hm args c.wrote })
    | .copy _ d _ _ _ =>
      let s := flip s c.wrote
      (s, { c with detail := copyDetail s d c.wrote })
    | .fill d _ _ _ =>
      let s := flip s c.wrote
      (s, { c with detail := copyDetail s d c.wrote })
    | .signalFence add t off v code =>
      let r := commitFence (if add then fencePoison s qn (handleIndex t) off else s) add t off v code
      (r.1, { c with code := r.2 })
    | .signalCounter add id v =>
      let r := commitCounter s add id v
      (r.1, { c with code := r.2 })
    | .mapNew kind w se en sh ba si ks h base size init =>
      (commitMap s h (newObj ctx (s.ctx ctx).inst h kind w se en sh ba si ks base size) init, c)
    | .mapImport w h src => (commitMap s h (importObj s ctx w src) 0#64, c)
    | .timestamp h off =>
      (objWrite s (.record qn c.index) (handleIndex h) off (leBytes 8 s.esc.time.toNat ++ leBytes 8 s.esc.beatCount.toNat), c)
    | .counterDump g r h off =>
      let p := if g then s.obs.pm else (s.ctx ctx).pm
      let s := objWrite s (.record qn c.index) (handleIndex h) off (pmRecord s p g r ctx)
      (if r then
        (if g then { s with obs := { s.obs with pm := s.obs.pm.clear s.esc.time } }
         else s.modCtx ctx fun x => { x with pm := x.pm.clear s.esc.time })
       else s, c)
    | _ => (s, c)

/-! ## Commit of a queue's oldest command -/

/-- The next command of a queue to commit: it has completed and every earlier one is recorded (R257). -/
def nextCommit : List Cmd → Option Cmd
  | [] => none
  | c :: r => match c.phase with
    | .recorded => nextCommit r
    | .completed => some c
    | _ => none

/-- A packet of an INDIRECT has committed: it leaves the list, and the first failing one gives the INDIRECT its CODE, SUB and
DETAIL (R278, R291). -/
def innerDone (s : State) (qn : Nat) (c : Cmd) (k : Nat) : State :=
  match (s.queue qn).outerOf c.seqNo with
  | none => s.modQueue qn fun q => q.dropCmd c.seqNo
  | some o =>
    let t := s.modQueue qn fun q => (if c.code = 0#16 then q else q.modCmd o.seqNo fun o => o.innerFailed k c.code c.detail).dropCmd c.seqNo
    if c.code ≠ 0#16 ∧ o.sub = 0#16 then pmBoth t (some (s.queueCtx qn)) 7 1 else t

/-- Commits happen at all for a queue: no stop, no halt, no throttle of the Keeper, and its instance still commits (R364, R425,
R430, R480). -/
def State.commits (s : State) (q : Queue) : Bool :=
  s.portAlive && !s.fr.stopped && !s.obs.halted && !s.boot.retEntering && !s.keeperHeld && (s.inst (s.ctx q.ctx).inst).gateOpen

/-- Commit the oldest completed command of a queue. -/
def commitQueue (s : State) (qn : Nat) : State :=
  let q := s.queue qn
  if !s.commits q then s
  else match nextCommit q.cmds with
    | none => s
    | some c0 =>
      let x := commitEffect s qn c0
      let c := { x.2 with endTime := if x.2.code = c0.code then x.2.endTime else s.esc.time }
      let ctx := s.queueCtx qn
      let s := pmBoth x.1 (some ctx) 6 1
      let s := if c.code = c0.code then s else pmBoth s (some ctx) 7 1
      let s := traceDone s qn c.index.toNat c.code.toNat 1
      match c.inner with
      | some k => pumpAll (innerDone s qn c k)
      | none =>
        let c := { c with phase := .recorded }
        let s := recordCounts (s.modQueue qn fun q => q.modCmd c.seqNo fun _ => c) qn c
        pumpAll (writeRecordTail s qn c)

/-- Commit a station: its OUTPUT slots flip (R257). -/
def commitStation (s : State) (st : Nat) : State :=
  match s.run with
  | none => s
  | some r =>
    if r.status st = .ended ∧ s.dispatches then
      let jobs := s.jobs.filter fun j => j.2.kind == .station st
      let s := jobs.foldl (fun s j => (flip s j.2.wrote).dropJob j.1) s
      afterJob (setStatus s st .committed)
    else s

/-! ## The INDEX word (R276, R279) -/

/-- A queue becomes FREE: its references go, and a REBIND that waits for it ends (R272, R328). -/
def freeQueue (s : State) (qn : Nat) : State :=
  let s := s.setQueue qn Queue.reset
  match s.rg.rebind with
  | some r =>
    if r.1.toNat = qn then { s with rg := { s.rg with rebind := none, resQueue := r.1, resCode := Config.HANDLE_RIGHTS } } else s
  | none => s

/-- The mailbox request in progress on a page completes (R355): response words, CODE and SEQ, BUSY and DONE, one event. -/
def mbDone (s : State) (p : Nat) (code : BitVec 16) (rsp : List W64) : State :=
  if (s.page p).busy then
    chSample (s.modPage p fun x => { x with
      busy := false, done := true, seq := x.curSeq, code := code,
      rsp := [(0, rsp.getD 0 0#64), (1, rsp.getD 1 0#64), (2, rsp.getD 2 0#64), (3, rsp.getD 3 0#64)] }) p
  else s

/-- A queue whose destruction was requested goes to FREE once nothing is past fetch (R272, R356). -/
def destroySettle (s : State) (qn : Nat) : State :=
  let q := s.queue qn
  match q.destroyBy with
  | none => s
  | some p =>
    if q.cmds.isEmpty && q.indirect.isNone && q.state != .free then
      mbDone (freeQueue s qn) p Config.NONE []
    else s

/-- The first command of a queue whose record waits for its INDEX. -/
def Queue.toIndex (q : Queue) : Option Cmd := q.cmds.find? fun c => c.phase == .recorded

/-- Records of an instance's commands are written: it is not past step 4 of a disable (R364). -/
def Inst.recordsOpen (i : Inst) : Bool := match i.state with
  | .disabled => false
  | .disabling => (match i.disabling with | some d => !d.stopped | none => true)
  | _ => true

/-- INDEX is written once the rest of the record is acknowledged, and NOTIFY raises its event (R276, R279, R461). -/
def indexWrite (s : State) (qn : Nat) : State :=
  let q := s.queue qn
  match q.toIndex with
  | none => s
  | some c =>
    if s.acked (fun o => o == .record qn c.index) && s.portAlive && !s.fr.stopped && !s.obs.halted && !s.keeperHeld &&
        (s.inst (s.ctx q.ctx).inst).recordsOpen then
      let s := objWrite s (.record qn c.index) q.complObj (q.recordOff c.index) (leBytes 4 c.index.toNat)
      let s := s.modQueue qn fun q => q.dropCmd c.seqNo
      let src := (tget 0#10 s.chime.qsrc qn).toNat
      let s := if c.notify && decide (128 ≤ src) then chPulse s src c.code (BitVec.ofNat 32 qn) else s
      pumpAll (destroySettle s qn)
    else s

/-! ## The commands -/

/-- JOB_END: nothing happens while the job on the core has not ended. -/
def execJobEnd (core : BitVec 4) (s : State) : Host.Outcome State Fault Refusal :=
  match (s.core core.toNat).job with
  | none => .next s
  | some n => match s.job n with
    | none => .next s
    | some j => .next (if s.jobOver n j && !s.obs.halted then endJob s n j else s)

/-- COMPLETION_INDEX_WRITE (R279). -/
def execCompletionIndexWrite (queue : BitVec 13) (s : State) : Host.Outcome State Fault Refusal :=
  .next (indexWrite s queue.toNat)

end Sys2Proof.Machine
end

