-- ==== Sys2Proof/Machine/Beat.lean ====
section
/-! DEFINITION. The beat edge and the first swap (R16 to R21, R88, R253, R306, R308, R348, R440 to R446), windows opening
and closing (R22, R53, R74, R118, R428), launches (R23, R335), bound overruns (R51) and held cores (R173). -/

namespace Sys2Proof.Machine

/-! ## The slow-down report (R348) -/

/-- SLOWDOWN of a report. -/
def slowdown (busy wait : W64) : BitVec 16 :=
  satNat 16 (256 * busy.toNat / max 1 (busy.toNat - wait.toNat))

/-- Latch the report of the ending beat of a partition and raise its alert. -/
def latchReport (s : State) (p : Nat) : State :=
  let x := s.rgPart p
  let slow := slowdown x.busy x.memWait
  let s := s.setRgPart p { x with
    repBusy := x.busy, repWait := x.memWait, repSlow := slow, repSkipped := x.skipped, repPassed := x.passedOver,
    repPreempted := x.preempted, busy := 0#64, memWait := 0#64, skipped := 0#16, passedOver := 0#16, preempted := 0#16 }
  if x.slowAlert ≠ 0#16 ∧ x.slowAlert.toNat < slow.toNat then chPulse s (120 + p) Config.NONE (slow.setWidth 32) else s

/-! ## Counters at the edge (R306, R308) -/

/-- A graph counter at a beat edge: FAULTED, or an ERROR-mode counter of a killed graph, returns to INITIAL and LIVE. -/
def Counter.atBeat (c : Counter) (killed : List Nat) : Counter :=
  if c.kind = .graph ∧ c.state ≠ .free ∧ (c.state = .faulted ∨ (c.error = true ∧ killed.contains c.owner.toNat = true)) then
    { c with state := .live, fault := 0#2, value := c.initial }
  else c

/-! ## The twin at the edge (R437, R444, R446) -/

/-- A YIELD or RECOVERY_LOST is accepted: this device becomes PRIMARY (R442, R444); for a fault FAILOVER_TAKEN is raised. -/
def acceptYield (s : State) (fault : Bool) (lastRel : BitVec 48) : State :=
  let p : Option Heartbeat := s.tw.partner.map fun c => { c with lastRel := lastRel }
  let s := twPrimary { s with tw := { s.tw with partner := p } }
  if fault then twCode s Config.FAILOVER_TAKEN else s

/-- A lengthened beat has brought the edges together: OFFSET then holds the primary's count minus the local one. -/
def twAlign (s : State) : State :=
  if s.tw.lengthen then
    { s with tw := { s.tw with
      lengthen := false, aligned := true,
      offset := (match s.tw.partner with | some c => c.beat + 1#48 - s.esc.beatCount | none => s.tw.offset) } }
  else s

/-- A held YIELD is applied at the first edge at which the pair is IN_STEP (R446). -/
def twHeldYield (s : State) : State :=
  match s.tw.heldYield with
  | none => s
  | some y =>
    if s.inStep then
      let s := { s with tw := { s.tw with heldYield := none } }
      if s.tw.partnerState = 3#3 then twCode s Config.RELEASE_DENIED else acceptYield s (y.1 == 2#8) y.2
    else s

/-- A HANDOVER takes effect at the edge (R444). -/
def twHandover (s : State) : State :=
  if s.tw.handoverReq then
    let s := { s with tw := { s.tw with handoverReq := false } }
    if s.tw.state = .primary then twSecondary s 1#8 else s
  else s

/-! ## The edge -/

/-- The trace mode that the edge brings in (R42, R478). -/
def traceEdge (s : State) : State :=
  let s := match s.au.traceReq with
    | .granted => { s with
        au := { s.au with traceReq := .none, inflateActive := true }, obs := { s.obs with activeMode := 2#2 } }
    | .turnOff => { s with
        au := { s.au with traceReq := .none, inflateActive := false },
        obs := { s.obs with activeMode := if s.obs.traceMode = 1#2 then 1#2 else 0#2 } }
    | _ => s
  { s with obs := { s.obs with activeCores := s.obs.traceCores } }

/-- Per-beat state starts over: windows, skips, pauses, late marks. -/
def newBeat (s : State) : State :=
  let killed : List Nat := match s.run with | some r => r.killedGraphs | none => []
  let counters : Tbl Counter := s.counters.map fun c => (c.1, c.2.atBeat killed)
  let ports : Tbl Port := s.ports.map fun p => (p.1, { p.2 with lateThisBeat := false })
  let s := { s with
    counters := counters, ports := ports,
    fr := { s.fr with overrunThisBeat := false },
    esc := { s.esc with pauseSeen := 0#8, swapBeat := false } }
  s.modRun fun r => { r with changedNow := [], beat := [], killedGraphs := [], passed := [] }

/-- Bindings of contexts torn down, and those of entries no longer MAPPED, are dropped at the edge (R249, R368 step 5). -/
def dropBinds (s : State) : State :=
  let gone (b : Binding) : Bool := (s.obj b.obj).state != .mapped || (s.ctx b.ctx).state != .live && (match (s.ctx b.ctx).teardown with
    | some t => decide (5 ≤ t.step)
    | none => true)
  let dropped : List Nat := match s.run with
    | some r => (r.bindings.filter fun (b : Nat × Binding) => gone b.2).map fun b => b.1
    | none => []
  let s := s.modRun fun r => { r with bindings := r.bindings.filter fun b => !dropped.contains b.1 }
  boundFlags { s with basin := s.basin.filter fun x => !dropped.contains x.1 }

/-- The Keeper's part of a beat edge: report, swap, trace, bindings, twin. A trace request that was held for an ARMED image is
decided last, by a proof of its own on the image that now runs (R43). -/
def beatEdge (s : State) : State :=
  let s := (List.range 8).foldl latchReport s
  let s := newBeat s
  let s := match s.au.state, s.au.cand, s.au.candPlace with
    | .armed, some g, some pl => swapTo s g pl s.esc.beatCount
    | _, _, _ => s
  let s := applyBinds (dropBinds (traceEdge s))
  traceSettle (twHandover (twHeldYield (twAlign s)))

/-- The Escapement counts the beat and latches the time (R17, R19). -/
def escBeat (s : State) : State :=
  let s := { s with esc := { s.esc with beatCount := s.esc.beatCount + 1#48, beatTime := s.esc.time } }
  traceKeeper s 0x10 (leBytes 6 s.esc.beatCount.toNat)

/-- The swap to the first image: beat 0 (R17, R42, R500). -/
def firstSwap (s : State) (g : Image) (pl : Placement) : State :=
  let s := { s with
    frozen := true, esc := { s.esc with running := true, beatCount := 0#48, beatTime := s.esc.time, pauseSeen := 0#8 } }
  let s := traceKeeper s 0x10 (leBytes 6 0)
  traceSettle (swapTo s g pl 0#48)

/-! ## Windows -/

/-- A window opens (R22, R74, R118). In a swap beat a blocked partition opens it and launches nothing. -/
def openWindow (s : State) (r : Running) (p w : Nat) : State :=
  let s := s.modRun fun r => { r with openWin := tput r.openWin p w, passed := r.passed.filter fun x => x.1 != p }
  let s := resetLanes s r p w
  if s.swapBlocked p then s else (s.windowSkips r p w).foldl (skipStation p) s

/-- A job or a kill still on a core at its window's end is a window overrun (R428): it is recorded, and a job that is not yet
being killed is killed and reported. -/
def overrunJob (s : State) (n : Nat) : State :=
  match s.job n with
  | none => s
  | some j =>
    if j.cores.isEmpty then s
    else
      let s := errRecord (pmGlobal s 19 1) 2 (some 9) j.cores.head? (some j.part) Config.BOUND_OVERRUN 0
      if j.kill.isSome then s else killJob (reportKill s j Config.BOUND_OVERRUN false) n .fault Config.BOUND_OVERRUN 0#64

/-- The window is the partition's last GRAPH window (R440). -/
def Image.lastGraph (g : Image) (p w : Nat) : Bool :=
  match (g.windows.filter fun x => x.part == p && x.cls == .graph).getLast? with
  | some x => x.index == w
  | none => false

/-- No station of a partition was killed in the beat (R440). -/
def Running.unkilled (r : Running) (s : State) (p : Nat) : Bool :=
  (r.img.stationsOf p).all fun t => r.status t.index != .killed && !r.killedGraphs.contains t.graph &&
    !(s.jobs.any fun j => j.2.kind == .station t.index && j.2.kill.isSome)

/-- The lanes of a core at the end of their window: tiles held or on their way and credits on their way are discarded
(R118). -/
def Core.closeLanes (k : Core) : Core :=
  { k with
    sendLanes := k.sendLanes.map fun l => (l.1, { l.2 with returning := 0 }),
    recvLanes := k.recvLanes.map fun l => (l.1, { l.2 with held := 0, inFlight := [] }) }

/-- A window closes (R53, R118, R428, R440). -/
def closeWindow (s : State) (p w : Nat) : State :=
  let s := ((s.jobs.filter fun j => j.2.part == p).map fun j => j.1).foldl overrunJob s
  let s := (s.partCores p).foldl (fun s c => s.modCore c Core.closeLanes) s
  let s := s.modRun fun r => { r with openWin := tdel r.openWin p, passed := r.passed.filter fun x => x.1 != p }
  match s.run with
  | none => s
  | some r => if r.img.lastGraph p w && s.isMirrored p && r.unkilled s p then twComplete s p else s

/-- Every window that is still open at a beat edge ends there (R53). -/
def closeWindows (s : State) : State := match s.run with
  | none => s
  | some r => r.openWin.foldl (fun s x => closeWindow s x.1 x.2) s

/-- A beat edge (R17). A halted or stopped block only counts (R430, R480). -/
def beatNow (s : State) : State :=
  if s.obs.halted || s.fr.stopped then escBeat s else beatEdge (escBeat (closeWindows s))

/-! ## The commands -/

/-- FIRST_IMAGE_SWAP (R17): an ARMED image while none runs. -/
def execFirstImageSwap (s : State) : Host.Outcome State Fault Refusal :=
  match s.run, s.au.state, s.au.cand, s.au.candPlace with
  | none, .armed, some g, some pl => .next (if s.obs.halted || s.fr.stopped then s else firstSwap s g pl)
  | _, _, _, _ => .next s

/-- BEAT (R17): while the Escapement is stopped there is no edge. -/
def execBeat (s : State) : Host.Outcome State Fault Refusal :=
  .next (if s.esc.running && s.portAlive then beatNow s else s)

/-- WINDOW_START (R22, R118): a declared window of a partition with no open window. -/
def execWindowStart (part : BitVec 3) (win : BitVec 3) (s : State) : Host.Outcome State Fault Refusal :=
  match s.run with
  | none => .next s
  | some r =>
    .next (if s.dispatches && (r.img.window part.toNat win.toNat).isSome && (tfind r.openWin part.toNat).isNone then
      openWindow s r part.toNat win.toNat else s)

/-- WINDOW_END (R53, R428). -/
def execWindowEnd (part : BitVec 3) (win : BitVec 3) (s : State) : Host.Outcome State Fault Refusal :=
  match s.run with
  | none => .next s
  | some r =>
    .next (if tfind r.openWin part.toNat == some win.toNat && !s.obs.halted && s.portAlive then
      closeWindow s part.toNat win.toNat else s)

/-- STATION_LAUNCH (R23, R135): a station that may not launch now does not. -/
def execStationLaunch (st : BitVec 12) (s : State) : Host.Outcome State Fault Refusal :=
  match s.run with
  | none => .next s
  | some r => match r.img.station st.toNat with
    | none => .next s
    | some t => match s.stationGen r.img t with
      | none => .next s
      | some e => .next (if s.mayLaunch r t && (s.gen e).ready then launchStation s r t e else s)

/-- FREE_LAUNCH (R335) at arithmetic cycle t of the partition's open window. -/
def execFreeLaunch (part : BitVec 3) (t : W32) (s : State) : Host.Outcome State Fault Refusal :=
  match s.run with
  | none => .next s
  | some r => match tfind r.openWin part.toNat with
    | none => .next s
    | some w => match r.img.window part.toNat w with
      | none => .next s
      | some x => .next (if s.dispatches then offerAll s part.toNat x t.toNat else s)

/-- Kill limit of the job on a core. -/
def State.coreLimit (s : State) (c : Nat) : Nat := match (s.core c).job with
  | some n => (match s.job n with | some j => j.killLimit | none => 0)
  | none => 0

/-- BOUND_OVERRUN (R51): the bound counter of the job on a core reaches its kill limit. It does not while a declared pause
stands (R41). The report names the last fetched instruction. -/
def execBoundOverrun (core : BitVec 4) (s : State) : Host.Outcome State Fault Refusal :=
  let c := core.toNat
  let k := s.core c
  if k.st = .running ∧ s.obs.halted = false ∧ s.pauseAllowed = false then
    let lim := s.coreLimit c
    let s := s.setCore c { k with boundUsed := BitVec.ofNat 32 lim }
    .next (haltAt s c Config.BOUND_OVERRUN k.lastFetch (BitVec.ofNat 64 lim))
  else .next s

/-- A held core is let go: its job is killed with the code it halted with (R173). -/
def releaseHeld (s : State) (c : Nat) : State :=
  let k := s.core c
  if k.st = .held then
    match k.job with
    | some n => (match s.job n with
      | some j => killJob s n (haltWhy j.killCode) j.killCode j.detail
      | none => s)
    | none => s
  else s

/-- HOLD_TIMEOUT (R173): G_TRAIL before its window ends, a held core is released. -/
def execHoldTimeout (core : BitVec 4) (s : State) : Host.Outcome State Fault Refusal := .next (releaseHeld s core.toNat)

end Sys2Proof.Machine
end

