-- ==== Sys2Proof/Machine/Operands.lean ====
section
/-! DEFINITION. The 128-bit instruction (R139, R140), scratch operands (R141, R142), the WAIT and SIGNAL fields (R147,
R148), and the issue of one instruction with its checks in the order of R172 (R144, R151, R155, R168, R482). -/

namespace Sys2Proof.Machine

/-! ## The instruction word -/

/-- Fields of an instruction (R140). -/
structure Ins where
  op : Nat
  pad : Nat
  fmt : Nat
  mod : Nat
  d : Nat
  a : Nat
  b : Nat
  c : Nat
  x : Nat
  imm : W32
  wait : Nat
  signal : Nat
  deriving DecidableEq, Repr

/-- Take the fields of a 128-bit instruction apart (R140). -/
def decodeIns (w : Nat) : Ins :=
  { op := bitField w 127 120, pad := bitField w 119 116, fmt := bitField w 115 112, mod := bitField w 111 96,
    d := bitField w 95 91, a := bitField w 90 86, b := bitField w 85 81, c := bitField w 80 76, x := bitField w 75 64,
    imm := BitVec.ofNat 32 (bitField w 63 32), wait := bitField w 31 16, signal := bitField w 15 0 }

/-- Defined WAIT fields with their unused bits zero (R147). -/
def waitOk (v : Nat) : Bool := match v / 8192 with
  | 0 => v == 0
  | 1 => v % 128 == 0
  | 2 => v % 128 == 0
  | 3 => v % 8 == 0
  | 4 => v % 8 == 0
  | _ => false

/-- Defined SIGNAL fields with their unused bits zero (R148). -/
def signalOk (v : Nat) : Bool := match v / 8192 with
  | 0 => v == 0
  | 1 => v % 128 == 0
  | 2 => v % 128 == 0
  | 3 => v % 256 != 0
  | 4 => v % 8 == 0
  | _ => false

/-- Fields that an opcode leaves unused are zero (R140): `d a b c x imm` say which it uses, `mods` its MOD bits. -/
def Ins.fieldsOk (i : Ins) (d a b c x imm : Bool) (mods : Nat) : Bool :=
  i.pad == 0 && (d || i.d == 0) && (a || i.a == 0) && (b || i.b == 0) && (c || i.c == 0) && (x || i.x == 0) &&
    (imm || i.imm == 0#32) && i.mod &&& mods == i.mod && waitOk i.wait && signalOk i.signal

/-- IMM sign-extended to 64 bits (R143). -/
def Ins.imm64 (i : Ins) : W64 := i.imm.signExtend 64

/-- Static legality of a control instruction (R137, R143): every opcode but those listed is undefined. -/
def controlLegal (i : Ins) : Bool :=
  i.fmt == 0 && (match i.op with
    | 0x00 => i.fieldsOk false false false false false false 0
    | 0x01 => i.fieldsOk false false false false false false 0
    | 0x02 => i.fieldsOk false false false false false false 0
    | 0x11 => i.fieldsOk true true false false false true 0
    | 0x14 => i.fieldsOk true true false false false true 3
    | 0x15 => i.fieldsOk false true true false false true 3
    | 0x18 => i.fieldsOk false false false false false true 0
    | 0x1E => i.fieldsOk true false false false false true 0
    | 0x1F => i.fieldsOk false true false false false false 0
    | 0x20 => i.fieldsOk true false false false true false 0 && decide (i.x ≤ 13)
    | 0x21 => i.fieldsOk false true false false false false 0
    | op =>
      if 0x04 ≤ op ∧ op ≤ 0x10 then i.fieldsOk true true (i.mod == 0) false false (i.mod == 1) 1
      else if 0x19 ≤ op ∧ op ≤ 0x1D then i.fieldsOk false true true false false true 0
      else false)

/-- Static legality of a stream instruction (R146): working-area form where the table asks for it. -/
def streamLegal (i : Ins) : Bool :=
  i.fmt == 0 && (match i.op with
    | 0xC0 => i.fieldsOk false true true true false true 0x7F && !i.imm.msb
    | 0xC1 => i.fieldsOk false true true true false true 0x7F && !i.imm.msb
    | 0xC2 => i.fieldsOk false true false false false true 0x3F
    | 0xC3 => i.fieldsOk false true true true false true 0x7F && !i.imm.msb
    | 0xC4 => i.fieldsOk false false false false true false 0 && decide (i.x < 64)
    | 0xC5 => i.fieldsOk false false false false false false 0x3F
    | _ => false)

/-- Opcodes that R143, R146, R192 and R216 define. -/
def definedOp (op : Nat) : Bool :=
  decide (op ≤ 0x02) || (decide (0x04 ≤ op) && decide (op ≤ 0x11)) || op == 0x14 || op == 0x15 ||
    (decide (0x18 ≤ op) && decide (op ≤ 0x21)) || (decide (0x40 ≤ op) && decide (op ≤ 0x43)) ||
    (decide (0x80 ≤ op) && decide (op ≤ 0x8E)) || (decide (0x90 ≤ op) && decide (op ≤ 0x94)) ||
    (decide (0x98 ≤ op) && decide (op ≤ 0x9A)) || op == 0xA0 || op == 0xA8 || op == 0xA9 ||
    (decide (0xC0 ≤ op) && decide (op ≤ 0xC5))

/-! ## Lanes of a job -/

/-- Receive lanes and send lanes of a job's slot (R97): a free job has none. -/
def State.recvCount (s : State) (j : Job) : Nat := match j.kind, s.run with
  | .station st, some r => r.img.recvLanes st
  | _, _ => 0
def State.sendCount (s : State) (j : Job) : Nat := match j.kind, s.run with
  | .station st, some r => r.img.sendLanes st
  | _, _ => 0

/-- A lane that does not exist. -/
def RecvLane.none' : RecvLane :=
  { held := 0, slots := 0, hops := 0, tileBytes := 0, srcCore := 0, srcLane := 0, srcStation := 0, ptr := 0, buf := 0,
    inFlight := [] }
def SendLane.none' : SendLane :=
  { credits := 0, slots := 0, hops := 0, tileBytes := 0, dstCore := 0, dstLane := 0, dstStation := 0, returning := 0, ptr := 0 }

/-- Key of a lane of the job's station. -/
def Job.lane (j : Job) (l : Nat) : Nat := match j.kind with
  | .station st => laneKey st l
  | .free _ _ _ => laneKey 65535 l

/-- Receive lane and send lane l of the job on a core. -/
def State.recvLane (s : State) (c : Nat) (j : Job) (l : Nat) : RecvLane := tget RecvLane.none' (s.core c).recvLanes (j.lane l)
def State.sendLane (s : State) (c : Nat) (j : Job) (l : Nat) : SendLane := tget SendLane.none' (s.core c).sendLanes (j.lane l)

/-! ## Scratch operands (R141, R142) -/

/-- What is wrong with a scratch operand. -/
inductive OpndErr where
  /-- a lane at or beyond RECV_LANES -/
  | illegal
  /-- SCRATCH_RANGE with its CORE_HALT_DATA -/
  | range (data : W64)
  deriving DecidableEq, Repr

/-- First byte of a range at or beyond a limit (R141). -/
def firstBeyond (off len limit : Nat) : Option Nat := if off + len ≤ limit then none else some (max off limit)

/-- Resolve a scratch operand that covers `len` bytes (R141, R171). -/
def State.scratchOpnd (s : State) (c : Nat) (j : Job) (v : W32) (len : Nat) : Except OpndErr SOp :=
  if v.msb then
    let l := bitField v.toNat 30 25
    let off := bitField v.toNat 24 0
    if s.recvCount j ≤ l then .error .illegal
    else match firstBeyond off len (s.recvLane c j l).tileBytes with
      | some x => .error (.range (BitVec.ofNat 64 (l * 2 ^ 58 + x)))
      | none => .ok (.lane l (s.recvLane c j l).ptr off)
  else match firstBeyond v.toNat len j.workLen with
    | some x => .error (.range (BitVec.ofNat 64 x))
    | none => .ok (.work v.toNat)

/-- Lane that an operand reads from. -/
def SOp.laneOf : SOp → Option Nat
  | .work _ => none
  | .lane l _ _ => some l

/-- Further into an operand. -/
def SOp.plus : SOp → Nat → SOp
  | .work off, d => .work (off + d)
  | .lane l slot off, d => .lane l slot (off + d)

/-- Scratch offset of a slot of a lane's ring (R103, R117). -/
def RecvLane.slotAt (r : RecvLane) (slot : Nat) : Nat := r.buf + slot * r.tileBytes

/-- Scratch offset of an operand: in the share's working area, or in a slot of a lane's ring (R103). -/
def State.opndAddr (s : State) (c : Nat) (j : Job) (o : SOp) : Nat := match o with
  | .work off => s.shareBase j c + off
  | .lane l slot off => (s.recvLane c j l).slotAt slot + off

/-- Bytes of an operand. -/
def State.opndRead (s : State) (c : Nat) (j : Job) (o : SOp) (len : Nat) : List Byte :=
  (s.core c).scratchBytes (s.opndAddr c j o) len

/-- Write the bytes of an operand. -/
def opndWrite (s : State) (c : Nat) (j : Job) (o : SOp) (bs : List Byte) : State :=
  s.modCore c fun k => k.putScratch (s.opndAddr c j o) bs

/-- Scratch byte offset of the first marked line that a range of a core touches (R420). -/
def Core.badByte (k : Core) (off len : Nat) : Option Nat :=
  ((linesOf off len).find? fun l => k.badLines.contains l).map fun l => max off (128 * l)

/-- The same for an operand. -/
def State.opndBad (s : State) (c : Nat) (j : Job) (o : SOp) (len : Nat) : Option Nat := (s.core c).badByte (s.opndAddr c j o) len

/-- What the protection of scratch finds as an operand is read (R419 unit 0, R420): a corrected error is counted, an
uncorrectable one marks the line of the operand's first byte. -/
def scratchErr (s : State) (c : Nat) (j : Job) (o : SOp) (err : SramErr) : State := match err with
  | .none => s
  | .corrected => frCorrected s 0
  | .uncorrectable => s.modCore c fun k => { k with badLines := insertNat (s.opndAddr c j o / 128) k.badLines }

/-! ## The front of a core -/

/-- The job that a core works for: it runs, no kill of it has begun and nothing stops the block. -/
def State.engaged (s : State) (c : Nat) : Option (Nat × Job) :=
  if (s.core c).st == .running && !s.obs.halted && s.portAlive then
    match (s.core c).job with
    | none => none
    | some n => (match s.job n with
      | some j => if j.kill.isNone then some (n, j) else none
      | none => none)
  else none

/-- The job a core issues for: END has not issued. -/
def State.issuing (s : State) (c : Nat) : Option (Nat × Job) := if (s.core c).ended then none else s.engaged c

/-- The page of a generation offset has been written (R168). -/
def Gen.isWritten (g : Gen) (off : Nat) : Bool := g.written.contains ((g.base + off) / 4096 - g.base / 4096)

/-- A line moves to the front of its set: it is the most recently used, and a fetch has touched it (R158, R159). -/
def Core.touchLine (k : Core) (entry line : Nat) : Core :=
  let set := tget [] k.icache (icacheSet entry line)
  let hit (l : ICacheLine) : Bool := l.entry == entry && l.line == line
  let set := ((set.filter hit).map fun l => { l with touched := true }) ++ set.filter fun l => !hit l
  { k with icache := tput k.icache (icacheSet entry line) set }

/-- The next sequential line is read ahead when a fetch first touches a line (R159): it lies in the program, and the cache
does not hold it. -/
def Core.readAhead (k : Core) (entry len line : Nat) : Core :=
  if (match k.cachedLine entry line with | some l => l.touched | none => true) || decide (len ≤ 128 * (line + 1)) ||
      (k.cachedLine entry (line + 1)).isSome || k.prefetch.contains (line + 1) then k
  else { k with prefetch := k.prefetch ++ [line + 1] }

/-- The instruction at the PC is fetched: a later write to its page does not touch it (R157, R168). -/
def Core.fetch (k : Core) (entry len : Nat) : Core := match k.fetched, k.cached entry (k.pc / 128) with
  | none, some bs => { (k.readAhead entry len (k.pc / 128)).touchLine entry (k.pc / 128) with
      fetched := some ((bs.drop (k.pc % 128)).take 16), lastFetch := k.pc }
  | _, _ => k

/-- The instruction at the PC of a core is fetched. -/
def State.fetchAt (s : State) (c : Nat) (j : Job) : State := s.modCore c fun k => k.fetch j.gen (s.gen j.gen).len

/-- A breakpoint is armed on an instruction (R482). -/
def State.breakAt (s : State) (entry off : Nat) : Bool :=
  s.obs.bps.any fun b => b.2.msb && bitField b.2.toNat 60 48 == entry && bitField b.2.toNat 31 0 == off

/-- What a core finds at its PC. -/
inductive Front where
  /-- it issues nothing -/
  | idle
  /-- the line is not in the instruction cache -/
  | miss
  /-- the fetch halts with a code -/
  | halt (code : BitVec 16)
  | ins (i : Ins)
  deriving DecidableEq, Repr

/-- Fetch (R144, R158, R168, R172): an instruction that has been fetched stays. -/
def State.front (s : State) (c : Nat) (j : Job) : Front :=
  let k := s.core c
  let g := s.gen j.gen
  match k.fetched with
  | some bs => .ins (decodeIns (leNat bs))
  | none =>
    if g.isWritten k.pc then .halt Config.PROGRAM_REPLACED
    else if g.len < k.pc + 16 then .halt Config.ILLEGAL_OPCODE
    else match k.cached j.gen (k.pc / 128) with
      | none => .miss
      | some bs => .ins (decodeIns (leAt bs (k.pc % 128) 16))

/-! ## WAIT and SIGNAL at issue -/

/-- What a WAIT field says now. -/
inductive WaitNow where
  | go
  | blocked
  /-- the job may not use the counter -/
  | breach (id : BitVec 17)
  /-- the counter or its flight ends the job (R305, R311, R323) -/
  | dead (code : BitVec 16)
  deriving DecidableEq, Repr

/-- Counter ID and threshold of a WAIT field (R147). -/
def Core.waitId (k : Core) (v : Nat) : BitVec 17 := (k.reg (bitField v 12 8)).setWidth 17
def Core.waitThr (k : Core) (v : Nat) : W32 := (k.reg (bitField v 7 3)).setWidth 32

/-- The value a waiting core compares: the one its watch holds for a counter on another core (R153). -/
def State.seenValue (s : State) (c : Nat) (id : BitVec 17) : W32 :=
  match (s.core c).watch with
  | some w => if w.id = id ∧ ctrHome id ≠ c then w.value else (s.counter id.toNat).value
  | none => (s.counter id.toNat).value

/-- Evaluate a CTR or CTR_TAKE wait. A take needs the value at the home core too, and does not overtake an update of its own
core to the counter that is still on its way (R302; log entry 88). -/
def State.waitCtr (s : State) (c : Nat) (j : Job) (take : Bool) (id : BitVec 17) (thr : W32) : WaitNow :=
  let x := s.counter id.toNat
  if !s.coreMayUse j (if take then .take else .wait) id then .breach id
  else match x.state with
    | .faulted => .dead (ctrFaultCode x.fault)
    | .abandoned => .dead Config.ABANDONED
    | .free => .breach id
    | .live =>
      if x.kind = .flightRelease ∧ (s.ctrFlight id).state = .broken then .dead (s.ctrFlight id).code
      else if ctrReached x.error (s.seenValue c id) thr && (!take || (ctrReached x.error x.value thr && !s.sentBy c id)) then .go
      else .blocked

/-- Evaluate a WAIT field (R147). -/
def State.waitNow (s : State) (c : Nat) (j : Job) (v : Nat) : WaitNow :=
  let k := s.core c
  match v / 8192 with
  | 1 => if bitAt k.flags.toNat (bitField v 12 7) then .go else .blocked
  | 2 => if bitAt k.flags.toNat (bitField v 12 7) then .go else .blocked
  | 3 => s.waitCtr c j false (k.waitId v) (k.waitThr v)
  | 4 => s.waitCtr c j true (k.waitId v) (k.waitThr v)
  | _ => .go

/-- A take is applied in the issue cycle (R147, R153, R309, R310). -/
def takeCounter (s : State) (c n : Nat) (j : Job) (id : BitVec 17) (thr : W32) : State :=
  let free : Bool := match j.kind with | .free _ _ _ => true | .station _ => false
  if free && j.tableFull id then haltAt s c Config.COUNTER_OWNER (s.core c).pc (id.setWidth 64)
  else
    let s := s.modCounter id.toNat fun x => { x with value := x.value - thr }
    watchStale (if free then s.setJob n (j.contribute id (-thr)) else s) id

/-- What a WAIT field changes when its instruction issues (R147, R150). -/
def waitIssue (s : State) (c n : Nat) (j : Job) (v : Nat) : State :=
  let k := s.core c
  match v / 8192 with
  | 2 => s.setCore c { k with flags := k.flags &&& ~~~ BitVec.ofNat 64 (2 ^ bitField v 12 7) }
  | 4 => takeCounter s c n j (k.waitId v) (k.waitThr v)
  | _ => s

/-- A waiting core watches a counter of another core (R153). -/
def setWatch (s : State) (c : Nat) (v : Nat) : State :=
  let k := s.core c
  let id := k.waitId v
  if (v / 8192 = 3 ∨ v / 8192 = 4) ∧ ctrHome id ≠ c then
    match k.watch with
    | some w => if w.id = id then s else s.setCore c { k with watch := some { id := id, value := (s.counter id.toNat).value, pushes := [] } }
    | none => s.setCore c { k with watch := some { id := id, value := (s.counter id.toNat).value, pushes := [] } }
  else s

/-- The signal of an instruction, its registers read at issue (R148, R156). -/
def Core.sigOf (k : Core) (v : Nat) : Sig := match v / 8192 with
  | 1 => .fset (bitField v 12 7)
  | 2 => .fclr (bitField v 12 7)
  | 3 => .cadd ((k.reg (bitField v 12 8)).setWidth 17) ((BitVec.ofNat 8 (v % 256)).signExtend 32)
  | 4 => .cadd ((k.reg (bitField v 12 8)).setWidth 17) ((k.reg (bitField v 7 3)).setWidth 32)
  | _ => .none

/-- A signal is sent: the ownership check of R148 first. `pc` is the instruction that carries it. -/
def sendSignal (s : State) (c pc : Nat) (stream : Bool) (sig : Sig) : State :=
  match (s.core c).job with
  | none => s
  | some n => match s.job n with
    | none => s
    | some j =>
      if j.kill.isSome then s
      else match sig with
        | .cadd id _ =>
          if s.coreMayUse j .add id then fireSignal s c (some n) pc stream sig
          else haltAt s c Config.COUNTER_OWNER pc (id.setWidth 64)
        | _ => fireSignal s c (some n) pc stream sig

/-! ## Issue (R151, R155, R172, R477) -/

/-- STALL frame of the stall that ends (R477): none for a sealed job. -/
def stallFrame (s : State) (c : Nat) (j : Job) : State :=
  let k := s.core c
  if j.isSealed then s
  else traceCore s c 0x21 (leBytes 4 k.pc ++ leBytes 1 k.stall.toNat ++ leBytes 4 ((s.esc.time - k.stallTime).toNat / 2))

/-- A stall in progress ends. -/
def endStall (s : State) (c : Nat) (j : Job) : State :=
  if (s.core c).stall = 0#3 then s else (stallFrame s c j).modCore c fun k => { k with stall := 0#3 }

/-- The instruction stays at issue (R151). -/
def stall (s : State) (c : Nat) (j : Job) (kind : BitVec 3) : State :=
  if (s.core c).stall = kind then s
  else (endStall s c j).modCore c fun k => { k with stall := kind, stallTime := s.esc.time }

/-- The checks of one instruction beyond its encoding, as its row finds them (R172). -/
structure Plan where
  /-- field values and operands that the job makes illegal -/
  legal : Bool
  /-- SCRATCH_RANGE -/
  range : Option W64
  /-- other cores that halt with it, each at its own instruction (R125) -/
  others : List (Nat × Nat)
  /-- lanes whose oldest tiles operands name -/
  lanes : List Nat
  /-- FORMAT_MISMATCH -/
  format : Option W64
  /-- ACCESS_DENIED of a sealing rule -/
  secret : Option W64
  /-- COUNTER_UNDERFLOW -/
  under : Option W64
  /-- HALT -/
  brk : Bool
  /-- the engine can accept the instruction -/
  room : Bool
  deriving DecidableEq, Repr

/-- An instruction without checks of its own. -/
def Plan.plain : Plan :=
  { legal := true, range := none, others := [], lanes := [], format := none, secret := none, under := none, brk := false, room := true }

/-- A plan with the verdict on a scratch operand. -/
def Plan.withOpnd (p : Plan) : Except OpndErr SOp → Plan
  | .ok o => { p with lanes := o.laneOf.toList }
  | .error .illegal => { p with legal := false }
  | .error (.range d) => { p with range := some d }

/-- The code and data an instruction halts with at issue, in the order of R172 after FORMAT_MISMATCH. -/
def Plan.late (p : Plan) : Option (BitVec 16 × W64) :=
  match p.secret, p.under with
  | some d, _ => some (Config.ACCESS_DENIED, d)
  | none, some d => some (Config.COUNTER_UNDERFLOW, d)
  | none, none => if p.brk then some (Config.BREAKPOINT, 0#64) else none

/-- The code and data with which a breakpoint on an instruction halts: every other code of R172 comes before BREAKPOINT. -/
def Plan.atBreak (p : Plan) : BitVec 16 × W64 := p.late.getD (Config.BREAKPOINT, 0#64)

/-- Scalar registers that an instruction reads: its A, B and C fields, the shape register of a vector instruction and its
destination offset register, and those of its WAIT and SIGNAL fields (R140, R147, R148, R214). A vector source that is a
chain register or that is not used names none. -/
def Ins.reads (i : Ins) : List Nat :=
  let vec : Bool := decide (0x80 ≤ i.op) && decide (i.op ≤ 0xBF)
  let src (n r : Nat) : List Nat := if vec && (bitField i.mod (3 * n + 2) (3 * n) == 0 || bitField i.mod (3 * n + 2) (3 * n) == 5) then []
    else [r]
  src 0 i.a ++ src 1 i.b ++ src 2 i.c ++ (if vec then i.d :: (if bitAt i.mod 9 then [] else [i.x % 32]) else []) ++
    (match i.wait / 8192 with
     | 3 => [bitField i.wait 12 8, bitField i.wait 7 3]
     | 4 => [bitField i.wait 12 8, bitField i.wait 7 3]
     | _ => []) ++
    (match i.signal / 8192 with
     | 3 => [bitField i.signal 12 8]
     | 4 => [bitField i.signal 12 8, bitField i.signal 7 3]
     | _ => [])

/-- Cycles from issue until the result of an instruction can be read (R143): 4 for LD, 3 for MUL, 2 for MFS, else 1. -/
def Ins.latency (i : Ins) : Nat := if i.op = 0x14 then 4 else if i.op = 0x06 then 3 else if i.op = 0x20 then 2 else 1

/-- The arithmetic cycle (R16). -/
def State.arithCycle (s : State) : Nat := s.esc.time.toNat / 2

/-- A register that an instruction reads has no result yet (R155; log entry 93). -/
def State.scoreboard (s : State) (c : Nat) (i : Ins) : Bool :=
  i.reads.any fun r => decide (s.arithCycle < tget 0 (s.core c).notReady r)

/-- The registers without a result after an instruction has issued (R143, R155). -/
def State.pendAfter (s : State) (c : Nat) (i : Ins) : Tbl Nat :=
  let t := (s.core c).notReady.filter fun x => decide (s.arithCycle < x.2)
  if i.latency = 1 ∨ i.d = 0 then t else tput t i.d (s.arithCycle + i.latency)

/-- A slot of a job waits at issue on the FLIGHT_RELEASE of a flight that crosses devices (R325). -/
def State.slotRemote (s : State) (c : Nat) (j : Job) : Bool :=
  (s.core c).stall == 1#3 && (match s.front c j with
    | .ins i => i.wait / 8192 == 3 &&
        (let id := (s.core c).waitId i.wait
         let f := s.ctrFlight id
         (s.counter id.toNat).kind == .flightRelease && (f.parent != 0#3 || f.children != 0#5))
    | _ => false)

/-- A job is in a remote wait (R325). -/
def State.remoteWait (s : State) (j : Job) : Bool := j.cores.any fun c => s.slotRemote c j

/-- The deferred preemption of a job whose remote wait has resolved takes place at once (R346). -/
def resolveDeferred (s : State) (n : Nat) : State :=
  match s.job n with
  | none => s
  | some j => if j.deferred && j.kill.isNone && !s.remoteWait j then killJob s n .preempt Config.NONE 0#64 else s

/-- A job whose instruction at issue waits on a counter or flight that has ended is killed with its code, a JOB-class error
(R305, R311, R323, R418). -/
def killDead (s : State) (c n : Nat) (code : BitVec 16) : State :=
  killJob (errRecord s 1 none (some c) (s.corePart c) code 0) n .fault code 0#64

/-- One instruction issues: its wait takes effect, the PC moves on, and its row's effect follows. -/
def issueNow (s : State) (c n : Nat) (j : Job) (i : Ins) (act : State → Nat → Job → Ins → Sig → State) : State :=
  let sig := (s.core c).sigOf i.signal
  let s := waitIssue (endStall s c j) c n j i.wait
  match s.issuing c with
  | none => s
  | some (_, j) =>
    let pend := s.pendAfter c i
    resolveDeferred (act (s.modCore c fun k => { k with
      pc := k.pc + 16, fetched := none, notReady := pend, watch := none, flowInsns := k.flowInsns + 1 }) n j i sig) n

/-- An instruction whose WAIT is satisfied: lanes, queues and a full trace FIFO may hold it back; then come the codes that
belong to its execution, and it issues (R155, R172). -/
def issueReady (s : State) (c n : Nat) (j : Job) (i : Ins) (p : Plan) (act : State → Nat → Job → Ins → Sig → State) : State :=
  if p.lanes.any fun l => (s.recvLane c j l).held == 0 then stall s c j 2#3
  else if !p.room then stall s c j 3#3
  else if s.coreTraced c && decide (256 ≤ (tget [] s.obs.coreFifo c).length) then s
  else match p.late with
    | some x => haltAt s c x.1 (s.core c).pc x.2
    | none => issueNow s c n j i act

/-- The fetched instruction at a core's PC comes to issue (R155, R172). A word that decodes to nothing halts; then the scalar
registers it reads must have their results; then the codes follow in order, WAIT, lanes and queues holding it back before
those that belong to its execution. -/
def issueTry (s : State) (c n : Nat) (j : Job) (i : Ins) (legal : Bool) (p : Plan)
    (act : State → Nat → Job → Ins → Sig → State) : State :=
  let pc := (s.core c).pc
  if !legal then haltAt s c Config.ILLEGAL_OPCODE pc (BitVec.ofNat 64 pc)
  else if s.scoreboard c i then stall s c j 4#3
  else if !p.legal then haltAt s c Config.ILLEGAL_OPCODE pc (BitVec.ofNat 64 pc)
  else match p.range, s.waitNow c j i.wait, p.format with
    | some d, _, _ => haltReaders s ((c, pc) :: p.others) Config.SCRATCH_RANGE d
    | none, .breach id, _ => haltAt s c Config.COUNTER_OWNER pc (id.setWidth 64)
    | none, _, some d => haltAt s c Config.FORMAT_MISMATCH pc d
    | none, w, none =>
      if s.breakAt j.gen pc then haltAt s c p.atBreak.1 pc p.atBreak.2
      else match w with
        | .dead code => killDead s c n code
        | .blocked => stall (setWatch s c i.wait) c j 1#3
        | .go => issueReady s c n j i p act
        | .breach _ => issueReady s c n j i p act

/-- A row of a core instruction: nothing happens unless the core stands at an instruction of its opcode. `legal` is the
static legality of the word and `plan` its other checks (R172). -/
def coreRow (s : State) (c op : Nat) (legal : Job → Ins → Bool) (plan : State → Job → Ins → Plan)
    (act : State → Nat → Job → Ins → Sig → State) : State :=
  match s.issuing c with
  | none => s
  | some (n, j) =>
    let pc := (s.core c).pc
    match s.front c j with
    | .idle => s
    | .miss => stall s c j 5#3
    | .halt code => haltAt s c code pc (BitVec.ofNat 64 pc)
    | .ins i =>
      if definedOp i.op && i.op != op then s
      else issueTry (s.fetchAt c j) c n j i (definedOp i.op && legal j i) (plan s j i) act

end Sys2Proof.Machine
end

