-- ==== Sys2Proof/Machine/Control.lean ====
section
/-! DEFINITION. The control instructions (R137, R138, R143 to R145) and the instruction-cache fill (R158, R159, R396,
R423). -/

namespace Sys2Proof.Machine

/-! ## Ciphers (R398) -/

/-- Plain bytes of an encrypted range: `base` is byte 0 of the object or version, `off` the offset in it. -/
def State.plainBytes (s : State) (key : BitVec 512) (base off len : Nat) : List Byte :=
  (List.range len).map fun i =>
    xtsByte false key ((off + i) / 16) (s.readBytes (base + (off + i) / 16 * 16) 16) ((off + i) % 16)

/-- Cipher bytes of plain bytes that start at a multiple of 16. -/
def cipherBytes (key : BitVec 512) (off : Nat) (bs : List Byte) : List Byte :=
  (List.range bs.length).map fun i => xtsByte true key ((off + i) / 16) ((bs.drop (i / 16 * 16)).take 16) (i % 16)

/-- The key pair of a LOADED slot. -/
def State.keyOf (s : State) (slot : Nat) : Option (BitVec 512) := tget none s.sec.keys slot

/-! ## Fills (R158, R159) -/

/-- Lines that returned POISON stay poisoned (R423). -/
def markPoison (s : State) (a len : Nat) : State :=
  { s with poison := (linesOf a len).foldl (fun l x => insertNat x l) s.poison }

/-- A line enters its set; the least recently used of eight leaves (R158). -/
def Core.fill (k : Core) (entry line : Nat) (bytes : List Byte) : Core :=
  let l : ICacheLine := { entry := entry, line := line, bytes := bytes, touched := false }
  { k with icache := tput k.icache (icacheSet entry line) (l :: (tget [] k.icache (icacheSet entry line)).take 7) }

/-- The bytes of a line of a generation, decrypted where its program is ENCRYPTED; none where the key slot is EMPTY. -/
def State.lineBytes (s : State) (g : Gen) (line : Nat) : Option (List Byte) := match g.keySlot with
  | none => some (s.readBytes (g.base + 128 * line) 128)
  | some k => (s.keyOf k).map fun key => s.plainBytes key (g.base - g.progOffset) (g.progOffset + 128 * line) 128

/-- The PROG handle of a job (R171): its LAUNCH's, while the queue holds that command. -/
def State.progOf (s : State) (j : Job) : W32 := match j.kind with
  | .station _ => (s.gen j.gen).progHandle
  | .free q _ n => match (s.queue q).cmd n with
    | some c => (match c.body with
      | .launch _ _ _ _ prog _ _ _ _ _ => prog
      | _ => (s.gen j.gen).progHandle)
    | none => (s.gen j.gen).progHandle

/-- What a line read for a job's program brings: its bytes, or the code that refuses them (R243, R396, R423). -/
def State.lineRead (s : State) (g : Gen) (line : Nat) (poison : Bool) : Except (BitVec 16) (List Byte) :=
  let a := g.base + 128 * line
  if poison || s.poisoned a 128 then .error Config.MEM_POISON
  else if s.hitsObjTable a 128 then .error Config.ACCESS_DENIED
  else match s.lineBytes g line with
    | none => .error Config.ACCESS_DENIED
    | some bs => .ok bs

/-- A line of a job's program enters a core's cache. The line at the PC ends the launch set-up (R135). -/
def fillWith (s : State) (c : Nat) (j : Job) (line : Nat) (bs : List Byte) : State :=
  s.modCore c fun k => { k.fill j.gen line bs with
    prefetch := k.prefetch.filter fun l => l != line, started := k.started || line == k.pc / 128 }

/-- The line that a fetch misses returns (R159, R396, R423). -/
def fillLine (s : State) (c : Nat) (poison : Bool) : State :=
  match s.issuing c with
  | none => s
  | some (_, j) =>
    let pc := (s.core c).pc
    let g := s.gen j.gen
    match s.front c j with
    | .miss => match s.lineRead g (pc / 128) poison with
      | .error code =>
        if code = Config.MEM_POISON then haltAt (markPoison s (g.base + 128 * (pc / 128)) 128) c code pc 0#64
        else haltAt s c code pc ((s.progOf j).setWidth 64)
      | .ok bs => endStall (fillWith s c j (pc / 128) bs) c j
    | _ => s

/-- The oldest line that is read ahead returns. One that cannot be used is dropped: what it meets is reported by the fetch that
needs the line (R159, R396, R423; log entry 94). -/
def fillAhead (s : State) (c : Nat) (poison : Bool) : State :=
  match s.issuing c, (s.core c).prefetch with
  | some (_, j), line :: r =>
    let g := s.gen j.gen
    match s.lineRead g line poison with
    | .error code =>
      (if code = Config.MEM_POISON then markPoison s (g.base + 128 * line) 128 else s).modCore c fun k => { k with prefetch := r }
    | .ok bs => fillWith s c j line bs
  | _, _ => s

/-- A parity error in the line at the PC drops the line, which is fetched again, and is counted (R159, R419 unit 2). -/
def dropLine (s : State) (c : Nat) : State :=
  match s.issuing c with
  | none => s
  | some (_, j) =>
    let line := (s.core c).pc / 128
    if (s.core c).fetched.isSome || ((s.core c).cachedLine j.gen line).isNone then s
    else (frCorrected s 2).modCore c fun k => { k with
      icache := tput k.icache (icacheSet j.gen line)
        ((tget [] k.icache (icacheSet j.gen line)).filter fun l => !(l.entry == j.gen && l.line == line)) }

/-- ICACHE_FILL. -/
def execIcacheFill (core : BitVec 4) (event : FillEvent) (s : State) : Host.Outcome State Fault Refusal :=
  .next (match event with
    | .line poison => fillLine s core.toNat poison
    | .ahead poison => fillAhead s core.toNat poison
    | .parity => dropLine s core.toNat)

/-! ## Effects -/

/-- The second operand of an ALU instruction: B, or imm where MOD[0] is set (R143). -/
def State.opB (s : State) (c : Nat) (i : Ins) : W64 := if i.mod % 2 = 1 then i.imm64 else (s.core c).reg i.b

/-- Send the signal of an instruction that has completed; it stood 16 bytes before the PC unless it branched. -/
def doneAt (pc : Nat) (sig : Sig) (s : State) (c : Nat) : State := sendSignal s c pc false sig

/-- An instruction that writes D with a function of A and B (R143). -/
def alu (s : State) (c op : Nat) (f : W64 → W64 → W64) : State :=
  coreRow s c op (fun _ => controlLegal) (fun _ _ _ => Plan.plain) fun s _ _ i sig =>
    doneAt ((s.core c).pc - 16) sig (s.modCore c fun k => k.setReg i.d (f (k.reg i.a) (s.opB c i))) c

/-- An instruction that does no more than change the core (R143). -/
def simpleRow (s : State) (c op : Nat) (f : State → Job → Ins → Core → Core) : State :=
  coreRow s c op (fun _ => controlLegal) (fun _ _ _ => Plan.plain) fun s _ j i sig =>
    doneAt ((s.core c).pc - 16) sig (s.modCore c fun k => f s j i k) c

/-- Result of a comparison. -/
def truth (b : Bool) : W64 := if b then 1#64 else 0#64

/-! ## Branches (R144) -/

/-- FLOW frame of a taken branch (R477). -/
def traceFlow (s : State) (c : Nat) (j : Job) (pc target : Nat) : State :=
  let k := s.core c
  let s := if j.isSealed then s
    else traceCore s c 0x20 (leBytes 2 j.gen ++ leBytes 4 pc ++ leBytes 4 target ++ leBytes 2 k.flowInsns ++
      leBytes 4 ((s.esc.time - k.flowTime).toNat / 2))
  s.modCore c fun k => { k with flowInsns := 0, flowTime := s.esc.time }

/-- Whether a target is a multiple of 16 inside the program (R144). -/
def goodTarget (len : Nat) (t : Int) : Bool := decide (0 ≤ t) && decide (t < len) && t % 16 == 0

/-- A branch: its target, whether it is taken, and what else it writes (R143, R144). The target is checked whether the branch
is taken or not. -/
def branchRow (s : State) (c op : Nat) (target : Core → Ins → Int) (taken : Core → Ins → Bool) (link : Bool) : State :=
  coreRow s c op (fun _ => controlLegal)
    (fun s j i => { Plan.plain with
      legal := goodTarget (s.gen j.gen).len (target (s.core c) i) })
    fun s _ j i sig =>
      let pc := (s.core c).pc - 16
      let t := { s.core c with pc := pc }
      if taken t i then
        let s := traceFlow s c j pc (target t i).toNat
        doneAt pc sig (s.modCore c fun k => { (if link then k.setReg i.d (BitVec.ofNat 64 (pc + 16)) else k) with
          pc := (target t i).toNat }) c
      else doneAt pc sig s c

/-- PC + imm. -/
def relTarget (k : Core) (i : Ins) : Int := (k.pc : Int) + i.imm64.toInt

/-! ## LD and ST (R141, R143) -/

/-- The operand IMM + A of LD and ST, with its width. -/
def State.memOpnd (s : State) (c : Nat) (j : Job) (i : Ins) : Except OpndErr SOp :=
  s.scratchOpnd c j (i.imm + ((s.core c).reg i.a).setWidth 32) (2 ^ (i.mod % 4))

/-- A read of scratch meets an uncorrectable line: the job is killed with SRAM_UNCORRECTABLE (R419, R420). -/
def sramHalt (s : State) (c pc : Nat) (unit : Nat) (data : Nat) : State :=
  haltCore s c Config.SRAM_UNCORRECTABLE (some unit) (s.instrAddr c pc) (BitVec.ofNat 64 data)

/-! ## Special values (R137) -/

/-- Threads with an operation queued or in flight (R133). -/
def Stream.busy (e : Stream) : W64 :=
  BitVec.ofNat 64 (maskOf ((e.threads.filter fun t => !(t.2.queue.isEmpty && t.2.active.isEmpty)).map fun t => t.1))

/-- Receive lanes that hold a tile, and send lanes that hold a credit. -/
def State.heldMask (s : State) (c : Nat) (j : Job) : W64 :=
  BitVec.ofNat 64 (maskOf ((List.range (s.recvCount j)).filter fun l => decide (0 < (s.recvLane c j l).held)))
def State.creditMask (s : State) (c : Nat) (j : Job) : W64 :=
  BitVec.ofNat 64 (maskOf ((List.range (s.sendCount j)).filter fun l => decide (0 < (s.sendLane c j l).credits)))

/-- Special value X of the job on a core. -/
def State.special (s : State) (c : Nat) (j : Job) (x : Nat) : W64 :=
  let k := s.core c
  match x with
  | 0 => BitVec.ofNat 64 k.slot
  | 1 => BitVec.ofNat 64 j.cores.length
  | 2 => j.stationCode.setWidth 64
  | 3 => j.launchBeat.setWidth 64
  | 4 => k.boundUsed.setWidth 64
  | 5 => BitVec.ofNat 64 j.killLimit
  | 6 => BitVec.ofNat 64 j.workLen
  | 7 => BitVec.ofNat 64 (s.sendCount j)
  | 8 => BitVec.ofNat 64 (s.recvCount j)
  | 9 => s.heldMask c j
  | 10 => s.creditMask c j
  | 11 => k.se.busy
  | 12 => (s.gen j.gen).number
  | _ => k.flags

/-! ## The commands -/

/-- NOP. -/
def execNop (core : BitVec 4) (s : State) : Host.Outcome State Fault Refusal :=
  .next (simpleRow s core.toNat 0x00 fun _ _ _ k => k)

/-- HALT: halts with BREAKPOINT (R171). -/
def execHalt (core : BitVec 4) (s : State) : Host.Outcome State Fault Refusal :=
  .next (coreRow s core.toNat 0x01 (fun _ => controlLegal) (fun _ _ _ => { Plan.plain with brk := true })
    fun s _ _ _ _ => s)

/-- END (R138). -/
def execEndOp (core : BitVec 4) (s : State) : Host.Outcome State Fault Refusal :=
  .next (simpleRow s core.toNat 0x02 fun _ _ _ k => { k with ended := true })

def execAdd (core : BitVec 4) (s : State) : Host.Outcome State Fault Refusal := .next (alu s core.toNat 0x04 fun a b => a + b)
def execSub (core : BitVec 4) (s : State) : Host.Outcome State Fault Refusal := .next (alu s core.toNat 0x05 fun a b => a - b)
def execMul (core : BitVec 4) (s : State) : Host.Outcome State Fault Refusal := .next (alu s core.toNat 0x06 fun a b => a * b)
def execAndOp (core : BitVec 4) (s : State) : Host.Outcome State Fault Refusal := .next (alu s core.toNat 0x07 fun a b => a &&& b)
def execOrOp (core : BitVec 4) (s : State) : Host.Outcome State Fault Refusal := .next (alu s core.toNat 0x08 fun a b => a ||| b)
def execXorOp (core : BitVec 4) (s : State) : Host.Outcome State Fault Refusal := .next (alu s core.toNat 0x09 fun a b => a ^^^ b)

/-- SHL, SHR and SAR shift by bits 5 to 0 of B or IMM. -/
def execShl (core : BitVec 4) (s : State) : Host.Outcome State Fault Refusal :=
  .next (alu s core.toNat 0x0A fun a b => a <<< (b.toNat % 64))
def execShr (core : BitVec 4) (s : State) : Host.Outcome State Fault Refusal :=
  .next (alu s core.toNat 0x0B fun a b => a >>> (b.toNat % 64))
def execSar (core : BitVec 4) (s : State) : Host.Outcome State Fault Refusal :=
  .next (alu s core.toNat 0x0C fun a b => a.sshiftRight (b.toNat % 64))

def execMinOp (core : BitVec 4) (s : State) : Host.Outcome State Fault Refusal :=
  .next (alu s core.toNat 0x0D fun a b => if a.slt b then a else b)
def execMaxOp (core : BitVec 4) (s : State) : Host.Outcome State Fault Refusal :=
  .next (alu s core.toNat 0x0E fun a b => if a.slt b then b else a)
def execSlt (core : BitVec 4) (s : State) : Host.Outcome State Fault Refusal :=
  .next (alu s core.toNat 0x0F fun a b => truth (a.slt b))
def execSltu (core : BitVec 4) (s : State) : Host.Outcome State Fault Refusal :=
  .next (alu s core.toNat 0x10 fun a b => truth (a.ult b))

/-- LIH. -/
def execLih (core : BitVec 4) (s : State) : Host.Outcome State Fault Refusal :=
  .next (simpleRow s core.toNat 0x11 fun _ _ i k => k.setReg i.d (((k.reg i.a).setWidth 32).setWidth 64 ||| (i.imm.setWidth 64 <<< 32)))

/-- LD. `a.err` is what the protection of scratch finds as it reads (R419 unit 0). -/
def execLd (a : CoreErr) (s : State) : Host.Outcome State Fault Refusal :=
  let c := a.core.toNat
  .next (coreRow s c 0x14 (fun _ => controlLegal) (fun s j i => Plan.plain.withOpnd (s.memOpnd c j i)) fun s _ j i sig =>
    let pc := (s.core c).pc - 16
    match s.memOpnd c j i with
    | .error _ => s
    | .ok o =>
      let s := scratchErr s c j o a.err
      match s.opndBad c j o (2 ^ (i.mod % 4)) with
      | some b => sramHalt s c pc 0 b
      | none => doneAt pc sig (s.modCore c fun k => k.setReg i.d (BitVec.ofNat 64 (leNat (s.opndRead c j o (2 ^ (i.mod % 4)))))) c)

/-- ST. -/
def execSt (core : BitVec 4) (s : State) : Host.Outcome State Fault Refusal :=
  let c := core.toNat
  .next (coreRow s c 0x15 (fun _ => controlLegal) (fun s j i => Plan.plain.withOpnd (s.memOpnd c j i)) fun s _ j i sig =>
    match s.memOpnd c j i with
    | .error _ => s
    | .ok o => doneAt ((s.core c).pc - 16) sig (opndWrite s c j o (leBytes (2 ^ (i.mod % 4)) ((s.core c).reg i.b).toNat)) c)

def execB (core : BitVec 4) (s : State) : Host.Outcome State Fault Refusal :=
  .next (branchRow s core.toNat 0x18 relTarget (fun _ _ => true) false)
def execBeq (core : BitVec 4) (s : State) : Host.Outcome State Fault Refusal :=
  .next (branchRow s core.toNat 0x19 relTarget (fun k i => k.reg i.a == k.reg i.b) false)
def execBne (core : BitVec 4) (s : State) : Host.Outcome State Fault Refusal :=
  .next (branchRow s core.toNat 0x1A relTarget (fun k i => k.reg i.a != k.reg i.b) false)
def execBlt (core : BitVec 4) (s : State) : Host.Outcome State Fault Refusal :=
  .next (branchRow s core.toNat 0x1B relTarget (fun k i => (k.reg i.a).slt (k.reg i.b)) false)
def execBge (core : BitVec 4) (s : State) : Host.Outcome State Fault Refusal :=
  .next (branchRow s core.toNat 0x1C relTarget (fun k i => !(k.reg i.a).slt (k.reg i.b)) false)
def execBltu (core : BitVec 4) (s : State) : Host.Outcome State Fault Refusal :=
  .next (branchRow s core.toNat 0x1D relTarget (fun k i => (k.reg i.a).ult (k.reg i.b)) false)

/-- BAL writes the address of the next instruction to D. -/
def execBal (core : BitVec 4) (s : State) : Host.Outcome State Fault Refusal :=
  .next (branchRow s core.toNat 0x1E relTarget (fun _ _ => true) true)

/-- JR. -/
def execJr (core : BitVec 4) (s : State) : Host.Outcome State Fault Refusal :=
  .next (branchRow s core.toNat 0x1F (fun k i => ((k.reg i.a).toNat : Int)) (fun _ _ => true) false)

/-- MFS. -/
def execMfs (core : BitVec 4) (s : State) : Host.Outcome State Fault Refusal :=
  .next (simpleRow s core.toNat 0x20 fun s j i k => k.setReg i.d (s.special core.toNat j i.x))

/-- FCLRM. -/
def execFclrm (core : BitVec 4) (s : State) : Host.Outcome State Fault Refusal :=
  .next (simpleRow s core.toNat 0x21 fun _ _ i k => { k with flags := k.flags &&& ~~~ k.reg i.a })

end Sys2Proof.Machine
end

