-- ==== Sys2Proof/Machine/Tick.lean ====
section
/-! DEFINITION. One Keeper cycle of 1 ns, which passes when no command waits (log entry 3): the time base (R19), the bound
counters (R41, R135, R426), the clear engines (R106), the swap cycles (R88), the cycle counts of R465 slots 0 and 1, the slow-down counts (R348), the WAIT accounts (R341),
moderation timers (R455) and the record bucket (R472). -/

namespace Sys2Proof.Machine

/-- Read lines of an operation in flight (R129). -/
def StreamOp.inFlight (o : StreamOp) : Nat := if o.leads then o.issued - o.landed.length else 0

/-- Read lines of a core in flight (R133 SE_LINES). -/
def Core.linesInFlight (k : Core) : Nat :=
  k.se.threads.foldl (fun a t => a + t.2.active.foldl (fun b o => b + o.inFlight) 0) 0

/-- A core's issue is stalled on a wait field or a lane operand. -/
def Core.spinning (k : Core) : Bool := k.st == .running && (k.stall == 1#3 || k.stall == 2#3)

/-- One arithmetic cycle of a core that holds a job. -/
def coreCycle (frozen : Bool) (s : State) (c : Nat) : State :=
  let k := s.core c
  match k.job with
  | none => s
  | some n =>
    let s := if k.st = .running ∧ frozen = false ∧ k.started = true then s.setCore c { k with boundUsed := satInc k.boundUsed } else s
    let s := pmJob s (some n) 0 1
    let s := if k.spinning then pmJob s (some n) 1 1 else s
    match s.job n with
    | none => s
    | some j => s.modRgPart j.part fun x => { x with
        busy := x.busy + 1#64,
        memWait := if k.spinning && decide (0 < k.linesInFlight) then x.memWait + 1#64 else x.memWait }

/-- One arithmetic cycle of a core's clear engine: 512 bytes of its oldest range, whose end is SCRATCH_CLEAR_DONE (R106). -/
def Core.clearCycle (k : Core) : Core := match k.clears with
  | r :: rest => if 512 < r.2 then { k.zeroScratch r.1 512 with clears := (r.1 + 512, r.2 - 512) :: rest } else k
  | [] => k

/-- One arithmetic cycle of every core. -/
def coreCycles (s : State) : State :=
  (s.cores.map fun k => k.1).foldl (fun s c => (coreCycle s.pauseAllowed s c).modCore c Core.clearCycle) s

/-- A queue with an offerable LAUNCH and none running waits (R341). -/
def State.waitTick (s : State) (q : Queue) : Queue :=
  if (q.cmds.any fun c => s.offerable q c) && !q.cmds.any Cmd.runningLaunch then { q with waitNs := q.waitNs + 1#64 } else q

/-- A moderation timer runs while its output is low and a source is live (R455). -/
def timerTick (s : State) (t : Nat) : State :=
  let x := s.target t
  if !x.out && !(s.liveSrcs t).isEmpty then s.setTarget t { x with timerNs := x.timerNs + 1 } else s

/-- The Keeper's share of a cycle. -/
def keeperCycle (s : State) : State :=
  let queues : Tbl Queue := s.queues.map fun q => (q.1, s.waitTick q.2)
  let s := { s with
    queues := queues,
    sec := { s.sec with swapCycles := s.sec.swapCycles - 1 },
    fr := { s.fr with pauseNs := if s.pausing then s.fr.pauseNs + 1 else s.fr.pauseNs },
    obs := { s.obs with recTokens := min 64000 (s.obs.recTokens + 60 * s.openPorts.length) } }
  traceSettle (chEval ((List.range 8).foldl timerTick s))

/-- One cycle of 1 ns. Nothing runs while the block is in reset or has no power; in halt-all only the time base runs. -/
def tick (s : State) : State :=
  if s.portAlive then
    let s := { s with esc := { s.esc with time := s.esc.time + 1#64, phase := !s.esc.phase } }
    if s.obs.halted then s
    else keeperCycle (if s.esc.phase then s else coreCycles s)
  else s

end Sys2Proof.Machine
end

