-- ==== Sys2Proof/Machine/Num.lean ====
section
/-! DEFINITION. The number formats (R184 to R186), exact values and their rounding to nearest even (R201 to R204, R227),
row sums, MX blocks, and the functions of R231 that round once. -/

namespace Sys2Proof.Machine

/-! ## Exact values -/

/-- An exact value: NaN, an infinity, or ±m·2^e. Zero keeps its sign. -/
inductive Val where
  | nan
  | inf (neg : Bool)
  | fin (neg : Bool) (m : Nat) (e : Int)
  deriving DecidableEq, Repr

/-- Plus zero, an integer, and a power-of-two multiple of a value. -/
def Val.zero : Val := .fin false 0 0
def Val.ofInt (i : Int) : Val := .fin (decide (i < 0)) i.natAbs 0
def Val.scale : Val → Int → Val
  | .fin n m e, k => .fin n m (e + k)
  | v, _ => v

def Val.isNan : Val → Bool
  | .nan => true
  | _ => false
def Val.isInf : Val → Bool
  | .inf _ => true
  | _ => false
def Val.isZero : Val → Bool
  | .fin _ m _ => m == 0
  | _ => false
def Val.neg : Val → Bool
  | .inf n => n
  | .fin n _ _ => n
  | .nan => false

/-- m·2^k for any integer k with m·2^k a whole number; the fraction is cut. -/
def shiftNat (m : Nat) (k : Int) : Nat := if 0 ≤ k then m * 2 ^ k.toNat else m / 2 ^ (-k).toNat

/-- The signed integer v / 2^e0, for e0 at most the value's own exponent. -/
def signedAt (n : Bool) (m : Nat) (e e0 : Int) : Int :=
  let x : Int := shiftNat m (e - e0)
  if n then -x else x

/-- The value i·2^e0; a zero gets the sign given. -/
def Val.ofScaled (i : Int) (e0 : Int) (zeroNeg : Bool) : Val :=
  if i = 0 then .fin zeroNeg 0 0 else .fin (decide (i < 0)) i.natAbs e0

/-- Exact sum; opposite infinities give NaN, a zero sum is +0 unless both are −0. -/
def Val.add : Val → Val → Val
  | .nan, _ => .nan
  | _, .nan => .nan
  | .inf a, .inf b => if a = b then .inf a else .nan
  | .inf a, _ => .inf a
  | _, .inf b => .inf b
  | .fin a m e, .fin b n f =>
    let e0 := min e f
    Val.ofScaled (signedAt a m e e0 + signedAt b n f e0) e0 (a && b && m == 0 && n == 0)

/-- Exact product; 0 × ∞ gives NaN. -/
def Val.mul : Val → Val → Val
  | .nan, _ => .nan
  | _, .nan => .nan
  | .inf a, .inf b => .inf (a != b)
  | .inf a, .fin b n _ => if n = 0 then .nan else .inf (a != b)
  | .fin a m _, .inf b => if m = 0 then .nan else .inf (a != b)
  | .fin a m e, .fin b n f => .fin (a != b) (m * n) (e + f)

/-- Negation and absolute value. -/
def Val.negate : Val → Val
  | .nan => .nan
  | .inf n => .inf (!n)
  | .fin n m e => .fin (!n) m e
def Val.abs : Val → Val
  | .nan => .nan
  | .inf _ => .inf false
  | .fin _ m e => .fin false m e

/-- Numeric order of values that are not NaN; −0 equals +0. -/
def Val.lt : Val → Val → Bool
  | .inf a, .inf b => a && !b
  | .inf a, _ => a
  | _, .inf b => !b
  | .fin a m e, .fin b n f =>
    let e0 := min e f
    decide (signedAt a m e e0 < signedAt b n f e0)
  | _, _ => false

/-- The order of VMIN and VMAX: −0 below +0 (R227). -/
def Val.below (x y : Val) : Bool := x.lt y || (x.isZero && y.isZero && x.neg && !y.neg)

/-- Minimum and maximum; NaN if either is (R227). -/
def Val.minV (x y : Val) : Val := if x.isNan || y.isNan then .nan else if x.below y then x else y
def Val.maxV (x y : Val) : Val := if x.isNan || y.isNan then .nan else if x.below y then y else x

/-- floor(log2 (m·2^e)) for m > 0. -/
def floorLog (m : Nat) (e : Int) : Int := (Nat.log2 m : Int) + e

/-! ## Rounding -/

/-- m / 2^k rounded to the nearest integer, ties to even; a negative k is a left shift. -/
def rneShift (m : Nat) (k : Int) : Nat :=
  if k ≤ 0 then m * 2 ^ (-k).toNat
  else
    let d := 2 ^ k.toNat
    let q := m / d
    let r := m % d
    if 2 * r < d then q else if d < 2 * r then q + 1 else q + q % 2

/-- Signed v / 2^k rounded to nearest even. -/
def rneInt (i : Int) (k : Nat) : Int := if i < 0 then -(rneShift i.natAbs k : Int) else (rneShift i.natAbs k : Int)

/-- A float layout: exponent and mantissa widths, bias, and which codes are special: 0 as IEEE, 1 only S.1…1 NaN, 2 none
(R185). -/
structure FloatFmt where
  eb : Nat
  mb : Nat
  bias : Nat
  special : Nat
  deriving DecidableEq, Repr

/-- Largest finite code of a layout, without its sign. -/
def FloatFmt.maxCode (f : FloatFmt) : Nat := match f.special with
  | 0 => (2 ^ f.eb - 1) * 2 ^ f.mb - 1
  | 1 => 2 ^ (f.eb + f.mb) - 2
  | _ => 2 ^ (f.eb + f.mb) - 1

/-- The value of a code (R185). -/
def FloatFmt.decode (f : FloatFmt) (bits : Nat) : Val :=
  let neg := bitAt bits (f.eb + f.mb)
  let code := bits % 2 ^ (f.eb + f.mb)
  let ex := code / 2 ^ f.mb
  let man := code % 2 ^ f.mb
  if f.maxCode < code then
    (if f.special = 0 ∧ man = 0 then .inf neg else .nan)
  else if ex = 0 then .fin neg man (1 - (f.bias : Int) - f.mb)
  else .fin neg (2 ^ f.mb + man) ((ex : Int) - f.bias - f.mb)

/-- Code of a finite value rounded to nearest even, with no upper limit: above `maxCode` the value overflows. -/
def FloatFmt.round (f : FloatFmt) (m : Nat) (e : Int) : Nat :=
  if m = 0 then 0
  else
    let emin : Int := 1 - (f.bias : Int)
    let ex := max (floorLog m e) emin
    (ex - emin).toNat * 2 ^ f.mb + rneShift m (ex - f.mb - e)

/-- Sign bit of a layout. -/
def FloatFmt.sign (f : FloatFmt) (neg : Bool) : Nat := if neg then 2 ^ (f.eb + f.mb) else 0

def fp32 : FloatFmt := { eb := 8, mb := 23, bias := 127, special := 0 }
def bf16 : FloatFmt := { eb := 8, mb := 7, bias := 127, special := 0 }
def fp16 : FloatFmt := { eb := 5, mb := 10, bias := 15, special := 0 }
def e4m3 : FloatFmt := { eb := 4, mb := 3, bias := 7, special := 1 }
def e5m2 : FloatFmt := { eb := 5, mb := 2, bias := 15, special := 0 }
def e3m2 : FloatFmt := { eb := 3, mb := 2, bias := 3, special := 2 }
def e2m3 : FloatFmt := { eb := 2, mb := 3, bias := 1, special := 2 }
def e2m1 : FloatFmt := { eb := 2, mb := 1, bias := 1, special := 2 }

/-- Canonical NaN of a layout with NaNs (R207). -/
def FloatFmt.canonNan (f : FloatFmt) : Nat := match f.eb, f.mb with
  | 8, 23 => 0x7FC00000
  | 8, 7 => 0x7FC0
  | 5, 10 => 0x7E00
  | _, _ => 0x7F

/-- What a conversion to a format raised: a finite value beyond the largest, an infinity or integer cut to it. -/
structure Enc where
  bits : Nat
  big : Bool
  cut : Bool
  deriving DecidableEq, Repr

/-- A result that exceeds a layout's largest finite value (R204, R227). -/
def FloatFmt.huge (f : FloatFmt) (sat neg : Bool) : Nat :=
  if f.special = 0 ∧ ¬(f.eb = 5 ∧ f.mb = 2 ∧ sat = true) then f.sign neg + (2 ^ f.eb - 1) * 2 ^ f.mb
  else if sat then f.sign neg + f.maxCode
  else f.canonNan

/-- Round a value to a float layout (R202, R204, R227). -/
def FloatFmt.encode (f : FloatFmt) (sat : Bool) : Val → Enc
  | .nan => { bits := f.canonNan, big := false, cut := false }
  | .inf n => { bits := f.huge sat n, big := false, cut := sat && decide (f.mb < 7) }
  | .fin n m e =>
    let c := f.round m e
    if f.maxCode < c then { bits := f.huge sat n, big := true, cut := false }
    else { bits := f.sign n + c, big := false, cut := false }

/-! ## Format codes (R184) -/

/-- Element width in bits. -/
def fmtWidth : Nat → Nat
  | 0x1 => 32 | 0x2 => 16 | 0x3 => 16 | 0x4 => 8 | 0x5 => 8 | 0x6 => 8 | 0x7 => 4 | 0x8 => 8 | 0x9 => 8 | 0xA => 6
  | 0xB => 6 | 0xC => 4 | 0xD => 8 | 0xE => 4 | 0xF => 32 | _ => 0

/-- MX formats (R186). -/
def isMx (f : Nat) : Bool := decide (8 ≤ f) && decide (f ≤ 0xE)

/-- Formats whose elements are integers and not scaled. -/
def isIntFmt (f : Nat) : Bool := f == 6 || f == 7 || f == 0xF

/-- Float layout of an element; none for integer elements. -/
def elemFloat : Nat → Option FloatFmt
  | 0x1 => some fp32 | 0x2 => some bf16 | 0x3 => some fp16 | 0x4 => some e4m3 | 0x5 => some e5m2 | 0x8 => some e4m3
  | 0x9 => some e5m2 | 0xA => some e2m3 | 0xB => some e3m2 | 0xC => some e2m1 | _ => none

/-- Integer elements: width, and the power of two of one unit (R185). -/
def elemInt : Nat → Nat × Int
  | 0x6 => (8, 0) | 0x7 => (4, 0) | 0xD => (8, -6) | 0xE => (4, -2) | _ => (32, 0)

/-- A two's complement field. -/
def signedField (w v : Nat) : Int := if v % 2 ^ w < 2 ^ (w - 1) then (v % 2 ^ w : Nat) else ((v % 2 ^ w : Nat) : Int) - 2 ^ w

/-- Value of an element, without its block's scale (R185). -/
def elemVal (fmt bits : Nat) : Val := match elemFloat fmt with
  | some f => f.decode bits
  | none => (Val.ofInt (signedField (elemInt fmt).1 bits)).scale (elemInt fmt).2

/-- Value of an element of a block with a scale code (R186). -/
def scaledVal (fmt bits scale : Nat) : Val :=
  if isMx fmt then (if scale = 255 then .nan else (elemVal fmt bits).scale ((scale : Int) - 127)) else elemVal fmt bits

/-- An integer cut to a signed width. -/
def clampInt (w : Nat) (i : Int) : Int := max (-(2 ^ (w - 1) : Int)) (min i (2 ^ (w - 1) - 1))

/-- Two's complement bits. -/
def intBits (w : Nat) (i : Int) : Nat := (i % (2 ^ w : Int)).toNat

/-- An integer saturated to an integer format. -/
def encInt (w : Nat) (i : Int) : Enc :=
  { bits := intBits w (clampInt w i), big := false, cut := clampInt w i != i }

/-- A value rounded or saturated to a format without scales (R227, R228). Infinities and NaN do not reach an integer
format here. -/
def encVal (fmt : Nat) (sat : Bool) (v : Val) : Enc := match elemFloat fmt with
  | some f => f.encode sat v
  | none => match v with
    | .fin n m e => encInt (fmtWidth fmt) (if n then -(rneShift m (-e) : Int) else rneShift m (-e))
    | _ => { bits := 0, big := false, cut := false }

/-- A value divided by 2^shift to an integer format: NaN gives 0, infinities saturate (R202, R235). -/
def encToInt (fmt shift : Nat) (v : Val) : Enc :=
  let w := fmtWidth fmt
  match v with
  | .nan => { bits := 0, big := false, cut := false }
  | .inf n => { bits := intBits w (if n then -(2 ^ (w - 1) : Int) else 2 ^ (w - 1) - 1), big := false, cut := true }
  | .fin n m e => encInt w (if n then -(rneShift m (shift - e) : Int) else rneShift m (shift - e))

/-! ## Row sums (R201) -/

/-- Signed integer part of v / q, q = 2^k, toward zero. -/
def truncAt (k : Int) : Val → Int
  | .fin n m e => if n then -(shiftNat m (e - k) : Int) else shiftNat m (e - k)
  | _ => 0

/-- floor(log2 |p|) of the nonzero members, the largest of them. -/
def topExp : List Val → Option Int
  | [] => none
  | .fin _ m e :: r => if m = 0 then topExp r else some (match topExp r with
      | some t => max (floorLog m e) t
      | none => floorLog m e)
  | _ :: r => topExp r

/-- row_sum of R201. -/
def rowSum (p : List Val) : Val :=
  if p.any Val.isNan || (p.any (fun v => v.isInf && v.neg) && p.any fun v => v.isInf && !v.neg) then .nan
  else if p.any Val.isInf then .inf (p.any fun v => v.isInf && v.neg)
  else match topExp p with
    | none => Val.zero
    | some e =>
      let k := e - 38
      Val.ofScaled ((p.map (truncAt k)).foldl (fun a b => a + b) 0) k false

/-- A float32 code that is subnormal. -/
def subnormal32 (bits : Nat) : Bool := bits % 2 ^ 31 / 2 ^ 23 == 0 && bits % 2 ^ 23 != 0

/-- Flush a subnormal float32 to zero, sign kept. -/
def flush32 (bits : Nat) : Nat := if subnormal32 bits then bits / 2 ^ 31 * 2 ^ 31 else bits

/-- mma_float of R201: the new accumulator word, and whether it overflowed. -/
def mmaFloat (acc : W32) (p : List Val) : Enc :=
  let a := fp32.decode (flush32 acc.toNat)
  let s := a.add (rowSum p)
  let s := if s.isZero then Val.zero else s
  let r := fp32.encode false s
  { r with bits := flush32 r.bits }

/-- mma_int of R201. -/
def mmaInt (acc : W32) (p : List Val) : Enc := encInt 32 (acc.toInt + (p.map (truncAt 0)).foldl (fun a b => a + b) 0)

/-! ## MX blocks (R203) -/

/-- emax of an MX format. -/
def mxEmax : Nat → Int
  | 0x8 => 8 | 0x9 => 15 | 0xA => 2 | 0xB => 4 | 0xC => 2 | _ => 0

/-- An element v / 2^x rounded and saturated to the largest finite element: its code and whether it was cut. -/
def mxElem (fmt : Nat) (x : Int) (v : Val) : Nat × Bool := match v with
  | .fin n m e => (match elemFloat fmt with
    | some f =>
      let c := f.round m (e - x)
      (f.sign n + min c f.maxCode, decide (f.maxCode < c))
    | none =>
      let w := (elemInt fmt).1
      let c := rneShift m ((elemInt fmt).2 - (e - x))
      let top := 2 ^ (w - 1) - 1
      (intBits w (if n then -(min c top : Nat) else (min c top : Nat)), decide (top < c)))
  | _ => (0, false)

/-- mx_block of R203: the scale, the elements, and whether any was cut. -/
def mxBlock (fmt : Nat) (v : List Val) : Nat × List Nat × Bool :=
  if v.any fun x => x.isNan || x.isInf then (255, v.map fun _ => 0, false)
  else match topExp v with
    | none => (0, v.map fun _ => 0, false)
    | some t =>
      let x := max (t - mxEmax fmt) (-127)
      let es := v.map (mxElem fmt x)
      ((x + 127).toNat, es.map fun e => e.1, es.any fun e => e.2)

/-! ## Functions rounded once (R227, R231) -/

/-- 1 / a of a finite nonzero value, exact but for a sticky last bit. -/
def recip (n : Bool) (m : Nat) (e : Int) : Val :=
  let q := 2 ^ 160 / m
  .fin n (2 * q + b2n (q * m != 2 ^ 160)) (-161 - e)

/-- An even exponent for a square root. -/
def evenExp (m : Nat) (e : Int) : Nat × Int := if e % 2 = 0 then (m, e) else (2 * m, e - 1)

/-- √(m·2^e), with a sticky last bit. -/
def rootOf' (m : Nat) (e : Int) : Val :=
  let p := evenExp m e
  let r := Nat.sqrt (p.1 * 2 ^ 200)
  .fin false (2 * r + b2n (r * r != p.1 * 2 ^ 200)) (p.2 / 2 - 101)

/-- 1 / √(m·2^e), with a sticky last bit. -/
def recipRoot (m : Nat) (e : Int) : Val :=
  let p := evenExp m e
  let r := Nat.sqrt (2 ^ 320 / p.1)
  .fin false (2 * r + b2n (r * r * p.1 != 2 ^ 320)) (-161 - p.2 / 2)

/-- Fixed-point precision of the two transcendental functions, in fraction bits. -/
def FX : Nat := 320

/-- Square root of a fixed-point number, rounded down and up. -/
def fxRootDown (x : Nat) : Nat := Nat.sqrt (x * 2 ^ FX)
def fxRootUp (x : Nat) : Nat := let r := Nat.sqrt (x * 2 ^ FX); if r * r = x * 2 ^ FX then r else r + 1

/-- Bounds on 2^f for the fraction whose bits, highest first, are given; `lo` and `hi` bound 2^(2^-i) for the next bit. -/
def exp2Bits : List Bool → Nat → Nat → Nat × Nat → Nat × Nat
  | [], _, _, a => a
  | b :: r, lo, hi, a =>
    exp2Bits r (fxRootDown lo) (fxRootUp hi) (if b then (a.1 * lo / 2 ^ FX, a.2 * hi / 2 ^ FX + 1) else a)

/-- Bounds on 2^(p / 2^k) for a whole p, as (low, high) significands with one exponent. -/
def exp2Bounds (p : Int) (k : Nat) : Nat × Nat × Int :=
  let i := p / (2 ^ k : Int)
  let f := (p % (2 ^ k : Int)).toNat
  let b := exp2Bits ((List.range k).map fun j => bitAt f (k - 1 - j)) (fxRootDown (2 * 2 ^ FX)) (fxRootUp (2 * 2 ^ FX)) (2 ^ FX, 2 ^ FX)
  (b.1, b.2, i - FX)

/-- Bits of log2 y for a fixed-point y in [1, 2], highest first, while the bounds agree. -/
def log2Bits : Nat → Nat → Nat → List Bool
  | 0, _, _ => []
  | n + 1, lo, hi =>
    let l := lo * lo / 2 ^ FX
    let h := hi * hi / 2 ^ FX + 1
    let two := 2 * 2 ^ FX
    if two ≤ l then true :: log2Bits n (l / 2) (h / 2 + 1)
    else if h < two then false :: log2Bits n l h
    else []

/-- The number that bits spell, highest first. -/
def bitsNat (l : List Bool) : Nat := l.foldl (fun a b => 2 * a + b2n b) 0

/-- A result known between two bounds, rounded if both round alike. -/
def roundBetween (f : FloatFmt) (sat : Bool) (lo hi : Val) : Option Enc :=
  let a := f.encode sat lo
  if f.encode sat hi = a then some a else none

/-- 2^a (R231): none where the bounds do not decide the rounding. -/
def exp2Val (f : FloatFmt) (sat : Bool) : Val → Option Enc
  | .nan => some (f.encode sat .nan)
  | .inf n => some (f.encode sat (if n then Val.zero else .inf false))
  | .fin n m e =>
    if m = 0 then some (f.encode sat (Val.ofInt 1))
    else if 11 ≤ floorLog m e then some (f.encode sat (.fin false 1 (if n then -4096 else 4096)))
    else if 0 ≤ e then
      let i : Int := shiftNat m e
      some (f.encode sat (.fin false 1 (if n then -i else i)))
    else
      let b := exp2Bounds (if n then -(m : Int) else m) (-e).toNat
      roundBetween f sat (.fin false b.1 b.2.2) (.fin false b.2.1 b.2.2)

/-- log2 a of a positive finite value. -/
def log2Fin (f : FloatFmt) (sat : Bool) (m : Nat) (e : Int) : Option Enc :=
  let i := floorLog m e
  let y := m * 2 ^ (FX - Nat.log2 m)
  if y = 2 ^ FX then some (f.encode sat (Val.ofInt i))
  else
    let l := log2Bits 200 y y
    let k := l.length
    let lo : Int := i * 2 ^ k + bitsNat l
    roundBetween f sat (Val.ofScaled lo (-k) false) (Val.ofScaled (lo + 1) (-k) false)

end Sys2Proof.Machine
end

