-- ==== Sys2Proof/Machine/Matrix.lean ====
section
/-! DEFINITION. The matrix engine (R180 to R208): tiles, the four instructions, their start and their completion. -/

namespace Sys2Proof.Machine

/-! ## Tiles (R181, R188 to R190) -/

/-- A packed tile: format, rows, logical row length, and whether it stores two values of four. -/
structure Tile where
  fmt : Nat
  rows : Nat
  len : Nat
  sparse : Bool
  deriving DecidableEq, Repr

/-- Stored elements of a row, bytes of a row, and the planes' places. -/
def Tile.stored (t : Tile) : Nat := if t.sparse then t.len / 2 else t.len
def Tile.rowBytes (t : Tile) : Nat := t.stored * fmtWidth t.fmt / 8
def Tile.elemBytes (t : Tile) : Nat := t.rows * t.rowBytes
def Tile.scaleOff (t : Tile) : Nat := roundUp 128 t.elemBytes
def Tile.scaleEnd (t : Tile) : Nat := if isMx t.fmt then t.scaleOff + t.rows * (t.len / 32) else t.elemBytes
def Tile.metaOff (t : Tile) : Nat := roundUp 128 t.scaleEnd
def Tile.size (t : Tile) : Nat := if t.sparse then t.metaOff + t.rows * (t.len / 8) else t.scaleEnd

/-- Code of element i of packed elements that start at a byte offset (R188). -/
def elemAt (bs : List Byte) (off w i : Nat) : Nat := match w with
  | 4 => bitField (leAt bs (off + i / 2) 1) (4 * (i % 2) + 3) (4 * (i % 2))
  | 6 => bitField (leAt bs (off + 3 * (i / 4)) 3) (6 * (i % 4) + 5) (6 * (i % 4))
  | _ => leAt bs (off + w / 8 * i) (w / 8)

/-- Pack 4-bit codes two to a byte, and 6-bit codes four to three bytes (R188). -/
def pack4 : List Nat → List Byte
  | a :: b :: r => BitVec.ofNat 8 (a % 16 + 16 * b) :: pack4 r
  | [a] => [BitVec.ofNat 8 (a % 16)]
  | [] => []
def pack6 : List Nat → List Byte
  | a :: b :: c :: d :: r => leBytes 3 (a % 64 + 64 * (b % 64) + 4096 * (c % 64) + 262144 * (d % 64)) ++ pack6 r
  | _ => []

/-- Pack element codes of a width. -/
def packElems (w : Nat) (l : List Nat) : List Byte := match w with
  | 4 => pack4 l
  | 6 => pack6 l
  | _ => l.flatMap (leBytes (w / 8))

/-- Scale code of element i of row r. -/
def Tile.scaleAt (t : Tile) (bs : List Byte) (r i : Nat) : Nat :=
  if isMx t.fmt then leAt bs (t.scaleOff + r * (t.len / 32) + i / 32) 1 else 0

/-- Code and value of stored element j of row r, whose logical position gives the block. -/
def Tile.code (t : Tile) (bs : List Byte) (r j : Nat) : Nat := elemAt bs (r * t.rowBytes) (fmtWidth t.fmt) j
def Tile.value (t : Tile) (bs : List Byte) (r j pos : Nat) : Val := scaledVal t.fmt (t.code bs r j) (t.scaleAt bs r pos)

/-- Logical position of stored value j of a sparse row (R190). -/
def Tile.position (t : Tile) (bs : List Byte) (r j : Nat) : Nat :=
  let g := j / 2
  let b := leAt bs (t.metaOff + r * (t.len / 8) + g / 2) 1
  4 * g + bitField b (4 * (g % 2) + 2 * (j % 2) + 1) (4 * (g % 2) + 2 * (j % 2))

/-- K_q of a format's width (R180). -/
def depthQ (fmt : Nat) (sparse : Bool) : Nat :=
  (match fmtWidth fmt with | 16 => 64 | 4 => 256 | _ => 128) * (if sparse then 2 else 1)

/-- K and N of an arrangement (R181). -/
def arrK (fmt arr : Nat) (sparse : Bool) : Nat := depthQ fmt sparse * 2 ^ arr
def arrN (arr : Nat) : Nat := 512 / 2 ^ arr

/-! ## Legality (R192, R193, R195) -/

/-- Whether FEATURES lack a path that an MWLD or MMA needs (R195). -/
def lacksPath (features : BitVec 2) (fmt : Nat) (sparse : Bool) : Bool :=
  ((fmt == 7 || fmt == 0xC || fmt == 0xE) && !bitAt features.toNat 0) || (sparse && !bitAt features.toNat 1)

/-- The path that an instruction uses lies in FEATURES (R176 check 2, R195). -/
def pathOk (features : BitVec 2) (i : Ins) : Bool := match i.op with
  | 0x40 => !lacksPath features i.fmt (bitAt i.mod 3)
  | 0x41 => !lacksPath features i.fmt false
  | _ => true

/-- A format that a matrix operand may have (R184). -/
def operandFmt (f : Nat) : Bool := decide (2 ≤ f) && decide (f ≤ 0xE)

/-- Row counts of X (R192). -/
def rowsOk (x : Nat) : Bool := decide (1 ≤ x) && decide (x ≤ 512)

/-- Static legality of a matrix instruction. -/
def matrixLegal (i : Ins) : Bool := match i.op with
  | 0x40 => i.fieldsOk false true false false false true 0xF && operandFmt i.fmt && i.mod % 4 != 3
  | 0x41 => i.fieldsOk false true false true true true 0xF014 && operandFmt i.fmt && rowsOk i.x
  | 0x42 =>
    i.fieldsOk false true false true true true 0xFF3 && rowsOk i.x && i.mod % 4 != 3 &&
      (if bitAt i.mod 6 then i.fmt == 0xF || i.fmt == 1 || i.fmt == 6 || i.fmt == 7
       else (decide (1 ≤ i.fmt) && decide (i.fmt ≤ 5)) || isMx i.fmt) &&
      (bitField i.mod 11 7 == 0 || i.fmt == 6 || i.fmt == 7) && (!bitAt i.mod 5 || i.fmt == 4 || i.fmt == 5)
  | 0x43 => i.fmt == 0 && i.fieldsOk false false false true true false 0 && rowsOk i.x
  | _ => false

/-- Legality for a job. -/
def matrixLegalFor (j : Job) (i : Ins) : Bool := matrixLegal i && pathOk j.features i

/-- WFMT of an MMA that differs from FMT (R194): CORE_HALT_DATA. -/
def wfmtFault (i : Ins) : Option W64 :=
  let w := bitField i.mod 15 12
  if w ≠ 0 ∧ w ≠ i.fmt then some (BitVec.ofNat 64 (16 * i.fmt + w)) else none

/-! ## Operations -/

/-- Tiles of a queued operation: an MWLD's weights, an MMA's activations under the bank it will use, an MDRAIN's
output (R189). -/
def MatOp.bankOf (o : MatOp) (e : Matrix) : Bank := if bitAt o.mod.toNat 2 then e.bank1 else e.bank0
def MatOp.cols (o : MatOp) : Nat := 128 * 2 ^ (o.mod.toNat % 4)
def MatOp.tile (o : MatOp) (e : Matrix) : Tile := match o.kind with
  | .mwld =>
    let a := o.mod.toNat % 4
    { fmt := o.fmt.toNat, rows := arrN a, len := arrK o.fmt.toNat a (bitAt o.mod.toNat 3), sparse := bitAt o.mod.toNat 3 }
  | .mma =>
    let b := o.bankOf e
    { fmt := o.fmt.toNat, rows := o.m, len := arrK o.fmt.toNat b.arr.toNat b.sparse, sparse := false }
  | .mdrain => { fmt := o.fmt.toNat, rows := o.m, len := o.cols, sparse := false }
  | .mzero => { fmt := 0, rows := 0, len := 0, sparse := false }

/-- Accumulator rows that an operation touches. -/
def MatOp.rows (o : MatOp) : List Nat := match o.kind with
  | .mwld => []
  | _ => (List.range o.m).map fun i => (o.row + i) % 512

/-- Whether two operations touch a common accumulator row. -/
def MatOp.shares (o p : MatOp) : Bool := o.rows.any p.rows.contains

/-- Byte ranges of scratch that two operations have in common, within one share. -/
def sameBytes (a : SOp) (la : Nat) (b : SOp) (lb : Nat) : Bool := match a, b with
  | .work x, .work y => overlaps x la y lb
  | .lane l s x, .lane k t y => l == k && s == t && overlaps x la y lb
  | _, _ => false

/-- Reads scratch; writes scratch. -/
def MatOp.reads (o : MatOp) : Bool := o.kind == .mwld || o.kind == .mma
def MatOp.writes (o : MatOp) : Bool := o.kind == .mdrain

/-- Path of an operation (R197). -/
def MKind.path : MKind → MPath
  | .mwld => .load
  | .mma => .array
  | .mdrain => .drain
  | .mzero => .drain

/-- Occupancy of an operation on its path, in arithmetic cycles, for a tile of `size` bytes (R199). -/
def MatOp.occupancy (o : MatOp) (size : Nat) : Nat := match o.kind with
  | .mwld => ceilDiv size 2048
  | .mma => o.m
  | .mdrain => max o.m (ceilDiv size 1024)
  | .mzero => ceilDiv o.m 4

/-- Operation `o` waits in a cycle for the running operation `p`: `p` occupies its path still (R197), or a hazard of R198. -/
def MatOp.waitsFor (o : MatOp) (e : Matrix) (cycle : Nat) (p : MatOp) : Bool :=
  let sameBank : Bool := bitAt p.mod.toNat 2 == bitAt o.mod.toNat 2
  (o.kind.path == p.kind.path && decide (cycle < p.ends)) ||
  (match o.kind with
   | .mma => (p.kind == .mwld && sameBank) || ((p.kind == .mdrain || p.kind == .mzero) && o.shares p)
   | .mwld => p.kind == .mma && sameBank && decide (cycle < p.ends)
   | .mdrain => o.shares p
   | .mzero => o.shares p) ||
  ((o.reads && p.writes || o.writes && p.reads) && sameBytes o.scratch (o.tile e).size p.scratch p.size)

/-! ## MMA (R190, R194, R201) -/

/-- The exact scaled products of one output element. -/
def products (wt at' : Tile) (wb ab : List Byte) (n m : Nat) : List Val :=
  (List.range wt.stored).map fun j =>
    let pos := if wt.sparse then wt.position wb n j else j
    (at'.value ab m pos pos).mul (wt.value wb n j (if wt.sparse then j / 2 * 4 else j))

/-- Whether any operand code of an output element is itself a NaN. -/
def operandNan (wt at' : Tile) (wb ab : List Byte) (n m : Nat) : Bool :=
  (List.range wt.stored).any fun j => (elemVal wt.fmt (wt.code wb n j)).isNan ||
    (elemVal at'.fmt (at'.code ab m (if wt.sparse then wt.position wb n j else j))).isNan

/-- One accumulator word of an MMA and what it raises. -/
structure MmaWord where
  word : W32
  invalid : Bool
  overflow : Bool
  clamped : Bool
  deriving DecidableEq, Repr

/-- One output element. -/
def mmaWord (wt at' : Tile) (wb ab : List Byte) (acc : W32) (n m : Nat) : MmaWord :=
  let p := products wt at' wb ab n m
  if isIntFmt wt.fmt then
    let r := mmaInt acc p
    { word := BitVec.ofNat 32 r.bits, invalid := false, overflow := false, clamped := r.cut }
  else
    let r := mmaFloat acc p
    { word := BitVec.ofNat 32 r.bits, overflow := r.big, clamped := false,
      invalid := (fp32.decode r.bits).isNan && !(fp32.decode acc.toNat).isNan && !operandNan wt at' wb ab n m }

/-- Accumulator word of a row and column. -/
def Matrix.word (e : Matrix) (row col : Nat) : W32 := tget 0#32 e.acc (row % 512 * 512 + col)
def Matrix.setWord (e : Matrix) (row col : Nat) (w : W32) : Matrix := { e with acc := tset0 e.acc (row % 512 * 512 + col) w }

/-- Apply an MMA to the engine, given the activation tile's bytes. -/
def Matrix.mma (e : Matrix) (o : MatOp) (ab : List Byte) : Matrix :=
  let b := o.bankOf e
  let wt : Tile := { fmt := b.fmt.toNat, rows := arrN b.arr.toNat, len := arrK b.fmt.toNat b.arr.toNat b.sparse, sparse := b.sparse }
  let at' := o.tile e
  (List.range o.m).foldl (fun e m => (List.range wt.rows).foldl (fun e n =>
    let r := mmaWord wt at' b.bytes ab (if bitAt o.mod.toNat 4 then e.word (o.row + m) n else 0#32) n m
    { e.setWord (o.row + m) n r.word with
      invalid := e.invalid || r.invalid, overflow := e.overflow || r.overflow, intSat := e.intSat || r.clamped }) e) e

/-- Logical multiply-accumulates of an MMA (R465). -/
def MatOp.macs (o : MatOp) (e : Matrix) : Nat := o.m * arrN (o.bankOf e).arr.toNat * (o.tile e).len

/-! ## MDRAIN (R202 to R204) -/

/-- Convert one accumulator word to a format without scales. -/
def drainWord (o : MatOp) (w : W32) : Enc :=
  let fmt := o.fmt.toNat
  if bitAt o.mod.toNat 6 then
    if fmt = 0xF then { bits := w.toNat, big := false, cut := false }
    else if fmt = 1 then fp32.encode false (Val.ofInt w.toInt)
    else encInt (fmtWidth fmt) (rneInt w.toInt (bitField o.mod.toNat 11 7))
  else if fmt = 1 then { bits := w.toNat, big := false, cut := false }
  else
    let r := encVal fmt (bitAt o.mod.toNat 5) (fp32.decode w.toNat)
    if fmt = 2 ∧ r.bits % 2 ^ 15 / 2 ^ 7 = 0 then { r with bits := r.bits / 2 ^ 15 * 2 ^ 15 } else r

/-- The words of one row as MX blocks: scales, codes, and whether any was cut. -/
def drainBlocks (o : MatOp) (ws : List W32) : List (Nat × List Nat × Bool) :=
  (List.range (ws.length / 32)).map fun b =>
    mxBlock o.fmt.toNat (((ws.drop (32 * b)).take 32).map fun w => fp32.decode w.toNat)

/-- The words an MDRAIN reads, row by row. -/
def Matrix.drainRows (e : Matrix) (o : MatOp) : List (List W32) :=
  (List.range o.m).map fun r => (List.range o.cols).map fun c => e.word (o.row + r) c

/-- Element plane, scale plane and OVERFLOW of an MDRAIN. -/
def Matrix.drain (e : Matrix) (o : MatOp) : List Byte × List Byte × Bool :=
  let rows := e.drainRows o
  if isMx o.fmt.toNat then
    let bl := rows.map (drainBlocks o)
    (packElems (fmtWidth o.fmt.toNat) (bl.flatten.flatMap fun b => b.2.1), bl.flatten.map fun b => BitVec.ofNat 8 b.1,
     bl.flatten.any fun b => b.2.2)
  else
    let l := rows.flatten.map (drainWord o)
    (packElems (fmtWidth o.fmt.toNat) (l.map fun r => r.bits), [], l.any fun r => r.big || r.cut)

/-- Zero the rows of an operation, all 512 columns (R192). -/
def Matrix.zeroRows (e : Matrix) (rows : List Nat) : Matrix :=
  { e with acc := e.acc.filter fun x => !rows.contains (x.1 / 512) }

/-- With CLR set, the rows that an MDRAIN reads are zeroed (R192). -/
def Matrix.clearRead (e : Matrix) (o : MatOp) : Matrix := if bitAt o.mod.toNat 4 then e.zeroRows o.rows else e

/-! ## Start and completion -/

/-- Unit whose uncorrectable error a start reports (R419): weight banks for an MMA, the accumulator for the drain path,
the engine queues for an MWLD. -/
def MKind.unit : MKind → Nat
  | .mma => 3
  | .mwld => 5
  | .mdrain => 4
  | .mzero => 4

/-- Change the matrix engine of a core. -/
def State.modMe (s : State) (c : Nat) (f : Matrix → Matrix) : State := s.modCore c fun k => { k with me := f k.me }

/-- What stops a started MWLD or MMA: its range, its format, a marked line (R194, R196, R420). -/
def matStop (s : State) (c : Nat) (j : Job) (o : MatOp) : Option (BitVec 16 × W64) :=
  let e := (s.core c).me
  let b := o.bankOf e
  match o.kind with
  | .mma =>
    let beyond := match o.scratch with
      | .work off => firstBeyond off (o.tile e).size j.workLen
      | .lane l _ off => (firstBeyond off (o.tile e).size (s.recvLane c j l).tileBytes).map fun x => l * 2 ^ 58 + x
    (match beyond with
     | some x => some (Config.SCRATCH_RANGE, BitVec.ofNat 64 x)
     | none => if b.fmt = o.fmt then none else some (Config.FORMAT_MISMATCH, BitVec.ofNat 64 (16 * o.fmt.toNat + b.fmt.toNat)))
  | _ => none

/-- The effect of a start (R192, R200): an MWLD fills its bank, an MMA updates the accumulator. -/
def matBegin (s : State) (c n : Nat) (j : Job) (o : MatOp) : State :=
  let t := o.tile (s.core c).me
  match matStop s c j o with
  | some x => haltAt s c x.1 o.pc x.2
  | none =>
    match (if o.reads then s.opndBad c j o.scratch t.size else none) with
    | some b => sramHalt s c o.pc 0 b
    | none =>
      let bytes := s.opndRead c j o.scratch t.size
      let o := { o with size := t.size, ends := s.arithCycle + o.occupancy t.size }
      let s := s.modMe c fun e => { e with running := e.running ++ [o] }
      match o.kind with
      | .mwld => s.modMe c fun e =>
        let b : Bank := { fmt := o.fmt, arr := BitVec.ofNat 2 o.mod.toNat, sparse := t.sparse, bytes := bytes }
        if bitAt o.mod.toNat 2 then { e with bank1 := b } else { e with bank0 := b }
      | .mma =>
        let e := (s.core c).me
        let s := pmJob (pmJob s (some n) 2 o.m) (some n) (o.fmt.toNat + if (o.bankOf e).sparse then 35 else 22) (o.macs e)
        s.modMe c fun e => e.mma o bytes
      | _ => s

/-- MATRIX_OP_START (R197, R198): the oldest queued operation starts once its path is free and its hazards are clear. -/
def matStart (s : State) (c : Nat) (err : SramErr) : State :=
  match s.engaged c, (s.core c).me.queue with
  | some (n, j), o :: r =>
    if (s.core c).me.running.any (o.waitsFor (s.core c).me s.arithCycle) then s
    else
      let s := s.modMe c fun e => { e with queue := r }
      match err with
      | .uncorrectable => sramHalt s c o.pc o.kind.unit 0
      | .corrected => matBegin (frCorrected s 4) c n j o
      | .none => matBegin s c n j o
  | _, _ => s

/-- Take the oldest running operation of a path out. -/
def takePath (p : MPath) : List MatOp → Option (MatOp × List MatOp)
  | [] => none
  | o :: r => if o.kind.path = p then some (o, r) else match takePath p r with
      | some x => some (x.1, o :: x.2)
      | none => none

/-- The effect of a completion: an MDRAIN writes its tile, an MZERO zeroes its rows. -/
def matEnd (s : State) (c : Nat) (j : Job) (o : MatOp) : State := match o.kind with
  | .mdrain =>
    let e := (s.core c).me
    let d := e.drain o
    let t := o.tile e
    let s := opndWrite s c j o.scratch d.1
    let s := if d.2.1.isEmpty then s else opndWrite s c j (o.scratch.plus t.scaleOff) d.2.1
    s.modMe c fun e => { e.clearRead o with overflow := e.overflow || d.2.2 }
  | .mzero => s.modMe c fun e => e.zeroRows o.rows
  | _ => s

/-- MATRIX_OP_COMPLETE (R200). -/
def matComplete (s : State) (c : Nat) (p : MPath) : State :=
  match s.engaged c, takePath p (s.core c).me.running with
  | some (_, j), some (o, r) =>
    sendSignal (matEnd (s.modMe c fun e => { e with running := r }) c j o) c o.pc false o.sig
  | _, _ => s

/-! ## Issue -/

/-- The scratch operand of a matrix instruction: IMM + A. -/
def State.matOpnd (s : State) (c : Nat) (j : Job) (i : Ins) (len : Nat) : Except OpndErr SOp :=
  s.scratchOpnd c j (i.imm + ((s.core c).reg i.a).setWidth 32) len

/-- An operation of an instruction. -/
def matOp (k : Core) (i : Ins) (kind : MKind) (o : SOp) (sig : Sig) : MatOp :=
  { kind := kind, fmt := BitVec.ofNat 4 i.fmt, mod := BitVec.ofNat 16 i.mod, scratch := o,
    row := (k.reg i.c).toNat % 512, m := i.x, size := 0, ends := 0, pc := k.pc - 16, sig := sig }

/-- The verdict on an MDRAIN's destination: lane form is out of range (R196). -/
def drainOpnd (v : W32) : Except OpndErr SOp → Except OpndErr SOp
  | .ok (.lane _ _ _) => .error (.range (BitVec.ofNat 64 (bitField v.toNat 30 25 * 2 ^ 58 + bitField v.toNat 24 0)))
  | r => r

/-- The operand check of a matrix instruction at issue. An MMA's size follows from the bank it finds at its start, so at
issue its first byte alone is checked. -/
def State.matCheck (s : State) (c : Nat) (j : Job) (i : Ins) (kind : MKind) : Except OpndErr SOp :=
  let o := matOp (s.core c) i kind (.work 0) .none
  match kind with
  | .mwld => s.matOpnd c j i (o.tile (s.core c).me).size
  | .mma => s.matOpnd c j i 1
  | .mdrain =>
    let v := i.imm + ((s.core c).reg i.a).setWidth 32
    drainOpnd v (if v.msb then s.matOpnd c j i 0 else s.matOpnd c j i (o.tile (s.core c).me).size)
  | .mzero => .ok (.work 0)

/-- A matrix row: the instruction enters the engine's queue of four (R155, R192). -/
def matRow (s : State) (c op : Nat) (kind : MKind) : State :=
  coreRow s c op matrixLegalFor
    (fun s j i => { (Plan.plain.withOpnd (s.matCheck c j i kind)) with
      format := if kind = .mma then wfmtFault i else none, room := decide ((s.core c).me.queue.length < 4) })
    fun s _ j i sig => match s.matCheck c j i kind with
      | .ok o => s.modMe c fun e => { e with queue := e.queue ++ [matOp (s.core c) i kind o sig] }
      | .error _ => s

/-! ## The commands -/

def execMwld (core : BitVec 4) (s : State) : Host.Outcome State Fault Refusal := .next (matRow s core.toNat 0x40 .mwld)
def execMma (core : BitVec 4) (s : State) : Host.Outcome State Fault Refusal := .next (matRow s core.toNat 0x41 .mma)
def execMdrain (core : BitVec 4) (s : State) : Host.Outcome State Fault Refusal := .next (matRow s core.toNat 0x42 .mdrain)
def execMzero (core : BitVec 4) (s : State) : Host.Outcome State Fault Refusal := .next (matRow s core.toNat 0x43 .mzero)

def execMatrixOpStart (core : BitVec 4) (err : SramErr) (s : State) : Host.Outcome State Fault Refusal :=
  .next (matStart s core.toNat err)

def execMatrixOpComplete (core : BitVec 4) (path : MPath) (s : State) : Host.Outcome State Fault Refusal :=
  .next (matComplete s core.toNat path)

end Sys2Proof.Machine
end

