-- ==== Sys2Proof/Machine/Vector.lean ====
section
/-! DEFINITION. The vector engine (R209 to R238): encodings, chain groups, the element operations, and the start and
completion of a group. -/

namespace Sys2Proof.Machine

/-! ## Encodings (R213 to R216, R225, R230, R231) -/

/-- What an opcode does with a source. -/
inductive Role where
  | unused
  | value
  | mask
  /-- the count word of VCOMPRESS -/
  | count
  /-- the packed source of VEXPAND -/
  | packed
  deriving DecidableEq, Repr

/-- Format sets of R225. -/
inductive FmtSet where
  | arith | float | any | none
  deriving DecidableEq, Repr

/-- Whether a format lies in a set. -/
def FmtSet.has : FmtSet → Nat → Bool
  | .arith, f => decide (1 ≤ f) && decide (f ≤ 6) || f == 0xF
  | .float, f => decide (1 ≤ f) && decide (f ≤ 5)
  | .any, f => decide (1 ≤ f) && decide (f ≤ 0xF)
  | .none, f => f == 0

/-- Roles of A, B and C and the format set of an opcode (R231). -/
def vecRoles : Nat → Option (Role × Role × Role × FmtSet)
  | 0x80 => some (.value, .value, .unused, .arith)
  | 0x81 => some (.value, .value, .unused, .arith)
  | 0x82 => some (.value, .value, .unused, .arith)
  | 0x83 => some (.value, .value, .value, .arith)
  | 0x84 => some (.value, .value, .unused, .arith)
  | 0x85 => some (.value, .value, .unused, .arith)
  | 0x86 => some (.value, .value, .value, .arith)
  | 0x87 => some (.value, .unused, .unused, .arith)
  | 0x88 => some (.value, .unused, .unused, .arith)
  | 0x89 => some (.value, .unused, .unused, .arith)
  | 0x8A => some (.value, .unused, .unused, .float)
  | 0x8B => some (.value, .unused, .unused, .float)
  | 0x8C => some (.value, .unused, .unused, .float)
  | 0x8D => some (.value, .unused, .unused, .float)
  | 0x8E => some (.value, .unused, .unused, .float)
  | 0x90 => some (.value, .value, .unused, .arith)
  | 0x91 => some (.value, .value, .mask, .arith)
  | 0x92 => some (.mask, .mask, .unused, .none)
  | 0x93 => some (.mask, .mask, .unused, .none)
  | 0x94 => some (.mask, .unused, .unused, .none)
  | 0x98 => some (.value, .unused, .unused, .arith)
  | 0x99 => some (.value, .unused, .unused, .arith)
  | 0x9A => some (.value, .unused, .unused, .arith)
  | 0xA0 => some (.value, .unused, .unused, .any)
  | 0xA8 => some (.value, .mask, .count, .arith)
  | 0xA9 => some (.packed, .mask, .value, .arith)
  | _ => none

/-- Whether a source kind and field suit a role and format (R213). A CHAIN source A of VEXPAND passes here and breaks
R219 case 6. -/
def sourceOk (role : Role) (fmt kind field : Nat) : Bool := match role with
  | .unused => kind == 0 && field == 0
  | .value => decide (1 ≤ kind) && decide (kind ≤ 5) && (kind != 5 || decide (field ≤ 3)) &&
      (kind != 4 || !(fmt == 7 || isMx fmt))
  | .mask => kind == 1 || (kind == 5 && decide (field ≤ 3))
  | .count => kind == 1
  | .packed => kind == 1 || (kind == 5 && decide (field ≤ 3))

/-- Result format of an opcode: 0 a mask. -/
def vecResult (op fmt sub : Nat) : Nat := if 0x90 = op ∨ (0x92 ≤ op ∧ op ≤ 0x94) then 0 else if op = 0xA0 then sub else fmt

/-- SUB of an opcode (R216). -/
def subOk (op sub : Nat) : Bool := match op with
  | 0x90 => decide (sub ≤ 5)
  | 0xA0 => decide (1 ≤ sub)
  | _ => sub == 0

/-- Static legality of a vector instruction. -/
def vectorLegal (i : Ins) : Bool := match vecRoles i.op with
  | none => false
  | some (ra, rb, rc, fs) =>
    let sub := bitField i.mod 14 11
    let res := vecResult i.op i.fmt sub
    let shift := bitField i.x 9 5
    i.pad == 0 && waitOk i.wait && signalOk i.signal && fs.has i.fmt && !bitAt i.mod 15 && subOk i.op sub &&
      sourceOk ra i.fmt (bitField i.mod 2 0) i.a && sourceOk rb i.fmt (bitField i.mod 5 3) i.b &&
      sourceOk rc i.fmt (bitField i.mod 8 6) i.c &&
      (!bitAt i.mod 10 || res == 4 || res == 5) &&
      (shift == 0 || (i.op == 0xA0 && isIntFmt sub)) &&
      (if bitAt i.mod 9 then bitField i.x 4 0 == 0 && i.imm == 0#32 else bitField i.x 11 10 == 0)

/-! ## Queued operations -/

def VecOp.ofmt (o : VecOp) : Nat := bitField o.mod.toNat 14 11
def VecOp.result (o : VecOp) : Nat := vecResult o.op.toNat o.fmt.toNat o.ofmt
def VecOp.toChain (o : VecOp) : Bool := bitAt o.mod.toNat 9
def VecOp.kind (o : VecOp) (n : Nat) : Nat := bitField o.mod.toNat (3 * n + 2) (3 * n)
def VecOp.role (o : VecOp) (n : Nat) : Role := match vecRoles o.op.toNat with
  | some (a, b, c, _) => (match n with | 0 => a | 1 => b | _ => c)
  | none => .unused
def VecOp.value (o : VecOp) (n : Nat) : W32 := ((match n with | 0 => o.a | 1 => o.b | _ => o.c).setWidth 32)
def VecOp.field (o : VecOp) (n : Nat) : Nat := match n with | 0 => o.aField | 1 => o.bField | _ => o.cField

/-- LEN and ROWLEN (R210). -/
def VecOp.len (o : VecOp) : Nat := bitField o.shape.toNat 23 0
def VecOp.rowLen (o : VecOp) : Nat := if bitField o.shape.toNat 47 32 = 0 then o.len else bitField o.shape.toNat 47 32
def VecOp.rows (o : VecOp) : Nat := o.len / o.rowLen

/-- The bits of a shape that count (R219 case 4). -/
def VecOp.shapeBits (o : VecOp) : Nat × Nat := (o.len, bitField o.shape.toNat 47 32)

/-- A scratch operand value with the ring slot it resolved to. -/
def resolved (v : W32) (slot : Nat) : SOp :=
  if v.msb then .lane (bitField v.toNat 30 25) slot (bitField v.toNat 24 0) else .work v.toNat

/-- Scratch operand of source n. -/
def VecOp.src (o : VecOp) (n : Nat) : SOp := resolved (o.value n) (o.slots.getD n 0)

/-- Bytes of n elements with their scale plane; format 0 is a mask (R212). A last partial block has a scale too. -/
def streamScale (fmt n : Nat) : Nat := roundUp 128 (ceilDiv (n * fmtWidth fmt) 8)
def streamSize (fmt n : Nat) : Nat :=
  if fmt = 0 then ceilDiv n 8
  else if isMx fmt then streamScale fmt n + ceilDiv n 32
  else ceilDiv (n * fmtWidth fmt) 8

/-- Format in which source n is read: 0 for a mask. -/
def VecOp.srcFmt (o : VecOp) (n : Nat) : Nat := match o.role n with
  | .mask => 0
  | _ => o.fmt.toNat

/-- Elements and bytes of source n, for the kinds that lie in scratch (R215). -/
def VecOp.srcCount (o : VecOp) (n : Nat) : Nat := match o.kind n with
  | 1 => o.len
  | 2 => o.rowLen
  | _ => o.rows
def VecOp.srcSize (o : VecOp) (n : Nat) : Nat := match o.role n with
  | .count => 4
  | _ => streamSize (o.srcFmt n) (o.srcCount n)

/-- Sources of an operation that lie in scratch. -/
def VecOp.scratchSrcs (o : VecOp) : List Nat := (List.range 3).filter fun n => decide (1 ≤ o.kind n) && decide (o.kind n ≤ 3)

/-- Reductions (R232). -/
def VecOp.reduces (o : VecOp) : Bool := o.op == 0x98#8 || o.op == 0x99#8 || o.op == 0x9A#8

/-- Elements of the result, and bytes of a scratch destination. -/
def VecOp.resCount (o : VecOp) : Nat := if o.reduces then o.rows else o.len
def VecOp.destSize (o : VecOp) : Nat := streamSize o.result o.resCount

/-- Scratch operand of the destination. -/
def VecOp.destOp (o : VecOp) : SOp := resolved o.dest 0

/-! ## Groups (R218, R219) -/

/-- The group at the front of a queue: up to four members, the last of which writes scratch (R218). -/
def formGroup : Nat → List VecOp → Option (List VecOp × List VecOp)
  | _, [] => none
  | 0, _ => none
  | n + 1, o :: r =>
    if !o.toChain || n == 0 then some ([o], r)
    else match formGroup n r with
      | some g => some (o :: g.1, g.2)
      | none => none

/-- Whether a shape or operand value of a member breaks R211 to R213 or R233. -/
def VecOp.badValue (o : VecOp) : Bool :=
  o.len == 0 || o.len % o.rowLen != 0 ||
    (let fs := if o.op = 0xA0#8 then [o.fmt.toNat, o.ofmt] else [o.fmt.toNat]
     fs.any fun f => (f == 7 && o.rowLen % 2 != 0) || (isMx f && o.rowLen % 32 != 0)) ||
    ((List.range 3).any fun n => o.kind n == 2 && decide (8192 < o.srcSize n)) ||
    ((List.range 3).any fun n => o.role n == .count && ((o.value n).msb || (o.value n).toNat % 4 != 0))

/-- ROWVEC sources of an operation. -/
def VecOp.rowvecs (o : VecOp) : Nat := ((List.range 3).filter fun n => o.kind n == 2).length

/-- Chain sources of an operation. -/
def VecOp.chains (o : VecOp) : List Nat := (List.range 3).filter fun n => o.kind n == 5

/-- The case of R219 that member `o`, after `before`, breaks; `last` says whether it ends the group. -/
def memberFault (before : List VecOp) (o : VecOp) (last : Bool) : Option Nat :=
  let written (r : Nat) : Option VecOp := before.find? fun p => p.toChain && p.dch == r
  if o.chains.any fun n => (written (o.field n)).isNone then some 1
  else if o.toChain && (written o.dch).isSome then some 2
  else if before.length = 3 ∧ o.toChain = true then some 3
  else if (match before.head? with | some f => f.shapeBits != o.shapeBits | none => false) then some 4
  else if o.chains.any fun n => (match written (o.field n) with | some p => p.result != o.srcFmt n | none => false) then some 5
  else if ((o.reduces || o.op == 0xA8#8) && !(last && !o.toChain)) || (o.op == 0xA9#8 && o.kind 0 == 5) then some 6
  else if 4 < (before.map VecOp.rowvecs).sum + o.rowvecs then some 7
  else if o.badValue then some 8
  else none

/-- The first member of a group that breaks R219, and the case. -/
def groupFault : List VecOp → List VecOp → Option (VecOp × Nat)
  | _, [] => none
  | before, o :: r => match memberFault before o r.isEmpty with
    | some k => some (o, k)
    | none => groupFault (before ++ [o]) r

/-- SCRATCH_RANGE of a scratch operand (R171, R215). -/
def State.beyond (s : State) (c : Nat) (j : Job) (o : SOp) (len : Nat) : Option W64 := match o with
  | .work off => (firstBeyond off len j.workLen).map (BitVec.ofNat 64)
  | .lane l _ off => (firstBeyond off len (s.recvLane c j l).tileBytes).map fun x => BitVec.ofNat 64 (l * 2 ^ 58 + x)

/-- The first operand of a member out of range: sources, then the destination, which may not be in lane form (R214). -/
def State.memberRange (s : State) (c : Nat) (j : Job) (o : VecOp) : Option W64 :=
  match o.scratchSrcs.findSome? fun n => s.beyond c j (o.src n) (o.srcSize n) with
  | some d => some d
  | none =>
    if o.toChain then none
    else match o.destOp with
      | .lane l _ off => some (BitVec.ofNat 64 (l * 2 ^ 58 + off))
      | .work _ => s.beyond c j o.destOp o.destSize

/-- Byte ranges that a group writes: its destination, and the count word of VCOMPRESS. -/
def groupWrites (g : List VecOp) : List (SOp × Nat) := match g.getLast? with
  | some o => (o.destOp, o.destSize) :: (if o.op = 0xA8#8 then [(o.src 2, 4)] else [])
  | none => []

/-- Byte ranges that a group reads. -/
def groupReads (g : List VecOp) : List (SOp × Nat) :=
  g.flatMap fun o => (o.scratchSrcs.filter fun n => o.role n != .count).map fun n => (o.src n, o.srcSize n)

/-- Two sets of ranges have a byte in common. -/
def meet (a b : List (SOp × Nat)) : Bool := a.any fun x => b.any fun y => sameBytes x.1 x.2 y.1 y.2

/-! ## Occupancy (R209, R220, R221) -/

/-- W of a format. -/
def chunkOf (fmt : Nat) : Nat := match fmtWidth fmt with | 32 => 512 | 16 => 1024 | _ => 2048

/-- W of a member. -/
def VecOp.chunk (o : VecOp) : Nat := if o.op = 0xA0#8 then min (chunkOf o.fmt.toNat) (chunkOf o.ofmt) else chunkOf o.fmt.toNat

/-- Cycles per chunk of a member. -/
def VecOp.cycles (o : VecOp) : Nat :=
  (if 0x8A ≤ o.op.toNat ∧ o.op.toNat ≤ 0x8E then 4 else 1) +
    (if ((List.range 3).all fun n => o.kind n == 1) = true then 1 else 0)

/-- Occupancy of a group. -/
def occupancy (g : List VecOp) : Nat :=
  let len := match g.head? with | some o => o.len | none => 0
  let w := g.foldl (fun a o => min a o.chunk) 2048
  ceilDiv len w * (g.map VecOp.cycles).sum +
    (g.map fun o => (((List.range 3).filter fun n => o.kind n == 2).map fun n => ceilDiv (o.srcSize n) 4096).sum).sum

/-! ## Elements (R227 to R235) -/

/-- One result element: its code and what it raises. -/
structure VRes where
  code : Nat
  invalid : Bool
  zeroDiv : Bool
  overflow : Bool
  intSat : Bool
  deriving DecidableEq, Repr

/-- A plain code. -/
def VRes.code' (n : Nat) : VRes := { code := n, invalid := false, zeroDiv := false, overflow := false, intSat := false }

/-- An exact result written in a format; `nanIn` says whether an operand was NaN. -/
def writeVal (fmt : Nat) (sat nanIn : Bool) (v : Val) : VRes :=
  let e := encVal fmt sat v
  { code := e.bits, invalid := v.isNan && !nanIn, zeroDiv := false, overflow := e.big, intSat := isIntFmt fmt && e.cut }

/-- A correctly rounded result, or a free code where the bounds do not decide it (log entry 5). -/
def writeEnc (free : Nat) (fmt : Nat) : Option Enc → VRes
  | some e => { VRes.code' e.bits with overflow := e.big }
  | none => VRes.code' ((Config.freeWord free).toNat % 2 ^ fmtWidth fmt)

/-- Float layout of a FLOAT format. -/
def floatOf (fmt : Nat) : FloatFmt := (elemFloat fmt).getD fp32

/-- VRCP, VRSQRT, VSQRT, VEXP2 and VLOG2 of one element (R227, R229, R231). -/
def vecFloat (op fmt : Nat) (sat : Bool) (free : Nat) (a : Val) : VRes :=
  let out := writeVal fmt sat a.isNan
  match op, a with
  | _, .nan => out .nan
  | 0x8A, .inf n => out (.fin n 0 0)
  | 0x8A, .fin n m e => if m = 0 then { out (.inf n) with zeroDiv := true } else out (recip n m e)
  | 0x8B, .inf n => if n then out .nan else out Val.zero
  | 0x8B, .fin n m e =>
    if m = 0 then { out (.inf n) with zeroDiv := true } else if n then out .nan else out (recipRoot m e)
  | 0x8C, .inf n => if n then out .nan else out (.inf false)
  | 0x8C, .fin n m e => if m = 0 then out (.fin n 0 0) else if n then out .nan else out (rootOf' m e)
  | 0x8D, v => writeEnc free fmt (exp2Val (floatOf fmt) sat v)
  | _, .inf n => if n then out .nan else out (.inf false)
  | _, .fin n m e =>
    if m = 0 then { out (.inf true) with zeroDiv := true } else if n then out .nan
    else writeEnc free fmt (log2Fin (floatOf fmt) sat m e)

/-- Element operations with up to three value sources (R231). -/
def vecArith (op fmt : Nat) (sat : Bool) (a b c : Val) : VRes :=
  let two := a.isNan || b.isNan
  let three := two || c.isNan
  match op with
  | 0x80 => writeVal fmt sat two (a.add b)
  | 0x81 => writeVal fmt sat two (a.add b.negate)
  | 0x82 => writeVal fmt sat two (a.mul b)
  | 0x83 => writeVal fmt sat three ((a.mul b).add c)
  | 0x84 => writeVal fmt sat two (a.minV b)
  | 0x85 => writeVal fmt sat two (a.maxV b)
  | 0x86 => writeVal fmt sat three (if three then .nan else (a.maxV b).minV c)
  | 0x87 => writeVal fmt sat a.isNan a.abs
  | 0x88 => writeVal fmt sat a.isNan a.negate
  | _ => writeVal fmt sat a.isNan a

/-- A comparison of VCMP (R227, R231). -/
def vecCmp (cond : Nat) (a b : Val) : Bool :=
  if a.isNan || b.isNan then cond == 1
  else match cond with
    | 0 => !a.lt b && !b.lt a
    | 1 => a.lt b || b.lt a
    | 2 => a.lt b
    | 3 => !b.lt a
    | 4 => b.lt a
    | _ => !a.lt b

/-- VCVT of one element to a format without scales (R235). -/
def vecCvt (fmt ofmt shift : Nat) (sat : Bool) (a : Val) : VRes :=
  if isIntFmt ofmt && fmt != ofmt then
    let e := encToInt ofmt shift a
    { VRes.code' e.bits with invalid := a.isNan || a.isInf, overflow := e.cut }
  else
    let e := encVal ofmt sat a
    { VRes.code' e.bits with overflow := e.big || e.cut }

/-- One reduced row (R232). -/
def vecReduce (op fmt : Nat) (sat : Bool) (row : List Val) : VRes :=
  let nanIn := row.any Val.isNan
  match op with
  | 0x98 =>
    if isIntFmt fmt then writeVal fmt sat false (Val.ofInt ((row.map (truncAt 0)).foldl (fun a b => a + b) 0))
    else writeVal fmt sat nanIn (rowSum row)
  | 0x99 => writeVal fmt sat nanIn (match row with | [] => Val.zero | v :: r => r.foldl Val.maxV v)
  | _ => writeVal fmt sat nanIn (match row with | [] => Val.zero | v :: r => r.foldl Val.minV v)

/-! ## Streams -/

/-- A result stream: its format (0 a mask), element codes and MX scales. -/
structure VStream where
  fmt : Nat
  codes : List Nat
  scales : List Nat
  deriving DecidableEq, Repr

/-- Values of a stream. -/
def VStream.vals (v : VStream) : List Val := v.codes.zipIdx.map fun x => scaledVal v.fmt x.1 (v.scales.getD (x.2 / 32) 0)

/-- The n elements of a stream in memory. -/
def readStream (bs : List Byte) (fmt n : Nat) : VStream :=
  if fmt = 0 then { fmt := 0, codes := (List.range n).map fun i => bitField (leAt bs (i / 8) 1) (i % 8) (i % 8), scales := [] }
  else { fmt := fmt, codes := (List.range n).map (elemAt bs 0 (fmtWidth fmt)),
         scales := if isMx fmt then (List.range (ceilDiv n 32)).map fun i => leAt bs (streamScale fmt n + i) 1 else [] }

/-- Source n of a member as a stream of LEN elements (R213). -/
def State.source (s : State) (c : Nat) (j : Job) (o : VecOp) (chain : List (Nat × VStream)) (n : Nat) : VStream :=
  let fmt := o.srcFmt n
  let raw := readStream (s.opndRead c j (o.src n) (o.srcSize n)) fmt (o.srcCount n)
  let at' (f : Nat → Nat) : VStream :=
    { fmt := fmt, codes := (List.range o.len).map fun i => raw.codes.getD (f i) 0,
      scales := (List.range (ceilDiv o.len 32)).map fun i => raw.scales.getD (f (32 * i) / 32) 0 }
  match o.kind n with
  | 1 => raw
  | 2 => at' fun i => i % o.rowLen
  | 3 => { at' (fun i => i / o.rowLen) with fmt := fmt }
  | 4 => { fmt := fmt, codes := List.replicate o.len ((o.value n).toNat % 2 ^ fmtWidth fmt), scales := [] }
  | _ => tget { fmt := fmt, codes := [], scales := [] } chain (o.field n)

/-- Values of source n. A PERROW source of an MX format takes the scale of its own block. -/
def State.sourceVals (s : State) (c : Nat) (j : Job) (o : VecOp) (chain : List (Nat × VStream)) (n : Nat) : List Val :=
  if o.kind n = 3 then
    let v := (readStream (s.opndRead c j (o.src n) (o.srcSize n)) (o.srcFmt n) o.rows).vals
    (List.range o.len).map fun i => v.getD (i / o.rowLen) Val.zero
  else (s.source c j o chain n).vals

/-- Bits of a mask source. -/
def State.sourceMask (s : State) (c : Nat) (j : Job) (o : VecOp) (chain : List (Nat × VStream)) (n : Nat) : List Bool :=
  (s.source c j o chain n).codes.map fun b => b == 1

/-- What a member gives: its stream, and element by element what it raises. -/
structure MemberOut where
  out : VStream
  res : List VRes
  deriving DecidableEq, Repr

/-- Flags that a member raises. -/
def MemberOut.invalid (m : MemberOut) : Bool := m.res.any fun r => r.invalid
def MemberOut.zeroDiv (m : MemberOut) : Bool := m.res.any fun r => r.zeroDiv
def MemberOut.overflow (m : MemberOut) : Bool := m.res.any fun r => r.overflow
def MemberOut.intSat (m : MemberOut) : Bool := m.res.any fun r => r.intSat

/-- Collect elements into a member's result. -/
def collect (fmt : Nat) (l : List VRes) : MemberOut :=
  { out := { fmt := fmt, codes := l.map fun r => r.code, scales := [] }, res := l }

/-- A mask result. -/
def collectMask (l : List Bool) : MemberOut := collect 0 (l.map fun b => VRes.code' (b2n b))

/-- Blocks of 32 of a list. -/
def blocks32 : Nat → List Val → List (List Val)
  | 0, _ => []
  | n + 1, l => if l.isEmpty then [] else l.take 32 :: blocks32 n (l.drop 32)

/-- VCVT to an MX format (R203, R235). A block whose scale would exceed the largest has no stated result: its scale and
codes are free values (log entry 5). -/
def cvtMx (fmt : Nat) (free : Nat) (vals : List Val) : MemberOut :=
  let bl := (blocks32 (vals.length / 32 + 1) vals).zipIdx.map fun x =>
    let b := mxBlock fmt x.1
    if 255 < b.1 ∨ (b.1 = 255 ∧ ¬(x.1.any fun v => v.isNan || v.isInf) = true) then
      ((Config.freeWord (free + x.2)).toNat % 256,
       x.1.zipIdx.map (fun y => (Config.freeWord (free + 32 * x.2 + y.2)).toNat % 2 ^ fmtWidth fmt), false)
    else b
  { out := { fmt := fmt, codes := bl.flatMap fun b => b.2.1, scales := bl.map fun b => b.1 },
    res := bl.flatMap fun b => b.2.1.map fun code => { VRes.code' code with overflow := b.2.2 } }

/-- The packed elements of VEXPAND spread over a mask (R234). -/
def spread {α : Type} (zero : α) : List α → List Bool → List α → List α
  | _, [], _ => []
  | p, true :: m, c => p.headD zero :: spread zero p.tail m c.tail
  | p, false :: m, c => c.headD zero :: spread zero p m c.tail

/-- Three value lists walked together. -/
def zip3 (a b c : List Val) : List (Val × Val × Val) := a.zip (b.zip c)

/-- One member of a group (R231). `free` numbers the free values it may draw. -/
def State.member (s : State) (c : Nat) (j : Job) (o : VecOp) (chain : List (Nat × VStream)) (free : Nat) : MemberOut :=
  let op := o.op.toNat
  let fmt := o.fmt.toNat
  let sat := bitAt o.mod.toNat 10
  let va (n : Nat) : List Val :=
    if o.kind n = 0 then List.replicate o.len Val.zero else s.sourceVals c j o chain n
  let ma (n : Nat) : List Bool := s.sourceMask c j o chain n
  if op ≤ 0x89 then collect fmt ((zip3 (va 0) (va 1) (va 2)).map fun x => vecArith op fmt sat x.1 x.2.1 x.2.2)
  else if op ≤ 0x8E then collect fmt ((va 0).zipIdx.map fun x => vecFloat op fmt sat (free + x.2) x.1)
  else match op with
    | 0x90 => collectMask (((va 0).zip (va 1)).map fun x => vecCmp o.ofmt x.1 x.2)
    | 0x91 => collect fmt (((ma 2).zip ((va 0).zip (va 1))).map fun x => writeVal fmt sat true (if x.1 then x.2.1 else x.2.2))
    | 0x92 => collectMask (((ma 0).zip (ma 1)).map fun x => x.1 && x.2)
    | 0x93 => collectMask (((ma 0).zip (ma 1)).map fun x => x.1 || x.2)
    | 0x94 => collectMask ((ma 0).map fun x => !x)
    | 0xA0 =>
      if fmt = o.ofmt then { collect fmt [] with out := s.source c j o chain 0 }
      else if isMx o.ofmt then cvtMx o.ofmt free (va 0)
      else collect o.ofmt ((va 0).map (vecCvt fmt o.ofmt o.shift sat))
    | 0xA8 => collect fmt ((((va 0).zip (ma 1)).filter fun x => x.2).map fun x => writeVal fmt sat true x.1)
    | 0xA9 => collect fmt ((spread Val.zero (va 0) (ma 1) (if o.kind 2 = 0 then [] else va 2)).map (writeVal fmt sat true))
    | _ =>
      let v := va 0
      collect fmt ((List.range o.rows).map fun r => vecReduce op fmt sat ((v.drop (r * o.rowLen)).take o.rowLen))

/-! ## The group's effect -/

/-- How many free values one member may draw. -/
def VecOp.draws (o : VecOp) : Nat := 64 * o.len + 64

/-- Results of the members in order: the chain registers, and each member's result. -/
def State.groupRun (s : State) (c : Nat) (j : Job) : Nat → List VecOp → List (Nat × VStream) → List (VecOp × MemberOut)
  | _, [], _ => []
  | free, o :: r, chain =>
    let m := s.member c j o chain free
    (o, m) :: s.groupRun c j (free + o.draws) r (if o.toChain then tput chain o.dch m.out else chain)

/-- Bytes of a mask; the bits past LEN in its last byte are free (log entry 5). -/
def maskBytes (free : Byte) (l : List Nat) : List Byte :=
  (List.range (ceilDiv l.length 8)).map fun b =>
    BitVec.ofNat 8 (((List.range 8).map fun i => 2 ^ i * l.getD (8 * b + i) (bitField free.toNat i i)).sum)

/-- The destination's planes: bytes at their offsets. -/
def planes (free : Byte) (o : VecOp) (v : VStream) : List (Nat × List Byte) :=
  if v.fmt = 0 then [(0, maskBytes free v.codes)]
  else (0, packElems (fmtWidth v.fmt) v.codes) ::
    (if isMx v.fmt then [(streamScale v.fmt o.resCount, v.scales.map (BitVec.ofNat 8))] else [])

/-- A source is in place with the group's destination: each chunk is read before it is written (R223). -/
def VecOp.inPlace (d o : VecOp) (n : Nat) : Bool :=
  o.kind n == 1 && o.src n == d.destOp && fmtWidth (o.srcFmt n) == fmtWidth d.result

/-- Element i of a source in scratch, or its block's scale, lies in the destination of `d`. -/
def VecOp.elemHit (d o : VecOp) (n i : Nat) : Bool :=
  let f := o.srcFmt n
  let w := if f = 0 then 1 else fmtWidth f
  let hit (off len : Nat) : Bool := sameBytes d.destOp d.destSize ((o.src n).plus off) len
  hit (i * w / 8) ((i * w + w - 1) / 8 - i * w / 8 + 1) || (isMx f && hit (streamScale f (o.srcCount n) + i / 32) 1)

/-- Elements of a source that the writes of the destination `d` may change before they are read: not those of a source in
place, and for a chain source those of the member that wrote it (R223). -/
def VecOp.openSource (d o : VecOp) (chain : List (Nat × List Bool)) (n : Nat) : List Bool :=
  let pick (f : Nat → Nat) : List Bool :=
    if d.inPlace o n then List.replicate o.len false else (List.range o.len).map fun i => d.elemHit o n (f i)
  match o.kind n with
  | 1 => pick fun i => i
  | 2 => pick fun i => i % o.rowLen
  | 3 => pick fun i => i / o.rowLen
  | 5 => tget [] chain (o.field n)
  | _ => List.replicate o.len false

/-- Whether any element of the same block of 32 is open: the blocks of an MX result share a scale. -/
def openBlocks (l : List Bool) : List Bool := l.zipIdx.map fun x => ((l.drop (x.2 / 32 * 32)).take 32).any fun b => b

/-- Elements of a member's result that an interleaving may change (R223). `mask` are the bits of its mask source. -/
def VecOp.openResult (d o : VecOp) (chain : List (Nat × List Bool)) (mask : List Bool) : List Bool :=
  let src (n : Nat) : List Bool := if o.role n = .count then List.replicate o.len false else d.openSource o chain n
  let all := (List.range o.len).map fun i => (src 0).getD i false || (src 1).getD i false || (src 2).getD i false
  let maskOpen : Bool := (src 1).any fun b => b
  if o.reduces then (List.range o.rows).map fun r => ((all.drop (r * o.rowLen)).take o.rowLen).any fun b => b
  else if o.op = 0xA8#8 then
    (if maskOpen then List.replicate o.len true else (((src 0).zip mask).filter fun x => x.2).map fun x => x.1)
  else if o.op = 0xA9#8 then (if maskOpen then List.replicate o.len true else spread false (src 0) mask (src 2))
  else if isMx o.result then openBlocks all
  else all

/-- The open elements of every member of a group, in order. -/
def State.groupOpen (s : State) (c : Nat) (j : Job) (d : VecOp) :
    Nat → List VecOp → List (Nat × VStream) → List (Nat × List Bool) → List (List Bool)
  | _, [], _, _ => []
  | free, o :: r, chain, opens =>
    let m := s.member c j o chain free
    let l := d.openResult o opens (s.sourceMask c j o chain 1)
    l :: s.groupOpen c j d (free + o.draws) r (if o.toChain then tput chain o.dch m.out else chain)
      (if o.toChain then tput opens o.dch l else opens)

/-- A stream whose open elements, with the scales of their blocks, are free values. -/
def VStream.freed (v : VStream) (free : Nat) (l : List Bool) : VStream :=
  let w := if v.fmt = 0 then 1 else fmtWidth v.fmt
  { v with
    codes := v.codes.zipIdx.map fun x => if l.getD x.2 false then (Config.freeWord (free + x.2)).toNat % 2 ^ w else x.1,
    scales := v.scales.zipIdx.map fun x =>
      if l.getD (32 * x.2) false then (Config.freeByte (free + x.2)).toNat else x.1 }

/-- A flag that the elements of a member raise, where the open ones raise what they like. -/
def MemberOut.raises (m : MemberOut) (l : List Bool) (free : Bool) (f : VRes → Bool) : Bool :=
  m.res.zipIdx.any fun x => if l.getD x.2 false then free else f x.1

/-- The group is in place with a STREAM source, or its destination meets no source (R223). -/
def cleanOverlap (g : List VecOp) : Bool := match g.getLast? with
  | none => true
  | some d => g.all fun o => (o.scratchSrcs.filter fun n => o.role n != .count).all fun n =>
      !sameBytes d.destOp d.destSize (o.src n) (o.srcSize n) ||
        d.inPlace o n

/-- Write planes of a destination. -/
def writePlanes (s : State) (c : Nat) (j : Job) (d : SOp) : List (Nat × List Byte) → State
  | [] => s
  | p :: r => writePlanes (opndWrite s c j (d.plus p.1) p.2) c j d r

/-- Slot of the counters that an opcode's elements count in (R465). -/
def vecSlot (op : Nat) : Nat :=
  if op ≤ 0x89 then 50 else if op ≤ 0x8E then 51 else if op ≤ 0x94 then 52 else if op ≤ 0x9A then 53
  else if op = 0xA0 then 54 else 55

/-- Change the vector engine of a core. -/
def State.modVe (s : State) (c : Nat) (f : Vector' → Vector') : State := s.modCore c fun k => { k with ve := f k.ve }

/-- Sticky flags of a completed group (R229). -/
def Vector'.raise (e : Vector') (i z o n : Bool) : Vector' :=
  { e with invalid := e.invalid || i, zeroDiv := e.zeroDiv || z, overflow := e.overflow || o, intSat := e.intSat || n }

/-- Whether VCOMPRESS may keep other elements than its mask names now, since its destination covers mask bytes (R223). -/
def openCount (d : VecOp) (l : List Bool) : Bool := d.op == 0xA8#8 && l.length == d.len && l.all fun b => b

/-- The bytes and flags of a completed group. What an interleaving of the reads and writes of an overlap that is not in place
may change is a free value (R223). -/
def groupEffect (s : State) (c : Nat) (j : Job) (g : List VecOp) : State :=
  let rs := s.groupRun c j s.freeCount g []
  match rs.getLast? with
  | none => s
  | some (d, m) =>
    let f := s.freeCount + 4 * d.draws
    let w := Config.freeWord f
    let ps := planes (Config.freeByte f) d m.out
    let count := leBytes 4 m.out.codes.length
    let clean := cleanOverlap g
    let opens := if clean then [] else s.groupOpen c j d s.freeCount g [] []
    let mine := opens.getLastD []
    let flags (p : VRes → Bool) (bit : Nat) : Bool := rs.zipIdx.any fun x => x.1.2.raises (opens.getD x.2 []) (bitAt w.toNat bit) p
    let s := { s with freeCount := f + d.destSize + 2 * d.len + 16 }
    let s := s.modVe c fun e => e.raise (flags (fun m => m.invalid) 0) (flags (fun m => m.zeroDiv) 1)
      (flags (fun m => m.overflow) 2) (flags (fun m => m.intSat) 3)
    if clean then
      let s := writePlanes s c j d.destOp ps
      if d.op = 0xA8#8 then opndWrite s c j (d.src 2) count else s
    else if !openCount d mine then
      let s := writePlanes s c j d.destOp (planes (Config.freeByte f) d (m.out.freed (f + 1 + d.destSize) mine))
      if d.op = 0xA8#8 then opndWrite s c j (d.src 2) count else s
    else
      let s := opndWrite s c j d.destOp ((List.range d.destSize).map fun i => Config.freeByte (f + 1 + i))
      if d.op = 0xA8#8 then
        opndWrite s c j (d.src 2) ((List.range 4).map fun i => Config.freeByte (f + 1 + d.destSize + i)) else s

/-! ## Start and completion -/

/-- The vector start's checks: R219, then R215, then marked lines (R420). -/
def groupStop (s : State) (c : Nat) (j : Job) (g : List VecOp) : Option State :=
  match groupFault [] g with
  | some (o, k) =>
    some (haltAt (s.modVe c fun e => { e with groupFault := BitVec.ofNat 4 k }) c Config.ILLEGAL_OPCODE o.pc (BitVec.ofNat 64 o.pc))
  | none =>
    match g.findSome? fun o => (s.memberRange c j o).map fun d => (o, d) with
    | some (o, d) => some (haltAt s c Config.SCRATCH_RANGE o.pc d)
    | none =>
      match g.findSome? fun o => ((o.scratchSrcs.filter fun n => o.role n != .count).findSome? fun n =>
          s.opndBad c j (o.src n) (o.srcSize n)).map fun b => (o, b) with
      | some (o, b) => some (sramHalt s c o.pc 0 b)
      | none => none

/-- A group waits: the previous group still occupies the engine, or an earlier one has still to write bytes that this one reads
or writes (R220). -/
def State.groupWaits (s : State) (c : Nat) (g : List VecOp) : Bool :=
  let e := (s.core c).ve
  (!e.groups.isEmpty && decide (s.arithCycle < e.busyUntil)) ||
    e.groups.any fun p => meet (groupWrites p) (groupReads g ++ groupWrites g)

/-- What the chain registers of a group hold: the first chunk of each member that writes one (R217; log entry 95). -/
def State.groupChains (s : State) (c : Nat) (j : Job) (g : List VecOp) : Tbl (List Byte) :=
  (s.groupRun c j s.freeCount g []).foldl (fun t r =>
    if r.1.toChain then
      tput t r.1.dch ((planes 0#8 r.1 r.2.out).flatMap fun p => p.2.take (r.1.chunk * max 1 (fmtWidth r.2.out.fmt) / 8))
    else t) []

/-- A group starts: nothing holds it, and its checks pass (R215, R220). -/
def groupBegin (s : State) (c n : Nat) (j : Job) (g rest : List VecOp) : State :=
  match groupStop s c j g with
  | some t => t
  | none =>
    let chains := s.groupChains c j g
    let till := s.arithCycle + occupancy g
    (pmJob s (some n) 3 (occupancy g)).modVe c fun e =>
      { e with queue := rest, groups := e.groups ++ [g], chains := chains, busyUntil := till }

/-- VECTOR_GROUP_START. -/
def vecStart (s : State) (c : Nat) (err : SramErr) : State :=
  match s.engaged c, formGroup 4 (s.core c).ve.queue with
  | some (n, j), some (g, rest) =>
    if s.groupWaits c g then s
    else (match err with
     | .uncorrectable => sramHalt s c (match g.head? with | some o => o.pc | none => 0) 5 0
     | .corrected => groupBegin (frCorrected s 0) c n j g rest
     | .none => groupBegin s c n j g rest)
  | _, _ => s

/-- VECTOR_GROUP_COMPLETE (R222). -/
def vecComplete (s : State) (c : Nat) : State :=
  match s.engaged c, (s.core c).ve.groups with
  | some (n, j), g :: rest =>
    let rs := s.groupRun c j s.freeCount g []
    let s := groupEffect (s.modVe c fun e => { e with groups := rest, chains := if rest.isEmpty then [] else e.chains }) c j g
    let s := rs.foldl (fun s r => pmJob s (some n) (vecSlot r.1.op.toNat) r.2.out.codes.length) s
    g.foldl (fun s o => sendSignal s c o.pc false o.sig) s
  | _, _ => s

/-! ## Issue -/

/-- The operation of a vector instruction, its registers read (R156). -/
def vecOp (s : State) (c : Nat) (j : Job) (i : Ins) (sig : Sig) : VecOp :=
  let k := s.core c
  let rd (kind r : Nat) : W64 := if kind = 5 ∨ kind = 0 then 0#64 else k.reg r
  let a := rd (bitField i.mod 2 0) i.a
  let b := rd (bitField i.mod 5 3) i.b
  let cc := rd (bitField i.mod 8 6) i.c
  let slot (v : W64) : Nat := (s.recvLane c j (bitField v.toNat 30 25)).ptr
  { op := BitVec.ofNat 8 i.op, fmt := BitVec.ofNat 4 i.fmt, mod := BitVec.ofNat 16 i.mod, shape := k.reg i.d,
    a := a, b := b, c := cc, aField := i.a, bField := i.b, cField := i.c,
    dest := i.imm + (k.reg (bitField i.x 4 0)).setWidth 32, shift := bitField i.x 9 5, dch := bitField i.x 11 10,
    slots := [slot a, slot b, slot cc], pc := k.pc - 16, sig := sig }

/-- Lanes that a vector instruction's sources name. -/
def VecOp.lanes (o : VecOp) : List Nat :=
  (o.scratchSrcs.filter fun n => (o.value n).msb && o.role n != .count).map fun n => bitField (o.value n).toNat 30 25

/-- A vector row: the instruction enters the engine's queue of eight (R155). -/
def vecRow (s : State) (c op : Nat) : State :=
  coreRow s c op (fun _ => vectorLegal)
    (fun s j i =>
      let ls := (vecOp s c j i .none).lanes
      { Plan.plain with legal := ls.all fun l => decide (l < s.recvCount j), lanes := ls,
                        room := decide ((s.core c).ve.queue.length < 8) })
    fun s _ j i sig => s.modVe c fun e => { e with queue := e.queue ++ [vecOp s c j i sig] }

/-! ## The commands -/

def execVadd (core : BitVec 4) (s : State) : Host.Outcome State Fault Refusal := .next (vecRow s core.toNat 0x80)
def execVsub (core : BitVec 4) (s : State) : Host.Outcome State Fault Refusal := .next (vecRow s core.toNat 0x81)
def execVmul (core : BitVec 4) (s : State) : Host.Outcome State Fault Refusal := .next (vecRow s core.toNat 0x82)
def execVfma (core : BitVec 4) (s : State) : Host.Outcome State Fault Refusal := .next (vecRow s core.toNat 0x83)
def execVmin (core : BitVec 4) (s : State) : Host.Outcome State Fault Refusal := .next (vecRow s core.toNat 0x84)
def execVmax (core : BitVec 4) (s : State) : Host.Outcome State Fault Refusal := .next (vecRow s core.toNat 0x85)
def execVclamp (core : BitVec 4) (s : State) : Host.Outcome State Fault Refusal := .next (vecRow s core.toNat 0x86)
def execVabs (core : BitVec 4) (s : State) : Host.Outcome State Fault Refusal := .next (vecRow s core.toNat 0x87)
def execVneg (core : BitVec 4) (s : State) : Host.Outcome State Fault Refusal := .next (vecRow s core.toNat 0x88)
def execVcopy (core : BitVec 4) (s : State) : Host.Outcome State Fault Refusal := .next (vecRow s core.toNat 0x89)
def execVrcp (core : BitVec 4) (s : State) : Host.Outcome State Fault Refusal := .next (vecRow s core.toNat 0x8A)
def execVrsqrt (core : BitVec 4) (s : State) : Host.Outcome State Fault Refusal := .next (vecRow s core.toNat 0x8B)
def execVsqrt (core : BitVec 4) (s : State) : Host.Outcome State Fault Refusal := .next (vecRow s core.toNat 0x8C)
def execVexp2 (core : BitVec 4) (s : State) : Host.Outcome State Fault Refusal := .next (vecRow s core.toNat 0x8D)
def execVlog2 (core : BitVec 4) (s : State) : Host.Outcome State Fault Refusal := .next (vecRow s core.toNat 0x8E)
def execVcmp (core : BitVec 4) (s : State) : Host.Outcome State Fault Refusal := .next (vecRow s core.toNat 0x90)
def execVsel (core : BitVec 4) (s : State) : Host.Outcome State Fault Refusal := .next (vecRow s core.toNat 0x91)
def execVmand (core : BitVec 4) (s : State) : Host.Outcome State Fault Refusal := .next (vecRow s core.toNat 0x92)
def execVmor (core : BitVec 4) (s : State) : Host.Outcome State Fault Refusal := .next (vecRow s core.toNat 0x93)
def execVmnot (core : BitVec 4) (s : State) : Host.Outcome State Fault Refusal := .next (vecRow s core.toNat 0x94)
def execVrsum (core : BitVec 4) (s : State) : Host.Outcome State Fault Refusal := .next (vecRow s core.toNat 0x98)
def execVrmax (core : BitVec 4) (s : State) : Host.Outcome State Fault Refusal := .next (vecRow s core.toNat 0x99)
def execVrmin (core : BitVec 4) (s : State) : Host.Outcome State Fault Refusal := .next (vecRow s core.toNat 0x9A)
def execVcvt (core : BitVec 4) (s : State) : Host.Outcome State Fault Refusal := .next (vecRow s core.toNat 0xA0)
def execVcompress (core : BitVec 4) (s : State) : Host.Outcome State Fault Refusal := .next (vecRow s core.toNat 0xA8)
def execVexpand (core : BitVec 4) (s : State) : Host.Outcome State Fault Refusal := .next (vecRow s core.toNat 0xA9)

def execVectorGroupStart (core : BitVec 4) (err : SramErr) (s : State) : Host.Outcome State Fault Refusal :=
  .next (vecStart s core.toNat err)

def execVectorGroupComplete (core : BitVec 4) (s : State) : Host.Outcome State Fault Refusal :=
  .next (vecComplete s core.toNat)

end Sys2Proof.Machine
end

