-- ==== Sys2Proof/Machine/Waiters.lean ====
section
/-! DEFINITION. Jobs that wait at issue on a counter or flight that has ended (R305, R311, R323), and the rows whose events
can end one: KILL_COMPLETE and COMMIT. -/

namespace Sys2Proof.Machine

/-- The job on a core is killed if its instruction at issue waits on a counter or flight that has ended. -/
def killWaiter (s : State) (c : Nat) : State :=
  match s.issuing c with
  | none => s
  | some (n, j) =>
    if (s.core c).stall = 1#3 then
      match s.front c j with
      | .ins i => (match s.waitNow c j i.wait with
        | .dead code => killDead s c n code
        | _ => s)
      | _ => s
    else s

/-- Every job that waits at issue on a counter or flight that has ended is killed with its code (R305, R311, R323). -/
def killWaiters (s : State) : State := (s.cores.map fun k => k.1).foldl killWaiter s

/-- KILL_COMPLETE (R51): the kill of the job on a core is complete there. -/
def execKillComplete (core : BitVec 4) (s : State) : Host.Outcome State Fault Refusal :=
  .next (if s.obs.halted then s else killWaiters (killCore s core.toNat))

/-- COMMIT (R257 to R259). -/
def execCommit (target : CommitTarget) (s : State) : Host.Outcome State Fault Refusal :=
  match target with
  | .queue q => .next (killWaiters (commitQueue s q.toNat))
  | .station st => .next (commitStation s st.toNat)

end Sys2Proof.Machine
end

