-- ==== Sys2Proof/Machine/Stream.lean ====
section
/-! DEFINITION. The stream engine (R115 to R132, R146), the fabric's events (tiles and credits arriving, R115, R118, R120),
and the sync counters' events (R153, R301). -/

namespace Sys2Proof.Machine

/-! ## What an operation names (R127, R130, R146, R253 to R255, R282) -/

/-- Entry i of a station's OBJ range (R146). -/
def State.slotOf (s : State) (j : Job) (i : Nat) : Option SlotDecl := match j.kind, s.run with
  | .station st, some r => match r.img.station st with
    | some t => if i < t.objCount then (r.img.objRange t)[i]? else none
    | none => none
  | _, _ => none

/-- Object entry bound to an OBJECT slot. -/
def State.boundEntry (s : State) (slot : W32) : Option Nat := match s.run with
  | some r => (tfind r.bindings slot.toNat).map fun b => b.obj
  | none => none

/-- Object entry that a job reaches through a slot or a handle (R282); a STORE needs the handle in OMASK. -/
def State.streamEntry (s : State) (j : Job) (objRef : W32) (store : Bool) : Option Nat := match j.kind with
  | .station _ => s.boundEntry objRef
  | .free _ _ _ =>
    if j.hmask.contains objRef && (!store || j.omask.contains objRef) then some (handleIndex objRef) else none

/-- The version that a job reads of an entry: the one it pinned (R255). -/
def State.readVersion (s : State) (j : Job) (i : Nat) : Bool :=
  match j.pins.find? fun p => p.1 == s.rootOf i with
  | some p => p.2
  | none => s.version i

/-- A byte of an object as a job sees it: the latest of its STOREs to the byte that a FENCE has covered stands over what memory
holds (R130). -/
def overlayByte (stores : List JobStore) (root a : Nat) (v : Byte) : Byte :=
  stores.foldl (fun v x => if x.fenced && x.root == root && decide (x.off ≤ a) && decide (a < x.off + x.bytes.length) then
    x.bytes.getD (a - x.off) v else v) v

/-- Bytes from an offset of an object on, as a job sees them. -/
def Job.overlay (j : Job) (root off : Nat) (bs : List Byte) : List Byte :=
  bs.zipIdx.map fun x => overlayByte j.stores root (off + x.2) x.1

/-- Whether the OBJECT slot that a station's STORE names carries OUTPUT (R254). -/
def State.outputSlot (s : State) (slot : W32) : Bool := match s.run with
  | some r => (match r.img.slotDecl slot.toNat with | some d => d.output | none => false)
  | none => false

/-- Device address of byte 0 of the version an operation uses. -/
def State.opBase (s : State) (j : Job) (o : StreamOp) (i : Nat) : Nat :=
  s.versionBase i (if o.kind = .store then !s.version i else s.readVersion j i)

/-- Address of a line. -/
def lineAddr (a : Nat) : Nat := a / 128 * 128

/-- What makes a LOAD, STORE or MCAST fault at its start: code and SE_FAULT_ADDR (R131, R243, R254, R282, R396). -/
def State.streamBreach (s : State) (j : Job) (o : StreamOp) (i : Nat) : Option (BitVec 16 × Nat) :=
  let e := s.obj i
  let base := s.opBase j o i
  let store := o.kind == .store
  let station := match j.kind with | .station _ => true | .free _ _ _ => false
  if store && station && !s.outputSlot o.objRef then some (Config.MEM_TRANSLATION, lineAddr (base + o.off))
  else if e.size < o.off + o.len then some (Config.MEM_TRANSLATION, lineAddr (base + max o.off e.size))
  else if s.hitsObjTable (base + o.off) o.len then
    some (Config.ACCESS_DENIED, max (lineAddr (base + o.off)) (lineAddr s.kp.objBase.toNat))
  else if e.encrypted && !s.keyLoaded e.keySlot.toNat then some (Config.ACCESS_DENIED, lineAddr (base + o.off))
  else if e.encrypted && store && (o.off % 16 != 0 || o.len % 16 != 0) then some (Config.ACCESS_DENIED, lineAddr (base + o.off))
  else none

/-- OP of SE_FAULT (R133). -/
def SKind.code : SKind → Nat
  | .load => 0 | .store => 1 | .send => 2 | .mcast => 3 | .fence => 0

/-! ## Basin copies (R123, R125, R127, R421) -/

/-- The range of an operation lies within a copy. -/
def BasinCopy.covers (b : BasinCopy) (o : StreamOp) : Bool := decide (o.off + o.len ≤ b.len)

/-- The copy in the shared pool of the version that an operation uses (R126; log entry 89). -/
def State.poolFor (s : State) (o : StreamOp) : Option BasinCopy := match tfind s.pool (s.rootOf o.obj) with
  | some p => if p.1 = o.base ∧ p.2.covers o = true then some p.2 else none
  | none => none

/-- The basin copy that holds the whole range of an operation: that of a station's slot, or one in the shared pool (R125,
R126). -/
def State.basinFor (s : State) (j : Job) (o : StreamOp) : Option BasinCopy :=
  match j.kind, tfind s.basin o.objRef.toNat with
  | .station _, some b => if b.covers o then some b else s.poolFor o
  | _, _ => s.poolFor o

/-- First bad line of a basin copy in a range, and its code. -/
def BasinCopy.badIn (b : BasinCopy) (off len : Nat) : Option (Nat × BitVec 16) := b.badLines.find? fun l => (linesOf off len).contains l.1

/-- Bytes of a basin copy. -/
def BasinCopy.read (b : BasinCopy) (off len : Nat) : List Byte := (List.range len).map fun i => tget 0#8 b.bytes (off + i)

/-- Plain bytes of an object from an offset on, given what the block holds of it; none for an ENCRYPTED object whose key slot
is EMPTY (R396, R398). -/
def State.plainOf (s : State) (e : Obj) (held : Nat → Nat → List Byte) (off len : Nat) : Option (List Byte) :=
  if e.encrypted then (s.keyOf e.keySlot.toNat).map fun key => (List.range len).map fun i =>
    xtsByte false key ((off + i) / 16) (held ((off + i) / 16 * 16) 16) ((off + i) % 16)
  else some (held off len)

/-- Plain bytes at an offset of a basin copy: the copy of an ENCRYPTED object holds ciphertext (R123, R398). -/
def State.basinPlain (s : State) (j : Job) (b : BasinCopy) (i off len : Nat) : Option (List Byte) :=
  s.plainOf (s.obj i) (fun a n => j.overlay (s.rootOf i) a (b.read a n)) off len

/-! ## Threads -/

/-- Thread t of a core's stream engine. -/
def Stream.thread (e : Stream) (t : Nat) : Thread := tget Thread.reset e.threads t

/-- Change the stream engine of a core. -/
def State.modSe (s : State) (c : Nat) (f : Stream → Stream) : State := s.modCore c fun k => { k with se := f k.se }

/-- Change one operation of an engine, wherever it stands. -/
def Stream.modOp (e : Stream) (id : Nat) (f : StreamOp → StreamOp) : Stream :=
  { e with threads := e.threads.map fun t => (t.1, {
      queue := t.2.queue.map fun o => if o.id = id then f o else o,
      active := t.2.active.map fun o => if o.id = id then f o else o }) }

/-- Bytes of scratch that an operation covers. -/
def StreamOp.scratchLen (o : StreamOp) : Nat := if o.kind = .fence then 0 else o.len

/-- Whether the oldest queued operation of a thread must wait for an earlier one (R127, R128). -/
def Thread.held (t : Thread) (o : StreamOp) : Bool :=
  if o.kind = .fence then !t.active.isEmpty
  else t.active.any fun p => p.kind != .fence && sameBytes o.scratch o.scratchLen p.scratch p.scratchLen

/-! ## Lines (R129) -/

/-- Read lines of an engine in flight. -/
def Stream.inFlight (e : Stream) : Nat :=
  e.threads.foldl (fun a t => a + t.2.active.foldl (fun b o => b + o.inFlight) 0) 0

/-- Whether an operation still has lines to issue. -/
def StreamOp.hungry (o : StreamOp) : Bool := o.leads && decide (o.issued < o.total)

/-- Tag of a stream thread's requests (R496). -/
def threadTag (c t : Nat) : BitVec 16 := BitVec.ofNat 16 (1024 * c + 16 * t)

/-- Object offset of a line of an operation. -/
def StreamOp.lineOff (o : StreamOp) (line : Nat) : Nat := ((o.base + o.off) / 128 + line) * 128 - o.base

/-- Port that carries a line of an operation (R114). -/
def State.linePort (s : State) (j : Job) (o : StreamOp) (line : Nat) : Nat := granulePort (s.jobPorts j o.objRef) (o.lineOff line)

/-- The next thread after `turn` with an operation that waits for lines and may issue its next one. -/
def Stream.nextHungry (e : Stream) (ok : Nat → StreamOp → Bool) : Option Nat :=
  ((List.range 64).map fun k => (e.turn + 1 + k) % 64).find? fun t => (e.thread t).active.any fun o => o.hungry && ok t o

/-- Issue one more line of the first operation of a list that waits for lines. -/
def issueLine (ok : StreamOp → Bool) : List StreamOp → List StreamOp
  | [] => []
  | o :: r => if o.hungry && ok o then { o with issued := o.issued + 1 } :: r else o :: issueLine ok r

/-- Grant lines to waiting threads in round-robin order of thread number, up to n of them. -/
def Stream.grant (ok : Nat → StreamOp → Bool) : Nat → Stream → Stream
  | 0, e => e
  | n + 1, e => match e.nextHungry ok with
    | none => e
    | some t =>
      let th := e.thread t
      Stream.grant ok n { e with turn := t, threads := tput e.threads t { th with active := issueLine (ok t) th.active } }

/-- The next line of an operation goes to a port that does not hold the thread's requests (R425). -/
def State.lineOk (s : State) (c : Nat) (t : Nat) (o : StreamOp) : Bool := match (s.core c).job with
  | none => true
  | some n => match s.job n with
    | some j => !s.throttles (s.linePort j o o.issued) (threadTag c t)
    | none => true

/-- Grant lines from the pool of 4,096. -/
def grantLines (s : State) (c : Nat) : State := s.modSe c fun e => e.grant (s.lineOk c) (4096 - e.inFlight)

/-! ## MCAST (R124, R125) -/

/-- Sibling stations of a station whose range includes an OBJECT slot, itself among them. -/
def Image.siblings (g : Image) (t : Station) (slot : W32) : List Station :=
  g.stations.filter fun u => u.part == t.part && u.win == t.win && u.progOffset == t.progOffset && u.progLen == t.progLen &&
    u.share == t.share && (g.objRange u).any fun d => d.slot == slot

/-- The reader set of a slot for a station: (station, core). -/
def State.readers (s : State) (j : Job) (slot : W32) : List (Nat × Nat) := match j.kind, s.run with
  | .station st, some r => match r.img.station st with
    | some t => (r.img.siblings t slot).flatMap fun u => (r.place.stationCores.getD u.index []).map fun c => (u.index, c)
    | none => []
  | _, _ => []

/-- The reader with the lowest core number. -/
def State.leader (s : State) (j : Job) (slot : W32) : Nat := (leastNat ((s.readers j slot).map fun x => x.2)).getD 0

/-- Least working area of the readers: an MCAST must lie within it (R125). -/
def State.readersArea (s : State) (j : Job) (slot : W32) : Nat := match s.run with
  | some r => (leastNat ((s.readers j slot).map fun x => match r.img.station x.1 with
      | some t => r.img.workLen t
      | none => 0)).getD j.workLen
  | none => j.workLen

/-- The MCAST of a reader on a slot in a round, issued and not yet complete. -/
def Stream.mcastOp (e : Stream) (slot : W32) (round : Nat) : Option StreamOp :=
  (e.threads.flatMap fun t => t.2.active ++ t.2.queue).find? fun o => o.kind == .mcast && o.objRef == slot && o.round == round

/-- Whether a core runs a station's job. -/
def State.runsStation (s : State) (st c : Nat) : Bool := match s.engaged c with
  | some (_, j) => j.kind == .station st
  | none => false

/-- The MCAST of a reader on a slot in a round, once its own thread lets it start (R128). -/
def Stream.mcastArmed (e : Stream) (slot : W32) (round : Nat) : Option StreamOp :=
  (e.threads.flatMap fun t => t.2.active).find? fun o => o.kind == .mcast && o.objRef == slot && o.round == round

/-- Every other reader has issued its MCAST of a round, and its thread has let it start (R125, R128). -/
def State.allArmed (s : State) (c : Nat) (j : Job) (slot : W32) (round : Nat) : Bool :=
  (s.readers j slot).all fun x => s.runsStation x.1 x.2 && (x.2 == c || ((s.core x.2).se.mcastArmed slot round).isSome)

/-- Where data of an operation lands: its own core, or every reader of an MCAST: (core, operation). Where matched MCASTs name
different offsets or lengths of the object, the leader's are read, and the bytes land at each reader's own scratch offset.
DESIGN CHOICE, log entry 83. -/
def State.landings (s : State) (c : Nat) (j : Job) (o : StreamOp) : List (Nat × StreamOp) := match o.kind with
  | .mcast => (s.readers j o.objRef).filterMap fun x => ((s.core x.2).se.mcastArmed o.objRef o.round).map fun p => (x.2, p)
  | _ => [(c, o)]

/-- The other readers of an MCAST that run, each with the instruction at which it halts (R125): its own MCAST of the round, or
the latest instruction it has fetched. -/
def State.otherReaders (s : State) (c : Nat) (j : Job) (slot : W32) (round : Nat) : List (Nat × Nat) :=
  ((s.readers j slot).filter fun x => x.2 != c && s.runsStation x.1 x.2).map fun x =>
    (x.2, match (s.core x.2).se.mcastOp slot round with | some p => p.pc | none => (s.core x.2).lastFetch)

/-- A stream fault on every core that an operation serves. -/
def faultAll (s : State) (c : Nat) (j : Job) (o : StreamOp) (t sram : Nat) (code : BitVec 16) (addr : Nat) : State :=
  (s.landings c j o).foldl (fun s x =>
    let th := ((s.core x.1).se.threads.find? fun y => (y.2.active ++ y.2.queue).any fun p => p.id == x.2.id)
    streamFault s x.1 (match th with | some y => y.1 | none => t) o.kind.code sram code addr) s

/-- Bytes land at an offset of an operation on one core, as lines (R122). -/
def landOn (off : Nat) (bs : List Byte) (lines : List Nat) (s : State) (x : Nat × StreamOp) : State :=
  match s.engaged x.1 with
  | none => s
  | some (_, j) =>
    (opndWrite s x.1 j (x.2.scratch.plus off) bs).modSe x.1 fun e => e.modOp x.2.id fun o =>
      { o with landed := lines.foldl (fun l k => insertNat k l) o.landed }

/-! ## STREAM_OP_START (R115, R125, R128, R130) -/

/-- Start an operation: it leaves its thread's queue. -/
def beginOp (s : State) (c t : Nat) (o : StreamOp) : State :=
  s.modSe c fun e =>
    let th := e.thread t
    { e with threads := tput e.threads t { queue := th.queue.drop 1, active := th.active ++ [o] } }

/-- Take one credit from each named lane, whose ring pointer moves on (R103, R115). -/
def takeCredits (s : State) (c : Nat) (j : Job) (lanes : List Nat) : State :=
  lanes.foldl (fun s l =>
    let x := s.sendLane c j l
    s.modCore c fun k => { k with
      sendLanes := tput k.sendLanes (j.lane l) { x with credits := x.credits - 1, ptr := (x.ptr + 1) % x.slots } }) s

/-- A SEND starts once every named lane has a credit. -/
def startSend (s : State) (c t : Nat) (j : Job) (o : StreamOp) (err : SramErr) : State :=
  if o.lanes.any fun l => (s.sendLane c j l).credits == 0 then s
  else
    let s := scratchErr s c j o.scratch err
    match s.opndBad c j o.scratch o.len with
    | some b => streamFault (beginOp s c t o) c t 2 0 Config.SRAM_UNCORRECTABLE b
    | none => takeCredits (beginOp s c t o) c j o.lanes

/-- The writes of a STORE leave: the share's bytes, encrypted where the object is (R104, R122, R130, R398). -/
def storeOut (s : State) (c n : Nat) (j : Job) (t : Nat) (o : StreamOp) (i : Nat) : State :=
  let e := s.obj i
  let bs := s.opndRead c j o.scratch o.len
  let out := if e.encrypted then (match s.keyOf e.keySlot.toNat with | some key => cipherBytes key o.off bs | none => bs) else bs
  let root := s.rootOf i
  let s := blockWrite s (.store c t o.id) e.inst (some e.owner.toNat) (s.jobPorts j o.objRef) o.off (s.opBase j o i + o.off) out
  let s := jobCount s n 5 o.len
  match s.job n with
  | some j => s.setJob n { j with
      wrote := insertNat root j.wrote,
      stores := j.stores ++ [{ root := root, off := o.off, bytes := out, core := c, thread := t, id := o.id, fenced := false }] }
  | none => s

/-- A port that a STORE writes to holds its thread's requests (R425). -/
def State.storeHeld (s : State) (c : Nat) (j : Job) (t : Nat) (o : StreamOp) : Bool :=
  (List.range o.total).any fun l => s.throttles (s.linePort j o l) (threadTag c t)

/-- A STORE starts. -/
def startStore (s : State) (c n : Nat) (j : Job) (t : Nat) (o : StreamOp) (i : Nat) (err : SramErr) : State :=
  if s.storeHeld c j t o then s
  else
    let s := scratchErr s c j o.scratch err
    match s.opndBad c j o.scratch o.len with
    | some b => streamFault (beginOp s c t o) c t 1 0 Config.SRAM_UNCORRECTABLE b
    | none => storeOut (beginOp s c t o) c n j t o i

/-- Data that lies in a basin copy arrives as the operation starts; a bad line faults every reader (R125, R421). -/
def startBasin (s : State) (c : Nat) (j : Job) (t : Nat) (o : StreamOp) (b : BasinCopy) : State :=
  match b.badIn o.off o.len with
  | some x => faultAll s c j o t 1 x.2 (o.base + 128 * x.1)
  | none => match s.basinPlain j b o.obj o.off o.len with
    | none => faultAll s c j o t 1 Config.ACCESS_DENIED (lineAddr (o.base + o.off))
    | some bs => (s.landings c j o).foldl (landOn 0 bs (List.range o.total)) s

/-- A LOAD, or the leader's MCAST, starts to read. -/
def startRead (s : State) (c : Nat) (j : Job) (t : Nat) (o : StreamOp) : State :=
  match s.basinFor j o with
  | some b => startBasin (beginOp s c t { o with leads := false }) c j t { o with leads := false } b
  | none => if 4096 ≤ (s.core c).se.inFlight then s else grantLines (beginOp s c t { o with leads := true }) c

/-- An operation names no object that it may use: MEM_TRANSLATION. A STORE through a handle of HMASK that OMASK lacks names the
line it would write; what SE_FAULT_ADDR holds otherwise is free (R131, R282; log entry 5). -/
def startUnmapped (s : State) (c : Nat) (j : Job) (t : Nat) (o : StreamOp) : State :=
  match s.streamEntry j o.objRef false with
  | some i => streamFault (beginOp s c t o) c t o.kind.code 0 Config.MEM_TRANSLATION (lineAddr (s.opBase j o i + o.off))
  | none =>
    let d := s.drawWord
    streamFault (beginOp d.2 c t o) c t o.kind.code 0 Config.MEM_TRANSLATION (d.1.toNat % 2 ^ 48)

/-- An operation on an object starts, or faults (R131). -/
def startObj (s : State) (c n : Nat) (j : Job) (t : Nat) (o : StreamOp) (err : SramErr) : State :=
  match s.streamEntry j o.objRef (o.kind == .store) with
  | none => startUnmapped s c j t o
  | some i => match s.streamBreach j o i with
    | some x => streamFault (beginOp s c t o) c t o.kind.code 0 x.1 x.2
    | none =>
      let base := s.opBase j o i
      let o := { o with obj := i, base := base, total := (linesOf (base + o.off) o.len).length }
      match o.kind with
      | .store => startStore s c n j t o i err
      | .mcast =>
        if c = s.leader j o.objRef then (if s.allArmed c j o.objRef o.round then startRead s c j t o else s)
        else beginOp s c t o
      | _ => startRead s c j t o

/-- STREAM_OP_START: the oldest queued operation of a thread starts, if nothing holds it (R128, R129). -/
def streamStart (s : State) (c t : Nat) (err : SramErr) : State :=
  match s.engaged c, ((s.core c).se.thread t).queue with
  | some (n, j), o :: _ =>
    if ((s.core c).se.thread t).held o then s
    else match o.kind with
      | .fence => beginOp s c t o
      | .send => startSend s c t j o err
      | _ => startObj s c n j t o err
  | _, _ => s

/-! ## Lines that return from memory (R122, R129, R131, R423) -/

/-- The operation of a thread for which a line is in flight: the oldest. -/
def Thread.awaits (t : Thread) (line : Nat) : Option StreamOp :=
  t.active.find? fun o => o.leads && decide (line < o.issued) && !o.landed.contains line

/-- Plain bytes of part of an object's version as a job sees them (R130). -/
def State.versionPlain (s : State) (j : Job) (i base off len : Nat) : Option (List Byte) :=
  s.plainOf (s.obj i) (fun a n => j.overlay (s.rootOf i) a (s.readBytes (base + a) n)) off len

/-- A read line of a stream thread returns: it lands on every core the operation serves, or faults. -/
def landLine (s : State) (c t line : Nat) (poison : Bool) : State :=
  match s.engaged c with
  | none => s
  | some (n, j) => match ((s.core c).se.thread t).awaits line with
    | none => s
    | some o =>
      let first := o.base + o.off
      let la := (first / 128 + line) * 128
      let s := pmJob s (some n) 4 128
      if poison || s.poisoned la 128 then
        faultAll (pmJob (markPoison s la 128) (some n) 17 1) c j o t 0 Config.MEM_POISON la
      else
        let a := max first la
        let len := min (first + o.len) (la + 128) - a
        match s.versionPlain j o.obj o.base (a - o.base) len with
        | none => faultAll s c j o t 0 Config.ACCESS_DENIED la
        | some bs => grantLines ((s.landings c j o).foldl (landOn (a - first) bs [line]) s) c

/-! ## STREAM_OP_COMPLETE (R120 to R122) -/

/-- Whether a started operation has finished its work. -/
def State.opDone (s : State) (c t : Nat) (o : StreamOp) : Bool := match o.kind with
  | .load => o.landed.length == o.total
  | .mcast => decide (0 < o.total) && o.landed.length == o.total
  | .store => s.acked fun w => w == .store c t o.id
  | .send => true
  | .fence => true

/-- The receive lane at the other end of a send lane. -/
def SendLane.dst (x : SendLane) : Nat × Nat := (x.dstCore, laneKey x.dstStation x.dstLane)

/-- One tile enters a lane's path, numbered among those its source core has sent; a lane that is no longer there drops it
(R112, R118). -/
def sendTile (s : State) (dst : Nat × Nat) (f : Flit) : State :=
  let n := (s.core f.src).se.sentTiles
  let s := s.modSe f.src fun e => { e with sentTiles := n + 1 }
  s.modCore dst.1 fun k => match tfind k.recvLanes dst.2 with
    | some r => { k with recvLanes := tput k.recvLanes dst.2 { r with inFlight := r.inFlight ++ [{ f with order := n }] } }
    | none => k

/-- The home core of a signal's counter. -/
def Sig.home : Sig → Option Nat
  | .cadd id _ => some (ctrHome id)
  | _ => Option.none

/-- The last lane of a SEND that ends on a core. -/
def lastLane (dsts : List (Nat × Nat)) (home : Option Nat) : Option (Nat × Nat) :=
  (dsts.filter fun d => some d.1 == home).getLast?

/-- A SEND has injected its last flit: its tiles are under way, the signal behind the tile that goes to its counter's core,
or sent from here where no lane goes there (R120, R121). -/
def finishSend (s : State) (c : Nat) (j : Job) (o : StreamOp) : State :=
  let bs := s.opndRead c j o.scratch o.len
  let dsts := o.lanes.map fun l => (s.sendLane c j l).dst
  match lastLane dsts o.sig.home with
  | none =>
    let s := dsts.foldl (fun s d => sendTile s d { bytes := bs, sig := .none, src := c, pc := o.pc, order := 0 }) s
    sendSignal s c o.pc true o.sig
  | some r =>
    let mine : Bool := match o.sig with
      | .cadd id _ => s.coreMayUse j .add id
      | _ => true
    let s := dsts.foldl (fun s d => sendTile s d
      { bytes := bs, sig := if d = r ∧ mine = true then o.sig else .none, src := c, pc := o.pc, order := 0 }) s
    if mine then s else sendSignal s c o.pc true o.sig

/-- A FENCE has ended: LOADs of the job see the STOREs of its thread that were issued before it (R130). -/
def finishFence (s : State) (c n t id : Nat) : State := match s.job n with
  | some j => s.setJob n { j with stores := j.stores.map fun x =>
      if x.core = c ∧ x.thread = t ∧ x.id < id then { x with fenced := true } else x }
  | none => s

/-- STREAM_OP_COMPLETE: the oldest operation of a thread that has finished completes and its signal follows. -/
def streamComplete (s : State) (c t : Nat) : State :=
  match s.engaged c, ((s.core c).se.thread t).active.find? (s.opDone c t) with
  | some (n, j), some o =>
    let s := s.modSe c fun e =>
      let th := e.thread t
      { e with threads := tput e.threads t { th with active := th.active.filter fun p => p.id != o.id } }
    match o.kind with
    | .send => finishSend s c j o
    | .fence => sendSignal (finishFence s c n t o.id) c o.pc true o.sig
    | _ => sendSignal s c o.pc true o.sig
  | _, _ => s

/-! ## Tiles and credits arriving (R115, R116, R118) -/

/-- The lane with number `lane` of the running station comes first, then those of the window's other stations. -/
def laneFirst {α : Type} (own : Option Nat) (lane : Nat) (t : List (Nat × α)) (ok : α → Bool) : Option (Nat × α) :=
  let l := t.filter fun x => x.1 % 64 == lane && ok x.2
  match l.find? fun x => some x.1 == own with
  | some x => some x
  | none => l.head?

/-- Lane key of the job on a core. -/
def State.ownLane (s : State) (c lane : Nat) : Option Nat := match (s.core c).job with
  | some n => (s.job n).map fun j => j.lane lane
  | none => none

/-- A tile fills the next slot of its ring. -/
def RecvLane.arrive (r : RecvLane) : RecvLane := { r with held := r.held + 1, inFlight := r.inFlight.drop 1 }

/-- Scratch offset of the slot that the next tile of a lane fills. -/
def RecvLane.nextAt (r : RecvLane) : Nat := r.slotAt ((r.ptr + r.held) % r.slots)

/-- Tiles of one source arrive at a core in the order they were sent, whatever their lanes (R112): the first flit of a lane is
the oldest of its source that is still under way to the core. -/
def Core.tileNext (k : Core) (r : RecvLane) : Bool := match r.inFlight with
  | [] => false
  | f :: _ => k.recvLanes.all fun x => x.2.inFlight.all fun g => g.src != f.src || decide (f.order ≤ g.order)

/-- A lane record that cannot be corrected kills the job of its station on the core; the lane stands as it is until the next
window resets it (R118, R419 unit 6). -/
def laneLost (s : State) (c key : Nat) : State :=
  match s.jobs.find? fun j => j.2.kind == .station (key / 64) && j.2.cores.contains c with
  | some (n, j) => killJob (errRecord s 1 (some 6) (some c) (some j.part) Config.SRAM_UNCORRECTABLE 0) n .fault
      Config.SRAM_UNCORRECTABLE 0#64
  | none => s

/-- What the protection of lane records finds: a corrected error is counted (R419 unit 6). -/
def laneErr (s : State) (err : SramErr) : State := match err with
  | .corrected => frCorrected s 6
  | _ => s

/-- TILE_ARRIVAL: the oldest tile under way on a lane is written, then the signal behind it is applied. A tile whose lane record
is lost is dropped with its signal (log entry 96). -/
def tileArrives (s : State) (c lane : Nat) (err : SramErr) : State :=
  match laneFirst (s.ownLane c lane) lane (s.core c).recvLanes (s.core c).tileNext with
  | none => s
  | some (key, r) => match r.inFlight with
    | [] => s
    | f :: _ =>
      if err = .uncorrectable then
        laneLost (s.modCore c fun k => { k with recvLanes := tput k.recvLanes key { r with inFlight := r.inFlight.drop 1 } }) c key
      else
        let s := laneErr s err
        let s := s.modCore c fun k => { k.putScratch r.nextAt f.bytes with recvLanes := tput k.recvLanes key r.arrive }
        fireSignal s f.src (s.core f.src).job f.pc true f.sig

/-- CREDIT_RETURN: one credit on its way arrives. -/
def creditArrives (s : State) (c lane : Nat) (err : SramErr) : State :=
  match laneFirst (s.ownLane c lane) lane (s.core c).sendLanes fun x => decide (0 < x.returning) with
  | none => s
  | some (key, x) =>
    if err = .uncorrectable then
      laneLost (s.modCore c fun k => { k with sendLanes := tput k.sendLanes key { x with returning := x.returning - 1 } }) c key
    else (laneErr s err).modCore c fun k => { k with
      sendLanes := tput k.sendLanes key { x with credits := x.credits + 1, returning := x.returning - 1 } }

/-- RELEASE frees the oldest held tile and sends one credit back (R115). -/
def release (s : State) (c : Nat) (j : Job) (l : Nat) : State :=
  let r := s.recvLane c j l
  let s := s.modCore c fun k => { k with
    recvLanes := tput k.recvLanes (j.lane l) { r with held := r.held - 1, ptr := (r.ptr + 1) % r.slots } }
  s.modCore r.srcCore fun k => match tfind k.sendLanes (laneKey r.srcStation r.srcLane) with
    | some x => { k with sendLanes := tput k.sendLanes (laneKey r.srcStation r.srcLane) { x with returning := x.returning + 1 } }
    | none => k

/-! ## Counter events (R153, R301, R305, R419) -/

/-- A counter whose word cannot be corrected becomes FAULTED (R304, R419). -/
def counterLost (s : State) (u : Update) : State :=
  let c := s.counter u.id.toNat
  if c.state = .live then
    updKill (syFault (ctrFault (pmGlobal s 12 1) u.id 3#2) u.id u.source.code.1 u.source.code.2 (s.updStation u)
      Config.SRAM_UNCORRECTABLE u.amount c.value) u Config.SRAM_UNCORRECTABLE
  else applyUpdate s u

/-- COUNTER_UPDATE: the oldest update at a home core is applied, faulted or dropped. -/
def counterStep (s : State) (h : Nat) (err : SramErr) : State :=
  if !s.portAlive || s.obs.halted then s
  else match tget [] s.updates h with
    | [] => s
    | u :: r =>
      let s := { s with updates := tput s.updates h r }
      match err with
      | .uncorrectable => counterLost s u
      | .corrected => applyUpdate (frCorrected s 6) u
      | .none => applyUpdate s u

/-- WATCH_PUSH: the oldest value that the home core has pushed and that has not arrived reaches a watching core (R153). -/
def watchPush (s : State) (c : Nat) : State := match (s.core c).watch with
  | some w => (match w.pushes with
    | v :: r => s.modCore c fun k => { k with watch := some { w with value := v, pushes := r } }
    | [] => s)
  | none => s

/-! ## Issue (R104, R127, R146) -/

/-- An operation as it is issued. -/
def streamOp (k : Core) (kind : SKind) (objRef : W32) (off len : Nat) (sc : SOp) (lanes : List Nat) (round : Nat) (sig : Sig) :
    StreamOp :=
  { kind := kind, objRef := objRef, off := off, len := len, scratch := sc, lanes := lanes, pc := k.pc - 16, sig := sig,
    round := round, id := k.se.nextId, obj := 0, base := 0, total := 0, leads := false, issued := 0, landed := [] }

/-- An operation enters its thread's queue. -/
def enqueueOp (s : State) (c t : Nat) (o : StreamOp) : State :=
  s.modSe c fun e =>
    let th := e.thread t
    { e with threads := tput e.threads t { th with queue := th.queue ++ [o] }, nextId := e.nextId + 1 }

/-- Thread of an instruction, and whether it has room (R127). -/
def Ins.thread (i : Ins) : Nat := i.mod % 64
def State.threadRoom (s : State) (c t : Nat) : Bool := decide (((s.core c).se.thread t).queue.length < 8)

/-- SLOT number or handle that register A names. -/
def State.objOperand (s : State) (c : Nat) (j : Job) (i : Ins) : Option W32 := match j.kind with
  | .station _ => (s.slotOf j ((s.core c).reg i.a).toNat).map fun d => d.slot
  | .free _ _ _ => some (((s.core c).reg i.a).setWidth 32)

/-- SEL, the slot value and the length of a LOAD, STORE or MCAST (R146). -/
def State.objLegal (s : State) (c : Nat) (j : Job) (i : Ins) (kind : SKind) : Bool :=
  let len := ((s.core c).reg i.c).toNat
  (match j.kind with
   | .station _ => !bitAt i.mod 6
   | .free _ _ _ => bitAt i.mod 6 && kind != .mcast) &&
    (s.objOperand c j i).isSome && decide (1 ≤ len) && decide (len ≤ 16777216)

/-- CORE_HALT_DATA of a broken sealing rule (R104): the slot or handle operand. -/
def State.sealBreach (s : State) (c : Nat) (j : Job) (i : Ins) (kind : SKind) : Option W64 :=
  match (s.objOperand c j i).bind fun r => s.streamEntry j r (kind == .store) with
  | none => none
  | some e =>
    if (kind = .store ∧ j.isSealed = true ∧ (s.obj e).encrypted = false) ∨
       (kind ≠ .store ∧ (s.obj e).isSealed = true ∧ j.isSealed = false) then some ((s.core c).reg i.a) else none

/-- The scratch operand of a LOAD, STORE or MCAST. An MCAST must lie within every reader's working area (R125). -/
def State.objScratch (s : State) (c : Nat) (j : Job) (i : Ins) (kind : SKind) : Except OpndErr SOp :=
  let len := ((s.core c).reg i.c).toNat
  if kind = .mcast then
    match firstBeyond i.imm.toNat len (s.readersArea j ((s.objOperand c j i).getD 0#32)) with
    | some x => .error (.range (BitVec.ofNat 64 x))
    | none => s.scratchOpnd c j i.imm len
  else s.scratchOpnd c j i.imm len

/-- A row of a LOAD, STORE or MCAST. -/
def objRow (s : State) (c op : Nat) (kind : SKind) : State :=
  coreRow s c op (fun _ => streamLegal)
    (fun s j i =>
      let p := if s.objLegal c j i kind then Plan.plain.withOpnd (s.objScratch c j i kind) else { Plan.plain with legal := false }
      let slot := (s.objOperand c j i).getD 0#32
      { p with
        secret := s.sealBreach c j i kind, room := s.threadRoom c i.thread,
        others := if kind = .mcast then s.otherReaders c j slot (tget 0 (s.core c).se.mcasts slot.toNat) else [] })
    fun s _ j i sig => match s.objOperand c j i, s.objScratch c j i kind with
      | some r, .ok o =>
        let k := s.core c
        let round := tget 0 k.se.mcasts r.toNat
        let s := enqueueOp s c i.thread (streamOp k kind r (k.reg i.b).toNat (k.reg i.c).toNat o [] round sig)
        if kind = .mcast then s.modSe c fun e => { e with mcasts := tput e.mcasts r.toNat (round + 1) } else s
      | _, _ => s

/-- Lanes of a SEND's mask. -/
def State.maskLanes (s : State) (c : Nat) (i : Ins) : List Nat := setBits 64 ((s.core c).reg i.a).toNat

/-- Tile size of the first lane of a mask. -/
def State.maskTile (s : State) (c : Nat) (j : Job) (i : Ins) : Nat := match s.maskLanes c i with
  | l :: _ => (s.sendLane c j l).tileBytes
  | [] => 0

/-- The mask of a SEND (R146). -/
def State.sendLegal (s : State) (c : Nat) (j : Job) (i : Ins) : Bool :=
  let l := s.maskLanes c i
  !l.isEmpty && l.all fun x => decide (x < s.sendCount j) && (s.sendLane c j x).tileBytes == s.maskTile c j i

/-- Lane number l of a RELEASE with no held tile (R115). -/
def State.releaseEmpty (s : State) (c : Nat) (j : Job) (i : Ins) : Option W64 :=
  if (s.recvLane c j i.x).held = 0 then some (BitVec.ofNat 64 i.x) else none

/-! ## The commands -/

/-- LOAD. -/
def execStreamLoad (core : BitVec 4) (s : State) : Host.Outcome State Fault Refusal := .next (objRow s core.toNat 0xC0 .load)

/-- STORE. -/
def execStore (core : BitVec 4) (s : State) : Host.Outcome State Fault Refusal := .next (objRow s core.toNat 0xC1 .store)

/-- MCAST. -/
def execMcast (core : BitVec 4) (s : State) : Host.Outcome State Fault Refusal := .next (objRow s core.toNat 0xC3 .mcast)

/-- SEND. -/
def execSend (core : BitVec 4) (s : State) : Host.Outcome State Fault Refusal :=
  let c := core.toNat
  .next (coreRow s c 0xC2 (fun _ => streamLegal)
    (fun s j i =>
      let p := if s.sendLegal c j i then Plan.plain.withOpnd (s.scratchOpnd c j i.imm (s.maskTile c j i))
        else { Plan.plain with legal := false }
      { p with room := s.threadRoom c i.thread })
    fun s _ j i sig => match s.scratchOpnd c j i.imm (s.maskTile c j i) with
      | .ok o => enqueueOp s c i.thread (streamOp (s.core c) .send 0#32 0 (s.maskTile c j i) o (s.maskLanes c i) 0 sig)
      | .error _ => s)

/-- RELEASE executes at once, on no thread. -/
def execRelease (core : BitVec 4) (s : State) : Host.Outcome State Fault Refusal :=
  let c := core.toNat
  .next (coreRow s c 0xC4 (fun _ => streamLegal)
    (fun s j i => { Plan.plain with legal := decide (i.x < s.recvCount j), under := s.releaseEmpty c j i })
    fun s _ j i sig => doneAt ((s.core c).pc - 16) sig (release s c j i.x) c)

/-- FENCE. -/
def execFence (core : BitVec 4) (s : State) : Host.Outcome State Fault Refusal :=
  let c := core.toNat
  .next (coreRow s c 0xC5 (fun _ => streamLegal)
    (fun s _ i => { Plan.plain with room := s.threadRoom c i.thread })
    fun s _ _ i sig => enqueueOp s c i.thread (streamOp (s.core c) .fence 0#32 0 0 (.work 0) [] 0 sig))

/-- STREAM_OP_START. `a.err` is what the protection of scratch finds as a SEND or STORE reads (R419 unit 0). -/
def execStreamOpStart (a : CoreErr) (thread : BitVec 6) (s : State) : Host.Outcome State Fault Refusal :=
  .next (streamStart s a.core.toNat thread.toNat a.err)

def execStreamOpComplete (core : BitVec 4) (thread : BitVec 6) (s : State) : Host.Outcome State Fault Refusal :=
  .next (streamComplete s core.toNat thread.toNat)

/-- TILE_ARRIVAL. `a.err` is what the protection of the lane record finds (R419 unit 6). -/
def execTileArrival (a : CoreErr) (lane : BitVec 6) (s : State) : Host.Outcome State Fault Refusal :=
  .next (if s.obs.halted then s else tileArrives s a.core.toNat lane.toNat a.err)

/-- CREDIT_RETURN. `a.err` is what the protection of the lane record finds. -/
def execCreditReturn (a : CoreErr) (lane : BitVec 6) (s : State) : Host.Outcome State Fault Refusal :=
  .next (if s.obs.halted then s else creditArrives s a.core.toNat lane.toNat a.err)

def execCounterUpdate (home : BitVec 4) (err : SramErr) (s : State) : Host.Outcome State Fault Refusal :=
  .next (killWaiters (counterStep s home.toNat err))

def execWatchPush (core : BitVec 4) (s : State) : Host.Outcome State Fault Refusal :=
  .next (if s.obs.halted then s else watchPush s core.toNat)

end Sys2Proof.Machine
end

