-- ==== Sys2Proof/Machine/Verifier.lean ====
section
/-! DEFINITION. The loader verifier (R174 to R178): KP_LOADER_MODE, the static checks of R176, and the verdict on a
generation. -/

namespace Sys2Proof.Machine

/-! ## The checks of R176 -/

/-- Check 1: opcode defined, unused fields zero, field values defined. -/
def staticLegal (i : Ins) : Bool :=
  if i.op < 0x40 then controlLegal i
  else if i.op < 0x80 then matrixLegal i
  else if i.op < 0xC0 then vectorLegal i
  else streamLegal i

/-- Check 4: the target of a branch whose offset the instruction holds. -/
def branchOk (len off : Nat) (i : Ins) : Bool :=
  !(decide (0x18 ≤ i.op) && decide (i.op ≤ 0x1E)) || goodTarget len ((off : Int) + i.imm64.toInt)

/-- Check 4: ENTRY, looked at with the first instruction. -/
def entryOk (len entry off : Nat) : Bool := off != 0 || (entry % 16 == 0 && decide (entry < len))

/-- Operations with SEL. -/
def Ins.hasSel (i : Ins) : Bool := i.op == 0xC0 || i.op == 0xC1 || i.op == 0xC3

/-- Scratch operands whose value the instruction alone fixes (R176 check 7). -/
def Ins.fixedOperands (i : Ins) : List W32 :=
  if i.op = 0x14 ∨ i.op = 0x15 ∨ (0x40 ≤ i.op ∧ i.op ≤ 0x42) then (if i.a = 0 then [i.imm] else [])
  else if i.op = 0xC0 ∨ i.op = 0xC1 ∨ i.op = 0xC2 ∨ i.op = 0xC3 then [i.imm]
  else if 0x80 ≤ i.op ∧ i.op < 0xC0 then
    let src (kind field : Nat) : List W32 := if 1 ≤ kind ∧ kind ≤ 3 ∧ field = 0 then [0#32] else []
    src (bitField i.mod 2 0) i.a ++ src (bitField i.mod 5 3) i.b ++ src (bitField i.mod 8 6) i.c ++
      (if !bitAt i.mod 9 && bitField i.x 4 0 == 0 then [i.imm] else [])
  else []

/-- TILE_BYTES of the receive lanes of a station, in lane order (R97). -/
def Image.recvTiles (g : Image) (st : Nat) : List Nat :=
  (g.streamIn st).flatMap fun e => (List.range (g.coresOf e.src)).map fun _ => e.tileBytes

/-- Check 5 for a station. -/
def slotOk (t : Station) (i : Ins) : Bool := !i.hasSel || (!bitAt i.mod 6 && (i.a != 0 || decide (0 < t.objCount)))

/-- Check 6 for a station. -/
def lanesOk (g : Image) (t : Station) (i : Ins) : Bool :=
  let n := g.recvLanes t.index
  (i.op != 0xC4 || decide (i.x < n)) && i.fixedOperands.all fun v => !v.msb || decide (bitField v.toNat 30 25 < n)

/-- Check 7 for a station. -/
def scratchOk (g : Image) (t : Station) (i : Ins) : Bool :=
  i.fixedOperands.all fun v =>
    if v.msb then decide (bitField v.toNat 24 0 < (g.recvTiles t.index).getD (bitField v.toNat 30 25) 0)
    else decide (v.toNat < g.workLen t)

/-- The code with which an instruction fails for a station, if it does (checks 1 to 7). -/
def stationCheck (g : Image) (x : Gen) (off : Nat) (i : Ins) (t : Station) : Option (BitVec 16) :=
  if !(definedOp i.op && staticLegal i && pathOk t.features i) then some Config.ILLEGAL_OPCODE
  else if i.op = 0x41 ∧ (wfmtFault i).isSome then some Config.FORMAT_MISMATCH
  else if !(branchOk x.len off i && entryOk x.len t.entry off && slotOk t i && lanesOk g t i) then some Config.ILLEGAL_OPCODE
  else if !scratchOk g t i then some Config.SCRATCH_RANGE
  else none

/-- The same for a free program. -/
def freeCheck (x : Gen) (off : Nat) (i : Ins) : Option (BitVec 16) :=
  if !(definedOp i.op && staticLegal i && pathOk x.features i) then some Config.ILLEGAL_OPCODE
  else if i.op = 0x41 ∧ (wfmtFault i).isSome then some Config.FORMAT_MISMATCH
  else if !(branchOk x.len off i && entryOk x.len x.entry off && (!i.hasSel || (bitAt i.mod 6 && i.op != 0xC3))) then
    some Config.ILLEGAL_OPCODE
  else none

/-- Check 8: the last instruction. -/
def lastOk (i : Ins) : Bool := i.op == 0x02 || i.op == 0x01 || i.op == 0x18 || i.op == 0x1F

/-- Stations of the running image that share a generation's range, by index. -/
def State.genStations (s : State) (x : Gen) : List Station := match s.run with
  | some r => if x.station then r.img.stations.filter fun t => r.img.progBase + t.progOffset == x.base && t.progLen == x.len else []
  | none => []

/-- The failure of one instruction: its code and the lowest failing station, 0xFFFF for a free program. Where stations that share
the range fail different checks at it, the code is the first that the named station fails. DEDUCED, log entry 86. -/
def State.insFault (s : State) (x : Gen) (off : Nat) (i : Ins) : Option (BitVec 16 × BitVec 16) :=
  if x.station then
    match s.run with
    | none => none
    | some r => ((s.genStations x).filterMap fun t =>
        (stationCheck r.img x off i t).map fun c => (c, BitVec.ofNat 16 t.index)).head?
  else (freeCheck x off i).map fun c => (c, 0xFFFF#16)

/-- Instruction words of a generation, decrypted where its program object is ENCRYPTED (R175). -/
def State.progIns (s : State) (x : Gen) (off : Nat) : Ins :=
  let bs := match x.keySlot with
    | none => s.readBytes (x.base + off) 16
    | some k => (match s.keyOf k with
      | some key => s.plainBytes key (x.base - x.progOffset) (x.progOffset + off) 16
      | none => s.readBytes (x.base + off) 16)
  decodeIns (leNat bs)

/-- Scan from an offset, `n` instructions left. -/
def State.scan (s : State) (x : Gen) : Nat → Nat → Verdict
  | 0, off =>
    if lastOk (s.progIns x (off - 16)) then .verified
    else .rejected Config.ILLEGAL_OPCODE (off - 16)
      (match s.genStations x with | t :: _ => BitVec.ofNat 16 t.index | [] => 0xFFFF#16)
  | n + 1, off => match s.insFault x off (s.progIns x off) with
    | some f => .rejected f.1 off f.2
    | none => State.scan s x n (off + 16)

/-- The verdict on a generation (R175, R176). -/
def State.verdictOn (s : State) (x : Gen) : Verdict :=
  if (match x.keySlot with | some k => !s.keyLoaded k | none => false) then .rejected Config.ACCESS_DENIED 0 0xFFFF#16
  else s.scan x (x.len / 16) 0

/-! ## The end of a scan -/

/-- Record a rejection in KP_VERIFY_FAULT unless one is held (R177, R179). -/
def verifyFault (s : State) (e : Nat) (code : BitVec 16) (off : Nat) (st : BitVec 16) : State :=
  if s.kp.vfValid then s
  else chSample { s with kp := { s.kp with
    vfValid := true, vfEntry := BitVec.ofNat 13 e, vfStation := st, vfCode := code, vfOffset := BitVec.ofNat 32 off } } 97

/-- A LAUNCH that waited for its verdict proceeds or fails as a submission error (R178). -/
def launchVerdict (v : Verdict) (s : State) (x : Nat × Cmd) : State := match v with
  | .rejected code _ _ => completeCmd s x.1 x.2.seqNo code true 0#64
  | _ => s.modQueue x.1 fun q => q.modCmd x.2.seqNo fun c => { c with phase := .fetched }

/-- LAUNCHes that wait for a generation's verdict. -/
def State.verdictWaiters (s : State) (e : Nat) : List (Nat × Cmd) :=
  s.queues.flatMap fun q => (q.2.cmds.filter fun c => c.phase == .verifying && c.gen == some e).map fun c => (q.1, c)

/-- The scanner has finished the oldest queued generation; one that became FREE meanwhile is passed by. -/
def verifyDone (s : State) : State := match s.kp.verifyQueue.filter fun e => (s.gen e).state != .free with
  | [] => s
  | e :: rest =>
    let v := s.verdictOn (s.gen e)
    let s := { (s.modGen e fun g => { g with verdict := v }) with kp := { s.kp with verifyQueue := rest } }
    let s := match v with
      | .rejected code off st => verifyFault s e code off st
      | _ => s
    pumpAll (genSettle ((s.verdictWaiters e).foldl (launchVerdict v) s))

/-! ## The commands -/

/-- Offset of KP_LOADER_MODE. -/
def KP_LOADER_MODE : Nat := 0x500

/-- A write of KP_LOADER_MODE. -/
def setLoaderMode (s : State) (v : W64) : State := { s with kp := { s.kp with loaderMode := v.setWidth 2 } }

/-- VERIFY_SCAN_DONE. -/
def execVerifyScanDone (s : State) : Host.Outcome State Fault Refusal :=
  .next (if s.portAlive && !s.obs.halted then verifyDone s else s)

/-- LOADER_MODE_WRITE (R174). -/
def execLoaderModeWrite (who : Who) (data : W32) (s : State) : Host.Outcome State Fault Refusal :=
  .next (hostWrite s who KP_LOADER_MODE false fun s => setLoaderMode s (data.setWidth 64))

end Sys2Proof.Machine
end

