-- ==== Sys2Proof/Machine/Packets.lean ====
section
/-! DEFINITION. Command packets (R276, R277, R281 to R291, R315, R332, R398, R400, R520): their decoding and the checks of R280. -/

namespace Sys2Proof.Machine

/-! ## Fields -/

/-- A little-endian field of a packet. -/
def pk (b : List Byte) (off len : Nat) : Nat := leAt b off len

/-- A handle field, and an argument word. -/
def pkHandle (b : List Byte) (off : Nat) : W32 := BitVec.ofNat 32 (pk b off 4)
def pkWord (b : List Byte) (off : Nat) : W64 := BitVec.ofNat 64 (pk b off 8)

/-- OP and SPEC of the header (R276). -/
def pkOp (b : List Byte) : Nat := pk b 0 1
def pkSpec (b : List Byte) : Nat := pk b 4 4

/-- Unnamed fields are zero: header bits 9 and 15:11, SPEC bits outside a mask, and body bytes outside the named ranges
(R276). -/
def pkClean (b : List Byte) (spec : Nat) (used : List (Nat × Nat)) : Bool :=
  bitField (pk b 0 2) 9 9 == 0 && bitField (pk b 0 2) 15 11 == 0 && pkSpec b &&& spec == pkSpec b &&
    (List.range 56).all fun i => (used.any fun u => decide (u.1 ≤ i + 8) && decide (i + 8 < u.1 + u.2)) || pk b (i + 8) 1 == 0

/-- A body if its rules hold. -/
def guarded (ok : Bool) (body : Body) : Option Body := if ok then some body else none

/-! ## Packets by opcode -/

/-- LAUNCH (R281). -/
def parseLaunch (b : List Byte) : Option Body :=
  let spec := pkSpec b
  let hm : BitVec 8 := BitVec.ofNat 8 (bitField spec 15 8)
  let om : BitVec 8 := BitVec.ofNat 8 (bitField spec 23 16)
  let args := [pkWord b 0x20, pkWord b 0x28, pkWord b 0x30, pkWord b 0x38]
  let off := pk b 0xC 4
  let len := pk b 0x10 4
  let entry := pk b 0x14 4
  guarded
    (pkClean b 0xFFFF3F [(8, 16), (0x18, 4), (0x20, 32)] && om &&& hm == om && pk b 8 4 != 0 && off % 16 == 0 &&
      len % 16 == 0 && decide (16 ≤ len) && decide (len ≤ 16777216) && entry % 16 == 0 && decide (entry < len) &&
      decide (1 ≤ pk b 0x18 4) && (List.range 8).all fun k => !bitAt hm.toNat k || argHandle args k != 0#32)
    (.launch (bitField spec 3 0) (BitVec.ofNat 2 (bitField spec 5 4)) hm om (pkHandle b 8) off len entry (pk b 0x18 4) args)

/-- COPY and FILL (R283). -/
def parseCopy (b : List Byte) : Option Body :=
  guarded
    (pkClean b 0 [(8, 8), (0x10, 8), (0x18, 8), (0x20, 8)] && pk b 8 4 != 0 && pk b 0xC 4 != 0 &&
      decide (pk b 0x10 8 < 2 ^ 48) && decide (1 ≤ pk b 0x20 8) && decide (pk b 0x20 8 ≤ 2 ^ 32))
    (.copy (pkHandle b 8) (pkHandle b 0xC) (pk b 0x10 8) (pk b 0x18 8) (pk b 0x20 8))
def parseFill (b : List Byte) : Option Body :=
  guarded
    (pkClean b 0 [(8, 4), (0x10, 8), (0x18, 8), (0x20, 8)] && pk b 8 4 != 0 && decide (1 ≤ pk b 0x18 8) &&
      decide (pk b 0x18 8 ≤ 2 ^ 32))
    (.fill (pkHandle b 8) (pk b 0x10 8) (pk b 0x18 8) (pkWord b 0x20))

/-- A fence target: a nonzero handle and an offset that is a multiple of 16. -/
def fenceField (b : List Byte) : Bool := pk b 8 4 != 0 && pk b 0x10 8 % 16 == 0

/-- A counter target: a 17-bit ID and a zero offset. -/
def counterField (b : List Byte) : Bool := decide (pk b 8 4 < 2 ^ 17) && pk b 0x10 8 == 0

/-- WAIT (R284). -/
def parseWait (b : List Byte) : Option Body :=
  let cont := bitAt (pkSpec b) 1
  let clean := pkClean b 3 [(8, 4), (0x10, 8), (0x18, 8)]
  if bitAt (pkSpec b) 0 then
    guarded (clean && counterField b && decide (pk b 0x18 8 < 2 ^ 32))
      (.waitCounter cont (BitVec.ofNat 17 (pk b 8 4)) (pkHandle b 0x18))
  else guarded (clean && fenceField b) (.waitFence cont (pkHandle b 8) (pk b 0x10 8) (pkWord b 0x18))

/-- SIGNAL (R285). -/
def parseSignal (b : List Byte) : Option Body :=
  let add := bitField (pkSpec b) 1 0 == 1
  let code : BitVec 16 := BitVec.ofNat 16 (pk b 0x20 2)
  let clean := pkClean b 7 [(8, 4), (0x10, 8), (0x18, 8), (0x20, 2)] && decide (bitField (pkSpec b) 1 0 ≤ 1)
  if bitAt (pkSpec b) 2 then
    guarded (clean && counterField b && decide (pk b 0x18 8 < 2 ^ 32) && code == 0#16)
      (.signalCounter add (BitVec.ofNat 17 (pk b 8 4)) (pkHandle b 0x18))
  else guarded (clean && fenceField b && Config.listedCode code && code != Config.ABANDONED)
    (.signalFence add (pkHandle b 8) (pk b 0x10 8) (pkWord b 0x18) code)

/-- BARRIER (R286, R315). -/
def parseBarrier (b : List Byte) : Option Body :=
  guarded (pkClean b 2 [(8, 2), (0xC, 4)] && decide (pk b 8 2 < 1024))
    (.barrier (bitAt (pkSpec b) 1) (pk b 8 2) (pkHandle b 0xC))

/-- KIND of an object (R244). -/
def objKind : Nat → ObjKind
  | 0 => .plain | 1 => .output | 2 => .fence | _ => .record

/-- OBJECT_MAP in its three modes (R287). -/
def parseMapNew (b : List Byte) : Option Body :=
  let f := pkSpec b
  let kind := objKind (bitField f 3 2)
  let enc := bitAt f 6
  guarded
    (pkClean b 0x1FFFDFC ([(8, 4), (0x10, 16)] ++ if kind = .fence then [(0x28, 8)] else []) && pk b 8 4 != 0 &&
      decide (pk b 0x10 8 < 2 ^ 48) && pk b 0x10 8 % 65536 == 0 && decide (1 ≤ pk b 0x18 8) &&
      decide (pk b 0x18 8 ≤ 2 ^ 48 - 1) && (!bitAt f 5 || enc) && (enc || bitField f 24 16 == 0) &&
      (bitAt f 7 || bitField f 15 10 == 0))
    (.mapNew kind (bitAt f 4) (bitAt f 5) enc (bitAt f 7) (bitAt f 8) (BitVec.ofNat 6 (bitField f 15 10))
      (BitVec.ofNat 9 (bitField f 24 16)) (pkHandle b 8) (pk b 0x10 8) (pk b 0x18 8) (pkWord b 0x28))
def parseMapImport (b : List Byte) : Option Body :=
  guarded (pkClean b 0x13 [(8, 8)] && pk b 8 4 != 0 && pk b 0xC 4 != 0)
    (.mapImport (bitAt (pkSpec b) 4) (pkHandle b 8) (pkHandle b 0xC))
def parseMapBind (b : List Byte) : Option Body :=
  guarded (pkClean b 3 [(8, 4), (0x20, 4)] && pk b 8 4 != 0) (.mapBind (pkHandle b 8) (pkHandle b 0x20))
def parseMap (b : List Byte) : Option Body := match bitField (pkSpec b) 1 0 with
  | 0 => parseMapNew b
  | 1 => parseMapImport b
  | 2 => parseMapBind b
  | _ => none

/-- OBJECT_FREE, TIMESTAMP, COUNTER_DUMP, INDIRECT, NOP (R288 to R292). -/
def parseFree (b : List Byte) : Option Body := guarded (pkClean b 0 [(8, 4)] && pk b 8 4 != 0) (.objFree (pkHandle b 8))
def parseTimestamp (b : List Byte) : Option Body :=
  guarded (pkClean b 0 [(8, 4), (0x10, 8)] && pk b 8 4 != 0 && pk b 0x10 8 % 16 == 0) (.timestamp (pkHandle b 8) (pk b 0x10 8))
def parseDump (b : List Byte) : Option Body :=
  guarded (pkClean b 3 [(8, 4), (0x10, 8)] && pk b 8 4 != 0 && pk b 0x10 8 % 64 == 0)
    (.counterDump (bitAt (pkSpec b) 0) (bitAt (pkSpec b) 1) (pkHandle b 8) (pk b 0x10 8))
def parseIndirect (b : List Byte) : Option Body :=
  guarded
    (pkClean b 0 [(8, 4), (0x10, 8), (0x18, 4)] && pk b 8 4 != 0 && pk b 0x10 8 % 64 == 0 && decide (1 ≤ pk b 0x18 4) &&
      decide (pk b 0x18 4 ≤ 4096))
    (.indirect (pkHandle b 8) (pk b 0x10 8) (pk b 0x18 4))
def parseNop (b : List Byte) : Option Body := guarded (pkClean b 0 []) .nop

/-- Check 2 of R280: the body of a packet, none where it is malformed. -/
def parsePacket (b : List Byte) : Option Body := match pkOp b with
  | 0x00 => parseNop b
  | 0x01 => parseLaunch b
  | 0x02 => parseCopy b
  | 0x03 => parseFill b
  | 0x04 => parseWait b
  | 0x05 => parseSignal b
  | 0x06 => parseBarrier b
  | 0x07 => parseMap b
  | 0x08 => parseFree b
  | 0x09 => parseTimestamp b
  | 0x0A => parseDump b
  | 0x0B => parseIndirect b
  | _ => none

/-! ## Check 3: stale handles (R247) -/

/-- Handles a command names that must not be stale, in packet order. -/
def Body.handles : Body → List W32
  | .launch _ _ hm _ prog _ _ _ _ args => prog :: ((List.range 8).filter (bitAt hm.toNat)).map (argHandle args)
  | .copy s d _ _ _ => [s, d]
  | .fill d _ _ _ => [d]
  | .waitFence _ t _ _ => [t]
  | .signalFence _ t _ _ _ => [t]
  | .mapImport _ _ s => [s]
  | .mapBind h _ => [h]
  | .objFree h => [h]
  | .timestamp h _ => [h]
  | .counterDump _ _ h _ => [h]
  | .indirect h _ _ => [h]
  | _ => []

/-! ## Check 4: rights (R252, R253, R256, R281 to R291, R296, R398, R400) -/

/-- A rule of check 4 and the handle it is about, if any. -/
abbrev Rule := Bool × W64

/-- The DETAIL of the first rule broken. -/
def firstBroken (l : List Rule) : Option W64 := (l.find? fun r => !r.1).map fun r => r.2

/-- DETAIL that names a handle. -/
def onHandle (h : W32) : W64 := h.setWidth 64

/-- A handle mapped by a context, with a further condition on its entry. -/
def State.handleRule (s : State) (ctx : Nat) (h : W32) (ok : Obj → Bool) : Rule :=
  let o := s.obj (handleIndex h)
  (o.owner.toNat == ctx && ok o, onHandle h)

/-- A range lies inside an object. -/
def Obj.holds (o : Obj) (off len : Nat) : Bool := decide (off + len ≤ o.size)

/-- The object of an entry is bound to a station's OUTPUT slot (R256). -/
def State.boundOutput (s : State) (i : Nat) : Bool := match s.run with
  | some r => r.bindings.any fun b => s.rootOf b.2.obj == s.rootOf i && (match r.img.slotDecl b.1 with
      | some d => d.output
      | none => false)
  | none => false

/-- A destination of COPY and FILL (R283). -/
def State.copyDest (s : State) (ctx : Nat) (h : W32) (off len : Nat) : Rule :=
  s.handleRule ctx h fun o => o.kind == .output && o.writable && !o.bound && !s.boundOutput (handleIndex h) &&
    !o.encrypted && !o.isSealed && o.holds off len

/-- Whether granted memory covers a range: each range takes what it covers from the start (R287). -/
def covered (mem : List (Nat × Nat)) : Nat → Nat → Nat → Bool
  | 0, _, len => len == 0
  | n + 1, a, len =>
    if len = 0 then true
    else match mem.find? fun r => decide (r.1 ≤ a) && decide (a < r.1 + r.2) with
      | some r => covered mem n (r.1 + r.2) (len - (r.1 + r.2 - a))
      | none => false

/-- Entry that an OBJECT_MAP NEW or IMPORT reserves from its fetch until it commits, fails or is dropped (R520). -/
def Cmd.reserves (c : Cmd) : Option Nat :=
  if c.phase = .recorded ∨ c.code ≠ 0#16 then none
  else match c.body with
    | .mapNew _ _ _ _ _ _ _ _ h _ _ _ => some (handleIndex h)
    | .mapImport _ h _ => some (handleIndex h)
    | _ => none

/-- Whether an entry is reserved (R520). -/
def State.reservedEntry (s : State) (i : Nat) : Bool := s.queues.any fun q => q.2.cmds.any fun c => c.reserves == some i

/-- The new handle of an OBJECT_MAP (R287, R520). -/
def State.newHandle (s : State) (inst : Nat) (h : W32) : Rule :=
  let p := (s.inst inst).pools
  let i := handleIndex h
  (s.kp.objEnable && decide (p.objFirst ≤ i) && decide (i < p.objFirst + p.objCount) && (s.obj i).state == .free &&
    handleGen h == (s.obj i).gen.toNat && !s.reservedEntry i, onHandle h)

/-- An import's rules (R252). -/
def State.importRule (s : State) (inst : Nat) (writable : Bool) (src : W32) : Rule :=
  let o := s.obj (handleIndex src)
  let r := s.obj o.parent
  (r.share && (r.inst == inst || r.shareInst.toNat == inst) && (!writable || o.writable), onHandle src)

/-- Memory that a new object takes (R287). -/
def objSpan (kind : ObjKind) (size : Nat) : Nat := if kind = .output then 2 * vstride size else size

/-- A LAUNCH needs a share of its context in the queue's partition that is LIVE or CLEARING (R332). -/
def State.launchShare (s : State) (ctx p : Nat) : Bool := match s.shareOf ctx p with
  | some x => x.2.state != .releasing
  | none => false

/-- Check 4 of a body: the DETAIL of the first rule that fails. -/
def State.rightsFault (s : State) (ctx p : Nat) (b : Body) : Option W64 :=
  let inst := (s.ctx ctx).inst
  match b with
  | .launch _ _ hm om prog off len _ _ args =>
    firstBroken (s.handleRule ctx prog (fun o => o.kind == .plain && o.holds off len && (!(s.ctx ctx).isSealed || o.encrypted)) ::
      (((List.range 8).filter (bitAt hm.toNat)).map fun k =>
        s.handleRule ctx (argHandle args k) fun o =>
          if bitAt om.toNat k then o.kind == .output && o.writable && !s.boundOutput (handleIndex (argHandle args k))
          else o.kind == .plain || o.kind == .output) ++ [(s.launchShare ctx p, 0#64)])
  | .copy src dst so d len =>
    firstBroken [s.handleRule ctx src (fun o => (o.kind == .plain || o.kind == .output) && !o.encrypted && !o.isSealed && o.holds so len),
      s.copyDest ctx dst d len]
  | .fill dst d len _ => firstBroken [s.copyDest ctx dst d len]
  | .waitFence _ t off _ => firstBroken [s.handleRule ctx t fun o => o.kind == .fence && o.holds off 16]
  | .waitCounter _ id _ => firstBroken [(s.queueMayWait inst id, 0#64)]
  | .signalFence _ t off _ _ =>
    firstBroken [s.handleRule ctx t fun o =>
      o.kind == .fence && o.holds off 16 && (o.parent == handleIndex t || o.writable)]
  | .signalCounter add id _ => firstBroken [(s.queueMaySignal inst add id, 0#64)]
  | .barrier _ fl _ => firstBroken [((s.flight fl).state != .free && bitAt (s.flight fl).grant.toNat inst, 0#64)]
  | .mapNew kind _ _ enc _ _ _ _ h base size _ =>
    firstBroken [s.newHandle inst h,
      (((kind != .fence && kind != .record) || size % 16 == 0) &&
       (!enc || ((kind == .plain || kind == .output) && size % 4096 == 0)) &&
       covered (s.inst inst).pools.mem 9 base (objSpan kind size), 0#64)]
  | .mapImport w h src => firstBroken [s.newHandle inst h, s.importRule inst w src]
  | .mapBind h slot =>
    firstBroken [s.handleRule ctx h (fun _ => match s.run with
      | some r => (match r.img.slotDecl slot.toNat with
        | some d => s.slotAccepts d ctx (handleIndex h)
        | none => false)
      | none => false)]
  | .objFree h => firstBroken [s.handleRule ctx h fun _ => true]
  | .timestamp h off => firstBroken [s.handleRule ctx h fun o => o.kind == .record && o.holds off 16]
  | .counterDump _ _ h off => firstBroken [s.handleRule ctx h fun o => o.kind == .record && o.holds off 512]
  | .indirect h off count => firstBroken [s.handleRule ctx h fun o => o.kind == .plain && o.holds off (64 * count)]
  | _ => none

/-! ## Checks 5 to 8 -/

/-- Key slot named outside the instance's pool (check 5, R397). -/
def State.keyFault (s : State) (inst : Nat) : Body → Bool
  | .mapNew _ _ _ true _ _ _ ks _ _ _ _ => !(s.inst inst).pools.hasKey ks.toNat
  | _ => false

/-- FEATURES absent from KP_GRADE (check 6). -/
def State.engineFault (s : State) : Body → Bool
  | .launch _ f _ _ _ _ _ _ _ _ => (bitAt f.toNat 0 && !bitAt s.fuse.grade.toNat 16) || (bitAt f.toNat 1 && !bitAt s.fuse.grade.toNat 17)
  | _ => false

/-- Bound or core count beyond the partition (check 7, R47). -/
def State.boundFault (s : State) (p : Nat) : Body → Bool
  | .launch m _ _ _ _ _ _ _ bound _ => match s.run with
    | some r => decide (freeMax r.img r.place p < bound) || decide (r.img.freeLimit p < m + 1)
    | none => true
  | _ => false

/-- GLOBAL from a tenant (check 8). -/
def roleFault (inst : Nat) : Body → Bool
  | .counterDump true _ _ _ => inst != 0
  | _ => false

/-- What the checks of R280 make of a packet. -/
inductive Checked where
  | fail (code : BitVec 16) (detail : W64)
  | stale (handle : W32)
  | ok (body : Body)
  deriving DecidableEq, Repr

/-- Checks 3 to 8 on a body. -/
def State.checkBody (s : State) (ctx p : Nat) (body : Body) : Checked :=
  let inst := (s.ctx ctx).inst
  match body.handles.find? s.isStale with
  | some h => .stale h
  | none => match s.rightsFault ctx p body with
    | some d => .fail Config.HANDLE_RIGHTS d
    | none =>
      if s.keyFault inst body then .fail Config.KEY_MISUSE 0#64
      else if s.engineFault body then .fail Config.ENGINE_ABSENT 0#64
      else if s.boundFault p body then .fail Config.BOUND_EXCEEDS_WINDOW 0#64
      else if roleFault inst body then .fail Config.ACCESS_DENIED 0#64
      else .ok body

/-- The checks of R280 in order. -/
def State.checkPacket (s : State) (ctx p : Nat) (inner : Bool) (b : List Byte) : Checked :=
  if inner && pkOp b == 0x0B then .fail Config.INDIRECT_DEPTH 0#64
  else match parsePacket b with
    | none => .fail Config.PACKET_MALFORMED 0#64
    | some body => s.checkBody ctx p body

end Sys2Proof.Machine
end

