-- ==== Sys2Proof/Machine/Fetch.lean ====
section
/-! DEFINITION. Doorbells and fetch slots (R269, R270, R272, R273, R340), the fetch of each command packet and what it
does at fetch (R161, R178, R249, R250, R256, R275, R280 to R292, R319, R353, R401, R423). -/

namespace Sys2Proof.Machine

/-! ## Doorbells (R270) -/

/-- Whether a queue ID lies in a pool. -/
def Pools.hasQueue (p : Pools) (q : Nat) : Bool := decide (p.queueFirst ≤ q) && decide (q < p.queueFirst + p.queueCount)

/-- States from which an overrun leads to ERROR. -/
def QState.mayFail : QState → Bool
  | .idle => true | .ready => true | .active => true | .waiting => true | .stopped => true | _ => false

/-- A queue becomes READY when its doorbell leaves it something to fetch (R272). -/
def Queue.rung (q : Queue) : Queue := if q.state = .idle then { q with state := q.restState } else q

/-- An ACTIVE queue whose HEAD has reached TAIL gives up its slot (R272). -/
def Queue.drained (q : Queue) : Queue := if q.state = .active then { q with state := if q.restState = .idle then .idle else .active } else q

/-- A 64-bit write of the doorbell of a page (R270, R359, R430). -/
def ringBell (s : State) (page : Nat) (d : W64) : State :=
  let i := s.inst page
  let qn := bitField d.toNat 12 0
  let tail : W32 := BitVec.ofNat 32 (bitField d.toNat 63 32)
  let q := s.queue qn
  if i.state = .free ∨ i.state = .resetting ∨ s.fr.stopped = true then s
  else if !i.pools.hasQueue qn then accessDeniedId s qn
  else if q.state = .free then s
  else if q.state.mayFail && decide (2 ^ q.ringLog2 < (tail - q.head).toNat) then
    chPulse (s.setQueue qn { q with tail := tail, state := .error }) 107 Config.PACKET_MALFORMED (BitVec.ofNat 32 qn)
  else s.setQueue qn ({ q with tail := tail }.rung.drained)

/-- DOORBELL: a 64-bit write of MB_DOORBELL. -/
def execDoorbell (page : BitVec 6) (who : Who) (data : W64) (s : State) : Host.Outcome State Fault Refusal :=
  .next (hostWrite s who (0x1008000 + 0x10000 * page.toNat) true fun s => ringBell s page.toNat data)

/-! ## Fetch slots (R273, R340) -/

/-- The Keeper fetches at all. -/
def State.fetches (s : State) : Bool :=
  s.portAlive && s.boot.state == .ready && !s.obs.halted && !s.fr.stopped && !s.boot.retEntering

/-- Queues of a partition in a state. -/
def State.queuesIn (s : State) (p : Nat) (st : QState) : List (Nat × Queue) :=
  s.queues.filter fun q => q.2.state == st && q.2.part == p

/-- Of some queues the one of lowest, and of highest, virtual time; ties go to the lowest queue ID. -/
def lowestVt : List (Nat × Queue) → Option (Nat × Queue)
  | [] => none
  | x :: r => match lowestVt r with
    | none => some x
    | some y => if vtLess y.2.vt x.2.vt then some y else some x
def highestVt : List (Nat × Queue) → Option (Nat × Queue)
  | [] => none
  | x :: r => match highestVt r with
    | none => some x
    | some y => if vtLess x.2.vt y.2.vt then some y else some x

/-- Fetch slots that a partition holds. -/
def State.slotsHeld (s : State) (p : Nat) : Nat := (s.queuesIn p .active).length

/-- Queues of a partition that want a fetch slot: READY ones, and an IDLE one with an INDIRECT in progress, which a reset left
(R272, R291; log entry 71). -/
def State.slotSeekers (s : State) (p : Nat) : List (Nat × Queue) :=
  s.queues.filter fun q => q.2.part == p && (q.2.state == .ready || (q.2.state == .idle && q.2.indirect.isSome))

/-- The partition that holds the most slots; ties go to the higher index (R340). -/
def State.richestPart (s : State) : Nat := (argmin (fun p => -(s.slotsHeld p : Int)) (List.range 8).reverse).getD 0

/-- Put a queue into a state. -/
def setQState (s : State) (qn : Nat) (st : QState) : State := s.modQueue qn fun q => { q with state := st }

/-- Give a queue a slot; with nothing left to fetch it is IDLE at once (R272). -/
def giveSlot (s : State) (qn : Nat) : State := s.modQueue qn fun q => { q with state := .active }.drained

/-- The queue whose slot a READY queue of a partition takes when none is free (R340). -/
def State.slotVictim (s : State) (p : Nat) (q : Queue) : Option Nat :=
  if s.slotsHeld p < 8 then (highestVt (s.queuesIn s.richestPart .active)).map fun x => x.1
  else match highestVt (s.queuesIn p .active) with
    | some x => if vtLess q.vt x.2.vt then some x.1 else none
    | none => none

/-- A fetch slot for the partition `p`. A free slot goes to the next partition in turn that has a queue for it, which the
command must name; a taken-back slot does not move the turn (R340; log entry 7). -/
def fetchSlot (s : State) (p : Nat) : State :=
  match lowestVt (s.slotSeekers p) with
  | none => s
  | some x =>
    if s.queues.countP (fun q => q.2.state == .active) < 64 then
      let turns := (List.range 8).map fun k => (s.rg.fetchTurn.toNat + k) % 8
      match turns.find? fun t => !(s.slotSeekers t).isEmpty with
      | some t => if t = p then giveSlot { s with rg := { s.rg with fetchTurn := BitVec.ofNat 3 (p + 1) } } x.1 else s
      | none => s
    else match s.slotVictim p x.2 with
      | some v => giveSlot (setQState s v .ready) x.1
      | none => s

/-- QUEUE_FETCH_SLOT. -/
def execQueueFetchSlot (part : BitVec 3) (s : State) : Host.Outcome State Fault Refusal :=
  .next (if s.fetches then fetchSlot s part.toNat else s)

/-! ## Where the next packet lies -/

/-- Whether a queue fetches its next packet now (R178, R273, R291, R360, R368). -/
def State.mayFetch (s : State) (q : Queue) : Bool :=
  s.fetches && !s.keeperHeld && q.state == .active && (s.ctx q.ctx).state == .live && (s.inst (s.ctx q.ctx).inst).state == .enabled && (q.cmds.all fun c => c.phase != .verifying) &&
    decide ((q.cmds.filter fun c => !c.isDone).length < 8) && (q.indirect.isSome || (q.outer.isNone && q.head != q.tail))

/-- Object and offset of the next packet: in an INDIRECT's range, or in ring slot HEAD mod 2^RING_LOG2 (R269, R291). -/
def Queue.packetObj (q : Queue) : Nat := match q.indirect with
  | some r => r.obj
  | none => q.ringObj
def Queue.packetOff (q : Queue) : Nat := match q.indirect with
  | some r => r.off + 64 * r.next
  | none => q.ringOff + 64 * (q.head.toNat % 2 ^ q.ringLog2)

/-- Device address of the next packet. -/
def State.packetAddr (s : State) (q : Queue) : Nat := (s.obj q.packetObj).base + q.packetOff

/-! ## Past fetch -/

/-- A command that comes out of a packet. -/
def newCmd (s : State) (q : Queue) (b : List Byte) (body : Body) : Cmd :=
  { index := match q.outer with | some o => o.index | none => q.head,
    tag := BitVec.ofNat 16 (pk b 2 2), notify := bitAt (pk b 0 2) 8, overlap := bitAt (pk b 0 2) 10, body := body,
    phase := .fetched, code := 0#16, submission := false, coKilled := false, ctxFault := false, reruns := 0#16, sub := 0#16,
    detail := 0#64, refs := [], gen := none, job := none, inner := q.indirect.map fun r => r.next, pins := [], wrote := [],
    arrived := false, met := none, startTime := s.esc.time, endTime := 0#64, seqNo := s.rg.cmdSeq, counts := [], cores := 0, prog := 0 }

/-- The run of packets that a command begins: that of an INDIRECT that has passed R280 (R291). -/
def Cmd.run (c : Cmd) : Option IndirectRun := match c.phase, c.body with
  | .started, .indirect h off count => some { obj := handleIndex h, off := off, count := count, next := 0 }
  | _, _ => none

/-- A fetched packet leaves its place, and its command stands in queue order: a packet of an INDIRECT stands before it, and an
INDIRECT begins its run. -/
def Queue.push (q : Queue) (c : Cmd) : Queue := match q.indirect with
  | none => { q with head := q.head + 1#32, indirect := c.run, cmds := q.cmds ++ [c] }
  | some r => { q with
      indirect := if r.next + 1 = r.count then none else some { r with next := r.next + 1 },
      cmds := (q.cmds.takeWhile fun x => !x.isOuter) ++ c :: q.cmds.dropWhile fun x => !x.isOuter }

/-- A command is past fetch; what may start starts, and a drained queue gives up its slot. -/
def pushCmd (s : State) (qn : Nat) (c : Cmd) : State :=
  let s := { s with rg := { s.rg with cmdSeq := s.rg.cmdSeq + 1 } }
  regEval (pump (s.modQueue qn fun q => (q.push c).drained) qn)

/-- A submission error (R280): the command completes at once with SUBMISSION set, a JOB-class error (R418). -/
def pushFailed (s : State) (qn : Nat) (c : Cmd) (code : BitVec 16) (detail : W64) : State :=
  let s := errRecord s 1 none none (some (s.queue qn).part) code 0
  let s := pushCmd s qn { c with phase := .completed, code := code, submission := true, detail := detail, endTime := s.esc.time }
  pmBoth s (some (s.queueCtx qn)) 7 1

/-- A command that names a stale handle fails and faults its context, a JOB-class error (R242, R280, R418). -/
def pushStale (s : State) (qn : Nat) (c : Cmd) (h : W32) : State :=
  let s := errRecord s 1 none none (some (s.queue qn).part) Config.STALE_HANDLE 0
  let s := pushCmd s qn { c with
    phase := .completed, code := Config.STALE_HANDLE, detail := onHandle h, endTime := s.esc.time }
  faultRecord (pmBoth s (some (s.queueCtx qn)) 7 1) qn c.seqNo

/-- The queue's next command is held unfetched (R163, R248, R275). -/
def hold (s : State) (qn : Nat) (h : Held) : State := s.modQueue qn fun q => { q with held := h }

/-- Entries that a named handle holds references on: the entry, and its root (R250). -/
def State.entryRefs (s : State) (h : W32) : List Nat := [handleIndex h, s.rootOf (handleIndex h)].eraseDups

/-- References of a command past fetch (R250): OBJECT_FREE holds none. -/
def State.bodyRefs (s : State) (b : Body) : List Nat := match b with
  | .objFree _ => []
  | _ => (b.handles.flatMap s.entryRefs).eraseDups

/-! ## LAUNCH (R161, R178, R401) -/

/-- The program range that a LAUNCH names, as a generation. -/
def State.launchGen (s : State) (prog : W32) (off len entry : Nat) (feat : BitVec 2) : Gen :=
  let o := s.obj (handleIndex prog)
  { Gen.reset with
    base := o.base + off, len := len, entry := entry, features := feat, progHandle := prog,
    progOffset := off, keySlot := if o.encrypted then some o.keySlot.toNat else none }

/-- The LIVE entry that a LAUNCH matches: same base, length and key slot. -/
def State.genMatch (s : State) (g : Gen) : Option Nat :=
  (s.gens.find? fun x => x.2.state == .live && x.2.base == g.base && x.2.len == g.len && x.2.keySlot == g.keySlot).map fun x => x.1

/-- A LAUNCH past fetch on a generation: it waits for an outstanding verdict, and fails with that of a rejected one
(R178). -/
def pushLaunch (s : State) (qn : Nat) (c : Cmd) (e : Nat) : State :=
  match (s.gen e).verdict with
  | .rejected code _ _ => pushFailed s qn { c with refs := [] } code 0#64
  | .queued => pushCmd s qn { c with gen := some e, phase := .verifying }
  | _ => pushCmd s qn { c with gen := some e }

/-- A LAUNCH takes or publishes its generation; without an entry to take it is not fetched (R161, R163). -/
def fetchLaunch (s : State) (qn : Nat) (c : Cmd) (g : Gen) : State :=
  let c := { c with prog := g.base + g.entry }
  match s.genMatch g with
  | some e => pushLaunch (touchGen s e) qn c e
  | none => match s.genSlot with
    | some e => pushLaunch (publishAt s e g) qn c e
    | none => hold s qn .generation

/-! ## WAIT and BARRIER (R275, R319, R353) -/

/-- A pending-wait slot is free for an instance. -/
def State.waitRoom (s : State) (inst : Nat) : Bool :=
  decide (s.waitsHeld none < 16384) && decide (s.waitsHeld (some inst) < (s.inst inst).pools.waitQuota)

/-- A BARRIER whose EPOCH is the current round arrives (R319). -/
def arriveNow (s : State) (c : Cmd) : Cmd × Option Nat := match c.body with
  | .barrier _ fl ep => if (s.flight fl).round = ep then ({ c with arrived := true }, some fl) else (c, none)
  | _ => (c, none)

/-- A local arrival of a flight. -/
def addArrival (s : State) (n : Nat) : State := flightArrived (flightAdd s n 1) n

/-- No pending-wait slot for a WAIT or BARRIER: it is not fetched, FULL_SEEN is set and WAIT_TABLE_FULL reported, for an
instance's quota by a Keeper notice as well (R275, R353, R450 sources 106 and 107). -/
def waitFull (s : State) (qn : Nat) : State :=
  let quota := decide (s.waitsHeld none < 16384)
  let s := chSample { hold s qn .waitSlot with kp := { s.kp with waitFullSeen := true } } 106
  if quota then chPulse s 107 Config.WAIT_TABLE_FULL (BitVec.ofNat 32 qn) else s

/-- The write that a wait's outcome rests on has been acknowledged (R267). -/
def State.waitAcked (s : State) (b : Body) : Bool := match b with
  | .waitFence _ t _ _ => s.acked fun o => o == .fence (s.rootOf (handleIndex t))
  | _ => true

/-- A WAIT or BARRIER at fetch: decided at once, or it takes a pending-wait slot, or it is not fetched. -/
def fetchWait (s : State) (qn : Nat) (c : Cmd) : State :=
  match (if s.waitAcked c.body then s.waitOutcome c.body else none) with
  | some r => pushCmd s qn { c with phase := .started, code := r.1, detail := r.2 }
  | none =>
    if s.waitRoom (s.ctx (s.queue qn).ctx).inst then
      let a := arriveNow s c
      let s := pushCmd s qn { a.1 with phase := .pendingWait }
      let s := setQState s qn .waiting
      match a.2 with
      | some fl => addArrival s fl
      | none => s
    else waitFull s qn

/-! ## The fetch -/

/-- A command that has passed R280. -/
def fetchOk (s : State) (qn : Nat) (c : Cmd) : State :=
  let c := { c with refs := s.bodyRefs c.body }
  match c.body with
  | .launch _ feat _ _ prog off len entry _ _ => fetchLaunch s qn c (s.launchGen prog off len entry feat)
  | .waitFence _ _ _ _ => fetchWait s qn c
  | .waitCounter _ _ _ => fetchWait s qn c
  | .barrier _ _ _ => fetchWait s qn c
  | .objFree h => pushCmd (s.modObj (handleIndex h) fun o => { o with state := .freeing }) qn c
  | .indirect _ _ _ => pushCmd s qn { c with phase := .started }
  | _ => pushCmd s qn c

/-- Fetch and check the next packet of a queue (R248, R280, R397, R423). -/
def fetchPacket (s : State) (qn : Nat) : State :=
  let q := s.queue qn
  let a := s.packetAddr q
  let b := s.readBytes a 64
  let c (body : Body) := newCmd s q b body
  let bad := c (.malformed (BitVec.ofNat 8 (pkOp b)))
  if s.poisoned a 64 then
    pushFailed (errRecord s 1 (some 8) none (some q.part) Config.MEM_POISON a) qn bad Config.MEM_POISON 0#64
  else if pkOp b = 7 ∧ s.kp.objInitBusy = true then hold s qn .tableInit
  else match s.checkPacket q.ctx q.part q.indirect.isSome b with
    | .fail code d =>
      let s := pushFailed s qn bad code d
      if code = Config.KEY_MISUSE then tamperRaise s 3 else s
    | .stale h => pushStale s qn bad h
    | .ok body => fetchOk s qn (c body)

/-- OP of the next packet of a queue; a poisoned packet, an undefined OP and an OBJECT_MAP of mode 3 have none. -/
def State.nextOp (s : State) (q : Queue) : Option (Nat × Nat) :=
  let a := s.packetAddr q
  let b := s.readBytes a 64
  let mode := if pkOp b = 7 then bitField (pkSpec b) 1 0 else 0
  if s.poisoned a 64 || decide (0x0B < pkOp b) || mode == 3 then none else some (pkOp b, mode)

/-- A command-packet row: it fetches the next packet where that is its command, or where the packet is of no command, which
is fetched to fail (log entry 13). -/
def packetRow (s : State) (qn op mode : Nat) : State :=
  let q := s.queue qn
  if s.mayFetch q && q.held == .none then
    match s.nextOp q with
    | none => fetchPacket s qn
    | some x => if x = (op, mode) then fetchPacket s qn else s
  else s

/-- A held command is fetched once there is room; until then it stays held (R163, R248, R275). -/
def fetchRetry (s : State) (qn : Nat) : State :=
  let q := s.queue qn
  if s.mayFetch q && q.held != .none then
    let t := fetchPacket (hold s qn .none) qn
    if (t.queue qn).held = .none then t else s
  else s

/-! ## The rows -/

/-- FETCH_RETRY. -/
def execFetchRetry (queue : BitVec 13) (s : State) : Host.Outcome State Fault Refusal := .next (fetchRetry s queue.toNat)

/-- LAUNCH (R281). -/
def execLaunch (queue : BitVec 13) (s : State) : Host.Outcome State Fault Refusal := .next (packetRow s queue.toNat 1 0)

/-- COPY (R283). -/
def execCopy (queue : BitVec 13) (s : State) : Host.Outcome State Fault Refusal := .next (packetRow s queue.toNat 2 0)

/-- FILL (R283). -/
def execFill (queue : BitVec 13) (s : State) : Host.Outcome State Fault Refusal := .next (packetRow s queue.toNat 3 0)

/-- WAIT (R284). -/
def execWait (queue : BitVec 13) (s : State) : Host.Outcome State Fault Refusal := .next (packetRow s queue.toNat 4 0)

/-- SIGNAL (R285). -/
def execSignal (queue : BitVec 13) (s : State) : Host.Outcome State Fault Refusal := .next (packetRow s queue.toNat 5 0)

/-- BARRIER (R286, R319). -/
def execBarrier (queue : BitVec 13) (s : State) : Host.Outcome State Fault Refusal := .next (packetRow s queue.toNat 6 0)

/-- OBJECT_MAP in mode NEW (R287). -/
def execObjectMapNew (queue : BitVec 13) (s : State) : Host.Outcome State Fault Refusal := .next (packetRow s queue.toNat 7 0)

/-- OBJECT_MAP in mode IMPORT (R252, R287). -/
def execObjectMapImport (queue : BitVec 13) (s : State) : Host.Outcome State Fault Refusal := .next (packetRow s queue.toNat 7 1)

/-- OBJECT_MAP in mode BIND (R253, R287). -/
def execObjectMapBind (queue : BitVec 13) (s : State) : Host.Outcome State Fault Refusal := .next (packetRow s queue.toNat 7 2)

/-- OBJECT_FREE (R288). -/
def execObjectFree (queue : BitVec 13) (s : State) : Host.Outcome State Fault Refusal := .next (packetRow s queue.toNat 8 0)

/-- TIMESTAMP (R289). -/
def execTimestamp (queue : BitVec 13) (s : State) : Host.Outcome State Fault Refusal := .next (packetRow s queue.toNat 9 0)

/-- COUNTER_DUMP (R290). -/
def execCounterDump (queue : BitVec 13) (s : State) : Host.Outcome State Fault Refusal := .next (packetRow s queue.toNat 10 0)

/-- INDIRECT (R291). -/
def execIndirect (queue : BitVec 13) (s : State) : Host.Outcome State Fault Refusal := .next (packetRow s queue.toNat 11 0)

/-- NOP (R292). -/
def execNopPacket (queue : BitVec 13) (s : State) : Host.Outcome State Fault Refusal := .next (packetRow s queue.toNat 0 0)

end Sys2Proof.Machine
end

