-- ==== Sys2Proof/Machine/Moves.lean ====
section
/-! DEFINITION. What completes outside fetch: COPY and FILL (R255, R256, R283, R423), pending waits (R267, R275), freed
entries (R248, R249), basin fills (R123, R421) and the object table's initialisation (R248, R293). -/

namespace Sys2Proof.Machine

/-! ## COPY and FILL (R283) -/

/-- COPY or FILL. -/
def Body.isMove : Body → Bool
  | .copy _ _ _ _ _ => true
  | .fill _ _ _ _ => true
  | _ => false

/-- COPY and FILL commands of a partition that may start, earliest fetch first. -/
def State.startableMoves (s : State) (p : Nat) : List (Nat × Cmd) :=
  let l := (s.queues.filter fun q => q.2.part == p && q.2.state != .free).flatMap fun q =>
    (q.2.cmds.filter fun c => c.phase == .fetched && c.body.isMove && s.startOpen q.2 && q.2.mayStart c && s.mayWrite c).map
      fun c => (q.1, c)
  sortBy (fun a b => decide (a.2.seqNo ≤ b.2.seqNo)) l

/-- The copy engine of a partition starts a command: its source's current version is pinned (R255). -/
def startMove (s : State) (p : Nat) : State :=
  if (s.rgPart p).copyRun.isSome || !s.fetches then s
  else match s.startableMoves p with
    | [] => s
    | x :: _ =>
      let pins := (s.cmdReads x.2).map fun i => (i, s.version i)
      let s := s.modQueue x.1 fun q => q.modCmd x.2.seqNo fun c => { c with
        phase := .started, pins := pins, startTime := s.esc.time }
      regEval (pump (s.modRgPart p fun r => { r with copyRun := some (x.1, x.2.seqNo) }) x.1)

/-- Device address of byte 0 of the version of an object that a command pinned. -/
def State.pinnedBase (s : State) (c : Cmd) (h : W32) : Nat :=
  let i := handleIndex h
  s.versionBase i (match c.pins.find? fun p => p.1 == s.rootOf i with
    | some p => p.2
    | none => s.version i)

/-- Device address of byte 0 of an object's staging version (R245). -/
def State.stagingBase (s : State) (h : W32) : Nat := s.versionBase (handleIndex h) (!s.version (handleIndex h))

/-- Byte j of a FILL's range at offset `off` (R283). -/
def fillByte (pattern : W64) (off j : Nat) : Byte := BitVec.ofNat 8 (bitField pattern.toNat (8 * ((off + j) % 8) + 7) (8 * ((off + j) % 8)))

/-- What a COPY or FILL writes: destination, offset and bytes. -/
def State.moveBytes (s : State) (c : Cmd) : Option (W32 × Nat × List Byte) := match c.body with
  | .copy src dst so d len => some (dst, d, s.readBytes (s.pinnedBase c src + so) len)
  | .fill dst d len pat => some (dst, d, (List.range len).map (fillByte pat d))
  | _ => none

/-- Whether a COPY reads a poisoned line (R423). -/
def State.movePoison (s : State) (c : Cmd) : Option Nat := match c.body with
  | .copy src _ so _ len =>
    let a := s.pinnedBase c src + so
    if s.poisoned a len then some a else none
  | _ => none

/-- The run of a partition's copy engine ends with a code: its counts go to the context (R469). -/
def endMove (s : State) (p qn seqNo : Nat) (code : BitVec 16) : State :=
  let s := s.modRgPart p fun r => { r with copyRun := none }
  match (s.queue qn).cmd seqNo with
  | none => s
  | some c => completeCmd (addCounts s (s.queueCtx qn) c.counts) qn seqNo code false 0#64

/-- A COPY meets a poisoned source line: it completes with MEM_POISON and flips nothing (R423). -/
def poisonMove (s : State) (p qn seqNo a : Nat) : State :=
  endMove (errRecord s 1 (some 8) none (some p) Config.MEM_POISON a) p qn seqNo Config.MEM_POISON

/-- A COPY or FILL whose request the port refuses ends with ACCESS_DENIED: it reaches into the object table (R243). -/
def State.moveDenied (s : State) (c : Cmd) : Bool := match c.body with
  | .copy src dst so d len => s.hitsObjTable (s.pinnedBase c src + so) len || s.hitsObjTable (s.stagingBase dst + d) len
  | .fill dst d len _ => s.hitsObjTable (s.stagingBase dst + d) len
  | _ => false

/-- Every byte of the command a copy engine runs has moved, over unreserved ports, into the staging version (R254, R283). A
port that throttles the engine's tag holds its requests: the command goes on once the throttle is released (R425). -/
def finishMove (s : State) (p : Nat) : State :=
  match (s.rgPart p).copyRun with
  | none => s
  | some (qn, n) => match (s.queue qn).cmd n with
    | none => s
    | some c => if s.copyHeld p then s else if s.moveDenied c then
        endMove (errRecord s 1 none none (some p) Config.ACCESS_DENIED 0) p qn n Config.ACCESS_DENIED
      else match s.movePoison c, s.moveBytes c with
      | some a, _ => poisonMove s p qn n a
      | none, some (dst, off, bs) =>
        let ctx := s.queueCtx qn
        let s := blockWrite s (.inst (s.ctx ctx).inst) (s.ctx ctx).inst (some ctx) s.poolPorts off (s.stagingBase dst + off) bs
        let s := s.modQueue qn fun q => q.modCmd n fun c => { c with
          wrote := [s.rootOf (handleIndex dst)], counts := tput c.counts 5 (tget 0 c.counts 5 + bs.length) }
        endMove s p qn n Config.NONE
      | none, none => s

/-- COPY_FILL_START (R256, R274, R283). -/
def execCopyFillStart (part : BitVec 3) (s : State) : Host.Outcome State Fault Refusal := .next (startMove s part.toNat)

/-- COPY_FILL_COMPLETE (R283). -/
def execCopyFillComplete (part : BitVec 3) (s : State) : Host.Outcome State Fault Refusal :=
  .next (if s.portAlive && !s.obs.halted then finishMove s part.toNat else s)

/-! ## Pending waits (R267) -/

/-- The pending wait of a queue ends: its code and DETAIL are fixed, and the queue may go on (R264, R272). While the instance is
disabled its outcome is only held: it takes effect at INST_ENABLE (R364). -/
def satisfyWait (s : State) (qn : Nat) : State :=
  let q := s.queue qn
  match q.cmds.find? fun c => c.phase == .pendingWait with
  | none => s
  | some c =>
    if s.portAlive && !s.obs.halted && !s.fr.stopped && (s.ctx q.ctx).state == .live && s.waitAcked c.body then
      match s.waitOutcome c.body with
      | none => s
      | some r =>
        if s.startOpen q then
          regEval (pump (s.modQueue qn fun q => q.modCmd c.seqNo fun c => { c with phase := .started, code := r.1, detail := r.2 }) qn)
        else s.modQueue qn fun q => q.modCmd c.seqNo fun c => { c with met := some (c.met.getD r) }
    else s

/-- WAIT_SATISFIED. -/
def execWaitSatisfied (queue : BitVec 13) (s : State) : Host.Outcome State Fault Refusal := .next (satisfyWait s queue.toNat)

/-! ## Freed entries (R248, R249) -/

/-- GEN after a free: modulo 2^14, 0 skipped (R248). -/
def nextGen (g : BitVec 14) : BitVec 14 := if g + 1#14 = 0#14 then 1#14 else g + 1#14

/-- Whether an object index lies in a pool. -/
def Pools.hasObj (p : Pools) (i : Nat) : Bool := decide (p.objFirst ≤ i) && decide (i < p.objFirst + p.objCount)

/-- The pools of an instance's earlier lives that are still held: an entry of the object pool is not FREE (R375). -/
def State.heldPools (s : State) (i : Inst) : List Pools :=
  i.held.filter fun p => s.objs.any fun o => p.hasObj o.1 && o.2.state != .free

/-- A pool of an earlier life whose entries have all drained is held no more (R375). A copy in the shared pool goes with its
object. -/
def pruneHeld (s : State) : State :=
  let insts : Tbl Inst := s.insts.map fun i => (i.1, { i.2 with held := s.heldPools i.2 })
  { s with insts := insts, pool := s.pool.filter fun p => (s.obj p.1).state != .free }

/-- An entry whose references have drained moves on; an ORPHANED root waits for commands past fetch that name its imports too
(R249, R250). -/
def freeDone (s : State) (i : Nat) : State :=
  let o := s.obj i
  match o.state with
  | .freeing =>
    if s.ownRefs i = 0 then
      pumpAll (pruneHeld (s.setObj i { o with gen := nextGen o.gen, state := if s.importsOf i = 0 then .free else .orphaned }))
    else s
  | .orphaned => if s.refs i = 0 then pruneHeld (s.setObj i { o with state := .free }) else s
  | _ => s

/-- FREE_COMPLETE. -/
def execFreeComplete (index : BitVec 18) (s : State) : Host.Outcome State Fault Refusal :=
  .next (if s.portAlive && !s.obs.halted then freeDone s index.toNat else s)

/-! ## Basin fills (R123, R421) -/

/-- A binding waits for a fill. -/
def Binding.waits (b : Binding) : Bool := !b.filled || b.refilling

/-- Whether a slot is next to be filled: slots of a partition are filled in SLOT order. -/
def Running.fillNext (r : Running) (d : SlotDecl) : Bool :=
  !r.bindings.any fun x => decide (x.1 < d.slot.toNat) && x.2.waits && (match r.img.slotDecl x.1 with
    | some e => e.part == d.part
    | none => false)

/-- A basin copy is complete; its poisoned lines are PARTITION-class errors. -/
def fillDone (s : State) (slot : Nat) : State :=
  match s.run with
  | none => s
  | some r => match tfind r.bindings slot, r.img.slotDecl slot with
    | some b, some d =>
      if b.waits && r.fillNext d then
        let c := s.basinOf b.obj d.basinBytes
        let s := { s with basin := tput s.basin slot c }
        let s := s.modRun fun r => { r with bindings := tput r.bindings slot { b with filled := true, refilling := false } }
        c.badLines.foldl (fun s l => errRecord s 2 (some 8) none (some d.part) Config.MEM_POISON
          (s.versionBase b.obj (s.version b.obj) + 128 * l.1)) s
      else s
    | _, _ => s

/-- BASIN_FILL_DONE. -/
def execBasinFillDone (slot : W32) (s : State) : Host.Outcome State Fault Refusal :=
  .next (if s.portAlive && !s.obs.halted then fillDone s slot.toNat else s)

/-! ## The object table (R248, R293) -/

/-- Pools whose memory and objects are taken: those of instances that are not FREE, and held ones (R352, R375); of
instance `me` only the held ones. -/
def State.takenPools (s : State) (me : Option Nat) : List Pools :=
  s.insts.flatMap fun i => (if i.2.state != .free && me != some i.1 then [i.2.pools] else []) ++ s.heldPools i.2

/-- Whether a range overlaps taken memory. -/
def State.memTaken (s : State) (me : Option Nat) (a len : Nat) : Bool :=
  (s.takenPools me).any fun p => p.mem.any fun m => overlaps m.1 m.2 a len

/-- A write of KP_OBJ_BASE. Setting ENABLE starts the initialisation of every entry; a write that would set it over taken
memory is ignored. -/
def setObjBase (s : State) (v : W64) : State :=
  let base := bitField v.toNat 47 23 * 2 ^ 23
  if s.kp.objEnable then s
  else if bitAt v.toNat 0 then
    if s.memTaken none base 8388608 then s
    else { s with objs := [], kp := { s.kp with objBase := BitVec.ofNat 48 base, objEnable := true, objInitBusy := true } }
  else { s with kp := { s.kp with objBase := BitVec.ofNat 48 base } }

/-- OBJ_TABLE_ENABLE: a 64-bit write of KP_OBJ_BASE. -/
def execObjTableEnable (who : Who) (data : W64) (s : State) : Host.Outcome State Fault Refusal :=
  .next (hostWrite s who 0x600 true fun s => setObjBase s data)

/-- OBJ_TABLE_INIT_DONE. -/
def execObjTableInitDone (s : State) : Host.Outcome State Fault Refusal :=
  .next (if s.portAlive && !s.obs.halted then { s with kp := { s.kp with objInitBusy := false } } else s)

end Sys2Proof.Machine
end

