-- ==== Sys2Proof/Machine/Dirty.lean ====
section
/-! DEFINITION. The dirty-page log (R376 to R380). -/

namespace Sys2Proof.Machine

/-- 64 KiB pages of granted memory: bits in each bitmap (R376, R380). -/
def Pools.pages (p : Pools) : Nat := p.mem.foldl (fun a m => a + m.2 / 65536) 0

/-- Bytes of a bitmap (R376). -/
def Pools.bitmapLen (p : Pools) : Nat := roundUp 64 (ceilDiv p.pages 8)

/-- Device address of a bitmap. -/
def Dirty.base (d : Dirty) (which : Bool) : Nat := if which then d.base1.toNat else d.base0.toNat

/-- Lines of the active bitmap that the Keeper has to write back: number of the line in the bitmap. -/
def Dirty.lines (d : Dirty) : List Nat := (d.set.map fun k => k / 1024).eraseDups

/-- Bytes of a bitmap line. -/
def Pools.lineLen (p : Pools) (l : Nat) : Nat := min 128 (p.bitmapLen - 128 * l)

/-- A line of the active bitmap that has to be written back runs past the end of device memory (R13). -/
def State.dirtyBeyond (s : State) (n : Nat) : Bool :=
  let i := s.inst n
  i.dirty.enable && i.dirty.lines.any fun l => decide (2 ^ 48 < i.dirty.base i.dirty.active + 128 * l + i.pools.lineLen l)

/-- Write back the lines of the active bitmap that the Keeper holds: every page set becomes a bit (R376 to R378). A write to
a bitmap sets no bits. -/
def dirtyBack (s : State) (n : Nat) : State :=
  let d := (s.inst n).dirty
  let base := d.base d.active
  d.lines.foldl (fun s l =>
    let a := base + 128 * l
    let bs := (List.range 128).map fun j => BitVec.ofNat 8 ((s.byteAt (a + j)).toNat |||
      maskOf ((d.set.filter fun k => k / 8 == 128 * l + j).map fun k => k % 8))
    let len := (s.inst n).pools.lineLen l
    let s := pmGlobal (storeBytes (writeWatch s a len) a (bs.take len)) 5 len
    let w : WriteReq := { port := granulePort s.poolPorts a, addr := a, len := len, inst := n, ctx := none, owner := .dirty n, flips := [] }
    { s with writes := s.writes ++ [w] }) s

/-- Change the log of an instance. -/
def modDirty (s : State) (n : Nat) (f : Dirty → Dirty) : State := s.modInst n fun i => { i with dirty := f i.dirty }

/-- Enable: bitmap 0 becomes active (R378). -/
def dirtyEnable (s : State) (n : Nat) : State :=
  if (s.inst n).dirty.enable || (s.inst n).dirty.flipBusy then s
  else modDirty s n fun d => { d with enable := true, active := false, set := [] }

/-- The flip of an instance waits for a write, if it touches one of the pages of the old bitmap. -/
def WriteReq.waitedBy (w : WriteReq) (n : Nat) (mem : List (Nat × Nat)) (pages : List Nat) : WriteReq :=
  if (pagesIn mem w.addr w.len).any pages.contains then { w with flips := (n :: w.flips).eraseDups } else w

/-- The flip of an instance waits for the writes issued before it whose bits went to the old bitmap, and for no later ones
(R378). -/
def flipWaits (s : State) (n : Nat) : State :=
  { s with writes := s.writes.map fun w => w.waitedBy n (s.inst n).pools.mem (s.inst n).dirty.old }

/-- Flip: the other bitmap becomes active, the old one's lines are written back (R378). A flip in progress is not disturbed. -/
def dirtyFlip (s : State) (n : Nat) : State :=
  let d := (s.inst n).dirty
  if d.enable && !d.flipBusy then
    flipWaits (modDirty (dirtyBack s n) n fun d => { d with active := !d.active, flipBusy := true, old := d.set, set := [] }) n
  else s

/-- Disable: the log stops and the last bitmap's lines are written back (R378). During a flip its pages join those that
are still waited for. -/
def dirtyStop (s : State) (n : Nat) : State :=
  if (s.inst n).dirty.enable then
    flipWaits (modDirty (dirtyBack s n) n fun d => { d with enable := false, flipBusy := true, old := d.old ++ d.set, set := [] }) n
  else s

/-- A write of KP_DIRTY_CTL with a value: FLIP_DONE, ENABLE, FLIP (R378 to R380). ENABLE is ignored while the instance is FREE or
RESETTING; FLIP then still acts on a log that is enabled (R379). -/
def setDirtyCtl (s : State) (v : W64) : State :=
  let n := s.kp.instSel.toNat
  let st := (s.inst n).state
  let s := if bitAt v.toNat 3 then modDirty s n fun d => { d with flipDone := false } else s
  if st = .free ∨ st = .resetting then (if bitAt v.toNat 2 then dirtyFlip s n else s)
  else if !bitAt v.toNat 0 then dirtyStop s n
  else if (s.inst n).dirty.enable then (if bitAt v.toNat 2 then dirtyFlip s n else s)
  else dirtyEnable s n

/-- A write of KP_DIRTY_CTL makes the Keeper write bitmap lines back: a flip, or the end of the log (R378, R379). -/
def State.ctlWrites (s : State) (v : W64) : Bool :=
  let i := s.inst s.kp.instSel.toNat
  (!bitAt v.toNat 0 && i.state != .free && i.state != .resetting) || (bitAt v.toNat 2 && !i.dirty.flipBusy)

/-- A write of KP_DIRTY_CTL with its address check: a line to be written past the end of device memory faults (R13). -/
def putDirtyCtl (s : State) (v : W64) : Host.Outcome State Fault Refusal :=
  if s.ctlWrites v && s.dirtyBeyond s.kp.instSel.toNat then .fault .addressSpace else .next (setDirtyCtl s v)

/-- A write of KP_DIRTY_CTL by a requester. -/
def dirtyWrite (s : State) (who : Who) (v : W64) : Host.Outcome State Fault Refusal :=
  match hostCheck s who 0x828 true false with
  | .ignored s => .next s
  | .granted => putDirtyCtl s v

/-- Whether a write that the flip of an instance waits for is still without its response. -/
def State.flipPending (s : State) (n : Nat) : Bool := s.writes.any fun w => w.flips.contains n

/-- A flip or disable ends once the bitmap is written and every write it covers is acknowledged (R378). -/
def flipEnd (s : State) (n : Nat) : State :=
  let d := (s.inst n).dirty
  if d.flipBusy && s.acked (fun o => o == .dirty n) && !s.flipPending n then
    modDirty s n fun d => { d with flipBusy := false, flipDone := true, old := [] }
  else s

/-- DIRTY_ENABLE: KP_DIRTY_CTL written with ENABLE 1. -/
def execDirtyEnable (who : Who) (s : State) : Host.Outcome State Fault Refusal := dirtyWrite s who 1#64

/-- DIRTY_FLIP: KP_DIRTY_CTL written with FLIP and ENABLE 1. -/
def execDirtyFlip (who : Who) (s : State) : Host.Outcome State Fault Refusal := dirtyWrite s who 5#64

/-- DIRTY_DISABLE: KP_DIRTY_CTL written with ENABLE 0. -/
def execDirtyDisable (who : Who) (s : State) : Host.Outcome State Fault Refusal := dirtyWrite s who 0#64

/-- FLIP_DONE. -/
def execFlipDone (inst : BitVec 6) (s : State) : Host.Outcome State Fault Refusal :=
  .next (if s.portAlive && !s.obs.halted then flipEnd s inst.toNat else s)

end Sys2Proof.Machine
end

