-- ==== Sys2Proof/Machine/Teardown.lean ====
section
/-! DEFINITION. Disabling an instance (R360 to R366), context teardown (R367 to R372) and instance reset (R374, R375), and
the rows DRAIN_TIMEOUT, DISABLE_COMPLETE and TEARDOWN_STEP_DONE. -/

namespace Sys2Proof.Machine

/-! ## Queues and work of a context or an instance -/

/-- Queues of a context, and of an instance. -/
def State.ctxQueues (s : State) (ctx : Nat) : List Nat :=
  (s.queues.filter fun q => q.2.state != .free && q.2.ctx == ctx).map fun q => q.1
def State.instQueues (s : State) (n : Nat) : List Nat :=
  (s.queues.filter fun q => q.2.state != .free && (s.ctx q.2.ctx).inst == n).map fun q => q.1

/-- Contexts of an instance that are not FREE. -/
def State.instCtxs (s : State) (n : Nat) : List Nat :=
  (s.ctxs.filter fun c => c.2.state != .free && c.2.inst == n).map fun c => c.1

/-- Jobs of a context, and of an instance. -/
def State.ctxJobs (s : State) (ctx : Nat) : List Nat :=
  (s.jobs.filter fun j => match j.2.kind with
    | .free q _ _ => s.queueCtx q == ctx
    | .station _ => false).map fun j => j.1
def State.instJobs (s : State) (n : Nat) : List Nat := (s.jobs.filter fun j => s.jobInst j.2 == some n).map fun j => j.1

/-- Partitions whose copy engine runs a command of one of some queues: (partition, queue, command). -/
def State.copyRuns (s : State) (qs : List Nat) : List (Nat × Nat × Nat) :=
  (List.range 8).filterMap fun p => match (s.rgPart p).copyRun with
    | some x => if qs.contains x.1 then some (p, x) else none
    | none => none

/-- Writes on behalf of an instance without a response; those of its dirty log are the Keeper's own. -/
def State.ownWrites (s : State) (n : Nat) : Bool := s.writes.any fun w => w.inst == n && w.owner != .dirty n

/-- A write of a commit: of a record or a fence (R360 step 3). -/
def WriteReq.ofCommit (w : WriteReq) : Bool := match w.owner with
  | .record _ _ => true
  | .fence _ => true
  | _ => false

/-- Writes of commits of an instance. -/
def State.commitWrites (s : State) (n : Nat) : Bool := s.writes.any fun w => w.inst == n && w.ofCommit

/-- Writes on behalf of a context without a response, and those of its commits (R368 step 3). -/
def State.ctxWrites (s : State) (ctx : Nat) : Bool := s.writes.any fun w => w.ctx == some ctx
def State.ctxCommitWrites (s : State) (ctx : Nat) : Bool := s.writes.any fun w => w.ctx == some ctx && w.ofCommit

/-- A queue stops fetching (R272). -/
def Queue.stop (q : Queue) (disable : Bool) : Queue :=
  if q.state.fetching then { q with state := .stopped, stoppedByDisable := disable } else q

/-- Stop queues. -/
def stopQueues (s : State) (qs : List Nat) (disable : Bool) : State := qs.foldl (fun s q => s.modQueue q fun x => x.stop disable) s

/-- Commit what can commit in a queue. -/
def commitAll : Nat → State → Nat → State
  | 0, s, _ => s
  | n + 1, s, qn => match nextCommit (s.queue qn).cmds with
    | none => s
    | some _ => commitAll n (commitQueue s qn) qn

/-- Every commit of some queues whose conditions hold (R360 step 3). -/
def commitHeld (s : State) (qs : List Nat) : State := qs.foldl (fun s q => commitAll (s.queue q).cmds.length s q) s

/-- A record of some queues still waits for its INDEX. -/
def State.recordsLeft (s : State) (qs : List Nat) : Bool := qs.any fun q => (s.queue q).toIndex.isSome

/-- A notice on an instance's page: one that finds another is lost (R360, R371, R380). -/
def notice (s : State) (n : Nat) (disable : Bool) (ctx killed : Nat) (code : BitVec 16) : State :=
  if (s.page n).noticeValid then s.modPage n fun p => { p with noticeLost := true }
  else chSample (s.modPage n fun p => { p with
    noticeValid := true, noticeDisable := disable, noticeCtx := BitVec.ofNat 11 ctx, noticeKilled := satNat 16 killed,
    noticeCode := code }) n

/-! ## Disable (R360 to R364) -/

/-- Change the disable in progress of an instance. -/
def modDisabling (s : State) (n : Nat) (f : Disabling → Disabling) : State :=
  s.modInst n fun i => { i with disabling := i.disabling.map f }

/-- A COPY or FILL stopped by a disable returns to its queue and runs again from its start (R361). -/
def stopCopy (s : State) (x : Nat × Nat × Nat) : State :=
  let s := s.modRgPart x.1 fun r => { r with copyRun := none }
  match (s.queue x.2.1).cmd x.2.2 with
  | none => s
  | some c => (addCounts s (s.queueCtx x.2.1) c.counts).modQueue x.2.1 fun q => q.modCmd x.2.2 fun c => { c with
      phase := .fetched, pins := [], counts := [] }

/-- Step 4: every running job, COPY and FILL is killed or stopped. -/
def disableKill (s : State) (n : Nat) : State :=
  let jobs := (s.instJobs n).filter fun j => match s.job j with | some x => x.kill.isNone | none => false
  let s := killJobs s jobs .disable Config.NONE
  let s := (s.copyRuns (s.instQueues n)).foldl stopCopy s
  modDisabling s n fun d => { d with stopped := true, killed := d.killed + jobs.length }

/-- Steps 2 and 3: what can commit does, then the dispatch gate is closed. -/
def closeGate (s : State) (n : Nat) : State :=
  modDisabling (commitHeld s (s.instQueues n)) n fun d => { d with draining := false }

/-- A drain with nothing left past fetch closes the gate (R363). -/
def drainCheck (s : State) (n : Nat) : State :=
  match (s.inst n).disabling with
  | some d => if d.draining && (s.instQueues n).all (fun q => (s.queue q).cmds.isEmpty) then closeGate s n else s
  | none => s

/-- Step 4 begins once the records of step 3 are written and acknowledged. -/
def killCheck (s : State) (n : Nat) : State :=
  match (s.inst n).disabling with
  | some d => if !d.draining && !d.stopped && !s.recordsLeft (s.instQueues n) && !s.commitWrites n then disableKill s n else s
  | none => s

/-- A disable goes as far as it can. -/
def disableAdvance (s : State) (n : Nat) : State := killCheck (drainCheck s n) n

/-- Every disable goes as far as it can. -/
def disablesAdvance (s : State) : State :=
  ((s.insts.filter fun i => i.2.disabling.isSome).map fun i => i.1).foldl disableAdvance s

/-- Step 1: the instance's queues stop, marked stopped-by-disable. A SQUASH closes the gate at once. -/
def disableBegin (s : State) (n : Nat) (drain : Bool) : State :=
  let s := stopQueues s (s.instQueues n) true
  let s := s.modInst n fun i => { i with
    state := .disabling, disabling := some { drain := drain, draining := true, stopped := false, killed := 0 } }
  disableAdvance (if drain then s else closeGate s n) n

/-- Steps 5 and 6: with every kill complete, every write acknowledged and no teardown in progress, the disable is
reported (R362). -/
def disableEnd (s : State) (n : Nat) : State :=
  match (s.inst n).disabling with
  | none => s
  | some d =>
    if d.stopped && (s.instJobs n).isEmpty && !s.ownWrites n && (s.instCtxs n).all (fun c => (s.ctx c).state == .live) then
      let s := s.modInst n fun i => { i with state := .disabled, disabling := none }
      notice (mbDone s 0 Config.NONE [BitVec.ofNat 64 (d.killed % 2 ^ 32)]) n true 0 d.killed Config.NONE
    else s

/-! ## Teardown (R367 to R371) -/

/-- Change the teardown of a context. -/
def modTeardown (s : State) (ctx : Nat) (f : Teardown → Teardown) : State :=
  s.modCtx ctx fun c => { c with teardown := c.teardown.map f }

/-- Teardown begins with step 1, stop fetch (R241, R368). A fault's teardown keeps its code. -/
def teardownBegin (s : State) (ctx : Nat) (page : Option Nat) (byReset : Bool) : State :=
  let c := s.ctx ctx
  let s := s.setCtx ctx { c with state := .teardown, teardown := some {
    step := 1, squashed := 0, killed := 0, killing := false, unmapped := [],
    faultCode := c.teardown.bind fun t => t.faultCode, byReset := byReset, page := page } }
  stopQueues s (s.ctxQueues ctx) false

/-- A command past fetch that has not started (R368 step 2): a WAIT or BARRIER starts when its turn to complete comes. -/
def Cmd.unstarted (c : Cmd) : Bool := match c.phase with
  | .fetched => true
  | .verifying => true
  | .pendingWait => true
  | .started => c.body.isWait
  | _ => false

/-- The flight of a pending or held BARRIER. -/
def Cmd.barrierFlight (c : Cmd) : Option Nat := match c.phase, c.body with
  | .pendingWait, .barrier _ fl _ => some fl
  | _, _ => none

/-- An ended command behind a squashed one of its queue will never commit (R369). -/
def Cmd.doom (c : Cmd) : Cmd := if c.phase = .completed then { c with phase := .doomed } else c

/-- The commands of a queue without those that squash drops; what has ended behind one of those is doomed. -/
def squashCmds (l : List Cmd) : List Cmd :=
  (l.takeWhile fun c => !c.unstarted) ++ ((l.dropWhile fun c => !c.unstarted).filter fun c => !c.unstarted).map Cmd.doom

/-- Step 2: squash. Commands of other queues that a broken flight completes go on in the same step (R322 cause 1, R323). -/
def squashStep (s : State) (ctx : Nat) : State :=
  let qs := s.ctxQueues ctx
  let cmds := qs.flatMap fun q => (s.queue q).cmds.filter Cmd.unstarted
  let s := qs.foldl (fun s q => s.modQueue q fun x => { x with cmds := squashCmds x.cmds }) s
  let s := modTeardown s ctx fun t => { t with step := 2, squashed := cmds.length }
  pumpAll ((cmds.filterMap Cmd.barrierFlight).foldl (fun s f => flightBreak s f 1 Config.FLIGHT_BROKEN none) (genSettle s))

/-- Step 3 begins: what can commit does. -/
def closeStep (s : State) (ctx : Nat) : State := modTeardown (commitHeld s (s.ctxQueues ctx)) ctx fun t => { t with step := 3 }

/-- Commands that step 3 drops beside the running jobs: ended ones that cannot commit, COPY and FILL, BIND, OBJECT_FREE and
INDIRECT (R369). -/
def Cmd.dropped (c : Cmd) : Bool := c.job.isNone && (c.phase == .started || c.phase == .completed || c.phase == .doomed)

/-- The kill of a job is one that a disable has begun: a teardown does not kill or count it again (R366). -/
def Job.disableKill (j : Job) : Bool := j.kill == some .disable

/-- Step 3: kill. A job whose kill has begun already is no longer completed. -/
def killStep (s : State) (ctx : Nat) : State :=
  let qs := s.ctxQueues ctx
  let jobs := (s.ctxJobs ctx).filter fun j => match s.job j with | some x => !x.disableKill | none => false
  let n := (qs.flatMap fun q => (s.queue q).cmds.filter Cmd.dropped).length
  let s := (s.copyRuns qs).foldl stopCopy s
  let s := qs.foldl (fun s q => s.modQueue q fun x => { x with cmds := x.cmds.filter fun c => c.job.isSome || c.phase == .recorded }) s
  let s := jobs.foldl (fun s j => match s.job j with
    | some x => if x.kill.isSome then s.setJob j { x with kill := some .teardown } else killJob s j .teardown Config.NONE 0#64
    | none => s) s
  modTeardown s ctx fun t => { t with killing := true, killed := jobs.length + n }

/-- FENCE entries that a context owns, ORPHANED ones among them: importers' waits may rest on those too (R265). -/
def State.ownFences (s : State) (ctx : Nat) : List Nat :=
  (s.objs.filter fun o => o.2.owner.toNat == ctx && o.2.kind == .fence && o.2.parent == o.1 && o.2.state != .free).map fun o => o.1

/-- Every record of a FENCE entry receives ABANDONED, VALUE unchanged (R265). -/
def abandonFence (s : State) (i : Nat) : State :=
  objWrite s (.fence i) i 0 ((List.range ((s.obj i).size / 16)).flatMap fun k =>
    fenceRecord (s.fenceValue i (16 * k)) Config.ABANDONED (s.obj i).owner.toNat)

/-- Step 4: fences and counters are abandoned in one step (R265, R311). -/
def abandonStep (s : State) (ctx : Nat) : State :=
  let s := (s.ownFences ctx).foldl abandonFence s
  modTeardown (killWaiters (abandonCounters s ctx)) ctx fun t => { t with step := 4, killing := false }

/-- Step 5: queues go to FREE and the record ring drops its reference; bindings go at the next beat edge. -/
def dropStep (s : State) (ctx : Nat) : State :=
  let s := (s.ctxQueues ctx).foldl (fun s q => match (s.queue q).destroyBy with
    | some p => mbDone (freeQueue s q) p Config.NONE []
    | none => freeQueue s q) s
  (modTeardown s ctx fun t => { t with step := 5 }).modCtx ctx fun c => { c with ring := none }

/-- Step 6: the context's entries are unmapped; those without references move on at once (R249). -/
def unmapStep (s : State) (ctx : Nat) : State :=
  let l := (s.objs.filter fun o => o.2.owner.toNat == ctx && o.2.state == .mapped).map fun o => o.1
  let s := l.foldl (fun s i => s.modObj i fun o => { o with state := .freeing }) s
  l.foldl freeDone (modTeardown s ctx fun t => { t with step := 6, unmapped := l })

/-- Step 7: every share of the context is released. -/
def shareStep (s : State) (ctx : Nat) : State :=
  let shares : Tbl Share := s.shares.map fun x =>
    (x.1, if x.2.ctx = ctx then { x.2 with state := .releasing, clearing := [] } else x.2)
  shareSettle (modTeardown { s with shares := shares } ctx fun t => { t with step := 7 })

/-- Entries unmapped in step 6 that are not yet FREE (R371). -/
def State.pendingEntries (s : State) (ctx : Nat) (t : Teardown) : Nat :=
  t.unmapped.countP fun i => (s.obj i).owner.toNat == ctx && ((s.obj i).state == .freeing || (s.obj i).state == .orphaned)

/-- The two words of a report (R371). -/
def reportWords (squashed killed pending ctx : Nat) : List W64 :=
  [BitVec.ofNat 64 (squashed % 2 ^ 32 + killed % 2 ^ 32 * 2 ^ 32), BitVec.ofNat 64 (pending % 2 ^ 19 + ctx * 2 ^ 32)]

/-! ## Instance reset (R374, R375) -/

/-- The reset ends: key slots and the bind secret are erased, the dirty log stops, the page is reset, and the manager's
request completes with the totals. -/
def resetEnd (s : State) (n : Nat) : State :=
  let r := (s.inst n).resetting.getD { squashed := 0, killed := 0, pending := 0 }
  let s := dirtyStop (eraseKeys s fun i => i == n) n
  let s := { s with sec := { s.sec with attests := s.sec.attests.filter fun a => a.page != n } }
  let s := s.modInst n fun i => { Inst.reset with dirty := i.dirty, held := s.heldPools { i with held := i.pools :: i.held } }
  mbDone (chSample s n) 0 Config.NONE (reportWords r.squashed r.killed r.pending 0)

/-- A reset ends when no context of the instance is left. -/
def resetCheck (s : State) (n : Nat) : State :=
  if (s.inst n).state == .resetting && (s.instCtxs n).isEmpty then resetEnd s n else s

/-- INST_RESET begins: teardown runs for every context of the instance together; a disable is absorbed: what its steps have
stopped, committed and killed stays so, and the teardown's steps find nothing of it left to do (R358, R366). -/
def resetBegin (s : State) (n : Nat) : State :=
  let s := s.modInst n fun i => { i with
    state := .resetting, disabling := none, resetting := some { squashed := 0, killed := 0, pending := 0 } }
  let s := (s.instCtxs n).foldl (fun s c =>
    if (s.ctx c).state = .teardown then modTeardown s c fun t => { t with byReset := true } else teardownBegin s c none true) s
  resetCheck s n

/-- Step 8: the context becomes FREE and the report is made (R368, R371, R374). -/
def reportStep (s : State) (ctx : Nat) (t : Teardown) : State :=
  let n := (s.ctx ctx).inst
  let pending := s.pendingEntries ctx t
  let s := s.setCtx ctx Ctx.reset
  let s := match t.page with
    | some p => mbDone s p Config.NONE (reportWords t.squashed t.killed pending ctx)
    | none => s
  let s := match t.faultCode with
    | some code => notice s n false ctx t.killed code
    | none => s
  let s := if t.byReset then s.modInst n fun i => { i with resetting := i.resetting.map fun r =>
      { squashed := r.squashed + t.squashed, killed := r.killed + t.killed, pending := r.pending + pending } } else s
  pumpAll (resetCheck s n)

/-! ## Steps -/

/-- How far a teardown is; step 3 has two halves. -/
def Teardown.phase (t : Teardown) : Nat := 2 * t.step + b2n t.killing

/-- The current step of a teardown has finished. -/
def State.stepDone (s : State) (ctx : Nat) (t : Teardown) : Bool :=
  match t.step with
  | 3 => if t.killing then (s.ctxJobs ctx).isEmpty && !s.ctxWrites ctx
         else !s.recordsLeft (s.ctxQueues ctx) && !s.ctxCommitWrites ctx
  | 4 => !s.ctxWrites ctx
  | 7 => !s.shares.any fun x => x.2.ctx == ctx
  | _ => true

/-- In a reset, each step is applied to all contexts before the next starts (R374). -/
def State.peersReady (s : State) (ctx : Nat) (t : Teardown) : Bool :=
  !t.byReset || (s.instCtxs (s.ctx ctx).inst).all fun c => match (s.ctx c).teardown with
    | some u => decide (t.phase < u.phase) || (u.phase == t.phase && s.stepDone c u)
    | none => true

/-- The next step begins. -/
def nextStep (s : State) (ctx : Nat) (t : Teardown) : State :=
  match t.step with
  | 0 => teardownBegin s ctx t.page t.byReset
  | 1 => squashStep s ctx
  | 2 => closeStep s ctx
  | 3 => if t.killing then abandonStep s ctx else killStep s ctx
  | 4 => dropStep s ctx
  | 5 => unmapStep s ctx
  | 6 => shareStep s ctx
  | _ => reportStep s ctx t

/-- Teardown and disable go on: no reset, halt-all or recovery stop is in force (R430, R480). -/
def State.stepsOpen (s : State) : Bool := s.portAlive && !s.obs.halted && !s.fr.stopped

/-- The next step of a context's teardown ends the reset of its instance, which stops the dirty log (R374). -/
def State.endsReset (s : State) (ctx : Nat) : Bool :=
  let n := (s.ctx ctx).inst
  s.stepsOpen && (s.inst n).state == .resetting && (s.instCtxs n).length == 1 && (match (s.ctx ctx).teardown with
    | some t => t.step == 7 && s.stepDone ctx t
    | none => false)

/-- TEARDOWN_STEP_DONE: the current step of a context's teardown is done and the next begins. -/
def teardownAdvance (s : State) (ctx : Nat) : State :=
  match (s.ctx ctx).teardown with
  | none => s
  | some t =>
    if s.stepsOpen && s.stepDone ctx t && s.peersReady ctx t then killWaiters (nextStep s ctx t) else s

/-! ## The rows -/

/-- DRAIN_TIMEOUT (R363): DRAIN_US has passed. -/
def execDrainTimeout (inst : BitVec 6) (s : State) : Host.Outcome State Fault Refusal :=
  match (s.inst inst.toNat).disabling with
  | some d => .next (if d.draining && s.stepsOpen then disableAdvance (closeGate s inst.toNat) inst.toNat else s)
  | none => .next s

/-- DISABLE_COMPLETE (R360 step 6). -/
def execDisableComplete (inst : BitVec 6) (s : State) : Host.Outcome State Fault Refusal :=
  .next (if s.stepsOpen then disableEnd (disableAdvance s inst.toNat) inst.toNat else s)

/-- TEARDOWN_STEP_DONE (R368). The reset that a last report ends stops the dirty log: a line of it past the end of device
memory faults (R13). -/
def execTeardownStepDone (ctx : BitVec 11) (s : State) : Host.Outcome State Fault Refusal :=
  if s.endsReset ctx.toNat && s.dirtyBeyond (s.ctx ctx.toNat).inst then .fault .addressSpace
  else .next (teardownAdvance s ctx.toNat)

end Sys2Proof.Machine
end

