-- ==== Sys2Proof/Machine/Mailbox.lean ====
section
/-! DEFINITION. The mailbox: requests, their checks in the order of R357, and what each does (R351 to R359, R365, R390 to
R395, R403 to R406, R470). -/

namespace Sys2Proof.Machine

/-! ## Words and fields -/

/-- Request word k of the latched request, as a number. -/
def Page.word (p : Page) (k : Nat) : Nat := (p.cur.getD k 0#64).toNat

/-- A field of a request word. -/
def Page.field (p : Page) (k hi lo : Nat) : Nat := bitField (p.word k) hi lo

/-- A mask of bits hi to lo. -/
def bitsMask (hi lo : Nat) : Nat := 2 ^ (hi + 1) - 2 ^ lo

/-- Bits that each request uses, by word; none for an undefined opcode (R356, R390, R470). -/
def mbMasks : Nat → Option (List Nat)
  | 0x01 => some [bitsMask 16 0]
  | 0x02 => some [bitsMask 7 0, bitsMask 10 0]
  | 0x03 => some [bitsMask 7 0, bitsMask 12 0 + bitsMask 26 16 + bitsMask 34 32 + bitsMask 44 40 + bitsMask 55 48, bitsMask 63 0,
      bitsMask 31 0, bitsMask 31 0]
  | 0x04 => some [bitsMask 7 0, bitsMask 12 0]
  | 0x05 => some [bitsMask 7 0, bitsMask 12 0]
  | 0x06 => some [bitsMask 7 0, bitsMask 10 0 + bitsMask 16 16 + bitsMask 23 20 + bitsMask 24 24 + bitsMask 37 32, bitsMask 31 0]
  | 0x10 => some [bitsMask 7 0, bitsMask 5 0, bitsMask 47 0]
  | 0x11 => some [bitsMask 7 0, bitsMask 5 0 + bitsMask 8 8 + bitsMask 51 32]
  | 0x12 => some [bitsMask 7 0, bitsMask 5 0]
  | 0x13 => some [bitsMask 7 0, bitsMask 5 0]
  | 0x20 => some [bitsMask 7 0, bitsMask 47 0]
  | 0x21 => some [bitsMask 7 0, bitsMask 8 0, bitsMask 47 0]
  | 0x22 => some [bitsMask 7 0, bitsMask 8 0]
  | 0x23 => some [bitsMask 7 0 + bitsMask 26 16, bitsMask 63 0, bitsMask 63 0, bitsMask 63 0, bitsMask 63 0, bitsMask 63 0,
      bitsMask 63 0, bitsMask 63 0]
  | 0x30 => some [bitsMask 7 0, bitsMask 10 0 + bitsMask 16 16 + bitsMask 27 24, bitsMask 63 0]
  | _ => none

/-- Field rules of a request beyond its bits (R268, R356, R390, R470). -/
def Page.fieldsOk (p : Page) : Bool := match p.curOp.toNat with
  | 0x03 => decide (4 ≤ p.field 1 44 40) && decide (p.field 1 44 40 ≤ 16) && p.word 3 % 64 == 0 && p.word 4 % 32 == 0
  | 0x10 => p.word 2 % 64 == 0
  | 0x11 => if bitAt (p.word 1) 8 then decide (1 ≤ p.field 1 51 32) && decide (p.field 1 51 32 ≤ 1000000) else p.field 1 51 32 == 0
  | 0x20 => p.word 1 % 64 == 0
  | 0x21 => p.word 2 % 8 == 0
  | 0x30 => !bitAt (p.word 1) 16 || (decide (4 ≤ p.field 1 27 24) && decide (p.field 1 27 24 ≤ 15))
  | _ => true

/-- Check 1 of R357: the opcode is defined, unused bits are zero and every field meets its rule. -/
def Page.wellFormed (p : Page) : Bool := match mbMasks p.curOp.toNat with
  | none => false
  | some l => ((List.range 8).all fun k => p.word k &&& l.getD k 0 == p.word k) && p.fieldsOk

/-- A field rule that rests on the grade: the CORE of a COUNTER_ALLOC without ANY_CORE must be present (R356). -/
def State.mbCoreOk (s : State) (p : Page) : Bool :=
  p.curOp.toNat != 0x06 || bitAt (p.word 1) 24 || s.present (p.field 1 23 20)

/-! ## Check 2 of R357 -/

/-- Requests of the manager alone (R356). -/
def managerOp (op : Nat) : Bool := op == 0x10 || op == 0x11 || op == 0x12 || op == 0x13

/-- Requests that only the page's own instance writes (R390). -/
def ownOp (op : Nat) : Bool := op == 0x20 || op == 0x21 || op == 0x22 || op == 0x23

/-- What the state of an instance lets its page request (R359). -/
def Inst.accepts (i : Inst) (op : Nat) : Bool := match i.state with
  | .enabled => true
  | .disabling => op == 0x02
  | .disabled => op == 0x02
  | _ => false

/-- Check 2 of R357, with the lock of R390. -/
def State.mbDenied (s : State) (n : Nat) (who : Who) (p : Page) : Bool :=
  let op := p.curOp.toNat
  (managerOp op && n != 0) || ((op == 0x11 || op == 0x13) && p.field 1 5 0 == 0) || !(s.inst n).accepts op ||
    (ownOp op && who.inst.toNat != n) || (s.sec.locked && (op == 0x20 || op == 0x21 || op == 0x22))

/-! ## Named objects -/

/-- Whether a context ID lies in a pool. -/
def Pools.hasCtx (p : Pools) (c : Nat) : Bool := decide (p.ctxFirst ≤ c) && decide (c < p.ctxFirst + p.ctxCount)

/-- A context that a page may name: of its own pool, or any from the manager (R356). -/
def State.ownsCtx (s : State) (n c : Nat) : Bool := n == 0 || (s.inst n).pools.hasCtx c

/-- Instance of a queue ID that a page may name: its own, or the one whose pool holds it from the manager. -/
def State.queueInst (s : State) (n q : Nat) : Option Nat :=
  if n = 0 then (s.insts.find? fun i => i.2.pools.hasQueue q).map fun i => i.1
  else if (s.inst n).pools.hasQueue q then some n else none

/-- A handle of a context, of a kind, that holds a range. -/
def State.namesObj (s : State) (ctx : Nat) (h : W32) (kind : ObjKind) (off len : Nat) : Bool :=
  let o := s.obj (handleIndex h)
  !s.isStale h && o.owner.toNat == ctx && o.kind == kind && o.holds off len

/-! ## Contexts, queues and counters (R268, R272, R356) -/

/-- CTX_CREATE: the lowest FREE ID of the pool. -/
def mbCtxCreate (s : State) (n : Nat) (p : Page) : State :=
  let q := (s.inst n).pools
  match ((List.range q.ctxCount).map (· + q.ctxFirst)).find? fun c => (s.ctx c).state == .free with
  | none => mbDone s n Config.HANDLE_RIGHTS []
  | some c =>
    let w := p.field 0 15 8
    let s := s.setCtx c { Ctx.reset with
      state := .live, inst := n, weight := BitVec.ofNat 8 (max 1 w), isSealed := bitAt (p.word 0) 16,
      pm := { PmSet.reset with since := s.esc.time } }
    mbDone s n Config.NONE [BitVec.ofNat 64 c]

/-- CTX_DESTROY: the request stays in progress until the report. -/
def mbCtxDestroy (s : State) (n : Nat) (p : Page) : State :=
  let c := p.field 1 10 0
  let st := (s.ctx c).state
  if s.ownsCtx n c && (st == .live || st == .faulted) then teardownBegin s c (some n) false else mbDone s n Config.HANDLE_RIGHTS []

/-- QUEUE_CREATE. The virtual time starts at that of the partition (log entry 14). -/
def mbQueueCreate (s : State) (n : Nat) (p : Page) : State :=
  let qn := p.field 1 12 0
  let ctx := p.field 1 26 16
  let part := p.field 1 34 32
  let log2 := p.field 1 44 40
  let ring : W32 := BitVec.ofNat 32 (p.field 2 31 0)
  let compl : W32 := BitVec.ofNat 32 (p.field 2 63 32)
  let c := s.ctx ctx
  let ok := s.ownsCtx n ctx && c.state == .live && s.queueInst n qn == some c.inst && (s.queue qn).state == .free &&
    s.namesObj ctx ring .plain (p.word 3) (64 * 2 ^ log2) && s.namesObj ctx compl .record (p.word 4) (32 * 2 ^ log2)
  if ok then
    mbDone (s.setQueue qn { Queue.reset with
      state := if s.granted part c.inst then .idle else .stopped, ctx := ctx, part := part, ringLog2 := log2,
      ringObj := handleIndex ring, ringOff := p.word 3, complObj := handleIndex compl, complOff := p.word 4,
      weight := BitVec.ofNat 8 (max 1 (p.field 1 55 48)), vt := (s.rgPart part).gv }) n Config.NONE []
  else mbDone s n Config.HANDLE_RIGHTS []

/-- QUEUE_DESTROY: the request stays in progress until the queue is FREE (R272). -/
def mbQueueDestroy (s : State) (n : Nat) (p : Page) : State :=
  let qn := p.field 1 12 0
  let q := s.queue qn
  if (s.queueInst n qn).isSome && q.state != .free && q.destroyBy.isNone then
    destroySettle (s.setQueue qn { q with destroyBy := some n }) qn
  else mbDone s n Config.HANDLE_RIGHTS []

/-- QUEUE_RESET: HEAD takes TAIL, and the queue is IDLE (R272); one whose partition the running image does not grant is STOPPED
until it is rebound (R92). An INDIRECT in progress goes on. -/
def mbQueueReset (s : State) (n : Nat) (p : Page) : State :=
  let qn := p.field 1 12 0
  let q := s.queue qn
  if (s.queueInst n qn).isSome && q.state == .error then
    let q := { q with
      head := q.tail, held := .none, state := if s.granted q.part (s.ctx q.ctx).inst then .idle else .stopped }
    mbDone (s.setQueue qn q) n Config.NONE []
  else mbDone s n Config.HANDLE_RIGHTS []

/-- Context counters that an instance holds (R353). -/
def State.ctrsHeld (s : State) (n : Nat) : Nat :=
  s.counters.countP fun c => c.2.kind == .context && c.2.state != .free && c.2.inst.toNat == n

/-- Core and index that COUNTER_ALLOC takes (R356). -/
def State.allocPlace (s : State) (any : Bool) (core : Nat) : Option (Nat × Nat) :=
  let at' (c : Nat) : Option (Nat × Nat) := if s.present c then (s.freeHigh c).map fun i => (c, i) else none
  if any then (List.range 16).findSome? at' else at' core

/-- COUNTER_ALLOC. -/
def mbCounterAlloc (s : State) (n : Nat) (p : Page) : State :=
  let ctx := p.field 1 10 0
  let c := s.ctx ctx
  match s.allocPlace (bitAt (p.word 1) 24) (p.field 1 23 20) with
  | none => mbDone s n Config.HANDLE_RIGHTS []
  | some x =>
    if s.ownsCtx n ctx && c.state == .live && decide (s.ctrsHeld c.inst < (s.inst c.inst).pools.ctrQuota) then
      let id := x.1 * 8192 + x.2
      let v : W32 := BitVec.ofNat 32 (p.word 2)
      mbDone (s.setCounter id { Counter.reset with
        kind := .context, state := .live, error := bitAt (p.word 1) 16, owner := BitVec.ofNat 11 ctx,
        shareInst := BitVec.ofNat 6 (p.field 1 37 32), inst := BitVec.ofNat 6 c.inst, value := v, initial := v })
        n Config.NONE [BitVec.ofNat 64 id]
    else mbDone s n Config.HANDLE_RIGHTS []

/-- REC_RING (R470): accepted only for a context of the page's instance. -/
def mbRecRing (s : State) (n : Nat) (p : Page) : State :=
  let ctx := p.field 1 10 0
  let c := s.ctx ctx
  let h : W32 := BitVec.ofNat 32 (p.field 2 31 0)
  let off := p.field 2 63 32 * 128
  let log2 := p.field 1 27 24
  if !(c.state == .live && c.inst == n) then mbDone s n Config.HANDLE_RIGHTS []
  else if !bitAt (p.word 1) 16 then mbDone (s.setCtx ctx { c with ring := none }) n Config.NONE []
  else if s.namesObj ctx h .record off (128 * 2 ^ log2) then
    mbDone (s.setCtx ctx { c with ring := some { obj := handleIndex h, offset := off, log2 := log2, seq := 0#32, lost := 0#32 } })
      n Config.NONE []
  else mbDone s n Config.HANDLE_RIGHTS []

/-! ## Instances (R351, R352, R358, R365) -/

/-- The pools of an instance descriptor at an address. -/
def readPools (s : State) (a : Nat) : Pools :=
  { ctxFirst := s.readLE a 2, ctxCount := s.readLE (a + 2) 2, queueFirst := s.readLE (a + 4) 2, queueCount := s.readLE (a + 6) 2,
    objFirst := s.readLE (a + 8) 4, objCount := s.readLE (a + 12) 4, keyFirst := s.readLE (a + 0x10) 2,
    keyCount := s.readLE (a + 0x12) 2, ctrQuota := s.readLE (a + 0x14) 2, waitQuota := s.readLE (a + 0x16) 2,
    mem := (List.range (min 8 (s.readLE (a + 0x18) 1))).map fun k => (s.readLE (a + 0x20 + 16 * k) 8, s.readLE (a + 0x28 + 16 * k) 8) }

/-- Rules of a descriptor (R351). -/
def descriptorOk (s : State) (a : Nat) (p : Pools) : Bool :=
  let n := s.readLE (a + 0x18) 1
  decide (p.ctxCount ≤ 2048) && decide (p.ctxFirst + p.ctxCount ≤ 2048) && decide (p.queueCount ≤ 8192) &&
    decide (p.queueFirst + p.queueCount ≤ 8192) && decide (1 ≤ p.objFirst) && decide (p.objFirst + p.objCount ≤ 262144) &&
    decide (p.keyFirst + p.keyCount ≤ 512) && decide (1 ≤ p.waitQuota) && decide (p.waitQuota ≤ 16384) &&
    decide (1 ≤ n) && decide (n ≤ 8) && zeroRange s (a + 0x19) 7 && zeroRange s (a + 0x20 + 16 * n) (16 * (8 - n)) &&
    p.mem.all fun m => m.1 % 65536 == 0 && m.2 % 65536 == 0 && decide (65536 ≤ m.2) && decide (m.1 + m.2 ≤ 2 ^ 48)

/-- Ranges of a list are apart from one another. -/
def apart : List (Nat × Nat) → Bool
  | [] => true
  | m :: r => (r.all fun x => !overlaps m.1 m.2 x.1 x.2) && apart r

/-- Two pools of IDs share one. -/
def idsMeet (a la b lb : Nat) : Bool := la != 0 && lb != 0 && overlaps a la b lb

/-- The MEM ranges of a descriptor are free to grant (R352, R375). -/
def State.memFree (s : State) (n : Nat) (p : Pools) : Bool :=
  apart p.mem && p.mem.all fun m =>
    !s.memTaken (some n) m.1 m.2 && !(s.kp.objEnable && overlaps m.1 m.2 s.kp.objBase.toNat 8388608)

/-- The pools of a descriptor are free to grant (R352, R375). -/
def State.poolsFree (s : State) (n : Nat) (p : Pools) : Bool :=
  (s.takenPools (some n)).all (fun x => !idsMeet p.objFirst p.objCount x.objFirst x.objCount) &&
    s.insts.all fun i => i.1 == n || i.2.state == .free ||
      (!idsMeet p.ctxFirst p.ctxCount i.2.pools.ctxFirst i.2.pools.ctxCount &&
       !idsMeet p.queueFirst p.queueCount i.2.pools.queueFirst i.2.pools.queueCount &&
       !idsMeet p.keyFirst p.keyCount i.2.pools.keyFirst i.2.pools.keyCount)

/-- An instance that INST_CREATE may name (R352): a FREE one, or instance 0 while it holds no context. -/
def State.creatable (s : State) (i : Nat) : Bool := (s.inst i).state == .free || (i == 0 && (s.instCtxs 0).isEmpty)

/-- INST_CREATE (R352): its descriptor is checked before the state of the instance and the overlaps (R357). A descriptor that lies
past the end of device memory is not read for an instance that is not FREE. -/
def mbInstCreate (s : State) (n : Nat) (p : Page) : State :=
  let i := p.field 1 5 0
  let a := p.word 2
  let free := s.creatable i
  let d := readPools s a
  if 2 ^ 48 < a + 160 then mbDone s n Config.HANDLE_RIGHTS []
  else if s.poisoned a 160 then mbDone s n Config.MEM_POISON []
  else if !descriptorOk s a d then mbDone s n Config.PACKET_MALFORMED []
  else if !free || !s.memFree i d || !s.poolsFree i d then mbDone s n Config.HANDLE_RIGHTS []
  else mbDone (s.modInst i fun x => { x with state := .enabled, pools := d, weights := [] }) n Config.NONE []

/-- INST_DISABLE (R360, R363): it stays in progress until the disable is reported. -/
def mbInstDisable (s : State) (n : Nat) (p : Page) : State :=
  let i := p.field 1 5 0
  if (s.inst i).state == .enabled then disableBegin s i (bitAt (p.word 1) 8) else mbDone s n Config.HANDLE_RIGHTS []

/-- A WAIT or BARRIER that completed while the instance was disabled takes effect (R364). -/
def Cmd.takeMet (c : Cmd) : Cmd := match c.phase, c.met with
  | .pendingWait, some r => { c with phase := .started, code := r.1, detail := r.2, met := none }
  | _, _ => c

/-- A queue stopped by a disable goes on: IDLE, or READY with something left to fetch (R365). -/
def Queue.reopen (q : Queue) : Queue :=
  if q.stoppedByDisable then { q with stoppedByDisable := false, state := if q.state != .stopped then q.state else q.restState } else q

/-- INST_ENABLE (R365). -/
def mbInstEnable (s : State) (n : Nat) (p : Page) : State :=
  let i := p.field 1 5 0
  if (s.inst i).state == .disabled then
    let s := s.modInst i fun x => { x with state := .enabled }
    let s := (s.instQueues i).foldl (fun s q => s.modQueue q fun q => { q.reopen with cmds := q.cmds.map Cmd.takeMet }) s
    mbDone (pumpAll s) n Config.NONE []
  else mbDone s n Config.HANDLE_RIGHTS []

/-- INST_RESET (R374): it stays in progress until the last context is torn down. -/
def mbInstReset (s : State) (n : Nat) (p : Page) : State :=
  let i := p.field 1 5 0
  match (s.inst i).state with
  | .free => mbDone s n Config.HANDLE_RIGHTS []
  | .resetting => mbDone s n Config.HANDLE_RIGHTS []
  | _ => resetBegin s i

/-! ## Secrets (R389 to R395) -/

/-- The import public keys as bytes. -/
def State.importBytes (s : State) : List Byte := s.sec.importPub.flatMap fun w => leBytes 8 w.toNat

/-- IMPORT_DIGEST (R389). -/
def State.importDigest (s : State) : Digest := sha384 s.importBytes

/-- The instance bind secret of R391, from the bytes of a bind blob. -/
def State.bindSecret (s : State) (n : Nat) (blob : List Byte) : Digest :=
  let z := (Config.ecdhProduct s.sec.importPriv (blob.take 96)).take 48
  let k := (Config.mlkemSecret s.sec.importPriv (blob.drop 96)).take 32
  digestOfBytes (hkdf (leBytes 48 s.sec.idDigest.toNat) (z ++ k)
    (asciiBytes "BIND" ++ leBytes 1 n ++ leBytes 48 s.importDigest.toNat) 48)

/-- INST_BIND (R391). -/
def mbInstBind (s : State) (n : Nat) (p : Page) : State :=
  let a := p.word 1
  let i := s.inst n
  if !covered i.pools.mem 9 a 1184 || !s.sec.importReady || i.bound then mbDone s n Config.HANDLE_RIGHTS []
  else if s.poisoned a 1184 then mbDone s n Config.MEM_POISON []
  else
    let blob := s.readBytes a 1184
    mbDone (s.setInst n { i with bound := true, bindDigest := sha384 blob, bindSecret := s.bindSecret n blob }) n Config.NONE []

/-- The key pair that 72 wrapped bytes hold for a key slot under an instance bind secret; none where the integrity check
fails (R394). -/
def unwrapKey (secret : Digest) (slot : Nat) (bs : List Byte) : Option (BitVec 512) :=
  (kwUnwrap (hkdfExpand (leBytes 48 secret.toNat) (asciiBytes "SLOT" ++ leBytes 2 slot) 32) bs 8).map fun k => BitVec.ofNat 512 (leNat k)

/-- KEY_LOAD (R394). -/
def mbKeyLoad (s : State) (n : Nat) (p : Page) : State :=
  let k := p.field 1 8 0
  let a := p.word 2
  let i := s.inst n
  if !i.pools.hasKey k || !covered i.pools.mem 9 a 72 || !i.bound || s.keyLoaded k then mbDone s n Config.HANDLE_RIGHTS []
  else if s.poisoned a 72 then mbDone s n Config.MEM_POISON []
  else match unwrapKey i.bindSecret k (s.readBytes a 72) with
    | none => tamperRaise (mbDone s n Config.KEY_MISUSE []) 3
    | some key =>
      if key.toNat % 2 ^ 256 = key.toNat / 2 ^ 256 then mbDone s n Config.HANDLE_RIGHTS []
      else mbDone { s with sec := { s.sec with keys := tput s.sec.keys k (some key) } } n Config.NONE []

/-- KEY_ERASE (R395): an EMPTY slot is in the wrong state. -/
def mbKeyErase (s : State) (n : Nat) (p : Page) : State :=
  let k := p.field 1 8 0
  if (s.inst n).pools.hasKey k && s.keyLoaded k then
    mbDone { s with sec := { s.sec with keys := tdel s.sec.keys k } } n Config.NONE []
  else mbDone s n Config.HANDLE_RIGHTS []

/-! ## Attestation (R403 to R406) -/

/-- Bytes of a report (R403). -/
def attestLen : Nat := 3904

/-- Bytes of a digest, byte 0 first. -/
def digestBytes (d : Digest) : List Byte := leBytes 48 d.toNat

/-- Bytes 0x000 to 0x1BF of a report (R403). -/
def State.attestBody (s : State) (r : AttestReq) : List Byte :=
  let img := s.run.map fun x => x.img
  let slot := match s.run with | some x => x.imageSlot.toNat | none => 0
  leBytes 4 0x52545441 ++ leBytes 2 1 ++ leBytes 1 r.page ++
    leBytes 1 (b2n s.sec.debugSeen + 2 * b2n s.sec.locked + 4 * b2n s.run.isSome + 8 * b2n (s.inst r.page).bound) ++
    leBytes 4 s.fuse.grade.toNat ++ leBytes 4 slot ++ (r.nonce.flatMap fun w => leBytes 8 w.toNat) ++ digestBytes s.sec.idDigest ++
    digestBytes s.boot.patchDigest ++ digestBytes (match img with | some g => g.digest | none => 0#384) ++
    leBytes 4 (match img with | some g => g.seq.toNat | none => 0) ++ leBytes 4 (match img with | some g => g.imageId.toNat | none => 0) ++
    leBytes 8 s.esc.beatCount.toNat ++ leBytes 8 s.esc.time.toNat ++
    ((List.range 8).flatMap fun i => leBytes 1 (if i < 5 then (s.tamperLevel i).toNat else 0)) ++
    digestBytes (s.inst r.page).bindDigest ++ digestBytes s.importDigest ++
    digestBytes (if s.run.isSome then tget 0#384 s.fuse.ownerDigest slot else 0#384) ++
    leBytes 4 s.fuse.romVersion.toNat ++ leBytes 4 s.boot.patchVersion.toNat ++ leBytes 56 0

/-- The signer, when it is free, takes the oldest request whose instance may be written for and samples its values (R403,
R406). -/
def attestTake (s : State) : State :=
  if s.sec.attests.any fun r => r.body.isSome && (s.inst r.page).recordsOpen then s
  else match s.sec.attests.find? fun r => r.body.isNone && (s.inst r.page).recordsOpen with
    | none => s
    | some r =>
      let body := s.attestBody r
      let l := s.sec.attests.map fun x => if x.page = r.page then { x with body := some body } else x
      { s with sec := { s.sec with attests := l } }

/-- ATTEST: the signer takes requests in the order in which they are latched (R406). -/
def mbAttest (s : State) (n : Nat) (p : Page) : State :=
  let ctx := p.field 0 26 16
  let h : W32 := BitVec.ofNat 32 (p.field 1 31 0)
  let off := p.field 1 63 32 * 64
  let c := s.ctx ctx
  if c.state == .live && c.inst == n && s.namesObj ctx h .record off attestLen then
    attestTake { s with sec := { s.sec with attests := s.sec.attests ++
        [{ page := n, ctx := ctx, obj := handleIndex h, off := off, nonce := (p.cur.drop 2).take 6, body := none }] } }
  else mbDone s n Config.HANDLE_RIGHTS []

/-- A signature over a digest with an identity key, as `len` bytes. -/
def State.identitySign (s : State) (mldsa : Bool) (d : Digest) (len : Nat) : List Byte :=
  let b := Config.identitySignature s.fuse.idSeed mldsa d
  (List.range len).map fun k => b.getD k 0#8

/-- The 3,904 bytes of a report. -/
def State.attestReport (s : State) (body : List Byte) : List Byte :=
  let d := sha384 body
  body ++ s.identitySign false d 96 ++ s.identitySign true d 3309 ++ leBytes 51 0

/-- The object of a request still takes its report. -/
def State.attestOk (s : State) (r : AttestReq) : Bool :=
  let o := s.obj r.obj
  (s.ctx r.ctx).state == .live && o.state == .mapped && o.owner.toNat == r.ctx && o.kind == .record && o.holds r.off attestLen

/-- The signer finishes the request that it took, if its instance may be written for (R364, R406), and takes the next. -/
def attestDone (s : State) : State :=
  match s.sec.attests.find? fun r => r.body.isSome && (s.inst r.page).recordsOpen with
  | none => attestTake s
  | some r =>
    let s := { s with sec := { s.sec with attests := s.sec.attests.filter fun x => x.page != r.page } }
    let s := if s.attestOk r then mbDone (objWrite s (.inst r.page) r.obj r.off (s.attestReport (r.body.getD []))) r.page Config.NONE []
      else mbDone s r.page Config.HANDLE_RIGHTS []
    attestTake s

/-! ## A request -/

/-- What a request that passes the checks of its words does. -/
def mbAct (s : State) (n : Nat) (p : Page) : State := match p.curOp.toNat with
  | 0x01 => mbCtxCreate s n p
  | 0x02 => mbCtxDestroy s n p
  | 0x03 => mbQueueCreate s n p
  | 0x04 => mbQueueDestroy s n p
  | 0x05 => mbQueueReset s n p
  | 0x06 => mbCounterAlloc s n p
  | 0x10 => mbInstCreate s n p
  | 0x11 => mbInstDisable s n p
  | 0x12 => mbInstEnable s n p
  | 0x13 => mbInstReset s n p
  | 0x20 => mbInstBind s n p
  | 0x21 => mbKeyLoad s n p
  | 0x22 => mbKeyErase s n p
  | 0x23 => mbAttest s n p
  | 0x30 => mbRecRing s n p
  | _ => mbDone s n Config.PACKET_MALFORMED []

/-- The latched request of a page is decided (R357, R430). -/
def mbDecide (s : State) (n : Nat) (who : Who) : State :=
  let p := s.page n
  if s.fr.stopped then mbDone s n Config.ACCESS_DENIED []
  else if !(p.wellFormed && s.mbCoreOk p) then mbDone s n Config.PACKET_MALFORMED []
  else if s.mbDenied n who p then mbDone s n Config.ACCESS_DENIED []
  else mbAct s n p

/-- The words that stand in a page's request registers. -/
def Page.words (p : Page) : List W64 := (List.range 8).map fun k => tget 0#64 p.req k

/-- A page with a request latched. -/
def Page.latch (p : Page) (seq : BitVec 16) (words : List W64) : Page :=
  { p with busy := true, curSeq := seq, curOp := BitVec.ofNat 8 (words.getD 0 0#64).toNat, cur := words }

/-- An INST_RESET that meets the INST_DISABLE of the same instance in progress on the manager's page (R366). -/
def State.resetsDisable (s : State) (n : Nat) (words : List W64) : Bool :=
  let p := s.page n
  n == 0 && p.busy && p.curOp == 0x11#8 && (words.getD 0 0#64).toNat == 0x13 &&
    (words.getD 1 0#64).toNat == p.field 1 5 0 && (s.inst (p.field 1 5 0)).state == .disabling

/-- The disable request in progress completes with NONE, its jobs killed so far reported (R366). -/
def endDisable (s : State) : State :=
  mbDone s 0 Config.NONE [BitVec.ofNat 64 (match (s.inst ((s.page 0).field 1 5 0)).disabling with | some d => d.killed | none => 0)]

/-- A write of MB_REQ_GO (R355): nothing while the instance is FREE (R354), rejected while a request is in progress, but for an
INST_RESET that ends the disable of its instance (R366; log entry 90). -/
def mbGo (s : State) (n : Nat) (who : Who) (seq : BitVec 16) : State :=
  let words := (s.page n).words
  let s := if s.resetsDisable n words then endDisable s else s
  if (s.inst n).state = .free then s
  else if (s.page n).busy then s.modPage n fun p => { p with busyReject := true }
  else mbDecide (s.modPage n fun p => p.latch seq words) n who

/-- A write of request word k: nothing while the instance is FREE (R354). -/
def mbWord (s : State) (n k : Nat) (v : W64) : State :=
  if (s.inst n).state = .free then s else s.modPage n fun p => { p with req := tset0 p.req k v }

/-- Offset of a register of a mailbox page. -/
def pageOff (n off : Nat) : Nat := 0x1000000 + 0x10000 * n + off

/-- The words of a request row: the opcode byte is the row's. -/
def reqWords (m : MbReq) (op : Nat) : List W64 :=
  [BitVec.ofNat 64 (m.w0.toNat / 256 * 256 + op), m.w1, m.w2, m.w3, m.w4, m.w5, m.w6, m.w7]

/-- A latched request that passes the checks 1 and 2 of R357 reaches past the end of device memory: the descriptor of an
INST_CREATE for a FREE instance, or a bitmap line of an INST_RESET that ends at once (R13). -/
def State.reachesBeyond (s : State) (n : Nat) (who : Who) (p : Page) : Bool :=
  let i := p.field 1 5 0
  !s.fr.stopped && p.wellFormed && !s.mbDenied n who p &&
    ((p.curOp == 0x10#8 && s.creatable i && decide (2 ^ 48 < p.word 2 + 160)) ||
     (p.curOp == 0x13#8 && (s.inst i).state != .free && (s.inst i).state != .resetting && (s.instCtxs i).isEmpty && s.dirtyBeyond i))

/-- A GO with these words in the page would make the Keeper reach past the end of device memory (R13). -/
def State.goBeyond (s : State) (n : Nat) (who : Who) (words : List W64) : Bool :=
  (s.inst n).state != .free && (!(s.page n).busy || s.resetsDisable n words) &&
    s.reachesBeyond n who ((s.page n).latch 0#16 words)

/-- A request written with its words and GO. -/
def mbRequest (s : State) (m : MbReq) (words : List W64) : Host.Outcome State Fault Refusal :=
  let n := m.page.toNat
  match hostCheck s m.who (pageOff n 0x40) true false with
  | .ignored s => .next s
  | .granted =>
    if s.goBeyond n m.who words then .fault .addressSpace
    else .next (mbGo (words.zipIdx.foldl (fun s x => mbWord s n x.2 x.1) s) n m.who m.seq)

/-! ## The rows -/

/-- CTX_CREATE (R356). -/
def execCtxCreate (m : MbReq) (s : State) : Host.Outcome State Fault Refusal := mbRequest s m (reqWords m 0x01)

/-- CTX_DESTROY (R356, R367). -/
def execCtxDestroy (m : MbReq) (s : State) : Host.Outcome State Fault Refusal := mbRequest s m (reqWords m 0x02)

/-- QUEUE_CREATE (R268, R356). -/
def execQueueCreate (m : MbReq) (s : State) : Host.Outcome State Fault Refusal := mbRequest s m (reqWords m 0x03)

/-- QUEUE_DESTROY (R272, R356). -/
def execQueueDestroy (m : MbReq) (s : State) : Host.Outcome State Fault Refusal := mbRequest s m (reqWords m 0x04)

/-- QUEUE_RESET (R272, R356). -/
def execQueueReset (m : MbReq) (s : State) : Host.Outcome State Fault Refusal := mbRequest s m (reqWords m 0x05)

/-- COUNTER_ALLOC (R356). -/
def execCounterAlloc (m : MbReq) (s : State) : Host.Outcome State Fault Refusal := mbRequest s m (reqWords m 0x06)

/-- INST_CREATE (R351, R352). -/
def execInstCreate (m : MbReq) (s : State) : Host.Outcome State Fault Refusal := mbRequest s m (reqWords m 0x10)

/-- Words of an INST_DISABLE with the MODE of the row. -/
def disableWords (m : MbReq) (drain : Bool) : List W64 :=
  reqWords { m with w1 := BitVec.ofNat 64 (m.w1.toNat - 256 * (m.w1.toNat / 256 % 2) + 256 * b2n drain) } 0x11

/-- INST_DISABLE in mode SQUASH (R360). -/
def execInstDisableSquash (m : MbReq) (s : State) : Host.Outcome State Fault Refusal := mbRequest s m (disableWords m false)

/-- INST_DISABLE in mode DRAIN (R363). -/
def execInstDisableDrain (m : MbReq) (s : State) : Host.Outcome State Fault Refusal := mbRequest s m (disableWords m true)

/-- INST_ENABLE (R365). -/
def execInstEnable (m : MbReq) (s : State) : Host.Outcome State Fault Refusal := mbRequest s m (reqWords m 0x12)

/-- INST_RESET (R374). -/
def execInstReset (m : MbReq) (s : State) : Host.Outcome State Fault Refusal := mbRequest s m (reqWords m 0x13)

/-- INST_BIND (R391). -/
def execInstBind (m : MbReq) (s : State) : Host.Outcome State Fault Refusal := mbRequest s m (reqWords m 0x20)

/-- KEY_LOAD (R394). -/
def execKeyLoad (m : MbReq) (_ : Unit) (s : State) : Host.Outcome State Fault Refusal :=
  mbRequest s m (reqWords m 0x21)

/-- KEY_ERASE (R395). -/
def execKeyErase (m : MbReq) (s : State) : Host.Outcome State Fault Refusal := mbRequest s m (reqWords m 0x22)

/-- ATTEST (R403). -/
def execAttest (m : MbReq) (s : State) : Host.Outcome State Fault Refusal := mbRequest s m (reqWords m 0x23)

/-- ATTEST_SIGNED (R406). -/
def execAttestSigned (s : State) : Host.Outcome State Fault Refusal :=
  .next (if s.portAlive && !s.obs.halted && !s.fr.stopped then attestDone s else s)

/-- REC_RING (R470). -/
def execRecRing (m : MbReq) (s : State) : Host.Outcome State Fault Refusal := mbRequest s m (reqWords m 0x30)

end Sys2Proof.Machine
end

