-- ==== Sys2Proof/Machine/Regulator.lean ====
section
/-! DEFINITION. The manager's control of queues (R328), context scratch shares (R106, R329 to R331), weights (R336) and
preemption (R342 to R346). -/

namespace Sys2Proof.Machine

/-! ## Queue control (R328) -/

/-- The outcome of a queue command as RG_QUEUE_RESULT shows it. -/
def queueResult (s : State) (qn : Nat) (code : BitVec 16) : State :=
  { s with rg := { s.rg with resQueue := BitVec.ofNat 13 qn, resCode := code } }

/-- STOP. -/
def queueStop (s : State) (qn : Nat) : State :=
  if (s.queue qn).state.fetching then queueResult (s.modQueue qn fun q => q.stop false) qn Config.NONE
  else queueResult s qn Config.HANDLE_RIGHTS

/-- RESTART. -/
def queueRestart (s : State) (qn : Nat) : State :=
  let q := s.queue qn
  if q.state ≠ .stopped then queueResult s qn Config.HANDLE_RIGHTS
  else if s.granted q.part (s.ctx q.ctx).inst then
    queueResult (s.setQueue qn { q with state := q.restState, stoppedByDisable := false }) qn Config.NONE
  else queueResult s qn Config.ACCESS_DENIED

/-- A pending REBIND completes once no command of its queue is past fetch: the binding changes, the virtual time becomes
that of the new partition, and RESTART is applied. -/
def rebindSettle (s : State) : State :=
  match s.rg.rebind with
  | none => s
  | some r =>
    let q := s.queue r.1.toNat
    if q.cmds.isEmpty && q.indirect.isNone then
      let s := { s with rg := { s.rg with rebind := none } }
      regEval (queueRestart (s.setQueue r.1.toNat { q with part := r.2.toNat, vt := (s.rgPart r.2.toNat).gv }) r.1.toNat)
    else s

/-- REBIND: its result comes when it completes. -/
def queueRebind (s : State) (qn : Nat) (part : BitVec 3) : State :=
  let q := s.queue qn
  if s.rg.rebind.isSome then queueResult s qn Config.PACKET_MALFORMED
  else if q.state = .free ∨ q.state = .error then queueResult s qn Config.HANDLE_RIGHTS
  else if s.granted part.toNat (s.ctx q.ctx).inst then
    { (s.setQueue qn (q.stop false)) with rg := { s.rg with rebind := some (BitVec.ofNat 13 qn, part) } }
  else queueResult s qn Config.ACCESS_DENIED

/-- A write of RG_QUEUE_CMD. -/
def queueCommand (s : State) (v : W64) : State :=
  let qn := bitField v.toNat 12 0
  match bitField v.toNat 31 29 with
  | 1 => queueStop s qn
  | 2 => queueRestart s qn
  | 3 => queueRebind s qn (BitVec.ofNat 3 (bitField v.toNat 26 24))
  | _ => s

/-- Offset of RG_QUEUE_CMD. -/
def RG_QUEUE_CMD : Nat := 0x200108

/-- STOP (R328). -/
def execStop (who : Who) (queue : BitVec 13) (s : State) : Host.Outcome State Fault Refusal :=
  .next (hostWrite s who RG_QUEUE_CMD false fun s => queueStop s queue.toNat)

/-- RESTART (R328). -/
def execRestart (who : Who) (queue : BitVec 13) (s : State) : Host.Outcome State Fault Refusal :=
  .next (hostWrite s who RG_QUEUE_CMD false fun s => queueRestart s queue.toNat)

/-- REBIND (R328). -/
def execRebind (who : Who) (queue : BitVec 13) (part : BitVec 3) (s : State) : Host.Outcome State Fault Refusal :=
  .next (hostWrite s who RG_QUEUE_CMD false fun s => queueRebind s queue.toNat part)

/-- REBIND_COMPLETE (R328). -/
def execRebindComplete (s : State) : Host.Outcome State Fault Refusal :=
  .next (if s.portAlive && !s.obs.halted then rebindSettle s else s)

/-! ## Shares (R329 to R331) -/

/-- RG_SHARE_CODE. -/
def shareCode (s : State) (code : BitVec 16) : State := { s with rg := { s.rg with shareCode := code } }

/-- The lowest free one of the 512 share records. -/
def State.shareRecord (s : State) : Option Nat := (List.range 512).find? fun n => (tfind s.shares n).isNone

/-- Whether the running image declares a partition. -/
def State.declared (s : State) (p : Nat) : Bool := match s.run with
  | some r => (r.img.part p).isSome
  | none => false

/-- FREE_SCRATCH of a partition of the running image. -/
def State.freeScratch (s : State) (p : Nat) : Nat := match s.run with
  | some r => (match r.img.part p with | some x => x.freeScratch | none => 0)
  | none => 0

/-- Place a share and start its clearing on every core of the partition; with no core to clear it is LIVE at once. -/
def placeShare (s : State) (n ctx p off size : Nat) : State :=
  let cs := s.partCores p
  let s := { s with shares := tput s.shares n {
    ctx := ctx, part := p, off := off, size := size, state := if cs.isEmpty then .live else .clearing,
    isSealed := (s.ctx ctx).isSealed, clearing := cs } }
  shareCode (cs.foldl (fun s c => clearRange s c off size) s) Config.NONE

/-- GRANT: the checks of R330 in order. -/
def shareGrant (s : State) (size : Nat) : State :=
  let p := s.rg.shareSelPart.toNat
  let ctx := s.rg.shareSelCtx.toNat
  if size % 4096 ≠ 0 ∨ size < 4096 then shareCode s Config.PACKET_MALFORMED
  else if (s.ctx ctx).state ≠ .live ∨ s.declared p = false then shareCode s Config.HANDLE_RIGHTS
  else if (s.shareOf ctx p).isSome then shareCode s Config.HANDLE_RIGHTS
  else match firstFit (shareRanges s.shares p) size (s.freeScratch p), s.shareRecord with
    | some off, some n => placeShare s n ctx p off size
    | _, _ => shareCode s Config.SCRATCH_SHORT

/-- RELEASE: one that is already releasing stays so. -/
def shareRelease (s : State) : State :=
  match s.shareOf s.rg.shareSelCtx.toNat s.rg.shareSelPart.toNat with
  | none => shareCode s Config.HANDLE_RIGHTS
  | some x =>
    let s := shareCode s Config.NONE
    if x.2.state = .releasing then s
    else regEval (shareSettle { s with shares := tput s.shares x.1 { x.2 with state := .releasing, clearing := [] } })

/-- A write of RG_SHARE. -/
def shareCommand (s : State) (v : W64) : State :=
  match bitField v.toNat 63 62 with
  | 1 => shareGrant s (bitField v.toNat 24 0)
  | 2 => shareRelease s
  | _ => s

/-- Offset of RG_SHARE. -/
def RG_SHARE : Nat := 0x200308

/-- GRANT (R330). -/
def execGrant (who : Who) (size : BitVec 25) (s : State) : Host.Outcome State Fault Refusal :=
  .next (hostWrite s who RG_SHARE true fun s => shareGrant s size.toNat)

/-- RELEASE_SHARE (R331). -/
def execReleaseShare (who : Who) (s : State) : Host.Outcome State Fault Refusal :=
  .next (hostWrite s who RG_SHARE true fun s => shareRelease s)

/-- A core has cleared a share: once every core has, the share is LIVE, or its record free (R330, R331). -/
def shareCleared (s : State) (c : Nat) (x : Nat × Share) : State :=
  if x.2.clearing.contains c && !(s.core c).clearing x.2.off x.2.size then
    let left := x.2.clearing.filter fun k => k != c
    if left.isEmpty then
      match x.2.state with
      | .clearing => { s with shares := tput s.shares x.1 { x.2 with state := .live, clearing := [] } }
      | .releasing => { s with shares := tdel s.shares x.1 }
      | .live => { s with shares := tput s.shares x.1 { x.2 with clearing := [] } }
    else { s with shares := tput s.shares x.1 { x.2 with clearing := left } }
  else s

/-- The clear engine of a core finishes its oldest range (R106): it works its ranges off whole, the oldest first. DESIGN CHOICE,
log entry 84. -/
def clearDone (s : State) (c : Nat) : State :=
  match (s.core c).clears with
  | [] => s
  | r :: rest =>
    let s := s.modCore c fun k => { k.zeroScratch r.1 r.2 with clears := rest }
    regEval (eraseSettle (s.shares.foldl (fun s x => shareCleared s c x) s))

/-- SCRATCH_CLEAR_DONE (R106). -/
def execScratchClearDone (core : BitVec 4) (s : State) : Host.Outcome State Fault Refusal :=
  .next (if s.portAlive && !s.obs.halted then clearDone s core.toNat else s)

/-! ## Weights (R336) -/

/-- A weight as it is stored: 0 as 1. -/
def weightOf (v : Nat) : BitVec 8 := BitVec.ofNat 8 (max 1 (bitField v 7 0))

/-- A write of RG_WEIGHT: the weight of the node that RG_WEIGHT_SEL selects. -/
def setWeight (s : State) (v : W64) : State :=
  let id := s.rg.selId.toNat
  let w := weightOf v.toNat
  match s.rg.selLevel.toNat with
  | 0 => s.modInst (bitField id 5 0) fun i => { i with weights := tput i.weights s.rg.selPart.toNat w }
  | 1 => s.modCtx (bitField id 10 0) fun c => { c with weight := w }
  | 2 => s.modQueue id fun q => { q with weight := w }
  | _ => s

/-- WEIGHT_WRITE (R336). -/
def execWeightWrite (who : Who) (data : W32) (s : State) : Host.Outcome State Fault Refusal :=
  .next (hostWrite s who 0x200104 false fun s => setWeight s (data.setWidth 64))

/-! ## Preemption (R342 to R346) -/

/-- A running free job that a preemption may still kill: none of its cores has halted, no kill is under way, it has not
ended, and its context is not in TEARDOWN (R344). -/
def State.preemptible (s : State) (n : Nat) (j : Job) : Bool :=
  j.kill.isNone && (match j.kind with | .free q _ _ => (s.ctx (s.queueCtx q)).state != .teardown | .station _ => false) &&
    (j.cores.all fun c => (s.core c).st != .held) && !s.jobOver n j

/-- The preemption of one job: its kill begins, or is held back while the job is in a remote wait (R343, R346). -/
def preemptJob (s : State) (n : Nat) : State :=
  match s.job n with
  | none => s
  | some j =>
    if s.remoteWait j then
      if j.deferred then s else s.setJob n { j with deferred := true, deferStart := s.esc.time }
    else killJob s n .preempt Config.NONE 0#64

/-- Manager preemption: every running free job of the target (R342, R349). -/
def preemptAll (s : State) (target : Job → Bool) : State :=
  let l := (s.jobs.filter fun j => target j.2 && s.preemptible j.1 j.2).map fun j => j.1
  l.foldl preemptJob { s with rg := { s.rg with preJobs := l, preBusy := !l.isEmpty, preKilled := 0#16 } }

/-- Queue of a free job. -/
def Job.queueOf (j : Job) : Option Nat := match j.kind with
  | .free q _ _ => some q
  | .station _ => none

/-- Preemption of a queue, a context, an instance, or a set of cores. -/
def preemptQueue (s : State) (t : Nat) : State := preemptAll s fun j => j.queueOf == some (bitField t 12 0)
def preemptContext (s : State) (t : Nat) : State :=
  preemptAll s fun j => (j.queueOf.map fun q => s.queueCtx q) == some (bitField t 10 0)
def preemptInstance (s : State) (t : Nat) : State := preemptAll s fun j => s.jobInst j == some (bitField t 5 0)
def preemptCores (s : State) (p mask : Nat) : State :=
  preemptAll s fun j => j.part == p && j.cores.any fun c => bitAt mask c

/-- A write of RG_PREEMPT. -/
def preemptCommand (s : State) (v : W64) : State :=
  let t := bitField v.toNat 15 0
  match bitField v.toNat 63 61 with
  | 1 => preemptQueue s t
  | 2 => preemptContext s t
  | 3 => preemptInstance s t
  | 4 => preemptCores s (bitField v.toNat 58 56) t
  | _ => s

/-- Offset of RG_PREEMPT. -/
def RG_PREEMPT : Nat := 0x200200

/-- PREEMPT_QUEUE (R342). -/
def execPreemptQueue (who : Who) (target : BitVec 16) (s : State) : Host.Outcome State Fault Refusal :=
  .next (hostWrite s who RG_PREEMPT true fun s => preemptQueue s target.toNat)

/-- PREEMPT_CONTEXT (R342). -/
def execPreemptContext (who : Who) (target : BitVec 16) (s : State) : Host.Outcome State Fault Refusal :=
  .next (hostWrite s who RG_PREEMPT true fun s => preemptContext s target.toNat)

/-- PREEMPT_INSTANCE (R342). -/
def execPreemptInstance (who : Who) (target : BitVec 16) (s : State) : Host.Outcome State Fault Refusal :=
  .next (hostWrite s who RG_PREEMPT true fun s => preemptInstance s target.toNat)

/-- PREEMPT_CORES (R342). -/
def execPreemptCores (who : Who) (part : BitVec 3) (mask : BitVec 16) (s : State) : Host.Outcome State Fault Refusal :=
  .next (hostWrite s who RG_PREEMPT true fun s => preemptCores s part.toNat mask.toNat)

/-- A flight of which a job has completed an arrival in the current round (R322, R342). -/
def State.hasArrived (s : State) (j : Job) : Bool := j.arrivals.any fun a => (s.flight a.1).round == a.2

/-- The automatic preemption of a partition is still in progress. -/
def State.autoBusy (s : State) (p : Nat) : Bool := match (s.rgPart p).autoVictim with
  | some n => (s.job n).isSome
  | none => false

/-- Whether a running free job may be the victim for a LAUNCH (R342). -/
def State.isVictim (s : State) (r : Running) (p w : Nat) (x : Nat × Cmd) (n : Nat) (j : Job) : Bool :=
  j.part == p && s.preemptible n j && !s.remoteWait j && !s.hasArrived j && (match j.kind with
    | .station _ => false
    | .free q _ k => vtLess (s.queue x.1).vt (s.queue q).vt && (match (s.queue q).cmd k with
      | some c => c.reruns == 0#16
      | none => false)) &&
    decide (x.2.launchNeeds.1 ≤ j.cores.length + (s.freeEligible r p w).length) &&
    decide (s.freeCores p - j.cores.length + x.2.launchNeeds.1 ≤ r.img.freeLimit p)

/-- Of two jobs the one of higher virtual time, ties to the higher queue ID, further ties to the older job. -/
def State.betterVictim (s : State) (a b : Nat × Job) : Bool :=
  let qa := a.2.queueOf.getD 0
  let qb := b.2.queueOf.getD 0
  vtLess (s.queue qb).vt (s.queue qa).vt || ((s.queue qa).vt == (s.queue qb).vt && decide (qb < qa))

/-- The victim among candidates (R342; log entry 7). -/
def State.victim (s : State) : List (Nat × Job) → Option (Nat × Job)
  | [] => none
  | x :: r => match State.victim s r with
    | none => some x
    | some y => if s.betterVictim y x then some y else some x

/-- Automatic preemption at cycle t of the open window: the first offerable LAUNCH has waited PREEMPT_WAIT_US (R342). -/
def autoPreempt (s : State) (r : Running) (p : Nat) (w : Window) (t : Nat) : State :=
  match s.offers p with
  | [] => s
  | x :: _ =>
    if fits s r.img w (t + 1504) x.2.launchNeeds.2 then
      match s.victim (s.jobs.filter fun j => s.isVictim r p w.index x j.1 j.2) with
      | none => s
      | some v => preemptJob (s.modRgPart p fun y => { y with autoFor := some x.2.seqNo, autoVictim := some v.1, autoCores := v.2.cores }) v.1
    else s

/-- PREEMPT_WAIT_EXPIRY (R342). -/
def execPreemptWaitExpiry (part : BitVec 3) (t : W32) (s : State) : Host.Outcome State Fault Refusal :=
  let p := part.toNat
  match s.run with
  | none => .next s
  | some r => match tfind r.openWin p with
    | none => .next s
    | some w => match r.img.window p w with
      | none => .next s
      | some x => .next (if s.dispatches && (s.rgPart p).preemptWaitUs != 0#20 && !s.autoBusy p then autoPreempt s r p x t.toNat else s)

/-- Flights on whose release a job waits at issue across devices (R325). -/
def State.remoteFlights (s : State) (j : Job) : List Nat :=
  ((j.cores.filter fun c => s.slotRemote c j).filterMap fun c => match s.front c j with
    | .ins i => some (s.counter ((s.core c).waitId i.wait).toNat).owner.toNat
    | _ => none).eraseDups

/-- KP_REMOTE_LIMIT expires on a deferred kill: the job is killed and its flights break (R325, R346). -/
def remoteExpired (s : State) (n : Nat) (j : Job) : State :=
  let fl := s.remoteFlights j
  let s := killJob s n .remoteLimit Config.REMOTE_LIMIT 0#64
  let s := fl.foldl (fun s f => flightBreak s f 0 Config.FLIGHT_BROKEN none) s
  let s := chPulse s 107 Config.REMOTE_LIMIT (BitVec.ofNat 32 (j.queueOf.getD 0))
  pumpAll (killWaiters { s with rg := { s.rg with preLimitHit := true } })

/-- REMOTE_LIMIT (R346): nothing happens unless the job on the core has a deferred kill. -/
def execRemoteLimit (core : BitVec 4) (s : State) : Host.Outcome State Fault Refusal :=
  match (s.core core.toNat).job with
  | none => .next s
  | some n => match s.job n with
    | none => .next s
    | some j => .next (if j.deferred && j.kill.isNone && s.portAlive && !s.obs.halted then remoteExpired s n j else s)

end Sys2Proof.Machine
end

