-- ==== Sys2Proof/Machine/Links.lean ====
section
/-! DEFINITION. Receiving on a Towpath link (R502 to R504): CRC, sequence numbers, acknowledgement, credits, and the AUTH
check of twin frames (R434, R503, R506). -/

namespace Sys2Proof.Machine

/-- A link layer that receives: powered, out of reset, with PHY lock, in INIT or UP (R490, R505). -/
def State.receives (s : State) (n : Nat) : Bool :=
  s.boot.power == .on && !s.boot.blkAsserted && !s.boot.porAsserted && (s.link n).phyLock &&
    ((s.link n).state == .init || (s.link n).state == .up)

/-- A frame dropped under R503, R504 or R434 is counted (R515; log entry 41). -/
def linkDrop (s : State) (n : Nat) : State := s.modLink n fun l => { l with dropped := satInc l.dropped }

/-- Frames up to the one that ACK names are acknowledged (R502). -/
def ackFrames (ack : BitVec 16) : List (BitVec 16 × LinkMsg) → List (BitVec 16 × LinkMsg)
  | [] => []
  | x :: r => if x.1 = ack then r else ackFrames ack r

/-- ACK and CREDITS of a valid frame: what ACK names leaves the replay store, CREDITS return, and waiting messages may go
(R502, R504). -/
def Link.credit (l : Link) (h : FrameHdr) : Link :=
  let left := if l.unacked.any (fun x => x.1 == h.ack) then ackFrames h.ack l.unacked else l.unacked
  let moved := (l.unacked.any fun x => x.1 == l.nakSeq) && !left.any fun x => x.1 == l.nakSeq
  Link.pump (l.waiting.length + 1) { l with
    unacked := left, credits := l.credits + h.credits.toNat, nakCount := if moved then 0 else l.nakCount }

/-- What a link layer makes of a frame. -/
inductive Rx where
  /-- it is dropped, or no link layer receives -/
  | gone (s : State)
  /-- it is accepted -/
  | taken (s : State)
  deriving DecidableEq, Repr

/-- A frame with an invalid CRC: counted, and answered with a NAK on a link that is UP (R504). -/
def badCrc (s : State) (n : Nat) (sequenced : Bool) : State :=
  let s := s.modLink n fun l => { l with crcErrors := satInc l.crcErrors }
  if sequenced && (s.link n).state == .up then linkSend s n (.nak (s.link n).rxSeq) else s

/-- A control frame. -/
def rxControl (s : State) (h : FrameHdr) (expected : Link → Bool) : Rx :=
  let n := h.link.toNat
  if !s.receives n then .gone s
  else if !h.crcOk then .gone (badCrc s n false)
  else if !expected (s.link n) then .gone (linkDrop s n)
  else .taken (if (s.link n).state = .up then s.modLink n fun l => l.credit h else s)

/-- A sequenced message of `frames` frames, whose first frame carries `h`: accepted only in its turn (R504). -/
def rxSequenced (s : State) (h : FrameHdr) (frames : Nat) : Rx :=
  let n := h.link.toNat
  if !s.receives n then .gone s
  else if !h.crcOk then .gone (badCrc s n true)
  else if (s.link n).state ≠ .up then .gone (linkDrop s n)
  else
    let s := s.modLink n fun l => l.credit h
    if h.seq = (s.link n).rxSeq then
      .taken (s.modLink n fun l => { l with rxSeq := l.rxSeq + BitVec.ofNat 16 frames, freed := l.freed + frames })
    else .gone (linkSend (linkDrop s n) n (.nak (s.link n).rxSeq))

/-- The AUTH check of an accepted frame of TYPE 0x12 and above: on TW, once the session is authenticated, it needs a tag
that verifies and a counter above the last; on a peer link it carries none. `open'` says that the TYPE may come before
authentication. A frame that fails the session's check raises TWIN_AUTH_FAIL (R434, R503, R506). -/
def rxAuth (s : State) (h : FrameHdr) (open' : Bool) : Rx :=
  if h.link ≠ 0#3 then (if h.auth then .gone (linkDrop s h.link.toNat) else .taken s)
  else if s.tw.authed then
    if h.auth && h.tagOk && decide (s.tw.rxCtr.toNat < h.ctr.toNat) then .taken { s with tw := { s.tw with rxCtr := h.ctr } }
    else .gone (tamperRaise (linkDrop s 0) 4)
  else if open' && !h.auth then .taken s
  else .gone (linkDrop s 0)

/-- A flight message: sequenced, on every link. -/
def rxFlight (s : State) (h : FrameHdr) : Rx := match rxSequenced s h 1 with
  | .gone s => .gone s
  | .taken s => rxAuth s h true

/-- A message of the twin: on TW alone. -/
def rxTwin (s : State) (h : FrameHdr) (frames : Nat) : Rx := match rxSequenced s h frames with
  | .gone s => .gone s
  | .taken s => if h.link = 0#3 then .taken s else .gone (linkDrop s h.link.toNat)

/-- A message of the authenticated twin session. -/
def rxSession (s : State) (h : FrameHdr) : Rx := match rxTwin s h 1 with
  | .gone s => .gone s
  | .taken s => rxAuth s h false

end Sys2Proof.Machine
end

