-- ==== Sys2Proof/Machine/Twin.lean ====
section
/-! DEFINITION. Twins (R433 to R447): pairing, heartbeats, alignment, yields, failover, and their commands. -/

namespace Sys2Proof.Machine

/-! ## Pairing (R433, R434) -/

/-- The exchange begins: HELLO goes out; a HELLO of the partner that has come already is answered with PROOF (log
entry 42). -/
def twExchange (s : State) : State :=
  let s := { s with tw := { s.tw with authed := false, partnerLive := false } }
  let s := linkSend s 0 .hello
  if s.tw.helloSeen then linkSend s 0 .proof else s

/-- UNPAIRED with PAIR written and TW up goes to AUTH (R433). -/
def twStart (s : State) : State :=
  if s.tw.state = .unpaired ∧ s.tw.pairReq = true ∧ (s.link 0).state = .up then
    twExchange { s with tw := { s.tw with state := .auth } }
  else s

/-- TW has come up: the exchange runs, or runs again (R433). -/
def twLinkUp (s : State) : State :=
  let s := { s with tw := { s.tw with helloSeen := false } }
  match s.tw.state with
  | .unpaired => twStart s
  | .stopped => s
  | _ => twExchange s

/-- Return to UNPAIRED (R434, R444): the PAIR request is spent (log entry 42). -/
def twUnpair (s : State) : State :=
  { s with tw := { s.tw with
      state := .unpaired, pairReq := false, authed := false, partnerLive := false, elect := false, complete := [],
      heldYield := none, yielded := false, handoverReq := false } }

/-- The exchange is under way: the device is past UNPAIRED and not yet authenticated. -/
def State.exchanging (s : State) : Bool := s.tw.state != .unpaired && s.tw.state != .stopped && !s.tw.authed

/-- PROOF of the partner is checked (R434 steps 3 and 4). -/
def twProved (s : State) (keysDigest : Digest) (sigsOk : Bool) (latencyNs : BitVec 16) : State :=
  if s.exchanging && s.tw.helloSeen then
    if keysDigest = s.tw.peerDigest ∧ sigsOk = true then
      { s with tw := { s.tw with
          authed := true, rxCtr := 0#64, txCtr := 0#64, oneWayNs := latencyNs, hbMissed := 0#4, partner := none,
          state := if s.tw.state = .auth then .paired else s.tw.state } }
    else tamperRaise (twUnpair s) 4
  else s

/-! ## Role resolution and alignment (R437, R444, R445) -/

/-- This device's ROLE and the partner's. -/
def State.ownRole (s : State) : Bool := match s.mirror with | some m => m.role | none => false
def State.partnerRole (s : State) : Bool := match s.tw.partner with | some c => c.role | none => false

/-- This device wins role resolution (R444). -/
def State.winsRole (s : State) : Bool :=
  if s.ownRole = s.partnerRole then decide (digestBE s.sec.idDigest < digestBE s.tw.partnerDigest) else !s.ownRole

/-- Error between the beat edges of the pair in ns, as a heartbeat shows it (R437). -/
def State.phaseError (s : State) (c : Heartbeat) : Nat :=
  let period := max 1 (s.esc.periodUs.toNat * 1000)
  let mine := (s.esc.time - s.esc.beatTime).toNat % period
  let theirs := (c.nsSince.toNat + s.tw.oneWayNs.toNat) % period
  let d := if mine ≤ theirs then theirs - mine else mine - theirs
  min d (period - d)

/-- Alignment as a heartbeat shows it: a SECONDARY more than 5 µs away realigns; another device is aligned within 1 µs
(R437; log entry 43). -/
def twPhase (s : State) (c : Heartbeat) : State :=
  let e := s.phaseError c
  if s.tw.state = .secondary then
    if s.tw.aligned && decide (5000 < e) then
      { s with tw := { s.tw with aligned := false, lengthen := true, realign := satInc s.tw.realign } }
    else s
  else { s with tw := { s.tw with aligned := decide (e ≤ 1000) } }

/-- The pair resolves as a heartbeat shows the partner's state (R444, R445). -/
def twResolve (s : State) : State :=
  let p := s.tw.partnerState.toNat
  if !s.matched then s
  else match s.tw.state with
    | .paired =>
      if p = 3 then twSecondary s 0#8
      else if s.winsRole then { s with tw := { s.tw with elect := true } } else twSecondary s 0#8
    | .held =>
      if p = 3 then twSecondary s 0#8
      else if p = 2 ∨ p = 5 then
        (if s.winsRole then { s with tw := { s.tw with state := .paired, elect := true } } else twSecondary s 0#8)
      else s
    | .secondary => if p = 5 then twYield s 0#8 else s
    | .primary =>
      if p = 3 ∧ s.winsRole = false then twSecondary (twCode s Config.RELEASE_DENIED) 0#8 else s
    | _ => s

/-- A valid heartbeat (R436, R438, R443). -/
def twHeartbeat (s : State) (c : Heartbeat) : State :=
  let s := { s with tw := { s.tw with
    partnerLive := true, hbMissed := 0#4, partner := some c, partnerState := c.state,
    complete := s.tw.complete.filter fun e => beatAfter e.1 c.lastRel,
    yielded := s.tw.yielded && c.state != 3#3 } }
  let s := twPhase s c
  twResolve { s with tw := { s.tw with inStepLast := s.inStep } }

/-- A dropped heartbeat counts as missed (R434). -/
def twMissed (s : State) : State := { s with tw := { s.tw with hbMissed := satInc s.tw.hbMissed } }

/-- HB_PERIOD_US and HB_MISS in force (R436). -/
def State.hbPeriod (s : State) : Nat := match s.mirror with | some m => m.hbPeriod | none => 100
def State.hbMiss (s : State) : Nat := match s.mirror with | some m => m.hbMiss | none => 16

/-- The heartbeat that this device sends (R436, R506). -/
def State.ownHeartbeat (s : State) : Heartbeat :=
  let m := s.mirror
  { state := BitVec.ofNat 3 s.tw.state.code, role := s.ownRole, failover := s.failoverArmed, mirror := m.isSome,
    swapBeat := s.ownSwap,
    mask := (match m with | some x => x.mask | none => 0#8),
    hbMiss := BitVec.ofNat 8 (match m with | some x => x.hbMiss | none => 0),
    planId := (match m with | some x => x.planId | none => 0#32),
    hbPeriod := BitVec.ofNat 16 (match m with | some x => x.hbPeriod | none => 0),
    beat := s.esc.beatCount, nsSince := (s.esc.time - s.esc.beatTime).setWidth 32, lastRel := s.tw.relLast }

/-! ## Loss of heartbeats (R436, R441, R444) -/

/-- A takeover without a yield: PRIMARY, FAILOVER_TAKEN, R443. -/
def twTakeover (s : State) : State := twCode (twPrimary s) Config.FAILOVER_TAKEN

/-- The witness lets this device take over on silent loss (R444). -/
def State.witnessGround (s : State) : Bool := s.failoverArmed && s.tw.witnessUse && s.tw.witness && s.tw.inStepLast

/-- What heartbeat loss does in each state. -/
def twLossAct (s : State) : State := match s.tw.state with
  | .primary => if !s.tw.witnessUse || s.tw.witness then s else twHeld s true
  | .secondary => if s.witnessGround then twTakeover s else twHeld s s.failoverArmed
  | .held => if s.witnessGround then twTakeover s else twHeld s s.failoverArmed
  | .paired => { s with tw := { s.tw with elect := false } }
  | _ => s

/-- The loss has been reported since the last valid heartbeat. -/
def State.lossKnown (s : State) : Bool := !s.tw.partnerLive && decide (min 15 s.hbMiss ≤ s.tw.hbMissed.toNat)

/-- Heartbeats are lost: HEARTBEAT_LOST, PARTNER_LIVE 0. -/
def twLost (s : State) : State :=
  let s := { s with tw := { s.tw with partnerLive := false, hbMissed := BitVec.ofNat 4 (min 15 s.hbMiss) } }
  twLossAct (twCode s Config.HEARTBEAT_LOST)

/-- The filtered witness changes while the partner is not heard (R441, R444). -/
def twWitnessSet (s : State) (level : Bool) : State :=
  let s := { s with tw := { s.tw with witness := level } }
  if s.tw.partnerLive || !s.portAlive then s
  else match s.tw.state with
    | .primary => if s.tw.witnessUse && !level then twHeld s true else s
    | .held => if level && s.witnessGround then twTakeover s else s
    | _ => s

/-! ## Yields (R442, R446) -/

/-- The pair would be IN_STEP but for a swap beat (R438, R446). -/
def State.inStepButSwap (s : State) : Bool := s.tw.authed && s.tw.partnerLive && s.tw.aligned && (match s.mirror, s.tw.partner with
  | some m, some c => plansEqual m c && (s.ownSwap || c.swapBeat)
  | _, _ => false)

/-- A YIELD or RECOVERY_LOST that is not accepted: a SECONDARY or HELD device is HELD with RELEASE_DENIED (R444), and keeps
the ground for CLAIM. -/
def twRefuseYield (s : State) : State := match s.tw.state with
  | .secondary => twHeld { s with tw := { s.tw with yielded := true } } true
  | .held => twHeld { s with tw := { s.tw with yielded := true } } true
  | _ => s

/-- The partner's last reported release. -/
def twReported (s : State) (lastRel : BitVec 48) : State :=
  let p : Option Heartbeat := s.tw.partner.map fun c => { c with lastRel := lastRel }
  { s with tw := { s.tw with partner := p } }

/-- A YIELD of a kind: 0 role resolution, 1 HANDOVER, 2 recovery stop, 3 retention (R442, R444 to R446). -/
def twYielded (s : State) (kind : BitVec 8) (lastRel : BitVec 48) : State :=
  let k := kind.toNat
  match s.tw.state with
  | .paired =>
    if k = 0 then (if s.matched then acceptYield s false lastRel else s)
    else if k = 2 ∧ s.failoverArmed = true ∧ s.inStep = true then acceptYield s true lastRel else s
  | .secondary =>
    if k = 0 ∨ 3 < k ∨ (k = 2 ∧ s.failoverArmed = false) then twRefuseYield (twReported s lastRel)
    else if s.inStep then acceptYield s (k == 2) lastRel
    else if s.inStepButSwap then { s with tw := { s.tw with heldYield := some (kind, lastRel) } }
    else twRefuseYield (twReported s lastRel)
  | .held =>
    if k = 0 then (if s.matched then acceptYield s false lastRel else twRefuseYield (twReported s lastRel))
    else if 3 < k ∨ (k = 2 ∧ s.failoverArmed = false) then twRefuseYield (twReported s lastRel)
    else if s.inStep then acceptYield s (k == 2) lastRel
    else if s.inStepButSwap then { s with tw := { s.tw with heldYield := some (kind, lastRel) } }
    else twRefuseYield (twReported s lastRel)
  | _ => s

/-- RECOVERY_LOST of the partner (R442, R444). -/
def twRecoveryLost (s : State) (lastRel : BitVec 48) : State := match s.tw.state with
  | .secondary => if s.failoverArmed && s.inStep then acceptYield s true lastRel else twRefuseYield (twReported s lastRel)
  | .held => if s.failoverArmed && s.inStep then acceptYield s true lastRel else twRefuseYield (twReported s lastRel)
  | _ => s

/-! ## Commands of the manager -/

/-- Writes of TW_CTL: PAIR is set by 1, WITNESS_USE only while UNPAIRED (R433). -/
def setTwCtl (s : State) (v : W64) : State :=
  let s := if s.tw.state = .unpaired then { s with tw := { s.tw with witnessUse := bitAt v.toNat 1 } } else s
  if bitAt v.toNat 0 then twStart { s with tw := { s.tw with pairReq := true } } else s

/-- HANDOVER: a PRIMARY yields at the next beat edge (R444). -/
def twHandoverReq (s : State) : State :=
  if s.tw.state = .primary then { s with tw := { s.tw with handoverReq := true } } else s

/-- CLAIM: a HELD device becomes PRIMARY given a ground of R441: the partner's yield, or the witness while the partner is not
heard. Without one it is refused with RELEASE_DENIED (log entry 44). -/
def twClaim (s : State) : State :=
  if s.tw.state = .held then
    if s.tw.yielded || (s.tw.witnessUse && s.tw.witness && !s.tw.partnerLive) then twPrimary s
    else { s with tw := { s.tw with lastCode := Config.RELEASE_DENIED } }
  else s

/-- UNPAIR: refused with ACCESS_DENIED while a MIRROR section runs (R444). -/
def twUnpairCmd (s : State) : State :=
  if s.tw.state = .paired ∨ s.tw.state = .held then
    (if s.mirror.isSome then { s with tw := { s.tw with lastCode := Config.ACCESS_DENIED } } else twUnpair s)
  else s

/-- A write of TW_CMD. -/
def twCommand (s : State) (v : W64) : State := match bitField v.toNat 1 0 with
  | 1 => twHandoverReq s
  | 2 => twClaim s
  | 3 => twUnpairCmd s
  | _ => s

/-- Offsets of TW_CTL and TW_CMD. -/
def TW_CTL : Nat := 0x600000
def TW_CMD : Nat := 0x600004

/-- PAIR (R433): TW_CTL written with PAIR 1, WITNESS_USE as it stands. -/
def execPair (who : Who) (s : State) : Host.Outcome State Fault Refusal :=
  .next (hostWrite s who TW_CTL false fun s => setTwCtl s (BitVec.ofNat 64 (1 + 2 * b2n s.tw.witnessUse)))

/-- HANDOVER (R444, R447). -/
def execHandover (who : Who) (s : State) : Host.Outcome State Fault Refusal :=
  .next (hostWrite s who TW_CMD false fun s => twHandoverReq s)

/-- CLAIM (R444). -/
def execClaim (who : Who) (s : State) : Host.Outcome State Fault Refusal :=
  .next (hostWrite s who TW_CMD false fun s => twClaim s)

/-- UNPAIR (R444). -/
def execUnpair (who : Who) (s : State) : Host.Outcome State Fault Refusal :=
  .next (hostWrite s who TW_CMD false fun s => twUnpairCmd s)

/-! ## Frames of the twin -/

/-- The device acts on the twin's messages: it is not halted (R480). -/
def State.twActs (s : State) : Bool := s.portAlive && !s.obs.halted

/-- HELLO (R434 step 1). -/
def execHello (h : FrameHdr) (digest : Digest) (s : State) : Host.Outcome State Fault Refusal :=
  match rxTwin s h 4 with
  | .gone s => .next s
  | .taken s =>
    if s.twActs then
      let s := { s with tw := { s.tw with helloSeen := true, partnerDigest := digest } }
      .next (if s.exchanging then linkSend s 0 .proof else s)
    else .next s

/-- PROOF (R434 steps 2 to 4). -/
def execProof (h : FrameHdr) (keysDigest : Digest) (sigsOk : Bool) (latencyNs : BitVec 16) (s : State) :
    Host.Outcome State Fault Refusal :=
  match rxTwin s h 105 with
  | .gone s => .next s
  | .taken s => .next (if s.twActs then twProved s keysDigest sigsOk latencyNs else s)

/-- HEARTBEAT (R436). One that fails its check counts as missed. -/
def execHeartbeat (h : FrameHdr) (c : Heartbeat) (s : State) : Host.Outcome State Fault Refusal :=
  match rxTwin s h 1 with
  | .gone s => .next s
  | .taken s => match rxAuth s h false with
    | .gone s => .next (twMissed s)
    | .taken s => .next (if s.twActs then twHeartbeat s c else s)

/-- HEARTBEAT_SEND (R436): from the end of authentication; a frozen recovery controller refreshes nothing (log entry 45). -/
def execHeartbeatSend (s : State) : Host.Outcome State Fault Refusal :=
  .next (if s.tw.authed && s.twActs then linkSend s 0 (.heartbeat s.ownHeartbeat) else s)

/-- HEARTBEAT_LOST (R436, R444). -/
def execHeartbeatLost (s : State) : Host.Outcome State Fault Refusal :=
  .next (if s.tw.authed && s.twActs && !s.lossKnown then twLost s else s)

/-- YIELD (R442). -/
def execYield (h : FrameHdr) (kind : BitVec 8) (lastRel : BitVec 48) (s : State) : Host.Outcome State Fault Refusal :=
  match rxSession s h with
  | .gone s => .next s
  | .taken s => .next (if s.twActs then twYielded s kind lastRel else s)

/-- RECOVERY_LOST (R442). -/
def execRecoveryLost (h : FrameHdr) (lastRel : BitVec 48) (s : State) : Host.Outcome State Fault Refusal :=
  match rxSession s h with
  | .gone s => .next s
  | .taken s => .next (if s.twActs then twRecoveryLost s lastRel else s)

/-- TW_WITNESS (R441). -/
def execTwWitness (level : Bool) (s : State) : Host.Outcome State Fault Refusal :=
  .next (if s.obs.halted then { s with tw := { s.tw with witness := level } } else twWitnessSet s level)

end Sys2Proof.Machine
end

