-- ==== Sys2Proof/Machine/LinkRows.lean ====
section
/-! DEFINITION. Link states and control frames (R501 to R505), flight messages (R315 to R323), and the manager's commands on
counters and flights (R306, R314, R316, R317, R321 to R324). -/

namespace Sys2Proof.Machine

/-- What follows a flight's break: jobs that wait at issue die, BARRIERs complete (R323). -/
def afterBreak (s : State) : State := pumpAll (killWaiters s)

/-! ## Link states (R505) -/

/-- OPEN flights that use a link (R322 cause 3). -/
def State.linkFlights (s : State) (n : Nat) : List Nat :=
  (s.flights.filter fun f => f.2.state == .isOpen && (f.2.parentLink == some n || bitAt f.2.children.toNat n)).map fun f => f.1

/-- A link leaves UP: what it has not sent or not been acknowledged is discarded, LINK_DOWN is raised, flights over it break,
and a twin loses its heartbeats at once (R322, R436, R505). -/
def linkDown (s : State) (n cause : Nat) (disabled : Bool) : State :=
  let s := s.modLink n fun l => { l with
    state := if disabled then .disabled else .waitPhy, downs := satInc l.downs, downCause := BitVec.ofNat 3 cause,
    waiting := [], unacked := [], nakCount := 0 }
  let s := twCode s Config.LINK_DOWN
  if s.obs.halted then s
  else
    let s := afterBreak ((s.linkFlights n).foldl (fun s f => flightBreak s f 3 Config.FLIGHT_BROKEN none) s)
    if n = 0 ∧ s.tw.authed = true then
      (let s := if s.lossKnown then s else twLost s
       { s with tw := { s.tw with authed := false } })
    else s

/-- PHY_LOCK with ENABLE brings WAIT_PHY to INIT. -/
def linkTrain (s : State) (n : Nat) : State :=
  s.modLink n fun l => if l.state = .waitPhy ∧ l.phyLock = true then { l with state := .init } else l

/-- A write of ENABLE. -/
def setLinkEnable (s : State) (n : Nat) (e : Bool) : State :=
  let s := s.modLink n fun l => { l with enable := e }
  if e then linkTrain (s.modLink n fun l => if l.state = .disabled then { l with state := .waitPhy } else l) n
  else if (s.link n).state = .up then linkDown s n 4 true
  else s.modLink n fun l => { l with state := .disabled }

/-- Offset of the LINK_STATUS register of a link. -/
def linkStatusOff (n : Nat) : Nat := if n = 0 then 0x601000 else 0x601100 + 0x100 * (n - 1)

/-- LINK_ENABLE (R505). -/
def execLinkEnable (who : Who) (link : BitVec 3) (enable : Bool) (s : State) : Host.Outcome State Fault Refusal :=
  .next (if link.toNat < 5 then hostWrite s who (linkStatusOff link.toNat) true fun s => setLinkEnable s link.toNat enable else s)

/-- PHY_LOCK (R505): the level of the pin, and what a link layer out of reset makes of it. -/
def execPhyLock (link : BitVec 3) (level : Bool) (s : State) : Host.Outcome State Fault Refusal :=
  let n := link.toNat
  let s := s.modLink n fun l => { l with phyLock := level }
  .next (if !s.portAlive then s
    else if level then linkTrain s n
    else if (s.link n).state = .up then linkDown s n 1 false
    else s)

/-- LINK_INIT (R505): INIT becomes UP; SEQ, ACK and credits start over; on TW the exchange may run (R433). -/
def execLinkInit (h : FrameHdr) (buffers : BitVec 8) (_digest : Digest) (s : State) : Host.Outcome State Fault Refusal :=
  match rxControl s h fun l => l.state == .init with
  | .gone s => .next s
  | .taken s =>
    let n := h.link.toNat
    let s := s.modLink n fun l => { l with
      state := .up, txSeq := 0#16, rxSeq := 0#16, credits := buffers.toNat, freed := 0, nakSeq := 0#16, nakCount := 0,
      waiting := [], unacked := [] }
    .next (if n = 0 ∧ s.obs.halted = false then twLinkUp s else s)

/-- LINK_INIT_TIMER (R505): every µs in WAIT_PHY or INIT. -/
def execLinkInitTimer (link : BitVec 3) (s : State) : Host.Outcome State Fault Refusal :=
  let n := link.toNat
  .next (if s.maySend n && ((s.link n).state == .waitPhy || (s.link n).state == .init) then
    s.modLink n fun l => l.emit .linkInit else s)

/-- IDLE (R503). -/
def execIdle (h : FrameHdr) (s : State) : Host.Outcome State Fault Refusal :=
  match rxControl s h fun l => l.state == .up with
  | .gone s => .next s
  | .taken s => .next s

/-- Frames from a SEQ on are sent again, in order (R504). -/
def Link.replay (l : Link) (seq : BitVec 16) : Link :=
  let again := l.unacked.dropWhile fun x => x.1 != seq
  if again.isEmpty then l
  else again.foldl (fun l x => l.emit x.2) { l with replays := satInc l.replays }

/-- NAK (R504, R505): a replay; the sixteenth NAK for one SEQ takes the link down. -/
def execNak (h : FrameHdr) (expected : BitVec 16) (s : State) : Host.Outcome State Fault Refusal :=
  match rxControl s h fun l => l.state == .up with
  | .gone s => .next s
  | .taken s =>
    let n := h.link.toNat
    let count := if (s.link n).nakSeq = expected then (s.link n).nakCount + 1 else 1
    let s := s.modLink n fun l => { l with nakSeq := expected, nakCount := count }
    .next (if 16 ≤ count then linkDown s n 2 false
      else if s.maySend n then s.modLink n fun l => l.replay expected else s)

/-- LINK_SILENCE (R505): no valid frame for 10 µs. -/
def execLinkSilence (link : BitVec 3) (s : State) : Host.Outcome State Fault Refusal :=
  let n := link.toNat
  .next (if s.portAlive && (s.link n).state == .up then linkDown s n 3 false else s)

/-- IDLE_SEND (R503): an UP link sends IDLE. -/
def execIdleSend (link : BitVec 3) (s : State) : Host.Outcome State Fault Refusal :=
  let n := link.toNat
  .next (if (s.link n).state = .up then linkSend s n .idle else s)

/-! ## Flight messages (R318 to R323) -/

/-- ARRIVE from a link: recorded for a child; another ROUND breaks the flight (R318, R322 cause 6). -/
def flightArrive (s : State) (l n : Nat) (round : W32) : State :=
  let f := s.flight n
  match f.state with
  | .free => linkSend s l (.brk n round)
  | .broken => s
  | .isOpen =>
    if f.round ≠ round then flightBreak s n 6 Config.FLIGHT_BROKEN none
    else if bitAt f.children.toNat l then
      flightArrived (s.setFlight n { f with childArrived := f.childArrived ||| BitVec.ofNat 5 (2 ^ l) }) n
    else s

/-- RELEASE from a link: from the parent it completes the round (R320). -/
def flightRelease (s : State) (l n : Nat) (round : W32) : State :=
  let f := s.flight n
  match f.state with
  | .free => linkSend s l (.brk n round)
  | .broken => s
  | .isOpen =>
    if f.round ≠ round then flightBreak s n 6 Config.FLIGHT_BROKEN none
    else if f.parentLink = some l then flightEval (s.flightFuel n) (completeRound s n) n
    else s

/-- BREAK from a link (R322 causes 4 and 7, R323). -/
def flightBroken (s : State) (l n : Nat) (round : W32) : State :=
  match (s.flight n).state with
  | .free => linkSend s l (.brk n round)
  | .broken => s
  | .isOpen => flightBreak s n 4 Config.FLIGHT_BROKEN (some l)

/-- A flight message that was accepted acts, unless the Keeper is frozen (R480). -/
def flightMessage (s : State) (h : FrameHdr) (act : State → State) : State := match rxFlight s h with
  | .gone s => s
  | .taken s => if s.obs.halted then s else afterBreak (act s)

/-- ARRIVE (R318). -/
def execArrive (h : FrameHdr) (flight : BitVec 10) (round : W32) (s : State) : Host.Outcome State Fault Refusal :=
  .next (flightMessage s h fun s => flightArrive s h.link.toNat flight.toNat round)

/-- RELEASE_MESSAGE (R320). -/
def execReleaseMessage (h : FrameHdr) (flight : BitVec 10) (round : W32) (s : State) : Host.Outcome State Fault Refusal :=
  .next (flightMessage s h fun s => flightRelease s h.link.toNat flight.toNat round)

/-- BREAK (R323). -/
def execBreakMsg (h : FrameHdr) (flight : BitVec 10) (round : W32) (s : State) : Host.Outcome State Fault Refusal :=
  .next (flightMessage s h fun s => flightBroken s h.link.toNat flight.toNat round)

/-! ## The manager's flight commands (R316, R317, R321 to R324) -/

/-- The lowest present core with two free indices at or above 4,096, and the indices (R317). -/
def State.flightPlace (s : State) : Option (Nat × Nat × Nat) :=
  (s.presentCores.filterMap fun c => (s.freeHighTwo c).map fun x => (c, x.1, x.2)).head?

/-- Whether the configuration of a flight can be created (R316, R326). -/
def Flight.creatable (f : Flight) : Bool :=
  f.expect != 0#16 && decide (10 ≤ f.timeoutUs.toNat) && decide (f.timeoutUs.toNat ≤ 10000000) && decide (f.parent.toNat ≤ 5) &&
    (match f.parentLink with | some l => !bitAt f.children.toNat l | none => true)

/-- CREATE. -/
def flightCreate (s : State) (n : Nat) : State :=
  let f := s.flight n
  if f.state ≠ .free ∨ f.creatable = false then s
  else match s.flightPlace with
    | none => s
    | some (c, a, r) =>
      let s := s.setFlight n { f with
        state := .isOpen, round := f.startRound, arriveId := BitVec.ofNat 17 (c * 8192 + a),
        releaseId := BitVec.ofNat 17 (c * 8192 + r), childArrived := 0#5, forwarded := false, watchdog := false }
      let s := s.setCounter (c * 8192 + a) { Counter.reset with
        kind := .flightArrive, state := .live, error := true, owner := BitVec.ofNat 11 n }
      s.setCounter (c * 8192 + r) { Counter.reset with
        kind := .flightRelease, state := .live, owner := BitVec.ofNat 11 n, value := f.startRound }

/-- Arrivals of running jobs at a flight count no more (R322 cause 0): its rounds start over. -/
def dropArrivals (s : State) (n : Nat) : State :=
  let jobs : Tbl Job := s.jobs.map fun j => (j.1, { j.2 with arrivals := j.2.arrivals.filter fun a => a.1 != n })
  { s with jobs := jobs }

/-- RESET of a BROKEN flight. -/
def flightReset (s : State) (n : Nat) : State :=
  let f := s.flight n
  if f.state = .broken then
    let s := (dropArrivals s n).setFlight n { f with
      state := .isOpen, round := f.startRound, childArrived := 0#5, forwarded := false, watchdog := false }
    let s := s.modCounter f.arriveId.toNat fun c => { c with value := 0#32, state := .live, fault := 0#2 }
    watchStale (s.modCounter f.releaseId.toNat fun c => { c with value := f.startRound, state := .live, fault := 0#2 }) f.releaseId
  else s

/-- BREAK by the manager. -/
def flightStop (s : State) (n : Nat) : State := afterBreak (flightBreak s n 5 Config.FLIGHT_BROKEN none)

/-- DESTROY: an OPEN flight breaks first; both counters and the slot become free. -/
def flightDestroy (s : State) (n : Nat) : State :=
  if (s.flight n).state = .free then s
  else
    let s := dropArrivals (flightStop s n) n
    let f := s.flight n
    let s := { s with counters := tdel (tdel s.counters f.arriveId.toNat) f.releaseId.toNat }
    s.setFlight n { f with
      state := .free, round := 0#32, arriveId := 0#17, releaseId := 0#17, childArrived := 0#5, forwarded := false, watchdog := false }

/-- A write of SY_FLIGHT_CMD. -/
def flightCommand (s : State) (v : W64) : State :=
  let n := s.sy.flightSel.toNat
  match bitField v.toNat 2 0 with
  | 1 => flightCreate s n
  | 2 => flightReset s n
  | 3 => flightStop s n
  | 4 => flightDestroy s n
  | _ => s

/-- Offset of SY_FLIGHT_CMD. -/
def SY_FLIGHT_CMD : Nat := 0x30011C

/-- FLIGHT_CREATE (R317). -/
def execFlightCreate (who : Who) (s : State) : Host.Outcome State Fault Refusal :=
  .next (hostWrite s who SY_FLIGHT_CMD false fun s => flightCreate s s.sy.flightSel.toNat)

/-- FLIGHT_RESET (R324). -/
def execFlightReset (who : Who) (s : State) : Host.Outcome State Fault Refusal :=
  .next (hostWrite s who SY_FLIGHT_CMD false fun s => flightReset s s.sy.flightSel.toNat)

/-- FLIGHT_BREAK (R323). -/
def execFlightBreak (who : Who) (s : State) : Host.Outcome State Fault Refusal :=
  .next (hostWrite s who SY_FLIGHT_CMD false fun s => flightStop s s.sy.flightSel.toNat)

/-- FLIGHT_DESTROY (R324). -/
def execFlightDestroy (who : Who) (s : State) : Host.Outcome State Fault Refusal :=
  .next (hostWrite s who SY_FLIGHT_CMD false fun s => flightDestroy s s.sy.flightSel.toNat)

/-- FLIGHT_WATCHDOG (R321): nothing happens unless the watchdog of an OPEN flight runs. -/
def execFlightWatchdog (flight : BitVec 10) (s : State) : Host.Outcome State Fault Refusal :=
  .next (if (s.flight flight.toNat).watchdog && s.portAlive && !s.obs.halted then
    afterBreak (flightBreak s flight.toNat 2 Config.FLIGHT_TIMEOUT none) else s)

/-! ## The manager's counter commands (R306, R314) -/

/-- SET of the selected counter; a FREE or ABANDONED one is left as it is. -/
def counterSet (s : State) (v : W32) : State :=
  let id := s.sy.ctrSel
  let c := s.counter id.toNat
  if c.state = .live ∨ c.state = .faulted then
    let s := watchStale (ctrSet s id v) id
    if c.kind = .flightArrive then afterBreak (flightArrived s c.owner.toNat) else s
  else s

/-- A pending WAIT names a counter (R314). -/
def State.waitNames (s : State) (id : BitVec 17) : Bool := s.queues.any fun q => q.2.cmds.any fun c =>
  c.phase == .pendingWait && (match c.body with | .waitCounter _ x _ => x == id | _ => false)

/-- RECLAIM of the selected counter: an ABANDONED context counter that no pending wait names becomes FREE. -/
def counterReclaim (s : State) : State :=
  let id := s.sy.ctrSel
  let c := s.counter id.toNat
  if c.state = .abandoned ∧ c.kind = .context ∧ s.waitNames id = false then { s with counters := tdel s.counters id.toNat }
  else { s with sy := { s.sy with reclaimRefused := true } }

/-- A write of SY_CTR_CMD. -/
def counterCommand (s : State) (v : W64) : State := match bitField v.toNat 63 62 with
  | 1 => counterSet s (v.setWidth 32)
  | 2 => counterReclaim s
  | _ => s

/-- Offset of SY_CTR_CMD. -/
def SY_CTR_CMD : Nat := 0x300010

/-- SET (R306). -/
def execSetOp (who : Who) (value : W32) (s : State) : Host.Outcome State Fault Refusal :=
  .next (hostWrite s who SY_CTR_CMD true fun s => counterSet s value)

/-- RECLAIM (R314). -/
def execReclaim (who : Who) (s : State) : Host.Outcome State Fault Refusal :=
  .next (hostWrite s who SY_CTR_CMD true fun s => counterReclaim s)

end Sys2Proof.Machine
end

