-- ==== Sys2Proof/Machine/Recovery.lean ====
section
/-! DEFINITION. Faults and recovery: the recovery stop's rows (R429, R430), the watchdog (R431), the scrubbers (R422), and
REFILL (R421, R449). -/

namespace Sys2Proof.Machine

/-- The Keeper and the recovery controller run. -/
def State.watched (s : State) : Bool := s.portAlive && !s.obs.halted

/-- FR_FIRST.UNIT of a recovery stop by its cause (R449); causes 1 and 2 name none. -/
def StopCause.frUnit (cause : Nat) : Option Nat := if cause = 0 then some 7 else if cause = 3 ∨ cause = 4 then some 8 else none

/-- A recovery stop whose cause gives no address: FR_FIRST_ADDR is free (log entry 10). -/
def stopPlain (s : State) (c : StopCause) : State :=
  let d := s.drawWord
  recoveryStop d.2 c (StopCause.frUnit c.cause.toNat) (bitField d.1.toNat 47 0)

/-- A recovery stop for which the spec states no code: FR_STOP.CODE is free (log entry 47). -/
def stopUncoded (s : State) (cause : BitVec 3) (seq : BitVec 4) (port : BitVec 8) : State :=
  let d := s.drawWord
  stopPlain d.2 { cause := cause, sequencer := seq, port := port, code := Config.freeCode d.1 }

/-- SERVICE_LOOP_OVERRUN (R429). -/
def execServiceLoopOverrun (sequencer : Bool) (s : State) : Host.Outcome State Fault Refusal :=
  .next (if s.watched && !s.fr.stopped then stopUncoded s 2#3 (BitVec.ofNat 4 (b2n sequencer)) 0#8 else s)

/-- RECOVERY_STOP (R430). A cause that R449 does not use and a code that is not listed stop nothing: no such stop occurs (R14,
R429). -/
def execRecoveryStop (c : StopCause) (s : State) : Host.Outcome State Fault Refusal :=
  .next (if s.watched && decide (c.cause.toNat ≤ 4) && Config.listedCode c.code then stopPlain s c else s)

/-! ## The watchdog (R431) -/

/-- Halt-all: the release gate closes and everything but the Escapement, the TAP and the always-on group stands still
(R480). -/
def haltAll (s : State) : State :=
  { s with obs := { s.obs with halted := true }, tw := { s.tw with gateClosed := true } }

/-- RECOVERY_LOST on the Chime outputs: each target with WDOG is driven high (R431, R457). -/
def driveWdog (s : State) (t : Nat) : State :=
  if (s.target t).wdog then s.setTarget t { s.target t with wdogDrive := true } else s

/-- RECOVERY_LOST reaches the twin, before the halted device falls silent (R431, R480). -/
def sendLost (s : State) : State :=
  let s := if (s.link 0).state = .up then linkSend s 0 (.recoveryLost s.tw.relLast) else s
  { s with tw := { s.tw with state := .stopped } }

/-- The watchdog fires. -/
def watchdogFires (s : State) : State :=
  let s := haltAll (sendLost s)
  let s := chEval ((List.range 8).foldl driveWdog s)
  let d := s.drawWord
  let s := errRecord d.2 4 none none none Config.RECOVERY_LOST (bitField d.1.toNat 47 0)
  chSample { s with fr := { s.fr with wdogFired := true, wdogCount := satInc s.fr.wdogCount, wdogArmed := false } } 102

/-- WATCHDOG_FIRE: only an armed watchdog fires. -/
def execWatchdogFire (s : State) : Host.Outcome State Fault Refusal :=
  .next (if s.fr.wdogArmed && s.portAlive then watchdogFires s else s)

/-! ## Scrubbers (R422) -/

/-- Lines of a core's scratch. -/
def scratchLines : Nat := 163840

/-- The scrubber of a core visits a line; it rests while the clear engine has work. -/
def scrubScratch (s : State) (c line : Nat) (err : SramErr) : State :=
  if s.present c && (s.core c).clears.isEmpty && decide (line < scratchLines) then
    match err with
    | .none => s
    | .corrected => frCorrected s 0
    | .uncorrectable =>
      errRecord (s.modCore c fun k => { k with badLines := insertNat line k.badLines }) 1 (some 0) (some c) (s.corePart c)
        Config.SRAM_UNCORRECTABLE (128 * line)
  else s

/-- Mark a line of a basin copy. -/
def BasinCopy.mark (b : BasinCopy) (line : Nat) (code : BitVec 16) : BasinCopy :=
  if b.badLines.any fun l => l.1 == line then b else { b with badLines := b.badLines ++ [(line, code)] }

/-- Partition of an image OBJECT slot. -/
def State.slotPart (s : State) (slot : Nat) : Option Nat := match s.run with
  | some r => (r.img.slotDecl slot).map fun d => d.part
  | none => none

/-- The basin scrubber visits a line of a slot's copy. -/
def scrubBasin (s : State) (slot line : Nat) (err : SramErr) : State :=
  match s.basinCopy slot with
  | none => s
  | some b =>
    if line < ceilDiv b.len 128 then
      match err with
      | .none => s
      | .corrected => frCorrected s 1
      | .uncorrectable =>
        errRecord { s with basin := tput s.basin slot (b.mark line Config.SRAM_UNCORRECTABLE) } 2 (some 1) none (s.slotPart slot)
          Config.SRAM_UNCORRECTABLE (128 * line)
    else s

/-- A word of Keeper state is read: a corrected error is counted, and one that cannot be corrected is a DEVICE-class error (R419
unit 7, R429). -/
def scrubKeeper (s : State) (err : SramErr) : State := match err with
  | .none => s
  | .corrected => frCorrected s 7
  | .uncorrectable => 
    if s.fr.stopped then s else stopPlain s { cause := 0#3, sequencer := 15#4, port := 0#8, code := Config.SRAM_UNCORRECTABLE }

/-- SCRUB. -/
def execScrub (target : ScrubTarget) (err : SramErr) (s : State) : Host.Outcome State Fault Refusal :=
  .next (if s.watched then
    match target with
    | .scratch core line => scrubScratch s core.toNat line err
    | .basin slot line => scrubBasin s slot.toNat line err
    | .keeper => scrubKeeper s err
  else s)

/-! ## REFILL (R421) -/

/-- A REFILL of a bound slot with a basin copy starts. -/
def refill (s : State) (slot : Nat) : State :=
  s.modRun fun r => match tfind r.bindings slot, r.img.slotDecl slot with
    | some b, some d =>
      if b.filled && d.basinBytes != 0 then { r with bindings := tput r.bindings slot { b with refilling := true } } else r
    | _, _ => r

/-- A write of FR_CMD. -/
def frCommand (s : State) (v : W64) : State := if bitField v.toNat 63 62 = 1 then refill s (bitField v.toNat 31 0) else s

/-- Offset of FR_CMD. -/
def FR_CMD : Nat := 0x800130

/-- REFILL: FR_CMD written with OP 1. -/
def execRefill (who : Who) (slot : W32) (s : State) : Host.Outcome State Fault Refusal :=
  .next (hostWrite s who FR_CMD true fun s => refill s slot.toNat)

end Sys2Proof.Machine
end

