-- ==== Sys2Proof/Machine/Ports.lean ====
section
/-! DEFINITION. Memory ports (R496 to R500): training, pauses (R41, R426), throttles (R425), the responses DATA, WACK and
ADATA with poison and lateness (R423, R424), and failed ports. -/

namespace Sys2Proof.Machine

/-! ## Training (R499, R500) -/

/-- ROM_INIT has ended: present ports may open (R500, R509). -/
def State.portsMayOpen (s : State) : Bool :=
  s.portAlive && !s.frozen && (s.boot.state == .waitPatch || s.boot.state == .verifyPatch || s.boot.state == .ready)

/-- A present, trained port opens. -/
def openPort (s : State) (p : Nat) : State :=
  if s.portsMayOpen && bitAt s.fuse.portPresent.toNat p && (s.port p).trained then s.modPort p fun x => { x with open' := true }
  else s

/-- Every present port that has trained opens. -/
def openTrained (s : State) : State := (List.range 48).foldl openPort s

/-- A port is FAILED: a DEVICE-class error (R424, R499). -/
def failPort (s : State) (p : Nat) : State :=
  let s := s.modPort p fun x => { x with failed := true }
  if s.watched then stopUncoded s 3#3 15#4 (BitVec.ofNat 8 p) else s

/-- MP_TRAIN_DONE at a level, with the credits that a rise advertises (R497). -/
def trainDone (s : State) (p : Nat) (level : Bool) (rd wr : BitVec 12) : State :=
  if level then openPort (s.modPort p fun x => { x with trained := true, rdCredits := rd, wrCredits := wr }) p
  else
    let s' := s.modPort p fun x => { x with trained := false }
    if (s.port p).open' && (s.port p).trained && s.portAlive then failPort s' p else s'

/-- MP_TRAIN_DONE. -/
def execMpTrainDone (port : BitVec 6) (level : Bool) (rdCredits wrCredits : BitVec 12) (s : State) :
    Host.Outcome State Fault Refusal :=
  .next (if port.toNat < 48 then trainDone s port.toNat level rdCredits wrCredits else s)

/-! ## Pauses (R41, R426, R499) -/

/-- MEM_PAUSE_OVERRUN, once per beat of a running image. -/
def pauseOverrun (s : State) : State :=
  if s.run.isNone || s.fr.overrunThisBeat then s
  else chPulse { s with fr := { s.fr with overrunThisBeat := true, overruns := satInc s.fr.overruns } } 105
    Config.MEM_PAUSE_OVERRUN (BitVec.ofNat 32 s.fr.pausePort)

/-- PAUSES_PER_BEAT and PAUSE_MAX_US of the running image. -/
def State.pausesPerBeat (s : State) : Nat := match s.run with | some r => r.img.pausesPerBeat | none => 0
def State.pauseMaxNs (s : State) : Nat := match s.run with | some r => r.img.pauseMaxUs * 1000 | none => 0

/-- The first rise on an open port begins a pause. -/
def pauseBegin (s : State) (p : Nat) : State :=
  let first := !s.pausing
  let s := s.modPort p fun x => { x with paused := true }
  if first then
    let s := { s with esc := { s.esc with pauseSeen := satInc s.esc.pauseSeen }, fr := { s.fr with pausePort := p, pauseNs := 0 } }
    if s.pausesPerBeat < s.esc.pauseSeen.toNat then pauseOverrun s else s
  else s

/-- The last fall ends the pause; `ns` is how long it lasted at the pin. -/
def pauseEnd (s : State) (p ns : Nat) : State :=
  let s := s.modPort p fun x => { x with paused := false }
  if s.pausing then s
  else
    let len := max s.fr.pauseNs ns
    let units : BitVec 16 := satNat 16 (len / 16)
    let s := { s with fr := { s.fr with
      pauseNs := len, longest := if s.fr.longest.ult units then units else s.fr.longest } }
    if s.pauseMaxNs < len then pauseOverrun s else s

/-- MP_PAUSE: only enabled ports signal a pause. -/
def execMpPause (port : BitVec 6) (level : Bool) (ns : W32) (s : State) : Host.Outcome State Fault Refusal :=
  let p := port.toNat
  .next (if s.portAlive && (s.port p).open' && (s.port p).paused != level then
    (if level then pauseBegin s p else pauseEnd s p ns.toNat) else s)

/-! ## Throttles (R425) -/

/-- Throttled time of the job on a core: a free job's context and the job's own count, or a station's partition. -/
def chargeCore (s : State) (c : Nat) (ns : Nat) : State :=
  match (s.core c).job with
  | none => s
  | some n => match s.job n with
    | none => s
    | some j => match j.kind with
      | .station _ => s.modRgPart j.part fun x => { x with throttleNs := x.throttleNs + BitVec.ofNat 64 ns }
      | .free q _ _ =>
        (s.setJob n { j with counts := tput j.counts 56 (tget 0 j.counts 56 + ns) }).modCtx (s.queueCtx q) fun x =>
          { x with throttleNs := x.throttleNs + BitVec.ofNat 64 ns }

/-- Change the counts of the command a partition's copy engine runs. -/
def copyCount (s : State) (p slot amount : Nat) : State := match (s.rgPart p).copyRun with
  | none => s
  | some (q, n) => s.modQueue q fun x => x.modCmd n fun c => { c with counts := tput c.counts slot (tget 0 c.counts slot + amount) }

/-- Throttled time of a copy engine: the context of its COPY or FILL. -/
def chargeCopy (s : State) (p : Nat) (ns : Nat) : State := match (s.rgPart p).copyRun with
  | none => s
  | some (q, _) => (copyCount s p 56 ns).modCtx (s.queueCtx q) fun x => { x with throttleNs := x.throttleNs + BitVec.ofNat 64 ns }

/-- The charge of a requester tag (R496). -/
def chargeTag (s : State) (tag ns : Nat) : State := match bitField tag 15 14 with
  | 0 => chargeCore s (bitField tag 13 10) ns
  | 1 => chargeCopy s (bitField tag 13 11) ns
  | _ => { s with fr := { s.fr with keeperThrNs := s.fr.keeperThrNs + BitVec.ofNat 64 ns } }

/-- A throttle of a core's thread is released: its lines are granted again (R129, R425). -/
def throttleEnd (s : State) (tag : Nat) : State := if bitField tag 15 14 = 0 then grantLines s (bitField tag 13 10) else s

/-- MP_THROTTLE: a port holds a tag's requests until its release, which charges the time. -/
def execMpThrottle (port : BitVec 6) (tag : BitVec 16) (asserted : Bool) (ns : W32) (s : State) : Host.Outcome State Fault Refusal :=
  let p := port.toNat
  let x := s.port p
  .next (if !(s.portAlive && x.open') then s
    else if asserted then (if x.throttled.contains tag then s else s.setPort p { x with throttled := x.throttled ++ [tag] })
    else if x.throttled.contains tag then
      throttleEnd (chargeTag (s.setPort p { x with throttled := x.throttled.filter fun t => t != tag }) tag.toNat ns.toNat) tag.toNat
    else s)

/-! ## DATA (R423, R424) -/

/-- The WAIT at the front of a queue, or SIGNAL ADD, whose fence record is read: its entry and offset. -/
def State.fenceRead (s : State) (qn : Nat) : Option (Nat × Nat) :=
  (s.queue qn).cmds.findSome? fun c => match c.phase, c.body with
    | .recorded, _ => none
    | _, .waitFence _ t off _ => some (handleIndex t, off)
    | _, .signalFence true t off _ _ => some (handleIndex t, off)
    | _, _ => none

/-- First byte and length of the operand record that the words of a page's request registers name. -/
def Page.operand (p : Page) : Option (Nat × Nat) :=
  let w (k : Nat) : Nat := (tget 0#64 p.req k).toNat % 2 ^ 48
  match (tget 0#64 p.req 0).toNat % 256 with
  | 0x10 => some (w 2, 160)
  | 0x20 => some (w 1, 1184)
  | 0x21 => some (w 2, 72)
  | _ => none

/-- Address of a line that a read in flight for a reader brings; none where no such read is in flight. A record that is
read as a whole stands for its first line (log entry 48). -/
def State.readAddr (s : State) : Reader → Option Nat
  | .stream c t line => match s.engaged c.toNat, ((s.core c.toNat).se.thread t.toNat).awaits line with
    | some _, some o => some (((o.base + o.off) / 128 + line) * 128)
    | _, _ => none
  | .icache c => match s.issuing c.toNat with
    | some (_, j) => (match s.front c.toNat j, (s.core c.toNat).prefetch with
      | .miss, _ => some ((s.gen j.gen).base + 128 * ((s.core c.toNat).pc / 128))
      | _, line :: _ => some ((s.gen j.gen).base + 128 * line)
      | _, [] => none)
    | none => none
  | .basin slot line => match s.run with
    | some r => (match tfind r.bindings slot.toNat, r.img.slotDecl slot.toNat with
      | some b, some d =>
        if b.waits && decide (128 * line < d.basinBytes) then some (s.versionBase b.obj (s.version b.obj) + 128 * line) else none
      | _, _ => none)
    | none => none
  | .copy p => match (s.rgPart p.toNat).copyRun with
    | some (q, n) => (match (s.queue q).cmd n with
      | some c => (match c.body with
        | .copy src _ so _ _ => some (s.pinnedBase c src + so)
        | _ => none)
      | none => none)
    | none => none
  | .packet q => if (s.queue q.toNat).state = .free then none else some (s.packetAddr (s.queue q.toNat))
  | .fence q => (s.fenceRead q.toNat).map fun x => s.fenceAddr x.1 x.2
  | .image => if s.au.state = .verify then some s.au.imageAddr.toNat else none
  | .mailbox p => (s.page p.toNat).operand.map fun x => x.1
  | .patch => if s.boot.state = .verifyPatch then some s.boot.patchAddr.toNat else none
  | .otp => some s.sec.otpAddr.toNat
  | .unlock => some s.sec.dbgAddr.toNat
  | .dirty n =>
    let d := (s.inst n.toNat).dirty
    if d.enable then some (d.base d.active) else none
  | .objTable i => if s.kp.objEnable then some (s.kp.objBase.toNat + 32 * i.toNat) else none

/-- The ports on which the read that a reader waits for may return (R114, R347): that of its 4 KiB granule where the line belongs
to an object or a basin copy, any unreserved port otherwise. -/
def State.readPorts (s : State) : Reader → List Nat
  | .stream c t line => match s.engaged c.toNat, ((s.core c.toNat).se.thread t.toNat).awaits line with
    | some (_, j), some o => [s.linePort j o line]
    | _, _ => []
  | .basin slot line => [granulePort (s.slotPorts slot.toNat) (128 * line)]
  | .fence q => match s.fenceRead q.toNat with
    | some x => [granulePort s.poolPorts x.2]
    | none => []
  | .packet q => [granulePort s.poolPorts (s.queue q.toNat).packetOff]
  | .icache c => match s.readAddr (.icache c), s.issuing c.toNat with
    | some a, some (_, j) =>
      let g := s.gen j.gen
      if g.station then s.poolPorts else [granulePort s.poolPorts (g.progOffset + (a - g.base))]
    | _, _ => []
  | _ => s.poolPorts

/-- The port counts a response (R424, R449, R465). -/
def portCount (s : State) (p : Nat) (bad late : Bool) : State :=
  let s := if bad then s.modPort p fun x => { x with poisonCount := satInc x.poisonCount } else s
  if late then
    let s := pmGlobal (s.modPort p fun x => { x with lateCount := satInc x.lateCount }) 18 1
    if (s.port p).lateThisBeat then s
    else chPulse (s.modPort p fun x => { x with lateThisBeat := true }) 105 Config.REPLAY_OVERRUN (BitVec.ofNat 32 p)
  else s

/-- Global counts of a line read by the Keeper. -/
def keeperRead (s : State) (bad : Bool) : State :=
  let s := pmGlobal s 4 128
  if bad then pmGlobal s 17 1 else s

/-- Context and global counts of a line read by a copy engine. -/
def copyRead (s : State) (p : Nat) (bad : Bool) : State :=
  let s := copyCount (pmGlobal s 4 128) p 4 128
  if bad then copyCount (pmGlobal s 17 1) p 17 1 else s

/-- Counts of an instruction-cache fill, which belong to the job. -/
def fillRead (s : State) (c : Nat) (bad : Bool) : State :=
  let s := pmJob s (s.core c).job 4 128
  if bad then pmJob s (s.core c).job 17 1 else s

/-- A poisoned source line ends a COPY (R423). -/
def copyPoison (s : State) (p a : Nat) : State := match (s.rgPart p).copyRun with
  | some (q, n) => poisonMove (markPoison s a 1) p q n a
  | none => s

/-- VERIFY_PATCH stops: back to WAIT_PATCH with a code (R511). -/
def patchFail (s : State) (code : BitVec 16) : State := { s with boot := { s.boot with state := .waitPatch, code := code } }

/-- A poisoned dirty bitmap line: the log stops, and FR_FIRST records the line (R423). -/
def dirtyPoison (s : State) (n a : Nat) : State :=
  errRecord (dirtyStop (markPoison s a 1) n) 2 (some 8) none none Config.MEM_POISON a

/-- A poisoned line returns to an instruction cache: the one its fetch misses, else the oldest that is read ahead. -/
def fillPoison (s : State) (c : Nat) : State := match s.issuing c with
  | some (_, j) => (match s.front c j with
    | .miss => fillLine s c true
    | _ => fillAhead s c true)
  | none => s

/-- What a response does, by who issued the read (R423). -/
def dataAct (s : State) (r : Reader) (a : Nat) (bad : Bool) : State := match r with
  | .stream c t line => landLine s c.toNat t.toNat line bad
  | .icache c => if bad then fillPoison (fillRead s c.toNat true) c.toNat else fillRead s c.toNat false
  | .copy p => if bad then copyPoison (copyRead s p.toNat true) p.toNat a else copyRead s p.toNat false
  | .image => if bad then traceSettle (auRefuseUnread (markPoison (keeperRead s true) a 1) Config.MEM_POISON) else keeperRead s false
  | .patch => if bad then patchFail (markPoison (keeperRead s true) a 1) Config.MEM_POISON else keeperRead s false
  | .dirty n => if bad then dirtyPoison (keeperRead s true) n.toNat a else keeperRead s false
  | .objTable _ =>
    if bad then recoveryStop (markPoison (keeperRead s true) a 1)
      { cause := 4#3, sequencer := 15#4, port := 0#8, code := Config.MEM_POISON } (some 8) a
    else keeperRead s false
  | _ => if bad then markPoison (keeperRead s true) a 1 else keeperRead s false

/-- DATA. A stopped log whose bitmap runs past the end of device memory faults (R13). -/
def execData (port : BitVec 6) (poison late : Bool) (reader : Reader) (s : State) : Host.Outcome State Fault Refusal :=
  if s.watched && (s.port port.toNat).open' && !s.fr.stopped && (s.readPorts reader).contains port.toNat then
    match s.readAddr reader with
    | none => .next s
    | some a =>
      let bad := poison || s.poisoned a 1
      if (match reader with | .dirty n => bad && s.dirtyBeyond n.toNat | _ => false) then .fault .addressSpace
      else .next (dataAct (portCount s port.toNat bad late) reader a bad)
  else .next s

/-! ## WACK, ADATA and failed ports -/

/-- Take the oldest unacknowledged write of a port out of a list. -/
def dropWrite (p : Nat) : List WriteReq → List WriteReq
  | [] => []
  | w :: r => if w.port = p then r else w :: dropWrite p r

/-- A late answer to a write or an atomic is counted as one to a read is (R424). -/
def lateCount (s : State) (p : Nat) (late : Bool) : State := if s.watched then portCount s p false late else s

/-- WACK: the oldest write of the port is acknowledged, and its credit with it (R497, R498). A write handed over before a halt
completes; what waits for it goes on only outside one (R480). -/
def execWack (a : PortLate) (s : State) : Host.Outcome State Fault Refusal :=
  let t := lateCount { s with writes := dropWrite a.port.toNat s.writes } a.port.toNat a.late
  .next (if s.portAlive && s.writes.any (fun w => w.port == a.port.toNat) then (if s.obs.halted then t else disablesAdvance t) else s)

/-- ADATA: the oldest atomic of the Keeper on the port is answered (R496). -/
def execAdata (a : PortLate) (old : W64) (s : State) : Host.Outcome State Fault Refusal :=
  .next (if s.portAlive && decide (0 < (s.port a.port.toNat).atomicsOut) then
    (lateCount s a.port.toNat a.late).modPort a.port.toNat fun x => { x with atomicsOut := x.atomicsOut - 1, lastAtomic := old } else s)

/-- PORT_FAILED: a request of an open port has had no response for 1 ms (R424). -/
def execPortFailed (port : BitVec 6) (s : State) : Host.Outcome State Fault Refusal :=
  .next (if s.watched && (s.port port.toNat).open' && !(s.port port.toNat).failed then failPort s port.toNat else s)

end Sys2Proof.Machine
end

