-- ==== Sys2Proof/Machine/Security.lean ====
section
/-! DEFINITION. Secrecy's commands (R384 to R389, R407 to R413): owner slots and fuses, debug unlock, glitches,
and the import keys. -/

namespace Sys2Proof.Machine

/-! ## Owner slots (R386 to R388) -/

/-- IMAGE_SLOT (R386). -/
def State.imageSlot (s : State) : Nat := match s.run with | some r => r.imageSlot.toNat | none => 0

/-- The lowest unprogrammed owner slot. -/
def State.openSlot (s : State) : Option Nat := (List.range 4).find? fun k => !bitAt s.fuse.ownerProgrammed.toNat k

/-- Bytes of a body with its signature block (R82, R388, R408). -/
def signedLen : Nat := 5696

/-- A fuse command begins; it shows its code when FUSE_COMMAND_DONE comes. -/
def otpBegin (s : State) (c : FuseCmd) : State := { s with sec := { s.sec with otpBusy := true, otpCmd := c } }

/-- PROGRAM_FIRST: the 48 bytes at SEC_OTP_ADDR. -/
def otpFirst (s : State) : State :=
  if s.fuse.ownerProgrammed ≠ 0#4 then otpBegin s (.fail Config.ACCESS_DENIED)
  else if s.poisoned s.sec.otpAddr.toNat 48 then otpBegin s (.fail Config.MEM_POISON)
  else otpBegin s (.program 0 (digestOfBytes (s.readBytes s.sec.otpAddr.toNat 48)))

/-- The fields of a rotation record (R388). -/
def rotationOk (bs : List Byte) (slot : Nat) (id : Digest) : Bool :=
  leAt bs 0 4 == 0x544F524F && leAt bs 4 4 == slot && digestOfBytes (bs.drop 0x38) == id && leAt bs 0x68 24 == 0

/-- Steps 2, 4 and 5 of R81. -/
def sigVerified (v : SigVerdict) : Bool := v.digestOk && v.ecdsaOk && v.mldsaOk

/-- ROTATE: the record at SEC_OTP_ADDR is verified (R388). A record with a wrong field fails as its signature does (log
entry 49). -/
def otpRotate (s : State) : State :=
  match s.openSlot with
  | none => otpBegin s (.fail Config.ACCESS_DENIED)
  | some k =>
    let bs := s.readBytes s.sec.otpAddr.toNat 128
    let v := sigVerdict bs (s.readBytes (s.sec.otpAddr.toNat + 128) 5568)
    if s.poisoned s.sec.otpAddr.toNat signedLen then otpBegin s (.fail Config.MEM_POISON)
    else if rotationOk bs k s.sec.idDigest && sigVerified v && (s.ownerSlot v.keyDigest).isSome then
      otpBegin s (.program k (digestOfBytes (bs.drop 8)))
    else tamperRaise (otpBegin s (.fail Config.SIGNATURE_FAIL)) 1

/-- REVOKE. -/
def otpRevoke (s : State) (slot : Nat) : State :=
  if slot < s.imageSlot then otpBegin s (.revoke slot) else otpBegin s (.fail Config.ACCESS_DENIED)

/-- A write of SEC_OTP_CMD. One written while a fuse command is in progress is ignored; while LOCKED it is refused (R413; log
entry 49). -/
def otpCommand (s : State) (op slot : Nat) : State :=
  if s.sec.otpBusy || op == 0 then s
  else if s.sec.locked then otpBegin s (.fail Config.ACCESS_DENIED)
  else match op with
    | 1 => otpFirst s
    | 2 => otpRotate s
    | _ => otpRevoke s slot

/-- The record of a command would run past the end of device memory (R13). -/
def State.otpBeyond (s : State) (op : Nat) : Bool :=
  !s.sec.otpBusy && !s.sec.locked &&
    ((op == 1 && s.fuse.ownerProgrammed == 0#4 && decide (2 ^ 48 < s.sec.otpAddr.toNat + 48)) ||
     (op == 2 && s.openSlot.isSome && decide (2 ^ 48 < s.sec.otpAddr.toNat + signedLen)))

/-- Offset of SEC_OTP_CMD. -/
def SEC_OTP_CMD : Nat := 0x500010

/-- SEC_OTP_CMD written by a requester. -/
def otpWrite (s : State) (who : Who) (op slot : Nat) : Host.Outcome State Fault Refusal :=
  match hostCheck s who SEC_OTP_CMD true false with
  | .ignored s => .next s
  | .granted => if s.otpBeyond op then .fault .addressSpace else .next (otpCommand s op slot)

/-- PROGRAM_FIRST (R387). -/
def execProgramFirst (who : Who) (s : State) : Host.Outcome State Fault Refusal := otpWrite s who 1 0

/-- ROTATE (R388). -/
def execRotate (who : Who) (_ : Unit) (s : State) : Host.Outcome State Fault Refusal := otpWrite s who 2 0

/-- REVOKE (R387). -/
def execRevoke (who : Who) (slot : BitVec 2) (s : State) : Host.Outcome State Fault Refusal := otpWrite s who 3 slot.toNat

/-- A fuse command ends: its fuses are blown and its code shown. -/
def fuseDone (s : State) : State :=
  let s' (code : BitVec 16) : State := { s with sec := { s.sec with otpBusy := false, otpCmd := .none, otpCode := code } }
  match s.sec.otpCmd with
  | .none => s' Config.NONE
  | .fail code => s' code
  | .program k d => { s' Config.NONE with fuse := { s.fuse with
      ownerProgrammed := s.fuse.ownerProgrammed ||| BitVec.ofNat 4 (2 ^ k), ownerDigest := tput s.fuse.ownerDigest k d } }
  | .revoke k => { s' Config.NONE with fuse := { s.fuse with ownerRevoked := s.fuse.ownerRevoked ||| BitVec.ofNat 4 (2 ^ k) } }

/-- FUSE_COMMAND_DONE. -/
def execFuseCommandDone (s : State) : Host.Outcome State Fault Refusal :=
  .next (if s.sec.otpBusy && s.portAlive then fuseDone s else s)

/-! ## Debug unlock (R407 to R410, R483) -/

/-- The body and the signature block of a response pass (R408). -/
def responseOk (s : State) (challenge : Digest) (bs : List Byte) : Bool :=
  let v := sigVerdict (bs.take 128) (bs.drop 128)
  leAt bs 0 4 == 0x4E4B4C55 && leAt bs 4 4 == 0 && digestOfBytes (bs.drop 8) == challenge &&
    digestOfBytes (bs.drop 0x38) == s.sec.idDigest && leAt bs 0x68 24 == 0 && v.keyDigest == s.fuse.ovirasaDigest && sigVerified v

/-- A core clears its whole scratch and zeroes its accumulator, weight banks and chain registers (R483). -/
def coreWipe (s : State) (c : Nat) : State :=
  s.modCore c fun k => { k.addClear 0 20971520 with
    me := { k.me with bank0 := Bank.reset, bank1 := Bank.reset, acc := [] }, ve := { k.ve with chains := [] } }

/-- A good response: the tenant erase and the clears begin, and every breakpoint goes (R413, R482, R483). The code of the jobs
that this erase kills is a free one of the listed codes: the spec names none (log entry 47). -/
def unlockBegin (s : State) : State :=
  let d := s.drawWord
  let s := d.2
  let s := { s with sec := { s.sec with dbgBusy := true, dbgCode := Config.NONE }, obs := { s.obs with bps := [] } }
  s.presentCores.foldl coreWipe (tenantErase s false (Config.freeCode d.1))

/-- UNLOCK with a response (R409); the challenge is replaced first. -/
def unlockWith (s : State) (bs : List Byte) (bad : Bool) : State :=
  if s.sec.dbgBusy then s
  else
    let challenge := s.sec.challenge
    let d := s.drawDigest
    let s := { d.2 with sec := { d.2.sec with challenge := d.1 } }
    let code (c : BitVec 16) : State := { s with sec := { s.sec with dbgCode := c } }
    if s.sec.locked then code Config.ACCESS_DENIED
    else if bad then code Config.MEM_POISON
    else if responseOk s challenge bs then unlockBegin s
    else tamperRaise (code Config.DEBUG_ATTACK) 2

/-- UNLOCK with the response at SEC_DBG_ADDR. -/
def unlockAt (s : State) : State :=
  unlockWith s (s.readBytes s.sec.dbgAddr.toNat signedLen) (s.poisoned s.sec.dbgAddr.toNat signedLen)

/-- An UNLOCK that reads its response past the end of device memory (R13): one that is answered unread reads nothing (R409). -/
def State.unlockBeyond (s : State) : Bool :=
  !s.sec.dbgBusy && !s.sec.locked && decide (2 ^ 48 < s.sec.dbgAddr.toNat + signedLen)

/-- Offset of SEC_DBG_CMD. -/
def SEC_DBG_CMD : Nat := 0x500448

/-- SEC_DBG_CMD written with UNLOCK; a response past the end of device memory faults (R13). -/
def unlockWrite (s : State) (who : Who) : Host.Outcome State Fault Refusal :=
  match hostCheck s who SEC_DBG_CMD true false with
  | .ignored s => .next s
  | .granted => if s.unlockBeyond then .fault .addressSpace else .next (unlockAt s)

/-- UNLOCK (R409). -/
def execUnlock (who : Who) (_ : Unit) (s : State) : Host.Outcome State Fault Refusal := unlockWrite s who

/-- The unlock ends once the erase and the clears have. -/
def unlockEnd (s : State) : State :=
  if s.sec.dbgBusy && !s.sec.eraseBusy && !s.clearsLeft then
    { s with sec := { s.sec with dbgBusy := false, unlocked := true, debugSeen := true } }
  else s

/-- UNLOCK_COMPLETE (R483). -/
def execUnlockComplete (s : State) : Host.Outcome State Fault Refusal :=
  .next (if s.portAlive then unlockEnd s else s)

/-! ## Glitches and import keys -/

/-- Whether the glitch detector of a clock domain, or a tamper input (sources from 22 on), is powered and out of reset: in
RETENTION only domain 21 and the tamper inputs are (R488, R491). -/
def State.detects (s : State) (source : Nat) : Bool :=
  !s.boot.porAsserted && (s.boot.power == .on || s.boot.power == .retention && decide (21 ≤ source))

/-- GLITCH (R411): a detector or tamper input of any source. -/
def execGlitch (source : BitVec 5) (s : State) : Host.Outcome State Fault Refusal :=
  .next (if s.detects source.toNat then tamperRaise s 0 else s)

/-- Fresh import keys: the fourteen words their private parts come from (48 bytes for ECDH, 64 for ML-KEM) are free values,
and the public parts are a function of them (R389; log entries 4 and 5). -/
def importKeys (s : State) : State :=
  let d := s.drawWords 14
  { d.2 with sec := { d.2.sec with
      importReady := true, importPriv := d.1,
      importPub := (List.range 160).map fun j => wordAt (Config.importPublic d.1) j } }

/-- IMPORT_KEY_REGENERATION_DONE: keys erased by REPORT_ERASE_ALL are generated afresh (R389, R413). -/
def execImportKeyRegenerationDone (s : State) : Host.Outcome State Fault Refusal :=
  .next (if s.portAlive && !s.sec.importReady && s.boot.state != .romInit && s.boot.state != .reset && s.boot.state != .failed then
    importKeys s else s)

end Sys2Proof.Machine
end

