-- ==== Sys2Proof/Machine/Boot.lean ====
section
/-! DEFINITION. Resets, boot, firmware patch, retention and wake (R389, R463, R489 to R493, R500, R509 to R511). -/

namespace Sys2Proof.Machine

/-! ## Resets (R10, R489, R490) -/

/-- Inputs of a port that a reset of the block does not change. -/
def Port.kept (p : Port) : Port := { Port.reset with trained := p.trained, rdCredits := p.rdCredits, wrCredits := p.wrCredits }

/-- A weight bank whose tag has been reset; its bytes stay (R208). -/
def Bank.untagged (b : Bank) : Bank := { b with fmt := 0#4, arr := 0#2, sparse := false }

/-- What ROM_INIT has still to zero in a core (R509). -/
def Core.kept (k : Core) : Core :=
  { Core.reset with
    scratch := k.scratch, badLines := k.badLines,
    me := { Matrix.reset with bank0 := k.me.bank0.untagged, bank1 := k.me.bank1.untagged, acc := k.me.acc } }

/-- The block after a reset of its BLK and INS registers: memory, fuses, the POR registers, the TAP and the levels of the
inputs stay, and so does what the queue of commands still holds. -/
def blkCleared (s : State) : State :=
  let ports : Tbl Port := s.ports.map fun p => (p.1, p.2.kept)
  let cores : Tbl Core := s.cores.map fun k => (k.1, k.2.kept)
  let links : Tbl Link := s.links.map fun l => (l.1, { Link.reset with phyLock := l.2.phyLock })
  let targets : Tbl Target := s.chime.targets.map fun t => (t.1, { Target.reset with idleIn := t.2.idleIn })
  { State.reset with
    pending := s.pending, fuse := s.fuse, ports := ports, mem := s.mem, poison := s.poison, basin := s.basin, cores := cores,
    links := links, tap := s.tap, freeCount := s.freeCount,
    boot := { Boot.reset with power := s.boot.power, porAsserted := s.boot.porAsserted, blkAsserted := s.boot.blkAsserted, state := .reset },
    tw := { Tw.reset with witness := s.tw.witness },
    sec := { Sec.reset with pending := s.sec.pending, debugSeen := s.sec.debugSeen, counts := s.sec.counts, challenge := s.sec.challenge,
                            idPub := s.sec.idPub, idDigest := s.sec.idDigest },
    fr := { Fr.reset with
      stopValid := s.fr.stopValid, stopCause := s.fr.stopCause, stopSeq := s.fr.stopSeq, stopPort := s.fr.stopPort,
      stopBeat := s.fr.stopBeat, stopCode := s.fr.stopCode, wdogFired := s.fr.wdogFired, wdogCount := s.fr.wdogCount },
    chime := { Chime.reset with targets := targets } }

/-- Reset inputs are released: boot starts at ROM_INIT with a fresh challenge, and the Chime samples (R407, R457, R509). -/
def bootBegin (s : State) : State :=
  if s.boot.porAsserted || s.boot.blkAsserted then s
  else
    let d := s.drawDigest
    let s := { d.2 with sec := { d.2.sec with challenge := d.1 }, boot := { d.2.boot with state := .romInit, power := .on } }
    chSampleAll s

/-- Power-on reset: every domain, the POR registers and the TAP among them. Memory and the fuses are not the block's to
reset. -/
def porCleared (s : State) : State :=
  let s := blkCleared s
  { s with tap := Tap.reset, sec := { Sec.reset with challenge := s.sec.challenge }, fr := Fr.reset, cores := [], basin := [],
           boot := { s.boot with power := .off } }

/-- POR_N (R489, R491). -/
def execPorN (asserted : Bool) (s : State) : Host.Outcome State Fault Refusal :=
  .next (if asserted then porCleared { s with boot := { s.boot with porAsserted := true } }
    else if s.boot.porAsserted then
      bootBegin { s with boot := { s.boot with porAsserted := false, power := .on } }
    else s)

/-- BLK_RST_N (R489, R490): it ends a recovery stop, a watchdog firing, halt-all and retention. -/
def execBlkRstN (asserted : Bool) (s : State) : Host.Outcome State Fault Refusal :=
  .next (if asserted then
      blkCleared { s with boot := { s.boot with blkAsserted := true, power := if s.boot.power = .off then .off else .on } }
    else if s.boot.blkAsserted then bootBegin { s with boot := { s.boot with blkAsserted := false } }
    else s)

/-! ## ROM_INIT (R500, R509) -/

/-- Scratch, basin, accumulators and weight banks are zeroed. -/
def romZero (s : State) : State :=
  let cores : Tbl Core := s.cores.map fun k => (k.1, { k.2 with
    scratch := [], badLines := [], me := { k.2.me with bank0 := Bank.reset, bank1 := Bank.reset, acc := [] } })
  { s with cores := cores, basin := [], pool := [] }

/-- The self-check fails: FAILED, and FR_STOP with CAUSE 1 and a free code (log entry 47). -/
def romFailed (s : State) : State :=
  let d := s.drawWord
  let s := d.2
  chSample { s with
    boot := { s.boot with state := .failed },
    fr := { s.fr with
      stopValid := true, stopCause := 1#3, stopSeq := BitVec.ofNat 4 (bitField d.1.toNat 19 16), stopPort := 0#8,
      stopBeat := s.esc.beatCount.setWidth 32, stopCode := Config.freeCode (d.1 >>> 20) } } 101

/-- After a POR, ROM_INIT derives the identity keys from the seed: their public parts and ID_DIGEST (R384, R385). -/
def identityKeys (s : State) : State :=
  if s.sec.idPub.isEmpty then
    let pub := Config.identityPublic s.fuse.idSeed
    { s with sec := { s.sec with idPub := pub, idDigest := sha384 pub } }
  else s

/-- ROM_INIT ends: identity keys, import keys, WAIT_PATCH, open ports, the watchdog. -/
def romEnd (s : State) : State :=
  let s := importKeys (identityKeys (romZero s))
  openTrained { s with boot := { s.boot with state := .waitPatch }, fr := { s.fr with wdogArmed := true } }

/-- ROM_INIT_DONE. -/
def execRomInitDone (selfCheckOk : Bool) (s : State) : Host.Outcome State Fault Refusal :=
  .next (if s.portAlive && s.boot.state == .romInit then (if selfCheckOk then romEnd s else romFailed s) else s)

/-! ## The firmware patch (R510, R511) -/

/-- Step 1 of R511. -/
def patchLenOk (len : Nat) : Bool := len % 64 == 0 && decide (16384 ≤ len) && decide (len ≤ 1048576)

/-- KP_BOOT_CMD.LOAD. -/
def bootLoad (s : State) : State :=
  if s.boot.state = .waitPatch then
    (if patchLenOk s.boot.patchLen.toNat then { s with boot := { s.boot with state := .verifyPatch } }
     else { s with boot := { s.boot with code := Config.IMAGE_MALFORMED } })
  else s

/-- A write of KP_BOOT_CMD. -/
def bootCommand (s : State) (v : W64) : State := if bitAt v.toNat 0 then bootLoad s else s

/-- Offset of KP_BOOT_CMD. -/
def KP_BOOT_CMD : Nat := 0x90C

/-- LOAD. -/
def execLoad (who : Who) (s : State) : Host.Outcome State Fault Refusal :=
  .next (hostWrite s who KP_BOOT_CMD false bootLoad)

/-- The zero fields and ROM_VERSION of a patch (R510). -/
def patchFieldsOk (s : State) (base : Nat) : Bool :=
  zeroRange s (base + 6) 2 && s.readLE (base + 0x10) 4 == s.fuse.romVersion.toNat && zeroRange s (base + 0x18) 40

/-- The patch passes: READY. -/
def patchGood (s : State) (base len : Nat) : State :=
  { s with boot := { s.boot with
      state := .ready, patchVersion := BitVec.ofNat 32 (s.readLE (base + 0x0C) 4),
      patchDigest := digestOfBytes (s.readBytes (base + (len - 5568) + 8) 48) } }

/-- VERIFY_PATCH ends: the checks of R511 in order. -/
def patchVerified (s : State) : State :=
  let base := s.boot.patchAddr.toNat
  let len := s.boot.patchLen.toNat
  if s.poisoned base len then patchFail s Config.MEM_POISON
  else if sigDetail (framingOk s base len 0x48435450 false) ((s.imageVerdict base len).keyDigest == s.fuse.ovirasaDigest)
      (s.imageVerdict base len) ≠ 0#5 then
    tamperRaise (patchFail s Config.SIGNATURE_FAIL) 1
  else if patchFieldsOk s base then patchGood s base len
  else patchFail s Config.IMAGE_MALFORMED

/-- PATCH_VERIFY_DONE: the patch has been read, through an open port. One that runs past the end of device memory faults
(R13). -/
def execPatchVerifyDone (_ : Unit) (s : State) : Host.Outcome State Fault Refusal :=
  if s.watched && s.boot.state == .verifyPatch && !s.openPorts.isEmpty then
    if s.boot.patchAddr.toNat + s.boot.patchLen.toNat ≤ 2 ^ 48 then .next (patchVerified s) else .fault .addressSpace
  else .next s

/-! ## Retention (R463, R492, R493) -/

/-- Steps 1 and 2 of retention entry. -/
def retBegin (s : State) : State :=
  let s := { s with boot := { s.boot with retReq := true, retEntering := true } }
  let s := if s.tw.state = .primary then twYield { s with tw := { s.tw with gateClosed := true } } 3#8 else s
  let d := s.drawWord
  stopAll d.2 (Config.freeCode d.1)

/-- RET_REQ. A halted block begins no entry (R480). -/
def execRetReq (s : State) : Host.Outcome State Fault Refusal :=
  .next (if s.watched && !s.boot.retReq then retBegin s else s)

/-- Steps 4 and 5: the links fall silent, the Chime outputs are low, the watchdog is disarmed. -/
def retDone (s : State) : State :=
  chEval { s with
    chime := { s.chime with heldLow := true }, fr := { s.fr with wdogArmed := false },
    boot := { s.boot with retAck := true, retEntering := false, power := .retention } }

/-- RET_ACK: once every write is acknowledged (step 3). -/
def execRetAck (s : State) : Host.Outcome State Fault Refusal :=
  .next (if s.portAlive && s.boot.retEntering && s.writes.isEmpty then retDone s else s)

/-- WAKE: a BLK reset outside RET and POR; the Chime begins its restore and boot starts. -/
def wake (s : State) : State :=
  let c := s.chime
  let s := blkCleared s
  bootBegin { s with
    chime := c, cores := [], basin := [],
    boot := { s.boot with power := .on, wake := true, chimeRestoring := true } }

/-- WAKE. -/
def execWake (s : State) : Host.Outcome State Fault Refusal :=
  .next (if s.boot.power == .retention && s.boot.retAck && !s.boot.blkAsserted && !s.boot.porAsserted then wake s else s)

/-- A source at the end of a restore: an edge detector takes the current sample, a LEVEL source samples (R463). -/
def chResample (s : State) (n : Nat) : State :=
  let x := s.src n
  if x.sense = 0#2 then chSample s n else s.setSrc n { x with prev := chSignal s n }

/-- The restore ends. -/
def restoreEnd (s : State) : State :=
  let targets : Tbl Target := s.chime.targets.map fun t => (t.1, { t.2 with timerNs := 0 })
  let s := { s with
    boot := { s.boot with chimeRestoring := false },
    chime := { s.chime with heldLow := false, targets := targets } }
  chEval ((List.range 109).foldl chResample s)

/-- CHIME_RESTORE_DONE. -/
def execChimeRestoreDone (s : State) : Host.Outcome State Fault Refusal :=
  .next (if s.portAlive && s.boot.chimeRestoring then restoreEnd s else s)

end Sys2Proof.Machine
end

