-- ==== Sys2Proof/Machine/RegRead.lean ====
section
/-! DEFINITION. What every register of the block window reads (R54, R95, R133, R179, R208, R238, R293, R326, R349, R380, R416,
R449, R464, R486, R515, R516): the value of the register that starts at an offset. Reserved bits and write-only fields
read zero (R9). -/

namespace Sys2Proof.Machine

/-! ## Codes and small readings -/

def GenState.code : GenState → Nat
  | .free => 0 | .live => 1 | .replaced => 2
def QState.code : QState → Nat
  | .free => 0 | .idle => 1 | .ready => 2 | .active => 3 | .waiting => 4 | .stopped => 5 | .error => 6
def CtxState.code : CtxState → Nat
  | .free => 0 | .live => 1 | .faulted => 2 | .teardown => 3
def InstState.code : InstState → Nat
  | .free => 0 | .enabled => 1 | .disabling => 2 | .disabled => 3 | .resetting => 4
def BootState.code : BootState → Nat
  | .reset => 0 | .romInit => 1 | .waitPatch => 2 | .verifyPatch => 3 | .ready => 4 | .failed => 5
def AuState.code : AuState → Nat
  | .idle => 0 | .verify => 1 | .prove => 2 | .armed => 3
def CoreSt.code : CoreSt → Nat
  | .idle => 0 | .running => 1 | .held => 2 | .killing => 3
def CtrKind.code : CtrKind → Nat
  | .graph => 0 | .context => 1 | .flightArrive => 2 | .flightRelease => 3
def CtrState.code : CtrState → Nat
  | .free => 0 | .live => 1 | .faulted => 2 | .abandoned => 3
def FlightState.code : FlightState → Nat
  | .free => 0 | .isOpen => 1 | .broken => 2
def LinkState.code : LinkState → Nat
  | .disabled => 0 | .waitPhy => 1 | .init => 2 | .up => 3

/-- A register value from (lowest bit, field value) pairs. -/
def fields (l : List (Nat × Nat)) : W64 := BitVec.ofNat 64 (l.foldl (fun a f => a + f.2 * 2 ^ f.1) 0)

/-- A number cut at the largest value of a field. -/
def satField (w v : Nat) : Nat := min v (2 ^ w - 1)

/-- Index of a register in a run that starts at `base`. -/
def regIndex (off base stride : Nat) : Nat := (off - base) / stride

/-- The word a predicate on bits spells. -/
def bitsOf (n : Nat) (f : Nat → Bool) : Nat := maskOf ((List.range n).filter f)

/-! ## Keeper (R2, R179, R293, R349, R380, R515) -/

/-- Commands of a queue past fetch and not complete. -/
def Queue.pastFetch (q : Queue) : Nat := q.cmds.countP fun c => !c.isDone

/-- Object entries of an instance's pools that are not FREE, those of earlier lives still held included (R375, R380). -/
def State.poolHeld (s : State) (i : Inst) : Nat :=
  s.objs.countP fun o => (i.pools :: i.held).any (fun p => p.hasObj o.1) && o.2.state != .free

def readKeeper (s : State) (off : Nat) : W64 :=
  let k := s.kp
  let q := s.queue k.queueSel.toNat
  let c := k.ctxSel.toNat
  let n := k.instSel.toNat
  let i := s.inst n
  let d := i.dirty
  match off with
  | 0x10 => s.fuse.grade.setWidth 64
  | 0x500 => k.loaderMode.setWidth 64
  | 0x508 => fields [(31, b2n (!k.verifyQueue.isEmpty)), (0, k.verifyQueue.length)]
  | 0x510 => fields [(63, b2n k.vfValid), (48, k.vfEntry.toNat), (32, k.vfStation.toNat), (0, k.vfCode.toNat)]
  | 0x518 => k.vfOffset.setWidth 64
  | 0x520 => fields [(16, s.gens.countP fun g => g.2.state == .replaced), (0, s.gens.countP fun g => g.2.state != .free)]
  | 0x528 => k.fusedAccess.setWidth 64
  | 0x600 => fields [(0, k.objBase.toNat), (0, b2n k.objEnable)]
  | 0x608 => fields [(0, s.objs.countP fun o => o.2.state != .free)]
  | 0x610 => k.queueSel.setWidth 64
  | 0x618 => fields [(32, q.head.toNat), (28, q.pastFetch), (24, q.part), (13, q.ctx), (0, q.state.code)]
  | 0x620 => q.tail.setWidth 64
  | 0x628 => k.ctxSel.setWidth 64
  | 0x630 => fields [(32, s.objs.countP fun o => o.2.state != .free && o.2.owner.toNat == c), (16, (s.ctxQueues c).length),
      (8, (s.ctx c).inst), (0, (s.ctx c).state.code)]
  | 0x638 => fields [(31, b2n k.waitFullSeen), (0, s.waitsHeld none)]
  | 0x63C => fields [(0, s.queues.countP fun q => q.2.state == .active)]
  | 0x700 => k.remoteLimitUs.setWidth 64
  | 0x800 => k.instSel.setWidth 64
  | 0x808 => fields [(44, s.poolHeld i), (32, (s.instCtxs n).length), (0, s.waitsHeld (some n))]
  | 0x810 => fields [(17, satField 15 (s.ctrsHeld n)), (3, b2n (match i.disabling with | some x => x.draining | none => false)),
      (0, i.state.code)]
  | 0x818 => d.base0.setWidth 64
  | 0x820 => d.base1.setWidth 64
  | 0x828 => fields [(4, b2n d.flipBusy), (3, b2n d.flipDone), (1, b2n d.active), (0, b2n d.enable)]
  | 0x830 => fields [(0, i.pools.pages)]
  | 0x900 => fields [(32, s.boot.patchVersion.toNat), (16, s.boot.code.toNat), (7, b2n s.boot.wake), (0, s.boot.state.code)]
  | 0x908 => s.fuse.romVersion.setWidth 64
  | 0x910 => s.boot.patchAddr.setWidth 64
  | 0x918 => s.boot.patchLen.setWidth 64
  | 0x91C => s.boot.hostErr.setWidth 64
  | 0x920 => s.fuse.portPresent.setWidth 64
  | 0x928 => fields [(63, b2n s.frozen), (0, maskOf s.openPorts)]
  | _ => 0#64

/-! ## Escapement and admission (R54, R95) -/

/-- Slack of a window under the active inflation state (R54). -/
def State.slackOf (s : State) (p w : Nat) : Nat := match s.run with
  | none => 0
  | some r =>
    let l := match bothProofs s r.img s.au.inflateActive false r.place.partCores r.place.stationCores with
      | .ok k => k
      | .error _ => r.place.slack
    match l.find? fun x => x.1 == p && x.2.1 == w with
    | some x => x.2.2
    | none => 0

/-- AU_WINDOW of a window. -/
def readWindowReg (s : State) (p w : Nat) : W64 := match s.run with
  | none => 0#64
  | some r => match r.img.window p w with
    | none => 0#64
    | some x => fields [(35, 1), (34, b2n (x.cls == .free)), (17, x.lenUs), (0, x.startUs)]

def readEsc (s : State) (off : Nat) : W64 :=
  let e := s.esc
  let a := s.au
  let g := s.run.map fun r => r.img
  match off with
  | 0x100000 => fields [(0, b2n e.running)]
  | 0x100004 => e.periodUs.setWidth 64
  | 0x100008 => e.beatCount.setWidth 64
  | 0x100010 => e.time
  | 0x100018 => e.beatTime
  | 0x100020 => e.capDw.setWidth 64
  | 0x100024 => fields [(8, e.pauseSeen.toNat), (0, match g with | some g => s.pausesLeft g | none => 0)]
  | 0x100100 => a.imageAddr.setWidth 64
  | 0x100108 => a.imageLen.setWidth 64
  | 0x100110 => fields [(16, a.lastCode.toNat), (5, b2n a.inflateActive), (4, b2n a.admitted), (3, b2n a.refused),
      (2, b2n a.busyReject), (0, a.state.code)]
  | 0x100118 => fields [(46, b2n a.refusal.pass), (45, b2n a.refusal.coreValid), (44, b2n a.refusal.windowValid),
      (40, a.refusal.core.toNat), (35, a.refusal.window.toNat), (32, a.refusal.part.toNat), (16, a.refusal.station.toNat),
      (0, a.refusal.code.toNat)]
  | 0x100120 => a.deficit.setWidth 64
  | 0x100128 => (match g with | some g => g.imageId.setWidth 64 | none => 0#64)
  | 0x100130 => a.activeBeat.setWidth 64
  | 0x100138 => a.sigDetail.setWidth 64
  | 0x10013C => (match g with | some g => g.seq.setWidth 64 | none => 0#64)
  | 0x100170 => fields [(16, a.swapCounters.toNat), (8, a.swapChanged.toNat), (0, a.swapKept.toNat)]
  | _ =>
    if 0x100140 ≤ off ∧ off < 0x100170 then
      (match g with | some g => digestWord g.digest (regIndex off 0x100140 8) | none => 0#64)
    else if 0x100200 ≤ off ∧ off < 0x100220 then
      let p := regIndex off 0x100200 4
      fields [(16, match g with | some g => g.freeLimit p | none => 0), (0, maskOf (s.partCores p))]
    else if 0x100220 ≤ off ∧ off < 0x100240 then
      (match s.run with | some r => fields [(0, freeMax r.img r.place (regIndex off 0x100220 4))] | none => 0#64)
    else if 0x100400 ≤ off ∧ off < 0x100600 then readWindowReg s ((off - 0x100400) / 64) ((off - 0x100400) % 64 / 8)
    else if 0x100800 ≤ off ∧ off < 0x100A00 then fields [(0, s.slackOf ((off - 0x100800) / 64) ((off - 0x100800) % 64 / 8))]
    else 0#64

/-! ## Regulator (R349) -/

/-- The largest deferral still open in a partition, in ns (R345, R346). -/
def State.deferNs (s : State) (p : Nat) : Nat :=
  ((s.jobs.filter fun j => j.2.part == p && j.2.deferred && j.2.kill.isNone).map fun j => (s.esc.time - j.2.deferStart).toNat).foldl
    max 0

/-- Weight of the node that RG_WEIGHT_SEL selects. -/
def readWeight (s : State) : Nat :=
  let id := s.rg.selId.toNat
  match s.rg.selLevel.toNat with
  | 0 => (s.inst (bitField id 5 0)).weight s.rg.selPart.toNat
  | 1 => (s.ctx (bitField id 10 0)).weight.toNat
  | 2 => (s.queue id).weight.toNat
  | _ => 0

/-- RG_SHARE_STATE of the selected context and partition. -/
def readShare (s : State) : W64 := match s.shareOf s.rg.shareSelCtx.toNat s.rg.shareSelPart.toNat with
  | none => 0#64
  | some x => fields [(62, match x.2.state with | .clearing => 1 | .live => 2 | .releasing => 3), (32, x.2.off), (0, x.2.size)]

def readRg (s : State) (off : Nat) : W64 :=
  let r := s.rg
  let q := s.queue r.qSel.toNat
  match off with
  | 0x200100 => fields [(24, r.selPart.toNat), (16, r.selLevel.toNat), (0, r.selId.toNat)]
  | 0x200104 => fields [(0, readWeight s)]
  | 0x20010C => fields [(31, b2n r.rebind.isSome), (16, r.resQueue.toNat), (0, r.resCode.toNat)]
  | 0x200110 => r.qSel.setWidth 64
  | 0x200118 => q.vt
  | 0x200120 => q.run
  | 0x200128 => q.waitNs
  | 0x200130 => q.lost
  | 0x200138 => q.preempts.setWidth 64
  | 0x200208 => fields [(31, b2n r.preBusy), (30, b2n (s.jobs.any fun j => j.2.deferred && j.2.kill.isNone)), (29, b2n r.preLimitHit),
      (0, r.preKilled.toNat)]
  | 0x200300 => fields [(24, r.shareSelPart.toNat), (0, r.shareSelCtx.toNat)]
  | 0x200310 => readShare s
  | 0x200318 => r.shareCode.setWidth 64
  | _ =>
    if 0x200000 ≤ off ∧ off < 0x200040 then
      let x := s.rgPart (regIndex off 0x200000 8)
      fields [(32, x.slowAlert.toNat), (0, x.preemptWaitUs.toNat)]
    else if 0x200040 ≤ off ∧ off < 0x200080 then (s.rgPart (regIndex off 0x200040 8)).gv
    else if 0x200080 ≤ off ∧ off < 0x2000C0 then
      let d := satField 32 (s.deferNs (regIndex off 0x200080 8))
      fields [(32, d), (0, satField 32 (3008 + d))]
    else if 0x200400 ≤ off ∧ off < 0x200500 then
      let x := s.rgPart ((off - 0x200400) / 32)
      match (off - 0x200400) % 32 / 8 with
      | 0 => x.repBusy
      | 1 => x.repWait
      | 2 => fields [(48, x.repPreempted.toNat), (32, x.repPassed.toNat), (16, x.repSkipped.toNat), (0, x.repSlow.toNat)]
      | _ => 0#64
    else 0#64

/-! ## Counters and flights (R326) -/

/-- Entry of a graph's counter directory (R298, R326). -/
def readDirEntry (s : State) : Nat := match s.run with
  | some r => leAt (directory r.img r.place s.sy.dirGraph.toNat) (4 * s.sy.dirPos.toNat) 4
  | none => 0

def readSy (s : State) (off : Nat) : W64 :=
  let y := s.sy
  let c := s.counter y.ctrSel.toNat
  let f := s.flight y.flightSel.toNat
  match off with
  | 0x300000 => y.ctrSel.setWidth 64
  | 0x300008 => fields [(54, c.kind.code), (53, b2n c.error), (50, c.state.code), (43, c.fault.toNat), (32, c.owner.toNat), (0, c.value.toNat)]
  | 0x300018 => fields [(63, b2n y.reclaimRefused), (32, s.counters.countP fun c => decide (4096 ≤ c.1 % 8192) && c.2.state != .free),
      (0, s.counters.countP fun c => decide (c.1 % 8192 < 4096) && c.2.state != .free)]
  | 0x300020 => fields [(63, b2n y.fValid), (60, y.fSource.toNat), (56, y.fCore.toNat), (32, y.fId.toNat), (16, y.fStation.toNat),
      (0, y.fCode.toNat)]
  | 0x300028 => fields [(32, y.fAmount.toNat), (0, y.fBefore.toNat)]
  | 0x300030 => fields [(12, y.dirGraph.toNat), (0, y.dirPos.toNat)]
  | 0x300034 => fields [(0, readDirEntry s)]
  | 0x300038 => y.dropped.setWidth 64
  | 0x300100 => y.flightSel.setWidth 64
  | 0x300108 => fields [(32, f.timeoutUs.toNat), (24, f.parent.toNat), (16, f.children.toNat), (0, f.expect.toNat)]
  | 0x300110 => f.grant
  | 0x300118 => f.startRound.setWidth 64
  | 0x300120 => fields [(32, f.round.toNat), (16, satField 16 (if f.state = .free then 0 else (s.counter f.arriveId.toNat).value.toNat)),
      (11, f.childArrived.toNat), (8, b2n f.forwarded), (0, f.state.code)]
  | 0x300128 => fields [(16, f.cause.toNat), (0, f.code.toNat)]
  | 0x300130 => fields [(32, f.releaseId.toNat), (0, f.arriveId.toNat)]
  | _ => 0#64

/-! ## Chime (R464) -/

/-- A word of bits of the sources, all of them or those routed to a target (R458). -/
def chWord (s : State) (view : Option Nat) (w : Nat) (f : Src → Bool) : W64 :=
  BitVec.ofNat 64 (bitsOf 64 fun b =>
    let x := s.src (64 * w + b)
    (match view with | some t => x.target.toNat == t | none => true) && f x)

/-- Sources routed to a target in a state. -/
def State.chCount (s : State) (t : Nat) (st : SrcState) : Nat :=
  s.chime.srcs.countP fun x => x.2.target.toNat == t && x.2.st == st

/-- CH_TGT_STATUS (R464). -/
def readTgtStatus (s : State) (t : Nat) : W64 :=
  let x := s.target t
  fields [(48, min (x.timerNs / 1000) x.modUs.toNat), (32, s.chCount t .active), (16, s.chCount t .pending), (2, b2n x.wdogDrive),
    (1, b2n x.idleIn), (0, b2n x.out)]

/-- A register of a target's view. -/
def readTarget (s : State) (t off : Nat) : W64 :=
  let x := s.target t
  if off < 0x80 then chWord s (some t) (off / 8) fun x => x.st == .pending
  else if off < 0x100 then chWord s (some t) ((off - 0x80) / 8) fun x => x.masked
  else if off < 0x180 then chWord s (some t) ((off - 0x100) / 8) fun x => x.st == .active
  else if off = 0x188 then
    fields [(31, b2n x.wdog), (30, b2n x.ownerValid), (24, x.owner.toNat), (16, x.modCount.toNat), (0, x.modUs.toNat)]
  else if off = 0x190 then readTgtStatus s t
  else 0#64

def readCh (s : State) (off : Nat) : W64 :=
  if 0x400000 ≤ off ∧ off < 0x401000 then
    let x := s.src (regIndex off 0x400000 4)
    fields [(8, b2n x.urgent), (4, x.target.toNat), (0, x.sense.toNat)]
  else if 0x401000 ≤ off ∧ off < 0x401080 then chWord s none (regIndex off 0x401000 8) fun x => x.st == .pending
  else if 0x401080 ≤ off ∧ off < 0x401100 then chWord s none (regIndex off 0x401080 8) fun x => x.masked
  else if 0x401100 ≤ off ∧ off < 0x401180 then chWord s none (regIndex off 0x401100 8) fun x => x.st == .active
  else if off = 0x401184 then s.chime.strayCount.setWidth 64
  else if off = 0x401188 then s.chime.strayLast.setWidth 64
  else if off = 0x40118C then s.chime.qsrcSel.setWidth 64
  else if off = 0x401190 then (tget 0#10 s.chime.qsrc s.chime.qsrcSel.toNat).setWidth 64
  else if 0x402000 ≤ off ∧ off < 0x404000 then
    let x := s.src (regIndex off 0x402000 8)
    fields [(48, x.count.toNat), (16, x.data.toNat), (0, x.code.toNat)]
  else if 0x404000 ≤ off ∧ off < 0x406000 then readTarget s ((off - 0x404000) / 0x400) ((off - 0x404000) % 0x400)
  else 0#64

/-! ## Security (R416) -/

/-- SEC_DBG_STATUS. -/
def readDbgStatus (s : State) : W64 := fields [(31, b2n s.sec.dbgBusy), (30, b2n s.sec.unlocked), (0, s.sec.dbgCode.toNat)]

def readSec (s : State) (off : Nat) : W64 :=
  let x := s.sec
  let k := x.keySel.toNat
  match off with
  | 0x500000 => fields [(4, s.fuse.ownerRevoked.toNat), (0, s.fuse.ownerProgrammed.toNat)]
  | 0x500008 => x.otpAddr.setWidth 64
  | 0x500014 => fields [(31, b2n x.otpBusy), (0, x.otpCode.toNat)]
  | 0x500018 => fields [(3, b2n x.importReady), (2, b2n s.run.isSome), (0, s.imageSlot)]
  | 0x500200 => x.keySel.setWidth 64
  | 0x500208 => fields [(31, b2n (s.keyLoaded k)), (30, b2n (s.keyOwner k).isSome), (0, (s.keyOwner k).getD 0)]
  | 0x500210 => BitVec.ofNat 64 (bitsOf 64 fun n => (s.inst n).bound)
  | 0x500300 => fields [(8, b2n x.debugSeen), (0, x.pending.toNat)]
  | 0x500304 => fields [(16, x.lastSource.toNat), (8, x.lastLevel.toNat), (1, b2n x.eraseBusy), (0, b2n x.locked)]
  | 0x500328 =>
    let levels : List (Nat × Nat) := if s.run.isSome then (List.range 5).map fun i => (8 * i, (s.tamperLevel i).toNat) else []
    fields levels
  | 0x500440 => x.dbgAddr.setWidth 64
  | 0x50044C => readDbgStatus s
  | _ =>
    if 0x500020 ≤ off ∧ off < 0x500050 then digestWord s.sec.idDigest (regIndex off 0x500020 8)
    else if 0x500080 ≤ off ∧ off < 0x500140 then
      digestWord (tget 0#384 s.fuse.ownerDigest ((off - 0x500080) / 0x30)) ((off - 0x500080) % 0x30 / 8)
    else if 0x500310 ≤ off ∧ off < 0x500324 then (tget 0#32 x.counts (regIndex off 0x500310 4)).setWidth 64
    else if 0x500400 ≤ off ∧ off < 0x500430 then digestWord x.challenge (regIndex off 0x500400 8)
    else if 0x501000 ≤ off ∧ off < 0x501800 then wordAt s.sec.idPub (regIndex off 0x501000 8)
    else if 0x502000 ≤ off ∧ off < 0x502500 then x.importPub.getD (regIndex off 0x502000 8) 0#64
    else 0#64

/-! ## Twin and links (R449, R515) -/

/-- LINK_STATUS and LINK_ERR of a link. -/
def readLinkStatus (l : Link) : W64 :=
  fields [(48, l.downs.toNat), (16, l.downCause.toNat), (2, l.state.code), (1, b2n l.phyLock), (0, b2n l.enable)]
def readLinkErr (l : Link) : W64 := fields [(32, l.crcErrors.toNat), (16, l.replays.toNat), (0, l.dropped.toNat)]

def readTw (s : State) (off : Nat) : W64 :=
  let t := s.tw
  match off with
  | 0x600000 => fields [(1, b2n t.witnessUse), (0, b2n t.pairReq)]
  | 0x600008 => fields [(32, t.lastCode.toNat), (16, t.hbMissed.toNat), (12, b2n t.elect), (11, b2n t.witness), (10, b2n t.partnerLive),
      (9, b2n t.aligned), (8, b2n s.inStep), (7, b2n s.matched), (4, t.partnerState.toNat), (0, t.state.code)]
  | 0x600040 => t.offset.setWidth 64
  | 0x600048 => t.relLast.setWidth 64
  | 0x600050 => fields [(16, t.realign.toNat), (0, t.oneWayNs.toNat)]
  | 0x601000 => readLinkStatus (s.link 0)
  | 0x601008 => readLinkErr (s.link 0)
  | _ =>
    if 0x600010 ≤ off ∧ off < 0x600040 then digestWord t.peerDigest (regIndex off 0x600010 8)
    else if 0x601100 ≤ off ∧ off < 0x601500 then
      let l := s.link ((off - 0x601100) / 0x100 + 1)
      match (off - 0x601100) % 0x100 with
      | 0 => readLinkStatus l
      | 8 => readLinkErr l
      | _ => 0#64
    else 0#64

/-! ## Observation and debug (R486) -/

/-- DBG_STATUS. -/
def readDbg (s : State) : W64 := fields [(16, bitsOf 16 fun c => (s.core c).st == .held), (0, b2n s.obs.halted)]

def readPm (s : State) (off : Nat) : W64 :=
  let o := s.obs
  match off with
  | 0x700008 => o.pm.ovf.setWidth 64
  | 0x700400 => fields [(16, o.traceCores.toNat), (0, o.traceMode.toNat)]
  | 0x700408 => fields [(32, o.traceDropped.toNat), (0, o.activeMode.toNat)]
  | 0x700300 => o.snapAddr.setWidth 64
  | 0x700308 => o.snapLen.setWidth 64
  | 0x70030C => fields [(1, b2n o.snapArm)]
  | 0x700310 => fields [(63, b2n o.snapDone), (62, b2n o.snapBusy), (61, b2n o.snapTrunc), (60, b2n o.snapRefused), (0, o.snapBytes.toNat)]
  | 0x701000 => fields [(16, o.hold.toNat)]
  | 0x701008 => readDbg s
  | _ =>
    if 0x700100 ≤ off ∧ off < 0x7002C0 then BitVec.ofNat 64 (tget 0 o.pm.slots (regIndex off 0x700100 8))
    else if 0x701010 ≤ off ∧ off < 0x701030 then tget 0#64 o.bps (regIndex off 0x701010 8)
    else 0#64

/-! ## Faults and recovery (R449) -/

/-- FR_THR_NS of the selection (R425). -/
def readThrottle (s : State) : W64 := match s.fr.thrKind.toNat with
  | 0 => (s.ctx s.fr.thrId.toNat).throttleNs
  | 1 => (s.rgPart (s.fr.thrId.toNat % 8)).throttleNs
  | 2 => s.fr.keeperThrNs
  | _ => 0#64

def readFr (s : State) (off : Nat) : W64 :=
  let f := s.fr
  let p := s.port f.portSel.toNat
  match off with
  | 0x800000 => f.classSeen.setWidth 64
  | 0x800008 => fields [(63, b2n f.firstValid), (60, f.firstClass.toNat), (56, f.firstUnit.toNat), (52, f.firstCore.toNat),
      (48, f.firstPart.toNat), (16, f.firstBeat.toNat), (0, f.firstCode.toNat)]
  | 0x800010 => f.firstAddr.setWidth 64
  | 0x800100 => f.portSel.setWidth 64
  | 0x800108 => fields [(63, b2n p.failed), (32, p.poisonCount.toNat), (0, p.lateCount.toNat)]
  | 0x800110 => fields [(30, f.thrKind.toNat), (0, f.thrId.toNat)]
  | 0x800118 => readThrottle s
  | 0x800120 => fields [(16, f.overruns.toNat), (0, f.longest.toNat)]
  | 0x800200 => fields [(63, b2n f.stopValid), (60, f.stopCause.toNat), (56, f.stopSeq.toNat), (48, f.stopPort.toNat),
      (16, f.stopBeat.toNat), (0, f.stopCode.toNat)]
  | 0x800208 => fields [(31, b2n f.wdogFired), (0, f.wdogCount.toNat)]
  | _ => if 0x800040 ≤ off ∧ off < 0x800068 then (tget 0#32 f.ce (regIndex off 0x800040 4)).setWidth 64 else 0#64

/-! ## Mailbox pages (R380) -/

/-- A register of the page of an instance. While it is FREE only MB_INFO answers (R354). -/
def readPage (s : State) (n off : Nat) : W64 :=
  let i := s.inst n
  let p := i.page
  if off = 0x80 then fields [(8, n), (0, i.state.code)]
  else if i.state = .free then 0#64
  else if off < 0x40 then tget 0#64 p.req (off / 8)
  else if off = 0x48 then
    fields [(63, b2n p.done), (62, b2n p.busy), (61, b2n p.busyReject), (32, p.seq.toNat), (0, p.code.toNat)]
  else if 0x50 ≤ off ∧ off < 0x70 then tget 0#64 p.rsp ((off - 0x50) / 8)
  else if off = 0x88 then
    fields [(63, b2n p.noticeValid), (62, b2n p.noticeLost), (61, b2n p.noticeDisable), (40, p.noticeCtx.toNat), (16, p.noticeKilled.toNat),
      (0, p.noticeCode.toNat)]
  else 0#64

/-! ## Core windows (R133, R179, R208, R238) -/

/-- The job on a core. -/
def State.coreJob (s : State) (c : Nat) : Option Job := match (s.core c).job with
  | some n => s.job n
  | none => none

/-- CORE_STATUS and CORE_BOUND. -/
def readCoreStatus (s : State) (c : Nat) : W64 :=
  let k := s.core c
  fields [(32, k.pc), (16, k.stall.toNat), (3, match s.coreJob c with | some j => j.gen | none => 0), (0, k.st.code)]
def readCoreBound (s : State) (c : Nat) : W64 :=
  fields [(32, match s.coreJob c with | some j => j.killLimit | none => 0), (0, (s.core c).boundUsed.toNat)]

/-- ME_STATUS (R208) and VE_STATUS (R238). -/
def readMe (m : Matrix) : W64 :=
  fields [(35, b2n m.intSat), (34, b2n m.overflow), (33, b2n m.invalid), (32, b2n (!m.running.isEmpty)), (28, m.bank1.fmt.toNat),
    (26, m.bank1.arr.toNat), (25, b2n m.bank1.sparse), (20, m.bank0.fmt.toNat), (18, m.bank0.arr.toNat), (17, b2n m.bank0.sparse),
    (0, m.queue.length)]
def readVe (v : Vector') : W64 :=
  fields [(36, b2n v.zeroDiv), (35, b2n v.intSat), (34, b2n v.overflow), (33, b2n v.invalid), (32, b2n (!v.groups.isEmpty)),
    (8, v.groupFault.toNat), (4, match v.groups with | g :: _ => g.length | [] => 0), (0, v.queue.length)]

/-- Lines that a clear engine has still to write (R133). -/
def Core.linesLeft (k : Core) : Nat := (k.clears.map fun r => r.2 / 128).foldl (· + ·) 0

/-- A register of the window of a core; a fused-off core's window reads zero (R3, R519). -/
def readCore (s : State) (c off : Nat) : W64 :=
  let k := s.core c
  if !s.present c then 0#64
  else match off with
    | 0 => readCoreStatus s c
    | 8 => fields [(63, b2n k.hValid), (48, k.hSlot.toNat), (32, k.hStation.toNat), (0, k.hCode.toNat)]
    | 0x10 => k.hAddr.setWidth 64
    | 0x18 => k.hData
    | 0x20 => readCoreBound s c
    | 0x40000 => readMe k.me
    | 0x80000 => readVe k.ve
    | 0xC0000 => k.se.busy
    | 0xC0008 => fields [(63, b2n k.se.fValid), (35, k.se.fThread.toNat), (32, k.se.fOp.toNat), (16, k.se.fStation.toNat), (0, k.se.fCode.toNat)]
    | 0xC0010 => k.se.fAddr.setWidth 64
    | 0xC0018 => fields [(0, k.linesInFlight)]
    | 0xC001C => fields [(31, b2n (!k.clears.isEmpty)), (0, k.linesLeft)]
    | _ => 0#64

/-! ## Every register -/

/-- What the register that starts at an offset reads; reserved offsets read zero (R12). -/
def readReg (s : State) (off : Nat) : W64 :=
  if off < 0x100000 then readKeeper s off
  else if off < 0x200000 then readEsc s off
  else if off < 0x300000 then readRg s off
  else if off < 0x400000 then readSy s off
  else if off < 0x500000 then readCh s off
  else if off < 0x600000 then readSec s off
  else if off < 0x700000 then readTw s off
  else if off < 0x800000 then readPm s off
  else if off < 0x900000 then readFr s off
  else if 0x1000000 ≤ off ∧ off < 0x1400000 then readPage s ((off - 0x1000000) / 0x10000) ((off - 0x1000000) % 0x10000)
  else if 0x2000000 ≤ off ∧ off < 0x3000000 then readCore s ((off - 0x2000000) / 0x100000) ((off - 0x2000000) % 0x100000)
  else 0#64

/-- The 32-bit word at an offset. -/
def readWord (s : State) (off : Nat) : Nat := match regRowAt off with
  | none => 0
  | some r => (readReg s (r.start off)).toNat / 2 ^ (8 * (off - r.start off)) % 2 ^ 32

/-- What a requester reads at an offset, 32 or 64 bits wide, with what the read does to the state: an access that the port
refuses is counted or reported and reads zero (R7, R11, R495, R512, R519). -/
def hostRead (s : State) (who : Who) (off : Nat) (wide : Bool) : W64 × State :=
  match hostCheck s who off false wide with
  | .ignored s => (0#64, s)
  | .granted => (BitVec.ofNat 64 (readWord s off + (if wide then readWord s (off + 4) * 2 ^ 32 else 0)), s)

end Sys2Proof.Machine
end

