-- ==== Sys2Proof/Machine/ChimeRows.lean ====
section
/-! DEFINITION. The Chime's commands (R451 to R459): pending and mask words, completions, source configuration, moderation
and idle inputs. -/

namespace Sys2Proof.Machine

/-- A source is seen through a view (R458). -/
def ChView.sees (s : State) (v : Option Nat) (n : Nat) : Bool := match v with
  | none => true
  | some t => (s.src n).target.toNat == t

/-- Change the sources of `count` bits from source `first` on that a view shows, bit by bit, and evaluate the outputs. -/
def chBits (s : State) (view : Option Nat) (first count data : Nat) (f : Src → Bool → Src) : State :=
  chEval ((List.range count).foldl (fun s i =>
    let n := first + i
    let y := f (s.src n) (bitAt data i)
    if ChView.sees s view n && y != s.src n then s.setSrc n y else s) s)

/-- A write of a pending word, or of a part of one (R452). -/
def pendBits (s : State) (view : Option Nat) (first count data : Nat) : State := chBits s view first count data Src.writePend

/-- A write of a mask word, or of a part of one. -/
def maskBits (s : State) (view : Option Nat) (first count data : Nat) : State :=
  chBits s view first count data fun x b => { x with masked := b }

/-- The target of a view. -/
def viewTarget : ChView → Option Nat
  | .global => none
  | .target t => some t.toNat

/-- Offset of a register of a view: global, and target 0's. -/
def viewOff (v : ChView) (g t : Nat) : Nat := match v with
  | .global => g
  | .target x => t + 0x400 * x.toNat

/-- PENDING_WRITE: CH_PEND or CH_TPEND (R452, R458). -/
def execPendingWrite (who : Who) (view : ChView) (word : BitVec 4) (data : W64) (s : State) : Host.Outcome State Fault Refusal :=
  .next (hostWrite s who (viewOff view 0x401000 0x404000 + 8 * word.toNat) true fun s =>
    pendBits s (viewTarget view) (64 * word.toNat) 64 data.toNat)

/-- MASK_WRITE: CH_MASK or CH_TMASK (R458, R460). -/
def execMaskWrite (who : Who) (view : ChView) (word : BitVec 4) (data : W64) (s : State) : Host.Outcome State Fault Refusal :=
  .next (hostWrite s who (viewOff view 0x401080 0x404080 + 8 * word.toNat) true fun s =>
    maskBits s (viewTarget view) (64 * word.toNat) 64 data.toNat)

/-- COMPLETE: CH_COMPLETE or CH_TCOMPLETE (R452, R454). -/
def execComplete (who : Who) (view : ChView) (data : W32) (s : State) : Host.Outcome State Fault Refusal :=
  .next (hostWrite s who (viewOff view 0x401180 0x404180) false fun s => chComplete s (viewTarget view) (bitField data.toNat 9 0))

/-- A write of CH_SRC_CFG: the edge detector takes the current sample; a LEVEL source that is IDLE then samples its signal
(R451, R462). -/
def srcConfig (s : State) (n : Nat) (v : W64) : State :=
  let x := s.src n
  let s := chEval (s.setSrc n { x with
    urgent := bitAt v.toNat 8, target := BitVec.ofNat 3 (bitField v.toNat 6 4), sense := v.setWidth 2, prev := chSignal s n })
  chSample s n

/-- SRC_CFG_WRITE (R451). -/
def execSrcCfgWrite (who : Who) (source : BitVec 10) (data : W32) (s : State) : Host.Outcome State Fault Refusal :=
  .next (hostWrite s who (0x400000 + 4 * source.toNat) false fun s => srcConfig s source.toNat (data.setWidth 64))

/-- The moderation timer of a target reaches MOD_US (R455). -/
def modExpire (s : State) (t : Nat) : State :=
  let x := s.target t
  if s.chRuns && !x.out && !(s.liveSrcs t).isEmpty then
    chEval (s.setTarget t { x with timerNs := max x.timerNs (1000 * x.modUs.toNat) })
  else s

/-- MODERATION_TIMEOUT. -/
def execModerationTimeout (target : BitVec 3) (s : State) : Host.Outcome State Fault Refusal := .next (modExpire s target.toNat)

/-- CH_IDLE: the level of a target's idle input (R456). -/
def execChIdle (target : BitVec 3) (level : Bool) (s : State) : Host.Outcome State Fault Refusal :=
  let t := target.toNat
  let s := s.setTarget t { s.target t with idleIn := level }
  .next (if s.chRuns then chEval s else s)

end Sys2Proof.Machine
end

