-- ==== Sys2Proof/Machine/Observe.lean ====
section
/-! DEFINITION. Observation: the global counters' reset (R467), the trace modes and the trace port (R42, R43, R476 to R479),
and the hang snapshot (R473 to R475). -/

namespace Sys2Proof.Machine

/-! ## Counters -/

/-- PM_CTL.RESET: the global set and PM_OVF start over (R467). -/
def pmClear (s : State) : State := chSample { s with obs := { s.obs with pm := s.obs.pm.clear s.esc.time } } 108

/-- A write of PM_CTL. -/
def pmCommand (s : State) (v : W64) : State := if bitAt v.toNat 0 then pmClear s else s

/-- Offset of PM_CTL. -/
def PM_CTL : Nat := 0x700000

/-- PM_RESET. -/
def execPmReset (who : Who) (s : State) : Host.Outcome State Fault Refusal :=
  .next (hostWrite s who PM_CTL false pmClear)

/-! ## Trace modes (R42, R43, R478) -/

/-- A request for full trace: nothing to do if it is on; held in PROVE and ARMED; otherwise decided (R42, R43). -/
def traceRequest (s : State) : State :=
  if s.obs.activeMode = 2#2 then { s with au := { s.au with traceReq := .none } }
  else if s.au.state = .prove ∨ s.au.state = .armed then { s with au := { s.au with traceReq := .held } }
  else traceDecide s

/-- A change to OFF or EVENTS: from full trace it takes effect at the next beat edge, or at once while no image runs. -/
def traceLower (s : State) (mode : BitVec 2) : State :=
  if s.obs.activeMode = 2#2 ∧ s.run.isSome = true then { s with au := { s.au with traceReq := .turnOff } }
  else { s with au := { s.au with traceReq := .none }, obs := { s.obs with activeMode := mode } }

/-- A write of PM_TRACE_CTL; mode 3 is taken as 0. -/
def traceCommand (s : State) (mode : BitVec 2) (cores : BitVec 16) : State :=
  let m := if mode = 3#2 then 0#2 else mode
  let s := { s with obs := { s.obs with traceMode := m, traceCores := cores } }
  if m = 2#2 then traceRequest s else traceLower s m

/-- Offset of PM_TRACE_CTL. -/
def PM_TRACE_CTL : Nat := 0x700400

/-- TRACE_OFF: CORES stands as it is. -/
def execTraceOff (who : Who) (s : State) : Host.Outcome State Fault Refusal :=
  .next (hostWrite s who PM_TRACE_CTL false fun s => traceCommand s 0#2 s.obs.traceCores)

/-- TRACE_EVENTS: CORES stands as it is. -/
def execTraceEvents (who : Who) (s : State) : Host.Outcome State Fault Refusal :=
  .next (hostWrite s who PM_TRACE_CTL false fun s => traceCommand s 1#2 s.obs.traceCores)

/-- TRACE_FULL (R42). -/
def execTraceFull (who : Who) (cores : BitVec 16) (s : State) : Host.Outcome State Fault Refusal :=
  .next (hostWrite s who PM_TRACE_CTL false fun s => traceCommand s 2#2 cores)

/-! ## The trace port (R476, R477, R479) -/

/-- CRC-16 with polynomial 0x1021 of a byte string (R476). -/
def crc16Bit (c : Nat) : Nat := if 32768 ≤ c then Nat.xor (c * 2 % 65536) 0x1021 else c * 2
def crc16Byte (c : Nat) (b : Byte) : Nat := (List.range 8).foldl (fun c _ => crc16Bit c) (Nat.xor c (b.toNat * 256))
def crc16 (bs : List Byte) : Nat := bs.foldl crc16Byte 0xFFFF

/-- A list of bytes cut or filled with zeros to a length. -/
def padTo (n : Nat) (bs : List Byte) : List Byte := (List.range n).map fun i => bs.getD i 0#8

/-- The 32 bytes of a frame (R476). -/
def frameBytes (f : TraceFrame) (delta : Nat) : List Byte :=
  let b := f.type :: f.source :: (leBytes 2 delta ++ padTo 26 f.payload)
  b ++ leBytes 2 (crc16 b)

/-- Frames that wait at a source: cores 0 to 15, and 16 for the Keeper. -/
def State.traceFifo (s : State) (k : Nat) : List TraceFrame := if k = 16 then s.obs.keeperFifo else tget [] s.obs.coreFifo k

/-- The next source with a frame, round-robin after the one served last. -/
def State.traceNext (s : State) : Option Nat :=
  ((List.range 17).map fun k => (s.obs.traceTurn + 1 + k) % 17).find? fun k => !(s.traceFifo k).isEmpty

/-- Take the oldest frame of a source. -/
def tracePop (s : State) (k : Nat) : State :=
  let o := s.obs
  { s with obs := { o with
      traceTurn := k,
      keeperFifo := if k = 16 then o.keeperFifo.drop 1 else o.keeperFifo,
      coreFifo := if k = 16 then o.coreFifo else tput o.coreFifo k ((tget [] o.coreFifo k).drop 1) } }

/-- The SYNC frame of now (R477). -/
def State.syncFrame (s : State) : TraceFrame :=
  { type := 0x5A#8, source := 16#8, time := s.esc.time,
    payload := leBytes 4 0xA5C33C5A ++ leBytes 8 s.esc.time.toNat ++ leBytes 6 s.esc.beatCount.toNat ++ leBytes 4 s.obs.frameSeq.toNat ++
      leBytes 4 s.obs.droppedSinceSync.toNat }

/-- DELTA of a frame whose event lies before the previous frame's is not stated: a free value (log entry 50). -/
def frameDelta (last time : W64) (free : W64) : Nat :=
  if last.toNat ≤ time.toNat then min 65535 (time.toNat - last.toNat) else bitField free.toNat 15 0

/-- A frame leaves on the port. -/
def emitFrame (s : State) (f : TraceFrame) (sync : Bool) : State :=
  let d := s.drawWord
  let s := d.2
  let o := s.obs
  { s with obs := { o with
      traceOut := frameBytes f (frameDelta o.lastFrameTime f.time d.1), lastFrameTime := f.time, frameSeq := o.frameSeq + 1#32,
      sinceSync := if sync then 0 else o.sinceSync + 1, droppedSinceSync := if sync then 0#32 else o.droppedSinceSync } }

/-- The next frame: SYNC when nothing waits, and once in every 1,024 frames. -/
def frameSend (s : State) : State :=
  match s.traceNext with
  | none => emitFrame s s.syncFrame true
  | some k =>
    if 1023 ≤ s.obs.sinceSync then emitFrame s s.syncFrame true
    else match s.traceFifo k with
      | f :: _ => emitFrame (tracePop s k) f false
      | [] => s

/-- TRACE_FRAME_SEND. -/
def execTraceFrameSend (s : State) : Host.Outcome State Fault Refusal := .next (if s.portAlive then frameSend s else s)

/-! ## Hang snapshot (R473 to R475) -/

/-- A write of PM_SNAP_CMD. -/
def snapCommand (s : State) (v : W64) : State :=
  let s := { s with obs := { s.obs with snapArm := bitAt v.toNat 1 } }
  if bitAt v.toNat 0 then snapBegin s else s

/-- Offset of PM_SNAP_CMD. -/
def PM_SNAP_CMD : Nat := 0x70030C

/-- TAKE: ARM_STOP stands as it is. -/
def execTake (who : Who) (s : State) : Host.Outcome State Fault Refusal :=
  .next (hostWrite s who PM_SNAP_CMD false snapBegin)

/-- A core entry. -/
def State.snapCore (s : State) (c : Nat) : List Byte :=
  leBytes 8 (readCore s c 0).toNat ++ leBytes 8 (readCore s c 0xC0000).toNat ++ leBytes 4 (readCore s c 0xC0018).toNat ++
    leBytes 4 (s.coreStation c).toNat ++ leBytes 8 (readCore s c 0x20).toNat

/-- A queue entry; a FREE queue's is all zero. -/
def State.snapQueue (s : State) (n : Nat) : List Byte :=
  let q := s.queue n
  if q.state = .free then leBytes 16 0
  else leBytes 4 q.head.toNat ++ leBytes 4 q.tail.toNat ++ leBytes 2 q.ctx ++ leBytes 1 q.state.code ++ leBytes 1 q.pastFetch ++
    leBytes 1 q.part ++ leBytes 3 0

/-- Kind, name, offset, threshold and current value of a pending wait. -/
def State.snapBody (s : State) (b : Body) : List Byte := match b with
  | .waitFence _ t off thr => leBytes 2 0 ++ leBytes 4 t.toNat ++ leBytes 8 off ++ leBytes 8 thr.toNat ++
      leBytes 8 (s.fenceValue (handleIndex t) off).toNat
  | .waitCounter _ id thr => leBytes 2 1 ++ leBytes 4 id.toNat ++ leBytes 8 0 ++ leBytes 8 thr.toNat ++
      leBytes 8 (s.counter id.toNat).value.toNat
  | .barrier _ fl ep => leBytes 2 2 ++ leBytes 4 fl ++ leBytes 8 0 ++ leBytes 8 ep.toNat ++ leBytes 8 (s.flight fl).round.toNat
  | _ => leBytes 30 0

/-- The pending waits, in order of queue: the order of the slots is the model's (log entry 51). -/
def State.snapWaits (s : State) : List (List Byte) :=
  s.queues.flatMap fun q => (q.2.cmds.filter fun c => c.phase == .pendingWait).map fun c =>
    leBytes 2 (q.1 + 32768) ++ s.snapBody c.body

/-- Lane entries of a core: send lanes, then receive lanes. -/
def State.snapLanes (s : State) (c : Nat) : List (List Byte) :=
  let k := s.core c
  (k.sendLanes.map fun l => leBytes 1 c ++ leBytes 1 0 ++ leBytes 2 (l.1 % 64) ++ leBytes 2 (l.1 / 64) ++ leBytes 1 l.2.slots ++
      leBytes 1 l.2.hops ++ leBytes 2 l.2.credits ++ leBytes 2 l.2.ptr ++ leBytes 4 0) ++
    k.recvLanes.map fun l => leBytes 1 c ++ leBytes 1 1 ++ leBytes 2 (l.1 % 64) ++ leBytes 2 (l.1 / 64) ++ leBytes 1 l.2.slots ++
      leBytes 1 l.2.hops ++ leBytes 2 l.2.held ++ leBytes 2 l.2.ptr ++ leBytes 4 0

/-- Every lane entry, in core order. -/
def State.allLanes (s : State) : List (List Byte) := (List.range 16).flatMap s.snapLanes

/-- Lane entries for which the buffer has room. -/
def State.laneRoom (s : State) : Nat := (s.obs.snapLen.toNat - 656000) / 16

/-- The header of a snapshot. -/
def State.snapHeader (s : State) : List Byte :=
  leBytes 4 0x50414E53 ++ leBytes 2 1 ++ leBytes 2 (b2n s.fr.stopped + 2 * b2n (decide (s.laneRoom < s.allLanes.length))) ++
    leBytes 8 s.esc.time.toNat ++ leBytes 8 s.esc.beatCount.toNat ++ leBytes 4 (min s.laneRoom s.allLanes.length) ++ leBytes 100 0

/-- The bytes of a snapshot (R474). -/
def State.snapshot (s : State) : List Byte :=
  s.snapHeader ++ (List.range 16).flatMap s.snapCore ++ (List.range 8192).flatMap s.snapQueue ++
    (List.range 16384).flatMap (fun i => padTo 32 (s.snapWaits.getD i [])) ++ (s.allLanes.take s.laneRoom).flatten

/-- The snapshot is written. -/
def snapEnd (s : State) : State :=
  let bs := s.snapshot
  let trunc := decide (s.laneRoom < s.allLanes.length)
  let s := blockWrite s .keeper 0 none s.poolPorts s.obs.snapAddr.toNat s.obs.snapAddr.toNat bs
  { s with obs := { s.obs with
      snapBusy := false, snapDone := true, snapTrunc := trunc,
      snapBytes := BitVec.ofNat 32 bs.length } }

/-- SNAPSHOT_DONE. A buffer that runs past the end of device memory faults (R13). -/
def execSnapshotDone (s : State) : Host.Outcome State Fault Refusal :=
  if s.watched && s.obs.snapBusy then
    if s.obs.snapAddr.toNat + s.obs.snapLen.toNat ≤ 2 ^ 48 then .next (snapEnd s) else .fault .addressSpace
  else .next s

end Sys2Proof.Machine
end

