-- ==== Sys2Proof/Machine/Debug.lean ====
section
/-! DEFINITION. Halt-all and halt hold by the DBG_ registers (R480, R481), and the TAP (R484, R485). -/

namespace Sys2Proof.Machine

/-! ## The DBG_ registers (R480 to R482, R486) -/

/-- Halt-all raised by the manager or the TAP: nothing more while it is in force. -/
def haltRaise (s : State) : State := if s.obs.halted then s else haltAll s

/-- A write of DBG_CTL. HOLD changes only while unlocked; a locked write that would change it is reported (R481). -/
def setDbgCtl (s : State) (v : W64) : State :=
  let hold := BitVec.ofNat 16 (bitField v.toNat 31 16)
  let s :=
    if s.sec.unlocked then { s with obs := { s.obs with hold := hold } }
    else if hold = s.obs.hold then s
    else accessDenied s
  if bitAt v.toNat 0 then haltRaise s else s

/-- A write of DBG_RELEASE (R481): the named cores that are HELD go on to their halt, unless halt-all stops them. -/
def dbgReleaseCores (s : State) (cores : BitVec 16) : State :=
  if s.sec.unlocked then
    if s.obs.halted then s else (setBits 16 cores.toNat).foldl releaseHeld s
  else accessDenied s

/-- A write of DBG_BP[k] (R481, R482). -/
def setBreakpoint (s : State) (k : Nat) (v : W64) : State :=
  if s.sec.unlocked then
    { s with obs := { s.obs with
        bps := tput s.obs.bps k (fields [(63, b2n (bitAt v.toNat 63)), (48, bitField v.toNat 60 48), (0, bitField v.toNat 31 0)]) } }
  else accessDenied s

/-- Offsets of DBG_CTL and DBG_RELEASE. -/
def DBG_CTL : Nat := 0x701000
def DBG_RELEASE : Nat := 0x701004

/-- HALT_ALL by the manager (R480): DBG_CTL.HALT_ALL, HOLD as it stands. -/
def execHaltAll (who : Who) (s : State) : Host.Outcome State Fault Refusal := .next (hostWrite s who DBG_CTL false haltRaise)

/-- DBG_RELEASE (R481). -/
def execDbgRelease (who : Who) (cores : BitVec 16) (s : State) : Host.Outcome State Fault Refusal :=
  .next (hostWrite s who DBG_RELEASE false fun s => dbgReleaseCores s cores)

/-! ## The TAP (R484) -/

/-- The TAP itself works in every power state but OFF, and out of POR (R489, R491). -/
def State.tapAlive (s : State) : Bool := s.boot.power != .off && !s.boot.porAsserted

/-- An instruction is selected and its capture stands in the data register. -/
def tapTake (s : State) (ir : BitVec 8) (dr : List W64) : State := { s with tap := { s.tap with ir := ir, dr := dr } }

/-- The data register of BYPASS is one bit, which captures 0 and then holds what TDI shifted in. -/
def tapBypass (s : State) (tdi : Bool) : State := { s with tap := { s.tap with ir := 0xFF#8, bypass := tdi } }

/-- An instruction marked unlocked only: while locked it raises DEBUG_ATTACK and acts as BYPASS (R7, R484), in every state in
which the TAP works. What it reads and halts is without power in RETENTION. -/
def tapUnlocked (s : State) (f : State → State) : State :=
  if !s.tapAlive then s
  else if !s.sec.unlocked then tapBypass (tamperRaise s 2) false
  else if s.portAlive then f s
  else s

/-- BYPASS. -/
def execBypass (tdi : Bool) (s : State) : Host.Outcome State Fault Refusal := .next (if s.tapAlive then tapBypass s tdi else s)

/-- The 32 bits of IDCODE. -/
def State.idcodeWord (s : State) : W64 := fields [(28, 1), (12, 0x4E47), (1, s.fuse.manufacturer.toNat), (0, 1)]

/-- IDCODE. -/
def execIdcode (s : State) : Host.Outcome State Fault Refusal :=
  .next (if s.tapAlive then tapTake s 0x01#8 [s.idcodeWord] else s)

/-- The 32 bits of STATUS. -/
def State.tapStatus (s : State) : W64 :=
  fields [(31, b2n s.sec.dbgBusy), (30, b2n s.sec.unlocked), (16, b2n s.obs.halted), (0, s.sec.dbgCode.toNat)]

/-- STATUS. -/
def execStatus (s : State) : Host.Outcome State Fault Refusal :=
  .next (if s.tapAlive then tapTake s 0x10#8 [s.tapStatus] else s)

/-- CHALLENGE: capture of SEC_DBG_CHALLENGE. -/
def execChallenge (s : State) : Host.Outcome State Fault Refusal :=
  .next (if s.tapAlive then tapTake s 0x11#8 ((List.range 6).map (digestWord s.sec.challenge)) else s)

/-- RESPONSE: update of the 45,568-bit register with a response (R408). -/
def execResponse (bytes : List Byte) (s : State) : Host.Outcome State Fault Refusal :=
  .next (if s.tapAlive then tapTake { s with sec := { s.sec with response := padTo signedLen bytes } } 0x12#8 [] else s)

/-- UNLOCK through the TAP: an update with 1 verifies the response that RESPONSE loaded, as R409. -/
def execTapUnlock (update : Bool) (_ : Unit) (s : State) : Host.Outcome State Fault Refusal :=
  .next (if s.tapAlive then
    let t := tapTake s 0x13#8 []
    if update && s.portAlive then unlockWith t (padTo signedLen t.sec.response) false else t
  else s)

/-- HALT_ALL through the TAP (R480, R484). -/
def execTapHaltAll (update : Bool) (s : State) : Host.Outcome State Fault Refusal :=
  .next (tapUnlocked s fun s =>
    let s := tapTake s 0x20#8 []
    if update then haltRaise s else s)

/-! ## Scan-out (R485) -/

/-- SCAN_SEL: capture of the old chain's length, whose number of bits the spec does not state (log entry 20), then update. -/
def execScanSel (chain : BitVec 16) (s : State) : Host.Outcome State Fault Refusal :=
  .next (tapUnlocked s fun s =>
    let d := s.drawWord
    let s := tapTake d.2 0x21#8 [BitVec.ofNat 64 (bitField d.1.toNat 15 0)]
    { s with tap := { s.tap with chain := chain } })

/-- PC, S1 to S31, F0 to F63 and the bound counter of a core. -/
def Core.scanWords (k : Core) : List W64 :=
  BitVec.ofNat 64 k.pc :: ((List.range 31).map fun n => k.reg (n + 1)) ++ [k.flags, k.boundUsed.setWidth 64]

/-- The chain registers of a core, 2 KiB each (R217). -/
def Core.chainWords (k : Core) : List W64 :=
  (List.range 4).flatMap fun n => (List.range 256).map fun i => wordAt (tget [] k.ve.chains n) i

/-- Accumulator words of a core, in order of row and column. -/
def Core.accWords (k : Core) : List W64 := (List.range 262144).map fun i => (tget 0#32 k.me.acc i).setWidth 64

/-- What the selected chain captures: zeros outside halt-all and for a core whose latest job had a sealed share. Order and
lengths within a chain, and the parts of a chain that the state does not hold bit for bit, are free (log entry 20). -/
def scanCapture (s : State) (rest : W64) : List W64 :=
  let c := s.tap.chain.toNat
  if !s.obs.halted then []
  else if c < 2 then [rest]
  else if c < 18 then
    (let k := s.core (c - 2)
     if k.lastSealed then [] else k.scanWords ++ k.chainWords ++ [rest])
  else if c < 34 then
    (let k := s.core (c - 18)
     if k.lastSealed then [] else k.accWords)
  else if c < 82 then [rest]
  else []

/-- SCAN_DATA. -/
def execScanData (s : State) : Host.Outcome State Fault Refusal :=
  .next (tapUnlocked s fun s =>
    let d := s.drawWord
    tapTake d.2 0x22#8 (scanCapture s d.1))

/-- SCRATCH_ADDR: core in bits 31 to 28 and line in bits 24 to 7. -/
def execScratchAddr (value : W32) (s : State) : Host.Outcome State Fault Refusal :=
  .next (tapUnlocked s fun s =>
    let s := tapTake s 0x23#8 []
    { s with tap := { s.tap with
        scratchCore := BitVec.ofNat 4 (bitField value.toNat 31 28),
        scratchLine := BitVec.ofNat 18 (bitField value.toNat 24 7) } })

/-- A scratch line lies in a sealed share (R104). -/
def State.lineSealed (s : State) (c line : Nat) : Bool :=
  s.sealedRanges.any fun r => r.1 == c && overlaps r.2.1 r.2.2 (128 * line) 128

/-- A word of a core's scratch lies in a lane record of a station whose lanes stand on the core (R103). -/
def State.inRecord (s : State) (c off : Nat) : Bool := match s.run with
  | none => false
  | some r => r.img.stations.any fun t =>
    (((s.core c).sendLanes.any fun x => x.1 / 64 == t.index) || (s.core c).recvLanes.any fun x => x.1 / 64 == t.index) &&
      (let first := r.place.baseOf t.index c + r.img.workLen t
       decide (first ≤ off) && decide (off < first + 64 * (r.img.sendLanes t.index + r.img.recvLanes t.index)))

/-- The 1,024 bits that SCRATCH_DATA captures. What bits of a lane record hold which count the spec does not say: they are free
(log entry 92). -/
def scratchCapture (s : State) (c line : Nat) (free : List W64) : List W64 :=
  if s.obs.halted && s.present c && !s.lineSealed c line then
    (List.range 16).map fun j => if s.inRecord c (128 * line + 8 * j) then free.getD j 0#64
      else wordAt ((s.core c).scratchBytes (128 * line) 128) j
  else List.replicate 16 0#64

/-- SCRATCH_DATA: the addressed line, then the next (R484, R485). -/
def execScratchData (s : State) : Host.Outcome State Fault Refusal :=
  .next (tapUnlocked s fun s =>
    let d := s.drawWords 16
    let t := tapTake d.2 0x24#8 (scratchCapture s s.tap.scratchCore.toNat s.tap.scratchLine.toNat d.1)
    { t with tap := { t.tap with scratchLine := t.tap.scratchLine + 1#18 } })

end Sys2Proof.Machine
end

