-- ==== Sys2Proof/Machine/RegWrite.lean ====
section
/-! DEFINITION. Register writes: what a write does to every register of the block window (R9, R11, and the register tables of
each chapter), REGISTER_WRITE, and accesses to a fused-off core's window (R519). -/

namespace Sys2Proof.Machine

/-- Which part of a register an access writes (R11). -/
inductive Part where
  | full | low | high
  deriving DecidableEq, Repr

/-- The value a register would hold if all its fields were RW: the parts that are not written keep what they read. -/
def Part.merge (p : Part) (old w : W64) : W64 := match p with
  | .full => w
  | .low => setHalf old false w
  | .high => setHalf old true (w >>> 32)

/-- Clear the bits of a word that are written 1 (R9 RW1C). -/
def clearBits {n : Nat} (old : BitVec n) (w : W64) : BitVec n := old &&& ~~~(w.setWidth n)

/-- A flag that a written 1 clears (R9 RW1C). -/
def clearFlag (old : Bool) (w : W64) (bit : Nat) : Bool := old && !bitAt w.toNat bit

/-- Bits hi to lo of a written value, as a field. -/
def fieldOf (n : Nat) (w : W64) (hi lo : Nat) : BitVec n := BitVec.ofNat n (bitField w.toNat hi lo)

/-- An address field: its bits hi to lo, the bits below zero. -/
def addrField (w : W64) (hi lo : Nat) : BitVec 48 := BitVec.ofNat 48 (bitField w.toNat hi lo * 2 ^ lo)

/-! ## Keeper (R179, R293, R349, R380, R515): `m` is the merged value, `w` the written one -/

/-- KP_REMOTE_LIMIT: 0 is stored as 1 and more than 1,000,000 as 1,000,000 (R349). -/
def remoteLimit (m : W64) : BitVec 20 := BitVec.ofNat 20 (max 1 (min 1000000 (bitField m.toNat 19 0)))

/-- KP_DIRTY_BASE0 and 1: ignored while ENABLE is 1. -/
def setDirtyBase (s : State) (k : Nat) (m : W64) : State :=
  let n := s.kp.instSel.toNat
  if (s.inst n).dirty.enable then s
  else modDirty s n fun d => if k = 0 then { d with base0 := addrField m 47 6 } else { d with base1 := addrField m 47 6 }

def writeKeeper (s : State) (off : Nat) (m w : W64) : State := match off with
  | 0x500 => setLoaderMode s m
  | 0x510 => chSample { s with kp := { s.kp with vfValid := clearFlag s.kp.vfValid w 63 } } 97
  | 0x600 => setObjBase s m
  | 0x610 => { s with kp := { s.kp with queueSel := fieldOf 13 m 12 0 } }
  | 0x628 => { s with kp := { s.kp with ctxSel := fieldOf 11 m 10 0 } }
  | 0x638 => chSample { s with kp := { s.kp with waitFullSeen := clearFlag s.kp.waitFullSeen w 31 } } 106
  | 0x700 => { s with kp := { s.kp with remoteLimitUs := remoteLimit m } }
  | 0x800 => { s with kp := { s.kp with instSel := fieldOf 6 m 5 0 } }
  | 0x818 => setDirtyBase s 0 m
  | 0x820 => setDirtyBase s 1 m
  | 0x90C => bootCommand s w
  | 0x910 => { s with boot := { s.boot with patchAddr := addrField m 47 6 } }
  | 0x918 => { s with boot := { s.boot with patchLen := fieldOf 32 m 31 0 } }
  | _ => s

/-! ## Admission (R54) -/

/-- AU_STATUS: its three events are cleared by 1. -/
def setAuStatus (s : State) (w : W64) : State :=
  chSample { s with au := { s.au with
    admitted := clearFlag s.au.admitted w 4, refused := clearFlag s.au.refused w 3,
    busyReject := clearFlag s.au.busyReject w 2 } } 96

def writeEsc (s : State) (off : Nat) (m w : W64) : State := match off with
  | 0x100100 => { s with au := { s.au with imageAddr := addrField m 47 12 } }
  | 0x100108 => { s with au := { s.au with imageLen := fieldOf 32 m 31 0 } }
  | 0x10010C => auCommand s (bitAt w.toNat 0) (bitAt w.toNat 1)
  | 0x100110 => setAuStatus s w
  | _ => s

/-! ## Regulator (R349) -/

/-- RG_PART_CFG: a wait above 1,000,000 is stored as 1,000,000. -/
def setPartCfg (s : State) (p : Nat) (m : W64) : State :=
  s.modRgPart p fun x => { x with
    slowAlert := fieldOf 16 m 47 32, preemptWaitUs := BitVec.ofNat 20 (min 1000000 (bitField m.toNat 19 0)) }

def writeRg (s : State) (off : Nat) (m w : W64) : State := match off with
  | 0x200100 => { s with rg := { s.rg with
      selPart := fieldOf 3 m 26 24, selLevel := fieldOf 2 m 17 16, selId := fieldOf 13 m 12 0 } }
  | 0x200104 => setWeight s m
  | 0x200108 => queueCommand s w
  | 0x200110 => { s with rg := { s.rg with qSel := fieldOf 13 m 12 0 } }
  | 0x200200 => preemptCommand s w
  | 0x200208 => { s with rg := { s.rg with preLimitHit := clearFlag s.rg.preLimitHit w 29 } }
  | 0x200300 => { s with rg := { s.rg with shareSelPart := fieldOf 3 m 26 24, shareSelCtx := fieldOf 11 m 10 0 } }
  | 0x200308 => shareCommand s w
  | _ => if 0x200000 ≤ off ∧ off < 0x200040 then setPartCfg s (regIndex off 0x200000 8) m else s

/-! ## Counters and flights (R326) -/

/-- The registers that hold a flight's creation values: CFG and GRANT are ignored while the flight is not FREE. -/
def setFlightCfg (s : State) (m : W64) : State :=
  let n := s.sy.flightSel.toNat
  let f := s.flight n
  if f.state = .free then
    s.setFlight n { f with
      timeoutUs := fieldOf 32 m 63 32, parent := fieldOf 3 m 26 24, children := fieldOf 5 m 20 16, expect := fieldOf 16 m 15 0 }
  else s
def setFlightGrant (s : State) (m : W64) : State :=
  let n := s.sy.flightSel.toNat
  let f := s.flight n
  if f.state = .free then s.setFlight n { f with grant := m } else s
def setFlightStart (s : State) (m : W64) : State :=
  let n := s.sy.flightSel.toNat
  s.setFlight n { s.flight n with startRound := fieldOf 32 m 31 0 }

def writeSy (s : State) (off : Nat) (m w : W64) : State := match off with
  | 0x300000 => { s with sy := { s.sy with ctrSel := fieldOf 17 m 16 0 } }
  | 0x300010 => counterCommand s w
  | 0x300018 => { s with sy := { s.sy with reclaimRefused := clearFlag s.sy.reclaimRefused w 63 } }
  | 0x300020 => chSample { s with sy := { s.sy with fValid := clearFlag s.sy.fValid w 63 } } 98
  | 0x300030 => { s with sy := { s.sy with dirGraph := fieldOf 8 m 19 12, dirPos := fieldOf 12 m 11 0 } }
  | 0x300100 => { s with sy := { s.sy with flightSel := fieldOf 10 m 9 0 } }
  | 0x300108 => setFlightCfg s m
  | 0x300110 => setFlightGrant s m
  | 0x300118 => setFlightStart s m
  | 0x30011C => flightCommand s w
  | _ => s

/-! ## Chime (R452, R458, R464) -/

/-- CH_QSRC of the selected queue: a source below 128 stands for none. -/
def setQsrc (s : State) (m : W64) : State :=
  { s with chime := { s.chime with qsrc := tput s.chime.qsrc s.chime.qsrcSel.toNat (fieldOf 10 m 9 0) } }

/-- CH_TGT_CFG. -/
def setTgtCfg (s : State) (t : Nat) (m : W64) : State :=
  chEval (s.setTarget t { s.target t with
    wdog := bitAt m.toNat 31, ownerValid := bitAt m.toNat 30, owner := fieldOf 6 m 29 24, modCount := fieldOf 8 m 23 16,
    modUs := fieldOf 10 m 9 0 })

/-- First bit and number of bits of a word that a part covers. -/
def Part.first : Part → Nat
  | .high => 32 | _ => 0
def Part.count : Part → Nat
  | .full => 64 | _ => 32

/-- A pending or mask word: only the sources of the written half are written (log entry 52). -/
def writePend (s : State) (view : Option Nat) (word : Nat) (p : Part) (w : W64) : State :=
  pendBits s view (64 * word + p.first) p.count (w.toNat / 2 ^ p.first)
def writeMask (s : State) (view : Option Nat) (word : Nat) (p : Part) (w : W64) : State :=
  maskBits s view (64 * word + p.first) p.count (w.toNat / 2 ^ p.first)

/-- A register of a target's view. -/
def writeTarget (s : State) (t off : Nat) (p : Part) (m w : W64) : State :=
  if off < 0x80 then writePend s (some t) (off / 8) p w
  else if off < 0x100 then writeMask s (some t) ((off - 0x80) / 8) p w
  else if off = 0x180 then chComplete s (some t) (bitField w.toNat 9 0)
  else if off = 0x188 then setTgtCfg s t m
  else s

def writeCh (s : State) (off : Nat) (p : Part) (m w : W64) : State :=
  if 0x400000 ≤ off ∧ off < 0x401000 then srcConfig s (regIndex off 0x400000 4) m
  else if 0x401000 ≤ off ∧ off < 0x401080 then writePend s none (regIndex off 0x401000 8) p w
  else if 0x401080 ≤ off ∧ off < 0x401100 then writeMask s none (regIndex off 0x401080 8) p w
  else if off = 0x401180 then chComplete s none (bitField w.toNat 9 0)
  else if off = 0x40118C then { s with chime := { s.chime with qsrcSel := fieldOf 13 m 12 0 } }
  else if off = 0x401190 then setQsrc s m
  else if 0x404000 ≤ off ∧ off < 0x406000 then writeTarget s ((off - 0x404000) / 0x400) ((off - 0x404000) % 0x400) p m w
  else s

/-! ## Security (R416) -/

/-- SEC_OTP_CMD; a record past the end of device memory faults (R13). -/
def writeOtp (s : State) (w : W64) : Host.Outcome State Fault Refusal :=
  let op := bitField w.toNat 1 0
  if s.otpBeyond op then .fault .addressSpace else .next (otpCommand s op (bitField w.toNat 5 4))

/-- SEC_DBG_CMD; a response past the end of device memory faults (R13). -/
def writeDbgCmd (s : State) (w : W64) : Host.Outcome State Fault Refusal :=
  if bitAt w.toNat 0 then (if s.unlockBeyond then .fault .addressSpace else .next (unlockAt s)) else .next s

def writeSec (s : State) (off : Nat) (m w : W64) : Host.Outcome State Fault Refusal := match off with
  | 0x500008 => .next { s with sec := { s.sec with otpAddr := addrField m 47 3 } }
  | 0x500010 => writeOtp s w
  | 0x500200 => .next { s with sec := { s.sec with keySel := fieldOf 9 m 8 0 } }
  | 0x500300 => .next (chSample { s with sec := { s.sec with pending := clearBits s.sec.pending w } } 103)
  | 0x500440 => .next { s with sec := { s.sec with dbgAddr := addrField m 47 6 } }
  | 0x500448 => writeDbgCmd s w
  | _ => .next s

/-! ## Twin and links (R449, R515) -/

/-- A digest with one of its six words replaced. -/
def setDigestWord (d : Digest) (i : Nat) (v : W64) : Digest :=
  digestOfBytes ((List.range 6).flatMap fun k => leBytes 8 (if k = i then v else digestWord d k).toNat)

/-- TW_PEER_DIGEST: writable only while UNPAIRED. -/
def setPeerDigest (s : State) (i : Nat) (m : W64) : State :=
  if s.tw.state = .unpaired then { s with tw := { s.tw with peerDigest := setDigestWord s.tw.peerDigest i m } } else s

def writeTw (s : State) (off : Nat) (m w : W64) : State :=
  if off = 0x600000 then setTwCtl s m
  else if off = 0x600004 then twCommand s w
  else if 0x600010 ≤ off ∧ off < 0x600040 then setPeerDigest s (regIndex off 0x600010 8) m
  else if off = 0x601000 then setLinkEnable s 0 (bitAt m.toNat 0)
  else if 0x601100 ≤ off ∧ off < 0x601500 ∧ (off - 0x601100) % 0x100 = 0 then
    setLinkEnable s ((off - 0x601100) / 0x100 + 1) (bitAt m.toNat 0)
  else s

/-! ## Observation, debug, faults (R449, R486) -/

/-- PM_SNAP_STATUS. -/
def setSnapStatus (s : State) (w : W64) : State :=
  { s with obs := { s.obs with snapDone := clearFlag s.obs.snapDone w 63, snapRefused := clearFlag s.obs.snapRefused w 60 } }

/-- PM_OVF: clearing a bit does not unsaturate its slot. -/
def setPmOvf (s : State) (w : W64) : State :=
  chSample { s with obs := { s.obs with pm := { s.obs.pm with ovf := clearBits s.obs.pm.ovf w } } } 108

def writePm (s : State) (off : Nat) (m w : W64) : State := match off with
  | 0x700000 => pmCommand s w
  | 0x700008 => setPmOvf s w
  | 0x700400 => traceCommand s (fieldOf 2 m 1 0) (fieldOf 16 m 31 16)
  | 0x700300 => { s with obs := { s.obs with snapAddr := addrField m 47 6 } }
  | 0x700308 => { s with obs := { s.obs with snapLen := fieldOf 32 m 31 0 } }
  | 0x70030C => snapCommand s w
  | 0x700310 => setSnapStatus s w
  | 0x701000 => setDbgCtl s w
  | 0x701004 => dbgReleaseCores s (fieldOf 16 w 15 0)
  | _ => if 0x701010 ≤ off ∧ off < 0x701030 then setBreakpoint s (regIndex off 0x701010 8) m else s

def writeFr (s : State) (off : Nat) (m w : W64) : State := match off with
  | 0x800000 => { s with fr := { s.fr with classSeen := clearBits s.fr.classSeen w } }
  | 0x800008 => chSample { s with fr := { s.fr with firstValid := clearFlag s.fr.firstValid w 63 } } 100
  | 0x800100 => { s with fr := { s.fr with portSel := fieldOf 6 m 5 0 } }
  | 0x800110 => { s with fr := { s.fr with thrKind := fieldOf 2 m 31 30, thrId := fieldOf 11 m 10 0 } }
  | 0x800130 => frCommand s w
  | 0x800200 => chSample { s with fr := { s.fr with stopValid := clearFlag s.fr.stopValid w 63 } } 101
  | 0x800208 => chSample { s with fr := { s.fr with wdogFired := clearFlag s.fr.wdogFired w 31 } } 102
  | _ => s

/-! ## Mailbox pages (R354, R355, R380) -/

/-- MB_RSP_STATUS and MB_NOTICE. -/
def setRspStatus (s : State) (n : Nat) (w : W64) : State :=
  chSample (s.modPage n fun p => { p with done := clearFlag p.done w 63, busyReject := clearFlag p.busyReject w 61 }) n
def setNotice (s : State) (n : Nat) (w : W64) : State :=
  chSample (s.modPage n fun p => { p with noticeValid := clearFlag p.noticeValid w 63, noticeLost := clearFlag p.noticeLost w 62 }) n

/-- MB_REQ_GO with the words that stand in the page. -/
def writeGo (s : State) (who : Who) (n : Nat) (w : W64) : Host.Outcome State Fault Refusal :=
  if s.goBeyond n who (s.page n).words then .fault .addressSpace
  else .next (mbGo s n who (fieldOf 16 w 15 0))

/-- A register of the page of an instance; while it is FREE writes are ignored. -/
def writePage (s : State) (who : Who) (n off : Nat) (p : Part) (m w : W64) : Host.Outcome State Fault Refusal :=
  if (s.inst n).state = .free then .next s
  else if off < 0x40 then .next (mbWord s n (off / 8) m)
  else if off = 0x40 then writeGo s who n w
  else if off = 0x48 then .next (setRspStatus s n w)
  else if off = 0x88 then .next (setNotice s n w)
  else if off = 0x8000 then .next (if p = .full then ringBell s n w else s)
  else .next s

/-! ## Core windows (R133, R179) -/

def writeCore (s : State) (c off : Nat) (w : W64) : State := match off with
  | 8 => chSample (s.modCore c fun k => { k with hValid := clearFlag k.hValid w 63 }) (64 + c)
  | 0xC0008 => chSample (s.modCore c fun k => { k with se := { k.se with fValid := clearFlag k.se.fValid w 63 } }) (80 + c)
  | _ => s

/-! ## A register write -/

/-- A write of the register that starts at an offset: `p` the part written, `w` the value with the other part zero. A
command register takes an unwritten half as zero (log entry 52). -/
def writeReg (s : State) (who : Who) (off : Nat) (p : Part) (w : W64) : Host.Outcome State Fault Refusal :=
  let m := p.merge (readReg s off) w
  if off = 0x828 then putDirtyCtl s w
  else if off < 0x100000 then .next (writeKeeper s off m w)
  else if off < 0x200000 then .next (writeEsc s off m w)
  else if off < 0x300000 then .next (writeRg s off m w)
  else if off < 0x400000 then .next (writeSy s off m w)
  else if off < 0x500000 then .next (writeCh s off p m w)
  else if off < 0x600000 then writeSec s off m w
  else if off < 0x700000 then .next (writeTw s off m w)
  else if off < 0x800000 then .next (writePm s off m w)
  else if off < 0x900000 then .next (writeFr s off m w)
  else if 0x1000000 ≤ off ∧ off < 0x1400000 then writePage s who ((off - 0x1000000) / 0x10000) ((off - 0x1000000) % 0x10000) p m w
  else if 0x2000000 ≤ off ∧ off < 0x3000000 then .next (writeCore s ((off - 0x2000000) / 0x100000) ((off - 0x2000000) % 0x100000) w)
  else .next s

/-- A 32-bit write of the word at an offset: a register, or half of one (R11). -/
def writeWord (s : State) (who : Who) (off : Nat) (v : Nat) : Host.Outcome State Fault Refusal := match regRowAt off with
  | none => .next s
  | some r =>
    let w := BitVec.ofNat 64 (v % 2 ^ 32)
    if r.bytes = 4 then writeReg s who off .full w
    else if r.start off = off then writeReg s who off .low w
    else writeReg s who (r.start off) .high (w <<< 32)

/-- The upper register of a pair is subject to its own access class. -/
def writeUpper (s : State) (who : Who) (off : Nat) (v : Nat) : Host.Outcome State Fault Refusal :=
  if s.reaches who off true then writeWord s who off v else .next (accessDenied s)

/-- A 64-bit write: a 64-bit register, or both registers of a pair, the lower first (R11). -/
def writeDouble (s : State) (who : Who) (off : Nat) (d : W64) : Host.Outcome State Fault Refusal :=
  match regRowAt off with
  | some r => if r.bytes = 8 then writeReg s who off .full d else writePair
  | none => writePair
where
  writePair : Host.Outcome State Fault Refusal :=
    match writeWord s who off (d.toNat % 2 ^ 32) with
    | .next t => writeUpper t who (off + 4) (d.toNat / 2 ^ 32)
    | o => o

/-- REGISTER_WRITE (R9, R11): a write of any offset of the block window. -/
def execRegisterWrite (who : Who) (off : BitVec 26) (wide : Bool) (data : W64) (s : State) : Host.Outcome State Fault Refusal :=
  match hostCheck s who off.toNat true wide with
  | .ignored s => .next s
  | .granted => if wide then writeDouble s who off.toNat data else writeWord s who off.toNat data.toNat

/-- FUSED_WINDOW_ACCESS (R519): an access to the window of a fused-off core, as the port's checks answer it. An offset that lies
in no such window is no such access (log entry 53). -/
def execFusedWindowAccess (who : Who) (off : BitVec 26) (write : Bool) (s : State) : Host.Outcome State Fault Refusal :=
  .next (match windowCore off.toNat with
    | none => s
    | some c =>
      if s.present c then s
      else match hostCheck s who off.toNat write false with
        | .ignored t => t
        | .granted => s)

end Sys2Proof.Machine
end

