-- ==== Sys2Proof/Machine/Dispatch.lean ====
section
/-! DEFINITION. The dispatcher: one arm per command of the opcode table, each one direct call of that command's meaning. -/

namespace Sys2Proof.Machine

/-- The effect of a command on everything but the queue of waiting commands. -/
def exec (i : Instr) (s : State) : Host.Outcome State Fault Refusal :=
  match i with
  | .porN asserted => Sys2Proof.Machine.execPorN asserted s
  | .blkRstN asserted => Sys2Proof.Machine.execBlkRstN asserted s
  | .romInitDone selfCheckOk => Sys2Proof.Machine.execRomInitDone selfCheckOk s
  | .load who => Sys2Proof.Machine.execLoad who s
  | .patchVerifyDone v => Sys2Proof.Machine.execPatchVerifyDone v s
  | .fusedWindowAccess who off write => Sys2Proof.Machine.execFusedWindowAccess who off write s
  | .registerWrite who off wide data => Sys2Proof.Machine.execRegisterWrite who off wide data s
  | .retReq => Sys2Proof.Machine.execRetReq s
  | .retAck => Sys2Proof.Machine.execRetAck s
  | .wake => Sys2Proof.Machine.execWake s
  | .chimeRestoreDone => Sys2Proof.Machine.execChimeRestoreDone s
  | .mpTrainDone port level rdCredits wrCredits => Sys2Proof.Machine.execMpTrainDone port level rdCredits wrCredits s
  | .mpPause port level ns => Sys2Proof.Machine.execMpPause port level ns s
  | .mpThrottle port tag asserted ns => Sys2Proof.Machine.execMpThrottle port tag asserted ns s
  | .data port poison late reader => Sys2Proof.Machine.execData port poison late reader s
  | .wack a => Sys2Proof.Machine.execWack a s
  | .adata a old => Sys2Proof.Machine.execAdata a old s
  | .portFailed port => Sys2Proof.Machine.execPortFailed port s
  | .start who => Sys2Proof.Machine.execStart who s
  | .abort who => Sys2Proof.Machine.execAbort who s
  | .admissionVerifyDone v => Sys2Proof.Machine.execAdmissionVerifyDone v s
  | .admissionProveDone => Sys2Proof.Machine.execAdmissionProveDone s
  | .firstImageSwap => Sys2Proof.Machine.execFirstImageSwap s
  | .beat => Sys2Proof.Machine.execBeat s
  | .windowStart part win => Sys2Proof.Machine.execWindowStart part win s
  | .windowEnd part win => Sys2Proof.Machine.execWindowEnd part win s
  | .stationLaunch st => Sys2Proof.Machine.execStationLaunch st s
  | .freeLaunch part t => Sys2Proof.Machine.execFreeLaunch part t s
  | .boundOverrun core => Sys2Proof.Machine.execBoundOverrun core s
  | .holdTimeout core => Sys2Proof.Machine.execHoldTimeout core s
  | .jobEnd core => Sys2Proof.Machine.execJobEnd core s
  | .commit target => Sys2Proof.Machine.execCommit target s
  | .completionIndexWrite queue => Sys2Proof.Machine.execCompletionIndexWrite queue s
  | .icacheFill core event => Sys2Proof.Machine.execIcacheFill core event s
  | .nop core => Sys2Proof.Machine.execNop core s
  | .halt core => Sys2Proof.Machine.execHalt core s
  | .endOp core => Sys2Proof.Machine.execEndOp core s
  | .add core => Sys2Proof.Machine.execAdd core s
  | .sub core => Sys2Proof.Machine.execSub core s
  | .mul core => Sys2Proof.Machine.execMul core s
  | .andOp core => Sys2Proof.Machine.execAndOp core s
  | .orOp core => Sys2Proof.Machine.execOrOp core s
  | .xorOp core => Sys2Proof.Machine.execXorOp core s
  | .shl core => Sys2Proof.Machine.execShl core s
  | .shr core => Sys2Proof.Machine.execShr core s
  | .sar core => Sys2Proof.Machine.execSar core s
  | .minOp core => Sys2Proof.Machine.execMinOp core s
  | .maxOp core => Sys2Proof.Machine.execMaxOp core s
  | .slt core => Sys2Proof.Machine.execSlt core s
  | .sltu core => Sys2Proof.Machine.execSltu core s
  | .lih core => Sys2Proof.Machine.execLih core s
  | .ld a => Sys2Proof.Machine.execLd a s
  | .st core => Sys2Proof.Machine.execSt core s
  | .b core => Sys2Proof.Machine.execB core s
  | .beq core => Sys2Proof.Machine.execBeq core s
  | .bne core => Sys2Proof.Machine.execBne core s
  | .blt core => Sys2Proof.Machine.execBlt core s
  | .bge core => Sys2Proof.Machine.execBge core s
  | .bltu core => Sys2Proof.Machine.execBltu core s
  | .bal core => Sys2Proof.Machine.execBal core s
  | .jr core => Sys2Proof.Machine.execJr core s
  | .mfs core => Sys2Proof.Machine.execMfs core s
  | .fclrm core => Sys2Proof.Machine.execFclrm core s
  | .store core => Sys2Proof.Machine.execStore core s
  | .send core => Sys2Proof.Machine.execSend core s
  | .mcast core => Sys2Proof.Machine.execMcast core s
  | .release core => Sys2Proof.Machine.execRelease core s
  | .fence core => Sys2Proof.Machine.execFence core s
  | .streamOpStart a thread => Sys2Proof.Machine.execStreamOpStart a thread s
  | .streamOpComplete core thread => Sys2Proof.Machine.execStreamOpComplete core thread s
  | .tileArrival a lane => Sys2Proof.Machine.execTileArrival a lane s
  | .creditReturn a lane => Sys2Proof.Machine.execCreditReturn a lane s
  | .counterUpdate home err => Sys2Proof.Machine.execCounterUpdate home err s
  | .watchPush core => Sys2Proof.Machine.execWatchPush core s
  | .mwld core => Sys2Proof.Machine.execMwld core s
  | .mma core => Sys2Proof.Machine.execMma core s
  | .mdrain core => Sys2Proof.Machine.execMdrain core s
  | .mzero core => Sys2Proof.Machine.execMzero core s
  | .matrixOpStart core err => Sys2Proof.Machine.execMatrixOpStart core err s
  | .matrixOpComplete core path => Sys2Proof.Machine.execMatrixOpComplete core path s
  | .vadd core => Sys2Proof.Machine.execVadd core s
  | .vsub core => Sys2Proof.Machine.execVsub core s
  | .vmul core => Sys2Proof.Machine.execVmul core s
  | .vfma core => Sys2Proof.Machine.execVfma core s
  | .vmin core => Sys2Proof.Machine.execVmin core s
  | .vmax core => Sys2Proof.Machine.execVmax core s
  | .vclamp core => Sys2Proof.Machine.execVclamp core s
  | .vabs core => Sys2Proof.Machine.execVabs core s
  | .vneg core => Sys2Proof.Machine.execVneg core s
  | .vcopy core => Sys2Proof.Machine.execVcopy core s
  | .vrcp core => Sys2Proof.Machine.execVrcp core s
  | .vrsqrt core => Sys2Proof.Machine.execVrsqrt core s
  | .vsqrt core => Sys2Proof.Machine.execVsqrt core s
  | .vexp2 core => Sys2Proof.Machine.execVexp2 core s
  | .vlog2 core => Sys2Proof.Machine.execVlog2 core s
  | .vcmp core => Sys2Proof.Machine.execVcmp core s
  | .vsel core => Sys2Proof.Machine.execVsel core s
  | .vmand core => Sys2Proof.Machine.execVmand core s
  | .vmor core => Sys2Proof.Machine.execVmor core s
  | .vmnot core => Sys2Proof.Machine.execVmnot core s
  | .vrsum core => Sys2Proof.Machine.execVrsum core s
  | .vrmax core => Sys2Proof.Machine.execVrmax core s
  | .vrmin core => Sys2Proof.Machine.execVrmin core s
  | .vcvt core => Sys2Proof.Machine.execVcvt core s
  | .vcompress core => Sys2Proof.Machine.execVcompress core s
  | .vexpand core => Sys2Proof.Machine.execVexpand core s
  | .vectorGroupStart core err => Sys2Proof.Machine.execVectorGroupStart core err s
  | .vectorGroupComplete core => Sys2Proof.Machine.execVectorGroupComplete core s
  | .verifyScanDone => Sys2Proof.Machine.execVerifyScanDone s
  | .loaderModeWrite who data => Sys2Proof.Machine.execLoaderModeWrite who data s
  | .doorbell page who data => Sys2Proof.Machine.execDoorbell page who data s
  | .queueFetchSlot part => Sys2Proof.Machine.execQueueFetchSlot part s
  | .fetchRetry queue => Sys2Proof.Machine.execFetchRetry queue s
  | .launch queue => Sys2Proof.Machine.execLaunch queue s
  | .copy queue => Sys2Proof.Machine.execCopy queue s
  | .fill queue => Sys2Proof.Machine.execFill queue s
  | .copyFillStart part => Sys2Proof.Machine.execCopyFillStart part s
  | .copyFillComplete part => Sys2Proof.Machine.execCopyFillComplete part s
  | .wait queue => Sys2Proof.Machine.execWait queue s
  | .waitSatisfied queue => Sys2Proof.Machine.execWaitSatisfied queue s
  | .signal queue => Sys2Proof.Machine.execSignal queue s
  | .barrier queue => Sys2Proof.Machine.execBarrier queue s
  | .objectMapNew queue => Sys2Proof.Machine.execObjectMapNew queue s
  | .objectMapImport queue => Sys2Proof.Machine.execObjectMapImport queue s
  | .objectMapBind queue => Sys2Proof.Machine.execObjectMapBind queue s
  | .objectFree queue => Sys2Proof.Machine.execObjectFree queue s
  | .freeComplete index => Sys2Proof.Machine.execFreeComplete index s
  | .timestamp queue => Sys2Proof.Machine.execTimestamp queue s
  | .counterDump queue => Sys2Proof.Machine.execCounterDump queue s
  | .indirect queue => Sys2Proof.Machine.execIndirect queue s
  | .nopPacket queue => Sys2Proof.Machine.execNopPacket queue s
  | .basinFillDone slot => Sys2Proof.Machine.execBasinFillDone slot s
  | .objTableEnable who data => Sys2Proof.Machine.execObjTableEnable who data s
  | .objTableInitDone => Sys2Proof.Machine.execObjTableInitDone s
  | .ctxCreate m => Sys2Proof.Machine.execCtxCreate m s
  | .ctxDestroy m => Sys2Proof.Machine.execCtxDestroy m s
  | .queueCreate m => Sys2Proof.Machine.execQueueCreate m s
  | .queueDestroy m => Sys2Proof.Machine.execQueueDestroy m s
  | .queueReset m => Sys2Proof.Machine.execQueueReset m s
  | .counterAlloc m => Sys2Proof.Machine.execCounterAlloc m s
  | .instCreate m => Sys2Proof.Machine.execInstCreate m s
  | .instDisableSquash m => Sys2Proof.Machine.execInstDisableSquash m s
  | .instDisableDrain m => Sys2Proof.Machine.execInstDisableDrain m s
  | .drainTimeout inst => Sys2Proof.Machine.execDrainTimeout inst s
  | .disableComplete inst => Sys2Proof.Machine.execDisableComplete inst s
  | .instEnable m => Sys2Proof.Machine.execInstEnable m s
  | .instReset m => Sys2Proof.Machine.execInstReset m s
  | .teardownStepDone ctx => Sys2Proof.Machine.execTeardownStepDone ctx s
  | .instBind m => Sys2Proof.Machine.execInstBind m s
  | .keyLoad m v => Sys2Proof.Machine.execKeyLoad m v s
  | .keyErase m => Sys2Proof.Machine.execKeyErase m s
  | .attest m => Sys2Proof.Machine.execAttest m s
  | .attestSigned => Sys2Proof.Machine.execAttestSigned s
  | .recRing m => Sys2Proof.Machine.execRecRing m s
  | .stop who queue => Sys2Proof.Machine.execStop who queue s
  | .restart who queue => Sys2Proof.Machine.execRestart who queue s
  | .rebind who queue part => Sys2Proof.Machine.execRebind who queue part s
  | .rebindComplete => Sys2Proof.Machine.execRebindComplete s
  | .grant who size => Sys2Proof.Machine.execGrant who size s
  | .releaseShare who => Sys2Proof.Machine.execReleaseShare who s
  | .scratchClearDone core => Sys2Proof.Machine.execScratchClearDone core s
  | .weightWrite who data => Sys2Proof.Machine.execWeightWrite who data s
  | .preemptQueue who target => Sys2Proof.Machine.execPreemptQueue who target s
  | .preemptContext who target => Sys2Proof.Machine.execPreemptContext who target s
  | .preemptInstance who target => Sys2Proof.Machine.execPreemptInstance who target s
  | .preemptCores who part mask => Sys2Proof.Machine.execPreemptCores who part mask s
  | .preemptWaitExpiry part t => Sys2Proof.Machine.execPreemptWaitExpiry part t s
  | .remoteLimit core => Sys2Proof.Machine.execRemoteLimit core s
  | .setOp who value => Sys2Proof.Machine.execSetOp who value s
  | .reclaim who => Sys2Proof.Machine.execReclaim who s
  | .flightCreate who => Sys2Proof.Machine.execFlightCreate who s
  | .flightReset who => Sys2Proof.Machine.execFlightReset who s
  | .flightBreak who => Sys2Proof.Machine.execFlightBreak who s
  | .flightDestroy who => Sys2Proof.Machine.execFlightDestroy who s
  | .flightWatchdog flight => Sys2Proof.Machine.execFlightWatchdog flight s
  | .arrive h flight round => Sys2Proof.Machine.execArrive h flight round s
  | .releaseMessage h flight round => Sys2Proof.Machine.execReleaseMessage h flight round s
  | .breakMsg h flight round => Sys2Proof.Machine.execBreakMsg h flight round s
  | .programFirst who => Sys2Proof.Machine.execProgramFirst who s
  | .rotate who v => Sys2Proof.Machine.execRotate who v s
  | .revoke who slot => Sys2Proof.Machine.execRevoke who slot s
  | .unlock who v => Sys2Proof.Machine.execUnlock who v s
  | .unlockComplete => Sys2Proof.Machine.execUnlockComplete s
  | .glitch source => Sys2Proof.Machine.execGlitch source s
  | .pair who => Sys2Proof.Machine.execPair who s
  | .handover who => Sys2Proof.Machine.execHandover who s
  | .claim who => Sys2Proof.Machine.execClaim who s
  | .unpair who => Sys2Proof.Machine.execUnpair who s
  | .hello h digest => Sys2Proof.Machine.execHello h digest s
  | .proof h keysDigest sigsOk latencyNs => Sys2Proof.Machine.execProof h keysDigest sigsOk latencyNs s
  | .heartbeat h c => Sys2Proof.Machine.execHeartbeat h c s
  | .heartbeatSend => Sys2Proof.Machine.execHeartbeatSend s
  | .heartbeatLost => Sys2Proof.Machine.execHeartbeatLost s
  | .yield h kind lastRel => Sys2Proof.Machine.execYield h kind lastRel s
  | .recoveryLost h lastRel => Sys2Proof.Machine.execRecoveryLost h lastRel s
  | .twWitness level => Sys2Proof.Machine.execTwWitness level s
  | .serviceLoopOverrun sequencer => Sys2Proof.Machine.execServiceLoopOverrun sequencer s
  | .recoveryStop c => Sys2Proof.Machine.execRecoveryStop c s
  | .watchdogFire => Sys2Proof.Machine.execWatchdogFire s
  | .scrub target err => Sys2Proof.Machine.execScrub target err s
  | .refill who slot => Sys2Proof.Machine.execRefill who slot s
  | .pendingWrite who view word data => Sys2Proof.Machine.execPendingWrite who view word data s
  | .maskWrite who view word data => Sys2Proof.Machine.execMaskWrite who view word data s
  | .complete who view data => Sys2Proof.Machine.execComplete who view data s
  | .srcCfgWrite who source data => Sys2Proof.Machine.execSrcCfgWrite who source data s
  | .moderationTimeout target => Sys2Proof.Machine.execModerationTimeout target s
  | .chIdle target level => Sys2Proof.Machine.execChIdle target level s
  | .pmReset who => Sys2Proof.Machine.execPmReset who s
  | .traceOff who => Sys2Proof.Machine.execTraceOff who s
  | .traceEvents who => Sys2Proof.Machine.execTraceEvents who s
  | .traceFull who cores => Sys2Proof.Machine.execTraceFull who cores s
  | .traceFrameSend => Sys2Proof.Machine.execTraceFrameSend s
  | .take who => Sys2Proof.Machine.execTake who s
  | .snapshotDone => Sys2Proof.Machine.execSnapshotDone s
  | .haltAll who => Sys2Proof.Machine.execHaltAll who s
  | .dbgRelease who cores => Sys2Proof.Machine.execDbgRelease who cores s
  | .bypass tdi => Sys2Proof.Machine.execBypass tdi s
  | .idcode => Sys2Proof.Machine.execIdcode s
  | .status => Sys2Proof.Machine.execStatus s
  | .challenge => Sys2Proof.Machine.execChallenge s
  | .response bytes => Sys2Proof.Machine.execResponse bytes s
  | .tapUnlock update v => Sys2Proof.Machine.execTapUnlock update v s
  | .tapHaltAll update => Sys2Proof.Machine.execTapHaltAll update s
  | .scanSel chain => Sys2Proof.Machine.execScanSel chain s
  | .scanData => Sys2Proof.Machine.execScanData s
  | .scratchAddr value => Sys2Proof.Machine.execScratchAddr value s
  | .scratchData => Sys2Proof.Machine.execScratchData s
  | .dirtyEnable who => Sys2Proof.Machine.execDirtyEnable who s
  | .dirtyFlip who => Sys2Proof.Machine.execDirtyFlip who s
  | .dirtyDisable who => Sys2Proof.Machine.execDirtyDisable who s
  | .flipDone inst => Sys2Proof.Machine.execFlipDone inst s
  | .linkEnable who link enable => Sys2Proof.Machine.execLinkEnable who link enable s
  | .phyLock link level => Sys2Proof.Machine.execPhyLock link level s
  | .linkInit h buffers digest => Sys2Proof.Machine.execLinkInit h buffers digest s
  | .linkInitTimer link => Sys2Proof.Machine.execLinkInitTimer link s
  | .idle h => Sys2Proof.Machine.execIdle h s
  | .nak h expected => Sys2Proof.Machine.execNak h expected s
  | .linkSilence link => Sys2Proof.Machine.execLinkSilence link s
  | .streamLoad core => Sys2Proof.Machine.execStreamLoad core s
  | .killComplete core => Sys2Proof.Machine.execKillComplete core s
  | .fuseCommandDone => Sys2Proof.Machine.execFuseCommandDone s
  | .importKeyRegenerationDone => Sys2Proof.Machine.execImportKeyRegenerationDone s
  | .idleSend link => Sys2Proof.Machine.execIdleSend link s

end Sys2Proof.Machine
end

