-- ==== Sys2Proof/Safety.lean ====
section
/-! DEFINITION. What a safe run of the block is, and the words the statements share: when a command may have its effect, and
what it leaves alone. -/

namespace Sys2Proof

open Machine

/-- A step that neither faults nor is refused. -/
def SafeStep (s : State) : Prop := ∃ t, step s = .next t

/-- The first n steps from a state all answer a next state. -/
def SafeRun : Nat → State → Prop
  | 0, _ => True
  | n + 1, s => ∃ t, step s = .next t ∧ SafeRun n t

namespace Machine

/-- The trace FIFOs and drop counts and the event counters are all that differs. -/
def ObsKept (o p : Obs) : Prop :=
  p = { o with
    pm := p.pm, pmLatest := p.pmLatest, traceDropped := p.traceDropped, droppedSinceSync := p.droppedSinceSync,
    keeperFifo := p.keeperFifo, coreFifo := p.coreFifo }

/-- The first error record, the classes seen and the counts of corrected errors are all that differs. -/
def FrKept (f g : Fr) : Prop :=
  g = { f with
    classSeen := g.classSeen, firstValid := g.firstValid, firstClass := g.firstClass, firstUnit := g.firstUnit,
    firstCore := g.firstCore, firstPart := g.firstPart, firstBeat := g.firstBeat, firstCode := g.firstCode,
    firstAddr := g.firstAddr, ce := g.ce }

/-- t is s after reports alone: Chime sources and targets, trace frames, counts, error records and free values drawn. -/
def Reports (s t : State) : Prop :=
  ∃ c o f n, t = { s with chime := c, obs := o, fr := f, freeCount := n } ∧ ObsKept s.obs o ∧ FrKept s.fr f ∧
    c.qsrcSel = s.chime.qsrcSel ∧ c.qsrc = s.chime.qsrc ∧ c.heldLow = s.chime.heldLow

/-- The commands of every queue have distinct sequence numbers. -/
def DistinctCmds (s : State) : Prop := ∀ n, ((s.queue n).cmds.map fun c => c.seqNo).Nodup

/-- Commands are numbered apart, and below the number that the next one takes. -/
def Numbered (s : State) : Prop := DistinctCmds s ∧ ∀ n, ∀ c ∈ (s.queue n).cmds, c.seqNo < s.rg.cmdSeq

/-- The parts of the state. A report may change `fr`, `chime` and `obs`; `frCfg`, `chimeCfg` and `obsCfg` are the rest of
those three. `auIdle` is the admission unit while it is idle; `seqs` is that commands are
numbered apart, once they are; `form` is the canonical form of memory, once it has it. -/
inductive Field where
  | pending | fuse | boot | frozen | ports | writes | mem | poison | esc | au | run | basin | kp | gens | objs | ctxs |
    queues | insts | shares | rg | rgParts | jobs | nextJob | cores | counters | updates | flights | sy | sec | tw |
    links | fr | chime | obs | tap | freeCount | pool | frCfg | chimeCfg | obsCfg | auIdle | seqs | form
  deriving DecidableEq, Repr

/-- A part reads the same in two states. -/
def Field.same (s t : State) : Field → Prop
  | .pending => t.pending = s.pending
  | .fuse => t.fuse = s.fuse
  | .boot => t.boot = s.boot
  | .frozen => t.frozen = s.frozen
  | .ports => t.ports = s.ports
  | .writes => t.writes = s.writes
  | .mem => t.mem = s.mem
  | .poison => t.poison = s.poison
  | .esc => t.esc = s.esc
  | .au => t.au = s.au
  | .run => t.run = s.run
  | .basin => t.basin = s.basin
  | .kp => t.kp = s.kp
  | .gens => t.gens = s.gens
  | .objs => t.objs = s.objs
  | .ctxs => t.ctxs = s.ctxs
  | .queues => t.queues = s.queues
  | .insts => t.insts = s.insts
  | .shares => t.shares = s.shares
  | .rg => t.rg = s.rg
  | .rgParts => t.rgParts = s.rgParts
  | .jobs => t.jobs = s.jobs
  | .nextJob => t.nextJob = s.nextJob
  | .cores => t.cores = s.cores
  | .counters => t.counters = s.counters
  | .updates => t.updates = s.updates
  | .flights => t.flights = s.flights
  | .sy => t.sy = s.sy
  | .sec => t.sec = s.sec
  | .tw => t.tw = s.tw
  | .links => t.links = s.links
  | .fr => t.fr = s.fr
  | .chime => t.chime = s.chime
  | .obs => t.obs = s.obs
  | .tap => t.tap = s.tap
  | .freeCount => t.freeCount = s.freeCount
  | .pool => t.pool = s.pool
  | .frCfg => FrKept s.fr t.fr
  | .chimeCfg => t.chime.qsrcSel = s.chime.qsrcSel ∧ t.chime.qsrc = s.chime.qsrc ∧ t.chime.heldLow = s.chime.heldLow
  | .obsCfg => ObsKept s.obs t.obs
  | .auIdle => s.au.state = .idle → t.au = s.au
  | .seqs => Numbered s → Numbered t
  | .form => Memory.wf s.mem = true → Memory.wf t.mem = true

/-- Only the listed parts may differ. -/
def Only (l : List Field) (s t : State) : Prop := ∀ f, f ∉ l → f.same s t

/-- What a recovery stop or the kill of everything may change. -/
def stopParts : List Field :=
  [.writes, .mem, .poison, .au, .run, .pool, .gens, .ctxs, .queues, .insts, .rgParts, .jobs, .cores, .tw, .links, .fr,
    .chime, .obs, .freeCount]

/-- The bytes of t are those of s but for the bytes bs, which stand from address a on. -/
def Stores (s t : State) (a : Nat) (bs : List Byte) : Prop :=
  ∀ x, memGet t.mem x = if a ≤ x ∧ x < a + bs.length then bs.getD (x - a) 0#8 else memGet s.mem x

/-- t is s after the refusal of an admission: only the refusal's registers and reports differ (R26, R44). -/
def Refuses (s t : State) (code : BitVec 16) (station : Nat) : Prop :=
  t.au.state = .idle ∧ t.au.cand = none ∧ t.au.candPlace = none ∧ t.au.refused = true ∧ t.au.lastCode = code ∧
    t.au.refusal.code = code ∧ t.au.refusal.station = BitVec.ofNat 16 station ∧ t.au.admitted = s.au.admitted ∧
    t.au.residency = s.au.residency ∧ t.au.activeBeat = s.au.activeBeat ∧ Only [.au, .auIdle, .chime, .obs] s t

/-- t is s after the recovery stop of R430: FR_STOP holds the cause, sequencer, port and beat, the release gate is closed,
admission is idle, and every job that stands on a core is being killed. -/
def StopsBlock (s t : State) (cause : BitVec 3) (seq : BitVec 4) (port : BitVec 8) : Prop :=
  t.fr.stopped = true ∧ t.fr.stopValid = true ∧ t.fr.stopCause = cause ∧ t.fr.stopSeq = seq ∧ t.fr.stopPort = port ∧
    t.fr.stopBeat = s.esc.beatCount.setWidth 32 ∧ t.tw.gateClosed = true ∧ t.au.state = .idle ∧ t.au.cand = none ∧
    (∀ n j, t.job n = some j → j.cores ≠ [] → j.kill ≠ none) ∧ Only (stopParts ++ [.frCfg, .obsCfg, .auIdle]) s t

end Machine

/-- The manager writes while the block answers: powered, out of reset, not halted, booted (R495, R512). -/
def ManagerMay (s : State) (who : Who) : Prop :=
  s.portAlive = true ∧ s.obs.halted = false ∧ s.boot.state = .ready ∧ who.inst = 0#6 ∧ who.valid = true

/-- The instance of a page, or the manager, writes a register of the page while the block answers (R495, R512, R517). -/
def PageMay (s : State) (who : Who) (page : BitVec 6) : Prop :=
  s.portAlive = true ∧ s.obs.halted = false ∧ s.boot.state = .ready ∧ (who.inst = 0#6 ∨ who.inst = page) ∧ who.valid = true

/-- The block runs: powered, out of reset, not in halt-all (R480, R490). -/
def Running' (s : State) : Prop := s.portAlive = true ∧ s.obs.halted = false

/-- The command answers a next state of which `p` holds. -/
def Answers (o : Host.Outcome State Fault Refusal) (p : State → Prop) : Prop := ∃ t, o = .next t ∧ p t

/-- The command answers t, but for reports. -/
def Becomes (o : Host.Outcome State Fault Refusal) (t : State) : Prop := ∃ u, o = .next u ∧ Reports t u

/-- Flags after a WAIT field: FLAG_TAKE clears its flag (R147). -/
def flagsWaited (v : Nat) (f : W64) : W64 := if v / 8192 = 2 then f &&& ~~~ BitVec.ofNat 64 (2 ^ bitField v 12 7) else f

/-- Flags after a SIGNAL field: FSET sets and FCLR clears its flag (R148). -/
def flagsSignalled (v : Nat) (f : W64) : W64 :=
  if v / 8192 = 1 then f ||| BitVec.ofNat 64 (2 ^ bitField v 12 7)
  else if v / 8192 = 2 then f &&& ~~~ BitVec.ofNat 64 (2 ^ bitField v 12 7) else f

/-- Instruction i of job n stands at a core whose job runs, the registers it reads have their results, its WAIT
lets it issue, and nothing else holds it up: no breakpoint, a full trace FIFO or a full contribution table (R147, R155, R172,
R310, R479, R482). -/
def MayIssue (s : State) (c n : Nat) (j : Job) (i : Ins) : Prop :=
  s.issuing c = some (n, j) ∧ s.front c j = .ins i ∧ s.breakAt j.gen (s.core c).pc = false ∧
    s.scoreboard c i = false ∧ s.waitNow c j i.wait = .go ∧
    (s.coreTraced c && decide (256 ≤ (tget [] s.obs.coreFifo c).length)) = false ∧
    (i.wait / 8192 = 4 → (∃ st, j.kind = .station st) ∨ j.tableFull ((s.core c).waitId i.wait) = false)

/-- What an instruction that only issues leaves alone: memory, every table of the Keeper, every other unit, the scratch, the
accumulators and the lanes of every core, and the registers and PC of every other core. -/
def IssueKeeps (s t : State) (c : Nat) : Prop :=
  t.mem = s.mem ∧ t.poison = s.poison ∧ t.writes = s.writes ∧ t.objs = s.objs ∧ t.queues = s.queues ∧ t.ctxs = s.ctxs ∧
    t.insts = s.insts ∧ t.gens = s.gens ∧ t.flights = s.flights ∧ t.shares = s.shares ∧ t.links = s.links ∧
    t.ports = s.ports ∧ t.kp = s.kp ∧ t.rg = s.rg ∧ t.esc = s.esc ∧ t.au = s.au ∧ t.sec = s.sec ∧ t.tw = s.tw ∧
    t.sy = s.sy ∧ t.boot = s.boot ∧ t.fuse = s.fuse ∧ t.tap = s.tap ∧ t.pending = s.pending ∧
    (∀ d, (t.core d).badLines = (s.core d).badLines ∧ (t.core d).me.acc = (s.core d).me.acc ∧
      (t.core d).me.bank0 = (s.core d).me.bank0 ∧ (t.core d).me.bank1 = (s.core d).me.bank1 ∧
      (t.core d).sendLanes = (s.core d).sendLanes ∧ (t.core d).recvLanes = (s.core d).recvLanes) ∧
    ∀ d, d ≠ c → (∀ r, (t.core d).reg r = (s.core d).reg r) ∧ (t.core d).pc = (s.core d).pc

/-- Scratch of every core as before. -/
def ScratchKept (s t : State) : Prop := ∀ d, (t.core d).scratch = (s.core d).scratch

/-- The scalar registers of a core: D holds v, every other register is as it was, S0 stays zero (R134). -/
def WritesReg (s t : State) (c d : Nat) (v : W64) : Prop :=
  ∀ r, (t.core c).reg r = if r = d ∧ r ≠ 0 then v else (s.core c).reg r

/-- An instruction that writes D with v: the registers, the PC moved on, the flags of its WAIT and SIGNAL, the frame. -/
def Issued (s : State) (c : Nat) (i : Ins) (v : W64) (t : State) : Prop :=
  WritesReg s t c i.d v ∧ (t.core c).pc = (s.core c).pc + 16 ∧
    (t.core c).flags = flagsSignalled i.signal (flagsWaited i.wait (s.core c).flags) ∧ IssueKeeps s t c ∧ ScratchKept s t

/-- A core has begun slot `slot` of job n at `entry`: the arguments stand in S1 on, every other register, the flags, the bound
counter and the matrix engine are clear (R135). -/
def Begun (k : Core) (n entry slot : Nat) (args : List W64) : Prop :=
  k.st = .running ∧ k.job = some n ∧ k.slot = slot ∧ k.pc = entry ∧ k.flags = 0#64 ∧ k.boundUsed = 0#32 ∧ k.ended = false ∧
    k.me = Matrix.reset ∧ ∀ r, k.reg r = if 1 ≤ r ∧ r ≤ args.length then args.getD (r - 1) 0#64 else 0#64

/-- No command of any queue waits to start, and no WAIT to complete. -/
def Settled (s : State) : Prop :=
  ∀ n, ∀ c ∈ (s.queue n).cmds, c.isDone = true ∨ (c.phase = .started ∧ c.body.isWait = false)

/-- No core is stalled at a WAIT field. -/
def NoneWaits (s : State) : Prop := ∀ c, (s.core c).stall ≠ 1#3

/-- An instruction that writes no register has passed: the registers as before, the PC moved on, the flags of its WAIT and
SIGNAL. -/
def Passed (s t : State) (c : Nat) (i : Ins) : Prop :=
  (∀ r, (t.core c).reg r = (s.core c).reg r) ∧ (t.core c).pc = (s.core c).pc + 16 ∧
    (t.core c).flags = flagsSignalled i.signal (flagsWaited i.wait (s.core c).flags)

/-- t is s after a halt of core c, which runs job n, at the instruction at pc (R171, R173, R179): CORE_HALT holds it unless it
held an earlier one; with halt hold the core is HELD, otherwise its job is being killed; registers and PC stay. -/
def Halts (s t : State) (c n : Nat) (j : Job) (code : BitVec 16) (pc : Nat) (data : W64) : Prop :=
  (t.core c).pc = (s.core c).pc ∧ (∀ r, (t.core c).reg r = (s.core c).reg r) ∧ (t.core c).hValid = true ∧
    ((s.core c).hValid = false → (t.core c).hCode = code ∧ (t.core c).hSlot = BitVec.ofNat 4 (s.core c).slot ∧
      (t.core c).hStation = j.stationCode ∧ (t.core c).hAddr = BitVec.ofNat 48 ((s.gen j.gen).base + pc) ∧
      (t.core c).hData = data ∧ (t.core c).hCoKilled = false) ∧
    ((s.core c).hValid = true → (t.core c).hCode = (s.core c).hCode ∧ (t.core c).hData = (s.core c).hData) ∧
    if bitAt s.obs.hold.toNat c then
      (t.core c).st = .held ∧ ∃ k, t.job n = some k ∧ k.kill = none ∧ k.killCode = code ∧ k.detail = data
    else j.cores ≠ [] → ∃ k, t.job n = some k ∧ k.kill = some (haltWhy code) ∧ k.killCode = code ∧ k.detail = data ∧
      k.killing = j.cores ∧ ∀ d ∈ j.cores, (t.core d).st = .killing

/-- The signal of an operation of job n on core c, whose instruction stands at pc, has been sent from there: flags act at once,
an update travels to the home core of its counter and waits there in the order of R301, behind every earlier one of its
source (R148, R156, R302). -/
def Signalled (s t : State) (c n pc : Nat) (from' : UpdSource) : Sig → Prop
  | .none => (t.core c).flags = (s.core c).flags ∧ t.updates = s.updates
  | .fset k => (t.core c).flags = (s.core c).flags ||| BitVec.ofNat 64 (2 ^ k) ∧ t.updates = s.updates
  | .fclr k => (t.core c).flags = (s.core c).flags &&& ~~~ BitVec.ofNat 64 (2 ^ k) ∧ t.updates = s.updates
  | .cadd id a => (t.core c).flags = (s.core c).flags ∧ ∃ u : Update, u.id = id ∧ u.amount = a ∧ u.source = from' ∧
      u.job = some n ∧ u.pc = pc ∧ s.arithCycle ≤ u.cycle ∧ ∃ l r, tget [] s.updates (ctrHome id) = l ++ r ∧
        t.updates = tput s.updates (ctrHome id) (l ++ u :: r) ∧ (∀ v ∈ l, v.notAfter (ctrHome id) u = true) ∧
        (∀ v, r.head? = some v → v.notAfter (ctrHome id) u = false) ∧
        ((l ++ r).Pairwise (fun v w => v.notAfter (ctrHome id) w = true) → ∀ v ∈ r, v.source.sender ≠ from'.sender)

/-- t is s after a stream fault of a thread of core c, which runs job n: SE_FAULT holds it unless it held an earlier one, and
the job is being killed on all its cores (R131 to R133). -/
def StreamFaults (s t : State) (c n : Nat) (j : Job) (thread op : Nat) (code : BitVec 16) (addr : Option Nat) : Prop :=
  (t.core c).se.fValid = true ∧
    ((s.core c).se.fValid = false → (t.core c).se.fCode = code ∧ (t.core c).se.fThread = BitVec.ofNat 6 thread ∧
      (t.core c).se.fOp = BitVec.ofNat 3 op ∧ (t.core c).se.fStation = j.stationCode ∧
      ∀ a ∈ addr, (t.core c).se.fAddr = BitVec.ofNat 48 a) ∧
    (j.cores ≠ [] → ∃ k, t.job n = some k ∧ k.kill = some .fault ∧ k.killCode = code ∧ k.killing = j.cores ∧
      ∀ d ∈ j.cores, (t.core d).st = .killing)

/-- Operand B, or IMM sign-extended where MOD[0] is set (R143). -/
def operandB (s : State) (c : Nat) (i : Ins) : W64 := if i.mod % 2 = 1 then i.imm.signExtend 64 else (s.core c).reg i.b


/-- The mailbox request that a row writes and its eight words (R355, R356); none for a row that makes no request. -/
def requestOf : Instr → Option (MbReq × List W64)
  | .ctxCreate m => some (m, reqWords m 0x01)
  | .ctxDestroy m => some (m, reqWords m 0x02)
  | .queueCreate m => some (m, reqWords m 0x03)
  | .queueDestroy m => some (m, reqWords m 0x04)
  | .queueReset m => some (m, reqWords m 0x05)
  | .counterAlloc m => some (m, reqWords m 0x06)
  | .instCreate m => some (m, reqWords m 0x10)
  | .instDisableSquash m => some (m, disableWords m false)
  | .instDisableDrain m => some (m, disableWords m true)
  | .instEnable m => some (m, reqWords m 0x12)
  | .instReset m => some (m, reqWords m 0x13)
  | .instBind m => some (m, reqWords m 0x20)
  | .keyLoad m _ => some (m, reqWords m 0x21)
  | .keyErase m => some (m, reqWords m 0x22)
  | .attest m => some (m, reqWords m 0x23)
  | .recRing m => some (m, reqWords m 0x30)
  | _ => none

/-- s with the request words written. -/
def mbWritten (s : State) (m : MbReq) (words : List W64) : State :=
  words.zipIdx.foldl (fun s x => mbWord s m.page.toNat x.2 x.1) s

/-- s with the request words written and latched: BUSY is 1 (R355). -/
def mbTaken (s : State) (m : MbReq) (words : List W64) : State :=
  (mbWritten s m words).modPage m.page.toNat fun p => { p with
    busy := true, curSeq := m.seq, curOp := BitVec.ofNat 8 (words.getD 0 0#64).toNat, cur := words }

/-- s after the answer of page n: the response words, CODE and SEQ of the latched request, BUSY clear, DONE set (R355). -/
def mbAnswered (s : State) (n : Nat) (code : BitVec 16) (rsp : List W64) : State :=
  s.modPage n fun x => { x with
    busy := false, done := true, seq := x.curSeq, code := code,
    rsp := [(0, rsp.getD 0 0#64), (1, rsp.getD 1 0#64), (2, rsp.getD 2 0#64), (3, rsp.getD 3 0#64)] }

/-- The page takes a request: its instance is not FREE, no request is in progress, and no address runs past device memory
(R13, R354, R355). -/
def MbTakes (s : State) (m : MbReq) (words : List W64) : Prop :=
  PageMay s m.who m.page ∧ (s.inst m.page.toNat).state ≠ .free ∧ (s.page m.page.toNat).busy = false ∧
    s.goBeyond m.page.toNat m.who words = false

/-- The page takes a request, the block is not stopped, and checks 1 and 2 of R357 pass. -/
def MbClear (s : State) (m : MbReq) (words : List W64) : Prop :=
  MbTakes s m words ∧ s.fr.stopped = false ∧
    let u := mbTaken s m words
    let p := u.page m.page.toNat
    p.wellFormed = true ∧ u.mbCoreOk p = true ∧ u.mbDenied m.page.toNat m.who p = false

/-- The answer that page n shows. -/
def MbShows (t : State) (n : Nat) (seq code : BitVec 16) (rsp : List W64) : Prop :=
  (t.page n).busy = false ∧ (t.page n).done = true ∧ (t.page n).seq = seq ∧ (t.page n).code = code ∧
    ∀ k, k < 4 → tget 0#64 (t.page n).rsp k = rsp.getD k 0#64

/-- Link l has been given a message: it waits for a credit, or has been sent and is kept until acknowledged (R504). -/
def Queued (t : State) (l : Nat) (m : LinkMsg) : Prop := m ∈ (t.link l).waiting ∨ ∃ x ∈ (t.link l).unacked, x.2 = m

/-- t is s after flight n broke with a cause and a code (R323): STATE is BROKEN, BREAK has gone to its links that may send
except the one it came from, pending BARRIERs on it have the code, jobs that wait at issue on its release are being killed. -/
def FlightBreaks (s t : State) (n : Nat) (cause : BitVec 3) (code : BitVec 16) (from' : Option Nat) : Prop :=
  let f := s.flight n
  let b := s.setFlight n { f with state := .broken, cause := cause, code := code, watchdog := false }
  t.flight n = b.flight n ∧
    (∀ l, (f.parentLink = some l ∨ bitAt f.children.toNat l = true) → some l ≠ from' → (s.link l).state = .up →
      s.maySend l = true → Queued t l (.brk n f.round)) ∧
    (DistinctCmds s → ∀ q, ∀ c ∈ (s.queue q).cmds, c.phase = .pendingWait → (∃ x e, c.body = .barrier x n e) →
      ∃ d ∈ (t.queue q).cmds, d.seqNo = c.seqNo ∧ d.code = code ∧ d.phase ≠ .pendingWait) ∧
    (∀ c m j i, s.issuing c = some (m, j) → (s.core c).stall = 1#3 → s.front c j = .ins i →
      b.waitNow c j i.wait = .dead code → ∃ k, t.job m = some k ∧ k.kill ≠ none)

/-- t is s after link n left UP (R505): what it held is discarded, the cause is recorded, and, unless the Keeper is frozen, the
flights over it are broken and the twin session over TW is over. -/
def LinkDowns (s t : State) (n : Nat) (cause : BitVec 3) (disabled : Bool) : Prop :=
  t.link n = { s.link n with
    state := if disabled then .disabled else .waitPhy, downs := satInc (s.link n).downs, downCause := cause, waiting := [],
    unacked := [], nakCount := 0 } ∧
    (n ≠ 0 → t.tw.lastCode = Config.LINK_DOWN) ∧ (s.obs.halted = true → t.flights = s.flights) ∧
    (s.obs.halted = false → (∀ f, (s.flight f).state = .isOpen → ((s.flight f).parentLink = some n ∨
      bitAt (s.flight f).children.toNat n = true) → (t.flight f).state = .broken ∧ (t.flight f).cause = 3#3) ∧
      (n = 0 → s.tw.authed = true → t.tw.authed = false))

/-- What the tenant erase has done, for every instance but 0, or for all (R413): their key slots are EMPTY, their bind secrets
are gone, every running job with a sealed share is being killed; the slots of instance 0 stay unless all are erased. -/
def Erased (s t : State) (all : Bool) : Prop :=
  (∀ k i, s.keyOwner k = some i → (all = true ∨ i ≠ 0) → t.keyLoaded k = false) ∧
    (∀ k, s.keyOwner k = some 0 → all = false → t.keyLoaded k = s.keyLoaded k) ∧
    (∀ i, (all = true ∨ i ≠ 0) → (t.inst i).bound = false ∧ (t.inst i).bindDigest = 0#384 ∧ (t.inst i).bindSecret = 0#384) ∧
    (∀ n j, s.job n = some j → j.isSealed = true → j.cores ≠ [] → ∃ k, t.job n = some k ∧ k.kill ≠ none) ∧
    (all = true → t.sec.importReady = false)

/-- t is s after a tamper alarm of a source (R412, R413): it is pending and counted, and the level in force has acted. -/
def Alarmed (s t : State) (source : Nat) : Prop :=
  let level := s.alarmLevel source
  t.sec.pending = s.sec.pending ||| BitVec.ofNat 5 (2 ^ source) ∧
    tget 0#32 t.sec.counts source = satInc (tget 0#32 s.sec.counts source) ∧
    t.sec.lastSource = BitVec.ofNat 4 source ∧ t.sec.lastLevel = level ∧
    (level = 0#2 → t.sec.keys = s.sec.keys ∧ t.sec.locked = s.sec.locked ∧ t.insts = s.insts ∧ t.jobs = s.jobs ∧ t.au = s.au) ∧
    (level = 1#2 → t.sec.keys = s.sec.keys ∧ t.sec.locked = true ∧ t.insts = s.insts ∧ t.jobs = s.jobs ∧ t.au.state = .idle) ∧
    (2 ≤ level.toNat → t.sec.locked = s.sec.locked ∧ t.au = s.au ∧ Erased s t (level == 3#2))

/-- t is s after entry into PRIMARY (R443): with the gate open, the complete beats that a last release does not cover are
released in order. -/
def EntersPrimary (s t : State) (last : BitVec 48) : Prop :=
  let due := s.tw.complete.filter fun e => beatAfter e.1 last
  t.tw.state = .primary ∧ t.tw.elect = false ∧ t.tw.complete = [] ∧ t.tw.heldYield = none ∧ t.tw.yielded = false ∧
    t.tw.relLast = (if s.tw.gateClosed then s.tw.relLast else (due.getLast?.map Prod.fst).getD s.tw.relLast) ∧
    Only [.tw, .chime, .obs] s t

/-- t is s after entry into SECONDARY (R437, R444): the next beat is lengthened to align, and YIELD has been sent. -/
def EntersSecondary (s t : State) : Prop :=
  t.tw.state = .secondary ∧ t.tw.elect = false ∧ t.tw.aligned = false ∧ t.tw.lengthen = true ∧ t.tw.yielded = false ∧
    ((s.link 0).state = .up → s.maySend 0 = true → Queued t 0 (.yield 0#8 s.tw.relLast))

/-- The partner's last reported release, or this device's own where the partner was not heard (R443). -/
def lastReported (s : State) : BitVec 48 := match s.tw.partner with | some c => c.lastRel | none => s.tw.relLast

/-- This device wins role resolution against a heartbeat (R444): ROLE 0 against ROLE 1, else the lower ID_DIGEST as a
big-endian number. -/
def winsAgainst (s : State) (c : Heartbeat) : Prop :=
  (s.ownRole = false ∧ c.role = true) ∨ (s.ownRole = c.role ∧ digestBE s.sec.idDigest < digestBE s.tw.partnerDigest)

/-- The manager, or the instance that owns a target, reaches the target view (R458); the global view is the manager's. -/
def ViewMay (s : State) (who : Who) : ChView → Prop
  | .global => ManagerMay s who
  | .target k => s.portAlive = true ∧ s.obs.halted = false ∧ s.boot.state = .ready ∧ who.valid = true ∧
      (who.inst = 0#6 ∨ ((s.target k.toNat).ownerValid = true ∧ (s.target k.toNat).owner = who.inst))

/-- A view shows a source (R458). -/
def Shows (s : State) (view : ChView) (n : Nat) : Prop := ∀ k, view = .target k → (s.src n).target = k

/-- The conditions of R455 under which the output of a target with these live sources rises. -/
def Rises (x : Target) (live : List (Nat × Src)) : Prop :=
  x.modUs = 0#10 ∨ 1000 * x.modUs.toNat ≤ x.timerNs ∨ (x.modCount ≠ 0#8 ∧ x.modCount.toNat ≤ live.length) ∨
    x.idleIn = true ∨ ∃ p ∈ live, p.2.urgent = true

/-- A target that stood as x once its live sources are what t shows (R455, R457, R463): driven high by the watchdog; low
while the outputs are held or nothing is live; high once it may rise, and then while a source is live. -/
def OutputFollows (x : Target) (t : State) (k : Nat) : Prop :=
  let live := t.liveSrcs k
  let y := t.target k
  (x.wdogDrive = true → y = { x with out := true }) ∧
  (x.wdogDrive = false → t.chime.heldLow = true → y = { x with out := false }) ∧
  (x.wdogDrive = false → t.chime.heldLow = false →
    (live = [] → y = { x with out := false, timerNs := 0 }) ∧
    (live ≠ [] → (x.out = true ∨ Rises x live) → y = { x with out := true, timerNs := 0 }) ∧
    (live ≠ [] → x.out = false → ¬Rises x live → y = x))

/-- Every target of s follows its live sources in t. -/
def OutputsFollow (s t : State) : Prop := ∀ k < 8, OutputFollows (s.target k) t k

/-- What each command may change when it answers a next state: the frame of every row of the table, part by part. -/
def mayChange : Instr → List Field
  | .porN .. => [.boot, .frozen, .ports, .writes, .esc, .au, .run, .basin, .pool, .kp, .gens, .objs, .ctxs, .queues, .insts,
      .shares, .rg, .rgParts, .jobs, .nextJob, .cores, .counters, .updates, .flights, .sy, .sec, .tw, .links, .fr, .chime,
      .obs, .tap, .freeCount, .frCfg, .chimeCfg, .obsCfg, .auIdle]
  | .blkRstN .. => [.boot, .frozen, .ports, .writes, .esc, .au, .run, .pool, .kp, .gens, .objs, .ctxs, .queues, .insts,
      .shares, .rg, .rgParts, .jobs, .nextJob, .cores, .counters, .updates, .flights, .sy, .sec, .tw, .links, .fr, .chime,
      .obs, .freeCount, .frCfg, .chimeCfg, .obsCfg, .auIdle]
  | .romInitDone .. => [.boot, .ports, .basin, .pool, .cores, .sec, .fr, .chime, .obs, .freeCount, .frCfg]
  | .load .. => [.boot, .kp, .chime, .obs]
  | .patchVerifyDone .. => [.boot, .au, .run, .insts, .jobs, .cores, .sec, .chime, .obs, .freeCount, .auIdle]
  | .fusedWindowAccess .. => [.boot, .kp, .chime, .obs]
  | .registerWrite .. => [.boot, .writes, .mem, .poison, .au, .run, .pool, .kp, .gens, .objs, .ctxs, .queues, .insts,
      .shares, .rg, .rgParts, .jobs, .cores, .counters, .flights, .sy, .sec, .tw, .links, .fr, .chime, .obs, .freeCount,
      .frCfg, .chimeCfg, .obsCfg, .auIdle]
  | .retReq => [.boot, .writes, .mem, .poison, .au, .run, .pool, .gens, .ctxs, .queues, .insts, .rgParts, .jobs, .cores,
      .tw, .links, .fr, .chime, .obs, .freeCount, .auIdle]
  | .retAck => [.boot, .fr, .chime, .frCfg, .chimeCfg]
  | .wake => [.boot, .frozen, .ports, .writes, .esc, .au, .run, .basin, .pool, .kp, .gens, .objs, .ctxs, .queues, .insts,
      .shares, .rg, .rgParts, .jobs, .nextJob, .cores, .counters, .updates, .flights, .sy, .sec, .tw, .links, .fr, .chime,
      .obs, .freeCount, .frCfg, .chimeCfg, .obsCfg, .auIdle]
  | .chimeRestoreDone => [.boot, .chime, .obs, .chimeCfg]
  | .mpTrainDone .. => [.ports, .writes, .mem, .poison, .au, .run, .pool, .gens, .ctxs, .queues, .insts, .rgParts, .jobs,
      .cores, .tw, .links, .fr, .chime, .obs, .freeCount, .frCfg, .obsCfg, .auIdle]
  | .mpPause .. => [.ports, .esc, .fr, .chime, .obs, .frCfg]
  | .mpThrottle .. => [.ports, .ctxs, .queues, .rgParts, .jobs, .cores, .fr, .frCfg]
  | .data .. => [.boot, .ports, .writes, .mem, .poison, .au, .run, .pool, .gens, .ctxs, .queues, .insts, .rgParts, .jobs,
      .cores, .tw, .links, .fr, .chime, .obs, .freeCount, .frCfg, .obsCfg, .auIdle]
  | .wack .. => [.ports, .writes, .mem, .poison, .au, .run, .pool, .gens, .objs, .ctxs, .queues, .insts, .rgParts, .jobs,
      .cores, .counters, .sy, .fr, .chime, .obs, .freeCount, .obsCfg]
  | .adata .. => [.ports, .chime, .obs]
  | .portFailed .. => [.ports, .writes, .mem, .poison, .au, .run, .pool, .gens, .ctxs, .queues, .insts, .rgParts, .jobs,
      .cores, .tw, .links, .fr, .chime, .obs, .freeCount, .frCfg, .obsCfg, .auIdle]
  | .start .. => [.boot, .au, .kp, .chime, .obs, .obsCfg, .auIdle]
  | .abort .. => [.boot, .au, .kp, .chime, .obs, .obsCfg, .auIdle]
  | .admissionVerifyDone .. => [.au, .run, .insts, .jobs, .cores, .sec, .chime, .obs, .freeCount, .obsCfg, .auIdle]
  | .admissionProveDone => [.au, .chime, .obs, .freeCount, .obsCfg, .auIdle]
  | .firstImageSwap => [.frozen, .writes, .mem, .poison, .esc, .au, .run, .basin, .pool, .kp, .gens, .objs, .ctxs, .queues,
      .insts, .shares, .rgParts, .cores, .counters, .sec, .tw, .fr, .chime, .obs, .freeCount, .obsCfg, .auIdle]
  | .beat => [.ports, .writes, .mem, .poison, .esc, .au, .run, .basin, .pool, .kp, .gens, .objs, .ctxs, .queues, .insts,
      .shares, .rgParts, .jobs, .cores, .counters, .sec, .tw, .links, .fr, .chime, .obs, .freeCount, .frCfg, .obsCfg, .auIdle]
  | .windowStart .. => [.run, .rgParts, .cores, .chime, .obs]
  | .windowEnd .. => [.run, .jobs, .cores, .tw, .fr, .chime, .obs, .freeCount]
  | .stationLaunch .. => [.run, .jobs, .nextJob, .cores, .obs]
  | .freeLaunch .. => [.writes, .mem, .poison, .au, .run, .pool, .gens, .ctxs, .queues, .insts, .rgParts, .jobs, .nextJob,
      .cores, .fr, .chime, .obs, .freeCount]
  | .boundOverrun .. => [.run, .jobs, .cores, .fr, .chime, .obs, .freeCount]
  | .holdTimeout .. => [.run, .jobs, .cores, .chime, .obs, .freeCount]
  | .jobEnd .. => [.writes, .mem, .poison, .au, .run, .pool, .kp, .gens, .ctxs, .queues, .insts, .shares, .rg, .rgParts,
      .jobs, .cores, .sec, .fr, .chime, .obs, .freeCount]
  | .commit .. => [.writes, .mem, .poison, .au, .run, .pool, .kp, .gens, .objs, .ctxs, .queues, .insts, .shares, .rgParts,
      .jobs, .cores, .counters, .sy, .sec, .fr, .chime, .obs, .freeCount, .obsCfg]
  | .completionIndexWrite .. => [.writes, .mem, .poison, .au, .pool, .gens, .ctxs, .queues, .insts, .rg, .rgParts, .fr,
      .chime, .obs, .freeCount]
  | .icacheFill .. => [.poison, .run, .jobs, .cores, .fr, .chime, .obs, .freeCount]
  | .nop .. => [.run, .jobs, .cores, .counters, .updates, .fr, .chime, .obs, .freeCount]
  | .halt .. => [.run, .jobs, .cores, .counters, .fr, .chime, .obs, .freeCount]
  | .endOp .. => [.run, .jobs, .cores, .counters, .updates, .fr, .chime, .obs, .freeCount]
  | .add .. => [.run, .jobs, .cores, .counters, .updates, .fr, .chime, .obs, .freeCount]
  | .sub .. => [.run, .jobs, .cores, .counters, .updates, .fr, .chime, .obs, .freeCount]
  | .mul .. => [.run, .jobs, .cores, .counters, .updates, .fr, .chime, .obs, .freeCount]
  | .andOp .. => [.run, .jobs, .cores, .counters, .updates, .fr, .chime, .obs, .freeCount]
  | .orOp .. => [.run, .jobs, .cores, .counters, .updates, .fr, .chime, .obs, .freeCount]
  | .xorOp .. => [.run, .jobs, .cores, .counters, .updates, .fr, .chime, .obs, .freeCount]
  | .shl .. => [.run, .jobs, .cores, .counters, .updates, .fr, .chime, .obs, .freeCount]
  | .shr .. => [.run, .jobs, .cores, .counters, .updates, .fr, .chime, .obs, .freeCount]
  | .sar .. => [.run, .jobs, .cores, .counters, .updates, .fr, .chime, .obs, .freeCount]
  | .minOp .. => [.run, .jobs, .cores, .counters, .updates, .fr, .chime, .obs, .freeCount]
  | .maxOp .. => [.run, .jobs, .cores, .counters, .updates, .fr, .chime, .obs, .freeCount]
  | .slt .. => [.run, .jobs, .cores, .counters, .updates, .fr, .chime, .obs, .freeCount]
  | .sltu .. => [.run, .jobs, .cores, .counters, .updates, .fr, .chime, .obs, .freeCount]
  | .lih .. => [.run, .jobs, .cores, .counters, .updates, .fr, .chime, .obs, .freeCount]
  | .ld .. => [.run, .jobs, .cores, .counters, .updates, .fr, .chime, .obs, .freeCount]
  | .st .. => [.run, .jobs, .cores, .counters, .updates, .fr, .chime, .obs, .freeCount]
  | .b .. => [.run, .jobs, .cores, .counters, .updates, .fr, .chime, .obs, .freeCount]
  | .beq .. => [.run, .jobs, .cores, .counters, .updates, .fr, .chime, .obs, .freeCount]
  | .bne .. => [.run, .jobs, .cores, .counters, .updates, .fr, .chime, .obs, .freeCount]
  | .blt .. => [.run, .jobs, .cores, .counters, .updates, .fr, .chime, .obs, .freeCount]
  | .bge .. => [.run, .jobs, .cores, .counters, .updates, .fr, .chime, .obs, .freeCount]
  | .bltu .. => [.run, .jobs, .cores, .counters, .updates, .fr, .chime, .obs, .freeCount]
  | .bal .. => [.run, .jobs, .cores, .counters, .updates, .fr, .chime, .obs, .freeCount]
  | .jr .. => [.run, .jobs, .cores, .counters, .updates, .fr, .chime, .obs, .freeCount]
  | .mfs .. => [.run, .jobs, .cores, .counters, .updates, .fr, .chime, .obs, .freeCount]
  | .fclrm .. => [.run, .jobs, .cores, .counters, .updates, .fr, .chime, .obs, .freeCount]
  | .store .. => [.run, .jobs, .cores, .counters, .fr, .chime, .obs, .freeCount]
  | .send .. => [.run, .jobs, .cores, .counters, .fr, .chime, .obs, .freeCount]
  | .mcast .. => [.run, .jobs, .cores, .counters, .fr, .chime, .obs, .freeCount]
  | .release .. => [.run, .jobs, .cores, .counters, .updates, .fr, .chime, .obs, .freeCount]
  | .fence .. => [.run, .jobs, .cores, .counters, .fr, .chime, .obs, .freeCount]
  | .streamOpStart .. => [.writes, .mem, .poison, .au, .run, .pool, .gens, .insts, .jobs, .cores, .fr, .chime, .obs,
      .freeCount]
  | .streamOpComplete .. => [.run, .jobs, .cores, .updates, .fr, .chime, .obs, .freeCount]
  | .tileArrival .. => [.run, .jobs, .cores, .updates, .fr, .chime, .obs, .freeCount]
  | .creditReturn .. => [.run, .jobs, .cores, .fr, .chime, .obs, .freeCount]
  | .counterUpdate .. => [.run, .queues, .jobs, .cores, .counters, .updates, .flights, .sy, .tw, .links, .fr, .chime, .obs,
      .freeCount]
  | .watchPush .. => [.cores]
  | .mwld .. => [.run, .jobs, .cores, .counters, .fr, .chime, .obs, .freeCount]
  | .mma .. => [.run, .jobs, .cores, .counters, .fr, .chime, .obs, .freeCount]
  | .mdrain .. => [.run, .jobs, .cores, .counters, .fr, .chime, .obs, .freeCount]
  | .mzero .. => [.run, .jobs, .cores, .counters, .fr, .chime, .obs, .freeCount]
  | .matrixOpStart .. => [.run, .jobs, .cores, .fr, .chime, .obs, .freeCount]
  | .matrixOpComplete .. => [.run, .jobs, .cores, .updates, .fr, .chime, .obs, .freeCount]
  | .vadd .. => [.run, .jobs, .cores, .counters, .fr, .chime, .obs, .freeCount]
  | .vsub .. => [.run, .jobs, .cores, .counters, .fr, .chime, .obs, .freeCount]
  | .vmul .. => [.run, .jobs, .cores, .counters, .fr, .chime, .obs, .freeCount]
  | .vfma .. => [.run, .jobs, .cores, .counters, .fr, .chime, .obs, .freeCount]
  | .vmin .. => [.run, .jobs, .cores, .counters, .fr, .chime, .obs, .freeCount]
  | .vmax .. => [.run, .jobs, .cores, .counters, .fr, .chime, .obs, .freeCount]
  | .vclamp .. => [.run, .jobs, .cores, .counters, .fr, .chime, .obs, .freeCount]
  | .vabs .. => [.run, .jobs, .cores, .counters, .fr, .chime, .obs, .freeCount]
  | .vneg .. => [.run, .jobs, .cores, .counters, .fr, .chime, .obs, .freeCount]
  | .vcopy .. => [.run, .jobs, .cores, .counters, .fr, .chime, .obs, .freeCount]
  | .vrcp .. => [.run, .jobs, .cores, .counters, .fr, .chime, .obs, .freeCount]
  | .vrsqrt .. => [.run, .jobs, .cores, .counters, .fr, .chime, .obs, .freeCount]
  | .vsqrt .. => [.run, .jobs, .cores, .counters, .fr, .chime, .obs, .freeCount]
  | .vexp2 .. => [.run, .jobs, .cores, .counters, .fr, .chime, .obs, .freeCount]
  | .vlog2 .. => [.run, .jobs, .cores, .counters, .fr, .chime, .obs, .freeCount]
  | .vcmp .. => [.run, .jobs, .cores, .counters, .fr, .chime, .obs, .freeCount]
  | .vsel .. => [.run, .jobs, .cores, .counters, .fr, .chime, .obs, .freeCount]
  | .vmand .. => [.run, .jobs, .cores, .counters, .fr, .chime, .obs, .freeCount]
  | .vmor .. => [.run, .jobs, .cores, .counters, .fr, .chime, .obs, .freeCount]
  | .vmnot .. => [.run, .jobs, .cores, .counters, .fr, .chime, .obs, .freeCount]
  | .vrsum .. => [.run, .jobs, .cores, .counters, .fr, .chime, .obs, .freeCount]
  | .vrmax .. => [.run, .jobs, .cores, .counters, .fr, .chime, .obs, .freeCount]
  | .vrmin .. => [.run, .jobs, .cores, .counters, .fr, .chime, .obs, .freeCount]
  | .vcvt .. => [.run, .jobs, .cores, .counters, .fr, .chime, .obs, .freeCount]
  | .vcompress .. => [.run, .jobs, .cores, .counters, .fr, .chime, .obs, .freeCount]
  | .vexpand .. => [.run, .jobs, .cores, .counters, .fr, .chime, .obs, .freeCount]
  | .vectorGroupStart .. => [.run, .jobs, .cores, .fr, .chime, .obs, .freeCount]
  | .vectorGroupComplete .. => [.run, .jobs, .cores, .updates, .fr, .chime, .obs, .freeCount]
  | .verifyScanDone => [.writes, .mem, .poison, .au, .pool, .kp, .gens, .ctxs, .queues, .insts, .rgParts, .cores, .fr,
      .chime, .obs, .freeCount]
  | .loaderModeWrite .. => [.boot, .kp, .chime, .obs]
  | .doorbell .. => [.boot, .kp, .queues, .chime, .obs]
  | .queueFetchSlot .. => [.queues, .rg]
  | .fetchRetry .. => [.writes, .mem, .poison, .au, .run, .pool, .kp, .gens, .objs, .ctxs, .queues, .insts, .rg, .rgParts,
      .jobs, .cores, .counters, .flights, .sy, .sec, .tw, .links, .fr, .chime, .obs, .freeCount, .auIdle, .seqs]
  | .launch .. => [.writes, .mem, .poison, .au, .run, .pool, .kp, .gens, .objs, .ctxs, .queues, .insts, .rg, .rgParts,
      .jobs, .cores, .counters, .flights, .sy, .sec, .tw, .links, .fr, .chime, .obs, .freeCount, .auIdle, .seqs]
  | .copy .. => [.writes, .mem, .poison, .au, .run, .pool, .kp, .gens, .objs, .ctxs, .queues, .insts, .rg, .rgParts, .jobs,
      .cores, .counters, .flights, .sy, .sec, .tw, .links, .fr, .chime, .obs, .freeCount, .auIdle, .seqs]
  | .fill .. => [.writes, .mem, .poison, .au, .run, .pool, .kp, .gens, .objs, .ctxs, .queues, .insts, .rg, .rgParts, .jobs,
      .cores, .counters, .flights, .sy, .sec, .tw, .links, .fr, .chime, .obs, .freeCount, .auIdle, .seqs]
  | .copyFillStart .. => [.writes, .mem, .poison, .au, .pool, .gens, .ctxs, .queues, .insts, .rgParts, .fr, .chime, .obs,
      .freeCount]
  | .copyFillComplete .. => [.writes, .mem, .poison, .au, .pool, .gens, .ctxs, .queues, .insts, .rgParts, .fr, .chime, .obs,
      .freeCount]
  | .wait .. => [.writes, .mem, .poison, .au, .run, .pool, .kp, .gens, .objs, .ctxs, .queues, .insts, .rg, .rgParts, .jobs,
      .cores, .counters, .flights, .sy, .sec, .tw, .links, .fr, .chime, .obs, .freeCount, .auIdle, .seqs]
  | .waitSatisfied .. => [.writes, .mem, .poison, .au, .pool, .gens, .ctxs, .queues, .insts, .rgParts, .fr, .chime, .obs,
      .freeCount]
  | .signal .. => [.writes, .mem, .poison, .au, .run, .pool, .kp, .gens, .objs, .ctxs, .queues, .insts, .rg, .rgParts,
      .jobs, .cores, .counters, .flights, .sy, .sec, .tw, .links, .fr, .chime, .obs, .freeCount, .auIdle, .seqs]
  | .barrier .. => [.writes, .mem, .poison, .au, .run, .pool, .kp, .gens, .objs, .ctxs, .queues, .insts, .rg, .rgParts,
      .jobs, .cores, .counters, .flights, .sy, .sec, .tw, .links, .fr, .chime, .obs, .freeCount, .auIdle, .seqs]
  | .objectMapNew .. => [.writes, .mem, .poison, .au, .run, .pool, .kp, .gens, .objs, .ctxs, .queues, .insts, .rg, .rgParts,
      .jobs, .cores, .counters, .flights, .sy, .sec, .tw, .links, .fr, .chime, .obs, .freeCount, .auIdle, .seqs]
  | .objectMapImport .. => [.writes, .mem, .poison, .au, .run, .pool, .kp, .gens, .objs, .ctxs, .queues, .insts, .rg,
      .rgParts, .jobs, .cores, .counters, .flights, .sy, .sec, .tw, .links, .fr, .chime, .obs, .freeCount, .auIdle, .seqs]
  | .objectMapBind .. => [.writes, .mem, .poison, .au, .run, .pool, .kp, .gens, .objs, .ctxs, .queues, .insts, .rg,
      .rgParts, .jobs, .cores, .counters, .flights, .sy, .sec, .tw, .links, .fr, .chime, .obs, .freeCount, .auIdle, .seqs]
  | .objectFree .. => [.writes, .mem, .poison, .au, .run, .pool, .kp, .gens, .objs, .ctxs, .queues, .insts, .rg, .rgParts,
      .jobs, .cores, .counters, .flights, .sy, .sec, .tw, .links, .fr, .chime, .obs, .freeCount, .auIdle, .seqs]
  | .freeComplete .. => [.writes, .mem, .poison, .au, .pool, .gens, .objs, .ctxs, .queues, .insts, .rgParts, .fr, .chime,
      .obs, .freeCount]
  | .timestamp .. => [.writes, .mem, .poison, .au, .run, .pool, .kp, .gens, .objs, .ctxs, .queues, .insts, .rg, .rgParts,
      .jobs, .cores, .counters, .flights, .sy, .sec, .tw, .links, .fr, .chime, .obs, .freeCount, .auIdle, .seqs]
  | .counterDump .. => [.writes, .mem, .poison, .au, .run, .pool, .kp, .gens, .objs, .ctxs, .queues, .insts, .rg, .rgParts,
      .jobs, .cores, .counters, .flights, .sy, .sec, .tw, .links, .fr, .chime, .obs, .freeCount, .auIdle, .seqs]
  | .indirect .. => [.writes, .mem, .poison, .au, .run, .pool, .kp, .gens, .objs, .ctxs, .queues, .insts, .rg, .rgParts,
      .jobs, .cores, .counters, .flights, .sy, .sec, .tw, .links, .fr, .chime, .obs, .freeCount, .auIdle, .seqs]
  | .nopPacket .. => [.writes, .mem, .poison, .au, .run, .pool, .kp, .gens, .objs, .ctxs, .queues, .insts, .rg, .rgParts,
      .jobs, .cores, .counters, .flights, .sy, .sec, .tw, .links, .fr, .chime, .obs, .freeCount, .auIdle, .seqs]
  | .basinFillDone .. => [.run, .basin, .fr, .chime, .obs, .freeCount]
  | .objTableEnable .. => [.boot, .kp, .objs, .chime, .obs]
  | .objTableInitDone => [.kp]
  | .ctxCreate .. => [.boot, .writes, .mem, .poison, .au, .run, .pool, .kp, .gens, .objs, .ctxs, .queues, .insts, .rg,
      .rgParts, .jobs, .cores, .counters, .sy, .sec, .fr, .chime, .obs, .freeCount, .obsCfg, .auIdle]
  | .ctxDestroy .. => [.boot, .writes, .mem, .poison, .au, .run, .pool, .kp, .gens, .objs, .ctxs, .queues, .insts, .rg,
      .rgParts, .jobs, .cores, .counters, .sy, .sec, .fr, .chime, .obs, .freeCount, .obsCfg, .auIdle]
  | .queueCreate .. => [.boot, .writes, .mem, .poison, .au, .run, .pool, .kp, .gens, .objs, .ctxs, .queues, .insts, .rg,
      .rgParts, .jobs, .cores, .counters, .sy, .sec, .fr, .chime, .obs, .freeCount, .obsCfg, .auIdle]
  | .queueDestroy .. => [.boot, .writes, .mem, .poison, .au, .run, .pool, .kp, .gens, .objs, .ctxs, .queues, .insts, .rg,
      .rgParts, .jobs, .cores, .counters, .sy, .sec, .fr, .chime, .obs, .freeCount, .obsCfg, .auIdle]
  | .queueReset .. => [.boot, .writes, .mem, .poison, .au, .run, .pool, .kp, .gens, .objs, .ctxs, .queues, .insts, .rg,
      .rgParts, .jobs, .cores, .counters, .sy, .sec, .fr, .chime, .obs, .freeCount, .obsCfg, .auIdle]
  | .counterAlloc .. => [.boot, .writes, .mem, .poison, .au, .run, .pool, .kp, .gens, .objs, .ctxs, .queues, .insts, .rg,
      .rgParts, .jobs, .cores, .counters, .sy, .sec, .fr, .chime, .obs, .freeCount, .obsCfg, .auIdle]
  | .instCreate .. => [.boot, .writes, .mem, .poison, .au, .run, .pool, .kp, .gens, .objs, .ctxs, .queues, .insts, .rg,
      .rgParts, .jobs, .cores, .counters, .sy, .sec, .fr, .chime, .obs, .freeCount, .obsCfg, .auIdle]
  | .instDisableSquash .. => [.boot, .writes, .mem, .poison, .au, .run, .pool, .kp, .gens, .objs, .ctxs, .queues, .insts,
      .rg, .rgParts, .jobs, .cores, .counters, .sy, .sec, .fr, .chime, .obs, .freeCount, .obsCfg, .auIdle]
  | .instDisableDrain .. => [.boot, .writes, .mem, .poison, .au, .run, .pool, .kp, .gens, .objs, .ctxs, .queues, .insts,
      .rg, .rgParts, .jobs, .cores, .counters, .sy, .sec, .fr, .chime, .obs, .freeCount, .obsCfg, .auIdle]
  | .drainTimeout .. => [.writes, .mem, .poison, .au, .run, .pool, .gens, .objs, .ctxs, .queues, .insts, .rgParts, .jobs,
      .cores, .counters, .sy, .fr, .chime, .obs, .freeCount, .obsCfg]
  | .disableComplete .. => [.writes, .mem, .poison, .au, .run, .pool, .gens, .objs, .ctxs, .queues, .insts, .rgParts, .jobs,
      .cores, .counters, .sy, .fr, .chime, .obs, .freeCount, .obsCfg]
  | .instEnable .. => [.boot, .writes, .mem, .poison, .au, .run, .pool, .kp, .gens, .objs, .ctxs, .queues, .insts, .rg,
      .rgParts, .jobs, .cores, .counters, .sy, .sec, .fr, .chime, .obs, .freeCount, .obsCfg, .auIdle]
  | .instReset .. => [.boot, .writes, .mem, .poison, .au, .run, .pool, .kp, .gens, .objs, .ctxs, .queues, .insts, .rg,
      .rgParts, .jobs, .cores, .counters, .sy, .sec, .fr, .chime, .obs, .freeCount, .obsCfg, .auIdle]
  | .teardownStepDone .. => [.writes, .mem, .poison, .au, .run, .pool, .kp, .gens, .objs, .ctxs, .queues, .insts, .shares,
      .rg, .rgParts, .jobs, .cores, .counters, .flights, .sy, .sec, .tw, .links, .fr, .chime, .obs, .freeCount, .obsCfg]
  | .instBind .. => [.boot, .writes, .mem, .poison, .au, .run, .pool, .kp, .gens, .objs, .ctxs, .queues, .insts, .rg,
      .rgParts, .jobs, .cores, .counters, .sy, .sec, .fr, .chime, .obs, .freeCount, .obsCfg, .auIdle]
  | .keyLoad .. => [.boot, .writes, .mem, .poison, .au, .run, .pool, .kp, .gens, .objs, .ctxs, .queues, .insts, .rg,
      .rgParts, .jobs, .cores, .counters, .sy, .sec, .fr, .chime, .obs, .freeCount, .obsCfg, .auIdle]
  | .keyErase .. => [.boot, .writes, .mem, .poison, .au, .run, .pool, .kp, .gens, .objs, .ctxs, .queues, .insts, .rg,
      .rgParts, .jobs, .cores, .counters, .sy, .sec, .fr, .chime, .obs, .freeCount, .obsCfg, .auIdle]
  | .attest .. => [.boot, .writes, .mem, .poison, .au, .run, .pool, .kp, .gens, .objs, .ctxs, .queues, .insts, .rg,
      .rgParts, .jobs, .cores, .counters, .sy, .sec, .fr, .chime, .obs, .freeCount, .obsCfg, .auIdle]
  | .attestSigned => [.writes, .mem, .poison, .au, .pool, .gens, .insts, .sec, .chime, .obs]
  | .recRing .. => [.boot, .writes, .mem, .poison, .au, .run, .pool, .kp, .gens, .objs, .ctxs, .queues, .insts, .rg,
      .rgParts, .jobs, .cores, .counters, .sy, .sec, .fr, .chime, .obs, .freeCount, .obsCfg, .auIdle]
  | .stop .. => [.boot, .kp, .queues, .rg, .chime, .obs]
  | .restart .. => [.boot, .kp, .queues, .rg, .chime, .obs]
  | .rebind .. => [.boot, .kp, .queues, .rg, .chime, .obs]
  | .rebindComplete => [.queues, .rg, .rgParts]
  | .grant .. => [.boot, .kp, .shares, .rg, .cores, .chime, .obs]
  | .releaseShare .. => [.boot, .kp, .queues, .shares, .rg, .rgParts, .cores, .chime, .obs]
  | .scratchClearDone .. => [.queues, .shares, .rgParts, .cores, .sec]
  | .weightWrite .. => [.boot, .kp, .ctxs, .queues, .insts, .chime, .obs]
  | .preemptQueue .. => [.boot, .run, .kp, .rg, .jobs, .cores, .chime, .obs, .freeCount]
  | .preemptContext .. => [.boot, .run, .kp, .rg, .jobs, .cores, .chime, .obs, .freeCount]
  | .preemptInstance .. => [.boot, .run, .kp, .rg, .jobs, .cores, .chime, .obs, .freeCount]
  | .preemptCores .. => [.boot, .run, .kp, .rg, .jobs, .cores, .chime, .obs, .freeCount]
  | .preemptWaitExpiry .. => [.run, .rgParts, .jobs, .cores, .chime, .obs, .freeCount]
  | .remoteLimit .. => [.writes, .mem, .poison, .au, .run, .pool, .gens, .ctxs, .queues, .insts, .rg, .rgParts, .jobs,
      .cores, .flights, .tw, .links, .fr, .chime, .obs, .freeCount]
  | .setOp .. => [.boot, .writes, .mem, .poison, .au, .run, .pool, .kp, .gens, .ctxs, .queues, .insts, .rgParts, .jobs,
      .cores, .counters, .flights, .sy, .tw, .links, .fr, .chime, .obs, .freeCount]
  | .reclaim .. => [.boot, .kp, .counters, .sy, .chime, .obs]
  | .flightCreate .. => [.boot, .kp, .counters, .flights, .chime, .obs]
  | .flightReset .. => [.boot, .kp, .jobs, .cores, .counters, .flights, .chime, .obs]
  | .flightBreak .. => [.boot, .writes, .mem, .poison, .au, .run, .pool, .kp, .gens, .ctxs, .queues, .insts, .rgParts,
      .jobs, .cores, .flights, .tw, .links, .fr, .chime, .obs, .freeCount]
  | .flightDestroy .. => [.boot, .writes, .mem, .poison, .au, .run, .pool, .kp, .gens, .ctxs, .queues, .insts, .rgParts,
      .jobs, .cores, .counters, .flights, .tw, .links, .fr, .chime, .obs, .freeCount]
  | .flightWatchdog .. => [.writes, .mem, .poison, .au, .run, .pool, .gens, .ctxs, .queues, .insts, .rgParts, .jobs, .cores,
      .flights, .tw, .links, .fr, .chime, .obs, .freeCount]
  | .arrive .. => [.writes, .mem, .poison, .au, .run, .pool, .gens, .ctxs, .queues, .insts, .rgParts, .jobs, .cores,
      .counters, .flights, .sy, .sec, .tw, .links, .fr, .chime, .obs, .freeCount, .auIdle]
  | .releaseMessage .. => [.writes, .mem, .poison, .au, .run, .pool, .gens, .ctxs, .queues, .insts, .rgParts, .jobs, .cores,
      .counters, .flights, .sy, .sec, .tw, .links, .fr, .chime, .obs, .freeCount, .auIdle]
  | .breakMsg .. => [.writes, .mem, .poison, .au, .run, .pool, .gens, .ctxs, .queues, .insts, .rgParts, .jobs, .cores,
      .flights, .sec, .tw, .links, .fr, .chime, .obs, .freeCount, .auIdle]
  | .programFirst .. => [.boot, .au, .run, .kp, .insts, .jobs, .cores, .sec, .chime, .obs, .freeCount, .auIdle]
  | .rotate .. => [.boot, .au, .run, .kp, .insts, .jobs, .cores, .sec, .chime, .obs, .freeCount, .auIdle]
  | .revoke .. => [.boot, .au, .run, .kp, .insts, .jobs, .cores, .sec, .chime, .obs, .freeCount, .auIdle]
  | .unlock .. => [.boot, .au, .run, .kp, .insts, .jobs, .cores, .sec, .chime, .obs, .freeCount, .obsCfg, .auIdle]
  | .unlockComplete => [.sec]
  | .glitch .. => [.au, .run, .insts, .jobs, .cores, .sec, .chime, .obs, .freeCount, .auIdle]
  | .pair .. => [.boot, .kp, .tw, .links, .chime, .obs]
  | .handover .. => [.boot, .kp, .tw, .chime, .obs]
  | .claim .. => [.boot, .kp, .tw, .chime, .obs]
  | .unpair .. => [.boot, .kp, .tw, .chime, .obs]
  | .hello .. => [.tw, .links]
  | .proof .. => [.au, .run, .insts, .jobs, .cores, .sec, .tw, .links, .chime, .obs, .freeCount, .auIdle]
  | .heartbeat .. => [.au, .run, .insts, .jobs, .cores, .sec, .tw, .links, .chime, .obs, .freeCount, .auIdle]
  | .heartbeatSend => [.tw, .links]
  | .heartbeatLost => [.tw, .chime, .obs]
  | .yield .. => [.au, .run, .insts, .jobs, .cores, .sec, .tw, .links, .chime, .obs, .freeCount, .auIdle]
  | .recoveryLost .. => [.au, .run, .insts, .jobs, .cores, .sec, .tw, .links, .chime, .obs, .freeCount, .auIdle]
  | .twWitness .. => [.tw, .chime, .obs]
  | .serviceLoopOverrun .. => [.writes, .mem, .poison, .au, .run, .pool, .gens, .ctxs, .queues, .insts, .rgParts, .jobs,
      .cores, .tw, .links, .fr, .chime, .obs, .freeCount, .frCfg, .obsCfg, .auIdle]
  | .recoveryStop .. => [.writes, .mem, .poison, .au, .run, .pool, .gens, .ctxs, .queues, .insts, .rgParts, .jobs, .cores,
      .tw, .links, .fr, .chime, .obs, .freeCount, .frCfg, .obsCfg, .auIdle]
  | .watchdogFire => [.tw, .links, .fr, .chime, .obs, .freeCount, .frCfg, .obsCfg]
  | .scrub .. => [.writes, .mem, .poison, .au, .run, .basin, .pool, .gens, .ctxs, .queues, .insts, .rgParts, .jobs, .cores,
      .tw, .links, .fr, .chime, .obs, .freeCount, .frCfg, .obsCfg, .auIdle]
  | .refill .. => [.boot, .run, .kp, .chime, .obs]
  | .pendingWrite .. => [.boot, .kp, .chime, .obs]
  | .maskWrite .. => [.boot, .kp, .chime, .obs]
  | .complete .. => [.boot, .kp, .chime, .obs]
  | .srcCfgWrite .. => [.boot, .kp, .chime, .obs]
  | .moderationTimeout .. => [.chime]
  | .chIdle .. => [.chime]
  | .pmReset .. => [.boot, .kp, .chime, .obs, .obsCfg]
  | .traceOff .. => [.boot, .au, .kp, .chime, .obs, .obsCfg, .auIdle]
  | .traceEvents .. => [.boot, .au, .kp, .chime, .obs, .obsCfg, .auIdle]
  | .traceFull .. => [.boot, .au, .kp, .chime, .obs, .obsCfg, .auIdle]
  | .traceFrameSend => [.obs, .freeCount, .obsCfg]
  | .take .. => [.boot, .kp, .chime, .obs, .obsCfg]
  | .snapshotDone => [.writes, .mem, .poison, .au, .pool, .gens, .insts, .chime, .obs, .obsCfg]
  | .haltAll .. => [.boot, .kp, .tw, .chime, .obs, .obsCfg]
  | .dbgRelease .. => [.boot, .run, .kp, .jobs, .cores, .chime, .obs, .freeCount]
  | .bypass .. => [.tap]
  | .idcode => [.tap]
  | .status => [.tap]
  | .challenge => [.tap]
  | .response .. => [.sec, .tap]
  | .tapUnlock .. => [.au, .run, .insts, .jobs, .cores, .sec, .chime, .obs, .tap, .freeCount, .obsCfg, .auIdle]
  | .tapHaltAll .. => [.au, .run, .insts, .jobs, .cores, .sec, .tw, .chime, .obs, .tap, .freeCount, .obsCfg, .auIdle]
  | .scanSel .. => [.au, .run, .insts, .jobs, .cores, .sec, .chime, .obs, .tap, .freeCount, .auIdle]
  | .scanData => [.au, .run, .insts, .jobs, .cores, .sec, .chime, .obs, .tap, .freeCount, .auIdle]
  | .scratchAddr .. => [.au, .run, .insts, .jobs, .cores, .sec, .chime, .obs, .tap, .freeCount, .auIdle]
  | .scratchData => [.au, .run, .insts, .jobs, .cores, .sec, .chime, .obs, .tap, .freeCount, .auIdle]
  | .dirtyEnable .. => [.boot, .writes, .mem, .poison, .au, .pool, .kp, .gens, .insts, .chime, .obs]
  | .dirtyFlip .. => [.boot, .writes, .mem, .poison, .au, .pool, .kp, .gens, .insts, .chime, .obs]
  | .dirtyDisable .. => [.boot, .writes, .mem, .poison, .au, .pool, .kp, .gens, .insts, .chime, .obs]
  | .flipDone .. => [.insts]
  | .linkEnable .. => [.boot, .writes, .mem, .poison, .au, .run, .pool, .kp, .gens, .ctxs, .queues, .insts, .rgParts, .jobs,
      .cores, .flights, .tw, .links, .fr, .chime, .obs, .freeCount]
  | .phyLock .. => [.writes, .mem, .poison, .au, .run, .pool, .gens, .ctxs, .queues, .insts, .rgParts, .jobs, .cores,
      .flights, .tw, .links, .fr, .chime, .obs, .freeCount]
  | .linkInit .. => [.tw, .links]
  | .linkInitTimer .. => [.links]
  | .idle .. => [.tw, .links]
  | .nak .. => [.writes, .mem, .poison, .au, .run, .pool, .gens, .ctxs, .queues, .insts, .rgParts, .jobs, .cores, .flights,
      .tw, .links, .fr, .chime, .obs, .freeCount]
  | .linkSilence .. => [.writes, .mem, .poison, .au, .run, .pool, .gens, .ctxs, .queues, .insts, .rgParts, .jobs, .cores,
      .flights, .tw, .links, .fr, .chime, .obs, .freeCount]
  | .streamLoad .. => [.run, .jobs, .cores, .counters, .fr, .chime, .obs, .freeCount]
  | .killComplete .. => [.writes, .mem, .poison, .au, .run, .pool, .kp, .gens, .ctxs, .queues, .insts, .shares, .rg,
      .rgParts, .jobs, .cores, .counters, .updates, .flights, .sy, .sec, .tw, .links, .fr, .chime, .obs, .freeCount]
  | .fuseCommandDone => [.fuse, .sec]
  | .importKeyRegenerationDone => [.sec, .freeCount]
  | .idleSend .. => [.tw, .links]
end Sys2Proof
end

