-- ==== Sys2Proof/Certificates/Slice0/Obligations.lean ====
section
/-! DEFINITION. The statements about the model, for the provers: one `def Obligations.<Name> : Prop` each. The words they
share stand in Safety.lean. -/

open Sys2Proof Sys2Proof.Machine


/-- A step is exec of the front command on the state with the queue's rest (log entry 3: the queue is the model's). -/
def Obligations.StepRunsFrontCommand : Prop :=
  ∀ (c : Instr) (rest : List Instr) (s : State), s.pending = c :: rest → step s = exec c { s with pending := rest }

/-- An idle block lets one Keeper cycle of 1 ns pass (the model's choice, log entry 3; the time base is R19's). -/
def Obligations.IdleStepIsOneCycle : Prop :=
  ∀ s : State, s.pending = [] →
    (s.portAlive = true → Answers (step s) fun t => t.esc.time = s.esc.time + 1#64 ∧ t.esc.beatCount = s.esc.beatCount ∧
      t.mem = s.mem ∧ t.objs = s.objs ∧ t.insts = s.insts ∧ t.fuse = s.fuse ∧ t.boot = s.boot ∧
      t.sec = { s.sec with swapCycles := if s.obs.halted then s.sec.swapCycles else s.sec.swapCycles - 1 } ∧ t.pending = []) ∧
    (s.portAlive = false → step s = .next s)

/-- R143, R134: the thirteen two-operand instructions. Shifts take bits 5 to 0 of their second operand. -/
def Obligations.AluInstructionsWriteTheirResult : Prop :=
  ∀ (s : State) (core : BitVec 4) (n : Nat) (j : Job) (i : Ins), MayIssue s core.toNat n j i → controlLegal i = true →
    let a := (s.core core.toNat).reg i.a
    let b := operandB s core.toNat i
    let gives (x : Instr) (v : W64) : Prop := Answers (exec x s) (Issued s core.toNat i v)
    (i.op = 0x04 → gives (.add core) (a + b)) ∧ (i.op = 0x05 → gives (.sub core) (a - b)) ∧
    (i.op = 0x06 → gives (.mul core) (BitVec.ofNat 64 (a.toNat * b.toNat))) ∧
    (i.op = 0x07 → gives (.andOp core) (a &&& b)) ∧ (i.op = 0x08 → gives (.orOp core) (a ||| b)) ∧
    (i.op = 0x09 → gives (.xorOp core) (a ^^^ b)) ∧
    (i.op = 0x0A → gives (.shl core) (a <<< (b.toNat % 64))) ∧ (i.op = 0x0B → gives (.shr core) (a >>> (b.toNat % 64))) ∧
    (i.op = 0x0C → gives (.sar core) (BitVec.ofInt 64 (a.toInt / 2 ^ (b.toNat % 64)))) ∧
    (i.op = 0x0D → gives (.minOp core) (if a.toInt ≤ b.toInt then a else b)) ∧
    (i.op = 0x0E → gives (.maxOp core) (if a.toInt ≤ b.toInt then b else a)) ∧
    (i.op = 0x0F → gives (.slt core) (if a.toInt < b.toInt then 1#64 else 0#64)) ∧
    (i.op = 0x10 → gives (.sltu core) (if a.toNat < b.toNat then 1#64 else 0#64))

/-- R489, R490, R10, R509: the two reset inputs. What a reset leaves alone (memory, the levels of the inputs, the queue of
commands) is log entry 9. -/
def Obligations.ResetInputsResetTheBlock : Prop :=
  (∀ s : State, Answers (exec (.porN true) s) fun t =>
    t.boot.power = .off ∧ t.boot.porAsserted = true ∧ t.boot.state = .reset ∧ t.run = none ∧ t.objs = [] ∧ t.ctxs = [] ∧
      t.queues = [] ∧ t.jobs = [] ∧ t.gens = [] ∧ t.shares = [] ∧ t.counters = [] ∧ t.flights = [] ∧ t.writes = [] ∧
      t.cores = [] ∧ t.basin = [] ∧ t.pool = [] ∧ t.insts = [(0, Inst.manager)] ∧ t.esc = Esc.reset ∧ t.au = Au.reset ∧ t.kp = Keeper.reset ∧
      t.rg = Rg.reset ∧ t.rgParts = [] ∧ t.obs = Obs.reset ∧ t.tap = Tap.reset ∧ t.fr = Fr.reset ∧ t.sec.counts = [] ∧
      t.sec.debugSeen = false ∧ t.sec.keys = [] ∧ t.fuse = s.fuse ∧ t.mem = s.mem ∧ t.poison = s.poison ∧ t.pending = s.pending) ∧
  (∀ s : State, Answers (exec (.blkRstN true) s) fun t =>
    t.boot.blkAsserted = true ∧ t.boot.state = .reset ∧ t.run = none ∧ t.objs = [] ∧ t.ctxs = [] ∧ t.queues = [] ∧
      t.jobs = [] ∧ t.gens = [] ∧ t.shares = [] ∧ t.counters = [] ∧ t.flights = [] ∧ t.writes = [] ∧
      t.insts = [(0, Inst.manager)] ∧ t.esc = Esc.reset ∧ t.au = Au.reset ∧ t.kp = Keeper.reset ∧ t.rg = Rg.reset ∧
      t.rgParts = [] ∧ t.obs = Obs.reset ∧ t.chime.srcs = [] ∧ t.fr.stopped = false ∧ t.fr.wdogArmed = false ∧
      t.fr.stopValid = s.fr.stopValid ∧ t.fr.stopCode = s.fr.stopCode ∧ t.fr.wdogCount = s.fr.wdogCount ∧
      t.sec.counts = s.sec.counts ∧ t.sec.debugSeen = s.sec.debugSeen ∧ t.sec.keys = [] ∧ t.tap = s.tap ∧
      t.basin = s.basin ∧ (∀ c, (t.core c).st = .idle ∧ (t.core c).scratch = (s.core c).scratch) ∧ t.fuse = s.fuse ∧
      t.mem = s.mem ∧ t.poison = s.poison ∧ t.pending = s.pending) ∧
  (∀ s : State, s.boot.porAsserted = true → s.boot.blkAsserted = false →
    Becomes (exec (.porN false) s) { s with
      boot := { s.boot with porAsserted := false, power := .on, state := .romInit },
      sec := { s.sec with challenge := Config.freeDigest s.freeCount } }) ∧
  (∀ s : State, s.boot.blkAsserted = true → s.boot.porAsserted = false →
    Becomes (exec (.blkRstN false) s) { s with
      boot := { s.boot with blkAsserted := false, power := .on, state := .romInit },
      sec := { s.sec with challenge := Config.freeDigest s.freeCount } }) ∧
  (∀ s : State, s.boot.porAsserted = false → exec (.porN false) s = .next s) ∧
  (∀ s : State, s.boot.blkAsserted = false → exec (.blkRstN false) s = .next s)

/-- R384, R385, R509, R511, R512, R389. The signature schemes are free functions of their words (log entry 4). -/
def Obligations.BootRunsFromRomInitToReady : Prop :=
  (∀ s : State, s.portAlive = true → s.boot.state = .romInit →
    (Answers (exec (.romInitDone true) s) fun t =>
      t.boot.state = .waitPatch ∧ t.fr.wdogArmed = true ∧ t.basin = [] ∧ t.pool = [] ∧ t.sec.importReady = true ∧
        (s.sec.idPub = [] → t.sec.idPub = Config.identityPublic s.fuse.idSeed ∧ t.sec.idDigest = sha384 t.sec.idPub) ∧
        (∀ c, (t.core c).scratch = [] ∧ (t.core c).badLines = [] ∧ (t.core c).me.acc = [] ∧
          (t.core c).me.bank0 = Bank.reset ∧ (t.core c).me.bank1 = Bank.reset) ∧ t.mem = s.mem ∧ t.fuse = s.fuse) ∧
    (Answers (exec (.romInitDone false) s) fun t =>
      t.boot.state = .failed ∧ t.fr.stopValid = true ∧ t.fr.stopCause = 1#3 ∧ t.mem = s.mem ∧ t.cores = s.cores ∧
        t.basin = s.basin)) ∧
  (∀ (s : State) (who : Who), s.portAlive = true → s.obs.halted = false → who.inst = 0#6 → who.valid = true →
    s.boot.state = .waitPatch →
    exec (.load who) s = .next { s with boot :=
      if s.boot.patchLen.toNat % 64 = 0 ∧ 16384 ≤ s.boot.patchLen.toNat ∧ s.boot.patchLen.toNat ≤ 1048576 then
        { s.boot with state := .verifyPatch }
      else { s.boot with code := Config.IMAGE_MALFORMED } }) ∧
  (∀ s : State, s.portAlive = true → s.obs.halted = false → s.boot.state = .verifyPatch →
    s.openPorts ≠ [] → s.boot.patchAddr.toNat + s.boot.patchLen.toNat ≤ 2 ^ 48 →
    let base := s.boot.patchAddr.toNat
    let len := s.boot.patchLen.toNat
    let v := s.imageVerdict base len
    let sigGood := framingOk s base len 0x48435450 false = true ∧ v.digestOk = true ∧ v.keyDigest = s.fuse.ovirasaDigest ∧
      v.ecdsaOk = true ∧ v.mldsaOk = true
    let fieldsGood := s.readLE (base + 6) 2 = 0 ∧ s.readLE (base + 0x10) 4 = s.fuse.romVersion.toNat ∧
      s.readLE (base + 0x18) 40 = 0
    let fails (code : BitVec 16) : Prop := Answers (exec (.patchVerifyDone ()) s) fun t =>
      t.boot = { s.boot with state := .waitPatch, code := code } ∧ t.mem = s.mem
    (s.poisoned base len = true → fails Config.MEM_POISON) ∧
    (s.poisoned base len = false → ¬ sigGood → fails Config.SIGNATURE_FAIL) ∧
    (s.poisoned base len = false → sigGood → ¬ fieldsGood → fails Config.IMAGE_MALFORMED) ∧
    (s.poisoned base len = false → sigGood → fieldsGood →
      exec (.patchVerifyDone ()) s = .next { s with boot := { s.boot with
        state := .ready, patchVersion := BitVec.ofNat 32 (s.readLE (base + 0x0C) 4),
        patchDigest := digestOfBytes (s.readBytes (base + (len - 5568) + 8) 48) } }))

/-- R492, R493, R463. -/
def Obligations.RetentionIsEnteredAndLeft : Prop :=
  (∀ s : State, Running' s → s.boot.retReq = false → Answers (exec .retReq s) fun t =>
    t.boot = { s.boot with retReq := true, retEntering := true } ∧ t.au.state = .idle ∧ t.au.cand = none ∧
      (∀ n j, t.job n = some j → j.cores ≠ [] → j.kill ≠ none) ∧ (s.tw.state = .primary → t.tw.gateClosed = true) ∧
      t.fr.stopValid = s.fr.stopValid ∧ t.fr.stopCode = s.fr.stopCode ∧ t.fr.stopped = s.fr.stopped ∧ t.fuse = s.fuse ∧
      t.tap = s.tap ∧ t.basin = s.basin) ∧
  (∀ s : State, s.portAlive = true → s.boot.retEntering = true → s.writes = [] →
    Becomes (exec .retAck s) { s with
      boot := { s.boot with retAck := true, retEntering := false, power := .retention },
      chime := { s.chime with heldLow := true }, fr := { s.fr with wdogArmed := false } }) ∧
  (∀ s : State, s.boot.power = .retention → s.boot.retAck = true → s.boot.blkAsserted = false → s.boot.porAsserted = false →
    Answers (exec .wake s) fun t =>
      t.boot.state = .romInit ∧ t.boot.power = .on ∧ t.boot.wake = true ∧ t.boot.chimeRestoring = true ∧
        t.boot.retAck = false ∧ t.run = none ∧ t.queues = [] ∧ t.objs = [] ∧ t.ctxs = [] ∧ t.jobs = [] ∧ t.gens = [] ∧
        t.cores = [] ∧ t.basin = [] ∧ t.insts = [(0, Inst.manager)] ∧ t.sec.keys = [] ∧ t.kp = Keeper.reset ∧
        t.chime.qsrc = s.chime.qsrc ∧ t.chime.heldLow = s.chime.heldLow ∧ t.sec.counts = s.sec.counts ∧
        t.sec.debugSeen = s.sec.debugSeen ∧ t.tap = s.tap ∧ t.fuse = s.fuse ∧ t.mem = s.mem ∧ t.poison = s.poison) ∧
  (∀ s : State, s.portAlive = true → s.boot.chimeRestoring = true →
    Becomes (exec .chimeRestoreDone s) { s with
      boot := { s.boot with chimeRestoring := false }, chime := { s.chime with heldLow := false } })

/-- R499, R500, R497, R498, R424, R430: training, acknowledgements and failed ports. -/
def Obligations.PortsTrainAnswerAndFail : Prop :=
  (∀ (s : State) (p : BitVec 6) (rd wr : BitVec 12), p.toNat < 48 → Answers (exec (.mpTrainDone p true rd wr) s) fun t =>
    t.port p.toNat = { s.port p.toNat with
      trained := true, rdCredits := rd, wrCredits := wr,
      open' := (s.port p.toNat).open' || (s.portsMayOpen && bitAt s.fuse.portPresent.toNat p.toNat) } ∧
      (∀ q, q ≠ p.toNat → t.port q = s.port q) ∧ Only [.ports] s t) ∧
  (∀ (s : State) (p : BitVec 6) (rd wr : BitVec 12), p.toNat < 48 → (s.port p.toNat).open' = false →
    exec (.mpTrainDone p false rd wr) s = .next (s.modPort p.toNat fun x => { x with trained := false })) ∧
  (∀ (s : State) (p : BitVec 6) (rd wr : BitVec 12), p.toNat < 48 → Running' s → s.fr.stopped = false →
    (s.port p.toNat).open' = true → (s.port p.toNat).trained = true → Answers (exec (.mpTrainDone p false rd wr) s) fun t =>
      t.ports = (s.modPort p.toNat fun x => { x with trained := false, failed := true }).ports ∧
        StopsBlock { s with ports := t.ports } t 3#3 15#4 (BitVec.ofNat 8 p.toNat)) ∧
  (∀ (s : State) (p : BitVec 6), Running' s → s.fr.stopped = false → (s.port p.toNat).open' = true →
    (s.port p.toNat).failed = false → Answers (exec (.portFailed p) s) fun t =>
      t.ports = (s.modPort p.toNat fun x => { x with failed := true }).ports ∧
        StopsBlock { s with ports := t.ports } t 3#3 15#4 (BitVec.ofNat 8 p.toNat)) ∧
  (∀ (s : State) (p : BitVec 6) (before after : List WriteReq) (w : WriteReq), s.portAlive = true → w.port = p.toNat →
    s.writes = before ++ w :: after → (∀ x ∈ before, x.port ≠ p.toNat) →
    (∀ late, s.obs.halted = true → exec (.wack ⟨p, late⟩) s = .next { s with writes := before ++ after }) ∧
    (s.obs.halted = false → (∀ n i, (n, i) ∈ s.insts → i.disabling = none) →
      exec (.wack ⟨p, false⟩) s = .next { s with writes := before ++ after } ∧
      Answers (exec (.wack ⟨p, true⟩) s) fun t => t.writes = before ++ after ∧
        t.port p.toNat = { s.port p.toNat with lateCount := satInc (s.port p.toNat).lateCount, lateThisBeat := true } ∧
        (∀ q, q ≠ p.toNat → t.port q = s.port q) ∧ Only [.writes, .ports, .chime, .obs] s t)) ∧
  (∀ (s : State) (p : BitVec 6) (late : Bool), (∀ x ∈ s.writes, x.port ≠ p.toNat) → exec (.wack ⟨p, late⟩) s = .next s) ∧
  (∀ (s : State) (p : BitVec 6) (old : W64), s.portAlive = true →
    let answered := s.modPort p.toNat fun x => { x with atomicsOut := x.atomicsOut - 1, lastAtomic := old }
    ((s.port p.toNat).atomicsOut = 0 → ∀ late, exec (.adata ⟨p, late⟩ old) s = .next s) ∧
    (0 < (s.port p.toNat).atomicsOut → exec (.adata ⟨p, false⟩ old) s = .next answered ∧
      (s.obs.halted = true → exec (.adata ⟨p, true⟩ old) s = .next answered) ∧
      (s.obs.halted = false → Answers (exec (.adata ⟨p, true⟩ old) s) fun t =>
        t.port p.toNat = { s.port p.toNat with
          lateCount := satInc (s.port p.toNat).lateCount, lateThisBeat := true,
          atomicsOut := (s.port p.toNat).atomicsOut - 1, lastAtomic := old } ∧
        (∀ q, q ≠ p.toNat → t.port q = s.port q) ∧ Only [.ports, .chime, .obs] s t)))

/-- R41, R426, R499, R425, R496. -/
def Obligations.PausesAndThrottlesAreCounted : Prop :=
  let open' (s : State) (p : BitVec 6) : Prop := s.portAlive = true ∧ (s.port p.toNat).open' = true
  let others (s : State) (p : BitVec 6) : Prop := (s.modPort p.toNat fun x => { x with paused := false }).pausing = true
  let alone (s : State) (p : BitVec 6) : Prop := (s.modPort p.toNat fun x => { x with paused := false }).pausing = false
  let within (s : State) (n : Nat) : Prop := ∀ r, s.run = some r → n ≤ r.img.pausesPerBeat
  let short (s : State) (ns : Nat) : Prop := ∀ r, s.run = some r → ns ≤ r.img.pauseMaxUs * 1000
  (∀ (s : State) (p : BitVec 6) (ns : W32), open' s p → (s.port p.toNat).paused = false → s.pausing = false →
    (within s (satInc s.esc.pauseSeen).toNat → exec (.mpPause p true ns) s = .next
      { s.modPort p.toNat (fun x => { x with paused := true }) with
        esc := { s.esc with pauseSeen := satInc s.esc.pauseSeen }, fr := { s.fr with pausePort := p.toNat, pauseNs := 0 } }) ∧
    (¬ within s (satInc s.esc.pauseSeen).toNat → Answers (exec (.mpPause p true ns) s) fun t =>
      t.esc = { s.esc with pauseSeen := satInc s.esc.pauseSeen } ∧ (t.port p.toNat).paused = true ∧
        t.fr.overruns = (if s.fr.overrunThisBeat then s.fr.overruns else satInc s.fr.overruns) ∧ t.fr.overrunThisBeat = true ∧
        Only [.ports, .esc, .fr, .frCfg, .chime, .obs] s t)) ∧
  (∀ (s : State) (p : BitVec 6) (ns : W32), open' s p → (s.port p.toNat).paused = false → s.pausing = true →
    exec (.mpPause p true ns) s = .next (s.modPort p.toNat fun x => { x with paused := true })) ∧
  (∀ (s : State) (p : BitVec 6) (ns : W32), open' s p → (s.port p.toNat).paused = true → others s p →
    exec (.mpPause p false ns) s = .next (s.modPort p.toNat fun x => { x with paused := false })) ∧
  (∀ (s : State) (p : BitVec 6) (ns : W32), open' s p → (s.port p.toNat).paused = true → alone s p →
    short s (max s.fr.pauseNs ns.toNat) →
    exec (.mpPause p false ns) s = .next { s.modPort p.toNat (fun x => { x with paused := false }) with
      fr := { s.fr with
        pauseNs := max s.fr.pauseNs ns.toNat,
        longest := if s.fr.longest.toNat < min (max s.fr.pauseNs ns.toNat / 16) 65535 then
          BitVec.ofNat 16 (min (max s.fr.pauseNs ns.toNat / 16) 65535) else s.fr.longest } }) ∧
  (∀ (s : State) (p : BitVec 6) (level : Bool) (ns : W32), (s.port p.toNat).paused = level →
    exec (.mpPause p level ns) s = .next s) ∧
  (∀ (s : State) (p : BitVec 6) (tag : BitVec 16) (ns : W32), open' s p → tag ∉ (s.port p.toNat).throttled →
    exec (.mpThrottle p tag true ns) s = .next (s.modPort p.toNat fun x => { x with throttled := x.throttled ++ [tag] }) ∧
      exec (.mpThrottle p tag false ns) s = .next s) ∧
  (∀ (s : State) (p : BitVec 6) (tag : BitVec 16) (ns : W32), open' s p → tag ∈ (s.port p.toNat).throttled →
    let u := s.modPort p.toNat fun x => { x with throttled := x.throttled.filter fun t => t != tag }
    exec (.mpThrottle p tag true ns) s = .next s ∧
    (0x8000 ≤ tag.toNat → exec (.mpThrottle p tag false ns) s = .next { u with
      fr := { u.fr with keeperThrNs := u.fr.keeperThrNs + BitVec.ofNat 64 ns.toNat } }) ∧
    (tag.toNat < 0x4000 → (s.core (tag.toNat / 1024)).job = none →
      exec (.mpThrottle p tag false ns) s = .next (grantLines u (tag.toNat / 1024))) ∧
    (0x4000 ≤ tag.toNat → tag.toNat < 0x8000 → ∀ q n, (s.rgPart ((tag.toNat - 0x4000) / 2048)).copyRun = some (q, n) →
      Answers (exec (.mpThrottle p tag false ns) s) fun t =>
        (t.ctx (s.queueCtx q)).throttleNs = (s.ctx (s.queueCtx q)).throttleNs + BitVec.ofNat 64 ns.toNat ∧
          t.ports = u.ports ∧ Only [.ports, .queues, .ctxs] s t))

/-- R423, R424, R499. -/
def Obligations.DataActsByItsReader : Prop :=
  let up (s : State) (p : BitVec 6) : Prop := Running' s ∧ s.fr.stopped = false ∧ (s.port p.toNat).open' = true ∧
    p.toNat ∈ s.poolPorts
  let keeper (r : Reader) : Prop := (∃ m, r = .mailbox m) ∨ r = .otp ∨ r = .unlock
  let poisonCounted (s t : State) (p : BitVec 6) (a : Nat) : Prop :=
    t.ports = (s.modPort p.toNat fun x => { x with poisonCount := satInc x.poisonCount }).ports ∧ a / 128 ∈ t.poison ∧
      ∀ l ∈ s.poison, l ∈ t.poison
  (∀ (s : State) (p : BitVec 6) (bad late : Bool) (r : Reader),
    (s.readAddr r = none ∨ p.toNat ∉ s.readPorts r ∨ (s.port p.toNat).open' = false ∨ s.fr.stopped = true ∨ s.portAlive = false) →
    exec (.data p bad late r) s = .next s) ∧
  (∀ (s : State) (p : BitVec 6) (r : Reader) (a : Nat), up s p → s.readAddr r = some a → s.poisoned a 1 = false →
    (keeper r ∨ r = .image ∨ r = .patch ∨ ∃ n, r = .objTable n) →
    Becomes (exec (.data p false false r) s) s ∧
    Answers (exec (.data p false true r) s) fun t =>
      t.port p.toNat = { s.port p.toNat with lateCount := satInc (s.port p.toNat).lateCount, lateThisBeat := true } ∧
        (∀ q, q ≠ p.toNat → t.port q = s.port q) ∧ Only [.ports, .chime, .obs] s t) ∧
  (∀ (s : State) (p : BitVec 6) (r : Reader) (a : Nat) (bad : Bool), up s p → s.readAddr r = some a →
    (bad = true ∨ s.poisoned a 1 = true) →
    (keeper r → Answers (exec (.data p bad false r) s) fun t =>
      poisonCounted s t p a ∧ Only [.ports, .poison, .chime, .obs] s t) ∧
    (r = .image → s.au.traceReq ≠ .held → Answers (exec (.data p bad false r) s) fun t =>
      poisonCounted s t p a ∧ t.au.state = .idle ∧ t.au.cand = none ∧ t.au.refused = true ∧
        t.au.lastCode = Config.MEM_POISON ∧ Only [.ports, .poison, .au, .auIdle, .chime, .obs, .obsCfg] s t) ∧
    (r = .patch → Answers (exec (.data p bad false r) s) fun t =>
      poisonCounted s t p a ∧ t.boot = { s.boot with state := .waitPatch, code := Config.MEM_POISON } ∧
        Only [.ports, .poison, .boot, .chime, .obs] s t) ∧
    (∀ n, r = .objTable n → Answers (exec (.data p bad false r) s) fun t =>
      poisonCounted s t p a ∧ t.fr.stopCode = Config.MEM_POISON ∧
        StopsBlock { s with ports := t.ports } t 4#3 15#4 0#8))

/-- R26, R44, R56, R413, R430, R521. -/
def Obligations.StartAndAbort : Prop :=
  ∀ (s : State) (who : Who), ManagerMay s who → s.au.traceReq ≠ .held →
    (s.fr.stopped = false → s.au.state = .idle → s.sec.locked = false →
      4096 ≤ s.au.imageLen.toNat → s.au.imageLen.toNat ≤ 268435456 →
      exec (.start who) s = .next { s with au := { s.au with
        state := .verify, cand := none, candPlace := none, candInflated := false } }) ∧
    (s.fr.stopped = false → s.au.state = .idle → s.sec.locked = false →
      (s.au.imageLen.toNat < 4096 ∨ 268435456 < s.au.imageLen.toNat) →
      Answers (exec (.start who) s) fun t => Refuses s t Config.IMAGE_MALFORMED 0xFFFF ∧ t.au.sigDetail = 0#5) ∧
    (s.fr.stopped = false → s.au.state = .idle → s.sec.locked = true →
      Answers (exec (.start who) s) fun t => Refuses s t Config.ACCESS_DENIED 0xFFFF ∧ t.au.sigDetail = 0#5) ∧
    (s.fr.stopped = false → s.au.state ≠ .idle →
      Becomes (exec (.start who) s) { s with au := { s.au with busyReject := true } }) ∧
    (s.fr.stopped = true → exec (.start who) s = .next s) ∧
    exec (.abort who) s = .next { s with au := { s.au with
      state := .idle, cand := none, candPlace := none, candInflated := false } }

/-- R26, R29, R30, R44, R81, R413, R423. The signature schemes are free functions of their words (log entry 4). PROVE looks at
the residency table as it then stands, the scratch shares of resident contexts among it, whose amounts are free values
(log entry 12). -/
def Obligations.VerifyAndProve : Prop :=
  (∀ s : State, s.au.state = .verify → s.au.imageAddr.toNat + s.au.imageLen.toNat ≤ 2 ^ 48 →
    s.au.traceReq ≠ .held →
    let base := s.au.imageAddr.toNat
    let len := s.au.imageLen.toNat
    let v := s.imageVerdict base len
    let detail := sigDetail (framingOk s base len 0x53474E4F true) (s.ownerSlot v.keyDigest).isSome v
    (s.poisoned base len = true → Answers (exec (.admissionVerifyDone ()) s) fun t =>
      Refuses s t Config.MEM_POISON 0xFFFF ∧ t.au.sigDetail = 0#5) ∧
    (s.poisoned base len = false → detail ≠ 0#5 → Answers (exec (.admissionVerifyDone ()) s) fun t =>
      t.au.state = .idle ∧ t.au.cand = none ∧ t.au.refused = true ∧ t.au.lastCode = Config.SIGNATURE_FAIL ∧
        t.au.sigDetail = detail ∧ tget 0#32 t.sec.counts 1 = satInc (tget 0#32 s.sec.counts 1) ∧
        t.mem = s.mem ∧ t.esc = s.esc ∧ t.counters = s.counters) ∧
    (s.poisoned base len = false → detail = 0#5 → ∀ st, layoutFault s base (readImage s base len) = some st →
      Answers (exec (.admissionVerifyDone ()) s) fun t => Refuses s t Config.IMAGE_MALFORMED st ∧ t.au.sigDetail = 0#5) ∧
    (s.poisoned base len = false → detail = 0#5 → layoutFault s base (readImage s base len) = none →
      exec (.admissionVerifyDone ()) s = .next { s with au := { s.au with
        state := .prove, sigDetail := 0#5, cand := some (readImage s base len),
        candSlot := BitVec.ofNat 2 ((s.ownerSlot v.keyDigest).getD 0) } })) ∧
  (∀ (s : State) (g : Image), s.au.state = .prove → s.au.cand = some g → s.au.traceReq ≠ .held →
    let u := shareResidency s
    (g.periodUs < 250 ∨ 100000 < g.periodUs ∨ g.capDw < 400 ∨ 2300 < g.capDw →
      Answers (exec .admissionProveDone s) fun t => Refuses u t Config.BEAT_RANGE 0xFFFF) ∧
    (auPlainChecks s g = none → ∀ r, placeImage u g = .error r →
      Answers (exec .admissionProveDone s) fun t => Refuses u t r.code r.station) ∧
    (auPlainChecks s g = none → s.inflating = false → ∀ pl, placeImage u g = .ok pl →
      exec .admissionProveDone s = .next { u with au := { u.au with
        state := .armed, candPlace := some pl, candInflated := false } })) ∧
  (∀ s : State, s.au.state ≠ .verify → exec (.admissionVerifyDone ()) s = .next s) ∧
  (∀ s : State, s.au.state ≠ .prove → exec .admissionProveDone s = .next s)

/-- R17, R19, R26, R88, R306, R430, R480, R500. -/
def Obligations.BeatsCountAndSwap : Prop :=
  let swapped (t : State) (g : Image) (pl : Placement) (beat : BitVec 48) : Prop :=
    (∃ r, t.run = some r ∧ r.img = g ∧ r.place = pl) ∧ t.esc.periodUs = BitVec.ofNat 17 g.periodUs ∧
      t.esc.capDw = BitVec.ofNat 12 g.capDw ∧ t.sec.levels = g.tamper ∧ t.au.state = .idle ∧ t.au.admitted = true ∧
      t.au.lastCode = Config.NONE ∧ t.au.activeBeat = beat
  (∀ s : State, (s.esc.running = false ∨ s.portAlive = false) → exec .beat s = .next s) ∧
  (∀ s : State, s.esc.running = true → s.portAlive = true → (s.obs.halted = true ∨ s.fr.stopped = true) →
    Becomes (exec .beat s) { s with esc := { s.esc with beatCount := s.esc.beatCount + 1#48, beatTime := s.esc.time } }) ∧
  (∀ s : State, s.esc.running = true → Running' s → s.fr.stopped = false → Answers (exec .beat s) fun t =>
    t.esc.beatCount = s.esc.beatCount + 1#48 ∧ t.esc.beatTime = s.esc.time ∧ t.esc.time = s.esc.time ∧
      t.esc.pauseSeen = 0#8 ∧ (∀ r, t.run = some r → r.beat = []) ∧
      (s.au.state ≠ .armed → t.esc.periodUs = s.esc.periodUs ∧ t.esc.capDw = s.esc.capDw ∧
        t.run.map (fun r => (r.img, r.place)) = s.run.map (fun r => (r.img, r.place)) ∧
        ∀ n, (s.counter n).kind = .graph → (s.counter n).state = .faulted →
          (t.counter n).state = .live ∧ (t.counter n).value = (s.counter n).initial) ∧
      (∀ g pl, s.au.state = .armed → s.au.cand = some g → s.au.candPlace = some pl → s.au.traceReq ≠ .held →
        swapped t g pl (s.esc.beatCount + 1#48)) ∧ Only [.ports, .writes, .mem, .poison, .esc, .au, .run, .basin, .pool, .kp, .gens, .objs, .ctxs, .queues, .insts, .shares, .rgParts, .jobs, .cores, .counters, .sec, .tw, .links, .fr, .chime, .obs, .freeCount, .frCfg, .obsCfg, .auIdle] s t) ∧
  (∀ (s : State) (g : Image) (pl : Placement), s.run = none → s.au.state = .armed → s.au.cand = some g →
    s.au.candPlace = some pl → s.obs.halted = false → s.fr.stopped = false → s.au.traceReq ≠ .held →
    Answers (exec .firstImageSwap s) fun t =>
      swapped t g pl 0#48 ∧ t.esc.running = true ∧ t.esc.beatCount = 0#48 ∧ t.esc.beatTime = s.esc.time ∧
        t.frozen = true ∧ Only [.frozen, .writes, .mem, .poison, .esc, .au, .run, .basin, .pool, .kp, .gens, .objs, .ctxs, .queues, .insts, .shares, .rgParts, .cores, .counters, .sec, .tw, .fr, .chime, .obs, .freeCount, .obsCfg, .auIdle] s t) ∧
  (∀ s : State, s.run ≠ none → exec .firstImageSwap s = .next s)

/-- R22, R53, R118, R428. -/
def Obligations.WindowsOpenAndClose : Prop :=
  (∀ (s : State) (p w : BitVec 3) (r : Running), s.run = some r → s.dispatches = true →
    (r.img.window p.toNat w.toNat).isSome = true → tfind r.openWin p.toNat = none →
    Answers (exec (.windowStart p w) s) fun t =>
      (∃ r', t.run = some r' ∧ tfind r'.openWin p.toNat = some w.toNat ∧ (∀ q, q ≠ p.toNat → tfind r'.openWin q = tfind r.openWin q) ∧
        r'.img = r.img ∧ r'.place = r.place) ∧
      (∀ c ∈ r.place.partCores.getD p.toNat [],
        (∀ k l, tfind (t.core c).sendLanes k = some l → l.credits = l.slots ∧ l.ptr = 0) ∧
        (∀ k l, tfind (t.core c).recvLanes k = some l → l.held = 0 ∧ l.ptr = 0 ∧ l.inFlight = [])) ∧
      Only [.run, .rgParts, .cores, .chime, .obs] s t) ∧
  (∀ (s : State) (p w : BitVec 3) (r : Running), s.run = some r → Running' s → tfind r.openWin p.toNat = some w.toNat →
    Answers (exec (.windowEnd p w) s) fun t =>
      (∃ r', t.run = some r' ∧ tfind r'.openWin p.toNat = none ∧ r'.img = r.img) ∧
      (∀ n j, t.job n = some j → j.part = p.toNat → j.kill ≠ none ∨ j.cores = []) ∧
      (∀ c ∈ s.partCores p.toNat, (∀ k l, tfind (t.core c).recvLanes k = some l → l.held = 0 ∧ l.inFlight = []) ∧
        ∀ k l, tfind (t.core c).sendLanes k = some l → l.returning = 0) ∧ Only [.run, .jobs, .cores, .tw, .fr, .chime, .obs, .freeCount] s t) ∧
  (∀ (s : State) (p w : BitVec 3) (r : Running), s.run = some r →
    ((r.img.window p.toNat w.toNat).isSome = false ∨ (tfind r.openWin p.toNat).isSome = true ∨ s.dispatches = false →
      exec (.windowStart p w) s = .next s) ∧
    (tfind r.openWin p.toNat ≠ some w.toNat → exec (.windowEnd p w) s = .next s)) ∧
  (∀ (s : State) (p w : BitVec 3), s.run = none → exec (.windowStart p w) s = .next s ∧ exec (.windowEnd p w) s = .next s)

/-- R23, R34, R49, R74, R135, R255, R298. -/
def Obligations.StationLaunchBeginsTheJob : Prop :=
  ∀ (s : State) (st : BitVec 12) (r : Running) (u : Station) (e : Nat),
    s.run = some r → r.img.station st.toNat = some u → s.stationGen r.img u = some e →
    let cores := r.place.stationCores.getD u.index []
    let dir := directory r.img r.place u.graph
    (s.mayLaunch r u = true → (s.gen e).ready = true → cores.Nodup → Answers (exec (.stationLaunch st) s) fun t =>
      (∃ j, t.job s.nextJob = some j ∧ j.kind = .station u.index ∧ j.part = u.part ∧ j.cores = cores ∧ j.gen = e ∧
        j.bound = u.bound ∧ j.killLimit = s.stationLimit u ∧ j.kill = none ∧ j.pins = s.stationPins r u ∧ j.wrote = [] ∧
        j.launchBeat = s.esc.beatCount ∧ j.launchTime = s.esc.time) ∧
      t.nextJob = s.nextJob + 1 ∧ (∀ n, n ≠ s.nextJob → t.job n = s.job n) ∧
      (∀ i c, cores[i]? = some c → Begun (t.core c) s.nextJob u.entry i [] ∧
        (t.core c).scratch = ((s.core c).putScratch (r.place.baseOf u.index c) dir).scratch) ∧
      (∀ c, c ∉ cores → t.core c = s.core c) ∧ t.run = some { r with beat := tput r.beat u.index .running } ∧
      Only [.run, .jobs, .nextJob, .cores, .obs] s t) ∧
    (s.mayLaunch r u = false ∨ (s.gen e).ready = false → exec (.stationLaunch st) s = .next s)

/-- R49, R50, R135, R335. The order among LAUNCHes that begin later in the same command is the same rule applied again. -/
def Obligations.FreeLaunchFollowsTheRegulator : Prop :=
  ∀ (s : State) (r : Running) (p : BitVec 3) (w : Nat) (x : Window) (t : W32), s.run = some r →
    tfind r.openWin p.toNat = some w → r.img.window p.toNat w = some x →
    (s.dispatches = false → exec (.freeLaunch p t) s = .next s) ∧
    (s.dispatches = true → ∀ q c rest m feat hm om prog off len entry bound args,
      s.offersFor p.toNat = (q, c) :: rest → r.passed.contains (p.toNat, c.seqNo) = false → s.offerable (s.queue q) c = true →
      c.body = .launch m feat hm om prog off len entry bound args →
      let cores := s.coresFor r p.toNat x.index c
      let free := cores.filter fun d => match s.shareOf (s.queue q).ctx p.toNat with
        | some y => !(s.core d).clearing y.2.off y.2.size
        | none => false
      let room := m + 1 ≤ free.length ∧ s.freeCores p.toNat + (m + 1) ≤ r.img.freeLimit p.toNat
      (fits s r.img x t.toNat bound = true → room → Answers (exec (.freeLaunch p t) s) fun t' =>
        (∃ j, t'.job s.nextJob = some j ∧ j.kind = .free q c.index c.seqNo ∧ j.part = p.toNat ∧
          j.cores = free.take (m + 1) ∧ j.bound = bound ∧ j.killLimit = bound ∧ j.features = feat ∧ j.kill = none) ∧
        s.nextJob < t'.nextJob ∧
        ((free.take (m + 1)).Nodup → ∀ i d, (free.take (m + 1))[i]? = some d → Begun (t'.core d) s.nextJob entry i args) ∧
        Only [.writes, .mem, .poison, .au, .run, .pool, .gens, .ctxs, .queues, .insts, .rgParts, .jobs, .nextJob, .cores, .fr, .chime, .obs, .freeCount] s t') ∧
      (fits s r.img x t.toNat bound = false → cores ≠ [] → rest = [] → exec (.freeLaunch p t) s = .next (regEval
        ((s.modRgPart p.toNat fun y => { y with passedOver := satInc y.passedOver }).modRun fun r =>
          { r with passed := r.passed ++ [(p.toNat, c.seqNo)] }))) ∧
      ((fits s r.img x t.toNat bound = true ∧ ¬room) ∨ cores = [] → rest = [] → exec (.freeLaunch p t) s = .next (regEval s)))

/-- R51, R171, R173, R179, R482. -/
def Obligations.OverrunsHoldsAndTimeouts : Prop :=
  (∀ (s : State) (core : BitVec 4) (n : Nat) (j : Job), (s.core core.toNat).st = .running → s.obs.halted = false →
    s.pauseAllowed = false →
    (s.core core.toNat).job = some n → s.job n = some j → j.kill = none → core.toNat ∈ j.cores →
    let c := core.toNat
    let lim := BitVec.ofNat 64 j.killLimit
    let recorded (t : State) : Prop :=
      (t.core c).boundUsed = BitVec.ofNat 32 j.killLimit ∧ (t.core c).hValid = true ∧
        ((s.core c).hValid = false → (t.core c).hCode = Config.BOUND_OVERRUN ∧ (t.core c).hSlot = BitVec.ofNat 4 (s.core c).slot ∧
          (t.core c).hStation = j.stationCode ∧ (t.core c).hAddr = BitVec.ofNat 48 ((s.gen j.gen).base + (s.core c).lastFetch) ∧
          (t.core c).hData = lim) ∧
        ((s.core c).hValid = true → (t.core c).hCode = (s.core c).hCode ∧ (t.core c).hAddr = (s.core c).hAddr ∧
          (t.core c).hData = (s.core c).hData) ∧
        Only [.run, .jobs, .cores, .fr, .chime, .obs, .freeCount] s t
    (bitAt s.obs.hold.toNat c = false → Answers (exec (.boundOverrun core) s) fun t => recorded t ∧
      (∃ k, t.job n = some k ∧ k.kill = some .bound ∧ k.killCode = Config.BOUND_OVERRUN ∧ k.detail = lim ∧
        k.killing = j.cores ∧ k.cores = j.cores ∧ k.kind = j.kind) ∧
      ∀ d ∈ j.cores, (t.core d).st = .killing ∧ (t.core d).job = (s.core d).job) ∧
    (bitAt s.obs.hold.toNat c = true → Answers (exec (.boundOverrun core) s) fun t => recorded t ∧
      (t.core c).st = .held ∧ (t.core c).scratch = (s.core c).scratch ∧ (∀ d, d ≠ c → t.core d = s.core d) ∧
      ∃ k, t.job n = some k ∧ k.kill = none ∧ k.killCode = Config.BOUND_OVERRUN ∧ k.detail = lim ∧ k.cores = j.cores)) ∧
  (∀ (s : State) (core : BitVec 4), ((s.core core.toNat).st ≠ .running ∨ s.obs.halted = true ∨ s.pauseAllowed = true) →
    exec (.boundOverrun core) s = .next s) ∧
  (∀ (s : State) (core : BitVec 4) (n : Nat) (j : Job), (s.core core.toNat).st = .held →
    (s.core core.toNat).job = some n → s.job n = some j → j.kill = none → core.toNat ∈ j.cores → Answers (exec (.holdTimeout core) s) fun t =>
      (∃ k, t.job n = some k ∧ k.kill = some (haltWhy j.killCode) ∧ k.killCode = j.killCode ∧ k.detail = j.detail ∧
        k.killing = j.cores) ∧ (∀ d ∈ j.cores, (t.core d).st = .killing) ∧ Only [.run, .jobs, .cores, .chime, .obs, .freeCount] s t) ∧
  (∀ (s : State) (core : BitVec 4), (s.core core.toNat).st ≠ .held → exec (.holdTimeout core) s = .next s)

/-- R51, R138, R257, R278. -/
def Obligations.JobsEndAndAreKilled : Prop :=
  (∀ (s : State) (core : BitVec 4) (n : Nat) (j : Job), s.obs.halted = false → (s.core core.toNat).job = some n →
    s.job n = some j → core.toNat ∈ j.killing →
    let rest := j.killing.filter fun x => x != core.toNat
    (rest ≠ [] → NoneWaits s → Answers (exec (.killComplete core) s) fun t =>
      t.job n = some { j with killing := rest } ∧ t.core core.toNat = (s.core core.toNat).leave ∧
        (∀ d, d ≠ core.toNat → t.core d = s.core d) ∧ Only [.jobs, .cores, .obs] s t) ∧
    (rest = [] → Answers (exec (.killComplete core) s) fun t =>
      t.job n = none ∧ (t.core core.toNat).job = none ∧ Only [.writes, .mem, .poison, .au, .run, .pool, .kp, .gens, .ctxs, .queues, .insts, .shares, .rg, .rgParts, .jobs, .cores, .counters, .updates, .flights, .sy, .sec, .tw, .links, .fr, .chime, .obs, .freeCount] s t)) ∧
  (∀ (s : State) (core : BitVec 4), (s.obs.halted = true ∨ (NoneWaits s ∧ (s.core core.toNat).job = none)) →
    exec (.killComplete core) s = .next s) ∧
  (∀ (s : State) (core : BitVec 4) (n : Nat) (j : Job), (s.core core.toNat).job = some n → s.job n = some j →
    ((s.jobOver n j = false ∨ s.obs.halted = true) → exec (.jobEnd core) s = .next s) ∧
    (s.jobOver n j = true → s.obs.halted = false → Answers (exec (.jobEnd core) s) fun t =>
      (∀ c ∈ j.cores, (t.core c).st = .idle ∧ (t.core c).job = none ∧ (t.core c).pc = (s.core c).pc ∧
        (t.core c).scratch = (s.core c).scratch) ∧
      (∀ c, c ∉ j.cores → (t.core c).st = (s.core c).st ∧ (t.core c).job = (s.core c).job) ∧
      (∀ st r, j.kind = .station st → s.run = some r → t.job n = some { j with pins := [], cores := [] } ∧
        t.run = some { r with beat := tput r.beat st .ended }) ∧
      (∀ q i k c, j.kind = .free q i k → t.job n = none ∧
        (DistinctCmds s → (s.queue q).cmd k = some c → c.isDone = false → c.isIndirect = false → ∃ d ∈ (t.queue q).cmds, d.seqNo = k ∧
          d.phase = .completed ∧ d.code = Config.NONE ∧ d.wrote = j.wrote ∧ d.endTime = s.esc.time)) ∧
      Only [.writes, .mem, .poison, .au, .run, .pool, .kp, .gens, .ctxs, .queues, .insts, .shares, .rg, .rgParts, .jobs, .cores, .sec, .fr, .chime, .obs, .freeCount] s t))

/-- R257, R258, R259, R276, R278, R279. -/
def Obligations.CommitsAndRecords : Prop :=
  (∀ (s : State) (st : BitVec 12) (r : Running) (n : Nat) (j : Job), s.run = some r → r.status st.toNat = .ended →
    s.dispatches = true → s.jobs.filter (fun x => x.2.kind == .station st.toNat) = [(n, j)] →
    Answers (exec (.commit (.station st)) s) fun t =>
      t.run = some { r with beat := tput r.beat st.toNat .committed } ∧ t.job n = none ∧
      (∀ i, t.obj i = if i ∈ j.wrote then { s.obj i with version := !(s.obj i).version } else s.obj i) ∧
      Only [.run, .objs, .jobs, .kp, .gens, .shares, .cores, .sec] s t) ∧
  (∀ (s : State) (st : BitVec 12), (s.dispatches = false ∨ ∃ r, s.run = some r ∧ r.status st.toNat ≠ .ended) →
    exec (.commit (.station st)) s = .next s) ∧
  (∀ (s : State) (qn : BitVec 13) (c : Cmd), s.commits (s.queue qn.toNat) = true →
    nextCommit (s.queue qn.toNat).cmds = some c → c.inner = none →
    let q := s.queue qn.toNat
    (∀ m feat hm om prog off len entry bound args, c.body = .launch m feat hm om prog off len entry bound args →
      c.code = 0#16 → Answers (exec (.commit (.queue qn)) s) fun t =>
        (∀ i, t.obj i = if i ∈ c.wrote then { s.obj i with version := !(s.obj i).version } else s.obj i) ∧
          Only [.writes, .mem, .poison, .au, .run, .pool, .kp, .gens, .objs, .ctxs, .queues, .insts, .shares, .rgParts, .jobs, .cores, .counters, .sy, .sec, .fr, .chime, .obs, .freeCount, .obsCfg] s t) ∧
    ((c.body = .nop ∨ c.code ≠ 0#16) → Settled s → DistinctCmds s → (s.ctx q.ctx).ring = none →
      Answers (exec (.commit (.queue qn)) s) fun t =>
        { c with phase := .recorded } ∈ (t.queue qn.toNat).cmds ∧
        Stores s t ((s.obj q.complObj).base + (q.recordOff c.index + 4)) (recordTail c (s.recordTime c)) ∧ t.objs = s.objs)) ∧
  (∀ (s : State) (qn : BitVec 13), NoneWaits s →
    (s.commits (s.queue qn.toNat) = false ∨ nextCommit (s.queue qn.toNat).cmds = none) →
    exec (.commit (.queue qn)) s = .next s) ∧
  (∀ (s : State) (qn : BitVec 13) (c : Cmd), (s.queue qn.toNat).toIndex = some c →
    let q := s.queue qn.toNat
    let may := s.acked (fun o => o == .record qn.toNat c.index) = true ∧ s.portAlive = true ∧ s.fr.stopped = false ∧
      s.obs.halted = false ∧ s.keeperHeld = false ∧ (s.inst (s.ctx q.ctx).inst).recordsOpen = true
    (¬may → exec (.completionIndexWrite qn) s = .next s) ∧
    (may → Answers (exec (.completionIndexWrite qn) s) fun t =>
      (DistinctCmds s → ∀ d ∈ (t.queue qn.toNat).cmds, d.seqNo ≠ c.seqNo) ∧
      (Settled s → Stores s t ((s.obj q.complObj).base + q.recordOff c.index) (leBytes 4 c.index.toNat)) ∧
      Only [.writes, .mem, .poison, .au, .pool, .gens, .ctxs, .queues, .insts, .rg, .rgParts, .fr, .chime, .obs, .freeCount] s t)) ∧
  (∀ (s : State) (qn : BitVec 13), (s.queue qn.toNat).toIndex = none → exec (.completionIndexWrite qn) s = .next s)

/-- R134, R137, R138, R143, R147, R148: LIH, MFS, NOP, END, FCLRM. -/
def Obligations.LihMfsNopEndFclrm : Prop :=
  ∀ (s : State) (core : BitVec 4) (n : Nat) (j : Job) (i : Ins), MayIssue s core.toNat n j i → controlLegal i = true →
    let c := core.toNat
    let k := s.core c
    let waited := flagsWaited i.wait k.flags
    let quiet (t : State) (ends : Bool) : Prop := (∀ r, (t.core c).reg r = k.reg r) ∧ (t.core c).pc = k.pc + 16 ∧
      (t.core c).ended = ends ∧ IssueKeeps s t c ∧ ScratchKept s t
    (i.op = 0x11 → Answers (exec (.lih core) s)
      (Issued s c i (BitVec.ofNat 64 (i.imm.toNat * 2 ^ 32 + (k.reg i.a).toNat % 2 ^ 32)))) ∧
    (i.op = 0x20 → Answers (exec (.mfs core) s) (Issued s c i (if i.x = 13 then waited else s.special c j i.x))) ∧
    (i.op = 0x00 → Answers (exec (.nop core) s) fun t =>
      quiet t false ∧ (t.core c).flags = flagsSignalled i.signal waited) ∧
    (i.op = 0x02 → Answers (exec (.endOp core) s) fun t =>
      quiet t true ∧ (t.core c).flags = flagsSignalled i.signal waited) ∧
    (i.op = 0x21 → Answers (exec (.fclrm core) s) fun t =>
      quiet t false ∧ (t.core c).flags = flagsSignalled i.signal (waited &&& ~~~ k.reg i.a))

/-- R140, R143, R144, R155, R168, R171, R172, R482. -/
def Obligations.HaltsAtIssue : Prop :=
  ∀ (s : State) (core : BitVec 4) (n : Nat) (j : Job), s.issuing core.toNat = some (n, j) →
    let c := core.toNat
    let pc := (s.core c).pc
    let halts (x : Instr) (code : BitVec 16) (data : W64) : Prop := Answers (exec x s) fun t =>
      Halts s t c n j code pc data ∧ Only [.run, .jobs, .cores, .fr, .chime, .obs, .freeCount] s t
    (∀ i, MayIssue s c n j i → controlLegal i = true → i.op = 0x01 → halts (.halt core) Config.BREAKPOINT 0#64) ∧
    (∀ i, s.front c j = .ins i → controlLegal i = true → i.op = 0x00 → s.scoreboard c i = false →
      (s.breakAt j.gen pc = true → (∀ id, s.waitNow c j i.wait ≠ .breach id) → halts (.nop core) Config.BREAKPOINT 0#64) ∧
      (∀ id, s.waitNow c j i.wait = .breach id → halts (.nop core) Config.COUNTER_OWNER (id.setWidth 64))) ∧
    (∀ i, s.front c j = .ins i → controlLegal i = true → i.op = 0x04 → s.scoreboard c i = true →
      Answers (exec (.add core) s) fun t => (t.core c).stall = 4#3 ∧ (t.core c).pc = pc ∧
        (∀ r, (t.core c).reg r = (s.core c).reg r) ∧ (t.core c).flags = (s.core c).flags ∧
        (∀ d, d ≠ c → t.core d = s.core d) ∧ Only [.cores, .obs] s t) ∧
    (∀ i, s.front c j = .ins i → controlLegal i = false → i.op = 0x00 →
      halts (.nop core) Config.ILLEGAL_OPCODE (BitVec.ofNat 64 pc)) ∧
    ((s.core c).fetched = none → (s.gen j.gen).isWritten pc = false → (s.gen j.gen).len < pc + 16 → halts (.nop core) Config.ILLEGAL_OPCODE (BitVec.ofNat 64 pc)) ∧
    ((s.core c).fetched = none → (s.gen j.gen).isWritten pc = true →
      halts (.nop core) Config.PROGRAM_REPLACED (BitVec.ofNat 64 pc))

/-- R143, R144: the eight branches. -/
def Obligations.BranchesSetThePc : Prop :=
  ∀ (s : State) (core : BitVec 4) (n : Nat) (j : Job) (i : Ins), MayIssue s core.toNat n j i → controlLegal i = true →
    let c := core.toNat
    let k := s.core c
    let a := k.reg i.a
    let b := k.reg i.b
    let len := (s.gen j.gen).len
    let rel : Int := (k.pc : Int) + i.imm.toInt
    let good (x : Int) : Prop := 0 ≤ x ∧ x < len ∧ x % 16 = 0
    let lands (t : State) (pc : Nat) : Prop := (t.core c).pc = pc ∧
      (t.core c).flags = flagsSignalled i.signal (flagsWaited i.wait k.flags) ∧ IssueKeeps s t c ∧ ScratchKept s t
    let branch (x : Instr) (target : Int) (taken link : Prop) : Prop :=
      (good target → taken → Answers (exec x s) fun t => lands t target.toNat ∧ (¬link → ∀ r, (t.core c).reg r = k.reg r) ∧
        (link → WritesReg s t c i.d (BitVec.ofNat 64 (k.pc + 16)))) ∧
      (¬good target → Answers (exec x s) fun t =>
        Halts s t c n j Config.ILLEGAL_OPCODE k.pc (BitVec.ofNat 64 k.pc) ∧ Only [.run, .jobs, .cores, .fr, .chime, .obs, .freeCount] s t) ∧
      (good target → ¬taken → Answers (exec x s) fun t => lands t (k.pc + 16) ∧ ∀ r, (t.core c).reg r = k.reg r)
    (i.op = 0x18 → branch (.b core) rel True False) ∧ (i.op = 0x19 → branch (.beq core) rel (a = b) False) ∧
    (i.op = 0x1A → branch (.bne core) rel (a ≠ b) False) ∧ (i.op = 0x1B → branch (.blt core) rel (a.toInt < b.toInt) False) ∧
    (i.op = 0x1C → branch (.bge core) rel (b.toInt ≤ a.toInt) False) ∧
    (i.op = 0x1D → branch (.bltu core) rel (a.toNat < b.toNat) False) ∧ (i.op = 0x1E → branch (.bal core) rel True True) ∧
    (i.op = 0x1F → branch (.jr core) a.toNat True False)

/-- R141, R142, R143, R171, R419, R420. -/
def Obligations.LoadsAndStoresOfScratch : Prop :=
  ∀ (s : State) (core : BitVec 4) (n : Nat) (j : Job) (i : Ins), MayIssue s core.toNat n j i → controlLegal i = true →
    let c := core.toNat
    let k := s.core c
    let w := 2 ^ (i.mod % 4)
    let bad (o : SOp) (err : SramErr) (b : Nat) : Prop :=
      (err = .uncorrectable ∧ b = s.opndAddr c j o) ∨ (err ≠ .uncorrectable ∧ s.opndBad c j o w = some b)
    let held (o : SOp) : Prop := ∀ l ∈ o.laneOf, (s.recvLane c j l).held ≠ 0
    (∀ o, s.memOpnd c j i = .ok o → held o → i.op = 0x14 →
      (∀ err, err ≠ .uncorrectable → s.opndBad c j o w = none → Answers (exec (.ld ⟨core, err⟩) s)
        (Issued s c i (BitVec.ofNat 64 (leNat (s.opndRead c j o w))))) ∧
      (∀ err b, c ∈ j.cores → bad o err b → Answers (exec (.ld ⟨core, err⟩) s) fun t => (t.core c).hValid = true ∧
        (∀ r, (t.core c).reg r = k.reg r) ∧ ((s.core c).hValid = false → (t.core c).hCode = Config.SRAM_UNCORRECTABLE ∧
          (t.core c).hData = BitVec.ofNat 64 b) ∧ (t.core c).st ≠ .running)) ∧
    (∀ o, s.memOpnd c j i = .ok o → held o → i.op = 0x15 → Answers (exec (.st core) s) fun t =>
      Passed s t c i ∧ (∀ d, d ≠ c → (t.core d).scratch = (s.core d).scratch ∧ ∀ r, (t.core d).reg r = (s.core d).reg r) ∧
      (t.core c).recvLanes = k.recvLanes ∧
      (t.core c).scratch = memPutAll k.scratch (s.opndAddr c j o) (leBytes w (k.reg i.b).toNat) ∧ Only [.run, .jobs, .cores, .counters, .updates, .fr, .chime, .obs, .freeCount] s t) ∧
    (∀ d, s.memOpnd c j i = .error (.range d) →
      (i.op = 0x14 → ∀ err, Answers (exec (.ld ⟨core, err⟩) s) fun t => Halts s t c n j Config.SCRATCH_RANGE k.pc d) ∧
      (i.op = 0x15 → Answers (exec (.st core) s) fun t => Halts s t c n j Config.SCRATCH_RANGE k.pc d))

/-- R158, R159, R243, R396, R419, R423. -/
def Obligations.FillsOfTheInstructionCache : Prop :=
  (∀ (s : State) (core : BitVec 4) (n : Nat) (j : Job), s.issuing core.toNat = some (n, j) → s.front core.toNat j = .miss →
    let c := core.toNat
    let k := s.core c
    let g := s.gen j.gen
    let a := g.base + 128 * (k.pc / 128)
    (∀ bs, s.poisoned a 128 = false → s.hitsObjTable a 128 = false → s.lineBytes g (k.pc / 128) = some bs →
      Answers (exec (.icacheFill core (.line false)) s) fun t => (t.core c).cached j.gen (k.pc / 128) = some bs ∧
        (t.core c).stall = 0#3 ∧ (t.core c).pc = k.pc ∧ (t.core c).regs = k.regs ∧ (t.core c).flags = k.flags ∧
        (∀ d, d ≠ c → t.core d = s.core d) ∧ Only [.cores, .obs] s t) ∧
    (s.poisoned a 128 = false → (s.hitsObjTable a 128 = true ∨ s.lineBytes g (k.pc / 128) = none) →
      Answers (exec (.icacheFill core (.line false)) s) fun t =>
      Halts s t c n j Config.ACCESS_DENIED k.pc ((s.progOf j).setWidth 64) ∧ Only [.run, .jobs, .cores, .fr, .chime, .obs, .freeCount] s t) ∧
    (∀ p, (p = true ∨ s.poisoned a 128 = true) → Answers (exec (.icacheFill core (.line p)) s) fun t =>
      Halts s t c n j Config.MEM_POISON k.pc 0#64 ∧ (∀ l ∈ linesOf a 128, l ∈ t.poison) ∧
        (∀ l ∈ s.poison, l ∈ t.poison) ∧ Only [.poison, .run, .jobs, .cores, .fr, .chime, .obs, .freeCount] s t)) ∧
  (∀ (s : State) (core : BitVec 4) (p : Bool), (s.issuing core.toNat = none ∨
    ∃ n j, s.issuing core.toNat = some (n, j) ∧ s.front core.toNat j ≠ .miss) → exec (.icacheFill core (.line p)) s = .next s) ∧
  (∀ (s : State) (core : BitVec 4) (n : Nat) (j : Job), s.issuing core.toNat = some (n, j) →
    let c := core.toNat
    let k := s.core c
    let g := s.gen j.gen
    let still (t : State) : Prop := (t.core c).stall = k.stall ∧ (t.core c).pc = k.pc ∧ (t.core c).regs = k.regs ∧
      (t.core c).flags = k.flags ∧ ∀ d, d ≠ c → t.core d = s.core d
    (k.prefetch = [] → ∀ p, exec (.icacheFill core (.ahead p)) s = .next s) ∧
    (∀ line r, k.prefetch = line :: r → let a := g.base + 128 * line
      (∀ bs, s.poisoned a 128 = false → s.hitsObjTable a 128 = false → s.lineBytes g line = some bs →
        Answers (exec (.icacheFill core (.ahead false)) s) fun t => (t.core c).cached j.gen line = some bs ∧
          (t.core c).prefetch = k.prefetch.filter (fun l => l != line) ∧ still t ∧ Only [.cores] s t) ∧
      (∀ p, (p = true ∨ s.poisoned a 128 = true) → Answers (exec (.icacheFill core (.ahead p)) s) fun t =>
        (∀ l ∈ linesOf a 128, l ∈ t.poison) ∧ (∀ l ∈ s.poison, l ∈ t.poison) ∧ (t.core c).prefetch = r ∧
          (t.core c).icache = k.icache ∧ still t ∧ Only [.cores, .poison] s t) ∧
      (s.poisoned a 128 = false → (s.hitsObjTable a 128 = true ∨ s.lineBytes g line = none) →
        Answers (exec (.icacheFill core (.ahead false)) s) fun t => (t.core c).prefetch = r ∧
          (t.core c).icache = k.icache ∧ still t ∧ Only [.cores] s t)) ∧
    (k.fetched = none → k.cachedLine j.gen (k.pc / 128) ≠ none → Answers (exec (.icacheFill core .parity) s) fun t =>
      (t.core c).cachedLine j.gen (k.pc / 128) = none ∧ still t ∧ Only [.poison, .run, .jobs, .cores, .fr, .chime, .obs, .freeCount] s t) ∧
    ((k.fetched ≠ none ∨ k.cachedLine j.gen (k.pc / 128) = none) → exec (.icacheFill core .parity) s = .next s))

/-- R104, R115, R127, R146, R156, R171. -/
def Obligations.StreamInstructionsQueueTheirOperation : Prop :=
  ∀ (s : State) (core : BitVec 4) (n : Nat) (j : Job) (i : Ins), MayIssue s core.toNat n j i → streamLegal i = true →
    j.deferred = false →
    let c := core.toNat
    let k := s.core c
    let th := i.mod % 64
    let old := (k.se.thread th).queue
    let op (kind : SKind) (r : W32) (off len : Nat) (o : SOp) (lanes : List Nat) (round : Nat) : StreamOp :=
      { kind := kind, objRef := r, off := off, len := len, scratch := o, lanes := lanes, pc := k.pc, sig := k.sigOf i.signal,
        round := round, id := k.se.nextId, obj := 0, base := 0, total := 0, leads := false, issued := 0, landed := [] }
    let queued (x : Instr) (o : StreamOp) : Prop := Answers (exec x s) fun t =>
      ((t.core c).se.thread th).queue = old ++ [o] ∧ ((t.core c).se.thread th).active = (k.se.thread th).active ∧
        (∀ u, u ≠ th → (t.core c).se.thread u = k.se.thread u) ∧ (t.core c).se.nextId = k.se.nextId + 1 ∧
        (∀ r, (t.core c).reg r = k.reg r) ∧ (t.core c).pc = k.pc + 16 ∧ (t.core c).flags = flagsWaited i.wait k.flags ∧
        IssueKeeps s t c ∧ ScratchKept s t
    let held (o : SOp) : Prop := ∀ l ∈ o.laneOf, (s.recvLane c j l).held ≠ 0
    let moves (x : Instr) (kind : SKind) : Prop := ∀ r o, s.objLegal c j i kind = true → s.objOperand c j i = some r →
      s.objScratch c j i kind = .ok o → held o → s.sealBreach c j i kind = none →
      queued x (op kind r (k.reg i.b).toNat (k.reg i.c).toNat o [] (tget 0 k.se.mcasts r.toNat))
    (old.length < 8 →
      (i.op = 0xC0 → moves (.streamLoad core) .load) ∧ (i.op = 0xC1 → moves (.store core) .store) ∧
      (i.op = 0xC3 → moves (.mcast core) .mcast) ∧
      (i.op = 0xC2 → s.sendLegal c j i = true → ∀ o, s.scratchOpnd c j i.imm (s.maskTile c j i) = .ok o → held o →
        queued (.send core) (op .send 0#32 0 (s.maskTile c j i) o (s.maskLanes c i) 0)) ∧
      (i.op = 0xC5 → queued (.fence core) (op .fence 0#32 0 0 (.work 0) [] 0))) ∧
    (i.op = 0xC4 → i.x < s.recvCount j →
      let r := s.recvLane c j i.x
      let key := laneKey r.srcStation r.srcLane
      (r.held ≠ 0 → Answers (exec (.release core) s) fun t => Passed s t c i ∧
        t.recvLane c j i.x = { r with held := r.held - 1, ptr := (r.ptr + 1) % r.slots } ∧
        (∀ y, tfind (s.core r.srcCore).sendLanes key = some y →
          tfind (t.core r.srcCore).sendLanes key = some { y with returning := y.returning + 1 }) ∧
        (∀ d, d ≠ c → (t.core d).recvLanes = (s.core d).recvLanes) ∧
        (∀ d, d ≠ r.srcCore → (t.core d).sendLanes = (s.core d).sendLanes) ∧ ScratchKept s t ∧ Only [.run, .jobs, .cores, .counters, .updates, .fr, .chime, .obs, .freeCount] s t) ∧
      (r.held = 0 → Answers (exec (.release core) s) fun t =>
        Halts s t c n j Config.COUNTER_UNDERFLOW k.pc (BitVec.ofNat 64 i.x) ∧ Only [.run, .jobs, .cores, .fr, .chime, .obs, .freeCount] s t))

/-- R115, R122, R127 to R133, R254, R255, R282, R396, R398, R420. -/
def Obligations.StreamOperationsStart : Prop :=
  (∀ (s : State) (core : BitVec 4) (th : BitVec 6) (n : Nat) (j : Job) (o : StreamOp) (rest : List StreamOp),
    s.engaged core.toNat = some (n, j) → ((s.core core.toNat).se.thread th.toNat).queue = o :: rest →
    let c := core.toNat
    let x (err : SramErr) : Instr := .streamOpStart ⟨core, err⟩ th
    let t0 := (s.core c).se.thread th.toNat
    let bs := s.opndRead c j o.scratch o.len
    let faults (err : SramErr) (code : BitVec 16) (addr : Option Nat) : Prop := Answers (exec (x err) s) fun t =>
      StreamFaults s t c n j th.toNat o.kind.code code addr ∧ Only [.run, .jobs, .cores, .fr, .chime, .obs, .freeCount] s t
    let counts (err : SramErr) : List Field := if err = .corrected then [.fr, .chime, .obs] else []
    let bad (err : SramErr) (b : Nat) : Prop :=
      (err = .uncorrectable ∧ 0 < o.len ∧ b = s.opndAddr c j o.scratch) ∨
        (err ≠ .uncorrectable ∧ s.opndBad c j o.scratch o.len = some b)
    (t0.held o = true → ∀ err, exec (x err) s = .next s) ∧
    (t0.held o = false →
      (o.kind = .fence → ∀ err, Answers (exec (x err) s) fun t =>
        (t.core c).se.thread th.toNat = { queue := rest, active := t0.active ++ [o] } ∧ Only [.cores] s t) ∧
      (o.kind = .send →
        ((∃ l ∈ o.lanes, (s.sendLane c j l).credits = 0) → ∀ err, exec (x err) s = .next s) ∧
        ((∀ l ∈ o.lanes, (s.sendLane c j l).credits ≠ 0) →
          (∀ err b, bad err b → faults err Config.SRAM_UNCORRECTABLE (some b)) ∧
          (∀ err, err ≠ .uncorrectable → s.opndBad c j o.scratch o.len = none → o.lanes.Nodup → Answers (exec (x err) s) fun t =>
            (t.core c).se.thread th.toNat = { queue := rest, active := t0.active ++ [o] } ∧
            (∀ l, (t.sendLane c j l).credits = (s.sendLane c j l).credits - if l ∈ o.lanes then 1 else 0) ∧
            ScratchKept s t ∧ Only ([.cores] ++ counts err) s t))) ∧
      (o.kind = .load ∨ o.kind = .store ∨ o.kind = .mcast →
        (s.streamEntry j o.objRef (o.kind == .store) = none → ∀ err, faults err Config.MEM_TRANSLATION
          ((s.streamEntry j o.objRef false).map fun i => lineAddr (s.opBase j o i + o.off))) ∧
        (∀ e f, s.streamEntry j o.objRef (o.kind == .store) = some e → s.streamBreach j o e = some f →
          ∀ err, faults err f.1 (some f.2)) ∧
        (∀ e, s.streamEntry j o.objRef (o.kind == .store) = some e → s.streamBreach j o e = none →
          let base := s.opBase j o e
          let o' := { o with obj := e, base := base, total := (linesOf (base + o.off) o.len).length }
          (∀ b plain err, o.kind = .load → s.basinFor j o' = some b → b.badIn o.off o.len = none →
            s.basinPlain j b e o.off o.len = some plain → Answers (exec (x err) s) fun t =>
              ((t.core c).se.thread th.toNat).queue = rest ∧
              (∃ p ∈ ((t.core c).se.thread th.toNat).active, p.id = o.id ∧ p.leads = false ∧ ∀ l < o'.total, l ∈ p.landed) ∧
              (t.core c).scratch = memPutAll (s.core c).scratch (s.opndAddr c j o.scratch) plain ∧ Only [.cores] s t) ∧
          (o.kind = .load → s.basinFor j o' = none → ∀ err,
            (4096 ≤ (s.core c).se.inFlight → exec (x err) s = .next s) ∧
            ((s.core c).se.inFlight < 4096 → Answers (exec (x err) s) fun t => ((t.core c).se.thread th.toNat).queue = rest ∧
              (∃ p ∈ ((t.core c).se.thread th.toNat).active, p.id = o.id ∧ p.leads = true ∧ p.obj = e ∧ p.base = base ∧
                p.total = o'.total) ∧ ScratchKept s t ∧ Only [.cores] s t)) ∧
          (o.kind = .store → s.storeHeld c j th.toNat o' = true → ∀ err, exec (x err) s = .next s) ∧
          (o.kind = .store → s.storeHeld c j th.toNat o' = false →
            (∀ err b, bad err b → faults err Config.SRAM_UNCORRECTABLE (some b)) ∧
            (∀ err, err ≠ .uncorrectable → s.opndBad c j o.scratch o.len = none →
              let out := if (s.obj e).encrypted then (match s.keyOf (s.obj e).keySlot.toNat with
                | some key => cipherBytes key o.off bs
                | none => bs) else bs
              Answers (exec (x err) s) fun t => ((t.core c).se.thread th.toNat).queue = rest ∧
                Stores s t (base + o.off) out ∧ (∃ k, t.job n = some k ∧ s.rootOf e ∈ k.wrote ∧ (∀ r ∈ j.wrote, r ∈ k.wrote) ∧
                  k.stores = j.stores ++ [⟨s.rootOf e, o.off, out, c, th.toNat, o.id, false⟩]) ∧
                ScratchKept s t ∧ Only [.writes, .mem, .poison, .au, .run, .pool, .gens, .insts, .jobs, .cores, .fr, .chime, .obs, .freeCount] s t)))))) ∧
  (∀ (s : State) (core : BitVec 4) (th : BitVec 6), (s.engaged core.toNat = none ∨
    ((s.core core.toNat).se.thread th.toNat).queue = []) → ∀ err, exec (.streamOpStart ⟨core, err⟩ th) s = .next s)

/-- R120, R121, R122, R128, R130, R148, R156. -/
def Obligations.StreamOperationsComplete : Prop :=
  (∀ (s : State) (core : BitVec 4) (th : BitVec 6) (n : Nat) (j : Job) (o : StreamOp), s.engaged core.toNat = some (n, j) →
    ((s.core core.toNat).se.thread th.toNat).active.find? (s.opDone core.toNat th.toNat) = some o →
    let c := core.toNat
    let x : Instr := .streamOpComplete core th
    let t0 := (s.core c).se.thread th.toNat
    let left (t : State) : Prop := (t.core c).se.thread th.toNat = { t0 with active := t0.active.filter fun p => p.id != o.id }
    let mine : Prop := ∀ id a, o.sig = .cadd id a → s.coreMayUse j .add id = true
    (mine → o.kind = .load ∨ o.kind = .store ∨ o.kind = .mcast → Answers (exec x s) fun t =>
      left t ∧ Signalled s t c n o.pc (.stream c) o.sig ∧ ScratchKept s t ∧ Only [.cores, .updates] s t) ∧
    (mine → o.kind = .fence → Answers (exec x s) fun t =>
      left t ∧ Signalled s t c n o.pc (.stream c) o.sig ∧ ScratchKept s t ∧ Only [.cores, .updates, .jobs] s t ∧
        ∃ k, t.job n = some k ∧ k.stores = j.stores.map fun x =>
          if x.core = c ∧ x.thread = th.toNat ∧ x.id < o.id then { x with fenced := true } else x) ∧
    (mine → o.kind = .send → (o.lanes.map fun l => (s.sendLane c j l).dst).Nodup → Answers (exec x s) fun t =>
      left t ∧ ScratchKept s t ∧ Only [.cores, .updates] s t ∧
        ∀ l ∈ o.lanes, ∀ r, tfind (s.core (s.sendLane c j l).dst.1).recvLanes (s.sendLane c j l).dst.2 = some r →
          ∃ f, tfind (t.core (s.sendLane c j l).dst.1).recvLanes (s.sendLane c j l).dst.2 =
              some { r with inFlight := r.inFlight ++ [f] } ∧ f.bytes = s.opndRead c j o.scratch o.len ∧ f.src = c ∧ f.pc = o.pc ∧
            (f.sig = .none ∨ (f.sig = o.sig ∧ o.sig.home = some (s.sendLane c j l).dst.1))) ∧
    (∀ id a, o.kind = .load → o.sig = .cadd id a → s.coreMayUse j .add id = false → Answers (exec x s) fun t =>
      Halts s t c n j Config.COUNTER_OWNER o.pc (id.setWidth 64) ∧ Only [.run, .jobs, .cores, .fr, .chime, .obs, .freeCount] s t)) ∧
  (∀ (s : State) (core : BitVec 4) (th : BitVec 6), (s.engaged core.toNat = none ∨
    ((s.core core.toNat).se.thread th.toNat).active.find? (s.opDone core.toNat th.toNat) = none) →
    exec (.streamOpComplete core th) s = .next s)

/-- R103, R112, R115, R116, R118, R120, R153, R419. Which lane is meant where several stations of a window share a number is the model's reading
(log entry 7). -/
def Obligations.TilesCreditsAndWatches : Prop :=
  (∀ (s : State) (core : BitVec 4) (lane : BitVec 6), s.obs.halted = false →
    let c := core.toNat
    let counts (err : SramErr) : List Field := if err = .corrected then [.fr, .chime, .obs] else []
    let killed (t : State) (key : Nat) : Prop :=
      (∀ n j, (s.jobs.find? fun x => x.2.kind == .station (key / 64) && x.2.cores.contains c) = some (n, j) →
        s.job n = some j → j.kill = none → ∃ k, t.job n = some k ∧ k.kill = some .fault ∧
          k.killCode = Config.SRAM_UNCORRECTABLE) ∧ Only [.run, .jobs, .cores, .updates, .fr, .chime, .obs, .freeCount] s t
    (∀ key r f rest, laneFirst (s.ownLane c lane.toNat) lane.toNat (s.core c).recvLanes (s.core c).tileNext = some (key, r) →
      r.inFlight = f :: rest → (∀ err, err ≠ .uncorrectable → Answers (exec (.tileArrival ⟨core, err⟩ lane) s) fun t =>
        tfind (t.core c).recvLanes key = some { r with held := r.held + 1, inFlight := rest } ∧
        (∀ k, k ≠ key → tfind (t.core c).recvLanes k = tfind (s.core c).recvLanes k) ∧
        (t.core c).scratch = memPutAll (s.core c).scratch (r.buf + (r.ptr + r.held) % r.slots * r.tileBytes) f.bytes ∧
        (∀ d, d ≠ c → (t.core d).scratch = (s.core d).scratch) ∧
        (∀ n, (s.core f.src).job = some n → Signalled s t f.src n f.pc (.stream f.src) f.sig) ∧
        Only ([.cores, .updates] ++ counts err) s t) ∧
      Answers (exec (.tileArrival ⟨core, .uncorrectable⟩ lane) s) fun t =>
        tfind (t.core c).recvLanes key = some { r with inFlight := rest } ∧ t.updates = s.updates ∧ ScratchKept s t ∧
          killed t key) ∧
    (laneFirst (s.ownLane c lane.toNat) lane.toNat (s.core c).recvLanes (s.core c).tileNext = none →
      ∀ err, exec (.tileArrival ⟨core, err⟩ lane) s = .next s) ∧
    (∀ key x, laneFirst (s.ownLane c lane.toNat) lane.toNat (s.core c).sendLanes (fun x => decide (0 < x.returning)) = some (key, x) →
      (∀ err, err ≠ .uncorrectable → Answers (exec (.creditReturn ⟨core, err⟩ lane) s) fun t =>
        t.cores = (s.modCore c fun k => { k with
          sendLanes := tput k.sendLanes key { x with credits := x.credits + 1, returning := x.returning - 1 } }).cores ∧
        Only ([.cores] ++ counts err) s t) ∧
      Answers (exec (.creditReturn ⟨core, .uncorrectable⟩ lane) s) fun t =>
        tfind (t.core c).sendLanes key = some { x with returning := x.returning - 1 } ∧ ScratchKept s t ∧ killed t key) ∧
    (laneFirst (s.ownLane c lane.toNat) lane.toNat (s.core c).sendLanes (fun x => decide (0 < x.returning)) = none →
      ∀ err, exec (.creditReturn ⟨core, err⟩ lane) s = .next s) ∧
    (∀ w v rest, (s.core c).watch = some w → w.pushes = v :: rest → exec (.watchPush core) s = .next (s.modCore c fun k =>
      { k with watch := some { w with value := v, pushes := rest } })) ∧
    (∀ w, (s.core c).watch = some w → w.pushes = [] → exec (.watchPush core) s = .next s) ∧
    ((s.core c).watch = none → exec (.watchPush core) s = .next s)) ∧
  (∀ (s : State) (core : BitVec 4) (lane : BitVec 6), s.obs.halted = true →
    (∀ err, exec (.tileArrival ⟨core, err⟩ lane) s = .next s ∧ exec (.creditReturn ⟨core, err⟩ lane) s = .next s) ∧ exec (.watchPush core) s = .next s)

/-- R299 to R305, R309, R310, R326, R419. -/
def Obligations.CounterUpdatesApply : Prop :=
  (∀ (s : State) (home : BitVec 4) (u : Update) (rest : List Update), Running' s →
    tget [] s.updates home.toNat = u :: rest → (s.counter u.id.toNat).kind ≠ .flightArrive →
    (∀ n j, u.job = some n → s.job n = some j → (∃ st, j.kind = .station st) ∨ j.tableFull u.id = false) →
    let x := s.counter u.id.toNat
    let sum : Int := (x.value.toNat : Int) + u.amount.toInt
    let others (t : State) : Prop := tget [] t.updates home.toNat = rest ∧ (∀ m, m ≠ u.id.toNat → t.counter m = s.counter m) ∧
      t.mem = s.mem ∧ t.queues = s.queues
    let faults (t : State) (code : BitVec 16) : Prop :=
      (s.sy.fValid = false → t.sy.fValid = true ∧ t.sy.fId = u.id ∧ t.sy.fCode = code ∧ t.sy.fAmount = u.amount ∧
        t.sy.fBefore = x.value) ∧ (s.sy.fValid = true → t.sy = s.sy) ∧
      ∀ n j, u.job = some n → s.job n = some j → j.kill = none → j.cores ≠ [] →
        ∃ k, t.job n = some k ∧ k.kill = some .fault ∧ k.killCode = code
    (x.state ≠ .live → ∀ e, Answers (exec (.counterUpdate home e) s) fun t => others t ∧
      t.counter u.id.toNat = x ∧ t.sy = { s.sy with dropped := satInc s.sy.dropped }) ∧
    (x.state = .live →
      (∀ e, e ≠ .uncorrectable → x.error = false ∨ (0 ≤ sum ∧ sum ≤ 0xFFFFFFFF) → Answers (exec (.counterUpdate home e) s) fun t => others t ∧
        t.counter u.id.toNat = { x with value := x.value + u.amount } ∧ t.sy = s.sy) ∧
      (∀ e, e ≠ .uncorrectable → x.error = true → sum < 0 → Answers (exec (.counterUpdate home e) s) fun t => others t ∧
        t.counter u.id.toNat = { x with state := .faulted, fault := 2#2 } ∧ faults t Config.COUNTER_UNDERFLOW) ∧
      (∀ e, e ≠ .uncorrectable → x.error = true → 0xFFFFFFFF < sum → Answers (exec (.counterUpdate home e) s) fun t => others t ∧
        t.counter u.id.toNat = { x with state := .faulted, fault := 1#2 } ∧ faults t Config.COUNTER_OVERFLOW) ∧
      Answers (exec (.counterUpdate home .uncorrectable) s) fun t => others t ∧
        t.counter u.id.toNat = { x with state := .faulted, fault := 3#2 } ∧ faults t Config.SRAM_UNCORRECTABLE)) ∧
  (∀ (s : State) (home : BitVec 4) (e : SramErr), NoneWaits s →
    (s.portAlive = false ∨ s.obs.halted = true ∨ tget [] s.updates home.toNat = []) →
    exec (.counterUpdate home e) s = .next s)

/-- R155, R156, R192 to R196, R216, R217. -/
def Obligations.EngineInstructionsQueueTheirOperation : Prop :=
  ∀ (s : State) (core : BitVec 4) (n : Nat) (j : Job) (i : Ins), MayIssue s core.toNat n j i → j.deferred = false →
    let c := core.toNat
    let k := s.core c
    let plain (t : State) : Prop := (∀ r, (t.core c).reg r = k.reg r) ∧ (t.core c).pc = k.pc + 16 ∧
      (t.core c).flags = flagsWaited i.wait k.flags ∧ IssueKeeps s t c ∧ ScratchKept s t
    let matrix (x : Instr) (kind : MKind) : Prop := ∀ o, matrixLegalFor j i = true → k.me.queue.length < 4 →
      s.matCheck c j i kind = .ok o → (∀ l ∈ o.laneOf, (s.recvLane c j l).held ≠ 0) →
      (kind = .mma → wfmtFault i = none) → Answers (exec x s) fun t => plain t ∧ (t.core c).ve = k.ve ∧
        (t.core c).me = { k.me with queue := k.me.queue ++ [{ matOp k i kind o (k.sigOf i.signal) with pc := k.pc }] }
    let vector (x : Instr) : Prop := vectorLegal i = true → k.ve.queue.length < 8 →
      (∀ l ∈ (vecOp s c j i .none).lanes, l < s.recvCount j ∧ (s.recvLane c j l).held ≠ 0) →
      Answers (exec x s) fun t => plain t ∧ (t.core c).me = k.me ∧
        (t.core c).ve = { k.ve with queue := k.ve.queue ++ [{ vecOp s c j i (k.sigOf i.signal) with pc := k.pc }] }
    (i.op = 0x40 → matrix (.mwld core) .mwld) ∧ (i.op = 0x41 → matrix (.mma core) .mma) ∧
    (i.op = 0x42 → matrix (.mdrain core) .mdrain) ∧ (i.op = 0x43 → matrix (.mzero core) .mzero) ∧
    (i.op = 0x80 → vector (.vadd core)) ∧ (i.op = 0x81 → vector (.vsub core)) ∧ (i.op = 0x82 → vector (.vmul core)) ∧
    (i.op = 0x83 → vector (.vfma core)) ∧ (i.op = 0x84 → vector (.vmin core)) ∧ (i.op = 0x85 → vector (.vmax core)) ∧
    (i.op = 0x86 → vector (.vclamp core)) ∧ (i.op = 0x87 → vector (.vabs core)) ∧ (i.op = 0x88 → vector (.vneg core)) ∧
    (i.op = 0x89 → vector (.vcopy core)) ∧ (i.op = 0x8A → vector (.vrcp core)) ∧ (i.op = 0x8B → vector (.vrsqrt core)) ∧
    (i.op = 0x8C → vector (.vsqrt core)) ∧ (i.op = 0x8D → vector (.vexp2 core)) ∧ (i.op = 0x8E → vector (.vlog2 core)) ∧
    (i.op = 0x90 → vector (.vcmp core)) ∧ (i.op = 0x91 → vector (.vsel core)) ∧ (i.op = 0x92 → vector (.vmand core)) ∧
    (i.op = 0x93 → vector (.vmor core)) ∧ (i.op = 0x94 → vector (.vmnot core)) ∧ (i.op = 0x98 → vector (.vrsum core)) ∧
    (i.op = 0x99 → vector (.vrmax core)) ∧ (i.op = 0x9A → vector (.vrmin core)) ∧ (i.op = 0xA0 → vector (.vcvt core)) ∧
    (i.op = 0xA8 → vector (.vcompress core)) ∧ (i.op = 0xA9 → vector (.vexpand core))

/-- R192, R194, R196 to R204, R419, R420. -/
def Obligations.MatrixOperationsRun : Prop :=
  (∀ (s : State) (core : BitVec 4) (n : Nat) (j : Job) (o : MatOp) (rest : List MatOp), s.engaged core.toNat = some (n, j) →
    (s.core core.toNat).me.queue = o :: rest →
    let c := core.toNat
    let e := (s.core c).me
    let x : Instr := .matrixOpStart core .none
    let tile := o.tile e
    let bytes := s.opndRead c j o.scratch tile.size
    let o' := { o with size := tile.size, ends := s.arithCycle + o.occupancy tile.size }
    let begun : Matrix := { e with queue := rest, running := e.running ++ [o'] }
    (e.running.any (o.waitsFor e s.arithCycle) = true → ∀ r, exec (.matrixOpStart core r) s = .next s) ∧
    (e.running.any (o.waitsFor e s.arithCycle) = false →
      (Answers (exec (.matrixOpStart core .uncorrectable) s) fun t =>
        Halts s t c n j Config.SRAM_UNCORRECTABLE o.pc 0#64) ∧
      (∀ f, matStop s c j o = some f → Answers (exec x s) fun t => Halts s t c n j f.1 o.pc f.2 ∧ Only [.run, .jobs, .cores, .fr, .chime, .obs, .freeCount] s t) ∧
      (matStop s c j o = none →
        (∀ b, o.reads = true → s.opndBad c j o.scratch tile.size = some b → Answers (exec x s) fun t =>
          Halts s t c n j Config.SRAM_UNCORRECTABLE o.pc (BitVec.ofNat 64 b)) ∧
        (o.reads = true → s.opndBad c j o.scratch tile.size = none →
          let b : Bank := { fmt := o.fmt, arr := BitVec.ofNat 2 o.mod.toNat, sparse := tile.sparse, bytes := bytes }
          (o.kind = .mwld → Answers (exec x s) fun t => ScratchKept s t ∧ Only [.cores] s t ∧
            (t.core c).me = if bitAt o.mod.toNat 2 then { begun with bank1 := b } else { begun with bank0 := b }) ∧
          (o.kind = .mma → o.m ≤ 512 →
            let bk := o.bankOf e
            let wt : Tile := { fmt := bk.fmt.toNat, rows := arrN bk.arr.toNat, len := arrK bk.fmt.toNat bk.arr.toNat bk.sparse,
                               sparse := bk.sparse }
            Answers (exec x s) fun t => ScratchKept s t ∧ Only [.jobs, .cores, .obs] s t ∧
              (t.core c).me.queue = rest ∧ (t.core c).me.running = e.running ++ [o'] ∧
              (t.core c).me.bank0 = e.bank0 ∧ (t.core c).me.bank1 = e.bank1 ∧
              (∀ m, m < o.m → ∀ col, col < wt.rows → (t.core c).me.word (o.row + m) col =
                (mmaWord wt tile bk.bytes bytes (if bitAt o.mod.toNat 4 then e.word (o.row + m) col else 0#32) col m).word) ∧
              (∀ row col, col < 512 → ((∀ m, m < o.m → row % 512 ≠ (o.row + m) % 512) ∨ wt.rows ≤ col) →
                (t.core c).me.word row col = e.word row col))) ∧
        (o.kind = .mdrain ∨ o.kind = .mzero → Answers (exec x s) fun t =>
          (t.core c).me = begun ∧ ScratchKept s t ∧ Only [.cores] s t)))) ∧
  (∀ (s : State) (core : BitVec 4) (r : SramErr), (s.engaged core.toNat = none ∨ (s.core core.toNat).me.queue = []) →
    exec (.matrixOpStart core r) s = .next s) ∧
  (∀ (s : State) (core : BitVec 4) (p : MPath) (n : Nat) (j : Job) (o : MatOp) (rest : List MatOp),
    s.engaged core.toNat = some (n, j) → takePath p (s.core core.toNat).me.running = some (o, rest) →
    (∀ id a, o.sig = .cadd id a → s.coreMayUse j .add id = true) →
    let c := core.toNat
    let e := (s.core c).me
    let d := e.drain o
    let done (q : State → Prop) : Prop := Answers (exec (.matrixOpComplete core p) s) fun t => q t ∧
      (t.core c).me.running = rest ∧ (t.core c).me.queue = e.queue ∧ Signalled s t c n o.pc (.core c) o.sig ∧
      (∀ u, u ≠ c → t.core u = s.core u) ∧ Only [.cores, .updates] s t
    (o.kind = .mwld ∨ o.kind = .mma → done fun t => ScratchKept s t ∧ (t.core c).me.acc = e.acc) ∧
    (o.kind = .mzero → done fun t => ScratchKept s t ∧ ∀ row col, col < 512 → (t.core c).me.word row col =
      if row % 512 ∈ o.rows then 0#32 else e.word row col) ∧
    (o.kind = .mdrain → ∀ off, o.scratch = .work off → done fun t =>
      (t.core c).scratch = (let b := memPutAll (s.core c).scratch (s.shareBase j c + off) d.1
        if d.2.1.isEmpty then b else memPutAll b (s.shareBase j c + (off + (o.tile e).scaleOff)) d.2.1) ∧
      (t.core c).me.overflow = (e.overflow || d.2.2) ∧
      ∀ row col, col < 512 → (t.core c).me.word row col =
        if bitAt o.mod.toNat 4 = true ∧ row % 512 ∈ o.rows then 0#32 else e.word row col)) ∧
  (∀ (s : State) (core : BitVec 4) (p : MPath), (s.engaged core.toNat = none ∨
    takePath p (s.core core.toNat).me.running = none) → exec (.matrixOpComplete core p) s = .next s)

/-- R215, R219 to R223, R229, R231. What an overlap that is not in place leaves is a free value (log entry 5). -/
def Obligations.VectorGroupsRun : Prop :=
  (∀ (s : State) (core : BitVec 4) (n : Nat) (j : Job) (g rest : List VecOp), s.engaged core.toNat = some (n, j) →
    formGroup 4 (s.core core.toNat).ve.queue = some (g, rest) →
    let c := core.toNat
    let e := (s.core c).ve
    let x : Instr := .vectorGroupStart core .none
    (s.groupWaits c g = true → ∀ r, exec (.vectorGroupStart core r) s = .next s) ∧
    (∀ o k, s.groupWaits c g = false → groupFault [] g = some (o, k) → Answers (exec x s) fun t =>
      Halts s t c n j Config.ILLEGAL_OPCODE o.pc (BitVec.ofNat 64 o.pc) ∧ (t.core c).ve.groupFault = BitVec.ofNat 4 k ∧
        Only [.run, .jobs, .cores, .fr, .chime, .obs, .freeCount] s t) ∧
    (s.groupWaits c g = false → groupStop s c j g = none → Answers (exec x s) fun t =>
      (t.core c).ve = { e with
        queue := rest, groups := e.groups ++ [g], chains := s.groupChains c j g, busyUntil := s.arithCycle + occupancy g } ∧
        ScratchKept s t ∧ (∀ u, u ≠ c → t.core u = s.core u) ∧ Only [.jobs, .cores, .obs] s t) ∧
    (∀ o l, s.groupWaits c g = false → g = o :: l → Answers (exec (.vectorGroupStart core .uncorrectable) s) fun t =>
      Halts s t c n j Config.SRAM_UNCORRECTABLE o.pc 0#64)) ∧
  (∀ (s : State) (core : BitVec 4) (r : SramErr), (s.engaged core.toNat = none ∨
    formGroup 4 (s.core core.toNat).ve.queue = none) → exec (.vectorGroupStart core r) s = .next s) ∧
  (∀ (s : State) (core : BitVec 4) (n : Nat) (j : Job) (g : List VecOp) (rest : List (List VecOp)) (d : VecOp) (m : MemberOut),
    s.engaged core.toNat = some (n, j) → (s.core core.toNat).ve.groups = g :: rest →
    let c := core.toNat
    let e := (s.core c).ve
    let rs := s.groupRun c j s.freeCount g []
    rs.getLast? = some (d, m) →
    (∀ o ∈ g, ∀ id a, o.sig = .cadd id a → s.coreMayUse j .add id = true) →
    let ps := planes (Config.freeByte (s.freeCount + 4 * d.draws)) d m.out
    let done (q : State → Prop) : Prop := Answers (exec (.vectorGroupComplete core) s) fun t => q t ∧
      (t.core c).ve.groups = rest ∧ (t.core c).ve.queue = e.queue ∧ (∀ o, g = [o] → Signalled s t c n o.pc (.core c) o.sig) ∧
      (∀ u, u ≠ c → t.core u = s.core u) ∧ Only [.jobs, .cores, .updates, .obs, .freeCount] s t
    (cleanOverlap g = true → done fun t =>
      (t.core c).scratch = (let u := writePlanes s c j d.destOp ps
        ((if d.op = 0xA8#8 then opndWrite u c j (d.src 2) (leBytes 4 m.out.codes.length) else u).core c).scratch) ∧
      (t.core c).ve.invalid = (e.invalid || rs.any fun r => r.2.invalid) ∧
      (t.core c).ve.zeroDiv = (e.zeroDiv || rs.any fun r => r.2.zeroDiv) ∧
      (t.core c).ve.overflow = (e.overflow || rs.any fun r => r.2.overflow) ∧
      (t.core c).ve.intSat = (e.intSat || rs.any fun r => r.2.intSat)) ∧
    (cleanOverlap g = false → d.op ≠ 0xA8#8 → done fun t => ∃ v : VStream, v.fmt = m.out.fmt ∧ v.codes.length = m.out.codes.length ∧
      (∀ i, ((s.groupOpen c j d s.freeCount g [] []).getLastD []).getD i false = false →
        v.codes.getD i 0 = m.out.codes.getD i 0) ∧
      (t.core c).scratch = ((writePlanes s c j d.destOp (planes (Config.freeByte (s.freeCount + 4 * d.draws)) d v)).core
        c).scratch)) ∧
  (∀ (s : State) (core : BitVec 4), (s.engaged core.toNat = none ∨ (s.core core.toNat).ve.groups = []) →
    exec (.vectorGroupComplete core) s = .next s)

/-- R9, R11, R12, R480, R490, R495, R512, R517 to R519. -/
def Obligations.HostPortChecksWrites : Prop :=
  ∀ (s : State) (who : Who) (off : BitVec 26) (wide : Bool) (data : W64),
    let x : Instr := .registerWrite who off wide data
    let counted : State := { s with boot := { s.boot with hostErr := satInc s.boot.hostErr } }
    let fused : State := { s with kp := { s.kp with fusedAccess := satInc s.kp.fusedAccess } }
    let aligned : Prop := off.toNat % (if wide then 8 else 4) = 0
    let awake : Prop := s.obs.halted = true → answersHalted off.toNat = true
    let early : Prop := s.boot.state = .ready ∨ answersEarly off.toNat = true
    let absent : Prop := ∃ c, windowCore off.toNat = some c ∧ s.present c = false
    (s.portAlive = false → exec x s = .next s) ∧
    (s.portAlive = true → ¬aligned → exec x s = .next counted) ∧
    (s.portAlive = true → aligned → ¬awake → exec x s = .next s) ∧
    (s.portAlive = true → aligned → awake → (¬early ∨ who.valid = false) → exec x s = .next counted) ∧
    (s.portAlive = true → aligned → awake → early → who.valid = true →
      (absent → exec x s = .next fused ∧ (wide = false → exec (.fusedWindowAccess who off true) s = .next fused ∧
        exec (.fusedWindowAccess who off false) s = .next fused)) ∧
      (¬absent → s.reaches who off.toNat true = false → Becomes (exec x s) s) ∧
      (¬absent → s.reaches who off.toNat true = true → wide = false → regRowAt off.toNat = none → exec x s = .next s)) ∧
    (ManagerMay s who →
      (∃ t, exec (.registerWrite who 0x100100#26 true data) s = .next t ∧
        t = { s with au := { s.au with imageAddr := BitVec.ofNat 48 (data.toNat / 4096 % 2 ^ 36 * 4096) } } ∧
        readReg t 0x100100 = BitVec.ofNat 64 (data.toNat / 4096 % 2 ^ 36 * 4096)) ∧
      exec (.registerWrite who 0x700#26 false data) s = .next { s with kp := { s.kp with
        remoteLimitUs := BitVec.ofNat 20 (max 1 (min 1000000 (data.toNat % 2 ^ 20))) } } ∧
      exec (.registerWrite who 0x200110#26 false data) s = .next { s with rg := { s.rg with qSel := data.setWidth 13 } } ∧
      exec (.registerWrite who 0x300000#26 false data) s = .next { s with sy := { s.sy with ctrSel := data.setWidth 17 } } ∧
      exec (.registerWrite who 0x800000#26 false data) s = .next { s with fr := { s.fr with
        classSeen := s.fr.classSeen &&& ~~~ data.setWidth 5 } })

/-- R270, R272, R273, R340, R359, R430. That the fetch command names the partition in turn is the model's form (log entry 7). -/
def Obligations.DoorbellsAndFetchSlots : Prop :=
  (∀ (s : State) (page : BitVec 6) (who : Who) (data : W64), PageMay s who page →
    let i := s.inst page.toNat
    let qn := data.toNat % 2 ^ 13
    let tail : W32 := BitVec.ofNat 32 (data.toNat / 2 ^ 32)
    let q := s.queue qn
    let x : Instr := .doorbell page who data
    let dead : Prop := i.state = .free ∨ i.state = .resetting ∨ s.fr.stopped = true
    let mine : Prop := i.pools.queueFirst ≤ qn ∧ qn < i.pools.queueFirst + i.pools.queueCount
    let beyond : Prop := 2 ^ q.ringLog2 < (tail - q.head).toNat
    (dead → exec x s = .next s) ∧ (¬dead → ¬mine → Becomes (exec x s) s) ∧
    (¬dead → mine → q.state = .free → exec x s = .next s) ∧
    (¬dead → mine → beyond → (q.state = .idle ∨ q.state = .ready ∨ q.state = .active ∨ q.state = .waiting ∨ q.state = .stopped) →
      Becomes (exec x s) (s.setQueue qn { q with tail := tail, state := .error })) ∧
    (¬dead → mine → q.state = .error → exec x s = .next (s.setQueue qn { q with tail := tail })) ∧
    (¬dead → mine → ¬beyond →
      (q.state = .idle → exec x s = .next (s.setQueue qn { q with
        tail := tail, state := if q.head = tail ∧ q.indirect = none then .idle else .ready })) ∧
      (q.state = .ready ∨ q.state = .waiting ∨ q.state = .stopped → exec x s = .next (s.setQueue qn { q with tail := tail })) ∧
      (q.state = .active → exec x s = .next (s.setQueue qn { q with
        tail := tail, state := if q.head = tail ∧ q.indirect = none then .idle else .active })))) ∧
  (∀ (s : State) (p : BitVec 3), (s.fetches = false ∨ s.slotSeekers p.toNat = []) →
    exec (.queueFetchSlot p) s = .next s) ∧
  (∀ (s : State) (p : BitVec 3) (x : Nat × Queue), s.fetches = true → lowestVt (s.slotSeekers p.toNat) = some x →
    let turns := (List.range 8).map fun k => (s.rg.fetchTurn.toNat + k) % 8
    let next := turns.find? fun t => !(s.slotSeekers t).isEmpty
    let free : Prop := s.queues.countP (fun q => q.2.state == .active) < 64
    (free → next = some p.toNat → Answers (exec (.queueFetchSlot p) s) fun t =>
      t.queue x.1 = ({ s.queue x.1 with state := .active } : Queue).drained ∧ (∀ n, n ≠ x.1 → t.queue n = s.queue n) ∧
        t.rg = { s.rg with fetchTurn := p + 1#3 } ∧ Only [.queues, .rg] s t) ∧
    (free → next ≠ some p.toNat → exec (.queueFetchSlot p) s = .next s) ∧
    (¬free → s.slotVictim p.toNat x.2 = none → exec (.queueFetchSlot p) s = .next s) ∧
    (¬free → ∀ v, s.slotVictim p.toNat x.2 = some v → v ≠ x.1 → Answers (exec (.queueFetchSlot p) s) fun t =>
      t.queue v = { s.queue v with state := .ready } ∧
        t.queue x.1 = ({ s.queue x.1 with state := .active } : Queue).drained ∧
        (∀ n, n ≠ x.1 → n ≠ v → t.queue n = s.queue n) ∧ Only [.queues] s t))

/-- R161, R248, R269, R275 to R292, R423. A packet of no command may be fetched by any of the rows (log entry 13). -/
def Obligations.PacketsAreFetched : Prop :=
  ∀ (s : State) (queue : BitVec 13), Numbered s →
    let qn := queue.toNat
    let q := s.queue qn
    let a := s.packetAddr q
    let b := s.readBytes a 64
    let index : W32 := match q.outer with | some o => o.index | none => q.head
    let fetched (x : Instr) : Prop :=
      let stands (p : State → Cmd → Prop) : Prop := Answers (exec x s) fun t =>
        (∃ c ∈ (t.queue qn).cmds, c.seqNo = s.rg.cmdSeq ∧ c.index = index ∧ c.tag = BitVec.ofNat 16 (leAt b 2 2) ∧
          c.notify = bitAt (leAt b 0 2) 8 ∧ c.overlap = bitAt (leAt b 0 2) 10 ∧ p t c) ∧
        (q.indirect = none → (t.queue qn).head = q.head + 1#32) ∧
        (∀ c ∈ q.cmds, c.isDone = true → c.isIndirect = false → c ∈ (t.queue qn).cmds) ∧ t.rg.cmdSeq = s.rg.cmdSeq + 1 ∧
        Only [.writes, .mem, .poison, .au, .run, .pool, .kp, .gens, .objs, .ctxs, .queues, .insts, .rg, .rgParts, .jobs, .cores, .counters, .flights, .sy, .sec, .tw, .links, .fr, .chime, .obs, .freeCount, .auIdle, .seqs] s t
      (s.poisoned a 64 = true → stands fun _ c => c.phase = .completed ∧ c.code = Config.MEM_POISON ∧ c.submission = true) ∧
      (s.poisoned a 64 = false → (pkOp b = 7 → s.kp.objInitBusy = false) →
        (∀ code d, s.checkPacket q.ctx q.part q.indirect.isSome b = .fail code d → stands fun _ c =>
          c.phase = .completed ∧ c.code = code ∧ c.submission = true) ∧
        (∀ h, q.indirect = none → s.checkPacket q.ctx q.part false b = .stale h → stands fun _ c =>
          c.phase = .recorded ∧ c.code = Config.STALE_HANDLE) ∧
        (∀ body, s.checkPacket q.ctx q.part q.indirect.isSome b = .ok body →
          (∀ m feat hm om prog off len entry bound args, body = .launch m feat hm om prog off len entry bound args →
            (s.genMatch (s.launchGen prog off len entry feat)).isSome ∨ s.genSlot.isSome) →
          (body.isWait = true → (s.waitAcked body = true ∧ (s.waitOutcome body).isSome) ∨ s.waitRoom (s.ctx q.ctx).inst = true) →
          stands fun _ c => c.body = body))
    let row (x : Instr) (op mode : Nat) : Prop :=
      (s.mayFetch q = true → q.held = .none → (s.nextOp q = some (op, mode) ∨ s.nextOp q = none) → fetched x) ∧
      (s.mayFetch q = true → q.held = .none → ∀ y, s.nextOp q = some y → y ≠ (op, mode) → exec x s = .next s) ∧
      ((s.mayFetch q = false ∨ q.held ≠ .none) → exec x s = .next s)
    row (.nopPacket queue) 0 0 ∧ row (.launch queue) 1 0 ∧ row (.copy queue) 2 0 ∧ row (.fill queue) 3 0 ∧
    row (.wait queue) 4 0 ∧ row (.signal queue) 5 0 ∧ row (.barrier queue) 6 0 ∧ row (.objectMapNew queue) 7 0 ∧
    row (.objectMapImport queue) 7 1 ∧ row (.objectMapBind queue) 7 2 ∧ row (.objectFree queue) 8 0 ∧
    row (.timestamp queue) 9 0 ∧ row (.counterDump queue) 10 0 ∧ row (.indirect queue) 11 0 ∧
    (s.mayFetch q = true → q.held ≠ .none → (((fetchPacket (hold s qn .none) qn).queue qn).held = .none →
      exec (.fetchRetry queue) s = .next (fetchPacket (hold s qn .none) qn)) ∧
      (((fetchPacket (hold s qn .none) qn).queue qn).held ≠ .none → exec (.fetchRetry queue) s = .next s)) ∧
    ((s.mayFetch q = false ∨ q.held = .none) → exec (.fetchRetry queue) s = .next s)

/-- R275, R284, R291, R353. -/
def Obligations.IndirectsAndWaitsAreFetched : Prop :=
  ∀ (s : State) (queue : BitVec 13), Numbered s →
    let qn := queue.toNat
    let q := s.queue qn
    let a := s.packetAddr q
    let b := s.readBytes a 64
    s.mayFetch q = true → q.held = .none → q.indirect = none → s.poisoned a 64 = false →
    (∀ c ∈ q.cmds, c.isDone = true) →
    (∀ h off count, s.nextOp q = some (11, 0) → s.checkPacket q.ctx q.part false b = .ok (.indirect h off count) →
      Answers (exec (.indirect queue) s) fun t =>
        (t.queue qn).indirect = some { obj := handleIndex h, off := off, count := count, next := 0 } ∧
          (t.queue qn).head = q.head + 1#32) ∧
    (∀ body, s.nextOp q = some (4, 0) → s.checkPacket q.ctx q.part false b = .ok body → body.isWait = true →
      s.waitOutcome body = none → s.waitRoom (s.ctx q.ctx).inst = true → Answers (exec (.wait queue) s) fun t =>
        (t.queue qn).state = .waiting ∧ (∃ c ∈ (t.queue qn).cmds, c.seqNo = s.rg.cmdSeq ∧ c.body = body ∧ c.phase = .pendingWait)) ∧
    (∀ body, s.nextOp q = some (4, 0) → s.checkPacket q.ctx q.part false b = .ok body → body.isWait = true →
      s.waitOutcome body = none → s.waitRoom (s.ctx q.ctx).inst = false → Answers (exec (.wait queue) s) fun t =>
        (t.queue qn).held = .waitSlot ∧ (t.queue qn).cmds = q.cmds ∧ (t.queue qn).head = q.head ∧ t.kp.waitFullSeen = true ∧
          t.rg = s.rg)

/-- R243, R245, R254 to R256, R274, R283, R423, R425. -/
def Obligations.CopiesAndFills : Prop :=
  (∀ (s : State) (part : BitVec 3), ((s.rgPart part.toNat).copyRun.isSome ∨ s.fetches = false ∨ s.startableMoves part.toNat = []) →
    exec (.copyFillStart part) s = .next s) ∧
  (∀ (s : State) (part : BitVec 3) (qn : Nat) (c : Cmd) (rest : List (Nat × Cmd)), (s.rgPart part.toNat).copyRun = none →
    s.fetches = true → s.startableMoves part.toNat = (qn, c) :: rest → DistinctCmds s → (s.queue qn).cmd c.seqNo = some c →
    Answers (exec (.copyFillStart part) s) fun t => (t.rgPart part.toNat).copyRun = some (qn, c.seqNo) ∧
      ((∀ d ∈ (s.queue qn).cmds, d.seqNo ≠ c.seqNo → d.isDone = true) → ∃ d ∈ (t.queue qn).cmds, d.seqNo = c.seqNo ∧
        d.phase = .started ∧ d.pins = (s.cmdReads c).map fun i => (i, s.version i)) ∧ Only [.writes, .mem, .poison, .au, .pool, .gens, .ctxs, .queues, .insts, .rgParts, .fr, .chime, .obs, .freeCount] s t) ∧
  (∀ (s : State) (part : BitVec 3) (qn n : Nat) (c : Cmd), s.portAlive = true → s.obs.halted = false →
    (s.rgPart part.toNat).copyRun = some (qn, n) → (s.queue qn).cmd n = some c → c.isDone = false → DistinctCmds s →
    let ends (t : State) (code : BitVec 16) (wrote : List Nat) : Prop := (t.rgPart part.toNat).copyRun = none ∧
      (∃ d ∈ (t.queue qn).cmds, d.seqNo = n ∧ d.phase = .completed ∧ d.code = code ∧ d.wrote = wrote) ∧
      Only [.writes, .mem, .poison, .au, .pool, .gens, .ctxs, .queues, .insts, .rgParts, .fr, .chime, .obs, .freeCount] s t
    (s.copyHeld part.toNat = true → exec (.copyFillComplete part) s = .next s) ∧
    (c.body.isMove = true → s.copyHeld part.toNat = false → s.moveDenied c = true →
      Answers (exec (.copyFillComplete part) s) fun t => ends t Config.ACCESS_DENIED c.wrote ∧ (Settled s → t.mem = s.mem)) ∧
    (∀ a, s.copyHeld part.toNat = false → s.moveDenied c = false → s.movePoison c = some a → Answers (exec (.copyFillComplete part) s) fun t =>
      ends t Config.MEM_POISON c.wrote ∧ (Settled s → t.mem = s.mem)) ∧
    (∀ src dst so off len, c.body = .copy src dst so off len → s.copyHeld part.toNat = false →
      s.moveDenied c = false → s.movePoison c = none →
      Answers (exec (.copyFillComplete part) s) fun t => ends t Config.NONE [s.rootOf (handleIndex dst)] ∧
        (Settled s → Stores s t (s.stagingBase dst + off) (s.readBytes (s.pinnedBase c src + so) len))) ∧
    (∀ dst off len pat, c.body = .fill dst off len pat → s.copyHeld part.toNat = false → s.moveDenied c = false → Answers (exec (.copyFillComplete part) s) fun t =>
      ends t Config.NONE [s.rootOf (handleIndex dst)] ∧ (Settled s → ∀ x, memGet t.mem x =
        if s.stagingBase dst + off ≤ x ∧ x < s.stagingBase dst + off + len then
          BitVec.ofNat 8 (pat.toNat / 2 ^ (8 * ((x - s.stagingBase dst) % 8))) else memGet s.mem x))) ∧
  (∀ (s : State) (part : BitVec 3), (s.portAlive = false ∨ s.obs.halted = true ∨ (s.rgPart part.toNat).copyRun = none) →
    exec (.copyFillComplete part) s = .next s)

/-- R123, R248, R249, R264, R267, R272, R275, R293, R364, R423. -/
def Obligations.WaitsFreesFillsAndTheTable : Prop :=
  (∀ (s : State) (queue : BitVec 13),
    let qn := queue.toNat
    let q := s.queue qn
    let found := q.cmds.find? fun c => c.phase == .pendingWait
    let may (c : Cmd) : Prop := s.portAlive = true ∧ s.obs.halted = false ∧ s.fr.stopped = false ∧
      (s.ctx q.ctx).state = .live ∧ s.waitAcked c.body = true
    (found = none → exec (.waitSatisfied queue) s = .next s) ∧
    (∀ c, found = some c → (¬may c ∨ s.waitOutcome c.body = none) → exec (.waitSatisfied queue) s = .next s) ∧
    (∀ c r, found = some c → may c → s.waitOutcome c.body = some r → s.startOpen q = true → c.body.isWait = true → DistinctCmds s →
      (∀ d ∈ q.cmds, d.seqNo ≠ c.seqNo → d.isDone = true) → Answers (exec (.waitSatisfied queue) s) fun t =>
        (∃ d ∈ (t.queue qn).cmds, d.seqNo = c.seqNo ∧ d.isDone = true ∧ d.code = r.1) ∧
        (q.state = .waiting → (t.queue qn).state = if q.head = q.tail ∧ q.indirect = none then .idle else .ready) ∧
        Only [.writes, .mem, .poison, .au, .pool, .gens, .ctxs, .queues, .insts, .rgParts, .fr, .chime, .obs, .freeCount] s t) ∧
    (∀ c r, found = some c → may c → s.waitOutcome c.body = some r → s.startOpen q = false → exec (.waitSatisfied queue) s =
      .next (s.modQueue qn fun q => q.modCmd c.seqNo fun c => { c with met := some (c.met.getD r) }))) ∧
  (∀ (s : State) (index : BitVec 18), s.portAlive = true → s.obs.halted = false →
    let i := index.toNat
    let o := s.obj i
    (o.state = .freeing → s.ownRefs i = 0 → Answers (exec (.freeComplete index) s) fun t =>
      t.obj i = { o with gen := if o.gen + 1#14 = 0#14 then 1#14 else o.gen + 1#14,
                         state := if s.importsOf i = 0 then .free else .orphaned } ∧
        (∀ k, k ≠ i → t.obj k = s.obj k) ∧ Only [.writes, .mem, .poison, .au, .pool, .gens, .objs, .ctxs, .queues, .insts, .rgParts, .fr, .chime, .obs, .freeCount] s t) ∧
    (o.state = .orphaned → s.refs i = 0 → Answers (exec (.freeComplete index) s) fun t =>
      t.obj i = { o with state := .free } ∧ (∀ k, k ≠ i → t.obj k = s.obj k) ∧ Only [.objs, .insts, .pool] s t) ∧
    ((o.state = .freeing ∧ s.ownRefs i ≠ 0) ∨ (o.state = .orphaned ∧ s.refs i ≠ 0) ∨
      (o.state ≠ .freeing ∧ o.state ≠ .orphaned) → exec (.freeComplete index) s = .next s)) ∧
  (∀ (s : State) (slot : W32) (r : Running) (b : Binding) (d : SlotDecl), s.portAlive = true → s.obs.halted = false →
    s.run = some r → tfind r.bindings slot.toNat = some b → r.img.slotDecl slot.toNat = some d →
    let base := s.versionBase b.obj (s.version b.obj)
    (b.waits = true → r.fillNext d = true → Answers (exec (.basinFillDone slot) s) fun t =>
      t.basin = tput s.basin slot.toNat {
        bytes := memPutAll [] 0 (s.readBytes base d.basinBytes), len := d.basinBytes,
        badLines := ((linesOf 0 d.basinBytes).filter fun l => s.poison.contains (base / 128 + l)).map fun l => (l, Config.MEM_POISON) } ∧
      t.run = some { r with bindings := tput r.bindings slot.toNat { b with filled := true, refilling := false } } ∧
      Only [.run, .basin, .fr, .chime, .obs, .freeCount] s t) ∧
    ((b.waits = false ∨ r.fillNext d = false) → exec (.basinFillDone slot) s = .next s)) ∧
  (∀ (s : State) (who : Who) (data : W64), ManagerMay s who →
    let base := data.toNat / 2 ^ 23 % 2 ^ 25 * 2 ^ 23
    let kp : Keeper := { s.kp with objBase := BitVec.ofNat 48 base }
    (s.kp.objEnable = true → exec (.objTableEnable who data) s = .next s) ∧
    (s.kp.objEnable = false →
      (data.toNat % 2 = 0 → exec (.objTableEnable who data) s = .next { s with kp := kp }) ∧
      (data.toNat % 2 = 1 → s.memTaken none base 8388608 = true → exec (.objTableEnable who data) s = .next s) ∧
      (data.toNat % 2 = 1 → s.memTaken none base 8388608 = false → exec (.objTableEnable who data) s =
        .next { s with objs := [], kp := { kp with objEnable := true, objInitBusy := true } }))) ∧
  (∀ s : State, s.portAlive = true → s.obs.halted = false →
    exec .objTableInitDone s = .next { s with kp := { s.kp with objInitBusy := false } })

/-- R244, R252, R259, R262, R264, R278, R285, R287, R289, R290, R300, R306, R468. -/
def Obligations.CommittedCommandsTakeEffect : Prop :=
  ∀ (s : State) (queue : BitVec 13) (c : Cmd), s.commits (s.queue queue.toNat) = true →
    nextCommit (s.queue queue.toNat).cmds = some c → c.inner = none → c.code = 0#16 →
    let q := s.queue queue.toNat
    let x : Instr := .commit (.queue queue)
    let record : Nat := (s.obj q.complObj).base + (q.recordOff c.index + 4)
    let stores (a : Nat) (bs : List Byte) : Prop := Settled s → (s.ctx q.ctx).ring = none → Answers (exec x s) fun t =>
      t.mem = memPutAll (memPutAll s.mem a bs) record (recordTail c s.esc.time)
    (∀ id v, c.body = .signalCounter false id v →
      let k := s.counter id.toNat
      Answers (exec x s) fun t => (∀ m, m ≠ id.toNat → t.counter m = s.counter m) ∧
        t.counter id.toNat = (if k.state = .free ∨ k.state = .abandoned then k else
          { k with value := v, state := .live, fault := 0#2 }) ∧ Only [.writes, .mem, .poison, .au, .run, .pool, .kp, .gens, .objs, .ctxs, .queues, .insts, .shares, .rgParts, .jobs, .cores, .counters, .sy, .sec, .fr, .chime, .obs, .freeCount, .obsCfg] s t) ∧
    (∀ id v, c.body = .signalCounter true id v →
      let k := s.counter id.toNat
      k.state = .live → k.kind ≠ .flightArrive →
      (k.error = false ∨ (0 ≤ (k.value.toNat : Int) + v.toInt ∧ (k.value.toNat : Int) + v.toInt ≤ 0xFFFFFFFF)) →
      Answers (exec x s) fun t => (∀ m, m ≠ id.toNat → t.counter m = s.counter m) ∧
        t.counter id.toNat = { k with value := k.value + v } ∧ Only [.writes, .mem, .poison, .au, .run, .pool, .kp, .gens, .objs, .ctxs, .queues, .insts, .shares, .rgParts, .jobs, .cores, .counters, .sy, .sec, .fr, .chime, .obs, .freeCount, .obsCfg] s t) ∧
    (∀ kind w se en sh ba si ks h base size init, c.body = .mapNew kind w se en sh ba si ks h base size init →
      kind ≠ .fence → Answers (exec x s) fun t => (∀ i, i ≠ handleIndex h → t.obj i = s.obj i) ∧
        t.obj (handleIndex h) = { newObj q.ctx (s.ctx q.ctx).inst h kind w se en sh ba si ks base size with gen := (s.obj (handleIndex h)).gen }) ∧
    (∀ w h src, c.body = .mapImport w h src → handleIndex src ≠ handleIndex h →
      let o := s.obj (handleIndex src)
      o.parent ≠ handleIndex h → Answers (exec x s) fun t => (∀ i, i ≠ handleIndex h → t.obj i = s.obj i) ∧
        (t.obj (handleIndex h)).base = o.base ∧ (t.obj (handleIndex h)).size = o.size ∧
        (t.obj (handleIndex h)).parent = o.parent ∧ (t.obj (handleIndex h)).kind = o.kind ∧
        (t.obj (handleIndex h)).owner = BitVec.ofNat 11 q.ctx ∧ (t.obj (handleIndex h)).writable = w ∧
        (t.obj (handleIndex h)).gen = (s.obj (handleIndex h)).gen) ∧
    (∀ tg off v code, c.body = .signalFence false tg off v code →
      let i := handleIndex tg
      s.fenceCode i off ≠ Config.ABANDONED → stores ((s.obj i).base + off)
        (leBytes 8 v.toNat ++ leBytes 2 code.toNat ++ leBytes 2 (s.obj (s.rootOf i)).owner.toNat ++ leBytes 4 0)) ∧
    (∀ h off, c.body = .timestamp h off → stores ((s.obj (handleIndex h)).base + off)
      (leBytes 8 s.esc.time.toNat ++ leBytes 8 s.esc.beatCount.toNat)) ∧
    (∀ g r h off, c.body = .counterDump g r h off → stores ((s.obj (handleIndex h)).base + off)
      (pmRecord s (if g then s.obs.pm else (s.ctx q.ctx).pm) g r q.ctx))

/-- R13, R354 to R357, R359, R430. -/
def Obligations.MailboxRequestsAreChecked : Prop :=
  ∀ (s : State) (x : Instr) (m : MbReq) (words : List W64), requestOf x = some (m, words) →
    let n := m.page.toNat
    let u := mbTaken s m words
    (∀ k, k < 8 → (s.inst n).state ≠ .free → tget 0#64 ((mbWritten s m words).page n).req k = words.getD k 0#64) ∧
    (Running' s → s.boot.state = .ready → m.who.valid = true → m.who.inst ≠ 0#6 → m.who.inst ≠ m.page → Becomes (exec x s) s) ∧
    (PageMay s m.who m.page →
      ((s.inst n).state = .free → (s.page n).busy = false → exec x s = .next s) ∧
      ((s.inst n).state ≠ .free → (s.page n).busy = true → s.resetsDisable n words = false →
        exec x s = .next ((mbWritten s m words).modPage n fun p => { p with busyReject := true })) ∧
      (s.goBeyond n m.who words = true → exec x s = .fault .addressSpace)) ∧
    (MbTakes s m words →
      (s.fr.stopped = true → Becomes (exec x s) (mbAnswered u n Config.ACCESS_DENIED [])) ∧
      (s.fr.stopped = false → ((u.page n).wellFormed = false ∨ u.mbCoreOk (u.page n) = false) →
        Becomes (exec x s) (mbAnswered u n Config.PACKET_MALFORMED [])) ∧
      (s.fr.stopped = false → (u.page n).wellFormed = true → u.mbCoreOk (u.page n) = true →
        u.mbDenied n m.who (u.page n) = true → Becomes (exec x s) (mbAnswered u n Config.ACCESS_DENIED [])))

/-- R268, R269, R272, R353, R356, R357, R400, R470. -/
def Obligations.ContextsQueuesAndCounters : Prop :=
  ∀ (s : State) (m : MbReq),
    let n := m.page.toNat
    let refused (x : Instr) (u : State) : Prop := Becomes (exec x s) (mbAnswered u n Config.HANDLE_RIGHTS [])
    (MbClear s m (reqWords m 0x01) →
      let u := mbTaken s m (reqWords m 0x01)
      let first := (s.inst n).pools.ctxFirst
      let past := first + (s.inst n).pools.ctxCount
      (∀ c, first ≤ c → c < past → (s.ctx c).state = .free → (∀ d, first ≤ d → d < c → (s.ctx d).state ≠ .free) →
        Becomes (exec (.ctxCreate m) s) (mbAnswered (u.setCtx c { Ctx.reset with
          state := .live, inst := n, weight := BitVec.ofNat 8 (max 1 (bitField m.w0.toNat 15 8)),
          isSealed := bitAt m.w0.toNat 16, pm := { PmSet.reset with since := s.esc.time } }) n Config.NONE [BitVec.ofNat 64 c])) ∧
      ((∀ c, first ≤ c → c < past → (s.ctx c).state ≠ .free) → refused (.ctxCreate m) u)) ∧
    (MbClear s m (reqWords m 0x03) →
      let u := mbTaken s m (reqWords m 0x03)
      let qn := bitField m.w1.toNat 12 0
      let ctx := bitField m.w1.toNat 26 16
      let part := bitField m.w1.toNat 34 32
      let log2 := bitField m.w1.toNat 44 40
      let ring : W32 := BitVec.ofNat 32 (bitField m.w2.toNat 31 0)
      let compl : W32 := BitVec.ofNat 32 (bitField m.w2.toNat 63 32)
      let ok : Prop := u.ownsCtx n ctx = true ∧ (s.ctx ctx).state = .live ∧ u.queueInst n qn = some (s.ctx ctx).inst ∧
        (s.queue qn).state = .free ∧ s.namesObj ctx ring .plain m.w3.toNat (64 * 2 ^ log2) = true ∧
        s.namesObj ctx compl .record m.w4.toNat (32 * 2 ^ log2) = true
      (ok → Becomes (exec (.queueCreate m) s) (mbAnswered (u.setQueue qn { Queue.reset with
        state := if s.granted part (s.ctx ctx).inst then .idle else .stopped, ctx := ctx, part := part, ringLog2 := log2,
        ringObj := handleIndex ring, ringOff := m.w3.toNat, complObj := handleIndex compl, complOff := m.w4.toNat,
        weight := BitVec.ofNat 8 (max 1 (bitField m.w1.toNat 55 48)), vt := (s.rgPart part).gv }) n Config.NONE [])) ∧
      (¬ok → refused (.queueCreate m) u)) ∧
    (MbClear s m (reqWords m 0x05) →
      let u := mbTaken s m (reqWords m 0x05)
      let qn := bitField m.w1.toNat 12 0
      let q := s.queue qn
      ((u.queueInst n qn).isSome = true → q.state = .error → Becomes (exec (.queueReset m) s) (mbAnswered (u.setQueue qn
        { q with
          head := q.tail, held := .none, state := if s.granted q.part (s.ctx q.ctx).inst then .idle else .stopped }) n Config.NONE [])) ∧
      (((u.queueInst n qn).isSome = false ∨ q.state ≠ .error) → refused (.queueReset m) u)) ∧
    (MbClear s m (reqWords m 0x06) →
      let u := mbTaken s m (reqWords m 0x06)
      let ctx := bitField m.w1.toNat 10 0
      let i := (s.ctx ctx).inst
      let any : Prop := bitAt m.w1.toNat 24 = true
      let allowed : Prop := u.ownsCtx n ctx = true ∧ (s.ctx ctx).state = .live ∧ s.ctrsHeld i < (s.inst i).pools.ctrQuota
      let made (c k : Nat) : State := u.setCounter (c * 8192 + k) { Counter.reset with
        kind := .context, state := .live, error := bitAt m.w1.toNat 16, owner := BitVec.ofNat 11 ctx,
        shareInst := BitVec.ofNat 6 (bitField m.w1.toNat 37 32), inst := BitVec.ofNat 6 i,
        value := BitVec.ofNat 32 m.w2.toNat, initial := BitVec.ofNat 32 m.w2.toNat }
      let taken (c k : Nat) : Prop := (s.counter (c * 8192 + k)).state ≠ .free
      (∀ c k, c < 16 → 4096 ≤ k → k < 8192 → s.present c = true → ¬taken c k → (∀ j, 4096 ≤ j → j < k → taken c j) →
        (any → ∀ d, d < c → s.present d = true → ∀ j, 4096 ≤ j → j < 8192 → taken d j) →
        (¬any → c = bitField m.w1.toNat 23 20) → allowed →
        Becomes (exec (.counterAlloc m) s) (mbAnswered (made c k) n Config.NONE [BitVec.ofNat 64 (c * 8192 + k)])) ∧
      (¬allowed → refused (.counterAlloc m) u) ∧
      ((∀ c, (any ∨ c = bitField m.w1.toNat 23 20) → s.present c = true → ∀ j, 4096 ≤ j → j < 8192 → taken c j) →
        refused (.counterAlloc m) u)) ∧
    (MbClear s m (reqWords m 0x30) →
      let u := mbTaken s m (reqWords m 0x30)
      let ctx := bitField m.w1.toNat 10 0
      let c := s.ctx ctx
      let h : W32 := BitVec.ofNat 32 (bitField m.w2.toNat 31 0)
      let off := bitField m.w2.toNat 63 32 * 128
      let log2 := bitField m.w1.toNat 27 24
      let named : Prop := s.namesObj ctx h .record off (128 * 2 ^ log2) = true
      ((c.state ≠ .live ∨ c.inst ≠ n) → refused (.recRing m) u) ∧
      (c.state = .live → c.inst = n → bitAt m.w1.toNat 16 = false →
        Becomes (exec (.recRing m) s) (mbAnswered (u.setCtx ctx { c with ring := none }) n Config.NONE [])) ∧
      (c.state = .live → c.inst = n → bitAt m.w1.toNat 16 = true → named → Becomes (exec (.recRing m) s) (mbAnswered (u.setCtx ctx
        { c with ring := some { obj := handleIndex h, offset := off, log2 := log2, seq := 0#32, lost := 0#32 } }) n Config.NONE [])) ∧
      (c.state = .live → c.inst = n → bitAt m.w1.toNat 16 = true → ¬named → refused (.recRing m) u))

/-- R357, R364, R389, R391, R394, R395, R403, R406. What the key exchange and the signatures compute is free (log entry 4). -/
def Obligations.SecretsAndReports : Prop :=
  (∀ (s : State) (m : MbReq),
    let n := m.page.toNat
    let i := s.inst n
    (MbClear s m (reqWords m 0x20) →
      let u := mbTaken s m (reqWords m 0x20)
      let a := m.w1.toNat
      let ok : Prop := covered i.pools.mem 9 a 1184 = true ∧ s.sec.importReady = true ∧ i.bound = false
      let blob := s.readBytes a 1184
      (¬ok → Becomes (exec (.instBind m) s) (mbAnswered u n Config.HANDLE_RIGHTS [])) ∧
      (ok → s.poisoned a 1184 = true → Becomes (exec (.instBind m) s) (mbAnswered u n Config.MEM_POISON [])) ∧
      (ok → s.poisoned a 1184 = false → Becomes (exec (.instBind m) s) (mbAnswered (u.modInst n fun x => { x with
        bound := true, bindDigest := sha384 blob, bindSecret := s.bindSecret n blob })
        n Config.NONE []))) ∧
    (MbClear s m (reqWords m 0x21) →
      let u := mbTaken s m (reqWords m 0x21)
      let a := m.w2.toNat
      let k := bitField m.w1.toNat 8 0
      let ok : Prop := i.pools.hasKey k = true ∧ covered i.pools.mem 9 a 72 = true ∧ i.bound = true ∧ s.keyLoaded k = false
      let unwrapped := unwrapKey i.bindSecret k (s.readBytes a 72)
      let x : Instr := .keyLoad m ()
      (¬ok → Becomes (exec x s) (mbAnswered u n Config.HANDLE_RIGHTS [])) ∧
      (ok → s.poisoned a 72 = true → Becomes (exec x s) (mbAnswered u n Config.MEM_POISON [])) ∧
      (ok → s.poisoned a 72 = false → unwrapped = none → Answers (exec x s) fun t =>
        MbShows t n m.seq Config.KEY_MISUSE [] ∧ tget 0#32 t.sec.counts 3 = satInc (tget 0#32 s.sec.counts 3) ∧
          t.keyLoaded k = false ∧ t.mem = s.mem ∧ t.objs = s.objs ∧ t.ctxs = s.ctxs ∧ t.counters = s.counters) ∧
      (∀ key, ok → s.poisoned a 72 = false → unwrapped = some key →
        (key.toNat % 2 ^ 256 = key.toNat / 2 ^ 256 → Becomes (exec x s) (mbAnswered u n Config.HANDLE_RIGHTS [])) ∧
        (key.toNat % 2 ^ 256 ≠ key.toNat / 2 ^ 256 →
          Becomes (exec x s) (mbAnswered { u with sec := { s.sec with keys := tput s.sec.keys k (some key) } } n Config.NONE [])))) ∧
    (MbClear s m (reqWords m 0x22) →
      let u := mbTaken s m (reqWords m 0x22)
      let k := bitField m.w1.toNat 8 0
      ((i.pools.hasKey k = false ∨ s.keyLoaded k = false) → Becomes (exec (.keyErase m) s) (mbAnswered u n Config.HANDLE_RIGHTS [])) ∧
      (i.pools.hasKey k = true → s.keyLoaded k = true →
        Becomes (exec (.keyErase m) s) (mbAnswered { u with sec := { s.sec with keys := tdel s.sec.keys k } } n Config.NONE []) ∧
        Answers (exec (.keyErase m) s) fun t => t.keyLoaded k = false ∧ t.objs = s.objs ∧
          ∀ j, j ≠ k → t.keyLoaded j = s.keyLoaded j)) ∧
    (MbClear s m (reqWords m 0x23) →
      let u := mbTaken s m (reqWords m 0x23)
      let ctx := bitField m.w0.toNat 26 16
      let h : W32 := BitVec.ofNat 32 (bitField m.w1.toNat 31 0)
      let off := bitField m.w1.toNat 63 32 * 64
      let ok : Prop := (s.ctx ctx).state = .live ∧ (s.ctx ctx).inst = n ∧ s.namesObj ctx h .record off 3904 = true
      let r : AttestReq := { page := n, ctx := ctx, obj := handleIndex h, off := off,
                             nonce := [m.w2, m.w3, m.w4, m.w5, m.w6, m.w7], body := none }
      (ok → exec (.attest m) s = .next (attestTake { u with sec := { s.sec with attests := s.sec.attests ++ [r] } })) ∧
      (ok → s.sec.attests = [] → i.recordsOpen = true → exec (.attest m) s = .next { u with
        sec := { s.sec with attests := [{ r with body := some (s.attestBody r) }] } }) ∧
      (¬ok → Becomes (exec (.attest m) s) (mbAnswered u n Config.HANDLE_RIGHTS [])))) ∧
  (∀ s : State, Running' s → s.fr.stopped = false →
    ((∀ r ∈ s.sec.attests, (s.inst r.page).recordsOpen = false) → exec .attestSigned s = .next s) ∧
    ((∀ r ∈ s.sec.attests, r.body = none) → exec .attestSigned s = .next (attestTake s)) ∧
    (∀ r b l k, s.sec.attests = l ++ r :: k → (∀ x ∈ l, x.body = none ∨ (s.inst x.page).recordsOpen = false) → r.body = some b →
      b.length = 448 →
      let bare (l : List AttestReq) : List AttestReq := l.map fun x => { x with body := none }
      (s.inst r.page).recordsOpen = true → (s.page r.page).busy = true →
      (s.attestOk r = true → Answers (exec .attestSigned s) fun t =>
        MbShows t r.page (s.page r.page).curSeq Config.NONE [] ∧
          Stores s t ((s.obj r.obj).base + r.off) (s.attestReport b) ∧ (s.attestReport b).length = 3904 ∧
          bare t.sec.attests = bare (s.sec.attests.filter fun x => x.page != r.page) ∧ Only [.writes, .mem, .poison, .au, .pool, .gens, .insts, .sec, .chime, .obs] s t) ∧
      (s.attestOk r = false → Answers (exec .attestSigned s) fun t =>
        MbShows t r.page (s.page r.page).curSeq Config.HANDLE_RIGHTS [] ∧ t.mem = s.mem ∧
          bare t.sec.attests = bare (s.sec.attests.filter fun x => x.page != r.page))))

/-- R351, R352, R356, R358, R360, R361, R363, R365. -/
def Obligations.InstancesAreMadeAndDisabled : Prop :=
  let idle (s : State) (i : Nat) : Prop := ∀ q ∈ s.instQueues i, nextCommit (s.queue q).cmds = none
  let stops (s t : State) (i : Nat) : Prop := ∀ q ∈ s.instQueues i,
    (t.queue q).state = (if (s.queue q).state.fetching then .stopped else (s.queue q).state) ∧
      ((s.queue q).state.fetching = true → (t.queue q).stoppedByDisable = true) ∧ (t.queue q).head = (s.queue q).head
  let kills (s t : State) (i : Nat) (drain : Bool) (before : Nat) : Prop :=
    let ran := (s.instJobs i).countP fun n => (s.job n).any fun j => j.kill.isNone
    (t.inst i).state = .disabling ∧
      (t.inst i).disabling = some { drain := drain, draining := false, stopped := true, killed := before + ran } ∧
      (∀ n j, s.job n = some j → s.jobInst j = some i → j.cores ≠ [] → ∃ k, t.job n = some k ∧ k.kill ≠ none ∧
        (j.kill = none → k.kill = some .disable ∧ k.killing = j.cores ∧ ∀ c ∈ j.cores, (t.core c).st = .killing)) ∧
      (∀ p q c, p < 8 → (s.rgPart p).copyRun = some (q, c) → q ∈ s.instQueues i → (t.rgPart p).copyRun = none)
  (∀ (s : State) (m : MbReq),
    let n := m.page.toNat
    let i := bitField m.w1.toNat 5 0
    (MbClear s m (reqWords m 0x10) →
      let u := mbTaken s m (reqWords m 0x10)
      let a := m.w2.toNat
      let d : Pools := { ctxFirst := s.readLE a 2, ctxCount := s.readLE (a + 0x02) 2, queueFirst := s.readLE (a + 0x04) 2,
                         queueCount := s.readLE (a + 0x06) 2, objFirst := s.readLE (a + 0x08) 4,
                         objCount := s.readLE (a + 0x0C) 4, keyFirst := s.readLE (a + 0x10) 2,
                         keyCount := s.readLE (a + 0x12) 2, ctrQuota := s.readLE (a + 0x14) 2,
                         waitQuota := s.readLE (a + 0x16) 2,
                         mem := (List.range (min 8 (s.readLE (a + 0x18) 1))).map fun k =>
                           (s.readLE (a + 0x20 + 16 * k) 8, s.readLE (a + 0x28 + 16 * k) 8) }
      let free : Prop := (s.inst i).state = .free ∨ (i = 0 ∧ s.instCtxs 0 = [])
      let refused (code : BitVec 16) : Prop := Becomes (exec (.instCreate m) s) (mbAnswered u n code [])
      (2 ^ 48 < a + 160 → refused Config.HANDLE_RIGHTS) ∧
      (a + 160 ≤ 2 ^ 48 → s.poisoned a 160 = true → refused Config.MEM_POISON) ∧
      (a + 160 ≤ 2 ^ 48 → s.poisoned a 160 = false →
        (descriptorOk s a d = false → refused Config.PACKET_MALFORMED) ∧
        (descriptorOk s a d = true → (¬free ∨ u.memFree i d = false ∨ u.poolsFree i d = false) → refused Config.HANDLE_RIGHTS) ∧
        (descriptorOk s a d = true → free → u.memFree i d = true → u.poolsFree i d = true → Becomes (exec (.instCreate m) s)
          (mbAnswered (u.modInst i fun x => { x with state := .enabled, pools := d, weights := [] }) n Config.NONE [])))) ∧
    (∀ drain, MbClear s m (disableWords m drain) →
      let u := mbTaken s m (disableWords m drain)
      let x : Instr := if drain then .instDisableDrain m else .instDisableSquash m
      ((s.inst i).state ≠ .enabled → Becomes (exec x s) (mbAnswered u n Config.HANDLE_RIGHTS [])) ∧
      ((s.inst i).state = .enabled → drain = true → (∃ q ∈ s.instQueues i, (s.queue q).cmds ≠ []) →
        Answers (exec x s) fun t => stops s t i ∧ (t.inst i).state = .disabling ∧ (t.inst i).disabling = some
          { drain := true, draining := true, stopped := false, killed := 0 } ∧ t.page n = u.page n ∧
          Only [.queues, .insts] s t) ∧
      ((s.inst i).state = .enabled → drain = false → idle s i → Answers (exec x s) fun t => stops s t i ∧
        t.page n = u.page n ∧ Only [.writes, .mem, .poison, .au, .run, .pool, .gens, .objs, .ctxs, .queues, .insts, .rgParts, .jobs, .cores, .counters, .sy, .fr, .chime, .obs, .freeCount, .obsCfg] s t ∧
        (s.recordsLeft (s.instQueues i) = false → s.commitWrites i = false → kills s t i false 0) ∧
        ((s.recordsLeft (s.instQueues i) = true ∨ s.commitWrites i = true) → (t.inst i).disabling = some
          { drain := false, draining := false, stopped := false, killed := 0 } ∧ t.jobs = s.jobs))) ∧
    (MbClear s m (reqWords m 0x12) →
      let u := mbTaken s m (reqWords m 0x12)
      ((s.inst i).state ≠ .disabled → Becomes (exec (.instEnable m) s) (mbAnswered u n Config.HANDLE_RIGHTS [])) ∧
      ((s.inst i).state = .disabled → Settled s → Answers (exec (.instEnable m) s) fun t =>
        (t.inst i).state = .enabled ∧ MbShows t n m.seq Config.NONE [] ∧ Only [.writes, .mem, .poison, .au, .pool, .gens, .ctxs, .queues, .insts, .rgParts, .fr, .chime, .obs, .freeCount] s t ∧
        ∀ q ∈ s.instQueues i, (s.queue q).state = .stopped →
          ((s.queue q).stoppedByDisable = true → (t.queue q).stoppedByDisable = false ∧ (t.queue q).state =
            if (s.queue q).head = (s.queue q).tail ∧ (s.queue q).indirect = none then .idle else .ready) ∧
          ((s.queue q).stoppedByDisable = false → (t.queue q).state = .stopped)))) ∧
  (∀ (s : State) (inst : BitVec 6), let i := inst.toNat
    (((s.inst i).disabling = none ∨ ¬(Running' s ∧ s.fr.stopped = false)) → exec (.drainTimeout inst) s = .next s ∧ exec (.disableComplete inst) s = .next s) ∧
    (∀ d, (s.inst i).disabling = some d → Running' s → s.fr.stopped = false →
      (d.draining = false → exec (.drainTimeout inst) s = .next s) ∧
      (d.draining = true → d.stopped = false → (s.inst i).state = .disabling → idle s i →
        s.recordsLeft (s.instQueues i) = false → s.commitWrites i = false →
        Answers (exec (.drainTimeout inst) s) fun t => kills s t i d.drain d.killed ∧ Only [.writes, .mem, .poison, .au, .run, .pool, .gens, .objs, .ctxs, .queues, .insts, .rgParts, .jobs, .cores, .counters, .sy, .fr, .chime, .obs, .freeCount, .obsCfg] s t) ∧
      (d.draining = false → d.stopped = true →
        let done : Prop := s.instJobs i = [] ∧ s.ownWrites i = false ∧ ∀ c ∈ s.instCtxs i, (s.ctx c).state = .live
        (¬done → exec (.disableComplete inst) s = .next s) ∧
        (done → Answers (exec (.disableComplete inst) s) fun t =>
          (t.inst i).state = .disabled ∧ (t.inst i).disabling = none ∧ (t.page i).noticeValid = true ∧
          ((s.page 0).busy = true → MbShows t 0 (s.page 0).curSeq Config.NONE [BitVec.ofNat 64 (d.killed % 2 ^ 32)]) ∧
          ((s.page i).noticeValid = false → (t.page i).noticeDisable = true ∧ (t.page i).noticeKilled = satNat 16 d.killed) ∧
          ((s.page i).noticeValid = true → (t.page i).noticeLost = true) ∧ Only [.insts, .chime, .obs] s t))))

/-- R249, R265, R272, R311, R356, R367 to R371, R374, R375. -/
def Obligations.TeardownRunsItsSteps : Prop :=
  let stops (s t : State) (ctx : Nat) : Prop := ∀ q ∈ s.ctxQueues ctx,
    (t.queue q).state = (if (s.queue q).state.fetching then .stopped else (s.queue q).state) ∧ (t.queue q).head = (s.queue q).head
  (∀ (s : State) (m : MbReq),
    let n := m.page.toNat
    (MbClear s m (reqWords m 0x02) →
      let u := mbTaken s m (reqWords m 0x02)
      let c := bitField m.w1.toNat 10 0
      let ok : Prop := u.ownsCtx n c = true ∧ ((s.ctx c).state = .live ∨ (s.ctx c).state = .faulted)
      (¬ok → Becomes (exec (.ctxDestroy m) s) (mbAnswered u n Config.HANDLE_RIGHTS [])) ∧
      (ok → Answers (exec (.ctxDestroy m) s) fun t => (t.ctx c).state = .teardown ∧ (∃ d, (t.ctx c).teardown = some d ∧
          d.step = 1 ∧ d.squashed = 0 ∧ d.killed = 0 ∧ d.byReset = false ∧ d.page = some n) ∧ stops s t c ∧
        t.page n = u.page n ∧ Only [.ctxs, .queues, .insts] s t)) ∧
    (MbClear s m (reqWords m 0x04) →
      let u := mbTaken s m (reqWords m 0x04)
      let qn := bitField m.w1.toNat 12 0
      let q := s.queue qn
      let ok : Prop := (u.queueInst n qn).isSome = true ∧ q.state ≠ .free ∧ q.destroyBy = none
      (¬ok → Becomes (exec (.queueDestroy m) s) (mbAnswered u n Config.HANDLE_RIGHTS [])) ∧
      (ok → (q.cmds ≠ [] ∨ q.indirect ≠ none) →
        exec (.queueDestroy m) s = .next (u.setQueue qn { q with destroyBy := some n })) ∧
      (ok → q.cmds = [] → q.indirect = none → Answers (exec (.queueDestroy m) s) fun t =>
        t.queue qn = Queue.reset ∧ MbShows t n m.seq Config.NONE [] ∧ (∀ k, k ≠ qn → t.queue k = s.queue k) ∧
          Only [.queues, .insts, .rg, .chime, .obs] s t)) ∧
    (MbClear s m (reqWords m 0x13) →
      let u := mbTaken s m (reqWords m 0x13)
      let i := bitField m.w1.toNat 5 0
      let x : Instr := .instReset m
      (((s.inst i).state = .free ∨ (s.inst i).state = .resetting) → Becomes (exec x s) (mbAnswered u n Config.HANDLE_RIGHTS [])) ∧
      ((s.inst i).state ≠ .free → (s.inst i).state ≠ .resetting → s.instCtxs i ≠ [] → Answers (exec x s) fun t =>
        (t.inst i).state = .resetting ∧ (t.inst i).disabling = none ∧ t.page n = u.page n ∧
        (∀ c ∈ s.instCtxs i, (t.ctx c).state = .teardown ∧ ((s.ctx c).state ≠ .teardown → stops s t c ∧
          ∃ d, (t.ctx c).teardown = some d ∧ d.step = 1 ∧ d.byReset = true)) ∧ Only [.writes, .mem, .poison, .au, .pool, .gens, .ctxs, .queues, .insts, .sec, .chime, .obs] s t) ∧
      ((s.inst i).state ≠ .free → (s.inst i).state ≠ .resetting → s.instCtxs i = [] → (s.inst i).dirty.enable = false →
        Answers (exec x s) fun t => (t.inst i).state = .free ∧ (t.inst i).pools = Pools.reset ∧ (t.inst i).bound = false ∧
          t.page i = Page.reset ∧ (s.objs.any (fun o => (s.inst i).pools.hasObj o.1 && o.2.state != .free) = true → (s.inst i).pools ∈ (t.inst i).held) ∧
          (∀ k, s.keyOwner k = some i → t.keyLoaded k = false) ∧
          (∀ r ∈ t.sec.attests, r.page ≠ i) ∧ MbShows t n m.seq Config.NONE [] ∧ Only [.writes, .mem, .poison, .au, .pool, .gens, .ctxs, .queues, .insts, .sec, .chime, .obs] s t))) ∧
  (∀ (s : State) (ctx : BitVec 11) (d : Teardown), let c := ctx.toNat
    let n := (s.ctx c).inst
    let qs := s.ctxQueues c
    let x : Instr := .teardownStepDone ctx
    (s.ctx c).state = .teardown → (s.ctx c).teardown = some d → d.byReset = false → Running' s → s.fr.stopped = false →
    (s.inst n).state ≠ .resetting → NoneWaits s →
      (s.stepDone c d = false → exec x s = .next s) ∧
      (d.step = 1 → Answers (exec x s) fun t => (∃ e, (t.ctx c).teardown = some e ∧ e.step = 2 ∧ e.squashed =
          (qs.map fun q => ((s.queue q).cmds.filter Cmd.unstarted).length).sum) ∧
        (∀ q ∈ qs, ∀ k ∈ (t.queue q).cmds, k.unstarted = false) ∧
        (∀ q ∈ qs, ∀ k ∈ (s.queue q).cmds, ∀ f, k.barrierFlight = some f → (s.flight f).state = .isOpen →
          (t.flight f).state = .broken ∧ (t.flight f).cause = 1#3) ∧ Only [.writes, .mem, .poison, .au, .pool, .kp, .gens, .ctxs, .queues, .insts, .rgParts, .cores, .flights, .tw, .links, .fr, .chime, .obs, .freeCount] s t) ∧
      (d.step = 2 → (∀ q ∈ qs, nextCommit (s.queue q).cmds = none) → Answers (exec x s) fun t =>
        (t.ctx c).teardown = some { d with step := 3 } ∧ Only [.ctxs] s t) ∧
      (d.step = 3 → d.killing = false → s.stepDone c d = true → Answers (exec x s) fun t =>
        (∃ e, (t.ctx c).teardown = some e ∧ e.step = 3 ∧ e.killing = true ∧ e.killed =
            ((s.ctxJobs c).filter fun j => match s.job j with | some x => x.kill != some .disable | none => false).length +
          (qs.map fun q => ((s.queue q).cmds.filter fun k => k.job.isNone &&
            (k.phase == .started || k.phase == .completed || k.phase == .doomed)).length).sum) ∧
        (∀ j x, j ∈ s.ctxJobs c → s.job j = some x → x.kill ≠ some .disable → (x.kill = none → x.cores ≠ []) →
          ∃ k, t.job j = some k ∧ k.kill = some .teardown) ∧
        (∀ q ∈ qs, ∀ k ∈ (t.queue q).cmds, k.job.isSome = true ∨ k.phase = .recorded) ∧ Only [.run, .ctxs, .queues, .rgParts, .jobs, .cores, .chime, .obs, .freeCount] s t) ∧
      (d.step = 3 → d.killing = true → s.stepDone c d = true → Answers (exec x s) fun t =>
        (∃ e, (t.ctx c).teardown = some e ∧ e.step = 4 ∧ e.killing = false) ∧
        (∀ k, (s.counter k).kind = .context → (s.counter k).owner = ctx → (s.counter k).state ≠ .free →
          (t.counter k).state = .abandoned ∧ (t.counter k).value = (s.counter k).value) ∧
        (s.ownFences c = [] → t.mem = s.mem) ∧
        (∀ i, s.ownFences c = [i] → Stores s t (s.obj i).base ((List.range ((s.obj i).size / 16)).flatMap fun k =>
          leBytes 8 (s.fenceValue i (16 * k)).toNat ++ leBytes 2 Config.ABANDONED.toNat ++ leBytes 2 (s.obj i).owner.toNat ++
            leBytes 4 0)) ∧ Only [.writes, .mem, .poison, .au, .run, .pool, .gens, .ctxs, .insts, .jobs, .cores, .counters, .fr, .chime, .obs, .freeCount] s t) ∧
      (d.step = 4 → s.stepDone c d = true → Answers (exec x s) fun t => (∃ e, (t.ctx c).teardown = some e ∧ e.step = 5) ∧
        (t.ctx c).ring = none ∧ (∀ q ∈ qs, t.queue q = Queue.reset) ∧ (∀ q, q ∉ qs → t.queue q = s.queue q) ∧
        Only [.ctxs, .queues, .insts, .rg, .chime, .obs] s t) ∧
      (d.step = 5 → Answers (exec x s) fun t => (∃ e, (t.ctx c).teardown = some e ∧ e.step = 6) ∧
        (∀ i, (s.obj i).owner = ctx → (s.obj i).state = .mapped →
          (t.obj i).state = .freeing ∨ (t.obj i).state = .free ∨ (t.obj i).state = .orphaned) ∧ Only [.writes, .mem, .poison, .au, .pool, .gens, .objs, .ctxs, .queues, .insts, .rgParts, .fr, .chime, .obs, .freeCount] s t) ∧
      (d.step = 6 → Answers (exec x s) fun t => (∃ e, (t.ctx c).teardown = some e ∧ e.step = 7) ∧
        (∀ y ∈ t.shares, y.2.ctx = c → y.2.state = .releasing) ∧ Only [.ctxs, .shares, .cores] s t) ∧
      (d.step = 7 → s.stepDone c d = true → Settled s → Answers (exec x s) fun t => t.ctx c = Ctx.reset ∧
        (∀ p, d.page = some p → (s.page p).busy = true → d.faultCode = none → MbShows t p (s.page p).curSeq Config.NONE
          [BitVec.ofNat 64 (d.squashed % 2 ^ 32 + d.killed % 2 ^ 32 * 2 ^ 32),
            BitVec.ofNat 64 (s.pendingEntries c d % 2 ^ 19 + c * 2 ^ 32)]) ∧
        (∀ code, d.faultCode = some code → (s.page n).noticeValid = false → (t.page n).noticeValid = true ∧
          (t.page n).noticeCtx = ctx ∧ (t.page n).noticeCode = code) ∧ Only [.writes, .mem, .poison, .au, .pool, .gens, .ctxs, .queues, .insts, .rgParts, .sec, .fr, .chime, .obs, .freeCount] s t))

/-- R13, R376 to R380. -/
def Obligations.DirtyLogFlipsAndStops : Prop :=
  (∀ (s : State) (who : Who), ManagerMay s who →
    let n := s.kp.instSel.toNat
    let d := (s.inst n).dirty
    let base := d.base d.active
    let len := (s.inst n).pools.bitmapLen
    let stores (t : State) : Prop :=
      (∀ a, (a < base ∨ base + len ≤ a) → memGet t.mem a = memGet s.mem a) ∧
      ((∀ j, j < len → s.inObjTable (base + j) = false) → ∀ j k, j < len → k < 8 → bitAt (t.byteAt (base + j)).toNat k =
        (bitAt (s.byteAt (base + j)).toNat k || d.set.contains (8 * j + k)))
    let set (f : Dirty → Dirty) : State := s.modInst n fun i => { i with dirty := f i.dirty }
    let dead : Prop := (s.inst n).state = .free ∨ (s.inst n).state = .resetting
    (s.dirtyBeyond n = true → (d.flipBusy = false → exec (.dirtyFlip who) s = .fault .addressSpace) ∧
      (¬dead → exec (.dirtyDisable who) s = .fault .addressSpace)) ∧
    (dead → exec (.dirtyEnable who) s = .next s ∧ exec (.dirtyDisable who) s = .next s ∧
      (d.enable = false → exec (.dirtyFlip who) s = .next s)) ∧
    ((d.enable = true ∨ d.flipBusy = true) → exec (.dirtyEnable who) s = .next s) ∧
    (d.enable = true → d.flipBusy = true → exec (.dirtyFlip who) s = .next s) ∧
    (s.dirtyBeyond n = false →
      (d.enable = true → d.flipBusy = false → Answers (exec (.dirtyFlip who) s) fun t =>
        (t.inst n).dirty = { d with active := !d.active, flipBusy := true, old := d.set, set := [] } ∧ stores t ∧
          Only [.writes, .mem, .poison, .au, .pool, .gens, .insts, .chime, .obs] s t) ∧
      ((s.inst n).state ≠ .free → (s.inst n).state ≠ .resetting →
        (d.enable = false → d.flipBusy = false → ∀ x ∈ [Instr.dirtyEnable who, .dirtyFlip who],
          exec x s = .next (set fun d => { d with enable := true, active := false, set := [] })) ∧
        (d.enable = false → exec (.dirtyDisable who) s = .next s) ∧
        (d.enable = true → Answers (exec (.dirtyDisable who) s) fun t =>
          (t.inst n).dirty = { d with enable := false, flipBusy := true, old := d.old ++ d.set, set := [] } ∧ stores t ∧
            Only [.writes, .mem, .poison, .au, .pool, .gens, .insts, .chime, .obs] s t)))) ∧
  (∀ (s : State) (inst : BitVec 6), let n := inst.toNat
    let d := (s.inst n).dirty
    let done : Prop := d.flipBusy = true ∧ (∀ w ∈ s.writes, w.owner ≠ .dirty n) ∧ s.flipPending n = false
    (¬(Running' s ∧ done) → exec (.flipDone inst) s = .next s) ∧
    (Running' s → done → exec (.flipDone inst) s = .next (s.modInst n fun i =>
      { i with dirty := { d with flipBusy := false, flipDone := true, old := [] } })))

/-- R106, R328 to R331, R336. -/
def Obligations.QueueCommandsSharesAndWeights : Prop :=
  (∀ (s : State) (who : Who) (queue : BitVec 13) (part : BitVec 3), ManagerMay s who →
    let q := s.queue queue.toNat
    let inst := (s.ctx q.ctx).inst
    let result (s : State) (code : BitVec 16) : State := { s with rg := { s.rg with resQueue := queue, resCode := code } }
    let refused (x : Instr) (code : BitVec 16) : Prop := exec x s = .next (result s code)
    let rest : QState := if q.head = q.tail ∧ q.indirect = none then .idle else .ready
    (q.state.fetching = true → exec (.stop who queue) s = .next (result (s.setQueue queue.toNat
      { q with state := .stopped, stoppedByDisable := false }) Config.NONE)) ∧
    (q.state.fetching = false → refused (.stop who queue) Config.HANDLE_RIGHTS) ∧
    (q.state ≠ .stopped → refused (.restart who queue) Config.HANDLE_RIGHTS) ∧
    (q.state = .stopped → s.granted q.part inst = false → refused (.restart who queue) Config.ACCESS_DENIED) ∧
    (q.state = .stopped → s.granted q.part inst = true → exec (.restart who queue) s = .next (result (s.setQueue queue.toNat
      { q with state := rest, stoppedByDisable := false }) Config.NONE)) ∧
    (s.rg.rebind.isSome = true → refused (.rebind who queue part) Config.PACKET_MALFORMED) ∧
    (s.rg.rebind = none → (q.state = .free ∨ q.state = .error) → refused (.rebind who queue part) Config.HANDLE_RIGHTS) ∧
    (s.rg.rebind = none → q.state ≠ .free → q.state ≠ .error → s.granted part.toNat inst = false →
      refused (.rebind who queue part) Config.ACCESS_DENIED) ∧
    (s.rg.rebind = none → q.state ≠ .free → q.state ≠ .error → s.granted part.toNat inst = true →
      Answers (exec (.rebind who queue part) s) fun t => t.rg = { s.rg with rebind := some (queue, part) } ∧
        (t.queue queue.toNat).state = (if q.state.fetching then .stopped else q.state) ∧
        (t.queue queue.toNat).cmds = q.cmds ∧ (t.queue queue.toNat).part = q.part ∧ Only [.queues, .rg] s t)) ∧
  (∀ s : State, (¬Running' s ∨ s.rg.rebind = none) → exec .rebindComplete s = .next s) ∧
  (∀ (s : State) (queue : BitVec 13) (part : BitVec 3), Running' s → s.rg.rebind = some (queue, part) →
    let q := s.queue queue.toNat
    ((q.cmds ≠ [] ∨ q.indirect ≠ none) → exec .rebindComplete s = .next s) ∧
    (q.cmds = [] → q.indirect = none → q.state = .stopped → Answers (exec .rebindComplete s) fun t =>
      let u := t.queue queue.toNat
      t.rg.rebind = none ∧ t.rg.resQueue = queue ∧ u.part = part.toNat ∧ u.vt = (s.rgPart part.toNat).gv ∧ u.head = q.head ∧
      (s.granted part.toNat (s.ctx q.ctx).inst = true → t.rg.resCode = Config.NONE ∧
        u.state = if q.head = q.tail then .idle else .ready) ∧
      (s.granted part.toNat (s.ctx q.ctx).inst = false → t.rg.resCode = Config.ACCESS_DENIED ∧ u.state = .stopped) ∧
      Only [.queues, .rg, .rgParts] s t)) ∧
  (∀ (s : State) (who : Who) (size : BitVec 25), ManagerMay s who →
    let p := s.rg.shareSelPart.toNat
    let ctx := s.rg.shareSelCtx.toNat
    let z := size.toNat
    let coded (code : BitVec 16) : State := { s with rg := { s.rg with shareCode := code } }
    let held : Prop := ∃ x ∈ s.shares, x.2.ctx = ctx ∧ x.2.part = p
    let fits (o : Nat) : Prop := o + z ≤ s.freeScratch p ∧ ∀ x ∈ s.shares, x.2.part = p → overlaps o z x.2.off x.2.size = false
    let sized : Prop := z % 4096 = 0 ∧ 4096 ≤ z
    let known : Prop := (s.ctx ctx).state = .live ∧ s.declared p = true
    (¬sized → exec (.grant who size) s = .next (coded Config.PACKET_MALFORMED)) ∧
    (sized → (¬known ∨ held) → exec (.grant who size) s = .next (coded Config.HANDLE_RIGHTS)) ∧
    (sized → known → ¬held → ((∀ o, ¬fits o) ∨ (∀ n, n < 512 → (tfind s.shares n).isSome = true)) →
      exec (.grant who size) s = .next (coded Config.SCRATCH_SHORT)) ∧
    (∀ o n, sized → known → ¬held → fits o → (∀ a, a < o → ¬fits a) → n < 512 → tfind s.shares n = none →
      (∀ k, k < n → (tfind s.shares k).isSome = true) → Answers (exec (.grant who size) s) fun t =>
        tfind t.shares n = some { ctx := ctx, part := p, off := o, size := z,
                                  state := if (s.partCores p).isEmpty then .live else .clearing,
                                  isSealed := (s.ctx ctx).isSealed, clearing := s.partCores p } ∧
        t.rg = { s.rg with shareCode := Config.NONE } ∧ (∀ k, k ≠ n → tfind t.shares k = tfind s.shares k) ∧
        (∀ c ∈ s.partCores p, ∀ b, o ≤ b → b < o + z → ∃ r ∈ (t.core c).clears, r.1 ≤ b ∧ b < r.1 + r.2) ∧ Only [.shares, .rg, .cores] s t) ∧
    (¬held → exec (.releaseShare who) s = .next (coded Config.HANDLE_RIGHTS)) ∧
    (held → Answers (exec (.releaseShare who) s) fun t => t.rg.shareCode = Config.NONE ∧
      (∀ x ∈ s.shares.find? (fun x => x.2.ctx == ctx && x.2.part == p), tfind s.shares x.1 = some x.2 →
        ∀ y, tfind t.shares x.1 = some y → y.state = .releasing) ∧
      Only [.queues, .shares, .rg, .rgParts, .cores] s t)) ∧
  (∀ (s : State) (core : BitVec 4), let c := core.toNat
    ((¬Running' s ∨ (s.core c).clears = []) → exec (.scratchClearDone core) s = .next s) ∧
    (∀ off len more, Running' s → (s.core c).clears = (off, len) :: more → Answers (exec (.scratchClearDone core) s) fun t =>
      (t.core c).clears = more ∧ (∀ d, d ≠ c → t.core d = s.core d) ∧
      (∀ a, tget 0#8 (t.core c).scratch a = if off ≤ a ∧ a < off + len then 0#8 else tget 0#8 (s.core c).scratch a) ∧
      (∀ n x, (∀ y ∈ s.shares, y.1 = n → y.2 = x) → tfind s.shares n = some x → c ∈ x.clearing →
        (more.any fun r => overlaps r.1 r.2 x.off x.size) = false →
        ((∃ d ∈ x.clearing, d ≠ c) → ∃ y, tfind t.shares n = some y ∧ y.state = x.state ∧ c ∉ y.clearing) ∧
        ((∀ d ∈ x.clearing, d = c) → (x.state = .clearing → tfind t.shares n = some { x with state := .live, clearing := [] }) ∧
          (x.state = .releasing → tfind t.shares n = none))) ∧ Only [.queues, .shares, .rgParts, .cores, .sec] s t)) ∧
  (∀ (s : State) (who : Who) (data : W32), ManagerMay s who →
    let id := s.rg.selId.toNat
    let w : BitVec 8 := if data.setWidth 8 = 0#8 then 1#8 else data.setWidth 8
    let x : Instr := .weightWrite who data
    (s.rg.selLevel = 0#2 → exec x s = .next (s.modInst (id % 64) fun i =>
      { i with weights := tput i.weights s.rg.selPart.toNat w })) ∧
    (s.rg.selLevel = 1#2 → exec x s = .next (s.modCtx (id % 2048) fun c => { c with weight := w })) ∧
    (s.rg.selLevel = 2#2 → exec x s = .next (s.modQueue id fun q => { q with weight := w })) ∧
    (s.rg.selLevel = 3#2 → exec x s = .next s))

/-- R322, R325, R342 to R346. -/
def Obligations.PreemptionKillsItsTarget : Prop :=
  (∀ (s : State) (who : Who) (target : BitVec 16) (part : BitVec 3), ManagerMay s who →
    let does (x : Instr) (names : Job → Bool) : Prop :=
      let l := (s.jobs.filter fun j => names j.2 && s.preemptible j.1 j.2).map Prod.fst
      (l = [] → exec x s = .next { s with rg := { s.rg with preJobs := [], preBusy := false, preKilled := 0#16 } }) ∧
      Answers (exec x s) fun t => t.rg.preJobs = l ∧ t.rg.preBusy = !l.isEmpty ∧ t.rg.preKilled = 0#16 ∧
        ((∀ n ∈ l, ∃ j q i k, s.job n = some j ∧ j.kind = .free q i k) → ∀ n, n ∉ l → t.job n = s.job n) ∧
        (∀ n j, n ∈ l → s.job n = some j → j.cores ≠ [] → ∃ k, t.job n = some k ∧ k.cores = j.cores ∧
          (k.kill = j.kill ∧ k.deferred = true ∨ k.kill ≠ none)) ∧
        (∀ n j, l = [n] → s.job n = some j → j.kill = none → j.cores ≠ [] → (∃ q i k, j.kind = .free q i k) →
          (s.remoteWait j = false → t.job n = some { j with kill := some .preempt, killCode := Config.NONE, detail := 0#64,
                                                            coKilled := false, killing := j.cores, deferred := false,
                                                            arrivals := j.arrivals.filter fun a => (s.flight a.1).round == a.2 }) ∧
          (s.remoteWait j = true → j.deferred = false → t.job n = some { j with deferred := true, deferStart := s.esc.time })) ∧
        Only [.run, .rg, .jobs, .cores, .chime, .obs, .freeCount] s t
    does (.preemptQueue who target) (fun j => match j.kind with
      | .free q _ _ => decide (q = target.toNat % 8192)
      | .station _ => false) ∧
    does (.preemptContext who target) (fun j => match j.kind with
      | .free q _ _ => decide ((s.queue q).ctx = target.toNat % 2048)
      | .station _ => false) ∧
    does (.preemptInstance who target) (fun j => match j.kind with
      | .free q _ _ => decide ((s.ctx (s.queue q).ctx).inst = target.toNat % 64)
      | .station _ => false) ∧
    does (.preemptCores who part target) (fun j => decide (j.part = part.toNat) && j.cores.any fun c => bitAt target.toNat c)) ∧
  (∀ (s : State) (part : BitVec 3) (t : W32), let p := part.toNat
    let x : Instr := .preemptWaitExpiry part t
    ((s.run = none ∨ s.dispatches = false ∨ (s.rgPart p).preemptWaitUs = 0#20 ∨ s.autoBusy p = true) → exec x s = .next s) ∧
    (∀ r k w, s.run = some r → tfind r.openWin p = some k → r.img.window p k = some w → s.dispatches = true →
      (s.rgPart p).preemptWaitUs ≠ 0#20 → s.autoBusy p = false →
      (s.offers p = [] → exec x s = .next s) ∧
      (∀ o more, s.offers p = o :: more →
        let able := s.jobs.filter fun j => s.isVictim r p w.index o j.1 j.2
        let fit := fits s r.img w (t.toNat + 1504) o.2.launchNeeds.2
        ((fit = false ∨ able = []) → exec x s = .next s) ∧
        (∀ n j, fit = true → s.victim able = some (n, j) → s.job n = some j → j.cores ≠ [] → Answers (exec x s) fun u =>
          (∃ q i c, j.kind = .free q i c) ∧ u.job n = some { j with
            kill := some .preempt, killCode := Config.NONE, detail := 0#64, coKilled := false, killing := j.cores,
            deferred := false, arrivals := [] } ∧
          (u.rgPart p).autoFor = some o.2.seqNo ∧ (u.rgPart p).autoVictim = some n ∧ (u.rgPart p).autoCores = j.cores ∧ Only [.run, .rgParts, .jobs, .cores, .chime, .obs, .freeCount] s u)))) ∧
  (∀ (s : State) (core : BitVec 4), (∀ n j, (s.core core.toNat).job = some n → s.job n = some j →
      j.deferred = false ∨ j.kill ≠ none ∨ ¬Running' s) → exec (.remoteLimit core) s = .next s) ∧
  (∀ (s : State) (core : BitVec 4) (n : Nat) (j : Job), Running' s → (s.core core.toNat).job = some n → s.job n = some j →
    j.deferred = true → j.kill = none → j.cores ≠ [] → (∃ q i k, j.kind = .free q i k) → Answers (exec (.remoteLimit core) s) fun t =>
      (∃ k, t.job n = some k ∧ k.kill = some .remoteLimit ∧ k.killCode = Config.REMOTE_LIMIT ∧ k.killing = j.cores) ∧
      (∀ c ∈ j.cores, (t.core c).st = .killing) ∧ t.rg.preLimitHit = true ∧
      (∀ f ∈ s.remoteFlights j, (s.flight f).state = .isOpen → (t.flight f).state = .broken ∧ (t.flight f).cause = 0#3) ∧
      Only [.writes, .mem, .poison, .au, .run, .pool, .gens, .ctxs, .queues, .insts, .rg, .rgParts, .jobs, .cores, .flights, .tw, .links, .fr, .chime, .obs, .freeCount] s t)

/-- R300, R306, R314, R316, R317, R321 to R324. -/
def Obligations.CountersAndFlightsObeyTheManager : Prop :=
  (∀ (s : State) (who : Who) (value : W32), ManagerMay s who →
    let id := s.sy.ctrSel
    let c := s.counter id.toNat
    ((c.state = .free ∨ c.state = .abandoned) → exec (.setOp who value) s = .next s) ∧
    ((c.state = .live ∨ c.state = .faulted) → (c.kind ≠ .flightArrive ∨ ((s.flight c.owner.toNat).arriveId = id ∧
        value.toNat < (s.flight c.owner.toNat).expect.toNat)) →
      Answers (exec (.setOp who value) s) fun t =>
        t.counter id.toNat = { c with value := value, state := .live, fault := 0#2 } ∧
        (∀ k, k ≠ id.toNat → t.counter k = s.counter k) ∧ (c.kind ≠ .flightArrive → Only [.counters, .cores] s t) ∧
        Only [.writes, .mem, .poison, .au, .run, .pool, .gens, .ctxs, .queues, .insts, .rgParts, .jobs, .cores, .counters, .flights, .sy, .tw, .links, .fr, .chime, .obs, .freeCount] s t) ∧
    (c.state = .abandoned → c.kind = .context → (∀ q ∈ s.queues, ∀ x ∈ q.2.cmds, x.phase = .pendingWait →
        ∀ cont thr, x.body ≠ .waitCounter cont id thr) →
      Answers (exec (.reclaim who) s) fun t => (t.counter id.toNat).state = .free ∧
        (∀ k, k ≠ id.toNat → t.counter k = s.counter k) ∧ t.sy = s.sy ∧ Only [.counters] s t) ∧
    ((c.state ≠ .abandoned ∨ c.kind ≠ .context ∨ ∃ q ∈ s.queues, ∃ x ∈ q.2.cmds, x.phase = .pendingWait ∧
        ∃ cont thr, x.body = .waitCounter cont id thr) →
      exec (.reclaim who) s = .next { s with sy := { s.sy with reclaimRefused := true } })) ∧
  (∀ (s : State) (who : Who), ManagerMay s who →
    let n := s.sy.flightSel.toNat
    let f := s.flight n
    let allowed : Prop := f.expect ≠ 0#16 ∧ 10 ≤ f.timeoutUs.toNat ∧ f.timeoutUs.toNat ≤ 10000000 ∧ f.parent.toNat ≤ 5 ∧
      ∀ l, f.parentLink = some l → bitAt f.children.toNat l = false
    let isFree (c k : Nat) : Prop := 4096 ≤ k ∧ k < 8192 ∧ (s.counter (c * 8192 + k)).state = .free
    let short (c : Nat) : Prop := ∀ a b, isFree c a → isFree c b → a = b
    ((f.state ≠ .free ∨ ¬allowed ∨ ∀ c, c < 16 → s.present c = true → short c) →
      exec (.flightCreate who) s = .next s) ∧
    (∀ c a r, f.state = .free → allowed → c < 16 → s.present c = true → (∀ d, d < c → s.present d = true → short d) →
      isFree c a → isFree c r → a < r → (∀ k, k < r → isFree c k → k = a) →
      Answers (exec (.flightCreate who) s) fun t =>
        t.flight n = { f with state := .isOpen, round := f.startRound, arriveId := BitVec.ofNat 17 (c * 8192 + a),
                              releaseId := BitVec.ofNat 17 (c * 8192 + r), childArrived := 0#5, forwarded := false,
                              watchdog := false } ∧
        t.counter (c * 8192 + a) = { Counter.reset with
          kind := .flightArrive, state := .live, error := true, owner := BitVec.ofNat 11 n } ∧
        t.counter (c * 8192 + r) = { Counter.reset with
          kind := .flightRelease, state := .live, owner := BitVec.ofNat 11 n, value := f.startRound } ∧
        (∀ k, k ≠ n → t.flight k = s.flight k) ∧ Only [.counters, .flights] s t) ∧
    (f.state ≠ .broken → exec (.flightReset who) s = .next s) ∧
    (f.state = .broken → f.arriveId ≠ f.releaseId → Answers (exec (.flightReset who) s) fun t =>
      t.flight n = { f with
        state := .isOpen, round := f.startRound, childArrived := 0#5, forwarded := false, watchdog := false } ∧
      (t.counter f.arriveId.toNat).value = 0#32 ∧ (t.counter f.arriveId.toNat).state = .live ∧
      (t.counter f.releaseId.toNat).value = f.startRound ∧ (t.counter f.releaseId.toNat).state = .live ∧
      Only [.jobs, .cores, .counters, .flights] s t) ∧
    (f.state = .isOpen → Answers (exec (.flightBreak who) s) fun t =>
      FlightBreaks s t n 5#3 Config.FLIGHT_BROKEN none ∧ Only [.writes, .mem, .poison, .au, .run, .pool, .gens, .ctxs, .queues, .insts, .rgParts, .jobs, .cores, .flights, .tw, .links, .fr, .chime, .obs, .freeCount] s t) ∧
    (f.state ≠ .isOpen → Answers (exec (.flightBreak who) s) fun t => t.flights = s.flights ∧ t.links = s.links) ∧
    (f.state = .free → exec (.flightDestroy who) s = .next s) ∧
    (f.state ≠ .free → Answers (exec (.flightDestroy who) s) fun t => (t.flight n).state = .free ∧
      (t.counter f.arriveId.toNat).state = .free ∧ (t.counter f.releaseId.toNat).state = .free ∧
      (∀ k, k ≠ n → t.flight k = s.flight k) ∧
      (f.state = .isOpen → ∀ l, (f.parentLink = some l ∨ bitAt f.children.toNat l = true) → (s.link l).state = .up →
        s.maySend l = true → Queued t l (.brk n f.round)) ∧ Only [.writes, .mem, .poison, .au, .run, .pool, .gens, .ctxs, .queues, .insts, .rgParts, .jobs, .cores, .counters, .flights, .tw, .links, .fr, .chime, .obs, .freeCount] s t)) ∧
  (∀ (s : State) (flight : BitVec 10), let n := flight.toNat
    (((s.flight n).watchdog = false ∨ ¬Running' s) → exec (.flightWatchdog flight) s = .next s) ∧
    ((s.flight n).watchdog = true → (s.flight n).state = .isOpen → Running' s →
      Answers (exec (.flightWatchdog flight) s) fun t =>
        FlightBreaks s t n 2#3 Config.FLIGHT_TIMEOUT none ∧ Only [.writes, .mem, .poison, .au, .run, .pool, .gens, .ctxs, .queues, .insts, .rgParts, .jobs, .cores, .flights, .tw, .links, .fr, .chime, .obs, .freeCount] s t))

/-- R318 to R323, R480. RELEASE carries the completed ROUND (log entry 46). -/
def Obligations.FlightMessagesMoveRounds : Prop :=
  ∀ (s : State) (h : FrameHdr) (flight : BitVec 10) (round : W32),
    let n := flight.toNat
    let l := h.link.toNat
    let arrive : Instr := .arrive h flight round
    let release : Instr := .releaseMessage h flight round
    let brk : Instr := .breakMsg h flight round
    (∀ w, (rxFlight s h = .gone w ∨ (rxFlight s h = .taken w ∧ w.obs.halted = true)) → ∀ x ∈ [arrive, release, brk],
      exec x s = .next w) ∧
    (∀ w, rxFlight s h = .taken w → w.obs.halted = false →
      let f := w.flight n
      let have' := (w.counter f.arriveId.toNat).value.toNat
      let here := f.childArrived ||| BitVec.ofNat 5 (2 ^ l)
      let quiet : Prop := ∀ q ∈ w.queues, ∀ c ∈ q.2.cmds, c.phase = .pendingWait → ∀ x, c.body ≠ .barrier x n (f.round + 1#32)
      let rounds (t : State) (left : Nat) : Prop :=
        (t.flight n).round = f.round + 1#32 ∧ (t.flight n).state = .isOpen ∧ (t.flight n).childArrived = 0#5 ∧
          (t.flight n).forwarded = false ∧ (t.flight n).watchdog = decide (0 < left) ∧
          (t.counter f.releaseId.toNat).value = f.round + 1#32 ∧ (t.counter f.arriveId.toNat).value.toNat = left ∧
          ∀ k, bitAt f.children.toNat k = true → (w.link k).state = .up → w.maySend k = true → Queued t k (.release n f.round)
      (f.state = .free → ∀ x ∈ [arrive, release, brk], Answers (exec x s) fun t => t.flights = w.flights ∧
        ((w.link l).state = .up → w.maySend l = true → Queued t l (.brk n round))) ∧
      (f.state = .broken → ∀ x ∈ [arrive, release, brk], Answers (exec x s) fun t => t.flights = w.flights ∧
        t.links = w.links ∧ t.counters = w.counters) ∧
      (f.state = .isOpen →
        (f.round ≠ round → ∀ x ∈ [arrive, release], Answers (exec x s) fun t =>
          FlightBreaks w t n 6#3 Config.FLIGHT_BROKEN none ∧ t.counters = w.counters) ∧
        (Answers (exec brk s) fun t => FlightBreaks w t n 4#3 Config.FLIGHT_BROKEN (some l) ∧ t.counters = w.counters) ∧
        (f.round = round → bitAt f.children.toNat l = false → Answers (exec arrive s) fun t =>
          t.flights = w.flights ∧ t.counters = w.counters) ∧
        (f.round = round → bitAt f.children.toNat l = true →
          ((f.forwarded = true ∨ have' < f.expect.toNat ∨ here &&& f.children ≠ f.children) →
            Answers (exec arrive s) fun t => t.flight n = { f with childArrived := here, watchdog := true } ∧
              t.counters = w.counters ∧ t.links = w.links) ∧
          (f.forwarded = false → f.expect.toNat ≤ have' → here &&& f.children = f.children →
            (∀ p, f.parentLink = some p → Answers (exec arrive s) fun t =>
              t.flight n = { f with childArrived := here, watchdog := true, forwarded := true } ∧
              (t.counter f.arriveId.toNat).value.toNat = have' - f.expect.toNat ∧
              ((w.link p).state = .up → w.maySend p = true → Queued t p (.arrive n f.round))) ∧
            (f.parentLink = none → f.arriveId ≠ f.releaseId → quiet → (have' < 2 * f.expect.toNat) →
              Answers (exec arrive s) fun t => rounds t (have' - f.expect.toNat)))) ∧
        (f.round = round → f.parentLink ≠ some l → Answers (exec release s) fun t =>
          t.flights = w.flights ∧ t.counters = w.counters) ∧
        (f.round = round → f.parentLink = some l → f.arriveId ≠ f.releaseId → quiet → have' < f.expect.toNat →
          Answers (exec release s) fun t => rounds t have')))

/-- R322, R433, R502 to R505. Frames out of turn count in DROPPED (log entry 41). -/
def Obligations.LinksTrainAndFail : Prop :=
  (∀ (s : State) (h : FrameHdr) (expected : BitVec 16) (flight : BitVec 10) (round : W32),
    let n := h.link.toNat
    let l := s.link n
    let control : List Instr := [.idle h, .nak h expected]
    let sequenced : List Instr := [.arrive h flight round, .releaseMessage h flight round, .breakMsg h flight round]
    (s.receives n = false → ∀ x ∈ control ++ sequenced, exec x s = .next s) ∧
    (s.receives n = true → h.crcOk = false →
      (∀ x ∈ control, exec x s = .next (s.modLink n fun l => { l with crcErrors := satInc l.crcErrors })) ∧
      (∀ x ∈ sequenced, Answers (exec x s) fun t => (t.link n).crcErrors = satInc l.crcErrors ∧ Only [.tw, .links] s t ∧
        (l.state = .up → s.maySend n = true → (t.link n).last = some (.nak l.rxSeq)))) ∧
    (s.receives n = true → h.crcOk = true → l.state ≠ .up → ∀ x ∈ control ++ sequenced,
      exec x s = .next (s.modLink n fun l => { l with dropped := satInc l.dropped })) ∧
    (s.receives n = true → h.crcOk = true → l.state = .up → h.seq ≠ l.rxSeq → ∀ x ∈ sequenced,
      Answers (exec x s) fun t => (t.link n).dropped = satInc l.dropped ∧ (t.link n).rxSeq = l.rxSeq ∧
        (s.maySend n = true → (t.link n).last = some (.nak l.rxSeq)) ∧ Only [.tw, .links] s t) ∧
    (s.receives n = true → h.crcOk = true → l.state = .up → l.waiting = [] →
      let left := if l.unacked.any (fun x => x.1 == h.ack) then (l.unacked.dropWhile fun x => x.1 != h.ack).drop 1 else l.unacked
      (Answers (exec (.idle h) s) fun t => (t.link n).unacked = left ∧ (t.link n).credits = l.credits + h.credits.toNat ∧
        (t.link n).rxSeq = l.rxSeq ∧ (t.link n).txSeq = l.txSeq ∧ (t.link n).state = .up ∧ Only [.tw, .links] s t) ∧
      (left = l.unacked →
        let again := l.unacked.dropWhile fun x => x.1 != expected
        let count := if l.nakSeq = expected then l.nakCount + 1 else 1
        (count < 16 → s.maySend n = true → again ≠ [] → Answers (exec (.nak h expected) s) fun t =>
          (t.link n).replays = satInc l.replays ∧ (t.link n).sent = l.sent + again.length ∧ (t.link n).unacked = l.unacked ∧
          (t.link n).last = again.getLast?.map Prod.snd ∧ (t.link n).nakCount = count ∧ (t.link n).nakSeq = expected ∧
          Only [.tw, .links] s t) ∧
        (16 ≤ count → Answers (exec (.nak h expected) s) fun t => (t.link n).state = .waitPhy ∧
          (t.link n).downCause = 2#3 ∧ (t.link n).unacked = [] ∧ (t.link n).downs = satInc l.downs ∧
          Only [.writes, .mem, .poison, .au, .run, .pool, .gens, .ctxs, .queues, .insts, .rgParts, .jobs, .cores, .flights, .tw, .links, .fr, .chime, .obs, .freeCount] s t)))) ∧
  (∀ (s : State) (h : FrameHdr) (buffers : BitVec 8) (digest : Digest),
    let n := h.link.toNat
    let x : Instr := .linkInit h buffers digest
    let up : State := s.modLink n fun l => { l with
      state := .up, txSeq := 0#16, rxSeq := 0#16, credits := buffers.toNat, freed := 0, nakSeq := 0#16, nakCount := 0,
      waiting := [], unacked := [] }
    (s.receives n = true → h.crcOk = true → (s.link n).state = .init →
      ((n ≠ 0 ∨ s.obs.halted = true) → exec x s = .next up) ∧
      (n = 0 → s.obs.halted = false → s.tw.state = .unpaired → s.tw.pairReq = false → Answers (exec x s) fun t =>
        t.links = up.links ∧ t.tw = { s.tw with helloSeen := false } ∧ Only [.tw, .links] s t) ∧
      (n = 0 → s.obs.halted = false → s.tw.state = .unpaired → s.tw.pairReq = true → Answers (exec x s) fun t =>
        (t.link 0).state = .up ∧ t.tw.state = .auth ∧ t.tw.helloSeen = false ∧ (s.maySend 0 = true → Queued t 0 .hello) ∧
          Only [.tw, .links] s t)) ∧
    ((s.link n).state ≠ .init → s.receives n = true → h.crcOk = true →
      exec x s = .next (s.modLink n fun l => { l with dropped := satInc l.dropped }))) ∧
  (∀ (s : State) (link : BitVec 3), let n := link.toNat
    let l := s.link n
    let sends (m : LinkMsg) : State := s.setLink n { l with freed := 0, last := some m, sent := l.sent + 1 }
    (s.maySend n = true → (l.state = .waitPhy ∨ l.state = .init) → exec (.linkInitTimer link) s = .next (sends .linkInit)) ∧
    ((s.maySend n = false ∨ (l.state ≠ .waitPhy ∧ l.state ≠ .init)) → exec (.linkInitTimer link) s = .next s) ∧
    (s.maySend n = true → l.state = .up → exec (.idleSend link) s = .next (sends .idle)) ∧
    ((s.maySend n = false ∨ l.state ≠ .up) → exec (.idleSend link) s = .next s) ∧
    (s.portAlive = true → l.state = .up → Answers (exec (.linkSilence link) s) fun t =>
      LinkDowns s t n 3#3 false ∧ Only [.writes, .mem, .poison, .au, .run, .pool, .gens, .ctxs, .queues, .insts, .rgParts, .jobs, .cores, .flights, .tw, .links, .fr, .chime, .obs, .freeCount] s t) ∧
    ((s.portAlive = false ∨ l.state ≠ .up) → exec (.linkSilence link) s = .next s) ∧
    (∀ level,
      let p : State := s.modLink n fun l => { l with phyLock := level }
      (s.portAlive = false → exec (.phyLock link level) s = .next p) ∧
      (s.portAlive = true → level = true → exec (.phyLock link level) s = .next (s.modLink n fun l =>
        { l with phyLock := true, state := if l.state = .waitPhy then .init else l.state })) ∧
      (s.portAlive = true → level = false → l.state ≠ .up → exec (.phyLock link level) s = .next p) ∧
      (s.portAlive = true → level = false → l.state = .up → Answers (exec (.phyLock link level) s) fun t =>
        LinkDowns p t n 1#3 false ∧ Only [.writes, .mem, .poison, .au, .run, .pool, .gens, .ctxs, .queues, .insts, .rgParts, .jobs, .cores, .flights, .tw, .links, .fr, .chime, .obs, .freeCount] s t)) ∧
    (∀ who enable, ManagerMay s who →
      let e : State := s.modLink n fun l => { l with enable := enable }
      let x : Instr := .linkEnable who link enable
      (5 ≤ n → exec x s = .next s) ∧
      (n < 5 → enable = true → exec x s = .next (s.modLink n fun l => { l with
        enable := true, state := match l.state with
          | .disabled => if l.phyLock then .init else .waitPhy
          | .waitPhy => if l.phyLock then .init else .waitPhy
          | y => y })) ∧
      (n < 5 → enable = false → l.state ≠ .up → exec x s = .next (s.modLink n fun l =>
        { l with enable := false, state := .disabled })) ∧
      (n < 5 → enable = false → l.state = .up → Answers (exec x s) fun t =>
        LinkDowns e t n 4#3 true ∧ Only [.writes, .mem, .poison, .au, .run, .pool, .gens, .ctxs, .queues, .insts, .rgParts, .jobs, .cores, .flights, .tw, .links, .fr, .chime, .obs, .freeCount] s t)))

/-- R386 to R389, R407 to R413, R482, R483, R521. Digests are computed; whether a signature verifies is a free function of its bytes (log entry 4). -/
def Obligations.FusesUnlockAndAlarms : Prop :=
  (∀ (s : State) (who : Who) (slot : BitVec 2), ManagerMay s who →
    let a := s.sec.otpAddr.toNat
    let begins (c : FuseCmd) : State := { s with sec := { s.sec with otpBusy := true, otpCmd := c } }
    let v := sigVerdict (s.readBytes a 128) (s.readBytes (a + 128) 5568)
    let rows : List Instr := [.programFirst who, .rotate who (), .revoke who slot]
    let programmed (k : Nat) : Prop := bitAt s.fuse.ownerProgrammed.toNat k = true
    (s.sec.otpBusy = true → ∀ x ∈ rows, exec x s = .next s) ∧
    (s.sec.otpBusy = false → s.sec.locked = true → ∀ x ∈ rows, exec x s = .next (begins (.fail Config.ACCESS_DENIED))) ∧
    (s.sec.otpBusy = false → s.sec.locked = false →
      (s.fuse.ownerProgrammed ≠ 0#4 → exec (.programFirst who) s = .next (begins (.fail Config.ACCESS_DENIED))) ∧
      (s.fuse.ownerProgrammed = 0#4 → 2 ^ 48 < a + 48 → exec (.programFirst who) s = .fault .addressSpace) ∧
      (s.fuse.ownerProgrammed = 0#4 → a + 48 ≤ 2 ^ 48 →
        (s.poisoned a 48 = true → exec (.programFirst who) s = .next (begins (.fail Config.MEM_POISON))) ∧
        (s.poisoned a 48 = false → exec (.programFirst who) s =
          .next (begins (.program 0 (BitVec.ofNat 384 (leNat (s.readBytes a 48))))))) ∧
      ((∀ k, k < 4 → programmed k) → exec (.rotate who ()) s = .next (begins (.fail Config.ACCESS_DENIED))) ∧
      (∀ k, k < 4 → ¬programmed k → (∀ j, j < k → programmed j) →
        (2 ^ 48 < a + 5696 → exec (.rotate who ()) s = .fault .addressSpace) ∧
        (a + 5696 ≤ 2 ^ 48 → s.poisoned a 5696 = true → exec (.rotate who ()) s = .next (begins (.fail Config.MEM_POISON))) ∧
        (a + 5696 ≤ 2 ^ 48 → s.poisoned a 5696 = false →
          let verified : Prop := v.digestOk = true ∧ v.ecdsaOk = true ∧ v.mldsaOk = true ∧
            (s.ownerSlot v.keyDigest).isSome = true ∧ s.readLE a 4 = 0x544F524F ∧ s.readLE (a + 4) 4 = k ∧
            BitVec.ofNat 384 (s.readLE (a + 0x38) 48) = s.sec.idDigest ∧ s.readLE (a + 0x68) 24 = 0
          (verified → exec (.rotate who ()) s = .next (begins (.program k (BitVec.ofNat 384 (s.readLE (a + 8) 48))))) ∧
          (¬verified → Answers (exec (.rotate who ()) s) fun t => t.sec.otpBusy = true ∧
            t.sec.otpCmd = .fail Config.SIGNATURE_FAIL ∧ t.fuse = s.fuse ∧ Alarmed s t 1 ∧ Only [.au, .run, .insts, .jobs, .cores, .sec, .chime, .obs, .freeCount, .auIdle] s t))) ∧
      (slot.toNat < s.imageSlot → exec (.revoke who slot) s = .next (begins (.revoke slot.toNat))) ∧
      (s.imageSlot ≤ slot.toNat → exec (.revoke who slot) s = .next (begins (.fail Config.ACCESS_DENIED)))) ∧
    (let d := s.sec.dbgAddr.toNat
     let v := sigVerdict (s.readBytes d 128) (s.readBytes (d + 128) 5568)
     let x : Instr := .unlock who ()
     let next := (s.drawDigest).1
     let answered (code : BitVec 16) : State :=
       { s with sec := { s.sec with challenge := next, dbgCode := code }, freeCount := s.freeCount + 1 }
     let good : Prop := v.digestOk = true ∧ v.ecdsaOk = true ∧ v.mldsaOk = true ∧ v.keyDigest = s.fuse.ovirasaDigest ∧
       s.readLE d 4 = 0x4E4B4C55 ∧ s.readLE (d + 4) 4 = 0 ∧ BitVec.ofNat 384 (s.readLE (d + 8) 48) = s.sec.challenge ∧
       BitVec.ofNat 384 (s.readLE (d + 0x38) 48) = s.sec.idDigest ∧ s.readLE (d + 0x68) 24 = 0
     (s.sec.dbgBusy = true → exec x s = .next s) ∧
     (s.sec.dbgBusy = false → s.sec.locked = true → exec x s = .next (answered Config.ACCESS_DENIED)) ∧
     (s.sec.dbgBusy = false → s.sec.locked = false → 2 ^ 48 < d + 5696 → exec x s = .fault .addressSpace) ∧
     (s.sec.dbgBusy = false → d + 5696 ≤ 2 ^ 48 →
       (s.sec.locked = false → s.poisoned d 5696 = true → exec x s = .next (answered Config.MEM_POISON)) ∧
       (s.sec.locked = false → s.poisoned d 5696 = false → ¬good → Answers (exec x s) fun t => t.sec.challenge = next ∧
         t.sec.dbgCode = Config.DEBUG_ATTACK ∧ t.sec.dbgBusy = false ∧ t.sec.unlocked = s.sec.unlocked ∧ Alarmed s t 2 ∧
         Only [.au, .run, .insts, .jobs, .cores, .sec, .chime, .obs, .freeCount, .obsCfg, .auIdle] s t) ∧
       (s.sec.locked = false → s.poisoned d 5696 = false → good → Answers (exec x s) fun t => t.sec.challenge = next ∧
         t.sec.dbgCode = Config.NONE ∧ t.sec.dbgBusy = true ∧ t.sec.unlocked = s.sec.unlocked ∧ t.obs.bps = [] ∧
         Erased s t false ∧ (∀ c, s.present c = true → (∀ b, b < 20971520 → ∃ r ∈ (t.core c).clears, r.1 ≤ b ∧ b < r.1 + r.2) ∧
           (t.core c).me.acc = [] ∧ (t.core c).ve.chains = [] ∧
           (t.core c).me.bank0 = Bank.reset ∧ (t.core c).me.bank1 = Bank.reset) ∧ Only [.au, .run, .insts, .jobs, .cores, .sec, .chime, .obs, .freeCount, .obsCfg, .auIdle] s t)))) ∧
  (∀ s : State,
    let shows (code : BitVec 16) : State := { s with sec := { s.sec with otpBusy := false, otpCmd := .none, otpCode := code } }
    let blown (f : Fuses) : State := { s with sec := { s.sec with otpBusy := false, otpCmd := .none, otpCode := Config.NONE }, fuse := f }
    ((s.sec.otpBusy = false ∨ s.portAlive = false) → exec .fuseCommandDone s = .next s) ∧
    (s.sec.otpBusy = true → s.portAlive = true →
      (∀ code, s.sec.otpCmd = .fail code → exec .fuseCommandDone s = .next (shows code)) ∧
      (∀ k d, s.sec.otpCmd = .program k d → exec .fuseCommandDone s = .next (blown { s.fuse with
        ownerProgrammed := s.fuse.ownerProgrammed ||| BitVec.ofNat 4 (2 ^ k), ownerDigest := tput s.fuse.ownerDigest k d })) ∧
      (∀ k, s.sec.otpCmd = .revoke k → exec .fuseCommandDone s = .next (blown { s.fuse with
        ownerRevoked := s.fuse.ownerRevoked ||| BitVec.ofNat 4 (2 ^ k) }))) ∧
    (let over' : Prop := s.portAlive = true ∧ s.sec.dbgBusy = true ∧ s.sec.eraseBusy = false ∧
       ∀ k ∈ s.cores, k.2.clears = []
     (over' → exec .unlockComplete s = .next { s with sec := { s.sec with
       dbgBusy := false, unlocked := true, debugSeen := true } }) ∧
     (¬over' → exec .unlockComplete s = .next s)) ∧
    (∀ source, (s.detects source.toNat = false → exec (.glitch source) s = .next s) ∧
      (s.detects source.toNat = true → s.portAlive = false → exec (.glitch source) s = .next { s with sec := { s.sec with
        pending := s.sec.pending ||| 1#5, counts := tput s.sec.counts 0 (satInc (tget 0#32 s.sec.counts 0)) } }) ∧
      (s.detects source.toNat = true → s.portAlive = true → Answers (exec (.glitch source) s) fun t => Alarmed s t 0 ∧ Only [.au, .run, .insts, .jobs, .cores, .sec, .chime, .obs, .freeCount, .auIdle] s t)) ∧
    (let due : Prop := s.portAlive = true ∧ s.sec.importReady = false ∧ s.boot.state ≠ .romInit ∧ s.boot.state ≠ .reset ∧
       s.boot.state ≠ .failed
     (¬due → exec .importKeyRegenerationDone s = .next s) ∧
     (due → Answers (exec .importKeyRegenerationDone s) fun t => t.sec.importReady = true ∧ t.sec.importPub.length = 160 ∧
       Only [.sec, .freeCount] s t)))

/-- R174 to R178, R420 to R422, R429 to R431, R443, R480. FR_STOP.CODE of an overrun is free (log entry 47). -/
def Obligations.RecoveryScrubbingAndVerifier : Prop :=
  (∀ (s : State) (sequencer : Bool) (c : StopCause),
    let overrun : Instr := .serviceLoopOverrun sequencer
    (¬Running' s → exec overrun s = .next s) ∧
    ((¬Running' s ∨ 4 < c.cause.toNat ∨ Config.listedCode c.code = false) → exec (.recoveryStop c) s = .next s) ∧
    (Running' s → s.fr.stopped = true → exec overrun s = .next s ∧ (c.cause.toNat ≤ 4 → Config.listedCode c.code = true →
      exec (.recoveryStop c) s = .next { s with freeCount := s.freeCount + 1 })) ∧
    (Running' s → s.fr.stopped = false → c.cause.toNat ≤ 4 → Config.listedCode c.code = true →
      (Answers (exec overrun s) fun t => StopsBlock s t 2#3 (if sequencer then 1#4 else 0#4) 0#8 ∧
        Config.listedCode t.fr.stopCode = true) ∧
      (Answers (exec (.recoveryStop c) s) fun t => StopsBlock s t c.cause c.sequencer c.port ∧ t.fr.stopCode = c.code) ∧
      ∀ x ∈ [overrun, .recoveryStop c], Answers (exec x s) fun t =>
        (s.tw.state.isPaired = true → t.tw.state = .stopped) ∧ (s.tw.state.isPaired = false → t.tw.state = s.tw.state) ∧
        (s.tw.state = .primary → (s.link 0).state = .up → s.maySend 0 = true → ∃ beat, Queued t 0 (.yield 2#8 beat)))) ∧
  (∀ s : State,
    ((s.fr.wdogArmed = false ∨ s.portAlive = false) → exec .watchdogFire s = .next s) ∧
    (s.fr.wdogArmed = true → s.portAlive = true → Answers (exec .watchdogFire s) fun t =>
      t.obs.halted = true ∧ t.tw.gateClosed = true ∧ t.tw.state = .stopped ∧ t.fr.wdogFired = true ∧
      t.fr.wdogCount = satInc s.fr.wdogCount ∧ (∀ k, k < 8 → (s.target k).wdog = true → (t.target k).wdogDrive = true) ∧
      ((s.link 0).state = .up → s.maySend 0 = true → Queued t 0 (.recoveryLost s.tw.relLast)) ∧
      Only [.tw, .links, .fr, .chime, .obs, .freeCount, .frCfg, .obsCfg] s t)) ∧
  (∀ (s : State) (target : ScrubTarget) (err : SramErr),
    ((¬Running' s ∨ err = .none) → exec (.scrub target err) s = .next s) ∧
    (Running' s →
      (∀ core line, target = .scratch core line →
        let c := core.toNat
        let visits : Prop := s.present c = true ∧ (s.core c).clears = [] ∧ line < 163840
        (¬visits → exec (.scrub target err) s = .next s) ∧
        (visits → err = .corrected → Answers (exec (.scrub target err) s) fun t =>
          tget 0#32 t.fr.ce 0 = satInc (tget 0#32 s.fr.ce 0) ∧ t.cores = s.cores ∧ Only [.cores, .fr, .chime, .obs, .freeCount] s t) ∧
        (visits → err = .uncorrectable → Answers (exec (.scrub target err) s) fun t => line ∈ (t.core c).badLines ∧
          (t.core c).scratch = (s.core c).scratch ∧ (t.core c).st = (s.core c).st ∧ Only [.cores, .fr, .chime, .obs, .freeCount] s t)) ∧
      (∀ slot line, target = .basin slot line →
        (∀ b, s.basinCopy slot.toNat = some b → line < ceilDiv b.len 128 →
          (err = .corrected → Answers (exec (.scrub target err) s) fun t =>
            tget 0#32 t.fr.ce 1 = satInc (tget 0#32 s.fr.ce 1) ∧ t.basin = s.basin) ∧
          (err = .uncorrectable → Answers (exec (.scrub target err) s) fun t => Only [.basin, .fr, .chime, .obs, .freeCount] s t ∧
            ∃ d, t.basinCopy slot.toNat = some d ∧ (∃ code, (line, code) ∈ d.badLines) ∧ ∀ l ∈ b.badLines, l ∈ d.badLines)) ∧
        ((∀ b ∈ s.basinCopy slot.toNat, ceilDiv b.len 128 ≤ line) → exec (.scrub target err) s = .next s)) ∧
      (target = .keeper → (err = .corrected → Answers (exec (.scrub target err) s) fun t =>
          tget 0#32 t.fr.ce 7 = satInc (tget 0#32 s.fr.ce 7) ∧ t.jobs = s.jobs ∧ Only [.cores, .fr, .chime, .obs, .freeCount] s t) ∧
        (err = .uncorrectable → s.fr.stopped = true → exec (.scrub target err) s = .next s) ∧
        (err = .uncorrectable → s.fr.stopped = false → Answers (exec (.scrub target err) s) fun t =>
          StopsBlock s t 0#3 15#4 0#8 ∧ t.fr.stopCode = Config.SRAM_UNCORRECTABLE)))) ∧
  (∀ (s : State) (who : Who) (slot data : W32), ManagerMay s who →
    exec (.loaderModeWrite who data) s = .next { s with kp := { s.kp with loaderMode := data.setWidth 2 } } ∧
    (s.run = none → exec (.refill who slot) s = .next s) ∧
    (∀ r, s.run = some r →
      (∀ b d, tfind r.bindings slot.toNat = some b → r.img.slotDecl slot.toNat = some d → b.filled = true → d.basinBytes ≠ 0 →
        exec (.refill who slot) s = .next { s with run := some { r with
          bindings := tput r.bindings slot.toNat { b with refilling := true } } }) ∧
      ((∀ b d, tfind r.bindings slot.toNat = some b → r.img.slotDecl slot.toNat = some d → b.filled = false ∨ d.basinBytes = 0) →
        exec (.refill who slot) s = .next s))) ∧
  (∀ s : State,
    ((¬Running' s ∨ ∀ e ∈ s.kp.verifyQueue, (s.gen e).state = .free) → exec .verifyScanDone s = .next s) ∧
    (∀ e rest, Running' s → s.kp.verifyQueue = e :: rest → (s.gen e).state = .live →
      Answers (exec .verifyScanDone s) fun t =>
        (t.gen e).verdict = s.verdictOn (s.gen e) ∧ t.kp.verifyQueue = (rest.filter fun e => (s.gen e).state != .free) ∧
        (∀ code off st, s.verdictOn (s.gen e) = .rejected code off st →
          (s.kp.vfValid = false → t.kp.vfValid = true ∧ t.kp.vfEntry = BitVec.ofNat 13 e ∧ t.kp.vfCode = code ∧
            t.kp.vfOffset = BitVec.ofNat 32 off ∧ t.kp.vfStation = st) ∧
          (s.kp.vfValid = true → t.kp.vfCode = s.kp.vfCode ∧ t.kp.vfEntry = s.kp.vfEntry) ∧
          (DistinctCmds s → ∀ q, ∀ c ∈ (s.queue q).cmds, c.phase = .verifying → c.gen = some e →
            ∃ d ∈ (t.queue q).cmds, d.seqNo = c.seqNo ∧ d.phase = .completed ∧ d.code = code ∧ d.submission = true)) ∧
        (s.verdictOn (s.gen e) = .verified → t.kp.vfValid = s.kp.vfValid ∧
          (DistinctCmds s → ∀ q, ∀ c ∈ (s.queue q).cmds, c.phase = .verifying → c.gen = some e →
            (∃ m f h o p po pl en bo ar, c.body = .launch m f h o p po pl en bo ar) →
            ∃ d ∈ (t.queue q).cmds, d.seqNo = c.seqNo ∧ d.phase = .fetched)) ∧
        Only [.writes, .mem, .poison, .au, .pool, .kp, .gens, .ctxs, .queues, .insts, .rgParts, .cores, .fr, .chime, .obs, .freeCount] s t)) ∧
  (∀ (s : State) (g : Gen), s.verdictOn g = .verified ↔ (∀ k, g.keySlot = some k → s.keyLoaded k = true) ∧
    (∀ k, k < g.len / 16 → s.insFault g (16 * k) (s.progIns g (16 * k)) = none) ∧
    lastOk (s.progIns g (16 * (g.len / 16) - 16)) = true)

/-- R433, R434, R436 to R438, R444, R445, R506. The verdict on a PROOF is an operand (log entry 4). -/
def Obligations.TwinsPairAndResolve : Prop :=
  (∀ (s : State) (who : Who), ManagerMay s who →
    let asked : State := { s with tw := { s.tw with pairReq := true } }
    ((s.tw.state ≠ .unpaired ∨ (s.link 0).state ≠ .up) → exec (.pair who) s = .next asked) ∧
    (s.tw.state = .unpaired → (s.link 0).state = .up → Answers (exec (.pair who) s) fun t =>
      t.tw.state = .auth ∧ t.tw.pairReq = true ∧ t.tw.authed = false ∧ (s.maySend 0 = true → Queued t 0 .hello) ∧
        Only [.tw, .links] s t) ∧
    (s.tw.state ≠ .paired → s.tw.state ≠ .held → exec (.unpair who) s = .next s) ∧
    ((s.tw.state = .paired ∨ s.tw.state = .held) →
      (s.mirror.isSome = true → exec (.unpair who) s = .next { s with tw := { s.tw with lastCode := Config.ACCESS_DENIED } }) ∧
      (s.mirror = none → Answers (exec (.unpair who) s) fun t => t.tw.state = .unpaired ∧ t.tw.authed = false ∧
        t.tw.partnerLive = false ∧ t.tw.pairReq = false ∧ Only [.tw] s t))) ∧
  (∀ (s : State) (h : FrameHdr) (d : Digest) (ok : Bool) (ns : BitVec 16),
    let proof : Instr := .proof h d ok ns
    (∀ w, rxTwin s h 4 = .gone w → exec (.hello h d) s = .next w) ∧
    (∀ w, rxTwin s h 105 = .gone w → exec proof s = .next w) ∧
    (∀ w, rxTwin s h 4 = .taken w → ¬Running' w → exec (.hello h d) s = .next w) ∧
    (∀ w, rxTwin s h 4 = .taken w → Running' w → Answers (exec (.hello h d) s) fun t =>
      t.tw.helloSeen = true ∧ t.tw.partnerDigest = d ∧ t.tw.state = w.tw.state ∧ t.tw.authed = w.tw.authed ∧
      (w.exchanging = true → (w.link 0).state = .up → w.maySend 0 = true → Queued t 0 .proof) ∧ Only [.tw, .links] w t) ∧
    (∀ w, rxTwin s h 105 = .taken w →
      ((¬Running' w ∨ w.exchanging = false ∨ w.tw.helloSeen = false) → exec proof s = .next w) ∧
      (Running' w → w.exchanging = true → w.tw.helloSeen = true →
        (d = w.tw.peerDigest → ok = true → exec proof s = .next { w with tw := { w.tw with
          authed := true, rxCtr := 0#64, txCtr := 0#64, oneWayNs := ns, hbMissed := 0#4, partner := none,
          state := if w.tw.state = .auth then .paired else w.tw.state } }) ∧
        ((d ≠ w.tw.peerDigest ∨ ok = false) → Answers (exec proof s) fun t =>
          t.tw.state = .unpaired ∧ t.tw.authed = false ∧ t.tw.pairReq = false ∧ Alarmed w t 4)))) ∧
  (∀ (s : State) (h : FrameHdr) (c : Heartbeat),
    let x : Instr := .heartbeat h c
    (∀ w, rxTwin s h 1 = .gone w → exec x s = .next w) ∧
    (∀ v w, rxTwin s h 1 = .taken v → rxAuth v h false = .gone w →
      exec x s = .next { w with tw := { w.tw with hbMissed := satInc w.tw.hbMissed } }) ∧
    (∀ v w, rxTwin s h 1 = .taken v → rxAuth v h false = .taken w →
      (¬Running' w → exec x s = .next w) ∧
      (Running' w → Answers (exec x s) fun t =>
        let heard : State := { w with tw := { w.tw with partnerLive := true, partner := some c } }
        let e := heard.phaseError c
        let p := c.state.toNat
        let yields : Prop := (w.link 0).state = .up → w.maySend 0 = true → Queued t 0 (.yield 0#8 w.tw.relLast)
        t.tw.partnerLive = true ∧ t.tw.hbMissed = 0#4 ∧ t.tw.partner = some c ∧ t.tw.partnerState = c.state ∧
        t.tw.complete = w.tw.complete.filter (fun e => beatAfter e.1 c.lastRel) ∧ Only [.tw, .links, .chime, .obs] w t ∧
        (t.tw.state = w.tw.state → w.tw.state = .secondary → t.tw.aligned = (w.tw.aligned && decide (e ≤ 5000)) ∧
          t.tw.realign = (if w.tw.aligned && decide (5000 < e) then satInc w.tw.realign else w.tw.realign)) ∧
        (t.tw.state = w.tw.state → w.tw.state ≠ .secondary → t.tw.aligned = decide (e ≤ 1000)) ∧
        (heard.matched = false → t.tw.state = w.tw.state ∧ t.tw.elect = w.tw.elect ∧ t.links = w.links) ∧
        (heard.matched = true →
          (w.tw.state = .paired → (p = 3 ∨ ¬winsAgainst w c) → EntersSecondary w t) ∧
          (w.tw.state = .paired → p ≠ 3 → winsAgainst w c → t.tw.state = .paired ∧ t.tw.elect = true) ∧
          (w.tw.state = .held → (p = 3 ∨ ((p = 2 ∨ p = 5) ∧ ¬winsAgainst w c)) → EntersSecondary w t) ∧
          (w.tw.state = .held → (p = 2 ∨ p = 5) → winsAgainst w c → t.tw.state = .paired ∧ t.tw.elect = true) ∧
          (w.tw.state = .held → p ≠ 2 → p ≠ 3 → p ≠ 5 → t.tw.state = .held) ∧
          (w.tw.state = .secondary → t.tw.state = .secondary ∧ (p = 5 → yields)) ∧
          (w.tw.state = .primary → p = 3 → ¬winsAgainst w c → EntersSecondary w t ∧ t.tw.lastCode = Config.RELEASE_DENIED) ∧
          (w.tw.state = .primary → (p ≠ 3 ∨ winsAgainst w c) → t.tw.state = .primary) ∧
          ((w.tw.state = .unpaired ∨ w.tw.state = .auth ∨ w.tw.state = .stopped) → t.tw.state = w.tw.state))))) ∧
  (∀ s : State,
    ((s.tw.authed = false ∨ ¬Running' s) → exec .heartbeatSend s = .next s) ∧
    (s.tw.authed = true → Running' s → (s.link 0).state = .up → s.maySend 0 = true → Answers (exec .heartbeatSend s) fun t =>
      (∃ c, Queued t 0 (.heartbeat c) ∧ c.state = BitVec.ofNat 3 s.tw.state.code ∧ c.beat = s.esc.beatCount ∧
        c.lastRel = s.tw.relLast ∧ c.role = s.ownRole ∧ c.mirror = s.mirror.isSome ∧ c.failover = s.failoverArmed) ∧
      Only [.tw, .links] s t))

/-- R440 to R446. CLAIM's refusal code is log entry 44; a HELD device accepts a role resolution when MATCHED (log entry 43). -/
def Obligations.TwinsTakeOverOnGrounds : Prop :=
  let ground (s : State) : Prop := s.failoverArmed = true ∧ s.tw.witnessUse = true ∧ s.tw.inStepLast = true
  let heldDenied (s t : State) (denied : Prop) : Prop := t.tw.state = .held ∧ t.tw.elect = false ∧
    (denied → t.tw.lastCode = Config.RELEASE_DENIED) ∧ t.tw.relLast = s.tw.relLast ∧ Only [.tw, .chime, .obs] s t
  (∀ (s : State) (who : Who), ManagerMay s who →
    (s.tw.state = .primary → exec (.handover who) s = .next { s with tw := { s.tw with handoverReq := true } }) ∧
    (s.tw.state ≠ .primary → exec (.handover who) s = .next s) ∧
    (s.tw.state ≠ .held → exec (.claim who) s = .next s) ∧
    (s.tw.state = .held →
      let may : Prop := s.tw.yielded = true ∨ (s.tw.witnessUse = true ∧ s.tw.witness = true ∧ s.tw.partnerLive = false)
      (may → Answers (exec (.claim who) s) fun t => EntersPrimary s t (lastReported s)) ∧
      (¬may → exec (.claim who) s = .next { s with tw := { s.tw with lastCode := Config.RELEASE_DENIED } }))) ∧
  (∀ s : State, ((s.tw.authed = false ∨ ¬Running' s ∨ s.lossKnown = true) → exec .heartbeatLost s = .next s) ∧
    (s.tw.authed = true → Running' s → s.lossKnown = false → Answers (exec .heartbeatLost s) fun t =>
      t.tw.partnerLive = false ∧ t.tw.hbMissed = BitVec.ofNat 4 (min 15 s.hbMiss) ∧ Only [.tw, .chime, .obs] s t ∧
      (s.tw.state = .primary → (s.tw.witnessUse = false ∨ s.tw.witness = true) → t.tw.state = .primary ∧
        t.tw.lastCode = Config.HEARTBEAT_LOST) ∧
      (s.tw.state = .primary → s.tw.witnessUse = true → s.tw.witness = false → heldDenied s t True) ∧
      ((s.tw.state = .secondary ∨ s.tw.state = .held) → ground s → s.tw.witness = true → EntersPrimary s t (lastReported s) ∧
        t.tw.lastCode = Config.FAILOVER_TAKEN) ∧
      ((s.tw.state = .secondary ∨ s.tw.state = .held) → (¬ground s ∨ s.tw.witness = false) →
        heldDenied s t (s.failoverArmed = true)) ∧
      (s.tw.state = .paired → t.tw.state = .paired ∧ t.tw.elect = false))) ∧
  (∀ (s : State) (level : Bool),
    let set : State := { s with tw := { s.tw with witness := level } }
    ((s.obs.halted = true ∨ s.tw.partnerLive = true ∨ s.portAlive = false ∨ (s.tw.state ≠ .primary ∧ s.tw.state ≠ .held)) →
      exec (.twWitness level) s = .next set) ∧
    (Running' s → s.tw.partnerLive = false →
      (s.tw.state = .primary → s.tw.witnessUse = true → level = false → Answers (exec (.twWitness level) s) fun t =>
        heldDenied s t True ∧ t.tw.witness = false) ∧
      (s.tw.state = .primary → (s.tw.witnessUse = false ∨ level = true) → exec (.twWitness level) s = .next set) ∧
      (s.tw.state = .held → ground s → level = true → Answers (exec (.twWitness level) s) fun t =>
        EntersPrimary s t (lastReported s) ∧ t.tw.lastCode = Config.FAILOVER_TAKEN ∧ t.tw.witness = true) ∧
      (s.tw.state = .held → (¬ground s ∨ level = false) → exec (.twWitness level) s = .next set))) ∧
  (∀ (s : State) (h : FrameHdr) (kind : BitVec 8) (last : BitVec 48),
    let y : Instr := .yield h kind last
    let l : Instr := .recoveryLost h last
    let k := kind.toNat
    (∀ w, (rxSession s h = .gone w ∨ (rxSession s h = .taken w ∧ ¬Running' w)) → exec y s = .next w ∧ exec l s = .next w) ∧
    (∀ w, rxSession s h = .taken w → Running' w →
      let accepts (x : Instr) : Prop := Answers (exec x s) fun t => EntersPrimary w t (if w.tw.partner.isSome then last else w.tw.relLast)
      let refuses (x : Instr) : Prop := Answers (exec x s) fun t => heldDenied w t True ∧ t.tw.yielded = true
      let waits : Prop := w.tw.state = .secondary ∨ w.tw.state = .held
      let fault : Prop := k = 2 ∧ w.failoverArmed = false
      (w.tw.state = .paired → k = 0 → w.matched = true → accepts y) ∧
      (w.tw.state = .paired → k = 0 → w.matched = false → exec y s = .next w) ∧
      (w.tw.state = .paired → k = 2 → w.failoverArmed = true → w.inStep = true → accepts y) ∧
      (w.tw.state = .paired → k ≠ 0 → (k ≠ 2 ∨ w.failoverArmed = false ∨ w.inStep = false) → exec y s = .next w) ∧
      (waits → k ≠ 0 → k ≤ 3 → ¬fault → w.inStep = true → accepts y) ∧
      (waits → k ≠ 0 → k ≤ 3 → ¬fault → w.inStep = false → w.inStepButSwap = true →
        exec y s = .next { w with tw := { w.tw with heldYield := some (kind, last) } }) ∧
      (waits → k ≠ 0 → k ≤ 3 → ¬fault → w.inStep = false → w.inStepButSwap = false → refuses y) ∧
      (waits → (3 < k ∨ fault) → refuses y) ∧
      (w.tw.state = .held → k = 0 → w.matched = true → accepts y) ∧
      ((w.tw.state = .secondary ∨ (w.tw.state = .held ∧ w.matched = false)) → k = 0 → refuses y) ∧
      (waits → w.failoverArmed = true → w.inStep = true → Answers (exec l s) fun t =>
        EntersPrimary w t (if w.tw.partner.isSome then last else w.tw.relLast) ∧ t.tw.lastCode = Config.FAILOVER_TAKEN) ∧
      (waits → (w.failoverArmed = false ∨ w.inStep = false) → refuses l) ∧
      (¬waits → exec l s = .next w ∧ (w.tw.state ≠ .paired → exec y s = .next w))))

/-- R451, R452, R454 to R456, R458 to R460. The cycles of the synchronisers and of the output stage are timing (log entry 6). -/
def Obligations.ChimeSourcesAndOutputs : Prop :=
  (∀ (s : State) (who : Who) (view : ChView) (word : BitVec 4) (data : W64), ViewMay s who view →
    let at' (n : Nat) : Bool := data.getLsbD (n - 64 * word.toNat)
    let within (n : Nat) : Prop := 64 * word.toNat ≤ n ∧ n < 64 * word.toNat + 64 ∧ Shows s view n
    Answers (exec (.pendingWrite who view word data) s) (fun t =>
      (∀ n, ¬within n → t.src n = s.src n) ∧
      (∀ n, within n →
        ((s.src n).st = .idle → at' n = true → t.src n = { s.src n with st := .pending, code := Config.NONE }) ∧
        ((s.src n).st = .pending → at' n = false → t.src n = { s.src n with st := .active, retrig := false }) ∧
        ((s.src n).st = .active → at' n = true → t.src n = { s.src n with retrig := true }) ∧
        ((s.src n).st = .idle → at' n = false → t.src n = s.src n) ∧
        ((s.src n).st = .pending → at' n = true → t.src n = s.src n) ∧
        ((s.src n).st = .active → at' n = false → t.src n = s.src n)) ∧
      OutputsFollow s t ∧ t.chime.strayCount = s.chime.strayCount ∧ Only [.chime] s t) ∧
    Answers (exec (.maskWrite who view word data) s) (fun t =>
      (∀ n, ¬within n → t.src n = s.src n) ∧ (∀ n, within n → t.src n = { s.src n with masked := at' n }) ∧
      OutputsFollow s t ∧ t.chime.strayCount = s.chime.strayCount ∧ Only [.chime] s t)) ∧
  (∀ (s : State) (who : Who) (view : ChView) (data : W32), ViewMay s who view →
    let n := (data.setWidth 10).toNat
    let x := s.src n
    ((x.st ≠ .active ∨ ¬Shows s view n) →
      exec (.complete who view data) s = .next { s with chime := { s.chime with
        strayCount := satInc s.chime.strayCount, strayLast := BitVec.ofNat 10 n } }) ∧
    (x.st = .active → Shows s view n → Answers (exec (.complete who view data) s) fun t =>
      (∀ m, m ≠ n → t.src m = s.src m) ∧ OutputsFollow s t ∧ t.chime.strayCount = s.chime.strayCount ∧ Only [.chime] s t ∧
      ((x.retrig = true ∨ (x.sense = 0#2 ∧ chSignal s n = true)) → t.src n = { x with st := .pending, retrig := false }) ∧
      (x.retrig = false → (x.sense ≠ 0#2 ∨ chSignal s n = false) → t.src n = { x with st := .idle, retrig := false }))) ∧
  (∀ (s : State) (who : Who) (source : BitVec 10) (data : W32), ManagerMay s who →
    let n := source.toNat
    let x : Src := { s.src n with
      urgent := data.getLsbD 8, target := data.extractLsb' 4 3, sense := data.setWidth 2, prev := chSignal s n }
    Answers (exec (.srcCfgWrite who source data) s) fun t =>
      (∀ m, m ≠ n → t.src m = s.src m) ∧ t.chime.strayCount = s.chime.strayCount ∧ Only [.chime, .obs] s t ∧
      (∀ k < 8, (t.target k).modUs = (s.target k).modUs ∧ (t.target k).idleIn = (s.target k).idleIn ∧
        ((s.target k).wdogDrive = false → t.liveSrcs k = [] → (t.target k).out = false)) ∧
      (s.chRuns = true → x.sense = 0#2 → x.st = .idle → chSignal s n = true →
        t.src n = { x with st := .pending, count := x.count + 1#16, code := (chLevelInfo s n).1, data := (chLevelInfo s n).2 }) ∧
      ((x.sense ≠ 0#2 ∨ x.st ≠ .idle ∨ chSignal s n = false) → t.src n = x ∧ t.obs = s.obs ∧ OutputsFollow s t)) ∧
  (∀ (s : State) (target : BitVec 3) (level : Bool),
    let k := target.toNat
    let x := s.target k
    ((s.chRuns = false ∨ x.out = true ∨ s.liveSrcs k = []) → exec (.moderationTimeout target) s = .next s) ∧
    (s.chRuns = true → x.out = false → s.liveSrcs k ≠ [] → Answers (exec (.moderationTimeout target) s) fun t =>
      OutputFollows { x with timerNs := max x.timerNs (1000 * x.modUs.toNat) } t k ∧
      (x.wdogDrive = false → s.chime.heldLow = false → (t.target k).out = true) ∧
      (∀ j < 8, j ≠ k → OutputFollows (s.target j) t j) ∧ t.chime.srcs = s.chime.srcs ∧ Only [.chime] s t) ∧
    (s.chRuns = false → exec (.chIdle target level) s = .next (s.setTarget k { x with idleIn := level })) ∧
    (s.chRuns = true → Answers (exec (.chIdle target level) s) fun t =>
      OutputFollows { x with idleIn := level } t k ∧ (∀ j < 8, j ≠ k → OutputFollows (s.target j) t j) ∧
      t.chime.srcs = s.chime.srcs ∧ Only [.chime] s t))

/-- R42, R43, R408, R409, R465 to R467, R473 to R480, R484, R485. What the spec leaves open of DELTA and of the scan chains is
free (log entries 20 and 50). -/
def Obligations.ObservationAndTap : Prop :=
  (∀ (s : State) (who : Who) (cores : BitVec 16), ManagerMay s who →
    Answers (exec (.pmReset who) s) (fun t => (∀ n, tget 0 t.obs.pm.slots n = 0) ∧ t.obs.pm.ovf = 0#56 ∧
      t.obs.pm.since = s.esc.time ∧ Only [.boot, .kp, .chime, .obs, .obsCfg] s t) ∧
    (∀ r ∈ [((.traceOff who : Instr), 0#2), (.traceEvents who, 1#2)],
      (s.obs.activeMode = 2#2 → s.run.isSome = true → exec r.1 s = .next { s with
        obs := { s.obs with traceMode := r.2 }, au := { s.au with traceReq := .turnOff } }) ∧
      ((s.obs.activeMode ≠ 2#2 ∨ s.run = none) → exec r.1 s = .next { s with
        obs := { s.obs with traceMode := r.2, activeMode := r.2 }, au := { s.au with traceReq := .none } })) ∧
    (let o := { s.obs with traceMode := 2#2, traceCores := cores }
     let x : Instr := .traceFull who cores
     let asks (r : TraceReq) : State := { s with obs := o, au := { s.au with traceReq := r } }
     let busy : Prop := s.au.state = .prove ∨ s.au.state = .armed
     (s.obs.activeMode = 2#2 → exec x s = .next (asks .none)) ∧
     (s.obs.activeMode ≠ 2#2 → busy → exec x s = .next (asks .held)) ∧
     (s.obs.activeMode ≠ 2#2 → ¬busy → s.run = none → exec x s = .next { asks .none with
       obs := { o with activeMode := 2#2, activeCores := cores } }) ∧
     (∀ r, s.obs.activeMode ≠ 2#2 → ¬busy → s.run = some r →
       let proofs := bothProofs s r.img true false r.place.partCores r.place.stationCores
       (∀ p, proofs = .ok p → exec x s = .next (asks .granted)) ∧
       (∀ e, proofs = .error e → Answers (exec x s) fun t =>
         t.au.refused = true ∧ t.au.lastCode = Config.TRACE_INFLATED ∧ t.au.refusal.code = Config.TRACE_INFLATED ∧
         t.au.refusal.pass = false ∧ t.au.refusal.station = BitVec.ofNat 16 e.station ∧
         t.au.deficit = BitVec.ofNat 48 e.deficit ∧ t.au.sigDetail = s.au.sigDetail ∧ t.au.traceReq = .none ∧
         t.obs.activeMode = s.obs.activeMode ∧ Only [.boot, .au, .kp, .chime, .obs, .obsCfg, .auIdle] s t))) ∧
    (s.obs.snapBusy = true → exec (.take who) s = .next s) ∧
    (s.obs.snapBusy = false → s.obs.snapLen.toNat < 656000 →
      exec (.take who) s = .next { s with obs := { s.obs with snapRefused := true } }) ∧
    (s.obs.snapBusy = false → 656000 ≤ s.obs.snapLen.toNat →
      exec (.take who) s = .next { s with obs := { s.obs with snapBusy := true } }) ∧
    exec (.haltAll who) s = .next { s with obs := { s.obs with halted := true }, tw := { s.tw with gateClosed := true } }) ∧
  (∀ s : State,
    (s.portAlive = false → exec .traceFrameSend s = .next s) ∧
    (s.portAlive = true → Answers (exec .traceFrameSend s) fun t =>
      let out := t.obs.traceOut
      let delta := leNat ((out.drop 2).take 2)
      let lasts (time : W64) : Prop :=
        t.obs.lastFrameTime = time ∧ (s.obs.lastFrameTime.toNat ≤ time.toNat → delta = min 65535 (time.toNat - s.obs.lastFrameTime.toNat))
      out.length = 32 ∧ out.drop 30 = leBytes 2 (crc16 (out.take 30)) ∧ t.obs.frameSeq = s.obs.frameSeq + 1#32 ∧
      Only [.obs, .freeCount, .obsCfg] s t ∧
      ((s.traceNext = none ∨ 1023 ≤ s.obs.sinceSync) → out.take 2 = [0x5A#8, 16#8] ∧
        (out.drop 4).take 26 = leBytes 4 0xA5C33C5A ++ leBytes 8 s.esc.time.toNat ++ leBytes 6 s.esc.beatCount.toNat ++
          leBytes 4 s.obs.frameSeq.toNat ++ leBytes 4 s.obs.droppedSinceSync.toNat ∧
        lasts s.esc.time ∧ t.obs.sinceSync = 0 ∧ t.obs.droppedSinceSync = 0#32 ∧ ∀ k ≤ 16, t.traceFifo k = s.traceFifo k) ∧
      (∀ k f rest, s.traceNext = some k → s.obs.sinceSync < 1023 → s.traceFifo k = f :: rest →
        out.take 2 = [f.type, f.source] ∧ (∀ i < 26, out.getD (4 + i) 0#8 = f.payload.getD i 0#8) ∧ lasts f.time ∧
        t.obs.sinceSync = s.obs.sinceSync + 1 ∧ t.traceFifo k = rest ∧ t.obs.traceTurn = k ∧
        ∀ j ≤ 16, j ≠ k → t.traceFifo j = s.traceFifo j)) ∧
    ((¬Running' s ∨ s.obs.snapBusy = false) → exec .snapshotDone s = .next s) ∧
    (Running' s → s.obs.snapBusy = true →
      (2 ^ 48 < s.obs.snapAddr.toNat + s.obs.snapLen.toNat → exec .snapshotDone s = .fault .addressSpace) ∧
      (s.obs.snapAddr.toNat + s.obs.snapLen.toNat ≤ 2 ^ 48 → Answers (exec .snapshotDone s) fun t =>
        let lanes := min s.laneRoom s.allLanes.length
        Stores s t s.obs.snapAddr.toNat s.snapshot ∧ s.snapshot.length = 656000 + 16 * lanes ∧
        s.snapshot.take 4 = leBytes 4 0x50414E53 ∧ (s.snapshot.drop 8).take 8 = leBytes 8 s.esc.time.toNat ∧
        (s.snapshot.drop 0x18).take 4 = leBytes 4 lanes ∧
        (∀ c < 16, (s.snapshot.drop (0x80 + 32 * c)).take 32 = s.snapCore c) ∧
        t.obs.snapDone = true ∧ t.obs.snapBusy = false ∧ t.obs.snapTrunc = decide (s.laneRoom < s.allLanes.length) ∧
        t.obs.snapBytes = BitVec.ofNat 32 (656000 + 16 * lanes) ∧ Only [.writes, .mem, .poison, .au, .pool, .gens, .insts, .chime, .obs, .obsCfg] s t))) ∧
  (∀ (s : State) (tdi update : Bool) (bytes : List Byte),
    (s.tapAlive = false → ∀ x ∈ [(.bypass tdi : Instr), .idcode, .status, .challenge, .response bytes, .tapUnlock update ()],
      exec x s = .next s) ∧
    (s.tapAlive = true →
      let takes (ir : BitVec 8) (dr : List W64) : State := { s with tap := { s.tap with ir := ir, dr := dr } }
      exec (.bypass tdi) s = .next { s with tap := { s.tap with ir := 0xFF#8, bypass := tdi } } ∧
      exec .idcode s = .next (takes 0x01#8 [BitVec.ofNat 64 (2 ^ 28 + 0x4E47 * 2 ^ 12 + 2 * s.fuse.manufacturer.toNat + 1)]) ∧
      exec .status s = .next (takes 0x10#8 [BitVec.ofNat 64 (2 ^ 31 * s.sec.dbgBusy.toNat + 2 ^ 30 * s.sec.unlocked.toNat +
        2 ^ 16 * s.obs.halted.toNat + s.sec.dbgCode.toNat)]) ∧
      Answers (exec .challenge s) (fun t => t.tap.ir = 0x11#8 ∧ t.tap.dr.length = 6 ∧
        (∀ i < 6, t.tap.dr.getD i 0#64 = s.sec.challenge.extractLsb' (64 * i) 64) ∧ Only [.tap] s t) ∧
      Answers (exec (.response bytes) s) (fun t => t.tap.ir = 0x12#8 ∧ t.sec.response.length = 5696 ∧
        (∀ i < 5696, t.sec.response.getD i 0#8 = bytes.getD i 0#8) ∧ t.sec.challenge = s.sec.challenge ∧
        t.sec.unlocked = s.sec.unlocked ∧ Only [.tap, .sec] s t) ∧
      ((update = false ∨ s.portAlive = false ∨ s.sec.dbgBusy = true) → exec (.tapUnlock update ()) s = .next (takes 0x13#8 [])) ∧
      (update = true → s.portAlive = true → s.sec.dbgBusy = false → Answers (exec (.tapUnlock true ()) s) fun t =>
        let good := responseOk s s.sec.challenge (padTo 5696 s.sec.response)
        t.tap.ir = 0x13#8 ∧ t.sec.challenge = (s.drawDigest).1 ∧ t.sec.unlocked = s.sec.unlocked ∧ Only [.au, .run, .insts, .jobs, .cores, .sec, .chime, .obs, .tap, .freeCount, .obsCfg, .auIdle] s t ∧
        (s.sec.locked = true → t.sec.dbgCode = Config.ACCESS_DENIED ∧ t.sec.dbgBusy = false ∧ Only [.tap, .sec, .freeCount] s t) ∧
        (s.sec.locked = false → good = false → t.sec.dbgCode = Config.DEBUG_ATTACK ∧ t.sec.dbgBusy = false ∧ Alarmed s t 2) ∧
        (s.sec.locked = false → good = true → t.sec.dbgCode = Config.NONE ∧ t.sec.dbgBusy = true ∧ Erased s t false)))) ∧
  (∀ (s : State) (update : Bool) (chain : BitVec 16) (value : W32),
    let rows : List Instr := [.tapHaltAll update, .scanSel chain, .scanData, .scratchAddr value, .scratchData]
    ((s.tapAlive = false ∨ (s.portAlive = false ∧ s.sec.unlocked = true)) → ∀ x ∈ rows, exec x s = .next s) ∧
    (s.tapAlive = true → s.sec.unlocked = false → ∀ x ∈ rows, Answers (exec x s) fun t =>
      t.tap = { s.tap with ir := 0xFF#8, bypass := false } ∧ t.obs.halted = s.obs.halted ∧ (s.portAlive = true → Alarmed s t 2) ∧
        t.sec.pending = s.sec.pending ||| 4#5 ∧ tget 0#32 t.sec.counts 2 = satInc (tget 0#32 s.sec.counts 2) ∧
        (s.portAlive = false → Only [.sec, .tap] s t) ∧ Only [.au, .run, .insts, .jobs, .cores, .sec, .chime, .obs, .tap, .freeCount, .auIdle] s t) ∧
    (s.tapAlive = true → s.portAlive = true → s.sec.unlocked = true →
      let takes (ir : BitVec 8) (dr : List W64) : State := { s with tap := { s.tap with ir := ir, dr := dr } }
      let sel := s.tap.chain.toNat
      let c := s.tap.scratchCore.toNat
      let line := s.tap.scratchLine.toNat
      exec (.tapHaltAll false) s = .next (takes 0x20#8 []) ∧
      (s.obs.halted = true → exec (.tapHaltAll true) s = .next (takes 0x20#8 [])) ∧
      (s.obs.halted = false → exec (.tapHaltAll true) s = .next { takes 0x20#8 [] with
        obs := { s.obs with halted := true }, tw := { s.tw with gateClosed := true } }) ∧
      (∃ w, exec (.scanSel chain) s = .next { s with
        tap := { s.tap with ir := 0x21#8, dr := [w], chain := chain }, freeCount := s.freeCount + 1 }) ∧
      Answers (exec .scanData s) (fun t => t.tap.ir = 0x22#8 ∧ Only [.tap, .freeCount] s t ∧
        (s.obs.halted = false → t.tap.dr = []) ∧
        (∀ k < 16, (sel = 2 + k ∨ sel = 18 + k) → (s.core k).lastSealed = true → t.tap.dr = []) ∧
        (∀ k < 16, s.obs.halted = true → (s.core k).lastSealed = false →
          (sel = 2 + k → t.tap.dr.length = 1059 ∧ t.tap.dr.take 1 = [BitVec.ofNat 64 (s.core k).pc] ∧
            (∀ n < 31, t.tap.dr.getD (1 + n) 0#64 = (s.core k).reg (n + 1)) ∧ t.tap.dr.getD 32 0#64 = (s.core k).flags ∧
            t.tap.dr.getD 33 0#64 = (s.core k).boundUsed.setWidth 64 ∧
            (∀ n < 4, ∀ i < 256, t.tap.dr.getD (34 + 256 * n + i) 0#64 = wordAt (tget [] (s.core k).ve.chains n) i)) ∧
          (sel = 18 + k → t.tap.dr.length = 262144 ∧
            ∀ n < 262144, t.tap.dr.getD n 0#64 = (tget 0#32 (s.core k).me.acc n).setWidth 64))) ∧
      (let named : Tap := { s.tap with scratchCore := value.extractLsb' 28 4, scratchLine := value.extractLsb' 7 18 }
       exec (.scratchAddr value) s = .next { s with tap := { named with ir := 0x23#8, dr := [] } }) ∧
      Answers (exec .scratchData s) (fun t => t.tap.ir = 0x24#8 ∧ t.tap.scratchLine = s.tap.scratchLine + 1#18 ∧
        t.tap.scratchCore = s.tap.scratchCore ∧ t.tap.dr.length = 16 ∧ Only [.tap, .freeCount] s t ∧
        ((s.obs.halted = false ∨ s.present c = false ∨ s.lineSealed c line = true) → ∀ i < 16, t.tap.dr.getD i 0#64 = 0#64) ∧
        (s.obs.halted = true → s.present c = true → s.lineSealed c line = false →
          ∀ i < 16, s.inRecord c (128 * line + 8 * i) = false → (t.tap.dr.getD i 0#64).toNat = leNat ((s.core c).scratchBytes (128 * line + 8 * i) 8)))))

/-- R481. -/
def Obligations.HoldAndReleaseWhileUnlocked : Prop :=
  (∀ (s : State) (who : Who) (data : W64) (cores : BitVec 16) (k : BitVec 2), ManagerMay s who →
    let hold : BitVec 16 := data.extractLsb' 16 16
    let write : Instr := .registerWrite who 0x701000#26 false data
    let point : Instr := .registerWrite who (0x701010#26 + 8#26 * k.setWidth 26) true data
    let reported (t : State) : Prop := Reports s t ∧ t.sec = s.sec ∧ t.obs.hold = s.obs.hold ∧ t.obs.bps = s.obs.bps ∧
      (s.chRuns = true → (s.src 107).sense = 1#2 → (s.src 107).prev = false →
        (t.src 107).count = (s.src 107).count + 1#16 ∧ (t.src 107).code = Config.ACCESS_DENIED ∧ (t.src 107).st ≠ .idle)
    (s.sec.unlocked = true →
      (data.getLsbD 0 = false → exec write s = .next { s with obs := { s.obs with hold := hold } }) ∧
      ((∀ c, cores.getLsbD c = true → (s.core c).st ≠ .held) → exec (.dbgRelease who cores) s = .next s) ∧
      ((∀ m j d, s.job m = some j → d ∈ j.cores → (s.core d).job = some m) →
        Answers (exec (.dbgRelease who cores) s) fun t => Only [.run, .jobs, .cores, .chime, .obs, .freeCount] s t ∧
          ∀ c n j, cores.getLsbD c = true → (s.core c).st = .held → (s.core c).job = some n → s.job n = some j → c ∈ j.cores →
            j.kill = none → (t.core c).st = .killing ∧ ∃ i, t.job n = some i ∧ i.kill.isSome = true ∧ i.cores = j.cores)) ∧
    (s.sec.unlocked = false →
      (data.getLsbD 0 = false → hold ≠ s.obs.hold → Answers (exec write s) reported) ∧
      Answers (exec (.dbgRelease who cores) s) reported ∧ Answers (exec point s) reported)) ∧
  (∀ (s : State) (core : BitVec 4) (code : BitVec 16) (unit : Option Nat) (addr : Nat) (detail : W64) (n : Nat) (j : Job),
    let c := core.toNat
    (s.core c).job = some n → s.job n = some j → j.kill = none → c ∈ j.cores →
    let t := haltCore s c code unit addr detail
    (s.obs.hold.getLsbD c = true → (t.core c).st = .held ∧ (t.core c).scratch = (s.core c).scratch ∧
      ∃ i, t.job n = some i ∧ i.kill = none ∧ i.cores = j.cores) ∧
    (s.obs.hold.getLsbD c = false → (t.core c).st = .killing ∧ ∃ i, t.job n = some i ∧ i.kill.isSome = true))

/-- R134. -/
def Obligations.ScalarRegistersWrapAndNeverTrap : Prop :=
  (∀ (s : State) (core : BitVec 4), (s.core core.toNat).reg 0 = 0#64) ∧
  ∀ (s : State) (core : BitVec 4) (n : Nat) (j : Job) (i : Ins), MayIssue s core.toNat n j i → controlLegal i = true →
    let c := core.toNat
    let k := s.core c
    let a := (k.reg i.a).toInt
    let b := (operandB s c i).toInt
    let rows : List (Nat × Instr) := [(0x04, .add core), (0x05, .sub core), (0x06, .mul core), (0x07, .andOp core),
      (0x08, .orOp core), (0x09, .xorOp core), (0x0A, .shl core), (0x0B, .shr core), (0x0C, .sar core), (0x0D, .minOp core),
      (0x0E, .maxOp core), (0x0F, .slt core), (0x10, .sltu core), (0x11, .lih core), (0x20, .mfs core)]
    i.d < 32 ∧ i.a < 32 ∧ i.b < 32 ∧
    ∀ r ∈ rows, i.op = r.1 → Answers (exec r.2 s) fun t =>
      (i.signal / 8192 ≤ 2 → j.deferred = false →
        (t.core c).st = .running ∧ (t.core c).job = some n ∧ (t.core c).hValid = k.hValid) ∧
      (t.core c).reg 0 = 0#64 ∧
      (∀ m, m ≠ i.d → (t.core c).reg m = k.reg m) ∧ (i.d = 0 → ∀ m, (t.core c).reg m = k.reg m) ∧
      (i.d ≠ 0 →
        (i.op = 0x04 → ((t.core c).reg i.d).toInt = (a + b).bmod (2 ^ 64)) ∧
        (i.op = 0x05 → ((t.core c).reg i.d).toInt = (a - b).bmod (2 ^ 64)) ∧
        (i.op = 0x06 → ((t.core c).reg i.d).toInt = (a * b).bmod (2 ^ 64)))

/-- The frame of each of the 243 rows. The parts are the words of `Field`. -/
def Obligations.CommandsChangeOnlyWhatTheyMay : Prop :=
  ∀ (i : Instr) (s t : State), exec i s = .next t → Only (mayChange i) s t ∧ t.pending = s.pending ∧
    (Memory.wf s.mem = true → Memory.wf t.mem = true)

/-- Memory in canonical form and commands numbered apart, kept by all 243 commands and by the idle cycle. -/
def Obligations.StepsKeepMemoryAndNumbers : Prop :=
  ∀ s t : State, Memory.wf s.mem = true → Numbered s → step s = .next t → Memory.wf t.mem = true ∧ Numbered t

/-- R17, R54, R174, R179, R241, R272, R295, R326, R350, R449, R450, R462, R515. -/
def Obligations.ResetHasTheInvariant : Prop :=
  let s := State.reset
  Memory.wf s.mem = true ∧ Numbered s ∧ s.pending = [] ∧ s.esc.running = false ∧ s.esc.beatCount = 0#48 ∧ s.esc.time = 0#64 ∧
    s.boot.state = .romInit ∧ s.run = none ∧ s.au.state = .idle ∧ s.kp.loaderMode = 1#2 ∧ s.kp.remoteLimitUs = 1000#20 ∧
    (s.inst 0).state = .enabled ∧ (∀ n, n ≠ 0 → (s.inst n).state = .free) ∧
    (∀ c, (s.core c).st = .idle ∧ (s.core c).flags = 0#64 ∧ (s.core c).me.acc = [] ∧ ∀ r, (s.core c).reg r = 0#64) ∧
    (∀ n, (s.queue n).state = .free ∧ (s.ctx n).state = .free ∧ (s.obj n).state = .free ∧ (s.counter n).state = .free ∧
      (s.flight n).state = .free) ∧
    s.tw.state = .unpaired ∧ (∀ l, (s.link l).state = .disabled) ∧
    (∀ n, (s.src n).st = .idle ∧ (s.src n).masked = true ∧ (s.src n).target = 0#3 ∧
      ((s.src n).sense = 1#2 ↔ (n = 99 ∨ n = 104 ∨ n = 105 ∨ n = 107 ∨ 112 ≤ n)) ∧ (s.src n).sense.toNat ≤ 1) ∧
    (∀ k, (s.target k).out = false) ∧ s.sec.locked = false ∧ s.sec.unlocked = false ∧ s.obs.activeMode = 0#2 ∧
    s.obs.halted = false
end

