-- ==== Sys2Proof/Laws/Table.lean ====
section
/-! SUPPORT. Laws of the sorted tables and of device memory: reads after writes, and the canonical form (log entry 2). -/

namespace Sys2Proof.Machine

/-! ## Tables -/

theorem tget_tput_self {α : Type} (d : α) (t : List (Nat × α)) (k : Nat) (v : α) : tget d (tput t k v) k = v := by
  induction t with
  | nil => simp [tput, tget]
  | cons x r ih =>
    obtain ⟨i, w⟩ := x
    unfold tput
    split
    · simp [tget]
    · split
      · simp [tget]
      · rename_i h1 h2
        simp [tget, ih, Ne.symm h2]

theorem tget_tput_ne {α : Type} (d : α) (t : List (Nat × α)) (k : Nat) (v : α) (m : Nat) (h : m ≠ k) :
    tget d (tput t k v) m = tget d t m := by
  induction t with
  | nil => simp [tput, tget, Ne.symm h]
  | cons x r ih =>
    obtain ⟨i, w⟩ := x
    unfold tput
    split
    · simp [tget, Ne.symm h]
    · split
      · rename_i h2
        subst h2
        simp [tget, Ne.symm h]
      · simp [tget, ih]

theorem tfind_tput_self {α : Type} (t : List (Nat × α)) (k : Nat) (v : α) : tfind (tput t k v) k = some v := by
  induction t with
  | nil => simp [tput, tfind]
  | cons x r ih =>
    obtain ⟨i, w⟩ := x
    unfold tput
    split
    · simp [tfind]
    · split
      · simp [tfind]
      · rename_i h1 h2
        simp [tfind, ih, Ne.symm h2]

theorem tfind_tput_ne {α : Type} (t : List (Nat × α)) (k : Nat) (v : α) (m : Nat) (h : m ≠ k) :
    tfind (tput t k v) m = tfind t m := by
  induction t with
  | nil => simp [tput, tfind, Ne.symm h]
  | cons x r ih =>
    obtain ⟨i, w⟩ := x
    unfold tput
    split
    · simp [tfind, Ne.symm h]
    · split
      · rename_i h2
        subst h2
        simp [tfind, Ne.symm h]
      · simp [tfind, ih]

/-! ## Device memory in its canonical form -/

/-- Every listed address is above a bound, addresses rise and no zero is listed. -/
def memAbove (b : Nat) : List Host.Cell → Bool
  | [] => true
  | (a, v) :: r => decide (b ≤ a) && (v != 0#8) && memAbove (a + 1) r

theorem wf_iff_above (m : List Host.Cell) : Memory.wf m = memAbove 0 m := by
  suffices h : ∀ (a : Nat) (v : Byte) (r : List Host.Cell), Memory.wf ((a, v) :: r) = ((v != 0#8) && memAbove (a + 1) r) by
    cases m with
    | nil => rfl
    | cons x r => obtain ⟨a, v⟩ := x; simp [h, memAbove]
  intro a v r
  induction r generalizing a v with
  | nil => simp [Memory.wf, memAbove]
  | cons x r ih =>
    obtain ⟨a', v'⟩ := x
    rw [Memory.wf, ih, memAbove]
    have : decide (a < a') = decide (a + 1 ≤ a') := rfl
    rw [this]
    cases (v != 0#8) <;> cases decide (a + 1 ≤ a') <;> simp

theorem memAbove_mono {b c : Nat} (h : b ≤ c) (m : List Host.Cell) (hm : memAbove c m = true) : memAbove b m = true := by
  cases m with
  | nil => rfl
  | cons x r =>
    obtain ⟨a, v⟩ := x
    simp only [memAbove, Bool.and_eq_true, decide_eq_true_eq] at *
    exact ⟨⟨le_trans h hm.1.1, hm.1.2⟩, hm.2⟩

theorem memAbove_tput (b : Nat) (m : List Host.Cell) (a : Nat) (v : Byte) (hb : b ≤ a) (hv : v ≠ 0#8)
    (hm : memAbove b m = true) : memAbove b (tput m a v) = true := by
  induction m generalizing b with
  | nil => simp [tput, memAbove, hb, hv]
  | cons x r ih =>
    obtain ⟨i, w⟩ := x
    simp only [memAbove, Bool.and_eq_true, decide_eq_true_eq, bne_iff_ne, ne_eq] at hm
    unfold tput
    split
    · rename_i h
      simp only [memAbove, Bool.and_eq_true, decide_eq_true_eq, bne_iff_ne, ne_eq]
      exact ⟨⟨hb, hv⟩, ⟨h, hm.1.2⟩, hm.2⟩
    · split
      · rename_i h
        subst h
        simp only [memAbove, Bool.and_eq_true, decide_eq_true_eq, bne_iff_ne, ne_eq]
        exact ⟨⟨hb, hv⟩, hm.2⟩
      · rename_i h1 h2
        simp only [memAbove, Bool.and_eq_true, decide_eq_true_eq, bne_iff_ne, ne_eq]
        exact ⟨hm.1, ih (i + 1) (by omega) hm.2⟩

theorem memAbove_tdel (b : Nat) (m : List Host.Cell) (a : Nat) (hm : memAbove b m = true) :
    memAbove b (tdel m a) = true := by
  induction m generalizing b with
  | nil => rfl
  | cons x r ih =>
    obtain ⟨i, w⟩ := x
    simp only [memAbove, Bool.and_eq_true, decide_eq_true_eq] at hm
    unfold tdel
    split
    · exact ih b (memAbove_mono (by omega) r hm.2)
    · simp only [memAbove, Bool.and_eq_true, decide_eq_true_eq]
      exact ⟨hm.1, ih _ hm.2⟩

/-- Writing a byte keeps the canonical form. -/
theorem memPut_wf (m : List Host.Cell) (a : Nat) (v : Byte) (h : Memory.wf m = true) : Memory.wf (memPut m a v) = true := by
  rw [wf_iff_above] at *
  unfold memPut tset0
  split
  · exact memAbove_tdel 0 m a h
  · rename_i hv
    exact memAbove_tput 0 m a v (Nat.zero_le _) hv h

/-- Writing bytes keeps the canonical form. -/
theorem memPutAll_wf (bs : List Byte) (m : List Host.Cell) (a : Nat) (h : Memory.wf m = true) :
    Memory.wf (memPutAll m a bs) = true := by
  induction bs generalizing m a with
  | nil => exact h
  | cons b r ih => exact ih _ _ (memPut_wf m a b h)

/-! ## Reads after writes -/

theorem tget_tdel_ne {α : Type} (d : α) (t : List (Nat × α)) (k m : Nat) (h : m ≠ k) : tget d (tdel t k) m = tget d t m := by
  induction t with
  | nil => rfl
  | cons x r ih =>
    obtain ⟨i, w⟩ := x
    unfold tdel
    split
    · rename_i h2
      subst h2
      simp [tget, Ne.symm h, ih]
    · simp [tget, ih]

theorem tget_tdel_self {α : Type} (d : α) (t : List (Nat × α)) (k : Nat) : tget d (tdel t k) k = d := by
  induction t with
  | nil => rfl
  | cons x r ih =>
    obtain ⟨i, w⟩ := x
    unfold tdel
    split
    · exact ih
    · rename_i h
      simp [tget, h, ih]

theorem tfind_tdel_self {α : Type} (t : List (Nat × α)) (k : Nat) : tfind (tdel t k) k = none := by
  induction t with
  | nil => rfl
  | cons x r ih =>
    obtain ⟨i, w⟩ := x
    unfold tdel
    split
    · exact ih
    · rename_i h
      simp [tfind, h, ih]

theorem tfind_tdel_ne {α : Type} (t : List (Nat × α)) (k m : Nat) (h : m ≠ k) : tfind (tdel t k) m = tfind t m := by
  induction t with
  | nil => rfl
  | cons x r ih =>
    obtain ⟨i, w⟩ := x
    unfold tdel
    split
    · rename_i h2
      subst h2
      simp [tfind, Ne.symm h, ih]
    · simp [tfind, ih]

/-- Reading a table that lists no zeros after a write. -/
theorem tget_tset0 {w : Nat} (t : List (Nat × BitVec w)) (k : Nat) (v : BitVec w) (m : Nat) :
    tget 0#w (tset0 t k v) m = if m = k then v else tget 0#w t m := by
  unfold tset0
  by_cases e : m = k
  · subst e
    by_cases hv : v = 0#w
    · simp [hv, tget_tdel_self]
    · simp [hv, tget_tput_self]
  · by_cases hv : v = 0#w
    · simp [hv, e, tget_tdel_ne]
    · simp [hv, e, tget_tput_ne]

/-- A byte reads as it was written. -/
theorem memGet_memPut_self (m : List Host.Cell) (a : Nat) (v : Byte) : memGet (memPut m a v) a = v := by
  unfold memGet memPut
  rw [tget_tset0, if_pos rfl]

/-- Writing a byte leaves every other byte alone. -/
theorem memGet_memPut_ne (m : List Host.Cell) (a : Nat) (v : Byte) (x : Nat) (h : x ≠ a) :
    memGet (memPut m a v) x = memGet m x := by
  unfold memGet memPut
  rw [tget_tset0, if_neg h]

/-- Writing bytes leaves every byte outside their range alone. -/
theorem memGet_memPutAll_outside (bs : List Byte) (m : List Host.Cell) (a x : Nat) (h : x < a ∨ a + bs.length ≤ x) :
    memGet (memPutAll m a bs) x = memGet m x := by
  induction bs generalizing m a with
  | nil => rfl
  | cons b r ih =>
    simp only [List.length_cons] at h
    rw [memPutAll, ih _ _ (by omega), memGet_memPut_ne _ _ _ _ (by omega)]

/-- Bytes read as they were written. -/
theorem memGet_memPutAll_inside (bs : List Byte) (m : List Host.Cell) (a i : Nat) (h : i < bs.length) : memGet (memPutAll m a bs) (a + i) = bs.getD i 0#8 := by
  induction bs generalizing m a i with
  | nil => simp at h
  | cons b r ih =>
    rw [memPutAll]
    cases i with
    | zero =>
      rw [memGet_memPutAll_outside _ _ _ _ (by omega)]
      simpa using memGet_memPut_self m a b
    | succ k =>
      have : a + (k + 1) = a + 1 + k := by omega
      rw [this, ih _ _ _ (by simpa using h)]
      simp

end Sys2Proof.Machine
end

