-- ==== Sys2Proof/Laws/State.lean ====
section
/-! SUPPORT. What each update of the state leaves alone, one lemma per field and per accessor, and what it changes. -/

namespace Sys2Proof.Machine

/-! ### setCore -/

@[simp] theorem State.setCore_pending (s : State) (n : Nat) (k : Core) : (s.setCore n k).pending = s.pending := rfl
@[simp] theorem State.setCore_fuse (s : State) (n : Nat) (k : Core) : (s.setCore n k).fuse = s.fuse := rfl
@[simp] theorem State.setCore_boot (s : State) (n : Nat) (k : Core) : (s.setCore n k).boot = s.boot := rfl
@[simp] theorem State.setCore_frozen (s : State) (n : Nat) (k : Core) : (s.setCore n k).frozen = s.frozen := rfl
@[simp] theorem State.setCore_ports (s : State) (n : Nat) (k : Core) : (s.setCore n k).ports = s.ports := rfl
@[simp] theorem State.setCore_writes (s : State) (n : Nat) (k : Core) : (s.setCore n k).writes = s.writes := rfl
@[simp] theorem State.setCore_mem (s : State) (n : Nat) (k : Core) : (s.setCore n k).mem = s.mem := rfl
@[simp] theorem State.setCore_poison (s : State) (n : Nat) (k : Core) : (s.setCore n k).poison = s.poison := rfl
@[simp] theorem State.setCore_esc (s : State) (n : Nat) (k : Core) : (s.setCore n k).esc = s.esc := rfl
@[simp] theorem State.setCore_au (s : State) (n : Nat) (k : Core) : (s.setCore n k).au = s.au := rfl
@[simp] theorem State.setCore_run (s : State) (n : Nat) (k : Core) : (s.setCore n k).run = s.run := rfl
@[simp] theorem State.setCore_basin (s : State) (n : Nat) (k : Core) : (s.setCore n k).basin = s.basin := rfl
@[simp] theorem State.setCore_pool (s : State) (n : Nat) (k : Core) : (s.setCore n k).pool = s.pool := rfl
@[simp] theorem State.setCore_kp (s : State) (n : Nat) (k : Core) : (s.setCore n k).kp = s.kp := rfl
@[simp] theorem State.setCore_gens (s : State) (n : Nat) (k : Core) : (s.setCore n k).gens = s.gens := rfl
@[simp] theorem State.setCore_objs (s : State) (n : Nat) (k : Core) : (s.setCore n k).objs = s.objs := rfl
@[simp] theorem State.setCore_ctxs (s : State) (n : Nat) (k : Core) : (s.setCore n k).ctxs = s.ctxs := rfl
@[simp] theorem State.setCore_queues (s : State) (n : Nat) (k : Core) : (s.setCore n k).queues = s.queues := rfl
@[simp] theorem State.setCore_insts (s : State) (n : Nat) (k : Core) : (s.setCore n k).insts = s.insts := rfl
@[simp] theorem State.setCore_shares (s : State) (n : Nat) (k : Core) : (s.setCore n k).shares = s.shares := rfl
@[simp] theorem State.setCore_rg (s : State) (n : Nat) (k : Core) : (s.setCore n k).rg = s.rg := rfl
@[simp] theorem State.setCore_rgParts (s : State) (n : Nat) (k : Core) : (s.setCore n k).rgParts = s.rgParts := rfl
@[simp] theorem State.setCore_jobs (s : State) (n : Nat) (k : Core) : (s.setCore n k).jobs = s.jobs := rfl
@[simp] theorem State.setCore_nextJob (s : State) (n : Nat) (k : Core) : (s.setCore n k).nextJob = s.nextJob := rfl
@[simp] theorem State.setCore_counters (s : State) (n : Nat) (k : Core) : (s.setCore n k).counters = s.counters := rfl
@[simp] theorem State.setCore_updates (s : State) (n : Nat) (k : Core) : (s.setCore n k).updates = s.updates := rfl
@[simp] theorem State.setCore_flights (s : State) (n : Nat) (k : Core) : (s.setCore n k).flights = s.flights := rfl
@[simp] theorem State.setCore_sy (s : State) (n : Nat) (k : Core) : (s.setCore n k).sy = s.sy := rfl
@[simp] theorem State.setCore_sec (s : State) (n : Nat) (k : Core) : (s.setCore n k).sec = s.sec := rfl
@[simp] theorem State.setCore_tw (s : State) (n : Nat) (k : Core) : (s.setCore n k).tw = s.tw := rfl
@[simp] theorem State.setCore_links (s : State) (n : Nat) (k : Core) : (s.setCore n k).links = s.links := rfl
@[simp] theorem State.setCore_fr (s : State) (n : Nat) (k : Core) : (s.setCore n k).fr = s.fr := rfl
@[simp] theorem State.setCore_chime (s : State) (n : Nat) (k : Core) : (s.setCore n k).chime = s.chime := rfl
@[simp] theorem State.setCore_obs (s : State) (n : Nat) (k : Core) : (s.setCore n k).obs = s.obs := rfl
@[simp] theorem State.setCore_tap (s : State) (n : Nat) (k : Core) : (s.setCore n k).tap = s.tap := rfl
@[simp] theorem State.setCore_freeCount (s : State) (n : Nat) (k : Core) : (s.setCore n k).freeCount = s.freeCount := rfl
@[simp] theorem State.setCore_queue (s : State) (n : Nat) (k : Core) (m : Nat) : (s.setCore n k).queue m = s.queue m := rfl
@[simp] theorem State.setCore_ctx (s : State) (n : Nat) (k : Core) (m : Nat) : (s.setCore n k).ctx m = s.ctx m := rfl
@[simp] theorem State.setCore_inst (s : State) (n : Nat) (k : Core) (m : Nat) : (s.setCore n k).inst m = s.inst m := rfl
@[simp] theorem State.setCore_obj (s : State) (n : Nat) (k : Core) (m : Nat) : (s.setCore n k).obj m = s.obj m := rfl
@[simp] theorem State.setCore_gen (s : State) (n : Nat) (k : Core) (m : Nat) : (s.setCore n k).gen m = s.gen m := rfl
@[simp] theorem State.setCore_counter (s : State) (n : Nat) (k : Core) (m : Nat) : (s.setCore n k).counter m = s.counter m := rfl
@[simp] theorem State.setCore_flight (s : State) (n : Nat) (k : Core) (m : Nat) : (s.setCore n k).flight m = s.flight m := rfl
@[simp] theorem State.setCore_link (s : State) (n : Nat) (k : Core) (m : Nat) : (s.setCore n k).link m = s.link m := rfl
@[simp] theorem State.setCore_port (s : State) (n : Nat) (k : Core) (m : Nat) : (s.setCore n k).port m = s.port m := rfl
@[simp] theorem State.setCore_rgPart (s : State) (n : Nat) (k : Core) (m : Nat) : (s.setCore n k).rgPart m = s.rgPart m := rfl
@[simp] theorem State.setCore_job (s : State) (n : Nat) (k : Core) (m : Nat) : (s.setCore n k).job m = s.job m := rfl
@[simp] theorem State.setCore_page (s : State) (n : Nat) (k : Core) (m : Nat) : (s.setCore n k).page m = s.page m := rfl
@[simp] theorem State.setCore_core (s : State) (n : Nat) (k : Core) : (s.setCore n k).core n = k := tget_tput_self _ _ _ _
theorem State.setCore_core_ne (s : State) (n : Nat) (k : Core) (m : Nat) (h : m ≠ n) : (s.setCore n k).core m = s.core m := tget_tput_ne _ _ _ _ _ h

/-! ### setQueue -/

@[simp] theorem State.setQueue_pending (s : State) (n : Nat) (q : Queue) : (s.setQueue n q).pending = s.pending := rfl
@[simp] theorem State.setQueue_fuse (s : State) (n : Nat) (q : Queue) : (s.setQueue n q).fuse = s.fuse := rfl
@[simp] theorem State.setQueue_boot (s : State) (n : Nat) (q : Queue) : (s.setQueue n q).boot = s.boot := rfl
@[simp] theorem State.setQueue_frozen (s : State) (n : Nat) (q : Queue) : (s.setQueue n q).frozen = s.frozen := rfl
@[simp] theorem State.setQueue_ports (s : State) (n : Nat) (q : Queue) : (s.setQueue n q).ports = s.ports := rfl
@[simp] theorem State.setQueue_writes (s : State) (n : Nat) (q : Queue) : (s.setQueue n q).writes = s.writes := rfl
@[simp] theorem State.setQueue_mem (s : State) (n : Nat) (q : Queue) : (s.setQueue n q).mem = s.mem := rfl
@[simp] theorem State.setQueue_poison (s : State) (n : Nat) (q : Queue) : (s.setQueue n q).poison = s.poison := rfl
@[simp] theorem State.setQueue_esc (s : State) (n : Nat) (q : Queue) : (s.setQueue n q).esc = s.esc := rfl
@[simp] theorem State.setQueue_au (s : State) (n : Nat) (q : Queue) : (s.setQueue n q).au = s.au := rfl
@[simp] theorem State.setQueue_run (s : State) (n : Nat) (q : Queue) : (s.setQueue n q).run = s.run := rfl
@[simp] theorem State.setQueue_basin (s : State) (n : Nat) (q : Queue) : (s.setQueue n q).basin = s.basin := rfl
@[simp] theorem State.setQueue_pool (s : State) (n : Nat) (q : Queue) : (s.setQueue n q).pool = s.pool := rfl
@[simp] theorem State.setQueue_kp (s : State) (n : Nat) (q : Queue) : (s.setQueue n q).kp = s.kp := rfl
@[simp] theorem State.setQueue_gens (s : State) (n : Nat) (q : Queue) : (s.setQueue n q).gens = s.gens := rfl
@[simp] theorem State.setQueue_objs (s : State) (n : Nat) (q : Queue) : (s.setQueue n q).objs = s.objs := rfl
@[simp] theorem State.setQueue_ctxs (s : State) (n : Nat) (q : Queue) : (s.setQueue n q).ctxs = s.ctxs := rfl
@[simp] theorem State.setQueue_insts (s : State) (n : Nat) (q : Queue) : (s.setQueue n q).insts = s.insts := rfl
@[simp] theorem State.setQueue_shares (s : State) (n : Nat) (q : Queue) : (s.setQueue n q).shares = s.shares := rfl
@[simp] theorem State.setQueue_rg (s : State) (n : Nat) (q : Queue) : (s.setQueue n q).rg = s.rg := rfl
@[simp] theorem State.setQueue_rgParts (s : State) (n : Nat) (q : Queue) : (s.setQueue n q).rgParts = s.rgParts := rfl
@[simp] theorem State.setQueue_jobs (s : State) (n : Nat) (q : Queue) : (s.setQueue n q).jobs = s.jobs := rfl
@[simp] theorem State.setQueue_nextJob (s : State) (n : Nat) (q : Queue) : (s.setQueue n q).nextJob = s.nextJob := rfl
@[simp] theorem State.setQueue_cores (s : State) (n : Nat) (q : Queue) : (s.setQueue n q).cores = s.cores := rfl
@[simp] theorem State.setQueue_counters (s : State) (n : Nat) (q : Queue) : (s.setQueue n q).counters = s.counters := rfl
@[simp] theorem State.setQueue_updates (s : State) (n : Nat) (q : Queue) : (s.setQueue n q).updates = s.updates := rfl
@[simp] theorem State.setQueue_flights (s : State) (n : Nat) (q : Queue) : (s.setQueue n q).flights = s.flights := rfl
@[simp] theorem State.setQueue_sy (s : State) (n : Nat) (q : Queue) : (s.setQueue n q).sy = s.sy := rfl
@[simp] theorem State.setQueue_sec (s : State) (n : Nat) (q : Queue) : (s.setQueue n q).sec = s.sec := rfl
@[simp] theorem State.setQueue_tw (s : State) (n : Nat) (q : Queue) : (s.setQueue n q).tw = s.tw := rfl
@[simp] theorem State.setQueue_links (s : State) (n : Nat) (q : Queue) : (s.setQueue n q).links = s.links := rfl
@[simp] theorem State.setQueue_fr (s : State) (n : Nat) (q : Queue) : (s.setQueue n q).fr = s.fr := rfl
@[simp] theorem State.setQueue_chime (s : State) (n : Nat) (q : Queue) : (s.setQueue n q).chime = s.chime := rfl
@[simp] theorem State.setQueue_obs (s : State) (n : Nat) (q : Queue) : (s.setQueue n q).obs = s.obs := rfl
@[simp] theorem State.setQueue_tap (s : State) (n : Nat) (q : Queue) : (s.setQueue n q).tap = s.tap := rfl
@[simp] theorem State.setQueue_freeCount (s : State) (n : Nat) (q : Queue) : (s.setQueue n q).freeCount = s.freeCount := rfl
@[simp] theorem State.setQueue_core (s : State) (n : Nat) (q : Queue) (m : Nat) : (s.setQueue n q).core m = s.core m := rfl
@[simp] theorem State.setQueue_ctx (s : State) (n : Nat) (q : Queue) (m : Nat) : (s.setQueue n q).ctx m = s.ctx m := rfl
@[simp] theorem State.setQueue_inst (s : State) (n : Nat) (q : Queue) (m : Nat) : (s.setQueue n q).inst m = s.inst m := rfl
@[simp] theorem State.setQueue_obj (s : State) (n : Nat) (q : Queue) (m : Nat) : (s.setQueue n q).obj m = s.obj m := rfl
@[simp] theorem State.setQueue_gen (s : State) (n : Nat) (q : Queue) (m : Nat) : (s.setQueue n q).gen m = s.gen m := rfl
@[simp] theorem State.setQueue_counter (s : State) (n : Nat) (q : Queue) (m : Nat) : (s.setQueue n q).counter m = s.counter m := rfl
@[simp] theorem State.setQueue_flight (s : State) (n : Nat) (q : Queue) (m : Nat) : (s.setQueue n q).flight m = s.flight m := rfl
@[simp] theorem State.setQueue_link (s : State) (n : Nat) (q : Queue) (m : Nat) : (s.setQueue n q).link m = s.link m := rfl
@[simp] theorem State.setQueue_port (s : State) (n : Nat) (q : Queue) (m : Nat) : (s.setQueue n q).port m = s.port m := rfl
@[simp] theorem State.setQueue_rgPart (s : State) (n : Nat) (q : Queue) (m : Nat) : (s.setQueue n q).rgPart m = s.rgPart m := rfl
@[simp] theorem State.setQueue_job (s : State) (n : Nat) (q : Queue) (m : Nat) : (s.setQueue n q).job m = s.job m := rfl
@[simp] theorem State.setQueue_page (s : State) (n : Nat) (q : Queue) (m : Nat) : (s.setQueue n q).page m = s.page m := rfl
@[simp] theorem State.setQueue_queue (s : State) (n : Nat) (q : Queue) : (s.setQueue n q).queue n = q := tget_tput_self _ _ _ _
theorem State.setQueue_queue_ne (s : State) (n : Nat) (q : Queue) (m : Nat) (h : m ≠ n) : (s.setQueue n q).queue m = s.queue m := tget_tput_ne _ _ _ _ _ h

/-! ### setCtx -/

@[simp] theorem State.setCtx_pending (s : State) (n : Nat) (c : Ctx) : (s.setCtx n c).pending = s.pending := rfl
@[simp] theorem State.setCtx_fuse (s : State) (n : Nat) (c : Ctx) : (s.setCtx n c).fuse = s.fuse := rfl
@[simp] theorem State.setCtx_boot (s : State) (n : Nat) (c : Ctx) : (s.setCtx n c).boot = s.boot := rfl
@[simp] theorem State.setCtx_frozen (s : State) (n : Nat) (c : Ctx) : (s.setCtx n c).frozen = s.frozen := rfl
@[simp] theorem State.setCtx_ports (s : State) (n : Nat) (c : Ctx) : (s.setCtx n c).ports = s.ports := rfl
@[simp] theorem State.setCtx_writes (s : State) (n : Nat) (c : Ctx) : (s.setCtx n c).writes = s.writes := rfl
@[simp] theorem State.setCtx_mem (s : State) (n : Nat) (c : Ctx) : (s.setCtx n c).mem = s.mem := rfl
@[simp] theorem State.setCtx_poison (s : State) (n : Nat) (c : Ctx) : (s.setCtx n c).poison = s.poison := rfl
@[simp] theorem State.setCtx_esc (s : State) (n : Nat) (c : Ctx) : (s.setCtx n c).esc = s.esc := rfl
@[simp] theorem State.setCtx_au (s : State) (n : Nat) (c : Ctx) : (s.setCtx n c).au = s.au := rfl
@[simp] theorem State.setCtx_run (s : State) (n : Nat) (c : Ctx) : (s.setCtx n c).run = s.run := rfl
@[simp] theorem State.setCtx_basin (s : State) (n : Nat) (c : Ctx) : (s.setCtx n c).basin = s.basin := rfl
@[simp] theorem State.setCtx_pool (s : State) (n : Nat) (c : Ctx) : (s.setCtx n c).pool = s.pool := rfl
@[simp] theorem State.setCtx_kp (s : State) (n : Nat) (c : Ctx) : (s.setCtx n c).kp = s.kp := rfl
@[simp] theorem State.setCtx_gens (s : State) (n : Nat) (c : Ctx) : (s.setCtx n c).gens = s.gens := rfl
@[simp] theorem State.setCtx_objs (s : State) (n : Nat) (c : Ctx) : (s.setCtx n c).objs = s.objs := rfl
@[simp] theorem State.setCtx_queues (s : State) (n : Nat) (c : Ctx) : (s.setCtx n c).queues = s.queues := rfl
@[simp] theorem State.setCtx_insts (s : State) (n : Nat) (c : Ctx) : (s.setCtx n c).insts = s.insts := rfl
@[simp] theorem State.setCtx_shares (s : State) (n : Nat) (c : Ctx) : (s.setCtx n c).shares = s.shares := rfl
@[simp] theorem State.setCtx_rg (s : State) (n : Nat) (c : Ctx) : (s.setCtx n c).rg = s.rg := rfl
@[simp] theorem State.setCtx_rgParts (s : State) (n : Nat) (c : Ctx) : (s.setCtx n c).rgParts = s.rgParts := rfl
@[simp] theorem State.setCtx_jobs (s : State) (n : Nat) (c : Ctx) : (s.setCtx n c).jobs = s.jobs := rfl
@[simp] theorem State.setCtx_nextJob (s : State) (n : Nat) (c : Ctx) : (s.setCtx n c).nextJob = s.nextJob := rfl
@[simp] theorem State.setCtx_cores (s : State) (n : Nat) (c : Ctx) : (s.setCtx n c).cores = s.cores := rfl
@[simp] theorem State.setCtx_counters (s : State) (n : Nat) (c : Ctx) : (s.setCtx n c).counters = s.counters := rfl
@[simp] theorem State.setCtx_updates (s : State) (n : Nat) (c : Ctx) : (s.setCtx n c).updates = s.updates := rfl
@[simp] theorem State.setCtx_flights (s : State) (n : Nat) (c : Ctx) : (s.setCtx n c).flights = s.flights := rfl
@[simp] theorem State.setCtx_sy (s : State) (n : Nat) (c : Ctx) : (s.setCtx n c).sy = s.sy := rfl
@[simp] theorem State.setCtx_sec (s : State) (n : Nat) (c : Ctx) : (s.setCtx n c).sec = s.sec := rfl
@[simp] theorem State.setCtx_tw (s : State) (n : Nat) (c : Ctx) : (s.setCtx n c).tw = s.tw := rfl
@[simp] theorem State.setCtx_links (s : State) (n : Nat) (c : Ctx) : (s.setCtx n c).links = s.links := rfl
@[simp] theorem State.setCtx_fr (s : State) (n : Nat) (c : Ctx) : (s.setCtx n c).fr = s.fr := rfl
@[simp] theorem State.setCtx_chime (s : State) (n : Nat) (c : Ctx) : (s.setCtx n c).chime = s.chime := rfl
@[simp] theorem State.setCtx_obs (s : State) (n : Nat) (c : Ctx) : (s.setCtx n c).obs = s.obs := rfl
@[simp] theorem State.setCtx_tap (s : State) (n : Nat) (c : Ctx) : (s.setCtx n c).tap = s.tap := rfl
@[simp] theorem State.setCtx_freeCount (s : State) (n : Nat) (c : Ctx) : (s.setCtx n c).freeCount = s.freeCount := rfl
@[simp] theorem State.setCtx_core (s : State) (n : Nat) (c : Ctx) (m : Nat) : (s.setCtx n c).core m = s.core m := rfl
@[simp] theorem State.setCtx_queue (s : State) (n : Nat) (c : Ctx) (m : Nat) : (s.setCtx n c).queue m = s.queue m := rfl
@[simp] theorem State.setCtx_inst (s : State) (n : Nat) (c : Ctx) (m : Nat) : (s.setCtx n c).inst m = s.inst m := rfl
@[simp] theorem State.setCtx_obj (s : State) (n : Nat) (c : Ctx) (m : Nat) : (s.setCtx n c).obj m = s.obj m := rfl
@[simp] theorem State.setCtx_gen (s : State) (n : Nat) (c : Ctx) (m : Nat) : (s.setCtx n c).gen m = s.gen m := rfl
@[simp] theorem State.setCtx_counter (s : State) (n : Nat) (c : Ctx) (m : Nat) : (s.setCtx n c).counter m = s.counter m := rfl
@[simp] theorem State.setCtx_flight (s : State) (n : Nat) (c : Ctx) (m : Nat) : (s.setCtx n c).flight m = s.flight m := rfl
@[simp] theorem State.setCtx_link (s : State) (n : Nat) (c : Ctx) (m : Nat) : (s.setCtx n c).link m = s.link m := rfl
@[simp] theorem State.setCtx_port (s : State) (n : Nat) (c : Ctx) (m : Nat) : (s.setCtx n c).port m = s.port m := rfl
@[simp] theorem State.setCtx_rgPart (s : State) (n : Nat) (c : Ctx) (m : Nat) : (s.setCtx n c).rgPart m = s.rgPart m := rfl
@[simp] theorem State.setCtx_job (s : State) (n : Nat) (c : Ctx) (m : Nat) : (s.setCtx n c).job m = s.job m := rfl
@[simp] theorem State.setCtx_page (s : State) (n : Nat) (c : Ctx) (m : Nat) : (s.setCtx n c).page m = s.page m := rfl
@[simp] theorem State.setCtx_ctx (s : State) (n : Nat) (c : Ctx) : (s.setCtx n c).ctx n = c := tget_tput_self _ _ _ _
theorem State.setCtx_ctx_ne (s : State) (n : Nat) (c : Ctx) (m : Nat) (h : m ≠ n) : (s.setCtx n c).ctx m = s.ctx m := tget_tput_ne _ _ _ _ _ h

/-! ### setInst -/

@[simp] theorem State.setInst_pending (s : State) (n : Nat) (i : Inst) : (s.setInst n i).pending = s.pending := rfl
@[simp] theorem State.setInst_fuse (s : State) (n : Nat) (i : Inst) : (s.setInst n i).fuse = s.fuse := rfl
@[simp] theorem State.setInst_boot (s : State) (n : Nat) (i : Inst) : (s.setInst n i).boot = s.boot := rfl
@[simp] theorem State.setInst_frozen (s : State) (n : Nat) (i : Inst) : (s.setInst n i).frozen = s.frozen := rfl
@[simp] theorem State.setInst_ports (s : State) (n : Nat) (i : Inst) : (s.setInst n i).ports = s.ports := rfl
@[simp] theorem State.setInst_writes (s : State) (n : Nat) (i : Inst) : (s.setInst n i).writes = s.writes := rfl
@[simp] theorem State.setInst_mem (s : State) (n : Nat) (i : Inst) : (s.setInst n i).mem = s.mem := rfl
@[simp] theorem State.setInst_poison (s : State) (n : Nat) (i : Inst) : (s.setInst n i).poison = s.poison := rfl
@[simp] theorem State.setInst_esc (s : State) (n : Nat) (i : Inst) : (s.setInst n i).esc = s.esc := rfl
@[simp] theorem State.setInst_au (s : State) (n : Nat) (i : Inst) : (s.setInst n i).au = s.au := rfl
@[simp] theorem State.setInst_run (s : State) (n : Nat) (i : Inst) : (s.setInst n i).run = s.run := rfl
@[simp] theorem State.setInst_basin (s : State) (n : Nat) (i : Inst) : (s.setInst n i).basin = s.basin := rfl
@[simp] theorem State.setInst_pool (s : State) (n : Nat) (i : Inst) : (s.setInst n i).pool = s.pool := rfl
@[simp] theorem State.setInst_kp (s : State) (n : Nat) (i : Inst) : (s.setInst n i).kp = s.kp := rfl
@[simp] theorem State.setInst_gens (s : State) (n : Nat) (i : Inst) : (s.setInst n i).gens = s.gens := rfl
@[simp] theorem State.setInst_objs (s : State) (n : Nat) (i : Inst) : (s.setInst n i).objs = s.objs := rfl
@[simp] theorem State.setInst_ctxs (s : State) (n : Nat) (i : Inst) : (s.setInst n i).ctxs = s.ctxs := rfl
@[simp] theorem State.setInst_queues (s : State) (n : Nat) (i : Inst) : (s.setInst n i).queues = s.queues := rfl
@[simp] theorem State.setInst_shares (s : State) (n : Nat) (i : Inst) : (s.setInst n i).shares = s.shares := rfl
@[simp] theorem State.setInst_rg (s : State) (n : Nat) (i : Inst) : (s.setInst n i).rg = s.rg := rfl
@[simp] theorem State.setInst_rgParts (s : State) (n : Nat) (i : Inst) : (s.setInst n i).rgParts = s.rgParts := rfl
@[simp] theorem State.setInst_jobs (s : State) (n : Nat) (i : Inst) : (s.setInst n i).jobs = s.jobs := rfl
@[simp] theorem State.setInst_nextJob (s : State) (n : Nat) (i : Inst) : (s.setInst n i).nextJob = s.nextJob := rfl
@[simp] theorem State.setInst_cores (s : State) (n : Nat) (i : Inst) : (s.setInst n i).cores = s.cores := rfl
@[simp] theorem State.setInst_counters (s : State) (n : Nat) (i : Inst) : (s.setInst n i).counters = s.counters := rfl
@[simp] theorem State.setInst_updates (s : State) (n : Nat) (i : Inst) : (s.setInst n i).updates = s.updates := rfl
@[simp] theorem State.setInst_flights (s : State) (n : Nat) (i : Inst) : (s.setInst n i).flights = s.flights := rfl
@[simp] theorem State.setInst_sy (s : State) (n : Nat) (i : Inst) : (s.setInst n i).sy = s.sy := rfl
@[simp] theorem State.setInst_sec (s : State) (n : Nat) (i : Inst) : (s.setInst n i).sec = s.sec := rfl
@[simp] theorem State.setInst_tw (s : State) (n : Nat) (i : Inst) : (s.setInst n i).tw = s.tw := rfl
@[simp] theorem State.setInst_links (s : State) (n : Nat) (i : Inst) : (s.setInst n i).links = s.links := rfl
@[simp] theorem State.setInst_fr (s : State) (n : Nat) (i : Inst) : (s.setInst n i).fr = s.fr := rfl
@[simp] theorem State.setInst_chime (s : State) (n : Nat) (i : Inst) : (s.setInst n i).chime = s.chime := rfl
@[simp] theorem State.setInst_obs (s : State) (n : Nat) (i : Inst) : (s.setInst n i).obs = s.obs := rfl
@[simp] theorem State.setInst_tap (s : State) (n : Nat) (i : Inst) : (s.setInst n i).tap = s.tap := rfl
@[simp] theorem State.setInst_freeCount (s : State) (n : Nat) (i : Inst) : (s.setInst n i).freeCount = s.freeCount := rfl
@[simp] theorem State.setInst_core (s : State) (n : Nat) (i : Inst) (m : Nat) : (s.setInst n i).core m = s.core m := rfl
@[simp] theorem State.setInst_queue (s : State) (n : Nat) (i : Inst) (m : Nat) : (s.setInst n i).queue m = s.queue m := rfl
@[simp] theorem State.setInst_ctx (s : State) (n : Nat) (i : Inst) (m : Nat) : (s.setInst n i).ctx m = s.ctx m := rfl
@[simp] theorem State.setInst_obj (s : State) (n : Nat) (i : Inst) (m : Nat) : (s.setInst n i).obj m = s.obj m := rfl
@[simp] theorem State.setInst_gen (s : State) (n : Nat) (i : Inst) (m : Nat) : (s.setInst n i).gen m = s.gen m := rfl
@[simp] theorem State.setInst_counter (s : State) (n : Nat) (i : Inst) (m : Nat) : (s.setInst n i).counter m = s.counter m := rfl
@[simp] theorem State.setInst_flight (s : State) (n : Nat) (i : Inst) (m : Nat) : (s.setInst n i).flight m = s.flight m := rfl
@[simp] theorem State.setInst_link (s : State) (n : Nat) (i : Inst) (m : Nat) : (s.setInst n i).link m = s.link m := rfl
@[simp] theorem State.setInst_port (s : State) (n : Nat) (i : Inst) (m : Nat) : (s.setInst n i).port m = s.port m := rfl
@[simp] theorem State.setInst_rgPart (s : State) (n : Nat) (i : Inst) (m : Nat) : (s.setInst n i).rgPart m = s.rgPart m := rfl
@[simp] theorem State.setInst_job (s : State) (n : Nat) (i : Inst) (m : Nat) : (s.setInst n i).job m = s.job m := rfl
@[simp] theorem State.setInst_inst (s : State) (n : Nat) (i : Inst) : (s.setInst n i).inst n = i := tget_tput_self _ _ _ _
theorem State.setInst_inst_ne (s : State) (n : Nat) (i : Inst) (m : Nat) (h : m ≠ n) : (s.setInst n i).inst m = s.inst m := tget_tput_ne _ _ _ _ _ h

/-! ### setObj -/

@[simp] theorem State.setObj_pending (s : State) (n : Nat) (o : Obj) : (s.setObj n o).pending = s.pending := rfl
@[simp] theorem State.setObj_fuse (s : State) (n : Nat) (o : Obj) : (s.setObj n o).fuse = s.fuse := rfl
@[simp] theorem State.setObj_boot (s : State) (n : Nat) (o : Obj) : (s.setObj n o).boot = s.boot := rfl
@[simp] theorem State.setObj_frozen (s : State) (n : Nat) (o : Obj) : (s.setObj n o).frozen = s.frozen := rfl
@[simp] theorem State.setObj_ports (s : State) (n : Nat) (o : Obj) : (s.setObj n o).ports = s.ports := rfl
@[simp] theorem State.setObj_writes (s : State) (n : Nat) (o : Obj) : (s.setObj n o).writes = s.writes := rfl
@[simp] theorem State.setObj_mem (s : State) (n : Nat) (o : Obj) : (s.setObj n o).mem = s.mem := rfl
@[simp] theorem State.setObj_poison (s : State) (n : Nat) (o : Obj) : (s.setObj n o).poison = s.poison := rfl
@[simp] theorem State.setObj_esc (s : State) (n : Nat) (o : Obj) : (s.setObj n o).esc = s.esc := rfl
@[simp] theorem State.setObj_au (s : State) (n : Nat) (o : Obj) : (s.setObj n o).au = s.au := rfl
@[simp] theorem State.setObj_run (s : State) (n : Nat) (o : Obj) : (s.setObj n o).run = s.run := rfl
@[simp] theorem State.setObj_basin (s : State) (n : Nat) (o : Obj) : (s.setObj n o).basin = s.basin := rfl
@[simp] theorem State.setObj_pool (s : State) (n : Nat) (o : Obj) : (s.setObj n o).pool = s.pool := rfl
@[simp] theorem State.setObj_kp (s : State) (n : Nat) (o : Obj) : (s.setObj n o).kp = s.kp := rfl
@[simp] theorem State.setObj_gens (s : State) (n : Nat) (o : Obj) : (s.setObj n o).gens = s.gens := rfl
@[simp] theorem State.setObj_ctxs (s : State) (n : Nat) (o : Obj) : (s.setObj n o).ctxs = s.ctxs := rfl
@[simp] theorem State.setObj_queues (s : State) (n : Nat) (o : Obj) : (s.setObj n o).queues = s.queues := rfl
@[simp] theorem State.setObj_insts (s : State) (n : Nat) (o : Obj) : (s.setObj n o).insts = s.insts := rfl
@[simp] theorem State.setObj_shares (s : State) (n : Nat) (o : Obj) : (s.setObj n o).shares = s.shares := rfl
@[simp] theorem State.setObj_rg (s : State) (n : Nat) (o : Obj) : (s.setObj n o).rg = s.rg := rfl
@[simp] theorem State.setObj_rgParts (s : State) (n : Nat) (o : Obj) : (s.setObj n o).rgParts = s.rgParts := rfl
@[simp] theorem State.setObj_jobs (s : State) (n : Nat) (o : Obj) : (s.setObj n o).jobs = s.jobs := rfl
@[simp] theorem State.setObj_nextJob (s : State) (n : Nat) (o : Obj) : (s.setObj n o).nextJob = s.nextJob := rfl
@[simp] theorem State.setObj_cores (s : State) (n : Nat) (o : Obj) : (s.setObj n o).cores = s.cores := rfl
@[simp] theorem State.setObj_counters (s : State) (n : Nat) (o : Obj) : (s.setObj n o).counters = s.counters := rfl
@[simp] theorem State.setObj_updates (s : State) (n : Nat) (o : Obj) : (s.setObj n o).updates = s.updates := rfl
@[simp] theorem State.setObj_flights (s : State) (n : Nat) (o : Obj) : (s.setObj n o).flights = s.flights := rfl
@[simp] theorem State.setObj_sy (s : State) (n : Nat) (o : Obj) : (s.setObj n o).sy = s.sy := rfl
@[simp] theorem State.setObj_sec (s : State) (n : Nat) (o : Obj) : (s.setObj n o).sec = s.sec := rfl
@[simp] theorem State.setObj_tw (s : State) (n : Nat) (o : Obj) : (s.setObj n o).tw = s.tw := rfl
@[simp] theorem State.setObj_links (s : State) (n : Nat) (o : Obj) : (s.setObj n o).links = s.links := rfl
@[simp] theorem State.setObj_fr (s : State) (n : Nat) (o : Obj) : (s.setObj n o).fr = s.fr := rfl
@[simp] theorem State.setObj_chime (s : State) (n : Nat) (o : Obj) : (s.setObj n o).chime = s.chime := rfl
@[simp] theorem State.setObj_obs (s : State) (n : Nat) (o : Obj) : (s.setObj n o).obs = s.obs := rfl
@[simp] theorem State.setObj_tap (s : State) (n : Nat) (o : Obj) : (s.setObj n o).tap = s.tap := rfl
@[simp] theorem State.setObj_freeCount (s : State) (n : Nat) (o : Obj) : (s.setObj n o).freeCount = s.freeCount := rfl
@[simp] theorem State.setObj_core (s : State) (n : Nat) (o : Obj) (m : Nat) : (s.setObj n o).core m = s.core m := rfl
@[simp] theorem State.setObj_queue (s : State) (n : Nat) (o : Obj) (m : Nat) : (s.setObj n o).queue m = s.queue m := rfl
@[simp] theorem State.setObj_ctx (s : State) (n : Nat) (o : Obj) (m : Nat) : (s.setObj n o).ctx m = s.ctx m := rfl
@[simp] theorem State.setObj_inst (s : State) (n : Nat) (o : Obj) (m : Nat) : (s.setObj n o).inst m = s.inst m := rfl
@[simp] theorem State.setObj_gen (s : State) (n : Nat) (o : Obj) (m : Nat) : (s.setObj n o).gen m = s.gen m := rfl
@[simp] theorem State.setObj_counter (s : State) (n : Nat) (o : Obj) (m : Nat) : (s.setObj n o).counter m = s.counter m := rfl
@[simp] theorem State.setObj_flight (s : State) (n : Nat) (o : Obj) (m : Nat) : (s.setObj n o).flight m = s.flight m := rfl
@[simp] theorem State.setObj_link (s : State) (n : Nat) (o : Obj) (m : Nat) : (s.setObj n o).link m = s.link m := rfl
@[simp] theorem State.setObj_port (s : State) (n : Nat) (o : Obj) (m : Nat) : (s.setObj n o).port m = s.port m := rfl
@[simp] theorem State.setObj_rgPart (s : State) (n : Nat) (o : Obj) (m : Nat) : (s.setObj n o).rgPart m = s.rgPart m := rfl
@[simp] theorem State.setObj_job (s : State) (n : Nat) (o : Obj) (m : Nat) : (s.setObj n o).job m = s.job m := rfl
@[simp] theorem State.setObj_page (s : State) (n : Nat) (o : Obj) (m : Nat) : (s.setObj n o).page m = s.page m := rfl
@[simp] theorem State.setObj_obj (s : State) (n : Nat) (o : Obj) : (s.setObj n o).obj n = o := tget_tput_self _ _ _ _
theorem State.setObj_obj_ne (s : State) (n : Nat) (o : Obj) (m : Nat) (h : m ≠ n) : (s.setObj n o).obj m = s.obj m := tget_tput_ne _ _ _ _ _ h

/-! ### setGen -/

@[simp] theorem State.setGen_pending (s : State) (n : Nat) (g : Gen) : (s.setGen n g).pending = s.pending := rfl
@[simp] theorem State.setGen_fuse (s : State) (n : Nat) (g : Gen) : (s.setGen n g).fuse = s.fuse := rfl
@[simp] theorem State.setGen_boot (s : State) (n : Nat) (g : Gen) : (s.setGen n g).boot = s.boot := rfl
@[simp] theorem State.setGen_frozen (s : State) (n : Nat) (g : Gen) : (s.setGen n g).frozen = s.frozen := rfl
@[simp] theorem State.setGen_ports (s : State) (n : Nat) (g : Gen) : (s.setGen n g).ports = s.ports := rfl
@[simp] theorem State.setGen_writes (s : State) (n : Nat) (g : Gen) : (s.setGen n g).writes = s.writes := rfl
@[simp] theorem State.setGen_mem (s : State) (n : Nat) (g : Gen) : (s.setGen n g).mem = s.mem := rfl
@[simp] theorem State.setGen_poison (s : State) (n : Nat) (g : Gen) : (s.setGen n g).poison = s.poison := rfl
@[simp] theorem State.setGen_esc (s : State) (n : Nat) (g : Gen) : (s.setGen n g).esc = s.esc := rfl
@[simp] theorem State.setGen_au (s : State) (n : Nat) (g : Gen) : (s.setGen n g).au = s.au := rfl
@[simp] theorem State.setGen_run (s : State) (n : Nat) (g : Gen) : (s.setGen n g).run = s.run := rfl
@[simp] theorem State.setGen_basin (s : State) (n : Nat) (g : Gen) : (s.setGen n g).basin = s.basin := rfl
@[simp] theorem State.setGen_pool (s : State) (n : Nat) (g : Gen) : (s.setGen n g).pool = s.pool := rfl
@[simp] theorem State.setGen_kp (s : State) (n : Nat) (g : Gen) : (s.setGen n g).kp = s.kp := rfl
@[simp] theorem State.setGen_objs (s : State) (n : Nat) (g : Gen) : (s.setGen n g).objs = s.objs := rfl
@[simp] theorem State.setGen_ctxs (s : State) (n : Nat) (g : Gen) : (s.setGen n g).ctxs = s.ctxs := rfl
@[simp] theorem State.setGen_queues (s : State) (n : Nat) (g : Gen) : (s.setGen n g).queues = s.queues := rfl
@[simp] theorem State.setGen_insts (s : State) (n : Nat) (g : Gen) : (s.setGen n g).insts = s.insts := rfl
@[simp] theorem State.setGen_shares (s : State) (n : Nat) (g : Gen) : (s.setGen n g).shares = s.shares := rfl
@[simp] theorem State.setGen_rg (s : State) (n : Nat) (g : Gen) : (s.setGen n g).rg = s.rg := rfl
@[simp] theorem State.setGen_rgParts (s : State) (n : Nat) (g : Gen) : (s.setGen n g).rgParts = s.rgParts := rfl
@[simp] theorem State.setGen_jobs (s : State) (n : Nat) (g : Gen) : (s.setGen n g).jobs = s.jobs := rfl
@[simp] theorem State.setGen_nextJob (s : State) (n : Nat) (g : Gen) : (s.setGen n g).nextJob = s.nextJob := rfl
@[simp] theorem State.setGen_cores (s : State) (n : Nat) (g : Gen) : (s.setGen n g).cores = s.cores := rfl
@[simp] theorem State.setGen_counters (s : State) (n : Nat) (g : Gen) : (s.setGen n g).counters = s.counters := rfl
@[simp] theorem State.setGen_updates (s : State) (n : Nat) (g : Gen) : (s.setGen n g).updates = s.updates := rfl
@[simp] theorem State.setGen_flights (s : State) (n : Nat) (g : Gen) : (s.setGen n g).flights = s.flights := rfl
@[simp] theorem State.setGen_sy (s : State) (n : Nat) (g : Gen) : (s.setGen n g).sy = s.sy := rfl
@[simp] theorem State.setGen_sec (s : State) (n : Nat) (g : Gen) : (s.setGen n g).sec = s.sec := rfl
@[simp] theorem State.setGen_tw (s : State) (n : Nat) (g : Gen) : (s.setGen n g).tw = s.tw := rfl
@[simp] theorem State.setGen_links (s : State) (n : Nat) (g : Gen) : (s.setGen n g).links = s.links := rfl
@[simp] theorem State.setGen_fr (s : State) (n : Nat) (g : Gen) : (s.setGen n g).fr = s.fr := rfl
@[simp] theorem State.setGen_chime (s : State) (n : Nat) (g : Gen) : (s.setGen n g).chime = s.chime := rfl
@[simp] theorem State.setGen_obs (s : State) (n : Nat) (g : Gen) : (s.setGen n g).obs = s.obs := rfl
@[simp] theorem State.setGen_tap (s : State) (n : Nat) (g : Gen) : (s.setGen n g).tap = s.tap := rfl
@[simp] theorem State.setGen_freeCount (s : State) (n : Nat) (g : Gen) : (s.setGen n g).freeCount = s.freeCount := rfl
@[simp] theorem State.setGen_core (s : State) (n : Nat) (g : Gen) (m : Nat) : (s.setGen n g).core m = s.core m := rfl
@[simp] theorem State.setGen_queue (s : State) (n : Nat) (g : Gen) (m : Nat) : (s.setGen n g).queue m = s.queue m := rfl
@[simp] theorem State.setGen_ctx (s : State) (n : Nat) (g : Gen) (m : Nat) : (s.setGen n g).ctx m = s.ctx m := rfl
@[simp] theorem State.setGen_inst (s : State) (n : Nat) (g : Gen) (m : Nat) : (s.setGen n g).inst m = s.inst m := rfl
@[simp] theorem State.setGen_obj (s : State) (n : Nat) (g : Gen) (m : Nat) : (s.setGen n g).obj m = s.obj m := rfl
@[simp] theorem State.setGen_counter (s : State) (n : Nat) (g : Gen) (m : Nat) : (s.setGen n g).counter m = s.counter m := rfl
@[simp] theorem State.setGen_flight (s : State) (n : Nat) (g : Gen) (m : Nat) : (s.setGen n g).flight m = s.flight m := rfl
@[simp] theorem State.setGen_link (s : State) (n : Nat) (g : Gen) (m : Nat) : (s.setGen n g).link m = s.link m := rfl
@[simp] theorem State.setGen_port (s : State) (n : Nat) (g : Gen) (m : Nat) : (s.setGen n g).port m = s.port m := rfl
@[simp] theorem State.setGen_rgPart (s : State) (n : Nat) (g : Gen) (m : Nat) : (s.setGen n g).rgPart m = s.rgPart m := rfl
@[simp] theorem State.setGen_job (s : State) (n : Nat) (g : Gen) (m : Nat) : (s.setGen n g).job m = s.job m := rfl
@[simp] theorem State.setGen_page (s : State) (n : Nat) (g : Gen) (m : Nat) : (s.setGen n g).page m = s.page m := rfl
@[simp] theorem State.setGen_gen (s : State) (n : Nat) (g : Gen) : (s.setGen n g).gen n = g := tget_tput_self _ _ _ _
theorem State.setGen_gen_ne (s : State) (n : Nat) (g : Gen) (m : Nat) (h : m ≠ n) : (s.setGen n g).gen m = s.gen m := tget_tput_ne _ _ _ _ _ h

/-! ### setCounter -/

@[simp] theorem State.setCounter_pending (s : State) (n : Nat) (c : Counter) : (s.setCounter n c).pending = s.pending := rfl
@[simp] theorem State.setCounter_fuse (s : State) (n : Nat) (c : Counter) : (s.setCounter n c).fuse = s.fuse := rfl
@[simp] theorem State.setCounter_boot (s : State) (n : Nat) (c : Counter) : (s.setCounter n c).boot = s.boot := rfl
@[simp] theorem State.setCounter_frozen (s : State) (n : Nat) (c : Counter) : (s.setCounter n c).frozen = s.frozen := rfl
@[simp] theorem State.setCounter_ports (s : State) (n : Nat) (c : Counter) : (s.setCounter n c).ports = s.ports := rfl
@[simp] theorem State.setCounter_writes (s : State) (n : Nat) (c : Counter) : (s.setCounter n c).writes = s.writes := rfl
@[simp] theorem State.setCounter_mem (s : State) (n : Nat) (c : Counter) : (s.setCounter n c).mem = s.mem := rfl
@[simp] theorem State.setCounter_poison (s : State) (n : Nat) (c : Counter) : (s.setCounter n c).poison = s.poison := rfl
@[simp] theorem State.setCounter_esc (s : State) (n : Nat) (c : Counter) : (s.setCounter n c).esc = s.esc := rfl
@[simp] theorem State.setCounter_au (s : State) (n : Nat) (c : Counter) : (s.setCounter n c).au = s.au := rfl
@[simp] theorem State.setCounter_run (s : State) (n : Nat) (c : Counter) : (s.setCounter n c).run = s.run := rfl
@[simp] theorem State.setCounter_basin (s : State) (n : Nat) (c : Counter) : (s.setCounter n c).basin = s.basin := rfl
@[simp] theorem State.setCounter_pool (s : State) (n : Nat) (c : Counter) : (s.setCounter n c).pool = s.pool := rfl
@[simp] theorem State.setCounter_kp (s : State) (n : Nat) (c : Counter) : (s.setCounter n c).kp = s.kp := rfl
@[simp] theorem State.setCounter_gens (s : State) (n : Nat) (c : Counter) : (s.setCounter n c).gens = s.gens := rfl
@[simp] theorem State.setCounter_objs (s : State) (n : Nat) (c : Counter) : (s.setCounter n c).objs = s.objs := rfl
@[simp] theorem State.setCounter_ctxs (s : State) (n : Nat) (c : Counter) : (s.setCounter n c).ctxs = s.ctxs := rfl
@[simp] theorem State.setCounter_queues (s : State) (n : Nat) (c : Counter) : (s.setCounter n c).queues = s.queues := rfl
@[simp] theorem State.setCounter_insts (s : State) (n : Nat) (c : Counter) : (s.setCounter n c).insts = s.insts := rfl
@[simp] theorem State.setCounter_shares (s : State) (n : Nat) (c : Counter) : (s.setCounter n c).shares = s.shares := rfl
@[simp] theorem State.setCounter_rg (s : State) (n : Nat) (c : Counter) : (s.setCounter n c).rg = s.rg := rfl
@[simp] theorem State.setCounter_rgParts (s : State) (n : Nat) (c : Counter) : (s.setCounter n c).rgParts = s.rgParts := rfl
@[simp] theorem State.setCounter_jobs (s : State) (n : Nat) (c : Counter) : (s.setCounter n c).jobs = s.jobs := rfl
@[simp] theorem State.setCounter_nextJob (s : State) (n : Nat) (c : Counter) : (s.setCounter n c).nextJob = s.nextJob := rfl
@[simp] theorem State.setCounter_cores (s : State) (n : Nat) (c : Counter) : (s.setCounter n c).cores = s.cores := rfl
@[simp] theorem State.setCounter_updates (s : State) (n : Nat) (c : Counter) : (s.setCounter n c).updates = s.updates := rfl
@[simp] theorem State.setCounter_flights (s : State) (n : Nat) (c : Counter) : (s.setCounter n c).flights = s.flights := rfl
@[simp] theorem State.setCounter_sy (s : State) (n : Nat) (c : Counter) : (s.setCounter n c).sy = s.sy := rfl
@[simp] theorem State.setCounter_sec (s : State) (n : Nat) (c : Counter) : (s.setCounter n c).sec = s.sec := rfl
@[simp] theorem State.setCounter_tw (s : State) (n : Nat) (c : Counter) : (s.setCounter n c).tw = s.tw := rfl
@[simp] theorem State.setCounter_links (s : State) (n : Nat) (c : Counter) : (s.setCounter n c).links = s.links := rfl
@[simp] theorem State.setCounter_fr (s : State) (n : Nat) (c : Counter) : (s.setCounter n c).fr = s.fr := rfl
@[simp] theorem State.setCounter_chime (s : State) (n : Nat) (c : Counter) : (s.setCounter n c).chime = s.chime := rfl
@[simp] theorem State.setCounter_obs (s : State) (n : Nat) (c : Counter) : (s.setCounter n c).obs = s.obs := rfl
@[simp] theorem State.setCounter_tap (s : State) (n : Nat) (c : Counter) : (s.setCounter n c).tap = s.tap := rfl
@[simp] theorem State.setCounter_freeCount (s : State) (n : Nat) (c : Counter) : (s.setCounter n c).freeCount = s.freeCount := rfl
@[simp] theorem State.setCounter_core (s : State) (n : Nat) (c : Counter) (m : Nat) : (s.setCounter n c).core m = s.core m := rfl
@[simp] theorem State.setCounter_queue (s : State) (n : Nat) (c : Counter) (m : Nat) : (s.setCounter n c).queue m = s.queue m := rfl
@[simp] theorem State.setCounter_ctx (s : State) (n : Nat) (c : Counter) (m : Nat) : (s.setCounter n c).ctx m = s.ctx m := rfl
@[simp] theorem State.setCounter_inst (s : State) (n : Nat) (c : Counter) (m : Nat) : (s.setCounter n c).inst m = s.inst m := rfl
@[simp] theorem State.setCounter_obj (s : State) (n : Nat) (c : Counter) (m : Nat) : (s.setCounter n c).obj m = s.obj m := rfl
@[simp] theorem State.setCounter_gen (s : State) (n : Nat) (c : Counter) (m : Nat) : (s.setCounter n c).gen m = s.gen m := rfl
@[simp] theorem State.setCounter_flight (s : State) (n : Nat) (c : Counter) (m : Nat) : (s.setCounter n c).flight m = s.flight m := rfl
@[simp] theorem State.setCounter_link (s : State) (n : Nat) (c : Counter) (m : Nat) : (s.setCounter n c).link m = s.link m := rfl
@[simp] theorem State.setCounter_port (s : State) (n : Nat) (c : Counter) (m : Nat) : (s.setCounter n c).port m = s.port m := rfl
@[simp] theorem State.setCounter_rgPart (s : State) (n : Nat) (c : Counter) (m : Nat) : (s.setCounter n c).rgPart m = s.rgPart m := rfl
@[simp] theorem State.setCounter_job (s : State) (n : Nat) (c : Counter) (m : Nat) : (s.setCounter n c).job m = s.job m := rfl
@[simp] theorem State.setCounter_page (s : State) (n : Nat) (c : Counter) (m : Nat) : (s.setCounter n c).page m = s.page m := rfl
@[simp] theorem State.setCounter_counter (s : State) (n : Nat) (c : Counter) : (s.setCounter n c).counter n = c := tget_tput_self _ _ _ _
theorem State.setCounter_counter_ne (s : State) (n : Nat) (c : Counter) (m : Nat) (h : m ≠ n) : (s.setCounter n c).counter m = s.counter m := tget_tput_ne _ _ _ _ _ h

/-! ### setFlight -/

@[simp] theorem State.setFlight_pending (s : State) (n : Nat) (f : Flight) : (s.setFlight n f).pending = s.pending := rfl
@[simp] theorem State.setFlight_fuse (s : State) (n : Nat) (f : Flight) : (s.setFlight n f).fuse = s.fuse := rfl
@[simp] theorem State.setFlight_boot (s : State) (n : Nat) (f : Flight) : (s.setFlight n f).boot = s.boot := rfl
@[simp] theorem State.setFlight_frozen (s : State) (n : Nat) (f : Flight) : (s.setFlight n f).frozen = s.frozen := rfl
@[simp] theorem State.setFlight_ports (s : State) (n : Nat) (f : Flight) : (s.setFlight n f).ports = s.ports := rfl
@[simp] theorem State.setFlight_writes (s : State) (n : Nat) (f : Flight) : (s.setFlight n f).writes = s.writes := rfl
@[simp] theorem State.setFlight_mem (s : State) (n : Nat) (f : Flight) : (s.setFlight n f).mem = s.mem := rfl
@[simp] theorem State.setFlight_poison (s : State) (n : Nat) (f : Flight) : (s.setFlight n f).poison = s.poison := rfl
@[simp] theorem State.setFlight_esc (s : State) (n : Nat) (f : Flight) : (s.setFlight n f).esc = s.esc := rfl
@[simp] theorem State.setFlight_au (s : State) (n : Nat) (f : Flight) : (s.setFlight n f).au = s.au := rfl
@[simp] theorem State.setFlight_run (s : State) (n : Nat) (f : Flight) : (s.setFlight n f).run = s.run := rfl
@[simp] theorem State.setFlight_basin (s : State) (n : Nat) (f : Flight) : (s.setFlight n f).basin = s.basin := rfl
@[simp] theorem State.setFlight_pool (s : State) (n : Nat) (f : Flight) : (s.setFlight n f).pool = s.pool := rfl
@[simp] theorem State.setFlight_kp (s : State) (n : Nat) (f : Flight) : (s.setFlight n f).kp = s.kp := rfl
@[simp] theorem State.setFlight_gens (s : State) (n : Nat) (f : Flight) : (s.setFlight n f).gens = s.gens := rfl
@[simp] theorem State.setFlight_objs (s : State) (n : Nat) (f : Flight) : (s.setFlight n f).objs = s.objs := rfl
@[simp] theorem State.setFlight_ctxs (s : State) (n : Nat) (f : Flight) : (s.setFlight n f).ctxs = s.ctxs := rfl
@[simp] theorem State.setFlight_queues (s : State) (n : Nat) (f : Flight) : (s.setFlight n f).queues = s.queues := rfl
@[simp] theorem State.setFlight_insts (s : State) (n : Nat) (f : Flight) : (s.setFlight n f).insts = s.insts := rfl
@[simp] theorem State.setFlight_shares (s : State) (n : Nat) (f : Flight) : (s.setFlight n f).shares = s.shares := rfl
@[simp] theorem State.setFlight_rg (s : State) (n : Nat) (f : Flight) : (s.setFlight n f).rg = s.rg := rfl
@[simp] theorem State.setFlight_rgParts (s : State) (n : Nat) (f : Flight) : (s.setFlight n f).rgParts = s.rgParts := rfl
@[simp] theorem State.setFlight_jobs (s : State) (n : Nat) (f : Flight) : (s.setFlight n f).jobs = s.jobs := rfl
@[simp] theorem State.setFlight_nextJob (s : State) (n : Nat) (f : Flight) : (s.setFlight n f).nextJob = s.nextJob := rfl
@[simp] theorem State.setFlight_cores (s : State) (n : Nat) (f : Flight) : (s.setFlight n f).cores = s.cores := rfl
@[simp] theorem State.setFlight_counters (s : State) (n : Nat) (f : Flight) : (s.setFlight n f).counters = s.counters := rfl
@[simp] theorem State.setFlight_updates (s : State) (n : Nat) (f : Flight) : (s.setFlight n f).updates = s.updates := rfl
@[simp] theorem State.setFlight_sy (s : State) (n : Nat) (f : Flight) : (s.setFlight n f).sy = s.sy := rfl
@[simp] theorem State.setFlight_sec (s : State) (n : Nat) (f : Flight) : (s.setFlight n f).sec = s.sec := rfl
@[simp] theorem State.setFlight_tw (s : State) (n : Nat) (f : Flight) : (s.setFlight n f).tw = s.tw := rfl
@[simp] theorem State.setFlight_links (s : State) (n : Nat) (f : Flight) : (s.setFlight n f).links = s.links := rfl
@[simp] theorem State.setFlight_fr (s : State) (n : Nat) (f : Flight) : (s.setFlight n f).fr = s.fr := rfl
@[simp] theorem State.setFlight_chime (s : State) (n : Nat) (f : Flight) : (s.setFlight n f).chime = s.chime := rfl
@[simp] theorem State.setFlight_obs (s : State) (n : Nat) (f : Flight) : (s.setFlight n f).obs = s.obs := rfl
@[simp] theorem State.setFlight_tap (s : State) (n : Nat) (f : Flight) : (s.setFlight n f).tap = s.tap := rfl
@[simp] theorem State.setFlight_freeCount (s : State) (n : Nat) (f : Flight) : (s.setFlight n f).freeCount = s.freeCount := rfl
@[simp] theorem State.setFlight_core (s : State) (n : Nat) (f : Flight) (m : Nat) : (s.setFlight n f).core m = s.core m := rfl
@[simp] theorem State.setFlight_queue (s : State) (n : Nat) (f : Flight) (m : Nat) : (s.setFlight n f).queue m = s.queue m := rfl
@[simp] theorem State.setFlight_ctx (s : State) (n : Nat) (f : Flight) (m : Nat) : (s.setFlight n f).ctx m = s.ctx m := rfl
@[simp] theorem State.setFlight_inst (s : State) (n : Nat) (f : Flight) (m : Nat) : (s.setFlight n f).inst m = s.inst m := rfl
@[simp] theorem State.setFlight_obj (s : State) (n : Nat) (f : Flight) (m : Nat) : (s.setFlight n f).obj m = s.obj m := rfl
@[simp] theorem State.setFlight_gen (s : State) (n : Nat) (f : Flight) (m : Nat) : (s.setFlight n f).gen m = s.gen m := rfl
@[simp] theorem State.setFlight_counter (s : State) (n : Nat) (f : Flight) (m : Nat) : (s.setFlight n f).counter m = s.counter m := rfl
@[simp] theorem State.setFlight_link (s : State) (n : Nat) (f : Flight) (m : Nat) : (s.setFlight n f).link m = s.link m := rfl
@[simp] theorem State.setFlight_port (s : State) (n : Nat) (f : Flight) (m : Nat) : (s.setFlight n f).port m = s.port m := rfl
@[simp] theorem State.setFlight_rgPart (s : State) (n : Nat) (f : Flight) (m : Nat) : (s.setFlight n f).rgPart m = s.rgPart m := rfl
@[simp] theorem State.setFlight_job (s : State) (n : Nat) (f : Flight) (m : Nat) : (s.setFlight n f).job m = s.job m := rfl
@[simp] theorem State.setFlight_page (s : State) (n : Nat) (f : Flight) (m : Nat) : (s.setFlight n f).page m = s.page m := rfl
@[simp] theorem State.setFlight_flight (s : State) (n : Nat) (f : Flight) : (s.setFlight n f).flight n = f := tget_tput_self _ _ _ _
theorem State.setFlight_flight_ne (s : State) (n : Nat) (f : Flight) (m : Nat) (h : m ≠ n) : (s.setFlight n f).flight m = s.flight m := tget_tput_ne _ _ _ _ _ h

/-! ### setLink -/

@[simp] theorem State.setLink_pending (s : State) (n : Nat) (l : Link) : (s.setLink n l).pending = s.pending := rfl
@[simp] theorem State.setLink_fuse (s : State) (n : Nat) (l : Link) : (s.setLink n l).fuse = s.fuse := rfl
@[simp] theorem State.setLink_boot (s : State) (n : Nat) (l : Link) : (s.setLink n l).boot = s.boot := rfl
@[simp] theorem State.setLink_frozen (s : State) (n : Nat) (l : Link) : (s.setLink n l).frozen = s.frozen := rfl
@[simp] theorem State.setLink_ports (s : State) (n : Nat) (l : Link) : (s.setLink n l).ports = s.ports := rfl
@[simp] theorem State.setLink_writes (s : State) (n : Nat) (l : Link) : (s.setLink n l).writes = s.writes := rfl
@[simp] theorem State.setLink_mem (s : State) (n : Nat) (l : Link) : (s.setLink n l).mem = s.mem := rfl
@[simp] theorem State.setLink_poison (s : State) (n : Nat) (l : Link) : (s.setLink n l).poison = s.poison := rfl
@[simp] theorem State.setLink_esc (s : State) (n : Nat) (l : Link) : (s.setLink n l).esc = s.esc := rfl
@[simp] theorem State.setLink_au (s : State) (n : Nat) (l : Link) : (s.setLink n l).au = s.au := rfl
@[simp] theorem State.setLink_run (s : State) (n : Nat) (l : Link) : (s.setLink n l).run = s.run := rfl
@[simp] theorem State.setLink_basin (s : State) (n : Nat) (l : Link) : (s.setLink n l).basin = s.basin := rfl
@[simp] theorem State.setLink_pool (s : State) (n : Nat) (l : Link) : (s.setLink n l).pool = s.pool := rfl
@[simp] theorem State.setLink_kp (s : State) (n : Nat) (l : Link) : (s.setLink n l).kp = s.kp := rfl
@[simp] theorem State.setLink_gens (s : State) (n : Nat) (l : Link) : (s.setLink n l).gens = s.gens := rfl
@[simp] theorem State.setLink_objs (s : State) (n : Nat) (l : Link) : (s.setLink n l).objs = s.objs := rfl
@[simp] theorem State.setLink_ctxs (s : State) (n : Nat) (l : Link) : (s.setLink n l).ctxs = s.ctxs := rfl
@[simp] theorem State.setLink_queues (s : State) (n : Nat) (l : Link) : (s.setLink n l).queues = s.queues := rfl
@[simp] theorem State.setLink_insts (s : State) (n : Nat) (l : Link) : (s.setLink n l).insts = s.insts := rfl
@[simp] theorem State.setLink_shares (s : State) (n : Nat) (l : Link) : (s.setLink n l).shares = s.shares := rfl
@[simp] theorem State.setLink_rg (s : State) (n : Nat) (l : Link) : (s.setLink n l).rg = s.rg := rfl
@[simp] theorem State.setLink_rgParts (s : State) (n : Nat) (l : Link) : (s.setLink n l).rgParts = s.rgParts := rfl
@[simp] theorem State.setLink_jobs (s : State) (n : Nat) (l : Link) : (s.setLink n l).jobs = s.jobs := rfl
@[simp] theorem State.setLink_nextJob (s : State) (n : Nat) (l : Link) : (s.setLink n l).nextJob = s.nextJob := rfl
@[simp] theorem State.setLink_cores (s : State) (n : Nat) (l : Link) : (s.setLink n l).cores = s.cores := rfl
@[simp] theorem State.setLink_counters (s : State) (n : Nat) (l : Link) : (s.setLink n l).counters = s.counters := rfl
@[simp] theorem State.setLink_updates (s : State) (n : Nat) (l : Link) : (s.setLink n l).updates = s.updates := rfl
@[simp] theorem State.setLink_flights (s : State) (n : Nat) (l : Link) : (s.setLink n l).flights = s.flights := rfl
@[simp] theorem State.setLink_sy (s : State) (n : Nat) (l : Link) : (s.setLink n l).sy = s.sy := rfl
@[simp] theorem State.setLink_sec (s : State) (n : Nat) (l : Link) : (s.setLink n l).sec = s.sec := rfl
@[simp] theorem State.setLink_tw (s : State) (n : Nat) (l : Link) : (s.setLink n l).tw = s.tw := rfl
@[simp] theorem State.setLink_fr (s : State) (n : Nat) (l : Link) : (s.setLink n l).fr = s.fr := rfl
@[simp] theorem State.setLink_chime (s : State) (n : Nat) (l : Link) : (s.setLink n l).chime = s.chime := rfl
@[simp] theorem State.setLink_obs (s : State) (n : Nat) (l : Link) : (s.setLink n l).obs = s.obs := rfl
@[simp] theorem State.setLink_tap (s : State) (n : Nat) (l : Link) : (s.setLink n l).tap = s.tap := rfl
@[simp] theorem State.setLink_freeCount (s : State) (n : Nat) (l : Link) : (s.setLink n l).freeCount = s.freeCount := rfl
@[simp] theorem State.setLink_core (s : State) (n : Nat) (l : Link) (m : Nat) : (s.setLink n l).core m = s.core m := rfl
@[simp] theorem State.setLink_queue (s : State) (n : Nat) (l : Link) (m : Nat) : (s.setLink n l).queue m = s.queue m := rfl
@[simp] theorem State.setLink_ctx (s : State) (n : Nat) (l : Link) (m : Nat) : (s.setLink n l).ctx m = s.ctx m := rfl
@[simp] theorem State.setLink_inst (s : State) (n : Nat) (l : Link) (m : Nat) : (s.setLink n l).inst m = s.inst m := rfl
@[simp] theorem State.setLink_obj (s : State) (n : Nat) (l : Link) (m : Nat) : (s.setLink n l).obj m = s.obj m := rfl
@[simp] theorem State.setLink_gen (s : State) (n : Nat) (l : Link) (m : Nat) : (s.setLink n l).gen m = s.gen m := rfl
@[simp] theorem State.setLink_counter (s : State) (n : Nat) (l : Link) (m : Nat) : (s.setLink n l).counter m = s.counter m := rfl
@[simp] theorem State.setLink_flight (s : State) (n : Nat) (l : Link) (m : Nat) : (s.setLink n l).flight m = s.flight m := rfl
@[simp] theorem State.setLink_port (s : State) (n : Nat) (l : Link) (m : Nat) : (s.setLink n l).port m = s.port m := rfl
@[simp] theorem State.setLink_rgPart (s : State) (n : Nat) (l : Link) (m : Nat) : (s.setLink n l).rgPart m = s.rgPart m := rfl
@[simp] theorem State.setLink_job (s : State) (n : Nat) (l : Link) (m : Nat) : (s.setLink n l).job m = s.job m := rfl
@[simp] theorem State.setLink_page (s : State) (n : Nat) (l : Link) (m : Nat) : (s.setLink n l).page m = s.page m := rfl
@[simp] theorem State.setLink_link (s : State) (n : Nat) (l : Link) : (s.setLink n l).link n = l := tget_tput_self _ _ _ _
theorem State.setLink_link_ne (s : State) (n : Nat) (l : Link) (m : Nat) (h : m ≠ n) : (s.setLink n l).link m = s.link m := tget_tput_ne _ _ _ _ _ h

/-! ### setPort -/

@[simp] theorem State.setPort_pending (s : State) (n : Nat) (p : Port) : (s.setPort n p).pending = s.pending := rfl
@[simp] theorem State.setPort_fuse (s : State) (n : Nat) (p : Port) : (s.setPort n p).fuse = s.fuse := rfl
@[simp] theorem State.setPort_boot (s : State) (n : Nat) (p : Port) : (s.setPort n p).boot = s.boot := rfl
@[simp] theorem State.setPort_frozen (s : State) (n : Nat) (p : Port) : (s.setPort n p).frozen = s.frozen := rfl
@[simp] theorem State.setPort_writes (s : State) (n : Nat) (p : Port) : (s.setPort n p).writes = s.writes := rfl
@[simp] theorem State.setPort_mem (s : State) (n : Nat) (p : Port) : (s.setPort n p).mem = s.mem := rfl
@[simp] theorem State.setPort_poison (s : State) (n : Nat) (p : Port) : (s.setPort n p).poison = s.poison := rfl
@[simp] theorem State.setPort_esc (s : State) (n : Nat) (p : Port) : (s.setPort n p).esc = s.esc := rfl
@[simp] theorem State.setPort_au (s : State) (n : Nat) (p : Port) : (s.setPort n p).au = s.au := rfl
@[simp] theorem State.setPort_run (s : State) (n : Nat) (p : Port) : (s.setPort n p).run = s.run := rfl
@[simp] theorem State.setPort_basin (s : State) (n : Nat) (p : Port) : (s.setPort n p).basin = s.basin := rfl
@[simp] theorem State.setPort_pool (s : State) (n : Nat) (p : Port) : (s.setPort n p).pool = s.pool := rfl
@[simp] theorem State.setPort_kp (s : State) (n : Nat) (p : Port) : (s.setPort n p).kp = s.kp := rfl
@[simp] theorem State.setPort_gens (s : State) (n : Nat) (p : Port) : (s.setPort n p).gens = s.gens := rfl
@[simp] theorem State.setPort_objs (s : State) (n : Nat) (p : Port) : (s.setPort n p).objs = s.objs := rfl
@[simp] theorem State.setPort_ctxs (s : State) (n : Nat) (p : Port) : (s.setPort n p).ctxs = s.ctxs := rfl
@[simp] theorem State.setPort_queues (s : State) (n : Nat) (p : Port) : (s.setPort n p).queues = s.queues := rfl
@[simp] theorem State.setPort_insts (s : State) (n : Nat) (p : Port) : (s.setPort n p).insts = s.insts := rfl
@[simp] theorem State.setPort_shares (s : State) (n : Nat) (p : Port) : (s.setPort n p).shares = s.shares := rfl
@[simp] theorem State.setPort_rg (s : State) (n : Nat) (p : Port) : (s.setPort n p).rg = s.rg := rfl
@[simp] theorem State.setPort_rgParts (s : State) (n : Nat) (p : Port) : (s.setPort n p).rgParts = s.rgParts := rfl
@[simp] theorem State.setPort_jobs (s : State) (n : Nat) (p : Port) : (s.setPort n p).jobs = s.jobs := rfl
@[simp] theorem State.setPort_nextJob (s : State) (n : Nat) (p : Port) : (s.setPort n p).nextJob = s.nextJob := rfl
@[simp] theorem State.setPort_cores (s : State) (n : Nat) (p : Port) : (s.setPort n p).cores = s.cores := rfl
@[simp] theorem State.setPort_counters (s : State) (n : Nat) (p : Port) : (s.setPort n p).counters = s.counters := rfl
@[simp] theorem State.setPort_updates (s : State) (n : Nat) (p : Port) : (s.setPort n p).updates = s.updates := rfl
@[simp] theorem State.setPort_flights (s : State) (n : Nat) (p : Port) : (s.setPort n p).flights = s.flights := rfl
@[simp] theorem State.setPort_sy (s : State) (n : Nat) (p : Port) : (s.setPort n p).sy = s.sy := rfl
@[simp] theorem State.setPort_sec (s : State) (n : Nat) (p : Port) : (s.setPort n p).sec = s.sec := rfl
@[simp] theorem State.setPort_tw (s : State) (n : Nat) (p : Port) : (s.setPort n p).tw = s.tw := rfl
@[simp] theorem State.setPort_links (s : State) (n : Nat) (p : Port) : (s.setPort n p).links = s.links := rfl
@[simp] theorem State.setPort_fr (s : State) (n : Nat) (p : Port) : (s.setPort n p).fr = s.fr := rfl
@[simp] theorem State.setPort_chime (s : State) (n : Nat) (p : Port) : (s.setPort n p).chime = s.chime := rfl
@[simp] theorem State.setPort_obs (s : State) (n : Nat) (p : Port) : (s.setPort n p).obs = s.obs := rfl
@[simp] theorem State.setPort_tap (s : State) (n : Nat) (p : Port) : (s.setPort n p).tap = s.tap := rfl
@[simp] theorem State.setPort_freeCount (s : State) (n : Nat) (p : Port) : (s.setPort n p).freeCount = s.freeCount := rfl
@[simp] theorem State.setPort_core (s : State) (n : Nat) (p : Port) (m : Nat) : (s.setPort n p).core m = s.core m := rfl
@[simp] theorem State.setPort_queue (s : State) (n : Nat) (p : Port) (m : Nat) : (s.setPort n p).queue m = s.queue m := rfl
@[simp] theorem State.setPort_ctx (s : State) (n : Nat) (p : Port) (m : Nat) : (s.setPort n p).ctx m = s.ctx m := rfl
@[simp] theorem State.setPort_inst (s : State) (n : Nat) (p : Port) (m : Nat) : (s.setPort n p).inst m = s.inst m := rfl
@[simp] theorem State.setPort_obj (s : State) (n : Nat) (p : Port) (m : Nat) : (s.setPort n p).obj m = s.obj m := rfl
@[simp] theorem State.setPort_gen (s : State) (n : Nat) (p : Port) (m : Nat) : (s.setPort n p).gen m = s.gen m := rfl
@[simp] theorem State.setPort_counter (s : State) (n : Nat) (p : Port) (m : Nat) : (s.setPort n p).counter m = s.counter m := rfl
@[simp] theorem State.setPort_flight (s : State) (n : Nat) (p : Port) (m : Nat) : (s.setPort n p).flight m = s.flight m := rfl
@[simp] theorem State.setPort_link (s : State) (n : Nat) (p : Port) (m : Nat) : (s.setPort n p).link m = s.link m := rfl
@[simp] theorem State.setPort_rgPart (s : State) (n : Nat) (p : Port) (m : Nat) : (s.setPort n p).rgPart m = s.rgPart m := rfl
@[simp] theorem State.setPort_job (s : State) (n : Nat) (p : Port) (m : Nat) : (s.setPort n p).job m = s.job m := rfl
@[simp] theorem State.setPort_page (s : State) (n : Nat) (p : Port) (m : Nat) : (s.setPort n p).page m = s.page m := rfl
@[simp] theorem State.setPort_port (s : State) (n : Nat) (p : Port) : (s.setPort n p).port n = p := tget_tput_self _ _ _ _
theorem State.setPort_port_ne (s : State) (n : Nat) (p : Port) (m : Nat) (h : m ≠ n) : (s.setPort n p).port m = s.port m := tget_tput_ne _ _ _ _ _ h

/-! ### setRgPart -/

@[simp] theorem State.setRgPart_pending (s : State) (n : Nat) (p : RgPart) : (s.setRgPart n p).pending = s.pending := rfl
@[simp] theorem State.setRgPart_fuse (s : State) (n : Nat) (p : RgPart) : (s.setRgPart n p).fuse = s.fuse := rfl
@[simp] theorem State.setRgPart_boot (s : State) (n : Nat) (p : RgPart) : (s.setRgPart n p).boot = s.boot := rfl
@[simp] theorem State.setRgPart_frozen (s : State) (n : Nat) (p : RgPart) : (s.setRgPart n p).frozen = s.frozen := rfl
@[simp] theorem State.setRgPart_ports (s : State) (n : Nat) (p : RgPart) : (s.setRgPart n p).ports = s.ports := rfl
@[simp] theorem State.setRgPart_writes (s : State) (n : Nat) (p : RgPart) : (s.setRgPart n p).writes = s.writes := rfl
@[simp] theorem State.setRgPart_mem (s : State) (n : Nat) (p : RgPart) : (s.setRgPart n p).mem = s.mem := rfl
@[simp] theorem State.setRgPart_poison (s : State) (n : Nat) (p : RgPart) : (s.setRgPart n p).poison = s.poison := rfl
@[simp] theorem State.setRgPart_esc (s : State) (n : Nat) (p : RgPart) : (s.setRgPart n p).esc = s.esc := rfl
@[simp] theorem State.setRgPart_au (s : State) (n : Nat) (p : RgPart) : (s.setRgPart n p).au = s.au := rfl
@[simp] theorem State.setRgPart_run (s : State) (n : Nat) (p : RgPart) : (s.setRgPart n p).run = s.run := rfl
@[simp] theorem State.setRgPart_basin (s : State) (n : Nat) (p : RgPart) : (s.setRgPart n p).basin = s.basin := rfl
@[simp] theorem State.setRgPart_pool (s : State) (n : Nat) (p : RgPart) : (s.setRgPart n p).pool = s.pool := rfl
@[simp] theorem State.setRgPart_kp (s : State) (n : Nat) (p : RgPart) : (s.setRgPart n p).kp = s.kp := rfl
@[simp] theorem State.setRgPart_gens (s : State) (n : Nat) (p : RgPart) : (s.setRgPart n p).gens = s.gens := rfl
@[simp] theorem State.setRgPart_objs (s : State) (n : Nat) (p : RgPart) : (s.setRgPart n p).objs = s.objs := rfl
@[simp] theorem State.setRgPart_ctxs (s : State) (n : Nat) (p : RgPart) : (s.setRgPart n p).ctxs = s.ctxs := rfl
@[simp] theorem State.setRgPart_queues (s : State) (n : Nat) (p : RgPart) : (s.setRgPart n p).queues = s.queues := rfl
@[simp] theorem State.setRgPart_insts (s : State) (n : Nat) (p : RgPart) : (s.setRgPart n p).insts = s.insts := rfl
@[simp] theorem State.setRgPart_shares (s : State) (n : Nat) (p : RgPart) : (s.setRgPart n p).shares = s.shares := rfl
@[simp] theorem State.setRgPart_rg (s : State) (n : Nat) (p : RgPart) : (s.setRgPart n p).rg = s.rg := rfl
@[simp] theorem State.setRgPart_jobs (s : State) (n : Nat) (p : RgPart) : (s.setRgPart n p).jobs = s.jobs := rfl
@[simp] theorem State.setRgPart_nextJob (s : State) (n : Nat) (p : RgPart) : (s.setRgPart n p).nextJob = s.nextJob := rfl
@[simp] theorem State.setRgPart_cores (s : State) (n : Nat) (p : RgPart) : (s.setRgPart n p).cores = s.cores := rfl
@[simp] theorem State.setRgPart_counters (s : State) (n : Nat) (p : RgPart) : (s.setRgPart n p).counters = s.counters := rfl
@[simp] theorem State.setRgPart_updates (s : State) (n : Nat) (p : RgPart) : (s.setRgPart n p).updates = s.updates := rfl
@[simp] theorem State.setRgPart_flights (s : State) (n : Nat) (p : RgPart) : (s.setRgPart n p).flights = s.flights := rfl
@[simp] theorem State.setRgPart_sy (s : State) (n : Nat) (p : RgPart) : (s.setRgPart n p).sy = s.sy := rfl
@[simp] theorem State.setRgPart_sec (s : State) (n : Nat) (p : RgPart) : (s.setRgPart n p).sec = s.sec := rfl
@[simp] theorem State.setRgPart_tw (s : State) (n : Nat) (p : RgPart) : (s.setRgPart n p).tw = s.tw := rfl
@[simp] theorem State.setRgPart_links (s : State) (n : Nat) (p : RgPart) : (s.setRgPart n p).links = s.links := rfl
@[simp] theorem State.setRgPart_fr (s : State) (n : Nat) (p : RgPart) : (s.setRgPart n p).fr = s.fr := rfl
@[simp] theorem State.setRgPart_chime (s : State) (n : Nat) (p : RgPart) : (s.setRgPart n p).chime = s.chime := rfl
@[simp] theorem State.setRgPart_obs (s : State) (n : Nat) (p : RgPart) : (s.setRgPart n p).obs = s.obs := rfl
@[simp] theorem State.setRgPart_tap (s : State) (n : Nat) (p : RgPart) : (s.setRgPart n p).tap = s.tap := rfl
@[simp] theorem State.setRgPart_freeCount (s : State) (n : Nat) (p : RgPart) : (s.setRgPart n p).freeCount = s.freeCount := rfl
@[simp] theorem State.setRgPart_core (s : State) (n : Nat) (p : RgPart) (m : Nat) : (s.setRgPart n p).core m = s.core m := rfl
@[simp] theorem State.setRgPart_queue (s : State) (n : Nat) (p : RgPart) (m : Nat) : (s.setRgPart n p).queue m = s.queue m := rfl
@[simp] theorem State.setRgPart_ctx (s : State) (n : Nat) (p : RgPart) (m : Nat) : (s.setRgPart n p).ctx m = s.ctx m := rfl
@[simp] theorem State.setRgPart_inst (s : State) (n : Nat) (p : RgPart) (m : Nat) : (s.setRgPart n p).inst m = s.inst m := rfl
@[simp] theorem State.setRgPart_obj (s : State) (n : Nat) (p : RgPart) (m : Nat) : (s.setRgPart n p).obj m = s.obj m := rfl
@[simp] theorem State.setRgPart_gen (s : State) (n : Nat) (p : RgPart) (m : Nat) : (s.setRgPart n p).gen m = s.gen m := rfl
@[simp] theorem State.setRgPart_counter (s : State) (n : Nat) (p : RgPart) (m : Nat) : (s.setRgPart n p).counter m = s.counter m := rfl
@[simp] theorem State.setRgPart_flight (s : State) (n : Nat) (p : RgPart) (m : Nat) : (s.setRgPart n p).flight m = s.flight m := rfl
@[simp] theorem State.setRgPart_link (s : State) (n : Nat) (p : RgPart) (m : Nat) : (s.setRgPart n p).link m = s.link m := rfl
@[simp] theorem State.setRgPart_port (s : State) (n : Nat) (p : RgPart) (m : Nat) : (s.setRgPart n p).port m = s.port m := rfl
@[simp] theorem State.setRgPart_job (s : State) (n : Nat) (p : RgPart) (m : Nat) : (s.setRgPart n p).job m = s.job m := rfl
@[simp] theorem State.setRgPart_page (s : State) (n : Nat) (p : RgPart) (m : Nat) : (s.setRgPart n p).page m = s.page m := rfl
@[simp] theorem State.setRgPart_rgPart (s : State) (n : Nat) (p : RgPart) : (s.setRgPart n p).rgPart n = p := tget_tput_self _ _ _ _
theorem State.setRgPart_rgPart_ne (s : State) (n : Nat) (p : RgPart) (m : Nat) (h : m ≠ n) : (s.setRgPart n p).rgPart m = s.rgPart m := tget_tput_ne _ _ _ _ _ h

/-! ### setJob -/

@[simp] theorem State.setJob_pending (s : State) (n : Nat) (j : Job) : (s.setJob n j).pending = s.pending := rfl
@[simp] theorem State.setJob_fuse (s : State) (n : Nat) (j : Job) : (s.setJob n j).fuse = s.fuse := rfl
@[simp] theorem State.setJob_boot (s : State) (n : Nat) (j : Job) : (s.setJob n j).boot = s.boot := rfl
@[simp] theorem State.setJob_frozen (s : State) (n : Nat) (j : Job) : (s.setJob n j).frozen = s.frozen := rfl
@[simp] theorem State.setJob_ports (s : State) (n : Nat) (j : Job) : (s.setJob n j).ports = s.ports := rfl
@[simp] theorem State.setJob_writes (s : State) (n : Nat) (j : Job) : (s.setJob n j).writes = s.writes := rfl
@[simp] theorem State.setJob_mem (s : State) (n : Nat) (j : Job) : (s.setJob n j).mem = s.mem := rfl
@[simp] theorem State.setJob_poison (s : State) (n : Nat) (j : Job) : (s.setJob n j).poison = s.poison := rfl
@[simp] theorem State.setJob_esc (s : State) (n : Nat) (j : Job) : (s.setJob n j).esc = s.esc := rfl
@[simp] theorem State.setJob_au (s : State) (n : Nat) (j : Job) : (s.setJob n j).au = s.au := rfl
@[simp] theorem State.setJob_run (s : State) (n : Nat) (j : Job) : (s.setJob n j).run = s.run := rfl
@[simp] theorem State.setJob_basin (s : State) (n : Nat) (j : Job) : (s.setJob n j).basin = s.basin := rfl
@[simp] theorem State.setJob_pool (s : State) (n : Nat) (j : Job) : (s.setJob n j).pool = s.pool := rfl
@[simp] theorem State.setJob_kp (s : State) (n : Nat) (j : Job) : (s.setJob n j).kp = s.kp := rfl
@[simp] theorem State.setJob_gens (s : State) (n : Nat) (j : Job) : (s.setJob n j).gens = s.gens := rfl
@[simp] theorem State.setJob_objs (s : State) (n : Nat) (j : Job) : (s.setJob n j).objs = s.objs := rfl
@[simp] theorem State.setJob_ctxs (s : State) (n : Nat) (j : Job) : (s.setJob n j).ctxs = s.ctxs := rfl
@[simp] theorem State.setJob_queues (s : State) (n : Nat) (j : Job) : (s.setJob n j).queues = s.queues := rfl
@[simp] theorem State.setJob_insts (s : State) (n : Nat) (j : Job) : (s.setJob n j).insts = s.insts := rfl
@[simp] theorem State.setJob_shares (s : State) (n : Nat) (j : Job) : (s.setJob n j).shares = s.shares := rfl
@[simp] theorem State.setJob_rg (s : State) (n : Nat) (j : Job) : (s.setJob n j).rg = s.rg := rfl
@[simp] theorem State.setJob_rgParts (s : State) (n : Nat) (j : Job) : (s.setJob n j).rgParts = s.rgParts := rfl
@[simp] theorem State.setJob_nextJob (s : State) (n : Nat) (j : Job) : (s.setJob n j).nextJob = s.nextJob := rfl
@[simp] theorem State.setJob_cores (s : State) (n : Nat) (j : Job) : (s.setJob n j).cores = s.cores := rfl
@[simp] theorem State.setJob_counters (s : State) (n : Nat) (j : Job) : (s.setJob n j).counters = s.counters := rfl
@[simp] theorem State.setJob_updates (s : State) (n : Nat) (j : Job) : (s.setJob n j).updates = s.updates := rfl
@[simp] theorem State.setJob_flights (s : State) (n : Nat) (j : Job) : (s.setJob n j).flights = s.flights := rfl
@[simp] theorem State.setJob_sy (s : State) (n : Nat) (j : Job) : (s.setJob n j).sy = s.sy := rfl
@[simp] theorem State.setJob_sec (s : State) (n : Nat) (j : Job) : (s.setJob n j).sec = s.sec := rfl
@[simp] theorem State.setJob_tw (s : State) (n : Nat) (j : Job) : (s.setJob n j).tw = s.tw := rfl
@[simp] theorem State.setJob_links (s : State) (n : Nat) (j : Job) : (s.setJob n j).links = s.links := rfl
@[simp] theorem State.setJob_fr (s : State) (n : Nat) (j : Job) : (s.setJob n j).fr = s.fr := rfl
@[simp] theorem State.setJob_chime (s : State) (n : Nat) (j : Job) : (s.setJob n j).chime = s.chime := rfl
@[simp] theorem State.setJob_obs (s : State) (n : Nat) (j : Job) : (s.setJob n j).obs = s.obs := rfl
@[simp] theorem State.setJob_tap (s : State) (n : Nat) (j : Job) : (s.setJob n j).tap = s.tap := rfl
@[simp] theorem State.setJob_freeCount (s : State) (n : Nat) (j : Job) : (s.setJob n j).freeCount = s.freeCount := rfl
@[simp] theorem State.setJob_core (s : State) (n : Nat) (j : Job) (m : Nat) : (s.setJob n j).core m = s.core m := rfl
@[simp] theorem State.setJob_queue (s : State) (n : Nat) (j : Job) (m : Nat) : (s.setJob n j).queue m = s.queue m := rfl
@[simp] theorem State.setJob_ctx (s : State) (n : Nat) (j : Job) (m : Nat) : (s.setJob n j).ctx m = s.ctx m := rfl
@[simp] theorem State.setJob_inst (s : State) (n : Nat) (j : Job) (m : Nat) : (s.setJob n j).inst m = s.inst m := rfl
@[simp] theorem State.setJob_obj (s : State) (n : Nat) (j : Job) (m : Nat) : (s.setJob n j).obj m = s.obj m := rfl
@[simp] theorem State.setJob_gen (s : State) (n : Nat) (j : Job) (m : Nat) : (s.setJob n j).gen m = s.gen m := rfl
@[simp] theorem State.setJob_counter (s : State) (n : Nat) (j : Job) (m : Nat) : (s.setJob n j).counter m = s.counter m := rfl
@[simp] theorem State.setJob_flight (s : State) (n : Nat) (j : Job) (m : Nat) : (s.setJob n j).flight m = s.flight m := rfl
@[simp] theorem State.setJob_link (s : State) (n : Nat) (j : Job) (m : Nat) : (s.setJob n j).link m = s.link m := rfl
@[simp] theorem State.setJob_port (s : State) (n : Nat) (j : Job) (m : Nat) : (s.setJob n j).port m = s.port m := rfl
@[simp] theorem State.setJob_rgPart (s : State) (n : Nat) (j : Job) (m : Nat) : (s.setJob n j).rgPart m = s.rgPart m := rfl
@[simp] theorem State.setJob_page (s : State) (n : Nat) (j : Job) (m : Nat) : (s.setJob n j).page m = s.page m := rfl

/-! ### dropJob -/

@[simp] theorem State.dropJob_pending (s : State) (n : Nat) : (s.dropJob n).pending = s.pending := rfl
@[simp] theorem State.dropJob_fuse (s : State) (n : Nat) : (s.dropJob n).fuse = s.fuse := rfl
@[simp] theorem State.dropJob_boot (s : State) (n : Nat) : (s.dropJob n).boot = s.boot := rfl
@[simp] theorem State.dropJob_frozen (s : State) (n : Nat) : (s.dropJob n).frozen = s.frozen := rfl
@[simp] theorem State.dropJob_ports (s : State) (n : Nat) : (s.dropJob n).ports = s.ports := rfl
@[simp] theorem State.dropJob_writes (s : State) (n : Nat) : (s.dropJob n).writes = s.writes := rfl
@[simp] theorem State.dropJob_mem (s : State) (n : Nat) : (s.dropJob n).mem = s.mem := rfl
@[simp] theorem State.dropJob_poison (s : State) (n : Nat) : (s.dropJob n).poison = s.poison := rfl
@[simp] theorem State.dropJob_esc (s : State) (n : Nat) : (s.dropJob n).esc = s.esc := rfl
@[simp] theorem State.dropJob_au (s : State) (n : Nat) : (s.dropJob n).au = s.au := rfl
@[simp] theorem State.dropJob_run (s : State) (n : Nat) : (s.dropJob n).run = s.run := rfl
@[simp] theorem State.dropJob_basin (s : State) (n : Nat) : (s.dropJob n).basin = s.basin := rfl
@[simp] theorem State.dropJob_pool (s : State) (n : Nat) : (s.dropJob n).pool = s.pool := rfl
@[simp] theorem State.dropJob_kp (s : State) (n : Nat) : (s.dropJob n).kp = s.kp := rfl
@[simp] theorem State.dropJob_gens (s : State) (n : Nat) : (s.dropJob n).gens = s.gens := rfl
@[simp] theorem State.dropJob_objs (s : State) (n : Nat) : (s.dropJob n).objs = s.objs := rfl
@[simp] theorem State.dropJob_ctxs (s : State) (n : Nat) : (s.dropJob n).ctxs = s.ctxs := rfl
@[simp] theorem State.dropJob_queues (s : State) (n : Nat) : (s.dropJob n).queues = s.queues := rfl
@[simp] theorem State.dropJob_insts (s : State) (n : Nat) : (s.dropJob n).insts = s.insts := rfl
@[simp] theorem State.dropJob_shares (s : State) (n : Nat) : (s.dropJob n).shares = s.shares := rfl
@[simp] theorem State.dropJob_rg (s : State) (n : Nat) : (s.dropJob n).rg = s.rg := rfl
@[simp] theorem State.dropJob_rgParts (s : State) (n : Nat) : (s.dropJob n).rgParts = s.rgParts := rfl
@[simp] theorem State.dropJob_nextJob (s : State) (n : Nat) : (s.dropJob n).nextJob = s.nextJob := rfl
@[simp] theorem State.dropJob_cores (s : State) (n : Nat) : (s.dropJob n).cores = s.cores := rfl
@[simp] theorem State.dropJob_counters (s : State) (n : Nat) : (s.dropJob n).counters = s.counters := rfl
@[simp] theorem State.dropJob_updates (s : State) (n : Nat) : (s.dropJob n).updates = s.updates := rfl
@[simp] theorem State.dropJob_flights (s : State) (n : Nat) : (s.dropJob n).flights = s.flights := rfl
@[simp] theorem State.dropJob_sy (s : State) (n : Nat) : (s.dropJob n).sy = s.sy := rfl
@[simp] theorem State.dropJob_sec (s : State) (n : Nat) : (s.dropJob n).sec = s.sec := rfl
@[simp] theorem State.dropJob_tw (s : State) (n : Nat) : (s.dropJob n).tw = s.tw := rfl
@[simp] theorem State.dropJob_links (s : State) (n : Nat) : (s.dropJob n).links = s.links := rfl
@[simp] theorem State.dropJob_fr (s : State) (n : Nat) : (s.dropJob n).fr = s.fr := rfl
@[simp] theorem State.dropJob_chime (s : State) (n : Nat) : (s.dropJob n).chime = s.chime := rfl
@[simp] theorem State.dropJob_obs (s : State) (n : Nat) : (s.dropJob n).obs = s.obs := rfl
@[simp] theorem State.dropJob_tap (s : State) (n : Nat) : (s.dropJob n).tap = s.tap := rfl
@[simp] theorem State.dropJob_freeCount (s : State) (n : Nat) : (s.dropJob n).freeCount = s.freeCount := rfl
@[simp] theorem State.dropJob_core (s : State) (n : Nat) (m : Nat) : (s.dropJob n).core m = s.core m := rfl
@[simp] theorem State.dropJob_queue (s : State) (n : Nat) (m : Nat) : (s.dropJob n).queue m = s.queue m := rfl
@[simp] theorem State.dropJob_ctx (s : State) (n : Nat) (m : Nat) : (s.dropJob n).ctx m = s.ctx m := rfl
@[simp] theorem State.dropJob_inst (s : State) (n : Nat) (m : Nat) : (s.dropJob n).inst m = s.inst m := rfl
@[simp] theorem State.dropJob_obj (s : State) (n : Nat) (m : Nat) : (s.dropJob n).obj m = s.obj m := rfl
@[simp] theorem State.dropJob_gen (s : State) (n : Nat) (m : Nat) : (s.dropJob n).gen m = s.gen m := rfl
@[simp] theorem State.dropJob_counter (s : State) (n : Nat) (m : Nat) : (s.dropJob n).counter m = s.counter m := rfl
@[simp] theorem State.dropJob_flight (s : State) (n : Nat) (m : Nat) : (s.dropJob n).flight m = s.flight m := rfl
@[simp] theorem State.dropJob_link (s : State) (n : Nat) (m : Nat) : (s.dropJob n).link m = s.link m := rfl
@[simp] theorem State.dropJob_port (s : State) (n : Nat) (m : Nat) : (s.dropJob n).port m = s.port m := rfl
@[simp] theorem State.dropJob_rgPart (s : State) (n : Nat) (m : Nat) : (s.dropJob n).rgPart m = s.rgPart m := rfl
@[simp] theorem State.dropJob_page (s : State) (n : Nat) (m : Nat) : (s.dropJob n).page m = s.page m := rfl

/-! ### setSrc -/

@[simp] theorem State.setSrc_pending (s : State) (n : Nat) (x : Src) : (s.setSrc n x).pending = s.pending := rfl
@[simp] theorem State.setSrc_fuse (s : State) (n : Nat) (x : Src) : (s.setSrc n x).fuse = s.fuse := rfl
@[simp] theorem State.setSrc_boot (s : State) (n : Nat) (x : Src) : (s.setSrc n x).boot = s.boot := rfl
@[simp] theorem State.setSrc_frozen (s : State) (n : Nat) (x : Src) : (s.setSrc n x).frozen = s.frozen := rfl
@[simp] theorem State.setSrc_ports (s : State) (n : Nat) (x : Src) : (s.setSrc n x).ports = s.ports := rfl
@[simp] theorem State.setSrc_writes (s : State) (n : Nat) (x : Src) : (s.setSrc n x).writes = s.writes := rfl
@[simp] theorem State.setSrc_mem (s : State) (n : Nat) (x : Src) : (s.setSrc n x).mem = s.mem := rfl
@[simp] theorem State.setSrc_poison (s : State) (n : Nat) (x : Src) : (s.setSrc n x).poison = s.poison := rfl
@[simp] theorem State.setSrc_esc (s : State) (n : Nat) (x : Src) : (s.setSrc n x).esc = s.esc := rfl
@[simp] theorem State.setSrc_au (s : State) (n : Nat) (x : Src) : (s.setSrc n x).au = s.au := rfl
@[simp] theorem State.setSrc_run (s : State) (n : Nat) (x : Src) : (s.setSrc n x).run = s.run := rfl
@[simp] theorem State.setSrc_basin (s : State) (n : Nat) (x : Src) : (s.setSrc n x).basin = s.basin := rfl
@[simp] theorem State.setSrc_pool (s : State) (n : Nat) (x : Src) : (s.setSrc n x).pool = s.pool := rfl
@[simp] theorem State.setSrc_kp (s : State) (n : Nat) (x : Src) : (s.setSrc n x).kp = s.kp := rfl
@[simp] theorem State.setSrc_gens (s : State) (n : Nat) (x : Src) : (s.setSrc n x).gens = s.gens := rfl
@[simp] theorem State.setSrc_objs (s : State) (n : Nat) (x : Src) : (s.setSrc n x).objs = s.objs := rfl
@[simp] theorem State.setSrc_ctxs (s : State) (n : Nat) (x : Src) : (s.setSrc n x).ctxs = s.ctxs := rfl
@[simp] theorem State.setSrc_queues (s : State) (n : Nat) (x : Src) : (s.setSrc n x).queues = s.queues := rfl
@[simp] theorem State.setSrc_insts (s : State) (n : Nat) (x : Src) : (s.setSrc n x).insts = s.insts := rfl
@[simp] theorem State.setSrc_shares (s : State) (n : Nat) (x : Src) : (s.setSrc n x).shares = s.shares := rfl
@[simp] theorem State.setSrc_rg (s : State) (n : Nat) (x : Src) : (s.setSrc n x).rg = s.rg := rfl
@[simp] theorem State.setSrc_rgParts (s : State) (n : Nat) (x : Src) : (s.setSrc n x).rgParts = s.rgParts := rfl
@[simp] theorem State.setSrc_jobs (s : State) (n : Nat) (x : Src) : (s.setSrc n x).jobs = s.jobs := rfl
@[simp] theorem State.setSrc_nextJob (s : State) (n : Nat) (x : Src) : (s.setSrc n x).nextJob = s.nextJob := rfl
@[simp] theorem State.setSrc_cores (s : State) (n : Nat) (x : Src) : (s.setSrc n x).cores = s.cores := rfl
@[simp] theorem State.setSrc_counters (s : State) (n : Nat) (x : Src) : (s.setSrc n x).counters = s.counters := rfl
@[simp] theorem State.setSrc_updates (s : State) (n : Nat) (x : Src) : (s.setSrc n x).updates = s.updates := rfl
@[simp] theorem State.setSrc_flights (s : State) (n : Nat) (x : Src) : (s.setSrc n x).flights = s.flights := rfl
@[simp] theorem State.setSrc_sy (s : State) (n : Nat) (x : Src) : (s.setSrc n x).sy = s.sy := rfl
@[simp] theorem State.setSrc_sec (s : State) (n : Nat) (x : Src) : (s.setSrc n x).sec = s.sec := rfl
@[simp] theorem State.setSrc_tw (s : State) (n : Nat) (x : Src) : (s.setSrc n x).tw = s.tw := rfl
@[simp] theorem State.setSrc_links (s : State) (n : Nat) (x : Src) : (s.setSrc n x).links = s.links := rfl
@[simp] theorem State.setSrc_fr (s : State) (n : Nat) (x : Src) : (s.setSrc n x).fr = s.fr := rfl
@[simp] theorem State.setSrc_obs (s : State) (n : Nat) (x : Src) : (s.setSrc n x).obs = s.obs := rfl
@[simp] theorem State.setSrc_tap (s : State) (n : Nat) (x : Src) : (s.setSrc n x).tap = s.tap := rfl
@[simp] theorem State.setSrc_freeCount (s : State) (n : Nat) (x : Src) : (s.setSrc n x).freeCount = s.freeCount := rfl
@[simp] theorem State.setSrc_core (s : State) (n : Nat) (x : Src) (m : Nat) : (s.setSrc n x).core m = s.core m := rfl
@[simp] theorem State.setSrc_queue (s : State) (n : Nat) (x : Src) (m : Nat) : (s.setSrc n x).queue m = s.queue m := rfl
@[simp] theorem State.setSrc_ctx (s : State) (n : Nat) (x : Src) (m : Nat) : (s.setSrc n x).ctx m = s.ctx m := rfl
@[simp] theorem State.setSrc_inst (s : State) (n : Nat) (x : Src) (m : Nat) : (s.setSrc n x).inst m = s.inst m := rfl
@[simp] theorem State.setSrc_obj (s : State) (n : Nat) (x : Src) (m : Nat) : (s.setSrc n x).obj m = s.obj m := rfl
@[simp] theorem State.setSrc_gen (s : State) (n : Nat) (x : Src) (m : Nat) : (s.setSrc n x).gen m = s.gen m := rfl
@[simp] theorem State.setSrc_counter (s : State) (n : Nat) (x : Src) (m : Nat) : (s.setSrc n x).counter m = s.counter m := rfl
@[simp] theorem State.setSrc_flight (s : State) (n : Nat) (x : Src) (m : Nat) : (s.setSrc n x).flight m = s.flight m := rfl
@[simp] theorem State.setSrc_link (s : State) (n : Nat) (x : Src) (m : Nat) : (s.setSrc n x).link m = s.link m := rfl
@[simp] theorem State.setSrc_port (s : State) (n : Nat) (x : Src) (m : Nat) : (s.setSrc n x).port m = s.port m := rfl
@[simp] theorem State.setSrc_rgPart (s : State) (n : Nat) (x : Src) (m : Nat) : (s.setSrc n x).rgPart m = s.rgPart m := rfl
@[simp] theorem State.setSrc_job (s : State) (n : Nat) (x : Src) (m : Nat) : (s.setSrc n x).job m = s.job m := rfl
@[simp] theorem State.setSrc_page (s : State) (n : Nat) (x : Src) (m : Nat) : (s.setSrc n x).page m = s.page m := rfl

/-! ### setTarget -/

@[simp] theorem State.setTarget_pending (s : State) (n : Nat) (x : Target) : (s.setTarget n x).pending = s.pending := rfl
@[simp] theorem State.setTarget_fuse (s : State) (n : Nat) (x : Target) : (s.setTarget n x).fuse = s.fuse := rfl
@[simp] theorem State.setTarget_boot (s : State) (n : Nat) (x : Target) : (s.setTarget n x).boot = s.boot := rfl
@[simp] theorem State.setTarget_frozen (s : State) (n : Nat) (x : Target) : (s.setTarget n x).frozen = s.frozen := rfl
@[simp] theorem State.setTarget_ports (s : State) (n : Nat) (x : Target) : (s.setTarget n x).ports = s.ports := rfl
@[simp] theorem State.setTarget_writes (s : State) (n : Nat) (x : Target) : (s.setTarget n x).writes = s.writes := rfl
@[simp] theorem State.setTarget_mem (s : State) (n : Nat) (x : Target) : (s.setTarget n x).mem = s.mem := rfl
@[simp] theorem State.setTarget_poison (s : State) (n : Nat) (x : Target) : (s.setTarget n x).poison = s.poison := rfl
@[simp] theorem State.setTarget_esc (s : State) (n : Nat) (x : Target) : (s.setTarget n x).esc = s.esc := rfl
@[simp] theorem State.setTarget_au (s : State) (n : Nat) (x : Target) : (s.setTarget n x).au = s.au := rfl
@[simp] theorem State.setTarget_run (s : State) (n : Nat) (x : Target) : (s.setTarget n x).run = s.run := rfl
@[simp] theorem State.setTarget_basin (s : State) (n : Nat) (x : Target) : (s.setTarget n x).basin = s.basin := rfl
@[simp] theorem State.setTarget_pool (s : State) (n : Nat) (x : Target) : (s.setTarget n x).pool = s.pool := rfl
@[simp] theorem State.setTarget_kp (s : State) (n : Nat) (x : Target) : (s.setTarget n x).kp = s.kp := rfl
@[simp] theorem State.setTarget_gens (s : State) (n : Nat) (x : Target) : (s.setTarget n x).gens = s.gens := rfl
@[simp] theorem State.setTarget_objs (s : State) (n : Nat) (x : Target) : (s.setTarget n x).objs = s.objs := rfl
@[simp] theorem State.setTarget_ctxs (s : State) (n : Nat) (x : Target) : (s.setTarget n x).ctxs = s.ctxs := rfl
@[simp] theorem State.setTarget_queues (s : State) (n : Nat) (x : Target) : (s.setTarget n x).queues = s.queues := rfl
@[simp] theorem State.setTarget_insts (s : State) (n : Nat) (x : Target) : (s.setTarget n x).insts = s.insts := rfl
@[simp] theorem State.setTarget_shares (s : State) (n : Nat) (x : Target) : (s.setTarget n x).shares = s.shares := rfl
@[simp] theorem State.setTarget_rg (s : State) (n : Nat) (x : Target) : (s.setTarget n x).rg = s.rg := rfl
@[simp] theorem State.setTarget_rgParts (s : State) (n : Nat) (x : Target) : (s.setTarget n x).rgParts = s.rgParts := rfl
@[simp] theorem State.setTarget_jobs (s : State) (n : Nat) (x : Target) : (s.setTarget n x).jobs = s.jobs := rfl
@[simp] theorem State.setTarget_nextJob (s : State) (n : Nat) (x : Target) : (s.setTarget n x).nextJob = s.nextJob := rfl
@[simp] theorem State.setTarget_cores (s : State) (n : Nat) (x : Target) : (s.setTarget n x).cores = s.cores := rfl
@[simp] theorem State.setTarget_counters (s : State) (n : Nat) (x : Target) : (s.setTarget n x).counters = s.counters := rfl
@[simp] theorem State.setTarget_updates (s : State) (n : Nat) (x : Target) : (s.setTarget n x).updates = s.updates := rfl
@[simp] theorem State.setTarget_flights (s : State) (n : Nat) (x : Target) : (s.setTarget n x).flights = s.flights := rfl
@[simp] theorem State.setTarget_sy (s : State) (n : Nat) (x : Target) : (s.setTarget n x).sy = s.sy := rfl
@[simp] theorem State.setTarget_sec (s : State) (n : Nat) (x : Target) : (s.setTarget n x).sec = s.sec := rfl
@[simp] theorem State.setTarget_tw (s : State) (n : Nat) (x : Target) : (s.setTarget n x).tw = s.tw := rfl
@[simp] theorem State.setTarget_links (s : State) (n : Nat) (x : Target) : (s.setTarget n x).links = s.links := rfl
@[simp] theorem State.setTarget_fr (s : State) (n : Nat) (x : Target) : (s.setTarget n x).fr = s.fr := rfl
@[simp] theorem State.setTarget_obs (s : State) (n : Nat) (x : Target) : (s.setTarget n x).obs = s.obs := rfl
@[simp] theorem State.setTarget_tap (s : State) (n : Nat) (x : Target) : (s.setTarget n x).tap = s.tap := rfl
@[simp] theorem State.setTarget_freeCount (s : State) (n : Nat) (x : Target) : (s.setTarget n x).freeCount = s.freeCount := rfl
@[simp] theorem State.setTarget_core (s : State) (n : Nat) (x : Target) (m : Nat) : (s.setTarget n x).core m = s.core m := rfl
@[simp] theorem State.setTarget_queue (s : State) (n : Nat) (x : Target) (m : Nat) : (s.setTarget n x).queue m = s.queue m := rfl
@[simp] theorem State.setTarget_ctx (s : State) (n : Nat) (x : Target) (m : Nat) : (s.setTarget n x).ctx m = s.ctx m := rfl
@[simp] theorem State.setTarget_inst (s : State) (n : Nat) (x : Target) (m : Nat) : (s.setTarget n x).inst m = s.inst m := rfl
@[simp] theorem State.setTarget_obj (s : State) (n : Nat) (x : Target) (m : Nat) : (s.setTarget n x).obj m = s.obj m := rfl
@[simp] theorem State.setTarget_gen (s : State) (n : Nat) (x : Target) (m : Nat) : (s.setTarget n x).gen m = s.gen m := rfl
@[simp] theorem State.setTarget_counter (s : State) (n : Nat) (x : Target) (m : Nat) : (s.setTarget n x).counter m = s.counter m := rfl
@[simp] theorem State.setTarget_flight (s : State) (n : Nat) (x : Target) (m : Nat) : (s.setTarget n x).flight m = s.flight m := rfl
@[simp] theorem State.setTarget_link (s : State) (n : Nat) (x : Target) (m : Nat) : (s.setTarget n x).link m = s.link m := rfl
@[simp] theorem State.setTarget_port (s : State) (n : Nat) (x : Target) (m : Nat) : (s.setTarget n x).port m = s.port m := rfl
@[simp] theorem State.setTarget_rgPart (s : State) (n : Nat) (x : Target) (m : Nat) : (s.setTarget n x).rgPart m = s.rgPart m := rfl
@[simp] theorem State.setTarget_job (s : State) (n : Nat) (x : Target) (m : Nat) : (s.setTarget n x).job m = s.job m := rfl
@[simp] theorem State.setTarget_page (s : State) (n : Nat) (x : Target) (m : Nat) : (s.setTarget n x).page m = s.page m := rfl

/-! ### modRun -/

@[simp] theorem State.modRun_pending (s : State) (f : Running → Running) : (s.modRun f).pending = s.pending := rfl
@[simp] theorem State.modRun_fuse (s : State) (f : Running → Running) : (s.modRun f).fuse = s.fuse := rfl
@[simp] theorem State.modRun_boot (s : State) (f : Running → Running) : (s.modRun f).boot = s.boot := rfl
@[simp] theorem State.modRun_frozen (s : State) (f : Running → Running) : (s.modRun f).frozen = s.frozen := rfl
@[simp] theorem State.modRun_ports (s : State) (f : Running → Running) : (s.modRun f).ports = s.ports := rfl
@[simp] theorem State.modRun_writes (s : State) (f : Running → Running) : (s.modRun f).writes = s.writes := rfl
@[simp] theorem State.modRun_mem (s : State) (f : Running → Running) : (s.modRun f).mem = s.mem := rfl
@[simp] theorem State.modRun_poison (s : State) (f : Running → Running) : (s.modRun f).poison = s.poison := rfl
@[simp] theorem State.modRun_esc (s : State) (f : Running → Running) : (s.modRun f).esc = s.esc := rfl
@[simp] theorem State.modRun_au (s : State) (f : Running → Running) : (s.modRun f).au = s.au := rfl
@[simp] theorem State.modRun_basin (s : State) (f : Running → Running) : (s.modRun f).basin = s.basin := rfl
@[simp] theorem State.modRun_pool (s : State) (f : Running → Running) : (s.modRun f).pool = s.pool := rfl
@[simp] theorem State.modRun_kp (s : State) (f : Running → Running) : (s.modRun f).kp = s.kp := rfl
@[simp] theorem State.modRun_gens (s : State) (f : Running → Running) : (s.modRun f).gens = s.gens := rfl
@[simp] theorem State.modRun_objs (s : State) (f : Running → Running) : (s.modRun f).objs = s.objs := rfl
@[simp] theorem State.modRun_ctxs (s : State) (f : Running → Running) : (s.modRun f).ctxs = s.ctxs := rfl
@[simp] theorem State.modRun_queues (s : State) (f : Running → Running) : (s.modRun f).queues = s.queues := rfl
@[simp] theorem State.modRun_insts (s : State) (f : Running → Running) : (s.modRun f).insts = s.insts := rfl
@[simp] theorem State.modRun_shares (s : State) (f : Running → Running) : (s.modRun f).shares = s.shares := rfl
@[simp] theorem State.modRun_rg (s : State) (f : Running → Running) : (s.modRun f).rg = s.rg := rfl
@[simp] theorem State.modRun_rgParts (s : State) (f : Running → Running) : (s.modRun f).rgParts = s.rgParts := rfl
@[simp] theorem State.modRun_jobs (s : State) (f : Running → Running) : (s.modRun f).jobs = s.jobs := rfl
@[simp] theorem State.modRun_nextJob (s : State) (f : Running → Running) : (s.modRun f).nextJob = s.nextJob := rfl
@[simp] theorem State.modRun_cores (s : State) (f : Running → Running) : (s.modRun f).cores = s.cores := rfl
@[simp] theorem State.modRun_counters (s : State) (f : Running → Running) : (s.modRun f).counters = s.counters := rfl
@[simp] theorem State.modRun_updates (s : State) (f : Running → Running) : (s.modRun f).updates = s.updates := rfl
@[simp] theorem State.modRun_flights (s : State) (f : Running → Running) : (s.modRun f).flights = s.flights := rfl
@[simp] theorem State.modRun_sy (s : State) (f : Running → Running) : (s.modRun f).sy = s.sy := rfl
@[simp] theorem State.modRun_sec (s : State) (f : Running → Running) : (s.modRun f).sec = s.sec := rfl
@[simp] theorem State.modRun_tw (s : State) (f : Running → Running) : (s.modRun f).tw = s.tw := rfl
@[simp] theorem State.modRun_links (s : State) (f : Running → Running) : (s.modRun f).links = s.links := rfl
@[simp] theorem State.modRun_fr (s : State) (f : Running → Running) : (s.modRun f).fr = s.fr := rfl
@[simp] theorem State.modRun_chime (s : State) (f : Running → Running) : (s.modRun f).chime = s.chime := rfl
@[simp] theorem State.modRun_obs (s : State) (f : Running → Running) : (s.modRun f).obs = s.obs := rfl
@[simp] theorem State.modRun_tap (s : State) (f : Running → Running) : (s.modRun f).tap = s.tap := rfl
@[simp] theorem State.modRun_freeCount (s : State) (f : Running → Running) : (s.modRun f).freeCount = s.freeCount := rfl
@[simp] theorem State.modRun_core (s : State) (f : Running → Running) (m : Nat) : (s.modRun f).core m = s.core m := rfl
@[simp] theorem State.modRun_queue (s : State) (f : Running → Running) (m : Nat) : (s.modRun f).queue m = s.queue m := rfl
@[simp] theorem State.modRun_ctx (s : State) (f : Running → Running) (m : Nat) : (s.modRun f).ctx m = s.ctx m := rfl
@[simp] theorem State.modRun_inst (s : State) (f : Running → Running) (m : Nat) : (s.modRun f).inst m = s.inst m := rfl
@[simp] theorem State.modRun_obj (s : State) (f : Running → Running) (m : Nat) : (s.modRun f).obj m = s.obj m := rfl
@[simp] theorem State.modRun_gen (s : State) (f : Running → Running) (m : Nat) : (s.modRun f).gen m = s.gen m := rfl
@[simp] theorem State.modRun_counter (s : State) (f : Running → Running) (m : Nat) : (s.modRun f).counter m = s.counter m := rfl
@[simp] theorem State.modRun_flight (s : State) (f : Running → Running) (m : Nat) : (s.modRun f).flight m = s.flight m := rfl
@[simp] theorem State.modRun_link (s : State) (f : Running → Running) (m : Nat) : (s.modRun f).link m = s.link m := rfl
@[simp] theorem State.modRun_port (s : State) (f : Running → Running) (m : Nat) : (s.modRun f).port m = s.port m := rfl
@[simp] theorem State.modRun_rgPart (s : State) (f : Running → Running) (m : Nat) : (s.modRun f).rgPart m = s.rgPart m := rfl
@[simp] theorem State.modRun_job (s : State) (f : Running → Running) (m : Nat) : (s.modRun f).job m = s.job m := rfl
@[simp] theorem State.modRun_page (s : State) (f : Running → Running) (m : Nat) : (s.modRun f).page m = s.page m := rfl

@[simp] theorem State.setJob_job (s : State) (n : Nat) (j : Job) : (s.setJob n j).job n = some j := tfind_tput_self _ _ _
theorem State.setJob_job_ne (s : State) (n : Nat) (j : Job) (m : Nat) (h : m ≠ n) : (s.setJob n j).job m = s.job m := tfind_tput_ne _ _ _ _ h
@[simp] theorem State.dropJob_job (s : State) (n : Nat) : (s.dropJob n).job n = none := tfind_tdel_self _ _
theorem State.dropJob_job_ne (s : State) (n m : Nat) (h : m ≠ n) : (s.dropJob n).job m = s.job m := tfind_tdel_ne _ _ _ h
@[simp] theorem State.setSrc_src (s : State) (n : Nat) (x : Src) : (s.setSrc n x).src n = x := tget_tput_self _ _ _ _
theorem State.setSrc_src_ne (s : State) (n : Nat) (x : Src) (m : Nat) (h : m ≠ n) : (s.setSrc n x).src m = s.src m := tget_tput_ne _ _ _ _ _ h
@[simp] theorem State.setTarget_target (s : State) (n : Nat) (x : Target) : (s.setTarget n x).target n = x := tget_tput_self _ _ _ _
@[simp] theorem State.setTarget_src (s : State) (n : Nat) (x : Target) (m : Nat) : (s.setTarget n x).src m = s.src m := rfl
@[simp] theorem State.setSrc_target (s : State) (n : Nat) (x : Src) (m : Nat) : (s.setSrc n x).target m = s.target m := rfl
theorem State.modCore_eq (s : State) (n : Nat) (f : Core → Core) : s.modCore n f = s.setCore n (f (s.core n)) := rfl
theorem State.modQueue_eq (s : State) (n : Nat) (f : Queue → Queue) : s.modQueue n f = s.setQueue n (f (s.queue n)) := rfl
theorem State.modCtx_eq (s : State) (n : Nat) (f : Ctx → Ctx) : s.modCtx n f = s.setCtx n (f (s.ctx n)) := rfl
theorem State.modInst_eq (s : State) (n : Nat) (f : Inst → Inst) : s.modInst n f = s.setInst n (f (s.inst n)) := rfl
theorem State.modObj_eq (s : State) (n : Nat) (f : Obj → Obj) : s.modObj n f = s.setObj n (f (s.obj n)) := rfl
theorem State.modGen_eq (s : State) (n : Nat) (f : Gen → Gen) : s.modGen n f = s.setGen n (f (s.gen n)) := rfl
theorem State.modCounter_eq (s : State) (n : Nat) (f : Counter → Counter) : s.modCounter n f = s.setCounter n (f (s.counter n)) := rfl
theorem State.modLink_eq (s : State) (n : Nat) (f : Link → Link) : s.modLink n f = s.setLink n (f (s.link n)) := rfl
theorem State.modPort_eq (s : State) (n : Nat) (f : Port → Port) : s.modPort n f = s.setPort n (f (s.port n)) := rfl
theorem State.modRgPart_eq (s : State) (n : Nat) (f : RgPart → RgPart) : s.modRgPart n f = s.setRgPart n (f (s.rgPart n)) := rfl
theorem State.modPage_eq (s : State) (n : Nat) (f : Page → Page) : s.modPage n f = s.modInst n fun i => { i with page := f i.page } := rfl

end Sys2Proof.Machine
end

