-- ==== Sys2Proof/Laws/Report.lean ====
section
/-! SUPPORT. What the reporting operations can do: trace frames, Chime events, counts and error records change the Chime, the
observation part, the error records and the count of free values, and nothing else. -/

namespace Sys2Proof.Machine

theorem ObsKept.refl (o : Obs) : ObsKept o o := rfl

theorem ObsKept.trans {o p q : Obs} (h : ObsKept o p) (g : ObsKept p q) : ObsKept o q := by
  unfold ObsKept at *
  rw [g, h]

theorem FrKept.refl (f : Fr) : FrKept f f := rfl

theorem FrKept.trans {f g h : Fr} (a : FrKept f g) (b : FrKept g h) : FrKept f h := by
  unfold FrKept at *
  rw [b, a]

theorem Reports.refl (s : State) : Reports s s := ⟨s.chime, s.obs, s.fr, s.freeCount, rfl, rfl, rfl, rfl, rfl, rfl⟩

theorem Reports.trans {s t u : State} (h : Reports s t) (g : Reports t u) : Reports s u := by
  obtain ⟨c, o, f, n, rfl, h1, h2, h3, h4, h5⟩ := h
  obtain ⟨c, o, f, n, rfl, g1, g2, g3, g4, g5⟩ := g
  exact ⟨c, o, f, n, rfl, h1.trans g1, h2.trans g2, g3.trans h3, g4.trans h4, g5.trans h5⟩

theorem Reports.foldl {α : Type} (f : State → α → State) (h : ∀ s x, Reports s (f s x)) (l : List α) (s : State) :
    Reports s (l.foldl f s) := by
  induction l generalizing s with
  | nil => exact Reports.refl s
  | cons x r ih => exact (h s x).trans (ih (f s x))

theorem traceKeeper_reports (s : State) (type : Nat) (payload : List Byte) : Reports s (traceKeeper s type payload) := by
  unfold traceKeeper
  split
  · exact Reports.refl s
  · split <;> exact ⟨s.chime, _, s.fr, s.freeCount, rfl, rfl, rfl, rfl, rfl, rfl⟩

theorem traceCore_reports (s : State) (c type : Nat) (payload : List Byte) : Reports s (traceCore s c type payload) := by
  unfold traceCore
  split
  · exact ⟨s.chime, _, s.fr, s.freeCount, rfl, rfl, rfl, rfl, rfl, rfl⟩
  · exact Reports.refl s

theorem setSrc_reports (s : State) (n : Nat) (x : Src) : Reports s (s.setSrc n x) := ⟨_, s.obs, s.fr, s.freeCount, rfl, rfl, rfl, rfl, rfl, rfl⟩

theorem setTarget_reports (s : State) (n : Nat) (x : Target) : Reports s (s.setTarget n x) :=
  ⟨_, s.obs, s.fr, s.freeCount, rfl, rfl, rfl, rfl, rfl, rfl⟩

theorem chEvalTarget_reports (s : State) (t : Nat) : Reports s (chEvalTarget s t) := setTarget_reports _ _ _

theorem chEval_reports (s : State) : Reports s (chEval s) := Reports.foldl _ chEvalTarget_reports _ s

theorem chTrace_reports (s : State) (n : Nat) (code : BitVec 16) : Reports s (chTrace s n code) := traceKeeper_reports _ _ _

theorem Reports.sampled {s t : State} (n : Nat) (x : Src) (h : Reports s t) : Reports s (chEval (t.setSrc n x)) :=
  Reports.trans (Reports.trans h (setSrc_reports t n x)) (chEval_reports _)

theorem chSample_eq (s : State) (n : Nat) : chSample s n =
    if s.chRuns then
      chEval ((if (s.src n).eventOn (chSignal s n) then chTrace s n (chLevelInfo s n).1 else s).setSrc n
        ((s.src n).sampleWith (chSignal s n) (chLevelInfo s n).1 (chLevelInfo s n).2))
    else s := rfl

theorem chSample_reports (s : State) (n : Nat) : Reports s (chSample s n) := by
  rw [chSample_eq]
  split
  · refine Reports.sampled _ _ ?_
    split
    · exact chTrace_reports _ _ _
    · exact Reports.refl s
  · exact Reports.refl s

theorem chPulse_reports (s : State) (n : Nat) (code : BitVec 16) (data : W32) : Reports s (chPulse s n code data) := by
  unfold chPulse
  split
  · exact Reports.sampled _ _ (chTrace_reports _ _ _)
  · exact Reports.refl s

theorem chSampleAll_reports (s : State) : Reports s (chSampleAll s) := Reports.foldl _ chSample_reports _ s

theorem chStray_reports (s : State) (n : Nat) : Reports s (chStray s n) := ⟨_, s.obs, s.fr, s.freeCount, rfl, rfl, rfl, rfl, rfl, rfl⟩

theorem chComplete_eq (s : State) (via : Option Nat) (n : Nat) : chComplete s via n =
    if (match via with | none => true | some t => (s.src n).target.toNat == t) && (s.src n).st == .active then
      chEval (s.setSrc n ((s.src n).completeWith (chSignal s n)))
    else chStray s n := rfl

theorem chComplete_reports (s : State) (via : Option Nat) (n : Nat) : Reports s (chComplete s via n) := by
  rw [chComplete_eq]
  generalize ((match via with | none => true | some t => (s.src n).target.toNat == t) && (s.src n).st == .active) = b
  cases b
  rotate_left
  · exact Reports.sampled n _ (Reports.refl s)
  · exact chStray_reports s n

theorem obs_reports (s : State) (o : Obs) (h : ObsKept s.obs o) : Reports s { s with obs := o } :=
  ⟨s.chime, o, s.fr, s.freeCount, rfl, h, rfl, rfl, rfl, rfl⟩

theorem fr_reports (s : State) (f : Fr) (h : FrKept s.fr f) : Reports s { s with fr := f } :=
  ⟨s.chime, s.obs, f, s.freeCount, rfl, rfl, h, rfl, rfl, rfl⟩

theorem pmGlobal_eq (s : State) (slot amount : Nat) : pmGlobal s slot amount =
    if (s.obs.pm.count slot amount).ovf = s.obs.pm.ovf then { s with obs := { s.obs with pm := s.obs.pm.count slot amount } }
    else chSample { s with obs := { s.obs with pm := s.obs.pm.count slot amount, pmLatest := slot } } 108 := rfl

theorem pmGlobal_reports (s : State) (slot amount : Nat) : Reports s (pmGlobal s slot amount) := by
  rw [pmGlobal_eq]
  split
  · exact obs_reports _ _ rfl
  · refine (obs_reports s _ ?_).trans (chSample_reports _ _)
    rfl

theorem accessDeniedId_reports (s : State) (id : Nat) : Reports s (accessDeniedId s id) := chPulse_reports _ _ _ _

theorem accessDenied_reports (s : State) : Reports s (accessDenied s) := accessDeniedId_reports _ _

theorem frSeen_reports (s : State) (cls : Nat) : Reports s (frSeen s cls) := fr_reports _ _ rfl

theorem drawWord_reports (s : State) : Reports s s.drawWord.2 := ⟨s.chime, s.obs, s.fr, _, rfl, rfl, rfl, rfl, rfl, rfl⟩

theorem errRecord_reports (s : State) (cls : Nat) (unit core part : Option Nat) (code : BitVec 16) (addr : Nat) :
    Reports s (errRecord s cls unit core part code addr) := by
  by_cases h : (frSeen s cls).fr.firstValid = true
  · have e : errRecord s cls unit core part code addr = frSeen s cls := if_pos h
    rw [e]
    exact frSeen_reports s cls
  · have e : ∃ f, FrKept (frSeen s cls).fr f ∧
        errRecord s cls unit core part code addr = chSample { (frSeen s cls).drawWord.2 with fr := f } 100 := by
      refine ⟨_, ?_, if_neg h⟩
      rfl
    obtain ⟨f, hf, e⟩ := e
    rw [e]
    exact (((frSeen_reports s cls).trans (drawWord_reports _)).trans (fr_reports _ _ hf)).trans (chSample_reports _ _)

theorem frCorrected_reports (s : State) (unit : Nat) : Reports s (frCorrected s unit) :=
  ((frSeen_reports s 0).trans (pmGlobal_reports _ 16 1)).trans (fr_reports _ _ rfl)

/-- Everything else is as it was. -/
theorem Reports.get {γ : Type} {s t : State} (h : Reports s t) (p : State → γ)
    (hp : ∀ c o f n, p { s with chime := c, obs := o, fr := f, freeCount := n } = p s) : p t = p s := by
  obtain ⟨c, o, f, n, rfl, -⟩ := h
  exact hp c o f n

/-- The error registers after reports. -/
theorem Reports.fr {s t : State} (h : Reports s t) : FrKept s.fr t.fr := by
  obtain ⟨c, o, f, n, rfl, -, h, -⟩ := h
  exact h

/-- The observation part after reports. -/
theorem Reports.obs {s t : State} (h : Reports s t) : ObsKept s.obs t.obs := by
  obtain ⟨c, o, f, n, rfl, h, -⟩ := h
  exact h

/-! ### traceKeeper -/

@[simp] theorem traceKeeper_pending (s : State) (type : Nat) (payload : List Byte) : (traceKeeper s type payload).pending = s.pending :=
  (traceKeeper_reports s type payload).get State.pending fun _ _ _ _ => rfl
@[simp] theorem traceKeeper_fuse (s : State) (type : Nat) (payload : List Byte) : (traceKeeper s type payload).fuse = s.fuse :=
  (traceKeeper_reports s type payload).get State.fuse fun _ _ _ _ => rfl
@[simp] theorem traceKeeper_boot (s : State) (type : Nat) (payload : List Byte) : (traceKeeper s type payload).boot = s.boot :=
  (traceKeeper_reports s type payload).get State.boot fun _ _ _ _ => rfl
@[simp] theorem traceKeeper_frozen (s : State) (type : Nat) (payload : List Byte) : (traceKeeper s type payload).frozen = s.frozen :=
  (traceKeeper_reports s type payload).get State.frozen fun _ _ _ _ => rfl
@[simp] theorem traceKeeper_ports (s : State) (type : Nat) (payload : List Byte) : (traceKeeper s type payload).ports = s.ports :=
  (traceKeeper_reports s type payload).get State.ports fun _ _ _ _ => rfl
@[simp] theorem traceKeeper_writes (s : State) (type : Nat) (payload : List Byte) : (traceKeeper s type payload).writes = s.writes :=
  (traceKeeper_reports s type payload).get State.writes fun _ _ _ _ => rfl
@[simp] theorem traceKeeper_mem (s : State) (type : Nat) (payload : List Byte) : (traceKeeper s type payload).mem = s.mem :=
  (traceKeeper_reports s type payload).get State.mem fun _ _ _ _ => rfl
@[simp] theorem traceKeeper_poison (s : State) (type : Nat) (payload : List Byte) : (traceKeeper s type payload).poison = s.poison :=
  (traceKeeper_reports s type payload).get State.poison fun _ _ _ _ => rfl
@[simp] theorem traceKeeper_esc (s : State) (type : Nat) (payload : List Byte) : (traceKeeper s type payload).esc = s.esc :=
  (traceKeeper_reports s type payload).get State.esc fun _ _ _ _ => rfl
@[simp] theorem traceKeeper_au (s : State) (type : Nat) (payload : List Byte) : (traceKeeper s type payload).au = s.au :=
  (traceKeeper_reports s type payload).get State.au fun _ _ _ _ => rfl
@[simp] theorem traceKeeper_run (s : State) (type : Nat) (payload : List Byte) : (traceKeeper s type payload).run = s.run :=
  (traceKeeper_reports s type payload).get State.run fun _ _ _ _ => rfl
@[simp] theorem traceKeeper_basin (s : State) (type : Nat) (payload : List Byte) : (traceKeeper s type payload).basin = s.basin :=
  (traceKeeper_reports s type payload).get State.basin fun _ _ _ _ => rfl
@[simp] theorem traceKeeper_pool (s : State) (type : Nat) (payload : List Byte) : (traceKeeper s type payload).pool = s.pool :=
  (traceKeeper_reports s type payload).get State.pool fun _ _ _ _ => rfl
@[simp] theorem traceKeeper_kp (s : State) (type : Nat) (payload : List Byte) : (traceKeeper s type payload).kp = s.kp :=
  (traceKeeper_reports s type payload).get State.kp fun _ _ _ _ => rfl
@[simp] theorem traceKeeper_gens (s : State) (type : Nat) (payload : List Byte) : (traceKeeper s type payload).gens = s.gens :=
  (traceKeeper_reports s type payload).get State.gens fun _ _ _ _ => rfl
@[simp] theorem traceKeeper_objs (s : State) (type : Nat) (payload : List Byte) : (traceKeeper s type payload).objs = s.objs :=
  (traceKeeper_reports s type payload).get State.objs fun _ _ _ _ => rfl
@[simp] theorem traceKeeper_ctxs (s : State) (type : Nat) (payload : List Byte) : (traceKeeper s type payload).ctxs = s.ctxs :=
  (traceKeeper_reports s type payload).get State.ctxs fun _ _ _ _ => rfl
@[simp] theorem traceKeeper_queues (s : State) (type : Nat) (payload : List Byte) : (traceKeeper s type payload).queues = s.queues :=
  (traceKeeper_reports s type payload).get State.queues fun _ _ _ _ => rfl
@[simp] theorem traceKeeper_insts (s : State) (type : Nat) (payload : List Byte) : (traceKeeper s type payload).insts = s.insts :=
  (traceKeeper_reports s type payload).get State.insts fun _ _ _ _ => rfl
@[simp] theorem traceKeeper_shares (s : State) (type : Nat) (payload : List Byte) : (traceKeeper s type payload).shares = s.shares :=
  (traceKeeper_reports s type payload).get State.shares fun _ _ _ _ => rfl
@[simp] theorem traceKeeper_rg (s : State) (type : Nat) (payload : List Byte) : (traceKeeper s type payload).rg = s.rg :=
  (traceKeeper_reports s type payload).get State.rg fun _ _ _ _ => rfl
@[simp] theorem traceKeeper_rgParts (s : State) (type : Nat) (payload : List Byte) : (traceKeeper s type payload).rgParts = s.rgParts :=
  (traceKeeper_reports s type payload).get State.rgParts fun _ _ _ _ => rfl
@[simp] theorem traceKeeper_jobs (s : State) (type : Nat) (payload : List Byte) : (traceKeeper s type payload).jobs = s.jobs :=
  (traceKeeper_reports s type payload).get State.jobs fun _ _ _ _ => rfl
@[simp] theorem traceKeeper_nextJob (s : State) (type : Nat) (payload : List Byte) : (traceKeeper s type payload).nextJob = s.nextJob :=
  (traceKeeper_reports s type payload).get State.nextJob fun _ _ _ _ => rfl
@[simp] theorem traceKeeper_cores (s : State) (type : Nat) (payload : List Byte) : (traceKeeper s type payload).cores = s.cores :=
  (traceKeeper_reports s type payload).get State.cores fun _ _ _ _ => rfl
@[simp] theorem traceKeeper_counters (s : State) (type : Nat) (payload : List Byte) : (traceKeeper s type payload).counters = s.counters :=
  (traceKeeper_reports s type payload).get State.counters fun _ _ _ _ => rfl
@[simp] theorem traceKeeper_updates (s : State) (type : Nat) (payload : List Byte) : (traceKeeper s type payload).updates = s.updates :=
  (traceKeeper_reports s type payload).get State.updates fun _ _ _ _ => rfl
@[simp] theorem traceKeeper_flights (s : State) (type : Nat) (payload : List Byte) : (traceKeeper s type payload).flights = s.flights :=
  (traceKeeper_reports s type payload).get State.flights fun _ _ _ _ => rfl
@[simp] theorem traceKeeper_sy (s : State) (type : Nat) (payload : List Byte) : (traceKeeper s type payload).sy = s.sy :=
  (traceKeeper_reports s type payload).get State.sy fun _ _ _ _ => rfl
@[simp] theorem traceKeeper_sec (s : State) (type : Nat) (payload : List Byte) : (traceKeeper s type payload).sec = s.sec :=
  (traceKeeper_reports s type payload).get State.sec fun _ _ _ _ => rfl
@[simp] theorem traceKeeper_tw (s : State) (type : Nat) (payload : List Byte) : (traceKeeper s type payload).tw = s.tw :=
  (traceKeeper_reports s type payload).get State.tw fun _ _ _ _ => rfl
@[simp] theorem traceKeeper_links (s : State) (type : Nat) (payload : List Byte) : (traceKeeper s type payload).links = s.links :=
  (traceKeeper_reports s type payload).get State.links fun _ _ _ _ => rfl
@[simp] theorem traceKeeper_tap (s : State) (type : Nat) (payload : List Byte) : (traceKeeper s type payload).tap = s.tap :=
  (traceKeeper_reports s type payload).get State.tap fun _ _ _ _ => rfl
@[simp] theorem traceKeeper_core (s : State) (type : Nat) (payload : List Byte) (m : Nat) : (traceKeeper s type payload).core m = s.core m :=
  (traceKeeper_reports s type payload).get (fun x => x.core m) fun _ _ _ _ => rfl
@[simp] theorem traceKeeper_queue (s : State) (type : Nat) (payload : List Byte) (m : Nat) : (traceKeeper s type payload).queue m = s.queue m :=
  (traceKeeper_reports s type payload).get (fun x => x.queue m) fun _ _ _ _ => rfl
@[simp] theorem traceKeeper_ctx (s : State) (type : Nat) (payload : List Byte) (m : Nat) : (traceKeeper s type payload).ctx m = s.ctx m :=
  (traceKeeper_reports s type payload).get (fun x => x.ctx m) fun _ _ _ _ => rfl
@[simp] theorem traceKeeper_inst (s : State) (type : Nat) (payload : List Byte) (m : Nat) : (traceKeeper s type payload).inst m = s.inst m :=
  (traceKeeper_reports s type payload).get (fun x => x.inst m) fun _ _ _ _ => rfl
@[simp] theorem traceKeeper_gen (s : State) (type : Nat) (payload : List Byte) (m : Nat) : (traceKeeper s type payload).gen m = s.gen m :=
  (traceKeeper_reports s type payload).get (fun x => x.gen m) fun _ _ _ _ => rfl
@[simp] theorem traceKeeper_counter (s : State) (type : Nat) (payload : List Byte) (m : Nat) : (traceKeeper s type payload).counter m = s.counter m :=
  (traceKeeper_reports s type payload).get (fun x => x.counter m) fun _ _ _ _ => rfl
@[simp] theorem traceKeeper_flight (s : State) (type : Nat) (payload : List Byte) (m : Nat) : (traceKeeper s type payload).flight m = s.flight m :=
  (traceKeeper_reports s type payload).get (fun x => x.flight m) fun _ _ _ _ => rfl
@[simp] theorem traceKeeper_link (s : State) (type : Nat) (payload : List Byte) (m : Nat) : (traceKeeper s type payload).link m = s.link m :=
  (traceKeeper_reports s type payload).get (fun x => x.link m) fun _ _ _ _ => rfl
@[simp] theorem traceKeeper_port (s : State) (type : Nat) (payload : List Byte) (m : Nat) : (traceKeeper s type payload).port m = s.port m :=
  (traceKeeper_reports s type payload).get (fun x => x.port m) fun _ _ _ _ => rfl
@[simp] theorem traceKeeper_rgPart (s : State) (type : Nat) (payload : List Byte) (m : Nat) : (traceKeeper s type payload).rgPart m = s.rgPart m :=
  (traceKeeper_reports s type payload).get (fun x => x.rgPart m) fun _ _ _ _ => rfl
@[simp] theorem traceKeeper_job (s : State) (type : Nat) (payload : List Byte) (m : Nat) : (traceKeeper s type payload).job m = s.job m :=
  (traceKeeper_reports s type payload).get (fun x => x.job m) fun _ _ _ _ => rfl
@[simp] theorem traceKeeper_obj (s : State) (type : Nat) (payload : List Byte) (m : Nat) : (traceKeeper s type payload).obj m = s.obj m :=
  (traceKeeper_reports s type payload).get (fun x => x.obj m) fun _ _ _ _ => rfl

/-! ### traceCore -/

@[simp] theorem traceCore_pending (s : State) (c type : Nat) (payload : List Byte) : (traceCore s c type payload).pending = s.pending :=
  (traceCore_reports s c type payload).get State.pending fun _ _ _ _ => rfl
@[simp] theorem traceCore_fuse (s : State) (c type : Nat) (payload : List Byte) : (traceCore s c type payload).fuse = s.fuse :=
  (traceCore_reports s c type payload).get State.fuse fun _ _ _ _ => rfl
@[simp] theorem traceCore_boot (s : State) (c type : Nat) (payload : List Byte) : (traceCore s c type payload).boot = s.boot :=
  (traceCore_reports s c type payload).get State.boot fun _ _ _ _ => rfl
@[simp] theorem traceCore_frozen (s : State) (c type : Nat) (payload : List Byte) : (traceCore s c type payload).frozen = s.frozen :=
  (traceCore_reports s c type payload).get State.frozen fun _ _ _ _ => rfl
@[simp] theorem traceCore_ports (s : State) (c type : Nat) (payload : List Byte) : (traceCore s c type payload).ports = s.ports :=
  (traceCore_reports s c type payload).get State.ports fun _ _ _ _ => rfl
@[simp] theorem traceCore_writes (s : State) (c type : Nat) (payload : List Byte) : (traceCore s c type payload).writes = s.writes :=
  (traceCore_reports s c type payload).get State.writes fun _ _ _ _ => rfl
@[simp] theorem traceCore_mem (s : State) (c type : Nat) (payload : List Byte) : (traceCore s c type payload).mem = s.mem :=
  (traceCore_reports s c type payload).get State.mem fun _ _ _ _ => rfl
@[simp] theorem traceCore_poison (s : State) (c type : Nat) (payload : List Byte) : (traceCore s c type payload).poison = s.poison :=
  (traceCore_reports s c type payload).get State.poison fun _ _ _ _ => rfl
@[simp] theorem traceCore_esc (s : State) (c type : Nat) (payload : List Byte) : (traceCore s c type payload).esc = s.esc :=
  (traceCore_reports s c type payload).get State.esc fun _ _ _ _ => rfl
@[simp] theorem traceCore_au (s : State) (c type : Nat) (payload : List Byte) : (traceCore s c type payload).au = s.au :=
  (traceCore_reports s c type payload).get State.au fun _ _ _ _ => rfl
@[simp] theorem traceCore_run (s : State) (c type : Nat) (payload : List Byte) : (traceCore s c type payload).run = s.run :=
  (traceCore_reports s c type payload).get State.run fun _ _ _ _ => rfl
@[simp] theorem traceCore_basin (s : State) (c type : Nat) (payload : List Byte) : (traceCore s c type payload).basin = s.basin :=
  (traceCore_reports s c type payload).get State.basin fun _ _ _ _ => rfl
@[simp] theorem traceCore_pool (s : State) (c type : Nat) (payload : List Byte) : (traceCore s c type payload).pool = s.pool :=
  (traceCore_reports s c type payload).get State.pool fun _ _ _ _ => rfl
@[simp] theorem traceCore_kp (s : State) (c type : Nat) (payload : List Byte) : (traceCore s c type payload).kp = s.kp :=
  (traceCore_reports s c type payload).get State.kp fun _ _ _ _ => rfl
@[simp] theorem traceCore_gens (s : State) (c type : Nat) (payload : List Byte) : (traceCore s c type payload).gens = s.gens :=
  (traceCore_reports s c type payload).get State.gens fun _ _ _ _ => rfl
@[simp] theorem traceCore_objs (s : State) (c type : Nat) (payload : List Byte) : (traceCore s c type payload).objs = s.objs :=
  (traceCore_reports s c type payload).get State.objs fun _ _ _ _ => rfl
@[simp] theorem traceCore_ctxs (s : State) (c type : Nat) (payload : List Byte) : (traceCore s c type payload).ctxs = s.ctxs :=
  (traceCore_reports s c type payload).get State.ctxs fun _ _ _ _ => rfl
@[simp] theorem traceCore_queues (s : State) (c type : Nat) (payload : List Byte) : (traceCore s c type payload).queues = s.queues :=
  (traceCore_reports s c type payload).get State.queues fun _ _ _ _ => rfl
@[simp] theorem traceCore_insts (s : State) (c type : Nat) (payload : List Byte) : (traceCore s c type payload).insts = s.insts :=
  (traceCore_reports s c type payload).get State.insts fun _ _ _ _ => rfl
@[simp] theorem traceCore_shares (s : State) (c type : Nat) (payload : List Byte) : (traceCore s c type payload).shares = s.shares :=
  (traceCore_reports s c type payload).get State.shares fun _ _ _ _ => rfl
@[simp] theorem traceCore_rg (s : State) (c type : Nat) (payload : List Byte) : (traceCore s c type payload).rg = s.rg :=
  (traceCore_reports s c type payload).get State.rg fun _ _ _ _ => rfl
@[simp] theorem traceCore_rgParts (s : State) (c type : Nat) (payload : List Byte) : (traceCore s c type payload).rgParts = s.rgParts :=
  (traceCore_reports s c type payload).get State.rgParts fun _ _ _ _ => rfl
@[simp] theorem traceCore_jobs (s : State) (c type : Nat) (payload : List Byte) : (traceCore s c type payload).jobs = s.jobs :=
  (traceCore_reports s c type payload).get State.jobs fun _ _ _ _ => rfl
@[simp] theorem traceCore_nextJob (s : State) (c type : Nat) (payload : List Byte) : (traceCore s c type payload).nextJob = s.nextJob :=
  (traceCore_reports s c type payload).get State.nextJob fun _ _ _ _ => rfl
@[simp] theorem traceCore_cores (s : State) (c type : Nat) (payload : List Byte) : (traceCore s c type payload).cores = s.cores :=
  (traceCore_reports s c type payload).get State.cores fun _ _ _ _ => rfl
@[simp] theorem traceCore_counters (s : State) (c type : Nat) (payload : List Byte) : (traceCore s c type payload).counters = s.counters :=
  (traceCore_reports s c type payload).get State.counters fun _ _ _ _ => rfl
@[simp] theorem traceCore_updates (s : State) (c type : Nat) (payload : List Byte) : (traceCore s c type payload).updates = s.updates :=
  (traceCore_reports s c type payload).get State.updates fun _ _ _ _ => rfl
@[simp] theorem traceCore_flights (s : State) (c type : Nat) (payload : List Byte) : (traceCore s c type payload).flights = s.flights :=
  (traceCore_reports s c type payload).get State.flights fun _ _ _ _ => rfl
@[simp] theorem traceCore_sy (s : State) (c type : Nat) (payload : List Byte) : (traceCore s c type payload).sy = s.sy :=
  (traceCore_reports s c type payload).get State.sy fun _ _ _ _ => rfl
@[simp] theorem traceCore_sec (s : State) (c type : Nat) (payload : List Byte) : (traceCore s c type payload).sec = s.sec :=
  (traceCore_reports s c type payload).get State.sec fun _ _ _ _ => rfl
@[simp] theorem traceCore_tw (s : State) (c type : Nat) (payload : List Byte) : (traceCore s c type payload).tw = s.tw :=
  (traceCore_reports s c type payload).get State.tw fun _ _ _ _ => rfl
@[simp] theorem traceCore_links (s : State) (c type : Nat) (payload : List Byte) : (traceCore s c type payload).links = s.links :=
  (traceCore_reports s c type payload).get State.links fun _ _ _ _ => rfl
@[simp] theorem traceCore_tap (s : State) (c type : Nat) (payload : List Byte) : (traceCore s c type payload).tap = s.tap :=
  (traceCore_reports s c type payload).get State.tap fun _ _ _ _ => rfl
@[simp] theorem traceCore_core (s : State) (c type : Nat) (payload : List Byte) (m : Nat) : (traceCore s c type payload).core m = s.core m :=
  (traceCore_reports s c type payload).get (fun x => x.core m) fun _ _ _ _ => rfl
@[simp] theorem traceCore_queue (s : State) (c type : Nat) (payload : List Byte) (m : Nat) : (traceCore s c type payload).queue m = s.queue m :=
  (traceCore_reports s c type payload).get (fun x => x.queue m) fun _ _ _ _ => rfl
@[simp] theorem traceCore_ctx (s : State) (c type : Nat) (payload : List Byte) (m : Nat) : (traceCore s c type payload).ctx m = s.ctx m :=
  (traceCore_reports s c type payload).get (fun x => x.ctx m) fun _ _ _ _ => rfl
@[simp] theorem traceCore_inst (s : State) (c type : Nat) (payload : List Byte) (m : Nat) : (traceCore s c type payload).inst m = s.inst m :=
  (traceCore_reports s c type payload).get (fun x => x.inst m) fun _ _ _ _ => rfl
@[simp] theorem traceCore_gen (s : State) (c type : Nat) (payload : List Byte) (m : Nat) : (traceCore s c type payload).gen m = s.gen m :=
  (traceCore_reports s c type payload).get (fun x => x.gen m) fun _ _ _ _ => rfl
@[simp] theorem traceCore_counter (s : State) (c type : Nat) (payload : List Byte) (m : Nat) : (traceCore s c type payload).counter m = s.counter m :=
  (traceCore_reports s c type payload).get (fun x => x.counter m) fun _ _ _ _ => rfl
@[simp] theorem traceCore_flight (s : State) (c type : Nat) (payload : List Byte) (m : Nat) : (traceCore s c type payload).flight m = s.flight m :=
  (traceCore_reports s c type payload).get (fun x => x.flight m) fun _ _ _ _ => rfl
@[simp] theorem traceCore_link (s : State) (c type : Nat) (payload : List Byte) (m : Nat) : (traceCore s c type payload).link m = s.link m :=
  (traceCore_reports s c type payload).get (fun x => x.link m) fun _ _ _ _ => rfl
@[simp] theorem traceCore_port (s : State) (c type : Nat) (payload : List Byte) (m : Nat) : (traceCore s c type payload).port m = s.port m :=
  (traceCore_reports s c type payload).get (fun x => x.port m) fun _ _ _ _ => rfl
@[simp] theorem traceCore_rgPart (s : State) (c type : Nat) (payload : List Byte) (m : Nat) : (traceCore s c type payload).rgPart m = s.rgPart m :=
  (traceCore_reports s c type payload).get (fun x => x.rgPart m) fun _ _ _ _ => rfl
@[simp] theorem traceCore_job (s : State) (c type : Nat) (payload : List Byte) (m : Nat) : (traceCore s c type payload).job m = s.job m :=
  (traceCore_reports s c type payload).get (fun x => x.job m) fun _ _ _ _ => rfl
@[simp] theorem traceCore_obj (s : State) (c type : Nat) (payload : List Byte) (m : Nat) : (traceCore s c type payload).obj m = s.obj m :=
  (traceCore_reports s c type payload).get (fun x => x.obj m) fun _ _ _ _ => rfl

/-! ### chEvalTarget -/

@[simp] theorem chEvalTarget_pending (s : State) (t : Nat) : (chEvalTarget s t).pending = s.pending :=
  (chEvalTarget_reports s t).get State.pending fun _ _ _ _ => rfl
@[simp] theorem chEvalTarget_fuse (s : State) (t : Nat) : (chEvalTarget s t).fuse = s.fuse :=
  (chEvalTarget_reports s t).get State.fuse fun _ _ _ _ => rfl
@[simp] theorem chEvalTarget_boot (s : State) (t : Nat) : (chEvalTarget s t).boot = s.boot :=
  (chEvalTarget_reports s t).get State.boot fun _ _ _ _ => rfl
@[simp] theorem chEvalTarget_frozen (s : State) (t : Nat) : (chEvalTarget s t).frozen = s.frozen :=
  (chEvalTarget_reports s t).get State.frozen fun _ _ _ _ => rfl
@[simp] theorem chEvalTarget_ports (s : State) (t : Nat) : (chEvalTarget s t).ports = s.ports :=
  (chEvalTarget_reports s t).get State.ports fun _ _ _ _ => rfl
@[simp] theorem chEvalTarget_writes (s : State) (t : Nat) : (chEvalTarget s t).writes = s.writes :=
  (chEvalTarget_reports s t).get State.writes fun _ _ _ _ => rfl
@[simp] theorem chEvalTarget_mem (s : State) (t : Nat) : (chEvalTarget s t).mem = s.mem :=
  (chEvalTarget_reports s t).get State.mem fun _ _ _ _ => rfl
@[simp] theorem chEvalTarget_poison (s : State) (t : Nat) : (chEvalTarget s t).poison = s.poison :=
  (chEvalTarget_reports s t).get State.poison fun _ _ _ _ => rfl
@[simp] theorem chEvalTarget_esc (s : State) (t : Nat) : (chEvalTarget s t).esc = s.esc :=
  (chEvalTarget_reports s t).get State.esc fun _ _ _ _ => rfl
@[simp] theorem chEvalTarget_au (s : State) (t : Nat) : (chEvalTarget s t).au = s.au :=
  (chEvalTarget_reports s t).get State.au fun _ _ _ _ => rfl
@[simp] theorem chEvalTarget_run (s : State) (t : Nat) : (chEvalTarget s t).run = s.run :=
  (chEvalTarget_reports s t).get State.run fun _ _ _ _ => rfl
@[simp] theorem chEvalTarget_basin (s : State) (t : Nat) : (chEvalTarget s t).basin = s.basin :=
  (chEvalTarget_reports s t).get State.basin fun _ _ _ _ => rfl
@[simp] theorem chEvalTarget_pool (s : State) (t : Nat) : (chEvalTarget s t).pool = s.pool :=
  (chEvalTarget_reports s t).get State.pool fun _ _ _ _ => rfl
@[simp] theorem chEvalTarget_kp (s : State) (t : Nat) : (chEvalTarget s t).kp = s.kp :=
  (chEvalTarget_reports s t).get State.kp fun _ _ _ _ => rfl
@[simp] theorem chEvalTarget_gens (s : State) (t : Nat) : (chEvalTarget s t).gens = s.gens :=
  (chEvalTarget_reports s t).get State.gens fun _ _ _ _ => rfl
@[simp] theorem chEvalTarget_objs (s : State) (t : Nat) : (chEvalTarget s t).objs = s.objs :=
  (chEvalTarget_reports s t).get State.objs fun _ _ _ _ => rfl
@[simp] theorem chEvalTarget_ctxs (s : State) (t : Nat) : (chEvalTarget s t).ctxs = s.ctxs :=
  (chEvalTarget_reports s t).get State.ctxs fun _ _ _ _ => rfl
@[simp] theorem chEvalTarget_queues (s : State) (t : Nat) : (chEvalTarget s t).queues = s.queues :=
  (chEvalTarget_reports s t).get State.queues fun _ _ _ _ => rfl
@[simp] theorem chEvalTarget_insts (s : State) (t : Nat) : (chEvalTarget s t).insts = s.insts :=
  (chEvalTarget_reports s t).get State.insts fun _ _ _ _ => rfl
@[simp] theorem chEvalTarget_shares (s : State) (t : Nat) : (chEvalTarget s t).shares = s.shares :=
  (chEvalTarget_reports s t).get State.shares fun _ _ _ _ => rfl
@[simp] theorem chEvalTarget_rg (s : State) (t : Nat) : (chEvalTarget s t).rg = s.rg :=
  (chEvalTarget_reports s t).get State.rg fun _ _ _ _ => rfl
@[simp] theorem chEvalTarget_rgParts (s : State) (t : Nat) : (chEvalTarget s t).rgParts = s.rgParts :=
  (chEvalTarget_reports s t).get State.rgParts fun _ _ _ _ => rfl
@[simp] theorem chEvalTarget_jobs (s : State) (t : Nat) : (chEvalTarget s t).jobs = s.jobs :=
  (chEvalTarget_reports s t).get State.jobs fun _ _ _ _ => rfl
@[simp] theorem chEvalTarget_nextJob (s : State) (t : Nat) : (chEvalTarget s t).nextJob = s.nextJob :=
  (chEvalTarget_reports s t).get State.nextJob fun _ _ _ _ => rfl
@[simp] theorem chEvalTarget_cores (s : State) (t : Nat) : (chEvalTarget s t).cores = s.cores :=
  (chEvalTarget_reports s t).get State.cores fun _ _ _ _ => rfl
@[simp] theorem chEvalTarget_counters (s : State) (t : Nat) : (chEvalTarget s t).counters = s.counters :=
  (chEvalTarget_reports s t).get State.counters fun _ _ _ _ => rfl
@[simp] theorem chEvalTarget_updates (s : State) (t : Nat) : (chEvalTarget s t).updates = s.updates :=
  (chEvalTarget_reports s t).get State.updates fun _ _ _ _ => rfl
@[simp] theorem chEvalTarget_flights (s : State) (t : Nat) : (chEvalTarget s t).flights = s.flights :=
  (chEvalTarget_reports s t).get State.flights fun _ _ _ _ => rfl
@[simp] theorem chEvalTarget_sy (s : State) (t : Nat) : (chEvalTarget s t).sy = s.sy :=
  (chEvalTarget_reports s t).get State.sy fun _ _ _ _ => rfl
@[simp] theorem chEvalTarget_sec (s : State) (t : Nat) : (chEvalTarget s t).sec = s.sec :=
  (chEvalTarget_reports s t).get State.sec fun _ _ _ _ => rfl
@[simp] theorem chEvalTarget_tw (s : State) (t : Nat) : (chEvalTarget s t).tw = s.tw :=
  (chEvalTarget_reports s t).get State.tw fun _ _ _ _ => rfl
@[simp] theorem chEvalTarget_links (s : State) (t : Nat) : (chEvalTarget s t).links = s.links :=
  (chEvalTarget_reports s t).get State.links fun _ _ _ _ => rfl
@[simp] theorem chEvalTarget_tap (s : State) (t : Nat) : (chEvalTarget s t).tap = s.tap :=
  (chEvalTarget_reports s t).get State.tap fun _ _ _ _ => rfl
@[simp] theorem chEvalTarget_core (s : State) (t : Nat) (m : Nat) : (chEvalTarget s t).core m = s.core m :=
  (chEvalTarget_reports s t).get (fun x => x.core m) fun _ _ _ _ => rfl
@[simp] theorem chEvalTarget_queue (s : State) (t : Nat) (m : Nat) : (chEvalTarget s t).queue m = s.queue m :=
  (chEvalTarget_reports s t).get (fun x => x.queue m) fun _ _ _ _ => rfl
@[simp] theorem chEvalTarget_ctx (s : State) (t : Nat) (m : Nat) : (chEvalTarget s t).ctx m = s.ctx m :=
  (chEvalTarget_reports s t).get (fun x => x.ctx m) fun _ _ _ _ => rfl
@[simp] theorem chEvalTarget_inst (s : State) (t : Nat) (m : Nat) : (chEvalTarget s t).inst m = s.inst m :=
  (chEvalTarget_reports s t).get (fun x => x.inst m) fun _ _ _ _ => rfl
@[simp] theorem chEvalTarget_gen (s : State) (t : Nat) (m : Nat) : (chEvalTarget s t).gen m = s.gen m :=
  (chEvalTarget_reports s t).get (fun x => x.gen m) fun _ _ _ _ => rfl
@[simp] theorem chEvalTarget_counter (s : State) (t : Nat) (m : Nat) : (chEvalTarget s t).counter m = s.counter m :=
  (chEvalTarget_reports s t).get (fun x => x.counter m) fun _ _ _ _ => rfl
@[simp] theorem chEvalTarget_flight (s : State) (t : Nat) (m : Nat) : (chEvalTarget s t).flight m = s.flight m :=
  (chEvalTarget_reports s t).get (fun x => x.flight m) fun _ _ _ _ => rfl
@[simp] theorem chEvalTarget_link (s : State) (t : Nat) (m : Nat) : (chEvalTarget s t).link m = s.link m :=
  (chEvalTarget_reports s t).get (fun x => x.link m) fun _ _ _ _ => rfl
@[simp] theorem chEvalTarget_port (s : State) (t : Nat) (m : Nat) : (chEvalTarget s t).port m = s.port m :=
  (chEvalTarget_reports s t).get (fun x => x.port m) fun _ _ _ _ => rfl
@[simp] theorem chEvalTarget_rgPart (s : State) (t : Nat) (m : Nat) : (chEvalTarget s t).rgPart m = s.rgPart m :=
  (chEvalTarget_reports s t).get (fun x => x.rgPart m) fun _ _ _ _ => rfl
@[simp] theorem chEvalTarget_job (s : State) (t : Nat) (m : Nat) : (chEvalTarget s t).job m = s.job m :=
  (chEvalTarget_reports s t).get (fun x => x.job m) fun _ _ _ _ => rfl
@[simp] theorem chEvalTarget_obj (s : State) (t : Nat) (m : Nat) : (chEvalTarget s t).obj m = s.obj m :=
  (chEvalTarget_reports s t).get (fun x => x.obj m) fun _ _ _ _ => rfl

/-! ### chEval -/

@[simp] theorem chEval_pending (s : State) : (chEval s).pending = s.pending :=
  (chEval_reports s).get State.pending fun _ _ _ _ => rfl
@[simp] theorem chEval_fuse (s : State) : (chEval s).fuse = s.fuse :=
  (chEval_reports s).get State.fuse fun _ _ _ _ => rfl
@[simp] theorem chEval_boot (s : State) : (chEval s).boot = s.boot :=
  (chEval_reports s).get State.boot fun _ _ _ _ => rfl
@[simp] theorem chEval_frozen (s : State) : (chEval s).frozen = s.frozen :=
  (chEval_reports s).get State.frozen fun _ _ _ _ => rfl
@[simp] theorem chEval_ports (s : State) : (chEval s).ports = s.ports :=
  (chEval_reports s).get State.ports fun _ _ _ _ => rfl
@[simp] theorem chEval_writes (s : State) : (chEval s).writes = s.writes :=
  (chEval_reports s).get State.writes fun _ _ _ _ => rfl
@[simp] theorem chEval_mem (s : State) : (chEval s).mem = s.mem :=
  (chEval_reports s).get State.mem fun _ _ _ _ => rfl
@[simp] theorem chEval_poison (s : State) : (chEval s).poison = s.poison :=
  (chEval_reports s).get State.poison fun _ _ _ _ => rfl
@[simp] theorem chEval_esc (s : State) : (chEval s).esc = s.esc :=
  (chEval_reports s).get State.esc fun _ _ _ _ => rfl
@[simp] theorem chEval_au (s : State) : (chEval s).au = s.au :=
  (chEval_reports s).get State.au fun _ _ _ _ => rfl
@[simp] theorem chEval_run (s : State) : (chEval s).run = s.run :=
  (chEval_reports s).get State.run fun _ _ _ _ => rfl
@[simp] theorem chEval_basin (s : State) : (chEval s).basin = s.basin :=
  (chEval_reports s).get State.basin fun _ _ _ _ => rfl
@[simp] theorem chEval_pool (s : State) : (chEval s).pool = s.pool :=
  (chEval_reports s).get State.pool fun _ _ _ _ => rfl
@[simp] theorem chEval_kp (s : State) : (chEval s).kp = s.kp :=
  (chEval_reports s).get State.kp fun _ _ _ _ => rfl
@[simp] theorem chEval_gens (s : State) : (chEval s).gens = s.gens :=
  (chEval_reports s).get State.gens fun _ _ _ _ => rfl
@[simp] theorem chEval_objs (s : State) : (chEval s).objs = s.objs :=
  (chEval_reports s).get State.objs fun _ _ _ _ => rfl
@[simp] theorem chEval_ctxs (s : State) : (chEval s).ctxs = s.ctxs :=
  (chEval_reports s).get State.ctxs fun _ _ _ _ => rfl
@[simp] theorem chEval_queues (s : State) : (chEval s).queues = s.queues :=
  (chEval_reports s).get State.queues fun _ _ _ _ => rfl
@[simp] theorem chEval_insts (s : State) : (chEval s).insts = s.insts :=
  (chEval_reports s).get State.insts fun _ _ _ _ => rfl
@[simp] theorem chEval_shares (s : State) : (chEval s).shares = s.shares :=
  (chEval_reports s).get State.shares fun _ _ _ _ => rfl
@[simp] theorem chEval_rg (s : State) : (chEval s).rg = s.rg :=
  (chEval_reports s).get State.rg fun _ _ _ _ => rfl
@[simp] theorem chEval_rgParts (s : State) : (chEval s).rgParts = s.rgParts :=
  (chEval_reports s).get State.rgParts fun _ _ _ _ => rfl
@[simp] theorem chEval_jobs (s : State) : (chEval s).jobs = s.jobs :=
  (chEval_reports s).get State.jobs fun _ _ _ _ => rfl
@[simp] theorem chEval_nextJob (s : State) : (chEval s).nextJob = s.nextJob :=
  (chEval_reports s).get State.nextJob fun _ _ _ _ => rfl
@[simp] theorem chEval_cores (s : State) : (chEval s).cores = s.cores :=
  (chEval_reports s).get State.cores fun _ _ _ _ => rfl
@[simp] theorem chEval_counters (s : State) : (chEval s).counters = s.counters :=
  (chEval_reports s).get State.counters fun _ _ _ _ => rfl
@[simp] theorem chEval_updates (s : State) : (chEval s).updates = s.updates :=
  (chEval_reports s).get State.updates fun _ _ _ _ => rfl
@[simp] theorem chEval_flights (s : State) : (chEval s).flights = s.flights :=
  (chEval_reports s).get State.flights fun _ _ _ _ => rfl
@[simp] theorem chEval_sy (s : State) : (chEval s).sy = s.sy :=
  (chEval_reports s).get State.sy fun _ _ _ _ => rfl
@[simp] theorem chEval_sec (s : State) : (chEval s).sec = s.sec :=
  (chEval_reports s).get State.sec fun _ _ _ _ => rfl
@[simp] theorem chEval_tw (s : State) : (chEval s).tw = s.tw :=
  (chEval_reports s).get State.tw fun _ _ _ _ => rfl
@[simp] theorem chEval_links (s : State) : (chEval s).links = s.links :=
  (chEval_reports s).get State.links fun _ _ _ _ => rfl
@[simp] theorem chEval_tap (s : State) : (chEval s).tap = s.tap :=
  (chEval_reports s).get State.tap fun _ _ _ _ => rfl
@[simp] theorem chEval_core (s : State) (m : Nat) : (chEval s).core m = s.core m :=
  (chEval_reports s).get (fun x => x.core m) fun _ _ _ _ => rfl
@[simp] theorem chEval_queue (s : State) (m : Nat) : (chEval s).queue m = s.queue m :=
  (chEval_reports s).get (fun x => x.queue m) fun _ _ _ _ => rfl
@[simp] theorem chEval_ctx (s : State) (m : Nat) : (chEval s).ctx m = s.ctx m :=
  (chEval_reports s).get (fun x => x.ctx m) fun _ _ _ _ => rfl
@[simp] theorem chEval_inst (s : State) (m : Nat) : (chEval s).inst m = s.inst m :=
  (chEval_reports s).get (fun x => x.inst m) fun _ _ _ _ => rfl
@[simp] theorem chEval_gen (s : State) (m : Nat) : (chEval s).gen m = s.gen m :=
  (chEval_reports s).get (fun x => x.gen m) fun _ _ _ _ => rfl
@[simp] theorem chEval_counter (s : State) (m : Nat) : (chEval s).counter m = s.counter m :=
  (chEval_reports s).get (fun x => x.counter m) fun _ _ _ _ => rfl
@[simp] theorem chEval_flight (s : State) (m : Nat) : (chEval s).flight m = s.flight m :=
  (chEval_reports s).get (fun x => x.flight m) fun _ _ _ _ => rfl
@[simp] theorem chEval_link (s : State) (m : Nat) : (chEval s).link m = s.link m :=
  (chEval_reports s).get (fun x => x.link m) fun _ _ _ _ => rfl
@[simp] theorem chEval_port (s : State) (m : Nat) : (chEval s).port m = s.port m :=
  (chEval_reports s).get (fun x => x.port m) fun _ _ _ _ => rfl
@[simp] theorem chEval_rgPart (s : State) (m : Nat) : (chEval s).rgPart m = s.rgPart m :=
  (chEval_reports s).get (fun x => x.rgPart m) fun _ _ _ _ => rfl
@[simp] theorem chEval_job (s : State) (m : Nat) : (chEval s).job m = s.job m :=
  (chEval_reports s).get (fun x => x.job m) fun _ _ _ _ => rfl
@[simp] theorem chEval_obj (s : State) (m : Nat) : (chEval s).obj m = s.obj m :=
  (chEval_reports s).get (fun x => x.obj m) fun _ _ _ _ => rfl

/-! ### chTrace -/

@[simp] theorem chTrace_pending (s : State) (n : Nat) (code : BitVec 16) : (chTrace s n code).pending = s.pending :=
  (chTrace_reports s n code).get State.pending fun _ _ _ _ => rfl
@[simp] theorem chTrace_fuse (s : State) (n : Nat) (code : BitVec 16) : (chTrace s n code).fuse = s.fuse :=
  (chTrace_reports s n code).get State.fuse fun _ _ _ _ => rfl
@[simp] theorem chTrace_boot (s : State) (n : Nat) (code : BitVec 16) : (chTrace s n code).boot = s.boot :=
  (chTrace_reports s n code).get State.boot fun _ _ _ _ => rfl
@[simp] theorem chTrace_frozen (s : State) (n : Nat) (code : BitVec 16) : (chTrace s n code).frozen = s.frozen :=
  (chTrace_reports s n code).get State.frozen fun _ _ _ _ => rfl
@[simp] theorem chTrace_ports (s : State) (n : Nat) (code : BitVec 16) : (chTrace s n code).ports = s.ports :=
  (chTrace_reports s n code).get State.ports fun _ _ _ _ => rfl
@[simp] theorem chTrace_writes (s : State) (n : Nat) (code : BitVec 16) : (chTrace s n code).writes = s.writes :=
  (chTrace_reports s n code).get State.writes fun _ _ _ _ => rfl
@[simp] theorem chTrace_mem (s : State) (n : Nat) (code : BitVec 16) : (chTrace s n code).mem = s.mem :=
  (chTrace_reports s n code).get State.mem fun _ _ _ _ => rfl
@[simp] theorem chTrace_poison (s : State) (n : Nat) (code : BitVec 16) : (chTrace s n code).poison = s.poison :=
  (chTrace_reports s n code).get State.poison fun _ _ _ _ => rfl
@[simp] theorem chTrace_esc (s : State) (n : Nat) (code : BitVec 16) : (chTrace s n code).esc = s.esc :=
  (chTrace_reports s n code).get State.esc fun _ _ _ _ => rfl
@[simp] theorem chTrace_au (s : State) (n : Nat) (code : BitVec 16) : (chTrace s n code).au = s.au :=
  (chTrace_reports s n code).get State.au fun _ _ _ _ => rfl
@[simp] theorem chTrace_run (s : State) (n : Nat) (code : BitVec 16) : (chTrace s n code).run = s.run :=
  (chTrace_reports s n code).get State.run fun _ _ _ _ => rfl
@[simp] theorem chTrace_basin (s : State) (n : Nat) (code : BitVec 16) : (chTrace s n code).basin = s.basin :=
  (chTrace_reports s n code).get State.basin fun _ _ _ _ => rfl
@[simp] theorem chTrace_pool (s : State) (n : Nat) (code : BitVec 16) : (chTrace s n code).pool = s.pool :=
  (chTrace_reports s n code).get State.pool fun _ _ _ _ => rfl
@[simp] theorem chTrace_kp (s : State) (n : Nat) (code : BitVec 16) : (chTrace s n code).kp = s.kp :=
  (chTrace_reports s n code).get State.kp fun _ _ _ _ => rfl
@[simp] theorem chTrace_gens (s : State) (n : Nat) (code : BitVec 16) : (chTrace s n code).gens = s.gens :=
  (chTrace_reports s n code).get State.gens fun _ _ _ _ => rfl
@[simp] theorem chTrace_objs (s : State) (n : Nat) (code : BitVec 16) : (chTrace s n code).objs = s.objs :=
  (chTrace_reports s n code).get State.objs fun _ _ _ _ => rfl
@[simp] theorem chTrace_ctxs (s : State) (n : Nat) (code : BitVec 16) : (chTrace s n code).ctxs = s.ctxs :=
  (chTrace_reports s n code).get State.ctxs fun _ _ _ _ => rfl
@[simp] theorem chTrace_queues (s : State) (n : Nat) (code : BitVec 16) : (chTrace s n code).queues = s.queues :=
  (chTrace_reports s n code).get State.queues fun _ _ _ _ => rfl
@[simp] theorem chTrace_insts (s : State) (n : Nat) (code : BitVec 16) : (chTrace s n code).insts = s.insts :=
  (chTrace_reports s n code).get State.insts fun _ _ _ _ => rfl
@[simp] theorem chTrace_shares (s : State) (n : Nat) (code : BitVec 16) : (chTrace s n code).shares = s.shares :=
  (chTrace_reports s n code).get State.shares fun _ _ _ _ => rfl
@[simp] theorem chTrace_rg (s : State) (n : Nat) (code : BitVec 16) : (chTrace s n code).rg = s.rg :=
  (chTrace_reports s n code).get State.rg fun _ _ _ _ => rfl
@[simp] theorem chTrace_rgParts (s : State) (n : Nat) (code : BitVec 16) : (chTrace s n code).rgParts = s.rgParts :=
  (chTrace_reports s n code).get State.rgParts fun _ _ _ _ => rfl
@[simp] theorem chTrace_jobs (s : State) (n : Nat) (code : BitVec 16) : (chTrace s n code).jobs = s.jobs :=
  (chTrace_reports s n code).get State.jobs fun _ _ _ _ => rfl
@[simp] theorem chTrace_nextJob (s : State) (n : Nat) (code : BitVec 16) : (chTrace s n code).nextJob = s.nextJob :=
  (chTrace_reports s n code).get State.nextJob fun _ _ _ _ => rfl
@[simp] theorem chTrace_cores (s : State) (n : Nat) (code : BitVec 16) : (chTrace s n code).cores = s.cores :=
  (chTrace_reports s n code).get State.cores fun _ _ _ _ => rfl
@[simp] theorem chTrace_counters (s : State) (n : Nat) (code : BitVec 16) : (chTrace s n code).counters = s.counters :=
  (chTrace_reports s n code).get State.counters fun _ _ _ _ => rfl
@[simp] theorem chTrace_updates (s : State) (n : Nat) (code : BitVec 16) : (chTrace s n code).updates = s.updates :=
  (chTrace_reports s n code).get State.updates fun _ _ _ _ => rfl
@[simp] theorem chTrace_flights (s : State) (n : Nat) (code : BitVec 16) : (chTrace s n code).flights = s.flights :=
  (chTrace_reports s n code).get State.flights fun _ _ _ _ => rfl
@[simp] theorem chTrace_sy (s : State) (n : Nat) (code : BitVec 16) : (chTrace s n code).sy = s.sy :=
  (chTrace_reports s n code).get State.sy fun _ _ _ _ => rfl
@[simp] theorem chTrace_sec (s : State) (n : Nat) (code : BitVec 16) : (chTrace s n code).sec = s.sec :=
  (chTrace_reports s n code).get State.sec fun _ _ _ _ => rfl
@[simp] theorem chTrace_tw (s : State) (n : Nat) (code : BitVec 16) : (chTrace s n code).tw = s.tw :=
  (chTrace_reports s n code).get State.tw fun _ _ _ _ => rfl
@[simp] theorem chTrace_links (s : State) (n : Nat) (code : BitVec 16) : (chTrace s n code).links = s.links :=
  (chTrace_reports s n code).get State.links fun _ _ _ _ => rfl
@[simp] theorem chTrace_tap (s : State) (n : Nat) (code : BitVec 16) : (chTrace s n code).tap = s.tap :=
  (chTrace_reports s n code).get State.tap fun _ _ _ _ => rfl
@[simp] theorem chTrace_core (s : State) (n : Nat) (code : BitVec 16) (m : Nat) : (chTrace s n code).core m = s.core m :=
  (chTrace_reports s n code).get (fun x => x.core m) fun _ _ _ _ => rfl
@[simp] theorem chTrace_queue (s : State) (n : Nat) (code : BitVec 16) (m : Nat) : (chTrace s n code).queue m = s.queue m :=
  (chTrace_reports s n code).get (fun x => x.queue m) fun _ _ _ _ => rfl
@[simp] theorem chTrace_ctx (s : State) (n : Nat) (code : BitVec 16) (m : Nat) : (chTrace s n code).ctx m = s.ctx m :=
  (chTrace_reports s n code).get (fun x => x.ctx m) fun _ _ _ _ => rfl
@[simp] theorem chTrace_inst (s : State) (n : Nat) (code : BitVec 16) (m : Nat) : (chTrace s n code).inst m = s.inst m :=
  (chTrace_reports s n code).get (fun x => x.inst m) fun _ _ _ _ => rfl
@[simp] theorem chTrace_gen (s : State) (n : Nat) (code : BitVec 16) (m : Nat) : (chTrace s n code).gen m = s.gen m :=
  (chTrace_reports s n code).get (fun x => x.gen m) fun _ _ _ _ => rfl
@[simp] theorem chTrace_counter (s : State) (n : Nat) (code : BitVec 16) (m : Nat) : (chTrace s n code).counter m = s.counter m :=
  (chTrace_reports s n code).get (fun x => x.counter m) fun _ _ _ _ => rfl
@[simp] theorem chTrace_flight (s : State) (n : Nat) (code : BitVec 16) (m : Nat) : (chTrace s n code).flight m = s.flight m :=
  (chTrace_reports s n code).get (fun x => x.flight m) fun _ _ _ _ => rfl
@[simp] theorem chTrace_link (s : State) (n : Nat) (code : BitVec 16) (m : Nat) : (chTrace s n code).link m = s.link m :=
  (chTrace_reports s n code).get (fun x => x.link m) fun _ _ _ _ => rfl
@[simp] theorem chTrace_port (s : State) (n : Nat) (code : BitVec 16) (m : Nat) : (chTrace s n code).port m = s.port m :=
  (chTrace_reports s n code).get (fun x => x.port m) fun _ _ _ _ => rfl
@[simp] theorem chTrace_rgPart (s : State) (n : Nat) (code : BitVec 16) (m : Nat) : (chTrace s n code).rgPart m = s.rgPart m :=
  (chTrace_reports s n code).get (fun x => x.rgPart m) fun _ _ _ _ => rfl
@[simp] theorem chTrace_job (s : State) (n : Nat) (code : BitVec 16) (m : Nat) : (chTrace s n code).job m = s.job m :=
  (chTrace_reports s n code).get (fun x => x.job m) fun _ _ _ _ => rfl
@[simp] theorem chTrace_obj (s : State) (n : Nat) (code : BitVec 16) (m : Nat) : (chTrace s n code).obj m = s.obj m :=
  (chTrace_reports s n code).get (fun x => x.obj m) fun _ _ _ _ => rfl

/-! ### chSample -/

@[simp] theorem chSample_pending (s : State) (n : Nat) : (chSample s n).pending = s.pending :=
  (chSample_reports s n).get State.pending fun _ _ _ _ => rfl
@[simp] theorem chSample_fuse (s : State) (n : Nat) : (chSample s n).fuse = s.fuse :=
  (chSample_reports s n).get State.fuse fun _ _ _ _ => rfl
@[simp] theorem chSample_boot (s : State) (n : Nat) : (chSample s n).boot = s.boot :=
  (chSample_reports s n).get State.boot fun _ _ _ _ => rfl
@[simp] theorem chSample_frozen (s : State) (n : Nat) : (chSample s n).frozen = s.frozen :=
  (chSample_reports s n).get State.frozen fun _ _ _ _ => rfl
@[simp] theorem chSample_ports (s : State) (n : Nat) : (chSample s n).ports = s.ports :=
  (chSample_reports s n).get State.ports fun _ _ _ _ => rfl
@[simp] theorem chSample_writes (s : State) (n : Nat) : (chSample s n).writes = s.writes :=
  (chSample_reports s n).get State.writes fun _ _ _ _ => rfl
@[simp] theorem chSample_mem (s : State) (n : Nat) : (chSample s n).mem = s.mem :=
  (chSample_reports s n).get State.mem fun _ _ _ _ => rfl
@[simp] theorem chSample_poison (s : State) (n : Nat) : (chSample s n).poison = s.poison :=
  (chSample_reports s n).get State.poison fun _ _ _ _ => rfl
@[simp] theorem chSample_esc (s : State) (n : Nat) : (chSample s n).esc = s.esc :=
  (chSample_reports s n).get State.esc fun _ _ _ _ => rfl
@[simp] theorem chSample_au (s : State) (n : Nat) : (chSample s n).au = s.au :=
  (chSample_reports s n).get State.au fun _ _ _ _ => rfl
@[simp] theorem chSample_run (s : State) (n : Nat) : (chSample s n).run = s.run :=
  (chSample_reports s n).get State.run fun _ _ _ _ => rfl
@[simp] theorem chSample_basin (s : State) (n : Nat) : (chSample s n).basin = s.basin :=
  (chSample_reports s n).get State.basin fun _ _ _ _ => rfl
@[simp] theorem chSample_pool (s : State) (n : Nat) : (chSample s n).pool = s.pool :=
  (chSample_reports s n).get State.pool fun _ _ _ _ => rfl
@[simp] theorem chSample_kp (s : State) (n : Nat) : (chSample s n).kp = s.kp :=
  (chSample_reports s n).get State.kp fun _ _ _ _ => rfl
@[simp] theorem chSample_gens (s : State) (n : Nat) : (chSample s n).gens = s.gens :=
  (chSample_reports s n).get State.gens fun _ _ _ _ => rfl
@[simp] theorem chSample_objs (s : State) (n : Nat) : (chSample s n).objs = s.objs :=
  (chSample_reports s n).get State.objs fun _ _ _ _ => rfl
@[simp] theorem chSample_ctxs (s : State) (n : Nat) : (chSample s n).ctxs = s.ctxs :=
  (chSample_reports s n).get State.ctxs fun _ _ _ _ => rfl
@[simp] theorem chSample_queues (s : State) (n : Nat) : (chSample s n).queues = s.queues :=
  (chSample_reports s n).get State.queues fun _ _ _ _ => rfl
@[simp] theorem chSample_insts (s : State) (n : Nat) : (chSample s n).insts = s.insts :=
  (chSample_reports s n).get State.insts fun _ _ _ _ => rfl
@[simp] theorem chSample_shares (s : State) (n : Nat) : (chSample s n).shares = s.shares :=
  (chSample_reports s n).get State.shares fun _ _ _ _ => rfl
@[simp] theorem chSample_rg (s : State) (n : Nat) : (chSample s n).rg = s.rg :=
  (chSample_reports s n).get State.rg fun _ _ _ _ => rfl
@[simp] theorem chSample_rgParts (s : State) (n : Nat) : (chSample s n).rgParts = s.rgParts :=
  (chSample_reports s n).get State.rgParts fun _ _ _ _ => rfl
@[simp] theorem chSample_jobs (s : State) (n : Nat) : (chSample s n).jobs = s.jobs :=
  (chSample_reports s n).get State.jobs fun _ _ _ _ => rfl
@[simp] theorem chSample_nextJob (s : State) (n : Nat) : (chSample s n).nextJob = s.nextJob :=
  (chSample_reports s n).get State.nextJob fun _ _ _ _ => rfl
@[simp] theorem chSample_cores (s : State) (n : Nat) : (chSample s n).cores = s.cores :=
  (chSample_reports s n).get State.cores fun _ _ _ _ => rfl
@[simp] theorem chSample_counters (s : State) (n : Nat) : (chSample s n).counters = s.counters :=
  (chSample_reports s n).get State.counters fun _ _ _ _ => rfl
@[simp] theorem chSample_updates (s : State) (n : Nat) : (chSample s n).updates = s.updates :=
  (chSample_reports s n).get State.updates fun _ _ _ _ => rfl
@[simp] theorem chSample_flights (s : State) (n : Nat) : (chSample s n).flights = s.flights :=
  (chSample_reports s n).get State.flights fun _ _ _ _ => rfl
@[simp] theorem chSample_sy (s : State) (n : Nat) : (chSample s n).sy = s.sy :=
  (chSample_reports s n).get State.sy fun _ _ _ _ => rfl
@[simp] theorem chSample_sec (s : State) (n : Nat) : (chSample s n).sec = s.sec :=
  (chSample_reports s n).get State.sec fun _ _ _ _ => rfl
@[simp] theorem chSample_tw (s : State) (n : Nat) : (chSample s n).tw = s.tw :=
  (chSample_reports s n).get State.tw fun _ _ _ _ => rfl
@[simp] theorem chSample_links (s : State) (n : Nat) : (chSample s n).links = s.links :=
  (chSample_reports s n).get State.links fun _ _ _ _ => rfl
@[simp] theorem chSample_tap (s : State) (n : Nat) : (chSample s n).tap = s.tap :=
  (chSample_reports s n).get State.tap fun _ _ _ _ => rfl
@[simp] theorem chSample_core (s : State) (n : Nat) (m : Nat) : (chSample s n).core m = s.core m :=
  (chSample_reports s n).get (fun x => x.core m) fun _ _ _ _ => rfl
@[simp] theorem chSample_queue (s : State) (n : Nat) (m : Nat) : (chSample s n).queue m = s.queue m :=
  (chSample_reports s n).get (fun x => x.queue m) fun _ _ _ _ => rfl
@[simp] theorem chSample_ctx (s : State) (n : Nat) (m : Nat) : (chSample s n).ctx m = s.ctx m :=
  (chSample_reports s n).get (fun x => x.ctx m) fun _ _ _ _ => rfl
@[simp] theorem chSample_inst (s : State) (n : Nat) (m : Nat) : (chSample s n).inst m = s.inst m :=
  (chSample_reports s n).get (fun x => x.inst m) fun _ _ _ _ => rfl
@[simp] theorem chSample_gen (s : State) (n : Nat) (m : Nat) : (chSample s n).gen m = s.gen m :=
  (chSample_reports s n).get (fun x => x.gen m) fun _ _ _ _ => rfl
@[simp] theorem chSample_counter (s : State) (n : Nat) (m : Nat) : (chSample s n).counter m = s.counter m :=
  (chSample_reports s n).get (fun x => x.counter m) fun _ _ _ _ => rfl
@[simp] theorem chSample_flight (s : State) (n : Nat) (m : Nat) : (chSample s n).flight m = s.flight m :=
  (chSample_reports s n).get (fun x => x.flight m) fun _ _ _ _ => rfl
@[simp] theorem chSample_link (s : State) (n : Nat) (m : Nat) : (chSample s n).link m = s.link m :=
  (chSample_reports s n).get (fun x => x.link m) fun _ _ _ _ => rfl
@[simp] theorem chSample_port (s : State) (n : Nat) (m : Nat) : (chSample s n).port m = s.port m :=
  (chSample_reports s n).get (fun x => x.port m) fun _ _ _ _ => rfl
@[simp] theorem chSample_rgPart (s : State) (n : Nat) (m : Nat) : (chSample s n).rgPart m = s.rgPart m :=
  (chSample_reports s n).get (fun x => x.rgPart m) fun _ _ _ _ => rfl
@[simp] theorem chSample_job (s : State) (n : Nat) (m : Nat) : (chSample s n).job m = s.job m :=
  (chSample_reports s n).get (fun x => x.job m) fun _ _ _ _ => rfl
@[simp] theorem chSample_obj (s : State) (n : Nat) (m : Nat) : (chSample s n).obj m = s.obj m :=
  (chSample_reports s n).get (fun x => x.obj m) fun _ _ _ _ => rfl

/-! ### chPulse -/

@[simp] theorem chPulse_pending (s : State) (n : Nat) (code : BitVec 16) (data : W32) : (chPulse s n code data).pending = s.pending :=
  (chPulse_reports s n code data).get State.pending fun _ _ _ _ => rfl
@[simp] theorem chPulse_fuse (s : State) (n : Nat) (code : BitVec 16) (data : W32) : (chPulse s n code data).fuse = s.fuse :=
  (chPulse_reports s n code data).get State.fuse fun _ _ _ _ => rfl
@[simp] theorem chPulse_boot (s : State) (n : Nat) (code : BitVec 16) (data : W32) : (chPulse s n code data).boot = s.boot :=
  (chPulse_reports s n code data).get State.boot fun _ _ _ _ => rfl
@[simp] theorem chPulse_frozen (s : State) (n : Nat) (code : BitVec 16) (data : W32) : (chPulse s n code data).frozen = s.frozen :=
  (chPulse_reports s n code data).get State.frozen fun _ _ _ _ => rfl
@[simp] theorem chPulse_ports (s : State) (n : Nat) (code : BitVec 16) (data : W32) : (chPulse s n code data).ports = s.ports :=
  (chPulse_reports s n code data).get State.ports fun _ _ _ _ => rfl
@[simp] theorem chPulse_writes (s : State) (n : Nat) (code : BitVec 16) (data : W32) : (chPulse s n code data).writes = s.writes :=
  (chPulse_reports s n code data).get State.writes fun _ _ _ _ => rfl
@[simp] theorem chPulse_mem (s : State) (n : Nat) (code : BitVec 16) (data : W32) : (chPulse s n code data).mem = s.mem :=
  (chPulse_reports s n code data).get State.mem fun _ _ _ _ => rfl
@[simp] theorem chPulse_poison (s : State) (n : Nat) (code : BitVec 16) (data : W32) : (chPulse s n code data).poison = s.poison :=
  (chPulse_reports s n code data).get State.poison fun _ _ _ _ => rfl
@[simp] theorem chPulse_esc (s : State) (n : Nat) (code : BitVec 16) (data : W32) : (chPulse s n code data).esc = s.esc :=
  (chPulse_reports s n code data).get State.esc fun _ _ _ _ => rfl
@[simp] theorem chPulse_au (s : State) (n : Nat) (code : BitVec 16) (data : W32) : (chPulse s n code data).au = s.au :=
  (chPulse_reports s n code data).get State.au fun _ _ _ _ => rfl
@[simp] theorem chPulse_run (s : State) (n : Nat) (code : BitVec 16) (data : W32) : (chPulse s n code data).run = s.run :=
  (chPulse_reports s n code data).get State.run fun _ _ _ _ => rfl
@[simp] theorem chPulse_basin (s : State) (n : Nat) (code : BitVec 16) (data : W32) : (chPulse s n code data).basin = s.basin :=
  (chPulse_reports s n code data).get State.basin fun _ _ _ _ => rfl
@[simp] theorem chPulse_pool (s : State) (n : Nat) (code : BitVec 16) (data : W32) : (chPulse s n code data).pool = s.pool :=
  (chPulse_reports s n code data).get State.pool fun _ _ _ _ => rfl
@[simp] theorem chPulse_kp (s : State) (n : Nat) (code : BitVec 16) (data : W32) : (chPulse s n code data).kp = s.kp :=
  (chPulse_reports s n code data).get State.kp fun _ _ _ _ => rfl
@[simp] theorem chPulse_gens (s : State) (n : Nat) (code : BitVec 16) (data : W32) : (chPulse s n code data).gens = s.gens :=
  (chPulse_reports s n code data).get State.gens fun _ _ _ _ => rfl
@[simp] theorem chPulse_objs (s : State) (n : Nat) (code : BitVec 16) (data : W32) : (chPulse s n code data).objs = s.objs :=
  (chPulse_reports s n code data).get State.objs fun _ _ _ _ => rfl
@[simp] theorem chPulse_ctxs (s : State) (n : Nat) (code : BitVec 16) (data : W32) : (chPulse s n code data).ctxs = s.ctxs :=
  (chPulse_reports s n code data).get State.ctxs fun _ _ _ _ => rfl
@[simp] theorem chPulse_queues (s : State) (n : Nat) (code : BitVec 16) (data : W32) : (chPulse s n code data).queues = s.queues :=
  (chPulse_reports s n code data).get State.queues fun _ _ _ _ => rfl
@[simp] theorem chPulse_insts (s : State) (n : Nat) (code : BitVec 16) (data : W32) : (chPulse s n code data).insts = s.insts :=
  (chPulse_reports s n code data).get State.insts fun _ _ _ _ => rfl
@[simp] theorem chPulse_shares (s : State) (n : Nat) (code : BitVec 16) (data : W32) : (chPulse s n code data).shares = s.shares :=
  (chPulse_reports s n code data).get State.shares fun _ _ _ _ => rfl
@[simp] theorem chPulse_rg (s : State) (n : Nat) (code : BitVec 16) (data : W32) : (chPulse s n code data).rg = s.rg :=
  (chPulse_reports s n code data).get State.rg fun _ _ _ _ => rfl
@[simp] theorem chPulse_rgParts (s : State) (n : Nat) (code : BitVec 16) (data : W32) : (chPulse s n code data).rgParts = s.rgParts :=
  (chPulse_reports s n code data).get State.rgParts fun _ _ _ _ => rfl
@[simp] theorem chPulse_jobs (s : State) (n : Nat) (code : BitVec 16) (data : W32) : (chPulse s n code data).jobs = s.jobs :=
  (chPulse_reports s n code data).get State.jobs fun _ _ _ _ => rfl
@[simp] theorem chPulse_nextJob (s : State) (n : Nat) (code : BitVec 16) (data : W32) : (chPulse s n code data).nextJob = s.nextJob :=
  (chPulse_reports s n code data).get State.nextJob fun _ _ _ _ => rfl
@[simp] theorem chPulse_cores (s : State) (n : Nat) (code : BitVec 16) (data : W32) : (chPulse s n code data).cores = s.cores :=
  (chPulse_reports s n code data).get State.cores fun _ _ _ _ => rfl
@[simp] theorem chPulse_counters (s : State) (n : Nat) (code : BitVec 16) (data : W32) : (chPulse s n code data).counters = s.counters :=
  (chPulse_reports s n code data).get State.counters fun _ _ _ _ => rfl
@[simp] theorem chPulse_updates (s : State) (n : Nat) (code : BitVec 16) (data : W32) : (chPulse s n code data).updates = s.updates :=
  (chPulse_reports s n code data).get State.updates fun _ _ _ _ => rfl
@[simp] theorem chPulse_flights (s : State) (n : Nat) (code : BitVec 16) (data : W32) : (chPulse s n code data).flights = s.flights :=
  (chPulse_reports s n code data).get State.flights fun _ _ _ _ => rfl
@[simp] theorem chPulse_sy (s : State) (n : Nat) (code : BitVec 16) (data : W32) : (chPulse s n code data).sy = s.sy :=
  (chPulse_reports s n code data).get State.sy fun _ _ _ _ => rfl
@[simp] theorem chPulse_sec (s : State) (n : Nat) (code : BitVec 16) (data : W32) : (chPulse s n code data).sec = s.sec :=
  (chPulse_reports s n code data).get State.sec fun _ _ _ _ => rfl
@[simp] theorem chPulse_tw (s : State) (n : Nat) (code : BitVec 16) (data : W32) : (chPulse s n code data).tw = s.tw :=
  (chPulse_reports s n code data).get State.tw fun _ _ _ _ => rfl
@[simp] theorem chPulse_links (s : State) (n : Nat) (code : BitVec 16) (data : W32) : (chPulse s n code data).links = s.links :=
  (chPulse_reports s n code data).get State.links fun _ _ _ _ => rfl
@[simp] theorem chPulse_tap (s : State) (n : Nat) (code : BitVec 16) (data : W32) : (chPulse s n code data).tap = s.tap :=
  (chPulse_reports s n code data).get State.tap fun _ _ _ _ => rfl
@[simp] theorem chPulse_core (s : State) (n : Nat) (code : BitVec 16) (data : W32) (m : Nat) : (chPulse s n code data).core m = s.core m :=
  (chPulse_reports s n code data).get (fun x => x.core m) fun _ _ _ _ => rfl
@[simp] theorem chPulse_queue (s : State) (n : Nat) (code : BitVec 16) (data : W32) (m : Nat) : (chPulse s n code data).queue m = s.queue m :=
  (chPulse_reports s n code data).get (fun x => x.queue m) fun _ _ _ _ => rfl
@[simp] theorem chPulse_ctx (s : State) (n : Nat) (code : BitVec 16) (data : W32) (m : Nat) : (chPulse s n code data).ctx m = s.ctx m :=
  (chPulse_reports s n code data).get (fun x => x.ctx m) fun _ _ _ _ => rfl
@[simp] theorem chPulse_inst (s : State) (n : Nat) (code : BitVec 16) (data : W32) (m : Nat) : (chPulse s n code data).inst m = s.inst m :=
  (chPulse_reports s n code data).get (fun x => x.inst m) fun _ _ _ _ => rfl
@[simp] theorem chPulse_gen (s : State) (n : Nat) (code : BitVec 16) (data : W32) (m : Nat) : (chPulse s n code data).gen m = s.gen m :=
  (chPulse_reports s n code data).get (fun x => x.gen m) fun _ _ _ _ => rfl
@[simp] theorem chPulse_counter (s : State) (n : Nat) (code : BitVec 16) (data : W32) (m : Nat) : (chPulse s n code data).counter m = s.counter m :=
  (chPulse_reports s n code data).get (fun x => x.counter m) fun _ _ _ _ => rfl
@[simp] theorem chPulse_flight (s : State) (n : Nat) (code : BitVec 16) (data : W32) (m : Nat) : (chPulse s n code data).flight m = s.flight m :=
  (chPulse_reports s n code data).get (fun x => x.flight m) fun _ _ _ _ => rfl
@[simp] theorem chPulse_link (s : State) (n : Nat) (code : BitVec 16) (data : W32) (m : Nat) : (chPulse s n code data).link m = s.link m :=
  (chPulse_reports s n code data).get (fun x => x.link m) fun _ _ _ _ => rfl
@[simp] theorem chPulse_port (s : State) (n : Nat) (code : BitVec 16) (data : W32) (m : Nat) : (chPulse s n code data).port m = s.port m :=
  (chPulse_reports s n code data).get (fun x => x.port m) fun _ _ _ _ => rfl
@[simp] theorem chPulse_rgPart (s : State) (n : Nat) (code : BitVec 16) (data : W32) (m : Nat) : (chPulse s n code data).rgPart m = s.rgPart m :=
  (chPulse_reports s n code data).get (fun x => x.rgPart m) fun _ _ _ _ => rfl
@[simp] theorem chPulse_job (s : State) (n : Nat) (code : BitVec 16) (data : W32) (m : Nat) : (chPulse s n code data).job m = s.job m :=
  (chPulse_reports s n code data).get (fun x => x.job m) fun _ _ _ _ => rfl
@[simp] theorem chPulse_obj (s : State) (n : Nat) (code : BitVec 16) (data : W32) (m : Nat) : (chPulse s n code data).obj m = s.obj m :=
  (chPulse_reports s n code data).get (fun x => x.obj m) fun _ _ _ _ => rfl

/-! ### chSampleAll -/

@[simp] theorem chSampleAll_pending (s : State) : (chSampleAll s).pending = s.pending :=
  (chSampleAll_reports s).get State.pending fun _ _ _ _ => rfl
@[simp] theorem chSampleAll_fuse (s : State) : (chSampleAll s).fuse = s.fuse :=
  (chSampleAll_reports s).get State.fuse fun _ _ _ _ => rfl
@[simp] theorem chSampleAll_boot (s : State) : (chSampleAll s).boot = s.boot :=
  (chSampleAll_reports s).get State.boot fun _ _ _ _ => rfl
@[simp] theorem chSampleAll_frozen (s : State) : (chSampleAll s).frozen = s.frozen :=
  (chSampleAll_reports s).get State.frozen fun _ _ _ _ => rfl
@[simp] theorem chSampleAll_ports (s : State) : (chSampleAll s).ports = s.ports :=
  (chSampleAll_reports s).get State.ports fun _ _ _ _ => rfl
@[simp] theorem chSampleAll_writes (s : State) : (chSampleAll s).writes = s.writes :=
  (chSampleAll_reports s).get State.writes fun _ _ _ _ => rfl
@[simp] theorem chSampleAll_mem (s : State) : (chSampleAll s).mem = s.mem :=
  (chSampleAll_reports s).get State.mem fun _ _ _ _ => rfl
@[simp] theorem chSampleAll_poison (s : State) : (chSampleAll s).poison = s.poison :=
  (chSampleAll_reports s).get State.poison fun _ _ _ _ => rfl
@[simp] theorem chSampleAll_esc (s : State) : (chSampleAll s).esc = s.esc :=
  (chSampleAll_reports s).get State.esc fun _ _ _ _ => rfl
@[simp] theorem chSampleAll_au (s : State) : (chSampleAll s).au = s.au :=
  (chSampleAll_reports s).get State.au fun _ _ _ _ => rfl
@[simp] theorem chSampleAll_run (s : State) : (chSampleAll s).run = s.run :=
  (chSampleAll_reports s).get State.run fun _ _ _ _ => rfl
@[simp] theorem chSampleAll_basin (s : State) : (chSampleAll s).basin = s.basin :=
  (chSampleAll_reports s).get State.basin fun _ _ _ _ => rfl
@[simp] theorem chSampleAll_pool (s : State) : (chSampleAll s).pool = s.pool :=
  (chSampleAll_reports s).get State.pool fun _ _ _ _ => rfl
@[simp] theorem chSampleAll_kp (s : State) : (chSampleAll s).kp = s.kp :=
  (chSampleAll_reports s).get State.kp fun _ _ _ _ => rfl
@[simp] theorem chSampleAll_gens (s : State) : (chSampleAll s).gens = s.gens :=
  (chSampleAll_reports s).get State.gens fun _ _ _ _ => rfl
@[simp] theorem chSampleAll_objs (s : State) : (chSampleAll s).objs = s.objs :=
  (chSampleAll_reports s).get State.objs fun _ _ _ _ => rfl
@[simp] theorem chSampleAll_ctxs (s : State) : (chSampleAll s).ctxs = s.ctxs :=
  (chSampleAll_reports s).get State.ctxs fun _ _ _ _ => rfl
@[simp] theorem chSampleAll_queues (s : State) : (chSampleAll s).queues = s.queues :=
  (chSampleAll_reports s).get State.queues fun _ _ _ _ => rfl
@[simp] theorem chSampleAll_insts (s : State) : (chSampleAll s).insts = s.insts :=
  (chSampleAll_reports s).get State.insts fun _ _ _ _ => rfl
@[simp] theorem chSampleAll_shares (s : State) : (chSampleAll s).shares = s.shares :=
  (chSampleAll_reports s).get State.shares fun _ _ _ _ => rfl
@[simp] theorem chSampleAll_rg (s : State) : (chSampleAll s).rg = s.rg :=
  (chSampleAll_reports s).get State.rg fun _ _ _ _ => rfl
@[simp] theorem chSampleAll_rgParts (s : State) : (chSampleAll s).rgParts = s.rgParts :=
  (chSampleAll_reports s).get State.rgParts fun _ _ _ _ => rfl
@[simp] theorem chSampleAll_jobs (s : State) : (chSampleAll s).jobs = s.jobs :=
  (chSampleAll_reports s).get State.jobs fun _ _ _ _ => rfl
@[simp] theorem chSampleAll_nextJob (s : State) : (chSampleAll s).nextJob = s.nextJob :=
  (chSampleAll_reports s).get State.nextJob fun _ _ _ _ => rfl
@[simp] theorem chSampleAll_cores (s : State) : (chSampleAll s).cores = s.cores :=
  (chSampleAll_reports s).get State.cores fun _ _ _ _ => rfl
@[simp] theorem chSampleAll_counters (s : State) : (chSampleAll s).counters = s.counters :=
  (chSampleAll_reports s).get State.counters fun _ _ _ _ => rfl
@[simp] theorem chSampleAll_updates (s : State) : (chSampleAll s).updates = s.updates :=
  (chSampleAll_reports s).get State.updates fun _ _ _ _ => rfl
@[simp] theorem chSampleAll_flights (s : State) : (chSampleAll s).flights = s.flights :=
  (chSampleAll_reports s).get State.flights fun _ _ _ _ => rfl
@[simp] theorem chSampleAll_sy (s : State) : (chSampleAll s).sy = s.sy :=
  (chSampleAll_reports s).get State.sy fun _ _ _ _ => rfl
@[simp] theorem chSampleAll_sec (s : State) : (chSampleAll s).sec = s.sec :=
  (chSampleAll_reports s).get State.sec fun _ _ _ _ => rfl
@[simp] theorem chSampleAll_tw (s : State) : (chSampleAll s).tw = s.tw :=
  (chSampleAll_reports s).get State.tw fun _ _ _ _ => rfl
@[simp] theorem chSampleAll_links (s : State) : (chSampleAll s).links = s.links :=
  (chSampleAll_reports s).get State.links fun _ _ _ _ => rfl
@[simp] theorem chSampleAll_tap (s : State) : (chSampleAll s).tap = s.tap :=
  (chSampleAll_reports s).get State.tap fun _ _ _ _ => rfl
@[simp] theorem chSampleAll_core (s : State) (m : Nat) : (chSampleAll s).core m = s.core m :=
  (chSampleAll_reports s).get (fun x => x.core m) fun _ _ _ _ => rfl
@[simp] theorem chSampleAll_queue (s : State) (m : Nat) : (chSampleAll s).queue m = s.queue m :=
  (chSampleAll_reports s).get (fun x => x.queue m) fun _ _ _ _ => rfl
@[simp] theorem chSampleAll_ctx (s : State) (m : Nat) : (chSampleAll s).ctx m = s.ctx m :=
  (chSampleAll_reports s).get (fun x => x.ctx m) fun _ _ _ _ => rfl
@[simp] theorem chSampleAll_inst (s : State) (m : Nat) : (chSampleAll s).inst m = s.inst m :=
  (chSampleAll_reports s).get (fun x => x.inst m) fun _ _ _ _ => rfl
@[simp] theorem chSampleAll_gen (s : State) (m : Nat) : (chSampleAll s).gen m = s.gen m :=
  (chSampleAll_reports s).get (fun x => x.gen m) fun _ _ _ _ => rfl
@[simp] theorem chSampleAll_counter (s : State) (m : Nat) : (chSampleAll s).counter m = s.counter m :=
  (chSampleAll_reports s).get (fun x => x.counter m) fun _ _ _ _ => rfl
@[simp] theorem chSampleAll_flight (s : State) (m : Nat) : (chSampleAll s).flight m = s.flight m :=
  (chSampleAll_reports s).get (fun x => x.flight m) fun _ _ _ _ => rfl
@[simp] theorem chSampleAll_link (s : State) (m : Nat) : (chSampleAll s).link m = s.link m :=
  (chSampleAll_reports s).get (fun x => x.link m) fun _ _ _ _ => rfl
@[simp] theorem chSampleAll_port (s : State) (m : Nat) : (chSampleAll s).port m = s.port m :=
  (chSampleAll_reports s).get (fun x => x.port m) fun _ _ _ _ => rfl
@[simp] theorem chSampleAll_rgPart (s : State) (m : Nat) : (chSampleAll s).rgPart m = s.rgPart m :=
  (chSampleAll_reports s).get (fun x => x.rgPart m) fun _ _ _ _ => rfl
@[simp] theorem chSampleAll_job (s : State) (m : Nat) : (chSampleAll s).job m = s.job m :=
  (chSampleAll_reports s).get (fun x => x.job m) fun _ _ _ _ => rfl
@[simp] theorem chSampleAll_obj (s : State) (m : Nat) : (chSampleAll s).obj m = s.obj m :=
  (chSampleAll_reports s).get (fun x => x.obj m) fun _ _ _ _ => rfl

/-! ### chStray -/

@[simp] theorem chStray_pending (s : State) (n : Nat) : (chStray s n).pending = s.pending :=
  (chStray_reports s n).get State.pending fun _ _ _ _ => rfl
@[simp] theorem chStray_fuse (s : State) (n : Nat) : (chStray s n).fuse = s.fuse :=
  (chStray_reports s n).get State.fuse fun _ _ _ _ => rfl
@[simp] theorem chStray_boot (s : State) (n : Nat) : (chStray s n).boot = s.boot :=
  (chStray_reports s n).get State.boot fun _ _ _ _ => rfl
@[simp] theorem chStray_frozen (s : State) (n : Nat) : (chStray s n).frozen = s.frozen :=
  (chStray_reports s n).get State.frozen fun _ _ _ _ => rfl
@[simp] theorem chStray_ports (s : State) (n : Nat) : (chStray s n).ports = s.ports :=
  (chStray_reports s n).get State.ports fun _ _ _ _ => rfl
@[simp] theorem chStray_writes (s : State) (n : Nat) : (chStray s n).writes = s.writes :=
  (chStray_reports s n).get State.writes fun _ _ _ _ => rfl
@[simp] theorem chStray_mem (s : State) (n : Nat) : (chStray s n).mem = s.mem :=
  (chStray_reports s n).get State.mem fun _ _ _ _ => rfl
@[simp] theorem chStray_poison (s : State) (n : Nat) : (chStray s n).poison = s.poison :=
  (chStray_reports s n).get State.poison fun _ _ _ _ => rfl
@[simp] theorem chStray_esc (s : State) (n : Nat) : (chStray s n).esc = s.esc :=
  (chStray_reports s n).get State.esc fun _ _ _ _ => rfl
@[simp] theorem chStray_au (s : State) (n : Nat) : (chStray s n).au = s.au :=
  (chStray_reports s n).get State.au fun _ _ _ _ => rfl
@[simp] theorem chStray_run (s : State) (n : Nat) : (chStray s n).run = s.run :=
  (chStray_reports s n).get State.run fun _ _ _ _ => rfl
@[simp] theorem chStray_basin (s : State) (n : Nat) : (chStray s n).basin = s.basin :=
  (chStray_reports s n).get State.basin fun _ _ _ _ => rfl
@[simp] theorem chStray_pool (s : State) (n : Nat) : (chStray s n).pool = s.pool :=
  (chStray_reports s n).get State.pool fun _ _ _ _ => rfl
@[simp] theorem chStray_kp (s : State) (n : Nat) : (chStray s n).kp = s.kp :=
  (chStray_reports s n).get State.kp fun _ _ _ _ => rfl
@[simp] theorem chStray_gens (s : State) (n : Nat) : (chStray s n).gens = s.gens :=
  (chStray_reports s n).get State.gens fun _ _ _ _ => rfl
@[simp] theorem chStray_objs (s : State) (n : Nat) : (chStray s n).objs = s.objs :=
  (chStray_reports s n).get State.objs fun _ _ _ _ => rfl
@[simp] theorem chStray_ctxs (s : State) (n : Nat) : (chStray s n).ctxs = s.ctxs :=
  (chStray_reports s n).get State.ctxs fun _ _ _ _ => rfl
@[simp] theorem chStray_queues (s : State) (n : Nat) : (chStray s n).queues = s.queues :=
  (chStray_reports s n).get State.queues fun _ _ _ _ => rfl
@[simp] theorem chStray_insts (s : State) (n : Nat) : (chStray s n).insts = s.insts :=
  (chStray_reports s n).get State.insts fun _ _ _ _ => rfl
@[simp] theorem chStray_shares (s : State) (n : Nat) : (chStray s n).shares = s.shares :=
  (chStray_reports s n).get State.shares fun _ _ _ _ => rfl
@[simp] theorem chStray_rg (s : State) (n : Nat) : (chStray s n).rg = s.rg :=
  (chStray_reports s n).get State.rg fun _ _ _ _ => rfl
@[simp] theorem chStray_rgParts (s : State) (n : Nat) : (chStray s n).rgParts = s.rgParts :=
  (chStray_reports s n).get State.rgParts fun _ _ _ _ => rfl
@[simp] theorem chStray_jobs (s : State) (n : Nat) : (chStray s n).jobs = s.jobs :=
  (chStray_reports s n).get State.jobs fun _ _ _ _ => rfl
@[simp] theorem chStray_nextJob (s : State) (n : Nat) : (chStray s n).nextJob = s.nextJob :=
  (chStray_reports s n).get State.nextJob fun _ _ _ _ => rfl
@[simp] theorem chStray_cores (s : State) (n : Nat) : (chStray s n).cores = s.cores :=
  (chStray_reports s n).get State.cores fun _ _ _ _ => rfl
@[simp] theorem chStray_counters (s : State) (n : Nat) : (chStray s n).counters = s.counters :=
  (chStray_reports s n).get State.counters fun _ _ _ _ => rfl
@[simp] theorem chStray_updates (s : State) (n : Nat) : (chStray s n).updates = s.updates :=
  (chStray_reports s n).get State.updates fun _ _ _ _ => rfl
@[simp] theorem chStray_flights (s : State) (n : Nat) : (chStray s n).flights = s.flights :=
  (chStray_reports s n).get State.flights fun _ _ _ _ => rfl
@[simp] theorem chStray_sy (s : State) (n : Nat) : (chStray s n).sy = s.sy :=
  (chStray_reports s n).get State.sy fun _ _ _ _ => rfl
@[simp] theorem chStray_sec (s : State) (n : Nat) : (chStray s n).sec = s.sec :=
  (chStray_reports s n).get State.sec fun _ _ _ _ => rfl
@[simp] theorem chStray_tw (s : State) (n : Nat) : (chStray s n).tw = s.tw :=
  (chStray_reports s n).get State.tw fun _ _ _ _ => rfl
@[simp] theorem chStray_links (s : State) (n : Nat) : (chStray s n).links = s.links :=
  (chStray_reports s n).get State.links fun _ _ _ _ => rfl
@[simp] theorem chStray_tap (s : State) (n : Nat) : (chStray s n).tap = s.tap :=
  (chStray_reports s n).get State.tap fun _ _ _ _ => rfl
@[simp] theorem chStray_core (s : State) (n : Nat) (m : Nat) : (chStray s n).core m = s.core m :=
  (chStray_reports s n).get (fun x => x.core m) fun _ _ _ _ => rfl
@[simp] theorem chStray_queue (s : State) (n : Nat) (m : Nat) : (chStray s n).queue m = s.queue m :=
  (chStray_reports s n).get (fun x => x.queue m) fun _ _ _ _ => rfl
@[simp] theorem chStray_ctx (s : State) (n : Nat) (m : Nat) : (chStray s n).ctx m = s.ctx m :=
  (chStray_reports s n).get (fun x => x.ctx m) fun _ _ _ _ => rfl
@[simp] theorem chStray_inst (s : State) (n : Nat) (m : Nat) : (chStray s n).inst m = s.inst m :=
  (chStray_reports s n).get (fun x => x.inst m) fun _ _ _ _ => rfl
@[simp] theorem chStray_gen (s : State) (n : Nat) (m : Nat) : (chStray s n).gen m = s.gen m :=
  (chStray_reports s n).get (fun x => x.gen m) fun _ _ _ _ => rfl
@[simp] theorem chStray_counter (s : State) (n : Nat) (m : Nat) : (chStray s n).counter m = s.counter m :=
  (chStray_reports s n).get (fun x => x.counter m) fun _ _ _ _ => rfl
@[simp] theorem chStray_flight (s : State) (n : Nat) (m : Nat) : (chStray s n).flight m = s.flight m :=
  (chStray_reports s n).get (fun x => x.flight m) fun _ _ _ _ => rfl
@[simp] theorem chStray_link (s : State) (n : Nat) (m : Nat) : (chStray s n).link m = s.link m :=
  (chStray_reports s n).get (fun x => x.link m) fun _ _ _ _ => rfl
@[simp] theorem chStray_port (s : State) (n : Nat) (m : Nat) : (chStray s n).port m = s.port m :=
  (chStray_reports s n).get (fun x => x.port m) fun _ _ _ _ => rfl
@[simp] theorem chStray_rgPart (s : State) (n : Nat) (m : Nat) : (chStray s n).rgPart m = s.rgPart m :=
  (chStray_reports s n).get (fun x => x.rgPart m) fun _ _ _ _ => rfl
@[simp] theorem chStray_job (s : State) (n : Nat) (m : Nat) : (chStray s n).job m = s.job m :=
  (chStray_reports s n).get (fun x => x.job m) fun _ _ _ _ => rfl
@[simp] theorem chStray_obj (s : State) (n : Nat) (m : Nat) : (chStray s n).obj m = s.obj m :=
  (chStray_reports s n).get (fun x => x.obj m) fun _ _ _ _ => rfl

/-! ### chComplete -/

@[simp] theorem chComplete_pending (s : State) (via : Option Nat) (n : Nat) : (chComplete s via n).pending = s.pending :=
  (chComplete_reports s via n).get State.pending fun _ _ _ _ => rfl
@[simp] theorem chComplete_fuse (s : State) (via : Option Nat) (n : Nat) : (chComplete s via n).fuse = s.fuse :=
  (chComplete_reports s via n).get State.fuse fun _ _ _ _ => rfl
@[simp] theorem chComplete_boot (s : State) (via : Option Nat) (n : Nat) : (chComplete s via n).boot = s.boot :=
  (chComplete_reports s via n).get State.boot fun _ _ _ _ => rfl
@[simp] theorem chComplete_frozen (s : State) (via : Option Nat) (n : Nat) : (chComplete s via n).frozen = s.frozen :=
  (chComplete_reports s via n).get State.frozen fun _ _ _ _ => rfl
@[simp] theorem chComplete_ports (s : State) (via : Option Nat) (n : Nat) : (chComplete s via n).ports = s.ports :=
  (chComplete_reports s via n).get State.ports fun _ _ _ _ => rfl
@[simp] theorem chComplete_writes (s : State) (via : Option Nat) (n : Nat) : (chComplete s via n).writes = s.writes :=
  (chComplete_reports s via n).get State.writes fun _ _ _ _ => rfl
@[simp] theorem chComplete_mem (s : State) (via : Option Nat) (n : Nat) : (chComplete s via n).mem = s.mem :=
  (chComplete_reports s via n).get State.mem fun _ _ _ _ => rfl
@[simp] theorem chComplete_poison (s : State) (via : Option Nat) (n : Nat) : (chComplete s via n).poison = s.poison :=
  (chComplete_reports s via n).get State.poison fun _ _ _ _ => rfl
@[simp] theorem chComplete_esc (s : State) (via : Option Nat) (n : Nat) : (chComplete s via n).esc = s.esc :=
  (chComplete_reports s via n).get State.esc fun _ _ _ _ => rfl
@[simp] theorem chComplete_au (s : State) (via : Option Nat) (n : Nat) : (chComplete s via n).au = s.au :=
  (chComplete_reports s via n).get State.au fun _ _ _ _ => rfl
@[simp] theorem chComplete_run (s : State) (via : Option Nat) (n : Nat) : (chComplete s via n).run = s.run :=
  (chComplete_reports s via n).get State.run fun _ _ _ _ => rfl
@[simp] theorem chComplete_basin (s : State) (via : Option Nat) (n : Nat) : (chComplete s via n).basin = s.basin :=
  (chComplete_reports s via n).get State.basin fun _ _ _ _ => rfl
@[simp] theorem chComplete_pool (s : State) (via : Option Nat) (n : Nat) : (chComplete s via n).pool = s.pool :=
  (chComplete_reports s via n).get State.pool fun _ _ _ _ => rfl
@[simp] theorem chComplete_kp (s : State) (via : Option Nat) (n : Nat) : (chComplete s via n).kp = s.kp :=
  (chComplete_reports s via n).get State.kp fun _ _ _ _ => rfl
@[simp] theorem chComplete_gens (s : State) (via : Option Nat) (n : Nat) : (chComplete s via n).gens = s.gens :=
  (chComplete_reports s via n).get State.gens fun _ _ _ _ => rfl
@[simp] theorem chComplete_objs (s : State) (via : Option Nat) (n : Nat) : (chComplete s via n).objs = s.objs :=
  (chComplete_reports s via n).get State.objs fun _ _ _ _ => rfl
@[simp] theorem chComplete_ctxs (s : State) (via : Option Nat) (n : Nat) : (chComplete s via n).ctxs = s.ctxs :=
  (chComplete_reports s via n).get State.ctxs fun _ _ _ _ => rfl
@[simp] theorem chComplete_queues (s : State) (via : Option Nat) (n : Nat) : (chComplete s via n).queues = s.queues :=
  (chComplete_reports s via n).get State.queues fun _ _ _ _ => rfl
@[simp] theorem chComplete_insts (s : State) (via : Option Nat) (n : Nat) : (chComplete s via n).insts = s.insts :=
  (chComplete_reports s via n).get State.insts fun _ _ _ _ => rfl
@[simp] theorem chComplete_shares (s : State) (via : Option Nat) (n : Nat) : (chComplete s via n).shares = s.shares :=
  (chComplete_reports s via n).get State.shares fun _ _ _ _ => rfl
@[simp] theorem chComplete_rg (s : State) (via : Option Nat) (n : Nat) : (chComplete s via n).rg = s.rg :=
  (chComplete_reports s via n).get State.rg fun _ _ _ _ => rfl
@[simp] theorem chComplete_rgParts (s : State) (via : Option Nat) (n : Nat) : (chComplete s via n).rgParts = s.rgParts :=
  (chComplete_reports s via n).get State.rgParts fun _ _ _ _ => rfl
@[simp] theorem chComplete_jobs (s : State) (via : Option Nat) (n : Nat) : (chComplete s via n).jobs = s.jobs :=
  (chComplete_reports s via n).get State.jobs fun _ _ _ _ => rfl
@[simp] theorem chComplete_nextJob (s : State) (via : Option Nat) (n : Nat) : (chComplete s via n).nextJob = s.nextJob :=
  (chComplete_reports s via n).get State.nextJob fun _ _ _ _ => rfl
@[simp] theorem chComplete_cores (s : State) (via : Option Nat) (n : Nat) : (chComplete s via n).cores = s.cores :=
  (chComplete_reports s via n).get State.cores fun _ _ _ _ => rfl
@[simp] theorem chComplete_counters (s : State) (via : Option Nat) (n : Nat) : (chComplete s via n).counters = s.counters :=
  (chComplete_reports s via n).get State.counters fun _ _ _ _ => rfl
@[simp] theorem chComplete_updates (s : State) (via : Option Nat) (n : Nat) : (chComplete s via n).updates = s.updates :=
  (chComplete_reports s via n).get State.updates fun _ _ _ _ => rfl
@[simp] theorem chComplete_flights (s : State) (via : Option Nat) (n : Nat) : (chComplete s via n).flights = s.flights :=
  (chComplete_reports s via n).get State.flights fun _ _ _ _ => rfl
@[simp] theorem chComplete_sy (s : State) (via : Option Nat) (n : Nat) : (chComplete s via n).sy = s.sy :=
  (chComplete_reports s via n).get State.sy fun _ _ _ _ => rfl
@[simp] theorem chComplete_sec (s : State) (via : Option Nat) (n : Nat) : (chComplete s via n).sec = s.sec :=
  (chComplete_reports s via n).get State.sec fun _ _ _ _ => rfl
@[simp] theorem chComplete_tw (s : State) (via : Option Nat) (n : Nat) : (chComplete s via n).tw = s.tw :=
  (chComplete_reports s via n).get State.tw fun _ _ _ _ => rfl
@[simp] theorem chComplete_links (s : State) (via : Option Nat) (n : Nat) : (chComplete s via n).links = s.links :=
  (chComplete_reports s via n).get State.links fun _ _ _ _ => rfl
@[simp] theorem chComplete_tap (s : State) (via : Option Nat) (n : Nat) : (chComplete s via n).tap = s.tap :=
  (chComplete_reports s via n).get State.tap fun _ _ _ _ => rfl
@[simp] theorem chComplete_core (s : State) (via : Option Nat) (n : Nat) (m : Nat) : (chComplete s via n).core m = s.core m :=
  (chComplete_reports s via n).get (fun x => x.core m) fun _ _ _ _ => rfl
@[simp] theorem chComplete_queue (s : State) (via : Option Nat) (n : Nat) (m : Nat) : (chComplete s via n).queue m = s.queue m :=
  (chComplete_reports s via n).get (fun x => x.queue m) fun _ _ _ _ => rfl
@[simp] theorem chComplete_ctx (s : State) (via : Option Nat) (n : Nat) (m : Nat) : (chComplete s via n).ctx m = s.ctx m :=
  (chComplete_reports s via n).get (fun x => x.ctx m) fun _ _ _ _ => rfl
@[simp] theorem chComplete_inst (s : State) (via : Option Nat) (n : Nat) (m : Nat) : (chComplete s via n).inst m = s.inst m :=
  (chComplete_reports s via n).get (fun x => x.inst m) fun _ _ _ _ => rfl
@[simp] theorem chComplete_gen (s : State) (via : Option Nat) (n : Nat) (m : Nat) : (chComplete s via n).gen m = s.gen m :=
  (chComplete_reports s via n).get (fun x => x.gen m) fun _ _ _ _ => rfl
@[simp] theorem chComplete_counter (s : State) (via : Option Nat) (n : Nat) (m : Nat) : (chComplete s via n).counter m = s.counter m :=
  (chComplete_reports s via n).get (fun x => x.counter m) fun _ _ _ _ => rfl
@[simp] theorem chComplete_flight (s : State) (via : Option Nat) (n : Nat) (m : Nat) : (chComplete s via n).flight m = s.flight m :=
  (chComplete_reports s via n).get (fun x => x.flight m) fun _ _ _ _ => rfl
@[simp] theorem chComplete_link (s : State) (via : Option Nat) (n : Nat) (m : Nat) : (chComplete s via n).link m = s.link m :=
  (chComplete_reports s via n).get (fun x => x.link m) fun _ _ _ _ => rfl
@[simp] theorem chComplete_port (s : State) (via : Option Nat) (n : Nat) (m : Nat) : (chComplete s via n).port m = s.port m :=
  (chComplete_reports s via n).get (fun x => x.port m) fun _ _ _ _ => rfl
@[simp] theorem chComplete_rgPart (s : State) (via : Option Nat) (n : Nat) (m : Nat) : (chComplete s via n).rgPart m = s.rgPart m :=
  (chComplete_reports s via n).get (fun x => x.rgPart m) fun _ _ _ _ => rfl
@[simp] theorem chComplete_job (s : State) (via : Option Nat) (n : Nat) (m : Nat) : (chComplete s via n).job m = s.job m :=
  (chComplete_reports s via n).get (fun x => x.job m) fun _ _ _ _ => rfl
@[simp] theorem chComplete_obj (s : State) (via : Option Nat) (n : Nat) (m : Nat) : (chComplete s via n).obj m = s.obj m :=
  (chComplete_reports s via n).get (fun x => x.obj m) fun _ _ _ _ => rfl

/-! ### pmGlobal -/

@[simp] theorem pmGlobal_pending (s : State) (slot amount : Nat) : (pmGlobal s slot amount).pending = s.pending :=
  (pmGlobal_reports s slot amount).get State.pending fun _ _ _ _ => rfl
@[simp] theorem pmGlobal_fuse (s : State) (slot amount : Nat) : (pmGlobal s slot amount).fuse = s.fuse :=
  (pmGlobal_reports s slot amount).get State.fuse fun _ _ _ _ => rfl
@[simp] theorem pmGlobal_boot (s : State) (slot amount : Nat) : (pmGlobal s slot amount).boot = s.boot :=
  (pmGlobal_reports s slot amount).get State.boot fun _ _ _ _ => rfl
@[simp] theorem pmGlobal_frozen (s : State) (slot amount : Nat) : (pmGlobal s slot amount).frozen = s.frozen :=
  (pmGlobal_reports s slot amount).get State.frozen fun _ _ _ _ => rfl
@[simp] theorem pmGlobal_ports (s : State) (slot amount : Nat) : (pmGlobal s slot amount).ports = s.ports :=
  (pmGlobal_reports s slot amount).get State.ports fun _ _ _ _ => rfl
@[simp] theorem pmGlobal_writes (s : State) (slot amount : Nat) : (pmGlobal s slot amount).writes = s.writes :=
  (pmGlobal_reports s slot amount).get State.writes fun _ _ _ _ => rfl
@[simp] theorem pmGlobal_mem (s : State) (slot amount : Nat) : (pmGlobal s slot amount).mem = s.mem :=
  (pmGlobal_reports s slot amount).get State.mem fun _ _ _ _ => rfl
@[simp] theorem pmGlobal_poison (s : State) (slot amount : Nat) : (pmGlobal s slot amount).poison = s.poison :=
  (pmGlobal_reports s slot amount).get State.poison fun _ _ _ _ => rfl
@[simp] theorem pmGlobal_esc (s : State) (slot amount : Nat) : (pmGlobal s slot amount).esc = s.esc :=
  (pmGlobal_reports s slot amount).get State.esc fun _ _ _ _ => rfl
@[simp] theorem pmGlobal_au (s : State) (slot amount : Nat) : (pmGlobal s slot amount).au = s.au :=
  (pmGlobal_reports s slot amount).get State.au fun _ _ _ _ => rfl
@[simp] theorem pmGlobal_run (s : State) (slot amount : Nat) : (pmGlobal s slot amount).run = s.run :=
  (pmGlobal_reports s slot amount).get State.run fun _ _ _ _ => rfl
@[simp] theorem pmGlobal_basin (s : State) (slot amount : Nat) : (pmGlobal s slot amount).basin = s.basin :=
  (pmGlobal_reports s slot amount).get State.basin fun _ _ _ _ => rfl
@[simp] theorem pmGlobal_pool (s : State) (slot amount : Nat) : (pmGlobal s slot amount).pool = s.pool :=
  (pmGlobal_reports s slot amount).get State.pool fun _ _ _ _ => rfl
@[simp] theorem pmGlobal_kp (s : State) (slot amount : Nat) : (pmGlobal s slot amount).kp = s.kp :=
  (pmGlobal_reports s slot amount).get State.kp fun _ _ _ _ => rfl
@[simp] theorem pmGlobal_gens (s : State) (slot amount : Nat) : (pmGlobal s slot amount).gens = s.gens :=
  (pmGlobal_reports s slot amount).get State.gens fun _ _ _ _ => rfl
@[simp] theorem pmGlobal_objs (s : State) (slot amount : Nat) : (pmGlobal s slot amount).objs = s.objs :=
  (pmGlobal_reports s slot amount).get State.objs fun _ _ _ _ => rfl
@[simp] theorem pmGlobal_ctxs (s : State) (slot amount : Nat) : (pmGlobal s slot amount).ctxs = s.ctxs :=
  (pmGlobal_reports s slot amount).get State.ctxs fun _ _ _ _ => rfl
@[simp] theorem pmGlobal_queues (s : State) (slot amount : Nat) : (pmGlobal s slot amount).queues = s.queues :=
  (pmGlobal_reports s slot amount).get State.queues fun _ _ _ _ => rfl
@[simp] theorem pmGlobal_insts (s : State) (slot amount : Nat) : (pmGlobal s slot amount).insts = s.insts :=
  (pmGlobal_reports s slot amount).get State.insts fun _ _ _ _ => rfl
@[simp] theorem pmGlobal_shares (s : State) (slot amount : Nat) : (pmGlobal s slot amount).shares = s.shares :=
  (pmGlobal_reports s slot amount).get State.shares fun _ _ _ _ => rfl
@[simp] theorem pmGlobal_rg (s : State) (slot amount : Nat) : (pmGlobal s slot amount).rg = s.rg :=
  (pmGlobal_reports s slot amount).get State.rg fun _ _ _ _ => rfl
@[simp] theorem pmGlobal_rgParts (s : State) (slot amount : Nat) : (pmGlobal s slot amount).rgParts = s.rgParts :=
  (pmGlobal_reports s slot amount).get State.rgParts fun _ _ _ _ => rfl
@[simp] theorem pmGlobal_jobs (s : State) (slot amount : Nat) : (pmGlobal s slot amount).jobs = s.jobs :=
  (pmGlobal_reports s slot amount).get State.jobs fun _ _ _ _ => rfl
@[simp] theorem pmGlobal_nextJob (s : State) (slot amount : Nat) : (pmGlobal s slot amount).nextJob = s.nextJob :=
  (pmGlobal_reports s slot amount).get State.nextJob fun _ _ _ _ => rfl
@[simp] theorem pmGlobal_cores (s : State) (slot amount : Nat) : (pmGlobal s slot amount).cores = s.cores :=
  (pmGlobal_reports s slot amount).get State.cores fun _ _ _ _ => rfl
@[simp] theorem pmGlobal_counters (s : State) (slot amount : Nat) : (pmGlobal s slot amount).counters = s.counters :=
  (pmGlobal_reports s slot amount).get State.counters fun _ _ _ _ => rfl
@[simp] theorem pmGlobal_updates (s : State) (slot amount : Nat) : (pmGlobal s slot amount).updates = s.updates :=
  (pmGlobal_reports s slot amount).get State.updates fun _ _ _ _ => rfl
@[simp] theorem pmGlobal_flights (s : State) (slot amount : Nat) : (pmGlobal s slot amount).flights = s.flights :=
  (pmGlobal_reports s slot amount).get State.flights fun _ _ _ _ => rfl
@[simp] theorem pmGlobal_sy (s : State) (slot amount : Nat) : (pmGlobal s slot amount).sy = s.sy :=
  (pmGlobal_reports s slot amount).get State.sy fun _ _ _ _ => rfl
@[simp] theorem pmGlobal_sec (s : State) (slot amount : Nat) : (pmGlobal s slot amount).sec = s.sec :=
  (pmGlobal_reports s slot amount).get State.sec fun _ _ _ _ => rfl
@[simp] theorem pmGlobal_tw (s : State) (slot amount : Nat) : (pmGlobal s slot amount).tw = s.tw :=
  (pmGlobal_reports s slot amount).get State.tw fun _ _ _ _ => rfl
@[simp] theorem pmGlobal_links (s : State) (slot amount : Nat) : (pmGlobal s slot amount).links = s.links :=
  (pmGlobal_reports s slot amount).get State.links fun _ _ _ _ => rfl
@[simp] theorem pmGlobal_tap (s : State) (slot amount : Nat) : (pmGlobal s slot amount).tap = s.tap :=
  (pmGlobal_reports s slot amount).get State.tap fun _ _ _ _ => rfl
@[simp] theorem pmGlobal_core (s : State) (slot amount : Nat) (m : Nat) : (pmGlobal s slot amount).core m = s.core m :=
  (pmGlobal_reports s slot amount).get (fun x => x.core m) fun _ _ _ _ => rfl
@[simp] theorem pmGlobal_queue (s : State) (slot amount : Nat) (m : Nat) : (pmGlobal s slot amount).queue m = s.queue m :=
  (pmGlobal_reports s slot amount).get (fun x => x.queue m) fun _ _ _ _ => rfl
@[simp] theorem pmGlobal_ctx (s : State) (slot amount : Nat) (m : Nat) : (pmGlobal s slot amount).ctx m = s.ctx m :=
  (pmGlobal_reports s slot amount).get (fun x => x.ctx m) fun _ _ _ _ => rfl
@[simp] theorem pmGlobal_inst (s : State) (slot amount : Nat) (m : Nat) : (pmGlobal s slot amount).inst m = s.inst m :=
  (pmGlobal_reports s slot amount).get (fun x => x.inst m) fun _ _ _ _ => rfl
@[simp] theorem pmGlobal_gen (s : State) (slot amount : Nat) (m : Nat) : (pmGlobal s slot amount).gen m = s.gen m :=
  (pmGlobal_reports s slot amount).get (fun x => x.gen m) fun _ _ _ _ => rfl
@[simp] theorem pmGlobal_counter (s : State) (slot amount : Nat) (m : Nat) : (pmGlobal s slot amount).counter m = s.counter m :=
  (pmGlobal_reports s slot amount).get (fun x => x.counter m) fun _ _ _ _ => rfl
@[simp] theorem pmGlobal_flight (s : State) (slot amount : Nat) (m : Nat) : (pmGlobal s slot amount).flight m = s.flight m :=
  (pmGlobal_reports s slot amount).get (fun x => x.flight m) fun _ _ _ _ => rfl
@[simp] theorem pmGlobal_link (s : State) (slot amount : Nat) (m : Nat) : (pmGlobal s slot amount).link m = s.link m :=
  (pmGlobal_reports s slot amount).get (fun x => x.link m) fun _ _ _ _ => rfl
@[simp] theorem pmGlobal_port (s : State) (slot amount : Nat) (m : Nat) : (pmGlobal s slot amount).port m = s.port m :=
  (pmGlobal_reports s slot amount).get (fun x => x.port m) fun _ _ _ _ => rfl
@[simp] theorem pmGlobal_rgPart (s : State) (slot amount : Nat) (m : Nat) : (pmGlobal s slot amount).rgPart m = s.rgPart m :=
  (pmGlobal_reports s slot amount).get (fun x => x.rgPart m) fun _ _ _ _ => rfl
@[simp] theorem pmGlobal_job (s : State) (slot amount : Nat) (m : Nat) : (pmGlobal s slot amount).job m = s.job m :=
  (pmGlobal_reports s slot amount).get (fun x => x.job m) fun _ _ _ _ => rfl
@[simp] theorem pmGlobal_obj (s : State) (slot amount : Nat) (m : Nat) : (pmGlobal s slot amount).obj m = s.obj m :=
  (pmGlobal_reports s slot amount).get (fun x => x.obj m) fun _ _ _ _ => rfl

/-! ### accessDeniedId -/

@[simp] theorem accessDeniedId_pending (s : State) (id : Nat) : (accessDeniedId s id).pending = s.pending :=
  (accessDeniedId_reports s id).get State.pending fun _ _ _ _ => rfl
@[simp] theorem accessDeniedId_fuse (s : State) (id : Nat) : (accessDeniedId s id).fuse = s.fuse :=
  (accessDeniedId_reports s id).get State.fuse fun _ _ _ _ => rfl
@[simp] theorem accessDeniedId_boot (s : State) (id : Nat) : (accessDeniedId s id).boot = s.boot :=
  (accessDeniedId_reports s id).get State.boot fun _ _ _ _ => rfl
@[simp] theorem accessDeniedId_frozen (s : State) (id : Nat) : (accessDeniedId s id).frozen = s.frozen :=
  (accessDeniedId_reports s id).get State.frozen fun _ _ _ _ => rfl
@[simp] theorem accessDeniedId_ports (s : State) (id : Nat) : (accessDeniedId s id).ports = s.ports :=
  (accessDeniedId_reports s id).get State.ports fun _ _ _ _ => rfl
@[simp] theorem accessDeniedId_writes (s : State) (id : Nat) : (accessDeniedId s id).writes = s.writes :=
  (accessDeniedId_reports s id).get State.writes fun _ _ _ _ => rfl
@[simp] theorem accessDeniedId_mem (s : State) (id : Nat) : (accessDeniedId s id).mem = s.mem :=
  (accessDeniedId_reports s id).get State.mem fun _ _ _ _ => rfl
@[simp] theorem accessDeniedId_poison (s : State) (id : Nat) : (accessDeniedId s id).poison = s.poison :=
  (accessDeniedId_reports s id).get State.poison fun _ _ _ _ => rfl
@[simp] theorem accessDeniedId_esc (s : State) (id : Nat) : (accessDeniedId s id).esc = s.esc :=
  (accessDeniedId_reports s id).get State.esc fun _ _ _ _ => rfl
@[simp] theorem accessDeniedId_au (s : State) (id : Nat) : (accessDeniedId s id).au = s.au :=
  (accessDeniedId_reports s id).get State.au fun _ _ _ _ => rfl
@[simp] theorem accessDeniedId_run (s : State) (id : Nat) : (accessDeniedId s id).run = s.run :=
  (accessDeniedId_reports s id).get State.run fun _ _ _ _ => rfl
@[simp] theorem accessDeniedId_basin (s : State) (id : Nat) : (accessDeniedId s id).basin = s.basin :=
  (accessDeniedId_reports s id).get State.basin fun _ _ _ _ => rfl
@[simp] theorem accessDeniedId_pool (s : State) (id : Nat) : (accessDeniedId s id).pool = s.pool :=
  (accessDeniedId_reports s id).get State.pool fun _ _ _ _ => rfl
@[simp] theorem accessDeniedId_kp (s : State) (id : Nat) : (accessDeniedId s id).kp = s.kp :=
  (accessDeniedId_reports s id).get State.kp fun _ _ _ _ => rfl
@[simp] theorem accessDeniedId_gens (s : State) (id : Nat) : (accessDeniedId s id).gens = s.gens :=
  (accessDeniedId_reports s id).get State.gens fun _ _ _ _ => rfl
@[simp] theorem accessDeniedId_objs (s : State) (id : Nat) : (accessDeniedId s id).objs = s.objs :=
  (accessDeniedId_reports s id).get State.objs fun _ _ _ _ => rfl
@[simp] theorem accessDeniedId_ctxs (s : State) (id : Nat) : (accessDeniedId s id).ctxs = s.ctxs :=
  (accessDeniedId_reports s id).get State.ctxs fun _ _ _ _ => rfl
@[simp] theorem accessDeniedId_queues (s : State) (id : Nat) : (accessDeniedId s id).queues = s.queues :=
  (accessDeniedId_reports s id).get State.queues fun _ _ _ _ => rfl
@[simp] theorem accessDeniedId_insts (s : State) (id : Nat) : (accessDeniedId s id).insts = s.insts :=
  (accessDeniedId_reports s id).get State.insts fun _ _ _ _ => rfl
@[simp] theorem accessDeniedId_shares (s : State) (id : Nat) : (accessDeniedId s id).shares = s.shares :=
  (accessDeniedId_reports s id).get State.shares fun _ _ _ _ => rfl
@[simp] theorem accessDeniedId_rg (s : State) (id : Nat) : (accessDeniedId s id).rg = s.rg :=
  (accessDeniedId_reports s id).get State.rg fun _ _ _ _ => rfl
@[simp] theorem accessDeniedId_rgParts (s : State) (id : Nat) : (accessDeniedId s id).rgParts = s.rgParts :=
  (accessDeniedId_reports s id).get State.rgParts fun _ _ _ _ => rfl
@[simp] theorem accessDeniedId_jobs (s : State) (id : Nat) : (accessDeniedId s id).jobs = s.jobs :=
  (accessDeniedId_reports s id).get State.jobs fun _ _ _ _ => rfl
@[simp] theorem accessDeniedId_nextJob (s : State) (id : Nat) : (accessDeniedId s id).nextJob = s.nextJob :=
  (accessDeniedId_reports s id).get State.nextJob fun _ _ _ _ => rfl
@[simp] theorem accessDeniedId_cores (s : State) (id : Nat) : (accessDeniedId s id).cores = s.cores :=
  (accessDeniedId_reports s id).get State.cores fun _ _ _ _ => rfl
@[simp] theorem accessDeniedId_counters (s : State) (id : Nat) : (accessDeniedId s id).counters = s.counters :=
  (accessDeniedId_reports s id).get State.counters fun _ _ _ _ => rfl
@[simp] theorem accessDeniedId_updates (s : State) (id : Nat) : (accessDeniedId s id).updates = s.updates :=
  (accessDeniedId_reports s id).get State.updates fun _ _ _ _ => rfl
@[simp] theorem accessDeniedId_flights (s : State) (id : Nat) : (accessDeniedId s id).flights = s.flights :=
  (accessDeniedId_reports s id).get State.flights fun _ _ _ _ => rfl
@[simp] theorem accessDeniedId_sy (s : State) (id : Nat) : (accessDeniedId s id).sy = s.sy :=
  (accessDeniedId_reports s id).get State.sy fun _ _ _ _ => rfl
@[simp] theorem accessDeniedId_sec (s : State) (id : Nat) : (accessDeniedId s id).sec = s.sec :=
  (accessDeniedId_reports s id).get State.sec fun _ _ _ _ => rfl
@[simp] theorem accessDeniedId_tw (s : State) (id : Nat) : (accessDeniedId s id).tw = s.tw :=
  (accessDeniedId_reports s id).get State.tw fun _ _ _ _ => rfl
@[simp] theorem accessDeniedId_links (s : State) (id : Nat) : (accessDeniedId s id).links = s.links :=
  (accessDeniedId_reports s id).get State.links fun _ _ _ _ => rfl
@[simp] theorem accessDeniedId_tap (s : State) (id : Nat) : (accessDeniedId s id).tap = s.tap :=
  (accessDeniedId_reports s id).get State.tap fun _ _ _ _ => rfl
@[simp] theorem accessDeniedId_core (s : State) (id : Nat) (m : Nat) : (accessDeniedId s id).core m = s.core m :=
  (accessDeniedId_reports s id).get (fun x => x.core m) fun _ _ _ _ => rfl
@[simp] theorem accessDeniedId_queue (s : State) (id : Nat) (m : Nat) : (accessDeniedId s id).queue m = s.queue m :=
  (accessDeniedId_reports s id).get (fun x => x.queue m) fun _ _ _ _ => rfl
@[simp] theorem accessDeniedId_ctx (s : State) (id : Nat) (m : Nat) : (accessDeniedId s id).ctx m = s.ctx m :=
  (accessDeniedId_reports s id).get (fun x => x.ctx m) fun _ _ _ _ => rfl
@[simp] theorem accessDeniedId_inst (s : State) (id : Nat) (m : Nat) : (accessDeniedId s id).inst m = s.inst m :=
  (accessDeniedId_reports s id).get (fun x => x.inst m) fun _ _ _ _ => rfl
@[simp] theorem accessDeniedId_gen (s : State) (id : Nat) (m : Nat) : (accessDeniedId s id).gen m = s.gen m :=
  (accessDeniedId_reports s id).get (fun x => x.gen m) fun _ _ _ _ => rfl
@[simp] theorem accessDeniedId_counter (s : State) (id : Nat) (m : Nat) : (accessDeniedId s id).counter m = s.counter m :=
  (accessDeniedId_reports s id).get (fun x => x.counter m) fun _ _ _ _ => rfl
@[simp] theorem accessDeniedId_flight (s : State) (id : Nat) (m : Nat) : (accessDeniedId s id).flight m = s.flight m :=
  (accessDeniedId_reports s id).get (fun x => x.flight m) fun _ _ _ _ => rfl
@[simp] theorem accessDeniedId_link (s : State) (id : Nat) (m : Nat) : (accessDeniedId s id).link m = s.link m :=
  (accessDeniedId_reports s id).get (fun x => x.link m) fun _ _ _ _ => rfl
@[simp] theorem accessDeniedId_port (s : State) (id : Nat) (m : Nat) : (accessDeniedId s id).port m = s.port m :=
  (accessDeniedId_reports s id).get (fun x => x.port m) fun _ _ _ _ => rfl
@[simp] theorem accessDeniedId_rgPart (s : State) (id : Nat) (m : Nat) : (accessDeniedId s id).rgPart m = s.rgPart m :=
  (accessDeniedId_reports s id).get (fun x => x.rgPart m) fun _ _ _ _ => rfl
@[simp] theorem accessDeniedId_job (s : State) (id : Nat) (m : Nat) : (accessDeniedId s id).job m = s.job m :=
  (accessDeniedId_reports s id).get (fun x => x.job m) fun _ _ _ _ => rfl
@[simp] theorem accessDeniedId_obj (s : State) (id : Nat) (m : Nat) : (accessDeniedId s id).obj m = s.obj m :=
  (accessDeniedId_reports s id).get (fun x => x.obj m) fun _ _ _ _ => rfl

/-! ### accessDenied -/

@[simp] theorem accessDenied_pending (s : State) : (accessDenied s).pending = s.pending :=
  (accessDenied_reports s).get State.pending fun _ _ _ _ => rfl
@[simp] theorem accessDenied_fuse (s : State) : (accessDenied s).fuse = s.fuse :=
  (accessDenied_reports s).get State.fuse fun _ _ _ _ => rfl
@[simp] theorem accessDenied_boot (s : State) : (accessDenied s).boot = s.boot :=
  (accessDenied_reports s).get State.boot fun _ _ _ _ => rfl
@[simp] theorem accessDenied_frozen (s : State) : (accessDenied s).frozen = s.frozen :=
  (accessDenied_reports s).get State.frozen fun _ _ _ _ => rfl
@[simp] theorem accessDenied_ports (s : State) : (accessDenied s).ports = s.ports :=
  (accessDenied_reports s).get State.ports fun _ _ _ _ => rfl
@[simp] theorem accessDenied_writes (s : State) : (accessDenied s).writes = s.writes :=
  (accessDenied_reports s).get State.writes fun _ _ _ _ => rfl
@[simp] theorem accessDenied_mem (s : State) : (accessDenied s).mem = s.mem :=
  (accessDenied_reports s).get State.mem fun _ _ _ _ => rfl
@[simp] theorem accessDenied_poison (s : State) : (accessDenied s).poison = s.poison :=
  (accessDenied_reports s).get State.poison fun _ _ _ _ => rfl
@[simp] theorem accessDenied_esc (s : State) : (accessDenied s).esc = s.esc :=
  (accessDenied_reports s).get State.esc fun _ _ _ _ => rfl
@[simp] theorem accessDenied_au (s : State) : (accessDenied s).au = s.au :=
  (accessDenied_reports s).get State.au fun _ _ _ _ => rfl
@[simp] theorem accessDenied_run (s : State) : (accessDenied s).run = s.run :=
  (accessDenied_reports s).get State.run fun _ _ _ _ => rfl
@[simp] theorem accessDenied_basin (s : State) : (accessDenied s).basin = s.basin :=
  (accessDenied_reports s).get State.basin fun _ _ _ _ => rfl
@[simp] theorem accessDenied_pool (s : State) : (accessDenied s).pool = s.pool :=
  (accessDenied_reports s).get State.pool fun _ _ _ _ => rfl
@[simp] theorem accessDenied_kp (s : State) : (accessDenied s).kp = s.kp :=
  (accessDenied_reports s).get State.kp fun _ _ _ _ => rfl
@[simp] theorem accessDenied_gens (s : State) : (accessDenied s).gens = s.gens :=
  (accessDenied_reports s).get State.gens fun _ _ _ _ => rfl
@[simp] theorem accessDenied_objs (s : State) : (accessDenied s).objs = s.objs :=
  (accessDenied_reports s).get State.objs fun _ _ _ _ => rfl
@[simp] theorem accessDenied_ctxs (s : State) : (accessDenied s).ctxs = s.ctxs :=
  (accessDenied_reports s).get State.ctxs fun _ _ _ _ => rfl
@[simp] theorem accessDenied_queues (s : State) : (accessDenied s).queues = s.queues :=
  (accessDenied_reports s).get State.queues fun _ _ _ _ => rfl
@[simp] theorem accessDenied_insts (s : State) : (accessDenied s).insts = s.insts :=
  (accessDenied_reports s).get State.insts fun _ _ _ _ => rfl
@[simp] theorem accessDenied_shares (s : State) : (accessDenied s).shares = s.shares :=
  (accessDenied_reports s).get State.shares fun _ _ _ _ => rfl
@[simp] theorem accessDenied_rg (s : State) : (accessDenied s).rg = s.rg :=
  (accessDenied_reports s).get State.rg fun _ _ _ _ => rfl
@[simp] theorem accessDenied_rgParts (s : State) : (accessDenied s).rgParts = s.rgParts :=
  (accessDenied_reports s).get State.rgParts fun _ _ _ _ => rfl
@[simp] theorem accessDenied_jobs (s : State) : (accessDenied s).jobs = s.jobs :=
  (accessDenied_reports s).get State.jobs fun _ _ _ _ => rfl
@[simp] theorem accessDenied_nextJob (s : State) : (accessDenied s).nextJob = s.nextJob :=
  (accessDenied_reports s).get State.nextJob fun _ _ _ _ => rfl
@[simp] theorem accessDenied_cores (s : State) : (accessDenied s).cores = s.cores :=
  (accessDenied_reports s).get State.cores fun _ _ _ _ => rfl
@[simp] theorem accessDenied_counters (s : State) : (accessDenied s).counters = s.counters :=
  (accessDenied_reports s).get State.counters fun _ _ _ _ => rfl
@[simp] theorem accessDenied_updates (s : State) : (accessDenied s).updates = s.updates :=
  (accessDenied_reports s).get State.updates fun _ _ _ _ => rfl
@[simp] theorem accessDenied_flights (s : State) : (accessDenied s).flights = s.flights :=
  (accessDenied_reports s).get State.flights fun _ _ _ _ => rfl
@[simp] theorem accessDenied_sy (s : State) : (accessDenied s).sy = s.sy :=
  (accessDenied_reports s).get State.sy fun _ _ _ _ => rfl
@[simp] theorem accessDenied_sec (s : State) : (accessDenied s).sec = s.sec :=
  (accessDenied_reports s).get State.sec fun _ _ _ _ => rfl
@[simp] theorem accessDenied_tw (s : State) : (accessDenied s).tw = s.tw :=
  (accessDenied_reports s).get State.tw fun _ _ _ _ => rfl
@[simp] theorem accessDenied_links (s : State) : (accessDenied s).links = s.links :=
  (accessDenied_reports s).get State.links fun _ _ _ _ => rfl
@[simp] theorem accessDenied_tap (s : State) : (accessDenied s).tap = s.tap :=
  (accessDenied_reports s).get State.tap fun _ _ _ _ => rfl
@[simp] theorem accessDenied_core (s : State) (m : Nat) : (accessDenied s).core m = s.core m :=
  (accessDenied_reports s).get (fun x => x.core m) fun _ _ _ _ => rfl
@[simp] theorem accessDenied_queue (s : State) (m : Nat) : (accessDenied s).queue m = s.queue m :=
  (accessDenied_reports s).get (fun x => x.queue m) fun _ _ _ _ => rfl
@[simp] theorem accessDenied_ctx (s : State) (m : Nat) : (accessDenied s).ctx m = s.ctx m :=
  (accessDenied_reports s).get (fun x => x.ctx m) fun _ _ _ _ => rfl
@[simp] theorem accessDenied_inst (s : State) (m : Nat) : (accessDenied s).inst m = s.inst m :=
  (accessDenied_reports s).get (fun x => x.inst m) fun _ _ _ _ => rfl
@[simp] theorem accessDenied_gen (s : State) (m : Nat) : (accessDenied s).gen m = s.gen m :=
  (accessDenied_reports s).get (fun x => x.gen m) fun _ _ _ _ => rfl
@[simp] theorem accessDenied_counter (s : State) (m : Nat) : (accessDenied s).counter m = s.counter m :=
  (accessDenied_reports s).get (fun x => x.counter m) fun _ _ _ _ => rfl
@[simp] theorem accessDenied_flight (s : State) (m : Nat) : (accessDenied s).flight m = s.flight m :=
  (accessDenied_reports s).get (fun x => x.flight m) fun _ _ _ _ => rfl
@[simp] theorem accessDenied_link (s : State) (m : Nat) : (accessDenied s).link m = s.link m :=
  (accessDenied_reports s).get (fun x => x.link m) fun _ _ _ _ => rfl
@[simp] theorem accessDenied_port (s : State) (m : Nat) : (accessDenied s).port m = s.port m :=
  (accessDenied_reports s).get (fun x => x.port m) fun _ _ _ _ => rfl
@[simp] theorem accessDenied_rgPart (s : State) (m : Nat) : (accessDenied s).rgPart m = s.rgPart m :=
  (accessDenied_reports s).get (fun x => x.rgPart m) fun _ _ _ _ => rfl
@[simp] theorem accessDenied_job (s : State) (m : Nat) : (accessDenied s).job m = s.job m :=
  (accessDenied_reports s).get (fun x => x.job m) fun _ _ _ _ => rfl
@[simp] theorem accessDenied_obj (s : State) (m : Nat) : (accessDenied s).obj m = s.obj m :=
  (accessDenied_reports s).get (fun x => x.obj m) fun _ _ _ _ => rfl

/-! ### frSeen -/

@[simp] theorem frSeen_pending (s : State) (cls : Nat) : (frSeen s cls).pending = s.pending :=
  (frSeen_reports s cls).get State.pending fun _ _ _ _ => rfl
@[simp] theorem frSeen_fuse (s : State) (cls : Nat) : (frSeen s cls).fuse = s.fuse :=
  (frSeen_reports s cls).get State.fuse fun _ _ _ _ => rfl
@[simp] theorem frSeen_boot (s : State) (cls : Nat) : (frSeen s cls).boot = s.boot :=
  (frSeen_reports s cls).get State.boot fun _ _ _ _ => rfl
@[simp] theorem frSeen_frozen (s : State) (cls : Nat) : (frSeen s cls).frozen = s.frozen :=
  (frSeen_reports s cls).get State.frozen fun _ _ _ _ => rfl
@[simp] theorem frSeen_ports (s : State) (cls : Nat) : (frSeen s cls).ports = s.ports :=
  (frSeen_reports s cls).get State.ports fun _ _ _ _ => rfl
@[simp] theorem frSeen_writes (s : State) (cls : Nat) : (frSeen s cls).writes = s.writes :=
  (frSeen_reports s cls).get State.writes fun _ _ _ _ => rfl
@[simp] theorem frSeen_mem (s : State) (cls : Nat) : (frSeen s cls).mem = s.mem :=
  (frSeen_reports s cls).get State.mem fun _ _ _ _ => rfl
@[simp] theorem frSeen_poison (s : State) (cls : Nat) : (frSeen s cls).poison = s.poison :=
  (frSeen_reports s cls).get State.poison fun _ _ _ _ => rfl
@[simp] theorem frSeen_esc (s : State) (cls : Nat) : (frSeen s cls).esc = s.esc :=
  (frSeen_reports s cls).get State.esc fun _ _ _ _ => rfl
@[simp] theorem frSeen_au (s : State) (cls : Nat) : (frSeen s cls).au = s.au :=
  (frSeen_reports s cls).get State.au fun _ _ _ _ => rfl
@[simp] theorem frSeen_run (s : State) (cls : Nat) : (frSeen s cls).run = s.run :=
  (frSeen_reports s cls).get State.run fun _ _ _ _ => rfl
@[simp] theorem frSeen_basin (s : State) (cls : Nat) : (frSeen s cls).basin = s.basin :=
  (frSeen_reports s cls).get State.basin fun _ _ _ _ => rfl
@[simp] theorem frSeen_pool (s : State) (cls : Nat) : (frSeen s cls).pool = s.pool :=
  (frSeen_reports s cls).get State.pool fun _ _ _ _ => rfl
@[simp] theorem frSeen_kp (s : State) (cls : Nat) : (frSeen s cls).kp = s.kp :=
  (frSeen_reports s cls).get State.kp fun _ _ _ _ => rfl
@[simp] theorem frSeen_gens (s : State) (cls : Nat) : (frSeen s cls).gens = s.gens :=
  (frSeen_reports s cls).get State.gens fun _ _ _ _ => rfl
@[simp] theorem frSeen_objs (s : State) (cls : Nat) : (frSeen s cls).objs = s.objs :=
  (frSeen_reports s cls).get State.objs fun _ _ _ _ => rfl
@[simp] theorem frSeen_ctxs (s : State) (cls : Nat) : (frSeen s cls).ctxs = s.ctxs :=
  (frSeen_reports s cls).get State.ctxs fun _ _ _ _ => rfl
@[simp] theorem frSeen_queues (s : State) (cls : Nat) : (frSeen s cls).queues = s.queues :=
  (frSeen_reports s cls).get State.queues fun _ _ _ _ => rfl
@[simp] theorem frSeen_insts (s : State) (cls : Nat) : (frSeen s cls).insts = s.insts :=
  (frSeen_reports s cls).get State.insts fun _ _ _ _ => rfl
@[simp] theorem frSeen_shares (s : State) (cls : Nat) : (frSeen s cls).shares = s.shares :=
  (frSeen_reports s cls).get State.shares fun _ _ _ _ => rfl
@[simp] theorem frSeen_rg (s : State) (cls : Nat) : (frSeen s cls).rg = s.rg :=
  (frSeen_reports s cls).get State.rg fun _ _ _ _ => rfl
@[simp] theorem frSeen_rgParts (s : State) (cls : Nat) : (frSeen s cls).rgParts = s.rgParts :=
  (frSeen_reports s cls).get State.rgParts fun _ _ _ _ => rfl
@[simp] theorem frSeen_jobs (s : State) (cls : Nat) : (frSeen s cls).jobs = s.jobs :=
  (frSeen_reports s cls).get State.jobs fun _ _ _ _ => rfl
@[simp] theorem frSeen_nextJob (s : State) (cls : Nat) : (frSeen s cls).nextJob = s.nextJob :=
  (frSeen_reports s cls).get State.nextJob fun _ _ _ _ => rfl
@[simp] theorem frSeen_cores (s : State) (cls : Nat) : (frSeen s cls).cores = s.cores :=
  (frSeen_reports s cls).get State.cores fun _ _ _ _ => rfl
@[simp] theorem frSeen_counters (s : State) (cls : Nat) : (frSeen s cls).counters = s.counters :=
  (frSeen_reports s cls).get State.counters fun _ _ _ _ => rfl
@[simp] theorem frSeen_updates (s : State) (cls : Nat) : (frSeen s cls).updates = s.updates :=
  (frSeen_reports s cls).get State.updates fun _ _ _ _ => rfl
@[simp] theorem frSeen_flights (s : State) (cls : Nat) : (frSeen s cls).flights = s.flights :=
  (frSeen_reports s cls).get State.flights fun _ _ _ _ => rfl
@[simp] theorem frSeen_sy (s : State) (cls : Nat) : (frSeen s cls).sy = s.sy :=
  (frSeen_reports s cls).get State.sy fun _ _ _ _ => rfl
@[simp] theorem frSeen_sec (s : State) (cls : Nat) : (frSeen s cls).sec = s.sec :=
  (frSeen_reports s cls).get State.sec fun _ _ _ _ => rfl
@[simp] theorem frSeen_tw (s : State) (cls : Nat) : (frSeen s cls).tw = s.tw :=
  (frSeen_reports s cls).get State.tw fun _ _ _ _ => rfl
@[simp] theorem frSeen_links (s : State) (cls : Nat) : (frSeen s cls).links = s.links :=
  (frSeen_reports s cls).get State.links fun _ _ _ _ => rfl
@[simp] theorem frSeen_tap (s : State) (cls : Nat) : (frSeen s cls).tap = s.tap :=
  (frSeen_reports s cls).get State.tap fun _ _ _ _ => rfl
@[simp] theorem frSeen_core (s : State) (cls : Nat) (m : Nat) : (frSeen s cls).core m = s.core m :=
  (frSeen_reports s cls).get (fun x => x.core m) fun _ _ _ _ => rfl
@[simp] theorem frSeen_queue (s : State) (cls : Nat) (m : Nat) : (frSeen s cls).queue m = s.queue m :=
  (frSeen_reports s cls).get (fun x => x.queue m) fun _ _ _ _ => rfl
@[simp] theorem frSeen_ctx (s : State) (cls : Nat) (m : Nat) : (frSeen s cls).ctx m = s.ctx m :=
  (frSeen_reports s cls).get (fun x => x.ctx m) fun _ _ _ _ => rfl
@[simp] theorem frSeen_inst (s : State) (cls : Nat) (m : Nat) : (frSeen s cls).inst m = s.inst m :=
  (frSeen_reports s cls).get (fun x => x.inst m) fun _ _ _ _ => rfl
@[simp] theorem frSeen_gen (s : State) (cls : Nat) (m : Nat) : (frSeen s cls).gen m = s.gen m :=
  (frSeen_reports s cls).get (fun x => x.gen m) fun _ _ _ _ => rfl
@[simp] theorem frSeen_counter (s : State) (cls : Nat) (m : Nat) : (frSeen s cls).counter m = s.counter m :=
  (frSeen_reports s cls).get (fun x => x.counter m) fun _ _ _ _ => rfl
@[simp] theorem frSeen_flight (s : State) (cls : Nat) (m : Nat) : (frSeen s cls).flight m = s.flight m :=
  (frSeen_reports s cls).get (fun x => x.flight m) fun _ _ _ _ => rfl
@[simp] theorem frSeen_link (s : State) (cls : Nat) (m : Nat) : (frSeen s cls).link m = s.link m :=
  (frSeen_reports s cls).get (fun x => x.link m) fun _ _ _ _ => rfl
@[simp] theorem frSeen_port (s : State) (cls : Nat) (m : Nat) : (frSeen s cls).port m = s.port m :=
  (frSeen_reports s cls).get (fun x => x.port m) fun _ _ _ _ => rfl
@[simp] theorem frSeen_rgPart (s : State) (cls : Nat) (m : Nat) : (frSeen s cls).rgPart m = s.rgPart m :=
  (frSeen_reports s cls).get (fun x => x.rgPart m) fun _ _ _ _ => rfl
@[simp] theorem frSeen_job (s : State) (cls : Nat) (m : Nat) : (frSeen s cls).job m = s.job m :=
  (frSeen_reports s cls).get (fun x => x.job m) fun _ _ _ _ => rfl
@[simp] theorem frSeen_obj (s : State) (cls : Nat) (m : Nat) : (frSeen s cls).obj m = s.obj m :=
  (frSeen_reports s cls).get (fun x => x.obj m) fun _ _ _ _ => rfl

/-! ### errRecord -/

@[simp] theorem errRecord_pending (s : State) (cls : Nat) (unit core part : Option Nat) (code : BitVec 16) (addr : Nat) : (errRecord s cls unit core part code addr).pending = s.pending :=
  (errRecord_reports s cls unit core part code addr).get State.pending fun _ _ _ _ => rfl
@[simp] theorem errRecord_fuse (s : State) (cls : Nat) (unit core part : Option Nat) (code : BitVec 16) (addr : Nat) : (errRecord s cls unit core part code addr).fuse = s.fuse :=
  (errRecord_reports s cls unit core part code addr).get State.fuse fun _ _ _ _ => rfl
@[simp] theorem errRecord_boot (s : State) (cls : Nat) (unit core part : Option Nat) (code : BitVec 16) (addr : Nat) : (errRecord s cls unit core part code addr).boot = s.boot :=
  (errRecord_reports s cls unit core part code addr).get State.boot fun _ _ _ _ => rfl
@[simp] theorem errRecord_frozen (s : State) (cls : Nat) (unit core part : Option Nat) (code : BitVec 16) (addr : Nat) : (errRecord s cls unit core part code addr).frozen = s.frozen :=
  (errRecord_reports s cls unit core part code addr).get State.frozen fun _ _ _ _ => rfl
@[simp] theorem errRecord_ports (s : State) (cls : Nat) (unit core part : Option Nat) (code : BitVec 16) (addr : Nat) : (errRecord s cls unit core part code addr).ports = s.ports :=
  (errRecord_reports s cls unit core part code addr).get State.ports fun _ _ _ _ => rfl
@[simp] theorem errRecord_writes (s : State) (cls : Nat) (unit core part : Option Nat) (code : BitVec 16) (addr : Nat) : (errRecord s cls unit core part code addr).writes = s.writes :=
  (errRecord_reports s cls unit core part code addr).get State.writes fun _ _ _ _ => rfl
@[simp] theorem errRecord_mem (s : State) (cls : Nat) (unit core part : Option Nat) (code : BitVec 16) (addr : Nat) : (errRecord s cls unit core part code addr).mem = s.mem :=
  (errRecord_reports s cls unit core part code addr).get State.mem fun _ _ _ _ => rfl
@[simp] theorem errRecord_poison (s : State) (cls : Nat) (unit core part : Option Nat) (code : BitVec 16) (addr : Nat) : (errRecord s cls unit core part code addr).poison = s.poison :=
  (errRecord_reports s cls unit core part code addr).get State.poison fun _ _ _ _ => rfl
@[simp] theorem errRecord_esc (s : State) (cls : Nat) (unit core part : Option Nat) (code : BitVec 16) (addr : Nat) : (errRecord s cls unit core part code addr).esc = s.esc :=
  (errRecord_reports s cls unit core part code addr).get State.esc fun _ _ _ _ => rfl
@[simp] theorem errRecord_au (s : State) (cls : Nat) (unit core part : Option Nat) (code : BitVec 16) (addr : Nat) : (errRecord s cls unit core part code addr).au = s.au :=
  (errRecord_reports s cls unit core part code addr).get State.au fun _ _ _ _ => rfl
@[simp] theorem errRecord_run (s : State) (cls : Nat) (unit core part : Option Nat) (code : BitVec 16) (addr : Nat) : (errRecord s cls unit core part code addr).run = s.run :=
  (errRecord_reports s cls unit core part code addr).get State.run fun _ _ _ _ => rfl
@[simp] theorem errRecord_basin (s : State) (cls : Nat) (unit core part : Option Nat) (code : BitVec 16) (addr : Nat) : (errRecord s cls unit core part code addr).basin = s.basin :=
  (errRecord_reports s cls unit core part code addr).get State.basin fun _ _ _ _ => rfl
@[simp] theorem errRecord_pool (s : State) (cls : Nat) (unit core part : Option Nat) (code : BitVec 16) (addr : Nat) : (errRecord s cls unit core part code addr).pool = s.pool :=
  (errRecord_reports s cls unit core part code addr).get State.pool fun _ _ _ _ => rfl
@[simp] theorem errRecord_kp (s : State) (cls : Nat) (unit core part : Option Nat) (code : BitVec 16) (addr : Nat) : (errRecord s cls unit core part code addr).kp = s.kp :=
  (errRecord_reports s cls unit core part code addr).get State.kp fun _ _ _ _ => rfl
@[simp] theorem errRecord_gens (s : State) (cls : Nat) (unit core part : Option Nat) (code : BitVec 16) (addr : Nat) : (errRecord s cls unit core part code addr).gens = s.gens :=
  (errRecord_reports s cls unit core part code addr).get State.gens fun _ _ _ _ => rfl
@[simp] theorem errRecord_objs (s : State) (cls : Nat) (unit core part : Option Nat) (code : BitVec 16) (addr : Nat) : (errRecord s cls unit core part code addr).objs = s.objs :=
  (errRecord_reports s cls unit core part code addr).get State.objs fun _ _ _ _ => rfl
@[simp] theorem errRecord_ctxs (s : State) (cls : Nat) (unit core part : Option Nat) (code : BitVec 16) (addr : Nat) : (errRecord s cls unit core part code addr).ctxs = s.ctxs :=
  (errRecord_reports s cls unit core part code addr).get State.ctxs fun _ _ _ _ => rfl
@[simp] theorem errRecord_queues (s : State) (cls : Nat) (unit core part : Option Nat) (code : BitVec 16) (addr : Nat) : (errRecord s cls unit core part code addr).queues = s.queues :=
  (errRecord_reports s cls unit core part code addr).get State.queues fun _ _ _ _ => rfl
@[simp] theorem errRecord_insts (s : State) (cls : Nat) (unit core part : Option Nat) (code : BitVec 16) (addr : Nat) : (errRecord s cls unit core part code addr).insts = s.insts :=
  (errRecord_reports s cls unit core part code addr).get State.insts fun _ _ _ _ => rfl
@[simp] theorem errRecord_shares (s : State) (cls : Nat) (unit core part : Option Nat) (code : BitVec 16) (addr : Nat) : (errRecord s cls unit core part code addr).shares = s.shares :=
  (errRecord_reports s cls unit core part code addr).get State.shares fun _ _ _ _ => rfl
@[simp] theorem errRecord_rg (s : State) (cls : Nat) (unit core part : Option Nat) (code : BitVec 16) (addr : Nat) : (errRecord s cls unit core part code addr).rg = s.rg :=
  (errRecord_reports s cls unit core part code addr).get State.rg fun _ _ _ _ => rfl
@[simp] theorem errRecord_rgParts (s : State) (cls : Nat) (unit core part : Option Nat) (code : BitVec 16) (addr : Nat) : (errRecord s cls unit core part code addr).rgParts = s.rgParts :=
  (errRecord_reports s cls unit core part code addr).get State.rgParts fun _ _ _ _ => rfl
@[simp] theorem errRecord_jobs (s : State) (cls : Nat) (unit core part : Option Nat) (code : BitVec 16) (addr : Nat) : (errRecord s cls unit core part code addr).jobs = s.jobs :=
  (errRecord_reports s cls unit core part code addr).get State.jobs fun _ _ _ _ => rfl
@[simp] theorem errRecord_nextJob (s : State) (cls : Nat) (unit core part : Option Nat) (code : BitVec 16) (addr : Nat) : (errRecord s cls unit core part code addr).nextJob = s.nextJob :=
  (errRecord_reports s cls unit core part code addr).get State.nextJob fun _ _ _ _ => rfl
@[simp] theorem errRecord_cores (s : State) (cls : Nat) (unit core part : Option Nat) (code : BitVec 16) (addr : Nat) : (errRecord s cls unit core part code addr).cores = s.cores :=
  (errRecord_reports s cls unit core part code addr).get State.cores fun _ _ _ _ => rfl
@[simp] theorem errRecord_counters (s : State) (cls : Nat) (unit core part : Option Nat) (code : BitVec 16) (addr : Nat) : (errRecord s cls unit core part code addr).counters = s.counters :=
  (errRecord_reports s cls unit core part code addr).get State.counters fun _ _ _ _ => rfl
@[simp] theorem errRecord_updates (s : State) (cls : Nat) (unit core part : Option Nat) (code : BitVec 16) (addr : Nat) : (errRecord s cls unit core part code addr).updates = s.updates :=
  (errRecord_reports s cls unit core part code addr).get State.updates fun _ _ _ _ => rfl
@[simp] theorem errRecord_flights (s : State) (cls : Nat) (unit core part : Option Nat) (code : BitVec 16) (addr : Nat) : (errRecord s cls unit core part code addr).flights = s.flights :=
  (errRecord_reports s cls unit core part code addr).get State.flights fun _ _ _ _ => rfl
@[simp] theorem errRecord_sy (s : State) (cls : Nat) (unit core part : Option Nat) (code : BitVec 16) (addr : Nat) : (errRecord s cls unit core part code addr).sy = s.sy :=
  (errRecord_reports s cls unit core part code addr).get State.sy fun _ _ _ _ => rfl
@[simp] theorem errRecord_sec (s : State) (cls : Nat) (unit core part : Option Nat) (code : BitVec 16) (addr : Nat) : (errRecord s cls unit core part code addr).sec = s.sec :=
  (errRecord_reports s cls unit core part code addr).get State.sec fun _ _ _ _ => rfl
@[simp] theorem errRecord_tw (s : State) (cls : Nat) (unit core part : Option Nat) (code : BitVec 16) (addr : Nat) : (errRecord s cls unit core part code addr).tw = s.tw :=
  (errRecord_reports s cls unit core part code addr).get State.tw fun _ _ _ _ => rfl
@[simp] theorem errRecord_links (s : State) (cls : Nat) (unit core part : Option Nat) (code : BitVec 16) (addr : Nat) : (errRecord s cls unit core part code addr).links = s.links :=
  (errRecord_reports s cls unit core part code addr).get State.links fun _ _ _ _ => rfl
@[simp] theorem errRecord_tap (s : State) (cls : Nat) (unit core part : Option Nat) (code : BitVec 16) (addr : Nat) : (errRecord s cls unit core part code addr).tap = s.tap :=
  (errRecord_reports s cls unit core part code addr).get State.tap fun _ _ _ _ => rfl
@[simp] theorem errRecord_core (s : State) (cls : Nat) (unit core part : Option Nat) (code : BitVec 16) (addr : Nat) (m : Nat) : (errRecord s cls unit core part code addr).core m = s.core m :=
  (errRecord_reports s cls unit core part code addr).get (fun x => x.core m) fun _ _ _ _ => rfl
@[simp] theorem errRecord_queue (s : State) (cls : Nat) (unit core part : Option Nat) (code : BitVec 16) (addr : Nat) (m : Nat) : (errRecord s cls unit core part code addr).queue m = s.queue m :=
  (errRecord_reports s cls unit core part code addr).get (fun x => x.queue m) fun _ _ _ _ => rfl
@[simp] theorem errRecord_ctx (s : State) (cls : Nat) (unit core part : Option Nat) (code : BitVec 16) (addr : Nat) (m : Nat) : (errRecord s cls unit core part code addr).ctx m = s.ctx m :=
  (errRecord_reports s cls unit core part code addr).get (fun x => x.ctx m) fun _ _ _ _ => rfl
@[simp] theorem errRecord_inst (s : State) (cls : Nat) (unit core part : Option Nat) (code : BitVec 16) (addr : Nat) (m : Nat) : (errRecord s cls unit core part code addr).inst m = s.inst m :=
  (errRecord_reports s cls unit core part code addr).get (fun x => x.inst m) fun _ _ _ _ => rfl
@[simp] theorem errRecord_gen (s : State) (cls : Nat) (unit core part : Option Nat) (code : BitVec 16) (addr : Nat) (m : Nat) : (errRecord s cls unit core part code addr).gen m = s.gen m :=
  (errRecord_reports s cls unit core part code addr).get (fun x => x.gen m) fun _ _ _ _ => rfl
@[simp] theorem errRecord_counter (s : State) (cls : Nat) (unit core part : Option Nat) (code : BitVec 16) (addr : Nat) (m : Nat) : (errRecord s cls unit core part code addr).counter m = s.counter m :=
  (errRecord_reports s cls unit core part code addr).get (fun x => x.counter m) fun _ _ _ _ => rfl
@[simp] theorem errRecord_flight (s : State) (cls : Nat) (unit core part : Option Nat) (code : BitVec 16) (addr : Nat) (m : Nat) : (errRecord s cls unit core part code addr).flight m = s.flight m :=
  (errRecord_reports s cls unit core part code addr).get (fun x => x.flight m) fun _ _ _ _ => rfl
@[simp] theorem errRecord_link (s : State) (cls : Nat) (unit core part : Option Nat) (code : BitVec 16) (addr : Nat) (m : Nat) : (errRecord s cls unit core part code addr).link m = s.link m :=
  (errRecord_reports s cls unit core part code addr).get (fun x => x.link m) fun _ _ _ _ => rfl
@[simp] theorem errRecord_port (s : State) (cls : Nat) (unit core part : Option Nat) (code : BitVec 16) (addr : Nat) (m : Nat) : (errRecord s cls unit core part code addr).port m = s.port m :=
  (errRecord_reports s cls unit core part code addr).get (fun x => x.port m) fun _ _ _ _ => rfl
@[simp] theorem errRecord_rgPart (s : State) (cls : Nat) (unit core part : Option Nat) (code : BitVec 16) (addr : Nat) (m : Nat) : (errRecord s cls unit core part code addr).rgPart m = s.rgPart m :=
  (errRecord_reports s cls unit core part code addr).get (fun x => x.rgPart m) fun _ _ _ _ => rfl
@[simp] theorem errRecord_job (s : State) (cls : Nat) (unit core part : Option Nat) (code : BitVec 16) (addr : Nat) (m : Nat) : (errRecord s cls unit core part code addr).job m = s.job m :=
  (errRecord_reports s cls unit core part code addr).get (fun x => x.job m) fun _ _ _ _ => rfl
@[simp] theorem errRecord_obj (s : State) (cls : Nat) (unit core part : Option Nat) (code : BitVec 16) (addr : Nat) (m : Nat) : (errRecord s cls unit core part code addr).obj m = s.obj m :=
  (errRecord_reports s cls unit core part code addr).get (fun x => x.obj m) fun _ _ _ _ => rfl

/-! ### frCorrected -/

@[simp] theorem frCorrected_pending (s : State) (unit : Nat) : (frCorrected s unit).pending = s.pending :=
  (frCorrected_reports s unit).get State.pending fun _ _ _ _ => rfl
@[simp] theorem frCorrected_fuse (s : State) (unit : Nat) : (frCorrected s unit).fuse = s.fuse :=
  (frCorrected_reports s unit).get State.fuse fun _ _ _ _ => rfl
@[simp] theorem frCorrected_boot (s : State) (unit : Nat) : (frCorrected s unit).boot = s.boot :=
  (frCorrected_reports s unit).get State.boot fun _ _ _ _ => rfl
@[simp] theorem frCorrected_frozen (s : State) (unit : Nat) : (frCorrected s unit).frozen = s.frozen :=
  (frCorrected_reports s unit).get State.frozen fun _ _ _ _ => rfl
@[simp] theorem frCorrected_ports (s : State) (unit : Nat) : (frCorrected s unit).ports = s.ports :=
  (frCorrected_reports s unit).get State.ports fun _ _ _ _ => rfl
@[simp] theorem frCorrected_writes (s : State) (unit : Nat) : (frCorrected s unit).writes = s.writes :=
  (frCorrected_reports s unit).get State.writes fun _ _ _ _ => rfl
@[simp] theorem frCorrected_mem (s : State) (unit : Nat) : (frCorrected s unit).mem = s.mem :=
  (frCorrected_reports s unit).get State.mem fun _ _ _ _ => rfl
@[simp] theorem frCorrected_poison (s : State) (unit : Nat) : (frCorrected s unit).poison = s.poison :=
  (frCorrected_reports s unit).get State.poison fun _ _ _ _ => rfl
@[simp] theorem frCorrected_esc (s : State) (unit : Nat) : (frCorrected s unit).esc = s.esc :=
  (frCorrected_reports s unit).get State.esc fun _ _ _ _ => rfl
@[simp] theorem frCorrected_au (s : State) (unit : Nat) : (frCorrected s unit).au = s.au :=
  (frCorrected_reports s unit).get State.au fun _ _ _ _ => rfl
@[simp] theorem frCorrected_run (s : State) (unit : Nat) : (frCorrected s unit).run = s.run :=
  (frCorrected_reports s unit).get State.run fun _ _ _ _ => rfl
@[simp] theorem frCorrected_basin (s : State) (unit : Nat) : (frCorrected s unit).basin = s.basin :=
  (frCorrected_reports s unit).get State.basin fun _ _ _ _ => rfl
@[simp] theorem frCorrected_pool (s : State) (unit : Nat) : (frCorrected s unit).pool = s.pool :=
  (frCorrected_reports s unit).get State.pool fun _ _ _ _ => rfl
@[simp] theorem frCorrected_kp (s : State) (unit : Nat) : (frCorrected s unit).kp = s.kp :=
  (frCorrected_reports s unit).get State.kp fun _ _ _ _ => rfl
@[simp] theorem frCorrected_gens (s : State) (unit : Nat) : (frCorrected s unit).gens = s.gens :=
  (frCorrected_reports s unit).get State.gens fun _ _ _ _ => rfl
@[simp] theorem frCorrected_objs (s : State) (unit : Nat) : (frCorrected s unit).objs = s.objs :=
  (frCorrected_reports s unit).get State.objs fun _ _ _ _ => rfl
@[simp] theorem frCorrected_ctxs (s : State) (unit : Nat) : (frCorrected s unit).ctxs = s.ctxs :=
  (frCorrected_reports s unit).get State.ctxs fun _ _ _ _ => rfl
@[simp] theorem frCorrected_queues (s : State) (unit : Nat) : (frCorrected s unit).queues = s.queues :=
  (frCorrected_reports s unit).get State.queues fun _ _ _ _ => rfl
@[simp] theorem frCorrected_insts (s : State) (unit : Nat) : (frCorrected s unit).insts = s.insts :=
  (frCorrected_reports s unit).get State.insts fun _ _ _ _ => rfl
@[simp] theorem frCorrected_shares (s : State) (unit : Nat) : (frCorrected s unit).shares = s.shares :=
  (frCorrected_reports s unit).get State.shares fun _ _ _ _ => rfl
@[simp] theorem frCorrected_rg (s : State) (unit : Nat) : (frCorrected s unit).rg = s.rg :=
  (frCorrected_reports s unit).get State.rg fun _ _ _ _ => rfl
@[simp] theorem frCorrected_rgParts (s : State) (unit : Nat) : (frCorrected s unit).rgParts = s.rgParts :=
  (frCorrected_reports s unit).get State.rgParts fun _ _ _ _ => rfl
@[simp] theorem frCorrected_jobs (s : State) (unit : Nat) : (frCorrected s unit).jobs = s.jobs :=
  (frCorrected_reports s unit).get State.jobs fun _ _ _ _ => rfl
@[simp] theorem frCorrected_nextJob (s : State) (unit : Nat) : (frCorrected s unit).nextJob = s.nextJob :=
  (frCorrected_reports s unit).get State.nextJob fun _ _ _ _ => rfl
@[simp] theorem frCorrected_cores (s : State) (unit : Nat) : (frCorrected s unit).cores = s.cores :=
  (frCorrected_reports s unit).get State.cores fun _ _ _ _ => rfl
@[simp] theorem frCorrected_counters (s : State) (unit : Nat) : (frCorrected s unit).counters = s.counters :=
  (frCorrected_reports s unit).get State.counters fun _ _ _ _ => rfl
@[simp] theorem frCorrected_updates (s : State) (unit : Nat) : (frCorrected s unit).updates = s.updates :=
  (frCorrected_reports s unit).get State.updates fun _ _ _ _ => rfl
@[simp] theorem frCorrected_flights (s : State) (unit : Nat) : (frCorrected s unit).flights = s.flights :=
  (frCorrected_reports s unit).get State.flights fun _ _ _ _ => rfl
@[simp] theorem frCorrected_sy (s : State) (unit : Nat) : (frCorrected s unit).sy = s.sy :=
  (frCorrected_reports s unit).get State.sy fun _ _ _ _ => rfl
@[simp] theorem frCorrected_sec (s : State) (unit : Nat) : (frCorrected s unit).sec = s.sec :=
  (frCorrected_reports s unit).get State.sec fun _ _ _ _ => rfl
@[simp] theorem frCorrected_tw (s : State) (unit : Nat) : (frCorrected s unit).tw = s.tw :=
  (frCorrected_reports s unit).get State.tw fun _ _ _ _ => rfl
@[simp] theorem frCorrected_links (s : State) (unit : Nat) : (frCorrected s unit).links = s.links :=
  (frCorrected_reports s unit).get State.links fun _ _ _ _ => rfl
@[simp] theorem frCorrected_tap (s : State) (unit : Nat) : (frCorrected s unit).tap = s.tap :=
  (frCorrected_reports s unit).get State.tap fun _ _ _ _ => rfl
@[simp] theorem frCorrected_core (s : State) (unit : Nat) (m : Nat) : (frCorrected s unit).core m = s.core m :=
  (frCorrected_reports s unit).get (fun x => x.core m) fun _ _ _ _ => rfl
@[simp] theorem frCorrected_queue (s : State) (unit : Nat) (m : Nat) : (frCorrected s unit).queue m = s.queue m :=
  (frCorrected_reports s unit).get (fun x => x.queue m) fun _ _ _ _ => rfl
@[simp] theorem frCorrected_ctx (s : State) (unit : Nat) (m : Nat) : (frCorrected s unit).ctx m = s.ctx m :=
  (frCorrected_reports s unit).get (fun x => x.ctx m) fun _ _ _ _ => rfl
@[simp] theorem frCorrected_inst (s : State) (unit : Nat) (m : Nat) : (frCorrected s unit).inst m = s.inst m :=
  (frCorrected_reports s unit).get (fun x => x.inst m) fun _ _ _ _ => rfl
@[simp] theorem frCorrected_gen (s : State) (unit : Nat) (m : Nat) : (frCorrected s unit).gen m = s.gen m :=
  (frCorrected_reports s unit).get (fun x => x.gen m) fun _ _ _ _ => rfl
@[simp] theorem frCorrected_counter (s : State) (unit : Nat) (m : Nat) : (frCorrected s unit).counter m = s.counter m :=
  (frCorrected_reports s unit).get (fun x => x.counter m) fun _ _ _ _ => rfl
@[simp] theorem frCorrected_flight (s : State) (unit : Nat) (m : Nat) : (frCorrected s unit).flight m = s.flight m :=
  (frCorrected_reports s unit).get (fun x => x.flight m) fun _ _ _ _ => rfl
@[simp] theorem frCorrected_link (s : State) (unit : Nat) (m : Nat) : (frCorrected s unit).link m = s.link m :=
  (frCorrected_reports s unit).get (fun x => x.link m) fun _ _ _ _ => rfl
@[simp] theorem frCorrected_port (s : State) (unit : Nat) (m : Nat) : (frCorrected s unit).port m = s.port m :=
  (frCorrected_reports s unit).get (fun x => x.port m) fun _ _ _ _ => rfl
@[simp] theorem frCorrected_rgPart (s : State) (unit : Nat) (m : Nat) : (frCorrected s unit).rgPart m = s.rgPart m :=
  (frCorrected_reports s unit).get (fun x => x.rgPart m) fun _ _ _ _ => rfl
@[simp] theorem frCorrected_job (s : State) (unit : Nat) (m : Nat) : (frCorrected s unit).job m = s.job m :=
  (frCorrected_reports s unit).get (fun x => x.job m) fun _ _ _ _ => rfl
@[simp] theorem frCorrected_obj (s : State) (unit : Nat) (m : Nat) : (frCorrected s unit).obj m = s.obj m :=
  (frCorrected_reports s unit).get (fun x => x.obj m) fun _ _ _ _ => rfl

end Sys2Proof.Machine
end

