-- ==== Sys2Proof/Laws/Access.lean ====
section
/-! SUPPORT. The host register port (R495, R512, R517): when it grants the manager's access, and what a refused access can do. -/

namespace Sys2Proof.Machine

/-- The manager reaches every register (R517). -/
theorem reaches_manager (s : State) (who : Who) (off : Nat) (write : Bool) (h : who.inst = 0#6) :
    s.reaches who off write = true := by
  unfold State.reaches
  split
  · rfl
  · split <;> simp [h]

/-- The port grants the manager's aligned access outside the core windows (R11, R480, R495, R512). -/
theorem hostCheck_manager (s : State) (who : Who) (off : Nat) (write wide : Bool) (hp : s.portAlive = true)
    (hh : s.obs.halted = false) (hr : s.boot.state = .ready ∨ answersEarly off = true) (hv : who.valid = true)
    (hi : who.inst = 0#6) (ha : off % (if wide then 8 else 4) = 0) (hw : windowCore off = none) :
    hostCheck s who off write wide = .granted := by
  unfold hostCheck
  have hr' : (s.boot.state != .ready && !answersEarly off) = false := by
    rcases hr with h | h <;> simp [h]
  simp [hp, hh, hr', hv, ha, hw, reaches_manager s who off write hi]

/-- A granted write has its effect (R495). -/
theorem hostWrite_manager (s : State) (who : Who) (off : Nat) (wide : Bool) (f : State → State) (hp : s.portAlive = true)
    (hh : s.obs.halted = false) (hr : s.boot.state = .ready ∨ answersEarly off = true) (hv : who.valid = true)
    (hi : who.inst = 0#6) (ha : off % (if wide then 8 else 4) = 0) (hw : windowCore off = none) :
    hostWrite s who off wide f = f s := by
  unfold hostWrite
  rw [hostCheck_manager s who off true wide hp hh hr hv hi ha hw]

/-- The manager's write while the block answers has its effect (R495). -/
theorem hostWrite_may {s : State} {who : Who} (h : ManagerMay s who) (off : Nat) (wide : Bool) (f : State → State)
    (ha : off % (if wide then 8 else 4) = 0) (hw : windowCore off = none) : hostWrite s who off wide f = f s :=
  hostWrite_manager s who off wide f h.1 h.2.1 (Or.inl h.2.2.1) h.2.2.2.2 h.2.2.2.1 ha hw

end Sys2Proof.Machine
end

