-- ==== Sys2Proof/Laws/Clears.lean ====
section
/-! SUPPORT. What a clear engine has to zero: a range handed to it is covered by its ranges (R106). -/

namespace Sys2Proof.Machine

/-- A byte lies in a range. -/
def InRange (r : Nat × Nat) (b : Nat) : Prop := r.1 ≤ b ∧ b < r.1 + r.2

/-- What is cut from a range lies in the range that is cut out. -/
theorem cutRange_covers (r x : Nat × Nat) (b : Nat) (h : InRange r b) : (∃ p ∈ cutRange r x, InRange p b) ∨ InRange x b := by
  unfold cutRange InRange at *
  split
  · by_cases hb : x.1 ≤ b ∧ b < x.1 + x.2
    · exact .inr hb
    · refine .inl ?_
      by_cases hl : b < x.1
      · exact ⟨(r.1, x.1 - r.1), List.mem_append_left _ (by rw [if_pos (by omega)]; exact List.mem_singleton.2 rfl), by dsimp; omega⟩
      · exact ⟨(x.1 + x.2, r.1 + r.2 - (x.1 + x.2)),
          List.mem_append_right _ (by rw [if_pos (by omega)]; exact List.mem_singleton.2 rfl), by dsimp; omega⟩
  · exact .inl ⟨r, List.mem_singleton.2 rfl, h⟩

/-- A byte of one of the ranges stays in one of them, or lies in one of those cut out. -/
theorem cutRanges_cover (xs l : List (Nat × Nat)) (b : Nat) (h : ∃ p ∈ l, InRange p b) :
    (∃ p ∈ xs.foldl (fun l x => l.flatMap fun r => cutRange r x) l, InRange p b) ∨ ∃ x ∈ xs, InRange x b := by
  induction xs generalizing l with
  | nil => exact .inl h
  | cons x xs ih =>
    obtain ⟨p, hp, hb⟩ := h
    rcases cutRange_covers p x b hb with ⟨q, hq, e⟩ | e
    · rcases ih (l.flatMap fun r => cutRange r x) ⟨q, List.mem_flatMap.2 ⟨p, hp, hq⟩, e⟩ with k | ⟨y, hy, k⟩
      · exact .inl k
      · exact .inr ⟨y, List.mem_cons_of_mem _ hy, k⟩
    · exact .inr ⟨x, List.mem_cons_self, e⟩

/-- Every byte of a range handed to a clear engine is one that it has still to zero (R106). -/
theorem Core.addClear_covers (k : Core) (off len b : Nat) (h : off ≤ b) (h' : b < off + len) :
    ∃ r ∈ (k.addClear off len).clears, r.1 ≤ b ∧ b < r.1 + r.2 := by
  rcases cutRanges_cover k.clears [(off, len)] b ⟨_, List.mem_singleton.2 rfl, h, h'⟩ with ⟨p, hp, e⟩ | ⟨x, hx, e⟩
  · exact ⟨p, List.mem_append_right _ hp, e⟩
  · exact ⟨x, List.mem_append_left _ hx, e⟩

/-- A range handed to a clear engine takes nothing from it. -/
theorem Core.addClear_keeps (k : Core) (off len : Nat) : ∀ r ∈ k.clears, r ∈ (k.addClear off len).clears :=
  fun _ h => List.mem_append_left _ h

/-- Handing a range to a clear engine changes nothing of the core but its ranges. -/
theorem Core.addClear_frame (k : Core) (off len : Nat) : { k.addClear off len with clears := k.clears } = k := rfl

end Sys2Proof.Machine
end

