-- ==== Sys2Proof/Laws/Kill.lean ====
section
/-! SUPPORT. What the beginning of a kill, a halt and a stream fault can do: work of cores stops, jobs are marked and reports
are made; registers, program counters, scratch, accumulators, lanes and memory stay. -/

namespace Sys2Proof.Machine

/-- What a kill leaves of a core. -/
structure CoreKept (k l : Core) : Prop where
  regs : l.regs = k.regs
  pc : l.pc = k.pc
  flags : l.flags = k.flags
  scratch : l.scratch = k.scratch
  badLines : l.badLines = k.badLines
  bank0 : l.me.bank0 = k.me.bank0
  bank1 : l.me.bank1 = k.me.bank1
  acc : l.me.acc = k.me.acc
  sendLanes : l.sendLanes = k.sendLanes
  recvLanes : l.recvLanes = k.recvLanes
  icache : l.icache = k.icache
  job : l.job = k.job
  slot : l.slot = k.slot

theorem CoreKept.refl (k : Core) : CoreKept k k := ⟨rfl, rfl, rfl, rfl, rfl, rfl, rfl, rfl, rfl, rfl, rfl, rfl, rfl⟩

theorem CoreKept.trans {k l m : Core} (h : CoreKept k l) (g : CoreKept l m) : CoreKept k m :=
  ⟨g.regs.trans h.regs, g.pc.trans h.pc, g.flags.trans h.flags, g.scratch.trans h.scratch, g.badLines.trans h.badLines,
    g.bank0.trans h.bank0, g.bank1.trans h.bank1, g.acc.trans h.acc, g.sendLanes.trans h.sendLanes,
    g.recvLanes.trans h.recvLanes, g.icache.trans h.icache, g.job.trans h.job, g.slot.trans h.slot⟩

theorem stopWork_kept (k : Core) : CoreKept k k.stopWork := ⟨rfl, rfl, rfl, rfl, rfl, rfl, rfl, rfl, rfl, rfl, rfl, rfl, rfl⟩

/-- Only cores, jobs, the running image's state and the reports differ, and each core keeps what a kill leaves. -/
def Stops (s t : State) : Prop :=
  (∃ k j r c o f n, t = { s with cores := k, jobs := j, run := r, chime := c, obs := o, fr := f, freeCount := n }) ∧
    ∀ c, CoreKept (s.core c) (t.core c)

theorem Stops.refl (s : State) : Stops s s :=
  ⟨⟨s.cores, s.jobs, s.run, s.chime, s.obs, s.fr, s.freeCount, rfl⟩, fun _ => CoreKept.refl _⟩

theorem Stops.trans {s t u : State} (h : Stops s t) (g : Stops t u) : Stops s u := by
  obtain ⟨⟨k, j, r, c, o, f, n, rfl⟩, hk⟩ := h
  obtain ⟨⟨k, j, r, c, o, f, n, rfl⟩, gk⟩ := g
  exact ⟨⟨k, j, r, c, o, f, n, rfl⟩, fun c => (hk c).trans (gk c)⟩

theorem Reports.stops {s t : State} (h : Reports s t) : Stops s t := by
  obtain ⟨c, o, f, n, rfl, -⟩ := h
  exact ⟨⟨s.cores, s.jobs, s.run, c, o, f, n, rfl⟩, fun _ => CoreKept.refl _⟩

theorem Stops.foldl {α : Type} (f : State → α → State) (h : ∀ s x, Stops s (f s x)) (l : List α) (s : State) :
    Stops s (l.foldl f s) := by
  induction l generalizing s with
  | nil => exact Stops.refl s
  | cons x r ih => exact (h s x).trans (ih (f s x))

/-- Everything else is as it was. -/
theorem Stops.get {γ : Type} {s t : State} (h : Stops s t) (p : State → γ)
    (hp : ∀ k j r c o f n, p { s with cores := k, jobs := j, run := r, chime := c, obs := o, fr := f, freeCount := n } = p s) :
    p t = p s := by
  obtain ⟨⟨k, j, r, c, o, f, n, rfl⟩, -⟩ := h
  exact hp k j r c o f n

theorem setCore_stops (s : State) (c : Nat) (k : Core) (h : CoreKept (s.core c) k) : Stops s (s.setCore c k) := by
  refine ⟨⟨_, s.jobs, s.run, s.chime, s.obs, s.fr, s.freeCount, rfl⟩, fun d => ?_⟩
  by_cases e : d = c
  · subst e
    rw [State.setCore_core]
    exact h
  · rw [State.setCore_core_ne _ _ _ _ e]
    exact CoreKept.refl _

theorem setJob_stops (s : State) (n : Nat) (j : Job) : Stops s (s.setJob n j) :=
  ⟨⟨s.cores, _, s.run, s.chime, s.obs, s.fr, s.freeCount, rfl⟩, fun _ => CoreKept.refl _⟩

theorem modRun_stops (s : State) (f : Running → Running) : Stops s (s.modRun f) :=
  ⟨⟨s.cores, s.jobs, _, s.chime, s.obs, s.fr, s.freeCount, rfl⟩, fun _ => CoreKept.refl _⟩

theorem pmJob_stops (s : State) (job : Option Nat) (slot amount : Nat) : Stops s (pmJob s job slot amount) := by
  unfold pmJob
  cases job with
  | none => exact (pmGlobal_reports s slot amount).stops
  | some n =>
    refine (pmGlobal_reports s slot amount).stops.trans ?_
    generalize pmGlobal s slot amount = t
    dsimp only
    split
    · exact setJob_stops _ _ _
    · exact Stops.refl _

theorem stopCores_stops (s : State) (cs : List Nat) : Stops s (stopCores s cs) :=
  Stops.foldl _ (fun s c => setCore_stops s c _ (stopWork_kept _)) cs s

theorem killOne_stops (s : State) (n : Nat) (why : KillWhy) (code : BitVec 16) (detail : W64) (co : Bool) :
    Stops s (killOne s n why code detail co) := by
  unfold killOne
  split
  · exact Stops.refl s
  · split
    · exact Stops.refl s
    · exact (setJob_stops _ _ _).trans (stopCores_stops _ _)

theorem haltRecord_stops (s : State) (c : Nat) (code : BitVec 16) (addr : Nat) (data : W64) (co : Bool) :
    Stops s (haltRecord s c code addr data co) := by
  unfold haltRecord
  split
  · exact Stops.refl s
  · refine Stops.trans ?_ (chSample_reports _ _).stops
    exact setCore_stops _ _ _ ⟨rfl, rfl, rfl, rfl, rfl, rfl, rfl, rfl, rfl, rfl, rfl, rfl, rfl⟩

theorem drawWord_stops (s : State) : Stops s s.drawWord.2 :=
  ⟨⟨s.cores, s.jobs, s.run, s.chime, s.obs, s.fr, _, rfl⟩, fun _ => CoreKept.refl _⟩

theorem reportKill_stops (s : State) (j : Job) (code : BitVec 16) (co : Bool) : Stops s (reportKill s j code co) := by
  unfold reportKill
  split
  · exact Stops.refl s
  · exact Stops.foldl _ (fun s c => (drawWord_stops s).trans (haltRecord_stops _ _ _ _ _ _)) _ _

theorem coKill_stops (s : State) (n : Nat) (code : BitVec 16) : Stops s (coKill s n code) := by
  unfold coKill
  split
  · exact Stops.refl s
  · split
    · exact Stops.refl s
    · exact (reportKill_stops _ _ _ _).trans (killOne_stops _ _ _ _ _ _)

theorem killGraph_stops (s : State) (g : Nat) (code : BitVec 16) : Stops s (killGraph s g code) := by
  unfold killGraph
  refine Stops.trans ?_ (Stops.foldl _ (fun s n => coKill_stops s n _) _ _)
  exact (pmGlobal_reports s 15 1).stops.trans (modRun_stops _ _)

theorem killJob_stops (s : State) (n : Nat) (why : KillWhy) (code : BitVec 16) (detail : W64) :
    Stops s (killJob s n why code detail) := by
  unfold killJob
  split
  · exact Stops.refl s
  · split
    · exact Stops.refl s
    · refine (killOne_stops s n why code detail false).trans ?_
      generalize killOne s n why code detail false = t
      dsimp only
      split
      · exact Stops.refl t
      · split
        · exact killGraph_stops _ _ _
        · exact Stops.refl t

/-- What a halt does once it is recorded. -/
theorem haltTail_stops (t : State) (c : Nat) (code : BitVec 16) (data : W64) : Stops t (match (t.core c).job with
    | none => t
    | some n =>
      if bitAt t.obs.hold.toNat c then
        let s := t.modCore c fun k => { k with st := .held, stall := 0#3 }
        match s.job n with
        | some j => if j.kill.isSome then s else s.setJob n { j with killCode := code, detail := data }
        | none => s
      else killJob t n (haltWhy code) code data) := by
  cases (t.core c).job with
  | none => exact Stops.refl t
  | some n =>
    dsimp only
    split
    · have g : Stops t (t.modCore c fun k => { k with st := .held, stall := 0#3 }) :=
        setCore_stops _ _ _ ⟨rfl, rfl, rfl, rfl, rfl, rfl, rfl, rfl, rfl, rfl, rfl, rfl, rfl⟩
      revert g
      generalize (t.modCore c fun k => { k with st := .held, stall := 0#3 }) = u
      intro g
      refine g.trans ?_
      cases u.job n with
      | none => exact Stops.refl u
      | some j =>
        dsimp only
        split
        · exact Stops.refl u
        · exact setJob_stops _ _ _
    · exact killJob_stops _ _ _ _ _

theorem haltCore_stops (s : State) (c : Nat) (code : BitVec 16) (unit : Option Nat) (addr : Nat) (data : W64) :
    Stops s (haltCore s c code unit addr data) :=
  (((pmJob_stops s _ 10 1).trans (haltRecord_stops _ c code addr data false)).trans
    (errRecord_reports _ 1 unit (some c) _ code addr).stops).trans (haltTail_stops _ c code data)

theorem haltAt_stops (s : State) (c : Nat) (code : BitVec 16) (off : Nat) (data : W64) :
    Stops s (haltAt s c code off data) := haltCore_stops _ _ _ _ _ _

theorem haltReaders_stops (s : State) (l : List (Nat × Nat)) (code : BitVec 16) (data : W64) :
    Stops s (haltReaders s l code data) := by
  unfold haltReaders
  refine (Stops.foldl _ (fun s x => haltRecord_stops s _ _ _ _ _) l s).trans (Stops.foldl _ (fun s x => ?_) l _)
  split
  · exact haltAt_stops _ _ _ _ _
  · exact Stops.refl s

theorem streamFault_stops (s : State) (c thread op sram : Nat) (code : BitVec 16) (addr : Nat) :
    Stops s (streamFault s c thread op sram code addr) := by
  unfold streamFault
  dsimp only
  generalize hu : (if code = Config.SRAM_UNCORRECTABLE then some sram else if code = Config.MEM_POISON then some 8 else none) = u
  have h0 : Stops s (if (s.core c).se.fValid then s else chSample (s.setCore c { s.core c with se := { (s.core c).se with
      fValid := true, fThread := BitVec.ofNat 6 thread, fOp := BitVec.ofNat 3 op, fStation := s.coreStation c,
      fCode := code, fAddr := BitVec.ofNat 48 addr } }) (80 + c)) := by
    split
    · exact Stops.refl s
    · refine Stops.trans ?_ (chSample_reports _ _).stops
      exact setCore_stops _ _ _ ⟨rfl, rfl, rfl, rfl, rfl, rfl, rfl, rfl, rfl, rfl, rfl, rfl, rfl⟩
  revert h0
  generalize (if (s.core c).se.fValid then s else chSample (s.setCore c { s.core c with se := { (s.core c).se with
      fValid := true, fThread := BitVec.ofNat 6 thread, fOp := BitVec.ofNat 3 op, fStation := s.coreStation c,
      fCode := code, fAddr := BitVec.ofNat 48 addr } }) (80 + c)) = t
  intro h0
  have h1 := h0.trans ((pmJob_stops t (s.core c).job 11 1).trans
    (errRecord_reports (pmJob t (s.core c).job 11 1) 1 u (some c) (t.corePart c) code addr).stops)
  split
  · exact h1
  · exact h1.trans (killJob_stops _ _ _ _ _)

end Sys2Proof.Machine
end

