-- ==== Sys2Proof/Laws/Issue.lean ====
section
/-! SUPPORT. What the issue of one instruction can do besides its row's own effect (R147, R148, R151), and the form a row
takes once its checks pass (R172). -/

namespace Sys2Proof.Machine

/-- What a wait, a signal and a stall leave of a core. -/
structure CoreSame (k l : Core) : Prop where
  regs : l.regs = k.regs
  pc : l.pc = k.pc
  scratch : l.scratch = k.scratch
  badLines : l.badLines = k.badLines
  bank0 : l.me.bank0 = k.me.bank0
  bank1 : l.me.bank1 = k.me.bank1
  acc : l.me.acc = k.me.acc
  sendLanes : l.sendLanes = k.sendLanes
  recvLanes : l.recvLanes = k.recvLanes
  job : l.job = k.job
  slot : l.slot = k.slot

theorem CoreSame.refl (k : Core) : CoreSame k k := ⟨rfl, rfl, rfl, rfl, rfl, rfl, rfl, rfl, rfl, rfl, rfl⟩

theorem CoreSame.trans {k l m : Core} (h : CoreSame k l) (g : CoreSame l m) : CoreSame k m :=
  ⟨g.regs.trans h.regs, g.pc.trans h.pc, g.scratch.trans h.scratch, g.badLines.trans h.badLines,
    g.bank0.trans h.bank0, g.bank1.trans h.bank1, g.acc.trans h.acc, g.sendLanes.trans h.sendLanes,
    g.recvLanes.trans h.recvLanes, g.job.trans h.job, g.slot.trans h.slot⟩

theorem CoreKept.same {k l : Core} (h : CoreKept k l) : CoreSame k l :=
  ⟨h.regs, h.pc, h.scratch, h.badLines, h.bank0, h.bank1, h.acc, h.sendLanes, h.recvLanes, h.job, h.slot⟩

/-- Only cores, jobs, the running image's state, counters, updates on their way and the reports differ, and each core keeps
what a wait, a signal and a stall leave. -/
def Signals (s t : State) : Prop :=
  (∃ k j r x u c o f n, t = { s with
      cores := k, jobs := j, run := r, counters := x, updates := u, chime := c, obs := o, fr := f, freeCount := n }) ∧
    ∀ c, CoreSame (s.core c) (t.core c)

theorem Signals.refl (s : State) : Signals s s :=
  ⟨⟨s.cores, s.jobs, s.run, s.counters, s.updates, s.chime, s.obs, s.fr, s.freeCount, rfl⟩, fun _ => CoreSame.refl _⟩

theorem Signals.trans {s t u : State} (h : Signals s t) (g : Signals t u) : Signals s u := by
  obtain ⟨⟨k, j, r, x, v, c, o, f, n, rfl⟩, hk⟩ := h
  obtain ⟨⟨k, j, r, x, v, c, o, f, n, rfl⟩, gk⟩ := g
  exact ⟨⟨k, j, r, x, v, c, o, f, n, rfl⟩, fun c => (hk c).trans (gk c)⟩

theorem Stops.signals {s t : State} (h : Stops s t) : Signals s t := by
  obtain ⟨⟨k, j, r, c, o, f, n, rfl⟩, hk⟩ := h
  exact ⟨⟨k, j, r, s.counters, s.updates, c, o, f, n, rfl⟩, fun c => (hk c).same⟩

theorem Reports.signals {s t : State} (h : Reports s t) : Signals s t := h.stops.signals

/-- Everything else is as it was. -/
theorem Signals.get {γ : Type} {s t : State} (h : Signals s t) (p : State → γ)
    (hp : ∀ k j r x u c o f n, p { s with
      cores := k, jobs := j, run := r, counters := x, updates := u, chime := c, obs := o, fr := f, freeCount := n } = p s) :
    p t = p s := by
  obtain ⟨⟨k, j, r, x, v, c, o, f, n, rfl⟩, -⟩ := h
  exact hp k j r x v c o f n

theorem setCore_signals (s : State) (c : Nat) (k : Core) (h : CoreSame (s.core c) k) : Signals s (s.setCore c k) := by
  refine ⟨⟨_, s.jobs, s.run, s.counters, s.updates, s.chime, s.obs, s.fr, s.freeCount, rfl⟩, fun d => ?_⟩
  by_cases e : d = c
  · subst e
    rw [State.setCore_core]
    exact h
  · rw [State.setCore_core_ne _ _ _ _ e]
    exact CoreSame.refl _

theorem setCounter_signals (s : State) (n : Nat) (x : Counter) : Signals s (s.setCounter n x) :=
  ⟨⟨s.cores, s.jobs, s.run, _, s.updates, s.chime, s.obs, s.fr, s.freeCount, rfl⟩, fun _ => CoreSame.refl _⟩

theorem sendUpdate_signals (s : State) (u : Update) : Signals s (sendUpdate s u) :=
  ⟨⟨s.cores, s.jobs, s.run, s.counters, _, s.chime, s.obs, s.fr, s.freeCount, rfl⟩, fun _ => CoreSame.refl _⟩

/-- A table whose entries are changed one by one reads as the changed entry. -/
theorem tget_map {α : Type} (d : α) (g : α → α) (hd : g d = d) (t : List (Nat × α)) (n : Nat) :
    tget d (t.map fun p => (p.1, g p.2)) n = g (tget d t n) := by
  induction t with
  | nil => exact hd.symm
  | cons x r ih =>
    simp only [List.map_cons, tget]
    split
    · rfl
    · exact ih

theorem watchStale_core (s : State) (id : BitVec 17) (d : Nat) :
    (watchStale s id).core d = (s.core d).pushWatch id (s.counter id.toNat).value :=
  tget_map Core.reset (Core.pushWatch · id (s.counter id.toNat).value) rfl s.cores d

theorem watchStale_signals (s : State) (id : BitVec 17) : Signals s (watchStale s id) := by
  refine ⟨⟨_, s.jobs, s.run, s.counters, s.updates, s.chime, s.obs, s.fr, s.freeCount, rfl⟩, fun d => ?_⟩
  rw [watchStale_core]
  unfold Core.pushWatch
  split
  · split
    · exact ⟨rfl, rfl, rfl, rfl, rfl, rfl, rfl, rfl, rfl, rfl, rfl⟩
    · exact CoreSame.refl _
  · exact CoreSame.refl _

theorem stallFrame_signals (s : State) (c : Nat) (j : Job) : Signals s (stallFrame s c j) := by
  unfold stallFrame
  split
  · exact Signals.refl s
  · exact (traceCore_reports _ _ _ _).signals

theorem endStall_signals (s : State) (c : Nat) (j : Job) : Signals s (endStall s c j) := by
  unfold endStall
  split
  · exact Signals.refl s
  · exact Signals.trans (stallFrame_signals s c j)
      (setCore_signals _ _ _ ⟨rfl, rfl, rfl, rfl, rfl, rfl, rfl, rfl, rfl, rfl, rfl⟩)

theorem takeCounter_signals (s : State) (c n : Nat) (j : Job) (id : BitVec 17) (thr : W32) :
    Signals s (takeCounter s c n j id thr) := by
  unfold takeCounter
  cases j.kind with
  | free q a b =>
    dsimp only
    split
    · exact (haltAt_stops _ _ _ _ _).signals
    · simp only [if_true]
      exact Signals.trans (Signals.trans (setCounter_signals s _ _) (setJob_stops _ _ _).signals) (watchStale_signals _ _)
  | station st =>
    simp only [Bool.false_and, Bool.false_eq_true, if_false]
    exact Signals.trans (setCounter_signals s _ _) (watchStale_signals _ _)

theorem waitIssue_signals (s : State) (c n : Nat) (j : Job) (v : Nat) : Signals s (waitIssue s c n j v) := by
  unfold waitIssue
  split
  · exact setCore_signals _ _ _ ⟨rfl, rfl, rfl, rfl, rfl, rfl, rfl, rfl, rfl, rfl, rfl⟩
  · exact takeCounter_signals _ _ _ _ _ _
  · exact Signals.refl s

theorem fireSignal_signals (s : State) (c : Nat) (job : Option Nat) (pc : Nat) (stream : Bool) (sig : Sig) :
    Signals s (fireSignal s c job pc stream sig) := by
  cases sig with
  | none => exact Signals.refl s
  | fset n => exact setCore_signals _ _ _ ⟨rfl, rfl, rfl, rfl, rfl, rfl, rfl, rfl, rfl, rfl, rfl⟩
  | fclr n => exact setCore_signals _ _ _ ⟨rfl, rfl, rfl, rfl, rfl, rfl, rfl, rfl, rfl, rfl, rfl⟩
  | cadd id amount => exact sendUpdate_signals _ _

theorem sendSignal_signals (s : State) (c pc : Nat) (stream : Bool) (sig : Sig) : Signals s (sendSignal s c pc stream sig) := by
  unfold sendSignal
  split
  · exact Signals.refl s
  · split
    · exact Signals.refl s
    · split
      · exact Signals.refl s
      · split
        · split
          · exact fireSignal_signals _ _ _ _ _ _
          · exact (haltAt_stops _ _ _ _ _).signals
        · exact fireSignal_signals _ _ _ _ _ _

theorem resolveDeferred_signals (s : State) (n : Nat) : Signals s (resolveDeferred s n) := by
  unfold resolveDeferred
  split
  · exact Signals.refl s
  · split
    · exact (killJob_stops _ _ _ _ _).signals
    · exact Signals.refl s

theorem stall_signals (s : State) (c : Nat) (j : Job) (kind : BitVec 3) : Signals s (stall s c j kind) := by
  unfold stall
  split
  · exact Signals.refl s
  · exact Signals.trans (endStall_signals s c j)
      (setCore_signals _ _ _ ⟨rfl, rfl, rfl, rfl, rfl, rfl, rfl, rfl, rfl, rfl, rfl⟩)

/-! ## The checks of a row -/

/-- Reading ahead changes the lines that are read ahead alone (R159). -/
theorem readAhead_eq (k : Core) (entry len line : Nat) : ∃ p, k.readAhead entry len line = { k with prefetch := p } := by
  unfold Core.readAhead
  exact iteInduction (motive := fun x : Core => ∃ p, x = { k with prefetch := p }) (fun _ => ⟨k.prefetch, rfl⟩)
    (fun _ => ⟨k.prefetch ++ [line + 1], rfl⟩)

/-- The instruction at the PC of core c is fetched: nothing that issues reads differently (R157). -/
theorem fetchAt_core (s : State) (c : Nat) (j : Job) (d : Nat) : CoreSame (s.core d) ((s.fetchAt c j).core d) ∧
    ((s.fetchAt c j).core d).st = (s.core d).st ∧ ((s.fetchAt c j).core d).ended = (s.core d).ended ∧
    ((s.fetchAt c j).core d).flags = (s.core d).flags ∧ ((s.fetchAt c j).core d).watch = (s.core d).watch ∧
    ((s.fetchAt c j).core d).stall = (s.core d).stall ∧ ((s.fetchAt c j).core d).notReady = (s.core d).notReady := by
  have h : ∀ (k : Core) (e l : Nat), CoreSame k (k.fetch e l) ∧ (k.fetch e l).st = k.st ∧ (k.fetch e l).ended = k.ended ∧
      (k.fetch e l).flags = k.flags ∧ (k.fetch e l).watch = k.watch ∧ (k.fetch e l).stall = k.stall ∧
      (k.fetch e l).notReady = k.notReady := by
    intro k e l
    unfold Core.fetch
    split
    · obtain ⟨p, hp⟩ := readAhead_eq k e l (k.pc / 128)
      rw [hp]
      exact ⟨⟨rfl, rfl, rfl, rfl, rfl, rfl, rfl, rfl, rfl, rfl, rfl⟩, rfl, rfl, rfl, rfl, rfl, rfl⟩
    · exact ⟨CoreSame.refl _, rfl, rfl, rfl, rfl, rfl, rfl⟩
  unfold State.fetchAt
  rw [State.modCore_eq]
  by_cases e : d = c
  · subst e
    rw [State.setCore_core]
    exact h _ _ _
  · rw [State.setCore_core_ne _ _ _ _ e]
    exact ⟨CoreSame.refl _, rfl, rfl, rfl, rfl, rfl, rfl⟩

theorem fetchAt_signals (s : State) (c : Nat) (j : Job) : Signals s (s.fetchAt c j) :=
  ⟨⟨_, s.jobs, s.run, s.counters, s.updates, s.chime, s.obs, s.fr, s.freeCount, rfl⟩, fun d => (fetchAt_core s c j d).1⟩

theorem CoreSame.reg {k l : Core} (h : CoreSame k l) (r : Nat) : l.reg r = k.reg r := by unfold Core.reg; rw [h.regs]

theorem fetchAt_issuing (s : State) (c : Nat) (j : Job) (d : Nat) : (s.fetchAt c j).issuing d = s.issuing d := by
  obtain ⟨h, h1, h2, -⟩ := fetchAt_core s c j d
  unfold State.issuing State.engaged
  rw [h1, h2, h.job]
  rfl

theorem fetchAt_waitNow (s : State) (c : Nat) (j : Job) (v : Nat) : (s.fetchAt c j).waitNow c j v = s.waitNow c j v := by
  obtain ⟨h, _, _, h3, h4, _⟩ := fetchAt_core s c j c
  have hc : ∀ take id thr, (s.fetchAt c j).waitCtr c j take id thr = s.waitCtr c j take id thr := by
    intro take id thr
    unfold State.waitCtr State.seenValue
    rw [h4]
    rfl
  unfold State.waitNow Core.waitId Core.waitThr
  dsimp only
  simp only [h.reg, h3, hc]

theorem fetchAt_scoreboard (s : State) (c : Nat) (j : Job) (i : Ins) : (s.fetchAt c j).scoreboard c i = s.scoreboard c i := by
  unfold State.scoreboard
  rw [(fetchAt_core s c j c).2.2.2.2.2.2]
  rfl

theorem fetchAt_recvLane (s : State) (c : Nat) (j : Job) (d : Nat) (m : Job) (l : Nat) :
    (s.fetchAt c j).recvLane d m l = s.recvLane d m l := by
  unfold State.recvLane
  rw [(fetchAt_core s c j d).1.recvLanes]

theorem fetchAt_traced (s : State) (c : Nat) (j : Job) (d : Nat) : (s.fetchAt c j).coreTraced d = s.coreTraced d := rfl

/-- A row whose checks pass up to the late ones takes these, then issues its instruction (R172). -/
theorem coreRow_ready (s : State) (c op : Nat) (legal : Job → Ins → Bool) (plan : State → Job → Ins → Plan)
    (act : State → Nat → Job → Ins → Sig → State) (n : Nat) (j : Job) (i : Ins) (hi : s.issuing c = some (n, j))
    (hf : s.front c j = .ins i) (ho : i.op = op) (hd : definedOp op = true) (hl : legal j i = true)
    (pl : (plan s j i).legal = true) (pr : (plan s j i).range = none) (pf : (plan s j i).format = none)
    (pn : ((plan s j i).lanes.any fun l => (s.recvLane c j l).held == 0) = false) (pm : (plan s j i).room = true)
    (hs : s.scoreboard c i = false) (hb : s.breakAt j.gen (s.core c).pc = false) (hw : s.waitNow c j i.wait = .go)
    (ht : (s.coreTraced c && decide (256 ≤ (tget [] s.obs.coreFifo c).length)) = false) :
    coreRow s c op legal plan act = match (plan s j i).late with
      | some x => haltAt (s.fetchAt c j) c x.1 (s.core c).pc x.2
      | none => issueNow (s.fetchAt c j) c n j i act := by
  have hp := (fetchAt_core s c j c).1.pc
  have hb' : (s.fetchAt c j).breakAt j.gen (s.core c).pc = false := hb
  have ht' : ((s.fetchAt c j).coreTraced c && decide (256 ≤ (tget [] (s.fetchAt c j).obs.coreFifo c).length)) = false := ht
  unfold coreRow
  simp only [hi, hf, ho, hd, hl, Bool.true_and, bne_self_eq_false, Bool.false_eq_true, if_false]
  unfold issueTry issueReady
  simp only [fetchAt_scoreboard, fetchAt_waitNow, fetchAt_recvLane, hp, hs, hw, hb', ht', pl, pr, pf, pn, pm, Bool.not_true,
    Bool.false_eq_true, if_false]
  all_goals cases (plan s j i).late <;> rfl

/-- A row whose checks all pass issues its instruction (R172). -/
theorem coreRow_issue (s : State) (c op : Nat) (legal : Job → Ins → Bool) (plan : State → Job → Ins → Plan)
    (act : State → Nat → Job → Ins → Sig → State) (n : Nat) (j : Job) (i : Ins) (hi : s.issuing c = some (n, j))
    (hf : s.front c j = .ins i) (ho : i.op = op) (hd : definedOp op = true) (hl : legal j i = true)
    (pl : (plan s j i).legal = true) (pr : (plan s j i).range = none) (pf : (plan s j i).format = none)
    (pn : ((plan s j i).lanes.any fun l => (s.recvLane c j l).held == 0) = false) (pm : (plan s j i).room = true)
    (pt : (plan s j i).late = none) (hs : s.scoreboard c i = false) (hb : s.breakAt j.gen (s.core c).pc = false)
    (hw : s.waitNow c j i.wait = .go)
    (ht : (s.coreTraced c && decide (256 ≤ (tget [] s.obs.coreFifo c).length)) = false) :
    coreRow s c op legal plan act = issueNow (s.fetchAt c j) c n j i act := by
  rw [coreRow_ready s c op legal plan act n j i hi hf ho hd hl pl pr pf pn pm hs hb hw ht, pt]

/-- A row whose checks pass up to the last ones halts with the code and data of the first of those (R172). -/
theorem coreRow_late (s : State) (c op : Nat) (legal : Job → Ins → Bool) (plan : State → Job → Ins → Plan)
    (act : State → Nat → Job → Ins → Sig → State) (n : Nat) (j : Job) (i : Ins) (x : BitVec 16 × W64)
    (hi : s.issuing c = some (n, j)) (hf : s.front c j = .ins i) (ho : i.op = op) (hd : definedOp op = true)
    (hl : legal j i = true) (pl : (plan s j i).legal = true) (pr : (plan s j i).range = none)
    (pf : (plan s j i).format = none)
    (pn : ((plan s j i).lanes.any fun l => (s.recvLane c j l).held == 0) = false) (pm : (plan s j i).room = true)
    (pt : (plan s j i).late = some x) (hs : s.scoreboard c i = false) (hb : s.breakAt j.gen (s.core c).pc = false)
    (hw : s.waitNow c j i.wait = .go)
    (ht : (s.coreTraced c && decide (256 ≤ (tget [] s.obs.coreFifo c).length)) = false) :
    coreRow s c op legal plan act = haltAt (s.fetchAt c j) c x.1 (s.core c).pc x.2 := by
  rw [coreRow_ready s c op legal plan act n j i hi hf ho hd hl pl pr pf pn pm hs hb hw ht, pt]

/-! ## A core that issues -/

theorem issuing_iff (s : State) (c n : Nat) (j : Job) : s.issuing c = some (n, j) ↔
    (s.core c).ended = false ∧ (s.core c).st = .running ∧ s.obs.halted = false ∧ s.portAlive = true ∧
      (s.core c).job = some n ∧ s.job n = some j ∧ j.kill = none := by
  unfold State.issuing State.engaged
  constructor
  · intro h
    split at h
    · cases h
    · rename_i he
      split at h
      · rename_i hr
        split at h
        · cases h
        · rename_i m hm
          split at h
          · rename_i k hk
            split at h
            · rename_i hn
              cases h
              simp only [Bool.and_eq_true, beq_iff_eq, Bool.not_eq_true'] at hr
              exact ⟨by simpa using he, hr.1.1, hr.1.2, hr.2, hm, hk, by simpa using hn⟩
            · cases h
          · cases h
      · cases h
  · rintro ⟨h1, h2, h3, h4, h5, h6, h7⟩
    simp [h1, h2, h3, h4, h5, h6, h7]

/-- A stall ends without touching what issues. -/
theorem endStall_issuing (s : State) (c : Nat) (j : Job) (d n : Nat) (k : Job) (h : s.issuing d = some (n, k)) :
    (endStall s c j).issuing d = some (n, k) := by
  rw [issuing_iff] at *
  have key : ∀ t : State, Reports s t → t.obs.halted = s.obs.halted →
      ((t.modCore c fun k => { k with stall := 0#3 }).core d).ended = false ∧
      ((t.modCore c fun k => { k with stall := 0#3 }).core d).st = .running ∧ t.obs.halted = false ∧ t.portAlive = true ∧
      ((t.modCore c fun k => { k with stall := 0#3 }).core d).job = some n ∧ t.job n = some k ∧ k.kill = none := by
    intro t ht ho
    obtain ⟨a, b, f, m, rfl, -⟩ := ht
    obtain ⟨h1, h2, h3, h4, h5, h6, h7⟩ := h
    refine ⟨?_, ?_, ho.trans h3, h4, ?_, h6, h7⟩ <;>
    · rw [State.modCore_eq]
      by_cases e : d = c
      · subst e
        rw [State.setCore_core]
        first | exact h1 | exact h2 | exact h5
      · rw [State.setCore_core_ne _ _ _ _ e]
        first | exact h1 | exact h2 | exact h5
  unfold endStall
  split
  · exact h
  · unfold stallFrame
    dsimp only
    split
    · exact key s (Reports.refl s) rfl
    · refine key _ (traceCore_reports _ _ _ _) ?_
      unfold traceCore
      split <;> rfl

/-- A stall ends without touching flags. -/
theorem endStall_flags (s : State) (c : Nat) (j : Job) (d : Nat) : ((endStall s c j).core d).flags = (s.core d).flags := by
  unfold endStall
  split
  · rfl
  · rw [State.modCore_eq]
    have e : ∀ m, (stallFrame s c j).core m = s.core m := by
      intro m
      unfold stallFrame
      dsimp only
      split
      · rfl
      · exact traceCore_core _ _ _ _ _
    by_cases h : d = c
    · subst h
      rw [State.setCore_core, e]
    · rw [State.setCore_core_ne _ _ _ _ h, e]

/-- The flags after a WAIT field: FLAG_TAKE clears its flag (R147). -/
def waitFlags (v : Nat) (f : W64) : W64 := if v / 8192 = 2 then f &&& ~~~ BitVec.ofNat 64 (2 ^ bitField v 12 7) else f

/-- A take that a free job's contribution table has room for (R310). -/
def takeFits (k : Core) (j : Job) (v : Nat) : Bool :=
  v / 8192 != 4 || (match j.kind with | .station _ => true | .free _ _ _ => !j.tableFull (k.waitId v))

/-- The job of an instruction after its wait: a take by a free job enters the contribution table (R309). -/
def waitJob (k : Core) (j : Job) (v : Nat) : Job :=
  if v / 8192 = 4 then (match j.kind with
    | .station _ => j
    | .free _ _ _ => j.contribute (k.waitId v) (-(k.waitThr v)))
  else j

theorem pushWatch_ended (k : Core) (id : BitVec 17) (v : W32) : (k.pushWatch id v).ended = k.ended := by
  unfold Core.pushWatch; split <;> [split; skip] <;> rfl
theorem pushWatch_st (k : Core) (id : BitVec 17) (v : W32) : (k.pushWatch id v).st = k.st := by
  unfold Core.pushWatch; split <;> [split; skip] <;> rfl
theorem pushWatch_job (k : Core) (id : BitVec 17) (v : W32) : (k.pushWatch id v).job = k.job := by
  unfold Core.pushWatch; split <;> [split; skip] <;> rfl
theorem pushWatch_flags (k : Core) (id : BitVec 17) (v : W32) : (k.pushWatch id v).flags = k.flags := by
  unfold Core.pushWatch; split <;> [split; skip] <;> rfl

/-- A wait that goes takes effect and the core still issues (R147). -/
theorem waitIssue_issuing (s : State) (c n : Nat) (j : Job) (v : Nat) (h : s.issuing c = some (n, j))
    (hf : takeFits (s.core c) j v = true) :
    (waitIssue s c n j v).issuing c = some (n, waitJob (s.core c) j v) ∧
      ((waitIssue s c n j v).core c).flags = waitFlags v (s.core c).flags := by
  have h' := h
  rw [issuing_iff] at h' ⊢
  obtain ⟨h1, h2, h3, h4, h5, h6, h7⟩ := h'
  unfold waitIssue waitFlags waitJob takeFits at *
  dsimp only at *
  split
  · rename_i hv
    rw [hv]
    simp only [State.setCore_core, if_true, if_false, Nat.reduceEqDiff]
    exact ⟨⟨h1, h2, h3, h4, h5, h6, h7⟩, trivial⟩
  · rename_i hv
    rw [hv] at hf ⊢
    unfold takeCounter
    cases hk : j.kind with
    | station st =>
      simp only [Bool.false_and, Bool.false_eq_true, if_false, if_true, Nat.reduceEqDiff, watchStale_core,
        pushWatch_ended, pushWatch_st, pushWatch_job, pushWatch_flags]
      exact ⟨⟨h1, h2, h3, h4, h5, h6, h7⟩, rfl⟩
    | free q a b =>
      simp only [hk, bne_self_eq_false, Bool.false_or, Bool.not_eq_true'] at hf
      simp only [hf, Bool.and_false, Bool.false_eq_true, if_false, if_true, Nat.reduceEqDiff, watchStale_core,
        pushWatch_ended, pushWatch_st, pushWatch_job, pushWatch_flags]
      exact ⟨⟨h1, h2, h3, h4, h5, State.setJob_job _ _ _, h7⟩, rfl⟩
  · rename_i h2' h4'
    rw [if_neg h4', if_neg h2']
    exact ⟨⟨h1, h2, h3, h4, h5, h6, h7⟩, rfl⟩

/-- The core after its instruction has left issue: the PC moves on (R144). -/
def Core.pastIssue (k : Core) (pend : Tbl Nat) : Core :=
  { k with pc := k.pc + 16, fetched := none, notReady := pend, watch := none, flowInsns := k.flowInsns + 1 }

/-- Issue of an instruction whose wait goes: its row's effect follows on a state in which only signals, waits and reports
have acted (R147, R151). -/
theorem issueNow_act (s : State) (c n : Nat) (j : Job) (i : Ins) (act : State → Nat → Job → Ins → Sig → State)
    (h : s.issuing c = some (n, j)) (hf : takeFits (s.core c) j i.wait = true) :
    ∃ u, Signals s u ∧ u.issuing c = some (n, waitJob (s.core c) j i.wait) ∧
      (u.core c).flags = waitFlags i.wait (s.core c).flags ∧
      issueNow s c n j i act = resolveDeferred
        (act (u.modCore c fun k => k.pastIssue (u.pendAfter c i)) n (waitJob (s.core c) j i.wait) i
          ((s.core c).sigOf i.signal)) n := by
  have e1 := endStall_issuing s c j c n j h
  have hs := endStall_signals s c j
  have hr : ∀ m, ((endStall s c j).core c).reg m = (s.core c).reg m := by
    intro m; unfold Core.reg; rw [(hs.2 c).regs]
  have hid : ((endStall s c j).core c).waitId i.wait = (s.core c).waitId i.wait := by unfold Core.waitId; rw [hr]
  have hth : ((endStall s c j).core c).waitThr i.wait = (s.core c).waitThr i.wait := by unfold Core.waitThr; rw [hr]
  have hf' : takeFits ((endStall s c j).core c) j i.wait = true := by unfold takeFits at *; rw [hid]; exact hf
  obtain ⟨w1, w2⟩ := waitIssue_issuing (endStall s c j) c n j i.wait e1 hf'
  have hj : waitJob ((endStall s c j).core c) j i.wait = waitJob (s.core c) j i.wait := by unfold waitJob; rw [hid, hth]
  rw [hj] at w1
  rw [endStall_flags] at w2
  refine ⟨waitIssue (endStall s c j) c n j i.wait, hs.trans (waitIssue_signals _ _ _ _ _), w1, w2, ?_⟩
  unfold issueNow
  simp only [w1]
  rfl

/-- A row that issues from a fetch: the same, from the state before the fetch. -/
theorem fetchedNow_act (s : State) (c n : Nat) (j : Job) (i : Ins) (act : State → Nat → Job → Ins → Sig → State)
    (h : s.issuing c = some (n, j)) (hf : takeFits (s.core c) j i.wait = true) :
    ∃ u, Signals s u ∧ u.issuing c = some (n, waitJob (s.core c) j i.wait) ∧
      (u.core c).flags = waitFlags i.wait (s.core c).flags ∧
      issueNow (s.fetchAt c j) c n j i act = resolveDeferred
        (act (u.modCore c fun k => k.pastIssue (u.pendAfter c i)) n (waitJob (s.core c) j i.wait) i
          ((s.core c).sigOf i.signal)) n := by
  obtain ⟨hc, _, _, hfl, _⟩ := fetchAt_core s c j c
  have hid : ∀ v, ((s.fetchAt c j).core c).waitId v = (s.core c).waitId v := fun v => by unfold Core.waitId; rw [hc.reg]
  have hth : ∀ v, ((s.fetchAt c j).core c).waitThr v = (s.core c).waitThr v := fun v => by unfold Core.waitThr; rw [hc.reg]
  have hj : waitJob ((s.fetchAt c j).core c) j i.wait = waitJob (s.core c) j i.wait := by unfold waitJob; rw [hid, hth]
  have hsg : ((s.fetchAt c j).core c).sigOf i.signal = (s.core c).sigOf i.signal := by
    unfold Core.sigOf; simp only [hc.reg]
  obtain ⟨u, h1, h2, h3, h4⟩ := issueNow_act (s.fetchAt c j) c n j i act ((fetchAt_issuing s c j c).trans h)
    (by unfold takeFits at *; rw [hid]; exact hf)
  rw [hj] at h2
  rw [hfl] at h3
  rw [hj, hsg] at h4
  exact ⟨u, (fetchAt_signals s c j).trans h1, h2, h3, h4⟩

/-- The flags after a SIGNAL field of an instruction that sets or clears one (R148). -/
def sigFlags (sig : Sig) (f : W64) : W64 := match sig with
  | .fset n => f ||| BitVec.ofNat 64 (2 ^ n)
  | .fclr n => f &&& ~~~ BitVec.ofNat 64 (2 ^ n)
  | _ => f

theorem resolveDeferred_stops (s : State) (n : Nat) : Stops s (resolveDeferred s n) := by
  unfold resolveDeferred
  split
  · exact Stops.refl s
  · split
    · exact killJob_stops _ _ _ _ _
    · exact Stops.refl s

/-- The signal of an instruction of a running job acts on the flags of its core as its field says (R148). -/
theorem sendSignal_flags (s : State) (c pc : Nat) (stream : Bool) (sig : Sig) (n : Nat) (j : Job)
    (hj : (s.core c).job = some n) (hn : s.job n = some j) (hk : j.kill = none) :
    ((sendSignal s c pc stream sig).core c).flags = sigFlags sig (s.core c).flags := by
  unfold sendSignal
  simp only [hj, hn, hk, Option.isSome_none, Bool.false_eq_true, if_false]
  cases sig with
  | none => rfl
  | fset m => simp [fireSignal, State.modCore_eq, sigFlags]
  | fclr m => simp [fireSignal, State.modCore_eq, sigFlags]
  | cadd id amount =>
    dsimp only
    split
    · rfl
    · exact ((haltAt_stops _ _ _ _ _).2 c).flags

end Sys2Proof.Machine
end

