-- ==== Sys2Proof/Laws/Control.lean ====
section
/-! SUPPORT. What a control instruction that may issue does (R134, R143, R144, R147, R148). -/

namespace Sys2Proof.Machine

theorem sigFlags_sigOf (k : Core) (v : Nat) (f : W64) : sigFlags (k.sigOf v) f = flagsSignalled v f := by
  unfold Core.sigOf flagsSignalled
  split
  · rename_i h; simp [h, sigFlags]
  · rename_i h; simp [h, sigFlags]
  · rename_i h; simp [h, sigFlags]
  · rename_i h; simp [h, sigFlags]
  · rename_i h1 h2 _ _
    rw [if_neg h1, if_neg h2]
    rfl

theorem waitFlags_eq (v : Nat) (f : W64) : waitFlags v f = flagsWaited v f := rfl

theorem mayIssue_fits {s : State} {c n : Nat} {j : Job} {i : Ins} (h : MayIssue s c n j i) :
    takeFits (s.core c) j i.wait = true := by
  unfold takeFits
  by_cases e : i.wait / 8192 = 4
  · rcases h.2.2.2.2.2.2 e with ⟨st, hs⟩ | hf
    · simp [hs]
    · cases j.kind <;> simp [hf]
  · simp [e]

/-- The frame of an issue: signals, then changes of cores alone that keep what `IssueKeeps` names, then signals. -/
theorem issueKeeps_of {s u t : State} {c : Nat} {ks : Tbl Core} (h1 : Signals s u)
    (hk : ∀ d, (({ u with cores := ks } : State).core d).badLines = (u.core d).badLines ∧
      (({ u with cores := ks } : State).core d).me.acc = (u.core d).me.acc ∧
      (({ u with cores := ks } : State).core d).me.bank0 = (u.core d).me.bank0 ∧
      (({ u with cores := ks } : State).core d).me.bank1 = (u.core d).me.bank1 ∧
      (({ u with cores := ks } : State).core d).sendLanes = (u.core d).sendLanes ∧
      (({ u with cores := ks } : State).core d).recvLanes = (u.core d).recvLanes)
    (hr : ∀ d, d ≠ c → ({ u with cores := ks } : State).core d = u.core d)
    (h2 : Signals { u with cores := ks } t) : IssueKeeps s t c := by
  have g : ∀ {γ : Type} (p : State → γ), (∀ s : State, ∀ k j r x u c o f n, p { s with
      cores := k, jobs := j, run := r, counters := x, updates := u, chime := c, obs := o, fr := f, freeCount := n } = p s) →
      (∀ s : State, ∀ k, p { s with cores := k } = p s) → p t = p s := by
    intro γ p hp hq
    rw [h2.get p (hp _), hq, h1.get p (hp _)]
  refine ⟨g (·.mem) (fun _ _ _ _ _ _ _ _ _ _ => rfl) (fun _ _ => rfl), g (·.poison) (fun _ _ _ _ _ _ _ _ _ _ => rfl) (fun _ _ => rfl),
    g (·.writes) (fun _ _ _ _ _ _ _ _ _ _ => rfl) (fun _ _ => rfl), g (·.objs) (fun _ _ _ _ _ _ _ _ _ _ => rfl) (fun _ _ => rfl),
    g (·.queues) (fun _ _ _ _ _ _ _ _ _ _ => rfl) (fun _ _ => rfl), g (·.ctxs) (fun _ _ _ _ _ _ _ _ _ _ => rfl) (fun _ _ => rfl),
    g (·.insts) (fun _ _ _ _ _ _ _ _ _ _ => rfl) (fun _ _ => rfl), g (·.gens) (fun _ _ _ _ _ _ _ _ _ _ => rfl) (fun _ _ => rfl),
    g (·.flights) (fun _ _ _ _ _ _ _ _ _ _ => rfl) (fun _ _ => rfl), g (·.shares) (fun _ _ _ _ _ _ _ _ _ _ => rfl) (fun _ _ => rfl),
    g (·.links) (fun _ _ _ _ _ _ _ _ _ _ => rfl) (fun _ _ => rfl), g (·.ports) (fun _ _ _ _ _ _ _ _ _ _ => rfl) (fun _ _ => rfl),
    g (·.kp) (fun _ _ _ _ _ _ _ _ _ _ => rfl) (fun _ _ => rfl), g (·.rg) (fun _ _ _ _ _ _ _ _ _ _ => rfl) (fun _ _ => rfl),
    g (·.esc) (fun _ _ _ _ _ _ _ _ _ _ => rfl) (fun _ _ => rfl), g (·.au) (fun _ _ _ _ _ _ _ _ _ _ => rfl) (fun _ _ => rfl),
    g (·.sec) (fun _ _ _ _ _ _ _ _ _ _ => rfl) (fun _ _ => rfl), g (·.tw) (fun _ _ _ _ _ _ _ _ _ _ => rfl) (fun _ _ => rfl),
    g (·.sy) (fun _ _ _ _ _ _ _ _ _ _ => rfl) (fun _ _ => rfl), g (·.boot) (fun _ _ _ _ _ _ _ _ _ _ => rfl) (fun _ _ => rfl),
    g (·.fuse) (fun _ _ _ _ _ _ _ _ _ _ => rfl) (fun _ _ => rfl), g (·.tap) (fun _ _ _ _ _ _ _ _ _ _ => rfl) (fun _ _ => rfl),
    g (·.pending) (fun _ _ _ _ _ _ _ _ _ _ => rfl) (fun _ _ => rfl), ?_, ?_⟩
  · intro d
    have a := h1.2 d
    have b := h2.2 d
    have k := hk d
    exact ⟨b.badLines.trans (k.1.trans a.badLines), b.acc.trans (k.2.1.trans a.acc), b.bank0.trans (k.2.2.1.trans a.bank0),
      b.bank1.trans (k.2.2.2.1.trans a.bank1), b.sendLanes.trans (k.2.2.2.2.1.trans a.sendLanes),
      b.recvLanes.trans (k.2.2.2.2.2.trans a.recvLanes)⟩
  · intro d hd
    have a := h1.2 d
    have b := h2.2 d
    have e := hr d hd
    refine ⟨fun r => ?_, ?_⟩
    · unfold Core.reg
      rw [b.regs, e, a.regs]
    · rw [b.pc, e, a.pc]

/-- Reading a scalar register after a write (R134). -/
theorem reg_setReg (k : Core) (d : Nat) (v : W64) (r : Nat) :
    (k.setReg d v).reg r = if r = d ∧ r ≠ 0 then v else k.reg r := by
  unfold Core.setReg Core.reg
  by_cases hd : d = 0
  · by_cases hr : r = 0 <;> simp [hd, hr]
  · by_cases hr : r = 0
    · simp [hr]
    · simp only [hd, if_false, hr, ne_eq, not_false_eq_true, and_true]
      rw [tget_tset0]

/-- What is left of an instruction once its own core change is made: its signal, and a deferred preemption that resolves. -/
theorem tail_spec (w : State) (c n : Nat) (j : Job) (k : Core) (v : Nat) (pc : Nat) (hj : (w.core c).job = some n)
    (hn : w.job n = some j) (hk : j.kill = none) :
    Signals w (resolveDeferred (doneAt pc (k.sigOf v) w c) n) ∧
      ((resolveDeferred (doneAt pc (k.sigOf v) w c) n).core c).flags = flagsSignalled v (w.core c).flags := by
  refine ⟨(sendSignal_signals _ _ _ _ _).trans (resolveDeferred_signals _ _), ?_⟩
  rw [((resolveDeferred_stops (doneAt pc (k.sigOf v) w c) n).2 c).flags]
  unfold doneAt
  rw [sendSignal_flags w c pc false _ n j hj hn hk, sigFlags_sigOf]

/-- A row that changes its core alone: `f` on the core past issue, then its signal. -/
theorem core_change (s : State) (c n : Nat) (j : Job) (i : Ins) (act : State → Nat → Job → Ins → Sig → State)
    (f : State → Core → Core) (pc : State → Nat) (hm : MayIssue s c n j i)
    (ha : ∀ u sig, act u n (waitJob (s.core c) j i.wait) i sig = doneAt (pc u) sig (u.modCore c (f u)) c)
    (hf : ∀ u k, (f u k).job = k.job ∧ (f u k).badLines = k.badLines ∧ (f u k).me = k.me ∧
      (f u k).sendLanes = k.sendLanes ∧ (f u k).recvLanes = k.recvLanes) :
    ∃ u, Signals s u ∧ (u.core c).flags = flagsWaited i.wait (s.core c).flags ∧
      (let p := u.modCore c fun k => k.pastIssue (u.pendAfter c i)
       let t := issueNow (s.fetchAt c j) c n j i act
       IssueKeeps s t c ∧ (t.core c).flags = flagsSignalled i.signal ((f p (p.core c)).flags) ∧
         (t.core c).regs = (f p (p.core c)).regs ∧ (t.core c).pc = (f p (p.core c)).pc ∧
         (t.core c).scratch = (f p (p.core c)).scratch ∧ ∀ d, d ≠ c → (t.core d).scratch = (s.core d).scratch) := by
  obtain ⟨u, h1, h2, h3, h4⟩ := fetchedNow_act s c n j i act hm.1 (mayIssue_fits hm)
  refine ⟨u, h1, h3, ?_⟩
  rw [h4, ha]
  dsimp only
  generalize hp : (u.modCore c fun k => k.pastIssue (u.pendAfter c i)) = p
  have hpc : ∀ d, d ≠ c → p.core d = u.core d := by
    intro d hd
    rw [← hp, State.modCore_eq, State.setCore_core_ne _ _ _ _ hd]
  have hpk : p.core c = (u.core c).pastIssue (u.pendAfter c i) := by
    rw [← hp, State.modCore_eq, State.setCore_core]
  rw [issuing_iff] at h2
  have hw : (p.modCore c (f p)).core c = f p (p.core c) := by rw [State.modCore_eq, State.setCore_core]
  have hjob : ((p.modCore c (f p)).core c).job = some n := by
    rw [hw, (hf p _).1, hpk]
    exact h2.2.2.2.2.1
  have hn : (p.modCore c (f p)).job n = some (waitJob (s.core c) j i.wait) := by
    rw [← hp]
    exact h2.2.2.2.2.2.1
  obtain ⟨t1, t2⟩ := tail_spec (p.modCore c (f p)) c n _ (s.core c) i.signal (pc p) hjob hn h2.2.2.2.2.2.2
  rw [hw] at t2
  have tc := t1.2 c
  rw [hw] at tc
  refine ⟨?_, t2, tc.regs, tc.pc, tc.scratch, ?_⟩
  · have e : p.modCore c (f p) = { u with cores := (p.modCore c (f p)).cores } := by rw [← hp]; rfl
    have hcore : ∀ d, (({ u with cores := (p.modCore c (f p)).cores } : State).core d) = (p.modCore c (f p)).core d := by
      intro d; rw [← e]
    refine issueKeeps_of h1 (ks := (p.modCore c (f p)).cores) ?_ ?_ (e ▸ t1)
    · intro d
      rw [hcore]
      by_cases hd : d = c
      · subst hd
        rw [hw, (hf p _).2.1, (hf p _).2.2.1, (hf p _).2.2.2.1, (hf p _).2.2.2.2, hpk]
        exact ⟨rfl, rfl, rfl, rfl, rfl, rfl⟩
      · rw [State.modCore_eq, State.setCore_core_ne _ _ _ _ hd, hpc d hd]
        exact ⟨rfl, rfl, rfl, rfl, rfl, rfl⟩
    · intro d hd
      rw [hcore, State.modCore_eq, State.setCore_core_ne _ _ _ _ hd, hpc d hd]
  · intro d hd
    rw [(t1.2 d).scratch, State.modCore_eq, State.setCore_core_ne _ _ _ _ hd, hpc d hd, (h1.2 d).scratch]

/-- A row that writes D with a function of its core past issue, its checks met. -/
theorem writes_reg (s : State) (c n op : Nat) (j : Job) (i : Ins) (g : State → Job → Ins → Core → W64) (v : W64)
    (hm : MayIssue s c n j i) (hl : controlLegal i = true) (ho : i.op = op) (hd : definedOp op = true)
    (hv : ∀ u, Signals s u → (u.core c).flags = flagsWaited i.wait (s.core c).flags →
      g (u.modCore c fun k => k.pastIssue (u.pendAfter c i)) (waitJob (s.core c) j i.wait) i
        ((u.core c).pastIssue (u.pendAfter c i)) = v) :
    Issued s c i v (coreRow s c op (fun _ => controlLegal) (fun _ _ _ => Plan.plain) fun s _ j i sig =>
      doneAt ((s.core c).pc - 16) sig (s.modCore c fun k => k.setReg i.d (g s j i k)) c) := by
  rw [coreRow_issue s c op _ _ _ n j i hm.1 hm.2.1 ho hd hl rfl rfl rfl rfl rfl rfl hm.2.2.2.1 hm.2.2.1 hm.2.2.2.2.1
    hm.2.2.2.2.2.1]
  obtain ⟨u, h1, h3, h⟩ := core_change s c n j i (fun s _ j i sig =>
      doneAt ((s.core c).pc - 16) sig (s.modCore c fun k => k.setReg i.d (g s j i k)) c)
    (fun p k => k.setReg i.d (g p (waitJob (s.core c) j i.wait) i k)) (fun p => (p.core c).pc - 16) hm (fun _ _ => rfl)
    (by intro u k; unfold Core.setReg; split <;> exact ⟨rfl, rfl, rfl, rfl, rfl⟩)
  dsimp only at h
  obtain ⟨k1, k2, k3, k4, k5, k6⟩ := h
  have hpk : (u.modCore c fun k => k.pastIssue (u.pendAfter c i)).core c =
      (u.core c).pastIssue (u.pendAfter c i) := by rw [State.modCore_eq, State.setCore_core]
  have hg := hv u h1 h3
  rw [hpk] at k2 k3 k4 k5
  rw [hg] at k2 k3 k4 k5
  have f0 : ∀ (k : Core) (d : Nat) (x : W64), (k.setReg d x).flags = k.flags ∧ (k.setReg d x).pc = k.pc ∧
      (k.setReg d x).scratch = k.scratch := by
    intro k d x; unfold Core.setReg; split <;> exact ⟨rfl, rfl, rfl⟩
  have hc := h1.2 c
  refine ⟨?_, ?_, ?_, k1, ?_⟩
  · intro r
    have e : ((issueNow (s.fetchAt c j) c n j i fun s _ j i sig =>
        doneAt ((s.core c).pc - 16) sig (s.modCore c fun k => k.setReg i.d (g s j i k)) c).core c).reg r =
        (((u.core c).pastIssue (u.pendAfter c i)).setReg i.d v).reg r := by unfold Core.reg; rw [k3]
    rw [e, reg_setReg]
    split
    · rfl
    · show ((u.core c).pastIssue _).reg r = _
      unfold Core.reg Core.pastIssue
      dsimp only
      rw [hc.regs]
  · rw [k4, (f0 _ _ _).2.1]
    show (u.core c).pc + 16 = _
    rw [hc.pc]
  · rw [k2, (f0 _ _ _).1]
    show flagsSignalled i.signal (u.core c).flags = _
    rw [h3]
  · intro d
    by_cases hd' : d = c
    · subst hd'
      rw [k5, (f0 _ _ _).2.2]
      exact hc.scratch
    · exact k6 d hd'

theorem pastIssue_reg (k : Core) (pend : Tbl Nat) (r : Nat) : (k.pastIssue pend).reg r = k.reg r := rfl

/-- An ALU row gives D its function of A and of B or IMM (R143). -/
theorem alu_issued (s : State) (c n op : Nat) (j : Job) (i : Ins) (f : W64 → W64 → W64) (hm : MayIssue s c n j i)
    (hl : controlLegal i = true) (ho : i.op = op) (hd : definedOp op = true) :
    Issued s c i (f ((s.core c).reg i.a) (operandB s c i)) (alu s c op f) := by
  refine writes_reg s c n op j i (fun s _ i k => f (k.reg i.a) (s.opB c i)) _ hm hl ho hd ?_
  intro u hu _
  have hr : ∀ r, (u.core c).reg r = (s.core c).reg r := by intro r; unfold Core.reg; rw [(hu.2 c).regs]
  have hc : (u.modCore c fun k => k.pastIssue (u.pendAfter c i)).core c =
      (u.core c).pastIssue (u.pendAfter c i) := by rw [State.modCore_eq, State.setCore_core]
  unfold State.opB operandB
  rw [hc]
  simp only [pastIssue_reg, hr]
  rfl

end Sys2Proof.Machine
end

