-- ==== Sys2Proof/Laws/Frames.lean ====
section
/-! SUPPORT. Which parts of the state the shared operations of the Keeper leave as they were: each lemma says that whatever a
projection reads is unchanged, once the projection ignores the parts the operation may change. -/

namespace Sys2Proof.Machine

/-- Opening the trained ports changes ports alone (R500). -/
theorem openTrained_get {γ : Type} (s : State) (p : State → γ) (hp : ∀ u q, p { u with ports := q } = p u) :
    p (openTrained s) = p s := by
  unfold openTrained
  generalize List.range 48 = l
  induction l generalizing s with
  | nil => rfl
  | cons x r ih =>
    rw [List.foldl_cons, ih]
    unfold openPort
    split
    · exact hp _ _
    · rfl

end Sys2Proof.Machine
end

