-- ==== Sys2Proof/Laws/OnlyBase.lean ====
section
/-! SUPPORT. Which parts of the state an operation may change. `Only l s t` says that s and t agree on every part outside the
list l; each operation of the machine has one lemma `<operation>_only` that names its list, in the Only files beside this. -/

namespace Sys2Proof.Machine

/-- The numbers of one queue's commands are among those of another, in order. -/
abbrev SeqSub (a b : Queue) : Prop := (a.cmds.map fun c => c.seqNo).Sublist (b.cmds.map fun c => c.seqNo)

theorem SeqSub.refl (q : Queue) : SeqSub q q := List.Sublist.refl _

theorem modCmd_sub (q : Queue) (k : Nat) (f : Cmd → Cmd) (h : ∀ c, c.seqNo = k → (f c).seqNo = k) : SeqSub (q.modCmd k f) q := by
  have e : (q.modCmd k f).cmds.map (fun c => c.seqNo) = q.cmds.map fun c => c.seqNo := by
    unfold Queue.modCmd
    dsimp only
    rw [List.map_map]
    apply List.map_congr_left
    intro c _
    dsimp only [Function.comp]
    split
    · rename_i e; rw [h c e, e]
    · rfl
  unfold SeqSub
  rw [e]

theorem dropCmd_sub (q : Queue) (k : Nat) : SeqSub (q.dropCmd k) q := List.filter_sublist.map _

theorem filter_sub (q : Queue) (p : Cmd → Bool) : SeqSub { q with cmds := q.cmds.filter p } q := List.filter_sublist.map _

theorem stop_sub (q : Queue) (b : Bool) : SeqSub (q.stop b) q := by
  unfold Queue.stop
  split <;> exact SeqSub.refl _

theorem reopen_sub (q : Queue) : SeqSub q.reopen q := by
  unfold Queue.reopen
  split <;> exact SeqSub.refl _

theorem waitOver_sub (q : Queue) : SeqSub q.waitOver q := by
  unfold Queue.waitOver
  split <;> exact SeqSub.refl _

theorem drained_sub (q b : Queue) (h : SeqSub q b) : SeqSub q.drained b := by
  unfold Queue.drained
  split <;> exact h

theorem rung_sub (q b : Queue) (h : SeqSub q b) : SeqSub q.rung b := by
  unfold Queue.rung
  split <;> exact h

theorem mapCmds_sub (q : Queue) (f : Cmd → Cmd) (h : ∀ c, (f c).seqNo = c.seqNo) : SeqSub { q with cmds := q.cmds.map f } q := by
  unfold SeqSub
  dsimp only
  rw [List.map_map]
  rw [show ((fun c : Cmd => c.seqNo) ∘ f) = fun c => c.seqNo from funext h]

theorem abandon_sub (q : Queue) (s : State) (gone : BitVec 17 → Bool) : SeqSub (q.abandonWaits s gone) q := by
  refine mapCmds_sub q _ (fun c => ?_)
  unfold Cmd.abandonWait
  split
  · split <;> rfl
  · rfl

theorem waitTick_sub (s : State) (q : Queue) : SeqSub (s.waitTick q) q := by
  unfold State.waitTick
  split <;> exact SeqSub.refl _

theorem innerDone_sub (q : Queue) (c o : Cmd) (k : Nat) :
    SeqSub ((if c.code = 0#16 then q else q.modCmd o.seqNo fun o => o.innerFailed k c.code c.detail).dropCmd c.seqNo) q := by
  refine (dropCmd_sub _ _).trans ?_
  split
  · exact SeqSub.refl _
  · refine modCmd_sub _ _ _ (fun o h => ?_)
    unfold Cmd.innerFailed
    split <;> exact h

theorem squash_sub (q : Queue) : SeqSub { q with cmds := squashCmds q.cmds } q := by
  unfold SeqSub squashCmds
  dsimp only
  rw [List.map_append, List.map_map]
  have e : (fun c : Cmd => c.seqNo) ∘ Cmd.doom = fun c => c.seqNo := by
    funext c
    unfold Cmd.doom Function.comp
    dsimp only
    split <;> rfl
  rw [e]
  conv_rhs => rw [← List.takeWhile_append_dropWhile (p := fun c : Cmd => !c.unstarted) (l := q.cmds), List.map_append]
  exact (List.Sublist.refl _).append (List.filter_sublist.map _)

theorem enable_sub (q : Queue) : SeqSub { q.reopen with cmds := q.cmds.map Cmd.takeMet } q :=
  mapCmds_sub q _ fun c => by unfold Cmd.takeMet; split <;> rfl

theorem mapQueues_sub (t : Tbl Queue) (f : Nat × Queue → Queue) (n : Nat) (h : ∀ q, SeqSub (f q) q.2) :
    SeqSub (tget Queue.reset (t.map fun q => (q.1, f q)) n) (tget Queue.reset t n) := by
  induction t with
  | nil => exact SeqSub.refl _
  | cons x r ih =>
    obtain ⟨a, q⟩ := x
    simp only [List.map_cons, tget]
    split
    · exact h (a, q)
    · exact ih

theorem arriveHeld_sub (qs : Tbl Queue) (n : Nat) (round : W32) (m : Nat) :
    SeqSub (tget Queue.reset (arriveHeld qs n round).2 m) (tget Queue.reset qs m) :=
  mapQueues_sub _ _ _ (fun _ => mapCmds_sub _ _ (fun c => by dsimp only; split <;> rfl))

theorem numbered_of {s t : State} (h : ∀ n, SeqSub (t.queue n) (s.queue n)) (e : t.rg.cmdSeq = s.rg.cmdSeq) (g : Numbered s) :
    Numbered t := by
  refine ⟨fun n => (h n).nodup (g.1 n), fun n c hc => ?_⟩
  obtain ⟨d, hd, k⟩ := List.mem_map.1 ((h n).subset (List.mem_map.2 ⟨c, hc, rfl⟩))
  rw [e, ← k]
  exact g.2 n d hd

theorem Field.same_refl (s : State) (f : Field) : f.same s s := by
  cases f <;> first | exact Eq.refl _ | exact ⟨Eq.refl _, Eq.refl _, Eq.refl _⟩ | exact fun h => h | exact fun _ => rfl

theorem Field.same_trans {s t u : State} (f : Field) (h : f.same s t) (g : f.same t u) : f.same s u := by
  cases f <;> first | exact Eq.trans g h | exact FrKept.trans h g | exact ObsKept.trans h g | exact fun w => g (h w) |
    exact fun w => (g (by rw [h w]; exact w)).trans (h w) |
    exact ⟨g.1.trans h.1, g.2.1.trans h.2.1, g.2.2.trans h.2.2⟩

theorem Only.refl (l : List Field) (s : State) : Only l s s := fun f _ => f.same_refl s

theorem Only.trans {l : List Field} {s t u : State} (h : Only l s t) (g : Only l t u) : Only l s u :=
  fun f hf => f.same_trans (h f hf) (g f hf)

/-- A step that changes parts of m, after steps that change parts of l, with m within l. -/
theorem Only.step {l m : List Field} {s x t : State} (g : Only m x t) (hm : (m.all fun f => decide (f ∈ l)) = true)
    (h : Only l s x) : Only l s t :=
  fun f hf => f.same_trans (h f hf) (g f fun hg => hf (of_decide_eq_true (List.all_eq_true.1 hm f hg)))

theorem Only.ite {l : List Field} {s a b : State} {c : Prop} [Decidable c] (ha : Only l s a) (hb : Only l s b) :
    Only l s (if c then a else b) := by
  split
  · exact ha
  · exact hb

theorem Only.foldl {α : Type} {l : List Field} {s x : State} {f : State → α → State} {xs : List α}
    (hf : ∀ s a, Only l s (f s a)) (h : Only l s x) : Only l s (xs.foldl f x) := by
  induction xs generalizing x with
  | nil => exact h
  | cons a r ih => exact ih (h.trans (hf x a))

/-! Operations that answer more than a state. -/

/-- The state of a next answer differs only in the listed parts. -/
def NextOnly (l : List Field) (s : State) (o : Host.Outcome State Fault Refusal) : Prop := ∀ t, o = .next t → Only l s t

theorem NextOnly.next {l : List Field} {s t : State} (h : Only l s t) : NextOnly l s (.next t) := by
  intro u e
  cases e
  exact h

theorem NextOnly.fault {l : List Field} {s : State} (f : Fault) : NextOnly l s (.fault f) := by
  intro u e
  cases e

theorem NextOnly.ite {l : List Field} {s : State} {a b : Host.Outcome State Fault Refusal} {c : Prop} [Decidable c]
    (ha : NextOnly l s a) (hb : NextOnly l s b) : NextOnly l s (if c then a else b) := by
  split
  · exact ha
  · exact hb

theorem NextOnly.step {l m : List Field} {s x : State} {o : Host.Outcome State Fault Refusal} (g : NextOnly m x o)
    (hm : (m.all fun f => decide (f ∈ l)) = true) (h : Only l s x) : NextOnly l s o :=
  fun t e => Only.step (g t e) hm h

/-- The state a pair begins with. -/
abbrev FstOnly {α : Type} (l : List Field) (s : State) (p : State × α) : Prop := Only l s p.1

theorem FstOnly.mk {α : Type} {l : List Field} {s t : State} {a : α} (h : Only l s t) : FstOnly l s (t, a) := h

theorem FstOnly.ite {α : Type} {l : List Field} {s : State} {a b : State × α} {c : Prop} [Decidable c] (ha : FstOnly l s a)
    (hb : FstOnly l s b) : FstOnly l s (if c then a else b) := by
  split
  · exact ha
  · exact hb

theorem FstOnly.step {α : Type} {l m : List Field} {s x : State} {p : State × α} (g : FstOnly m x p)
    (hm : (m.all fun f => decide (f ∈ l)) = true) (h : Only l s x) : FstOnly l s p := Only.step g hm h

/-- The state a pair ends with. -/
abbrev SndOnly {α : Type} (l : List Field) (s : State) (p : α × State) : Prop := Only l s p.2

theorem SndOnly.mk {α : Type} {l : List Field} {s t : State} {a : α} (h : Only l s t) : SndOnly l s (a, t) := h

/-- The state of a received frame's outcome. -/
def RxOnly (l : List Field) (s : State) : Rx → Prop
  | .gone t => Only l s t
  | .taken t => Only l s t

theorem RxOnly.gone {l : List Field} {s t : State} (h : Only l s t) : RxOnly l s (.gone t) := h

theorem RxOnly.taken {l : List Field} {s t : State} (h : Only l s t) : RxOnly l s (.taken t) := h

theorem RxOnly.of_gone {l : List Field} {s t : State} {r : Rx} (h : RxOnly l s r) (e : r = .gone t) : Only l s t := by
  subst e
  exact h

theorem RxOnly.of_taken {l : List Field} {s t : State} {r : Rx} (h : RxOnly l s r) (e : r = .taken t) : Only l s t := by
  subst e
  exact h

theorem RxOnly.ite {l : List Field} {s : State} {a b : Rx} {c : Prop} [Decidable c] (ha : RxOnly l s a) (hb : RxOnly l s b) :
    RxOnly l s (if c then a else b) := by
  split
  · exact ha
  · exact hb

theorem RxOnly.step {l m : List Field} {s x : State} {r : Rx} (g : RxOnly m x r)
    (hm : (m.all fun f => decide (f ∈ l)) = true) (h : Only l s x) : RxOnly l s r := by
  cases r with
  | gone t => exact Only.step (show Only m x t from g) hm h
  | taken t => exact Only.step (show Only m x t from g) hm h

/-- The state of an access that the port ignores. -/
def AccessOnly (l : List Field) (s : State) : Access → Prop
  | .ignored t => Only l s t
  | .granted => True

theorem AccessOnly.ignored {l : List Field} {s t : State} (h : Only l s t) : AccessOnly l s (.ignored t) := h

theorem AccessOnly.granted {l : List Field} {s : State} : AccessOnly l s .granted := True.intro

theorem AccessOnly.of_ignored {l : List Field} {s t : State} {r : Access} (h : AccessOnly l s r) (e : r = .ignored t) :
    Only l s t := by
  subst e
  exact h

theorem AccessOnly.ite {l : List Field} {s : State} {a b : Access} {c : Prop} [Decidable c] (ha : AccessOnly l s a)
    (hb : AccessOnly l s b) : AccessOnly l s (if c then a else b) := by
  split
  · exact ha
  · exact hb

/-- A report leaves the configuration of the reporting units alone. -/
theorem Only.sharpen {l : List Field} {s t : State} (h : Only (l ++ [.frCfg, .chimeCfg, .obsCfg]) s t) (r : Reports s t) :
    Only l s t := by
  obtain ⟨c, o, f, n, rfl, ho, hf, hc⟩ := r
  intro x hx
  cases x <;> first | exact hf | exact hc | exact ho | exact fun _ => rfl | exact h _ (by simpa using hx)

theorem setQueue_numbered (s : State) (n : Nat) (q : Queue) (h : SeqSub q (s.queue n)) (g : Numbered s) :
    Numbered (s.setQueue n q) := by
  refine numbered_of (s := s) (fun m => ?_) rfl g
  by_cases e : m = n
  · subst e
    rw [State.setQueue_queue]
    exact h
  · rw [State.setQueue_queue_ne _ _ _ _ e]

/-- Setting a queue whose commands are among those it had. -/
theorem Only.setQ {l : List Field} {s x : State} {n : Nat} {q : Queue}
    (m : (([.queues] : List Field).all fun f => decide (f ∈ l)) = true) (hq : SeqSub q (x.queue n)) (h : Only l s x) :
    Only l s (x.setQueue n q) :=
  Only.step (m := [.queues]) (fun f hf => by
    cases f <;> first | exact Eq.refl _ | exact ⟨Eq.refl _, Eq.refl _, Eq.refl _⟩ | exact fun h => h | exact fun _ => rfl |
      exact absurd (by decide) hf | exact setQueue_numbered x n q hq) m h

/-- Changing a queue whose commands are among those it had. -/
theorem Only.modQ {l : List Field} {s x : State} {n : Nat} {f : Queue → Queue}
    (m : (([.queues] : List Field).all fun f => decide (f ∈ l)) = true) (hq : ∀ q, SeqSub (f q) q) (h : Only l s x) :
    Only l s (x.modQueue n f) := Only.setQ m (hq _) h

/-! Updates of the state's own fields. -/

theorem Only.set_au {l : List Field} {s x : State} {v0 : Au}
    (m : (([.au, .auIdle] : List Field).all fun f => decide (f ∈ l)) = true) (h : Only l s x) :
    Only l s { x with au := v0 } :=
  Only.step (m := [.au, .auIdle]) (fun f hf => by
    cases f <;> first | exact Eq.refl _ | exact ⟨Eq.refl _, Eq.refl _, Eq.refl _⟩ | exact fun h => h | exact fun _ => rfl | exact absurd (by decide) hf) m h

theorem Only.set_basin {l : List Field} {s x : State} {v0 : Tbl BasinCopy}
    (m : (([.basin] : List Field).all fun f => decide (f ∈ l)) = true) (h : Only l s x) :
    Only l s { x with basin := v0 } :=
  Only.step (m := [.basin]) (fun f hf => by
    cases f <;> first | exact Eq.refl _ | exact ⟨Eq.refl _, Eq.refl _, Eq.refl _⟩ | exact fun h => h | exact fun _ => rfl | exact absurd (by decide) hf) m h

theorem Only.set_boot {l : List Field} {s x : State} {v0 : Boot}
    (m : (([.boot] : List Field).all fun f => decide (f ∈ l)) = true) (h : Only l s x) :
    Only l s { x with boot := v0 } :=
  Only.step (m := [.boot]) (fun f hf => by
    cases f <;> first | exact Eq.refl _ | exact ⟨Eq.refl _, Eq.refl _, Eq.refl _⟩ | exact fun h => h | exact fun _ => rfl | exact absurd (by decide) hf) m h

theorem Only.set_chime {l : List Field} {s x : State} {v0 : Chime}
    (m : (([.chime, .chimeCfg] : List Field).all fun f => decide (f ∈ l)) = true) (h : Only l s x) :
    Only l s { x with chime := v0 } :=
  Only.step (m := [.chime, .chimeCfg]) (fun f hf => by
    cases f <;> first | exact Eq.refl _ | exact ⟨Eq.refl _, Eq.refl _, Eq.refl _⟩ | exact fun h => h | exact fun _ => rfl | exact absurd (by decide) hf) m h

theorem Only.set_cores {l : List Field} {s x : State} {v0 : Tbl Core}
    (m : (([.cores] : List Field).all fun f => decide (f ∈ l)) = true) (h : Only l s x) :
    Only l s { x with cores := v0 } :=
  Only.step (m := [.cores]) (fun f hf => by
    cases f <;> first | exact Eq.refl _ | exact ⟨Eq.refl _, Eq.refl _, Eq.refl _⟩ | exact fun h => h | exact fun _ => rfl | exact absurd (by decide) hf) m h

theorem Only.set_counters {l : List Field} {s x : State} {v0 : Tbl Counter}
    (m : (([.counters] : List Field).all fun f => decide (f ∈ l)) = true) (h : Only l s x) :
    Only l s { x with counters := v0 } :=
  Only.step (m := [.counters]) (fun f hf => by
    cases f <;> first | exact Eq.refl _ | exact ⟨Eq.refl _, Eq.refl _, Eq.refl _⟩ | exact fun h => h | exact fun _ => rfl | exact absurd (by decide) hf) m h

theorem Only.set_ctxs {l : List Field} {s x : State} {v0 : Tbl Ctx}
    (m : (([.ctxs] : List Field).all fun f => decide (f ∈ l)) = true) (h : Only l s x) :
    Only l s { x with ctxs := v0 } :=
  Only.step (m := [.ctxs]) (fun f hf => by
    cases f <;> first | exact Eq.refl _ | exact ⟨Eq.refl _, Eq.refl _, Eq.refl _⟩ | exact fun h => h | exact fun _ => rfl | exact absurd (by decide) hf) m h

theorem Only.set_esc {l : List Field} {s x : State} {v0 : Esc}
    (m : (([.esc] : List Field).all fun f => decide (f ∈ l)) = true) (h : Only l s x) :
    Only l s { x with esc := v0 } :=
  Only.step (m := [.esc]) (fun f hf => by
    cases f <;> first | exact Eq.refl _ | exact ⟨Eq.refl _, Eq.refl _, Eq.refl _⟩ | exact fun h => h | exact fun _ => rfl | exact absurd (by decide) hf) m h

theorem Only.set_flights {l : List Field} {s x : State} {v0 : Tbl Flight}
    (m : (([.flights] : List Field).all fun f => decide (f ∈ l)) = true) (h : Only l s x) :
    Only l s { x with flights := v0 } :=
  Only.step (m := [.flights]) (fun f hf => by
    cases f <;> first | exact Eq.refl _ | exact ⟨Eq.refl _, Eq.refl _, Eq.refl _⟩ | exact fun h => h | exact fun _ => rfl | exact absurd (by decide) hf) m h

theorem Only.set_fr {l : List Field} {s x : State} {v0 : Fr}
    (m : (([.fr, .frCfg] : List Field).all fun f => decide (f ∈ l)) = true) (h : Only l s x) :
    Only l s { x with fr := v0 } :=
  Only.step (m := [.fr, .frCfg]) (fun f hf => by
    cases f <;> first | exact Eq.refl _ | exact ⟨Eq.refl _, Eq.refl _, Eq.refl _⟩ | exact fun h => h | exact fun _ => rfl | exact absurd (by decide) hf) m h

theorem Only.set_freeCount {l : List Field} {s x : State} {v0 : Nat}
    (m : (([.freeCount] : List Field).all fun f => decide (f ∈ l)) = true) (h : Only l s x) :
    Only l s { x with freeCount := v0 } :=
  Only.step (m := [.freeCount]) (fun f hf => by
    cases f <;> first | exact Eq.refl _ | exact ⟨Eq.refl _, Eq.refl _, Eq.refl _⟩ | exact fun h => h | exact fun _ => rfl | exact absurd (by decide) hf) m h

theorem Only.set_fuse {l : List Field} {s x : State} {v0 : Fuses}
    (m : (([.fuse] : List Field).all fun f => decide (f ∈ l)) = true) (h : Only l s x) :
    Only l s { x with fuse := v0 } :=
  Only.step (m := [.fuse]) (fun f hf => by
    cases f <;> first | exact Eq.refl _ | exact ⟨Eq.refl _, Eq.refl _, Eq.refl _⟩ | exact fun h => h | exact fun _ => rfl | exact absurd (by decide) hf) m h

theorem Only.set_gens {l : List Field} {s x : State} {v0 : Tbl Gen}
    (m : (([.gens] : List Field).all fun f => decide (f ∈ l)) = true) (h : Only l s x) :
    Only l s { x with gens := v0 } :=
  Only.step (m := [.gens]) (fun f hf => by
    cases f <;> first | exact Eq.refl _ | exact ⟨Eq.refl _, Eq.refl _, Eq.refl _⟩ | exact fun h => h | exact fun _ => rfl | exact absurd (by decide) hf) m h

theorem Only.set_insts {l : List Field} {s x : State} {v0 : Tbl Inst}
    (m : (([.insts] : List Field).all fun f => decide (f ∈ l)) = true) (h : Only l s x) :
    Only l s { x with insts := v0 } :=
  Only.step (m := [.insts]) (fun f hf => by
    cases f <;> first | exact Eq.refl _ | exact ⟨Eq.refl _, Eq.refl _, Eq.refl _⟩ | exact fun h => h | exact fun _ => rfl | exact absurd (by decide) hf) m h

theorem Only.set_jobs {l : List Field} {s x : State} {v0 : Tbl Job}
    (m : (([.jobs] : List Field).all fun f => decide (f ∈ l)) = true) (h : Only l s x) :
    Only l s { x with jobs := v0 } :=
  Only.step (m := [.jobs]) (fun f hf => by
    cases f <;> first | exact Eq.refl _ | exact ⟨Eq.refl _, Eq.refl _, Eq.refl _⟩ | exact fun h => h | exact fun _ => rfl | exact absurd (by decide) hf) m h

theorem Only.set_kp {l : List Field} {s x : State} {v0 : Keeper}
    (m : (([.kp] : List Field).all fun f => decide (f ∈ l)) = true) (h : Only l s x) :
    Only l s { x with kp := v0 } :=
  Only.step (m := [.kp]) (fun f hf => by
    cases f <;> first | exact Eq.refl _ | exact ⟨Eq.refl _, Eq.refl _, Eq.refl _⟩ | exact fun h => h | exact fun _ => rfl | exact absurd (by decide) hf) m h

theorem Only.set_links {l : List Field} {s x : State} {v0 : Tbl Link}
    (m : (([.links] : List Field).all fun f => decide (f ∈ l)) = true) (h : Only l s x) :
    Only l s { x with links := v0 } :=
  Only.step (m := [.links]) (fun f hf => by
    cases f <;> first | exact Eq.refl _ | exact ⟨Eq.refl _, Eq.refl _, Eq.refl _⟩ | exact fun h => h | exact fun _ => rfl | exact absurd (by decide) hf) m h

theorem Only.set_nextJob {l : List Field} {s x : State} {v0 : Nat}
    (m : (([.nextJob] : List Field).all fun f => decide (f ∈ l)) = true) (h : Only l s x) :
    Only l s { x with nextJob := v0 } :=
  Only.step (m := [.nextJob]) (fun f hf => by
    cases f <;> first | exact Eq.refl _ | exact ⟨Eq.refl _, Eq.refl _, Eq.refl _⟩ | exact fun h => h | exact fun _ => rfl | exact absurd (by decide) hf) m h

theorem Only.set_objs {l : List Field} {s x : State} {v0 : Tbl Obj}
    (m : (([.objs] : List Field).all fun f => decide (f ∈ l)) = true) (h : Only l s x) :
    Only l s { x with objs := v0 } :=
  Only.step (m := [.objs]) (fun f hf => by
    cases f <;> first | exact Eq.refl _ | exact ⟨Eq.refl _, Eq.refl _, Eq.refl _⟩ | exact fun h => h | exact fun _ => rfl | exact absurd (by decide) hf) m h

theorem Only.set_obs {l : List Field} {s x : State} {v0 : Obs}
    (m : (([.obs, .obsCfg] : List Field).all fun f => decide (f ∈ l)) = true) (h : Only l s x) :
    Only l s { x with obs := v0 } :=
  Only.step (m := [.obs, .obsCfg]) (fun f hf => by
    cases f <;> first | exact Eq.refl _ | exact ⟨Eq.refl _, Eq.refl _, Eq.refl _⟩ | exact fun h => h | exact fun _ => rfl | exact absurd (by decide) hf) m h

theorem Only.set_poison {l : List Field} {s x : State} {v0 : List Nat}
    (m : (([.poison] : List Field).all fun f => decide (f ∈ l)) = true) (h : Only l s x) :
    Only l s { x with poison := v0 } :=
  Only.step (m := [.poison]) (fun f hf => by
    cases f <;> first | exact Eq.refl _ | exact ⟨Eq.refl _, Eq.refl _, Eq.refl _⟩ | exact fun h => h | exact fun _ => rfl | exact absurd (by decide) hf) m h

theorem Only.set_pool {l : List Field} {s x : State} {v0 : Tbl (Nat × BasinCopy)}
    (m : (([.pool] : List Field).all fun f => decide (f ∈ l)) = true) (h : Only l s x) :
    Only l s { x with pool := v0 } :=
  Only.step (m := [.pool]) (fun f hf => by
    cases f <;> first | exact Eq.refl _ | exact ⟨Eq.refl _, Eq.refl _, Eq.refl _⟩ | exact fun h => h | exact fun _ => rfl | exact absurd (by decide) hf) m h

theorem Only.set_ports {l : List Field} {s x : State} {v0 : Tbl Port}
    (m : (([.ports] : List Field).all fun f => decide (f ∈ l)) = true) (h : Only l s x) :
    Only l s { x with ports := v0 } :=
  Only.step (m := [.ports]) (fun f hf => by
    cases f <;> first | exact Eq.refl _ | exact ⟨Eq.refl _, Eq.refl _, Eq.refl _⟩ | exact fun h => h | exact fun _ => rfl | exact absurd (by decide) hf) m h

theorem Only.set_queues {l : List Field} {s x : State} {v0 : Tbl Queue}
    (m : (([.queues] : List Field).all fun f => decide (f ∈ l)) = true) (hq : ∀ q, SeqSub (tget Queue.reset v0 q) (x.queue q)) (h : Only l s x) :
    Only l s { x with queues := v0 } :=
  Only.step (m := [.queues]) (fun f hf => by
    cases f <;> first | exact Eq.refl _ | exact ⟨Eq.refl _, Eq.refl _, Eq.refl _⟩ | exact fun h => h | exact fun _ => rfl | exact absurd (by decide) hf | exact fun g => numbered_of (s := x) hq (by rfl) g) m h

theorem Only.set_rg {l : List Field} {s x : State} {v0 : Rg}
    (m : (([.rg] : List Field).all fun f => decide (f ∈ l)) = true) (hr : v0.cmdSeq = x.rg.cmdSeq) (h : Only l s x) :
    Only l s { x with rg := v0 } :=
  Only.step (m := [.rg]) (fun f hf => by
    cases f <;> first | exact Eq.refl _ | exact ⟨Eq.refl _, Eq.refl _, Eq.refl _⟩ | exact fun h => h | exact fun _ => rfl | exact absurd (by decide) hf | exact fun g => numbered_of (s := x) (fun _ => SeqSub.refl _) (by exact hr) g) m h

theorem Only.set_rgParts {l : List Field} {s x : State} {v0 : Tbl RgPart}
    (m : (([.rgParts] : List Field).all fun f => decide (f ∈ l)) = true) (h : Only l s x) :
    Only l s { x with rgParts := v0 } :=
  Only.step (m := [.rgParts]) (fun f hf => by
    cases f <;> first | exact Eq.refl _ | exact ⟨Eq.refl _, Eq.refl _, Eq.refl _⟩ | exact fun h => h | exact fun _ => rfl | exact absurd (by decide) hf) m h

theorem Only.set_run {l : List Field} {s x : State} {v0 : Option Running}
    (m : (([.run] : List Field).all fun f => decide (f ∈ l)) = true) (h : Only l s x) :
    Only l s { x with run := v0 } :=
  Only.step (m := [.run]) (fun f hf => by
    cases f <;> first | exact Eq.refl _ | exact ⟨Eq.refl _, Eq.refl _, Eq.refl _⟩ | exact fun h => h | exact fun _ => rfl | exact absurd (by decide) hf) m h

theorem Only.set_sec {l : List Field} {s x : State} {v0 : Sec}
    (m : (([.sec] : List Field).all fun f => decide (f ∈ l)) = true) (h : Only l s x) :
    Only l s { x with sec := v0 } :=
  Only.step (m := [.sec]) (fun f hf => by
    cases f <;> first | exact Eq.refl _ | exact ⟨Eq.refl _, Eq.refl _, Eq.refl _⟩ | exact fun h => h | exact fun _ => rfl | exact absurd (by decide) hf) m h

theorem Only.set_shares {l : List Field} {s x : State} {v0 : Tbl Share}
    (m : (([.shares] : List Field).all fun f => decide (f ∈ l)) = true) (h : Only l s x) :
    Only l s { x with shares := v0 } :=
  Only.step (m := [.shares]) (fun f hf => by
    cases f <;> first | exact Eq.refl _ | exact ⟨Eq.refl _, Eq.refl _, Eq.refl _⟩ | exact fun h => h | exact fun _ => rfl | exact absurd (by decide) hf) m h

theorem Only.set_sy {l : List Field} {s x : State} {v0 : Sy}
    (m : (([.sy] : List Field).all fun f => decide (f ∈ l)) = true) (h : Only l s x) :
    Only l s { x with sy := v0 } :=
  Only.step (m := [.sy]) (fun f hf => by
    cases f <;> first | exact Eq.refl _ | exact ⟨Eq.refl _, Eq.refl _, Eq.refl _⟩ | exact fun h => h | exact fun _ => rfl | exact absurd (by decide) hf) m h

theorem Only.set_tap {l : List Field} {s x : State} {v0 : Tap}
    (m : (([.tap] : List Field).all fun f => decide (f ∈ l)) = true) (h : Only l s x) :
    Only l s { x with tap := v0 } :=
  Only.step (m := [.tap]) (fun f hf => by
    cases f <;> first | exact Eq.refl _ | exact ⟨Eq.refl _, Eq.refl _, Eq.refl _⟩ | exact fun h => h | exact fun _ => rfl | exact absurd (by decide) hf) m h

theorem Only.set_tw {l : List Field} {s x : State} {v0 : Tw}
    (m : (([.tw] : List Field).all fun f => decide (f ∈ l)) = true) (h : Only l s x) :
    Only l s { x with tw := v0 } :=
  Only.step (m := [.tw]) (fun f hf => by
    cases f <;> first | exact Eq.refl _ | exact ⟨Eq.refl _, Eq.refl _, Eq.refl _⟩ | exact fun h => h | exact fun _ => rfl | exact absurd (by decide) hf) m h

theorem Only.set_updates {l : List Field} {s x : State} {v0 : Tbl (List Update)}
    (m : (([.updates] : List Field).all fun f => decide (f ∈ l)) = true) (h : Only l s x) :
    Only l s { x with updates := v0 } :=
  Only.step (m := [.updates]) (fun f hf => by
    cases f <;> first | exact Eq.refl _ | exact ⟨Eq.refl _, Eq.refl _, Eq.refl _⟩ | exact fun h => h | exact fun _ => rfl | exact absurd (by decide) hf) m h

theorem Only.set_writes {l : List Field} {s x : State} {v0 : List WriteReq}
    (m : (([.writes] : List Field).all fun f => decide (f ∈ l)) = true) (h : Only l s x) :
    Only l s { x with writes := v0 } :=
  Only.step (m := [.writes]) (fun f hf => by
    cases f <;> first | exact Eq.refl _ | exact ⟨Eq.refl _, Eq.refl _, Eq.refl _⟩ | exact fun h => h | exact fun _ => rfl | exact absurd (by decide) hf) m h

theorem Only.set_au_obs {l : List Field} {s x : State} {v0 : Au} {v1 : Obs}
    (m : (([.au, .obs, .obsCfg, .auIdle] : List Field).all fun f => decide (f ∈ l)) = true) (h : Only l s x) :
    Only l s { x with au := v0, obs := v1 } :=
  Only.step (m := [.au, .obs, .obsCfg, .auIdle]) (fun f hf => by
    cases f <;> first | exact Eq.refl _ | exact ⟨Eq.refl _, Eq.refl _, Eq.refl _⟩ | exact fun h => h | exact fun _ => rfl | exact absurd (by decide) hf) m h

theorem Only.set_boot_chime {l : List Field} {s x : State} {v0 : Boot} {v1 : Chime}
    (m : (([.boot, .chime, .chimeCfg] : List Field).all fun f => decide (f ∈ l)) = true) (h : Only l s x) :
    Only l s { x with boot := v0, chime := v1 } :=
  Only.step (m := [.boot, .chime, .chimeCfg]) (fun f hf => by
    cases f <;> first | exact Eq.refl _ | exact ⟨Eq.refl _, Eq.refl _, Eq.refl _⟩ | exact fun h => h | exact fun _ => rfl | exact absurd (by decide) hf) m h

theorem Only.set_boot_fr {l : List Field} {s x : State} {v0 : Boot} {v1 : Fr}
    (m : (([.boot, .fr, .frCfg] : List Field).all fun f => decide (f ∈ l)) = true) (h : Only l s x) :
    Only l s { x with boot := v0, fr := v1 } :=
  Only.step (m := [.boot, .fr, .frCfg]) (fun f hf => by
    cases f <;> first | exact Eq.refl _ | exact ⟨Eq.refl _, Eq.refl _, Eq.refl _⟩ | exact fun h => h | exact fun _ => rfl | exact absurd (by decide) hf) m h

theorem Only.set_boot_sec {l : List Field} {s x : State} {v0 : Boot} {v1 : Sec}
    (m : (([.boot, .sec] : List Field).all fun f => decide (f ∈ l)) = true) (h : Only l s x) :
    Only l s { x with boot := v0, sec := v1 } :=
  Only.step (m := [.boot, .sec]) (fun f hf => by
    cases f <;> first | exact Eq.refl _ | exact ⟨Eq.refl _, Eq.refl _, Eq.refl _⟩ | exact fun h => h | exact fun _ => rfl | exact absurd (by decide) hf) m h

theorem Only.set_esc_fr {l : List Field} {s x : State} {v0 : Esc} {v1 : Fr}
    (m : (([.esc, .fr, .frCfg] : List Field).all fun f => decide (f ∈ l)) = true) (h : Only l s x) :
    Only l s { x with esc := v0, fr := v1 } :=
  Only.step (m := [.esc, .fr, .frCfg]) (fun f hf => by
    cases f <;> first | exact Eq.refl _ | exact ⟨Eq.refl _, Eq.refl _, Eq.refl _⟩ | exact fun h => h | exact fun _ => rfl | exact absurd (by decide) hf) m h

theorem Only.set_frozen_esc {l : List Field} {s x : State} {v0 : Bool} {v1 : Esc}
    (m : (([.frozen, .esc] : List Field).all fun f => decide (f ∈ l)) = true) (h : Only l s x) :
    Only l s { x with frozen := v0, esc := v1 } :=
  Only.step (m := [.frozen, .esc]) (fun f hf => by
    cases f <;> first | exact Eq.refl _ | exact ⟨Eq.refl _, Eq.refl _, Eq.refl _⟩ | exact fun h => h | exact fun _ => rfl | exact absurd (by decide) hf) m h

theorem Only.set_insts_sec {l : List Field} {s x : State} {v0 : Tbl Inst} {v1 : Sec}
    (m : (([.insts, .sec] : List Field).all fun f => decide (f ∈ l)) = true) (h : Only l s x) :
    Only l s { x with insts := v0, sec := v1 } :=
  Only.step (m := [.insts, .sec]) (fun f hf => by
    cases f <;> first | exact Eq.refl _ | exact ⟨Eq.refl _, Eq.refl _, Eq.refl _⟩ | exact fun h => h | exact fun _ => rfl | exact absurd (by decide) hf) m h

theorem Only.set_kp_objs {l : List Field} {s x : State} {v0 : Keeper} {v1 : Tbl Obj}
    (m : (([.kp, .objs] : List Field).all fun f => decide (f ∈ l)) = true) (h : Only l s x) :
    Only l s { x with kp := v0, objs := v1 } :=
  Only.step (m := [.kp, .objs]) (fun f hf => by
    cases f <;> first | exact Eq.refl _ | exact ⟨Eq.refl _, Eq.refl _, Eq.refl _⟩ | exact fun h => h | exact fun _ => rfl | exact absurd (by decide) hf) m h

theorem Only.set_pool_insts {l : List Field} {s x : State} {v0 : Tbl (Nat × BasinCopy)} {v1 : Tbl Inst}
    (m : (([.pool, .insts] : List Field).all fun f => decide (f ∈ l)) = true) (h : Only l s x) :
    Only l s { x with pool := v0, insts := v1 } :=
  Only.step (m := [.pool, .insts]) (fun f hf => by
    cases f <;> first | exact Eq.refl _ | exact ⟨Eq.refl _, Eq.refl _, Eq.refl _⟩ | exact fun h => h | exact fun _ => rfl | exact absurd (by decide) hf) m h

theorem Only.set_sec_obs {l : List Field} {s x : State} {v0 : Sec} {v1 : Obs}
    (m : (([.sec, .obs, .obsCfg] : List Field).all fun f => decide (f ∈ l)) = true) (h : Only l s x) :
    Only l s { x with sec := v0, obs := v1 } :=
  Only.step (m := [.sec, .obs, .obsCfg]) (fun f hf => by
    cases f <;> first | exact Eq.refl _ | exact ⟨Eq.refl _, Eq.refl _, Eq.refl _⟩ | exact fun h => h | exact fun _ => rfl | exact absurd (by decide) hf) m h

theorem Only.set_tw_obs {l : List Field} {s x : State} {v0 : Tw} {v1 : Obs}
    (m : (([.tw, .obs, .obsCfg] : List Field).all fun f => decide (f ∈ l)) = true) (h : Only l s x) :
    Only l s { x with tw := v0, obs := v1 } :=
  Only.step (m := [.tw, .obs, .obsCfg]) (fun f hf => by
    cases f <;> first | exact Eq.refl _ | exact ⟨Eq.refl _, Eq.refl _, Eq.refl _⟩ | exact fun h => h | exact fun _ => rfl | exact absurd (by decide) hf) m h

theorem Only.set_basin_pool_cores {l : List Field} {s x : State} {v0 : Tbl BasinCopy} {v1 : Tbl (Nat × BasinCopy)} {v2 : Tbl Core}
    (m : (([.basin, .pool, .cores] : List Field).all fun f => decide (f ∈ l)) = true) (h : Only l s x) :
    Only l s { x with basin := v0, pool := v1, cores := v2 } :=
  Only.step (m := [.basin, .pool, .cores]) (fun f hf => by
    cases f <;> first | exact Eq.refl _ | exact ⟨Eq.refl _, Eq.refl _, Eq.refl _⟩ | exact fun h => h | exact fun _ => rfl | exact absurd (by decide) hf) m h

theorem Only.set_boot_fr_chime {l : List Field} {s x : State} {v0 : Boot} {v1 : Fr} {v2 : Chime}
    (m : (([.boot, .fr, .chime, .frCfg, .chimeCfg] : List Field).all fun f => decide (f ∈ l)) = true) (h : Only l s x) :
    Only l s { x with boot := v0, fr := v1, chime := v2 } :=
  Only.step (m := [.boot, .fr, .chime, .frCfg, .chimeCfg]) (fun f hf => by
    cases f <;> first | exact Eq.refl _ | exact ⟨Eq.refl _, Eq.refl _, Eq.refl _⟩ | exact fun h => h | exact fun _ => rfl | exact absurd (by decide) hf) m h

theorem Only.set_kp_gens_cores {l : List Field} {s x : State} {v0 : Keeper} {v1 : Tbl Gen} {v2 : Tbl Core}
    (m : (([.kp, .gens, .cores] : List Field).all fun f => decide (f ∈ l)) = true) (h : Only l s x) :
    Only l s { x with kp := v0, gens := v1, cores := v2 } :=
  Only.step (m := [.kp, .gens, .cores]) (fun f hf => by
    cases f <;> first | exact Eq.refl _ | exact ⟨Eq.refl _, Eq.refl _, Eq.refl _⟩ | exact fun h => h | exact fun _ => rfl | exact absurd (by decide) hf) m h

theorem Only.set_boot_basin_cores_chime {l : List Field} {s x : State} {v0 : Boot} {v1 : Tbl BasinCopy} {v2 : Tbl Core} {v3 : Chime}
    (m : (([.boot, .basin, .cores, .chime, .chimeCfg] : List Field).all fun f => decide (f ∈ l)) = true) (h : Only l s x) :
    Only l s { x with boot := v0, basin := v1, cores := v2, chime := v3 } :=
  Only.step (m := [.boot, .basin, .cores, .chime, .chimeCfg]) (fun f hf => by
    cases f <;> first | exact Eq.refl _ | exact ⟨Eq.refl _, Eq.refl _, Eq.refl _⟩ | exact fun h => h | exact fun _ => rfl | exact absurd (by decide) hf) m h

theorem Only.set_esc_run_basin_sec {l : List Field} {s x : State} {v0 : Esc} {v1 : Option Running} {v2 : Tbl BasinCopy} {v3 : Sec}
    (m : (([.esc, .run, .basin, .sec] : List Field).all fun f => decide (f ∈ l)) = true) (h : Only l s x) :
    Only l s { x with esc := v0, run := v1, basin := v2, sec := v3 } :=
  Only.step (m := [.esc, .run, .basin, .sec]) (fun f hf => by
    cases f <;> first | exact Eq.refl _ | exact ⟨Eq.refl _, Eq.refl _, Eq.refl _⟩ | exact fun h => h | exact fun _ => rfl | exact absurd (by decide) hf) m h

theorem Only.set_ports_esc_counters_fr {l : List Field} {s x : State} {v0 : Tbl Port} {v1 : Esc} {v2 : Tbl Counter} {v3 : Fr}
    (m : (([.ports, .esc, .counters, .fr, .frCfg] : List Field).all fun f => decide (f ∈ l)) = true) (h : Only l s x) :
    Only l s { x with ports := v0, esc := v1, counters := v2, fr := v3 } :=
  Only.step (m := [.ports, .esc, .counters, .fr, .frCfg]) (fun f hf => by
    cases f <;> first | exact Eq.refl _ | exact ⟨Eq.refl _, Eq.refl _, Eq.refl _⟩ | exact fun h => h | exact fun _ => rfl | exact absurd (by decide) hf) m h

theorem Only.set_queues_sec_fr_obs {l : List Field} {s x : State} {v0 : Tbl Queue} {v1 : Sec} {v2 : Fr} {v3 : Obs}
    (m : (([.queues, .sec, .fr, .obs, .frCfg, .obsCfg] : List Field).all fun f => decide (f ∈ l)) = true) (hq : ∀ q, SeqSub (tget Queue.reset v0 q) (x.queue q)) (h : Only l s x) :
    Only l s { x with queues := v0, sec := v1, fr := v2, obs := v3 } :=
  Only.step (m := [.queues, .sec, .fr, .obs, .frCfg, .obsCfg]) (fun f hf => by
    cases f <;> first | exact Eq.refl _ | exact ⟨Eq.refl _, Eq.refl _, Eq.refl _⟩ | exact fun h => h | exact fun _ => rfl | exact absurd (by decide) hf | exact fun g => numbered_of (s := x) hq (by rfl) g) m h

theorem Only.set_boot_basin_cores_sec_fr_tap {l : List Field} {s x : State} {v0 : Boot} {v1 : Tbl BasinCopy} {v2 : Tbl Core} {v3 : Sec} {v4 : Fr} {v5 : Tap}
    (m : (([.boot, .basin, .cores, .sec, .fr, .tap, .frCfg] : List Field).all fun f => decide (f ∈ l)) = true) (h : Only l s x) :
    Only l s { x with boot := v0, basin := v1, cores := v2, sec := v3, fr := v4, tap := v5 } :=
  Only.step (m := [.boot, .basin, .cores, .sec, .fr, .tap, .frCfg]) (fun f hf => by
    cases f <;> first | exact Eq.refl _ | exact ⟨Eq.refl _, Eq.refl _, Eq.refl _⟩ | exact fun h => h | exact fun _ => rfl | exact absurd (by decide) hf) m h

end Sys2Proof.Machine
end

