-- ==== Sys2Proof/Laws/OnlyShared.lean ====
section
/-! SUPPORT. Which parts of the state an operation may change, for the shared operations: tables, trace, Chime, error
records, memory, kills, sync counters, queues and the tamper alarm. -/

namespace Sys2Proof.Machine

/-- What `State.drawDigest` may change. -/
def drawDigestParts : List Field := [.freeCount]

theorem State.drawDigest_only (s : State) : SndOnly drawDigestParts s (s.drawDigest) := by
  unfold State.drawDigest
  with_reducible refine SndOnly.mk ?_
  with_reducible refine Only.set_freeCount (by decide) ?_
  exact Only.refl _ _

theorem State.drawWord_only (s : State) : SndOnly drawDigestParts s (s.drawWord) := by
  unfold State.drawWord
  with_reducible refine SndOnly.mk ?_
  with_reducible refine Only.set_freeCount (by decide) ?_
  exact Only.refl _ _

theorem State.drawWords_only (s : State) (n : Nat) : SndOnly drawDigestParts s (s.drawWords n) := by
  unfold State.drawWords
  with_reducible refine SndOnly.mk ?_
  with_reducible refine Only.set_freeCount (by decide) ?_
  exact Only.refl _ _

/-- What `State.dropJob` may change. -/
def dropJobParts : List Field := [.jobs]

theorem State.dropJob_only (s : State) (n : Nat) : Only dropJobParts s (s.dropJob n) := by
  unfold State.dropJob
  with_reducible refine Only.set_jobs (by decide) ?_
  exact Only.refl _ _

/-- What `State.setCore` may change. -/
def setCoreParts : List Field := [.cores]

theorem State.setCore_only (s : State) (n : Nat) (k : Core) : Only setCoreParts s (s.setCore n k) := by
  unfold State.setCore
  with_reducible refine Only.set_cores (by decide) ?_
  exact Only.refl _ _

theorem State.modCore_only (s : State) (n : Nat) (f : Core → Core) : Only setCoreParts s (s.modCore n f) := by
  unfold State.modCore
  with_reducible refine Only.step (State.setCore_only _ _ _) (by decide) ?_
  exact Only.refl _ _

/-- What `State.setCounter` may change. -/
def setCounterParts : List Field := [.counters]

theorem State.setCounter_only (s : State) (n : Nat) (c : Counter) : Only setCounterParts s (s.setCounter n c) := by
  unfold State.setCounter
  with_reducible refine Only.set_counters (by decide) ?_
  exact Only.refl _ _

theorem State.modCounter_only (s : State) (n : Nat) (f : Counter → Counter) : Only setCounterParts s (s.modCounter n f) :=
    by
  unfold State.modCounter
  with_reducible refine Only.step (State.setCounter_only _ _ _) (by decide) ?_
  exact Only.refl _ _

/-- What `State.setCtx` may change. -/
def setCtxParts : List Field := [.ctxs]

theorem State.setCtx_only (s : State) (n : Nat) (c : Ctx) : Only setCtxParts s (s.setCtx n c) := by
  unfold State.setCtx
  with_reducible refine Only.set_ctxs (by decide) ?_
  exact Only.refl _ _

theorem State.modCtx_only (s : State) (n : Nat) (f : Ctx → Ctx) : Only setCtxParts s (s.modCtx n f) := by
  unfold State.modCtx
  with_reducible refine Only.step (State.setCtx_only _ _ _) (by decide) ?_
  exact Only.refl _ _

/-- What `State.setGen` may change. -/
def setGenParts : List Field := [.gens]

theorem State.setGen_only (s : State) (n : Nat) (g : Gen) : Only setGenParts s (s.setGen n g) := by
  unfold State.setGen
  with_reducible refine Only.set_gens (by decide) ?_
  exact Only.refl _ _

theorem State.modGen_only (s : State) (n : Nat) (f : Gen → Gen) : Only setGenParts s (s.modGen n f) := by
  unfold State.modGen
  with_reducible refine Only.step (State.setGen_only _ _ _) (by decide) ?_
  exact Only.refl _ _

/-- What `State.setInst` may change. -/
def setInstParts : List Field := [.insts]

theorem State.setInst_only (s : State) (n : Nat) (i : Inst) : Only setInstParts s (s.setInst n i) := by
  unfold State.setInst
  with_reducible refine Only.set_insts (by decide) ?_
  exact Only.refl _ _

theorem State.modInst_only (s : State) (n : Nat) (f : Inst → Inst) : Only setInstParts s (s.modInst n f) := by
  unfold State.modInst
  with_reducible refine Only.step (State.setInst_only _ _ _) (by decide) ?_
  exact Only.refl _ _

/-- What `State.setLink` may change. -/
def setLinkParts : List Field := [.links]

theorem State.setLink_only (s : State) (n : Nat) (l : Link) : Only setLinkParts s (s.setLink n l) := by
  unfold State.setLink
  with_reducible refine Only.set_links (by decide) ?_
  exact Only.refl _ _

theorem State.modLink_only (s : State) (n : Nat) (f : Link → Link) : Only setLinkParts s (s.modLink n f) := by
  unfold State.modLink
  with_reducible refine Only.step (State.setLink_only _ _ _) (by decide) ?_
  exact Only.refl _ _

/-- What `State.setObj` may change. -/
def setObjParts : List Field := [.objs]

theorem State.setObj_only (s : State) (n : Nat) (o : Obj) : Only setObjParts s (s.setObj n o) := by
  unfold State.setObj
  with_reducible refine Only.set_objs (by decide) ?_
  exact Only.refl _ _

theorem State.modObj_only (s : State) (n : Nat) (f : Obj → Obj) : Only setObjParts s (s.modObj n f) := by
  unfold State.modObj
  with_reducible refine Only.step (State.setObj_only _ _ _) (by decide) ?_
  exact Only.refl _ _

theorem State.modPage_only (s : State) (n : Nat) (f : Page → Page) : Only setInstParts s (s.modPage n f) := by
  unfold State.modPage
  with_reducible refine Only.step (State.modInst_only _ _ _) (by decide) ?_
  exact Only.refl _ _

/-- What `State.setPort` may change. -/
def setPortParts : List Field := [.ports]

theorem State.setPort_only (s : State) (n : Nat) (p : Port) : Only setPortParts s (s.setPort n p) := by
  unfold State.setPort
  with_reducible refine Only.set_ports (by decide) ?_
  exact Only.refl _ _

theorem State.modPort_only (s : State) (n : Nat) (f : Port → Port) : Only setPortParts s (s.modPort n f) := by
  unfold State.modPort
  with_reducible refine Only.step (State.setPort_only _ _ _) (by decide) ?_
  exact Only.refl _ _

/-- What `State.setQueue` may change. -/
def setQueueParts : List Field := [.queues, .seqs]

theorem State.setQueue_only (s : State) (n : Nat) (q : Queue) : Only setQueueParts s (s.setQueue n q) := by
  intro f hf
  cases f <;> first | exact Eq.refl _ | exact ⟨Eq.refl _, Eq.refl _, Eq.refl _⟩ | exact fun h => h | exact fun _ => rfl |
    exact absurd (by decide) hf

theorem State.modQueue_only (s : State) (n : Nat) (f : Queue → Queue) : Only setQueueParts s (s.modQueue n f) := by
  unfold State.modQueue
  with_reducible refine Only.step (State.setQueue_only _ _ _) (by decide) ?_
  exact Only.refl _ _

/-- What `State.setRgPart` may change. -/
def setRgPartParts : List Field := [.rgParts]

theorem State.setRgPart_only (s : State) (n : Nat) (p : RgPart) : Only setRgPartParts s (s.setRgPart n p) := by
  unfold State.setRgPart
  with_reducible refine Only.set_rgParts (by decide) ?_
  exact Only.refl _ _

theorem State.modRgPart_only (s : State) (n : Nat) (f : RgPart → RgPart) : Only setRgPartParts s (s.modRgPart n f) := by
  unfold State.modRgPart
  with_reducible refine Only.step (State.setRgPart_only _ _ _) (by decide) ?_
  exact Only.refl _ _

/-- What `State.modRun` may change. -/
def modRunParts : List Field := [.run]

theorem State.modRun_only (s : State) (f : Running → Running) : Only modRunParts s (s.modRun f) := by
  unfold State.modRun
  with_reducible refine Only.set_run (by decide) ?_
  exact Only.refl _ _

/-- What `State.setFlight` may change. -/
def setFlightParts : List Field := [.flights]

theorem State.setFlight_only (s : State) (n : Nat) (f : Flight) : Only setFlightParts s (s.setFlight n f) := by
  unfold State.setFlight
  with_reducible refine Only.set_flights (by decide) ?_
  exact Only.refl _ _

theorem State.setJob_only (s : State) (n : Nat) (j : Job) : Only dropJobParts s (s.setJob n j) := by
  unfold State.setJob
  with_reducible refine Only.set_jobs (by decide) ?_
  exact Only.refl _ _

/-- What `State.setSrc` may change. -/
def setSrcParts : List Field := [.chime]

theorem State.setSrc_only (s : State) (n : Nat) (x : Src) : Only setSrcParts s (s.setSrc n x) := by
  refine Only.sharpen ?_ (setSrc_reports _ _ _)
  unfold State.setSrc
  with_reducible refine Only.set_chime (by decide) ?_
  exact Only.refl _ _

theorem State.setTarget_only (s : State) (t : Nat) (x : Target) : Only setSrcParts s (s.setTarget t x) := by
  refine Only.sharpen ?_ (setTarget_reports _ _ _)
  unfold State.setTarget
  with_reducible refine Only.set_chime (by decide) ?_
  exact Only.refl _ _

theorem abandonCounters_only (s : State) (ctx : Nat) : Only setCounterParts s (abandonCounters s ctx) := by
  unfold abandonCounters
  with_reducible refine Only.set_counters (by decide) ?_
  exact Only.refl _ _

/-- What `traceKeeper` may change. -/
def traceKeeperParts : List Field := [.obs]

theorem traceKeeper_only (s : State) (type : Nat) (payload : List Byte) : Only traceKeeperParts s (traceKeeper s type
    payload) := by
  refine Only.sharpen ?_ (traceKeeper_reports _ _ _)
  unfold traceKeeper
  with_reducible refine Only.ite ?_ ?_
  · exact Only.refl _ _
  · with_reducible refine Only.ite ?_ ?_
    · with_reducible refine Only.set_obs (by decide) ?_
      exact Only.refl _ _
    · with_reducible refine Only.set_obs (by decide) ?_
      exact Only.refl _ _

theorem chTrace_only (s : State) (n : Nat) (code : BitVec 16) : Only traceKeeperParts s (chTrace s n code) := by
  unfold chTrace
  with_reducible refine Only.step (traceKeeper_only _ _ _) (by decide) ?_
  exact Only.refl _ _

theorem chEvalTarget_only (s : State) (t : Nat) : Only setSrcParts s (chEvalTarget s t) := by
  unfold chEvalTarget
  extract_lets -merge +onlyGivenNames x0
  try clear_value x0
  extract_lets -merge +onlyGivenNames x1
  try clear_value x1
  with_reducible refine Only.step (State.setTarget_only _ _ _) (by decide) ?_
  exact Only.refl _ _

theorem chEval_only (s : State) : Only setSrcParts s (chEval s) := by
  unfold chEval
  with_reducible refine Only.foldl ?_ ?_
  · intro u0 a1
    with_reducible refine Only.step (chEvalTarget_only _ _) (by decide) ?_
    exact Only.refl _ _
  · exact Only.refl _ _

/-- What `chSample` may change. -/
def chSampleParts : List Field := [.chime, .obs]

theorem chSample_only (s : State) (n : Nat) : Only chSampleParts s (chSample s n) := by
  unfold chSample
  with_reducible refine Only.ite ?_ ?_
  · extract_lets -merge +onlyGivenNames x0
    try clear_value x0
    extract_lets -merge +onlyGivenNames s1
    have h2 : Only chSampleParts s s1 := by
      unfold s1
      with_reducible refine Only.ite ?_ ?_
      · with_reducible refine Only.step (chTrace_only _ _ _) (by decide) ?_
        exact Only.refl _ _
      · exact Only.refl _ _
    try clear_value s1
    with_reducible refine Only.step (chEval_only _) (by decide) ?_
    with_reducible refine Only.step (State.setSrc_only _ _ _) (by decide) ?_
    exact h2
  · exact Only.refl _ _

theorem pmGlobal_only (s : State) (slot : Nat) (amount : Nat) : Only chSampleParts s (pmGlobal s slot amount) := by
  refine Only.sharpen ?_ (pmGlobal_reports _ _ _)
  unfold pmGlobal
  extract_lets -merge +onlyGivenNames x0
  try clear_value x0
  extract_lets -merge +onlyGivenNames _ s1
  have h2 : Only (chSampleParts ++ [.frCfg, .chimeCfg, .obsCfg]) s s1 := by
    unfold s1
    with_reducible refine Only.set_obs (by decide) ?_
    exact Only.refl _ _
  try clear_value s1
  with_reducible refine Only.ite ?_ ?_
  · exact h2
  · with_reducible refine Only.step (chSample_only _ _) (by decide) ?_
    with_reducible refine Only.set_obs (by decide) ?_
    exact h2

/-- What `storeBytes` may change. -/
def storeBytesParts : List Field := [.mem, .poison, .pool]

theorem storeBytes_only (s : State) (a : Nat) (bs : List Byte) : Only storeBytesParts s (storeBytes s a bs) := by
  intro f hf
  cases f <;> first | exact Eq.refl _ | exact ⟨Eq.refl _, Eq.refl _, Eq.refl _⟩ | exact fun _ => rfl |
    exact absurd (by decide) hf | exact fun h => h | exact fun h => memPutAll_wf _ _ _ h

/-- What `auRecord` may change. -/
def auRecordParts : List Field := [.au, .chime, .obs, .auIdle]

theorem auRecord_only (s : State) (r : Refused) : Only auRecordParts s (auRecord s r) := by
  unfold auRecord
  with_reducible refine Only.step (chSample_only _ _) (by decide) ?_
  with_reducible refine Only.set_au (by decide) ?_
  exact Only.refl _ _

theorem auRefuse_only (s : State) (r : Refused) : Only auRecordParts s (auRefuse s r) := by
  unfold auRefuse
  extract_lets -merge +onlyGivenNames s0
  have h1 : Only auRecordParts s s0 := by
    unfold s0
    with_reducible refine Only.step (pmGlobal_only _ _ _) (by decide) ?_
    exact Only.refl _ _
  try clear_value s0
  with_reducible refine Only.step (auRecord_only _ _) (by decide) ?_
  with_reducible refine Only.set_au (by decide) ?_
  exact h1

/-- What `writeWatch` may change. -/
def writeWatchParts : List Field := [.au, .gens, .chime, .obs]

theorem writeWatch_only (s : State) (a : Nat) (len : Nat) : Only writeWatchParts s (writeWatch s a len) := by
  unfold writeWatch
  extract_lets -merge +onlyGivenNames s0
  have h1 : Only writeWatchParts s s0 := by
    unfold s0
    with_reducible refine Only.set_gens (by decide) ?_
    exact Only.refl _ _
  have h2 : s0.au = s.au := rfl
  clear_value s0
  split
  · rename_i hc
    intro f hf
    by_cases e : f = .auIdle
    · subst e
      intro w
      rw [h2, w] at hc
      cases hc
    · have h3 : Only (writeWatchParts ++ [.auIdle]) s (auRefuse s0 (refusedPlain Config.IMAGE_MALFORMED)) := by
        with_reducible refine Only.step (auRefuse_only _ _) (by decide) ?_
        with_reducible refine Only.step h1 (by decide) ?_
        exact Only.refl _ _
      exact h3 f (by simpa [e] using hf)
  · exact h1

theorem dirtyMark_only (s : State) (a : Nat) (len : Nat) : Only setInstParts s (dirtyMark s a len) := by
  unfold dirtyMark
  with_reducible refine Only.set_insts (by decide) ?_
  exact Only.refl _ _

/-- What `blockWrite` may change. -/
def blockWriteParts : List Field := [.writes, .mem, .poison, .au, .pool, .gens, .insts, .chime, .obs]

theorem blockWrite_only (s : State) (owner : WriteOwner) (inst : Nat) (ctx : Option Nat) (ports : List Nat) (off : Nat) (a
    : Nat) (bs : List Byte) : Only blockWriteParts s (blockWrite s owner inst ctx ports off a bs) := by
  unfold blockWrite
  with_reducible refine Only.ite ?_ ?_
  · exact Only.refl _ _
  · extract_lets -merge +onlyGivenNames s0
    have h1 : Only blockWriteParts s s0 := by
      unfold s0
      with_reducible refine Only.step (pmGlobal_only _ _ _) (by decide) ?_
      with_reducible refine Only.step (storeBytes_only _ _ _) (by decide) ?_
      with_reducible refine Only.step (writeWatch_only _ _ _) (by decide) ?_
      with_reducible refine Only.step (dirtyMark_only _ _ _) (by decide) ?_
      exact Only.refl _ _
    try clear_value s0
    with_reducible refine Only.set_writes (by decide) ?_
    exact h1

theorem objWrite_only (s : State) (owner : WriteOwner) (i : Nat) (off : Nat) (bs : List Byte) : Only blockWriteParts s
    (objWrite s owner i off bs) := by
  unfold objWrite
  extract_lets -merge +onlyGivenNames x0
  try clear_value x0
  with_reducible refine Only.step (blockWrite_only _ _ _ _ _ _ _ _) (by decide) ?_
  exact Only.refl _ _

theorem stopCores_only (s : State) (cs : List Nat) : Only setCoreParts s (stopCores s cs) := by
  unfold stopCores
  with_reducible refine Only.foldl ?_ ?_
  · intro u0 a1
    with_reducible refine Only.step (State.modCore_only _ _ _) (by decide) ?_
    exact Only.refl _ _
  · exact Only.refl _ _

/-- What `killOne` may change. -/
def killOneParts : List Field := [.jobs, .cores]

theorem killOne_only (s : State) (n : Nat) (why : KillWhy) (code : BitVec 16) (detail : W64) (co : Bool) : Only
    killOneParts s (killOne s n why code detail co) := by
  unfold killOne
  split
  · exact Only.refl _ _
  · with_reducible refine Only.ite ?_ ?_
    · exact Only.refl _ _
    · with_reducible refine Only.step (stopCores_only _ _) (by decide) ?_
      with_reducible refine Only.step (State.setJob_only _ _ _) (by decide) ?_
      exact Only.refl _ _

/-- What `haltRecord` may change. -/
def haltRecordParts : List Field := [.cores, .chime, .obs]

theorem haltRecord_only (s : State) (c : Nat) (code : BitVec 16) (addr : Nat) (data : W64) (co : Bool) : Only
    haltRecordParts s (haltRecord s c code addr data co) := by
  unfold haltRecord
  with_reducible refine Only.ite ?_ ?_
  · exact Only.refl _ _
  · with_reducible refine Only.step (chSample_only _ _) (by decide) ?_
    with_reducible refine Only.step (State.setCore_only _ _ _) (by decide) ?_
    exact Only.refl _ _

/-- What `reportKill` may change. -/
def reportKillParts : List Field := [.cores, .chime, .obs, .freeCount]

theorem reportKill_only (s : State) (j : Job) (code : BitVec 16) (co : Bool) : Only reportKillParts s (reportKill s j code
    co) := by
  unfold reportKill
  split
  · exact Only.refl _ _
  · with_reducible refine Only.foldl ?_ ?_
    · intro u0 a1
      extract_lets -merge +onlyGivenNames x2
      extract_lets -merge +onlyGivenNames x3
      try clear_value x3
      with_reducible refine Only.step (haltRecord_only _ _ _ _ _ _) (by decide) ?_
      with_reducible refine Only.step (State.drawWord_only _) (by decide) ?_
      exact Only.refl _ _
    · exact Only.refl _ _

/-- What `coKill` may change. -/
def coKillParts : List Field := [.jobs, .cores, .chime, .obs, .freeCount]

theorem coKill_only (s : State) (n : Nat) (code : BitVec 16) : Only coKillParts s (coKill s n code) := by
  unfold coKill
  split
  · exact Only.refl _ _
  · with_reducible refine Only.ite ?_ ?_
    · exact Only.refl _ _
    · with_reducible refine Only.step (killOne_only _ _ _ _ _ _) (by decide) ?_
      with_reducible refine Only.step (reportKill_only _ _ _ _) (by decide) ?_
      exact Only.refl _ _

/-- What `killGraph` may change. -/
def killGraphParts : List Field := [.run, .jobs, .cores, .chime, .obs, .freeCount]

theorem killGraph_only (s : State) (g : Nat) (code : BitVec 16) : Only killGraphParts s (killGraph s g code) := by
  unfold killGraph
  with_reducible refine Only.foldl ?_ ?_
  · intro u0 a1
    with_reducible refine Only.step (coKill_only _ _ _) (by decide) ?_
    exact Only.refl _ _
  · with_reducible refine Only.step (State.modRun_only _ _) (by decide) ?_
    with_reducible refine Only.step (pmGlobal_only _ _ _) (by decide) ?_
    exact Only.refl _ _

theorem killJob_only (s : State) (n : Nat) (why : KillWhy) (code : BitVec 16) (detail : W64) : Only killGraphParts s
    (killJob s n why code detail) := by
  unfold killJob
  split
  · exact Only.refl _ _
  · with_reducible refine Only.ite ?_ ?_
    · exact Only.refl _ _
    · extract_lets -merge +onlyGivenNames s0
      have h1 : Only killGraphParts s s0 := by
        unfold s0
        with_reducible refine Only.step (killOne_only _ _ _ _ _ _) (by decide) ?_
        exact Only.refl _ _
      try clear_value s0
      split
      · exact h1
      · split
        · with_reducible refine Only.step (killGraph_only _ _ _) (by decide) ?_
          exact h1
        · exact h1

/-- What `frSeen` may change. -/
def frSeenParts : List Field := [.fr]

theorem frSeen_only (s : State) (cls : Nat) : Only frSeenParts s (frSeen s cls) := by
  refine Only.sharpen ?_ (frSeen_reports _ _)
  unfold frSeen
  with_reducible refine Only.set_fr (by decide) ?_
  exact Only.refl _ _

/-- What `errRecord` may change. -/
def errRecordParts : List Field := [.fr, .chime, .obs, .freeCount]

theorem errRecord_only (s : State) (cls : Nat) (unit : Option Nat) (core : Option Nat) (part : Option Nat) (code : BitVec
    16) (addr : Nat) : Only errRecordParts s (errRecord s cls unit core part code addr) := by
  refine Only.sharpen ?_ (errRecord_reports _ _ _ _ _ _ _)
  unfold errRecord
  extract_lets -merge +onlyGivenNames s0
  have h1 : Only (errRecordParts ++ [.frCfg, .chimeCfg, .obsCfg]) s s0 := by
    unfold s0
    with_reducible refine Only.step (frSeen_only _ _) (by decide) ?_
    exact Only.refl _ _
  try clear_value s0
  with_reducible refine Only.ite ?_ ?_
  · exact h1
  · extract_lets -merge +onlyGivenNames x2
    extract_lets -merge +onlyGivenNames x3
    try clear_value x3
    extract_lets -merge +onlyGivenNames s4
    have h5 : Only (errRecordParts ++ [.frCfg, .chimeCfg, .obsCfg]) s s4 := by
      unfold s4
      with_reducible refine Only.step (State.drawWord_only _) (by decide) ?_
      exact h1
    try clear_value s4
    with_reducible refine Only.step (chSample_only _ _) (by decide) ?_
    with_reducible refine Only.set_fr (by decide) ?_
    exact h5

theorem chPulse_only (s : State) (n : Nat) (code : BitVec 16) (data : W32) : Only chSampleParts s (chPulse s n code data)
    := by
  unfold chPulse
  with_reducible refine Only.ite ?_ ?_
  · with_reducible refine Only.step (chEval_only _) (by decide) ?_
    with_reducible refine Only.step (State.setSrc_only _ _ _) (by decide) ?_
    with_reducible refine Only.step (chTrace_only _ _ _) (by decide) ?_
    exact Only.refl _ _
  · exact Only.refl _ _

/-- What `twRelease` may change. -/
def twReleaseParts : List Field := [.tw, .chime, .obs]

theorem twRelease_only (s : State) (b : BitVec 48) (p : Nat) : Only twReleaseParts s (twRelease s b p) := by
  unfold twRelease
  with_reducible refine Only.step (chPulse_only _ _ _ _) (by decide) ?_
  with_reducible refine Only.set_tw (by decide) ?_
  exact Only.refl _ _

theorem twPrimary_only (s : State) : Only twReleaseParts s (twPrimary s) := by
  unfold twPrimary
  extract_lets -merge +onlyGivenNames x0
  try clear_value x0
  extract_lets -merge +onlyGivenNames x1
  try clear_value x1
  extract_lets -merge +onlyGivenNames _ s2
  have h3 : Only twReleaseParts s s2 := by
    unfold s2
    with_reducible refine Only.set_tw (by decide) ?_
    exact Only.refl _ _
  try clear_value s2
  with_reducible refine Only.foldl ?_ ?_
  · intro u4 a5
    with_reducible refine Only.ite ?_ ?_
    · exact Only.refl _ _
    · with_reducible refine Only.step (twRelease_only _ _ _) (by decide) ?_
      exact Only.refl _ _
  · exact h3

theorem twCode_only (s : State) (code : BitVec 16) : Only twReleaseParts s (twCode s code) := by
  unfold twCode
  with_reducible refine Only.step (chPulse_only _ _ _ _) (by decide) ?_
  with_reducible refine Only.set_tw (by decide) ?_
  exact Only.refl _ _

theorem accessDeniedId_only (s : State) (id : Nat) : Only chSampleParts s (accessDeniedId s id) := by
  unfold accessDeniedId
  with_reducible refine Only.step (chPulse_only _ _ _ _) (by decide) ?_
  exact Only.refl _ _

theorem accessDenied_only (s : State) : Only chSampleParts s (accessDenied s) := by
  unfold accessDenied
  with_reducible refine Only.step (accessDeniedId_only _ _) (by decide) ?_
  exact Only.refl _ _

/-- What `countAuth` may change. -/
def countAuthParts : List Field := [.tw]

theorem countAuth_only (s : State) (n : Nat) (m : LinkMsg) : Only countAuthParts s (countAuth s n m) := by
  unfold countAuth
  with_reducible refine Only.ite ?_ ?_
  · with_reducible refine Only.set_tw (by decide) ?_
    exact Only.refl _ _
  · exact Only.refl _ _

/-- What `linkSend` may change. -/
def linkSendParts : List Field := [.tw, .links]

theorem linkSend_only (s : State) (n : Nat) (m : LinkMsg) : Only linkSendParts s (linkSend s n m) := by
  unfold linkSend
  extract_lets -merge +onlyGivenNames x0
  try clear_value x0
  with_reducible refine Only.ite ?_ ?_
  · exact Only.refl _ _
  · with_reducible refine Only.ite ?_ ?_
    · with_reducible refine Only.ite ?_ ?_
      · exact Only.refl _ _
      · with_reducible refine Only.step (State.setLink_only _ _ _) (by decide) ?_
        exact Only.refl _ _
    · with_reducible refine Only.ite ?_ ?_
      · with_reducible refine Only.step (State.setLink_only _ _ _) (by decide) ?_
        with_reducible refine Only.step (countAuth_only _ _ _) (by decide) ?_
        exact Only.refl _ _
      · exact Only.refl _ _

theorem watchStale_only (s : State) (id : BitVec 17) : Only setCoreParts s (watchStale s id) := by
  unfold watchStale
  extract_lets -merge +onlyGivenNames x0
  try clear_value x0
  with_reducible refine Only.set_cores (by decide) ?_
  exact Only.refl _ _

theorem flightStart_only (s : State) (n : Nat) : Only setFlightParts s (flightStart s n) := by
  unfold flightStart
  extract_lets -merge +onlyGivenNames x0
  try clear_value x0
  with_reducible refine Only.step (State.setFlight_only _ _ _) (by decide) ?_
  exact Only.refl _ _

/-- What `syDrop` may change. -/
def syDropParts : List Field := [.sy]

theorem syDrop_only (s : State) : Only syDropParts s (syDrop s) := by
  unfold syDrop
  with_reducible refine Only.set_sy (by decide) ?_
  exact Only.refl _ _

/-- What `syFault` may change. -/
def syFaultParts : List Field := [.sy, .fr, .chime, .obs, .freeCount]

theorem syFault_only (s : State) (id : BitVec 17) (source : Nat) (core : Nat) (station : BitVec 16) (code : BitVec 16)
    (amount : W32) (before : W32) : Only syFaultParts s (syFault s id source core station code amount before) := by
  unfold syFault
  extract_lets -merge +onlyGivenNames s0
  have h1 : Only syFaultParts s s0 := by
    unfold s0
    with_reducible refine Only.step (errRecord_only _ _ _ _ _ _ _) (by decide) ?_
    exact Only.refl _ _
  try clear_value s0
  with_reducible refine Only.ite ?_ ?_
  · exact h1
  · with_reducible refine Only.step (chSample_only _ _) (by decide) ?_
    with_reducible refine Only.set_sy (by decide) ?_
    exact h1

theorem ctrFault_only (s : State) (id : BitVec 17) (f : BitVec 2) : Only setCounterParts s (ctrFault s id f) := by
  unfold ctrFault
  with_reducible refine Only.step (State.modCounter_only _ _ _) (by decide) ?_
  exact Only.refl _ _

/-- What `ctrAdd` may change. -/
def ctrAddParts : List Field := [.counters, .sy, .fr, .chime, .obs, .freeCount]

theorem ctrAdd_only (s : State) (id : BitVec 17) (amount : W32) (source : Nat) (core : Nat) (station : BitVec 16) : FstOnly
    ctrAddParts s (ctrAdd s id amount source core station) := by
  unfold ctrAdd
  extract_lets -merge +onlyGivenNames x0
  try clear_value x0
  split
  · with_reducible refine FstOnly.mk ?_
    with_reducible refine Only.step (syDrop_only _) (by decide) ?_
    exact Only.refl _ _
  · with_reducible refine FstOnly.mk ?_
    with_reducible refine Only.step (syDrop_only _) (by decide) ?_
    exact Only.refl _ _
  · with_reducible refine FstOnly.mk ?_
    with_reducible refine Only.step (syDrop_only _) (by decide) ?_
    exact Only.refl _ _
  · with_reducible refine FstOnly.ite ?_ ?_
    · with_reducible refine FstOnly.mk ?_
      with_reducible refine Only.step (syDrop_only _) (by decide) ?_
      exact Only.refl _ _
    · with_reducible refine FstOnly.ite ?_ ?_
      · with_reducible refine FstOnly.ite ?_ ?_
        · with_reducible refine FstOnly.mk ?_
          with_reducible refine Only.step (syFault_only _ _ _ _ _ _ _ _) (by decide) ?_
          with_reducible refine Only.step (ctrFault_only _ _ _) (by decide) ?_
          with_reducible refine Only.step (pmGlobal_only _ _ _) (by decide) ?_
          exact Only.refl _ _
        · with_reducible refine FstOnly.ite ?_ ?_
          · with_reducible refine FstOnly.mk ?_
            with_reducible refine Only.step (syFault_only _ _ _ _ _ _ _ _) (by decide) ?_
            with_reducible refine Only.step (ctrFault_only _ _ _) (by decide) ?_
            with_reducible refine Only.step (pmGlobal_only _ _ _) (by decide) ?_
            exact Only.refl _ _
          · with_reducible refine FstOnly.mk ?_
            with_reducible refine Only.step (State.setCounter_only _ _ _) (by decide) ?_
            exact Only.refl _ _
      · with_reducible refine FstOnly.mk ?_
        with_reducible refine Only.step (State.setCounter_only _ _ _) (by decide) ?_
        exact Only.refl _ _

theorem flightAdd_only (s : State) (n : Nat) (k : Nat) : Only ctrAddParts s (flightAdd s n k) := by
  unfold flightAdd
  with_reducible refine Only.foldl ?_ ?_
  · intro u0 a1
    with_reducible refine Only.step (ctrAdd_only _ _ _ _ _ _) (by decide) ?_
    exact Only.refl _ _
  · exact Only.refl _ _

/-- What `completeRound` may change. -/
def completeRoundParts : List Field := [.queues, .cores, .counters, .flights, .sy, .tw, .links, .fr, .chime, .obs,
  .freeCount]

theorem completeRound_only (s : State) (n : Nat) : Only completeRoundParts s (completeRound s n) := by
  unfold completeRound
  extract_lets -merge +onlyGivenNames x0
  try clear_value x0
  extract_lets -merge +onlyGivenNames x1
  try clear_value x1
  extract_lets -merge +onlyGivenNames s2
  have h3 : Only completeRoundParts s s2 := by
    unfold s2
    with_reducible refine Only.step (State.setFlight_only _ _ _) (by decide) ?_
    exact Only.refl _ _
  try clear_value s2
  extract_lets -merge +onlyGivenNames s4
  have h5 : Only completeRoundParts s s4 := by
    unfold s4
    with_reducible refine Only.step (watchStale_only _ _) (by decide) ?_
    with_reducible refine Only.step (State.modCounter_only _ _ _) (by decide) ?_
    exact h3
  try clear_value s4
  extract_lets -merge +onlyGivenNames s6
  have h7 : Only completeRoundParts s s6 := by
    unfold s6
    with_reducible refine Only.foldl ?_ ?_
    · intro u8 a9
      with_reducible refine Only.step (linkSend_only _ _ _) (by decide) ?_
      exact Only.refl _ _
    · exact h5
  try clear_value s6
  extract_lets -merge +onlyGivenNames x10
  with_reducible refine Only.step (flightStart_only _ _) (by decide) ?_
  with_reducible refine Only.step (flightAdd_only _ _ _) (by decide) ?_
  refine Only.set_queues (by decide) (fun q => by
      exact arriveHeld_sub _ _ _ _) ?_
  exact h7

theorem flightEval_only (k : Nat) (s : State) (n : Nat) : Only completeRoundParts s (flightEval k s n) := by
  induction k generalizing s with
  | zero => exact Only.refl _ _
  | succ k ih =>
    unfold flightEval
    with_reducible refine Only.ite ?_ ?_
    · extract_lets -merge +onlyGivenNames f s1
      have h : Only completeRoundParts s s1 := by
        unfold s1
        with_reducible refine Only.step (State.modCounter_only _ _ _) (by decide) ?_
        exact Only.refl _ _
      clear_value s1
      split
      · with_reducible refine Only.step (linkSend_only _ _ _) (by decide) ?_
        with_reducible refine Only.step (State.setFlight_only _ _ _) (by decide) ?_
        exact h
      · with_reducible refine Only.step (ih _) (by decide) ?_
        with_reducible refine Only.step (completeRound_only _ _) (by decide) ?_
        exact h
    · exact Only.refl _ _

theorem flightArrived_only (s : State) (n : Nat) : Only completeRoundParts s (flightArrived s n) := by
  unfold flightArrived
  with_reducible refine Only.step (flightEval_only _ _ _) (by decide) ?_
  with_reducible refine Only.step (flightStart_only _ _) (by decide) ?_
  exact Only.refl _ _

theorem addCounts_only (s : State) (ctx : Nat) (counts : Tbl Nat) : Only setCtxParts s (addCounts s ctx counts) := by
  unfold addCounts
  with_reducible refine Only.step (State.modCtx_only _ _ _) (by decide) ?_
  exact Only.refl _ _

theorem gvUpdate_only (s : State) (p : Nat) : Only setRgPartParts s (gvUpdate s p) := by
  unfold gvUpdate
  split
  · exact Only.refl _ _
  · with_reducible refine Only.step (State.modRgPart_only _ _ _) (by decide) ?_
    exact Only.refl _ _

/-- What `regQueue` may change. -/
def regQueueParts : List Field := [.queues, .rgParts]

theorem regQueue_only (s : State) (n : Nat) : Only regQueueParts s (regQueue s n) := by
  unfold regQueue
  extract_lets -merge +onlyGivenNames x0
  extract_lets -merge +onlyGivenNames x1
  try clear_value x1
  with_reducible refine Only.ite ?_ ?_
  · extract_lets -merge +onlyGivenNames x2
    try clear_value x2
    with_reducible refine Only.setQ (by decide) ?_ ?_
    · exact SeqSub.refl _
    · exact Only.refl _ _
  · with_reducible refine Only.ite ?_ ?_
    · with_reducible refine Only.step (gvUpdate_only _ _) (by decide) ?_
      with_reducible refine Only.setQ (by decide) ?_ ?_
      · exact SeqSub.refl _
      · exact Only.refl _ _
    · exact Only.refl _ _

theorem regEval_only (s : State) : Only regQueueParts s (regEval s) := by
  unfold regEval
  with_reducible refine Only.foldl ?_ ?_
  · intro u0 a1
    with_reducible refine Only.step (regQueue_only _ _) (by decide) ?_
    exact Only.refl _ _
  · exact Only.refl _ _

/-- What `pmBoth` may change. -/
def pmBothParts : List Field := [.ctxs, .chime, .obs]

theorem pmBoth_only (s : State) (ctx : Option Nat) (slot : Nat) (amount : Nat) : Only pmBothParts s (pmBoth s ctx slot
    amount) := by
  unfold pmBoth
  extract_lets -merge +onlyGivenNames s0
  have h1 : Only pmBothParts s s0 := by
    unfold s0
    with_reducible refine Only.step (pmGlobal_only _ _ _) (by decide) ?_
    exact Only.refl _ _
  try clear_value s0
  split
  · with_reducible refine Only.step (State.modCtx_only _ _ _) (by decide) ?_
    exact h1
  · exact h1

/-- What `completeCore` may change. -/
def completeCoreParts : List Field := [.ctxs, .queues, .chime, .obs]

theorem completeCore_only (s : State) (q : Nat) (seqNo : Nat) (code : BitVec 16) (submission : Bool) (detail : W64) : Only
    completeCoreParts s (completeCore s q seqNo code submission detail) := by
  unfold completeCore
  extract_lets -merge +onlyGivenNames s0
  have h1 : Only completeCoreParts s s0 := by
    unfold s0
    with_reducible refine Only.modQ (by decide) ?_ ?_
    · exact fun _ => modCmd_sub _ _ _ (fun _ h => h)
    · exact Only.refl _ _
  try clear_value s0
  with_reducible refine Only.ite ?_ ?_
  · exact h1
  · with_reducible refine Only.step (pmBoth_only _ _ _ _) (by decide) ?_
    exact h1

theorem ctxFault_only (s : State) (ctx : Nat) (code : BitVec 16) : Only setCtxParts s (ctxFault s ctx code) := by
  unfold ctxFault
  extract_lets -merge +onlyGivenNames x0
  try clear_value x0
  with_reducible refine Only.ite ?_ ?_
  · with_reducible refine Only.step (State.setCtx_only _ _ _) (by decide) ?_
    exact Only.refl _ _
  · exact Only.refl _ _

theorem writeRecordTail_only (s : State) (qn : Nat) (c : Cmd) : Only blockWriteParts s (writeRecordTail s qn c) := by
  unfold writeRecordTail
  extract_lets -merge +onlyGivenNames x0
  with_reducible refine Only.step (objWrite_only _ _ _ _ _) (by decide) ?_
  exact Only.refl _ _

/-- What `writeFault` may change. -/
def writeFaultParts : List Field := [.writes, .mem, .poison, .au, .pool, .gens, .ctxs, .queues, .insts, .chime, .obs]

theorem writeFault_only (s : State) (qn : Nat) (c : Cmd) : Only writeFaultParts s (writeFault s qn c) := by
  unfold writeFault
  extract_lets -merge +onlyGivenNames x0
  with_reducible refine Only.step (ctxFault_only _ _ _) (by decide) ?_
  with_reducible refine Only.step (writeRecordTail_only _ _ _) (by decide) ?_
  with_reducible refine Only.modQ (by decide) ?_ ?_
  · exact fun _ => modCmd_sub _ _ _ (fun _ _ => rfl)
  · exact Only.refl _ _

theorem faultRecord_only (s : State) (qn : Nat) (seqNo : Nat) : Only writeFaultParts s (faultRecord s qn seqNo) := by
  unfold faultRecord
  split
  · exact Only.refl _ _
  · split
    · with_reducible refine Only.step (writeFault_only _ _ _) (by decide) ?_
      exact Only.refl _ _
    · split
      · with_reducible refine Only.step (writeFault_only _ _ _) (by decide) ?_
        exact Only.refl _ _
      · exact Only.refl _ _

/-- What `completeWait` may change. -/
def completeWaitParts : List Field := [.writes, .mem, .poison, .au, .pool, .gens, .ctxs, .queues, .insts, .fr, .chime,
  .obs, .freeCount]

theorem completeWait_only (s : State) (qn : Nat) (seqNo : Nat) (code : BitVec 16) (detail : W64) (cont : Bool) : Only
    completeWaitParts s (completeWait s qn seqNo code detail cont) := by
  unfold completeWait
  extract_lets -merge +onlyGivenNames s0
  have h1 : Only completeWaitParts s s0 := by
    unfold s0
    with_reducible refine Only.step (completeCore_only _ _ _ _ _ _) (by decide) ?_
    exact Only.refl _ _
  try clear_value s0
  extract_lets -merge +onlyGivenNames s2
  have h3 : Only completeWaitParts s s2 := by
    unfold s2
    with_reducible refine Only.ite ?_ ?_
    · exact h1
    · with_reducible refine Only.step (errRecord_only _ _ _ _ _ _ _) (by decide) ?_
      exact h1
  try clear_value s2
  with_reducible refine Only.ite ?_ ?_
  · with_reducible refine Only.step (faultRecord_only _ _ _) (by decide) ?_
    exact h3
  · exact h3

theorem fencePoison_only (s : State) (qn : Nat) (i : Nat) (off : Nat) : Only errRecordParts s (fencePoison s qn i off) := by
  unfold fencePoison
  with_reducible refine Only.ite ?_ ?_
  · with_reducible refine Only.step (errRecord_only _ _ _ _ _ _ _) (by decide) ?_
    exact Only.refl _ _
  · exact Only.refl _ _

theorem waitPoison_only (s : State) (qn : Nat) (b : Body) : Only errRecordParts s (waitPoison s qn b) := by
  unfold waitPoison
  split
  · with_reducible refine Only.step (fencePoison_only _ _ _ _) (by decide) ?_
    exact Only.refl _ _
  · exact Only.refl _ _

theorem pumpOne_only (qn : Nat) (s : State) (seqNo : Nat) : Only completeWaitParts s (pumpOne qn s seqNo) := by
  unfold pumpOne
  extract_lets -merge +onlyGivenNames x0
  split
  · exact Only.refl _ _
  · with_reducible refine Only.ite ?_ ?_
    · exact Only.refl _ _
    · split
      · with_reducible refine Only.ite ?_ ?_
        · with_reducible refine Only.step (completeCore_only _ _ _ _ _ _) (by decide) ?_
          exact Only.refl _ _
        · split
          · with_reducible refine Only.ite ?_ ?_
            · with_reducible refine Only.step (completeCore_only _ _ _ _ _ _) (by decide) ?_
              exact Only.refl _ _
            · with_reducible refine Only.setQ (by decide) ?_ ?_
              · exact modCmd_sub _ _ _ (fun _ h => h)
              · exact Only.refl _ _
          · with_reducible refine Only.setQ (by decide) ?_ ?_
            · exact modCmd_sub _ _ _ (fun _ h => h)
            · exact Only.refl _ _
          · exact Only.refl _ _
      · split
        · with_reducible refine Only.ite ?_ ?_
          · with_reducible refine Only.step (completeCore_only _ _ _ _ _ _) (by decide) ?_
            exact Only.refl _ _
          · exact Only.refl _ _
        · with_reducible refine Only.ite ?_ ?_
          · with_reducible refine Only.setQ (by decide) ?_ ?_
            · exact modCmd_sub _ _ _ (fun _ h => h)
            · exact Only.refl _ _
          · exact Only.refl _ _
        · with_reducible refine Only.ite ?_ ?_
          · with_reducible refine Only.step (completeWait_only _ _ _ _ _ _) (by decide) ?_
            with_reducible refine Only.step (waitPoison_only _ _ _) (by decide) ?_
            exact Only.refl _ _
          · exact Only.refl _ _
      · exact Only.refl _ _

theorem pump_only (s : State) (qn : Nat) : Only completeWaitParts s (pump s qn) := by
  unfold pump
  with_reducible refine Only.modQ (by decide) ?_ ?_
  · exact fun _ => waitOver_sub _
  · with_reducible refine Only.foldl ?_ ?_
    · intro u0 a1
      with_reducible refine Only.step (pumpOne_only _ _ _) (by decide) ?_
      exact Only.refl _ _
    · exact Only.refl _ _

/-- What `pumpAll` may change. -/
def pumpAllParts : List Field := [.writes, .mem, .poison, .au, .pool, .gens, .ctxs, .queues, .insts, .rgParts, .fr,
  .chime, .obs, .freeCount]

theorem pumpAll_only (s : State) : Only pumpAllParts s (pumpAll s) := by
  unfold pumpAll
  with_reducible refine Only.step (regEval_only _) (by decide) ?_
  with_reducible refine Only.foldl ?_ ?_
  · intro u0 a1
    with_reducible refine Only.step (pump_only _ _) (by decide) ?_
    exact Only.refl _ _
  · exact Only.refl _ _

theorem clearRange_only (s : State) (c : Nat) (off : Nat) (len : Nat) : Only setCoreParts s (clearRange s c off len) := by
  unfold clearRange
  with_reducible refine Only.ite ?_ ?_
  · exact Only.refl _ _
  · with_reducible refine Only.step (State.modCore_only _ _ _) (by decide) ?_
    exact Only.refl _ _

/-- What `eraseSettle` may change. -/
def eraseSettleParts : List Field := [.sec]

theorem eraseSettle_only (s : State) : Only eraseSettleParts s (eraseSettle s) := by
  unfold eraseSettle
  with_reducible refine Only.ite ?_ ?_
  · with_reducible refine Only.set_sec (by decide) ?_
    exact Only.refl _ _
  · exact Only.refl _ _

theorem eraseShares_only (s : State) : Only setCoreParts s (eraseShares s) := by
  unfold eraseShares
  with_reducible refine Only.foldl ?_ ?_
  · intro u0 a1
    with_reducible refine Only.step (clearRange_only _ _ _ _) (by decide) ?_
    exact Only.refl _ _
  · exact Only.refl _ _

theorem traceCore_only (s : State) (c : Nat) (type : Nat) (payload : List Byte) : Only traceKeeperParts s (traceCore s c
    type payload) := by
  refine Only.sharpen ?_ (traceCore_reports _ _ _ _)
  unfold traceCore
  with_reducible refine Only.ite ?_ ?_
  · with_reducible refine Only.set_obs (by decide) ?_
    exact Only.refl _ _
  · exact Only.refl _ _

/-- What `pmJob` may change. -/
def pmJobParts : List Field := [.jobs, .chime, .obs]

theorem pmJob_only (s : State) (job : Option Nat) (slot : Nat) (amount : Nat) : Only pmJobParts s (pmJob s job slot amount)
    := by
  unfold pmJob
  extract_lets -merge +onlyGivenNames s0
  have h1 : Only pmJobParts s s0 := by
    unfold s0
    with_reducible refine Only.step (pmGlobal_only _ _ _) (by decide) ?_
    exact Only.refl _ _
  try clear_value s0
  split
  · split
    · with_reducible refine Only.step (State.setJob_only _ _ _) (by decide) ?_
      exact h1
    · exact h1
  · exact h1

/-- What `haltCore` may change. -/
def haltCoreParts : List Field := [.run, .jobs, .cores, .fr, .chime, .obs, .freeCount]

theorem haltCore_only (s : State) (c : Nat) (code : BitVec 16) (unit : Option Nat) (addr : Nat) (data : W64) : Only
    haltCoreParts s (haltCore s c code unit addr data) := by
  unfold haltCore
  extract_lets -merge +onlyGivenNames x0
  try clear_value x0
  extract_lets -merge +onlyGivenNames s1
  have h2 : Only haltCoreParts s s1 := by
    unfold s1
    with_reducible refine Only.step (pmJob_only _ _ _ _) (by decide) ?_
    exact Only.refl _ _
  try clear_value s1
  extract_lets -merge +onlyGivenNames s3
  have h4 : Only haltCoreParts s s3 := by
    unfold s3
    with_reducible refine Only.step (errRecord_only _ _ _ _ _ _ _) (by decide) ?_
    with_reducible refine Only.step (haltRecord_only _ _ _ _ _ _) (by decide) ?_
    exact h2
  try clear_value s3
  split
  · exact h4
  · with_reducible refine Only.ite ?_ ?_
    · extract_lets -merge +onlyGivenNames s5
      have h6 : Only haltCoreParts s s5 := by
        unfold s5
        with_reducible refine Only.step (State.modCore_only _ _ _) (by decide) ?_
        exact h4
      try clear_value s5
      split
      · with_reducible refine Only.ite ?_ ?_
        · exact h6
        · with_reducible refine Only.step (State.setJob_only _ _ _) (by decide) ?_
          exact h6
      · exact h6
    · with_reducible refine Only.step (killJob_only _ _ _ _ _) (by decide) ?_
      exact h4

theorem haltAt_only (s : State) (c : Nat) (code : BitVec 16) (off : Nat) (data : W64) : Only haltCoreParts s (haltAt s c
    code off data) := by
  unfold haltAt
  with_reducible refine Only.step (haltCore_only _ _ _ _ _ _) (by decide) ?_
  exact Only.refl _ _

theorem haltReaders_only (s : State) (l : List (Nat × Nat)) (code : BitVec 16) (data : W64) : Only haltCoreParts s
    (haltReaders s l code data) := by
  unfold haltReaders
  extract_lets -merge +onlyGivenNames s0
  have h1 : Only haltCoreParts s s0 := by
    unfold s0
    with_reducible refine Only.foldl ?_ ?_
    · intro u2 a3
      with_reducible refine Only.step (haltRecord_only _ _ _ _ _ _) (by decide) ?_
      exact Only.refl _ _
    · exact Only.refl _ _
  try clear_value s0
  with_reducible refine Only.foldl ?_ ?_
  · intro u4 a5
    with_reducible refine Only.ite ?_ ?_
    · with_reducible refine Only.step (haltAt_only _ _ _ _ _) (by decide) ?_
      exact Only.refl _ _
    · exact Only.refl _ _
  · exact h1

/-- What `sendUpdate` may change. -/
def sendUpdateParts : List Field := [.updates]

theorem sendUpdate_only (s : State) (u : Update) : Only sendUpdateParts s (sendUpdate s u) := by
  unfold sendUpdate
  extract_lets -merge +onlyGivenNames x0
  try clear_value x0
  extract_lets -merge +onlyGivenNames x1
  try clear_value x1
  extract_lets -merge +onlyGivenNames x2
  try clear_value x2
  with_reducible refine Only.set_updates (by decide) ?_
  exact Only.refl _ _

/-- What `fireSignal` may change. -/
def fireSignalParts : List Field := [.cores, .updates]

theorem fireSignal_only (s : State) (c : Nat) (job : Option Nat) (pc : Nat) (stream : Bool) (sig : Sig) : Only
    fireSignalParts s (fireSignal s c job pc stream sig) := by
  unfold fireSignal
  split
  · exact Only.refl _ _
  · with_reducible refine Only.step (State.modCore_only _ _ _) (by decide) ?_
    exact Only.refl _ _
  · with_reducible refine Only.step (State.modCore_only _ _ _) (by decide) ?_
    exact Only.refl _ _
  · with_reducible refine Only.step (sendUpdate_only _ _) (by decide) ?_
    exact Only.refl _ _

theorem completeCmd_only (s : State) (q : Nat) (seqNo : Nat) (code : BitVec 16) (submission : Bool) (detail : W64) : Only
    pumpAllParts s (completeCmd s q seqNo code submission detail) := by
  unfold completeCmd
  with_reducible refine Only.step (regEval_only _) (by decide) ?_
  with_reducible refine Only.step (pump_only _ _) (by decide) ?_
  with_reducible refine Only.step (completeCore_only _ _ _ _ _ _) (by decide) ?_
  exact Only.refl _ _

theorem jobCount_only (s : State) (n : Nat) (slot : Nat) (amount : Nat) : Only dropJobParts s (jobCount s n slot amount) :=
    by
  unfold jobCount
  split
  · with_reducible refine Only.step (State.setJob_only _ _ _) (by decide) ?_
    exact Only.refl _ _
  · exact Only.refl _ _

theorem updKill_only (s : State) (u : Update) (code : BitVec 16) : Only killGraphParts s (updKill s u code) := by
  unfold updKill
  split
  · with_reducible refine Only.step (killJob_only _ _ _ _ _) (by decide) ?_
    with_reducible refine Only.step (jobCount_only _ _ _ _) (by decide) ?_
    with_reducible refine Only.step (watchStale_only _ _) (by decide) ?_
    exact Only.refl _ _
  · with_reducible refine Only.step (watchStale_only _ _) (by decide) ?_
    exact Only.refl _ _

theorem updApplied_only (s : State) (u : Update) : Only dropJobParts s (updApplied s u) := by
  unfold updApplied
  extract_lets -merge +onlyGivenNames x0
  try clear_value x0
  split
  · exact Only.refl _ _
  · split
    · exact Only.refl _ _
    · with_reducible refine Only.ite ?_ ?_
      · with_reducible refine Only.step (State.setJob_only _ _ _) (by decide) ?_
        exact Only.refl _ _
      · split
        · with_reducible refine Only.step (State.setJob_only _ _ _) (by decide) ?_
          exact Only.refl _ _
        · exact Only.refl _ _

/-- What `applyUpdate` may change. -/
def applyUpdateParts : List Field := [.run, .queues, .jobs, .cores, .counters, .flights, .sy, .tw, .links, .fr, .chime,
  .obs, .freeCount]

theorem applyUpdate_only (s : State) (u : Update) : Only applyUpdateParts s (applyUpdate s u) := by
  unfold applyUpdate
  extract_lets -merge +onlyGivenNames x0
  try clear_value x0
  extract_lets -merge +onlyGivenNames x1
  try clear_value x1
  extract_lets -merge +onlyGivenNames x2
  try clear_value x2
  extract_lets -merge +onlyGivenNames x3
  try clear_value x3
  extract_lets -merge +onlyGivenNames x4
  try clear_value x4
  with_reducible refine Only.ite ?_ ?_
  · split
    · split
      · with_reducible refine Only.step (haltCore_only _ _ _ _ _ _) (by decide) ?_
        exact Only.refl _ _
      · with_reducible refine Only.step (haltCore_only _ _ _ _ _ _) (by decide) ?_
        exact Only.refl _ _
      · with_reducible refine Only.step (killJob_only _ _ _ _ _) (by decide) ?_
        exact Only.refl _ _
    · exact Only.refl _ _
  · extract_lets -merge +onlyGivenNames x5
    split
    · with_reducible refine Only.step (ctrAdd_only _ _ _ _ _ _) (by decide) ?_
      exact Only.refl _ _
    · with_reducible refine Only.step (updKill_only _ _ _) (by decide) ?_
      with_reducible refine Only.step (ctrAdd_only _ _ _ _ _ _) (by decide) ?_
      exact Only.refl _ _
    · extract_lets -merge +onlyGivenNames s6
      have h7 : Only applyUpdateParts s s6 := by
        unfold s6
        with_reducible refine Only.step (watchStale_only _ _) (by decide) ?_
        with_reducible refine Only.step (updApplied_only _ _) (by decide) ?_
        with_reducible refine Only.step (ctrAdd_only _ _ _ _ _ _) (by decide) ?_
        exact Only.refl _ _
      try clear_value s6
      with_reducible refine Only.ite ?_ ?_
      · with_reducible refine Only.step (flightArrived_only _ _) (by decide) ?_
        exact h7
      · exact h7

/-- What `auStop` may change. -/
def auStopParts : List Field := [.au, .auIdle]

theorem auStop_only (s : State) : Only auStopParts s (auStop s) := by
  unfold auStop
  with_reducible refine Only.set_au (by decide) ?_
  exact Only.refl _ _

theorem lockRefuse_only (s : State) : Only auRecordParts s (lockRefuse s) := by
  unfold lockRefuse
  with_reducible refine Only.step (auRefuse_only _ _) (by decide) ?_
  with_reducible refine Only.set_au (by decide) ?_
  exact Only.refl _ _

theorem tamperCount_only (s : State) (source : Nat) : Only eraseSettleParts s (tamperCount s source) := by
  unfold tamperCount
  with_reducible refine Only.set_sec (by decide) ?_
  exact Only.refl _ _

/-- What `tamperLock` may change. -/
def tamperLockParts : List Field := [.au, .sec, .chime, .obs, .auIdle]

theorem tamperLock_only (s : State) : Only tamperLockParts s (tamperLock s) := by
  unfold tamperLock
  extract_lets -merge +onlyGivenNames _ s0
  have h1 : Only tamperLockParts s s0 := by
    unfold s0
    with_reducible refine Only.set_sec (by decide) ?_
    exact Only.refl _ _
  try clear_value s0
  with_reducible refine Only.ite ?_ ?_
  · exact h1
  · with_reducible refine Only.step (lockRefuse_only _) (by decide) ?_
    exact h1

/-- What `eraseKeys` may change. -/
def eraseKeysParts : List Field := [.insts, .sec]

theorem eraseKeys_only (s : State) (owner : Nat → Bool) : Only eraseKeysParts s (eraseKeys s owner) := by
  unfold eraseKeys
  with_reducible refine Only.set_insts_sec (by decide) ?_
  exact Only.refl _ _

theorem killJobs_only (s : State) (l : List Nat) (why : KillWhy) (code : BitVec 16) : Only killGraphParts s (killJobs s l
    why code) := by
  unfold killJobs
  with_reducible refine Only.foldl ?_ ?_
  · intro u0 a1
    with_reducible refine Only.step (killJob_only _ _ _ _ _) (by decide) ?_
    exact Only.refl _ _
  · exact Only.refl _ _

/-- What `tenantErase` may change. -/
def tenantEraseParts : List Field := [.run, .insts, .jobs, .cores, .sec, .chime, .obs, .freeCount]

theorem tenantErase_only (s : State) (all : Bool) (code : BitVec 16) : Only tenantEraseParts s (tenantErase s all code) :=
    by
  unfold tenantErase
  extract_lets -merge +onlyGivenNames s0
  have h1 : Only tenantEraseParts s s0 := by
    unfold s0
    with_reducible refine Only.step (eraseKeys_only _ _) (by decide) ?_
    exact Only.refl _ _
  try clear_value s0
  extract_lets -merge +onlyGivenNames _ s2
  have h3 : Only tenantEraseParts s s2 := by
    unfold s2
    with_reducible refine Only.ite ?_ ?_
    · with_reducible refine Only.set_sec (by decide) ?_
      exact h1
    · exact h1
  try clear_value s2
  extract_lets -merge +onlyGivenNames _ s4
  have h5 : Only tenantEraseParts s s4 := by
    unfold s4
    with_reducible refine Only.set_sec (by decide) ?_
    exact h3
  try clear_value s4
  extract_lets -merge +onlyGivenNames x6
  try clear_value x6
  extract_lets -merge +onlyGivenNames s7
  have h8 : Only tenantEraseParts s s7 := by
    unfold s7
    with_reducible refine Only.foldl ?_ ?_
    · intro u9 a10
      with_reducible refine Only.step (reportKill_only _ _ _ _) (by decide) ?_
      exact Only.refl _ _
    · exact h5
  try clear_value s7
  extract_lets -merge +onlyGivenNames s11
  have h12 : Only tenantEraseParts s s11 := by
    unfold s11
    with_reducible refine Only.step (killJobs_only _ _ _ _) (by decide) ?_
    exact h8
  try clear_value s11
  with_reducible refine Only.step (eraseSettle_only _) (by decide) ?_
  with_reducible refine Only.ite ?_ ?_
  · exact h12
  · with_reducible refine Only.step (eraseShares_only _) (by decide) ?_
    exact h12

/-- What `tamperAct` may change. -/
def tamperActParts : List Field := [.au, .run, .insts, .jobs, .cores, .sec, .chime, .obs, .freeCount, .auIdle]

theorem tamperAct_only (s : State) (level : BitVec 2) (code : BitVec 16) : Only tamperActParts s (tamperAct s level code)
    := by
  unfold tamperAct
  split
  · exact Only.refl _ _
  · with_reducible refine Only.step (tamperLock_only _) (by decide) ?_
    exact Only.refl _ _
  · with_reducible refine Only.step (tenantErase_only _ _ _) (by decide) ?_
    exact Only.refl _ _
  · with_reducible refine Only.step (tenantErase_only _ _ _) (by decide) ?_
    exact Only.refl _ _

theorem tamperApply_only (s : State) (source : Nat) : Only tamperActParts s (tamperApply s source) := by
  unfold tamperApply
  extract_lets -merge +onlyGivenNames x0
  try clear_value x0
  extract_lets -merge +onlyGivenNames s1
  have h2 : Only tamperActParts s s1 := by
    unfold s1
    with_reducible refine Only.step (pmGlobal_only _ _ _) (by decide) ?_
    exact Only.refl _ _
  try clear_value s1
  extract_lets -merge +onlyGivenNames s3
  have h4 : Only tamperActParts s s3 := by
    unfold s3
    with_reducible refine Only.step (tamperCount_only _ _) (by decide) ?_
    exact h2
  try clear_value s3
  extract_lets -merge +onlyGivenNames _ s5
  have h6 : Only tamperActParts s s5 := by
    unfold s5
    with_reducible refine Only.step (chSample_only _ _) (by decide) ?_
    with_reducible refine Only.set_sec (by decide) ?_
    exact h4
  try clear_value s5
  with_reducible refine Only.step (tamperAct_only _ _ _) (by decide) ?_
  exact h6

theorem tamperRaise_only (s : State) (source : Nat) : Only tamperActParts s (tamperRaise s source) := by
  unfold tamperRaise
  with_reducible refine Only.ite ?_ ?_
  · with_reducible refine Only.step (tamperApply_only _ _) (by decide) ?_
    exact Only.refl _ _
  · with_reducible refine Only.step (tamperCount_only _ _) (by decide) ?_
    exact Only.refl _ _

/-- What `poolSettle` may change. -/
def poolSettleParts : List Field := [.pool]

theorem poolSettle_only (s : State) : Only poolSettleParts s (poolSettle s) := by
  unfold poolSettle
  with_reducible refine Only.ite ?_ ?_
  · exact Only.refl _ _
  · with_reducible refine Only.set_pool (by decide) ?_
    exact Only.refl _ _

theorem twYield_only (s : State) (kind : BitVec 8) : Only linkSendParts s (twYield s kind) := by
  unfold twYield
  with_reducible refine Only.step (linkSend_only _ _ _) (by decide) ?_
  exact Only.refl _ _

theorem twSecondary_only (s : State) (kind : BitVec 8) : Only linkSendParts s (twSecondary s kind) := by
  unfold twSecondary
  with_reducible refine Only.step (twYield_only _ _) (by decide) ?_
  with_reducible refine Only.set_tw (by decide) ?_
  exact Only.refl _ _

theorem twComplete_only (s : State) (p : Nat) : Only twReleaseParts s (twComplete s p) := by
  unfold twComplete
  extract_lets -merge +onlyGivenNames x0
  try clear_value x0
  with_reducible refine Only.ite ?_ ?_
  · with_reducible refine Only.ite ?_ ?_
    · exact Only.refl _ _
    · with_reducible refine Only.step (twRelease_only _ _ _) (by decide) ?_
      exact Only.refl _ _
  · with_reducible refine Only.ite ?_ ?_
    · with_reducible refine Only.set_tw (by decide) ?_
      exact Only.refl _ _
    · exact Only.refl _ _

theorem chSampleAll_only (s : State) : Only chSampleParts s (chSampleAll s) := by
  unfold chSampleAll
  with_reducible refine Only.foldl ?_ ?_
  · intro u0 a1
    with_reducible refine Only.step (chSample_only _ _) (by decide) ?_
    exact Only.refl _ _
  · exact Only.refl _ _

/-- What `endBarriers` may change. -/
def endBarriersParts : List Field := [.queues]

theorem endBarriers_only (s : State) (n : Nat) (code : BitVec 16) : Only endBarriersParts s (endBarriers s n code) := by
  unfold endBarriers
  extract_lets -merge +onlyGivenNames x0
  extract_lets -merge +onlyGivenNames x1
  extract_lets -merge +onlyGivenNames x2
  refine Only.set_queues (by decide) (fun q => by
      exact mapQueues_sub _ _ _ (fun _ => by exact mapCmds_sub _ _ (fun c => by change Cmd.seqNo (ite _ _ _) = _; split <;> rfl))) ?_
  exact Only.refl _ _

/-- What `flightBreak` may change. -/
def flightBreakParts : List Field := [.queues, .cores, .flights, .tw, .links, .chime, .obs]

theorem flightBreak_only (s : State) (n : Nat) (cause : Nat) (code : BitVec 16) (from' : Option Nat) : Only
    flightBreakParts s (flightBreak s n cause code from') := by
  unfold flightBreak
  extract_lets -merge +onlyGivenNames x0
  try clear_value x0
  with_reducible refine Only.ite ?_ ?_
  · extract_lets -merge +onlyGivenNames s1
    have h2 : Only flightBreakParts s s1 := by
      unfold s1
      with_reducible refine Only.step (State.setFlight_only _ _ _) (by decide) ?_
      exact Only.refl _ _
    try clear_value s1
    extract_lets -merge +onlyGivenNames x3
    try clear_value x3
    extract_lets -merge +onlyGivenNames s4
    have h5 : Only flightBreakParts s s4 := by
      unfold s4
      with_reducible refine Only.foldl ?_ ?_
      · intro u6 a7
        with_reducible refine Only.step (linkSend_only _ _ _) (by decide) ?_
        exact Only.refl _ _
      · exact h2
    try clear_value s4
    with_reducible refine Only.step (chPulse_only _ _ _ _) (by decide) ?_
    with_reducible refine Only.step (endBarriers_only _ _ _) (by decide) ?_
    with_reducible refine Only.step (watchStale_only _ _) (by decide) ?_
    with_reducible refine Only.step (pmGlobal_only _ _ _) (by decide) ?_
    exact h5
  · exact Only.refl _ _

theorem breakArrivals_only (s : State) (j : Job) : Only flightBreakParts s (breakArrivals s j) := by
  unfold breakArrivals
  with_reducible refine Only.foldl ?_ ?_
  · intro u0 a1
    with_reducible refine Only.step (flightBreak_only _ _ _ _ _) (by decide) ?_
    exact Only.refl _ _
  · exact Only.refl _ _

theorem chStray_only (s : State) (n : Nat) : Only setSrcParts s (chStray s n) := by
  refine Only.sharpen ?_ (chStray_reports _ _)
  unfold chStray
  with_reducible refine Only.set_chime (by decide) ?_
  exact Only.refl _ _

theorem chComplete_only (s : State) (via : Option Nat) (n : Nat) : Only setSrcParts s (chComplete s via n) := by
  unfold chComplete
  extract_lets -merge +onlyGivenNames x0
  try clear_value x0
  extract_lets -merge +onlyGivenNames x1
  try clear_value x1
  with_reducible refine Only.ite ?_ ?_
  · with_reducible refine Only.step (chEval_only _) (by decide) ?_
    with_reducible refine Only.step (State.setSrc_only _ _ _) (by decide) ?_
    exact Only.refl _ _
  · with_reducible refine Only.step (chStray_only _ _) (by decide) ?_
    exact Only.refl _ _

theorem ctrSet_only (s : State) (id : BitVec 17) (v : W32) : Only setCounterParts s (ctrSet s id v) := by
  unfold ctrSet
  with_reducible refine Only.step (State.modCounter_only _ _ _) (by decide) ?_
  exact Only.refl _ _

theorem poolCopy_only (s : State) (i : Nat) : Only poolSettleParts s (poolCopy s i) := by
  unfold poolCopy
  extract_lets -merge +onlyGivenNames x0
  try clear_value x0
  with_reducible refine Only.ite ?_ ?_
  · with_reducible refine Only.set_pool (by decide) ?_
    exact Only.refl _ _
  · exact Only.refl _ _

theorem traceDone_only (s : State) (queue : Nat) (index : Nat) (code : Nat) (how : Nat) : Only traceKeeperParts s
    (traceDone s queue index code how) := by
  unfold traceDone
  with_reducible refine Only.step (traceKeeper_only _ _ _) (by decide) ?_
  exact Only.refl _ _

/-- What `frCorrected` may change. -/
def frCorrectedParts : List Field := [.fr, .chime, .obs]

theorem frCorrected_only (s : State) (unit : Nat) : Only frCorrectedParts s (frCorrected s unit) := by
  refine Only.sharpen ?_ (frCorrected_reports _ _)
  unfold frCorrected
  extract_lets -merge +onlyGivenNames s0
  have h1 : Only (frCorrectedParts ++ [.frCfg, .chimeCfg, .obsCfg]) s s0 := by
    unfold s0
    with_reducible refine Only.step (pmGlobal_only _ _ _) (by decide) ?_
    with_reducible refine Only.step (frSeen_only _ _) (by decide) ?_
    exact Only.refl _ _
  try clear_value s0
  with_reducible refine Only.set_fr (by decide) ?_
  exact h1

theorem streamFault_only (s : State) (c : Nat) (thread : Nat) (op : Nat) (sram : Nat) (code : BitVec 16) (addr : Nat) :
    Only haltCoreParts s (streamFault s c thread op sram code addr) := by
  unfold streamFault
  extract_lets -merge +onlyGivenNames x0
  try clear_value x0
  extract_lets -merge +onlyGivenNames _ s1
  have h2 : Only haltCoreParts s s1 := by
    unfold s1
    with_reducible refine Only.ite ?_ ?_
    · exact Only.refl _ _
    · with_reducible refine Only.step (chSample_only _ _) (by decide) ?_
      with_reducible refine Only.step (State.setCore_only _ _ _) (by decide) ?_
      exact Only.refl _ _
  try clear_value s1
  extract_lets -merge +onlyGivenNames x3
  try clear_value x3
  extract_lets -merge +onlyGivenNames s4
  have h5 : Only haltCoreParts s s4 := by
    unfold s4
    with_reducible refine Only.step (errRecord_only _ _ _ _ _ _ _) (by decide) ?_
    with_reducible refine Only.step (pmJob_only _ _ _ _) (by decide) ?_
    exact h2
  try clear_value s4
  split
  · exact h5
  · with_reducible refine Only.step (killJob_only _ _ _ _ _) (by decide) ?_
    exact h5

theorem killCopy_only (s : State) (p : Nat) (code : BitVec 16) : Only pumpAllParts s (killCopy s p code) := by
  unfold killCopy
  split
  · exact Only.refl _ _
  · extract_lets -merge +onlyGivenNames s0
    have h1 : Only pumpAllParts s s0 := by
      unfold s0
      with_reducible refine Only.step (State.modRgPart_only _ _ _) (by decide) ?_
      exact Only.refl _ _
    try clear_value s0
    split
    · exact h1
    · with_reducible refine Only.step (completeCmd_only _ _ _ _ _ _) (by decide) ?_
      with_reducible refine Only.step (addCounts_only _ _ _) (by decide) ?_
      exact h1

/-- What `stopAll` may change. -/
def stopAllParts : List Field := [.writes, .mem, .poison, .au, .run, .pool, .gens, .ctxs, .queues, .insts, .rgParts,
  .jobs, .cores, .fr, .chime, .obs, .freeCount, .auIdle]

theorem stopAll_only (s : State) (code : BitVec 16) : Only stopAllParts s (stopAll s code) := by
  unfold stopAll
  extract_lets -merge +onlyGivenNames s0
  have h1 : Only stopAllParts s s0 := by
    unfold s0
    with_reducible refine Only.step (killJobs_only _ _ _ _) (by decide) ?_
    with_reducible refine Only.step (auStop_only _) (by decide) ?_
    exact Only.refl _ _
  try clear_value s0
  with_reducible refine Only.foldl ?_ ?_
  · intro u2 a3
    with_reducible refine Only.step (killCopy_only _ _ _) (by decide) ?_
    exact Only.refl _ _
  · exact h1

/-- What `snapBegin` may change. -/
def snapBeginParts : List Field := [.obs, .obsCfg]

theorem snapBegin_only (s : State) : Only snapBeginParts s (snapBegin s) := by
  unfold snapBegin
  with_reducible refine Only.ite ?_ ?_
  · exact Only.refl _ _
  · with_reducible refine Only.ite ?_ ?_
    · with_reducible refine Only.set_obs (by decide) ?_
      exact Only.refl _ _
    · with_reducible refine Only.set_obs (by decide) ?_
      exact Only.refl _ _

/-- What `recoveryStop` may change. -/
def recoveryStopParts : List Field := [.writes, .mem, .poison, .au, .run, .pool, .gens, .ctxs, .queues, .insts,
  .rgParts, .jobs, .cores, .tw, .links, .fr, .chime, .obs, .freeCount, .frCfg, .obsCfg, .auIdle]

theorem recoveryStop_only (s : State) (c : StopCause) (unit : Option Nat) (addr : Nat) : Only recoveryStopParts s
    (recoveryStop s c unit addr) := by
  unfold recoveryStop
  with_reducible refine Only.ite ?_ ?_
  · exact Only.refl _ _
  · extract_lets -merge +onlyGivenNames s0
    have h1 : Only recoveryStopParts s s0 := by
      unfold s0
      with_reducible refine Only.step (errRecord_only _ _ _ _ _ _ _) (by decide) ?_
      exact Only.refl _ _
    try clear_value s0
    extract_lets -merge +onlyGivenNames x2
    try clear_value x2
    extract_lets -merge +onlyGivenNames _ s3
    have h4 : Only recoveryStopParts s s3 := by
      unfold s3
      with_reducible refine Only.set_tw (by decide) ?_
      exact h1
    try clear_value s3
    extract_lets -merge +onlyGivenNames s5
    have h6 : Only recoveryStopParts s s5 := by
      unfold s5
      with_reducible refine Only.ite ?_ ?_
      · with_reducible refine Only.step (twYield_only _ _) (by decide) ?_
        exact h4
      · exact h4
    try clear_value s5
    extract_lets -merge +onlyGivenNames _ s7
    have h8 : Only recoveryStopParts s s7 := by
      unfold s7
      with_reducible refine Only.step (stopAll_only _ _) (by decide) ?_
      with_reducible refine Only.set_fr (by decide) ?_
      exact h6
    try clear_value s7
    extract_lets -merge +onlyGivenNames s9
    have h10 : Only recoveryStopParts s s9 := by
      unfold s9
      with_reducible refine Only.ite ?_ ?_
      · with_reducible refine Only.step (snapBegin_only _) (by decide) ?_
        exact h8
      · exact h8
    try clear_value s9
    with_reducible refine Only.step (chSample_only _ _) (by decide) ?_
    with_reducible refine Only.set_fr (by decide) ?_
    exact h10

/-- What `hostErr` may change. -/
def hostErrParts : List Field := [.boot]

theorem hostErr_only (s : State) : Only hostErrParts s (hostErr s) := by
  unfold hostErr
  with_reducible refine Only.set_boot (by decide) ?_
  exact Only.refl _ _

/-- What `hostCheck` may change. -/
def hostCheckParts : List Field := [.boot, .kp, .chime, .obs]

theorem hostCheck_only (s : State) (who : Who) (off : Nat) (write : Bool) (wide : Bool) : AccessOnly hostCheckParts s
    (hostCheck s who off write wide) := by
  unfold hostCheck
  with_reducible refine AccessOnly.ite ?_ ?_
  · with_reducible refine AccessOnly.ignored ?_
    exact Only.refl _ _
  · with_reducible refine AccessOnly.ite ?_ ?_
    · with_reducible refine AccessOnly.ignored ?_
      with_reducible refine Only.step (hostErr_only _) (by decide) ?_
      exact Only.refl _ _
    · with_reducible refine AccessOnly.ite ?_ ?_
      · with_reducible refine AccessOnly.ignored ?_
        exact Only.refl _ _
      · with_reducible refine AccessOnly.ite ?_ ?_
        · with_reducible refine AccessOnly.ignored ?_
          with_reducible refine Only.step (hostErr_only _) (by decide) ?_
          exact Only.refl _ _
        · with_reducible refine AccessOnly.ite ?_ ?_
          · with_reducible refine AccessOnly.ignored ?_
            with_reducible refine Only.step (hostErr_only _) (by decide) ?_
            exact Only.refl _ _
          · with_reducible refine AccessOnly.ite ?_ ?_
            · with_reducible refine AccessOnly.ignored ?_
              with_reducible refine Only.set_kp (by decide) ?_
              exact Only.refl _ _
            · with_reducible refine AccessOnly.ite ?_ ?_
              · with_reducible refine AccessOnly.ignored ?_
                with_reducible refine Only.ite ?_ ?_
                · with_reducible refine Only.step (accessDenied_only _) (by decide) ?_
                  exact Only.refl _ _
                · exact Only.refl _ _
              · exact AccessOnly.granted

theorem regCharge_only (s : State) (n : Nat) (charge : Nat) : Only endBarriersParts s (regCharge s n charge) := by
  unfold regCharge
  extract_lets -merge +onlyGivenNames x0
  try clear_value x0
  with_reducible refine Only.modQ (by decide) ?_ ?_
  · exact fun _ => SeqSub.refl _
  · exact Only.refl _ _

theorem hostWrite_only {l : List Field} {b s : State} {who : Who} {off : Nat} {wide : Bool} {f : State → State}
    (hl : (hostCheckParts.all fun f => decide (f ∈ l)) = true) (hf : ∀ u, Only l u (f u)) (h : Only l b s) :
    Only l b (hostWrite s who off wide f) := by
  unfold hostWrite
  split
  · exact Only.step (AccessOnly.of_ignored (hostCheck_only _ _ _ _ _) (by assumption)) hl h
  · exact h.trans (hf s)

theorem twHeld_only (s : State) (denied : Bool) : Only twReleaseParts s (twHeld s denied) := by
  unfold twHeld
  extract_lets -merge +onlyGivenNames _ s0
  have h1 : Only twReleaseParts s s0 := by
    unfold s0
    with_reducible refine Only.set_tw (by decide) ?_
    exact Only.refl _ _
  try clear_value s0
  with_reducible refine Only.ite ?_ ?_
  · with_reducible refine Only.step (twCode_only _ _) (by decide) ?_
    exact h1
  · exact h1

/-- What `flushUpdates` may change. -/
def flushUpdatesParts : List Field := [.run, .queues, .jobs, .cores, .counters, .updates, .flights, .sy, .tw, .links,
  .fr, .chime, .obs, .freeCount]

theorem flushUpdates_only (s : State) (n : Nat) : Only flushUpdatesParts s (flushUpdates s n) := by
  unfold flushUpdates
  extract_lets -merge +onlyGivenNames x0
  try clear_value x0
  extract_lets -merge +onlyGivenNames s1
  have h2 : Only flushUpdatesParts s s1 := by
    unfold s1
    with_reducible refine Only.set_updates (by decide) ?_
    exact Only.refl _ _
  try clear_value s1
  with_reducible refine Only.foldl ?_ ?_
  · intro u3 a4
    with_reducible refine Only.step (applyUpdate_only _ _) (by decide) ?_
    exact Only.refl _ _
  · exact h2

/-- What `rollback` may change. -/
def rollbackParts : List Field := [.cores, .counters, .sy, .fr, .chime, .obs, .freeCount]

theorem rollback_only (s : State) (j : Job) : Only rollbackParts s (rollback s j) := by
  unfold rollback
  with_reducible refine Only.foldl ?_ ?_
  · intro u0 a1
    with_reducible refine Only.ite ?_ ?_
    · exact Only.refl _ _
    · extract_lets -merge +onlyGivenNames x2
      try clear_value x2
      extract_lets -merge +onlyGivenNames x3
      with_reducible refine Only.step (watchStale_only _ _) (by decide) ?_
      with_reducible refine Only.step (ctrAdd_only _ _ _ _ _ _) (by decide) ?_
      exact Only.refl _ _
  · exact Only.refl _ _

end Sys2Proof.Machine
end

