-- ==== Sys2Proof/Laws/OnlyBeat.lean ====
section
/-! SUPPORT. Which parts of the state an operation may change, for admission, the swap, launches, the ends of jobs, commits
and the beat. -/

namespace Sys2Proof.Machine

theorem acceptYield_only (s : State) (fault : Bool) (lastRel : BitVec 48) : Only twReleaseParts s (acceptYield s fault
    lastRel) := by
  unfold acceptYield
  extract_lets -merge +onlyGivenNames x0
  try clear_value x0
  extract_lets -merge +onlyGivenNames _ s1
  have h2 : Only twReleaseParts s s1 := by
    unfold s1
    with_reducible refine Only.step (twPrimary_only _) (by decide) ?_
    with_reducible refine Only.set_tw (by decide) ?_
    exact Only.refl _ _
  try clear_value s1
  with_reducible refine Only.ite ?_ ?_
  · with_reducible refine Only.step (twCode_only _ _) (by decide) ?_
    exact h2
  · exact h2

theorem addLanes_only (g : Image) (pl : Placement) (s : State) (t : Station) : Only setCoreParts s (addLanes g pl s t) := by
  unfold addLanes
  with_reducible refine Only.foldl ?_ ?_
  · intro u0 a1
    with_reducible refine Only.step (State.modCore_only _ _ _) (by decide) ?_
    exact Only.refl _ _
  · exact Only.refl _ _

/-- What `shareSettle` may change. -/
def shareSettleParts : List Field := [.shares, .cores]

theorem shareSettle_only (s : State) : Only shareSettleParts s (shareSettle s) := by
  unfold shareSettle
  with_reducible refine Only.foldl ?_ ?_
  · intro u0 a1
    with_reducible refine Only.ite ?_ ?_
    · extract_lets -merge +onlyGivenNames x2
      try clear_value x2
      with_reducible refine Only.ite ?_ ?_
      · with_reducible refine Only.set_shares (by decide) ?_
        exact Only.refl _ _
      · with_reducible refine Only.foldl ?_ ?_
        · intro u3 a4
          with_reducible refine Only.step (clearRange_only _ _ _ _) (by decide) ?_
          exact Only.refl _ _
        · with_reducible refine Only.set_shares (by decide) ?_
          exact Only.refl _ _
    · exact Only.refl _ _
  · exact Only.refl _ _

/-- What `freeGen` may change. -/
def freeGenParts : List Field := [.kp, .gens, .cores]

theorem freeGen_only (s : State) (e : Nat) : Only freeGenParts s (freeGen s e) := by
  unfold freeGen
  with_reducible refine Only.set_kp_gens_cores (by decide) ?_
  exact Only.refl _ _

theorem genSettle_only (s : State) : Only freeGenParts s (genSettle s) := by
  unfold genSettle
  with_reducible refine Only.foldl ?_ ?_
  · intro u0 a1
    with_reducible refine Only.step (freeGen_only _ _) (by decide) ?_
    exact Only.refl _ _
  · exact Only.refl _ _

/-- What `afterJob` may change. -/
def afterJobParts : List Field := [.kp, .gens, .shares, .cores, .sec]

theorem afterJob_only (s : State) : Only afterJobParts s (afterJob s) := by
  unfold afterJob
  extract_lets -merge +onlyGivenNames s0
  have h1 : Only afterJobParts s s0 := by
    unfold s0
    with_reducible refine Only.step (shareSettle_only _) (by decide) ?_
    with_reducible refine Only.step (genSettle_only _) (by decide) ?_
    exact Only.refl _ _
  try clear_value s0
  with_reducible refine Only.ite ?_ ?_
  · with_reducible refine Only.step (eraseSettle_only _) (by decide) ?_
    with_reducible refine Only.step (eraseShares_only _) (by decide) ?_
    exact h1
  · exact h1

theorem boundFlags_only (s : State) : Only setObjParts s (boundFlags s) := by
  unfold boundFlags
  extract_lets -merge +onlyGivenNames x0
  try clear_value x0
  with_reducible refine Only.set_objs (by decide) ?_
  exact Only.refl _ _

/-- What `bindNow` may change. -/
def bindNowParts : List Field := [.writes, .mem, .poison, .au, .run, .basin, .pool, .gens, .objs, .ctxs, .queues,
  .insts, .rgParts, .fr, .chime, .obs, .freeCount]

theorem bindNow_only (s : State) (q : Nat) (c : Cmd) (handle : W32) (slot : W32) : Only bindNowParts s (bindNow s q c
    handle slot) := by
  unfold bindNow
  extract_lets -merge +onlyGivenNames x0
  try clear_value x0
  extract_lets -merge +onlyGivenNames x1
  try clear_value x1
  split
  · with_reducible refine Only.step (completeCmd_only _ _ _ _ _ _) (by decide) ?_
    exact Only.refl _ _
  · split
    · with_reducible refine Only.step (completeCmd_only _ _ _ _ _ _) (by decide) ?_
      exact Only.refl _ _
    · with_reducible refine Only.ite ?_ ?_
      · extract_lets -merge +onlyGivenNames s2
        have h3 : Only bindNowParts s s2 := by
          unfold s2
          with_reducible refine Only.set_basin (by decide) ?_
          exact Only.refl _ _
        try clear_value s2
        extract_lets -merge +onlyGivenNames s4
        have h5 : Only bindNowParts s s4 := by
          unfold s4
          with_reducible refine Only.step (State.modRun_only _ _) (by decide) ?_
          exact h3
        try clear_value s4
        with_reducible refine Only.step (completeCmd_only _ _ _ _ _ _) (by decide) ?_
        with_reducible refine Only.step (boundFlags_only _) (by decide) ?_
        exact h5
      · with_reducible refine Only.step (completeCmd_only _ _ _ _ _ _) (by decide) ?_
        exact Only.refl _ _

theorem applyBinds_only (s : State) : Only bindNowParts s (applyBinds s) := by
  unfold applyBinds
  with_reducible refine Only.foldl ?_ ?_
  · intro u0 a1
    split
    · with_reducible refine Only.step (bindNow_only _ _ _ _ _) (by decide) ?_
      exact Only.refl _ _
    · exact Only.refl _ _
  · exact Only.refl _ _

/-- What `mbDone` may change. -/
def mbDoneParts : List Field := [.insts, .chime, .obs]

theorem mbDone_only (s : State) (p : Nat) (code : BitVec 16) (rsp : List W64) : Only mbDoneParts s (mbDone s p code rsp) :=
    by
  unfold mbDone
  with_reducible refine Only.ite ?_ ?_
  · with_reducible refine Only.step (chSample_only _ _) (by decide) ?_
    with_reducible refine Only.step (State.modPage_only _ _ _) (by decide) ?_
    exact Only.refl _ _
  · exact Only.refl _ _

/-- What `traceDecide` may change. -/
def traceDecideParts : List Field := [.au, .chime, .obs, .obsCfg, .auIdle]

theorem traceDecide_only (s : State) : Only traceDecideParts s (traceDecide s) := by
  unfold traceDecide
  split
  · with_reducible refine Only.set_au_obs (by decide) ?_
    exact Only.refl _ _
  · split
    · with_reducible refine Only.set_au (by decide) ?_
      exact Only.refl _ _
    · with_reducible refine Only.step (auRecord_only _ _) (by decide) ?_
      with_reducible refine Only.set_au (by decide) ?_
      exact Only.refl _ _

theorem traceSettle_only (s : State) : Only traceDecideParts s (traceSettle s) := by
  unfold traceSettle
  with_reducible refine Only.ite ?_ ?_
  · with_reducible refine Only.step (traceDecide_only _) (by decide) ?_
    exact Only.refl _ _
  · exact Only.refl _ _

theorem auAbort_only (s : State) : Only traceDecideParts s (auAbort s) := by
  unfold auAbort
  with_reducible refine Only.step (traceSettle_only _) (by decide) ?_
  with_reducible refine Only.step (auStop_only _) (by decide) ?_
  exact Only.refl _ _

theorem auRefuseUnread_only (s : State) (code : BitVec 16) : Only auRecordParts s (auRefuseUnread s code) := by
  unfold auRefuseUnread
  with_reducible refine Only.step (auRefuse_only _ _) (by decide) ?_
  with_reducible refine Only.set_au (by decide) ?_
  exact Only.refl _ _

theorem auStart_only (s : State) : Only auRecordParts s (auStart s) := by
  unfold auStart
  with_reducible refine Only.ite ?_ ?_
  · exact Only.refl _ _
  · with_reducible refine Only.ite ?_ ?_
    · with_reducible refine Only.step (chSample_only _ _) (by decide) ?_
      with_reducible refine Only.set_au (by decide) ?_
      exact Only.refl _ _
    · with_reducible refine Only.ite ?_ ?_
      · with_reducible refine Only.step (lockRefuse_only _) (by decide) ?_
        exact Only.refl _ _
      · with_reducible refine Only.ite ?_ ?_
        · with_reducible refine Only.step (auRefuseUnread_only _ _) (by decide) ?_
          exact Only.refl _ _
        · with_reducible refine Only.set_au (by decide) ?_
          exact Only.refl _ _

theorem auCommand_only (s : State) (start : Bool) (abort : Bool) : Only traceDecideParts s (auCommand s start abort) := by
  unfold auCommand
  with_reducible refine Only.ite ?_ ?_
  · with_reducible refine Only.step (auAbort_only _) (by decide) ?_
    exact Only.refl _ _
  · with_reducible refine Only.ite ?_ ?_
    · with_reducible refine Only.step (auStart_only _) (by decide) ?_
      exact Only.refl _ _
    · exact Only.refl _ _

theorem auProved_only (s : State) (g : Image) : Only traceDecideParts s (auProved s g) := by
  unfold auProved
  split
  · with_reducible refine Only.step (traceSettle_only _) (by decide) ?_
    with_reducible refine Only.step (auRefuse_only _ _) (by decide) ?_
    exact Only.refl _ _
  · split
    · with_reducible refine Only.step (traceSettle_only _) (by decide) ?_
      with_reducible refine Only.step (auRefuse_only _ _) (by decide) ?_
      exact Only.refl _ _
    · extract_lets -merge +onlyGivenNames x0
      with_reducible refine Only.ite ?_ ?_
      · split
        · with_reducible refine Only.step (traceSettle_only _) (by decide) ?_
          with_reducible refine Only.step (auRefuse_only _ _) (by decide) ?_
          exact Only.refl _ _
        · with_reducible refine Only.set_au (by decide) ?_
          exact Only.refl _ _
      · with_reducible refine Only.set_au (by decide) ?_
        exact Only.refl _ _

/-- What `auVerified` may change. -/
def auVerifiedParts : List Field := [.au, .run, .insts, .jobs, .cores, .sec, .chime, .obs, .freeCount, .obsCfg, .auIdle]

theorem auVerified_only (s : State) : Only auVerifiedParts s (auVerified s) := by
  unfold auVerified
  extract_lets -merge +onlyGivenNames x0
  try clear_value x0
  extract_lets -merge +onlyGivenNames x1
  try clear_value x1
  with_reducible refine Only.ite ?_ ?_
  · with_reducible refine Only.step (traceSettle_only _) (by decide) ?_
    with_reducible refine Only.step (auRefuseUnread_only _ _) (by decide) ?_
    exact Only.refl _ _
  · extract_lets -merge +onlyGivenNames x2
    try clear_value x2
    extract_lets -merge +onlyGivenNames x3
    try clear_value x3
    extract_lets -merge +onlyGivenNames x4
    try clear_value x4
    extract_lets -merge +onlyGivenNames x5
    try clear_value x5
    extract_lets -merge +onlyGivenNames _ s6
    have h7 : Only auVerifiedParts s s6 := by
      unfold s6
      with_reducible refine Only.set_au (by decide) ?_
      exact Only.refl _ _
    try clear_value s6
    with_reducible refine Only.ite ?_ ?_
    · with_reducible refine Only.step (traceSettle_only _) (by decide) ?_
      with_reducible refine Only.step (tamperRaise_only _ _) (by decide) ?_
      with_reducible refine Only.step (auRefuse_only _ _) (by decide) ?_
      exact h7
    · extract_lets -merge +onlyGivenNames x8
      try clear_value x8
      split
      · with_reducible refine Only.step (traceSettle_only _) (by decide) ?_
        with_reducible refine Only.step (auRefuse_only _ _) (by decide) ?_
        exact h7
      · with_reducible refine Only.set_au (by decide) ?_
        exact h7

/-- What `latchReport` may change. -/
def latchReportParts : List Field := [.rgParts, .chime, .obs]

theorem latchReport_only (s : State) (p : Nat) : Only latchReportParts s (latchReport s p) := by
  unfold latchReport
  extract_lets -merge +onlyGivenNames x0
  try clear_value x0
  extract_lets -merge +onlyGivenNames x1
  try clear_value x1
  extract_lets -merge +onlyGivenNames s2
  have h3 : Only latchReportParts s s2 := by
    unfold s2
    with_reducible refine Only.step (State.setRgPart_only _ _ _) (by decide) ?_
    exact Only.refl _ _
  try clear_value s2
  with_reducible refine Only.ite ?_ ?_
  · with_reducible refine Only.step (chPulse_only _ _ _ _) (by decide) ?_
    exact h3
  · exact h3

/-- What `newBeat` may change. -/
def newBeatParts : List Field := [.ports, .esc, .run, .counters, .fr, .frCfg]

theorem newBeat_only (s : State) : Only newBeatParts s (newBeat s) := by
  unfold newBeat
  extract_lets -merge +onlyGivenNames x0
  try clear_value x0
  extract_lets -merge +onlyGivenNames x1
  try clear_value x1
  extract_lets -merge +onlyGivenNames x2
  try clear_value x2
  extract_lets -merge +onlyGivenNames _ _ s3
  have h4 : Only newBeatParts s s3 := by
    unfold s3
    with_reducible refine Only.set_ports_esc_counters_fr (by decide) ?_
    exact Only.refl _ _
  try clear_value s3
  with_reducible refine Only.step (State.modRun_only _ _) (by decide) ?_
  exact h4

theorem leaveGen_only (s : State) (e : Nat) : Only freeGenParts s (leaveGen s e) := by
  unfold leaveGen
  with_reducible refine Only.ite ?_ ?_
  · with_reducible refine Only.step (freeGen_only _ _) (by decide) ?_
    exact Only.refl _ _
  · with_reducible refine Only.step (State.modGen_only _ _ _) (by decide) ?_
    exact Only.refl _ _

theorem publishAt_only (s : State) (e : Nat) (g : Gen) : Only freeGenParts s (publishAt s e g) := by
  unfold publishAt
  extract_lets -merge +onlyGivenNames s0
  have h1 : Only freeGenParts s s0 := by
    unfold s0
    with_reducible refine Only.step (freeGen_only _ _) (by decide) ?_
    exact Only.refl _ _
  try clear_value s0
  extract_lets -merge +onlyGivenNames x2
  try clear_value x2
  extract_lets -merge +onlyGivenNames s3
  have h4 : Only freeGenParts s s3 := by
    unfold s3
    with_reducible refine Only.step (State.setGen_only _ _ _) (by decide) ?_
    exact h1
  try clear_value s3
  with_reducible refine Only.set_kp (by decide) ?_
  exact h4

theorem publish_only (s : State) (g : Gen) : Only freeGenParts s (publish s g) := by
  unfold publish
  split
  · with_reducible refine Only.step (publishAt_only _ _ _) (by decide) ?_
    exact Only.refl _ _
  · exact Only.refl _ _

theorem swapGens_only (s : State) (g : Image) : Only freeGenParts s (swapGens s g) := by
  unfold swapGens
  extract_lets -merge +onlyGivenNames s0
  have h1 : Only freeGenParts s s0 := by
    unfold s0
    with_reducible refine Only.foldl ?_ ?_
    · intro u2 a3
      with_reducible refine Only.step (leaveGen_only _ _) (by decide) ?_
      exact Only.refl _ _
    · exact Only.refl _ _
  try clear_value s0
  with_reducible refine Only.foldl ?_ ?_
  · intro u4 a5
    with_reducible refine Only.ite ?_ ?_
    · exact Only.refl _ _
    · with_reducible refine Only.step (publish_only _ _) (by decide) ?_
      exact Only.refl _ _
  · exact h1

/-- What `swapCounters` may change. -/
def swapCountersParts : List Field := [.queues, .counters]

theorem swapCounters_only (s : State) (decls : List (CounterDecl × Nat × Bool)) : Only swapCountersParts s (swapCounters s
    decls) := by
  unfold swapCounters
  extract_lets -merge +onlyGivenNames x0
  try clear_value x0
  extract_lets -merge +onlyGivenNames x1
  try clear_value x1
  extract_lets -merge +onlyGivenNames x2
  extract_lets -merge +onlyGivenNames x3
  extract_lets -merge +onlyGivenNames s4
  have h5 : Only swapCountersParts s s4 := by
    unfold s4
    refine Only.set_queues (by decide) (fun q => by
        exact mapQueues_sub _ _ _ (fun _ => by exact abandon_sub _ _ _)) ?_
    exact Only.refl _ _
  try clear_value s4
  extract_lets -merge +onlyGivenNames s6
  have h7 : Only swapCountersParts s s6 := by
    unfold s6
    with_reducible refine Only.set_counters (by decide) ?_
    exact h5
  try clear_value s6
  with_reducible refine Only.foldl ?_ ?_
  · intro u8 a9
    with_reducible refine Only.ite ?_ ?_
    · with_reducible refine Only.step (State.modCounter_only _ _ _) (by decide) ?_
      exact Only.refl _ _
    · with_reducible refine Only.step (State.setCounter_only _ _ _) (by decide) ?_
      exact Only.refl _ _
  · exact h7

theorem drawResidency_only (s : State) (l : List (Nat × Bool × Nat × Nat)) : SndOnly drawDigestParts s (drawResidency s l)
    := by
  unfold drawResidency
  extract_lets -merge +onlyGivenNames x0
  with_reducible refine SndOnly.mk ?_
  with_reducible refine Only.step (State.drawWords_only _ _) (by decide) ?_
  exact Only.refl _ _

/-- What `shareResidency` may change. -/
def shareResidencyParts : List Field := [.au, .freeCount, .auIdle]

theorem shareResidency_only (s : State) : Only shareResidencyParts s (shareResidency s) := by
  unfold shareResidency
  extract_lets -merge +onlyGivenNames x0
  extract_lets -merge +onlyGivenNames s1
  have h2 : Only shareResidencyParts s s1 := by
    unfold s1
    with_reducible refine Only.step (drawResidency_only _ _) (by decide) ?_
    exact Only.refl _ _
  try clear_value s1
  with_reducible refine Only.set_au (by decide) ?_
  exact h2

theorem fillResidency_only (s : State) (g : Image) (pl : Placement) : Only shareResidencyParts s (fillResidency s g pl) :=
    by
  unfold fillResidency
  extract_lets -merge +onlyGivenNames x0
  with_reducible refine Only.step (shareResidency_only _) (by decide) ?_
  extract_lets -merge +onlyGivenNames s1
  have h2 : Only shareResidencyParts s s1 := by
    unfold s1
    with_reducible refine Only.step (drawResidency_only _ _) (by decide) ?_
    exact Only.refl _ _
  try clear_value s1
  with_reducible refine Only.set_au (by decide) ?_
  exact h2

/-- What `loseQueue` may change. -/
def loseQueueParts : List Field := [.queues, .chime, .obs]

theorem loseQueue_only (s : State) (qn : Nat) : Only loseQueueParts s (loseQueue s qn) := by
  unfold loseQueue
  with_reducible refine Only.step (accessDeniedId_only _ _) (by decide) ?_
  with_reducible refine Only.modQ (by decide) ?_ ?_
  · exact fun _ => SeqSub.refl _
  · exact Only.refl _ _

theorem swapQueues_only (s : State) (granted : List Nat) : Only loseQueueParts s (swapQueues s granted) := by
  unfold swapQueues
  with_reducible refine Only.foldl ?_ ?_
  · intro u0 a1
    with_reducible refine Only.step (loseQueue_only _ _) (by decide) ?_
    exact Only.refl _ _
  · exact Only.refl _ _

/-- What `replaceShares` may change. -/
def replaceSharesParts : List Field := [.shares, .chime, .obs]

theorem replaceShares_only (s : State) (g : Image) (kept : List Nat) : Only replaceSharesParts s (replaceShares s g kept)
    := by
  unfold replaceShares
  extract_lets -merge +onlyGivenNames x0
  try clear_value x0
  with_reducible refine Only.foldl ?_ ?_
  · intro u1 a2
    with_reducible refine Only.ite ?_ ?_
    · with_reducible refine Only.set_shares (by decide) ?_
      exact Only.refl _ _
    · with_reducible refine Only.ite ?_ ?_
      · exact Only.refl _ _
      · split
        · with_reducible refine Only.set_shares (by decide) ?_
          exact Only.refl _ _
        · with_reducible refine Only.step (chPulse_only _ _ _ _) (by decide) ?_
          exact Only.refl _ _
  · with_reducible refine Only.set_shares (by decide) ?_
    exact Only.refl _ _

/-- What `swapTo` may change. -/
def swapToParts : List Field := [.writes, .mem, .poison, .esc, .au, .run, .basin, .pool, .kp, .gens, .objs, .ctxs,
  .queues, .insts, .shares, .rgParts, .cores, .counters, .sec, .tw, .fr, .chime, .obs, .freeCount, .auIdle]

theorem swapTo_only (s : State) (g : Image) (pl : Placement) (beat : BitVec 48) : Only swapToParts s (swapTo s g pl beat)
    := by
  unfold swapTo
  extract_lets -merge +onlyGivenNames x0
  try clear_value x0
  extract_lets -merge +onlyGivenNames x1
  try clear_value x1
  extract_lets -merge +onlyGivenNames x2
  try clear_value x2
  extract_lets -merge +onlyGivenNames x3
  try clear_value x3
  extract_lets -merge +onlyGivenNames x4
  try clear_value x4
  extract_lets -merge +onlyGivenNames x5
  try clear_value x5
  extract_lets -merge +onlyGivenNames x6
  try clear_value x6
  extract_lets -merge +onlyGivenNames x7
  try clear_value x7
  extract_lets -merge +onlyGivenNames x8
  try clear_value x8
  extract_lets -merge +onlyGivenNames s9
  have h10 : Only swapToParts s s9 := by
    unfold s9
    with_reducible refine Only.step (swapGens_only _ _) (by decide) ?_
    with_reducible refine Only.step (swapCounters_only _ _) (by decide) ?_
    exact Only.refl _ _
  try clear_value s9
  extract_lets -merge +onlyGivenNames _ _ s11
  have h12 : Only swapToParts s s11 := by
    unfold s11
    with_reducible refine Only.set_esc_run_basin_sec (by decide) ?_
    exact h10
  try clear_value s11
  extract_lets -merge +onlyGivenNames s13
  have h14 : Only swapToParts s s13 := by
    unfold s13
    with_reducible refine Only.foldl ?_ ?_
    · intro u15 a16
      with_reducible refine Only.step (State.modCore_only _ _ _) (by decide) ?_
      exact Only.refl _ _
    · exact h12
  try clear_value s13
  extract_lets -merge +onlyGivenNames s17
  have h18 : Only swapToParts s s17 := by
    unfold s17
    with_reducible refine Only.step (fillResidency_only _ _ _) (by decide) ?_
    with_reducible refine Only.step (swapQueues_only _ _) (by decide) ?_
    with_reducible refine Only.step (replaceShares_only _ _ _) (by decide) ?_
    with_reducible refine Only.step (boundFlags_only _) (by decide) ?_
    exact h14
  try clear_value s17
  extract_lets -merge +onlyGivenNames _ s19
  have h20 : Only swapToParts s s19 := by
    unfold s19
    with_reducible refine Only.ite ?_ ?_
    · with_reducible refine Only.set_tw (by decide) ?_
      exact h18
    · exact h18
  try clear_value s19
  extract_lets -merge +onlyGivenNames _ s21
  have h22 : Only swapToParts s s21 := by
    unfold s21
    with_reducible refine Only.set_au (by decide) ?_
    exact h20
  try clear_value s21
  with_reducible refine Only.step (chSample_only _ _) (by decide) ?_
  with_reducible refine Only.step (pumpAll_only _) (by decide) ?_
  with_reducible refine Only.step (poolSettle_only _) (by decide) ?_
  exact h22

/-- What `dropBinds` may change. -/
def dropBindsParts : List Field := [.run, .basin, .objs]

theorem dropBinds_only (s : State) : Only dropBindsParts s (dropBinds s) := by
  unfold dropBinds
  extract_lets -merge +onlyGivenNames x0
  extract_lets -merge +onlyGivenNames x1
  try clear_value x1
  extract_lets -merge +onlyGivenNames s2
  have h3 : Only dropBindsParts s s2 := by
    unfold s2
    with_reducible refine Only.step (State.modRun_only _ _) (by decide) ?_
    exact Only.refl _ _
  try clear_value s2
  with_reducible refine Only.step (boundFlags_only _) (by decide) ?_
  with_reducible refine Only.set_basin (by decide) ?_
  exact h3

/-- What `traceEdge` may change. -/
def traceEdgeParts : List Field := [.au, .obs, .obsCfg, .auIdle]

theorem traceEdge_only (s : State) : Only traceEdgeParts s (traceEdge s) := by
  unfold traceEdge
  extract_lets -merge +onlyGivenNames _ _ _ _ s0
  have h1 : Only traceEdgeParts s s0 := by
    unfold s0
    split
    · with_reducible refine Only.set_au_obs (by decide) ?_
      exact Only.refl _ _
    · with_reducible refine Only.set_au_obs (by decide) ?_
      exact Only.refl _ _
    · exact Only.refl _ _
  try clear_value s0
  with_reducible refine Only.set_obs (by decide) ?_
  exact h1

theorem twHandover_only (s : State) : Only linkSendParts s (twHandover s) := by
  unfold twHandover
  with_reducible refine Only.ite ?_ ?_
  · extract_lets -merge +onlyGivenNames _ s0
    have h1 : Only linkSendParts s s0 := by
      unfold s0
      with_reducible refine Only.set_tw (by decide) ?_
      exact Only.refl _ _
    try clear_value s0
    with_reducible refine Only.ite ?_ ?_
    · with_reducible refine Only.step (twSecondary_only _ _) (by decide) ?_
      exact h1
    · exact h1
  · exact Only.refl _ _

theorem twHeldYield_only (s : State) : Only twReleaseParts s (twHeldYield s) := by
  unfold twHeldYield
  split
  · exact Only.refl _ _
  · with_reducible refine Only.ite ?_ ?_
    · extract_lets -merge +onlyGivenNames _ s0
      have h1 : Only twReleaseParts s s0 := by
        unfold s0
        with_reducible refine Only.set_tw (by decide) ?_
        exact Only.refl _ _
      try clear_value s0
      with_reducible refine Only.ite ?_ ?_
      · with_reducible refine Only.step (twCode_only _ _) (by decide) ?_
        exact h1
      · with_reducible refine Only.step (acceptYield_only _ _ _) (by decide) ?_
        exact h1
    · exact Only.refl _ _

theorem twAlign_only (s : State) : Only countAuthParts s (twAlign s) := by
  unfold twAlign
  with_reducible refine Only.ite ?_ ?_
  · with_reducible refine Only.set_tw (by decide) ?_
    exact Only.refl _ _
  · exact Only.refl _ _

/-- What `beatEdge` may change. -/
def beatEdgeParts : List Field := [.ports, .writes, .mem, .poison, .esc, .au, .run, .basin, .pool, .kp, .gens, .objs,
  .ctxs, .queues, .insts, .shares, .rgParts, .cores, .counters, .sec, .tw, .links, .fr, .chime, .obs, .freeCount,
  .frCfg, .obsCfg, .auIdle]

theorem beatEdge_only (s : State) : Only beatEdgeParts s (beatEdge s) := by
  unfold beatEdge
  extract_lets -merge +onlyGivenNames s0
  have h1 : Only beatEdgeParts s s0 := by
    unfold s0
    with_reducible refine Only.foldl ?_ ?_
    · intro u2 a3
      with_reducible refine Only.step (latchReport_only _ _) (by decide) ?_
      exact Only.refl _ _
    · exact Only.refl _ _
  try clear_value s0
  extract_lets -merge +onlyGivenNames s4
  have h5 : Only beatEdgeParts s s4 := by
    unfold s4
    with_reducible refine Only.step (newBeat_only _) (by decide) ?_
    exact h1
  try clear_value s4
  extract_lets -merge +onlyGivenNames s6
  have h7 : Only beatEdgeParts s s6 := by
    unfold s6
    split
    · with_reducible refine Only.step (swapTo_only _ _ _ _) (by decide) ?_
      exact h5
    · exact h5
  try clear_value s6
  extract_lets -merge +onlyGivenNames s8
  have h9 : Only beatEdgeParts s s8 := by
    unfold s8
    with_reducible refine Only.step (applyBinds_only _) (by decide) ?_
    with_reducible refine Only.step (dropBinds_only _) (by decide) ?_
    with_reducible refine Only.step (traceEdge_only _) (by decide) ?_
    exact h7
  try clear_value s8
  with_reducible refine Only.step (traceSettle_only _) (by decide) ?_
  with_reducible refine Only.step (twHandover_only _) (by decide) ?_
  with_reducible refine Only.step (twHeldYield_only _) (by decide) ?_
  with_reducible refine Only.step (twAlign_only _) (by decide) ?_
  exact h9

/-- What `escBeat` may change. -/
def escBeatParts : List Field := [.esc, .obs]

theorem escBeat_only (s : State) : Only escBeatParts s (escBeat s) := by
  unfold escBeat
  extract_lets -merge +onlyGivenNames _ s0
  have h1 : Only escBeatParts s s0 := by
    unfold s0
    with_reducible refine Only.set_esc (by decide) ?_
    exact Only.refl _ _
  try clear_value s0
  with_reducible refine Only.step (traceKeeper_only _ _ _) (by decide) ?_
  exact h1

theorem overrunJob_only (s : State) (n : Nat) : Only haltCoreParts s (overrunJob s n) := by
  unfold overrunJob
  split
  · exact Only.refl _ _
  · with_reducible refine Only.ite ?_ ?_
    · exact Only.refl _ _
    · extract_lets -merge +onlyGivenNames s0
      have h1 : Only haltCoreParts s s0 := by
        unfold s0
        with_reducible refine Only.step (errRecord_only _ _ _ _ _ _ _) (by decide) ?_
        with_reducible refine Only.step (pmGlobal_only _ _ _) (by decide) ?_
        exact Only.refl _ _
      try clear_value s0
      with_reducible refine Only.ite ?_ ?_
      · exact h1
      · with_reducible refine Only.step (killJob_only _ _ _ _ _) (by decide) ?_
        with_reducible refine Only.step (reportKill_only _ _ _ _) (by decide) ?_
        exact h1

/-- What `closeWindow` may change. -/
def closeWindowParts : List Field := [.run, .jobs, .cores, .tw, .fr, .chime, .obs, .freeCount]

theorem closeWindow_only (s : State) (p : Nat) (w : Nat) : Only closeWindowParts s (closeWindow s p w) := by
  unfold closeWindow
  extract_lets -merge +onlyGivenNames s0
  have h1 : Only closeWindowParts s s0 := by
    unfold s0
    with_reducible refine Only.foldl ?_ ?_
    · intro u2 a3
      with_reducible refine Only.step (overrunJob_only _ _) (by decide) ?_
      exact Only.refl _ _
    · exact Only.refl _ _
  try clear_value s0
  extract_lets -merge +onlyGivenNames s4
  have h5 : Only closeWindowParts s s4 := by
    unfold s4
    with_reducible refine Only.foldl ?_ ?_
    · intro u6 a7
      with_reducible refine Only.step (State.modCore_only _ _ _) (by decide) ?_
      exact Only.refl _ _
    · exact h1
  try clear_value s4
  extract_lets -merge +onlyGivenNames s8
  have h9 : Only closeWindowParts s s8 := by
    unfold s8
    with_reducible refine Only.step (State.modRun_only _ _) (by decide) ?_
    exact h5
  try clear_value s8
  split
  · exact h9
  · with_reducible refine Only.ite ?_ ?_
    · with_reducible refine Only.step (twComplete_only _ _) (by decide) ?_
      exact h9
    · exact h9

theorem closeWindows_only (s : State) : Only closeWindowParts s (closeWindows s) := by
  unfold closeWindows
  split
  · exact Only.refl _ _
  · with_reducible refine Only.foldl ?_ ?_
    · intro u0 a1
      with_reducible refine Only.step (closeWindow_only _ _ _) (by decide) ?_
      exact Only.refl _ _
    · exact Only.refl _ _

/-- What `beatNow` may change. -/
def beatNowParts : List Field := [.ports, .writes, .mem, .poison, .esc, .au, .run, .basin, .pool, .kp, .gens, .objs,
  .ctxs, .queues, .insts, .shares, .rgParts, .jobs, .cores, .counters, .sec, .tw, .links, .fr, .chime, .obs,
  .freeCount, .frCfg, .obsCfg, .auIdle]

theorem beatNow_only (s : State) : Only beatNowParts s (beatNow s) := by
  unfold beatNow
  with_reducible refine Only.ite ?_ ?_
  · with_reducible refine Only.step (escBeat_only _) (by decide) ?_
    exact Only.refl _ _
  · with_reducible refine Only.step (beatEdge_only _) (by decide) ?_
    with_reducible refine Only.step (escBeat_only _) (by decide) ?_
    with_reducible refine Only.step (closeWindows_only _) (by decide) ?_
    exact Only.refl _ _

theorem flip_only (s : State) (roots : List Nat) : Only setObjParts s (flip s roots) := by
  unfold flip
  with_reducible refine Only.foldl ?_ ?_
  · intro u0 a1
    with_reducible refine Only.step (State.modObj_only _ _ _) (by decide) ?_
    exact Only.refl _ _
  · exact Only.refl _ _

theorem commitFence_only (s : State) (add : Bool) (target : W32) (off : Nat) (value : W64) (code : BitVec 16) : FstOnly
    blockWriteParts s (commitFence s add target off value code) := by
  unfold commitFence
  extract_lets -merge +onlyGivenNames x0
  try clear_value x0
  with_reducible refine FstOnly.ite ?_ ?_
  · with_reducible refine FstOnly.mk ?_
    exact Only.refl _ _
  · with_reducible refine FstOnly.ite ?_ ?_
    · with_reducible refine FstOnly.mk ?_
      exact Only.refl _ _
    · extract_lets -merge +onlyGivenNames x1
      try clear_value x1
      with_reducible refine FstOnly.mk ?_
      with_reducible refine Only.step (objWrite_only _ _ _ _ _) (by decide) ?_
      exact Only.refl _ _

theorem commitCounter_only (s : State) (add : Bool) (id : BitVec 17) (value : W32) : FstOnly rollbackParts s (commitCounter
    s add id value) := by
  unfold commitCounter
  split
  · with_reducible refine FstOnly.mk ?_
    exact Only.refl _ _
  · with_reducible refine FstOnly.mk ?_
    exact Only.refl _ _
  · with_reducible refine FstOnly.ite ?_ ?_
    · extract_lets -merge +onlyGivenNames x0
      with_reducible refine FstOnly.mk ?_
      with_reducible refine Only.step (watchStale_only _ _) (by decide) ?_
      with_reducible refine Only.step (ctrAdd_only _ _ _ _ _ _) (by decide) ?_
      exact Only.refl _ _
    · with_reducible refine FstOnly.mk ?_
      with_reducible refine Only.step (watchStale_only _ _) (by decide) ?_
      with_reducible refine Only.step (ctrSet_only _ _ _) (by decide) ?_
      exact Only.refl _ _

/-- What `commitMap` may change. -/
def commitMapParts : List Field := [.writes, .mem, .poison, .au, .pool, .gens, .objs, .insts, .chime, .obs]

theorem commitMap_only (s : State) (h : W32) (o : Obj) (initial : W64) : Only commitMapParts s (commitMap s h o initial) :=
    by
  unfold commitMap
  extract_lets -merge +onlyGivenNames x0
  try clear_value x0
  extract_lets -merge +onlyGivenNames s1
  have h2 : Only commitMapParts s s1 := by
    unfold s1
    with_reducible refine Only.step (poolCopy_only _ _) (by decide) ?_
    with_reducible refine Only.step (State.setObj_only _ _ _) (by decide) ?_
    exact Only.refl _ _
  try clear_value s1
  with_reducible refine Only.ite ?_ ?_
  · with_reducible refine Only.step (objWrite_only _ _ _ _ _) (by decide) ?_
    exact h2
  · exact h2

/-- What `commitEffect` may change. -/
def commitEffectParts : List Field := [.writes, .mem, .poison, .au, .pool, .gens, .objs, .ctxs, .insts, .cores,
  .counters, .sy, .fr, .chime, .obs, .freeCount, .obsCfg]

theorem commitEffect_only (s : State) (qn : Nat) (c : Cmd) : FstOnly commitEffectParts s (commitEffect s qn c) := by
  unfold commitEffect
  extract_lets -merge +onlyGivenNames x0
  try clear_value x0
  with_reducible refine FstOnly.ite ?_ ?_
  · with_reducible refine FstOnly.mk ?_
    exact Only.refl _ _
  · split
    · extract_lets -merge +onlyGivenNames s1
      have h2 : Only commitEffectParts s s1 := by
        unfold s1
        with_reducible refine Only.step (flip_only _ _) (by decide) ?_
        exact Only.refl _ _
      try clear_value s1
      with_reducible refine FstOnly.mk ?_
      exact h2
    · extract_lets -merge +onlyGivenNames s3
      have h4 : Only commitEffectParts s s3 := by
        unfold s3
        with_reducible refine Only.step (flip_only _ _) (by decide) ?_
        exact Only.refl _ _
      try clear_value s3
      with_reducible refine FstOnly.mk ?_
      exact h4
    · extract_lets -merge +onlyGivenNames s5
      have h6 : Only commitEffectParts s s5 := by
        unfold s5
        with_reducible refine Only.step (flip_only _ _) (by decide) ?_
        exact Only.refl _ _
      try clear_value s5
      with_reducible refine FstOnly.mk ?_
      exact h6
    · extract_lets -merge +onlyGivenNames x7
      with_reducible refine FstOnly.mk ?_
      with_reducible refine Only.step (commitFence_only _ _ _ _ _ _) (by decide) ?_
      with_reducible refine Only.ite ?_ ?_
      · with_reducible refine Only.step (fencePoison_only _ _ _ _) (by decide) ?_
        exact Only.refl _ _
      · exact Only.refl _ _
    · extract_lets -merge +onlyGivenNames x8
      with_reducible refine FstOnly.mk ?_
      with_reducible refine Only.step (commitCounter_only _ _ _ _) (by decide) ?_
      exact Only.refl _ _
    · with_reducible refine FstOnly.mk ?_
      with_reducible refine Only.step (commitMap_only _ _ _ _) (by decide) ?_
      exact Only.refl _ _
    · with_reducible refine FstOnly.mk ?_
      with_reducible refine Only.step (commitMap_only _ _ _ _) (by decide) ?_
      exact Only.refl _ _
    · with_reducible refine FstOnly.mk ?_
      with_reducible refine Only.step (objWrite_only _ _ _ _ _) (by decide) ?_
      exact Only.refl _ _
    · extract_lets -merge +onlyGivenNames x9
      try clear_value x9
      extract_lets -merge +onlyGivenNames s10
      have h11 : Only commitEffectParts s s10 := by
        unfold s10
        with_reducible refine Only.step (objWrite_only _ _ _ _ _) (by decide) ?_
        exact Only.refl _ _
      try clear_value s10
      with_reducible refine FstOnly.mk ?_
      with_reducible refine Only.ite ?_ ?_
      · with_reducible refine Only.ite ?_ ?_
        · with_reducible refine Only.set_obs (by decide) ?_
          exact h11
        · with_reducible refine Only.step (State.modCtx_only _ _ _) (by decide) ?_
          exact h11
      · exact h11
    · with_reducible refine FstOnly.mk ?_
      exact Only.refl _ _

theorem innerDone_only (s : State) (qn : Nat) (c : Cmd) (k : Nat) : Only completeCoreParts s (innerDone s qn c k) := by
  unfold innerDone
  split
  · with_reducible refine Only.modQ (by decide) ?_ ?_
    · exact fun _ => dropCmd_sub _ _
    · exact Only.refl _ _
  · extract_lets -merge +onlyGivenNames s0
    have h1 : Only completeCoreParts s s0 := by
      unfold s0
      with_reducible refine Only.modQ (by decide) ?_ ?_
      · exact fun q => innerDone_sub _ _ _ _
      · exact Only.refl _ _
    try clear_value s0
    with_reducible refine Only.ite ?_ ?_
    · with_reducible refine Only.step (pmBoth_only _ _ _ _) (by decide) ?_
      exact h1
    · exact h1

/-- What `recordCounts` may change. -/
def recordCountsParts : List Field := [.writes, .mem, .poison, .au, .pool, .gens, .ctxs, .insts, .chime, .obs, .obsCfg]

theorem recordCounts_only (s : State) (qn : Nat) (c : Cmd) : Only recordCountsParts s (recordCounts s qn c) := by
  unfold recordCounts
  extract_lets -merge +onlyGivenNames x0
  try clear_value x0
  split
  · exact Only.refl _ _
  · with_reducible refine Only.ite ?_ ?_
    · extract_lets -merge +onlyGivenNames _ s1
      have h2 : Only recordCountsParts s s1 := by
        unfold s1
        with_reducible refine Only.set_obs (by decide) ?_
        exact Only.refl _ _
      try clear_value s1
      extract_lets -merge +onlyGivenNames s3
      have h4 : Only recordCountsParts s s3 := by
        unfold s3
        with_reducible refine Only.step (objWrite_only _ _ _ _ _) (by decide) ?_
        exact h2
      try clear_value s3
      with_reducible refine Only.step (State.modCtx_only _ _ _) (by decide) ?_
      exact h4
    · with_reducible refine Only.step (pmBoth_only _ _ _ _) (by decide) ?_
      with_reducible refine Only.step (State.modCtx_only _ _ _) (by decide) ?_
      exact Only.refl _ _

/-- What `commitQueue` may change. -/
def commitQueueParts : List Field := [.writes, .mem, .poison, .au, .pool, .gens, .objs, .ctxs, .queues, .insts,
  .rgParts, .cores, .counters, .sy, .fr, .chime, .obs, .freeCount, .obsCfg]

theorem commitQueue_only (s : State) (qn : Nat) : Only commitQueueParts s (commitQueue s qn) := by
  unfold commitQueue
  extract_lets -merge +onlyGivenNames x0
  with_reducible refine Only.ite ?_ ?_
  · exact Only.refl _ _
  · split
    · exact Only.refl _ _
    · extract_lets -merge +onlyGivenNames x1
      extract_lets -merge +onlyGivenNames x2
      extract_lets -merge +onlyGivenNames x3
      extract_lets -merge +onlyGivenNames x4
      try clear_value x4
      extract_lets -merge +onlyGivenNames s5
      have h6 : Only commitQueueParts s s5 := by
        unfold s5
        with_reducible refine Only.step (pmBoth_only _ _ _ _) (by decide) ?_
        with_reducible refine Only.step (commitEffect_only _ _ _) (by decide) ?_
        exact Only.refl _ _
      try clear_value s5
      extract_lets -merge +onlyGivenNames s7
      have h8 : Only commitQueueParts s s7 := by
        unfold s7
        with_reducible refine Only.ite ?_ ?_
        · exact h6
        · with_reducible refine Only.step (pmBoth_only _ _ _ _) (by decide) ?_
          exact h6
      try clear_value s7
      extract_lets -merge +onlyGivenNames s9
      have h10 : Only commitQueueParts s s9 := by
        unfold s9
        with_reducible refine Only.step (traceDone_only _ _ _ _ _) (by decide) ?_
        exact h8
      try clear_value s9
      split
      · with_reducible refine Only.step (pumpAll_only _) (by decide) ?_
        with_reducible refine Only.step (innerDone_only _ _ _ _) (by decide) ?_
        exact h10
      · extract_lets -merge +onlyGivenNames x11
        extract_lets -merge +onlyGivenNames s12
        have h13 : Only commitQueueParts s s12 := by
          unfold s12
          with_reducible refine Only.step (recordCounts_only _ _ _) (by decide) ?_
          with_reducible refine Only.modQ (by decide) ?_ ?_
          · exact fun _ => modCmd_sub _ _ _ (fun _ _ => rfl)
          · exact h10
        try clear_value s12
        with_reducible refine Only.step (pumpAll_only _) (by decide) ?_
        with_reducible refine Only.step (writeRecordTail_only _ _ _) (by decide) ?_
        exact h13

theorem setStatus_only (s : State) (st : Nat) (b : StationBeat) : Only modRunParts s (setStatus s st b) := by
  unfold setStatus
  with_reducible refine Only.step (State.modRun_only _ _) (by decide) ?_
  exact Only.refl _ _

/-- What `commitStation` may change. -/
def commitStationParts : List Field := [.run, .kp, .gens, .objs, .shares, .jobs, .cores, .sec]

theorem commitStation_only (s : State) (st : Nat) : Only commitStationParts s (commitStation s st) := by
  unfold commitStation
  split
  · exact Only.refl _ _
  · with_reducible refine Only.ite ?_ ?_
    · extract_lets -merge +onlyGivenNames x0
      try clear_value x0
      extract_lets -merge +onlyGivenNames s1
      have h2 : Only commitStationParts s s1 := by
        unfold s1
        with_reducible refine Only.foldl ?_ ?_
        · intro u3 a4
          with_reducible refine Only.step (State.dropJob_only _ _) (by decide) ?_
          with_reducible refine Only.step (flip_only _ _) (by decide) ?_
          exact Only.refl _ _
        · exact Only.refl _ _
      try clear_value s1
      with_reducible refine Only.step (afterJob_only _) (by decide) ?_
      with_reducible refine Only.step (setStatus_only _ _ _) (by decide) ?_
      exact h2
    · exact Only.refl _ _

theorem releaseHeld_only (s : State) (c : Nat) : Only killGraphParts s (releaseHeld s c) := by
  unfold releaseHeld
  extract_lets -merge +onlyGivenNames x0
  try clear_value x0
  with_reducible refine Only.ite ?_ ?_
  · split
    · split
      · with_reducible refine Only.step (killJob_only _ _ _ _ _) (by decide) ?_
        exact Only.refl _ _
      · exact Only.refl _ _
    · exact Only.refl _ _
  · exact Only.refl _ _

/-- What `freeQueue` may change. -/
def freeQueueParts : List Field := [.queues, .rg]

theorem freeQueue_only (s : State) (qn : Nat) : Only freeQueueParts s (freeQueue s qn) := by
  unfold freeQueue
  extract_lets -merge +onlyGivenNames s0
  have h1 : Only freeQueueParts s s0 := by
    unfold s0
    with_reducible refine Only.setQ (by decide) ?_ ?_
    · exact List.nil_sublist _
    · exact Only.refl _ _
  try clear_value s0
  split
  · with_reducible refine Only.ite ?_ ?_
    · with_reducible refine Only.set_rg (by decide) (by rfl) ?_
      exact h1
    · exact h1
  · exact h1

/-- What `destroySettle` may change. -/
def destroySettleParts : List Field := [.queues, .insts, .rg, .chime, .obs]

theorem destroySettle_only (s : State) (qn : Nat) : Only destroySettleParts s (destroySettle s qn) := by
  unfold destroySettle
  extract_lets -merge +onlyGivenNames x0
  split
  · exact Only.refl _ _
  · with_reducible refine Only.ite ?_ ?_
    · with_reducible refine Only.step (mbDone_only _ _ _ _) (by decide) ?_
      with_reducible refine Only.step (freeQueue_only _ _) (by decide) ?_
      exact Only.refl _ _
    · exact Only.refl _ _

/-- What `preemptDone` may change. -/
def preemptDoneParts : List Field := [.rg]

theorem preemptDone_only (s : State) (n : Nat) (killed : Bool) : Only preemptDoneParts s (preemptDone s n killed) := by
  unfold preemptDone
  with_reducible refine Only.ite ?_ ?_
  · extract_lets -merge +onlyGivenNames x0
    try clear_value x0
    with_reducible refine Only.set_rg (by decide) (by rfl) ?_
    exact Only.refl _ _
  · exact Only.refl _ _

theorem traceJob_only (s : State) (c : Nat) (j : Job) (entry : Nat) (kind : Nat) : Only traceKeeperParts s (traceJob s c j
    entry kind) := by
  unfold traceJob
  with_reducible refine Only.step (traceCore_only _ _ _ _) (by decide) ?_
  exact Only.refl _ _

theorem idleCores_only (s : State) (cs : List Nat) : Only setCoreParts s (idleCores s cs) := by
  unfold idleCores
  with_reducible refine Only.foldl ?_ ?_
  · intro u0 a1
    with_reducible refine Only.step (State.modCore_only _ _ _) (by decide) ?_
    exact Only.refl _ _
  · exact Only.refl _ _

/-- What `endJob` may change. -/
def endJobParts : List Field := [.writes, .mem, .poison, .au, .run, .pool, .kp, .gens, .ctxs, .queues, .insts, .shares,
  .rg, .rgParts, .jobs, .cores, .sec, .fr, .chime, .obs, .freeCount]

theorem endJob_only (s : State) (n : Nat) (j : Job) : Only endJobParts s (endJob s n j) := by
  unfold endJob
  extract_lets -merge +onlyGivenNames s0
  have h1 : Only endJobParts s s0 := by
    unfold s0
    with_reducible refine Only.step (preemptDone_only _ _ _) (by decide) ?_
    exact Only.refl _ _
  try clear_value s0
  extract_lets -merge +onlyGivenNames s2
  have h3 : Only endJobParts s s2 := by
    unfold s2
    with_reducible refine Only.foldl ?_ ?_
    · intro u4 a5
      with_reducible refine Only.step (traceJob_only _ _ _ _ _) (by decide) ?_
      exact Only.refl _ _
    · exact h1
  try clear_value s2
  extract_lets -merge +onlyGivenNames s6
  have h7 : Only endJobParts s s6 := by
    unfold s6
    with_reducible refine Only.step (idleCores_only _ _) (by decide) ?_
    exact h3
  try clear_value s6
  split
  · with_reducible refine Only.step (shareSettle_only _) (by decide) ?_
    with_reducible refine Only.step (setStatus_only _ _ _) (by decide) ?_
    with_reducible refine Only.step (State.setJob_only _ _ _) (by decide) ?_
    exact h7
  · extract_lets -merge +onlyGivenNames s8
    have h9 : Only endJobParts s s8 := by
      unfold s8
      with_reducible refine Only.step (regCharge_only _ _ _) (by decide) ?_
      with_reducible refine Only.step (State.dropJob_only _ _) (by decide) ?_
      exact h7
    try clear_value s8
    extract_lets -merge +onlyGivenNames s10
    have h11 : Only endJobParts s s10 := by
      unfold s10
      with_reducible refine Only.step (addCounts_only _ _ _) (by decide) ?_
      exact h9
    try clear_value s10
    extract_lets -merge +onlyGivenNames s12
    have h13 : Only endJobParts s s12 := by
      unfold s12
      with_reducible refine Only.modQ (by decide) ?_ ?_
      · exact fun _ => modCmd_sub _ _ _ (fun _ h => h)
      · exact h11
    try clear_value s12
    with_reducible refine Only.step (afterJob_only _) (by decide) ?_
    with_reducible refine Only.step (gvUpdate_only _ _) (by decide) ?_
    with_reducible refine Only.step (completeCmd_only _ _ _ _ _ _) (by decide) ?_
    exact h13

theorem requeue_only (s : State) (q : Nat) (seqNo : Nat) : Only pumpAllParts s (requeue s q seqNo) := by
  unfold requeue
  with_reducible refine Only.step (pumpAll_only _) (by decide) ?_
  with_reducible refine Only.modQ (by decide) ?_ ?_
  · exact fun _ => modCmd_sub _ _ _ (fun _ h => h)
  · exact Only.refl _ _

theorem endKilledLaunch_only (s : State) (j : Job) (q : Nat) (index : W32) (seqNo : Nat) : Only pumpAllParts s
    (endKilledLaunch s j q index seqNo) := by
  unfold endKilledLaunch
  with_reducible refine Only.ite ?_ ?_
  · with_reducible refine Only.step (requeue_only _ _ _) (by decide) ?_
    exact Only.refl _ _
  · with_reducible refine Only.ite ?_ ?_
    · with_reducible refine Only.step (pumpAll_only _) (by decide) ?_
      with_reducible refine Only.modQ (by decide) ?_ ?_
      · exact fun _ => dropCmd_sub _ _
      · exact Only.refl _ _
    · extract_lets -merge +onlyGivenNames s0
      have h1 : Only pumpAllParts s s0 := by
        unfold s0
        with_reducible refine Only.step (traceDone_only _ _ _ _ _) (by decide) ?_
        exact Only.refl _ _
      try clear_value s0
      extract_lets -merge +onlyGivenNames s2
      have h3 : Only pumpAllParts s s2 := by
        unfold s2
        with_reducible refine Only.modQ (by decide) ?_ ?_
        · exact fun _ => modCmd_sub _ _ _ (fun _ h => h)
        · exact h1
      try clear_value s2
      with_reducible refine Only.step (completeCmd_only _ _ _ _ _ _) (by decide) ?_
      exact h3

/-- What `execStart` may change. -/
def execStartParts : List Field := [.boot, .au, .kp, .chime, .obs, .obsCfg, .auIdle]

theorem execStart_only (who : Who) (s : State) : NextOnly execStartParts s (execStart who s) := by
  unfold execStart
  with_reducible refine NextOnly.next ?_
  with_reducible refine hostWrite_only (by decide) ?_ ?_
  · intro u0 
    with_reducible refine Only.step (auCommand_only _ _ _) (by decide) ?_
    exact Only.refl _ _
  · exact Only.refl _ _

theorem execAbort_only (who : Who) (s : State) : NextOnly execStartParts s (execAbort who s) := by
  unfold execAbort
  with_reducible refine NextOnly.next ?_
  with_reducible refine hostWrite_only (by decide) ?_ ?_
  · intro u0 
    with_reducible refine Only.step (auCommand_only _ _ _) (by decide) ?_
    exact Only.refl _ _
  · exact Only.refl _ _

theorem execAdmissionVerifyDone_only (v : Unit) (s : State) : NextOnly auVerifiedParts s (execAdmissionVerifyDone v s) := by
  unfold execAdmissionVerifyDone
  with_reducible refine NextOnly.ite ?_ ?_
  · with_reducible refine NextOnly.ite ?_ ?_
    · with_reducible refine NextOnly.next ?_
      with_reducible refine Only.step (auVerified_only _) (by decide) ?_
      exact Only.refl _ _
    · exact NextOnly.fault _
  · with_reducible refine NextOnly.next ?_
    exact Only.refl _ _

/-- What `execAdmissionProveDone` may change. -/
def execAdmissionProveDoneParts : List Field := [.au, .chime, .obs, .freeCount, .obsCfg, .auIdle]

theorem execAdmissionProveDone_only (s : State) : NextOnly execAdmissionProveDoneParts s (execAdmissionProveDone s) := by
  unfold execAdmissionProveDone
  split
  · with_reducible refine NextOnly.next ?_
    with_reducible refine Only.step (auProved_only _ _) (by decide) ?_
    with_reducible refine Only.step (shareResidency_only _) (by decide) ?_
    exact Only.refl _ _
  · with_reducible refine NextOnly.next ?_
    exact Only.refl _ _

/-- What `firstSwap` may change. -/
def firstSwapParts : List Field := [.frozen, .writes, .mem, .poison, .esc, .au, .run, .basin, .pool, .kp, .gens, .objs,
  .ctxs, .queues, .insts, .shares, .rgParts, .cores, .counters, .sec, .tw, .fr, .chime, .obs, .freeCount, .obsCfg,
  .auIdle]

theorem firstSwap_only (s : State) (g : Image) (pl : Placement) : Only firstSwapParts s (firstSwap s g pl) := by
  unfold firstSwap
  extract_lets -merge +onlyGivenNames _ s0
  have h1 : Only firstSwapParts s s0 := by
    unfold s0
    with_reducible refine Only.set_frozen_esc (by decide) ?_
    exact Only.refl _ _
  try clear_value s0
  extract_lets -merge +onlyGivenNames s2
  have h3 : Only firstSwapParts s s2 := by
    unfold s2
    with_reducible refine Only.step (traceKeeper_only _ _ _) (by decide) ?_
    exact h1
  try clear_value s2
  with_reducible refine Only.step (traceSettle_only _) (by decide) ?_
  with_reducible refine Only.step (swapTo_only _ _ _ _) (by decide) ?_
  exact h3

theorem execFirstImageSwap_only (s : State) : NextOnly firstSwapParts s (execFirstImageSwap s) := by
  unfold execFirstImageSwap
  split
  · with_reducible refine NextOnly.next ?_
    with_reducible refine Only.ite ?_ ?_
    · exact Only.refl _ _
    · with_reducible refine Only.step (firstSwap_only _ _ _) (by decide) ?_
      exact Only.refl _ _
  · with_reducible refine NextOnly.next ?_
    exact Only.refl _ _

theorem execBeat_only (s : State) : NextOnly beatNowParts s (execBeat s) := by
  unfold execBeat
  with_reducible refine NextOnly.next ?_
  with_reducible refine Only.ite ?_ ?_
  · with_reducible refine Only.step (beatNow_only _) (by decide) ?_
    exact Only.refl _ _
  · exact Only.refl _ _

theorem resetLanes_only (s : State) (r : Running) (p : Nat) (w : Nat) : Only setCoreParts s (resetLanes s r p w) := by
  unfold resetLanes
  extract_lets -merge +onlyGivenNames s0
  have h1 : Only setCoreParts s s0 := by
    unfold s0
    with_reducible refine Only.foldl ?_ ?_
    · intro u2 a3
      with_reducible refine Only.step (State.modCore_only _ _ _) (by decide) ?_
      exact Only.refl _ _
    · exact Only.refl _ _
  try clear_value s0
  with_reducible refine Only.foldl ?_ ?_
  · intro u4 a5
    with_reducible refine Only.step (addLanes_only _ _ _ _) (by decide) ?_
    exact Only.refl _ _
  · exact h1

/-- What `skipStation` may change. -/
def skipStationParts : List Field := [.run, .rgParts, .chime, .obs]

theorem skipStation_only (p : Nat) (s : State) (st : Nat) : Only skipStationParts s (skipStation p s st) := by
  unfold skipStation
  extract_lets -merge +onlyGivenNames s0
  have h1 : Only skipStationParts s s0 := by
    unfold s0
    with_reducible refine Only.step (State.modRgPart_only _ _ _) (by decide) ?_
    exact Only.refl _ _
  try clear_value s0
  with_reducible refine Only.step (setStatus_only _ _ _) (by decide) ?_
  with_reducible refine Only.step (pmGlobal_only _ _ _) (by decide) ?_
  exact h1

/-- What `openWindow` may change. -/
def openWindowParts : List Field := [.run, .rgParts, .cores, .chime, .obs]

theorem openWindow_only (s : State) (r : Running) (p : Nat) (w : Nat) : Only openWindowParts s (openWindow s r p w) := by
  unfold openWindow
  extract_lets -merge +onlyGivenNames s0
  have h1 : Only openWindowParts s s0 := by
    unfold s0
    with_reducible refine Only.step (State.modRun_only _ _) (by decide) ?_
    exact Only.refl _ _
  try clear_value s0
  extract_lets -merge +onlyGivenNames s2
  have h3 : Only openWindowParts s s2 := by
    unfold s2
    with_reducible refine Only.step (resetLanes_only _ _ _ _) (by decide) ?_
    exact h1
  try clear_value s2
  with_reducible refine Only.ite ?_ ?_
  · exact h3
  · with_reducible refine Only.foldl ?_ ?_
    · intro u4 a5
      with_reducible refine Only.step (skipStation_only _ _ _) (by decide) ?_
      exact Only.refl _ _
    · exact h3

theorem execWindowStart_only (part : BitVec 3) (win : BitVec 3) (s : State) : NextOnly openWindowParts s (execWindowStart
    part win s) := by
  unfold execWindowStart
  split
  · with_reducible refine NextOnly.next ?_
    exact Only.refl _ _
  · with_reducible refine NextOnly.next ?_
    with_reducible refine Only.ite ?_ ?_
    · with_reducible refine Only.step (openWindow_only _ _ _ _) (by decide) ?_
      exact Only.refl _ _
    · exact Only.refl _ _

theorem execWindowEnd_only (part : BitVec 3) (win : BitVec 3) (s : State) : NextOnly closeWindowParts s (execWindowEnd part
    win s) := by
  unfold execWindowEnd
  split
  · with_reducible refine NextOnly.next ?_
    exact Only.refl _ _
  · with_reducible refine NextOnly.next ?_
    with_reducible refine Only.ite ?_ ?_
    · with_reducible refine Only.step (closeWindow_only _ _ _) (by decide) ?_
      exact Only.refl _ _
    · exact Only.refl _ _

/-- What `launchJob` may change. -/
def launchJobParts : List Field := [.jobs, .nextJob, .cores, .obs]

theorem launchJob_only (s : State) (j : Job) (entry : Nat) (queue : Nat) (args : List W64) : Only launchJobParts s
    (launchJob s j entry queue args) := by
  unfold launchJob
  extract_lets -merge +onlyGivenNames x0
  try clear_value x0
  extract_lets -merge +onlyGivenNames s1
  have h2 : Only launchJobParts s s1 := by
    unfold s1
    with_reducible refine Only.step (State.setJob_only _ _ _) (by decide) ?_
    exact Only.refl _ _
  try clear_value s1
  extract_lets -merge +onlyGivenNames s3
  have h4 : Only launchJobParts s s3 := by
    unfold s3
    with_reducible refine Only.set_nextJob (by decide) ?_
    exact h2
  try clear_value s3
  extract_lets -merge +onlyGivenNames s5
  have h6 : Only launchJobParts s s5 := by
    unfold s5
    with_reducible refine Only.step (traceKeeper_only _ _ _) (by decide) ?_
    exact h4
  try clear_value s5
  with_reducible refine Only.foldl ?_ ?_
  · intro u7 a8
    with_reducible refine Only.step (traceJob_only _ _ _ _ _) (by decide) ?_
    with_reducible refine Only.step (State.setCore_only _ _ _) (by decide) ?_
    exact Only.refl _ _
  · exact h6

/-- What `launchStation` may change. -/
def launchStationParts : List Field := [.run, .jobs, .nextJob, .cores, .obs]

theorem launchStation_only (s : State) (r : Running) (t : Station) (e : Nat) : Only launchStationParts s (launchStation s r
    t e) := by
  unfold launchStation
  extract_lets -merge +onlyGivenNames x0
  try clear_value x0
  extract_lets -merge +onlyGivenNames x1
  try clear_value x1
  extract_lets -merge +onlyGivenNames x2
  try clear_value x2
  extract_lets -merge +onlyGivenNames s3
  have h4 : Only launchStationParts s s3 := by
    unfold s3
    with_reducible refine Only.foldl ?_ ?_
    · intro u5 a6
      with_reducible refine Only.step (State.modCore_only _ _ _) (by decide) ?_
      exact Only.refl _ _
    · exact Only.refl _ _
  try clear_value s3
  with_reducible refine Only.step (launchJob_only _ _ _ _ _) (by decide) ?_
  with_reducible refine Only.step (setStatus_only _ _ _) (by decide) ?_
  exact h4

theorem execStationLaunch_only (st : BitVec 12) (s : State) : NextOnly launchStationParts s (execStationLaunch st s) := by
  unfold execStationLaunch
  split
  · with_reducible refine NextOnly.next ?_
    exact Only.refl _ _
  · split
    · with_reducible refine NextOnly.next ?_
      exact Only.refl _ _
    · split
      · with_reducible refine NextOnly.next ?_
        exact Only.refl _ _
      · with_reducible refine NextOnly.next ?_
        with_reducible refine Only.ite ?_ ?_
        · with_reducible refine Only.step (launchStation_only _ _ _ _) (by decide) ?_
          exact Only.refl _ _
        · exact Only.refl _ _

/-- What `launchFree` may change. -/
def launchFreeParts : List Field := [.queues, .rgParts, .jobs, .nextJob, .cores, .obs]

theorem launchFree_only (s : State) (p : Nat) (qn : Nat) (c : Cmd) (cores : List Nat) : Only launchFreeParts s (launchFree
    s p qn c cores) := by
  unfold launchFree
  split
  · extract_lets -merge +onlyGivenNames x0
    extract_lets -merge +onlyGivenNames x1
    try clear_value x1
    extract_lets -merge +onlyGivenNames x2
    try clear_value x2
    extract_lets -merge +onlyGivenNames x3
    extract_lets -merge +onlyGivenNames x4
    try clear_value x4
    extract_lets -merge +onlyGivenNames x5
    try clear_value x5
    extract_lets -merge +onlyGivenNames x6
    try clear_value x6
    extract_lets -merge +onlyGivenNames s7
    have h8 : Only launchFreeParts s s7 := by
      unfold s7
      with_reducible refine Only.modQ (by decide) ?_ ?_
      · exact fun _ => modCmd_sub _ _ _ (fun _ h => h)
      · exact Only.refl _ _
    try clear_value s7
    extract_lets -merge +onlyGivenNames s9
    have h10 : Only launchFreeParts s s9 := by
      unfold s9
      with_reducible refine Only.step (State.modRgPart_only _ _ _) (by decide) ?_
      exact h8
    try clear_value s9
    with_reducible refine Only.step (launchJob_only _ _ _ _ _) (by decide) ?_
    exact h10
  · exact Only.refl _ _

/-- What `offerOne` may change. -/
def offerOneParts : List Field := [.run, .queues, .rgParts, .jobs, .nextJob, .cores, .obs]

theorem offerOne_only (p : Nat) (w : Window) (t : Nat) (s : State) (x : Nat × Cmd) : Only offerOneParts s (offerOne p w t s
    x) := by
  unfold offerOne
  split
  · exact Only.refl _ _
  · extract_lets -merge +onlyGivenNames x0
    try clear_value x0
    extract_lets -merge +onlyGivenNames x1
    try clear_value x1
    with_reducible refine Only.ite ?_ ?_
    · exact Only.refl _ _
    · with_reducible refine Only.ite ?_ ?_
      · with_reducible refine Only.step (State.modRun_only _ _) (by decide) ?_
        with_reducible refine Only.step (State.modRgPart_only _ _ _) (by decide) ?_
        exact Only.refl _ _
      · extract_lets -merge +onlyGivenNames x2
        try clear_value x2
        extract_lets -merge +onlyGivenNames x3
        try clear_value x3
        with_reducible refine Only.ite ?_ ?_
        · exact Only.refl _ _
        · with_reducible refine Only.step (launchFree_only _ _ _ _ _) (by decide) ?_
          exact Only.refl _ _

/-- What `offerRounds` may change. -/
def offerRoundsParts : List Field := [.writes, .mem, .poison, .au, .run, .pool, .gens, .ctxs, .queues, .insts,
  .rgParts, .jobs, .nextJob, .cores, .fr, .chime, .obs, .freeCount]

theorem offerRounds_only (p : Nat) (w : Window) (t k : Nat) (s : State) : Only offerRoundsParts s (offerRounds p w t k s) := by
  induction k generalizing s with
  | zero => exact Only.refl _ _
  | succ k ih =>
    unfold offerRounds
    extract_lets -merge +onlyGivenNames s1
    have h : Only offerRoundsParts s s1 := by
      unfold s1
      with_reducible refine Only.foldl ?_ ?_
      · intro u a
        with_reducible refine Only.step (offerOne_only _ _ _ _ _) (by decide) ?_
        exact Only.refl _ _
      · exact Only.refl _ _
    clear_value s1
    with_reducible refine Only.ite ?_ ?_
    · exact h
    · with_reducible refine Only.step (ih _) (by decide) ?_
      with_reducible refine Only.step (pumpAll_only _) (by decide) ?_
      exact h

theorem offerAll_only (s : State) (p : Nat) (w : Window) (t : Nat) : Only offerRoundsParts s (offerAll s p w t) := by
  unfold offerAll
  with_reducible refine Only.step (regEval_only _) (by decide) ?_
  with_reducible refine Only.step (offerRounds_only _ _ _ _ _) (by decide) ?_
  exact Only.refl _ _

theorem execFreeLaunch_only (part : BitVec 3) (t : W32) (s : State) : NextOnly offerRoundsParts s (execFreeLaunch part t s)
    := by
  unfold execFreeLaunch
  split
  · with_reducible refine NextOnly.next ?_
    exact Only.refl _ _
  · split
    · with_reducible refine NextOnly.next ?_
      exact Only.refl _ _
    · split
      · with_reducible refine NextOnly.next ?_
        exact Only.refl _ _
      · with_reducible refine NextOnly.next ?_
        with_reducible refine Only.ite ?_ ?_
        · with_reducible refine Only.step (offerAll_only _ _ _ _) (by decide) ?_
          exact Only.refl _ _
        · exact Only.refl _ _

theorem execBoundOverrun_only (core : BitVec 4) (s : State) : NextOnly haltCoreParts s (execBoundOverrun core s) := by
  unfold execBoundOverrun
  extract_lets -merge +onlyGivenNames x0
  try clear_value x0
  extract_lets -merge +onlyGivenNames x1
  try clear_value x1
  with_reducible refine NextOnly.ite ?_ ?_
  · extract_lets -merge +onlyGivenNames x2
    try clear_value x2
    extract_lets -merge +onlyGivenNames s3
    have h4 : Only haltCoreParts s s3 := by
      unfold s3
      with_reducible refine Only.step (State.setCore_only _ _ _) (by decide) ?_
      exact Only.refl _ _
    try clear_value s3
    with_reducible refine NextOnly.next ?_
    with_reducible refine Only.step (haltAt_only _ _ _ _ _) (by decide) ?_
    exact h4
  · with_reducible refine NextOnly.next ?_
    exact Only.refl _ _

theorem execHoldTimeout_only (core : BitVec 4) (s : State) : NextOnly killGraphParts s (execHoldTimeout core s) := by
  unfold execHoldTimeout
  with_reducible refine NextOnly.next ?_
  with_reducible refine Only.step (releaseHeld_only _ _) (by decide) ?_
  exact Only.refl _ _

theorem execJobEnd_only (core : BitVec 4) (s : State) : NextOnly endJobParts s (execJobEnd core s) := by
  unfold execJobEnd
  split
  · with_reducible refine NextOnly.next ?_
    exact Only.refl _ _
  · split
    · with_reducible refine NextOnly.next ?_
      exact Only.refl _ _
    · with_reducible refine NextOnly.next ?_
      with_reducible refine Only.ite ?_ ?_
      · with_reducible refine Only.step (endJob_only _ _ _) (by decide) ?_
        exact Only.refl _ _
      · exact Only.refl _ _

/-- What `indexWrite` may change. -/
def indexWriteParts : List Field := [.writes, .mem, .poison, .au, .pool, .gens, .ctxs, .queues, .insts, .rg, .rgParts,
  .fr, .chime, .obs, .freeCount]

theorem indexWrite_only (s : State) (qn : Nat) : Only indexWriteParts s (indexWrite s qn) := by
  unfold indexWrite
  extract_lets -merge +onlyGivenNames x0
  split
  · exact Only.refl _ _
  · with_reducible refine Only.ite ?_ ?_
    · extract_lets -merge +onlyGivenNames s1
      have h2 : Only indexWriteParts s s1 := by
        unfold s1
        with_reducible refine Only.step (objWrite_only _ _ _ _ _) (by decide) ?_
        exact Only.refl _ _
      try clear_value s1
      extract_lets -merge +onlyGivenNames s3
      have h4 : Only indexWriteParts s s3 := by
        unfold s3
        with_reducible refine Only.modQ (by decide) ?_ ?_
        · exact fun _ => dropCmd_sub _ _
        · exact h2
      try clear_value s3
      extract_lets -merge +onlyGivenNames x5
      try clear_value x5
      extract_lets -merge +onlyGivenNames s6
      have h7 : Only indexWriteParts s s6 := by
        unfold s6
        with_reducible refine Only.ite ?_ ?_
        · with_reducible refine Only.step (chPulse_only _ _ _ _) (by decide) ?_
          exact h4
        · exact h4
      try clear_value s6
      with_reducible refine Only.step (pumpAll_only _) (by decide) ?_
      with_reducible refine Only.step (destroySettle_only _ _) (by decide) ?_
      exact h7
    · exact Only.refl _ _

theorem execCompletionIndexWrite_only (queue : BitVec 13) (s : State) : NextOnly indexWriteParts s
    (execCompletionIndexWrite queue s) := by
  unfold execCompletionIndexWrite
  with_reducible refine NextOnly.next ?_
  with_reducible refine Only.step (indexWrite_only _ _) (by decide) ?_
  exact Only.refl _ _

/-- What `touchGen` may change. -/
def touchGenParts : List Field := [.kp, .gens]

theorem touchGen_only (s : State) (e : Nat) : Only touchGenParts s (touchGen s e) := by
  unfold touchGen
  extract_lets -merge +onlyGivenNames s0
  have h1 : Only touchGenParts s s0 := by
    unfold s0
    with_reducible refine Only.step (State.modGen_only _ _ _) (by decide) ?_
    exact Only.refl _ _
  try clear_value s0
  with_reducible refine Only.set_kp (by decide) ?_
  exact h1

/-- What `preemptAccounts` may change. -/
def preemptAccountsParts : List Field := [.queues, .rgParts, .chime, .obs]

theorem preemptAccounts_only (s : State) (j : Job) : Only preemptAccountsParts s (preemptAccounts s j) := by
  unfold preemptAccounts
  with_reducible refine Only.ite ?_ ?_
  · extract_lets -merge +onlyGivenNames s0
    have h1 : Only preemptAccountsParts s s0 := by
      unfold s0
      with_reducible refine Only.step (State.modRgPart_only _ _ _) (by decide) ?_
      with_reducible refine Only.step (pmGlobal_only _ _ _) (by decide) ?_
      exact Only.refl _ _
    try clear_value s0
    split
    · exact h1
    · with_reducible refine Only.modQ (by decide) ?_ ?_
      · exact fun _ => SeqSub.refl _
      · exact h1
  · exact Only.refl _ _

/-- What `killFinal` may change. -/
def killFinalParts : List Field := [.writes, .mem, .poison, .au, .run, .pool, .kp, .gens, .ctxs, .queues, .insts,
  .shares, .rg, .rgParts, .jobs, .cores, .counters, .updates, .flights, .sy, .sec, .tw, .links, .fr, .chime, .obs,
  .freeCount]

theorem killFinal_only (s : State) (n : Nat) (j : Job) : Only killFinalParts s (killFinal s n j) := by
  unfold killFinal
  extract_lets -merge +onlyGivenNames s0
  have h1 : Only killFinalParts s s0 := by
    unfold s0
    with_reducible refine Only.step (flushUpdates_only _ _) (by decide) ?_
    exact Only.refl _ _
  try clear_value s0
  extract_lets -merge +onlyGivenNames x2
  try clear_value x2
  extract_lets -merge +onlyGivenNames s3
  have h4 : Only killFinalParts s s3 := by
    unfold s3
    with_reducible refine Only.step (breakArrivals_only _ _) (by decide) ?_
    with_reducible refine Only.step (rollback_only _ _) (by decide) ?_
    exact h1
  try clear_value s3
  extract_lets -merge +onlyGivenNames s5
  have h6 : Only killFinalParts s s5 := by
    unfold s5
    with_reducible refine Only.step (preemptDone_only _ _ _) (by decide) ?_
    with_reducible refine Only.step (preemptAccounts_only _ _) (by decide) ?_
    with_reducible refine Only.step (pmGlobal_only _ _ _) (by decide) ?_
    with_reducible refine Only.step (State.dropJob_only _ _) (by decide) ?_
    exact h4
  try clear_value s5
  split
  · with_reducible refine Only.step (afterJob_only _) (by decide) ?_
    with_reducible refine Only.step (setStatus_only _ _ _) (by decide) ?_
    exact h6
  · extract_lets -merge +onlyGivenNames x7
    try clear_value x7
    extract_lets -merge +onlyGivenNames s8
    have h9 : Only killFinalParts s s8 := by
      unfold s8
      with_reducible refine Only.step (regCharge_only _ _ _) (by decide) ?_
      exact h6
    try clear_value s8
    extract_lets -merge +onlyGivenNames s10
    have h11 : Only killFinalParts s s10 := by
      unfold s10
      with_reducible refine Only.step (addCounts_only _ _ _) (by decide) ?_
      exact h9
    try clear_value s10
    extract_lets -merge +onlyGivenNames s12
    have h13 : Only killFinalParts s s12 := by
      unfold s12
      with_reducible refine Only.step (afterJob_only _) (by decide) ?_
      with_reducible refine Only.step (gvUpdate_only _ _) (by decide) ?_
      with_reducible refine Only.step (endKilledLaunch_only _ _ _ _ _) (by decide) ?_
      exact h11
    try clear_value s12
    with_reducible refine Only.ite ?_ ?_
    · exact h13
    · with_reducible refine Only.step (pumpAll_only _) (by decide) ?_
      exact h13

theorem killCore_only (s : State) (c : Nat) : Only killFinalParts s (killCore s c) := by
  unfold killCore
  split
  · exact Only.refl _ _
  · split
    · exact Only.refl _ _
    · with_reducible refine Only.ite ?_ ?_
      · extract_lets -merge +onlyGivenNames s0
        have h1 : Only killFinalParts s s0 := by
          unfold s0
          with_reducible refine Only.step (idleCores_only _ _) (by decide) ?_
          with_reducible refine Only.step (traceJob_only _ _ _ _ _) (by decide) ?_
          exact Only.refl _ _
        try clear_value s0
        extract_lets -merge +onlyGivenNames x2
        try clear_value x2
        extract_lets -merge +onlyGivenNames s3
        have h4 : Only killFinalParts s s3 := by
          unfold s3
          with_reducible refine Only.step (State.setJob_only _ _ _) (by decide) ?_
          exact h1
        try clear_value s3
        with_reducible refine Only.ite ?_ ?_
        · with_reducible refine Only.step (killFinal_only _ _ _) (by decide) ?_
          exact h4
        · exact h4
      · exact Only.refl _ _

end Sys2Proof.Machine
end

