-- ==== Sys2Proof/Laws/OnlyCores.lean ====
section
/-! SUPPORT. Which parts of the state an operation may change, for the cores: control, matrix, vector and stream rows, the
Keeper tick and the loader verifier. -/

namespace Sys2Proof.Machine

theorem State.fetchAt_only (s : State) (c : Nat) (j : Job) : Only setCoreParts s (s.fetchAt c j) := by
  unfold State.fetchAt
  with_reducible refine Only.step (State.modCore_only _ _ _) (by decide) ?_
  exact Only.refl _ _

theorem State.modMe_only (s : State) (c : Nat) (f : Matrix → Matrix) : Only setCoreParts s (s.modMe c f) := by
  unfold State.modMe
  with_reducible refine Only.step (State.modCore_only _ _ _) (by decide) ?_
  exact Only.refl _ _

theorem State.modSe_only (s : State) (c : Nat) (f : Stream → Stream) : Only setCoreParts s (s.modSe c f) := by
  unfold State.modSe
  with_reducible refine Only.step (State.modCore_only _ _ _) (by decide) ?_
  exact Only.refl _ _

theorem State.modVe_only (s : State) (c : Nat) (f : Vector' → Vector') : Only setCoreParts s (s.modVe c f) := by
  unfold State.modVe
  with_reducible refine Only.step (State.modCore_only _ _ _) (by decide) ?_
  exact Only.refl _ _

theorem killDead_only (s : State) (c : Nat) (n : Nat) (code : BitVec 16) : Only haltCoreParts s (killDead s c n code) := by
  unfold killDead
  with_reducible refine Only.step (killJob_only _ _ _ _ _) (by decide) ?_
  with_reducible refine Only.step (errRecord_only _ _ _ _ _ _ _) (by decide) ?_
  exact Only.refl _ _

theorem killWaiter_only (s : State) (c : Nat) : Only haltCoreParts s (killWaiter s c) := by
  unfold killWaiter
  split
  · exact Only.refl _ _
  · with_reducible refine Only.ite ?_ ?_
    · split
      · split
        · with_reducible refine Only.step (killDead_only _ _ _ _) (by decide) ?_
          exact Only.refl _ _
        · exact Only.refl _ _
      · exact Only.refl _ _
    · exact Only.refl _ _

theorem killWaiters_only (s : State) : Only haltCoreParts s (killWaiters s) := by
  unfold killWaiters
  with_reducible refine Only.foldl ?_ ?_
  · intro u0 a1
    with_reducible refine Only.step (killWaiter_only _ _) (by decide) ?_
    exact Only.refl _ _
  · exact Only.refl _ _

theorem stallFrame_only (s : State) (c : Nat) (j : Job) : Only traceKeeperParts s (stallFrame s c j) := by
  unfold stallFrame
  extract_lets -merge +onlyGivenNames x0
  try clear_value x0
  with_reducible refine Only.ite ?_ ?_
  · exact Only.refl _ _
  · with_reducible refine Only.step (traceCore_only _ _ _ _) (by decide) ?_
    exact Only.refl _ _

/-- What `endStall` may change. -/
def endStallParts : List Field := [.cores, .obs]

theorem endStall_only (s : State) (c : Nat) (j : Job) : Only endStallParts s (endStall s c j) := by
  unfold endStall
  with_reducible refine Only.ite ?_ ?_
  · exact Only.refl _ _
  · with_reducible refine Only.step (State.modCore_only _ _ _) (by decide) ?_
    with_reducible refine Only.step (stallFrame_only _ _ _) (by decide) ?_
    exact Only.refl _ _

theorem stall_only (s : State) (c : Nat) (j : Job) (kind : BitVec 3) : Only endStallParts s (stall s c j kind) := by
  unfold stall
  with_reducible refine Only.ite ?_ ?_
  · exact Only.refl _ _
  · with_reducible refine Only.step (State.modCore_only _ _ _) (by decide) ?_
    with_reducible refine Only.step (endStall_only _ _ _) (by decide) ?_
    exact Only.refl _ _

theorem setWatch_only (s : State) (c : Nat) (v : Nat) : Only setCoreParts s (setWatch s c v) := by
  unfold setWatch
  extract_lets -merge +onlyGivenNames x0
  try clear_value x0
  extract_lets -merge +onlyGivenNames x1
  try clear_value x1
  with_reducible refine Only.ite ?_ ?_
  · split
    · with_reducible refine Only.ite ?_ ?_
      · exact Only.refl _ _
      · with_reducible refine Only.step (State.setCore_only _ _ _) (by decide) ?_
        exact Only.refl _ _
    · with_reducible refine Only.step (State.setCore_only _ _ _) (by decide) ?_
      exact Only.refl _ _
  · exact Only.refl _ _

/-- What `takeCounter` may change. -/
def takeCounterParts : List Field := [.run, .jobs, .cores, .counters, .fr, .chime, .obs, .freeCount]

theorem takeCounter_only (s : State) (c : Nat) (n : Nat) (j : Job) (id : BitVec 17) (thr : W32) : Only takeCounterParts s
    (takeCounter s c n j id thr) := by
  unfold takeCounter
  extract_lets -merge +onlyGivenNames x0
  try clear_value x0
  with_reducible refine Only.ite ?_ ?_
  · with_reducible refine Only.step (haltAt_only _ _ _ _ _) (by decide) ?_
    exact Only.refl _ _
  · extract_lets -merge +onlyGivenNames s1
    have h2 : Only takeCounterParts s s1 := by
      unfold s1
      with_reducible refine Only.step (State.modCounter_only _ _ _) (by decide) ?_
      exact Only.refl _ _
    try clear_value s1
    with_reducible refine Only.step (watchStale_only _ _) (by decide) ?_
    with_reducible refine Only.ite ?_ ?_
    · with_reducible refine Only.step (State.setJob_only _ _ _) (by decide) ?_
      exact h2
    · exact h2

theorem waitIssue_only (s : State) (c : Nat) (n : Nat) (j : Job) (v : Nat) : Only takeCounterParts s (waitIssue s c n j v)
    := by
  unfold waitIssue
  extract_lets -merge +onlyGivenNames x0
  try clear_value x0
  split
  · with_reducible refine Only.step (State.setCore_only _ _ _) (by decide) ?_
    exact Only.refl _ _
  · with_reducible refine Only.step (takeCounter_only _ _ _ _ _ _) (by decide) ?_
    exact Only.refl _ _
  · exact Only.refl _ _

theorem resolveDeferred_only (s : State) (n : Nat) : Only killGraphParts s (resolveDeferred s n) := by
  unfold resolveDeferred
  split
  · exact Only.refl _ _
  · with_reducible refine Only.ite ?_ ?_
    · with_reducible refine Only.step (killJob_only _ _ _ _ _) (by decide) ?_
      exact Only.refl _ _
    · exact Only.refl _ _

theorem issueNow_only {l : List Field} {b s : State} {c n : Nat} {j : Job} {i : Ins}
    {act : State → Nat → Job → Ins → Sig → State}
    (hl : ((takeCounterParts ++ endStallParts ++ killGraphParts ++ setCoreParts).all fun f => decide (f ∈ l)) = true)
    (hf : ∀ u n j i sig, Only l u (act u n j i sig)) (h : Only l b s) : Only l b (issueNow s c n j i act) := by
  rw [List.all_append, List.all_append, List.all_append, Bool.and_eq_true, Bool.and_eq_true, Bool.and_eq_true] at hl
  unfold issueNow
  extract_lets -merge +onlyGivenNames sig s1
  have h1 : Only l b s1 := Only.step (waitIssue_only _ _ _ _ _) hl.1.1.1 (Only.step (endStall_only _ _ _) hl.1.1.2 h)
  clear_value s1
  split
  · exact h1
  · exact Only.step (resolveDeferred_only _ _) hl.1.2 (Only.trans (Only.step (State.modCore_only _ _ _) hl.2 h1) (hf _ _ _ _ _))

theorem issueReady_only {l : List Field} {b s : State} {c n : Nat} {j : Job} {i : Ins} {p : Plan}
    {act : State → Nat → Job → Ins → Sig → State}
    (hl : ((takeCounterParts ++ endStallParts ++ killGraphParts ++ setCoreParts ++ haltCoreParts ++ endStallParts).all
      fun f => decide (f ∈ l)) = true)
    (hf : ∀ u n j i sig, Only l u (act u n j i sig)) (h : Only l b s) : Only l b (issueReady s c n j i p act) := by
  rw [List.all_append, List.all_append, Bool.and_eq_true, Bool.and_eq_true] at hl
  obtain ⟨⟨hi, h1⟩, h2⟩ := hl
  have hs : ∀ k, Only l b (stall s c j k) := fun _ => Only.step (stall_only _ _ _ _) h2 h
  unfold issueReady
  refine Only.ite (hs _) (Only.ite (hs _) (Only.ite h ?_))
  split
  · exact Only.step (haltAt_only _ _ _ _ _) h1 h
  · exact issueNow_only hi hf h

theorem issueTry_only {l : List Field} {b s : State} {c n : Nat} {j : Job} {i : Ins} {legal : Bool}
    {p : Plan} {act : State → Nat → Job → Ins → Sig → State}
    (hl : ((takeCounterParts ++ endStallParts ++ killGraphParts ++ setCoreParts ++ haltCoreParts ++ endStallParts ++
      haltCoreParts ++ haltCoreParts ++ setCoreParts).all fun f => decide (f ∈ l)) = true)
    (hf : ∀ u n j i sig, Only l u (act u n j i sig)) (h : Only l b s) : Only l b (issueTry s c n j i legal p act) := by
  have hl' := hl
  rw [List.all_append, List.all_append, List.all_append, List.all_append, List.all_append, Bool.and_eq_true, Bool.and_eq_true,
    Bool.and_eq_true, Bool.and_eq_true, Bool.and_eq_true] at hl
  obtain ⟨⟨⟨⟨⟨hi, h1⟩, h2⟩, h5⟩, h3⟩, h4⟩ := hl
  have hr : ((takeCounterParts ++ endStallParts ++ killGraphParts ++ setCoreParts ++ haltCoreParts ++ endStallParts).all
      fun f => decide (f ∈ l)) = true := by
    rw [List.all_append, List.all_append, List.all_append, Bool.and_eq_true, Bool.and_eq_true, Bool.and_eq_true] at hl'
    exact hl'.1.1.1
  have hh : ∀ code off data, Only l b (haltAt s c code off data) := fun _ _ _ => Only.step (haltAt_only _ _ _ _ _) h1 h
  have hs : ∀ u j k, Only l b u → Only l b (stall u c j k) := fun _ _ _ g => Only.step (stall_only _ _ _ _) h2 g
  unfold issueTry
  extract_lets -merge +onlyGivenNames pc
  refine Only.ite (hh _ _ _) (Only.ite (hs _ _ _ h) (Only.ite (hh _ _ _) ?_))
  split
  · exact Only.step (haltReaders_only _ _ _ _) h5 h
  · exact hh _ _ _
  · exact hh _ _ _
  · refine Only.ite (hh _ _ _) ?_
    split
    · exact Only.step (killDead_only _ _ _ _) h3 h
    · exact hs _ _ _ (Only.step (setWatch_only _ _ _) h4 h)
    · exact issueReady_only hr hf h
    · exact issueReady_only hr hf h

theorem coreRow_only {l : List Field} {b s : State} {c op : Nat} {legal : Job → Ins → Bool}
    {plan : State → Job → Ins → Plan} {act : State → Nat → Job → Ins → Sig → State}
    (hl : ((setCoreParts ++ haltCoreParts ++ endStallParts ++ (takeCounterParts ++ endStallParts ++ killGraphParts ++
      setCoreParts ++ haltCoreParts ++ endStallParts ++ haltCoreParts ++ haltCoreParts ++ setCoreParts)).all
        fun f => decide (f ∈ l)) = true)
    (hf : ∀ u n j i sig, Only l u (act u n j i sig)) (h : Only l b s) : Only l b (coreRow s c op legal plan act) := by
  rw [List.all_append, List.all_append, List.all_append, Bool.and_eq_true, Bool.and_eq_true, Bool.and_eq_true] at hl
  obtain ⟨⟨⟨h0, h1⟩, h2⟩, hi⟩ := hl
  unfold coreRow
  split
  · exact h
  · extract_lets -merge +onlyGivenNames pc
    split
    · exact h
    · exact Only.step (stall_only _ _ _ _) h2 h
    · exact Only.step (haltAt_only _ _ _ _ _) h1 h
    · exact Only.ite h (issueTry_only hi hf (Only.step (State.fetchAt_only _ _ _) h0 h))

/-- What `sendSignal` may change. -/
def sendSignalParts : List Field := [.run, .jobs, .cores, .updates, .fr, .chime, .obs, .freeCount]

theorem sendSignal_only (s : State) (c : Nat) (pc : Nat) (stream : Bool) (sig : Sig) : Only sendSignalParts s (sendSignal s
    c pc stream sig) := by
  unfold sendSignal
  split
  · exact Only.refl _ _
  · split
    · exact Only.refl _ _
    · with_reducible refine Only.ite ?_ ?_
      · exact Only.refl _ _
      · split
        · with_reducible refine Only.ite ?_ ?_
          · with_reducible refine Only.step (fireSignal_only _ _ _ _ _ _) (by decide) ?_
            exact Only.refl _ _
          · with_reducible refine Only.step (haltAt_only _ _ _ _ _) (by decide) ?_
            exact Only.refl _ _
        · with_reducible refine Only.step (fireSignal_only _ _ _ _ _ _) (by decide) ?_
          exact Only.refl _ _

theorem doneAt_only (pc : Nat) (sig : Sig) (s : State) (c : Nat) : Only sendSignalParts s (doneAt pc sig s c) := by
  unfold doneAt
  with_reducible refine Only.step (sendSignal_only _ _ _ _ _) (by decide) ?_
  exact Only.refl _ _

/-- What `alu` may change. -/
def aluParts : List Field := [.run, .jobs, .cores, .counters, .updates, .fr, .chime, .obs, .freeCount]

theorem alu_only (s : State) (c : Nat) (op : Nat) (f : W64 → W64 → W64) : Only aluParts s (alu s c op f) := by
  unfold alu
  with_reducible refine coreRow_only (by decide) ?_ ?_
  · intro u0 a1 a2 a3 a4
    with_reducible refine Only.step (doneAt_only _ _ _ _) (by decide) ?_
    with_reducible refine Only.step (State.modCore_only _ _ _) (by decide) ?_
    exact Only.refl _ _
  · exact Only.refl _ _

theorem beginOp_only (s : State) (c : Nat) (t : Nat) (o : StreamOp) : Only setCoreParts s (beginOp s c t o) := by
  unfold beginOp
  with_reducible refine Only.step (State.modSe_only _ _ _) (by decide) ?_
  exact Only.refl _ _

theorem traceFlow_only (s : State) (c : Nat) (j : Job) (pc : Nat) (target : Nat) : Only endStallParts s (traceFlow s c j pc
    target) := by
  unfold traceFlow
  extract_lets -merge +onlyGivenNames x0
  try clear_value x0
  extract_lets -merge +onlyGivenNames s1
  have h2 : Only endStallParts s s1 := by
    unfold s1
    with_reducible refine Only.ite ?_ ?_
    · exact Only.refl _ _
    · with_reducible refine Only.step (traceCore_only _ _ _ _) (by decide) ?_
      exact Only.refl _ _
  try clear_value s1
  with_reducible refine Only.step (State.modCore_only _ _ _) (by decide) ?_
  exact h2

theorem branchRow_only (s : State) (c : Nat) (op : Nat) (target : Core → Ins → ℤ) (taken : Core → Ins → Bool) (link : Bool)
    : Only aluParts s (branchRow s c op target taken link) := by
  unfold branchRow
  with_reducible refine coreRow_only (by decide) ?_ ?_
  · intro u0 a1 a2 a3 a4
    extract_lets -merge +onlyGivenNames x5
    try clear_value x5
    extract_lets -merge +onlyGivenNames x6
    try clear_value x6
    extract_lets -merge +onlyGivenNames x7
    try clear_value x7
    with_reducible refine Only.ite ?_ ?_
    · extract_lets -merge +onlyGivenNames s8
      have h9 : Only aluParts u0 s8 := by
        unfold s8
        with_reducible refine Only.step (traceFlow_only _ _ _ _ _) (by decide) ?_
        exact Only.refl _ _
      try clear_value s8
      with_reducible refine Only.step (doneAt_only _ _ _ _) (by decide) ?_
      with_reducible refine Only.step (State.modCore_only _ _ _) (by decide) ?_
      exact h9
    · with_reducible refine Only.step (doneAt_only _ _ _ _) (by decide) ?_
      exact Only.refl _ _
  · exact Only.refl _ _

/-- What `markPoison` may change. -/
def markPoisonParts : List Field := [.poison]

theorem markPoison_only (s : State) (a : Nat) (len : Nat) : Only markPoisonParts s (markPoison s a len) := by
  unfold markPoison
  with_reducible refine Only.set_poison (by decide) ?_
  exact Only.refl _ _

/-- What `coreCycle` may change. -/
def coreCycleParts : List Field := [.rgParts, .jobs, .cores, .chime, .obs]

theorem coreCycle_only (frozen : Bool) (s : State) (c : Nat) : Only coreCycleParts s (coreCycle frozen s c) := by
  unfold coreCycle
  extract_lets -merge +onlyGivenNames x0
  try clear_value x0
  split
  · exact Only.refl _ _
  · extract_lets -merge +onlyGivenNames s1
    have h2 : Only coreCycleParts s s1 := by
      unfold s1
      with_reducible refine Only.ite ?_ ?_
      · with_reducible refine Only.step (State.setCore_only _ _ _) (by decide) ?_
        exact Only.refl _ _
      · exact Only.refl _ _
    try clear_value s1
    extract_lets -merge +onlyGivenNames s3
    have h4 : Only coreCycleParts s s3 := by
      unfold s3
      with_reducible refine Only.step (pmJob_only _ _ _ _) (by decide) ?_
      exact h2
    try clear_value s3
    extract_lets -merge +onlyGivenNames s5
    have h6 : Only coreCycleParts s s5 := by
      unfold s5
      with_reducible refine Only.ite ?_ ?_
      · with_reducible refine Only.step (pmJob_only _ _ _ _) (by decide) ?_
        exact h4
      · exact h4
    try clear_value s5
    split
    · exact h6
    · with_reducible refine Only.step (State.modRgPart_only _ _ _) (by decide) ?_
      exact h6

theorem coreCycles_only (s : State) : Only coreCycleParts s (coreCycles s) := by
  unfold coreCycles
  with_reducible refine Only.foldl ?_ ?_
  · intro u0 a1
    with_reducible refine Only.step (State.modCore_only _ _ _) (by decide) ?_
    with_reducible refine Only.step (coreCycle_only _ _ _) (by decide) ?_
    exact Only.refl _ _
  · exact Only.refl _ _

theorem counterLost_only (s : State) (u : Update) : Only applyUpdateParts s (counterLost s u) := by
  unfold counterLost
  extract_lets -merge +onlyGivenNames x0
  try clear_value x0
  with_reducible refine Only.ite ?_ ?_
  · with_reducible refine Only.step (updKill_only _ _ _) (by decide) ?_
    with_reducible refine Only.step (syFault_only _ _ _ _ _ _ _ _) (by decide) ?_
    with_reducible refine Only.step (ctrFault_only _ _ _) (by decide) ?_
    with_reducible refine Only.step (pmGlobal_only _ _ _) (by decide) ?_
    exact Only.refl _ _
  · with_reducible refine Only.step (applyUpdate_only _ _) (by decide) ?_
    exact Only.refl _ _

theorem counterStep_only (s : State) (h : Nat) (err : SramErr) : Only flushUpdatesParts s (counterStep s h err) := by
  unfold counterStep
  with_reducible refine Only.ite ?_ ?_
  · exact Only.refl _ _
  · split
    · exact Only.refl _ _
    · extract_lets -merge +onlyGivenNames s0
      have h1 : Only flushUpdatesParts s s0 := by
        unfold s0
        with_reducible refine Only.set_updates (by decide) ?_
        exact Only.refl _ _
      try clear_value s0
      split
      · with_reducible refine Only.step (counterLost_only _ _) (by decide) ?_
        exact h1
      · with_reducible refine Only.step (applyUpdate_only _ _) (by decide) ?_
        with_reducible refine Only.step (frCorrected_only _ _) (by decide) ?_
        exact h1
      · with_reducible refine Only.step (applyUpdate_only _ _) (by decide) ?_
        exact h1

theorem laneLost_only (s : State) (c : Nat) (key : Nat) : Only haltCoreParts s (laneLost s c key) := by
  unfold laneLost
  split
  · with_reducible refine Only.step (killJob_only _ _ _ _ _) (by decide) ?_
    with_reducible refine Only.step (errRecord_only _ _ _ _ _ _ _) (by decide) ?_
    exact Only.refl _ _
  · exact Only.refl _ _

theorem laneErr_only (s : State) (err : SramErr) : Only frCorrectedParts s (laneErr s err) := by
  unfold laneErr
  split
  · with_reducible refine Only.step (frCorrected_only _ _) (by decide) ?_
    exact Only.refl _ _
  · exact Only.refl _ _

theorem creditArrives_only (s : State) (c : Nat) (lane : Nat) (err : SramErr) : Only haltCoreParts s (creditArrives s c
    lane err) := by
  unfold creditArrives
  split
  · exact Only.refl _ _
  · with_reducible refine Only.ite ?_ ?_
    · with_reducible refine Only.step (laneLost_only _ _ _) (by decide) ?_
      with_reducible refine Only.step (State.modCore_only _ _ _) (by decide) ?_
      exact Only.refl _ _
    · with_reducible refine Only.step (State.modCore_only _ _ _) (by decide) ?_
      with_reducible refine Only.step (laneErr_only _ _) (by decide) ?_
      exact Only.refl _ _

theorem faultAll_only (s : State) (c : Nat) (j : Job) (o : StreamOp) (t : Nat) (sram : Nat) (code : BitVec 16) (addr : Nat)
    : Only haltCoreParts s (faultAll s c j o t sram code addr) := by
  unfold faultAll
  with_reducible refine Only.foldl ?_ ?_
  · intro u0 a1
    extract_lets -merge +onlyGivenNames x2
    try clear_value x2
    with_reducible refine Only.step (streamFault_only _ _ _ _ _ _ _) (by decide) ?_
    exact Only.refl _ _
  · exact Only.refl _ _

theorem grantLines_only (s : State) (c : Nat) : Only setCoreParts s (grantLines s c) := by
  unfold grantLines
  with_reducible refine Only.step (State.modSe_only _ _ _) (by decide) ?_
  exact Only.refl _ _

theorem opndWrite_only (s : State) (c : Nat) (j : Job) (o : SOp) (bs : List Byte) : Only setCoreParts s (opndWrite s c j o
    bs) := by
  unfold opndWrite
  with_reducible refine Only.step (State.modCore_only _ _ _) (by decide) ?_
  exact Only.refl _ _

theorem landOn_only (off : Nat) (bs : List Byte) (lines : List Nat) (s : State) (x : Nat × StreamOp) : Only setCoreParts s
    (landOn off bs lines s x) := by
  unfold landOn
  split
  · exact Only.refl _ _
  · with_reducible refine Only.step (State.modSe_only _ _ _) (by decide) ?_
    with_reducible refine Only.step (opndWrite_only _ _ _ _ _) (by decide) ?_
    exact Only.refl _ _

/-- What `landLine` may change. -/
def landLineParts : List Field := [.poison, .run, .jobs, .cores, .fr, .chime, .obs, .freeCount]

theorem landLine_only (s : State) (c : Nat) (t : Nat) (line : Nat) (poison : Bool) : Only landLineParts s (landLine s c t
    line poison) := by
  unfold landLine
  split
  · exact Only.refl _ _
  · split
    · exact Only.refl _ _
    · extract_lets -merge +onlyGivenNames x0
      try clear_value x0
      extract_lets -merge +onlyGivenNames x1
      try clear_value x1
      extract_lets -merge +onlyGivenNames s2
      have h3 : Only landLineParts s s2 := by
        unfold s2
        with_reducible refine Only.step (pmJob_only _ _ _ _) (by decide) ?_
        exact Only.refl _ _
      try clear_value s2
      with_reducible refine Only.ite ?_ ?_
      · with_reducible refine Only.step (faultAll_only _ _ _ _ _ _ _ _) (by decide) ?_
        with_reducible refine Only.step (pmJob_only _ _ _ _) (by decide) ?_
        with_reducible refine Only.step (markPoison_only _ _ _) (by decide) ?_
        exact h3
      · extract_lets -merge +onlyGivenNames x4
        try clear_value x4
        extract_lets -merge +onlyGivenNames x5
        try clear_value x5
        split
        · with_reducible refine Only.step (faultAll_only _ _ _ _ _ _ _ _) (by decide) ?_
          exact h3
        · with_reducible refine Only.step (grantLines_only _ _) (by decide) ?_
          with_reducible refine Only.foldl ?_ ?_
          · intro u6 a7
            with_reducible refine Only.step (landOn_only _ _ _ _ _) (by decide) ?_
            exact Only.refl _ _
          · exact h3

theorem fillWith_only (s : State) (c : Nat) (j : Job) (line : Nat) (bs : List Byte) : Only setCoreParts s (fillWith s c j
    line bs) := by
  unfold fillWith
  with_reducible refine Only.step (State.modCore_only _ _ _) (by decide) ?_
  exact Only.refl _ _

theorem fillLine_only (s : State) (c : Nat) (poison : Bool) : Only landLineParts s (fillLine s c poison) := by
  unfold fillLine
  split
  · exact Only.refl _ _
  · extract_lets -merge +onlyGivenNames x0
    try clear_value x0
    extract_lets -merge +onlyGivenNames x1
    try clear_value x1
    split
    · split
      · with_reducible refine Only.ite ?_ ?_
        · with_reducible refine Only.step (haltAt_only _ _ _ _ _) (by decide) ?_
          with_reducible refine Only.step (markPoison_only _ _ _) (by decide) ?_
          exact Only.refl _ _
        · with_reducible refine Only.step (haltAt_only _ _ _ _ _) (by decide) ?_
          exact Only.refl _ _
      · with_reducible refine Only.step (endStall_only _ _ _) (by decide) ?_
        with_reducible refine Only.step (fillWith_only _ _ _ _ _) (by decide) ?_
        exact Only.refl _ _
    · exact Only.refl _ _

/-- What `fillAhead` may change. -/
def fillAheadParts : List Field := [.poison, .cores]

theorem fillAhead_only (s : State) (c : Nat) (poison : Bool) : Only fillAheadParts s (fillAhead s c poison) := by
  unfold fillAhead
  split
  · extract_lets -merge +onlyGivenNames x0
    try clear_value x0
    split
    · with_reducible refine Only.step (State.modCore_only _ _ _) (by decide) ?_
      with_reducible refine Only.ite ?_ ?_
      · with_reducible refine Only.step (markPoison_only _ _ _) (by decide) ?_
        exact Only.refl _ _
      · exact Only.refl _ _
    · with_reducible refine Only.step (fillWith_only _ _ _ _ _) (by decide) ?_
      exact Only.refl _ _
  · exact Only.refl _ _

/-- What `dropLine` may change. -/
def dropLineParts : List Field := [.cores, .fr, .chime, .obs]

theorem dropLine_only (s : State) (c : Nat) : Only dropLineParts s (dropLine s c) := by
  unfold dropLine
  split
  · exact Only.refl _ _
  · extract_lets -merge +onlyGivenNames x0
    try clear_value x0
    with_reducible refine Only.ite ?_ ?_
    · exact Only.refl _ _
    · with_reducible refine Only.step (State.modCore_only _ _ _) (by decide) ?_
      with_reducible refine Only.step (frCorrected_only _ _) (by decide) ?_
      exact Only.refl _ _

theorem enqueueOp_only (s : State) (c : Nat) (t : Nat) (o : StreamOp) : Only setCoreParts s (enqueueOp s c t o) := by
  unfold enqueueOp
  with_reducible refine Only.step (State.modSe_only _ _ _) (by decide) ?_
  exact Only.refl _ _

/-- What `setLoaderMode` may change. -/
def setLoaderModeParts : List Field := [.kp]

theorem setLoaderMode_only (s : State) (v : W64) : Only setLoaderModeParts s (setLoaderMode s v) := by
  unfold setLoaderMode
  with_reducible refine Only.set_kp (by decide) ?_
  exact Only.refl _ _

/-- What `execCommit` may change. -/
def execCommitParts : List Field := [.writes, .mem, .poison, .au, .run, .pool, .kp, .gens, .objs, .ctxs, .queues,
  .insts, .shares, .rgParts, .jobs, .cores, .counters, .sy, .sec, .fr, .chime, .obs, .freeCount, .obsCfg]

theorem execCommit_only (target : CommitTarget) (s : State) : NextOnly execCommitParts s (execCommit target s) := by
  unfold execCommit
  split
  · with_reducible refine NextOnly.next ?_
    with_reducible refine Only.step (killWaiters_only _) (by decide) ?_
    with_reducible refine Only.step (commitQueue_only _ _) (by decide) ?_
    exact Only.refl _ _
  · with_reducible refine NextOnly.next ?_
    with_reducible refine Only.step (commitStation_only _ _) (by decide) ?_
    exact Only.refl _ _

theorem execIcacheFill_only (core : BitVec 4) (event : FillEvent) (s : State) : NextOnly landLineParts s (execIcacheFill
    core event s) := by
  unfold execIcacheFill
  with_reducible refine NextOnly.next ?_
  split
  · with_reducible refine Only.step (fillLine_only _ _ _) (by decide) ?_
    exact Only.refl _ _
  · with_reducible refine Only.step (fillAhead_only _ _ _) (by decide) ?_
    exact Only.refl _ _
  · with_reducible refine Only.step (dropLine_only _ _) (by decide) ?_
    exact Only.refl _ _

theorem simpleRow_only (s : State) (c : Nat) (op : Nat) (f : State → Job → Ins → Core → Core) : Only aluParts s (simpleRow
    s c op f) := by
  unfold simpleRow
  with_reducible refine coreRow_only (by decide) ?_ ?_
  · intro u0 a1 a2 a3 a4
    with_reducible refine Only.step (doneAt_only _ _ _ _) (by decide) ?_
    with_reducible refine Only.step (State.modCore_only _ _ _) (by decide) ?_
    exact Only.refl _ _
  · exact Only.refl _ _

theorem execNop_only (core : BitVec 4) (s : State) : NextOnly aluParts s (execNop core s) := by
  unfold execNop
  with_reducible refine NextOnly.next ?_
  with_reducible refine Only.step (simpleRow_only _ _ _ _) (by decide) ?_
  exact Only.refl _ _

theorem execHalt_only (core : BitVec 4) (s : State) : NextOnly takeCounterParts s (execHalt core s) := by
  unfold execHalt
  with_reducible refine NextOnly.next ?_
  with_reducible refine coreRow_only (by decide) ?_ ?_
  · intro u0 a1 a2 a3 a4
    exact Only.refl _ _
  · exact Only.refl _ _

theorem execEndOp_only (core : BitVec 4) (s : State) : NextOnly aluParts s (execEndOp core s) := by
  unfold execEndOp
  with_reducible refine NextOnly.next ?_
  with_reducible refine Only.step (simpleRow_only _ _ _ _) (by decide) ?_
  exact Only.refl _ _

theorem execAdd_only (core : BitVec 4) (s : State) : NextOnly aluParts s (execAdd core s) := by
  unfold execAdd
  with_reducible refine NextOnly.next ?_
  with_reducible refine Only.step (alu_only _ _ _ _) (by decide) ?_
  exact Only.refl _ _

theorem execSub_only (core : BitVec 4) (s : State) : NextOnly aluParts s (execSub core s) := by
  unfold execSub
  with_reducible refine NextOnly.next ?_
  with_reducible refine Only.step (alu_only _ _ _ _) (by decide) ?_
  exact Only.refl _ _

theorem execMul_only (core : BitVec 4) (s : State) : NextOnly aluParts s (execMul core s) := by
  unfold execMul
  with_reducible refine NextOnly.next ?_
  with_reducible refine Only.step (alu_only _ _ _ _) (by decide) ?_
  exact Only.refl _ _

theorem execAndOp_only (core : BitVec 4) (s : State) : NextOnly aluParts s (execAndOp core s) := by
  unfold execAndOp
  with_reducible refine NextOnly.next ?_
  with_reducible refine Only.step (alu_only _ _ _ _) (by decide) ?_
  exact Only.refl _ _

theorem execOrOp_only (core : BitVec 4) (s : State) : NextOnly aluParts s (execOrOp core s) := by
  unfold execOrOp
  with_reducible refine NextOnly.next ?_
  with_reducible refine Only.step (alu_only _ _ _ _) (by decide) ?_
  exact Only.refl _ _

theorem execXorOp_only (core : BitVec 4) (s : State) : NextOnly aluParts s (execXorOp core s) := by
  unfold execXorOp
  with_reducible refine NextOnly.next ?_
  with_reducible refine Only.step (alu_only _ _ _ _) (by decide) ?_
  exact Only.refl _ _

theorem execShl_only (core : BitVec 4) (s : State) : NextOnly aluParts s (execShl core s) := by
  unfold execShl
  with_reducible refine NextOnly.next ?_
  with_reducible refine Only.step (alu_only _ _ _ _) (by decide) ?_
  exact Only.refl _ _

theorem execShr_only (core : BitVec 4) (s : State) : NextOnly aluParts s (execShr core s) := by
  unfold execShr
  with_reducible refine NextOnly.next ?_
  with_reducible refine Only.step (alu_only _ _ _ _) (by decide) ?_
  exact Only.refl _ _

theorem execSar_only (core : BitVec 4) (s : State) : NextOnly aluParts s (execSar core s) := by
  unfold execSar
  with_reducible refine NextOnly.next ?_
  with_reducible refine Only.step (alu_only _ _ _ _) (by decide) ?_
  exact Only.refl _ _

theorem execMinOp_only (core : BitVec 4) (s : State) : NextOnly aluParts s (execMinOp core s) := by
  unfold execMinOp
  with_reducible refine NextOnly.next ?_
  with_reducible refine Only.step (alu_only _ _ _ _) (by decide) ?_
  exact Only.refl _ _

theorem execMaxOp_only (core : BitVec 4) (s : State) : NextOnly aluParts s (execMaxOp core s) := by
  unfold execMaxOp
  with_reducible refine NextOnly.next ?_
  with_reducible refine Only.step (alu_only _ _ _ _) (by decide) ?_
  exact Only.refl _ _

theorem execSlt_only (core : BitVec 4) (s : State) : NextOnly aluParts s (execSlt core s) := by
  unfold execSlt
  with_reducible refine NextOnly.next ?_
  with_reducible refine Only.step (alu_only _ _ _ _) (by decide) ?_
  exact Only.refl _ _

theorem execSltu_only (core : BitVec 4) (s : State) : NextOnly aluParts s (execSltu core s) := by
  unfold execSltu
  with_reducible refine NextOnly.next ?_
  with_reducible refine Only.step (alu_only _ _ _ _) (by decide) ?_
  exact Only.refl _ _

theorem execLih_only (core : BitVec 4) (s : State) : NextOnly aluParts s (execLih core s) := by
  unfold execLih
  with_reducible refine NextOnly.next ?_
  with_reducible refine Only.step (simpleRow_only _ _ _ _) (by decide) ?_
  exact Only.refl _ _

theorem scratchErr_only (s : State) (c : Nat) (j : Job) (o : SOp) (err : SramErr) : Only dropLineParts s (scratchErr s c j
    o err) := by
  unfold scratchErr
  split
  · exact Only.refl _ _
  · with_reducible refine Only.step (frCorrected_only _ _) (by decide) ?_
    exact Only.refl _ _
  · with_reducible refine Only.step (State.modCore_only _ _ _) (by decide) ?_
    exact Only.refl _ _

theorem sramHalt_only (s : State) (c : Nat) (pc : Nat) (unit : Nat) (data : Nat) : Only haltCoreParts s (sramHalt s c pc
    unit data) := by
  unfold sramHalt
  with_reducible refine Only.step (haltCore_only _ _ _ _ _ _) (by decide) ?_
  exact Only.refl _ _

theorem execLd_only (a : CoreErr) (s : State) : NextOnly aluParts s (execLd a s) := by
  unfold execLd
  extract_lets -merge +onlyGivenNames x0
  try clear_value x0
  with_reducible refine NextOnly.next ?_
  with_reducible refine coreRow_only (by decide) ?_ ?_
  · intro u1 a2 a3 a4 a5
    extract_lets -merge +onlyGivenNames x6
    try clear_value x6
    split
    · exact Only.refl _ _
    · extract_lets -merge +onlyGivenNames s7
      have h8 : Only aluParts u1 s7 := by
        unfold s7
        with_reducible refine Only.step (scratchErr_only _ _ _ _ _) (by decide) ?_
        exact Only.refl _ _
      try clear_value s7
      split
      · with_reducible refine Only.step (sramHalt_only _ _ _ _ _) (by decide) ?_
        exact h8
      · with_reducible refine Only.step (doneAt_only _ _ _ _) (by decide) ?_
        with_reducible refine Only.step (State.modCore_only _ _ _) (by decide) ?_
        exact h8
  · exact Only.refl _ _

theorem execSt_only (core : BitVec 4) (s : State) : NextOnly aluParts s (execSt core s) := by
  unfold execSt
  extract_lets -merge +onlyGivenNames x0
  try clear_value x0
  with_reducible refine NextOnly.next ?_
  with_reducible refine coreRow_only (by decide) ?_ ?_
  · intro u1 a2 a3 a4 a5
    split
    · exact Only.refl _ _
    · with_reducible refine Only.step (doneAt_only _ _ _ _) (by decide) ?_
      with_reducible refine Only.step (opndWrite_only _ _ _ _ _) (by decide) ?_
      exact Only.refl _ _
  · exact Only.refl _ _

theorem execB_only (core : BitVec 4) (s : State) : NextOnly aluParts s (execB core s) := by
  unfold execB
  with_reducible refine NextOnly.next ?_
  with_reducible refine Only.step (branchRow_only _ _ _ _ _ _) (by decide) ?_
  exact Only.refl _ _

theorem execBeq_only (core : BitVec 4) (s : State) : NextOnly aluParts s (execBeq core s) := by
  unfold execBeq
  with_reducible refine NextOnly.next ?_
  with_reducible refine Only.step (branchRow_only _ _ _ _ _ _) (by decide) ?_
  exact Only.refl _ _

theorem execBne_only (core : BitVec 4) (s : State) : NextOnly aluParts s (execBne core s) := by
  unfold execBne
  with_reducible refine NextOnly.next ?_
  with_reducible refine Only.step (branchRow_only _ _ _ _ _ _) (by decide) ?_
  exact Only.refl _ _

theorem execBlt_only (core : BitVec 4) (s : State) : NextOnly aluParts s (execBlt core s) := by
  unfold execBlt
  with_reducible refine NextOnly.next ?_
  with_reducible refine Only.step (branchRow_only _ _ _ _ _ _) (by decide) ?_
  exact Only.refl _ _

theorem execBge_only (core : BitVec 4) (s : State) : NextOnly aluParts s (execBge core s) := by
  unfold execBge
  with_reducible refine NextOnly.next ?_
  with_reducible refine Only.step (branchRow_only _ _ _ _ _ _) (by decide) ?_
  exact Only.refl _ _

theorem execBltu_only (core : BitVec 4) (s : State) : NextOnly aluParts s (execBltu core s) := by
  unfold execBltu
  with_reducible refine NextOnly.next ?_
  with_reducible refine Only.step (branchRow_only _ _ _ _ _ _) (by decide) ?_
  exact Only.refl _ _

theorem execBal_only (core : BitVec 4) (s : State) : NextOnly aluParts s (execBal core s) := by
  unfold execBal
  with_reducible refine NextOnly.next ?_
  with_reducible refine Only.step (branchRow_only _ _ _ _ _ _) (by decide) ?_
  exact Only.refl _ _

theorem execJr_only (core : BitVec 4) (s : State) : NextOnly aluParts s (execJr core s) := by
  unfold execJr
  with_reducible refine NextOnly.next ?_
  with_reducible refine Only.step (branchRow_only _ _ _ _ _ _) (by decide) ?_
  exact Only.refl _ _

theorem execMfs_only (core : BitVec 4) (s : State) : NextOnly aluParts s (execMfs core s) := by
  unfold execMfs
  with_reducible refine NextOnly.next ?_
  with_reducible refine Only.step (simpleRow_only _ _ _ _) (by decide) ?_
  exact Only.refl _ _

theorem execFclrm_only (core : BitVec 4) (s : State) : NextOnly aluParts s (execFclrm core s) := by
  unfold execFclrm
  with_reducible refine NextOnly.next ?_
  with_reducible refine Only.step (simpleRow_only _ _ _ _) (by decide) ?_
  exact Only.refl _ _

theorem objRow_only (s : State) (c : Nat) (op : Nat) (kind : SKind) : Only takeCounterParts s (objRow s c op kind) := by
  unfold objRow
  with_reducible refine coreRow_only (by decide) ?_ ?_
  · intro u0 a1 a2 a3 a4
    split
    · extract_lets -merge +onlyGivenNames x5
      try clear_value x5
      extract_lets -merge +onlyGivenNames x6
      try clear_value x6
      extract_lets -merge +onlyGivenNames s7
      have h8 : Only takeCounterParts u0 s7 := by
        unfold s7
        with_reducible refine Only.step (enqueueOp_only _ _ _ _) (by decide) ?_
        exact Only.refl _ _
      try clear_value s7
      with_reducible refine Only.ite ?_ ?_
      · with_reducible refine Only.step (State.modSe_only _ _ _) (by decide) ?_
        exact h8
      · exact h8
    · exact Only.refl _ _
  · exact Only.refl _ _

theorem execStore_only (core : BitVec 4) (s : State) : NextOnly takeCounterParts s (execStore core s) := by
  unfold execStore
  with_reducible refine NextOnly.next ?_
  with_reducible refine Only.step (objRow_only _ _ _ _) (by decide) ?_
  exact Only.refl _ _

theorem execSend_only (core : BitVec 4) (s : State) : NextOnly takeCounterParts s (execSend core s) := by
  unfold execSend
  extract_lets -merge +onlyGivenNames x0
  try clear_value x0
  with_reducible refine NextOnly.next ?_
  with_reducible refine coreRow_only (by decide) ?_ ?_
  · intro u1 a2 a3 a4 a5
    split
    · with_reducible refine Only.step (enqueueOp_only _ _ _ _) (by decide) ?_
      exact Only.refl _ _
    · exact Only.refl _ _
  · exact Only.refl _ _

theorem execMcast_only (core : BitVec 4) (s : State) : NextOnly takeCounterParts s (execMcast core s) := by
  unfold execMcast
  with_reducible refine NextOnly.next ?_
  with_reducible refine Only.step (objRow_only _ _ _ _) (by decide) ?_
  exact Only.refl _ _

theorem release_only (s : State) (c : Nat) (j : Job) (l : Nat) : Only setCoreParts s (release s c j l) := by
  unfold release
  extract_lets -merge +onlyGivenNames x0
  try clear_value x0
  extract_lets -merge +onlyGivenNames s1
  have h2 : Only setCoreParts s s1 := by
    unfold s1
    with_reducible refine Only.step (State.modCore_only _ _ _) (by decide) ?_
    exact Only.refl _ _
  try clear_value s1
  with_reducible refine Only.step (State.modCore_only _ _ _) (by decide) ?_
  exact h2

theorem execRelease_only (core : BitVec 4) (s : State) : NextOnly aluParts s (execRelease core s) := by
  unfold execRelease
  extract_lets -merge +onlyGivenNames x0
  try clear_value x0
  with_reducible refine NextOnly.next ?_
  with_reducible refine coreRow_only (by decide) ?_ ?_
  · intro u1 a2 a3 a4 a5
    with_reducible refine Only.step (doneAt_only _ _ _ _) (by decide) ?_
    with_reducible refine Only.step (release_only _ _ _ _) (by decide) ?_
    exact Only.refl _ _
  · exact Only.refl _ _

theorem execFence_only (core : BitVec 4) (s : State) : NextOnly takeCounterParts s (execFence core s) := by
  unfold execFence
  extract_lets -merge +onlyGivenNames x0
  try clear_value x0
  with_reducible refine NextOnly.next ?_
  with_reducible refine coreRow_only (by decide) ?_ ?_
  · intro u1 a2 a3 a4 a5
    with_reducible refine Only.step (enqueueOp_only _ _ _ _) (by decide) ?_
    exact Only.refl _ _
  · exact Only.refl _ _

theorem takeCredits_only (s : State) (c : Nat) (j : Job) (lanes : List Nat) : Only setCoreParts s (takeCredits s c j lanes)
    := by
  unfold takeCredits
  with_reducible refine Only.foldl ?_ ?_
  · intro u0 a1
    extract_lets -merge +onlyGivenNames x2
    try clear_value x2
    with_reducible refine Only.step (State.modCore_only _ _ _) (by decide) ?_
    exact Only.refl _ _
  · exact Only.refl _ _

theorem startSend_only (s : State) (c : Nat) (t : Nat) (j : Job) (o : StreamOp) (err : SramErr) : Only haltCoreParts s
    (startSend s c t j o err) := by
  unfold startSend
  with_reducible refine Only.ite ?_ ?_
  · exact Only.refl _ _
  · extract_lets -merge +onlyGivenNames s0
    have h1 : Only haltCoreParts s s0 := by
      unfold s0
      with_reducible refine Only.step (scratchErr_only _ _ _ _ _) (by decide) ?_
      exact Only.refl _ _
    try clear_value s0
    split
    · with_reducible refine Only.step (streamFault_only _ _ _ _ _ _ _) (by decide) ?_
      with_reducible refine Only.step (beginOp_only _ _ _ _) (by decide) ?_
      exact h1
    · with_reducible refine Only.step (takeCredits_only _ _ _ _) (by decide) ?_
      with_reducible refine Only.step (beginOp_only _ _ _ _) (by decide) ?_
      exact h1

theorem startUnmapped_only (s : State) (c : Nat) (j : Job) (t : Nat) (o : StreamOp) : Only haltCoreParts s (startUnmapped s
    c j t o) := by
  unfold startUnmapped
  split
  · with_reducible refine Only.step (streamFault_only _ _ _ _ _ _ _) (by decide) ?_
    with_reducible refine Only.step (beginOp_only _ _ _ _) (by decide) ?_
    exact Only.refl _ _
  · extract_lets -merge +onlyGivenNames x0
    with_reducible refine Only.step (streamFault_only _ _ _ _ _ _ _) (by decide) ?_
    with_reducible refine Only.step (beginOp_only _ _ _ _) (by decide) ?_
    with_reducible refine Only.step (State.drawWord_only _) (by decide) ?_
    exact Only.refl _ _

/-- What `storeOut` may change. -/
def storeOutParts : List Field := [.writes, .mem, .poison, .au, .pool, .gens, .insts, .jobs, .chime, .obs]

theorem storeOut_only (s : State) (c : Nat) (n : Nat) (j : Job) (t : Nat) (o : StreamOp) (i : Nat) : Only storeOutParts s
    (storeOut s c n j t o i) := by
  unfold storeOut
  extract_lets -merge +onlyGivenNames x0
  try clear_value x0
  extract_lets -merge +onlyGivenNames x1
  try clear_value x1
  extract_lets -merge +onlyGivenNames x2
  try clear_value x2
  extract_lets -merge +onlyGivenNames x3
  try clear_value x3
  extract_lets -merge +onlyGivenNames s4
  have h5 : Only storeOutParts s s4 := by
    unfold s4
    with_reducible refine Only.step (blockWrite_only _ _ _ _ _ _ _ _) (by decide) ?_
    exact Only.refl _ _
  try clear_value s4
  extract_lets -merge +onlyGivenNames s6
  have h7 : Only storeOutParts s s6 := by
    unfold s6
    with_reducible refine Only.step (jobCount_only _ _ _ _) (by decide) ?_
    exact h5
  try clear_value s6
  split
  · with_reducible refine Only.step (State.setJob_only _ _ _) (by decide) ?_
    exact h7
  · exact h7

/-- What `startStore` may change. -/
def startStoreParts : List Field := [.writes, .mem, .poison, .au, .run, .pool, .gens, .insts, .jobs, .cores, .fr,
  .chime, .obs, .freeCount]

theorem startStore_only (s : State) (c : Nat) (n : Nat) (j : Job) (t : Nat) (o : StreamOp) (i : Nat) (err : SramErr) : Only
    startStoreParts s (startStore s c n j t o i err) := by
  unfold startStore
  with_reducible refine Only.ite ?_ ?_
  · exact Only.refl _ _
  · extract_lets -merge +onlyGivenNames s0
    have h1 : Only startStoreParts s s0 := by
      unfold s0
      with_reducible refine Only.step (scratchErr_only _ _ _ _ _) (by decide) ?_
      exact Only.refl _ _
    try clear_value s0
    split
    · with_reducible refine Only.step (streamFault_only _ _ _ _ _ _ _) (by decide) ?_
      with_reducible refine Only.step (beginOp_only _ _ _ _) (by decide) ?_
      exact h1
    · with_reducible refine Only.step (storeOut_only _ _ _ _ _ _ _) (by decide) ?_
      with_reducible refine Only.step (beginOp_only _ _ _ _) (by decide) ?_
      exact h1

theorem startBasin_only (s : State) (c : Nat) (j : Job) (t : Nat) (o : StreamOp) (b : BasinCopy) : Only haltCoreParts s
    (startBasin s c j t o b) := by
  unfold startBasin
  split
  · with_reducible refine Only.step (faultAll_only _ _ _ _ _ _ _ _) (by decide) ?_
    exact Only.refl _ _
  · split
    · with_reducible refine Only.step (faultAll_only _ _ _ _ _ _ _ _) (by decide) ?_
      exact Only.refl _ _
    · with_reducible refine Only.foldl ?_ ?_
      · intro u0 a1
        with_reducible refine Only.step (landOn_only _ _ _ _ _) (by decide) ?_
        exact Only.refl _ _
      · exact Only.refl _ _

theorem startRead_only (s : State) (c : Nat) (j : Job) (t : Nat) (o : StreamOp) : Only haltCoreParts s (startRead s c j t
    o) := by
  unfold startRead
  split
  · with_reducible refine Only.step (startBasin_only _ _ _ _ _ _) (by decide) ?_
    with_reducible refine Only.step (beginOp_only _ _ _ _) (by decide) ?_
    exact Only.refl _ _
  · with_reducible refine Only.ite ?_ ?_
    · exact Only.refl _ _
    · with_reducible refine Only.step (grantLines_only _ _) (by decide) ?_
      with_reducible refine Only.step (beginOp_only _ _ _ _) (by decide) ?_
      exact Only.refl _ _

theorem startObj_only (s : State) (c : Nat) (n : Nat) (j : Job) (t : Nat) (o : StreamOp) (err : SramErr) : Only
    startStoreParts s (startObj s c n j t o err) := by
  unfold startObj
  split
  · with_reducible refine Only.step (startUnmapped_only _ _ _ _ _) (by decide) ?_
    exact Only.refl _ _
  · split
    · with_reducible refine Only.step (streamFault_only _ _ _ _ _ _ _) (by decide) ?_
      with_reducible refine Only.step (beginOp_only _ _ _ _) (by decide) ?_
      exact Only.refl _ _
    · extract_lets -merge +onlyGivenNames x0
      try clear_value x0
      extract_lets -merge +onlyGivenNames x1
      try clear_value x1
      split
      · with_reducible refine Only.step (startStore_only _ _ _ _ _ _ _ _) (by decide) ?_
        exact Only.refl _ _
      · with_reducible refine Only.ite ?_ ?_
        · with_reducible refine Only.ite ?_ ?_
          · with_reducible refine Only.step (startRead_only _ _ _ _ _) (by decide) ?_
            exact Only.refl _ _
          · exact Only.refl _ _
        · with_reducible refine Only.step (beginOp_only _ _ _ _) (by decide) ?_
          exact Only.refl _ _
      · with_reducible refine Only.step (startRead_only _ _ _ _ _) (by decide) ?_
        exact Only.refl _ _

theorem streamStart_only (s : State) (c : Nat) (t : Nat) (err : SramErr) : Only startStoreParts s (streamStart s c t err)
    := by
  unfold streamStart
  split
  · with_reducible refine Only.ite ?_ ?_
    · exact Only.refl _ _
    · split
      · with_reducible refine Only.step (beginOp_only _ _ _ _) (by decide) ?_
        exact Only.refl _ _
      · with_reducible refine Only.step (startSend_only _ _ _ _ _ _) (by decide) ?_
        exact Only.refl _ _
      · with_reducible refine Only.step (startObj_only _ _ _ _ _ _ _) (by decide) ?_
        exact Only.refl _ _
  · exact Only.refl _ _

theorem execStreamOpStart_only (a : CoreErr) (thread : BitVec 6) (s : State) : NextOnly startStoreParts
    s (execStreamOpStart a thread s) := by
  unfold execStreamOpStart
  with_reducible refine NextOnly.next ?_
  with_reducible refine Only.step (streamStart_only _ _ _ _) (by decide) ?_
  exact Only.refl _ _

theorem sendTile_only (s : State) (dst : Nat × Nat) (f : Flit) : Only setCoreParts s (sendTile s dst f) := by
  unfold sendTile
  extract_lets -merge +onlyGivenNames x0
  try clear_value x0
  extract_lets -merge +onlyGivenNames s1
  have h2 : Only setCoreParts s s1 := by
    unfold s1
    with_reducible refine Only.step (State.modSe_only _ _ _) (by decide) ?_
    exact Only.refl _ _
  try clear_value s1
  with_reducible refine Only.step (State.modCore_only _ _ _) (by decide) ?_
  exact h2

theorem finishSend_only (s : State) (c : Nat) (j : Job) (o : StreamOp) : Only sendSignalParts s (finishSend s c j o) := by
  unfold finishSend
  extract_lets -merge +onlyGivenNames x0
  try clear_value x0
  extract_lets -merge +onlyGivenNames x1
  try clear_value x1
  split
  · extract_lets -merge +onlyGivenNames s2
    have h3 : Only sendSignalParts s s2 := by
      unfold s2
      with_reducible refine Only.foldl ?_ ?_
      · intro u4 a5
        with_reducible refine Only.step (sendTile_only _ _ _) (by decide) ?_
        exact Only.refl _ _
      · exact Only.refl _ _
    try clear_value s2
    with_reducible refine Only.step (sendSignal_only _ _ _ _ _) (by decide) ?_
    exact h3
  · extract_lets -merge +onlyGivenNames x6
    try clear_value x6
    extract_lets -merge +onlyGivenNames s7
    have h8 : Only sendSignalParts s s7 := by
      unfold s7
      with_reducible refine Only.foldl ?_ ?_
      · intro u9 a10
        with_reducible refine Only.step (sendTile_only _ _ _) (by decide) ?_
        exact Only.refl _ _
      · exact Only.refl _ _
    try clear_value s7
    with_reducible refine Only.ite ?_ ?_
    · exact h8
    · with_reducible refine Only.step (sendSignal_only _ _ _ _ _) (by decide) ?_
      exact h8

theorem finishFence_only (s : State) (c : Nat) (n : Nat) (t : Nat) (id : Nat) : Only dropJobParts s (finishFence s c n t
    id) := by
  unfold finishFence
  split
  · with_reducible refine Only.step (State.setJob_only _ _ _) (by decide) ?_
    exact Only.refl _ _
  · exact Only.refl _ _

theorem streamComplete_only (s : State) (c : Nat) (t : Nat) : Only sendSignalParts s (streamComplete s c t) := by
  unfold streamComplete
  split
  · extract_lets -merge +onlyGivenNames s0
    have h1 : Only sendSignalParts s s0 := by
      unfold s0
      with_reducible refine Only.step (State.modSe_only _ _ _) (by decide) ?_
      exact Only.refl _ _
    try clear_value s0
    split
    · with_reducible refine Only.step (finishSend_only _ _ _ _) (by decide) ?_
      exact h1
    · with_reducible refine Only.step (sendSignal_only _ _ _ _ _) (by decide) ?_
      with_reducible refine Only.step (finishFence_only _ _ _ _ _) (by decide) ?_
      exact h1
    · with_reducible refine Only.step (sendSignal_only _ _ _ _ _) (by decide) ?_
      exact h1
  · exact Only.refl _ _

theorem execStreamOpComplete_only (core : BitVec 4) (thread : BitVec 6) (s : State) : NextOnly sendSignalParts s
    (execStreamOpComplete core thread s) := by
  unfold execStreamOpComplete
  with_reducible refine NextOnly.next ?_
  with_reducible refine Only.step (streamComplete_only _ _ _) (by decide) ?_
  exact Only.refl _ _

theorem tileArrives_only (s : State) (c : Nat) (lane : Nat) (err : SramErr) : Only sendSignalParts s (tileArrives s c lane
    err) := by
  unfold tileArrives
  split
  · exact Only.refl _ _
  · split
    · exact Only.refl _ _
    · with_reducible refine Only.ite ?_ ?_
      · with_reducible refine Only.step (laneLost_only _ _ _) (by decide) ?_
        with_reducible refine Only.step (State.modCore_only _ _ _) (by decide) ?_
        exact Only.refl _ _
      · extract_lets -merge +onlyGivenNames s0
        have h1 : Only sendSignalParts s s0 := by
          unfold s0
          with_reducible refine Only.step (laneErr_only _ _) (by decide) ?_
          exact Only.refl _ _
        try clear_value s0
        extract_lets -merge +onlyGivenNames s2
        have h3 : Only sendSignalParts s s2 := by
          unfold s2
          with_reducible refine Only.step (State.modCore_only _ _ _) (by decide) ?_
          exact h1
        try clear_value s2
        with_reducible refine Only.step (fireSignal_only _ _ _ _ _ _) (by decide) ?_
        exact h3

theorem execTileArrival_only (a : CoreErr) (lane : BitVec 6) (s : State) : NextOnly sendSignalParts s
    (execTileArrival a lane s) := by
  unfold execTileArrival
  with_reducible refine NextOnly.next ?_
  with_reducible refine Only.ite ?_ ?_
  · exact Only.refl _ _
  · with_reducible refine Only.step (tileArrives_only _ _ _ _) (by decide) ?_
    exact Only.refl _ _

theorem execCreditReturn_only (a : CoreErr) (lane : BitVec 6) (s : State) : NextOnly haltCoreParts s
    (execCreditReturn a lane s) := by
  unfold execCreditReturn
  with_reducible refine NextOnly.next ?_
  with_reducible refine Only.ite ?_ ?_
  · exact Only.refl _ _
  · with_reducible refine Only.step (creditArrives_only _ _ _ _) (by decide) ?_
    exact Only.refl _ _

theorem execCounterUpdate_only (home : BitVec 4) (err : SramErr) (s : State) : NextOnly flushUpdatesParts s
    (execCounterUpdate home err s) := by
  unfold execCounterUpdate
  with_reducible refine NextOnly.next ?_
  with_reducible refine Only.step (killWaiters_only _) (by decide) ?_
  with_reducible refine Only.step (counterStep_only _ _ _) (by decide) ?_
  exact Only.refl _ _

theorem watchPush_only (s : State) (c : Nat) : Only setCoreParts s (watchPush s c) := by
  unfold watchPush
  split
  · split
    · with_reducible refine Only.step (State.modCore_only _ _ _) (by decide) ?_
      exact Only.refl _ _
    · exact Only.refl _ _
  · exact Only.refl _ _

theorem execWatchPush_only (core : BitVec 4) (s : State) : NextOnly setCoreParts s (execWatchPush core s) := by
  unfold execWatchPush
  with_reducible refine NextOnly.next ?_
  with_reducible refine Only.ite ?_ ?_
  · exact Only.refl _ _
  · with_reducible refine Only.step (watchPush_only _ _) (by decide) ?_
    exact Only.refl _ _

theorem matRow_only (s : State) (c : Nat) (op : Nat) (kind : MKind) : Only takeCounterParts s (matRow s c op kind) := by
  unfold matRow
  with_reducible refine coreRow_only (by decide) ?_ ?_
  · intro u0 a1 a2 a3 a4
    split
    · with_reducible refine Only.step (State.modMe_only _ _ _) (by decide) ?_
      exact Only.refl _ _
    · exact Only.refl _ _
  · exact Only.refl _ _

theorem execMwld_only (core : BitVec 4) (s : State) : NextOnly takeCounterParts s (execMwld core s) := by
  unfold execMwld
  with_reducible refine NextOnly.next ?_
  with_reducible refine Only.step (matRow_only _ _ _ _) (by decide) ?_
  exact Only.refl _ _

theorem execMma_only (core : BitVec 4) (s : State) : NextOnly takeCounterParts s (execMma core s) := by
  unfold execMma
  with_reducible refine NextOnly.next ?_
  with_reducible refine Only.step (matRow_only _ _ _ _) (by decide) ?_
  exact Only.refl _ _

theorem execMdrain_only (core : BitVec 4) (s : State) : NextOnly takeCounterParts s (execMdrain core s) := by
  unfold execMdrain
  with_reducible refine NextOnly.next ?_
  with_reducible refine Only.step (matRow_only _ _ _ _) (by decide) ?_
  exact Only.refl _ _

theorem execMzero_only (core : BitVec 4) (s : State) : NextOnly takeCounterParts s (execMzero core s) := by
  unfold execMzero
  with_reducible refine NextOnly.next ?_
  with_reducible refine Only.step (matRow_only _ _ _ _) (by decide) ?_
  exact Only.refl _ _

theorem matBegin_only (s : State) (c : Nat) (n : Nat) (j : Job) (o : MatOp) : Only haltCoreParts s (matBegin s c n j o) :=
    by
  unfold matBegin
  extract_lets -merge +onlyGivenNames x0
  try clear_value x0
  split
  · with_reducible refine Only.step (haltAt_only _ _ _ _ _) (by decide) ?_
    exact Only.refl _ _
  · split
    · with_reducible refine Only.step (sramHalt_only _ _ _ _ _) (by decide) ?_
      exact Only.refl _ _
    · extract_lets -merge +onlyGivenNames x1
      try clear_value x1
      extract_lets -merge +onlyGivenNames x2
      try clear_value x2
      extract_lets -merge +onlyGivenNames s3
      have h4 : Only haltCoreParts s s3 := by
        unfold s3
        with_reducible refine Only.step (State.modMe_only _ _ _) (by decide) ?_
        exact Only.refl _ _
      try clear_value s3
      split
      · with_reducible refine Only.step (State.modMe_only _ _ _) (by decide) ?_
        exact h4
      · extract_lets -merge +onlyGivenNames x5
        try clear_value x5
        extract_lets -merge +onlyGivenNames s6
        have h7 : Only haltCoreParts s s6 := by
          unfold s6
          with_reducible refine Only.step (pmJob_only _ _ _ _) (by decide) ?_
          with_reducible refine Only.step (pmJob_only _ _ _ _) (by decide) ?_
          exact h4
        try clear_value s6
        with_reducible refine Only.step (State.modMe_only _ _ _) (by decide) ?_
        exact h7
      · exact h4

theorem matStart_only (s : State) (c : Nat) (err : SramErr) : Only haltCoreParts s (matStart s c err) := by
  unfold matStart
  split
  · with_reducible refine Only.ite ?_ ?_
    · exact Only.refl _ _
    · extract_lets -merge +onlyGivenNames s0
      have h1 : Only haltCoreParts s s0 := by
        unfold s0
        with_reducible refine Only.step (State.modMe_only _ _ _) (by decide) ?_
        exact Only.refl _ _
      try clear_value s0
      split
      · with_reducible refine Only.step (sramHalt_only _ _ _ _ _) (by decide) ?_
        exact h1
      · with_reducible refine Only.step (matBegin_only _ _ _ _ _) (by decide) ?_
        with_reducible refine Only.step (frCorrected_only _ _) (by decide) ?_
        exact h1
      · with_reducible refine Only.step (matBegin_only _ _ _ _ _) (by decide) ?_
        exact h1
  · exact Only.refl _ _

theorem execMatrixOpStart_only (core : BitVec 4) (err : SramErr) (s : State) : NextOnly haltCoreParts s (execMatrixOpStart
    core err s) := by
  unfold execMatrixOpStart
  with_reducible refine NextOnly.next ?_
  with_reducible refine Only.step (matStart_only _ _ _) (by decide) ?_
  exact Only.refl _ _

theorem matEnd_only (s : State) (c : Nat) (j : Job) (o : MatOp) : Only setCoreParts s (matEnd s c j o) := by
  unfold matEnd
  split
  · extract_lets -merge +onlyGivenNames x0
    try clear_value x0
    extract_lets -merge +onlyGivenNames x1
    try clear_value x1
    extract_lets -merge +onlyGivenNames x2
    try clear_value x2
    extract_lets -merge +onlyGivenNames s3
    have h4 : Only setCoreParts s s3 := by
      unfold s3
      with_reducible refine Only.step (opndWrite_only _ _ _ _ _) (by decide) ?_
      exact Only.refl _ _
    try clear_value s3
    extract_lets -merge +onlyGivenNames s5
    have h6 : Only setCoreParts s s5 := by
      unfold s5
      with_reducible refine Only.ite ?_ ?_
      · exact h4
      · with_reducible refine Only.step (opndWrite_only _ _ _ _ _) (by decide) ?_
        exact h4
    try clear_value s5
    with_reducible refine Only.step (State.modMe_only _ _ _) (by decide) ?_
    exact h6
  · with_reducible refine Only.step (State.modMe_only _ _ _) (by decide) ?_
    exact Only.refl _ _
  · exact Only.refl _ _

theorem matComplete_only (s : State) (c : Nat) (p : MPath) : Only sendSignalParts s (matComplete s c p) := by
  unfold matComplete
  split
  · with_reducible refine Only.step (sendSignal_only _ _ _ _ _) (by decide) ?_
    with_reducible refine Only.step (matEnd_only _ _ _ _) (by decide) ?_
    with_reducible refine Only.step (State.modMe_only _ _ _) (by decide) ?_
    exact Only.refl _ _
  · exact Only.refl _ _

theorem execMatrixOpComplete_only (core : BitVec 4) (path : MPath) (s : State) : NextOnly sendSignalParts s
    (execMatrixOpComplete core path s) := by
  unfold execMatrixOpComplete
  with_reducible refine NextOnly.next ?_
  with_reducible refine Only.step (matComplete_only _ _ _) (by decide) ?_
  exact Only.refl _ _

theorem vecRow_only (s : State) (c : Nat) (op : Nat) : Only takeCounterParts s (vecRow s c op) := by
  unfold vecRow
  with_reducible refine coreRow_only (by decide) ?_ ?_
  · intro u0 a1 a2 a3 a4
    with_reducible refine Only.step (State.modVe_only _ _ _) (by decide) ?_
    exact Only.refl _ _
  · exact Only.refl _ _

theorem execVadd_only (core : BitVec 4) (s : State) : NextOnly takeCounterParts s (execVadd core s) := by
  unfold execVadd
  with_reducible refine NextOnly.next ?_
  with_reducible refine Only.step (vecRow_only _ _ _) (by decide) ?_
  exact Only.refl _ _

theorem execVsub_only (core : BitVec 4) (s : State) : NextOnly takeCounterParts s (execVsub core s) := by
  unfold execVsub
  with_reducible refine NextOnly.next ?_
  with_reducible refine Only.step (vecRow_only _ _ _) (by decide) ?_
  exact Only.refl _ _

theorem execVmul_only (core : BitVec 4) (s : State) : NextOnly takeCounterParts s (execVmul core s) := by
  unfold execVmul
  with_reducible refine NextOnly.next ?_
  with_reducible refine Only.step (vecRow_only _ _ _) (by decide) ?_
  exact Only.refl _ _

theorem execVfma_only (core : BitVec 4) (s : State) : NextOnly takeCounterParts s (execVfma core s) := by
  unfold execVfma
  with_reducible refine NextOnly.next ?_
  with_reducible refine Only.step (vecRow_only _ _ _) (by decide) ?_
  exact Only.refl _ _

theorem execVmin_only (core : BitVec 4) (s : State) : NextOnly takeCounterParts s (execVmin core s) := by
  unfold execVmin
  with_reducible refine NextOnly.next ?_
  with_reducible refine Only.step (vecRow_only _ _ _) (by decide) ?_
  exact Only.refl _ _

theorem execVmax_only (core : BitVec 4) (s : State) : NextOnly takeCounterParts s (execVmax core s) := by
  unfold execVmax
  with_reducible refine NextOnly.next ?_
  with_reducible refine Only.step (vecRow_only _ _ _) (by decide) ?_
  exact Only.refl _ _

theorem execVclamp_only (core : BitVec 4) (s : State) : NextOnly takeCounterParts s (execVclamp core s) := by
  unfold execVclamp
  with_reducible refine NextOnly.next ?_
  with_reducible refine Only.step (vecRow_only _ _ _) (by decide) ?_
  exact Only.refl _ _

theorem execVabs_only (core : BitVec 4) (s : State) : NextOnly takeCounterParts s (execVabs core s) := by
  unfold execVabs
  with_reducible refine NextOnly.next ?_
  with_reducible refine Only.step (vecRow_only _ _ _) (by decide) ?_
  exact Only.refl _ _

theorem execVneg_only (core : BitVec 4) (s : State) : NextOnly takeCounterParts s (execVneg core s) := by
  unfold execVneg
  with_reducible refine NextOnly.next ?_
  with_reducible refine Only.step (vecRow_only _ _ _) (by decide) ?_
  exact Only.refl _ _

theorem execVcopy_only (core : BitVec 4) (s : State) : NextOnly takeCounterParts s (execVcopy core s) := by
  unfold execVcopy
  with_reducible refine NextOnly.next ?_
  with_reducible refine Only.step (vecRow_only _ _ _) (by decide) ?_
  exact Only.refl _ _

theorem execVrcp_only (core : BitVec 4) (s : State) : NextOnly takeCounterParts s (execVrcp core s) := by
  unfold execVrcp
  with_reducible refine NextOnly.next ?_
  with_reducible refine Only.step (vecRow_only _ _ _) (by decide) ?_
  exact Only.refl _ _

theorem execVrsqrt_only (core : BitVec 4) (s : State) : NextOnly takeCounterParts s (execVrsqrt core s) := by
  unfold execVrsqrt
  with_reducible refine NextOnly.next ?_
  with_reducible refine Only.step (vecRow_only _ _ _) (by decide) ?_
  exact Only.refl _ _

theorem execVsqrt_only (core : BitVec 4) (s : State) : NextOnly takeCounterParts s (execVsqrt core s) := by
  unfold execVsqrt
  with_reducible refine NextOnly.next ?_
  with_reducible refine Only.step (vecRow_only _ _ _) (by decide) ?_
  exact Only.refl _ _

theorem execVexp2_only (core : BitVec 4) (s : State) : NextOnly takeCounterParts s (execVexp2 core s) := by
  unfold execVexp2
  with_reducible refine NextOnly.next ?_
  with_reducible refine Only.step (vecRow_only _ _ _) (by decide) ?_
  exact Only.refl _ _

theorem execVlog2_only (core : BitVec 4) (s : State) : NextOnly takeCounterParts s (execVlog2 core s) := by
  unfold execVlog2
  with_reducible refine NextOnly.next ?_
  with_reducible refine Only.step (vecRow_only _ _ _) (by decide) ?_
  exact Only.refl _ _

theorem execVcmp_only (core : BitVec 4) (s : State) : NextOnly takeCounterParts s (execVcmp core s) := by
  unfold execVcmp
  with_reducible refine NextOnly.next ?_
  with_reducible refine Only.step (vecRow_only _ _ _) (by decide) ?_
  exact Only.refl _ _

theorem execVsel_only (core : BitVec 4) (s : State) : NextOnly takeCounterParts s (execVsel core s) := by
  unfold execVsel
  with_reducible refine NextOnly.next ?_
  with_reducible refine Only.step (vecRow_only _ _ _) (by decide) ?_
  exact Only.refl _ _

theorem execVmand_only (core : BitVec 4) (s : State) : NextOnly takeCounterParts s (execVmand core s) := by
  unfold execVmand
  with_reducible refine NextOnly.next ?_
  with_reducible refine Only.step (vecRow_only _ _ _) (by decide) ?_
  exact Only.refl _ _

theorem execVmor_only (core : BitVec 4) (s : State) : NextOnly takeCounterParts s (execVmor core s) := by
  unfold execVmor
  with_reducible refine NextOnly.next ?_
  with_reducible refine Only.step (vecRow_only _ _ _) (by decide) ?_
  exact Only.refl _ _

theorem execVmnot_only (core : BitVec 4) (s : State) : NextOnly takeCounterParts s (execVmnot core s) := by
  unfold execVmnot
  with_reducible refine NextOnly.next ?_
  with_reducible refine Only.step (vecRow_only _ _ _) (by decide) ?_
  exact Only.refl _ _

theorem execVrsum_only (core : BitVec 4) (s : State) : NextOnly takeCounterParts s (execVrsum core s) := by
  unfold execVrsum
  with_reducible refine NextOnly.next ?_
  with_reducible refine Only.step (vecRow_only _ _ _) (by decide) ?_
  exact Only.refl _ _

theorem execVrmax_only (core : BitVec 4) (s : State) : NextOnly takeCounterParts s (execVrmax core s) := by
  unfold execVrmax
  with_reducible refine NextOnly.next ?_
  with_reducible refine Only.step (vecRow_only _ _ _) (by decide) ?_
  exact Only.refl _ _

theorem execVrmin_only (core : BitVec 4) (s : State) : NextOnly takeCounterParts s (execVrmin core s) := by
  unfold execVrmin
  with_reducible refine NextOnly.next ?_
  with_reducible refine Only.step (vecRow_only _ _ _) (by decide) ?_
  exact Only.refl _ _

theorem execVcvt_only (core : BitVec 4) (s : State) : NextOnly takeCounterParts s (execVcvt core s) := by
  unfold execVcvt
  with_reducible refine NextOnly.next ?_
  with_reducible refine Only.step (vecRow_only _ _ _) (by decide) ?_
  exact Only.refl _ _

theorem execVcompress_only (core : BitVec 4) (s : State) : NextOnly takeCounterParts s (execVcompress core s) := by
  unfold execVcompress
  with_reducible refine NextOnly.next ?_
  with_reducible refine Only.step (vecRow_only _ _ _) (by decide) ?_
  exact Only.refl _ _

theorem execVexpand_only (core : BitVec 4) (s : State) : NextOnly takeCounterParts s (execVexpand core s) := by
  unfold execVexpand
  with_reducible refine NextOnly.next ?_
  with_reducible refine Only.step (vecRow_only _ _ _) (by decide) ?_
  exact Only.refl _ _

theorem groupStop_only (s : State) (c : Nat) (j : Job) (g : List VecOp) (t : State) (h : groupStop s c j g = some t) :
    Only haltCoreParts s t := by
  unfold groupStop at h
  split at h
  · cases h
    exact Only.step (haltAt_only _ _ _ _ _) (by decide) (Only.step (State.modVe_only _ _ _) (by decide) (Only.refl _ _))
  · split at h
    · cases h
      exact Only.step (haltAt_only _ _ _ _ _) (by decide) (Only.refl _ _)
    · split at h
      · cases h
        exact Only.step (sramHalt_only _ _ _ _ _) (by decide) (Only.refl _ _)
      · cases h

theorem groupBegin_only (s : State) (c n : Nat) (j : Job) (g rest : List VecOp) :
    Only haltCoreParts s (groupBegin s c n j g rest) := by
  unfold groupBegin
  split
  · exact Only.step (groupStop_only _ _ _ _ _ (by assumption)) (by decide) (Only.refl _ _)
  · exact Only.step (State.modVe_only _ _ _) (by decide) (Only.step (pmJob_only _ _ _ _) (by decide) (Only.refl _ _))

theorem vecStart_only (s : State) (c : Nat) (err : SramErr) : Only haltCoreParts s (vecStart s c err) := by
  unfold vecStart
  split
  · with_reducible refine Only.ite ?_ ?_
    · exact Only.refl _ _
    · split
      · with_reducible refine Only.step (sramHalt_only _ _ _ _ _) (by decide) ?_
        exact Only.refl _ _
      · with_reducible refine Only.step (groupBegin_only _ _ _ _ _ _) (by decide) ?_
        with_reducible refine Only.step (frCorrected_only _ _) (by decide) ?_
        exact Only.refl _ _
      · with_reducible refine Only.step (groupBegin_only _ _ _ _ _ _) (by decide) ?_
        exact Only.refl _ _
  · exact Only.refl _ _

theorem execVectorGroupStart_only (core : BitVec 4) (err : SramErr) (s : State) : NextOnly haltCoreParts s
    (execVectorGroupStart core err s) := by
  unfold execVectorGroupStart
  with_reducible refine NextOnly.next ?_
  with_reducible refine Only.step (vecStart_only _ _ _) (by decide) ?_
  exact Only.refl _ _

theorem writePlanes_only (s : State) (c : Nat) (j : Job) (d : SOp) (l : List (Nat × List Byte)) :
    Only setCoreParts s (writePlanes s c j d l) := by
  induction l generalizing s with
  | nil => exact Only.refl _ _
  | cons p r ih =>
    unfold writePlanes
    with_reducible refine Only.step (ih _) (by decide) ?_
    with_reducible refine Only.step (opndWrite_only _ _ _ _ _) (by decide) ?_
    exact Only.refl _ _

/-- What `groupEffect` may change. -/
def groupEffectParts : List Field := [.cores, .freeCount]

theorem groupEffect_only (s : State) (c : Nat) (j : Job) (g : List VecOp) : Only groupEffectParts s (groupEffect s c j g)
    := by
  unfold groupEffect
  extract_lets -merge +onlyGivenNames x0
  try clear_value x0
  split
  · exact Only.refl _ _
  · extract_lets -merge +onlyGivenNames x1
    try clear_value x1
    extract_lets -merge +onlyGivenNames x2
    try clear_value x2
    extract_lets -merge +onlyGivenNames x3
    try clear_value x3
    extract_lets -merge +onlyGivenNames x4
    try clear_value x4
    extract_lets -merge +onlyGivenNames x5
    try clear_value x5
    extract_lets -merge +onlyGivenNames x6
    try clear_value x6
    extract_lets -merge +onlyGivenNames x7
    try clear_value x7
    extract_lets -merge +onlyGivenNames x8
    extract_lets -merge +onlyGivenNames s9
    have h10 : Only groupEffectParts s s9 := by
      unfold s9
      with_reducible refine Only.set_freeCount (by decide) ?_
      exact Only.refl _ _
    try clear_value s9
    extract_lets -merge +onlyGivenNames s11
    have h12 : Only groupEffectParts s s11 := by
      unfold s11
      with_reducible refine Only.step (State.modVe_only _ _ _) (by decide) ?_
      exact h10
    try clear_value s11
    with_reducible refine Only.ite ?_ ?_
    · extract_lets -merge +onlyGivenNames s13
      have h14 : Only groupEffectParts s s13 := by
        unfold s13
        with_reducible refine Only.step (writePlanes_only _ _ _ _ _) (by decide) ?_
        exact h12
      try clear_value s13
      with_reducible refine Only.ite ?_ ?_
      · with_reducible refine Only.step (opndWrite_only _ _ _ _ _) (by decide) ?_
        exact h14
      · exact h14
    · with_reducible refine Only.ite ?_ ?_
      · extract_lets -merge +onlyGivenNames s15
        have h16 : Only groupEffectParts s s15 := by
          unfold s15
          with_reducible refine Only.step (writePlanes_only _ _ _ _ _) (by decide) ?_
          exact h12
        try clear_value s15
        with_reducible refine Only.ite ?_ ?_
        · with_reducible refine Only.step (opndWrite_only _ _ _ _ _) (by decide) ?_
          exact h16
        · exact h16
      · extract_lets -merge +onlyGivenNames s17
        have h18 : Only groupEffectParts s s17 := by
          unfold s17
          with_reducible refine Only.step (opndWrite_only _ _ _ _ _) (by decide) ?_
          exact h12
        try clear_value s17
        with_reducible refine Only.ite ?_ ?_
        · with_reducible refine Only.step (opndWrite_only _ _ _ _ _) (by decide) ?_
          exact h18
        · exact h18

theorem vecComplete_only (s : State) (c : Nat) : Only sendSignalParts s (vecComplete s c) := by
  unfold vecComplete
  split
  · extract_lets -merge +onlyGivenNames x0
    try clear_value x0
    extract_lets -merge +onlyGivenNames s1
    have h2 : Only sendSignalParts s s1 := by
      unfold s1
      with_reducible refine Only.step (groupEffect_only _ _ _ _) (by decide) ?_
      with_reducible refine Only.step (State.modVe_only _ _ _) (by decide) ?_
      exact Only.refl _ _
    try clear_value s1
    extract_lets -merge +onlyGivenNames s3
    have h4 : Only sendSignalParts s s3 := by
      unfold s3
      with_reducible refine Only.foldl ?_ ?_
      · intro u5 a6
        with_reducible refine Only.step (pmJob_only _ _ _ _) (by decide) ?_
        exact Only.refl _ _
      · exact h2
    try clear_value s3
    with_reducible refine Only.foldl ?_ ?_
    · intro u7 a8
      with_reducible refine Only.step (sendSignal_only _ _ _ _ _) (by decide) ?_
      exact Only.refl _ _
    · exact h4
  · exact Only.refl _ _

theorem execVectorGroupComplete_only (core : BitVec 4) (s : State) : NextOnly sendSignalParts s (execVectorGroupComplete
    core s) := by
  unfold execVectorGroupComplete
  with_reducible refine NextOnly.next ?_
  with_reducible refine Only.step (vecComplete_only _ _) (by decide) ?_
  exact Only.refl _ _

/-- What `verifyFault` may change. -/
def verifyFaultParts : List Field := [.kp, .chime, .obs]

theorem verifyFault_only (s : State) (e : Nat) (code : BitVec 16) (off : Nat) (st : BitVec 16) : Only verifyFaultParts s
    (verifyFault s e code off st) := by
  unfold verifyFault
  with_reducible refine Only.ite ?_ ?_
  · exact Only.refl _ _
  · with_reducible refine Only.step (chSample_only _ _) (by decide) ?_
    with_reducible refine Only.set_kp (by decide) ?_
    exact Only.refl _ _

theorem launchVerdict_only (v : Verdict) (s : State) (x : Nat × Cmd) : Only pumpAllParts s (launchVerdict v s x) := by
  unfold launchVerdict
  split
  · with_reducible refine Only.step (completeCmd_only _ _ _ _ _ _) (by decide) ?_
    exact Only.refl _ _
  · with_reducible refine Only.modQ (by decide) ?_ ?_
    · exact fun _ => modCmd_sub _ _ _ (fun _ h => h)
    · exact Only.refl _ _

/-- What `verifyDone` may change. -/
def verifyDoneParts : List Field := [.writes, .mem, .poison, .au, .pool, .kp, .gens, .ctxs, .queues, .insts, .rgParts,
  .cores, .fr, .chime, .obs, .freeCount]

theorem verifyDone_only (s : State) : Only verifyDoneParts s (verifyDone s) := by
  unfold verifyDone
  split
  · exact Only.refl _ _
  · extract_lets -merge +onlyGivenNames x0
    try clear_value x0
    extract_lets -merge +onlyGivenNames s1
    have h2 : Only verifyDoneParts s s1 := by
      unfold s1
      with_reducible refine Only.step (State.modGen_only _ _ _) (by decide) ?_
      exact Only.refl _ _
    try clear_value s1
    extract_lets -merge +onlyGivenNames _ s3
    have h4 : Only verifyDoneParts s s3 := by
      unfold s3
      with_reducible refine Only.set_kp (by decide) ?_
      exact h2
    try clear_value s3
    extract_lets -merge +onlyGivenNames s5
    have h6 : Only verifyDoneParts s s5 := by
      unfold s5
      split
      · with_reducible refine Only.step (verifyFault_only _ _ _ _ _) (by decide) ?_
        exact h4
      · exact h4
    try clear_value s5
    with_reducible refine Only.step (pumpAll_only _) (by decide) ?_
    with_reducible refine Only.step (genSettle_only _) (by decide) ?_
    with_reducible refine Only.foldl ?_ ?_
    · intro u7 a8
      with_reducible refine Only.step (launchVerdict_only _ _ _) (by decide) ?_
      exact Only.refl _ _
    · exact h6

theorem execVerifyScanDone_only (s : State) : NextOnly verifyDoneParts s (execVerifyScanDone s) := by
  unfold execVerifyScanDone
  with_reducible refine NextOnly.next ?_
  with_reducible refine Only.ite ?_ ?_
  · with_reducible refine Only.step (verifyDone_only _) (by decide) ?_
    exact Only.refl _ _
  · exact Only.refl _ _

theorem execLoaderModeWrite_only (who : Who) (data : W32) (s : State) : NextOnly hostCheckParts s (execLoaderModeWrite who
    data s) := by
  unfold execLoaderModeWrite
  with_reducible refine NextOnly.next ?_
  with_reducible refine hostWrite_only (by decide) ?_ ?_
  · intro u0 
    with_reducible refine Only.step (setLoaderMode_only _ _) (by decide) ?_
    exact Only.refl _ _
  · exact Only.refl _ _

theorem execStreamLoad_only (core : BitVec 4) (s : State) : NextOnly takeCounterParts s (execStreamLoad core s) := by
  unfold execStreamLoad
  with_reducible refine NextOnly.next ?_
  with_reducible refine Only.step (objRow_only _ _ _ _) (by decide) ?_
  exact Only.refl _ _

theorem execKillComplete_only (core : BitVec 4) (s : State) : NextOnly killFinalParts s (execKillComplete core s) := by
  unfold execKillComplete
  with_reducible refine NextOnly.next ?_
  with_reducible refine Only.ite ?_ ?_
  · exact Only.refl _ _
  · with_reducible refine Only.step (killWaiters_only _) (by decide) ?_
    with_reducible refine Only.step (killCore_only _ _) (by decide) ?_
    exact Only.refl _ _

theorem timerTick_only (s : State) (t : Nat) : Only setSrcParts s (timerTick s t) := by
  unfold timerTick
  extract_lets -merge +onlyGivenNames x0
  try clear_value x0
  with_reducible refine Only.ite ?_ ?_
  · with_reducible refine Only.step (State.setTarget_only _ _ _) (by decide) ?_
    exact Only.refl _ _
  · exact Only.refl _ _

/-- What `keeperCycle` may change. -/
def keeperCycleParts : List Field := [.au, .queues, .sec, .fr, .chime, .obs, .frCfg, .obsCfg, .auIdle]

theorem keeperCycle_only (s : State) : Only keeperCycleParts s (keeperCycle s) := by
  unfold keeperCycle
  extract_lets -merge +onlyGivenNames x0
  extract_lets -merge +onlyGivenNames _ _ _ s1
  have h2 : Only keeperCycleParts s s1 := by
    unfold s1
    refine Only.set_queues_sec_fr_obs (by decide) (fun q => by
        exact mapQueues_sub _ _ _ (fun _ => by exact waitTick_sub _ _)) ?_
    exact Only.refl _ _
  try clear_value s1
  with_reducible refine Only.step (traceSettle_only _) (by decide) ?_
  with_reducible refine Only.step (chEval_only _) (by decide) ?_
  with_reducible refine Only.foldl ?_ ?_
  · intro u3 a4
    with_reducible refine Only.step (timerTick_only _ _) (by decide) ?_
    exact Only.refl _ _
  · exact h2

/-- What `tick` may change. -/
def tickParts : List Field := [.esc, .au, .queues, .rgParts, .jobs, .cores, .sec, .fr, .chime, .obs, .frCfg, .obsCfg,
  .auIdle]

theorem tick_only (s : State) : Only tickParts s (tick s) := by
  unfold tick
  with_reducible refine Only.ite ?_ ?_
  · extract_lets -merge +onlyGivenNames _ s0
    have h1 : Only tickParts s s0 := by
      unfold s0
      with_reducible refine Only.set_esc (by decide) ?_
      exact Only.refl _ _
    try clear_value s0
    with_reducible refine Only.ite ?_ ?_
    · exact h1
    · with_reducible refine Only.step (keeperCycle_only _) (by decide) ?_
      with_reducible refine Only.ite ?_ ?_
      · exact h1
      · with_reducible refine Only.step (coreCycles_only _) (by decide) ?_
        exact h1
  · exact Only.refl _ _

end Sys2Proof.Machine
end

