-- ==== Sys2Proof/Laws/OnlyQueues.lean ====
section
/-! SUPPORT. Which parts of the state an operation may change, for packets, moves, the dirty log, teardown, the mailbox and
the Regulator. -/

namespace Sys2Proof.Machine

theorem abandonFence_only (s : State) (i : Nat) : Only blockWriteParts s (abandonFence s i) := by
  unfold abandonFence
  with_reducible refine Only.step (objWrite_only _ _ _ _ _) (by decide) ?_
  exact Only.refl _ _

theorem modTeardown_only (s : State) (ctx : Nat) (f : Teardown → Teardown) : Only setCtxParts s (modTeardown s ctx f) := by
  unfold modTeardown
  with_reducible refine Only.step (State.modCtx_only _ _ _) (by decide) ?_
  exact Only.refl _ _

/-- What `abandonStep` may change. -/
def abandonStepParts : List Field := [.writes, .mem, .poison, .au, .run, .pool, .gens, .ctxs, .insts, .jobs, .cores,
  .counters, .fr, .chime, .obs, .freeCount]

theorem abandonStep_only (s : State) (ctx : Nat) : Only abandonStepParts s (abandonStep s ctx) := by
  unfold abandonStep
  extract_lets -merge +onlyGivenNames s0
  have h1 : Only abandonStepParts s s0 := by
    unfold s0
    with_reducible refine Only.foldl ?_ ?_
    · intro u2 a3
      with_reducible refine Only.step (abandonFence_only _ _) (by decide) ?_
      exact Only.refl _ _
    · exact Only.refl _ _
  try clear_value s0
  with_reducible refine Only.step (modTeardown_only _ _ _) (by decide) ?_
  with_reducible refine Only.step (killWaiters_only _) (by decide) ?_
  with_reducible refine Only.step (abandonCounters_only _ _) (by decide) ?_
  exact h1

theorem addArrival_only (s : State) (n : Nat) : Only completeRoundParts s (addArrival s n) := by
  unfold addArrival
  with_reducible refine Only.step (flightArrived_only _ _) (by decide) ?_
  with_reducible refine Only.step (flightAdd_only _ _ _) (by decide) ?_
  exact Only.refl _ _

theorem attestTake_only (s : State) : Only eraseSettleParts s (attestTake s) := by
  unfold attestTake
  with_reducible refine Only.ite ?_ ?_
  · exact Only.refl _ _
  · split
    · exact Only.refl _ _
    · extract_lets -merge +onlyGivenNames x0
      try clear_value x0
      extract_lets -merge +onlyGivenNames x1
      try clear_value x1
      with_reducible refine Only.set_sec (by decide) ?_
      exact Only.refl _ _

/-- What `attestDone` may change. -/
def attestDoneParts : List Field := [.writes, .mem, .poison, .au, .pool, .gens, .insts, .sec, .chime, .obs]

theorem attestDone_only (s : State) : Only attestDoneParts s (attestDone s) := by
  unfold attestDone
  split
  · with_reducible refine Only.step (attestTake_only _) (by decide) ?_
    exact Only.refl _ _
  · extract_lets -merge +onlyGivenNames _ s0
    have h1 : Only attestDoneParts s s0 := by
      unfold s0
      with_reducible refine Only.set_sec (by decide) ?_
      exact Only.refl _ _
    try clear_value s0
    extract_lets -merge +onlyGivenNames s2
    have h3 : Only attestDoneParts s s2 := by
      unfold s2
      with_reducible refine Only.ite ?_ ?_
      · with_reducible refine Only.step (mbDone_only _ _ _ _) (by decide) ?_
        with_reducible refine Only.step (objWrite_only _ _ _ _ _) (by decide) ?_
        exact h1
      · with_reducible refine Only.step (mbDone_only _ _ _ _) (by decide) ?_
        exact h1
    try clear_value s2
    with_reducible refine Only.step (attestTake_only _) (by decide) ?_
    exact h3

theorem preemptJob_only (s : State) (n : Nat) : Only killGraphParts s (preemptJob s n) := by
  unfold preemptJob
  split
  · exact Only.refl _ _
  · with_reducible refine Only.ite ?_ ?_
    · with_reducible refine Only.ite ?_ ?_
      · exact Only.refl _ _
      · with_reducible refine Only.step (State.setJob_only _ _ _) (by decide) ?_
        exact Only.refl _ _
    · with_reducible refine Only.step (killJob_only _ _ _ _ _) (by decide) ?_
      exact Only.refl _ _

/-- What `autoPreempt` may change. -/
def autoPreemptParts : List Field := [.run, .rgParts, .jobs, .cores, .chime, .obs, .freeCount]

theorem autoPreempt_only (s : State) (r : Running) (p : Nat) (w : Window) (t : Nat) : Only autoPreemptParts s (autoPreempt
    s r p w t) := by
  unfold autoPreempt
  split
  · exact Only.refl _ _
  · with_reducible refine Only.ite ?_ ?_
    · split
      · exact Only.refl _ _
      · with_reducible refine Only.step (preemptJob_only _ _) (by decide) ?_
        with_reducible refine Only.step (State.modRgPart_only _ _ _) (by decide) ?_
        exact Only.refl _ _
    · exact Only.refl _ _

/-- What `shareCleared` may change. -/
def shareClearedParts : List Field := [.shares]

theorem shareCleared_only (s : State) (c : Nat) (x : Nat × Share) : Only shareClearedParts s (shareCleared s c x) := by
  unfold shareCleared
  with_reducible refine Only.ite ?_ ?_
  · extract_lets -merge +onlyGivenNames x0
    try clear_value x0
    with_reducible refine Only.ite ?_ ?_
    · split
      · with_reducible refine Only.set_shares (by decide) ?_
        exact Only.refl _ _
      · with_reducible refine Only.set_shares (by decide) ?_
        exact Only.refl _ _
      · with_reducible refine Only.set_shares (by decide) ?_
        exact Only.refl _ _
    · with_reducible refine Only.set_shares (by decide) ?_
      exact Only.refl _ _
  · exact Only.refl _ _

/-- What `clearDone` may change. -/
def clearDoneParts : List Field := [.queues, .shares, .rgParts, .cores, .sec]

theorem clearDone_only (s : State) (c : Nat) : Only clearDoneParts s (clearDone s c) := by
  unfold clearDone
  split
  · exact Only.refl _ _
  · extract_lets -merge +onlyGivenNames s0
    have h1 : Only clearDoneParts s s0 := by
      unfold s0
      with_reducible refine Only.step (State.modCore_only _ _ _) (by decide) ?_
      exact Only.refl _ _
    try clear_value s0
    with_reducible refine Only.step (regEval_only _) (by decide) ?_
    with_reducible refine Only.step (eraseSettle_only _) (by decide) ?_
    with_reducible refine Only.foldl ?_ ?_
    · intro u2 a3
      with_reducible refine Only.step (shareCleared_only _ _ _) (by decide) ?_
      exact Only.refl _ _
    · exact h1

theorem modDisabling_only (s : State) (n : Nat) (f : Disabling → Disabling) : Only setInstParts s (modDisabling s n f) := by
  unfold modDisabling
  with_reducible refine Only.step (State.modInst_only _ _ _) (by decide) ?_
  exact Only.refl _ _

theorem commitAll_only (k : Nat) (s : State) (q : Nat) : Only commitQueueParts s (commitAll k s q) := by
  induction k generalizing s with
  | zero => exact Only.refl _ _
  | succ k ih =>
    unfold commitAll
    split
    · exact Only.refl _ _
    · with_reducible refine Only.step (ih _) (by decide) ?_
      with_reducible refine Only.step (commitQueue_only _ _) (by decide) ?_
      exact Only.refl _ _

theorem commitHeld_only (s : State) (qs : List Nat) : Only commitQueueParts s (commitHeld s qs) := by
  unfold commitHeld
  with_reducible refine Only.foldl ?_ ?_
  · intro u0 a1
    with_reducible refine Only.step (commitAll_only _ _ _) (by decide) ?_
    exact Only.refl _ _
  · exact Only.refl _ _

theorem closeGate_only (s : State) (n : Nat) : Only commitQueueParts s (closeGate s n) := by
  unfold closeGate
  with_reducible refine Only.step (modDisabling_only _ _ _) (by decide) ?_
  with_reducible refine Only.step (commitHeld_only _ _) (by decide) ?_
  exact Only.refl _ _

theorem closeStep_only (s : State) (ctx : Nat) : Only commitQueueParts s (closeStep s ctx) := by
  unfold closeStep
  with_reducible refine Only.step (modTeardown_only _ _ _) (by decide) ?_
  with_reducible refine Only.step (commitHeld_only _ _) (by decide) ?_
  exact Only.refl _ _

theorem endMove_only (s : State) (p : Nat) (qn : Nat) (seqNo : Nat) (code : BitVec 16) : Only pumpAllParts s (endMove s p
    qn seqNo code) := by
  unfold endMove
  extract_lets -merge +onlyGivenNames s0
  have h1 : Only pumpAllParts s s0 := by
    unfold s0
    with_reducible refine Only.step (State.modRgPart_only _ _ _) (by decide) ?_
    exact Only.refl _ _
  try clear_value s0
  split
  · exact h1
  · with_reducible refine Only.step (completeCmd_only _ _ _ _ _ _) (by decide) ?_
    with_reducible refine Only.step (addCounts_only _ _ _) (by decide) ?_
    exact h1

theorem poisonMove_only (s : State) (p : Nat) (qn : Nat) (seqNo : Nat) (a : Nat) : Only pumpAllParts s (poisonMove s p qn
    seqNo a) := by
  unfold poisonMove
  with_reducible refine Only.step (endMove_only _ _ _ _ _) (by decide) ?_
  with_reducible refine Only.step (errRecord_only _ _ _ _ _ _ _) (by decide) ?_
  exact Only.refl _ _

/-- What `flipWaits` may change. -/
def flipWaitsParts : List Field := [.writes]

theorem flipWaits_only (s : State) (n : Nat) : Only flipWaitsParts s (flipWaits s n) := by
  unfold flipWaits
  with_reducible refine Only.set_writes (by decide) ?_
  exact Only.refl _ _

theorem modDirty_only (s : State) (n : Nat) (f : Dirty → Dirty) : Only setInstParts s (modDirty s n f) := by
  unfold modDirty
  with_reducible refine Only.step (State.modInst_only _ _ _) (by decide) ?_
  exact Only.refl _ _

/-- What `dirtyBack` may change. -/
def dirtyBackParts : List Field := [.writes, .mem, .poison, .au, .pool, .gens, .chime, .obs]

theorem dirtyBack_only (s : State) (n : Nat) : Only dirtyBackParts s (dirtyBack s n) := by
  unfold dirtyBack
  extract_lets -merge +onlyGivenNames x0
  try clear_value x0
  extract_lets -merge +onlyGivenNames x1
  try clear_value x1
  with_reducible refine Only.foldl ?_ ?_
  · intro u2 a3
    extract_lets -merge +onlyGivenNames x4
    try clear_value x4
    extract_lets -merge +onlyGivenNames x5
    try clear_value x5
    extract_lets -merge +onlyGivenNames x6
    try clear_value x6
    extract_lets -merge +onlyGivenNames s7
    have h8 : Only dirtyBackParts u2 s7 := by
      unfold s7
      with_reducible refine Only.step (pmGlobal_only _ _ _) (by decide) ?_
      with_reducible refine Only.step (storeBytes_only _ _ _) (by decide) ?_
      with_reducible refine Only.step (writeWatch_only _ _ _) (by decide) ?_
      exact Only.refl _ _
    try clear_value s7
    extract_lets -merge +onlyGivenNames x9
    try clear_value x9
    with_reducible refine Only.set_writes (by decide) ?_
    exact h8
  · exact Only.refl _ _

theorem dirtyStop_only (s : State) (n : Nat) : Only blockWriteParts s (dirtyStop s n) := by
  unfold dirtyStop
  with_reducible refine Only.ite ?_ ?_
  · with_reducible refine Only.step (flipWaits_only _ _) (by decide) ?_
    with_reducible refine Only.step (modDirty_only _ _ _) (by decide) ?_
    with_reducible refine Only.step (dirtyBack_only _ _) (by decide) ?_
    exact Only.refl _ _
  · exact Only.refl _ _

theorem dirtyEnable_only (s : State) (n : Nat) : Only setInstParts s (dirtyEnable s n) := by
  unfold dirtyEnable
  with_reducible refine Only.ite ?_ ?_
  · exact Only.refl _ _
  · with_reducible refine Only.step (modDirty_only _ _ _) (by decide) ?_
    exact Only.refl _ _

theorem dirtyFlip_only (s : State) (n : Nat) : Only blockWriteParts s (dirtyFlip s n) := by
  unfold dirtyFlip
  extract_lets -merge +onlyGivenNames x0
  try clear_value x0
  with_reducible refine Only.ite ?_ ?_
  · with_reducible refine Only.step (flipWaits_only _ _) (by decide) ?_
    with_reducible refine Only.step (modDirty_only _ _ _) (by decide) ?_
    with_reducible refine Only.step (dirtyBack_only _ _) (by decide) ?_
    exact Only.refl _ _
  · exact Only.refl _ _

theorem setDirtyCtl_only (s : State) (v : W64) : Only blockWriteParts s (setDirtyCtl s v) := by
  unfold setDirtyCtl
  extract_lets -merge +onlyGivenNames x0
  try clear_value x0
  extract_lets -merge +onlyGivenNames x1
  try clear_value x1
  extract_lets -merge +onlyGivenNames s2
  have h3 : Only blockWriteParts s s2 := by
    unfold s2
    with_reducible refine Only.ite ?_ ?_
    · with_reducible refine Only.step (modDirty_only _ _ _) (by decide) ?_
      exact Only.refl _ _
    · exact Only.refl _ _
  try clear_value s2
  with_reducible refine Only.ite ?_ ?_
  · with_reducible refine Only.ite ?_ ?_
    · with_reducible refine Only.step (dirtyFlip_only _ _) (by decide) ?_
      exact h3
    · exact h3
  · with_reducible refine Only.ite ?_ ?_
    · with_reducible refine Only.step (dirtyStop_only _ _) (by decide) ?_
      exact h3
    · with_reducible refine Only.ite ?_ ?_
      · with_reducible refine Only.ite ?_ ?_
        · with_reducible refine Only.step (dirtyFlip_only _ _) (by decide) ?_
          exact h3
        · exact h3
      · with_reducible refine Only.step (dirtyEnable_only _ _) (by decide) ?_
        exact h3

theorem putDirtyCtl_only (s : State) (v : W64) : NextOnly blockWriteParts s (putDirtyCtl s v) := by
  unfold putDirtyCtl
  with_reducible refine NextOnly.ite ?_ ?_
  · exact NextOnly.fault _
  · with_reducible refine NextOnly.next ?_
    with_reducible refine Only.step (setDirtyCtl_only _ _) (by decide) ?_
    exact Only.refl _ _

/-- What `dirtyWrite` may change. -/
def dirtyWriteParts : List Field := [.boot, .writes, .mem, .poison, .au, .pool, .kp, .gens, .insts, .chime, .obs]

theorem dirtyWrite_only (s : State) (who : Who) (v : W64) : NextOnly dirtyWriteParts s (dirtyWrite s who v) := by
  unfold dirtyWrite
  split
  · with_reducible refine NextOnly.next ?_
    with_reducible refine Only.step (AccessOnly.of_ignored (hostCheck_only _ _ _ _ _) (by assumption)) (by decide) ?_
    exact Only.refl _ _
  · with_reducible refine NextOnly.step (putDirtyCtl_only _ _) (by decide) ?_
    exact Only.refl _ _

/-- What `stopCopy` may change. -/
def stopCopyParts : List Field := [.ctxs, .queues, .rgParts]

theorem stopCopy_only (s : State) (x : Nat × Nat × Nat) : Only stopCopyParts s (stopCopy s x) := by
  unfold stopCopy
  extract_lets -merge +onlyGivenNames s0
  have h1 : Only stopCopyParts s s0 := by
    unfold s0
    with_reducible refine Only.step (State.modRgPart_only _ _ _) (by decide) ?_
    exact Only.refl _ _
  try clear_value s0
  split
  · exact h1
  · with_reducible refine Only.modQ (by decide) ?_ ?_
    · exact fun _ => modCmd_sub _ _ _ (fun _ h => h)
    · with_reducible refine Only.step (addCounts_only _ _ _) (by decide) ?_
      exact h1

/-- What `disableKill` may change. -/
def disableKillParts : List Field := [.run, .ctxs, .queues, .insts, .rgParts, .jobs, .cores, .chime, .obs, .freeCount]

theorem disableKill_only (s : State) (n : Nat) : Only disableKillParts s (disableKill s n) := by
  unfold disableKill
  extract_lets -merge +onlyGivenNames x0
  try clear_value x0
  extract_lets -merge +onlyGivenNames s1
  have h2 : Only disableKillParts s s1 := by
    unfold s1
    with_reducible refine Only.step (killJobs_only _ _ _ _) (by decide) ?_
    exact Only.refl _ _
  try clear_value s1
  extract_lets -merge +onlyGivenNames s3
  have h4 : Only disableKillParts s s3 := by
    unfold s3
    with_reducible refine Only.foldl ?_ ?_
    · intro u5 a6
      with_reducible refine Only.step (stopCopy_only _ _) (by decide) ?_
      exact Only.refl _ _
    · exact h2
  try clear_value s3
  with_reducible refine Only.step (modDisabling_only _ _ _) (by decide) ?_
  exact h4

theorem killCheck_only (s : State) (n : Nat) : Only disableKillParts s (killCheck s n) := by
  unfold killCheck
  split
  · with_reducible refine Only.ite ?_ ?_
    · with_reducible refine Only.step (disableKill_only _ _) (by decide) ?_
      exact Only.refl _ _
    · exact Only.refl _ _
  · exact Only.refl _ _

theorem drainCheck_only (s : State) (n : Nat) : Only commitQueueParts s (drainCheck s n) := by
  unfold drainCheck
  split
  · with_reducible refine Only.ite ?_ ?_
    · with_reducible refine Only.step (closeGate_only _ _) (by decide) ?_
      exact Only.refl _ _
    · exact Only.refl _ _
  · exact Only.refl _ _

/-- What `disableAdvance` may change. -/
def disableAdvanceParts : List Field := [.writes, .mem, .poison, .au, .run, .pool, .gens, .objs, .ctxs, .queues,
  .insts, .rgParts, .jobs, .cores, .counters, .sy, .fr, .chime, .obs, .freeCount, .obsCfg]

theorem disableAdvance_only (s : State) (n : Nat) : Only disableAdvanceParts s (disableAdvance s n) := by
  unfold disableAdvance
  with_reducible refine Only.step (killCheck_only _ _) (by decide) ?_
  with_reducible refine Only.step (drainCheck_only _ _) (by decide) ?_
  exact Only.refl _ _

theorem stopQueues_only (s : State) (qs : List Nat) (disable : Bool) : Only endBarriersParts s (stopQueues s qs disable) :=
    by
  unfold stopQueues
  with_reducible refine Only.foldl ?_ ?_
  · intro u0 a1
    with_reducible refine Only.modQ (by decide) ?_ ?_
    · exact fun _ => stop_sub _ _
    · exact Only.refl _ _
  · exact Only.refl _ _

theorem disableBegin_only (s : State) (n : Nat) (drain : Bool) : Only disableAdvanceParts s (disableBegin s n drain) := by
  unfold disableBegin
  extract_lets -merge +onlyGivenNames s0
  have h1 : Only disableAdvanceParts s s0 := by
    unfold s0
    with_reducible refine Only.step (stopQueues_only _ _ _) (by decide) ?_
    exact Only.refl _ _
  try clear_value s0
  extract_lets -merge +onlyGivenNames s2
  have h3 : Only disableAdvanceParts s s2 := by
    unfold s2
    with_reducible refine Only.step (State.modInst_only _ _ _) (by decide) ?_
    exact h1
  try clear_value s2
  with_reducible refine Only.step (disableAdvance_only _ _) (by decide) ?_
  with_reducible refine Only.ite ?_ ?_
  · exact h3
  · with_reducible refine Only.step (closeGate_only _ _) (by decide) ?_
    exact h3

theorem notice_only (s : State) (n : Nat) (disable : Bool) (ctx : Nat) (killed : Nat) (code : BitVec 16) : Only mbDoneParts
    s (notice s n disable ctx killed code) := by
  unfold notice
  with_reducible refine Only.ite ?_ ?_
  · with_reducible refine Only.step (State.modPage_only _ _ _) (by decide) ?_
    exact Only.refl _ _
  · with_reducible refine Only.step (chSample_only _ _) (by decide) ?_
    with_reducible refine Only.step (State.modPage_only _ _ _) (by decide) ?_
    exact Only.refl _ _

theorem disableEnd_only (s : State) (n : Nat) : Only mbDoneParts s (disableEnd s n) := by
  unfold disableEnd
  split
  · exact Only.refl _ _
  · with_reducible refine Only.ite ?_ ?_
    · extract_lets -merge +onlyGivenNames s0
      have h1 : Only mbDoneParts s s0 := by
        unfold s0
        with_reducible refine Only.step (State.modInst_only _ _ _) (by decide) ?_
        exact Only.refl _ _
      try clear_value s0
      with_reducible refine Only.step (notice_only _ _ _ _ _ _) (by decide) ?_
      with_reducible refine Only.step (mbDone_only _ _ _ _) (by decide) ?_
      exact h1
    · exact Only.refl _ _

theorem disablesAdvance_only (s : State) : Only disableAdvanceParts s (disablesAdvance s) := by
  unfold disablesAdvance
  with_reducible refine Only.foldl ?_ ?_
  · intro u0 a1
    with_reducible refine Only.step (disableAdvance_only _ _) (by decide) ?_
    exact Only.refl _ _
  · exact Only.refl _ _

/-- What `dropStep` may change. -/
def dropStepParts : List Field := [.ctxs, .queues, .insts, .rg, .chime, .obs]

theorem dropStep_only (s : State) (ctx : Nat) : Only dropStepParts s (dropStep s ctx) := by
  unfold dropStep
  extract_lets -merge +onlyGivenNames s0
  have h1 : Only dropStepParts s s0 := by
    unfold s0
    with_reducible refine Only.foldl ?_ ?_
    · intro u2 a3
      split
      · with_reducible refine Only.step (mbDone_only _ _ _ _) (by decide) ?_
        with_reducible refine Only.step (freeQueue_only _ _) (by decide) ?_
        exact Only.refl _ _
      · with_reducible refine Only.step (freeQueue_only _ _) (by decide) ?_
        exact Only.refl _ _
    · exact Only.refl _ _
  try clear_value s0
  with_reducible refine Only.step (State.modCtx_only _ _ _) (by decide) ?_
  with_reducible refine Only.step (modTeardown_only _ _ _) (by decide) ?_
  exact h1

theorem endDisable_only (s : State) : Only mbDoneParts s (endDisable s) := by
  unfold endDisable
  with_reducible refine Only.step (mbDone_only _ _ _ _) (by decide) ?_
  exact Only.refl _ _

/-- What `setObjBase` may change. -/
def setObjBaseParts : List Field := [.kp, .objs]

theorem setObjBase_only (s : State) (v : W64) : Only setObjBaseParts s (setObjBase s v) := by
  unfold setObjBase
  extract_lets -merge +onlyGivenNames x0
  try clear_value x0
  with_reducible refine Only.ite ?_ ?_
  · exact Only.refl _ _
  · with_reducible refine Only.ite ?_ ?_
    · with_reducible refine Only.ite ?_ ?_
      · exact Only.refl _ _
      · with_reducible refine Only.set_kp_objs (by decide) ?_
        exact Only.refl _ _
    · with_reducible refine Only.set_kp (by decide) ?_
      exact Only.refl _ _

/-- What `setWeight` may change. -/
def setWeightParts : List Field := [.ctxs, .queues, .insts]

theorem setWeight_only (s : State) (v : W64) : Only setWeightParts s (setWeight s v) := by
  unfold setWeight
  extract_lets -merge +onlyGivenNames x0
  try clear_value x0
  extract_lets -merge +onlyGivenNames x1
  try clear_value x1
  split
  · with_reducible refine Only.step (State.modInst_only _ _ _) (by decide) ?_
    exact Only.refl _ _
  · with_reducible refine Only.step (State.modCtx_only _ _ _) (by decide) ?_
    exact Only.refl _ _
  · with_reducible refine Only.modQ (by decide) ?_ ?_
    · exact fun _ => SeqSub.refl _
    · exact Only.refl _ _
  · exact Only.refl _ _

theorem queueResult_only (s : State) (qn : Nat) (code : BitVec 16) : Only preemptDoneParts s (queueResult s qn code) := by
  unfold queueResult
  with_reducible refine Only.set_rg (by decide) (by rfl) ?_
  exact Only.refl _ _

theorem queueStop_only (s : State) (qn : Nat) : Only freeQueueParts s (queueStop s qn) := by
  unfold queueStop
  with_reducible refine Only.ite ?_ ?_
  · with_reducible refine Only.step (queueResult_only _ _ _) (by decide) ?_
    with_reducible refine Only.modQ (by decide) ?_ ?_
    · exact fun _ => stop_sub _ _
    · exact Only.refl _ _
  · with_reducible refine Only.step (queueResult_only _ _ _) (by decide) ?_
    exact Only.refl _ _

theorem queueRestart_only (s : State) (qn : Nat) : Only freeQueueParts s (queueRestart s qn) := by
  unfold queueRestart
  extract_lets -merge +onlyGivenNames x0
  with_reducible refine Only.ite ?_ ?_
  · with_reducible refine Only.step (queueResult_only _ _ _) (by decide) ?_
    exact Only.refl _ _
  · with_reducible refine Only.ite ?_ ?_
    · with_reducible refine Only.step (queueResult_only _ _ _) (by decide) ?_
      with_reducible refine Only.setQ (by decide) ?_ ?_
      · exact SeqSub.refl _
      · exact Only.refl _ _
    · with_reducible refine Only.step (queueResult_only _ _ _) (by decide) ?_
      exact Only.refl _ _

theorem queueRebind_only (s : State) (qn : Nat) (part : BitVec 3) : Only freeQueueParts s (queueRebind s qn part) := by
  unfold queueRebind
  dsimp only
  have h : ∀ code, Only freeQueueParts s (queueResult s qn code) := fun _ => Only.step (queueResult_only _ _ _) (by decide) (Only.refl _ _)
  refine Only.ite (h _) (Only.ite (h _) (Only.ite ?_ (h _)))
  exact Only.set_rg (by decide) rfl (Only.setQ (by decide) (stop_sub _ _) (Only.refl _ _))

theorem queueCommand_only (s : State) (v : W64) : Only freeQueueParts s (queueCommand s v) := by
  unfold queueCommand
  extract_lets -merge +onlyGivenNames x0
  try clear_value x0
  split
  · with_reducible refine Only.step (queueStop_only _ _) (by decide) ?_
    exact Only.refl _ _
  · with_reducible refine Only.step (queueRestart_only _ _) (by decide) ?_
    exact Only.refl _ _
  · with_reducible refine Only.step (queueRebind_only _ _ _) (by decide) ?_
    exact Only.refl _ _
  · exact Only.refl _ _

/-- What `preemptAll` may change. -/
def preemptAllParts : List Field := [.run, .rg, .jobs, .cores, .chime, .obs, .freeCount]

theorem preemptAll_only (s : State) (target : Job → Bool) : Only preemptAllParts s (preemptAll s target) := by
  unfold preemptAll
  extract_lets -merge +onlyGivenNames x0
  try clear_value x0
  with_reducible refine Only.foldl ?_ ?_
  · intro u1 a2
    with_reducible refine Only.step (preemptJob_only _ _) (by decide) ?_
    exact Only.refl _ _
  · with_reducible refine Only.set_rg (by decide) (by rfl) ?_
    exact Only.refl _ _

theorem preemptQueue_only (s : State) (t : Nat) : Only preemptAllParts s (preemptQueue s t) := by
  unfold preemptQueue
  with_reducible refine Only.step (preemptAll_only _ _) (by decide) ?_
  exact Only.refl _ _

theorem preemptContext_only (s : State) (t : Nat) : Only preemptAllParts s (preemptContext s t) := by
  unfold preemptContext
  with_reducible refine Only.step (preemptAll_only _ _) (by decide) ?_
  exact Only.refl _ _

theorem preemptInstance_only (s : State) (t : Nat) : Only preemptAllParts s (preemptInstance s t) := by
  unfold preemptInstance
  with_reducible refine Only.step (preemptAll_only _ _) (by decide) ?_
  exact Only.refl _ _

theorem preemptCores_only (s : State) (p : Nat) (mask : Nat) : Only preemptAllParts s (preemptCores s p mask) := by
  unfold preemptCores
  with_reducible refine Only.step (preemptAll_only _ _) (by decide) ?_
  exact Only.refl _ _

theorem preemptCommand_only (s : State) (v : W64) : Only preemptAllParts s (preemptCommand s v) := by
  unfold preemptCommand
  extract_lets -merge +onlyGivenNames x0
  try clear_value x0
  split
  · with_reducible refine Only.step (preemptQueue_only _ _) (by decide) ?_
    exact Only.refl _ _
  · with_reducible refine Only.step (preemptContext_only _ _) (by decide) ?_
    exact Only.refl _ _
  · with_reducible refine Only.step (preemptInstance_only _ _) (by decide) ?_
    exact Only.refl _ _
  · with_reducible refine Only.step (preemptCores_only _ _ _) (by decide) ?_
    exact Only.refl _ _
  · exact Only.refl _ _

theorem shareCode_only (s : State) (code : BitVec 16) : Only preemptDoneParts s (shareCode s code) := by
  unfold shareCode
  with_reducible refine Only.set_rg (by decide) (by rfl) ?_
  exact Only.refl _ _

/-- What `placeShare` may change. -/
def placeShareParts : List Field := [.shares, .rg, .cores]

theorem placeShare_only (s : State) (n : Nat) (ctx : Nat) (p : Nat) (off : Nat) (size : Nat) : Only placeShareParts s
    (placeShare s n ctx p off size) := by
  unfold placeShare
  extract_lets -merge +onlyGivenNames x0
  try clear_value x0
  extract_lets -merge +onlyGivenNames s1
  have h2 : Only placeShareParts s s1 := by
    unfold s1
    with_reducible refine Only.set_shares (by decide) ?_
    exact Only.refl _ _
  try clear_value s1
  with_reducible refine Only.step (shareCode_only _ _) (by decide) ?_
  with_reducible refine Only.foldl ?_ ?_
  · intro u3 a4
    with_reducible refine Only.step (clearRange_only _ _ _ _) (by decide) ?_
    exact Only.refl _ _
  · exact h2

theorem shareGrant_only (s : State) (size : Nat) : Only placeShareParts s (shareGrant s size) := by
  unfold shareGrant
  extract_lets -merge +onlyGivenNames x0
  try clear_value x0
  extract_lets -merge +onlyGivenNames x1
  try clear_value x1
  with_reducible refine Only.ite ?_ ?_
  · with_reducible refine Only.step (shareCode_only _ _) (by decide) ?_
    exact Only.refl _ _
  · with_reducible refine Only.ite ?_ ?_
    · with_reducible refine Only.step (shareCode_only _ _) (by decide) ?_
      exact Only.refl _ _
    · with_reducible refine Only.ite ?_ ?_
      · with_reducible refine Only.step (shareCode_only _ _) (by decide) ?_
        exact Only.refl _ _
      · split
        · with_reducible refine Only.step (placeShare_only _ _ _ _ _ _) (by decide) ?_
          exact Only.refl _ _
        · with_reducible refine Only.step (shareCode_only _ _) (by decide) ?_
          exact Only.refl _ _

/-- What `shareRelease` may change. -/
def shareReleaseParts : List Field := [.queues, .shares, .rg, .rgParts, .cores]

theorem shareRelease_only (s : State) : Only shareReleaseParts s (shareRelease s) := by
  unfold shareRelease
  split
  · with_reducible refine Only.step (shareCode_only _ _) (by decide) ?_
    exact Only.refl _ _
  · extract_lets -merge +onlyGivenNames s0
    have h1 : Only shareReleaseParts s s0 := by
      unfold s0
      with_reducible refine Only.step (shareCode_only _ _) (by decide) ?_
      exact Only.refl _ _
    try clear_value s0
    with_reducible refine Only.ite ?_ ?_
    · exact h1
    · with_reducible refine Only.step (regEval_only _) (by decide) ?_
      with_reducible refine Only.step (shareSettle_only _) (by decide) ?_
      with_reducible refine Only.set_shares (by decide) ?_
      exact h1

theorem shareCommand_only (s : State) (v : W64) : Only shareReleaseParts s (shareCommand s v) := by
  unfold shareCommand
  split
  · with_reducible refine Only.step (shareGrant_only _ _) (by decide) ?_
    exact Only.refl _ _
  · with_reducible refine Only.step (shareRelease_only _) (by decide) ?_
    exact Only.refl _ _
  · exact Only.refl _ _

theorem mbWord_only (s : State) (n : Nat) (k : Nat) (v : W64) : Only setInstParts s (mbWord s n k v) := by
  unfold mbWord
  with_reducible refine Only.ite ?_ ?_
  · exact Only.refl _ _
  · with_reducible refine Only.step (State.modPage_only _ _ _) (by decide) ?_
    exact Only.refl _ _

/-- What `mbCtxCreate` may change. -/
def mbCtxCreateParts : List Field := [.ctxs, .insts, .chime, .obs]

theorem mbCtxCreate_only (s : State) (n : Nat) (p : Page) : Only mbCtxCreateParts s (mbCtxCreate s n p) := by
  unfold mbCtxCreate
  extract_lets -merge +onlyGivenNames x0
  try clear_value x0
  split
  · with_reducible refine Only.step (mbDone_only _ _ _ _) (by decide) ?_
    exact Only.refl _ _
  · extract_lets -merge +onlyGivenNames x1
    try clear_value x1
    extract_lets -merge +onlyGivenNames _ _ s2
    have h3 : Only mbCtxCreateParts s s2 := by
      unfold s2
      with_reducible refine Only.step (State.setCtx_only _ _ _) (by decide) ?_
      exact Only.refl _ _
    try clear_value s2
    with_reducible refine Only.step (mbDone_only _ _ _ _) (by decide) ?_
    exact h3

/-- What `teardownBegin` may change. -/
def teardownBeginParts : List Field := [.ctxs, .queues]

theorem teardownBegin_only (s : State) (ctx : Nat) (page : Option Nat) (byReset : Bool) : Only teardownBeginParts s
    (teardownBegin s ctx page byReset) := by
  unfold teardownBegin
  extract_lets -merge +onlyGivenNames x0
  try clear_value x0
  extract_lets -merge +onlyGivenNames s1
  have h2 : Only teardownBeginParts s s1 := by
    unfold s1
    with_reducible refine Only.step (State.setCtx_only _ _ _) (by decide) ?_
    exact Only.refl _ _
  try clear_value s1
  with_reducible refine Only.step (stopQueues_only _ _ _) (by decide) ?_
  exact h2

/-- What `mbCtxDestroy` may change. -/
def mbCtxDestroyParts : List Field := [.ctxs, .queues, .insts, .chime, .obs]

theorem mbCtxDestroy_only (s : State) (n : Nat) (p : Page) : Only mbCtxDestroyParts s (mbCtxDestroy s n p) := by
  unfold mbCtxDestroy
  extract_lets -merge +onlyGivenNames x0
  try clear_value x0
  extract_lets -merge +onlyGivenNames x1
  try clear_value x1
  with_reducible refine Only.ite ?_ ?_
  · with_reducible refine Only.step (teardownBegin_only _ _ _ _) (by decide) ?_
    exact Only.refl _ _
  · with_reducible refine Only.step (mbDone_only _ _ _ _) (by decide) ?_
    exact Only.refl _ _

/-- What `mbQueueCreate` may change. -/
def mbQueueCreateParts : List Field := [.queues, .insts, .chime, .obs]

theorem mbQueueCreate_only (s : State) (n : Nat) (p : Page) : Only mbQueueCreateParts s (mbQueueCreate s n p) := by
  unfold mbQueueCreate
  extract_lets -merge +onlyGivenNames x0
  try clear_value x0
  extract_lets -merge +onlyGivenNames x1
  try clear_value x1
  extract_lets -merge +onlyGivenNames x2
  try clear_value x2
  extract_lets -merge +onlyGivenNames x3
  try clear_value x3
  extract_lets -merge +onlyGivenNames x4
  try clear_value x4
  extract_lets -merge +onlyGivenNames x5
  try clear_value x5
  extract_lets -merge +onlyGivenNames x6
  try clear_value x6
  extract_lets -merge +onlyGivenNames x7
  try clear_value x7
  with_reducible refine Only.ite ?_ ?_
  · with_reducible refine Only.step (mbDone_only _ _ _ _) (by decide) ?_
    with_reducible refine Only.setQ (by decide) ?_ ?_
    · exact List.nil_sublist _
    · exact Only.refl _ _
  · with_reducible refine Only.step (mbDone_only _ _ _ _) (by decide) ?_
    exact Only.refl _ _

theorem mbQueueDestroy_only (s : State) (n : Nat) (p : Page) : Only destroySettleParts s (mbQueueDestroy s n p) := by
  unfold mbQueueDestroy
  extract_lets -merge +onlyGivenNames x0
  try clear_value x0
  extract_lets -merge +onlyGivenNames x1
  with_reducible refine Only.ite ?_ ?_
  · with_reducible refine Only.step (destroySettle_only _ _) (by decide) ?_
    with_reducible refine Only.setQ (by decide) ?_ ?_
    · exact SeqSub.refl _
    · exact Only.refl _ _
  · with_reducible refine Only.step (mbDone_only _ _ _ _) (by decide) ?_
    exact Only.refl _ _

theorem mbQueueReset_only (s : State) (n : Nat) (p : Page) : Only mbQueueCreateParts s (mbQueueReset s n p) := by
  unfold mbQueueReset
  extract_lets -merge +onlyGivenNames x0
  try clear_value x0
  extract_lets -merge +onlyGivenNames x1
  with_reducible refine Only.ite ?_ ?_
  · extract_lets -merge +onlyGivenNames x2
    with_reducible refine Only.step (mbDone_only _ _ _ _) (by decide) ?_
    with_reducible refine Only.setQ (by decide) ?_ ?_
    · exact SeqSub.refl _
    · exact Only.refl _ _
  · with_reducible refine Only.step (mbDone_only _ _ _ _) (by decide) ?_
    exact Only.refl _ _

/-- What `mbCounterAlloc` may change. -/
def mbCounterAllocParts : List Field := [.insts, .counters, .chime, .obs]

theorem mbCounterAlloc_only (s : State) (n : Nat) (p : Page) : Only mbCounterAllocParts s (mbCounterAlloc s n p) := by
  unfold mbCounterAlloc
  extract_lets -merge +onlyGivenNames x0
  try clear_value x0
  extract_lets -merge +onlyGivenNames x1
  try clear_value x1
  split
  · with_reducible refine Only.step (mbDone_only _ _ _ _) (by decide) ?_
    exact Only.refl _ _
  · with_reducible refine Only.ite ?_ ?_
    · extract_lets -merge +onlyGivenNames x2
      try clear_value x2
      extract_lets -merge +onlyGivenNames x3
      try clear_value x3
      with_reducible refine Only.step (mbDone_only _ _ _ _) (by decide) ?_
      with_reducible refine Only.step (State.setCounter_only _ _ _) (by decide) ?_
      exact Only.refl _ _
    · with_reducible refine Only.step (mbDone_only _ _ _ _) (by decide) ?_
      exact Only.refl _ _

theorem mbInstCreate_only (s : State) (n : Nat) (p : Page) : Only mbDoneParts s (mbInstCreate s n p) := by
  unfold mbInstCreate
  extract_lets -merge +onlyGivenNames x0
  try clear_value x0
  extract_lets -merge +onlyGivenNames x1
  try clear_value x1
  extract_lets -merge +onlyGivenNames x2
  try clear_value x2
  extract_lets -merge +onlyGivenNames x3
  try clear_value x3
  with_reducible refine Only.ite ?_ ?_
  · with_reducible refine Only.step (mbDone_only _ _ _ _) (by decide) ?_
    exact Only.refl _ _
  · with_reducible refine Only.ite ?_ ?_
    · with_reducible refine Only.step (mbDone_only _ _ _ _) (by decide) ?_
      exact Only.refl _ _
    · with_reducible refine Only.ite ?_ ?_
      · with_reducible refine Only.step (mbDone_only _ _ _ _) (by decide) ?_
        exact Only.refl _ _
      · with_reducible refine Only.ite ?_ ?_
        · with_reducible refine Only.step (mbDone_only _ _ _ _) (by decide) ?_
          exact Only.refl _ _
        · with_reducible refine Only.step (mbDone_only _ _ _ _) (by decide) ?_
          with_reducible refine Only.step (State.modInst_only _ _ _) (by decide) ?_
          exact Only.refl _ _

theorem mbInstDisable_only (s : State) (n : Nat) (p : Page) : Only disableAdvanceParts s (mbInstDisable s n p) := by
  unfold mbInstDisable
  extract_lets -merge +onlyGivenNames x0
  try clear_value x0
  with_reducible refine Only.ite ?_ ?_
  · with_reducible refine Only.step (disableBegin_only _ _ _) (by decide) ?_
    exact Only.refl _ _
  · with_reducible refine Only.step (mbDone_only _ _ _ _) (by decide) ?_
    exact Only.refl _ _

theorem mbInstEnable_only (s : State) (n : Nat) (p : Page) : Only pumpAllParts s (mbInstEnable s n p) := by
  unfold mbInstEnable
  extract_lets -merge +onlyGivenNames x0
  try clear_value x0
  with_reducible refine Only.ite ?_ ?_
  · extract_lets -merge +onlyGivenNames s1
    have h2 : Only pumpAllParts s s1 := by
      unfold s1
      with_reducible refine Only.step (State.modInst_only _ _ _) (by decide) ?_
      exact Only.refl _ _
    try clear_value s1
    extract_lets -merge +onlyGivenNames s3
    have h4 : Only pumpAllParts s s3 := by
      unfold s3
      with_reducible refine Only.foldl ?_ ?_
      · intro u5 a6
        with_reducible refine Only.modQ (by decide) ?_ ?_
        · exact fun _ => enable_sub _
        · exact Only.refl _ _
      · exact h2
    try clear_value s3
    with_reducible refine Only.step (mbDone_only _ _ _ _) (by decide) ?_
    with_reducible refine Only.step (pumpAll_only _) (by decide) ?_
    exact h4
  · with_reducible refine Only.step (mbDone_only _ _ _ _) (by decide) ?_
    exact Only.refl _ _

theorem resetEnd_only (s : State) (n : Nat) : Only attestDoneParts s (resetEnd s n) := by
  unfold resetEnd
  extract_lets -merge +onlyGivenNames x0
  try clear_value x0
  extract_lets -merge +onlyGivenNames s1
  have h2 : Only attestDoneParts s s1 := by
    unfold s1
    with_reducible refine Only.step (dirtyStop_only _ _) (by decide) ?_
    with_reducible refine Only.step (eraseKeys_only _ _) (by decide) ?_
    exact Only.refl _ _
  try clear_value s1
  extract_lets -merge +onlyGivenNames _ s3
  have h4 : Only attestDoneParts s s3 := by
    unfold s3
    with_reducible refine Only.set_sec (by decide) ?_
    exact h2
  try clear_value s3
  extract_lets -merge +onlyGivenNames _ s5
  have h6 : Only attestDoneParts s s5 := by
    unfold s5
    with_reducible refine Only.step (State.modInst_only _ _ _) (by decide) ?_
    exact h4
  try clear_value s5
  with_reducible refine Only.step (mbDone_only _ _ _ _) (by decide) ?_
  with_reducible refine Only.step (chSample_only _ _) (by decide) ?_
  exact h6

theorem resetCheck_only (s : State) (n : Nat) : Only attestDoneParts s (resetCheck s n) := by
  unfold resetCheck
  with_reducible refine Only.ite ?_ ?_
  · with_reducible refine Only.step (resetEnd_only _ _) (by decide) ?_
    exact Only.refl _ _
  · exact Only.refl _ _

/-- What `resetBegin` may change. -/
def resetBeginParts : List Field := [.writes, .mem, .poison, .au, .pool, .gens, .ctxs, .queues, .insts, .sec, .chime,
  .obs]

theorem resetBegin_only (s : State) (n : Nat) : Only resetBeginParts s (resetBegin s n) := by
  unfold resetBegin
  extract_lets -merge +onlyGivenNames s0
  have h1 : Only resetBeginParts s s0 := by
    unfold s0
    with_reducible refine Only.step (State.modInst_only _ _ _) (by decide) ?_
    exact Only.refl _ _
  try clear_value s0
  extract_lets -merge +onlyGivenNames s2
  have h3 : Only resetBeginParts s s2 := by
    unfold s2
    with_reducible refine Only.foldl ?_ ?_
    · intro u4 a5
      with_reducible refine Only.ite ?_ ?_
      · with_reducible refine Only.step (modTeardown_only _ _ _) (by decide) ?_
        exact Only.refl _ _
      · with_reducible refine Only.step (teardownBegin_only _ _ _ _) (by decide) ?_
        exact Only.refl _ _
    · exact h1
  try clear_value s2
  with_reducible refine Only.step (resetCheck_only _ _) (by decide) ?_
  exact h3

theorem mbInstReset_only (s : State) (n : Nat) (p : Page) : Only resetBeginParts s (mbInstReset s n p) := by
  unfold mbInstReset
  extract_lets -merge +onlyGivenNames x0
  try clear_value x0
  split
  · with_reducible refine Only.step (mbDone_only _ _ _ _) (by decide) ?_
    exact Only.refl _ _
  · with_reducible refine Only.step (mbDone_only _ _ _ _) (by decide) ?_
    exact Only.refl _ _
  · with_reducible refine Only.step (resetBegin_only _ _) (by decide) ?_
    exact Only.refl _ _

theorem mbInstBind_only (s : State) (n : Nat) (p : Page) : Only mbDoneParts s (mbInstBind s n p) := by
  unfold mbInstBind
  extract_lets -merge +onlyGivenNames x0
  try clear_value x0
  extract_lets -merge +onlyGivenNames x1
  try clear_value x1
  with_reducible refine Only.ite ?_ ?_
  · with_reducible refine Only.step (mbDone_only _ _ _ _) (by decide) ?_
    exact Only.refl _ _
  · with_reducible refine Only.ite ?_ ?_
    · with_reducible refine Only.step (mbDone_only _ _ _ _) (by decide) ?_
      exact Only.refl _ _
    · extract_lets -merge +onlyGivenNames x2
      try clear_value x2
      with_reducible refine Only.step (mbDone_only _ _ _ _) (by decide) ?_
      with_reducible refine Only.step (State.setInst_only _ _ _) (by decide) ?_
      exact Only.refl _ _

theorem mbKeyLoad_only (s : State) (n : Nat) (p : Page) : Only tamperActParts s (mbKeyLoad s n p) := by
  unfold mbKeyLoad
  extract_lets -merge +onlyGivenNames x0
  try clear_value x0
  extract_lets -merge +onlyGivenNames x1
  try clear_value x1
  extract_lets -merge +onlyGivenNames x2
  try clear_value x2
  with_reducible refine Only.ite ?_ ?_
  · with_reducible refine Only.step (mbDone_only _ _ _ _) (by decide) ?_
    exact Only.refl _ _
  · with_reducible refine Only.ite ?_ ?_
    · with_reducible refine Only.step (mbDone_only _ _ _ _) (by decide) ?_
      exact Only.refl _ _
    · split
      · with_reducible refine Only.step (tamperRaise_only _ _) (by decide) ?_
        with_reducible refine Only.step (mbDone_only _ _ _ _) (by decide) ?_
        exact Only.refl _ _
      · with_reducible refine Only.ite ?_ ?_
        · with_reducible refine Only.step (mbDone_only _ _ _ _) (by decide) ?_
          exact Only.refl _ _
        · with_reducible refine Only.step (mbDone_only _ _ _ _) (by decide) ?_
          with_reducible refine Only.set_sec (by decide) ?_
          exact Only.refl _ _

/-- What `mbKeyErase` may change. -/
def mbKeyEraseParts : List Field := [.insts, .sec, .chime, .obs]

theorem mbKeyErase_only (s : State) (n : Nat) (p : Page) : Only mbKeyEraseParts s (mbKeyErase s n p) := by
  unfold mbKeyErase
  extract_lets -merge +onlyGivenNames x0
  try clear_value x0
  with_reducible refine Only.ite ?_ ?_
  · with_reducible refine Only.step (mbDone_only _ _ _ _) (by decide) ?_
    with_reducible refine Only.set_sec (by decide) ?_
    exact Only.refl _ _
  · with_reducible refine Only.step (mbDone_only _ _ _ _) (by decide) ?_
    exact Only.refl _ _

theorem mbAttest_only (s : State) (n : Nat) (p : Page) : Only mbKeyEraseParts s (mbAttest s n p) := by
  unfold mbAttest
  extract_lets -merge +onlyGivenNames x0
  try clear_value x0
  extract_lets -merge +onlyGivenNames x1
  try clear_value x1
  extract_lets -merge +onlyGivenNames x2
  try clear_value x2
  extract_lets -merge +onlyGivenNames x3
  try clear_value x3
  with_reducible refine Only.ite ?_ ?_
  · with_reducible refine Only.step (attestTake_only _) (by decide) ?_
    with_reducible refine Only.set_sec (by decide) ?_
    exact Only.refl _ _
  · with_reducible refine Only.step (mbDone_only _ _ _ _) (by decide) ?_
    exact Only.refl _ _

theorem mbRecRing_only (s : State) (n : Nat) (p : Page) : Only mbCtxCreateParts s (mbRecRing s n p) := by
  unfold mbRecRing
  extract_lets -merge +onlyGivenNames x0
  try clear_value x0
  extract_lets -merge +onlyGivenNames x1
  try clear_value x1
  extract_lets -merge +onlyGivenNames x2
  try clear_value x2
  extract_lets -merge +onlyGivenNames x3
  try clear_value x3
  extract_lets -merge +onlyGivenNames x4
  try clear_value x4
  with_reducible refine Only.ite ?_ ?_
  · with_reducible refine Only.step (mbDone_only _ _ _ _) (by decide) ?_
    exact Only.refl _ _
  · with_reducible refine Only.ite ?_ ?_
    · with_reducible refine Only.step (mbDone_only _ _ _ _) (by decide) ?_
      with_reducible refine Only.step (State.setCtx_only _ _ _) (by decide) ?_
      exact Only.refl _ _
    · with_reducible refine Only.ite ?_ ?_
      · with_reducible refine Only.step (mbDone_only _ _ _ _) (by decide) ?_
        with_reducible refine Only.step (State.setCtx_only _ _ _) (by decide) ?_
        exact Only.refl _ _
      · with_reducible refine Only.step (mbDone_only _ _ _ _) (by decide) ?_
        exact Only.refl _ _

/-- What `mbAct` may change. -/
def mbActParts : List Field := [.writes, .mem, .poison, .au, .run, .pool, .gens, .objs, .ctxs, .queues, .insts, .rg,
  .rgParts, .jobs, .cores, .counters, .sy, .sec, .fr, .chime, .obs, .freeCount, .obsCfg, .auIdle]

theorem mbAct_only (s : State) (n : Nat) (p : Page) : Only mbActParts s (mbAct s n p) := by
  unfold mbAct
  split
  · with_reducible refine Only.step (mbCtxCreate_only _ _ _) (by decide) ?_
    exact Only.refl _ _
  · with_reducible refine Only.step (mbCtxDestroy_only _ _ _) (by decide) ?_
    exact Only.refl _ _
  · with_reducible refine Only.step (mbQueueCreate_only _ _ _) (by decide) ?_
    exact Only.refl _ _
  · with_reducible refine Only.step (mbQueueDestroy_only _ _ _) (by decide) ?_
    exact Only.refl _ _
  · with_reducible refine Only.step (mbQueueReset_only _ _ _) (by decide) ?_
    exact Only.refl _ _
  · with_reducible refine Only.step (mbCounterAlloc_only _ _ _) (by decide) ?_
    exact Only.refl _ _
  · with_reducible refine Only.step (mbInstCreate_only _ _ _) (by decide) ?_
    exact Only.refl _ _
  · with_reducible refine Only.step (mbInstDisable_only _ _ _) (by decide) ?_
    exact Only.refl _ _
  · with_reducible refine Only.step (mbInstEnable_only _ _ _) (by decide) ?_
    exact Only.refl _ _
  · with_reducible refine Only.step (mbInstReset_only _ _ _) (by decide) ?_
    exact Only.refl _ _
  · with_reducible refine Only.step (mbInstBind_only _ _ _) (by decide) ?_
    exact Only.refl _ _
  · with_reducible refine Only.step (mbKeyLoad_only _ _ _) (by decide) ?_
    exact Only.refl _ _
  · with_reducible refine Only.step (mbKeyErase_only _ _ _) (by decide) ?_
    exact Only.refl _ _
  · with_reducible refine Only.step (mbAttest_only _ _ _) (by decide) ?_
    exact Only.refl _ _
  · with_reducible refine Only.step (mbRecRing_only _ _ _) (by decide) ?_
    exact Only.refl _ _
  · with_reducible refine Only.step (mbDone_only _ _ _ _) (by decide) ?_
    exact Only.refl _ _

theorem mbDecide_only (s : State) (n : Nat) (who : Who) : Only mbActParts s (mbDecide s n who) := by
  unfold mbDecide
  extract_lets -merge +onlyGivenNames x0
  try clear_value x0
  with_reducible refine Only.ite ?_ ?_
  · with_reducible refine Only.step (mbDone_only _ _ _ _) (by decide) ?_
    exact Only.refl _ _
  · with_reducible refine Only.ite ?_ ?_
    · with_reducible refine Only.step (mbDone_only _ _ _ _) (by decide) ?_
      exact Only.refl _ _
    · with_reducible refine Only.ite ?_ ?_
      · with_reducible refine Only.step (mbDone_only _ _ _ _) (by decide) ?_
        exact Only.refl _ _
      · with_reducible refine Only.step (mbAct_only _ _ _) (by decide) ?_
        exact Only.refl _ _

theorem mbGo_only (s : State) (n : Nat) (who : Who) (seq : BitVec 16) : Only mbActParts s (mbGo s n who seq) := by
  unfold mbGo
  extract_lets -merge +onlyGivenNames x0
  try clear_value x0
  extract_lets -merge +onlyGivenNames s1
  have h2 : Only mbActParts s s1 := by
    unfold s1
    with_reducible refine Only.ite ?_ ?_
    · with_reducible refine Only.step (endDisable_only _) (by decide) ?_
      exact Only.refl _ _
    · exact Only.refl _ _
  try clear_value s1
  with_reducible refine Only.ite ?_ ?_
  · exact h2
  · with_reducible refine Only.ite ?_ ?_
    · with_reducible refine Only.step (State.modPage_only _ _ _) (by decide) ?_
      exact h2
    · with_reducible refine Only.step (mbDecide_only _ _ _) (by decide) ?_
      with_reducible refine Only.step (State.modPage_only _ _ _) (by decide) ?_
      exact h2

theorem ringBell_only (s : State) (page : Nat) (d : W64) : Only loseQueueParts s (ringBell s page d) := by
  unfold ringBell
  extract_lets -merge +onlyGivenNames x0
  try clear_value x0
  extract_lets -merge +onlyGivenNames x1
  try clear_value x1
  extract_lets -merge +onlyGivenNames x2
  try clear_value x2
  extract_lets -merge +onlyGivenNames x3
  with_reducible refine Only.ite ?_ ?_
  · exact Only.refl _ _
  · with_reducible refine Only.ite ?_ ?_
    · with_reducible refine Only.step (accessDeniedId_only _ _) (by decide) ?_
      exact Only.refl _ _
    · with_reducible refine Only.ite ?_ ?_
      · exact Only.refl _ _
      · with_reducible refine Only.ite ?_ ?_
        · with_reducible refine Only.step (chPulse_only _ _ _ _) (by decide) ?_
          with_reducible refine Only.setQ (by decide) ?_ ?_
          · exact SeqSub.refl _
          · exact Only.refl _ _
        · with_reducible refine Only.setQ (by decide) ?_ ?_
          · exact drained_sub _ _ (rung_sub _ _ (SeqSub.refl _))
          · exact Only.refl _ _

/-- What `execDoorbell` may change. -/
def execDoorbellParts : List Field := [.boot, .kp, .queues, .chime, .obs]

theorem execDoorbell_only (page : BitVec 6) (who : Who) (data : W64) (s : State) : NextOnly execDoorbellParts s
    (execDoorbell page who data s) := by
  unfold execDoorbell
  with_reducible refine NextOnly.next ?_
  with_reducible refine hostWrite_only (by decide) ?_ ?_
  · intro u0 
    with_reducible refine Only.step (ringBell_only _ _ _) (by decide) ?_
    exact Only.refl _ _
  · exact Only.refl _ _

theorem giveSlot_only (s : State) (qn : Nat) : Only endBarriersParts s (giveSlot s qn) := by
  unfold giveSlot
  with_reducible refine Only.modQ (by decide) ?_ ?_
  · exact fun _ => SeqSub.refl _
  · exact Only.refl _ _

theorem setQState_only (s : State) (qn : Nat) (st : QState) : Only endBarriersParts s (setQState s qn st) := by
  unfold setQState
  with_reducible refine Only.modQ (by decide) ?_ ?_
  · exact fun _ => SeqSub.refl _
  · exact Only.refl _ _

theorem fetchSlot_only (s : State) (p : Nat) : Only freeQueueParts s (fetchSlot s p) := by
  unfold fetchSlot
  split
  · exact Only.refl _ _
  · with_reducible refine Only.ite ?_ ?_
    · extract_lets -merge +onlyGivenNames x0
      try clear_value x0
      split
      · with_reducible refine Only.ite ?_ ?_
        · with_reducible refine Only.step (giveSlot_only _ _) (by decide) ?_
          with_reducible refine Only.set_rg (by decide) (by rfl) ?_
          exact Only.refl _ _
        · exact Only.refl _ _
      · exact Only.refl _ _
    · split
      · with_reducible refine Only.step (giveSlot_only _ _) (by decide) ?_
        with_reducible refine Only.step (setQState_only _ _ _) (by decide) ?_
        exact Only.refl _ _
      · exact Only.refl _ _

theorem execQueueFetchSlot_only (part : BitVec 3) (s : State) : NextOnly freeQueueParts s (execQueueFetchSlot part s) := by
  unfold execQueueFetchSlot
  with_reducible refine NextOnly.next ?_
  with_reducible refine Only.ite ?_ ?_
  · with_reducible refine Only.step (fetchSlot_only _ _) (by decide) ?_
    exact Only.refl _ _
  · exact Only.refl _ _

/-- What `pushCmd` may change. -/
def pushCmdParts : List Field := [.writes, .mem, .poison, .au, .pool, .gens, .ctxs, .queues, .insts, .rg, .rgParts,
  .fr, .chime, .obs, .freeCount, .seqs]

theorem pushCmd_only (s : State) (qn : Nat) (c : Cmd) : Only pushCmdParts s (pushCmd s qn c) := by
  unfold pushCmd
  extract_lets -merge +onlyGivenNames _ s0
  have h1 : Only [.rg, .seqs] s s0 := fun f hf => by
    cases f <;> first | exact Eq.refl _ | exact ⟨Eq.refl _, Eq.refl _, Eq.refl _⟩ | exact absurd (by decide) hf |
      exact fun h => h | exact fun _ => rfl
  clear_value s0
  with_reducible refine Only.step (regEval_only _) (by decide) ?_
  with_reducible refine Only.step (pump_only _ _) (by decide) ?_
  with_reducible refine Only.step (State.modQueue_only _ _ _) (by decide) ?_
  with_reducible refine Only.step h1 (by decide) ?_
  exact Only.refl _ _

theorem pushFailed_only (s : State) (qn : Nat) (c : Cmd) (code : BitVec 16) (detail : W64) : Only pushCmdParts s
    (pushFailed s qn c code detail) := by
  unfold pushFailed
  extract_lets -merge +onlyGivenNames s0
  have h1 : Only pushCmdParts s s0 := by
    unfold s0
    with_reducible refine Only.step (errRecord_only _ _ _ _ _ _ _) (by decide) ?_
    exact Only.refl _ _
  try clear_value s0
  extract_lets -merge +onlyGivenNames s2
  have h3 : Only pushCmdParts s s2 := by
    unfold s2
    with_reducible refine Only.step (pushCmd_only _ _ _) (by decide) ?_
    exact h1
  try clear_value s2
  with_reducible refine Only.step (pmBoth_only _ _ _ _) (by decide) ?_
  exact h3

theorem hold_only (s : State) (qn : Nat) (h : Held) : Only endBarriersParts s (hold s qn h) := by
  unfold hold
  with_reducible refine Only.modQ (by decide) ?_ ?_
  · exact fun _ => SeqSub.refl _
  · exact Only.refl _ _

theorem pushStale_only (s : State) (qn : Nat) (c : Cmd) (h : W32) : Only pushCmdParts s (pushStale s qn c h) := by
  unfold pushStale
  extract_lets -merge +onlyGivenNames s0
  have h1 : Only pushCmdParts s s0 := by
    unfold s0
    with_reducible refine Only.step (errRecord_only _ _ _ _ _ _ _) (by decide) ?_
    exact Only.refl _ _
  try clear_value s0
  extract_lets -merge +onlyGivenNames s2
  have h3 : Only pushCmdParts s s2 := by
    unfold s2
    with_reducible refine Only.step (pushCmd_only _ _ _) (by decide) ?_
    exact h1
  try clear_value s2
  with_reducible refine Only.step (faultRecord_only _ _ _) (by decide) ?_
  with_reducible refine Only.step (pmBoth_only _ _ _ _) (by decide) ?_
  exact h3

theorem pushLaunch_only (s : State) (qn : Nat) (c : Cmd) (e : Nat) : Only pushCmdParts s (pushLaunch s qn c e) := by
  unfold pushLaunch
  split
  · with_reducible refine Only.step (pushFailed_only _ _ _ _ _) (by decide) ?_
    exact Only.refl _ _
  · with_reducible refine Only.step (pushCmd_only _ _ _) (by decide) ?_
    exact Only.refl _ _
  · with_reducible refine Only.step (pushCmd_only _ _ _) (by decide) ?_
    exact Only.refl _ _

/-- What `fetchLaunch` may change. -/
def fetchLaunchParts : List Field := [.writes, .mem, .poison, .au, .pool, .kp, .gens, .ctxs, .queues, .insts, .rg,
  .rgParts, .cores, .fr, .chime, .obs, .freeCount, .seqs]

theorem fetchLaunch_only (s : State) (qn : Nat) (c : Cmd) (g : Gen) : Only fetchLaunchParts s (fetchLaunch s qn c g) := by
  unfold fetchLaunch
  extract_lets -merge +onlyGivenNames x0
  split
  · with_reducible refine Only.step (pushLaunch_only _ _ _ _) (by decide) ?_
    with_reducible refine Only.step (touchGen_only _ _) (by decide) ?_
    exact Only.refl _ _
  · split
    · with_reducible refine Only.step (pushLaunch_only _ _ _ _) (by decide) ?_
      with_reducible refine Only.step (publishAt_only _ _ _) (by decide) ?_
      exact Only.refl _ _
    · with_reducible refine Only.step (hold_only _ _ _) (by decide) ?_
      exact Only.refl _ _

/-- What `waitFull` may change. -/
def waitFullParts : List Field := [.kp, .queues, .chime, .obs]

theorem waitFull_only (s : State) (qn : Nat) : Only waitFullParts s (waitFull s qn) := by
  unfold waitFull
  extract_lets -merge +onlyGivenNames q t u s1
  have h : Only waitFullParts s t := Only.step (hold_only _ _ _) (by decide) (Only.refl _ _)
  have h1 : Only waitFullParts s s1 := by
    unfold s1
    with_reducible refine Only.step (chSample_only _ _) (by decide) ?_
    with_reducible refine Only.set_kp (by decide) ?_
    exact h
  with_reducible refine Only.ite ?_ ?_
  · exact Only.step (chPulse_only _ _ _ _) (by decide) h1
  · exact h1

/-- What `fetchWait` may change. -/
def fetchWaitParts : List Field := [.writes, .mem, .poison, .au, .pool, .kp, .gens, .ctxs, .queues, .insts, .rg,
  .rgParts, .cores, .counters, .flights, .sy, .tw, .links, .fr, .chime, .obs, .freeCount, .seqs]

theorem fetchWait_only (s : State) (qn : Nat) (c : Cmd) : Only fetchWaitParts s (fetchWait s qn c) := by
  unfold fetchWait
  split
  · with_reducible refine Only.step (pushCmd_only _ _ _) (by decide) ?_
    exact Only.refl _ _
  · with_reducible refine Only.ite ?_ ?_
    · extract_lets -merge +onlyGivenNames x0
      try clear_value x0
      extract_lets -merge +onlyGivenNames _ s1
      have h2 : Only fetchWaitParts s s1 := by
        unfold s1
        with_reducible refine Only.step (pushCmd_only _ _ _) (by decide) ?_
        exact Only.refl _ _
      try clear_value s1
      extract_lets -merge +onlyGivenNames s3
      have h4 : Only fetchWaitParts s s3 := by
        unfold s3
        with_reducible refine Only.step (setQState_only _ _ _) (by decide) ?_
        exact h2
      try clear_value s3
      split
      · with_reducible refine Only.step (addArrival_only _ _) (by decide) ?_
        exact h4
      · exact h4
    · with_reducible refine Only.step (waitFull_only _ _) (by decide) ?_
      exact Only.refl _ _

/-- What `fetchOk` may change. -/
def fetchOkParts : List Field := [.writes, .mem, .poison, .au, .pool, .kp, .gens, .objs, .ctxs, .queues, .insts, .rg,
  .rgParts, .cores, .counters, .flights, .sy, .tw, .links, .fr, .chime, .obs, .freeCount, .seqs]

theorem fetchOk_only (s : State) (qn : Nat) (c : Cmd) : Only fetchOkParts s (fetchOk s qn c) := by
  unfold fetchOk
  extract_lets -merge +onlyGivenNames x0
  split
  · with_reducible refine Only.step (fetchLaunch_only _ _ _ _) (by decide) ?_
    exact Only.refl _ _
  · with_reducible refine Only.step (fetchWait_only _ _ _) (by decide) ?_
    exact Only.refl _ _
  · with_reducible refine Only.step (fetchWait_only _ _ _) (by decide) ?_
    exact Only.refl _ _
  · with_reducible refine Only.step (fetchWait_only _ _ _) (by decide) ?_
    exact Only.refl _ _
  · with_reducible refine Only.step (pushCmd_only _ _ _) (by decide) ?_
    with_reducible refine Only.step (State.modObj_only _ _ _) (by decide) ?_
    exact Only.refl _ _
  · with_reducible refine Only.step (pushCmd_only _ _ _) (by decide) ?_
    exact Only.refl _ _
  · with_reducible refine Only.step (pushCmd_only _ _ _) (by decide) ?_
    exact Only.refl _ _

/-- What `fetchPacket` may change. -/
def fetchPacketParts : List Field := [.writes, .mem, .poison, .au, .run, .pool, .kp, .gens, .objs, .ctxs, .queues,
  .insts, .rg, .rgParts, .jobs, .cores, .counters, .flights, .sy, .sec, .tw, .links, .fr, .chime, .obs, .freeCount,
  .auIdle, .seqs]

theorem fetchPacket_only (s : State) (qn : Nat) : Only fetchPacketParts s (fetchPacket s qn) := by
  unfold fetchPacket
  extract_lets -merge +onlyGivenNames x0
  extract_lets -merge +onlyGivenNames x1
  try clear_value x1
  extract_lets -merge +onlyGivenNames x2
  try clear_value x2
  extract_lets -merge +onlyGivenNames x3
  extract_lets -merge +onlyGivenNames x4
  with_reducible refine Only.ite ?_ ?_
  · with_reducible refine Only.step (pushFailed_only _ _ _ _ _) (by decide) ?_
    with_reducible refine Only.step (errRecord_only _ _ _ _ _ _ _) (by decide) ?_
    exact Only.refl _ _
  · with_reducible refine Only.ite ?_ ?_
    · with_reducible refine Only.step (hold_only _ _ _) (by decide) ?_
      exact Only.refl _ _
    · split
      · extract_lets -merge +onlyGivenNames s5
        have h6 : Only fetchPacketParts s s5 := by
          unfold s5
          with_reducible refine Only.step (pushFailed_only _ _ _ _ _) (by decide) ?_
          exact Only.refl _ _
        try clear_value s5
        with_reducible refine Only.ite ?_ ?_
        · with_reducible refine Only.step (tamperRaise_only _ _) (by decide) ?_
          exact h6
        · exact h6
      · with_reducible refine Only.step (pushStale_only _ _ _ _) (by decide) ?_
        exact Only.refl _ _
      · with_reducible refine Only.step (fetchOk_only _ _ _) (by decide) ?_
        exact Only.refl _ _

theorem fetchRetry_only (s : State) (qn : Nat) : Only fetchPacketParts s (fetchRetry s qn) := by
  unfold fetchRetry
  extract_lets -merge +onlyGivenNames x0
  with_reducible refine Only.ite ?_ ?_
  · extract_lets -merge +onlyGivenNames s1
    have h2 : Only fetchPacketParts s s1 := by
      unfold s1
      with_reducible refine Only.step (fetchPacket_only _ _) (by decide) ?_
      with_reducible refine Only.step (hold_only _ _ _) (by decide) ?_
      exact Only.refl _ _
    try clear_value s1
    with_reducible refine Only.ite ?_ ?_
    · exact h2
    · exact Only.refl _ _
  · exact Only.refl _ _

theorem execFetchRetry_only (queue : BitVec 13) (s : State) : NextOnly fetchPacketParts s (execFetchRetry queue s) := by
  unfold execFetchRetry
  with_reducible refine NextOnly.next ?_
  with_reducible refine Only.step (fetchRetry_only _ _) (by decide) ?_
  exact Only.refl _ _

theorem packetRow_only (s : State) (qn : Nat) (op : Nat) (mode : Nat) : Only fetchPacketParts s (packetRow s qn op mode) :=
    by
  unfold packetRow
  extract_lets -merge +onlyGivenNames x0
  with_reducible refine Only.ite ?_ ?_
  · split
    · with_reducible refine Only.step (fetchPacket_only _ _) (by decide) ?_
      exact Only.refl _ _
    · with_reducible refine Only.ite ?_ ?_
      · with_reducible refine Only.step (fetchPacket_only _ _) (by decide) ?_
        exact Only.refl _ _
      · exact Only.refl _ _
  · exact Only.refl _ _

theorem execLaunch_only (queue : BitVec 13) (s : State) : NextOnly fetchPacketParts s (execLaunch queue s) := by
  unfold execLaunch
  with_reducible refine NextOnly.next ?_
  with_reducible refine Only.step (packetRow_only _ _ _ _) (by decide) ?_
  exact Only.refl _ _

theorem execCopy_only (queue : BitVec 13) (s : State) : NextOnly fetchPacketParts s (execCopy queue s) := by
  unfold execCopy
  with_reducible refine NextOnly.next ?_
  with_reducible refine Only.step (packetRow_only _ _ _ _) (by decide) ?_
  exact Only.refl _ _

theorem execFill_only (queue : BitVec 13) (s : State) : NextOnly fetchPacketParts s (execFill queue s) := by
  unfold execFill
  with_reducible refine NextOnly.next ?_
  with_reducible refine Only.step (packetRow_only _ _ _ _) (by decide) ?_
  exact Only.refl _ _

theorem startMove_only (s : State) (p : Nat) : Only pumpAllParts s (startMove s p) := by
  unfold startMove
  with_reducible refine Only.ite ?_ ?_
  · exact Only.refl _ _
  · split
    · exact Only.refl _ _
    · extract_lets -merge +onlyGivenNames x0
      try clear_value x0
      extract_lets -merge +onlyGivenNames s1
      have h2 : Only pumpAllParts s s1 := by
        unfold s1
        with_reducible refine Only.modQ (by decide) ?_ ?_
        · exact fun _ => modCmd_sub _ _ _ (fun _ h => h)
        · exact Only.refl _ _
      try clear_value s1
      with_reducible refine Only.step (regEval_only _) (by decide) ?_
      with_reducible refine Only.step (pump_only _ _) (by decide) ?_
      with_reducible refine Only.step (State.modRgPart_only _ _ _) (by decide) ?_
      exact h2

theorem execCopyFillStart_only (part : BitVec 3) (s : State) : NextOnly pumpAllParts s (execCopyFillStart part s) := by
  unfold execCopyFillStart
  with_reducible refine NextOnly.next ?_
  with_reducible refine Only.step (startMove_only _ _) (by decide) ?_
  exact Only.refl _ _

theorem finishMove_only (s : State) (p : Nat) : Only pumpAllParts s (finishMove s p) := by
  unfold finishMove
  split
  · exact Only.refl _ _
  · split
    · exact Only.refl _ _
    · with_reducible refine Only.ite ?_ ?_
      · exact Only.refl _ _
      · with_reducible refine Only.ite ?_ ?_
        · with_reducible refine Only.step (endMove_only _ _ _ _ _) (by decide) ?_
          with_reducible refine Only.step (errRecord_only _ _ _ _ _ _ _) (by decide) ?_
          exact Only.refl _ _
        · split
          · with_reducible refine Only.step (poisonMove_only _ _ _ _ _) (by decide) ?_
            exact Only.refl _ _
          · extract_lets -merge +onlyGivenNames x0
            try clear_value x0
            extract_lets -merge +onlyGivenNames s1
            have h2 : Only pumpAllParts s s1 := by
              unfold s1
              with_reducible refine Only.step (blockWrite_only _ _ _ _ _ _ _ _) (by decide) ?_
              exact Only.refl _ _
            try clear_value s1
            extract_lets -merge +onlyGivenNames s3
            have h4 : Only pumpAllParts s s3 := by
              unfold s3
              with_reducible refine Only.modQ (by decide) ?_ ?_
              · exact fun _ => modCmd_sub _ _ _ (fun _ h => h)
              · exact h2
            try clear_value s3
            with_reducible refine Only.step (endMove_only _ _ _ _ _) (by decide) ?_
            exact h4
          · exact Only.refl _ _

theorem execCopyFillComplete_only (part : BitVec 3) (s : State) : NextOnly pumpAllParts s (execCopyFillComplete part s) :=
    by
  unfold execCopyFillComplete
  with_reducible refine NextOnly.next ?_
  with_reducible refine Only.ite ?_ ?_
  · with_reducible refine Only.step (finishMove_only _ _) (by decide) ?_
    exact Only.refl _ _
  · exact Only.refl _ _

theorem execWait_only (queue : BitVec 13) (s : State) : NextOnly fetchPacketParts s (execWait queue s) := by
  unfold execWait
  with_reducible refine NextOnly.next ?_
  with_reducible refine Only.step (packetRow_only _ _ _ _) (by decide) ?_
  exact Only.refl _ _

theorem satisfyWait_only (s : State) (qn : Nat) : Only pumpAllParts s (satisfyWait s qn) := by
  unfold satisfyWait
  extract_lets -merge +onlyGivenNames x0
  split
  · exact Only.refl _ _
  · with_reducible refine Only.ite ?_ ?_
    · split
      · exact Only.refl _ _
      · with_reducible refine Only.ite ?_ ?_
        · with_reducible refine Only.step (regEval_only _) (by decide) ?_
          with_reducible refine Only.step (pump_only _ _) (by decide) ?_
          with_reducible refine Only.modQ (by decide) ?_ ?_
          · exact fun _ => modCmd_sub _ _ _ (fun _ h => h)
          · exact Only.refl _ _
        · with_reducible refine Only.modQ (by decide) ?_ ?_
          · exact fun _ => modCmd_sub _ _ _ (fun _ h => h)
          · exact Only.refl _ _
    · exact Only.refl _ _

theorem execWaitSatisfied_only (queue : BitVec 13) (s : State) : NextOnly pumpAllParts s (execWaitSatisfied queue s) := by
  unfold execWaitSatisfied
  with_reducible refine NextOnly.next ?_
  with_reducible refine Only.step (satisfyWait_only _ _) (by decide) ?_
  exact Only.refl _ _

theorem execSignal_only (queue : BitVec 13) (s : State) : NextOnly fetchPacketParts s (execSignal queue s) := by
  unfold execSignal
  with_reducible refine NextOnly.next ?_
  with_reducible refine Only.step (packetRow_only _ _ _ _) (by decide) ?_
  exact Only.refl _ _

theorem execBarrier_only (queue : BitVec 13) (s : State) : NextOnly fetchPacketParts s (execBarrier queue s) := by
  unfold execBarrier
  with_reducible refine NextOnly.next ?_
  with_reducible refine Only.step (packetRow_only _ _ _ _) (by decide) ?_
  exact Only.refl _ _

theorem execObjectMapNew_only (queue : BitVec 13) (s : State) : NextOnly fetchPacketParts s (execObjectMapNew queue s) := by
  unfold execObjectMapNew
  with_reducible refine NextOnly.next ?_
  with_reducible refine Only.step (packetRow_only _ _ _ _) (by decide) ?_
  exact Only.refl _ _

theorem execObjectMapImport_only (queue : BitVec 13) (s : State) : NextOnly fetchPacketParts s (execObjectMapImport queue
    s) := by
  unfold execObjectMapImport
  with_reducible refine NextOnly.next ?_
  with_reducible refine Only.step (packetRow_only _ _ _ _) (by decide) ?_
  exact Only.refl _ _

theorem execObjectMapBind_only (queue : BitVec 13) (s : State) : NextOnly fetchPacketParts s (execObjectMapBind queue s) :=
    by
  unfold execObjectMapBind
  with_reducible refine NextOnly.next ?_
  with_reducible refine Only.step (packetRow_only _ _ _ _) (by decide) ?_
  exact Only.refl _ _

theorem execObjectFree_only (queue : BitVec 13) (s : State) : NextOnly fetchPacketParts s (execObjectFree queue s) := by
  unfold execObjectFree
  with_reducible refine NextOnly.next ?_
  with_reducible refine Only.step (packetRow_only _ _ _ _) (by decide) ?_
  exact Only.refl _ _

/-- What `pruneHeld` may change. -/
def pruneHeldParts : List Field := [.pool, .insts]

theorem pruneHeld_only (s : State) : Only pruneHeldParts s (pruneHeld s) := by
  unfold pruneHeld
  extract_lets -merge +onlyGivenNames x0
  try clear_value x0
  with_reducible refine Only.set_pool_insts (by decide) ?_
  exact Only.refl _ _

/-- What `freeDone` may change. -/
def freeDoneParts : List Field := [.writes, .mem, .poison, .au, .pool, .gens, .objs, .ctxs, .queues, .insts, .rgParts,
  .fr, .chime, .obs, .freeCount]

theorem freeDone_only (s : State) (i : Nat) : Only freeDoneParts s (freeDone s i) := by
  unfold freeDone
  extract_lets -merge +onlyGivenNames x0
  try clear_value x0
  split
  · with_reducible refine Only.ite ?_ ?_
    · with_reducible refine Only.step (pumpAll_only _) (by decide) ?_
      with_reducible refine Only.step (pruneHeld_only _) (by decide) ?_
      with_reducible refine Only.step (State.setObj_only _ _ _) (by decide) ?_
      exact Only.refl _ _
    · exact Only.refl _ _
  · with_reducible refine Only.ite ?_ ?_
    · with_reducible refine Only.step (pruneHeld_only _) (by decide) ?_
      with_reducible refine Only.step (State.setObj_only _ _ _) (by decide) ?_
      exact Only.refl _ _
    · exact Only.refl _ _
  · exact Only.refl _ _

theorem execFreeComplete_only (index : BitVec 18) (s : State) : NextOnly freeDoneParts s (execFreeComplete index s) := by
  unfold execFreeComplete
  with_reducible refine NextOnly.next ?_
  with_reducible refine Only.ite ?_ ?_
  · with_reducible refine Only.step (freeDone_only _ _) (by decide) ?_
    exact Only.refl _ _
  · exact Only.refl _ _

theorem execTimestamp_only (queue : BitVec 13) (s : State) : NextOnly fetchPacketParts s (execTimestamp queue s) := by
  unfold execTimestamp
  with_reducible refine NextOnly.next ?_
  with_reducible refine Only.step (packetRow_only _ _ _ _) (by decide) ?_
  exact Only.refl _ _

theorem execCounterDump_only (queue : BitVec 13) (s : State) : NextOnly fetchPacketParts s (execCounterDump queue s) := by
  unfold execCounterDump
  with_reducible refine NextOnly.next ?_
  with_reducible refine Only.step (packetRow_only _ _ _ _) (by decide) ?_
  exact Only.refl _ _

theorem execIndirect_only (queue : BitVec 13) (s : State) : NextOnly fetchPacketParts s (execIndirect queue s) := by
  unfold execIndirect
  with_reducible refine NextOnly.next ?_
  with_reducible refine Only.step (packetRow_only _ _ _ _) (by decide) ?_
  exact Only.refl _ _

theorem execNopPacket_only (queue : BitVec 13) (s : State) : NextOnly fetchPacketParts s (execNopPacket queue s) := by
  unfold execNopPacket
  with_reducible refine NextOnly.next ?_
  with_reducible refine Only.step (packetRow_only _ _ _ _) (by decide) ?_
  exact Only.refl _ _

/-- What `fillDone` may change. -/
def fillDoneParts : List Field := [.run, .basin, .fr, .chime, .obs, .freeCount]

theorem fillDone_only (s : State) (slot : Nat) : Only fillDoneParts s (fillDone s slot) := by
  unfold fillDone
  split
  · exact Only.refl _ _
  · split
    · with_reducible refine Only.ite ?_ ?_
      · extract_lets -merge +onlyGivenNames x0
        try clear_value x0
        extract_lets -merge +onlyGivenNames s1
        have h2 : Only fillDoneParts s s1 := by
          unfold s1
          with_reducible refine Only.set_basin (by decide) ?_
          exact Only.refl _ _
        try clear_value s1
        extract_lets -merge +onlyGivenNames s3
        have h4 : Only fillDoneParts s s3 := by
          unfold s3
          with_reducible refine Only.step (State.modRun_only _ _) (by decide) ?_
          exact h2
        try clear_value s3
        with_reducible refine Only.foldl ?_ ?_
        · intro u5 a6
          with_reducible refine Only.step (errRecord_only _ _ _ _ _ _ _) (by decide) ?_
          exact Only.refl _ _
        · exact h4
      · exact Only.refl _ _
    · exact Only.refl _ _

theorem execBasinFillDone_only (slot : W32) (s : State) : NextOnly fillDoneParts s (execBasinFillDone slot s) := by
  unfold execBasinFillDone
  with_reducible refine NextOnly.next ?_
  with_reducible refine Only.ite ?_ ?_
  · with_reducible refine Only.step (fillDone_only _ _) (by decide) ?_
    exact Only.refl _ _
  · exact Only.refl _ _

/-- What `execObjTableEnable` may change. -/
def execObjTableEnableParts : List Field := [.boot, .kp, .objs, .chime, .obs]

theorem execObjTableEnable_only (who : Who) (data : W64) (s : State) : NextOnly execObjTableEnableParts s
    (execObjTableEnable who data s) := by
  unfold execObjTableEnable
  with_reducible refine NextOnly.next ?_
  with_reducible refine hostWrite_only (by decide) ?_ ?_
  · intro u0 
    with_reducible refine Only.step (setObjBase_only _ _) (by decide) ?_
    exact Only.refl _ _
  · exact Only.refl _ _

theorem execObjTableInitDone_only (s : State) : NextOnly setLoaderModeParts s (execObjTableInitDone s) := by
  unfold execObjTableInitDone
  with_reducible refine NextOnly.next ?_
  with_reducible refine Only.ite ?_ ?_
  · with_reducible refine Only.set_kp (by decide) ?_
    exact Only.refl _ _
  · exact Only.refl _ _

/-- What `mbRequest` may change. -/
def mbRequestParts : List Field := [.boot, .writes, .mem, .poison, .au, .run, .pool, .kp, .gens, .objs, .ctxs, .queues,
  .insts, .rg, .rgParts, .jobs, .cores, .counters, .sy, .sec, .fr, .chime, .obs, .freeCount, .obsCfg, .auIdle]

theorem mbRequest_only (s : State) (m : MbReq) (words : List W64) : NextOnly mbRequestParts s (mbRequest s m words) := by
  unfold mbRequest
  extract_lets -merge +onlyGivenNames x0
  try clear_value x0
  split
  · with_reducible refine NextOnly.next ?_
    with_reducible refine Only.step (AccessOnly.of_ignored (hostCheck_only _ _ _ _ _) (by assumption)) (by decide) ?_
    exact Only.refl _ _
  · with_reducible refine NextOnly.ite ?_ ?_
    · exact NextOnly.fault _
    · with_reducible refine NextOnly.next ?_
      with_reducible refine Only.step (mbGo_only _ _ _ _) (by decide) ?_
      with_reducible refine Only.foldl ?_ ?_
      · intro u1 a2
        with_reducible refine Only.step (mbWord_only _ _ _ _) (by decide) ?_
        exact Only.refl _ _
      · exact Only.refl _ _

theorem execCtxCreate_only (m : MbReq) (s : State) : NextOnly mbRequestParts s (execCtxCreate m s) := by
  unfold execCtxCreate
  with_reducible refine NextOnly.step (mbRequest_only _ _ _) (by decide) ?_
  exact Only.refl _ _

theorem execCtxDestroy_only (m : MbReq) (s : State) : NextOnly mbRequestParts s (execCtxDestroy m s) := by
  unfold execCtxDestroy
  with_reducible refine NextOnly.step (mbRequest_only _ _ _) (by decide) ?_
  exact Only.refl _ _

theorem execQueueCreate_only (m : MbReq) (s : State) : NextOnly mbRequestParts s (execQueueCreate m s) := by
  unfold execQueueCreate
  with_reducible refine NextOnly.step (mbRequest_only _ _ _) (by decide) ?_
  exact Only.refl _ _

theorem execQueueDestroy_only (m : MbReq) (s : State) : NextOnly mbRequestParts s (execQueueDestroy m s) := by
  unfold execQueueDestroy
  with_reducible refine NextOnly.step (mbRequest_only _ _ _) (by decide) ?_
  exact Only.refl _ _

theorem execQueueReset_only (m : MbReq) (s : State) : NextOnly mbRequestParts s (execQueueReset m s) := by
  unfold execQueueReset
  with_reducible refine NextOnly.step (mbRequest_only _ _ _) (by decide) ?_
  exact Only.refl _ _

theorem execCounterAlloc_only (m : MbReq) (s : State) : NextOnly mbRequestParts s (execCounterAlloc m s) := by
  unfold execCounterAlloc
  with_reducible refine NextOnly.step (mbRequest_only _ _ _) (by decide) ?_
  exact Only.refl _ _

theorem execInstCreate_only (m : MbReq) (s : State) : NextOnly mbRequestParts s (execInstCreate m s) := by
  unfold execInstCreate
  with_reducible refine NextOnly.step (mbRequest_only _ _ _) (by decide) ?_
  exact Only.refl _ _

theorem execInstDisableSquash_only (m : MbReq) (s : State) : NextOnly mbRequestParts s (execInstDisableSquash m s) := by
  unfold execInstDisableSquash
  with_reducible refine NextOnly.step (mbRequest_only _ _ _) (by decide) ?_
  exact Only.refl _ _

theorem execInstDisableDrain_only (m : MbReq) (s : State) : NextOnly mbRequestParts s (execInstDisableDrain m s) := by
  unfold execInstDisableDrain
  with_reducible refine NextOnly.step (mbRequest_only _ _ _) (by decide) ?_
  exact Only.refl _ _

theorem execDrainTimeout_only (inst : BitVec 6) (s : State) : NextOnly disableAdvanceParts s (execDrainTimeout inst s) := by
  unfold execDrainTimeout
  split
  · with_reducible refine NextOnly.next ?_
    with_reducible refine Only.ite ?_ ?_
    · with_reducible refine Only.step (disableAdvance_only _ _) (by decide) ?_
      with_reducible refine Only.step (closeGate_only _ _) (by decide) ?_
      exact Only.refl _ _
    · exact Only.refl _ _
  · with_reducible refine NextOnly.next ?_
    exact Only.refl _ _

theorem execDisableComplete_only (inst : BitVec 6) (s : State) : NextOnly disableAdvanceParts s (execDisableComplete inst
    s) := by
  unfold execDisableComplete
  with_reducible refine NextOnly.next ?_
  with_reducible refine Only.ite ?_ ?_
  · with_reducible refine Only.step (disableEnd_only _ _) (by decide) ?_
    with_reducible refine Only.step (disableAdvance_only _ _) (by decide) ?_
    exact Only.refl _ _
  · exact Only.refl _ _

theorem execInstEnable_only (m : MbReq) (s : State) : NextOnly mbRequestParts s (execInstEnable m s) := by
  unfold execInstEnable
  with_reducible refine NextOnly.step (mbRequest_only _ _ _) (by decide) ?_
  exact Only.refl _ _

theorem execInstReset_only (m : MbReq) (s : State) : NextOnly mbRequestParts s (execInstReset m s) := by
  unfold execInstReset
  with_reducible refine NextOnly.step (mbRequest_only _ _ _) (by decide) ?_
  exact Only.refl _ _

/-- What `squashStep` may change. -/
def squashStepParts : List Field := [.writes, .mem, .poison, .au, .pool, .kp, .gens, .ctxs, .queues, .insts, .rgParts,
  .cores, .flights, .tw, .links, .fr, .chime, .obs, .freeCount]

theorem squashStep_only (s : State) (ctx : Nat) : Only squashStepParts s (squashStep s ctx) := by
  unfold squashStep
  extract_lets -merge +onlyGivenNames x0
  try clear_value x0
  extract_lets -merge +onlyGivenNames x1
  try clear_value x1
  extract_lets -merge +onlyGivenNames s2
  have h3 : Only squashStepParts s s2 := by
    unfold s2
    with_reducible refine Only.foldl ?_ ?_
    · intro u4 a5
      with_reducible refine Only.modQ (by decide) ?_ ?_
      · exact fun _ => squash_sub _
      · exact Only.refl _ _
    · exact Only.refl _ _
  try clear_value s2
  extract_lets -merge +onlyGivenNames s6
  have h7 : Only squashStepParts s s6 := by
    unfold s6
    with_reducible refine Only.step (modTeardown_only _ _ _) (by decide) ?_
    exact h3
  try clear_value s6
  with_reducible refine Only.step (pumpAll_only _) (by decide) ?_
  with_reducible refine Only.foldl ?_ ?_
  · intro u8 a9
    with_reducible refine Only.step (flightBreak_only _ _ _ _ _) (by decide) ?_
    exact Only.refl _ _
  · with_reducible refine Only.step (genSettle_only _) (by decide) ?_
    exact h7

/-- What `killStep` may change. -/
def killStepParts : List Field := [.run, .ctxs, .queues, .rgParts, .jobs, .cores, .chime, .obs, .freeCount]

theorem killStep_only (s : State) (ctx : Nat) : Only killStepParts s (killStep s ctx) := by
  unfold killStep
  extract_lets -merge +onlyGivenNames x0
  try clear_value x0
  extract_lets -merge +onlyGivenNames x1
  try clear_value x1
  extract_lets -merge +onlyGivenNames x2
  try clear_value x2
  extract_lets -merge +onlyGivenNames s3
  have h4 : Only killStepParts s s3 := by
    unfold s3
    with_reducible refine Only.foldl ?_ ?_
    · intro u5 a6
      with_reducible refine Only.step (stopCopy_only _ _) (by decide) ?_
      exact Only.refl _ _
    · exact Only.refl _ _
  try clear_value s3
  extract_lets -merge +onlyGivenNames s7
  have h8 : Only killStepParts s s7 := by
    unfold s7
    with_reducible refine Only.foldl ?_ ?_
    · intro u9 a10
      with_reducible refine Only.modQ (by decide) ?_ ?_
      · exact fun _ => filter_sub _ _
      · exact Only.refl _ _
    · exact h4
  try clear_value s7
  extract_lets -merge +onlyGivenNames s11
  have h12 : Only killStepParts s s11 := by
    unfold s11
    with_reducible refine Only.foldl ?_ ?_
    · intro u13 a14
      split
      · with_reducible refine Only.ite ?_ ?_
        · with_reducible refine Only.step (State.setJob_only _ _ _) (by decide) ?_
          exact Only.refl _ _
        · with_reducible refine Only.step (killJob_only _ _ _ _ _) (by decide) ?_
          exact Only.refl _ _
      · exact Only.refl _ _
    · exact h8
  try clear_value s11
  with_reducible refine Only.step (modTeardown_only _ _ _) (by decide) ?_
  exact h12

theorem unmapStep_only (s : State) (ctx : Nat) : Only freeDoneParts s (unmapStep s ctx) := by
  unfold unmapStep
  extract_lets -merge +onlyGivenNames x0
  try clear_value x0
  extract_lets -merge +onlyGivenNames s1
  have h2 : Only freeDoneParts s s1 := by
    unfold s1
    with_reducible refine Only.foldl ?_ ?_
    · intro u3 a4
      with_reducible refine Only.step (State.modObj_only _ _ _) (by decide) ?_
      exact Only.refl _ _
    · exact Only.refl _ _
  try clear_value s1
  with_reducible refine Only.foldl ?_ ?_
  · intro u5 a6
    with_reducible refine Only.step (freeDone_only _ _) (by decide) ?_
    exact Only.refl _ _
  · with_reducible refine Only.step (modTeardown_only _ _ _) (by decide) ?_
    exact h2

/-- What `shareStep` may change. -/
def shareStepParts : List Field := [.ctxs, .shares, .cores]

theorem shareStep_only (s : State) (ctx : Nat) : Only shareStepParts s (shareStep s ctx) := by
  unfold shareStep
  extract_lets -merge +onlyGivenNames x0
  try clear_value x0
  with_reducible refine Only.step (shareSettle_only _) (by decide) ?_
  with_reducible refine Only.step (modTeardown_only _ _ _) (by decide) ?_
  with_reducible refine Only.set_shares (by decide) ?_
  exact Only.refl _ _

/-- What `reportStep` may change. -/
def reportStepParts : List Field := [.writes, .mem, .poison, .au, .pool, .gens, .ctxs, .queues, .insts, .rgParts, .sec,
  .fr, .chime, .obs, .freeCount]

theorem reportStep_only (s : State) (ctx : Nat) (t : Teardown) : Only reportStepParts s (reportStep s ctx t) := by
  unfold reportStep
  extract_lets -merge +onlyGivenNames x0
  try clear_value x0
  extract_lets -merge +onlyGivenNames x1
  try clear_value x1
  extract_lets -merge +onlyGivenNames s2
  have h3 : Only reportStepParts s s2 := by
    unfold s2
    with_reducible refine Only.step (State.setCtx_only _ _ _) (by decide) ?_
    exact Only.refl _ _
  try clear_value s2
  extract_lets -merge +onlyGivenNames s4
  have h5 : Only reportStepParts s s4 := by
    unfold s4
    split
    · with_reducible refine Only.step (mbDone_only _ _ _ _) (by decide) ?_
      exact h3
    · exact h3
  try clear_value s4
  extract_lets -merge +onlyGivenNames s6
  have h7 : Only reportStepParts s s6 := by
    unfold s6
    split
    · with_reducible refine Only.step (notice_only _ _ _ _ _ _) (by decide) ?_
      exact h5
    · exact h5
  try clear_value s6
  extract_lets -merge +onlyGivenNames s8
  have h9 : Only reportStepParts s s8 := by
    unfold s8
    with_reducible refine Only.ite ?_ ?_
    · with_reducible refine Only.step (State.modInst_only _ _ _) (by decide) ?_
      exact h7
    · exact h7
  try clear_value s8
  with_reducible refine Only.step (pumpAll_only _) (by decide) ?_
  with_reducible refine Only.step (resetCheck_only _ _) (by decide) ?_
  exact h9

/-- What `nextStep` may change. -/
def nextStepParts : List Field := [.writes, .mem, .poison, .au, .run, .pool, .kp, .gens, .objs, .ctxs, .queues, .insts,
  .shares, .rg, .rgParts, .jobs, .cores, .counters, .flights, .sy, .sec, .tw, .links, .fr, .chime, .obs, .freeCount,
  .obsCfg]

theorem nextStep_only (s : State) (ctx : Nat) (t : Teardown) : Only nextStepParts s (nextStep s ctx t) := by
  unfold nextStep
  split
  · with_reducible refine Only.step (teardownBegin_only _ _ _ _) (by decide) ?_
    exact Only.refl _ _
  · with_reducible refine Only.step (squashStep_only _ _) (by decide) ?_
    exact Only.refl _ _
  · with_reducible refine Only.step (closeStep_only _ _) (by decide) ?_
    exact Only.refl _ _
  · with_reducible refine Only.ite ?_ ?_
    · with_reducible refine Only.step (abandonStep_only _ _) (by decide) ?_
      exact Only.refl _ _
    · with_reducible refine Only.step (killStep_only _ _) (by decide) ?_
      exact Only.refl _ _
  · with_reducible refine Only.step (dropStep_only _ _) (by decide) ?_
    exact Only.refl _ _
  · with_reducible refine Only.step (unmapStep_only _ _) (by decide) ?_
    exact Only.refl _ _
  · with_reducible refine Only.step (shareStep_only _ _) (by decide) ?_
    exact Only.refl _ _
  · with_reducible refine Only.step (reportStep_only _ _ _) (by decide) ?_
    exact Only.refl _ _

theorem teardownAdvance_only (s : State) (ctx : Nat) : Only nextStepParts s (teardownAdvance s ctx) := by
  unfold teardownAdvance
  split
  · exact Only.refl _ _
  · with_reducible refine Only.ite ?_ ?_
    · with_reducible refine Only.step (killWaiters_only _) (by decide) ?_
      with_reducible refine Only.step (nextStep_only _ _ _) (by decide) ?_
      exact Only.refl _ _
    · exact Only.refl _ _

theorem execTeardownStepDone_only (ctx : BitVec 11) (s : State) : NextOnly nextStepParts s (execTeardownStepDone ctx s) :=
    by
  unfold execTeardownStepDone
  with_reducible refine NextOnly.ite ?_ ?_
  · exact NextOnly.fault _
  · with_reducible refine NextOnly.next ?_
    with_reducible refine Only.step (teardownAdvance_only _ _) (by decide) ?_
    exact Only.refl _ _

theorem execInstBind_only (m : MbReq) (s : State) : NextOnly mbRequestParts s (execInstBind m s) := by
  unfold execInstBind
  with_reducible refine NextOnly.step (mbRequest_only _ _ _) (by decide) ?_
  exact Only.refl _ _

theorem execKeyLoad_only (m : MbReq) (v : Unit) (s : State) : NextOnly mbRequestParts s (execKeyLoad m v s) := by
  unfold execKeyLoad
  with_reducible refine NextOnly.step (mbRequest_only _ _ _) (by decide) ?_
  exact Only.refl _ _

theorem execKeyErase_only (m : MbReq) (s : State) : NextOnly mbRequestParts s (execKeyErase m s) := by
  unfold execKeyErase
  with_reducible refine NextOnly.step (mbRequest_only _ _ _) (by decide) ?_
  exact Only.refl _ _

theorem execAttest_only (m : MbReq) (s : State) : NextOnly mbRequestParts s (execAttest m s) := by
  unfold execAttest
  with_reducible refine NextOnly.step (mbRequest_only _ _ _) (by decide) ?_
  exact Only.refl _ _

theorem execAttestSigned_only (s : State) : NextOnly attestDoneParts s (execAttestSigned s) := by
  unfold execAttestSigned
  with_reducible refine NextOnly.next ?_
  with_reducible refine Only.ite ?_ ?_
  · with_reducible refine Only.step (attestDone_only _) (by decide) ?_
    exact Only.refl _ _
  · exact Only.refl _ _

theorem execRecRing_only (m : MbReq) (s : State) : NextOnly mbRequestParts s (execRecRing m s) := by
  unfold execRecRing
  with_reducible refine NextOnly.step (mbRequest_only _ _ _) (by decide) ?_
  exact Only.refl _ _

/-- What `execStop` may change. -/
def execStopParts : List Field := [.boot, .kp, .queues, .rg, .chime, .obs]

theorem execStop_only (who : Who) (queue : BitVec 13) (s : State) : NextOnly execStopParts s (execStop who queue s) := by
  unfold execStop
  with_reducible refine NextOnly.next ?_
  with_reducible refine hostWrite_only (by decide) ?_ ?_
  · intro u0 
    with_reducible refine Only.step (queueStop_only _ _) (by decide) ?_
    exact Only.refl _ _
  · exact Only.refl _ _

theorem execRestart_only (who : Who) (queue : BitVec 13) (s : State) : NextOnly execStopParts s (execRestart who queue s)
    := by
  unfold execRestart
  with_reducible refine NextOnly.next ?_
  with_reducible refine hostWrite_only (by decide) ?_ ?_
  · intro u0 
    with_reducible refine Only.step (queueRestart_only _ _) (by decide) ?_
    exact Only.refl _ _
  · exact Only.refl _ _

theorem execRebind_only (who : Who) (queue : BitVec 13) (part : BitVec 3) (s : State) : NextOnly execStopParts s
    (execRebind who queue part s) := by
  unfold execRebind
  with_reducible refine NextOnly.next ?_
  with_reducible refine hostWrite_only (by decide) ?_ ?_
  · intro u0 
    with_reducible refine Only.step (queueRebind_only _ _ _) (by decide) ?_
    exact Only.refl _ _
  · exact Only.refl _ _

/-- What `rebindSettle` may change. -/
def rebindSettleParts : List Field := [.queues, .rg, .rgParts]

theorem rebindSettle_only (s : State) : Only rebindSettleParts s (rebindSettle s) := by
  unfold rebindSettle
  split
  · exact Only.refl _ _
  · rename_i r _
    dsimp only
    with_reducible refine Only.ite ?_ (Only.refl _ _)
    with_reducible refine Only.step (regEval_only _) (by decide) ?_
    with_reducible refine Only.step (queueRestart_only _ _) (by decide) ?_
    exact Only.setQ (by decide) (SeqSub.refl (s.queue r.1.toNat)) (Only.set_rg (by decide) rfl (Only.refl _ _))

theorem execRebindComplete_only (s : State) : NextOnly rebindSettleParts s (execRebindComplete s) := by
  unfold execRebindComplete
  with_reducible refine NextOnly.next ?_
  with_reducible refine Only.ite ?_ ?_
  · with_reducible refine Only.step (rebindSettle_only _) (by decide) ?_
    exact Only.refl _ _
  · exact Only.refl _ _

/-- What `execGrant` may change. -/
def execGrantParts : List Field := [.boot, .kp, .shares, .rg, .cores, .chime, .obs]

theorem execGrant_only (who : Who) (size : BitVec 25) (s : State) : NextOnly execGrantParts s (execGrant who size s) := by
  unfold execGrant
  with_reducible refine NextOnly.next ?_
  with_reducible refine hostWrite_only (by decide) ?_ ?_
  · intro u0 
    with_reducible refine Only.step (shareGrant_only _ _) (by decide) ?_
    exact Only.refl _ _
  · exact Only.refl _ _

/-- What `execReleaseShare` may change. -/
def execReleaseShareParts : List Field := [.boot, .kp, .queues, .shares, .rg, .rgParts, .cores, .chime, .obs]

theorem execReleaseShare_only (who : Who) (s : State) : NextOnly execReleaseShareParts s (execReleaseShare who s) := by
  unfold execReleaseShare
  with_reducible refine NextOnly.next ?_
  with_reducible refine hostWrite_only (by decide) ?_ ?_
  · intro u0 
    with_reducible refine Only.step (shareRelease_only _) (by decide) ?_
    exact Only.refl _ _
  · exact Only.refl _ _

theorem execScratchClearDone_only (core : BitVec 4) (s : State) : NextOnly clearDoneParts s (execScratchClearDone core s)
    := by
  unfold execScratchClearDone
  with_reducible refine NextOnly.next ?_
  with_reducible refine Only.ite ?_ ?_
  · with_reducible refine Only.step (clearDone_only _ _) (by decide) ?_
    exact Only.refl _ _
  · exact Only.refl _ _

/-- What `execWeightWrite` may change. -/
def execWeightWriteParts : List Field := [.boot, .kp, .ctxs, .queues, .insts, .chime, .obs]

theorem execWeightWrite_only (who : Who) (data : W32) (s : State) : NextOnly execWeightWriteParts s (execWeightWrite who
    data s) := by
  unfold execWeightWrite
  with_reducible refine NextOnly.next ?_
  with_reducible refine hostWrite_only (by decide) ?_ ?_
  · intro u0 
    with_reducible refine Only.step (setWeight_only _ _) (by decide) ?_
    exact Only.refl _ _
  · exact Only.refl _ _

/-- What `execPreemptQueue` may change. -/
def execPreemptQueueParts : List Field := [.boot, .run, .kp, .rg, .jobs, .cores, .chime, .obs, .freeCount]

theorem execPreemptQueue_only (who : Who) (target : BitVec 16) (s : State) : NextOnly execPreemptQueueParts s
    (execPreemptQueue who target s) := by
  unfold execPreemptQueue
  with_reducible refine NextOnly.next ?_
  with_reducible refine hostWrite_only (by decide) ?_ ?_
  · intro u0 
    with_reducible refine Only.step (preemptQueue_only _ _) (by decide) ?_
    exact Only.refl _ _
  · exact Only.refl _ _

theorem execPreemptContext_only (who : Who) (target : BitVec 16) (s : State) : NextOnly execPreemptQueueParts s
    (execPreemptContext who target s) := by
  unfold execPreemptContext
  with_reducible refine NextOnly.next ?_
  with_reducible refine hostWrite_only (by decide) ?_ ?_
  · intro u0 
    with_reducible refine Only.step (preemptContext_only _ _) (by decide) ?_
    exact Only.refl _ _
  · exact Only.refl _ _

theorem execPreemptInstance_only (who : Who) (target : BitVec 16) (s : State) : NextOnly execPreemptQueueParts s
    (execPreemptInstance who target s) := by
  unfold execPreemptInstance
  with_reducible refine NextOnly.next ?_
  with_reducible refine hostWrite_only (by decide) ?_ ?_
  · intro u0 
    with_reducible refine Only.step (preemptInstance_only _ _) (by decide) ?_
    exact Only.refl _ _
  · exact Only.refl _ _

theorem execPreemptCores_only (who : Who) (part : BitVec 3) (mask : BitVec 16) (s : State) : NextOnly execPreemptQueueParts
    s (execPreemptCores who part mask s) := by
  unfold execPreemptCores
  with_reducible refine NextOnly.next ?_
  with_reducible refine hostWrite_only (by decide) ?_ ?_
  · intro u0 
    with_reducible refine Only.step (preemptCores_only _ _ _) (by decide) ?_
    exact Only.refl _ _
  · exact Only.refl _ _

theorem execPreemptWaitExpiry_only (part : BitVec 3) (t : W32) (s : State) : NextOnly autoPreemptParts s
    (execPreemptWaitExpiry part t s) := by
  unfold execPreemptWaitExpiry
  extract_lets -merge +onlyGivenNames x0
  try clear_value x0
  split
  · with_reducible refine NextOnly.next ?_
    exact Only.refl _ _
  · split
    · with_reducible refine NextOnly.next ?_
      exact Only.refl _ _
    · split
      · with_reducible refine NextOnly.next ?_
        exact Only.refl _ _
      · with_reducible refine NextOnly.next ?_
        with_reducible refine Only.ite ?_ ?_
        · with_reducible refine Only.step (autoPreempt_only _ _ _ _ _) (by decide) ?_
          exact Only.refl _ _
        · exact Only.refl _ _

/-- What `remoteExpired` may change. -/
def remoteExpiredParts : List Field := [.writes, .mem, .poison, .au, .run, .pool, .gens, .ctxs, .queues, .insts, .rg,
  .rgParts, .jobs, .cores, .flights, .tw, .links, .fr, .chime, .obs, .freeCount]

theorem remoteExpired_only (s : State) (n : Nat) (j : Job) : Only remoteExpiredParts s (remoteExpired s n j) := by
  unfold remoteExpired
  extract_lets -merge +onlyGivenNames x0
  try clear_value x0
  extract_lets -merge +onlyGivenNames s1
  have h2 : Only remoteExpiredParts s s1 := by
    unfold s1
    with_reducible refine Only.step (killJob_only _ _ _ _ _) (by decide) ?_
    exact Only.refl _ _
  try clear_value s1
  extract_lets -merge +onlyGivenNames s3
  have h4 : Only remoteExpiredParts s s3 := by
    unfold s3
    with_reducible refine Only.foldl ?_ ?_
    · intro u5 a6
      with_reducible refine Only.step (flightBreak_only _ _ _ _ _) (by decide) ?_
      exact Only.refl _ _
    · exact h2
  try clear_value s3
  extract_lets -merge +onlyGivenNames s7
  have h8 : Only remoteExpiredParts s s7 := by
    unfold s7
    with_reducible refine Only.step (chPulse_only _ _ _ _) (by decide) ?_
    exact h4
  try clear_value s7
  with_reducible refine Only.step (pumpAll_only _) (by decide) ?_
  with_reducible refine Only.step (killWaiters_only _) (by decide) ?_
  with_reducible refine Only.set_rg (by decide) (by rfl) ?_
  exact h8

theorem execRemoteLimit_only (core : BitVec 4) (s : State) : NextOnly remoteExpiredParts s (execRemoteLimit core s) := by
  unfold execRemoteLimit
  split
  · with_reducible refine NextOnly.next ?_
    exact Only.refl _ _
  · split
    · with_reducible refine NextOnly.next ?_
      exact Only.refl _ _
    · with_reducible refine NextOnly.next ?_
      with_reducible refine Only.ite ?_ ?_
      · with_reducible refine Only.step (remoteExpired_only _ _ _) (by decide) ?_
        exact Only.refl _ _
      · exact Only.refl _ _

theorem execDirtyEnable_only (who : Who) (s : State) : NextOnly dirtyWriteParts s (execDirtyEnable who s) := by
  unfold execDirtyEnable
  with_reducible refine NextOnly.step (dirtyWrite_only _ _ _) (by decide) ?_
  exact Only.refl _ _

theorem execDirtyFlip_only (who : Who) (s : State) : NextOnly dirtyWriteParts s (execDirtyFlip who s) := by
  unfold execDirtyFlip
  with_reducible refine NextOnly.step (dirtyWrite_only _ _ _) (by decide) ?_
  exact Only.refl _ _

theorem execDirtyDisable_only (who : Who) (s : State) : NextOnly dirtyWriteParts s (execDirtyDisable who s) := by
  unfold execDirtyDisable
  with_reducible refine NextOnly.step (dirtyWrite_only _ _ _) (by decide) ?_
  exact Only.refl _ _

theorem flipEnd_only (s : State) (n : Nat) : Only setInstParts s (flipEnd s n) := by
  unfold flipEnd
  extract_lets -merge +onlyGivenNames x0
  try clear_value x0
  with_reducible refine Only.ite ?_ ?_
  · with_reducible refine Only.step (modDirty_only _ _ _) (by decide) ?_
    exact Only.refl _ _
  · exact Only.refl _ _

theorem execFlipDone_only (inst : BitVec 6) (s : State) : NextOnly setInstParts s (execFlipDone inst s) := by
  unfold execFlipDone
  with_reducible refine NextOnly.next ?_
  with_reducible refine Only.ite ?_ ?_
  · with_reducible refine Only.step (flipEnd_only _ _) (by decide) ?_
    exact Only.refl _ _
  · exact Only.refl _ _

end Sys2Proof.Machine
end

