-- ==== Sys2Proof/Laws/OnlyUnits.lean ====
section
/-! SUPPORT. Which parts of the state an operation may change, for the links, the twin, recovery, the memory ports, the
security unit and boot. -/

namespace Sys2Proof.Machine

/-- What `afterBreak` may change. -/
def afterBreakParts : List Field := [.writes, .mem, .poison, .au, .run, .pool, .gens, .ctxs, .queues, .insts, .rgParts,
  .jobs, .cores, .fr, .chime, .obs, .freeCount]

theorem afterBreak_only (s : State) : Only afterBreakParts s (afterBreak s) := by
  unfold afterBreak
  with_reducible refine Only.step (pumpAll_only _) (by decide) ?_
  with_reducible refine Only.step (killWaiters_only _) (by decide) ?_
  exact Only.refl _ _

theorem badCrc_only (s : State) (n : Nat) (sequenced : Bool) : Only linkSendParts s (badCrc s n sequenced) := by
  unfold badCrc
  extract_lets -merge +onlyGivenNames s0
  have h1 : Only linkSendParts s s0 := by
    unfold s0
    with_reducible refine Only.step (State.modLink_only _ _ _) (by decide) ?_
    exact Only.refl _ _
  try clear_value s0
  with_reducible refine Only.ite ?_ ?_
  · with_reducible refine Only.step (linkSend_only _ _ _) (by decide) ?_
    exact h1
  · exact h1

/-- What `blkCleared` may change. -/
def blkClearedParts : List Field := [.boot, .frozen, .ports, .writes, .esc, .au, .run, .pool, .kp, .gens, .objs, .ctxs,
  .queues, .insts, .shares, .rg, .rgParts, .jobs, .nextJob, .cores, .counters, .updates, .flights, .sy, .sec, .tw,
  .links, .fr, .chime, .obs, .frCfg, .chimeCfg, .obsCfg, .auIdle]

theorem blkCleared_only (s : State) : Only blkClearedParts s (blkCleared s) := by
  intro f hf
  cases f <;> first | exact Eq.refl _ | exact absurd (by decide) hf | exact fun h => h |
    exact fun _ => ⟨fun _ => List.nodup_nil, fun _ _ h => nomatch h⟩

/-- What `bootBegin` may change. -/
def bootBeginParts : List Field := [.boot, .sec, .chime, .obs, .freeCount]

theorem bootBegin_only (s : State) : Only bootBeginParts s (bootBegin s) := by
  unfold bootBegin
  with_reducible refine Only.ite ?_ ?_
  · exact Only.refl _ _
  · extract_lets -merge +onlyGivenNames x0
    extract_lets -merge +onlyGivenNames s1
    have h2 : Only bootBeginParts s s1 := by
      unfold s1
      with_reducible refine Only.step (State.drawDigest_only _) (by decide) ?_
      exact Only.refl _ _
    try clear_value s1
    extract_lets -merge +onlyGivenNames _ _ s3
    have h4 : Only bootBeginParts s s3 := by
      unfold s3
      with_reducible refine Only.set_boot_sec (by decide) ?_
      exact h2
    try clear_value s3
    with_reducible refine Only.step (chSampleAll_only _) (by decide) ?_
    exact h4

theorem bootLoad_only (s : State) : Only hostErrParts s (bootLoad s) := by
  unfold bootLoad
  with_reducible refine Only.ite ?_ ?_
  · with_reducible refine Only.ite ?_ ?_
    · with_reducible refine Only.set_boot (by decide) ?_
      exact Only.refl _ _
    · with_reducible refine Only.set_boot (by decide) ?_
      exact Only.refl _ _
  · exact Only.refl _ _

theorem bootCommand_only (s : State) (v : W64) : Only hostErrParts s (bootCommand s v) := by
  unfold bootCommand
  with_reducible refine Only.ite ?_ ?_
  · with_reducible refine Only.step (bootLoad_only _) (by decide) ?_
    exact Only.refl _ _
  · exact Only.refl _ _

theorem chResample_only (s : State) (n : Nat) : Only chSampleParts s (chResample s n) := by
  unfold chResample
  extract_lets -merge +onlyGivenNames x0
  try clear_value x0
  with_reducible refine Only.ite ?_ ?_
  · with_reducible refine Only.step (chSample_only _ _) (by decide) ?_
    exact Only.refl _ _
  · with_reducible refine Only.step (State.setSrc_only _ _ _) (by decide) ?_
    exact Only.refl _ _

theorem copyCount_only (s : State) (p : Nat) (slot : Nat) (amount : Nat) : Only endBarriersParts s (copyCount s p slot
    amount) := by
  unfold copyCount
  split
  · exact Only.refl _ _
  · with_reducible refine Only.modQ (by decide) ?_ ?_
    · exact fun _ => modCmd_sub _ _ _ (fun _ h => h)
    · exact Only.refl _ _

theorem chargeCopy_only (s : State) (p : Nat) (ns : Nat) : Only teardownBeginParts s (chargeCopy s p ns) := by
  unfold chargeCopy
  split
  · exact Only.refl _ _
  · with_reducible refine Only.step (State.modCtx_only _ _ _) (by decide) ?_
    with_reducible refine Only.step (copyCount_only _ _ _ _) (by decide) ?_
    exact Only.refl _ _

/-- What `chargeCore` may change. -/
def chargeCoreParts : List Field := [.ctxs, .rgParts, .jobs]

theorem chargeCore_only (s : State) (c : Nat) (ns : Nat) : Only chargeCoreParts s (chargeCore s c ns) := by
  unfold chargeCore
  split
  · exact Only.refl _ _
  · split
    · exact Only.refl _ _
    · split
      · with_reducible refine Only.step (State.modRgPart_only _ _ _) (by decide) ?_
        exact Only.refl _ _
      · with_reducible refine Only.step (State.modCtx_only _ _ _) (by decide) ?_
        with_reducible refine Only.step (State.setJob_only _ _ _) (by decide) ?_
        exact Only.refl _ _

/-- What `chargeTag` may change. -/
def chargeTagParts : List Field := [.ctxs, .queues, .rgParts, .jobs, .fr, .frCfg]

theorem chargeTag_only (s : State) (tag : Nat) (ns : Nat) : Only chargeTagParts s (chargeTag s tag ns) := by
  unfold chargeTag
  split
  · with_reducible refine Only.step (chargeCore_only _ _ _) (by decide) ?_
    exact Only.refl _ _
  · with_reducible refine Only.step (chargeCopy_only _ _ _) (by decide) ?_
    exact Only.refl _ _
  · with_reducible refine Only.set_fr (by decide) ?_
    exact Only.refl _ _

theorem copyPoison_only (s : State) (p : Nat) (a : Nat) : Only pumpAllParts s (copyPoison s p a) := by
  unfold copyPoison
  split
  · with_reducible refine Only.step (poisonMove_only _ _ _ _ _) (by decide) ?_
    with_reducible refine Only.step (markPoison_only _ _ _) (by decide) ?_
    exact Only.refl _ _
  · exact Only.refl _ _

theorem copyRead_only (s : State) (p : Nat) (bad : Bool) : Only loseQueueParts s (copyRead s p bad) := by
  unfold copyRead
  extract_lets -merge +onlyGivenNames s0
  have h1 : Only loseQueueParts s s0 := by
    unfold s0
    with_reducible refine Only.step (copyCount_only _ _ _ _) (by decide) ?_
    with_reducible refine Only.step (pmGlobal_only _ _ _) (by decide) ?_
    exact Only.refl _ _
  try clear_value s0
  with_reducible refine Only.ite ?_ ?_
  · with_reducible refine Only.step (copyCount_only _ _ _ _) (by decide) ?_
    with_reducible refine Only.step (pmGlobal_only _ _ _) (by decide) ?_
    exact h1
  · exact h1

theorem coreWipe_only (s : State) (c : Nat) : Only setCoreParts s (coreWipe s c) := by
  unfold coreWipe
  with_reducible refine Only.step (State.modCore_only _ _ _) (by decide) ?_
  exact Only.refl _ _

/-- What `counterSet` may change. -/
def counterSetParts : List Field := [.writes, .mem, .poison, .au, .run, .pool, .gens, .ctxs, .queues, .insts, .rgParts,
  .jobs, .cores, .counters, .flights, .sy, .tw, .links, .fr, .chime, .obs, .freeCount]

theorem counterSet_only (s : State) (v : W32) : Only counterSetParts s (counterSet s v) := by
  unfold counterSet
  extract_lets -merge +onlyGivenNames x0
  try clear_value x0
  extract_lets -merge +onlyGivenNames x1
  try clear_value x1
  with_reducible refine Only.ite ?_ ?_
  · extract_lets -merge +onlyGivenNames s2
    have h3 : Only counterSetParts s s2 := by
      unfold s2
      with_reducible refine Only.step (watchStale_only _ _) (by decide) ?_
      with_reducible refine Only.step (ctrSet_only _ _ _) (by decide) ?_
      exact Only.refl _ _
    try clear_value s2
    with_reducible refine Only.ite ?_ ?_
    · with_reducible refine Only.step (afterBreak_only _) (by decide) ?_
      with_reducible refine Only.step (flightArrived_only _ _) (by decide) ?_
      exact h3
    · exact h3
  · exact Only.refl _ _

/-- What `counterReclaim` may change. -/
def counterReclaimParts : List Field := [.counters, .sy]

theorem counterReclaim_only (s : State) : Only counterReclaimParts s (counterReclaim s) := by
  unfold counterReclaim
  extract_lets -merge +onlyGivenNames x0
  try clear_value x0
  extract_lets -merge +onlyGivenNames x1
  try clear_value x1
  with_reducible refine Only.ite ?_ ?_
  · with_reducible refine Only.set_counters (by decide) ?_
    exact Only.refl _ _
  · with_reducible refine Only.set_sy (by decide) ?_
    exact Only.refl _ _

theorem counterCommand_only (s : State) (v : W64) : Only counterSetParts s (counterCommand s v) := by
  unfold counterCommand
  split
  · with_reducible refine Only.step (counterSet_only _ _) (by decide) ?_
    exact Only.refl _ _
  · with_reducible refine Only.step (counterReclaim_only _) (by decide) ?_
    exact Only.refl _ _
  · exact Only.refl _ _

theorem fillPoison_only (s : State) (c : Nat) : Only landLineParts s (fillPoison s c) := by
  unfold fillPoison
  split
  · split
    · with_reducible refine Only.step (fillLine_only _ _ _) (by decide) ?_
      exact Only.refl _ _
    · with_reducible refine Only.step (fillAhead_only _ _ _) (by decide) ?_
      exact Only.refl _ _
  · exact Only.refl _ _

theorem fillRead_only (s : State) (c : Nat) (bad : Bool) : Only pmJobParts s (fillRead s c bad) := by
  unfold fillRead
  extract_lets -merge +onlyGivenNames s0
  have h1 : Only pmJobParts s s0 := by
    unfold s0
    with_reducible refine Only.step (pmJob_only _ _ _ _) (by decide) ?_
    exact Only.refl _ _
  try clear_value s0
  with_reducible refine Only.ite ?_ ?_
  · with_reducible refine Only.step (pmJob_only _ _ _ _) (by decide) ?_
    exact h1
  · exact h1

theorem keeperRead_only (s : State) (bad : Bool) : Only chSampleParts s (keeperRead s bad) := by
  unfold keeperRead
  extract_lets -merge +onlyGivenNames s0
  have h1 : Only chSampleParts s s0 := by
    unfold s0
    with_reducible refine Only.step (pmGlobal_only _ _ _) (by decide) ?_
    exact Only.refl _ _
  try clear_value s0
  with_reducible refine Only.ite ?_ ?_
  · with_reducible refine Only.step (pmGlobal_only _ _ _) (by decide) ?_
    exact h1
  · exact h1

theorem patchFail_only (s : State) (code : BitVec 16) : Only hostErrParts s (patchFail s code) := by
  unfold patchFail
  with_reducible refine Only.set_boot (by decide) ?_
  exact Only.refl _ _

/-- What `dirtyPoison` may change. -/
def dirtyPoisonParts : List Field := [.writes, .mem, .poison, .au, .pool, .gens, .insts, .fr, .chime, .obs, .freeCount]

theorem dirtyPoison_only (s : State) (n : Nat) (a : Nat) : Only dirtyPoisonParts s (dirtyPoison s n a) := by
  unfold dirtyPoison
  with_reducible refine Only.step (errRecord_only _ _ _ _ _ _ _) (by decide) ?_
  with_reducible refine Only.step (dirtyStop_only _ _) (by decide) ?_
  with_reducible refine Only.step (markPoison_only _ _ _) (by decide) ?_
  exact Only.refl _ _

/-- What `dataAct` may change. -/
def dataActParts : List Field := [.boot, .writes, .mem, .poison, .au, .run, .pool, .gens, .ctxs, .queues, .insts,
  .rgParts, .jobs, .cores, .tw, .links, .fr, .chime, .obs, .freeCount, .frCfg, .obsCfg, .auIdle]

theorem dataAct_only (s : State) (r : Reader) (a : Nat) (bad : Bool) : Only dataActParts s (dataAct s r a bad) := by
  unfold dataAct
  split
  · with_reducible refine Only.step (landLine_only _ _ _ _ _) (by decide) ?_
    exact Only.refl _ _
  · with_reducible refine Only.ite ?_ ?_
    · with_reducible refine Only.step (fillPoison_only _ _) (by decide) ?_
      with_reducible refine Only.step (fillRead_only _ _ _) (by decide) ?_
      exact Only.refl _ _
    · with_reducible refine Only.step (fillRead_only _ _ _) (by decide) ?_
      exact Only.refl _ _
  · with_reducible refine Only.ite ?_ ?_
    · with_reducible refine Only.step (copyPoison_only _ _ _) (by decide) ?_
      with_reducible refine Only.step (copyRead_only _ _ _) (by decide) ?_
      exact Only.refl _ _
    · with_reducible refine Only.step (copyRead_only _ _ _) (by decide) ?_
      exact Only.refl _ _
  · with_reducible refine Only.ite ?_ ?_
    · with_reducible refine Only.step (traceSettle_only _) (by decide) ?_
      with_reducible refine Only.step (auRefuseUnread_only _ _) (by decide) ?_
      with_reducible refine Only.step (markPoison_only _ _ _) (by decide) ?_
      with_reducible refine Only.step (keeperRead_only _ _) (by decide) ?_
      exact Only.refl _ _
    · with_reducible refine Only.step (keeperRead_only _ _) (by decide) ?_
      exact Only.refl _ _
  · with_reducible refine Only.ite ?_ ?_
    · with_reducible refine Only.step (patchFail_only _ _) (by decide) ?_
      with_reducible refine Only.step (markPoison_only _ _ _) (by decide) ?_
      with_reducible refine Only.step (keeperRead_only _ _) (by decide) ?_
      exact Only.refl _ _
    · with_reducible refine Only.step (keeperRead_only _ _) (by decide) ?_
      exact Only.refl _ _
  · with_reducible refine Only.ite ?_ ?_
    · with_reducible refine Only.step (dirtyPoison_only _ _ _) (by decide) ?_
      with_reducible refine Only.step (keeperRead_only _ _) (by decide) ?_
      exact Only.refl _ _
    · with_reducible refine Only.step (keeperRead_only _ _) (by decide) ?_
      exact Only.refl _ _
  · with_reducible refine Only.ite ?_ ?_
    · with_reducible refine Only.step (recoveryStop_only _ _ _ _) (by decide) ?_
      with_reducible refine Only.step (markPoison_only _ _ _) (by decide) ?_
      with_reducible refine Only.step (keeperRead_only _ _) (by decide) ?_
      exact Only.refl _ _
    · with_reducible refine Only.step (keeperRead_only _ _) (by decide) ?_
      exact Only.refl _ _
  · with_reducible refine Only.ite ?_ ?_
    · with_reducible refine Only.step (markPoison_only _ _ _) (by decide) ?_
      with_reducible refine Only.step (keeperRead_only _ _) (by decide) ?_
      exact Only.refl _ _
    · with_reducible refine Only.step (keeperRead_only _ _) (by decide) ?_
      exact Only.refl _ _

theorem driveWdog_only (s : State) (t : Nat) : Only setSrcParts s (driveWdog s t) := by
  unfold driveWdog
  with_reducible refine Only.ite ?_ ?_
  · with_reducible refine Only.step (State.setTarget_only _ _ _) (by decide) ?_
    exact Only.refl _ _
  · exact Only.refl _ _

theorem dropArrivals_only (s : State) (n : Nat) : Only dropJobParts s (dropArrivals s n) := by
  unfold dropArrivals
  extract_lets -merge +onlyGivenNames x0
  try clear_value x0
  with_reducible refine Only.set_jobs (by decide) ?_
  exact Only.refl _ _

/-- What `porCleared` may change. -/
def porClearedParts : List Field := [.boot, .frozen, .ports, .writes, .esc, .au, .run, .basin, .pool, .kp, .gens,
  .objs, .ctxs, .queues, .insts, .shares, .rg, .rgParts, .jobs, .nextJob, .cores, .counters, .updates, .flights, .sy,
  .sec, .tw, .links, .fr, .chime, .obs, .tap, .frCfg, .chimeCfg, .obsCfg, .auIdle]

theorem porCleared_only (s : State) : Only porClearedParts s (porCleared s) := by
  unfold porCleared
  extract_lets -merge +onlyGivenNames s0
  have h1 : Only porClearedParts s s0 := by
    unfold s0
    with_reducible refine Only.step (blkCleared_only _) (by decide) ?_
    exact Only.refl _ _
  try clear_value s0
  with_reducible refine Only.set_boot_basin_cores_sec_fr_tap (by decide) ?_
  exact h1

/-- What `execPorN` may change. -/
def execPorNParts : List Field := [.boot, .frozen, .ports, .writes, .esc, .au, .run, .basin, .pool, .kp, .gens, .objs,
  .ctxs, .queues, .insts, .shares, .rg, .rgParts, .jobs, .nextJob, .cores, .counters, .updates, .flights, .sy, .sec,
  .tw, .links, .fr, .chime, .obs, .tap, .freeCount, .frCfg, .chimeCfg, .obsCfg, .auIdle]

theorem execPorN_only (asserted : Bool) (s : State) : NextOnly execPorNParts s (execPorN asserted s) := by
  unfold execPorN
  with_reducible refine NextOnly.next ?_
  with_reducible refine Only.ite ?_ ?_
  · with_reducible refine Only.step (porCleared_only _) (by decide) ?_
    with_reducible refine Only.set_boot (by decide) ?_
    exact Only.refl _ _
  · with_reducible refine Only.ite ?_ ?_
    · with_reducible refine Only.step (bootBegin_only _) (by decide) ?_
      with_reducible refine Only.set_boot (by decide) ?_
      exact Only.refl _ _
    · exact Only.refl _ _

/-- What `execBlkRstN` may change. -/
def execBlkRstNParts : List Field := [.boot, .frozen, .ports, .writes, .esc, .au, .run, .pool, .kp, .gens, .objs,
  .ctxs, .queues, .insts, .shares, .rg, .rgParts, .jobs, .nextJob, .cores, .counters, .updates, .flights, .sy, .sec,
  .tw, .links, .fr, .chime, .obs, .freeCount, .frCfg, .chimeCfg, .obsCfg, .auIdle]

theorem execBlkRstN_only (asserted : Bool) (s : State) : NextOnly execBlkRstNParts s (execBlkRstN asserted s) := by
  unfold execBlkRstN
  with_reducible refine NextOnly.next ?_
  with_reducible refine Only.ite ?_ ?_
  · with_reducible refine Only.step (blkCleared_only _) (by decide) ?_
    with_reducible refine Only.set_boot (by decide) ?_
    exact Only.refl _ _
  · with_reducible refine Only.ite ?_ ?_
    · with_reducible refine Only.step (bootBegin_only _) (by decide) ?_
      with_reducible refine Only.set_boot (by decide) ?_
      exact Only.refl _ _
    · exact Only.refl _ _

/-- What `importKeys` may change. -/
def importKeysParts : List Field := [.sec, .freeCount]

theorem importKeys_only (s : State) : Only importKeysParts s (importKeys s) := by
  unfold importKeys
  extract_lets -merge +onlyGivenNames x0
  extract_lets -merge +onlyGivenNames s1
  have h2 : Only importKeysParts s s1 := by
    unfold s1
    with_reducible refine Only.step (State.drawWords_only _ _) (by decide) ?_
    exact Only.refl _ _
  try clear_value s1
  with_reducible refine Only.set_sec (by decide) ?_
  exact h2

theorem identityKeys_only (s : State) : Only eraseSettleParts s (identityKeys s) := by
  unfold identityKeys
  with_reducible refine Only.ite ?_ ?_
  · extract_lets -merge +onlyGivenNames x0
    try clear_value x0
    with_reducible refine Only.set_sec (by decide) ?_
    exact Only.refl _ _
  · exact Only.refl _ _

/-- What `romZero` may change. -/
def romZeroParts : List Field := [.basin, .pool, .cores]

theorem romZero_only (s : State) : Only romZeroParts s (romZero s) := by
  unfold romZero
  extract_lets -merge +onlyGivenNames x0
  try clear_value x0
  with_reducible refine Only.set_basin_pool_cores (by decide) ?_
  exact Only.refl _ _

theorem openPort_only (s : State) (p : Nat) : Only setPortParts s (openPort s p) := by
  unfold openPort
  with_reducible refine Only.ite ?_ ?_
  · with_reducible refine Only.step (State.modPort_only _ _ _) (by decide) ?_
    exact Only.refl _ _
  · exact Only.refl _ _

theorem openTrained_only (s : State) : Only setPortParts s (openTrained s) := by
  unfold openTrained
  with_reducible refine Only.foldl ?_ ?_
  · intro u0 a1
    with_reducible refine Only.step (openPort_only _ _) (by decide) ?_
    exact Only.refl _ _
  · exact Only.refl _ _

/-- What `romEnd` may change. -/
def romEndParts : List Field := [.boot, .ports, .basin, .pool, .cores, .sec, .fr, .freeCount, .frCfg]

theorem romEnd_only (s : State) : Only romEndParts s (romEnd s) := by
  unfold romEnd
  extract_lets -merge +onlyGivenNames s0
  have h1 : Only romEndParts s s0 := by
    unfold s0
    with_reducible refine Only.step (importKeys_only _) (by decide) ?_
    with_reducible refine Only.step (identityKeys_only _) (by decide) ?_
    with_reducible refine Only.step (romZero_only _) (by decide) ?_
    exact Only.refl _ _
  try clear_value s0
  with_reducible refine Only.step (openTrained_only _) (by decide) ?_
  with_reducible refine Only.set_boot_fr (by decide) ?_
  exact h1

/-- What `romFailed` may change. -/
def romFailedParts : List Field := [.boot, .fr, .chime, .obs, .freeCount, .frCfg]

theorem romFailed_only (s : State) : Only romFailedParts s (romFailed s) := by
  unfold romFailed
  extract_lets -merge +onlyGivenNames x0
  extract_lets -merge +onlyGivenNames s1
  have h2 : Only romFailedParts s s1 := by
    unfold s1
    with_reducible refine Only.step (State.drawWord_only _) (by decide) ?_
    exact Only.refl _ _
  try clear_value s1
  with_reducible refine Only.step (chSample_only _ _) (by decide) ?_
  with_reducible refine Only.set_boot_fr (by decide) ?_
  exact h2

/-- What `execRomInitDone` may change. -/
def execRomInitDoneParts : List Field := [.boot, .ports, .basin, .pool, .cores, .sec, .fr, .chime, .obs, .freeCount,
  .frCfg]

theorem execRomInitDone_only (selfCheckOk : Bool) (s : State) : NextOnly execRomInitDoneParts s (execRomInitDone
    selfCheckOk s) := by
  unfold execRomInitDone
  with_reducible refine NextOnly.next ?_
  with_reducible refine Only.ite ?_ ?_
  · with_reducible refine Only.ite ?_ ?_
    · with_reducible refine Only.step (romEnd_only _) (by decide) ?_
      exact Only.refl _ _
    · with_reducible refine Only.step (romFailed_only _) (by decide) ?_
      exact Only.refl _ _
  · exact Only.refl _ _

theorem execLoad_only (who : Who) (s : State) : NextOnly hostCheckParts s (execLoad who s) := by
  unfold execLoad
  with_reducible refine NextOnly.next ?_
  with_reducible refine hostWrite_only (by decide) ?_ ?_
  · intro u0 
    with_reducible refine Only.step (bootLoad_only _) (by decide) ?_
    exact Only.refl _ _
  · exact Only.refl _ _

theorem patchGood_only (s : State) (base : Nat) (len : Nat) : Only hostErrParts s (patchGood s base len) := by
  unfold patchGood
  with_reducible refine Only.set_boot (by decide) ?_
  exact Only.refl _ _

/-- What `patchVerified` may change. -/
def patchVerifiedParts : List Field := [.boot, .au, .run, .insts, .jobs, .cores, .sec, .chime, .obs, .freeCount,
  .auIdle]

theorem patchVerified_only (s : State) : Only patchVerifiedParts s (patchVerified s) := by
  unfold patchVerified
  extract_lets -merge +onlyGivenNames x0
  try clear_value x0
  extract_lets -merge +onlyGivenNames x1
  try clear_value x1
  with_reducible refine Only.ite ?_ ?_
  · with_reducible refine Only.step (patchFail_only _ _) (by decide) ?_
    exact Only.refl _ _
  · with_reducible refine Only.ite ?_ ?_
    · with_reducible refine Only.step (tamperRaise_only _ _) (by decide) ?_
      with_reducible refine Only.step (patchFail_only _ _) (by decide) ?_
      exact Only.refl _ _
    · with_reducible refine Only.ite ?_ ?_
      · with_reducible refine Only.step (patchGood_only _ _ _) (by decide) ?_
        exact Only.refl _ _
      · with_reducible refine Only.step (patchFail_only _ _) (by decide) ?_
        exact Only.refl _ _

theorem execPatchVerifyDone_only (v : Unit) (s : State) : NextOnly patchVerifiedParts s (execPatchVerifyDone v s) := by
  unfold execPatchVerifyDone
  with_reducible refine NextOnly.ite ?_ ?_
  · with_reducible refine NextOnly.ite ?_ ?_
    · with_reducible refine NextOnly.next ?_
      with_reducible refine Only.step (patchVerified_only _) (by decide) ?_
      exact Only.refl _ _
    · exact NextOnly.fault _
  · with_reducible refine NextOnly.next ?_
    exact Only.refl _ _

/-- What `flightCreate` may change. -/
def flightCreateParts : List Field := [.counters, .flights]

theorem flightCreate_only (s : State) (n : Nat) : Only flightCreateParts s (flightCreate s n) := by
  unfold flightCreate
  extract_lets -merge +onlyGivenNames x0
  try clear_value x0
  with_reducible refine Only.ite ?_ ?_
  · exact Only.refl _ _
  · split
    · exact Only.refl _ _
    · extract_lets -merge +onlyGivenNames s1
      have h2 : Only flightCreateParts s s1 := by
        unfold s1
        with_reducible refine Only.step (State.setFlight_only _ _ _) (by decide) ?_
        exact Only.refl _ _
      try clear_value s1
      extract_lets -merge +onlyGivenNames _ s3
      have h4 : Only flightCreateParts s s3 := by
        unfold s3
        with_reducible refine Only.step (State.setCounter_only _ _ _) (by decide) ?_
        exact h2
      try clear_value s3
      with_reducible refine Only.step (State.setCounter_only _ _ _) (by decide) ?_
      exact h4

/-- What `flightReset` may change. -/
def flightResetParts : List Field := [.jobs, .cores, .counters, .flights]

theorem flightReset_only (s : State) (n : Nat) : Only flightResetParts s (flightReset s n) := by
  unfold flightReset
  extract_lets -merge +onlyGivenNames x0
  try clear_value x0
  with_reducible refine Only.ite ?_ ?_
  · extract_lets -merge +onlyGivenNames s1
    have h2 : Only flightResetParts s s1 := by
      unfold s1
      with_reducible refine Only.step (State.setFlight_only _ _ _) (by decide) ?_
      with_reducible refine Only.step (dropArrivals_only _ _) (by decide) ?_
      exact Only.refl _ _
    try clear_value s1
    extract_lets -merge +onlyGivenNames s3
    have h4 : Only flightResetParts s s3 := by
      unfold s3
      with_reducible refine Only.step (State.modCounter_only _ _ _) (by decide) ?_
      exact h2
    try clear_value s3
    with_reducible refine Only.step (watchStale_only _ _) (by decide) ?_
    with_reducible refine Only.step (State.modCounter_only _ _ _) (by decide) ?_
    exact h4
  · exact Only.refl _ _

/-- What `flightStop` may change. -/
def flightStopParts : List Field := [.writes, .mem, .poison, .au, .run, .pool, .gens, .ctxs, .queues, .insts, .rgParts,
  .jobs, .cores, .flights, .tw, .links, .fr, .chime, .obs, .freeCount]

theorem flightStop_only (s : State) (n : Nat) : Only flightStopParts s (flightStop s n) := by
  unfold flightStop
  with_reducible refine Only.step (afterBreak_only _) (by decide) ?_
  with_reducible refine Only.step (flightBreak_only _ _ _ _ _) (by decide) ?_
  exact Only.refl _ _

/-- What `flightDestroy` may change. -/
def flightDestroyParts : List Field := [.writes, .mem, .poison, .au, .run, .pool, .gens, .ctxs, .queues, .insts,
  .rgParts, .jobs, .cores, .counters, .flights, .tw, .links, .fr, .chime, .obs, .freeCount]

theorem flightDestroy_only (s : State) (n : Nat) : Only flightDestroyParts s (flightDestroy s n) := by
  unfold flightDestroy
  with_reducible refine Only.ite ?_ ?_
  · exact Only.refl _ _
  · extract_lets -merge +onlyGivenNames s0
    have h1 : Only flightDestroyParts s s0 := by
      unfold s0
      with_reducible refine Only.step (dropArrivals_only _ _) (by decide) ?_
      with_reducible refine Only.step (flightStop_only _ _) (by decide) ?_
      exact Only.refl _ _
    try clear_value s0
    extract_lets -merge +onlyGivenNames x2
    try clear_value x2
    extract_lets -merge +onlyGivenNames s3
    have h4 : Only flightDestroyParts s s3 := by
      unfold s3
      with_reducible refine Only.set_counters (by decide) ?_
      exact h1
    try clear_value s3
    with_reducible refine Only.step (State.setFlight_only _ _ _) (by decide) ?_
    exact h4

theorem flightCommand_only (s : State) (v : W64) : Only flightDestroyParts s (flightCommand s v) := by
  unfold flightCommand
  extract_lets -merge +onlyGivenNames x0
  try clear_value x0
  split
  · with_reducible refine Only.step (flightCreate_only _ _) (by decide) ?_
    exact Only.refl _ _
  · with_reducible refine Only.step (flightReset_only _ _) (by decide) ?_
    exact Only.refl _ _
  · with_reducible refine Only.step (flightStop_only _ _) (by decide) ?_
    exact Only.refl _ _
  · with_reducible refine Only.step (flightDestroy_only _ _) (by decide) ?_
    exact Only.refl _ _
  · exact Only.refl _ _

theorem otpBegin_only (s : State) (c : FuseCmd) : Only eraseSettleParts s (otpBegin s c) := by
  unfold otpBegin
  with_reducible refine Only.set_sec (by decide) ?_
  exact Only.refl _ _

theorem otpFirst_only (s : State) : Only eraseSettleParts s (otpFirst s) := by
  unfold otpFirst
  with_reducible refine Only.ite ?_ ?_
  · with_reducible refine Only.step (otpBegin_only _ _) (by decide) ?_
    exact Only.refl _ _
  · with_reducible refine Only.ite ?_ ?_
    · with_reducible refine Only.step (otpBegin_only _ _) (by decide) ?_
      exact Only.refl _ _
    · with_reducible refine Only.step (otpBegin_only _ _) (by decide) ?_
      exact Only.refl _ _

theorem otpRotate_only (s : State) : Only tamperActParts s (otpRotate s) := by
  unfold otpRotate
  split
  · with_reducible refine Only.step (otpBegin_only _ _) (by decide) ?_
    exact Only.refl _ _
  · extract_lets -merge +onlyGivenNames x0
    try clear_value x0
    extract_lets -merge +onlyGivenNames x1
    try clear_value x1
    with_reducible refine Only.ite ?_ ?_
    · with_reducible refine Only.step (otpBegin_only _ _) (by decide) ?_
      exact Only.refl _ _
    · with_reducible refine Only.ite ?_ ?_
      · with_reducible refine Only.step (otpBegin_only _ _) (by decide) ?_
        exact Only.refl _ _
      · with_reducible refine Only.step (tamperRaise_only _ _) (by decide) ?_
        with_reducible refine Only.step (otpBegin_only _ _) (by decide) ?_
        exact Only.refl _ _

theorem otpRevoke_only (s : State) (slot : Nat) : Only eraseSettleParts s (otpRevoke s slot) := by
  unfold otpRevoke
  with_reducible refine Only.ite ?_ ?_
  · with_reducible refine Only.step (otpBegin_only _ _) (by decide) ?_
    exact Only.refl _ _
  · with_reducible refine Only.step (otpBegin_only _ _) (by decide) ?_
    exact Only.refl _ _

theorem otpCommand_only (s : State) (op : Nat) (slot : Nat) : Only tamperActParts s (otpCommand s op slot) := by
  unfold otpCommand
  with_reducible refine Only.ite ?_ ?_
  · exact Only.refl _ _
  · with_reducible refine Only.ite ?_ ?_
    · with_reducible refine Only.step (otpBegin_only _ _) (by decide) ?_
      exact Only.refl _ _
    · split
      · with_reducible refine Only.step (otpFirst_only _) (by decide) ?_
        exact Only.refl _ _
      · with_reducible refine Only.step (otpRotate_only _) (by decide) ?_
        exact Only.refl _ _
      · with_reducible refine Only.step (otpRevoke_only _ _) (by decide) ?_
        exact Only.refl _ _

/-- What `unlockBegin` may change. -/
def unlockBeginParts : List Field := [.run, .insts, .jobs, .cores, .sec, .chime, .obs, .freeCount, .obsCfg]

theorem unlockBegin_only (s : State) : Only unlockBeginParts s (unlockBegin s) := by
  unfold unlockBegin
  extract_lets -merge +onlyGivenNames x0
  extract_lets -merge +onlyGivenNames s1
  have h2 : Only unlockBeginParts s s1 := by
    unfold s1
    with_reducible refine Only.step (State.drawWord_only _) (by decide) ?_
    exact Only.refl _ _
  try clear_value s1
  extract_lets -merge +onlyGivenNames _ _ s3
  have h4 : Only unlockBeginParts s s3 := by
    unfold s3
    with_reducible refine Only.set_sec_obs (by decide) ?_
    exact h2
  try clear_value s3
  with_reducible refine Only.foldl ?_ ?_
  · intro u5 a6
    with_reducible refine Only.step (coreWipe_only _ _) (by decide) ?_
    exact Only.refl _ _
  · with_reducible refine Only.step (tenantErase_only _ _ _) (by decide) ?_
    exact h4

theorem unlockWith_only (s : State) (bs : List Byte) (bad : Bool) : Only auVerifiedParts s (unlockWith s bs bad) := by
  unfold unlockWith
  with_reducible refine Only.ite ?_ ?_
  · exact Only.refl _ _
  · extract_lets -merge +onlyGivenNames x0
    try clear_value x0
    extract_lets -merge +onlyGivenNames x1
    extract_lets -merge +onlyGivenNames s2
    have h3 : Only auVerifiedParts s s2 := by
      unfold s2
      with_reducible refine Only.step (State.drawDigest_only _) (by decide) ?_
      exact Only.refl _ _
    try clear_value s2
    extract_lets -merge +onlyGivenNames _ s4
    have h5 : Only auVerifiedParts s s4 := by
      unfold s4
      with_reducible refine Only.set_sec (by decide) ?_
      exact h3
    try clear_value s4
    extract_lets -merge +onlyGivenNames _ x6
    with_reducible refine Only.ite ?_ ?_
    · with_reducible refine Only.set_sec (by decide) ?_
      exact h5
    · with_reducible refine Only.ite ?_ ?_
      · with_reducible refine Only.set_sec (by decide) ?_
        exact h5
      · with_reducible refine Only.ite ?_ ?_
        · with_reducible refine Only.step (unlockBegin_only _) (by decide) ?_
          exact h5
        · with_reducible refine Only.step (tamperRaise_only _ _) (by decide) ?_
          with_reducible refine Only.set_sec (by decide) ?_
          exact h5

theorem unlockAt_only (s : State) : Only auVerifiedParts s (unlockAt s) := by
  unfold unlockAt
  with_reducible refine Only.step (unlockWith_only _ _ _) (by decide) ?_
  exact Only.refl _ _

theorem twExchange_only (s : State) : Only linkSendParts s (twExchange s) := by
  unfold twExchange
  extract_lets -merge +onlyGivenNames _ s0
  have h1 : Only linkSendParts s s0 := by
    unfold s0
    with_reducible refine Only.set_tw (by decide) ?_
    exact Only.refl _ _
  try clear_value s0
  extract_lets -merge +onlyGivenNames s2
  have h3 : Only linkSendParts s s2 := by
    unfold s2
    with_reducible refine Only.step (linkSend_only _ _ _) (by decide) ?_
    exact h1
  try clear_value s2
  with_reducible refine Only.ite ?_ ?_
  · with_reducible refine Only.step (linkSend_only _ _ _) (by decide) ?_
    exact h3
  · exact h3

theorem twStart_only (s : State) : Only linkSendParts s (twStart s) := by
  unfold twStart
  with_reducible refine Only.ite ?_ ?_
  · with_reducible refine Only.step (twExchange_only _) (by decide) ?_
    with_reducible refine Only.set_tw (by decide) ?_
    exact Only.refl _ _
  · exact Only.refl _ _

theorem setTwCtl_only (s : State) (v : W64) : Only linkSendParts s (setTwCtl s v) := by
  unfold setTwCtl
  extract_lets -merge +onlyGivenNames _ s0
  have h1 : Only linkSendParts s s0 := by
    unfold s0
    with_reducible refine Only.ite ?_ ?_
    · with_reducible refine Only.set_tw (by decide) ?_
      exact Only.refl _ _
    · exact Only.refl _ _
  try clear_value s0
  with_reducible refine Only.ite ?_ ?_
  · with_reducible refine Only.step (twStart_only _) (by decide) ?_
    with_reducible refine Only.set_tw (by decide) ?_
    exact h1
  · exact h1

theorem twHandoverReq_only (s : State) : Only countAuthParts s (twHandoverReq s) := by
  unfold twHandoverReq
  with_reducible refine Only.ite ?_ ?_
  · with_reducible refine Only.set_tw (by decide) ?_
    exact Only.refl _ _
  · exact Only.refl _ _

theorem twClaim_only (s : State) : Only twReleaseParts s (twClaim s) := by
  unfold twClaim
  with_reducible refine Only.ite ?_ ?_
  · with_reducible refine Only.ite ?_ ?_
    · with_reducible refine Only.step (twPrimary_only _) (by decide) ?_
      exact Only.refl _ _
    · with_reducible refine Only.set_tw (by decide) ?_
      exact Only.refl _ _
  · exact Only.refl _ _

theorem twUnpair_only (s : State) : Only countAuthParts s (twUnpair s) := by
  unfold twUnpair
  with_reducible refine Only.set_tw (by decide) ?_
  exact Only.refl _ _

theorem twUnpairCmd_only (s : State) : Only countAuthParts s (twUnpairCmd s) := by
  unfold twUnpairCmd
  with_reducible refine Only.ite ?_ ?_
  · with_reducible refine Only.ite ?_ ?_
    · with_reducible refine Only.set_tw (by decide) ?_
      exact Only.refl _ _
    · with_reducible refine Only.step (twUnpair_only _) (by decide) ?_
      exact Only.refl _ _
  · exact Only.refl _ _

theorem twCommand_only (s : State) (v : W64) : Only twReleaseParts s (twCommand s v) := by
  unfold twCommand
  split
  · with_reducible refine Only.step (twHandoverReq_only _) (by decide) ?_
    exact Only.refl _ _
  · with_reducible refine Only.step (twClaim_only _) (by decide) ?_
    exact Only.refl _ _
  · with_reducible refine Only.step (twUnpairCmd_only _) (by decide) ?_
    exact Only.refl _ _
  · exact Only.refl _ _

theorem linkTrain_only (s : State) (n : Nat) : Only setLinkParts s (linkTrain s n) := by
  unfold linkTrain
  with_reducible refine Only.step (State.modLink_only _ _ _) (by decide) ?_
  exact Only.refl _ _

theorem twTakeover_only (s : State) : Only twReleaseParts s (twTakeover s) := by
  unfold twTakeover
  with_reducible refine Only.step (twCode_only _ _) (by decide) ?_
  with_reducible refine Only.step (twPrimary_only _) (by decide) ?_
  exact Only.refl _ _

theorem twLossAct_only (s : State) : Only twReleaseParts s (twLossAct s) := by
  unfold twLossAct
  split
  · with_reducible refine Only.ite ?_ ?_
    · exact Only.refl _ _
    · with_reducible refine Only.step (twHeld_only _ _) (by decide) ?_
      exact Only.refl _ _
  · with_reducible refine Only.ite ?_ ?_
    · with_reducible refine Only.step (twTakeover_only _) (by decide) ?_
      exact Only.refl _ _
    · with_reducible refine Only.step (twHeld_only _ _) (by decide) ?_
      exact Only.refl _ _
  · with_reducible refine Only.ite ?_ ?_
    · with_reducible refine Only.step (twTakeover_only _) (by decide) ?_
      exact Only.refl _ _
    · with_reducible refine Only.step (twHeld_only _ _) (by decide) ?_
      exact Only.refl _ _
  · with_reducible refine Only.set_tw (by decide) ?_
    exact Only.refl _ _
  · exact Only.refl _ _

theorem twLost_only (s : State) : Only twReleaseParts s (twLost s) := by
  unfold twLost
  extract_lets -merge +onlyGivenNames _ s0
  have h1 : Only twReleaseParts s s0 := by
    unfold s0
    with_reducible refine Only.set_tw (by decide) ?_
    exact Only.refl _ _
  try clear_value s0
  with_reducible refine Only.step (twLossAct_only _) (by decide) ?_
  with_reducible refine Only.step (twCode_only _ _) (by decide) ?_
  exact h1

theorem linkDown_only (s : State) (n : Nat) (cause : Nat) (disabled : Bool) : Only flightStopParts s (linkDown s n cause
    disabled) := by
  unfold linkDown
  extract_lets -merge +onlyGivenNames s0
  have h1 : Only flightStopParts s s0 := by
    unfold s0
    with_reducible refine Only.step (State.modLink_only _ _ _) (by decide) ?_
    exact Only.refl _ _
  try clear_value s0
  extract_lets -merge +onlyGivenNames s2
  have h3 : Only flightStopParts s s2 := by
    unfold s2
    with_reducible refine Only.step (twCode_only _ _) (by decide) ?_
    exact h1
  try clear_value s2
  with_reducible refine Only.ite ?_ ?_
  · exact h3
  · extract_lets -merge +onlyGivenNames s4
    have h5 : Only flightStopParts s s4 := by
      unfold s4
      with_reducible refine Only.step (afterBreak_only _) (by decide) ?_
      with_reducible refine Only.foldl ?_ ?_
      · intro u6 a7
        with_reducible refine Only.step (flightBreak_only _ _ _ _ _) (by decide) ?_
        exact Only.refl _ _
      · exact h3
    try clear_value s4
    with_reducible refine Only.ite ?_ ?_
    · extract_lets -merge +onlyGivenNames s8
      have h9 : Only flightStopParts s s8 := by
        unfold s8
        with_reducible refine Only.ite ?_ ?_
        · exact h5
        · with_reducible refine Only.step (twLost_only _) (by decide) ?_
          exact h5
      try clear_value s8
      with_reducible refine Only.set_tw (by decide) ?_
      exact h9
    · exact h5

theorem setLinkEnable_only (s : State) (n : Nat) (e : Bool) : Only flightStopParts s (setLinkEnable s n e) := by
  unfold setLinkEnable
  extract_lets -merge +onlyGivenNames s0
  have h1 : Only flightStopParts s s0 := by
    unfold s0
    with_reducible refine Only.step (State.modLink_only _ _ _) (by decide) ?_
    exact Only.refl _ _
  try clear_value s0
  with_reducible refine Only.ite ?_ ?_
  · with_reducible refine Only.step (linkTrain_only _ _) (by decide) ?_
    with_reducible refine Only.step (State.modLink_only _ _ _) (by decide) ?_
    exact h1
  · with_reducible refine Only.ite ?_ ?_
    · with_reducible refine Only.step (linkDown_only _ _ _ _) (by decide) ?_
      exact h1
    · with_reducible refine Only.step (State.modLink_only _ _ _) (by decide) ?_
      exact h1

/-- What `haltAll` may change. -/
def haltAllParts : List Field := [.tw, .obs, .obsCfg]

theorem haltAll_only (s : State) : Only haltAllParts s (haltAll s) := by
  unfold haltAll
  with_reducible refine Only.set_tw_obs (by decide) ?_
  exact Only.refl _ _

theorem refill_only (s : State) (slot : Nat) : Only modRunParts s (refill s slot) := by
  unfold refill
  with_reducible refine Only.step (State.modRun_only _ _) (by decide) ?_
  exact Only.refl _ _

theorem frCommand_only (s : State) (v : W64) : Only modRunParts s (frCommand s v) := by
  unfold frCommand
  with_reducible refine Only.ite ?_ ?_
  · with_reducible refine Only.step (refill_only _ _) (by decide) ?_
    exact Only.refl _ _
  · exact Only.refl _ _

/-- What `retBegin` may change. -/
def retBeginParts : List Field := [.boot, .writes, .mem, .poison, .au, .run, .pool, .gens, .ctxs, .queues, .insts,
  .rgParts, .jobs, .cores, .tw, .links, .fr, .chime, .obs, .freeCount, .auIdle]

theorem retBegin_only (s : State) : Only retBeginParts s (retBegin s) := by
  unfold retBegin
  extract_lets -merge +onlyGivenNames _ s0
  have h1 : Only retBeginParts s s0 := by
    unfold s0
    with_reducible refine Only.set_boot (by decide) ?_
    exact Only.refl _ _
  try clear_value s0
  extract_lets -merge +onlyGivenNames _ s2
  have h3 : Only retBeginParts s s2 := by
    unfold s2
    with_reducible refine Only.ite ?_ ?_
    · with_reducible refine Only.step (twYield_only _ _) (by decide) ?_
      with_reducible refine Only.set_tw (by decide) ?_
      exact h1
    · exact h1
  try clear_value s2
  extract_lets -merge +onlyGivenNames x4
  with_reducible refine Only.step (stopAll_only _ _) (by decide) ?_
  with_reducible refine Only.step (State.drawWord_only _) (by decide) ?_
  exact h3

theorem execRetReq_only (s : State) : NextOnly retBeginParts s (execRetReq s) := by
  unfold execRetReq
  with_reducible refine NextOnly.next ?_
  with_reducible refine Only.ite ?_ ?_
  · with_reducible refine Only.step (retBegin_only _) (by decide) ?_
    exact Only.refl _ _
  · exact Only.refl _ _

/-- What `retDone` may change. -/
def retDoneParts : List Field := [.boot, .fr, .chime, .frCfg, .chimeCfg]

theorem retDone_only (s : State) : Only retDoneParts s (retDone s) := by
  unfold retDone
  with_reducible refine Only.step (chEval_only _) (by decide) ?_
  with_reducible refine Only.set_boot_fr_chime (by decide) ?_
  exact Only.refl _ _

theorem execRetAck_only (s : State) : NextOnly retDoneParts s (execRetAck s) := by
  unfold execRetAck
  with_reducible refine NextOnly.next ?_
  with_reducible refine Only.ite ?_ ?_
  · with_reducible refine Only.step (retDone_only _) (by decide) ?_
    exact Only.refl _ _
  · exact Only.refl _ _

/-- What `wake` may change. -/
def wakeParts : List Field := [.boot, .frozen, .ports, .writes, .esc, .au, .run, .basin, .pool, .kp, .gens, .objs,
  .ctxs, .queues, .insts, .shares, .rg, .rgParts, .jobs, .nextJob, .cores, .counters, .updates, .flights, .sy, .sec,
  .tw, .links, .fr, .chime, .obs, .freeCount, .frCfg, .chimeCfg, .obsCfg, .auIdle]

theorem wake_only (s : State) : Only wakeParts s (wake s) := by
  unfold wake
  extract_lets -merge +onlyGivenNames x0
  try clear_value x0
  extract_lets -merge +onlyGivenNames s1
  have h2 : Only wakeParts s s1 := by
    unfold s1
    with_reducible refine Only.step (blkCleared_only _) (by decide) ?_
    exact Only.refl _ _
  try clear_value s1
  with_reducible refine Only.step (bootBegin_only _) (by decide) ?_
  with_reducible refine Only.set_boot_basin_cores_chime (by decide) ?_
  exact h2

theorem execWake_only (s : State) : NextOnly wakeParts s (execWake s) := by
  unfold execWake
  with_reducible refine NextOnly.next ?_
  with_reducible refine Only.ite ?_ ?_
  · with_reducible refine Only.step (wake_only _) (by decide) ?_
    exact Only.refl _ _
  · exact Only.refl _ _

/-- What `restoreEnd` may change. -/
def restoreEndParts : List Field := [.boot, .chime, .obs, .chimeCfg]

theorem restoreEnd_only (s : State) : Only restoreEndParts s (restoreEnd s) := by
  unfold restoreEnd
  extract_lets -merge +onlyGivenNames x0
  try clear_value x0
  extract_lets -merge +onlyGivenNames _ _ s1
  have h2 : Only restoreEndParts s s1 := by
    unfold s1
    with_reducible refine Only.set_boot_chime (by decide) ?_
    exact Only.refl _ _
  try clear_value s1
  with_reducible refine Only.step (chEval_only _) (by decide) ?_
  with_reducible refine Only.foldl ?_ ?_
  · intro u3 a4
    with_reducible refine Only.step (chResample_only _ _) (by decide) ?_
    exact Only.refl _ _
  · exact h2

theorem execChimeRestoreDone_only (s : State) : NextOnly restoreEndParts s (execChimeRestoreDone s) := by
  unfold execChimeRestoreDone
  with_reducible refine NextOnly.next ?_
  with_reducible refine Only.ite ?_ ?_
  · with_reducible refine Only.step (restoreEnd_only _) (by decide) ?_
    exact Only.refl _ _
  · exact Only.refl _ _

theorem stopPlain_only (s : State) (c : StopCause) : Only recoveryStopParts s (stopPlain s c) := by
  unfold stopPlain
  extract_lets -merge +onlyGivenNames x0
  with_reducible refine Only.step (recoveryStop_only _ _ _ _) (by decide) ?_
  with_reducible refine Only.step (State.drawWord_only _) (by decide) ?_
  exact Only.refl _ _

theorem stopUncoded_only (s : State) (cause : BitVec 3) (seq : BitVec 4) (port : BitVec 8) : Only recoveryStopParts s
    (stopUncoded s cause seq port) := by
  unfold stopUncoded
  extract_lets -merge +onlyGivenNames x0
  with_reducible refine Only.step (stopPlain_only _ _) (by decide) ?_
  with_reducible refine Only.step (State.drawWord_only _) (by decide) ?_
  exact Only.refl _ _

/-- What `failPort` may change. -/
def failPortParts : List Field := [.ports, .writes, .mem, .poison, .au, .run, .pool, .gens, .ctxs, .queues, .insts,
  .rgParts, .jobs, .cores, .tw, .links, .fr, .chime, .obs, .freeCount, .frCfg, .obsCfg, .auIdle]

theorem failPort_only (s : State) (p : Nat) : Only failPortParts s (failPort s p) := by
  unfold failPort
  extract_lets -merge +onlyGivenNames s0
  have h1 : Only failPortParts s s0 := by
    unfold s0
    with_reducible refine Only.step (State.modPort_only _ _ _) (by decide) ?_
    exact Only.refl _ _
  try clear_value s0
  with_reducible refine Only.ite ?_ ?_
  · with_reducible refine Only.step (stopUncoded_only _ _ _ _) (by decide) ?_
    exact h1
  · exact h1

theorem trainDone_only (s : State) (p : Nat) (level : Bool) (rd : BitVec 12) (wr : BitVec 12) : Only failPortParts s
    (trainDone s p level rd wr) := by
  unfold trainDone
  with_reducible refine Only.ite ?_ ?_
  · with_reducible refine Only.step (openPort_only _ _) (by decide) ?_
    with_reducible refine Only.step (State.modPort_only _ _ _) (by decide) ?_
    exact Only.refl _ _
  · extract_lets -merge +onlyGivenNames s0
    have h1 : Only failPortParts s s0 := by
      unfold s0
      with_reducible refine Only.step (State.modPort_only _ _ _) (by decide) ?_
      exact Only.refl _ _
    try clear_value s0
    with_reducible refine Only.ite ?_ ?_
    · with_reducible refine Only.step (failPort_only _ _) (by decide) ?_
      exact h1
    · exact h1

theorem execMpTrainDone_only (port : BitVec 6) (level : Bool) (rdCredits : BitVec 12) (wrCredits : BitVec 12) (s : State) :
    NextOnly failPortParts s (execMpTrainDone port level rdCredits wrCredits s) := by
  unfold execMpTrainDone
  with_reducible refine NextOnly.next ?_
  with_reducible refine Only.ite ?_ ?_
  · with_reducible refine Only.step (trainDone_only _ _ _ _ _) (by decide) ?_
    exact Only.refl _ _
  · exact Only.refl _ _

/-- What `pauseOverrun` may change. -/
def pauseOverrunParts : List Field := [.fr, .chime, .obs, .frCfg]

theorem pauseOverrun_only (s : State) : Only pauseOverrunParts s (pauseOverrun s) := by
  unfold pauseOverrun
  with_reducible refine Only.ite ?_ ?_
  · exact Only.refl _ _
  · with_reducible refine Only.step (chPulse_only _ _ _ _) (by decide) ?_
    with_reducible refine Only.set_fr (by decide) ?_
    exact Only.refl _ _

/-- What `pauseBegin` may change. -/
def pauseBeginParts : List Field := [.ports, .esc, .fr, .chime, .obs, .frCfg]

theorem pauseBegin_only (s : State) (p : Nat) : Only pauseBeginParts s (pauseBegin s p) := by
  unfold pauseBegin
  extract_lets -merge +onlyGivenNames x0
  try clear_value x0
  extract_lets -merge +onlyGivenNames s1
  have h2 : Only pauseBeginParts s s1 := by
    unfold s1
    with_reducible refine Only.step (State.modPort_only _ _ _) (by decide) ?_
    exact Only.refl _ _
  try clear_value s1
  with_reducible refine Only.ite ?_ ?_
  · extract_lets -merge +onlyGivenNames _ _ s3
    have h4 : Only pauseBeginParts s s3 := by
      unfold s3
      with_reducible refine Only.set_esc_fr (by decide) ?_
      exact h2
    try clear_value s3
    with_reducible refine Only.ite ?_ ?_
    · with_reducible refine Only.step (pauseOverrun_only _) (by decide) ?_
      exact h4
    · exact h4
  · exact h2

/-- What `pauseEnd` may change. -/
def pauseEndParts : List Field := [.ports, .fr, .chime, .obs, .frCfg]

theorem pauseEnd_only (s : State) (p : Nat) (ns : Nat) : Only pauseEndParts s (pauseEnd s p ns) := by
  unfold pauseEnd
  extract_lets -merge +onlyGivenNames s0
  have h1 : Only pauseEndParts s s0 := by
    unfold s0
    with_reducible refine Only.step (State.modPort_only _ _ _) (by decide) ?_
    exact Only.refl _ _
  try clear_value s0
  with_reducible refine Only.ite ?_ ?_
  · exact h1
  · extract_lets -merge +onlyGivenNames x2
    try clear_value x2
    extract_lets -merge +onlyGivenNames x3
    try clear_value x3
    extract_lets -merge +onlyGivenNames _ s4
    have h5 : Only pauseEndParts s s4 := by
      unfold s4
      with_reducible refine Only.set_fr (by decide) ?_
      exact h1
    try clear_value s4
    with_reducible refine Only.ite ?_ ?_
    · with_reducible refine Only.step (pauseOverrun_only _) (by decide) ?_
      exact h5
    · exact h5

theorem execMpPause_only (port : BitVec 6) (level : Bool) (ns : W32) (s : State) : NextOnly pauseBeginParts s (execMpPause
    port level ns s) := by
  unfold execMpPause
  extract_lets -merge +onlyGivenNames x0
  try clear_value x0
  with_reducible refine NextOnly.next ?_
  with_reducible refine Only.ite ?_ ?_
  · with_reducible refine Only.ite ?_ ?_
    · with_reducible refine Only.step (pauseBegin_only _ _) (by decide) ?_
      exact Only.refl _ _
    · with_reducible refine Only.step (pauseEnd_only _ _ _) (by decide) ?_
      exact Only.refl _ _
  · exact Only.refl _ _

theorem throttleEnd_only (s : State) (tag : Nat) : Only setCoreParts s (throttleEnd s tag) := by
  unfold throttleEnd
  with_reducible refine Only.ite ?_ ?_
  · with_reducible refine Only.step (grantLines_only _ _) (by decide) ?_
    exact Only.refl _ _
  · exact Only.refl _ _

/-- What `execMpThrottle` may change. -/
def execMpThrottleParts : List Field := [.ports, .ctxs, .queues, .rgParts, .jobs, .cores, .fr, .frCfg]

theorem execMpThrottle_only (port : BitVec 6) (tag : BitVec 16) (asserted : Bool) (ns : W32) (s : State) : NextOnly
    execMpThrottleParts s (execMpThrottle port tag asserted ns s) := by
  unfold execMpThrottle
  extract_lets -merge +onlyGivenNames x0
  try clear_value x0
  extract_lets -merge +onlyGivenNames x1
  try clear_value x1
  with_reducible refine NextOnly.next ?_
  with_reducible refine Only.ite ?_ ?_
  · exact Only.refl _ _
  · with_reducible refine Only.ite ?_ ?_
    · with_reducible refine Only.ite ?_ ?_
      · exact Only.refl _ _
      · with_reducible refine Only.step (State.setPort_only _ _ _) (by decide) ?_
        exact Only.refl _ _
    · with_reducible refine Only.ite ?_ ?_
      · with_reducible refine Only.step (throttleEnd_only _ _) (by decide) ?_
        with_reducible refine Only.step (chargeTag_only _ _ _) (by decide) ?_
        with_reducible refine Only.step (State.setPort_only _ _ _) (by decide) ?_
        exact Only.refl _ _
      · exact Only.refl _ _

/-- What `portCount` may change. -/
def portCountParts : List Field := [.ports, .chime, .obs]

theorem portCount_only (s : State) (p : Nat) (bad : Bool) (late : Bool) : Only portCountParts s (portCount s p bad late) :=
    by
  unfold portCount
  extract_lets -merge +onlyGivenNames s0
  have h1 : Only portCountParts s s0 := by
    unfold s0
    with_reducible refine Only.ite ?_ ?_
    · with_reducible refine Only.step (State.modPort_only _ _ _) (by decide) ?_
      exact Only.refl _ _
    · exact Only.refl _ _
  try clear_value s0
  with_reducible refine Only.ite ?_ ?_
  · extract_lets -merge +onlyGivenNames s2
    have h3 : Only portCountParts s s2 := by
      unfold s2
      with_reducible refine Only.step (pmGlobal_only _ _ _) (by decide) ?_
      with_reducible refine Only.step (State.modPort_only _ _ _) (by decide) ?_
      exact h1
    try clear_value s2
    with_reducible refine Only.ite ?_ ?_
    · exact h3
    · with_reducible refine Only.step (chPulse_only _ _ _ _) (by decide) ?_
      with_reducible refine Only.step (State.modPort_only _ _ _) (by decide) ?_
      exact h3
  · exact h1

/-- What `execData` may change. -/
def execDataParts : List Field := [.boot, .ports, .writes, .mem, .poison, .au, .run, .pool, .gens, .ctxs, .queues,
  .insts, .rgParts, .jobs, .cores, .tw, .links, .fr, .chime, .obs, .freeCount, .frCfg, .obsCfg, .auIdle]

theorem execData_only (port : BitVec 6) (poison : Bool) (late : Bool) (reader : Reader) (s : State) : NextOnly
    execDataParts s (execData port poison late reader s) := by
  unfold execData
  with_reducible refine NextOnly.ite ?_ ?_
  · split
    · with_reducible refine NextOnly.next ?_
      exact Only.refl _ _
    · extract_lets -merge +onlyGivenNames x0
      try clear_value x0
      with_reducible refine NextOnly.ite ?_ ?_
      · exact NextOnly.fault _
      · with_reducible refine NextOnly.next ?_
        with_reducible refine Only.step (dataAct_only _ _ _ _) (by decide) ?_
        with_reducible refine Only.step (portCount_only _ _ _ _) (by decide) ?_
        exact Only.refl _ _
  · with_reducible refine NextOnly.next ?_
    exact Only.refl _ _

theorem lateCount_only (s : State) (p : Nat) (late : Bool) : Only portCountParts s (lateCount s p late) := by
  unfold lateCount
  with_reducible refine Only.ite ?_ ?_
  · with_reducible refine Only.step (portCount_only _ _ _ _) (by decide) ?_
    exact Only.refl _ _
  · exact Only.refl _ _

/-- What `execWack` may change. -/
def execWackParts : List Field := [.ports, .writes, .mem, .poison, .au, .run, .pool, .gens, .objs, .ctxs, .queues,
  .insts, .rgParts, .jobs, .cores, .counters, .sy, .fr, .chime, .obs, .freeCount, .obsCfg]

theorem execWack_only (a : PortLate) (s : State) : NextOnly execWackParts s (execWack a s) := by
  unfold execWack
  extract_lets -merge +onlyGivenNames s0
  have h1 : Only execWackParts s s0 := by
    unfold s0
    with_reducible refine Only.step (lateCount_only _ _ _) (by decide) ?_
    with_reducible refine Only.set_writes (by decide) ?_
    exact Only.refl _ _
  try clear_value s0
  with_reducible refine NextOnly.next ?_
  with_reducible refine Only.ite ?_ ?_
  · with_reducible refine Only.ite ?_ ?_
    · exact h1
    · with_reducible refine Only.step (disablesAdvance_only _) (by decide) ?_
      exact h1
  · exact Only.refl _ _

theorem execAdata_only (a : PortLate) (old : W64) (s : State) : NextOnly portCountParts s (execAdata a old s) := by
  unfold execAdata
  with_reducible refine NextOnly.next ?_
  with_reducible refine Only.ite ?_ ?_
  · with_reducible refine Only.step (State.modPort_only _ _ _) (by decide) ?_
    with_reducible refine Only.step (lateCount_only _ _ _) (by decide) ?_
    exact Only.refl _ _
  · exact Only.refl _ _

theorem execPortFailed_only (port : BitVec 6) (s : State) : NextOnly failPortParts s (execPortFailed port s) := by
  unfold execPortFailed
  with_reducible refine NextOnly.next ?_
  with_reducible refine Only.ite ?_ ?_
  · with_reducible refine Only.step (failPort_only _ _) (by decide) ?_
    exact Only.refl _ _
  · exact Only.refl _ _

/-- What `execSetOp` may change. -/
def execSetOpParts : List Field := [.boot, .writes, .mem, .poison, .au, .run, .pool, .kp, .gens, .ctxs, .queues,
  .insts, .rgParts, .jobs, .cores, .counters, .flights, .sy, .tw, .links, .fr, .chime, .obs, .freeCount]

theorem execSetOp_only (who : Who) (value : W32) (s : State) : NextOnly execSetOpParts s (execSetOp who value s) := by
  unfold execSetOp
  with_reducible refine NextOnly.next ?_
  with_reducible refine hostWrite_only (by decide) ?_ ?_
  · intro u0 
    with_reducible refine Only.step (counterSet_only _ _) (by decide) ?_
    exact Only.refl _ _
  · exact Only.refl _ _

/-- What `execReclaim` may change. -/
def execReclaimParts : List Field := [.boot, .kp, .counters, .sy, .chime, .obs]

theorem execReclaim_only (who : Who) (s : State) : NextOnly execReclaimParts s (execReclaim who s) := by
  unfold execReclaim
  with_reducible refine NextOnly.next ?_
  with_reducible refine hostWrite_only (by decide) ?_ ?_
  · intro u0 
    with_reducible refine Only.step (counterReclaim_only _) (by decide) ?_
    exact Only.refl _ _
  · exact Only.refl _ _

/-- What `execFlightCreate` may change. -/
def execFlightCreateParts : List Field := [.boot, .kp, .counters, .flights, .chime, .obs]

theorem execFlightCreate_only (who : Who) (s : State) : NextOnly execFlightCreateParts s (execFlightCreate who s) := by
  unfold execFlightCreate
  with_reducible refine NextOnly.next ?_
  with_reducible refine hostWrite_only (by decide) ?_ ?_
  · intro u0 
    with_reducible refine Only.step (flightCreate_only _ _) (by decide) ?_
    exact Only.refl _ _
  · exact Only.refl _ _

/-- What `execFlightReset` may change. -/
def execFlightResetParts : List Field := [.boot, .kp, .jobs, .cores, .counters, .flights, .chime, .obs]

theorem execFlightReset_only (who : Who) (s : State) : NextOnly execFlightResetParts s (execFlightReset who s) := by
  unfold execFlightReset
  with_reducible refine NextOnly.next ?_
  with_reducible refine hostWrite_only (by decide) ?_ ?_
  · intro u0 
    with_reducible refine Only.step (flightReset_only _ _) (by decide) ?_
    exact Only.refl _ _
  · exact Only.refl _ _

/-- What `execFlightBreak` may change. -/
def execFlightBreakParts : List Field := [.boot, .writes, .mem, .poison, .au, .run, .pool, .kp, .gens, .ctxs, .queues,
  .insts, .rgParts, .jobs, .cores, .flights, .tw, .links, .fr, .chime, .obs, .freeCount]

theorem execFlightBreak_only (who : Who) (s : State) : NextOnly execFlightBreakParts s (execFlightBreak who s) := by
  unfold execFlightBreak
  with_reducible refine NextOnly.next ?_
  with_reducible refine hostWrite_only (by decide) ?_ ?_
  · intro u0 
    with_reducible refine Only.step (flightStop_only _ _) (by decide) ?_
    exact Only.refl _ _
  · exact Only.refl _ _

/-- What `execFlightDestroy` may change. -/
def execFlightDestroyParts : List Field := [.boot, .writes, .mem, .poison, .au, .run, .pool, .kp, .gens, .ctxs,
  .queues, .insts, .rgParts, .jobs, .cores, .counters, .flights, .tw, .links, .fr, .chime, .obs, .freeCount]

theorem execFlightDestroy_only (who : Who) (s : State) : NextOnly execFlightDestroyParts s (execFlightDestroy who s) := by
  unfold execFlightDestroy
  with_reducible refine NextOnly.next ?_
  with_reducible refine hostWrite_only (by decide) ?_ ?_
  · intro u0 
    with_reducible refine Only.step (flightDestroy_only _ _) (by decide) ?_
    exact Only.refl _ _
  · exact Only.refl _ _

theorem execFlightWatchdog_only (flight : BitVec 10) (s : State) : NextOnly flightStopParts s (execFlightWatchdog flight s)
    := by
  unfold execFlightWatchdog
  with_reducible refine NextOnly.next ?_
  with_reducible refine Only.ite ?_ ?_
  · with_reducible refine Only.step (afterBreak_only _) (by decide) ?_
    with_reducible refine Only.step (flightBreak_only _ _ _ _ _) (by decide) ?_
    exact Only.refl _ _
  · exact Only.refl _ _

theorem linkDrop_only (s : State) (n : Nat) : Only setLinkParts s (linkDrop s n) := by
  unfold linkDrop
  with_reducible refine Only.step (State.modLink_only _ _ _) (by decide) ?_
  exact Only.refl _ _

theorem rxSequenced_only (s : State) (h : FrameHdr) (frames : Nat) : RxOnly linkSendParts s (rxSequenced s h frames) := by
  unfold rxSequenced
  extract_lets -merge +onlyGivenNames x0
  try clear_value x0
  with_reducible refine RxOnly.ite ?_ ?_
  · with_reducible refine RxOnly.gone ?_
    exact Only.refl _ _
  · with_reducible refine RxOnly.ite ?_ ?_
    · with_reducible refine RxOnly.gone ?_
      with_reducible refine Only.step (badCrc_only _ _ _) (by decide) ?_
      exact Only.refl _ _
    · with_reducible refine RxOnly.ite ?_ ?_
      · with_reducible refine RxOnly.gone ?_
        with_reducible refine Only.step (linkDrop_only _ _) (by decide) ?_
        exact Only.refl _ _
      · extract_lets -merge +onlyGivenNames s1
        have h2 : Only linkSendParts s s1 := by
          unfold s1
          with_reducible refine Only.step (State.modLink_only _ _ _) (by decide) ?_
          exact Only.refl _ _
        try clear_value s1
        with_reducible refine RxOnly.ite ?_ ?_
        · with_reducible refine RxOnly.taken ?_
          with_reducible refine Only.step (State.modLink_only _ _ _) (by decide) ?_
          exact h2
        · with_reducible refine RxOnly.gone ?_
          with_reducible refine Only.step (linkSend_only _ _ _) (by decide) ?_
          with_reducible refine Only.step (linkDrop_only _ _) (by decide) ?_
          exact h2

/-- What `rxAuth` may change. -/
def rxAuthParts : List Field := [.au, .run, .insts, .jobs, .cores, .sec, .tw, .links, .chime, .obs, .freeCount, .auIdle]

theorem rxAuth_only (s : State) (h : FrameHdr) (open' : Bool) : RxOnly rxAuthParts s (rxAuth s h open') := by
  unfold rxAuth
  with_reducible refine RxOnly.ite ?_ ?_
  · with_reducible refine RxOnly.ite ?_ ?_
    · with_reducible refine RxOnly.gone ?_
      with_reducible refine Only.step (linkDrop_only _ _) (by decide) ?_
      exact Only.refl _ _
    · with_reducible refine RxOnly.taken ?_
      exact Only.refl _ _
  · with_reducible refine RxOnly.ite ?_ ?_
    · with_reducible refine RxOnly.ite ?_ ?_
      · with_reducible refine RxOnly.taken ?_
        with_reducible refine Only.set_tw (by decide) ?_
        exact Only.refl _ _
      · with_reducible refine RxOnly.gone ?_
        with_reducible refine Only.step (tamperRaise_only _ _) (by decide) ?_
        with_reducible refine Only.step (linkDrop_only _ _) (by decide) ?_
        exact Only.refl _ _
    · with_reducible refine RxOnly.ite ?_ ?_
      · with_reducible refine RxOnly.taken ?_
        exact Only.refl _ _
      · with_reducible refine RxOnly.gone ?_
        with_reducible refine Only.step (linkDrop_only _ _) (by decide) ?_
        exact Only.refl _ _

theorem rxFlight_only (s : State) (h : FrameHdr) : RxOnly rxAuthParts s (rxFlight s h) := by
  unfold rxFlight
  split
  · with_reducible refine RxOnly.gone ?_
    with_reducible refine Only.step (RxOnly.of_gone (rxSequenced_only _ _ _) (by assumption)) (by decide) ?_
    exact Only.refl _ _
  · with_reducible refine RxOnly.step (rxAuth_only _ _ _) (by decide) ?_
    with_reducible refine Only.step (RxOnly.of_taken (rxSequenced_only _ _ _) (by assumption)) (by decide) ?_
    exact Only.refl _ _

/-- What `flightMessage` may change. -/
def flightMessageParts : List Field := [.writes, .mem, .poison, .au, .run, .pool, .gens, .ctxs, .queues, .insts,
  .rgParts, .jobs, .cores, .sec, .tw, .links, .fr, .chime, .obs, .freeCount, .auIdle]

theorem flightMessage_only {l : List Field} {b s : State} {x : FrameHdr} {act : State → State}
    (hl : ((rxAuthParts ++ afterBreakParts).all fun f => decide (f ∈ l)) = true) (hf : ∀ u, Only l u (act u))
    (h : Only l b s) : Only l b (flightMessage s x act) := by
  rw [List.all_append, Bool.and_eq_true] at hl
  unfold flightMessage
  split
  · exact Only.step (RxOnly.of_gone (rxFlight_only _ _) (by assumption)) hl.1 h
  · have h1 := Only.step (RxOnly.of_taken (rxFlight_only _ _) (by assumption)) hl.1 h
    refine Only.ite h1 ?_
    exact Only.step (afterBreak_only _) hl.2 (h1.trans (hf _))

theorem flightArrive_only (s : State) (l : Nat) (n : Nat) (round : W32) : Only completeRoundParts s (flightArrive s l n
    round) := by
  unfold flightArrive
  extract_lets -merge +onlyGivenNames x0
  try clear_value x0
  split
  · with_reducible refine Only.step (linkSend_only _ _ _) (by decide) ?_
    exact Only.refl _ _
  · exact Only.refl _ _
  · with_reducible refine Only.ite ?_ ?_
    · with_reducible refine Only.step (flightBreak_only _ _ _ _ _) (by decide) ?_
      exact Only.refl _ _
    · with_reducible refine Only.ite ?_ ?_
      · with_reducible refine Only.step (flightArrived_only _ _) (by decide) ?_
        with_reducible refine Only.step (State.setFlight_only _ _ _) (by decide) ?_
        exact Only.refl _ _
      · exact Only.refl _ _

/-- What `execArrive` may change. -/
def execArriveParts : List Field := [.writes, .mem, .poison, .au, .run, .pool, .gens, .ctxs, .queues, .insts, .rgParts,
  .jobs, .cores, .counters, .flights, .sy, .sec, .tw, .links, .fr, .chime, .obs, .freeCount, .auIdle]

theorem execArrive_only (h : FrameHdr) (flight : BitVec 10) (round : W32) (s : State) : NextOnly execArriveParts s
    (execArrive h flight round s) := by
  unfold execArrive
  with_reducible refine NextOnly.next ?_
  with_reducible refine flightMessage_only (by decide) ?_ ?_
  · intro u0 
    with_reducible refine Only.step (flightArrive_only _ _ _ _) (by decide) ?_
    exact Only.refl _ _
  · exact Only.refl _ _

theorem flightRelease_only (s : State) (l : Nat) (n : Nat) (round : W32) : Only completeRoundParts s (flightRelease s l n
    round) := by
  unfold flightRelease
  extract_lets -merge +onlyGivenNames x0
  try clear_value x0
  split
  · with_reducible refine Only.step (linkSend_only _ _ _) (by decide) ?_
    exact Only.refl _ _
  · exact Only.refl _ _
  · with_reducible refine Only.ite ?_ ?_
    · with_reducible refine Only.step (flightBreak_only _ _ _ _ _) (by decide) ?_
      exact Only.refl _ _
    · with_reducible refine Only.ite ?_ ?_
      · with_reducible refine Only.step (flightEval_only _ _ _) (by decide) ?_
        with_reducible refine Only.step (completeRound_only _ _) (by decide) ?_
        exact Only.refl _ _
      · exact Only.refl _ _

theorem execReleaseMessage_only (h : FrameHdr) (flight : BitVec 10) (round : W32) (s : State) : NextOnly execArriveParts s
    (execReleaseMessage h flight round s) := by
  unfold execReleaseMessage
  with_reducible refine NextOnly.next ?_
  with_reducible refine flightMessage_only (by decide) ?_ ?_
  · intro u0 
    with_reducible refine Only.step (flightRelease_only _ _ _ _) (by decide) ?_
    exact Only.refl _ _
  · exact Only.refl _ _

theorem flightBroken_only (s : State) (l : Nat) (n : Nat) (round : W32) : Only flightBreakParts s (flightBroken s l n
    round) := by
  unfold flightBroken
  split
  · with_reducible refine Only.step (linkSend_only _ _ _) (by decide) ?_
    exact Only.refl _ _
  · exact Only.refl _ _
  · with_reducible refine Only.step (flightBreak_only _ _ _ _ _) (by decide) ?_
    exact Only.refl _ _

/-- What `execBreakMsg` may change. -/
def execBreakMsgParts : List Field := [.writes, .mem, .poison, .au, .run, .pool, .gens, .ctxs, .queues, .insts,
  .rgParts, .jobs, .cores, .flights, .sec, .tw, .links, .fr, .chime, .obs, .freeCount, .auIdle]

theorem execBreakMsg_only (h : FrameHdr) (flight : BitVec 10) (round : W32) (s : State) : NextOnly execBreakMsgParts s
    (execBreakMsg h flight round s) := by
  unfold execBreakMsg
  with_reducible refine NextOnly.next ?_
  with_reducible refine flightMessage_only (by decide) ?_ ?_
  · intro u0 
    with_reducible refine Only.step (flightBroken_only _ _ _ _) (by decide) ?_
    exact Only.refl _ _
  · exact Only.refl _ _

/-- What `otpWrite` may change. -/
def otpWriteParts : List Field := [.boot, .au, .run, .kp, .insts, .jobs, .cores, .sec, .chime, .obs, .freeCount,
  .auIdle]

theorem otpWrite_only (s : State) (who : Who) (op : Nat) (slot : Nat) : NextOnly otpWriteParts s (otpWrite s who op slot)
    := by
  unfold otpWrite
  split
  · with_reducible refine NextOnly.next ?_
    with_reducible refine Only.step (AccessOnly.of_ignored (hostCheck_only _ _ _ _ _) (by assumption)) (by decide) ?_
    exact Only.refl _ _
  · with_reducible refine NextOnly.ite ?_ ?_
    · exact NextOnly.fault _
    · with_reducible refine NextOnly.next ?_
      with_reducible refine Only.step (otpCommand_only _ _ _) (by decide) ?_
      exact Only.refl _ _

theorem execProgramFirst_only (who : Who) (s : State) : NextOnly otpWriteParts s (execProgramFirst who s) := by
  unfold execProgramFirst
  with_reducible refine NextOnly.step (otpWrite_only _ _ _ _) (by decide) ?_
  exact Only.refl _ _

theorem execRotate_only (who : Who) (v : Unit) (s : State) : NextOnly otpWriteParts s (execRotate who v s) := by
  unfold execRotate
  with_reducible refine NextOnly.step (otpWrite_only _ _ _ _) (by decide) ?_
  exact Only.refl _ _

theorem execRevoke_only (who : Who) (slot : BitVec 2) (s : State) : NextOnly otpWriteParts s (execRevoke who slot s) := by
  unfold execRevoke
  with_reducible refine NextOnly.step (otpWrite_only _ _ _ _) (by decide) ?_
  exact Only.refl _ _

/-- What `unlockWrite` may change. -/
def unlockWriteParts : List Field := [.boot, .au, .run, .kp, .insts, .jobs, .cores, .sec, .chime, .obs, .freeCount,
  .obsCfg, .auIdle]

theorem unlockWrite_only (s : State) (who : Who) : NextOnly unlockWriteParts s (unlockWrite s who) := by
  unfold unlockWrite
  split
  · with_reducible refine NextOnly.next ?_
    with_reducible refine Only.step (AccessOnly.of_ignored (hostCheck_only _ _ _ _ _) (by assumption)) (by decide) ?_
    exact Only.refl _ _
  · with_reducible refine NextOnly.ite ?_ ?_
    · exact NextOnly.fault _
    · with_reducible refine NextOnly.next ?_
      with_reducible refine Only.step (unlockAt_only _) (by decide) ?_
      exact Only.refl _ _

theorem execUnlock_only (who : Who) (v : Unit) (s : State) : NextOnly unlockWriteParts s (execUnlock who v s) := by
  unfold execUnlock
  with_reducible refine NextOnly.step (unlockWrite_only _ _) (by decide) ?_
  exact Only.refl _ _

theorem unlockEnd_only (s : State) : Only eraseSettleParts s (unlockEnd s) := by
  unfold unlockEnd
  with_reducible refine Only.ite ?_ ?_
  · with_reducible refine Only.set_sec (by decide) ?_
    exact Only.refl _ _
  · exact Only.refl _ _

theorem execUnlockComplete_only (s : State) : NextOnly eraseSettleParts s (execUnlockComplete s) := by
  unfold execUnlockComplete
  with_reducible refine NextOnly.next ?_
  with_reducible refine Only.ite ?_ ?_
  · with_reducible refine Only.step (unlockEnd_only _) (by decide) ?_
    exact Only.refl _ _
  · exact Only.refl _ _

theorem execGlitch_only (source : BitVec 5) (s : State) : NextOnly tamperActParts s (execGlitch source s) := by
  unfold execGlitch
  with_reducible refine NextOnly.next ?_
  with_reducible refine Only.ite ?_ ?_
  · with_reducible refine Only.step (tamperRaise_only _ _) (by decide) ?_
    exact Only.refl _ _
  · exact Only.refl _ _

/-- What `execPair` may change. -/
def execPairParts : List Field := [.boot, .kp, .tw, .links, .chime, .obs]

theorem execPair_only (who : Who) (s : State) : NextOnly execPairParts s (execPair who s) := by
  unfold execPair
  with_reducible refine NextOnly.next ?_
  with_reducible refine hostWrite_only (by decide) ?_ ?_
  · intro u0 
    with_reducible refine Only.step (setTwCtl_only _ _) (by decide) ?_
    exact Only.refl _ _
  · exact Only.refl _ _

/-- What `execHandover` may change. -/
def execHandoverParts : List Field := [.boot, .kp, .tw, .chime, .obs]

theorem execHandover_only (who : Who) (s : State) : NextOnly execHandoverParts s (execHandover who s) := by
  unfold execHandover
  with_reducible refine NextOnly.next ?_
  with_reducible refine hostWrite_only (by decide) ?_ ?_
  · intro u0 
    with_reducible refine Only.step (twHandoverReq_only _) (by decide) ?_
    exact Only.refl _ _
  · exact Only.refl _ _

theorem execClaim_only (who : Who) (s : State) : NextOnly execHandoverParts s (execClaim who s) := by
  unfold execClaim
  with_reducible refine NextOnly.next ?_
  with_reducible refine hostWrite_only (by decide) ?_ ?_
  · intro u0 
    with_reducible refine Only.step (twClaim_only _) (by decide) ?_
    exact Only.refl _ _
  · exact Only.refl _ _

theorem execUnpair_only (who : Who) (s : State) : NextOnly execHandoverParts s (execUnpair who s) := by
  unfold execUnpair
  with_reducible refine NextOnly.next ?_
  with_reducible refine hostWrite_only (by decide) ?_ ?_
  · intro u0 
    with_reducible refine Only.step (twUnpairCmd_only _) (by decide) ?_
    exact Only.refl _ _
  · exact Only.refl _ _

theorem rxTwin_only (s : State) (h : FrameHdr) (frames : Nat) : RxOnly linkSendParts s (rxTwin s h frames) := by
  unfold rxTwin
  split
  · with_reducible refine RxOnly.gone ?_
    with_reducible refine Only.step (RxOnly.of_gone (rxSequenced_only _ _ _) (by assumption)) (by decide) ?_
    exact Only.refl _ _
  · with_reducible refine RxOnly.ite ?_ ?_
    · with_reducible refine RxOnly.taken ?_
      with_reducible refine Only.step (RxOnly.of_taken (rxSequenced_only _ _ _) (by assumption)) (by decide) ?_
      exact Only.refl _ _
    · with_reducible refine RxOnly.gone ?_
      with_reducible refine Only.step (linkDrop_only _ _) (by decide) ?_
      with_reducible refine Only.step (RxOnly.of_taken (rxSequenced_only _ _ _) (by assumption)) (by decide) ?_
      exact Only.refl _ _

theorem execHello_only (h : FrameHdr) (digest : Digest) (s : State) : NextOnly linkSendParts s (execHello h digest s) := by
  unfold execHello
  split
  · with_reducible refine NextOnly.next ?_
    with_reducible refine Only.step (RxOnly.of_gone (rxTwin_only _ _ _) (by assumption)) (by decide) ?_
    exact Only.refl _ _
  · with_reducible refine NextOnly.ite ?_ ?_
    · extract_lets -merge +onlyGivenNames _ s0
      have h1 : Only linkSendParts s s0 := by
        unfold s0
        with_reducible refine Only.set_tw (by decide) ?_
        with_reducible refine Only.step (RxOnly.of_taken (rxTwin_only _ _ _) (by assumption)) (by decide) ?_
        exact Only.refl _ _
      try clear_value s0
      with_reducible refine NextOnly.next ?_
      with_reducible refine Only.ite ?_ ?_
      · with_reducible refine Only.step (linkSend_only _ _ _) (by decide) ?_
        exact h1
      · exact h1
    · with_reducible refine NextOnly.next ?_
      with_reducible refine Only.step (RxOnly.of_taken (rxTwin_only _ _ _) (by assumption)) (by decide) ?_
      exact Only.refl _ _

/-- What `twProved` may change. -/
def twProvedParts : List Field := [.au, .run, .insts, .jobs, .cores, .sec, .tw, .chime, .obs, .freeCount, .auIdle]

theorem twProved_only (s : State) (keysDigest : Digest) (sigsOk : Bool) (latencyNs : BitVec 16) : Only twProvedParts s
    (twProved s keysDigest sigsOk latencyNs) := by
  unfold twProved
  with_reducible refine Only.ite ?_ ?_
  · with_reducible refine Only.ite ?_ ?_
    · with_reducible refine Only.set_tw (by decide) ?_
      exact Only.refl _ _
    · with_reducible refine Only.step (tamperRaise_only _ _) (by decide) ?_
      with_reducible refine Only.step (twUnpair_only _) (by decide) ?_
      exact Only.refl _ _
  · exact Only.refl _ _

theorem execProof_only (h : FrameHdr) (keysDigest : Digest) (sigsOk : Bool) (latencyNs : BitVec 16) (s : State) : NextOnly
    rxAuthParts s (execProof h keysDigest sigsOk latencyNs s) := by
  unfold execProof
  split
  · with_reducible refine NextOnly.next ?_
    with_reducible refine Only.step (RxOnly.of_gone (rxTwin_only _ _ _) (by assumption)) (by decide) ?_
    exact Only.refl _ _
  · with_reducible refine NextOnly.next ?_
    with_reducible refine Only.ite ?_ ?_
    · with_reducible refine Only.step (twProved_only _ _ _ _) (by decide) ?_
      with_reducible refine Only.step (RxOnly.of_taken (rxTwin_only _ _ _) (by assumption)) (by decide) ?_
      exact Only.refl _ _
    · with_reducible refine Only.step (RxOnly.of_taken (rxTwin_only _ _ _) (by assumption)) (by decide) ?_
      exact Only.refl _ _

theorem twMissed_only (s : State) : Only countAuthParts s (twMissed s) := by
  unfold twMissed
  with_reducible refine Only.set_tw (by decide) ?_
  exact Only.refl _ _

theorem twPhase_only (s : State) (c : Heartbeat) : Only countAuthParts s (twPhase s c) := by
  unfold twPhase
  extract_lets -merge +onlyGivenNames x0
  try clear_value x0
  with_reducible refine Only.ite ?_ ?_
  · with_reducible refine Only.ite ?_ ?_
    · with_reducible refine Only.set_tw (by decide) ?_
      exact Only.refl _ _
    · exact Only.refl _ _
  · with_reducible refine Only.set_tw (by decide) ?_
    exact Only.refl _ _

/-- What `twResolve` may change. -/
def twResolveParts : List Field := [.tw, .links, .chime, .obs]

theorem twResolve_only (s : State) : Only twResolveParts s (twResolve s) := by
  unfold twResolve
  extract_lets -merge +onlyGivenNames x0
  try clear_value x0
  with_reducible refine Only.ite ?_ ?_
  · exact Only.refl _ _
  · split
    · with_reducible refine Only.ite ?_ ?_
      · with_reducible refine Only.step (twSecondary_only _ _) (by decide) ?_
        exact Only.refl _ _
      · with_reducible refine Only.ite ?_ ?_
        · with_reducible refine Only.set_tw (by decide) ?_
          exact Only.refl _ _
        · with_reducible refine Only.step (twSecondary_only _ _) (by decide) ?_
          exact Only.refl _ _
    · with_reducible refine Only.ite ?_ ?_
      · with_reducible refine Only.step (twSecondary_only _ _) (by decide) ?_
        exact Only.refl _ _
      · with_reducible refine Only.ite ?_ ?_
        · with_reducible refine Only.ite ?_ ?_
          · with_reducible refine Only.set_tw (by decide) ?_
            exact Only.refl _ _
          · with_reducible refine Only.step (twSecondary_only _ _) (by decide) ?_
            exact Only.refl _ _
        · exact Only.refl _ _
    · with_reducible refine Only.ite ?_ ?_
      · with_reducible refine Only.step (twYield_only _ _) (by decide) ?_
        exact Only.refl _ _
      · exact Only.refl _ _
    · with_reducible refine Only.ite ?_ ?_
      · with_reducible refine Only.step (twSecondary_only _ _) (by decide) ?_
        with_reducible refine Only.step (twCode_only _ _) (by decide) ?_
        exact Only.refl _ _
      · exact Only.refl _ _
    · exact Only.refl _ _

theorem twHeartbeat_only (s : State) (c : Heartbeat) : Only twResolveParts s (twHeartbeat s c) := by
  unfold twHeartbeat
  extract_lets -merge +onlyGivenNames _ s0
  have h1 : Only twResolveParts s s0 := by
    unfold s0
    with_reducible refine Only.set_tw (by decide) ?_
    exact Only.refl _ _
  try clear_value s0
  extract_lets -merge +onlyGivenNames s2
  have h3 : Only twResolveParts s s2 := by
    unfold s2
    with_reducible refine Only.step (twPhase_only _ _) (by decide) ?_
    exact h1
  try clear_value s2
  with_reducible refine Only.step (twResolve_only _) (by decide) ?_
  with_reducible refine Only.set_tw (by decide) ?_
  exact h3

theorem execHeartbeat_only (h : FrameHdr) (c : Heartbeat) (s : State) : NextOnly rxAuthParts s (execHeartbeat h c s) := by
  unfold execHeartbeat
  split
  · with_reducible refine NextOnly.next ?_
    with_reducible refine Only.step (RxOnly.of_gone (rxTwin_only _ _ _) (by assumption)) (by decide) ?_
    exact Only.refl _ _
  · split
    · with_reducible refine NextOnly.next ?_
      with_reducible refine Only.step (twMissed_only _) (by decide) ?_
      with_reducible refine Only.step (RxOnly.of_gone (rxAuth_only _ _ _) (by assumption)) (by decide) ?_
      with_reducible refine Only.step (RxOnly.of_taken (rxTwin_only _ _ _) (by assumption)) (by decide) ?_
      exact Only.refl _ _
    · with_reducible refine NextOnly.next ?_
      with_reducible refine Only.ite ?_ ?_
      · with_reducible refine Only.step (twHeartbeat_only _ _) (by decide) ?_
        with_reducible refine Only.step (RxOnly.of_taken (rxAuth_only _ _ _) (by assumption)) (by decide) ?_
        with_reducible refine Only.step (RxOnly.of_taken (rxTwin_only _ _ _) (by assumption)) (by decide) ?_
        exact Only.refl _ _
      · with_reducible refine Only.step (RxOnly.of_taken (rxAuth_only _ _ _) (by assumption)) (by decide) ?_
        with_reducible refine Only.step (RxOnly.of_taken (rxTwin_only _ _ _) (by assumption)) (by decide) ?_
        exact Only.refl _ _

theorem execHeartbeatSend_only (s : State) : NextOnly linkSendParts s (execHeartbeatSend s) := by
  unfold execHeartbeatSend
  with_reducible refine NextOnly.next ?_
  with_reducible refine Only.ite ?_ ?_
  · with_reducible refine Only.step (linkSend_only _ _ _) (by decide) ?_
    exact Only.refl _ _
  · exact Only.refl _ _

theorem execHeartbeatLost_only (s : State) : NextOnly twReleaseParts s (execHeartbeatLost s) := by
  unfold execHeartbeatLost
  with_reducible refine NextOnly.next ?_
  with_reducible refine Only.ite ?_ ?_
  · with_reducible refine Only.step (twLost_only _) (by decide) ?_
    exact Only.refl _ _
  · exact Only.refl _ _

theorem rxSession_only (s : State) (h : FrameHdr) : RxOnly rxAuthParts s (rxSession s h) := by
  unfold rxSession
  split
  · with_reducible refine RxOnly.gone ?_
    with_reducible refine Only.step (RxOnly.of_gone (rxTwin_only _ _ _) (by assumption)) (by decide) ?_
    exact Only.refl _ _
  · with_reducible refine RxOnly.step (rxAuth_only _ _ _) (by decide) ?_
    with_reducible refine Only.step (RxOnly.of_taken (rxTwin_only _ _ _) (by assumption)) (by decide) ?_
    exact Only.refl _ _

theorem twRefuseYield_only (s : State) : Only twReleaseParts s (twRefuseYield s) := by
  unfold twRefuseYield
  split
  · with_reducible refine Only.step (twHeld_only _ _) (by decide) ?_
    with_reducible refine Only.set_tw (by decide) ?_
    exact Only.refl _ _
  · with_reducible refine Only.step (twHeld_only _ _) (by decide) ?_
    with_reducible refine Only.set_tw (by decide) ?_
    exact Only.refl _ _
  · exact Only.refl _ _

theorem twReported_only (s : State) (lastRel : BitVec 48) : Only countAuthParts s (twReported s lastRel) := by
  unfold twReported
  extract_lets -merge +onlyGivenNames x0
  try clear_value x0
  with_reducible refine Only.set_tw (by decide) ?_
  exact Only.refl _ _

theorem twYielded_only (s : State) (kind : BitVec 8) (lastRel : BitVec 48) : Only twReleaseParts s (twYielded s kind
    lastRel) := by
  unfold twYielded
  extract_lets -merge +onlyGivenNames x0
  try clear_value x0
  split
  · with_reducible refine Only.ite ?_ ?_
    · with_reducible refine Only.ite ?_ ?_
      · with_reducible refine Only.step (acceptYield_only _ _ _) (by decide) ?_
        exact Only.refl _ _
      · exact Only.refl _ _
    · with_reducible refine Only.ite ?_ ?_
      · with_reducible refine Only.step (acceptYield_only _ _ _) (by decide) ?_
        exact Only.refl _ _
      · exact Only.refl _ _
  · with_reducible refine Only.ite ?_ ?_
    · with_reducible refine Only.step (twRefuseYield_only _) (by decide) ?_
      with_reducible refine Only.step (twReported_only _ _) (by decide) ?_
      exact Only.refl _ _
    · with_reducible refine Only.ite ?_ ?_
      · with_reducible refine Only.step (acceptYield_only _ _ _) (by decide) ?_
        exact Only.refl _ _
      · with_reducible refine Only.ite ?_ ?_
        · with_reducible refine Only.set_tw (by decide) ?_
          exact Only.refl _ _
        · with_reducible refine Only.step (twRefuseYield_only _) (by decide) ?_
          with_reducible refine Only.step (twReported_only _ _) (by decide) ?_
          exact Only.refl _ _
  · with_reducible refine Only.ite ?_ ?_
    · with_reducible refine Only.ite ?_ ?_
      · with_reducible refine Only.step (acceptYield_only _ _ _) (by decide) ?_
        exact Only.refl _ _
      · with_reducible refine Only.step (twRefuseYield_only _) (by decide) ?_
        with_reducible refine Only.step (twReported_only _ _) (by decide) ?_
        exact Only.refl _ _
    · with_reducible refine Only.ite ?_ ?_
      · with_reducible refine Only.step (twRefuseYield_only _) (by decide) ?_
        with_reducible refine Only.step (twReported_only _ _) (by decide) ?_
        exact Only.refl _ _
      · with_reducible refine Only.ite ?_ ?_
        · with_reducible refine Only.step (acceptYield_only _ _ _) (by decide) ?_
          exact Only.refl _ _
        · with_reducible refine Only.ite ?_ ?_
          · with_reducible refine Only.set_tw (by decide) ?_
            exact Only.refl _ _
          · with_reducible refine Only.step (twRefuseYield_only _) (by decide) ?_
            with_reducible refine Only.step (twReported_only _ _) (by decide) ?_
            exact Only.refl _ _
  · exact Only.refl _ _

theorem execYield_only (h : FrameHdr) (kind : BitVec 8) (lastRel : BitVec 48) (s : State) : NextOnly rxAuthParts s
    (execYield h kind lastRel s) := by
  unfold execYield
  split
  · with_reducible refine NextOnly.next ?_
    with_reducible refine Only.step (RxOnly.of_gone (rxSession_only _ _) (by assumption)) (by decide) ?_
    exact Only.refl _ _
  · with_reducible refine NextOnly.next ?_
    with_reducible refine Only.ite ?_ ?_
    · with_reducible refine Only.step (twYielded_only _ _ _) (by decide) ?_
      with_reducible refine Only.step (RxOnly.of_taken (rxSession_only _ _) (by assumption)) (by decide) ?_
      exact Only.refl _ _
    · with_reducible refine Only.step (RxOnly.of_taken (rxSession_only _ _) (by assumption)) (by decide) ?_
      exact Only.refl _ _

theorem twRecoveryLost_only (s : State) (lastRel : BitVec 48) : Only twReleaseParts s (twRecoveryLost s lastRel) := by
  unfold twRecoveryLost
  split
  · with_reducible refine Only.ite ?_ ?_
    · with_reducible refine Only.step (acceptYield_only _ _ _) (by decide) ?_
      exact Only.refl _ _
    · with_reducible refine Only.step (twRefuseYield_only _) (by decide) ?_
      with_reducible refine Only.step (twReported_only _ _) (by decide) ?_
      exact Only.refl _ _
  · with_reducible refine Only.ite ?_ ?_
    · with_reducible refine Only.step (acceptYield_only _ _ _) (by decide) ?_
      exact Only.refl _ _
    · with_reducible refine Only.step (twRefuseYield_only _) (by decide) ?_
      with_reducible refine Only.step (twReported_only _ _) (by decide) ?_
      exact Only.refl _ _
  · exact Only.refl _ _

theorem execRecoveryLost_only (h : FrameHdr) (lastRel : BitVec 48) (s : State) : NextOnly rxAuthParts s (execRecoveryLost h
    lastRel s) := by
  unfold execRecoveryLost
  split
  · with_reducible refine NextOnly.next ?_
    with_reducible refine Only.step (RxOnly.of_gone (rxSession_only _ _) (by assumption)) (by decide) ?_
    exact Only.refl _ _
  · with_reducible refine NextOnly.next ?_
    with_reducible refine Only.ite ?_ ?_
    · with_reducible refine Only.step (twRecoveryLost_only _ _) (by decide) ?_
      with_reducible refine Only.step (RxOnly.of_taken (rxSession_only _ _) (by assumption)) (by decide) ?_
      exact Only.refl _ _
    · with_reducible refine Only.step (RxOnly.of_taken (rxSession_only _ _) (by assumption)) (by decide) ?_
      exact Only.refl _ _

theorem twWitnessSet_only (s : State) (level : Bool) : Only twReleaseParts s (twWitnessSet s level) := by
  unfold twWitnessSet
  extract_lets -merge +onlyGivenNames _ s0
  have h1 : Only twReleaseParts s s0 := by
    unfold s0
    with_reducible refine Only.set_tw (by decide) ?_
    exact Only.refl _ _
  try clear_value s0
  with_reducible refine Only.ite ?_ ?_
  · exact h1
  · split
    · with_reducible refine Only.ite ?_ ?_
      · with_reducible refine Only.step (twHeld_only _ _) (by decide) ?_
        exact h1
      · exact h1
    · with_reducible refine Only.ite ?_ ?_
      · with_reducible refine Only.step (twTakeover_only _) (by decide) ?_
        exact h1
      · exact h1
    · exact h1

theorem execTwWitness_only (level : Bool) (s : State) : NextOnly twReleaseParts s (execTwWitness level s) := by
  unfold execTwWitness
  with_reducible refine NextOnly.next ?_
  with_reducible refine Only.ite ?_ ?_
  · with_reducible refine Only.set_tw (by decide) ?_
    exact Only.refl _ _
  · with_reducible refine Only.step (twWitnessSet_only _ _) (by decide) ?_
    exact Only.refl _ _

theorem execServiceLoopOverrun_only (sequencer : Bool) (s : State) : NextOnly recoveryStopParts s (execServiceLoopOverrun
    sequencer s) := by
  unfold execServiceLoopOverrun
  with_reducible refine NextOnly.next ?_
  with_reducible refine Only.ite ?_ ?_
  · with_reducible refine Only.step (stopUncoded_only _ _ _ _) (by decide) ?_
    exact Only.refl _ _
  · exact Only.refl _ _

theorem execRecoveryStop_only (c : StopCause) (s : State) : NextOnly recoveryStopParts s (execRecoveryStop c s) := by
  unfold execRecoveryStop
  with_reducible refine NextOnly.next ?_
  with_reducible refine Only.ite ?_ ?_
  · with_reducible refine Only.step (stopPlain_only _ _) (by decide) ?_
    exact Only.refl _ _
  · exact Only.refl _ _

theorem sendLost_only (s : State) : Only linkSendParts s (sendLost s) := by
  unfold sendLost
  extract_lets -merge +onlyGivenNames s0
  have h1 : Only linkSendParts s s0 := by
    unfold s0
    with_reducible refine Only.ite ?_ ?_
    · with_reducible refine Only.step (linkSend_only _ _ _) (by decide) ?_
      exact Only.refl _ _
    · exact Only.refl _ _
  try clear_value s0
  with_reducible refine Only.set_tw (by decide) ?_
  exact h1

/-- What `watchdogFires` may change. -/
def watchdogFiresParts : List Field := [.tw, .links, .fr, .chime, .obs, .freeCount, .frCfg, .obsCfg]

theorem watchdogFires_only (s : State) : Only watchdogFiresParts s (watchdogFires s) := by
  unfold watchdogFires
  extract_lets -merge +onlyGivenNames s0
  have h1 : Only watchdogFiresParts s s0 := by
    unfold s0
    with_reducible refine Only.step (haltAll_only _) (by decide) ?_
    with_reducible refine Only.step (sendLost_only _) (by decide) ?_
    exact Only.refl _ _
  try clear_value s0
  extract_lets -merge +onlyGivenNames s2
  have h3 : Only watchdogFiresParts s s2 := by
    unfold s2
    with_reducible refine Only.step (chEval_only _) (by decide) ?_
    with_reducible refine Only.foldl ?_ ?_
    · intro u4 a5
      with_reducible refine Only.step (driveWdog_only _ _) (by decide) ?_
      exact Only.refl _ _
    · exact h1
  try clear_value s2
  extract_lets -merge +onlyGivenNames x6
  extract_lets -merge +onlyGivenNames s7
  have h8 : Only watchdogFiresParts s s7 := by
    unfold s7
    with_reducible refine Only.step (errRecord_only _ _ _ _ _ _ _) (by decide) ?_
    with_reducible refine Only.step (State.drawWord_only _) (by decide) ?_
    exact h3
  try clear_value s7
  with_reducible refine Only.step (chSample_only _ _) (by decide) ?_
  with_reducible refine Only.set_fr (by decide) ?_
  exact h8

theorem execWatchdogFire_only (s : State) : NextOnly watchdogFiresParts s (execWatchdogFire s) := by
  unfold execWatchdogFire
  with_reducible refine NextOnly.next ?_
  with_reducible refine Only.ite ?_ ?_
  · with_reducible refine Only.step (watchdogFires_only _) (by decide) ?_
    exact Only.refl _ _
  · exact Only.refl _ _

/-- What `scrubScratch` may change. -/
def scrubScratchParts : List Field := [.cores, .fr, .chime, .obs, .freeCount]

theorem scrubScratch_only (s : State) (c : Nat) (line : Nat) (err : SramErr) : Only scrubScratchParts s (scrubScratch s c
    line err) := by
  unfold scrubScratch
  with_reducible refine Only.ite ?_ ?_
  · split
    · exact Only.refl _ _
    · with_reducible refine Only.step (frCorrected_only _ _) (by decide) ?_
      exact Only.refl _ _
    · with_reducible refine Only.step (errRecord_only _ _ _ _ _ _ _) (by decide) ?_
      with_reducible refine Only.step (State.modCore_only _ _ _) (by decide) ?_
      exact Only.refl _ _
  · exact Only.refl _ _

/-- What `scrubBasin` may change. -/
def scrubBasinParts : List Field := [.basin, .fr, .chime, .obs, .freeCount]

theorem scrubBasin_only (s : State) (slot : Nat) (line : Nat) (err : SramErr) : Only scrubBasinParts s (scrubBasin s slot
    line err) := by
  unfold scrubBasin
  split
  · exact Only.refl _ _
  · with_reducible refine Only.ite ?_ ?_
    · split
      · exact Only.refl _ _
      · with_reducible refine Only.step (frCorrected_only _ _) (by decide) ?_
        exact Only.refl _ _
      · with_reducible refine Only.step (errRecord_only _ _ _ _ _ _ _) (by decide) ?_
        with_reducible refine Only.set_basin (by decide) ?_
        exact Only.refl _ _
    · exact Only.refl _ _

theorem scrubKeeper_only (s : State) (err : SramErr) : Only recoveryStopParts s (scrubKeeper s err) := by
  unfold scrubKeeper
  split
  · exact Only.refl _ _
  · with_reducible refine Only.step (frCorrected_only _ _) (by decide) ?_
    exact Only.refl _ _
  · with_reducible refine Only.ite ?_ ?_
    · exact Only.refl _ _
    · with_reducible refine Only.step (stopPlain_only _ _) (by decide) ?_
      exact Only.refl _ _

/-- What `execScrub` may change. -/
def execScrubParts : List Field := [.writes, .mem, .poison, .au, .run, .basin, .pool, .gens, .ctxs, .queues, .insts,
  .rgParts, .jobs, .cores, .tw, .links, .fr, .chime, .obs, .freeCount, .frCfg, .obsCfg, .auIdle]

theorem execScrub_only (target : ScrubTarget) (err : SramErr) (s : State) : NextOnly execScrubParts s (execScrub target err
    s) := by
  unfold execScrub
  with_reducible refine NextOnly.next ?_
  with_reducible refine Only.ite ?_ ?_
  · split
    · with_reducible refine Only.step (scrubScratch_only _ _ _ _) (by decide) ?_
      exact Only.refl _ _
    · with_reducible refine Only.step (scrubBasin_only _ _ _ _) (by decide) ?_
      exact Only.refl _ _
    · with_reducible refine Only.step (scrubKeeper_only _ _) (by decide) ?_
      exact Only.refl _ _
  · exact Only.refl _ _

/-- What `execRefill` may change. -/
def execRefillParts : List Field := [.boot, .run, .kp, .chime, .obs]

theorem execRefill_only (who : Who) (slot : W32) (s : State) : NextOnly execRefillParts s (execRefill who slot s) := by
  unfold execRefill
  with_reducible refine NextOnly.next ?_
  with_reducible refine hostWrite_only (by decide) ?_ ?_
  · intro u0 
    with_reducible refine Only.step (refill_only _ _) (by decide) ?_
    exact Only.refl _ _
  · exact Only.refl _ _

theorem execLinkEnable_only (who : Who) (link : BitVec 3) (enable : Bool) (s : State) : NextOnly execFlightBreakParts s
    (execLinkEnable who link enable s) := by
  unfold execLinkEnable
  with_reducible refine NextOnly.next ?_
  with_reducible refine Only.ite ?_ ?_
  · with_reducible refine hostWrite_only (by decide) ?_ ?_
    · intro u0 
      with_reducible refine Only.step (setLinkEnable_only _ _ _) (by decide) ?_
      exact Only.refl _ _
    · exact Only.refl _ _
  · exact Only.refl _ _

theorem execPhyLock_only (link : BitVec 3) (level : Bool) (s : State) : NextOnly flightStopParts s (execPhyLock link level
    s) := by
  unfold execPhyLock
  extract_lets -merge +onlyGivenNames x0
  try clear_value x0
  extract_lets -merge +onlyGivenNames s1
  have h2 : Only flightStopParts s s1 := by
    unfold s1
    with_reducible refine Only.step (State.modLink_only _ _ _) (by decide) ?_
    exact Only.refl _ _
  try clear_value s1
  with_reducible refine NextOnly.next ?_
  with_reducible refine Only.ite ?_ ?_
  · exact h2
  · with_reducible refine Only.ite ?_ ?_
    · with_reducible refine Only.step (linkTrain_only _ _) (by decide) ?_
      exact h2
    · with_reducible refine Only.ite ?_ ?_
      · with_reducible refine Only.step (linkDown_only _ _ _ _) (by decide) ?_
        exact h2
      · exact h2

theorem rxControl_only (s : State) (h : FrameHdr) (expected : Link → Bool) : RxOnly linkSendParts s (rxControl s h
    expected) := by
  unfold rxControl
  extract_lets -merge +onlyGivenNames x0
  try clear_value x0
  with_reducible refine RxOnly.ite ?_ ?_
  · with_reducible refine RxOnly.gone ?_
    exact Only.refl _ _
  · with_reducible refine RxOnly.ite ?_ ?_
    · with_reducible refine RxOnly.gone ?_
      with_reducible refine Only.step (badCrc_only _ _ _) (by decide) ?_
      exact Only.refl _ _
    · with_reducible refine RxOnly.ite ?_ ?_
      · with_reducible refine RxOnly.gone ?_
        with_reducible refine Only.step (linkDrop_only _ _) (by decide) ?_
        exact Only.refl _ _
      · with_reducible refine RxOnly.taken ?_
        with_reducible refine Only.ite ?_ ?_
        · with_reducible refine Only.step (State.modLink_only _ _ _) (by decide) ?_
          exact Only.refl _ _
        · exact Only.refl _ _

theorem twLinkUp_only (s : State) : Only linkSendParts s (twLinkUp s) := by
  unfold twLinkUp
  extract_lets -merge +onlyGivenNames _ s0
  have h1 : Only linkSendParts s s0 := by
    unfold s0
    with_reducible refine Only.set_tw (by decide) ?_
    exact Only.refl _ _
  try clear_value s0
  split
  · with_reducible refine Only.step (twStart_only _) (by decide) ?_
    exact h1
  · exact h1
  · with_reducible refine Only.step (twExchange_only _) (by decide) ?_
    exact h1

theorem execLinkInit_only (h : FrameHdr) (buffers : BitVec 8) (_digest : Digest) (s : State) : NextOnly linkSendParts s
    (execLinkInit h buffers _digest s) := by
  unfold execLinkInit
  split
  · with_reducible refine NextOnly.next ?_
    with_reducible refine Only.step (RxOnly.of_gone (rxControl_only _ _ _) (by assumption)) (by decide) ?_
    exact Only.refl _ _
  · extract_lets -merge +onlyGivenNames x0
    try clear_value x0
    extract_lets -merge +onlyGivenNames s1
    have h2 : Only linkSendParts s s1 := by
      unfold s1
      with_reducible refine Only.step (State.modLink_only _ _ _) (by decide) ?_
      with_reducible refine Only.step (RxOnly.of_taken (rxControl_only _ _ _) (by assumption)) (by decide) ?_
      exact Only.refl _ _
    try clear_value s1
    with_reducible refine NextOnly.next ?_
    with_reducible refine Only.ite ?_ ?_
    · with_reducible refine Only.step (twLinkUp_only _) (by decide) ?_
      exact h2
    · exact h2

theorem execLinkInitTimer_only (link : BitVec 3) (s : State) : NextOnly setLinkParts s (execLinkInitTimer link s) := by
  unfold execLinkInitTimer
  extract_lets -merge +onlyGivenNames x0
  try clear_value x0
  with_reducible refine NextOnly.next ?_
  with_reducible refine Only.ite ?_ ?_
  · with_reducible refine Only.step (State.modLink_only _ _ _) (by decide) ?_
    exact Only.refl _ _
  · exact Only.refl _ _

theorem execIdle_only (h : FrameHdr) (s : State) : NextOnly linkSendParts s (execIdle h s) := by
  unfold execIdle
  split
  · with_reducible refine NextOnly.next ?_
    with_reducible refine Only.step (RxOnly.of_gone (rxControl_only _ _ _) (by assumption)) (by decide) ?_
    exact Only.refl _ _
  · with_reducible refine NextOnly.next ?_
    with_reducible refine Only.step (RxOnly.of_taken (rxControl_only _ _ _) (by assumption)) (by decide) ?_
    exact Only.refl _ _

theorem execNak_only (h : FrameHdr) (expected : BitVec 16) (s : State) : NextOnly flightStopParts s (execNak h expected s)
    := by
  unfold execNak
  split
  · with_reducible refine NextOnly.next ?_
    with_reducible refine Only.step (RxOnly.of_gone (rxControl_only _ _ _) (by assumption)) (by decide) ?_
    exact Only.refl _ _
  · extract_lets -merge +onlyGivenNames x0
    try clear_value x0
    extract_lets -merge +onlyGivenNames x1
    try clear_value x1
    extract_lets -merge +onlyGivenNames s2
    have h3 : Only flightStopParts s s2 := by
      unfold s2
      with_reducible refine Only.step (State.modLink_only _ _ _) (by decide) ?_
      with_reducible refine Only.step (RxOnly.of_taken (rxControl_only _ _ _) (by assumption)) (by decide) ?_
      exact Only.refl _ _
    try clear_value s2
    with_reducible refine NextOnly.next ?_
    with_reducible refine Only.ite ?_ ?_
    · with_reducible refine Only.step (linkDown_only _ _ _ _) (by decide) ?_
      exact h3
    · with_reducible refine Only.ite ?_ ?_
      · with_reducible refine Only.step (State.modLink_only _ _ _) (by decide) ?_
        exact h3
      · exact h3

theorem execLinkSilence_only (link : BitVec 3) (s : State) : NextOnly flightStopParts s (execLinkSilence link s) := by
  unfold execLinkSilence
  extract_lets -merge +onlyGivenNames x0
  try clear_value x0
  with_reducible refine NextOnly.next ?_
  with_reducible refine Only.ite ?_ ?_
  · with_reducible refine Only.step (linkDown_only _ _ _ _) (by decide) ?_
    exact Only.refl _ _
  · exact Only.refl _ _

/-- What `fuseDone` may change. -/
def fuseDoneParts : List Field := [.fuse, .sec]

theorem fuseDone_only (s : State) : Only fuseDoneParts s (fuseDone s) := by
  unfold fuseDone
  extract_lets -merge +onlyGivenNames _ x0
  split
  · with_reducible refine Only.set_sec (by decide) ?_
    exact Only.refl _ _
  · with_reducible refine Only.set_sec (by decide) ?_
    exact Only.refl _ _
  · extract_lets -merge +onlyGivenNames s1
    have h2 : Only fuseDoneParts s s1 := by
      unfold s1
      with_reducible refine Only.set_sec (by decide) ?_
      exact Only.refl _ _
    try clear_value s1
    with_reducible refine Only.set_fuse (by decide) ?_
    exact h2
  · extract_lets -merge +onlyGivenNames s3
    have h4 : Only fuseDoneParts s s3 := by
      unfold s3
      with_reducible refine Only.set_sec (by decide) ?_
      exact Only.refl _ _
    try clear_value s3
    with_reducible refine Only.set_fuse (by decide) ?_
    exact h4

theorem execFuseCommandDone_only (s : State) : NextOnly fuseDoneParts s (execFuseCommandDone s) := by
  unfold execFuseCommandDone
  with_reducible refine NextOnly.next ?_
  with_reducible refine Only.ite ?_ ?_
  · with_reducible refine Only.step (fuseDone_only _) (by decide) ?_
    exact Only.refl _ _
  · exact Only.refl _ _

theorem execImportKeyRegenerationDone_only (s : State) : NextOnly importKeysParts s (execImportKeyRegenerationDone s) := by
  unfold execImportKeyRegenerationDone
  with_reducible refine NextOnly.next ?_
  with_reducible refine Only.ite ?_ ?_
  · with_reducible refine Only.step (importKeys_only _) (by decide) ?_
    exact Only.refl _ _
  · exact Only.refl _ _

theorem execIdleSend_only (link : BitVec 3) (s : State) : NextOnly linkSendParts s (execIdleSend link s) := by
  unfold execIdleSend
  extract_lets -merge +onlyGivenNames x0
  try clear_value x0
  with_reducible refine NextOnly.next ?_
  with_reducible refine Only.ite ?_ ?_
  · with_reducible refine Only.step (linkSend_only _ _ _) (by decide) ?_
    exact Only.refl _ _
  · exact Only.refl _ _

end Sys2Proof.Machine
end

