-- ==== Sys2Proof/Laws/OnlyRegs.lean ====
section
/-! SUPPORT. Which parts of the state an operation may change, for the Chime rows, trace and snapshot, debug and the
register writes. -/

namespace Sys2Proof.Machine

theorem chBits_only (s : State) (view : Option Nat) (first : Nat) (count : Nat) (data : Nat) (f : Src → Bool → Src) : Only
    setSrcParts s (chBits s view first count data f) := by
  unfold chBits
  with_reducible refine Only.step (chEval_only _) (by decide) ?_
  with_reducible refine Only.foldl ?_ ?_
  · intro u0 a1
    extract_lets -merge +onlyGivenNames x2
    try clear_value x2
    extract_lets -merge +onlyGivenNames x3
    try clear_value x3
    with_reducible refine Only.ite ?_ ?_
    · with_reducible refine Only.step (State.setSrc_only _ _ _) (by decide) ?_
      exact Only.refl _ _
    · exact Only.refl _ _
  · exact Only.refl _ _

theorem dbgReleaseCores_only (s : State) (cores : BitVec 16) : Only killGraphParts s (dbgReleaseCores s cores) := by
  unfold dbgReleaseCores
  with_reducible refine Only.ite ?_ ?_
  · with_reducible refine Only.ite ?_ ?_
    · exact Only.refl _ _
    · with_reducible refine Only.foldl ?_ ?_
      · intro u0 a1
        with_reducible refine Only.step (releaseHeld_only _ _) (by decide) ?_
        exact Only.refl _ _
      · exact Only.refl _ _
  · with_reducible refine Only.step (accessDenied_only _) (by decide) ?_
    exact Only.refl _ _

/-- What `emitFrame` may change. -/
def emitFrameParts : List Field := [.obs, .freeCount, .obsCfg]

theorem emitFrame_only (s : State) (f : TraceFrame) (sync : Bool) : Only emitFrameParts s (emitFrame s f sync) := by
  unfold emitFrame
  extract_lets -merge +onlyGivenNames x0
  extract_lets -merge +onlyGivenNames s1
  have h2 : Only emitFrameParts s s1 := by
    unfold s1
    with_reducible refine Only.step (State.drawWord_only _) (by decide) ?_
    exact Only.refl _ _
  try clear_value s1
  extract_lets -merge +onlyGivenNames x3
  try clear_value x3
  with_reducible refine Only.set_obs (by decide) ?_
  exact h2

theorem execFusedWindowAccess_only (who : Who) (off : BitVec 26) (write : Bool) (s : State) : NextOnly hostCheckParts s
    (execFusedWindowAccess who off write s) := by
  unfold execFusedWindowAccess
  with_reducible refine NextOnly.next ?_
  split
  · exact Only.refl _ _
  · with_reducible refine Only.ite ?_ ?_
    · exact Only.refl _ _
    · split
      · with_reducible refine Only.step (AccessOnly.of_ignored (hostCheck_only _ _ _ _ _) (by assumption)) (by decide) ?_
        exact Only.refl _ _
      · exact Only.refl _ _

theorem setDirtyBase_only (s : State) (k : Nat) (m : W64) : Only setInstParts s (setDirtyBase s k m) := by
  unfold setDirtyBase
  extract_lets -merge +onlyGivenNames x0
  try clear_value x0
  with_reducible refine Only.ite ?_ ?_
  · exact Only.refl _ _
  · with_reducible refine Only.step (modDirty_only _ _ _) (by decide) ?_
    exact Only.refl _ _

/-- What `writeKeeper` may change. -/
def writeKeeperParts : List Field := [.boot, .kp, .objs, .insts, .chime, .obs]

theorem writeKeeper_only (s : State) (off : Nat) (m : W64) (w : W64) : Only writeKeeperParts s (writeKeeper s off m w) := by
  unfold writeKeeper
  split
  · with_reducible refine Only.step (setLoaderMode_only _ _) (by decide) ?_
    exact Only.refl _ _
  · with_reducible refine Only.step (chSample_only _ _) (by decide) ?_
    with_reducible refine Only.set_kp (by decide) ?_
    exact Only.refl _ _
  · with_reducible refine Only.step (setObjBase_only _ _) (by decide) ?_
    exact Only.refl _ _
  · with_reducible refine Only.set_kp (by decide) ?_
    exact Only.refl _ _
  · with_reducible refine Only.set_kp (by decide) ?_
    exact Only.refl _ _
  · with_reducible refine Only.step (chSample_only _ _) (by decide) ?_
    with_reducible refine Only.set_kp (by decide) ?_
    exact Only.refl _ _
  · with_reducible refine Only.set_kp (by decide) ?_
    exact Only.refl _ _
  · with_reducible refine Only.set_kp (by decide) ?_
    exact Only.refl _ _
  · with_reducible refine Only.step (setDirtyBase_only _ _ _) (by decide) ?_
    exact Only.refl _ _
  · with_reducible refine Only.step (setDirtyBase_only _ _ _) (by decide) ?_
    exact Only.refl _ _
  · with_reducible refine Only.step (bootCommand_only _ _) (by decide) ?_
    exact Only.refl _ _
  · with_reducible refine Only.set_boot (by decide) ?_
    exact Only.refl _ _
  · with_reducible refine Only.set_boot (by decide) ?_
    exact Only.refl _ _
  · exact Only.refl _ _

theorem setAuStatus_only (s : State) (w : W64) : Only auRecordParts s (setAuStatus s w) := by
  unfold setAuStatus
  with_reducible refine Only.step (chSample_only _ _) (by decide) ?_
  with_reducible refine Only.set_au (by decide) ?_
  exact Only.refl _ _

theorem writeEsc_only (s : State) (off : Nat) (m : W64) (w : W64) : Only traceDecideParts s (writeEsc s off m w) := by
  unfold writeEsc
  split
  · with_reducible refine Only.set_au (by decide) ?_
    exact Only.refl _ _
  · with_reducible refine Only.set_au (by decide) ?_
    exact Only.refl _ _
  · with_reducible refine Only.step (auCommand_only _ _ _) (by decide) ?_
    exact Only.refl _ _
  · with_reducible refine Only.step (setAuStatus_only _ _) (by decide) ?_
    exact Only.refl _ _
  · exact Only.refl _ _

theorem setPartCfg_only (s : State) (p : Nat) (m : W64) : Only setRgPartParts s (setPartCfg s p m) := by
  unfold setPartCfg
  with_reducible refine Only.step (State.modRgPart_only _ _ _) (by decide) ?_
  exact Only.refl _ _

/-- What `writeRg` may change. -/
def writeRgParts : List Field := [.run, .ctxs, .queues, .insts, .shares, .rg, .rgParts, .jobs, .cores, .chime, .obs,
  .freeCount]

theorem writeRg_only (s : State) (off : Nat) (m : W64) (w : W64) : Only writeRgParts s (writeRg s off m w) := by
  unfold writeRg
  split
  · with_reducible refine Only.set_rg (by decide) (by rfl) ?_
    exact Only.refl _ _
  · with_reducible refine Only.step (setWeight_only _ _) (by decide) ?_
    exact Only.refl _ _
  · with_reducible refine Only.step (queueCommand_only _ _) (by decide) ?_
    exact Only.refl _ _
  · with_reducible refine Only.set_rg (by decide) (by rfl) ?_
    exact Only.refl _ _
  · with_reducible refine Only.step (preemptCommand_only _ _) (by decide) ?_
    exact Only.refl _ _
  · with_reducible refine Only.set_rg (by decide) (by rfl) ?_
    exact Only.refl _ _
  · with_reducible refine Only.set_rg (by decide) (by rfl) ?_
    exact Only.refl _ _
  · with_reducible refine Only.step (shareCommand_only _ _) (by decide) ?_
    exact Only.refl _ _
  · with_reducible refine Only.ite ?_ ?_
    · with_reducible refine Only.step (setPartCfg_only _ _ _) (by decide) ?_
      exact Only.refl _ _
    · exact Only.refl _ _

theorem setFlightCfg_only (s : State) (m : W64) : Only setFlightParts s (setFlightCfg s m) := by
  unfold setFlightCfg
  extract_lets -merge +onlyGivenNames x0
  try clear_value x0
  extract_lets -merge +onlyGivenNames x1
  try clear_value x1
  with_reducible refine Only.ite ?_ ?_
  · with_reducible refine Only.step (State.setFlight_only _ _ _) (by decide) ?_
    exact Only.refl _ _
  · exact Only.refl _ _

theorem setFlightGrant_only (s : State) (m : W64) : Only setFlightParts s (setFlightGrant s m) := by
  unfold setFlightGrant
  extract_lets -merge +onlyGivenNames x0
  try clear_value x0
  extract_lets -merge +onlyGivenNames x1
  try clear_value x1
  with_reducible refine Only.ite ?_ ?_
  · with_reducible refine Only.step (State.setFlight_only _ _ _) (by decide) ?_
    exact Only.refl _ _
  · exact Only.refl _ _

theorem setFlightStart_only (s : State) (m : W64) : Only setFlightParts s (setFlightStart s m) := by
  unfold setFlightStart
  extract_lets -merge +onlyGivenNames x0
  try clear_value x0
  with_reducible refine Only.step (State.setFlight_only _ _ _) (by decide) ?_
  exact Only.refl _ _

theorem writeSy_only (s : State) (off : Nat) (m : W64) (w : W64) : Only counterSetParts s (writeSy s off m w) := by
  unfold writeSy
  split
  · with_reducible refine Only.set_sy (by decide) ?_
    exact Only.refl _ _
  · with_reducible refine Only.step (counterCommand_only _ _) (by decide) ?_
    exact Only.refl _ _
  · with_reducible refine Only.set_sy (by decide) ?_
    exact Only.refl _ _
  · with_reducible refine Only.step (chSample_only _ _) (by decide) ?_
    with_reducible refine Only.set_sy (by decide) ?_
    exact Only.refl _ _
  · with_reducible refine Only.set_sy (by decide) ?_
    exact Only.refl _ _
  · with_reducible refine Only.set_sy (by decide) ?_
    exact Only.refl _ _
  · with_reducible refine Only.step (setFlightCfg_only _ _) (by decide) ?_
    exact Only.refl _ _
  · with_reducible refine Only.step (setFlightGrant_only _ _) (by decide) ?_
    exact Only.refl _ _
  · with_reducible refine Only.step (setFlightStart_only _ _) (by decide) ?_
    exact Only.refl _ _
  · with_reducible refine Only.step (flightCommand_only _ _) (by decide) ?_
    exact Only.refl _ _
  · exact Only.refl _ _

theorem srcConfig_only (s : State) (n : Nat) (v : W64) : Only chSampleParts s (srcConfig s n v) := by
  unfold srcConfig
  extract_lets -merge +onlyGivenNames x0
  try clear_value x0
  extract_lets -merge +onlyGivenNames s1
  have h2 : Only chSampleParts s s1 := by
    unfold s1
    with_reducible refine Only.step (chEval_only _) (by decide) ?_
    with_reducible refine Only.step (State.setSrc_only _ _ _) (by decide) ?_
    exact Only.refl _ _
  try clear_value s1
  with_reducible refine Only.step (chSample_only _ _) (by decide) ?_
  exact h2

theorem pendBits_only (s : State) (view : Option Nat) (first : Nat) (count : Nat) (data : Nat) : Only setSrcParts s
    (pendBits s view first count data) := by
  unfold pendBits
  with_reducible refine Only.step (chBits_only _ _ _ _ _ _) (by decide) ?_
  exact Only.refl _ _

theorem writePend_only (s : State) (view : Option Nat) (word : Nat) (p : Part) (w : W64) : Only setSrcParts s (writePend s
    view word p w) := by
  unfold writePend
  with_reducible refine Only.step (pendBits_only _ _ _ _ _) (by decide) ?_
  exact Only.refl _ _

theorem maskBits_only (s : State) (view : Option Nat) (first : Nat) (count : Nat) (data : Nat) : Only setSrcParts s
    (maskBits s view first count data) := by
  unfold maskBits
  with_reducible refine Only.step (chBits_only _ _ _ _ _ _) (by decide) ?_
  exact Only.refl _ _

theorem writeMask_only (s : State) (view : Option Nat) (word : Nat) (p : Part) (w : W64) : Only setSrcParts s (writeMask s
    view word p w) := by
  unfold writeMask
  with_reducible refine Only.step (maskBits_only _ _ _ _ _) (by decide) ?_
  exact Only.refl _ _

/-- What `setQsrc` may change. -/
def setQsrcParts : List Field := [.chime, .chimeCfg]

theorem setQsrc_only (s : State) (m : W64) : Only setQsrcParts s (setQsrc s m) := by
  unfold setQsrc
  with_reducible refine Only.set_chime (by decide) ?_
  exact Only.refl _ _

theorem setTgtCfg_only (s : State) (t : Nat) (m : W64) : Only setSrcParts s (setTgtCfg s t m) := by
  unfold setTgtCfg
  with_reducible refine Only.step (chEval_only _) (by decide) ?_
  with_reducible refine Only.step (State.setTarget_only _ _ _) (by decide) ?_
  exact Only.refl _ _

theorem writeTarget_only (s : State) (t : Nat) (off : Nat) (p : Part) (m : W64) (w : W64) : Only setSrcParts s (writeTarget
    s t off p m w) := by
  unfold writeTarget
  with_reducible refine Only.ite ?_ ?_
  · with_reducible refine Only.step (writePend_only _ _ _ _ _) (by decide) ?_
    exact Only.refl _ _
  · with_reducible refine Only.ite ?_ ?_
    · with_reducible refine Only.step (writeMask_only _ _ _ _ _) (by decide) ?_
      exact Only.refl _ _
    · with_reducible refine Only.ite ?_ ?_
      · with_reducible refine Only.step (chComplete_only _ _ _) (by decide) ?_
        exact Only.refl _ _
      · with_reducible refine Only.ite ?_ ?_
        · with_reducible refine Only.step (setTgtCfg_only _ _ _) (by decide) ?_
          exact Only.refl _ _
        · exact Only.refl _ _

/-- What `writeCh` may change. -/
def writeChParts : List Field := [.chime, .obs, .chimeCfg]

theorem writeCh_only (s : State) (off : Nat) (p : Part) (m : W64) (w : W64) : Only writeChParts s (writeCh s off p m w) :=
    by
  unfold writeCh
  with_reducible refine Only.ite ?_ ?_
  · with_reducible refine Only.step (srcConfig_only _ _ _) (by decide) ?_
    exact Only.refl _ _
  · with_reducible refine Only.ite ?_ ?_
    · with_reducible refine Only.step (writePend_only _ _ _ _ _) (by decide) ?_
      exact Only.refl _ _
    · with_reducible refine Only.ite ?_ ?_
      · with_reducible refine Only.step (writeMask_only _ _ _ _ _) (by decide) ?_
        exact Only.refl _ _
      · with_reducible refine Only.ite ?_ ?_
        · with_reducible refine Only.step (chComplete_only _ _ _) (by decide) ?_
          exact Only.refl _ _
        · with_reducible refine Only.ite ?_ ?_
          · with_reducible refine Only.set_chime (by decide) ?_
            exact Only.refl _ _
          · with_reducible refine Only.ite ?_ ?_
            · with_reducible refine Only.step (setQsrc_only _ _) (by decide) ?_
              exact Only.refl _ _
            · with_reducible refine Only.ite ?_ ?_
              · with_reducible refine Only.step (writeTarget_only _ _ _ _ _ _) (by decide) ?_
                exact Only.refl _ _
              · exact Only.refl _ _

theorem writeOtp_only (s : State) (w : W64) : NextOnly tamperActParts s (writeOtp s w) := by
  unfold writeOtp
  extract_lets -merge +onlyGivenNames x0
  try clear_value x0
  with_reducible refine NextOnly.ite ?_ ?_
  · exact NextOnly.fault _
  · with_reducible refine NextOnly.next ?_
    with_reducible refine Only.step (otpCommand_only _ _ _) (by decide) ?_
    exact Only.refl _ _

theorem writeDbgCmd_only (s : State) (w : W64) : NextOnly auVerifiedParts s (writeDbgCmd s w) := by
  unfold writeDbgCmd
  with_reducible refine NextOnly.ite ?_ ?_
  · with_reducible refine NextOnly.ite ?_ ?_
    · exact NextOnly.fault _
    · with_reducible refine NextOnly.next ?_
      with_reducible refine Only.step (unlockAt_only _) (by decide) ?_
      exact Only.refl _ _
  · with_reducible refine NextOnly.next ?_
    exact Only.refl _ _

theorem writeSec_only (s : State) (off : Nat) (m : W64) (w : W64) : NextOnly auVerifiedParts s (writeSec s off m w) := by
  unfold writeSec
  split
  · with_reducible refine NextOnly.next ?_
    with_reducible refine Only.set_sec (by decide) ?_
    exact Only.refl _ _
  · with_reducible refine NextOnly.step (writeOtp_only _ _) (by decide) ?_
    exact Only.refl _ _
  · with_reducible refine NextOnly.next ?_
    with_reducible refine Only.set_sec (by decide) ?_
    exact Only.refl _ _
  · with_reducible refine NextOnly.next ?_
    with_reducible refine Only.step (chSample_only _ _) (by decide) ?_
    with_reducible refine Only.set_sec (by decide) ?_
    exact Only.refl _ _
  · with_reducible refine NextOnly.next ?_
    with_reducible refine Only.set_sec (by decide) ?_
    exact Only.refl _ _
  · with_reducible refine NextOnly.step (writeDbgCmd_only _ _) (by decide) ?_
    exact Only.refl _ _
  · with_reducible refine NextOnly.next ?_
    exact Only.refl _ _

theorem setPeerDigest_only (s : State) (i : Nat) (m : W64) : Only countAuthParts s (setPeerDigest s i m) := by
  unfold setPeerDigest
  with_reducible refine Only.ite ?_ ?_
  · with_reducible refine Only.set_tw (by decide) ?_
    exact Only.refl _ _
  · exact Only.refl _ _

theorem writeTw_only (s : State) (off : Nat) (m : W64) (w : W64) : Only flightStopParts s (writeTw s off m w) := by
  unfold writeTw
  with_reducible refine Only.ite ?_ ?_
  · with_reducible refine Only.step (setTwCtl_only _ _) (by decide) ?_
    exact Only.refl _ _
  · with_reducible refine Only.ite ?_ ?_
    · with_reducible refine Only.step (twCommand_only _ _) (by decide) ?_
      exact Only.refl _ _
    · with_reducible refine Only.ite ?_ ?_
      · with_reducible refine Only.step (setPeerDigest_only _ _ _) (by decide) ?_
        exact Only.refl _ _
      · with_reducible refine Only.ite ?_ ?_
        · with_reducible refine Only.step (setLinkEnable_only _ _ _) (by decide) ?_
          exact Only.refl _ _
        · with_reducible refine Only.ite ?_ ?_
          · with_reducible refine Only.step (setLinkEnable_only _ _ _) (by decide) ?_
            exact Only.refl _ _
          · exact Only.refl _ _

/-- What `pmClear` may change. -/
def pmClearParts : List Field := [.chime, .obs, .obsCfg]

theorem pmClear_only (s : State) : Only pmClearParts s (pmClear s) := by
  unfold pmClear
  with_reducible refine Only.step (chSample_only _ _) (by decide) ?_
  with_reducible refine Only.set_obs (by decide) ?_
  exact Only.refl _ _

theorem pmCommand_only (s : State) (v : W64) : Only pmClearParts s (pmCommand s v) := by
  unfold pmCommand
  with_reducible refine Only.ite ?_ ?_
  · with_reducible refine Only.step (pmClear_only _) (by decide) ?_
    exact Only.refl _ _
  · exact Only.refl _ _

theorem setPmOvf_only (s : State) (w : W64) : Only pmClearParts s (setPmOvf s w) := by
  unfold setPmOvf
  with_reducible refine Only.step (chSample_only _ _) (by decide) ?_
  with_reducible refine Only.set_obs (by decide) ?_
  exact Only.refl _ _

theorem traceRequest_only (s : State) : Only traceDecideParts s (traceRequest s) := by
  unfold traceRequest
  with_reducible refine Only.ite ?_ ?_
  · with_reducible refine Only.set_au (by decide) ?_
    exact Only.refl _ _
  · with_reducible refine Only.ite ?_ ?_
    · with_reducible refine Only.set_au (by decide) ?_
      exact Only.refl _ _
    · with_reducible refine Only.step (traceDecide_only _) (by decide) ?_
      exact Only.refl _ _

theorem traceLower_only (s : State) (mode : BitVec 2) : Only traceEdgeParts s (traceLower s mode) := by
  unfold traceLower
  with_reducible refine Only.ite ?_ ?_
  · with_reducible refine Only.set_au (by decide) ?_
    exact Only.refl _ _
  · with_reducible refine Only.set_au_obs (by decide) ?_
    exact Only.refl _ _

theorem traceCommand_only (s : State) (mode : BitVec 2) (cores : BitVec 16) : Only traceDecideParts s (traceCommand s mode
    cores) := by
  unfold traceCommand
  extract_lets -merge +onlyGivenNames x0
  try clear_value x0
  extract_lets -merge +onlyGivenNames _ s1
  have h2 : Only traceDecideParts s s1 := by
    unfold s1
    with_reducible refine Only.set_obs (by decide) ?_
    exact Only.refl _ _
  try clear_value s1
  with_reducible refine Only.ite ?_ ?_
  · with_reducible refine Only.step (traceRequest_only _) (by decide) ?_
    exact h2
  · with_reducible refine Only.step (traceLower_only _ _) (by decide) ?_
    exact h2

theorem snapCommand_only (s : State) (v : W64) : Only snapBeginParts s (snapCommand s v) := by
  unfold snapCommand
  extract_lets -merge +onlyGivenNames _ s0
  have h1 : Only snapBeginParts s s0 := by
    unfold s0
    with_reducible refine Only.set_obs (by decide) ?_
    exact Only.refl _ _
  try clear_value s0
  with_reducible refine Only.ite ?_ ?_
  · with_reducible refine Only.step (snapBegin_only _) (by decide) ?_
    exact h1
  · exact h1

theorem setSnapStatus_only (s : State) (w : W64) : Only snapBeginParts s (setSnapStatus s w) := by
  unfold setSnapStatus
  with_reducible refine Only.set_obs (by decide) ?_
  exact Only.refl _ _

theorem haltRaise_only (s : State) : Only haltAllParts s (haltRaise s) := by
  unfold haltRaise
  with_reducible refine Only.ite ?_ ?_
  · exact Only.refl _ _
  · with_reducible refine Only.step (haltAll_only _) (by decide) ?_
    exact Only.refl _ _

/-- What `setDbgCtl` may change. -/
def setDbgCtlParts : List Field := [.tw, .chime, .obs, .obsCfg]

theorem setDbgCtl_only (s : State) (v : W64) : Only setDbgCtlParts s (setDbgCtl s v) := by
  unfold setDbgCtl
  extract_lets -merge +onlyGivenNames x0
  try clear_value x0
  extract_lets -merge +onlyGivenNames _ s1
  have h2 : Only setDbgCtlParts s s1 := by
    unfold s1
    with_reducible refine Only.ite ?_ ?_
    · with_reducible refine Only.set_obs (by decide) ?_
      exact Only.refl _ _
    · with_reducible refine Only.ite ?_ ?_
      · exact Only.refl _ _
      · with_reducible refine Only.step (accessDenied_only _) (by decide) ?_
        exact Only.refl _ _
  try clear_value s1
  with_reducible refine Only.ite ?_ ?_
  · with_reducible refine Only.step (haltRaise_only _) (by decide) ?_
    exact h2
  · exact h2

theorem setBreakpoint_only (s : State) (k : Nat) (v : W64) : Only pmClearParts s (setBreakpoint s k v) := by
  unfold setBreakpoint
  with_reducible refine Only.ite ?_ ?_
  · with_reducible refine Only.set_obs (by decide) ?_
    exact Only.refl _ _
  · with_reducible refine Only.step (accessDenied_only _) (by decide) ?_
    exact Only.refl _ _

/-- What `writePm` may change. -/
def writePmParts : List Field := [.au, .run, .jobs, .cores, .tw, .chime, .obs, .freeCount, .obsCfg, .auIdle]

theorem writePm_only (s : State) (off : Nat) (m : W64) (w : W64) : Only writePmParts s (writePm s off m w) := by
  unfold writePm
  split
  · with_reducible refine Only.step (pmCommand_only _ _) (by decide) ?_
    exact Only.refl _ _
  · with_reducible refine Only.step (setPmOvf_only _ _) (by decide) ?_
    exact Only.refl _ _
  · with_reducible refine Only.step (traceCommand_only _ _ _) (by decide) ?_
    exact Only.refl _ _
  · with_reducible refine Only.set_obs (by decide) ?_
    exact Only.refl _ _
  · with_reducible refine Only.set_obs (by decide) ?_
    exact Only.refl _ _
  · with_reducible refine Only.step (snapCommand_only _ _) (by decide) ?_
    exact Only.refl _ _
  · with_reducible refine Only.step (setSnapStatus_only _ _) (by decide) ?_
    exact Only.refl _ _
  · with_reducible refine Only.step (setDbgCtl_only _ _) (by decide) ?_
    exact Only.refl _ _
  · with_reducible refine Only.step (dbgReleaseCores_only _ _) (by decide) ?_
    exact Only.refl _ _
  · with_reducible refine Only.ite ?_ ?_
    · with_reducible refine Only.step (setBreakpoint_only _ _ _) (by decide) ?_
      exact Only.refl _ _
    · exact Only.refl _ _

/-- What `writeFr` may change. -/
def writeFrParts : List Field := [.run, .fr, .chime, .obs, .frCfg]

theorem writeFr_only (s : State) (off : Nat) (m : W64) (w : W64) : Only writeFrParts s (writeFr s off m w) := by
  unfold writeFr
  split
  · with_reducible refine Only.set_fr (by decide) ?_
    exact Only.refl _ _
  · with_reducible refine Only.step (chSample_only _ _) (by decide) ?_
    with_reducible refine Only.set_fr (by decide) ?_
    exact Only.refl _ _
  · with_reducible refine Only.set_fr (by decide) ?_
    exact Only.refl _ _
  · with_reducible refine Only.set_fr (by decide) ?_
    exact Only.refl _ _
  · with_reducible refine Only.step (frCommand_only _ _) (by decide) ?_
    exact Only.refl _ _
  · with_reducible refine Only.step (chSample_only _ _) (by decide) ?_
    with_reducible refine Only.set_fr (by decide) ?_
    exact Only.refl _ _
  · with_reducible refine Only.step (chSample_only _ _) (by decide) ?_
    with_reducible refine Only.set_fr (by decide) ?_
    exact Only.refl _ _
  · exact Only.refl _ _

theorem writeGo_only (s : State) (who : Who) (n : Nat) (w : W64) : NextOnly mbActParts s (writeGo s who n w) := by
  unfold writeGo
  with_reducible refine NextOnly.ite ?_ ?_
  · exact NextOnly.fault _
  · with_reducible refine NextOnly.next ?_
    with_reducible refine Only.step (mbGo_only _ _ _ _) (by decide) ?_
    exact Only.refl _ _

theorem setRspStatus_only (s : State) (n : Nat) (w : W64) : Only mbDoneParts s (setRspStatus s n w) := by
  unfold setRspStatus
  with_reducible refine Only.step (chSample_only _ _) (by decide) ?_
  with_reducible refine Only.step (State.modPage_only _ _ _) (by decide) ?_
  exact Only.refl _ _

theorem setNotice_only (s : State) (n : Nat) (w : W64) : Only mbDoneParts s (setNotice s n w) := by
  unfold setNotice
  with_reducible refine Only.step (chSample_only _ _) (by decide) ?_
  with_reducible refine Only.step (State.modPage_only _ _ _) (by decide) ?_
  exact Only.refl _ _

theorem writePage_only (s : State) (who : Who) (n : Nat) (off : Nat) (p : Part) (m : W64) (w : W64) : NextOnly mbActParts s
    (writePage s who n off p m w) := by
  unfold writePage
  with_reducible refine NextOnly.ite ?_ ?_
  · with_reducible refine NextOnly.next ?_
    exact Only.refl _ _
  · with_reducible refine NextOnly.ite ?_ ?_
    · with_reducible refine NextOnly.next ?_
      with_reducible refine Only.step (mbWord_only _ _ _ _) (by decide) ?_
      exact Only.refl _ _
    · with_reducible refine NextOnly.ite ?_ ?_
      · with_reducible refine NextOnly.step (writeGo_only _ _ _ _) (by decide) ?_
        exact Only.refl _ _
      · with_reducible refine NextOnly.ite ?_ ?_
        · with_reducible refine NextOnly.next ?_
          with_reducible refine Only.step (setRspStatus_only _ _ _) (by decide) ?_
          exact Only.refl _ _
        · with_reducible refine NextOnly.ite ?_ ?_
          · with_reducible refine NextOnly.next ?_
            with_reducible refine Only.step (setNotice_only _ _ _) (by decide) ?_
            exact Only.refl _ _
          · with_reducible refine NextOnly.ite ?_ ?_
            · with_reducible refine NextOnly.next ?_
              with_reducible refine Only.ite ?_ ?_
              · with_reducible refine Only.step (ringBell_only _ _ _) (by decide) ?_
                exact Only.refl _ _
              · exact Only.refl _ _
            · with_reducible refine NextOnly.next ?_
              exact Only.refl _ _

theorem writeCore_only (s : State) (c : Nat) (off : Nat) (w : W64) : Only haltRecordParts s (writeCore s c off w) := by
  unfold writeCore
  split
  · with_reducible refine Only.step (chSample_only _ _) (by decide) ?_
    with_reducible refine Only.step (State.modCore_only _ _ _) (by decide) ?_
    exact Only.refl _ _
  · with_reducible refine Only.step (chSample_only _ _) (by decide) ?_
    with_reducible refine Only.step (State.modCore_only _ _ _) (by decide) ?_
    exact Only.refl _ _
  · exact Only.refl _ _

/-- What `writeReg` may change. -/
def writeRegParts : List Field := [.boot, .writes, .mem, .poison, .au, .run, .pool, .kp, .gens, .objs, .ctxs, .queues,
  .insts, .shares, .rg, .rgParts, .jobs, .cores, .counters, .flights, .sy, .sec, .tw, .links, .fr, .chime, .obs,
  .freeCount, .frCfg, .chimeCfg, .obsCfg, .auIdle]

theorem writeReg_only (s : State) (who : Who) (off : Nat) (p : Part) (w : W64) : NextOnly writeRegParts s (writeReg s who
    off p w) := by
  unfold writeReg
  extract_lets -merge +onlyGivenNames x0
  try clear_value x0
  with_reducible refine NextOnly.ite ?_ ?_
  · with_reducible refine NextOnly.step (putDirtyCtl_only _ _) (by decide) ?_
    exact Only.refl _ _
  · with_reducible refine NextOnly.ite ?_ ?_
    · with_reducible refine NextOnly.next ?_
      with_reducible refine Only.step (writeKeeper_only _ _ _ _) (by decide) ?_
      exact Only.refl _ _
    · with_reducible refine NextOnly.ite ?_ ?_
      · with_reducible refine NextOnly.next ?_
        with_reducible refine Only.step (writeEsc_only _ _ _ _) (by decide) ?_
        exact Only.refl _ _
      · with_reducible refine NextOnly.ite ?_ ?_
        · with_reducible refine NextOnly.next ?_
          with_reducible refine Only.step (writeRg_only _ _ _ _) (by decide) ?_
          exact Only.refl _ _
        · with_reducible refine NextOnly.ite ?_ ?_
          · with_reducible refine NextOnly.next ?_
            with_reducible refine Only.step (writeSy_only _ _ _ _) (by decide) ?_
            exact Only.refl _ _
          · with_reducible refine NextOnly.ite ?_ ?_
            · with_reducible refine NextOnly.next ?_
              with_reducible refine Only.step (writeCh_only _ _ _ _ _) (by decide) ?_
              exact Only.refl _ _
            · with_reducible refine NextOnly.ite ?_ ?_
              · with_reducible refine NextOnly.step (writeSec_only _ _ _ _) (by decide) ?_
                exact Only.refl _ _
              · with_reducible refine NextOnly.ite ?_ ?_
                · with_reducible refine NextOnly.next ?_
                  with_reducible refine Only.step (writeTw_only _ _ _ _) (by decide) ?_
                  exact Only.refl _ _
                · with_reducible refine NextOnly.ite ?_ ?_
                  · with_reducible refine NextOnly.next ?_
                    with_reducible refine Only.step (writePm_only _ _ _ _) (by decide) ?_
                    exact Only.refl _ _
                  · with_reducible refine NextOnly.ite ?_ ?_
                    · with_reducible refine NextOnly.next ?_
                      with_reducible refine Only.step (writeFr_only _ _ _ _) (by decide) ?_
                      exact Only.refl _ _
                    · with_reducible refine NextOnly.ite ?_ ?_
                      · with_reducible refine NextOnly.step (writePage_only _ _ _ _ _ _ _) (by decide) ?_
                        exact Only.refl _ _
                      · with_reducible refine NextOnly.ite ?_ ?_
                        · with_reducible refine NextOnly.next ?_
                          with_reducible refine Only.step (writeCore_only _ _ _ _) (by decide) ?_
                          exact Only.refl _ _
                        · with_reducible refine NextOnly.next ?_
                          exact Only.refl _ _

theorem writeWord_only (s : State) (who : Who) (off : Nat) (v : Nat) : NextOnly writeRegParts s (writeWord s who off v) :=
    by
  unfold writeWord
  split
  · with_reducible refine NextOnly.next ?_
    exact Only.refl _ _
  · extract_lets -merge +onlyGivenNames x0
    try clear_value x0
    with_reducible refine NextOnly.ite ?_ ?_
    · with_reducible refine NextOnly.step (writeReg_only _ _ _ _ _) (by decide) ?_
      exact Only.refl _ _
    · with_reducible refine NextOnly.ite ?_ ?_
      · with_reducible refine NextOnly.step (writeReg_only _ _ _ _ _) (by decide) ?_
        exact Only.refl _ _
      · with_reducible refine NextOnly.step (writeReg_only _ _ _ _ _) (by decide) ?_
        exact Only.refl _ _

theorem writeUpper_only (s : State) (who : Who) (off : Nat) (v : Nat) : NextOnly writeRegParts s (writeUpper s who off v)
    := by
  unfold writeUpper
  with_reducible refine NextOnly.ite ?_ ?_
  · with_reducible refine NextOnly.step (writeWord_only _ _ _ _) (by decide) ?_
    exact Only.refl _ _
  · with_reducible refine NextOnly.next ?_
    with_reducible refine Only.step (accessDenied_only _) (by decide) ?_
    exact Only.refl _ _

theorem writePair_only (s : State) (who : Who) (off : Nat) (d : W64) : NextOnly writeRegParts s (writeDouble.writePair s who off d) := by
  unfold writeDouble.writePair
  split
  · rename_i t e
    exact NextOnly.step (writeUpper_only _ _ _ _) (by decide) (Only.step (writeWord_only _ _ _ _ t e) (by decide) (Only.refl _ _))
  · exact NextOnly.step (writeWord_only _ _ _ _) (by decide) (Only.refl _ _)

theorem writeDouble_only (s : State) (who : Who) (off : Nat) (d : W64) : NextOnly writeRegParts s (writeDouble s who off d)
    := by
  unfold writeDouble
  split
  · with_reducible refine NextOnly.ite ?_ ?_
    · with_reducible refine NextOnly.step (writeReg_only _ _ _ _ _) (by decide) ?_
      exact Only.refl _ _
    · with_reducible refine NextOnly.step (writePair_only _ _ _ _) (by decide) ?_
      exact Only.refl _ _
  · with_reducible refine NextOnly.step (writePair_only _ _ _ _) (by decide) ?_
    exact Only.refl _ _

theorem execRegisterWrite_only (who : Who) (off : BitVec 26) (wide : Bool) (data : W64) (s : State) : NextOnly
    writeRegParts s (execRegisterWrite who off wide data s) := by
  unfold execRegisterWrite
  split
  · with_reducible refine NextOnly.next ?_
    with_reducible refine Only.step (AccessOnly.of_ignored (hostCheck_only _ _ _ _ _) (by assumption)) (by decide) ?_
    exact Only.refl _ _
  · with_reducible refine NextOnly.ite ?_ ?_
    · with_reducible refine NextOnly.step (writeDouble_only _ _ _ _) (by decide) ?_
      exact Only.refl _ _
    · with_reducible refine NextOnly.step (writeWord_only _ _ _ _) (by decide) ?_
      exact Only.refl _ _

theorem execPendingWrite_only (who : Who) (view : ChView) (word : BitVec 4) (data : W64) (s : State) : NextOnly
    hostCheckParts s (execPendingWrite who view word data s) := by
  unfold execPendingWrite
  with_reducible refine NextOnly.next ?_
  with_reducible refine hostWrite_only (by decide) ?_ ?_
  · intro u0 
    with_reducible refine Only.step (pendBits_only _ _ _ _ _) (by decide) ?_
    exact Only.refl _ _
  · exact Only.refl _ _

theorem execMaskWrite_only (who : Who) (view : ChView) (word : BitVec 4) (data : W64) (s : State) : NextOnly hostCheckParts
    s (execMaskWrite who view word data s) := by
  unfold execMaskWrite
  with_reducible refine NextOnly.next ?_
  with_reducible refine hostWrite_only (by decide) ?_ ?_
  · intro u0 
    with_reducible refine Only.step (maskBits_only _ _ _ _ _) (by decide) ?_
    exact Only.refl _ _
  · exact Only.refl _ _

theorem execComplete_only (who : Who) (view : ChView) (data : W32) (s : State) : NextOnly hostCheckParts s (execComplete
    who view data s) := by
  unfold execComplete
  with_reducible refine NextOnly.next ?_
  with_reducible refine hostWrite_only (by decide) ?_ ?_
  · intro u0 
    with_reducible refine Only.step (chComplete_only _ _ _) (by decide) ?_
    exact Only.refl _ _
  · exact Only.refl _ _

theorem execSrcCfgWrite_only (who : Who) (source : BitVec 10) (data : W32) (s : State) : NextOnly hostCheckParts s
    (execSrcCfgWrite who source data s) := by
  unfold execSrcCfgWrite
  with_reducible refine NextOnly.next ?_
  with_reducible refine hostWrite_only (by decide) ?_ ?_
  · intro u0 
    with_reducible refine Only.step (srcConfig_only _ _ _) (by decide) ?_
    exact Only.refl _ _
  · exact Only.refl _ _

theorem modExpire_only (s : State) (t : Nat) : Only setSrcParts s (modExpire s t) := by
  unfold modExpire
  extract_lets -merge +onlyGivenNames x0
  try clear_value x0
  with_reducible refine Only.ite ?_ ?_
  · with_reducible refine Only.step (chEval_only _) (by decide) ?_
    with_reducible refine Only.step (State.setTarget_only _ _ _) (by decide) ?_
    exact Only.refl _ _
  · exact Only.refl _ _

theorem execModerationTimeout_only (target : BitVec 3) (s : State) : NextOnly setSrcParts s (execModerationTimeout target
    s) := by
  unfold execModerationTimeout
  with_reducible refine NextOnly.next ?_
  with_reducible refine Only.step (modExpire_only _ _) (by decide) ?_
  exact Only.refl _ _

theorem execChIdle_only (target : BitVec 3) (level : Bool) (s : State) : NextOnly setSrcParts s (execChIdle target level s)
    := by
  unfold execChIdle
  extract_lets -merge +onlyGivenNames x0
  try clear_value x0
  extract_lets -merge +onlyGivenNames _ s1
  have h2 : Only setSrcParts s s1 := by
    unfold s1
    with_reducible refine Only.step (State.setTarget_only _ _ _) (by decide) ?_
    exact Only.refl _ _
  try clear_value s1
  with_reducible refine NextOnly.next ?_
  with_reducible refine Only.ite ?_ ?_
  · with_reducible refine Only.step (chEval_only _) (by decide) ?_
    exact h2
  · exact h2

/-- What `execPmReset` may change. -/
def execPmResetParts : List Field := [.boot, .kp, .chime, .obs, .obsCfg]

theorem execPmReset_only (who : Who) (s : State) : NextOnly execPmResetParts s (execPmReset who s) := by
  unfold execPmReset
  with_reducible refine NextOnly.next ?_
  with_reducible refine hostWrite_only (by decide) ?_ ?_
  · intro u0 
    with_reducible refine Only.step (pmClear_only _) (by decide) ?_
    exact Only.refl _ _
  · exact Only.refl _ _

theorem execTraceOff_only (who : Who) (s : State) : NextOnly execStartParts s (execTraceOff who s) := by
  unfold execTraceOff
  with_reducible refine NextOnly.next ?_
  with_reducible refine hostWrite_only (by decide) ?_ ?_
  · intro u0 
    with_reducible refine Only.step (traceCommand_only _ _ _) (by decide) ?_
    exact Only.refl _ _
  · exact Only.refl _ _

theorem execTraceEvents_only (who : Who) (s : State) : NextOnly execStartParts s (execTraceEvents who s) := by
  unfold execTraceEvents
  with_reducible refine NextOnly.next ?_
  with_reducible refine hostWrite_only (by decide) ?_ ?_
  · intro u0 
    with_reducible refine Only.step (traceCommand_only _ _ _) (by decide) ?_
    exact Only.refl _ _
  · exact Only.refl _ _

theorem execTraceFull_only (who : Who) (cores : BitVec 16) (s : State) : NextOnly execStartParts s (execTraceFull who cores
    s) := by
  unfold execTraceFull
  with_reducible refine NextOnly.next ?_
  with_reducible refine hostWrite_only (by decide) ?_ ?_
  · intro u0 
    with_reducible refine Only.step (traceCommand_only _ _ _) (by decide) ?_
    exact Only.refl _ _
  · exact Only.refl _ _

theorem tracePop_only (s : State) (k : Nat) : Only snapBeginParts s (tracePop s k) := by
  unfold tracePop
  extract_lets -merge +onlyGivenNames x0
  try clear_value x0
  with_reducible refine Only.set_obs (by decide) ?_
  exact Only.refl _ _

theorem frameSend_only (s : State) : Only emitFrameParts s (frameSend s) := by
  unfold frameSend
  split
  · with_reducible refine Only.step (emitFrame_only _ _ _) (by decide) ?_
    exact Only.refl _ _
  · with_reducible refine Only.ite ?_ ?_
    · with_reducible refine Only.step (emitFrame_only _ _ _) (by decide) ?_
      exact Only.refl _ _
    · split
      · with_reducible refine Only.step (emitFrame_only _ _ _) (by decide) ?_
        with_reducible refine Only.step (tracePop_only _ _) (by decide) ?_
        exact Only.refl _ _
      · exact Only.refl _ _

theorem execTraceFrameSend_only (s : State) : NextOnly emitFrameParts s (execTraceFrameSend s) := by
  unfold execTraceFrameSend
  with_reducible refine NextOnly.next ?_
  with_reducible refine Only.ite ?_ ?_
  · with_reducible refine Only.step (frameSend_only _) (by decide) ?_
    exact Only.refl _ _
  · exact Only.refl _ _

theorem execTake_only (who : Who) (s : State) : NextOnly execPmResetParts s (execTake who s) := by
  unfold execTake
  with_reducible refine NextOnly.next ?_
  with_reducible refine hostWrite_only (by decide) ?_ ?_
  · intro u0 
    with_reducible refine Only.step (snapBegin_only _) (by decide) ?_
    exact Only.refl _ _
  · exact Only.refl _ _

/-- What `snapEnd` may change. -/
def snapEndParts : List Field := [.writes, .mem, .poison, .au, .pool, .gens, .insts, .chime, .obs, .obsCfg]

theorem snapEnd_only (s : State) : Only snapEndParts s (snapEnd s) := by
  unfold snapEnd
  extract_lets -merge +onlyGivenNames x0
  try clear_value x0
  extract_lets -merge +onlyGivenNames x1
  try clear_value x1
  extract_lets -merge +onlyGivenNames s2
  have h3 : Only snapEndParts s s2 := by
    unfold s2
    with_reducible refine Only.step (blockWrite_only _ _ _ _ _ _ _ _) (by decide) ?_
    exact Only.refl _ _
  try clear_value s2
  with_reducible refine Only.set_obs (by decide) ?_
  exact h3

theorem execSnapshotDone_only (s : State) : NextOnly snapEndParts s (execSnapshotDone s) := by
  unfold execSnapshotDone
  with_reducible refine NextOnly.ite ?_ ?_
  · with_reducible refine NextOnly.ite ?_ ?_
    · with_reducible refine NextOnly.next ?_
      with_reducible refine Only.step (snapEnd_only _) (by decide) ?_
      exact Only.refl _ _
    · exact NextOnly.fault _
  · with_reducible refine NextOnly.next ?_
    exact Only.refl _ _

/-- What `execHaltAll` may change. -/
def execHaltAllParts : List Field := [.boot, .kp, .tw, .chime, .obs, .obsCfg]

theorem execHaltAll_only (who : Who) (s : State) : NextOnly execHaltAllParts s (execHaltAll who s) := by
  unfold execHaltAll
  with_reducible refine NextOnly.next ?_
  with_reducible refine hostWrite_only (by decide) ?_ ?_
  · intro u0 
    with_reducible refine Only.step (haltRaise_only _) (by decide) ?_
    exact Only.refl _ _
  · exact Only.refl _ _

/-- What `execDbgRelease` may change. -/
def execDbgReleaseParts : List Field := [.boot, .run, .kp, .jobs, .cores, .chime, .obs, .freeCount]

theorem execDbgRelease_only (who : Who) (cores : BitVec 16) (s : State) : NextOnly execDbgReleaseParts s (execDbgRelease
    who cores s) := by
  unfold execDbgRelease
  with_reducible refine NextOnly.next ?_
  with_reducible refine hostWrite_only (by decide) ?_ ?_
  · intro u0 
    with_reducible refine Only.step (dbgReleaseCores_only _ _) (by decide) ?_
    exact Only.refl _ _
  · exact Only.refl _ _

/-- What `tapBypass` may change. -/
def tapBypassParts : List Field := [.tap]

theorem tapBypass_only (s : State) (tdi : Bool) : Only tapBypassParts s (tapBypass s tdi) := by
  unfold tapBypass
  with_reducible refine Only.set_tap (by decide) ?_
  exact Only.refl _ _

theorem execBypass_only (tdi : Bool) (s : State) : NextOnly tapBypassParts s (execBypass tdi s) := by
  unfold execBypass
  with_reducible refine NextOnly.next ?_
  with_reducible refine Only.ite ?_ ?_
  · with_reducible refine Only.step (tapBypass_only _ _) (by decide) ?_
    exact Only.refl _ _
  · exact Only.refl _ _

theorem tapTake_only (s : State) (ir : BitVec 8) (dr : List W64) : Only tapBypassParts s (tapTake s ir dr) := by
  unfold tapTake
  with_reducible refine Only.set_tap (by decide) ?_
  exact Only.refl _ _

theorem execIdcode_only (s : State) : NextOnly tapBypassParts s (execIdcode s) := by
  unfold execIdcode
  with_reducible refine NextOnly.next ?_
  with_reducible refine Only.ite ?_ ?_
  · with_reducible refine Only.step (tapTake_only _ _ _) (by decide) ?_
    exact Only.refl _ _
  · exact Only.refl _ _

theorem execStatus_only (s : State) : NextOnly tapBypassParts s (execStatus s) := by
  unfold execStatus
  with_reducible refine NextOnly.next ?_
  with_reducible refine Only.ite ?_ ?_
  · with_reducible refine Only.step (tapTake_only _ _ _) (by decide) ?_
    exact Only.refl _ _
  · exact Only.refl _ _

theorem execChallenge_only (s : State) : NextOnly tapBypassParts s (execChallenge s) := by
  unfold execChallenge
  with_reducible refine NextOnly.next ?_
  with_reducible refine Only.ite ?_ ?_
  · with_reducible refine Only.step (tapTake_only _ _ _) (by decide) ?_
    exact Only.refl _ _
  · exact Only.refl _ _

/-- What `execResponse` may change. -/
def execResponseParts : List Field := [.sec, .tap]

theorem execResponse_only (bytes : List Byte) (s : State) : NextOnly execResponseParts s (execResponse bytes s) := by
  unfold execResponse
  with_reducible refine NextOnly.next ?_
  with_reducible refine Only.ite ?_ ?_
  · with_reducible refine Only.step (tapTake_only _ _ _) (by decide) ?_
    with_reducible refine Only.set_sec (by decide) ?_
    exact Only.refl _ _
  · exact Only.refl _ _

/-- What `execTapUnlock` may change. -/
def execTapUnlockParts : List Field := [.au, .run, .insts, .jobs, .cores, .sec, .chime, .obs, .tap, .freeCount,
  .obsCfg, .auIdle]

theorem execTapUnlock_only (update : Bool) (v : Unit) (s : State) : NextOnly execTapUnlockParts s (execTapUnlock update v s) := by
  unfold execTapUnlock
  with_reducible refine NextOnly.next ?_
  with_reducible refine Only.ite ?_ ?_
  · extract_lets -merge +onlyGivenNames s0
    have h1 : Only execTapUnlockParts s s0 := by
      unfold s0
      with_reducible refine Only.step (tapTake_only _ _ _) (by decide) ?_
      exact Only.refl _ _
    try clear_value s0
    with_reducible refine Only.ite ?_ ?_
    · with_reducible refine Only.step (unlockWith_only _ _ _) (by decide) ?_
      exact h1
    · exact h1
  · exact Only.refl _ _

/-- What `tapUnlocked` may change. -/
def tapUnlockedParts : List Field := [.au, .run, .insts, .jobs, .cores, .sec, .chime, .obs, .tap, .freeCount, .auIdle]

theorem tapUnlocked_only {l : List Field} {b s : State} {f : State → State}
    (hl : ((tapBypassParts ++ tamperActParts).all fun f => decide (f ∈ l)) = true) (hf : ∀ u, Only l u (f u))
    (h : Only l b s) : Only l b (tapUnlocked s f) := by
  rw [List.all_append, Bool.and_eq_true] at hl
  unfold tapUnlocked
  refine Only.ite h (Only.ite ?_ (Only.ite (h.trans (hf s)) h))
  exact Only.step (tapBypass_only _ _) hl.1 (Only.step (tamperRaise_only _ _) hl.2 h)

/-- What `execTapHaltAll` may change. -/
def execTapHaltAllParts : List Field := [.au, .run, .insts, .jobs, .cores, .sec, .tw, .chime, .obs, .tap, .freeCount,
  .obsCfg, .auIdle]

theorem execTapHaltAll_only (update : Bool) (s : State) : NextOnly execTapHaltAllParts s (execTapHaltAll update s) := by
  unfold execTapHaltAll
  with_reducible refine NextOnly.next ?_
  with_reducible refine tapUnlocked_only (by decide) ?_ ?_
  · intro u0 
    extract_lets -merge +onlyGivenNames s1
    have h2 : Only execTapHaltAllParts u0 s1 := by
      unfold s1
      with_reducible refine Only.step (tapTake_only _ _ _) (by decide) ?_
      exact Only.refl _ _
    try clear_value s1
    with_reducible refine Only.ite ?_ ?_
    · with_reducible refine Only.step (haltRaise_only _) (by decide) ?_
      exact h2
    · exact h2
  · exact Only.refl _ _

theorem execScanSel_only (chain : BitVec 16) (s : State) : NextOnly tapUnlockedParts s (execScanSel chain s) := by
  unfold execScanSel
  with_reducible refine NextOnly.next ?_
  with_reducible refine tapUnlocked_only (by decide) ?_ ?_
  · intro u0 
    extract_lets -merge +onlyGivenNames x1
    extract_lets -merge +onlyGivenNames s2
    have h3 : Only tapUnlockedParts u0 s2 := by
      unfold s2
      with_reducible refine Only.step (tapTake_only _ _ _) (by decide) ?_
      with_reducible refine Only.step (State.drawWord_only _) (by decide) ?_
      exact Only.refl _ _
    try clear_value s2
    with_reducible refine Only.set_tap (by decide) ?_
    exact h3
  · exact Only.refl _ _

theorem execScanData_only (s : State) : NextOnly tapUnlockedParts s (execScanData s) := by
  unfold execScanData
  with_reducible refine NextOnly.next ?_
  with_reducible refine tapUnlocked_only (by decide) ?_ ?_
  · intro u0 
    extract_lets -merge +onlyGivenNames x1
    with_reducible refine Only.step (tapTake_only _ _ _) (by decide) ?_
    with_reducible refine Only.step (State.drawWord_only _) (by decide) ?_
    exact Only.refl _ _
  · exact Only.refl _ _

theorem execScratchAddr_only (value : W32) (s : State) : NextOnly tapUnlockedParts s (execScratchAddr value s) := by
  unfold execScratchAddr
  with_reducible refine NextOnly.next ?_
  with_reducible refine tapUnlocked_only (by decide) ?_ ?_
  · intro u0 
    extract_lets -merge +onlyGivenNames s1
    have h2 : Only tapUnlockedParts u0 s1 := by
      unfold s1
      with_reducible refine Only.step (tapTake_only _ _ _) (by decide) ?_
      exact Only.refl _ _
    try clear_value s1
    with_reducible refine Only.set_tap (by decide) ?_
    exact h2
  · exact Only.refl _ _

theorem execScratchData_only (s : State) : NextOnly tapUnlockedParts s (execScratchData s) := by
  unfold execScratchData
  with_reducible refine NextOnly.next ?_
  with_reducible refine tapUnlocked_only (by decide) ?_ ?_
  · intro u0 
    extract_lets -merge +onlyGivenNames x1
    extract_lets -merge +onlyGivenNames s2
    have h3 : Only tapUnlockedParts u0 s2 := by
      unfold s2
      with_reducible refine Only.step (tapTake_only _ _ _) (by decide) ?_
      with_reducible refine Only.step (State.drawWords_only _ _) (by decide) ?_
      exact Only.refl _ _
    try clear_value s2
    with_reducible refine Only.set_tap (by decide) ?_
    exact h3
  · exact Only.refl _ _

end Sys2Proof.Machine
end

