-- ==== Sys2Proof/Laws/Stop.lean ====
section
/-! SUPPORT. What a stop of the whole block does: every job has a kill in progress, admission is idle, and FR_STOP holds the
cause (R430). -/

namespace Sys2Proof.Machine

/-- Job m, if it stands on a core, is being killed. -/
def Killed (s : State) (m : Nat) : Prop := ∀ j, s.job m = some j → j.cores ≠ [] → j.kill ≠ none

theorem Job.killable_iff (j : Job) : j.killable = true ↔ j.kill = none ∧ j.cores ≠ [] := by
  unfold Job.killable
  rw [Bool.and_eq_true, Bool.not_eq_true', List.isEmpty_eq_false_iff, Option.isNone_iff_eq_none]

theorem Killed.of_jobs {s t : State} {m : Nat} (h : t.jobs = s.jobs) (g : Killed s m) : Killed t m := by
  intro j e c
  exact g j (by unfold State.job at *; rwa [h] at e) c

theorem killOne_jobs (s : State) (n : Nat) (why : KillWhy) (code : BitVec 16) (detail : W64) (co : Bool) (j : Job)
    (e : s.job n = some j) (h : j.killable = true) : (killOne s n why code detail co).jobs = tput s.jobs n { j with
      kill := some why, killCode := code, detail := detail, coKilled := co, killing := j.cores, deferred := false,
      arrivals := j.arrivals.filter fun a => (s.flight a.1).round == a.2 } := by
  unfold killOne
  rw [e]
  simp only [h, Bool.not_true, Bool.false_eq_true, if_false]
  exact (stopCores_only _ _) .jobs (by decide)

theorem killOne_killed (s : State) (n : Nat) (why : KillWhy) (code : BitVec 16) (detail : W64) (co : Bool) (m : Nat)
    (h : Killed s m ∨ m = n) : Killed (killOne s n why code detail co) m := by
  cases e : s.job n with
  | none =>
    have : killOne s n why code detail co = s := by unfold killOne; rw [e]
    rw [this]
    rcases h with h | rfl
    · exact h
    · intro j g; rw [e] at g; cases g
  | some j =>
    by_cases k : j.killable = true
    · have w := killOne_jobs s n why code detail co j e k
      intro i g
      unfold State.job at g
      rw [w] at g
      by_cases q : m = n
      · subst q
        rw [tfind_tput_self] at g
        cases g
        intro _
        simp
      · rw [tfind_tput_ne _ _ _ _ q] at g
        exact (h.resolve_right q) i g
    · have : killOne s n why code detail co = s := by
        unfold killOne
        rw [e]
        exact if_pos (by simpa using k)
      rw [this]
      rcases h with h | rfl
      · exact h
      · intro i g hc hk; rw [e] at g; cases g; exact k ((Job.killable_iff _).2 ⟨hk, hc⟩)

theorem reportKill_jobs (s : State) (j : Job) (code : BitVec 16) (co : Bool) : (reportKill s j code co).jobs = s.jobs :=
  (reportKill_only _ _ _ _) .jobs (by decide)

theorem coKill_killed (s : State) (n : Nat) (code : BitVec 16) (m : Nat) (h : Killed s m) : Killed (coKill s n code) m := by
  unfold coKill
  split
  · exact h
  · split
    · exact h
    · exact killOne_killed _ _ _ _ _ _ _ (Or.inl (h.of_jobs (reportKill_jobs _ _ _ _)))

theorem killGraph_killed (s : State) (g : Nat) (code : BitVec 16) (m : Nat) (h : Killed s m) : Killed (killGraph s g code) m := by
  unfold killGraph
  generalize s.graphJobs g = l
  have h0 : Killed ((pmGlobal s 15 1).modRun fun r => { r with killedGraphs := insertNat g r.killedGraphs }) m :=
    h.of_jobs ((pmGlobal_only s 15 1) .jobs (by decide))
  generalize (pmGlobal s 15 1).modRun (fun r => { r with killedGraphs := insertNat g r.killedGraphs }) = u at h0
  induction l generalizing u with
  | nil => exact h0
  | cons x r ih => exact ih _ (coKill_killed u x _ m h0)

theorem killJob_killed (s : State) (n : Nat) (why : KillWhy) (code : BitVec 16) (detail : W64) (m : Nat)
    (h : Killed s m ∨ m = n) : Killed (killJob s n why code detail) m := by
  have k1 := killOne_killed s n why code detail false m h
  unfold killJob
  cases e : s.job n with
  | none =>
    rcases h with h | rfl
    · exact h
    · intro j g; rw [e] at g; cases g
  | some j =>
    dsimp only
    split
    · rename_i k
      rcases h with h | rfl
      · exact h
      · intro i g hc hk; rw [e] at g; cases g
        rw [(Job.killable_iff _).2 ⟨hk, hc⟩] at k; cases k
    · cases j.kind with
      | free q c f => exact k1
      | station st =>
        dsimp only
        split
        · exact killGraph_killed _ _ _ m k1
        · exact k1

theorem killJobs_killed (s : State) (l : List Nat) (why : KillWhy) (code : BitVec 16) (m : Nat) (h : Killed s m ∨ m ∈ l) :
    Killed (killJobs s l why code) m := by
  unfold killJobs
  induction l generalizing s with
  | nil => exact h.resolve_right (by simp)
  | cons x r ih =>
    refine ih _ ?_
    rcases h with h | h
    · exact Or.inl (killJob_killed _ _ _ _ _ _ (Or.inl h))
    · rcases List.mem_cons.1 h with rfl | h
      · exact Or.inl (killJob_killed _ _ _ _ _ _ (Or.inr rfl))
      · exact Or.inr h

theorem tfind_mem {α : Type} (t : List (Nat × α)) (k : Nat) (v : α) (h : tfind t k = some v) : k ∈ t.map fun x => x.1 := by
  induction t with
  | nil => cases h
  | cons x r ih =>
    obtain ⟨a, w⟩ := x
    simp only [tfind] at h
    split at h
    · rename_i e; simp [e]
    · exact List.mem_cons_of_mem _ (ih h)

/-- After a stop of everything no job is left without a kill (R430, R492). -/
theorem stopAll_killed (s : State) (code : BitVec 16) (m : Nat) : Killed (stopAll s code) m := by
  unfold stopAll
  have h : Killed (killJobs (auStop s) s.allJobs .stop code) m := by
    apply killJobs_killed
    by_cases e : ∃ j, s.job m = some j
    · exact Or.inr (tfind_mem _ _ _ e.choose_spec)
    · exact Or.inl fun j g => absurd ⟨j, g⟩ e
  dsimp only
  generalize killJobs (auStop s) s.allJobs .stop code = u at h
  generalize List.range 8 = l
  induction l generalizing u with
  | nil => exact h
  | cons x r ih => exact ih _ (h.of_jobs ((killCopy_only u x code) .jobs (by decide)))

theorem stopAll_au (s : State) (code : BitVec 16) : (stopAll s code).au = (auStop s).au := by
  unfold stopAll
  have h : (killJobs (auStop s) s.allJobs .stop code).au = (auStop s).au := (killJobs_only _ _ _ _) .au (by decide)
  dsimp only
  rw [← h]
  have hi : (killJobs (auStop s) s.allJobs .stop code).au.state = .idle := by rw [h]; rfl
  generalize killJobs (auStop s) s.allJobs .stop code = u at hi
  generalize List.range 8 = l
  induction l generalizing u with
  | nil => rfl
  | cons x r ih =>
    have k : (killCopy u x code).au = u.au := (killCopy_only u x code) .auIdle (by decide) hi
    rw [List.foldl_cons, ih _ (by rw [k]; exact hi), k]

theorem linkSend_gate (s : State) (n : Nat) (m : LinkMsg) : (linkSend s n m).tw.gateClosed = s.tw.gateClosed := by
  have h : (countAuth s n m).tw.gateClosed = s.tw.gateClosed := by
    unfold countAuth
    split <;> rfl
  unfold linkSend
  extract_lets l
  split
  · rfl
  · split
    · split <;> rfl
    · split
      · exact h
      · rfl

/-- The recovery stop (R430). -/
theorem recoveryStop_stops (s : State) (c : StopCause) (unit : Option Nat) (addr : Nat) (h : s.fr.stopped = false) :
    StopsBlock s (recoveryStop s c unit addr) c.cause c.sequencer c.port ∧ (recoveryStop s c unit addr).fr.stopCode = c.code := by
  have ho := recoveryStop_only s c unit addr
  generalize hr : recoveryStop s c unit addr = r at ho ⊢
  unfold recoveryStop at hr
  rw [if_neg (by simp [h])] at hr
  extract_lets -merge +onlyGivenNames s1 w _ s2 s3 _ s4 s5 at hr
  have e1 : s1.esc = s.esc := (errRecord_only _ _ _ _ _ _ _) .esc (by decide)
  have e3 : s3.esc = s.esc ∧ s3.tw.gateClosed = true := by
    have : s3.esc = s2.esc ∧ s3.tw.gateClosed = s2.tw.gateClosed := by
      unfold s3
      split
      · refine ⟨(twYield_only _ _) .esc (by decide), ?_⟩
        exact linkSend_gate _ _ _
      · exact ⟨rfl, rfl⟩
    exact ⟨this.1.trans e1, this.2⟩
  have e4 : s4.esc = s.esc ∧ s4.tw.gateClosed = true ∧ s4.fr.stopped = true ∧ s4.au.state = .idle ∧ s4.au.cand = none ∧
      ∀ n, Killed s4 n := by
    obtain ⟨u, hu, h1, h2, h3⟩ : ∃ u, s4 = stopAll u c.code ∧ u.esc = s3.esc ∧ u.tw = s3.tw ∧ u.fr.stopped = true :=
      ⟨_, rfl, rfl, rfl, rfl⟩
    rw [hu]
    clear hu
    clear_value s4 s3
    have k := stopAll_only u c.code
    have kt : (stopAll u c.code).tw = u.tw := k .tw (by decide)
    have kf : FrKept u.fr (stopAll u c.code).fr := k .frCfg (by decide)
    refine ⟨((k .esc (by decide) : (stopAll u c.code).esc = u.esc).trans h1).trans e3.1, ?_, ?_, ?_, ?_,
      fun n => stopAll_killed _ _ n⟩
    · rw [kt, h2]; exact e3.2
    · exact (congrArg Fr.stopped kf).trans h3
    · rw [stopAll_au]; rfl
    · rw [stopAll_au]; rfl
  clear_value s4
  have e5 : Only [.obs, .obsCfg] s4 s5 := by
    unfold s5
    with_reducible refine Only.ite ?_ ?_
    · with_reducible refine Only.step (snapBegin_only _) (by decide) ?_
      exact Only.refl _ _
    · exact Only.refl _ _
  clear_value s5
  generalize hu : ({ s5 with fr := { s5.fr with
      stopValid := true, stopCause := c.cause, stopSeq := c.sequencer, stopPort := c.port,
      stopBeat := s5.esc.beatCount.setWidth 32, stopCode := c.code } } : State) = u at hr
  subst hr
  have k := chSample_only u 101
  have kf : (chSample u 101).fr = u.fr := k .fr (by decide)
  have ka : (chSample u 101).au = s4.au := (k .au (by decide)).trans (by rw [← hu]; exact e5 .au (by decide))
  have kt : (chSample u 101).tw = s4.tw := (k .tw (by decide)).trans (by rw [← hu]; exact e5 .tw (by decide))
  have kj : (chSample u 101).jobs = s4.jobs := (k .jobs (by decide)).trans (by rw [← hu]; exact e5 .jobs (by decide))
  refine ⟨⟨?_, ?_, ?_, ?_, ?_, ?_, ?_, ?_, ?_, ?_, ?_⟩, ?_⟩
  · rw [kf, ← hu]
    exact (congrArg Fr.stopped (e5 .fr (by decide))).trans e4.2.2.1
  · rw [kf, ← hu]
  · rw [kf, ← hu]
  · rw [kf, ← hu]
  · rw [kf, ← hu]
  · rw [kf, ← hu]
    dsimp only
    rw [show s5.esc = s4.esc from e5 .esc (by decide), e4.1]
  · rw [kt]; exact e4.2.1
  · rw [ka]; exact e4.2.2.2.1
  · rw [ka]; exact e4.2.2.2.2.1
  · intro n j g
    exact (e4.2.2.2.2.2 n).of_jobs kj j g
  · exact ho
  · rw [kf, ← hu]

end Sys2Proof.Machine
end

