-- ==== Sys2Proof/Laws/Pump.lean ====
section
/-! SUPPORT. What starting and completing commands leaves alone: the order of every queue's commands, and every command that
is complete already (R257, R274). -/

namespace Sys2Proof.Machine

/-- What of a command never changes while it stands in its queue. -/
def Cmd.key (c : Cmd) : Nat × W32 × BitVec 16 × Bool × Bool × Body × Option Nat :=
  (c.seqNo, c.index, c.tag, c.notify, c.overlap, c.body, c.inner)

/-- The keys of a queue's commands in their order. -/
def Queue.keys (q : Queue) : List (Nat × W32 × BitVec 16 × Bool × Bool × Body × Option Nat) := q.cmds.map Cmd.key

theorem keys_seqNo {a b : Queue} (h : a.keys = b.keys) : (a.cmds.map fun c => c.seqNo) = b.cmds.map fun c => c.seqNo := by
  have := congrArg (List.map fun k => k.1) h
  unfold Queue.keys at this
  rwa [List.map_map, List.map_map] at this

/-- Every queue of t has the commands of s in their order, and the finished ones as they were, but for an INDIRECT: a packet
that fails can still fail it (R291). -/
def CmdsKept (s t : State) : Prop :=
  ∀ n, (t.queue n).keys = (s.queue n).keys ∧
    ∀ c ∈ (s.queue n).cmds, c.isDone = true → c.isIndirect = false → c ∈ (t.queue n).cmds

theorem CmdsKept.refl (s : State) : CmdsKept s s := fun _ => ⟨rfl, fun _ h _ _ => h⟩

theorem CmdsKept.trans {s t u : State} (h : CmdsKept s t) (g : CmdsKept t u) : CmdsKept s u :=
  fun n => ⟨(g n).1.trans (h n).1, fun c hc hd hi => (g n).2 c ((h n).2 c hc hd hi) hd hi⟩

theorem CmdsKept.of_queues {s t : State} (h : t.queues = s.queues) : CmdsKept s t := by
  intro n
  unfold State.queue
  rw [h]
  exact ⟨rfl, fun _ h _ _ => h⟩

theorem CmdsKept.distinct {s t : State} (h : CmdsKept s t) (d : DistinctCmds s) : DistinctCmds t := by
  intro n
  rw [keys_seqNo (h n).1]
  exact d n

theorem CmdsKept.foldl {α : Type} (f : State → α → State) (h : ∀ s x, DistinctCmds s → CmdsKept s (f s x)) (l : List α)
    (s : State) (d : DistinctCmds s) : CmdsKept s (l.foldl f s) := by
  induction l generalizing s with
  | nil => exact CmdsKept.refl s
  | cons x r ih => exact (h s x d).trans (ih _ ((h s x d).distinct d))

theorem setQueue_kept (s : State) (n : Nat) (q : Queue) (h1 : q.keys = (s.queue n).keys)
    (h2 : ∀ c ∈ (s.queue n).cmds, c.isDone = true → c.isIndirect = false → c ∈ q.cmds) : CmdsKept s (s.setQueue n q) := by
  intro m
  by_cases e : m = n
  · subst e
    rw [show (s.setQueue m q).queue m = q from tget_tput_self _ _ _ _]
    exact ⟨h1, h2⟩
  · rw [show (s.setQueue n q).queue m = s.queue m from tget_tput_ne _ _ _ _ _ e]
    exact ⟨rfl, fun _ h _ _ => h⟩

theorem modQueue_kept (s : State) (n : Nat) (f : Queue → Queue) (h : ∀ q, (f q).cmds = q.cmds) : CmdsKept s (s.modQueue n f) :=
  setQueue_kept s n _ (by unfold Queue.keys; rw [h]) (fun c hc _ _ => by rw [h]; exact hc)

theorem modCmd_keys (q : Queue) (k : Nat) (f : Cmd → Cmd) (h : ∀ c ∈ q.cmds, c.seqNo = k → (f c).key = c.key) :
    (q.modCmd k f).keys = q.keys := by
  unfold Queue.keys Queue.modCmd
  dsimp only
  rw [List.map_map]
  apply List.map_congr_left
  intro c hc
  dsimp only [Function.comp]
  split
  · rename_i e; exact h c hc e
  · rfl

theorem mem_modCmd {q : Queue} {k : Nat} {f : Cmd → Cmd} {c : Cmd} (h : c ∈ q.cmds) (e : c.seqNo ≠ k) : c ∈ (q.modCmd k f).cmds := by
  unfold Queue.modCmd
  exact List.mem_map.2 ⟨c, h, if_neg e⟩

theorem cmd_mem {q : Queue} {k : Nat} {c : Cmd} (h : q.cmd k = some c) : c ∈ q.cmds ∧ c.seqNo = k := by
  unfold Queue.cmd at h
  exact ⟨List.mem_of_find?_eq_some h, by simpa using List.find?_some h⟩

theorem eq_of_seqNo : ∀ {l : List Cmd}, (l.map fun c => c.seqNo).Nodup → ∀ {a b : Cmd}, a ∈ l → b ∈ l → a.seqNo = b.seqNo → a = b
  | [], _, _, _, h, _, _ => nomatch h
  | x :: r, d, a, b, ha, hb, e => by
    rw [List.map_cons, List.nodup_cons] at d
    rcases List.mem_cons.1 ha with rfl | ha' <;> rcases List.mem_cons.1 hb with rfl | hb'
    · rfl
    · exact absurd (List.mem_map.2 ⟨b, hb', e.symm⟩) d.1
    · exact absurd (List.mem_map.2 ⟨a, ha', e⟩) d.1
    · exact eq_of_seqNo d.2 ha' hb' e

/-- Changing one unfinished command keeps the others. -/
theorem modCmd_kept (s : State) (n k : Nat) (f : Cmd → Cmd) (c : Cmd) (d : DistinctCmds s) (hc : (s.queue n).cmd k = some c)
    (hd : c.isDone = false) (h : ∀ c, (f c).key = c.key) : CmdsKept s (s.modQueue n fun q => q.modCmd k f) := by
  refine setQueue_kept s n _ (modCmd_keys _ _ _ fun c _ _ => h c) ?_
  intro x hx dx _
  refine mem_modCmd hx ?_
  intro e
  obtain ⟨hm, he⟩ := cmd_mem hc
  have : x = c := eq_of_seqNo (d n) hx hm (e.trans he.symm)
  rw [this, hd] at dx
  cases dx

theorem completeCore_kept (s : State) (n k : Nat) (code : BitVec 16) (sub : Bool) (det : W64) (c : Cmd) (d : DistinctCmds s)
    (hc : (s.queue n).cmd k = some c) (hd : c.isDone = false) : CmdsKept s (completeCore s n k code sub det) := by
  unfold completeCore
  extract_lets -merge +onlyGivenNames s1
  have h : CmdsKept s s1 := modCmd_kept s n k _ c d hc hd (fun _ => rfl)
  clear_value s1
  split
  · exact h
  · exact h.trans (CmdsKept.of_queues ((pmBoth_only _ _ _ _) .queues (by decide)))

theorem innerFailed_key (o : Cmd) (k : Nat) (code : BitVec 16) (det : W64) : (o.innerFailed k code det).key = o.key := by
  unfold Cmd.innerFailed
  split <;> rfl

theorem failures_key (q : Queue) (o : Cmd) : (q.failures o).key = o.key := by
  unfold Queue.failures
  generalize q.innerOf o = l
  induction l generalizing o with
  | nil => rfl
  | cons x r ih =>
    rw [List.foldl_cons, ih]
    split
    · split
      · exact innerFailed_key _ _ _ _
      · rfl
    · rfl

/-- The command that a failing command's record belongs to. -/
theorem faultRecord_kept (s : State) (n k : Nat) (d : DistinctCmds s) {u : State} (hu : CmdsKept u s)
    (hk : ∀ c ∈ (u.queue n).cmds, c.isDone = true → c.isIndirect = false → c.seqNo ≠ k) : CmdsKept u (faultRecord s n k) := by
  have base : ∀ c : Cmd, (∀ x ∈ (u.queue n).cmds, x.isDone = true → x.isIndirect = false → x.seqNo ≠ c.seqNo) →
      (∀ x ∈ (s.queue n).cmds, x.seqNo = c.seqNo → x.key = c.key) → CmdsKept u (writeFault s n c) := by
    intro c hx hk'
    unfold writeFault
    dsimp only
    have h1 : CmdsKept u (s.modQueue n fun q => q.modCmd c.seqNo fun _ => { c with
        ctxFault := true, phase := .recorded, refs := [], endTime := s.esc.time }) := by
      intro m
      by_cases e : m = n
      · subst e
        rw [show ∀ q, (s.modQueue m q).queue m = q (s.queue m) from fun q => tget_tput_self _ _ _ _]
        refine ⟨Eq.trans (by exact modCmd_keys _ _ _ (fun x hm e => (hk' x hm e).symm)) (hu m).1, fun x h1 h2 h3 => ?_⟩
        exact mem_modCmd ((hu m).2 x h1 h2 h3) (hx x h1 h2 h3)
      · rw [show ∀ q, (s.modQueue n q).queue m = s.queue m from fun q => tget_tput_ne _ _ _ _ _ e]
        exact hu m
    refine h1.trans (CmdsKept.of_queues ?_)
    exact ((ctxFault_only _ _ _) .queues (by decide)).trans ((writeRecordTail_only _ _ _) .queues (by decide))
  unfold faultRecord
  split
  · exact hu
  · rename_i c hc
    split
    · refine base c ?_ fun x hm e => congrArg Cmd.key (eq_of_seqNo (d n) hm (cmd_mem hc).1 e)
      rw [(cmd_mem hc).2]
      exact hk
    · split
      · rename_i o ho
        unfold Queue.outerOf at ho
        have hm : o ∈ (s.queue n).cmds := (List.dropWhile_sublist _).subset (List.mem_of_find?_eq_some ho)
        have hp : o.isIndirect = true := List.find?_some ho
        have hs := failures_key (s.queue n) o
        have hn : ((s.queue n).failures o).seqNo = o.seqNo := congrArg (fun k => k.1) hs
        refine base _ ?_ fun x hm' e => ?_
        rotate_left
        · rw [hs, eq_of_seqNo (d n) hm' hm (e.trans hn)]
        rw [hn]
        intro x h1 h2 h3 e
        have : x = o := eq_of_seqNo (d n) ((hu n).2 x h1 h2 h3) hm e
        rw [this, hp] at h3
        cases h3
      · exact hu

theorem completeWait_kept (s : State) (n k : Nat) (code : BitVec 16) (det : W64) (cont : Bool) (c : Cmd) (d : DistinctCmds s)
    (hc : (s.queue n).cmd k = some c) (hd : c.isDone = false) : CmdsKept s (completeWait s n k code det cont) := by
  unfold completeWait
  extract_lets -merge +onlyGivenNames s1 s2
  have h : CmdsKept s s1 := completeCore_kept s n k code false _ c d hc hd
  clear_value s1
  have h2 : CmdsKept s s2 := by
    unfold s2
    split
    · exact h
    · exact h.trans (CmdsKept.of_queues ((errRecord_only _ _ _ _ _ _ _) .queues (by decide)))
  clear_value s2
  split
  · refine faultRecord_kept _ n k (h2.distinct d) h2 ?_
    intro x h1 hx _ e
    obtain ⟨hm, he⟩ := cmd_mem hc
    have : x = c := eq_of_seqNo (d n) h1 hm (e.trans he.symm)
    rw [this, hd] at hx
    cases hx
  · exact h2

theorem pumpOne_kept (n : Nat) (s : State) (k : Nat) (d : DistinctCmds s) : CmdsKept s (pumpOne n s k) := by
  unfold pumpOne
  dsimp only
  split
  · exact CmdsKept.refl s
  · rename_i c hc
    split
    · exact CmdsKept.refl s
    · have start : c.isDone = false → CmdsKept s (s.setQueue n ((s.queue n).modCmd k fun c => { c with phase := .started })) :=
        fun hd => modCmd_kept s n k _ c d hc hd (fun _ => rfl)
      have done : ∀ code sub det, c.isDone = false → CmdsKept s (completeCore s n k code sub det) :=
        fun code sub det hd => completeCore_kept s n k code sub det c d hc hd
      split
      · rename_i hp
        have hd : c.isDone = false := by unfold Cmd.isDone; rw [hp]; rfl
        split
        · exact done _ _ _ hd
        · split
          · split
            · exact done _ _ _ hd
            · exact start hd
          · exact start hd
          · exact CmdsKept.refl s
      · rename_i hp
        have hd : c.isDone = false := by unfold Cmd.isDone; rw [hp]; rfl
        split
        · split
          · exact done _ _ _ hd
          · exact CmdsKept.refl s
        · split
          · exact modCmd_kept s n k _ c d hc hd (fun _ => rfl)
          · exact CmdsKept.refl s
        · rename_i b _ _
          split
          · have hw : (waitPoison s n c.body).queues = s.queues := (waitPoison_only _ _ _) .queues (by decide)
            have hq : (waitPoison s n c.body).queue n = s.queue n := by unfold State.queue; rw [hw]
            exact (CmdsKept.of_queues hw).trans (completeWait_kept _ n k _ _ _ c ((CmdsKept.of_queues hw).distinct d) (by rw [hq]; exact hc) hd)
          · exact CmdsKept.refl s
      · exact CmdsKept.refl s

/-- Starting what may start keeps every finished command (R274). -/
theorem pump_kept (s : State) (n : Nat) (d : DistinctCmds s) : CmdsKept s (pump s n) := by
  unfold pump
  refine (CmdsKept.foldl (pumpOne n) (fun s k d => pumpOne_kept n s k d) _ s d).trans (modQueue_kept _ n _ fun q => ?_)
  unfold Queue.waitOver
  split <;> rfl

theorem regQueue_kept (s : State) (n : Nat) : CmdsKept s (regQueue s n) := by
  unfold regQueue
  dsimp only
  split
  · exact setQueue_kept s n _ rfl (fun _ h _ _ => h)
  · split
    · refine (setQueue_kept s n { s.queue n with backlogged := false } rfl (fun _ h _ _ => h)).trans (CmdsKept.of_queues ?_)
      exact (gvUpdate_only _ _) .queues (by decide)
    · exact CmdsKept.refl s

theorem regEval_kept (s : State) (d : DistinctCmds s) : CmdsKept s (regEval s) :=
  CmdsKept.foldl regQueue (fun s n _ => regQueue_kept s n) _ s d

theorem pumpAll_kept (s : State) (d : DistinctCmds s) : CmdsKept s (pumpAll s) := by
  unfold pumpAll
  have h := CmdsKept.foldl pump (fun s n d => pump_kept s n d) (s.queues.map fun q => q.1) s d
  exact h.trans (regEval_kept _ (h.distinct d))

/-- A command as it stands once completed (R250, R278). -/
def Cmd.ended (c : Cmd) (code : BitVec 16) (submission : Bool) (detail time : W64) : Cmd :=
  { c with
    phase := .completed, code := code, submission := submission, detail := detail, refs := [], gen := none, pins := [],
    job := none, startTime := if c.phase = .fetched then time else c.startTime, endTime := time }

/-- Completing a command: it stands in its queue with its code and DETAIL, and the finished ones are as they were. -/
theorem completeCmd_spec (s : State) (n k : Nat) (code : BitVec 16) (sub : Bool) (det : W64) (c : Cmd) (d : DistinctCmds s)
    (hc : (s.queue n).cmd k = some c) (hd : c.isDone = false) (hi : c.isIndirect = false) : CmdsKept s (completeCmd s n k code sub det) ∧
    c.ended code sub det s.esc.time ∈ ((completeCmd s n k code sub det).queue n).cmds := by
  have h0 := completeCore_kept s n k code sub det c d hc hd
  have h1 : CmdsKept (completeCore s n k code sub det) (completeCmd s n k code sub det) := by
    unfold completeCmd
    have h := pump_kept _ n (h0.distinct d)
    exact h.trans (regEval_kept _ (h.distinct (h0.distinct d)))
  refine ⟨h0.trans h1, (h1 n).2 _ ?_ rfl hi⟩
  obtain ⟨hm, he⟩ := cmd_mem hc
  have hq : (completeCore s n k code sub det).queue n = (s.queue n).modCmd k fun c => c.ended code sub det s.esc.time := by
    unfold completeCore
    dsimp only
    split
    · exact tget_tput_self _ _ _ _
    · exact (congrArg (fun q => tget Queue.reset q n) ((pmBoth_only _ _ _ _) .queues (by decide))).trans (tget_tput_self _ _ _ _)
  rw [hq]
  unfold Queue.modCmd
  exact List.mem_map.2 ⟨c, hm, if_pos he⟩

end Sys2Proof.Machine
end

