-- ==== Sys2Proof/Laws/Seqs.lean ====
section
/-! SUPPORT. Commands are numbered apart: fetching a packet gives its command the next number, so every step keeps it. -/

namespace Sys2Proof.Machine

/-- A pushed command stands once beside the commands the queue had. -/
theorem push_cmds (q : Queue) (c : Cmd) : (q.push c).cmds.Perm (c :: q.cmds) := by
  unfold Queue.push
  split
  · exact List.perm_append_singleton c q.cmds
  · dsimp only
    refine List.perm_middle.trans (List.Perm.cons c ?_)
    rw [List.takeWhile_append_dropWhile]

theorem modQueue_self (s : State) (n : Nat) (f : Queue → Queue) : (s.modQueue n f).queue n = f (s.queue n) :=
  tget_tput_self _ _ _ _

theorem modQueue_ne (s : State) (n m : Nat) (f : Queue → Queue) (h : m ≠ n) : (s.modQueue n f).queue m = s.queue m :=
  tget_tput_ne _ _ _ _ _ h

/-- A command numbered with the next number keeps the commands of a queue numbered apart. -/
theorem pushed_numbered (s u : State) (qn : Nat) (c : Cmd) (hc : c.seqNo = s.rg.cmdSeq) (h : Numbered s)
    (hu : ∀ n, u.queue n = s.queue n) (hr : u.rg.cmdSeq = s.rg.cmdSeq + 1) :
    Numbered (u.modQueue qn fun q => (q.push c).drained) := by
  have key : ((s.queue qn).push c).cmds.Perm (c :: (s.queue qn).cmds) := push_cmds _ _
  have sub : SeqSub ((s.queue qn).push c).drained ((s.queue qn).push c) := drained_sub _ _ (SeqSub.refl _)
  have fresh : ∀ x ∈ (s.queue qn).cmds, x.seqNo ≠ c.seqNo := fun x hx e => by
    have := h.2 qn x hx
    rw [e, hc] at this
    exact Nat.lt_irrefl _ this
  have nod : (((s.queue qn).push c).cmds.map fun x => x.seqNo).Nodup := by
    refine ((key.map fun x => x.seqNo).nodup_iff).2 ?_
    rw [List.map_cons, List.nodup_cons]
    refine ⟨fun m => ?_, h.1 qn⟩
    obtain ⟨x, hx, e⟩ := List.mem_map.1 m
    exact fresh x hx e
  refine ⟨fun n => ?_, fun n x hx => ?_⟩
  · by_cases e : n = qn
    · rw [e, modQueue_self, hu]
      exact nod.sublist sub
    · rw [modQueue_ne _ _ _ _ e, hu]
      exact h.1 n
  · change x.seqNo < u.rg.cmdSeq
    rw [hr]
    by_cases e : n = qn
    · rw [e, modQueue_self, hu] at hx
      obtain ⟨y, hy, ey⟩ := List.mem_map.1 (sub.subset (List.mem_map.2 ⟨x, hx, rfl⟩))
      have hy' := key.subset hy
      change y.seqNo = x.seqNo at ey
      rw [← ey]
      rcases List.mem_cons.1 hy' with e | m
      · rw [e, hc]; exact Nat.lt_succ_self _
      · exact Nat.lt_succ_of_lt (h.2 qn y m)
    · rw [modQueue_ne _ _ _ _ e, hu] at hx
      exact Nat.lt_succ_of_lt (h.2 n x hx)

theorem pushCmd_numbered (s : State) (qn : Nat) (c : Cmd) (hc : c.seqNo = s.rg.cmdSeq) (h : Numbered s) :
    Numbered (pushCmd s qn c) := by
  unfold pushCmd
  dsimp only
  exact (regEval_only _) .seqs (by decide) ((pump_only _ _) .seqs (by decide) (pushed_numbered s _ qn c hc h (fun _ => rfl) rfl))

/-- A pushed command stands in its place, and what was finished stays as it was. -/
theorem pushCmd_kept (s : State) (qn : Nat) (c : Cmd) (hc : c.seqNo = s.rg.cmdSeq) (h : Numbered s) :
    CmdsKept (({ s with rg := { s.rg with cmdSeq := s.rg.cmdSeq + 1 } } : State).modQueue qn fun q => (q.push c).drained)
      (pushCmd s qn c) := by
  have d := (pushed_numbered s { s with rg := { s.rg with cmdSeq := s.rg.cmdSeq + 1 } } qn c hc h (fun _ => rfl) rfl).1
  unfold pushCmd
  dsimp only
  have h1 := pump_kept _ qn d
  exact h1.trans (regEval_kept _ (h1.distinct d))

theorem pushFailed_numbered (s : State) (qn : Nat) (c : Cmd) (code : BitVec 16) (d : W64) (hc : c.seqNo = s.rg.cmdSeq)
    (h : Numbered s) : Numbered (pushFailed s qn c code d) := by
  unfold pushFailed
  extract_lets -merge +onlyGivenNames s1 s2
  have g1 : Numbered s1 := (errRecord_only _ _ _ _ _ _ _) .seqs (by decide) h
  have e1 : s1.rg = s.rg := (errRecord_only _ _ _ _ _ _ _) .rg (by decide)
  have g2 : Numbered s2 := pushCmd_numbered s1 qn _ (hc.trans (congrArg (fun r => r.cmdSeq) e1.symm)) g1
  exact (pmBoth_only _ _ _ _) .seqs (by decide) g2

theorem pushStale_numbered (s : State) (qn : Nat) (c : Cmd) (w : W32) (hc : c.seqNo = s.rg.cmdSeq) (h : Numbered s) :
    Numbered (pushStale s qn c w) := by
  unfold pushStale
  extract_lets -merge +onlyGivenNames s1 s2
  have g1 : Numbered s1 := (errRecord_only _ _ _ _ _ _ _) .seqs (by decide) h
  have e1 : s1.rg = s.rg := (errRecord_only _ _ _ _ _ _ _) .rg (by decide)
  have g2 : Numbered s2 := pushCmd_numbered s1 qn _ (hc.trans (congrArg (fun r => r.cmdSeq) e1.symm)) g1
  exact (faultRecord_only _ _ _) .seqs (by decide) ((pmBoth_only _ _ _ _) .seqs (by decide) g2)

theorem pushLaunch_numbered (s : State) (qn : Nat) (c : Cmd) (e : Nat) (hc : c.seqNo = s.rg.cmdSeq) (h : Numbered s) :
    Numbered (pushLaunch s qn c e) := by
  unfold pushLaunch
  split
  · exact pushFailed_numbered s qn _ _ _ hc h
  · exact pushCmd_numbered s qn _ hc h
  · exact pushCmd_numbered s qn _ hc h

theorem fetchLaunch_numbered (s : State) (qn : Nat) (c : Cmd) (g : Gen) (hc : c.seqNo = s.rg.cmdSeq) (h : Numbered s) :
    Numbered (fetchLaunch s qn c g) := by
  unfold fetchLaunch
  dsimp only
  split
  · refine pushLaunch_numbered _ qn _ _ (hc.trans ?_) ((touchGen_only _ _) .seqs (by decide) h)
    exact congrArg (fun r => r.cmdSeq) ((touchGen_only s _) .rg (by decide)).symm
  · split
    · refine pushLaunch_numbered _ qn _ _ (hc.trans ?_) ((publishAt_only _ _ _) .seqs (by decide) h)
      exact congrArg (fun r => r.cmdSeq) ((publishAt_only s _ _) .rg (by decide)).symm
    · exact (hold_only _ _ _) .seqs (by decide) h

theorem arriveNow_seqNo (s : State) (c : Cmd) : (arriveNow s c).1.seqNo = c.seqNo := by
  unfold arriveNow
  repeat' split
  all_goals rfl

theorem fetchWait_numbered (s : State) (qn : Nat) (c : Cmd) (hc : c.seqNo = s.rg.cmdSeq) (h : Numbered s) :
    Numbered (fetchWait s qn c) := by
  unfold fetchWait
  split
  · exact pushCmd_numbered s qn _ hc h
  · split
    · dsimp only
      have h1 := (setQState_only _ qn .waiting) .seqs (by decide)
        (pushCmd_numbered s qn { (arriveNow s c).1 with phase := .pendingWait } ((arriveNow_seqNo s c).trans hc) h)
      split
      · exact (addArrival_only _ _) .seqs (by decide) h1
      · exact h1
    · exact (waitFull_only _ _) .seqs (by decide) h

theorem fetchOk_numbered (s : State) (qn : Nat) (c : Cmd) (hc : c.seqNo = s.rg.cmdSeq) (h : Numbered s) :
    Numbered (fetchOk s qn c) := by
  unfold fetchOk
  dsimp only
  split
  · exact fetchLaunch_numbered s qn _ _ hc h
  · exact fetchWait_numbered s qn _ hc h
  · exact fetchWait_numbered s qn _ hc h
  · exact fetchWait_numbered s qn _ hc h
  · refine pushCmd_numbered _ qn _ (hc.trans ?_) ((State.modObj_only _ _ _) .seqs (by decide) h)
    exact congrArg (fun r => r.cmdSeq) ((State.modObj_only s _ _) .rg (by decide)).symm
  · exact pushCmd_numbered s qn _ hc h
  · exact pushCmd_numbered s qn _ hc h

/-- Fetching a packet keeps the commands numbered apart. -/
theorem fetchPacket_numbered (s : State) (qn : Nat) (h : Numbered s) : Numbered (fetchPacket s qn) := by
  unfold fetchPacket
  dsimp only
  split
  · refine pushFailed_numbered _ qn _ _ _ ?_ ((errRecord_only _ _ _ _ _ _ _) .seqs (by decide) h)
    exact congrArg (fun r => r.cmdSeq) ((errRecord_only s _ _ _ _ _ _) .rg (by decide)).symm
  · split
    · exact (hold_only _ _ _) .seqs (by decide) h
    · split
      · rename_i code d _
        have h1 := pushFailed_numbered s qn (newCmd s (s.queue qn) (s.readBytes (s.packetAddr (s.queue qn)) 64)
          (.malformed (BitVec.ofNat 8 (pkOp (s.readBytes (s.packetAddr (s.queue qn)) 64))))) code d rfl h
        split
        · exact (tamperRaise_only _ _) .seqs (by decide) h1
        · exact h1
      · exact pushStale_numbered s qn _ _ rfl h
      · exact fetchOk_numbered s qn _ rfl h

theorem packetRow_numbered (s : State) (qn op mode : Nat) (h : Numbered s) : Numbered (packetRow s qn op mode) := by
  unfold packetRow
  dsimp only
  repeat' split
  all_goals first | exact h | exact fetchPacket_numbered s qn h

theorem fetchRetry_numbered (s : State) (qn : Nat) (h : Numbered s) : Numbered (fetchRetry s qn) := by
  unfold fetchRetry
  dsimp only
  repeat' split
  all_goals first | exact h | exact fetchPacket_numbered _ qn ((hold_only _ _ _) .seqs (by decide) h)

end Sys2Proof.Machine
end

