-- ==== Sys2Proof/Laws/Write.lean ====
section
/-! SUPPORT. Writes of the block into device memory: the bytes written, and every other byte as it was. -/

namespace Sys2Proof.Machine

theorem stores_putAll (s t : State) (a : Nat) (bs : List Byte) (h : t.mem = memPutAll s.mem a bs) : Stores s t a bs := by
  intro x
  rw [h]
  split
  · rename_i g
    have := memGet_memPutAll_inside bs s.mem a (x - a) (by omega)
    rwa [show a + (x - a) = x by omega] at this
  · exact memGet_memPutAll_outside bs s.mem a x (by omega)

theorem Stores.of_mem {s t u : State} {a : Nat} {bs : List Byte} (h : Stores s t a bs) (g : u.mem = t.mem) : Stores s u a bs := by
  intro x
  rw [g]
  exact h x

theorem blockWrite_mem (s : State) (ow : WriteOwner) (inst : Nat) (ctx : Option Nat) (ports : List Nat) (off a : Nat)
    (bs : List Byte) :
    (blockWrite s ow inst ctx ports off a bs).mem = memPutAll s.mem a bs := by
  unfold blockWrite
  split
  · rename_i h
    rw [List.isEmpty_iff.1 h]
    rfl
  · refine Eq.trans (b := (storeBytes (writeWatch (dirtyMark s a bs.length) a bs.length) a bs).mem)
      ((pmGlobal_only _ _ _) .mem (by decide)) ?_
    refine congrArg (fun m => memPutAll m a bs) ?_
    exact ((writeWatch_only _ _ _) .mem (by decide)).trans ((dirtyMark_only _ _ _) .mem (by decide))

theorem objWrite_mem (s : State) (ow : WriteOwner) (i off : Nat) (bs : List Byte) :
    (objWrite s ow i off bs).mem = memPutAll s.mem ((s.obj i).base + off) bs := blockWrite_mem _ _ _ _ _ _ _ _

theorem objWrite_stores (s : State) (ow : WriteOwner) (i off : Nat) (bs : List Byte) :
    Stores s (objWrite s ow i off bs) ((s.obj i).base + off) bs := stores_putAll _ _ _ _ (objWrite_mem _ _ _ _ _)

end Sys2Proof.Machine
end

