-- ==== Sys2Proof/WellFormed.lean ====
section
/-! DEFINITION. Which commands can occur at the block's edge: the operand ranges that the bit widths of `Instr` do not
already say (48 memory ports of R5, five links of R501, the throttle tags of R496, the register window of R494). -/

namespace Sys2Proof

/-- A memory port number (R5: MP0 to MP47). -/
def portOk (p : BitVec 6) : Bool := decide (p.toNat < 48)

/-- A link number (R501: TW and PL0 to PL3). -/
def linkOk (l : BitVec 3) : Bool := decide (l.toNat < 5)

/-- A requester tag (R496: TAG[15:14] 0 a core, 1 a copy engine, 2 the Keeper; 3 names nobody). -/
def tagOk (t : BitVec 16) : Bool := decide (t.toNat / 16384 < 3)

/-- Whether the operands of a command are ones the block's edge can carry. -/
def Instr.wf : Instr → Bool
  | .mpTrainDone port level rd wr => portOk port && (!level || (decide (512 ≤ rd.toNat) && decide (rd.toNat ≤ 2048) &&
      decide (128 ≤ wr.toNat) && decide (wr.toNat ≤ 512)))
  | .mpPause port _ _ => portOk port
  | .mpThrottle port tag _ _ => portOk port && tagOk tag
  | .data port _ _ _ => portOk port
  | .wack a => portOk a.port
  | .adata a _ => portOk a.port
  | .portFailed port => portOk port
  | .arrive h _ _ => linkOk h.link
  | .releaseMessage h _ _ => linkOk h.link
  | .breakMsg h _ _ => linkOk h.link
  | .hello h _ => linkOk h.link
  | .proof h _ _ _ => linkOk h.link
  | .heartbeat h _ => linkOk h.link
  | .yield h _ _ => linkOk h.link
  | .recoveryLost h _ => linkOk h.link
  | .linkEnable _ link _ => linkOk link
  | .phyLock link _ => linkOk link
  | .linkInit h _ _ => linkOk h.link
  | .linkInitTimer link => linkOk link
  | .idle h => linkOk h.link
  | .nak h _ => linkOk h.link
  | .linkSilence link => linkOk link
  | .idleSend link => linkOk link
  | .glitch source => decide (source.toNat < 26)
  | _ => true

end Sys2Proof
end

