-- ==== Sys2Proof/Tests/Slice0.lean ====
section
/-! SUPPORT. Tests: an ill-formed command for each check of WellFormed, single steps on small states whose results the spec
gives, and for each statement a state that meets its hypotheses (test_hyp_<statement>_<clause>). -/

namespace Sys2Proof.Tests

/-! One theorem at a time: each waits for the kernel, and a thread for each of them would not fit the check's memory. -/
set_option Elab.async false

open Sys2Proof Sys2Proof.Machine

/-! ## Well-formed commands -/

/-- A frame header on a link. -/
def hdr (l : BitVec 3) : FrameHdr :=
  { link := l, crcOk := true, seq := 0#16, ack := 0xFFFF#16, credits := 0#8, auth := false, tagOk := true, ctr := 1#64 }

/-- R5: ports are MP0 to MP47. -/
theorem test_wf_port : Instr.wf (.wack ⟨47#6, false⟩) = true ∧ ∀ i ∈ [Instr.mpTrainDone 48#6 false 0#12 0#12, .mpPause 48#6 true 0#32,
    .mpThrottle 48#6 0#16 true 0#32, .data 48#6 false false .image, .wack ⟨48#6, false⟩, .adata ⟨48#6, false⟩ 0#64, .portFailed 48#6],
    i.wf = false := by decide

/-- R500: 512 to 2,048 read credits and 128 to 512 write credits. -/
theorem test_wf_credits : Instr.wf (.mpTrainDone 0#6 true 512#12 128#12) = true ∧
    Instr.wf (.mpTrainDone 0#6 true 2048#12 512#12) = true ∧ Instr.wf (.mpTrainDone 0#6 true 511#12 128#12) = false ∧
    Instr.wf (.mpTrainDone 0#6 true 2049#12 128#12) = false ∧ Instr.wf (.mpTrainDone 0#6 true 512#12 127#12) = false ∧
    Instr.wf (.mpTrainDone 0#6 true 512#12 513#12) = false := by decide

/-- R496: TAG[15:14] 3 names no requester. -/
theorem test_wf_tag : Instr.wf (.mpThrottle 0#6 0xBFFF#16 true 0#32) = true ∧
    Instr.wf (.mpThrottle 0#6 0xC000#16 true 0#32) = false := by decide

/-- R501: five links. -/
theorem test_wf_link : Instr.wf (.linkSilence 4#3) = true ∧ ∀ i ∈ [Instr.arrive (hdr 5) 0#10 0#32, .releaseMessage (hdr 5) 0#10 0#32,
    .breakMsg (hdr 5) 0#10 0#32, .hello (hdr 5) 0#384, .proof (hdr 5) 0#384 true 0#16, .yield (hdr 5) 0#8 0#48,
    .recoveryLost (hdr 5) 0#48, .linkEnable ⟨0#6, true⟩ 5#3 true, .phyLock 5#3 true, .linkInit (hdr 5) 0#8 0#384,
    .linkInitTimer 5#3, .idle (hdr 5), .nak (hdr 5) 0#16, .linkSilence 5#3, .idleSend 5#3], i.wf = false := by decide

/-- R411: 26 glitch sensors. -/
theorem test_wf_glitch : Instr.wf (.glitch 25) = true ∧ Instr.wf (.glitch 26) = false := by decide

/-! ## States -/

/-- The manager. -/
def mgr : Who := { inst := 0#6, valid := true }

/-- The block after start-up: READY, nothing mapped. -/
def ready : State := { State.reset with boot := { Boot.reset with state := .ready } }

/-- Whether a command answers a next state that passes a check. -/
def shows (o : Host.Outcome State Fault Refusal) (p : State → Bool) : Bool := match o with
  | .next t => p t
  | _ => false

/-- A one-partition, one-station image with a graph window, a free window and an object slot. -/
def img : Image :=
  { imageId := 1#32, seq := 1#32, needs := 0#2, digest := 0#384, base := 0x10000, len := 4096, progBase := 0x10800,
    progLen := 256, periodUs := 1000, capDw := 1000, pausesPerBeat := 1, pauseMaxUs := 10, replayNs := 0,
    parts := [{ index := 0, coreCount := 1, realtime := false, mirrored := false, windowCount := 2, freeDw := 1000, resPorts := 0,
                resWays := 0, grant := BitVec.allOnes 64, freeScratch := 1048576 }],
    windows := [{ part := 0, index := 0, cls := .graph, startUs := 0, lenUs := 400, guardExtra := 0 },
                { part := 0, index := 1, cls := .free, startUs := 500, lenUs := 400, guardExtra := 0 }],
    stations := [{ index := 0, part := 0, win := 0, cores := 1, features := 0#2, graph := 0, bound := 1000, energyUj := 1,
                   share := 65536, progOffset := 0, progLen := 256, entry := 0, key := 0#64, objFirst := 0, objCount := 1 }],
    edges := [], counters := [],
    slots := [{ slot := 7#32, inst := 0, reserved := false, output := true, isSealed := false, part := 0, size := 4096,
                basinBytes := 128 }],
    mirror := none, tamper := [0#2, 0#2, 0#2, 0#2, 0#2] }

/-- Its placement: the station on core 0. -/
def place : Placement :=
  { partCores := [[0]], stationCores := [[0]], shareBase := [(0, 0, 0)], counterId := [], resPorts := [[]], resWays := [[]],
    slack := [] }

/-- The image, running. -/
def running : Running :=
  { img := img, place := place, imageSlot := 0#2, changedNow := [], beat := [], openWin := [], killedGraphs := [], passed := [],
    bindings := [] }

/-- The block with the image running. -/
def live : State := { ready with run := some running, esc := { Esc.reset with running := true } }

/-- A generation of 4 KiB at address 0. -/
def gen0 : Gen := { Gen.reset with state := .live, number := 1#64, base := 0, len := 4096 }

/-- A free job of queue 0 on core 0. -/
def job0 : Job :=
  { kind := .free 0 0#32 0, part := 0, cores := [0], gen := 0, bound := 1000, killLimit := 1000, features := 0#2,
    launchBeat := 0#48, launchTime := 0#64, isSealed := false, workLen := 65536, hmask := [], omask := [], pins := [],
    wrote := [], stores := [], contrib := [], arrivals := [], deferred := false, deferStart := 0#64, kill := none,
    killCode := 0#16, coKilled := false, detail := 0#64, killing := [], counts := [] }

/-- A 128-bit instruction word (R140). -/
def word (op mod d a b c x : Nat) (imm : Nat := 0) (wait : Nat := 0) (sig : Nat := 0) : Nat :=
  op * 2 ^ 120 + mod * 2 ^ 96 + d * 2 ^ 91 + a * 2 ^ 86 + b * 2 ^ 81 + c * 2 ^ 76 + x * 2 ^ 64 + imm * 2 ^ 32 + wait * 2 ^ 16 + sig

/-- Core 0 runs the job and holds a line that begins with an instruction; S1 is 5, S2 is -1. -/
def core0 (w : Nat) : Core :=
  { Core.reset with
    st := .running, job := some 0, regs := [(1, 5#64), (2, BitVec.allOnes 64)],
    icache := [(0, [{ entry := 0, line := 0, bytes := leBytes 128 w, touched := false }])] }

/-- The block whose core 0 stands at an instruction of the job. -/
def at0 (w : Nat) : State := { live with gens := [(0, gen0)], jobs := [(0, job0)], cores := [(0, core0 w)], nextJob := 1 }

/-- `MayIssue` on core 0 for job 0, as a test. -/
def mayIssue0 (s : State) (j : Job) (w : Nat) : Bool :=
  s.issuing 0 == some (0, j) && s.front 0 j == .ins (decodeIns w) && !s.breakAt j.gen (s.core 0).pc &&
    !s.scoreboard 0 (decodeIns w) &&
    s.waitNow 0 j (decodeIns w).wait == .go && !(s.coreTraced 0) && (decodeIns w).wait / 8192 != 4

theorem mayIssue0_sound {s : State} {j : Job} {w : Nat} (h : mayIssue0 s j w = true) : MayIssue s 0 0 j (decodeIns w) := by
  simp only [mayIssue0, Bool.and_eq_true, beq_iff_eq, Bool.not_eq_true', bne_iff_ne, ne_eq] at h
  obtain ⟨⟨⟨⟨⟨⟨h1, h2⟩, h3⟩, h0⟩, h4⟩, h5⟩, h6⟩ := h
  exact ⟨h1, h2, h3, h0, h4, by rw [h5]; rfl, fun e => absurd e h6⟩

/-! ## The queue, resets and start-up -/

theorem test_hyp_StepRunsFrontCommand : ({ ready with pending := [Instr.retReq] } : State).pending = [Instr.retReq] := rfl

theorem test_hyp_IdleStepIsOneCycle : ready.pending = [] ∧ ready.portAlive = true ∧
    ({ ready with boot := { ready.boot with blkAsserted := true } } : State).portAlive = false := by decide

/-- R19: one Keeper cycle is 1 ns. -/
theorem test_idle_step : shows (step ready) (fun t => t.esc.time == 1#64 && t.esc.beatCount == 0#48) = true := by decide

/-- An ADD of S1 and S2 into S3 (R143): 5 + (-1). -/
theorem test_add : shows (exec (.add 0#4) (at0 (word 0x04 0 3 1 2 0 0)))
    (fun t => (t.core 0).reg 3 == 4#64 && (t.core 0).reg 1 == 5#64 && (t.core 0).pc == 16) = true := by decide

/-- A write of S0 is discarded (R134). -/
theorem test_add_s0 : shows (exec (.add 0#4) (at0 (word 0x04 0 0 1 2 0 0))) (fun t => (t.core 0).reg 0 == 0#64) = true := by decide

/-! ## Instructions of the control core -/

/-- The thirteen two-operand instructions, in both forms, may issue. -/
theorem test_hyp_AluInstructionsWriteTheirResult (op : Nat) (h : op ∈ [4, 5, 6, 7, 8, 9, 10, 11, 12, 13, 14, 15, 16]) :
    (MayIssue (at0 (word op 0 3 1 2 0 0)) 0 0 job0 (decodeIns (word op 0 3 1 2 0 0)) ∧
      controlLegal (decodeIns (word op 0 3 1 2 0 0)) = true ∧ (decodeIns (word op 0 3 1 2 0 0)).op = op) ∧
    MayIssue (at0 (word op 1 31 31 0 0 0 0xFFFFFFFF)) 0 0 job0 (decodeIns (word op 1 31 31 0 0 0 0xFFFFFFFF)) ∧
      controlLegal (decodeIns (word op 1 31 31 0 0 0 0xFFFFFFFF)) = true := by
  have k : ∀ op ∈ [4, 5, 6, 7, 8, 9, 10, 11, 12, 13, 14, 15, 16], (mayIssue0 (at0 (word op 0 3 1 2 0 0)) job0 (word op 0 3 1 2 0 0) &&
      controlLegal (decodeIns (word op 0 3 1 2 0 0)) && (decodeIns (word op 0 3 1 2 0 0)).op == op &&
      mayIssue0 (at0 (word op 1 31 31 0 0 0 0xFFFFFFFF)) job0 (word op 1 31 31 0 0 0 0xFFFFFFFF) &&
      controlLegal (decodeIns (word op 1 31 31 0 0 0 0xFFFFFFFF))) = true := by decide
  have e := k op h
  simp only [Bool.and_eq_true, beq_iff_eq] at e
  exact ⟨⟨mayIssue0_sound e.1.1.1.1, e.1.1.1.2, e.1.1.2⟩, mayIssue0_sound e.1.2, e.2⟩

/-- The hypotheses of the R134 statement, with no counter in SIGNAL and no deferred preemption. -/
theorem test_hyp_ScalarRegistersWrapAndNeverTrap :
    MayIssue (at0 (word 0x06 0 0 2 2 0 0)) 0 0 job0 (decodeIns (word 0x06 0 0 2 2 0 0)) ∧
      controlLegal (decodeIns (word 0x06 0 0 2 2 0 0)) = true ∧ (decodeIns (word 0x06 0 0 2 2 0 0)).signal / 8192 ≤ 2 ∧
      job0.deferred = false := ⟨mayIssue0_sound (by decide), by decide, by decide, by decide⟩

/-- LIH, MFS of special value 13, NOP, END and FCLRM may issue. -/
theorem test_hyp_LihMfsNopEndFclrm (w : Nat)
    (h : w ∈ [word 0x11 0 3 1 0 0 0 9, word 0x20 0 3 0 0 0 13, word 0 0 0 0 0 0 0, word 2 0 0 0 0 0 0, word 0x21 0 0 2 0 0 0]) :
    MayIssue (at0 w) 0 0 job0 (decodeIns w) ∧ controlLegal (decodeIns w) = true := by
  have k : ∀ w ∈ [word 0x11 0 3 1 0 0 0 9, word 0x20 0 3 0 0 0 13, word 0 0 0 0 0 0 0, word 2 0 0 0 0 0 0, word 0x21 0 0 2 0 0 0],
      (mayIssue0 (at0 w) job0 w && controlLegal (decodeIns w)) = true := by decide
  have e := k w h
  simp only [Bool.and_eq_true] at e
  exact ⟨mayIssue0_sound e.1, e.2⟩

/-- LIH puts IMM above the low half of A (R143). -/
theorem test_lih : shows (exec (.lih 0#4) (at0 (word 0x11 0 3 2 0 0 0 9)))
    (fun t => (t.core 0).reg 3 == 0x9FFFFFFFF#64) = true := by decide

/-- END ends issue (R138). -/
theorem test_end : shows (exec (.endOp 0#4) (at0 (word 2 0 0 0 0 0 0))) (fun t => (t.core 0).ended) = true := by decide

/-- A breakpoint at offset 0 of generation 0. -/
def broken : State := { at0 0 with obs := { (at0 0).obs with bps := [(0, 0x8000000000000000#64)] } }

/-- Each way to halt at issue: HALT, a breakpoint, an illegal word (a NOP with D set), the end of the generation, a written
page. -/
theorem test_hyp_HaltsAtIssue :
    (at0 (word 1 0 0 0 0 0 0)).issuing 0 = some (0, job0) ∧
    MayIssue (at0 (word 1 0 0 0 0 0 0)) 0 0 job0 (decodeIns (word 1 0 0 0 0 0 0)) ∧
    controlLegal (decodeIns (word 1 0 0 0 0 0 0)) = true ∧
    (broken.issuing 0 = some (0, job0) ∧ broken.front 0 job0 = .ins (decodeIns 0) ∧ broken.breakAt 0 0 = true) ∧
    ((at0 (word 0 0 1 0 0 0 0)).front 0 job0 = .ins (decodeIns (word 0 0 1 0 0 0 0)) ∧
      controlLegal (decodeIns (word 0 0 1 0 0 0 0)) = false ∧ (decodeIns (word 0 0 1 0 0 0 0)).op = 0) ∧
    (({ at0 0 with gens := [(0, { gen0 with len := 15 })] } : State).gen 0).len < 0 + 16 ∧
    ({ gen0 with written := [0] } : Gen).isWritten 0 = true :=
  ⟨by decide, mayIssue0_sound (by decide), by decide, by decide, by decide, by decide, by decide⟩

/-- The eight branches may issue, with a target in the program, past it, and taken or not (S1 is 5, S2 is -1). -/
theorem test_hyp_BranchesSetThePc (w : Nat) (h : w ∈ [word 0x18 0 0 0 0 0 0 16, word 0x18 0 0 0 0 0 0 4096, word 0x19 0 0 1 1 0 0 16,
      word 0x19 0 0 1 2 0 0 16, word 0x1A 0 0 1 2 0 0 16, word 0x1B 0 0 2 1 0 0 16, word 0x1C 0 0 1 2 0 0 16,
      word 0x1D 0 0 1 2 0 0 16, word 0x1E 0 3 0 0 0 0 4080, word 0x1F 0 0 0 0 0 0, word 0x1F 0 0 1 0 0 0]) :
    MayIssue (at0 w) 0 0 job0 (decodeIns w) ∧ controlLegal (decodeIns w) = true := by
  have k : ∀ w ∈ [word 0x18 0 0 0 0 0 0 16, word 0x18 0 0 0 0 0 0 4096, word 0x19 0 0 1 1 0 0 16,
      word 0x19 0 0 1 2 0 0 16, word 0x1A 0 0 1 2 0 0 16, word 0x1B 0 0 2 1 0 0 16, word 0x1C 0 0 1 2 0 0 16,
      word 0x1D 0 0 1 2 0 0 16, word 0x1E 0 3 0 0 0 0 4080, word 0x1F 0 0 0 0 0 0, word 0x1F 0 0 1 0 0 0],
      (mayIssue0 (at0 w) job0 w && controlLegal (decodeIns w)) = true := by decide
  have e := k w h
  simp only [Bool.and_eq_true] at e
  exact ⟨mayIssue0_sound e.1, e.2⟩

/-- Branches count their target from their own offset, and BAL links (R143, R144). -/
theorem test_branch : shows (exec (.b 0#4) (at0 (word 0x18 0 0 0 0 0 0 4080))) (fun t => (t.core 0).pc == 4080) = true ∧
    shows (exec (.bal 0#4) (at0 (word 0x1E 0 3 0 0 0 0 32)))
      (fun t => (t.core 0).pc == 32 && (t.core 0).reg 3 == 16#64) = true ∧
    shows (exec (.bltu 0#4) (at0 (word 0x1D 0 0 2 1 0 0 32))) (fun t => (t.core 0).pc == 16) = true := by decide

/-- LD and ST at the last word of the working area and one past it (WORK_LEN 65,536). -/
theorem test_hyp_LoadsAndStoresOfScratch :
    (MayIssue (at0 (word 0x14 3 3 0 0 0 0 65528)) 0 0 job0 (decodeIns (word 0x14 3 3 0 0 0 0 65528)) ∧
      controlLegal (decodeIns (word 0x14 3 3 0 0 0 0 65528)) = true ∧
      ((at0 0).memOpnd 0 job0 (decodeIns (word 0x14 3 3 0 0 0 0 65528))) = .ok (.work 65528) ∧
      (at0 0).opndBad 0 job0 (.work 65528) 8 = none) ∧
    (MayIssue (at0 (word 0x15 3 0 0 1 0 0 65529)) 0 0 job0 (decodeIns (word 0x15 3 0 0 1 0 0 65529)) ∧
      controlLegal (decodeIns (word 0x15 3 0 0 1 0 0 65529)) = true ∧
      ((at0 0).memOpnd 0 job0 (decodeIns (word 0x15 3 0 0 1 0 0 65529))) = .error (.range 65536#64)) ∧
    ({ at0 0 with cores := [(0, { core0 0 with badLines := [511] })] } : State).opndBad 0 job0 (.work 65528) 8 ≠ none := by
  refine ⟨⟨mayIssue0_sound (by decide), by decide, by decide, by decide⟩, ⟨mayIssue0_sound (by decide), by decide, by decide⟩, by decide⟩

/-- A store of S2 and a load of its low half, sign in place (R143). -/
theorem test_st : shows (exec (.st 0#4) (at0 (word 0x15 2 0 0 2 0 0 64)))
    (fun t => tget 0#8 (t.core 0).scratch 64 == 0xFF#8 && tget 0#8 (t.core 0).scratch 67 == 0xFF#8 &&
      tget 0#8 (t.core 0).scratch 68 == 0#8) = true := by decide

/-- Core 0 past its cached line. -/
def missing : State := { at0 0 with cores := [(0, { core0 0 with pc := 128 })] }

theorem test_hyp_FillsOfTheInstructionCache :
    (missing.issuing 0 = some (0, job0) ∧ missing.front 0 job0 = .miss ∧ missing.poisoned 128 128 = false ∧
      (missing.lineBytes gen0 1).isSome = true) ∧
    missing.lineBytes { gen0 with keySlot := some 5 } 1 = none ∧
    ({ missing with poison := [1] } : State).poisoned 128 128 = true ∧
    (ready.issuing 0 = none ∧ (at0 0).front 0 job0 ≠ .miss) := by decide

theorem test_icache_fill : shows (exec (.icacheFill 0#4 (.line false)) missing)
    (fun t => ((t.core 0).cached 0 1).isSome && (t.core 0).pc == 128) = true := by decide

/-! ## Start-up, ports and admission -/

/-- The block in reset by each input. -/
def inPor : State := { ready with boot := { ready.boot with porAsserted := true } }
def inBlk : State := { ready with boot := { ready.boot with blkAsserted := true } }

theorem test_hyp_ResetInputsResetTheBlock : (inPor.boot.porAsserted = true ∧ inPor.boot.blkAsserted = false) ∧
    (inBlk.boot.blkAsserted = true ∧ inBlk.boot.porAsserted = false) ∧ ready.boot.porAsserted = false ∧
    ready.boot.blkAsserted = false := by decide +kernel

/-- The state after POR_N is released is the one State.reset holds (R489). -/
theorem test_reset_released : shows (exec (.porN true) ready) (fun t => t.boot.state == .reset && t.boot.power == .off) = true := by
  decide +kernel

/-- A 16 KiB patch with an open port, waiting for LOAD and for its verdict. -/
def patching (st : BootState) : State :=
  { ready with boot := { ready.boot with state := st, patchLen := 16384#32 }, ports := [(0, { Port.reset with open' := true })] }

theorem test_hyp_BootRunsFromRomInitToReady :
    (State.reset.portAlive = true ∧ State.reset.boot.state = .romInit) ∧
    ((patching .waitPatch).portAlive = true ∧ (patching .waitPatch).obs.halted = false ∧ mgr.inst = 0#6 ∧ mgr.valid = true) ∧
    ((patching .verifyPatch).openPorts ≠ [] ∧
      (patching .verifyPatch).boot.patchAddr.toNat + (patching .verifyPatch).boot.patchLen.toNat ≤ 2 ^ 48 ∧
      (patching .verifyPatch).poisoned 0 16384 = false ∧
      ({ patching .verifyPatch with poison := [127] } : State).poisoned 0 16384 = true) := by decide +kernel

theorem test_rom_init : shows (exec (.romInitDone true) State.reset) (fun t => t.boot.state == .waitPatch) = true := by decide +kernel

/-- LOAD takes a length of 16 KiB (R509) and refuses one less by a line. -/
theorem test_load : shows (exec (.load mgr) (patching .waitPatch)) (fun t => t.boot.state == .verifyPatch) = true ∧
    shows (exec (.load mgr) { patching .waitPatch with boot := { (patching .waitPatch).boot with patchLen := 16320#32 } })
      (fun t => t.boot.state == .waitPatch) = true := by decide +kernel

/-- The block on its way into retention, in it, and waking. -/
def entering : State := { ready with boot := { ready.boot with retReq := true, retEntering := true } }
def retained : State := { ready with boot := { ready.boot with power := .retention, retAck := true } }
def restoring : State := { ready with boot := { ready.boot with chimeRestoring := true } }

theorem test_hyp_RetentionIsEnteredAndLeft : (Running' ready ∧ ready.boot.retReq = false) ∧
    (entering.portAlive = true ∧ entering.boot.retEntering = true ∧ entering.writes = []) ∧
    (retained.boot.power = .retention ∧ retained.boot.retAck = true ∧ retained.boot.blkAsserted = false ∧
      retained.boot.porAsserted = false) ∧ (restoring.portAlive = true ∧ restoring.boot.chimeRestoring = true) := by
  unfold Running'
  decide +kernel

theorem test_wake : shows (exec .wake retained) (fun t => t.boot.wake && t.boot.state == .romInit) = true := by decide +kernel

/-- Port 47 open and trained, with one write on it and one throttled tag. -/
def ported : State := { live with
  ports := [(47, { Port.reset with open' := true, trained := true, throttled := [0x8000#16, 0x4000#16, 5#16], atomicsOut := 1 })]
  writes := [{ port := 47, addr := 0, len := 64, inst := 0, ctx := none, owner := .keeper, flips := [] }] }
def pausedPort : State := { ported with ports := [(47, { ported.port 47 with paused := true })] }

theorem test_hyp_PortsTrainAnswerAndFail : (47#6).toNat < 48 ∧ (ready.port 47).open' = false ∧
    (Running' ported ∧ ported.fr.stopped = false ∧ (ported.port 47).open' = true ∧ (ported.port 47).trained = true ∧
      (ported.port 47).failed = false) ∧
    (ported.writes = [] ++ { port := 47, addr := 0, len := 64, inst := 0, ctx := none, owner := .keeper, flips := [] } :: [] ∧ ported.obs.halted = false ∧
      ∀ n i, (n, i) ∈ ported.insts → i.disabling = none) ∧ ready.writes = [] ∧ ported.portAlive = true := by
  refine ⟨by decide, by decide, by unfold Running'; decide, ⟨rfl, rfl, fun n i h => ?_⟩, rfl, rfl⟩
  simp only [ported, live, ready, State.reset, List.mem_singleton, Prod.mk.injEq] at h
  rw [h.2]; rfl

theorem test_hyp_PausesAndThrottlesAreCounted : (ported.portAlive = true ∧ (ported.port 47).open' = true) ∧
    ((ported.port 47).paused = false ∧ ported.pausing = false ∧ (satInc ported.esc.pauseSeen).toNat ≤ img.pausesPerBeat) ∧
    ((pausedPort.port 47).paused = true ∧ pausedPort.pausing = true ∧
      (pausedPort.modPort 47 fun x => { x with paused := false }).pausing = false ∧
      max pausedPort.fr.pauseNs 10000 ≤ img.pauseMaxUs * 1000) ∧
    (6#16 ∉ (ported.port 47).throttled ∧ 0x8000#16 ∈ (ported.port 47).throttled ∧ 0x4000#16 ∈ (ported.port 47).throttled ∧
      5#16 ∈ (ported.port 47).throttled ∧ (ported.core 0).job = none) := by decide +kernel

/-- A second pause of a beat that may have one counts as an overrun (R426). -/
theorem test_pause_overrun :
    shows (exec (.mpPause 47#6 true 0#32) { ported with esc := { ported.esc with pauseSeen := 1#8 } })
      (fun t => t.fr.overrunThisBeat) = true := by decide +kernel

/-- Data for the image under VERIFY. -/
def verifying : State := { ported with au := { live.au with state := .verify, imageLen := 4096#32 } }

theorem test_hyp_DataActsByItsReader : ready.readAddr .image = none ∧
    (Running' verifying ∧ verifying.fr.stopped = false ∧ (verifying.port 47).open' = true ∧
      (verifying.readAddr .image).isSome = true ∧ verifying.poisoned 0 1 = false ∧ verifying.au.traceReq ≠ .held) ∧
    ({ verifying with poison := [0] } : State).poisoned 0 1 = true := by
  unfold Running'
  decide +kernel

theorem test_hyp_StartAndAbort : ManagerMay ready mgr ∧ ready.au.traceReq ≠ .held ∧ ready.fr.stopped = false ∧
    ready.au.state = .idle ∧ ready.sec.locked = false ∧ ready.au.imageLen.toNat < 4096 ∧
    (4096 ≤ verifying.au.imageLen.toNat ∧ verifying.au.imageLen.toNat ≤ 268435456 ∧ verifying.au.state ≠ .idle ∧
      ManagerMay verifying mgr) := by
  unfold ManagerMay
  decide +kernel

/-- START takes a 4 KiB image (R26) and refuses an empty one with IMAGE_MALFORMED (R56). -/
theorem test_start : shows (exec (.start mgr) { ready with au := { ready.au with imageLen := 4096#32 } })
    (fun t => t.au.state == .verify) = true ∧
    shows (exec (.start mgr) ready) (fun t => t.au.state == .idle && t.au.refused && t.au.lastCode == Config.IMAGE_MALFORMED) = true := by
  decide +kernel

/-- The candidate in PROVE and in ARMED. -/
def proving : State := { ready with au := { ready.au with state := .prove, cand := some img } }
def armed : State := { ready with au := { ready.au with state := .armed, cand := some img, candPlace := some place } }

theorem test_hyp_VerifyAndProve : (verifying.au.state = .verify ∧
      verifying.au.imageAddr.toNat + verifying.au.imageLen.toNat ≤ 2 ^ 48 ∧ verifying.au.traceReq ≠ .held ∧
      verifying.poisoned 0 4096 = false ∧ ({ verifying with poison := [31] } : State).poisoned 0 4096 = true) ∧
    (proving.au.state = .prove ∧ proving.au.cand = some img ∧ proving.inflating = false) ∧
    ({ img with periodUs := 249 } : Image).periodUs < 250 ∧ ready.au.state ≠ .verify ∧ ready.au.state ≠ .prove := by decide +kernel

/-- A beat of 249 us is BEAT_RANGE (R29). -/
theorem test_beat_range : shows (exec .admissionProveDone { proving with au := { proving.au with cand := some { img with periodUs := 249 } } })
    (fun t => t.au.refused && t.au.refusal.code == Config.BEAT_RANGE) = true := by decide +kernel

theorem test_hyp_BeatsCountAndSwap : ready.esc.running = false ∧
    (live.esc.running = true ∧ Running' live ∧ live.fr.stopped = false ∧ live.au.state ≠ .armed) ∧
    (({ live with fr := { live.fr with stopped := true } } : State).fr.stopped = true) ∧
    (armed.run = none ∧ armed.au.state = .armed ∧ armed.au.cand = some img ∧ armed.au.candPlace = some place ∧
      armed.obs.halted = false ∧ armed.fr.stopped = false ∧ armed.au.traceReq ≠ .held) ∧
    ({ armed with run := some running, esc := live.esc } : State).esc.running = true ∧ live.run ≠ none := by
  unfold Running'
  decide +kernel

/-- The swap to the first image is beat 0, and the next edge beat 1 (R17). -/
theorem test_first_swap : shows (exec .firstImageSwap armed) (fun t => t.esc.running && t.esc.beatCount == 0#48 && t.run.isSome) = true ∧
    shows (exec .beat live) (fun t => t.esc.beatCount == 1#48) = true := by decide +kernel

/-- The image with its graph window, or its free window, open. -/
def graphOpen : State := { live with run := some { running with openWin := [(0, 0)] } }
def freeOpen : State := { live with run := some { running with openWin := [(0, 1)] } }

theorem test_hyp_WindowsOpenAndClose : (live.run = some running ∧ live.dispatches = true ∧ (img.window 0 0).isSome = true ∧
      tfind running.openWin 0 = none ∧ (img.window 0 2).isSome = false) ∧
    (Running' graphOpen ∧ tfind ({ running with openWin := [(0, 0)] } : Running).openWin 0 = some 0) ∧ ready.run = none := by
  unfold Running'
  decide +kernel

theorem test_window : shows (exec (.windowStart 0#3 0#3) live) (fun t => t.run.any fun r => tfind r.openWin 0 == some 0) = true ∧
    shows (exec (.windowEnd 0#3 0#3) graphOpen) (fun t => t.run.any fun r => tfind r.openWin 0 == none) = true := by decide +kernel

/-! ## Jobs and commits -/

/-- The station's generation stands published. -/
def stationGen0 : Gen := { gen0 with base := 0x10800, len := 256, station := true }
def launching : State := { graphOpen with gens := [(0, stationGen0)] }

theorem test_hyp_StationLaunchBeginsTheJob : (launching.run = some { running with openWin := [(0, 0)] } ∧
      (img.station 0).map Station.index = some 0 ∧
      (img.station 0).bind (launching.stationGen img) = some 0 ∧
      (img.station 0).any (launching.mayLaunch { running with openWin := [(0, 0)] }) = true ∧
      (launching.gen 0).ready = true ∧ (place.stationCores.getD 0 []).Nodup) ∧
    (img.station 0).any (({ launching with run := some running } : State).mayLaunch running) = false := by decide +kernel

theorem test_station_launch : shows (exec (.stationLaunch 0#12) launching)
    (fun t => (t.core 0).st == .running && (t.core 0).job == some 0 && t.nextJob == 1) = true := by decide +kernel

/-- A command past fetch. -/
def cmd0 (b : Body) (p : Phase) : Cmd :=
  { index := 0#32, tag := 9#16, notify := false, overlap := false, body := b, phase := p, code := 0#16, submission := false,
    coKilled := false, ctxFault := false, reruns := 0#16, sub := 0#16, detail := 0#64, refs := [], gen := some 0, job := none,
    inner := none, pins := [], wrote := [], arrived := false, met := none, startTime := 0#64, endTime := 0#64, seqNo := 0, counts := [],
    cores := 0, prog := 0 }

/-- A LAUNCH of one core. -/
def launch0 : Body := .launch 0 0#2 0#8 0#8 0#32 0 4096 0 1000 [7#64]

/-- Object 4 is a 4 KiB completion ring of context 0, object 5 a plain object. -/
def ring0 : Obj := { Obj.reset with base := 0x4000, size := 4096, gen := 1#14, state := .mapped, kind := .record, parent := 4 }
def plain0 : Obj := { Obj.reset with base := 0x8000, size := 4096, gen := 1#14, state := .mapped, kind := .plain, writable := true, parent := 5 }

/-- Queue 0 of context 0 in partition 0. -/
def queue0 (st : QState) (l : List Cmd) : Queue :=
  { Queue.reset with state := st, ringLog2 := 4, ringObj := 5, complObj := 4, tail := 1#32, cmds := l }

/-- The free window with a queue and its commands. -/
def queued (st : QState) (l : List Cmd) : State := { freeOpen with
  ctxs := [(0, { Ctx.reset with state := .live })], queues := [(0, queue0 st l)], objs := [(4, ring0), (5, plain0)],
  gens := [(0, gen0)], shares := [(0, { ctx := 0, part := 0, off := 65536, size := 65536, state := .live, isSealed := false, clearing := [] })],
  kp := { live.kp with objEnable := true, objBase := 0x1000000#48 }, rg := { live.rg with cmdSeq := 1 } }

theorem test_hyp_FreeLaunchFollowsTheRegulator :
    let s := queued .active [cmd0 launch0 .fetched]
    (s.run = some { running with openWin := [(0, 1)] } ∧ (img.window 0 1).map Window.index = some 1 ∧ s.dispatches = true) ∧
    (s.offersFor 0 = [(0, cmd0 launch0 .fetched)] ∧ running.passed.contains (0, 0) = false) ∧
    (img.window 0 1).any (fun x => fits s img x 1000 1000) = true ∧
    (img.window 0 1).any (fun x => fits s img x 199000 1000) = false ∧
    s.freeEligible { running with openWin := [(0, 1)] } 0 1 = [0] ∧ s.freeCores 0 + 1 ≤ img.freeLimit 0 := by decide +kernel

/-- The launch puts the argument into S1 (R135). -/
theorem test_free_launch : shows (exec (.freeLaunch 0#3 1000#32) (queued .active [cmd0 launch0 .fetched]))
    (fun t => (t.core 0).reg 1 == 7#64 && (t.job 0).isSome) = true := by decide +kernel

/-- The same with halt hold, and with the core held. -/
def holding : State := { at0 0 with obs := { (at0 0).obs with hold := 1#16 } }
def held0 : State := { at0 0 with cores := [(0, { core0 0 with st := .held })] }

theorem test_hyp_OverrunsHoldsAndTimeouts : (((at0 0).core 0).st = .running ∧ (at0 0).obs.halted = false ∧
      ((at0 0).core 0).job = some 0 ∧ (at0 0).job 0 = some job0 ∧ job0.kill = none ∧ 0 ∈ job0.cores ∧
      bitAt (at0 0).obs.hold.toNat 0 = false) ∧ bitAt holding.obs.hold.toNat 0 = true ∧
    ((held0.core 0).st = .held ∧ (held0.core 0).job = some 0 ∧ held0.job 0 = some job0) ∧ (ready.core 0).st ≠ .held := by decide +kernel

theorem test_bound_overrun : shows (exec (.boundOverrun 0#4) (at0 0))
    (fun t => (t.core 0).st == .killing && (t.core 0).hCode == Config.BOUND_OVERRUN) = true ∧
    shows (exec (.boundOverrun 0#4) holding) (fun t => (t.core 0).st == .held) = true := by decide +kernel

/-- The job being killed on core 0, on two cores, and over. -/
def killed1 : State := { at0 0 with jobs := [(0, { job0 with kill := some .fault, killing := [0] })] }
def killed2 : State := { at0 0 with jobs := [(0, { job0 with kill := some .fault, killing := [0, 1], cores := [0, 1] })] }
def over0 : State := { at0 0 with cores := [(0, { core0 0 with ended := true })] }

theorem test_hyp_JobsEndAndAreKilled : (killed1.obs.halted = false ∧ (killed1.core 0).job = some 0 ∧
      (killed1.job 0).any (fun j => j.killing.filter (fun x => x != 0) == [] && j.killing.contains 0) = true) ∧
    (killed2.job 0).any (fun j => j.killing.filter (fun x => x != 0) != []) = true ∧
    (over0.jobOver 0 job0 = true ∧ over0.obs.halted = false) ∧ (at0 0).jobOver 0 job0 = false ∧
    (∀ d ∈ ready.cores, d.2.stall = 0#3) := by decide +kernel

/-- No core of these waits at issue. -/
theorem test_hyp_JobsEndAndAreKilled_NoneWaits : NoneWaits killed2 ∧ NoneWaits ready ∧ (ready.core 0).job = none := by
  refine ⟨fun c => ?_, fun c => ?_, rfl⟩
  · by_cases h : c = 0
    · subst h; decide
    · have e : killed2.core c = Core.reset := by
        show tget Core.reset [(0, core0 0)] c = _
        simp [tget, Ne.symm h]
      rw [e]; decide
  · exact (by decide : Core.reset.stall ≠ 1#3)

theorem test_job_end : shows (exec (.jobEnd 0#4) over0) (fun t => (t.core 0).st == .idle && (t.job 0) == none) = true := by decide +kernel

/-- The station's job, ended; and a queue with a completed and a recorded command. -/
def ended : State := { live with run := some { running with beat := [(0, .ended)] }, jobs := [(0, { job0 with kind := .station 0 })] }
def completing (b : Body) : State := queued .idle [cmd0 b .completed]
def recorded : State := queued .idle [cmd0 .nop .recorded]

theorem test_hyp_CommitsAndRecords : (ended.run = some { running with beat := [(0, .ended)] } ∧
      ({ running with beat := [(0, .ended)] } : Running).status 0 = .ended ∧ ended.dispatches = true ∧
      ended.jobs.filter (fun x => x.2.kind == .station 0) = [(0, { job0 with kind := .station 0 })]) ∧
    running.status 0 ≠ .ended ∧
    ((completing launch0).commits ((completing launch0).queue 0) = true ∧
      nextCommit ((completing launch0).queue 0).cmds = some (cmd0 launch0 .completed) ∧ (cmd0 launch0 .completed).inner = none ∧
      (cmd0 launch0 .completed).code = 0#16 ∧ ((completing launch0).ctx 0).ring = none) ∧
    (nextCommit (recorded.queue 0).cmds = none ∧ (recorded.queue 0).toIndex = some (cmd0 .nop .recorded) ∧
      recorded.acked (fun o => o == .record 0 0#32) = true ∧ (recorded.inst 0).recordsOpen = true) ∧
    (ready.queue 0).toIndex = none := by decide +kernel

/-- Every queue but queue 0 is empty here. -/
theorem queue_other (s : State) (q : Queue) (n : Nat) (h : s.queues = [(0, q)]) (hn : n ≠ 0) : s.queue n = Queue.reset := by
  show tget Queue.reset s.queues n = _
  rw [h]
  simp [tget, Ne.symm hn]

/-- The commands of `queued` are settled once they are done, and numbered apart below the next number. -/
theorem test_hyp_Settled : Settled (completing .nop) ∧ DistinctCmds (completing .nop) ∧ Numbered (completing .nop) := by
  have z : ∀ n, ((completing .nop).queue n).cmds = if n = 0 then [cmd0 .nop .completed] else [] := by
    intro n
    by_cases h : n = 0
    · subst h; rfl
    · rw [queue_other _ _ n rfl h, if_neg h]; rfl
  refine ⟨fun n c hc => ?_, fun n => ?_, fun n => ?_, fun n c hc => ?_⟩
  · rw [z] at hc; split at hc
    · rw [List.mem_singleton.1 hc]; exact .inl rfl
    · cases hc
  · rw [z]; split <;> simp
  · rw [z]; split <;> simp
  · rw [z] at hc; split at hc
    · rw [List.mem_singleton.1 hc]; decide
    · cases hc

/-- The record of a NOP: TAG at byte 4 of its slot (R276); then INDEX at byte 0, and the command is gone. -/
theorem test_commit : shows (exec (.commit (.queue 0#13)) (completing .nop))
    (fun t => memGet t.mem 0x4004 == 9#8 && memGet t.mem 0x4000 == 0#8) = true ∧
    shows (exec (.completionIndexWrite 0#13) recorded) (fun t => (t.queue 0).cmds == []) = true := by decide +kernel

/-! ## Streams and counters -/

/-- The image with an edge from the station to itself, its slot bound to object 5, and the station's job. -/
def imgE : Image := { img with edges := [{ src := 0, dst := 0, staged := false, mib := 1, tileBytes := 64 }] }
def jobS : Job := { job0 with kind := .station 0 }
def runningE : Running := { running with img := imgE, bindings := [(7, { obj := 5, ctx := 0, filled := true, refilling := false })] }

/-- A send lane and a receive lane of 64-byte tiles. -/
def sendL : SendLane :=
  { credits := 1, slots := 2, hops := 1, tileBytes := 64, dstCore := 0, dstLane := 0, dstStation := 0, returning := 1, ptr := 0 }
def recvL : RecvLane :=
  { held := 1, slots := 2, hops := 1, tileBytes := 64, srcCore := 0, srcLane := 0, srcStation := 0, ptr := 0,
    buf := 69760, inFlight := [{ bytes := leBytes 64 9, sig := .none, src := 0, pc := 0, order := 0 }] }

/-- Core 0 at an instruction of the station's job; S3 is 64, S4 is 1. -/
def stream0 (w : Nat) : State := { at0 w with
  run := some runningE, jobs := [(0, jobS)], objs := [(5, plain0)],
  cores := [(0, { core0 w with regs := [(3, 64#64), (4, 1#64)], sendLanes := [(0, sendL)], recvLanes := [(0, recvL)] })] }

/-- LOAD, STORE, MCAST, SEND, FENCE and RELEASE may issue: A is S0 (slot position 0, or lane 0 in S4), C is S3. -/
theorem test_hyp_StreamInstructionsQueueTheirOperation (w : Nat) (h : w ∈ [word 0xC0 0 0 0 0 3 0, word 0xC1 0 0 0 0 3 0,
      word 0xC3 0 0 0 0 3 0, word 0xC2 0 0 4 0 0 0, word 0xC5 0 0 0 0 0 0, word 0xC4 0 0 0 0 0 0]) :
    MayIssue (stream0 w) 0 0 jobS (decodeIns w) ∧ streamLegal (decodeIns w) = true := by
  have k : ∀ w ∈ [word 0xC0 0 0 0 0 3 0, word 0xC1 0 0 0 0 3 0, word 0xC3 0 0 0 0 3 0, word 0xC2 0 0 4 0 0 0,
      word 0xC5 0 0 0 0 0 0, word 0xC4 0 0 0 0 0 0], (mayIssue0 (stream0 w) jobS w && streamLegal (decodeIns w)) = true := by
    decide +kernel
  have e := k w h
  simp only [Bool.and_eq_true] at e
  exact ⟨mayIssue0_sound e.1, e.2⟩

theorem test_hyp_StreamInstructionsQueueTheirOperation_operands :
    (let s := stream0 (word 0xC0 0 0 0 0 3 0)
     let i := decodeIns (word 0xC0 0 0 0 0 3 0)
     s.objLegal 0 jobS i .load = true ∧ s.objOperand 0 jobS i = some 7#32 ∧ s.objScratch 0 jobS i .load = .ok (.work 0) ∧
       s.sealBreach 0 jobS i .load = none ∧ ((s.core 0).se.thread 0).queue.length < 8) ∧
    (let s := stream0 (word 0xC2 0 0 4 0 0 0)
     let i := decodeIns (word 0xC2 0 0 4 0 0 0)
     s.sendLegal 0 jobS i = true ∧ s.maskTile 0 jobS i = 64 ∧ s.scratchOpnd 0 jobS i.imm 64 = .ok (.work 0)) ∧
    (0 < (stream0 0).recvCount jobS ∧ ((stream0 0).recvLane 0 jobS 0).held ≠ 0) := by decide +kernel

/-- RELEASE frees the oldest tile and sends a credit back (R115). -/
theorem test_release : shows (exec (.release 0#4) (stream0 (word 0xC4 0 0 0 0 0 0)))
    (fun t => (t.recvLane 0 jobS 0).held == 0 && (t.recvLane 0 jobS 0).ptr == 1 && (t.sendLane 0 jobS 0).returning == 2) = true := by
  decide +kernel

/-- A stream operation, alone on thread 1. -/
def op0 (k : SKind) : StreamOp :=
  { kind := k, objRef := 7#32, off := 0, len := 64, scratch := .work 0, lanes := [0], pc := 0, sig := .none, round := 0, id := 0,
    obj := 5, base := 0x8000, total := 0, leads := false, issued := 0, landed := [] }
def waiting (k : SKind) : State := { stream0 0 with cores := [(0, { (stream0 0).core 0 with
  se := { Stream.reset with threads := [(1, { queue := [op0 k], active := [] })] } })] }
def started (k : SKind) : State := { stream0 0 with cores := [(0, { (stream0 0).core 0 with
  se := { Stream.reset with threads := [(1, { queue := [], active := [op0 k] })] } })] }

theorem test_hyp_StreamOperationsStart : (∀ k ∈ [SKind.fence, .send, .load, .store],
      (waiting k).engaged 0 = some (0, jobS) ∧ (((waiting k).core 0).se.thread 1).queue = [op0 k] ∧
      (((waiting k).core 0).se.thread 1).held (op0 k) = false) ∧
    ((waiting .send).sendLane 0 jobS 0).credits ≠ 0 ∧ (op0 .send).lanes.Nodup ∧
    ((waiting .load).streamEntry jobS 7#32 false = some 5 ∧ (waiting .load).streamBreach jobS (op0 .load) 5 = none ∧
      (waiting .load).basinFor jobS (op0 .load) = none ∧ ((waiting .load).core 0).se.inFlight < 4096) ∧
    ((waiting .store).streamBreach jobS { op0 .store with off := 4033 } 5).isSome = true ∧
    (waiting .load).streamEntry jobS 8#32 false = none ∧ ((waiting .load).opndBad 0 jobS (.work 0) 64 = none) ∧
    ready.engaged 0 = none := by decide +kernel

/-- A LOAD that ends at the last byte of its object starts; a STORE writes memory at once (R122). -/
theorem test_stream_start : shows (exec (.streamOpStart ⟨0#4, .none⟩ 1#6) (waiting .load))
    (fun t => ((t.core 0).se.thread 1).queue == [] && ((t.core 0).se.thread 1).active.length == 1) = true := by decide +kernel

theorem test_hyp_StreamOperationsComplete : (∀ k ∈ [SKind.fence, .send, .load, .store],
      (started k).engaged 0 = some (0, jobS) ∧
      (((started k).core 0).se.thread 1).active.find? ((started k).opDone 0 1) = some (op0 k)) ∧
    ((op0 .send).lanes.map fun l => ((started .send).sendLane 0 jobS l).dst).Nodup ∧
    (started .load).coreMayUse jobS .add 5#17 = false ∧
    ((ready.core 0).se.thread 1).active.find? (ready.opDone 0 1) = none := by decide +kernel

/-- A SEND puts its tile on the way (R120). -/
theorem test_send : shows (exec (.streamOpComplete 0#4 1#6) (started .send))
    (fun t => (t.recvLane 0 jobS 0).inFlight.length == 2) = true := by decide +kernel

theorem test_hyp_TilesCreditsAndWatches : (stream0 0).obs.halted = false ∧
    (laneFirst ((stream0 0).ownLane 0 0) 0 ((stream0 0).core 0).recvLanes (fun r => !r.inFlight.isEmpty)) = some (0, recvL) ∧
    recvL.inFlight = { bytes := leBytes 64 9, sig := .none, src := 0, pc := 0, order := 0 } :: [] ∧
    (laneFirst ((stream0 0).ownLane 0 0) 0 ((stream0 0).core 0).sendLanes (fun x => decide (0 < x.returning))) = some (0, sendL) ∧
    (laneFirst ((stream0 0).ownLane 0 1) 1 ((stream0 0).core 0).sendLanes (fun x => decide (0 < x.returning))) = none ∧
    ((stream0 0).core 0).watch = none := by decide +kernel

theorem test_tile : shows (exec (.tileArrival ⟨0#4, .none⟩ 0#6) (stream0 0))
    (fun t => (t.recvLane 0 jobS 0).held == 2 && (t.recvLane 0 jobS 0).inFlight == []) = true := by decide +kernel

/-- A live context counter with the error flag, at a value, and an update of it on its way to core 0. -/
def counting (v : W32) (a : W32) : State := { live with
  counters := [(4096, { Counter.reset with kind := .context, state := .live, error := true, value := v })]
  updates := [(0, [{ id := 4096#17, amount := a, source := .core 0, job := none, pc := 0, cycle := 0 }])] }

theorem test_hyp_CounterUpdatesApply : (Running' (counting 1#32 0xFFFFFFFF#32) ∧
      tget [] (counting 1#32 0xFFFFFFFF#32).updates 0 = [{ id := 4096#17, amount := 0xFFFFFFFF#32, source := .core 0, job := none, pc := 0, cycle := 0 }] ∧
      ((counting 1#32 0xFFFFFFFF#32).counter 4096).kind ≠ .flightArrive ∧ ((counting 1#32 0#32).counter 4096).state = .live) ∧
    (0 : Int) ≤ 1 + (0xFFFFFFFF#32).toInt ∧ (0 : Int) + (0xFFFFFFFF#32).toInt < 0 ∧
    (0xFFFFFFFF : Int) < 0xFFFFFFFF + (1#32).toInt ∧ (ready.counter 4096).state ≠ .live ∧ tget [] ready.updates 0 = [] := by
  unfold Running'
  decide +kernel

/-- A counter reaches 0 and its largest value without a fault, and faults one step beyond (R305). -/
theorem test_counter_edges :
    shows (exec (.counterUpdate 0#4 .none) (counting 1#32 0xFFFFFFFF#32)) (fun t => (t.counter 4096).value == 0#32 &&
      (t.counter 4096).state == .live) = true ∧
    shows (exec (.counterUpdate 0#4 .none) (counting 0#32 0xFFFFFFFF#32)) (fun t => (t.counter 4096).state == .faulted) = true ∧
    shows (exec (.counterUpdate 0#4 .none) (counting 0xFFFFFFFE#32 1#32)) (fun t => (t.counter 4096).state == .live) = true ∧
    shows (exec (.counterUpdate 0#4 .none) (counting 0xFFFFFFFF#32 1#32)) (fun t => (t.counter 4096).fault == 1#2) = true := by
  decide +kernel

/-! ## Matrix and vector instructions -/

/-- Matrix instruction words: MWLD and MMA of FP8, MDRAIN of row format, MZERO. -/
def matWords : List Nat :=
  [word 0x40 0 0 0 0 0 0 0 + 4 * 2 ^ 112, word 0x41 0 0 0 0 0 4 256 + 4 * 2 ^ 112,
   word 0x42 0 0 0 0 0 4 256 + 4 * 2 ^ 112, word 0x43 0 0 0 0 0 4]

/-- Vector instruction words, with every source a stream at offset 0 of the working area. -/
def vecWords : List Nat :=
  List.map (fun (p : Nat × Nat × Nat) => word p.1 p.2.1 1 0 0 0 0 1024 + p.2.2 * 2 ^ 112) (([0x80, 0x81, 0x82, 0x84, 0x85].map fun o => (o, 0x009, 1)) ++ ([0x83, 0x86, 0x91].map fun o => (o, 0x049, 1)) ++
    ([0x87, 0x88, 0x89, 0x8A, 0x8B, 0x8C, 0x8D, 0x8E, 0x98, 0x99, 0x9A].map fun o => (o, 0x001, 1)) ++
    [(0x90, 0x009, 1), (0x92, 0x009, 0), (0x93, 0x009, 0), (0x94, 0x001, 0), (0xA0, 0x0801, 2), (0xA8, 0x049, 1),
     (0xA9, 0x049, 1)])

/-- Room for a matrix instruction, and its operands in range. -/
def matOk (w : Nat) (k : MKind) : Bool :=
  mayIssue0 (at0 w) job0 w && matrixLegalFor job0 (decodeIns w) &&
    (match (at0 w).matCheck 0 job0 (decodeIns w) k with | .ok o => o.laneOf == none | .error _ => false)

theorem test_hyp_EngineInstructionsQueueTheirOperation_matrix :
    (List.zipWith matOk matWords [.mwld, .mma, .mdrain, .mzero]) = [true, true, true, true] ∧ job0.deferred = false ∧
    (∀ w ∈ matWords, ((at0 w).core 0).me.queue.length < 4 ∧ wfmtFault (decodeIns w) = none) := by decide +kernel

theorem test_hyp_EngineInstructionsQueueTheirOperation_vector : ∀ w ∈ vecWords,
    (mayIssue0 (at0 w) job0 w && vectorLegal (decodeIns w) && decide (((at0 w).core 0).ve.queue.length < 8) &&
      (vecOp (at0 w) 0 job0 (decodeIns w) .none).lanes.isEmpty) = true := by decide +kernel

/-- An MWLD enters the matrix queue with its pc (R155, R192). -/
theorem test_mwld : shows (exec (.mwld 0#4) (at0 (matWords.getD 0 0)))
    (fun t => (t.core 0).me.queue.map (fun o => (o.scratch, o.pc)) == [(.work 0, 0)] && (t.core 0).pc == 16) = true := by
  decide +kernel

/-- A matrix operation of core 0. -/
def mop (k : MKind) (mod : BitVec 16) : MatOp :=
  { kind := k, fmt := 4#4, mod := mod, scratch := .work 0, row := 511, m := 2, size := 0, ends := 0, pc := 0, sig := .none }

/-- Core 0 with a matrix operation that waits, and with one that runs. -/
def matWaits (o : MatOp) : State := { at0 0 with cores := [(0, { core0 0 with me := { (core0 0).me with queue := [o] } })] }
def matRuns (o : MatOp) : State := { at0 0 with cores := [(0, { core0 0 with
  me := { (core0 0).me with running := [o], acc := [(3, 8#32), (512 + 3, 9#32), (511 * 512 + 3, 7#32)] } })] }

theorem test_hyp_MatrixOperationsRun : (∀ o ∈ [mop .mwld 0#16, mop .mma 0#16, mop .mdrain 0#16, mop .mzero 0#16],
      (matWaits o).engaged 0 = some (0, job0) ∧ ((matWaits o).core 0).me.queue = [o] ∧
      ((matWaits o).core 0).me.running.any (o.waitsFor ((matWaits o).core 0).me (matWaits o).arithCycle) = false ∧
      (matRuns o).engaged 0 = some (0, job0) ∧
      takePath o.kind.path ((matRuns o).core 0).me.running = some (o, [])) ∧
    ready.engaged 0 = none ∧ matStop (matWaits (mop .mwld 0#16)) 0 job0 (mop .mwld 0#16) = none ∧
    (matStop (matWaits (mop .mma 0#16)) 0 job0 (mop .mma 0#16)).isSome = true ∧
    (matWaits (mop .mwld 0#16)).opndBad 0 job0 (.work 0) ((mop .mwld 0#16).tile ((core0 0).me)).size = none := by
  decide +kernel

/-- MZERO wraps past row 511 (R200): rows 511 and 0 go, row 1 stays. -/
theorem test_mzero : shows (exec (.matrixOpComplete 0#4 .drain) (matRuns (mop .mzero 0#16)))
    (fun t => (t.core 0).me.word 511 3 == 0#32 && (t.core 0).me.word 0 3 == 0#32 && (t.core 0).me.word 1 3 == 9#32) = true := by
  decide +kernel

/-- An FP32 VADD over five elements from offset 0 to offset 1,024. -/
def vop (op : BitVec 8) : VecOp :=
  { op := op, fmt := 1#4, mod := 9#16, shape := 5#64, a := 0#64, b := 0#64, c := 0#64, aField := 0, bField := 0, cField := 0,
    dest := 1024#32, shift := 0, dch := 0, slots := [0, 0, 0], pc := 0, sig := .none }

/-- Core 0 with a vector instruction that waits, and with a group that runs; its working area begins with 1.0. -/
def vecWaits (o : VecOp) : State := { at0 0 with cores := [(0, { core0 0 with ve := { (core0 0).ve with queue := [o] } })] }
def vecRuns (o : VecOp) : State := { at0 0 with cores := [(0, { core0 0 with
  ve := { (core0 0).ve with groups := [[o]] }, scratch := [(2, 0x80#8), (3, 0x3F#8)] })] }

theorem test_hyp_VectorGroupsRun :
    ((vecWaits (vop 0x80#8)).engaged 0 = some (0, job0) ∧
      formGroup 4 ((vecWaits (vop 0x80#8)).core 0).ve.queue = some ([vop 0x80#8], []) ∧
      (groupStop (vecWaits (vop 0x80#8)) 0 job0 [vop 0x80#8]).isNone = true) ∧
    groupFault [] [{ vop 0x80#8 with shape := 0#64 }] = some ({ vop 0x80#8 with shape := 0#64 }, 8) ∧
    ready.engaged 0 = none ∧
    ((vecRuns (vop 0x80#8)).groupRun 0 job0 1 [vop 0x80#8] []).getLast?.isSome = true ∧
    cleanOverlap [vop 0x80#8] = true ∧ cleanOverlap [{ vop 0x80#8 with dest := 4#32 }] = false := by decide +kernel

/-- 1.0 + 1.0 is 2.0, +0 + +0 is +0 (R224). -/
theorem test_vadd : shows (exec (.vectorGroupComplete 0#4) (vecRuns (vop 0x80#8)))
    (fun t => (List.range 8).map (fun n => tget 0#8 (t.core 0).scratch (1024 + n)) ==
      [0#8, 0#8, 0#8, 0x40#8, 0#8, 0#8, 0#8, 0#8]) = true := by decide +kernel

/-! ## The host port, queues and packets -/

/-- Core 0 fused off. -/
def coreless : State := { ready with fuse := { ready.fuse with grade := 0xFFFE#32 } }

theorem test_hyp_HostPortChecksWrites : ready.portAlive = true ∧ ready.obs.halted = false ∧ ready.boot.state = .ready ∧
    inPor.portAlive = false ∧ answersHalted 0x100100 = false ∧ answersEarly 0x100100 = false ∧
    windowCore 0x2000000 = some 0 ∧ coreless.present 0 = false ∧ coreless.portAlive = true ∧ ManagerMay ready mgr ∧
    ready.reaches { inst := 5#6, valid := true } 0x100100 true = false := by
  unfold ManagerMay
  decide

/-- R12: a misaligned access has no effect but KP_HOST_ERR. -/
theorem test_misaligned : shows (exec (.registerWrite mgr 0x701#26 false 9#64) ready)
    (fun t => t.boot.hostErr == 1#32 && t.kp.remoteLimitUs == ready.kp.remoteLimitUs) = true := by decide +kernel

/-- A packet (R276): opcode, SPEC and body fields (offset, value). -/
def pkt (op spec : Nat) (fs : List (Nat × Nat)) : List Byte :=
  leBytes 64 (op + 9 * 2 ^ 16 + spec * 2 ^ 32 + (fs.map fun f => f.2 * 2 ^ (8 * f.1)).sum)

/-- Handle of an object of generation 1. -/
def hnd (i : Nat) : Nat := 2 ^ 18 + i

/-- Object 6 is a fence, object 7 an output. Instance 0 owns queue 0 and `w` wait slots, and objects 8 to 15. -/
def fence0 : Obj := { Obj.reset with base := 0x5000, size := 64, gen := 1#14, state := .mapped, kind := .fence, parent := 6 }
def output0 : Obj := { Obj.reset with base := 0x6000, size := 256, gen := 1#14, state := .mapped, kind := .output, writable := true, parent := 7 }
def pooled (w : Nat) (s : State) : State := { s with
  insts := [(0, { s.inst 0 with pools := { (s.inst 0).pools with queueCount := 1, waitQuota := w, objFirst := 8, objCount := 8 } })],
  objs := [(4, ring0), (5, plain0), (6, fence0), (7, output0)] }

/-- Queue 0 in a state with a packet in its ring. -/
def posted (b : List Byte) : State := { pooled 1 (queued .active []) with mem := memPutAll [] 0x8000 b }

theorem test_hyp_DoorbellsAndFetchSlots : (∀ st ∈ [QState.idle, .ready, .active, .error],
      PageMay (pooled 1 (queued st [])) mgr 0#6) ∧
    ((pooled 1 (queued .ready [])).inst 0).state = .enabled ∧ (State.reset.inst 1).state = .free ∧
    lowestVt ((queued .ready []).queuesIn 0 .ready) = some (0, queue0 .ready []) ∧ (queued .ready []).fetches = true ∧
    ready.queuesIn 0 .ready = [] := by
  unfold PageMay
  decide +kernel

/-- R270: a doorbell that runs the tail past the ring. -/
theorem test_doorbell : shows (exec (.doorbell 0#6 mgr 0x1100000000#64) (pooled 1 (queued .idle [])))
    (fun t => (t.queue 0).state == .error) = true ∧
    shows (exec (.doorbell 0#6 mgr 0x1000000000#64) (pooled 1 (queued .idle [])))
    (fun t => (t.queue 0).state == .ready && (t.queue 0).tail == 16#32) = true := by decide +kernel

/-- One packet of each row that decodes as the row's command. -/
theorem test_hyp_PacketsAreFetched : ∀ x ∈ [(pkt 0 0 [], 0, 0), (pkt 1 0 [], 1, 0), (pkt 2 0 [], 2, 0), (pkt 3 0 [], 3, 0),
      (pkt 4 0 [], 4, 0), (pkt 5 0 [], 5, 0), (pkt 6 0 [], 6, 0), (pkt 7 0 [], 7, 0), (pkt 7 1 [], 7, 1), (pkt 7 2 [], 7, 2),
      (pkt 8 0 [], 8, 0), (pkt 9 0 [], 9, 0), (pkt 10 0 [], 10, 0), (pkt 11 0 [], 11, 0)],
    let s := posted x.1
    (s.mayFetch (s.queue 0) && (s.queue 0).held == .none && s.nextOp (s.queue 0) == some x.2 &&
      !s.poisoned (s.packetAddr (s.queue 0)) 64) = true := by decide +kernel

/-- What the checks make of a packet. -/
def checked (b : List Byte) : Checked := (posted b).checkPacket 0 0 false b

theorem test_hyp_PacketsAreFetched_checks : checked (pkt 2 0 []) = .fail Config.PACKET_MALFORMED 0#64 ∧
    checked (pkt 8 0 [(8, 2 * 2 ^ 18 + 6)]) = .stale (BitVec.ofNat 32 (2 * 2 ^ 18 + 6)) ∧ checked (pkt 0 0 []) = .ok .nop ∧
    ({ posted (pkt 0 0 []) with poison := [256] } : State).poisoned 0x8000 64 = true ∧
    ({ posted (pkt 4 0 []) with queues := [(0, { queue0 .active [] with held := .waitSlot })] } : State).mayFetch
      { queue0 .active [] with held := .waitSlot } = true := by decide +kernel

theorem test_hyp_IndirectsAndWaitsAreFetched :
    checked (pkt 11 0 [(8, hnd 5), (0x18, 2)]) = .ok (.indirect (BitVec.ofNat 32 (hnd 5)) 0 2) ∧
    checked (pkt 4 0 [(8, hnd 6), (0x18, 1)]) = .ok (.waitFence false (BitVec.ofNat 32 (hnd 6)) 0 1#64) ∧
    (posted []).waitOutcome (.waitFence false (BitVec.ofNat 32 (hnd 6)) 0 1#64) = none ∧ (posted []).waitRoom 0 = true ∧
    (pooled 0 (queued .active [])).waitRoom 0 = false := by decide +kernel

/-- A fetched NOP packet leaves the ring (R275), and a WAIT takes its queue to WAITING (R272). -/
theorem test_fetch : shows (exec (.nopPacket 0#13) (posted (pkt 0 0 [])))
    (fun t => (t.queue 0).head == 1#32 && (t.queue 0).cmds.map (fun c => c.tag) == [9#16]) = true ∧
    shows (exec (.wait 0#13) (posted (pkt 4 0 [(8, hnd 6), (0x18, 1)]))) (fun t => (t.queue 0).state == .waiting) = true := by
  decide +kernel

/-- A FILL and a COPY, fetched and started. -/
def fill0 : Body := .fill (BitVec.ofNat 32 (hnd 7)) 8 10 0x0807060504030201#64
def copy0 : Body := .copy (BitVec.ofNat 32 (hnd 5)) (BitVec.ofNat 32 (hnd 7)) 0 0 16
def moving (b : Body) (p : Phase) : State :=
  let s := pooled 1 (queued .idle [cmd0 b p])
  { s with rgParts := [(0, { (s.rgPart 0) with copyRun := if p = .started then some (0, 0) else none })] }

theorem test_hyp_CopiesAndFills : (∀ b ∈ [fill0, copy0], (moving b .fetched).startableMoves 0 = [(0, cmd0 b .fetched)] ∧
      ((moving b .fetched).rgPart 0).copyRun = none ∧ (moving b .fetched).fetches = true ∧
      (moving b .started).portAlive = true ∧ (moving b .started).obs.halted = false ∧
      ((moving b .started).rgPart 0).copyRun = some (0, 0) ∧ ((moving b .started).queue 0).cmd 0 = some (cmd0 b .started) ∧
      (moving b .started).movePoison (cmd0 b .started) = none) ∧
    (({ moving copy0 .started with poison := [256] } : State).movePoison (cmd0 copy0 .started)).isSome = true ∧
    (ready.rgPart 0).copyRun = none := by decide +kernel

/-- FILL writes the pattern by offset from its own start (R283). -/
theorem test_fill : shows (exec (.copyFillComplete 0#3) (moving fill0 .started))
    (fun t => (t.rgPart 0).copyRun == none && memGet t.mem ((moving fill0 .started).stagingBase (BitVec.ofNat 32 (hnd 7)) + 8) == 1#8 &&
      memGet t.mem ((moving fill0 .started).stagingBase (BitVec.ofNat 32 (hnd 7)) + 17) == 2#8 &&
      memGet t.mem ((moving fill0 .started).stagingBase (BitVec.ofNat 32 (hnd 7)) + 18) == 0#8) = true := by decide +kernel

/-- A pending wait on the fence, whose value is 1; an object being freed; a slot whose basin copy is missing. -/
def wait1 : Body := .waitFence false (BitVec.ofNat 32 (hnd 6)) 0 1#64
def waitQ : State := { pooled 1 (queued .waiting [cmd0 wait1 .pendingWait]) with mem := [⟨0x5000, 1#8⟩] }
def freeing : State := { pooled 1 (queued .idle []) with objs := [(9, { fence0 with state := .freeing, parent := 9, gen := 0x3FFF#14 })] }
def orphaned : State := { freeing with objs := [(9, { fence0 with state := .orphaned, parent := 9 })] }
def unfilled : State := { pooled 1 (queued .idle []) with
  run := some { running with bindings := [(7, { obj := 5, ctx := 0, filled := false, refilling := false })] } }

theorem test_hyp_WaitsFreesFillsAndTheTable :
    ((waitQ.queue 0).cmds.find? fun c => c.phase == .pendingWait) = some (cmd0 wait1 .pendingWait) ∧
    (waitQ.portAlive = true ∧ waitQ.startOpen (waitQ.queue 0) = true ∧ waitQ.waitAcked wait1 = true) ∧
    (waitQ.waitOutcome wait1).isSome = true ∧ ((pooled 1 (queued .waiting [])).waitOutcome wait1).isNone = true ∧
    ((freeing.obj 9).state = .freeing ∧ freeing.ownRefs 9 = 0 ∧ freeing.obs.halted = false ∧ freeing.portAlive = true) ∧
    ((orphaned.obj 9).state = .orphaned ∧ orphaned.importsOf 9 = 0) ∧
    (unfilled.run.any fun r => (tfind r.bindings 7).any (·.waits) && (r.img.slotDecl 7).any r.fillNext) = true ∧
    ready.kp.objEnable = false ∧ freeing.kp.objEnable = true ∧ Running' ready := by
  unfold Running'
  decide +kernel

/-- An entry's generation passes from 16,383 to 1 when it is free again (R248). -/
theorem test_free : shows (exec (.freeComplete 9#18) freeing) (fun t => (t.obj 9).gen == 1#14 && (t.obj 9).state == .free) = true := by
  decide +kernel

/-- The commands whose commit takes effect, on a queue that may commit. -/
def hw (i : Nat) : W32 := BitVec.ofNat 32 (hnd i)
def commitBodies : List Body :=
  [.signalCounter false 3#17 5#32, .signalCounter true 3#17 5#32,
   .mapNew .plain true false false false false 0#6 0#9 (hw 8) 0x10000 4096 0#64, .mapImport false (hw 8) (hw 6),
   .signalFence false (hw 6) 0 5#64 0#16, .timestamp (hw 4) 0x40, .counterDump false false (hw 4) 0x200]
def committing (b : Body) : State := { pooled 1 (completing b) with counters := [(3, { Counter.reset with state := .live })] }

theorem test_hyp_CommittedCommandsTakeEffect : (∀ b ∈ commitBodies,
      ((committing b).commits ((committing b).queue 0) && nextCommit ((committing b).queue 0).cmds == some (cmd0 b .completed)) = true) ∧
    (cmd0 .nop .completed).inner = none ∧ (cmd0 .nop .completed).code = 0#16 ∧ ((committing .nop).ctx 0).ring = none ∧
    ((committing .nop).counter 3).state = .live ∧ ((committing .nop).counter 3).kind ≠ .flightArrive ∧
    ((committing .nop).counter 3).error = false ∧ (committing .nop).fenceCode 6 0 ≠ Config.ABANDONED ∧
    handleIndex (hw 6) ≠ handleIndex (hw 8) ∧ ((committing .nop).obj 6).parent ≠ handleIndex (hw 8) := by decide +kernel

/-- A fence signal writes VALUE and CODE (R262, R285). -/
theorem test_signal : shows (exec (.commit (.queue 0#13)) (committing (.signalFence false (hw 6) 0 5#64 3#16)))
    (fun t => memGet t.mem 0x5000 == 5#8 && memGet t.mem 0x5008 == 3#8) = true := by decide +kernel

/-! ## Mailboxes, instances and teardown -/

/-- A request on page 0 from the manager. -/
def req (w0 w1 w2 w3 w4 : Nat) : MbReq :=
  { page := 0#6, who := mgr, seq := 7#16, w0 := BitVec.ofNat 64 w0, w1 := BitVec.ofNat 64 w1, w2 := BitVec.ofNat 64 w2,
    w3 := BitVec.ofNat 64 w3, w4 := BitVec.ofNat 64 w4, w5 := 0#64, w6 := 0#64, w7 := 0#64 }

/-- Instance 0 with pools of every kind, instance 2 DISABLED, instance 3 ENABLED and empty. -/
def hosted : State :=
  let s := pooled 1 (queued .idle [])
  { s with
    insts := [(0, { s.inst 0 with pools := { (s.inst 0).pools with
        ctxCount := 2, queueCount := 2, objFirst := 8, objCount := 8, keyCount := 2, ctrQuota := 1, waitQuota := 1,
        mem := [(0x100000, 65536)] } }),
      (2, { Inst.reset with state := .disabled }), (3, { Inst.reset with state := .enabled })],
    sec := { s.sec with importReady := true, keys := [(1, some 5#512)] } }

/-- One well-formed request of each opcode. -/
def requests : List (Nat × MbReq) :=
  [(0x01, req 0x500 0 0 0 0), (0x02, req 0 0 0 0 0), (0x03, req 0 (1 + 4 * 2 ^ 40) (hnd 5 + hnd 4 * 2 ^ 32) 0 0), (0x04, req 0 0 0 0 0),
   (0x05, req 0 0 0 0 0), (0x06, req 0 (2 ^ 24) 9 0 0), (0x10, req 0 4 0x200000 0 0), (0x12, req 0 2 0 0 0), (0x13, req 0 3 0 0 0),
   (0x20, req 0 0x100000 0 0 0), (0x21, req 0 0 0x100000 0 0), (0x22, req 0 1 0 0 0), (0x23, req 0 (hnd 4) 0 0 0),
   (0x30, req 0 (2 ^ 16 + 4 * 2 ^ 24) (hnd 4) 0 0)]

theorem test_hyp_MailboxRequestsAreChecked : (∀ x ∈ requests, MbClear hosted x.2 (reqWords x.2 x.1)) ∧
    (∀ d ∈ [(false, req 0 3 0 0 0), (true, req 0 (3 + 2 ^ 32) 0 0 0)], MbClear hosted d.2 (disableWords d.2 d.1)) ∧
    MbTakes { hosted with fr := { hosted.fr with stopped := true } } (req 0 0 0 0 0) (reqWords (req 0 0 0 0 0) 1) ∧
    ((mbTaken hosted (req 0 1 0 0 0) (reqWords (req 0 1 0 0 0) 1)).page 0).wellFormed = false ∧
    hosted.goBeyond 0 mgr (reqWords (req 0 4 0xFFFFFFFFFFC0 0 0) 0x10) = true := by
  unfold MbClear MbTakes PageMay
  decide +kernel

theorem test_hyp_ContextsQueuesAndCounters : hosted.namesObj 0 (hw 5) .plain 0 1024 = true ∧
    hosted.namesObj 0 (hw 4) .record 0 512 = true ∧ hosted.namesObj 0 (hw 4) .record 0 2048 = true ∧
    (hosted.queue 1).state = .free ∧ (hosted.ctx 1).state = .free ∧ (hosted.ctx 0).state = .live ∧ hosted.ownsCtx 0 0 = true ∧
    hosted.queueInst 0 1 = some 0 ∧ hosted.ctrsHeld 0 = 0 ∧ hosted.present 0 = true ∧
    (hosted.counter 4096).state = .free := by decide +kernel

/-- CTX_CREATE takes the lowest free ID and answers it (R356). -/
theorem test_ctx_create : shows (exec (.ctxCreate (req 0x500 0 0 0 0)) hosted)
    (fun t => (t.ctx 1).state == .live && (t.ctx 1).weight == 5#8 && tget 0#64 (t.page 0).rsp 0 == 1#64 &&
      (t.page 0).code == 0#16) = true := by decide +kernel

theorem test_hyp_SecretsAndReports : covered (hosted.inst 0).pools.mem 9 0x100000 1184 = true ∧ hosted.sec.importReady = true ∧
    (hosted.inst 0).bound = false ∧ hosted.poisoned 0x100000 1184 = false ∧ (hosted.inst 0).pools.hasKey 0 = true ∧
    hosted.keyLoaded 0 = false ∧ hosted.keyLoaded 1 = true ∧ hosted.namesObj 0 (hw 4) .record 0 3904 = true ∧
    Running' hosted ∧ hosted.sec.attests = [] := by
  unfold Running'
  decide +kernel

/-- The latched report of an ATTEST, and KEY_ERASE (R395, R403). -/
theorem test_attest : shows (exec (.attest (req 0 (hnd 4) 0 0 0)) hosted) (fun t => t.sec.attests.length == 1 &&
      t.attestOk (t.sec.attests.headD { page := 1, ctx := 0, obj := 0, off := 0, nonce := [], body := none }) && (t.page 0).busy) = true ∧
    shows (exec (.keyErase (req 0 1 0 0 0)) hosted) (fun t => !t.keyLoaded 1) = true := by decide +kernel

/-- Instance 3 being disabled: draining, and stopped. -/
def disabling (d : Disabling) : State := { hosted with
  insts := [(0, hosted.inst 0), (3, { hosted.inst 3 with state := .disabling, disabling := some d })] }

theorem test_hyp_InstancesAreMadeAndDisabled : (hosted.inst 4).state = .free ∧ hosted.poisoned 0x200000 160 = false ∧
    (hosted.inst 3).state = .enabled ∧ hosted.instQueues 3 = [] ∧ (hosted.inst 2).state = .disabled ∧
    hosted.recordsLeft [] = false ∧ hosted.commitWrites 3 = false ∧
    Running' (disabling { drain := true, draining := true, stopped := false, killed := 0 }) ∧
    (disabling { drain := true, draining := false, stopped := true, killed := 0 }).instJobs 3 = [] ∧
    (disabling { drain := true, draining := false, stopped := true, killed := 0 }).ownWrites 3 = false ∧
    (disabling { drain := true, draining := false, stopped := true, killed := 0 }).instCtxs 3 = [] := by
  unfold Running'
  decide +kernel

/-- R360: a disable of an idle instance stops it, and its end is reported on both pages. -/
theorem test_disable : shows (exec (.disableComplete 3#6) (disabling { drain := true, draining := false, stopped := true, killed := 2 }))
    (fun t => (t.inst 3).state == .disabled && (t.page 3).noticeValid && (t.page 3).noticeKilled == 2#16) = true := by decide +kernel

/-- Context 0 in a step of its teardown. -/
def dying (n : Nat) : Teardown :=
  { step := n, squashed := 0, killed := 0, killing := false, unmapped := [], faultCode := none, byReset := false, page := some 0 }
def tearing (d : Teardown) : State := { hosted with ctxs := [(0, { hosted.ctx 0 with state := .teardown, teardown := some d })] }

/-- No core waits here. -/
theorem none_waits (s : State) (h : s.cores = []) : NoneWaits s := by
  intro c
  show (tget Core.reset s.cores c).stall ≠ 1#3
  rw [h]
  show Core.reset.stall ≠ 1#3
  decide

theorem test_hyp_TeardownRunsItsSteps : (∀ n ∈ [1, 2, 3, 4, 5, 6, 7], Running' (tearing (dying n)) ∧
      ((tearing (dying n)).ctx 0).teardown = some (dying n) ∧ ((tearing (dying n)).inst 0).state ≠ .resetting) ∧
    (∀ n ∈ [3, 4], (tearing (dying n)).stepDone 0 (dying n) = true) ∧
    (tearing { dying 3 with killing := true }).stepDone 0 { dying 3 with killing := true } = true ∧
    ((hosted.ctx 0).state = .live ∧ hosted.ownsCtx 0 0 = true) ∧ ((hosted.queue 0).state ≠ .free ∧ (hosted.queue 0).cmds = []) ∧
    ((hosted.inst 3).dirty.enable = false ∧ hosted.instCtxs 3 = [] ∧ hosted.instCtxs 0 ≠ []) := by
  unfold Running'
  decide +kernel

theorem test_hyp_TeardownRunsItsSteps_cores (d : Teardown) : NoneWaits (tearing d) := none_waits _ rfl

/-- The last step frees what is left. -/
def dead : State := { tearing (dying 7) with queues := [], shares := [], objs := [], jobs := [] }

theorem test_hyp_TeardownRunsItsSteps_last : dead.stepDone 0 (dying 7) = true ∧ (dead.ctx 0).teardown = some (dying 7) ∧
    dead.queues = [] := by decide +kernel

theorem test_teardown : shows (exec (.teardownStepDone 0#11) (tearing (dying 6)))
    (fun t => (t.shares.map fun x => x.2.state) == [.releasing]) = true ∧
    shows (exec (.teardownStepDone 0#11) dead) (fun t => (t.ctx 0).state == .free) = true := by decide +kernel

/-- Instance 3, selected, with its dirty log on; page 2 of it written. -/
def logging (d : Dirty) : State := { hosted with
  kp := { hosted.kp with instSel := 3#6 }
  insts := [(0, hosted.inst 0), (3, { hosted.inst 3 with dirty := d, pools := { (hosted.inst 3).pools with mem := [(0x100000, 1048576)] } })] }
def dirty0 (e f : Bool) : Dirty :=
  { base0 := 0x40000#48, base1 := 0x50000#48, enable := e, active := false, flipBusy := f, flipDone := false, set := [2], old := [] }

theorem test_hyp_DirtyLogFlipsAndStops : (∀ d ∈ [dirty0 false false, dirty0 true false, dirty0 true true],
      ManagerMay (logging d) mgr ∧ (logging d).dirtyBeyond 3 = false ∧ ((logging d).inst 3).state = .enabled) ∧
    (logging { dirty0 true false with base0 := 0xFFFFFFFFF000#48, base1 := 0xFFFFFFFFF000#48 }).kp.instSel.toNat = 3 ∧
    Running' (logging (dirty0 true true)) ∧ (logging (dirty0 true true)).flipPending 3 = false ∧
    (∀ w ∈ (logging (dirty0 true true)).writes, w.owner ≠ .dirty 3) := by
  unfold ManagerMay Running'
  decide +kernel

/-- A flip writes page 2's bit to the old bitmap (R378). -/
theorem test_flip : shows (exec (.dirtyFlip mgr) (logging (dirty0 true false)))
    (fun t => memGet t.mem 0x40000 == 4#8 && (t.inst 3).dirty.active) = true := by decide +kernel

/-! ## The Regulator -/

def granting : State := { hosted with shares := [], rg := { hosted.rg with shareSelCtx := 0#11, shareSelPart := 0#3 } }
def clearing : State := { granting with
  shares := [(0, { ctx := 0, part := 0, off := 0, size := 4096, state := .clearing, isSealed := false, clearing := [0] })],
  cores := [(0, { Core.reset with clears := [(0, 4096)], scratch := [(5, 1#8)] })] }
def rebinding : State :=
  let s : State := { hosted with rg := { hosted.rg with rebind := some (0#13, 0#3) } }
  s.setQueue 0 (queue0 .stopped [])

theorem test_hyp_QueueCommandsSharesAndWeights : ManagerMay hosted mgr ∧ ManagerMay granting mgr ∧
    (hosted.queue 0).state.fetching = true ∧ hosted.granted 0 0 = true ∧ hosted.rg.rebind = none ∧
    (rebinding.queue 0).state = .stopped ∧ (rebinding.queue 0).cmds = [] ∧ Running' rebinding ∧
    (granting.ctx 0).state = .live ∧ granting.declared 0 = true ∧ 4096 ≤ granting.freeScratch 0 ∧
    (clearing.core 0).clears = [(0, 4096)] ∧ Running' clearing := by
  unfold ManagerMay Running'
  decide +kernel

/-- STOP, GRANT and the clear that makes a share LIVE (R328 to R331). -/
theorem test_share : shows (exec (.stop mgr 0#13) hosted) (fun t => (t.queue 0).state == .stopped) = true ∧
    shows (exec (.grant mgr 4096#25) granting) (fun t => (t.shares.map fun x => x.2.state) == [.clearing]) = true ∧
    shows (exec (.scratchClearDone 0#4) clearing) (fun t => (t.shares.map fun x => x.2.state) == [.live] &&
      tget 0#8 (t.core 0).scratch 5 == 0#8) = true := by decide +kernel

/-- A free job of queue 0 on core 0, and the same past a deferral. -/
def preempted (d : Bool) : State :=
  let s := queued .active [{ cmd0 launch0 .started with job := some 0 }]
  { s with jobs := [(0, { job0 with deferred := d })], cores := [(0, core0 0)], nextJob := 1 }

theorem test_hyp_PreemptionKillsItsTarget : ManagerMay (preempted false) mgr ∧ Running' (preempted true) ∧
    ((preempted false).jobs.filter fun j => (preempted false).preemptible j.1 j.2).map Prod.fst = [0] ∧
    ((preempted true).core 0).job = some 0 ∧ ((preempted true).job 0).any (fun j => j.deferred && j.kill.isNone) = true ∧
    (preempted false).remoteWait job0 = false ∧ ready.run = none := by
  unfold ManagerMay Running'
  decide +kernel

/-- A second queue's launch waits; the running job's partition waits at most 100 us. -/
def contended : State :=
  let s := preempted false
  let t := (s.setQueue 0 { s.queue 0 with vt := 5 }).setQueue 1 { queue0 .active [{ cmd0 launch0 .fetched with seqNo := 1 }] with vt := 0 }
  { t with rgParts := [(0, { (s.rgPart 0) with preemptWaitUs := 100#20 })] }

theorem test_hyp_PreemptionKillsItsTarget_wait : contended.run = some { running with openWin := [(0, 1)] } ∧
    tfind ({ running with openWin := [(0, 1)] } : Running).openWin 0 = some 1 ∧ (img.window 0 1).isSome = true ∧
    contended.dispatches = true ∧ (contended.rgPart 0).preemptWaitUs ≠ 0#20 ∧ contended.autoBusy 0 = false ∧
    (contended.victim (contended.jobs.filter fun j => (contended.offers 0).any fun o =>
      contended.isVictim { running with openWin := [(0, 1)] } 0 1 o j.1 j.2)).isSome = true ∧
    (img.window 0 1).any (fun w => fits contended img w 1504 1000) = true := by decide +kernel

theorem test_preempt : shows (exec (.preemptQueue mgr 0#16) (preempted false))
    (fun t => t.rg.preJobs == [0] && (t.job 0).any fun j => j.kill == some .preempt) = true := by decide +kernel

/-! ## Counters, flights, links and the twin -/

/-- Flight 1 in a state, with its two counters; link 1 is its child, link 0 its parent. -/
def flight1 (st : FlightState) (parent : BitVec 3) : Flight :=
  { Flight.reset with
    state := st, timeoutUs := 100#32, parent := parent, children := 2#5, expect := 1#16, grant := BitVec.allOnes 64, round := 3#32,
    startRound := 3#32, arriveId := 4096#17, releaseId := 4097#17, watchdog := true }
def flying (st : FlightState) (parent : BitVec 3) : State := { live with
  flights := [(1, flight1 st parent)]
  counters := [(3, { Counter.reset with kind := .context, state := .live }), (5, { Counter.reset with state := .abandoned }),
    (4096, { Counter.reset with kind := .flightArrive, state := .live, owner := 1#11, value := 1#32 }),
    (4097, { Counter.reset with kind := .flightRelease, state := .live, owner := 1#11, value := 3#32 })]
  links := [(0, { Link.reset with enable := true, state := .up, phyLock := true, credits := 8 }),
    (1, { Link.reset with enable := true, state := .up, phyLock := true, credits := 8 })]
  sy := { live.sy with flightSel := 1#10, ctrSel := 3#17 } }

theorem test_hyp_CountersAndFlightsObeyTheManager : ManagerMay (flying .isOpen 0#3) mgr ∧
    ((flying .isOpen 0#3).counter 3).state = .live ∧ ((flying .isOpen 0#3).counter 3).kind = .context ∧
    ((flying .isOpen 0#3).counter 5).state = .abandoned ∧ (flying .isOpen 0#3).queues = [] ∧
    ((flying .free 0#3).flight 1).state = .free ∧ (flying .free 0#3).present 0 = true ∧
    ((flying .free 0#3).flight 1).parentLink = none ∧
    ((flying .free 0#3).counter 4098).state = .free ∧ ((flying .free 0#3).counter 4099).state = .free ∧
    ((flying .broken 0#3).flight 1).arriveId ≠ ((flying .broken 0#3).flight 1).releaseId ∧
    ((flying .isOpen 0#3).flight 1).watchdog = true ∧ Running' (flying .isOpen 0#3) := by
  unfold ManagerMay Running'
  decide +kernel

theorem test_flight : shows (exec (.flightCreate mgr) (flying .free 0#3)) (fun t => (t.flight 1).state == .isOpen &&
      (t.flight 1).arriveId == 4098#17 && (t.flight 1).releaseId == 4099#17) = true ∧
    shows (exec (.setOp mgr 9#32) (flying .isOpen 0#3)) (fun t => (t.counter 3).value == 9#32) = true := by decide +kernel

/-- A frame that a receiver takes. -/
def takes (r : Rx) (p : State → Bool) : Bool := match r with
  | .taken w => p w
  | .gone _ => false

theorem test_hyp_FlightMessagesMoveRounds :
    takes (rxFlight (flying .isOpen 0#3) (hdr 1)) (fun w => !w.obs.halted && (w.flight 1).state == .isOpen &&
      (w.flight 1).parentLink.isNone && (w.flight 1).round == 3#32 && bitAt (w.flight 1).children.toNat 1 && w.queues.isEmpty) = true ∧
    takes (rxFlight (flying .isOpen 1#3) (hdr 0)) (fun w => (w.flight 1).parentLink == some 0) = true ∧
    takes (rxFlight (flying .broken 0#3) (hdr 1)) (fun w => (w.flight 1).state == .broken) = true ∧
    takes (rxFlight (flying .free 0#3) (hdr 1)) (fun w => (w.flight 1).state == .free) = true ∧
    takes (rxFlight ready (hdr 1)) (fun _ => true) = false := by decide +kernel

/-- R319: the last arrival at the root completes round 3, and the flight goes to round 4. -/
theorem test_round : shows (exec (.arrive (hdr 1) 1#10 3#32) (flying .isOpen 0#3))
    (fun t => (t.flight 1).round == 4#32 && (t.counter 4097).value == 4#32 && (t.counter 4096).value == 0#32) = true ∧
    shows (exec (.arrive (hdr 1) 1#10 2#32) (flying .isOpen 0#3)) (fun t => (t.flight 1).state == .broken) = true := by decide +kernel

/-- Link 0 alone, in a state. -/
def linked (st : LinkState) : State := { live with
  links := [(0, { Link.reset with enable := true, state := st, phyLock := true, credits := 8, unacked := [(5#16, .hello)] })] }

theorem test_hyp_LinksTrainAndFail : (linked .up).receives 0 = true ∧ (linked .init).receives 0 = true ∧
    (linked .waitPhy).receives 0 = false ∧ (linked .up).maySend 0 = true ∧ (linked .up).portAlive = true ∧
    ((linked .up).link 0).waiting = [] ∧ ((linked .init).link 0).state = .init ∧ (linked .init).tw.state = .unpaired ∧
    (hdr 0).crcOk = true ∧ ({ hdr 0 with crcOk := false } : FrameHdr).crcOk = false ∧ (hdr 0).seq = ((linked .up).link 0).rxSeq ∧
    ManagerMay (linked .up) mgr ∧ (((linked .up).link 0).unacked.dropWhile fun x => x.1 != 5#16) ≠ [] ∧
    (((linked .up).link 0).unacked.any fun x => x.1 == (hdr 0).ack) = false := by
  unfold ManagerMay
  decide +kernel

theorem test_link : shows (exec (.linkSilence 0#3) (linked .up))
    (fun t => (t.link 0).state == .waitPhy && (t.link 0).downCause == 3#3 && (t.link 0).downs == 1#16) = true ∧
    shows (exec (.nak (hdr 0) 5#16) (linked .up)) (fun t => (t.link 0).replays == 1#16) = true := by decide +kernel

/-- A heartbeat of a PRIMARY, in phase. -/
def beat0 : Heartbeat :=
  { state := 3#3, role := true, failover := false, mirror := false, swapBeat := false, mask := 0#8, hbMiss := 0#8, planId := 0#32,
    hbPeriod := 0#16, beat := 0#48, nsSince := 0#32, lastRel := 0#48 }

/-- The twin in a state on an UP link, authenticated or not. -/
def twinned (st : TwState) (a : Bool) : State := { linked .up with
  tw := { live.tw with state := st, authed := a, helloSeen := true, witnessUse := true } }
def authHdr : FrameHdr := { hdr 0 with auth := true }

theorem test_hyp_TwinsPairAndResolve : ManagerMay (twinned .unpaired false) mgr ∧ (twinned .paired true).mirror = none ∧
    takes (rxTwin (twinned .auth false) (hdr 0) 4) (fun w => w.exchanging && w.portAlive && !w.obs.halted) = true ∧
    takes (rxTwin (twinned .auth false) (hdr 0) 105) (fun w => w.exchanging && w.tw.helloSeen) = true ∧
    (∀ st ∈ [TwState.paired, .held, .secondary, .primary],
      takes (rxSession (twinned st true) authHdr) (fun w => w.portAlive && !w.obs.halted && w.tw.state == st) = true) ∧
    takes (rxSession (twinned .paired true) (hdr 0)) (fun _ => true) = false ∧ Running' (twinned .paired true) := by
  unfold ManagerMay Running'
  decide +kernel

/-- PAIR begins the exchange, and a PROOF that verifies ends it (R434). -/
theorem test_pair : shows (exec (.pair mgr) (twinned .unpaired false)) (fun t => t.tw.state == .auth) = true ∧
    shows (exec (.proof (hdr 0) (twinned .auth false).tw.peerDigest true 7#16) (twinned .auth false))
      (fun t => t.tw.state == .paired && t.tw.authed && t.tw.oneWayNs == 7#16) = true := by decide +kernel

/-- A mirrored image with automatic failover. -/
def mirroring : State := { twinned .held true with run := some { running with img := { img with
  mirror := some { mask := 1#8, role := false, failover := true, hbPeriod := 100, hbMiss := 3, planId := 1#32, twinDigest := 0#384 } } } }

theorem test_hyp_TwinsTakeOverOnGrounds : ManagerMay (twinned .primary true) mgr ∧ Running' (twinned .held true) ∧
    (twinned .held true).tw.partnerLive = false ∧
    ({ twinned .primary true with tw := { (twinned .primary true).tw with partnerLive := true } } : State).lossKnown = false ∧
    (twinned .held true).failoverArmed = false ∧
    mirroring.failoverArmed = true := by
  unfold ManagerMay Running'
  decide +kernel

theorem test_claim : shows (exec (.claim mgr) { twinned .held true with tw := { (twinned .held true).tw with yielded := true } })
    (fun t => t.tw.state == .primary) = true ∧
    shows (exec (.claim mgr) (twinned .held true)) (fun t => t.tw.state == .held) = true := by decide +kernel

/-! ## Security, recovery, the Chime and observation -/

/-- A state with a fuse command under way. -/
def blowing (c : FuseCmd) : State := { ready with sec := { ready.sec with otpBusy := true, otpCmd := c } }

theorem test_hyp_FusesUnlockAndAlarms : ManagerMay ready mgr ∧ ready.sec.otpBusy = false ∧ ready.sec.locked = false ∧
    ready.sec.dbgBusy = false ∧ ready.sec.otpAddr.toNat + 5696 ≤ 2 ^ 48 ∧ ready.poisoned 0 5696 = false ∧ ready.portAlive = true ∧
    (∀ c ∈ [FuseCmd.fail 1#16, .program 2 0#384, .revoke 1], (blowing c).sec.otpCmd = c ∧ (blowing c).portAlive = true) := by
  unfold ManagerMay
  decide +kernel

theorem test_fuse : shows (exec .fuseCommandDone (blowing (.program 2 0#384)))
    (fun t => bitAt t.fuse.ownerProgrammed.toNat 2 && !t.sec.otpBusy) = true ∧
    shows (exec (.revoke mgr 3#2) ready) (fun t => t.sec.otpCmd == .fail Config.ACCESS_DENIED) = true := by decide +kernel

/-- An entry to verify: an END at address 0. -/
def verifyNext : State := { ready with
  mem := memPutAll [] 0 (leBytes 16 (word 2 0 0 0 0 0 0)), gens := [(0, { gen0 with len := 16 })],
  kp := { ready.kp with verifyQueue := [0] } }
def refillable : State := { live with
  run := some { running with bindings := [(7, { obj := 5, ctx := 0, filled := true, refilling := false })] },
  basin := [(7, { bytes := [], len := 128, badLines := [] })] }

theorem test_hyp_RecoveryScrubbingAndVerifier : Running' ready ∧ ready.fr.stopped = false ∧
    ({ ready with fr := { ready.fr with stopped := true } } : State).fr.stopped = true ∧
    ({ ready with fr := { ready.fr with wdogArmed := true } } : State).portAlive = true ∧
    (ready.present 15 = true ∧ (ready.core 15).clears = [] ∧ 163839 < 163840) ∧
    ((refillable.basinCopy 7).isSome = true ∧ (refillable.basinCopy 7).any fun b => decide (0 < ceilDiv b.len 128)) ∧ ManagerMay refillable mgr ∧
    (verifyNext.kp.verifyQueue = [0] ∧ (verifyNext.gen 0).state = .live ∧ Running' verifyNext) := by
  unfold ManagerMay Running'
  decide +kernel

/-- END verifies; an undefined opcode is rejected (R176). -/
theorem test_verify : shows (exec .verifyScanDone verifyNext) (fun t => (t.gen 0).verdict == .verified) = true ∧
    shows (exec .verifyScanDone { verifyNext with mem := memPutAll [] 0 (leBytes 16 (word 0x3F 0 0 0 0 0 0)) })
      (fun t => t.kp.vfValid && t.kp.vfCode == Config.ILLEGAL_OPCODE) = true := by decide +kernel

/-- Target 1 belongs to instance 5; source 70 is idle, 71 active, 72 pending there. -/
def src1 (st : SrcState) : Src := { Src.reset with masked := false, st := st, target := 1#3, sense := 1#2 }
def chiming : State := { ready with chime := { ready.chime with
  srcs := [(70, src1 .idle), (71, src1 .active), (72, src1 .pending)]
  targets := [(1, { Target.reset with ownerValid := true, owner := 5#6 })] } }

theorem test_hyp_ChimeSourcesAndOutputs : ViewMay chiming mgr .global ∧ ViewMay chiming { inst := 5#6, valid := true } (.target 1#3) ∧
    (chiming.src 70).target = 1#3 ∧ (chiming.src 71).st = .active ∧ (chiming.src 72).st = .pending ∧ chiming.chRuns = true ∧
    chiming.liveSrcs 1 ≠ [] ∧ (chiming.target 1).out = false ∧ chiming.liveSrcs 0 = [] := by
  unfold ViewMay ManagerMay
  decide +kernel

/-- COMPLETE ends the active source, and one of an idle source is stray (R455). -/
theorem test_complete : shows (exec (.complete mgr .global 71#32) chiming) (fun t => (t.src 71).st == .idle) = true ∧
    shows (exec (.complete mgr .global 70#32) chiming) (fun t => t.chime.strayCount == 1#32) = true := by decide +kernel

/-- Debug unlocked, and a trace frame waiting. -/
def unlocked : State := { at0 0 with sec := { ready.sec with unlocked := true }, obs := { (at0 0).obs with hold := 1#16 } }

theorem test_hyp_ObservationAndTap : ManagerMay ready mgr ∧ ready.obs.activeMode ≠ 2#2 ∧ ready.run = none ∧
    ready.au.state ≠ .prove ∧ proving.au.state = .prove ∧ ready.obs.snapBusy = false ∧ ready.portAlive = true ∧
    ready.tapAlive = true ∧ inPor.tapAlive = false ∧ ready.sec.unlocked = false ∧ unlocked.sec.unlocked = true ∧
    unlocked.portAlive = true ∧ ready.sec.dbgBusy = false ∧
    (Running' { ready with obs := { ready.obs with snapBusy := true } }) := by
  unfold ManagerMay Running'
  decide +kernel

/-- IDCODE: version 1, part 0x4E47 (R484). -/
theorem test_idcode : shows (exec .idcode ready) (fun t =>
    t.tap.dr == [BitVec.ofNat 64 (0x14E47001 + 2 * ready.fuse.manufacturer.toNat)]) = true := by decide +kernel

theorem test_hyp_HoldAndReleaseWhileUnlocked : ManagerMay unlocked mgr ∧ (unlocked.core 0).job = some 0 ∧ unlocked.job 0 = some job0 ∧
    job0.kill = none ∧ 0 ∈ job0.cores ∧ unlocked.obs.hold.getLsbD 0 = true ∧ (at0 0).obs.hold.getLsbD 0 = false ∧
    (((haltCore unlocked 0 Config.ILLEGAL_OPCODE none 0 0#64).core 0).st = .held) := by
  unfold ManagerMay
  decide +kernel

/-! ## The whole machine -/

theorem test_hyp_CommandsChangeOnlyWhatTheyMay : ∃ t, exec .retReq ready = .next t ∧ Memory.wf ready.mem = true :=
  ⟨_, rfl, rfl⟩

theorem test_hyp_StepsKeepMemoryAndNumbers : ∃ t, Memory.wf (completing .nop).mem = true ∧ Numbered (completing .nop) ∧
    step (completing .nop) = .next t := ⟨_, rfl, test_hyp_Settled.2.2, rfl⟩

/-! ## Further hypotheses of the statements -/

/-- An unreserved port that throttles a tag, with a trained port of the pool open. -/
def throttling (tag : BitVec 16) (s : State) : State := { s with
  ports := [(0, { Port.reset with open' := true, trained := true, throttled := [tag] })] }

theorem test_hyp_PortsThatThrottle : 47 ∈ ported.poolPorts ∧ (ported.port 47).open' = true ∧
    (throttling 0x4000#16 (moving copy0 .started)).copyHeld 0 = true ∧ (moving copy0 .started).copyHeld 0 = false ∧
    (throttling 0x8000#16 live).keeperHeld = true ∧ live.keeperHeld = false ∧
    (throttling 16#16 (waiting .store)).storeHeld 0 jobS 1 { op0 .store with total := 1 } = true ∧
    (waiting .store).storeHeld 0 jobS 1 { op0 .store with total := 1 } = false := by decide +kernel

/-- The object table under both ends of a COPY, and under a program. -/
def tabled (a : BitVec 48) (s : State) : State := { s with kp := { s.kp with objEnable := true, objBase := a } }

theorem test_hyp_RequestsIntoTheObjectTable : (tabled 0x8000#48 (moving copy0 .started)).moveDenied (cmd0 copy0 .started) = true ∧
    (moving copy0 .started).moveDenied (cmd0 copy0 .started) = false ∧ (tabled 0#48 missing).hitsObjTable 128 128 = true ∧
    missing.hitsObjTable 128 128 = false := by decide +kernel

/-- A core that waits for the result in S1, and one that reads line 1 ahead of the line at its PC. -/
def pendingReg : State := { at0 (word 0x04 0 3 1 2 0 0) with cores := [(0, { core0 (word 0x04 0 3 1 2 0 0) with notReady := [(1, 4)] })] }
def ahead : State := { at0 0 with cores := [(0, { core0 0 with prefetch := [1] })] }

theorem test_hyp_ScoreboardAndReadAhead : pendingReg.scoreboard 0 (decodeIns (word 0x04 0 3 1 2 0 0)) = true ∧
    (ahead.issuing 0).isSome = true ∧ (ahead.core 0).prefetch = 1 :: [] ∧ ahead.poisoned 128 128 = false ∧
    ahead.hitsObjTable 128 128 = false ∧ (ahead.lineBytes gen0 1).isSome = true ∧ (ahead.core 0).fetched = none ∧
    ((ahead.core 0).cachedLine 0 0).isSome = true ∧
    (at0 (word 0 0 0 0 0 0 0 0 (4 * 8192 + 5))).waitNow 0 job0 (4 * 8192 + 5) ≠ .go := by decide +kernel

/-- An instruction whose source has no result yet stalls (R155, R179 STALL 4); a parity error drops the line at the PC (R159,
R419). -/
theorem test_scoreboard : shows (exec (.add 0#4) pendingReg) (fun t => (t.core 0).stall == 4#3 && (t.core 0).pc == 0) = true ∧
    shows (exec (.icacheFill 0#4 (.ahead false)) ahead) (fun t => ((t.core 0).cached 0 1).isSome && (t.core 0).pc == 0) = true ∧
    shows (exec (.icacheFill 0#4 .parity) ahead)
      (fun t => ((t.core 0).cachedLine 0 0).isNone && tget 0#32 t.fr.ce 2 == 1#32) = true := by decide +kernel

/-- A branch past the program's end halts, taken or not (R144): BLTU of S2 and S1 is not taken. -/
theorem test_branch_target : shows (exec (.bltu 0#4) (at0 (word 0x1D 0 0 2 1 0 0 4096)))
    (fun t => (t.core 0).hCode == Config.ILLEGAL_OPCODE && (t.core 0).hValid) = true := by decide +kernel

theorem test_hyp_EnginesThatWait :
    (mop .mma 0#16).waitsFor ((matRuns (mop .mwld 0#16)).core 0).me 0 (mop .mwld 0#16) = true ∧
    (vecRuns (vop 0x80#8)).groupWaits 0 [{ vop 0x80#8 with a := 1024#64 }] = true ∧
    (vecWaits (vop 0x80#8)).groupWaits 0 [vop 0x80#8] = false := by decide +kernel

/-- A watching core with a value on its way, and a SEND whose tile fails in scratch. -/
def watching : State := { stream0 0 with cores := [(0, { (stream0 0).core 0 with
  watch := some { id := 4096#17, value := 0#32, pushes := [1#32, 2#32] } })] }

theorem test_hyp_PushesAndLanes : (watching.core 0).watch = some { id := 4096#17, value := 0#32, pushes := 1#32 :: [2#32] } ∧
    (laneFirst ((stream0 0).ownLane 0 0) 0 ((stream0 0).core 0).recvLanes ((stream0 0).core 0).tileNext) = some (0, recvL) ∧
    (stream0 0).jobs.find? (fun x => x.2.kind == .station (0 / 64) && x.2.cores.contains 0) = some (0, jobS) ∧
    jobS.kill = none := by decide +kernel

/-- A lane record that cannot be read kills the station (R419); a tile lands in the lane reserve (R103). -/
theorem test_lane_record : shows (exec (.tileArrival ⟨0#4, .uncorrectable⟩ 0#6) (stream0 0))
      (fun t => (t.job 0).any fun j => j.kill == some .fault && j.killCode == Config.SRAM_UNCORRECTABLE) = true ∧
    shows (exec (.tileArrival ⟨0#4, .none⟩ 0#6) (stream0 0)) (fun t => tget 0#8 (t.core 0).scratch (69760 + 64) == 9#8) = true ∧
    shows (exec (.watchPush 0#4) watching) (fun t => (t.core 0).watch == some { id := 4096#17, value := 1#32, pushes := [2#32] }) =
      true := by decide +kernel

/-- A WAIT on a fence that is met while its instance is being disabled. -/
def waitShut : State := { waitQ with insts := waitQ.insts.map fun i => (i.1, { i.2 with state := .disabled }) }

theorem test_hyp_WaitsOfADisabledInstance : waitShut.startOpen (waitShut.queue 0) = false ∧ (waitShut.ctx 0).state = .live ∧
    waitShut.waitAcked wait1 = true ∧ (waitShut.waitOutcome wait1).isSome = true ∧ orphaned.refs 9 = 0 ∧
    (hosted.resetsDisable 0 (reqWords (req 0 3 0 0 0) 0x13)) = false := by decide +kernel

/-- Its outcome is kept for the enable (R364). -/
theorem test_wait_met : shows (exec (.waitSatisfied 0#13) waitShut)
    (fun t => ((t.queue 0).cmd 0).any fun c => c.phase == .pendingWait && c.met == some (0#16, 0#64)) = true := by decide +kernel

theorem test_hyp_PreemptionKillsItsTarget_cores : job0.cores ≠ [] ∧ ((preempted true).job 0).any (fun j => !j.cores.isEmpty) = true ∧
    ((contended.job 0).any fun j => !j.cores.isEmpty) = true := by decide +kernel

theorem test_hyp_GlitchesAndTheTap : ready.detects 5 = true ∧ ready.portAlive = true ∧ inBlk.detects 5 = true ∧
    inBlk.portAlive = false ∧ retained.detects 5 = false ∧ retained.detects 22 = true ∧ inBlk.tapAlive = true ∧
    inBlk.sec.unlocked = false ∧ (at0 0).inRecord 0 0 = false ∧ (3#3).toNat ≤ 4 ∧ Config.listedCode Config.LINK_DOWN = true ∧
    Config.listedCode 0xFFFF#16 = false := by decide +kernel

/-- A locked TAP feature under BLK_RST_N raises its alarm and acts as BYPASS (R7, R484). -/
theorem test_tap_locked : shows (exec .scanData inBlk) (fun t => t.tap.ir == 0xFF#8 && t.sec.pending == 4#5) = true ∧
    shows (exec (.glitch 22) retained) (fun t => t.sec.pending == 1#5 && tget 0#32 t.sec.counts 0 == 1#32) = true := by
  decide +kernel

theorem test_hyp_KeeperWordsAndStops : Running' live ∧ live.fr.stopped = false ∧
    shows (exec (.scrub .keeper .uncorrectable) live) (fun t => t.fr.stopped && t.fr.stopCode == Config.SRAM_UNCORRECTABLE) = true := by
  unfold Running'
  decide +kernel

/-- SHA-384 of "abc" begins CB00753F45A35E8B and ends 58BAECA134C825A7 (FIPS 180-4). -/
theorem test_sha384 : (shaBytes (asciiBytes "abc")).take 8 = [0xCB#8, 0x00#8, 0x75#8, 0x3F#8, 0x45#8, 0xA3#8, 0x5E#8, 0x8B#8] ∧
    (shaBytes (asciiBytes "abc")).drop 40 = [0x58#8, 0xBA#8, 0xEC#8, 0xA1#8, 0x34#8, 0xC8#8, 0x25#8, 0xA7#8] := by decide +kernel

/-- AES-256 of FIPS 197 C.3: the block 00112233…FF under the key 000102…1F is 8EA2B7CA516745BFEAFC49904B496089. -/
theorem test_aes : (aesEncrypt ((List.range 32).map fun i => BitVec.ofNat 8 i) ((List.range 16).map fun i => BitVec.ofNat 8 (17 * i))).take 4 =
    [0x8E#8, 0xA2#8, 0xB7#8, 0xCA#8] := by decide +kernel

end Sys2Proof.Tests
end

section
/-! SUPPORT. A scalar instruction that may issue (R134): what its row writes to the scalar registers, and that its core runs on
unless its signal or a deferred preemption stops it. -/

namespace Sys2Proof.Machine

/-! ## The fields of a fetched instruction -/

theorem bitField_lt (w hi lo : Nat) : bitField w hi lo < 2 ^ (hi + 1 - lo) := Nat.mod_lt _ (by positivity)

theorem decodeIns_scalar_fields (w : Nat) : (decodeIns w).d < 32 ∧ (decodeIns w).a < 32 ∧ (decodeIns w).b < 32 :=
  ⟨bitField_lt w 95 91, bitField_lt w 90 86, bitField_lt w 85 81⟩

/-- What the front of a core names is a decoded word (R140). -/
theorem front_ins {s : State} {c : Nat} {j : Job} {i : Ins} (h : s.front c j = .ins i) : ∃ w, i = decodeIns w := by
  unfold State.front at h
  dsimp only at h
  split at h
  · exact ⟨_, (Front.ins.inj h).symm⟩
  · split at h
    · cases h
    · split at h
      · cases h
      · split at h
        · cases h
        · exact ⟨_, (Front.ins.inj h).symm⟩

theorem mayIssue_decoded {s : State} {c n : Nat} {j : Job} {i : Ins} (h : MayIssue s c n j i) : ∃ w, i = decodeIns w := by
  obtain ⟨-, hfront, -⟩ := h
  exact front_ins hfront

/-! ## A core that runs on -/

/-- Core c issues for job n, whose record is j, and its CORE_HALT holds a halt just when h says so (R171). -/
def RunsOn (s : State) (c n : Nat) (j : Job) (h : Bool) : Prop := s.issuing c = some (n, j) ∧ (s.core c).hValid = h

theorem RunsOn.modCore {s : State} {c n : Nat} {j : Job} {h : Bool} (r : RunsOn s c n j h) (f : Core → Core)
    (he : (f (s.core c)).ended = (s.core c).ended) (hs : (f (s.core c)).st = (s.core c).st)
    (hj : (f (s.core c)).job = (s.core c).job) (hv : (f (s.core c)).hValid = (s.core c).hValid) :
    RunsOn (s.modCore c f) c n j h := by
  obtain ⟨hi, hh⟩ := r
  rw [issuing_iff] at hi
  unfold RunsOn
  rw [issuing_iff, State.modCore_eq, State.setCore_core, he, hs, hj, hv]
  exact ⟨hi, hh⟩

theorem fetch_hValid (k : Core) (entry len : Nat) : (k.fetch entry len).hValid = k.hValid := by
  unfold Core.fetch
  split
  · obtain ⟨p, hp⟩ := readAhead_eq k entry len (k.pc / 128)
    rw [hp]
    rfl
  · rfl

theorem RunsOn.fetchAt {s : State} {c n : Nat} {j : Job} {h : Bool} (r : RunsOn s c n j h) :
    RunsOn (s.fetchAt c j) c n j h := by
  refine ⟨(fetchAt_issuing s c j c).trans r.1, ?_⟩
  unfold State.fetchAt
  rw [State.modCore_eq, State.setCore_core, fetch_hValid]
  exact r.2

theorem stallFrame_core (s : State) (c : Nat) (j : Job) (d : Nat) : (stallFrame s c j).core d = s.core d := by
  unfold stallFrame
  dsimp only
  split
  · rfl
  · exact traceCore_core _ _ _ _ _

theorem RunsOn.endStall {s : State} {c n : Nat} {j : Job} {h : Bool} (r : RunsOn s c n j h) :
    RunsOn (endStall s c j) c n j h := by
  refine ⟨endStall_issuing s c j c n j r.1, ?_⟩
  unfold Machine.endStall
  split
  · exact r.2
  · rw [State.modCore_eq, State.setCore_core]
    exact (congrArg Core.hValid (stallFrame_core s c j c)).trans r.2

theorem pushWatch_hValid (k : Core) (id : BitVec 17) (v : W32) : (k.pushWatch id v).hValid = k.hValid := by
  unfold Core.pushWatch
  split
  · split <;> rfl
  · rfl

/-- A take that fits records no halt (R147, R310). -/
theorem takeCounter_hValid (s : State) (c n : Nat) (j : Job) (id : BitVec 17) (thr : W32)
    (hf : (∃ st, j.kind = .station st) ∨ j.tableFull id = false) :
    ((takeCounter s c n j id thr).core c).hValid = (s.core c).hValid := by
  unfold takeCounter
  cases hk : j.kind with
  | station st =>
    simp only [Bool.false_and, Bool.false_eq_true, if_false, watchStale_core, pushWatch_hValid]
    rfl
  | free q a b =>
    have hfull : j.tableFull id = false := hf.resolve_left fun ⟨st, hs⟩ => by rw [hk] at hs; cases hs
    simp only [hfull, Bool.and_false, Bool.false_eq_true, if_false, if_true, watchStale_core, pushWatch_hValid]
    rfl

theorem RunsOn.waitIssue {s : State} {c n : Nat} {j : Job} {h : Bool} (r : RunsOn s c n j h) (v : Nat)
    (hf : v / 8192 = 4 → (∃ st, j.kind = .station st) ∨ j.tableFull ((s.core c).waitId v) = false)
    (ht : takeFits (s.core c) j v = true) : RunsOn (waitIssue s c n j v) c n (waitJob (s.core c) j v) h := by
  refine ⟨(waitIssue_issuing s c n j v r.1 ht).1, Eq.trans ?_ r.2⟩
  unfold Machine.waitIssue
  dsimp only
  split
  · rw [State.setCore_core]
  · exact takeCounter_hValid s c n j _ _ (hf ‹_›)
  · rfl

theorem waitJob_deferred (k : Core) (j : Job) (v : Nat) : (waitJob k j v).deferred = j.deferred := by
  unfold waitJob
  split
  · cases hk : j.kind <;> rfl
  · rfl

/-- A signal that sets or clears a flag, or none at all, stops nothing (R148). -/
theorem RunsOn.sendSignal {s : State} {c n : Nat} {j : Job} {h : Bool} (r : RunsOn s c n j h) (pc : Nat) (stream : Bool)
    (sig : Sig) (hs : ∀ id amount, sig ≠ .cadd id amount) : RunsOn (sendSignal s c pc stream sig) c n j h := by
  have hi := (issuing_iff s c n j).1 r.1
  obtain ⟨-, -, -, -, hjob, hn, hk⟩ := hi
  unfold Machine.sendSignal
  simp only [hjob, hn, hk, Option.isSome_none, Bool.false_eq_true, if_false]
  cases sig with
  | none => exact r
  | fset m => exact r.modCore _ rfl rfl rfl rfl
  | fclr m => exact r.modCore _ rfl rfl rfl rfl
  | cadd id amount => exact absurd rfl (hs id amount)

theorem sigOf_ne_cadd (k : Core) (v : Nat) (hv : v / 8192 ≤ 2) (id : BitVec 17) (amount : W32) :
    k.sigOf v ≠ .cadd id amount := by
  unfold Core.sigOf
  split
  · exact nofun
  · exact nofun
  · omega
  · omega
  · exact nofun

theorem resolveDeferred_of_not_deferred {s : State} {n : Nat} {j : Job} (hn : s.job n = some j) (hd : j.deferred = false) :
    resolveDeferred s n = s := by
  unfold resolveDeferred
  simp [hn, hd]

/-! ## Rows that write D -/

/-- A row of an instruction that writes D with `g` of the state, job and instruction past issue (R143). -/
def writeRow (s : State) (c op : Nat) (g : State → Job → Ins → Core → W64) : State :=
  simpleRow s c op fun s j i k => k.setReg i.d (g s j i k)

theorem setReg_kept (k : Core) (d : Nat) (v : W64) :
    (k.setReg d v).ended = k.ended ∧ (k.setReg d v).st = k.st ∧ (k.setReg d v).job = k.job ∧
      (k.setReg d v).hValid = k.hValid ∧ (k.setReg d v).badLines = k.badLines ∧ (k.setReg d v).me = k.me ∧
      (k.setReg d v).sendLanes = k.sendLanes ∧ (k.setReg d v).recvLanes = k.recvLanes := by
  unfold Core.setReg
  split <;> exact ⟨rfl, rfl, rfl, rfl, rfl, rfl, rfl, rfl⟩

theorem RunsOn.writeReg {s : State} {c n : Nat} {j : Job} {h : Bool} (r : RunsOn s c n j h) (d : Nat) (v : Core → W64) :
    RunsOn (s.modCore c fun k => k.setReg d (v k)) c n j h := by
  obtain ⟨hended, hst, hjob, hhalt, -⟩ := setReg_kept (s.core c) d (v (s.core c))
  exact r.modCore _ hended hst hjob hhalt

/-- The fetch, the end of a stall and a WAIT that lets the instruction issue leave its core running (R147, R151). -/
theorem mayIssue_runsOn_waited {s : State} {c n : Nat} {j : Job} {i : Ins} (hm : MayIssue s c n j i) :
    ∃ m, m.deferred = j.deferred ∧
      RunsOn (waitIssue (endStall (s.fetchAt c j) c j) c n j i.wait) c n m (s.core c).hValid := by
  have hfits := mayIssue_fits hm
  obtain ⟨hissuing, -, -, -, -, -, htable⟩ := hm
  have hid : ((endStall (s.fetchAt c j) c j).core c).waitId i.wait = (s.core c).waitId i.wait := by
    unfold Core.waitId
    rw [(((fetchAt_signals s c j).trans (endStall_signals _ c j)).2 c).reg]
  rw [← hid] at htable
  unfold takeFits at hfits
  rw [← hid] at hfits
  exact ⟨_, waitJob_deferred _ j i.wait, (RunsOn.fetchAt ⟨hissuing, rfl⟩).endStall.waitIssue i.wait htable hfits⟩

/-- The end of an instruction whose signal adds to no counter, of a job without a deferred preemption (R148, R346). -/
theorem RunsOn.finish {s : State} {c n : Nat} {j : Job} {h : Bool} (r : RunsOn s c n j h) (hdef : j.deferred = false)
    (pc : Nat) (sig : Sig) (hsig : ∀ id amount, sig ≠ .cadd id amount) :
    RunsOn (resolveDeferred (doneAt pc sig s c) n) c n j h := by
  have hdone : RunsOn (doneAt pc sig s c) c n j h := r.sendSignal pc false sig hsig
  obtain ⟨-, -, -, -, -, hrecord, -⟩ := (issuing_iff _ c n j).1 hdone.1
  rwa [resolveDeferred_of_not_deferred hrecord hdef]

section
variable {s : State} {c n op : Nat} {j : Job} {i : Ins} (g : State → Job → Ins → Core → W64)

/-- The row of an instruction that may issue issues it: every check of R172 passes. -/
theorem writeRow_issue (hm : MayIssue s c n j i) (hl : controlLegal i = true) (ho : i.op = op)
    (hd : definedOp op = true) : writeRow s c op g = issueNow (s.fetchAt c j) c n j i fun s _ j i sig =>
      doneAt ((s.core c).pc - 16) sig (s.modCore c fun k => k.setReg i.d (g s j i k)) c := by
  obtain ⟨hi, hfront, hbreak, hboard, hwait, htrace, -⟩ := hm
  unfold writeRow simpleRow
  rw [coreRow_issue s c op _ _ _ n j i hi hfront ho hd hl rfl rfl rfl rfl rfl rfl hboard hbreak hwait htrace]

/-- D takes the value that `g` finds in a state with the scalar registers of before; no other register changes. -/
theorem writeRow_writesReg (hm : MayIssue s c n j i) (hl : controlLegal i = true) (ho : i.op = op)
    (hd : definedOp op = true) : ∃ (p : State) (m : Job), (∀ r, (p.core c).reg r = (s.core c).reg r) ∧
      WritesReg s (writeRow s c op g) c i.d (g p m i (p.core c)) := by
  obtain ⟨u, hu, -, hrest⟩ := core_change s c n j i (fun s _ j i sig =>
      doneAt ((s.core c).pc - 16) sig (s.modCore c fun k => k.setReg i.d (g s j i k)) c)
    (fun p k => k.setReg i.d (g p (waitJob (s.core c) j i.wait) i k)) (fun p => (p.core c).pc - 16) hm (fun _ _ => rfl)
    (fun u k => by
      obtain ⟨-, -, hjob, -, hkeep⟩ := setReg_kept k i.d (g u (waitJob (s.core c) j i.wait) i k)
      exact ⟨hjob, hkeep⟩)
  obtain ⟨-, -, hregs, -⟩ := hrest
  have hp : ∀ r, ((u.modCore c fun k => k.pastIssue (u.pendAfter c i)).core c).reg r = (s.core c).reg r := by
    intro r
    rw [State.modCore_eq, State.setCore_core, pastIssue_reg]
    exact (hu.2 c).reg r
  refine ⟨_, waitJob (s.core c) j i.wait, hp, fun r => ?_⟩
  rw [writeRow_issue g hm hl ho hd, ← hp r, ← reg_setReg]
  unfold Core.reg
  rw [hregs]

/-- Where no counter signal and no deferred preemption stops it, the core runs on: no scalar instruction traps (R134). -/
theorem writeRow_runsOn (hm : MayIssue s c n j i) (hl : controlLegal i = true) (ho : i.op = op)
    (hd : definedOp op = true) (hsig : i.signal / 8192 ≤ 2) (hdef : j.deferred = false) :
    ∃ m, RunsOn (writeRow s c op g) c n m (s.core c).hValid := by
  obtain ⟨m, hmdef, hwaited⟩ := mayIssue_runsOn_waited hm
  rw [writeRow_issue g hm hl ho hd]
  unfold issueNow
  simp only [hwaited.1]
  exact ⟨m, ((hwaited.modCore _ rfl rfl rfl rfl).writeReg i.d _).finish (hmdef.trans hdef) _ _ (sigOf_ne_cadd _ _ hsig)⟩
end

/-! ## The scalar rows -/

/-- ADD, SUB and MUL leave in D the sum, difference and product of their operands, wrapped modulo 2^64 (R134). -/
def Wraps (op : Nat) (a b v : W64) : Prop :=
  (op = 0x04 → v.toInt = (a.toInt + b.toInt).bmod (2 ^ 64)) ∧ (op = 0x05 → v.toInt = (a.toInt - b.toInt).bmod (2 ^ 64)) ∧
    (op = 0x06 → v.toInt = (a.toInt * b.toInt).bmod (2 ^ 64))

theorem wraps_add (a b : W64) : Wraps 0x04 a b (a + b) := ⟨fun _ => BitVec.toInt_add a b, nofun, nofun⟩
theorem wraps_sub (a b : W64) : Wraps 0x05 a b (a - b) := ⟨nofun, fun _ => BitVec.toInt_sub, nofun⟩
theorem wraps_mul (a b : W64) : Wraps 0x06 a b (a * b) := ⟨nofun, nofun, fun _ => BitVec.toInt_mul a b⟩

/-- The wrapping of R134 says nothing of any other opcode. -/
theorem wraps_of_not_arith {op : Nat} (h : op < 0x04 ∨ 0x06 < op) (a b v : W64) : Wraps op a b v :=
  ⟨by omega, by omega, by omega⟩

/-- The command `r.2` is the row of opcode `r.1` on core c: it writes D, and with a wrapped value where R134 names one. -/
def ScalarRow (c : Nat) (r : Nat × Instr) : Prop :=
  definedOp r.1 = true ∧ ∃ g : State → Job → Ins → Core → W64, (∀ s, exec r.2 s = .next (writeRow s c r.1 g)) ∧
    ∀ s j i, Wraps r.1 ((s.core c).reg i.a) (operandB s c i) (g s j i (s.core c))

/-- A two-operand row (R143). -/
theorem scalarRow_alu {c op : Nat} {instr : Instr} (f : W64 → W64 → W64) (hd : definedOp op = true)
    (he : ∀ s, exec instr s = .next (alu s c op f)) (hw : ∀ a b, Wraps op a b (f a b)) : ScalarRow c (op, instr) :=
  ⟨hd, fun s _ i k => f (k.reg i.a) (s.opB c i), he, fun _ _ _ => hw _ _⟩

/-- The scalar instructions with their opcodes: the thirteen two-operand ones, LIH and MFS (R137, R143). -/
def scalarRows (core : BitVec 4) : List (Nat × Instr) :=
  [(0x04, .add core), (0x05, .sub core), (0x06, .mul core), (0x07, .andOp core), (0x08, .orOp core), (0x09, .xorOp core),
    (0x0A, .shl core), (0x0B, .shr core), (0x0C, .sar core), (0x0D, .minOp core), (0x0E, .maxOp core), (0x0F, .slt core),
    (0x10, .sltu core), (0x11, .lih core), (0x20, .mfs core)]

theorem scalarRow_of_mem (core : BitVec 4) : ∀ r ∈ scalarRows core, ScalarRow core.toNat r := by
  have other {op : Nat} (h : op < 0x04 ∨ 0x06 < op) {instr : Instr} (f : W64 → W64 → W64) (hd : definedOp op = true)
      (he : ∀ s, exec instr s = .next (alu s core.toNat op f)) : ScalarRow core.toNat (op, instr) :=
    scalarRow_alu f hd he fun a b => wraps_of_not_arith h a b _
  simp only [scalarRows, List.forall_mem_cons, List.not_mem_nil, false_imp_iff, implies_true, and_true]
  refine ⟨scalarRow_alu _ rfl (fun _ => rfl) wraps_add, scalarRow_alu _ rfl (fun _ => rfl) wraps_sub,
    scalarRow_alu _ rfl (fun _ => rfl) wraps_mul, ?and, ?or, ?xor, ?shl, ?shr, ?sar, ?min, ?max, ?slt, ?sltu, ?lih, ?mfs⟩
  case lih => exact ⟨rfl, _, fun _ => rfl, fun _ _ _ => wraps_of_not_arith (op := 0x11) (by decide) _ _ _⟩
  case mfs => exact ⟨rfl, _, fun _ => rfl, fun _ _ _ => wraps_of_not_arith (op := 0x20) (by decide) _ _ _⟩
  all_goals exact other (by decide) _ rfl fun _ => rfl

theorem writesReg_of_ne {s t : State} {c d : Nat} {v : W64} (h : WritesReg s t c d v) (m : Nat) (hm : m ≠ d) :
    (t.core c).reg m = (s.core c).reg m := by rw [h m, if_neg fun e => hm e.1]

theorem writesReg_zero {s t : State} {c : Nat} {v : W64} (h : WritesReg s t c 0 v) (m : Nat) :
    (t.core c).reg m = (s.core c).reg m := by rw [h m, if_neg fun e => e.2 e.1]

theorem writesReg_self {s t : State} {c d : Nat} {v : W64} (h : WritesReg s t c d v) (hd : d ≠ 0) :
    (t.core c).reg d = v := by rw [h d, if_pos ⟨rfl, hd⟩]

theorem operandB_congr {s p : State} {c : Nat} (h : ∀ r, (p.core c).reg r = (s.core c).reg r) (i : Ins) :
    operandB p c i = operandB s c i := by
  unfold operandB
  rw [h]

/-- Settles O57: each row writes D alone in a state with the scalar registers of before, and where neither its signal nor a
deferred preemption ends the job, every step of its issue leaves the core running. -/
theorem scalarRegistersWrapAndNeverTrap : Obligations.ScalarRegistersWrapAndNeverTrap := by
  refine ⟨fun s core => rfl, fun s core n j i hm hl => ?_⟩
  obtain ⟨w, rfl⟩ := mayIssue_decoded hm
  obtain ⟨hd, ha, hb⟩ := decodeIns_scalar_fields w
  refine ⟨hd, ha, hb, fun r hr ho => ?_⟩
  obtain ⟨hdef, g, hexec, hwraps⟩ := scalarRow_of_mem core r hr
  obtain ⟨p, m, hregs, hwrites⟩ := writeRow_writesReg g hm hl ho hdef
  have hv := hwraps p m (decodeIns w)
  rw [hregs, operandB_congr hregs, ← ho] at hv
  refine ⟨_, hexec s, fun hsig hdefer => ?_, rfl, writesReg_of_ne hwrites, fun h0 => ?_, fun h0 => ?_⟩
  · obtain ⟨_, hruns, hhalt⟩ := writeRow_runsOn g hm hl ho hdef hsig hdefer
    obtain ⟨-, hst, -, -, hjob, -, -⟩ := (issuing_iff _ _ _ _).1 hruns
    exact ⟨hst, hjob, hhalt⟩
  · rw [h0] at hwrites
    exact writesReg_zero hwrites
  · rw [writesReg_self hwrites h0]
    exact hv

end Sys2Proof.Machine
end

section
/-! SUPPORT. Halt hold and its release (R173, R481): how far the kill of one job reaches, what becomes of a core that halts, and
what the manager's writes of the DBG_ registers do. -/

namespace Sys2Proof.Machine

/-! ## How far kills reach -/

/-- Core c is stopped, and a job that stands on it is being killed (R51). -/
def StoppedOn (t : State) (c : Nat) : Prop :=
  (t.core c).st = .killing ∧ ∃ n i, t.job n = some i ∧ c ∈ i.cores ∧ i.kill.isSome = true

/-- A core keeps its state, and the jobs that stand on it their records. -/
def LeftOn (s t : State) (c : Nat) : Prop :=
  (t.core c).st = (s.core c).st ∧ ∀ n i, s.job n = some i → c ∈ i.cores → t.job n = some i

/-- A job is as it was, or its kill has begun on the cores it stands on. -/
def JobLeftOrKilled (s t : State) (n : Nat) : Prop :=
  t.job n = s.job n ∨
    ∃ j i, s.job n = some j ∧ t.job n = some i ∧ j.kill = none ∧ i.kill.isSome = true ∧ i.cores = j.cores

/-- From s to t kills have begun and nothing else has become of jobs and of the states of cores. -/
structure Kills (s t : State) : Prop where
  job : ∀ n, JobLeftOrKilled s t n
  core : ∀ c, LeftOn s t c ∨ StoppedOn t c

theorem Kills.of_kept {s t : State} (hj : ∀ n, t.job n = s.job n) (hc : ∀ c, (t.core c).st = (s.core c).st) : Kills s t :=
  ⟨fun n => .inl (hj n), fun c => .inl ⟨hc c, fun n _ h _ => (hj n).trans h⟩⟩

theorem Kills.refl (s : State) : Kills s s := .of_kept (fun _ => rfl) fun _ => rfl

/-- A job that is being killed is left as it is (R344). -/
theorem Kills.job_of_killed {s t : State} (h : Kills s t) {n : Nat} {i : Job} (hi : s.job n = some i)
    (hk : i.kill.isSome = true) : t.job n = some i := by
  rcases h.job n with e | ⟨j, _, hj, -, hnone, -⟩
  · exact e.trans hi
  · rw [Option.some.inj (hi.symm.trans hj), hnone] at hk
    cases hk

/-- A job stands where it stood. -/
theorem Kills.job_cores {s t : State} (h : Kills s t) {n : Nat} {i : Job} (hi : t.job n = some i) :
    ∃ j, s.job n = some j ∧ i.cores = j.cores := by
  rcases h.job n with e | ⟨j, k, hj, hk, -, -, hc⟩
  · exact ⟨i, e.symm.trans hi, rfl⟩
  · exact ⟨j, hj, Option.some.inj (hi.symm.trans hk) ▸ hc⟩

/-- A stopped core stays stopped. -/
theorem Kills.stoppedOn {s t : State} (h : Kills s t) {c : Nat} (hc : StoppedOn s c) : StoppedOn t c := by
  rcases h.core c with ⟨hst, hjobs⟩ | hstop
  · obtain ⟨hkill, n, i, hi, hmem, hk⟩ := hc
    exact ⟨hst.trans hkill, n, i, hjobs n i hi hmem, hmem, hk⟩
  · exact hstop

theorem Kills.trans {s t u : State} (h : Kills s t) (g : Kills t u) : Kills s u := by
  refine ⟨fun n => ?_, fun c => ?_⟩
  · rcases h.job n with e | ⟨j, i, hj, hi, hnone, hsome, hcores⟩
    · unfold JobLeftOrKilled
      rw [← e]
      exact g.job n
    · exact .inr ⟨j, i, hj, g.job_of_killed hi hsome, hnone, hsome, hcores⟩
  · rcases h.core c with ⟨hst, hjobs⟩ | hstop
    · exact (g.core c).imp_left fun ⟨gst, gjobs⟩ =>
        ⟨gst.trans hst, fun n i hi hmem => gjobs n i (hjobs n i hi hmem) hmem⟩
    · exact .inr (g.stoppedOn hstop)

theorem Kills.foldl {α : Type} (f : State → α → State) (h : ∀ s x, Kills s (f s x)) (l : List α) (s : State) :
    Kills s (l.foldl f s) := by
  induction l generalizing s with
  | nil => exact .refl s
  | cons x r ih => exact (h s x).trans (ih (f s x))

theorem stopCores_st (s : State) (cs : List Nat) (c : Nat) :
    ((stopCores s cs).core c).st = if c ∈ cs then .killing else (s.core c).st := by
  induction cs generalizing s with
  | nil => rfl
  | cons d cs ih =>
    refine (ih (s.modCore d Core.stopWork)).trans ?_
    rw [State.modCore_eq]
    by_cases hd : c = d
    · subst hd
      simp [Core.stopWork]
    · simp [State.setCore_core_ne _ _ _ _ hd, hd]

/-- The kill of a job that runs marks it and stops its cores (R51). -/
theorem killOne_eq {s : State} {n : Nat} {j : Job} (why : KillWhy) (code : BitVec 16) (detail : W64) (co : Bool)
    (hj : s.job n = some j) (hk : j.killable = true) :
    ∃ i, i.cores = j.cores ∧ i.kill.isSome = true ∧
      killOne s n why code detail co = stopCores (s.setJob n i) j.cores := by
  unfold killOne
  simp only [hj, hk, Bool.not_true, Bool.false_eq_true, if_false]
  refine ⟨_, ?_, ?_, rfl⟩ <;> rfl

theorem killOne_of_not_killable {s : State} {n : Nat} (why : KillWhy) (code : BitVec 16) (detail : W64) (co : Bool)
    (h : ∀ j, s.job n = some j → j.killable = false) : killOne s n why code detail co = s := by
  unfold killOne
  cases hj : s.job n with
  | none => rfl
  | some j => simp [h j hj]

theorem stopCores_job (s : State) (cs : List Nat) (n : Nat) : (stopCores s cs).job n = s.job n :=
  congrArg (tfind · n) (stopCores_only s cs .jobs (by decide))

/-- The kill of a job stops each of its cores. -/
theorem killOne_stoppedOn {s : State} {n c : Nat} {j : Job} (why : KillWhy) (code : BitVec 16) (detail : W64) (co : Bool)
    (hj : s.job n = some j) (hk : j.killable = true) (hc : c ∈ j.cores) : StoppedOn (killOne s n why code detail co) c := by
  obtain ⟨i, hcores, hkill, e⟩ := killOne_eq why code detail co hj hk
  rw [e]
  exact ⟨(stopCores_st _ _ c).trans (if_pos hc), n, i, (stopCores_job _ _ n).trans (State.setJob_job _ _ _),
    hcores ▸ hc, hkill⟩

theorem killOne_kills (s : State) (n : Nat) (why : KillWhy) (code : BitVec 16) (detail : W64) (co : Bool) :
    Kills s (killOne s n why code detail co) := by
  by_cases hrun : ∃ j, s.job n = some j ∧ j.killable = true
  · obtain ⟨j, hj, hk⟩ := hrun
    have hnone := ((Job.killable_iff j).1 hk).1
    obtain ⟨i, hcores, hkill, e⟩ := killOne_eq why code detail co hj hk
    have other (m : Nat) (hm : m ≠ n) : (killOne s n why code detail co).job m = s.job m := by
      rw [e, stopCores_job, State.setJob_job_ne _ _ _ _ hm]
    refine ⟨fun m => ?_, fun c => ?_⟩
    · by_cases hm : m = n
      · subst hm
        exact .inr ⟨j, i, hj, by rw [e, stopCores_job, State.setJob_job], hnone, hkill, hcores⟩
      · exact .inl (other m hm)
    · by_cases hc : c ∈ j.cores
      · exact .inr (killOne_stoppedOn why code detail co hj hk hc)
      · refine .inl ⟨by rw [e, stopCores_st, if_neg hc]; rfl, fun m k hm hmem => ?_⟩
        have hne : m ≠ n := by
          rintro rfl
          exact hc (Option.some.inj (hm.symm.trans hj) ▸ hmem)
        exact (other m hne).trans hm
  · rw [killOne_of_not_killable why code detail co fun j hj => by simpa using fun hk => hrun ⟨j, hj, hk⟩]
    exact .refl s

/-- Recording a halt leaves every core in its state. -/
theorem haltRecord_st (s : State) (c : Nat) (code : BitVec 16) (addr : Nat) (data : W64) (co : Bool) (d : Nat) :
    ((haltRecord s c code addr data co).core d).st = (s.core d).st := by
  unfold haltRecord
  split
  · rfl
  · rw [chSample_core]
    by_cases hd : d = c
    · subst hd
      rw [State.setCore_core]
    · rw [State.setCore_core_ne _ _ _ _ hd]

theorem haltRecord_job (s : State) (c : Nat) (code : BitVec 16) (addr : Nat) (data : W64) (co : Bool) (n : Nat) :
    (haltRecord s c code addr data co).job n = s.job n :=
  congrArg (tfind · n) (haltRecord_only s c code addr data co .jobs (by decide))

theorem haltRecord_kills (s : State) (c : Nat) (code : BitVec 16) (addr : Nat) (data : W64) (co : Bool) :
    Kills s (haltRecord s c code addr data co) := .of_kept (haltRecord_job _ _ _ _ _ _) (haltRecord_st _ _ _ _ _ _)

theorem drawWord_kills (s : State) : Kills s s.drawWord.2 := .of_kept (fun _ => rfl) fun _ => rfl

theorem reportKill_kills (s : State) (j : Job) (code : BitVec 16) (co : Bool) : Kills s (reportKill s j code co) := by
  unfold reportKill
  split
  · exact .refl s
  · exact .foldl _ (fun s _ => (drawWord_kills s).trans (haltRecord_kills _ _ _ _ _ _)) _ s

theorem coKill_kills (s : State) (n : Nat) (code : BitVec 16) : Kills s (coKill s n code) := by
  unfold coKill
  split
  · exact .refl s
  · split
    · exact .refl s
    · exact (reportKill_kills _ _ _ _).trans (killOne_kills _ _ _ _ _ _)

theorem killGraph_kills (s : State) (g : Nat) (code : BitVec 16) : Kills s (killGraph s g code) := by
  unfold killGraph
  refine Kills.trans (t := (pmGlobal s 15 1).modRun _) ?_ (.foldl _ (fun s n => coKill_kills s n code) _ _)
  exact .of_kept (pmGlobal_job s 15 1) fun c => congrArg Core.st (pmGlobal_core s 15 1 c)

/-- After the kill of a job's own record, the rest of killJob begins kills alone. -/
theorem killOne_to_killJob {s : State} {n : Nat} {j : Job} (why : KillWhy) (code : BitVec 16) (detail : W64)
    (hj : s.job n = some j) (hk : j.killable = true) :
    Kills (killOne s n why code detail false) (killJob s n why code detail) := by
  unfold killJob
  simp only [hj, hk, Bool.not_true, Bool.false_eq_true, if_false]
  split
  · exact .refl _
  · split
    · exact killGraph_kills _ _ _
    · exact .refl _

theorem killJob_kills (s : State) (n : Nat) (why : KillWhy) (code : BitVec 16) (detail : W64) :
    Kills s (killJob s n why code detail) := by
  cases hj : s.job n with
  | none =>
    unfold killJob
    rw [hj]
    exact .refl s
  | some j =>
    cases hk : j.killable with
    | true => exact (killOne_kills _ _ _ _ _ _).trans (killOne_to_killJob why code detail hj hk)
    | false =>
      unfold killJob
      simp only [hj, hk]
      exact .refl s

theorem killJob_stoppedOn {s : State} {n c : Nat} {j : Job} (why : KillWhy) (code : BitVec 16) (detail : W64)
    (hj : s.job n = some j) (hnone : j.kill = none) (hc : c ∈ j.cores) : StoppedOn (killJob s n why code detail) c := by
  have hk : j.killable = true := (Job.killable_iff j).2 ⟨hnone, List.ne_nil_of_mem hc⟩
  exact (killOne_to_killJob why code detail hj hk).stoppedOn (killOne_stoppedOn why code detail false hj hk hc)

theorem killJob_job_killed {s : State} {n : Nat} {j : Job} (why : KillWhy) (code : BitVec 16) (detail : W64)
    (hj : s.job n = some j) (hnone : j.kill = none) (hc : j.cores ≠ []) :
    ∃ i, (killJob s n why code detail).job n = some i ∧ i.kill.isSome = true := by
  rcases (killJob_kills s n why code detail).job n with e | ⟨_, i, -, hi, -, hk, -⟩
  · exact absurd hnone (killJob_killed s n why code detail n (.inr rfl) j (e.trans hj) hc)
  · exact ⟨i, hi, hk⟩

/-! ## Held cores let go (R173, R481) -/

theorem releaseHeld_of_not_held {s : State} {c : Nat} (h : (s.core c).st ≠ .held) : releaseHeld s c = s := if_neg h

theorem releaseHeld_of_held {s : State} {c n : Nat} {j : Job} (hst : (s.core c).st = .held) (hn : (s.core c).job = some n)
    (hj : s.job n = some j) : releaseHeld s c = killJob s n (haltWhy j.killCode) j.killCode j.detail := by
  unfold releaseHeld
  simp only [hst, hn, hj, if_true]

theorem releaseHeld_kills (s : State) (c : Nat) : Kills s (releaseHeld s c) := by
  unfold releaseHeld
  dsimp only
  split
  · split
    · split
      · exact killJob_kills _ _ _ _ _
      · exact .refl s
    · exact .refl s
  · exact .refl s

theorem releaseHeld_stops (s : State) (c : Nat) : Stops s (releaseHeld s c) := by
  unfold releaseHeld
  dsimp only
  split
  · split
    · split
      · exact killJob_stops _ _ _ _ _
      · exact Stops.refl s
    · exact Stops.refl s
  · exact Stops.refl s

theorem foldl_releaseHeld_of_none_held (l : List Nat) (s : State) (h : ∀ c ∈ l, (s.core c).st ≠ .held) :
    l.foldl releaseHeld s = s := by
  induction l with
  | nil => rfl
  | cons c r ih =>
    obtain ⟨hc, hr⟩ := List.forall_mem_cons.1 h
    rw [List.foldl_cons, releaseHeld_of_not_held hc, ih hr]

/-- A held core among those let go is stopped with a job that stands on it, its own or, before its turn came, another. -/
theorem foldl_releaseHeld_stoppedOn {l : List Nat} {s : State} {c n : Nat} {j : Job} (hl : c ∈ l)
    (hst : (s.core c).st = .held) (hn : (s.core c).job = some n) (hj : s.job n = some j) (hc : c ∈ j.cores)
    (hnone : j.kill = none) : StoppedOn (l.foldl releaseHeld s) c := by
  obtain ⟨before, after, rfl⟩ := List.append_of_mem hl
  rw [List.foldl_append, List.foldl_cons]
  refine (Kills.foldl releaseHeld releaseHeld_kills after _).stoppedOn ?_
  have hstops : Stops s (before.foldl releaseHeld s) := .foldl _ releaseHeld_stops before s
  rcases (Kills.foldl releaseHeld releaseHeld_kills before s).core c with ⟨hsame, hjobs⟩ | hstopped
  · have hj' := hjobs n j hj hc
    rw [releaseHeld_of_held (hsame.trans hst) ((hstops.2 c).job.trans hn) hj']
    exact killJob_stoppedOn _ _ _ hj' hnone hc
  · exact (releaseHeld_kills _ c).stoppedOn hstopped

/-- Where a core holds the number of each job that stands on it, the job killed with a stopped core is its own. -/
theorem Kills.killed_of_stoppedOn {s t : State} (h : Kills s t) {c n : Nat} {j : Job}
    (own : ∀ m j d, s.job m = some j → d ∈ j.cores → (s.core d).job = some m) (hc : StoppedOn t c)
    (hn : (s.core c).job = some n) (hj : s.job n = some j) :
    ∃ i, t.job n = some i ∧ i.kill.isSome = true ∧ i.cores = j.cores := by
  obtain ⟨-, m, i, hi, hmem, hk⟩ := hc
  obtain ⟨k, hm, hcores⟩ := h.job_cores hi
  obtain rfl : m = n := Option.some.inj ((own m k c hm (hcores ▸ hmem)).symm.trans hn)
  obtain rfl : k = j := Option.some.inj (hm.symm.trans hj)
  exact ⟨i, hi, hk, hcores⟩

/-- The kill of the job of each held core among those let go begins (R173). -/
theorem foldl_releaseHeld_begins_kill {l : List Nat} {s : State} {c n : Nat} {j : Job}
    (own : ∀ m j d, s.job m = some j → d ∈ j.cores → (s.core d).job = some m) (hl : c ∈ l)
    (hst : (s.core c).st = .held) (hn : (s.core c).job = some n) (hj : s.job n = some j) (hc : c ∈ j.cores)
    (hnone : j.kill = none) : ((l.foldl releaseHeld s).core c).st = .killing ∧
      ∃ i, (l.foldl releaseHeld s).job n = some i ∧ i.kill.isSome = true ∧ i.cores = j.cores := by
  have hstopped := foldl_releaseHeld_stoppedOn hl hst hn hj hc hnone
  exact ⟨hstopped.1, (Kills.foldl releaseHeld releaseHeld_kills l s).killed_of_stoppedOn own hstopped hn hj⟩

/-! ## A core that halts (R171, R173) -/

/-- The state in which a halt of core c is counted and recorded, before the core is held or its job killed. -/
def haltNoted (s : State) (c : Nat) (code : BitVec 16) (unit : Option Nat) (addr : Nat) (data : W64) : State :=
  errRecord (haltRecord (pmJob s (s.core c).job 10 1) c code addr data false) 1 unit (some c) (s.corePart c) code addr

/-- Counting for a job changes its counts alone. -/
theorem pmJob_job {s : State} {n : Nat} {j : Job} (hj : s.job n = some j) (slot amount : Nat) :
    ∃ counts, (pmJob s (some n) slot amount).job n = some { j with counts := counts } := by
  unfold pmJob
  simp only [pmGlobal_job, hj, State.setJob_job]
  exact ⟨_, rfl⟩

section
variable {s : State} {c n : Nat} {j : Job} (code : BitVec 16) (unit : Option Nat) (addr : Nat) (data : W64)

theorem haltNoted_hold : (haltNoted s c code unit addr data).obs.hold = s.obs.hold := by
  have h : Only haltCoreParts s (haltNoted s c code unit addr data) :=
    .step (errRecord_only _ _ _ _ _ _ _) (by decide) (.step (haltRecord_only _ _ _ _ _ _) (by decide)
      (.step (pmJob_only _ _ _ _) (by decide) (.refl _ _)))
  have hobs : ObsKept s.obs (haltNoted s c code unit addr data).obs := h .obsCfg (by decide)
  rw [hobs]

theorem haltNoted_core_job (hn : (s.core c).job = some n) : ((haltNoted s c code unit addr data).core c).job = some n := by
  have h : Stops s (haltNoted s c code unit addr data) :=
    ((pmJob_stops _ _ _ _).trans (haltRecord_stops _ _ _ _ _ _)).trans (errRecord_reports _ _ _ _ _ _ _).stops
  exact (h.2 c).job.trans hn

theorem haltNoted_job (hn : (s.core c).job = some n) (hj : s.job n = some j) :
    ∃ counts, (haltNoted s c code unit addr data).job n = some { j with counts := counts } := by
  unfold haltNoted
  rw [errRecord_job, haltRecord_job, hn]
  exact pmJob_job hj 10 1

/-- With halt hold the core is HELD, and the job keeps the code and data for its release (R173). -/
theorem haltCore_of_hold (hn : (s.core c).job = some n) (hj : s.job n = some j) (hk : j.kill = none)
    (hh : bitAt s.obs.hold.toNat c = true) : ∃ i, i.kill = none ∧ i.cores = j.cores ∧
      haltCore s c code unit addr data =
        ((haltNoted s c code unit addr data).modCore c fun k => { k with st := .held, stall := 0#3 }).setJob n i := by
  obtain ⟨counts, hjob⟩ := haltNoted_job code unit addr data hn hj
  have hcore := haltNoted_core_job code unit addr data hn
  rw [← haltNoted_hold (c := c) code unit addr data] at hh
  unfold haltNoted at hjob hcore hh ⊢
  unfold haltCore
  simp only [hcore, hh, if_true, State.modCore_eq, State.setCore_job, hjob, hk, Option.isSome_none, Bool.false_eq_true,
    if_false]
  refine ⟨_, ?_, ?_, rfl⟩ <;> rfl

/-- Without halt hold the kill of the job begins (R171). -/
theorem haltCore_of_not_hold (hn : (s.core c).job = some n) (hh : bitAt s.obs.hold.toNat c = false) :
    haltCore s c code unit addr data = killJob (haltNoted s c code unit addr data) n (haltWhy code) code data := by
  have hcore := haltNoted_core_job code unit addr data hn
  rw [← haltNoted_hold (c := c) code unit addr data] at hh
  unfold haltNoted at hcore hh ⊢
  unfold haltCore
  simp only [hcore, hh, Bool.false_eq_true, if_false]

/-- A core with halt hold holds: its scratch stays, and the kill of its job does not begin (R173). -/
theorem haltCore_holds (hn : (s.core c).job = some n) (hj : s.job n = some j) (hk : j.kill = none)
    (hh : bitAt s.obs.hold.toNat c = true) :
    ((haltCore s c code unit addr data).core c).st = .held ∧
      ((haltCore s c code unit addr data).core c).scratch = (s.core c).scratch ∧
      ∃ i, (haltCore s c code unit addr data).job n = some i ∧ i.kill = none ∧ i.cores = j.cores := by
  refine ⟨?_, ((haltCore_stops s c code unit addr data).2 c).scratch, ?_⟩
  all_goals obtain ⟨i, hkill, hcores, e⟩ := haltCore_of_hold code unit addr data hn hj hk hh
  · rw [e, State.setJob_core, State.modCore_eq, State.setCore_core]
  · exact ⟨i, by rw [e, State.setJob_job], hkill, hcores⟩

/-- A core without halt hold stops, and the kill of its job begins (R171). -/
theorem haltCore_begins_kill (hn : (s.core c).job = some n) (hj : s.job n = some j) (hk : j.kill = none) (hc : c ∈ j.cores)
    (hh : bitAt s.obs.hold.toNat c = false) :
    ((haltCore s c code unit addr data).core c).st = .killing ∧
      ∃ i, (haltCore s c code unit addr data).job n = some i ∧ i.kill.isSome = true := by
  obtain ⟨counts, hjob⟩ := haltNoted_job code unit addr data hn hj
  rw [haltCore_of_not_hold code unit addr data hn hh]
  refine ⟨(killJob_stoppedOn (haltWhy code) code data hjob hk hc).1, ?_⟩
  exact killJob_job_killed (haltWhy code) code data hjob hk (List.ne_nil_of_mem hc)
end

/-! ## An access that is denied (R7, R481) -/

/-- Evaluating the outputs changes no source (R455). -/
theorem chEval_src (s : State) (m : Nat) : (chEval s).src m = s.src m := by
  unfold chEval
  induction List.range 8 generalizing s with
  | nil => rfl
  | cons t r ih => exact ih (chEvalTarget s t)

/-- A pulse on a source that senses rising edges, and that was low, is one event (R451, R452). -/
theorem Src.pulse_event {x : Src} (code : BitVec 16) (data : W32) (hs : x.sense = 1#2) (hp : x.prev = false) :
    let y := (x.sampleWith true code data).sampleWith false code data
    y.count = x.count + 1#16 ∧ y.code = code ∧ y.st ≠ .idle := by
  have rises : x.eventOn true = true := by simp [Src.eventOn, hs, hp]
  have high : x.sampleWith true code data = { x.event code data with prev := true } := by simp [Src.sampleWith, rises]
  have falls : ({ x.event code data with prev := true } : Src).eventOn false = false := by simp [Src.eventOn, Src.event, hs]
  have low : (x.sampleWith true code data).sampleWith false code data = { x.event code data with prev := false } := by
    rw [high]
    simp [Src.sampleWith, falls]
  intro y
  rw [show y = _ from low]
  refine ⟨rfl, rfl, ?_⟩
  unfold Src.event
  cases x.st <;> exact nofun

/-- What a denied write of a DBG_ register does: it is reported by one event of source 107, and nothing else comes of it. -/
def DenialReported (s t : State) : Prop :=
  Reports s t ∧ t.sec = s.sec ∧ t.obs.hold = s.obs.hold ∧ t.obs.bps = s.obs.bps ∧
    (s.chRuns = true → (s.src 107).sense = 1#2 → (s.src 107).prev = false →
      (t.src 107).count = (s.src 107).count + 1#16 ∧ (t.src 107).code = Config.ACCESS_DENIED ∧ (t.src 107).st ≠ .idle)

theorem accessDenied_denialReported (s : State) : DenialReported s (accessDenied s) := by
  have hr := accessDenied_reports s
  have hobs : ObsKept s.obs (accessDenied s).obs := hr.obs
  refine ⟨hr, accessDenied_sec s, by rw [hobs], by rw [hobs], fun hruns hsense hprev => ?_⟩
  have e : (accessDenied s).src 107 =
      ((s.src 107).sampleWith true Config.ACCESS_DENIED 0#32).sampleWith false Config.ACCESS_DENIED 0#32 := by
    unfold accessDenied accessDeniedId chPulse
    rw [if_pos hruns, chEval_src, State.setSrc_src]
  rw [e]
  exact Src.pulse_event _ _ hsense hprev

/-! ## The manager's writes of the DBG_ registers (R481) -/

theorem bitAt_eq_getLsbD {w : Nat} (x : BitVec w) (i : Nat) : bitAt x.toNat i = x.getLsbD i := by
  unfold bitAt bitField BitVec.getLsbD
  rw [show i + 1 - i = 1 by omega, Nat.testBit_eq_decide_div_mod_eq, Nat.shiftRight_eq_div_pow, pow_one]
  rfl

theorem mem_setBits {w : Nat} (x : BitVec w) (i : Nat) : i ∈ setBits w x.toNat ↔ x.getLsbD i = true := by
  unfold setBits
  rw [List.mem_filter, bitAt_eq_getLsbD, List.mem_range]
  exact and_iff_right_of_imp BitVec.lt_of_getLsbD

section
variable {s : State} {who : Who}

/-- A register write that the port grants is a write of its word, or of its double word (R11). -/
theorem exec_registerWrite_may (h : ManagerMay s who) (off : BitVec 26) (wide : Bool) (data : W64)
    (ha : off.toNat % (if wide then 8 else 4) = 0) (hw : windowCore off.toNat = none) :
    exec (.registerWrite who off wide data) s =
      if wide then writeDouble s who off.toNat data else writeWord s who off.toNat data.toNat := by
  obtain ⟨hport, hhalted, hready, hinst, hvalid⟩ := h
  change execRegisterWrite who off wide data s = _
  unfold execRegisterWrite
  rw [hostCheck_manager s who off.toNat true wide hport hhalted (.inl hready) hvalid hinst ha hw]

/-- A full write of a register of the observation part (R516). -/
theorem writeReg_obs {off : Nat} (hlo : 0x700000 ≤ off) (hhi : off < 0x800000) (w : W64) :
    writeReg s who off .full w = .next (writePm s off w w) := by
  unfold writeReg
  simp only [Part.merge]
  rw [if_neg (by omega), if_neg (by omega), if_neg (by omega), if_neg (by omega), if_neg (by omega), if_neg (by omega),
    if_neg (by omega), if_neg (by omega), if_pos hhi]

/-- A word written to DBG_CTL. -/
theorem exec_write_dbgCtl (h : ManagerMay s who) (data : W64) :
    exec (.registerWrite who 0x701000#26 false data) s = .next (setDbgCtl s (BitVec.ofNat 64 (data.toNat % 2 ^ 32))) := by
  have hrow : (regRowAt 0x701000).map (·.bytes) = some 4 := by decide +kernel
  obtain ⟨r, hr, hbytes⟩ := Option.map_eq_some_iff.1 hrow
  rw [exec_registerWrite_may h _ _ _ (by decide) (by decide)]
  unfold writeWord
  simp only [Bool.false_eq_true, if_false, BitVec.toNat_ofNat, Nat.reducePow, Nat.reduceMod, hr, hbytes, if_true]
  exact writeReg_obs (by decide) (by decide) _

/-- The register at the offset of DBG_BP[k]. -/
theorem writePm_dbgBp (s : State) {k : Nat} (hk : k < 4) (m w : W64) :
    writePm s (0x701010 + 8 * k) m w = setBreakpoint s k m := by
  unfold writePm
  split
  any_goals omega
  rw [if_pos (by omega), regIndex, Nat.add_sub_cancel_left, Nat.mul_div_cancel_left k (by decide)]

theorem toNat_dbgBp_offset (k : BitVec 2) : (0x701010#26 + 8#26 * k.setWidth 26).toNat = 0x701010 + 8 * k.toNat := by
  bv_omega

/-- A double word written to DBG_BP[k]. -/
theorem exec_write_dbgBp (h : ManagerMay s who) (k : BitVec 2) (data : W64) :
    exec (.registerWrite who (0x701010#26 + 8#26 * k.setWidth 26) true data) s = .next (setBreakpoint s k.toNat data) := by
  have hrow : ∀ k : BitVec 2, (regRowAt (0x701010 + 8 * k.toNat)).map (·.bytes) = some 8 := by decide +kernel
  obtain ⟨r, hr, hbytes⟩ := Option.map_eq_some_iff.1 (hrow k)
  have hk : k.toNat < 4 := k.isLt
  have hoff := toNat_dbgBp_offset k
  have hwin : windowCore (0x701010 + 8 * k.toNat) = none := if_neg (by omega)
  rw [exec_registerWrite_may h _ _ _ (by rw [hoff, if_pos rfl]; omega) (by rw [hoff, hwin]), hoff, if_pos rfl]
  unfold writeDouble
  simp only [hr, hbytes, if_true]
  rw [writeReg_obs (by omega) (by omega), writePm_dbgBp s hk]

theorem exec_dbgRelease (h : ManagerMay s who) (cores : BitVec 16) :
    exec (.dbgRelease who cores) s = .next (dbgReleaseCores s cores) :=
  congrArg Host.Outcome.next (hostWrite_may h DBG_RELEASE false _ (by decide) (by decide))

/-- While unlocked DBG_RELEASE lets the named cores go, one after the other. -/
theorem exec_dbgRelease_unlocked (h : ManagerMay s who) (hu : s.sec.unlocked = true) (cores : BitVec 16) :
    exec (.dbgRelease who cores) s = .next ((setBits 16 cores.toNat).foldl releaseHeld s) := by
  rw [exec_dbgRelease h]
  obtain ⟨-, hhalted, -⟩ := h
  unfold dbgReleaseCores
  rw [if_pos hu, hhalted]
  rfl

theorem exec_dbgRelease_locked (h : ManagerMay s who) (hu : s.sec.unlocked = false) (cores : BitVec 16) :
    exec (.dbgRelease who cores) s = .next (accessDenied s) := by
  rw [exec_dbgRelease h, dbgReleaseCores, if_neg (by simp [hu])]

theorem exec_write_dbgBp_locked (h : ManagerMay s who) (hu : s.sec.unlocked = false) (k : BitVec 2) (data : W64) :
    exec (.registerWrite who (0x701010#26 + 8#26 * k.setWidth 26) true data) s = .next (accessDenied s) := by
  rw [exec_write_dbgBp h, setBreakpoint, if_neg (by simp [hu])]

/-- A word of DBG_CTL with HALT_ALL 0 names HOLD alone. -/
theorem exec_write_hold (h : ManagerMay s who) (data : W64) (h0 : data.getLsbD 0 = false) :
    exec (.registerWrite who 0x701000#26 false data) s = .next (
      if s.sec.unlocked then { s with obs := { s.obs with hold := data.extractLsb' 16 16 } }
      else if data.extractLsb' 16 16 = s.obs.hold then s else accessDenied s) := by
  have hhold : BitVec.ofNat 16 (bitField (BitVec.ofNat 64 (data.toNat % 2 ^ 32)).toNat 31 16) = data.extractLsb' 16 16 := by
    apply BitVec.eq_of_toNat_eq
    simp only [bitField, BitVec.toNat_ofNat, BitVec.extractLsb'_toNat, Nat.shiftRight_eq_div_pow]
    omega
  have hbit : bitAt (BitVec.ofNat 64 (data.toNat % 2 ^ 32)).toNat 0 = false := by
    rw [bitAt_eq_getLsbD, BitVec.getLsbD_ofNat, Nat.testBit_mod_two_pow]
    exact h0
  rw [exec_write_dbgCtl h]
  unfold setDbgCtl
  simp only [hhold, hbit, Bool.false_eq_true, if_false]
end

/-- Settles O56: while unlocked a word of DBG_CTL sets HOLD, and a release stops each held core it names with its job; while
locked each write comes to one denied access; and a core that halts holds just where HOLD names it. -/
theorem holdAndReleaseWhileUnlocked : Obligations.HoldAndReleaseWhileUnlocked := by
  refine ⟨fun s who data cores k hmay => ⟨fun hu => ⟨fun h0 => ?hold, fun hfree => ?free, fun own => ?release⟩,
    fun hu => ⟨fun h0 hne => ?lockedHold, ?lockedRelease, ?lockedPoint⟩⟩,
    fun s core code unit addr detail n j hn hj hk hc => ?halts⟩
  case hold => rw [exec_write_hold hmay data h0, if_pos hu]
  case free =>
    rw [exec_dbgRelease_unlocked hmay hu, foldl_releaseHeld_of_none_held]
    exact fun c hc => hfree c ((mem_setBits cores c).1 hc)
  case release =>
    refine ⟨_, exec_dbgRelease_unlocked hmay hu cores, .foldl (fun s c => releaseHeld_only s c) (.refl _ s), ?_⟩
    exact fun c n j hc hst hn hj hmem hk => foldl_releaseHeld_begins_kill own ((mem_setBits cores c).2 hc) hst hn hj hmem hk
  case lockedHold =>
    refine ⟨_, exec_write_hold hmay data h0, ?_⟩
    rw [if_neg (by simp [hu]), if_neg hne]
    exact accessDenied_denialReported s
  case lockedRelease => exact ⟨_, exec_dbgRelease_locked hmay hu cores, accessDenied_denialReported s⟩
  case lockedPoint => exact ⟨_, exec_write_dbgBp_locked hmay hu k data, accessDenied_denialReported s⟩
  case halts =>
    refine ⟨fun hh => ?_, fun hh => ?_⟩ <;> rw [← bitAt_eq_getLsbD] at hh
    · exact haltCore_holds code unit addr detail hn hj hk hh
    · exact haltCore_begins_kill code unit addr detail hn hj hk hc hh

end Sys2Proof.Machine
end

section
/-! SUPPORT. The frame of all rows and the invariant of every step (O58, O59), the step, the idle cycle and the state after
reset (O1, O2, O60). -/

namespace Sys2Proof.Machine

theorem NextOnly.within {l m : List Field} {s : State} {o : Host.Outcome State Fault Refusal} (g : NextOnly m s o)
    (hm : (m.all fun f => decide (f ∈ l)) = true) : NextOnly l s o := g.step hm (.refl l s)

/-- The row of `mayChange` holds for every command. -/
theorem exec_only : ∀ (i : Instr) (s : State), NextOnly (mayChange i) s (exec i s)
  | .porN asserted, s => (execPorN_only asserted s).within rfl
  | .blkRstN asserted, s => (execBlkRstN_only asserted s).within rfl
  | .romInitDone selfCheckOk, s => (execRomInitDone_only selfCheckOk s).within rfl
  | .load who, s => (execLoad_only who s).within rfl
  | .patchVerifyDone v, s => (execPatchVerifyDone_only v s).within rfl
  | .fusedWindowAccess who off write, s => (execFusedWindowAccess_only who off write s).within rfl
  | .registerWrite who off wide data, s => (execRegisterWrite_only who off wide data s).within rfl
  | .retReq, s => (execRetReq_only s).within rfl
  | .retAck, s => (execRetAck_only s).within rfl
  | .wake, s => (execWake_only s).within rfl
  | .chimeRestoreDone, s => (execChimeRestoreDone_only s).within rfl
  | .mpTrainDone port level rdCredits wrCredits, s => (execMpTrainDone_only port level rdCredits wrCredits s).within rfl
  | .mpPause port level ns, s => (execMpPause_only port level ns s).within rfl
  | .mpThrottle port tag asserted ns, s => (execMpThrottle_only port tag asserted ns s).within rfl
  | .data port poison late reader, s => (execData_only port poison late reader s).within rfl
  | .wack a, s => (execWack_only a s).within rfl
  | .adata a old, s => (execAdata_only a old s).within rfl
  | .portFailed port, s => (execPortFailed_only port s).within rfl
  | .start who, s => (execStart_only who s).within rfl
  | .abort who, s => (execAbort_only who s).within rfl
  | .admissionVerifyDone v, s => (execAdmissionVerifyDone_only v s).within rfl
  | .admissionProveDone, s => (execAdmissionProveDone_only s).within rfl
  | .firstImageSwap, s => (execFirstImageSwap_only s).within rfl
  | .beat, s => (execBeat_only s).within rfl
  | .windowStart part win, s => (execWindowStart_only part win s).within rfl
  | .windowEnd part win, s => (execWindowEnd_only part win s).within rfl
  | .stationLaunch st, s => (execStationLaunch_only st s).within rfl
  | .freeLaunch part t, s => (execFreeLaunch_only part t s).within rfl
  | .boundOverrun core, s => (execBoundOverrun_only core s).within rfl
  | .holdTimeout core, s => (execHoldTimeout_only core s).within rfl
  | .jobEnd core, s => (execJobEnd_only core s).within rfl
  | .commit target, s => (execCommit_only target s).within rfl
  | .completionIndexWrite queue, s => (execCompletionIndexWrite_only queue s).within rfl
  | .icacheFill core event, s => (execIcacheFill_only core event s).within rfl
  | .nop core, s => (execNop_only core s).within rfl
  | .halt core, s => (execHalt_only core s).within rfl
  | .endOp core, s => (execEndOp_only core s).within rfl
  | .add core, s => (execAdd_only core s).within rfl
  | .sub core, s => (execSub_only core s).within rfl
  | .mul core, s => (execMul_only core s).within rfl
  | .andOp core, s => (execAndOp_only core s).within rfl
  | .orOp core, s => (execOrOp_only core s).within rfl
  | .xorOp core, s => (execXorOp_only core s).within rfl
  | .shl core, s => (execShl_only core s).within rfl
  | .shr core, s => (execShr_only core s).within rfl
  | .sar core, s => (execSar_only core s).within rfl
  | .minOp core, s => (execMinOp_only core s).within rfl
  | .maxOp core, s => (execMaxOp_only core s).within rfl
  | .slt core, s => (execSlt_only core s).within rfl
  | .sltu core, s => (execSltu_only core s).within rfl
  | .lih core, s => (execLih_only core s).within rfl
  | .ld a, s => (execLd_only a s).within rfl
  | .st core, s => (execSt_only core s).within rfl
  | .b core, s => (execB_only core s).within rfl
  | .beq core, s => (execBeq_only core s).within rfl
  | .bne core, s => (execBne_only core s).within rfl
  | .blt core, s => (execBlt_only core s).within rfl
  | .bge core, s => (execBge_only core s).within rfl
  | .bltu core, s => (execBltu_only core s).within rfl
  | .bal core, s => (execBal_only core s).within rfl
  | .jr core, s => (execJr_only core s).within rfl
  | .mfs core, s => (execMfs_only core s).within rfl
  | .fclrm core, s => (execFclrm_only core s).within rfl
  | .store core, s => (execStore_only core s).within rfl
  | .send core, s => (execSend_only core s).within rfl
  | .mcast core, s => (execMcast_only core s).within rfl
  | .release core, s => (execRelease_only core s).within rfl
  | .fence core, s => (execFence_only core s).within rfl
  | .streamOpStart a thread, s => (execStreamOpStart_only a thread s).within rfl
  | .streamOpComplete core thread, s => (execStreamOpComplete_only core thread s).within rfl
  | .tileArrival a lane, s => (execTileArrival_only a lane s).within rfl
  | .creditReturn a lane, s => (execCreditReturn_only a lane s).within rfl
  | .counterUpdate home err, s => (execCounterUpdate_only home err s).within rfl
  | .watchPush core, s => (execWatchPush_only core s).within rfl
  | .mwld core, s => (execMwld_only core s).within rfl
  | .mma core, s => (execMma_only core s).within rfl
  | .mdrain core, s => (execMdrain_only core s).within rfl
  | .mzero core, s => (execMzero_only core s).within rfl
  | .matrixOpStart core err, s => (execMatrixOpStart_only core err s).within rfl
  | .matrixOpComplete core path, s => (execMatrixOpComplete_only core path s).within rfl
  | .vadd core, s => (execVadd_only core s).within rfl
  | .vsub core, s => (execVsub_only core s).within rfl
  | .vmul core, s => (execVmul_only core s).within rfl
  | .vfma core, s => (execVfma_only core s).within rfl
  | .vmin core, s => (execVmin_only core s).within rfl
  | .vmax core, s => (execVmax_only core s).within rfl
  | .vclamp core, s => (execVclamp_only core s).within rfl
  | .vabs core, s => (execVabs_only core s).within rfl
  | .vneg core, s => (execVneg_only core s).within rfl
  | .vcopy core, s => (execVcopy_only core s).within rfl
  | .vrcp core, s => (execVrcp_only core s).within rfl
  | .vrsqrt core, s => (execVrsqrt_only core s).within rfl
  | .vsqrt core, s => (execVsqrt_only core s).within rfl
  | .vexp2 core, s => (execVexp2_only core s).within rfl
  | .vlog2 core, s => (execVlog2_only core s).within rfl
  | .vcmp core, s => (execVcmp_only core s).within rfl
  | .vsel core, s => (execVsel_only core s).within rfl
  | .vmand core, s => (execVmand_only core s).within rfl
  | .vmor core, s => (execVmor_only core s).within rfl
  | .vmnot core, s => (execVmnot_only core s).within rfl
  | .vrsum core, s => (execVrsum_only core s).within rfl
  | .vrmax core, s => (execVrmax_only core s).within rfl
  | .vrmin core, s => (execVrmin_only core s).within rfl
  | .vcvt core, s => (execVcvt_only core s).within rfl
  | .vcompress core, s => (execVcompress_only core s).within rfl
  | .vexpand core, s => (execVexpand_only core s).within rfl
  | .vectorGroupStart core err, s => (execVectorGroupStart_only core err s).within rfl
  | .vectorGroupComplete core, s => (execVectorGroupComplete_only core s).within rfl
  | .verifyScanDone, s => (execVerifyScanDone_only s).within rfl
  | .loaderModeWrite who data, s => (execLoaderModeWrite_only who data s).within rfl
  | .doorbell page who data, s => (execDoorbell_only page who data s).within rfl
  | .queueFetchSlot part, s => (execQueueFetchSlot_only part s).within rfl
  | .fetchRetry queue, s => (execFetchRetry_only queue s).within rfl
  | .launch queue, s => (execLaunch_only queue s).within rfl
  | .copy queue, s => (execCopy_only queue s).within rfl
  | .fill queue, s => (execFill_only queue s).within rfl
  | .copyFillStart part, s => (execCopyFillStart_only part s).within rfl
  | .copyFillComplete part, s => (execCopyFillComplete_only part s).within rfl
  | .wait queue, s => (execWait_only queue s).within rfl
  | .waitSatisfied queue, s => (execWaitSatisfied_only queue s).within rfl
  | .signal queue, s => (execSignal_only queue s).within rfl
  | .barrier queue, s => (execBarrier_only queue s).within rfl
  | .objectMapNew queue, s => (execObjectMapNew_only queue s).within rfl
  | .objectMapImport queue, s => (execObjectMapImport_only queue s).within rfl
  | .objectMapBind queue, s => (execObjectMapBind_only queue s).within rfl
  | .objectFree queue, s => (execObjectFree_only queue s).within rfl
  | .freeComplete index, s => (execFreeComplete_only index s).within rfl
  | .timestamp queue, s => (execTimestamp_only queue s).within rfl
  | .counterDump queue, s => (execCounterDump_only queue s).within rfl
  | .indirect queue, s => (execIndirect_only queue s).within rfl
  | .nopPacket queue, s => (execNopPacket_only queue s).within rfl
  | .basinFillDone slot, s => (execBasinFillDone_only slot s).within rfl
  | .objTableEnable who data, s => (execObjTableEnable_only who data s).within rfl
  | .objTableInitDone, s => (execObjTableInitDone_only s).within rfl
  | .ctxCreate m, s => (execCtxCreate_only m s).within rfl
  | .ctxDestroy m, s => (execCtxDestroy_only m s).within rfl
  | .queueCreate m, s => (execQueueCreate_only m s).within rfl
  | .queueDestroy m, s => (execQueueDestroy_only m s).within rfl
  | .queueReset m, s => (execQueueReset_only m s).within rfl
  | .counterAlloc m, s => (execCounterAlloc_only m s).within rfl
  | .instCreate m, s => (execInstCreate_only m s).within rfl
  | .instDisableSquash m, s => (execInstDisableSquash_only m s).within rfl
  | .instDisableDrain m, s => (execInstDisableDrain_only m s).within rfl
  | .drainTimeout inst, s => (execDrainTimeout_only inst s).within rfl
  | .disableComplete inst, s => (execDisableComplete_only inst s).within rfl
  | .instEnable m, s => (execInstEnable_only m s).within rfl
  | .instReset m, s => (execInstReset_only m s).within rfl
  | .teardownStepDone ctx, s => (execTeardownStepDone_only ctx s).within rfl
  | .instBind m, s => (execInstBind_only m s).within rfl
  | .keyLoad m v, s => (execKeyLoad_only m v s).within rfl
  | .keyErase m, s => (execKeyErase_only m s).within rfl
  | .attest m, s => (execAttest_only m s).within rfl
  | .attestSigned, s => (execAttestSigned_only s).within rfl
  | .recRing m, s => (execRecRing_only m s).within rfl
  | .stop who queue, s => (execStop_only who queue s).within rfl
  | .restart who queue, s => (execRestart_only who queue s).within rfl
  | .rebind who queue part, s => (execRebind_only who queue part s).within rfl
  | .rebindComplete, s => (execRebindComplete_only s).within rfl
  | .grant who size, s => (execGrant_only who size s).within rfl
  | .releaseShare who, s => (execReleaseShare_only who s).within rfl
  | .scratchClearDone core, s => (execScratchClearDone_only core s).within rfl
  | .weightWrite who data, s => (execWeightWrite_only who data s).within rfl
  | .preemptQueue who target, s => (execPreemptQueue_only who target s).within rfl
  | .preemptContext who target, s => (execPreemptContext_only who target s).within rfl
  | .preemptInstance who target, s => (execPreemptInstance_only who target s).within rfl
  | .preemptCores who part mask, s => (execPreemptCores_only who part mask s).within rfl
  | .preemptWaitExpiry part t, s => (execPreemptWaitExpiry_only part t s).within rfl
  | .remoteLimit core, s => (execRemoteLimit_only core s).within rfl
  | .setOp who value, s => (execSetOp_only who value s).within rfl
  | .reclaim who, s => (execReclaim_only who s).within rfl
  | .flightCreate who, s => (execFlightCreate_only who s).within rfl
  | .flightReset who, s => (execFlightReset_only who s).within rfl
  | .flightBreak who, s => (execFlightBreak_only who s).within rfl
  | .flightDestroy who, s => (execFlightDestroy_only who s).within rfl
  | .flightWatchdog flight, s => (execFlightWatchdog_only flight s).within rfl
  | .arrive h flight round, s => (execArrive_only h flight round s).within rfl
  | .releaseMessage h flight round, s => (execReleaseMessage_only h flight round s).within rfl
  | .breakMsg h flight round, s => (execBreakMsg_only h flight round s).within rfl
  | .programFirst who, s => (execProgramFirst_only who s).within rfl
  | .rotate who v, s => (execRotate_only who v s).within rfl
  | .revoke who slot, s => (execRevoke_only who slot s).within rfl
  | .unlock who v, s => (execUnlock_only who v s).within rfl
  | .unlockComplete, s => (execUnlockComplete_only s).within rfl
  | .glitch source, s => (execGlitch_only source s).within rfl
  | .pair who, s => (execPair_only who s).within rfl
  | .handover who, s => (execHandover_only who s).within rfl
  | .claim who, s => (execClaim_only who s).within rfl
  | .unpair who, s => (execUnpair_only who s).within rfl
  | .hello h digest, s => (execHello_only h digest s).within rfl
  | .proof h keysDigest sigsOk latencyNs, s => (execProof_only h keysDigest sigsOk latencyNs s).within rfl
  | .heartbeat h c, s => (execHeartbeat_only h c s).within rfl
  | .heartbeatSend, s => (execHeartbeatSend_only s).within rfl
  | .heartbeatLost, s => (execHeartbeatLost_only s).within rfl
  | .yield h kind lastRel, s => (execYield_only h kind lastRel s).within rfl
  | .recoveryLost h lastRel, s => (execRecoveryLost_only h lastRel s).within rfl
  | .twWitness level, s => (execTwWitness_only level s).within rfl
  | .serviceLoopOverrun sequencer, s => (execServiceLoopOverrun_only sequencer s).within rfl
  | .recoveryStop c, s => (execRecoveryStop_only c s).within rfl
  | .watchdogFire, s => (execWatchdogFire_only s).within rfl
  | .scrub target err, s => (execScrub_only target err s).within rfl
  | .refill who slot, s => (execRefill_only who slot s).within rfl
  | .pendingWrite who view word data, s => (execPendingWrite_only who view word data s).within rfl
  | .maskWrite who view word data, s => (execMaskWrite_only who view word data s).within rfl
  | .complete who view data, s => (execComplete_only who view data s).within rfl
  | .srcCfgWrite who source data, s => (execSrcCfgWrite_only who source data s).within rfl
  | .moderationTimeout target, s => (execModerationTimeout_only target s).within rfl
  | .chIdle target level, s => (execChIdle_only target level s).within rfl
  | .pmReset who, s => (execPmReset_only who s).within rfl
  | .traceOff who, s => (execTraceOff_only who s).within rfl
  | .traceEvents who, s => (execTraceEvents_only who s).within rfl
  | .traceFull who cores, s => (execTraceFull_only who cores s).within rfl
  | .traceFrameSend, s => (execTraceFrameSend_only s).within rfl
  | .take who, s => (execTake_only who s).within rfl
  | .snapshotDone, s => (execSnapshotDone_only s).within rfl
  | .haltAll who, s => (execHaltAll_only who s).within rfl
  | .dbgRelease who cores, s => (execDbgRelease_only who cores s).within rfl
  | .bypass tdi, s => (execBypass_only tdi s).within rfl
  | .idcode, s => (execIdcode_only s).within rfl
  | .status, s => (execStatus_only s).within rfl
  | .challenge, s => (execChallenge_only s).within rfl
  | .response bytes, s => (execResponse_only bytes s).within rfl
  | .tapUnlock update v, s => (execTapUnlock_only update v s).within rfl
  | .tapHaltAll update, s => (execTapHaltAll_only update s).within rfl
  | .scanSel chain, s => (execScanSel_only chain s).within rfl
  | .scanData, s => (execScanData_only s).within rfl
  | .scratchAddr value, s => (execScratchAddr_only value s).within rfl
  | .scratchData, s => (execScratchData_only s).within rfl
  | .dirtyEnable who, s => (execDirtyEnable_only who s).within rfl
  | .dirtyFlip who, s => (execDirtyFlip_only who s).within rfl
  | .dirtyDisable who, s => (execDirtyDisable_only who s).within rfl
  | .flipDone inst, s => (execFlipDone_only inst s).within rfl
  | .linkEnable who link enable, s => (execLinkEnable_only who link enable s).within rfl
  | .phyLock link level, s => (execPhyLock_only link level s).within rfl
  | .linkInit h buffers digest, s => (execLinkInit_only h buffers digest s).within rfl
  | .linkInitTimer link, s => (execLinkInitTimer_only link s).within rfl
  | .idle h, s => (execIdle_only h s).within rfl
  | .nak h expected, s => (execNak_only h expected s).within rfl
  | .linkSilence link, s => (execLinkSilence_only link s).within rfl
  | .streamLoad core, s => (execStreamLoad_only core s).within rfl
  | .killComplete core, s => (execKillComplete_only core s).within rfl
  | .fuseCommandDone, s => (execFuseCommandDone_only s).within rfl
  | .importKeyRegenerationDone, s => (execImportKeyRegenerationDone_only s).within rfl
  | .idleSend link, s => (execIdleSend_only link s).within rfl

/-! ## The invariant of every step -/

/-- Only the rows that fetch a packet number a command. -/
theorem fetches_of_seqs_mem (i : Instr) (h : Field.seqs ∈ mayChange i) :
    (∃ qn op mode, ∀ s, exec i s = .next (packetRow s qn op mode)) ∨ ∃ qn, ∀ s, exec i s = .next (fetchRetry s qn) := by
  cases i with
  | launch _ => exact .inl ⟨_, _, _, fun _ => rfl⟩
  | copy _ => exact .inl ⟨_, _, _, fun _ => rfl⟩
  | fill _ => exact .inl ⟨_, _, _, fun _ => rfl⟩
  | wait _ => exact .inl ⟨_, _, _, fun _ => rfl⟩
  | signal _ => exact .inl ⟨_, _, _, fun _ => rfl⟩
  | barrier _ => exact .inl ⟨_, _, _, fun _ => rfl⟩
  | objectMapNew _ => exact .inl ⟨_, _, _, fun _ => rfl⟩
  | objectMapImport _ => exact .inl ⟨_, _, _, fun _ => rfl⟩
  | objectMapBind _ => exact .inl ⟨_, _, _, fun _ => rfl⟩
  | objectFree _ => exact .inl ⟨_, _, _, fun _ => rfl⟩
  | timestamp _ => exact .inl ⟨_, _, _, fun _ => rfl⟩
  | counterDump _ => exact .inl ⟨_, _, _, fun _ => rfl⟩
  | indirect _ => exact .inl ⟨_, _, _, fun _ => rfl⟩
  | nopPacket _ => exact .inl ⟨_, _, _, fun _ => rfl⟩
  | fetchRetry _ => exact .inr ⟨_, fun _ => rfl⟩
  | _ => exact absurd h (of_decide_eq_false rfl)

theorem pending_not_mem_mayChange (i : Instr) : Field.pending ∉ mayChange i := by cases i <;> exact of_decide_eq_true rfl

theorem form_not_mem_mayChange (i : Instr) : Field.form ∉ mayChange i := by cases i <;> exact of_decide_eq_true rfl

theorem exec_numbered {i : Instr} {s t : State} (e : exec i s = .next t) (h : Numbered s) : Numbered t := by
  by_cases hm : Field.seqs ∈ mayChange i
  · rcases fetches_of_seqs_mem i hm with ⟨qn, op, mode, he⟩ | ⟨qn, he⟩
    · obtain rfl := Host.Outcome.next.inj ((he s).symm.trans e)
      exact packetRow_numbered s qn op mode h
    · obtain rfl := Host.Outcome.next.inj ((he s).symm.trans e)
      exact fetchRetry_numbered s qn h
  · exact exec_only i s t e .seqs hm h

theorem exec_wf {i : Instr} {s t : State} (e : exec i s = .next t) (h : Memory.wf s.mem = true) :
    Memory.wf t.mem = true := exec_only i s t e .form (form_not_mem_mayChange i) h

/-- Settles O58: the frame of each row, of which neither the queue of commands nor the form of memory is a part. -/
theorem commandsChangeOnlyWhatTheyMay : Obligations.CommandsChangeOnlyWhatTheyMay := fun i s t e =>
  ⟨exec_only i s t e, exec_only i s t e .pending (pending_not_mem_mayChange i), exec_wf e⟩

/-- Settles O59: the command in front runs on the rest of the queue, which holds no part of the invariant; the idle cycle
touches neither memory nor the numbers. -/
theorem stepsKeepMemoryAndNumbers : Obligations.StepsKeepMemoryAndNumbers := by
  intro s t hwf hnum e
  unfold step at e
  split at e
  · obtain rfl := Host.Outcome.next.inj e
    exact ⟨tick_only s .form (by decide) hwf, tick_only s .seqs (by decide) hnum⟩
  · exact ⟨exec_wf e hwf, exec_numbered e hnum⟩

/-! ## The step and the idle cycle -/

/-- Settles O1. -/
theorem stepRunsFrontCommand : Obligations.StepRunsFrontCommand := by
  intro c rest s h
  unfold step
  rw [h]

/-- A cycle of the Keeper leaves the time alone and counts one swap cycle down. -/
theorem keeperCycle_esc_sec (s : State) : (keeperCycle s).esc = s.esc ∧
    (keeperCycle s).sec = { s.sec with swapCycles := s.sec.swapCycles - 1 } := by
  unfold keeperCycle
  dsimp only
  generalize hb : ({ s with queues := _, sec := _, fr := _, obs := _ } : State) = b
  have ht : Only setSrcParts b ((List.range 8).foldl timerTick b) := Only.foldl (fun u n => timerTick_only u n) (.refl _ b)
  have hc := chEval_only ((List.range 8).foldl timerTick b)
  have hs := traceSettle_only (chEval ((List.range 8).foldl timerTick b))
  have hesc := (hs .esc (by decide)).trans ((hc .esc (by decide)).trans (ht .esc (by decide)))
  have hsec := (hs .sec (by decide)).trans ((hc .sec (by decide)).trans (ht .sec (by decide)))
  subst hb
  exact ⟨hesc, hsec⟩

/-- One cycle while the block has power and is out of reset (R19). -/
theorem tick_time (s : State) (h : s.portAlive = true) : (tick s).esc.time = s.esc.time + 1#64 ∧
    (tick s).esc.beatCount = s.esc.beatCount ∧
    (tick s).sec = { s.sec with swapCycles := if s.obs.halted then s.sec.swapCycles else s.sec.swapCycles - 1 } := by
  unfold tick
  rw [if_pos h]
  dsimp only
  by_cases hh : s.obs.halted = true
  · simp only [hh, if_true, and_self]
  · simp only [hh, Bool.false_eq_true, if_false]
    split
    · obtain ⟨hesc, hsec⟩ := keeperCycle_esc_sec { s with esc := { s.esc with time := s.esc.time + 1#64, phase := !s.esc.phase } }
      rw [hesc, hsec]
      exact ⟨rfl, rfl, rfl⟩
    · obtain ⟨hesc, hsec⟩ := keeperCycle_esc_sec
        (coreCycles { s with esc := { s.esc with time := s.esc.time + 1#64, phase := !s.esc.phase } })
      have hc := coreCycles_only { s with esc := { s.esc with time := s.esc.time + 1#64, phase := !s.esc.phase } }
      rw [hesc, hsec, hc .esc (by decide), hc .sec (by decide)]
      exact ⟨rfl, rfl, rfl⟩

/-- Settles O2. -/
theorem idleStepIsOneCycle : Obligations.IdleStepIsOneCycle := by
  intro s hp
  have hstep : step s = .next (tick s) := by
    unfold step
    rw [hp]
  rw [hstep]
  refine ⟨fun h => ⟨_, rfl, ?_⟩, fun h => ?_⟩
  · obtain ⟨htime, hbeat, hsec⟩ := tick_time s h
    have ho := tick_only s
    exact ⟨htime, hbeat, ho .mem (by decide), ho .objs (by decide), ho .insts (by decide), ho .fuse (by decide),
      ho .boot (by decide), hsec, (ho .pending (by decide)).trans hp⟩
  · unfold tick
    rw [if_neg (by simp [h])]

/-! ## The state after reset -/

theorem reset_inst (n : Nat) (h : n ≠ 0) : (State.reset.inst n).state = .free := by
  have e : State.reset.inst n = Inst.reset := if_neg (Ne.symm h)
  rw [e]
  rfl

/-- Settles O60. -/
theorem resetHasTheInvariant : Obligations.ResetHasTheInvariant := by
  refine ⟨rfl, ⟨fun _ => .nil, fun _ _ h => absurd h List.not_mem_nil⟩, rfl, rfl, rfl, rfl, rfl, rfl, rfl, rfl, rfl, rfl,
    reset_inst, fun _ => ⟨rfl, rfl, rfl, fun r => ?_⟩, fun _ => ⟨rfl, rfl, rfl, rfl, rfl⟩, rfl, fun _ => rfl,
    fun n => ⟨rfl, rfl, rfl, ?_, ?_⟩, fun _ => rfl, rfl, rfl, rfl, rfl⟩
  · exact ite_self _
  · show chDefaultSense n = 1#2 ↔ _
    unfold chDefaultSense
    split <;> simp_all
  · show (chDefaultSense n).toNat ≤ 1
    unfold chDefaultSense
    split <;> decide

end Sys2Proof.Machine
end

section
/-! SUPPORT. What a kill leaves in its job and in the CORE_HALT registers, and what a halt at an instruction does (R51, R171, R173,
R179). -/

namespace Sys2Proof.Machine

/-! ## The job of a kill -/

/-- The record of a job once its kill has begun (R51, R344). -/
def State.killedJob (s : State) (j : Job) (why : KillWhy) (code : BitVec 16) (detail : W64) (co : Bool) : Job :=
  { j with kill := some why, killCode := code, detail := detail, coKilled := co, killing := j.cores, deferred := false,
           arrivals := j.arrivals.filter fun a => (s.flight a.1).round == a.2 }

theorem killOne_of_killable {s : State} {n : Nat} {j : Job} (why : KillWhy) (code : BitVec 16) (detail : W64) (co : Bool)
    (hj : s.job n = some j) (hk : j.killable = true) :
    killOne s n why code detail co = stopCores (s.setJob n (s.killedJob j why code detail co)) j.cores := by
  unfold killOne
  simp only [hj, hk, Bool.not_true, Bool.false_eq_true, if_false]
  rfl

/-- A kill leaves its job being killed, whatever its graph's kill does to others (R51, R52). -/
theorem killJob_job {s : State} {n : Nat} {j : Job} (why : KillWhy) (code : BitVec 16) (detail : W64)
    (hj : s.job n = some j) (hk : j.killable = true) :
    (killJob s n why code detail).job n = some (s.killedJob j why code detail false) := by
  refine (killOne_to_killJob why code detail hj hk).job_of_killed ?_ rfl
  rw [killOne_of_killable why code detail false hj hk, stopCores_job, State.setJob_job]

/-- All cores of a killed job stop (R51). -/
theorem killJob_st {s : State} {n : Nat} {j : Job} (why : KillWhy) (code : BitVec 16) (detail : W64)
    (hj : s.job n = some j) (hnone : j.kill = none) {d : Nat} (hd : d ∈ j.cores) :
    ((killJob s n why code detail).core d).st = .killing := (killJob_stoppedOn why code detail hj hnone hd).1

/-! ## The CORE_HALT registers -/

/-- CORE_HALT, CORE_HALT_ADDR and CORE_HALT_DATA (R179). -/
def Core.haltRegs (k : Core) : Bool × BitVec 16 × BitVec 4 × BitVec 16 × BitVec 48 × W64 × Bool :=
  (k.hValid, k.hCode, k.hSlot, k.hStation, k.hAddr, k.hData, k.hCoKilled)

/-- A halt that is recorded stays recorded (R179). -/
def HaltsKept (s t : State) : Prop := ∀ d, (s.core d).hValid = true → (t.core d).haltRegs = (s.core d).haltRegs

theorem HaltsKept.of_eq {s t : State} (h : ∀ d, (t.core d).haltRegs = (s.core d).haltRegs) : HaltsKept s t := fun d _ => h d

theorem HaltsKept.refl (s : State) : HaltsKept s s := fun _ _ => rfl

theorem HaltsKept.trans {s t u : State} (h : HaltsKept s t) (g : HaltsKept t u) : HaltsKept s u := fun d hd =>
  (g d ((congrArg Prod.fst (h d hd)).trans hd)).trans (h d hd)

theorem HaltsKept.foldl {α : Type} {f : State → α → State} (h : ∀ s x, HaltsKept s (f s x)) (l : List α) (s : State) :
    HaltsKept s (l.foldl f s) := by
  induction l generalizing s with
  | nil => exact .refl s
  | cons x l ih => exact (h s x).trans (ih _)

theorem HaltsKept.of_core {s t : State} (h : ∀ d, t.core d = s.core d) : HaltsKept s t := fun d _ => by rw [h d]

theorem modCore_haltsKept (s : State) (c : Nat) (f : Core → Core) (h : ∀ k, (f k).haltRegs = k.haltRegs) :
    HaltsKept s (s.modCore c f) := by
  refine .of_eq fun d => ?_
  rw [State.modCore_eq]
  by_cases e : d = c
  · rw [e, State.setCore_core, h]
  · rw [State.setCore_core_ne _ _ _ _ e]

theorem stopCores_haltsKept (s : State) (cs : List Nat) : HaltsKept s (stopCores s cs) :=
  .foldl (fun s c => modCore_haltsKept s c Core.stopWork fun _ => rfl) cs s

theorem setJob_haltsKept (s : State) (n : Nat) (j : Job) : HaltsKept s (s.setJob n j) := .of_core fun _ => rfl

theorem drawWord_haltsKept (s : State) : HaltsKept s s.drawWord.2 := .of_core fun _ => rfl

theorem haltRecord_haltsKept (s : State) (c : Nat) (code : BitVec 16) (addr : Nat) (data : W64) (co : Bool) :
    HaltsKept s (haltRecord s c code addr data co) := by
  unfold haltRecord
  intro d hd
  split
  · rfl
  · next h =>
    rw [chSample_core, State.setCore_core_ne]
    rintro rfl
    exact h hd

theorem reportKill_haltsKept (s : State) (j : Job) (code : BitVec 16) (co : Bool) :
    HaltsKept s (reportKill s j code co) := by
  unfold reportKill
  split
  · exact .refl s
  · exact .foldl (fun s c => (drawWord_haltsKept s).trans (haltRecord_haltsKept _ _ _ _ _ _)) _ s

theorem killOne_haltsKept (s : State) (n : Nat) (why : KillWhy) (code : BitVec 16) (detail : W64) (co : Bool) :
    HaltsKept s (killOne s n why code detail co) := by
  unfold killOne
  split
  · exact .refl s
  · split
    · exact .refl s
    · exact (setJob_haltsKept s n _).trans (stopCores_haltsKept _ _)

theorem coKill_haltsKept (s : State) (n : Nat) (code : BitVec 16) : HaltsKept s (coKill s n code) := by
  unfold coKill
  split
  · exact .refl s
  · split
    · exact .refl s
    · exact (reportKill_haltsKept _ _ _ _).trans (killOne_haltsKept _ _ _ _ _ _)

theorem killGraph_haltsKept (s : State) (g : Nat) (code : BitVec 16) : HaltsKept s (killGraph s g code) := by
  unfold killGraph
  refine HaltsKept.trans (.of_core fun d => ?_) (.foldl (fun s n => coKill_haltsKept s n code) _ _)
  rw [State.modRun_core, pmGlobal_core]

theorem killJob_haltsKept (s : State) (n : Nat) (why : KillWhy) (code : BitVec 16) (detail : W64) :
    HaltsKept s (killJob s n why code detail) := by
  unfold killJob
  split
  · exact .refl s
  · split
    · exact .refl s
    · dsimp only
      have h := killOne_haltsKept s n why code detail false
      split
      · exact h
      · split
        · exact h.trans (killGraph_haltsKept _ _ _)
        · exact h

/-! ## What kills leave alone in a core -/

/-- Of a core, kills and halts change its state, what it has fetched and read ahead, its engines' work, its watch and its CORE_HALT
registers alone. -/
def CoreHalted (k l : Core) : Prop :=
  l = { k with
    st := l.st, stall := l.stall, watch := l.watch, fetched := l.fetched, prefetch := l.prefetch,
    me := { k.me with queue := l.me.queue, running := l.me.running }, ve := l.ve, se := l.se, hValid := l.hValid,
    hCode := l.hCode, hSlot := l.hSlot, hStation := l.hStation, hAddr := l.hAddr, hData := l.hData,
    hCoKilled := l.hCoKilled }

/-- Every core is as after kills and halts. -/
def CoresHalted (s t : State) : Prop := ∀ d, CoreHalted (s.core d) (t.core d)

theorem CoreHalted.trans {k l m : Core} (h : CoreHalted k l) (g : CoreHalted l m) : CoreHalted k m := by
  unfold CoreHalted at *
  rw [h] at g
  exact g

theorem CoresHalted.refl (s : State) : CoresHalted s s := fun _ => rfl

theorem CoresHalted.trans {s t u : State} (h : CoresHalted s t) (g : CoresHalted t u) : CoresHalted s u := fun d =>
  (h d).trans (g d)

theorem CoresHalted.of_core {s t : State} (h : ∀ d, t.core d = s.core d) : CoresHalted s t := fun d => by rw [h d]; rfl

theorem CoresHalted.foldl {α : Type} {f : State → α → State} (h : ∀ s x, CoresHalted s (f s x)) (l : List α) (s : State) :
    CoresHalted s (l.foldl f s) := by
  induction l generalizing s with
  | nil => exact .refl s
  | cons x l ih => exact (h s x).trans (ih _)

theorem modCore_coresHalted (s : State) (c : Nat) (f : Core → Core) (h : CoreHalted (s.core c) (f (s.core c))) :
    CoresHalted s (s.modCore c f) := by
  intro d
  rw [State.modCore_eq]
  by_cases e : d = c
  · rw [e, State.setCore_core]
    exact h
  · rw [State.setCore_core_ne _ _ _ _ e]
    rfl

theorem stopCores_coresHalted (s : State) (cs : List Nat) : CoresHalted s (stopCores s cs) :=
  .foldl (fun s c => modCore_coresHalted s c Core.stopWork rfl) cs s

theorem setJob_coresHalted (s : State) (n : Nat) (j : Job) : CoresHalted s (s.setJob n j) := .of_core fun _ => rfl

theorem drawWord_coresHalted (s : State) : CoresHalted s s.drawWord.2 := .of_core fun _ => rfl

theorem haltRecord_coresHalted (s : State) (c : Nat) (code : BitVec 16) (addr : Nat) (data : W64) (co : Bool) :
    CoresHalted s (haltRecord s c code addr data co) := by
  unfold haltRecord
  split
  · exact .refl s
  · refine CoresHalted.trans (t := s.setCore c _) ?_ (.of_core fun d => chSample_core _ _ _)
    exact modCore_coresHalted s c (fun _ => _) rfl

theorem reportKill_coresHalted (s : State) (j : Job) (code : BitVec 16) (co : Bool) :
    CoresHalted s (reportKill s j code co) := by
  unfold reportKill
  split
  · exact .refl s
  · exact .foldl (fun s c => (drawWord_coresHalted s).trans (haltRecord_coresHalted _ _ _ _ _ _)) _ s

theorem killOne_coresHalted (s : State) (n : Nat) (why : KillWhy) (code : BitVec 16) (detail : W64) (co : Bool) :
    CoresHalted s (killOne s n why code detail co) := by
  unfold killOne
  split
  · exact .refl s
  · split
    · exact .refl s
    · exact (setJob_coresHalted s n _).trans (stopCores_coresHalted _ _)

theorem coKill_coresHalted (s : State) (n : Nat) (code : BitVec 16) : CoresHalted s (coKill s n code) := by
  unfold coKill
  split
  · exact .refl s
  · split
    · exact .refl s
    · exact (reportKill_coresHalted _ _ _ _).trans (killOne_coresHalted _ _ _ _ _ _)

theorem killGraph_coresHalted (s : State) (g : Nat) (code : BitVec 16) : CoresHalted s (killGraph s g code) := by
  unfold killGraph
  refine CoresHalted.trans (.of_core fun d => ?_) (.foldl (fun s n => coKill_coresHalted s n code) _ _)
  rw [State.modRun_core, pmGlobal_core]

theorem killJob_coresHalted (s : State) (n : Nat) (why : KillWhy) (code : BitVec 16) (detail : W64) :
    CoresHalted s (killJob s n why code detail) := by
  unfold killJob
  split
  · exact .refl s
  · split
    · exact .refl s
    · dsimp only
      have h := killOne_coresHalted s n why code detail false
      split
      · exact h
      · split
        · exact h.trans (killGraph_coresHalted _ _ _)
        · exact h

theorem pmJob_core (s : State) (job : Option Nat) (slot amount d : Nat) : (pmJob s job slot amount).core d = s.core d := by
  unfold State.core
  rw [pmJob_only s job slot amount .cores (by decide)]

theorem haltCore_coresHalted (s : State) (c : Nat) (code : BitVec 16) (unit : Option Nat) (addr : Nat) (data : W64) :
    CoresHalted s (haltCore s c code unit addr data) := by
  have hnoted : CoresHalted s (haltNoted s c code unit addr data) :=
    ((CoresHalted.of_core fun d => pmJob_core s (s.core c).job 10 1 d).trans (haltRecord_coresHalted _ c code addr data false)).trans
      (.of_core fun d => errRecord_core _ _ _ _ _ _ _ _)
  refine hnoted.trans ?_
  unfold haltCore haltNoted
  dsimp only
  split
  · exact .refl _
  · split
    · refine CoresHalted.trans (modCore_coresHalted _ c (fun k => { k with st := .held, stall := 0#3 }) rfl) ?_
      split
      · split
        · exact .refl _
        · exact setJob_coresHalted _ _ _
      · exact .refl _
    · exact killJob_coresHalted _ _ _ _ _

theorem haltAt_coresHalted (s : State) (c : Nat) (code : BitVec 16) (off : Nat) (data : W64) :
    CoresHalted s (haltAt s c code off data) := haltCore_coresHalted _ _ _ _ _ _

theorem resolveDeferred_coresHalted (s : State) (n : Nat) : CoresHalted s (resolveDeferred s n) := by
  unfold resolveDeferred
  split
  · exact .refl s
  · split
    · exact killJob_coresHalted _ _ _ _ _
    · exact .refl s

/-- A signal sets flags, travels as an update, or halts its core. -/
theorem sendSignal_core (s : State) (c pc : Nat) (stream : Bool) (sig : Sig) (d : Nat) :
    CoreHalted { s.core d with flags := ((sendSignal s c pc stream sig).core d).flags }
      ((sendSignal s c pc stream sig).core d) := by
  have hfire (job : Option Nat) : CoreHalted { s.core d with flags := ((fireSignal s c job pc stream sig).core d).flags }
      ((fireSignal s c job pc stream sig).core d) := by
    cases sig with
    | none => rfl
    | cadd id a => rfl
    | fset m | fclr m =>
      simp only [fireSignal, State.modCore_eq]
      by_cases e : d = c
      · rw [e, State.setCore_core]
        rfl
      · rw [State.setCore_core_ne _ _ _ _ e]
        rfl
  unfold sendSignal
  split
  · rfl
  · split
    · rfl
    · split
      · rfl
      · split
        · split
          · exact hfire _
          · rw [((haltAt_stops _ _ _ _ _).2 d).flags]
            exact haltAt_coresHalted _ _ _ _ _ d
        · exact hfire _

/-! ## A halt -/

/-- What a halt of core c, which runs job n, does, wherever its instruction stands: CORE_HALT takes it unless one is held, and
with halt hold the core is HELD, without it the kill of the job begins (R171, R173, R179). -/
structure HaltDone (s t : State) (c n : Nat) (j : Job) (code : BitVec 16) (addr : Nat) (data : W64) : Prop where
  valid : (t.core c).hValid = true
  taken : (s.core c).hValid = false → (t.core c).haltRegs =
    (true, code, BitVec.ofNat 4 (s.core c).slot, j.stationCode, BitVec.ofNat 48 addr, data, false)
  kept : (s.core c).hValid = true → (t.core c).haltRegs = (s.core c).haltRegs
  held : bitAt s.obs.hold.toNat c = true → (t.core c).st = .held ∧ ∃ counts,
    t.job n = some { j with counts := counts, killCode := code, detail := data }
  killed : bitAt s.obs.hold.toNat c = false → j.cores ≠ [] → ∃ k, t.job n = some k ∧ k.kill = some (haltWhy code) ∧
    k.killCode = code ∧ k.detail = data ∧ k.killing = j.cores ∧ k.cores = j.cores ∧ k.kind = j.kind ∧
    ∀ d ∈ j.cores, (t.core d).st = .killing

section
variable {s : State} {c n : Nat} {j : Job} (code : BitVec 16) (unit : Option Nat) (addr : Nat) (data : W64)

theorem coreStation_of_job (hn : (s.core c).job = some n) (hj : s.job n = some j) : s.coreStation c = j.stationCode := by
  unfold State.coreStation
  simp only [hn, hj]

theorem haltNoted_core_eq : (haltNoted s c code unit addr data).core c =
    ((haltRecord (pmJob s (s.core c).job 10 1) c code addr data false).core c) := by
  unfold haltNoted
  rw [errRecord_core]

theorem haltRecord_fresh (hv : (s.core c).hValid = false) : ((haltRecord s c code addr data false).core c).haltRegs =
    (true, code, BitVec.ofNat 4 (s.core c).slot, s.coreStation c, BitVec.ofNat 48 addr, data, false) := by
  unfold haltRecord
  rw [if_neg (by simp [hv]), chSample_core, State.setCore_core]
  rfl

theorem haltNoted_fresh (hn : (s.core c).job = some n) (hj : s.job n = some j) (hv : (s.core c).hValid = false) :
    ((haltNoted s c code unit addr data).core c).haltRegs =
      (true, code, BitVec.ofNat 4 (s.core c).slot, j.stationCode, BitVec.ofNat 48 addr, data, false) := by
  obtain ⟨counts, hjob⟩ := pmJob_job hj 10 1
  rw [haltNoted_core_eq, hn, haltRecord_fresh code addr data (by rwa [pmJob_core]), pmJob_core,
    coreStation_of_job ((congrArg Core.job (pmJob_core s _ 10 1 c)).trans hn) hjob]
  rfl

theorem haltNoted_haltsKept : HaltsKept s (haltNoted s c code unit addr data) := by
  have hpm : HaltsKept s (pmJob s (s.core c).job 10 1) := .of_core fun d => pmJob_core _ _ _ _ _
  refine (hpm.trans (haltRecord_haltsKept _ c code addr data false)).trans ?_
  exact .of_core fun d => errRecord_core _ _ _ _ _ _ _ _

theorem haltNoted_valid : ((haltNoted s c code unit addr data).core c).hValid = true := by
  rw [haltNoted_core_eq]
  unfold haltRecord
  split
  · assumption
  · rw [chSample_core, State.setCore_core]

theorem haltCore_eq_hold (hn : (s.core c).job = some n) (hj : s.job n = some j) (hk : j.kill = none)
    (hh : bitAt s.obs.hold.toNat c = true) : ∃ counts, haltCore s c code unit addr data =
      ((haltNoted s c code unit addr data).modCore c fun k => { k with st := .held, stall := 0#3 }).setJob n
        { j with counts := counts, killCode := code, detail := data } := by
  obtain ⟨counts, hjob⟩ := haltNoted_job code unit addr data hn hj
  have hcore := haltNoted_core_job code unit addr data hn
  rw [← haltNoted_hold (c := c) code unit addr data] at hh
  refine ⟨counts, ?_⟩
  unfold haltNoted at hjob hcore hh ⊢
  unfold haltCore
  simp only [hcore, hh, if_true, State.modCore_eq, State.setCore_job, hjob, hk, Option.isSome_none, Bool.false_eq_true,
    if_false]

theorem haltCore_done (hn : (s.core c).job = some n) (hj : s.job n = some j) (hk : j.kill = none) :
    HaltDone s (haltCore s c code unit addr data) c n j code addr data := by
  have hkept := haltNoted_haltsKept (s := s) (c := c) code unit addr data
  have hvalid := haltNoted_valid (s := s) (c := c) code unit addr data
  obtain ⟨t, ht⟩ : ∃ t, t = haltCore s c code unit addr data := ⟨_, rfl⟩
  have hregs : (t.core c).haltRegs = ((haltNoted s c code unit addr data).core c).haltRegs := by
    cases hh : bitAt s.obs.hold.toNat c with
    | true =>
      obtain ⟨counts, e⟩ := haltCore_eq_hold code unit addr data hn hj hk hh
      rw [ht, e, State.setJob_core, State.modCore_eq, State.setCore_core]
      rfl
    | false =>
      rw [ht, haltCore_of_not_hold code unit addr data hn hh]
      exact killJob_haltsKept _ _ _ _ _ c hvalid
  rw [← ht]
  refine ⟨(congrArg Prod.fst hregs).trans hvalid, fun hv => ?_, fun hv => hregs.trans (hkept c hv), fun hh => ?_,
    fun hh hcores => ?_⟩
  · rw [hregs, haltNoted_fresh code unit addr data hn hj hv]
  · obtain ⟨counts, e⟩ := haltCore_eq_hold code unit addr data hn hj hk hh
    rw [ht, e, State.setJob_core, State.modCore_eq, State.setCore_core]
    exact ⟨rfl, counts, State.setJob_job _ _ _⟩
  · obtain ⟨counts, hjob⟩ := haltNoted_job code unit addr data hn hj
    rw [ht, haltCore_of_not_hold code unit addr data hn hh]
    refine ⟨_, killJob_job (haltWhy code) code data hjob ((Job.killable_iff _).2 ⟨hk, hcores⟩), rfl, rfl, rfl, rfl, rfl, rfl,
      fun d hd => killJob_st (haltWhy code) code data hjob hk hd⟩

/-- A halt at the instruction at `pc` (R171). -/
theorem haltAt_halts (pc : Nat) (hn : (s.core c).job = some n) (hj : s.job n = some j)
    (hk : j.kill = none) : Halts s (haltAt s c code pc data) c n j code pc data := by
  have haddr : s.instrAddr c pc = (s.gen j.gen).base + pc := by
    unfold State.instrAddr
    simp only [hn, hj]
  have hd := haltCore_done code none (s.instrAddr c pc) data hn hj hk
  have hs := (haltCore_stops s c code none (s.instrAddr c pc) data).2 c
  unfold haltAt
  refine ⟨hs.pc, fun r => by unfold Core.reg; rw [hs.regs], hd.valid, fun hv => ?_, fun hv => ?_, ?_⟩
  · have h := hd.taken hv
    rw [haddr] at h ⊢
    simp only [Core.haltRegs, Prod.mk.injEq] at h
    exact h.2
  · have h := hd.kept hv
    simp only [Core.haltRegs, Prod.mk.injEq] at h
    obtain ⟨-, hcode, -, -, -, hdata, -⟩ := h
    exact ⟨hcode, hdata⟩
  · split
    · next hh =>
      obtain ⟨hst, counts, hjob⟩ := hd.held hh
      exact ⟨hst, _, hjob, hk, rfl, rfl⟩
    · next hh =>
      intro hcores
      obtain ⟨k, hjob, hkill, hcode, hdetail, hkilling, -, -, hst⟩ := hd.killed (by simpa using hh) hcores
      exact ⟨k, hjob, hkill, hcode, hdetail, hkilling, hst⟩
end

end Sys2Proof.Machine
end

section
/-! SUPPORT. The state in which an instruction that may issue has its effect (R144, R147, R151): its fetch, the end of a stall,
its WAIT and the move of the PC have happened, and of the core nothing else has changed. -/

namespace Sys2Proof.Machine

/-- What the fetch, the end of a stall, a WAIT and the move past issue may change in a core. -/
def CorePrepared (k l : Core) : Prop :=
  l = { k with
    fetched := l.fetched, lastFetch := l.lastFetch, icache := l.icache, prefetch := l.prefetch, stall := l.stall,
    watch := l.watch, flags := l.flags, pc := l.pc, notReady := l.notReady, flowInsns := l.flowInsns }

theorem CorePrepared.refl (k : Core) : CorePrepared k k := rfl

theorem CorePrepared.trans {k l m : Core} (h : CorePrepared k l) (g : CorePrepared l m) : CorePrepared k m := by
  unfold CorePrepared at *
  rw [h] at g
  exact g

/-- Cores are prepared, counters, jobs and the trace may have changed, and nothing else has. -/
def StatePrepared (s u : State) : Prop :=
  (∃ ks js xs f, u = { s with cores := ks, jobs := js, counters := xs, obs := { s.obs with coreFifo := f } }) ∧
    ∀ d, CorePrepared (s.core d) (u.core d)

theorem StatePrepared.refl (s : State) : StatePrepared s s := ⟨⟨_, _, _, _, rfl⟩, fun _ => rfl⟩

theorem StatePrepared.trans {s t u : State} (h : StatePrepared s t) (g : StatePrepared t u) : StatePrepared s u := by
  obtain ⟨⟨_, _, _, _, rfl⟩, hc⟩ := h
  obtain ⟨⟨_, _, _, _, rfl⟩, gc⟩ := g
  exact ⟨⟨_, _, _, _, rfl⟩, fun d => (hc d).trans (gc d)⟩

theorem modCore_prepared (s : State) (c : Nat) (f : Core → Core) (h : CorePrepared (s.core c) (f (s.core c))) :
    StatePrepared s (s.modCore c f) := by
  refine ⟨⟨_, s.jobs, s.counters, s.obs.coreFifo, rfl⟩, fun d => ?_⟩
  rw [State.modCore_eq]
  by_cases e : d = c
  · rw [e, State.setCore_core]
    exact h
  · rw [State.setCore_core_ne _ _ _ _ e]
    exact .refl _

theorem fetch_prepared (k : Core) (entry len : Nat) : CorePrepared k (k.fetch entry len) := by
  unfold Core.fetch
  split
  · obtain ⟨p, hp⟩ := readAhead_eq k entry len (k.pc / 128)
    rw [hp]
    rfl
  · rfl

theorem fetchAt_prepared (s : State) (c : Nat) (j : Job) : StatePrepared s (s.fetchAt c j) :=
  modCore_prepared s c _ (fetch_prepared _ _ _)

theorem traceCore_prepared (s : State) (c type : Nat) (payload : List Byte) :
    StatePrepared s (traceCore s c type payload) := by
  refine ⟨?_, fun d => by rw [traceCore_core]; rfl⟩
  unfold traceCore
  split
  · exact ⟨_, _, _, _, rfl⟩
  · exact ⟨_, _, _, s.obs.coreFifo, rfl⟩

theorem stallFrame_prepared (s : State) (c : Nat) (j : Job) : StatePrepared s (stallFrame s c j) := by
  unfold stallFrame
  dsimp only
  split
  · exact .refl s
  · exact traceCore_prepared _ _ _ _

theorem endStall_prepared (s : State) (c : Nat) (j : Job) : StatePrepared s (endStall s c j) := by
  unfold endStall
  split
  · exact .refl s
  · exact (stallFrame_prepared s c j).trans (modCore_prepared _ c _ rfl)

theorem pushWatch_prepared (k : Core) (id : BitVec 17) (v : W32) : CorePrepared k (k.pushWatch id v) := by
  unfold Core.pushWatch
  split <;> [split; skip] <;> rfl

theorem watchStale_prepared (s : State) (id : BitVec 17) : StatePrepared s (watchStale s id) :=
  ⟨⟨_, s.jobs, s.counters, s.obs.coreFifo, rfl⟩, fun d => by rw [watchStale_core]; exact pushWatch_prepared _ _ _⟩

theorem waitIssue_prepared (s : State) (c n : Nat) (j : Job) (v : Nat) (hf : takeFits (s.core c) j v = true) :
    StatePrepared s (waitIssue s c n j v) := by
  unfold waitIssue takeFits at *
  dsimp only
  split
  · exact modCore_prepared s c (fun k => { k with flags := k.flags &&& ~~~ BitVec.ofNat 64 (2 ^ bitField v 12 7) }) rfl
  · next hv =>
    rw [hv] at hf
    unfold takeCounter
    have hctr (x : Counter) : StatePrepared s (s.setCounter ((s.core c).waitId v).toNat x) :=
      ⟨⟨s.cores, s.jobs, _, s.obs.coreFifo, rfl⟩, fun _ => rfl⟩
    cases hk : j.kind with
    | station st =>
      simp only [Bool.false_and, Bool.false_eq_true, if_false]
      exact (hctr _).trans (watchStale_prepared _ _)
    | free q a b =>
      simp only [hk, bne_self_eq_false, Bool.false_or, Bool.not_eq_true'] at hf
      simp only [hf, Bool.and_false, Bool.false_eq_true, if_false, if_true]
      have hjob (t : State) (m : Job) : StatePrepared t (t.setJob n m) :=
        ⟨⟨t.cores, _, t.counters, t.obs.coreFifo, rfl⟩, fun _ => rfl⟩
      exact ((hctr _).trans (hjob _ _)).trans (watchStale_prepared _ _)
  · exact .refl s

theorem pastIssue_prepared (k : Core) (pend : Tbl Nat) : CorePrepared k (k.pastIssue pend) := rfl

/-! ## The state of an instruction's effect -/

/-- The state after the fetch, the end of a stall and the WAIT of an instruction that may issue. -/
def waited (s : State) (c n : Nat) (j : Job) (i : Ins) : State := waitIssue (endStall (s.fetchAt c j) c j) c n j i.wait

/-- The state in which the effect of an instruction that may issue begins. -/
def issued (s : State) (c n : Nat) (j : Job) (i : Ins) : State :=
  (waited s c n j i).modCore c fun k => k.pastIssue ((waited s c n j i).pendAfter c i)

section
variable {s : State} {c n : Nat} {j : Job} {i : Ins}

theorem takeFits_congr {k l : Core} (h : l.regs = k.regs) (j : Job) (v : Nat) : takeFits l j v = takeFits k j v := by
  unfold takeFits Core.waitId Core.reg
  rw [h]

theorem waitJob_congr {k l : Core} (h : l.regs = k.regs) (j : Job) (v : Nat) : waitJob l j v = waitJob k j v := by
  unfold waitJob Core.waitId Core.waitThr Core.reg
  rw [h]

theorem sigOf_congr {k l : Core} (h : l.regs = k.regs) (v : Nat) : l.sigOf v = k.sigOf v := by
  unfold Core.sigOf Core.reg
  rw [h]

theorem fetched_regs (s : State) (c : Nat) (j : Job) (d : Nat) : ((s.fetchAt c j).core d).regs = (s.core d).regs :=
  ((fetchAt_signals s c j).2 d).regs

theorem endStall_fetched_regs (s : State) (c : Nat) (j : Job) (d : Nat) :
    ((endStall (s.fetchAt c j) c j).core d).regs = (s.core d).regs :=
  (((fetchAt_signals s c j).trans (endStall_signals _ c j)).2 d).regs

theorem waited_prepared (hm : MayIssue s c n j i) : StatePrepared s (waited s c n j i) := by
  refine ((fetchAt_prepared s c j).trans (endStall_prepared _ c j)).trans (waitIssue_prepared _ c n j i.wait ?_)
  rw [takeFits_congr (endStall_fetched_regs s c j c)]
  exact mayIssue_fits hm

theorem waited_issuing (hm : MayIssue s c n j i) : (waited s c n j i).issuing c = some (n, waitJob (s.core c) j i.wait) ∧
    ((waited s c n j i).core c).flags = flagsWaited i.wait (s.core c).flags := by
  obtain ⟨hi, -⟩ := id hm
  have hend := endStall_issuing (s.fetchAt c j) c j c n j ((fetchAt_issuing s c j c).trans hi)
  obtain ⟨h1, h2⟩ := waitIssue_issuing (endStall (s.fetchAt c j) c j) c n j i.wait hend
    (by rw [takeFits_congr (endStall_fetched_regs s c j c)]; exact mayIssue_fits hm)
  rw [waitJob_congr (endStall_fetched_regs s c j c)] at h1
  obtain ⟨-, -, -, hflags, -⟩ := fetchAt_core s c j c
  rw [endStall_flags, hflags] at h2
  exact ⟨h1, h2⟩

/-- An instruction that may issue has its effect on `issued`. -/
theorem mayIssue_issueNow (hm : MayIssue s c n j i) (act : State → Nat → Job → Ins → Sig → State) :
    issueNow (s.fetchAt c j) c n j i act = resolveDeferred
      (act (issued s c n j i) n (waitJob (s.core c) j i.wait) i ((s.core c).sigOf i.signal)) n := by
  have h := (waited_issuing hm).1
  unfold issued
  unfold waited at h ⊢
  unfold issueNow
  simp only [h, sigOf_congr (fetched_regs s c j c)]
  rfl

theorem issued_prepared (hm : MayIssue s c n j i) : StatePrepared s (issued s c n j i) :=
  (waited_prepared hm).trans (modCore_prepared _ c _ (pastIssue_prepared _ _))

theorem issued_flags (hm : MayIssue s c n j i) :
    ((issued s c n j i).core c).flags = flagsWaited i.wait (s.core c).flags := by
  unfold issued
  rw [State.modCore_eq, State.setCore_core]
  exact (waited_issuing hm).2

theorem waited_pc (s : State) (c n : Nat) (j : Job) (i : Ins) (d : Nat) : ((waited s c n j i).core d).pc = (s.core d).pc :=
  ((((fetchAt_signals s c j).trans (endStall_signals _ c j)).trans (waitIssue_signals _ c n j i.wait)).2 d).pc

theorem issued_pc : ((issued s c n j i).core c).pc = (s.core c).pc + 16 := by
  unfold issued
  rw [State.modCore_eq, State.setCore_core]
  exact congrArg (· + 16) (waited_pc s c n j i c)

theorem issued_pc_ne {d : Nat} (hd : d ≠ c) : ((issued s c n j i).core d).pc = (s.core d).pc := by
  unfold issued
  rw [State.modCore_eq, State.setCore_core_ne _ _ _ _ hd]
  exact waited_pc s c n j i d

theorem issued_issuing (hm : MayIssue s c n j i) :
    (issued s c n j i).issuing c = some (n, waitJob (s.core c) j i.wait) := by
  have h := (waited_issuing hm).1
  unfold issued
  rw [issuing_iff] at h ⊢
  rw [State.modCore_eq, State.setCore_core]
  exact h

/-- What an instruction's effect is told of its core and job. -/
theorem issued_job (hm : MayIssue s c n j i) : ((issued s c n j i).core c).job = some n ∧
    (issued s c n j i).job n = some (waitJob (s.core c) j i.wait) ∧ (waitJob (s.core c) j i.wait).kill = none := by
  obtain ⟨-, -, -, -, h⟩ := (issuing_iff _ _ _ _).1 (issued_issuing hm)
  exact h

theorem issued_reg (hm : MayIssue s c n j i) (d r : Nat) : ((issued s c n j i).core d).reg r = (s.core d).reg r := by
  rw [(issued_prepared hm).2 d]
  rfl

theorem issued_run (hm : MayIssue s c n j i) : (issued s c n j i).run = s.run := by
  obtain ⟨⟨_, _, _, _, e⟩, -⟩ := issued_prepared hm
  rw [e]

theorem issued_gen (hm : MayIssue s c n j i) (e : Nat) : (issued s c n j i).gen e = s.gen e := by
  obtain ⟨⟨_, _, _, _, h⟩, -⟩ := issued_prepared hm
  rw [h]
  rfl

/-- A take in a contribution table changes nothing that an operand or a special value shows of the job. -/
theorem waitJob_eq (k : Core) (j : Job) (v : Nat) : ∃ x, waitJob k j v = { j with contrib := x } := by
  unfold waitJob
  split
  · split
    · exact ⟨j.contrib, rfl⟩
    · exact ⟨_, rfl⟩
  · exact ⟨j.contrib, rfl⟩
end

/-! ## The frame of a row -/

/-- A row that only issues and leaves banks, accumulators, lanes and markers as they are (R144). -/
theorem issueKeeps_of_only {s t : State} {c : Nat} (h : Only aluParts s t)
    (hk : ∀ d, (t.core d).badLines = (s.core d).badLines ∧ (t.core d).me.acc = (s.core d).me.acc ∧
      (t.core d).me.bank0 = (s.core d).me.bank0 ∧ (t.core d).me.bank1 = (s.core d).me.bank1 ∧
      (t.core d).sendLanes = (s.core d).sendLanes ∧ (t.core d).recvLanes = (s.core d).recvLanes)
    (ho : ∀ d, d ≠ c → (t.core d).regs = (s.core d).regs ∧ (t.core d).pc = (s.core d).pc) : IssueKeeps s t c := by
  refine ⟨h .mem (by decide), h .poison (by decide), h .writes (by decide), h .objs (by decide), h .queues (by decide),
    h .ctxs (by decide), h .insts (by decide), h .gens (by decide), h .flights (by decide), h .shares (by decide),
    h .links (by decide), h .ports (by decide), h .kp (by decide), h .rg (by decide), h .esc (by decide), h .au (by decide),
    h .sec (by decide), h .tw (by decide), h .sy (by decide), h .boot (by decide), h .fuse (by decide), h .tap (by decide),
    h .pending (by decide), hk, fun d hd => ?_⟩
  obtain ⟨hregs, hpc⟩ := ho d hd
  exact ⟨fun r => by unfold Core.reg; rw [hregs], hpc⟩

/-- What a row's effect may change in a core beyond its own registers, when only its signal follows. -/
structure EffectKeeps (p w : State) (c : Nat) : Prop where
  core : ∀ d, (w.core d).badLines = (p.core d).badLines ∧ (w.core d).me.acc = (p.core d).me.acc ∧
    (w.core d).me.bank0 = (p.core d).me.bank0 ∧ (w.core d).me.bank1 = (p.core d).me.bank1 ∧
    (w.core d).sendLanes = (p.core d).sendLanes ∧ (w.core d).recvLanes = (p.core d).recvLanes ∧
    (w.core d).scratch = (p.core d).scratch
  other : ∀ d, d ≠ c → (w.core d).regs = (p.core d).regs ∧ (w.core d).pc = (p.core d).pc

theorem EffectKeeps.of_modCore (p : State) (c : Nat) (f : Core → Core)
    (h : ∀ k, (f k).badLines = k.badLines ∧ (f k).me.acc = k.me.acc ∧ (f k).me.bank0 = k.me.bank0 ∧
      (f k).me.bank1 = k.me.bank1 ∧ (f k).sendLanes = k.sendLanes ∧ (f k).recvLanes = k.recvLanes ∧
      (f k).scratch = k.scratch) : EffectKeeps p (p.modCore c f) c := by
  refine ⟨fun d => ?_, fun d hd => ?_⟩
  · rw [State.modCore_eq]
    by_cases e : d = c
    · rw [e, State.setCore_core]
      exact h _
    · rw [State.setCore_core_ne _ _ _ _ e]
      exact ⟨rfl, rfl, rfl, rfl, rfl, rfl, rfl⟩
  · rw [State.modCore_eq, State.setCore_core_ne _ _ _ _ hd]
    exact ⟨rfl, rfl⟩

theorem EffectKeeps.trans {p w t : State} {c : Nat} (h : EffectKeeps p w c) (g : EffectKeeps w t c) : EffectKeeps p t c := by
  refine ⟨fun d => ?_, fun d hd => ?_⟩
  · obtain ⟨a1, a2, a3, a4, a5, a6, a7⟩ := h.core d
    obtain ⟨b1, b2, b3, b4, b5, b6, b7⟩ := g.core d
    exact ⟨b1.trans a1, b2.trans a2, b3.trans a3, b4.trans a4, b5.trans a5, b6.trans a6, b7.trans a7⟩
  · obtain ⟨a1, a2⟩ := h.other d hd
    obtain ⟨b1, b2⟩ := g.other d hd
    exact ⟨b1.trans a1, b2.trans a2⟩

theorem Signals.effectKeeps {s t : State} (h : Signals s t) (c : Nat) : EffectKeeps s t c := by
  refine ⟨fun d => ?_, fun d _ => ?_⟩
  · have k := h.2 d
    exact ⟨k.badLines, k.acc, k.bank0, k.bank1, k.sendLanes, k.recvLanes, k.scratch⟩
  · have k := h.2 d
    exact ⟨k.regs, k.pc⟩

theorem issued_effectKeeps {s : State} {c n : Nat} {j : Job} {i : Ins} (hm : MayIssue s c n j i) :
    EffectKeeps s (issued s c n j i) c := by
  refine ⟨fun d => ?_, fun d hd => ⟨?_, issued_pc_ne hd⟩⟩
  all_goals rw [(issued_prepared hm).2 d]
  exact ⟨rfl, rfl, rfl, rfl, rfl, rfl, rfl⟩

/-- The frame of a row, whose effect `w` on the issued state keeps what `EffectKeeps` names, and that then sends a signal. -/
theorem EffectKeeps.issueKeeps {s t : State} {c : Nat} (h : EffectKeeps s t c) (ho : Only aluParts s t) :
    IssueKeeps s t c ∧ ScratchKept s t := by
  refine ⟨issueKeeps_of_only ho (fun d => ?_) h.other, fun d => ?_⟩
  · obtain ⟨a1, a2, a3, a4, a5, a6, -⟩ := h.core d
    exact ⟨a1, a2, a3, a4, a5, a6⟩
  · obtain ⟨-, -, -, -, -, -, a7⟩ := h.core d
    exact a7

end Sys2Proof.Machine
end

section
/-! SUPPORT. The control instructions: ALU, LIH, MFS, NOP, END, FCLRM, the branches, LD and ST, and the halts at issue (O3, O19
to O22). -/

namespace Sys2Proof.Machine

/-! ## An instruction that issues -/

/-- What follows an instruction's own effect `w`: its signal, and a deferred preemption that resolves (R148, R346). -/
theorem issueNow_signals {s w : State} {c n pc : Nat} {j m : Job} {i : Ins}
    {act : State → Nat → Job → Ins → Sig → State} (hm : MayIssue s c n j i)
    (hact : act (issued s c n j i) n (waitJob (s.core c) j i.wait) i ((s.core c).sigOf i.signal) =
      doneAt pc ((s.core c).sigOf i.signal) w c)
    (hjob : (w.core c).job = some n) (hn : w.job n = some m) (hk : m.kill = none) :
    Signals w (issueNow (s.fetchAt c j) c n j i act) ∧
      ((issueNow (s.fetchAt c j) c n j i act).core c).flags = flagsSignalled i.signal (w.core c).flags := by
  rw [mayIssue_issueNow hm, hact]
  exact tail_spec w c n m (s.core c) i.signal pc hjob hn hk

/-- A signal that has no row's effect before it leaves `ended` as it is. -/
theorem doneAt_ended (w : State) (c n pc : Nat) (sig : Sig) (d : Nat) :
    ((resolveDeferred (doneAt pc sig w c) n).core d).ended = (w.core d).ended := by
  have h1 := sendSignal_core w c pc false sig d
  have h2 := resolveDeferred_coresHalted (doneAt pc sig w c) n d
  rw [h2]
  unfold doneAt
  dsimp only
  rw [h1]

section
variable {s : State} {c n op : Nat} {j : Job} {i : Ins}

theorem simpleRow_issue (f : State → Job → Ins → Core → Core) (hm : MayIssue s c n j i) (hl : controlLegal i = true)
    (ho : i.op = op) (hd : definedOp op = true) : simpleRow s c op f = issueNow (s.fetchAt c j) c n j i fun s _ j i sig =>
      doneAt ((s.core c).pc - 16) sig (s.modCore c fun k => f s j i k) c := by
  obtain ⟨hi, hfront, hbreak, hboard, hwait, htrace, -⟩ := hm
  unfold simpleRow
  rw [coreRow_issue s c op _ _ _ n j i hi hfront ho hd hl rfl rfl rfl rfl rfl rfl hboard hbreak hwait htrace]

/-- An instruction that changes its core by `f`, which leaves lanes, engines, scratch, job and PC alone, and then signals. -/
theorem simpleRow_effect (f : State → Job → Ins → Core → Core)
    (hf : ∀ u m k, (f u m i k).job = k.job ∧ (f u m i k).badLines = k.badLines ∧ (f u m i k).me = k.me ∧
      (f u m i k).sendLanes = k.sendLanes ∧ (f u m i k).recvLanes = k.recvLanes ∧ (f u m i k).scratch = k.scratch ∧
      (f u m i k).pc = k.pc)
    (hm : MayIssue s c n j i) (hl : controlLegal i = true) (ho : i.op = op) (hd : definedOp op = true)
    (hfr : Only aluParts s (simpleRow s c op f)) :
    let p := issued s c n j i
    let k := f p (waitJob (s.core c) j i.wait) i (p.core c)
    let t := simpleRow s c op f
    (∀ r, (t.core c).reg r = k.reg r) ∧ (t.core c).pc = (s.core c).pc + 16 ∧
      (t.core c).flags = flagsSignalled i.signal k.flags ∧ (t.core c).ended = k.ended ∧ IssueKeeps s t c ∧ ScratchKept s t := by
  intro p k t
  obtain ⟨hjob, hn, hk⟩ := issued_job hm
  have hw : (p.modCore c fun k => f p (waitJob (s.core c) j i.wait) i k).core c = k := by
    rw [State.modCore_eq, State.setCore_core]
  obtain ⟨fjob, fbad, fme, fsend, frecv, fscr, fpc⟩ := hf p (waitJob (s.core c) j i.wait) (p.core c)
  obtain ⟨hsig, hflags⟩ := issueNow_signals (pc := (p.core c).pc - 16) (act := fun s _ j i sig =>
    doneAt ((s.core c).pc - 16) sig (s.modCore c fun k => f s j i k) c) hm rfl
    (by rw [hw]; exact fjob.trans hjob) hn hk
  have hended := doneAt_ended (p.modCore c fun k => f p (waitJob (s.core c) j i.wait) i k) c n ((p.core c).pc - 16)
    ((s.core c).sigOf i.signal) c
  rw [hw] at hflags hended
  have ht : t = issueNow (s.fetchAt c j) c n j i fun s _ j i sig =>
      doneAt ((s.core c).pc - 16) sig (s.modCore c fun k => f s j i k) c := simpleRow_issue f hm hl ho hd
  have hsame := hsig.2 c
  rw [hw] at hsame
  rw [← ht] at hsame hflags hsig
  refine ⟨fun r => hsame.reg r, hsame.pc.trans (fpc.trans issued_pc), hflags, ?_, ?_⟩
  · rw [ht, mayIssue_issueNow hm]
    exact hended
  · refine ((issued_effectKeeps hm).trans (.trans (.of_modCore p c _ fun k => ?_) (hsig.effectKeeps c))).issueKeeps hfr
    obtain ⟨-, b1, b2, b3, b4, b5, -⟩ := hf p (waitJob (s.core c) j i.wait) k
    exact ⟨b1, by rw [b2], by rw [b2], by rw [b2], b3, b4, b5⟩
end

/-! ## ALU (O3) -/

theorem ofInt_toInt_ediv (a : W64) (n : Nat) : BitVec.ofInt 64 (a.toInt / 2 ^ n) = a.sshiftRight n := by
  rw [BitVec.sshiftRight, Int.shiftRight_eq_div_pow]
  norm_cast

theorem min_eq_of_slt (a b : W64) : (if a.toInt ≤ b.toInt then a else b) = if a.slt b then a else b := by
  simp only [BitVec.slt_iff_toInt_lt]
  rcases lt_trichotomy a.toInt b.toInt with h | h | h
  · rw [if_pos h.le, if_pos h]
  · rw [if_pos h.le, if_neg (by omega), BitVec.eq_of_toInt_eq h]
  · rw [if_neg (by omega), if_neg (by omega)]

theorem max_eq_of_slt (a b : W64) : (if a.toInt ≤ b.toInt then b else a) = if a.slt b then b else a := by
  simp only [BitVec.slt_iff_toInt_lt]
  rcases lt_trichotomy a.toInt b.toInt with h | h | h
  · rw [if_pos h.le, if_pos h]
  · rw [if_pos h.le, if_neg (by omega), BitVec.eq_of_toInt_eq h]
  · rw [if_neg (by omega), if_neg (by omega)]

theorem truth_slt (a b : W64) : truth (a.slt b) = if a.toInt < b.toInt then 1#64 else 0#64 := by
  unfold truth
  simp only [BitVec.slt_iff_toInt_lt]

theorem truth_ult (a b : W64) : truth (a.ult b) = if a.toNat < b.toNat then 1#64 else 0#64 := by
  unfold truth
  simp only [BitVec.ult_iff_toNat_lt]

/-- Settles O3: each row is an `alu` row, and its function is the one that R143 names. -/
theorem aluInstructionsWriteTheirResult : Obligations.AluInstructionsWriteTheirResult := by
  intro s core n j i hm hl a b gives
  have row {op : Nat} {x : Instr} {v : W64} (f : W64 → W64 → W64) (he : exec x s = .next (alu s core.toNat op f))
      (hd : definedOp op = true) (hv : v = f a b) (ho : i.op = op) : gives x v :=
    ⟨_, he, hv ▸ alu_issued s core.toNat n op j i f hm hl ho hd⟩
  refine ⟨row _ rfl rfl rfl, row _ rfl rfl rfl, row _ rfl rfl ?mul, row _ rfl rfl rfl, row _ rfl rfl rfl, row _ rfl rfl rfl,
    row _ rfl rfl rfl, row _ rfl rfl rfl, row _ rfl rfl (ofInt_toInt_ediv _ _), row _ rfl rfl (min_eq_of_slt a b),
    row _ rfl rfl (max_eq_of_slt a b), row _ rfl rfl (truth_slt a b).symm, row _ rfl rfl (truth_ult a b).symm⟩
  case mul => rw [BitVec.ofNat_mul, BitVec.ofNat_toNat, BitVec.ofNat_toNat]; simp

/-! ## LIH, MFS, NOP, END, FCLRM (O19) -/

theorem setReg_flags_ended (k : Core) (d : Nat) (v : W64) : (k.setReg d v).flags = k.flags ∧ (k.setReg d v).pc = k.pc ∧
    (k.setReg d v).scratch = k.scratch := by
  unfold Core.setReg
  split <;> exact ⟨rfl, rfl, rfl⟩

theorem recvLane_prepared {s p : State} (h : StatePrepared s p) (c : Nat) (j : Job) (x : Tbl W32) (l : Nat) :
    p.recvLane c { j with contrib := x } l = s.recvLane c j l := by
  unfold State.recvLane
  rw [h.2 c]
  rfl

theorem sendLane_prepared {s p : State} (h : StatePrepared s p) (c : Nat) (j : Job) (x : Tbl W32) (l : Nat) :
    p.sendLane c { j with contrib := x } l = s.sendLane c j l := by
  unfold State.sendLane
  rw [h.2 c]
  rfl

theorem recvCount_prepared {s p : State} (h : StatePrepared s p) (j : Job) (x : Tbl W32) :
    p.recvCount { j with contrib := x } = s.recvCount j := by
  obtain ⟨⟨_, _, _, _, rfl⟩, -⟩ := h
  rfl

theorem sendCount_prepared {s p : State} (h : StatePrepared s p) (j : Job) (x : Tbl W32) :
    p.sendCount { j with contrib := x } = s.sendCount j := by
  obtain ⟨⟨_, _, _, _, rfl⟩, -⟩ := h
  rfl

/-- A special value other than FLAGS is what it was before the issue (R137). -/
theorem special_prepared {s p : State} (h : StatePrepared s p) (c : Nat) (j : Job) (y : Tbl W32) (x : Nat) (hx : x < 13) :
    p.special c { j with contrib := y } x = s.special c j x := by
  have hg : p.gen = s.gen := by obtain ⟨⟨_, _, _, _, rfl⟩, -⟩ := h; rfl
  have hheld : p.heldMask c { j with contrib := y } = s.heldMask c j := by
    unfold State.heldMask
    simp only [recvCount_prepared h, recvLane_prepared h]
  have hcredit : p.creditMask c { j with contrib := y } = s.creditMask c j := by
    unfold State.creditMask
    simp only [sendCount_prepared h, sendLane_prepared h]
  have hk := h.2 c
  unfold State.special
  interval_cases x
  · rw [hk]; rfl
  · rfl
  · rfl
  · rfl
  · rw [hk]; rfl
  · rfl
  · rfl
  · simp only [sendCount_prepared h]
  · simp only [recvCount_prepared h]
  · exact hheld
  · exact hcredit
  · rw [hk]; rfl
  · rw [hg]; rfl

theorem lih_value (imm : W32) (a : W64) : (a.setWidth 32).setWidth 64 ||| (imm.setWidth 64 <<< 32) =
    BitVec.ofNat 64 (imm.toNat * 2 ^ 32 + a.toNat % 2 ^ 32) := by
  have hi := imm.isLt
  have hlow : a.toNat % 2 ^ 32 < 2 ^ 32 := Nat.mod_lt _ (by decide)
  have hhigh : imm.toNat <<< 32 = imm.toNat * 2 ^ 32 := Nat.shiftLeft_eq _ _
  have hor := Nat.shiftLeft_add_eq_or_of_lt hlow imm.toNat
  apply BitVec.eq_of_toNat_eq
  simp only [BitVec.toNat_or, BitVec.toNat_shiftLeft, BitVec.toNat_setWidth, BitVec.toNat_ofNat]
  generalize a.toNat % 2 ^ 32 = low at *
  rw [Nat.mod_eq_of_lt (hlow.trans (by decide)), Nat.mod_eq_of_lt (hi.trans (by decide : 2 ^ 32 < 2 ^ 64)),
    Nat.mod_eq_of_lt (a := imm.toNat <<< 32) (by omega), Nat.mod_eq_of_lt (a := imm.toNat * 2 ^ 32 + low) (by omega), Nat.lor_comm,
    ← hor, hhigh]

theorem controlLegal_mfs_x {i : Ins} (hl : controlLegal i = true) (ho : i.op = 0x20) : i.x ≤ 13 := by
  unfold controlLegal at hl
  rw [ho] at hl
  simp only [Bool.and_eq_true, decide_eq_true_eq] at hl
  exact hl.2.2

/-- Settles O19: LIH and MFS are rows that write D, the others change at most the flags and `ended` of their core. -/
theorem lihMfsNopEndFclrm : Obligations.LihMfsNopEndFclrm := by
  intro s core n j i hm hl c k waited quiet
  have hended : k.ended = false := ((issuing_iff _ _ _ _).1 hm.1).1
  have pended : ((issued s c n j i).core c).ended = false := by rw [(issued_prepared hm).2 c]; exact hended
  have preg (r : Nat) : ((issued s c n j i).core c).reg r = k.reg r := issued_reg hm c r
  have pflags : ((issued s c n j i).core c).flags = waited := issued_flags hm
  have write (op : Nat) (x : Instr) (v : W64) (g : State → Job → Ins → Core → W64)
      (he : exec x s = .next (simpleRow s c op fun s j i k => k.setReg i.d (g s j i k)))
      (hd : definedOp op = true) (hf : mayChange x = aluParts)
      (hv : g (issued s c n j i) (waitJob k j i.wait) i ((issued s c n j i).core c) = v) (ho : i.op = op) :
      Answers (exec x s) (Issued s c i v) := by
    obtain ⟨h1, h2, h3, -, h5, h6⟩ := simpleRow_effect (fun s j i k => k.setReg i.d (g s j i k)) (fun u m k => by
      obtain ⟨-, -, hjob, -, hbad, hme, hsend, hrecv⟩ := setReg_kept k i.d (g u m i k)
      obtain ⟨-, hpc, hscr⟩ := setReg_flags_ended k i.d (g u m i k)
      exact ⟨hjob, hbad, hme, hsend, hrecv, hscr, hpc⟩) hm hl ho hd (hf ▸ exec_only x s _ he)
    refine ⟨_, he, fun r => ?_, h2, ?_, h5, h6⟩
    · rw [h1, reg_setReg, hv, preg]
    · rw [h3, (setReg_flags_ended _ _ _).1, pflags]
  have still (op : Nat) (x : Instr) (f : Core → Core) (he : exec x s = .next (simpleRow s c op fun _ _ _ k => f k))
      (hd : definedOp op = true) (hf : mayChange x = aluParts) (hreg : ∀ k r, (f k).reg r = k.reg r)
      (hkeep : ∀ k, (f k).job = k.job ∧ (f k).badLines = k.badLines ∧ (f k).me = k.me ∧ (f k).sendLanes = k.sendLanes ∧
        (f k).recvLanes = k.recvLanes ∧ (f k).scratch = k.scratch ∧ (f k).pc = k.pc) (ho : i.op = op) :
      Answers (exec x s) fun t => quiet t (f ((issued s c n j i).core c)).ended ∧
        (t.core c).flags = flagsSignalled i.signal (f ((issued s c n j i).core c)).flags := by
    obtain ⟨h1, h2, h3, h4, h5, h6⟩ := simpleRow_effect (fun _ _ _ k => f k) (fun _ _ k => hkeep k) hm hl ho hd
      (hf ▸ exec_only x s _ he)
    exact ⟨_, he, ⟨fun r => (h1 r).trans ((hreg _ r).trans (preg r)), h2, h4, h5, h6⟩, h3⟩
  refine ⟨fun ho => ?lih, fun ho => ?mfs, fun ho => ?nop, fun ho => ?endOp, fun ho => ?fclrm⟩
  case lih =>
    exact write 0x11 _ _ (fun _ _ i k => ((k.reg i.a).setWidth 32).setWidth 64 ||| (i.imm.setWidth 64 <<< 32)) rfl rfl rfl
      (by rw [preg]; exact lih_value _ _) ho
  case mfs =>
    refine write 0x20 _ _ (fun s j i _ => s.special c j i.x) rfl rfl rfl ?_ ho
    have hx := controlLegal_mfs_x hl ho
    split
    · next h13 =>
      rw [h13]
      exact pflags
    · next h13 =>
      obtain ⟨y, hy⟩ := waitJob_eq k j i.wait
      rw [hy]
      exact special_prepared (issued_prepared hm) c j y i.x (by omega)
  case nop =>
    have h := still 0x00 (.nop core) (fun k => k) rfl rfl rfl (fun _ _ => rfl)
      (fun _ => ⟨rfl, rfl, rfl, rfl, rfl, rfl, rfl⟩) ho
    rwa [pended, pflags] at h
  case endOp =>
    have h := still 0x02 (.endOp core) (fun k => { k with ended := true }) rfl rfl rfl (fun _ _ => rfl)
      (fun _ => ⟨rfl, rfl, rfl, rfl, rfl, rfl, rfl⟩) ho
    rwa [pflags] at h
  case fclrm =>
    obtain ⟨h1, h2, h3, h4, h5, h6⟩ := simpleRow_effect (fun _ _ i k => { k with flags := k.flags &&& ~~~ k.reg i.a })
      (fun _ _ _ => ⟨rfl, rfl, rfl, rfl, rfl, rfl, rfl⟩) hm hl ho rfl (exec_only (.fclrm core) s _ rfl)
    refine ⟨_, rfl, ⟨fun r => (h1 r).trans (preg r), h2, h4.trans pended, h5, h6⟩, h3.trans ?_⟩
    dsimp only
    rw [pflags, preg]

end Sys2Proof.Machine
end

section
/-! SUPPORT. Halts at issue, the branches, LD and ST (O20 to O22). -/

namespace Sys2Proof.Machine

/-! ## Halts (O20) -/

section
variable {s : State} {c n : Nat} {j : Job}

/-- A halt of a state in which an instruction was prepared is a halt of the state before. -/
theorem Halts.of_prepared {u t : State} {code : BitVec 16} {pc : Nat} {data : W64} (hp : StatePrepared s u)
    (hpc : (u.core c).pc = (s.core c).pc) (h : Halts u t c n j code pc data) : Halts s t c n j code pc data := by
  obtain ⟨⟨_, _, _, _, e⟩, hc⟩ := hp
  have hk := hc c
  have hgen : u.gen j.gen = s.gen j.gen := by rw [e]; rfl
  have hhold : u.obs.hold = s.obs.hold := by rw [e]
  have hreg (r : Nat) : (u.core c).reg r = (s.core c).reg r := by rw [hk]; rfl
  have hvalid : (u.core c).hValid = (s.core c).hValid := by rw [hk]
  have hslot : (u.core c).slot = (s.core c).slot := by rw [hk]
  have hcode : (u.core c).hCode = (s.core c).hCode := by rw [hk]
  have hdata : (u.core c).hData = (s.core c).hData := by rw [hk]
  obtain ⟨h1, h2, h3, h4, h5, h6⟩ := h
  rw [hvalid, hslot, hgen] at h4
  rw [hvalid, hcode, hdata] at h5
  rw [hhold] at h6
  exact ⟨h1.trans hpc, fun r => (h2 r).trans (hreg r), h3, h4, h5, h6⟩

theorem fetchAt_pc (s : State) (c : Nat) (j : Job) (d : Nat) : ((s.fetchAt c j).core d).pc = (s.core d).pc :=
  (fetchAt_core s c j d).1.pc

/-- A halt of an instruction that has been fetched (R171). -/
theorem haltAt_fetched_halts (code : BitVec 16) (data : W64) (hi : s.issuing c = some (n, j)) :
    Halts s (haltAt (s.fetchAt c j) c code (s.core c).pc data) c n j code (s.core c).pc data ∧
      Only haltCoreParts s (haltAt (s.fetchAt c j) c code (s.core c).pc data) := by
  obtain ⟨-, -, -, -, hjob, hn, hk⟩ := (issuing_iff _ _ _ _).1 ((fetchAt_issuing s c j c).trans hi)
  refine ⟨Halts.of_prepared (fetchAt_prepared s c j) (fetchAt_pc s c j c)
    (haltAt_halts code data (s.core c).pc hjob hn hk), ?_⟩
  exact (haltAt_only _ _ _ _ _).step (by decide) ((State.fetchAt_only s c j).step (by decide) (.refl _ s))

theorem haltAt_halts_issuing (code : BitVec 16) (data : W64) (hi : s.issuing c = some (n, j)) :
    Halts s (haltAt s c code (s.core c).pc data) c n j code (s.core c).pc data ∧
      Only haltCoreParts s (haltAt s c code (s.core c).pc data) := by
  obtain ⟨-, -, -, -, hjob, hn, hk⟩ := (issuing_iff _ _ _ _).1 hi
  exact ⟨haltAt_halts code data (s.core c).pc hjob hn hk, haltAt_only _ _ _ _ _⟩

/-! What a row comes to at an instruction that does not issue (R172). -/

variable {op : Nat} {i : Ins} {legal : Job → Ins → Bool} {plan : State → Job → Ins → Plan}
  {act : State → Nat → Job → Ins → Sig → State}

/-- A row at an instruction of its opcode tries to issue it. -/
theorem coreRow_try (hi : s.issuing c = some (n, j)) (hf : s.front c j = .ins i) (ho : i.op = op) (hd : definedOp op = true) :
    coreRow s c op legal plan act = issueTry (s.fetchAt c j) c n j i (legal j i) (plan s j i) act := by
  unfold coreRow
  simp only [hi, hf, ho, hd, Bool.true_and, bne_self_eq_false, Bool.false_eq_true, if_false]

theorem coreRow_illegal (hi : s.issuing c = some (n, j)) (hf : s.front c j = .ins i) (ho : i.op = op)
    (hd : definedOp op = true) (hl : legal j i = false) : coreRow s c op legal plan act =
      haltAt (s.fetchAt c j) c Config.ILLEGAL_OPCODE (s.core c).pc (BitVec.ofNat 64 (s.core c).pc) := by
  rw [coreRow_try hi hf ho hd]
  unfold issueTry
  simp only [hl, Bool.not_false, if_true, fetchAt_pc]

theorem coreRow_scoreboard (hi : s.issuing c = some (n, j)) (hf : s.front c j = .ins i) (ho : i.op = op)
    (hd : definedOp op = true) (hl : legal j i = true) (hs : s.scoreboard c i = true) :
    coreRow s c op legal plan act = stall (s.fetchAt c j) c j 4#3 := by
  rw [coreRow_try hi hf ho hd]
  unfold issueTry
  simp only [hl, fetchAt_scoreboard, hs, Bool.not_true, Bool.false_eq_true, if_false, if_true]

theorem coreRow_planIllegal (hi : s.issuing c = some (n, j)) (hf : s.front c j = .ins i) (ho : i.op = op)
    (hd : definedOp op = true) (hl : legal j i = true) (hs : s.scoreboard c i = false) (hp : (plan s j i).legal = false) :
    coreRow s c op legal plan act =
      haltAt (s.fetchAt c j) c Config.ILLEGAL_OPCODE (s.core c).pc (BitVec.ofNat 64 (s.core c).pc) := by
  rw [coreRow_try hi hf ho hd]
  unfold issueTry
  simp only [hl, fetchAt_scoreboard, hs, hp, Bool.not_true, Bool.not_false, Bool.false_eq_true, if_false, if_true, fetchAt_pc]

theorem coreRow_range (hi : s.issuing c = some (n, j)) (hf : s.front c j = .ins i) (ho : i.op = op)
    (hd : definedOp op = true) (hl : legal j i = true) (hs : s.scoreboard c i = false) (hp : (plan s j i).legal = true)
    {d : W64} (hr : (plan s j i).range = some d) : coreRow s c op legal plan act =
      haltReaders (s.fetchAt c j) ((c, (s.core c).pc) :: (plan s j i).others) Config.SCRATCH_RANGE d := by
  rw [coreRow_try hi hf ho hd]
  unfold issueTry
  simp only [hl, fetchAt_scoreboard, hs, hp, hr, Bool.not_true, Bool.false_eq_true, if_false, fetchAt_pc]

theorem coreRow_breach (hi : s.issuing c = some (n, j)) (hf : s.front c j = .ins i) (ho : i.op = op)
    (hd : definedOp op = true) (hl : legal j i = true) (hs : s.scoreboard c i = false) (hp : (plan s j i).legal = true)
    (hr : (plan s j i).range = none) {id : BitVec 17} (hw : s.waitNow c j i.wait = .breach id) :
    coreRow s c op legal plan act = haltAt (s.fetchAt c j) c Config.COUNTER_OWNER (s.core c).pc (id.setWidth 64) := by
  rw [coreRow_try hi hf ho hd]
  unfold issueTry
  simp only [hl, fetchAt_scoreboard, hs, hp, hr, fetchAt_waitNow, hw, Bool.not_true, Bool.false_eq_true, if_false, fetchAt_pc]

theorem coreRow_break (hi : s.issuing c = some (n, j)) (hf : s.front c j = .ins i) (ho : i.op = op)
    (hd : definedOp op = true) (hl : legal j i = true) (hs : s.scoreboard c i = false) (hp : (plan s j i).legal = true)
    (hr : (plan s j i).range = none) (hw : ∀ id, s.waitNow c j i.wait ≠ .breach id) (hf' : (plan s j i).format = none)
    (hb : s.breakAt j.gen (s.core c).pc = true) : coreRow s c op legal plan act =
      haltAt (s.fetchAt c j) c (plan s j i).atBreak.1 (s.core c).pc (plan s j i).atBreak.2 := by
  have hb' : (s.fetchAt c j).breakAt j.gen (s.core c).pc = true := hb
  rw [coreRow_try hi hf ho hd]
  unfold issueTry
  simp only [hl, fetchAt_scoreboard, hs, hp, hr, hf', hb', fetchAt_waitNow, Bool.not_true, Bool.false_eq_true, if_false, fetchAt_pc,
    if_true]

/-- The fetch finds a halt before any instruction (R144, R168). -/
theorem coreRow_frontHalt (hi : s.issuing c = some (n, j)) {code : BitVec 16} (hf : s.front c j = .halt code) :
    coreRow s c op legal plan act = haltAt s c code (s.core c).pc (BitVec.ofNat 64 (s.core c).pc) := by
  unfold coreRow
  simp only [hi, hf]

theorem front_written (hn : (s.core c).fetched = none) (hw : (s.gen j.gen).isWritten (s.core c).pc = true) :
    s.front c j = .halt Config.PROGRAM_REPLACED := by
  unfold State.front
  simp only [hn, hw, if_true]

theorem front_past (hn : (s.core c).fetched = none) (hw : (s.gen j.gen).isWritten (s.core c).pc = false)
    (hl : (s.gen j.gen).len < (s.core c).pc + 16) : s.front c j = .halt Config.ILLEGAL_OPCODE := by
  unfold State.front
  simp only [hn, hw, hl, Bool.false_eq_true, if_false, if_true]
end

/-- A core that stalls keeps its registers, flags and PC, and no other core changes (R151). -/
theorem stall_core (s : State) (c : Nat) (j : Job) (kind : BitVec 3) :
    ((stall s c j kind).core c).stall = kind ∧ ((stall s c j kind).core c).flags = (s.core c).flags ∧
      ∀ d, d ≠ c → (stall s c j kind).core d = s.core d := by
  have hne {d : Nat} (hd : d ≠ c) : (endStall s c j).core d = s.core d := by
    unfold endStall
    split
    · rfl
    · rw [State.modCore_eq, State.setCore_core_ne _ _ _ _ hd, stallFrame_core]
  unfold stall
  split
  · next h => exact ⟨h, rfl, fun _ _ => rfl⟩
  · simp only [State.modCore_eq, State.setCore_core]
    exact ⟨trivial, endStall_flags s c j c, fun d hd => (State.setCore_core_ne _ _ _ _ hd).trans (hne hd)⟩

/-- Settles O20. -/
theorem haltsAtIssue : Obligations.HaltsAtIssue := by
  intro s core n j hi c pc halts
  have nop (t : State) (e : simpleRow s c 0x00 (fun _ _ _ k => k) = t) (code : BitVec 16) (data : W64)
      (ht : Halts s t c n j code pc data ∧ Only haltCoreParts s t) : halts (.nop core) code data :=
    ⟨t, congrArg Host.Outcome.next e, ht⟩
  refine ⟨fun i hm hl ho => ?halt, fun i hf hl ho hs => ⟨fun hb hw => ?brk, fun id hw => ?owner⟩,
    fun i hf hl ho hs => ?board, fun i hf hl ho => ?illegal, fun hn hw hlen => ?past, fun hn hw => ?written⟩
  case halt =>
    obtain ⟨-, hf, hb, hs, hw, ht, -⟩ := hm
    have e := coreRow_late s c 0x01 (fun _ => controlLegal) (fun _ _ _ => { Plan.plain with brk := true }) (fun s _ _ _ _ => s)
      n j i (Config.BREAKPOINT, 0#64) hi hf ho rfl hl rfl rfl rfl rfl rfl rfl hs hb hw ht
    exact ⟨_, congrArg Host.Outcome.next e, haltAt_fetched_halts _ _ hi⟩
  case brk => exact nop _ (coreRow_break hi hf ho rfl hl hs rfl rfl hw rfl hb) _ _ (haltAt_fetched_halts _ _ hi)
  case owner => exact nop _ (coreRow_breach hi hf ho rfl hl hs rfl rfl hw) _ _ (haltAt_fetched_halts _ _ hi)
  case illegal => exact nop _ (coreRow_illegal hi hf ho rfl hl) _ _ (haltAt_fetched_halts _ _ hi)
  case past => exact nop _ (coreRow_frontHalt hi (front_past hn hw hlen)) _ _ (haltAt_halts_issuing _ _ hi)
  case written => exact nop _ (coreRow_frontHalt hi (front_written hn hw)) _ _ (haltAt_halts_issuing _ _ hi)
  case board =>
    refine ⟨_, congrArg Host.Outcome.next (coreRow_scoreboard hi hf ho rfl hl hs), ?_⟩
    obtain ⟨hstall, hflags, hother⟩ := stall_core (s.fetchAt c j) c j 4#3
    have hsig := (fetchAt_signals s c j).trans (stall_signals _ c j 4#3)
    obtain ⟨-, -, -, hfetchflags, -⟩ := fetchAt_core s c j c
    refine ⟨hstall, (hsig.2 c).pc, fun r => (hsig.2 c).reg r, hflags.trans hfetchflags, fun d hd => ?_, ?_⟩
    · rw [hother d hd]
      unfold State.fetchAt
      rw [State.modCore_eq, State.setCore_core_ne _ _ _ _ hd]
    · exact (stall_only _ _ _ _).step (by decide) ((State.fetchAt_only s c j).step (by decide) (.refl _ s))

/-! ## Branches (O21) -/

theorem goodTarget_iff (len : Nat) (t : Int) : goodTarget len t = true ↔ 0 ≤ t ∧ t < len ∧ t % 16 = 0 := by
  unfold goodTarget
  simp only [Bool.and_eq_true, decide_eq_true_eq, beq_iff_eq, and_assoc]

theorem traceFlow_core (s : State) (c : Nat) (j : Job) (pc target d : Nat) :
    ∃ a b, (traceFlow s c j pc target).core d = { s.core d with flowInsns := a, flowTime := b } := by
  have h (u : State) (hu : ∀ d, u.core d = s.core d) : ∃ a b,
      (u.modCore c fun k => { k with flowInsns := 0, flowTime := u.esc.time }).core d =
        { s.core d with flowInsns := a, flowTime := b } := by
    rw [State.modCore_eq]
    by_cases e : d = c
    · rw [e, State.setCore_core, hu]
      exact ⟨_, _, rfl⟩
    · rw [State.setCore_core_ne _ _ _ _ e, hu]
      exact ⟨(s.core d).flowInsns, (s.core d).flowTime, rfl⟩
  unfold traceFlow
  dsimp only
  split
  · exact h s fun _ => rfl
  · exact h _ fun d => traceCore_core _ _ _ _ _

theorem traceFlow_effectKeeps (s : State) (c : Nat) (j : Job) (pc target : Nat) :
    EffectKeeps s (traceFlow s c j pc target) c := by
  refine ⟨fun d => ?_, fun d _ => ?_⟩
  all_goals obtain ⟨a, b, e⟩ := traceFlow_core s c j pc target d; rw [e]
  · exact ⟨rfl, rfl, rfl, rfl, rfl, rfl, rfl⟩
  · exact ⟨rfl, rfl⟩

section
variable {s : State} {c n op : Nat} {j : Job} {i : Ins} {target : Core → Ins → Int} {taken : Core → Ins → Bool} {link : Bool}

/-- The core change of a taken branch. -/
def Core.branch (k : Core) (link : Bool) (d : Nat) (v : W64) (target : Nat) : Core :=
  { (if link then k.setReg d v else k) with pc := target }

theorem branch_kept (k : Core) (link : Bool) (d : Nat) (v : W64) (target : Nat) :
    (k.branch link d v target).badLines = k.badLines ∧ (k.branch link d v target).me = k.me ∧
      (k.branch link d v target).sendLanes = k.sendLanes ∧ (k.branch link d v target).recvLanes = k.recvLanes ∧
      (k.branch link d v target).scratch = k.scratch ∧ (k.branch link d v target).flags = k.flags ∧
      (k.branch link d v target).job = k.job := by
  unfold Core.branch
  cases link with
  | false => exact ⟨rfl, rfl, rfl, rfl, rfl, rfl, rfl⟩
  | true =>
    obtain ⟨-, -, hjob, -, hbad, hme, hsend, hrecv⟩ := setReg_kept k d v
    obtain ⟨hflags, -, hscr⟩ := setReg_flags_ended k d v
    exact ⟨hbad, hme, hsend, hrecv, hscr, hflags, hjob⟩

theorem branch_reg (k : Core) (link : Bool) (d : Nat) (v : W64) (target r : Nat) :
    (k.branch link d v target).reg r = if link then (if r = d ∧ r ≠ 0 then v else k.reg r) else k.reg r := by
  unfold Core.branch
  cases link with
  | false => rfl
  | true => exact reg_setReg k d v r

/-- The effect of a branch: a taken one goes to its target (R144). -/
def branchAct (c : Nat) (target : Core → Ins → Int) (taken : Core → Ins → Bool) (link : Bool) :
    State → Nat → Job → Ins → Sig → State := fun s _ j i sig =>
  let pc := (s.core c).pc - 16
  let t := { s.core c with pc := pc }
  if taken t i then
    doneAt pc sig ((traceFlow s c j pc (target t i).toNat).modCore c fun k =>
      k.branch link i.d (BitVec.ofNat 64 (pc + 16)) (target t i).toNat) c
  else doneAt pc sig s c

theorem branchRow_issue (hm : MayIssue s c n j i) (hl : controlLegal i = true) (ho : i.op = op) (hd : definedOp op = true)
    (hg : goodTarget (s.gen j.gen).len (target (s.core c) i) = true) :
    branchRow s c op target taken link = issueNow (s.fetchAt c j) c n j i (branchAct c target taken link) := by
  obtain ⟨hi, hfront, hbreak, hboard, hwait, htrace, -⟩ := hm
  unfold branchRow
  rw [coreRow_issue s c op _ _ _ n j i hi hfront ho hd hl hg rfl rfl rfl rfl rfl hboard hbreak hwait htrace]
  rfl

/-- The registers and PC at which a branch looks are those of before its issue. -/
theorem branch_looks (hm : MayIssue s c n j i) (hcongr : ∀ k l : Core, l.regs = k.regs → l.pc = k.pc →
      target l i = target k i ∧ taken l i = taken k i) :
    target { (issued s c n j i).core c with pc := (s.core c).pc } i = target (s.core c) i ∧
      taken { (issued s c n j i).core c with pc := (s.core c).pc } i = taken (s.core c) i := by
  refine hcongr _ _ ?_ rfl
  rw [(issued_prepared hm).2 c]

theorem branchRow_taken (hm : MayIssue s c n j i) (hl : controlLegal i = true) (ho : i.op = op) (hd : definedOp op = true)
    (hg : goodTarget (s.gen j.gen).len (target (s.core c) i) = true) (hcongr : ∀ k l : Core, l.regs = k.regs → l.pc = k.pc →
      target l i = target k i ∧ taken l i = taken k i) (ht : taken (s.core c) i = true)
    (hfr : Only aluParts s (branchRow s c op target taken link)) :
    let t := branchRow s c op target taken link
    (t.core c).pc = (target (s.core c) i).toNat ∧
      (t.core c).flags = flagsSignalled i.signal (flagsWaited i.wait (s.core c).flags) ∧
      (∀ r, (t.core c).reg r = if link then (if r = i.d ∧ r ≠ 0 then BitVec.ofNat 64 ((s.core c).pc + 16) else (s.core c).reg r)
        else (s.core c).reg r) ∧ IssueKeeps s t c ∧ ScratchKept s t := by
  intro t
  obtain ⟨hjob, hn, hk⟩ := issued_job hm
  obtain ⟨hlook, hlookt⟩ := branch_looks hm hcongr
  obtain ⟨p, hp⟩ : ∃ p, p = issued s c n j i := ⟨_, rfl⟩
  have hpc : (p.core c).pc - 16 = (s.core c).pc := by rw [hp, issued_pc]; rfl
  obtain ⟨a, b, hf⟩ := traceFlow_core p c (waitJob (s.core c) j i.wait) (s.core c).pc (target (s.core c) i).toNat c
  obtain ⟨q, hq⟩ : ∃ q, q = traceFlow p c (waitJob (s.core c) j i.wait) (s.core c).pc (target (s.core c) i).toNat := ⟨_, rfl⟩
  have hqn : q.job n = p.job n := by
    unfold State.job
    rw [hq, traceFlow_only p c _ _ _ .jobs (by decide)]
  obtain ⟨w, hw⟩ : ∃ w, w = q.modCore c fun k => k.branch link i.d (BitVec.ofNat 64 ((s.core c).pc + 16)) (target (s.core c) i).toNat :=
    ⟨_, rfl⟩
  have hwc : w.core c = (q.core c).branch link i.d (BitVec.ofNat 64 ((s.core c).pc + 16)) (target (s.core c) i).toNat := by
    rw [hw, State.modCore_eq, State.setCore_core]
  obtain ⟨-, -, -, -, -, kflags, kjob⟩ := branch_kept (q.core c) link i.d (BitVec.ofNat 64 ((s.core c).pc + 16))
    (target (s.core c) i).toNat
  have hact : branchAct c target taken link (issued s c n j i) n (waitJob (s.core c) j i.wait) i ((s.core c).sigOf i.signal) =
      doneAt (s.core c).pc ((s.core c).sigOf i.signal) w c := by
    unfold branchAct
    rw [← hp] at hlook hlookt ⊢
    simp only [hpc, hlook, hlookt, ht, if_true]
    rw [hw, hq]
  have hqc : q.core c = { p.core c with flowInsns := a, flowTime := b } := by rw [hq, hf]
  obtain ⟨hsig, hflags⟩ := issueNow_signals hm hact (by rw [hwc, kjob, hqc, hp]; exact hjob)
    (by rw [hw]; exact hqn.trans (hp ▸ hn)) hk
  have hte : t = issueNow (s.fetchAt c j) c n j i (branchAct c target taken link) := branchRow_issue hm hl ho hd hg
  rw [← hte] at hsig hflags
  have hsame := hsig.2 c
  rw [hwc] at hsame hflags
  refine ⟨hsame.pc, ?_, fun r => ?_, ?_⟩
  · rw [hflags, kflags, hqc, hp]
    exact congrArg _ (issued_flags hm)
  · rw [hsame.reg, branch_reg]
    have hreg : (q.core c).reg r = (s.core c).reg r := by
      rw [hqc, hp]
      exact issued_reg hm c r
    rw [hreg]
  · have hkeep : EffectKeeps q w c := by
      rw [hw]
      refine .of_modCore q c _ fun k => ?_
      obtain ⟨h1, h2, h3, h4, h5, -⟩ := branch_kept k link i.d (BitVec.ofNat 64 ((s.core c).pc + 16)) (target (s.core c) i).toNat
      exact ⟨h1, by rw [h2], by rw [h2], by rw [h2], h3, h4, h5⟩
    have hflow := traceFlow_effectKeeps p c (waitJob (s.core c) j i.wait) (s.core c).pc (target (s.core c) i).toNat
    rw [← hq] at hflow
    exact (((hp ▸ issued_effectKeeps hm).trans hflow).trans (hkeep.trans (hsig.effectKeeps c))).issueKeeps hfr

theorem branchRow_falls (hm : MayIssue s c n j i) (hl : controlLegal i = true) (ho : i.op = op) (hd : definedOp op = true)
    (hg : goodTarget (s.gen j.gen).len (target (s.core c) i) = true) (hcongr : ∀ k l : Core, l.regs = k.regs → l.pc = k.pc →
      target l i = target k i ∧ taken l i = taken k i) (ht : taken (s.core c) i = false)
    (hfr : Only aluParts s (branchRow s c op target taken link)) :
    let t := branchRow s c op target taken link
    (t.core c).pc = (s.core c).pc + 16 ∧
      (t.core c).flags = flagsSignalled i.signal (flagsWaited i.wait (s.core c).flags) ∧
      (∀ r, (t.core c).reg r = (s.core c).reg r) ∧ IssueKeeps s t c ∧ ScratchKept s t := by
  intro t
  obtain ⟨hjob, hn, hk⟩ := issued_job hm
  obtain ⟨-, hlookt⟩ := branch_looks hm hcongr
  have hpc : ((issued s c n j i).core c).pc - 16 = (s.core c).pc := by rw [issued_pc]; rfl
  have hact : branchAct c target taken link (issued s c n j i) n (waitJob (s.core c) j i.wait) i ((s.core c).sigOf i.signal) =
      doneAt (s.core c).pc ((s.core c).sigOf i.signal) (issued s c n j i) c := by
    unfold branchAct
    simp only [hpc, hlookt, ht, Bool.false_eq_true, if_false]
  obtain ⟨hsig, hflags⟩ := issueNow_signals hm hact hjob hn hk
  have hte : t = issueNow (s.fetchAt c j) c n j i (branchAct c target taken link) := branchRow_issue hm hl ho hd hg
  rw [← hte] at hsig hflags
  have hsame := hsig.2 c
  refine ⟨hsame.pc.trans issued_pc, hflags.trans (congrArg _ (issued_flags hm)),
    fun r => (hsame.reg r).trans (issued_reg hm c r), ?_⟩
  exact ((issued_effectKeeps hm).trans (hsig.effectKeeps c)).issueKeeps hfr

/-- A branch with a bad target halts, taken or not (R144). -/
theorem branchRow_bad (hm : MayIssue s c n j i) (hl : controlLegal i = true) (ho : i.op = op) (hd : definedOp op = true)
    (hg : goodTarget (s.gen j.gen).len (target (s.core c) i) = false) : branchRow s c op target taken link =
      haltAt (s.fetchAt c j) c Config.ILLEGAL_OPCODE (s.core c).pc (BitVec.ofNat 64 (s.core c).pc) := by
  obtain ⟨hi, hfront, -, hboard, -⟩ := hm
  exact coreRow_planIllegal hi hfront ho hd hl hboard hg
end

theorem relTarget_congr (i : Ins) (k l : Core) (_ : l.regs = k.regs) (h : l.pc = k.pc) : relTarget l i = relTarget k i := by
  unfold relTarget
  rw [h]

theorem reg_congr {k l : Core} (h : l.regs = k.regs) (r : Nat) : l.reg r = k.reg r := by
  unfold Core.reg
  rw [h]

theorem relTarget_eq (k : Core) (i : Ins) : relTarget k i = (k.pc : Int) + i.imm.toInt := by
  unfold relTarget Ins.imm64
  rw [BitVec.toInt_signExtend_of_le (by decide)]

/-- Settles O21: each of the eight is a `branchRow`, whose target and condition look at the registers and the PC alone. -/
theorem branchesSetThePc : Obligations.BranchesSetThePc := by
  intro s core n j i hm hl c k a b len rel good lands branch
  have row (op : Nat) (x : Instr) (target : Core → Ins → Int) (taken : Core → Ins → Bool) (link : Bool) (v : Int)
      (cond linked : Prop) (he : exec x s = .next (branchRow s c op target taken link)) (hd : definedOp op = true)
      (hx : mayChange x = aluParts) (hv : target k i = v) (hc : taken k i = true ↔ cond) (hlink : link = true ↔ linked)
      (hcongr : ∀ k l : Core, l.regs = k.regs → l.pc = k.pc → target l i = target k i ∧ taken l i = taken k i)
      (ho : i.op = op) : branch x v cond linked := by
    have hfr : Only aluParts s (branchRow s c op target taken link) := hx ▸ exec_only x s _ he
    have hgood : goodTarget len (target k i) = true ↔ good v := by rw [goodTarget_iff, hv]
    refine ⟨fun hg ht => ?_, fun hg => ?_, fun hg ht => ?_⟩
    · obtain ⟨h1, h2, h3, h4⟩ := branchRow_taken hm hl ho hd (hgood.2 hg) hcongr (hc.2 ht) hfr
      refine ⟨_, he, ⟨h1.trans (congrArg Int.toNat hv), h2, h4⟩, fun hn r => ?_, fun hy r => ?_⟩
      · rw [h3, if_neg (fun h => hn (hlink.1 h))]
      · rw [h3, if_pos (hlink.2 hy)]
    · have e := branchRow_bad (taken := taken) (link := link) hm hl ho hd (Bool.eq_false_iff.2 fun h => hg (hgood.1 h))
      exact ⟨_, he.trans (congrArg _ e), haltAt_fetched_halts _ _ hm.1⟩
    · obtain ⟨h1, h2, h3, h4⟩ := branchRow_falls hm hl ho hd (hgood.2 hg) hcongr
        (Bool.eq_false_iff.2 fun h => ht (hc.1 h)) hfr
      exact ⟨_, he, ⟨h1, h2, h4⟩, h3⟩
  have always {target : Core → Ins → Int} (h : ∀ k l : Core, l.regs = k.regs → l.pc = k.pc → target l i = target k i)
      (k l : Core) (hr : l.regs = k.regs) (hp : l.pc = k.pc) : target l i = target k i ∧ true = true :=
    ⟨h k l hr hp, rfl⟩
  have cond {f : W64 → W64 → Bool} (k l : Core) (hr : l.regs = k.regs) (hp : l.pc = k.pc) :
      relTarget l i = relTarget k i ∧ f (l.reg i.a) (l.reg i.b) = f (k.reg i.a) (k.reg i.b) :=
    ⟨relTarget_congr i k l hr hp, by rw [reg_congr hr, reg_congr hr]⟩
  have hrel : relTarget k i = rel := relTarget_eq k i
  have yes : (true = true ↔ True) := iff_true_intro rfl
  have no : (false = true ↔ False) := by simp
  refine ⟨?b, ?beq, ?bne, ?blt, ?bge, ?bltu, ?bal, ?jr⟩
  case b => exact row 0x18 _ relTarget (fun _ _ => true) false _ _ _ rfl rfl rfl hrel yes no (always (relTarget_congr i))
  case beq =>
    exact row 0x19 _ relTarget (fun k i => k.reg i.a == k.reg i.b) false _ _ _ rfl rfl rfl hrel beq_iff_eq no
      (cond (f := fun a b => a == b))
  case bne =>
    exact row 0x1A _ relTarget (fun k i => k.reg i.a != k.reg i.b) false _ _ _ rfl rfl rfl hrel bne_iff_ne no
      (cond (f := fun a b => a != b))
  case blt =>
    exact row 0x1B _ relTarget (fun k i => (k.reg i.a).slt (k.reg i.b)) false _ _ _ rfl rfl rfl hrel BitVec.slt_iff_toInt_lt no
      (cond (f := fun a b => a.slt b))
  case bge =>
    refine row 0x1C _ relTarget (fun k i => !(k.reg i.a).slt (k.reg i.b)) false _ _ _ rfl rfl rfl hrel ?_ no
      (cond (f := fun a b => !a.slt b))
    rw [Bool.not_eq_true', Bool.eq_false_iff, ne_eq, BitVec.slt_iff_toInt_lt, not_lt]
  case bltu =>
    exact row 0x1D _ relTarget (fun k i => (k.reg i.a).ult (k.reg i.b)) false _ _ _ rfl rfl rfl hrel BitVec.ult_iff_toNat_lt no
      (cond (f := fun a b => a.ult b))
  case bal => exact row 0x1E _ relTarget (fun _ _ => true) true _ _ _ rfl rfl rfl hrel yes yes (always (relTarget_congr i))
  case jr =>
    refine row 0x1F _ (fun k i => ((k.reg i.a).toNat : Int)) (fun _ _ => true) false _ _ _ rfl rfl rfl rfl yes no
      (always (target := fun k i => ((k.reg i.a).toNat : Int)) fun k l hr _ => ?_)
    rw [reg_congr hr]

/-! ## LD and ST (O22) -/

section
variable {s p : State} {c n : Nat} {j : Job} {i : Ins}

theorem scratchOpnd_prepared (h : StatePrepared s p) (c : Nat) (j : Job) (x : Tbl W32) (v : W32) (len : Nat) :
    p.scratchOpnd c { j with contrib := x } v len = s.scratchOpnd c j v len := by
  unfold State.scratchOpnd
  simp only [recvCount_prepared h, recvLane_prepared h]

theorem memOpnd_prepared (h : StatePrepared s p) (c : Nat) (j : Job) (x : Tbl W32) (i : Ins) :
    p.memOpnd c { j with contrib := x } i = s.memOpnd c j i := by
  have hreg : (p.core c).reg i.a = (s.core c).reg i.a := by rw [h.2 c]; rfl
  unfold State.memOpnd
  rw [scratchOpnd_prepared h, hreg]

theorem opndAddr_prepared (h : StatePrepared s p) (c : Nat) (j : Job) (x : Tbl W32) (o : SOp) :
    p.opndAddr c { j with contrib := x } o = s.opndAddr c j o := by
  unfold State.opndAddr
  cases o with
  | work off =>
    obtain ⟨⟨_, _, _, _, rfl⟩, -⟩ := h
    rfl
  | lane l slot off => simp only [recvLane_prepared h]

theorem opndRead_prepared (h : StatePrepared s p) (c : Nat) (j : Job) (x : Tbl W32) (o : SOp) (len : Nat) :
    p.opndRead c { j with contrib := x } o len = s.opndRead c j o len := by
  unfold State.opndRead
  rw [opndAddr_prepared h, h.2 c]
  rfl

theorem opndBad_prepared (h : StatePrepared s p) (c : Nat) (j : Job) (x : Tbl W32) (o : SOp) (len : Nat) :
    p.opndBad c { j with contrib := x } o len = s.opndBad c j o len := by
  unfold State.opndBad
  rw [opndAddr_prepared h, h.2 c]
  rfl

/-- An operand names a lane only where its tile is there. -/
theorem lanes_held_any {o : SOp} (h : ∀ l ∈ o.laneOf, (s.recvLane c j l).held ≠ 0) :
    (o.laneOf.toList.any fun l => (s.recvLane c j l).held == 0) = false := by
  rw [List.any_eq_false]
  intro l hl
  simpa using h l (Option.mem_toList.1 hl)

/-- A row whose plan is the verdict on its operand issues where the operand is good and its tile there. -/
theorem coreRow_opnd_issue {op : Nat} {act : State → Nat → Job → Ins → Sig → State} {o : SOp} (hm : MayIssue s c n j i)
    (hl : controlLegal i = true) (ho : i.op = op) (hd : definedOp op = true) (hok : s.memOpnd c j i = .ok o)
    (hheld : ∀ l ∈ o.laneOf, (s.recvLane c j l).held ≠ 0) :
    coreRow s c op (fun _ => controlLegal) (fun s j i => Plan.plain.withOpnd (s.memOpnd c j i)) act =
      issueNow (s.fetchAt c j) c n j i act := by
  obtain ⟨hi, hfront, hbreak, hboard, hwait, htrace, -⟩ := hm
  refine coreRow_issue s c op _ _ _ n j i hi hfront ho hd hl ?_ ?_ ?_ ?_ ?_ ?_ hboard hbreak hwait htrace
  all_goals rw [hok]
  case refine_4 => exact lanes_held_any hheld
  all_goals rfl

theorem haltRecord_valid (s : State) (c : Nat) (code : BitVec 16) (addr : Nat) (data : W64) (co : Bool) :
    ((haltRecord s c code addr data co).core c).hValid = true := by
  unfold haltRecord
  split
  · assumption
  · rw [chSample_core, State.setCore_core]

/-- Where one core alone reads, the halt that is recorded first is the one that its core halts with. -/
theorem haltReaders_one (code : BitVec 16) (pc : Nat) (data : W64) (hst : (s.core c).st = .running)
    (hn : (s.core c).job = some n) (hj : s.job n = some j) (hk : j.kill = none) :
    Halts s (haltReaders s [(c, pc)] code data) c n j code pc data := by
  obtain ⟨u, hu⟩ : ∃ u, u = haltRecord s c code (s.instrAddr c pc) data false := ⟨_, rfl⟩
  have hcore := haltRecord_coresHalted s c code (s.instrAddr c pc) data false c
  have ho := haltRecord_only s c code (s.instrAddr c pc) data false
  rw [← hu] at hcore ho
  have hust : (u.core c).st = .running := by rw [hu, haltRecord_st, hst]
  have hun : (u.core c).job = some n := by rw [hcore]; exact hn
  have huj : u.job n = some j := by rw [hu, haltRecord_job]; exact hj
  have hhold : u.obs.hold = s.obs.hold := by
    have h : ObsKept s.obs u.obs := ho .obsCfg (by decide)
    rw [h]
  have haddr : s.instrAddr c pc = (s.gen j.gen).base + pc := by
    unfold State.instrAddr
    simp only [hn, hj]
  have hd := haltCore_done code none (u.instrAddr c pc) data hun huj hk
  have huv : (u.core c).hValid = true := by rw [hu]; exact haltRecord_valid _ _ _ _ _ _
  have hkept := hd.kept huv
  have he : haltReaders s [(c, pc)] code data = haltAt u c code pc data := by
    unfold haltReaders
    rw [List.foldl_cons, List.foldl_nil, List.foldl_cons, List.foldl_nil, ← hu]
    exact if_pos hust
  rw [he]
  have hs := (haltAt_stops u c code pc data).2 c
  refine ⟨hs.pc.trans (by rw [hcore]), fun r => ?_, hd.valid, fun hv => ?_, fun hv => ?_, ?_⟩
  · rw [hs.same.reg, hcore]
    rfl
  · have h := haltRecord_fresh (s := s) (c := c) code (s.instrAddr c pc) data hv
    rw [← hu, ← hkept, coreStation_of_job hn hj, haddr] at h
    simp only [Core.haltRegs, Prod.mk.injEq] at h
    exact h.2
  · have h := hkept.trans (hu ▸ haltRecord_haltsKept s c code (s.instrAddr c pc) data false c hv)
    simp only [Core.haltRegs, Prod.mk.injEq] at h
    obtain ⟨-, hcode, -, -, -, hdata, -⟩ := h
    exact ⟨hcode, hdata⟩
  · split
    · next hh =>
      obtain ⟨hst', counts, hjob⟩ := hd.held (hhold ▸ hh)
      exact ⟨hst', _, hjob, hk, rfl, rfl⟩
    · next hh =>
      intro hcores
      obtain ⟨k, hjob, hkill, hcode, hdetail, hkilling, -, -, hst'⟩ := hd.killed (by rw [hhold]; simpa using hh) hcores
      exact ⟨k, hjob, hkill, hcode, hdetail, hkilling, hst'⟩

/-- A row whose operand leaves its area halts with SCRATCH_RANGE (R141, R171). -/
theorem coreRow_opnd_range {op : Nat} {act : State → Nat → Job → Ins → Sig → State} {d : W64} (hm : MayIssue s c n j i)
    (hl : controlLegal i = true) (ho : i.op = op) (hd : definedOp op = true) (he : s.memOpnd c j i = .error (.range d)) :
    Halts s (coreRow s c op (fun _ => controlLegal) (fun s j i => Plan.plain.withOpnd (s.memOpnd c j i)) act) c n j
      Config.SCRATCH_RANGE (s.core c).pc d := by
  obtain ⟨hi, hfront, -, hboard, -⟩ := hm
  rw [coreRow_range (d := d) hi hfront ho hd hl hboard (by rw [he]; rfl) (by rw [he]; rfl), he]
  obtain ⟨-, hst, -, -, hjob, hn, hk⟩ := (issuing_iff _ _ _ _).1 ((fetchAt_issuing s c j c).trans hi)
  exact Halts.of_prepared (fetchAt_prepared s c j) (fetchAt_pc s c j c) (haltReaders_one _ _ _ hst hjob hn hk)

/-- A core that no longer runs does not run again by a kill (R51). -/
theorem Kills.st_ne_running {s t : State} (h : Kills s t) {c : Nat} (hc : (s.core c).st ≠ .running) :
    (t.core c).st ≠ .running := by
  rcases h.core c with hl | hs
  · rw [hl.1]
    exact hc
  · rw [hs.1]
    decide

theorem resolveDeferred_kills (s : State) (n : Nat) : Kills s (resolveDeferred s n) := by
  unfold resolveDeferred
  split
  · exact .refl s
  · split
    · exact killJob_kills _ _ _ _ _
    · exact .refl s

theorem resolveDeferred_haltsKept (s : State) (n : Nat) : HaltsKept s (resolveDeferred s n) := by
  unfold resolveDeferred
  split
  · exact .refl s
  · split
    · exact killJob_haltsKept _ _ _ _ _
    · exact .refl s

theorem haltCore_not_running (code : BitVec 16) (unit : Option Nat) (addr : Nat) (data : W64)
    (hn : (s.core c).job = some n) (hj : s.job n = some j) (hk : j.kill = none) (hc : c ∈ j.cores) :
    ((haltCore s c code unit addr data).core c).st ≠ .running := by
  have h := haltCore_done code unit addr data hn hj hk
  cases hh : bitAt s.obs.hold.toNat c with
  | true => rw [(h.held hh).1]; decide
  | false =>
    obtain ⟨k, -, -, -, -, -, -, -, hst⟩ := h.killed hh (List.ne_nil_of_mem hc)
    rw [hst c hc]
    decide

theorem mem_insertNat {x k : Nat} {l : List Nat} : x ∈ insertNat k l ↔ x = k ∨ x ∈ l := by
  induction l with
  | nil => simp [insertNat]
  | cons y r ih =>
    unfold insertNat
    split
    · simp
    · split
      · next h => subst h; simp
      · simp only [List.mem_cons, ih]
        tauto

/-- The line of a range's first byte is its first line. -/
theorem badByte_first (k : Core) (off len : Nat) (hlen : 0 < len) (hb : off / 128 ∈ k.badLines) :
    k.badByte off len = some off := by
  unfold Core.badByte linesOf
  rw [if_neg (by omega), List.range_succ_eq_map, List.map_cons, List.find?_cons_of_pos (by simpa using hb)]
  simp only [Option.map_some, Option.some.injEq, Nat.zero_add]
  omega

theorem scratchErr_eq (s : State) (c : Nat) (j : Job) (o : SOp) (err : SramErr) :
    scratchErr s c j o err = match err with
      | .none => s
      | .corrected => frCorrected s 0
      | .uncorrectable => s.modCore c fun k => { k with badLines := insertNat (s.opndAddr c j o / 128) k.badLines } := by
  cases err <;> rfl

/-- The register fields of a core that an error of its scratch leaves as they are. -/
theorem scratchErr_core (s : State) (c : Nat) (j : Job) (o : SOp) (err : SramErr) :
    (scratchErr s c j o err).core c = { s.core c with badLines := ((scratchErr s c j o err).core c).badLines } ∧
      (err ≠ .uncorrectable → ∀ d, (scratchErr s c j o err).core d = s.core d) ∧
      (scratchErr s c j o err).jobs = s.jobs := by
  refine ⟨?_, fun he d => ?_, scratchErr_only s c j o err .jobs (by decide)⟩
  · cases err with
    | none => rfl
    | corrected => rw [scratchErr_eq]; dsimp only; rw [frCorrected_core]
    | uncorrectable => rw [scratchErr_eq]; dsimp only; rw [State.modCore_eq, State.setCore_core]
  · cases err with
    | none => rfl
    | corrected => rw [scratchErr_eq]; exact frCorrected_core _ _ _
    | uncorrectable => exact absurd rfl he

/-- Where an operand lies depends on the lanes of its core and on tables that an error of scratch leaves alone. -/
theorem opndAddr_scratchErr (s : State) (c : Nat) (j : Job) (o p : SOp) (err : SramErr) :
    (scratchErr s c j o err).opndAddr c j p = s.opndAddr c j p := by
  have ho := scratchErr_only s c j o err
  unfold State.opndAddr State.recvLane State.shareBase State.shareOf State.queue
  rw [(scratchErr_core s c j o err).1, ho .run (by decide), ho .queues (by decide), ho .shares (by decide)]

/-- The effect of LD on its issued state (R141, R143, R420). -/
def loadAct (c : Nat) (err : SramErr) : State → Nat → Job → Ins → Sig → State := fun s _ j i sig =>
  let pc := (s.core c).pc - 16
  match s.memOpnd c j i with
  | .error _ => s
  | .ok o =>
    let s := scratchErr s c j o err
    match s.opndBad c j o (2 ^ (i.mod % 4)) with
    | some b => sramHalt s c pc 0 b
    | none => doneAt pc sig (s.modCore c fun k => k.setReg i.d (BitVec.ofNat 64 (leNat (s.opndRead c j o (2 ^ (i.mod % 4)))))) c

/-- The effect of ST on its issued state. -/
def storeAct (c : Nat) : State → Nat → Job → Ins → Sig → State := fun s _ j i sig =>
  match s.memOpnd c j i with
  | .error _ => s
  | .ok o => doneAt ((s.core c).pc - 16) sig (opndWrite s c j o (leBytes (2 ^ (i.mod % 4)) ((s.core c).reg i.b).toNat)) c

theorem issued_memOpnd (hm : MayIssue s c n j i) :
    (issued s c n j i).memOpnd c (waitJob (s.core c) j i.wait) i = s.memOpnd c j i := by
  obtain ⟨x, hx⟩ := waitJob_eq (s.core c) j i.wait
  rw [hx, memOpnd_prepared (issued_prepared hm)]

theorem issued_opndAddr (hm : MayIssue s c n j i) (o : SOp) :
    (issued s c n j i).opndAddr c (waitJob (s.core c) j i.wait) o = s.opndAddr c j o := by
  obtain ⟨x, hx⟩ := waitJob_eq (s.core c) j i.wait
  rw [hx, opndAddr_prepared (issued_prepared hm)]

/-- The bad byte that LD meets: one found as it reads, or one marked before (R420). -/
theorem loadErr_bad (hm : MayIssue s c n j i) (o : SOp) (err : SramErr) (len : Nat) (hlen : 0 < len) :
    (scratchErr (issued s c n j i) c (waitJob (s.core c) j i.wait) o err).opndBad c (waitJob (s.core c) j i.wait) o len =
      if err = .uncorrectable then some (s.opndAddr c j o) else s.opndBad c j o len := by
  unfold State.opndBad
  rw [opndAddr_scratchErr, issued_opndAddr hm]
  split
  · next he =>
    subst he
    refine badByte_first _ _ len hlen ?_
    rw [scratchErr_eq]
    dsimp only
    rw [State.modCore_eq, State.setCore_core, issued_opndAddr hm]
    exact mem_insertNat.2 (.inl rfl)
  · next he =>
    rw [(scratchErr_core _ _ _ _ _).2.1 he, (issued_prepared hm).2 c]
    rfl

/-- LD of a good operand writes D with its bytes. -/
theorem load_issued {o : SOp} {err : SramErr} (hm : MayIssue s c n j i) (hok : s.memOpnd c j i = .ok o)
    (herr : err ≠ .uncorrectable) (hbad : s.opndBad c j o (2 ^ (i.mod % 4)) = none)
    (hfr : Only aluParts s (issueNow (s.fetchAt c j) c n j i (loadAct c err))) :
    Issued s c i (BitVec.ofNat 64 (leNat (s.opndRead c j o (2 ^ (i.mod % 4)))))
      (issueNow (s.fetchAt c j) c n j i (loadAct c err)) := by
  obtain ⟨hjob, hn, hk⟩ := issued_job hm
  have hb := loadErr_bad hm o err (2 ^ (i.mod % 4)) (by positivity)
  rw [if_neg herr, hbad] at hb
  obtain ⟨-, hq, hqj⟩ := scratchErr_core (issued s c n j i) c (waitJob (s.core c) j i.wait) o err
  obtain ⟨q, hqe⟩ : ∃ q, q = scratchErr (issued s c n j i) c (waitJob (s.core c) j i.wait) o err := ⟨_, rfl⟩
  have hread : q.opndRead c (waitJob (s.core c) j i.wait) o (2 ^ (i.mod % 4)) = s.opndRead c j o (2 ^ (i.mod % 4)) := by
    unfold State.opndRead
    rw [hqe, opndAddr_scratchErr, issued_opndAddr hm, hq herr, (issued_prepared hm).2 c]
    rfl
  rw [← hqe] at hb hq hqj
  obtain ⟨v, hv⟩ : ∃ v, v = BitVec.ofNat 64 (leNat (s.opndRead c j o (2 ^ (i.mod % 4)))) := ⟨_, rfl⟩
  have hpc : ((issued s c n j i).core c).pc - 16 = (s.core c).pc := by rw [issued_pc]; rfl
  have hact : loadAct c err (issued s c n j i) n (waitJob (s.core c) j i.wait) i ((s.core c).sigOf i.signal) =
      doneAt (s.core c).pc ((s.core c).sigOf i.signal) (q.modCore c fun k => k.setReg i.d v) c := by
    unfold loadAct
    simp only [issued_memOpnd hm, hok, ← hqe, hb, hpc, hread, hv]
  have hwc : (q.modCore c fun k => k.setReg i.d v).core c = ((issued s c n j i).core c).setReg i.d v := by
    rw [State.modCore_eq, State.setCore_core, hq herr]
  obtain ⟨-, -, kjob, -, kkeep⟩ := setReg_kept ((issued s c n j i).core c) i.d v
  obtain ⟨kflags, kpc, -⟩ := setReg_flags_ended ((issued s c n j i).core c) i.d v
  obtain ⟨hsig, hflags⟩ := issueNow_signals hm hact (by rw [hwc, kjob, hjob])
    (show q.job n = _ by unfold State.job at hn ⊢; rw [hqj, hn]) hk
  have hsame := hsig.2 c
  rw [hwc] at hsame hflags
  rw [← hv]
  refine ⟨fun r => ?_, hsame.pc.trans (kpc.trans issued_pc), ?_, ?_⟩
  · rw [hsame.reg, reg_setReg, issued_reg hm]
  · rw [hflags, kflags, issued_flags hm]
  · have hkeep : EffectKeeps (issued s c n j i) q c := by
      refine ⟨fun d => ?_, fun d _ => ?_⟩
      all_goals rw [hq herr d]
      · exact ⟨rfl, rfl, rfl, rfl, rfl, rfl, rfl⟩
      · exact ⟨rfl, rfl⟩
    have hset : EffectKeeps q (q.modCore c fun k => k.setReg i.d v) c := by
      refine .of_modCore q c _ fun k => ?_
      obtain ⟨-, -, -, -, hbadl, hme, hsend, hrecv⟩ := setReg_kept k i.d v
      exact ⟨hbadl, by rw [hme], by rw [hme], by rw [hme], hsend, hrecv, (setReg_flags_ended k i.d v).2.2⟩
    exact (((issued_effectKeeps hm).trans hkeep).trans (hset.trans (hsig.effectKeeps c))).issueKeeps hfr

/-- LD of an operand with an uncorrectable line halts (R419, R420). -/
theorem load_halts {o : SOp} {err : SramErr} {b : Nat} (hm : MayIssue s c n j i) (hok : s.memOpnd c j i = .ok o)
    (hc : c ∈ j.cores) (hbad : (if err = .uncorrectable then some (s.opndAddr c j o) else
      s.opndBad c j o (2 ^ (i.mod % 4))) = some b) :
    let t := issueNow (s.fetchAt c j) c n j i (loadAct c err)
    (t.core c).hValid = true ∧ (∀ r, (t.core c).reg r = (s.core c).reg r) ∧
      ((s.core c).hValid = false → (t.core c).hCode = Config.SRAM_UNCORRECTABLE ∧ (t.core c).hData = BitVec.ofNat 64 b) ∧
      (t.core c).st ≠ .running := by
  intro t
  obtain ⟨hjob, hn, hk⟩ := issued_job hm
  have hb := loadErr_bad hm o err (2 ^ (i.mod % 4)) (by positivity)
  rw [hbad] at hb
  obtain ⟨hqc, -, hqj⟩ := scratchErr_core (issued s c n j i) c (waitJob (s.core c) j i.wait) o err
  obtain ⟨q, hqe⟩ : ∃ q, q = scratchErr (issued s c n j i) c (waitJob (s.core c) j i.wait) o err := ⟨_, rfl⟩
  rw [← hqe] at hb hqj hqc
  have hq : (q.core c).hValid = (s.core c).hValid ∧ (q.core c).regs = (s.core c).regs ∧ (q.core c).job = some n := by
    rw [hqc]
    refine ⟨?_, ?_, hjob⟩ <;> rw [(issued_prepared hm).2 c]
  obtain ⟨hqv, hqr, hqjob⟩ := hq
  have hqn : q.job n = some (waitJob (s.core c) j i.wait) := by
    unfold State.job at hn ⊢
    rw [hqj, hn]
  have hcores : c ∈ (waitJob (s.core c) j i.wait).cores := by
    obtain ⟨x, hx⟩ := waitJob_eq (s.core c) j i.wait
    rw [hx]
    exact hc
  have ht : ∃ off, t = resolveDeferred (sramHalt q c off 0 b) n := by
    refine ⟨((issued s c n j i).core c).pc - 16, ?_⟩
    show issueNow (s.fetchAt c j) c n j i (loadAct c err) = _
    rw [mayIssue_issueNow hm]
    unfold loadAct
    simp only [issued_memOpnd hm, hok, ← hqe, hb]
  obtain ⟨off, ht⟩ := ht
  unfold sramHalt at ht
  obtain ⟨u, hu⟩ : ∃ u, u = haltCore q c Config.SRAM_UNCORRECTABLE (some 0) (q.instrAddr c off) (BitVec.ofNat 64 b) := ⟨_, rfl⟩
  have hd := haltCore_done Config.SRAM_UNCORRECTABLE (some 0) (q.instrAddr c off) (BitVec.ofNat 64 b) hqjob hqn hk
  have hstop := haltCore_not_running Config.SRAM_UNCORRECTABLE (some 0) (q.instrAddr c off) (BitVec.ofNat 64 b) hqjob hqn hk hcores
  have hregs := ((haltCore_stops q c Config.SRAM_UNCORRECTABLE (some 0) (q.instrAddr c off) (BitVec.ofNat 64 b)).trans
    (resolveDeferred_stops _ n)).2 c
  rw [← hu] at hd hstop hregs ht
  rw [← ht] at hregs
  have hkept := resolveDeferred_haltsKept u n c hd.valid
  rw [← ht] at hkept
  refine ⟨(congrArg Prod.fst hkept).trans hd.valid, fun r => ?_, fun hv => ?_, ?_⟩
  · unfold Core.reg
    rw [hregs.regs, hqr]
  · have h := hkept.trans (hd.taken (hqv.trans hv))
    simp only [Core.haltRegs, Prod.mk.injEq] at h
    obtain ⟨-, hcode, -, -, -, hdata, -⟩ := h
    exact ⟨hcode, hdata⟩
  · rw [ht]
    exact (resolveDeferred_kills u n).st_ne_running hstop

/-- ST writes its bytes and passes (R141, R143). -/
theorem store_passed {o : SOp} (hm : MayIssue s c n j i) (hok : s.memOpnd c j i = .ok o) :
    let t := issueNow (s.fetchAt c j) c n j i (storeAct c)
    Passed s t c i ∧ (∀ d, d ≠ c → (t.core d).scratch = (s.core d).scratch ∧ ∀ r, (t.core d).reg r = (s.core d).reg r) ∧
      (t.core c).recvLanes = (s.core c).recvLanes ∧ (t.core c).scratch = memPutAll (s.core c).scratch (s.opndAddr c j o)
        (leBytes (2 ^ (i.mod % 4)) ((s.core c).reg i.b).toNat) := by
  intro t
  obtain ⟨hjob, hn, hk⟩ := issued_job hm
  obtain ⟨p, hp⟩ : ∃ p, p = issued s c n j i := ⟨_, rfl⟩
  obtain ⟨bs, hbs⟩ : ∃ bs, bs = leBytes (2 ^ (i.mod % 4)) ((s.core c).reg i.b).toNat := ⟨_, rfl⟩
  obtain ⟨w, hw⟩ : ∃ w, w = p.modCore c fun k => k.putScratch (s.opndAddr c j o) bs := ⟨_, rfl⟩
  have hact : storeAct c (issued s c n j i) n (waitJob (s.core c) j i.wait) i ((s.core c).sigOf i.signal) =
      doneAt (((issued s c n j i).core c).pc - 16) ((s.core c).sigOf i.signal) w c := by
    unfold storeAct opndWrite
    simp only [issued_memOpnd hm, hok, issued_opndAddr hm, issued_reg hm, ← hbs]
    rw [hw, hp]
  have hwc : w.core c = (p.core c).putScratch (s.opndAddr c j o) bs := by rw [hw, State.modCore_eq, State.setCore_core]
  obtain ⟨hsig, hflags⟩ := issueNow_signals hm hact (by rw [hwc, hp]; exact hjob) (by rw [hw, hp]; exact hn) hk
  have hsame := hsig.2 c
  rw [hwc] at hsame hflags
  refine ⟨⟨fun r => ?_, hsame.pc.trans (hp ▸ issued_pc), ?_⟩, fun d hd => ?_, ?_, ?_⟩
  · exact (hsame.reg r).trans (hp ▸ issued_reg hm c r)
  · rw [hflags, hp]
    exact congrArg _ (issued_flags hm)
  · have hsd := hsig.2 d
    have hwd : w.core d = p.core d := by rw [hw, State.modCore_eq, State.setCore_core_ne _ _ _ _ hd]
    rw [hwd, hp, (issued_prepared hm).2 d] at hsd
    exact ⟨hsd.scratch, fun r => hsd.reg r⟩
  · rw [hsame.recvLanes, hp, (issued_prepared hm).2 c]
    rfl
  · rw [hsame.scratch, hp, ← hbs, (issued_prepared hm).2 c]
    rfl
end

/-- Settles O22. -/
theorem loadsAndStoresOfScratch : Obligations.LoadsAndStoresOfScratch := by
  intro s core n j i hm hl c k w bad held
  have ld (err : SramErr) (t : State) (e : coreRow s c 0x14 (fun _ => controlLegal)
      (fun s j i => Plan.plain.withOpnd (s.memOpnd c j i)) (loadAct c err) = t) : exec (.ld ⟨core, err⟩) s = .next t :=
    congrArg Host.Outcome.next e
  have st (t : State) (e : coreRow s c 0x15 (fun _ => controlLegal)
      (fun s j i => Plan.plain.withOpnd (s.memOpnd c j i)) (storeAct c) = t) : exec (.st core) s = .next t :=
    congrArg Host.Outcome.next e
  refine ⟨fun o hok hheld ho => ⟨fun err herr hgood => ?good, fun err b hc hbad => ?bad⟩, fun o hok hheld ho => ?store,
    fun d he => ⟨fun ho err => ⟨_, rfl, coreRow_opnd_range hm hl ho rfl he⟩,
      fun ho => ⟨_, rfl, coreRow_opnd_range hm hl ho rfl he⟩⟩⟩
  case good =>
    have e := ld err _ (coreRow_opnd_issue hm hl ho rfl hok hheld)
    exact ⟨_, e, load_issued hm hok herr hgood (exec_only _ _ _ e)⟩
  case bad =>
    have e := ld err _ (coreRow_opnd_issue hm hl ho rfl hok hheld)
    refine ⟨_, e, load_halts hm hok hc ?_⟩
    rcases hbad with ⟨he, hb⟩ | ⟨he, hb⟩
    · rw [if_pos he, hb]
    · rw [if_neg he]
      exact hb
  case store =>
    have e := st _ (coreRow_opnd_issue hm hl ho rfl hok hheld)
    obtain ⟨h1, h2, h3, h4⟩ := store_passed hm hok
    exact ⟨_, e, h1, h2, h3, h4, exec_only _ _ _ e⟩

end Sys2Proof.Machine
end

section
/-! SUPPORT. Instructions that enter an engine's queue: the matrix and vector rows (O29) and the stream rows (O24). -/

namespace Sys2Proof.Machine

/-! ## The effect of a row that queues an operation -/

/-- A change of a core's engines that leaves accumulators and banks alone. -/
def EnginesOnly (k l : Core) : Prop :=
  l = { k with me := l.me, ve := l.ve, se := l.se } ∧ l.me.acc = k.me.acc ∧ l.me.bank0 = k.me.bank0 ∧ l.me.bank1 = k.me.bank1

theorem modMe_eq (s : State) (c : Nat) (f : Matrix → Matrix) :
    s.modMe c f = s.modCore c fun k => { k with me := f k.me } := rfl

theorem modVe_eq (s : State) (c : Nat) (f : Vector' → Vector') :
    s.modVe c f = s.modCore c fun k => { k with ve := f k.ve } := rfl

theorem modSe_eq (s : State) (c : Nat) (f : Stream → Stream) :
    s.modSe c f = s.modCore c fun k => { k with se := f k.se } := rfl

/-- What an instruction that queues an operation shows besides its engine: it signals nothing yet, so of the flags only those of
its WAIT act. -/
def QueuedPlain (s t : State) (c : Nat) (i : Ins) : Prop :=
  (∀ r, (t.core c).reg r = (s.core c).reg r) ∧ (t.core c).pc = (s.core c).pc + 16 ∧
    (t.core c).flags = flagsWaited i.wait (s.core c).flags ∧ IssueKeeps s t c ∧ ScratchKept s t

section
variable {s : State} {c n op : Nat} {j : Job} {i : Ins} {act : State → Nat → Job → Ins → Sig → State}

/-- A step that changes the engines of one core alone. -/
structure EngineStep (p w : State) (c : Nat) : Prop where
  core : EnginesOnly (p.core c) (w.core c)
  other : ∀ d, d ≠ c → w.core d = p.core d
  jobs : w.jobs = p.jobs

theorem EngineStep.of_modCore (p : State) (c : Nat) (f : Core → Core) (hf : EnginesOnly (p.core c) (f (p.core c))) :
    EngineStep p (p.modCore c f) c := by
  rw [State.modCore_eq]
  refine ⟨?_, fun d hd => State.setCore_core_ne _ _ _ _ hd, rfl⟩
  rw [State.setCore_core]
  exact hf

theorem EngineStep.trans {p w t : State} (h : EngineStep p w c) (g : EngineStep w t c) : EngineStep p t c := by
  obtain ⟨hk, h1, h2, h3⟩ := h.core
  obtain ⟨gk, g1, g2, g3⟩ := g.core
  refine ⟨⟨?_, g1.trans h1, g2.trans h2, g3.trans h3⟩, fun d hd => (g.other d hd).trans (h.other d hd), g.jobs.trans h.jobs⟩
  rw [hk] at gk
  exact gk

variable {w : State}

/-- An instruction whose effect is a change of its core's engines, for a job without a deferred preemption (R346). -/
theorem issueNow_engine (hm : MayIssue s c n j i) (hdef : j.deferred = false) (hw : EngineStep (issued s c n j i) w c)
    (hact : act (issued s c n j i) n (waitJob (s.core c) j i.wait) i ((s.core c).sigOf i.signal) = w) :
    issueNow (s.fetchAt c j) c n j i act = w := by
  obtain ⟨-, hn, -⟩ := issued_job hm
  obtain ⟨x, hx⟩ := waitJob_eq (s.core c) j i.wait
  have hdef' : (waitJob (s.core c) j i.wait).deferred = false := by rw [hx]; exact hdef
  have hwn : w.job n = (issued s c n j i).job n := by unfold State.job; rw [hw.jobs]
  rw [mayIssue_issueNow hm, hact]
  exact resolveDeferred_of_not_deferred (hwn.trans hn) hdef'

theorem issued_engine_core (hm : MayIssue s c n j i) : ((issued s c n j i).core c).me = (s.core c).me ∧
    ((issued s c n j i).core c).ve = (s.core c).ve ∧ ((issued s c n j i).core c).se = (s.core c).se := by
  rw [(issued_prepared hm).2 c]
  exact ⟨rfl, rfl, rfl⟩

theorem EngineStep.plain (hw : EngineStep (issued s c n j i) w c) (hm : MayIssue s c n j i) (hfr : Only aluParts s w) :
    QueuedPlain s w c i := by
  obtain ⟨hk, hacc, hbank0, hbank1⟩ := hw.core
  have hkeep : EffectKeeps (issued s c n j i) w c := by
    refine ⟨fun d => ?_, fun d hd => ?_⟩
    · by_cases e : d = c
      · subst e
        refine ⟨?_, hacc, hbank0, hbank1, ?_, ?_, ?_⟩
        all_goals rw [hk]
      · rw [hw.other d e]
        exact ⟨rfl, rfl, rfl, rfl, rfl, rfl, rfl⟩
    · rw [hw.other d hd]
      exact ⟨rfl, rfl⟩
  refine ⟨fun r => ?_, ?_, ?_, ((issued_effectKeeps hm).trans hkeep).issueKeeps hfr⟩
  · rw [hk]
    exact issued_reg hm c r
  · rw [hk]
    exact issued_pc
  · rw [hk]
    exact issued_flags hm
end

/-! ## Matrix and vector rows (O29) -/

section
variable {s p : State} {c n op : Nat} {j : Job} {i : Ins}

theorem matCheck_prepared (h : StatePrepared s p) (c : Nat) (j : Job) (x : Tbl W32) (i : Ins) (kind : MKind) :
    p.matCheck c { j with contrib := x } i kind = s.matCheck c j i kind := by
  have hme : (p.core c).me = (s.core c).me := by rw [h.2 c]
  have hreg (r : Nat) : (p.core c).reg r = (s.core c).reg r := by rw [h.2 c]; rfl
  have htile (o : SOp) : (matOp (p.core c) i kind o .none).tile (s.core c).me = (matOp (s.core c) i kind o .none).tile (s.core c).me :=
    rfl
  unfold State.matCheck State.matOpnd
  simp only [scratchOpnd_prepared h, hme, hreg, htile]

theorem matOp_issued (hm : MayIssue s c n j i) (kind : MKind) (o : SOp) (sig : Sig) :
    matOp ((issued s c n j i).core c) i kind o sig = { matOp (s.core c) i kind o sig with pc := (s.core c).pc } := by
  unfold matOp
  rw [issued_reg hm, issued_pc]
  rfl

/-- A legal matrix instruction enters the engine's queue (R155, R192). -/
theorem matRow_queued {kind : MKind} {o : SOp} (hm : MayIssue s c n j i) (hdef : j.deferred = false)
    (ho : i.op = op) (hd : definedOp op = true) (hl : matrixLegalFor j i = true) (hroom : (s.core c).me.queue.length < 4)
    (hok : s.matCheck c j i kind = .ok o) (hheld : ∀ l ∈ o.laneOf, (s.recvLane c j l).held ≠ 0)
    (hfmt : kind = .mma → wfmtFault i = none) (hfr : Only aluParts s (matRow s c op kind)) :
    QueuedPlain s (matRow s c op kind) c i ∧ ((matRow s c op kind).core c).ve = (s.core c).ve ∧
      ((matRow s c op kind).core c).me = { (s.core c).me with queue := (s.core c).me.queue ++
        [{ matOp (s.core c) i kind o ((s.core c).sigOf i.signal) with pc := (s.core c).pc }] } := by
  obtain ⟨hi, hfront, hbreak, hboard, hwait, htrace, -⟩ := id hm
  obtain ⟨x, hx⟩ := waitJob_eq (s.core c) j i.wait
  have hfmt' : (if kind = .mma then wfmtFault i else none) = none := by split <;> [exact hfmt ‹_›; rfl]
  have e : matRow s c op kind = (issued s c n j i).modCore c fun k => { k with
      me := { k.me with queue := k.me.queue ++
        [matOp ((issued s c n j i).core c) i kind o ((s.core c).sigOf i.signal)] } } := by
    unfold matRow
    rw [coreRow_issue s c op _ _ _ n j i hi hfront ho hd hl (by rw [hok]; rfl) (by rw [hok]; rfl) hfmt'
      (by rw [hok]; exact lanes_held_any hheld) (decide_eq_true hroom) (by rw [hok]; rfl) hboard hbreak hwait htrace]
    refine issueNow_engine hm hdef (.of_modCore _ c _ ⟨rfl, rfl, rfl, rfl⟩) ?_
    rw [hx, matCheck_prepared (issued_prepared hm), hok]
    exact modMe_eq _ _ _
  rw [e] at hfr ⊢
  obtain ⟨hme, hve, -⟩ := issued_engine_core hm
  refine ⟨(EngineStep.of_modCore _ c _ ⟨rfl, rfl, rfl, rfl⟩).plain hm hfr, ?_, ?_⟩
  all_goals rw [State.modCore_eq, State.setCore_core]
  · exact hve
  · rw [hme, matOp_issued hm]

theorem vecOp_prepared (h : StatePrepared s p) (c : Nat) (j : Job) (x : Tbl W32) (i : Ins) (sig : Sig) :
    vecOp p c { j with contrib := x } i sig = { vecOp s c j i sig with pc := (p.core c).pc - 16 } := by
  have hreg (r : Nat) : (p.core c).reg r = (s.core c).reg r := by rw [h.2 c]; rfl
  unfold vecOp
  simp only [recvLane_prepared h, hreg]

/-- A legal vector instruction enters the engine's queue (R155). -/
theorem vecRow_queued (hm : MayIssue s c n j i) (hdef : j.deferred = false) (ho : i.op = op) (hd : definedOp op = true)
    (hl : vectorLegal i = true) (hroom : (s.core c).ve.queue.length < 8)
    (hlanes : ∀ l ∈ (vecOp s c j i .none).lanes, l < s.recvCount j ∧ (s.recvLane c j l).held ≠ 0)
    (hfr : Only aluParts s (vecRow s c op)) :
    QueuedPlain s (vecRow s c op) c i ∧ ((vecRow s c op).core c).me = (s.core c).me ∧
      ((vecRow s c op).core c).ve = { (s.core c).ve with queue := (s.core c).ve.queue ++
        [{ vecOp s c j i ((s.core c).sigOf i.signal) with pc := (s.core c).pc }] } := by
  obtain ⟨hi, hfront, hbreak, hboard, hwait, htrace, -⟩ := id hm
  obtain ⟨x, hx⟩ := waitJob_eq (s.core c) j i.wait
  have hexist : ((vecOp s c j i .none).lanes.all fun l => decide (l < s.recvCount j)) = true := by
    rw [List.all_eq_true]
    exact fun l h => decide_eq_true (hlanes l h).1
  have hheld : ((vecOp s c j i .none).lanes.any fun l => (s.recvLane c j l).held == 0) = false := by
    rw [List.any_eq_false]
    intro l h
    simpa using (hlanes l h).2
  have e : vecRow s c op = (issued s c n j i).modCore c fun k => { k with
      ve := { k.ve with queue := k.ve.queue ++
        [{ vecOp s c j i ((s.core c).sigOf i.signal) with pc := ((issued s c n j i).core c).pc - 16 }] } } := by
    unfold vecRow
    rw [coreRow_issue s c op _ _ _ n j i hi hfront ho hd hl hexist rfl rfl hheld (decide_eq_true hroom) rfl hboard hbreak
      hwait htrace]
    refine issueNow_engine hm hdef (.of_modCore _ c _ ⟨rfl, rfl, rfl, rfl⟩) ?_
    rw [hx, vecOp_prepared (issued_prepared hm)]
    exact modVe_eq _ _ _
  rw [e] at hfr ⊢
  obtain ⟨hme, hve, -⟩ := issued_engine_core hm
  refine ⟨(EngineStep.of_modCore _ c _ ⟨rfl, rfl, rfl, rfl⟩).plain hm hfr, ?_, ?_⟩
  all_goals rw [State.modCore_eq, State.setCore_core]
  · exact hme
  · rw [hve, issued_pc]
    rfl
end

/-- Settles O29: the four matrix rows are `matRow`, the 26 vector rows `vecRow`. -/
theorem engineInstructionsQueueTheirOperation : Obligations.EngineInstructionsQueueTheirOperation := by
  intro s core n j i hm hdef c k plain matrix vector
  have mat {op : Nat} {x : Instr} {kind : MKind} (he : exec x s = .next (matRow s c op kind)) (hd : definedOp op = true)
      (ho : i.op = op) : matrix x kind := fun o hl hroom hok hheld hfmt =>
    ⟨_, he, matRow_queued hm hdef ho hd hl hroom hok hheld hfmt ((matRow_only _ _ _ _).step (by decide) (.refl _ s))⟩
  have vec {op : Nat} {x : Instr} (he : exec x s = .next (vecRow s c op)) (hd : definedOp op = true) (ho : i.op = op) :
      vector x := fun hl hroom hlanes =>
    ⟨_, he, vecRow_queued hm hdef ho hd hl hroom hlanes ((vecRow_only _ _ _).step (by decide) (.refl _ s))⟩
  exact ⟨mat rfl rfl, mat rfl rfl, mat rfl rfl, mat rfl rfl, vec rfl rfl, vec rfl rfl, vec rfl rfl, vec rfl rfl, vec rfl rfl,
    vec rfl rfl, vec rfl rfl, vec rfl rfl, vec rfl rfl, vec rfl rfl, vec rfl rfl, vec rfl rfl, vec rfl rfl, vec rfl rfl,
    vec rfl rfl, vec rfl rfl, vec rfl rfl, vec rfl rfl, vec rfl rfl, vec rfl rfl, vec rfl rfl, vec rfl rfl, vec rfl rfl,
    vec rfl rfl, vec rfl rfl, vec rfl rfl⟩

/-! ## Stream rows (O24) -/

section
variable {s p : State} {c n op : Nat} {j : Job} {i : Ins}

theorem objOperand_prepared (h : StatePrepared s p) (c : Nat) (j : Job) (x : Tbl W32) (i : Ins) :
    p.objOperand c { j with contrib := x } i = s.objOperand c j i := by
  have hreg (r : Nat) : (p.core c).reg r = (s.core c).reg r := by rw [h.2 c]; rfl
  obtain ⟨⟨_, _, _, _, rfl⟩, -⟩ := h
  unfold State.objOperand
  simp only [hreg]
  rfl

theorem objScratch_prepared (h : StatePrepared s p) (c : Nat) (j : Job) (x : Tbl W32) (i : Ins) (kind : SKind) :
    p.objScratch c { j with contrib := x } i kind = s.objScratch c j i kind := by
  have hreg (r : Nat) : (p.core c).reg r = (s.core c).reg r := by rw [h.2 c]; rfl
  have harea (slot : W32) : p.readersArea { j with contrib := x } slot = s.readersArea j slot := by
    obtain ⟨⟨_, _, _, _, rfl⟩, -⟩ := h
    rfl
  unfold State.objScratch
  simp only [hreg, objOperand_prepared h, harea, scratchOpnd_prepared h]

theorem maskTile_prepared (h : StatePrepared s p) (c : Nat) (j : Job) (x : Tbl W32) (i : Ins) :
    p.maskTile c { j with contrib := x } i = s.maskTile c j i := by
  have hreg (r : Nat) : (p.core c).reg r = (s.core c).reg r := by rw [h.2 c]; rfl
  unfold State.maskTile State.maskLanes
  simp only [hreg, sendLane_prepared h]

/-- An operation as the instruction shows it: the PC is that of the instruction. -/
theorem streamOp_issued (hm : MayIssue s c n j i) (kind : SKind) (r : W32) (off len : Nat) (o : SOp) (lanes : List Nat)
    (round : Nat) (sig : Sig) : streamOp ((issued s c n j i).core c) kind r off len o lanes round sig =
      { streamOp (s.core c) kind r off len o lanes round sig with pc := (s.core c).pc } := by
  obtain ⟨-, -, hse⟩ := issued_engine_core hm
  unfold streamOp
  rw [issued_pc, hse]
  rfl

/-- An operation that enters a thread's queue changes that thread alone. -/
theorem enqueueOp_step (s : State) (c t : Nat) (o : StreamOp) : EngineStep s (enqueueOp s c t o) c ∧
    (((enqueueOp s c t o).core c).se.thread t).queue = ((s.core c).se.thread t).queue ++ [o] ∧
    (((enqueueOp s c t o).core c).se.thread t).active = ((s.core c).se.thread t).active ∧
    (∀ u, u ≠ t → ((enqueueOp s c t o).core c).se.thread u = (s.core c).se.thread u) ∧
    ((enqueueOp s c t o).core c).se.nextId = (s.core c).se.nextId + 1 := by
  unfold enqueueOp
  rw [modSe_eq]
  refine ⟨.of_modCore _ c _ ⟨rfl, rfl, rfl, rfl⟩, ?_⟩
  rw [State.modCore_eq, State.setCore_core]
  unfold Stream.thread
  refine ⟨?_, ?_, fun u hu => tget_tput_ne _ _ _ _ _ hu, rfl⟩
  all_goals dsimp only; rw [tget_tput_self]

/-- An operation that has entered a thread's queue. -/
def ThreadQueued (s t : State) (c u : Nat) (o : StreamOp) : Prop :=
  ((t.core c).se.thread u).queue = ((s.core c).se.thread u).queue ++ [o] ∧
    ((t.core c).se.thread u).active = ((s.core c).se.thread u).active ∧
    (∀ v, v ≠ u → (t.core c).se.thread v = (s.core c).se.thread v) ∧ (t.core c).se.nextId = (s.core c).se.nextId + 1

theorem enqueueOp_queued (hm : MayIssue s c n j i) (u : Nat) (o : StreamOp) :
    ThreadQueued s (enqueueOp (issued s c n j i) c u o) c u o := by
  obtain ⟨-, h⟩ := enqueueOp_step (issued s c n j i) c u o
  obtain ⟨-, -, hse⟩ := issued_engine_core hm
  rw [hse] at h
  exact h

/-- The round that an MCAST counts is no thread's. -/
theorem ThreadQueued.countRound {w : State} {u : Nat} {o : StreamOp} {f : Stream → Stream}
    (hf : ∀ e, (f e).threads = e.threads ∧ (f e).nextId = e.nextId) (h : ThreadQueued s w c u o) :
    ThreadQueued s (w.modSe c f) c u o := by
  obtain ⟨hthreads, hnext⟩ := hf (w.core c).se
  have hse : ((w.modSe c f).core c).se = f (w.core c).se := by
    rw [modSe_eq, State.modCore_eq, State.setCore_core]
  have hthread (v : Nat) : ((w.modSe c f).core c).se.thread v = (w.core c).se.thread v := by
    unfold Stream.thread
    rw [hse, hthreads]
  unfold ThreadQueued
  simp only [hthread]
  rw [hse, hnext]
  exact h

/-- LOAD, STORE and MCAST queue their operation (R127, R146). -/
theorem objRow_queued {kind : SKind} {r : W32} {o : SOp} (hm : MayIssue s c n j i) (hdef : j.deferred = false) (ho : i.op = op)
    (hd : definedOp op = true) (hl : streamLegal i = true) (hroom : ((s.core c).se.thread i.thread).queue.length < 8)
    (hobj : s.objLegal c j i kind = true) (hr : s.objOperand c j i = some r) (hok : s.objScratch c j i kind = .ok o)
    (hheld : ∀ l ∈ o.laneOf, (s.recvLane c j l).held ≠ 0) (hseal : s.sealBreach c j i kind = none)
    (hfr : Only aluParts s (objRow s c op kind)) :
    QueuedPlain s (objRow s c op kind) c i ∧ ThreadQueued s (objRow s c op kind) c i.thread { streamOp (s.core c) kind r
      ((s.core c).reg i.b).toNat ((s.core c).reg i.c).toNat o [] (tget 0 (s.core c).se.mcasts r.toNat)
      ((s.core c).sigOf i.signal) with pc := (s.core c).pc } := by
  obtain ⟨hi, hfront, hbreak, hboard, hwait, htrace, -⟩ := id hm
  obtain ⟨x, hx⟩ := waitJob_eq (s.core c) j i.wait
  obtain ⟨-, -, hse⟩ := issued_engine_core hm
  obtain ⟨y, hy⟩ : ∃ y, y = { streamOp (s.core c) kind r ((s.core c).reg i.b).toNat ((s.core c).reg i.c).toNat o []
      (tget 0 (s.core c).se.mcasts r.toNat) ((s.core c).sigOf i.signal) with pc := (s.core c).pc } := ⟨_, rfl⟩
  obtain ⟨w, hw⟩ : ∃ w, w = enqueueOp (issued s c n j i) c i.thread y := ⟨_, rfl⟩
  obtain ⟨t, ht⟩ : ∃ t, t = if kind = .mcast then w.modSe c fun e =>
      { e with mcasts := tput e.mcasts r.toNat (tget 0 (s.core c).se.mcasts r.toNat + 1) } else w := ⟨_, rfl⟩
  have hstep : EngineStep (issued s c n j i) w c := hw ▸ (enqueueOp_step _ _ _ _).1
  have htstep : EngineStep (issued s c n j i) t c := by
    rw [ht]
    split
    · exact hstep.trans (.of_modCore _ c _ ⟨rfl, rfl, rfl, rfl⟩)
    · exact hstep
  have e : objRow s c op kind = t := by
    unfold objRow
    rw [coreRow_issue s c op _ _ _ n j i hi hfront ho hd hl (by simp only [hobj, hok, if_true]; rfl)
      (by simp only [hobj, hok, if_true]; rfl) (by simp only [hobj, hok, if_true]; rfl)
      (by simp only [hobj, hok, if_true]; exact lanes_held_any hheld) (decide_eq_true hroom)
      (by simp only [hobj, hok, hseal, if_true]; rfl) hboard hbreak hwait htrace]
    refine issueNow_engine hm hdef htstep ?_
    dsimp only
    rw [hx, objOperand_prepared (issued_prepared hm), objScratch_prepared (issued_prepared hm), hr, hok]
    simp only [streamOp_issued hm, issued_reg hm, hse, ← hy, ← hw, ht]
  have hq : ThreadQueued s w c i.thread y := hw ▸ enqueueOp_queued hm i.thread y
  rw [e] at hfr ⊢
  refine ⟨htstep.plain hm hfr, ?_⟩
  rw [← hy, ht]
  split
  · exact hq.countRound fun _ => ⟨rfl, rfl⟩
  · exact hq

/-- SEND and FENCE queue their operation: a row whose effect is to queue `o`. -/
theorem coreRow_queued {plan : State → Job → Ins → Plan} {act : State → Nat → Job → Ins → Sig → State} {o : StreamOp}
    (hm : MayIssue s c n j i) (hdef : j.deferred = false)
    (hissue : coreRow s c op (fun _ => streamLegal) plan act = issueNow (s.fetchAt c j) c n j i act)
    (hact : act (issued s c n j i) n (waitJob (s.core c) j i.wait) i ((s.core c).sigOf i.signal) =
      enqueueOp (issued s c n j i) c i.thread o)
    (hfr : Only aluParts s (coreRow s c op (fun _ => streamLegal) plan act)) :
    QueuedPlain s (coreRow s c op (fun _ => streamLegal) plan act) c i ∧
      ThreadQueued s (coreRow s c op (fun _ => streamLegal) plan act) c i.thread o := by
  have hstep := (enqueueOp_step (issued s c n j i) c i.thread o).1
  rw [hissue, issueNow_engine hm hdef hstep hact] at hfr ⊢
  exact ⟨hstep.plain hm hfr, enqueueOp_queued hm _ _⟩

/-! RELEASE -/

theorem release_core (s : State) (c : Nat) (j : Job) (l : Nat) :
    let r := s.recvLane c j l
    let key := laneKey r.srcStation r.srcLane
    (∀ d, ∃ x y, (release s c j l).core d = { s.core d with recvLanes := x, sendLanes := y }) ∧
      (release s c j l).recvLane c j l = { r with held := r.held - 1, ptr := (r.ptr + 1) % r.slots } ∧
      (∀ y, tfind (s.core r.srcCore).sendLanes key = some y →
        tfind ((release s c j l).core r.srcCore).sendLanes key = some { y with returning := y.returning + 1 }) ∧
      (∀ d, d ≠ c → ((release s c j l).core d).recvLanes = (s.core d).recvLanes) ∧
      (∀ d, d ≠ r.srcCore → ((release s c j l).core d).sendLanes = (s.core d).sendLanes) ∧
      (release s c j l).jobs = s.jobs := by
  intro r key
  obtain ⟨u, hu⟩ : ∃ u, u = s.modCore c fun k => { k with
    recvLanes := tput k.recvLanes (j.lane l) { r with held := r.held - 1, ptr := (r.ptr + 1) % r.slots } } := ⟨_, rfl⟩
  have huc (d : Nat) : ∃ x, u.core d = { s.core d with recvLanes := x } := by
    rw [hu, State.modCore_eq]
    by_cases e : d = c
    · rw [e, State.setCore_core]; exact ⟨_, rfl⟩
    · rw [State.setCore_core_ne _ _ _ _ e]; exact ⟨_, rfl⟩
  have hsend (d : Nat) : (u.core d).sendLanes = (s.core d).sendLanes := by obtain ⟨x, hx⟩ := huc d; rw [hx]
  have e : release s c j l = u.setCore r.srcCore (match tfind (u.core r.srcCore).sendLanes key with
      | some x => { u.core r.srcCore with sendLanes := tput (u.core r.srcCore).sendLanes key { x with returning := x.returning + 1 } }
      | none => u.core r.srcCore) := by rw [hu]; rfl
  have hcore (d : Nat) : ∃ y, (release s c j l).core d = { u.core d with sendLanes := y } := by
    rw [e]
    by_cases h : d = r.srcCore
    · rw [h, State.setCore_core]
      split <;> exact ⟨_, rfl⟩
    · rw [State.setCore_core_ne _ _ _ _ h]; exact ⟨_, rfl⟩
  have hrecv (d : Nat) : ((release s c j l).core d).recvLanes = (u.core d).recvLanes := by
    obtain ⟨y, hy⟩ := hcore d; rw [hy]
  refine ⟨fun d => ?_, ?_, fun y hy => ?_, fun d hd => ?_, fun d hd => ?_, by rw [e, hu]; rfl⟩
  · obtain ⟨x, hx⟩ := huc d
    obtain ⟨y, hy⟩ := hcore d
    exact ⟨x, y, by rw [hy, hx]⟩
  · unfold State.recvLane
    rw [hrecv, hu, State.modCore_eq, State.setCore_core]
    exact tget_tput_self _ _ _ _
  · rw [e, State.setCore_core, hsend, hy]
    exact tfind_tput_self _ _ _
  · rw [hrecv, hu, State.modCore_eq, State.setCore_core_ne _ _ _ _ hd]
  · rw [e, State.setCore_core_ne _ _ _ _ hd, hsend]

/-- RELEASE of a lane with a tile passes, and frees the tile (R115). -/
theorem release_passed {act : State → Nat → Job → Ins → Sig → State} (hm : MayIssue s c n j i)
    (hact : act = fun s _ j i sig => doneAt ((s.core c).pc - 16) sig (release s c j i.x) c) :
    let t := issueNow (s.fetchAt c j) c n j i act
    let r := s.recvLane c j i.x
    let key := laneKey r.srcStation r.srcLane
    Passed s t c i ∧ t.recvLane c j i.x = { r with held := r.held - 1, ptr := (r.ptr + 1) % r.slots } ∧
        (∀ y, tfind (s.core r.srcCore).sendLanes key = some y →
          tfind (t.core r.srcCore).sendLanes key = some { y with returning := y.returning + 1 }) ∧
        (∀ d, d ≠ c → (t.core d).recvLanes = (s.core d).recvLanes) ∧
        (∀ d, d ≠ r.srcCore → (t.core d).sendLanes = (s.core d).sendLanes) ∧ ScratchKept s t := by
  intro t r key
  obtain ⟨hjob, hn, hk⟩ := issued_job hm
  obtain ⟨p, hp⟩ : ∃ p, p = issued s c n j i := ⟨_, rfl⟩
  obtain ⟨x, hx⟩ := waitJob_eq (s.core c) j i.wait
  obtain ⟨w, hw⟩ : ∃ w, w = release p c (waitJob (s.core c) j i.wait) i.x := ⟨_, rfl⟩
  have hpre : StatePrepared s p := hp ▸ issued_prepared hm
  have hrel := release_core p c (waitJob (s.core c) j i.wait) i.x
  have hlane : p.recvLane c (waitJob (s.core c) j i.wait) i.x = r := by rw [hx]; exact recvLane_prepared hpre c j x i.x
  rw [hlane, ← hw] at hrel
  obtain ⟨hcore, hself, hcredit, hrecv, hsend, hjobs⟩ := hrel
  obtain ⟨hsig, hflags⟩ := issueNow_signals (act := act) (w := w) (pc := (p.core c).pc - 16) hm
    (by rw [hact, hw, hp]) (by obtain ⟨a, b, h⟩ := hcore c; rw [h, hp]; exact hjob)
    (m := waitJob (s.core c) j i.wait) (by unfold State.job at hn ⊢; rw [hjobs, hp]; exact hn) hk
  have hsame := hsig.2
  have hcorep (d : Nat) : (p.core d).recvLanes = (s.core d).recvLanes ∧ (p.core d).sendLanes = (s.core d).sendLanes ∧
      (p.core d).scratch = (s.core d).scratch := by rw [hpre.2 d]; exact ⟨rfl, rfl, rfl⟩
  refine ⟨⟨fun r => ?_, ?_, ?_⟩, ?_, fun y hy => ?_, fun d hd => ?_, fun d hd => ?_, fun d => ?_⟩
  · rw [(hsame c).reg]
    obtain ⟨a, b, h⟩ := hcore c
    rw [h, hp]
    exact issued_reg hm c r
  · rw [(hsame c).pc]
    obtain ⟨a, b, h⟩ := hcore c
    rw [h, hp]
    exact issued_pc
  · rw [hflags]
    obtain ⟨a, b, h⟩ := hcore c
    rw [h, hp]
    exact congrArg _ (issued_flags hm)
  · have hlane' : t.recvLane c j i.x = w.recvLane c (waitJob (s.core c) j i.wait) i.x := by
      unfold State.recvLane
      rw [(hsame c).recvLanes, hx]
      rfl
    rw [hlane', hself]
  · rw [(hsame _).sendLanes]
    exact hcredit y (by rw [(hcorep _).2.1]; exact hy)
  · rw [(hsame d).recvLanes, hrecv d hd, (hcorep d).1]
  · rw [(hsame d).sendLanes, hsend d hd, (hcorep d).2.1]
  · rw [(hsame d).scratch]
    obtain ⟨a, b, h⟩ := hcore d
    rw [h]
    exact (hcorep d).2.2
end

/-- Settles O24: the object rows are `objRow`; SEND and FENCE queue without an object, RELEASE acts at once. -/
theorem streamInstructionsQueueTheirOperation : Obligations.StreamInstructionsQueueTheirOperation := by
  intro s core n j i hm hl hdef c k th old op queued held moves
  obtain ⟨hi, hfront, hbreak, hboard, hwait, htrace, -⟩ := id hm
  obtain ⟨x, hx⟩ := waitJob_eq k j i.wait
  have answer {y : Instr} {t : State} {o p : StreamOp} (he : exec y s = .next t)
      (h : QueuedPlain s t c i ∧ ThreadQueued s t c th p) (hp : p = o) : queued y o := by
    obtain ⟨⟨h1, h2, h3, h4, h5⟩, g1, g2, g3, g4⟩ := h
    exact ⟨t, he, hp ▸ g1, g2, g3, g4, h1, h2, h3, h4, h5⟩
  refine ⟨fun hroom => ⟨fun ho r o hobj hr hok hheld hseal => ?load, fun ho r o hobj hr hok hheld hseal => ?store,
    fun ho r o hobj hr hok hheld hseal => ?mcast, fun ho hsend o hok hheld => ?send, fun ho => ?fence⟩,
    fun ho hlane => ⟨fun hh => ?release, fun hh => ?empty⟩⟩
  case load => exact answer rfl (objRow_queued hm hdef ho rfl hl hroom hobj hr hok hheld hseal
    ((objRow_only _ _ _ _).step (by decide) (.refl _ s))) rfl
  case store => exact answer rfl (objRow_queued hm hdef ho rfl hl hroom hobj hr hok hheld hseal
    ((objRow_only _ _ _ _).step (by decide) (.refl _ s))) rfl
  case mcast => exact answer rfl (objRow_queued hm hdef ho rfl hl hroom hobj hr hok hheld hseal
    ((objRow_only _ _ _ _).step (by decide) (.refl _ s))) rfl
  case send =>
    have hissue := coreRow_issue s c 0xC2 (fun _ => streamLegal) (fun s j i =>
        let p := if s.sendLegal c j i then Plan.plain.withOpnd (s.scratchOpnd c j i.imm (s.maskTile c j i))
          else { Plan.plain with legal := false }
        { p with room := s.threadRoom c i.thread }) (fun s _ j i sig => match s.scratchOpnd c j i.imm (s.maskTile c j i) with
        | .ok o => enqueueOp s c i.thread (streamOp (s.core c) .send 0#32 0 (s.maskTile c j i) o (s.maskLanes c i) 0 sig)
        | .error _ => s) n j i hi hfront ho rfl hl (by simp only [hsend, hok, if_true]; rfl)
      (by simp only [hsend, hok, if_true]; rfl) (by simp only [hsend, hok, if_true]; rfl)
      (by simp only [hsend, hok, if_true]; exact lanes_held_any hheld) (decide_eq_true hroom)
      (by simp only [hsend, hok, if_true]; rfl) hboard hbreak hwait htrace
    have hmask : (issued s c n j i).maskLanes c i = s.maskLanes c i := by
      unfold State.maskLanes
      rw [issued_reg hm]
    refine answer rfl (coreRow_queued hm hdef hissue (o := { streamOp k .send 0#32 0 (s.maskTile c j i) o (s.maskLanes c i) 0
      (k.sigOf i.signal) with pc := k.pc }) ?_ ((exec_only (.send core) s _ rfl).step (of_decide_eq_true rfl) (.refl _ s))) rfl
    dsimp only
    rw [hx, maskTile_prepared (issued_prepared hm), scratchOpnd_prepared (issued_prepared hm), hok, hmask]
    dsimp only
    rw [streamOp_issued hm]
  case fence =>
    have hissue := coreRow_issue s c 0xC5 (fun _ => streamLegal)
      (fun s _ i => { Plan.plain with room := s.threadRoom c i.thread })
      (fun s _ _ i sig => enqueueOp s c i.thread (streamOp (s.core c) .fence 0#32 0 0 (.work 0) [] 0 sig)) n j i hi hfront ho rfl hl
      rfl rfl rfl rfl (decide_eq_true hroom) rfl hboard hbreak hwait htrace
    refine answer rfl (coreRow_queued hm hdef hissue (o := { streamOp k .fence 0#32 0 0 (.work 0) [] 0
      (k.sigOf i.signal) with pc := k.pc }) ?_ ((exec_only (.fence core) s _ rfl).step (of_decide_eq_true rfl) (.refl _ s))) rfl
    rw [streamOp_issued hm]
  case release =>
    have hissue := coreRow_issue s c 0xC4 (fun _ => streamLegal)
      (fun s j i => { Plan.plain with legal := decide (i.x < s.recvCount j), under := s.releaseEmpty c j i })
      (fun s _ j i sig => doneAt ((s.core c).pc - 16) sig (release s c j i.x) c) n j i hi hfront ho rfl hl
      (decide_eq_true hlane) rfl rfl rfl rfl
      (by unfold Plan.late State.releaseEmpty; rw [if_neg hh]; rfl) hboard hbreak hwait htrace
    have e : exec (.release core) s = .next _ := congrArg Host.Outcome.next hissue
    obtain ⟨h1, h2, h3, h4, h5, h6⟩ := release_passed hm rfl
    exact ⟨_, e, h1, h2, h3, h4, h5, h6, exec_only _ _ _ e⟩
  case empty =>
    have e := coreRow_late s c 0xC4 (fun _ => streamLegal)
      (fun s j i => { Plan.plain with legal := decide (i.x < s.recvCount j), under := s.releaseEmpty c j i })
      (fun s _ j i sig => doneAt ((s.core c).pc - 16) sig (release s c j i.x) c) n j i
      (Config.COUNTER_UNDERFLOW, BitVec.ofNat 64 i.x) hi hfront ho rfl hl (decide_eq_true hlane) rfl rfl rfl rfl
      (by unfold Plan.late State.releaseEmpty; rw [if_pos hh]; rfl) hboard hbreak hwait htrace
    exact ⟨_, congrArg Host.Outcome.next e, haltAt_fetched_halts _ _ hi⟩

end Sys2Proof.Machine
end

section
/-! SUPPORT. Fills of the instruction cache (O23). -/

namespace Sys2Proof.Machine

section
variable {s : State} {c n : Nat} {j : Job}

/-- The end of a stall changes the stall kind of its core alone. -/
theorem endStall_core (s : State) (c : Nat) (j : Job) : (endStall s c j).core c = { s.core c with stall := 0#3 } ∧
    ∀ d, d ≠ c → (endStall s c j).core d = s.core d := by
  unfold endStall
  split
  · next h => rw [← h]; exact ⟨rfl, fun _ _ => rfl⟩
  · rw [State.modCore_eq]
    refine ⟨by rw [State.setCore_core, stallFrame_core], fun d hd => ?_⟩
    rw [State.setCore_core_ne _ _ _ _ hd, stallFrame_core]

theorem fill_cached (k : Core) (entry line : Nat) (bs : List Byte) : (k.fill entry line bs).cached entry line = some bs := by
  unfold Core.cached Core.cachedLine Core.fill
  dsimp only
  rw [tget_tput_self, List.find?_cons_of_pos (by simp)]
  rfl

/-- A line that enters a core's cache (R158, R159). -/
theorem fillWith_core (s : State) (c : Nat) (j : Job) (line : Nat) (bs : List Byte) :
    let k := s.core c
    let l := (fillWith s c j line bs).core c
    l.cached j.gen line = some bs ∧ l.prefetch = k.prefetch.filter (fun x => x != line) ∧ l.stall = k.stall ∧ l.pc = k.pc ∧
      l.regs = k.regs ∧ l.flags = k.flags ∧ ∀ d, d ≠ c → (fillWith s c j line bs).core d = s.core d := by
  intro k l
  have hl : l = { k.fill j.gen line bs with
      prefetch := k.prefetch.filter fun x => x != line, started := k.started || line == k.pc / 128 } := by
    simp only [l, fillWith, State.modCore_eq, State.setCore_core]
    rfl
  refine ⟨?_, by rw [hl], by rw [hl]; rfl, by rw [hl]; rfl, by rw [hl]; rfl, by rw [hl]; rfl, fun d hd => ?_⟩
  · rw [hl]
    exact fill_cached k j.gen line bs
  · unfold fillWith
    rw [State.modCore_eq, State.setCore_core_ne _ _ _ _ hd]

theorem lineRead_ok {g : Gen} {line : Nat} {bs : List Byte} (hp : s.poisoned (g.base + 128 * line) 128 = false)
    (ht : s.hitsObjTable (g.base + 128 * line) 128 = false) (hb : s.lineBytes g line = some bs) :
    s.lineRead g line false = .ok bs := by
  unfold State.lineRead
  simp only [hp, ht, hb, Bool.or_self, Bool.false_eq_true, if_false]

theorem lineRead_denied {g : Gen} {line : Nat} (hp : s.poisoned (g.base + 128 * line) 128 = false)
    (h : s.hitsObjTable (g.base + 128 * line) 128 = true ∨ s.lineBytes g line = none) :
    s.lineRead g line false = .error Config.ACCESS_DENIED := by
  unfold State.lineRead
  simp only [hp, Bool.or_self, Bool.false_eq_true, if_false]
  rcases h with h | h
  · simp only [h, if_true]
  · simp only [h, ite_self]

theorem lineRead_poisoned {g : Gen} {line : Nat} {p : Bool} (h : p = true ∨ s.poisoned (g.base + 128 * line) 128 = true) :
    s.lineRead g line p = .error Config.MEM_POISON := by
  unfold State.lineRead
  have hp : (p || s.poisoned (g.base + 128 * line) 128) = true := by simpa using h
  simp only [hp, if_true]

theorem mem_foldl_insertNat {x : Nat} (ls l : List Nat) :
    x ∈ ls.foldl (fun l y => insertNat y l) l ↔ x ∈ ls ∨ x ∈ l := by
  induction ls generalizing l with
  | nil => simp
  | cons y ls ih =>
    rw [List.foldl_cons, ih, mem_insertNat, List.mem_cons]
    tauto

/-- The lines of a range are poisoned, and what was poisoned stays so (R423). -/
theorem mem_markPoison {s : State} {a len x : Nat} : x ∈ (markPoison s a len).poison ↔ x ∈ linesOf a len ∨ x ∈ s.poison :=
  mem_foldl_insertNat _ _

/-- A fill at a core that misses the line at its PC does what the line read says. -/
theorem fillLine_miss (hi : s.issuing c = some (n, j)) (hf : s.front c j = .miss) (p : Bool) :
    fillLine s c p = match s.lineRead (s.gen j.gen) ((s.core c).pc / 128) p with
      | .error code =>
        if code = Config.MEM_POISON then
          haltAt (markPoison s ((s.gen j.gen).base + 128 * ((s.core c).pc / 128)) 128) c code (s.core c).pc 0#64
        else haltAt s c code (s.core c).pc ((s.progOf j).setWidth 64)
      | .ok bs => endStall (fillWith s c j ((s.core c).pc / 128) bs) c j := by
  unfold fillLine
  simp only [hi, hf] <;> rfl

theorem fillLine_still (p : Bool) (h : s.issuing c = none ∨ ∃ n j, s.issuing c = some (n, j) ∧ s.front c j ≠ .miss) :
    fillLine s c p = s := by
  unfold fillLine
  rcases h with hi | ⟨n, j, hi, hf⟩
  · simp only [hi]
  · simp only [hi]

theorem fillAhead_line (hi : s.issuing c = some (n, j)) {line : Nat} {r : List Nat} (hp : (s.core c).prefetch = line :: r)
    (p : Bool) : fillAhead s c p = match s.lineRead (s.gen j.gen) line p with
      | .error code => (if code = Config.MEM_POISON then markPoison s ((s.gen j.gen).base + 128 * line) 128 else s).modCore c
          fun k => { k with prefetch := r }
      | .ok bs => fillWith s c j line bs := by
  unfold fillAhead
  simp only [hi, hp] <;> rfl

theorem fillAhead_none (hp : (s.core c).prefetch = []) (p : Bool) : fillAhead s c p = s := by
  unfold fillAhead
  split
  · next h => rw [hp] at h; contradiction
  · rfl

/-- A line that is read ahead and dropped leaves the list of lines under way alone. -/
theorem dropAhead_core (u : State) (c : Nat) (r : List Nat) :
    let t := u.modCore c fun k => { k with prefetch := r }
    (t.core c).prefetch = r ∧ (t.core c).icache = (u.core c).icache ∧ (t.core c).stall = (u.core c).stall ∧
      (t.core c).pc = (u.core c).pc ∧ (t.core c).regs = (u.core c).regs ∧ (t.core c).flags = (u.core c).flags ∧
      ∀ d, d ≠ c → t.core d = u.core d := by
  intro t
  simp only [t, State.modCore_eq, State.setCore_core, true_and]
  exact fun d hd => State.setCore_core_ne _ _ _ _ hd

theorem find?_filter_not {α : Type} (p : α → Bool) (l : List α) : (l.filter fun x => !p x).find? p = none := by
  rw [List.find?_eq_none]
  intro x hx
  simpa using (List.mem_filter.1 hx).2

/-- A parity error drops the cached line at the PC (R159, R419). -/
theorem dropLine_core (hi : s.issuing c = some (n, j)) (hn : (s.core c).fetched = none)
    (hl : (s.core c).cachedLine j.gen ((s.core c).pc / 128) ≠ none) :
    ((dropLine s c).core c).cachedLine j.gen ((s.core c).pc / 128) = none ∧
      ((dropLine s c).core c).stall = (s.core c).stall ∧ ((dropLine s c).core c).pc = (s.core c).pc ∧
      ((dropLine s c).core c).regs = (s.core c).regs ∧ ((dropLine s c).core c).flags = (s.core c).flags ∧
      ∀ d, d ≠ c → (dropLine s c).core d = s.core d := by
  have e : dropLine s c = (frCorrected s 2).modCore c fun k => { k with
      icache := tput k.icache (icacheSet j.gen ((s.core c).pc / 128))
        ((tget [] k.icache (icacheSet j.gen ((s.core c).pc / 128))).filter fun l =>
          !(l.entry == j.gen && l.line == (s.core c).pc / 128)) } := by
    unfold dropLine
    simp only [hi, hn, Option.isSome_none, Bool.false_or, Option.isNone_iff_eq_none, hl, if_false]
  rw [e, State.modCore_eq]
  simp only [State.setCore_core, frCorrected_core, true_and]
  refine ⟨?_, fun d hd => ?_⟩
  · unfold Core.cachedLine
    dsimp only
    rw [tget_tput_self]
    exact find?_filter_not (fun l : ICacheLine => l.entry == j.gen && l.line == (s.core c).pc / 128) _
  · rw [State.setCore_core_ne _ _ _ _ hd, frCorrected_core]

theorem dropLine_still (hi : s.issuing c = some (n, j))
    (h : (s.core c).fetched ≠ none ∨ (s.core c).cachedLine j.gen ((s.core c).pc / 128) = none) : dropLine s c = s := by
  unfold dropLine
  simp only [hi]
  refine if_pos ?_
  rcases h with h | h
  · simp [Option.isSome_iff_ne_none.2 h]
  · simp [h]
end

/-- Settles O23. -/
theorem fillsOfTheInstructionCache : Obligations.FillsOfTheInstructionCache := by
  refine ⟨?line, fun s core p h => congrArg Host.Outcome.next (fillLine_still p h), ?others⟩
  case line =>
    intro s core n j hi hf c k g a
    refine ⟨fun bs hp ht hb => ?good, fun hp hd => ?denied, fun p hp => ?poison⟩
    case good =>
      have e := fillLine_miss hi hf false
      rw [lineRead_ok hp ht hb] at e
      refine ⟨_, congrArg Host.Outcome.next e, ?_⟩
      obtain ⟨hself, hother⟩ := endStall_core (fillWith s c j (k.pc / 128) bs) c j
      obtain ⟨h1, -, -, h4, h5, h6, h7⟩ := fillWith_core s c j (k.pc / 128) bs
      refine ⟨?_, ?_, ?_, ?_, ?_, fun d hd => (hother d hd).trans (h7 d hd),
        (endStall_only _ _ _).step (by decide) ((fillWith_only _ _ _ _ _).step (by decide) (.refl _ s))⟩
      all_goals rw [hself]
      · exact h1
      · exact h4
      · exact h5
      · exact h6
    case denied =>
      have e := fillLine_miss hi hf false
      rw [lineRead_denied hp hd] at e
      exact ⟨_, congrArg Host.Outcome.next e, haltAt_halts_issuing _ _ hi⟩
    case poison =>
      have e := fillLine_miss hi hf p
      rw [lineRead_poisoned hp] at e
      obtain ⟨-, -, -, -, hjob, hn, hk⟩ := (issuing_iff _ _ _ _).1 hi
      have ho := haltAt_only (markPoison s a 128) c Config.MEM_POISON k.pc 0#64
      have hpoison : (haltAt (markPoison s a 128) c Config.MEM_POISON k.pc 0#64).poison = (markPoison s a 128).poison :=
        ho .poison (by decide)
      refine ⟨_, congrArg Host.Outcome.next e,
        haltAt_halts (s := markPoison s a 128) Config.MEM_POISON 0#64 k.pc hjob hn hk, fun l hl => ?_, fun l hl => ?_,
        ho.step (by decide) ((markPoison_only _ _ _).step (by decide) (.refl _ s))⟩
      all_goals refine (congrArg (l ∈ ·) hpoison).mpr (mem_markPoison.2 ?_)
      · exact .inl hl
      · exact .inr hl
  case others =>
    intro s core n j hi c k g still
    refine ⟨fun hp p => ?none, fun line r hp => ⟨fun bs hq ht hb => ?ahead, fun p hq => ?dropped, fun hq hd => ?refused⟩,
      fun hn hl => ?parity, fun h => congrArg Host.Outcome.next (dropLine_still hi h)⟩
    case none =>
      exact congrArg Host.Outcome.next (fillAhead_none hp p)
    case ahead =>
      have e := fillAhead_line hi hp false
      rw [lineRead_ok hq ht hb] at e
      obtain ⟨h1, h2, h3, h4, h5, h6, h7⟩ := fillWith_core s c j line bs
      exact ⟨_, congrArg Host.Outcome.next e, h1, h2, ⟨h3, h4, h5, h6, h7⟩, fillWith_only _ _ _ _ _⟩
    case dropped =>
      have e := fillAhead_line hi hp p
      rw [lineRead_poisoned hq] at e
      obtain ⟨h1, h2, hstill⟩ := dropAhead_core (markPoison s (g.base + 128 * line) 128) c r
      exact ⟨_, congrArg Host.Outcome.next e, fun l hl => mem_markPoison.2 (.inl hl), fun l hl => mem_markPoison.2 (.inr hl),
        h1, h2, hstill, (State.modCore_only _ _ _).step (by decide) ((markPoison_only _ _ _).step (by decide) (.refl _ s))⟩
    case refused =>
      have e := fillAhead_line hi hp false
      rw [lineRead_denied hq hd] at e
      obtain ⟨h1, h2, hstill⟩ := dropAhead_core s c r
      exact ⟨_, congrArg Host.Outcome.next e, h1, h2, hstill, State.modCore_only _ _ _⟩
    case parity =>
      obtain ⟨hcached, hstill⟩ := dropLine_core hi hn hl
      exact ⟨_, rfl, hcached, hstill, (dropLine_only s c).step (by decide) (.refl _ s)⟩

end Sys2Proof.Machine
end

section
/-! SUPPORT. Bound overruns and held cores (O16). -/

namespace Sys2Proof.Machine

/-- A bound overrun of a core that runs a job: the bound counter stands at the limit, and the core halts (R51). -/
theorem boundOverrun_eq {s : State} {core : BitVec 4} {n : Nat} {j : Job} (hst : (s.core core.toNat).st = .running)
    (hh : s.obs.halted = false) (hp : s.pauseAllowed = false) (hn : (s.core core.toNat).job = some n) (hj : s.job n = some j) :
    exec (.boundOverrun core) s = .next (haltAt
      (s.setCore core.toNat { s.core core.toNat with boundUsed := BitVec.ofNat 32 j.killLimit }) core.toNat
      Config.BOUND_OVERRUN (s.core core.toNat).lastFetch (BitVec.ofNat 64 j.killLimit)) := by
  have hlim : s.coreLimit core.toNat = j.killLimit := by
    unfold State.coreLimit
    simp only [hn, hj]
  show execBoundOverrun core s = _
  unfold execBoundOverrun
  rw [if_pos ⟨hst, hh, hp⟩]
  simp only [hlim]

/-- With halt hold, a halt changes no core but its own, and of that no scratch (R173). -/
theorem haltAt_hold_core {s : State} {c n : Nat} {j : Job} (code : BitVec 16) (pc : Nat) (data : W64)
    (hn : (s.core c).job = some n) (hj : s.job n = some j) (hk : j.kill = none) (hh : bitAt s.obs.hold.toNat c = true)
    {d : Nat} (hd : d ≠ c) : (haltAt s c code pc data).core d = s.core d := by
  unfold haltAt
  obtain ⟨counts, e⟩ := haltCore_eq_hold code none (s.instrAddr c pc) data hn hj hk hh
  rw [e, State.setJob_core, State.modCore_eq, State.setCore_core_ne _ _ _ _ hd]
  unfold haltNoted
  rw [errRecord_core]
  unfold haltRecord
  split
  · exact pmJob_core _ _ _ _ _
  · rw [chSample_core, State.setCore_core_ne _ _ _ _ hd]
    exact pmJob_core _ _ _ _ _

/-- Settles O16. -/
theorem overrunsHoldsAndTimeouts : Obligations.OverrunsHoldsAndTimeouts := by
  refine ⟨?overrun, fun s core h => ?still, fun s core n j hst hn hj hk hc => ?timeout, fun s core h => ?notHeld⟩
  case overrun =>
    intro s core n j hst hh hp hn hj hk hc c lim recorded
    obtain ⟨u, hu⟩ : ∃ u, u = s.setCore c { s.core c with boundUsed := BitVec.ofNat 32 j.killLimit } := ⟨_, rfl⟩
    have huc : u.core c = { s.core c with boundUsed := BitVec.ofNat 32 j.killLimit } := by rw [hu, State.setCore_core]
    have hun : (u.core c).job = some n := by rw [huc]; exact hn
    have huj : u.job n = some j := by rw [hu]; exact hj
    have huo : Only [.cores] s u := by rw [hu]; exact State.setCore_only _ _ _
    have hhold : u.obs.hold = s.obs.hold := by rw [hu]; rfl
    obtain ⟨t, ht⟩ : ∃ t, t = haltAt u c Config.BOUND_OVERRUN (s.core c).lastFetch lim := ⟨_, rfl⟩
    have he : exec (.boundOverrun core) s = .next t := by
      rw [ht, hu]
      exact boundOverrun_eq hst hh hp hn hj
    have haddr : u.instrAddr c (s.core c).lastFetch = (s.gen j.gen).base + (s.core c).lastFetch := by
      unfold State.instrAddr
      simp only [hun, huj]
      rw [hu]
      rfl
    have hdone : HaltDone u t c n j Config.BOUND_OVERRUN ((s.gen j.gen).base + (s.core c).lastFetch) lim := by
      rw [ht, ← haddr]
      exact haltCore_done _ _ _ _ hun huj hk
    have hcores : CoresHalted u t := ht ▸ haltAt_coresHalted _ _ _ _ _
    have hrec : recorded t := by
      refine ⟨?_, hdone.valid, fun hv => ?_, fun hv => ?_, ?_⟩
      · rw [hcores c, huc]
      · have h := hdone.taken (by rw [huc]; exact hv)
        rw [huc] at h
        simp only [Core.haltRegs, Prod.mk.injEq] at h
        obtain ⟨-, hcode, hslot, hstation, haddr, hdata, -⟩ := h
        exact ⟨hcode, hslot, hstation, haddr, hdata⟩
      · have h := hdone.kept (by rw [huc]; exact hv)
        rw [huc] at h
        simp only [Core.haltRegs, Prod.mk.injEq] at h
        obtain ⟨-, hcode, -, -, haddr, hdata, -⟩ := h
        exact ⟨hcode, haddr, hdata⟩
      · rw [ht]
        exact (haltAt_only _ _ _ _ _).step (by decide) (huo.step (by decide) (.refl _ s))
    refine ⟨fun hb => ⟨t, he, hrec, ?_⟩, fun hb => ⟨t, he, hrec, ?_⟩⟩
    · obtain ⟨k, hkj, hkill, hcode, hdetail, hkilling, hkc, hkind, hkst⟩ :=
        hdone.killed (by rw [hhold]; exact hb) (List.ne_nil_of_mem hc)
      refine ⟨⟨k, hkj, hkill, hcode, hdetail, hkilling, hkc, hkind⟩, fun d hd => ⟨hkst d hd, ?_⟩⟩
      rw [hcores d]
      by_cases e : d = c
      · rw [e, huc]
      · rw [hu, State.setCore_core_ne _ _ _ _ e]
    · obtain ⟨hheld, counts, hjob⟩ := hdone.held (by rw [hhold]; exact hb)
      refine ⟨hheld, ?_, fun d hd => ?_, _, hjob, hk, rfl, rfl, rfl⟩
      · rw [hcores c, huc]
      · rw [ht, haltAt_hold_core _ _ _ hun huj hk (by rw [hhold]; exact hb) hd, hu, State.setCore_core_ne _ _ _ _ hd]
  case still =>
    show execBoundOverrun core s = _
    unfold execBoundOverrun
    refine if_neg ?_
    rintro ⟨h1, h2, h3⟩
    rcases h with h | h | h
    · exact h h1
    · rw [h2] at h; contradiction
    · rw [h3] at h; contradiction
  case timeout =>
    refine ⟨_, congrArg Host.Outcome.next (releaseHeld_of_held hst hn hj), ?_, fun d hd => killJob_st _ _ _ hj hk hd,
      (killJob_only _ _ _ _ _).step (by decide) (.refl _ s)⟩
    exact ⟨_, killJob_job _ _ _ hj ((Job.killable_iff _).2 ⟨hk, List.ne_nil_of_mem hc⟩), rfl, rfl, rfl, rfl⟩
  case notHeld => exact congrArg Host.Outcome.next (releaseHeld_of_not_held h)

end Sys2Proof.Machine
end

section
/-! SUPPORT. A refused admission (R26, R44), the tenant erase and the tamper alarm (R412, R413). -/

namespace Sys2Proof.Machine

/-! ## Tables filtered or mapped by their key -/

theorem tget_filter_key {α : Type} (d : α) (p : Nat → Bool) (l : List (Nat × α)) (k : Nat) :
    tget d (l.filter fun x => p x.1) k = if p k then tget d l k else d := by
  induction l with
  | nil => simp [tget]
  | cons x r ih =>
    obtain ⟨i, v⟩ := x
    by_cases hp : p i = true
    · rw [List.filter_cons_of_pos (by exact hp)]
      simp only [tget]
      by_cases h : i = k
      · subst h; simp [hp]
      · simp only [h, if_false, ih]
    · rw [List.filter_cons_of_neg (by exact hp), ih]
      simp only [tget]
      by_cases h : i = k
      · subst h; simp [hp]
      · simp only [h, if_false]

theorem tget_map_key {α : Type} (d : α) (g : Nat → α → α) (hd : ∀ k, g k d = d) (l : List (Nat × α)) (k : Nat) :
    tget d (l.map fun x => (x.1, g x.1 x.2)) k = g k (tget d l k) := by
  induction l with
  | nil => simp [tget, hd]
  | cons x r ih =>
    obtain ⟨i, v⟩ := x
    simp only [List.map_cons, tget]
    by_cases h : i = k
    · subst h; simp
    · simp only [h, if_false, ih]

theorem tfind_mem_entry {α : Type} (t : List (Nat × α)) (k : Nat) (v : α) (h : tfind t k = some v) : (k, v) ∈ t := by
  induction t with
  | nil => cases h
  | cons x r ih =>
    obtain ⟨i, w⟩ := x
    simp only [tfind] at h
    split at h
    · next e =>
      obtain rfl := Option.some.inj h
      rw [e]
      exact List.mem_cons_self
    · exact List.mem_cons_of_mem _ (ih h)

/-! ## Refusals -/

theorem auRefuse_au (s : State) (r : Refused) : (auRefuse s r).au = { s.au with
    state := .idle, cand := none, candPlace := none, candInflated := false, refused := true, lastCode := r.code,
    refusal := (auRefuse s r).au.refusal, deficit := BitVec.ofNat 48 r.deficit } ∧
    (auRefuse s r).au.refusal.code = r.code ∧ (auRefuse s r).au.refusal.station = BitVec.ofNat 16 r.station := by
  unfold auRefuse auRecord
  simp only [chSample_au, pmGlobal_au]
  exact ⟨trivial, trivial, trivial⟩

/-- A refusal of the admission of `s`, whose signature detail may have been noted before it. -/
theorem auRefuse_refuses (s : State) (detail : BitVec 5) (r : Refused) :
    Refuses s (auRefuse { s with au := { s.au with sigDetail := detail } } r) r.code r.station ∧
      (auRefuse { s with au := { s.au with sigDetail := detail } } r).au.sigDetail = detail ∧
      (auRefuse { s with au := { s.au with sigDetail := detail } } r).au.traceReq = s.au.traceReq := by
  obtain ⟨h, hcode, hstation⟩ := auRefuse_au { s with au := { s.au with sigDetail := detail } } r
  have ho := auRefuse_only { s with au := { s.au with sigDetail := detail } } r
  refine ⟨⟨by rw [h], by rw [h], by rw [h], by rw [h], by rw [h], hcode, hstation, by rw [h], by rw [h], by rw [h],
    ho.step (by decide) (Only.set_au (by decide) (.refl _ s))⟩, by rw [h], by rw [h]⟩

theorem traceSettle_of_not_held {s : State} (h : s.au.traceReq ≠ .held) : traceSettle s = s := by
  unfold traceSettle
  exact if_neg fun g => h g.1

/-! ## The tenant erase (R413) -/

section
variable (s : State) (all : Bool) (code : BitVec 16)

/-- The state in which keys and secrets are gone and the kills of the erase have yet to begin. -/
def erasedKeys : State :=
  let s := eraseKeys s fun i => all || i != 0
  let s := if all then { s with sec := { s.sec with importReady := false, importPriv := [], importPub := [] } } else s
  { s with sec := { s.sec with eraseBusy := true } }

/-- The state after the kills of the erase. -/
def eraseKilled : State :=
  let u := erasedKeys s all
  let l := u.jobs.filter fun j => j.2.isSealed && j.2.killable
  killJobs (l.foldl (fun s j => reportKill s j.2 code false) u) (l.map fun j => j.1) .fault code

theorem tenantErase_eq : tenantErase s all code =
    eraseSettle (if (eraseKilled s all code).sealedJobs then eraseKilled s all code else eraseShares (eraseKilled s all code)) := rfl

theorem eraseKilled_keeps : (eraseKilled s all code).sec = (erasedKeys s all).sec ∧
    (eraseKilled s all code).insts = (erasedKeys s all).insts := by
  have h : Only killGraphParts (erasedKeys s all) (eraseKilled s all code) := by
    unfold eraseKilled
    refine (killJobs_only _ _ _ _).step (by decide) ?_
    exact .foldl (fun u j => (reportKill_only _ _ _ _).step (by decide) (.refl _ u)) (.refl _ _)
  exact ⟨h .sec (by decide), h .insts (by decide)⟩

/-- What an erase leaves: its keys and secrets are gone, its jobs are being killed, and it is busy or over. -/
theorem tenantErase_spec : (∃ b, (tenantErase s all code).sec = { (erasedKeys s all).sec with eraseBusy := b }) ∧
    (tenantErase s all code).insts = (erasedKeys s all).insts ∧
    (tenantErase s all code).jobs = (eraseKilled s all code).jobs := by
  obtain ⟨hsec, hinsts⟩ := eraseKilled_keeps s all code
  rw [tenantErase_eq]
  obtain ⟨u, hu⟩ : ∃ u, u = if (eraseKilled s all code).sealedJobs then eraseKilled s all code
    else eraseShares (eraseKilled s all code) := ⟨_, rfl⟩
  have ho : Only [.cores] (eraseKilled s all code) u := by
    rw [hu]
    exact .ite (.refl _ _) (eraseShares_only _)
  rw [← hu]
  have hset := eraseSettle_only u
  refine ⟨?_, ?_, ?_⟩
  · have hsec' : u.sec = { (erasedKeys s all).sec with eraseBusy := u.sec.eraseBusy } := by
      rw [show u.sec = _ from ho .sec (by decide), hsec]
    unfold eraseSettle
    split
    · exact ⟨false, by dsimp only; rw [hsec']⟩
    · exact ⟨_, hsec'⟩
  · rw [show (eraseSettle u).insts = _ from hset .insts (by decide), show u.insts = _ from ho .insts (by decide), hinsts]
  · rw [show (eraseSettle u).jobs = _ from hset .jobs (by decide), show u.jobs = _ from ho .jobs (by decide)]

theorem erasedKeys_sec : (erasedKeys s all).sec = { s.sec with
    keys := (eraseKeys s fun i => all || i != 0).sec.keys, importReady := (!all && s.sec.importReady),
    importPriv := if all then [] else s.sec.importPriv, importPub := if all then [] else s.sec.importPub,
    eraseBusy := true } ∧ (erasedKeys s all).insts = (eraseKeys s fun i => all || i != 0).insts ∧
    (erasedKeys s all).jobs = s.jobs := by
  cases all <;> exact ⟨rfl, rfl, rfl⟩

/-- The key slots that an erase leaves (R413). -/
theorem eraseKeys_key (owner : Nat → Bool) (k : Nat) : tget none (eraseKeys s owner).sec.keys k =
    if (match s.keyOwner k with | some i => owner i | none => false) then none else tget none s.sec.keys k := by
  refine (tget_filter_key none (fun k => !(match s.keyOwner k with | some i => owner i | none => false)) s.sec.keys k).trans ?_
  cases (match s.keyOwner k with | some i => owner i | none => false) <;> simp

/-- The secrets of the instances that an erase reaches are gone. -/
theorem eraseKeys_inst (owner : Nat → Bool) (i : Nat) : (eraseKeys s owner).inst i =
    if owner i then { s.inst i with bound := false, bindDigest := 0#384, bindSecret := 0#384 } else s.inst i :=
  tget_map_key Inst.reset (fun n x => if owner n then { x with bound := false, bindDigest := 0#384, bindSecret := 0#384 } else x)
    (fun _ => ite_self _) s.insts i

/-- A job with a sealed share that stands on cores is being killed after the erase. -/
theorem tenantErase_kills {n : Nat} {j : Job} (hj : s.job n = some j) (hs : j.isSealed = true) (hc : j.cores ≠ []) :
    ∃ k, (tenantErase s all code).job n = some k ∧ k.kill ≠ none := by
  obtain ⟨-, -, hjobs⟩ := tenantErase_spec s all code
  have huj : (erasedKeys s all).job n = some j := by
    unfold State.job
    rw [(erasedKeys_sec s all).2.2]
    exact hj
  obtain ⟨u, hu⟩ : ∃ u, u = erasedKeys s all := ⟨_, rfl⟩
  rw [← hu] at huj
  obtain ⟨l, hl⟩ : ∃ l, l = u.jobs.filter fun j => j.2.isSealed && j.2.killable := ⟨_, rfl⟩
  obtain ⟨v, hv⟩ : ∃ v, v = l.foldl (fun s j => reportKill s j.2 code false) u := ⟨_, rfl⟩
  have he : eraseKilled s all code = killJobs v (l.map fun j => j.1) .fault code := by
    unfold eraseKilled
    rw [← hu, hv, hl]
  have hkills : Kills u (killJobs v (l.map fun j => j.1) .fault code) := by
    rw [hv]
    exact (Kills.foldl _ (fun s j => reportKill_kills s j.2 code false) l u).trans
      (Kills.foldl _ (fun s n => killJob_kills s n .fault code 0#64) _ _)
  have hkilled : Killed (killJobs v (l.map fun j => j.1) .fault code) n := by
    refine killJobs_killed v _ _ _ n ?_
    by_cases hk : j.kill = none
    · refine .inr (List.mem_map.2 ⟨(n, j), ?_, rfl⟩)
      rw [hl]
      refine List.mem_filter.2 ⟨tfind_mem_entry _ _ _ huj, ?_⟩
      rw [Bool.and_eq_true]
      exact ⟨hs, (Job.killable_iff j).2 ⟨hk, hc⟩⟩
    · refine .inl fun i hi _ => ?_
      have hreport : Kills u v := hv ▸ Kills.foldl _ (fun s j => reportKill_kills s j.2 code false) l u
      rw [hreport.job_of_killed huj (Option.isSome_iff_ne_none.2 hk)] at hi
      exact Option.some.inj hi ▸ hk
  have ht : (tenantErase s all code).job n = (killJobs v (l.map fun j => j.1) .fault code).job n := by
    unfold State.job
    rw [hjobs, he]
  rw [ht]
  rcases hkills.job n with h | ⟨j', i, hj', hi, -, hk, -⟩
  · rw [huj] at h
    exact ⟨j, h, hkilled j h hc⟩
  · exact ⟨i, hi, Option.isSome_iff_ne_none.1 hk⟩

/-- The tenant erase does what R413 says of it. -/
theorem tenantErase_erased : Erased s (tenantErase s all code) all := by
  obtain ⟨⟨b, hsec⟩, hinsts, -⟩ := tenantErase_spec s all code
  obtain ⟨ksec, kinsts, -⟩ := erasedKeys_sec s all
  have hkey (k : Nat) : (tenantErase s all code).keyLoaded k =
      (tget none (eraseKeys s fun i => all || i != 0).sec.keys k).isSome := by
    unfold State.keyLoaded
    rw [hsec, ksec]
  have hinst (i : Nat) : (tenantErase s all code).inst i = (eraseKeys s fun i => all || i != 0).inst i := by
    unfold State.inst
    rw [hinsts, kinsts]
  refine ⟨fun k i ho hi => ?_, fun k ho hall => ?_, fun i hi => ?_, fun n j hj hs hc => tenantErase_kills s all code hj hs hc,
    fun hall => ?_⟩
  · rw [hkey, eraseKeys_key, ho, if_pos (by simpa using hi)]
    rfl
  · rw [hkey, eraseKeys_key, ho, if_neg (by simp [hall])]
    rfl
  · rw [hinst, eraseKeys_inst, if_pos (by simpa using hi)]
    exact ⟨rfl, rfl, rfl⟩
  · rw [hsec, ksec, hall]
    rfl
end

/-! ## The alarm (R412) -/

/-- The record of an alarm, before its level acts. -/
def alarmNoted (s : State) (source : Nat) : State :=
  let level := s.alarmLevel source
  let s := tamperCount (pmGlobal s 22 1) source
  chSample { s with sec := { s.sec with lastSource := BitVec.ofNat 4 source, lastLevel := level } } 103

theorem alarmNoted_spec (s : State) (source : Nat) : (alarmNoted s source).sec = { s.sec with
      pending := s.sec.pending ||| BitVec.ofNat 5 (2 ^ source),
      counts := tput s.sec.counts source (satInc (tget 0#32 s.sec.counts source)),
      lastSource := BitVec.ofNat 4 source, lastLevel := s.alarmLevel source } ∧
    (alarmNoted s source).insts = s.insts ∧ (alarmNoted s source).jobs = s.jobs ∧ (alarmNoted s source).au = s.au ∧
    (alarmNoted s source).cores = s.cores := by
  unfold alarmNoted tamperCount
  simp only [chSample_sec, chSample_insts, chSample_jobs, chSample_au, chSample_cores, pmGlobal_sec, pmGlobal_insts, pmGlobal_jobs,
    pmGlobal_au, pmGlobal_cores]
  exact ⟨trivial, trivial, trivial, trivial, trivial⟩

theorem tamperApply_eq (s : State) (source : Nat) :
    tamperApply s source = tamperAct (alarmNoted s source) (s.alarmLevel source) (tamperCode source) := rfl

/-- What the level of an alarm leaves of the record. -/
theorem tamperAct_sec (s : State) (level : BitVec 2) (code : BitVec 16) :
    (tamperAct s level code).sec.pending = s.sec.pending ∧ (tamperAct s level code).sec.counts = s.sec.counts ∧
      (tamperAct s level code).sec.lastSource = s.sec.lastSource ∧ (tamperAct s level code).sec.lastLevel = s.sec.lastLevel := by
  have herase (all : Bool) : (tenantErase s all code).sec.pending = s.sec.pending ∧
      (tenantErase s all code).sec.counts = s.sec.counts ∧ (tenantErase s all code).sec.lastSource = s.sec.lastSource ∧
      (tenantErase s all code).sec.lastLevel = s.sec.lastLevel := by
    obtain ⟨⟨b, hsec⟩, -⟩ := tenantErase_spec s all code
    rw [hsec, (erasedKeys_sec s all).1]
    exact ⟨rfl, rfl, rfl, rfl⟩
  unfold tamperAct
  split
  · exact ⟨rfl, rfl, rfl, rfl⟩
  · unfold tamperLock
    dsimp only
    split
    · exact ⟨rfl, rfl, rfl, rfl⟩
    · rw [show (lockRefuse _).sec = _ from lockRefuse_only _ .sec (by decide)]
      exact ⟨rfl, rfl, rfl, rfl⟩
  · exact herase false
  · exact herase true

theorem tamperLock_spec (s : State) : (tamperLock s).sec = { s.sec with locked := true } ∧ (tamperLock s).insts = s.insts ∧
    (tamperLock s).jobs = s.jobs ∧ (tamperLock s).au.state = .idle := by
  unfold tamperLock
  dsimp only
  split
  · next h => exact ⟨rfl, rfl, rfl, h⟩
  · have ho := lockRefuse_only { s with sec := { s.sec with locked := true } }
    refine ⟨ho .sec (by decide), ho .insts (by decide), ho .jobs (by decide), ?_⟩
    unfold lockRefuse
    rw [(auRefuse_au _ _).1]

/-- A tamper alarm is counted and shown, and its level acts (R412, R413). -/
theorem tamperApply_alarmed (s : State) (source : Nat) : Alarmed s (tamperApply s source) source := by
  obtain ⟨hsec, hinsts, hjobs, hau, -⟩ := alarmNoted_spec s source
  obtain ⟨u, hu⟩ : ∃ u, u = alarmNoted s source := ⟨_, rfl⟩
  obtain ⟨hpending, hcounts, hsource, hlevel⟩ := tamperAct_sec u (s.alarmLevel source) (tamperCode source)
  rw [← hu] at hsec hinsts hjobs hau
  have hjob (n : Nat) : u.job n = s.job n := by unfold State.job; rw [hjobs]
  have howner (k : Nat) : u.keyOwner k = s.keyOwner k := by unfold State.keyOwner; rw [hinsts]
  have hloaded (k : Nat) : u.keyLoaded k = s.keyLoaded k := by unfold State.keyLoaded; rw [hsec]
  rw [tamperApply_eq, ← hu]
  refine ⟨?_, ?_, ?_, ?_, fun h => ?_, fun h => ?_, fun h => ?_⟩
  · rw [hpending, hsec]
  · rw [hcounts, hsec]
    exact tget_tput_self _ _ _ _
  · rw [hsource, hsec]
  · rw [hlevel, hsec]
  · rw [h, show tamperAct u 0#2 (tamperCode source) = u from rfl, hsec]
    exact ⟨rfl, rfl, hinsts, hjobs, hau⟩
  · rw [h, show tamperAct u 1#2 (tamperCode source) = tamperLock u from rfl]
    obtain ⟨lsec, linsts, ljobs, lau⟩ := tamperLock_spec u
    rw [lsec, hsec]
    exact ⟨rfl, rfl, linsts.trans hinsts, ljobs.trans hjobs, lau⟩
  · obtain ⟨all, hall, e⟩ : ∃ all, all = (s.alarmLevel source == 3#2) ∧
        tamperAct u (s.alarmLevel source) (tamperCode source) = tenantErase u all (tamperCode source) := by
      generalize s.alarmLevel source = level at h
      have : level = 2#2 ∨ level = 3#2 := by bv_omega
      rcases this with rfl | rfl
      · exact ⟨false, rfl, rfl⟩
      · exact ⟨true, rfl, rfl⟩
    rw [e, ← hall]
    obtain ⟨⟨b, esec⟩, -⟩ := tenantErase_spec u all (tamperCode source)
    obtain ⟨e1, e2, e3, e4, e5⟩ := tenantErase_erased u all (tamperCode source)
    refine ⟨?_, ?_, ?_, ?_, e3, ?_, e5⟩
    · rw [esec, (erasedKeys_sec u all).1, hsec]
    · exact (tenantErase_only u all (tamperCode source) .au (by decide)).trans hau
    · exact fun k i hk => e1 k i ((howner k).trans hk)
    · exact fun k hk ha => (e2 k ((howner k).trans hk) ha).trans (hloaded k)
    · exact fun n j hj => e4 n j ((hjob n).trans hj)

theorem tamperRaise_alarmed {s : State} (source : Nat) (h : s.portAlive = true) : Alarmed s (tamperRaise s source) source := by
  unfold tamperRaise
  rw [if_pos h]
  exact tamperApply_alarmed s source

end Sys2Proof.Machine
end

section
/-! SUPPORT. The admission unit: START and ABORT, the end of VERIFY and of PROVE (O10, O11). -/

namespace Sys2Proof.Machine

/-! ## START and ABORT (O10) -/

section
variable {s : State} {who : Who}

theorem exec_start (h : ManagerMay s who) : exec (.start who) s = .next (auStart s) :=
  congrArg Host.Outcome.next (hostWrite_may h AU_CMD false _ (by decide) rfl)

theorem exec_abort (h : ManagerMay s who) : exec (.abort who) s = .next (auAbort s) :=
  congrArg Host.Outcome.next (hostWrite_may h AU_CMD false _ (by decide) rfl)

theorem auStart_idle (hs : s.fr.stopped = false) (hi : s.au.state = .idle) : auStart s =
    if s.sec.locked then lockRefuse s
    else if s.au.imageLen.toNat < 4096 ∨ 268435456 < s.au.imageLen.toNat then auRefuseUnread s Config.IMAGE_MALFORMED
    else { s with au := { s.au with state := .verify, cand := none, candPlace := none, candInflated := false } } := by
  unfold auStart
  rw [if_neg (by simp [hs]), if_neg (by simp [hi])]
end

/-- A refusal that names no station, and that shows no signature step. -/
theorem auRefuseUnread_refuses (s : State) (code : BitVec 16) :
    Refuses s (auRefuseUnread s code) code 0xFFFF ∧ (auRefuseUnread s code).au.sigDetail = 0#5 := by
  obtain ⟨h, hdetail, -⟩ := auRefuse_refuses s 0#5 (refusedPlain code)
  exact ⟨h, hdetail⟩

/-- Settles O10. -/
theorem startAndAbort : Obligations.StartAndAbort := by
  intro s who hmay htrace
  have he := exec_start hmay
  refine ⟨fun hs hi hl hlo hhi => ?_, fun hs hi hl hlen => ?_, fun hs hi hl => ?_, fun hs hi => ?_, fun hs => ?_, ?_⟩
  · rw [he, auStart_idle hs hi, if_neg (by simp [hl]), if_neg (by omega)]
  · rw [auStart_idle hs hi, if_neg (by simp [hl]), if_pos hlen] at he
    exact ⟨_, he, auRefuseUnread_refuses s _⟩
  · rw [auStart_idle hs hi, if_pos hl] at he
    exact ⟨_, he, auRefuseUnread_refuses s _⟩
  · refine ⟨_, he, ?_⟩
    unfold auStart
    rw [if_neg (by simp [hs]), if_pos hi]
    exact chSample_reports _ _
  · rw [he, auStart, if_pos hs]
  · rw [exec_abort hmay]
    exact congrArg Host.Outcome.next (traceSettle_of_not_held htrace)

/-! ## What VERIFY reads -/

section
variable (s : State) (a : Au)

/-! What the layout check and the parse of an image read of a state is the same for every admission unit. -/

theorem readLE_au : ({ s with au := a } : State).readLE = s.readLE := rfl
theorem readBytes_au : ({ s with au := a } : State).readBytes = s.readBytes := rfl

theorem readImage_au (base len : Nat) : readImage { s with au := a } base len = readImage s base len := by
  have hdir : readDir { s with au := a } = readDir s := rfl
  have hpart : readPartition { s with au := a } = readPartition s := rfl
  have hwin : readWindow { s with au := a } = readWindow s := rfl
  have hstation : readStation { s with au := a } = readStation s := rfl
  have hedge : readEdge { s with au := a } = readEdge s := rfl
  have hcounter : readCounterDecl { s with au := a } = readCounterDecl s := rfl
  have hslot : readSlotDecl { s with au := a } = readSlotDecl s := rfl
  have hmirror : readMirror { s with au := a } = readMirror s := rfl
  unfold readImage
  rw [readLE_au, readBytes_au, hdir, hpart, hwin, hstation, hedge, hcounter, hslot, hmirror]

theorem badOrder_au (base sig pos : Nat) (d : List DirEntry) :
    badOrder { s with au := a } base sig pos d = badOrder s base sig pos d := by
  induction d generalizing pos with
  | nil => rfl
  | cons e r ih =>
    unfold badOrder
    rw [ih]
    rfl

theorem layoutFault_au (base : Nat) (g : Image) : layoutFault { s with au := a } base g = layoutFault s base g := by
  have hdir : readDir { s with au := a } = readDir s := rfl
  have hheader : badHeader { s with au := a } = badHeader s := rfl
  have hbeat : badBeat { s with au := a } = badBeat s := rfl
  have hpart : badPartition { s with au := a } = badPartition s := rfl
  have hwin : badWindow { s with au := a } = badWindow s := rfl
  have hstation : badStation { s with au := a } = badStation s := rfl
  have hedge : badEdge { s with au := a } = badEdge s := rfl
  have hcounter : badCounter { s with au := a } = badCounter s := rfl
  have hslot : badSlot { s with au := a } = badSlot s := rfl
  have hplan : badPlan { s with au := a } = badPlan s := rfl
  unfold layoutFault badLayout
  rw [readLE_au, hdir, hheader, hbeat, hpart, hwin, hstation, hedge, hcounter, hslot, hplan]
  simp only [badOrder_au]
end

/-! ## VERIFY (O11) -/

/-- The alarm of a unit that is idle leaves it so: its level refuses no admission. -/
theorem tamperRaise_au {s : State} (source : Nat) (hi : s.au.state = .idle) : (tamperRaise s source).au = s.au := by
  unfold tamperRaise
  split
  · obtain ⟨-, -, -, hau, -⟩ := alarmNoted_spec s source
    rw [tamperApply_eq, ← hau]
    unfold tamperAct
    split
    · rfl
    · unfold tamperLock
      dsimp only
      rw [if_pos (by rw [hau]; exact hi)]
    · exact tenantErase_only _ _ _ .au (by decide)
    · exact tenantErase_only _ _ _ .au (by decide)
  · rfl

theorem tamperRaise_counts (s : State) (source : Nat) :
    tget 0#32 (tamperRaise s source).sec.counts source = satInc (tget 0#32 s.sec.counts source) := by
  unfold tamperRaise
  split
  · exact (tamperApply_alarmed s source).2.1
  · exact tget_tput_self _ _ _ _

section
variable {s : State}

theorem exec_verifyDone (hv : s.au.state = .verify) (hfit : s.au.imageAddr.toNat + s.au.imageLen.toNat ≤ 2 ^ 48) :
    exec (.admissionVerifyDone ()) s = .next (auVerified s) := by
  show execAdmissionVerifyDone () s = _
  unfold execAdmissionVerifyDone
  rw [if_pos hv, if_pos hfit]

/-- The detail that the signature check of the image in VERIFY shows. -/
def State.verifyDetail (s : State) : BitVec 5 :=
  let base := s.au.imageAddr.toNat
  let len := s.au.imageLen.toNat
  let v := s.imageVerdict base len
  sigDetail (framingOk s base len 0x53474E4F true) (s.ownerSlot v.keyDigest).isSome v

/-- The end of VERIFY over an image that is not poisoned. -/
theorem auVerified_eq (hp : s.poisoned s.au.imageAddr.toNat s.au.imageLen.toNat = false) : auVerified s =
    let g := readImage s s.au.imageAddr.toNat s.au.imageLen.toNat
    let u : State := { s with au := { s.au with sigDetail := s.verifyDetail } }
    if s.verifyDetail ≠ 0#5 then traceSettle (tamperRaise (auRefuse u (refusedPlain Config.SIGNATURE_FAIL)) 1)
    else match layoutFault s s.au.imageAddr.toNat g with
      | some st => traceSettle (auRefuse u { refusedPlain Config.IMAGE_MALFORMED with station := st })
      | none => { u with au := { u.au with
          state := .prove, cand := some g,
          candSlot := BitVec.ofNat 2 ((s.ownerSlot (s.imageVerdict s.au.imageAddr.toNat s.au.imageLen.toNat).keyDigest).getD 0) } } := by
  unfold auVerified
  rw [if_neg (by simp [hp])]
  simp only [layoutFault_au, readImage_au]
  unfold State.verifyDetail
  dsimp only <;> cases layoutFault s s.au.imageAddr.toNat (readImage s s.au.imageAddr.toNat s.au.imageLen.toNat) <;> rfl
end

/-! ## PROVE (O11) -/

theorem shareResidency_keeps (s : State) : (shareResidency s).fuse = s.fuse ∧ (shareResidency s).tw = s.tw ∧
    (shareResidency s).obs = s.obs ∧ (shareResidency s).au.traceReq = s.au.traceReq := by
  have hd : Only [.freeCount] s (drawResidency s s.sharePlaces).2 := drawResidency_only _ _
  have ho : Only [.au, .auIdle, .freeCount] s (shareResidency s) := by
    unfold shareResidency
    exact Only.set_au (by decide) (hd.step (by decide) (.refl _ s))
  refine ⟨ho .fuse (by decide), ho .tw (by decide), ho .obs (by decide), ?_⟩
  have hau : (drawResidency s s.sharePlaces).2.au = s.au := hd .au (by decide)
  unfold shareResidency
  dsimp only
  rw [hau]

theorem auPlainChecks_residency (s : State) (g : Image) : auPlainChecks (shareResidency s) g = auPlainChecks s g := by
  obtain ⟨hfuse, htw, -⟩ := shareResidency_keeps s
  unfold auPlainChecks
  rw [hfuse, htw]

theorem exec_proveDone {s : State} {g : Image} (hp : s.au.state = .prove) (hc : s.au.cand = some g) :
    exec .admissionProveDone s = .next (auProved (shareResidency s) g) := by
  show execAdmissionProveDone s = _
  unfold execAdmissionProveDone
  simp only [hp, hc]

/-- A refusal while no trace request is held. -/
theorem traceSettle_refuses (s : State) (r : Refused) (h : s.au.traceReq ≠ .held) :
    Refuses s (traceSettle (auRefuse s r)) r.code r.station := by
  obtain ⟨hr, -, htrace⟩ := auRefuse_refuses s s.au.sigDetail r
  rw [show traceSettle (auRefuse s r) = auRefuse s r from traceSettle_of_not_held (by rw [← htrace] at h; exact h)]
  exact hr

/-- Settles O11. -/
theorem verifyAndProve : Obligations.VerifyAndProve := by
  refine ⟨?verify, ?prove, fun s h => if_neg h, fun s h => ?notProve⟩
  case verify =>
    intro s hv hfit htrace base len v detail
    have he := exec_verifyDone hv hfit
    refine ⟨fun hp => ?_, fun hp hd => ?_, fun hp hd st hl => ?_, fun hp hd hl => ?_⟩
    · obtain ⟨hr, hdetail, htr⟩ := auRefuse_refuses s 0#5 (refusedPlain Config.MEM_POISON)
      refine ⟨_, he, ?_⟩
      unfold auVerified
      rw [if_pos hp, traceSettle_of_not_held (by unfold auRefuseUnread; rw [htr]; exact htrace)]
      exact ⟨hr, hdetail⟩
    · obtain ⟨⟨h1, h2, h3, h4, h5, h6, h7, h8, h9, h10, ho⟩, hdetail, htr⟩ :=
        auRefuse_refuses s detail (refusedPlain Config.SIGNATURE_FAIL)
      obtain ⟨u, hu⟩ : ∃ u, u = auRefuse { s with au := { s.au with sigDetail := detail } } (refusedPlain Config.SIGNATURE_FAIL) :=
        ⟨_, rfl⟩
      rw [← hu] at h1 h2 h4 h5 ho hdetail htr
      have hau := tamperRaise_au 1 h1
      have e : auVerified s = tamperRaise u 1 := by
        rw [auVerified_eq hp]
        dsimp only
        rw [if_pos (show s.verifyDetail ≠ 0#5 from hd), show s.verifyDetail = detail from rfl, ← hu,
          traceSettle_of_not_held (by rw [hau, htr]; exact htrace)]
      have hto := (tamperRaise_only u 1).step (l := [.au, .run, .insts, .jobs, .cores, .sec, .chime, .obs, .freeCount, .auIdle])
        (by decide) (ho.step (by decide) (.refl _ s))
      refine ⟨_, he, ?_⟩
      rw [e]
      refine ⟨?_, ?_, ?_, ?_, ?_, ?_, hto .mem (by decide), hto .esc (by decide), hto .counters (by decide)⟩
      · rw [hau, h1]
      · rw [hau, h2]
      · rw [hau, h4]
      · rw [hau, h5]; rfl
      · rw [hau, hdetail]
      · rw [tamperRaise_counts, show u.sec = s.sec from ho .sec (by decide)]
    · obtain ⟨hr, hdetail, htr⟩ := auRefuse_refuses s 0#5 { refusedPlain Config.IMAGE_MALFORMED with station := st }
      have hd' : s.verifyDetail = 0#5 := hd
      have e : auVerified s = auRefuse { s with au := { s.au with sigDetail := 0#5 } }
          { refusedPlain Config.IMAGE_MALFORMED with station := st } := by
        rw [auVerified_eq hp]
        dsimp only
        rw [if_neg (not_not.2 hd'), hd', show layoutFault s _ _ = some st from hl]
        exact traceSettle_of_not_held (by rw [htr]; exact htrace)
      exact ⟨_, he, e ▸ ⟨hr, hdetail⟩⟩
    · have hd' : s.verifyDetail = 0#5 := hd
      rw [he, auVerified_eq hp]
      dsimp only
      rw [if_neg (not_not.2 hd'), hd', show layoutFault s _ _ = none from hl]
  case prove =>
    intro s g hp hc htrace u
    have he := exec_proveDone hp hc
    obtain ⟨-, -, hobs, htr⟩ := shareResidency_keeps s
    have hplain := auPlainChecks_residency s g
    have htrace' : u.au.traceReq ≠ .held := by rw [htr]; exact htrace
    refine ⟨fun hrange => ?_, fun hok r hpl => ?_, fun hok hinf pl hpl => ?_⟩
    · refine ⟨_, he, ?_⟩
      have h : auPlainChecks (shareResidency s) g = some (refusedPlain Config.BEAT_RANGE) := by
        unfold auPlainChecks
        exact if_pos hrange
      unfold auProved
      rw [h]
      exact traceSettle_refuses u _ htrace'
    · refine ⟨_, he, ?_⟩
      unfold auProved
      rw [hplain, hok]
      dsimp only
      rw [show placeImage (shareResidency s) g = _ from hpl]
      exact traceSettle_refuses u _ htrace'
    · have hinf' : (shareResidency s).inflating = false := by
        unfold State.inflating at hinf ⊢
        rw [hobs, htr]
        exact hinf
      rw [he]
      unfold auProved
      rw [hplain, hok]
      dsimp only
      rw [show placeImage (shareResidency s) g = _ from hpl]
      dsimp only
      rw [if_neg (by simp [hinf'])]
  case notProve =>
    show execAdmissionProveDone s = _
    unfold execAdmissionProveDone
    split
    · contradiction
    · rfl

end Sys2Proof.Machine
end

section
/-! SUPPORT. The beat edge and the swap (O12). -/

namespace Sys2Proof.Machine

/-! ## What the running image shows -/

/-- A view of the running image is as it was. -/
def RunShows {γ : Type} (p : Running → γ) (s t : State) : Prop := t.run.map p = s.run.map p

section
variable {γ : Type} {p : Running → γ} {s t u : State}

theorem RunShows.of_run (h : t.run = s.run) : RunShows p s t := congrArg _ h

theorem RunShows.trans (h : RunShows p s t) (g : RunShows p t u) : RunShows p s u := Eq.trans g h

theorem RunShows.foldl {α : Type} {f : State → α → State} (h : ∀ s x, RunShows p s (f s x)) (l : List α) (s : State) :
    RunShows p s (l.foldl f s) := by
  induction l generalizing s with
  | nil => exact .of_run rfl
  | cons x l ih => exact (h s x).trans (ih _)

theorem modRun_runShows (f : Running → Running) (h : ∀ r, p (f r) = p r) (s : State) : RunShows p s (s.modRun f) := by
  unfold RunShows State.modRun
  dsimp only
  rw [Option.map_map]
  exact congrArg (Option.map · s.run) (funext h)

theorem killGraph_runShows (h : ∀ r l, p { r with killedGraphs := l } = p r) (s : State) (g : Nat) (code : BitVec 16) :
    RunShows p s (killGraph s g code) := by
  unfold killGraph
  refine RunShows.trans (.of_run ?_) ((modRun_runShows _ (fun r => h r _) (pmGlobal s 15 1)).trans (.foldl (fun s n => ?_) _ _))
  · exact pmGlobal_only s 15 1 .run (by decide)
  · exact .of_run (coKill_only s n code .run (by decide))

theorem killJob_runShows (h : ∀ r l, p { r with killedGraphs := l } = p r) (s : State) (n : Nat) (why : KillWhy)
    (code : BitVec 16) (detail : W64) : RunShows p s (killJob s n why code detail) := by
  have hone : RunShows p s (killOne s n why code detail false) := .of_run (killOne_only _ _ _ _ _ _ .run (by decide))
  unfold killJob
  split
  · exact .of_run rfl
  · split
    · exact .of_run rfl
    · dsimp only
      split
      · exact hone
      · split
        · exact hone.trans (killGraph_runShows h _ _ _)
        · exact hone

theorem overrunJob_runShows (h : ∀ r l, p { r with killedGraphs := l } = p r) (s : State) (n : Nat) :
    RunShows p s (overrunJob s n) := by
  unfold overrunJob
  split
  · exact .of_run rfl
  · next j _ =>
    split
    · exact .of_run rfl
    · have hrec : RunShows p s (errRecord (pmGlobal s 19 1) 2 (some 9) j.cores.head? (some j.part) Config.BOUND_OVERRUN 0) :=
        .of_run ((errRecord_only _ _ _ _ _ _ _ .run (by decide)).trans (pmGlobal_only s 19 1 .run (by decide)))
      dsimp only
      split
      · exact hrec
      · exact (hrec.trans (.of_run (reportKill_only _ _ _ _ .run (by decide)))).trans (killJob_runShows h _ _ _ _ _)

/-- The end of a window changes of the running image its open windows, those passed over and the killed graphs. -/
theorem closeWindow_runShows (h : ∀ r l, p { r with killedGraphs := l } = p r)
    (hw : ∀ r a b, p { r with openWin := a, passed := b } = p r) (s : State) (x w : Nat) : RunShows p s (closeWindow s x w) := by
  unfold closeWindow
  extract_lets s1 s2 s3
  have h1 : RunShows p s s1 := .foldl (overrunJob_runShows h) _ s
  have h2 : RunShows p s1 s2 := .foldl (f := fun s c => s.modCore c Core.closeLanes) (fun u c => .of_run rfl) _ s1
  have h3 : RunShows p s s3 := (h1.trans h2).trans (modRun_runShows _ (fun r => hw r _ _) s2)
  split
  · exact h3
  · split
    · exact h3.trans (.of_run (twComplete_only _ _ .run (by decide)))
    · exact h3

theorem closeWindows_runShows (h : ∀ r l, p { r with killedGraphs := l } = p r)
    (hw : ∀ r a b, p { r with openWin := a, passed := b } = p r) (s : State) : RunShows p s (closeWindows s) := by
  unfold closeWindows
  split
  · exact .of_run rfl
  · exact .foldl (f := fun s (x : Nat × Nat) => closeWindow s x.1 x.2) (fun s x => closeWindow_runShows h hw s x.1 x.2) _ s

theorem bindNow_runShows (h : ∀ r b, p { r with bindings := b } = p r) (s : State) (q : Nat) (c : Cmd) (handle slot : W32) :
    RunShows p s (bindNow s q c handle slot) := by
  have hcmd (u : State) (code : BitVec 16) : RunShows p u (completeCmd u q c.seqNo code false 0#64) :=
    .of_run (completeCmd_only _ _ _ _ _ _ .run (by decide))
  unfold bindNow
  dsimp only
  split
  · exact hcmd _ _
  · split
    · exact hcmd _ _
    · split
      · refine RunShows.trans ?_ (hcmd _ _)
        refine RunShows.trans ?_ (.of_run (boundFlags_only _ .run (by decide)))
        exact modRun_runShows _ (fun r => h r _) { s with basin := tdel s.basin slot.toNat }
      · exact hcmd _ _

/-- The bindings that an edge drops and makes are all that it changes of the running image. -/
theorem edgeBinds_runShows (h : ∀ r b, p { r with bindings := b } = p r) (s : State) :
    RunShows p s (applyBinds (dropBinds s)) := by
  refine RunShows.trans (t := dropBinds s) ?_ ?_
  · unfold dropBinds
    extract_lets gone dropped s1
    exact (modRun_runShows _ (fun r => h r _) s).trans (.of_run (boundFlags_only _ .run (by decide)))
  · unfold applyBinds
    refine .foldl (fun s x => ?_) _ _
    split
    · exact bindNow_runShows h _ _ _ _ _
    · exact .of_run rfl
end

/-! ## The swap -/

theorem fillResidency_au (s : State) (g : Image) (pl : Placement) :
    (fillResidency s g pl).au.traceReq = s.au.traceReq ∧ (fillResidency s g pl).au.activeBeat = s.au.activeBeat := by
  have hd (l : List (Nat × Bool × Nat × Nat)) (u : State) : (drawResidency u l).2.au = u.au :=
    drawResidency_only u l .au (by decide)
  unfold fillResidency shareResidency
  dsimp only
  rw [hd]
  dsimp only
  rw [hd]
  exact ⟨rfl, rfl⟩

/-- What the swap to an image leaves (R88, R93). -/
theorem swapTo_spec (s : State) (g : Image) (pl : Placement) (beat : BitVec 48) :
    let t := swapTo s g pl beat
    (∃ r, t.run = some r ∧ r.img = g ∧ r.place = pl ∧ r.beat = []) ∧
      t.esc = { s.esc with periodUs := BitVec.ofNat 17 g.periodUs, capDw := BitVec.ofNat 12 g.capDw, swapBeat := true } ∧
      t.sec.levels = g.tamper ∧ t.au.state = .idle ∧ t.au.admitted = true ∧ t.au.lastCode = Config.NONE ∧
      t.au.activeBeat = beat ∧ t.au.traceReq = s.au.traceReq := by
  unfold swapTo
  extract_lets b kept changed decls ctrKept binds lostMirror cleared held s1 e q s2 s3 s4 w s5 a s6 t x
  have h1 : Only [.queues, .counters, .kp, .gens, .cores] s s1 :=
    (swapGens_only _ _).step (by decide) ((swapCounters_only _ _).step (by decide) (.refl _ s))
  have hrun : ∃ r, s2.run = some r ∧ r.img = g ∧ r.place = pl ∧ r.beat = [] := ⟨_, rfl, rfl, rfl, rfl⟩
  have hesc : s2.esc = { s.esc with periodUs := BitVec.ofNat 17 g.periodUs, capDw := BitVec.ofNat 12 g.capDw, swapBeat := true } := by
    rw [← (h1 .esc (by decide) : s1.esc = s.esc)]
  have hlevels : s2.sec.levels = g.tamper := rfl
  have hau : s2.au = s.au := h1 .au (by decide)
  clear_value s2
  have h3 : Only [.cores] s2 s3 := .foldl (fun u c => State.modCore_only _ _ _) (.refl _ s2)
  have hq : Only [.cores, .objs, .shares, .queues, .chime, .obs] s2 (swapQueues (replaceShares (boundFlags s3) g kept) held) :=
    (swapQueues_only _ _).step (by decide) ((replaceShares_only _ _ _).step (by decide)
      ((boundFlags_only _).step (by decide) (h3.step (by decide) (.refl _ s2))))
  have h4 : Only [.cores, .objs, .shares, .queues, .chime, .obs, .au, .auIdle, .freeCount] s2 s4 :=
    (fillResidency_only _ _ _).step (by decide) (hq.step (by decide) (.refl _ s2))
  have htrace : s4.au.traceReq = s.au.traceReq := by
    rw [← hau, ← (hq .au (by decide) : _ = s2.au)]
    exact (fillResidency_au _ _ _).1
  clear_value s4
  have h5 : Only [.tw] s4 s5 := .ite (Only.set_tw (by decide) (.refl _ _)) (.refl _ _)
  have hau5 : s5.au = s4.au := h5 .au (by decide)
  clear_value s5
  have h6 : Only [.cores, .objs, .shares, .queues, .chime, .obs, .au, .auIdle, .freeCount, .tw] s2 s6 :=
    Only.set_au (by decide) (h5.step (by decide) (h4.step (by decide) (.refl _ s2)))
  have hset : s6.au.state = .idle ∧ s6.au.admitted = true ∧ s6.au.lastCode = Config.NONE ∧ s6.au.activeBeat = beat ∧
      s6.au.traceReq = s.au.traceReq := ⟨rfl, rfl, rfl, rfl, by rw [← htrace, ← hau5]⟩
  clear_value s6
  have ho : Only pumpAllParts s6 (chSample (pumpAll (poolSettle s6)) 96) :=
    (chSample_only _ _).step (by decide) ((pumpAll_only _).step (by decide) ((poolSettle_only _).step (by decide) (.refl _ s6)))
  have hend : t.au = s6.au := ho .auIdle (by decide) hset.1
  have hkeep : t.run = s2.run ∧ t.esc = s2.esc ∧ t.sec = s2.sec :=
    ⟨(ho .run (by decide)).trans (h6 .run (by decide)), (ho .esc (by decide)).trans (h6 .esc (by decide)),
      (ho .sec (by decide)).trans (h6 .sec (by decide))⟩
  obtain ⟨krun, kesc, ksec⟩ := hkeep
  rw [krun, kesc, ksec, hend]
  exact ⟨hrun, hesc, hlevels, hset⟩

/-! ## The edge -/

/-- The edge after its swap: trace, bindings, the twin, and a trace request that was held (R43). -/
def edgeEnd (s : State) : State := traceSettle (twHandover (twHeldYield (twAlign (applyBinds (dropBinds (traceEdge s))))))

/-- The swap of an edge, where an image stands ARMED. -/
def EdgeSwaps (u v : State) : Prop :=
  (v = u ∧ ¬∃ g pl, u.au.state = .armed ∧ u.au.cand = some g ∧ u.au.candPlace = some pl) ∨
    ∃ g pl, u.au.state = .armed ∧ u.au.cand = some g ∧ u.au.candPlace = some pl ∧ v = swapTo u g pl u.esc.beatCount

theorem beatEdge_eq (s : State) :
    ∃ v, EdgeSwaps (newBeat ((List.range 8).foldl latchReport s)) v ∧ beatEdge s = edgeEnd v := by
  unfold beatEdge
  dsimp only
  generalize newBeat ((List.range 8).foldl latchReport s) = u
  split
  · next g pl ha hc hp => exact ⟨_, .inr ⟨g, pl, ha, hc, hp, rfl⟩, rfl⟩
  · next h => exact ⟨_, .inl ⟨rfl, fun ⟨g, pl, ha, hc, hp⟩ => h g pl ha hc hp⟩, rfl⟩

theorem edgeEnd_only (s : State) : Only [.au, .obs, .obsCfg, .auIdle, .run, .basin, .objs, .writes, .mem, .poison, .pool, .gens,
    .ctxs, .queues, .insts, .rgParts, .fr, .chime, .freeCount, .tw, .links] s (edgeEnd s) :=
  (traceSettle_only _).step (by decide) ((twHandover_only _).step (by decide) ((twHeldYield_only _).step (by decide)
    ((twAlign_only _).step (by decide) ((applyBinds_only _).step (by decide) ((dropBinds_only _).step (by decide)
      ((traceEdge_only _).step (by decide) (.refl _ s)))))))

theorem edgeEnd_runShows {γ : Type} {p : Running → γ} (h : ∀ r b, p { r with bindings := b } = p r) (s : State) :
    RunShows p s (edgeEnd s) := by
  have h1 : RunShows p s (traceEdge s) := .of_run (traceEdge_only s .run (by decide))
  refine (h1.trans (edgeBinds_runShows h (traceEdge s))).trans (.of_run ?_)
  exact ((traceSettle_only _).step (by decide) ((twHandover_only _).step (by decide) ((twHeldYield_only _).step (by decide)
    ((twAlign_only _).step (by decide) (.refl [.tw, .chime, .obs, .links, .au, .obsCfg, .auIdle] _))))) .run (by decide)

/-- An idle unit stays as it is through the rest of the edge, but for its trace request. -/
theorem edgeEnd_au {s : State} (hi : s.au.state = .idle) (ht : s.au.traceReq ≠ .held) :
    (edgeEnd s).au.state = .idle ∧ (edgeEnd s).au.admitted = s.au.admitted ∧ (edgeEnd s).au.lastCode = s.au.lastCode ∧
      (edgeEnd s).au.activeBeat = s.au.activeBeat := by
  have hedge : (traceEdge s).au.state = s.au.state ∧ (traceEdge s).au.admitted = s.au.admitted ∧
      (traceEdge s).au.lastCode = s.au.lastCode ∧ (traceEdge s).au.activeBeat = s.au.activeBeat ∧
      (traceEdge s).au.traceReq ≠ .held := by
    unfold traceEdge
    dsimp only
    split
    · exact ⟨rfl, rfl, rfl, rfl, nofun⟩
    · exact ⟨rfl, rfl, rfl, rfl, nofun⟩
    · exact ⟨rfl, rfl, rfl, rfl, ht⟩
  obtain ⟨hstate, hadm, hcode, hbeat, htr⟩ := hedge
  obtain ⟨u, hu⟩ : ∃ u, u = twHandover (twHeldYield (twAlign (applyBinds (dropBinds (traceEdge s))))) := ⟨_, rfl⟩
  have hkeep : u.au = (traceEdge s).au := by
    have ho : Only [.writes, .mem, .poison, .au, .run, .basin, .pool, .gens, .objs, .ctxs, .queues, .insts, .rgParts, .fr, .chime,
        .obs, .freeCount, .tw, .links] (traceEdge s) u := by
      rw [hu]
      exact (twHandover_only _).step (by decide) ((twHeldYield_only _).step (by decide) ((twAlign_only _).step (by decide)
        ((applyBinds_only _).step (by decide) ((dropBinds_only _).step (by decide) (.refl _ _)))))
    exact ho .auIdle (by decide) (hstate.trans hi)
  have he : edgeEnd s = u := by
    rw [hu]
    exact traceSettle_of_not_held (by rw [← hu, hkeep]; exact htr)
  rw [he, hkeep]
  exact ⟨hstate.trans hi, hadm, hcode, hbeat⟩

theorem newBeat_counter (s : State) (n : Nat) :
    ∃ killed, (newBeat s).counter n = (s.counter n).atBeat killed := by
  obtain ⟨killed, hk⟩ : ∃ killed : List Nat, killed = match s.run with | some r => r.killedGraphs | none => [] := ⟨_, rfl⟩
  refine ⟨killed, ?_⟩
  have h := tget_map_key Counter.reset (fun _ c => c.atBeat killed) (fun _ => rfl) s.counters n
  rw [hk] at h ⊢
  exact h

theorem latchReports_only (s : State) (l : List Nat) : Only latchReportParts s (l.foldl latchReport s) :=
  .foldl (fun s p => latchReport_only s p) (.refl _ s)

/-- What a beat edge of a running block begins with: the count, the reports and the new beat. -/
theorem edgeBegin_spec (s : State) :
    let u := newBeat ((List.range 8).foldl latchReport (escBeat (closeWindows s)))
    u.esc = { s.esc with beatCount := s.esc.beatCount + 1#48, beatTime := s.esc.time, pauseSeen := 0#8, swapBeat := false } ∧
      u.au = s.au ∧ (∀ r, u.run = some r → r.beat = []) ∧ RunShows (fun r => (r.img, r.place)) s u ∧
      ∀ n, ∃ killed, u.counter n = (s.counter n).atBeat killed := by
  intro u
  obtain ⟨v, hv⟩ : ∃ v, v = (List.range 8).foldl latchReport (escBeat (closeWindows s)) := ⟨_, rfl⟩
  have hc := closeWindows_only s
  have hvo : Only [.run, .jobs, .cores, .tw, .fr, .chime, .obs, .freeCount, .rgParts, .esc] s v := by
    rw [hv]
    exact (latchReports_only _ _).step (by decide) ((escBeat_only _).step (by decide) (hc.step (by decide) (.refl _ s)))
  have hesc : v.esc = { s.esc with beatCount := s.esc.beatCount + 1#48, beatTime := s.esc.time } := by
    have hl : v.esc = (escBeat (closeWindows s)).esc := hv ▸ latchReports_only _ _ .esc (by decide)
    rw [hl, ← (hc .esc (by decide) : (closeWindows s).esc = s.esc)]
    exact (traceKeeper_only _ _ _) .esc (by decide)
  have hrun : RunShows (fun r => (r.img, r.place)) s v := by
    rw [hv]
    refine (closeWindows_runShows (fun _ _ => rfl) (fun _ _ _ => rfl) s).trans (.of_run ?_)
    exact ((latchReports_only _ _).step (by decide) ((escBeat_only _).step (by decide) (.refl [.esc, .obs, .rgParts, .chime] _)))
      .run (by decide)
  have hu : u = newBeat v := by rw [hv]
  rw [hu]
  refine ⟨?_, hvo .au (by decide), fun r hr => ?_, ?_, fun n => ?_⟩
  · rw [show (newBeat v).esc = { v.esc with pauseSeen := 0#8, swapBeat := false } from rfl, hesc]
  · obtain ⟨x, -, rfl⟩ := Option.map_eq_some_iff.1 hr
    rfl
  · refine hrun.trans ?_
    exact congrArg (· v.run) (funext fun o => by cases o <;> rfl :
      (fun o : Option Running => (o.map fun r : Running => { r with changedNow := [], beat := [], killedGraphs := [], passed := [] }).map
        fun r => (r.img, r.place)) = Option.map fun r => (r.img, r.place))
  · obtain ⟨killed, hk⟩ := newBeat_counter v n
    refine ⟨killed, hk.trans ?_⟩
    unfold State.counter
    rw [hvo .counters (by decide)]

/-- Settles O12. -/
theorem beatsCountAndSwap : Obligations.BeatsCountAndSwap := by
  unfold Obligations.BeatsCountAndSwap
  intro swapped
  refine ⟨fun s h => ?stopped, fun s hr hp h => ?counts, fun s hr hrun hs => ?edge, fun s g pl hr ha hc hp hh hs ht => ?first,
    fun s hr => ?running⟩
  case stopped =>
    refine congrArg Host.Outcome.next (if_neg ?_)
    rcases h with h | h <;> simp [h]
  case counts =>
    have e : exec .beat s = .next (escBeat s) := by
      refine congrArg Host.Outcome.next ((if_pos (by simp [hr, hp])).trans ?_)
      unfold beatNow
      rcases h with h | h <;> simp [h]
    exact ⟨_, e, traceKeeper_reports _ _ _⟩
  case edge =>
    obtain ⟨hp, hh⟩ := hrun
    obtain ⟨u, hu⟩ : ∃ u, u = newBeat ((List.range 8).foldl latchReport (escBeat (closeWindows s))) := ⟨_, rfl⟩
    obtain ⟨hesc, hau, hbeat, hshow, hctr⟩ := edgeBegin_spec s
    rw [← hu] at hesc hau hbeat hshow hctr
    have e : exec .beat s = .next (beatEdge (escBeat (closeWindows s))) := by
      refine congrArg Host.Outcome.next ((if_pos (by simp [hr, hp])).trans ?_)
      unfold beatNow
      simp [hh, hs]
    refine ⟨_, e, ?_⟩
    obtain ⟨v, hv, hev⟩ := beatEdge_eq (escBeat (closeWindows s))
    have hfr := exec_only .beat s _ e
    rw [hev] at hfr ⊢
    rw [← hu] at hv
    have hend := edgeEnd_only v
    have hendesc : (edgeEnd v).esc = v.esc := hend .esc (by decide)
    have hvesc : v.esc.beatCount = u.esc.beatCount ∧ v.esc.beatTime = u.esc.beatTime ∧ v.esc.time = u.esc.time ∧
        v.esc.pauseSeen = u.esc.pauseSeen ∧ ∀ r, v.run = some r → r.beat = [] := by
      rcases hv with ⟨rfl, -⟩ | ⟨g, pl, -, -, -, rfl⟩
      · exact ⟨rfl, rfl, rfl, rfl, hbeat⟩
      · obtain ⟨⟨r, hrun, -, -, hb⟩, hesc, -⟩ := swapTo_spec u g pl u.esc.beatCount
        rw [hesc, hrun]
        exact ⟨rfl, rfl, rfl, rfl, fun x hx => Option.some.inj hx ▸ hb⟩
    obtain ⟨h1, h2, h3, h4, h5⟩ := hvesc
    rw [hendesc, h1, h2, h3, h4, hesc]
    refine ⟨rfl, rfl, rfl, rfl, fun r hr => ?_, fun hna => ?_, fun g pl ha hc hpl ht => ?_, hfr⟩
    · have hsh := edgeEnd_runShows (p := fun r => r.beat) (fun _ _ => rfl) v
      unfold RunShows at hsh
      rw [hr] at hsh
      obtain ⟨x, hx, hxb⟩ := Option.map_eq_some_iff.1 hsh.symm
      exact hxb.symm.trans (h5 x hx)
    · have hvu : v = u := by
        rcases hv with ⟨h, -⟩ | ⟨g, pl, ha, -⟩
        · exact h
        · exact absurd (hau ▸ ha) hna
      rw [hvu, hesc]
      refine ⟨rfl, rfl, ?_, fun n hk hf => ?_⟩
      · exact hshow.trans (edgeEnd_runShows (p := fun r => (r.img, r.place)) (fun _ _ => rfl) u)
      · obtain ⟨killed, hn⟩ := hctr n
        have he : (edgeEnd u).counter n = (s.counter n).atBeat killed := by
          rw [← hn]
          unfold State.counter
          rw [edgeEnd_only u .counters (by decide)]
        have hfree : (s.counter n).state ≠ .free := by rw [hf]; exact nofun
        rw [he]
        unfold Counter.atBeat
        rw [if_pos ⟨hk, hfree, .inl hf⟩]
        exact ⟨rfl, rfl⟩
    · have hvs : v = swapTo u g pl u.esc.beatCount := by
        rcases hv with ⟨-, h⟩ | ⟨g', pl', -, hc', hpl', h⟩
        · exact absurd ⟨g, pl, hau ▸ ha, hau ▸ hc, hau ▸ hpl⟩ h
        · rw [hau, hc] at hc'
          rw [hau, hpl] at hpl'
          rw [h, Option.some.inj hc', Option.some.inj hpl']
      obtain ⟨⟨r, hrun, himg, hplace, -⟩, hsesc, hlev, hidle, hadm, hcode, hact, htr⟩ := swapTo_spec u g pl u.esc.beatCount
      rw [← hvs] at hrun hsesc hlev hidle hadm hcode hact htr
      obtain ⟨ei, ea, ec, eb⟩ := edgeEnd_au hidle (by rw [htr, hau]; exact ht)
      have hsh := edgeEnd_runShows (p := fun r => (r.img, r.place)) (fun _ _ => rfl) v
      unfold RunShows at hsh
      rw [hrun] at hsh
      obtain ⟨x, hx, hxb⟩ := Option.map_eq_some_iff.1 hsh
      obtain ⟨hxi, hxp⟩ := Prod.mk.inj hxb
      have hsec : (edgeEnd v).sec = v.sec := hend .sec (by decide)
      refine ⟨⟨x, hx, hxi.trans himg, hxp.trans hplace⟩, ?_, ?_, ?_, ei, ea.trans hadm, ec.trans hcode, eb.trans ?_⟩
      · rw [hendesc, hsesc]
      · rw [hendesc, hsesc]
      · rw [hsec, hlev]
      · rw [hact, hesc]
  case first =>
    obtain ⟨u, hu⟩ : ∃ u, u = traceKeeper { s with
      frozen := true, esc := { s.esc with running := true, beatCount := 0#48, beatTime := s.esc.time, pauseSeen := 0#8 } } 0x10
        (leBytes 6 0) := ⟨_, rfl⟩
    have huo := traceKeeper_only { s with
      frozen := true, esc := { s.esc with running := true, beatCount := 0#48, beatTime := s.esc.time, pauseSeen := 0#8 } } 0x10
        (leBytes 6 0)
    rw [← hu] at huo
    obtain ⟨⟨r, hrun, himg, hplace, -⟩, hesc, hlev, hidle, hadm, hcode, hact, htr⟩ := swapTo_spec u g pl 0#48
    have huau : u.au = s.au := huo .au (by decide)
    have huesc : u.esc = _ := huo .esc (by decide)
    have e : exec .firstImageSwap s = .next (swapTo u g pl 0#48) := by
      show execFirstImageSwap s = _
      unfold execFirstImageSwap
      simp only [hr, ha, hc, hp, hh, hs, Bool.or_self, Bool.false_eq_true, if_false]
      unfold firstSwap
      dsimp only
      rw [← hu, traceSettle_of_not_held (by rw [htr, huau]; exact ht)]
    refine ⟨_, e, ⟨⟨r, hrun, himg, hplace⟩, ?_, ?_, hlev, hidle, hadm, hcode, hact⟩, ?_, ?_, ?_, ?_, exec_only _ _ _ e⟩
    · rw [hesc]
    · rw [hesc]
    · rw [hesc, huesc]
    · rw [hesc, huesc]
    · rw [hesc, huesc]
    · exact (swapTo_only u g pl 0#48 .frozen (by decide)).trans (huo .frozen (by decide))
  case running =>
    show execFirstImageSwap s = _
    unfold execFirstImageSwap
    split
    · contradiction
    · rfl

end Sys2Proof.Machine
end

section
/-! SUPPORT. Windows and the launch of a job (O13, O14). -/

namespace Sys2Proof.Machine

/-! ## Lanes of a window (R118) -/

theorem tfind_tput_cases {α : Type} {t : List (Nat × α)} {k m : Nat} {v x : α} (h : tfind (tput t k v) m = some x) :
    (m = k ∧ x = v) ∨ tfind t m = some x := by
  by_cases e : m = k
  · subst e
    rw [tfind_tput_self] at h
    exact .inl ⟨rfl, (Option.some.inj h).symm⟩
  · rw [tfind_tput_ne _ _ _ _ e] at h
    exact .inr h

/-- Every lane of a table has a property. -/
def LanesAll {α : Type} (p : α → Prop) (l : Tbl α) : Prop := ∀ k x, tfind l k = some x → p x

theorem LanesAll.foldl_tput {α : Type} {p : α → Prop} {key : Nat → Nat} {l : Tbl α} (ys : List (α × Nat)) (h : LanesAll p l)
    (hys : ∀ y ∈ ys, p y.1) : LanesAll p (ys.foldl (fun l y => tput l (key y.2) y.1) l) := by
  induction ys generalizing l with
  | nil => exact h
  | cons y ys ih =>
    refine ih (fun k x hx => ?_) fun z hz => hys z (List.mem_cons_of_mem _ hz)
    rcases tfind_tput_cases hx with ⟨-, rfl⟩ | hx
    · exact hys y List.mem_cons_self
    · exact h k x hx

theorem tfind_map_val {α β : Type} (g : α → β) (t : List (Nat × α)) (k : Nat) :
    tfind (t.map fun x => (x.1, g x.2)) k = (tfind t k).map g := by
  induction t with
  | nil => rfl
  | cons x r ih =>
    obtain ⟨i, v⟩ := x
    simp only [List.map_cons, tfind]
    split
    · rfl
    · exact ih

theorem zipIdx_fst_mem {α : Type} {l : List α} {y : α × Nat} (h : y ∈ l.zipIdx) : y.1 ∈ l := by
  obtain ⟨a, i⟩ := y
  exact List.fst_mem_of_mem_zipIdx h

/-- A send lane is at its reset value. -/
def SendReset (l : SendLane) : Prop := l.credits = l.slots ∧ l.ptr = 0

/-- A receive lane is at its reset value. -/
def RecvReset (l : RecvLane) : Prop := l.held = 0 ∧ l.ptr = 0 ∧ l.inFlight = []

theorem sendLanesOf_reset (g : Image) (pl : Placement) (st i core : Nat) : ∀ l ∈ sendLanesOf g pl st i core, SendReset l := by
  intro l hl
  obtain ⟨e, -, hl⟩ := List.mem_flatMap.1 hl
  obtain ⟨j, -, rfl⟩ := List.mem_map.1 hl
  exact ⟨rfl, rfl⟩

theorem placeBufs_reset (b : Nat) (l : List RecvLane) (h : ∀ x ∈ l, RecvReset x) : ∀ x ∈ placeBufs b l, RecvReset x := by
  induction l generalizing b with
  | nil => simp [placeBufs]
  | cons r l ih =>
    intro x hx
    rcases List.mem_cons.1 hx with rfl | hx
    · exact h r List.mem_cons_self
    · exact ih _ (fun y hy => h y (List.mem_cons_of_mem _ hy)) x hx

theorem recvLanesOf_reset (g : Image) (pl : Placement) (st j core : Nat) : ∀ l ∈ recvLanesOf g pl st j core, RecvReset l := by
  refine placeBufs_reset _ _ fun l hl => ?_
  obtain ⟨e, -, hl⟩ := List.mem_flatMap.1 hl
  obtain ⟨i, -, rfl⟩ := List.mem_map.1 hl
  exact ⟨rfl, rfl, rfl⟩

/-- The lanes of a core are reset. -/
def LanesReset (k : Core) : Prop := LanesAll SendReset k.sendLanes ∧ LanesAll RecvReset k.recvLanes

theorem modCore_core_cases (s : State) (c : Nat) (f : Core → Core) (d : Nat) :
    (s.modCore c f).core d = if d = c then f (s.core d) else s.core d := by
  rw [State.modCore_eq]
  split
  · next h => rw [h, State.setCore_core]
  · next h => rw [State.setCore_core_ne _ _ _ _ h]

/-- A property of a core that holds of it and that every step of a fold keeps. -/
theorem foldl_core_invariant {α : Type} {p : Core → Prop} {f : State → α → State} (d : Nat)
    (h : ∀ s x, p (s.core d) → p ((f s x).core d)) (l : List α) (s : State) (hs : p (s.core d)) : p ((l.foldl f s).core d) := by
  induction l generalizing s with
  | nil => exact hs
  | cons x l ih => exact ih _ (h s x hs)

/-- A property that a step of a fold gives to its core, and that the others keep. -/
theorem foldl_modCore_gives {p : Core → Prop} {f : Core → Core} (hf : ∀ k, p (f k)) {l : List Nat} {d : Nat} (hd : d ∈ l)
    (s : State) : p ((l.foldl (fun s c => s.modCore c f) s).core d) := by
  obtain ⟨a, b, rfl⟩ := List.append_of_mem hd
  rw [List.foldl_append, List.foldl_cons]
  refine foldl_core_invariant d (fun s x hs => ?_) b _ ?_
  · rw [modCore_core_cases]
    split
    · exact hf _
    · exact hs
  · rw [modCore_core_cases, if_pos rfl]
    exact hf _

theorem addLanes_reset (g : Image) (pl : Placement) (s : State) (t : Station) (d : Nat) (h : LanesReset (s.core d)) :
    LanesReset ((addLanes g pl s t).core d) := by
  unfold addLanes
  refine foldl_core_invariant d (fun s x hs => ?_) _ s h
  rw [modCore_core_cases]
  split
  · exact ⟨hs.1.foldl_tput _ fun y hy => sendLanesOf_reset _ _ _ _ _ _ (zipIdx_fst_mem hy),
      hs.2.foldl_tput _ fun y hy => recvLanesOf_reset _ _ _ _ _ _ (zipIdx_fst_mem hy)⟩
  · exact hs

theorem resetLanes_reset (s : State) (r : Running) (p w : Nat) {d : Nat} (hd : d ∈ r.place.partCores.getD p []) :
    LanesReset ((resetLanes s r p w).core d) := by
  unfold resetLanes
  refine foldl_core_invariant d (fun s t hs => addLanes_reset _ _ s t d hs) _ _ ?_
  exact foldl_modCore_gives (fun k => ⟨fun _ _ h => (nomatch h), fun _ _ h => (nomatch h)⟩) hd s

/-! ## Jobs that a kill reaches -/

/-- A view of every job is as it was. -/
def JobsShow {γ : Type} (p : Job → γ) (s t : State) : Prop := ∀ n, (t.job n).map p = (s.job n).map p

section
variable {γ : Type} {p : Job → γ} {s t u : State}

theorem JobsShow.of_jobs (h : t.jobs = s.jobs) : JobsShow p s t := fun n => by unfold State.job; rw [h]

theorem JobsShow.trans (h : JobsShow p s t) (g : JobsShow p t u) : JobsShow p s u := fun n => (g n).trans (h n)

theorem JobsShow.foldl {α : Type} {f : State → α → State} (h : ∀ s x, JobsShow p s (f s x)) (l : List α) (s : State) :
    JobsShow p s (l.foldl f s) := by
  induction l generalizing s with
  | nil => exact fun _ => rfl
  | cons x l ih => exact (h s x).trans (ih _)

theorem setJob_jobsShow {n : Nat} {i j : Job} (hj : s.job n = some j) (hp : p i = p j) : JobsShow p s (s.setJob n i) := by
  intro m
  by_cases e : m = n
  · rw [e, State.setJob_job, hj, Option.map_some, Option.map_some, hp]
  · rw [State.setJob_job_ne _ _ _ _ e]

theorem killOne_jobsShow (h : ∀ s j why code detail co, p (State.killedJob s j why code detail co) = p j) (s : State) (n : Nat)
    (why : KillWhy) (code : BitVec 16) (detail : W64) (co : Bool) : JobsShow p s (killOne s n why code detail co) := by
  by_cases hk : ∃ j, s.job n = some j ∧ j.killable = true
  · obtain ⟨j, hj, hkill⟩ := hk
    rw [killOne_of_killable why code detail co hj hkill]
    exact (setJob_jobsShow hj (h s j why code detail co)).trans fun m => by rw [stopCores_job]
  · rw [killOne_of_not_killable why code detail co fun j hj => by
      have := fun hkill => hk ⟨j, hj, hkill⟩
      simpa using this]
    exact fun _ => rfl

theorem coKill_jobsShow (h : ∀ s j why code detail co, p (State.killedJob s j why code detail co) = p j) (s : State) (n : Nat)
    (code : BitVec 16) : JobsShow p s (coKill s n code) := by
  unfold coKill
  split
  · exact fun _ => rfl
  · split
    · exact fun _ => rfl
    · exact (JobsShow.of_jobs (reportKill_jobs _ _ _ _)).trans (killOne_jobsShow h _ _ _ _ _ _)

theorem killJob_jobsShow (h : ∀ s j why code detail co, p (State.killedJob s j why code detail co) = p j) (s : State) (n : Nat)
    (why : KillWhy) (code : BitVec 16) (detail : W64) : JobsShow p s (killJob s n why code detail) := by
  have hone := killOne_jobsShow h s n why code detail false
  unfold killJob
  split
  · exact fun _ => rfl
  · split
    · exact fun _ => rfl
    · dsimp only
      split
      · exact hone
      · split
        · refine hone.trans ?_
          unfold killGraph
          exact JobsShow.trans (.of_jobs (pmGlobal_only _ 15 1 .jobs (by decide))) (.foldl (fun s n => coKill_jobsShow h s n code) _ _)
        · exact hone

theorem overrunJob_jobsShow (h : ∀ s j why code detail co, p (State.killedJob s j why code detail co) = p j) (s : State) (n : Nat) :
    JobsShow p s (overrunJob s n) := by
  unfold overrunJob
  split
  · exact fun _ => rfl
  · next j _ =>
    split
    · exact fun _ => rfl
    · have hrec : JobsShow p s (errRecord (pmGlobal s 19 1) 2 (some 9) j.cores.head? (some j.part) Config.BOUND_OVERRUN 0) :=
        .of_jobs ((errRecord_only _ _ _ _ _ _ _ .jobs (by decide)).trans (pmGlobal_only s 19 1 .jobs (by decide)))
      dsimp only
      split
      · exact hrec
      · exact (hrec.trans (.of_jobs (reportKill_jobs _ _ _ _))).trans (killJob_jobsShow h _ _ _ _ _)
end

/-- A job at its window's end is killed, and a job that is killed stays so (R428). -/
theorem overrunJob_killed (s : State) (n m : Nat) (h : Killed s m ∨ m = n) : Killed (overrunJob s n) m := by
  unfold overrunJob
  cases hj : s.job n with
  | none =>
    dsimp only
    rcases h with h | rfl
    · exact h
    · exact fun j g => absurd (hj.symm.trans g) nofun
  | some j =>
    dsimp only
    obtain ⟨u, hu⟩ : ∃ u, u = errRecord (pmGlobal s 19 1) 2 (some 9) j.cores.head? (some j.part) Config.BOUND_OVERRUN 0 := ⟨_, rfl⟩
    have huj : u.jobs = s.jobs := by
      rw [hu]
      exact (errRecord_only _ _ _ _ _ _ _ .jobs (by decide)).trans (pmGlobal_only s 19 1 .jobs (by decide))
    rw [← hu]
    split
    · next he =>
      rcases h with h | rfl
      · exact h
      · intro i g hc
        obtain rfl := Option.some.inj (hj.symm.trans g)
        exact absurd (List.isEmpty_iff.1 he) hc
    · split
      · next hk =>
        refine Killed.of_jobs huj ?_
        rcases h with h | rfl
        · exact h
        · intro i g _
          obtain rfl := Option.some.inj (hj.symm.trans g)
          exact Option.isSome_iff_ne_none.1 hk
      · refine killJob_killed _ n _ _ _ m (h.imp (fun h => h.of_jobs ?_) id)
        rw [reportKill_jobs, huj]

/-- Every job of a list is killed by the end of its window. -/
theorem overrunJobs_killed (l : List Nat) (s : State) (m : Nat) (h : Killed s m ∨ m ∈ l) : Killed (l.foldl overrunJob s) m := by
  induction l generalizing s with
  | nil => exact h.resolve_right (by simp)
  | cons n l ih =>
    refine ih _ ?_
    rcases h with h | h
    · exact .inl (overrunJob_killed s n m (.inl h))
    · rcases List.mem_cons.1 h with rfl | h
      · exact .inl (overrunJob_killed s m m (.inr rfl))
      · exact .inr h

/-! ## Windows (O13) -/

theorem closeLanes_closed (k : Core) : LanesAll (fun l : RecvLane => l.held = 0 ∧ l.inFlight = []) k.closeLanes.recvLanes ∧
    LanesAll (fun l : SendLane => l.returning = 0) k.closeLanes.sendLanes := by
  refine ⟨fun n x h => ?_, fun n x h => ?_⟩
  · have e : tfind k.closeLanes.recvLanes n = (tfind k.recvLanes n).map fun l => { l with held := 0, inFlight := [] } :=
      tfind_map_val (fun l : RecvLane => ({ l with held := 0, inFlight := [] } : RecvLane)) k.recvLanes n
    rw [e] at h
    obtain ⟨y, -, rfl⟩ := Option.map_eq_some_iff.1 h
    exact ⟨rfl, rfl⟩
  · have e : tfind k.closeLanes.sendLanes n = (tfind k.sendLanes n).map fun l => { l with returning := 0 } :=
      tfind_map_val (fun l : SendLane => ({ l with returning := 0 } : SendLane)) k.sendLanes n
    rw [e] at h
    obtain ⟨y, -, rfl⟩ := Option.map_eq_some_iff.1 h
    rfl

theorem closeWindow_spec {s : State} {r : Running} (hr : s.run = some r) (p w : Nat) :
    let t := closeWindow s p w
    (∃ r', t.run = some r' ∧ tfind r'.openWin p = none ∧ r'.img = r.img) ∧
      (∀ n j, t.job n = some j → j.part = p → j.kill ≠ none ∨ j.cores = []) ∧
      ∀ c ∈ s.partCores p, LanesAll (fun l : RecvLane => l.held = 0 ∧ l.inFlight = []) (t.core c).recvLanes ∧
        LanesAll (fun l : SendLane => l.returning = 0) (t.core c).sendLanes := by
  unfold closeWindow
  extract_lets s1 s2 s3 t
  have hrun1 : RunShows (fun r => (r.img, r.place)) s s1 := .foldl (overrunJob_runShows fun _ _ => rfl) _ s
  have hpart : JobsShow Job.part s s1 := .foldl (overrunJob_jobsShow fun _ _ _ _ _ _ => rfl) _ s
  have hkill (m : Nat) (h : ∃ j, s.job m = some j ∧ j.part = p) : Killed s1 m := by
    obtain ⟨j, hj, hjp⟩ := h
    refine overrunJobs_killed _ s m (.inr (List.mem_map.2 ⟨(m, j), List.mem_filter.2 ⟨tfind_mem_entry _ _ _ hj, ?_⟩, rfl⟩))
    simpa using hjp
  clear_value s1
  obtain ⟨x, hx, hxe⟩ : ∃ x, s1.run = some x ∧ (x.img, x.place) = (r.img, r.place) := by
    unfold RunShows at hrun1
    rw [hr] at hrun1
    exact Option.map_eq_some_iff.1 hrun1
  obtain ⟨hximg, hxplace⟩ := Prod.mk.inj hxe
  have hcores : s1.partCores p = s.partCores p := by
    unfold State.partCores
    rw [hx, hr]
    dsimp only
    rw [hxplace]
  have hlanes (c : Nat) (hc : c ∈ s.partCores p) :
      LanesAll (fun l : RecvLane => l.held = 0 ∧ l.inFlight = []) (s2.core c).recvLanes ∧
        LanesAll (fun l : SendLane => l.returning = 0) (s2.core c).sendLanes := by
    rw [← hcores] at hc
    exact foldl_modCore_gives (p := fun k => LanesAll (fun l : RecvLane => l.held = 0 ∧ l.inFlight = []) k.recvLanes ∧
      LanesAll (fun l : SendLane => l.returning = 0) k.sendLanes) closeLanes_closed hc s1
  have h2 : Only [.cores] s1 s2 := .foldl (fun u c => State.modCore_only _ _ _) (.refl _ s1)
  have hrun3 : s3.run = some { x with openWin := tdel x.openWin p, passed := x.passed.filter fun y => y.1 != p } := by
    show Option.map _ s2.run = _
    rw [show s2.run = s1.run from h2 .run (by decide), hx]
    rfl
  have hjobs3 : s3.jobs = s1.jobs := h2 .jobs (by decide)
  have hcores3 (c : Nat) : s3.core c = s2.core c := rfl
  clear_value s2 s3
  have ht : Only [.tw, .chime, .obs] s3 t := by
    simp only [t, hrun3]
    split
    · exact (twComplete_only _ _).step (by decide) (.refl _ _)
    · exact .refl _ _
  clear_value t
  have htjob (n : Nat) : t.job n = s1.job n := by
    unfold State.job
    rw [ht .jobs (by decide), hjobs3]
  have htcore (c : Nat) : t.core c = s2.core c := by
    rw [← hcores3]
    unfold State.core
    rw [ht .cores (by decide)]
  refine ⟨⟨_, (ht .run (by decide)).trans hrun3, tfind_tdel_self _ _, hximg⟩, fun n j hj hjp => ?_, fun c hc => ?_⟩
  · rw [htjob] at hj
    by_cases hc : j.cores = []
    · exact .inr hc
    · refine .inl (hkill n ?_ j hj hc)
      obtain ⟨i, hi, hip⟩ := Option.map_eq_some_iff.1 ((hpart n).symm.trans (congrArg (Option.map Job.part) hj))
      exact ⟨i, hi, hip.trans hjp⟩
  · rw [htcore]
    exact hlanes c hc

theorem openWindow_spec {s : State} {r : Running} (hr : s.run = some r) (p w : Nat) :
    let t := openWindow s r p w
    (∃ r', t.run = some r' ∧ r'.openWin = tput r.openWin p w ∧ r'.img = r.img ∧ r'.place = r.place) ∧
      ∀ c ∈ r.place.partCores.getD p [], LanesReset (t.core c) := by
  unfold openWindow
  extract_lets s1 s2 t
  have hrun1 : s1.run = some { r with openWin := tput r.openWin p w, passed := r.passed.filter fun x => x.1 != p } := by
    show Option.map _ s.run = _
    rw [hr]
    rfl
  have hlanes (c : Nat) (hc : c ∈ r.place.partCores.getD p []) : LanesReset (s2.core c) := resetLanes_reset s1 r p w hc
  have h2 : s2.run = s1.run := resetLanes_only _ _ _ _ .run (by decide)
  clear_value s1 s2
  have hskip (u : State) (l : List Nat) : RunShows (fun r => (r.openWin, r.img, r.place)) u (l.foldl (skipStation p) u) ∧
      Only [.run, .rgParts, .chime, .obs] u (l.foldl (skipStation p) u) := by
    refine ⟨.foldl (fun u st => ?_) l u, .foldl (fun u st => skipStation_only p u st) (.refl _ u)⟩
    unfold skipStation
    extract_lets v
    have hv : RunShows (fun r => (r.openWin, r.img, r.place)) u (pmGlobal v 14 1) :=
      .of_run (pmGlobal_only v 14 1 .run (by decide))
    exact hv.trans (modRun_runShows (fun r => { r with beat := tput r.beat st .skipped }) (fun _ => rfl) _)
  obtain ⟨l, hl⟩ : ∃ l : List Nat, t = l.foldl (skipStation p) s2 := by
    unfold t
    split
    · exact ⟨[], rfl⟩
    · exact ⟨_, rfl⟩
  rw [hl]
  obtain ⟨hsh, ho⟩ := hskip s2 l
  unfold RunShows at hsh
  rw [h2, hrun1] at hsh
  obtain ⟨x, hx, hxe⟩ := Option.map_eq_some_iff.1 hsh
  obtain ⟨h1, h2, h3⟩ : x.openWin = _ ∧ x.img = _ ∧ x.place = _ := by simpa using hxe
  refine ⟨⟨x, hx, h1, h2, h3⟩, fun c hc => ?_⟩
  unfold State.core
  rw [ho .cores (by decide)]
  exact hlanes c hc

/-- Settles O13. -/
theorem windowsOpenAndClose : Obligations.WindowsOpenAndClose := by
  have start {s : State} {r : Running} (hr : s.run = some r) (p w : BitVec 3) : exec (.windowStart p w) s =
      .next (if s.dispatches && (r.img.window p.toNat w.toNat).isSome && (tfind r.openWin p.toNat).isNone then
        openWindow s r p.toNat w.toNat else s) := by
    show execWindowStart p w s = _
    unfold execWindowStart
    simp only [hr]
  have finish {s : State} {r : Running} (hr : s.run = some r) (p w : BitVec 3) : exec (.windowEnd p w) s =
      .next (if tfind r.openWin p.toNat == some w.toNat && !s.obs.halted && s.portAlive then
        closeWindow s p.toNat w.toNat else s) := by
    show execWindowEnd p w s = _
    unfold execWindowEnd
    simp only [hr]
  refine ⟨fun s p w r hr hd hw ho => ?_, fun s p w r hr hrun ho => ?_, fun s p w r hr => ⟨fun h => ?_, fun h => ?_⟩,
    fun s p w hr => ⟨?_, ?_⟩⟩
  · have e := start hr p w
    rw [if_pos (by simp [hd, hw, ho])] at e
    obtain ⟨⟨r', hr', hopen, himg, hplace⟩, hlanes⟩ := openWindow_spec hr p.toNat w.toNat
    refine ⟨_, e, ⟨r', hr', ?_, fun q hq => ?_, himg, hplace⟩, fun c hc => ⟨?_, ?_⟩, exec_only _ _ _ e⟩
    · rw [hopen]
      exact tfind_tput_self _ _ _
    · rw [hopen]
      exact tfind_tput_ne _ _ _ _ hq
    · exact (hlanes c hc).1
    · exact (hlanes c hc).2
  · have e := finish hr p w
    obtain ⟨hp, hh⟩ := hrun
    rw [if_pos (by simp [ho, hp, hh])] at e
    obtain ⟨h1, h2, h3⟩ := closeWindow_spec hr p.toNat w.toNat
    exact ⟨_, e, h1, h2, h3, exec_only _ _ _ e⟩
  · rw [start hr, if_neg]
    rcases h with h | h | h
    · simp [h]
    · obtain ⟨v, hv⟩ := Option.isSome_iff_exists.1 h
      simp [hv]
    · simp [h]
  · rw [finish hr, if_neg]
    simp [h]
  · show execWindowStart p w s = _
    unfold execWindowStart
    simp only [hr]
  · show execWindowEnd p w s = _
    unfold execWindowEnd
    simp only [hr]

/-! ## Launches (R135) -/

theorem foldl_tset0_reg (args : List W64) (t : Tbl W64) (k m : Nat) :
    tget 0#64 ((args.zipIdx k).foldl (fun r x => tset0 r (x.2 + 1) x.1) t) m =
      if k + 1 ≤ m ∧ m ≤ k + args.length then args.getD (m - 1 - k) 0#64 else tget 0#64 t m := by
  induction args generalizing t k with
  | nil => simp
  | cons a args ih =>
    rw [List.zipIdx_cons, List.foldl_cons, ih, tget_tset0, List.length_cons]
    by_cases h : m = k + 1
    · subst h
      rw [if_neg (by omega), if_pos rfl, if_pos (by omega)]
      simp
    · rw [if_neg h]
      by_cases hm : k + 1 + 1 ≤ m ∧ m ≤ k + 1 + args.length
      · rw [if_pos hm, if_pos (by omega), show m - 1 - k = m - 1 - (k + 1) + 1 by omega, List.getD_cons_succ]
      · rw [if_neg hm, if_neg (by omega)]

/-- A core that begins a slot of a job (R135). -/
theorem begin_begun (k : Core) (n slot gen entry : Nat) (isSealed : Bool) (args : List W64) :
    Begun (k.begin n slot gen entry isSealed args) n entry slot args := by
  refine ⟨rfl, rfl, rfl, rfl, rfl, rfl, rfl, rfl, fun r => ?_⟩
  have h := foldl_tset0_reg args [] 0 r
  have hreg : (k.begin n slot gen entry isSealed args).regs = args.zipIdx.foldl (fun r x => tset0 r (x.2 + 1) x.1) [] := rfl
  unfold Core.reg
  rw [hreg, h]
  by_cases hr : r = 0
  · rw [if_pos hr, if_neg (by omega)]
  · rw [if_neg hr]
    by_cases hm : 1 ≤ r ∧ r ≤ args.length
    · rw [if_pos (by omega), if_pos hm, Nat.sub_zero]
    · rw [if_neg (by omega), if_neg hm]
      rfl

theorem modCore_foldl_core (f : Nat → Core → Core) {l : List Nat} (hl : l.Nodup) (s : State) (d : Nat) :
    (l.foldl (fun s c => s.modCore c (f c)) s).core d = if d ∈ l then f d (s.core d) else s.core d := by
  induction l generalizing s with
  | nil => simp
  | cons c l ih =>
    obtain ⟨hc, hl⟩ := List.nodup_cons.1 hl
    rw [List.foldl_cons, ih hl, modCore_core_cases]
    by_cases h : d = c
    · subst h
      rw [if_neg hc, if_pos rfl, if_pos List.mem_cons_self]
    · rw [if_neg h]
      simp [h]

/-- Cores that begin one after the other. -/
def beginCores (s : State) (l : List (Nat × Nat)) (j : Job) (n entry : Nat) (args : List W64) : State :=
  l.foldl (fun s x => traceJob (s.setCore x.1 ((s.core x.1).begin n x.2 j.gen entry j.isSealed args)) x.1 j entry 1) s

theorem beginCores_core {l : List Nat} (hl : l.Nodup) (k : Nat) (s : State) (j : Job) (n entry : Nat) (args : List W64) :
    (∀ i d, l[i]? = some d → (beginCores s (l.zipIdx k) j n entry args).core d =
      (s.core d).begin n (k + i) j.gen entry j.isSealed args) ∧
    ∀ d, d ∉ l → (beginCores s (l.zipIdx k) j n entry args).core d = s.core d := by
  unfold beginCores
  induction l generalizing s k with
  | nil => exact ⟨fun i d h => by simp at h, fun _ _ => rfl⟩
  | cons c l ih =>
    obtain ⟨hc, hl⟩ := List.nodup_cons.1 hl
    rw [List.zipIdx_cons, List.foldl_cons]
    obtain ⟨h1, h2⟩ := ih hl (k + 1) (traceJob (s.setCore c ((s.core c).begin n k j.gen entry j.isSealed args)) c j entry 1)
    have hcore (d : Nat) : (traceJob (s.setCore c ((s.core c).begin n k j.gen entry j.isSealed args)) c j entry 1).core d =
        if d = c then (s.core c).begin n k j.gen entry j.isSealed args else s.core d := by
      unfold traceJob
      rw [traceCore_core]
      split
      · next h => rw [h, State.setCore_core]
      · next h => rw [State.setCore_core_ne _ _ _ _ h]
    refine ⟨fun i d hi => ?_, fun d hd => ?_⟩
    · cases i with
      | zero =>
        obtain rfl : c = d := by simpa using hi
        rw [h2 c hc, hcore, if_pos rfl]
        rfl
      | succ i =>
        have hi' : l[i]? = some d := by simpa using hi
        have hd : d ≠ c := fun e => hc (e ▸ List.mem_of_getElem? hi')
        rw [h1 i d hi', hcore, if_neg hd]
        congr 1
        omega
    · obtain ⟨hdc, hdl⟩ := List.ne_and_not_mem_of_not_mem_cons hd
      rw [h2 d hdl, hcore, if_neg hdc]

/-- What the launch of a job leaves (R135). -/
theorem launchJob_spec (s : State) (j : Job) (entry queue : Nat) (args : List W64) :
    let t := launchJob s j entry queue args
    t.job s.nextJob = some j ∧ t.nextJob = s.nextJob + 1 ∧ (∀ n, n ≠ s.nextJob → t.job n = s.job n) ∧
      (j.cores.Nodup → (∀ i d, j.cores[i]? = some d → t.core d = (s.core d).begin s.nextJob i j.gen entry j.isSealed args) ∧
        ∀ d, d ∉ j.cores → t.core d = s.core d) ∧ t.run = s.run := by
  intro t
  obtain ⟨u, hu⟩ : ∃ u, u = traceKeeper { s.setJob s.nextJob j with nextJob := s.nextJob + 1 } 0x11
    (leBytes 2 queue ++ leBytes 2 j.stationCode.toNat ++ leBytes 2 (maskOf j.cores) ++ leBytes 2 j.gen) := ⟨_, rfl⟩
  have ht : t = beginCores u (j.cores.zipIdx) j s.nextJob entry args := by rw [hu]; rfl
  have huo : Only [.obs] { s.setJob s.nextJob j with nextJob := s.nextJob + 1 } u := hu ▸ traceKeeper_only _ _ _
  have hto : Only [.cores, .obs] u t := by
    rw [ht]
    unfold beginCores
    refine .foldl (fun v x => ?_) (.refl _ u)
    exact (traceCore_only _ _ _ _).step (by decide) (State.setCore_only _ _ _ |>.step (by decide) (.refl _ v))
  have hjobs : t.jobs = (s.setJob s.nextJob j).jobs := (hto .jobs (by decide)).trans (huo .jobs (by decide))
  have hjob (n : Nat) : t.job n = (s.setJob s.nextJob j).job n := by unfold State.job; rw [hjobs]
  have hcore (d : Nat) : u.core d = s.core d := by
    unfold State.core
    rw [huo .cores (by decide)]
    rfl
  refine ⟨?_, (hto .nextJob (by decide)).trans (huo .nextJob (by decide)), fun n hn => ?_, fun hnodup => ?_,
    (hto .run (by decide)).trans (huo .run (by decide))⟩
  · rw [hjob, State.setJob_job]
  · rw [hjob, State.setJob_job_ne _ _ _ _ hn]
  · obtain ⟨h1, h2⟩ := beginCores_core hnodup 0 u j s.nextJob entry args
    rw [← ht] at h1 h2
    refine ⟨fun i d hi => ?_, fun d hd => (h2 d hd).trans (hcore d)⟩
    rw [h1 i d hi, hcore, Nat.zero_add]

/-- Settles O14. -/
theorem stationLaunchBeginsTheJob : Obligations.StationLaunchBeginsTheJob := by
  intro s st r u e hr hu he cores dir
  have hexec : exec (.stationLaunch st) s =
      .next (if s.mayLaunch r u && (s.gen e).ready then launchStation s r u e else s) := by
    show execStationLaunch st s = _
    unfold execStationLaunch
    simp only [hr, hu, he]
  refine ⟨fun hm hg hnodup => ?_, fun h => ?_⟩
  · rw [if_pos (by simp [hm, hg])] at hexec
    refine ⟨_, hexec, ?_⟩
    have hfr := exec_only _ _ _ hexec
    obtain ⟨v, hv⟩ : ∃ v, v = cores.foldl (fun s c => s.modCore c fun k => k.putScratch (r.place.baseOf u.index c) dir) s := ⟨_, rfl⟩
    have hvo : Only [.cores] s v := by
      rw [hv]
      exact .foldl (fun u c => State.modCore_only _ _ _) (.refl _ s)
    have hvrun : v.run = some r := (hvo .run (by decide)).trans hr
    have hvcore (d : Nat) : v.core d = if d ∈ cores then (s.core d).putScratch (r.place.baseOf u.index d) dir else s.core d := by
      rw [hv]
      exact modCore_foldl_core (fun c k => k.putScratch (r.place.baseOf u.index c) dir) hnodup s d
    obtain ⟨x, hx⟩ : ∃ x, x = setStatus v u.index .running := ⟨_, rfl⟩
    have hxnext : x.nextJob = s.nextJob := by rw [hx]; exact hvo .nextJob (by decide)
    have hxjob (n : Nat) : x.job n = s.job n := by
      rw [hx]
      unfold State.job
      exact congrArg (tfind · n) (hvo .jobs (by decide))
    have hxcore (d : Nat) : x.core d = v.core d := by rw [hx]; rfl
    have hxrun : x.run = some { r with beat := tput r.beat u.index .running } := by
      rw [hx]
      show Option.map _ v.run = _
      rw [hvrun]
      rfl
    obtain ⟨j, hj, hjs⟩ : ∃ j, launchStation s r u e = launchJob x j u.entry 0xFFFF [] ∧ (j.kind = .station u.index ∧
        j.part = u.part ∧ j.cores = cores ∧ j.gen = e ∧ j.bound = u.bound ∧ j.killLimit = s.stationLimit u ∧ j.kill = none ∧
        j.pins = s.stationPins r u ∧ j.wrote = [] ∧ j.launchBeat = s.esc.beatCount ∧ j.launchTime = s.esc.time) := by
      rw [hx, hv]
      exact ⟨_, rfl, rfl, rfl, rfl, rfl, rfl, rfl, rfl, rfl, rfl, rfl, rfl⟩
    rw [hj] at hfr ⊢
    obtain ⟨hjob, hnext, hother, hcore, hrun⟩ := launchJob_spec x j u.entry 0xFFFF []
    rw [hxnext] at hjob hnext hother hcore
    obtain ⟨h1, h2⟩ := hcore (by rw [hjs.2.2.1]; exact hnodup)
    rw [hjs.2.2.1] at h1 h2
    refine ⟨⟨j, hjob, hjs⟩, hnext, fun n hn => (hother n hn).trans (hxjob n), fun i c hc => ?_, fun c hc => ?_,
      hrun.trans hxrun, hfr⟩
    · rw [h1 i c hc]
      refine ⟨begin_begun _ _ _ _ _ _ _, ?_⟩
      rw [hxcore, hvcore, if_pos (List.mem_of_getElem? hc)]
      rfl
    · rw [h2 c hc, hxcore, hvcore, if_neg hc]
  · rw [hexec, if_neg]
    rcases h with h | h <;> simp [h]

end Sys2Proof.Machine
end

section
/-! SUPPORT. The Chime: what an evaluation of the outputs makes of every target, what a write of a word does to the sources,
and who reaches a view (R452 to R460). -/

namespace Sys2Proof.Machine

/-! ## The outputs -/

/-- What one evaluation makes of a target (R455, R457, R463). -/
def Target.follow (x : Target) (held : Bool) (live : List (Nat × Src)) : Target :=
  if x.wdogDrive then { x with out := true }
  else if held then { x with out := false }
  else if live.isEmpty then { x with out := false, timerNs := 0 }
  else if x.out || x.mayRise live then { x with out := true, timerNs := 0 }
  else x

/-- The outputs are held low (R463, R490). -/
def State.outputsHeld (s : State) : Bool := s.chime.heldLow || s.boot.blkAsserted || s.boot.porAsserted

/-- The state with other Chime targets. -/
def State.withTargets (s : State) (ts : Tbl Target) : State := { s with chime := { s.chime with targets := ts } }

@[simp] theorem withTargets_withTargets (s : State) (a b : Tbl Target) : (s.withTargets a).withTargets b = s.withTargets b := rfl
@[simp] theorem withTargets_liveSrcs (s : State) (a : Tbl Target) (k : Nat) : (s.withTargets a).liveSrcs k = s.liveSrcs k := rfl
@[simp] theorem withTargets_outputsHeld (s : State) (a : Tbl Target) : (s.withTargets a).outputsHeld = s.outputsHeld := rfl
@[simp] theorem withTargets_src (s : State) (a : Tbl Target) (n : Nat) : (s.withTargets a).src n = s.src n := rfl
@[simp] theorem withTargets_target (s : State) (a : Tbl Target) (k : Nat) : (s.withTargets a).target k = tget Target.reset a k := rfl
theorem withTargets_self (s : State) : s.withTargets s.chime.targets = s := rfl

@[simp] theorem setSrc_target (s : State) (n k : Nat) (x : Src) : (s.setSrc n x).target k = s.target k := rfl
@[simp] theorem setSrc_outputsHeld (s : State) (n : Nat) (x : Src) : (s.setSrc n x).outputsHeld = s.outputsHeld := rfl
@[simp] theorem setSrc_src_self (s : State) (n : Nat) (x : Src) : (s.setSrc n x).src n = x := tget_tput_self _ _ _ _
theorem setSrc_src_ne (s : State) (x : Src) {n m : Nat} (h : m ≠ n) : (s.setSrc n x).src m = s.src m :=
  tget_tput_ne _ _ _ _ _ h
@[simp] theorem setTarget_target_self (s : State) (k : Nat) (x : Target) : (s.setTarget k x).target k = x := tget_tput_self _ _ _ _
theorem setTarget_target_ne (s : State) (x : Target) {k j : Nat} (h : j ≠ k) : (s.setTarget k x).target j = s.target j :=
  tget_tput_ne _ _ _ _ _ h

theorem chEvalTarget_eq (s : State) (k : Nat) :
    chEvalTarget s k = s.setTarget k ((s.target k).follow s.outputsHeld (s.liveSrcs k)) := rfl

/-- Each target below the number evaluated follows its live sources, every other one stands. -/
theorem chEval_below (s : State) (n : Nat) : ∃ ts, (List.range n).foldl chEvalTarget s = s.withTargets ts ∧
    (∀ k < n, tget Target.reset ts k = (s.target k).follow s.outputsHeld (s.liveSrcs k)) ∧
    ∀ k, n ≤ k → tget Target.reset ts k = s.target k := by
  induction n with
  | zero => exact ⟨_, withTargets_self s, fun k h => absurd h (Nat.not_lt_zero k), fun _ _ => rfl⟩
  | succ n ih =>
    obtain ⟨ts, he, hlt, hge⟩ := ih
    refine ⟨tput ts n ((s.target n).follow s.outputsHeld (s.liveSrcs n)), ?_, fun k hk => ?_, fun k hk => ?_⟩
    · rw [List.range_succ, List.foldl_append, he, List.foldl_cons, List.foldl_nil, chEvalTarget_eq, withTargets_target,
        hge n (Nat.le_refl n)]
      rfl
    · by_cases hn : k = n
      · rw [hn, tget_tput_self]
      · rw [tget_tput_ne _ _ _ _ _ hn, hlt k (by omega)]
    · rw [tget_tput_ne _ _ _ _ _ (by omega), hge k (by omega)]

/-- An evaluation changes the targets alone, and each follows its live sources. -/
theorem chEval_spec (s : State) : ∃ ts, chEval s = s.withTargets ts ∧
    ∀ k < 8, tget Target.reset ts k = (s.target k).follow s.outputsHeld (s.liveSrcs k) := by
  obtain ⟨ts, he, hlt, -⟩ := chEval_below s 8
  exact ⟨ts, he, hlt⟩

@[simp] theorem chEval_srcs (s : State) : (chEval s).chime.srcs = s.chime.srcs := by
  obtain ⟨ts, he, -⟩ := chEval_spec s; rw [he]; rfl

@[simp] theorem chEval_liveSrcs (s : State) (k : Nat) : (chEval s).liveSrcs k = s.liveSrcs k := by
  obtain ⟨ts, he, -⟩ := chEval_spec s; rw [he]; rfl

@[simp] theorem chEval_heldLow (s : State) : (chEval s).chime.heldLow = s.chime.heldLow := by
  obtain ⟨ts, he, -⟩ := chEval_spec s; rw [he]; rfl

@[simp] theorem chEval_strayCount (s : State) : (chEval s).chime.strayCount = s.chime.strayCount := by
  obtain ⟨ts, he, -⟩ := chEval_spec s; rw [he]; rfl

theorem chEval_obs (s : State) : (chEval s).obs = s.obs := by
  obtain ⟨ts, he, -⟩ := chEval_spec s; rw [he]; rfl

theorem chEval_target (s : State) {k : Nat} (hk : k < 8) :
    (chEval s).target k = (s.target k).follow s.outputsHeld (s.liveSrcs k) := by
  obtain ⟨ts, he, ht⟩ := chEval_spec s; rw [he, withTargets_target, ht k hk]

/-! ## What following means -/

theorem mayRise_iff (x : Target) (live : List (Nat × Src)) : x.mayRise live = true ↔ Rises x live := by
  unfold Target.mayRise Rises
  simp only [Bool.or_eq_true, Bool.and_eq_true, beq_iff_eq, bne_iff_ne, decide_eq_true_eq, List.any_eq_true, Nat.mul_comm, or_assoc]

/-- A target that one evaluation changed follows its live sources. -/
theorem outputFollows_of_follow {x : Target} {t : State} {k : Nat} (h : t.target k = x.follow t.chime.heldLow (t.liveSrcs k)) :
    OutputFollows x t k := by
  unfold OutputFollows
  simp only [h]
  unfold Target.follow
  refine ⟨fun hw => by rw [if_pos hw], fun hw hh => by rw [if_neg (by simp [hw]), if_pos hh], fun hw hh => ⟨fun hl => ?_,
    fun hl hr => ?_, fun hl ho hr => ?_⟩⟩
  · rw [if_neg (by simp [hw]), if_neg (by simp [hh]), if_pos (by simp [hl])]
  · have hr' : (x.out || x.mayRise (t.liveSrcs k)) = true := by rw [Bool.or_eq_true, mayRise_iff]; exact hr
    rw [if_neg (by simp [hw]), if_neg (by simp [hh]), if_neg (by simp [hl]), if_pos hr']
  · have hr' : ¬(x.out || x.mayRise (t.liveSrcs k)) = true := by rw [Bool.or_eq_true, mayRise_iff, ho]; simpa using hr
    rw [if_neg (by simp [hw]), if_neg (by simp [hh]), if_neg (by simp [hl]), if_neg hr']

/-- What follows its live sources already stands at a further evaluation. -/
theorem Target.follow_follow (x : Target) (held : Bool) (live : List (Nat × Src)) :
    (x.follow held live).follow held live = x.follow held live := by
  unfold Target.follow
  by_cases hw : x.wdogDrive = true
  · simp [hw]
  by_cases hh : held = true
  · simp [hw, hh]
  by_cases hl : live.isEmpty = true
  · simp [hw, hh, hl]
  by_cases hr : (x.out || x.mayRise live) = true
  · simp [hw, hh, hl, hr]
  · simp [hw, hh, hl, hr]

theorem Target.follow_modUs (x : Target) (held : Bool) (live : List (Nat × Src)) : (x.follow held live).modUs = x.modUs := by
  unfold Target.follow; split_ifs <;> rfl

theorem Target.follow_idleIn (x : Target) (held : Bool) (live : List (Nat × Src)) : (x.follow held live).idleIn = x.idleIn := by
  unfold Target.follow; split_ifs <;> rfl

theorem Target.follow_wdogDrive (x : Target) (held : Bool) (live : List (Nat × Src)) :
    (x.follow held live).wdogDrive = x.wdogDrive := by
  unfold Target.follow; split_ifs <;> rfl

theorem Target.follow_out_of_nil {x : Target} (hw : x.wdogDrive = false) (held : Bool) : (x.follow held []).out = false := by
  unfold Target.follow
  rw [if_neg (by simp [hw])]
  by_cases hh : held = true
  · rw [if_pos hh]
  · rw [if_neg hh, if_pos List.isEmpty_nil]

/-- While the block is powered and out of reset the outputs are held by the restore alone. -/
theorem outputsHeld_of_chRuns {s : State} (h : s.chRuns = true ∨ s.portAlive = true) : s.outputsHeld = s.chime.heldLow := by
  rcases h with h | h
  · unfold State.chRuns at h
    simp only [Bool.and_eq_true, Bool.not_eq_true'] at h
    obtain ⟨⟨⟨_, hb⟩, hp⟩, _⟩ := h
    simp [State.outputsHeld, hb, hp]
  · unfold State.portAlive at h
    simp only [Bool.and_eq_true, Bool.not_eq_true'] at h
    obtain ⟨⟨_, hb⟩, hp⟩ := h
    simp [State.outputsHeld, hb, hp]

/-- After an evaluation every target follows its live sources, where nothing but a restore holds the outputs. -/
theorem chEval_follows {s : State} (h : s.outputsHeld = s.chime.heldLow) {k : Nat} (hk : k < 8) :
    OutputFollows (s.target k) (chEval s) k :=
  outputFollows_of_follow (by rw [chEval_target s hk, chEval_heldLow, chEval_liveSrcs, h])

/-! ## Who reaches a view (R458) -/

/-- A register of a row lies below the row's end. -/
theorem RegRow.lt_of_has {r : RegRow} {off : Nat} (h : r.has off = true) (ho : 0 < r.ostride) :
    off < r.base + r.ostride * r.ocount := by
  unfold RegRow.has at h
  simp only [Bool.and_eq_true, decide_eq_true_eq] at h
  obtain ⟨⟨⟨hb, hd⟩, _⟩, _⟩ := h
  have := (Nat.div_lt_iff_lt_mul ho).mp hd
  rw [Nat.mul_comm]; omega

/-- The rows of the target views (R458). -/
def targetRows : List RegRow := chRows.drop 10

/-- Past the CH_ registers of the global view only the rows of the target views and later ones have registers. -/
theorem regRowAt_of_targetRow {off : Nat} (ho : 0x404000 ≤ off) {r : RegRow} (h : targetRows.find? (·.has off) = some r) :
    regRowAt off = some r := by
  have hsplit : regRows = (kpRows ++ auRows ++ rgRows ++ chRows.take 10) ++ (targetRows ++ (secRows ++ obsRows ++ pageRows)) := by
    rfl
  have hlow : ∀ r ∈ kpRows ++ auRows ++ rgRows ++ chRows.take 10,
      0 < r.ostride ∧ r.base + r.ostride * r.ocount ≤ 0x404000 := by decide
  have hnone : (kpRows ++ auRows ++ rgRows ++ chRows.take 10).find? (·.has off) = none := by
    rw [List.find?_eq_none]
    intro x hx hh
    obtain ⟨hpos, hend⟩ := hlow x hx
    have := RegRow.lt_of_has hh hpos
    omega
  unfold regRowAt
  rw [hsplit, List.find?_append, hnone, List.find?_append, h]
  rfl

/-- The class of a register of a target view, whatever its target and word. -/
theorem targetRows_find : ∀ (k : BitVec 3) (w : BitVec 4) (b : Bool),
    ((targetRows.find? (·.has ((if b then 0x404000 else 0x404080) + 0x400 * k.toNat + 8 * w.toNat))).map RegRow.cls) = some .t := by
  decide

theorem targetRows_find_complete : ∀ k : BitVec 3, (targetRows.find? (·.has (0x404180 + 0x400 * k.toNat))).map RegRow.cls = some .t := by
  decide

/-- The owner of a target reaches the registers of its view (R458). -/
theorem reaches_targetView {s : State} {who : Who} {off : Nat} (k : BitVec 3) (hlo : 0x404000 + 0x400 * k.toNat ≤ off)
    (hhi : off < 0x404400 + 0x400 * k.toNat)
    (hc : (targetRows.find? (·.has off)).map RegRow.cls = some .t)
    (hw : who.inst = 0#6 ∨ ((s.target k.toNat).ownerValid = true ∧ (s.target k.toNat).owner = who.inst)) :
    s.reaches who off true = true := by
  obtain ⟨r, hr, hcls⟩ := Option.map_eq_some_iff.mp hc
  have hidx : (off - 0x404000) / 0x400 = k.toNat := by omega
  unfold State.reaches
  simp only [regRowAt_of_targetRow (by omega) hr, hcls, hidx]
  simpa using hw

/-- A write of a register of a view, by a requester whom the view lets in, has its effect (R458, R495). -/
theorem hostWrite_view {s : State} {who : Who} {view : ChView} (h : ViewMay s who view) {g t : Nat} (wide : Bool) (f : State → State)
    (hg : g < 0x402000) (hga : g % (if wide then 8 else 4) = 0) (hta : t % (if wide then 8 else 4) = 0)
    (ht : 0x404000 ≤ t) (ht' : t < 0x404400)
    (hc : ∀ k : BitVec 3, (targetRows.find? (·.has (t + 0x400 * k.toNat))).map RegRow.cls = some .t) :
    hostWrite s who (viewOff view g t) wide f = f s := by
  cases view with
  | global => exact hostWrite_may h g wide f hga (by unfold windowCore; rw [if_neg (by omega)])
  | target k =>
    obtain ⟨hp, hh, hr, hv, hw⟩ := h
    have hk : k.toNat < 8 := k.isLt
    have hrow : s.reaches who (t + 0x400 * k.toNat) true = true :=
      reaches_targetView k (by omega) (by omega) (hc k) hw
    have hwin : windowCore (t + 0x400 * k.toNat) = none := by unfold windowCore; rw [if_neg (by omega)]
    have hal : (t + 0x400 * k.toNat) % (if wide then 8 else 4) = 0 := by cases wide <;> simp at hta ⊢ <;> omega
    unfold hostWrite hostCheck viewOff
    simp [hp, hh, hr, hv, hal, hwin, hrow]

theorem portAlive_of_viewMay {s : State} {who : Who} {view : ChView} (h : ViewMay s who view) : s.portAlive = true := by
  cases view with
  | global => exact h.1
  | target k => exact h.1

/-! ## A write of a word (R452, R458) -/

/-- One bit of a word written to the source that shows it. -/
def chBit (view : Option Nat) (first data : Nat) (f : Src → Bool → Src) (s : State) (i : Nat) : State :=
  let n := first + i
  let y := f (s.src n) (bitAt data i)
  if ChView.sees s view n && y != s.src n then s.setSrc n y else s

theorem chBits_eq (s : State) (view : Option Nat) (first count data : Nat) (f : Src → Bool → Src) :
    chBits s view first count data f = chEval ((List.range count).foldl (chBit view first data f) s) := rfl

/-- The state with other Chime sources. -/
def State.withSrcs (s : State) (l : Tbl Src) : State := { s with chime := { s.chime with srcs := l } }

@[simp] theorem withSrcs_src (s : State) (l : Tbl Src) (n : Nat) : (s.withSrcs l).src n = tget (chDefaultSrc n) l n := rfl

theorem chBit_src (s : State) (view : Option Nat) (first data : Nat) (f : Src → Bool → Src) (i n : Nat) :
    ∃ l, chBit view first data f s i = s.withSrcs l ∧
      tget (chDefaultSrc n) l n = if n = first + i ∧ ChView.sees s view n = true then f (s.src n) (bitAt data i) else s.src n := by
  unfold chBit
  by_cases hn : n = first + i
  · subst hn
    by_cases hs : ChView.sees s view (first + i) = true
    · by_cases hy : f (s.src (first + i)) (bitAt data i) = s.src (first + i)
      · refine ⟨s.chime.srcs, ?_, ?_⟩
        · rw [if_neg (by simp [hy])]; rfl
        · rw [if_pos ⟨rfl, hs⟩, hy]; rfl
      · refine ⟨_, if_pos (by simp [hs, hy]), ?_⟩
        rw [if_pos ⟨rfl, hs⟩, tget_tput_self]
    · refine ⟨s.chime.srcs, ?_, ?_⟩
      · rw [if_neg (by simp [hs])]; rfl
      · rw [if_neg (by simp [hs])]; rfl
  · simp only [hn, false_and, if_false]
    split
    · exact ⟨_, rfl, tget_tput_ne _ _ _ _ _ hn⟩
    · exact ⟨s.chime.srcs, rfl, rfl⟩

theorem sees_withSrcs {s : State} {l : Tbl Src} {view : Option Nat} {n : Nat}
    (h : (tget (chDefaultSrc n) l n).target = (s.src n).target) : ChView.sees (s.withSrcs l) view n = ChView.sees s view n := by
  cases view with
  | none => rfl
  | some k => simp only [ChView.sees, withSrcs_src, h]

/-- A word written to sources whose targets it keeps: the sources of its bits that the view shows take them, the others
stand. -/
theorem chBits_fold (s : State) (view : Option Nat) (first data : Nat) {f : Src → Bool → Src}
    (hf : ∀ x b, (f x b).target = x.target) (count : Nat) :
    ∃ l, (List.range count).foldl (chBit view first data f) s = s.withSrcs l ∧
      ∀ n, tget (chDefaultSrc n) l n =
        if (first ≤ n ∧ n < first + count) ∧ ChView.sees s view n = true then f (s.src n) (bitAt data (n - first)) else s.src n := by
  induction count with
  | zero => exact ⟨s.chime.srcs, rfl, fun n => by rw [if_neg (by omega)]; rfl⟩
  | succ m ih =>
    obtain ⟨l, he, hl⟩ := ih
    rw [List.range_succ, List.foldl_append, he, List.foldl_cons, List.foldl_nil]
    have hkeep : ∀ n, (tget (chDefaultSrc n) l n).target = (s.src n).target := fun n => by
      rw [hl n]; split_ifs
      · exact hf _ _
      · rfl
    obtain ⟨l', he', -⟩ := chBit_src (s.withSrcs l) view first data f m 0
    refine ⟨l', he', fun n => ?_⟩
    obtain ⟨l'', he'', hl''⟩ := chBit_src (s.withSrcs l) view first data f m n
    have hsame : tget (chDefaultSrc n) l' n = tget (chDefaultSrc n) l'' n := by
      rw [← withSrcs_src (s.withSrcs l) l', ← he', he'', withSrcs_src]
    rw [hsame, hl'', sees_withSrcs (hkeep n), withSrcs_src, hl n]
    by_cases hn : n = first + m
    · subst hn
      by_cases hs : ChView.sees s view (first + m) = true
      · rw [if_pos ⟨rfl, hs⟩, if_neg (by omega), if_pos ⟨by omega, hs⟩, Nat.add_sub_cancel_left]
      · rw [if_neg (by simp [hs]), if_neg (by simp [hs]), if_neg (by simp [hs])]
    · have hr : (first ≤ n ∧ n < first + (m + 1)) ↔ (first ≤ n ∧ n < first + m) := by omega
      rw [if_neg (fun h => hn h.1)]
      simp only [hr]

theorem writePend_target (x : Src) (b : Bool) : (x.writePend b).target = x.target := by
  unfold Src.writePend; split <;> rfl

end Sys2Proof.Machine
end

section
/-! SUPPORT. The Chime's commands, one clause at a time, and the statement about its sources and outputs (R451 to R460). -/

namespace Sys2Proof.Machine

/-! ## Words -/

theorem sees_iff_shows (s : State) (view : ChView) (n : Nat) : ChView.sees s (viewTarget view) n = true ↔ Shows s view n := by
  cases view with
  | global => simp [viewTarget, ChView.sees, Shows]
  | target k =>
    simp only [viewTarget, ChView.sees, beq_iff_eq, Shows, ChView.target.injEq, forall_eq']
    exact BitVec.toNat_inj

/-- What a word written to the sources of a view leaves, for bits that keep the sources' targets. -/
theorem chBits_spec {s : State} (hp : s.portAlive = true) (view : ChView) (word : BitVec 4) (data : W64) {f : Src → Bool → Src}
    (hf : ∀ x b, (f x b).target = x.target) {t : State}
    (ht : t = chBits s (viewTarget view) (64 * word.toNat) 64 data.toNat f) :
    (∀ n, ¬(64 * word.toNat ≤ n ∧ n < 64 * word.toNat + 64 ∧ Shows s view n) → t.src n = s.src n) ∧
    (∀ n, (64 * word.toNat ≤ n ∧ n < 64 * word.toNat + 64 ∧ Shows s view n) →
      t.src n = f (s.src n) (data.getLsbD (n - 64 * word.toNat))) ∧
    OutputsFollow s t ∧ t.chime.strayCount = s.chime.strayCount := by
  obtain ⟨l, he, hl⟩ := chBits_fold s (viewTarget view) (64 * word.toNat) data.toNat hf 64
  rw [chBits_eq, he] at ht
  have hheld : (s.withSrcs l).outputsHeld = (s.withSrcs l).chime.heldLow := outputsHeld_of_chRuns (s := s) (Or.inr hp)
  subst ht
  refine ⟨fun n hn => ?_, fun n ⟨h1, h2, h3⟩ => ?_, fun k hk => chEval_follows hheld hk, chEval_strayCount _⟩
  · rw [chEval_src, withSrcs_src, hl n, if_neg]
    rintro ⟨⟨h1, h2⟩, h3⟩
    exact hn ⟨h1, h2, (sees_iff_shows s view n).mp h3⟩
  · rw [chEval_src, withSrcs_src, hl n, if_pos ⟨⟨h1, h2⟩, (sees_iff_shows s view n).mpr h3⟩, bitAt_eq_getLsbD]

/-- PENDING_WRITE and MASK_WRITE by a requester of the view write their word (R458). -/
theorem exec_pendingWrite {s : State} {who : Who} {view : ChView} (h : ViewMay s who view) (word : BitVec 4) (data : W64) :
    exec (.pendingWrite who view word data) s = .next (pendBits s (viewTarget view) (64 * word.toNat) 64 data.toNat) := by
  have hw : word.toNat < 16 := word.isLt
  have e : viewOff view 0x401000 0x404000 + 8 * word.toNat = viewOff view (0x401000 + 8 * word.toNat) (0x404000 + 8 * word.toNat) := by
    cases view with
    | global => rfl
    | target k => exact Nat.add_right_comm _ _ _
  refine congrArg Host.Outcome.next ((congrArg (fun o => hostWrite s who o true _) e).trans (hostWrite_view h true _ (by omega)
    (by rw [if_pos rfl]; omega) (by rw [if_pos rfl]; omega) (by omega) (by omega) fun k => ?_))
  rw [Nat.add_right_comm]
  exact targetRows_find k word true

theorem exec_maskWrite {s : State} {who : Who} {view : ChView} (h : ViewMay s who view) (word : BitVec 4) (data : W64) :
    exec (.maskWrite who view word data) s = .next (maskBits s (viewTarget view) (64 * word.toNat) 64 data.toNat) := by
  have hw : word.toNat < 16 := word.isLt
  have e : viewOff view 0x401080 0x404080 + 8 * word.toNat = viewOff view (0x401080 + 8 * word.toNat) (0x404080 + 8 * word.toNat) := by
    cases view with
    | global => rfl
    | target k => exact Nat.add_right_comm _ _ _
  refine congrArg Host.Outcome.next ((congrArg (fun o => hostWrite s who o true _) e).trans (hostWrite_view h true _ (by omega)
    (by rw [if_pos rfl]; omega) (by rw [if_pos rfl]; omega) (by omega) (by omega) fun k => ?_))
  rw [Nat.add_right_comm]
  exact targetRows_find k word false

/-- What a pending bit does to a source in each of its states (R452). -/
theorem writePend_cases (x : Src) (b : Bool) :
    (x.st = .idle → b = true → x.writePend b = { x with st := .pending, code := Config.NONE }) ∧
    (x.st = .pending → b = false → x.writePend b = { x with st := .active, retrig := false }) ∧
    (x.st = .active → b = true → x.writePend b = { x with retrig := true }) ∧
    (x.st = .idle → b = false → x.writePend b = x) ∧ (x.st = .pending → b = true → x.writePend b = x) ∧
    (x.st = .active → b = false → x.writePend b = x) := by
  refine ⟨?_, ?_, ?_, ?_, ?_, ?_⟩ <;> intro hx hb <;> simp [Src.writePend, hx, hb]

/-! ## Completions -/

theorem exec_complete {s : State} {who : Who} {view : ChView} (h : ViewMay s who view) (data : W32) :
    exec (.complete who view data) s = .next (chComplete s (viewTarget view) (data.setWidth 10).toNat) := by
  have e : bitField data.toNat 9 0 = (data.setWidth 10).toNat := by
    rw [BitVec.toNat_setWidth]; simp [bitField]
  refine congrArg Host.Outcome.next ((hostWrite_view h false _ (by omega) rfl rfl (by omega) (by omega)
    targetRows_find_complete).trans ?_)
  rw [e]

/-- A completion that finds no ACTIVE source in its view is stray; another one moves the source (R452, R454). -/
theorem chComplete_view (s : State) (view : ChView) (n : Nat) :
    chComplete s (viewTarget view) n =
      if ChView.sees s (viewTarget view) n && (s.src n).st == .active then
        chEval (s.setSrc n ((s.src n).completeWith (chSignal s n)))
      else chStray s n := by
  cases view <;> rfl

/-! ## Source configuration -/

/-- The level signals do not depend on the Chime. -/
theorem chSignal_chime (s : State) (c : Chime) (n : Nat) : chSignal { s with chime := c } n = chSignal s n := rfl
theorem chLevelInfo_chime (s : State) (c : Chime) (n : Nat) : chLevelInfo { s with chime := c } n = chLevelInfo s n := rfl

theorem setSrc_eq (s : State) (n : Nat) (x : Src) :
    s.setSrc n x = { s with chime := { s.chime with srcs := tput s.chime.srcs n x } } := rfl

theorem exec_srcCfgWrite {s : State} {who : Who} (h : ManagerMay s who) (source : BitVec 10) (data : W32) :
    exec (.srcCfgWrite who source data) s = .next (srcConfig s source.toNat (data.setWidth 64)) :=
  have hs : source.toNat < 1024 := source.isLt
  congrArg Host.Outcome.next (hostWrite_may h _ false _ (by rw [if_neg (by decide)]; omega)
    (by unfold windowCore; rw [if_neg (by omega)]))

/-- The fields of a written source configuration. -/
theorem srcConfig_fields (x : Src) (data : W32) (p : Bool) :
    ({ x with urgent := bitAt (data.setWidth 64).toNat 8, target := BitVec.ofNat 3 (bitField (data.setWidth 64).toNat 6 4),
              sense := (data.setWidth 64).setWidth 2, prev := p } : Src) =
      { x with urgent := data.getLsbD 8, target := data.extractLsb' 4 3, sense := data.setWidth 2, prev := p } := by
  have hu : bitAt (data.setWidth 64).toNat 8 = data.getLsbD 8 := by rw [bitAt_eq_getLsbD]; simp
  have hn : (data.setWidth 64).toNat = data.toNat := by
    rw [BitVec.toNat_setWidth]; exact Nat.mod_eq_of_lt (by have := data.isLt; omega)
  have ht : BitVec.ofNat 3 (bitField (data.setWidth 64).toNat 6 4) = data.extractLsb' 4 3 := by
    apply BitVec.eq_of_toNat_eq
    rw [hn]; simp [bitField, BitVec.extractLsb'_toNat]
  have hs : (data.setWidth 64).setWidth 2 = data.setWidth 2 := by
    apply BitVec.eq_of_toNat_eq
    rw [BitVec.toNat_setWidth, hn, BitVec.toNat_setWidth]
  rw [hu, ht, hs]

/-- A sample that finds the signal where the edge detector left it makes an event of a LEVEL source alone (R451). -/
theorem eventOn_prev (x : Src) (hp : x.prev = cur) : x.eventOn cur = (x.sense == 0#2 && cur && x.st == .idle) := by
  have h4 : x.sense.toNat < 4 := x.sense.isLt
  have h0 : (x.sense == 0#2) = (x.sense.toNat == 0) := by
    by_cases h : x.sense = 0#2
    · simp [h]
    · have hn : x.sense.toNat ≠ 0 := fun hh => h (BitVec.eq_of_toNat_eq hh)
      simp [h, hn]
  unfold Src.eventOn
  rw [h0, hp]
  obtain ⟨k, hk⟩ : ∃ k, x.sense.toNat = k := ⟨_, rfl⟩
  rw [hk] at h4 ⊢
  match k, h4 with
  | 0, _ => simp
  | 1, _ => simp
  | 2, _ => simp
  | 3, _ => simp

/-- One sample of source n while the Chime runs, as an evaluation of the outputs. -/
theorem chSample_runs {s : State} (h : s.chRuns = true) (n : Nat) : ∃ o, chSample s n =
    chEval (({ s with obs := o } : State).setSrc n
      ((s.src n).sampleWith (chSignal s n) (chLevelInfo s n).1 (chLevelInfo s n).2)) ∧
    ((s.src n).eventOn (chSignal s n) = false → o = s.obs) := by
  rw [chSample_eq, if_pos h]
  split
  · next he =>
    obtain ⟨o, ho⟩ : ∃ o, chTrace s n (chLevelInfo s n).1 = { s with obs := o } := by
      unfold chTrace traceKeeper
      split_ifs
      exacts [⟨_, rfl⟩, ⟨_, rfl⟩, ⟨_, rfl⟩]
    exact ⟨o, by rw [ho], fun hf => absurd he (by rw [hf]; decide)⟩
  · exact ⟨s.obs, rfl, fun _ => rfl⟩

theorem sampleWith_of_no_event {x : Src} {cur : Bool} (code : BitVec 16) (data : W32) (h : x.eventOn cur = false)
    (hp : x.prev = cur) : x.sampleWith cur code data = x := by
  unfold Src.sampleWith
  rw [if_neg (by simp [h])]
  cases x; simp_all

/-- The second of two writes of one entry stands. -/
theorem tput_tput {α : Type} (t : List (Nat × α)) (k : Nat) (v w : α) : tput (tput t k v) k w = tput t k w := by
  induction t with
  | nil => simp [tput]
  | cons p r ih =>
    obtain ⟨i, u⟩ := p
    simp only [tput]
    by_cases hlt : k < i
    · simp [hlt, tput]
    · by_cases he : k = i
      · simp [he, tput]
      · simp [hlt, he, tput, ih]

/-- The state as SRC_CFG_WRITE leaves the written source, before it samples. -/
def State.configured (s : State) (n : Nat) (x : Src) : State := chEval (s.setSrc n x)

theorem configured_eq (s : State) (n : Nat) (x : Src) : ∃ c, s.configured n x = { s with chime := c } := by
  obtain ⟨ts, he, -⟩ := chEval_spec (s.setSrc n x)
  exact ⟨_, he⟩

/-- A configured source that its sample leaves alone: the outputs follow, and nothing else is reported. -/
theorem sample_configured_quiet {s : State} (hp : s.portAlive = true) {n : Nat} {x : Src} (hx : x.prev = chSignal s n)
    (he : x.sense ≠ 0#2 ∨ x.st ≠ .idle ∨ chSignal s n = false) {t : State} (ht : t = chSample (s.configured n x) n) :
    t.src n = x ∧ (∀ m, m ≠ n → t.src m = s.src m) ∧ t.chime.strayCount = s.chime.strayCount ∧ t.obs = s.obs ∧
      OutputsFollow s t := by
  have hheld : (s.setSrc n x).outputsHeld = (s.setSrc n x).chime.heldLow := outputsHeld_of_chRuns (s := s) (Or.inr hp)
  have hev : x.eventOn (chSignal s n) = false := by
    rw [eventOn_prev x hx]
    rcases he with h | h | h <;> simp [h]
  obtain ⟨ts, hc, htgt⟩ := chEval_spec (s.setSrc n x)
  have hsrc : (s.configured n x).src n = x := by rw [State.configured, chEval_src, setSrc_src_self]
  have hsig : chSignal (s.configured n x) n = chSignal s n := by
    obtain ⟨c, hc'⟩ := configured_eq s n x; rw [hc']; rfl
  by_cases hr : (s.configured n x).chRuns = true
  · obtain ⟨o, hs, ho⟩ := chSample_runs hr n
    rw [hsrc, hsig] at hs ho
    rw [ho hev, sampleWith_of_no_event _ _ hev hx] at hs
    have hself : ({ s.configured n x with obs := (s.configured n x).obs } : State).setSrc n x = (s.setSrc n x).withTargets ts := by
      change (s.configured n x).setSrc n x = _
      rw [State.configured, hc, setSrc_eq]
      change (({ s with chime := { s.chime with srcs := tput (tput s.chime.srcs n x) n x, targets := ts } } : State)) = _
      rw [tput_tput]; rfl
    rw [hself] at hs
    rw [ht, hs]
    refine ⟨by rw [chEval_src, withTargets_src, setSrc_src_self], fun m hm => ?_, chEval_strayCount _, chEval_obs _, fun k hk => ?_⟩
    · rw [chEval_src, withTargets_src, setSrc_src_ne s x hm]
    · refine outputFollows_of_follow ?_
      rw [chEval_target _ hk, chEval_heldLow, chEval_liveSrcs, withTargets_target, htgt k hk, withTargets_outputsHeld,
        withTargets_liveSrcs, Target.follow_follow, setSrc_target, hheld]
      rfl
  · have hs : t = chEval (s.setSrc n x) := by rw [ht, chSample_eq, if_neg hr]; rfl
    rw [hs]
    refine ⟨by rw [chEval_src, setSrc_src_self], fun m hm => by rw [chEval_src, setSrc_src_ne s x hm], chEval_strayCount _,
      chEval_obs _, fun k hk => ?_⟩
    have := chEval_follows hheld hk
    rwa [setSrc_target] at this

/-- A configured LEVEL source that is idle with its signal at 1 takes the event of its sample (R451). -/
theorem sample_configured_event {s : State} (hr : s.chRuns = true) {n : Nat} {x : Src} (hx : x.prev = chSignal s n)
    (h0 : x.sense = 0#2) (hi : x.st = .idle) (hsg : chSignal s n = true) {t : State} (ht : t = chSample (s.configured n x) n) :
    t.src n = { x with st := .pending, count := x.count + 1#16, code := (chLevelInfo s n).1, data := (chLevelInfo s n).2 } := by
  obtain ⟨c, hc⟩ := configured_eq s n x
  have hr' : (s.configured n x).chRuns = true := by rw [hc]; exact hr
  have hsrc : (s.configured n x).src n = x := by rw [State.configured, chEval_src, setSrc_src_self]
  have hsig : chSignal (s.configured n x) n = true := by rw [hc]; exact hsg
  have hinfo : chLevelInfo (s.configured n x) n = chLevelInfo s n := by rw [hc]; rfl
  obtain ⟨o, hs, -⟩ := chSample_runs hr' n
  have hev : x.eventOn true = true := by rw [eventOn_prev x (hx.trans hsg)]; simp [h0, hi]
  rw [hsrc, hsig, hinfo] at hs
  rw [ht, hs, chEval_src, setSrc_src_self]
  unfold Src.sampleWith
  rw [if_pos hev]
  cases x; simp_all [Src.event]

/-- Whatever a configured source's sample does: the other sources stand, and the targets keep their settings. -/
theorem sample_configured_frame (s : State) (n : Nat) (x : Src) {t : State} (ht : t = chSample (s.configured n x) n) :
    (∀ m, m ≠ n → t.src m = s.src m) ∧ t.chime.strayCount = s.chime.strayCount ∧
    (∀ k < 8, (t.target k).modUs = (s.target k).modUs ∧ (t.target k).idleIn = (s.target k).idleIn ∧
      ((s.target k).wdogDrive = false → t.liveSrcs k = [] → (t.target k).out = false)) := by
  obtain ⟨ts, hc, htgt⟩ := chEval_spec (s.setSrc n x)
  by_cases hr : (s.configured n x).chRuns = true
  · obtain ⟨o, hs, -⟩ := chSample_runs hr n
    generalize ((s.configured n x).src n).sampleWith (chSignal (s.configured n x) n) (chLevelInfo (s.configured n x) n).1
      (chLevelInfo (s.configured n x) n).2 = y at hs
    rw [State.configured, hc] at hs
    rw [ht, State.configured, hc, hs]
    refine ⟨fun m hm => ?_, chEval_strayCount _, fun k hk => ?_⟩
    · rw [chEval_src, setSrc_src_ne _ _ hm]
      exact setSrc_src_ne s x hm
    · have hbase : (({ (s.setSrc n x).withTargets ts with obs := o } : State).setSrc n y).target k = tget Target.reset ts k := rfl
      rw [chEval_target _ hk, hbase, htgt k hk, setSrc_target]
      refine ⟨by rw [Target.follow_modUs, Target.follow_modUs], by rw [Target.follow_idleIn, Target.follow_idleIn], fun hw hl => ?_⟩
      rw [chEval_liveSrcs] at hl
      rw [hl]
      exact Target.follow_out_of_nil (by rw [Target.follow_wdogDrive]; exact hw) _
  · have hs : t = chEval (s.setSrc n x) := by rw [ht, chSample_eq, if_neg hr]; rfl
    rw [hs]
    refine ⟨fun m hm => by rw [chEval_src, setSrc_src_ne s x hm], chEval_strayCount _, fun k hk => ?_⟩
    rw [chEval_target _ hk, setSrc_target]
    refine ⟨Target.follow_modUs _ _ _, Target.follow_idleIn _ _ _, fun hw hl => ?_⟩
    rw [chEval_liveSrcs] at hl
    rw [hl]
    exact Target.follow_out_of_nil hw _

/-! ## Moderation and the idle input -/

/-- An evaluation after one target was set: that target follows from its new value, every other one from its old. -/
theorem chEval_setTarget {s : State} (hr : s.chRuns = true) (k : Nat) (hk : k < 8) (x : Target) {t : State}
    (ht : t = chEval (s.setTarget k x)) :
    OutputFollows x t k ∧ (∀ j < 8, j ≠ k → OutputFollows (s.target j) t j) ∧ t.chime.srcs = s.chime.srcs ∧ Only [.chime] s t := by
  have hheld : (s.setTarget k x).outputsHeld = (s.setTarget k x).chime.heldLow := outputsHeld_of_chRuns (s := s) (Or.inl hr)
  subst ht
  refine ⟨?_, fun j hj hn => ?_, chEval_srcs _, Only.step (chEval_only _) (by decide) (State.setTarget_only _ _ _)⟩
  · have := chEval_follows hheld hk
    rwa [setTarget_target_self] at this
  · have := chEval_follows hheld hj
    rwa [setTarget_target_ne s x hn] at this

theorem modExpire_eq (s : State) (k : Nat) : modExpire s k =
    if s.chRuns && !(s.target k).out && !(s.liveSrcs k).isEmpty then
      chEval (s.setTarget k { s.target k with timerNs := max (s.target k).timerNs (1000 * (s.target k).modUs.toNat) })
    else s := rfl

/-! ## The statement -/

/-- Settles O54: a word moves its sources bit by bit, and one evaluation makes every output follow. -/
theorem chimeSourcesAndOutputs : Obligations.ChimeSourcesAndOutputs := by
  refine ⟨?_, ?_, ?_, ?_⟩
  · intro s who view word data h at' within
    have hp := portAlive_of_viewMay h
    have ep := exec_pendingWrite h word data
    have em := exec_maskWrite h word data
    refine ⟨⟨_, ep, ?_⟩, ⟨_, em, ?_⟩⟩
    · obtain ⟨hout, hin, hfol, hstray⟩ := chBits_spec hp view word data writePend_target rfl
      refine ⟨hout, fun n hn => ?_, hfol, hstray, Only.step (pendBits_only _ _ _ _ _) (by decide) (Only.refl _ _)⟩
      have hw := writePend_cases (s.src n) (at' n)
      rw [← hin n hn] at hw
      exact hw
    · obtain ⟨hout, hin, hfol, hstray⟩ := chBits_spec hp view word data (f := fun x b => { x with masked := b }) (fun _ _ => rfl) rfl
      exact ⟨hout, hin, hfol, hstray, Only.step (maskBits_only _ _ _ _ _) (by decide) (Only.refl _ _)⟩
  · intro s who view data h n x
    have e := exec_complete h data
    rw [chComplete_view] at e
    refine ⟨fun hn => ?_, fun ha hs => ?_⟩
    · rw [if_neg] at e
      · exact e
      · rw [Bool.and_eq_true, sees_iff_shows, beq_iff_eq]
        rintro ⟨h1, h2⟩
        exact hn.elim (fun h => h h2) (fun h => h h1)
    · rw [if_pos (by rw [Bool.and_eq_true, sees_iff_shows, beq_iff_eq]; exact ⟨hs, ha⟩)] at e
      have hheld : ∀ y, (s.setSrc n y).outputsHeld = (s.setSrc n y).chime.heldLow :=
        fun y => outputsHeld_of_chRuns (s := s) (Or.inr (portAlive_of_viewMay h))
      refine ⟨_, e, fun m hm => by rw [chEval_src, setSrc_src_ne s _ hm], fun k hk => ?_, chEval_strayCount _,
        Only.step (chEval_only _) (by decide) (State.setSrc_only _ _ _), fun hor => ?_, fun hre hor => ?_⟩
      · have := chEval_follows (hheld ((s.src n).completeWith (chSignal s n))) hk
        rwa [setSrc_target] at this
      · rw [chEval_src, setSrc_src_self]
        exact if_pos (by rw [Bool.or_eq_true, Bool.and_eq_true, beq_iff_eq]; exact hor)
      · rw [chEval_src, setSrc_src_self]
        refine if_neg fun hc => ?_
        rw [Bool.or_eq_true, Bool.and_eq_true, beq_iff_eq] at hc
        rcases hc with hc | ⟨h0, hc⟩
        · exact absurd (hc.symm.trans hre) (by decide)
        · exact hor.elim (fun h => h h0) (fun h => absurd (hc.symm.trans h) (by decide))
  · intro s who source data h n x
    have e : exec (.srcCfgWrite who source data) s = .next (chSample (s.configured n x) n) := by
      rw [exec_srcCfgWrite h]
      exact congrArg (fun y => Host.Outcome.next (chSample (s.configured n y) n)) (srcConfig_fields (s.src n) data (chSignal s n))
    have hm : ManagerMay s who := h
    obtain ⟨hsrcs, hstray, htgts⟩ := sample_configured_frame s n x rfl
    refine ⟨_, e, hsrcs, hstray, Only.step (chSample_only _ _) (by decide) (Only.step (chEval_only _) (by decide)
      (Only.step (State.setSrc_only _ _ _) (by decide) (Only.refl _ _))), htgts, fun hr h0 hi hsg => ?_, fun hq => ?_⟩
    · exact sample_configured_event hr rfl h0 hi hsg rfl
    · obtain ⟨h1, -, -, h2, h3⟩ := sample_configured_quiet hm.1 (x := x) rfl hq rfl
      exact ⟨h1, h2, h3⟩
  · intro s target level k x
    have hk : k < 8 := target.isLt
    have e : exec (.moderationTimeout target) s = .next (modExpire s k) := rfl
    have ei : exec (.chIdle target level) s = .next
      (if (s.setTarget k { x with idleIn := level }).chRuns then chEval (s.setTarget k { x with idleIn := level })
        else s.setTarget k { x with idleIn := level }) := rfl
    have hrun : (s.setTarget k { x with idleIn := level }).chRuns = s.chRuns := rfl
    rw [modExpire_eq] at e
    rw [hrun] at ei
    refine ⟨fun hno => ?_, fun hr ho hl => ?_, fun hr => ?_, fun hr => ?_⟩
    · rw [e, if_neg]
      rcases hno with h | h | h
      · simp [h]
      · rw [show (s.target k).out = true from h]; simp
      · simp [h]
    · rw [if_pos (by rw [hr, show (s.target k).out = false from ho]; simpa using hl)] at e
      obtain ⟨hf, hfs, hsr, hon⟩ := chEval_setTarget hr k hk
        { s.target k with timerNs := max (s.target k).timerNs (1000 * (s.target k).modUs.toNat) } rfl
      refine ⟨_, e, hf, fun hw hh => ?_, hfs, hsr, hon⟩
      obtain ⟨-, -, hy⟩ := hf
      obtain ⟨-, hy, -⟩ := hy hw (by rw [chEval_heldLow]; exact hh)
      rw [hy (by rw [chEval_liveSrcs]; exact hl) (Or.inr (Or.inr (Or.inl (Nat.le_max_right _ _))))]
    · rw [ei, if_neg (by simp [hr])]
    · rw [if_pos hr] at ei
      exact ⟨_, ei, chEval_setTarget hr k hk _ rfl⟩

end Sys2Proof.Machine
end

section
/-! SUPPORT. Sets as bit masks, and the bitmap lines that the dirty log writes back (R376 to R380). -/

namespace Sys2Proof.Machine

/-! ## Masks -/

theorem nodup_eraseDups {α : Type} [BEq α] [LawfulBEq α] (l : List α) : l.eraseDups.Nodup := by
  induction hn : l.length using Nat.strong_induction_on generalizing l with
  | _ n ih =>
    cases l with
    | nil => exact List.nodup_nil
    | cons a r =>
      rw [List.eraseDups_cons, List.nodup_cons]
      refine ⟨fun h => ?_, ih _ ?_ _ rfl⟩
      · rw [List.mem_eraseDups, List.mem_filter] at h
        simp at h
      · rw [← hn]
        exact Nat.lt_succ_of_le (List.length_filter_le _ _)

/-- Adding a power of two whose bit is clear sets that bit alone. -/
theorem testBit_add_two_pow {a i : Nat} (h : a.testBit i = false) (k : Nat) :
    (a + 2 ^ i).testBit k = (a.testBit k || decide (i = k)) := by
  have hand : BitVec.ofNat (a + 2 ^ i) a &&& BitVec.ofNat (a + 2 ^ i) (2 ^ i) = 0#_ := by
    apply BitVec.eq_of_getLsbD_eq
    intro j hj
    rw [BitVec.getLsbD_and, BitVec.getLsbD_ofNat, BitVec.getLsbD_ofNat, Nat.testBit_two_pow, BitVec.getLsbD_zero]
    by_cases hij : i = j
    · rw [← hij, h]; simp
    · simp [hij]
  have hor := congrArg BitVec.toNat (BitVec.add_eq_or_of_and_eq_zero _ _ hand)
  have hlt : a + 2 ^ i < 2 ^ (a + 2 ^ i) := Nat.lt_two_pow_self
  have ha : a < 2 ^ (a + 2 ^ i) := Nat.lt_of_le_of_lt (Nat.le_add_right _ _) hlt
  have hi : 2 ^ i < 2 ^ (a + 2 ^ i) := Nat.lt_of_le_of_lt (Nat.le_add_left _ _) hlt
  rw [← BitVec.ofNat_add, BitVec.toNat_or, BitVec.toNat_ofNat, BitVec.toNat_ofNat, BitVec.toNat_ofNat, Nat.mod_eq_of_lt hlt,
    Nat.mod_eq_of_lt ha, Nat.mod_eq_of_lt hi] at hor
  rw [hor, Nat.testBit_or, Nat.testBit_two_pow]

theorem testBit_foldl_two_pow (l : List Nat) (hl : l.Nodup) (a : Nat) (ha : ∀ i ∈ l, a.testBit i = false) (k : Nat) :
    (l.foldl (fun a i => a + 2 ^ i) a).testBit k = (a.testBit k || decide (k ∈ l)) := by
  induction l generalizing a with
  | nil => simp
  | cons i r ih =>
    obtain ⟨hi, hr⟩ := List.nodup_cons.mp hl
    have hb := testBit_add_two_pow (ha i (List.mem_cons_self ..))
    rw [List.foldl_cons, ih hr _ (fun j hj => ?_), hb, Bool.or_assoc]
    · simp only [List.mem_cons, eq_comm (a := i), Bool.decide_or]
    · rw [hb, ha j (List.mem_cons_of_mem _ hj)]
      simpa using fun e : i = j => hi (e ▸ hj)

/-- A mask has the bits of its set. -/
theorem testBit_maskOf (l : List Nat) (k : Nat) : (maskOf l).testBit k = decide (k ∈ l) := by
  unfold maskOf
  rw [testBit_foldl_two_pow _ (nodup_eraseDups l) 0 (fun i _ => Nat.zero_testBit i), Nat.zero_testBit, Bool.false_or]
  simp only [List.mem_eraseDups]

/-! ## A line written back -/

/-- Byte j of a bitmap once the pages set are written into it. -/
def Dirty.backByte (d : Dirty) (j : Nat) (b : Byte) : Byte :=
  BitVec.ofNat 8 (b.toNat ||| maskOf ((d.set.filter fun k => k / 8 == j).map fun k => k % 8))

theorem bitAt_backByte (d : Dirty) (j : Nat) (b : Byte) {k : Nat} (hk : k < 8) :
    bitAt (d.backByte j b).toNat k = (bitAt b.toNat k || d.set.contains (8 * j + k)) := by
  unfold Dirty.backByte
  rw [bitAt_eq_getLsbD, bitAt_eq_getLsbD, BitVec.getLsbD_ofNat, Nat.testBit_or, testBit_maskOf]
  have hm : (k ∈ (d.set.filter fun k => k / 8 == j).map fun k => k % 8) ↔ (8 * j + k) ∈ d.set := by
    simp only [List.mem_map, List.mem_filter, beq_iff_eq]
    constructor
    · rintro ⟨x, ⟨hx, hj⟩, hxk⟩
      rwa [show 8 * j + k = x by omega]
    · intro hx
      exact ⟨8 * j + k, ⟨hx, by omega⟩, by omega⟩
  simp [hm, hk, BitVec.getLsbD]

/-- Write one line of the active bitmap back. -/
def backLine (d : Dirty) (n : Nat) (s : State) (l : Nat) : State :=
  let a := d.base d.active + 128 * l
  let bs := (List.range 128).map fun j => BitVec.ofNat 8 ((s.byteAt (a + j)).toNat |||
    maskOf ((d.set.filter fun k => k / 8 == 128 * l + j).map fun k => k % 8))
  let len := (s.inst n).pools.lineLen l
  let s := pmGlobal (storeBytes (writeWatch s a len) a (bs.take len)) 5 len
  let w : WriteReq := { port := granulePort s.poolPorts a, addr := a, len := len, inst := n, ctx := none, owner := .dirty n, flips := [] }
  { s with writes := s.writes ++ [w] }

theorem dirtyBack_eq (s : State) (n : Nat) :
    dirtyBack s n = (s.inst n).dirty.lines.foldl (backLine (s.inst n).dirty n) s := rfl

theorem backLine_only (d : Dirty) (n : Nat) (s : State) (l : Nat) : Only dirtyBackParts s (backLine d n s l) := by
  unfold backLine
  extract_lets a bs len u w
  refine Only.set_writes (by decide) ?_
  exact Only.step (pmGlobal_only _ _ _) (by decide) (Only.step (storeBytes_only _ _ _) (by decide)
    (Only.step (writeWatch_only _ _ _) (by decide) (Only.refl _ _)))

/-- An address lies in a line of a bitmap. -/
def Dirty.inLine (d : Dirty) (p : Pools) (l a : Nat) : Prop :=
  d.base d.active + 128 * l ≤ a ∧ a < d.base d.active + 128 * l + p.lineLen l

theorem lineLen_le (p : Pools) (l : Nat) : p.lineLen l ≤ 128 := Nat.min_le_left _ _

theorem backLine_mem (d : Dirty) (n : Nat) (s : State) (l : Nat) : (backLine d n s l).mem =
    memPutAll s.mem (d.base d.active + 128 * l) (((List.range 128).map fun j => d.backByte (128 * l + j)
      (s.byteAt (d.base d.active + 128 * l + j))).take ((s.inst n).pools.lineLen l)) := by
  unfold backLine
  extract_lets a bs len u w
  have h : u.mem = (storeBytes (writeWatch s a len) a (bs.take len)).mem := (pmGlobal_only _ _ _) .mem (by decide)
  refine h.trans ?_
  exact congrArg (fun m => memPutAll m a (bs.take len)) ((writeWatch_only s a len) .mem (by decide))

theorem backLine_outside {d : Dirty} {n : Nat} {s : State} {l a : Nat} (h : ¬d.inLine (s.inst n).pools l a) :
    memGet (backLine d n s l).mem a = memGet s.mem a := by
  rw [backLine_mem]
  refine memGet_memPutAll_outside _ _ _ _ ?_
  have := lineLen_le (s.inst n).pools l
  unfold Dirty.inLine at h
  rw [List.length_take, List.length_map, List.length_range, Nat.min_eq_left this]
  omega

theorem backLine_inside {d : Dirty} {n : Nat} {s : State} {l a : Nat} (h : d.inLine (s.inst n).pools l a) :
    memGet (backLine d n s l).mem a = d.backByte (a - d.base d.active) (s.byteAt a) := by
  obtain ⟨h1, h2⟩ := h
  have hle := lineLen_le (s.inst n).pools l
  obtain ⟨j, rfl⟩ := Nat.exists_eq_add_of_le h1
  have hj : j < (s.inst n).pools.lineLen l := by omega
  rw [backLine_mem, memGet_memPutAll_inside _ _ _ _ (by
    rw [List.length_take, List.length_map, List.length_range, Nat.min_eq_left hle]; exact hj)]
  rw [List.getD_eq_getElem?_getD, List.getElem?_take_of_lt hj, List.getElem?_map, List.getElem?_range (by omega)]
  rw [show d.base d.active + 128 * l + j - d.base d.active = 128 * l + j by omega]
  rfl

/-- Two lines of a bitmap have no address in common. -/
theorem inLine_unique {d : Dirty} {p : Pools} {l m a : Nat} (h : d.inLine p l a) (g : d.inLine p m a) : l = m := by
  have := lineLen_le p l
  have := lineLen_le p m
  unfold Dirty.inLine at h g
  omega

/-- The lines written back: bytes outside them stand, a byte of a line that lies in memory takes its pages. -/
theorem backLines_mem (d : Dirty) (n : Nat) (ls : List Nat) (hn : ls.Nodup) (s : State) :
    (∀ a, (∀ l ∈ ls, ¬d.inLine (s.inst n).pools l a) → memGet (ls.foldl (backLine d n) s).mem a = memGet s.mem a) ∧
    (∀ l ∈ ls, ∀ a, d.inLine (s.inst n).pools l a → s.inObjTable a = false →
      memGet (ls.foldl (backLine d n) s).mem a = d.backByte (a - d.base d.active) (memGet s.mem a)) := by
  induction ls generalizing s with
  | nil => exact ⟨fun _ _ => rfl, fun l h => absurd h (List.not_mem_nil)⟩
  | cons m r ih =>
    obtain ⟨hm, hr⟩ := List.nodup_cons.mp hn
    have hinst : (backLine d n s m).inst n = s.inst n :=
      congrArg (fun t => tget Inst.reset t n) ((backLine_only d n s m) .insts (by decide))
    have hkp : (backLine d n s m).kp = s.kp := (backLine_only d n s m) .kp (by decide)
    have hobj : ∀ a, (backLine d n s m).inObjTable a = s.inObjTable a := fun a => by unfold State.inObjTable; rw [hkp]
    obtain ⟨hout, hin⟩ := ih hr (backLine d n s m)
    rw [hinst] at hout hin
    refine ⟨fun a h => ?_, fun l hl a ha ho => ?_⟩
    · rw [List.foldl_cons, hout a fun l hl => h l (List.mem_cons_of_mem _ hl)]
      exact backLine_outside (h m (List.mem_cons_self ..))
    · rw [List.foldl_cons]
      rcases List.mem_cons.mp hl with rfl | hl'
      · rw [hout a fun k hk hka => hm (inLine_unique ha hka ▸ hk), backLine_inside ha]
        unfold State.byteAt
        rw [if_neg (by simp [ho])]
      · rw [hin l hl' a ha ((hobj a).trans ho), backLine_outside fun hma : d.inLine (s.inst n).pools m a => hm ((inLine_unique hma ha).symm ▸ hl')]

/-- What a flip or the end of the log stores: bytes outside the bitmap stand, and a byte of it takes the bits of the pages
set. -/
theorem dirtyBack_stores (s : State) (n : Nat) {t : State} (hmem : t.mem = (dirtyBack s n).mem) (hkp : t.kp = s.kp) :
    (∀ a, (a < (s.inst n).dirty.base (s.inst n).dirty.active ∨
        (s.inst n).dirty.base (s.inst n).dirty.active + (s.inst n).pools.bitmapLen ≤ a) → memGet t.mem a = memGet s.mem a) ∧
    ((∀ j, j < (s.inst n).pools.bitmapLen → s.inObjTable ((s.inst n).dirty.base (s.inst n).dirty.active + j) = false) →
      ∀ j k, j < (s.inst n).pools.bitmapLen → k < 8 →
        bitAt (t.byteAt ((s.inst n).dirty.base (s.inst n).dirty.active + j)).toNat k =
          (bitAt (s.byteAt ((s.inst n).dirty.base (s.inst n).dirty.active + j)).toNat k ||
            (s.inst n).dirty.set.contains (8 * j + k))) := by
  obtain ⟨hout, hin⟩ := backLines_mem (s.inst n).dirty n (s.inst n).dirty.lines (nodup_eraseDups _) s
  rw [← dirtyBack_eq] at hout hin
  generalize hd : (s.inst n).dirty = d at *
  generalize hp : (s.inst n).pools = p at *
  refine ⟨fun a ha => ?_, fun hobj j k hj hk => ?_⟩
  · rw [hmem]
    refine hout a fun l _ h => ?_
    unfold Dirty.inLine Pools.lineLen at h
    omega
  · have ho := hobj j hj
    have ho' : t.inObjTable (d.base d.active + j) = false := by unfold State.inObjTable at ho ⊢; rw [hkp]; exact ho
    unfold State.byteAt
    rw [if_neg (by rw [ho']; decide), if_neg (by rw [ho]; decide), hmem]
    have hline : d.inLine p (j / 128) (d.base d.active + j) := by unfold Dirty.inLine Pools.lineLen; omega
    by_cases hl : j / 128 ∈ d.lines
    · rw [hin _ hl _ hline ho, Nat.add_sub_cancel_left, bitAt_backByte _ _ _ hk]
    · rw [hout _ fun l hl' h => hl (inLine_unique hline h ▸ hl')]
      have hc : d.set.contains (8 * j + k) = false := by
        rw [Bool.eq_false_iff]
        intro h
        refine hl (List.mem_eraseDups.mpr (List.mem_map.mpr ⟨8 * j + k, by simpa using h, by omega⟩))
      rw [hc, Bool.or_false]

/-! ## The control register (R378, R379) -/

theorem exec_dirty {s : State} {who : Who} (h : ManagerMay s who) :
    exec (.dirtyEnable who) s = putDirtyCtl s 1#64 ∧ exec (.dirtyFlip who) s = putDirtyCtl s 5#64 ∧
    exec (.dirtyDisable who) s = putDirtyCtl s 0#64 := by
  obtain ⟨hp, hh, hr, hi, hv⟩ := h
  have hg : hostCheck s who 0x828 true false = .granted :=
    hostCheck_manager s who 0x828 true false hp hh (Or.inl hr) hv hi rfl rfl
  have h' : ∀ v, dirtyWrite s who v = putDirtyCtl s v := fun v => by unfold dirtyWrite; rw [hg]
  exact ⟨h' _, h' _, h' _⟩

/-- DIRTY_ENABLE writes no line. -/
theorem putDirtyCtl_enable (s : State) : putDirtyCtl s 1#64 = .next (
    if (s.inst s.kp.instSel.toNat).state = .free ∨ (s.inst s.kp.instSel.toNat).state = .resetting then s
    else if (s.inst s.kp.instSel.toNat).dirty.enable then s else dirtyEnable s s.kp.instSel.toNat) := rfl

/-- DIRTY_FLIP writes lines unless a flip is in progress. -/
theorem putDirtyCtl_flip (s : State) : putDirtyCtl s 5#64 =
    if !(s.inst s.kp.instSel.toNat).dirty.flipBusy && s.dirtyBeyond s.kp.instSel.toNat then .fault .addressSpace
    else .next (
      if (s.inst s.kp.instSel.toNat).state = .free ∨ (s.inst s.kp.instSel.toNat).state = .resetting then
        dirtyFlip s s.kp.instSel.toNat
      else if (s.inst s.kp.instSel.toNat).dirty.enable then dirtyFlip s s.kp.instSel.toNat
      else dirtyEnable s s.kp.instSel.toNat) := rfl

/-- DIRTY_DISABLE writes lines of an instance that is neither FREE nor RESETTING. -/
theorem putDirtyCtl_disable (s : State) : putDirtyCtl s 0#64 =
    if (s.inst s.kp.instSel.toNat).state = .free ∨ (s.inst s.kp.instSel.toNat).state = .resetting then .next s
    else if s.dirtyBeyond s.kp.instSel.toNat then .fault .addressSpace else .next (dirtyStop s s.kp.instSel.toNat) := by
  have hc : s.ctlWrites 0#64 =
      ((s.inst s.kp.instSel.toNat).state != .free && (s.inst s.kp.instSel.toNat).state != .resetting) := by
    change ((true && (s.inst s.kp.instSel.toNat).state != .free && (s.inst s.kp.instSel.toNat).state != .resetting) ||
      (false && _)) = _
    simp
  have hs : setDirtyCtl s 0#64 = if (s.inst s.kp.instSel.toNat).state = .free ∨ (s.inst s.kp.instSel.toNat).state = .resetting
      then s else dirtyStop s s.kp.instSel.toNat := rfl
  unfold putDirtyCtl
  rw [hc, hs]
  by_cases hd : (s.inst s.kp.instSel.toNat).state = .free ∨ (s.inst s.kp.instSel.toNat).state = .resetting
  · rw [if_pos hd, if_pos hd, if_neg]
    rcases hd with h | h <;> simp [h]
  · rw [if_neg hd, if_neg hd]
    obtain ⟨h1, h2⟩ := not_or.mp hd
    simp [h1, h2]

/-- Without a flip in progress, the log turned on or ended: pages set go to the old bitmap, whose lines are stored. -/
theorem dirtyBack_inst (s : State) (n : Nat) : (dirtyBack s n).inst n = s.inst n :=
  congrArg (fun t => tget Inst.reset t n) ((dirtyBack_only s n) .insts (by decide))

theorem flipWaits_inst (s : State) (n k : Nat) : (flipWaits s n).inst k = s.inst k := rfl

theorem modDirty_dirty (s : State) (n : Nat) (f : Dirty → Dirty) : ((modDirty s n f).inst n).dirty = f (s.inst n).dirty := by
  unfold modDirty State.modInst State.setInst State.inst
  rw [tget_tput_self]

/-- What a flip and the end of the log share: the lines are written back, the log changes, and the writes issued wait. -/
theorem dirtyBack_then (s : State) (n : Nat) (f : Dirty → Dirty) {t : State} (ht : t = flipWaits (modDirty (dirtyBack s n) n f) n) :
    (t.inst n).dirty = f (s.inst n).dirty ∧ t.mem = (dirtyBack s n).mem ∧ t.kp = s.kp := by
  subst ht
  refine ⟨?_, rfl, (dirtyBack_only s n) .kp (by decide)⟩
  rw [flipWaits_inst, modDirty_dirty, dirtyBack_inst]

theorem flipDone_done_iff (s : State) (n : Nat) :
    ((s.inst n).dirty.flipBusy && s.acked (fun o => o == .dirty n) && !s.flipPending n) = true ↔
      (s.inst n).dirty.flipBusy = true ∧ (∀ w ∈ s.writes, w.owner ≠ .dirty n) ∧ s.flipPending n = false := by
  unfold State.acked
  simp [and_assoc]

/-- Settles O44: the control register's cases, with the lines written back counted byte by byte. -/
theorem dirtyLogFlipsAndStops : Obligations.DirtyLogFlipsAndStops := by
  refine ⟨?_, ?_⟩
  · intro s who h n d base len stores set dead
    obtain ⟨een, efl, edi⟩ := exec_dirty h
    rw [putDirtyCtl_enable] at een
    rw [putDirtyCtl_flip] at efl
    rw [putDirtyCtl_disable] at edi
    change exec _ s = .next (if dead then s else if d.enable then s else dirtyEnable s n) at een
    change exec _ s = (if !d.flipBusy && s.dirtyBeyond n then _ else .next (if dead then dirtyFlip s n
      else if d.enable then dirtyFlip s n else dirtyEnable s n)) at efl
    change exec _ s = (if dead then .next s else if s.dirtyBeyond n then _ else .next (dirtyStop s n)) at edi
    have hen : dirtyEnable s n = if d.enable || d.flipBusy then s
      else set fun d => { d with enable := true, active := false, set := [] } := rfl
    have hfl : dirtyFlip s n = if d.enable && !d.flipBusy then flipWaits (modDirty (dirtyBack s n) n fun d =>
      { d with active := !d.active, flipBusy := true, old := d.set, set := [] }) n else s := rfl
    have hst : dirtyStop s n = if d.enable then flipWaits (modDirty (dirtyBack s n) n fun d =>
      { d with enable := false, flipBusy := true, old := d.old ++ d.set, set := [] }) n else s := rfl
    have hbeyond : s.dirtyBeyond n = true → d.enable = true := fun hb => (Bool.and_eq_true_iff.mp hb).1
    have hfonly := dirtyFlip_only s n
    have hsonly := dirtyStop_only s n
    refine ⟨fun hb => ⟨fun hf => ?_, fun hd => ?_⟩, fun hd => ⟨?_, ?_, fun he => ?_⟩, fun hor => ?_, fun he hf => ?_, fun hb =>
      ⟨fun he hf => ?_, fun h1 h2 => ?_⟩⟩
    · rw [efl, if_pos (by simp [hf, hb])]
    · rw [edi, if_neg hd, if_pos hb]
    · rw [een, if_pos hd]
    · rw [edi, if_pos hd]
    · rw [efl, if_neg fun hc => ?_, if_pos hd, hfl, if_neg (by simp [he])]
      exact absurd (hbeyond (Bool.and_eq_true_iff.mp hc).2) (by simp [he])
    · rw [een, hen]
      rcases hor with he | hf
      · rw [if_pos he, ite_self]
      · have hor : (d.enable || d.flipBusy) = true := by rw [hf, Bool.or_true]
        rw [if_pos hor, ite_self, ite_self]
    · rw [efl, if_neg (by rw [hf]; simp), if_pos he, ite_self, hfl, if_neg (by rw [hf]; simp)]
    · rw [hfl, if_pos (by simp [he, hf])] at hfonly
      obtain ⟨hdir, hmem, hkp⟩ := dirtyBack_then s n (fun d =>
        { d with active := !d.active, flipBusy := true, old := d.set, set := [] }) rfl
      refine ⟨_, ?_, hdir, dirtyBack_stores s n hmem hkp, hfonly⟩
      rw [efl, if_neg (by simp [hb]), if_pos he, ite_self, hfl, if_pos (by simp [he, hf])]
    · have hd : ¬dead := fun hd => hd.elim h1 h2
      refine ⟨fun he hf => ?_, fun he => ?_, fun he => ?_⟩
      · have een' : exec (.dirtyEnable who) s = .next (set fun d => { d with enable := true, active := false, set := [] }) := by
          rw [een, if_neg hd, if_neg (by simp [he]), hen, if_neg (by simp [he, hf])]
        have efl' : exec (.dirtyFlip who) s = .next (set fun d => { d with enable := true, active := false, set := [] }) := by
          rw [efl, if_neg (by simp [hb]), if_neg hd, if_neg (by simp [he]), hen, if_neg (by simp [he, hf])]
        intro x hx
        rcases List.mem_cons.mp hx with rfl | hx
        · exact een'
        · rw [List.mem_singleton.mp hx]
          exact efl'
      · rw [edi, if_neg hd, if_neg (by simp [hb]), hst, if_neg (by simp [he])]
      · rw [hst, if_pos he] at hsonly
        obtain ⟨hdir, hmem, hkp⟩ := dirtyBack_then s n (fun d =>
          { d with enable := false, flipBusy := true, old := d.old ++ d.set, set := [] }) rfl
        refine ⟨_, ?_, hdir, dirtyBack_stores s n hmem hkp, hsonly⟩
        rw [edi, if_neg hd, if_neg (by simp [hb]), hst, if_pos he]
  · intro s inst n d done
    have e : exec (.flipDone inst) s = .next (if s.portAlive && !s.obs.halted then (
      if d.flipBusy && s.acked (fun o => o == .dirty n) && !s.flipPending n then
        s.modInst n fun i => { i with dirty := { i.dirty with flipBusy := false, flipDone := true, old := [] } } else s) else s) := rfl
    have hrun : (s.portAlive && !s.obs.halted) = true ↔ Running' s := by simp [Running']
    have hdone := flipDone_done_iff s n
    refine ⟨fun hno => ?_, fun hr hd => ?_⟩
    · rw [e]
      by_cases hr : Running' s
      · rw [if_pos (hrun.mpr hr), if_neg fun hc => hno ⟨hr, hdone.mp hc⟩]
      · rw [if_neg fun hc => hr (hrun.mp hc)]
    · rw [e, if_pos (hrun.mpr hr), if_pos (hdone.mpr hd)]
      rfl

end Sys2Proof.Machine
end

section
/-! SUPPORT. The checks of the host register port one by one (R11, R480, R490, R495, R512, R517, R519), and the effects of
granted writes. -/

namespace Sys2Proof.Machine

section
variable {s : State} {who : Who} {off : Nat} {write wide : Bool}

theorem hostCheck_dead (hp : s.portAlive = false) : hostCheck s who off write wide = .ignored s := by
  simp [hostCheck, hp]

variable (hp : s.portAlive = true)
include hp

theorem hostCheck_misaligned (ha : ¬off % (if wide then 8 else 4) = 0) :
    hostCheck s who off write wide = .ignored (hostErr s) := by
  unfold hostCheck
  rw [if_neg (by simp [hp]), if_pos ha]

variable (ha : off % (if wide then 8 else 4) = 0)
include ha

theorem hostCheck_asleep (hw : ¬(s.obs.halted = true → answersHalted off = true)) :
    hostCheck s who off write wide = .ignored s := by
  unfold hostCheck
  rw [if_neg (by simp [hp]), if_neg (not_not.mpr ha), if_pos (by simpa using hw)]

variable (hw : s.obs.halted = true → answersHalted off = true)
include hw

theorem hostCheck_early (he : ¬(s.boot.state = .ready ∨ answersEarly off = true)) :
    hostCheck s who off write wide = .ignored (hostErr s) := by
  unfold hostCheck
  rw [if_neg (by simp [hp]), if_neg (not_not.mpr ha), if_neg (by simpa using hw), if_pos (by simpa using he)]

theorem hostCheck_nobody (hv : who.valid = false) : hostCheck s who off true wide = .ignored (hostErr s) := by
  by_cases he : s.boot.state = .ready ∨ answersEarly off = true
  · unfold hostCheck
    rw [if_neg (by simp [hp]), if_neg (not_not.mpr ha), if_neg (by simpa using hw),
      if_neg (by simpa [imp_iff_not_or] using he), if_pos (by simp [hv])]
  · exact hostCheck_early hp ha hw he

variable (he : s.boot.state = .ready ∨ answersEarly off = true) (hv : who.valid = true)
include he hv

theorem hostCheck_absent (hc : ∃ c, windowCore off = some c ∧ s.present c = false) :
    hostCheck s who off write wide = .ignored { s with kp := { s.kp with fusedAccess := satInc s.kp.fusedAccess } } := by
  obtain ⟨c, hc, hpr⟩ := hc
  unfold hostCheck
  rw [if_neg (by simp [hp]), if_neg (not_not.mpr ha), if_neg (by simpa using hw),
    if_neg (by simpa [imp_iff_not_or] using he), if_neg (by simp [hv]), if_pos (by simp [hc, hpr])]

/-- Past the window check, the access class decides (R517). -/
theorem hostCheck_present (hc : ¬∃ c, windowCore off = some c ∧ s.present c = false) :
    hostCheck s who off true wide = if s.reaches who off true = false then .ignored (accessDenied s) else .granted := by
  have hn : ∀ b, (match windowCore off with | some n => !s.present n | none => false) = b → b = false := by
    intro b hb
    cases hwc : windowCore off with
    | none => rw [hwc] at hb; exact hb.symm
    | some c =>
      rw [hwc] at hb
      by_contra hne
      exact hc ⟨c, hwc, by simpa [← hb] using hne⟩
  unfold hostCheck
  rw [if_neg (by simp [hp]), if_neg (not_not.mpr ha), if_neg (by simpa using hw),
    if_neg (by simpa [imp_iff_not_or] using he), if_neg (by simp [hv]), if_neg (fun h => by simpa using hn _ h)]
  cases s.reaches who off true <;> rfl
end

/-- REGISTER_WRITE: the checks, then the word or double word. -/
theorem exec_registerWrite (who : Who) (off : BitVec 26) (wide : Bool) (data : W64) (s : State) :
    exec (.registerWrite who off wide data) s = execRegisterWrite who off wide data s := rfl

theorem registerWrite_ignored {s t : State} {who : Who} {off : BitVec 26} {wide : Bool} (data : W64)
    (h : hostCheck s who off.toNat true wide = .ignored t) : exec (.registerWrite who off wide data) s = .next t := by
  rw [exec_registerWrite]; unfold execRegisterWrite; rw [h]

theorem registerWrite_granted {s : State} {who : Who} {off : BitVec 26} {wide : Bool} (data : W64)
    (h : hostCheck s who off.toNat true wide = .granted) : exec (.registerWrite who off wide data) s =
      if wide then writeDouble s who off.toNat data else writeWord s who off.toNat data.toNat := by
  rw [exec_registerWrite]; unfold execRegisterWrite; rw [h]

/-! ## Fields of a 32-bit write -/

theorem word_toNat (d : W64) : (BitVec.ofNat 64 (d.toNat % 2 ^ 32)).toNat = d.toNat % 2 ^ 32 := by
  rw [BitVec.toNat_ofNat]; exact Nat.mod_eq_of_lt (by omega)

/-- The low field of a written word is the data's. -/
theorem fieldOf_word {n : Nat} (d : W64) (hi : Nat) (hn : n = hi + 1) (h32 : n ≤ 32) :
    fieldOf n (BitVec.ofNat 64 (d.toNat % 2 ^ 32)) hi 0 = d.setWidth n := by
  apply BitVec.eq_of_toNat_eq
  unfold fieldOf bitField
  rw [BitVec.toNat_ofNat, word_toNat, BitVec.toNat_setWidth, Nat.shiftRight_zero, Nat.sub_zero, ← hn, Nat.mod_mod,
    Nat.mod_mod_of_dvd _ (pow_dvd_pow 2 h32)]

theorem setWidth_word {n : Nat} (d : W64) (h32 : n ≤ 32) : (BitVec.ofNat 64 (d.toNat % 2 ^ 32)).setWidth n = d.setWidth n := by
  apply BitVec.eq_of_toNat_eq
  rw [BitVec.toNat_setWidth, word_toNat, BitVec.toNat_setWidth, Nat.mod_mod_of_dvd _ (pow_dvd_pow 2 h32)]

/-- KP_REMOTE_LIMIT clamps its field (R349). -/
theorem remoteLimit_word (d : W64) : remoteLimit (BitVec.ofNat 64 (d.toNat % 2 ^ 32)) =
    BitVec.ofNat 20 (max 1 (min 1000000 (d.toNat % 2 ^ 20))) := by
  unfold remoteLimit bitField
  rw [word_toNat, Nat.shiftRight_zero, Nat.sub_zero, Nat.mod_mod_of_dvd _ (pow_dvd_pow 2 (by decide : 19 + 1 ≤ 32))]

/-- AU_IMAGE_ADDR holds the address bits of what is written. -/
theorem addrField_page (d : W64) : addrField d 47 12 = BitVec.ofNat 48 (d.toNat / 4096 % 2 ^ 36 * 4096) := by
  unfold addrField bitField
  rw [Nat.shiftRight_eq_div_pow] <;> rfl

theorem setWidth_page (d : W64) : (BitVec.ofNat 48 (d.toNat / 4096 % 2 ^ 36 * 4096)).setWidth 64 =
    BitVec.ofNat 64 (d.toNat / 4096 % 2 ^ 36 * 4096) := by
  apply BitVec.eq_of_toNat_eq
  rw [BitVec.toNat_setWidth, BitVec.toNat_ofNat, BitVec.toNat_ofNat, Nat.mod_eq_of_lt (a := d.toNat / 4096 % 2 ^ 36 * 4096)
    (b := 2 ^ 48) (by omega)]

/-- What a granted write of each of five registers does (R54, R349, R326, R449). -/
theorem granted_writes {s : State} {who : Who} (h : ManagerMay s who) (data : W64) :
    exec (.registerWrite who 0x100100#26 true data) s = .next { s with au := { s.au with
      imageAddr := BitVec.ofNat 48 (data.toNat / 4096 % 2 ^ 36 * 4096) } } ∧
    exec (.registerWrite who 0x700#26 false data) s = .next { s with kp := { s.kp with
      remoteLimitUs := BitVec.ofNat 20 (max 1 (min 1000000 (data.toNat % 2 ^ 20))) } } ∧
    exec (.registerWrite who 0x200110#26 false data) s = .next { s with rg := { s.rg with qSel := data.setWidth 13 } } ∧
    exec (.registerWrite who 0x300000#26 false data) s = .next { s with sy := { s.sy with ctrSel := data.setWidth 17 } } ∧
    exec (.registerWrite who 0x800000#26 false data) s = .next { s with fr := { s.fr with
      classSeen := s.fr.classSeen &&& ~~~ data.setWidth 5 } } := by
  have hx := fun off wide ha hw => exec_registerWrite_may h off wide data ha hw
  refine ⟨?_, ?_, ?_, ?_, ?_⟩
  · rw [hx _ _ rfl rfl]
    exact congrArg (fun v => Host.Outcome.next ({ s with au := { s.au with imageAddr := v } } : State)) (addrField_page data)
  · rw [hx _ _ rfl rfl]
    exact congrArg (fun v => Host.Outcome.next ({ s with kp := { s.kp with remoteLimitUs := v } } : State)) (remoteLimit_word data)
  · rw [hx _ _ rfl rfl]
    exact congrArg (fun v => Host.Outcome.next ({ s with rg := { s.rg with qSel := v } } : State))
      (fieldOf_word data 12 rfl (by decide))
  · rw [hx _ _ rfl rfl]
    exact congrArg (fun v => Host.Outcome.next ({ s with sy := { s.sy with ctrSel := v } } : State))
      (fieldOf_word data 16 rfl (by decide))
  · rw [hx _ _ rfl rfl]
    exact congrArg (fun v : BitVec 5 => Host.Outcome.next ({ s with fr := { s.fr with classSeen := s.fr.classSeen &&& ~~~v } } : State))
      (setWidth_word data (by decide))

/-- FUSED_WINDOW_ACCESS of an absent core is what the port's checks answer (R519). -/
theorem exec_fusedWindowAccess {s : State} {who : Who} {off : BitVec 26} (write : Bool) {c : Nat} {t : State}
    (hc : windowCore off.toNat = some c) (hp : s.present c = false) (h : hostCheck s who off.toNat write false = .ignored t) :
    exec (.fusedWindowAccess who off write) s = .next t := by
  change execFusedWindowAccess who off write s = _
  unfold execFusedWindowAccess
  rw [hc]
  simp only [hp, h] <;> rfl

/-- Settles O32: each check of the port in its order, then the five registers. -/
theorem hostPortChecksWrites : Obligations.HostPortChecksWrites := by
  intro s who off wide data x counted fused aligned awake early absent
  refine ⟨fun hp => ?_, fun hp ha => ?_, fun hp ha hw => ?_, fun hp ha hw hor => ?_, fun hp ha hw he hv =>
    ⟨fun hc => ⟨?_, fun hwide => ?_⟩, fun hc hr => ?_, fun hc hr hwide hrow => ?_⟩, fun h => ?_⟩
  · exact registerWrite_ignored data (hostCheck_dead hp)
  · exact registerWrite_ignored data (hostCheck_misaligned hp ha)
  · exact registerWrite_ignored data (hostCheck_asleep hp ha hw)
  · exact registerWrite_ignored data (hor.elim (hostCheck_early hp ha hw) (hostCheck_nobody hp ha hw))
  · exact registerWrite_ignored data (hostCheck_absent hp ha hw he hv hc)
  · subst hwide
    obtain ⟨c, hcore, hpr⟩ := id hc
    exact ⟨exec_fusedWindowAccess true hcore hpr (hostCheck_absent hp ha hw he hv hc),
      exec_fusedWindowAccess false hcore hpr (hostCheck_absent hp ha hw he hv hc)⟩
  · have hk := hostCheck_present hp ha hw he hv hc
    rw [if_pos hr] at hk
    exact ⟨_, registerWrite_ignored data hk, accessDeniedId_reports s 0⟩
  · have hk := hostCheck_present hp ha hw he hv hc
    rw [if_neg (by simp [hr])] at hk
    subst hwide
    refine (registerWrite_granted data hk).trans ?_
    rw [if_neg (by decide)]
    unfold writeWord
    rw [hrow]
  · obtain ⟨h1, h2⟩ := granted_writes h data
    exact ⟨⟨_, h1, rfl, setWidth_page data⟩, h2⟩

end Sys2Proof.Machine
end

section
/-! SUPPORT. Mailbox pages of the host register port, doorbells and fetch slots (R270 to R273, R340, R354, R359). -/

namespace Sys2Proof.Machine

/-! ## Who reaches a page (R354, R517) -/

/-- A register in the window of the mailbox pages is one of theirs. -/
theorem regRowAt_page {off : Nat} (hlo : 0x1000000 ≤ off) (hhi : off < 0x1400000) {r : RegRow} (h : regRowAt off = some r) :
    r.cls = .p := by
  have hrows : (regRows.all fun r => decide (0 < r.ostride) && (decide (r.cls = .p) ||
      decide (r.base + r.ostride * r.ocount ≤ 0x1000000) || decide (0x1400000 ≤ r.base))) = true := by decide +kernel
  have hhas : r.has off = true := by
    unfold regRowAt at h
    exact List.find?_some (p := fun r : RegRow => r.has off) h
  have hr := List.all_eq_true.mp hrows r (List.mem_of_find?_eq_some h)
  simp only [Bool.and_eq_true, Bool.or_eq_true, decide_eq_true_eq, or_assoc] at hr
  obtain ⟨hpos, hcls⟩ := hr
  have hend := RegRow.lt_of_has hhas hpos
  have hbase : r.base ≤ off := by
    unfold RegRow.has at hhas
    simp only [Bool.and_eq_true, decide_eq_true_eq] at hhas
    exact hhas.1.1.1
  rcases hcls with h | h | h
  · exact h
  · omega
  · omega

/-- The instance of a page, and the manager, reach every register of the page. -/
theorem reaches_page {s : State} {who : Who} {page : BitVec 6} {off : Nat} (hlo : 0x1000000 + 0x10000 * page.toNat ≤ off)
    (hhi : off < 0x1010000 + 0x10000 * page.toNat) (hw : who.inst = 0#6 ∨ who.inst = page) (write : Bool) :
    s.reaches who off write = true := by
  have hp : page.toNat < 64 := page.isLt
  unfold State.reaches
  cases hr : regRowAt off with
  | none => rfl
  | some r =>
    have hcls : r.cls = .p := regRowAt_page (by omega) (by omega) hr
    have hidx : (off - 0x1000000) / 0x10000 = page.toNat := by omega
    have hpage : pageOf off = some page.toNat := by
      unfold pageOf; rw [if_pos (by omega), hidx]
    simp only [hcls, hpage]
    rcases hw with h | h <;> simp [h]

/-- A write of a page's register by its instance or the manager has its effect (R495). -/
theorem hostCheck_page {s : State} {who : Who} {page : BitVec 6} (h : PageMay s who page) {off : Nat} (wide : Bool)
    (hlo : 0x1000000 + 0x10000 * page.toNat ≤ off) (hhi : off < 0x1010000 + 0x10000 * page.toNat)
    (ha : off % (if wide then 8 else 4) = 0) : hostCheck s who off true wide = .granted := by
  obtain ⟨hp, hh, hr, hw, hv⟩ := h
  have hp' : page.toNat < 64 := page.isLt
  have hwin : windowCore off = none := by unfold windowCore; rw [if_neg (by omega)]
  rw [hostCheck_present hp ha (fun h => absurd (hh.symm.trans h) (by decide)) (Or.inl hr) hv (by rw [hwin]; simp),
    if_neg (by rw [reaches_page hlo hhi hw]; decide)]

theorem hostWrite_page {s : State} {who : Who} {page : BitVec 6} (h : PageMay s who page) {off : Nat} (wide : Bool)
    (f : State → State) (hlo : 0x1000000 + 0x10000 * page.toNat ≤ off) (hhi : off < 0x1010000 + 0x10000 * page.toNat)
    (ha : off % (if wide then 8 else 4) = 0) : hostWrite s who off wide f = f s := by
  unfold hostWrite
  rw [hostCheck_page h wide hlo hhi ha]

/-! ## Doorbells (R270, R272) -/

/-- What a doorbell of a page does, its fields as numbers. -/
theorem exec_doorbell {s : State} {page : BitVec 6} {who : Who} (h : PageMay s who page) (data : W64) :
    exec (.doorbell page who data) s = .next (ringBell s page.toNat data) :=
  have hp : page.toNat < 64 := page.isLt
  congrArg Host.Outcome.next (hostWrite_page h true _ (by omega) (by omega) (by rw [if_pos rfl]; omega))

theorem hasQueue_iff (p : Pools) (n : Nat) : p.hasQueue n = true ↔ p.queueFirst ≤ n ∧ n < p.queueFirst + p.queueCount := by
  simp [Pools.hasQueue]

/-- A queue whose TAIL was written: an IDLE one with something to fetch becomes READY, an ACTIVE one without becomes IDLE. -/
theorem rung_drained (q : Queue) :
    (q.state ≠ .idle → q.state ≠ .active → q.rung.drained = q) ∧
    (q.state = .idle → q.rung.drained = { q with state := q.restState }) ∧
    (q.state = .active → q.rung.drained = { q with state := if q.restState = .idle then .idle else .active }) := by
  refine ⟨fun h1 h2 => ?_, fun h => ?_, fun h => ?_⟩
  · unfold Queue.rung
    rw [if_neg h1]
    exact if_neg h2
  · have hr : q.rung = { q with state := q.restState } := if_pos h
    rw [hr]
    refine if_neg fun hc : q.restState = .active => ?_
    unfold Queue.restState at hc
    split_ifs at hc
  · have hr : q.rung = q := if_neg (by rw [h]; decide)
    rw [hr]
    exact if_pos h

/-! ## Fetch slots (R273, R340) -/

theorem modQueue_queue (s : State) (n m : Nat) (f : Queue → Queue) :
    (s.modQueue n f).queue m = if m = n then f (s.queue n) else s.queue m := by
  by_cases h : m = n
  · rw [if_pos h, h]; exact State.setQueue_queue s n _
  · rw [if_neg h]; exact State.setQueue_queue_ne s n _ m h

theorem giveSlot_queue (s : State) (n m : Nat) : (giveSlot s n).queue m =
    if m = n then ({ s.queue n with state := .active } : Queue).drained else s.queue m := modQueue_queue s n m _

theorem setQState_queue (s : State) (n m : Nat) (st : QState) : (setQState s n st).queue m =
    if m = n then { s.queue n with state := st } else s.queue m := modQueue_queue s n m _

theorem exec_queueFetchSlot (p : BitVec 3) (s : State) :
    exec (.queueFetchSlot p) s = .next (if s.fetches then fetchSlot s p.toNat else s) := rfl

/-- The partition next in turn that has a queue for a slot. -/
def State.nextInTurn (s : State) : Option Nat :=
  ((List.range 8).map fun k => (s.rg.fetchTurn.toNat + k) % 8).find? fun t => !(s.slotSeekers t).isEmpty

theorem fetchSlot_none {s : State} {p : Nat} (h : lowestVt (s.slotSeekers p) = none) : fetchSlot s p = s := by
  unfold fetchSlot; rw [h]

theorem fetchSlot_some {s : State} {p : Nat} {x : Nat × Queue} (h : lowestVt (s.slotSeekers p) = some x) : fetchSlot s p =
    if s.queues.countP (fun q => q.2.state == .active) < 64 then
      (if s.nextInTurn = some p then giveSlot { s with rg := { s.rg with fetchTurn := BitVec.ofNat 3 (p + 1) } } x.1 else s)
    else match s.slotVictim p x.2 with
      | some v => giveSlot (setQState s v .ready) x.1
      | none => s := by
  unfold fetchSlot
  rw [h]
  dsimp only
  split
  · change (match s.nextInTurn with | some t => _ | none => _) = _
    cases hn : s.nextInTurn with
    | none => simp
    | some t =>
      by_cases ht : t = p
      · simp [ht]
      · simp [ht]
  · cases s.slotVictim p x.2 <;> rfl

/-- Settles O33: the doorbell by the queue's state, the slot by the turn. -/
theorem doorbellsAndFetchSlots : Obligations.DoorbellsAndFetchSlots := by
  refine ⟨?_, ?_, ?_⟩
  · intro s page who data h i qn tail q x dead mine beyond
    have e : exec x s = .next (if dead then s else if !i.pools.hasQueue qn then accessDeniedId s qn
        else if q.state = .free then s
        else if q.state.mayFail && decide (2 ^ q.ringLog2 < (tail - q.head).toNat) then
          chPulse (s.setQueue qn { q with tail := tail, state := .error }) 107 Config.PACKET_MALFORMED (BitVec.ofNat 32 qn)
        else s.setQueue qn ({ q with tail := tail }.rung.drained)) := by
      refine (exec_doorbell h data).trans ?_
      have h1 : bitField data.toNat 12 0 = qn := by unfold bitField; rw [Nat.shiftRight_zero]
      have h2 : BitVec.ofNat 32 (bitField data.toNat 63 32) = tail := by
        apply BitVec.eq_of_toNat_eq
        rw [BitVec.toNat_ofNat, BitVec.toNat_ofNat]
        unfold bitField
        rw [Nat.shiftRight_eq_div_pow, Nat.mod_mod]
      unfold ringBell
      rw [h1, h2]
    have hmine : i.pools.hasQueue qn = true ↔ mine := hasQueue_iff _ _
    obtain ⟨hother, hidle, hactive⟩ := rung_drained { q with tail := tail }
    have hset : ¬dead → mine → ¬beyond ∨ q.state = .error → q.state ≠ .free →
        exec x s = .next (s.setQueue qn ({ q with tail := tail }.rung.drained)) := by
      intro hd hm hb hf
      rw [e, if_neg hd, if_neg (by simp [hmine.mpr hm]), if_neg hf, if_neg]
      rw [Bool.and_eq_true, decide_eq_true_eq]
      rintro ⟨hfail, hlt⟩
      rcases hb with hb | hb
      · exact hb hlt
      · rw [hb] at hfail; exact absurd hfail (by decide)
    refine ⟨fun hd => ?_, fun hd hm => ?_, fun hd hm hf => ?_, fun hd hm hb hq => ?_, fun hd hm hq => ?_, fun hd hm hb =>
      ⟨fun hq => ?_, fun hq => ?_, fun hq => ?_⟩⟩
    · rw [e, if_pos hd]
    · refine ⟨_, e.trans ?_, accessDeniedId_reports s qn⟩
      rw [if_neg hd, if_pos (by simpa [← hmine] using hm)]
    · rw [e, if_neg hd, if_neg (by simp [hmine.mpr hm]), if_pos hf]
    · refine ⟨_, e.trans ?_, chPulse_reports (s.setQueue qn { q with tail := tail, state := .error }) 107
        Config.PACKET_MALFORMED (BitVec.ofNat 32 qn)⟩
      have hfail : q.state.mayFail = true := by rcases hq with h | h | h | h | h <;> rw [h] <;> rfl
      have hnf : q.state ≠ .free := by rintro hf; rw [hf] at hfail; exact absurd hfail (by decide)
      rw [if_neg hd, if_neg (by simp [hmine.mpr hm]), if_neg hnf,
        if_pos (by rw [hfail, Bool.true_and]; exact decide_eq_true hb)]
    · rw [hset hd hm (Or.inr hq) (by rw [hq]; decide), hother (by rw [hq]; decide) (by rw [hq]; decide)]
    · rw [hset hd hm (Or.inl hb) (by rw [hq]; decide), hidle hq]; rfl
    · have hne : q.state ≠ .free ∧ q.state ≠ .idle ∧ q.state ≠ .active := by
        rcases hq with h | h | h <;> rw [h] <;> decide
      obtain ⟨h1, h2, h3⟩ := hne
      rw [hset hd hm (Or.inl hb) h1, hother h2 h3]
    · rw [hset hd hm (Or.inl hb) (by rw [hq]; decide), hactive hq]
      unfold Queue.restState
      by_cases hz : q.head = tail ∧ q.indirect = none
      · simp [hz]
      · simp [hz]
  · intro s p hor
    rw [exec_queueFetchSlot]
    rcases hor with h | h
    · rw [h]; rfl
    · rw [fetchSlot_none (by rw [h]; rfl), ite_self]
  · intro s p x hf hx turns next free
    have e := exec_queueFetchSlot p s
    rw [if_pos hf, fetchSlot_some hx] at e
    refine ⟨fun hfr hn => ?_, fun hfr hn => ?_, fun hfr hv => ?_, fun hfr v hv hne => ?_⟩
    · rw [if_pos hfr, if_pos (show s.nextInTurn = some p.toNat from hn)] at e
      refine ⟨_, e, ?_, fun n hn => ?_, ?_, Only.step (giveSlot_only _ _) (by decide) (Only.set_rg (by decide) rfl (Only.refl _ _))⟩
      · rw [giveSlot_queue, if_pos rfl]; rfl
      · rw [giveSlot_queue, if_neg hn]; rfl
      · refine Eq.trans (b := ({ s.rg with fetchTurn := BitVec.ofNat 3 (p.toNat + 1) } : Rg)) rfl ?_
        rw [BitVec.ofNat_add, BitVec.ofNat_toNat, BitVec.setWidth_eq]
    · rw [e, if_pos hfr, if_neg (show ¬s.nextInTurn = some p.toNat from hn)]
    · rw [e, if_neg hfr, hv]
    · rw [if_neg hfr, hv] at e
      refine ⟨_, e, ?_, ?_, fun n h1 h2 => ?_, Only.step (giveSlot_only _ _) (by decide)
        (Only.step (setQState_only _ _ _) (by decide) (Only.refl _ _))⟩
      · rw [giveSlot_queue, if_neg hne, setQState_queue, if_pos rfl]
      · rw [giveSlot_queue, if_pos rfl, setQState_queue, if_neg (Ne.symm hne)]
      · rw [giveSlot_queue, if_neg h1, setQState_queue, if_neg h2]

end Sys2Proof.Machine
end

section
/-! SUPPORT. Memory ports: what training, an answer and its lateness do to a port, and the stop that a failed port begins
(R424, R430, R496 to R500). -/

namespace Sys2Proof.Machine

/-- What changes parts of m changes only parts of a list that has them. -/
theorem Only.wider {l m : List Field} {s t : State} (g : Only m s t) (hm : (m.all fun f => decide (f ∈ l)) = true) : Only l s t :=
  g.step hm (.refl _ s)

/-! ## One port -/

theorem modPort_port (s : State) (n m : Nat) (f : Port → Port) :
    (s.modPort n f).port m = if m = n then f (s.port n) else s.port m := by
  unfold State.modPort State.setPort State.port
  by_cases h : m = n
  · rw [if_pos h, h, tget_tput_self]
  · rw [if_neg h, tget_tput_ne _ _ _ _ _ h]

/-- Two changes of one port are one change. -/
theorem modPort_modPort (s : State) (n : Nat) (f g : Port → Port) :
    (s.modPort n f).modPort n g = s.modPort n fun x => g (f x) := by
  have h : ((s.modPort n f).port n) = f (s.port n) := by rw [modPort_port, if_pos rfl]
  change ({ s with ports := tput (tput s.ports n (f (s.port n))) n (g ((s.modPort n f).port n)) } : State) = _
  rw [h, tput_tput]; rfl

theorem modPort_only (s : State) (n : Nat) (f : Port → Port) : Only [.ports] s (s.modPort n f) :=
  Only.set_ports (by decide) (.refl _ s)

/-! ## Stops (R430) -/

/-- A stop of a state that differs from s by what a stop may change anyway is a stop of s. -/
theorem stopsBlock_of_only {s u t : State} {cause : BitVec 3} {seq : BitVec 4} {port : BitVec 8}
    (h : Only (stopParts ++ [.frCfg, .obsCfg, .auIdle]) s u) (g : StopsBlock u t cause seq port) :
    StopsBlock s t cause seq port := by
  have hesc : u.esc = s.esc := h .esc (by decide)
  unfold StopsBlock at g ⊢
  rw [hesc] at g
  obtain ⟨g1, g2, g3, g4, g5, g6, g7, g8, g9, g10, g11⟩ := g
  exact ⟨g1, g2, g3, g4, g5, g6, g7, g8, g9, g10, g11.step (by decide) h⟩

theorem stopPlain_stops (s : State) (c : StopCause) (h : s.fr.stopped = false) :
    StopsBlock s (stopPlain s c) c.cause c.sequencer c.port ∧ (stopPlain s c).fr.stopCode = c.code := by
  obtain ⟨hs, hc⟩ := recoveryStop_stops s.drawWord.2 c (StopCause.frUnit c.cause.toNat) (bitField s.drawWord.1.toNat 47 0) h
  exact ⟨stopsBlock_of_only (Only.wider (State.drawWord_only s) (by decide)) hs, hc⟩

theorem stopUncoded_stops (s : State) (cause : BitVec 3) (seq : BitVec 4) (port : BitVec 8) (h : s.fr.stopped = false) :
    StopsBlock s (stopUncoded s cause seq port) cause seq port := by
  obtain ⟨hs, -⟩ := stopPlain_stops s.drawWord.2
    { cause := cause, sequencer := seq, port := port, code := Config.freeCode s.drawWord.1 } h
  exact stopsBlock_of_only (Only.wider (State.drawWord_only s) (by decide)) hs

theorem watched_of_running {s : State} (h : Running' s) : s.watched = true := by
  obtain ⟨h1, h2⟩ := h
  simp [State.watched, h1, h2]

/-- A failed port of a block that runs and is not stopped (R424, R499). -/
theorem failPort_stops {s : State} (hr : Running' s) (hs : s.fr.stopped = false) (p : Nat) :
    (failPort s p).ports = (s.modPort p fun x => { x with failed := true }).ports ∧
    StopsBlock { s with ports := (failPort s p).ports } (failPort s p) 3#3 15#4 (BitVec.ofNat 8 p) := by
  have e : failPort s p = stopUncoded (s.modPort p fun x => { x with failed := true }) 3#3 15#4 (BitVec.ofNat 8 p) :=
    if_pos (watched_of_running (s := s.modPort p fun x => { x with failed := true }) hr)
  have hports : (failPort s p).ports = (s.modPort p fun x => { x with failed := true }).ports := by
    rw [e]; exact stopUncoded_only _ _ _ _ .ports (by decide)
  refine ⟨hports, ?_⟩
  rw [hports, e]
  exact stopUncoded_stops (s.modPort p fun x => { x with failed := true }) 3#3 15#4 (BitVec.ofNat 8 p) hs

/-! ## Training (R499, R500) -/

theorem exec_mpTrainDone (p : BitVec 6) (level : Bool) (rd wr : BitVec 12) (s : State) (h : p.toNat < 48) :
    exec (.mpTrainDone p level rd wr) s = .next (trainDone s p.toNat level rd wr) :=
  congrArg Host.Outcome.next (if_pos h)

theorem trainDone_rise (s : State) (p : Nat) (rd wr : BitVec 12) : trainDone s p true rd wr = s.modPort p fun x => { x with
    trained := true, rdCredits := rd, wrCredits := wr,
    open' := x.open' || (s.portsMayOpen && bitAt s.fuse.portPresent.toNat p) } := by
  change openPort (s.modPort p fun x => { x with trained := true, rdCredits := rd, wrCredits := wr }) p = _
  unfold openPort
  rw [modPort_port, if_pos rfl, Bool.and_true]
  change (if (s.portsMayOpen && bitAt s.fuse.portPresent.toNat p) = true then _ else _) = _
  split
  · next h =>
    rw [modPort_modPort]
    simp only [h, Bool.or_true]
  · next h =>
    rw [Bool.not_eq_true] at h
    simp only [h, Bool.or_false]

theorem trainDone_fall (s : State) (p : Nat) (rd wr : BitVec 12) : trainDone s p false rd wr =
    if (s.port p).open' && (s.port p).trained && s.portAlive then failPort (s.modPort p fun x => { x with trained := false }) p
    else s.modPort p fun x => { x with trained := false } := rfl

/-! ## Answers (R424, R496 to R498) -/

/-- A late answer counts on its port, and reports (R424). -/
theorem portCount_late (s : State) (p : Nat) :
    (∀ q, (portCount s p false true).port q = if q = p then { s.port p with
      lateCount := satInc (s.port p).lateCount, lateThisBeat := true } else s.port q) ∧
    Only [.ports, .chime, .obs] s (portCount s p false true) := by
  refine ⟨fun q => ?_, Only.wider (portCount_only _ _ _ _) (by decide)⟩
  obtain ⟨u, hu⟩ : ∃ u, u = pmGlobal (s.modPort p fun x => { x with lateCount := satInc x.lateCount }) 18 1 := ⟨_, rfl⟩
  have huport : ∀ q, u.port q = if q = p then { s.port p with lateCount := satInc (s.port p).lateCount } else s.port q := by
    intro q
    have hp : u.ports = (s.modPort p fun x => { x with lateCount := satInc x.lateCount }).ports := by
      rw [hu]; exact pmGlobal_only _ _ _ .ports (by decide)
    rw [show u.port q = (s.modPort p fun x => { x with lateCount := satInc x.lateCount }).port q from
      congrArg (fun l => tget Port.reset l q) hp, modPort_port]
  have he : portCount s p false true = if (u.port p).lateThisBeat then u
      else chPulse (u.modPort p fun x => { x with lateThisBeat := true }) 105 Config.REPLAY_OVERRUN (BitVec.ofNat 32 p) := by
    rw [hu]; rfl
  rw [he]
  split
  · next hl =>
    rw [huport p, if_pos rfl] at hl
    rw [huport q]
    split
    · exact congrArg (fun b => ({ s.port p with lateCount := satInc (s.port p).lateCount, lateThisBeat := b } : Port)) hl
    · rfl
  · have hp := (chPulse_only (u.modPort p fun x => { x with lateThisBeat := true }) 105 Config.REPLAY_OVERRUN (BitVec.ofNat 32 p))
      .ports (by decide)
    refine (congrArg (fun l => tget Port.reset l q) hp).trans ?_
    refine (modPort_port u p q _).trans ?_
    rw [huport p, if_pos rfl, huport q]
    split <;> rfl

theorem lateCount_prompt (s : State) (p : Nat) : lateCount s p false = s := by
  unfold lateCount portCount
  exact ite_self _

theorem lateCount_halted {s : State} (h : s.obs.halted = true) (p : Nat) (late : Bool) : lateCount s p late = s :=
  if_neg (by simp [State.watched, h])

theorem lateCount_late {s : State} (h : Running' s) (p : Nat) : lateCount s p true = portCount s p false true :=
  if_pos (watched_of_running h)

/-- The oldest write of a port leaves the list. -/
theorem dropWrite_eq {p : Nat} {w : WriteReq} (hw : w.port = p) (after : List WriteReq) :
    ∀ before : List WriteReq, (∀ x ∈ before, x.port ≠ p) → dropWrite p (before ++ w :: after) = before ++ after
  | [], _ => if_pos hw
  | x :: r, h => by
    have hx := h x (List.mem_cons_self ..)
    rw [List.cons_append, dropWrite, if_neg hx, dropWrite_eq hw after r fun y hy => h y (List.mem_cons_of_mem _ hy)]
    rfl

/-- With no disable in progress none goes on. -/
theorem disablesAdvance_none {s : State} (h : ∀ n i, (n, i) ∈ s.insts → i.disabling = none) : disablesAdvance s = s := by
  have hf : (s.insts.filter fun i => i.2.disabling.isSome) = [] := by
    rw [List.filter_eq_nil_iff]
    intro x hx
    rw [h x.1 x.2 hx]; decide
  unfold disablesAdvance
  rw [hf]; rfl

theorem exec_wack (p : BitVec 6) (late : Bool) (s : State) : exec (.wack ⟨p, late⟩) s = .next (
    if s.portAlive && s.writes.any (fun w => w.port == p.toNat) then
      (if s.obs.halted then lateCount { s with writes := dropWrite p.toNat s.writes } p.toNat late
       else disablesAdvance (lateCount { s with writes := dropWrite p.toNat s.writes } p.toNat late))
    else s) := rfl

theorem exec_adata (p : BitVec 6) (late : Bool) (old : W64) (s : State) : exec (.adata ⟨p, late⟩ old) s = .next (
    if s.portAlive && decide (0 < (s.port p.toNat).atomicsOut) then
      (lateCount s p.toNat late).modPort p.toNat fun x => { x with atomicsOut := x.atomicsOut - 1, lastAtomic := old }
    else s) := rfl

theorem exec_portFailed (p : BitVec 6) (s : State) : exec (.portFailed p) s = .next (
    if s.watched && (s.port p.toNat).open' && !(s.port p.toNat).failed then failPort s p.toNat else s) := rfl

/-- Settles O7: training and failure by the level, answers by what is outstanding. -/
theorem portsTrainAnswerAndFail : Obligations.PortsTrainAnswerAndFail := by
  refine ⟨?_, ?_, ?_, ?_, ?_, ?_, ?_⟩
  · intro s p rd wr hp
    have e := exec_mpTrainDone p true rd wr s hp
    rw [trainDone_rise] at e
    exact ⟨_, e, by rw [modPort_port, if_pos rfl], fun q hq => by rw [modPort_port, if_neg hq], modPort_only _ _ _⟩
  · intro s p rd wr hp ho
    rw [exec_mpTrainDone p false rd wr s hp, trainDone_fall, if_neg (by simp [ho])]
  · intro s p rd wr hp hr hs ho ht
    have e := exec_mpTrainDone p false rd wr s hp
    rw [trainDone_fall, if_pos (by simp [ho, ht, hr.1])] at e
    obtain ⟨hports, hstop⟩ := failPort_stops (s := s.modPort p.toNat fun x => { x with trained := false }) hr hs p.toNat
    rw [modPort_modPort] at hports
    exact ⟨_, e, hports, hstop⟩
  · intro s p hr hs ho hf
    have e := exec_portFailed p s
    rw [if_pos (by simp [ho, hf, watched_of_running hr])] at e
    exact ⟨_, e, failPort_stops hr hs p.toNat⟩
  · intro s p before after w hp hw hsplit hbefore
    have hany : (s.portAlive && s.writes.any fun w => w.port == p.toNat) = true := by
      rw [hp, Bool.true_and, hsplit]; simp [hw]
    have e : ∀ late, exec (.wack ⟨p, late⟩) s = .next (
        if s.obs.halted then lateCount { s with writes := before ++ after } p.toNat late
        else disablesAdvance (lateCount { s with writes := before ++ after } p.toNat late)) := by
      intro late
      rw [exec_wack, if_pos hany, hsplit, dropWrite_eq hw after before hbefore]
    refine ⟨fun late hh => ?_, fun hh hdis => ⟨?_, ?_⟩⟩
    · rw [e late, if_pos hh, lateCount_halted (s := { s with writes := before ++ after }) hh]
    · rw [e false, if_neg (by simp [hh]), lateCount_prompt, disablesAdvance_none (s := { s with writes := before ++ after }) hdis]
    · have hrun : Running' ({ s with writes := before ++ after } : State) := ⟨hp, hh⟩
      obtain ⟨hport, honly⟩ := portCount_late { s with writes := before ++ after } p.toNat
      have hins : (portCount { s with writes := before ++ after } p.toNat false true).insts = s.insts := honly .insts (by decide)
      have e' := e true
      rw [if_neg (by simp [hh]), lateCount_late hrun, disablesAdvance_none (by rw [hins]; exact hdis)] at e'
      refine ⟨_, e', honly .writes (by decide), by rw [hport, if_pos rfl]; rfl, fun q hq => by rw [hport, if_neg hq]; rfl,
        honly.step (by decide) (Only.set_writes (by decide) (.refl _ s))⟩
  · intro s p late h
    rw [exec_wack, if_neg]
    rw [Bool.and_eq_true, List.any_eq_true]
    rintro ⟨-, x, hx, he⟩
    exact h x hx (by simpa using he)
  · intro s p old hp answered
    refine ⟨fun h late => ?_, fun h => ?_⟩
    · rw [exec_adata, if_neg (by simp [h])]
    · have e : ∀ late, exec (.adata ⟨p, late⟩ old) s = .next ((lateCount s p.toNat late).modPort p.toNat fun x =>
          { x with atomicsOut := x.atomicsOut - 1, lastAtomic := old }) := fun late => by
        rw [exec_adata, if_pos (by simp [hp, h])]
      refine ⟨?_, fun hh => ?_, fun hh => ?_⟩
      · rw [e, lateCount_prompt]
      · rw [e, lateCount_halted hh]
      · obtain ⟨hport, honly⟩ := portCount_late s p.toNat
        have e' := e true
        rw [lateCount_late ⟨hp, hh⟩] at e'
        refine ⟨_, e', ?_, fun q hq => ?_, (modPort_only _ _ _).step (by decide) honly⟩
        · rw [modPort_port, if_pos rfl, hport, if_pos rfl]
        · rw [modPort_port, if_neg hq, hport, if_neg hq]

end Sys2Proof.Machine
end

section
/-! SUPPORT. Pauses, throttles and the lines that a port returns (R41, R423 to R426, R496, R499). -/

namespace Sys2Proof.Machine

/-! ## Pauses (R41, R426) -/

theorem exec_mpPause (p : BitVec 6) (level : Bool) (ns : W32) (s : State) : exec (.mpPause p level ns) s = .next (
    if s.portAlive && (s.port p.toNat).open' && (s.port p.toNat).paused != level then
      (if level then pauseBegin s p.toNat else pauseEnd s p.toNat ns.toNat) else s) := rfl

/-- The first rise of a pause counts it, and overruns past the image's allowance. -/
theorem pauseBegin_first {s : State} (h : s.pausing = false) (p : Nat) :
    pauseBegin s p =
      if s.pausesPerBeat < (satInc s.esc.pauseSeen).toNat then
        pauseOverrun { s.modPort p (fun x => { x with paused := true }) with
          esc := { s.esc with pauseSeen := satInc s.esc.pauseSeen }, fr := { s.fr with pausePort := p, pauseNs := 0 } }
      else { s.modPort p (fun x => { x with paused := true }) with
        esc := { s.esc with pauseSeen := satInc s.esc.pauseSeen }, fr := { s.fr with pausePort := p, pauseNs := 0 } } := by
  unfold pauseBegin
  rw [h]
  rfl

theorem pauseBegin_later {s : State} (h : s.pausing = true) (p : Nat) :
    pauseBegin s p = s.modPort p fun x => { x with paused := true } := by
  unfold pauseBegin
  rw [h]
  rfl

/-- Without an image nothing overruns. -/
theorem pauseOverrun_idle {s : State} (h : s.run = none) : pauseOverrun s = s := by
  unfold pauseOverrun
  rw [if_pos (by simp [h])]

/-- Of a running image the overrun is counted once a beat, and changes reports alone besides. -/
theorem pauseOverrun_counts {s : State} (h : s.run.isSome = true) :
    (pauseOverrun s).fr.overruns = (if s.fr.overrunThisBeat then s.fr.overruns else satInc s.fr.overruns) ∧
    (pauseOverrun s).fr.overrunThisBeat = true ∧ (pauseOverrun s).esc = s.esc ∧ (pauseOverrun s).ports = s.ports ∧
    Only [.fr, .frCfg, .chime, .obs] s (pauseOverrun s) := by
  have ho := pauseOverrun_only s
  refine ⟨?_, ?_, ho .esc (by decide), ho .ports (by decide), ho.wider (by decide)⟩
  all_goals
    unfold pauseOverrun
    by_cases hb : s.fr.overrunThisBeat = true
    · rw [if_pos (by simp [hb])]; simp [hb]
    · rw [if_neg (by simp [hb, Option.isSome_iff_ne_none.mp h])]
      have hk : ∀ u : State, (chPulse u 105 Config.MEM_PAUSE_OVERRUN (BitVec.ofNat 32 s.fr.pausePort)).fr = u.fr :=
        fun u => chPulse_only u 105 _ _ .fr (by decide)
      simp [hk, hb]

theorem pausesPerBeat_lt {s : State} {n : Nat} : s.pausesPerBeat < n → s.run = none ∨ ∃ r, s.run = some r ∧ r.img.pausesPerBeat < n := by
  unfold State.pausesPerBeat
  cases s.run with
  | none => exact fun _ => .inl rfl
  | some r => exact fun h => .inr ⟨r, rfl, h⟩

theorem pauseMaxNs_lt {s : State} {n : Nat} : s.pauseMaxNs < n → s.run = none ∨ ∃ r, s.run = some r ∧ r.img.pauseMaxUs * 1000 < n := by
  unfold State.pauseMaxNs
  cases s.run with
  | none => exact fun _ => .inl rfl
  | some r => exact fun h => .inr ⟨r, rfl, h⟩

theorem satNat16 (n : Nat) : satNat 16 n = BitVec.ofNat 16 (min n 65535) := by
  unfold satNat
  split
  · next h => rw [Nat.min_eq_left (by omega)]
  · next h => rw [Nat.min_eq_right (by omega)]; rfl

/-- LONGEST in units of 16 ns. -/
theorem longest_eq (longest : BitVec 16) (len : Nat) :
    (if longest.ult (satNat 16 (len / 16)) then satNat 16 (len / 16) else longest) =
      if longest.toNat < min (len / 16) 65535 then BitVec.ofNat 16 (min (len / 16) 65535) else longest := by
  rw [satNat16]
  have h : longest.ult (BitVec.ofNat 16 (min (len / 16) 65535)) = true ↔ longest.toNat < min (len / 16) 65535 := by
    rw [BitVec.ult, decide_eq_true_eq, BitVec.toNat_ofNat, Nat.mod_eq_of_lt (by omega)]
  by_cases hl : longest.toNat < min (len / 16) 65535
  · rw [if_pos hl, if_pos (h.mpr hl)]
  · rw [if_neg hl, if_neg fun hc => hl (h.mp hc)]

theorem pauseEnd_still {s : State} {p : Nat} (h : (s.modPort p fun x => { x with paused := false }).pausing = true) (ns : Nat) :
    pauseEnd s p ns = s.modPort p fun x => { x with paused := false } := by
  unfold pauseEnd
  exact if_pos h

theorem pauseEnd_last {s : State} {p : Nat} (h : (s.modPort p fun x => { x with paused := false }).pausing = false) (ns : Nat) :
    pauseEnd s p ns =
      let u : State := { s.modPort p (fun x => { x with paused := false }) with fr := { s.fr with
        pauseNs := max s.fr.pauseNs ns,
        longest := if s.fr.longest.toNat < min (max s.fr.pauseNs ns / 16) 65535 then
          BitVec.ofNat 16 (min (max s.fr.pauseNs ns / 16) 65535) else s.fr.longest } }
      if s.pauseMaxNs < max s.fr.pauseNs ns then pauseOverrun u else u := by
  unfold pauseEnd
  dsimp only
  rw [if_neg (by rw [h]; decide)]
  have hl := longest_eq s.fr.longest (max s.fr.pauseNs ns)
  change (if s.pauseMaxNs < max s.fr.pauseNs ns then
    pauseOverrun { s.modPort p (fun x => { x with paused := false }) with fr := { s.fr with
        pauseNs := max s.fr.pauseNs ns, longest := if s.fr.longest.ult (satNat 16 (max s.fr.pauseNs ns / 16)) then
          satNat 16 (max s.fr.pauseNs ns / 16) else s.fr.longest } }
    else { s.modPort p (fun x => { x with paused := false }) with fr := { s.fr with
        pauseNs := max s.fr.pauseNs ns, longest := if s.fr.longest.ult (satNat 16 (max s.fr.pauseNs ns / 16)) then
          satNat 16 (max s.fr.pauseNs ns / 16) else s.fr.longest } }) = _
  rw [hl]

/-! ## Throttles (R425, R496) -/

theorem exec_mpThrottle (p : BitVec 6) (tag : BitVec 16) (asserted : Bool) (ns : W32) (s : State) :
    exec (.mpThrottle p tag asserted ns) s = .next (if !(s.portAlive && (s.port p.toNat).open') then s
    else if asserted then (if (s.port p.toNat).throttled.contains tag then s
      else s.modPort p.toNat fun x => { x with throttled := x.throttled ++ [tag] })
    else if (s.port p.toNat).throttled.contains tag then
      throttleEnd (chargeTag (s.modPort p.toNat fun x => { x with throttled := x.throttled.filter fun t => t != tag })
        tag.toNat ns.toNat) tag.toNat
    else s) := rfl

/-- Who a tag names (R496). -/
theorem tag_fields {tag : Nat} (h : tag < 65536) :
    (0x8000 ≤ tag → bitField tag 15 14 = 2 ∨ bitField tag 15 14 = 3) ∧
    (tag < 0x4000 → bitField tag 15 14 = 0 ∧ bitField tag 13 10 = tag / 1024) ∧
    (0x4000 ≤ tag → tag < 0x8000 → bitField tag 15 14 = 1 ∧ bitField tag 13 11 = (tag - 0x4000) / 2048) := by
  unfold bitField
  simp only [Nat.shiftRight_eq_div_pow]
  refine ⟨fun h1 => ?_, fun h1 => ⟨?_, ?_⟩, fun h1 h2 => ⟨?_, ?_⟩⟩ <;> omega

theorem chargeTag_keeper {tag : Nat} (h : bitField tag 15 14 = 2 ∨ bitField tag 15 14 = 3) (s : State) (ns : Nat) :
    chargeTag s tag ns = { s with fr := { s.fr with keeperThrNs := s.fr.keeperThrNs + BitVec.ofNat 64 ns } } := by
  unfold chargeTag
  rcases h with h | h <;> rw [h] <;> rfl

theorem chargeTag_core {tag : Nat} (h : bitField tag 15 14 = 0) (s : State) (ns : Nat)
    (hj : (s.core (bitField tag 13 10)).job = none) : chargeTag s tag ns = s := by
  unfold chargeTag
  rw [h]
  exact (by unfold chargeCore; rw [hj] : chargeCore s (bitField tag 13 10) ns = s)

theorem chargeTag_copy {tag : Nat} (h : bitField tag 15 14 = 1) (s : State) (ns q n : Nat)
    (hc : (s.rgPart (bitField tag 13 11)).copyRun = some (q, n)) : chargeTag s tag ns =
      (copyCount s (bitField tag 13 11) 56 ns).modCtx (s.queueCtx q) fun x =>
        { x with throttleNs := x.throttleNs + BitVec.ofNat 64 ns } := by
  unfold chargeTag
  rw [h]
  refine Eq.trans (b := chargeCopy s (bitField tag 13 11) ns) rfl ?_
  unfold chargeCopy
  rw [hc]

theorem throttleEnd_other {tag : Nat} (h : bitField tag 15 14 ≠ 0) (s : State) : throttleEnd s tag = s := if_neg h

/-- Settles O8: pauses by how many ports pause, throttles by the tag. -/
theorem pausesAndThrottlesAreCounted : Obligations.PausesAndThrottlesAreCounted := by
  unfold Obligations.PausesAndThrottlesAreCounted
  intro open' others alone within short
  refine ⟨?_, ?_, ?_, ?_, ?_, ?_, ?_⟩
  · rintro s p ns ⟨hp, ho⟩ hq hnone
    have e := exec_mpPause p true ns s
    rw [if_pos (by simp [hp, ho, hq]), if_pos rfl, pauseBegin_first hnone] at e
    refine ⟨fun hw => ?_, fun hw => ?_⟩
    · rw [e]
      split
      · next hlt =>
        rcases pausesPerBeat_lt hlt with h | ⟨r, hr, hn⟩
        · rw [pauseOverrun_idle (s := { s.modPort p.toNat (fun x => { x with paused := true }) with
            esc := { s.esc with pauseSeen := satInc s.esc.pauseSeen }, fr := { s.fr with pausePort := p.toNat, pauseNs := 0 } }) h]
        · exact absurd (hw r hr) (Nat.not_le.mpr hn)
      · rfl
    · obtain ⟨r, hr, hn⟩ : ∃ r, s.run = some r ∧ ¬(satInc s.esc.pauseSeen).toNat ≤ r.img.pausesPerBeat := by
        by_contra hc
        exact hw fun r hr => by_contra fun hn => hc ⟨r, hr, hn⟩
      have hlt : s.pausesPerBeat < (satInc s.esc.pauseSeen).toNat := by
        unfold State.pausesPerBeat; rw [hr]; exact Nat.not_le.mp hn
      rw [if_pos hlt] at e
      obtain ⟨h1, h2, h3, h4, h5⟩ := pauseOverrun_counts (s := { s.modPort p.toNat (fun x => { x with paused := true }) with
        esc := { s.esc with pauseSeen := satInc s.esc.pauseSeen }, fr := { s.fr with pausePort := p.toNat, pauseNs := 0 } })
        (Option.isSome_iff_exists.mpr ⟨r, hr⟩)
      refine ⟨_, e, h3, ?_, h1, h2, Only.wider (exec_only _ _ _ e) rfl⟩
      rw [show ∀ u : State, u.port p.toNat = tget Port.reset u.ports p.toNat from fun _ => rfl, h4]
      change ((s.modPort p.toNat fun x => { x with paused := true }).port p.toNat).paused = true
      rw [modPort_port, if_pos rfl]
  · rintro s p ns ⟨hp, ho⟩ hq hsome
    rw [exec_mpPause, if_pos (by simp [hp, ho, hq]), if_pos rfl, pauseBegin_later hsome]
  · rintro s p ns ⟨hp, ho⟩ hq hothers
    rw [exec_mpPause, if_pos (by simp [hp, ho, hq]), if_neg (by decide), pauseEnd_still hothers]
  · rintro s p ns ⟨hp, ho⟩ hq halone hshort
    rw [exec_mpPause, if_pos (by simp [hp, ho, hq]), if_neg (by decide), pauseEnd_last halone]
    dsimp only
    split
    · next hlt =>
      rcases pauseMaxNs_lt hlt with h | ⟨r, hr, hn⟩
      · exact congrArg Host.Outcome.next (pauseOverrun_idle h)
      · exact absurd (hshort r hr) (Nat.not_le.mpr hn)
    · rfl
  · intro s p level ns h
    rw [exec_mpPause, if_neg (by simp [h])]
  · rintro s p tag ns ⟨hp, ho⟩ ht
    have hc : (s.port p.toNat).throttled.contains tag = false := by simpa using ht
    have e := fun b => exec_mpThrottle p tag b ns s
    simp only [hp, ho, hc, Bool.and_self, Bool.not_true, Bool.false_eq_true, if_false] at e
    exact ⟨e true, e false⟩
  · rintro s p tag ns ⟨hp, ho⟩ ht u
    have hc : (s.port p.toNat).throttled.contains tag = true := by simpa using ht
    have e := fun b => exec_mpThrottle p tag b ns s
    simp only [hp, ho, hc, Bool.and_self, Bool.not_true, Bool.false_eq_true, if_false, if_true] at e
    obtain ⟨hkeeper, hcore, hcopy⟩ := tag_fields tag.isLt
    refine ⟨e true, fun h => ?_, fun h hj => ?_, fun h1 h2 q n hrun => ?_⟩
    · rw [e false, if_neg (by decide), chargeTag_keeper (hkeeper h), throttleEnd_other (by rcases hkeeper h with h | h <;> omega)]
    · obtain ⟨h0, hidx⟩ := hcore h
      rw [e false, if_neg (by decide), chargeTag_core h0 _ _ (by rw [hidx]; exact hj)]
      unfold throttleEnd
      rw [if_pos h0, hidx]
    · obtain ⟨h3, hidx⟩ := hcopy h1 h2
      have e' := e false
      rw [if_neg (by decide), chargeTag_copy h3 u _ q n (by rw [hidx]; exact hrun), throttleEnd_other (by omega)] at e'
      have hq := copyCount_only u (bitField tag.toNat 13 11) 56 ns.toNat
      have hctx : ∀ k, (copyCount u (bitField tag.toNat 13 11) 56 ns.toNat).ctx k = s.ctx k :=
        fun k => congrArg (fun l => tget Ctx.reset l k) (hq .ctxs (by decide))
      refine ⟨_, e', ?_, hq .ports (by decide), (State.modCtx_only _ _ _).step (by decide) (hq.step (by decide)
        ((modPort_only s p.toNat _).wider (by decide)))⟩
      rw [State.modCtx, show u.queueCtx q = s.queueCtx q from rfl, State.setCtx_ctx, hctx]

end Sys2Proof.Machine
end

section
/-! SUPPORT. What a line does by its reader (R423), and that a stop takes no poison away. -/

namespace Sys2Proof.Machine

/-! ## In a stopped block nothing starts -/

theorem pumpOne_stopped {s : State} (h : s.fr.stopped = true) (q n : Nat) : pumpOne q s n = s := by
  unfold pumpOne
  dsimp only
  have ho : ∀ x, s.startOpen x = false := fun x => by simp [State.startOpen, h]
  cases (s.queue q).cmd n with
  | none => rfl
  | some c => simp only [ho, Bool.false_and, Bool.not_false, if_true]

theorem pump_stopped {s : State} (h : s.fr.stopped = true) (q : Nat) : pump s q = s.modQueue q Queue.waitOver := by
  unfold pump
  have hf : ∀ l : List Nat, l.foldl (pumpOne q) s = s := fun l => by
    induction l with
    | nil => rfl
    | cons n r ih => rw [List.foldl_cons, pumpOne_stopped h, ih]
  rw [hf]

/-- What completing a command changes in a stopped block: no byte of memory, and no poison. -/
theorem completeCmd_stopped {s : State} (h : s.fr.stopped = true) (q n : Nat) (code : BitVec 16) (sub : Bool) (det : W64) :
    Only [.ctxs, .queues, .rgParts, .chime, .obs] s (completeCmd s q n code sub det) := by
  have hc := completeCore_only s q n code sub det
  have hs : (completeCore s q n code sub det).fr.stopped = true := by rw [hc .fr (by decide)]; exact h
  unfold completeCmd
  rw [pump_stopped hs]
  exact (regEval_only _).step (by decide) (Only.modQ (by decide) (fun x => by
    unfold Queue.waitOver; split
    · exact SeqSub.refl _
    · exact SeqSub.refl _) (hc.wider (by decide)))

theorem killCopy_stopped {s : State} (h : s.fr.stopped = true) (p : Nat) (code : BitVec 16) :
    Only [.ctxs, .queues, .rgParts, .chime, .obs] s (killCopy s p code) := by
  unfold killCopy
  split
  · exact .refl _ s
  · next q n _ =>
    have h1 : Only [.ctxs, .queues, .rgParts, .chime, .obs] s (s.modRgPart p fun x => { x with copyRun := none }) :=
      Only.wider (State.modRgPart_only _ _ _) (by decide)
    dsimp only
    split
    · exact h1
    · exact (completeCmd_stopped (s := addCounts _ _ _) (by
          rw [show ∀ u k c, (addCounts u k c).fr = u.fr from fun u k c => addCounts_only u k c .fr (by decide)]; exact h) _ _ _ _ _).step
        (by decide) ((addCounts_only _ _ _).step (by decide) h1)

/-- What the kill of everything changes in a stopped block: nothing of memory. -/
theorem stopAll_stopped {s : State} (h : s.fr.stopped = true) (code : BitVec 16) :
    Only [.au, .auIdle, .run, .ctxs, .queues, .rgParts, .jobs, .cores, .chime, .obs, .freeCount] s (stopAll s code) := by
  have hk : Only [.au, .auIdle, .run, .ctxs, .queues, .rgParts, .jobs, .cores, .chime, .obs, .freeCount] s
      (killJobs (auStop s) s.allJobs .stop code) :=
    (killJobs_only _ _ _ _).step (by decide) ((auStop_only s).wider (by decide))
  have hf : ∀ (l : List Nat) (u : State), u.fr.stopped = true →
      Only [.ctxs, .queues, .rgParts, .chime, .obs] u (l.foldl (fun s p => killCopy s p code) u) := by
    intro l
    induction l with
    | nil => exact fun u _ => .refl _ u
    | cons p r ih =>
      intro u hu
      have h1 := killCopy_stopped hu p code
      exact h1.trans (ih _ (by rw [show (killCopy u p code).fr = u.fr from h1 .fr (by decide)]; exact hu))
  exact (hf _ _ (by rw [show (killJobs (auStop s) s.allJobs .stop code).fr = s.fr from hk .fr (by decide)]; exact h)).step
    (by decide) hk

/-- The recovery stop changes no byte of memory and takes no poison away (R423, R430). -/
theorem recoveryStop_memory (s : State) (c : StopCause) (unit : Option Nat) (addr : Nat) (h : s.fr.stopped = false) :
    (recoveryStop s c unit addr).mem = s.mem ∧ (recoveryStop s c unit addr).poison = s.poison := by
  generalize hr : recoveryStop s c unit addr = r
  unfold recoveryStop at hr
  rw [if_neg (by simp [h])] at hr
  extract_lets -merge +onlyGivenNames s1 w _ s2 s3 _ s4 s5 at hr
  have o1 : Only [.fr, .tw, .links, .chime, .obs, .freeCount] s s1 := (errRecord_only _ _ _ _ _ _ _).wider (by decide)
  have o3 : Only [.tw, .links] s2 s3 := by
    unfold s3
    split
    · exact (twYield_only _ _).wider (by decide)
    · exact .refl _ _
  have m3 : s3.mem = s.mem ∧ s3.poison = s.poison :=
    ⟨(o3 .mem (by decide)).trans (o1 .mem (by decide)), (o3 .poison (by decide)).trans (o1 .poison (by decide))⟩
  have o4 := stopAll_stopped (s := { s3 with fr := { s3.fr with stopped := true } }) rfl c.code
  have m4 : s4.mem = s3.mem ∧ s4.poison = s3.poison := ⟨o4 .mem (by decide), o4 .poison (by decide)⟩
  have o5 : Only [.obs, .obsCfg] s4 s5 := by
    unfold s5
    with_reducible refine Only.ite ?_ ?_
    · exact (snapBegin_only _).wider (by decide)
    · exact .refl _ _
  clear_value s5
  have hm : ∀ f : Fr, (chSample { s5 with fr := f } 101).mem = s5.mem ∧ (chSample { s5 with fr := f } 101).poison = s5.poison :=
    fun f => ⟨chSample_only _ _ .mem (by decide), chSample_only _ _ .poison (by decide)⟩
  rw [← hr]
  exact ⟨((hm _).1.trans (o5 .mem (by decide))).trans (m4.1.trans m3.1),
    ((hm _).2.trans (o5 .poison (by decide))).trans (m4.2.trans m3.2)⟩

/-! ## A line of a Keeper read (R423, R424) -/

theorem exec_data (p : BitVec 6) (bad late : Bool) (r : Reader) (s : State) :
    exec (.data p bad late r) s =
      if s.watched && (s.port p.toNat).open' && !s.fr.stopped && (s.readPorts r).contains p.toNat then
        match s.readAddr r with
        | none => .next s
        | some a =>
          if (match r with | .dirty n => (bad || s.poisoned a 1) && s.dirtyBeyond n.toNat | _ => false) then .fault .addressSpace
          else .next (dataAct (portCount s p.toNat (bad || s.poisoned a 1) late) r a (bad || s.poisoned a 1))
      else .next s := rfl

/-- A reader of the Keeper's own: its read returns on any port that is not reserved. -/
def KeeperReads (r : Reader) : Prop :=
  (∃ m, r = .mailbox m) ∨ r = .otp ∨ r = .unlock ∨ r = .image ∨ r = .patch ∨ ∃ n, r = .objTable n

/-- A line that a Keeper read waits for is counted and acts. -/
theorem exec_data_keeper {s : State} {p : BitVec 6} {r : Reader} {a : Nat} (hr : Running' s) (hs : s.fr.stopped = false)
    (ho : (s.port p.toNat).open' = true) (hp : p.toNat ∈ s.poolPorts) (ha : s.readAddr r = some a) (hk : KeeperReads r)
    (bad late : Bool) : exec (.data p bad late r) s =
      .next (dataAct (portCount s p.toNat (bad || s.poisoned a 1) late) r a (bad || s.poisoned a 1)) := by
  have hports : s.readPorts r = s.poolPorts := by
    rcases hk with ⟨m, rfl⟩ | rfl | rfl | rfl | rfl | ⟨n, rfl⟩ <;> rfl
  rw [exec_data, if_pos (by simp [watched_of_running hr, hs, ho, hports, hp]), ha]
  rcases hk with ⟨m, rfl⟩ | rfl | rfl | rfl | rfl | ⟨n, rfl⟩ <;> rfl

/-- The state in which a poisoned line of a Keeper read acts: the read is counted and the line marked. -/
def lineMarked (s : State) (a : Nat) : State := markPoison (keeperRead s true) a 1

theorem dataAct_image (s : State) (a : Nat) (bad : Bool) : dataAct s .image a bad =
    if bad then traceSettle (auRefuseUnread (lineMarked s a) Config.MEM_POISON) else keeperRead s false := rfl

theorem dataAct_patch (s : State) (a : Nat) (bad : Bool) : dataAct s .patch a bad =
    if bad then patchFail (lineMarked s a) Config.MEM_POISON else keeperRead s false := rfl

theorem dataAct_objTable (s : State) (n : BitVec 18) (a : Nat) (bad : Bool) : dataAct s (.objTable n) a bad =
    if bad then recoveryStop (lineMarked s a) { cause := 4#3, sequencer := 15#4, port := 0#8, code := Config.MEM_POISON } (some 8) a
    else keeperRead s false := rfl

/-- A record read by the Keeper: a poisoned line is only counted and marked. -/
theorem dataAct_record {r : Reader} (hk : (∃ m, r = .mailbox m) ∨ r = .otp ∨ r = .unlock) (s : State) (a : Nat) (bad : Bool) :
    dataAct s r a bad = if bad then lineMarked s a else keeperRead s false := by
  rcases hk with ⟨m, rfl⟩ | rfl | rfl <;> rfl

/-- A good line of a Keeper read is only counted. -/
theorem dataAct_good {r : Reader} (hk : KeeperReads r) (s : State) (a : Nat) : dataAct s r a false = keeperRead s false := by
  rcases hk with ⟨m, rfl⟩ | rfl | rfl | rfl | rfl | ⟨n, rfl⟩
  · exact (dataAct_record (.inl ⟨m, rfl⟩) s a false).trans (if_neg Bool.false_ne_true)
  · exact (dataAct_record (.inr (.inl rfl)) s a false).trans (if_neg Bool.false_ne_true)
  · exact (dataAct_record (.inr (.inr rfl)) s a false).trans (if_neg Bool.false_ne_true)
  · exact (dataAct_image s a false).trans (if_neg Bool.false_ne_true)
  · exact (dataAct_patch s a false).trans (if_neg Bool.false_ne_true)
  · exact (dataAct_objTable s n a false).trans (if_neg Bool.false_ne_true)

theorem portCount_prompt (s : State) (p : Nat) : portCount s p false false = s := rfl

theorem portCount_bad (s : State) (p : Nat) : portCount s p true false = s.modPort p fun x => { x with
    poisonCount := satInc x.poisonCount } := rfl

theorem lineMarked_only (s : State) (a : Nat) : Only [.poison, .chime, .obs] s (lineMarked s a) :=
  (markPoison_only _ _ _).step (by decide) ((keeperRead_only _ _).wider (by decide))

theorem linesOf_one (a : Nat) : a / 128 ∈ linesOf a 1 := by
  unfold linesOf
  rw [if_neg (by decide)]
  exact List.mem_map.mpr ⟨0, List.mem_range.mpr (Nat.succ_pos _), Nat.zero_add _⟩

/-- The line is poisoned with the lines that were. -/
theorem lineMarked_poison (s : State) (a : Nat) :
    a / 128 ∈ (lineMarked s a).poison ∧ ∀ l ∈ s.poison, l ∈ (lineMarked s a).poison := by
  have hp : (keeperRead s true).poison = s.poison := keeperRead_only s true .poison (by decide)
  exact ⟨mem_markPoison.mpr (.inl (linesOf_one a)), fun l hl => mem_markPoison.mpr (.inr (by rw [hp]; exact hl))⟩

theorem auRefuseUnread_traceReq (s : State) (code : BitVec 16) : (auRefuseUnread s code).au.traceReq = s.au.traceReq := by
  obtain ⟨-, -, h⟩ := auRefuse_refuses s 0#5 (refusedPlain code)
  exact h

/-- Settles O9: by the reader, after the port's own counts. -/
theorem dataActsByItsReader : Obligations.DataActsByItsReader := by
  unfold Obligations.DataActsByItsReader
  intro up keeper poisonCounted
  refine ⟨?_, ?_, ?_⟩
  · intro s p bad late r hor
    rw [exec_data]
    by_cases hc : (s.watched && (s.port p.toNat).open' && !s.fr.stopped && (s.readPorts r).contains p.toNat) = true
    · rw [if_pos hc]
      simp only [Bool.and_eq_true, Bool.not_eq_true', State.watched, List.contains_iff_mem] at hc
      obtain ⟨⟨⟨⟨hp, _⟩, ho⟩, hs⟩, hm⟩ := hc
      rcases hor with h | h | h | h | h
      · rw [h]
      · exact absurd hm h
      · exact absurd (ho.symm.trans h) (by decide)
      · exact absurd (hs.symm.trans h) (by decide)
      · exact absurd (hp.symm.trans h) (by decide)
    · rw [if_neg hc]
  · rintro s p r a ⟨hr, hs, ho, hp⟩ ha hgood hk
    have hk' : KeeperReads r := by
      unfold KeeperReads
      rcases hk with (h | h | h) | h | h | h <;> simp [h]
    have e := exec_data_keeper (p := p) hr hs ho hp ha hk' false
    simp only [hgood, Bool.or_self, dataAct_good hk'] at e
    refine ⟨⟨_, e false, pmGlobal_reports _ _ _⟩, _, e true, ?_⟩
    obtain ⟨hport, honly⟩ := portCount_late s p.toNat
    have hkr := keeperRead_only (portCount s p.toNat false true) false
    have hq : ∀ q, (keeperRead (portCount s p.toNat false true) false).port q = (portCount s p.toNat false true).port q :=
      fun q => congrArg (fun l => tget Port.reset l q) (hkr .ports (by decide))
    exact ⟨by rw [hq, hport, if_pos rfl], fun q hn => by rw [hq, hport, if_neg hn], hkr.step (by decide) honly⟩
  · rintro s p r a bad ⟨hr, hs, ho, hp⟩ ha hbad
    have hb : (bad || s.poisoned a 1) = true := by rcases hbad with h | h <;> simp [h]
    have e : KeeperReads r → exec (.data p bad false r) s = .next (dataAct (portCount s p.toNat true false) r a true) :=
      fun hk => by rw [exec_data_keeper hr hs ho hp ha hk, hb]
    obtain ⟨u, hu⟩ : ∃ u, u = portCount s p.toNat true false := ⟨_, rfl⟩
    have huports : u.ports = (s.modPort p.toNat fun x => { x with poisonCount := satInc x.poisonCount }).ports := by
      rw [hu, portCount_bad]
    have hus : Only [.ports] s u := by rw [hu, portCount_bad]; exact modPort_only _ _ _
    have humark := lineMarked_only u a
    have hmark : Only [.ports, .poison, .chime, .obs] s (lineMarked u a) := humark.step (by decide) (hus.wider (by decide))
    have hcount : poisonCounted s (lineMarked u a) p a := by
      obtain ⟨h1, h2⟩ := lineMarked_poison u a
      refine ⟨(humark .ports (by decide)).trans huports, h1, fun l hl => h2 l ?_⟩
      rw [show u.poison = s.poison from hus .poison (by decide)]; exact hl
    have hkeep : ∀ t : State, t.ports = (lineMarked u a).ports → t.poison = (lineMarked u a).poison → poisonCounted s t p a :=
      fun t h1 h2 => ⟨h1.trans hcount.1, by rw [h2]; exact hcount.2⟩
    rw [← hu] at e
    clear_value poisonCounted
    refine ⟨fun hk => ?_, fun hi ht => ?_, fun hpatch => ?_, fun n hn => ?_⟩
    · have e' := e (by unfold KeeperReads; rcases hk with h | h | h <;> simp [h])
      rw [dataAct_record hk, if_pos rfl] at e'
      exact ⟨_, e', hcount, hmark⟩
    · subst hi
      have e' := e (.inr (.inr (.inr (.inl rfl))))
      rw [dataAct_image, if_pos rfl] at e'
      obtain ⟨⟨h1, h2, _, h4, h5, _, _, _, _, _, _⟩, _⟩ := auRefuseUnread_refuses (lineMarked u a) Config.MEM_POISON
      have hr' := auRefuseUnread_only (lineMarked u a) Config.MEM_POISON
      have htr := auRefuseUnread_traceReq (lineMarked u a) Config.MEM_POISON
      rw [show (lineMarked u a).au = s.au from hmark .au (by decide)] at htr
      generalize auRefuseUnread (lineMarked u a) Config.MEM_POISON = t at *
      rw [traceSettle_of_not_held (by rw [htr]; exact ht)] at e'
      exact ⟨t, e', hkeep t (hr' .ports (by decide)) (hr' .poison (by decide)), h1, h2, h4, h5, hr'.step (by decide) (hmark.wider (by decide))⟩
    · subst hpatch
      have e' := e (.inr (.inr (.inr (.inr (.inl rfl)))))
      rw [dataAct_patch, if_pos rfl] at e'
      have hboot : (lineMarked u a).boot = s.boot := hmark .boot (by decide)
      have hp' := patchFail_only (lineMarked u a) Config.MEM_POISON
      refine ⟨_, e', hkeep _ (hp' .ports (by decide)) (hp' .poison (by decide)), ?_, hp'.step (by decide) (hmark.wider (by decide))⟩
      change ({ (lineMarked u a).boot with state := .waitPatch, code := Config.MEM_POISON } : Boot) = _
      rw [hboot]
    · subst hn
      have e' := e (.inr (.inr (.inr (.inr (.inr ⟨n, rfl⟩)))))
      rw [dataAct_objTable, if_pos rfl] at e'
      have hst : (lineMarked u a).fr.stopped = false := by
        rw [show (lineMarked u a).fr = s.fr from hmark .fr (by decide)]; exact hs
      obtain ⟨c, hc⟩ : ∃ c : StopCause, c = { cause := 4#3, sequencer := 15#4, port := 0#8, code := Config.MEM_POISON } := ⟨_, rfl⟩
      rw [← hc] at e'
      have hmem := recoveryStop_memory (lineMarked u a) c (some 8) a hst
      have hstop := recoveryStop_stops (lineMarked u a) c (some 8) a hst
      have hports : (recoveryStop (lineMarked u a) c (some 8) a).ports = (lineMarked u a).ports :=
        recoveryStop_only _ _ _ _ .ports (by decide)
      generalize recoveryStop (lineMarked u a) c (some 8) a = t at *
      rw [hc] at hstop
      have hut : ({ s with ports := t.ports } : State) = u := by
        rw [hports, show (lineMarked u a).ports = u.ports from humark .ports (by decide), hu, portCount_bad]; rfl
      refine ⟨t, e', hkeep t hports hmem.2, hstop.2, ?_⟩
      rw [hut]
      exact stopsBlock_of_only (humark.wider (by decide)) hstop.1

end Sys2Proof.Machine
end

section
/-! SUPPORT. Resets and retention (R463, R489 to R493, R509). -/

namespace Sys2Proof.Machine

/-! ## Asserted resets (R489, R490) -/

theorem exec_porN_assert (s : State) :
    exec (.porN true) s = .next (porCleared { s with boot := { s.boot with porAsserted := true } }) := rfl

theorem exec_blkRstN_assert (s : State) : exec (.blkRstN true) s = .next (blkCleared { s with boot := { s.boot with
    blkAsserted := true, power := if s.boot.power = .off then .off else .on } }) := rfl

theorem kept_reset : Core.kept Core.reset = Core.reset := rfl

/-- A reset of the block leaves each core idle with its scratch as it was. -/
theorem blkCleared_core (s : State) (c : Nat) : (blkCleared s).core c = (s.core c).kept :=
  tget_map Core.reset Core.kept kept_reset s.cores c

/-! ## Released resets (R407, R509) -/

theorem bootBegin_held {s : State} (h : s.boot.porAsserted = true ∨ s.boot.blkAsserted = true) : bootBegin s = s := by
  unfold bootBegin
  exact if_pos (by simpa using h)

/-- Boot begins in ROM_INIT with a fresh challenge, and reports. -/
theorem bootBegin_reports {s : State} (hp : s.boot.porAsserted = false) (hb : s.boot.blkAsserted = false) :
    Reports { s with
      boot := { s.boot with state := .romInit, power := .on }
      sec := { s.sec with challenge := Config.freeDigest s.freeCount } } (bootBegin s) := by
  have e : bootBegin s = chSampleAll { s with
      boot := { s.boot with state := .romInit, power := .on }
      sec := { s.sec with challenge := Config.freeDigest s.freeCount }
      freeCount := s.freeCount + 1 } := by
    unfold bootBegin
    rw [if_neg (by simp [hp, hb])]
    rfl
  rw [e]
  refine Reports.trans ?_ (chSampleAll_reports _)
  exact ⟨_, s.obs, s.fr, s.freeCount + 1, rfl, rfl, rfl, rfl, rfl, rfl⟩

theorem exec_porN_release (s : State) : exec (.porN false) s = .next (
    if s.boot.porAsserted then bootBegin { s with boot := { s.boot with porAsserted := false, power := .on } } else s) := rfl

theorem exec_blkRstN_release (s : State) : exec (.blkRstN false) s = .next (
    if s.boot.blkAsserted then bootBegin { s with boot := { s.boot with blkAsserted := false } } else s) := rfl

/-- Settles O4: each input asserted, and released with its partner released too. -/
theorem resetInputsResetTheBlock : Obligations.ResetInputsResetTheBlock := by
  refine ⟨fun s => ⟨_, exec_porN_assert s, ?_⟩, fun s => ⟨_, exec_blkRstN_assert s, ?_⟩, fun s hp hb => ?_, fun s hb hp => ?_,
    fun s hp => ?_, fun s hb => ?_⟩
  · exact ⟨rfl, rfl, rfl, rfl, rfl, rfl, rfl, rfl, rfl, rfl, rfl, rfl, rfl, rfl, rfl, rfl, rfl, rfl, rfl, rfl, rfl, rfl, rfl,
      rfl, rfl, rfl, rfl, rfl, rfl, rfl, rfl, rfl⟩
  · refine ⟨rfl, rfl, rfl, rfl, rfl, rfl, rfl, rfl, rfl, rfl, rfl, rfl, rfl, rfl, rfl, rfl, rfl, rfl, rfl, rfl, rfl, rfl, rfl,
      rfl, rfl, rfl, rfl, rfl, rfl, rfl, fun c => ?_, rfl, rfl, rfl, rfl⟩
    rw [blkCleared_core]
    exact ⟨rfl, rfl⟩
  · refine ⟨_, ?_, bootBegin_reports (s := { s with boot := { s.boot with porAsserted := false, power := .on } }) rfl hb⟩
    rw [exec_porN_release, if_pos hp]
  · refine ⟨_, ?_, bootBegin_reports (s := { s with boot := { s.boot with blkAsserted := false } }) hp rfl⟩
    rw [exec_blkRstN_release, if_pos hb]
  · rw [exec_porN_release, if_neg (by simp [hp])]
  · rw [exec_blkRstN_release, if_neg (by simp [hb])]

/-! ## Retention (R463, R492, R493) -/

/-- Reports leave FR_STOP alone. -/
theorem frKept_stop {f g : Fr} (h : FrKept f g) : g.stopValid = f.stopValid ∧ g.stopCode = f.stopCode ∧ g.stopped = f.stopped := by
  unfold FrKept at h
  exact ⟨by rw [h], by rw [h], by rw [h]⟩

theorem exec_retReq (s : State) : exec .retReq s = .next (if s.watched && !s.boot.retReq then retBegin s else s) := rfl

theorem twYield_gate (s : State) (k : BitVec 8) : (twYield s k).tw.gateClosed = s.tw.gateClosed := linkSend_gate _ _ _

/-- Retention entry: admission idle, every job killed, the gate of a PRIMARY closed, and the rest of FR_STOP as it was. -/
theorem retBegin_spec (s : State) :
    (retBegin s).boot = { s.boot with retReq := true, retEntering := true } ∧ (retBegin s).au.state = .idle ∧
    (retBegin s).au.cand = none ∧ (∀ n, Killed (retBegin s) n) ∧
    (s.tw.state = .primary → (retBegin s).tw.gateClosed = true) ∧ FrKept s.fr (retBegin s).fr := by
  obtain ⟨b, hb⟩ : ∃ b : State, b = { s with boot := { s.boot with retReq := true, retEntering := true } } := ⟨_, rfl⟩
  obtain ⟨u, hu⟩ : ∃ u, u = if s.tw.state = .primary then twYield { b with tw := { s.tw with gateClosed := true } } 3#8 else b := ⟨_, rfl⟩
  have e : retBegin s = stopAll u.drawWord.2 (Config.freeCode u.drawWord.1) := by rw [hu, hb]; rfl
  have hub : Only [.tw, .links] b u := by
    rw [hu]
    split
    · exact (twYield_only _ _).step (by decide) (by rw [hb]; exact Only.set_tw (by decide) (.refl _ _))
    · exact .refl _ b
  have hk : Only stopAllParts u.drawWord.2 (retBegin s) := by rw [e]; exact stopAll_only _ _
  have hboot : (retBegin s).boot = b.boot := (hk .boot (by decide)).trans (hub .boot (by decide))
  have htw : (retBegin s).tw = u.tw := hk .tw (by decide)
  have hfr : FrKept u.fr (retBegin s).fr := hk .frCfg (by decide)
  refine ⟨hboot.trans (by rw [hb]), ?_, ?_, fun n => by rw [e]; exact stopAll_killed _ _ n, fun hp => ?_, ?_⟩
  · rw [e, stopAll_au]; rfl
  · rw [e, stopAll_au]; rfl
  · rw [htw, hu, if_pos hp, twYield_gate]
  · rwa [show u.fr = s.fr from (hub .fr (by decide)).trans (by rw [hb])] at hfr

theorem exec_retAck (s : State) :
    exec .retAck s = .next (if s.portAlive && s.boot.retEntering && s.writes.isEmpty then retDone s else s) := rfl

theorem exec_wake (s : State) : exec .wake s = .next (
    if s.boot.power == .retention && s.boot.retAck && !s.boot.blkAsserted && !s.boot.porAsserted then wake s else s) := rfl

theorem exec_chimeRestoreDone (s : State) :
    exec .chimeRestoreDone s = .next (if s.portAlive && s.boot.chimeRestoring then restoreEnd s else s) := rfl

theorem chResample_reports (s : State) (n : Nat) : Reports s (chResample s n) := by
  unfold chResample
  dsimp only
  split
  · exact chSample_reports s n
  · exact setSrc_reports _ _ _

/-- The end of a restore releases the outputs and samples. -/
theorem restoreEnd_reports (s : State) : Reports { s with
    boot := { s.boot with chimeRestoring := false }, chime := { s.chime with heldLow := false } } (restoreEnd s) := by
  unfold restoreEnd
  dsimp only
  refine Reports.trans ?_ (chEval_reports _)
  refine Reports.trans ?_ (Reports.foldl _ chResample_reports _ _)
  exact ⟨_, s.obs, s.fr, s.freeCount, rfl, rfl, rfl, rfl, rfl, rfl⟩

/-- Settles O6: the entry, its acknowledgement, the wake and the end of the restore. -/
theorem retentionIsEnteredAndLeft : Obligations.RetentionIsEnteredAndLeft := by
  refine ⟨fun s hr hn => ?_, fun s hp he hw => ?_, fun s hpow hack hb hp => ?_, fun s hp hc => ?_⟩
  · have e := exec_retReq s
    rw [if_pos (by simp [watched_of_running hr, hn])] at e
    obtain ⟨hboot, hau, hcand, hkill, hgate, hfr⟩ := retBegin_spec s
    obtain ⟨hvalid, hcode, hstopped⟩ := frKept_stop hfr
    have ho := retBegin_only s
    generalize retBegin s = t at *
    exact ⟨_, e, hboot, hau, hcand, hkill, hgate, hvalid, hcode, hstopped,
      ho .fuse (by decide), ho .tap (by decide), ho .basin (by decide)⟩
  · have e := exec_retAck s
    rw [if_pos (by simp [hp, he, hw])] at e
    exact ⟨_, e, chEval_reports _⟩
  · have e := exec_wake s
    rw [if_pos (by simp [hpow, hack, hb, hp])] at e
    obtain ⟨u, hu⟩ : ∃ u, u = { blkCleared s with
      chime := s.chime, cores := [], basin := [],
      boot := { (blkCleared s).boot with power := .on, wake := true, chimeRestoring := true } } := ⟨_, rfl⟩
    have hw : wake s = bootBegin u := by rw [hu]; rfl
    have hrep := bootBegin_reports (s := u) (by rw [hu]; exact hp) (by rw [hu]; exact hb)
    rw [← hw] at hrep
    obtain ⟨c, o, f, n, ht, -, -, hsel, hq, hheld⟩ := hrep
    rw [ht] at e
    subst hu
    exact ⟨_, e, rfl, rfl, rfl, rfl, rfl, rfl, rfl, rfl, rfl, rfl, rfl, rfl, rfl, rfl, rfl, rfl, hq, hheld, rfl, rfl, rfl, rfl, rfl, rfl⟩
  · have e := exec_chimeRestoreDone s
    rw [if_pos (by simp [hp, hc])] at e
    exact ⟨_, e, restoreEnd_reports s⟩

end Sys2Proof.Machine
end

section
/-! SUPPORT. Boot from ROM_INIT to READY (R384, R509 to R512). -/

namespace Sys2Proof.Machine

/-! ## ROM_INIT (R500, R509) -/

theorem exec_romInitDone (ok : Bool) (s : State) : exec (.romInitDone ok) s = .next (
    if s.portAlive && s.boot.state == .romInit then (if ok then romEnd s else romFailed s) else s) := rfl

/-- What ROM_INIT leaves of a core. -/
def Core.zeroed (k : Core) : Core :=
  { k with scratch := [], badLines := [], me := { k.me with bank0 := Bank.reset, bank1 := Bank.reset, acc := [] } }

theorem romZero_core (s : State) (c : Nat) : (romZero s).core c = (s.core c).zeroed :=
  tget_map Core.reset Core.zeroed rfl s.cores c

theorem identityKeys_fresh {s : State} (h : s.sec.idPub = []) : (identityKeys s).sec =
    { s.sec with idPub := Config.identityPublic s.fuse.idSeed, idDigest := sha384 (Config.identityPublic s.fuse.idSeed) } := by
  unfold identityKeys
  rw [if_pos (by simp [h])]

theorem importKeys_sec (s : State) : (importKeys s).sec.importReady = true ∧ (importKeys s).sec.idPub = s.sec.idPub ∧
    (importKeys s).sec.idDigest = s.sec.idDigest := ⟨rfl, rfl, rfl⟩

/-- ROM_INIT ends well: the state before the trained ports open. -/
theorem romEnd_eq (s : State) : ∃ u, romEnd s = openTrained { u with
      boot := { u.boot with state := .waitPatch }, fr := { u.fr with wdogArmed := true } } ∧
    u = importKeys (identityKeys (romZero s)) := ⟨_, rfl, rfl⟩

/-- The state after a self-check that failed. -/
theorem romFailed_spec (s : State) : (romFailed s).boot.state = .failed ∧ (romFailed s).fr.stopValid = true ∧
    (romFailed s).fr.stopCause = 1#3 ∧ (romFailed s).mem = s.mem ∧ (romFailed s).cores = s.cores ∧ (romFailed s).basin = s.basin := by
  obtain ⟨u, hu, hboot, hvalid, hcause, hmem, hcores, hbasin⟩ : ∃ u, romFailed s = chSample u 101 ∧ u.boot.state = .failed ∧
      u.fr.stopValid = true ∧ u.fr.stopCause = 1#3 ∧ u.mem = s.mem ∧ u.cores = s.cores ∧ u.basin = s.basin :=
    ⟨_, rfl, rfl, rfl, rfl, rfl, rfl, rfl⟩
  have ho := chSample_only u 101
  have hb : (chSample u 101).boot = u.boot := ho .boot (by decide)
  have hf : (chSample u 101).fr = u.fr := ho .fr (by decide)
  rw [hu, hb, hf]
  exact ⟨hboot, hvalid, hcause, (ho .mem (by decide)).trans hmem, (ho .cores (by decide)).trans hcores,
    (ho .basin (by decide)).trans hbasin⟩

/-- The state after a self-check that passed. -/
theorem romEnd_spec (s : State) : (romEnd s).boot.state = .waitPatch ∧ (romEnd s).fr.wdogArmed = true ∧ (romEnd s).basin = [] ∧
    (romEnd s).pool = [] ∧ (romEnd s).sec.importReady = true ∧
    (s.sec.idPub = [] → (romEnd s).sec.idPub = Config.identityPublic s.fuse.idSeed ∧
      (romEnd s).sec.idDigest = sha384 (romEnd s).sec.idPub) ∧
    (∀ c, (romEnd s).core c = (s.core c).zeroed) ∧ (romEnd s).mem = s.mem ∧ (romEnd s).fuse = s.fuse := by
  obtain ⟨u, he, hu⟩ := romEnd_eq s
  have ho := openTrained_only { u with boot := { u.boot with state := .waitPatch }, fr := { u.fr with wdogArmed := true } }
  rw [← he] at ho
  have hboot : (romEnd s).boot = { u.boot with state := .waitPatch } := ho .boot (by decide)
  have hfr : (romEnd s).fr = { u.fr with wdogArmed := true } := ho .fr (by decide)
  have hsec : (romEnd s).sec = u.sec := ho .sec (by decide)
  have hcores : (romEnd s).cores = u.cores := ho .cores (by decide)
  have hid := identityKeys_only (romZero s)
  have him := importKeys_only (identityKeys (romZero s))
  rw [← hu] at him
  obtain ⟨h1, h2, h3⟩ := importKeys_sec (identityKeys (romZero s))
  rw [← hu] at h1 h2 h3
  refine ⟨by rw [hboot], by rw [hfr], ?_, ?_, by rw [hsec]; exact h1, fun hp => ?_, fun c => ?_, ?_, ?_⟩
  · exact (ho .basin (by decide)).trans ((him .basin (by decide)).trans (hid .basin (by decide)))
  · exact (ho .pool (by decide)).trans ((him .pool (by decide)).trans (hid .pool (by decide)))
  · rw [hsec, h2, h3, identityKeys_fresh (s := romZero s) hp]
    exact ⟨rfl, rfl⟩
  · have hc : (romEnd s).cores = (romZero s).cores :=
      hcores.trans ((him .cores (by decide)).trans (hid .cores (by decide)))
    exact (congrArg (fun l => tget Core.reset l c) hc).trans (romZero_core s c)
  · exact (ho .mem (by decide)).trans ((him .mem (by decide)).trans (hid .mem (by decide)))
  · exact (ho .fuse (by decide)).trans ((him .fuse (by decide)).trans (hid .fuse (by decide)))

/-! ## The patch (R510, R511) -/

theorem exec_load {s : State} {who : Who} (hp : s.portAlive = true) (hh : s.obs.halted = false) (hi : who.inst = 0#6)
    (hv : who.valid = true) : exec (.load who) s = .next (bootLoad s) :=
  congrArg Host.Outcome.next (hostWrite_manager s who KP_BOOT_CMD false bootLoad hp hh (Or.inr rfl) hv hi rfl rfl)

theorem patchLenOk_iff (n : Nat) : patchLenOk n = true ↔ n % 64 = 0 ∧ 16384 ≤ n ∧ n ≤ 1048576 := by
  simp [patchLenOk, and_assoc]

theorem bootLoad_eq {s : State} (h : s.boot.state = .waitPatch) : bootLoad s = { s with boot :=
    if s.boot.patchLen.toNat % 64 = 0 ∧ 16384 ≤ s.boot.patchLen.toNat ∧ s.boot.patchLen.toNat ≤ 1048576 then
      { s.boot with state := .verifyPatch }
    else { s.boot with code := Config.IMAGE_MALFORMED } } := by
  unfold bootLoad
  rw [if_pos h]
  by_cases hl : patchLenOk s.boot.patchLen.toNat = true
  · rw [if_pos hl, if_pos ((patchLenOk_iff _).mp hl)]
  · rw [if_neg hl, if_neg fun hc => hl ((patchLenOk_iff _).mpr hc)]

theorem exec_patchVerifyDone (s : State) : exec (.patchVerifyDone ()) s =
    if s.watched && s.boot.state == .verifyPatch && !s.openPorts.isEmpty then
      (if s.boot.patchAddr.toNat + s.boot.patchLen.toNat ≤ 2 ^ 48 then .next (patchVerified s) else .fault .addressSpace)
    else .next s := rfl

/-- No step of R81 has failed. -/
theorem sigDetail_eq_zero (frameOk keyOk : Bool) (v : SigVerdict) : sigDetail frameOk keyOk v = 0#5 ↔
    frameOk = true ∧ v.digestOk = true ∧ keyOk = true ∧ v.ecdsaOk = true ∧ v.mldsaOk = true := by
  unfold sigDetail
  cases frameOk with
  | false => simp
  | true =>
    cases v.digestOk <;> cases keyOk <;> cases v.ecdsaOk <;> cases v.mldsaOk <;> decide

theorem leNat_eq_zero (l : List Byte) : leNat l = 0 ↔ ∀ b ∈ l, b = 0#8 := by
  induction l with
  | nil => simp [leNat]
  | cons b r ih =>
    rw [leNat, Nat.add_eq_zero_iff, Nat.mul_eq_zero, ih, List.forall_mem_cons]
    have hb : b.toNat = 0 ↔ b = 0#8 := ⟨fun h => BitVec.eq_of_toNat_eq h, fun h => by rw [h]; rfl⟩
    rw [hb]
    simp

theorem zeroRange_iff (s : State) (a len : Nat) : zeroRange s a len = true ↔ s.readLE a len = 0 := by
  unfold zeroRange State.readLE
  rw [leNat_eq_zero, List.all_eq_true]
  simp

/-- Settles O5: ROM_INIT by the self-check, LOAD by the length, the patch by the checks in their order. -/
theorem bootRunsFromRomInitToReady : Obligations.BootRunsFromRomInitToReady := by
  refine ⟨fun s hp hs => ⟨?_, ?_⟩, fun s who hp hh hi hv hs => ?_, ?_⟩
  · have e := exec_romInitDone true s
    rw [if_pos (by simp [hp, hs]), if_pos rfl] at e
    obtain ⟨h1, h2, h3, h4, h5, h6, h7, h8, h9⟩ := romEnd_spec s
    exact ⟨_, e, h1, h2, h3, h4, h5, h6, fun c => by rw [h7 c]; exact ⟨rfl, rfl, rfl, rfl, rfl⟩, h8, h9⟩
  · have e := exec_romInitDone false s
    rw [if_pos (by simp [hp, hs]), if_neg (by decide)] at e
    exact ⟨_, e, romFailed_spec s⟩
  · rw [exec_load hp hh hi hv, bootLoad_eq hs]
  · intro s hp hh hs hopen hlen base len v sigGood fieldsGood fails
    have e := exec_patchVerifyDone s
    rw [if_pos (by simp [watched_of_running ⟨hp, hh⟩, hs, hopen]), if_pos hlen] at e
    have hsig : sigDetail (framingOk s base len 0x48435450 false) (v.keyDigest == s.fuse.ovirasaDigest) v = 0#5 ↔ sigGood := by
      rw [sigDetail_eq_zero, beq_iff_eq]
    have hfields : patchFieldsOk s base = true ↔ fieldsGood := by
      unfold patchFieldsOk
      rw [Bool.and_eq_true, Bool.and_eq_true, zeroRange_iff, zeroRange_iff, beq_iff_eq, and_assoc]
    have hv : patchVerified s = if s.poisoned base len then patchFail s Config.MEM_POISON
        else if sigDetail (framingOk s base len 0x48435450 false) (v.keyDigest == s.fuse.ovirasaDigest) v ≠ 0#5 then
          tamperRaise (patchFail s Config.SIGNATURE_FAIL) 1
        else if patchFieldsOk s base then patchGood s base len else patchFail s Config.IMAGE_MALFORMED := rfl
    rw [hv] at e
    refine ⟨fun hpo => ?_, fun hpo hn => ?_, fun hpo hg hf => ?_, fun hpo hg hf => ?_⟩
    · rw [if_pos hpo] at e
      exact ⟨_, e, rfl, rfl⟩
    · rw [if_neg (by simp [hpo]), if_pos fun hc => hn (hsig.mp hc)] at e
      have ho := tamperRaise_only (patchFail s Config.SIGNATURE_FAIL) 1
      exact ⟨_, e, ho .boot (by decide), ho .mem (by decide)⟩
    · rw [if_neg (by simp [hpo]), if_neg (not_not.mpr (hsig.mpr hg)), if_neg fun hc => hf (hfields.mp hc)] at e
      exact ⟨_, e, rfl, rfl⟩
    · rw [e, if_neg (by simp [hpo]), if_neg (not_not.mpr (hsig.mpr hg)), if_pos (hfields.mpr hf)]
      rfl

end Sys2Proof.Machine
end

section
/-! SUPPORT. The mailbox: the words written and latched, the checks before a request is decided, and its answer (R353 to R357). -/

namespace Sys2Proof.Machine

/-! ## Pages -/

@[simp] theorem setInst_inst (s : State) (n : Nat) (i : Inst) : (s.setInst n i).inst n = i := tget_tput_self _ _ _ _
theorem setInst_inst_ne (s : State) (i : Inst) {n m : Nat} (h : m ≠ n) : (s.setInst n i).inst m = s.inst m :=
  tget_tput_ne _ _ _ _ _ h

theorem modInst_inst (s : State) (n m : Nat) (f : Inst → Inst) :
    (s.modInst n f).inst m = if m = n then f (s.inst n) else s.inst m := by
  unfold State.modInst
  by_cases h : m = n
  · rw [if_pos h, h, setInst_inst]
  · rw [if_neg h, setInst_inst_ne s _ h]

theorem modInst_modInst (s : State) (n : Nat) (f g : Inst → Inst) : (s.modInst n f).modInst n g = s.modInst n fun i => g (f i) := by
  have h : (s.modInst n f).inst n = f (s.inst n) := by rw [modInst_inst, if_pos rfl]
  change ({ s with insts := tput (tput s.insts n (f (s.inst n))) n (g ((s.modInst n f).inst n)) } : State) = _
  rw [h, tput_tput]; rfl

theorem modPage_inst (s : State) (n m : Nat) (f : Page → Page) : (s.modPage n f).inst m =
    if m = n then { s.inst n with page := f (s.page n) } else s.inst m := modInst_inst s n m _

theorem modPage_page (s : State) (n : Nat) (f : Page → Page) : (s.modPage n f).page n = f (s.page n) := by
  unfold State.page
  rw [modPage_inst, if_pos rfl]; rfl

theorem modPage_state (s : State) (n m : Nat) (f : Page → Page) : ((s.modPage n f).inst m).state = (s.inst m).state := by
  rw [modPage_inst]
  split
  · next h => rw [h]
  · rfl

theorem modPage_modPage (s : State) (n : Nat) (f g : Page → Page) : (s.modPage n f).modPage n g = s.modPage n fun p => g (f p) :=
  modInst_modInst s n _ _

/-! ## The request words (R354, R355) -/

/-- The request registers with words written from word k on. -/
def writeWords (t : Tbl W64) (words : List (W64 × Nat)) : Tbl W64 := words.foldl (fun t x => tset0 t x.2 x.1) t

theorem mbWord_free {s : State} {n : Nat} (h : (s.inst n).state = .free) (k : Nat) (v : W64) : mbWord s n k v = s := if_pos h

theorem mbWord_taken {s : State} {n : Nat} (h : (s.inst n).state ≠ .free) (k : Nat) (v : W64) :
    mbWord s n k v = s.modPage n fun p => { p with req := tset0 p.req k v } := if_neg h

theorem foldl_mbWord_free {s : State} {n : Nat} (h : (s.inst n).state = .free) (l : List (W64 × Nat)) :
    l.foldl (fun s x => mbWord s n x.2 x.1) s = s := by
  induction l with
  | nil => rfl
  | cons x r ih => rw [List.foldl_cons, mbWord_free h, ih]

theorem foldl_mbWord_taken {s : State} {n : Nat} (h : (s.inst n).state ≠ .free) (x : W64 × Nat) (l : List (W64 × Nat)) :
    (x :: l).foldl (fun s x => mbWord s n x.2 x.1) s = s.modPage n fun p => { p with req := writeWords p.req (x :: l) } := by
  induction l generalizing s x with
  | nil => exact mbWord_taken h x.2 x.1
  | cons y r ih =>
    rw [List.foldl_cons, mbWord_taken h, ih (by rw [modPage_state]; exact h), modPage_modPage]
    rfl

theorem mbWritten_free {s : State} {m : MbReq} (h : (s.inst m.page.toNat).state = .free) (words : List W64) :
    mbWritten s m words = s := foldl_mbWord_free h _

theorem mbWritten_taken {s : State} {m : MbReq} (h : (s.inst m.page.toNat).state ≠ .free) {words : List W64} (hw : words ≠ []) :
    mbWritten s m words = s.modPage m.page.toNat fun p => { p with req := writeWords p.req words.zipIdx } := by
  obtain ⟨a, l, rfl⟩ := List.exists_cons_of_ne_nil hw
  exact foldl_mbWord_taken h _ _

theorem tget_writeWords (words : List W64) (k : Nat) (t : Tbl W64) (m : Nat) : tget 0#64 (writeWords t (words.zipIdx k)) m =
    if k ≤ m ∧ m < k + words.length then words.getD (m - k) 0#64 else tget 0#64 t m := by
  unfold writeWords
  induction words generalizing t k with
  | nil => rw [if_neg (by simp)]; rfl
  | cons a r ih =>
    rw [List.zipIdx_cons, List.foldl_cons, ih, tget_tset0, List.length_cons]
    by_cases h : m = k
    · subst h
      rw [if_neg (by omega), if_pos rfl, if_pos (by omega), Nat.sub_self]
      rfl
    · rw [if_neg h]
      by_cases hm : k + 1 ≤ m ∧ m < k + 1 + r.length
      · rw [if_pos hm, if_pos (by omega), show m - k = m - (k + 1) + 1 by omega, List.getD_cons_succ]
      · rw [if_neg hm, if_neg (by omega)]

theorem mbWritten_word {s : State} {m : MbReq} (h : (s.inst m.page.toNat).state ≠ .free) {words : List W64} (hw : words.length = 8)
    {k : Nat} (hk : k < 8) : tget 0#64 ((mbWritten s m words).page m.page.toNat).req k = words.getD k 0#64 := by
  rw [mbWritten_taken h (fun e => by rw [e] at hw; cases hw), modPage_page]
  change tget 0#64 (writeWords _ (words.zipIdx 0)) k = _
  rw [tget_writeWords, if_pos (by omega), Nat.sub_zero]

/-- The words that stand in the page are those written. -/
theorem mbWritten_words {s : State} {m : MbReq} (h : (s.inst m.page.toNat).state ≠ .free) {words : List W64} (hw : words.length = 8) :
    ((mbWritten s m words).page m.page.toNat).words = words := by
  unfold Page.words
  refine List.ext_getElem (by simp [hw]) fun k h1 h2 => ?_
  rw [List.getElem_map, List.getElem_range, mbWritten_word h hw (by omega), List.getD_eq_getElem?_getD, List.getElem?_eq_getElem h2]
  rfl

/-! ## A request up to its decision (R354, R355, R366) -/

/-- A row that requests writes its eight words and GO. -/
theorem exec_request {x : Instr} {m : MbReq} {words : List W64} (h : requestOf x = some (m, words)) (s : State) :
    exec x s = mbRequest s m words ∧ words.length = 8 := by
  unfold requestOf at h
  split at h
  case h_17 => cases h
  all_goals
    obtain ⟨rfl, rfl⟩ := Prod.mk.inj (Option.some.inj h)
    exact ⟨rfl, rfl⟩

theorem pageGo_lt (page : BitVec 6) : 0x1000000 + 0x10000 * page.toNat ≤ pageOff page.toNat 0x40 ∧
    pageOff page.toNat 0x40 < 0x1010000 + 0x10000 * page.toNat ∧ pageOff page.toNat 0x40 % 4 = 0 := by
  unfold pageOff
  refine ⟨?_, ?_, ?_⟩ <;> omega

theorem mbRequest_granted {s : State} {m : MbReq} (h : PageMay s m.who m.page) (words : List W64) : mbRequest s m words =
    if s.goBeyond m.page.toNat m.who words then .fault .addressSpace
    else .next (mbGo (mbWritten s m words) m.page.toNat m.who m.seq) := by
  obtain ⟨h1, h2, h3⟩ := pageGo_lt m.page
  unfold mbRequest
  dsimp only
  rw [hostCheck_page h false h1 h2 (by rw [if_neg (by decide)]; exact h3)]
  rfl

/-- MB_REQ_GO is a register of every page. -/
theorem regRowAt_go (page : BitVec 6) : ∃ r, regRowAt (pageOff page.toNat 0x40) = some r := by
  have hp : page.toNat < 64 := page.isLt
  have hmem : page64 0x40 1 4 ∈ regRows := by decide +kernel
  have hhas : (page64 0x40 1 4).has (pageOff page.toNat 0x40) = true := by
    unfold RegRow.has pageOff page64
    have h1 : (0x1000000 + 0x10000 * page.toNat + 0x40 - (0x1000000 + 0x40)) = 0x10000 * page.toNat := by omega
    simp only [h1]
    simp [hp]
  exact Option.isSome_iff_exists.mp (List.find?_isSome.mpr ⟨_, hmem, hhas⟩)

/-- A request by another instance is reported and does nothing (R354). -/
theorem mbRequest_stranger {s : State} {m : MbReq} (hr : Running' s) (hb : s.boot.state = .ready) (hv : m.who.valid = true)
    (h0 : m.who.inst ≠ 0#6) (hn : m.who.inst ≠ m.page) (words : List W64) : Becomes (mbRequest s m words) s := by
  obtain ⟨h1, h2, h3⟩ := pageGo_lt m.page
  have hp : m.page.toNat < 64 := m.page.isLt
  obtain ⟨r, hrow⟩ := regRowAt_go m.page
  have hreach : s.reaches m.who (pageOff m.page.toNat 0x40) true = false := by
    have hidx : (pageOff m.page.toNat 0x40 - 0x1000000) / 0x10000 = m.page.toNat := by omega
    have hpage : pageOf (pageOff m.page.toNat 0x40) = some m.page.toNat := by
      unfold pageOf; rw [if_pos (by omega), hidx]
    unfold State.reaches
    simp only [hrow, regRowAt_page (by omega) (by omega) hrow, hpage]
    have : m.page.toNat ≠ m.who.inst.toNat := fun e => hn (BitVec.eq_of_toNat_eq e.symm)
    simp [h0, this]
  have hwin : windowCore (pageOff m.page.toNat 0x40) = none := by unfold windowCore; rw [if_neg (by omega)]
  have hc : hostCheck s m.who (pageOff m.page.toNat 0x40) true false = .ignored (accessDenied s) := by
    rw [hostCheck_present hr.1 (by rw [if_neg (by decide)]; exact h3) (fun h => absurd (hr.2.symm.trans h) (by decide)) (Or.inl hb) hv
      (by rw [hwin]; simp), if_pos hreach]
  refine ⟨accessDenied s, ?_, accessDeniedId_reports s 0⟩
  unfold mbRequest
  dsimp only
  rw [hc]

theorem goBeyond_free {s : State} {n : Nat} (h : (s.inst n).state = .free) (who : Who) (words : List W64) :
    s.goBeyond n who words = false := by
  simp [State.goBeyond, h]

/-- A GO that ends no disable. -/
theorem mbGo_eq {s : State} {n : Nat} (hr : s.resetsDisable n (s.page n).words = false) (who : Who) (seq : BitVec 16) :
    mbGo s n who seq = if (s.inst n).state = .free then s
      else if (s.page n).busy then s.modPage n fun p => { p with busyReject := true }
      else mbDecide (s.modPage n fun p => p.latch seq (s.page n).words) n who := by
  unfold mbGo
  simp only [hr, Bool.false_eq_true, if_false]

theorem resetsDisable_idle {s : State} {n : Nat} (hb : (s.page n).busy = false) (l : List W64) : s.resetsDisable n l = false := by
  simp [State.resetsDisable, hb]

theorem mbGo_free {s : State} {n : Nat} (h : (s.inst n).state = .free) (hb : (s.page n).busy = false) (who : Who) (seq : BitVec 16) :
    mbGo s n who seq = s := by
  rw [mbGo_eq (resetsDisable_idle hb _), if_pos h]

/-- The words written change nothing that a GO looks at. -/
theorem mbWritten_kept {s : State} {m : MbReq} (h : (s.inst m.page.toNat).state ≠ .free) {words : List W64} (hw : words.length = 8) :
    ((mbWritten s m words).inst m.page.toNat).state = (s.inst m.page.toNat).state ∧
    ((mbWritten s m words).page m.page.toNat).busy = (s.page m.page.toNat).busy ∧
    (∀ l, (mbWritten s m words).resetsDisable m.page.toNat l = s.resetsDisable m.page.toNat l) := by
  rw [mbWritten_taken h (fun e => by rw [e] at hw; cases hw)]
  refine ⟨modPage_state _ _ _ _, by rw [modPage_page], fun l => ?_⟩
  unfold State.resetsDisable
  simp only [modPage_page, modPage_state]
  rfl

theorem mbGo_busy {s : State} {n : Nat} (h : (s.inst n).state ≠ .free) (hb : (s.page n).busy = true) (who : Who) (seq : BitVec 16)
    (hr : s.resetsDisable n (s.page n).words = false) : mbGo s n who seq = s.modPage n fun p => { p with busyReject := true } := by
  rw [mbGo_eq hr, if_neg h, if_pos hb]

theorem mbGo_takes {s : State} {n : Nat} (h : (s.inst n).state ≠ .free) (hb : (s.page n).busy = false) (who : Who) (seq : BitVec 16) :
    mbGo s n who seq = mbDecide (s.modPage n fun p => p.latch seq (s.page n).words) n who := by
  rw [mbGo_eq (resetsDisable_idle hb _), if_neg h, if_neg (by simp [hb])]

/-- A request that the page takes is latched and decided. -/
theorem exec_mbTakes {s : State} {x : Instr} {m : MbReq} {words : List W64} (hx : requestOf x = some (m, words))
    (h : MbTakes s m words) : exec x s = .next (mbDecide (mbTaken s m words) m.page.toNat m.who) := by
  obtain ⟨hmay, hfree, hbusy, hgo⟩ := h
  obtain ⟨he, hlen⟩ := exec_request hx s
  obtain ⟨h1, h2, -⟩ := mbWritten_kept (m := m) hfree hlen
  rw [he, mbRequest_granted hmay, if_neg (by simp [hgo]), mbGo_takes (by rw [h1]; exact hfree) (h2.trans hbusy), mbWritten_words hfree hlen]
  rfl

/-! ## The decision and its answer (R355, R357) -/

theorem mbTaken_busy (s : State) (m : MbReq) (words : List W64) : ((mbTaken s m words).page m.page.toNat).busy = true := by
  unfold mbTaken
  rw [modPage_page]

/-- A request latched changes its page alone. -/
theorem mbTaken_only (s : State) (m : MbReq) (words : List W64) : Only [.insts] s (mbTaken s m words) := by
  refine Only.step (State.modPage_only _ _ _) (by decide) ?_
  unfold mbWritten
  exact Only.foldl (fun u x => (mbWord_only u _ _ _).wider (by decide)) (.refl _ s)

theorem mbTaken_fr (s : State) (m : MbReq) (words : List W64) : (mbTaken s m words).fr = s.fr :=
  mbTaken_only s m words .fr (by decide)

/-- An answer to a request in progress is the answer, and reports. -/
theorem mbDone_answers {s : State} {n : Nat} (h : (s.page n).busy = true) (code : BitVec 16) (rsp : List W64) :
    Reports (mbAnswered s n code rsp) (mbDone s n code rsp) := by
  unfold mbDone
  rw [if_pos h]
  exact chSample_reports _ _

/-- What is answered at once, in a block that is stopped and in one that is not (R357). -/
theorem mbDecide_eq (s : State) (n : Nat) (who : Who) : mbDecide s n who =
    if s.fr.stopped then mbDone s n Config.ACCESS_DENIED []
    else if !((s.page n).wellFormed && s.mbCoreOk (s.page n)) then mbDone s n Config.PACKET_MALFORMED []
    else if s.mbDenied n who (s.page n) then mbDone s n Config.ACCESS_DENIED []
    else mbAct s n (s.page n) := rfl

/-- A request that passes the checks of its words acts. -/
theorem exec_mbClear {s : State} {x : Instr} {m : MbReq} {words : List W64} (hx : requestOf x = some (m, words))
    (h : MbClear s m words) :
    exec x s = .next (mbAct (mbTaken s m words) m.page.toNat ((mbTaken s m words).page m.page.toNat)) := by
  obtain ⟨htakes, hstop, hwell, hcore, hden⟩ := h
  rw [exec_mbTakes hx htakes, mbDecide_eq, mbTaken_fr, if_neg (by simp [hstop]), if_neg (by simp [hwell, hcore]), if_neg (by simp [hden])]

/-- Settles O39: the checks of a request in the order of R357. -/
theorem mailboxRequestsAreChecked : Obligations.MailboxRequestsAreChecked := by
  intro s x m words hx n u
  obtain ⟨he, hlen⟩ := exec_request hx s
  refine ⟨fun k hk hf => mbWritten_word hf hlen hk, fun hr hb hv h0 hn => ?_, fun hmay => ⟨fun hf hb => ?_, fun hf hb hd => ?_,
    fun hg => ?_⟩, fun ht => ⟨fun hs => ?_, fun hs hw => ?_, fun hs hw hc hd => ?_⟩⟩
  · rw [he]; exact mbRequest_stranger hr hb hv h0 hn words
  · rw [he, mbRequest_granted hmay, goBeyond_free hf, if_neg (by decide), mbWritten_free hf, mbGo_free hf hb]
  · obtain ⟨h1, h2, h3⟩ := mbWritten_kept (m := m) hf hlen
    have hg : s.goBeyond n m.who words = false := by simp [State.goBeyond, hb, hd]
    rw [he, mbRequest_granted hmay, if_neg (by rw [hg]; decide), mbGo_busy (by rw [h1]; exact hf) (h2.trans hb)]
    rw [mbWritten_words hf hlen, h3, hd]
  · rw [he, mbRequest_granted hmay, if_pos hg]
  · have hu : u.fr.stopped = true := by rw [mbTaken_fr]; exact hs
    refine ⟨_, exec_mbTakes hx ht, ?_⟩
    rw [mbDecide_eq, if_pos hu]
    exact mbDone_answers (mbTaken_busy s m words) _ _
  · have hu : u.fr.stopped = false := by rw [mbTaken_fr]; exact hs
    refine ⟨_, exec_mbTakes hx ht, ?_⟩
    rw [mbDecide_eq, if_neg (by rw [hu]; decide), if_pos (by simpa [imp_iff_not_or] using hw)]
    exact mbDone_answers (mbTaken_busy s m words) _ _
  · have hu : u.fr.stopped = false := by rw [mbTaken_fr]; exact hs
    refine ⟨_, exec_mbTakes hx ht, ?_⟩
    rw [mbDecide_eq, if_neg (by rw [hu]; decide), if_neg (by simpa using ⟨hw, hc⟩), if_pos hd]
    exact mbDone_answers (mbTaken_busy s m words) _ _

end Sys2Proof.Machine
end

section
/-! SUPPORT. The requests for contexts, queues, counters and record rings (R268, R272, R356, R470). -/

namespace Sys2Proof.Machine

/-! ## A request that passes its checks -/

theorem reqWords_length (m : MbReq) (op : Nat) : (reqWords m op).length = 8 := rfl

/-- What a decision reads of the state in which a request is latched. -/
structure MbReads (s u : State) (n : Nat) : Prop where
  rest : ∃ l, u = { s with insts := l }
  pools : ∀ i, (u.inst i).pools = (s.inst i).pools
  but : ∀ i, ∃ p, u.inst i = { s.inst i with page := p }
  busy : (u.page n).busy = true

theorem mbTaken_eq {s : State} {m : MbReq} {words : List W64} (h : MbTakes s m words) (hw : words ≠ []) : mbTaken s m words =
    s.modPage m.page.toNat fun p => { p with
      req := writeWords p.req words.zipIdx, busy := true, curSeq := m.seq, curOp := BitVec.ofNat 8 (words.getD 0 0#64).toNat,
      cur := words } := by
  unfold mbTaken
  rw [mbWritten_taken h.2.1 hw, modPage_modPage]

theorem mbTaken_reads {s : State} {m : MbReq} {words : List W64} (h : MbTakes s m words) (hw : words ≠ []) :
    MbReads s (mbTaken s m words) m.page.toNat := by
  refine ⟨?_, fun i => ?_, fun i => ?_, mbTaken_busy _ _ _⟩
  · rw [mbTaken_eq h hw]; exact ⟨_, rfl⟩
  · rw [mbTaken_eq h hw, modPage_inst]
    split
    · next e => rw [e]
    · rfl
  · rw [mbTaken_eq h hw, modPage_inst]
    split
    · next e => rw [e]; exact ⟨_, rfl⟩
    · exact ⟨_, rfl⟩

theorem reqWords_op (m : MbReq) {op : Nat} (h : op < 256) :
    ((reqWords m op).getD 0 0#64).toNat = m.w0.toNat / 256 * 256 + op := by
  have h0 := m.w0.isLt
  change (BitVec.ofNat 64 (m.w0.toNat / 256 * 256 + op)).toNat = _
  rw [BitVec.toNat_ofNat, Nat.mod_eq_of_lt (by omega)]

/-- Bits of word 0 above the opcode are those of the row. -/
theorem reqWords_field0 (m : MbReq) {op : Nat} (ho : op < 256) (hi : Nat) {lo : Nat} (hl : 8 ≤ lo) :
    bitField ((reqWords m op).getD 0 0#64).toNat hi lo = bitField m.w0.toNat hi lo := by
  rw [reqWords_op m ho]
  unfold bitField
  obtain ⟨k, rfl⟩ : ∃ k, lo = 8 + k := ⟨lo - 8, by omega⟩
  rw [Nat.shiftRight_eq_div_pow, Nat.shiftRight_eq_div_pow, Nat.pow_add, ← Nat.div_div_eq_div_mul, ← Nat.div_div_eq_div_mul,
    show (m.w0.toNat / 256 * 256 + op) / 2 ^ 8 = m.w0.toNat / 2 ^ 8 by omega]

/-- A page whose latched words are these. -/
def Page.holding (q : Page) (words : List W64) : Page := { q with cur := words }

theorem Page.holding_self (q : Page) {words : List W64} (h : q.cur = words) : q = q.holding words := by subst h; rfl

/-- What a row's request does once it passes the checks of its words: the latched page holds the words of the row, and the rest
of the state is as before. -/
theorem mbClear_acts {s : State} {x : Instr} {m : MbReq} {op : Nat} (hx : requestOf x = some (m, reqWords m op)) (ho : op < 256)
    (h : MbClear s m (reqWords m op)) : ∃ (u : State) (q : Page), u = mbTaken s m (reqWords m op) ∧ MbReads s u m.page.toNat ∧
      (q.holding (reqWords m op)).curOp.toNat = op ∧ exec x s = .next (mbAct u m.page.toNat (q.holding (reqWords m op))) := by
  refine ⟨_, (mbTaken s m (reqWords m op)).page m.page.toNat, rfl, mbTaken_reads h.1 (by simp [reqWords]), ?_, ?_⟩
  · unfold mbTaken
    rw [modPage_page]
    change (BitVec.ofNat 8 ((reqWords m op).getD 0 0#64).toNat).toNat = op
    rw [reqWords_op m ho, BitVec.toNat_ofNat]
    omega
  · rw [exec_mbClear hx h, ← Page.holding_self]
    unfold mbTaken
    rw [modPage_page]

/-- A request answered with a code. -/
theorem becomes_answer {s t u : State} {x : Instr} {n : Nat} {code : BitVec 16} {rsp : List W64} (e : exec x s = .next t)
    (hb : (u.page n).busy = true) (ht : t = mbDone u n code rsp) : Becomes (exec x s) (mbAnswered u n code rsp) :=
  ⟨t, e, ht ▸ mbDone_answers hb _ _⟩

/-! ## Free identifiers -/

/-- The lowest of a range of numbers that meets a test. -/
theorem find_range_first {f : Nat → Bool} {first count c : Nat} (h1 : first ≤ c) (h2 : c < first + count) (hc : f c = true)
    (h : ∀ d, first ≤ d → d < c → f d = false) : ((List.range count).map (· + first)).find? f = some c := by
  rw [List.find?_map, Option.map_eq_some_iff]
  refine ⟨c - first, ?_, by omega⟩
  rw [List.find?_range_eq_some]
  refine ⟨?_, List.mem_range.mpr (by omega), fun j hj => ?_⟩
  · rw [Function.comp, Nat.sub_add_cancel h1]; exact hc
  · simp [h (j + first) (by omega) (by omega)]

theorem find_range_none {f : Nat → Bool} {first count : Nat} (h : ∀ c, first ≤ c → c < first + count → f c = false) :
    ((List.range count).map (· + first)).find? f = none := by
  rw [List.find?_eq_none]
  intro c hc
  obtain ⟨k, hk, rfl⟩ := List.mem_map.mp hc
  rw [h _ (by omega) (by have := List.mem_range.mp hk; omega)]
  decide

theorem freeHigh_first {s : State} {c k : Nat} (h1 : 4096 ≤ k) (h2 : k < 8192) (hk : (s.counter (c * 8192 + k)).state = .free)
    (h : ∀ j, 4096 ≤ j → j < k → (s.counter (c * 8192 + j)).state ≠ .free) : s.freeHigh c = some k := by
  refine find_range_first h1 h2 ?_ fun d hd hdk => ?_
  · simpa using hk
  · simpa using h d hd hdk

theorem freeHigh_none {s : State} {c : Nat} (h : ∀ j, 4096 ≤ j → j < 8192 → (s.counter (c * 8192 + j)).state ≠ .free) :
    s.freeHigh c = none := by
  refine find_range_none fun d hd hdk => ?_
  simpa using h d hd hdk

/-- What COUNTER_ALLOC takes on one core. -/
def State.placeOn (s : State) (c : Nat) : Option (Nat × Nat) := if s.present c then (s.freeHigh c).map fun i => (c, i) else none

theorem placeOn_first {s : State} {c k : Nat} (hp : s.present c = true) (h1 : 4096 ≤ k) (h2 : k < 8192)
    (hk : (s.counter (c * 8192 + k)).state = .free) (h : ∀ j, 4096 ≤ j → j < k → (s.counter (c * 8192 + j)).state ≠ .free) :
    s.placeOn c = some (c, k) := by
  unfold State.placeOn
  rw [freeHigh_first h1 h2 hk h]
  exact if_pos hp

theorem placeOn_none {s : State} {c : Nat}
    (h : s.present c = true → ∀ j, 4096 ≤ j → j < 8192 → (s.counter (c * 8192 + j)).state ≠ .free) : s.placeOn c = none := by
  unfold State.placeOn
  by_cases hp : s.present c = true
  · rw [freeHigh_none (h hp)]
    exact ite_self _
  · exact if_neg hp

theorem allocPlace_eq (s : State) (any : Bool) (core : Nat) :
    s.allocPlace any core = if any then (List.range 16).findSome? s.placeOn else s.placeOn core := rfl

theorem findSome_range_first {f : Nat → Option (Nat × Nat)} {n c : Nat} {x : Nat × Nat} (hc : c < n) (hx : f c = some x)
    (h : ∀ d, d < c → f d = none) : (List.range n).findSome? f = some x := by
  obtain ⟨k, rfl⟩ : ∃ k, n = c + (k + 1) := ⟨n - c - 1, by omega⟩
  rw [List.range_add, List.findSome?_append, List.findSome?_eq_none_iff.mpr fun d hd => h d (List.mem_range.mp hd),
    List.range_succ_eq_map]
  simp [hx]

/-! ## The acts -/

theorem ctxCreate_takes {u : State} {n : Nat} {p : Page} {c : Nat} (h1 : (u.inst n).pools.ctxFirst ≤ c)
    (h2 : c < (u.inst n).pools.ctxFirst + (u.inst n).pools.ctxCount) (hc : (u.ctx c).state = .free)
    (h : ∀ d, (u.inst n).pools.ctxFirst ≤ d → d < c → (u.ctx d).state ≠ .free) :
    mbCtxCreate u n p = mbDone (u.setCtx c { Ctx.reset with
      state := .live, inst := n, weight := BitVec.ofNat 8 (max 1 (bitField (p.word 0) 15 8)), isSealed := bitAt (p.word 0) 16,
      pm := { PmSet.reset with since := u.esc.time } }) n Config.NONE [BitVec.ofNat 64 c] := by
  unfold mbCtxCreate
  dsimp only
  rw [find_range_first (f := fun c => (u.ctx c).state == .free) h1 h2 (by simpa using hc) fun d hd hdc => by simpa using h d hd hdc]
  rfl

theorem ctxCreate_refused {u : State} {n : Nat} {p : Page} (h : ∀ c, (u.inst n).pools.ctxFirst ≤ c →
    c < (u.inst n).pools.ctxFirst + (u.inst n).pools.ctxCount → (u.ctx c).state ≠ .free) :
    mbCtxCreate u n p = mbDone u n Config.HANDLE_RIGHTS [] := by
  unfold mbCtxCreate
  dsimp only
  rw [find_range_none (f := fun c => (u.ctx c).state == .free) fun c h1 h2 => by simpa using h c h1 h2]

/-- The counter that COUNTER_ALLOC makes. -/
def State.counterMade (u : State) (p : Page) (id : Nat) : State := u.setCounter id { Counter.reset with
  kind := .context, state := .live, error := bitAt (p.word 1) 16, owner := BitVec.ofNat 11 (p.field 1 10 0),
  shareInst := BitVec.ofNat 6 (p.field 1 37 32), inst := BitVec.ofNat 6 (u.ctx (p.field 1 10 0)).inst,
  value := BitVec.ofNat 32 (p.word 2), initial := BitVec.ofNat 32 (p.word 2) }

/-- A page's instance may allocate a counter to a context (R353, R356). -/
def State.mayAlloc (u : State) (n : Nat) (p : Page) : Prop :=
  u.ownsCtx n (p.field 1 10 0) = true ∧ (u.ctx (p.field 1 10 0)).state = .live ∧
    u.ctrsHeld (u.ctx (p.field 1 10 0)).inst < (u.inst (u.ctx (p.field 1 10 0)).inst).pools.ctrQuota

theorem counterAlloc_none {u : State} {n : Nat} {p : Page} (h : u.allocPlace (bitAt (p.word 1) 24) (p.field 1 23 20) = none) :
    mbCounterAlloc u n p = mbDone u n Config.HANDLE_RIGHTS [] := by
  unfold mbCounterAlloc
  dsimp only
  rw [h]

theorem counterAlloc_takes {u : State} {n : Nat} {p : Page} {x : Nat × Nat}
    (h : u.allocPlace (bitAt (p.word 1) 24) (p.field 1 23 20) = some x) (ha : u.mayAlloc n p) :
    mbCounterAlloc u n p = mbDone (u.counterMade p (x.1 * 8192 + x.2)) n Config.NONE [BitVec.ofNat 64 (x.1 * 8192 + x.2)] := by
  obtain ⟨h1, h2, h3⟩ := ha
  unfold mbCounterAlloc
  dsimp only
  rw [h]
  exact if_pos (by simp [h1, h2, h3])

theorem counterAlloc_refused {u : State} {n : Nat} {p : Page} (ha : ¬u.mayAlloc n p) :
    mbCounterAlloc u n p = mbDone u n Config.HANDLE_RIGHTS [] := by
  unfold mbCounterAlloc
  dsimp only
  split
  · rfl
  · refine if_neg fun h => ha ?_
    simp only [Bool.and_eq_true, beq_iff_eq, decide_eq_true_eq, and_assoc] at h
    exact h

theorem recRing_eq (u : State) (n : Nat) (p : Page) : mbRecRing u n p =
    if !((u.ctx (p.field 1 10 0)).state == .live && (u.ctx (p.field 1 10 0)).inst == n) then mbDone u n Config.HANDLE_RIGHTS []
    else if !bitAt (p.word 1) 16 then mbDone (u.setCtx (p.field 1 10 0) { u.ctx (p.field 1 10 0) with ring := none }) n Config.NONE []
    else if u.namesObj (p.field 1 10 0) (BitVec.ofNat 32 (p.field 2 31 0)) .record (p.field 2 63 32 * 128) (128 * 2 ^ p.field 1 27 24) then
      mbDone (u.setCtx (p.field 1 10 0) { u.ctx (p.field 1 10 0) with
        ring := some { obj := handleIndex (BitVec.ofNat 32 (p.field 2 31 0)), offset := p.field 2 63 32 * 128, log2 := p.field 1 27 24,
                       seq := 0#32, lost := 0#32 } }) n Config.NONE []
    else mbDone u n Config.HANDLE_RIGHTS [] := rfl

theorem mbAct_of (u : State) (n : Nat) {p : Page} {op : Nat} (h : p.curOp.toNat = op) :
    (op = 0x01 → mbAct u n p = mbCtxCreate u n p) ∧ (op = 0x03 → mbAct u n p = mbQueueCreate u n p) ∧
    (op = 0x05 → mbAct u n p = mbQueueReset u n p) ∧ (op = 0x06 → mbAct u n p = mbCounterAlloc u n p) ∧
    (op = 0x30 → mbAct u n p = mbRecRing u n p) := by
  unfold mbAct
  rw [h]
  refine ⟨?_, ?_, ?_, ?_, ?_⟩ <;> (rintro rfl; rfl)

theorem ctxCreate_settled {s : State} {m : MbReq} (h : MbClear s m (reqWords m 0x01)) : 
    let n := m.page.toNat
    let u := mbTaken s m (reqWords m 0x01)
    let first := (s.inst n).pools.ctxFirst
    let past := first + (s.inst n).pools.ctxCount
    (∀ c, first ≤ c → c < past → (s.ctx c).state = .free → (∀ d, first ≤ d → d < c → (s.ctx d).state ≠ .free) →
      Becomes (exec (.ctxCreate m) s) (mbAnswered (u.setCtx c { Ctx.reset with
        state := .live, inst := n, weight := BitVec.ofNat 8 (max 1 (bitField m.w0.toNat 15 8)),
        isSealed := bitAt m.w0.toNat 16, pm := { PmSet.reset with since := s.esc.time } }) n Config.NONE [BitVec.ofNat 64 c])) ∧
    ((∀ c, first ≤ c → c < past → (s.ctx c).state ≠ .free) →
      Becomes (exec (.ctxCreate m) s) (mbAnswered u n Config.HANDLE_RIGHTS [])) := by
  obtain ⟨u, q, hu, ⟨⟨l, rfl⟩, hpools, -, hbusy⟩, hop, e⟩ := mbClear_acts (x := .ctxCreate m) rfl (by decide) h
  rw [← hu]
  intro n u first past
  have hpn := hpools n
  rw [(mbAct_of _ _ hop).1 rfl] at e
  refine ⟨fun c h1 h2 hc hlow => becomes_answer e hbusy ?_, fun hall => becomes_answer e hbusy (ctxCreate_refused ?_)⟩
  · refine (ctxCreate_takes (u := u) (c := c) ?_ ?_ ?_ ?_).trans ?_
    · rw [hpn]; exact h1
    · rw [hpn]; exact h2
    · exact hc
    · rw [hpn]; exact hlow
    · have hw : bitField ((q.holding (reqWords m 0x01)).word 0) 15 8 = _ := reqWords_field0 m (by decide) 15 (by decide)
      have hs : bitAt ((q.holding (reqWords m 0x01)).word 0) 16 = bitAt m.w0.toNat 16 :=
        congrArg (· == 1) (reqWords_field0 m (by decide) 16 (by decide))
      rw [hw, hs]
  · rw [hpn]; exact hall

theorem queueCreate_eq (u : State) (n : Nat) (p : Page) : mbQueueCreate u n p =
    if u.ownsCtx n (p.field 1 26 16) && (u.ctx (p.field 1 26 16)).state == .live &&
        u.queueInst n (p.field 1 12 0) == some (u.ctx (p.field 1 26 16)).inst && (u.queue (p.field 1 12 0)).state == .free &&
        u.namesObj (p.field 1 26 16) (BitVec.ofNat 32 (p.field 2 31 0)) .plain (p.word 3) (64 * 2 ^ p.field 1 44 40) &&
        u.namesObj (p.field 1 26 16) (BitVec.ofNat 32 (p.field 2 63 32)) .record (p.word 4) (32 * 2 ^ p.field 1 44 40) then
      mbDone (u.setQueue (p.field 1 12 0) { Queue.reset with
        state := if u.granted (p.field 1 34 32) (u.ctx (p.field 1 26 16)).inst then .idle else .stopped,
        ctx := p.field 1 26 16, part := p.field 1 34 32, ringLog2 := p.field 1 44 40,
        ringObj := handleIndex (BitVec.ofNat 32 (p.field 2 31 0)), ringOff := p.word 3,
        complObj := handleIndex (BitVec.ofNat 32 (p.field 2 63 32)), complOff := p.word 4,
        weight := BitVec.ofNat 8 (max 1 (p.field 1 55 48)), vt := (u.rgPart (p.field 1 34 32)).gv }) n Config.NONE []
    else mbDone u n Config.HANDLE_RIGHTS [] := rfl

theorem queueReset_eq (u : State) (n : Nat) (p : Page) : mbQueueReset u n p =
    if (u.queueInst n (p.field 1 12 0)).isSome && (u.queue (p.field 1 12 0)).state == .error then
      mbDone (u.setQueue (p.field 1 12 0) { u.queue (p.field 1 12 0) with
        head := (u.queue (p.field 1 12 0)).tail, held := .none,
        state := if u.granted (u.queue (p.field 1 12 0)).part (u.ctx (u.queue (p.field 1 12 0)).ctx).inst then .idle else .stopped })
        n Config.NONE []
    else mbDone u n Config.HANDLE_RIGHTS [] := rfl

/-- Settles O40: what each of the five requests makes of the state in which it is latched. -/
theorem contextsQueuesAndCounters : Obligations.ContextsQueuesAndCounters := by
  intro s m n refused
  refine ⟨ctxCreate_settled, fun h => ?_, fun h => ?_, fun h => ?_, fun h => ?_⟩
  · obtain ⟨u, q, hu, ⟨⟨l, rfl⟩, -, -, hbusy⟩, hop, e⟩ := mbClear_acts (x := .queueCreate m) rfl (by decide) h
    rw [← hu]
    intro u qn ctx part log2 ring compl ok
    rw [(mbAct_of _ _ hop).2.1 rfl, queueCreate_eq] at e
    refine ⟨fun hok => becomes_answer e hbusy (if_pos ?_), fun hno => becomes_answer e hbusy (if_neg fun hc => hno ?_)⟩
    · simp only [Bool.and_eq_true, beq_iff_eq, and_assoc]
      exact hok
    · simp only [Bool.and_eq_true, beq_iff_eq, and_assoc] at hc
      exact hc
  · obtain ⟨u, q, hu, ⟨⟨l, rfl⟩, -, -, hbusy⟩, hop, e⟩ := mbClear_acts (x := .queueReset m) rfl (by decide) h
    rw [← hu]
    intro u qn x
    rw [(mbAct_of _ _ hop).2.2.1 rfl, queueReset_eq] at e
    refine ⟨fun h1 h2 => becomes_answer e hbusy (if_pos ?_), fun hno => becomes_answer e hbusy (if_neg fun hc => ?_)⟩
    · simp only [Bool.and_eq_true, beq_iff_eq]
      exact ⟨h1, h2⟩
    · simp only [Bool.and_eq_true, beq_iff_eq] at hc
      obtain ⟨h1, h2⟩ := hc
      exact hno.elim (fun h => absurd (h1.symm.trans h) (by decide)) (absurd h2)
  · obtain ⟨u, q, hu, ⟨⟨l, rfl⟩, hpools, -, hbusy⟩, hop, e⟩ := mbClear_acts (x := .counterAlloc m) rfl (by decide) h
    rw [← hu]
    intro u ctx i any allowed made taken
    rw [(mbAct_of _ _ hop).2.2.2.1 rfl] at e
    have ha : u.mayAlloc n (q.holding (reqWords m 0x06)) ↔ allowed := by
      unfold State.mayAlloc
      rw [hpools]
      rfl
    have hplace (c k : Nat) (hp : s.present c = true) (h1 : 4096 ≤ k) (h2 : k < 8192) (hk : ¬taken c k)
        (hlow : ∀ j, 4096 ≤ j → j < k → taken c j) : u.placeOn c = some (c, k) :=
      placeOn_first (s := u) hp h1 h2 (not_not.mp hk) hlow
    have hnone (c : Nat) (hc : s.present c = true → ∀ j, 4096 ≤ j → j < 8192 → taken c j) : u.placeOn c = none :=
      placeOn_none (s := u) hc
    refine ⟨fun c k hc h1 h2 hp hk hlow hany hone hall => becomes_answer e hbusy (counterAlloc_takes (x := (c, k)) ?_ (ha.mpr hall)),
      fun hno => becomes_answer e hbusy (counterAlloc_refused fun hc => hno (ha.mp hc)),
      fun hall => becomes_answer e hbusy (counterAlloc_none ?_)⟩
    · rw [allocPlace_eq]
      by_cases h24 : any
      · exact (if_pos h24).trans (findSome_range_first hc (hplace c k hp h1 h2 hk hlow) fun d hd => hnone d (hany h24 d hd))
      · exact (if_neg h24).trans (hone h24 ▸ hplace c k hp h1 h2 hk hlow)
    · rw [allocPlace_eq]
      by_cases h24 : any
      · exact (if_pos h24).trans (List.findSome?_eq_none_iff.mpr fun d _ => hnone d (hall d (Or.inl h24)))
      · exact (if_neg h24).trans (hnone _ (hall _ (Or.inr rfl)))
  · obtain ⟨u, q, hu, ⟨⟨l, rfl⟩, -, -, hbusy⟩, hop, e⟩ := mbClear_acts (x := .recRing m) rfl (by decide) h
    rw [← hu]
    intro u ctx c hd off log2 named
    rw [(mbAct_of _ _ hop).2.2.2.2 rfl, recRing_eq] at e
    have hmine : c.state = .live → c.inst = n → ¬(!(c.state == .live && c.inst == n)) = true := fun h1 h2 => by simp [h1, h2]
    have hset : ∀ {b : Bool}, b = true → ¬(!b) = true := fun h => by simp [h]
    have hclear : ∀ {b : Bool}, b = false → (!b) = true := fun h => by simp [h]
    refine ⟨fun hno => becomes_answer e hbusy (if_pos ?_),
      fun h1 h2 h3 => becomes_answer e hbusy ((if_neg (hmine h1 h2)).trans (if_pos (hclear h3))),
      fun h1 h2 h3 h4 => becomes_answer e hbusy ((if_neg (hmine h1 h2)).trans ((if_neg (hset h3)).trans (if_pos h4))),
      fun h1 h2 h3 h4 => becomes_answer e hbusy ((if_neg (hmine h1 h2)).trans ((if_neg (hset h3)).trans (if_neg h4)))⟩
    change (!(c.state == .live && c.inst == n)) = true
    simpa [imp_iff_not_or] using hno

end Sys2Proof.Machine
end

section
/-! SUPPORT. The requests for an instance's own secrets and the attestation reports (R389 to R406). -/

namespace Sys2Proof.Machine

/-! ## What an alarm leaves of keys and pages -/

theorem tenantErase_page (s : State) (all : Bool) (code : BitVec 16) (n : Nat) : (tenantErase s all code).page n = s.page n := by
  obtain ⟨-, hinsts, -⟩ := tenantErase_spec s all code
  unfold State.page State.inst
  rw [hinsts, (erasedKeys_sec s all).2.1]
  change ((eraseKeys s fun i => all || i != 0).inst n).page = (s.inst n).page
  rw [eraseKeys_inst]
  split <;> rfl

theorem tenantErase_keyLoaded {s : State} {k : Nat} (h : s.keyLoaded k = false) (all : Bool) (code : BitVec 16) :
    (tenantErase s all code).keyLoaded k = false := by
  obtain ⟨⟨b, hsec⟩, -⟩ := tenantErase_spec s all code
  unfold State.keyLoaded at h ⊢
  rw [hsec, (erasedKeys_sec s all).1]
  dsimp only
  rw [eraseKeys_key]
  have hcut (c : Bool) : (if c = true then none else tget none s.sec.keys k).isSome = false := by
    cases c
    · exact h
    · rfl
  exact hcut _

/-- What an act of a level keeps. -/
theorem tamperAct_keeps (s : State) (level : BitVec 2) (code : BitVec 16) (n k : Nat) :
    (tamperAct s level code).page n = s.page n ∧ (s.keyLoaded k = false → (tamperAct s level code).keyLoaded k = false) := by
  unfold tamperAct
  split
  · exact ⟨rfl, id⟩
  · obtain ⟨hsec, hinsts, -, -⟩ := tamperLock_spec s
    unfold State.page State.inst State.keyLoaded
    rw [hsec, hinsts]
    exact ⟨rfl, id⟩
  · exact ⟨tenantErase_page _ _ _ _, fun h => tenantErase_keyLoaded h _ _⟩
  · exact ⟨tenantErase_page _ _ _ _, fun h => tenantErase_keyLoaded h _ _⟩

/-- A tamper alarm leaves every mailbox page, and loads no key. -/
theorem tamperRaise_keeps (s : State) (source n k : Nat) :
    (tamperRaise s source).page n = s.page n ∧ (s.keyLoaded k = false → (tamperRaise s source).keyLoaded k = false) := by
  unfold tamperRaise
  split
  · obtain ⟨hsec, hinsts, -, -, -⟩ := alarmNoted_spec s source
    rw [tamperApply_eq]
    obtain ⟨h1, h2⟩ := tamperAct_keeps (alarmNoted s source) (s.alarmLevel source) (tamperCode source) n k
    refine ⟨h1.trans ?_, fun h => h2 ?_⟩
    · unfold State.page State.inst; rw [hinsts]
    · unfold State.keyLoaded at h ⊢; rw [hsec]; exact h
  · exact ⟨rfl, id⟩

/-! ## The answer that a page shows -/

theorem mbAnswered_shows (u : State) (n : Nat) (code : BitVec 16) : MbShows (mbAnswered u n code []) n (u.page n).curSeq code [] := by
  unfold MbShows mbAnswered
  rw [modPage_page]
  refine ⟨rfl, rfl, rfl, rfl, fun k hk => ?_⟩
  have : k = 0 ∨ k = 1 ∨ k = 2 ∨ k = 3 := by omega
  rcases this with rfl | rfl | rfl | rfl <;> rfl

theorem mbShows_of_page {t t' : State} {n : Nat} {seq code : BitVec 16} {rsp : List W64} (h : MbShows t n seq code rsp)
    (e : t'.page n = t.page n) : MbShows t' n seq code rsp := by unfold MbShows at *; rw [e]; exact h

theorem Reports.page {s t : State} (h : Reports s t) (n : Nat) : t.page n = s.page n := by
  unfold State.page State.inst
  rw [show t.insts = s.insts from h.get (fun s => s.insts) fun _ _ _ _ => rfl]

theorem mbDone_shows {u : State} {n : Nat} (hb : (u.page n).busy = true) (code : BitVec 16) :
    MbShows (mbDone u n code []) n (u.page n).curSeq code [] :=
  mbShows_of_page (mbAnswered_shows u n code) ((mbDone_answers hb code []).page n)

theorem mbAct_secrets (u : State) (n : Nat) {p : Page} {op : Nat} (h : p.curOp.toNat = op) :
    (op = 0x20 → mbAct u n p = mbInstBind u n p) ∧ (op = 0x21 → mbAct u n p = mbKeyLoad u n p) ∧
    (op = 0x22 → mbAct u n p = mbKeyErase u n p) ∧ (op = 0x23 → mbAct u n p = mbAttest u n p) := by
  unfold mbAct
  rw [h]
  refine ⟨?_, ?_, ?_, ?_⟩ <;> (rintro rfl; rfl)

/-! ## Bind secrets and keys (R391, R394, R395) -/

theorem instBind_eq (u : State) (n : Nat) (p : Page) : mbInstBind u n p =
    if !covered (u.inst n).pools.mem 9 (p.word 1) 1184 || !u.sec.importReady || (u.inst n).bound then mbDone u n Config.HANDLE_RIGHTS []
    else if u.poisoned (p.word 1) 1184 then mbDone u n Config.MEM_POISON []
    else mbDone (u.modInst n fun x => { x with
      bound := true, bindDigest := sha384 (u.readBytes (p.word 1) 1184),
      bindSecret := u.bindSecret n (u.readBytes (p.word 1) 1184) }) n Config.NONE [] := rfl

theorem instBind_settled {s : State} {m : MbReq} (h : MbClear s m (reqWords m 0x20)) :
    let n := m.page.toNat
    let i := s.inst n
    let u := mbTaken s m (reqWords m 0x20)
    let a := m.w1.toNat
    let ok : Prop := covered i.pools.mem 9 a 1184 = true ∧ s.sec.importReady = true ∧ i.bound = false
    let blob := s.readBytes a 1184
    (¬ok → Becomes (exec (.instBind m) s) (mbAnswered u n Config.HANDLE_RIGHTS [])) ∧
    (ok → s.poisoned a 1184 = true → Becomes (exec (.instBind m) s) (mbAnswered u n Config.MEM_POISON [])) ∧
    (ok → s.poisoned a 1184 = false → Becomes (exec (.instBind m) s) (mbAnswered (u.modInst n fun x => { x with
      bound := true, bindDigest := sha384 blob, bindSecret := s.bindSecret n blob })
      n Config.NONE [])) := by
  obtain ⟨u, q, hu, ⟨⟨l, rfl⟩, -, hbut, hbusy⟩, hop, e⟩ := mbClear_acts (x := .instBind m) rfl (by decide) h
  rw [← hu]
  intro n i u a ok blob
  obtain ⟨p, hp⟩ : ∃ p, u.inst n = { s.inst n with page := p } := hbut n
  have hok : (!covered (u.inst n).pools.mem 9 a 1184 || !u.sec.importReady || (u.inst n).bound) = true ↔ ¬ok := by
    rw [hp]
    change (!covered i.pools.mem 9 a 1184 || !s.sec.importReady || i.bound) = true ↔ ¬ok
    simp only [Bool.or_eq_true, Bool.not_eq_true', ok, not_and_or, or_assoc, Bool.not_eq_true, Bool.not_eq_false]
  rw [(mbAct_secrets _ _ hop).1 rfl, instBind_eq] at e
  refine ⟨fun hno => becomes_answer e hbusy (if_pos (hok.mpr hno)), fun h1 h2 => becomes_answer e hbusy
    ((if_neg fun hc => hok.mp hc h1).trans (if_pos h2)), fun h1 h2 => becomes_answer e ?_
    ((if_neg fun hc => hok.mp hc h1).trans (if_neg fun hc => absurd (hc.symm.trans h2) (by decide)))⟩
  unfold State.page
  rw [modInst_inst, if_pos rfl]
  exact hbusy

/-! ## Keys -/

/-- What KEY_LOAD does with what its bytes unwrap to (R394). -/
def keyTaken (u : State) (n k : Nat) : Option (BitVec 512) → State
  | none => tamperRaise (mbDone u n Config.KEY_MISUSE []) 3
  | some key =>
    if key.toNat % 2 ^ 256 = key.toNat / 2 ^ 256 then mbDone u n Config.HANDLE_RIGHTS []
    else mbDone { u with sec := { u.sec with keys := tput u.sec.keys k (some key) } } n Config.NONE []

theorem keyTaken_equal (u : State) (n k : Nat) {key : BitVec 512} (h : key.toNat % 2 ^ 256 = key.toNat / 2 ^ 256) :
    keyTaken u n k (some key) = mbDone u n Config.HANDLE_RIGHTS [] := by rw [keyTaken, if_pos h]

theorem keyTaken_loads (u : State) (n k : Nat) {key : BitVec 512} (h : key.toNat % 2 ^ 256 ≠ key.toNat / 2 ^ 256) :
    keyTaken u n k (some key) = mbDone { u with sec := { u.sec with keys := tput u.sec.keys k (some key) } } n Config.NONE [] := by
  rw [keyTaken, if_neg h]

section
variable {u : State} {n : Nat} {p : Page}

/-- KEY_LOAD names a slot, a range or an instance that it may not use (R394). -/
def keyBarred (u : State) (n k a : Nat) : Bool :=
  !(u.inst n).pools.hasKey k || !covered (u.inst n).pools.mem 9 a 72 || !(u.inst n).bound || u.keyLoaded k

theorem keyLoad_barred (h : keyBarred u n (p.field 1 8 0) (p.word 2) = true) : mbKeyLoad u n p = mbDone u n Config.HANDLE_RIGHTS [] :=
  if_pos h

theorem keyLoad_poisoned (h : keyBarred u n (p.field 1 8 0) (p.word 2) = false) (hp : u.poisoned (p.word 2) 72 = true) :
    mbKeyLoad u n p = mbDone u n Config.MEM_POISON [] := (if_neg (by unfold keyBarred at h; rw [h]; decide)).trans (if_pos hp)

theorem keyLoad_takes (h : keyBarred u n (p.field 1 8 0) (p.word 2) = false) (hp : u.poisoned (p.word 2) 72 = false)
    {o : Option (BitVec 512)} (ho : unwrapKey (u.inst n).bindSecret (p.field 1 8 0) (u.readBytes (p.word 2) 72) = o) :
    mbKeyLoad u n p = keyTaken u n (p.field 1 8 0) o := by
  unfold keyBarred at h
  rw [mbKeyLoad]
  cases o with
  | none => simp only [h, hp, ho, Bool.false_eq_true, if_false, keyTaken]
  | some key => simp only [h, hp, ho, Bool.false_eq_true, if_false, keyTaken]
end

/-- A key that fails its integrity check: the answer is KEY_MISUSE, an alarm is counted, and the slot stays EMPTY. -/
theorem keyMisuse_answers {s u : State} {n k : Nat} {seq : BitVec 16} (ho : Only [.insts] s u) (hb : (u.page n).busy = true)
    (hseq : (u.page n).curSeq = seq) (hk : s.keyLoaded k = false) {t : State} (ht : t = tamperRaise (mbDone u n Config.KEY_MISUSE []) 3) :
    MbShows t n seq Config.KEY_MISUSE [] ∧ tget 0#32 t.sec.counts 3 = satInc (tget 0#32 s.sec.counts 3) ∧
      t.keyLoaded k = false ∧ t.mem = s.mem ∧ t.objs = s.objs ∧ t.ctxs = s.ctxs ∧ t.counters = s.counters := by
  have hv : Only mbDoneParts s (mbDone u n Config.KEY_MISUSE []) := (mbDone_only _ _ _ _).step (by decide) (ho.wider (by decide))
  obtain ⟨hpage, hkeys⟩ := tamperRaise_keeps (mbDone u n Config.KEY_MISUSE []) 3 n k
  have hsec : (mbDone u n Config.KEY_MISUSE []).sec = s.sec := hv .sec (by decide)
  have hall : Only (.freeCount :: .run :: .au :: .auIdle :: .jobs :: .cores :: .sec :: mbDoneParts) s t :=
    ht ▸ (tamperRaise_only _ _).step (by decide) (hv.wider (by decide))
  refine ⟨?_, ?_, ?_, hall .mem (by decide), hall .objs (by decide), hall .ctxs (by decide), hall .counters (by decide)⟩
  · rw [ht, ← hseq]; exact mbShows_of_page (mbDone_shows hb _) hpage
  · rw [ht, tamperRaise_counts, hsec]
  · rw [ht]; refine hkeys ?_; unfold State.keyLoaded; rw [hsec]; exact hk

theorem keyLoad_settled {s : State} {m : MbReq} (h : MbClear s m (reqWords m 0x21)) :
    let n := m.page.toNat
    let i := s.inst n
    let u := mbTaken s m (reqWords m 0x21)
    let a := m.w2.toNat
    let k := bitField m.w1.toNat 8 0
    let ok : Prop := i.pools.hasKey k = true ∧ covered i.pools.mem 9 a 72 = true ∧ i.bound = true ∧ s.keyLoaded k = false
    let unwrapped := unwrapKey i.bindSecret k (s.readBytes a 72)
    let x : Instr := .keyLoad m ()
    (¬ok → Becomes (exec x s) (mbAnswered u n Config.HANDLE_RIGHTS [])) ∧
    (ok → s.poisoned a 72 = true → Becomes (exec x s) (mbAnswered u n Config.MEM_POISON [])) ∧
    (ok → s.poisoned a 72 = false → unwrapped = none → Answers (exec x s) fun t =>
      MbShows t n m.seq Config.KEY_MISUSE [] ∧ tget 0#32 t.sec.counts 3 = satInc (tget 0#32 s.sec.counts 3) ∧
        t.keyLoaded k = false ∧ t.mem = s.mem ∧ t.objs = s.objs ∧ t.ctxs = s.ctxs ∧ t.counters = s.counters) ∧
    (∀ key, ok → s.poisoned a 72 = false → unwrapped = some key →
      (key.toNat % 2 ^ 256 = key.toNat / 2 ^ 256 → Becomes (exec x s) (mbAnswered u n Config.HANDLE_RIGHTS [])) ∧
      (key.toNat % 2 ^ 256 ≠ key.toNat / 2 ^ 256 →
        Becomes (exec x s) (mbAnswered { u with sec := { s.sec with keys := tput s.sec.keys k (some key) } } n Config.NONE []))) := by
  have hseq : ((mbTaken s m (reqWords m 0x21)).page m.page.toNat).curSeq = m.seq := by unfold mbTaken; rw [modPage_page]
  have hu0 := mbTaken_only s m (reqWords m 0x21)
  obtain ⟨u, q, hu, ⟨⟨l, rfl⟩, -, hbut, hbusy⟩, hop, e⟩ := mbClear_acts (x := .keyLoad m ()) rfl (by decide) h
  rw [← hu] at hseq hu0 ⊢
  intro n i u a k ok unwrapped x
  obtain ⟨p, hp⟩ : ∃ p, u.inst n = { s.inst n with page := p } := hbut n
  have hok : keyBarred u n k a = false ↔ ok := by
    unfold keyBarred
    rw [hp]
    change (!i.pools.hasKey k || !covered i.pools.mem 9 a 72 || !i.bound || s.keyLoaded k) = false ↔ ok
    simp only [Bool.or_eq_false_iff, Bool.not_eq_false', ok, and_assoc]
  have hkey : unwrapKey (u.inst n).bindSecret k (u.readBytes a 72) = unwrapped := by rw [hp]; rfl
  rw [(mbAct_secrets _ _ hop).2.1 rfl] at e
  have htaken {o : Option (BitVec 512)} (h1 : ok) (h2 : s.poisoned a 72 = false) (h3 : unwrapped = o) :
      exec x s = .next (keyTaken u n k o) := by
    have ht := keyLoad_takes (p := q.holding (reqWords m 0x21)) (hok.mpr h1) h2 (hkey.trans h3)
    exact e.trans (congrArg Host.Outcome.next ht)
  refine ⟨fun hno => becomes_answer e hbusy (keyLoad_barred ?_), fun h1 h2 => becomes_answer e hbusy (keyLoad_poisoned (hok.mpr h1) h2),
    fun h1 h2 h3 => ⟨_, htaken h1 h2 h3, keyMisuse_answers hu0 hbusy hseq h1.2.2.2 rfl⟩,
    fun key h1 h2 h3 => ⟨fun h4 => becomes_answer (htaken h1 h2 h3) hbusy (keyTaken_equal u n k h4),
      fun h4 => becomes_answer (htaken h1 h2 h3) hbusy (keyTaken_loads u n k h4)⟩⟩
  exact (Bool.not_eq_false _).mp fun h => hno (hok.mp h)

theorem keyErase_settled {s : State} {m : MbReq} (h : MbClear s m (reqWords m 0x22)) :
    let n := m.page.toNat
    let i := s.inst n
    let u := mbTaken s m (reqWords m 0x22)
    let k := bitField m.w1.toNat 8 0
    ((i.pools.hasKey k = false ∨ s.keyLoaded k = false) → Becomes (exec (.keyErase m) s) (mbAnswered u n Config.HANDLE_RIGHTS [])) ∧
    (i.pools.hasKey k = true → s.keyLoaded k = true →
      Becomes (exec (.keyErase m) s) (mbAnswered { u with sec := { s.sec with keys := tdel s.sec.keys k } } n Config.NONE []) ∧
      Answers (exec (.keyErase m) s) fun t => t.keyLoaded k = false ∧ t.objs = s.objs ∧
        ∀ j, j ≠ k → t.keyLoaded j = s.keyLoaded j) := by
  obtain ⟨u, q, hu, ⟨⟨l, rfl⟩, hpools, -, hbusy⟩, hop, e⟩ := mbClear_acts (x := .keyErase m) rfl (by decide) h
  rw [← hu]
  intro n i u k
  have hn := hpools n
  have e' : exec (.keyErase m) s = .next (if (u.inst n).pools.hasKey k && s.keyLoaded k then
      mbDone { u with sec := { s.sec with keys := tdel s.sec.keys k } } n Config.NONE []
    else mbDone u n Config.HANDLE_RIGHTS []) := by rw [e, (mbAct_secrets _ _ hop).2.2.1 rfl]; rfl
  rw [hn] at e'
  refine ⟨fun hno => becomes_answer e' hbusy (if_neg ?_), fun h1 h2 => ?_⟩
  · simpa [imp_iff_not_or] using hno
  · rw [if_pos (by simp only [Bool.and_eq_true]; exact ⟨h1, h2⟩)] at e'
    refine ⟨becomes_answer e' hbusy rfl, ⟨_, e', ?_⟩⟩
    have ho := mbDone_only { u with sec := { s.sec with keys := tdel s.sec.keys k } } n Config.NONE []
    have hsec := ho .sec (by decide)
    refine ⟨?_, ho .objs (by decide), fun j hj => ?_⟩
    · unfold State.keyLoaded
      rw [hsec]
      exact congrArg Option.isSome (tget_tdel_self none _ _)
    · unfold State.keyLoaded
      rw [hsec]
      exact congrArg Option.isSome (tget_tdel_ne none _ _ _ hj)

/-! ## Attestation (R403, R406) -/

/-- Requests but for what the signer has sampled of them. -/
def bareAttests (l : List AttestReq) : List AttestReq := l.map fun x => { x with body := none }

/-- The signer's next request changes what is sampled, and nothing else. -/
theorem attestTake_spec (s : State) : ∃ l, attestTake s = { s with sec := { s.sec with attests := l } } ∧
    bareAttests l = bareAttests s.sec.attests := by
  unfold attestTake
  split
  · exact ⟨_, rfl, rfl⟩
  · split
    · exact ⟨_, rfl, rfl⟩
    · refine ⟨_, rfl, ?_⟩
      unfold bareAttests
      rw [List.map_map]
      refine List.map_congr_left fun x _ => ?_
      rw [Function.comp]
      split <;> rfl

/-- A signer with one request that it may take. -/
theorem attestTake_first {s : State} {r : AttestReq} (h : s.sec.attests = [r]) (hr : r.body = none)
    (ho : (s.inst r.page).recordsOpen = true) :
    attestTake s = { s with sec := { s.sec with attests := [{ r with body := some (s.attestBody r) }] } } := by
  unfold attestTake
  rw [h]
  simp [hr, ho]

theorem attest_eq (u : State) (n : Nat) (p : Page) : mbAttest u n p =
    if (u.ctx (p.field 0 26 16)).state == .live && (u.ctx (p.field 0 26 16)).inst == n &&
        u.namesObj (p.field 0 26 16) (BitVec.ofNat 32 (p.field 1 31 0)) .record (p.field 1 63 32 * 64) attestLen then
      attestTake { u with sec := { u.sec with attests := u.sec.attests ++
        [{ page := n, ctx := p.field 0 26 16, obj := handleIndex (BitVec.ofNat 32 (p.field 1 31 0)), off := p.field 1 63 32 * 64,
           nonce := (p.cur.drop 2).take 6, body := none }] } }
    else mbDone u n Config.HANDLE_RIGHTS [] := rfl

/-- The values that a report samples do not look at the mailbox or at the requests queued. -/
theorem attestBody_eq {s : State} {l : Tbl Inst} {k : List AttestReq} (r : AttestReq)
    (h : ∃ p, tget Inst.reset l r.page = { s.inst r.page with page := p }) :
    State.attestBody { s with insts := l, sec := { s.sec with attests := k } } r = s.attestBody r := by
  obtain ⟨p, hp⟩ := h
  have hi : State.inst { s with insts := l, sec := { s.sec with attests := k } } r.page = { s.inst r.page with page := p } := hp
  unfold State.attestBody
  rw [hi]
  rfl

theorem attest_settled {s : State} {m : MbReq} (h : MbClear s m (reqWords m 0x23)) :
    let n := m.page.toNat
    let i := s.inst n
    let u := mbTaken s m (reqWords m 0x23)
    let ctx := bitField m.w0.toNat 26 16
    let h : W32 := BitVec.ofNat 32 (bitField m.w1.toNat 31 0)
    let off := bitField m.w1.toNat 63 32 * 64
    let ok : Prop := (s.ctx ctx).state = .live ∧ (s.ctx ctx).inst = n ∧ s.namesObj ctx h .record off 3904 = true
    let r : AttestReq := { page := n, ctx := ctx, obj := handleIndex h, off := off,
                           nonce := [m.w2, m.w3, m.w4, m.w5, m.w6, m.w7], body := none }
    (ok → exec (.attest m) s = .next (attestTake { u with sec := { s.sec with attests := s.sec.attests ++ [r] } })) ∧
    (ok → s.sec.attests = [] → i.recordsOpen = true → exec (.attest m) s = .next { u with
      sec := { s.sec with attests := [{ r with body := some (s.attestBody r) }] } }) ∧
    (¬ok → Becomes (exec (.attest m) s) (mbAnswered u n Config.HANDLE_RIGHTS [])) := by
  obtain ⟨u, q, hu, ⟨⟨l, rfl⟩, -, hbut, hbusy⟩, hop, e⟩ := mbClear_acts (x := .attest m) rfl (by decide) h
  rw [← hu]
  intro n i u ctx h off ok r
  have hctx : (q.holding (reqWords m 0x23)).field 0 26 16 = ctx := reqWords_field0 m (by decide) 26 (by decide)
  rw [(mbAct_secrets _ _ hop).2.2.2 rfl, attest_eq, hctx] at e
  have hok : ok → exec (.attest m) s = .next (attestTake { u with sec := { s.sec with attests := s.sec.attests ++ [r] } }) := by
    intro ⟨h1, h2, h3⟩
    refine e.trans (congrArg Host.Outcome.next (if_pos ?_))
    simp only [Bool.and_eq_true, beq_iff_eq]
    exact ⟨⟨h1, h2⟩, h3⟩
  refine ⟨hok, fun h1 h2 h3 => ?_, fun hno => becomes_answer e hbusy (if_neg fun hc => hno ?_)⟩
  · obtain ⟨p, hp⟩ : ∃ p, u.inst n = { s.inst n with page := p } := hbut n
    have hopen : (u.inst n).recordsOpen = true := by rw [hp]; exact h3
    have ht := attestTake_first (s := { u with sec := { s.sec with attests := s.sec.attests ++ [r] } }) (r := r)
      (congrArg (· ++ [r]) h2) rfl hopen
    rw [hok h1, ht, attestBody_eq r (hbut n)]
  · simp only [Bool.and_eq_true, beq_iff_eq, and_assoc] at hc
    exact hc

/-! ## A report is signed (R364, R403, R406) -/

theorem exec_attestSigned {s : State} (hr : Running' s) (hs : s.fr.stopped = false) : exec .attestSigned s = .next (attestDone s) := by
  have e : exec .attestSigned s = .next (if s.portAlive && !s.obs.halted && !s.fr.stopped then attestDone s else s) := rfl
  rw [e, if_pos (by simp [hr.1, hr.2, hs])]

/-- The signer without a request that it has sampled takes the next. -/
theorem attestDone_takes {s : State} (h : ∀ r ∈ s.sec.attests, r.body = none ∨ (s.inst r.page).recordsOpen = false) :
    attestDone s = attestTake s := by
  have hf : s.sec.attests.find? (fun r => r.body.isSome && (s.inst r.page).recordsOpen) = none := by
    rw [List.find?_eq_none]
    intro r hr
    rcases h r hr with h | h <;> simp [h]
  unfold attestDone
  rw [hf]

/-- With no request whose instance may be written for, the signer takes none. -/
theorem attestTake_idle {s : State} (h : ∀ r ∈ s.sec.attests, (s.inst r.page).recordsOpen = false) : attestTake s = s := by
  unfold attestTake
  have hf : s.sec.attests.find? (fun r => r.body.isNone && (s.inst r.page).recordsOpen) = none := by
    rw [List.find?_eq_none]
    intro r hr
    simp [h r hr]
  rw [if_neg, hf]
  simp only [List.any_eq_true, not_exists, not_and]
  intro r hr
  simp [h r hr]

/-- The state in which the signer finishes a request: it is no longer queued. -/
def attestLeft (s : State) (r : AttestReq) : State :=
  { s with sec := { s.sec with attests := s.sec.attests.filter fun x => x.page != r.page } }

theorem attestDone_ends {s : State} {r : AttestReq}
    (h : s.sec.attests.find? (fun r => r.body.isSome && (s.inst r.page).recordsOpen) = some r) : attestDone s =
      attestTake (if (attestLeft s r).attestOk r then
        mbDone (objWrite (attestLeft s r) (.inst r.page) r.obj r.off ((attestLeft s r).attestReport (r.body.getD []))) r.page Config.NONE []
      else mbDone (attestLeft s r) r.page Config.HANDLE_RIGHTS []) := by
  unfold attestDone
  rw [h]
  rfl

theorem leBytes_length (n x : Nat) : (leBytes n x).length = n := by
  induction n generalizing x with
  | zero => rfl
  | succ n ih => rw [leBytes, List.length_cons, ih]

theorem attestReport_length (s : State) {b : List Byte} (h : b.length = 448) : (s.attestReport b).length = 3904 := by
  unfold State.attestReport State.identitySign
  dsimp only
  simp only [List.length_append, List.length_map, List.length_range, leBytes_length, h]

theorem blockWrite_page (s : State) (ow : WriteOwner) (inst : Nat) (ctx : Option Nat) (ports : List Nat) (off a : Nat) (bs : List Byte)
    (n : Nat) : (blockWrite s ow inst ctx ports off a bs).page n = s.page n := by
  unfold blockWrite
  split
  · rfl
  · refine Eq.trans (b := (dirtyMark s a bs.length).page n) ?_ ?_
    · have h : (writeWatch (dirtyMark s a bs.length) a bs.length).insts = (dirtyMark s a bs.length).insts :=
        writeWatch_only _ _ _ .insts (by decide)
      have hp := pmGlobal_only (storeBytes (writeWatch (dirtyMark s a bs.length) a bs.length) a bs) 5 bs.length .insts (by decide)
      unfold State.page State.inst
      rw [← h]
      exact congrArg (fun l => (tget Inst.reset l n).page) hp
    · have hd := tget_map_key Inst.reset (fun _ i => i.dirtyWrite a bs.length) (fun _ => rfl) s.insts n
      unfold State.page
      refine (congrArg Inst.page hd).trans ?_
      unfold Inst.dirtyWrite
      split <;> rfl

/-- A request that the signer has finished, and the next one taken. -/
theorem attestTaken_shows {s u : State} {n : Nat} {code : BitVec 16} (hb : (s.page n).busy = true) (hp : u.page n = s.page n) :
    MbShows (attestTake (mbDone u n code [])) n (s.page n).curSeq code [] := by
  obtain ⟨l, hl, -⟩ := attestTake_spec (mbDone u n code [])
  rw [hl, ← hp]
  exact mbDone_shows (by rw [hp]; exact hb) code

theorem attestTaken_bare {s u : State} {r : AttestReq} {n : Nat} {code : BitVec 16} (hu : u.sec = (attestLeft s r).sec) :
    bareAttests (attestTake (mbDone u n code [])).sec.attests = bareAttests (s.sec.attests.filter fun x => x.page != r.page) := by
  obtain ⟨l, hl, hbare⟩ := attestTake_spec (mbDone u n code [])
  rw [hl]
  refine hbare.trans ?_
  rw [show (mbDone u n code []).sec = u.sec from mbDone_only _ _ _ _ .sec (by decide), hu]
  rfl

theorem attestSigned_settled {s : State} {r : AttestReq} {b : List Byte} {l k : List AttestReq} (e : exec .attestSigned s = .next (attestDone s))
    (hl : s.sec.attests = l ++ r :: k) (hbefore : ∀ x ∈ l, x.body = none ∨ (s.inst x.page).recordsOpen = false) (hr : r.body = some b)
    (hlen : b.length = 448) (hopen : (s.inst r.page).recordsOpen = true) (hbusy : (s.page r.page).busy = true) :
    (s.attestOk r = true → Answers (exec .attestSigned s) fun t =>
      MbShows t r.page (s.page r.page).curSeq Config.NONE [] ∧
        Stores s t ((s.obj r.obj).base + r.off) (s.attestReport b) ∧ (s.attestReport b).length = 3904 ∧
        bareAttests t.sec.attests = bareAttests (s.sec.attests.filter fun x => x.page != r.page) ∧
        Only [.writes, .mem, .poison, .au, .pool, .gens, .insts, .sec, .chime, .obs] s t) ∧
    (s.attestOk r = false → Answers (exec .attestSigned s) fun t =>
      MbShows t r.page (s.page r.page).curSeq Config.HANDLE_RIGHTS [] ∧ t.mem = s.mem ∧
        bareAttests t.sec.attests = bareAttests (s.sec.attests.filter fun x => x.page != r.page)) := by
  have hf : s.sec.attests.find? (fun r => r.body.isSome && (s.inst r.page).recordsOpen) = some r := by
    rw [hl, List.find?_append, List.find?_eq_none.mpr, List.find?_cons_of_pos]
    · rfl
    · simp [hr, hopen]
    · intro x hx
      rcases hbefore x hx with h | h <;> simp [h]
  have hok : (attestLeft s r).attestOk r = s.attestOk r := rfl
  have hrep : (attestLeft s r).attestReport (r.body.getD []) = s.attestReport b := by rw [hr]; rfl
  rw [attestDone_ends hf, hok, hrep] at e
  refine ⟨fun h => ?_, fun h => ?_⟩
  · rw [if_pos h] at e
    have hw := objWrite_only (attestLeft s r) (.inst r.page) r.obj r.off (s.attestReport b)
    have ht : Only [.insts, .chime, .obs, .sec] _ (attestTake (mbDone (objWrite (attestLeft s r) (.inst r.page) r.obj r.off
      (s.attestReport b)) r.page Config.NONE [])) := (attestTake_only _).step (by decide) ((mbDone_only _ _ _ _).wider (by decide))
    have hleft : Only [.sec] s (attestLeft s r) := .set_sec (by decide) (.refl _ s)
    refine ⟨_, e, attestTaken_shows hbusy (blockWrite_page _ _ _ _ _ _ _ _ _), ?_, attestReport_length s hlen,
      attestTaken_bare (hw .sec (by decide)), ?_⟩
    · exact (objWrite_stores (attestLeft s r) _ _ _ _).of_mem (ht .mem (by decide))
    · exact ht.step (by decide) (hw.step (by decide) (hleft.wider (by decide)))
  · rw [if_neg (by rw [h]; decide)] at e
    have ht : Only [.insts, .chime, .obs, .sec] _ (attestTake (mbDone (attestLeft s r) r.page Config.HANDLE_RIGHTS [])) :=
      (attestTake_only _).step (by decide) ((mbDone_only _ _ _ _).wider (by decide))
    exact ⟨_, e, attestTaken_shows hbusy rfl, ht .mem (by decide), attestTaken_bare rfl⟩

/-- Settles O41: what each of the four requests makes of the state in which it is latched, and what the signer finishes. -/
theorem secretsAndReports : Obligations.SecretsAndReports := by
  refine ⟨fun s m => ⟨instBind_settled, keyLoad_settled, keyErase_settled, attest_settled⟩, fun s hr hs => ?_⟩
  have e := exec_attestSigned hr hs
  refine ⟨fun h => ?_, fun h => ?_, fun r b l k hl hbefore hbody hlen hopen hbusy =>
    attestSigned_settled e hl hbefore hbody hlen hopen hbusy⟩
  · rw [e, attestDone_takes fun r hr => Or.inr (h r hr), attestTake_idle h]
  · rw [e, attestDone_takes fun r hr => Or.inl (h r hr)]

end Sys2Proof.Machine
end

section
/-! SUPPORT. A job that waits on a flight's release and stands on no core of its own: the kill that the break of the flight owes
it does not begin (R323, R51). -/

namespace Sys2Proof.Machine

/-! ## The state of the counterexample -/

/-- An OPEN flight whose watchdog runs, with FLIGHT_RELEASE 4097. -/
def waitedFlight : Flight :=
  { Flight.reset with
    state := .isOpen, expect := 1#16, grant := BitVec.allOnes 64, round := 3#32, arriveId := 4096#17, releaseId := 4097#17,
    watchdog := true }

/-- A NOP whose WAIT field names the counter in S1 with the threshold in S0 (R147). -/
def waitingNop : Nat := (3 * 8192 + 256) * 2 ^ 16

/-- A free job that lists no core. -/
def corelessJob : Job :=
  { kind := .free 0 0#32 0, part := 0, cores := [], gen := 0, bound := 1000, killLimit := 1000, features := 0#2, launchBeat := 0#48,
    launchTime := 0#64, isSealed := false, workLen := 65536, hmask := [], omask := [], pins := [], wrote := [], stores := [],
    contrib := [], arrivals := [], deferred := false, deferStart := 0#64, kill := none, killCode := 0#16, coKilled := false,
    detail := 0#64, killing := [], counts := [] }

/-- Core 0 runs that job and is stalled at the WAIT. -/
def stalledCore : Core :=
  { Core.reset with
    st := .running, job := some 0, stall := 1#3, regs := [(1, 4097#64)], fetched := some (leBytes 16 waitingNop) }

/-- The block in which that job waits on flight 1; link 1 is UP. -/
def corelessWaiter : State :=
  { State.reset with
    flights := [(1, waitedFlight)], jobs := [(0, corelessJob)], cores := [(0, stalledCore)],
    counters := [(4097, { Counter.reset with kind := .flightRelease, state := .live, owner := 1#11, value := 3#32 })],
    links := [(1, { Link.reset with enable := true, state := .up, phyLock := true })] }

/-- The kill of the job has not begun. -/
def spared (t : State) : Bool := (t.job 0).all fun j => j.kill.isNone

/-- A command answers a next state in which the kill of the job has not begun. -/
def spares : Host.Outcome State Fault Refusal → Bool
  | .next t => spared t
  | _ => false

/-- The job waits at issue in w for what the break of flight 1 ends with a code. -/
def waitsDead (w : State) (cause : BitVec 3) (code : BitVec 16) : Bool :=
  w.issuing 0 == some (0, corelessJob) && (w.core 0).stall == 1#3 && w.front 0 corelessJob == .ins (decodeIns waitingNop) &&
    (w.setFlight 1 { w.flight 1 with state := .broken, cause := cause, code := code, watchdog := false }).waitNow 0 corelessJob
      (decodeIns waitingNop).wait == .dead code

/-- A break after which the job is spared is not the one that the spec describes. -/
theorem not_flightBreaks_of_spared {w t : State} {cause : BitVec 3} {code : BitVec 16} {from' : Option Nat}
    (hw : waitsDead w cause code = true) (ht : spared t = true) : ¬FlightBreaks w t 1 cause code from' := by
  intro ⟨_, _, _, hkill⟩
  simp only [waitsDead, Bool.and_eq_true, beq_iff_eq] at hw
  obtain ⟨⟨⟨hissue, hstall⟩, hfront⟩, hdead⟩ := hw
  obtain ⟨k, hk, hne⟩ := hkill 0 0 corelessJob _ hissue hstall hfront hdead
  unfold spared at ht
  rw [hk] at ht
  exact hne (by simpa using ht)

theorem spared_of_spares {o : Host.Outcome State Fault Refusal} {t : State} (h : spares o = true) (e : o = .next t) :
    spared t = true := by
  rw [e] at h
  exact h

/-- Refutes O47: FLIGHT_WATCHDOG breaks the flight on whose release the job of `corelessWaiter` waits at issue, and the kill of
that job does not begin, since the job lists no core. -/
theorem not_countersAndFlightsObeyTheManager : ¬Obligations.CountersAndFlightsObeyTheManager := by
  intro ⟨_, _, h⟩
  obtain ⟨t, e, hbreaks, _⟩ := (h corelessWaiter 1#10).2 (by decide +kernel) (by decide +kernel) (by unfold Running'; decide +kernel)
  exact not_flightBreaks_of_spared (by decide +kernel) (spared_of_spares (by decide +kernel) e) hbreaks

/-- A frame of a flight message on link 1, in its turn. -/
def peerFrame : FrameHdr :=
  { link := 1#3, crcOk := true, seq := 0#16, ack := 0xFFFF#16, credits := 0#8, auth := false, tagOk := true, ctr := 1#64 }

/-- The state in which the message acts. -/
def corelessTaken : State := match rxFlight corelessWaiter peerFrame with
  | .taken w => w
  | .gone w => w

/-- Refutes O48: ARRIVE with another ROUND breaks the flight on whose release the job of `corelessWaiter` waits at issue, and the
kill of that job does not begin, since the job lists no core. -/
theorem not_flightMessagesMoveRounds : ¬Obligations.FlightMessagesMoveRounds := by
  intro h
  have hopen := ((h corelessWaiter peerFrame 1#10 9#32).2 corelessTaken rfl (by decide +kernel)).2.2 (by decide +kernel)
  obtain ⟨t, e, hbreaks, _⟩ := hopen.1 (by decide +kernel) (.arrive peerFrame 1#10 9#32) (by simp)
  exact not_flightBreaks_of_spared (by decide +kernel) (spared_of_spares (by decide +kernel) e) hbreaks

end Sys2Proof.Machine
end

section
/-! SUPPORT. Two operations of one thread with one number: what lands for the first is also noted at the second, which is still
queued (R122, R125). -/

namespace Sys2Proof.Machine

/-- A LOAD of the first line of object 5. -/
def twinLoad : StreamOp :=
  { kind := .load, objRef := 5#32, off := 0, len := 128, scratch := .work 0, lanes := [], pc := 0, sig := .none, round := 0, id := 0,
    obj := 0, base := 0, total := 0, leads := false, issued := 0, landed := [] }

/-- The same LOAD as it starts: it names its entry, address and lines. -/
def twinLoadStarted : StreamOp := { twinLoad with obj := 5, base := 0x10000, total := 1 }

/-- A free job on core 0 that may read object 5. -/
def twinJob : Job := { corelessJob with cores := [0], hmask := [5#32] }

/-- A copy of object 5 in the shared pool. -/
def twinCopy : BasinCopy := { bytes := [], len := 4096, badLines := [] }

/-- Core 0 runs that job, and the LOAD stands twice in thread 0, under the same number. -/
def twinThread : State :=
  { State.reset with
    objs := [(5, { Obj.reset with base := 0x10000, size := 4096, state := .mapped, parent := 5 })]
    pool := [(5, (0x10000, twinCopy))]
    jobs := [(0, twinJob)]
    cores := [(0, { Core.reset with
      st := .running, job := some 0,
      se := { Core.reset.se with threads := [(0, { queue := [twinLoad, twinLoad], active := [] })] } })] }

/-- A command answers a next state in which thread 0 of core 0 still has the second LOAD as it was queued. -/
def secondStays : Host.Outcome State Fault Refusal → Bool
  | .next t => ((t.core 0).se.thread 0).queue == [twinLoad]
  | _ => false

/-- Refutes O25: in `twinThread` the first LOAD starts and its line lands from the shared pool's copy, and the second LOAD, which
is still queued, is marked as landed too, since it bears the same number. -/
theorem not_streamOperationsStart : ¬Obligations.StreamOperationsStart := by
  intro h
  have hstarts := (h.1 twinThread 0#4 0#6 0 twinJob twinLoad [twinLoad] (by decide +kernel) (by decide +kernel)).2 (by decide +kernel)
  have hobj := (hstarts.2.2 (Or.inl rfl)).2.2 5 (by decide +kernel) (by decide +kernel)
  obtain ⟨t, e, hrest, -⟩ := hobj.1 twinCopy (List.replicate 128 0#8) .none rfl (by decide +kernel) (by decide +kernel)
    (by decide +kernel)
  have hno : secondStays (exec (.streamOpStart ⟨0#4, .none⟩ 0#6) twinThread) = false := by decide +kernel
  have hyes : secondStays (.next t) = true := by
    unfold secondStays
    exact beq_iff_eq.mpr hrest
  rw [← e] at hyes
  exact Bool.false_ne_true (hno.symm.trans hyes)

end Sys2Proof.Machine
end

section
/-! SUPPORT. The kill of jobs that wait on what has ended, and an update at its counter's home: dropped, applied, or faulting the
counter (R300 to R305, R326). -/

namespace Sys2Proof.Machine

/-! ## Jobs that wait at issue -/

theorem killDead_kills (s : State) (c n : Nat) (code : BitVec 16) : Kills s (killDead s c n code) := by
  refine Kills.trans ?_ (killJob_kills (errRecord s 1 none (some c) (s.corePart c) code 0) n .fault code 0#64)
  exact .of_kept (fun m => errRecord_job _ _ _ _ _ _ _ m) fun d => congrArg Core.st (errRecord_core _ _ _ _ _ _ _ d)

theorem killWaiter_kills (s : State) (c : Nat) : Kills s (killWaiter s c) := by
  unfold killWaiter
  split
  · exact .refl s
  · split
    · split
      · split
        · exact killDead_kills _ _ _ _
        · exact .refl s
      · exact .refl s
    · exact .refl s

/-- The kill of waiting jobs begins kills alone (R305, R311, R323). -/
theorem killWaiters_kills (s : State) : Kills s (killWaiters s) := .foldl _ killWaiter_kills _ s

theorem killWaiter_of_not_waiting {s : State} {c : Nat} (h : (s.core c).stall ≠ 1#3) : killWaiter s c = s := by
  unfold killWaiter
  split
  · rfl
  · rw [if_neg h]

/-- Where no core waits at issue, no job is killed for what it waits on. -/
theorem killWaiters_of_none {s : State} (h : NoneWaits s) : killWaiters s = s := by
  unfold killWaiters
  induction s.cores.map fun k => k.1 with
  | nil => rfl
  | cons c l ih => rw [List.foldl_cons, killWaiter_of_not_waiting (h c), ih]

/-! ## A counter that faults (R304, R326) -/

/-- The state in which the fault of an update is recorded and its counter FAULTED, before its job is killed. -/
def State.updNoted (s : State) (u : Update) (f : BitVec 2) (code : BitVec 16) : State :=
  syFault (ctrFault (pmGlobal s 12 1) u.id f) u.id u.source.code.1 u.source.code.2 (s.updStation u) code u.amount
    (s.counter u.id.toNat).value

theorem syFault_held (s : State) (id : BitVec 17) (source core : Nat) (station code : BitVec 16) (amount before : W32)
    (h : s.sy.fValid = true) : (syFault s id source core station code amount before).sy = s.sy := by
  unfold syFault
  simp only [errRecord_sy, h, if_true]

/-- The first fault since SY_FAULT was cleared is recorded with the update that met it (R326). -/
theorem syFault_free (s : State) (id : BitVec 17) (source core : Nat) (station code : BitVec 16) (amount before : W32)
    (h : s.sy.fValid = false) : (syFault s id source core station code amount before).sy = { s.sy with
      fValid := true, fSource := BitVec.ofNat 3 source, fCore := BitVec.ofNat 4 core, fId := id, fStation := station,
      fCode := code, fAmount := amount, fBefore := before } := by
  unfold syFault
  simp only [errRecord_sy, h, Bool.false_eq_true, if_false, chSample_sy]

theorem updNoted_counter_eq (s : State) (u : Update) (f : BitVec 2) (code : BitVec 16) (m : Nat) :
    (s.updNoted u f code).counter m = (ctrFault (pmGlobal s 12 1) u.id f).counter m :=
  congrArg (tget _ · m) (syFault_only _ _ _ _ _ _ _ _ .counters (by decide))

theorem updNoted_counter (s : State) (u : Update) (f : BitVec 2) (code : BitVec 16) :
    (s.updNoted u f code).counter u.id.toNat = { s.counter u.id.toNat with state := .faulted, fault := f } := by
  rw [updNoted_counter_eq]
  unfold ctrFault
  rw [State.modCounter_eq, State.setCounter_counter, pmGlobal_counter]

theorem updNoted_counter_ne (s : State) (u : Update) (f : BitVec 2) (code : BitVec 16) {m : Nat} (h : m ≠ u.id.toNat) :
    (s.updNoted u f code).counter m = s.counter m := by
  rw [updNoted_counter_eq]
  unfold ctrFault
  rw [State.modCounter_eq, State.setCounter_counter_ne _ _ _ _ h, pmGlobal_counter]

theorem updNoted_only (s : State) (u : Update) (f : BitVec 2) (code : BitVec 16) :
    Only [.counters, .sy, .fr, .chime, .obs, .freeCount] s (s.updNoted u f code) :=
  (syFault_only _ _ _ _ _ _ _ _).step (by decide) ((ctrFault_only _ _ _).step (by decide) ((pmGlobal_only _ _ _).step (by decide)
    (.refl _ s)))

/-- SY_FAULT after a fault: the record held, or the fault's own (R326). -/
theorem updNoted_sy (s : State) (u : Update) (f : BitVec 2) (code : BitVec 16) :
    (s.sy.fValid = false → (s.updNoted u f code).sy.fValid = true ∧ (s.updNoted u f code).sy.fId = u.id ∧
      (s.updNoted u f code).sy.fCode = code ∧ (s.updNoted u f code).sy.fAmount = u.amount ∧
      (s.updNoted u f code).sy.fBefore = (s.counter u.id.toNat).value) ∧
    (s.sy.fValid = true → (s.updNoted u f code).sy = s.sy) := by
  have hsy : (ctrFault (pmGlobal s 12 1) u.id f).sy = s.sy := pmGlobal_only s 12 1 .sy (by decide)
  refine ⟨fun h => ?_, fun h => ?_⟩
  · unfold State.updNoted
    rw [syFault_free _ _ _ _ _ _ _ _ (hsy ▸ h)]
    exact ⟨rfl, rfl, rfl, rfl, rfl⟩
  · exact (syFault_held _ _ _ _ _ _ _ _ (hsy ▸ h)).trans hsy

/-- The job whose update faulted is killed with its code (R305). -/
theorem updKill_job {s : State} {u : Update} {code : BitVec 16} {n : Nat} {j : Job} (hu : u.job = some n) (hj : s.job n = some j)
    (hnone : j.kill = none) (hcores : j.cores ≠ []) :
    ∃ k, (updKill s u code).job n = some k ∧ k.kill = some .fault ∧ k.killCode = code := by
  have hw : (watchStale s u.id).job n = some j := hj
  have hc : ∃ c, (jobCount (watchStale s u.id) n 12 1).job n = some { j with counts := c } := by
    unfold jobCount
    rw [hw]
    exact ⟨_, State.setJob_job _ _ _⟩
  obtain ⟨c, hc⟩ := hc
  unfold updKill
  rw [hu]
  exact ⟨_, killJob_job .fault code 0#64 hc ((Job.killable_iff _).2 ⟨hnone, hcores⟩), rfl, rfl⟩

/-! ## An update at its home -/

/-- The counter that an update names is in use and takes it: neither the job's table nor a flight stands in the way. -/
def State.updFits (s : State) (u : Update) : Prop :=
  (s.counter u.id.toNat).kind ≠ .flightArrive ∧
    ∀ n j, u.job = some n → s.job n = some j → (∃ st, j.kind = .station st) ∨ j.tableFull u.id = false

/-- A counter that is free, abandoned or FAULTED drops the update and counts it (R305, R326). -/
theorem applyUpdate_dropped {s : State} {u : Update} (h : (s.counter u.id.toNat).state ≠ .live) :
    applyUpdate s u = syDrop s := by
  have hlive : ((s.counter u.id.toNat).state == .live) = false := beq_eq_false_iff_ne.2 h
  unfold applyUpdate ctrAdd
  simp only [hlive, Bool.and_false, Bool.false_eq_true, if_false]
  cases hs : (s.counter u.id.toNat).state with
  | live => exact absurd hs h
  | _ => rfl

/-- What follows an update to a counter that is no flight's arrivals: the kill of its job after a fault, the record of what the
job contributed after an addition. -/
def Update.settled (u : Update) (r : State × UpdResult) : State := match r.2 with
  | .dropped _ => r.1
  | .faulted code => updKill r.1 u code
  | .applied => watchStale (updApplied r.1 u) u.id

/-- The update of a job whose contribution table has room goes to its counter (R310). -/
theorem applyUpdate_of_fits {s : State} {u : Update} (h : s.updFits u) :
    applyUpdate s u = u.settled (ctrAdd s u.id u.amount u.source.code.1 u.source.code.2 (s.updStation u)) := by
  obtain ⟨hkind, hroom⟩ := h
  unfold applyUpdate
  dsimp only
  have hfull : (match u.job with
      | some n => (match s.job n with
        | some j => (match u.job with
            | some n => (match s.job n with | some j => (match j.kind with | .free _ _ _ => true | _ => false) | none => false)
            | none => false) && (s.counter u.id.toNat).kind != .flightArrive && j.tableFull u.id
        | none => false)
      | none => false) = false := by
    cases hu : u.job with
    | none => rfl
    | some n =>
      cases hj : s.job n with
      | none => simp only [hj]
      | some j =>
        simp only [hj]
        rcases hroom n j hu hj with ⟨st, hst⟩ | hroom
        · rw [hst]
          rfl
        · rw [hroom, Bool.and_false]
  rw [if_neg (by
    intro hc
    exact absurd ((Bool.and_eq_true _ _).mp hc).1 (by
      intro hd
      exact Bool.false_ne_true (hfull.symm.trans hd)))]
  simp only [if_neg hkind]
  generalize ctrAdd s u.id u.amount u.source.code.1 u.source.code.2 (s.updStation u) = r
  unfold Update.settled
  cases r.2 <;> rfl

/-- The state after an update that its counter takes. -/
def State.updAdded (s : State) (u : Update) : State :=
  watchStale (updApplied (s.setCounter u.id.toNat { s.counter u.id.toNat with
    value := (s.counter u.id.toNat).value + u.amount }) u) u.id

/-- A live counter that is no flight's arrivals takes an amount where its sum fits, modulo 2^32 in WRAP mode (R303). -/
theorem ctrAdd_takes {s : State} {id : BitVec 17} {amount : W32} (source core : Nat) (station : BitVec 16)
    (hl : (s.counter id.toNat).state = .live) (hk : (s.counter id.toNat).kind ≠ .flightArrive)
    (hs : (s.counter id.toNat).error = false ∨
      (0 ≤ ctrSum (s.counter id.toNat).value amount ∧ ctrSum (s.counter id.toNat).value amount ≤ 0xFFFFFFFF)) :
    ctrAdd s id amount source core station =
      (s.setCounter id.toNat { s.counter id.toNat with value := (s.counter id.toNat).value + amount }, .applied) := by
  unfold ctrAdd
  simp only [hl]
  rw [if_neg (fun hc => hk hc.1)]
  rcases hs with hw | ⟨hlo, hhi⟩
  · rw [if_neg (by simp [hw])]
  · split
    · rw [if_neg (by omega), if_neg (by omega)]
    · rfl

section
variable {s : State} {u : Update} (h : s.updFits u) (hl : (s.counter u.id.toNat).state = .live)
include h hl

/-- An update that fits adds to its counter, modulo 2^32 in WRAP mode (R303). -/
theorem applyUpdate_applied (hs : (s.counter u.id.toNat).error = false ∨
      (0 ≤ ctrSum (s.counter u.id.toNat).value u.amount ∧ ctrSum (s.counter u.id.toNat).value u.amount ≤ 0xFFFFFFFF)) :
    applyUpdate s u = s.updAdded u := by
  rw [applyUpdate_of_fits h, ctrAdd_takes _ _ _ hl h.1 hs]
  rfl

/-- In ERROR mode a sum below zero faults the counter with COUNTER_UNDERFLOW (R303, R304). -/
theorem applyUpdate_under (he : (s.counter u.id.toNat).error = true) (hs : ctrSum (s.counter u.id.toNat).value u.amount < 0) :
    applyUpdate s u = updKill (s.updNoted u 2#2 Config.COUNTER_UNDERFLOW) u Config.COUNTER_UNDERFLOW := by
  have e : ctrAdd s u.id u.amount u.source.code.1 u.source.code.2 (s.updStation u) =
      (s.updNoted u 2#2 Config.COUNTER_UNDERFLOW, .faulted Config.COUNTER_UNDERFLOW) := by
    unfold ctrAdd State.updNoted
    simp only [hl]
    rw [if_neg (fun hc => h.1 hc.1), if_pos he, if_pos hs]
  rw [applyUpdate_of_fits h, e]
  rfl

/-- In ERROR mode a sum above 2^32 - 1 faults the counter with COUNTER_OVERFLOW (R303, R304). -/
theorem applyUpdate_over (he : (s.counter u.id.toNat).error = true)
    (hs : 0xFFFFFFFF < ctrSum (s.counter u.id.toNat).value u.amount) :
    applyUpdate s u = updKill (s.updNoted u 1#2 Config.COUNTER_OVERFLOW) u Config.COUNTER_OVERFLOW := by
  have e : ctrAdd s u.id u.amount u.source.code.1 u.source.code.2 (s.updStation u) =
      (s.updNoted u 1#2 Config.COUNTER_OVERFLOW, .faulted Config.COUNTER_OVERFLOW) := by
    unfold ctrAdd State.updNoted
    simp only [hl]
    rw [if_neg (fun hc => h.1 hc.1), if_pos he, if_neg (by omega), if_pos hs]
  rw [applyUpdate_of_fits h, e]
  rfl

end

/-! ## What an update leaves alone -/

/-- The parts that an update changes besides the counter that it names. -/
def updParts : List Field := [.counters, .sy, .run, .jobs, .cores, .fr, .chime, .obs, .freeCount]

theorem updFault_only (s : State) (u : Update) (f : BitVec 2) (code : BitVec 16) :
    Only updParts s (updKill (s.updNoted u f code) u code) :=
  (updKill_only _ _ _).step (by decide) ((updNoted_only s u f code).wider (by decide))

/-- The state after a fault of an update: its counter keeps its value and the code of the fault, no other counter moves, SY_FAULT
and the kill of the job follow R304, R305 and R326. -/
structure UpdFaults (s : State) (u : Update) (f : BitVec 2) (code : BitVec 16) (t : State) : Prop where
  only : Only updParts s t
  counter : t.counter u.id.toNat = { s.counter u.id.toNat with state := .faulted, fault := f }
  others : ∀ m, m ≠ u.id.toNat → t.counter m = s.counter m
  recorded : s.sy.fValid = false → t.sy.fValid = true ∧ t.sy.fId = u.id ∧ t.sy.fCode = code ∧ t.sy.fAmount = u.amount ∧
    t.sy.fBefore = (s.counter u.id.toNat).value
  held : s.sy.fValid = true → t.sy = s.sy
  killed : ∀ n j, u.job = some n → s.job n = some j → j.kill = none → j.cores ≠ [] →
    ∃ k, t.job n = some k ∧ k.kill = some .fault ∧ k.killCode = code

theorem updFault_faults (s : State) (u : Update) (f : BitVec 2) (code : BitVec 16) :
    UpdFaults s u f code (updKill (s.updNoted u f code) u code) := by
  have hcounters : (updKill (s.updNoted u f code) u code).counters = (s.updNoted u f code).counters :=
    updKill_only _ _ _ .counters (by decide)
  have hsy : (updKill (s.updNoted u f code) u code).sy = (s.updNoted u f code).sy := updKill_only _ _ _ .sy (by decide)
  have hjobs : (s.updNoted u f code).jobs = s.jobs := updNoted_only s u f code .jobs (by decide)
  obtain ⟨hfree, hheld⟩ := updNoted_sy s u f code
  exact {
    only := updFault_only s u f code
    counter := (congrArg (tget _ · u.id.toNat) hcounters).trans (updNoted_counter s u f code)
    others := fun m hm => (congrArg (tget _ · m) hcounters).trans (updNoted_counter_ne s u f code hm)
    recorded := fun h => hsy ▸ hfree h
    held := fun h => hsy.trans (hheld h)
    killed := fun n j hu hj hnone hcores =>
      updKill_job hu ((congrArg (tfind · n) hjobs).trans hj) hnone hcores }

/-- The kill of the jobs that waited on the counter leaves all that as it is. -/
theorem UpdFaults.killWaiters {s t : State} {u : Update} {f : BitVec 2} {code : BitVec 16} (h : UpdFaults s u f code t) :
    UpdFaults s u f code (killWaiters t) := by
  have hcounters : (Machine.killWaiters t).counters = t.counters := killWaiters_only t .counters (by decide)
  have hsy : (Machine.killWaiters t).sy = t.sy := killWaiters_only t .sy (by decide)
  exact {
    only := (killWaiters_only t).step (by decide) h.only
    counter := (congrArg (tget _ · u.id.toNat) hcounters).trans h.counter
    others := fun m hm => (congrArg (tget _ · m) hcounters).trans (h.others m hm)
    recorded := fun g => hsy ▸ h.recorded g
    held := fun g => hsy.trans (h.held g)
    killed := fun n j hu hj hnone hcores => by
      obtain ⟨k, hk, hkill, hcode⟩ := h.killed n j hu hj hnone hcores
      exact ⟨k, (killWaiters_kills t).job_of_killed hk (by rw [hkill]; rfl), hkill, hcode⟩ }

theorem killWaiters_updAdded_only (s : State) (u : Update) :
    Only (.counters :: haltCoreParts) s (killWaiters (s.updAdded u)) :=
  (killWaiters_only _).step (by decide) ((watchStale_only _ _).step (by decide) ((updApplied_only _ _).step (by decide)
    ((State.setCounter_only _ _ _).wider (by decide))))

theorem killWaiters_updAdded_counters (s : State) (u : Update) :
    (killWaiters (s.updAdded u)).counters = (s.setCounter u.id.toNat { s.counter u.id.toNat with
      value := (s.counter u.id.toNat).value + u.amount }).counters :=
  ((killWaiters_only _).step (l := .jobs :: .cores :: haltCoreParts) (by decide) ((watchStale_only _ _).step (by decide)
    ((updApplied_only _ _).wider (by decide)))) .counters (by decide)

/-! ## COUNTER_UPDATE -/

/-- The state in which the oldest update at a home has left and what the protection of its counter found is counted. -/
def State.updTaken (s : State) (h : Nat) (rest : List Update) (err : SramErr) : State :=
  if err = .corrected then frCorrected { s with updates := tput s.updates h rest } 6
  else { s with updates := tput s.updates h rest }

theorem updTaken_only (s : State) (h : Nat) (rest : List Update) (err : SramErr) :
    Only [.updates, .fr, .chime, .obs] s (s.updTaken h rest err) := by
  have hu : Only [.updates, .fr, .chime, .obs] s { s with updates := tput s.updates h rest } :=
    .set_updates (by decide) (.refl _ s)
  exact .ite ((frCorrected_only _ _).step (by decide) hu) hu

theorem updTaken_updates (s : State) (h : Nat) (rest : List Update) (err : SramErr) :
    tget [] (s.updTaken h rest err).updates h = rest := by
  unfold State.updTaken
  split
  · rw [frCorrected_updates]
    exact tget_tput_self _ _ _ _
  · exact tget_tput_self _ _ _ _

theorem exec_counterUpdate {s : State} {home : BitVec 4} {u : Update} {rest : List Update} (hr : Running' s)
    (hu : tget [] s.updates home.toNat = u :: rest) {err : SramErr} (he : err ≠ .uncorrectable) :
    exec (.counterUpdate home err) s = .next (killWaiters (applyUpdate (s.updTaken home.toNat rest err) u)) := by
  obtain ⟨halive, hhalt⟩ := hr
  have e : counterStep s home.toNat err = applyUpdate (s.updTaken home.toNat rest err) u := by
    unfold counterStep
    rw [if_neg (by simp [halive, hhalt]), hu]
    cases err with
    | uncorrectable => exact absurd rfl he
    | _ => rfl
  exact congrArg (fun t => Host.Outcome.next (killWaiters t)) e

theorem exec_counterUpdate_lost {s : State} {home : BitVec 4} {u : Update} {rest : List Update} (hr : Running' s)
    (hu : tget [] s.updates home.toNat = u :: rest) :
    exec (.counterUpdate home .uncorrectable) s =
      .next (killWaiters (counterLost (s.updTaken home.toNat rest .uncorrectable) u)) := by
  obtain ⟨halive, hhalt⟩ := hr
  have e : counterStep s home.toNat .uncorrectable = counterLost (s.updTaken home.toNat rest .uncorrectable) u := by
    unfold counterStep
    rw [if_neg (by simp [halive, hhalt]), hu]
    rfl
  exact congrArg (fun t => Host.Outcome.next (killWaiters t)) e

/-- Without power, in halt-all or with no update at the home nothing is applied. -/
theorem counterStep_idle {s : State} {h : Nat} {err : SramErr}
    (hi : s.portAlive = false ∨ s.obs.halted = true ∨ tget [] s.updates h = []) : counterStep s h err = s := by
  unfold counterStep
  rcases hi with ha | hh | hnone
  · rw [if_pos (by simp [ha])]
  · rw [if_pos (by simp [hh])]
  · split
    · rfl
    · rw [hnone]

section
variable {s : State} {home : BitVec 4} {u : Update} {rest : List Update} {err : SramErr}

theorem updTaken_counter (m : Nat) : (s.updTaken home.toNat rest err).counter m = s.counter m :=
  congrArg (tget _ · m) (updTaken_only s home.toNat rest err .counters (by decide))

theorem updTaken_sy : (s.updTaken home.toNat rest err).sy = s.sy := updTaken_only s home.toNat rest err .sy (by decide)

theorem updTaken_job (n : Nat) : (s.updTaken home.toNat rest err).job n = s.job n :=
  congrArg (tfind · n) (updTaken_only s home.toNat rest err .jobs (by decide))

/-- What an update leaves alone, seen from the state before it left its home. -/
theorem updTaken_others {t : State} (ht : Only updParts (s.updTaken home.toNat rest err) t)
    (hc : ∀ m, m ≠ u.id.toNat → t.counter m = (s.updTaken home.toNat rest err).counter m) :
    tget [] t.updates home.toNat = rest ∧ (∀ m, m ≠ u.id.toNat → t.counter m = s.counter m) ∧ t.mem = s.mem ∧
      t.queues = s.queues := by
  have hupd : t.updates = _ := ht .updates (by decide)
  have hmem : t.mem = _ := ht .mem (by decide)
  have hq : t.queues = _ := ht .queues (by decide)
  refine ⟨(congrArg (tget [] · home.toNat) hupd).trans (updTaken_updates s home.toNat rest err), fun m hm => ?_,
    hmem.trans (updTaken_only s home.toNat rest err .mem (by decide)),
    hq.trans (updTaken_only s home.toNat rest err .queues (by decide))⟩
  exact (hc m hm).trans (updTaken_counter m)

end

/-- Settles O28: the update leaves its home, and its counter drops it, takes it or faults, by its state, its mode and its sum. -/
theorem counterUpdatesApply : Obligations.CounterUpdatesApply := by
  refine ⟨fun s home u rest hr hu hkind hroom => ?_, fun s home err hnone hi => ?_⟩
  · intro x sum others faults
    have faulted {t : State} {err : SramErr} {f : BitVec 2} {code : BitVec 16}
        (h : UpdFaults (s.updTaken home.toNat rest err) u f code t) :
        others t ∧ t.counter u.id.toNat = { x with state := .faulted, fault := f } ∧ faults t code := by
      obtain ⟨honly, hcounter, hothers, hrec, hheld, hkilled⟩ := h
      rw [updTaken_counter] at hcounter hrec
      rw [updTaken_sy] at hrec hheld
      exact ⟨updTaken_others honly hothers, hcounter, hrec, hheld, fun n j hn hj =>
        hkilled n j hn ((updTaken_job n).trans hj)⟩
    have fits (err : SramErr) : (s.updTaken home.toNat rest err).updFits u :=
      ⟨by rw [updTaken_counter]; exact hkind, fun n j hn hj => hroom n j hn ((updTaken_job n).symm.trans hj)⟩
    refine ⟨fun hx err => ?_, fun hlive => ⟨fun err he hs => ?_, fun err he hm hs => ?_, fun err he hm hs => ?_, ?_⟩⟩
    · obtain ⟨t, ht, hcounters, hsy, honly⟩ : ∃ t, exec (.counterUpdate home err) s = .next (killWaiters t) ∧
          t.counters = (s.updTaken home.toNat rest err).counters ∧
          t.sy = { s.sy with dropped := satInc s.sy.dropped } ∧ Only updParts (s.updTaken home.toNat rest err) t := by
        have hdrop : applyUpdate (s.updTaken home.toNat rest err) u = syDrop (s.updTaken home.toNat rest err) :=
          applyUpdate_dropped (by rwa [updTaken_counter])
        refine ⟨syDrop (s.updTaken home.toNat rest err), ?_, rfl, by unfold syDrop; rw [updTaken_sy],
          (syDrop_only _).wider (by decide)⟩
        by_cases he : err = .uncorrectable
        · subst he
          rw [exec_counterUpdate_lost hr hu]
          unfold counterLost
          rw [if_neg (by rwa [updTaken_counter]), hdrop]
        · rw [exec_counterUpdate hr hu he, hdrop]
      have hcounter (m : Nat) : (killWaiters t).counter m = (s.updTaken home.toNat rest err).counter m :=
        congrArg (tget _ · m) ((killWaiters_only t .counters (by decide) : _ = t.counters).trans hcounters)
      exact ⟨_, ht, updTaken_others ((killWaiters_only t).step (by decide) honly) fun m _ => hcounter m,
        (hcounter _).trans (updTaken_counter _), (killWaiters_only t .sy (by decide)).trans hsy⟩
    · refine ⟨_, exec_counterUpdate hr hu he, ?_⟩
      rw [applyUpdate_applied (fits err) (by rwa [updTaken_counter]) (by rwa [updTaken_counter])]
      have honly : Only (.counters :: haltCoreParts) (s.updTaken home.toNat rest err) _ :=
        killWaiters_updAdded_only (s.updTaken home.toNat rest err) u
      have hcounters := killWaiters_updAdded_counters (s.updTaken home.toNat rest err) u
      refine ⟨updTaken_others (honly.wider (by decide)) fun m hm => ?_, ?_,
        (honly .sy (by decide) : _ = _).trans updTaken_sy⟩
      · exact (congrArg (tget _ · m) hcounters).trans (State.setCounter_counter_ne _ _ _ _ hm)
      · refine (congrArg (tget _ · u.id.toNat) hcounters).trans ((State.setCounter_counter _ _ _).trans ?_)
        rw [updTaken_counter]
    · refine ⟨_, exec_counterUpdate hr hu he, faulted (err := err) ?_⟩
      rw [applyUpdate_under (fits err) (by rwa [updTaken_counter]) (by rwa [updTaken_counter]) (by rwa [updTaken_counter])]
      exact (updFault_faults _ _ _ _).killWaiters
    · refine ⟨_, exec_counterUpdate hr hu he, faulted (err := err) ?_⟩
      rw [applyUpdate_over (fits err) (by rwa [updTaken_counter]) (by rwa [updTaken_counter]) (by rwa [updTaken_counter])]
      exact (updFault_faults _ _ _ _).killWaiters
    · refine ⟨_, exec_counterUpdate_lost hr hu, faulted (err := .uncorrectable) ?_⟩
      have e : counterLost (s.updTaken home.toNat rest .uncorrectable) u = updKill
          ((s.updTaken home.toNat rest .uncorrectable).updNoted u 3#2 Config.SRAM_UNCORRECTABLE) u Config.SRAM_UNCORRECTABLE := by
        unfold counterLost
        rw [if_pos (by rwa [updTaken_counter])]
        rfl
      rw [e]
      exact (updFault_faults _ _ _ _).killWaiters
  · exact congrArg Host.Outcome.next ((congrArg killWaiters (counterStep_idle hi)).trans (killWaiters_of_none hnone))

end Sys2Proof.Machine
end

section
/-! SUPPORT. A signal that is sent: where its update waits at the counter's home (R148, R156, R301, R302). Tiles that arrive,
credits that return and values that are pushed (R115, R116, R118, R153, R419). -/

namespace Sys2Proof.Machine

/-! ## The order of updates at a home core (R301) -/

/-- The cycle first, then the place of the source. -/
theorem notAfter_iff (h : Nat) (v u : Update) : v.notAfter h u = true ↔
    v.cycle < u.cycle ∨ (v.cycle = u.cycle ∧ v.source.rank h ≤ u.source.rank h) := by
  unfold Update.notAfter
  simp

theorem notAfter_trans {h : Nat} {v u w : Update} (a : v.notAfter h u = true) (b : u.notAfter h w = true) : v.notAfter h w = true := by
  rw [notAfter_iff] at *
  omega

/-- The way to a home starts in the current cycle, and no update overtakes an earlier one of its source (R302). -/
theorem le_arrivalCycle (now home : Nat) (src : UpdSource) (l : List Update) : now ≤ arrivalCycle now home src l ∧
    ∀ v ∈ l, v.source.sender = src.sender → v.cycle ≤ arrivalCycle now home src l := by
  have fold (k : List Update) (n : Nat) : n ≤ k.foldl (fun n v => max n v.cycle) n ∧
      ∀ v ∈ k, v.cycle ≤ k.foldl (fun n v => max n v.cycle) n := by
    induction k generalizing n with
    | nil => exact ⟨Nat.le_refl n, fun v hv => absurd hv List.not_mem_nil⟩
    | cons w k ih =>
      obtain ⟨hn, hk⟩ := ih (max n w.cycle)
      refine ⟨(Nat.le_max_left _ _).trans hn, fun v hv => ?_⟩
      rcases List.mem_cons.1 hv with rfl | hv
      · exact (Nat.le_max_right _ _).trans hn
      · exact hk v hv
  obtain ⟨hnow, hall⟩ := fold (l.filter fun v => v.source.sender == src.sender)
    (now + if src.sender = some home then 0 else Config.travel (src.rank home) home now)
  exact ⟨(Nat.le_add_right _ _).trans hnow, fun v hv he => hall v (List.mem_filter.2 ⟨hv, beq_iff_eq.2 he⟩)⟩

/-- Two updates of one sender have one place among those of a cycle. -/
theorem rank_of_sender {a b : UpdSource} (h : Nat) (e : a.sender = b.sender) : a.rank h = b.rank h := by
  unfold UpdSource.rank
  rw [e]

/-- An update that is placed behind those that it does not precede: in an ordered list, none of its sender stands behind it. -/
theorem sender_before {h : Nat} {l : List Update} {u : Update}
    (hlate : ∀ v ∈ l, v.source.sender = u.source.sender → v.cycle ≤ u.cycle)
    (hord : l.Pairwise fun v w => v.notAfter h w = true) :
    ∀ v ∈ l.dropWhile fun v => v.notAfter h u, v.source.sender ≠ u.source.sender := by
  intro v hv he
  have hsuffix : (l.dropWhile fun v => v.notAfter h u).Sublist l := List.dropWhile_sublist _
  have hvu : v.notAfter h u = true := by
    have := hlate v (hsuffix.subset hv) he
    have := rank_of_sender h he
    rw [notAfter_iff]
    omega
  have hpair := hord.sublist hsuffix
  cases hd : l.dropWhile fun v => v.notAfter h u with
  | nil => rw [hd] at hv; exact absurd hv List.not_mem_nil
  | cons w k =>
    have hw : w.notAfter h u ≠ true := by
      have := List.head?_dropWhile_not (fun v => v.notAfter h u) l
      rw [hd] at this
      simpa using this
    rw [hd] at hv hpair
    rcases List.mem_cons.1 hv with rfl | hv
    · exact hw hvu
    · exact hw (notAfter_trans ((List.pairwise_cons.1 hpair).1 v hv) hvu)

/-! ## A signal that is sent -/

/-- An update as it stands at its counter's home: with the cycle in which it reaches it. -/
def State.placed (s : State) (u : Update) : Update :=
  { u with cycle := arrivalCycle (s.esc.time.toNat / 2) (ctrHome u.id) u.source (tget [] s.updates (ctrHome u.id)) }

/-- An update that is sent waits behind those that come no later, and behind every earlier one of its sender (R301, R302). -/
theorem sendUpdate_placed (s : State) (u : Update) : s.arithCycle ≤ (s.placed u).cycle ∧
    ∃ l r, tget [] s.updates (ctrHome u.id) = l ++ r ∧
      (sendUpdate s u).updates = tput s.updates (ctrHome u.id) (l ++ s.placed u :: r) ∧
      (∀ v ∈ l, v.notAfter (ctrHome u.id) (s.placed u) = true) ∧
      (∀ v, r.head? = some v → v.notAfter (ctrHome u.id) (s.placed u) = false) ∧
      ((l ++ r).Pairwise (fun v w => v.notAfter (ctrHome u.id) w = true) → ∀ v ∈ r, v.source.sender ≠ u.source.sender) := by
  obtain ⟨hnow, hlate⟩ := le_arrivalCycle (s.esc.time.toNat / 2) (ctrHome u.id) u.source (tget [] s.updates (ctrHome u.id))
  have hsplit := List.takeWhile_append_dropWhile (p := fun v => v.notAfter (ctrHome u.id) (s.placed u))
    (l := tget [] s.updates (ctrHome u.id))
  refine ⟨hnow, _, _, hsplit.symm, rfl, fun v hv => ?_, fun v hv => ?_, fun hp => ?_⟩
  · exact List.mem_takeWhile_imp (p := fun (v : Update) => v.notAfter (ctrHome u.id) (s.placed u)) hv
  · have := List.head?_dropWhile_not (fun v => v.notAfter (ctrHome u.id) (s.placed u)) (tget [] s.updates (ctrHome u.id))
    rw [hv] at this
    simpa using this
  · rw [hsplit] at hp
    exact sender_before (u := s.placed u) hlate hp

/-- A signal that is due acts on its core's flags, or its update waits at its counter's home behind those it may not overtake. -/
theorem fireSignal_signalled (s : State) (c n pc : Nat) (stream : Bool) (sig : Sig) :
    Signalled s (fireSignal s c (some n) pc stream sig) c n pc (if stream then .stream c else .core c) sig := by
  cases sig with
  | none => exact ⟨rfl, rfl⟩
  | fset m => exact ⟨by simp [fireSignal, State.modCore_eq], rfl⟩
  | fclr m => exact ⟨by simp [fireSignal, State.modCore_eq], rfl⟩
  | cadd id a =>
    obtain ⟨hcycle, hplace⟩ := sendUpdate_placed s ⟨id, a, if stream then .stream c else .core c, some n, pc, 0⟩
    exact ⟨rfl, _, rfl, rfl, rfl, rfl, rfl, hcycle, hplace⟩

/-- What a signal is sent in may differ from another state in all but the flags, the updates and the time. -/
theorem Signalled.of_kept {s s' t : State} {c n pc : Nat} {src : UpdSource} {sig : Sig} (h : Signalled s' t c n pc src sig)
    (hf : (s'.core c).flags = (s.core c).flags) (hu : s'.updates = s.updates) (he : s'.esc = s.esc) :
    Signalled s t c n pc src sig := by
  cases sig <;> simpa only [Signalled, State.arithCycle, hf, hu, he] using h

/-- A signal changes no more of a core than its flags. -/
theorem fireSignal_core (s : State) (c : Nat) (job : Option Nat) (pc : Nat) (stream : Bool) (sig : Sig) (d : Nat) :
    ∃ f, (fireSignal s c job pc stream sig).core d = { s.core d with flags := f } := by
  have flagged (g : Core → BitVec 64) : ∃ f, (s.modCore c fun k => { k with flags := g k }).core d = { s.core d with flags := f } := by
    rw [State.modCore_eq]
    by_cases e : d = c
    · exact ⟨g (s.core c), e ▸ State.setCore_core _ _ _⟩
    · exact ⟨(s.core d).flags, State.setCore_core_ne _ _ _ _ e⟩
  cases sig with
  | none => exact ⟨_, rfl⟩
  | cadd id a => exact ⟨_, rfl⟩
  | fset m => exact flagged _
  | fclr m => exact flagged _

/-- A signal that a running job of the core may send is sent. -/
theorem sendSignal_of_may {s : State} {c n : Nat} {j : Job} {sig : Sig} (hn : (s.core c).job = some n) (hj : s.job n = some j)
    (hk : j.kill = none) (hmay : ∀ id a, sig = .cadd id a → s.coreMayUse j .add id = true) (pc : Nat) (stream : Bool) :
    sendSignal s c pc stream sig = fireSignal s c (some n) pc stream sig := by
  unfold sendSignal
  simp only [hn, hj, hk, Option.isSome_none, Bool.false_eq_true, if_false]
  cases sig with
  | cadd id a => exact if_pos (hmay id a rfl)
  | _ => rfl

/-- A signal to a counter that the job may not add to halts the core (R148). -/
theorem sendSignal_of_breach {s : State} {c n : Nat} {j : Job} {id : BitVec 17} {a : W32} (hn : (s.core c).job = some n)
    (hj : s.job n = some j) (hk : j.kill = none) (hmay : s.coreMayUse j .add id = false) (pc : Nat) (stream : Bool) :
    sendSignal s c pc stream (.cadd id a) = haltAt s c Config.COUNTER_OWNER pc (id.setWidth 64) := by
  unfold sendSignal
  simp only [hn, hj, hk, hmay, Option.isSome_none, Bool.false_eq_true, if_false]

end Sys2Proof.Machine
end

section
/-! SUPPORT. Tiles that arrive, credits that return and values that are pushed (R115, R116, R118, R153, R419). -/

namespace Sys2Proof.Machine

/-! ## Lane records -/

/-- What the protection of a lane record finds is counted, where it can be corrected. -/
theorem laneErr_counts (s : State) (err : SramErr) :
    Only (if err = .corrected then [.fr, .chime, .obs] else []) s (laneErr s err) := by
  cases err with
  | corrected => exact (frCorrected_only s 6).wider rfl
  | _ => exact .refl _ s

theorem laneErr_core (s : State) (err : SramErr) (d : Nat) : (laneErr s err).core d = s.core d := by
  cases err with
  | corrected => exact frCorrected_core s 6 d
  | _ => rfl

/-- The station's job that a lost lane record kills (R118, R419). -/
def State.laneJob (s : State) (c key : Nat) : Option (Nat × Job) :=
  s.jobs.find? fun x => x.2.kind == .station (key / 64) && x.2.cores.contains c

theorem laneLost_stops (s : State) (c key : Nat) : Stops s (laneLost s c key) := by
  unfold laneLost
  split
  · exact (errRecord_reports _ _ _ _ _ _ _).stops.trans (killJob_stops _ _ _ _ _)
  · exact .refl s

/-- A lost lane record kills the job of its station on the core. -/
theorem laneLost_killed {s : State} {c key n : Nat} {j : Job} (hf : s.laneJob c key = some (n, j)) (hj : s.job n = some j)
    (hk : j.kill = none) :
    ∃ k, (laneLost s c key).job n = some k ∧ k.kill = some .fault ∧ k.killCode = Config.SRAM_UNCORRECTABLE := by
  have hc : c ∈ j.cores := by
    have := List.find?_some hf
    simp only [Bool.and_eq_true] at this
    exact List.contains_iff_mem.1 this.2
  have e : laneLost s c key = killJob (errRecord s 1 (some 6) (some c) (some j.part) Config.SRAM_UNCORRECTABLE 0) n .fault
      Config.SRAM_UNCORRECTABLE 0#64 := by
    unfold laneLost
    rw [show s.jobs.find? (fun j => j.2.kind == .station (key / 64) && j.2.cores.contains c) = some (n, j) from hf]
  rw [e]
  exact ⟨_, killJob_job _ _ _ ((errRecord_job _ _ _ _ _ _ _ n).trans hj)
    ((Job.killable_iff j).2 ⟨hk, List.ne_nil_of_mem hc⟩), rfl, rfl⟩

/-- A lane record that is lost: the core's record becomes as given, its station's job is killed, scratch stands. -/
theorem modCore_laneLost {s : State} {c key : Nat} {f : Core → Core} (hs : (f (s.core c)).scratch = (s.core c).scratch) :
    ((laneLost (s.modCore c f) c key).core c).recvLanes = (f (s.core c)).recvLanes ∧
      ((laneLost (s.modCore c f) c key).core c).sendLanes = (f (s.core c)).sendLanes ∧
      ScratchKept s (laneLost (s.modCore c f) c key) ∧
      (∀ n j, s.laneJob c key = some (n, j) → s.job n = some j → j.kill = none →
        ∃ k, (laneLost (s.modCore c f) c key).job n = some k ∧ k.kill = some .fault ∧ k.killCode = Config.SRAM_UNCORRECTABLE) ∧
      Only haltCoreParts s (laneLost (s.modCore c f) c key) := by
  have hstops := (laneLost_stops (s.modCore c f) c key).2
  have hself : (s.modCore c f).core c = f (s.core c) := by rw [State.modCore_eq, State.setCore_core]
  refine ⟨(hstops c).recvLanes.trans (congrArg Core.recvLanes hself), (hstops c).sendLanes.trans (congrArg Core.sendLanes hself),
    fun d => (hstops d).scratch.trans ?_, fun n j hf hj hk => laneLost_killed (s := s.modCore c f) hf hj hk,
    (laneLost_only _ _ _).step (by decide) ((State.modCore_only _ _ _).wider (by decide))⟩
  by_cases e : d = c
  · rw [e, hself, hs]
  · rw [State.modCore_eq, State.setCore_core_ne _ _ _ _ e]

/-! ## A tile arrives -/

/-- The core after a tile has filled the next slot of its lane. -/
def Core.arrived (k : Core) (key : Nat) (r : RecvLane) (f : Flit) : Core :=
  { k.putScratch r.nextAt f.bytes with recvLanes := tput k.recvLanes key r.arrive }

section
variable {s : State} {c lane key : Nat} {r : RecvLane} {f : Flit} {rest : List Flit} {err : SramErr}
  (hl : laneFirst (s.ownLane c lane) lane (s.core c).recvLanes (s.core c).tileNext = some (key, r)) (hf : r.inFlight = f :: rest)
include hl hf

theorem tileArrives_eq (he : err ≠ .uncorrectable) :
    tileArrives s c lane err = fireSignal ((laneErr s err).modCore c fun k => k.arrived key r f) f.src
      (((laneErr s err).modCore c fun k => k.arrived key r f).core f.src).job f.pc true f.sig := by
  unfold tileArrives
  rw [hl]
  dsimp only
  rw [hf]
  exact if_neg he

theorem tileArrives_lost : tileArrives s c lane .uncorrectable =
    laneLost (s.modCore c fun k => { k with recvLanes := tput k.recvLanes key { r with inFlight := r.inFlight.drop 1 } }) c key := by
  unfold tileArrives
  rw [hl]
  dsimp only
  rw [hf]
  rfl

end

/-- A tile that arrives fills its slot, and the signal behind it is sent from its source (R116, R120). -/
theorem arrived_spec (s : State) (c key : Nat) (r : RecvLane) (f : Flit) (err : SramErr) (t : State)
    (ht : t = fireSignal ((laneErr s err).modCore c fun k => k.arrived key r f) f.src
      (((laneErr s err).modCore c fun k => k.arrived key r f).core f.src).job f.pc true f.sig) :
    (t.core c).recvLanes = tput (s.core c).recvLanes key r.arrive ∧
      (t.core c).scratch = memPutAll (s.core c).scratch r.nextAt f.bytes ∧
      (∀ d, d ≠ c → (t.core d).scratch = (s.core d).scratch) ∧
      (∀ n, (s.core f.src).job = some n → Signalled s t f.src n f.pc (.stream f.src) f.sig) ∧
      Only ([.cores, .updates] ++ if err = .corrected then [.fr, .chime, .obs] else []) s t := by
  obtain ⟨u, hu⟩ : ∃ u, u = (laneErr s err).modCore c fun k => k.arrived key r f := ⟨_, rfl⟩
  rw [← hu] at ht
  subst ht
  have hself : u.core c = (s.core c).arrived key r f := by rw [hu, State.modCore_eq, State.setCore_core, laneErr_core]
  have hne (d : Nat) (h : d ≠ c) : u.core d = s.core d := by
    rw [hu, State.modCore_eq, State.setCore_core_ne _ _ _ _ h, laneErr_core]
  have hkept (d : Nat) : (u.core d).job = (s.core d).job ∧ (u.core d).flags = (s.core d).flags := by
    by_cases e : d = c
    · rw [e, hself]; exact ⟨rfl, rfl⟩
    · rw [hne d e]; exact ⟨rfl, rfl⟩
  have honly : Only ([.cores, .updates] ++ if err = .corrected then [.fr, .chime, .obs] else []) s u := by
    rw [hu]
    exact (State.modCore_only _ _ _).step (by cases err <;> decide) ((laneErr_counts s err).wider (by cases err <;> decide))
  have hupd : u.updates = s.updates := by
    rw [hu]; exact laneErr_counts s err .updates (by cases err <;> decide)
  have hesc : u.esc = s.esc := by
    rw [hu]; exact laneErr_counts s err .esc (by cases err <;> decide)
  obtain ⟨fl, hfl⟩ := fireSignal_core u f.src (u.core f.src).job f.pc true f.sig c
  refine ⟨by rw [hfl, hself]; rfl, by rw [hfl, hself]; rfl, fun d hd => ?_, fun n hn => ?_, ?_⟩
  · obtain ⟨fd, hfd⟩ := fireSignal_core u f.src (u.core f.src).job f.pc true f.sig d
    rw [hfd, ← hne d hd]
  · rw [(hkept f.src).1, hn]
    exact Signalled.of_kept (fireSignal_signalled u f.src n f.pc true f.sig) (hkept f.src).2 hupd hesc
  · exact (fireSignal_only _ _ _ _ _ _).step (by cases err <;> decide) honly

/-! ## A credit returns -/

section
variable {s : State} {c lane key : Nat} {x : SendLane} {err : SramErr}
  (hl : laneFirst (s.ownLane c lane) lane (s.core c).sendLanes (fun x => decide (0 < x.returning)) = some (key, x))
include hl

theorem creditArrives_eq (he : err ≠ .uncorrectable) : creditArrives s c lane err = (laneErr s err).modCore c fun k => { k with
    sendLanes := tput k.sendLanes key { x with credits := x.credits + 1, returning := x.returning - 1 } } := by
  unfold creditArrives
  rw [hl]
  exact if_neg he

theorem creditArrives_lost : creditArrives s c lane .uncorrectable =
    laneLost (s.modCore c fun k => { k with sendLanes := tput k.sendLanes key { x with returning := x.returning - 1 } }) c key := by
  unfold creditArrives
  rw [hl]
  rfl

end

/-! ## The rows -/

section
variable {s : State} (h : s.obs.halted = false)
include h

theorem exec_tileArrival (core : BitVec 4) (err : SramErr) (lane : BitVec 6) :
    exec (.tileArrival ⟨core, err⟩ lane) s = .next (tileArrives s core.toNat lane.toNat err) := by
  refine congrArg Host.Outcome.next (if_neg ?_)
  rw [h]
  exact Bool.false_ne_true

theorem exec_creditReturn (core : BitVec 4) (err : SramErr) (lane : BitVec 6) :
    exec (.creditReturn ⟨core, err⟩ lane) s = .next (creditArrives s core.toNat lane.toNat err) := by
  refine congrArg Host.Outcome.next (if_neg ?_)
  rw [h]
  exact Bool.false_ne_true

theorem exec_watchPush (core : BitVec 4) : exec (.watchPush core) s = .next (watchPush s core.toNat) := by
  refine congrArg Host.Outcome.next (if_neg ?_)
  rw [h]
  exact Bool.false_ne_true

end

/-- Settles O27: the tile or credit that is first on its lane arrives, with what the protection of its record finds; a watch sees
the oldest value pushed. -/
theorem tilesCreditsAndWatches : Obligations.TilesCreditsAndWatches := by
  refine ⟨fun s core lane h => ?_, fun s core lane h => ?_⟩
  · intro c counts killed
    refine ⟨fun key r f rest hl hf => ⟨fun err he => ?_, ?_⟩, fun hl err => ?_, fun key x hl => ⟨fun err he => ?_, ?_⟩,
      fun hl err => ?_, fun w v rest hw hp => ?_, fun w hw hp => ?_, fun hw => ?_⟩
    · obtain ⟨hrecv, hscratch, hothers, hsig, honly⟩ := arrived_spec s c key r f err _ (tileArrives_eq hl hf he)
      refine ⟨_, exec_tileArrival h core err lane, ?_, fun k hk => ?_, hscratch, hothers, hsig, honly⟩
      · rw [hrecv, tfind_tput_self]
        unfold RecvLane.arrive
        rw [hf]
        rfl
      · rw [hrecv, tfind_tput_ne _ _ _ _ hk]
    · refine ⟨_, exec_tileArrival h core .uncorrectable lane, ?_⟩
      rw [tileArrives_lost hl hf]
      obtain ⟨hrecv, -, hscratch, hkilled, honly⟩ := modCore_laneLost (s := s) (c := c) (key := key)
        (f := fun k => { k with recvLanes := tput k.recvLanes key { r with inFlight := r.inFlight.drop 1 } }) rfl
      refine ⟨?_, honly .updates (by decide), hscratch, hkilled, honly.wider (by decide)⟩
      rw [hrecv, tfind_tput_self, hf]
      rfl
    · rw [exec_tileArrival h]
      unfold tileArrives
      rw [hl]
    · refine ⟨_, exec_creditReturn h core err lane, ?_⟩
      rw [creditArrives_eq hl he]
      have hcores : (laneErr s err).cores = s.cores := laneErr_counts s err .cores (by cases err <;> decide)
      refine ⟨?_, (State.modCore_only _ _ _).step (by cases err <;> decide)
        ((laneErr_counts s err).wider (by cases err <;> decide))⟩
      unfold State.modCore State.setCore
      rw [laneErr_core, hcores]
    · refine ⟨_, exec_creditReturn h core .uncorrectable lane, ?_⟩
      rw [creditArrives_lost hl]
      obtain ⟨-, hsend, hscratch, hkilled, honly⟩ := modCore_laneLost (s := s) (c := c) (key := key)
        (f := fun k => { k with sendLanes := tput k.sendLanes key { x with returning := x.returning - 1 } }) rfl
      refine ⟨?_, hscratch, hkilled, honly.wider (by decide)⟩
      rw [hsend, tfind_tput_self]
    · rw [exec_creditReturn h]
      unfold creditArrives
      rw [hl]
    · rw [exec_watchPush h]
      unfold watchPush
      rw [hw]
      dsimp only
      rw [hp]
    · rw [exec_watchPush h]
      unfold watchPush
      rw [hw]
      dsimp only
      rw [hp]
    · rw [exec_watchPush h]
      unfold watchPush
      rw [hw]
  · exact ⟨fun err => ⟨congrArg Host.Outcome.next (if_pos h), congrArg Host.Outcome.next (if_pos h)⟩,
      congrArg Host.Outcome.next (if_pos h)⟩

end Sys2Proof.Machine
end

section
/-! SUPPORT. The end of a stream operation: it leaves its thread, its signal is sent, a SEND's tiles are under way, the stores
before a FENCE are covered (R120 to R122, R130). -/

namespace Sys2Proof.Machine

theorem engaged_job {s : State} {c n : Nat} {j : Job} (h : s.engaged c = some (n, j)) :
    (s.core c).job = some n ∧ s.job n = some j ∧ j.kill = none ∧ (s.core c).st = .running ∧ Running' s := by
  unfold State.engaged at h
  split at h
  next hrun =>
    simp only [Bool.and_eq_true, Bool.not_eq_true', beq_iff_eq] at hrun
    obtain ⟨⟨hst, hhalt⟩, halive⟩ := hrun
    split at h
    · exact absurd h (by simp)
    next m hm =>
      split at h
      next k hk =>
        split at h
        next hkill =>
          obtain ⟨rfl, rfl⟩ := Prod.mk.inj (Option.some.inj h)
          exact ⟨hm, hk, Option.isNone_iff_eq_none.1 hkill, hst, halive, hhalt⟩
        · exact absurd h (by simp)
      · exact absurd h (by simp)
  · exact absurd h (by simp)

/-! ## The operation leaves its thread -/

/-- A thread without an operation that has ended. -/
def Thread.without (t : Thread) (id : Nat) : Thread := { t with active := t.active.filter fun p => p.id != id }

/-- The core once an operation of a thread has ended. -/
def Core.opEnded (k : Core) (t id : Nat) : Core :=
  { k with se := { k.se with threads := tput k.se.threads t ((k.se.thread t).without id) } }

theorem opEnded_thread (k : Core) (t id : Nat) : (k.opEnded t id).se.thread t = (k.se.thread t).without id :=
  tget_tput_self _ _ _ _

section
variable {s : State} {c n t : Nat} {j : Job} {o : StreamOp} (he : s.engaged c = some (n, j))
  (hd : ((s.core c).se.thread t).active.find? (s.opDone c t) = some o)
include he hd

theorem streamComplete_send (h : o.kind = .send) :
    streamComplete s c t = finishSend (s.modCore c fun k => k.opEnded t o.id) c j o := by
  unfold streamComplete
  rw [he, hd]
  dsimp only
  rw [h]
  rfl

theorem streamComplete_fence (h : o.kind = .fence) : streamComplete s c t =
    sendSignal (finishFence (s.modCore c fun k => k.opEnded t o.id) c n t o.id) c o.pc true o.sig := by
  unfold streamComplete
  rw [he, hd]
  dsimp only
  rw [h]
  rfl

theorem streamComplete_data (h : o.kind = .load ∨ o.kind = .store ∨ o.kind = .mcast) :
    streamComplete s c t = sendSignal (s.modCore c fun k => k.opEnded t o.id) c o.pc true o.sig := by
  unfold streamComplete
  rw [he, hd]
  dsimp only
  rcases h with h | h | h <;> rw [h] <;> rfl

end

/-- What the end of an operation leaves of the cores: all but the thread. -/
structure OpLeft (s u : State) (c t id : Nat) : Prop where
  self : u.core c = (s.core c).opEnded t id
  other : ∀ d, d ≠ c → u.core d = s.core d

theorem opEnded_left (s : State) (c t id : Nat) : OpLeft s (s.modCore c fun k => k.opEnded t id) c t id :=
  ⟨by rw [State.modCore_eq, State.setCore_core], fun d h => by rw [State.modCore_eq, State.setCore_core_ne _ _ _ _ h]⟩

theorem OpLeft.scratch {s u : State} {c t id : Nat} (h : OpLeft s u c t id) (d : Nat) : (u.core d).scratch = (s.core d).scratch := by
  by_cases e : d = c
  · rw [e, h.self]; rfl
  · rw [h.other d e]

theorem OpLeft.lanes {s u : State} {c t id : Nat} (h : OpLeft s u c t id) (d : Nat) :
    (u.core d).recvLanes = (s.core d).recvLanes ∧ (u.core d).sendLanes = (s.core d).sendLanes := by
  by_cases e : d = c
  · rw [e, h.self]; exact ⟨rfl, rfl⟩
  · rw [h.other d e]; exact ⟨rfl, rfl⟩

/-- The signal of an operation that has left its thread. -/
theorem fireSignal_left {s u : State} {c n t id : Nat} (h : OpLeft s u c t id) (hu : u.updates = s.updates) (he : u.esc = s.esc)
    (pc : Nat) (sig : Sig) : let v := fireSignal u c (some n) pc true sig
    (v.core c).se.thread t = ((s.core c).se.thread t).without id ∧ Signalled s v c n pc (.stream c) sig ∧ ScratchKept s v := by
  intro v
  refine ⟨?_, Signalled.of_kept (fireSignal_signalled u c n pc true sig) (by rw [h.self]; rfl) hu he, fun d => ?_⟩
  · obtain ⟨f, hf⟩ := fireSignal_core u c (some n) pc true sig c
    rw [hf, h.self]
    exact opEnded_thread _ _ _
  · obtain ⟨f, hf⟩ := fireSignal_core u c (some n) pc true sig d
    rw [hf]
    exact h.scratch d

/-! ## Tiles under way (R112, R118, R120) -/

/-- What tiles that enter their lanes leave of a core. -/
def SendKept (k l : Core) : Prop := l.se.threads = k.se.threads ∧ l.scratch = k.scratch ∧ l.flags = k.flags ∧ l.job = k.job

theorem SendKept.trans {k l m : Core} (h : SendKept k l) (g : SendKept l m) : SendKept k m :=
  ⟨g.1.trans h.1, g.2.1.trans h.2.1, g.2.2.1.trans h.2.2.1, g.2.2.2.trans h.2.2.2⟩

/-- The lanes of a core once a tile has entered one of them. -/
def Core.tileOn (k : Core) (key : Nat) (f : Flit) : Core := match tfind k.recvLanes key with
  | some r => { k with recvLanes := tput k.recvLanes key { r with inFlight := r.inFlight ++ [f] } }
  | none => k

/-- The core that has sent a tile counts it. -/
def Core.tileSent (k : Core) : Core := { k with se := { k.se with sentTiles := k.se.sentTiles + 1 } }

theorem sendTile_eq (s : State) (d : Nat × Nat) (f : Flit) : sendTile s d f =
    (s.modCore f.src Core.tileSent).modCore d.1 fun k => k.tileOn d.2 { f with order := (s.core f.src).se.sentTiles } := rfl

theorem modCore_core (s : State) (c : Nat) (f : Core → Core) (d : Nat) :
    (s.modCore c f).core d = if d = c then f (s.core d) else s.core d := by
  rw [State.modCore_eq]
  split
  next e => rw [e, State.setCore_core]
  next e => rw [State.setCore_core_ne _ _ _ _ e]

theorem tileOn_kept (k : Core) (key : Nat) (f : Flit) : SendKept k (k.tileOn key f) := by
  unfold Core.tileOn
  split
  · exact ⟨rfl, rfl, rfl, rfl⟩
  · exact ⟨rfl, rfl, rfl, rfl⟩

theorem tileOn_lane (k : Core) (key : Nat) (f : Flit) (m : Nat) : tfind (k.tileOn key f).recvLanes m =
    (tfind k.recvLanes m).map fun r => if m = key then { r with inFlight := r.inFlight ++ [f] } else r := by
  unfold Core.tileOn
  by_cases e : m = key
  · subst e
    cases h : tfind k.recvLanes m with
    | none => simp [h]
    | some r => simp [tfind_tput_self]
  · simp only [if_neg e, Option.map_id']
    split
    · exact tfind_tput_ne _ _ _ _ e
    · rfl

theorem sendTile_kept (s : State) (d : Nat × Nat) (f : Flit) (e : Nat) : SendKept (s.core e) ((sendTile s d f).core e) := by
  have hsent : SendKept (s.core e) ((s.modCore f.src Core.tileSent).core e) := by
    rw [modCore_core]
    split
    · exact ⟨rfl, rfl, rfl, rfl⟩
    · exact ⟨rfl, rfl, rfl, rfl⟩
  rw [sendTile_eq, modCore_core]
  split
  · exact hsent.trans (tileOn_kept _ _ _)
  · exact hsent

/-- A tile enters its lane behind those under way there. -/
theorem sendTile_lane (s : State) (d : Nat × Nat) (f : Flit) (e key : Nat) :
    tfind ((sendTile s d f).core e).recvLanes key = (tfind (s.core e).recvLanes key).map fun r =>
      if (e, key) = d then { r with inFlight := r.inFlight ++ [{ f with order := (s.core f.src).se.sentTiles }] } else r := by
  obtain ⟨dc, dk⟩ := d
  have hsent : ((s.modCore f.src Core.tileSent).core e).recvLanes = (s.core e).recvLanes := by
    rw [modCore_core]
    split <;> rfl
  rw [sendTile_eq, modCore_core]
  by_cases hc : e = dc
  · rw [if_pos hc, tileOn_lane, hsent]
    simp only [Prod.mk.injEq, hc, true_and]
  · rw [if_neg hc, hsent]
    simp [hc]

/-- One tile on each lane of a SEND. -/
def sendTiles (s : State) (dsts : List (Nat × Nat)) (f : Nat × Nat → Flit) : State := dsts.foldl (fun s d => sendTile s d (f d)) s

theorem sendTiles_kept (s : State) (dsts : List (Nat × Nat)) (f : Nat × Nat → Flit) (e : Nat) :
    SendKept (s.core e) ((sendTiles s dsts f).core e) := by
  induction dsts generalizing s with
  | nil => exact ⟨rfl, rfl, rfl, rfl⟩
  | cons d l ih => exact (sendTile_kept s d (f d) e).trans (ih _)

theorem sendTiles_cores (s : State) (dsts : List (Nat × Nat)) (f : Nat × Nat → Flit) :
    ∃ k, sendTiles s dsts f = { s with cores := k } := by
  induction dsts generalizing s with
  | nil => exact ⟨_, rfl⟩
  | cons d l ih => exact ih (sendTile s d (f d))

theorem sendTiles_lane_other (s : State) (dsts : List (Nat × Nat)) (f : Nat × Nat → Flit) {d : Nat × Nat} (hd : d ∉ dsts) :
    tfind ((sendTiles s dsts f).core d.1).recvLanes d.2 = tfind (s.core d.1).recvLanes d.2 := by
  induction dsts generalizing s with
  | nil => rfl
  | cons x l ih =>
    obtain ⟨hx, hl⟩ := not_or.1 (List.mem_cons.not.1 hd)
    refine (ih (sendTile s x (f x)) hl).trans ?_
    rw [sendTile_lane]
    simp only [Prod.mk.eta, if_neg hx, Option.map_id']

/-- Each lane of a SEND has one tile more under way (R120). -/
theorem sendTiles_lane {s : State} {dsts : List (Nat × Nat)} {f : Nat × Nat → Flit} (hnodup : dsts.Nodup) {d : Nat × Nat}
    (hd : d ∈ dsts) {r : RecvLane} (hr : tfind (s.core d.1).recvLanes d.2 = some r) :
    ∃ order, tfind ((sendTiles s dsts f).core d.1).recvLanes d.2 =
      some { r with inFlight := r.inFlight ++ [{ f d with order := order }] } := by
  induction dsts generalizing s with
  | nil => exact absurd hd List.not_mem_nil
  | cons x l ih =>
    obtain ⟨hx, hl⟩ := List.nodup_cons.1 hnodup
    have hlane := sendTile_lane s x (f x) d.1 d.2
    rw [hr] at hlane
    rcases List.mem_cons.1 hd with rfl | hmem
    · rw [Option.map_some, if_pos rfl] at hlane
      exact ⟨_, (sendTiles_lane_other _ l f hx).trans hlane⟩
    · rw [Option.map_some, if_neg (by rintro rfl; exact hx hmem)] at hlane
      exact ih hl hmem hlane

/-! ## The end of a SEND (R120, R121) -/

/-- The tile that a SEND puts on a lane, and the signal behind it. -/
def sendFlit (bs : List Byte) (c pc : Nat) (sig : Sig) : Flit := { bytes := bs, sig := sig, src := c, pc := pc, order := 0 }

theorem lastLane_home {dsts : List (Nat × Nat)} {home : Option Nat} {r : Nat × Nat} (h : lastLane dsts home = some r) :
    home = some r.1 := by
  have := List.mem_of_getLast? h
  simp only [List.mem_filter, beq_iff_eq] at this
  exact this.2.symm

/-- A completed SEND whose job may send its signal: one tile on each lane, the signal behind one of them or sent at once. -/
theorem finishSend_eq {u : State} {c n : Nat} {j : Job} {o : StreamOp} (hn : (u.core c).job = some n) (hj : u.job n = some j)
    (hk : j.kill = none) (hmine : ∀ id a, o.sig = .cadd id a → u.coreMayUse j .add id = true) :
    ∃ g : Nat × Nat → Sig, (∀ d, g d = .none ∨ (g d = o.sig ∧ o.sig.home = some d.1)) ∧
      (finishSend u c j o = sendTiles u (o.lanes.map fun l => (u.sendLane c j l).dst)
          (fun d => sendFlit (u.opndRead c j o.scratch o.len) c o.pc (g d)) ∨
        finishSend u c j o = fireSignal (sendTiles u (o.lanes.map fun l => (u.sendLane c j l).dst)
          (fun d => sendFlit (u.opndRead c j o.scratch o.len) c o.pc (g d))) c (some n) o.pc true o.sig) := by
  cases hl : lastLane (o.lanes.map fun l => (u.sendLane c j l).dst) o.sig.home with
  | none =>
    refine ⟨fun _ => .none, fun _ => .inl rfl, .inr ?_⟩
    have hkept := sendTiles_kept u (o.lanes.map fun l => (u.sendLane c j l).dst)
      (fun _ => sendFlit (u.opndRead c j o.scratch o.len) c o.pc .none) c
    obtain ⟨k, hcores⟩ := sendTiles_cores u (o.lanes.map fun l => (u.sendLane c j l).dst)
      (fun _ => sendFlit (u.opndRead c j o.scratch o.len) c o.pc .none)
    have hfinish : finishSend u c j o = sendSignal (sendTiles u (o.lanes.map fun l => (u.sendLane c j l).dst)
        (fun _ => sendFlit (u.opndRead c j o.scratch o.len) c o.pc .none)) c o.pc true o.sig := by
      unfold finishSend
      dsimp only
      rw [hl]
      rfl
    rw [hcores] at hkept hfinish ⊢
    rw [hfinish]
    exact sendSignal_of_may (hkept.2.2.2.trans hn) hj hk hmine o.pc true
  | some r =>
    have hhome := lastLane_home hl
    refine ⟨fun d => if d = r then o.sig else .none, fun d => ?_, .inl ?_⟩
    · dsimp only
      split
      next e => exact .inr ⟨rfl, e ▸ hhome⟩
      · exact .inl rfl
    · unfold finishSend
      dsimp only
      rw [hl]
      dsimp only
      cases hs : o.sig with
      | cadd id a =>
        have hmay := hmine id a hs
        refine (if_pos hmay).trans ?_
        simp only [hmay, and_true]
        rfl
      | _ =>
        simp only [and_true, if_true]
        rfl

theorem exec_streamOpComplete (core : BitVec 4) (th : BitVec 6) (s : State) :
    exec (.streamOpComplete core th) s = .next (streamComplete s core.toNat th.toNat) := rfl

/-- Settles O26: the operation leaves its thread; then its signal is sent, a SEND's tiles enter their lanes, or the stores before a
FENCE are covered. -/
theorem streamOperationsComplete : Obligations.StreamOperationsComplete := by
  refine ⟨fun s core th n j o he hd => ?_, fun s core th h => ?_⟩
  · intro c x t0 left mine
    obtain ⟨hn, hj, hk, -, -⟩ := engaged_job he
    obtain ⟨u, hu⟩ : ∃ u, u = s.modCore c fun k => k.opEnded th.toNat o.id := ⟨_, rfl⟩
    have hleft : OpLeft s u c th.toNat o.id := hu ▸ opEnded_left s c th.toNat o.id
    have hjob : (u.core c).job = some n := by rw [hleft.self]; exact hn
    obtain ⟨k, hcores⟩ : ∃ k, u = { s with cores := k } := ⟨_, hu⟩
    have honly : Only [.cores] s u := hu ▸ (State.modCore_only _ _ _).wider (by decide)
    refine ⟨fun hmine hkind => ?_, fun hmine hkind => ?_, fun hmine hkind hnodup => ?_, fun id a hkind hsig hmay => ?_⟩
    · have e : streamComplete s c th.toNat = fireSignal u c (some n) o.pc true o.sig := by
        rw [streamComplete_data he hd hkind, ← hu]
        exact sendSignal_of_may hjob (hcores ▸ hj) hk (hcores ▸ hmine) o.pc true
      obtain ⟨hthread, hsig, hscratch⟩ := fireSignal_left (n := n) hleft (hcores ▸ rfl) (hcores ▸ rfl) o.pc o.sig
      exact ⟨_, (exec_streamOpComplete core th s).trans (congrArg Host.Outcome.next e), hthread, hsig, hscratch,
        (fireSignal_only _ _ _ _ _ _).step (by decide) (honly.wider (by decide))⟩
    · obtain ⟨v, hv⟩ : ∃ v, v = finishFence u c n th.toNat o.id := ⟨_, rfl⟩
      have hfence : v = u.setJob n { j with stores := j.stores.map fun x =>
          if x.core = c ∧ x.thread = th.toNat ∧ x.id < o.id then { x with fenced := true } else x } := by
        rw [hv]
        unfold finishFence
        rw [show u.job n = some j from hcores ▸ hj]
      have hvleft : OpLeft s v c th.toNat o.id := by rw [hfence]; exact ⟨hleft.self, hleft.other⟩
      have hvjob : v.job n = some { j with stores := j.stores.map fun x =>
          if x.core = c ∧ x.thread = th.toNat ∧ x.id < o.id then { x with fenced := true } else x } := by
        rw [hfence, State.setJob_job]
      have e : streamComplete s c th.toNat = fireSignal v c (some n) o.pc true o.sig := by
        rw [streamComplete_fence he hd hkind, ← hu, ← hv]
        refine sendSignal_of_may ?_ hvjob hk ?_ o.pc true
        · rw [hvleft.self]; exact hn
        · rw [hfence, hcores]; exact hmine
      obtain ⟨hthread, hsig, hscratch⟩ := fireSignal_left (n := n) hvleft (by rw [hfence, hcores]; rfl)
        (by rw [hfence, hcores]; rfl) o.pc o.sig
      refine ⟨_, (exec_streamOpComplete core th s).trans (congrArg Host.Outcome.next e), hthread, hsig, hscratch, ?_, _,
        (congrArg (tfind · n) (fireSignal_only v c (some n) o.pc true o.sig .jobs (by decide))).trans hvjob, rfl⟩
      rw [hv]
      exact (fireSignal_only _ _ _ _ _ _).step (by decide) ((finishFence_only _ _ _ _ _).step (by decide) (honly.wider (by decide)))
    · have hlane (l : Nat) : (u.sendLane c j l).dst = (s.sendLane c j l).dst := by
        unfold State.sendLane
        rw [(hleft.lanes c).2]
      have hread : u.opndRead c j o.scratch o.len = s.opndRead c j o.scratch o.len := by
        have hbase : u.shareBase j c = s.shareBase j c := by rw [hcores]; rfl
        unfold State.opndRead State.opndAddr State.recvLane Core.scratchBytes
        rw [(hleft.lanes c).1, hleft.scratch c, hbase]
      obtain ⟨g, hg, hend⟩ := finishSend_eq (u := u) (o := o) hjob (hcores ▸ hj) hk (hcores ▸ hmine)
      have hdsts : (o.lanes.map fun l => (u.sendLane c j l).dst) = o.lanes.map fun l => (s.sendLane c j l).dst :=
        List.map_congr_left fun l _ => hlane l
      rw [hdsts, hread] at hend
      obtain ⟨w, hw⟩ : ∃ w, w = sendTiles u (o.lanes.map fun l => (s.sendLane c j l).dst)
        (fun d => sendFlit (s.opndRead c j o.scratch o.len) c o.pc (g d)) := ⟨_, rfl⟩
      rw [← hw] at hend
      have hkept (d : Nat) : SendKept (u.core d) (w.core d) := hw ▸ sendTiles_kept _ _ _ d
      have hwonly : Only [.cores] s w := by
        obtain ⟨k, hk⟩ := sendTiles_cores u (o.lanes.map fun l => (s.sendLane c j l).dst)
          (fun d => sendFlit (s.opndRead c j o.scratch o.len) c o.pc (g d))
        rw [hw, hk]
        exact .set_cores (by decide) honly
      have hlanes : ∀ l ∈ o.lanes, ∀ r, tfind (s.core (s.sendLane c j l).dst.1).recvLanes (s.sendLane c j l).dst.2 = some r →
          ∃ order, tfind (w.core (s.sendLane c j l).dst.1).recvLanes (s.sendLane c j l).dst.2 = some { r with
            inFlight := r.inFlight ++ [{ sendFlit (s.opndRead c j o.scratch o.len) c o.pc (g (s.sendLane c j l).dst) with
              order := order }] } := by
        intro l hl r hr
        rw [hw]
        exact sendTiles_lane hnodup (List.mem_map_of_mem hl) ((congrArg (tfind · _) (hleft.lanes _).1).trans hr)
      obtain ⟨t, ht, hcore, honly'⟩ : ∃ t, finishSend u c j o = t ∧ (∀ d, ∃ f, t.core d = { w.core d with flags := f }) ∧
          Only [.cores, .updates] s t := by
        rcases hend with hend | hend
        · exact ⟨w, hend, fun d => ⟨_, rfl⟩, hwonly.wider (by decide)⟩
        · exact ⟨_, hend, fun d => fireSignal_core _ _ _ _ _ _ d,
            (fireSignal_only _ _ _ _ _ _).step (by decide) (hwonly.wider (by decide))⟩
      refine ⟨t, (exec_streamOpComplete core th s).trans (congrArg Host.Outcome.next
        ((streamComplete_send he hd hkind).trans (hu ▸ ht))), ?_, fun d => ?_, honly', fun l hl r hr => ?_⟩
      · obtain ⟨f, hf⟩ := hcore c
        have hse : (w.core c).se.threads = (u.core c).se.threads := (hkept c).1
        show (t.core c).se.thread th.toNat = t0.without o.id
        rw [hf]
        refine (congrArg (tget Thread.reset · th.toNat) hse).trans ?_
        rw [hleft.self]
        exact opEnded_thread _ _ _
      · obtain ⟨f, hf⟩ := hcore d
        rw [hf]
        exact (hkept d).2.1.trans (hleft.scratch d)
      · obtain ⟨f, hf⟩ := hcore (s.sendLane c j l).dst.1
        obtain ⟨order, hr'⟩ := hlanes l hl r hr
        rw [hf]
        exact ⟨_, hr', rfl, rfl, rfl, hg _⟩
    · have e : streamComplete s c th.toNat = haltAt u c Config.COUNTER_OWNER o.pc (id.setWidth 64) := by
        rw [streamComplete_data he hd (.inl hkind), ← hu, hsig]
        exact sendSignal_of_breach hjob (hcores ▸ hj) hk (hcores ▸ hmay) o.pc true
      obtain ⟨t, ht⟩ : ∃ t, t = haltAt u c Config.COUNTER_OWNER o.pc (id.setWidth 64) := ⟨_, rfl⟩
      have hh : Halts u t c n j Config.COUNTER_OWNER o.pc (id.setWidth 64) :=
        ht ▸ haltAt_halts _ _ o.pc hjob (hcores ▸ hj) hk
      unfold Halts at hh
      rw [hleft.self, hcores] at hh
      refine ⟨t, (exec_streamOpComplete core th s).trans (congrArg Host.Outcome.next (e.trans ht.symm)), hh, ?_⟩
      rw [ht]
      exact (haltAt_only _ _ _ _ _).step (by decide) (honly.wider (by decide))
  · refine (exec_streamOpComplete core th s).trans (congrArg Host.Outcome.next ?_)
    unfold streamComplete
    rcases h with h | h
    · rw [h]
    · rw [h]
      cases s.engaged core.toNat <;> rfl

end Sys2Proof.Machine
end

section
/-! SUPPORT. A global counter that saturates as an engine counts its work: Chime source 108 then samples its signal (R466), which the
statements on the start of engine operations leave out. -/

namespace Sys2Proof.Machine

/-! ## A counter about to saturate -/

/-- A core that runs a free job, in a block whose global counter of a slot is one below its largest value (R466). -/
def nearlyFull (slot : Nat) (k : Core) : State :=
  { State.reset with
    jobs := [(0, { corelessJob with cores := [0] })]
    cores := [(0, { k with st := .running, job := some 0 })]
    obs := { State.reset.obs with pm := { State.reset.obs.pm with slots := [(slot, pmMax - 1)] } } }

/-- A command answers a next state in which source 108 is PENDING, where it was IDLE before. -/
def overflowPends (s : State) (o : Host.Outcome State Fault Refusal) : Bool := match o with
  | .next t => (s.src 108).st == .idle && (t.src 108).st == .pending
  | _ => false

/-- Then the Chime's registers have changed. -/
theorem chime_ne_of_overflow {s t : State} (h : overflowPends s (.next t) = true) : t.chime ≠ s.chime := by
  intro e
  unfold overflowPends State.src at h
  dsimp only at h
  rw [e, Bool.and_eq_true, beq_iff_eq, beq_iff_eq] at h
  exact absurd (h.1.symm.trans h.2) (by decide)

/-! ## An MMA -/

/-- An MMA of one row of zeros in the format of bank 0. -/
def oneRow : MatOp :=
  { kind := .mma, fmt := 2#4, mod := 0#16, scratch := .work 0, row := 0, m := 1, size := 0, ends := 0, pc := 0, sig := .none }

/-- The core that has it queued: its bank 0 holds zeros in bfloat16. -/
def oneRowCore : Core :=
  { Core.reset with me := { Core.reset.me with
      bank0 := { fmt := 2#4, arr := 3#2, sparse := false, bytes := [] }, queue := [oneRow] } }

/-- Refutes O30: the row that the MMA counts saturates global counter 2, and source 108 of the Chime goes PENDING (R466). -/
theorem not_matrixOperationsRun : ¬Obligations.MatrixOperationsRun := by
  intro h
  have hstart := (h.1 (nearlyFull 2 oneRowCore) 0#4 0 { corelessJob with cores := [0] } oneRow [] (by decide +kernel)
    (by decide +kernel)).2 (by decide +kernel)
  obtain ⟨t, e, -, honly, -⟩ := ((hstart.2.2 (by decide +kernel)).2.1 (by decide +kernel) (by decide +kernel)).2 (by decide +kernel)
    (by decide +kernel)
  have hpends : overflowPends (nearlyFull 2 oneRowCore) (exec (.matrixOpStart 0#4 .none) (nearlyFull 2 oneRowCore)) = true := by
    decide +kernel
  exact chime_ne_of_overflow (e ▸ hpends) (honly .chime (by decide))

/-! ## A chain group -/

/-- A VCOPY of one word onto itself. -/
def oneCopy : VecOp :=
  { op := 0x89#8, fmt := 1#4, mod := 1#16, shape := 1#64, a := 0#64, b := 0#64, c := 0#64, aField := 0, bField := 0, cField := 0,
    dest := 0#32, shift := 0, dch := 0, slots := [0, 0, 0], pc := 0, sig := .none }

/-- The core that has it queued. -/
def oneCopyCore : Core := { Core.reset with ve := { Core.reset.ve with queue := [oneCopy] } }

/-- Refutes O31: the cycles that the start of the group counts saturate global counter 3, and source 108 of the Chime goes PENDING
(R466). -/
theorem not_vectorGroupsRun : ¬Obligations.VectorGroupsRun := by
  intro h
  obtain ⟨t, e, -, -, -, honly⟩ := (h.1 (nearlyFull 3 oneCopyCore) 0#4 0 { corelessJob with cores := [0] } [oneCopy] []
    (by decide +kernel) (by decide +kernel)).2.2.1 (by decide +kernel) (by decide +kernel)
  have hpends : overflowPends (nearlyFull 3 oneCopyCore) (exec (.vectorGroupStart 0#4 .none) (nearlyFull 3 oneCopyCore)) = true := by
    decide +kernel
  exact chime_ne_of_overflow (e ▸ hpends) (honly .chime (by decide))

end Sys2Proof.Machine
end

section
/-! SUPPORT. Starting what may start where no command waits (R274): memory and every complete command stay. And O18, the
commits (R257 to R259, R278, R279). -/

namespace Sys2Proof.Machine

/-! ## Queues in which no command waits (R274) -/

/-- t is s after commands that had started have completed: none waits to start, memory is as it was, and every command that was
complete stands as it was. -/
structure PumpCalm (s t : State) : Prop where
  settled : Settled t
  mem : t.mem = s.mem
  kept : CmdsKept s t ∨ ¬ DistinctCmds s
  done : DistinctCmds s → ∀ n, ∀ c ∈ (s.queue n).cmds, c.isDone = true → c ∈ (t.queue n).cmds

theorem PumpCalm.refl {s : State} (h : Settled s) : PumpCalm s s := ⟨h, rfl, .inl (CmdsKept.refl s), fun _ _ _ hc _ => hc⟩

theorem PumpCalm.distinct {s t : State} (h : PumpCalm s t) (d : DistinctCmds s) : DistinctCmds t :=
  h.kept.elim (fun k => k.distinct d) (fun k => absurd d k)

theorem PumpCalm.trans {s t u : State} (h : PumpCalm s t) (g : PumpCalm t u) : PumpCalm s u := by
  refine ⟨g.settled, g.mem.trans h.mem, ?_, fun d n c hc hd => g.done (h.distinct d) n c (h.done d n c hc hd) hd⟩
  by_cases d : DistinctCmds s
  · exact .inl ((h.kept.resolve_right (absurd d)).trans (g.kept.resolve_right (absurd (h.distinct d))))
  · exact .inr d

theorem PumpCalm.foldl {α : Type} (f : State → α → State) (h : ∀ s x, Settled s → PumpCalm s (f s x)) (l : List α) {s : State}
    (hs : Settled s) : PumpCalm s (l.foldl f s) := by
  induction l generalizing s with
  | nil => exact .refl hs
  | cons x r ih => exact (h s x hs).trans (ih (h s x hs).settled)

/-- A change that leaves every queue's commands and memory alone. -/
theorem PumpCalm.of_cmds {s t : State} (hs : Settled s) (hm : t.mem = s.mem) (hq : ∀ n, (t.queue n).cmds = (s.queue n).cmds) :
    PumpCalm s t := by
  refine ⟨fun n c hc => hs n c (by rwa [← hq n]), hm, .inl fun n => ⟨by unfold Queue.keys; rw [hq], fun c hc _ _ => ?_⟩,
    fun _ n c hc _ => ?_⟩ <;> rwa [hq]

theorem PumpCalm.of_parts {l : List Field} {s t : State} (hs : Settled s) (h : Only l s t) (hm : .mem ∉ l)
    (hq : .queues ∉ l) : PumpCalm s t := by
  have e : t.queues = s.queues := h .queues hq
  exact .of_cmds hs (h .mem hm) fun n => by unfold State.queue; rw [e]

theorem PumpCalm.modQueue {s : State} (hs : Settled s) (n : Nat) {f : Queue → Queue} (h : ∀ q, (f q).cmds = q.cmds) :
    PumpCalm s (s.modQueue n f) := by
  refine .of_cmds hs rfl fun m => ?_
  by_cases e : m = n
  · rw [e, modQueue_self, h]
  · rw [modQueue_ne _ _ _ _ e]

/-- A command that had not completed has completed. -/
theorem PumpCalm.ends {s : State} (hs : Settled s) {n k : Nat} {c : Cmd} (hc : (s.queue n).cmd k = some c)
    (hd : c.isDone = false) {f : Cmd → Cmd} (hf : ∀ c, (f c).isDone = true) (hk : ∀ c, (f c).key = c.key) :
    PumpCalm s (s.modQueue n fun q => q.modCmd k f) := by
  refine ⟨fun m x hx => ?_, rfl, ?_, fun d m x hx dx => ?_⟩
  · by_cases e : m = n
    · subst e
      rw [modQueue_self] at hx
      obtain ⟨y, hy, rfl⟩ := List.mem_map.1 hx
      split
      · exact .inl (hf y)
      · exact hs m y hy
    · rw [modQueue_ne _ _ _ _ e] at hx
      exact hs m x hx
  · by_cases d : DistinctCmds s
    · exact .inl (modCmd_kept s n k f c d hc hd hk)
    · exact .inr d
  · by_cases e : m = n
    · subst e
      rw [modQueue_self]
      refine mem_modCmd hx fun e => ?_
      obtain ⟨hm, he⟩ := cmd_mem hc
      rw [eq_of_seqNo (d m) hx hm (e.trans he.symm), hd] at dx
      cases dx
    · rwa [modQueue_ne _ _ _ _ e]

/-- Where no command waits, a command that starts is one that had started and has nothing left to do (R249, R291). -/
theorem pumpOne_calm (n : Nat) {s : State} (k : Nat) (hs : Settled s) : PumpCalm s (pumpOne n s k) := by
  unfold pumpOne
  dsimp only
  split
  · exact .refl hs
  · rename_i c hc
    have hopen := hs n c (cmd_mem hc).1
    split
    · exact .refl hs
    · split
      · rename_i hp
        simp [Cmd.isDone, hp] at hopen
      · rename_i hp
        have hd : c.isDone = false := by simp [Cmd.isDone, hp]
        have hw : c.body.isWait = false := by simpa [hd] using (hopen.resolve_left (by simp [hd])).2
        split
        · split
          · exact .ends hs hc hd (fun _ => rfl) fun _ => rfl
          · exact .refl hs
        · split
          · exact .ends hs hc hd (fun _ => rfl) fun _ => rfl
          · exact .refl hs
        · rw [if_neg (by simp [hw])]
          exact .refl hs
      · exact .refl hs

theorem pump_calm {s : State} (n : Nat) (hs : Settled s) : PumpCalm s (pump s n) := by
  unfold pump
  refine (PumpCalm.foldl (pumpOne n) (fun s k h => pumpOne_calm n k h) _ hs).trans (.modQueue ?_ n fun q => ?_)
  · exact (PumpCalm.foldl (pumpOne n) (fun s k h => pumpOne_calm n k h) _ hs).settled
  · unfold Queue.waitOver
    split <;> rfl

/-- The Regulator's evaluation changes a queue's backlog flag and its virtual time alone (R337, R338). -/
theorem regQueue_view {γ : Type} (p : Queue → γ) (hp : ∀ q b v, p { q with backlogged := b, vt := v } = p q) (s : State)
    (n m : Nat) : p ((regQueue s n).queue m) = p (s.queue m) := by
  have set (b : Bool) (v : W64) :
      p ((s.setQueue n { s.queue n with backlogged := b, vt := v }).queue m) = p (s.queue m) := by
    by_cases e : m = n
    · rw [e, State.setQueue_queue, hp]
    · rw [State.setQueue_queue_ne _ _ _ _ e]
  unfold regQueue
  dsimp only
  split
  · exact set _ _
  · split
    · refine Eq.trans ?_ (set false (s.queue n).vt)
      have e := (gvUpdate_only (s.setQueue n { s.queue n with backlogged := false }) (s.queue n).part) .queues (by decide)
      exact congrArg (fun q => p (tget Queue.reset q m)) e
    · rfl

theorem regEval_view {γ : Type} (p : Queue → γ) (hp : ∀ q b v, p { q with backlogged := b, vt := v } = p q) (s : State)
    (m : Nat) : p ((regEval s).queue m) = p (s.queue m) := by
  unfold regEval
  generalize s.queues.map (fun q => q.1) = l
  induction l generalizing s with
  | nil => rfl
  | cons n l ih => rw [List.foldl_cons, ih, regQueue_view p hp]

theorem regEval_cmds (s : State) (m : Nat) : ((regEval s).queue m).cmds = (s.queue m).cmds :=
  regEval_view (fun q => q.cmds) (fun _ _ _ => rfl) s m

theorem regEval_calm {s : State} (hs : Settled s) : PumpCalm s (regEval s) :=
  .of_cmds hs ((regEval_only _) .mem (by decide)) fun m => regEval_cmds s m

/-- Where no command waits, starting what may start keeps memory and every complete command (R274). -/
theorem pumpAll_calm {s : State} (hs : Settled s) : PumpCalm s (pumpAll s) := by
  unfold pumpAll
  have h := PumpCalm.foldl pump (fun s n hs => pump_calm n hs) (s.queues.map fun q => q.1) hs
  exact h.trans (regEval_calm h.settled)

end Sys2Proof.Machine
end

section
/-! SUPPORT. O18: the commit of a station, of a queue's oldest complete command, and the INDEX word of its record (R257 to R259,
R278, R279). -/

namespace Sys2Proof.Machine

/-! ## What a commit flips (R257) -/

theorem modObj_obj (s : State) (n i : Nat) (f : Obj → Obj) :
    (s.modObj n f).obj i = if i = n then f (s.obj i) else s.obj i := by
  unfold State.modObj
  by_cases h : i = n
  · subst h
    rw [State.setObj_obj, if_pos rfl]
  · rw [State.setObj_obj_ne _ _ _ _ h, if_neg h]

theorem foldl_modObj_obj (f : Obj → Obj) {l : List Nat} (hl : l.Nodup) (s : State) (i : Nat) :
    (l.foldl (fun s i => s.modObj i f) s).obj i = if i ∈ l then f (s.obj i) else s.obj i := by
  induction l generalizing s with
  | nil => simp
  | cons n l ih =>
    obtain ⟨hn, hl⟩ := List.nodup_cons.1 hl
    rw [List.foldl_cons, ih hl, modObj_obj]
    by_cases h : i = n
    · subst h
      simp [hn]
    · simp [h]

/-- The objects as they stand after a commit of the roots written. -/
theorem flip_obj (s : State) (l : List Nat) (i : Nat) :
    (flip s l).obj i = if i ∈ l then { s.obj i with version := !(s.obj i).version } else s.obj i := by
  unfold flip
  rw [foldl_modObj_obj _ (nodup_eraseDups l)]
  simp only [List.mem_eraseDups]

theorem obj_of {s t : State} (hk : t.kp.objEnable = s.kp.objEnable) (ho : t.objs = s.objs) (i : Nat) : t.obj i = s.obj i := by
  unfold State.obj
  rw [hk, ho]

theorem obj_of_only {l : List Field} {s t : State} (h : Only l s t) (hk : .kp ∉ l) (ho : .objs ∉ l) (i : Nat) :
    t.obj i = s.obj i :=
  obj_of (congrArg (fun k : Keeper => k.objEnable) (h .kp hk)) (h .objs ho) i

theorem genSettle_objEnable (s : State) : (genSettle s).kp.objEnable = s.kp.objEnable := by
  unfold genSettle
  generalize List.map _ _ = l
  induction l generalizing s with
  | nil => rfl
  | cons e l ih => rw [List.foldl_cons, ih]; rfl

theorem afterJob_obj (s : State) (i : Nat) : (afterJob s).obj i = s.obj i := by
  have h : (shareSettle (genSettle s)).obj i = s.obj i :=
    (obj_of_only (shareSettle_only _) (by decide) (by decide) i).trans
      (obj_of (genSettle_objEnable s) ((genSettle_only s) .objs (by decide)) i)
  unfold afterJob
  dsimp only
  split
  · exact (obj_of_only (eraseSettle_only _) (by decide) (by decide) i).trans
      ((obj_of_only (eraseShares_only _) (by decide) (by decide) i).trans h)
  · exact h

/-! ## A station's commit -/

theorem commitStation_ended {s : State} {st : Nat} {r : Running} (hr : s.run = some r) (he : r.status st = .ended)
    (hd : s.dispatches = true) {n : Nat} {j : Job}
    (hj : s.jobs.filter (fun x => x.2.kind == .station st) = [(n, j)]) :
    commitStation s st = afterJob (setStatus ((flip s j.wrote).dropJob n) st .committed) := by
  unfold commitStation
  rw [hr]
  dsimp only
  rw [if_pos ⟨he, hd⟩, hj]
  rfl

theorem commitStation_idle {s : State} {st : Nat}
    (h : s.dispatches = false ∨ ∃ r, s.run = some r ∧ r.status st ≠ .ended) : commitStation s st = s := by
  unfold commitStation
  rcases h with h | ⟨r, hr, h⟩
  · split
    · rfl
    · rw [if_neg (by simp [h])]
  · rw [hr]
    exact if_neg fun hh => h hh.1

theorem commitStation_spec {s : State} {st : Nat} {r : Running} (hr : s.run = some r) (he : r.status st = .ended)
    (hd : s.dispatches = true) {n : Nat} {j : Job} (hj : s.jobs.filter (fun x => x.2.kind == .station st) = [(n, j)]) :
    (commitStation s st).run = some { r with beat := tput r.beat st .committed } ∧ (commitStation s st).job n = none ∧
      (∀ i, (commitStation s st).obj i = if i ∈ j.wrote then { s.obj i with version := !(s.obj i).version } else s.obj i) ∧
      Only [.run, .objs, .jobs, .kp, .gens, .shares, .cores, .sec] s (commitStation s st) := by
  rw [commitStation_ended hr he hd hj]
  have hfl : (flip s j.wrote).run = s.run := (flip_only s _) .run (by decide)
  refine ⟨?_, ?_, fun i => ?_, ?_⟩
  · refine ((afterJob_only _) .run (by decide)).trans ?_
    change Option.map _ (flip s j.wrote).run = _
    rw [hfl, hr]
    rfl
  · refine Eq.trans (congrArg (tfind · n) ((afterJob_only _) .jobs (by decide))) ?_
    exact tfind_tdel_self _ _
  · rw [afterJob_obj]
    exact flip_obj s j.wrote i
  · exact (afterJob_only _).step (by decide) ((setStatus_only _ _ _).step (by decide)
      ((State.dropJob_only _ _).step (by decide) ((flip_only _ _).wider (by decide))))

/-! ## The commit of a queue's command -/

/-- The command c0, with its effect x at its commit, as it is counted, traced and then recorded. -/
def commitNoted (s : State) (qn : Nat) (c0 : Cmd) (x : State × Cmd) : State :=
  let c := { x.2 with endTime := if x.2.code = c0.code then x.2.endTime else s.esc.time }
  let u := pmBoth x.1 (some (s.queueCtx qn)) 6 1
  traceDone (if c.code = c0.code then u else pmBoth u (some (s.queueCtx qn)) 7 1) qn c.index.toNat c.code.toNat 1

/-- The command as it is recorded (R278). -/
def Cmd.committed (c c0 : Cmd) (time : W64) : Cmd :=
  { c with endTime := if c.code = c0.code then c.endTime else time, phase := .recorded }

theorem commitEffect_inner (s : State) (qn : Nat) (c : Cmd) : (commitEffect s qn c).2.inner = c.inner := by
  unfold commitEffect
  dsimp only
  split
  · rfl
  · split <;> rfl

theorem commitQueue_eq {s : State} {qn : Nat} {c : Cmd} (hs : s.commits (s.queue qn) = true)
    (hn : nextCommit (s.queue qn).cmds = some c) (hi : c.inner = none) :
    commitQueue s qn =
      pumpAll (writeRecordTail (recordCounts ((commitNoted s qn c (commitEffect s qn c)).modQueue qn fun q =>
        q.modCmd (commitEffect s qn c).2.seqNo fun _ => (commitEffect s qn c).2.committed c s.esc.time) qn
          ((commitEffect s qn c).2.committed c s.esc.time)) qn ((commitEffect s qn c).2.committed c s.esc.time)) := by
  have hx := commitEffect_inner s qn c
  rw [hi] at hx
  unfold commitQueue
  dsimp only
  rw [if_neg (by simp [hs]), hn]
  dsimp only
  generalize commitEffect s qn c = x at hx ⊢
  unfold commitNoted Cmd.committed
  dsimp only
  rw [hx]

theorem commitQueue_idle {s : State} {qn : Nat}
    (h : s.commits (s.queue qn) = false ∨ nextCommit (s.queue qn).cmds = none) : commitQueue s qn = s := by
  unfold commitQueue
  rcases h with h | h
  · exact if_pos (by simp [h])
  · dsimp only
    rw [h]
    exact ite_self _

theorem commitNoted_only (s : State) (qn : Nat) (c : Cmd) (x : State × Cmd) :
    Only [.ctxs, .chime, .obs] x.1 (commitNoted s qn c x) := by
  unfold commitNoted
  dsimp only
  refine (traceDone_only _ _ _ _ _).step (by decide) ?_
  split
  · exact (pmBoth_only _ _ _ _).wider (by decide)
  · exact (pmBoth_only _ _ _ _).step (by decide) ((pmBoth_only _ _ _ _).wider (by decide))

/-- What is done after the effect of a command leaves the objects as the effect left them. -/
theorem commitQueue_after_only {s : State} {qn : Nat} {c : Cmd} (hs : s.commits (s.queue qn) = true)
    (hn : nextCommit (s.queue qn).cmds = some c) (hi : c.inner = none) :
    Only [.writes, .mem, .poison, .au, .run, .pool, .gens, .ctxs, .queues, .insts, .rgParts, .jobs, .cores, .fr, .chime,
      .obs, .freeCount, .obsCfg, .seqs] (commitEffect s qn c).1 (killWaiters (commitQueue s qn)) := by
  rw [commitQueue_eq hs hn hi]
  have hv := (State.modQueue_only (commitNoted s qn c (commitEffect s qn c)) qn fun q =>
    q.modCmd (commitEffect s qn c).2.seqNo fun _ => (commitEffect s qn c).2.committed c s.esc.time).step
      (l := [.ctxs, .chime, .obs, .queues, .seqs]) (by decide) ((commitNoted_only _ _ _ _).wider (by decide))
  generalize (commitNoted s qn c (commitEffect s qn c)).modQueue qn _ = v at hv ⊢
  generalize (commitEffect s qn c).2.committed c s.esc.time = d
  exact (killWaiters_only _).step (by decide) ((pumpAll_only _).step (by decide) ((writeRecordTail_only _ _ _).step (by decide)
    ((recordCounts_only _ _ _).step (by decide) (hv.wider (by decide)))))

theorem commitEffect_launch (s : State) (qn : Nat) {c : Cmd} (hc : c.code = 0#16) {m feat hm om prog off len entry bound args}
    (hb : c.body = .launch m feat hm om prog off len entry bound args) : (commitEffect s qn c).1 = flip s c.wrote := by
  unfold commitEffect
  dsimp only
  rw [if_neg (by simp [hc]), hb]

/-- A NOP, and a command that failed, have no effect at their commit (R259). -/
theorem commitEffect_none (s : State) (qn : Nat) {c : Cmd} (h : c.body = .nop ∨ c.code ≠ 0#16) : commitEffect s qn c = (s, c) := by
  unfold commitEffect
  dsimp only
  rcases h with h | h
  · rw [h]
    exact ite_self _
  · exact if_pos h

theorem nextCommit_cons (x : Cmd) (r : List Cmd) : nextCommit (x :: r) =
    if x.phase = .recorded then nextCommit r else if x.phase = .completed then some x else none := by
  rw [nextCommit]
  cases x.phase <;> rfl

theorem nextCommit_mem {l : List Cmd} {c : Cmd} (h : nextCommit l = some c) : c ∈ l ∧ c.phase = .completed := by
  induction l with
  | nil => cases h
  | cons x r ih =>
    rw [nextCommit_cons] at h
    split at h
    · exact ⟨List.mem_cons_of_mem _ (ih h).1, (ih h).2⟩
    · split at h
      · rename_i hp
        cases h
        exact ⟨List.mem_cons_self, hp⟩
      · cases h

theorem modCmd_mem {q : Queue} {k : Nat} {f : Cmd → Cmd} {c : Cmd} (h : c ∈ q.cmds) (e : c.seqNo = k) :
    f c ∈ (q.modCmd k f).cmds := List.mem_map.2 ⟨c, h, if_pos e⟩

theorem Settled.of_queues {s t : State} (h : Settled s) (hq : t.queues = s.queues) : Settled t := fun n c hc => by
  refine h n c ?_
  unfold State.queue at hc ⊢
  rwa [← hq]

/-- A change of one queue that only completes commands or takes some out. -/
theorem Settled.modQueue {s : State} (h : Settled s) (n : Nat) {f : Queue → Queue}
    (hf : ∀ c ∈ (f (s.queue n)).cmds, c.isDone = true ∨ c ∈ (s.queue n).cmds) : Settled (s.modQueue n f) := fun m c hc => by
  by_cases e : m = n
  · subst e
    rw [modQueue_self] at hc
    exact (hf c hc).elim .inl (h m c)
  · rw [modQueue_ne _ _ _ _ e] at hc
    exact h m c hc

theorem recordCounts_none {s : State} {qn : Nat} (c : Cmd) (h : (s.ctx (s.queueCtx qn)).ring = none) :
    recordCounts s qn c = s := by
  unfold recordCounts
  dsimp only
  rw [h]

theorem pmBoth_ring (s : State) (c slot n d : Nat) : ((pmBoth s (some c) slot n).ctx d).ring = (s.ctx d).ring := by
  have e : (pmGlobal s slot n).ctx d = s.ctx d :=
    congrArg (fun x => tget Ctx.reset x d) ((pmGlobal_only s slot n) .ctxs (by decide))
  unfold pmBoth State.modCtx
  dsimp only
  by_cases h : d = c
  · rw [h, State.setCtx_ctx, ← h]
    exact congrArg (fun x => x.ring) e
  · rw [State.setCtx_ctx_ne _ _ _ _ h, e]

/-- Where no command waits and no counter ring takes a record, what follows the effect of a command stores its completion
record, and the command stands recorded in its queue (R278, R279). -/
theorem commitQueue_recorded {s : State} {qn : Nat} {c : Cmd} (hs : s.commits (s.queue qn) = true)
    (hn : nextCommit (s.queue qn).cmds = some c) (hi : c.inner = none) {x : State × Cmd} (hx : commitEffect s qn c = x)
    (hcode : x.2.code = c.code) (hseq : x.2.seqNo = c.seqNo) (hxq : x.1.queues = s.queues) (hset : Settled s)
    (hring : (x.1.ctx (s.queue qn).ctx).ring = none) :
    (commitQueue s qn).mem = memPutAll x.1.mem ((x.1.obj (s.queue qn).complObj).base + ((s.queue qn).recordOff x.2.index + 4))
        (recordTail x.2 (x.1.recordTime x.2)) ∧
      (DistinctCmds s → x.2.key = c.key → { x.2 with phase := .recorded } ∈ ((commitQueue s qn).queue qn).cmds) := by
  have hrec : x.2.committed c s.esc.time = { x.2 with phase := .recorded } := by
    unfold Cmd.committed
    rw [if_pos hcode]
  obtain ⟨hm, hp⟩ := nextCommit_mem hn
  rw [commitQueue_eq hs hn hi, hx, hrec, hseq]
  obtain ⟨d, hdef⟩ : ∃ d : Cmd, d = { x.2 with phase := .recorded } := ⟨_, rfl⟩
  rw [← hdef]
  have hu0 : Only [.ctxs, .chime, .obs] x.1 (commitNoted s qn c x) := commitNoted_only _ _ _ _
  have hring0 : ((commitNoted s qn c x).ctx (s.queue qn).ctx).ring = none := by
    unfold commitNoted
    dsimp only
    rw [if_pos hcode]
    refine Eq.trans ?_ ((pmBoth_ring x.1 (s.queueCtx qn) 6 1 (s.queue qn).ctx).trans hring)
    exact congrArg (fun x => (tget Ctx.reset x (s.queue qn).ctx).ring) ((traceDone_only _ _ _ _ _) .ctxs (by decide))
  generalize commitNoted s qn c x = u at hu0 hring0 ⊢
  have huq : u.queues = s.queues := (hu0 .queues (by decide)).trans hxq
  have hq (n : Nat) : u.queue n = s.queue n := congrArg (fun q => tget Queue.reset q n) huq
  obtain ⟨v, hv⟩ : ∃ v, v = u.modQueue qn fun q => q.modCmd c.seqNo fun _ => d := ⟨_, rfl⟩
  have hvq : v.queue qn = (s.queue qn).modCmd c.seqNo fun _ => d := by rw [hv, modQueue_self, hq]
  have hset1 : Settled v := by
    rw [hv]
    refine Settled.modQueue (Settled.of_queues hset huq) qn fun x hx => ?_
    obtain ⟨y, hy, rfl⟩ := List.mem_map.1 hx
    split
    · exact .inl (by rw [hdef]; rfl)
    · exact .inr hy
  have hvo : Only [.ctxs, .chime, .obs, .queues, .seqs] x.1 v := by
    rw [hv]
    exact (State.modQueue_only _ _ _).step (by decide) (hu0.wider (by decide))
  have hringv : (v.ctx (v.queueCtx qn)).ring = none := by
    unfold State.queueCtx
    rw [hvq, hv]
    exact hring0
  rw [← hv, recordCounts_none _ hringv]
  have hw : Only blockWriteParts v (writeRecordTail v qn d) := writeRecordTail_only _ _ _
  have hpump := pumpAll_calm (Settled.of_queues hset1 (hw .queues (by decide)))
  refine ⟨hpump.mem.trans ?_, fun hd hkey => ?_⟩
  · have hobj : v.obj (v.queue qn).complObj = x.1.obj (s.queue qn).complObj := by
      rw [hvq]
      exact obj_of_only hvo (by decide) (by decide) _
    have htail : recordTail d (v.recordTime d) = recordTail x.2 (x.1.recordTime x.2) := by
      unfold State.recordTime
      rw [hdef, hvo .esc (by decide)]
      rfl
    have hoff : (v.queue qn).recordOff d.index + 4 = (s.queue qn).recordOff x.2.index + 4 := by
      rw [hvq, hdef]
      rfl
    have hst : (writeRecordTail v qn d).mem = memPutAll v.mem ((v.obj (v.queue qn).complObj).base +
      ((v.queue qn).recordOff d.index + 4)) (recordTail d (v.recordTime d)) := objWrite_mem _ _ _ _ _
    rw [hst, hobj, htail, hoff, hvo .mem (by decide)]
  · have hd1 : DistinctCmds v := fun n => by
      by_cases e : n = qn
      · rw [e, hvq, keys_seqNo (modCmd_keys _ _ _ fun y hy e => ?_)]
        · exact hd qn
        · rw [eq_of_seqNo (hd qn) hy hm e, hdef]
          exact hkey
      · rw [hv, modQueue_ne _ _ _ _ e, hq]
        exact hd n
    have hmem : d ∈ ((writeRecordTail v qn d).queue qn).cmds := by
      unfold State.queue
      rw [hw .queues (by decide)]
      change d ∈ (v.queue qn).cmds
      rw [hvq]
      exact modCmd_mem (f := fun _ => d) hm rfl
    exact hpump.done ((CmdsKept.of_queues (hw .queues (by decide))).distinct hd1) qn d hmem (by rw [hdef]; rfl)

/-! ## The INDEX word (R276, R279) -/

/-- INDEX is written, its command has left the queue, and NOTIFY has raised its event. -/
def indexNoted (s : State) (qn : Nat) (c : Cmd) : State :=
  let q := s.queue qn
  let u := (objWrite s (.record qn c.index) q.complObj (q.recordOff c.index) (leBytes 4 c.index.toNat)).modQueue qn fun q =>
    q.dropCmd c.seqNo
  let src := (tget 0#10 u.chime.qsrc qn).toNat
  if c.notify && decide (128 ≤ src) then chPulse u src c.code (BitVec.ofNat 32 qn) else u

/-- When INDEX may be written. -/
def State.mayIndex (s : State) (qn : Nat) (c : Cmd) : Prop :=
  s.acked (fun o => o == .record qn c.index) = true ∧ s.portAlive = true ∧ s.fr.stopped = false ∧
    s.obs.halted = false ∧ s.keeperHeld = false ∧ (s.inst (s.ctx (s.queue qn).ctx).inst).recordsOpen = true

theorem indexWrite_held {s : State} {qn : Nat} {c : Cmd} (hc : (s.queue qn).toIndex = some c) (h : ¬ s.mayIndex qn c) :
    indexWrite s qn = s := by
  unfold indexWrite
  dsimp only
  rw [hc]
  dsimp only
  refine if_neg fun hh => h ?_
  simpa [State.mayIndex, and_assoc] using hh

theorem indexWrite_eq {s : State} {qn : Nat} {c : Cmd} (hc : (s.queue qn).toIndex = some c) (h : s.mayIndex qn c) :
    indexWrite s qn = pumpAll (destroySettle (indexNoted s qn c) qn) := by
  unfold indexWrite
  dsimp only
  rw [hc]
  dsimp only
  refine if_pos ?_
  simpa [State.mayIndex, and_assoc] using h

theorem indexNoted_spec (s : State) (qn : Nat) (c : Cmd) : (indexNoted s qn c).mem =
    memPutAll s.mem ((s.obj (s.queue qn).complObj).base + (s.queue qn).recordOff c.index) (leBytes 4 c.index.toNat) ∧
    (indexNoted s qn c).queue qn = (s.queue qn).dropCmd c.seqNo ∧
    ∀ n, n ≠ qn → (indexNoted s qn c).queue n = s.queue n := by
  unfold indexNoted
  dsimp only
  obtain ⟨u, hu⟩ : ∃ u, u = (objWrite s (.record qn c.index) (s.queue qn).complObj ((s.queue qn).recordOff c.index)
      (leBytes 4 c.index.toNat)).modQueue qn fun q => q.dropCmd c.seqNo := ⟨_, rfl⟩
  have hw := objWrite_only s (.record qn c.index) (s.queue qn).complObj ((s.queue qn).recordOff c.index)
    (leBytes 4 c.index.toNat)
  have hqs (n : Nat) : (objWrite s (.record qn c.index) (s.queue qn).complObj ((s.queue qn).recordOff c.index)
      (leBytes 4 c.index.toNat)).queue n = s.queue n := congrArg (fun q => tget Queue.reset q n) (hw .queues (by decide))
  have hmem : u.mem = memPutAll s.mem ((s.obj (s.queue qn).complObj).base + (s.queue qn).recordOff c.index)
      (leBytes 4 c.index.toNat) := by rw [hu]; exact objWrite_mem _ _ _ _ _
  have hself : u.queue qn = (s.queue qn).dropCmd c.seqNo := by rw [hu, modQueue_self, hqs]
  have hne (n : Nat) (h : n ≠ qn) : u.queue n = s.queue n := by rw [hu, modQueue_ne _ _ _ _ h, hqs]
  rw [← hu]
  split
  · have hp : Only _ u (chPulse u (tget 0#10 u.chime.qsrc qn).toNat c.code (BitVec.ofNat 32 qn)) := chPulse_only _ _ _ _
    have hq (n : Nat) := congrArg (fun q => tget Queue.reset q n) (hp .queues (by decide))
    exact ⟨(hp .mem (by decide)).trans hmem, (hq qn).trans hself, fun n h => (hq n).trans (hne n h)⟩
  · exact ⟨hmem, hself, hne⟩

/-- A queue whose destruction was requested keeps its commands or is empty. -/
theorem destroySettle_cmds (s : State) (qn n : Nat) :
    ((destroySettle s qn).queue n).cmds = (s.queue n).cmds ∨ ((destroySettle s qn).queue n).cmds = [] := by
  have hfree : ((freeQueue s qn).queue n).cmds = (s.queue n).cmds ∨ ((freeQueue s qn).queue n).cmds = [] := by
    have h : (freeQueue s qn).queue n = (s.setQueue qn Queue.reset).queue n := by
      unfold freeQueue
      dsimp only
      split
      · split <;> rfl
      · rfl
    rw [h]
    by_cases e : n = qn
    · rw [e, State.setQueue_queue]
      exact .inr rfl
    · rw [State.setQueue_queue_ne _ _ _ _ e]
      exact .inl rfl
  unfold destroySettle
  dsimp only
  split
  · exact .inl rfl
  · split
    · rw [show ∀ p, (mbDone (freeQueue s qn) p Config.NONE []).queue n = (freeQueue s qn).queue n from
        fun p => congrArg (fun q => tget Queue.reset q n) ((mbDone_only _ _ _ _) .queues (by decide))]
      exact hfree
    · exact .inl rfl

theorem indexWrite_spec {s : State} {qn : Nat} {c : Cmd} (hc : (s.queue qn).toIndex = some c) (h : s.mayIndex qn c) :
    (DistinctCmds s → ∀ d ∈ ((indexWrite s qn).queue qn).cmds, d.seqNo ≠ c.seqNo) ∧
      (Settled s → Stores s (indexWrite s qn) ((s.obj (s.queue qn).complObj).base + (s.queue qn).recordOff c.index)
        (leBytes 4 c.index.toNat)) := by
  obtain ⟨hmem, hself, hne⟩ := indexNoted_spec s qn c
  rw [indexWrite_eq hc h]
  generalize indexNoted s qn c = u at hmem hself hne ⊢
  have hsub (n : Nat) : ((u.queue n).cmds).Sublist (s.queue n).cmds := by
    by_cases e : n = qn
    · rw [e, hself]
      exact List.filter_sublist
    · rw [hne n e]
  have hcmds := destroySettle_cmds u qn
  have hms : (destroySettle u qn).mem = u.mem := (destroySettle_only _ _) .mem (by decide)
  generalize destroySettle u qn = v at hcmds hms ⊢
  have hsubv (n : Nat) : ((v.queue n).cmds).Sublist (u.queue n).cmds := by
    rcases hcmds n with e | e
    · rw [e]
    · rw [e]
      exact List.nil_sublist _
  refine ⟨fun hd d hm e => ?_, fun hs => ?_⟩
  · have hdv : DistinctCmds v := fun n => (hd n).sublist (((hsubv n).trans (hsub n)).map _)
    have hk := keys_seqNo (pumpAll_kept v hdv qn).1
    have hin : d.seqNo ∈ (v.queue qn).cmds.map fun x => x.seqNo := by
      rw [← hk]
      exact List.mem_map_of_mem hm
    obtain ⟨x, hx, ex⟩ := List.mem_map.1 hin
    have hx' := (hsubv qn).subset hx
    rw [hself] at hx'
    have := (List.mem_filter.1 hx').2
    simp [ex, e] at this
  · have hsv : Settled v := fun n x hx => hs n x (((hsubv n).trans (hsub n)).subset hx)
    exact stores_putAll _ _ _ _ ((pumpAll_calm hsv).mem.trans (hms.trans hmem))

/-- Settles O18: a station's commit flips what its one job wrote; a queue's flips what its LAUNCH wrote, and a command without
effect leaves its record alone in memory, because starting what may start stores nothing where no command waits
(`pumpAll_calm`); the INDEX word is stored once the record is acknowledged. -/
theorem commitsAndRecords : Obligations.CommitsAndRecords := by
  refine ⟨fun s st r n j hr he hd hj => ⟨_, rfl, commitStation_spec hr he hd hj⟩,
    fun s st h => congrArg Host.Outcome.next (commitStation_idle h), fun s qn c hs hn hi => ⟨?_, ?_⟩, fun s qn hnone h => ?_,
    fun s qn c hc => ⟨fun h => congrArg Host.Outcome.next (indexWrite_held hc h), fun h => ?_⟩, fun s qn hc => ?_⟩
  · intro m feat hm om prog off len entry bound args hb hc
    refine ⟨_, rfl, fun i => ?_, Only.wider (exec_only (.commit (.queue qn)) s _ rfl) rfl⟩
    rw [obj_of_only (commitQueue_after_only hs hn hi) (by decide) (by decide) i, commitEffect_launch _ _ hc hb]
    exact flip_obj s c.wrote i
  · intro hb hset hd hring
    have hx := commitEffect_none s qn.toNat hb
    obtain ⟨hst, hmem⟩ := commitQueue_recorded hs hn hi hx rfl rfl rfl hset hring
    refine ⟨_, rfl, ?_, (stores_putAll _ _ _ _ hst).of_mem ((killWaiters_only _) .mem (by decide)), ?_⟩
    · unfold State.queue
      rw [(killWaiters_only _) .queues (by decide)]
      exact hmem hd rfl
    · have h := (commitQueue_after_only hs hn hi) .objs (by decide)
      rw [hx] at h
      exact h
  · exact congrArg Host.Outcome.next ((congrArg killWaiters (commitQueue_idle h)).trans (killWaiters_of_none hnone))
  · obtain ⟨h1, h2⟩ := indexWrite_spec hc h
    exact ⟨_, rfl, h1, h2, Only.wider (exec_only (.completionIndexWrite qn) s _ rfl) rfl⟩
  · refine congrArg Host.Outcome.next ?_
    unfold indexWrite
    dsimp only
    rw [hc]

end Sys2Proof.Machine
end

section
/-! SUPPORT. What starting and completing commands leaves of a queue beside its commands, and a pump in which one command alone
is due (R272, R274). -/

namespace Sys2Proof.Machine

/-! ## What fetch goes by -/

/-- What of a queue says where its next packet lies, and whether it is held. -/
def Queue.place (q : Queue) : W32 × W32 × Option IndirectRun × Held × Nat := (q.head, q.tail, q.indirect, q.held, q.ctx)

/-- Every queue of t fetches its next packet where it did in s. -/
def PlacesKept (s t : State) : Prop := ∀ n, (t.queue n).place = (s.queue n).place

namespace PlacesKept

theorem refl (s : State) : PlacesKept s s := fun _ => rfl

theorem trans {s t u : State} (h : PlacesKept s t) (g : PlacesKept t u) : PlacesKept s u := fun n => (g n).trans (h n)

theorem of_queues {s t : State} (h : t.queues = s.queues) : PlacesKept s t := fun n => by
  unfold State.queue
  rw [h]

theorem setQueue {s : State} {n : Nat} {q : Queue} (h : q.place = (s.queue n).place) : PlacesKept s (s.setQueue n q) := fun m => by
  by_cases e : m = n
  · rw [e, State.setQueue_queue, h]
  · rw [State.setQueue_queue_ne _ _ _ _ e]

theorem modQueue (s : State) (n : Nat) {f : Queue → Queue} (h : ∀ q, (f q).place = q.place) : PlacesKept s (s.modQueue n f) :=
  .setQueue (h _)

theorem foldl {α : Type} {f : State → α → State} (h : ∀ s x, PlacesKept s (f s x)) (l : List α) (s : State) :
    PlacesKept s (l.foldl f s) := by
  induction l generalizing s with
  | nil => exact .refl s
  | cons x l ih => exact (h s x).trans (ih _)

end PlacesKept

theorem completeCore_places (s : State) (q k : Nat) (code : BitVec 16) (sub : Bool) (d : W64) :
    PlacesKept s (completeCore s q k code sub d) := by
  unfold completeCore
  extract_lets u
  have hu : PlacesKept s u := .modQueue s q fun _ => rfl
  split
  · exact hu
  · exact hu.trans (.of_queues ((pmBoth_only _ _ _ _) .queues (by decide)))

theorem writeFault_places (s : State) (qn : Nat) (c : Cmd) : PlacesKept s (writeFault s qn c) := by
  unfold writeFault
  refine (PlacesKept.modQueue s qn fun _ => ?_).trans ((PlacesKept.of_queues ((writeRecordTail_only _ _ _) .queues (by decide))).trans
    (.of_queues ((ctxFault_only _ _ _) .queues (by decide))))
  rfl

theorem faultRecord_places (s : State) (qn k : Nat) : PlacesKept s (faultRecord s qn k) := by
  unfold faultRecord
  split
  · exact .refl s
  · split
    · exact writeFault_places _ _ _
    · split
      · exact writeFault_places _ _ _
      · exact .refl s

theorem completeWait_places (s : State) (qn k : Nat) (code : BitVec 16) (d : W64) (cont : Bool) :
    PlacesKept s (completeWait s qn k code d cont) := by
  unfold completeWait
  extract_lets u v
  have hu : PlacesKept s u := completeCore_places _ _ _ _ _ _
  have hv : PlacesKept s v := by
    refine hu.trans ?_
    unfold v
    split
    · exact .refl u
    · exact .of_queues ((errRecord_only _ _ _ _ _ _ _) .queues (by decide))
  refine hv.trans ?_
  split
  · exact faultRecord_places _ _ _
  · exact .refl _

theorem pumpOne_places (n : Nat) (s : State) (k : Nat) : PlacesKept s (pumpOne n s k) := by
  unfold pumpOne
  dsimp only
  split
  · exact .refl s
  · split
    · exact .refl s
    · split
      · split
        · exact completeCore_places _ _ _ _ _ _
        · split
          · split
            · exact completeCore_places _ _ _ _ _ _
            · exact .setQueue rfl
          · exact .setQueue rfl
          · exact .refl s
      · split
        · split
          · exact completeCore_places _ _ _ _ _ _
          · exact .refl s
        · split
          · exact .setQueue rfl
          · exact .refl s
        · split
          · exact (PlacesKept.of_queues ((waitPoison_only s n _) .queues (by decide))).trans (completeWait_places _ _ _ _ _ _)
          · exact .refl s
      · exact .refl s

theorem waitOver_place (q : Queue) : q.waitOver.place = q.place := by
  unfold Queue.waitOver
  split <;> rfl

theorem pump_places (s : State) (n : Nat) : PlacesKept s (pump s n) :=
  (PlacesKept.foldl (pumpOne_places n) _ s).trans (.modQueue _ n waitOver_place)

theorem regEval_places (s : State) : PlacesKept s (regEval s) := regEval_view Queue.place (fun _ _ _ => rfl) s

theorem pumpAll_places (s : State) : PlacesKept s (pumpAll s) :=
  (PlacesKept.foldl pump_places _ s).trans (regEval_places _)

/-! ## A queue in which nothing is due -/

/-- A command that starting what may start leaves alone: it is complete, or holds a wait slot, or a copy engine runs it (R274). -/
def Cmd.stays (c : Cmd) : Prop := c.isDone = true ∨ c.phase = .pendingWait ∨ (c.phase = .started ∧ c.body.isMove = true)

theorem isMove_cases {b : Body} (h : b.isMove = true) :
    (∃ src dst so off len, b = .copy src dst so off len) ∨ ∃ dst off len pat, b = .fill dst off len pat := by
  cases b with
  | copy src dst so off len => exact .inl ⟨src, dst, so, off, len, rfl⟩
  | fill dst off len pat => exact .inr ⟨dst, off, len, pat, rfl⟩
  | _ => cases h

theorem pumpOne_of_stays {n : Nat} {s : State} {k : Nat} (h : ∀ c, (s.queue n).cmd k = some c → c.stays) : pumpOne n s k = s := by
  unfold pumpOne
  dsimp only
  split
  · rfl
  · rename_i c hc
    split
    · rfl
    · rcases h c hc with h | hp | ⟨hp, hm⟩
      · unfold Cmd.isDone at h
        split
        · simp_all
        · simp_all
        · rfl
      · rw [hp]
      · rw [hp]
        rcases isMove_cases hm with ⟨src, dst, so, off, len, e⟩ | ⟨dst, off, len, pat, e⟩ <;> rw [e] <;> rfl

theorem foldl_pumpOne_of_stays {n : Nat} {s : State} (h : ∀ c ∈ (s.queue n).cmds, c.stays) (l : List Nat) :
    l.foldl (pumpOne n) s = s := by
  induction l with
  | nil => rfl
  | cons k l ih => rw [List.foldl_cons, pumpOne_of_stays fun c hc => h c (cmd_mem hc).1, ih]

/-- Where every command of a queue stays, its pump ends a wait of the queue alone (R272). -/
theorem pump_of_stays {s : State} {n : Nat} (h : ∀ c ∈ (s.queue n).cmds, c.stays) :
    pump s n = s.modQueue n Queue.waitOver := by
  unfold pump
  rw [foldl_pumpOne_of_stays h]

/-- Where one command alone is due, the pump is its start, and what the queue makes of it. -/
theorem pump_of_one {s : State} {n : Nat} (hd : ((s.queue n).cmds.map fun c => c.seqNo).Nodup) {c : Cmd}
    (hc : c ∈ (s.queue n).cmds) (h : ∀ d ∈ (s.queue n).cmds, d.seqNo ≠ c.seqNo → d.stays)
    (hafter : ∀ d ∈ ((pumpOne n s c.seqNo).queue n).cmds, d.stays) :
    pump s n = (pumpOne n s c.seqNo).modQueue n Queue.waitOver := by
  unfold pump
  refine congrArg (fun u : State => u.modQueue n Queue.waitOver) ?_
  obtain ⟨a, b, e⟩ := List.append_of_mem (List.mem_map_of_mem (f := fun c : Cmd => c.seqNo) hc)
  rw [e] at hd ⊢
  have hna : c.seqNo ∉ a := fun hm => (List.nodup_append.1 hd).2.2 _ hm _ List.mem_cons_self rfl
  have before : a.foldl (pumpOne n) s = s := by
    clear hd e
    induction a with
    | nil => rfl
    | cons k a ih =>
      rw [List.foldl_cons, pumpOne_of_stays fun d hd => h d (cmd_mem hd).1 ?_]
      · exact ih fun hm => hna (List.mem_cons_of_mem _ hm)
      · rw [(cmd_mem hd).2]
        exact fun e => hna (e ▸ List.mem_cons_self)
  rw [List.foldl_append, List.foldl_cons, before]
  exact foldl_pumpOne_of_stays hafter b

end Sys2Proof.Machine
end

section
/-! SUPPORT. O36 and O37: copies and fills, waits, freed entries, basin fills and the object table (R123, R248, R249, R264, R267,
R283, R423). -/

namespace Sys2Proof.Machine

/-! ## A wait that ends (R264, R272) -/

theorem completeCore_queue (s : State) (n k : Nat) (code : BitVec 16) (sub : Bool) (d : W64) :
    (completeCore s n k code sub d).queue n = (s.queue n).modCmd k fun c => c.ended code sub d s.esc.time := by
  unfold completeCore
  dsimp only
  split
  · exact modQueue_self _ _ _
  · exact (congrArg (fun q => tget Queue.reset q n) ((pmBoth_only _ _ _ _) .queues (by decide))).trans (modQueue_self _ _ _)

/-- A command as it stands recorded once it has faulted its context (R279). -/
def Cmd.faulted (c : Cmd) (time : W64) : Cmd := { c with ctxFault := true, phase := .recorded, refs := [], endTime := time }

theorem writeFault_queue (s : State) (n : Nat) (c : Cmd) :
    (writeFault s n c).queue n = (s.queue n).modCmd c.seqNo fun _ => c.faulted s.esc.time := by
  have e : (writeFault s n c).queues = (s.modQueue n fun q => q.modCmd c.seqNo fun _ => c.faulted s.esc.time).queues :=
    ((ctxFault_only _ _ _) .queues (by decide)).trans ((writeRecordTail_only _ _ _) .queues (by decide))
  exact (congrArg (fun q => tget Queue.reset q n) e).trans (modQueue_self s n _)

/-- The record of a command that faults its context is its own, or that of the INDIRECT whose packet it is (R279). -/
theorem faultRecord_queue (s : State) (n k : Nat) {c : Cmd} (hc : (s.queue n).cmd k = some c)
    (hd : ((s.queue n).cmds.map fun c => c.seqNo).Nodup) : (faultRecord s n k).queue n = s.queue n ∨
      ∃ e : Cmd, e.isDone = true ∧ (e.seqNo = k → e.code = c.code) ∧
        (faultRecord s n k).queue n = (s.queue n).modCmd e.seqNo fun _ => e := by
  obtain ⟨hm, hk⟩ := cmd_mem hc
  unfold faultRecord
  rw [hc]
  dsimp only
  cases hi : c.inner with
  | none => exact .inr ⟨c.faulted s.esc.time, rfl, fun _ => rfl, writeFault_queue s n c⟩
  | some i =>
    dsimp only
    split
    · rename_i o ho
      have hom : o ∈ (s.queue n).cmds := (List.dropWhile_sublist _).subset (List.mem_of_find?_eq_some ho)
      have hind : o.isIndirect = true := List.find?_some ho
      have hkey : ((s.queue n).failures o).seqNo = o.seqNo := congrArg (fun k => k.1) (failures_key (s.queue n) o)
      refine .inr ⟨((s.queue n).failures o).faulted s.esc.time, rfl, fun e => ?_, writeFault_queue s n _⟩
      have : o = c := eq_of_seqNo hd hom hm (hkey.symm.trans (e.trans hk.symm))
      rw [this] at hind
      simp [Cmd.isIndirect, hi] at hind
    · exact .inl rfl

/-- After a wait has completed the commands of its queue are done, and its command has its code. -/
theorem completeWait_done (s : State) (n : Nat) {c : Cmd} (code : BitVec 16) (d : W64) (cont : Bool)
    (hc : (s.queue n).cmd c.seqNo = some c) (hd : ((s.queue n).cmds.map fun c => c.seqNo).Nodup)
    (hrest : ∀ x ∈ (s.queue n).cmds, x.seqNo ≠ c.seqNo → x.isDone = true) :
    (∀ x ∈ ((completeWait s n c.seqNo code d cont).queue n).cmds, x.isDone = true) ∧
      (∃ x ∈ ((completeWait s n c.seqNo code d cont).queue n).cmds, x.seqNo = c.seqNo ∧ x.isDone = true ∧ x.code = code) ∧
      ((completeWait s n c.seqNo code d cont).queue n).state = (s.queue n).state := by
  unfold completeWait
  extract_lets u v
  have hv : v.queue n = (s.queue n).modCmd c.seqNo fun x => x.ended code false (if code = 0#16 then 0#64 else d) s.esc.time := by
    have e : v.queues = u.queues := by
      unfold v
      split
      · rfl
      · exact (errRecord_only u _ _ _ _ _ _) .queues (by decide)
    exact (congrArg (fun q => tget Queue.reset q n) e).trans (completeCore_queue _ _ _ _ _ _)
  clear_value v
  have hall : ∀ x ∈ (v.queue n).cmds, x.isDone = true := fun x hx => by
    rw [hv] at hx
    obtain ⟨y, hy, rfl⟩ := List.mem_map.1 hx
    split
    · rfl
    · rename_i hne
      exact hrest y hy hne
  have hin : c.ended code false (if code = 0#16 then 0#64 else d) s.esc.time ∈ (v.queue n).cmds := by
    rw [hv]
    exact modCmd_mem (cmd_mem hc).1 rfl
  have hst : (v.queue n).state = (s.queue n).state := by rw [hv]; rfl
  have hdv : ((v.queue n).cmds.map fun c => c.seqNo).Nodup := by
    have hk := keys_seqNo (modCmd_keys (s.queue n) c.seqNo
      (fun x => x.ended code false (if code = 0#16 then 0#64 else d) s.esc.time) fun x _ _ => rfl)
    rw [hv, hk]
    exact hd
  split
  · obtain ⟨x, hx⟩ : ∃ x, (v.queue n).cmd c.seqNo = some x := by
      cases h : (v.queue n).cmd c.seqNo with
      | some x => exact ⟨x, rfl⟩
      | none => exact (List.find?_eq_none.1 h _ hin (beq_self_eq_true c.seqNo)).elim
    have hxe := eq_of_seqNo hdv (cmd_mem hx).1 hin (cmd_mem hx).2
    rcases faultRecord_queue v n c.seqNo hx hdv with h | ⟨e, he, hcode, h⟩
    · rw [h]
      exact ⟨hall, ⟨_, hin, rfl, rfl, rfl⟩, hst⟩
    · rw [h]
      refine ⟨fun y hy => ?_, ?_, hst⟩
      · obtain ⟨z, hz, rfl⟩ := List.mem_map.1 hy
        split
        · exact he
        · exact hall z hz
      · by_cases hk : c.seqNo = e.seqNo
        · exact ⟨e, modCmd_mem (f := fun _ => e) hin hk, hk.symm, he, (hcode hk.symm).trans (congrArg (fun c => c.code) hxe)⟩
        · exact ⟨_, mem_modCmd hin hk, rfl, rfl, rfl⟩
  · exact ⟨hall, ⟨_, hin, rfl, rfl, rfl⟩, hst⟩

/-- The pending wait of a queue, as WAIT_SATISFIED finds it. -/
def Queue.pending (q : Queue) : Option Cmd := q.cmds.find? fun c => c.phase == .pendingWait

/-- When a wait may be decided (R267). -/
def State.mayDecide (s : State) (q : Queue) (c : Cmd) : Prop :=
  s.portAlive = true ∧ s.obs.halted = false ∧ s.fr.stopped = false ∧ (s.ctx q.ctx).state = .live ∧ s.waitAcked c.body = true

theorem satisfyWait_none {s : State} {qn : Nat} (h : (s.queue qn).pending = none) : satisfyWait s qn = s := by
  unfold Queue.pending at h
  unfold satisfyWait
  dsimp only
  rw [h]

theorem satisfyWait_undecided {s : State} {qn : Nat} {c : Cmd} (hc : (s.queue qn).pending = some c)
    (h : ¬ s.mayDecide (s.queue qn) c ∨ s.waitOutcome c.body = none) : satisfyWait s qn = s := by
  unfold Queue.pending at hc
  unfold satisfyWait
  dsimp only
  rw [hc]
  dsimp only
  rcases h with h | h
  · refine if_neg fun hh => h ?_
    simpa [State.mayDecide, and_assoc] using hh
  · rw [h]
    exact ite_self _

theorem satisfyWait_decided {s : State} {qn : Nat} {c : Cmd} {r : BitVec 16 × W64} (hc : (s.queue qn).pending = some c)
    (h : s.mayDecide (s.queue qn) c) (hr : s.waitOutcome c.body = some r) : satisfyWait s qn =
      if s.startOpen (s.queue qn) then
        regEval (pump (s.modQueue qn fun q => q.modCmd c.seqNo fun c =>
          { c with phase := .started, code := r.1, detail := r.2 }) qn)
      else s.modQueue qn fun q => q.modCmd c.seqNo fun c => { c with met := some (c.met.getD r) } := by
  unfold Queue.pending at hc
  unfold satisfyWait
  dsimp only
  rw [hc]
  dsimp only
  rw [if_pos, hr]
  simpa [State.mayDecide, and_assoc] using h

/-- The start of a WAIT or BARRIER whose turn has come is its end (R264). -/
theorem pumpOne_wait {s : State} {n : Nat} {c : Cmd} (hc : (s.queue n).cmd c.seqNo = some c) (hp : c.phase = .started)
    (hw : c.body.isWait = true) (ho : s.startOpen (s.queue n) = true) (hm : (s.queue n).mayStart c = true) :
    pumpOne n s c.seqNo = completeWait (waitPoison s n c.body) n c.seqNo c.code c.detail c.body.cont := by
  unfold pumpOne
  dsimp only
  rw [hc]
  dsimp only
  rw [if_neg (by simp [ho, hm]), hp]
  dsimp only
  split
  · rename_i hb
    rw [hb] at hw
    cases hw
  · rename_i hb
    rw [hb] at hw
    cases hw
  · exact if_pos hw

theorem mayStart_of_done {q : Queue} {c : Cmd} (h : ∀ d ∈ q.cmds, d.seqNo ≠ c.seqNo → d.isDone = true) :
    q.mayStart c = true := by
  have hb : ∀ d ∈ q.before c.seqNo, d.isDone = true := fun d hd => by
    have hd := List.mem_reverse.1 hd
    have := List.all_eq_true.1 (List.all_takeWhile (p := fun c' : Cmd => c'.seqNo != c.seqNo) (l := q.cmds)) d hd
    exact h d ((List.takeWhile_sublist _).subset hd) (by simpa using this)
  unfold Queue.mayStart mayStartAfter
  rw [Bool.and_eq_true]
  refine ⟨List.all_eq_true.2 fun d hd => by simp [hb d hd], ?_⟩
  cases hq : q.before c.seqNo with
  | nil => rfl
  | cons p r => simp [hb p (hq ▸ List.mem_cons_self)]

/-- A wait that is decided where the queue's other commands are complete ends, and its queue goes on (R264, R272). -/
theorem satisfyWait_spec {s : State} {qn : Nat} {c : Cmd} {r : BitVec 16 × W64} (hc : (s.queue qn).pending = some c)
    (h : s.mayDecide (s.queue qn) c) (hr : s.waitOutcome c.body = some r) (ho : s.startOpen (s.queue qn) = true)
    (hw : c.body.isWait = true) (hd : DistinctCmds s)
    (hrest : ∀ d ∈ (s.queue qn).cmds, d.seqNo ≠ c.seqNo → d.isDone = true) :
    (∃ d ∈ ((satisfyWait s qn).queue qn).cmds, d.seqNo = c.seqNo ∧ d.isDone = true ∧ d.code = r.1) ∧
      ((s.queue qn).state = .waiting → ((satisfyWait s qn).queue qn).state =
        if (s.queue qn).head = (s.queue qn).tail ∧ (s.queue qn).indirect = none then .idle else .ready) := by
  have hcm : c ∈ (s.queue qn).cmds := List.mem_of_find?_eq_some hc
  rw [satisfyWait_decided hc h hr, if_pos ho]
  obtain ⟨e, he⟩ : ∃ e : Cmd, e = { c with phase := .started, code := r.1, detail := r.2 } := ⟨_, rfl⟩
  obtain ⟨u, hu⟩ : ∃ u, u = s.modQueue qn fun q => q.modCmd c.seqNo fun c =>
    { c with phase := .started, code := r.1, detail := r.2 } := ⟨_, rfl⟩
  rw [← hu]
  have hq : u.queue qn = (s.queue qn).modCmd c.seqNo fun c => { c with phase := .started, code := r.1, detail := r.2 } := by
    rw [hu, modQueue_self]
  have hdu : ((u.queue qn).cmds.map fun c => c.seqNo).Nodup := by
    rw [hq, keys_seqNo (modCmd_keys (s.queue qn) c.seqNo (fun c => { c with phase := .started, code := r.1, detail := r.2 })
      fun _ _ _ => rfl)]
    exact hd qn
  have hem : e ∈ (u.queue qn).cmds := by
    rw [hq, he]
    exact modCmd_mem (f := fun c => { c with phase := .started, code := r.1, detail := r.2 }) hcm rfl
  have hrestu : ∀ x ∈ (u.queue qn).cmds, x.seqNo ≠ c.seqNo → x.isDone = true := fun x hx hne => by
    rw [hq] at hx
    obtain ⟨y, hy, rfl⟩ := List.mem_map.1 hx
    by_cases hk : y.seqNo = c.seqNo
    · rw [if_pos hk] at hne
      exact absurd hk hne
    · rw [if_neg hk]
      exact hrest y hy hk
  have hce : (u.queue qn).cmd e.seqNo = some e := by
    cases hx : (u.queue qn).cmd e.seqNo with
    | none => exact (List.find?_eq_none.1 hx _ hem (beq_self_eq_true e.seqNo)).elim
    | some x => rw [eq_of_seqNo hdu (cmd_mem hx).1 hem (cmd_mem hx).2]
  have hek : e.seqNo = c.seqNo := by rw [he]
  have hone : pumpOne qn u e.seqNo = completeWait (waitPoison u qn e.body) qn e.seqNo e.code e.detail e.body.cont := by
    refine pumpOne_wait hce (by rw [he]) (by rw [he]; exact hw) ?_ (mayStart_of_done (by rw [hek]; exact hrestu))
    rw [hq, hu]
    exact ho
  obtain ⟨v, hv⟩ : ∃ v, v = waitPoison u qn e.body := ⟨_, rfl⟩
  have hvq : v.queue qn = u.queue qn :=
    congrArg (fun q => tget Queue.reset q qn) ((hv ▸ waitPoison_only u qn e.body : Only _ u v) .queues (by decide))
  obtain ⟨hall, ⟨d, hdm, hdk, hdd, hdc⟩, hst⟩ := completeWait_done v qn (c := e) e.code e.detail e.body.cont
    (by rw [hvq]; exact hce) (by rw [hvq]; exact hdu) (by rw [hvq, hek]; exact hrestu)
  rw [← hv] at hone
  have hpump := pump_of_one hdu hem (fun x hx hne => .inl (hrestu x hx (hek ▸ hne)))
    (fun x hx => .inl (hall x (by rw [hone] at hx; exact hx)))
  have hplace : ((pumpOne qn u e.seqNo).queue qn).place = (s.queue qn).place := by
    rw [pumpOne_places qn u e.seqNo qn, hq]
    rfl
  rw [hone] at hpump hplace
  generalize completeWait v qn e.seqNo e.code e.detail e.body.cont = w at hall hdm hst hpump hplace
  rw [hpump]
  have hcmds : ((regEval (w.modQueue qn Queue.waitOver)).queue qn).cmds = (w.queue qn).cmds := by
    rw [regEval_cmds, modQueue_self]
    unfold Queue.waitOver
    split <;> rfl
  refine ⟨⟨d, by rwa [hcmds], hdk.trans hek, hdd, by rw [hdc, he]⟩, fun hwait => ?_⟩
  rw [regEval_view (fun q => q.state) (fun _ _ _ => rfl), modQueue_self]
  unfold Queue.place at hplace
  obtain ⟨hh, ht, hi, -, -⟩ : (w.queue qn).head = (s.queue qn).head ∧ (w.queue qn).tail = (s.queue qn).tail ∧
      (w.queue qn).indirect = (s.queue qn).indirect ∧ (w.queue qn).held = (s.queue qn).held ∧
        (w.queue qn).ctx = (s.queue qn).ctx := by
    simpa only [Prod.mk.injEq] using hplace
  unfold Queue.waitOver Queue.restState
  rw [if_pos, hh, ht, hi]
  refine ⟨hst.trans (by rw [hvq, hq]; exact hwait), List.all_eq_true.2 fun x hx => ?_⟩
  have := hall x hx
  unfold Cmd.isDone at this
  cases hp : x.phase <;> simp_all

end Sys2Proof.Machine
end

section
/-! SUPPORT. O37: what ends outside fetch (R123, R248, R249, R267, R293). -/

namespace Sys2Proof.Machine

/-! ## Freed entries (R248, R249) -/

theorem freeDone_freeing {s : State} {i : Nat} (h : (s.obj i).state = .freeing) (hr : s.ownRefs i = 0) :
    freeDone s i = pumpAll (pruneHeld (s.setObj i { s.obj i with
      gen := nextGen (s.obj i).gen, state := if s.importsOf i = 0 then .free else .orphaned })) := by
  unfold freeDone
  dsimp only
  rw [h]
  exact if_pos hr

theorem freeDone_orphaned {s : State} {i : Nat} (h : (s.obj i).state = .orphaned) (hr : s.refs i = 0) :
    freeDone s i = pruneHeld (s.setObj i { s.obj i with state := .free }) := by
  unfold freeDone
  dsimp only
  rw [h]
  exact if_pos hr

theorem freeDone_held {s : State} {i : Nat} (h : ((s.obj i).state = .freeing ∧ s.ownRefs i ≠ 0) ∨
    ((s.obj i).state = .orphaned ∧ s.refs i ≠ 0) ∨ ((s.obj i).state ≠ .freeing ∧ (s.obj i).state ≠ .orphaned)) :
    freeDone s i = s := by
  unfold freeDone
  dsimp only
  rcases h with ⟨h, hr⟩ | ⟨h, hr⟩ | ⟨h1, h2⟩
  · rw [h]
    exact if_neg hr
  · rw [h]
    exact if_neg hr
  · cases hst : (s.obj i).state <;> simp_all

theorem freeDone_freeing_obj {s : State} {i : Nat} (h : (s.obj i).state = .freeing) (hr : s.ownRefs i = 0) (k : Nat) :
    (freeDone s i).obj k = if k = i then { s.obj i with
      gen := nextGen (s.obj i).gen, state := if s.importsOf i = 0 then .free else .orphaned } else s.obj k := by
  rw [freeDone_freeing h hr]
  generalize hu : s.setObj i _ = u
  refine (obj_of_only (pumpAll_only _) (by decide) (by decide) k).trans ((obj_of_only (pruneHeld_only u) (by decide) (by decide) k).trans ?_)
  rw [← hu]
  by_cases e : k = i
  · rw [e, State.setObj_obj, if_pos rfl]
  · rw [State.setObj_obj_ne _ _ _ _ e, if_neg e]

theorem freeDone_orphaned_obj {s : State} {i : Nat} (h : (s.obj i).state = .orphaned) (hr : s.refs i = 0) (k : Nat) :
    (freeDone s i).obj k = if k = i then { s.obj i with state := .free } else s.obj k := by
  rw [freeDone_orphaned h hr]
  generalize hu : s.setObj i _ = u
  refine (obj_of_only (pruneHeld_only u) (by decide) (by decide) k).trans ?_
  rw [← hu]
  by_cases e : k = i
  · rw [e, State.setObj_obj, if_pos rfl]
  · rw [State.setObj_obj_ne _ _ _ _ e, if_neg e]

theorem freeDone_orphaned_only {s : State} {i : Nat} (h : (s.obj i).state = .orphaned) (hr : s.refs i = 0) :
    Only [.objs, .insts, .pool] s (freeDone s i) := by
  rw [freeDone_orphaned h hr]
  exact (pruneHeld_only _).step (by decide) ((State.setObj_only _ _ _).wider (by decide))

/-! ## Basin fills (R123, R421) -/

/-- What a completed fill of a slot leaves before its poisoned lines are reported. -/
def filledBasin (s : State) (slot : Nat) (b : Binding) (d : SlotDecl) : State :=
  ({ s with basin := tput s.basin slot (s.basinOf b.obj d.basinBytes) } : State).modRun fun r =>
    { r with bindings := tput r.bindings slot { b with filled := true, refilling := false } }

theorem fillDone_fills {s : State} {slot : Nat} {r : Running} {b : Binding} {d : SlotDecl} (hr : s.run = some r)
    (hb : tfind r.bindings slot = some b) (hd : r.img.slotDecl slot = some d) (hw : b.waits = true) (hn : r.fillNext d = true) :
    Only [.fr, .chime, .obs, .freeCount] (filledBasin s slot b d) (fillDone s slot) := by
  have e : filledBasin s slot b d = ({ s with basin := tput s.basin slot (s.basinOf b.obj d.basinBytes), run := some (
      { r with bindings := tput r.bindings slot { b with filled := true, refilling := false } } : Running) } : State) := by
    unfold filledBasin State.modRun
    rw [hr]
    rfl
  rw [e]
  unfold fillDone
  rw [hr]
  dsimp only
  rw [hb, hd]
  dsimp only
  rw [if_pos (by simp [hw, hn])]
  exact .foldl (fun u l => (errRecord_only _ _ _ _ _ _ _).wider (by decide)) (.refl _ _)

theorem fillDone_waits {s : State} {slot : Nat} {r : Running} {b : Binding} {d : SlotDecl} (hr : s.run = some r)
    (hb : tfind r.bindings slot = some b) (hd : r.img.slotDecl slot = some d) (h : b.waits = false ∨ r.fillNext d = false) :
    fillDone s slot = s := by
  unfold fillDone
  rw [hr]
  dsimp only
  rw [hb, hd]
  exact if_neg (by rcases h with h | h <;> simp [h])

/-! ## The object table (R248, R293) -/

theorem exec_objTableEnable {s : State} {who : Who} (h : ManagerMay s who) (data : W64) :
    exec (.objTableEnable who data) s = .next (setObjBase s data) :=
  congrArg Host.Outcome.next (hostWrite_may h 0x600 true _ (by decide) rfl)

theorem objBase_field (v : Nat) : bitField v 47 23 = v / 2 ^ 23 % 2 ^ 25 := by
  unfold bitField
  rw [Nat.shiftRight_eq_div_pow]

theorem bitAt_zero (v : Nat) : bitAt v 0 = decide (v % 2 = 1) := by
  unfold bitAt bitField
  simp only [Nat.shiftRight_zero, Nat.zero_add, Nat.sub_zero, Nat.pow_one]
  rcases Nat.mod_two_eq_zero_or_one v with h | h <;> rw [h] <;> rfl

/-- Settles O37: each event acts where its condition holds and changes nothing elsewhere; a wait that is decided is the one
command that its queue's pump starts (`pump_of_one`). -/
theorem waitsFreesFillsAndTheTable : Obligations.WaitsFreesFillsAndTheTable := by
  refine ⟨fun s queue => ?_, fun s index hp hh => ?_, fun s slot r b d hp hh hr hb hd => ?_, fun s who data hm => ?_,
    fun s hp hh => ?_⟩
  · intro qn q found may
    have e : exec (.waitSatisfied queue) s = .next (satisfyWait s qn) := rfl
    refine ⟨fun h => ?_, fun c hc h => ?_, fun c r hc hm hr ho hw hd hrest => ?_, fun c r hc hm hr ho => ?_⟩
    · rw [e, satisfyWait_none h]
    · rw [e, satisfyWait_undecided hc h]
    · obtain ⟨h1, h2⟩ := satisfyWait_spec hc hm hr ho hw hd hrest
      exact ⟨_, e, h1, h2, Only.wider (exec_only (.waitSatisfied queue) s _ e) rfl⟩
    · rw [e, satisfyWait_decided hc hm hr, if_neg (by rw [ho]; exact Bool.false_ne_true)]
  · have e : exec (.freeComplete index) s = .next (freeDone s index.toNat) := congrArg Host.Outcome.next (if_pos (by simp [hp, hh]))
    intro i o
    refine ⟨fun h hr => ?_, fun h hr => ?_, fun h => ?_⟩
    · refine ⟨_, e, (freeDone_freeing_obj h hr i).trans (if_pos rfl), fun k hk => (freeDone_freeing_obj h hr k).trans (if_neg hk), ?_⟩
      exact Only.wider (exec_only (.freeComplete index) s _ e) rfl
    · exact ⟨_, e, (freeDone_orphaned_obj h hr i).trans (if_pos rfl),
        fun k hk => (freeDone_orphaned_obj h hr k).trans (if_neg hk), freeDone_orphaned_only h hr⟩
    · rw [e, freeDone_held h]
  · have e : exec (.basinFillDone slot) s = .next (fillDone s slot.toNat) := congrArg Host.Outcome.next (if_pos (by simp [hp, hh]))
    intro base
    refine ⟨fun hw hn => ?_, fun h => ?_⟩
    · have ho := fillDone_fills hr hb hd hw hn
      refine ⟨_, e, ho .basin (by decide), (ho .run (by decide)).trans ?_, ?_⟩
      · change Option.map _ s.run = _
        rw [hr]
        rfl
      · exact Only.wider (exec_only (.basinFillDone slot) s _ e) rfl
    · rw [e, fillDone_waits hr hb hd h]
  · intro base kp
    rw [exec_objTableEnable hm]
    unfold setObjBase
    dsimp only
    rw [objBase_field, bitAt_zero]
    refine ⟨fun h => by rw [if_pos h], fun h => ?_⟩
    rw [if_neg (by simp [h])]
    refine ⟨fun h0 => ?_, fun h1 ht => ?_, fun h1 ht => ?_⟩
    · rw [if_neg (by simp [h0])]
    · rw [if_pos (by simp [h1]), if_pos ht]
    · rw [if_pos (by simp [h1]), if_neg (by rw [ht]; exact Bool.false_ne_true)]
  · exact congrArg Host.Outcome.next (if_pos (by simp [hp, hh]))

end Sys2Proof.Machine
end

section
/-! SUPPORT. O36: COPY and FILL (R243, R245, R254 to R256, R283, R423). -/

namespace Sys2Proof.Machine

/-! ## Completing a command where none waits -/

theorem completeCore_calm {s : State} (hs : Settled s) {n k : Nat} {c : Cmd} (hc : (s.queue n).cmd k = some c)
    (hd : c.isDone = false) (code : BitVec 16) (sub : Bool) (d : W64) : PumpCalm s (completeCore s n k code sub d) := by
  unfold completeCore
  extract_lets u
  have hu : PumpCalm s u := .ends hs hc hd (fun _ => rfl) fun _ => rfl
  split
  · exact hu
  · exact hu.trans (.of_parts hu.settled (pmBoth_only _ _ _ _) (by decide) (by decide))

theorem completeCmd_calm {s : State} (hs : Settled s) {n k : Nat} {c : Cmd} (hc : (s.queue n).cmd k = some c)
    (hd : c.isDone = false) (code : BitVec 16) (sub : Bool) (d : W64) : PumpCalm s (completeCmd s n k code sub d) := by
  have h1 := completeCore_calm hs hc hd code sub d
  have h2 := h1.trans (pump_calm n h1.settled)
  exact h2.trans (regEval_calm h2.settled)

/-! ## The copy engine of a partition -/

theorem gvUpdate_copyRun (s : State) (q p : Nat) : ((gvUpdate s q).rgPart p).copyRun = (s.rgPart p).copyRun := by
  unfold gvUpdate
  split
  · rfl
  · unfold State.modRgPart
    by_cases e : p = q
    · rw [e, State.setRgPart_rgPart]
    · rw [State.setRgPart_rgPart_ne _ _ _ _ e]

theorem regQueue_copyRun (s : State) (n p : Nat) : ((regQueue s n).rgPart p).copyRun = (s.rgPart p).copyRun := by
  unfold regQueue
  dsimp only
  split
  · rfl
  · split
    · exact gvUpdate_copyRun _ _ _
    · rfl

theorem regEval_copyRun (s : State) (p : Nat) : ((regEval s).rgPart p).copyRun = (s.rgPart p).copyRun := by
  unfold regEval
  generalize s.queues.map (fun q => q.1) = l
  induction l generalizing s with
  | nil => rfl
  | cons n l ih => rw [List.foldl_cons, ih, regQueue_copyRun]

theorem rgPart_of {s t : State} (h : t.rgParts = s.rgParts) (p : Nat) : t.rgPart p = s.rgPart p := by
  unfold State.rgPart
  rw [h]

theorem completeCmd_copyRun (s : State) (n k : Nat) (code : BitVec 16) (sub : Bool) (d : W64) (p : Nat) :
    ((completeCmd s n k code sub d).rgPart p).copyRun = (s.rgPart p).copyRun := by
  unfold completeCmd
  rw [regEval_copyRun, rgPart_of ((pump_only _ _) .rgParts (by decide))]
  refine congrArg (fun r => r.copyRun) (rgPart_of ?_ p)
  unfold completeCore
  dsimp only
  split
  · rfl
  · exact (pmBoth_only _ _ _ _) .rgParts (by decide)

/-! ## Start (R255, R256) -/

theorem mem_insertBy {α : Type} (le : α → α → Bool) (x y : α) (l : List α) : y ∈ insertBy le x l ↔ y = x ∨ y ∈ l := by
  induction l with
  | nil => simp [insertBy]
  | cons z r ih =>
    unfold insertBy
    split
    · simp
    · rw [List.mem_cons, ih, List.mem_cons]
      tauto

theorem mem_sortBy {α : Type} (le : α → α → Bool) (y : α) (l : List α) : y ∈ sortBy le l ↔ y ∈ l := by
  unfold sortBy
  induction l with
  | nil => rfl
  | cons x l ih => rw [List.foldr_cons, mem_insertBy, ih, List.mem_cons]

theorem startable_isMove {s : State} {p qn : Nat} {c : Cmd} (h : (qn, c) ∈ s.startableMoves p) : c.body.isMove = true := by
  unfold State.startableMoves at h
  dsimp only at h
  rw [mem_sortBy, List.mem_flatMap] at h
  obtain ⟨q, -, h⟩ := h
  obtain ⟨d, hd, e⟩ := List.mem_map.1 h
  cases e
  have := (List.mem_filter.1 hd).2
  simp only [Bool.and_eq_true] at this
  exact this.1.1.1.2

theorem startMove_idle {s : State} {p : Nat} (h : (s.rgPart p).copyRun.isSome = true ∨ s.fetches = false ∨ s.startableMoves p = []) :
    startMove s p = s := by
  unfold startMove
  rcases h with h | h | h
  · exact if_pos (by simp [h])
  · exact if_pos (by simp [h])
  · rw [h]
    exact ite_self _

/-- The commands that a copy engine starts, as it pins them (R255). -/
def Cmd.moving (c : Cmd) (pins : List (Nat × Bool)) (time : W64) : Cmd :=
  { c with phase := .started, pins := pins, startTime := time }

/-- The state in which the first command that may start has started. -/
def moveStarted (s : State) (p qn : Nat) (c : Cmd) : State :=
  (s.modQueue qn fun q => q.modCmd c.seqNo fun d => d.moving ((s.cmdReads c).map fun i => (i, s.version i)) s.esc.time).modRgPart p
    fun r => { r with copyRun := some (qn, c.seqNo) }

theorem startMove_eq {s : State} {p qn : Nat} {c : Cmd} {rest : List (Nat × Cmd)} (hf : (s.rgPart p).copyRun = none)
    (ho : s.fetches = true) (hs : s.startableMoves p = (qn, c) :: rest) :
    startMove s p = regEval (pump (moveStarted s p qn c) qn) := by
  unfold startMove
  rw [if_neg (by simp [hf, ho]), hs]
  rfl

theorem startMove_spec {s : State} {p qn : Nat} {c : Cmd} {rest : List (Nat × Cmd)} (hf : (s.rgPart p).copyRun = none)
    (ho : s.fetches = true) (hs : s.startableMoves p = (qn, c) :: rest) (hc : (s.queue qn).cmd c.seqNo = some c) :
    ((startMove s p).rgPart p).copyRun = some (qn, c.seqNo) ∧
      ((∀ d ∈ (s.queue qn).cmds, d.seqNo ≠ c.seqNo → d.isDone = true) → DistinctCmds s →
        ∃ d ∈ ((startMove s p).queue qn).cmds, d.seqNo = c.seqNo ∧ d.phase = .started ∧
          d.pins = (s.cmdReads c).map fun i => (i, s.version i)) := by
  have hq : (moveStarted s p qn c).queue qn = (s.queue qn).modCmd c.seqNo fun d =>
      d.moving ((s.cmdReads c).map fun i => (i, s.version i)) s.esc.time := tget_tput_self _ _ _ _
  rw [startMove_eq hf ho hs]
  refine ⟨?_, fun hrest hd => ?_⟩
  · rw [regEval_copyRun, rgPart_of ((pump_only _ _) .rgParts (by decide))]
    exact congrArg (fun r => r.copyRun) (State.setRgPart_rgPart _ p _)
  · have hmove : c.body.isMove = true := startable_isMove (s := s) (p := p) (qn := qn) (by rw [hs]; exact List.mem_cons_self)
    have hstays : ∀ d ∈ ((moveStarted s p qn c).queue qn).cmds, d.stays := fun d hdm => by
      rw [hq] at hdm
      obtain ⟨y, hy, rfl⟩ := List.mem_map.1 hdm
      split
      · rename_i hk
        rw [eq_of_seqNo (hd qn) hy (cmd_mem hc).1 hk]
        exact .inr (.inr ⟨rfl, hmove⟩)
      · rename_i hk
        exact .inl (hrest y hy hk)
    refine ⟨c.moving ((s.cmdReads c).map fun i => (i, s.version i)) s.esc.time, ?_, rfl, rfl, rfl⟩
    rw [regEval_cmds, pump_of_stays hstays, modQueue_self]
    have : ∀ q : Queue, q.waitOver.cmds = q.cmds := fun q => by
      unfold Queue.waitOver
      split <;> rfl
    rw [this, hq]
    exact modCmd_mem (f := fun d => d.moving _ _) (cmd_mem hc).1 rfl

/-! ## The end of a run (R243, R283, R423) -/

/-- t is s after the end of a run: the engine is free, and its command, which had written the roots, is complete with the code. -/
def MoveEnds (s t : State) (p qn n : Nat) (code : BitVec 16) (wrote : List Nat) : Prop :=
  (t.rgPart p).copyRun = none ∧
    (∃ d ∈ (t.queue qn).cmds, d.seqNo = n ∧ d.phase = .completed ∧ d.code = code ∧ d.wrote = wrote) ∧
      (Settled s → t.mem = s.mem)

theorem not_isIndirect_of_isMove {c : Cmd} (h : c.body.isMove = true) : c.isIndirect = false := by
  unfold Cmd.isIndirect
  rcases isMove_cases h with ⟨src, dst, so, off, len, e⟩ | ⟨dst, off, len, pat, e⟩ <;> rw [e] <;> exact Bool.and_false _

theorem endMove_ends {s : State} {p qn n : Nat} {c : Cmd} (code : BitVec 16) (hc : (s.queue qn).cmd n = some c)
    (hd : c.isDone = false) (hmv : c.body.isMove = true) (hdis : DistinctCmds s) :
    MoveEnds s (endMove s p qn n code) p qn n code c.wrote := by
  have hu : Only [.rgParts, .ctxs] s (addCounts (s.modRgPart p fun r => { r with copyRun := none })
      ((s.modRgPart p fun r => { r with copyRun := none }).queueCtx qn) c.counts) :=
    (addCounts_only _ _ _).step (by decide) ((State.modRgPart_only _ _ _).wider (by decide))
  have hrun : ((addCounts (s.modRgPart p fun r => { r with copyRun := none })
      ((s.modRgPart p fun r => { r with copyRun := none }).queueCtx qn) c.counts).rgPart p).copyRun = none := by
    rw [rgPart_of ((addCounts_only _ _ _) .rgParts (by decide))]
    exact congrArg (fun r => r.copyRun) (State.setRgPart_rgPart _ p _)
  have he : endMove s p qn n code = completeCmd (addCounts (s.modRgPart p fun r => { r with copyRun := none })
      ((s.modRgPart p fun r => { r with copyRun := none }).queueCtx qn) c.counts) qn n code false 0#64 := by
    unfold endMove
    dsimp only
    rw [show (s.modRgPart p fun r => { r with copyRun := none }).queue qn = s.queue qn from rfl, hc]
  rw [he]
  generalize addCounts _ _ _ = u at hu hrun
  have hq : u.queues = s.queues := hu .queues (by decide)
  have hcu : (u.queue qn).cmd n = some c := by
    unfold State.queue
    rw [hq]
    exact hc
  have hcu' := completeCmd_spec u qn n code false 0#64 c ((CmdsKept.of_queues hq).distinct hdis) hcu hd (not_isIndirect_of_isMove hmv)
  refine ⟨(completeCmd_copyRun _ _ _ _ _ _ _).trans hrun, ⟨_, hcu'.2, (cmd_mem hc).2, rfl, rfl, rfl⟩, fun hs => ?_⟩
  exact (completeCmd_calm (Settled.of_queues hs hq) hcu hd code false 0#64).mem.trans (hu .mem (by decide))

/-- What was reported before the end of a run does not change it. -/
theorem MoveEnds.of_reported {s u t : State} {p qn n : Nat} {code : BitVec 16} {w : List Nat} (h : MoveEnds u t p qn n code w)
    (hq : u.queues = s.queues) (hm : u.mem = s.mem) : MoveEnds s t p qn n code w :=
  ⟨h.1, h.2.1, fun hs => (h.2.2 (Settled.of_queues hs hq)).trans hm⟩

/-- The state in which the bytes of a run are stored and its command has written its root. -/
def moveStored (s : State) (qn n : Nat) (dst : W32) (off : Nat) (bs : List Byte) : State :=
  let v := blockWrite s (.inst (s.ctx (s.queueCtx qn)).inst) (s.ctx (s.queueCtx qn)).inst (some (s.queueCtx qn)) s.poolPorts off
    (s.stagingBase dst + off) bs
  v.modQueue qn fun q => q.modCmd n fun c => { c with
    wrote := [v.rootOf (handleIndex dst)], counts := tput c.counts 5 (tget 0 c.counts 5 + bs.length) }

section
variable {s : State} {p qn n : Nat} {c : Cmd} (hrun : (s.rgPart p).copyRun = some (qn, n)) (hc : (s.queue qn).cmd n = some c)
include hrun hc

theorem finishMove_held (h : s.copyHeld p = true) : finishMove s p = s := by
  unfold finishMove
  rw [hrun]
  dsimp only
  rw [hc]
  exact if_pos h

theorem finishMove_denied (h : s.copyHeld p = false) (hden : s.moveDenied c = true) : finishMove s p =
    endMove (errRecord s 1 none none (some p) Config.ACCESS_DENIED 0) p qn n Config.ACCESS_DENIED := by
  unfold finishMove
  rw [hrun]
  dsimp only
  rw [hc]
  dsimp only
  rw [if_neg (by simp [h]), if_pos hden]

theorem finishMove_poison {a : Nat} (h : s.copyHeld p = false) (hden : s.moveDenied c = false) (hpo : s.movePoison c = some a) :
    finishMove s p = endMove (errRecord s 1 (some 8) none (some p) Config.MEM_POISON a) p qn n Config.MEM_POISON := by
  unfold finishMove
  rw [hrun]
  dsimp only
  rw [hc]
  dsimp only
  rw [if_neg (by simp [h]), if_neg (by simp [hden]), hpo]
  rfl

theorem finishMove_moves {dst : W32} {off : Nat} {bs : List Byte} (h : s.copyHeld p = false) (hden : s.moveDenied c = false)
    (hpo : s.movePoison c = none) (hb : s.moveBytes c = some (dst, off, bs)) :
    finishMove s p = endMove (moveStored s qn n dst off bs) p qn n Config.NONE := by
  unfold finishMove
  rw [hrun]
  dsimp only
  rw [hc]
  dsimp only
  rw [if_neg (by simp [h]), if_neg (by simp [hden]), hpo, hb]
  rfl

end

theorem cmd_modCmd {f : Cmd → Cmd} (hf : ∀ c, (f c).seqNo = c.seqNo) (q : Queue) (k : Nat) :
    (q.modCmd k f).cmd k = (q.cmd k).map f := by
  unfold Queue.cmd Queue.modCmd
  dsimp only
  rw [List.find?_map]
  have e : ((fun c : Cmd => c.seqNo == k) ∘ fun c => if c.seqNo = k then f c else c) = fun c => c.seqNo == k := by
    funext c
    dsimp only [Function.comp]
    split
    · rw [hf]
    · rfl
  rw [e]
  cases h : q.cmds.find? fun c => c.seqNo == k with
  | none => rfl
  | some c => exact congrArg some (if_pos (cmd_mem h).2)

/-- The end of a run that stored its bytes. -/
theorem moveStored_ends {s : State} {p qn n : Nat} {c : Cmd} (hc : (s.queue qn).cmd n = some c) (hd : c.isDone = false)
    (hmv : c.body.isMove = true) (hdis : DistinctCmds s) (dst : W32) (off : Nat) (bs : List Byte) (code : BitVec 16) :
    let t := endMove (moveStored s qn n dst off bs) p qn n code
    (t.rgPart p).copyRun = none ∧
      (∃ d ∈ (t.queue qn).cmds, d.seqNo = n ∧ d.phase = .completed ∧ d.code = code ∧ d.wrote = [s.rootOf (handleIndex dst)]) ∧
        (Settled s → Stores s t (s.stagingBase dst + off) bs) := by
  intro t
  obtain ⟨f, hf⟩ : ∃ f : Cmd → Cmd, f = fun c => { c with
      wrote := [s.rootOf (handleIndex dst)], counts := tput c.counts 5 (tget 0 c.counts 5 + bs.length) } := ⟨_, rfl⟩
  obtain ⟨v, hv⟩ : ∃ v, v = blockWrite s (.inst (s.ctx (s.queueCtx qn)).inst) (s.ctx (s.queueCtx qn)).inst
    (some (s.queueCtx qn)) s.poolPorts off (s.stagingBase dst + off) bs := ⟨_, rfl⟩
  have hvo : Only blockWriteParts s v := hv ▸ blockWrite_only _ _ _ _ _ _ _ _
  have hroot : v.rootOf (handleIndex dst) = s.rootOf (handleIndex dst) :=
    congrArg (fun o : Obj => o.parent) (obj_of_only hvo (by decide) (by decide) _)
  have hu : moveStored s qn n dst off bs = v.modQueue qn fun q => q.modCmd n f := by
    rw [hf, ← hroot, hv]
    rfl
  have hvm : v.mem = memPutAll s.mem (s.stagingBase dst + off) bs := hv ▸ blockWrite_mem _ _ _ _ _ _ _ _
  have hvq (m : Nat) : v.queue m = s.queue m := congrArg (fun q => tget Queue.reset q m) (hvo .queues (by decide))
  have hfk (c : Cmd) : (f c).key = c.key := by rw [hf]; rfl
  have hcu : ((v.modQueue qn fun q => q.modCmd n f).queue qn).cmd n = some (f c) := by
    rw [modQueue_self, cmd_modCmd (fun c => congrArg (fun k => k.1) (hfk c)), hvq, hc]
    rfl
  have hdu : DistinctCmds (v.modQueue qn fun q => q.modCmd n f) := fun m => by
    by_cases e : m = qn
    · rw [e, modQueue_self, hvq, keys_seqNo (modCmd_keys (s.queue qn) n f fun c _ _ => hfk c)]
      exact hdis qn
    · rw [modQueue_ne _ _ _ _ e, hvq]
      exact hdis m
  have h := endMove_ends (p := p) code hcu (by rw [hf]; exact hd) (by rw [hf]; exact hmv) hdu
  rw [← hu] at h
  refine ⟨h.1, ?_, fun hs => stores_putAll _ _ _ _ ((h.2.2 ?_).trans ?_)⟩
  · obtain ⟨d, hd1, hd2, hd3, hd4, hd5⟩ := h.2.1
    exact ⟨d, hd1, hd2, hd3, hd4, hd5.trans (by rw [hf])⟩
  · rw [hu]
    intro m x hx
    by_cases e : m = qn
    · rw [e, modQueue_self, hvq] at hx
      obtain ⟨y, hy, rfl⟩ := List.mem_map.1 hx
      have := hs qn y hy
      split
      · rw [hf]
        exact this
      · exact this
    · rw [modQueue_ne _ _ _ _ e, hvq] at hx
      exact hs m x hx
  · rw [hu]
    exact hvm

/-- The bytes of a FILL, by their address in device memory (R283). -/
theorem stores_fill {s t : State} {a off len : Nat} {pat : W64}
    (h : Stores s t (a + off) ((List.range len).map (fillByte pat off))) (x : Nat) : memGet t.mem x =
      if a + off ≤ x ∧ x < a + off + len then BitVec.ofNat 8 (pat.toNat / 2 ^ (8 * ((x - a) % 8))) else memGet s.mem x := by
  refine (h x).trans ?_
  rw [List.length_map, List.length_range]
  split
  · rename_i hx
    rw [List.getD_eq_getElem _ _ (by rw [List.length_map, List.length_range]; omega), List.getElem_map, List.getElem_range]
    unfold fillByte bitField
    rw [show off + (x - (a + off)) = x - a by omega, Nat.shiftRight_eq_div_pow]
    apply BitVec.eq_of_toNat_eq
    rw [BitVec.toNat_ofNat, BitVec.toNat_ofNat, show 8 * ((x - a) % 8) + 7 + 1 - 8 * ((x - a) % 8) = 8 by omega, Nat.mod_mod]
  · rfl

/-- Settles O36: the copy engine's start leaves its command where it is started (`pump_of_stays`), and its end completes the
command, storing the bytes of the run where it has not failed (`moveStored_ends`). -/
theorem copiesAndFills : Obligations.CopiesAndFills := by
  refine ⟨fun s part h => congrArg Host.Outcome.next (startMove_idle h), fun s part qn c rest hf ho hs hd hc => ?_,
    fun s part qn n c hp hh hrun hc hdone hdis => ?_, fun s part h => ?_⟩
  · obtain ⟨h1, h2⟩ := startMove_spec hf ho hs hc
    exact ⟨_, rfl, h1, fun hrest => h2 hrest hd, Only.wider (exec_only (.copyFillStart part) s _ rfl) rfl⟩
  · have e : exec (.copyFillComplete part) s = .next (finishMove s part.toNat) :=
      congrArg Host.Outcome.next (if_pos (by simp [hp, hh]))
    have hframe := Only.wider (l := [.writes, .mem, .poison, .au, .pool, .gens, .ctxs, .queues, .insts, .rgParts, .fr, .chime,
      .obs, .freeCount]) (exec_only (.copyFillComplete part) s _ e) rfl
    intro ends
    refine ⟨fun h => by rw [e, finishMove_held hrun hc h], fun hmv h hden => ?_, fun a h hden hpo => ?_,
      fun src dst so off len hb h hden hpo => ?_, fun dst off len pat hb h hden => ?_⟩
    · rw [finishMove_denied hrun hc h hden] at e hframe
      have hr := errRecord_only s 1 none none (some part.toNat) Config.ACCESS_DENIED 0
      have hq : (errRecord s 1 none none (some part.toNat) Config.ACCESS_DENIED 0).queues = s.queues := hr .queues (by decide)
      obtain ⟨h1, h2, h3⟩ := (endMove_ends (p := part.toNat) Config.ACCESS_DENIED
        (by unfold State.queue; rw [hq]; exact hc) hdone hmv ((CmdsKept.of_queues hq).distinct hdis)).of_reported hq (hr .mem (by decide))
      exact ⟨_, e, ⟨h1, h2, hframe⟩, h3⟩
    · rw [finishMove_poison hrun hc h hden hpo] at e hframe
      have hmv : c.body.isMove = true := by
        unfold State.movePoison at hpo
        split at hpo
        · rename_i hb
          rw [hb]
          rfl
        · cases hpo
      have hr := errRecord_only s 1 (some 8) none (some part.toNat) Config.MEM_POISON a
      have hq : (errRecord s 1 (some 8) none (some part.toNat) Config.MEM_POISON a).queues = s.queues := hr .queues (by decide)
      obtain ⟨h1, h2, h3⟩ := (endMove_ends (p := part.toNat) Config.MEM_POISON
        (by unfold State.queue; rw [hq]; exact hc) hdone hmv ((CmdsKept.of_queues hq).distinct hdis)).of_reported hq (hr .mem (by decide))
      exact ⟨_, e, ⟨h1, h2, hframe⟩, h3⟩
    · have hbytes : s.moveBytes c = some (dst, off, s.readBytes (s.pinnedBase c src + so) len) := by
        unfold State.moveBytes
        rw [hb]
      rw [finishMove_moves hrun hc h hden hpo hbytes] at e hframe
      obtain ⟨h1, h2, h3⟩ := moveStored_ends (p := part.toNat) hc hdone (by rw [hb]; rfl) hdis dst off
        (s.readBytes (s.pinnedBase c src + so) len) Config.NONE
      exact ⟨_, e, ⟨h1, h2, hframe⟩, h3⟩
    · have hbytes : s.moveBytes c = some (dst, off, (List.range len).map (fillByte pat off)) := by
        unfold State.moveBytes
        rw [hb]
      have hpo : s.movePoison c = none := by
        unfold State.movePoison
        rw [hb]
      rw [finishMove_moves hrun hc h hden hpo hbytes] at e hframe
      obtain ⟨h1, h2, h3⟩ := moveStored_ends (p := part.toNat) hc hdone (by rw [hb]; rfl) hdis dst off
        ((List.range len).map (fillByte pat off)) Config.NONE
      exact ⟨_, e, ⟨h1, h2, hframe⟩, fun hs => stores_fill (h3 hs)⟩
  · refine congrArg Host.Outcome.next ?_
    rcases h with h | h | h
    · exact if_neg (by simp [h])
    · exact if_neg (by simp [h])
    · unfold finishMove
      rw [h]
      exact ite_self _

end Sys2Proof.Machine
end

section
/-! SUPPORT. O38: what a committed command does (R244, R252, R264, R289, R290, R300, R306). -/

namespace Sys2Proof.Machine

/-! ## Counters (R300, R306) -/

/-- The command as its record shows it, with the code of its effect. -/
def Cmd.coded (c : Cmd) (code : BitVec 16) : Cmd := { c with code := code }

section
variable (s : State) (qn : Nat) {c : Cmd} (hc : c.code = 0#16)
include hc

theorem commitEffect_counter {add : Bool} {id : BitVec 17} {v : W32} (hb : c.body = .signalCounter add id v) :
    commitEffect s qn c = ((commitCounter s add id v).1, c.coded (commitCounter s add id v).2) := by
  cases c
  subst hc
  subst hb
  rfl

theorem commitEffect_set {tg : W32} {off : Nat} {v : W64} {code : BitVec 16} (hb : c.body = .signalFence false tg off v code) :
    commitEffect s qn c = ((commitFence s false tg off v code).1, c.coded (commitFence s false tg off v code).2) := by
  cases c
  subst hc
  subst hb
  rfl

theorem commitEffect_map {kind w se en sh ba si ks h base size init}
    (hb : c.body = .mapNew kind w se en sh ba si ks h base size init) : commitEffect s qn c =
      (commitMap s h (newObj (s.queueCtx qn) (s.ctx (s.queueCtx qn)).inst h kind w se en sh ba si ks base size) init, c) := by
  cases c
  subst hc
  subst hb
  rfl

theorem commitEffect_import {w : Bool} {h src : W32} (hb : c.body = .mapImport w h src) : commitEffect s qn c =
    (commitMap s h (importObj s (s.queueCtx qn) w src) 0#64, c) := by
  cases c
  subst hc
  subst hb
  rfl

theorem commitEffect_timestamp {h : W32} {off : Nat} (hb : c.body = .timestamp h off) : commitEffect s qn c =
    (objWrite s (.record qn c.index) (handleIndex h) off (leBytes 8 s.esc.time.toNat ++ leBytes 8 s.esc.beatCount.toNat), c) := by
  cases c
  subst hc
  subst hb
  rfl

/-- A COUNTER_DUMP stores its record, and resets the counters where it is to (R290). -/
theorem commitEffect_dump {g r : Bool} {h : W32} {off : Nat} (hb : c.body = .counterDump g r h off) :
    ∃ u, commitEffect s qn c = (u, c) ∧ u.queues = s.queues ∧
      u.mem = memPutAll s.mem ((s.obj (handleIndex h)).base + off)
        (pmRecord s (if g then s.obs.pm else (s.ctx (s.queueCtx qn)).pm) g r (s.queueCtx qn)) ∧
      u.objs = s.objs ∧ u.kp = s.kp ∧ u.esc = s.esc ∧ ∀ d, (u.ctx d).ring = (s.ctx d).ring := by
  obtain ⟨w, hw⟩ : ∃ w, w = objWrite s (.record qn c.index) (handleIndex h) off
    (pmRecord s (if g then s.obs.pm else (s.ctx (s.queueCtx qn)).pm) g r (s.queueCtx qn)) := ⟨_, rfl⟩
  have ho : Only blockWriteParts s w := hw ▸ objWrite_only _ _ _ _ _
  have hm : w.mem = memPutAll s.mem ((s.obj (handleIndex h)).base + off)
      (pmRecord s (if g then s.obs.pm else (s.ctx (s.queueCtx qn)).pm) g r (s.queueCtx qn)) := hw ▸ objWrite_mem _ _ _ _ _
  have hring (d : Nat) : (w.ctx d).ring = (s.ctx d).ring :=
    congrArg (fun x => (tget Ctx.reset x d).ring) (ho .ctxs (by decide))
  have he : commitEffect s qn c = (if r then
      (if g then { w with obs := { w.obs with pm := w.obs.pm.clear w.esc.time } }
       else w.modCtx (s.queueCtx qn) fun x => { x with pm := x.pm.clear w.esc.time }) else w, c) := by
    rw [hw]
    cases c
    subst hc
    subst hb
    rfl
  refine ⟨_, he, ?_⟩
  cases r with
  | false => exact ⟨ho .queues (by decide), hm, ho .objs (by decide), ho .kp (by decide), ho .esc (by decide), hring⟩
  | true =>
    cases g with
    | true => exact ⟨ho .queues (by decide), hm, ho .objs (by decide), ho .kp (by decide), ho .esc (by decide), hring⟩
    | false =>
      refine ⟨ho .queues (by decide), hm, ho .objs (by decide), ho .kp (by decide), ho .esc (by decide), fun d => ?_⟩
      refine Eq.trans ?_ (hring d)
      change ((w.setCtx (s.queueCtx qn) _).ctx d).ring = (w.ctx d).ring
      by_cases e : d = s.queueCtx qn
      · rw [e, State.setCtx_ctx]
      · rw [State.setCtx_ctx_ne _ _ _ _ e]

end

/-- SET of a counter in use writes its value, of any other nothing (R300, R306). -/
theorem commitCounter_set (s : State) (id : BitVec 17) (v : W32) (m : Nat) :
    (commitCounter s false id v).1.counter m = if m = id.toNat ∧ (s.counter id.toNat).state ≠ .free ∧
      (s.counter id.toNat).state ≠ .abandoned then { s.counter m with value := v, state := .live, fault := 0#2 } else s.counter m := by
  have hset : (ctrSet s id v).counter m = if m = id.toNat then
      { s.counter m with value := v, state := .live, fault := 0#2 } else s.counter m := by
    unfold ctrSet State.modCounter
    by_cases e : m = id.toNat
    · rw [e, State.setCounter_counter, if_pos rfl]
    · rw [State.setCounter_counter_ne _ _ _ _ e, if_neg e]
  unfold commitCounter
  cases hs : (s.counter id.toNat).state with
  | free => simp
  | abandoned => simp
  | live => exact hset.trans (by simp)
  | faulted => exact hset.trans (by simp)

/-- ADD to a counter that takes it (R300, R303). -/
theorem commitCounter_add {s : State} {id : BitVec 17} {v : W32} (hl : (s.counter id.toNat).state = .live)
    (hk : (s.counter id.toNat).kind ≠ .flightArrive) (hs : (s.counter id.toNat).error = false ∨
      (0 ≤ ctrSum (s.counter id.toNat).value v ∧ ctrSum (s.counter id.toNat).value v ≤ 0xFFFFFFFF)) (m : Nat) :
    (commitCounter s true id v).1.counter m =
      if m = id.toNat then { s.counter m with value := (s.counter m).value + v } else s.counter m := by
  unfold commitCounter
  rw [hl]
  dsimp only
  rw [if_pos rfl, ctrAdd_takes 2 0 0xFFFF#16 hl hk hs]
  change (s.setCounter id.toNat _).counter m = _
  by_cases e : m = id.toNat
  · rw [e, State.setCounter_counter, if_pos rfl]
  · rw [State.setCounter_counter_ne _ _ _ _ e, if_neg e]

/-! ## Maps (R244, R252, R287) -/

/-- A new entry that is no fence root is its object, with the generation of its place. -/
theorem commitMap_obj {s : State} {h : W32} {o : Obj} (initial : W64) (hf : ¬(o.kind = .fence ∧ o.parent = handleIndex h)) (i : Nat) :
    (commitMap s h o initial).obj i = if i = handleIndex h then { o with gen := (s.obj i).gen } else s.obj i := by
  unfold commitMap
  dsimp only
  rw [if_neg hf]
  refine (obj_of_only (poolCopy_only _ _) (by decide) (by decide) i).trans ?_
  by_cases e : i = handleIndex h
  · rw [e, State.setObj_obj, if_pos rfl]
  · rw [State.setObj_obj_ne _ _ _ _ e, if_neg e]

/-! ## Fences (R262, R264) -/

theorem commitFence_set {s : State} {tg : W32} {off : Nat} {v : W64} {code : BitVec 16}
    (h : s.fenceCode (handleIndex tg) off ≠ Config.ABANDONED) : commitFence s false tg off v code =
      (objWrite s (.fence (s.rootOf (handleIndex tg))) (handleIndex tg) off
        (fenceRecord v code (s.obj (s.rootOf (handleIndex tg))).owner.toNat), Config.NONE) := by
  unfold commitFence
  dsimp only
  rw [if_neg (by simp), if_neg h]
  rfl

/-! ## What a commit stores -/

/-- A command whose effect stored bytes: memory changes by them, and then by its completion record (R259, R278, R279). -/
theorem commit_stores {s : State} {queue : BitVec 13} {c : Cmd} (hs : s.commits (s.queue queue.toNat) = true)
    (hn : nextCommit (s.queue queue.toNat).cmds = some c) (hi : c.inner = none) (hc : c.code = 0#16) {u : State} {d : Cmd}
    (hx : commitEffect s queue.toNat c = (u, d)) (hd : d = c.coded 0#16 ∨ d = c) {a : Nat} {bs : List Byte}
    (hq : u.queues = s.queues) (hm : u.mem = memPutAll s.mem a bs) (ho : u.objs = s.objs) (hk : u.kp = s.kp) (ht : u.esc = s.esc)
    (hr : ∀ d, (u.ctx d).ring = (s.ctx d).ring) (hset : Settled s) (hring : (s.ctx (s.queue queue.toNat).ctx).ring = none) :
    Answers (exec (.commit (.queue queue)) s) fun t => t.mem = memPutAll (memPutAll s.mem a bs)
      ((s.obj (s.queue queue.toNat).complObj).base + ((s.queue queue.toNat).recordOff c.index + 4))
      (recordTail c s.esc.time) := by
  have hdc : d = c := hd.elim (fun e => by rw [e, ← hc]; rfl) id
  subst hdc
  have h := (commitQueue_recorded hs hn hi hx rfl rfl hq hset ((hr _).trans hring)).1
  refine ⟨_, rfl, ((killWaiters_only _) .mem (by decide)).trans (h.trans ?_)⟩
  rw [hm, obj_of (congrArg (fun k => k.objEnable) hk) ho]
  unfold State.recordTime
  rw [hc, if_pos rfl, ht]

/-- Settles O38: what a commit does after the effect of its command leaves counters and objects as the effect left them
(`commitQueue_after_only`), and where no command waits stores the record alone (`commitQueue_recorded`). -/
theorem committedCommandsTakeEffect : Obligations.CommittedCommandsTakeEffect := by
  intro s queue c hs hn hi hc q x record stores
  have hafter := commitQueue_after_only hs hn hi
  have hcounter (m : Nat) : (killWaiters (commitQueue s queue.toNat)).counter m = (commitEffect s queue.toNat c).1.counter m :=
    congrArg (fun l => tget Counter.reset l m) (hafter .counters (by decide))
  have hobj (i : Nat) : (killWaiters (commitQueue s queue.toNat)).obj i = (commitEffect s queue.toNat c).1.obj i :=
    obj_of_only hafter (by decide) (by decide) i
  have hframe := Only.wider (l := [.writes, .mem, .poison, .au, .run, .pool, .kp, .gens, .objs, .ctxs, .queues, .insts, .shares,
    .rgParts, .jobs, .cores, .counters, .sy, .sec, .fr, .chime, .obs, .freeCount, .obsCfg])
    (exec_only (.commit (.queue queue)) s _ rfl) rfl
  refine ⟨fun id v hb => ?_, fun id v hb => ?_, fun kind w se en sh ba si ks h base size init hb hk => ?_,
    fun w h src hb hne => ?_, fun tg off v code hb => ?_, fun h off hb hset hring => ?_, fun g r h off hb hset hring => ?_⟩
  · have he (m : Nat) := (hcounter m).trans ((congrArg (fun x : State × Cmd => x.1.counter m)
      (commitEffect_counter s queue.toNat hc hb)).trans (commitCounter_set s id v m))
    refine ⟨_, rfl, fun m hm => (he m).trans (if_neg fun h => hm h.1), (he id.toNat).trans ?_, hframe⟩
    by_cases hst : (s.counter id.toNat).state = .free ∨ (s.counter id.toNat).state = .abandoned
    · rw [if_pos hst, if_neg (by tauto)]
    · rw [if_neg hst, if_pos (by tauto)]
  · intro k hl hk hfit
    have he (m : Nat) := (hcounter m).trans ((congrArg (fun x : State × Cmd => x.1.counter m)
      (commitEffect_counter s queue.toNat hc hb)).trans (commitCounter_add hl hk hfit m))
    exact ⟨_, rfl, fun m hm => (he m).trans (if_neg hm), (he id.toNat).trans (if_pos rfl), hframe⟩
  · have he (i : Nat) := (hobj i).trans ((congrArg (fun x : State × Cmd => x.1.obj i)
      (commitEffect_map s queue.toNat hc hb)).trans (commitMap_obj init (fun hf => hk hf.1) i))
    exact ⟨_, rfl, fun i hne => (he i).trans (if_neg hne), (he (handleIndex h)).trans (if_pos rfl)⟩
  · intro o hp
    have hnf : ¬((importObj s (s.queueCtx queue.toNat) w src).kind = .fence ∧
        (importObj s (s.queueCtx queue.toNat) w src).parent = handleIndex h) := fun hf => hp hf.2
    have he (i : Nat) : (killWaiters (commitQueue s queue.toNat)).obj i = if i = handleIndex h then
        { importObj s (s.queueCtx queue.toNat) w src with gen := (s.obj i).gen } else s.obj i := by
      rw [hobj, commitEffect_import s queue.toNat hc hb]
      exact commitMap_obj 0#64 hnf i
    refine ⟨_, rfl, fun i hne => (he i).trans (if_neg hne), ?_⟩
    rw [(he (handleIndex h)).trans (if_pos rfl)]
    exact ⟨rfl, rfl, rfl, rfl, rfl, rfl, rfl⟩
  · intro i hab hset hring
    have hw := objWrite_only s (.fence (s.rootOf i)) i off (leBytes 8 v.toNat ++ leBytes 2 code.toNat ++
      leBytes 2 (s.obj (s.rootOf i)).owner.toNat ++ leBytes 4 0)
    have hx := commitEffect_set s queue.toNat hc hb
    rw [commitFence_set hab, fenceRecord] at hx
    exact commit_stores hs hn hi hc hx (.inl rfl) (hw .queues (by decide)) (objWrite_mem _ _ _ _ _) (hw .objs (by decide))
      (hw .kp (by decide)) (hw .esc (by decide)) (fun d => congrArg (fun x => (tget Ctx.reset x d).ring) (hw .ctxs (by decide)))
      hset hring
  · have hw := objWrite_only s (.record queue.toNat c.index) (handleIndex h) off
      (leBytes 8 s.esc.time.toNat ++ leBytes 8 s.esc.beatCount.toNat)
    exact commit_stores hs hn hi hc (commitEffect_timestamp s queue.toNat hc hb) (.inr rfl) (hw .queues (by decide))
      (objWrite_mem _ _ _ _ _) (hw .objs (by decide)) (hw .kp (by decide)) (hw .esc (by decide))
      (fun d => congrArg (fun x => (tget Ctx.reset x d).ring) (hw .ctxs (by decide))) hset hring
  · obtain ⟨u, hx, hq, hm, ho, hk, ht, hr⟩ := commitEffect_dump s queue.toNat hc hb
    exact commit_stores hs hn hi hc hx (.inr rfl) hq hm ho hk ht hr hset hring

end Sys2Proof.Machine
end

section
/-! SUPPORT. A packet that is fetched: its command stands in its queue, and what was there stays (R269, R274, R291). -/

namespace Sys2Proof.Machine

/-- t is s after the packet of a command has been fetched: the command stands in its queue, as it is if it is complete; HEAD has
moved on outside an INDIRECT, and what was complete is as it was. -/
structure Fetched (s t : State) (qn : Nat) (c : Cmd) : Prop where
  key : c.key ∈ (t.queue qn).keys
  self : c.isDone = true → c.isIndirect = false → c ∈ (t.queue qn).cmds
  head : (s.queue qn).indirect = none → (t.queue qn).head = (s.queue qn).head + 1#32
  kept : ∀ x ∈ (s.queue qn).cmds, x.isDone = true → x.isIndirect = false → x ∈ (t.queue qn).cmds
  seq : t.rg.cmdSeq = s.rg.cmdSeq + 1
  distinct : DistinctCmds t

namespace Fetched

variable {s t u : State} {qn : Nat} {c : Cmd}

/-- What follows the fetch and keeps the commands and the place of the next packet. -/
theorem after (h : Fetched s t qn c) (k : CmdsKept t u) (p : PlacesKept t u) (hr : u.rg = t.rg) : Fetched s u qn c := by
  refine ⟨by rw [(k qn).1]; exact h.key, fun hd hi => (k qn).2 c (h.self hd hi) hd hi, fun hn => ?_,
    fun x hx hd hi => (k qn).2 x (h.kept x hx hd hi) hd hi, by rw [hr]; exact h.seq, k.distinct h.distinct⟩
  exact (congrArg (fun p => p.1) (p qn)).trans (h.head hn)

theorem after_queues (h : Fetched s t qn c) (hq : u.queues = t.queues) (hr : u.rg = t.rg) : Fetched s u qn c :=
  h.after (.of_queues hq) (.of_queues hq) hr

/-- What went before the fetch and left the queues alone. -/
theorem before (h : Fetched t u qn c) (hq : t.queues = s.queues) (hr : t.rg = s.rg) : Fetched s u qn c := by
  have e : t.queue qn = s.queue qn := congrArg (fun q => tget Queue.reset q qn) hq
  refine ⟨h.key, h.self, ?_, ?_, ?_, h.distinct⟩
  · rw [← e]
    exact h.head
  · rw [← e]
    exact h.kept
  · rw [← hr]
    exact h.seq

end Fetched

theorem drained_place (q : Queue) : q.drained.place = q.place := by
  unfold Queue.drained
  split <;> rfl

theorem drained_cmds (q : Queue) : q.drained.cmds = q.cmds := by
  unfold Queue.drained
  split <;> rfl

theorem push_head {q : Queue} (c : Cmd) (h : q.indirect = none) : (q.push c).head = q.head + 1#32 := by
  unfold Queue.push
  rw [h]

/-- Numbers stay apart where queues and the next number stay. -/
theorem Numbered.of_queues {s t : State} (h : Numbered s) (hq : t.queues = s.queues) (hr : t.rg = s.rg) : Numbered t := by
  refine ⟨(CmdsKept.of_queues hq).distinct h.1, fun n c hc => ?_⟩
  rw [hr]
  refine h.2 n c ?_
  unfold State.queue at hc ⊢
  rwa [← hq]

theorem pushCmd_fetched {s : State} {qn : Nat} {c : Cmd} (hc : c.seqNo = s.rg.cmdSeq) (h : Numbered s) :
    Fetched s (pushCmd s qn c) qn c := by
  have hk := pushCmd_kept s qn c hc h
  have hd := (pushed_numbered s { s with rg := { s.rg with cmdSeq := s.rg.cmdSeq + 1 } } qn c hc h (fun _ => rfl) rfl).1
  obtain ⟨u, hu⟩ : ∃ u, u = ({ s with rg := { s.rg with cmdSeq := s.rg.cmdSeq + 1 } } : State).modQueue qn fun q =>
    (q.push c).drained := ⟨_, rfl⟩
  have hq : u.queue qn = ((s.queue qn).push c).drained := by
    rw [hu, modQueue_self]
    rfl
  have hmem : ∀ x, x = c ∨ x ∈ (s.queue qn).cmds → x ∈ (u.queue qn).cmds := fun x hx => by
    rw [hq, drained_cmds]
    exact (push_cmds (s.queue qn) c).symm.subset (hx.elim (fun e => e ▸ List.mem_cons_self) (List.mem_cons_of_mem _))
  have hp : PlacesKept u (pushCmd s qn c) := by
    rw [hu]
    exact (pump_places _ qn).trans (regEval_places _)
  rw [← hu] at hk hd
  refine ⟨by rw [(hk qn).1]; exact List.mem_map_of_mem (hmem c (.inl rfl)), fun hd hi => (hk qn).2 c (hmem c (.inl rfl)) hd hi,
    fun hn => (congrArg (fun p => p.1) (hp qn)).trans ?_, fun x hx hd hi => (hk qn).2 x (hmem x (.inr hx)) hd hi, ?_, hk.distinct hd⟩
  · rw [hq, drained_place]
    exact push_head c hn
  · have e : (pushCmd s qn c).rg = u.rg := by
      rw [hu]
      exact ((regEval_only _) .rg (by decide)).trans ((pump_only _ _) .rg (by decide))
    rw [e, hu]
    rfl

/-- A command as it stands after a submission error (R280). -/
def Cmd.rejected (c : Cmd) (code : BitVec 16) (detail time : W64) : Cmd :=
  { c with phase := .completed, code := code, submission := true, detail := detail, endTime := time }

theorem pushFailed_fetched {s : State} {qn : Nat} {c : Cmd} (code : BitVec 16) (d : W64) (hc : c.seqNo = s.rg.cmdSeq)
    (h : Numbered s) : ∃ time, Fetched s (pushFailed s qn c code d) qn (c.rejected code d time) := by
  unfold pushFailed
  extract_lets u v
  have hq : u.queues = s.queues := (errRecord_only _ _ _ _ _ _ _) .queues (by decide)
  have hr : u.rg = s.rg := (errRecord_only _ _ _ _ _ _ _) .rg (by decide)
  have hv : Fetched u v qn (c.rejected code d u.esc.time) :=
    pushCmd_fetched (c := c.rejected code d u.esc.time) (hc.trans (by rw [hr])) (h.of_queues hq hr)
  exact ⟨_, (hv.before hq hr).after_queues ((pmBoth_only _ _ _ _) .queues (by decide)) ((pmBoth_only _ _ _ _) .rg (by decide))⟩

theorem cmd_of_mem {q : Queue} (hd : (q.cmds.map fun c => c.seqNo).Nodup) {c : Cmd} (h : c ∈ q.cmds) : q.cmd c.seqNo = some c := by
  cases hx : q.cmd c.seqNo with
  | none => exact (List.find?_eq_none.1 hx _ h (beq_self_eq_true c.seqNo)).elim
  | some x => rw [eq_of_seqNo hd (cmd_mem hx).1 h (cmd_mem hx).2]

/-- A command that names a stale handle, outside an INDIRECT, stands recorded (R242, R279). -/
theorem pushStale_fetched {s : State} {qn : Nat} {c : Cmd} (w : W32) (hc : c.seqNo = s.rg.cmdSeq) (h : Numbered s)
    (hi : c.inner = none) (hind : c.isIndirect = false) :
    (∃ d ∈ ((pushStale s qn c w).queue qn).cmds, d.key = c.key ∧ d.phase = .recorded ∧ d.code = Config.STALE_HANDLE) ∧
      ((s.queue qn).indirect = none → ((pushStale s qn c w).queue qn).head = (s.queue qn).head + 1#32) ∧
      (∀ x ∈ (s.queue qn).cmds, x.isDone = true → x.isIndirect = false → x ∈ ((pushStale s qn c w).queue qn).cmds) ∧
      (pushStale s qn c w).rg.cmdSeq = s.rg.cmdSeq + 1 := by
  unfold pushStale
  extract_lets u v
  have hq : u.queues = s.queues := (errRecord_only _ _ _ _ _ _ _) .queues (by decide)
  have hr : u.rg = s.rg := (errRecord_only _ _ _ _ _ _ _) .rg (by decide)
  obtain ⟨d, hd⟩ : ∃ d : Cmd, d = { c with
    phase := .completed, code := Config.STALE_HANDLE, detail := onHandle w, endTime := u.esc.time } := ⟨_, rfl⟩
  have hv : Fetched u v qn d := by
    unfold v
    rw [← hd]
    exact pushCmd_fetched (by rw [hd]; exact hc.trans (by rw [hr])) (h.of_queues hq hr)
  have hw : Fetched s (pmBoth v (some (v.queueCtx qn)) 7 1) qn d := (hv.before hq hr).after_queues
    ((pmBoth_only _ _ _ _) .queues (by decide)) ((pmBoth_only _ _ _ _) .rg (by decide))
  generalize pmBoth v (some (v.queueCtx qn)) 7 1 = y at hw
  have hdone : d.isDone = true := by rw [hd]; rfl
  have hdi : d.isIndirect = false := by rw [hd]; exact hind
  have hin : d.inner = none := by rw [hd]; exact hi
  have hdc : d.seqNo = c.seqNo := by rw [hd]
  have hcmd := cmd_of_mem (hw.distinct qn) (hw.self hdone hdi)
  have he : faultRecord y qn c.seqNo = writeFault y qn d := by
    rw [← hdc]
    unfold faultRecord
    rw [hcmd]
    dsimp only
    rw [hin]
  have hqe := writeFault_queue y qn d
  rw [he]
  refine ⟨⟨d.faulted y.esc.time, ?_, ?_, rfl, by rw [hd]; rfl⟩, fun hn => ?_, fun x hx dx ix => ?_, ?_⟩
  · rw [hqe]
    exact modCmd_mem (f := fun _ => d.faulted y.esc.time) (hw.self hdone hdi) rfl
  · rw [hd]
    rfl
  · rw [hqe]
    exact hw.head hn
  · rw [hqe]
    refine mem_modCmd (hw.kept x hx dx ix) ?_
    have := h.2 qn x hx
    rw [hdc, hc]
    exact Nat.ne_of_lt this
  · have e : (writeFault y qn d).rg = y.rg := by
      rw [← he]
      exact (faultRecord_only _ _ _) .rg (by decide)
    rw [e]
    exact hw.seq

/-! ## Arrivals (R318 to R320) -/

/-- Arrivals of held BARRIERs, and what a flight makes of them, keep the commands, their phases, and what else the queues hold. -/
def ArrivalKept (s t : State) : Prop :=
  CmdsKept s t ∧ PlacesKept s t ∧ ∀ n, (t.queue n).state = (s.queue n).state ∧
    ∀ c ∈ (s.queue n).cmds, ∃ d ∈ (t.queue n).cmds, d.key = c.key ∧ d.phase = c.phase

theorem ArrivalKept.trans {s t u : State} (h : ArrivalKept s t) (g : ArrivalKept t u) : ArrivalKept s u := by
  refine ⟨h.1.trans g.1, h.2.1.trans g.2.1, fun n => ⟨(g.2.2 n).1.trans (h.2.2 n).1, fun c hc => ?_⟩⟩
  obtain ⟨d, hd, hk, hp⟩ := (h.2.2 n).2 c hc
  obtain ⟨e, he, hk', hp'⟩ := (g.2.2 n).2 d hd
  exact ⟨e, he, hk'.trans hk, hp'.trans hp⟩

theorem ArrivalKept.of_queues {s t : State} (h : t.queues = s.queues) : ArrivalKept s t := by
  have e (n : Nat) : t.queue n = s.queue n := congrArg (fun q => tget Queue.reset q n) h
  exact ⟨.of_queues h, .of_queues h, fun n => ⟨by rw [e], fun c hc => ⟨c, by rwa [e], rfl, rfl⟩⟩⟩

/-- A map over the commands of every queue that keeps what of a command never changes, and every complete command. -/
theorem mapCmds_kept (s : State) {f : Cmd → Cmd} (hk : ∀ c, (f c).key = c.key) (hp : ∀ c, (f c).phase = c.phase)
    (hd : ∀ c, c.isDone = true → f c = c) {t : State}
    (ht : t.queues = s.queues.map fun q => (q.1, { q.2 with cmds := q.2.cmds.map f })) :
    ArrivalKept s t := by
  have e (n : Nat) : t.queue n = { s.queue n with cmds := (s.queue n).cmds.map f } := by
    unfold State.queue
    rw [ht]
    exact tget_map Queue.reset (fun q : Queue => { q with cmds := q.cmds.map f }) rfl s.queues n
  refine ⟨fun n => ⟨?_, fun c hc dc _ => ?_⟩, fun n => by rw [e]; rfl, fun n => ⟨by rw [e], fun c hc => ⟨f c, ?_, hk c, hp c⟩⟩⟩
  · rw [e]
    unfold Queue.keys
    dsimp only
    rw [List.map_map]
    exact List.map_congr_left fun c _ => hk c
  · rw [e]
    exact List.mem_map.2 ⟨c, hc, hd c dc⟩
  · rw [e]
    exact List.mem_map_of_mem hc

theorem arriveHeld_kept (s : State) (n : Nat) (round : W32) {t : State} (ht : t.queues = (arriveHeld s.queues n round).2) :
    ArrivalKept s t := by
  unfold arriveHeld at ht
  refine mapCmds_kept s (fun c => ?_) (fun c => ?_) (fun c hc => ?_) ht
  · split <;> rfl
  · split <;> rfl
  · rw [if_neg]
    unfold Cmd.isDone at hc
    cases hp : c.phase <;> simp_all

theorem completeRound_kept (s : State) (n : Nat) : ArrivalKept s (completeRound s n) := by
  unfold completeRound
  extract_lets f round u v w h
  have hw : w.queues = s.queues := by
    have hv : v.queues = s.queues := (watchStale_only (u.modCounter f.releaseId.toNat fun c => { c with value := round })
      f.releaseId) .queues (by decide)
    have hl : Only linkSendParts v w := .foldl (fun t l => linkSend_only _ _ _) (.refl _ _)
    exact (hl .queues (by decide)).trans hv
  have hh : ArrivalKept w { w with queues := h.2 } := arriveHeld_kept w n round rfl
  refine (ArrivalKept.of_queues hw).trans (hh.trans (.of_queues ?_))
  exact ((flightStart_only _ _) .queues (by decide)).trans ((flightAdd_only _ _ _) .queues (by decide))

theorem flightEval_kept (k : Nat) (s : State) (n : Nat) : ArrivalKept s (flightEval k s n) := by
  induction k generalizing s with
  | zero => exact .of_queues rfl
  | succ k ih =>
    unfold flightEval
    split
    · dsimp only
      split
      · exact .of_queues ((linkSend_only _ _ _) .queues (by decide))
      · exact (completeRound_kept (s.modCounter (s.flight n).arriveId.toNat fun c =>
          { c with value := c.value - BitVec.ofNat 32 (s.flight n).expect.toNat }) n).trans (ih _)
    · exact .of_queues rfl

theorem addArrival_kept (s : State) (n : Nat) : ArrivalKept s (addArrival s n) := by
  unfold addArrival flightArrived
  refine ArrivalKept.trans (.of_queues ?_) (flightEval_kept _ _ n)
  exact ((flightStart_only _ _) .queues (by decide)).trans ((flightAdd_only _ _ _) .queues (by decide))

end Sys2Proof.Machine
end

section
/-! SUPPORT. O34: the packet rows (R248, R249, R256, R275, R280, R291, R423). -/

namespace Sys2Proof.Machine

/-! ## What a packet's command becomes -/

/-- A command of c's key stands after the fetch; what matters of one that stands by its key only is c's key. -/
def FetchedKey (s t : State) (qn : Nat) (c : Cmd) : Prop := ∃ d, d.key = c.key ∧ Fetched s t qn d

theorem Fetched.toKey {s t : State} {qn : Nat} {c d : Cmd} (h : Fetched s t qn d) (e : d.key = c.key) : FetchedKey s t qn c :=
  ⟨d, e, h⟩

theorem FetchedKey.before {s t u : State} {qn : Nat} {c : Cmd} (h : FetchedKey t u qn c) (hq : t.queues = s.queues)
    (hr : t.rg = s.rg) : FetchedKey s u qn c := by
  obtain ⟨d, e, h⟩ := h
  exact ⟨d, e, h.before hq hr⟩

theorem pushLaunch_fetched {s : State} {qn : Nat} {c : Cmd} (g : Nat) (hc : c.seqNo = s.rg.cmdSeq) (h : Numbered s) :
    FetchedKey s (pushLaunch s qn c g) qn c := by
  unfold pushLaunch
  split
  · obtain ⟨t, ht⟩ := pushFailed_fetched (qn := qn) (c := { c with refs := [] }) _ 0#64 hc h
    exact ht.toKey rfl
  · exact (pushCmd_fetched (c := { c with gen := some g, phase := .verifying }) hc h).toKey rfl
  · exact (pushCmd_fetched (c := { c with gen := some g }) hc h).toKey rfl

theorem fetchLaunch_fetched {s : State} {qn : Nat} {c : Cmd} {g : Gen} (hc : c.seqNo = s.rg.cmdSeq) (h : Numbered s)
    (hg : (s.genMatch g).isSome = true ∨ s.genSlot.isSome = true) : FetchedKey s (fetchLaunch s qn c g) qn c := by
  unfold fetchLaunch
  dsimp only
  have hk : ({ c with prog := g.base + g.entry } : Cmd).key = c.key := rfl
  split
  · rename_i e _
    have hq := (touchGen_only s e) .queues (by decide)
    have hr := (touchGen_only s e) .rg (by decide)
    obtain ⟨d, hd, hf⟩ := pushLaunch_fetched (s := touchGen s e) (qn := qn) (c := { c with prog := g.base + g.entry }) e
      (hc.trans (congrArg Rg.cmdSeq hr.symm)) (h.of_queues hq hr)
    exact ⟨d, hd.trans hk, hf.before hq hr⟩
  · rename_i hm
    split
    · rename_i e _
      have hq := (publishAt_only s e g) .queues (by decide)
      have hr := (publishAt_only s e g) .rg (by decide)
      obtain ⟨d, hd, hf⟩ := pushLaunch_fetched (s := publishAt s e g) (qn := qn) (c := { c with prog := g.base + g.entry }) e
        (hc.trans (congrArg Rg.cmdSeq hr.symm)) (h.of_queues hq hr)
      exact ⟨d, hd.trans hk, hf.before hq hr⟩
    · rename_i hs
      simp [hm, hs] at hg

theorem arriveNow_key (s : State) (c : Cmd) : (arriveNow s c).1.key = c.key := by
  unfold arriveNow
  split
  · split <;> rfl
  · rfl

theorem fetchWait_fetched {s : State} {qn : Nat} {c : Cmd} (hc : c.seqNo = s.rg.cmdSeq) (h : Numbered s)
    (hw : (s.waitAcked c.body = true ∧ (s.waitOutcome c.body).isSome = true) ∨ s.waitRoom (s.ctx (s.queue qn).ctx).inst = true) :
    FetchedKey s (fetchWait s qn c) qn c := by
  unfold fetchWait
  split
  · rename_i r _
    exact (pushCmd_fetched (c := { c with phase := .started, code := r.1, detail := r.2 }) hc h).toKey rfl
  · rename_i hn
    have hroom : s.waitRoom (s.ctx (s.queue qn).ctx).inst = true := hw.resolve_left fun ⟨ha, ho⟩ => by
      rw [if_pos ha] at hn
      rw [hn] at ho
      cases ho
    rw [if_pos hroom]
    dsimp only
    have h1 := pushCmd_fetched (qn := qn) (c := { (arriveNow s c).1 with phase := .pendingWait })
      ((arriveNow_seqNo s c).trans hc) h
    generalize pushCmd s qn _ = u at h1
    have h2 : Fetched s (setQState u qn .waiting) qn { (arriveNow s c).1 with phase := .pendingWait } :=
      h1.after (modQueue_kept _ _ _ fun _ => rfl) (.modQueue _ _ fun _ => rfl) rfl
    generalize setQState u qn .waiting = v at h2
    have hk : ({ (arriveNow s c).1 with phase := .pendingWait } : Cmd).key = c.key := arriveNow_key s c
    split
    · rename_i fl _
      have ha := addArrival_kept v fl
      exact (h2.after ha.1 ha.2.1 ((addArrival_only _ _) .rg (by decide))).toKey hk
    · exact h2.toKey hk

theorem fetchOk_fetched {s : State} {qn : Nat} {c : Cmd} (hc : c.seqNo = s.rg.cmdSeq) (h : Numbered s)
    (hl : ∀ m feat hm om prog off len entry bound args, c.body = .launch m feat hm om prog off len entry bound args →
      (s.genMatch (s.launchGen prog off len entry feat)).isSome = true ∨ s.genSlot.isSome = true)
    (hw : c.body.isWait = true → (s.waitAcked c.body = true ∧ (s.waitOutcome c.body).isSome = true) ∨
      s.waitRoom (s.ctx (s.queue qn).ctx).inst = true) : FetchedKey s (fetchOk s qn c) qn c := by
  have wait (hb : c.body.isWait = true) (refs : List Nat) : FetchedKey s (fetchWait s qn { c with refs := refs }) qn c :=
    fetchWait_fetched (c := { c with refs := refs }) hc h (hw hb)
  unfold fetchOk
  dsimp only
  split
  · rename_i hb
    exact fetchLaunch_fetched (c := { c with refs := s.bodyRefs c.body }) hc h (hl _ _ _ _ _ _ _ _ _ _ hb)
  · rename_i hb
    exact wait (by rw [hb]; rfl) _
  · rename_i hb
    exact wait (by rw [hb]; rfl) _
  · rename_i hb
    exact wait (by rw [hb]; rfl) _
  · exact ((pushCmd_fetched (s := s.modObj _ _) (c := { c with refs := s.bodyRefs c.body }) hc (h.of_queues rfl rfl)).toKey
      rfl).before rfl rfl
  · exact (pushCmd_fetched (c := { c with refs := s.bodyRefs c.body, phase := .started }) hc h).toKey rfl
  · exact (pushCmd_fetched (c := { c with refs := s.bodyRefs c.body }) hc h).toKey rfl

/-! ## The fetch (R248, R280, R423) -/

/-- The bytes of the next packet of a queue. -/
def State.packet (s : State) (q : Queue) : List Byte := s.readBytes (s.packetAddr q) 64

/-- The command of a packet that fails. -/
def State.badCmd (s : State) (qn : Nat) : Cmd :=
  newCmd s (s.queue qn) (s.packet (s.queue qn)) (.malformed (BitVec.ofNat 8 (pkOp (s.packet (s.queue qn)))))

theorem badCmd_direct (s : State) (qn : Nat) : (s.badCmd qn).isIndirect = false := Bool.and_false _

section
variable {s : State} {qn : Nat}

theorem fetchPacket_poisoned (h : s.poisoned (s.packetAddr (s.queue qn)) 64 = true) : fetchPacket s qn =
    pushFailed (errRecord s 1 (some 8) none (some (s.queue qn).part) Config.MEM_POISON (s.packetAddr (s.queue qn))) qn
      (s.badCmd qn) Config.MEM_POISON 0#64 := if_pos h

variable (hp : s.poisoned (s.packetAddr (s.queue qn)) 64 = false)
  (ht : pkOp (s.packet (s.queue qn)) = 7 → s.kp.objInitBusy = false)
include hp ht

/-- A packet that is read and not held back goes by the check of R280. -/
theorem fetchPacket_checked : fetchPacket s qn =
    match s.checkPacket (s.queue qn).ctx (s.queue qn).part (s.queue qn).indirect.isSome (s.packet (s.queue qn)) with
    | .fail code d =>
      if code = Config.KEY_MISUSE then tamperRaise (pushFailed s qn (s.badCmd qn) code d) 3 else pushFailed s qn (s.badCmd qn) code d
    | .stale h => pushStale s qn (s.badCmd qn) h
    | .ok body => fetchOk s qn (newCmd s (s.queue qn) (s.packet (s.queue qn)) body) := by
  unfold State.packet at *
  refine (if_neg (by simp [hp])).trans ((if_neg fun h => ?_).trans rfl)
  rw [ht h.1] at h
  exact Bool.false_ne_true h.2

theorem fetchPacket_fails {code : BitVec 16} {d : W64}
    (h : s.checkPacket (s.queue qn).ctx (s.queue qn).part (s.queue qn).indirect.isSome (s.packet (s.queue qn)) = .fail code d)
    (hn : Numbered s) : ∃ time, Fetched s (fetchPacket s qn) qn ((s.badCmd qn).rejected code d time) := by
  obtain ⟨time, hf⟩ := pushFailed_fetched (qn := qn) (c := s.badCmd qn) code d rfl hn
  refine ⟨time, ?_⟩
  rw [fetchPacket_checked hp ht, h]
  dsimp only
  split
  · exact hf.after_queues ((tamperRaise_only _ _) .queues (by decide)) ((tamperRaise_only _ _) .rg (by decide))
  · exact hf

theorem fetchPacket_stale {w : W32}
    (h : s.checkPacket (s.queue qn).ctx (s.queue qn).part (s.queue qn).indirect.isSome (s.packet (s.queue qn)) = .stale w) :
    fetchPacket s qn = pushStale s qn (s.badCmd qn) w := by
  rw [fetchPacket_checked hp ht, h]

theorem fetchPacket_ok {body : Body}
    (h : s.checkPacket (s.queue qn).ctx (s.queue qn).part (s.queue qn).indirect.isSome (s.packet (s.queue qn)) = .ok body) :
    fetchPacket s qn = fetchOk s qn (newCmd s (s.queue qn) (s.packet (s.queue qn)) body) := by
  rw [fetchPacket_checked hp ht, h]

end

/-! ## The rows -/

theorem packetRow_fetches {s : State} {qn op mode : Nat} (hm : s.mayFetch (s.queue qn) = true) (hh : (s.queue qn).held = .none)
    (h : s.nextOp (s.queue qn) = some (op, mode) ∨ s.nextOp (s.queue qn) = none) : packetRow s qn op mode = fetchPacket s qn := by
  unfold packetRow
  dsimp only
  rw [if_pos (by rw [hm, hh]; rfl)]
  rcases h with h | h
  · rw [h]
    exact if_pos rfl
  · rw [h]

theorem packetRow_other {s : State} {qn op mode : Nat} {y : Nat × Nat} (hm : s.mayFetch (s.queue qn) = true)
    (hh : (s.queue qn).held = .none) (h : s.nextOp (s.queue qn) = some y) (hy : y ≠ (op, mode)) : packetRow s qn op mode = s := by
  unfold packetRow
  dsimp only
  rw [if_pos (by rw [hm, hh]; rfl), h]
  exact if_neg hy

theorem packetRow_idle {s : State} {qn op mode : Nat} (h : s.mayFetch (s.queue qn) = false ∨ (s.queue qn).held ≠ .none) :
    packetRow s qn op mode = s := by
  unfold packetRow
  refine if_neg fun hh => ?_
  obtain ⟨h1, h2⟩ := (Bool.and_eq_true _ _).mp hh
  rcases h with h | h
  · rw [h] at h1
    cases h1
  · exact h (eq_of_beq h2)

theorem fetchRetry_idle {s : State} {qn : Nat} (h : s.mayFetch (s.queue qn) = false ∨ (s.queue qn).held = .none) :
    fetchRetry s qn = s := by
  unfold fetchRetry
  refine if_neg fun hh => ?_
  obtain ⟨h1, h2⟩ := (Bool.and_eq_true _ _).mp hh
  rcases h with h | h
  · rw [h] at h1
    cases h1
  · rw [h] at h2
    cases h2

theorem fetchRetry_held {s : State} {qn : Nat} (hm : s.mayFetch (s.queue qn) = true) (hh : (s.queue qn).held ≠ .none) :
    fetchRetry s qn = if ((fetchPacket (hold s qn .none) qn).queue qn).held = .none then fetchPacket (hold s qn .none) qn else s := by
  unfold fetchRetry
  refine if_pos ?_
  rw [hm, Bool.true_and]
  exact bne_iff_ne.2 hh

/-- What the rows may change. -/
def packetParts : List Field := [.writes, .mem, .poison, .au, .run, .pool, .kp, .gens, .objs, .ctxs, .queues, .insts, .rg,
  .rgParts, .jobs, .cores, .counters, .flights, .sy, .sec, .tw, .links, .fr, .chime, .obs, .freeCount, .auIdle, .seqs]

/-- t is s after the next packet of a queue has been fetched: a command with p stands in the queue with the packet's fields. -/
def PacketStands (s : State) (qn : Nat) (p : Cmd → Prop) (t : State) : Prop :=
  (∃ c ∈ (t.queue qn).cmds, c.seqNo = s.rg.cmdSeq ∧
    c.index = (match (s.queue qn).outer with | some o => o.index | none => (s.queue qn).head) ∧
    c.tag = BitVec.ofNat 16 (leAt (s.packet (s.queue qn)) 2 2) ∧ c.notify = bitAt (leAt (s.packet (s.queue qn)) 0 2) 8 ∧
    c.overlap = bitAt (leAt (s.packet (s.queue qn)) 0 2) 10 ∧ p c) ∧
  ((s.queue qn).indirect = none → (t.queue qn).head = (s.queue qn).head + 1#32) ∧
  (∀ c ∈ (s.queue qn).cmds, c.isDone = true → c.isIndirect = false → c ∈ (t.queue qn).cmds) ∧
  t.rg.cmdSeq = s.rg.cmdSeq + 1 ∧ Only packetParts s t

theorem fields_of_key {s : State} {qn : Nat} {c : Cmd} {body : Body}
    (h : c.key = (newCmd s (s.queue qn) (s.packet (s.queue qn)) body).key) : c.seqNo = s.rg.cmdSeq ∧
    c.index = (match (s.queue qn).outer with | some o => o.index | none => (s.queue qn).head) ∧
    c.tag = BitVec.ofNat 16 (leAt (s.packet (s.queue qn)) 2 2) ∧ c.notify = bitAt (leAt (s.packet (s.queue qn)) 0 2) 8 ∧
    c.overlap = bitAt (leAt (s.packet (s.queue qn)) 0 2) 10 ∧ c.body = body := by
  unfold Cmd.key at h
  simp only [Prod.mk.injEq] at h
  obtain ⟨h1, h2, h3, h4, h5, h6, -⟩ := h
  exact ⟨h1, h2, h3, h4, h5, h6⟩

/-- A complete command stands after the fetch as it is. -/
theorem Fetched.stands {s t : State} {qn : Nat} {c : Cmd} {body : Body} {p : Cmd → Prop} (h : Fetched s t qn c)
    (hk : c.key = (newCmd s (s.queue qn) (s.packet (s.queue qn)) body).key) (hd : c.isDone = true) (hi : c.isIndirect = false)
    (hp : p c) (ho : Only packetParts s t) : PacketStands s qn p t := by
  obtain ⟨h1, h2, h3, h4, h5, -⟩ := fields_of_key hk
  exact ⟨⟨c, h.self hd hi, h1, h2, h3, h4, h5, hp⟩, h.head, h.kept, h.seq, ho⟩

/-- A command stands after the fetch with its body, whatever it has become. -/
theorem FetchedKey.stands {s t : State} {qn : Nat} {body : Body}
    (h : FetchedKey s t qn (newCmd s (s.queue qn) (s.packet (s.queue qn)) body)) (ho : Only packetParts s t) :
    PacketStands s qn (fun c => c.body = body) t := by
  obtain ⟨d, hk, hf⟩ := h
  obtain ⟨c, hc, hck⟩ := List.mem_map.1 hf.key
  obtain ⟨h1, h2, h3, h4, h5, h6⟩ := fields_of_key (hck.trans hk)
  exact ⟨⟨c, hc, h1, h2, h3, h4, h5, h6⟩, hf.head, hf.kept, hf.seq, ho⟩

theorem badCmd_stale {s : State} {qn : Nat} {w : W32} (hn : Numbered s) (hi : (s.queue qn).indirect = none)
    (ho : Only packetParts s (pushStale s qn (s.badCmd qn) w)) :
    PacketStands s qn (fun c => c.phase = .recorded ∧ c.code = Config.STALE_HANDLE) (pushStale s qn (s.badCmd qn) w) := by
  have hin : (s.badCmd qn).inner = none := by
    unfold State.badCmd newCmd
    rw [hi]
    rfl
  obtain ⟨⟨d, hd, hk, hp, hc⟩, hhead, hkept, hseq⟩ := pushStale_fetched (qn := qn) w rfl hn hin (badCmd_direct s qn)
  obtain ⟨h1, h2, h3, h4, h5, -⟩ := fields_of_key hk
  exact ⟨⟨d, hd, h1, h2, h3, h4, h5, hp, hc⟩, hhead, hkept, hseq, ho⟩

/-- Settles O34: a packet's command stands in its queue with what a key holds of it (`FetchedKey`), because starting what may
start keeps the keys of every queue, its place and what is complete. -/
theorem packetsAreFetched : Obligations.PacketsAreFetched := by
  intro s queue hn qn q a b index fetched row
  have hrow (x : Instr) (op mode : Nat) (hx : exec x s = .next (packetRow s qn op mode))
      (hl : ((mayChange x).all fun f => decide (f ∈ packetParts)) = true) : row x op mode := by
    refine ⟨fun hm hh hop => ?_, fun hm hh y hy hne => by rw [hx, packetRow_other hm hh hy hne],
      fun h => by rw [hx, packetRow_idle h]⟩
    rw [packetRow_fetches hm hh hop] at hx
    have hframe := (exec_only x s _ hx).wider hl
    refine ⟨fun hp => ?_, fun hp ht => ⟨fun code d hc => ?_, fun w hi hc => ?_, fun body hc hlaunch hwait => ?_⟩⟩
    · rw [fetchPacket_poisoned hp] at hx hframe
      have hr := errRecord_only s 1 (some 8) none (some (s.queue qn).part) Config.MEM_POISON (s.packetAddr (s.queue qn))
      have hrg : (errRecord s 1 (some 8) none (some (s.queue qn).part) Config.MEM_POISON (s.packetAddr (s.queue qn))).rg = s.rg :=
        hr .rg (by decide)
      obtain ⟨time, hf⟩ := pushFailed_fetched (qn := qn) (c := s.badCmd qn) Config.MEM_POISON 0#64
        (congrArg Rg.cmdSeq hrg.symm) (hn.of_queues (hr .queues (by decide)) hrg)
      exact ⟨_, hx, (hf.before (hr .queues (by decide)) hrg).stands
        (p := fun c => c.phase = .completed ∧ c.code = Config.MEM_POISON ∧ c.submission = true) rfl rfl (badCmd_direct s qn)
        ⟨rfl, rfl, rfl⟩ hframe⟩
    · obtain ⟨time, hf⟩ := fetchPacket_fails hp ht hc hn
      exact ⟨_, hx, hf.stands (p := fun c => c.phase = .completed ∧ c.code = code ∧ c.submission = true) rfl rfl
        (badCmd_direct s qn) ⟨rfl, rfl, rfl⟩ hframe⟩
    · have hc' : s.checkPacket q.ctx q.part q.indirect.isSome b = .stale w := by
        rw [hi]
        exact hc
      rw [fetchPacket_stale hp ht hc'] at hx hframe
      exact ⟨_, hx, badCmd_stale hn hi hframe⟩
    · rw [fetchPacket_ok hp ht hc] at hx hframe
      exact ⟨_, hx, (fetchOk_fetched (qn := qn) (c := newCmd s q b body) rfl hn hlaunch hwait).stands hframe⟩
  refine ⟨hrow _ _ _ rfl rfl, hrow _ _ _ rfl rfl, hrow _ _ _ rfl rfl, hrow _ _ _ rfl rfl, hrow _ _ _ rfl rfl, hrow _ _ _ rfl rfl,
    hrow _ _ _ rfl rfl, hrow _ _ _ rfl rfl, hrow _ _ _ rfl rfl, hrow _ _ _ rfl rfl, hrow _ _ _ rfl rfl, hrow _ _ _ rfl rfl,
    hrow _ _ _ rfl rfl, hrow _ _ _ rfl rfl, fun hm hh => ⟨fun h => ?_, fun h => ?_⟩,
    fun h => congrArg Host.Outcome.next (fetchRetry_idle h)⟩
  · exact congrArg Host.Outcome.next ((fetchRetry_held hm hh).trans (if_pos h))
  · exact congrArg Host.Outcome.next ((fetchRetry_held hm hh).trans (if_neg h))

end Sys2Proof.Machine
end

section
/-! SUPPORT. O35: an INDIRECT begins its run, and a wait that is not decided takes a wait slot or is held back (R275, R284, R291,
R353). -/

namespace Sys2Proof.Machine

theorem pkOp_of_nextOp {s : State} {q : Queue} {op mode : Nat} (h : s.nextOp q = some (op, mode)) : pkOp (s.packet q) = op := by
  unfold State.nextOp at h
  unfold State.packet
  dsimp only at h
  generalize (if pkOp (s.readBytes (s.packetAddr q) 64) = 7 then _ else 0) = m at h
  split at h
  · cases h
  · cases h
    rfl

section
variable {s : State} {qn op mode : Nat} (hm : s.mayFetch (s.queue qn) = true) (hh : (s.queue qn).held = .none)
  (hp : s.poisoned (s.packetAddr (s.queue qn)) 64 = false) (hop : s.nextOp (s.queue qn) = some (op, mode)) (h7 : op ≠ 7)
include hm hh hp hop h7

/-- The row of a packet that passes R280. -/
theorem packetRow_ok {body : Body}
    (h : s.checkPacket (s.queue qn).ctx (s.queue qn).part (s.queue qn).indirect.isSome (s.packet (s.queue qn)) = .ok body) :
    packetRow s qn op mode = fetchOk s qn (newCmd s (s.queue qn) (s.packet (s.queue qn)) body) := by
  rw [packetRow_fetches hm hh (.inl hop)]
  exact fetchPacket_ok hp (fun h => absurd ((pkOp_of_nextOp hop).symm.trans h) h7) h

end

/-- The next number has been taken. -/
def State.numberTaken (s : State) : State := { s with rg := { s.rg with cmdSeq := s.rg.cmdSeq + 1 } }

theorem pushCmd_eq (s : State) (qn : Nat) (c : Cmd) :
    pushCmd s qn c = regEval (pump (s.numberTaken.modQueue qn fun q => (q.push c).drained) qn) := rfl

theorem numberTaken_pushed (s : State) (qn : Nat) (c : Cmd) :
    (s.numberTaken.modQueue qn fun q => (q.push c).drained).queue qn = ((s.queue qn).push c).drained := modQueue_self _ _ _

/-- A pushed command's queue fetches its next packet where the push left it. -/
theorem pushCmd_place (s : State) (qn : Nat) (c : Cmd) : ((pushCmd s qn c).queue qn).place = ((s.queue qn).push c).place := by
  have h : PlacesKept (s.numberTaken.modQueue qn fun q => (q.push c).drained) (pushCmd s qn c) :=
    (pump_places _ qn).trans (regEval_places _)
  rw [h qn, numberTaken_pushed, drained_place]

/-- An INDIRECT that is fetched outside one begins its run (R291). -/
theorem fetchOk_indirect {s : State} {qn : Nat} (hi : (s.queue qn).indirect = none) (b : List Byte) (h : W32) (off count : Nat) :
    ((fetchOk s qn (newCmd s (s.queue qn) b (.indirect h off count))).queue qn).indirect =
        some { obj := handleIndex h, off := off, count := count, next := 0 } ∧
      ((fetchOk s qn (newCmd s (s.queue qn) b (.indirect h off count))).queue qn).head = (s.queue qn).head + 1#32 := by
  have e := pushCmd_place s qn { newCmd s (s.queue qn) b (.indirect h off count) with
    refs := s.bodyRefs (.indirect h off count), phase := .started }
  unfold Queue.push at e
  rw [hi] at e
  unfold Queue.place at e
  simp only [Prod.mk.injEq] at e
  exact ⟨e.2.2.1, e.1⟩

/-- Where every other command of a queue is complete, a command with a wait slot stands in it as it was pushed. -/
theorem pushCmd_pending {s : State} {qn : Nat} {c : Cmd} (hall : ∀ d ∈ (s.queue qn).cmds, d.isDone = true)
    (hc : c.phase = .pendingWait) : c ∈ ((pushCmd s qn c).queue qn).cmds := by
  have hq := numberTaken_pushed s qn c
  have hperm := push_cmds (s.queue qn) c
  have hstays : ∀ d ∈ ((s.numberTaken.modQueue qn fun q => (q.push c).drained).queue qn).cmds, d.stays := fun d hd => by
    rw [hq, drained_cmds] at hd
    rcases List.mem_cons.1 (hperm.subset hd) with rfl | hd
    · exact .inr (.inl hc)
    · exact .inl (hall d hd)
  have hw (q : Queue) : q.waitOver.cmds = q.cmds := by
    unfold Queue.waitOver
    split <;> rfl
  rw [pushCmd_eq, regEval_cmds, pump_of_stays hstays, modQueue_self, hw, hq, drained_cmds]
  exact hperm.symm.subset List.mem_cons_self

/-- A wait that is not decided takes a wait slot where one is free, and its queue waits (R275). -/
theorem fetchWait_pending {s : State} {qn : Nat} {c : Cmd} (ho : s.waitOutcome c.body = none)
    (hr : s.waitRoom (s.ctx (s.queue qn).ctx).inst = true) (hall : ∀ d ∈ (s.queue qn).cmds, d.isDone = true) :
    ((fetchWait s qn c).queue qn).state = .waiting ∧
      ∃ d ∈ ((fetchWait s qn c).queue qn).cmds, d.key = c.key ∧ d.phase = .pendingWait := by
  unfold fetchWait
  rw [ho, ite_self]
  dsimp only
  rw [if_pos hr]
  have hpend := pushCmd_pending (qn := qn) (c := { (arriveNow s c).1 with phase := .pendingWait }) hall rfl
  generalize pushCmd s qn _ = u at hpend
  have hk : ({ (arriveNow s c).1 with phase := .pendingWait } : Cmd).key = c.key := arriveNow_key s c
  have hst : ((setQState u qn .waiting).queue qn).state = .waiting := by
    unfold setQState
    rw [modQueue_self]
  have hmem : { (arriveNow s c).1 with phase := .pendingWait } ∈ ((setQState u qn .waiting).queue qn).cmds := by
    unfold setQState
    rw [modQueue_self]
    exact hpend
  split
  · rename_i fl _
    obtain ⟨-, -, ha⟩ := addArrival_kept (setQState u qn .waiting) fl
    obtain ⟨d, hd, hdk, hdp⟩ := (ha qn).2 _ hmem
    exact ⟨(ha qn).1.trans hst, d, hd, hdk.trans hk, hdp⟩
  · exact ⟨hst, _, hmem, hk, rfl⟩

/-- The packet is held back, and FULL_SEEN is set. -/
def waitHeld (s : State) (qn : Nat) : State := { hold s qn .waitSlot with kp := { s.kp with waitFullSeen := true } }

theorem waitFull_reported_only (s : State) (qn : Nat) : Only [.chime, .obs] (waitHeld s qn) (waitFull s qn) := by
  have e : waitFull s qn = if decide (s.waitsHeld none < 16384) then
      chPulse (chSample (waitHeld s qn) 106) 107 Config.WAIT_TABLE_FULL (BitVec.ofNat 32 qn)
    else chSample (waitHeld s qn) 106 := rfl
  have hv : Only [.chime, .obs] (waitHeld s qn) (chSample (waitHeld s qn) 106) := (chSample_only _ _).wider (by decide)
  rw [e]
  exact .ite ((chPulse_only _ _ _ _).step (by decide) hv) hv

/-- With no wait slot free the wait is not fetched: its queue holds it back, and FULL_SEEN is set (R275, R353). -/
theorem waitFull_spec (s : State) (qn : Nat) : ((waitFull s qn).queue qn).held = .waitSlot ∧
    ((waitFull s qn).queue qn).cmds = (s.queue qn).cmds ∧ ((waitFull s qn).queue qn).head = (s.queue qn).head ∧
      (waitFull s qn).kp.waitFullSeen = true ∧ (waitFull s qn).rg = s.rg := by
  have hw := waitFull_reported_only s qn
  generalize waitFull s qn = t at hw
  have hq : t.queue qn = { s.queue qn with held := .waitSlot } :=
    (congrArg (fun q => tget Queue.reset q qn) (hw .queues (by decide))).trans (tget_tput_self _ _ _ _)
  rw [hq, hw .kp (by decide), hw .rg (by decide)]
  exact ⟨rfl, rfl, rfl, rfl, rfl⟩

theorem fetchWait_full {s : State} {qn : Nat} {c : Cmd} (ho : s.waitOutcome c.body = none)
    (hr : s.waitRoom (s.ctx (s.queue qn).ctx).inst = false) : fetchWait s qn c = waitFull s qn := by
  unfold fetchWait
  rw [ho, ite_self]
  exact if_neg (by rw [hr]; exact Bool.false_ne_true)

theorem fetchOk_wait (s : State) (qn : Nat) {c : Cmd} (h : c.body.isWait = true) :
    fetchOk s qn c = fetchWait s qn { c with refs := s.bodyRefs c.body } := by
  unfold fetchOk
  dsimp only
  cases hb : c.body with
  | waitFence cont t off thr => rfl
  | waitCounter cont id thr => rfl
  | barrier cont fl ep => rfl
  | _ =>
    rw [hb] at h
    cases h

/-- Settles O35: the INDIRECT's run and HEAD are what its push makes of the queue's place; a wait that is not decided is the one
command of its queue that is not complete, and starting what may start leaves it (`pump_of_stays`). -/
theorem indirectsAndWaitsAreFetched : Obligations.IndirectsAndWaitsAreFetched := by
  intro s queue hn qn q a b hm hh hi hp hall
  have check (body : Body) (h : s.checkPacket q.ctx q.part false b = .ok body) :
      s.checkPacket q.ctx q.part q.indirect.isSome b = .ok body := by
    rw [hi]
    exact h
  refine ⟨fun h off count hop hc => ?_, fun body hop hc hw ho hr => ?_, fun body hop hc hw ho hr => ?_⟩
  · have e : exec (.indirect queue) s = .next (packetRow s qn 11 0) := rfl
    rw [packetRow_ok hm hh hp hop (by decide) (check _ hc)] at e
    exact ⟨_, e, fetchOk_indirect hi b h off count⟩
  · have e : exec (.wait queue) s = .next (packetRow s qn 4 0) := rfl
    rw [packetRow_ok hm hh hp hop (by decide) (check _ hc), fetchOk_wait _ _ hw] at e
    obtain ⟨h1, d, hd, hk, hph⟩ := fetchWait_pending (qn := qn) (c := { newCmd s q b body with refs := s.bodyRefs body }) ho hr hall
    obtain ⟨h2, -, -, -, -, h3⟩ := fields_of_key (hk : d.key = (newCmd s q b body).key)
    exact ⟨_, e, h1, d, hd, h2, h3, hph⟩
  · have e : exec (.wait queue) s = .next (packetRow s qn 4 0) := rfl
    rw [packetRow_ok hm hh hp hop (by decide) (check _ hc), fetchOk_wait _ _ hw, fetchWait_full ho hr] at e
    exact ⟨_, e, waitFull_spec s qn⟩

end Sys2Proof.Machine
end

section
/-! SUPPORT. O17: the end of a kill and of a job (R51, R138, R278). -/

namespace Sys2Proof.Machine

/-! ## Cores whose job stays (R51) -/

/-- Every core of t has the job it had in s. -/
def CoreJobs (s t : State) : Prop := ∀ c, (t.core c).job = (s.core c).job

namespace CoreJobs

theorem refl (s : State) : CoreJobs s s := fun _ => rfl

theorem trans {s t u : State} (h : CoreJobs s t) (g : CoreJobs t u) : CoreJobs s u := fun c => (g c).trans (h c)

theorem of_stops {s t : State} (h : Stops s t) : CoreJobs s t := fun c => (h.2 c).job

theorem of_cores {s t : State} (h : t.cores = s.cores) : CoreJobs s t := fun c => by
  unfold State.core
  rw [h]

theorem foldl {α : Type} {f : State → α → State} (h : ∀ s x, CoreJobs s (f s x)) (l : List α) (s : State) :
    CoreJobs s (l.foldl f s) := by
  induction l generalizing s with
  | nil => exact .refl s
  | cons x l ih => exact (h s x).trans (ih _)

end CoreJobs

theorem watchStale_jobs (s : State) (id : BitVec 17) : CoreJobs s (watchStale s id) := fun c => by
  rw [watchStale_core]
  exact pushWatch_job _ _ _

theorem completeRound_jobs (s : State) (n : Nat) : CoreJobs s (completeRound s n) := by
  unfold completeRound
  extract_lets f round u v w h
  have hv : CoreJobs s v := (CoreJobs.of_cores (t := u.modCounter f.releaseId.toNat fun c => { c with value := round }) rfl).trans
    (watchStale_jobs _ _)
  have hw : Only linkSendParts v w := .foldl (fun t l => linkSend_only _ _ _) (.refl _ _)
  refine hv.trans ((CoreJobs.of_cores (hw .cores (by decide))).trans (.of_cores (s := w) ?_))
  exact ((flightStart_only _ _) .cores (by decide)).trans ((flightAdd_only { w with queues := h.2 } _ _) .cores (by decide))

theorem flightEval_jobs (k : Nat) (s : State) (n : Nat) : CoreJobs s (flightEval k s n) := by
  induction k generalizing s with
  | zero => exact .refl s
  | succ k ih =>
    unfold flightEval
    split
    · dsimp only
      split
      · exact .of_cores ((linkSend_only _ _ _) .cores (by decide))
      · exact (completeRound_jobs (s.modCounter (s.flight n).arriveId.toNat fun c =>
          { c with value := c.value - BitVec.ofNat 32 (s.flight n).expect.toNat }) n).trans (ih _)
    · exact .refl s

theorem flightArrived_jobs (s : State) (n : Nat) : CoreJobs s (flightArrived s n) := by
  unfold flightArrived
  exact (CoreJobs.of_cores ((flightStart_only s n) .cores (by decide))).trans (flightEval_jobs _ _ n)

theorem updKill_jobs (s : State) (u : Update) (code : BitVec 16) : CoreJobs s (updKill s u code) := by
  unfold updKill
  split
  · rename_i n _
    refine (watchStale_jobs s u.id).trans ((CoreJobs.of_cores ?_).trans (.of_stops (killJob_stops _ _ _ _ _)))
    exact (jobCount_only _ _ _ _) .cores (by decide)
  · exact watchStale_jobs s u.id

theorem applyUpdate_jobs (s : State) (u : Update) : CoreJobs s (applyUpdate s u) := by
  unfold applyUpdate
  extract_lets st src c free full r v
  clear_value free full
  split
  · split
    · split
      · exact .of_stops (haltCore_stops _ _ _ _ _ _)
      · exact .of_stops (haltCore_stops _ _ _ _ _ _)
      · exact .of_stops (killJob_stops _ _ _ _ _)
    · exact .refl s
  · have h0 : CoreJobs s (ctrAdd s u.id u.amount src.1 src.2 st).1 :=
      .of_cores ((ctrAdd_only s u.id u.amount src.1 src.2 st) .cores (by decide))
    have h : CoreJobs s r.1 := h0
    have h' : CoreJobs s v :=
      h.trans ((CoreJobs.of_cores ((updApplied_only _ _) .cores (by decide))).trans (watchStale_jobs _ _))
    clear_value v r
    split
    · exact h
    · exact h.trans (updKill_jobs _ _ _)
    · split
      · exact h'.trans (flightArrived_jobs _ _)
      · exact h'

theorem flushUpdates_jobs (s : State) (n : Nat) : CoreJobs s (flushUpdates s n) := by
  unfold flushUpdates
  dsimp only
  exact (CoreJobs.of_cores (s := s) rfl).trans (.foldl applyUpdate_jobs _ _)

theorem rollback_jobs (s : State) (j : Job) : CoreJobs s (rollback s j) := by
  unfold rollback
  refine .foldl (fun s e => ?_) _ s
  split
  · exact .refl s
  · exact (CoreJobs.of_cores ((ctrAdd_only _ _ _ _ _ _) .cores (by decide))).trans (watchStale_jobs _ _)

theorem flightBreak_jobs (s : State) (n cause : Nat) (code : BitVec 16) (from' : Option Nat) :
    CoreJobs s (flightBreak s n cause code from') := by
  unfold flightBreak
  extract_lets f u links v
  split
  · have hv : Only linkSendParts u v := .foldl (fun t l => linkSend_only _ _ _) (.refl _ _)
    have hp : CoreJobs s (pmGlobal v 20 1) :=
      .of_cores (((pmGlobal_only _ _ _) .cores (by decide)).trans (hv .cores (by decide)))
    refine (hp.trans (watchStale_jobs _ f.releaseId)).trans (.of_cores ?_)
    exact (chPulse_only (endBarriers _ n code) _ _ _) .cores (by decide)
  · exact .refl s

theorem breakArrivals_jobs (s : State) (j : Job) : CoreJobs s (breakArrivals s j) :=
  .foldl (fun s _ => flightBreak_jobs s _ _ _ _) _ s

/-! ## What follows a job on its cores -/

/-- What says whose work a core does: its state, its job, its PC and its scratch. -/
def Core.work (k : Core) : CoreSt × Option Nat × Nat × Tbl Byte := (k.st, k.job, k.pc, k.scratch)

/-- Every core of t does the work it did in s. -/
def WorkKept (s t : State) : Prop := ∀ c, (t.core c).work = (s.core c).work

namespace WorkKept

theorem refl (s : State) : WorkKept s s := fun _ => rfl

theorem trans {s t u : State} (h : WorkKept s t) (g : WorkKept t u) : WorkKept s u := fun c => (g c).trans (h c)

theorem of_cores {s t : State} (h : t.cores = s.cores) : WorkKept s t := fun c => by
  unfold State.core
  rw [h]

theorem foldl {α : Type} {f : State → α → State} (h : ∀ s x, WorkKept s (f s x)) (l : List α) (s : State) :
    WorkKept s (l.foldl f s) := by
  induction l generalizing s with
  | nil => exact .refl s
  | cons x l ih => exact (h s x).trans (ih _)

theorem coreJobs {s t : State} (h : WorkKept s t) : CoreJobs s t := fun c => congrArg (fun w => w.2.1) (h c)

end WorkKept

theorem clearRange_work (s : State) (c off len : Nat) : WorkKept s (clearRange s c off len) := by
  unfold clearRange
  split
  · exact .refl s
  · intro d
    rw [modCore_core_cases]
    split
    · rename_i e
      rw [e]
      rfl
    · rfl

theorem freeGen_work (s : State) (e : Nat) : WorkKept s (freeGen s e) := fun c =>
  Eq.trans (congrArg Core.work (tget_map Core.reset (Core.dropLines · e) rfl s.cores c)) rfl

theorem shareSettle_work (s : State) : WorkKept s (shareSettle s) := by
  unfold shareSettle
  refine .foldl (fun s x => ?_) _ s
  split
  · dsimp only
    split
    · exact .of_cores rfl
    · exact (WorkKept.of_cores (s := s) rfl).trans (.foldl (fun u c => clearRange_work _ _ _ _) _ _)
  · exact .refl s

theorem afterJob_work (s : State) : WorkKept s (afterJob s) := by
  have h : WorkKept s (shareSettle (genSettle s)) := (WorkKept.foldl freeGen_work _ s).trans (shareSettle_work _)
  unfold afterJob
  dsimp only
  split
  · exact h.trans ((WorkKept.foldl (fun u r => clearRange_work _ _ _ _) _ _).trans
      (.of_cores ((eraseSettle_only _) .cores (by decide))))
  · exact h

/-! ## The end of a kill (R51) -/

theorem idleCores_core (s : State) (l : List Nat) (d : Nat) :
    (idleCores s l).core d = if d ∈ l then (s.core d).leave else s.core d := by
  unfold idleCores
  induction l generalizing s with
  | nil => rfl
  | cons c l ih =>
    rw [List.foldl_cons, ih, modCore_core_cases]
    by_cases h : d = c
    · subst h
      simp [Core.leave]
    · simp [h]

/-- The core of a kill is idle, and has left the job's list. -/
def killedCore (s : State) (c n : Nat) (j : Job) : State :=
  (idleCores (traceJob s c j 0 2) [c]).setJob n { j with killing := j.killing.filter fun x => x != c }

theorem killCore_eq {s : State} {c n : Nat} {j : Job} (hc : (s.core c).job = some n) (hj : s.job n = some j)
    (hm : c ∈ j.killing) : killCore s c = if (j.killing.filter fun x => x != c).isEmpty then
      killFinal (killedCore s c n j) n { j with killing := j.killing.filter fun x => x != c } else killedCore s c n j := by
  unfold killCore
  rw [hc]
  dsimp only
  rw [hj]
  exact if_pos (List.contains_iff_mem.2 hm)

theorem killCore_none {s : State} {c : Nat} (h : (s.core c).job = none) : killCore s c = s := by
  unfold killCore
  rw [h]

section
variable (s : State) (c n : Nat) (j : Job)

theorem killedCore_only : Only [.jobs, .cores, .obs] s (killedCore s c n j) :=
  (State.setJob_only _ _ _).step (by decide) ((idleCores_only _ _).step (by decide) ((traceJob_only _ _ _ _ _).wider (by decide)))

theorem killedCore_core (d : Nat) : (killedCore s c n j).core d = if d = c then (s.core d).leave else s.core d := by
  have h : (traceJob s c j 0 2).core d = s.core d := congrArg (fun l => tget Core.reset l d) ((traceJob_only _ _ _ _ _) .cores (by decide))
  refine (idleCores_core (traceJob s c j 0 2) [c] d).trans ?_
  rw [h]
  simp only [List.mem_singleton]

theorem killedCore_job : (killedCore s c n j).job n = some { j with killing := j.killing.filter fun x => x != c } :=
  State.setJob_job _ _ _

end

/-- The job of a kill that is over on all its cores has gone, and with it what it had added and its arrivals. -/
def killedDropped (s : State) (n : Nat) (j : Job) : State :=
  preemptDone (preemptAccounts (pmGlobal ((breakArrivals (rollback (flushUpdates s n) j) j).dropJob n) 8 1) j) n j.preempted

/-- What becomes of the LAUNCH of a killed free job. -/
def killedLaunch (s : State) (j : Job) (q : Nat) (index : W32) (seqNo : Nat) : State :=
  let u := afterJob (gvUpdate (endKilledLaunch (addCounts (regCharge s q (j.killCharge (s.heldNs j))) (s.queueCtx q)
    (tput (if j.countsPreempt then tput j.counts 9 1 else j.counts) 8 1)) j q index seqNo) j.part)
  if j.arrivals.isEmpty then u else pumpAll u

theorem killFinal_eq (s : State) (n : Nat) (j : Job) : killFinal s n j =
    match (((flushUpdates s n).job n).getD j).kind with
    | .station st => afterJob (setStatus (killedDropped s n (((flushUpdates s n).job n).getD j)) st .killed)
    | .free q index seqNo => killedLaunch (killedDropped s n (((flushUpdates s n).job n).getD j))
        (((flushUpdates s n).job n).getD j) q index seqNo := rfl

theorem killedDropped_job (s : State) (n : Nat) (j : Job) : (killedDropped s n j).job n = none := by
  refine Eq.trans (congrArg (tfind · n) ?_) (State.dropJob_job (breakArrivals (rollback (flushUpdates s n) j) j) n)
  exact ((preemptDone_only _ _ _) .jobs (by decide)).trans
    (((preemptAccounts_only _ _) .jobs (by decide)).trans ((pmGlobal_only _ _ _) .jobs (by decide)))

theorem killedDropped_jobs (s : State) (n : Nat) (j : Job) : CoreJobs s (killedDropped s n j) := by
  refine (flushUpdates_jobs s n).trans ((rollback_jobs _ j).trans ((breakArrivals_jobs _ j).trans (.of_cores ?_)))
  exact ((preemptDone_only _ _ _) .cores (by decide)).trans
    (((preemptAccounts_only _ _) .cores (by decide)).trans ((pmGlobal_only _ _ _) .cores (by decide)))

theorem killedLaunch_kept (s : State) (j : Job) (q : Nat) (index : W32) (seqNo : Nat) :
    (killedLaunch s j q index seqNo).jobs = s.jobs ∧ CoreJobs s (killedLaunch s j q index seqNo) := by
  unfold killedLaunch
  extract_lets u
  have hv : Only [.writes, .mem, .poison, .au, .pool, .gens, .ctxs, .queues, .insts, .rgParts, .fr, .chime, .obs, .freeCount] s
      (gvUpdate (endKilledLaunch (addCounts (regCharge s q (j.killCharge (s.heldNs j))) (s.queueCtx q)
        (tput (if j.countsPreempt then tput j.counts 9 1 else j.counts) 8 1)) j q index seqNo) j.part) :=
    (gvUpdate_only _ _).step (by decide) ((endKilledLaunch_only _ _ _ _ _).step (by decide)
      ((addCounts_only _ _ _).step (by decide) ((regCharge_only _ _ _).wider (by decide))))
  have hu : u.jobs = s.jobs ∧ CoreJobs s u :=
    ⟨((afterJob_only _) .jobs (by decide)).trans (hv .jobs (by decide)),
      (CoreJobs.of_cores (hv .cores (by decide))).trans (afterJob_work _).coreJobs⟩
  clear_value u
  split
  · exact hu
  · exact ⟨((pumpAll_only _) .jobs (by decide)).trans hu.1, hu.2.trans (.of_cores ((pumpAll_only _) .cores (by decide)))⟩

/-- The job of a complete kill is gone, and no core has taken a job meanwhile. -/
theorem killFinal_gone (s : State) (n : Nat) (j : Job) : (killFinal s n j).job n = none ∧ CoreJobs s (killFinal s n j) := by
  rw [killFinal_eq]
  generalize ((flushUpdates s n).job n).getD j = i
  have hj := killedDropped_job s n i
  have hc := killedDropped_jobs s n i
  generalize killedDropped s n i = u at hj hc
  split
  · refine ⟨Eq.trans (congrArg (tfind · n) ((afterJob_only _) .jobs (by decide))) hj, hc.trans ?_⟩
    exact (CoreJobs.of_cores (s := u) rfl).trans (afterJob_work _).coreJobs
  · obtain ⟨h1, h2⟩ := killedLaunch_kept u i _ _ _
    exact ⟨(congrArg (tfind · n) h1).trans hj, hc.trans h2⟩

/-- Killing what waits gives no core a job. -/
theorem killWaiters_jobs (s : State) : CoreJobs s (killWaiters s) := by
  unfold killWaiters
  refine .foldl (fun s c => ?_) _ s
  unfold killWaiter
  split
  · exact .refl s
  · split
    · split
      · split
        · exact (CoreJobs.of_cores ((errRecord_only _ _ _ _ _ _ _) .cores (by decide))).trans (.of_stops (killJob_stops _ _ _ _ _))
        · exact .refl s
      · exact .refl s
    · exact .refl s

theorem Kills.job_of_none {s t : State} (h : Kills s t) {n : Nat} (hn : s.job n = none) : t.job n = none := by
  rcases h.job n with e | ⟨j, _, hj, -⟩
  · exact e.trans hn
  · rw [hn] at hj
    cases hj

/-! ## JOB_END (R138) -/

/-- The cores of a job that has ended are idle. -/
def endedCores (s : State) (n : Nat) (j : Job) : State :=
  idleCores (j.cores.foldl (fun s c => traceJob s c j 0 2) (preemptDone s n false)) j.cores

theorem endedCores_before (s : State) (n : Nat) (j : Job) :
    Only [.rg, .obs] s (j.cores.foldl (fun s c => traceJob s c j 0 2) (preemptDone s n false)) :=
  .foldl (fun u c => (traceJob_only _ _ _ _ _).wider (by decide)) ((preemptDone_only _ _ _).wider (by decide))

theorem endedCores_only (s : State) (n : Nat) (j : Job) : Only [.rg, .obs, .cores] s (endedCores s n j) :=
  (idleCores_only _ _).step (by decide) ((endedCores_before s n j).wider (by decide))

theorem endedCores_core (s : State) (n : Nat) (j : Job) (d : Nat) :
    (endedCores s n j).core d = if d ∈ j.cores then (s.core d).leave else s.core d := by
  have h (d : Nat) : (j.cores.foldl (fun s c => traceJob s c j 0 2) (preemptDone s n false)).core d = s.core d :=
    congrArg (fun l => tget Core.reset l d) ((endedCores_before s n j) .cores (by decide))
  exact (idleCores_core _ _ d).trans (by rw [h])

theorem endJob_station (s : State) (n : Nat) {j : Job} {st : Nat} (h : j.kind = .station st) : endJob s n j =
    shareSettle (setStatus ((endedCores s n j).setJob n { j with pins := [], cores := [] }) st .ended) := by
  unfold endJob
  dsimp only
  rw [h]
  rfl

/-- The state in which a free job has gone and its LAUNCH is charged, with what it wrote. -/
def launchCharged (s : State) (n : Nat) (j : Job) (q seqNo : Nat) : State :=
  let u := endedCores s n j
  let v := regCharge (u.dropJob n) q (u.heldNs j)
  (addCounts v (v.queueCtx q) j.counts).modQueue q fun x => x.modCmd seqNo fun c => { c with wrote := j.wrote, counts := j.counts }

theorem endJob_free (s : State) (n : Nat) {j : Job} {q seqNo : Nat} {index : W32} (h : j.kind = .free q index seqNo) :
    endJob s n j = afterJob (gvUpdate (completeCmd (launchCharged s n j q seqNo) q seqNo Config.NONE false 0#64) j.part) := by
  unfold endJob
  dsimp only
  rw [h]
  rfl

/-- The command of a LAUNCH whose job has ended, with what the job wrote and counted. -/
def Cmd.ran (c : Cmd) (j : Job) : Cmd := { c with wrote := j.wrote, counts := j.counts }

/-- The charge leaves the commands as they are. -/
theorem launchCharged_queue (s : State) (n : Nat) (j : Job) (q seqNo : Nat) : ∃ v : State, (∀ m, (v.queue m).cmds = (s.queue m).cmds) ∧
    launchCharged s n j q seqNo = v.modQueue q (fun x => x.modCmd seqNo fun c => c.ran j) ∧ v.jobs = tdel s.jobs n ∧
      v.cores = (endedCores s n j).cores ∧ v.esc = s.esc := by
  have hu := endedCores_only s n j
  obtain ⟨u, hudef⟩ : ∃ u, u = endedCores s n j := ⟨_, rfl⟩
  obtain ⟨v, hv⟩ : ∃ v, v = regCharge (u.dropJob n) q (u.heldNs j) := ⟨_, rfl⟩
  have hvo : Only [.queues] (u.dropJob n) v := hv ▸ (regCharge_only _ _ _).wider (by decide)
  have hwo : Only [.ctxs] v (addCounts v (v.queueCtx q) j.counts) := (addCounts_only _ _ _).wider (by decide)
  have huq (m : Nat) : u.queue m = s.queue m := by
    rw [hudef]
    exact congrArg (fun l => tget Queue.reset l m) (hu .queues (by decide))
  refine ⟨addCounts v (v.queueCtx q) j.counts, fun m => ?_, by rw [hv, hudef]; rfl, ?_, ?_, ?_⟩
  · refine (congrArg (fun l => (tget Queue.reset l m).cmds) (hwo .queues (by decide))).trans ?_
    change (v.queue m).cmds = _
    rw [hv]
    unfold regCharge
    by_cases e : m = q
    · rw [e, modQueue_self]
      exact Eq.trans (b := (u.queue q).cmds) rfl (congrArg Queue.cmds (huq q))
    · rw [modQueue_ne _ _ _ _ e]
      exact congrArg Queue.cmds (huq m)
  · refine (hwo .jobs (by decide)).trans ((hvo .jobs (by decide)).trans ?_)
    change tdel u.jobs n = _
    rw [hudef, hu .jobs (by decide)]
  · exact (hwo .cores (by decide)).trans ((hvo .cores (by decide)).trans (by rw [hudef]; rfl))
  · exact (hwo .esc (by decide)).trans ((hvo .esc (by decide)).trans (by rw [hudef]; exact hu .esc (by decide)))

/-- What follows the completion of a LAUNCH leaves its job gone, and every core as the end of the job left it. -/
theorem endJob_free_kept (s : State) (n : Nat) {j : Job} {q seqNo : Nat} {index : W32} (h : j.kind = .free q index seqNo) :
    (endJob s n j).job n = none ∧ WorkKept (endedCores s n j) (endJob s n j) := by
  obtain ⟨v, -, hv, hjobs, hcores, -⟩ := launchCharged_queue s n j q seqNo
  rw [endJob_free s n h, hv]
  have ho : Only [.queues, .seqs, .writes, .mem, .poison, .au, .pool, .gens, .ctxs, .insts, .rgParts, .fr, .chime, .obs, .freeCount] v
      (gvUpdate (completeCmd (v.modQueue q fun x => x.modCmd seqNo fun c => c.ran j) q seqNo Config.NONE false 0#64) j.part) :=
    (gvUpdate_only _ _).step (by decide) ((completeCmd_only _ _ _ _ _ _).step (by decide)
      ((State.modQueue_only _ _ _).wider (by decide)))
  refine ⟨?_, ?_⟩
  · refine Eq.trans (congrArg (tfind · n) ((afterJob_only _) .jobs (by decide))) ?_
    refine Eq.trans (congrArg (tfind · n) (ho .jobs (by decide))) ?_
    rw [hjobs]
    exact tfind_tdel_self _ _
  · exact (WorkKept.of_cores ((ho .cores (by decide)).trans hcores)).trans (afterJob_work _)

/-- The LAUNCH of a job that has ended stands completed with what the job wrote (R138, R278). -/
theorem endJob_free_cmd {s : State} {n : Nat} {j : Job} {q seqNo : Nat} {index : W32} (h : j.kind = .free q index seqNo)
    (hd : DistinctCmds s) {c : Cmd} (hc : (s.queue q).cmd seqNo = some c) (hdone : c.isDone = false) (hi : c.isIndirect = false) :
    (c.ran j).ended Config.NONE false 0#64 s.esc.time ∈ ((endJob s n j).queue q).cmds := by
  obtain ⟨v, hvq, hv, -, -, hesc⟩ := launchCharged_queue s n j q seqNo
  rw [endJob_free s n h, hv]
  have hcv : (v.queue q).cmd seqNo = some c := by
    unfold Queue.cmd
    rw [hvq]
    exact hc
  have hdv : DistinctCmds (v.modQueue q fun x => x.modCmd seqNo fun c => c.ran j) := fun m => by
    by_cases e : m = q
    · rw [e, modQueue_self, keys_seqNo (modCmd_keys (v.queue q) seqNo (fun c => c.ran j) fun _ _ _ => rfl), hvq]
      exact hd q
    · rw [modQueue_ne _ _ _ _ e, hvq]
      exact hd m
  have hcw : ((v.modQueue q fun x => x.modCmd seqNo fun c => c.ran j).queue q).cmd seqNo = some (c.ran j) := by
    rw [modQueue_self, cmd_modCmd (f := fun c => c.ran j) (fun _ => rfl), hcv]
    rfl
  have hspec := (completeCmd_spec _ q seqNo Config.NONE false 0#64 _ hdv hcw hdone hi).2
  rw [show (v.modQueue q fun x => x.modCmd seqNo fun c => c.ran j).esc = s.esc from hesc] at hspec
  unfold State.queue
  rw [(afterJob_only _) .queues (by decide), (gvUpdate_only _ _) .queues (by decide)]
  exact hspec

theorem endJob_station_spec {s : State} (n : Nat) {j : Job} {st : Nat} (h : j.kind = .station st) :
    (endJob s n j).job n = some { j with pins := [], cores := [] } ∧
      (∀ r, s.run = some r → (endJob s n j).run = some { r with beat := tput r.beat st .ended }) ∧
        WorkKept (endedCores s n j) (endJob s n j) := by
  rw [endJob_station s n h]
  refine ⟨?_, fun r hr => ?_, ?_⟩
  · refine Eq.trans (congrArg (tfind · n) ((shareSettle_only _) .jobs (by decide))) ?_
    exact State.setJob_job (endedCores s n j) n _
  · refine ((shareSettle_only _) .run (by decide)).trans ?_
    change Option.map _ (endedCores s n j).run = _
    rw [(endedCores_only s n j) .run (by decide), hr]
    rfl
  · exact (WorkKept.of_cores (s := endedCores s n j) rfl).trans (shareSettle_work _)

/-- The cores of a job that has ended are idle, the others do what they did. -/
theorem endJob_work (s : State) (n : Nat) (j : Job) : WorkKept (endedCores s n j) (endJob s n j) := by
  cases h : j.kind with
  | station st => exact (endJob_station_spec n h).2.2
  | free q index seqNo => exact (endJob_free_kept s n h).2

/-- Settles O17: a kill's last core drops the job, and nothing that follows makes one (`killFinal_gone`); the end of a job
leaves its cores idle, and what follows it touches neither jobs nor the work of cores (`afterJob_work`). -/
theorem jobsEndAndAreKilled : Obligations.JobsEndAndAreKilled := by
  refine ⟨fun s core n j hh hc hj hm => ?_, fun s core h => ?_, fun s core n j hc hj => ⟨fun h => ?_, fun hover hh => ?_⟩⟩
  · intro rest
    have e : exec (.killComplete core) s = .next (killWaiters (killCore s core.toNat)) := congrArg Host.Outcome.next (if_neg (by simp [hh]))
    rw [killCore_eq hc hj hm] at e
    have hcore := killedCore_core s core.toNat n j
    refine ⟨fun hrest hnone => ?_, fun hrest => ?_⟩
    · rw [if_neg (fun h => hrest (List.isEmpty_iff.1 h)), killWaiters_of_none] at e
      · exact ⟨_, e, killedCore_job s core.toNat n j, (hcore _).trans (if_pos rfl), fun d hd => (hcore d).trans (if_neg hd),
          killedCore_only s core.toNat n j⟩
      · intro d
        rw [hcore]
        split
        · exact (by decide : (0#3 : BitVec 3) ≠ 1#3)
        · exact hnone d
    · have hframe := Only.wider (l := [.writes, .mem, .poison, .au, .run, .pool, .kp, .gens, .ctxs, .queues, .insts, .shares, .rg,
        .rgParts, .jobs, .cores, .counters, .updates, .flights, .sy, .sec, .tw, .links, .fr, .chime, .obs, .freeCount])
        (exec_only (.killComplete core) s _ e) rfl
      rw [if_pos (List.isEmpty_iff.2 hrest)] at e hframe
      obtain ⟨h1, h2⟩ := killFinal_gone (killedCore s core.toNat n j) n { j with killing := rest }
      refine ⟨_, e, (killWaiters_kills _).job_of_none h1, (killWaiters_jobs _ _).trans ((h2 _).trans ?_), hframe⟩
      rw [hcore, if_pos rfl]
      rfl
  · rcases h with h | ⟨hnone, h⟩
    · exact congrArg Host.Outcome.next (if_pos h)
    · refine congrArg Host.Outcome.next ?_
      rw [killCore_none h, killWaiters_of_none hnone]
      exact ite_self _
  · have e : exec (.jobEnd core) s = .next (if s.jobOver n j && !s.obs.halted then endJob s n j else s) := by
      change execJobEnd core s = _
      unfold execJobEnd
      rw [hc]
      dsimp only
      rw [hj]
    rw [e, if_neg]
    rcases h with h | h <;> simp [h]
  · have e : exec (.jobEnd core) s = .next (endJob s n j) := by
      change execJobEnd core s = _
      unfold execJobEnd
      rw [hc]
      dsimp only
      rw [hj]
      exact congrArg Host.Outcome.next (if_pos (by simp [hover, hh]))
    have hwork := endJob_work s n j
    have hwcore (d : Nat) : ((endJob s n j).core d).work = (if d ∈ j.cores then (s.core d).leave else s.core d).work := by
      rw [hwork d, endedCores_core]
    unfold Core.work at hwcore
    refine ⟨_, e, fun d hd => ?_, fun d hd => ?_, fun st r hk hr => ?_, fun q i k c hk => ?_, Only.wider (exec_only (.jobEnd core) s _ e) rfl⟩
    · have h := hwcore d
      rw [if_pos hd] at h
      simp only [Prod.mk.injEq] at h
      exact h
    · have h := hwcore d
      rw [if_neg hd] at h
      simp only [Prod.mk.injEq] at h
      exact ⟨h.1, h.2.1⟩
    · obtain ⟨h1, h2, -⟩ := endJob_station_spec (s := s) n hk
      exact ⟨h1, h2 r hr⟩
    · refine ⟨(endJob_free_kept s n hk).1, fun hd hcmd hdone hi => ⟨_, endJob_free_cmd hk hd hcmd hdone hi, ?_⟩⟩
      exact ⟨(cmd_mem hcmd).2, rfl, rfl, rfl, rfl⟩

end Sys2Proof.Machine
end

section
/-! SUPPORT. Broken flights and preempted jobs; O46: what a preemption does to its target (R322, R323, R342 to R346). -/

namespace Sys2Proof.Machine

/-! ## Flights that break (R322, R323) -/

/-- A break leaves every flight but its own alone. -/
theorem flightBreak_flight (s : State) (n cause : Nat) (code : BitVec 16) (from' : Option Nat) (m : Nat) :
    (flightBreak s n cause code from').flight m = if m = n ∧ (s.flight n).state = .isOpen then { s.flight n with
      state := .broken, cause := BitVec.ofNat 3 cause, code := code, watchdog := false } else s.flight m := by
  unfold flightBreak
  extract_lets f u links v
  have hu (l : Nat) : u.flight l = if l = n then { s.flight n with
      state := .broken, cause := BitVec.ofNat 3 cause, code := code, watchdog := false } else s.flight l := by
    split
    · next e => rw [e]; exact State.setFlight_flight _ _ _
    · next e => exact State.setFlight_flight_ne _ _ _ _ e
  have hv : Only linkSendParts u v := .foldl (fun t l => linkSend_only _ _ _) (.refl _ _)
  clear_value u v
  by_cases h : f.state = .isOpen
  · have ho : Only [.tw, .links, .queues, .cores, .chime, .obs] u
        (chPulse (endBarriers (watchStale (pmGlobal v 20 1) f.releaseId) n code) 99 code (BitVec.ofNat 32 n)) :=
      (chPulse_only _ _ _ _).step (by decide) ((endBarriers_only _ _ _).step (by decide)
        ((watchStale_only _ _).step (by decide) ((pmGlobal_only _ _ _).step (by decide) (hv.wider (by decide)))))
    rw [if_pos h]
    refine (congrArg (tget _ · m) (ho .flights (by decide))).trans ((hu m).trans ?_)
    by_cases hm : m = n
    · rw [if_pos hm, if_pos ⟨hm, h⟩]
    · rw [if_neg hm, if_neg fun hc => hm hc.1]
  · rw [if_neg h, if_neg fun hc => h hc.2]

/-- A flight that broke in one way is not broken again in another. -/
theorem foldl_flightBreak_kept (l : List Nat) (cause : Nat) (code : BitVec 16) (from' : Option Nat) {s : State} {f : Nat}
    (h : (s.flight f).state ≠ .isOpen) : (l.foldl (fun s n => flightBreak s n cause code from') s).flight f = s.flight f := by
  induction l generalizing s with
  | nil => rfl
  | cons n l ih =>
    have e : (flightBreak s n cause code from').flight f = s.flight f := by
      rw [flightBreak_flight, if_neg]
      rintro ⟨rfl, ho⟩
      exact h ho
    exact (ih (e ▸ h)).trans e

/-- Every open flight of a list is broken with the cause. -/
theorem foldl_flightBreak_broken {l : List Nat} (cause : Nat) (code : BitVec 16) (from' : Option Nat) {s : State} {f : Nat}
    (hf : f ∈ l) (ho : (s.flight f).state = .isOpen) :
    ((l.foldl (fun s n => flightBreak s n cause code from') s).flight f).state = .broken ∧
      ((l.foldl (fun s n => flightBreak s n cause code from') s).flight f).cause = BitVec.ofNat 3 cause := by
  induction l generalizing s with
  | nil => cases hf
  | cons n l ih =>
    have e := flightBreak_flight s n cause code from' f
    by_cases hn : f = n
    · subst hn
      rw [if_pos ⟨rfl, ho⟩] at e
      rw [List.foldl_cons, foldl_flightBreak_kept l cause code from' (by rw [e]; exact fun h => nomatch h), e]
      exact ⟨rfl, rfl⟩
    · rw [if_neg fun hc => hn hc.1] at e
      exact ih ((List.mem_cons.1 hf).resolve_left hn) (e ▸ ho)

theorem flightBreak_kills (s : State) (n cause : Nat) (code : BitVec 16) (from' : Option Nat) :
    Kills s (flightBreak s n cause code from') := by
  refine .of_kept (fun m => congrArg (tfind · m) (flightBreak_only _ _ _ _ _ .jobs (by decide))) fun c => ?_
  unfold flightBreak
  extract_lets f u links v
  have hu : u.core c = s.core c := rfl
  have hv : Only linkSendParts u v := .foldl (fun t l => linkSend_only _ _ _) (.refl _ _)
  clear_value u v
  have hvc : (pmGlobal v 20 1).core c = u.core c := (pmGlobal_core _ _ _ _).trans (congrArg (tget _ · c) (hv .cores (by decide)))
  generalize pmGlobal v 20 1 = w at hvc
  by_cases h : f.state = .isOpen
  · rw [if_pos h, chPulse_core]
    have hw : ((watchStale w f.releaseId).core c).st = (s.core c).st := by
      rw [watchStale_core, pushWatch_st, hvc, hu]
    exact hw
  · rw [if_neg h]

/-! ## Preempted jobs (R342 to R346) -/

/-- A job that a preemption takes keeps its cores and is being killed, or its kill is deferred (R346). -/
def TakenFrom (j k : Job) : Prop := k.cores = j.cores ∧ (k.kill = j.kill ∧ k.deferred = true ∨ k.kill ≠ none)

theorem killJob_free {s : State} {n q seqNo : Nat} {index : W32} {j : Job} (why : KillWhy) (code : BitVec 16) (detail : W64)
    (hj : s.job n = some j) (hk : j.kind = .free q index seqNo) :
    killJob s n why code detail = killOne s n why code detail false := by
  unfold killJob
  rw [hj]
  dsimp only
  by_cases h : j.killable = true
  · rw [if_neg (by simp [h]), hk]
  · rw [if_pos (by simpa using h), killOne_of_not_killable]
    intro i hi
    rw [← Option.some.inj (hj.symm.trans hi)]
    simpa using h

theorem preemptJob_of_waits {s : State} {n : Nat} {j : Job} (hj : s.job n = some j) (h : s.remoteWait j = true) :
    preemptJob s n = if j.deferred then s else s.setJob n { j with deferred := true, deferStart := s.esc.time } := by
  unfold preemptJob
  rw [hj]
  exact if_pos h

theorem preemptJob_of_runs {s : State} {n : Nat} {j : Job} (hj : s.job n = some j) (h : s.remoteWait j = false) :
    preemptJob s n = killJob s n .preempt Config.NONE 0#64 := by
  unfold preemptJob
  rw [hj]
  exact if_neg (by simp [h])

/-- Preemption takes its job, if it stands on a core. -/
theorem preemptJob_takes {s : State} {n : Nat} {j : Job} (hj : s.job n = some j) (hc : j.cores ≠ []) :
    ∃ k, (preemptJob s n).job n = some k ∧ TakenFrom j k := by
  cases hw : s.remoteWait j
  · rw [preemptJob_of_runs hj hw]
    by_cases hk : j.kill = none
    · exact ⟨_, killJob_job _ _ _ hj ((Job.killable_iff j).2 ⟨hk, hc⟩), rfl, .inr fun h => nomatch h⟩
    · exact ⟨j, (killJob_kills _ _ _ _ _).job_of_killed hj (Option.isSome_iff_ne_none.2 hk), rfl, .inr hk⟩
  · rw [preemptJob_of_waits hj hw]
    split
    · next hd => exact ⟨j, hj, rfl, .inl ⟨rfl, hd⟩⟩
    · exact ⟨_, State.setJob_job _ _ _, rfl, .inl ⟨rfl, rfl⟩⟩

/-- A job that a preemption has taken stays taken. -/
theorem preemptJob_taken {s : State} {n m : Nat} {j k : Job} (hk : s.job m = some k) (ht : TakenFrom j k) :
    ∃ i, (preemptJob s n).job m = some i ∧ TakenFrom j i := by
  obtain ⟨hcores, ht⟩ := ht
  unfold preemptJob
  split
  · exact ⟨k, hk, hcores, ht⟩
  · next x hx =>
    split
    · split
      · exact ⟨k, hk, hcores, ht⟩
      · by_cases hm : m = n
        · subst hm
          rw [Option.some.inj (hx.symm.trans hk)]
          exact ⟨_, State.setJob_job _ _ _, hcores, ht.imp_left fun h => ⟨h.1, rfl⟩⟩
        · exact ⟨k, (State.setJob_job_ne _ _ _ _ hm).trans hk, hcores, ht⟩
    · rcases (killJob_kills s n .preempt Config.NONE 0#64).job m with e | ⟨a, b, ha, hb, -, hs, hc⟩
      · exact ⟨k, e.trans hk, hcores, ht⟩
      · exact ⟨b, hb, hc.trans (Option.some.inj (ha.symm.trans hk) ▸ hcores), .inr (Option.isSome_iff_ne_none.1 hs)⟩

/-- A job that is not yet due stays as it was, or is already taken. -/
theorem preemptJob_left (s : State) (n : Nat) {m : Nat} {j : Job} (hj : s.job m = some j) :
    ∃ i, (preemptJob s n).job m = some i ∧ (i = j ∨ TakenFrom j i) := by
  by_cases hm : m = n
  · subst hm
    by_cases hc : j.cores = []
    · unfold preemptJob
      rw [hj]
      dsimp only
      split
      · split
        · exact ⟨j, hj, .inl rfl⟩
        · exact ⟨_, State.setJob_job _ _ _, .inr ⟨rfl, .inl ⟨rfl, rfl⟩⟩⟩
      · refine ⟨j, ?_, .inl rfl⟩
        unfold killJob
        rw [hj]
        dsimp only
        rw [if_pos (by simp [Job.killable, hc])]
        exact hj
    · obtain ⟨k, h, ht⟩ := preemptJob_takes hj hc
      exact ⟨k, h, .inr ht⟩
  · unfold preemptJob
    split
    · exact ⟨j, hj, .inl rfl⟩
    · next x hx =>
      split
      · split
        · exact ⟨j, hj, .inl rfl⟩
        · exact ⟨j, (State.setJob_job_ne _ _ _ _ hm).trans hj, .inl rfl⟩
      · rcases (killJob_kills s n .preempt Config.NONE 0#64).job m with e | ⟨a, b, ha, hb, -, hs, hc⟩
        · exact ⟨j, e.trans hj, .inl rfl⟩
        · exact ⟨b, hb, .inr ⟨Option.some.inj (ha.symm.trans hj) ▸ hc, .inr (Option.isSome_iff_ne_none.1 hs)⟩⟩

theorem foldl_preemptJob_taken (l : List Nat) {s : State} {m : Nat} {j k : Job} (hk : s.job m = some k) (ht : TakenFrom j k) :
    ∃ i, (l.foldl preemptJob s).job m = some i ∧ TakenFrom j i := by
  induction l generalizing s k with
  | nil => exact ⟨k, hk, ht⟩
  | cons n l ih =>
    obtain ⟨i, hi, h⟩ := preemptJob_taken (n := n) hk ht
    exact ih hi h

/-- Preemption takes every job of its list that stands on a core (R342). -/
theorem foldl_preemptJob_takes {l : List Nat} {s : State} {m : Nat} {j : Job} (hm : m ∈ l) (hj : s.job m = some j)
    (hc : j.cores ≠ []) : ∃ i, (l.foldl preemptJob s).job m = some i ∧ TakenFrom j i := by
  induction l generalizing s with
  | nil => cases hm
  | cons n l ih =>
    obtain ⟨i, hi, rfl | ht⟩ := preemptJob_left s n hj
    · by_cases e : m = n
      · obtain ⟨k, hk, ht⟩ := preemptJob_takes hj hc
        exact foldl_preemptJob_taken l (e ▸ hk) ht
      · exact ih ((List.mem_cons.1 hm).resolve_left e) hi
    · exact foldl_preemptJob_taken l hi ht

/-- The preemption of a free job touches its job alone, which stays free. -/
theorem preemptJob_free {s : State} {n q seqNo : Nat} {index : W32} {j : Job} (hj : s.job n = some j)
    (hk : j.kind = .free q index seqNo) : (∀ m, m ≠ n → (preemptJob s n).job m = s.job m) ∧
      ∃ k, (preemptJob s n).job n = some k ∧ k.kind = j.kind := by
  cases hw : s.remoteWait j
  · rw [preemptJob_of_runs hj hw, killJob_free _ _ _ hj hk]
    by_cases h : j.killable = true
    · rw [killOne_of_killable _ _ _ _ hj h]
      exact ⟨fun m hm => (stopCores_job _ _ _).trans (State.setJob_job_ne _ _ _ _ hm),
        _, (stopCores_job _ _ _).trans (State.setJob_job _ _ _), rfl⟩
    · rw [killOne_of_not_killable]
      · exact ⟨fun _ _ => rfl, j, hj, rfl⟩
      · intro i hi
        rw [← Option.some.inj (hj.symm.trans hi)]
        simpa using h
  · rw [preemptJob_of_waits hj hw]
    split
    · exact ⟨fun _ _ => rfl, j, hj, rfl⟩
    · exact ⟨fun m hm => State.setJob_job_ne _ _ _ _ hm, _, State.setJob_job _ _ _, rfl⟩

/-- The preemption of free jobs leaves every other job as it is. -/
theorem foldl_preemptJob_others (l : List Nat) {s : State} (h : ∀ n ∈ l, ∃ j q i k, s.job n = some j ∧ j.kind = .free q i k)
    {m : Nat} (hm : m ∉ l) : (l.foldl preemptJob s).job m = s.job m := by
  induction l generalizing s with
  | nil => rfl
  | cons n l ih =>
    obtain ⟨j, q, i, k, hj, hk⟩ := h n List.mem_cons_self
    obtain ⟨hne, x, hx, hxk⟩ := preemptJob_free hj hk
    refine (ih (fun a ha => ?_) fun hc => hm (List.mem_cons_of_mem _ hc)).trans (hne m fun e => hm (e ▸ List.mem_cons_self))
    by_cases e : a = n
    · exact ⟨x, q, i, k, e ▸ hx, hxk.trans hk⟩
    · obtain ⟨y, b, c, d, hy, hyk⟩ := h a (List.mem_cons_of_mem _ ha)
      exact ⟨y, b, c, d, (hne a e).trans hy, hyk⟩

/-- The block with the status of a manager preemption of these jobs begun (R342). -/
def preemptNoted (s : State) (l : List Nat) : State :=
  { s with rg := { s.rg with preJobs := l, preBusy := !l.isEmpty, preKilled := 0#16 } }

/-- The jobs that a manager preemption takes. -/
def State.preemptList (s : State) (names : Job → Bool) : List Nat :=
  (s.jobs.filter fun j => names j.2 && s.preemptible j.1 j.2).map Prod.fst

theorem preemptAll_eq (s : State) (names : Job → Bool) :
    preemptAll s names = (s.preemptList names).foldl preemptJob (preemptNoted s (s.preemptList names)) := rfl

theorem preemptAll_rg (s : State) (names : Job → Bool) : (preemptAll s names).rg =
    { s.rg with preJobs := s.preemptList names, preBusy := !(s.preemptList names).isEmpty, preKilled := 0#16 } := by
  have h : Only killGraphParts (preemptNoted s (s.preemptList names)) (preemptAll s names) :=
    .foldl (fun t _ => preemptJob_only t _) (.refl _ _)
  exact h .rg (by decide)

/-- A lone target is killed at once, unless it is in a remote wait (R346). -/
theorem preemptAll_lone {s : State} {names : Job → Bool} {n : Nat} {j : Job} (hl : s.preemptList names = [n])
    (hj : s.job n = some j) (hk : j.kill = none) (hc : j.cores ≠ []) :
    (s.remoteWait j = false → (preemptAll s names).job n = some (s.killedJob j .preempt Config.NONE 0#64 false)) ∧
    (s.remoteWait j = true → j.deferred = false →
      (preemptAll s names).job n = some { j with deferred := true, deferStart := s.esc.time }) := by
  rw [preemptAll_eq, hl]
  have hj' : (preemptNoted s [n]).job n = some j := hj
  refine ⟨fun h => ?_, fun h hd => ?_⟩
  · change (preemptJob (preemptNoted s [n]) n).job n = _
    rw [preemptJob_of_runs hj' h]
    exact killJob_job _ _ _ hj' ((Job.killable_iff j).2 ⟨hk, hc⟩)
  · change (preemptJob (preemptNoted s [n]) n).job n = _
    rw [preemptJob_of_waits hj' h, hd]
    exact State.setJob_job _ _ _

/-- What a manager preemption of the jobs of a kind does (R342). -/
def Preempts (s t : State) (l : List Nat) : Prop :=
  t.rg.preJobs = l ∧ t.rg.preBusy = !l.isEmpty ∧ t.rg.preKilled = 0#16 ∧
    ((∀ n ∈ l, ∃ j q i k, s.job n = some j ∧ j.kind = .free q i k) → ∀ n, n ∉ l → t.job n = s.job n) ∧
    (∀ n j, n ∈ l → s.job n = some j → j.cores ≠ [] → ∃ k, t.job n = some k ∧ k.cores = j.cores ∧
      (k.kill = j.kill ∧ k.deferred = true ∨ k.kill ≠ none)) ∧
    (∀ n j, l = [n] → s.job n = some j → j.kill = none → j.cores ≠ [] → (∃ q i k, j.kind = .free q i k) →
      (s.remoteWait j = false → t.job n = some { j with kill := some .preempt, killCode := Config.NONE, detail := 0#64,
                                                        coKilled := false, killing := j.cores, deferred := false,
                                                        arrivals := j.arrivals.filter fun a => (s.flight a.1).round == a.2 }) ∧
      (s.remoteWait j = true → j.deferred = false → t.job n = some { j with deferred := true, deferStart := s.esc.time })) ∧
    Only [.run, .rg, .jobs, .cores, .chime, .obs, .freeCount] s t

theorem preemptAll_preempts (s : State) (names : Job → Bool) : Preempts s (preemptAll s names) (s.preemptList names) := by
  have hrg := preemptAll_rg s names
  refine ⟨congrArg Rg.preJobs hrg, congrArg Rg.preBusy hrg, congrArg Rg.preKilled hrg, fun h n hn => ?_, fun n j hn hj hc => ?_,
    fun n j hl hj hk hc _ => preemptAll_lone hl hj hk hc, preemptAll_only s names⟩
  · rw [preemptAll_eq]
    exact foldl_preemptJob_others _ (s := preemptNoted s _) h hn
  · rw [preemptAll_eq]
    exact foldl_preemptJob_takes (s := preemptNoted s _) hn hj hc

theorem preemptAll_none {s : State} {names : Job → Bool} (h : s.preemptList names = []) : preemptAll s names = preemptNoted s [] := by
  rw [preemptAll_eq, h]
  rfl

/-! ## The limit of a remote wait (R325, R346) -/

/-- The job of a deferred kill that ran out is killed, and the flights that it waits on break (R346). -/
theorem remoteExpired_spec {s : State} {n : Nat} {j : Job} (hj : s.job n = some j) (hk : j.kill = none) (hc : j.cores ≠ []) 
    (hfree : ∃ q i k, j.kind = .free q i k) :
    (remoteExpired s n j).job n = some (s.killedJob j .remoteLimit Config.REMOTE_LIMIT 0#64 false) ∧
    (∀ c ∈ j.cores, ((remoteExpired s n j).core c).st = .killing) ∧ (remoteExpired s n j).rg.preLimitHit = true ∧
    (∀ f ∈ s.remoteFlights j, (s.flight f).state = .isOpen →
      ((remoteExpired s n j).flight f).state = .broken ∧ ((remoteExpired s n j).flight f).cause = 0#3) := by
  obtain ⟨q, i, k, hfree⟩ := hfree
  have hkill : (killJob s n .remoteLimit Config.REMOTE_LIMIT 0#64).job n =
      some (s.killedJob j .remoteLimit Config.REMOTE_LIMIT 0#64 false) := killJob_job _ _ _ hj ((Job.killable_iff j).2 ⟨hk, hc⟩)
  have hstop (c : Nat) (hm : c ∈ j.cores) := killJob_stoppedOn .remoteLimit Config.REMOTE_LIMIT 0#64 hj hk hm
  have hfl : (killJob s n .remoteLimit Config.REMOTE_LIMIT 0#64).flights = s.flights :=
    killJob_only s n .remoteLimit Config.REMOTE_LIMIT 0#64 .flights (by decide)
  unfold remoteExpired
  dsimp only
  generalize killJob s n .remoteLimit Config.REMOTE_LIMIT 0#64 = u at hkill hstop hfl
  have hb (f : Nat) (hf : f ∈ s.remoteFlights j) (ho : (s.flight f).state = .isOpen) :=
    foldl_flightBreak_broken 0 Config.FLIGHT_BROKEN none hf (s := u) (f := f) (by unfold State.flight; rw [hfl]; exact ho)
  have hbk : Kills u ((s.remoteFlights j).foldl (fun s f => flightBreak s f 0 Config.FLIGHT_BROKEN none) u) :=
    .foldl _ (fun s f => flightBreak_kills s f 0 Config.FLIGHT_BROKEN none) _ u
  generalize (s.remoteFlights j).foldl (fun s f => flightBreak s f 0 Config.FLIGHT_BROKEN none) u = v at hb hbk
  generalize BitVec.ofNat 32 (j.queueOf.getD 0) = data
  have hck : Kills v (chPulse v 107 Config.REMOTE_LIMIT data) := .of_kept (fun m => chPulse_job _ _ _ _ _)
    fun c => congrArg Core.st (chPulse_core _ _ _ _ _)
  have hcf : (chPulse v 107 Config.REMOTE_LIMIT data).flights = v.flights := chPulse_only v 107 Config.REMOTE_LIMIT data .flights (by decide)
  generalize chPulse v 107 Config.REMOTE_LIMIT data = w at hck hcf
  have hlk : Kills w { w with rg := { w.rg with preLimitHit := true } } := .of_kept (fun _ => rfl) fun _ => rfl
  have hlf : ({ w with rg := { w.rg with preLimitHit := true } } : State).flights = w.flights := rfl
  have hlr : ({ w with rg := { w.rg with preLimitHit := true } } : State).rg.preLimitHit = true := rfl
  generalize ({ w with rg := { w.rg with preLimitHit := true } } : State) = x at hlk hlf hlr
  have hpump := pumpAll_only (killWaiters x)
  have hwait := killWaiters_only x
  have hall : Kills u (pumpAll (killWaiters x)) := hbk.trans (hck.trans (hlk.trans ((killWaiters_kills x).trans (.of_kept
    (fun m => congrArg (tfind · m) (hpump .jobs (by decide))) fun c => congrArg (fun l => (tget Core.reset l c).st) (hpump .cores (by decide))))))
  refine ⟨hall.job_of_killed hkill rfl, fun c hm => (hall.stoppedOn (hstop c hm)).1, ?_, fun f hf ho => ?_⟩
  · have hr : (pumpAll (killWaiters x)).rg = x.rg := (hpump .rg (by decide)).trans (hwait .rg (by decide))
    rw [hr, hlr]
  · have hr : (pumpAll (killWaiters x)).flights = v.flights :=
      (hpump .flights (by decide)).trans ((hwait .flights (by decide)).trans (hlf.trans hcf))
    have := hb f hf ho
    unfold State.flight at this ⊢
    rw [hr]
    exact this

theorem exec_remoteLimit {s : State} {core : BitVec 4} {n : Nat} {j : Job} (hc : (s.core core.toNat).job = some n)
    (hj : s.job n = some j) : exec (.remoteLimit core) s =
      .next (if j.deferred && j.kill.isNone && s.portAlive && !s.obs.halted then remoteExpired s n j else s) := by
  change execRemoteLimit core s = _
  unfold execRemoteLimit
  rw [hc]
  dsimp only
  rw [hj]

/-! ## Automatic preemption (R342) -/

theorem exec_preemptWaitExpiry {s : State} (part : BitVec 3) (t : W32) {r : Running} {k : Nat} {w : Window} (hr : s.run = some r)
    (ho : tfind r.openWin part.toNat = some k) (hw : r.img.window part.toNat k = some w) : exec (.preemptWaitExpiry part t) s =
      .next (if s.dispatches && (s.rgPart part.toNat).preemptWaitUs != 0#20 && !s.autoBusy part.toNat then
        autoPreempt s r part.toNat w t.toNat else s) := by
  change execPreemptWaitExpiry part t s = _
  unfold execPreemptWaitExpiry
  rw [hr]
  dsimp only
  rw [ho]
  dsimp only
  rw [hw]

theorem victim_mem {s : State} {l : List (Nat × Job)} {x : Nat × Job} (h : s.victim l = some x) : x ∈ l := by
  induction l generalizing x with
  | nil => cases h
  | cons y l ih =>
    unfold State.victim at h
    split at h
    · exact Option.some.inj h ▸ List.mem_cons_self
    · next z hz =>
      split at h
      · exact Option.some.inj h ▸ List.mem_cons_of_mem _ (ih hz)
      · exact Option.some.inj h ▸ List.mem_cons_self

/-- A victim is a free job that runs, waits on no remote flight and has arrived at none (R342). -/
theorem isVictim_spec {s : State} {r : Running} {p w n : Nat} {x : Nat × Cmd} {j : Job} (h : s.isVictim r p w x n j = true) :
    j.kill = none ∧ s.remoteWait j = false ∧ s.hasArrived j = false ∧ ∃ q i k, j.kind = .free q i k := by
  simp only [State.isVictim, State.preemptible, Bool.and_eq_true, Bool.not_eq_true', Option.isNone_iff_eq_none] at h
  obtain ⟨⟨⟨⟨⟨⟨-, ⟨⟨⟨hk, hkind⟩, -⟩, -⟩⟩, hwait⟩, harr⟩, -⟩, -⟩, -⟩ := h
  refine ⟨hk, hwait, harr, ?_⟩
  cases e : j.kind with
  | station n => rw [e] at hkind; cases hkind
  | free q i k => exact ⟨q, i, k, rfl⟩

/-- The automatic preemption of a job, and the cores it keeps for the LAUNCH (R342). -/
theorem autoPreempted_spec {s : State} {p n : Nat} {j : Job} (f : RgPart → RgPart) (hj : s.job n = some j) (hk : j.kill = none)
    (hc : j.cores ≠ []) (hw : s.remoteWait j = false) (ha : s.hasArrived j = false) :
    (preemptJob (s.modRgPart p f) n).job n = some { j with
      kill := some .preempt, killCode := Config.NONE, detail := 0#64, coKilled := false, killing := j.cores,
      deferred := false, arrivals := [] } ∧ (preemptJob (s.modRgPart p f) n).rgPart p = f (s.rgPart p) := by
  have hj' : (s.modRgPart p f).job n = some j := hj
  have hw' : (s.modRgPart p f).remoteWait j = false := hw
  have harr : (j.arrivals.filter fun a => (s.flight a.1).round == a.2) = [] := by
    rw [List.filter_eq_nil_iff]
    unfold State.hasArrived at ha
    simpa using ha
  rw [preemptJob_of_runs hj' hw']
  refine ⟨(killJob_job _ _ _ hj' ((Job.killable_iff j).2 ⟨hk, hc⟩)).trans ?_, ?_⟩
  · unfold State.killedJob
    exact congrArg (fun l => some { j with
      kill := some .preempt, killCode := Config.NONE, detail := 0#64, coKilled := false, killing := j.cores,
      deferred := false, arrivals := l }) harr
  · refine (congrArg (tget RgPart.reset · p) (killJob_only _ _ _ _ _ .rgParts (by decide))).trans ?_
    rw [State.modRgPart_eq]
    exact State.setRgPart_rgPart _ _ _

/-- Settles O46: a manager preemption kills or defers each job of its list and no other; an automatic one kills its victim; a
deferred kill that runs out kills its job and breaks its flights. -/
theorem preemptionKillsItsTarget : Obligations.PreemptionKillsItsTarget := by
  refine ⟨fun s who target part hmay => ?_, fun s part t => ?_, fun s core h => ?_, fun s core n j hrun hcore hj hd hk hc hfree => ?_⟩
  · intro does
    have hdoes (x : Instr) (names : Job → Bool) (e : exec x s = .next (preemptAll s names)) : does x names :=
      ⟨fun h => e.trans (congrArg Host.Outcome.next (preemptAll_none h)), _, e, preemptAll_preempts s names⟩
    clear_value does
    refine ⟨hdoes _ _ ?_, hdoes _ _ ?_, hdoes _ _ ?_, hdoes _ _ ?_⟩
    all_goals refine (congrArg Host.Outcome.next (hostWrite_may hmay RG_PREEMPT true _ (by decide) rfl)).trans (congrArg (fun f => Host.Outcome.next (preemptAll s f)) (funext fun j => ?_))
    · unfold Job.queueOf
      cases j.kind with
      | station _ => rfl
      | free q i k => exact beq_eq_decide q _
    · unfold Job.queueOf
      cases j.kind with
      | station _ => rfl
      | free q i k => exact beq_eq_decide (s.queue q).ctx _
    · unfold State.jobInst
      cases j.kind with
      | station _ => rfl
      | free q i k => exact beq_eq_decide (s.ctx (s.queue q).ctx).inst _
    · exact congrArg (· && _) (beq_eq_decide _ _)
  · intro p x
    refine ⟨fun h => ?_, fun r k w hr hopen hw hdis hus hbusy => ?_⟩
    · change execPreemptWaitExpiry part t s = _
      unfold execPreemptWaitExpiry
      split
      · rfl
      · next r hr =>
        dsimp only
        split
        · rfl
        · split
          · rfl
          · refine congrArg Host.Outcome.next (if_neg ?_)
            have hp : s.dispatches = false ∨ (s.rgPart part.toNat).preemptWaitUs = 0#20 ∨ s.autoBusy part.toNat = true :=
              h.resolve_left fun hn => nomatch hn.symm.trans hr
            rcases hp with h | h | h <;> simp [h]
    · have e : exec x s = .next (autoPreempt s r p w t.toNat) :=
        (exec_preemptWaitExpiry part t hr hopen hw).trans (congrArg Host.Outcome.next (if_pos (by
          simp only [hdis, Bool.true_and, Bool.and_eq_true, bne_iff_ne, Bool.not_eq_true']
          exact ⟨hus, hbusy⟩)))
      unfold autoPreempt at e
      refine ⟨fun ho => ?_, fun o more ho => ?_⟩
      · rw [ho] at e
        exact e
      · intro able fit
        rw [ho] at e
        refine ⟨fun h => e.trans (congrArg Host.Outcome.next ?_), fun n j hfit hv hj hc => ?_⟩
        · rcases h with h | h
          · exact if_neg (by rw [show fits s r.img w (t.toNat + 1504) o.2.launchNeeds.2 = fit from rfl, h]; exact Bool.false_ne_true)
          · have hv : s.victim (s.jobs.filter fun j => s.isVictim r p w.index o j.1 j.2) = none :=
              (congrArg s.victim (show _ = able from rfl)).trans (h ▸ rfl)
            dsimp only
            split
            · rw [hv]
            · rfl
        · obtain ⟨hk, hwait, harr, hfree⟩ := isVictim_spec (List.mem_filter.1 (victim_mem hv)).2
          have e' := e.trans (congrArg Host.Outcome.next (if_pos hfit))
          rw [show s.victim (s.jobs.filter fun j => s.isVictim r p w.index o j.1 j.2) = some (n, j) from hv] at e'
          obtain ⟨h1, h2⟩ := autoPreempted_spec (p := p)
            (fun y => { y with autoFor := some o.2.seqNo, autoVictim := some n, autoCores := j.cores }) hj hk hc hwait harr
          exact ⟨_, e', hfree, h1, (congrArg RgPart.autoFor h2), (congrArg RgPart.autoVictim h2), (congrArg RgPart.autoCores h2),
            Only.wider (exec_only x s _ e') rfl⟩
  · change execRemoteLimit core s = _
    unfold execRemoteLimit
    split
    · rfl
    · next n hn =>
      split
      · rfl
      · next j hj =>
        refine congrArg Host.Outcome.next (if_neg fun hc => ?_)
        simp only [Bool.and_eq_true, Option.isNone_iff_eq_none, Bool.not_eq_true'] at hc
        obtain ⟨⟨⟨hd, hk⟩, hal⟩, hh⟩ := hc
        rcases h n j hn hj with h | h | h
        · rw [h] at hd
          cases hd
        · exact h hk
        · exact h ⟨hal, hh⟩
  · have e := (exec_remoteLimit hcore hj).trans (congrArg Host.Outcome.next (if_pos (by
      simp only [hd, hk, hrun.1, hrun.2, Option.isNone_none, Bool.not_false, Bool.and_self])))
    obtain ⟨h1, h2, h3, h4⟩ := remoteExpired_spec hj hk hc hfree
    exact ⟨_, e, ⟨_, h1, rfl, rfl, rfl⟩, h2, h3, h4, Only.wider (exec_only (.remoteLimit core) s _ e) rfl⟩

end Sys2Proof.Machine
end

section
/-! SUPPORT. O45: the manager's queue commands, scratch shares and weights (R106, R328 to R331, R336). -/

namespace Sys2Proof.Machine

/-! ## Queue commands (R328) -/

/-- The Regulator's account of an empty queue keeps its virtual time (R338). -/
theorem regEval_vt {s : State} {m : Nat} (h : (s.queue m).cmds = []) : ((regEval s).queue m).vt = (s.queue m).vt := by
  unfold regEval
  generalize s.queues.map (fun q => q.1) = l
  induction l generalizing s with
  | nil => rfl
  | cons n l ih =>
    rw [List.foldl_cons, ih ((regQueue_view (fun q => q.cmds) (fun _ _ _ => rfl) s n m).trans h)]
    by_cases e : m = n
    · subst e
      have hb : s.isBacklogged (s.queue m) = false := by
        unfold State.isBacklogged
        rw [h]
        rfl
      unfold regQueue
      simp only [hb, Bool.and_false, Bool.false_and, Bool.false_eq_true, if_false, Bool.not_false, Bool.true_and]
      split
      · have ho := (gvUpdate_only (s.setQueue m { s.queue m with backlogged := false }) (s.queue m).part) .queues (by decide)
        have hv : ((s.setQueue m { s.queue m with backlogged := false }).queue m).vt = (s.queue m).vt := by
          rw [State.setQueue_queue]
        exact (congrArg (fun q => (tget Queue.reset q m).vt) ho).trans hv
      · rfl
    · unfold regQueue
      dsimp only
      split
      · rw [State.setQueue_queue_ne _ _ _ _ e]
      · split
        · have ho := (gvUpdate_only (s.setQueue n { s.queue n with backlogged := false }) (s.queue n).part) .queues (by decide)
          refine (congrArg (fun q => (tget Queue.reset q m).vt) ho).trans ?_
          exact congrArg Queue.vt (State.setQueue_queue_ne _ _ _ _ e)
        · rfl

/-- The result of a command of a queue (R328). -/
def State.queueCoded (s : State) (queue : BitVec 13) (code : BitVec 16) : State :=
  { s with rg := { s.rg with resQueue := queue, resCode := code } }

theorem queueResult_eq (s : State) (queue : BitVec 13) (code : BitVec 16) :
    queueResult s queue.toNat code = s.queueCoded queue code := by
  unfold queueResult State.queueCoded
  rw [BitVec.ofNat_toNat, BitVec.setWidth_eq]

theorem queueStop_spec (s : State) (queue : BitVec 13) :
    ((s.queue queue.toNat).state.fetching = true → queueStop s queue.toNat = (s.setQueue queue.toNat
      { s.queue queue.toNat with state := .stopped, stoppedByDisable := false }).queueCoded queue Config.NONE) ∧
    ((s.queue queue.toNat).state.fetching = false → queueStop s queue.toNat = s.queueCoded queue Config.HANDLE_RIGHTS) := by
  unfold queueStop
  refine ⟨fun h => ?_, fun h => ?_⟩
  · rw [if_pos h, queueResult_eq, State.modQueue_eq]
    unfold Queue.stop
    rw [if_pos h]
  · rw [if_neg (by simp [h]), queueResult_eq]

theorem queueRestart_spec (s : State) (queue : BitVec 13) :
    ((s.queue queue.toNat).state ≠ .stopped → queueRestart s queue.toNat = s.queueCoded queue Config.HANDLE_RIGHTS) ∧
    ((s.queue queue.toNat).state = .stopped →
      (s.granted (s.queue queue.toNat).part (s.ctx (s.queue queue.toNat).ctx).inst = false →
        queueRestart s queue.toNat = s.queueCoded queue Config.ACCESS_DENIED) ∧
      (s.granted (s.queue queue.toNat).part (s.ctx (s.queue queue.toNat).ctx).inst = true →
        queueRestart s queue.toNat = (s.setQueue queue.toNat { s.queue queue.toNat with
          state := (s.queue queue.toNat).restState, stoppedByDisable := false }).queueCoded queue Config.NONE)) := by
  unfold queueRestart
  dsimp only
  refine ⟨fun h => ?_, fun h => ⟨fun hg => ?_, fun hg => ?_⟩⟩
  · rw [if_pos h, queueResult_eq]
  · rw [if_neg (not_not.2 h), if_neg (by simp [hg]), queueResult_eq]
  · rw [if_neg (not_not.2 h), if_pos hg, queueResult_eq]

theorem queueRebind_spec (s : State) (queue : BitVec 13) (part : BitVec 3) :
    (s.rg.rebind.isSome = true → queueRebind s queue.toNat part = s.queueCoded queue Config.PACKET_MALFORMED) ∧
    (s.rg.rebind = none →
      (((s.queue queue.toNat).state = .free ∨ (s.queue queue.toNat).state = .error) →
        queueRebind s queue.toNat part = s.queueCoded queue Config.HANDLE_RIGHTS) ∧
      ((s.queue queue.toNat).state ≠ .free → (s.queue queue.toNat).state ≠ .error →
        (s.granted part.toNat (s.ctx (s.queue queue.toNat).ctx).inst = false →
          queueRebind s queue.toNat part = s.queueCoded queue Config.ACCESS_DENIED) ∧
        (s.granted part.toNat (s.ctx (s.queue queue.toNat).ctx).inst = true → queueRebind s queue.toNat part =
          { s.setQueue queue.toNat ((s.queue queue.toNat).stop false) with
            rg := { s.rg with rebind := some (queue, part) } }))) := by
  unfold queueRebind
  dsimp only
  refine ⟨fun h => ?_, fun h => ⟨fun hs => ?_, fun hf he => ⟨fun hg => ?_, fun hg => ?_⟩⟩⟩
  · rw [if_pos h, queueResult_eq]
  · rw [if_neg (by simp [h]), if_pos hs, queueResult_eq]
  · rw [if_neg (by simp [h]), if_neg (not_or.2 ⟨hf, he⟩), if_neg (by simp [hg]), queueResult_eq]
  · rw [if_neg (by simp [h]), if_neg (not_or.2 ⟨hf, he⟩), if_pos hg, BitVec.ofNat_toNat, BitVec.setWidth_eq]

/-! ## A REBIND that completes (R328) -/

/-- A queue bound to a partition, the REBIND over (R328). -/
def State.rebound (s : State) (queue : BitVec 13) (part : BitVec 3) : State :=
  ({ s with rg := { s.rg with rebind := none } }).setQueue queue.toNat
    { s.queue queue.toNat with part := part.toNat, vt := (s.rgPart part.toNat).gv }

theorem rebindSettle_waits {s : State} {queue : BitVec 13} {part : BitVec 3} (h : s.rg.rebind = some (queue, part))
    (hq : (s.queue queue.toNat).cmds ≠ [] ∨ (s.queue queue.toNat).indirect ≠ none) : rebindSettle s = s := by
  unfold rebindSettle
  rw [h]
  refine if_neg fun hc => ?_
  simp only [Bool.and_eq_true, List.isEmpty_iff, Option.isNone_iff_eq_none] at hc
  exact hq.elim (fun h => h hc.1) fun h => h hc.2

theorem rebindSettle_done {s : State} {queue : BitVec 13} {part : BitVec 3} (h : s.rg.rebind = some (queue, part))
    (hq : (s.queue queue.toNat).cmds = []) (hi : (s.queue queue.toNat).indirect = none) :
    rebindSettle s = regEval (queueRestart (s.rebound queue part) queue.toNat) := by
  unfold rebindSettle
  rw [h]
  refine (if_pos ?_).trans rfl
  simp [hq, hi]

/-- The queue of a REBIND that completes has its new partition, that partition's virtual time, and the state of a RESTART
(R328). -/
theorem rebound_spec {s : State} {queue : BitVec 13} {part : BitVec 3} (hq : (s.queue queue.toNat).cmds = [])
    (hi : (s.queue queue.toNat).indirect = none) (hs : (s.queue queue.toNat).state = .stopped) :
    let t := regEval (queueRestart (s.rebound queue part) queue.toNat)
    let u := t.queue queue.toNat
    t.rg.rebind = none ∧ t.rg.resQueue = queue ∧ u.part = part.toNat ∧ u.vt = (s.rgPart part.toNat).gv ∧
      u.head = (s.queue queue.toNat).head ∧
      (s.granted part.toNat (s.ctx (s.queue queue.toNat).ctx).inst = true → t.rg.resCode = Config.NONE ∧
        u.state = if (s.queue queue.toNat).head = (s.queue queue.toNat).tail then .idle else .ready) ∧
      (s.granted part.toNat (s.ctx (s.queue queue.toNat).ctx).inst = false → t.rg.resCode = Config.ACCESS_DENIED ∧ u.state = .stopped) := by
  intro t u
  have hw : (s.rebound queue part).queue queue.toNat =
      { s.queue queue.toNat with part := part.toNat, vt := (s.rgPart part.toNat).gv } := State.setQueue_queue _ _ _
  have hrg (v : State) : (regEval v).rg = v.rg := (regEval_only v) .rg (by decide)
  have hview (v : State) (hc : (v.queue queue.toNat).cmds = []) : ((regEval v).queue queue.toNat).part = (v.queue queue.toNat).part ∧
      ((regEval v).queue queue.toNat).vt = (v.queue queue.toNat).vt ∧ ((regEval v).queue queue.toNat).head = (v.queue queue.toNat).head ∧
      ((regEval v).queue queue.toNat).state = (v.queue queue.toNat).state :=
    ⟨regEval_view (fun q => q.part) (fun _ _ _ => rfl) v _, regEval_vt hc, regEval_view (fun q => q.head) (fun _ _ _ => rfl) v _,
      regEval_view (fun q => q.state) (fun _ _ _ => rfl) v _⟩
  obtain ⟨-, h2⟩ := queueRestart_spec (s.rebound queue part) queue
  obtain ⟨hno, hyes⟩ := h2 (by rw [hw]; exact hs)
  rw [hw] at hno hyes
  change ((s.granted part.toNat (s.ctx (s.queue queue.toNat).ctx).inst = false) → _) at hno
  change ((s.granted part.toNat (s.ctx (s.queue queue.toNat).ctx).inst = true) → _) at hyes
  cases hg : s.granted part.toNat (s.ctx (s.queue queue.toNat).ctx).inst
  · have e := hno hg
    have hqu : (queueRestart (s.rebound queue part) queue.toNat).queue queue.toNat = (s.rebound queue part).queue queue.toNat := by rw [e]; rfl
    obtain ⟨a, b, c, d⟩ := hview (queueRestart (s.rebound queue part) queue.toNat) (by rw [hqu, hw]; exact hq)
    rw [hqu, hw] at a b c d
    have hr := hrg (queueRestart (s.rebound queue part) queue.toNat)
    refine ⟨?_, ?_, a, b, c, (fun h => nomatch h), fun _ => ⟨?_, d.trans hs⟩⟩
    · exact (congrArg Rg.rebind hr).trans (by rw [e]; rfl)
    · exact (congrArg Rg.resQueue hr).trans (by rw [e]; rfl)
    · exact (congrArg Rg.resCode hr).trans (by rw [e]; rfl)
  · have e := hyes hg
    have hqu : (queueRestart (s.rebound queue part) queue.toNat).queue queue.toNat = { s.queue queue.toNat with
        part := part.toNat, vt := (s.rgPart part.toNat).gv, state := (s.queue queue.toNat).restState, stoppedByDisable := false } := by
      rw [e]
      exact State.setQueue_queue _ _ _
    obtain ⟨a, b, c, d⟩ := hview (queueRestart (s.rebound queue part) queue.toNat) (by rw [hqu]; exact hq)
    rw [hqu] at a b c d
    have hr := hrg (queueRestart (s.rebound queue part) queue.toNat)
    refine ⟨?_, ?_, a, b, c, fun _ => ⟨?_, d.trans ?_⟩, fun h => nomatch h⟩
    · exact (congrArg Rg.rebind hr).trans (by rw [e]; rfl)
    · exact (congrArg Rg.resQueue hr).trans (by rw [e]; rfl)
    · exact (congrArg Rg.resCode hr).trans (by rw [e]; rfl)
    · unfold Queue.restState
      simp [hi]

/-! ## Weights (R336) -/

theorem weightOf_eq (data : W32) :
    weightOf (data.setWidth 64 : W64).toNat = if data.setWidth 8 = 0#8 then 1#8 else data.setWidth 8 := by
  have h : bitField (data.setWidth 64 : W64).toNat 7 0 = (data.setWidth 8).toNat := by
    rw [BitVec.toNat_setWidth, BitVec.toNat_setWidth]
    change data.toNat % 2 ^ 64 % 2 ^ 8 = _
    omega
  unfold weightOf
  rw [h]
  apply BitVec.eq_of_toNat_eq
  have hlt := (data.setWidth 8).isLt
  split
  · next e => rw [e]; rfl
  · next e =>
    have hne : (data.setWidth 8).toNat ≠ 0 := fun h => e (BitVec.eq_of_toNat_eq h)
    rw [BitVec.toNat_ofNat, Nat.max_eq_right (by omega), Nat.mod_eq_of_lt hlt]

/-! ## Where a share fits (R330) -/

theorem insertNat_sorted {k : Nat} {l : List Nat} (h : l.Pairwise (· < ·)) : (insertNat k l).Pairwise (· < ·) := by
  induction l with
  | nil => simp [insertNat]
  | cons y l ih =>
    obtain ⟨hy, hl⟩ := List.pairwise_cons.1 h
    unfold insertNat
    split
    · next hk =>
      refine List.pairwise_cons.2 ⟨fun x hx => ?_, h⟩
      rcases List.mem_cons.1 hx with rfl | hx
      · exact hk
      · exact Nat.lt_trans hk (hy x hx)
    · split
      · exact h
      · next h1 h2 =>
        refine List.pairwise_cons.2 ⟨fun x hx => ?_, ih hl⟩
        rcases mem_insertNat.1 hx with rfl | hx
        · omega
        · exact hy x hx

theorem sortNat_spec (l : List Nat) : (∀ x, x ∈ sortNat l ↔ x ∈ l) ∧ (sortNat l).Pairwise (· < ·) := by
  have h (l a : List Nat) (ha : a.Pairwise (· < ·)) : (∀ x, x ∈ l.foldl (fun a k => insertNat k a) a ↔ x ∈ l ∨ x ∈ a) ∧
      (l.foldl (fun a k => insertNat k a) a).Pairwise (· < ·) := by
    induction l generalizing a with
    | nil => exact ⟨fun x => by simp, ha⟩
    | cons k l ih =>
      obtain ⟨h1, h2⟩ := ih (insertNat k a) (insertNat_sorted ha)
      refine ⟨fun x => ?_, h2⟩
      rw [List.foldl_cons, h1, mem_insertNat, List.mem_cons]
      tauto
  obtain ⟨h1, h2⟩ := h l [] .nil
  exact ⟨fun x => (h1 x).trans (by simp), h2⟩

/-- A range of a size fits below a limit and beside the ranges that are taken. -/
def FitsAt (taken : List (Nat × Nat)) (size limit o : Nat) : Prop :=
  o + size ≤ limit ∧ ∀ t ∈ taken, overlaps o size t.1 t.2 = false

theorem fitsAt_iff (taken : List (Nat × Nat)) (size limit o : Nat) :
    (decide (o + size ≤ limit) && !taken.any fun t => overlaps o size t.1 t.2) = true ↔ FitsAt taken size limit o := by
  unfold FitsAt
  simp

theorem firstFit_none {taken : List (Nat × Nat)} {size limit : Nat} (h : ∀ o, ¬FitsAt taken size limit o) :
    firstFit taken size limit = none :=
  List.find?_eq_none.2 fun o _ hc => h o ((fitsAt_iff _ _ _ _).1 hc)

/-- The lowest offset that fits is 0 or the end of a range that is taken. -/
theorem least_fit_candidate {taken : List (Nat × Nat)} {size limit o : Nat} (h : FitsAt taken size limit o)
    (hl : ∀ a, a < o → ¬FitsAt taken size limit a) : o ∈ 0 :: taken.map fun t => t.1 + t.2 := by
  by_cases ho : o = 0
  · exact ho ▸ List.mem_cons_self
  · obtain ⟨hlim, hfree⟩ := h
    have hn := hl (o - 1) (by omega)
    unfold FitsAt at hn
    push Not at hn
    obtain ⟨t, ht, hover⟩ := hn (by omega)
    have hf := hfree t ht
    refine List.mem_cons_of_mem _ (List.mem_map.2 ⟨t, ht, ?_⟩)
    simp only [overlaps, Bool.and_eq_false_iff, decide_eq_false_iff_not, not_lt, ne_eq, not_or, not_le] at hf hover
    omega

/-- A share takes the lowest offset that fits (R330). -/
theorem firstFit_least {taken : List (Nat × Nat)} {size limit o : Nat} (h : FitsAt taken size limit o)
    (hl : ∀ a, a < o → ¬FitsAt taken size limit a) : firstFit taken size limit = some o := by
  obtain ⟨hmem, hsort⟩ := sortNat_spec (0 :: taken.map fun t => t.1 + t.2)
  refine List.find?_eq_some_iff_append.2 ⟨(fitsAt_iff _ _ _ _).2 h, ?_⟩
  obtain ⟨as, bs, e⟩ := List.append_of_mem ((hmem o).2 (least_fit_candidate h hl))
  refine ⟨as, bs, e, fun a ha => ?_⟩
  rw [e, List.pairwise_append] at hsort
  have hlt := hsort.2.2 a ha o List.mem_cons_self
  rw [Bool.not_eq_true', Bool.eq_false_iff]
  exact fun hc => hl a hlt ((fitsAt_iff _ _ _ _).1 hc)

/-! ## What a clear engine has to zero (R106) -/

/-- A clear engine has a byte still to zero. -/
def ToClear (s : State) (c b : Nat) : Prop := ∃ r ∈ (s.core c).clears, r.1 ≤ b ∧ b < r.1 + r.2

theorem clearRange_toClear (s : State) (c : Nat) {off len b : Nat} (h : off ≤ b) (h' : b < off + len) :
    ToClear (clearRange s c off len) c b := by
  unfold clearRange ToClear
  rw [if_neg (by omega), modCore_core_cases, if_pos rfl]
  exact Core.addClear_covers _ _ _ _ h h'

theorem clearRange_keeps {s : State} {c b : Nat} (h : ToClear s c b) (d off len : Nat) : ToClear (clearRange s d off len) c b := by
  obtain ⟨r, hr, hb⟩ := h
  unfold clearRange ToClear
  split
  · exact ⟨r, hr, hb⟩
  · rw [modCore_core_cases]
    split
    · next e => exact ⟨r, Core.addClear_keeps _ _ _ r (e ▸ hr), hb⟩
    · exact ⟨r, hr, hb⟩

/-- A range handed to the clear engines of several cores is to be zeroed on each. -/
theorem foldl_clearRange_toClear {cs : List Nat} {off len b : Nat} (h : off ≤ b) (h' : b < off + len) {s : State} {c : Nat}
    (hc : c ∈ cs) : ToClear (cs.foldl (fun s c => clearRange s c off len) s) c b := by
  have keeps (l : List Nat) (s : State) (hs : ToClear s c b) : ToClear (l.foldl (fun s c => clearRange s c off len) s) c b := by
    induction l generalizing s with
    | nil => exact hs
    | cons d l ih => exact ih _ (clearRange_keeps hs d off len)
  induction cs generalizing s with
  | nil => cases hc
  | cons d cs ih =>
    rcases List.mem_cons.1 hc with rfl | hc
    · exact keeps cs _ (clearRange_toClear s c h h')
    · exact ih hc

/-! ## GRANT (R330) -/

theorem shareRecord_some {s : State} {n : Nat} (hn : n < 512) (hf : tfind s.shares n = none)
    (hl : ∀ k, k < n → (tfind s.shares k).isSome = true) : s.shareRecord = some n := by
  unfold State.shareRecord
  rw [List.find?_range_eq_some]
  refine ⟨by rw [hf]; rfl, List.mem_range.2 hn, fun k hk => ?_⟩
  simpa using hl k hk

theorem shareRecord_none {s : State} (h : ∀ n, n < 512 → (tfind s.shares n).isSome = true) : s.shareRecord = none := by
  unfold State.shareRecord
  refine List.find?_eq_none.2 fun n hn => ?_
  have := h n (List.mem_range.1 hn)
  rw [Option.isSome_iff_ne_none] at this
  simpa using this

/-- RG_SHARE_CODE after a command (R330). -/
theorem shareCode_eq (s : State) (code : BitVec 16) : shareCode s code = { s with rg := { s.rg with shareCode := code } } := rfl

theorem shareOf_some_iff (s : State) (ctx p : Nat) : (s.shareOf ctx p).isSome = true ↔ ∃ x ∈ s.shares, x.2.ctx = ctx ∧ x.2.part = p := by
  unfold State.shareOf
  rw [List.find?_isSome]
  simp

theorem fitsAt_shares (s : State) (p z limit o : Nat) : FitsAt (shareRanges s.shares p) z limit o ↔
    o + z ≤ limit ∧ ∀ x ∈ s.shares, x.2.part = p → overlaps o z x.2.off x.2.size = false := by
  unfold FitsAt shareRanges
  refine and_congr_right fun _ => ⟨fun h x hx hp => h _ (List.mem_map.2 ⟨x, List.mem_filter.2 ⟨hx, by simp [hp]⟩, rfl⟩), fun h t ht => ?_⟩
  obtain ⟨x, hx, rfl⟩ := List.mem_map.1 ht
  obtain ⟨hm, hp⟩ := List.mem_filter.1 hx
  exact h x hm (beq_iff_eq.1 hp)

/-- A share that is placed is recorded, and every core of its partition clears it (R106, R330). -/
theorem placeShare_spec (s : State) (n ctx p off size : Nat) :
    let t := placeShare s n ctx p off size
    tfind t.shares n = some { ctx := ctx, part := p, off := off, size := size,
                              state := if (s.partCores p).isEmpty then .live else .clearing,
                              isSealed := (s.ctx ctx).isSealed, clearing := s.partCores p } ∧
      t.rg = { s.rg with shareCode := Config.NONE } ∧ (∀ k, k ≠ n → tfind t.shares k = tfind s.shares k) ∧
      (∀ c ∈ s.partCores p, ∀ b, off ≤ b → b < off + size → ToClear t c b) := by
  intro t
  let u : State := { s with shares := tput s.shares n {
    ctx := ctx, part := p, off := off, size := size, state := if (s.partCores p).isEmpty then .live else .clearing,
    isSealed := (s.ctx ctx).isSealed, clearing := s.partCores p } }
  have ho : Only [.cores] u ((s.partCores p).foldl (fun s c => clearRange s c off size) u) :=
    .foldl (fun v _ => clearRange_only v _ _ _) (.refl _ _)
  have hsh : t.shares = u.shares := ho .shares (by decide)
  have hrg : ((s.partCores p).foldl (fun s c => clearRange s c off size) u).rg = s.rg := ho .rg (by decide)
  refine ⟨?_, ?_, fun k hk => ?_, fun c hc b h h' => ?_⟩
  · rw [hsh]
    exact tfind_tput_self _ _ _
  · exact congrArg (fun r : Rg => { r with shareCode := Config.NONE }) hrg
  · rw [hsh]
    exact tfind_tput_ne _ _ _ _ hk
  · exact foldl_clearRange_toClear h h' (s := u) hc

/-! ## RELEASE (R331) -/

/-- Entry n of the shares, if there is one, is being released. -/
def Releasing (s : State) (n : Nat) : Prop := ∀ y, tfind s.shares n = some y → y.state = .releasing

theorem Releasing.of_shares {s t : State} {n : Nat} (h : Releasing s n) (e : t.shares = s.shares) : Releasing t n :=
  fun y hy => h y (e ▸ hy)

/-- Shares that begin to clear are being released, or are gone. -/
theorem shareSettle_releasing {s : State} {n : Nat} (h : Releasing s n) : Releasing (shareSettle s) n := by
  unfold shareSettle
  generalize s.shares = l
  induction l generalizing s with
  | nil => exact h
  | cons x l ih =>
    refine ih ?_
    dsimp only
    split
    · next hx =>
      split
      · intro y hy
        by_cases e : n = x.1
        · rw [e, show tfind (tdel s.shares x.1) x.1 = none from tfind_tdel_self _ _] at hy
          cases hy
        · exact h y ((tfind_tdel_ne _ _ _ e).symm.trans hy)
      · refine Releasing.of_shares (s := { s with shares := tput s.shares x.1 { x.2 with clearing := s.partCores x.2.part } })
          (fun y hy => ?_) ((Only.foldl (fun v _ => clearRange_only v _ _ _) (.refl setCoreParts _)) .shares (by decide))
        rcases tfind_tput_cases hy with ⟨-, rfl⟩ | hy
        · exact hx.1
        · exact h y hy
    · exact h

/-! ## SCRATCH_CLEAR_DONE (R106) -/

/-- What becomes of a share once a core has cleared it (R330, R331). -/
def Share.clearedBy (x : Share) (c : Nat) : Option Share :=
  let left := x.clearing.filter fun k => k != c
  if left.isEmpty then
    match x.state with
    | .clearing => some { x with state := .live, clearing := [] }
    | .releasing => none
    | .live => some { x with clearing := [] }
  else some { x with clearing := left }

theorem shareCleared_own {s : State} {c : Nat} {x : Nat × Share} (hc : c ∈ x.2.clearing)
    (hk : (s.core c).clearing x.2.off x.2.size = false) :
    tfind (shareCleared s c x).shares x.1 = x.2.clearedBy c := by
  unfold shareCleared Share.clearedBy
  dsimp only
  rw [if_pos (by simp [hc, hk])]
  split
  · cases x.2.state with
    | clearing => exact tfind_tput_self _ _ _
    | releasing => exact tfind_tdel_self _ _
    | live => exact tfind_tput_self _ _ _
  · exact tfind_tput_self _ _ _

theorem shareCleared_other {s : State} {c n : Nat} {x : Nat × Share} (h : n ≠ x.1) :
    tfind (shareCleared s c x).shares n = tfind s.shares n := by
  unfold shareCleared
  dsimp only
  split
  · split
    · cases x.2.state with
      | clearing => exact tfind_tput_ne _ _ _ _ h
      | releasing => exact tfind_tdel_ne _ _ _ h
      | live => exact tfind_tput_ne _ _ _ _ h
    · exact tfind_tput_ne _ _ _ _ h
  · rfl

/-- A share whose range a core has zeroed awaits the other cores alone. -/
theorem foldl_shareCleared {c n : Nat} {x : Share} (hc : c ∈ x.clearing) {l : List (Nat × Share)}
    (hl : ∀ y ∈ l, y.1 = n → y.2 = x) {s : State} (hk : (s.core c).clearing x.off x.size = false)
    (h : (∃ y ∈ l, y.1 = n) ∨ tfind s.shares n = x.clearedBy c) :
    tfind (l.foldl (fun s x => shareCleared s c x) s).shares n = x.clearedBy c := by
  induction l generalizing s with
  | nil => exact h.resolve_left fun ⟨y, hy, _⟩ => nomatch hy
  | cons y l ih =>
    have hcore : (shareCleared s c y).core c = s.core c :=
      congrArg (tget Core.reset · c) (shareCleared_only s c y .cores (by decide))
    refine ih (fun z hz => hl z (List.mem_cons_of_mem _ hz)) (hcore ▸ hk) ?_
    by_cases hy : y.1 = n
    · have hx := hl y List.mem_cons_self hy
      refine .inr ?_
      rw [← hy, ← hx]
      exact shareCleared_own (hx ▸ hc) (hx ▸ hk)
    · rcases h with ⟨z, hz, e⟩ | h
      · refine .inl ⟨z, (List.mem_cons.1 hz).resolve_left (fun h => hy (h ▸ e)), e⟩
      · exact .inr ((shareCleared_other (Ne.symm hy)).trans h)

/-- The state in which the clear engine of a core has zeroed its oldest range. -/
def zeroedRange (s : State) (c : Nat) (r : Nat × Nat) (more : List (Nat × Nat)) : State :=
  s.modCore c fun k => { k.zeroScratch r.1 r.2 with clears := more }

theorem clearDone_eq {s : State} {c : Nat} {r : Nat × Nat} {more : List (Nat × Nat)} (h : (s.core c).clears = r :: more) :
    clearDone s c = regEval (eraseSettle (s.shares.foldl (fun s x => shareCleared s c x) (zeroedRange s c r more))) := by
  unfold clearDone
  rw [h]
  rfl

theorem clearDone_core {s : State} {c : Nat} {r : Nat × Nat} {more : List (Nat × Nat)} (h : (s.core c).clears = r :: more)
    (d : Nat) : (clearDone s c).core d = (zeroedRange s c r more).core d := by
  have ho : Only [.queues, .rgParts, .sec, .shares] (zeroedRange s c r more) (clearDone s c) := by
    rw [clearDone_eq h]
    exact (regEval_only _).step (by decide) ((eraseSettle_only _).step (by decide)
      (Only.wider (.foldl (fun v x => shareCleared_only v c x) (.refl _ _)) (by decide)))
  exact congrArg (tget Core.reset · d) (ho .cores (by decide))

theorem clearDone_share {s : State} {c : Nat} {r : Nat × Nat} {more : List (Nat × Nat)} (h : (s.core c).clears = r :: more)
    {n : Nat} {x : Share} (hl : ∀ y ∈ s.shares, y.1 = n → y.2 = x) (hf : tfind s.shares n = some x) (hc : c ∈ x.clearing)
    (hm : (more.any fun r => overlaps r.1 r.2 x.off x.size) = false) : tfind (clearDone s c).shares n = x.clearedBy c := by
  rw [clearDone_eq h]
  have ho : Only [.queues, .rgParts, .sec] (s.shares.foldl (fun s x => shareCleared s c x) (zeroedRange s c r more))
      (regEval (eraseSettle (s.shares.foldl (fun s x => shareCleared s c x) (zeroedRange s c r more)))) :=
    (regEval_only _).step (by decide) ((eraseSettle_only _).step (by decide) (.refl _ _))
  rw [show (regEval _).shares = _ from ho .shares (by decide)]
  refine foldl_shareCleared hc hl ?_ (.inl ⟨_, tfind_mem_entry _ _ _ hf, rfl⟩)
  unfold zeroedRange Core.clearing
  rw [modCore_core_cases, if_pos rfl]
  exact hm

/-- A share that a core alone had to clear is LIVE, or its record free; else it awaits the others. -/
theorem clearedBy_spec (x : Share) (c : Nat) :
    ((∃ d ∈ x.clearing, d ≠ c) → ∃ y, x.clearedBy c = some y ∧ y.state = x.state ∧ c ∉ y.clearing) ∧
    ((∀ d ∈ x.clearing, d = c) → (x.state = .clearing → x.clearedBy c = some { x with state := .live, clearing := [] }) ∧
      (x.state = .releasing → x.clearedBy c = none)) := by
  unfold Share.clearedBy
  dsimp only
  refine ⟨fun ⟨d, hd, hne⟩ => ?_, fun h => ?_⟩
  · rw [if_neg]
    · exact ⟨_, rfl, rfl, by simp⟩
    · rw [List.isEmpty_iff, List.filter_eq_nil_iff]
      exact fun hc => hc d hd (by simpa using hne)
  · rw [if_pos (by simpa using h)]
    exact ⟨fun e => by rw [e], fun e => by rw [e]⟩

/-! ## The clauses -/

/-- GRANT's checks in their order (R330). -/
theorem shareGrant_spec (s : State) (z : Nat) :
    let p := s.rg.shareSelPart.toNat
    let ctx := s.rg.shareSelCtx.toNat
    let held : Prop := ∃ x ∈ s.shares, x.2.ctx = ctx ∧ x.2.part = p
    let sized : Prop := z % 4096 = 0 ∧ 4096 ≤ z
    let known : Prop := (s.ctx ctx).state = .live ∧ s.declared p = true
    (¬sized → shareGrant s z = shareCode s Config.PACKET_MALFORMED) ∧
    (sized → (¬known ∨ held) → shareGrant s z = shareCode s Config.HANDLE_RIGHTS) ∧
    (sized → known → ¬held → shareGrant s z = match firstFit (shareRanges s.shares p) z (s.freeScratch p), s.shareRecord with
      | some off, some n => placeShare s n ctx p off z
      | _, _ => shareCode s Config.SCRATCH_SHORT) := by
  intro p ctx held sized known
  have hheld : (s.shareOf ctx p).isSome = true ↔ held := shareOf_some_iff s ctx p
  unfold shareGrant
  refine ⟨fun h => if_pos ?_, fun h h' => ?_, fun h hk hh => ?_⟩
  · rcases not_and_or.1 h with h | h
    · exact .inl h
    · exact .inr (by omega)
  · refine (if_neg (by rintro (h1 | h1); exacts [h1 h.1, by omega])).trans ?_
    by_cases hk : known
    · refine (if_neg ?_).trans (if_pos (hheld.2 (h'.resolve_left (not_not.2 hk))))
      rintro (h1 | h1)
      · exact h1 hk.1
      · exact Bool.false_ne_true (h1.symm.trans hk.2)
    · refine if_pos ?_
      rcases not_and_or.1 hk with h1 | h1
      · exact .inl h1
      · exact .inr (Bool.not_eq_true _ ▸ h1)
  · refine (if_neg (by rintro (h1 | h1); exacts [h1 h.1, by omega])).trans ((if_neg ?_).trans ((if_neg (fun h1 => hh (hheld.1 h1))).trans rfl))
    rintro (h1 | h1)
    · exact h1 hk.1
    · exact Bool.false_ne_true (h1.symm.trans hk.2)

/-- RELEASE of a share: it is being released, or already gone (R331). -/
theorem shareRelease_held {s : State} {x : Nat × Share}
    (h : s.shareOf s.rg.shareSelCtx.toNat s.rg.shareSelPart.toNat = some x) : (shareRelease s).rg.shareCode = Config.NONE ∧
      (tfind s.shares x.1 = some x.2 → Releasing (shareRelease s) x.1) := by
  unfold shareRelease
  rw [h]
  dsimp only
  split
  · next hr =>
    refine ⟨rfl, fun hx y hy => ?_⟩
    rw [← Option.some.inj (hx.symm.trans hy)]
    exact hr
  · refine ⟨?_, fun _ => ?_⟩
    · exact congrArg Rg.shareCode (((regEval_only _) .rg (by decide)).trans ((shareSettle_only _) .rg (by decide)))
    · refine Releasing.of_shares (shareSettle_releasing (fun y hy => ?_)) ((regEval_only _) .shares (by decide))
      rw [← Option.some.inj ((tfind_tput_self _ _ _).symm.trans hy)]

theorem shareRelease_none {s : State} (h : s.shareOf s.rg.shareSelCtx.toNat s.rg.shareSelPart.toNat = none) :
    shareRelease s = shareCode s Config.HANDLE_RIGHTS := by
  unfold shareRelease
  rw [h]

/-- Settles O45: each command of the manager does what its checks allow, or answers its code. -/
theorem queueCommandsSharesAndWeights : Obligations.QueueCommandsSharesAndWeights := by
  refine ⟨fun s who queue part hmay => ?_, fun s h => ?_, fun s queue part hrun hr => ?_, fun s who size hmay => ?_, fun s core => ?_,
    fun s who data hmay => ?_⟩
  · intro q inst result refused rest
    have e1 : exec (.stop who queue) s = .next (queueStop s queue.toNat) :=
      congrArg Host.Outcome.next (hostWrite_may hmay RG_QUEUE_CMD false _ (by decide) rfl)
    have e2 : exec (.restart who queue) s = .next (queueRestart s queue.toNat) :=
      congrArg Host.Outcome.next (hostWrite_may hmay RG_QUEUE_CMD false _ (by decide) rfl)
    have e3 : exec (.rebind who queue part) s = .next (queueRebind s queue.toNat part) :=
      congrArg Host.Outcome.next (hostWrite_may hmay RG_QUEUE_CMD false _ (by decide) rfl)
    obtain ⟨stop1, stop2⟩ := queueStop_spec s queue
    obtain ⟨restart1, restart2⟩ := queueRestart_spec s queue
    obtain ⟨rebind1, rebind2⟩ := queueRebind_spec s queue part
    refine ⟨fun h => ?_, fun h => ?_, fun h => ?_, fun h hg => ?_, fun h hg => ?_, fun h => ?_, fun h hq => ?_, fun h hf he hg => ?_,
      fun h hf he hg => ?_⟩
    · rw [e1, stop1 h]
      rfl
    · exact e1.trans (congrArg Host.Outcome.next (stop2 h))
    · exact e2.trans (congrArg Host.Outcome.next (restart1 h))
    · exact e2.trans (congrArg Host.Outcome.next ((restart2 h).1 hg))
    · rw [e2, (restart2 h).2 hg]
      rfl
    · exact e3.trans (congrArg Host.Outcome.next (rebind1 h))
    · exact e3.trans (congrArg Host.Outcome.next ((rebind2 h).1 hq))
    · exact e3.trans (congrArg Host.Outcome.next (((rebind2 h).2 hf he).1 hg))
    · have ho := queueRebind_only s queue.toNat part
      rw [((rebind2 h).2 hf he).2 hg] at e3 ho
      have hu : ({ s.setQueue queue.toNat (q.stop false) with rg := { s.rg with rebind := some (queue, part) } } : State).queue
          queue.toNat = q.stop false := State.setQueue_queue s _ _
      refine ⟨_, e3, rfl, ?_, ?_, ?_, ho.wider (by decide)⟩
      · rw [hu]
        unfold Queue.stop
        split <;> rfl
      · rw [hu]
        unfold Queue.stop
        split <;> rfl
      · rw [hu]
        unfold Queue.stop
        split <;> rfl
  · refine congrArg Host.Outcome.next ?_
    rcases h with h | h
    · refine if_neg fun hc => h ?_
      simpa [Running'] using hc
    · refine (congrArg (fun t => if s.portAlive && !s.obs.halted then t else s) (?_ : rebindSettle s = s)).trans (ite_self _)
      unfold rebindSettle
      rw [h]
  · intro q
    have e : exec .rebindComplete s = .next (rebindSettle s) := congrArg Host.Outcome.next (if_pos (by simp [hrun.1, hrun.2]))
    refine ⟨fun h => e.trans (congrArg Host.Outcome.next (rebindSettle_waits hr h)), fun hq hi hs => ?_⟩
    rw [rebindSettle_done hr hq hi] at e
    obtain ⟨a, b, c, d, f, g, k⟩ := rebound_spec (part := part) hq hi hs
    exact ⟨_, e, a, b, c, d, f, g, k, Only.wider (exec_only .rebindComplete s _ e) rfl⟩
  · intro p ctx z coded held fits sized known
    have e1 : exec (.grant who size) s = .next (shareGrant s z) :=
      congrArg Host.Outcome.next (hostWrite_may hmay RG_SHARE true _ (by decide) rfl)
    have e2 : exec (.releaseShare who) s = .next (shareRelease s) :=
      congrArg Host.Outcome.next (hostWrite_may hmay RG_SHARE true _ (by decide) rfl)
    obtain ⟨g1, g2, g3⟩ := shareGrant_spec s z
    have hfit (o : Nat) : FitsAt (shareRanges s.shares p) z (s.freeScratch p) o ↔ fits o := fitsAt_shares s p z _ o
    refine ⟨fun h => e1.trans (congrArg Host.Outcome.next (g1 h)), fun h h' => e1.trans (congrArg Host.Outcome.next (g2 h h')),
      fun h hk hh hn => ?_, fun o n h hk hh ho hl hn hf hlow => ?_, fun h => ?_, fun h => ?_⟩
    · rw [e1, g3 h hk hh]
      rcases hn with hn | hn
      · rw [firstFit_none fun o => mt (hfit o).1 (hn o)]
        rfl
      · rw [shareRecord_none hn]
        cases firstFit (shareRanges s.shares s.rg.shareSelPart.toNat) z (s.freeScratch s.rg.shareSelPart.toNat) <;> rfl
    · have e := e1.trans (congrArg Host.Outcome.next (g3 h hk hh))
      rw [firstFit_least ((hfit o).2 ho) fun a ha => mt (hfit a).1 (hl a ha), shareRecord_some hn hf hlow] at e
      obtain ⟨a, b, c, d⟩ := placeShare_spec s n ctx p o z
      exact ⟨_, e, a, b, c, d, placeShare_only s n ctx p o z⟩
    · rw [e2, shareRelease_none]
      · rfl
      · rw [← Option.not_isSome_iff_eq_none, shareOf_some_iff]
        exact h
    · obtain ⟨x, hx⟩ := Option.isSome_iff_exists.1 ((shareOf_some_iff s ctx p).2 h)
      obtain ⟨a, b⟩ := shareRelease_held hx
      refine ⟨_, e2, a, fun y hy hf => ?_, (shareRelease_only s).wider (by decide)⟩
      rw [show s.shares.find? (fun x => x.2.ctx == ctx && x.2.part == p) = some x from hx] at hy
      obtain rfl : x = y := by simpa using hy
      exact b hf
  · intro c
    refine ⟨fun h => congrArg Host.Outcome.next ?_, fun off len more hrun hc => ?_⟩
    · rcases h with h | h
      · refine if_neg fun hc => h ?_
        simpa [Running'] using hc
      · refine (congrArg (fun t => if s.portAlive && !s.obs.halted then t else s) (?_ : clearDone s c = s)).trans (ite_self _)
        unfold clearDone
        rw [h]
    · have e : exec (.scratchClearDone core) s = .next (clearDone s c) :=
        congrArg Host.Outcome.next (if_pos (by simp [hrun.1, hrun.2]))
      have hcore (d : Nat) := clearDone_core hc d
      refine ⟨_, e, ?_, fun d hd => ?_, fun a => ?_, fun n x hl hf hm ho => ?_, Only.wider (exec_only (.scratchClearDone core) s _ e) rfl⟩
      · rw [hcore]
        unfold zeroedRange
        rw [modCore_core_cases, if_pos rfl]
      · rw [hcore]
        unfold zeroedRange
        rw [modCore_core_cases, if_neg hd]
      · rw [hcore]
        unfold zeroedRange
        rw [modCore_core_cases, if_pos rfl]
        refine (tget_filter_key 0#8 (fun k => !(decide (off ≤ k) && decide (k < off + len))) (s.core c).scratch a).trans ?_
        simp only [Bool.not_eq_true', Bool.and_eq_false_iff, decide_eq_false_iff_not]
        by_cases h : off ≤ a ∧ a < off + len
        · rw [if_pos h, if_neg (by tauto)]
        · rw [if_neg h, if_pos (by tauto)]
      · rw [clearDone_share hc hl hf hm ho]
        exact clearedBy_spec x c
  · intro id w x
    have e : exec x s = .next (setWeight s (data.setWidth 64)) :=
      congrArg Host.Outcome.next (hostWrite_may hmay 0x200104 false _ (by decide) rfl)
    have hw : weightOf (data.setWidth 64 : W64).toNat = w := weightOf_eq data
    unfold setWeight at e
    rw [hw] at e
    refine ⟨fun h => ?_, fun h => ?_, fun h => ?_, fun h => ?_⟩
    all_goals rw [e, h]; rfl

end Sys2Proof.Machine
end

section
/-! SUPPORT. The Towpath links: what a link holds and sends, and what its link layer makes of a frame (R502 to R505). -/

namespace Sys2Proof.Machine

/-! ## One link of the table -/

theorem modLink_link (s : State) (n : Nat) (f : Link → Link) (m : Nat) :
    (s.modLink n f).link m = if m = n then f (s.link m) else s.link m := by
  rw [State.modLink_eq]
  split
  · next h => rw [h, State.setLink_link]
  · next h => exact State.setLink_link_ne _ _ _ _ h

theorem modLink_self (s : State) (n : Nat) (f : Link → Link) : (s.modLink n f).link n = f (s.link n) :=
  (modLink_link s n f n).trans (if_pos rfl)

theorem modLink_modLink (s : State) (n : Nat) (f g : Link → Link) : (s.modLink n f).modLink n g = s.modLink n fun l => g (f l) := by
  change ({ s with links := tput (tput s.links n (f (s.link n))) n (g ((s.modLink n f).link n)) } : State) = _
  rw [modLink_self, tput_tput]
  rfl

/-! ## Sending (R502, R504) -/

/-- What a link layer that sends leaves alone. -/
def Link.unsent (l : Link) : Link :=
  { l with waiting := [], credits := 0, txSeq := 0#16, unacked := [], freed := 0, last := none, sent := 0 }

theorem emit_unsent (l : Link) (m : LinkMsg) : (l.emit m).unsent = l.unsent := rfl

theorem pump_unsent (k : Nat) (l : Link) : (Link.pump k l).unsent = l.unsent := by
  induction k generalizing l with
  | zero => rfl
  | succ k ih =>
    unfold Link.pump
    split
    · rfl
    · split
      · exact (ih _).trans rfl
      · rfl

theorem pump_of_nothing {l : Link} (k : Nat) (h : l.waiting = []) : Link.pump k l = l := by
  cases k with
  | zero => rfl
  | succ k =>
    unfold Link.pump
    rw [h]

/-- A link holds a message: it waits, or is kept until acknowledged (R504). -/
def Link.holds (l : Link) (m : LinkMsg) : Prop := m ∈ l.waiting ∨ ∃ x ∈ l.unacked, x.2 = m

theorem pump_holds {l : Link} {m : LinkMsg} (k : Nat) (h : l.holds m) : (Link.pump k l).holds m := by
  induction k generalizing l with
  | zero => exact h
  | succ k ih =>
    unfold Link.pump
    split
    · exact h
    · next w r hw =>
      split
      · refine ih ?_
        rcases h with h | ⟨x, hx, e⟩
        · rw [hw] at h
          rcases List.mem_cons.1 h with rfl | h
          · refine .inr ⟨(l.txSeq + BitVec.ofNat 16 0, m), List.mem_append_right _ (List.mem_map.2 ⟨0, List.mem_range.2 ?_, rfl⟩), rfl⟩
            cases m <;> exact Nat.succ_pos _
          · exact .inl h
        · exact .inr ⟨x, List.mem_append_left _ hx, e⟩
      · exact h

theorem linkSend_link_ne (s : State) (n : Nat) (m : LinkMsg) {k : Nat} (h : k ≠ n) : (linkSend s n m).link k = s.link k := by
  unfold linkSend
  dsimp only
  split
  · rfl
  · split
    · split
      · rfl
      · exact State.setLink_link_ne _ _ _ _ h
    · split
      · refine (State.setLink_link_ne _ _ _ _ h).trans ?_
        unfold countAuth
        split <;> rfl
      · rfl

/-- Nothing but a control frame leaves on a link that is not UP (R505). -/
theorem linkSend_of_down {s : State} {n : Nat} {m : LinkMsg} (hm : m.control = false) (h : (s.link n).state ≠ .up) :
    linkSend s n m = s := by
  unfold linkSend
  simp only [hm, Bool.false_eq_true, if_false, if_neg h, ite_self]

theorem linkSend_unsent (s : State) (n : Nat) (m : LinkMsg) (k : Nat) : ((linkSend s n m).link k).unsent = (s.link k).unsent := by
  by_cases hk : k = n
  · subst hk
    unfold linkSend
    dsimp only
    split
    · rfl
    · split
      · split
        · rfl
        · rw [State.setLink_link, emit_unsent]
      · split
        · rw [State.setLink_link, pump_unsent]
          rfl
        · rfl
  · rw [linkSend_link_ne s n m hk]

/-- A message that may be sent is sent, or waits for its credits (R504). -/
theorem linkSend_queued {s : State} {n : Nat} {m : LinkMsg} (hs : s.maySend n = true) (hm : m.control = false)
    (h : (s.link n).state = .up) : Queued (linkSend s n m) n m := by
  have e : (linkSend s n m).link n =
      Link.pump ((s.link n).waiting.length + 1) { s.link n with waiting := (s.link n).waiting ++ [m] } := by
    unfold linkSend
    simp only [hs, hm, h, Bool.not_true, Bool.false_eq_true, if_false, if_true]
    rw [State.setLink_link]
  unfold Queued
  rw [e]
  exact pump_holds _ (.inl (List.mem_append_right _ (List.mem_singleton.2 rfl)))

/-- A control frame leaves at once (R502). -/
theorem linkSend_control {s : State} {n : Nat} {m : LinkMsg} (hs : s.maySend n = true) (hm : m.control = true)
    (h : (s.link n).state ≠ .disabled) (h' : (s.link n).state ≠ .waitPhy) :
    linkSend s n m = s.setLink n ((s.link n).emit m) := by
  unfold linkSend
  simp only [hs, hm, Bool.not_true, Bool.false_eq_true, if_false, if_true]
  exact if_neg (not_or.2 ⟨h, h'⟩)

theorem linkSend_mute {s : State} {n : Nat} (m : LinkMsg) (h : s.maySend n = false) : linkSend s n m = s := by
  unfold linkSend
  simp only [h, Bool.not_false, if_true]

/-- Of the twin, sending advances the send counter alone (R506). -/
theorem linkSend_tw (s : State) (n : Nat) (m : LinkMsg) : ∃ c, (linkSend s n m).tw = { s.tw with txCtr := c } := by
  unfold linkSend
  dsimp only
  split
  · exact ⟨_, rfl⟩
  · split
    · split <;> exact ⟨_, rfl⟩
    · split
      · unfold countAuth
        split <;> exact ⟨_, rfl⟩
      · exact ⟨_, rfl⟩

/-! ## Receiving (R502 to R504) -/

/-- A link whose frame acknowledges and returns credits (R502). -/
def credited (s : State) (h : FrameHdr) : State := s.modLink h.link.toNat fun l => l.credit h

theorem ackFrames_eq (ack : BitVec 16) (l : List (BitVec 16 × LinkMsg)) : ackFrames ack l = (l.dropWhile fun x => x.1 != ack).drop 1 := by
  induction l with
  | nil => rfl
  | cons x l ih =>
    unfold ackFrames
    by_cases h : x.1 = ack
    · rw [if_pos h, List.dropWhile_cons_of_neg (by simp [h])]
      rfl
    · rw [if_neg h, List.dropWhile_cons_of_pos (by simpa using h)]
      exact ih

theorem credit_unsent (l : Link) (h : FrameHdr) : ∃ k, (l.credit h).unsent = { l.unsent with nakCount := k } :=
  ⟨_, pump_unsent _ _⟩

/-- What a link keeps unacknowledged after a frame (R502). -/
def Link.unackedAfter (l : Link) (h : FrameHdr) : List (BitVec 16 × LinkMsg) :=
  if l.unacked.any (fun x => x.1 == h.ack) then (l.unacked.dropWhile fun x => x.1 != h.ack).drop 1 else l.unacked

/-- With no message waiting, a frame acknowledges and returns credits alone. -/
theorem credit_of_nothing {l : Link} (h : FrameHdr) (hw : l.waiting = []) : ∃ k, (l.unackedAfter h = l.unacked → k = l.nakCount) ∧
    l.credit h = { l with unacked := l.unackedAfter h, credits := l.credits + h.credits.toNat, nakCount := k } := by
  refine ⟨if (l.unacked.any fun x => x.1 == l.nakSeq) && !(l.unackedAfter h).any fun x => x.1 == l.nakSeq then 0 else l.nakCount,
    fun e => ?_, ?_⟩
  · rw [e]
    simp
  · unfold Link.credit Link.unackedAfter
    rw [ackFrames_eq]
    exact pump_of_nothing _ hw

theorem rxControl_deaf {s : State} {h : FrameHdr} (f : Link → Bool) (hr : s.receives h.link.toNat = false) :
    rxControl s h f = .gone s := by
  unfold rxControl
  simp [hr]

theorem rxControl_bad {s : State} {h : FrameHdr} (f : Link → Bool) (hr : s.receives h.link.toNat = true) (hc : h.crcOk = false) :
    rxControl s h f = .gone (s.modLink h.link.toNat fun l => { l with crcErrors := satInc l.crcErrors }) := by
  unfold rxControl badCrc
  simp [hr, hc]

theorem rxControl_dropped {s : State} {h : FrameHdr} {f : Link → Bool} (hr : s.receives h.link.toNat = true)
    (hc : h.crcOk = true) (hf : f (s.link h.link.toNat) = false) : rxControl s h f = .gone (linkDrop s h.link.toNat) := by
  unfold rxControl
  simp [hr, hc, hf]

theorem rxControl_taken {s : State} {h : FrameHdr} {f : Link → Bool} (hr : s.receives h.link.toNat = true)
    (hc : h.crcOk = true) (hf : f (s.link h.link.toNat) = true) :
    rxControl s h f = .taken (if (s.link h.link.toNat).state = .up then credited s h else s) := by
  unfold rxControl
  simp only [hr, hc, hf, Bool.not_true, Bool.false_eq_true, if_false]
  rfl

theorem rxSequenced_deaf {s : State} {h : FrameHdr} (k : Nat) (hr : s.receives h.link.toNat = false) :
    rxSequenced s h k = .gone s := by
  unfold rxSequenced
  simp [hr]

theorem rxSequenced_bad {s : State} {h : FrameHdr} (k : Nat) (hr : s.receives h.link.toNat = true) (hc : h.crcOk = false) :
    rxSequenced s h k = .gone (badCrc s h.link.toNat true) := by
  unfold rxSequenced
  simp [hr, hc]

theorem rxSequenced_dropped {s : State} {h : FrameHdr} (k : Nat) (hr : s.receives h.link.toNat = true) (hc : h.crcOk = true)
    (hu : (s.link h.link.toNat).state ≠ .up) : rxSequenced s h k = .gone (linkDrop s h.link.toNat) := by
  unfold rxSequenced
  simp [hr, hc, hu]

theorem credited_rxSeq (s : State) (h : FrameHdr) : ((credited s h).link h.link.toNat).rxSeq = (s.link h.link.toNat).rxSeq := by
  unfold credited
  rw [modLink_self]
  obtain ⟨k, e⟩ := credit_unsent (s.link h.link.toNat) h
  have hrx := congrArg Link.rxSeq e
  exact hrx

theorem rxSequenced_out_of_turn {s : State} {h : FrameHdr} (k : Nat) (hr : s.receives h.link.toNat = true) (hc : h.crcOk = true)
    (hu : (s.link h.link.toNat).state = .up) (hs : h.seq ≠ (s.link h.link.toNat).rxSeq) : rxSequenced s h k =
      .gone (linkSend (linkDrop (credited s h) h.link.toNat) h.link.toNat (.nak (s.link h.link.toNat).rxSeq)) := by
  have e := credited_rxSeq s h
  unfold rxSequenced
  simp only [hr, hc, hu, Bool.not_true, Bool.false_eq_true, if_false, ne_eq, not_true_eq_false]
  change (if h.seq = ((credited s h).link h.link.toNat).rxSeq then _ else Rx.gone (linkSend (linkDrop (credited s h) h.link.toNat)
    h.link.toNat (.nak ((credited s h).link h.link.toNat).rxSeq))) = _
  rw [e, if_neg hs]

/-- A sequenced message in its turn is accepted (R504). -/
theorem rxSequenced_taken {s : State} {h : FrameHdr} (k : Nat) (hr : s.receives h.link.toNat = true) (hc : h.crcOk = true)
    (hu : (s.link h.link.toNat).state = .up) (hs : h.seq = (s.link h.link.toNat).rxSeq) : rxSequenced s h k =
      .taken ((credited s h).modLink h.link.toNat fun l => { l with rxSeq := l.rxSeq + BitVec.ofNat 16 k, freed := l.freed + k }) := by
  have e := credited_rxSeq s h
  unfold rxSequenced
  simp only [hr, hc, hu, Bool.not_true, Bool.false_eq_true, if_false, ne_eq, not_true_eq_false]
  change (if h.seq = ((credited s h).link h.link.toNat).rxSeq then _ else _) = _
  rw [e, if_pos hs]
  rfl

end Sys2Proof.Machine
end

section
/-! SUPPORT. O49: links train, acknowledge, replay and go down (R322, R433, R502 to R505). -/

namespace Sys2Proof.Machine

/-! ## A link that leaves UP (R505) -/

theorem flightBreak_link {s : State} {l : Nat} (h : (s.link l).state ≠ .up) (n cause : Nat) (code : BitVec 16) (from' : Option Nat) :
    (flightBreak s n cause code from').link l = s.link l := by
  unfold flightBreak
  extract_lets f u links v
  have hu : u.link l = s.link l := rfl
  have hv : v.link l = u.link l := by
    have keep (ls : List Nat) (w : State) (hw : (w.link l).state ≠ .up) :
        (ls.foldl (fun s l => linkSend s l (.brk n f.round)) w).link l = w.link l := by
      induction ls generalizing w with
      | nil => rfl
      | cons x ls ih =>
        have hx : (linkSend w x (.brk n f.round)).link l = w.link l := by
          by_cases e : l = x
          · subst e
            rw [linkSend_of_down rfl hw]
          · exact linkSend_link_ne _ _ _ e
        exact (ih _ (hx ▸ hw)).trans hx
    exact keep _ u (hu ▸ h)
  clear_value u v
  split
  · have ho : Only [.queues, .cores, .chime, .obs] v
        (chPulse (endBarriers (watchStale (pmGlobal v 20 1) f.releaseId) n code) 99 code (BitVec.ofNat 32 n)) :=
      (chPulse_only _ _ _ _).step (by decide) ((endBarriers_only _ _ _).step (by decide)
        ((watchStale_only _ _).step (by decide) ((pmGlobal_only _ _ _).wider (by decide))))
    exact (congrArg (tget _ · l) (ho .links (by decide))).trans (hv.trans hu)
  · rfl

theorem flightBreak_tw (s : State) (n cause : Nat) (code : BitVec 16) (from' : Option Nat) :
    ∃ c, (flightBreak s n cause code from').tw = { s.tw with txCtr := c } := by
  unfold flightBreak
  extract_lets f u links v
  have hu : u.tw = s.tw := rfl
  have hv : ∃ c, v.tw = { u.tw with txCtr := c } := by
    have keep (ls : List Nat) (w : State) :
        ∃ c, (ls.foldl (fun s l => linkSend s l (.brk n f.round)) w).tw = { w.tw with txCtr := c } := by
      induction ls generalizing w with
      | nil => exact ⟨_, rfl⟩
      | cons x ls ih =>
        obtain ⟨c, e⟩ := ih (linkSend w x (.brk n f.round))
        obtain ⟨d, e'⟩ := linkSend_tw w x (.brk n f.round)
        rw [e'] at e
        exact ⟨c, e⟩
    exact keep _ u
  clear_value u v
  split
  · have ho : Only [.queues, .cores, .chime, .obs] v
        (chPulse (endBarriers (watchStale (pmGlobal v 20 1) f.releaseId) n code) 99 code (BitVec.ofNat 32 n)) :=
      (chPulse_only _ _ _ _).step (by decide) ((endBarriers_only _ _ _).step (by decide)
        ((watchStale_only _ _).step (by decide) ((pmGlobal_only _ _ _).wider (by decide))))
    obtain ⟨c, e⟩ := hv
    exact ⟨c, (ho .tw (by decide)).trans (e.trans (by rw [hu]))⟩
  · exact ⟨_, rfl⟩

/-- The breaks of several flights leave a link that is down, and all of the twin but its send counter. -/
theorem foldl_flightBreak_link (ls : List Nat) (cause : Nat) (code : BitVec 16) (from' : Option Nat) {l : Nat} {s : State}
    (h : (s.link l).state ≠ .up) : (ls.foldl (fun s n => flightBreak s n cause code from') s).link l = s.link l := by
  induction ls generalizing s with
  | nil => rfl
  | cons n ls ih =>
    have e := flightBreak_link h n cause code from'
    exact (ih (e ▸ h)).trans e

theorem foldl_flightBreak_tw (ls : List Nat) (cause : Nat) (code : BitVec 16) (from' : Option Nat) (s : State) :
    ∃ c, (ls.foldl (fun s n => flightBreak s n cause code from') s).tw = { s.tw with txCtr := c } := by
  induction ls generalizing s with
  | nil => exact ⟨_, rfl⟩
  | cons n ls ih =>
    obtain ⟨c, e⟩ := ih (flightBreak s n cause code from')
    obtain ⟨d, e'⟩ := flightBreak_tw s n cause code from'
    rw [e'] at e
    exact ⟨c, e⟩

theorem tget_entry {α : Type} {d : α} {t : List (Nat × α)} {k : Nat} (h : tget d t k ≠ d) : (k, tget d t k) ∈ t := by
  induction t with
  | nil => exact absurd rfl h
  | cons p r ih =>
    obtain ⟨i, w⟩ := p
    unfold tget at h ⊢
    split
    · next e => exact e ▸ List.mem_cons_self
    · next e =>
      rw [if_neg e] at h
      exact List.mem_cons_of_mem _ (ih h)

/-- An open flight that uses a link is among those that its loss breaks (R322). -/
theorem mem_linkFlights {s : State} {n f : Nat} (ho : (s.flight f).state = .isOpen)
    (h : (s.flight f).parentLink = some n ∨ bitAt (s.flight f).children.toNat n = true) : f ∈ s.linkFlights n := by
  have hm : (f, s.flight f) ∈ s.flights := tget_entry fun e => by
    have e' : s.flight f = Flight.reset := e
    rw [e'] at ho
    cases ho
  refine List.mem_map.2 ⟨_, List.mem_filter.2 ⟨hm, ?_⟩, rfl⟩
  dsimp only
  rw [ho]
  rcases h with h | h <;> simp [h]

theorem Reports.halted {s t : State} (h : Reports s t) : t.obs.halted = s.obs.halted := by
  obtain ⟨c, o, f, n, rfl, ho, -⟩ := h
  unfold ObsKept at ho
  exact (congrArg Obs.halted ho).trans rfl

/-- A link down: the record and the code (R505, R515). -/
def linkLost (s : State) (n cause : Nat) (disabled : Bool) : State :=
  twCode (s.modLink n fun l => { l with
    state := if disabled then .disabled else .waitPhy, downs := satInc l.downs, downCause := BitVec.ofNat 3 cause,
    waiting := [], unacked := [], nakCount := 0 }) Config.LINK_DOWN

/-- A link down and its flights broken. -/
def flightsLost (s : State) (n cause : Nat) (disabled : Bool) : State :=
  afterBreak (((linkLost s n cause disabled).linkFlights n).foldl (fun s f => flightBreak s f 3 Config.FLIGHT_BROKEN none)
    (linkLost s n cause disabled))

theorem linkLost_spec (s : State) (n cause : Nat) (disabled : Bool) :
    (linkLost s n cause disabled).link n = { s.link n with
      state := if disabled then .disabled else .waitPhy, downs := satInc (s.link n).downs, downCause := BitVec.ofNat 3 cause,
      waiting := [], unacked := [], nakCount := 0 } ∧
    (linkLost s n cause disabled).tw = { s.tw with lastCode := Config.LINK_DOWN } ∧
    (linkLost s n cause disabled).flights = s.flights ∧ (linkLost s n cause disabled).obs.halted = s.obs.halted := by
  unfold linkLost twCode
  generalize hu : (s.modLink n fun l => { l with
    state := if disabled then .disabled else .waitPhy, downs := satInc l.downs, downCause := BitVec.ofNat 3 cause,
    waiting := [], unacked := [], nakCount := 0 }) = u
  have h1 : u.link n = { s.link n with
      state := if disabled then .disabled else .waitPhy, downs := satInc (s.link n).downs, downCause := BitVec.ofNat 3 cause,
      waiting := [], unacked := [], nakCount := 0 } := hu ▸ modLink_self s n _
  have h2 : u.tw = s.tw := hu ▸ rfl
  have h3 : u.flights = s.flights := hu ▸ rfl
  have h4 : u.obs = s.obs := hu ▸ rfl
  have hp := chPulse_reports { u with tw := { u.tw with lastCode := Config.LINK_DOWN } } 104 Config.LINK_DOWN (BitVec.ofNat 32 u.tw.state.code)
  have ho := chPulse_only { u with tw := { u.tw with lastCode := Config.LINK_DOWN } } 104 Config.LINK_DOWN (BitVec.ofNat 32 u.tw.state.code)
  refine ⟨(congrArg (tget _ · n) (ho .links (by decide))).trans h1, (ho .tw (by decide)).trans ?_, (ho .flights (by decide)).trans h3,
    hp.halted.trans (congrArg Obs.halted h4)⟩
  dsimp only
  rw [h2]

/-- What the loss of a link does to an authenticated twin session over it (R436). -/
def sessionLost (s : State) (n : Nat) : State :=
  if n = 0 ∧ s.tw.authed = true then
    (let s := if s.lossKnown then s else twLost s
     { s with tw := { s.tw with authed := false } })
  else s

theorem linkDown_eq (s : State) (n cause : Nat) (disabled : Bool) : linkDown s n cause disabled =
    if (linkLost s n cause disabled).obs.halted then linkLost s n cause disabled
    else sessionLost (flightsLost s n cause disabled) n := by
  unfold linkDown linkLost flightsLost sessionLost linkLost
  dsimp only

theorem sessionLost_only (s : State) (n : Nat) : Only [.tw, .chime, .obs] s (sessionLost s n) := by
  unfold sessionLost
  dsimp only
  split
  · refine Only.set_tw (by decide) ?_
    split
    · exact .refl _ _
    · exact (twLost_only _).wider (by decide)
  · exact .refl _ _

theorem sessionLost_authed {s : State} (ha : s.tw.authed = true) : (sessionLost s 0).tw.authed = false := by
  unfold sessionLost
  rw [if_pos ⟨rfl, ha⟩]

theorem flightsLost_spec (s : State) (n cause : Nat) (disabled : Bool) :
    (flightsLost s n cause disabled).link n = (linkLost s n cause disabled).link n ∧
    (∃ c, (flightsLost s n cause disabled).tw = { s.tw with lastCode := Config.LINK_DOWN, txCtr := c }) ∧
    (∀ f, (s.flight f).state = .isOpen → ((s.flight f).parentLink = some n ∨ bitAt (s.flight f).children.toNat n = true) →
      ((flightsLost s n cause disabled).flight f).state = .broken ∧ ((flightsLost s n cause disabled).flight f).cause = 3#3) := by
  obtain ⟨h1, h2, h3, -⟩ := linkLost_spec s n cause disabled
  unfold flightsLost
  generalize linkLost s n cause disabled = u at h1 h2 h3
  have hdown : (u.link n).state ≠ .up := by
    rw [h1]
    dsimp only
    split <;> exact fun h => nomatch h
  have hl := foldl_flightBreak_link (u.linkFlights n) 3 Config.FLIGHT_BROKEN none hdown
  have ht := foldl_flightBreak_tw (u.linkFlights n) 3 Config.FLIGHT_BROKEN none u
  have hfl (f : Nat) : u.flight f = s.flight f := congrArg (tget _ · f) h3
  have hb (f : Nat) (ho : (s.flight f).state = .isOpen)
      (hu : (s.flight f).parentLink = some n ∨ bitAt (s.flight f).children.toNat n = true) :=
    foldl_flightBreak_broken 3 Config.FLIGHT_BROKEN none (mem_linkFlights ((hfl f).symm ▸ ho) ((hfl f).symm ▸ hu)) (s := u) ((hfl f).symm ▸ ho)
  generalize (u.linkFlights n).foldl (fun s f => flightBreak s f 3 Config.FLIGHT_BROKEN none) u = v at hl ht hb
  have ha : Only (haltCoreParts ++ pumpAllParts) v (afterBreak v) :=
    (pumpAll_only _).step (by decide) ((killWaiters_only v).wider (by decide))
  refine ⟨(congrArg (tget _ · n) (ha .links (by decide))).trans hl, ?_, fun f ho hu => ?_⟩
  · obtain ⟨c, e⟩ := ht
    rw [h2] at e
    exact ⟨c, (ha .tw (by decide)).trans e⟩
  · have e : (afterBreak v).flight f = v.flight f := congrArg (tget _ · f) (ha .flights (by decide))
    rw [e]
    exact hb f ho hu

/-- What is lost with a link that leaves UP (R322, R436, R505). -/
theorem linkDown_downs (s : State) (n cause : Nat) (disabled : Bool) :
    LinkDowns s (linkDown s n cause disabled) n (BitVec.ofNat 3 cause) disabled := by
  obtain ⟨h1, h2, h3, h4⟩ := linkLost_spec s n cause disabled
  obtain ⟨g1, ⟨c, g2⟩, g3⟩ := flightsLost_spec s n cause disabled
  rw [linkDown_eq, h4]
  cases hh : s.obs.halted
  · have ho := sessionLost_only (flightsLost s n cause disabled) n
    refine ⟨?_, fun hn => ?_, fun h => Bool.noConfusion (hh.symm.trans h), fun _ => ⟨fun f hf hu => ?_, fun hn ha => ?_⟩⟩
    · exact (congrArg (tget _ · n) (ho .links (by decide))).trans (g1.trans h1)
    · rw [if_neg Bool.false_ne_true, show sessionLost (flightsLost s n cause disabled) n = flightsLost s n cause disabled from
        if_neg fun h => hn h.1, g2]
    · have e : (sessionLost (flightsLost s n cause disabled) n).flight f = (flightsLost s n cause disabled).flight f :=
        congrArg (tget _ · f) (ho .flights (by decide))
      rw [if_neg Bool.false_ne_true, e]
      exact g3 f hf hu
    · subst hn
      rw [if_neg Bool.false_ne_true]
      exact sessionLost_authed (by rw [g2]; exact ha)
  · exact ⟨h1, fun _ => congrArg Tw.lastCode h2, fun _ => h3, fun h => Bool.noConfusion (hh.symm.trans h)⟩

/-! ## Frames (R502 to R504) -/

theorem foldl_emit (l : Link) (fs : List (BitVec 16 × LinkMsg)) (h : fs ≠ []) :
    fs.foldl (fun l x => l.emit x.2) l = { l with freed := 0, last := fs.getLast?.map Prod.snd, sent := l.sent + fs.length } := by
  induction fs generalizing l with
  | nil => exact absurd rfl h
  | cons x fs ih =>
    cases fs with
    | nil => rfl
    | cons y fs =>
      rw [List.foldl_cons, ih _ (List.cons_ne_nil _ _), List.getLast?_cons_cons]
      unfold Link.emit
      simp only [List.length_cons]
      congr 1
      omega

/-- The frames from a SEQ on go out again (R504). -/
theorem replay_eq {l : Link} {seq : BitVec 16} (h : (l.unacked.dropWhile fun x => x.1 != seq) ≠ []) :
    l.replay seq = { l with replays := satInc l.replays, freed := 0, last := (l.unacked.dropWhile fun x => x.1 != seq).getLast?.map Prod.snd,
                            sent := l.sent + (l.unacked.dropWhile fun x => x.1 != seq).length } := by
  unfold Link.replay
  dsimp only
  rw [if_neg (by simpa using h), foldl_emit _ _ h]

/-- The rows of sequenced messages end where their frame is dropped. -/
theorem flightRows_gone {s t : State} {h : FrameHdr} (flight : BitVec 10) (round : W32) (e : rxSequenced s h 1 = .gone t) :
    ∀ x ∈ [Instr.arrive h flight round, .releaseMessage h flight round, .breakMsg h flight round], exec x s = .next t := by
  have hf : rxFlight s h = .gone t := by
    unfold rxFlight
    rw [e]
  have hm (act : State → State) : flightMessage s h act = t := by
    unfold flightMessage
    rw [hf]
  intro x hx
  simp only [List.mem_cons, List.not_mem_nil, or_false] at hx
  rcases hx with rfl | rfl | rfl
  · exact congrArg Host.Outcome.next (hm _)
  · exact congrArg Host.Outcome.next (hm _)
  · exact congrArg Host.Outcome.next (hm _)

/-- The rows of control frames end where their frame is dropped. -/
theorem controlRows_gone {s t : State} {h : FrameHdr} (expected : BitVec 16)
    (e : rxControl s h (fun l => l.state == .up) = .gone t) : ∀ x ∈ [Instr.idle h, .nak h expected], exec x s = .next t := by
  intro x hx
  simp only [List.mem_cons, List.not_mem_nil, or_false] at hx
  rcases hx with rfl | rfl
  · change execIdle h s = _
    unfold execIdle
    rw [e]
  · change execNak h expected s = _
    unfold execNak
    rw [e]

theorem exec_idle_taken {s t : State} {h : FrameHdr} (e : rxControl s h (fun l => l.state == .up) = .taken t) :
    exec (.idle h) s = .next t := by
  change execIdle h s = _
  unfold execIdle
  rw [e]

/-- A NAK counts on its link (R504). -/
def nakNoted (s : State) (n : Nat) (expected : BitVec 16) (count : Nat) : State :=
  s.modLink n fun l => { l with nakSeq := expected, nakCount := count }

theorem exec_nak_taken {s t : State} {h : FrameHdr} {expected : BitVec 16} {count : Nat}
    (e : rxControl s h (fun l => l.state == .up) = .taken t)
    (hc : count = if (t.link h.link.toNat).nakSeq = expected then (t.link h.link.toNat).nakCount + 1 else 1) :
    exec (.nak h expected) s = .next (if 16 ≤ count then linkDown (nakNoted t h.link.toNat expected count) h.link.toNat 2 false
      else if (nakNoted t h.link.toNat expected count).maySend h.link.toNat then
        (nakNoted t h.link.toNat expected count).modLink h.link.toNat fun l => l.replay expected
      else nakNoted t h.link.toNat expected count) := by
  subst hc
  change execNak h expected s = _
  unfold execNak
  rw [e]
  rfl

theorem badCrc_spec (s : State) (n : Nat) : ((badCrc s n true).link n).crcErrors = satInc (s.link n).crcErrors ∧
    ((s.link n).state = .up → s.maySend n = true → ((badCrc s n true).link n).last = some (.nak (s.link n).rxSeq)) := by
  unfold badCrc
  dsimp only
  generalize hu : (s.modLink n fun l => { l with crcErrors := satInc l.crcErrors }) = u
  have h1 : u.link n = { s.link n with crcErrors := satInc (s.link n).crcErrors } := hu ▸ modLink_self s n _
  have h2 : u.maySend n = s.maySend n := hu ▸ rfl
  constructor
  · split
    · have e := congrArg Link.crcErrors (linkSend_unsent u n (.nak (u.link n).rxSeq) n)
      refine Eq.trans e ?_
      rw [h1]
      rfl
    · rw [h1]
  · intro hup hs
    have hup' : (u.link n).state = .up := by rw [h1]; exact hup
    rw [if_pos (by simp [hup']), linkSend_control (h2.trans hs) rfl (by rw [hup']; exact fun h => nomatch h)
      (by rw [hup']; exact fun h => nomatch h), State.setLink_link, h1]
    rfl

/-! ## The clauses -/

/-- The frames that a link layer drops or counts, and those that acknowledge (R502 to R504). -/
theorem frames_act (s : State) (h : FrameHdr) (expected : BitVec 16) (flight : BitVec 10) (round : W32) :
    let n := h.link.toNat
    let l := s.link n
    let control : List Instr := [.idle h, .nak h expected]
    let sequenced : List Instr := [.arrive h flight round, .releaseMessage h flight round, .breakMsg h flight round]
    (s.receives n = false → ∀ x ∈ control ++ sequenced, exec x s = .next s) ∧
    (s.receives n = true → h.crcOk = false →
      (∀ x ∈ control, exec x s = .next (s.modLink n fun l => { l with crcErrors := satInc l.crcErrors })) ∧
      (∀ x ∈ sequenced, Answers (exec x s) fun t => (t.link n).crcErrors = satInc l.crcErrors ∧ Only [.tw, .links] s t ∧
        (l.state = .up → s.maySend n = true → (t.link n).last = some (.nak l.rxSeq)))) ∧
    (s.receives n = true → h.crcOk = true → l.state ≠ .up → ∀ x ∈ control ++ sequenced,
      exec x s = .next (s.modLink n fun l => { l with dropped := satInc l.dropped })) ∧
    (s.receives n = true → h.crcOk = true → l.state = .up → h.seq ≠ l.rxSeq → ∀ x ∈ sequenced,
      Answers (exec x s) fun t => (t.link n).dropped = satInc l.dropped ∧ (t.link n).rxSeq = l.rxSeq ∧
        (s.maySend n = true → (t.link n).last = some (.nak l.rxSeq)) ∧ Only [.tw, .links] s t) := by
  intro n l control sequenced
  refine ⟨fun hr x hx => ?_, fun hr hc => ⟨?_, fun x hx => ?_⟩, fun hr hc hu x hx => ?_, fun hr hc hu hs x hx => ?_⟩
  · rcases List.mem_append.1 hx with hx | hx
    · exact controlRows_gone expected (rxControl_deaf _ hr) x hx
    · exact flightRows_gone flight round (rxSequenced_deaf _ hr) x hx
  · exact controlRows_gone expected (rxControl_bad _ hr hc)
  · obtain ⟨a, b⟩ := badCrc_spec s n
    exact ⟨_, flightRows_gone flight round (rxSequenced_bad _ hr hc) x hx, a, badCrc_only s n true, b⟩
  · rcases List.mem_append.1 hx with hx | hx
    · exact controlRows_gone expected (rxControl_dropped hr hc (by simpa using hu)) x hx
    · exact flightRows_gone flight round (rxSequenced_dropped _ hr hc hu) x hx
  · have e := flightRows_gone flight round (rxSequenced_out_of_turn 1 hr hc hu hs) x hx
    obtain ⟨k, hk⟩ := credit_unsent l h
    have h1 : (linkDrop (credited s h) n).link n = { l.credit h with dropped := satInc (l.credit h).dropped } := by
      unfold linkDrop credited
      rw [modLink_modLink, modLink_self]
    have h2 : (linkDrop (credited s h) n).maySend n = s.maySend n := rfl
    have hst := congrArg Link.state hk
    change (l.credit h).state = l.state at hst
    have hdr := congrArg Link.dropped hk
    change (l.credit h).dropped = l.dropped at hdr
    have hrx := congrArg Link.rxSeq hk
    change (l.credit h).rxSeq = l.rxSeq at hrx
    have hf : Only [.tw, .links] s (linkSend (linkDrop (credited s h) n) n (.nak l.rxSeq)) :=
      (linkSend_only _ _ _).step (by decide) (Only.set_links (by decide) (Only.set_links (by decide) (.refl _ s)))
    generalize linkDrop (credited s h) n = u at e h1 h2 hf
    have hun := linkSend_unsent u n (.nak l.rxSeq) n
    refine ⟨_, e, ?_, ?_, fun hm => ?_, hf⟩
    · refine (congrArg Link.dropped hun : _).trans ?_
      rw [h1]
      exact congrArg satInc hdr
    · refine (congrArg Link.rxSeq hun : _).trans ?_
      rw [h1]
      exact hrx
    · have hup : (u.link n).state = .up := by
        rw [h1]
        exact hst.trans hu
      rw [linkSend_control (h2.trans hm) rfl (by rw [hup]; exact fun h => nomatch h) (by rw [hup]; exact fun h => nomatch h),
        State.setLink_link]
      rfl

/-- What IDLE and NAK do on a link that is UP and has nothing waiting (R502, R504, R505). -/
theorem control_acts (s : State) (h : FrameHdr) (expected : BitVec 16) :
    let n := h.link.toNat
    let l := s.link n
    s.receives n = true → h.crcOk = true → l.state = .up → l.waiting = [] →
      (Answers (exec (.idle h) s) fun t => (t.link n).unacked = l.unackedAfter h ∧ (t.link n).credits = l.credits + h.credits.toNat ∧
        (t.link n).rxSeq = l.rxSeq ∧ (t.link n).txSeq = l.txSeq ∧ (t.link n).state = .up ∧ Only [.tw, .links] s t) ∧
      (l.unackedAfter h = l.unacked →
        let again := l.unacked.dropWhile fun x => x.1 != expected
        let count := if l.nakSeq = expected then l.nakCount + 1 else 1
        (count < 16 → s.maySend n = true → again ≠ [] → Answers (exec (.nak h expected) s) fun t =>
          (t.link n).replays = satInc l.replays ∧ (t.link n).sent = l.sent + again.length ∧ (t.link n).unacked = l.unacked ∧
          (t.link n).last = again.getLast?.map Prod.snd ∧ (t.link n).nakCount = count ∧ (t.link n).nakSeq = expected ∧
          Only [.tw, .links] s t) ∧
        (16 ≤ count → Answers (exec (.nak h expected) s) fun t => (t.link n).state = .waitPhy ∧
          (t.link n).downCause = 2#3 ∧ (t.link n).unacked = [] ∧ (t.link n).downs = satInc l.downs ∧
          Only [.writes, .mem, .poison, .au, .run, .pool, .gens, .ctxs, .queues, .insts, .rgParts, .jobs, .cores, .flights, .tw, .links, .fr, .chime, .obs, .freeCount] s t)) := by
  intro n l hr hc hu hw
  obtain ⟨k, hk, hcredit⟩ := credit_of_nothing h hw
  have htaken := (rxControl_taken (f := fun l => l.state == .up) hr hc (by simpa using hu)).trans (congrArg Rx.taken (if_pos hu))
  have hlink : (credited s h).link n =
      { l with unacked := l.unackedAfter h, credits := l.credits + h.credits.toNat, nakCount := k } :=
    (modLink_self s n _).trans hcredit
  have hmay : (credited s h).maySend n = s.maySend n := rfl
  have honly : Only [.tw, .links] s (credited s h) := Only.set_links (by decide) (.refl _ s)
  generalize credited s h = u at htaken hlink hmay honly
  refine ⟨⟨u, exec_idle_taken htaken, ?_⟩, fun hleft => ?_⟩
  · dsimp only
    rw [hlink]
    exact ⟨rfl, rfl, rfl, rfl, hu, honly⟩
  · intro again count
    rw [hk hleft, hleft] at hlink
    have e := exec_nak_taken (expected := expected) (count := count) htaken (by rw [show u.link h.link.toNat = _ from hlink])
    have hnoted : (nakNoted u n expected count).link n =
        { l with credits := l.credits + h.credits.toNat, nakSeq := expected, nakCount := count } :=
      (modLink_self u n _).trans (by rw [hlink])
    have hmay' : (nakNoted u n expected count).maySend n = s.maySend n := hmay
    have honly' : Only [.tw, .links] s (nakNoted u n expected count) := Only.set_links (by decide) honly
    change exec (.nak h expected) s = .next (if 16 ≤ count then linkDown (nakNoted u n expected count) n 2 false
      else if (nakNoted u n expected count).maySend n then (nakNoted u n expected count).modLink n fun l => l.replay expected
      else nakNoted u n expected count) at e
    generalize nakNoted u n expected count = v at e hnoted hmay' honly'
    refine ⟨fun hlt hm hne => ?_, fun hge => ?_⟩
    · rw [if_neg (by omega), if_pos (hmay'.trans hm)] at e
      refine ⟨_, e, ?_⟩
      have hv : (v.modLink n fun l => l.replay expected).link n = (v.link n).replay expected := modLink_self v n _
      dsimp only
      rw [hv, replay_eq (by rw [hnoted]; exact hne), hnoted]
      exact ⟨rfl, rfl, rfl, rfl, rfl, rfl, Only.set_links (by decide) honly'⟩
    · rw [if_pos hge] at e
      have hd := (linkDown_downs v n 2 false).1
      refine ⟨_, e, ?_⟩
      dsimp only
      rw [hd, hnoted]
      exact ⟨rfl, rfl, rfl, rfl, (linkDown_only v n 2 false).step (by decide) (honly'.wider (by decide))⟩

/-! ## The exchange of TW (R433) -/

/-- The state in which the exchange sends its HELLO. -/
def exchangeBegun (s : State) : State := { s with tw := { s.tw with authed := false, partnerLive := false } }

/-- The exchange sends HELLO, and PROOF where the partner's HELLO has come (R433). -/
theorem twExchange_eq (s : State) : twExchange s = if s.tw.helloSeen then linkSend (linkSend (exchangeBegun s) 0 .hello) 0 .proof
    else linkSend (exchangeBegun s) 0 .hello := by
  obtain ⟨c, h⟩ := linkSend_tw (exchangeBegun s) 0 .hello
  have e : (linkSend (exchangeBegun s) 0 .hello).tw.helloSeen = s.tw.helloSeen := by rw [h]; rfl
  unfold twExchange
  change (if (linkSend (exchangeBegun s) 0 .hello).tw.helloSeen = true then _ else _) = _
  rw [e]
  rfl

theorem twStart_idle {s : State} (h : ¬(s.tw.state = .unpaired ∧ s.tw.pairReq = true ∧ (s.link 0).state = .up)) : twStart s = s :=
  if_neg h

/-- A device in AUTH (R433). -/
def authBegun (s : State) : State := { s with tw := { s.tw with state := .auth } }

/-- No HELLO of the partner has come since the link came up (R433). -/
def helloAwaited (s : State) : State := { s with tw := { s.tw with helloSeen := false } }

theorem twStart_begins {s : State} (h : s.tw.state = .unpaired) (hp : s.tw.pairReq = true) (hl : (s.link 0).state = .up) :
    twStart s = twExchange (authBegun s) := if_pos ⟨h, hp, hl⟩

theorem twLinkUp_unpaired {s : State} (h : s.tw.state = .unpaired) :
    twLinkUp s = twStart (helloAwaited s) := by
  unfold twLinkUp helloAwaited
  dsimp only
  rw [h]

theorem linkSend_state (s : State) (n : Nat) (m : LinkMsg) (k : Nat) : ((linkSend s n m).link k).state = (s.link k).state := by
  have h := congrArg Link.state (linkSend_unsent s n m k)
  exact h

/-- A link that has come up (R505). -/
def linkUp (s : State) (n : Nat) (buffers : BitVec 8) : State := s.modLink n fun l => { l with
  state := .up, txSeq := 0#16, rxSeq := 0#16, credits := buffers.toNat, freed := 0, nakSeq := 0#16, nakCount := 0,
  waiting := [], unacked := [] }

theorem exec_linkInit_taken {s t : State} {h : FrameHdr} (buffers : BitVec 8) (digest : Digest)
    (e : rxControl s h (fun l => l.state == .init) = .taken t) : exec (.linkInit h buffers digest) s =
      .next (if h.link.toNat = 0 ∧ t.obs.halted = false then twLinkUp (linkUp t h.link.toNat buffers)
        else linkUp t h.link.toNat buffers) := by
  change execLinkInit h buffers digest s = _
  unfold execLinkInit
  rw [e]
  rfl

theorem exec_linkInit_gone {s t : State} {h : FrameHdr} (buffers : BitVec 8) (digest : Digest)
    (e : rxControl s h (fun l => l.state == .init) = .gone t) : exec (.linkInit h buffers digest) s = .next t := by
  change execLinkInit h buffers digest s = _
  unfold execLinkInit
  rw [e]

/-- LINK_INIT brings a link up, and on TW it may begin the exchange (R433, R505). -/
theorem linkInit_acts (s : State) (h : FrameHdr) (buffers : BitVec 8) (digest : Digest) :
    let n := h.link.toNat
    let x : Instr := .linkInit h buffers digest
    let up : State := linkUp s n buffers
    (s.receives n = true → h.crcOk = true → (s.link n).state = .init →
      ((n ≠ 0 ∨ s.obs.halted = true) → exec x s = .next up) ∧
      (n = 0 → s.obs.halted = false → s.tw.state = .unpaired → s.tw.pairReq = false → Answers (exec x s) fun t =>
        t.links = up.links ∧ t.tw = { s.tw with helloSeen := false } ∧ Only [.tw, .links] s t) ∧
      (n = 0 → s.obs.halted = false → s.tw.state = .unpaired → s.tw.pairReq = true → Answers (exec x s) fun t =>
        (t.link 0).state = .up ∧ t.tw.state = .auth ∧ t.tw.helloSeen = false ∧ (s.maySend 0 = true → Queued t 0 .hello) ∧
          Only [.tw, .links] s t)) ∧
    ((s.link n).state ≠ .init → s.receives n = true → h.crcOk = true →
      exec x s = .next (s.modLink n fun l => { l with dropped := satInc l.dropped })) := by
  intro n x up
  refine ⟨fun hr hc hi => ?_, fun hi hr hc => exec_linkInit_gone _ _ (rxControl_dropped hr hc (by simpa using hi))⟩
  have e : exec x s = .next (if n = 0 ∧ s.obs.halted = false then twLinkUp up else up) :=
    exec_linkInit_taken _ _ ((rxControl_taken (f := fun l => l.state == .init) hr hc (by simpa using hi)).trans
      (congrArg Rx.taken (if_neg (by rw [hi]; exact fun h => nomatch h))))
  have hl : (up.link n).state = .up := congrArg Link.state (modLink_self s n _)
  have htw : up.tw = s.tw := rfl
  have hmay : up.maySend 0 = s.maySend 0 := rfl
  have honly : Only [.tw, .links] s up := Only.set_links (by decide) (.refl _ s)
  clear_value up
  refine ⟨fun h => ?_, fun hn hh hu hp => ?_, fun hn hh hu hp => ?_⟩
  · rw [e, if_neg]
    rintro ⟨h0, h1⟩
    exact h.elim (fun h => h h0) fun h => Bool.noConfusion (h1.symm.trans h)
  · rw [if_pos ⟨hn, hh⟩, twLinkUp_unpaired (htw ▸ hu), twStart_idle] at e
    · refine ⟨_, e, rfl, ?_, Only.set_tw (by decide) honly⟩
      unfold helloAwaited
      dsimp only
      rw [htw]
    · unfold helloAwaited
      dsimp only
      rw [htw, hp]
      exact fun h => nomatch h.2.1
  · rw [hn] at hl
    have hs : (helloAwaited up).tw = { s.tw with helloSeen := false } := by
      unfold helloAwaited
      rw [htw]
    rw [if_pos ⟨hn, hh⟩, twLinkUp_unpaired (htw ▸ hu), twStart_begins (s := helloAwaited up) (by rw [hs]; exact hu)
      (by rw [hs]; exact hp) hl, twExchange_eq,
      if_neg (by unfold authBegun; rw [hs]; exact Bool.false_ne_true)] at e
    obtain ⟨c, hc⟩ := linkSend_tw (exchangeBegun (authBegun (helloAwaited up))) 0 .hello
    exact ⟨_, e, (linkSend_state _ _ _ _).trans hl, by rw [hc]; rfl, by rw [hc]; rfl,
      fun hm => linkSend_queued (hmay.trans hm) rfl hl,
      (linkSend_only _ _ _).step (by decide) (Only.set_tw (by decide) (Only.set_tw (by decide) (Only.set_tw (by decide) honly)))⟩

/-- The writes that the manager makes to the enable of a link (R505). -/
theorem setLinkEnable_spec (s : State) (n : Nat) (enable : Bool) :
    let l := s.link n
    (enable = true → setLinkEnable s n enable = s.modLink n fun l => { l with
      enable := true, state := match l.state with
        | .disabled => if l.phyLock then .init else .waitPhy
        | .waitPhy => if l.phyLock then .init else .waitPhy
        | y => y }) ∧
    (enable = false → l.state ≠ .up → setLinkEnable s n enable = s.modLink n fun l => { l with enable := false, state := .disabled }) ∧
    (enable = false → l.state = .up → setLinkEnable s n enable = linkDown (s.modLink n fun l => { l with enable := enable }) n 4 true) := by
  have hs : ((s.modLink n fun l => { l with enable := enable }).link n).state = (s.link n).state := by
    rw [modLink_self]
  refine ⟨fun h => ?_, fun h hu => ?_, fun h hu => ?_⟩
  · subst h
    change ((s.modLink n fun l => { l with enable := true }).modLink n fun l =>
      if l.state = .disabled then { l with state := .waitPhy } else l).modLink n (fun l =>
        if l.state = .waitPhy ∧ l.phyLock = true then { l with state := .init } else l) = _
    rw [modLink_modLink, modLink_modLink]
    refine congrArg (s.modLink n) (funext fun l => ?_)
    cases hl : l.state <;> cases hp : l.phyLock <;> simp
  · subst h
    unfold setLinkEnable
    dsimp only
    rw [if_neg Bool.false_ne_true, if_neg (by rw [hs]; exact hu), modLink_modLink]
  · subst h
    unfold setLinkEnable
    dsimp only
    rw [if_neg Bool.false_ne_true, if_pos (by rw [hs]; exact hu)]

theorem exec_linkEnable {s : State} {who : Who} (hmay : ManagerMay s who) (link : BitVec 3) (enable : Bool) :
    exec (.linkEnable who link enable) s = .next (if link.toNat < 5 then setLinkEnable s link.toNat enable else s) := by
  refine congrArg Host.Outcome.next ?_
  by_cases h : link.toNat < 5
  · rw [if_pos h, if_pos h]
    have hw : linkStatusOff link.toNat % (if true = true then 8 else 4) = 0 ∧ windowCore (linkStatusOff link.toNat) = none := by
      have hl : link.toNat = 0 ∨ link.toNat = 1 ∨ link.toNat = 2 ∨ link.toNat = 3 ∨ link.toNat = 4 := by omega
      rcases hl with e | e | e | e | e <;> rw [e] <;> exact ⟨by decide, rfl⟩
    exact hostWrite_may hmay _ true _ hw.1 hw.2
  · rw [if_neg h, if_neg h]

/-- Settles O49: frames, timers, the pin and the enable of a link do what its state and its record allow. -/
theorem linksTrainAndFail : Obligations.LinksTrainAndFail := by
  refine ⟨fun s h expected flight round => ?_, fun s h buffers digest => linkInit_acts s h buffers digest, fun s link => ?_⟩
  · intro n l control sequenced
    obtain ⟨a, b, c, d⟩ := frames_act s h expected flight round
    exact ⟨a, b, c, d, control_acts s h expected⟩
  · intro n l sends
    have hsend (m : LinkMsg) (hm : m.control = true) (h : s.maySend n = true) (hu : l.state = .up) : linkSend s n m = sends m :=
      linkSend_control h hm (by rw [show (s.link n).state = _ from hu]; exact fun h => nomatch h)
        (by rw [show (s.link n).state = _ from hu]; exact fun h => nomatch h)
    refine ⟨fun hm h => ?_, fun h => ?_, fun hm hu => ?_, fun h => ?_, fun hp hu => ?_, fun h => ?_, fun level => ?_, fun who enable hmay => ?_⟩
    · refine congrArg Host.Outcome.next (if_pos ?_)
      rw [show s.maySend link.toNat = true from hm]
      rcases h with h | h <;> simp [show (s.link link.toNat).state = _ from h]
    · refine congrArg Host.Outcome.next (if_neg fun hc => ?_)
      simp only [Bool.and_eq_true, Bool.or_eq_true, beq_iff_eq] at hc
      obtain ⟨hm, hs⟩ := hc
      rcases h with h | ⟨h1, h2⟩
      · exact Bool.noConfusion (h.symm.trans hm)
      · exact hs.elim h1 h2
    · exact congrArg Host.Outcome.next ((if_pos hu).trans (hsend .idle rfl hm hu))
    · refine congrArg Host.Outcome.next ?_
      by_cases hu : l.state = .up
      · exact (if_pos hu).trans (linkSend_mute _ (h.resolve_right (not_not.2 hu)))
      · exact if_neg hu
    · have e : exec (.linkSilence link) s = .next (linkDown s n 3 false) :=
        congrArg Host.Outcome.next (if_pos (by rw [hp, show (s.link link.toNat).state = _ from hu]; rfl))
      exact ⟨_, e, linkDown_downs s n 3 false, linkDown_only s n 3 false⟩
    · refine congrArg Host.Outcome.next (if_neg fun hc => ?_)
      simp only [Bool.and_eq_true, beq_iff_eq] at hc
      rcases h with h | h
      · exact Bool.noConfusion (h.symm.trans hc.1)
      · exact h hc.2
    · intro p
      have e : exec (.phyLock link level) s = .next (if !s.portAlive then p else if level then linkTrain p n
          else if (p.link n).state = .up then linkDown p n 1 false else p) := rfl
      have hs : (p.link n).state = l.state := by
        rw [modLink_self]
      refine ⟨fun h => ?_, fun h hl => ?_, fun h hl hu => ?_, fun h hl hu => ?_⟩
      · rw [e, h]
        rfl
      · subst hl
        rw [e, h, if_neg (by decide), if_pos rfl]
        refine congrArg Host.Outcome.next ?_
        refine (modLink_modLink s n _ _).trans (congrArg (s.modLink n) (funext fun l => ?_))
        by_cases hw : l.state = .waitPhy
        · simp [hw]
        · simp [hw]
      · subst hl
        rw [e, h, if_neg (by decide), if_neg Bool.false_ne_true, if_neg (by rw [hs]; exact hu)]
      · subst hl
        rw [h, if_neg (by decide), if_neg Bool.false_ne_true, if_pos (by rw [hs]; exact hu)] at e
        exact ⟨_, e, linkDown_downs p n 1 false, (linkDown_only p n 1 false).step (by decide) (Only.set_links (by decide) (.refl _ s))⟩
    · intro en x
      have e := exec_linkEnable hmay link enable
      obtain ⟨a, b, c⟩ := setLinkEnable_spec s n enable
      refine ⟨fun h => ?_, fun h he => ?_, fun h he hu => ?_, fun h he hu => ?_⟩
      · rw [e, if_neg (Nat.not_lt.2 h)]
      · rw [e, if_pos h]
        exact congrArg Host.Outcome.next (a he)
      · rw [e, if_pos h]
        exact congrArg Host.Outcome.next (b he hu)
      · rw [if_pos h, show setLinkEnable s link.toNat enable = _ from c he hu] at e
        exact ⟨_, e, linkDown_downs en n 4 true, (linkDown_only en n 4 true).step (by decide) (Only.set_links (by decide) (.refl _ s))⟩

end Sys2Proof.Machine
end

section
/-! SUPPORT. O53: how a twin becomes PRIMARY or HELD (R440 to R446). -/

namespace Sys2Proof.Machine

/-! ## Codes and entries -/

theorem twCode_tw (s : State) (code : BitVec 16) : (twCode s code).tw = { s.tw with lastCode := code } :=
  (chPulse_only { s with tw := { s.tw with lastCode := code } } _ _ _) .tw (by decide)

theorem twRelease_tw (s : State) (b : BitVec 48) (p : Nat) : (twRelease s b p).tw = { s.tw with relLast := b } :=
  (chPulse_only { s with tw := { s.tw with relLast := b } } _ _ _) .tw (by decide)

/-- Due beats go out in order while the gate is open (R440, R443). -/
theorem foldl_twRelease_tw (l : List (BitVec 48 × Nat)) (s : State) :
    (l.foldl (fun s e => if s.tw.gateClosed then s else twRelease s e.1 e.2) s).tw =
      { s.tw with relLast := if s.tw.gateClosed then s.tw.relLast else (l.getLast?.map Prod.fst).getD s.tw.relLast } := by
  induction l generalizing s with
  | nil =>
    rw [show (if s.tw.gateClosed then s.tw.relLast else ([].getLast?.map Prod.fst).getD s.tw.relLast) = s.tw.relLast from ite_self _]
    rfl
  | cons x l ih =>
    rw [List.foldl_cons, ih]
    cases hg : s.tw.gateClosed
    · rw [if_neg Bool.false_ne_true, twRelease_tw]
      dsimp only
      rw [hg, if_neg Bool.false_ne_true, if_neg Bool.false_ne_true]
      cases l with
      | nil => rfl
      | cons y l => rw [List.getLast?_cons_cons, List.getLast?_cons]; rfl
    · rw [if_pos rfl, hg, if_pos rfl, if_pos rfl]

/-- The state of a device that is PRIMARY from now on, before it releases what is due (R443). -/
def primaryBegun (s : State) : State :=
  { s with tw := { s.tw with state := .primary, elect := false, complete := [], heldYield := none, yielded := false } }

theorem twPrimary_eq (s : State) : twPrimary s = (s.tw.complete.filter fun e => beatAfter e.1 (lastReported s)).foldl
    (fun s e => if s.tw.gateClosed then s else twRelease s e.1 e.2) (primaryBegun s) := rfl

theorem twPrimary_tw (s : State) : (twPrimary s).tw = { s.tw with
    state := .primary, elect := false, complete := [], heldYield := none, yielded := false,
    relLast := if s.tw.gateClosed then s.tw.relLast
      else ((s.tw.complete.filter fun e => beatAfter e.1 (lastReported s)).getLast?.map Prod.fst).getD s.tw.relLast } := by
  rw [twPrimary_eq, foldl_twRelease_tw]
  rfl

/-- What a device that enters PRIMARY shows (R443). -/
theorem entersPrimary_of {s t : State} {last : BitVec 48} {code : BitVec 16} {witness live : Bool} {missed : BitVec 4} {p : Option Heartbeat}
    (h : t.tw = { s.tw with
      state := .primary, elect := false, complete := [], heldYield := none, yielded := false, lastCode := code,
      witness := witness, partnerLive := live, hbMissed := missed, partner := p,
      relLast := if s.tw.gateClosed then s.tw.relLast
        else ((s.tw.complete.filter fun e => beatAfter e.1 last).getLast?.map Prod.fst).getD s.tw.relLast })
    (ho : Only [.tw, .chime, .obs] s t) : EntersPrimary s t last := by
  unfold EntersPrimary
  dsimp only
  rw [h]
  exact ⟨rfl, rfl, rfl, rfl, rfl, rfl, ho⟩

theorem twTakeover_tw (s : State) : (twTakeover s).tw = { s.tw with
    state := .primary, elect := false, complete := [], heldYield := none, yielded := false, lastCode := Config.FAILOVER_TAKEN,
    relLast := if s.tw.gateClosed then s.tw.relLast
      else ((s.tw.complete.filter fun e => beatAfter e.1 (lastReported s)).getLast?.map Prod.fst).getD s.tw.relLast } :=
  (twCode_tw _ _).trans (by rw [twPrimary_tw])

theorem twHeld_tw (s : State) (denied : Bool) : (twHeld s denied).tw = { s.tw with
    state := .held, elect := false, lastCode := if denied then Config.RELEASE_DENIED else s.tw.lastCode } := by
  unfold twHeld
  dsimp only
  split
  · rw [twCode_tw]
  · rfl

theorem acceptYield_tw (s : State) (fault : Bool) (last : BitVec 48) : (acceptYield s fault last).tw = { s.tw with
    state := .primary, elect := false, complete := [], heldYield := none, yielded := false,
    lastCode := if fault then Config.FAILOVER_TAKEN else s.tw.lastCode,
    partner := s.tw.partner.map fun c => { c with lastRel := last },
    relLast := if s.tw.gateClosed then s.tw.relLast else ((s.tw.complete.filter fun e => beatAfter e.1
      (if s.tw.partner.isSome then last else s.tw.relLast)).getLast?.map Prod.fst).getD s.tw.relLast } := by
  have hl : lastReported { s with tw := { s.tw with partner := s.tw.partner.map fun c => { c with lastRel := last } } } =
      if s.tw.partner.isSome then last else s.tw.relLast := by
    unfold lastReported
    cases s.tw.partner <;> rfl
  have hp := twPrimary_tw { s with tw := { s.tw with partner := s.tw.partner.map fun c => { c with lastRel := last } } }
  rw [hl] at hp
  unfold acceptYield
  dsimp only
  split
  · rw [twCode_tw, hp]
  · exact hp

/-! ## Loss of the partner (R436, R441, R444) -/

theorem failoverArmed_of_run {s t : State} (h : t.run = s.run) : t.failoverArmed = s.failoverArmed := by
  unfold State.failoverArmed State.mirror
  rw [h]

/-- The loss of heartbeats as it is noted, before the device acts on it (R436). -/
def lossNoted (s : State) : State := twCode { s with tw := { s.tw with
  partnerLive := false, hbMissed := BitVec.ofNat 4 (min 15 s.hbMiss) } } Config.HEARTBEAT_LOST

theorem twLost_eq (s : State) : twLost s = twLossAct (lossNoted s) := rfl

theorem lossNoted_tw (s : State) : (lossNoted s).tw = { s.tw with
    partnerLive := false, hbMissed := BitVec.ofNat 4 (min 15 s.hbMiss), lastCode := Config.HEARTBEAT_LOST } := by
  unfold lossNoted
  rw [twCode_tw]

theorem lossNoted_only (s : State) : Only [.tw, .chime, .obs] s (lossNoted s) :=
  (twCode_only _ _).step (by decide) (Only.set_tw (by decide) (.refl _ s))

theorem lossNoted_ground (s : State) : (lossNoted s).witnessGround =
    (s.failoverArmed && s.tw.witnessUse && s.tw.witness && s.tw.inStepLast) := by
  unfold State.witnessGround
  rw [failoverArmed_of_run ((lossNoted_only s) .run (by decide)), lossNoted_tw]

theorem lossNoted_reported (s : State) : lastReported (lossNoted s) = lastReported s := by
  unfold lastReported
  rw [lossNoted_tw]

/-- What O53 says of a device that is HELD (R444). -/
def HeldDenied (s t : State) (denied : Prop) : Prop := t.tw.state = .held ∧ t.tw.elect = false ∧
  (denied → t.tw.lastCode = Config.RELEASE_DENIED) ∧ t.tw.relLast = s.tw.relLast ∧ Only [.tw, .chime, .obs] s t

theorem twLossAct_primary {v : State} (h : v.tw.state = .primary) :
    twLossAct v = if !v.tw.witnessUse || v.tw.witness then v else twHeld v true := by
  unfold twLossAct
  rw [h]

theorem twLossAct_waits {v : State} (h : v.tw.state = .secondary ∨ v.tw.state = .held) :
    twLossAct v = if v.witnessGround then twTakeover v else twHeld v v.failoverArmed := by
  unfold twLossAct
  rcases h with h | h <;> rw [h]

theorem twLossAct_keeps (v : State) :
    (twLossAct v).tw.partnerLive = v.tw.partnerLive ∧ (twLossAct v).tw.hbMissed = v.tw.hbMissed := by
  have hheld (b : Bool) : (twHeld v b).tw.partnerLive = v.tw.partnerLive ∧ (twHeld v b).tw.hbMissed = v.tw.hbMissed := by
    rw [twHeld_tw]
    exact ⟨rfl, rfl⟩
  have htake : (twTakeover v).tw.partnerLive = v.tw.partnerLive ∧ (twTakeover v).tw.hbMissed = v.tw.hbMissed := by
    rw [twTakeover_tw]
    exact ⟨rfl, rfl⟩
  unfold twLossAct
  split
  · split
    · exact ⟨rfl, rfl⟩
    · exact hheld true
  · split
    · exact htake
    · exact hheld _
  · split
    · exact htake
    · exact hheld _
  · exact ⟨rfl, rfl⟩
  · exact ⟨rfl, rfl⟩

/-- The loss of heartbeats moves each device as its state and its grounds say (R441, R444). -/
theorem twLost_spec (s : State) :
    let t := twLost s
    t.tw.partnerLive = false ∧ t.tw.hbMissed = BitVec.ofNat 4 (min 15 s.hbMiss) ∧ Only [.tw, .chime, .obs] s t ∧
    (s.tw.state = .primary → (s.tw.witnessUse = false ∨ s.tw.witness = true) → t.tw.state = .primary ∧
      t.tw.lastCode = Config.HEARTBEAT_LOST) ∧
    (s.tw.state = .primary → s.tw.witnessUse = true → s.tw.witness = false → HeldDenied s t True) ∧
    ((s.tw.state = .secondary ∨ s.tw.state = .held) →
      (s.failoverArmed = true ∧ s.tw.witnessUse = true ∧ s.tw.inStepLast = true) → s.tw.witness = true →
      EntersPrimary s t (lastReported s) ∧ t.tw.lastCode = Config.FAILOVER_TAKEN) ∧
    ((s.tw.state = .secondary ∨ s.tw.state = .held) →
      (¬(s.failoverArmed = true ∧ s.tw.witnessUse = true ∧ s.tw.inStepLast = true) ∨ s.tw.witness = false) →
      HeldDenied s t (s.failoverArmed = true)) ∧
    (s.tw.state = .paired → t.tw.state = .paired ∧ t.tw.elect = false) := by
  intro t
  have ht : t = twLossAct (lossNoted s) := twLost_eq s
  have htw := lossNoted_tw s
  have hfa : (lossNoted s).failoverArmed = s.failoverArmed := failoverArmed_of_run ((lossNoted_only s) .run (by decide))
  have hst : (lossNoted s).tw.state = s.tw.state := by rw [htw]
  have hground := lossNoted_ground s
  have hrep := lossNoted_reported s
  have hon : Only [.tw, .chime, .obs] s t := twLost_only s
  have hv := lossNoted_only s
  clear_value t
  subst ht
  obtain ⟨hlive, hmiss⟩ := twLossAct_keeps (lossNoted s)
  generalize lossNoted s = v at hon htw hfa hst hground hrep hv hlive hmiss ⊢
  have hheld (b : Bool) : HeldDenied s (twHeld v b) (b = true) := by
    have h := twHeld_tw v b
    exact ⟨by rw [h], by rw [h], fun hb => by rw [h, hb]; rfl, by rw [h, htw], (twHeld_only v b).step (by decide) hv⟩
  refine ⟨by rw [hlive, htw], by rw [hmiss, htw], hon, fun h hw => ?_, fun h hu hw => ?_, fun h hg hw => ?_, fun h hg => ?_, fun h => ?_⟩
  · rw [twLossAct_primary (hst.trans h), if_pos]
    · exact ⟨hst.trans h, by rw [htw]⟩
    · rw [htw]
      rcases hw with hw | hw <;> simp [hw]
  · rw [twLossAct_primary (hst.trans h), if_neg]
    · obtain ⟨a, b, c, d, e⟩ := hheld true
      exact ⟨a, b, fun _ => c rfl, d, e⟩
    · rw [htw]
      simp [hu, hw]
  · obtain ⟨h1, h2, h3⟩ := hg
    rw [twLossAct_waits (by rw [hst]; exact h), if_pos (by rw [hground, h1, h2, h3, hw]; rfl)] at hon ⊢
    have e := twTakeover_tw v
    rw [hrep, htw] at e
    exact ⟨entersPrimary_of e hon, by rw [e]⟩
  · rw [twLossAct_waits (by rw [hst]; exact h), if_neg]
    · rw [hfa]
      exact hheld _
    · rw [hground]
      intro hc
      simp only [Bool.and_eq_true] at hc
      obtain ⟨⟨⟨h1, h2⟩, h3⟩, h4⟩ := hc
      exact hg.elim (fun hn => hn ⟨h1, h2, h4⟩) fun hn => Bool.noConfusion (hn.symm.trans h3)
  · unfold twLossAct
    rw [hst, h]
    exact ⟨hst.trans h, rfl⟩

/-! ## Yields (R442, R446) -/

theorem acceptYield_enters (w : State) (fault : Bool) (last : BitVec 48) :
    EntersPrimary w (acceptYield w fault last) (if w.tw.partner.isSome then last else w.tw.relLast) ∧
      (fault = true → (acceptYield w fault last).tw.lastCode = Config.FAILOVER_TAKEN) := by
  have h := acceptYield_tw w fault last
  refine ⟨entersPrimary_of h (acceptYield_only w fault last), fun hf => ?_⟩
  rw [h, hf]
  rfl

/-- A yield that is not accepted leaves a waiting device HELD with a ground for CLAIM (R441, R444). -/
theorem twRefuseYield_held {w : State} (h : w.tw.state = .secondary ∨ w.tw.state = .held) (last : BitVec 48) :
    HeldDenied w (twRefuseYield (twReported w last)) True ∧ (twRefuseYield (twReported w last)).tw.yielded = true := by
  have e : twRefuseYield (twReported w last) = twHeld { twReported w last with tw := { (twReported w last).tw with yielded := true } } true := by
    have hs : (twReported w last).tw.state = w.tw.state := rfl
    unfold twRefuseYield
    rcases h with h | h <;> rw [hs, h]
  have ht := twHeld_tw { twReported w last with tw := { (twReported w last).tw with yielded := true } } true
  have ho : Only [.tw, .chime, .obs] w (twHeld { twReported w last with tw := { (twReported w last).tw with yielded := true } } true) :=
    (twHeld_only _ _).step (by decide) (Only.set_tw (by decide) ((twReported_only w last).wider (by decide)))
  rw [e]
  exact ⟨⟨by rw [ht], by rw [ht], fun _ => by rw [ht]; rfl, by rw [ht]; rfl, ho⟩, by rw [ht]⟩

theorem twYielded_paired {w : State} (h : w.tw.state = .paired) (kind : BitVec 8) (last : BitVec 48) : twYielded w kind last =
    if kind.toNat = 0 then (if w.matched then acceptYield w false last else w)
    else if kind.toNat = 2 ∧ w.failoverArmed = true ∧ w.inStep = true then acceptYield w true last else w := by
  unfold twYielded
  dsimp only
  rw [h]

/-- A waiting device and a yield that is no role resolution (R442, R446). -/
theorem twYielded_waits {w : State} (h : w.tw.state = .secondary ∨ w.tw.state = .held) {kind : BitVec 8} (hk : kind.toNat ≠ 0)
    (last : BitVec 48) : twYielded w kind last =
      if 3 < kind.toNat ∨ (kind.toNat = 2 ∧ w.failoverArmed = false) then twRefuseYield (twReported w last)
      else if w.inStep then acceptYield w (kind.toNat == 2) last
      else if w.inStepButSwap then { w with tw := { w.tw with heldYield := some (kind, last) } }
      else twRefuseYield (twReported w last) := by
  unfold twYielded
  dsimp only
  rcases h with h | h
  · rw [h]
    simp only [hk, false_or]
  · rw [h]
    simp only [hk, if_false]

theorem twYielded_role {w : State} {kind : BitVec 8} (hk : kind.toNat = 0) (last : BitVec 48) :
    (w.tw.state = .secondary → twYielded w kind last = twRefuseYield (twReported w last)) ∧
    (w.tw.state = .held → twYielded w kind last =
      if w.matched then acceptYield w false last else twRefuseYield (twReported w last)) := by
  unfold twYielded
  dsimp only
  refine ⟨fun h => ?_, fun h => ?_⟩
  · rw [h]
    exact if_pos (.inl hk)
  · rw [h]
    exact if_pos hk

theorem twRecoveryLost_waits {w : State} (h : w.tw.state = .secondary ∨ w.tw.state = .held) (last : BitVec 48) :
    twRecoveryLost w last = if w.failoverArmed && w.inStep then acceptYield w true last else twRefuseYield (twReported w last) := by
  unfold twRecoveryLost
  rcases h with h | h <;> rw [h]

theorem exec_yield_gone {s w : State} {h : FrameHdr} (e : rxSession s h = .gone w) (kind : BitVec 8) (last : BitVec 48) :
    exec (.yield h kind last) s = .next w ∧ exec (.recoveryLost h last) s = .next w := by
  constructor
  · change execYield h kind last s = _
    unfold execYield
    rw [e]
  · change execRecoveryLost h last s = _
    unfold execRecoveryLost
    rw [e]

theorem exec_yield_taken {s w : State} {h : FrameHdr} (e : rxSession s h = .taken w) (kind : BitVec 8) (last : BitVec 48) :
    exec (.yield h kind last) s = .next (if w.twActs then twYielded w kind last else w) ∧
      exec (.recoveryLost h last) s = .next (if w.twActs then twRecoveryLost w last else w) := by
  constructor
  · change execYield h kind last s = _
    unfold execYield
    rw [e]
  · change execRecoveryLost h last s = _
    unfold execRecoveryLost
    rw [e]

theorem twActs_iff (s : State) : s.twActs = true ↔ Running' s := by
  unfold State.twActs Running'
  simp

/-- What O53 says of yields and of a lost recovery controller (R442, R444 to R446). -/
theorem yields_act (s : State) (h : FrameHdr) (kind : BitVec 8) (last : BitVec 48) :
    let y : Instr := .yield h kind last
    let l : Instr := .recoveryLost h last
    let k := kind.toNat
    ∀ w, rxSession s h = .taken w → Running' w →
      let accepts (x : Instr) : Prop := Answers (exec x s) fun t => EntersPrimary w t (if w.tw.partner.isSome then last else w.tw.relLast)
      let refuses (x : Instr) : Prop := Answers (exec x s) fun t => HeldDenied w t True ∧ t.tw.yielded = true
      let waits : Prop := w.tw.state = .secondary ∨ w.tw.state = .held
      let fault : Prop := k = 2 ∧ w.failoverArmed = false
      (w.tw.state = .paired → k = 0 → w.matched = true → accepts y) ∧
      (w.tw.state = .paired → k = 0 → w.matched = false → exec y s = .next w) ∧
      (w.tw.state = .paired → k = 2 → w.failoverArmed = true → w.inStep = true → accepts y) ∧
      (w.tw.state = .paired → k ≠ 0 → (k ≠ 2 ∨ w.failoverArmed = false ∨ w.inStep = false) → exec y s = .next w) ∧
      (waits → k ≠ 0 → k ≤ 3 → ¬fault → w.inStep = true → accepts y) ∧
      (waits → k ≠ 0 → k ≤ 3 → ¬fault → w.inStep = false → w.inStepButSwap = true →
        exec y s = .next { w with tw := { w.tw with heldYield := some (kind, last) } }) ∧
      (waits → k ≠ 0 → k ≤ 3 → ¬fault → w.inStep = false → w.inStepButSwap = false → refuses y) ∧
      (waits → (3 < k ∨ fault) → refuses y) ∧
      (w.tw.state = .held → k = 0 → w.matched = true → accepts y) ∧
      ((w.tw.state = .secondary ∨ (w.tw.state = .held ∧ w.matched = false)) → k = 0 → refuses y) ∧
      (waits → w.failoverArmed = true → w.inStep = true → Answers (exec l s) fun t =>
        EntersPrimary w t (if w.tw.partner.isSome then last else w.tw.relLast) ∧ t.tw.lastCode = Config.FAILOVER_TAKEN) ∧
      (waits → (w.failoverArmed = false ∨ w.inStep = false) → refuses l) ∧
      (¬waits → exec l s = .next w ∧ (w.tw.state ≠ .paired → exec y s = .next w)) := by
  intro y l k w hw hrun accepts refuses waits fault
  obtain ⟨ey, el⟩ := exec_yield_taken hw kind last
  rw [if_pos ((twActs_iff w).2 hrun)] at ey el
  have haccept (b : Bool) (e : twYielded w kind last = acceptYield w b last) : accepts y :=
    ⟨_, ey.trans (congrArg Host.Outcome.next e), (acceptYield_enters w b last).1⟩
  have hrefuse (hwait : waits) (e : twYielded w kind last = twRefuseYield (twReported w last)) : refuses y :=
    ⟨_, ey.trans (congrArg Host.Outcome.next e), twRefuseYield_held hwait last⟩
  have hnext (e : twYielded w kind last = w) : exec y s = .next w := ey.trans (congrArg Host.Outcome.next e)
  have hbound (hk : k ≤ 3) (hf : ¬fault) : ¬(3 < kind.toNat ∨ (kind.toNat = 2 ∧ w.failoverArmed = false)) :=
    not_or.2 ⟨Nat.not_lt.2 hk, hf⟩
  refine ⟨fun hp hk hm => haccept false ?_, fun hp hk hm => hnext ?_, fun hp hk hf hi => haccept true ?_, fun hp hk h => hnext ?_,
    fun hwait hk hle hf hi => haccept (kind.toNat == 2) ?_, fun hwait hk hle hf hi hb => ?_, fun hwait hk hle hf hi hb => hrefuse hwait ?_,
    fun hwait hk => hrefuse hwait ?_, fun hh hk hm => haccept false ?_, fun hh hk => ?_, fun hwait hf hi => ?_, fun hwait h => ?_, fun hno => ⟨?_, fun hp => hnext ?_⟩⟩
  · rw [twYielded_paired hp, if_pos hk, if_pos hm]
  · rw [twYielded_paired hp, if_pos hk, if_neg (by simp [hm])]
  · rw [twYielded_paired hp, if_neg (by rw [show kind.toNat = 2 from hk]; decide), if_pos ⟨hk, hf, hi⟩]
  · rw [twYielded_paired hp, if_neg hk, if_neg]
    rintro ⟨h1, h2, h3⟩
    rcases h with h | h | h
    · exact h h1
    · exact Bool.noConfusion (h.symm.trans h2)
    · exact Bool.noConfusion (h.symm.trans h3)
  · rw [twYielded_waits hwait hk, if_neg (hbound hle hf), if_pos hi]
  · rw [twYielded_waits hwait hk, if_neg (hbound hle hf), if_neg (by simp [hi]), if_pos hb] at ey
    exact ey
  · rw [twYielded_waits hwait hk, if_neg (hbound hle hf), if_neg (by simp [hi]), if_neg (by simp [hb])]
  · have h0 : kind.toNat ≠ 0 := by
      rcases hk with hk | hk
      · exact Nat.ne_of_gt (Nat.lt_of_le_of_lt (Nat.zero_le _) hk)
      · rw [show kind.toNat = 2 from hk.1]
        decide
    rw [twYielded_waits hwait h0, if_pos hk]
  · rw [(twYielded_role hk last).2 hh, if_pos hm]
  · rcases hh with hh | ⟨hh, hm⟩
    · exact hrefuse (.inl hh) ((twYielded_role hk last).1 hh)
    · exact hrefuse (.inr hh) (((twYielded_role hk last).2 hh).trans (if_neg (by simp [hm])))
  · rw [twRecoveryLost_waits hwait, if_pos (by simp [hf, hi])] at el
    exact ⟨_, el, (acceptYield_enters w true last).1, (acceptYield_enters w true last).2 rfl⟩
  · rw [twRecoveryLost_waits hwait, if_neg (by rcases h with h | h <;> simp [h])] at el
    exact ⟨_, el, twRefuseYield_held hwait last⟩
  · refine el.trans (congrArg Host.Outcome.next ?_)
    unfold twRecoveryLost
    split
    · next h => exact absurd (.inl h) hno
    · next h => exact absurd (.inr h) hno
    · rfl
  · unfold twYielded
    dsimp only
    split
    · next h => exact absurd h hp
    · next h => exact absurd (.inl h) hno
    · next h => exact absurd (.inr h) hno
    · rfl

/-! ## The manager and the witness (R441, R444) -/

/-- A device that does not hear its partner acts on the witness as its state says (R441). -/
theorem exec_twWitness {s : State} (level : Bool) (h : Running' s) (hp : s.tw.partnerLive = false) :
    (s.tw.state = .primary → exec (.twWitness level) s = .next (if s.tw.witnessUse && !level then
      twHeld { s with tw := { s.tw with witness := level } } true else { s with tw := { s.tw with witness := level } })) ∧
    (s.tw.state = .held → exec (.twWitness level) s = .next (
      if level && ({ s with tw := { s.tw with witness := level } } : State).witnessGround then
        twTakeover { s with tw := { s.tw with witness := level } } else { s with tw := { s.tw with witness := level } })) := by
  have hport : ({ s with tw := { s.tw with witness := level } } : State).portAlive = s.portAlive := rfl
  have hin : twWitnessSet s level = match s.tw.state with
      | .primary => if s.tw.witnessUse && !level then twHeld { s with tw := { s.tw with witness := level } } true
        else { s with tw := { s.tw with witness := level } }
      | .held => if level && ({ s with tw := { s.tw with witness := level } } : State).witnessGround then
          twTakeover { s with tw := { s.tw with witness := level } } else { s with tw := { s.tw with witness := level } }
      | _ => { s with tw := { s.tw with witness := level } } := by
    unfold twWitnessSet
    dsimp only
    refine (if_neg (by rw [hport]; simp [hp, h.1])).trans ?_
    cases s.tw.state <;> rfl
  refine ⟨fun hs => congrArg Host.Outcome.next ((if_neg (by simp [h.2])).trans (hin.trans ?_)),
    fun hs => congrArg Host.Outcome.next ((if_neg (by simp [h.2])).trans (hin.trans ?_))⟩
  · split
    · rfl
    · next e => exact nomatch e.symm.trans hs
    · next e _ => exact absurd hs e
  · split
    · next e => exact nomatch e.symm.trans hs
    · rfl
    · next e => exact absurd hs e

theorem exec_twWitness_level {s : State} (level : Bool) (h : s.obs.halted = true ∨ s.tw.partnerLive = true ∨ s.portAlive = false ∨
    (s.tw.state ≠ .primary ∧ s.tw.state ≠ .held)) :
    exec (.twWitness level) s = .next { s with tw := { s.tw with witness := level } } := by
  refine congrArg Host.Outcome.next ?_
  by_cases hh : s.obs.halted = true
  · exact if_pos hh
  · refine (if_neg hh).trans ?_
    have hport : ({ s with tw := { s.tw with witness := level } } : State).portAlive = s.portAlive := rfl
    unfold twWitnessSet
    dsimp only
    rw [hport]
    split
    · rfl
    · next hn =>
      simp only [Bool.or_eq_true, Bool.not_eq_true', not_or] at hn
      have h' := ((h.resolve_left hh).resolve_left hn.1).resolve_left hn.2
      split
      · next e => exact absurd e h'.1
      · next e => exact absurd e h'.2
      · rfl

/-- Settles O53: a yield, the witness or CLAIM makes a device PRIMARY on its grounds alone, and the loss of the partner moves it
as its state says. -/
theorem twinsTakeOverOnGrounds : Obligations.TwinsTakeOverOnGrounds := by
  unfold Obligations.TwinsTakeOverOnGrounds
  intro ground heldDenied
  refine ⟨fun s who hmay => ?_, fun s => ⟨fun h => ?_, fun ha hrun hk => ?_⟩, fun s level => ?_, fun s h kind last => ?_⟩
  · have e1 : exec (.handover who) s = .next (twHandoverReq s) := congrArg Host.Outcome.next (hostWrite_may hmay TW_CMD false _ (by decide) rfl)
    have e2 : exec (.claim who) s = .next (twClaim s) := congrArg Host.Outcome.next (hostWrite_may hmay TW_CMD false _ (by decide) rfl)
    refine ⟨fun h => e1.trans (congrArg Host.Outcome.next (if_pos h)), fun h => e1.trans (congrArg Host.Outcome.next (if_neg h)),
      fun h => e2.trans (congrArg Host.Outcome.next (if_neg h)), fun h => ?_⟩
    intro may
    unfold twClaim at e2
    rw [if_pos h] at e2
    have hiff : (s.tw.yielded || (s.tw.witnessUse && s.tw.witness && !s.tw.partnerLive)) = true ↔ may := by
      simp only [Bool.or_eq_true, Bool.and_eq_true, Bool.not_eq_true', and_assoc]
      exact Iff.rfl
    refine ⟨fun hm => ?_, fun hm => e2.trans (congrArg Host.Outcome.next (if_neg (mt hiff.1 hm)))⟩
    rw [if_pos (hiff.2 hm)] at e2
    exact ⟨_, e2, entersPrimary_of (twPrimary_tw s) (twPrimary_only s)⟩
  · refine congrArg Host.Outcome.next (if_neg fun hc => ?_)
    simp only [Bool.and_eq_true, Bool.not_eq_true'] at hc
    obtain ⟨⟨ha, hr⟩, hk⟩ := hc
    rcases h with h | h | h
    · exact Bool.noConfusion (h.symm.trans ha)
    · exact h ((twActs_iff s).1 hr)
    · exact Bool.noConfusion (hk.symm.trans h)
  · have e : exec .heartbeatLost s = .next (twLost s) :=
      congrArg Host.Outcome.next (if_pos (by rw [ha, (twActs_iff s).2 hrun, hk]; rfl))
    exact ⟨_, e, twLost_spec s⟩
  · intro set
    refine ⟨exec_twWitness_level level, fun hrun hp => ?_⟩
    obtain ⟨e1, e2⟩ := exec_twWitness level hrun hp
    have ho : Only [.tw, .chime, .obs] s set := Only.set_tw (by decide) (.refl _ s)
    refine ⟨fun h hu hl => ?_, fun h hu => ?_, fun h hg hl => ?_, fun h hg => ?_⟩
    · subst hl
      have e := e1 h
      rw [hu, if_pos (by decide)] at e
      have ht := twHeld_tw { s with tw := { s.tw with witness := false } } true
      exact ⟨_, e, ⟨by rw [ht], by rw [ht], fun _ => by rw [ht]; rfl, by rw [ht],
        (twHeld_only _ _).step (by decide) (Only.set_tw (by decide) (.refl _ s))⟩, by rw [ht]⟩
    · refine (e1 h).trans (congrArg Host.Outcome.next (if_neg ?_))
      rcases hu with hu | hu <;> simp [hu]
    · obtain ⟨h1, h2, h3⟩ := hg
      have e := e2 h
      rw [if_pos (by
        rw [hl]
        change (s.failoverArmed && s.tw.witnessUse && true && s.tw.inStepLast) = true
        rw [h1, h2, h3]
        rfl)] at e
      have ht := twTakeover_tw { s with tw := { s.tw with witness := level } }
      exact ⟨_, e, entersPrimary_of ht ((twTakeover_only _).step (by decide) ho), by rw [ht], by rw [ht]; exact hl⟩
    · refine (e2 h).trans (congrArg Host.Outcome.next (if_neg fun hc => ?_))
      change (level && (s.failoverArmed && s.tw.witnessUse && level && s.tw.inStepLast)) = true at hc
      simp only [Bool.and_eq_true] at hc
      obtain ⟨hl, ⟨⟨h1, h2⟩, -⟩, h3⟩ := hc
      exact hg.elim (fun hn => hn ⟨h1, h2, h3⟩) fun hn => Bool.noConfusion (hn.symm.trans hl)
  · intro y l k
    refine ⟨fun w h => ?_, yields_act s h kind last⟩
    rcases h with h | ⟨h, hn⟩
    · exact exec_yield_gone h kind last
    · have e := exec_yield_taken h kind last
      rw [if_neg (mt (twActs_iff w).1 hn), if_neg (mt (twActs_iff w).1 hn)] at e
      exact e

end Sys2Proof.Machine
end

section
/-! SUPPORT. O52: how twins pair, authenticate and resolve their roles (R433 to R445). -/

namespace Sys2Proof.Machine

/-! ## PAIR and the exchange (R433, R434) -/

theorem linkSend_keeps {s : State} {n : Nat} {m : LinkMsg} (h : Queued s n m) (k : Nat) (x : LinkMsg) : Queued (linkSend s k x) n m := by
  by_cases hk : n = k
  · subst hk
    have hh : (s.link n).holds m := h
    change ((linkSend s n x).link n).holds m
    unfold linkSend
    dsimp only
    split
    · exact hh
    · split
      · split
        · exact hh
        · rw [State.setLink_link]
          exact hh
      · split
        · rw [State.setLink_link]
          exact pump_holds _ (hh.imp_left fun h => List.mem_append_left _ h)
        · exact hh
  · unfold Queued
    rw [linkSend_link_ne s k x hk]
    exact h

/-- The device has been asked to pair (R433). -/
def pairAsked (s : State) : State := { s with tw := { s.tw with pairReq := true } }

/-- PAIR leaves WITNESS_USE as it stands (R433). -/
theorem setTwCtl_pair (s : State) :
    setTwCtl s (BitVec.ofNat 64 (1 + 2 * b2n s.tw.witnessUse)) = twStart (pairAsked s) := by
  have h0 : bitAt (BitVec.ofNat 64 (1 + 2 * b2n s.tw.witnessUse)).toNat 0 = true := by cases s.tw.witnessUse <;> rfl
  have h1 : bitAt (BitVec.ofNat 64 (1 + 2 * b2n s.tw.witnessUse)).toNat 1 = s.tw.witnessUse := by cases s.tw.witnessUse <;> rfl
  unfold setTwCtl
  rw [h1, h0]
  have he : (if s.tw.state = .unpaired then { s with tw := { s.tw with witnessUse := s.tw.witnessUse } } else s) = s := ite_self _
  rw [he]
  rfl

/-- An exchange that begins has sent its HELLO (R433). -/
theorem twExchange_spec {s : State} (hl : (s.link 0).state = .up) :
    (twExchange s).tw.state = s.tw.state ∧ (twExchange s).tw.pairReq = s.tw.pairReq ∧ (twExchange s).tw.authed = false ∧
      (s.maySend 0 = true → Queued (twExchange s) 0 .hello) := by
  obtain ⟨c, h1⟩ := linkSend_tw (exchangeBegun s) 0 .hello
  obtain ⟨d, h2⟩ := linkSend_tw (linkSend (exchangeBegun s) 0 .hello) 0 .proof
  have hq (hm : s.maySend 0 = true) : Queued (linkSend (exchangeBegun s) 0 .hello) 0 .hello :=
    linkSend_queued (s := exchangeBegun s) hm rfl hl
  rw [twExchange_eq]
  split
  · rw [h2, h1]
    exact ⟨rfl, rfl, rfl, fun hm => linkSend_keeps (hq hm) _ _⟩
  · rw [h1]
    exact ⟨rfl, rfl, rfl, hq⟩

theorem exec_pair {s : State} {who : Who} (hmay : ManagerMay s who) : exec (.pair who) s = .next (twStart (pairAsked s)) := by
  refine congrArg Host.Outcome.next ((hostWrite_may hmay TW_CTL false _ (by decide) rfl).trans (setTwCtl_pair s))

theorem exec_unpair {s : State} {who : Who} (hmay : ManagerMay s who) : exec (.unpair who) s = .next (twUnpairCmd s) :=
  congrArg Host.Outcome.next (hostWrite_may hmay TW_CMD false _ (by decide) rfl)

theorem exec_hello_gone {s w : State} {h : FrameHdr} (d : Digest) (e : rxTwin s h 4 = .gone w) : exec (.hello h d) s = .next w := by
  change execHello h d s = _
  unfold execHello
  rw [e]

/-- The partner's HELLO has come (R434). -/
def helloHeard (w : State) (d : Digest) : State := { w with tw := { w.tw with helloSeen := true, partnerDigest := d } }

theorem exec_hello_taken {s w : State} {h : FrameHdr} (d : Digest) (e : rxTwin s h 4 = .taken w) : exec (.hello h d) s =
    .next (if w.twActs then (if w.exchanging then linkSend (helloHeard w d) 0 .proof else helloHeard w d) else w) := by
  change execHello h d s = _
  unfold execHello
  rw [e]
  dsimp only
  split <;> rfl

theorem exec_proof_gone {s w : State} {h : FrameHdr} (d : Digest) (ok : Bool) (ns : BitVec 16) (e : rxTwin s h 105 = .gone w) :
    exec (.proof h d ok ns) s = .next w := by
  change execProof h d ok ns s = _
  unfold execProof
  rw [e]

theorem exec_proof_taken {s w : State} {h : FrameHdr} (d : Digest) (ok : Bool) (ns : BitVec 16) (e : rxTwin s h 105 = .taken w) :
    exec (.proof h d ok ns) s = .next (if w.twActs then twProved w d ok ns else w) := by
  change execProof h d ok ns s = _
  unfold execProof
  rw [e]

theorem exec_heartbeat_gone {s w : State} {h : FrameHdr} (c : Heartbeat) (e : rxTwin s h 1 = .gone w) :
    exec (.heartbeat h c) s = .next w := by
  change execHeartbeat h c s = _
  unfold execHeartbeat
  rw [e]

theorem exec_heartbeat_auth {s v : State} {h : FrameHdr} (c : Heartbeat) (e : rxTwin s h 1 = .taken v) :
    (∀ w, rxAuth v h false = .gone w → exec (.heartbeat h c) s = .next (twMissed w)) ∧
    (∀ w, rxAuth v h false = .taken w → exec (.heartbeat h c) s = .next (if w.twActs then twHeartbeat w c else w)) := by
  refine ⟨fun w e' => ?_, fun w e' => ?_⟩
  all_goals
    change execHeartbeat h c s = _
    unfold execHeartbeat
    rw [e]
    dsimp only
    rw [e']

/-- A PROOF that fails ends the pairing with an alarm of source 4 (R434, R521). -/
theorem proof_fails {w : State} (h : w.portAlive = true) : (tamperRaise (twUnpair w) 4).tw.state = .unpaired ∧
    (tamperRaise (twUnpair w) 4).tw.authed = false ∧ (tamperRaise (twUnpair w) 4).tw.pairReq = false ∧
    Alarmed w (tamperRaise (twUnpair w) 4) 4 := by
  have ht : (tamperRaise (twUnpair w) 4).tw = (twUnpair w).tw := tamperRaise_only (twUnpair w) 4 .tw (by decide)
  have ha : Alarmed (twUnpair w) (tamperRaise (twUnpair w) 4) 4 := tamperRaise_alarmed 4 h
  rw [ht]
  exact ⟨rfl, rfl, rfl, ha⟩

/-! ## Heartbeats (R436 to R438, R443 to R445) -/

/-- The state in which the partner has been heard, before alignment and roles are looked at (R436, R443). -/
def partnerHeard (s : State) (c : Heartbeat) : State :=
  { s with tw := { s.tw with
    partnerLive := true, hbMissed := 0#4, partner := some c, partnerState := c.state,
    complete := s.tw.complete.filter fun e => beatAfter e.1 c.lastRel,
    yielded := s.tw.yielded && c.state != 3#3 } }

/-- What alignment makes of the twin at a phase error (R437). -/
theorem twPhase_tw (s : State) (c : Heartbeat) : ∃ l, (twPhase s c).tw = { s.tw with
    aligned := if s.tw.state = .secondary then s.tw.aligned && decide (s.phaseError c ≤ 5000) else decide (s.phaseError c ≤ 1000),
    lengthen := l,
    realign := if s.tw.state = .secondary ∧ (s.tw.aligned && decide (5000 < s.phaseError c)) = true then satInc s.tw.realign else s.tw.realign } := by
  unfold twPhase
  dsimp only
  by_cases h : s.tw.state = .secondary
  · rw [if_pos h, if_pos h]
    by_cases hp : (s.tw.aligned && decide (5000 < s.phaseError c)) = true
    · rw [if_pos hp, if_pos ⟨h, hp⟩]
      simp only [Bool.and_eq_true, decide_eq_true_eq] at hp
      refine ⟨true, ?_⟩
      rw [decide_eq_false (Nat.not_le.2 hp.2), Bool.and_false]
    · rw [if_neg hp, if_neg fun hc => hp hc.2]
      refine ⟨s.tw.lengthen, ?_⟩
      have ha : (s.tw.aligned && decide (s.phaseError c ≤ 5000)) = s.tw.aligned := by
        simp only [Bool.and_eq_true, decide_eq_true_eq, not_and, Nat.not_lt] at hp
        cases e : s.tw.aligned
        · rfl
        · simp [hp e]
      rw [ha]
  · rw [if_neg h, if_neg h, if_neg fun hc => h hc.1]
    exact ⟨s.tw.lengthen, rfl⟩

/-- The state in which roles are resolved: the partner heard, the alignment seen, IN_STEP noted. -/
def beforeResolve (w : State) (c : Heartbeat) : State :=
  { twPhase (partnerHeard w c) c with tw := { (twPhase (partnerHeard w c) c).tw with inStepLast := (twPhase (partnerHeard w c) c).inStep } }

theorem twHeartbeat_eq (w : State) (c : Heartbeat) : twHeartbeat w c = twResolve (beforeResolve w c) := rfl

theorem beforeResolve_only (w : State) (c : Heartbeat) : Only [.tw] w (beforeResolve w c) :=
  Only.set_tw (by decide) ((twPhase_only _ _).step (by decide) (Only.set_tw (by decide) (.refl _ w)))

theorem beforeResolve_tw (w : State) (c : Heartbeat) : ∃ l i, (beforeResolve w c).tw = { w.tw with
    partnerLive := true, hbMissed := 0#4, partner := some c, partnerState := c.state,
    complete := w.tw.complete.filter fun e => beatAfter e.1 c.lastRel,
    yielded := w.tw.yielded && c.state != 3#3,
    aligned := if w.tw.state = .secondary then w.tw.aligned && decide ((partnerHeard w c).phaseError c ≤ 5000)
      else decide ((partnerHeard w c).phaseError c ≤ 1000),
    lengthen := l, inStepLast := i,
    realign := if w.tw.state = .secondary ∧ (w.tw.aligned && decide (5000 < (partnerHeard w c).phaseError c)) = true then
      satInc w.tw.realign else w.tw.realign } := by
  obtain ⟨l, e⟩ := twPhase_tw (partnerHeard w c) c
  refine ⟨l, (twPhase (partnerHeard w c) c).inStep, ?_⟩
  unfold beforeResolve
  dsimp only
  rw [e]
  rfl

theorem matched_of {s t : State} (hr : t.run = s.run) (he : t.esc = s.esc) (ha : t.tw.authed = s.tw.authed)
    (hl : t.tw.partnerLive = s.tw.partnerLive) (hp : t.tw.partner = s.tw.partner) : t.matched = s.matched := by
  unfold State.matched State.mirror State.ownSwap State.isMirrored
  rw [hr, he, ha, hl, hp]

theorem winsRole_iff {w r : State} {c : Heartbeat} (hr : r.run = w.run) (hs : r.sec = w.sec) (hp : r.tw.partner = some c)
    (hd : r.tw.partnerDigest = w.tw.partnerDigest) : r.winsRole = true ↔ winsAgainst w c := by
  have hown : r.ownRole = w.ownRole := by
    unfold State.ownRole State.mirror
    rw [hr]
  have hpart : r.partnerRole = c.role := by
    unfold State.partnerRole
    rw [hp]
  unfold State.winsRole winsAgainst
  rw [hown, hpart, hs, hd]
  by_cases h : w.ownRole = c.role
  · rw [if_pos h, decide_eq_true_eq]
    refine ⟨fun h1 => .inr ⟨h, h1⟩, fun h1 => ?_⟩
    rcases h1 with ⟨h2, h3⟩ | h1
    · exact Bool.noConfusion (h2.symm.trans (h.trans h3))
    · exact h1.2
  · rw [if_neg h]
    cases ho : w.ownRole <;> cases hc : c.role <;> simp_all

theorem twSecondary_tw (s : State) (k : BitVec 8) : ∃ x, (twSecondary s k).tw = { s.tw with
    state := .secondary, elect := false, aligned := false, lengthen := true, yielded := false, txCtr := x } := by
  obtain ⟨x, e⟩ := linkSend_tw { s with tw := { s.tw with
    state := .secondary, elect := false, aligned := false, lengthen := true, yielded := false } } 0 (.yield k s.tw.relLast)
  exact ⟨x, e⟩

/-- A device that meets its better enters SECONDARY and yields (R437, R444). -/
theorem twSecondary_enters {w r : State} (hl : r.link 0 = w.link 0) (hm : r.maySend 0 = w.maySend 0)
    (hr : r.tw.relLast = w.tw.relLast) : EntersSecondary w (twSecondary r 0#8) := by
  obtain ⟨x, e⟩ := twSecondary_tw r 0#8
  unfold EntersSecondary
  rw [e]
  refine ⟨rfl, rfl, rfl, rfl, rfl, fun hu hs => ?_⟩
  rw [← hr]
  exact linkSend_queued (s := { r with tw := { r.tw with
    state := .secondary, elect := false, aligned := false, lengthen := true, yielded := false } }) (hm.trans hs) rfl
      ((congrArg Link.state hl).trans hu)

/-! ### How the roles resolve (R444, R445) -/

section
variable {r : State}

theorem twResolve_unmatched (h : r.matched = false) : twResolve r = r := if_pos (by rw [h]; rfl)

theorem twResolve_paired (h : r.matched = true) (hs : r.tw.state = .paired) : twResolve r =
    if r.tw.partnerState.toNat = 3 then twSecondary r 0#8
    else if r.winsRole then { r with tw := { r.tw with elect := true } } else twSecondary r 0#8 := by
  refine (if_neg (by rw [h]; decide)).trans ?_
  rw [hs]

theorem twResolve_held (h : r.matched = true) (hs : r.tw.state = .held) : twResolve r =
    if r.tw.partnerState.toNat = 3 then twSecondary r 0#8
    else if r.tw.partnerState.toNat = 2 ∨ r.tw.partnerState.toNat = 5 then
      (if r.winsRole then { r with tw := { r.tw with state := .paired, elect := true } } else twSecondary r 0#8)
    else r := by
  refine (if_neg (by rw [h]; decide)).trans ?_
  rw [hs]

theorem twResolve_secondary (h : r.matched = true) (hs : r.tw.state = .secondary) : twResolve r =
    if r.tw.partnerState.toNat = 5 then twYield r 0#8 else r := by
  refine (if_neg (by rw [h]; decide)).trans ?_
  rw [hs]

theorem twResolve_primary (h : r.matched = true) (hs : r.tw.state = .primary) : twResolve r =
    if r.tw.partnerState.toNat = 3 ∧ r.winsRole = false then twSecondary (twCode r Config.RELEASE_DENIED) 0#8 else r := by
  refine (if_neg (by rw [h]; decide)).trans ?_
  rw [hs]

theorem twResolve_other (h : r.matched = true) (hs : r.tw.state = .unpaired ∨ r.tw.state = .auth ∨ r.tw.state = .stopped) :
    twResolve r = r := by
  refine (if_neg (by rw [h]; decide)).trans ?_
  rcases hs with hs | hs | hs <;> rw [hs]

end

/-- What role resolution may change of the twin: a device that enters SECONDARY aligns anew, another keeps its alignment. -/
def Resolved (x y : Tw) : Prop := ∃ st el al le yi la tx,
  y = { x with state := st, elect := el, aligned := al, lengthen := le, yielded := yi, lastCode := la, txCtr := tx } ∧
    ((st = .secondary ∧ x.state ≠ .secondary) ∨ al = x.aligned)

theorem Resolved.refl (x : Tw) : Resolved x x := ⟨_, _, _, _, _, _, _, rfl, .inr rfl⟩

theorem twSecondary_resolved {r : State} (h : r.tw.state ≠ .secondary) : Resolved r.tw (twSecondary r 0#8).tw := by
  obtain ⟨x, e⟩ := twSecondary_tw r 0#8
  exact ⟨_, _, _, _, _, _, _, e, .inl ⟨rfl, h⟩⟩

theorem twResolve_resolved (r : State) : Resolved r.tw (twResolve r).tw := by
  cases h : r.matched
  · rw [twResolve_unmatched h]
    exact .refl _
  · cases hs : r.tw.state with
    | paired =>
      have hne : r.tw.state ≠ .secondary := by rw [hs]; exact fun h => nomatch h
      rw [twResolve_paired h hs]
      split
      · exact twSecondary_resolved hne
      · split
        · exact ⟨_, _, _, _, _, _, _, rfl, .inr rfl⟩
        · exact twSecondary_resolved hne
    | held =>
      have hne : r.tw.state ≠ .secondary := by rw [hs]; exact fun h => nomatch h
      rw [twResolve_held h hs]
      split
      · exact twSecondary_resolved hne
      · split
        · split
          · exact ⟨_, _, _, _, _, _, _, rfl, .inr rfl⟩
          · exact twSecondary_resolved hne
        · exact .refl _
    | secondary =>
      rw [twResolve_secondary h hs]
      split
      · obtain ⟨x, e⟩ := linkSend_tw r 0 (.yield 0#8 r.tw.relLast)
        exact ⟨_, _, _, _, _, _, _, e, .inr rfl⟩
      · exact .refl _
    | primary =>
      rw [twResolve_primary h hs]
      split
      · obtain ⟨x, e⟩ := twSecondary_tw (twCode r Config.RELEASE_DENIED) 0#8
        rw [twCode_tw] at e
        exact ⟨_, _, _, _, _, _, _, e, .inl ⟨rfl, by rw [hs]; exact fun h => nomatch h⟩⟩
      · exact .refl _
    | unpaired =>
      rw [twResolve_other h (.inl hs)]
      exact .refl _
    | auth =>
      rw [twResolve_other h (.inr (.inl hs))]
      exact .refl _
    | stopped =>
      rw [twResolve_other h (.inr (.inr hs))]
      exact .refl _

/-- What a valid heartbeat does (R436 to R438, R443 to R445). -/
theorem twHeartbeat_spec (w : State) (c : Heartbeat) :
    let t := twHeartbeat w c
    let heard : State := { w with tw := { w.tw with partnerLive := true, partner := some c } }
    let e := heard.phaseError c
    let p := c.state.toNat
    t.tw.partnerLive = true ∧ t.tw.hbMissed = 0#4 ∧ t.tw.partner = some c ∧ t.tw.partnerState = c.state ∧
    t.tw.complete = w.tw.complete.filter (fun e => beatAfter e.1 c.lastRel) ∧ Only [.tw, .links, .chime, .obs] w t ∧
    (t.tw.state = w.tw.state → w.tw.state = .secondary → t.tw.aligned = (w.tw.aligned && decide (e ≤ 5000)) ∧
      t.tw.realign = (if w.tw.aligned && decide (5000 < e) then satInc w.tw.realign else w.tw.realign)) ∧
    (t.tw.state = w.tw.state → w.tw.state ≠ .secondary → t.tw.aligned = decide (e ≤ 1000)) ∧
    (heard.matched = false → t.tw.state = w.tw.state ∧ t.tw.elect = w.tw.elect ∧ t.links = w.links) ∧
    (heard.matched = true →
      (w.tw.state = .paired → (p = 3 ∨ ¬winsAgainst w c) → EntersSecondary w t) ∧
      (w.tw.state = .paired → p ≠ 3 → winsAgainst w c → t.tw.state = .paired ∧ t.tw.elect = true) ∧
      (w.tw.state = .held → (p = 3 ∨ ((p = 2 ∨ p = 5) ∧ ¬winsAgainst w c)) → EntersSecondary w t) ∧
      (w.tw.state = .held → (p = 2 ∨ p = 5) → winsAgainst w c → t.tw.state = .paired ∧ t.tw.elect = true) ∧
      (w.tw.state = .held → p ≠ 2 → p ≠ 3 → p ≠ 5 → t.tw.state = .held) ∧
      (w.tw.state = .secondary → t.tw.state = .secondary ∧ (p = 5 → (w.link 0).state = .up → w.maySend 0 = true → Queued t 0 (.yield 0#8 w.tw.relLast))) ∧
      (w.tw.state = .primary → p = 3 → ¬winsAgainst w c → EntersSecondary w t ∧ t.tw.lastCode = Config.RELEASE_DENIED) ∧
      (w.tw.state = .primary → (p ≠ 3 ∨ winsAgainst w c) → t.tw.state = .primary) ∧
      ((w.tw.state = .unpaired ∨ w.tw.state = .auth ∨ w.tw.state = .stopped) → t.tw.state = w.tw.state)) := by
  intro t heard e p
  have ht : t = twResolve (beforeResolve w c) := twHeartbeat_eq w c
  have hon : Only [.tw, .links, .chime, .obs] w t := twHeartbeat_only w c
  obtain ⟨l, i, htw⟩ := beforeResolve_tw w c
  have hr := beforeResolve_only w c
  have hm : (beforeResolve w c).matched = heard.matched :=
    matched_of (hr .run (by decide)) (hr .esc (by decide)) (by rw [htw]) (by rw [htw]) (by rw [htw])
  have hwins : (beforeResolve w c).winsRole = true ↔ winsAgainst w c :=
    winsRole_iff (hr .run (by decide)) (hr .sec (by decide)) (by rw [htw]) (by rw [htw])
  have hlink : (beforeResolve w c).link 0 = w.link 0 := congrArg (tget _ · 0) (hr .links (by decide))
  have hmay : (beforeResolve w c).maySend 0 = w.maySend 0 := by
    unfold State.maySend
    rw [show (beforeResolve w c).boot = w.boot from hr .boot (by decide), show (beforeResolve w c).obs = w.obs from hr .obs (by decide)]
  have hres := twResolve_resolved (beforeResolve w c)
  have hpe : (partnerHeard w c).phaseError c = e := rfl
  rw [hpe] at htw
  clear_value t
  subst ht
  generalize beforeResolve w c = r at hon htw hr hm hwins hlink hmay hres ⊢
  have hst : r.tw.state = w.tw.state := by rw [htw]
  have hps : r.tw.partnerState.toNat = p := by rw [htw]
  have hrl : r.tw.relLast = w.tw.relLast := by rw [htw]
  have hsec : EntersSecondary w (twSecondary r 0#8) := twSecondary_enters hlink hmay hrl
  obtain ⟨st, el, al, le, yi, la, tx, hy, hal⟩ := hres
  refine ⟨by rw [hy, htw], by rw [hy, htw], by rw [hy, htw], by rw [hy, htw], by rw [hy, htw], hon, fun _ hs => ?_, fun hsame hs => ?_,
    fun hn => ?_, fun hmt => ?_⟩
  · have ha : al = r.tw.aligned := hal.resolve_left fun h => h.2 (hst.trans hs)
    rw [hy, ha, htw]
    dsimp only
    refine ⟨if_pos hs, ?_⟩
    simp only [hs, true_and]
  · have hst' : st = w.tw.state := by
      rw [hy] at hsame
      exact hsame
    have ha : al = r.tw.aligned := hal.resolve_left fun h => hs (hst' ▸ h.1)
    rw [hy, ha, htw]
    exact if_neg hs
  · rw [twResolve_unmatched (hm.trans hn)]
    exact ⟨hst, by rw [htw], hr .links (by decide)⟩
  · have hmr : r.matched = true := hm.trans hmt
    have hnw (h : ¬winsAgainst w c) : r.winsRole = false := Bool.eq_false_iff.2 (mt hwins.1 h)
    refine ⟨fun hs h => ?_, fun hs hp hw => ?_, fun hs h => ?_, fun hs h hw => ?_, fun hs h2 h3 h5 => ?_, fun hs => ?_, fun hs hp hw => ?_,
      fun hs h => ?_, fun hs => ?_⟩
    · rw [twResolve_paired hmr (hst.trans hs), hps]
      by_cases h3 : p = 3
      · rw [if_pos h3]
        exact hsec
      · rw [if_neg h3, if_neg (by rw [hnw (h.resolve_left h3)]; exact Bool.false_ne_true)]
        exact hsec
    · rw [twResolve_paired hmr (hst.trans hs), hps, if_neg hp, if_pos (hwins.2 hw)]
      exact ⟨hst.trans hs, rfl⟩
    · rw [twResolve_held hmr (hst.trans hs), hps]
      by_cases h3 : p = 3
      · rw [if_pos h3]
        exact hsec
      · obtain ⟨h25, hw⟩ := h.resolve_left h3
        rw [if_neg h3, if_pos h25, if_neg (by rw [hnw hw]; exact Bool.false_ne_true)]
        exact hsec
    · rw [twResolve_held hmr (hst.trans hs), hps, if_neg (by rcases h with h | h <;> rw [h] <;> decide), if_pos h, if_pos (hwins.2 hw)]
      exact ⟨rfl, rfl⟩
    · rw [twResolve_held hmr (hst.trans hs), hps, if_neg h3, if_neg (not_or.2 ⟨h2, h5⟩)]
      exact hst.trans hs
    · rw [twResolve_secondary hmr (hst.trans hs), hps]
      by_cases h5 : p = 5
      · rw [if_pos h5]
        obtain ⟨x, hx⟩ := linkSend_tw r 0 (.yield 0#8 r.tw.relLast)
        refine ⟨(congrArg Tw.state hx).trans (hst.trans hs), fun _ hu hm' => ?_⟩
        rw [← hrl]
        exact linkSend_queued (m := .yield 0#8 r.tw.relLast) (hmay.trans hm') rfl ((congrArg Link.state hlink).trans hu)
      · rw [if_neg h5]
        exact ⟨hst.trans hs, fun h => absurd h h5⟩
    · rw [twResolve_primary hmr (hst.trans hs), hps, if_pos ⟨hp, hnw hw⟩]
      have hc := twCode_only r Config.RELEASE_DENIED
      have hct := twCode_tw r Config.RELEASE_DENIED
      have hch : (twCode r Config.RELEASE_DENIED).maySend 0 = r.maySend 0 := by
        unfold State.maySend
        rw [show (twCode r Config.RELEASE_DENIED).boot = r.boot from hc .boot (by decide),
          show (twCode r Config.RELEASE_DENIED).obs.halted = r.obs.halted from
            (chPulse_reports { r with tw := { r.tw with lastCode := Config.RELEASE_DENIED } } _ _ _).halted]
      refine ⟨twSecondary_enters ((congrArg (tget _ · 0) (hc .links (by decide))).trans hlink) (hch.trans hmay) (by rw [hct]; exact hrl), ?_⟩
      obtain ⟨x, hx⟩ := twSecondary_tw (twCode r Config.RELEASE_DENIED) 0#8
      rw [hx, hct]
    · rw [twResolve_primary hmr (hst.trans hs), hps, if_neg]
      · exact hst.trans hs
      · rintro ⟨h3, hf⟩
        rcases h with h | h
        · exact h h3
        · exact Bool.noConfusion (hf.symm.trans (hwins.2 h))
    · rw [twResolve_other hmr (by rw [hst]; exact hs)]
      exact hst

/-- Settles O52: the exchange, the roles and the heartbeats of a pair. -/
theorem twinsPairAndResolve : Obligations.TwinsPairAndResolve := by
  refine ⟨fun s who hmay => ?_, fun s h d ok ns => ?_, fun s h c => ?_, fun s => ⟨fun h => ?_, fun ha hrun hu hm => ?_⟩⟩
  · intro asked
    have e1 := exec_pair hmay
    have e2 := exec_unpair hmay
    unfold twUnpairCmd at e2
    refine ⟨fun h => ?_, fun h hu => ?_, fun h h' => ?_, fun h => ⟨fun hs => ?_, fun hs => ?_⟩⟩
    · refine e1.trans (congrArg Host.Outcome.next (twStart_idle (s := pairAsked s) fun hc => ?_))
      exact h.elim (fun h => h hc.1) fun h => h hc.2.2
    · rw [twStart_begins (s := pairAsked s) h rfl hu] at e1
      obtain ⟨a, b, c, d⟩ := twExchange_spec (s := authBegun (pairAsked s)) hu
      exact ⟨_, e1, a, b, c, d, (twExchange_only _).step (by decide) (Only.set_tw (by decide) (Only.set_tw (by decide) (.refl _ s)))⟩
    · rw [if_neg (not_or.2 ⟨h, h'⟩)] at e2
      exact e2
    · rw [if_pos h, if_pos hs] at e2
      exact e2
    · rw [if_pos h, if_neg (by rw [hs]; exact Bool.false_ne_true)] at e2
      exact ⟨_, e2, rfl, rfl, rfl, rfl, Only.set_tw (by decide) (.refl _ s)⟩
  · intro proof
    refine ⟨fun w e => exec_hello_gone d e, fun w e => exec_proof_gone d ok ns e, fun w e hn => ?_, fun w e hrun => ?_, fun w e => ⟨fun h => ?_, fun hrun hx hh => ⟨fun hd hok => ?_, fun hbad => ?_⟩⟩⟩
    · rw [exec_hello_taken d e, if_neg (mt (twActs_iff w).1 hn)]
    · have e' := exec_hello_taken d e
      rw [if_pos ((twActs_iff w).2 hrun)] at e'
      by_cases hx : w.exchanging = true
      · rw [if_pos hx] at e'
        obtain ⟨x, hc⟩ := linkSend_tw (helloHeard w d) 0 .proof
        refine ⟨_, e', by rw [hc]; rfl, by rw [hc]; rfl, by rw [hc]; rfl, by rw [hc]; rfl, fun _ hu hm => linkSend_queued (s := helloHeard w d) hm rfl hu,
          (linkSend_only _ _ _).step (by decide) (Only.set_tw (by decide) (.refl _ w))⟩
      · rw [if_neg hx] at e'
        exact ⟨_, e', rfl, rfl, rfl, rfl, fun h => absurd h hx, Only.set_tw (by decide) (.refl _ w)⟩
    · refine (exec_proof_taken d ok ns e).trans (congrArg Host.Outcome.next ?_)
      rcases h with h | h
      · exact if_neg (mt (twActs_iff w).1 h)
      · have hp : twProved w d ok ns = w := if_neg (by rcases h with h | h <;> simp [h])
        rw [hp]
        exact ite_self _
    · refine (exec_proof_taken d ok ns e).trans (congrArg Host.Outcome.next ((if_pos ((twActs_iff w).2 hrun)).trans ?_))
      exact (if_pos (by rw [hx, hh]; rfl)).trans (if_pos ⟨hd, hok⟩)
    · have e' := exec_proof_taken d ok ns e
      have hp : twProved w d ok ns = tamperRaise (twUnpair w) 4 := by
        refine (if_pos (by rw [hx, hh]; rfl)).trans (if_neg ?_)
        rintro ⟨h1, h2⟩
        exact hbad.elim (fun h => h h1) fun h => Bool.noConfusion (h.symm.trans h2)
      rw [if_pos ((twActs_iff w).2 hrun), hp] at e'
      exact ⟨_, e', proof_fails hrun.1⟩
  · intro x
    refine ⟨fun w e => exec_heartbeat_gone c e, fun v w e e' => (exec_heartbeat_auth c e).1 w e', fun v w e e' => ⟨fun hn => ?_, fun hrun => ?_⟩⟩
    · rw [(exec_heartbeat_auth c e).2 w e', if_neg (mt (twActs_iff w).1 hn)]
    · have he := (exec_heartbeat_auth c e).2 w e'
      rw [if_pos ((twActs_iff w).2 hrun)] at he
      exact ⟨_, he, twHeartbeat_spec w c⟩
  · refine congrArg Host.Outcome.next (if_neg fun hc => ?_)
    simp only [Bool.and_eq_true] at hc
    rcases h with h | h
    · exact Bool.noConfusion (h.symm.trans hc.1)
    · exact h ((twActs_iff s).1 hc.2)
  · have e : exec .heartbeatSend s = .next (linkSend s 0 (.heartbeat s.ownHeartbeat)) :=
      congrArg Host.Outcome.next (if_pos (by rw [ha, (twActs_iff s).2 hrun]; rfl))
    exact ⟨_, e, ⟨_, linkSend_queued hm rfl hu, rfl, rfl, rfl, rfl, rfl, rfl⟩, linkSend_only _ _ _⟩

end Sys2Proof.Machine
end

section
/-! SUPPORT. O50: fuses, debug unlock, tamper alarms and import keys (R386 to R389, R407 to R413). -/

namespace Sys2Proof.Machine

/-! ## Bytes of a record -/

theorem readBytes_sub (s : State) (a n i k : Nat) (h : i + k ≤ n) : ((s.readBytes a n).drop i).take k = s.readBytes (a + i) k := by
  unfold State.readBytes
  rw [← List.map_drop, ← List.map_take]
  refine List.ext_getElem (by simp; omega) fun j h1 h2 => ?_
  simp only [List.getElem_map, List.getElem_take, List.getElem_drop, List.getElem_range]
  rw [Nat.add_assoc]

theorem leAt_readBytes (s : State) (a n i k : Nat) (h : i + k ≤ n) : leAt (s.readBytes a n) i k = s.readLE (a + i) k :=
  congrArg leNat (readBytes_sub s a n i k h)

theorem digestOfBytes_readBytes (s : State) (a n i : Nat) (h : i + 48 ≤ n) :
    digestOfBytes ((s.readBytes a n).drop i) = BitVec.ofNat 384 (s.readLE (a + i) 48) :=
  congrArg (fun bs => BitVec.ofNat 384 (leNat bs)) (readBytes_sub s a n i 48 h)

theorem readBytes_take (s : State) (a n k : Nat) (h : k ≤ n) : (s.readBytes a n).take k = s.readBytes a k :=
  readBytes_sub s a n 0 k (by omega)

theorem readBytes_drop (s : State) (a n i : Nat) : (s.readBytes a n).drop i = s.readBytes (a + i) (n - i) := by
  by_cases h : i ≤ n
  · have e := readBytes_sub s a n i (n - i) (by omega)
    rwa [List.take_of_length_le (by simp [State.readBytes])] at e
  · rw [List.drop_of_length_le (by simp [State.readBytes]; omega), Nat.sub_eq_zero_of_le (by omega)]
    rfl

/-! ## Fuse commands (R386 to R388) -/

theorem openSlot_some {s : State} {k : Nat} (hk : k < 4) (h : ¬bitAt s.fuse.ownerProgrammed.toNat k = true)
    (hl : ∀ j, j < k → bitAt s.fuse.ownerProgrammed.toNat j = true) : s.openSlot = some k := by
  unfold State.openSlot
  rw [List.find?_range_eq_some]
  exact ⟨by simpa using h, List.mem_range.2 hk, fun j hj => by simpa using hl j hj⟩

theorem openSlot_none {s : State} (h : ∀ k, k < 4 → bitAt s.fuse.ownerProgrammed.toNat k = true) : s.openSlot = none :=
  List.find?_eq_none.2 fun k hk => by simpa using h k (List.mem_range.1 hk)

theorem otpWrite_may {s : State} {who : Who} (h : ManagerMay s who) (op slot : Nat) : otpWrite s who op slot =
    if s.otpBeyond op then .fault .addressSpace else .next (otpCommand s op slot) := by
  unfold otpWrite
  rw [hostCheck_manager s who SEC_OTP_CMD true false h.1 h.2.1 (.inl h.2.2.1) h.2.2.2.2 h.2.2.2.1 (by decide) rfl]

theorem otpBeyond_shut {s : State} (op : Nat) (h : s.sec.otpBusy = true ∨ s.sec.locked = true) : s.otpBeyond op = false := by
  unfold State.otpBeyond
  rcases h with h | h <;> simp [h]

/-- While a fuse command is in progress, a write of another is ignored (R387). -/
theorem otpWrite_busy {s : State} {who : Who} (h : ManagerMay s who) (op slot : Nat) (hb : s.sec.otpBusy = true) :
    otpWrite s who op slot = .next s := by
  rw [otpWrite_may h, otpBeyond_shut op (.inl hb), if_neg Bool.false_ne_true]
  exact congrArg Host.Outcome.next (if_pos (by rw [hb, Bool.true_or]))

theorem otpWrite_locked {s : State} {who : Who} (h : ManagerMay s who) {op : Nat} (slot : Nat) (hop : op ≠ 0) (hb : s.sec.otpBusy = false)
    (hl : s.sec.locked = true) : otpWrite s who op slot = .next (otpBegin s (.fail Config.ACCESS_DENIED)) := by
  rw [otpWrite_may h, otpBeyond_shut op (.inr hl), if_neg Bool.false_ne_true]
  exact congrArg Host.Outcome.next ((if_neg (by rw [hb, Bool.false_or, beq_iff_eq]; exact hop)).trans (if_pos hl))

theorem otpCommand_open {s : State} (slot : Nat) (hb : s.sec.otpBusy = false) (hl : s.sec.locked = false) :
    otpCommand s 1 slot = otpFirst s ∧ otpCommand s 2 slot = otpRotate s ∧ otpCommand s 3 slot = otpRevoke s slot := by
  refine ⟨?_, ?_, ?_⟩
  all_goals exact (if_neg (by rw [hb]; decide)).trans (if_neg (by rw [hl]; decide))

/-- What O50 says of PROGRAM_FIRST (R387). -/
theorem programFirst_acts {s : State} {who : Who} (h : ManagerMay s who) (hb : s.sec.otpBusy = false) (hl : s.sec.locked = false) :
    let a := s.sec.otpAddr.toNat
    (s.fuse.ownerProgrammed ≠ 0#4 → otpWrite s who 1 0 = .next (otpBegin s (.fail Config.ACCESS_DENIED))) ∧
    (s.fuse.ownerProgrammed = 0#4 → 2 ^ 48 < a + 48 → otpWrite s who 1 0 = .fault .addressSpace) ∧
    (s.fuse.ownerProgrammed = 0#4 → a + 48 ≤ 2 ^ 48 →
      (s.poisoned a 48 = true → otpWrite s who 1 0 = .next (otpBegin s (.fail Config.MEM_POISON))) ∧
      (s.poisoned a 48 = false → otpWrite s who 1 0 =
        .next (otpBegin s (.program 0 (BitVec.ofNat 384 (leNat (s.readBytes a 48))))))) := by
  intro a
  have hbeyond : s.otpBeyond 1 = (s.fuse.ownerProgrammed == 0#4 && decide (2 ^ 48 < a + 48)) := by
    unfold State.otpBeyond
    simp only [hb, hl, Bool.not_false, Bool.true_and, beq_self_eq_true, Nat.reduceBEq, Bool.false_and, Bool.or_false]
    rfl
  have e : otpWrite s who 1 0 = if s.otpBeyond 1 then .fault .addressSpace else .next (otpFirst s) := by
    rw [otpWrite_may h, (otpCommand_open 0 hb hl).1]
  rw [hbeyond] at e
  refine ⟨fun hp => ?_, fun hp hlt => ?_, fun hp hle => ⟨fun hpo => ?_, fun hpo => ?_⟩⟩
  · rw [e, if_neg (by simp [hp])]
    exact congrArg Host.Outcome.next (if_pos hp)
  · rw [e, if_pos (by rw [hp, decide_eq_true hlt]; rfl)]
  all_goals
    have hn : ¬2 ^ 48 < a + 48 := Nat.not_lt.2 hle
    rw [e, if_neg (by rw [decide_eq_false hn, Bool.and_false]; exact Bool.false_ne_true)]
    refine congrArg Host.Outcome.next ((if_neg (not_not.2 hp)).trans ?_)
  · exact if_pos hpo
  · refine (if_neg (by rw [show s.poisoned s.sec.otpAddr.toNat 48 = false from hpo]; exact Bool.false_ne_true)).trans ?_
    have hd : digestOfBytes (s.readBytes s.sec.otpAddr.toNat 48) = BitVec.ofNat 384 (leNat (s.readBytes a 48)) :=
      digestOfBytes_readBytes s a 48 0 (by decide)
    rw [hd]

/-! ## What an alarm leaves of the fuse and debug commands -/

/-- The fuse and debug commands in progress and their codes, the challenge and the unlock. -/
def Sec.commands (x : Sec) : Bool × FuseCmd × BitVec 16 × Digest × BitVec 16 × Bool × Bool :=
  (x.otpBusy, x.otpCmd, x.otpCode, x.challenge, x.dbgCode, x.dbgBusy, x.unlocked)

theorem tenantErase_commands (s : State) (all : Bool) (code : BitVec 16) : (tenantErase s all code).sec.commands = s.sec.commands := by
  obtain ⟨⟨b, hsec⟩, -⟩ := tenantErase_spec s all code
  rw [hsec, (erasedKeys_sec s all).1]
  rfl

/-- An alarm leaves the fuse and debug commands as they are (R412, R413). -/
theorem tamperRaise_commands (s : State) (source : Nat) : (tamperRaise s source).sec.commands = s.sec.commands := by
  unfold tamperRaise
  split
  · obtain ⟨hsec, -⟩ := alarmNoted_spec s source
    have hn : (alarmNoted s source).sec.commands = s.sec.commands := by
      rw [hsec]
      rfl
    rw [tamperApply_eq]
    refine Eq.trans ?_ hn
    unfold tamperAct
    split
    · rfl
    · rw [(tamperLock_spec _).1]
      rfl
    · exact tenantErase_commands _ _ _
    · exact tenantErase_commands _ _ _
  · rfl

/-! ## ROTATE and REVOKE (R387, R388) -/

/-- A rotation record that passes its checks (R388). -/
def RotationGood (s : State) (k : Nat) : Prop :=
  let a := s.sec.otpAddr.toNat
  let v := sigVerdict (s.readBytes a 128) (s.readBytes (a + 128) 5568)
  v.digestOk = true ∧ v.ecdsaOk = true ∧ v.mldsaOk = true ∧
    (s.ownerSlot v.keyDigest).isSome = true ∧ s.readLE a 4 = 0x544F524F ∧ s.readLE (a + 4) 4 = k ∧
    BitVec.ofNat 384 (s.readLE (a + 0x38) 48) = s.sec.idDigest ∧ s.readLE (a + 0x68) 24 = 0

theorem rotation_iff (s : State) (k : Nat) :
    (rotationOk (s.readBytes s.sec.otpAddr.toNat 128) k s.sec.idDigest &&
      sigVerified (sigVerdict (s.readBytes s.sec.otpAddr.toNat 128) (s.readBytes (s.sec.otpAddr.toNat + 128) 5568)) &&
      (s.ownerSlot (sigVerdict (s.readBytes s.sec.otpAddr.toNat 128) (s.readBytes (s.sec.otpAddr.toNat + 128) 5568)).keyDigest).isSome) = true ↔
        RotationGood s k := by
  unfold RotationGood
  dsimp only
  generalize s.sec.otpAddr.toNat = a
  generalize sigVerdict (s.readBytes a 128) (s.readBytes (a + 128) 5568) = v
  have h0 : leAt (s.readBytes a 128) 0 4 = s.readLE a 4 := leAt_readBytes s a 128 0 4 (by decide)
  have h1 := leAt_readBytes s a 128 4 4 (by decide)
  have h2 := leAt_readBytes s a 128 0x68 24 (by decide)
  have h3 := digestOfBytes_readBytes s a 128 0x38 (by decide)
  generalize s.readBytes a 128 = bs at h0 h1 h2 h3
  generalize s.readLE a 4 = m0 at h0
  generalize s.readLE (a + 4) 4 = m1 at h1
  generalize s.readLE (a + 0x68) 24 = m2 at h2
  generalize s.readLE (a + 0x38) 48 = m3 at h3
  unfold rotationOk sigVerified
  rw [h0, h1, h2, h3]
  simp only [Bool.and_eq_true, beq_iff_eq]
  refine ⟨fun ⟨⟨⟨⟨⟨a, b⟩, c⟩, d⟩, ⟨e, f⟩, g⟩, k⟩ => ⟨e, f, g, k, a, b, c, d⟩, fun ⟨e, f, g, k, a, b, c, d⟩ => ⟨⟨⟨⟨⟨a, b⟩, c⟩, d⟩, ⟨e, f⟩, g⟩, k⟩⟩

theorem otpRotate_open {s : State} {k : Nat} (h : s.openSlot = some k) : otpRotate s =
    if s.poisoned s.sec.otpAddr.toNat 5696 then otpBegin s (.fail Config.MEM_POISON)
    else if rotationOk (s.readBytes s.sec.otpAddr.toNat 128) k s.sec.idDigest &&
        sigVerified (sigVerdict (s.readBytes s.sec.otpAddr.toNat 128) (s.readBytes (s.sec.otpAddr.toNat + 128) 5568)) &&
        (s.ownerSlot (sigVerdict (s.readBytes s.sec.otpAddr.toNat 128) (s.readBytes (s.sec.otpAddr.toNat + 128) 5568)).keyDigest).isSome then
      otpBegin s (.program k (digestOfBytes ((s.readBytes s.sec.otpAddr.toNat 128).drop 8)))
    else tamperRaise (otpBegin s (.fail Config.SIGNATURE_FAIL)) 1 := by
  unfold otpRotate
  rw [h]
  rfl

/-- What O50 says of ROTATE (R388). -/
theorem rotate_acts {s : State} {who : Who} (h : ManagerMay s who) (hb : s.sec.otpBusy = false) (hl : s.sec.locked = false) :
    let a := s.sec.otpAddr.toNat
    let programmed (k : Nat) : Prop := bitAt s.fuse.ownerProgrammed.toNat k = true
    ((∀ k, k < 4 → programmed k) → otpWrite s who 2 0 = .next (otpBegin s (.fail Config.ACCESS_DENIED))) ∧
    (∀ k, k < 4 → ¬programmed k → (∀ j, j < k → programmed j) →
      (2 ^ 48 < a + 5696 → otpWrite s who 2 0 = .fault .addressSpace) ∧
      (a + 5696 ≤ 2 ^ 48 → s.poisoned a 5696 = true → otpWrite s who 2 0 = .next (otpBegin s (.fail Config.MEM_POISON))) ∧
      (a + 5696 ≤ 2 ^ 48 → s.poisoned a 5696 = false →
        (RotationGood s k → otpWrite s who 2 0 = .next (otpBegin s (.program k (BitVec.ofNat 384 (s.readLE (a + 8) 48))))) ∧
        (¬RotationGood s k → Answers (otpWrite s who 2 0) fun t => t.sec.otpBusy = true ∧
          t.sec.otpCmd = .fail Config.SIGNATURE_FAIL ∧ t.fuse = s.fuse ∧ Alarmed s t 1 ∧
          Only [.au, .run, .insts, .jobs, .cores, .sec, .chime, .obs, .freeCount, .auIdle] s t))) := by
  intro a programmed
  have hbeyond : s.otpBeyond 2 = (s.openSlot.isSome && decide (2 ^ 48 < a + 5696)) := by
    unfold State.otpBeyond
    simp only [hb, hl, Bool.not_false, Bool.true_and, beq_self_eq_true, Nat.reduceBEq, Bool.false_and, Bool.false_or]
    rfl
  have e : otpWrite s who 2 0 = if s.otpBeyond 2 then .fault .addressSpace else .next (otpRotate s) := by
    rw [otpWrite_may h, (otpCommand_open 0 hb hl).2.1]
  rw [hbeyond] at e
  refine ⟨fun hall => ?_, fun k hk hp hlow => ?_⟩
  · have ho := openSlot_none hall
    rw [e, ho, Option.isSome_none, Bool.false_and, if_neg Bool.false_ne_true]
    unfold otpRotate
    rw [ho]
  · have ho := openSlot_some hk hp hlow
    rw [ho, Option.isSome_some, Bool.true_and, otpRotate_open ho] at e
    refine ⟨fun hlt => ?_, fun hle hpo => ?_, fun hle hpo => ?_⟩
    · rw [e, decide_eq_true hlt, if_pos rfl]
    · rw [e, decide_eq_false (Nat.not_lt.2 hle), if_neg Bool.false_ne_true, if_pos hpo]
    · rw [decide_eq_false (Nat.not_lt.2 hle), if_neg Bool.false_ne_true, if_neg (by rw [show s.poisoned _ 5696 = _ from hpo]; exact Bool.false_ne_true)] at e
      refine ⟨fun hg => ?_, fun hg => ?_⟩
      · rw [e, if_pos ((rotation_iff s k).2 hg), digestOfBytes_readBytes s _ 128 8 (by decide)]
      · rw [if_neg (mt (rotation_iff s k).1 hg)] at e
        have hc := tamperRaise_commands (otpBegin s (.fail Config.SIGNATURE_FAIL)) 1
        have ha : Alarmed (otpBegin s (.fail Config.SIGNATURE_FAIL)) (tamperRaise (otpBegin s (.fail Config.SIGNATURE_FAIL)) 1) 1 :=
          tamperRaise_alarmed 1 h.1
        have hon := tamperRaise_only (otpBegin s (.fail Config.SIGNATURE_FAIL)) 1
        exact ⟨_, e, congrArg (fun c => c.1) hc, congrArg (fun c => c.2.1) hc, hon .fuse (by decide), ha,
          hon.step (by decide) (Only.set_sec (by decide) (.refl _ s))⟩

/-- What O50 says of REVOKE (R387). -/
theorem revoke_acts {s : State} {who : Who} (h : ManagerMay s who) (slot : Nat) (hb : s.sec.otpBusy = false) (hl : s.sec.locked = false) :
    (slot < s.imageSlot → otpWrite s who 3 slot = .next (otpBegin s (.revoke slot))) ∧
    (s.imageSlot ≤ slot → otpWrite s who 3 slot = .next (otpBegin s (.fail Config.ACCESS_DENIED))) := by
  have hbeyond : s.otpBeyond 3 = false := by
    unfold State.otpBeyond
    simp only [Nat.reduceBEq, Bool.false_and, Bool.or_false, Bool.and_false]
  have e : otpWrite s who 3 slot = .next (otpRevoke s slot) := by
    rw [otpWrite_may h, hbeyond, if_neg Bool.false_ne_true, (otpCommand_open slot hb hl).2.2]
  exact ⟨fun hlt => e.trans (congrArg Host.Outcome.next (if_pos hlt)), fun hle => e.trans (congrArg Host.Outcome.next (if_neg (Nat.not_lt.2 hle)))⟩

/-! ## UNLOCK (R408, R409, R413, R483) -/

/-- An UNLOCK response that passes its checks (R408). -/
def ResponseGood (s : State) : Prop :=
  let d := s.sec.dbgAddr.toNat
  let v := sigVerdict (s.readBytes d 128) (s.readBytes (d + 128) 5568)
  v.digestOk = true ∧ v.ecdsaOk = true ∧ v.mldsaOk = true ∧ v.keyDigest = s.fuse.ovirasaDigest ∧
    s.readLE d 4 = 0x4E4B4C55 ∧ s.readLE (d + 4) 4 = 0 ∧ BitVec.ofNat 384 (s.readLE (d + 8) 48) = s.sec.challenge ∧
    BitVec.ofNat 384 (s.readLE (d + 0x38) 48) = s.sec.idDigest ∧ s.readLE (d + 0x68) 24 = 0

theorem responseOk_iff (s u : State) (hid : u.sec.idDigest = s.sec.idDigest) (hf : u.fuse = s.fuse) :
    responseOk u s.sec.challenge (s.readBytes s.sec.dbgAddr.toNat signedLen) = true ↔ ResponseGood s := by
  unfold ResponseGood responseOk
  dsimp only
  rw [hid, hf]
  generalize s.sec.dbgAddr.toNat = d
  have e1 : (s.readBytes d signedLen).take 128 = s.readBytes d 128 := readBytes_take s d signedLen 128 (by decide)
  have e2 : (s.readBytes d signedLen).drop 128 = s.readBytes (d + 128) 5568 := readBytes_drop s d signedLen 128
  have h0 : leAt (s.readBytes d signedLen) 0 4 = s.readLE d 4 := leAt_readBytes s d signedLen 0 4 (by decide)
  have h1 := leAt_readBytes s d signedLen 4 4 (by decide)
  have h2 := leAt_readBytes s d signedLen 0x68 24 (by decide)
  have h3 := digestOfBytes_readBytes s d signedLen 0x38 (by decide)
  have h4 := digestOfBytes_readBytes s d signedLen 8 (by decide)
  rw [e1, e2]
  generalize sigVerdict (s.readBytes d 128) (s.readBytes (d + 128) 5568) = v
  generalize s.readBytes d signedLen = bs at h0 h1 h2 h3 h4
  generalize s.readLE d 4 = m0 at h0
  generalize s.readLE (d + 4) 4 = m1 at h1
  generalize s.readLE (d + 0x68) 24 = m2 at h2
  generalize s.readLE (d + 0x38) 48 = m3 at h3
  generalize s.readLE (d + 8) 48 = m4 at h4
  unfold sigVerified
  rw [h0, h1, h2, h3, h4]
  simp only [Bool.and_eq_true, beq_iff_eq]
  refine ⟨fun ⟨⟨⟨⟨⟨⟨a, b⟩, c⟩, d⟩, e⟩, f⟩, ⟨g, h⟩, i⟩ => ⟨g, h, i, f, a, b, c, d, e⟩,
    fun ⟨g, h, i, f, a, b, c, d, e⟩ => ⟨⟨⟨⟨⟨⟨a, b⟩, c⟩, d⟩, e⟩, f⟩, ⟨g, h⟩, i⟩⟩

theorem unlockWrite_may {s : State} {who : Who} (h : ManagerMay s who) : unlockWrite s who =
    if s.unlockBeyond then .fault .addressSpace else .next (unlockAt s) := by
  unfold unlockWrite
  rw [hostCheck_manager s who SEC_DBG_CMD true false h.1 h.2.1 (.inl h.2.2.1) h.2.2.2.2 h.2.2.2.1 (by decide) rfl]

theorem unlockBeyond_iff (s : State) : s.unlockBeyond = true ↔
    s.sec.dbgBusy = false ∧ s.sec.locked = false ∧ 2 ^ 48 < s.sec.dbgAddr.toNat + 5696 := by
  unfold State.unlockBeyond signedLen
  simp only [Bool.and_eq_true, Bool.not_eq_true', decide_eq_true_eq, and_assoc]

/-- The state in which UNLOCK is answered with a code: the challenge is replaced (R409). -/
def unlockAnswered (s : State) (code : BitVec 16) : State :=
  { s with sec := { s.sec with challenge := s.drawDigest.1, dbgCode := code }, freeCount := s.freeCount + 1 }

/-- UNLOCK's challenge is replaced before the response is looked at (R409). -/
def unlockFresh (s : State) : State :=
  { s with sec := { s.sec with challenge := s.drawDigest.1 }, freeCount := s.freeCount + 1 }

theorem unlockAnswered_only (s : State) (code : BitVec 16) : Only [.sec, .freeCount] s (unlockAnswered s code) := by
  unfold unlockAnswered
  have h : Only [.sec, .freeCount] s { s with freeCount := s.freeCount + 1 } := Only.set_freeCount (by decide) (.refl _ s)
  exact Only.set_sec (by decide) h

theorem unlockFresh_only (s : State) : Only [.sec, .freeCount] s (unlockFresh s) := by
  unfold unlockFresh
  have h : Only [.sec, .freeCount] s { s with freeCount := s.freeCount + 1 } := Only.set_freeCount (by decide) (.refl _ s)
  exact Only.set_sec (by decide) h

theorem unlockWith_open {s : State} (bs : List Byte) (bad : Bool) (hb : s.sec.dbgBusy = false) : unlockWith s bs bad =
    if s.sec.locked then unlockAnswered s Config.ACCESS_DENIED
    else if bad then unlockAnswered s Config.MEM_POISON
    else if responseOk (unlockFresh s) s.sec.challenge bs then unlockBegin (unlockFresh s)
    else tamperRaise (unlockAnswered s Config.DEBUG_ATTACK) 2 := by
  unfold unlockWith
  rw [if_neg (by rw [hb]; exact Bool.false_ne_true)]
  rfl

theorem unlockAt_open {s : State} (hb : s.sec.dbgBusy = false) : unlockAt s =
    if s.sec.locked then unlockAnswered s Config.ACCESS_DENIED
    else if s.poisoned s.sec.dbgAddr.toNat signedLen then unlockAnswered s Config.MEM_POISON
    else if responseOk (unlockFresh s) s.sec.challenge (s.readBytes s.sec.dbgAddr.toNat signedLen) then unlockBegin (unlockFresh s)
    else tamperRaise (unlockAnswered s Config.DEBUG_ATTACK) 2 := unlockWith_open _ _ hb

/-- What a core holds is erased once it has been wiped (R483). -/
def CoreWiped (k : Core) : Prop :=
  (∀ b, b < 20971520 → ∃ r ∈ k.clears, r.1 ≤ b ∧ b < r.1 + r.2) ∧ k.me.acc = [] ∧ k.ve.chains = [] ∧
    k.me.bank0 = Bank.reset ∧ k.me.bank1 = Bank.reset

/-- A core as the wipe of an unlock leaves it (R483). -/
def Core.wiped (k : Core) : Core := { k.addClear 0 20971520 with
  me := { k.me with bank0 := Bank.reset, bank1 := Bank.reset, acc := [] }, ve := { k.ve with chains := [] } }

theorem Core.wiped_wiped (k : Core) : CoreWiped k.wiped :=
  ⟨fun b hb => k.addClear_covers 0 20971520 b (Nat.zero_le b) (by omega), rfl, rfl, rfl, rfl⟩

theorem foldl_coreWipe_wiped {l : List Nat} {c : Nat} (hc : c ∈ l) (s : State) : CoreWiped ((l.foldl coreWipe s).core c) :=
  foldl_modCore_gives (p := CoreWiped) Core.wiped_wiped hc s

theorem mem_presentCores {s : State} {c : Nat} : c ∈ s.presentCores ↔ s.present c = true := by
  unfold State.presentCores
  rw [List.mem_filter, List.mem_range]
  refine ⟨fun h => h.2, fun h => ⟨?_, h⟩⟩
  unfold State.present at h
  simp only [Bool.and_eq_true, decide_eq_true_eq] at h
  exact h.1

theorem Erased.of_only {s t u : State} {all : Bool} (h : Erased s t all) {xs : List Field} (ho : Only xs t u) (hs : Field.sec ∉ xs)
    (hi : Field.insts ∉ xs) (hj : Field.jobs ∉ xs) : Erased s u all := by
  have esec : u.sec = t.sec := ho .sec hs
  have ei : u.insts = t.insts := ho .insts hi
  have ej : u.jobs = t.jobs := ho .jobs hj
  obtain ⟨h1, h2, h3, h4, h5⟩ := h
  unfold Erased State.keyLoaded State.inst State.job
  rw [esec, ei, ej]
  exact ⟨h1, h2, h3, h4, h5⟩

/-- A good response: the tenant erase and the clears have begun, and no breakpoint is left (R413, R482, R483). -/
theorem unlockBegin_begins (s : State) : (unlockBegin s).sec.commands =
      { s.sec with dbgBusy := true, dbgCode := Config.NONE : Sec }.commands ∧ (unlockBegin s).obs.bps = [] ∧
    Erased s (unlockBegin s) false ∧ ∀ c, s.present c = true → CoreWiped ((unlockBegin s).core c) := by
  let w : State := { s.drawWord.2 with sec := { s.sec with dbgBusy := true, dbgCode := Config.NONE }, obs := { s.obs with bps := [] } }
  obtain ⟨z, hz⟩ : ∃ z, z = tenantErase w false (Config.freeCode s.drawWord.1) := ⟨_, rfl⟩
  have e : unlockBegin s = w.presentCores.foldl coreWipe z := by rw [hz]; rfl
  have hc := tenantErase_commands w false (Config.freeCode s.drawWord.1)
  have he : Erased w (tenantErase w false (Config.freeCode s.drawWord.1)) false := tenantErase_erased w false _
  have hon := tenantErase_only w false (Config.freeCode s.drawWord.1)
  rw [← hz] at hc he hon
  have hw : Only [.cores] z (w.presentCores.foldl coreWipe z) := Only.foldl coreWipe_only (.refl _ z)
  rw [← e] at hw
  have hbps : z.obs.bps = w.obs.bps := by
    have hk : ObsKept w.obs z.obs := hon .obsCfg (by decide)
    have hb := congrArg Obs.bps hk
    exact hb
  refine ⟨(congrArg Sec.commands (hw .sec (by decide))).trans hc, ?_, ?_, fun c hp => ?_⟩
  · rw [hw .obs (by decide), hbps]
  · exact Erased.of_only he hw (by decide) (by decide) (by decide)
  · rw [e]
    exact foldl_coreWipe_wiped (mem_presentCores.2 hp) z

/-- What O50 says of UNLOCK (R408, R409, R413, R483). -/
theorem unlock_acts {s : State} {who : Who} (h : ManagerMay s who) :
    (s.sec.dbgBusy = true → unlockWrite s who = .next s) ∧
    (s.sec.dbgBusy = false → s.sec.locked = true → unlockWrite s who = .next (unlockAnswered s Config.ACCESS_DENIED)) ∧
    (s.sec.dbgBusy = false → s.sec.locked = false → 2 ^ 48 < s.sec.dbgAddr.toNat + 5696 → unlockWrite s who = .fault .addressSpace) ∧
    (s.sec.dbgBusy = false → s.sec.dbgAddr.toNat + 5696 ≤ 2 ^ 48 → s.sec.locked = false →
      (s.poisoned s.sec.dbgAddr.toNat 5696 = true → unlockWrite s who = .next (unlockAnswered s Config.MEM_POISON)) ∧
      (s.poisoned s.sec.dbgAddr.toNat 5696 = false →
        (¬ResponseGood s → unlockWrite s who = .next (tamperRaise (unlockAnswered s Config.DEBUG_ATTACK) 2)) ∧
        (ResponseGood s → unlockWrite s who = .next (unlockBegin (unlockFresh s))))) := by
  have e := unlockWrite_may h
  refine ⟨fun hb => ?_, fun hb hl => ?_, fun hb hl hlt => ?_, fun hb hle hl => ?_⟩
  · rw [e, if_neg fun hu => Bool.false_ne_true (((unlockBeyond_iff s).1 hu).1.symm.trans hb)]
    exact congrArg Host.Outcome.next (if_pos hb)
  · rw [e, if_neg fun hu => Bool.false_ne_true (((unlockBeyond_iff s).1 hu).2.1.symm.trans hl), unlockAt_open hb, if_pos hl]
  · rw [e, if_pos ((unlockBeyond_iff s).2 ⟨hb, hl, hlt⟩)]
  · rw [if_neg fun hu => Nat.not_lt.2 hle ((unlockBeyond_iff s).1 hu).2.2, unlockAt_open hb,
      if_neg (by rw [hl]; exact Bool.false_ne_true)] at e
    refine ⟨fun hp => by rw [e, if_pos (show s.poisoned _ signedLen = true from hp)], fun hp => ?_⟩
    rw [if_neg (by rw [show s.poisoned _ signedLen = false from hp]; exact Bool.false_ne_true)] at e
    have hok := responseOk_iff s (unlockFresh s) rfl rfl
    exact ⟨fun hg => by rw [e, if_neg (mt hok.1 hg)], fun hg => by rw [e, if_pos (hok.2 hg)]⟩

/-! ## Ends, glitches and import keys -/

theorem clearsLeft_iff (s : State) : s.clearsLeft = false ↔ ∀ k ∈ s.cores, k.2.clears = [] := by
  unfold State.clearsLeft
  simp only [List.any_eq_false, Bool.not_eq_true', List.isEmpty_eq_false_iff, ne_eq, Decidable.not_not]

/-- What O50 says of FUSE_COMMAND_DONE (R386 to R388). -/
theorem fuseCommandDone_acts (s : State) :
    let shows (code : BitVec 16) : State := { s with sec := { s.sec with otpBusy := false, otpCmd := .none, otpCode := code } }
    let blown (f : Fuses) : State := { s with sec := { s.sec with otpBusy := false, otpCmd := .none, otpCode := Config.NONE }, fuse := f }
    ((s.sec.otpBusy = false ∨ s.portAlive = false) → exec .fuseCommandDone s = .next s) ∧
    (s.sec.otpBusy = true → s.portAlive = true →
      (∀ code, s.sec.otpCmd = .fail code → exec .fuseCommandDone s = .next (shows code)) ∧
      (∀ k d, s.sec.otpCmd = .program k d → exec .fuseCommandDone s = .next (blown { s.fuse with
        ownerProgrammed := s.fuse.ownerProgrammed ||| BitVec.ofNat 4 (2 ^ k), ownerDigest := tput s.fuse.ownerDigest k d })) ∧
      (∀ k, s.sec.otpCmd = .revoke k → exec .fuseCommandDone s = .next (blown { s.fuse with
        ownerRevoked := s.fuse.ownerRevoked ||| BitVec.ofNat 4 (2 ^ k) }))) := by
  intro shows blown
  have e : exec .fuseCommandDone s = .next (if s.sec.otpBusy && s.portAlive then fuseDone s else s) := rfl
  refine ⟨fun h => ?_, fun hb ha => ?_⟩
  · rw [e, if_neg (by rw [Bool.and_eq_true]; rintro ⟨hb, ha⟩; rcases h with h | h <;> simp_all)]
  · rw [if_pos (by rw [hb, ha]; rfl)] at e
    refine ⟨fun code hc => ?_, fun k d hc => ?_, fun k hc => ?_⟩
    all_goals
      rw [e]
      unfold fuseDone
      rw [hc]

/-- What O50 says of UNLOCK_COMPLETE (R483). -/
theorem unlockComplete_acts (s : State) :
    let over' : Prop := s.portAlive = true ∧ s.sec.dbgBusy = true ∧ s.sec.eraseBusy = false ∧ ∀ k ∈ s.cores, k.2.clears = []
    (over' → exec .unlockComplete s = .next { s with sec := { s.sec with dbgBusy := false, unlocked := true, debugSeen := true } }) ∧
    (¬over' → exec .unlockComplete s = .next s) := by
  intro over'
  have e : exec .unlockComplete s = .next (if s.portAlive then unlockEnd s else s) := rfl
  have hiff : (s.sec.dbgBusy && !s.sec.eraseBusy && !s.clearsLeft) = true ↔
      s.sec.dbgBusy = true ∧ s.sec.eraseBusy = false ∧ ∀ k ∈ s.cores, k.2.clears = [] := by
    rw [Bool.and_eq_true, Bool.and_eq_true, Bool.not_eq_true', Bool.not_eq_true', clearsLeft_iff, and_assoc]
  refine ⟨fun ⟨ha, h⟩ => ?_, fun h => ?_⟩
  · rw [e, if_pos ha]
    exact congrArg Host.Outcome.next (if_pos (hiff.2 h))
  · rw [e]
    split
    · next ha => exact congrArg Host.Outcome.next (if_neg fun k => h ⟨ha, hiff.1 k⟩)
    · rfl

/-- What O50 says of GLITCH (R411, R412). -/
theorem glitch_acts (s : State) (source : BitVec 5) :
    (s.detects source.toNat = false → exec (.glitch source) s = .next s) ∧
    (s.detects source.toNat = true → s.portAlive = false → exec (.glitch source) s = .next { s with sec := { s.sec with
      pending := s.sec.pending ||| 1#5, counts := tput s.sec.counts 0 (satInc (tget 0#32 s.sec.counts 0)) } }) ∧
    (s.detects source.toNat = true → s.portAlive = true → Answers (exec (.glitch source) s) fun t => Alarmed s t 0 ∧
      Only [.au, .run, .insts, .jobs, .cores, .sec, .chime, .obs, .freeCount, .auIdle] s t) := by
  have e : exec (.glitch source) s = .next (if s.detects source.toNat then tamperRaise s 0 else s) := rfl
  refine ⟨fun h => by rw [e, h, if_neg Bool.false_ne_true], fun h ha => ?_, fun h ha => ?_⟩
  · rw [e, if_pos h]
    refine congrArg Host.Outcome.next ((if_neg (by rw [ha]; exact Bool.false_ne_true)).trans ?_)
    rfl
  · rw [if_pos h] at e
    exact ⟨_, e, tamperRaise_alarmed 0 ha, tamperRaise_only s 0⟩

/-- What O50 says of IMPORT_KEY_REGENERATION_DONE (R389, R413). -/
theorem importKeys_acts (s : State) :
    let due : Prop := s.portAlive = true ∧ s.sec.importReady = false ∧ s.boot.state ≠ .romInit ∧ s.boot.state ≠ .reset ∧
      s.boot.state ≠ .failed
    (¬due → exec .importKeyRegenerationDone s = .next s) ∧
    (due → Answers (exec .importKeyRegenerationDone s) fun t => t.sec.importReady = true ∧ t.sec.importPub.length = 160 ∧
      Only [.sec, .freeCount] s t) := by
  intro due
  have e : exec .importKeyRegenerationDone s = .next (if s.portAlive && !s.sec.importReady && s.boot.state != .romInit &&
    s.boot.state != .reset && s.boot.state != .failed then importKeys s else s) := rfl
  have hiff : (s.portAlive && !s.sec.importReady && s.boot.state != .romInit && s.boot.state != .reset && s.boot.state != .failed) = true ↔
      due := by
    simp only [Bool.and_eq_true, Bool.not_eq_true', bne_iff_ne, and_assoc, due]
  refine ⟨fun h => by rw [e, if_neg (mt hiff.1 h)], fun h => ?_⟩
  rw [if_pos (hiff.2 h)] at e
  exact ⟨_, e, rfl, by simp [importKeys], importKeys_only s⟩

/-- Settles O50: each command goes through its check, and what reads a record reads the bytes at its address. -/
theorem fusesUnlockAndAlarms : Obligations.FusesUnlockAndAlarms := by
  refine ⟨fun s who slot h => ⟨fun hb => ?_, fun hb hl => ?_, fun hb hl => ?_, ?_⟩, fun s => ?_⟩
  · simp only [List.forall_mem_cons]
    exact ⟨otpWrite_busy h 1 0 hb, otpWrite_busy h 2 0 hb, otpWrite_busy h 3 slot.toNat hb, by simp⟩
  · simp only [List.forall_mem_cons]
    exact ⟨otpWrite_locked h 0 (by decide) hb hl, otpWrite_locked h 0 (by decide) hb hl,
      otpWrite_locked h slot.toNat (by decide) hb hl, by simp⟩
  · obtain ⟨p1, p2, p3⟩ := programFirst_acts h hb hl
    obtain ⟨r1, r2⟩ := rotate_acts h hb hl
    obtain ⟨v1, v2⟩ := revoke_acts h slot.toNat hb hl
    exact ⟨p1, p2, p3, r1, r2, v1, v2⟩
  · obtain ⟨u1, u2, u3, u4⟩ := unlock_acts h
    refine ⟨u1, u2, u3, fun hb hle => ⟨fun hl => (u4 hb hle hl).1, fun hl hp hg => ?_, fun hl hp hg => ?_⟩⟩
    · have e := ((u4 hb hle hl).2 hp).1 hg
      have hc := tamperRaise_commands (unlockAnswered s Config.DEBUG_ATTACK) 2
      have ha : Alarmed (unlockAnswered s Config.DEBUG_ATTACK) (tamperRaise (unlockAnswered s Config.DEBUG_ATTACK) 2) 2 :=
        tamperRaise_alarmed 2 h.1
      have hon : Only auVerifiedParts s _ := (tamperRaise_only (unlockAnswered s Config.DEBUG_ATTACK) 2).step (by decide)
        ((unlockAnswered_only s _).wider (by decide))
      refine ⟨_, e, congrArg (fun c => c.2.2.2.1) hc, congrArg (fun c => c.2.2.2.2.1) hc, ?_, congrArg (fun c => c.2.2.2.2.2.2) hc, ha,
        hon⟩
      exact (congrArg (fun c => c.2.2.2.2.2.1) hc).trans hb
    · have e := ((u4 hb hle hl).2 hp).2 hg
      obtain ⟨hc, hbps, he, hw⟩ := unlockBegin_begins (unlockFresh s)
      have hon : Only auVerifiedParts s _ := (unlockBegin_only (unlockFresh s)).step (by decide)
        ((unlockFresh_only s).wider (by decide))
      refine ⟨_, e, congrArg (fun c => c.2.2.2.1) hc, congrArg (fun c => c.2.2.2.2.1) hc, congrArg (fun c => c.2.2.2.2.2.1) hc,
        congrArg (fun c => c.2.2.2.2.2.2) hc, hbps, he, hw, hon⟩
  · exact ⟨(fuseCommandDone_acts s).1, (fuseCommandDone_acts s).2, unlockComplete_acts s, glitch_acts s, importKeys_acts s⟩

end Sys2Proof.Machine
end

section
/-! SUPPORT. O51: a rejected generation whose entry is FREE before the step of its verdict ends (R164, R177, R178). -/

namespace Sys2Proof.Machine

/-- A command past fetch of queue 0, with its body, phase and number. -/
def ringCmd (body : Body) (phase : Phase) (seqNo : Nat) : Cmd :=
  { index := 0#32, tag := 0#16, notify := false, overlap := false, body := body, phase := phase, code := 0#16, submission := false,
    coKilled := false, ctxFault := false, reruns := 0#16, sub := 0#16, detail := 0#64, refs := [], gen := none, job := none,
    inner := none, pins := [], wrote := [], arrived := false, met := none, startTime := 0#64, endTime := 0#64, seqNo := seqNo,
    counts := [], cores := 0, prog := 0 }

/-- A LAUNCH of generation 0 that waits for its verdict. -/
def judgedLaunch : Cmd :=
  { ringCmd (.launch 0 0#2 0#8 0#8 0#32 0 4096 0 1000 []) .verifying 0 with gen := some 0 }

/-- Behind it a WAIT without CONTINUE, decided with ABANDONED, whose turn to complete has not come. -/
def abandonedWait : Cmd := { ringCmd (.waitCounter false 0#17 1#32) .started 1 with code := Config.ABANDONED }

/-- A generation in the first page, encrypted under a key slot that is empty, and queued for its verdict. -/
def keylessGen : Gen := { Gen.reset with state := .live, len := 4096, keySlot := some 0, verdict := .queued }

/-- The two commands stand in queue 0, whose completion ring lies in the page of the program. -/
def ringOverProgram : State :=
  { State.reset with
    gens := [(0, keylessGen)], kp := { Keeper.reset with verifyQueue := [0] }, ctxs := [(0, { Ctx.reset with state := .live })],
    queues := [(0, { Queue.reset with state := .idle, cmds := [judgedLaunch, abandonedWait] })] }

/-- A command answers a next state in which generation 0 has the verdict of an entry that holds none. -/
def verdictGone : Host.Outcome State Fault Refusal → Bool
  | .next t => (t.gen 0).verdict == .notNeeded
  | _ => false

/-- Refutes O51: in `ringOverProgram` the LAUNCH is rejected with its generation and the WAIT behind it fails; its record is
written into the page of the program, so that the rejected generation is REPLACED and, without holders, FREE: its entry does not
hold the verdict. -/
theorem not_recoveryScrubbingAndVerifier : ¬Obligations.RecoveryScrubbingAndVerifier := by
  intro ⟨_, _, _, _, hscan, _⟩
  obtain ⟨t, e, hverdict, -⟩ := (hscan ringOverProgram).2 0 [] (by unfold Running'; decide +kernel) rfl rfl
  have hrejected : (ringOverProgram.verdictOn (ringOverProgram.gen 0) == .notNeeded) = false := by decide +kernel
  have hgone : verdictGone (exec .verifyScanDone ringOverProgram) = true := by decide +kernel
  rw [e] at hgone
  have hnone : ((t.gen 0).verdict == .notNeeded) = true := hgone
  rw [hverdict, hrejected] at hnone
  exact Bool.false_ne_true hnone

end Sys2Proof.Machine
end

section
/-! SUPPORT. O55: counters, trace modes and the trace port (R42, R43, R465 to R467, R476 to R479). -/

namespace Sys2Proof.Machine

/-! ## The global counters (R467) -/

theorem traceKeeper_pm (s : State) (type : Nat) (payload : List Byte) : (traceKeeper s type payload).obs.pm = s.obs.pm := by
  unfold traceKeeper
  split
  · rfl
  · split <;> rfl

theorem chSample_pm (s : State) (n : Nat) : (chSample s n).obs.pm = s.obs.pm := by
  unfold chSample
  split
  · rw [chEval_obs]
    change (State.obs (if _ then chTrace s n _ else s)).pm = _
    split
    · exact traceKeeper_pm s _ _
    · rfl
  · rfl

/-- What O55 says of PM_RESET (R467). -/
theorem pmReset_acts {s : State} {who : Who} (h : ManagerMay s who) :
    Answers (exec (.pmReset who) s) fun t => (∀ n, tget 0 t.obs.pm.slots n = 0) ∧ t.obs.pm.ovf = 0#56 ∧
      t.obs.pm.since = s.esc.time ∧ Only [.boot, .kp, .chime, .obs, .obsCfg] s t := by
  have e : exec (.pmReset who) s = .next (pmClear s) := congrArg Host.Outcome.next (hostWrite_may h PM_CTL false pmClear (by decide) rfl)
  have hpm : (pmClear s).obs.pm = s.obs.pm.clear s.esc.time := chSample_pm _ 108
  refine ⟨_, e, fun n => ?_, ?_, ?_, Only.wider (exec_only (.pmReset who) s _ e) rfl⟩
  all_goals rw [hpm]; rfl

/-! ## Trace modes (R42, R43, R478) -/

theorem trace_writes {s : State} {who : Who} (h : ManagerMay s who) (cores : BitVec 16) :
    exec (.traceOff who) s = .next (traceCommand s 0#2 s.obs.traceCores) ∧
    exec (.traceEvents who) s = .next (traceCommand s 1#2 s.obs.traceCores) ∧
    exec (.traceFull who cores) s = .next (traceCommand s 2#2 cores) :=
  ⟨congrArg Host.Outcome.next (hostWrite_may h PM_TRACE_CTL false (fun s => traceCommand s 0#2 s.obs.traceCores) (by decide) rfl),
    congrArg Host.Outcome.next (hostWrite_may h PM_TRACE_CTL false (fun s => traceCommand s 1#2 s.obs.traceCores) (by decide) rfl),
    congrArg Host.Outcome.next (hostWrite_may h PM_TRACE_CTL false (fun s => traceCommand s 2#2 cores) (by decide) rfl)⟩

/-- What O55 says of TRACE_OFF and TRACE_EVENTS (R42, R43). -/
theorem traceLower_acts {s : State} {m : BitVec 2} (hm : m = 0#2 ∨ m = 1#2) :
    (s.obs.activeMode = 2#2 → s.run.isSome = true → traceCommand s m s.obs.traceCores =
      { s with obs := { s.obs with traceMode := m }, au := { s.au with traceReq := .turnOff } }) ∧
    ((s.obs.activeMode ≠ 2#2 ∨ s.run = none) → traceCommand s m s.obs.traceCores =
      { s with obs := { s.obs with traceMode := m, activeMode := m }, au := { s.au with traceReq := .none } }) := by
  have e : traceCommand s m s.obs.traceCores = traceLower { s with obs := { s.obs with traceMode := m } } m := by
    unfold traceCommand
    rcases hm with rfl | rfl <;> rfl
  rw [e]
  refine ⟨fun ha hr => if_pos ⟨ha, hr⟩, fun h => if_neg ?_⟩
  rintro ⟨ha, hr⟩
  rcases h with h | h
  · exact h ha
  · rw [h] at hr
    exact Bool.false_ne_true hr

/-- The state that decides a request for full trace (R42). -/
def State.asksFull (s : State) (cores : BitVec 16) : State := { s with obs := { s.obs with traceMode := 2#2, traceCores := cores } }

/-- While no image runs, full trace is on at once (R42). -/
theorem traceDecide_imageless {t : State} (hr : t.run = none) : traceDecide t = { t with
    au := { t.au with traceReq := .none }, obs := { t.obs with activeMode := 2#2, activeCores := t.obs.traceCores } } := by
  unfold traceDecide
  rw [hr]

/-- With both proofs done, full trace is granted for the next edge (R42). -/
theorem traceDecide_granted {t : State} {r : Running} {p : List (Nat × Nat × Nat)} (hr : t.run = some r)
    (hp : bothProofs t r.img true false r.place.partCores r.place.stationCores = .ok p) :
    traceDecide t = { t with au := { t.au with traceReq := .granted } } := by
  unfold traceDecide
  rw [hr]
  dsimp only
  rw [hp]

/-- A proof that fails refuses full trace (R42). -/
theorem traceDecide_refused {t : State} {r : Running} {e : Refused} (hr : t.run = some r)
    (hp : bothProofs t r.img true false r.place.partCores r.place.stationCores = .error e) :
    traceDecide t = auRecord { t with au := { t.au with traceReq := .none } } { e with code := Config.TRACE_INFLATED, pass := false } := by
  unfold traceDecide
  rw [hr]
  dsimp only
  rw [hp]

/-- What a record of a refusal shows (R26, R44). -/
theorem auRecord_au (t : State) (r : Refused) : (auRecord t r).au.refused = true ∧ (auRecord t r).au.lastCode = r.code ∧
    (auRecord t r).au.refusal.code = r.code ∧ (auRecord t r).au.refusal.pass = r.pass ∧
    (auRecord t r).au.refusal.station = BitVec.ofNat 16 r.station ∧ (auRecord t r).au.deficit = BitVec.ofNat 48 r.deficit ∧
    (auRecord t r).au.sigDetail = t.au.sigDetail ∧ (auRecord t r).au.traceReq = t.au.traceReq := by
  unfold auRecord
  rw [chSample_only _ 96 .au (by decide)]
  exact ⟨rfl, rfl, rfl, rfl, rfl, rfl, rfl, rfl⟩

theorem auRecord_mode (t : State) (r : Refused) : (auRecord t r).obs.activeMode = t.obs.activeMode := by
  have hk : ObsKept t.obs (auRecord t r).obs := auRecord_only t r .obsCfg (by decide)
  have hm := congrArg Obs.activeMode hk
  exact hm

/-- What O55 says of TRACE_FULL (R42, R43). -/
theorem traceFull_acts {s : State} {who : Who} (h : ManagerMay s who) (cores : BitVec 16) :
    let o := { s.obs with traceMode := 2#2, traceCores := cores }
    let x : Instr := .traceFull who cores
    let asks (r : TraceReq) : State := { s with obs := o, au := { s.au with traceReq := r } }
    let busy : Prop := s.au.state = .prove ∨ s.au.state = .armed
    (s.obs.activeMode = 2#2 → exec x s = .next (asks .none)) ∧
    (s.obs.activeMode ≠ 2#2 → busy → exec x s = .next (asks .held)) ∧
    (s.obs.activeMode ≠ 2#2 → ¬busy → s.run = none → exec x s = .next { asks .none with
      obs := { o with activeMode := 2#2, activeCores := cores } }) ∧
    (∀ r, s.obs.activeMode ≠ 2#2 → ¬busy → s.run = some r →
      let proofs := bothProofs s r.img true false r.place.partCores r.place.stationCores
      (∀ p, proofs = .ok p → exec x s = .next (asks .granted)) ∧
      (∀ e, proofs = .error e → Answers (exec x s) fun t =>
        t.au.refused = true ∧ t.au.lastCode = Config.TRACE_INFLATED ∧ t.au.refusal.code = Config.TRACE_INFLATED ∧
        t.au.refusal.pass = false ∧ t.au.refusal.station = BitVec.ofNat 16 e.station ∧
        t.au.deficit = BitVec.ofNat 48 e.deficit ∧ t.au.sigDetail = s.au.sigDetail ∧ t.au.traceReq = .none ∧
        t.obs.activeMode = s.obs.activeMode ∧ Only [.boot, .au, .kp, .chime, .obs, .obsCfg, .auIdle] s t)) := by
  intro o x asks busy
  have e : exec x s = .next (traceRequest (s.asksFull cores)) := (trace_writes h cores).2.2
  refine ⟨fun ha => ?_, fun ha hb => ?_, fun ha hb hr => ?_, fun r ha hb hr => ?_⟩
  · exact e.trans (congrArg Host.Outcome.next (if_pos ha))
  · exact e.trans (congrArg Host.Outcome.next ((if_neg ha).trans (if_pos hb)))
  all_goals
    have hd : traceRequest (s.asksFull cores) = traceDecide (s.asksFull cores) := (if_neg ha).trans (if_neg hb)
    have hrun : (s.asksFull cores).run = s.run := rfl
    rw [hd] at e
    rw [hr] at hrun
  · rw [e, traceDecide_imageless hrun]
    rfl
  · intro proofs
    refine ⟨fun p hp => ?_, fun d hp => ?_⟩
    · rw [e, traceDecide_granted hrun hp]
      rfl
    · have hon := Only.wider (l := [.boot, .au, .kp, .chime, .obs, .obsCfg, .auIdle]) (exec_only x s _ e) rfl
      rw [traceDecide_refused hrun hp] at e hon
      obtain ⟨a1, a2, a3, a4, a5, a6, a7, a8⟩ := auRecord_au { s.asksFull cores with au := { s.au with traceReq := .none } }
        { d with code := Config.TRACE_INFLATED, pass := false }
      have hmode : (auRecord { s.asksFull cores with au := { s.au with traceReq := .none } }
          { d with code := Config.TRACE_INFLATED, pass := false }).obs.activeMode = s.obs.activeMode := by
        exact auRecord_mode _ _
      exact ⟨_, e, a1, a2, a3, a4, a5, a6, a7, a8, hmode, hon⟩

/-! ## Frames (R476) -/

theorem leNat_leBytes (n x : Nat) : leNat (leBytes n x) = x % 256 ^ n := by
  induction n generalizing x with
  | zero => simp [leBytes, leNat, Nat.mod_one]
  | succ n ih =>
    have hm : x % (256 * 256 ^ n) = x % 256 + 256 * (x / 256 % 256 ^ n) := Nat.mod_mul
    rw [leBytes, leNat, ih, Nat.pow_succ', hm]
    rfl

theorem padTo_length (n : Nat) (bs : List Byte) : (padTo n bs).length = n := by simp [padTo]

theorem padTo_getD {n : Nat} (bs : List Byte) {i : Nat} (h : i < n) : (padTo n bs).getD i 0#8 = bs.getD i 0#8 := by
  unfold padTo
  rw [List.getD_eq_getElem _ _ (by simpa using h), List.getElem_map, List.getElem_range]

theorem padTo_self {n : Nat} {bs : List Byte} (h : bs.length = n) : padTo n bs = bs := by
  refine List.ext_getElem (by rw [padTo_length, h]) fun i h1 h2 => ?_
  have := padTo_getD bs (i := i) (n := n) (by omega)
  rwa [List.getD_eq_getElem _ _ h1, List.getD_eq_getElem _ _ h2] at this

/-- The first 30 bytes of a frame. -/
def frameBody (f : TraceFrame) (delta : Nat) : List Byte := f.type :: f.source :: (leBytes 2 delta ++ padTo 26 f.payload)

theorem frameBody_length (f : TraceFrame) (delta : Nat) : (frameBody f delta).length = 30 := by
  simp [frameBody, leBytes_length, padTo_length]

theorem frameBytes_eq (f : TraceFrame) (delta : Nat) : frameBytes f delta = frameBody f delta ++ leBytes 2 (crc16 (frameBody f delta)) := rfl

theorem frameBytes_length (f : TraceFrame) (delta : Nat) : (frameBytes f delta).length = 32 := by
  rw [frameBytes_eq, List.length_append, frameBody_length, leBytes_length]

/-- The last two bytes are the CRC of the others (R476). -/
theorem frameBytes_crc (f : TraceFrame) (delta : Nat) :
    (frameBytes f delta).drop 30 = leBytes 2 (crc16 ((frameBytes f delta).take 30)) := by
  rw [frameBytes_eq, List.drop_left' (frameBody_length f delta), List.take_left' (frameBody_length f delta)]

theorem frameBytes_head (f : TraceFrame) (delta : Nat) : (frameBytes f delta).take 2 = [f.type, f.source] := rfl

theorem frameBytes_delta (f : TraceFrame) {delta : Nat} (h : delta < 65536) :
    leNat (((frameBytes f delta).drop 2).take 2) = delta := by
  have e : ((frameBytes f delta).drop 2).take 2 = leBytes 2 delta := rfl
  rw [e, leNat_leBytes, Nat.mod_eq_of_lt (by omega)]

theorem frameBytes_payload (f : TraceFrame) (delta : Nat) : ((frameBytes f delta).drop 4).take 26 = padTo 26 f.payload := by
  have e : (frameBytes f delta).drop 4 = padTo 26 f.payload ++ leBytes 2 (crc16 (frameBody f delta)) := rfl
  rw [e, List.take_left' (padTo_length _ _)]

theorem frameBytes_getD (f : TraceFrame) (delta : Nat) {i : Nat} (h : i < 26) :
    (frameBytes f delta).getD (4 + i) 0#8 = f.payload.getD i 0#8 := by
  rw [← padTo_getD f.payload h, ← frameBytes_payload f delta]
  simp only [List.getD_eq_getElem?_getD, List.getElem?_take, List.getElem?_drop, h, if_true]

theorem frameDelta_of_le {last time : W64} (free : W64) (h : last.toNat ≤ time.toNat) :
    frameDelta last time free = min 65535 (time.toNat - last.toNat) := if_pos h

theorem frameDelta_lt (last time free : W64) (h : last.toNat ≤ time.toNat) : frameDelta last time free < 65536 := by
  rw [frameDelta_of_le free h]
  omega

/-! ## The port (R477, R479) -/

/-- What an emitted frame shows, whatever it is (R476, R477). -/
theorem emitFrame_shows (s : State) (f : TraceFrame) (sync : Bool) :
    let t := emitFrame s f sync
    t.obs.traceOut.length = 32 ∧ t.obs.traceOut.drop 30 = leBytes 2 (crc16 (t.obs.traceOut.take 30)) ∧
    t.obs.frameSeq = s.obs.frameSeq + 1#32 ∧ t.obs.traceOut.take 2 = [f.type, f.source] ∧
    (t.obs.traceOut.drop 4).take 26 = padTo 26 f.payload ∧ (∀ i < 26, t.obs.traceOut.getD (4 + i) 0#8 = f.payload.getD i 0#8) ∧
    t.obs.lastFrameTime = f.time ∧ (s.obs.lastFrameTime.toNat ≤ f.time.toNat →
      leNat ((t.obs.traceOut.drop 2).take 2) = min 65535 (f.time.toNat - s.obs.lastFrameTime.toNat)) :=
  ⟨frameBytes_length f _, frameBytes_crc f _, rfl, rfl, frameBytes_payload f _, fun _ h => frameBytes_getD f _ h, rfl, fun h =>
    (frameBytes_delta f (frameDelta_lt _ _ _ h)).trans (frameDelta_of_le _ h)⟩

theorem traceNext_some {s : State} {k : Nat} (h : s.traceNext = some k) : k < 17 ∧ s.traceFifo k ≠ [] := by
  have hm := List.mem_of_find?_eq_some h
  have hp := List.find?_some h
  obtain ⟨j, -, rfl⟩ := List.mem_map.1 hm
  exact ⟨Nat.mod_lt _ (by decide), by simpa using hp⟩

theorem tracePop_fifo (s : State) (k j : Nat) : (tracePop s k).traceFifo j = if j = k then (s.traceFifo k).drop 1 else s.traceFifo j := by
  unfold tracePop State.traceFifo
  dsimp only
  by_cases hk : k = 16
  · subst hk
    by_cases hj : j = 16
    · simp [hj]
    · simp [hj]
  · simp only [hk, if_false]
    by_cases hj : j = k
    · subst hj
      simp [hk, tget_tput_self]
    · by_cases h16 : j = 16
      · simp [h16, Ne.symm hk]
      · simp [h16, hj, tget_tput_ne]

theorem traceFifo_of_obs {s t : State} {k : Nat} (h1 : t.obs.keeperFifo = s.obs.keeperFifo) (h2 : t.obs.coreFifo = s.obs.coreFifo) :
    t.traceFifo k = s.traceFifo k := by
  unfold State.traceFifo
  rw [h1, h2]

theorem frameSend_sync {s : State} (h : s.traceNext = none ∨ 1023 ≤ s.obs.sinceSync) : frameSend s = emitFrame s s.syncFrame true := by
  unfold frameSend
  split
  · rfl
  · next k hk => exact if_pos (h.resolve_left (by rw [hk]; exact Option.some_ne_none k))

theorem frameSend_source {s : State} {k : Nat} {f : TraceFrame} {rest : List TraceFrame} (hk : s.traceNext = some k)
    (hs : s.obs.sinceSync < 1023) (hf : s.traceFifo k = f :: rest) : frameSend s = emitFrame (tracePop s k) f false := by
  unfold frameSend
  rw [hk]
  dsimp only
  rw [if_neg (Nat.not_le.2 hs), hf]

theorem frameSend_emits (s : State) : ∃ u f sync, frameSend s = emitFrame u f sync ∧ u.obs.frameSeq = s.obs.frameSeq := by
  by_cases h : s.traceNext = none ∨ 1023 ≤ s.obs.sinceSync
  · exact ⟨s, _, _, frameSend_sync h, rfl⟩
  · obtain ⟨hn, hs⟩ := not_or.1 h
    obtain ⟨k, hk⟩ := Option.ne_none_iff_exists'.1 hn
    obtain ⟨f, rest, hf⟩ := List.exists_cons_of_ne_nil (traceNext_some hk).2
    exact ⟨tracePop s k, f, false, frameSend_source hk (Nat.not_le.1 hs) hf, rfl⟩

/-- What O55 says of TRACE_FRAME_SEND (R476, R477, R479). -/
theorem traceFrameSend_acts {s : State} (h : s.portAlive = true) : Answers (exec .traceFrameSend s) fun t =>
    let out := t.obs.traceOut
    let delta := leNat ((out.drop 2).take 2)
    let lasts (time : W64) : Prop :=
      t.obs.lastFrameTime = time ∧ (s.obs.lastFrameTime.toNat ≤ time.toNat → delta = min 65535 (time.toNat - s.obs.lastFrameTime.toNat))
    out.length = 32 ∧ out.drop 30 = leBytes 2 (crc16 (out.take 30)) ∧ t.obs.frameSeq = s.obs.frameSeq + 1#32 ∧
    Only [.obs, .freeCount, .obsCfg] s t ∧
    ((s.traceNext = none ∨ 1023 ≤ s.obs.sinceSync) → out.take 2 = [0x5A#8, 16#8] ∧
      (out.drop 4).take 26 = leBytes 4 0xA5C33C5A ++ leBytes 8 s.esc.time.toNat ++ leBytes 6 s.esc.beatCount.toNat ++
        leBytes 4 s.obs.frameSeq.toNat ++ leBytes 4 s.obs.droppedSinceSync.toNat ∧
      lasts s.esc.time ∧ t.obs.sinceSync = 0 ∧ t.obs.droppedSinceSync = 0#32 ∧ ∀ k ≤ 16, t.traceFifo k = s.traceFifo k) ∧
    (∀ k f rest, s.traceNext = some k → s.obs.sinceSync < 1023 → s.traceFifo k = f :: rest →
      out.take 2 = [f.type, f.source] ∧ (∀ i < 26, out.getD (4 + i) 0#8 = f.payload.getD i 0#8) ∧ lasts f.time ∧
      t.obs.sinceSync = s.obs.sinceSync + 1 ∧ t.traceFifo k = rest ∧ t.obs.traceTurn = k ∧
      ∀ j ≤ 16, j ≠ k → t.traceFifo j = s.traceFifo j) := by
  have e : exec .traceFrameSend s = .next (frameSend s) := congrArg Host.Outcome.next (if_pos h)
  refine ⟨_, e, ?_⟩
  have hon := Only.wider (l := [.obs, .freeCount, .obsCfg]) (exec_only .traceFrameSend s _ e) rfl
  obtain ⟨u, f, sync, hu, hseq⟩ := frameSend_emits s
  obtain ⟨hlen, hcrc, hnum, -⟩ := emitFrame_shows u f sync
  rw [← hu] at hlen hcrc hnum
  dsimp only
  refine ⟨hlen, hcrc, hnum.trans (by rw [hseq]), hon, fun hs => ?_, fun k f rest hk hs hf => ?_⟩
  · rw [frameSend_sync hs]
    obtain ⟨-, -, -, hhead, hpay, -, htime, hdelta⟩ := emitFrame_shows s s.syncFrame true
    refine ⟨hhead, hpay.trans (padTo_self ?_), ⟨htime, hdelta⟩, rfl, rfl, fun k _ => traceFifo_of_obs rfl rfl⟩
    unfold State.syncFrame
    simp only [List.length_append, leBytes_length]
  · rw [frameSend_source hk hs hf]
    obtain ⟨-, -, -, hhead, -, hpay, htime, hdelta⟩ := emitFrame_shows (tracePop s k) f false
    have hpop (j : Nat) : (emitFrame (tracePop s k) f false).traceFifo j = (tracePop s k).traceFifo j := traceFifo_of_obs rfl rfl
    refine ⟨hhead, hpay, ⟨htime, hdelta⟩, rfl, ?_, rfl, fun j _ hj => ?_⟩
    · rw [hpop, tracePop_fifo, if_pos rfl, hf]
      rfl
    · rw [hpop, tracePop_fifo, if_neg hj]

end Sys2Proof.Machine
end

section
/-! SUPPORT. O55: the hang snapshot (R473 to R475). -/

namespace Sys2Proof.Machine

/-! ## Lists of pieces of one length -/

theorem length_flatMap_const {α β : Type} {f : α → List β} {k : Nat} {l : List α} (h : ∀ x ∈ l, (f x).length = k) :
    (l.flatMap f).length = l.length * k := by
  rw [List.length_flatMap, List.map_congr_left h, List.map_const', List.sum_replicate, smul_eq_mul]

theorem flatMap_const_piece {α β : Type} {f : α → List β} {k : Nat} {l : List α} (h : ∀ x ∈ l, (f x).length = k) (r : List β) {c : Nat}
    (hc : c < l.length) : ((l.flatMap f ++ r).drop (k * c)).take k = f l[c] := by
  induction l generalizing c with
  | nil => exact absurd hc (Nat.not_lt_zero c)
  | cons x l ih =>
    have hx : (f x).length = k := h x List.mem_cons_self
    rw [List.flatMap_cons, List.append_assoc]
    cases c with
    | zero => rw [Nat.mul_zero, List.drop_zero, List.take_left' hx]; rfl
    | succ c =>
      rw [Nat.mul_succ, Nat.add_comm, ← List.drop_drop, List.drop_left' hx]
      exact ih (fun y hy => h y (List.mem_cons_of_mem x hy)) (Nat.lt_of_succ_lt_succ hc)

/-! ## The parts of a snapshot (R474) -/

theorem snapCore_length (s : State) (c : Nat) : (s.snapCore c).length = 32 := by
  simp only [State.snapCore, List.length_append, leBytes_length]

theorem snapQueue_length (s : State) (n : Nat) : (s.snapQueue n).length = 16 := by
  unfold State.snapQueue
  dsimp only
  split
  · exact leBytes_length 16 0
  · simp only [List.length_append, leBytes_length]

theorem snapLanes_length (s : State) (c : Nat) : ∀ x ∈ s.snapLanes c, x.length = 16 := by
  intro x hx
  rcases List.mem_append.1 hx with h | h
  all_goals
    obtain ⟨l, -, rfl⟩ := List.mem_map.1 h
    simp only [List.length_append, leBytes_length]

theorem allLanes_length (s : State) : ∀ x ∈ s.allLanes, x.length = 16 := by
  intro x hx
  obtain ⟨c, -, h⟩ := List.mem_flatMap.1 hx
  exact snapLanes_length s c x h

theorem snapHeader_length (s : State) : s.snapHeader.length = 128 := by
  simp only [State.snapHeader, List.length_append, leBytes_length]

/-- Lane entries that a snapshot holds. -/
def State.snapCount (s : State) : Nat := min s.laneRoom s.allLanes.length

theorem snapTail_length (s : State) : (s.allLanes.take s.laneRoom).flatten.length = 16 * s.snapCount := by
  have h := length_flatMap_const (f := id) (k := 16) (l := s.allLanes.take s.laneRoom)
    fun x hx => allLanes_length s x (List.mem_of_mem_take hx)
  rw [List.flatMap_id, List.length_take] at h
  rw [h, Nat.mul_comm]
  rfl

theorem snapshot_length (s : State) : s.snapshot.length = 656000 + 16 * s.snapCount := by
  unfold State.snapshot
  rw [List.length_append, List.length_append, List.length_append, List.length_append, snapTail_length, snapHeader_length,
    length_flatMap_const fun c _ => snapCore_length s c, length_flatMap_const fun n _ => snapQueue_length s n,
    length_flatMap_const fun i _ => padTo_length 32 (s.snapWaits.getD i [])]
  simp only [List.length_range]

/-- A snapshot is its header, the core entries and the rest. -/
theorem snapshot_split (s : State) : ∃ r, s.snapshot = s.snapHeader ++ ((List.range 16).flatMap s.snapCore ++ r) :=
  ⟨_, by unfold State.snapshot; simp only [List.append_assoc]; rfl⟩

theorem snapshot_core (s : State) {c : Nat} (hc : c < 16) : (s.snapshot.drop (0x80 + 32 * c)).take 32 = s.snapCore c := by
  obtain ⟨r, hr⟩ := snapshot_split s
  have h := flatMap_const_piece (l := List.range 16) (fun c _ => snapCore_length s c) r (c := c) (by simpa using hc)
  rw [List.getElem_range] at h
  rw [hr, ← List.drop_drop, List.drop_left' (snapHeader_length s)]
  exact h

/-- What the header shows: the magic number, the time and the number of lane entries. -/
theorem snapshot_header (s : State) : s.snapshot.take 4 = leBytes 4 0x50414E53 ∧
    (s.snapshot.drop 8).take 8 = leBytes 8 s.esc.time.toNat ∧ (s.snapshot.drop 0x18).take 4 = leBytes 4 s.snapCount := by
  obtain ⟨r, hr⟩ := snapshot_split s
  rw [hr]
  exact ⟨rfl, rfl, rfl⟩

/-! ## SNAPSHOT_DONE -/

theorem snapEnd_stores (s : State) : Stores s (snapEnd s) s.obs.snapAddr.toNat s.snapshot :=
  stores_putAll _ _ _ _ (blockWrite_mem s .keeper 0 none s.poolPorts s.obs.snapAddr.toNat s.obs.snapAddr.toNat s.snapshot)

theorem running_of_watched {s : State} (h : s.watched = true) : Running' s := by
  unfold State.watched at h
  unfold Running'
  simpa using h

/-- What O55 says of SNAPSHOT_DONE (R473 to R475). -/
theorem snapshotDone_acts (s : State) :
    ((¬Running' s ∨ s.obs.snapBusy = false) → exec .snapshotDone s = .next s) ∧
    (Running' s → s.obs.snapBusy = true →
      (2 ^ 48 < s.obs.snapAddr.toNat + s.obs.snapLen.toNat → exec .snapshotDone s = .fault .addressSpace) ∧
      (s.obs.snapAddr.toNat + s.obs.snapLen.toNat ≤ 2 ^ 48 → Answers (exec .snapshotDone s) fun t =>
        let lanes := min s.laneRoom s.allLanes.length
        Stores s t s.obs.snapAddr.toNat s.snapshot ∧ s.snapshot.length = 656000 + 16 * lanes ∧
        s.snapshot.take 4 = leBytes 4 0x50414E53 ∧ (s.snapshot.drop 8).take 8 = leBytes 8 s.esc.time.toNat ∧
        (s.snapshot.drop 0x18).take 4 = leBytes 4 lanes ∧
        (∀ c < 16, (s.snapshot.drop (0x80 + 32 * c)).take 32 = s.snapCore c) ∧
        t.obs.snapDone = true ∧ t.obs.snapBusy = false ∧ t.obs.snapTrunc = decide (s.laneRoom < s.allLanes.length) ∧
        t.obs.snapBytes = BitVec.ofNat 32 (656000 + 16 * lanes) ∧
        Only [.writes, .mem, .poison, .au, .pool, .gens, .insts, .chime, .obs, .obsCfg] s t)) := by
  have e : exec .snapshotDone s = if s.watched && s.obs.snapBusy then
      if s.obs.snapAddr.toNat + s.obs.snapLen.toNat ≤ 2 ^ 48 then .next (snapEnd s) else .fault .addressSpace
    else .next s := rfl
  refine ⟨fun h => ?_, fun hr hb => ?_⟩
  · rw [e, if_neg]
    rw [Bool.and_eq_true]
    rintro ⟨hw, hb⟩
    rcases h with h | h
    · exact h (running_of_watched hw)
    · exact Bool.false_ne_true (h.symm.trans hb)
  · rw [if_pos (by rw [watched_of_running hr, hb]; rfl)] at e
    refine ⟨fun hlt => by rw [e, if_neg (Nat.not_le.2 hlt)], fun hle => ?_⟩
    rw [if_pos hle] at e
    obtain ⟨h1, h2, h3⟩ := snapshot_header s
    exact ⟨_, e, snapEnd_stores s, snapshot_length s, h1, h2, h3, fun c hc => snapshot_core s hc, rfl, rfl, rfl,
      congrArg (BitVec.ofNat 32) (snapshot_length s), Only.wider (exec_only .snapshotDone s _ e) rfl⟩

end Sys2Proof.Machine
end

section
/-! SUPPORT. O55: halt-all, the TAP and scan-out (R408, R409, R480, R484, R485). -/

namespace Sys2Proof.Machine

/-! ## Instructions that act while the TAP is alive -/

/-- What O55 says of the TAP's instructions while it is dead. -/
theorem tap_dead {s : State} (h : s.tapAlive = false) (tdi update : Bool) (bytes : List Byte) :
    ∀ x ∈ [(.bypass tdi : Instr), .idcode, .status, .challenge, .response bytes, .tapUnlock update ()], exec x s = .next s := by
  have hn : ¬s.tapAlive = true := by rw [h]; exact Bool.false_ne_true
  simp only [List.forall_mem_cons]
  exact ⟨congrArg Host.Outcome.next (if_neg hn), congrArg Host.Outcome.next (if_neg hn), congrArg Host.Outcome.next (if_neg hn),
    congrArg Host.Outcome.next (if_neg hn), congrArg Host.Outcome.next (if_neg hn), congrArg Host.Outcome.next (if_neg hn), by simp⟩

theorem idcodeWord_eq (s : State) : s.idcodeWord = BitVec.ofNat 64 (2 ^ 28 + 0x4E47 * 2 ^ 12 + 2 * s.fuse.manufacturer.toNat + 1) := by
  unfold State.idcodeWord fields
  refine congrArg (BitVec.ofNat 64) ?_
  simp only [List.foldl_cons, List.foldl_nil]
  omega

theorem tapStatus_eq (s : State) : s.tapStatus = BitVec.ofNat 64 (2 ^ 31 * s.sec.dbgBusy.toNat + 2 ^ 30 * s.sec.unlocked.toNat +
    2 ^ 16 * s.obs.halted.toNat + s.sec.dbgCode.toNat) := by
  have hb (b : Bool) : b2n b = b.toNat := by cases b <;> rfl
  unfold State.tapStatus fields
  refine congrArg (BitVec.ofNat 64) ?_
  simp only [List.foldl_cons, List.foldl_nil, hb]
  omega

theorem digestWord_eq (d : Digest) (i : Nat) : digestWord d i = d.extractLsb' (64 * i) 64 := rfl

/-- What O55 says of BYPASS, IDCODE, STATUS, CHALLENGE and RESPONSE (R484). -/
theorem tap_reads {s : State} (h : s.tapAlive = true) (tdi : Bool) (bytes : List Byte) :
    let takes (ir : BitVec 8) (dr : List W64) : State := { s with tap := { s.tap with ir := ir, dr := dr } }
    exec (.bypass tdi) s = .next { s with tap := { s.tap with ir := 0xFF#8, bypass := tdi } } ∧
    exec .idcode s = .next (takes 0x01#8 [BitVec.ofNat 64 (2 ^ 28 + 0x4E47 * 2 ^ 12 + 2 * s.fuse.manufacturer.toNat + 1)]) ∧
    exec .status s = .next (takes 0x10#8 [BitVec.ofNat 64 (2 ^ 31 * s.sec.dbgBusy.toNat + 2 ^ 30 * s.sec.unlocked.toNat +
      2 ^ 16 * s.obs.halted.toNat + s.sec.dbgCode.toNat)]) ∧
    Answers (exec .challenge s) (fun t => t.tap.ir = 0x11#8 ∧ t.tap.dr.length = 6 ∧
      (∀ i < 6, t.tap.dr.getD i 0#64 = s.sec.challenge.extractLsb' (64 * i) 64) ∧ Only [.tap] s t) ∧
    Answers (exec (.response bytes) s) (fun t => t.tap.ir = 0x12#8 ∧ t.sec.response.length = 5696 ∧
      (∀ i < 5696, t.sec.response.getD i 0#8 = bytes.getD i 0#8) ∧ t.sec.challenge = s.sec.challenge ∧
      t.sec.unlocked = s.sec.unlocked ∧ Only [.tap, .sec] s t) := by
  intro takes
  have e1 : exec .idcode s = .next (takes 0x01#8 [s.idcodeWord]) := congrArg Host.Outcome.next (if_pos h)
  have e2 : exec .status s = .next (takes 0x10#8 [s.tapStatus]) := congrArg Host.Outcome.next (if_pos h)
  have e3 : exec .challenge s = .next (takes 0x11#8 ((List.range 6).map (digestWord s.sec.challenge))) :=
    congrArg Host.Outcome.next (if_pos h)
  have e4 : exec (.response bytes) s = .next (tapTake { s with sec := { s.sec with response := padTo signedLen bytes } } 0x12#8 []) :=
    congrArg Host.Outcome.next (if_pos h)
  have hlen : (padTo signedLen bytes).length = 5696 := padTo_length signedLen bytes
  have hpad : ∀ i < 5696, (padTo signedLen bytes).getD i 0#8 = bytes.getD i 0#8 := fun i hi => padTo_getD (n := signedLen) bytes hi
  generalize padTo signedLen bytes = bs at e4 hlen hpad
  rw [idcodeWord_eq] at e1
  rw [tapStatus_eq] at e2
  refine ⟨congrArg Host.Outcome.next (if_pos h), e1, e2, ⟨_, e3, rfl, rfl, fun i hi => ?_, Only.wider (exec_only .challenge s _ e3) rfl⟩,
    ⟨_, e4, rfl, hlen, hpad, rfl, rfl, Only.wider (exec_only (.response bytes) s _ e4) rfl⟩⟩
  change ((List.range 6).map (digestWord s.sec.challenge)).getD i 0#64 = _
  rw [List.getD_eq_getElem _ _ (by simpa using hi), List.getElem_map, List.getElem_range, digestWord_eq]

/-! ## UNLOCK through the TAP (R409, R484) -/

theorem exec_tapUnlock {s : State} (h : s.tapAlive = true) (update : Bool) : exec (.tapUnlock update ()) s =
    .next (if update && s.portAlive then unlockWith (tapTake s 0x13#8 []) (padTo signedLen s.sec.response) false else tapTake s 0x13#8 []) :=
  congrArg Host.Outcome.next (if_pos h)

theorem tapUnlock_idle {s : State} (h : s.tapAlive = true) {update : Bool}
    (hn : update = false ∨ s.portAlive = false ∨ s.sec.dbgBusy = true) :
    exec (.tapUnlock update ()) s = .next (tapTake s 0x13#8 []) := by
  rw [exec_tapUnlock h]
  refine congrArg Host.Outcome.next ?_
  split
  · next hu =>
    obtain ⟨hu, ha⟩ := Bool.and_eq_true_iff.1 hu
    rcases hn with hn | hn | hn
    · exact absurd (hn.symm.trans hu) Bool.false_ne_true
    · exact absurd (hn.symm.trans ha) Bool.false_ne_true
    · exact if_pos hn
  · rfl

/-- What O55 says of an update of UNLOCK that is answered (R409, R484). -/
theorem tapUnlock_acts {s : State} (h : s.tapAlive = true) (ha : s.portAlive = true) (hb : s.sec.dbgBusy = false) :
    Answers (exec (.tapUnlock true ()) s) fun t =>
      let good := responseOk s s.sec.challenge (padTo 5696 s.sec.response)
      t.tap.ir = 0x13#8 ∧ t.sec.challenge = (s.drawDigest).1 ∧ t.sec.unlocked = s.sec.unlocked ∧
      Only [.au, .run, .insts, .jobs, .cores, .sec, .chime, .obs, .tap, .freeCount, .obsCfg, .auIdle] s t ∧
      (s.sec.locked = true → t.sec.dbgCode = Config.ACCESS_DENIED ∧ t.sec.dbgBusy = false ∧ Only [.tap, .sec, .freeCount] s t) ∧
      (s.sec.locked = false → good = false → t.sec.dbgCode = Config.DEBUG_ATTACK ∧ t.sec.dbgBusy = false ∧ Alarmed s t 2) ∧
      (s.sec.locked = false → good = true → t.sec.dbgCode = Config.NONE ∧ t.sec.dbgBusy = true ∧ Erased s t false) := by
  obtain ⟨w, hw⟩ : ∃ w, w = tapTake s 0x13#8 [] := ⟨_, rfl⟩
  have hsec : w.sec = s.sec := by rw [hw]; rfl
  have hun : w.sec.unlocked = s.sec.unlocked := congrArg Sec.unlocked hsec
  have hbusy : w.sec.dbgBusy = false := (congrArg Sec.dbgBusy hsec).trans hb
  have hfree : w.drawDigest.1 = s.drawDigest.1 := by rw [hw]; rfl
  have hok : responseOk (unlockFresh w) w.sec.challenge (padTo signedLen s.sec.response) =
      responseOk s s.sec.challenge (padTo 5696 s.sec.response) := by rw [hw]; rfl
  have hir : w.tap.ir = 0x13#8 := by rw [hw]; rfl
  have hwon : Only [.tap] s w := hw ▸ tapTake_only s _ _
  have hwa : w.portAlive = true := by rw [hw]; exact ha
  have e := exec_tapUnlock h true
  rw [← hw, if_pos (by rw [ha]; rfl)] at e
  have htap : (unlockWith w (padTo signedLen s.sec.response) false).tap = w.tap := unlockWith_only w _ false .tap (by decide)
  have hon := Only.wider (l := [.au, .run, .insts, .jobs, .cores, .sec, .chime, .obs, .tap, .freeCount, .obsCfg, .auIdle])
    (exec_only (.tapUnlock true ()) s _ e) rfl
  have hopen := unlockWith_open (padTo signedLen s.sec.response) false hbusy
  rw [if_neg Bool.false_ne_true, hok, hsec] at hopen
  have hcom {t : State} {b : Sec} (hc : t.sec.commands = b.commands) : t.sec.challenge = b.challenge ∧ t.sec.dbgCode = b.dbgCode ∧
      t.sec.dbgBusy = b.dbgBusy ∧ t.sec.unlocked = b.unlocked :=
    ⟨congrArg (fun c => c.2.2.2.1) hc, congrArg (fun c => c.2.2.2.2.1) hc, congrArg (fun c => c.2.2.2.2.2.1) hc,
      congrArg (fun c => c.2.2.2.2.2.2) hc⟩
  refine ⟨_, e, ?_⟩
  dsimp only
  rw [htap, hir]
  generalize responseOk s s.sec.challenge (padTo 5696 s.sec.response) = good at hopen ⊢
  by_cases hl : s.sec.locked = true
  · rw [if_pos hl] at hopen
    rw [hopen] at hon ⊢
    have hx : Only [.tap, .sec, .freeCount] s (unlockAnswered w Config.ACCESS_DENIED) :=
      (unlockAnswered_only w _).step (by decide) (hwon.wider (by decide))
    exact ⟨rfl, hfree, hun, hon, fun _ => ⟨rfl, hbusy, hx⟩,
      fun hn => absurd (hn.symm.trans hl) Bool.false_ne_true, fun hn => absurd (hn.symm.trans hl) Bool.false_ne_true⟩
  rw [if_neg hl] at hopen
  by_cases hg : good = true
  · rw [if_pos hg] at hopen
    obtain ⟨hc, -, he, -⟩ := unlockBegin_begins (unlockFresh w)
    obtain ⟨c1, c2, c3, c4⟩ := hcom hc
    rw [hopen] at hon ⊢
    refine ⟨rfl, c1.trans hfree, c4.trans hun, hon, fun hn => absurd hn hl,
      fun _ hn => absurd (hn.symm.trans hg) Bool.false_ne_true, fun _ _ => ⟨c2, c3, ?_⟩⟩
    subst hw
    exact he
  · rw [if_neg hg] at hopen
    obtain ⟨c1, c2, c3, c4⟩ := hcom (tamperRaise_commands (unlockAnswered w Config.DEBUG_ATTACK) 2)
    have hal : Alarmed (unlockAnswered w Config.DEBUG_ATTACK) (tamperRaise (unlockAnswered w Config.DEBUG_ATTACK) 2) 2 :=
      tamperRaise_alarmed 2 hwa
    rw [hopen] at hon ⊢
    refine ⟨rfl, c1.trans hfree, c4.trans hun, hon, fun hn => absurd hn hl,
      fun _ _ => ⟨c2, c3.trans hbusy, ?_⟩, fun _ hn => absurd hn hg⟩
    subst hw
    exact hal

/-! ## Instructions marked unlocked only (R7, R484) -/

theorem tapUnlocked_still {s : State} (f : State → State) (h : s.tapAlive = false ∨ (s.portAlive = false ∧ s.sec.unlocked = true)) :
    tapUnlocked s f = s := by
  unfold tapUnlocked
  rcases h with h | ⟨ha, hu⟩
  · rw [h, Bool.not_false, if_pos rfl]
  · split
    · rfl
    · rw [hu, ha, Bool.not_true, if_neg Bool.false_ne_true, if_neg Bool.false_ne_true]

theorem tapUnlocked_locked {s : State} (f : State → State) (h : s.tapAlive = true) (hu : s.sec.unlocked = false) :
    tapUnlocked s f = tapBypass (tamperRaise s 2) false := by
  unfold tapUnlocked
  rw [h, hu, Bool.not_true, if_neg Bool.false_ne_true, Bool.not_false, if_pos rfl]

theorem tapUnlocked_open {s : State} (f : State → State) (h : s.tapAlive = true) (ha : s.portAlive = true) (hu : s.sec.unlocked = true) :
    tapUnlocked s f = f s := by
  unfold tapUnlocked
  rw [h, hu, ha, Bool.not_true, if_neg Bool.false_ne_true, if_neg Bool.false_ne_true, if_pos rfl]

/-- Each of the five rows acts through the same guard. -/
theorem unlockedOnly_row (s : State) (update : Bool) (chain : BitVec 16) (value : W32) :
    ∀ x ∈ [(.tapHaltAll update : Instr), .scanSel chain, .scanData, .scratchAddr value, .scratchData],
      ∃ f, exec x s = .next (tapUnlocked s f) := by
  simp only [List.forall_mem_cons]
  exact ⟨⟨_, rfl⟩, ⟨_, rfl⟩, ⟨_, rfl⟩, ⟨_, rfl⟩, ⟨_, rfl⟩, by simp⟩

/-- What an instruction marked unlocked only does while locked (R7, R484). -/
theorem tapBypass_alarmed (s : State) :
    let t := tapBypass (tamperRaise s 2) false
    t.tap = { s.tap with ir := 0xFF#8, bypass := false } ∧ t.obs.halted = s.obs.halted ∧ (s.portAlive = true → Alarmed s t 2) ∧
      t.sec.pending = s.sec.pending ||| 4#5 ∧ tget 0#32 t.sec.counts 2 = satInc (tget 0#32 s.sec.counts 2) ∧
      (s.portAlive = false → Only [.sec, .tap] s t) ∧
      Only [.au, .run, .insts, .jobs, .cores, .sec, .chime, .obs, .tap, .freeCount, .auIdle] s t := by
  intro t
  have hon := tamperRaise_only s 2
  have htap : (tamperRaise s 2).tap = s.tap := hon .tap (by decide)
  have hobs : ObsKept s.obs (tamperRaise s 2).obs := hon .obsCfg (by decide)
  have hal : s.portAlive = true → Alarmed s (tamperRaise s 2) 2 := tamperRaise_alarmed 2
  have hquiet : s.portAlive = false → tamperRaise s 2 = tamperCount s 2 := fun h => if_neg (by rw [h]; exact Bool.false_ne_true)
  have hset : Only [.tap] (tamperRaise s 2) t := Only.set_tap (by decide) (.refl _ _)
  refine ⟨?_, ?_, hal, ?_, tamperRaise_counts s 2, fun h => ?_, hset.step (by decide) (hon.wider (by decide))⟩
  · change { (tamperRaise s 2).tap with ir := 0xFF#8, bypass := false } = _
    rw [htap]
  · have hh := congrArg Obs.halted hobs
    exact hh
  · change (tamperRaise s 2).sec.pending = _
    by_cases h : s.portAlive = true
    · exact (hal h).1
    · rw [hquiet (by simpa using h)]
      rfl
  · have hs : Only [.sec, .tap] s (tamperRaise s 2) := by
      rw [hquiet h]
      exact Only.set_sec (by decide) (.refl _ s)
    exact hset.step (by decide) hs

end Sys2Proof.Machine
end

section
/-! SUPPORT. O55: what the chains of the TAP capture (R485). -/

namespace Sys2Proof.Machine

/-! ## Captures -/

theorem scanCapture_running {s : State} (rest : W64) (h : s.obs.halted = false) : scanCapture s rest = [] :=
  if_pos (by rw [h]; rfl)

/-- The capture of a core's chain in halt-all. -/
theorem scanCapture_core {s : State} {k : Nat} (rest : W64) (h : s.obs.halted = true) (hk : k < 16) (hc : s.tap.chain.toNat = 2 + k) :
    scanCapture s rest = if (s.core k).lastSealed then [] else (s.core k).scanWords ++ (s.core k).chainWords ++ [rest] := by
  unfold scanCapture
  rw [h, hc]
  dsimp only
  rw [Bool.not_true, if_neg Bool.false_ne_true, if_neg (by omega), if_pos (by omega), Nat.add_sub_cancel_left]

/-- The capture of a core's accumulator chain in halt-all. -/
theorem scanCapture_acc {s : State} {k : Nat} (rest : W64) (h : s.obs.halted = true) (hk : k < 16) (hc : s.tap.chain.toNat = 18 + k) :
    scanCapture s rest = if (s.core k).lastSealed then [] else (s.core k).accWords := by
  unfold scanCapture
  rw [h, hc]
  dsimp only
  rw [Bool.not_true, if_neg Bool.false_ne_true, if_neg (by omega), if_neg (by omega), if_pos (by omega), Nat.add_sub_cancel_left]

theorem chainWords_length (k : Core) : k.chainWords.length = 1024 := by
  unfold Core.chainWords
  rw [length_flatMap_const (k := 256) fun n _ => by rw [List.length_map, List.length_range], List.length_range]

theorem chainWords_getD (k : Core) {n i : Nat} (hn : n < 4) (hi : i < 256) (r : List W64) :
    (k.chainWords ++ r).getD (256 * n + i) 0#64 = wordAt (tget [] k.ve.chains n) i := by
  have h := flatMap_const_piece (f := fun n => (List.range 256).map fun i => wordAt (tget [] k.ve.chains n) i) (k := 256)
    (l := List.range 4) (fun n _ => by rw [List.length_map, List.length_range]) r (c := n) (by rwa [List.length_range])
  rw [List.getElem_range] at h
  have hg := congrArg (fun l => l.getD i 0#64) h
  simp only [List.getD_eq_getElem?_getD, List.getElem?_take, if_pos hi, List.getElem?_drop] at hg
  rw [List.getD_eq_getElem?_getD]
  refine Eq.trans hg ?_
  rw [List.getElem?_map, List.getElem?_range hi]
  rfl

/-- A core's chain: its PC, registers, flags and bound counter, then its chain registers. -/
theorem coreChain_shows (k : Core) (rest : W64) :
    let dr := k.scanWords ++ k.chainWords ++ [rest]
    dr.length = 1059 ∧ dr.take 1 = [BitVec.ofNat 64 k.pc] ∧ (∀ n < 31, dr.getD (1 + n) 0#64 = k.reg (n + 1)) ∧
      dr.getD 32 0#64 = k.flags ∧ dr.getD 33 0#64 = k.boundUsed.setWidth 64 ∧
      (∀ n < 4, ∀ i < 256, dr.getD (34 + 256 * n + i) 0#64 = wordAt (tget [] k.ve.chains n) i) := by
  intro dr
  obtain ⟨regs, hregs⟩ : ∃ regs, regs = (List.range 31).map fun n => k.reg (n + 1) := ⟨_, rfl⟩
  have hlen : regs.length = 31 := by rw [hregs, List.length_map, List.length_range]
  have e : dr = BitVec.ofNat 64 k.pc :: (regs ++ k.flags :: k.boundUsed.setWidth 64 :: (k.chainWords ++ [rest])) := by
    rw [hregs]
    simp only [dr, Core.scanWords, List.cons_append, List.append_assoc, List.nil_append]
  have hpast (i : Nat) : dr.getD (32 + i) 0#64 = (k.flags :: k.boundUsed.setWidth 64 :: (k.chainWords ++ [rest])).getD i 0#64 := by
    rw [e, show 32 + i = (31 + i) + 1 by omega, List.getD_cons_succ, List.getD_append_right _ _ _ _ (by omega), hlen,
      Nat.add_sub_cancel_left]
  refine ⟨?_, by rw [e]; rfl, fun n hn => ?_, hpast 0, hpast 1, fun n hn i hi => ?_⟩
  · rw [e]
    simp only [List.length_cons, List.length_append, List.length_nil, hlen, chainWords_length]
  · rw [e, Nat.add_comm, List.getD_cons_succ, List.getD_append _ _ _ _ (by omega), hregs,
      List.getD_eq_getElem _ _ (by simpa using hn), List.getElem_map, List.getElem_range]
  · rw [show 34 + 256 * n + i = 32 + (256 * n + i + 1 + 1) by omega, hpast, List.getD_cons_succ, List.getD_cons_succ]
    exact chainWords_getD k hn hi [rest]

theorem accWords_shows (k : Core) : k.accWords.length = 262144 ∧
    ∀ n < 262144, k.accWords.getD n 0#64 = (tget 0#32 k.me.acc n).setWidth 64 := by
  unfold Core.accWords
  generalize 262144 = m
  refine ⟨by rw [List.length_map, List.length_range], fun n hn => ?_⟩
  rw [List.getD_eq_getElem _ _ (by simpa using hn), List.getElem_map, List.getElem_range]

/-! ## Words of a scratch line -/

theorem leNat_lt (bs : List Byte) : leNat bs < 256 ^ bs.length := by
  induction bs with
  | nil => exact Nat.one_pos
  | cons b r ih =>
    rw [leNat, List.length_cons, Nat.pow_succ']
    have hb := b.isLt
    omega

theorem wordAt_scratchBytes (k : Core) (off : Nat) {len j : Nat} (h : 8 * j + 8 ≤ len) :
    (wordAt (k.scratchBytes off len) j).toNat = leNat (k.scratchBytes (off + 8 * j) 8) := by
  have e : leAt (k.scratchBytes off len) (8 * j) 8 = leNat (k.scratchBytes (off + 8 * j) 8) := by
    refine congrArg leNat (List.ext_getElem (by simp [Core.scratchBytes]; omega) fun i h1 h2 => ?_)
    simp only [Core.scratchBytes, List.getElem_take, List.getElem_drop, List.getElem_map, List.getElem_range, Nat.add_assoc]
  have hlt := leNat_lt (k.scratchBytes (off + 8 * j) 8)
  have hlen : (k.scratchBytes (off + 8 * j) 8).length = 8 := by simp [Core.scratchBytes]
  rw [hlen] at hlt
  unfold wordAt
  rw [e, BitVec.toNat_ofNat, Nat.mod_eq_of_lt (by simpa using hlt)]

theorem scratchCapture_length (s : State) (c line : Nat) (free : List W64) : (scratchCapture s c line free).length = 16 := by
  unfold scratchCapture
  split <;> simp

theorem scratchCapture_shut {s : State} {c line : Nat} (free : List W64)
    (h : s.obs.halted = false ∨ s.present c = false ∨ s.lineSealed c line = true) (i : Nat) :
    (scratchCapture s c line free).getD i 0#64 = 0#64 := by
  unfold scratchCapture
  rw [if_neg (by rcases h with h | h | h <;> simp [h])]
  rw [List.getD_eq_getElem?_getD, List.getElem?_replicate]
  split <;> rfl

theorem scratchCapture_word {s : State} {c line : Nat} (free : List W64) (hh : s.obs.halted = true) (hp : s.present c = true)
    (hs : s.lineSealed c line = false) {i : Nat} (hi : i < 16) (hr : s.inRecord c (128 * line + 8 * i) = false) :
    ((scratchCapture s c line free).getD i 0#64).toNat = leNat ((s.core c).scratchBytes (128 * line + 8 * i) 8) := by
  unfold scratchCapture
  rw [if_pos (by rw [hh, hp, hs]; rfl), List.getD_eq_getElem _ _ (by simpa using hi), List.getElem_map, List.getElem_range, hr,
    if_neg Bool.false_ne_true]
  exact wordAt_scratchBytes _ _ (by omega)

/-! ## The rows while unlocked -/

theorem tapFree_only (s : State) (x : Tap) (n : Nat) : Only [.tap, .freeCount] s { s with tap := x, freeCount := n } := by
  have h : Only [.tap, .freeCount] s { s with freeCount := n } := Only.set_freeCount (by decide) (.refl _ s)
  exact Only.set_tap (by decide) h

theorem scratchAddr_fields (value : W32) : BitVec.ofNat 4 (bitField value.toNat 31 28) = value.extractLsb' 28 4 ∧
    BitVec.ofNat 18 (bitField value.toNat 24 7) = value.extractLsb' 7 18 := by
  constructor
  all_goals
    apply BitVec.eq_of_toNat_eq
    simp [bitField, BitVec.extractLsb'_toNat]

theorem scanData_captures (s : State) : let t := tapTake s.drawWord.2 0x22#8 (scanCapture s s.drawWord.1)
    t.tap.ir = 0x22#8 ∧ Only [.tap, .freeCount] s t ∧
    (s.obs.halted = false → t.tap.dr = []) ∧
    (∀ k < 16, (s.tap.chain.toNat = 2 + k ∨ s.tap.chain.toNat = 18 + k) → (s.core k).lastSealed = true → t.tap.dr = []) ∧
    (∀ k < 16, s.obs.halted = true → (s.core k).lastSealed = false →
      (s.tap.chain.toNat = 2 + k → t.tap.dr.length = 1059 ∧ t.tap.dr.take 1 = [BitVec.ofNat 64 (s.core k).pc] ∧
        (∀ n < 31, t.tap.dr.getD (1 + n) 0#64 = (s.core k).reg (n + 1)) ∧ t.tap.dr.getD 32 0#64 = (s.core k).flags ∧
        t.tap.dr.getD 33 0#64 = (s.core k).boundUsed.setWidth 64 ∧
        (∀ n < 4, ∀ i < 256, t.tap.dr.getD (34 + 256 * n + i) 0#64 = wordAt (tget [] (s.core k).ve.chains n) i)) ∧
      (s.tap.chain.toNat = 18 + k → t.tap.dr.length = 262144 ∧
        ∀ n < 262144, t.tap.dr.getD n 0#64 = (tget 0#32 (s.core k).me.acc n).setWidth 64)) := by
  intro t
  obtain ⟨dr, hdr⟩ : ∃ dr, dr = scanCapture s s.drawWord.1 := ⟨_, rfl⟩
  have ht : t.tap.dr = dr := hdr.symm
  rw [ht]
  refine ⟨rfl, tapFree_only s _ _, fun h => hdr.trans (scanCapture_running _ h), fun k hk hc hs => ?_, fun k hk hh hs => ⟨fun hc => ?_, fun hc => ?_⟩⟩
  · cases hh : s.obs.halted
    · exact hdr.trans (scanCapture_running _ hh)
    · rcases hc with hc | hc
      · rw [hdr, scanCapture_core _ hh hk hc, if_pos hs]
      · rw [hdr, scanCapture_acc _ hh hk hc, if_pos hs]
  · rw [scanCapture_core _ hh hk hc, hs, if_neg Bool.false_ne_true] at hdr
    rw [hdr]
    exact coreChain_shows (s.core k) s.drawWord.1
  · rw [scanCapture_acc _ hh hk hc, hs, if_neg Bool.false_ne_true] at hdr
    rw [hdr]
    exact accWords_shows (s.core k)

/-- The state that SCRATCH_DATA answers. -/
def scratchTaken (s : State) : State :=
  let t := tapTake (s.drawWords 16).2 0x24#8 (scratchCapture s s.tap.scratchCore.toNat s.tap.scratchLine.toNat (s.drawWords 16).1)
  { t with tap := { t.tap with scratchLine := t.tap.scratchLine + 1#18 } }

theorem scratchTaken_captures (s : State) :
    let t := scratchTaken s
    let c := s.tap.scratchCore.toNat
    let line := s.tap.scratchLine.toNat
    t.tap.ir = 0x24#8 ∧ t.tap.scratchLine = s.tap.scratchLine + 1#18 ∧
      t.tap.scratchCore = s.tap.scratchCore ∧ t.tap.dr.length = 16 ∧ Only [.tap, .freeCount] s t ∧
      ((s.obs.halted = false ∨ s.present c = false ∨ s.lineSealed c line = true) → ∀ i < 16, t.tap.dr.getD i 0#64 = 0#64) ∧
      (s.obs.halted = true → s.present c = true → s.lineSealed c line = false →
        ∀ i < 16, s.inRecord c (128 * line + 8 * i) = false → (t.tap.dr.getD i 0#64).toNat = leNat ((s.core c).scratchBytes (128 * line + 8 * i) 8)) :=
  ⟨rfl, rfl, rfl, scratchCapture_length _ _ _ _, tapFree_only s _ _, fun h i _ => scratchCapture_shut _ h i,
    fun hh hp hs _ hi hr => scratchCapture_word _ hh hp hs hi hr⟩

theorem exec_take {s : State} {who : Who} (h : ManagerMay s who) : exec (.take who) s = .next (snapBegin s) :=
  congrArg Host.Outcome.next (hostWrite_may h PM_SNAP_CMD false snapBegin (by decide) rfl)

/-- Settles O55: the rows through their guards, the frames and captures read from their lists. -/
theorem observationAndTap : Obligations.ObservationAndTap := by
  refine ⟨fun s who cores h => ⟨pmReset_acts h, ?_, traceFull_acts h cores, fun hb => ?_, fun hb hl => ?_, fun hb hl => ?_, ?_⟩,
    fun s => ⟨fun h => ?_, traceFrameSend_acts, (snapshotDone_acts s).1, (snapshotDone_acts s).2⟩,
    fun s tdi update bytes => ⟨fun h => tap_dead h tdi update bytes, fun h => ?_⟩,
    fun s update chain value => ⟨fun h x hx => ?_, fun h hu x hx => ?_, fun h ha hu => ?_⟩⟩
  · obtain ⟨e1, e2, -⟩ := trace_writes h cores
    obtain ⟨a1, a2⟩ := traceLower_acts (s := s) (m := 0#2) (.inl rfl)
    obtain ⟨b1, b2⟩ := traceLower_acts (s := s) (m := 1#2) (.inr rfl)
    simp only [List.forall_mem_cons]
    exact ⟨⟨fun hm hr => e1.trans (congrArg _ (a1 hm hr)), fun hm => e1.trans (congrArg _ (a2 hm))⟩,
      ⟨fun hm hr => e2.trans (congrArg _ (b1 hm hr)), fun hm => e2.trans (congrArg _ (b2 hm))⟩, by simp⟩
  · rw [exec_take h]
    exact congrArg Host.Outcome.next (if_pos hb)
  · rw [exec_take h]
    exact congrArg Host.Outcome.next ((if_neg (by rw [hb]; exact Bool.false_ne_true)).trans (if_pos hl))
  · rw [exec_take h]
    exact congrArg Host.Outcome.next ((if_neg (by rw [hb]; exact Bool.false_ne_true)).trans (if_neg (Nat.not_lt.2 hl)))
  · have e : exec (.haltAll who) s = .next (haltRaise s) := congrArg Host.Outcome.next (hostWrite_may h DBG_CTL false haltRaise (by decide) rfl)
    rw [e]
    exact congrArg Host.Outcome.next (if_neg (by rw [h.2.1]; exact Bool.false_ne_true))
  · exact congrArg Host.Outcome.next (if_neg (by rw [h]; exact Bool.false_ne_true))
  · obtain ⟨r1, r2, r3, r4, r5⟩ := tap_reads h tdi bytes
    exact ⟨r1, r2, r3, r4, r5, fun hn => tapUnlock_idle h hn, fun _ ha hb => tapUnlock_acts h ha hb⟩
  · obtain ⟨f, hf⟩ := unlockedOnly_row s update chain value x hx
    rw [hf, tapUnlocked_still f h]
  · obtain ⟨f, hf⟩ := unlockedOnly_row s update chain value x hx
    rw [tapUnlocked_locked f h hu] at hf
    exact ⟨_, hf, tapBypass_alarmed s⟩
  · have hopen (f : State → State) : tapUnlocked s f = f s := tapUnlocked_open f h ha hu
    intro takes sel c line
    have hlow : exec (.tapHaltAll false) s = .next (takes 0x20#8 []) := congrArg Host.Outcome.next (hopen _)
    have hraise : exec (.tapHaltAll true) s = .next (haltRaise (takes 0x20#8 [])) := congrArg Host.Outcome.next (hopen _)
    have hsel : exec (.scanSel chain) s = _ := congrArg Host.Outcome.next (hopen _)
    have hdata : exec .scanData s = _ := congrArg Host.Outcome.next (hopen _)
    have haddr : exec (.scratchAddr value) s = _ := congrArg Host.Outcome.next (hopen _)
    have hline : exec .scratchData s = .next (scratchTaken s) := congrArg Host.Outcome.next (hopen _)
    refine ⟨hlow, fun hh => hraise.trans (congrArg _ (if_pos hh)), fun hh => hraise.trans (congrArg _ (if_neg (by rw [show (takes 0x20#8 []).obs.halted = s.obs.halted from rfl, hh]; exact Bool.false_ne_true))),
      ⟨_, hsel⟩, ⟨_, hdata, scanData_captures s⟩, ?_, ⟨_, hline, scratchTaken_captures s⟩⟩
    obtain ⟨e1, e2⟩ := scratchAddr_fields value
    intro named
    rw [haddr, e1, e2]
    rfl

end Sys2Proof.Machine
end

section
/-! SUPPORT. O42: a disable that meets a job table in which one number stands twice (R52, R360). -/

namespace Sys2Proof.Machine

/-- A station of graph 0. -/
def graphStation : Station :=
  { index := 0, part := 0, win := 0, cores := 1, features := 0#2, graph := 0, bound := 1000, energyUj := 1, share := 65536,
    progOffset := 0, progLen := 256, entry := 0, key := 0#64, objFirst := 0, objCount := 0 }

/-- An image with that station alone, running on core 0. -/
def graphImage : Running :=
  { img := { imageId := 1#32, seq := 1#32, needs := 0#2, digest := 0#384, base := 0, len := 4096, progBase := 0, progLen := 256,
             periodUs := 1000, capDw := 1000, pausesPerBeat := 1, pauseMaxUs := 10, replayNs := 0, parts := [], windows := [],
             stations := [graphStation], edges := [], counters := [], slots := [], mirror := none, tamper := [] }
    place := { partCores := [[0]], stationCores := [[0]], shareBase := [], counterId := [], resPorts := [], resWays := [], slack := [] }
    imageSlot := 0#2, changedNow := [], beat := [], openWin := [], killedGraphs := [], passed := [], bindings := [] }

/-- A free job of instance 1 on core 1. -/
def tenantJob : Job := { corelessJob with cores := [1] }

/-- A job of the station on core 0. -/
def graphJob : Job := { corelessJob with kind := .station 0, cores := [0] }

/-- A drain of instance 1 with nothing past fetch. The job table holds job 0 as a job of the station, and behind it as one of the
instance, and job 1 as a job of the instance, and behind it as one of the station. -/
def twiceNumbered : State :=
  { State.reset with
    run := some graphImage, ctxs := [(0, { Ctx.reset with inst := 1 })],
    insts := [(1, { Inst.reset with
      state := .disabling, disabling := some { drain := true, draining := true, stopped := false, killed := 0 } })],
    jobs := [(0, graphJob), (0, tenantJob), (1, tenantJob), (1, graphJob)] }

/-- A command answers a next state in which job 1 is killed as one of a graph whose other station a fault has killed. -/
def killedWithGraph : Host.Outcome State Fault Refusal → Bool
  | .next t => (t.job 1).any fun j => j.kill == some .fault
  | _ => false

/-- Refutes O42: in `twiceNumbered` DRAIN_TIMEOUT kills the instance's jobs by number. Number 0 names the station's job, whose graph
takes job 1 with it, so that the kill of job 1, a running job of the instance, is not the disable's. -/
theorem not_instancesAreMadeAndDisabled : ¬Obligations.InstancesAreMadeAndDisabled := by
  intro ⟨_, h⟩
  obtain ⟨t, e, ⟨_, _, hjobs, _⟩, _⟩ := ((h twiceNumbered 1#6).2 { drain := true, draining := true, stopped := false, killed := 0 }
    (by decide +kernel) (by unfold Running'; decide +kernel) (by decide +kernel)).2.1 rfl rfl (by decide +kernel) (by decide +kernel)
    (by decide +kernel) (by decide +kernel)
  obtain ⟨k, hk, -, hkill⟩ := hjobs 1 tenantJob (by decide +kernel) (by decide +kernel) (by decide)
  have hgraph : killedWithGraph (exec (.drainTimeout 1#6) twiceNumbered) = true := by decide +kernel
  rw [e] at hgraph
  have hfault : ((t.job 1).any fun j => j.kill == some .fault) = true := hgraph
  rw [hk, Option.any_some, (hkill rfl).1] at hfault
  exact absurd hfault (by decide)

end Sys2Proof.Machine
end

section
/-! SUPPORT. O15: FREE_LAUNCH and the launches after the first (R49, R50, R135, R335). -/

namespace Sys2Proof.Machine

/-! ## What a launch leaves of jobs and busy cores -/

/-- From s to t launches may come between: a job that stands in s stands in t, and a core that is not idle is as it was. -/
def LaunchKeeps (n : Nat) (s t : State) : Prop :=
  n < s.nextJob → n < t.nextJob ∧ t.job n = s.job n ∧ ∀ d, (s.core d).isIdle = false → t.core d = s.core d

theorem LaunchKeeps.refl (n : Nat) (s : State) : LaunchKeeps n s s := fun h => ⟨h, rfl, fun _ _ => rfl⟩

theorem LaunchKeeps.trans {n : Nat} {s t u : State} (g : LaunchKeeps n s t) (h : LaunchKeeps n t u) : LaunchKeeps n s u := by
  intro hn
  obtain ⟨ht, hj, hc⟩ := g hn
  obtain ⟨hu, hj', hc'⟩ := h ht
  exact ⟨hu, hj'.trans hj, fun d hd => (hc' d (by rw [hc d hd]; exact hd)).trans (hc d hd)⟩

theorem LaunchKeeps.of_only {xs : List Field} {s t : State} (h : Only xs s t) (n : Nat) (hj : Field.jobs ∉ xs) (hn : Field.nextJob ∉ xs)
    (hc : Field.cores ∉ xs) : LaunchKeeps n s t := by
  have ej : t.jobs = s.jobs := h .jobs hj
  have en : t.nextJob = s.nextJob := h .nextJob hn
  have ec : t.cores = s.cores := h .cores hc
  intro hlt
  unfold State.job State.core
  rw [ej, en, ec]
  exact ⟨hlt, rfl, fun _ _ => rfl⟩

theorem beginCores_core_ne {l : List (Nat × Nat)} {d : Nat} (hd : ∀ x ∈ l, d ≠ x.1) (s : State) (j : Job) (n entry : Nat) (args : List W64) :
    (beginCores s l j n entry args).core d = s.core d := by
  unfold beginCores
  induction l generalizing s with
  | nil => rfl
  | cons x l ih =>
    rw [List.foldl_cons, ih fun y hy => hd y (List.mem_cons_of_mem x hy)]
    unfold traceJob
    rw [traceCore_core, State.setCore_core_ne _ _ _ _ (hd x List.mem_cons_self)]

/-- A core that a launch does not take is as it was. -/
theorem launchJob_core_ne (s : State) (j : Job) (entry queue : Nat) (args : List W64) {d : Nat} (hd : d ∉ j.cores) :
    (launchJob s j entry queue args).core d = s.core d := by
  obtain ⟨u, hu⟩ : ∃ u, u = traceKeeper { s.setJob s.nextJob j with nextJob := s.nextJob + 1 } 0x11
    (leBytes 2 queue ++ leBytes 2 j.stationCode.toNat ++ leBytes 2 (maskOf j.cores) ++ leBytes 2 j.gen) := ⟨_, rfl⟩
  have ht : launchJob s j entry queue args = beginCores u (j.cores.zipIdx) j s.nextJob entry args := by rw [hu]; rfl
  have huo : Only [.obs] { s.setJob s.nextJob j with nextJob := s.nextJob + 1 } u := hu ▸ traceKeeper_only _ _ _
  have hcore : u.core d = s.core d := by
    unfold State.core
    rw [huo .cores (by decide)]
    rfl
  rw [ht, beginCores_core_ne (fun x hx e => hd (by rw [e]; exact List.fst_mem_of_mem_zipIdx hx)), hcore]

theorem launchJob_keeps (n : Nat) (s : State) (j : Job) (entry queue : Nat) (args : List W64)
    (hidle : ∀ d ∈ j.cores, (s.core d).isIdle = true) : LaunchKeeps n s (launchJob s j entry queue args) := by
  intro hn
  obtain ⟨-, hnext, hjob, -⟩ := launchJob_spec s j entry queue args
  refine ⟨hnext ▸ Nat.lt_succ_of_lt hn, hjob n (Nat.ne_of_lt hn), fun d hd => launchJob_core_ne s j entry queue args fun hm => ?_⟩
  exact Bool.false_ne_true (hd.symm.trans (hidle d hm))

/-- The launch of a free job: its command starts, and a job with its fields begins on the cores (R135, R255). -/
theorem launchFree_launches (s : State) (p qn : Nat) {c : Cmd} (cores : List Nat) {m : Nat} {feat : BitVec 2} {hm om : BitVec 8}
    {prog : W32} {off len entry bound : Nat} {args : List W64} (hb : c.body = .launch m feat hm om prog off len entry bound args) :
    ∃ u j, launchFree s p qn c cores = launchJob u j entry qn args ∧ Only [.queues, .rgParts] s u ∧
      j.kind = .free qn c.index c.seqNo ∧ j.part = p ∧ j.cores = cores ∧ j.bound = bound ∧ j.killLimit = bound ∧ j.features = feat ∧
      j.kill = none := by
  unfold launchFree
  rw [hb]
  refine ⟨_, _, rfl, ?_, rfl, rfl, rfl, rfl, rfl, rfl, rfl⟩
  refine (State.modRgPart_only _ _ _).step (by decide) ?_
  exact Only.modQ (by decide) (fun _ => modCmd_sub _ _ _ fun _ h => h) (.refl _ s)

theorem launchFree_keeps (n : Nat) (s : State) (p qn : Nat) (c : Cmd) {cores : List Nat} (hidle : ∀ d ∈ cores, (s.core d).isIdle = true) :
    LaunchKeeps n s (launchFree s p qn c cores) := by
  by_cases hb : ∃ m feat hm om prog off len entry bound args, c.body = .launch m feat hm om prog off len entry bound args
  · obtain ⟨m, feat, hm, om, prog, off, len, entry, bound, args, hb⟩ := hb
    obtain ⟨u, j, e, hu, -, -, hcores, -⟩ := launchFree_launches s p qn cores hb
    have hcore (d : Nat) : u.core d = s.core d := congrArg (tget Core.reset · d) (hu .cores (by decide))
    rw [e]
    refine (LaunchKeeps.of_only hu n (by decide) (by decide) (by decide)).trans (launchJob_keeps n u j entry qn args fun d hd => ?_)
    rw [hcore]
    exact hidle d (hcores ▸ hd)
  · have e : launchFree s p qn c cores = s := by
      unfold launchFree
      split
      · next h => exact absurd ⟨_, _, _, _, _, _, _, _, _, _, h⟩ hb
      · rfl
    rw [e]
    exact .refl n s

/-! ## Offers -/

theorem freeEligible_idle {s : State} {r : Running} {p w d : Nat} (h : d ∈ s.freeEligible r p w) : (s.core d).isIdle = true := by
  unfold State.freeEligible at h
  split at h
  · exact absurd h List.not_mem_nil
  · exact (Bool.and_eq_true_iff.1 (List.mem_filter.1 h).2).1

theorem coresFor_idle {s : State} {r : Running} {p w d : Nat} {c : Cmd} (h : d ∈ s.coresFor r p w c) : (s.core d).isIdle = true := by
  unfold State.coresFor at h
  split at h
  · exact freeEligible_idle h
  · exact freeEligible_idle (List.mem_of_mem_filter h)

/-- A LAUNCH that is passed over for the window (R50). -/
def passOver (s : State) (p : Nat) (c : Cmd) : State :=
  (s.modRgPart p fun y => { y with passedOver := satInc y.passedOver }).modRun fun r => { r with passed := r.passed ++ [(p, c.seqNo)] }

/-- Cores that a LAUNCH may take whose share is cleared. -/
def State.clearedFor (s : State) (r : Running) (p w : Nat) (x : Nat × Cmd) : List Nat :=
  (s.coresFor r p w x.2).filter fun c => match s.shareOf (s.queue x.1).ctx p with
    | some y => !(s.core c).clearing y.2.off y.2.size
    | none => false

theorem offerOne_eq {s : State} {r : Running} (p : Nat) (w : Window) (t : Nat) (x : Nat × Cmd) (hr : s.run = some r) :
    offerOne p w t s x =
      if r.passed.contains (p, x.2.seqNo) || (s.coresFor r p w.index x.2).isEmpty then s
      else if !fits s r.img w t x.2.launchNeeds.2 then passOver s p x.2
      else if !s.offerable (s.queue x.1) x.2 || (s.clearedFor r p w.index x).length < x.2.launchNeeds.1 ||
          r.img.freeLimit p < s.freeCores p + x.2.launchNeeds.1 then s
      else launchFree s p x.1 x.2 ((s.clearedFor r p w.index x).take x.2.launchNeeds.1) := by
  unfold offerOne State.clearedFor passOver
  rw [hr]
  dsimp only
  cases s.shareOf (s.queue x.1).ctx p <;> rfl

theorem passOver_only (s : State) (p : Nat) (c : Cmd) : Only [.run, .rgParts] s (passOver s p c) :=
  (State.modRun_only _ _).step (by decide) ((State.modRgPart_only _ _ _).step (by decide) (.refl _ s))

theorem offerOne_keeps (n p : Nat) (w : Window) (t : Nat) (s : State) (x : Nat × Cmd) : LaunchKeeps n s (offerOne p w t s x) := by
  cases hr : s.run with
  | none =>
    unfold offerOne
    rw [hr]
    exact .refl n s
  | some r =>
    rw [offerOne_eq p w t x hr]
    split
    · exact .refl n s
    · split
      · exact .of_only (passOver_only s p x.2) n (by decide) (by decide) (by decide)
      · split
        · exact .refl n s
        · exact launchFree_keeps n s p x.1 x.2 fun d hd => coresFor_idle (List.mem_of_mem_filter (List.mem_of_mem_take hd))

theorem offers_keep (n p : Nat) (w : Window) (t : Nat) (l : List (Nat × Cmd)) (s : State) :
    LaunchKeeps n s (l.foldl (offerOne p w t) s) := by
  induction l generalizing s with
  | nil => exact .refl n s
  | cons x l ih => exact (offerOne_keeps n p w t s x).trans (ih _)

theorem offerRounds_keeps (n p : Nat) (w : Window) (t k : Nat) (s : State) : LaunchKeeps n s (offerRounds p w t k s) := by
  induction k generalizing s with
  | zero => exact .refl n s
  | succ k ih =>
    have h := offers_keep n p w t (s.offersFor p) s
    unfold offerRounds
    dsimp only
    split
    · exact h
    · refine h.trans (.trans ?_ (ih _))
      exact .of_only (pumpAll_only _) n (by decide) (by decide) (by decide)

/-- A round of offers in which nothing is launched is the last. -/
theorem offerAll_quiet {s u : State} {p : Nat} {w : Window} {t : Nat} (h : (s.offersFor p).foldl (offerOne p w t) s = u)
    (hn : u.nextJob = s.nextJob) : offerAll s p w t = regEval u := by
  unfold offerAll offerRounds
  dsimp only
  rw [h, if_pos hn]

/-- What a launch of the first offer leaves stands at the end. -/
theorem offerAll_launched {s v : State} {p : Nat} {w : Window} {t : Nat} {x : Nat × Cmd} {rest : List (Nat × Cmd)}
    (ho : s.offersFor p = x :: rest) (h : offerOne p w t s x = v) (hn : v.nextJob = s.nextJob + 1) :
    LaunchKeeps s.nextJob v (offerAll s p w t) := by
  have hv : s.nextJob < v.nextJob := hn ▸ Nat.lt_succ_self _
  have h1 := offers_keep s.nextJob p w t rest v
  have hne : (rest.foldl (offerOne p w t) v).nextJob ≠ s.nextJob := Nat.ne_of_gt (h1 hv).1
  unfold offerAll
  rw [offerRounds, ho, List.foldl_cons, h, if_neg hne]
  refine h1.trans (.trans (.of_only (pumpAll_only _) _ (by decide) (by decide) (by decide)) ((offerRounds_keeps _ p w t 15 _).trans ?_))
  exact .of_only (regEval_only _) _ (by decide) (by decide) (by decide)

theorem exec_freeLaunch {s : State} {r : Running} {p : BitVec 3} {w : Nat} {x : Window} (t : W32) (hr : s.run = some r)
    (hw : tfind r.openWin p.toNat = some w) (hx : r.img.window p.toNat w = some x) :
    exec (.freeLaunch p t) s = .next (if s.dispatches then offerAll s p.toNat x t.toNat else s) := by
  change execFreeLaunch p t s = _
  unfold execFreeLaunch
  rw [hr]
  dsimp only
  rw [hw]
  dsimp only
  rw [hx]

/-- Settles O15: the first offer is launched, passed over or left as R49 and R50 say, and what launches behind it takes another
number and other cores. -/
theorem freeLaunchFollowsTheRegulator : Obligations.FreeLaunchFollowsTheRegulator := by
  intro s r p w x t hr hw hx
  have e := exec_freeLaunch t hr hw hx
  refine ⟨fun hd => by rw [e, hd, if_neg Bool.false_ne_true], fun hd q c rest m feat hm om prog off len entry bound args ho hpass hoff hbody => ?_⟩
  rw [hd, if_pos rfl] at e
  intro cores free room
  have hneeds : c.launchNeeds = (m + 1, bound) := by
    unfold Cmd.launchNeeds
    rw [hbody]
  have hone := offerOne_eq p.toNat x t.toNat (q, c) hr
  dsimp only at hone
  rw [hneeds, hpass, Bool.false_or, hoff, Bool.not_true, Bool.false_or] at hone
  have hfree : s.clearedFor r p.toNat x.index (q, c) = free := rfl
  rw [hfree] at hone
  refine ⟨fun hfits hroom => ?_, fun hfits hcores hrest => ?_, fun h hrest => ?_⟩
  · have hne : cores.isEmpty = false := by
      cases hc : cores with
      | nil => exact absurd hroom.1 (by simp [free, hc])
      | cons d l => rfl
    have hn : ¬(decide (free.length < m + 1) || decide (r.img.freeLimit p.toNat < s.freeCores p.toNat + (m + 1))) = true := by
      obtain ⟨h1, h2⟩ := hroom
      simp only [Bool.or_eq_true, decide_eq_true_eq]
      omega
    rw [show (s.coresFor r p.toNat x.index c).isEmpty = false from hne, if_neg Bool.false_ne_true, hfits, Bool.not_true,
      if_neg Bool.false_ne_true, if_neg hn] at hone
    obtain ⟨u, j, hl, hu, hkind, hpart, hjc, hjb, hjk, hjf, hjn⟩ := launchFree_launches s p.toNat q (free.take (m + 1)) hbody
    rw [hl] at hone
    have hnext : u.nextJob = s.nextJob := hu .nextJob (by decide)
    obtain ⟨hjob, hlater, -, hbegin, -⟩ := launchJob_spec u j entry q args
    rw [hnext] at hjob hlater hbegin
    obtain ⟨v, hv⟩ : ∃ v, v = launchJob u j entry q args := ⟨_, rfl⟩
    rw [← hv] at hone hjob hlater hbegin
    obtain ⟨hlt, hsame, hcores⟩ := offerAll_launched ho hone hlater (hlater ▸ Nat.lt_succ_self _)
    refine ⟨_, e, ⟨j, hsame.trans hjob, hkind, hpart, hjc, hjb, hjk, hjf, hjn⟩, hlt, fun hnodup i d hi => ?_,
      Only.wider (exec_only (.freeLaunch p t) s _ e) rfl⟩
    have hb := (hbegin (hjc ▸ hnodup)).1 i d (hjc ▸ hi)
    have hbusy : (v.core d).isIdle = false := by rw [hb]; rfl
    rw [hcores d hbusy, hb]
    exact begin_begun _ _ _ _ _ _ _
  · have hne : cores.isEmpty = false := by simpa using hcores
    rw [show (s.coresFor r p.toNat x.index c).isEmpty = false from hne, if_neg Bool.false_ne_true, hfits, Bool.not_false, if_pos rfl] at hone
    have hall := offerAll_quiet (s := s) (p := p.toNat) (w := x) (t := t.toNat) (u := passOver s p.toNat c)
      (by rw [ho, hrest, List.foldl_cons, List.foldl_nil, hone]) (passOver_only s p.toNat c .nextJob (by decide))
    rw [e, hall]
    rfl
  · have hstay : offerOne p.toNat x t.toNat s (q, c) = s := by
      rw [hone]
      split
      · rfl
      · next hne =>
        rcases h with ⟨hfits, hroom⟩ | hc
        · have hfull : (decide (free.length < m + 1) || decide (r.img.freeLimit p.toNat < s.freeCores p.toNat + (m + 1))) = true := by
            simp only [Bool.or_eq_true, decide_eq_true_eq]
            rcases not_and_or.1 hroom with h | h
            · exact .inl (by omega)
            · exact .inr (by omega)
          rw [hfits, Bool.not_true, if_neg Bool.false_ne_true, if_pos hfull]
        · exact absurd (show (s.coresFor r p.toNat x.index c).isEmpty = true by simpa using hc) hne
    rw [e, offerAll_quiet (s := s) (u := s) (by rw [ho, hrest, List.foldl_cons, List.foldl_nil, hstay]) rfl]

end Sys2Proof.Machine
end

section
/-! SUPPORT. O43: an INST_RESET that meets an instance table whose entries do not stand in rising order (R374, R393). -/

namespace Sys2Proof.Machine

/-- An ENABLED instance whose pool holds key slots 0 and 1. -/
def keyHolder : Inst := { Inst.reset with state := .enabled, pools := { Pools.reset with keyCount := 2 } }

/-- A block past start-up with key slot 1 LOADED. The instance table lists instance 3 before instance 0, and both hold the slot. -/
def outOfOrder : State :=
  { State.reset with
    boot := { Boot.reset with state := .ready }, insts := [(3, keyHolder), (0, keyHolder)],
    sec := { State.reset.sec with keys := [(1, some 5#512)] } }

/-- The manager's INST_RESET of instance 3. -/
def resetThree : MbReq :=
  { who := { inst := 0#6, valid := true }, page := 0#6, seq := 1#16, w0 := 0#64, w1 := 3#64, w2 := 0#64, w3 := 0#64, w4 := 0#64,
    w5 := 0#64, w6 := 0#64, w7 := 0#64 }

theorem resetThree_clear : MbClear outOfOrder resetThree (reqWords resetThree 0x13) := by
  unfold MbClear MbTakes PageMay
  decide +kernel

/-- A command answers a next state in which key slot 1 is still LOADED. -/
def keepsKeyOne : Host.Outcome State Fault Refusal → Bool
  | .next t => t.keyLoaded 1
  | _ => false

/-- The request's words are written into instance 0, whose entry so comes to stand before that of instance 3: slot 1 then counts as
a key of instance 0, and the reset of instance 3 does not erase it. -/
theorem resetThree_keepsKeyOne : keepsKeyOne (exec (.instReset resetThree) outOfOrder) = true := by decide +kernel

/-- Refutes O43: in `outOfOrder` slot 1 is a key of instance 3, which holds no context, and INST_RESET of instance 3 leaves it
LOADED. -/
theorem not_teardownRunsItsSteps : ¬Obligations.TeardownRunsItsSteps := by
  intro ⟨h, _⟩
  obtain ⟨t, e, -, -, -, -, -, hkeys, -⟩ := ((h outOfOrder resetThree).2.2 resetThree_clear).2.2 (by decide +kernel) (by decide +kernel)
    (by decide +kernel) (by decide +kernel)
  have herased : t.keyLoaded 1 = false := hkeys 1 (by decide +kernel)
  have hkept := resetThree_keepsKeyOne
  rw [e] at hkept
  exact absurd (hkept.symm.trans herased) (by decide)

end Sys2Proof.Machine
end
